-- ==== Sys2Proof/Word.lean ====
section
/-!
DEFINITION. Words, bytes and sparse tables: the plainest types of the model.
-/

namespace Sys2Proof

/-- A byte. -/
abbrev Byte := BitVec 8

/-- A 64-bit word of a register or structure (R10). -/
abbrev W64 := BitVec 64

/-- A 32-bit word. -/
abbrev W32 := BitVec 32

/-- A sparse table: pairs of a key and a value, keys strictly rising, no pair whose value is
what its key reads as when it is not listed. -/
abbrev Tab (α : Type) := List (Nat × α)

/-- Bits `[lo + n - 1 : lo]` of a natural number (R5). -/
def bits (w lo n : Nat) : Nat := (w >>> lo) % 2 ^ n

/-- Bit `n` of a natural number (R5). -/
def bit (w n : Nat) : Bool := (w >>> n) % 2 == 1

/-- A number as a two's complement value of `n` bits. -/
def signed (n w : Nat) : Int :=
  let v := w % 2 ^ n
  if v < 2 ^ (n - 1) then (v : Int) else (v : Int) - (2 ^ n : Nat)

/-- The low `n` bits of an integer (R17: a value assigned to a field keeps its low bits). -/
def unsigned (n : Nat) (v : Int) : Nat := (v % ((2 ^ n : Nat) : Int)).toNat

/-- The quotient rounded up, for a positive divisor. -/
def ceilDiv (a b : Nat) : Nat := (a + b - 1) / b

/-- `n` rounded up to a multiple of `k`. -/
def roundUp (n k : Nat) : Nat := ceilDiv n k * k

/-- A truth value as a bit. -/
def b2n (b : Bool) : Nat := if b then 1 else 0

end Sys2Proof
end

