-- ==== Sys2Proof/Syntax.lean ====
section
/-!
DEFINITION. The commands of the block: one constructor of `Instr` for each row of the command table, and the
operand types they carry.
-/

namespace Sys2Proof

/-- A slot header (R32) with the two bundle header fields that a bundle of one slot needs: VAR and CTX_HINT (R31). -/
structure SlotHdr where
  pred : BitVec 4
  pneg : Bool
  var : Bool
  hint : BitVec 2
  deriving DecidableEq, Repr

/-- The operand fields of a scalar slot (R42). `slotB`: scalar B. `imm`: OPC[7], the immediate form. -/
structure ScalarF where
  slotB : Bool
  imm : Bool
  rd : BitVec 6
  rs1 : BitVec 6
  rs2 : BitVec 6
  immv : BitVec 48
  deriving DecidableEq, Repr

/-- The operand fields of a mover slot (R42). -/
structure MoverF where
  desc : BitVec 6
  asrc : BitVec 5
  adst : BitVec 5
  tag : BitVec 4
  semen : Bool
  semdie : Bool
  sem : BitVec 12
  offsSrc : BitVec 32
  offsDst : BitVec 32
  deriving DecidableEq, Repr

/-- The operand fields of the matrix slot (R42). -/
structure MatrixF where
  td : BitVec 4
  aa : BitVec 5
  ab : BitVec 5
  kch : BitVec 12
  fmta : BitVec 4
  fmtb : BitVec 4
  acc : Bool
  trb : Bool
  desc : BitVec 6
  chain : BitVec 3
  adst : BitVec 5
  offs : BitVec 32
  deriving DecidableEq, Repr

/-- The operand fields of the vector slot (R42). -/
structure VectorF where
  imm : Bool
  vd : BitVec 5
  vs1 : BitVec 5
  vs2 : BitVec 5
  vs3 : BitVec 5
  ss : BitVec 6
  et : BitVec 3
  pd : BitVec 4
  imm32 : W32
  deriving DecidableEq, Repr

/-- The operand fields of the special slot (R42). -/
structure SpecialF where
  vd : BitVec 5
  vs1 : BitVec 5
  vs2 : BitVec 5
  prog : BitVec 8
  et : BitVec 3
  imm32 : W32
  deriving DecidableEq, Repr

/-- The operand fields of the sync slot (R42). -/
structure SyncF where
  imm : Bool
  rd : BitVec 6
  rs : BitVec 6
  idx : BitVec 12
  die : Bool
  tagmask : BitVec 16
  fmask : BitVec 3
  imm32 : W32
  deriving DecidableEq, Repr

/-- The operations of the scalar slots (R43, R44, R45). -/
inductive ScalarOp where
  | add | sub | and | or | xor | shl | shr | sra | min | max | minu | maxu
  | mul | mulh | mulhu | div | divu | rem | remu
  | cmpEq | cmpNe | cmpLt | cmpLtu | cmpGe | cmpGeu
  | adda | mova | movs | rdsr
  | ld8 | ld16 | ld32 | ld64 | st8 | st16 | st32 | st64
  | br | brz | brnz | brdec | call | jr | endOp
  deriving DecidableEq, Repr

/-- The operations of the load mover (the first three, R46) and of the store mover (R47). -/
inductive MoverOp where
  | tld | tldz | tcpy | tst | tstAddf | tstAddi
  deriving DecidableEq, Repr

/-- The operations of the matrix slot (R48). -/
inductive MatrixOp where
  | mmul | mdrain | mfree | lrun
  deriving DecidableEq, Repr

/-- The operations of the vector slot (R49). -/
inductive VectorOp where
  | vadd | vsub | vmul | vmin | vmax | vfma | vabs | vneg | vand | vor | vxor | vshl | vshr | vsra
  | vcmpEq | vcmpNe | vcmpLt | vcmpLe | vsel | vcvt | vperm | vbcast | vredAdd | vredMax | vredMin
  | vld | vst | rng | vidx
  deriving DecidableEq, Repr

/-- The operations of the special slot (R50). -/
inductive SpecialOp where
  | sfu | sfuGate | tblCommit
  deriving DecidableEq, Repr

/-- The operations of the sync slot (R51). -/
inductive SyncOp where
  | fence | mwait | semSig | semWait | semTake | semRd | claim | fbar
  deriving DecidableEq, Repr

/-- One operation of a slot with its operand fields. -/
inductive SlotOp where
  | scalar (o : ScalarOp) (f : ScalarF)
  | mover (o : MoverOp) (f : MoverF)
  | matrix (o : MatrixOp) (f : MatrixF)
  | vector (o : VectorOp) (f : VectorF)
  | special (o : SpecialOp) (f : SpecialF)
  | sync (o : SyncOp) (f : SyncF)
  deriving DecidableEq, Repr

/-- A kind of engine that carries launches (R14). -/
inductive EngineKind where
  | core | fox | prim
  deriving DecidableEq, Repr

/-- A unit whose memory or datapath can fail (R361): an engine, an Iris core, or a hub block. -/
inductive UnitKind where
  | core | fox | prim | irisEnc | irisDec | hub
  deriving DecidableEq, Repr

/-- What a read of a stored line found (R206, R208). -/
inductive EccFind where
  | clean | corrected | uncorrectable
  | miscorrected (line : BitVec 512)   -- an error of three or more symbols, corrected to this wrong line
  | missed (line : BitVec 512)         -- an error of three or more symbols that the code does not see: the line reads so
  deriving DecidableEq, Repr

/-- What the world outside made of a background command (log 11). -/
inductive BgFind where
  | done            -- nothing outside stood in its way
  | domainDiffers   -- another module's configuration contradicts this one (R321, R340)
  | linkDown        -- a needed port has no partner UP (R321, R340)
  | sourceLost      -- the command's source could not be read (R237, R279)
  | unitFails       -- the tested unit failed its test (R279)
  deriving DecidableEq, Repr

/-- The header fields of a mailbox command entry (R259). -/
structure CmdHdr where
  slot : BitVec 12
  tag : W32
  wait : Bool
  irq : Bool
  deriving DecidableEq, Repr

/-- A flit as it arrives on a port: its 272 bytes (R312), the FEC codewords corrected in it, the uncorrectable codewords that begin in
it, each of which may reach into later flits, and whether an uncorrectable codeword overlaps it (R313, R318). -/
structure Flit where
  bytes : List Byte
  corrected : Nat
  unc : Nat
  uncorrectable : Bool
  deriving DecidableEq, Repr

/-- What the partner of a training port sent in its TRAIN flits (R317). -/
structure TrainInfo where
  answers : Bool
  verLo : Nat
  verHi : Nat
  serial : W64
  domain : W32
  x : Nat
  y : Nat
  z : Nat
  port : Nat
  deriving DecidableEq, Repr

/-- What arrives for a collective queue or a forwarding channel: a chunk, or, from a receiver, that its RECV has started (R334), that it
has accepted a chunk (R329), or that a chunk is to be sent again (R333). The last three name the chunk by its header words. -/
inductive ChunkKind where
  | data | ready | taken | again
  deriving DecidableEq, Repr

/-- One chunk as it arrives from a member: its packet header words, the address and data of each of its
packets, the CRC it carries (R315, R333),
the port it crossed and, in verified mode, whether the sender's digest agreed (R339). -/
structure Chunk where
  what : ChunkKind
  src : Nat
  word0 : W64
  sig : W64
  word2 : W64
  packets : List (BitVec 48 × List Byte)
  ccrc : W32
  port : Nat
  hOk : Bool
  deriving DecidableEq, Repr

/-- Which module read of host memory failed (R414). -/
inductive HostRead where
  | mailboxRing (m : Nat)
  | queueRing (q : Nat)
  | command (m tag : Nat)
  | copy (q k : Nat)
  deriving DecidableEq, Repr

/-- What a start from step 3 finds (R423, R424, R442): which of its checks succeed. -/
structure BootFind where
  romOk : Bool
  trimA : Bool
  trimB : Bool
  vmajOk : Bool                        -- the trim record's version is 1
  hwOk : Bool
  dramOk : Bool
  flashOk : Bool
  ports : List Nat
  units : List (Nat × Nat)             -- quarantined units that pass Marigold's test (R364): kind and physical number
  deriving DecidableEq, Repr

/-- What a configuration read asks for (R401, R402, R413); `other`: a register that the PCIe specification gives and this one does not. -/
inductive CfgField where
  | vendor | device | classCode | revision | totalVfs | initialVfs | messageNumber | other
  deriving DecidableEq, Repr

/-- A configuration request to a function (R401, R402, R403, R412, R413, R414). -/
inductive CfgReq where
  | read (what : CfgField)
  | busMaster (on : Bool)
  | msixEnable (on : Bool)
  | msixMask (on : Bool)
  | vfEnable (on : Bool)
  | relaxedOrdering (on : Bool)
  | timeout (code : BitVec 4)
  | barSize (log2MiB : Nat)
  deriving DecidableEq, Repr

/-- What a codeword's read found: `errs`, its bit errors, and `ok`, whether the soft decode, or each peer of the rebuild, decoded (R235,
R236). -/
structure CodewordFind where
  errs : Nat
  ok   : Bool
  deriving DecidableEq, Repr

/-- The commands of the block, one for each row of the command table, in the table's order. `c x`: core and context; `m`: mailbox; `q`: queue pair; `p`: partition or function. -/
inductive Instr where
  /-- BUNDLE_ISSUE In a cycle the core picks a ready context and issues its next bundle, whose valid slots read their operands and execute together. (R40) -/
  | bundleIssue (c : Nat)
  /-- ICACHE_LINE_FILL A missed instruction line arrives from DRAM and the waiting context becomes ready. (R59) -/
  | icacheLineFill (c x : Nat)
  /-- ADD Scalar add of two sources or a source and the immediate. (R43) -/
  | add (c x : Nat) (h : SlotHdr) (f : ScalarF)
  /-- SUB Scalar subtract. (R43) -/
  | sub (c x : Nat) (h : SlotHdr) (f : ScalarF)
  /-- AND Scalar bitwise and. (R43) -/
  | and (c x : Nat) (h : SlotHdr) (f : ScalarF)
  /-- OR Scalar bitwise or. (R43) -/
  | or (c x : Nat) (h : SlotHdr) (f : ScalarF)
  /-- XOR Scalar bitwise exclusive or. (R43) -/
  | xor (c x : Nat) (h : SlotHdr) (f : ScalarF)
  /-- SHL Scalar shift left by an amount modulo 64. (R43) -/
  | shl (c x : Nat) (h : SlotHdr) (f : ScalarF)
  /-- SHR Scalar logical shift right by an amount modulo 64. (R43) -/
  | shr (c x : Nat) (h : SlotHdr) (f : ScalarF)
  /-- SRA Scalar arithmetic shift right by an amount modulo 64. (R43) -/
  | sra (c x : Nat) (h : SlotHdr) (f : ScalarF)
  /-- MIN Scalar signed minimum. (R43) -/
  | min (c x : Nat) (h : SlotHdr) (f : ScalarF)
  /-- MAX Scalar signed maximum. (R43) -/
  | max (c x : Nat) (h : SlotHdr) (f : ScalarF)
  /-- MINU Scalar unsigned minimum. (R43) -/
  | minu (c x : Nat) (h : SlotHdr) (f : ScalarF)
  /-- MAXU Scalar unsigned maximum. (R43) -/
  | maxu (c x : Nat) (h : SlotHdr) (f : ScalarF)
  /-- MUL Low 64 bits of a scalar product. (R43) -/
  | mul (c x : Nat) (h : SlotHdr) (f : ScalarF)
  /-- MULH High 64 bits of a signed scalar product. (R43) -/
  | mulh (c x : Nat) (h : SlotHdr) (f : ScalarF)
  /-- MULHU High 64 bits of an unsigned scalar product. (R43) -/
  | mulhu (c x : Nat) (h : SlotHdr) (f : ScalarF)
  /-- DIV Signed division rounding toward zero, with defined results for zero divisors and overflow. (R43) -/
  | div (c x : Nat) (h : SlotHdr) (f : ScalarF)
  /-- DIVU Unsigned division, all ones for a zero divisor. (R43) -/
  | divu (c x : Nat) (h : SlotHdr) (f : ScalarF)
  /-- REM Signed remainder with the sign of the dividend. (R43) -/
  | rem (c x : Nat) (h : SlotHdr) (f : ScalarF)
  /-- REMU Unsigned remainder, the dividend for a zero divisor. (R43) -/
  | remu (c x : Nat) (h : SlotHdr) (f : ScalarF)
  /-- CMP_EQ Writes a predicate of all ones when the sources are equal. (R43) -/
  | cmpEq (c x : Nat) (h : SlotHdr) (f : ScalarF)
  /-- CMP_NE Writes a predicate for inequality. (R43) -/
  | cmpNe (c x : Nat) (h : SlotHdr) (f : ScalarF)
  /-- CMP_LT Writes a predicate for signed less than. (R43) -/
  | cmpLt (c x : Nat) (h : SlotHdr) (f : ScalarF)
  /-- CMP_LTU Writes a predicate for unsigned less than. (R43) -/
  | cmpLtu (c x : Nat) (h : SlotHdr) (f : ScalarF)
  /-- CMP_GE Writes a predicate for signed greater or equal. (R43) -/
  | cmpGe (c x : Nat) (h : SlotHdr) (f : ScalarF)
  /-- CMP_GEU Writes a predicate for unsigned greater or equal. (R43) -/
  | cmpGeu (c x : Nat) (h : SlotHdr) (f : ScalarF)
  /-- ADDA Adds a scalar or immediate to an address register modulo 2^48. (R43) -/
  | adda (c x : Nat) (h : SlotHdr) (f : ScalarF)
  /-- MOVA Moves the low 48 bits of a scalar into an address register. (R43) -/
  | mova (c x : Nat) (h : SlotHdr) (f : ScalarF)
  /-- MOVS Moves an address register into a scalar, zero-extended. (R43) -/
  | movs (c x : Nat) (h : SlotHdr) (f : ScalarF)
  /-- RDSR Reads a special register into a scalar. (R39) -/
  | rdsr (c x : Nat) (h : SlotHdr) (f : ScalarF)
  /-- LD_8 Loads a byte from the context's scratchpad window. (R44) -/
  | ld8 (c x : Nat) (h : SlotHdr) (f : ScalarF)
  /-- LD_16 Loads 16 bits from the scratchpad window. (R44) -/
  | ld16 (c x : Nat) (h : SlotHdr) (f : ScalarF)
  /-- LD_32 Loads 32 bits from the scratchpad window. (R44) -/
  | ld32 (c x : Nat) (h : SlotHdr) (f : ScalarF)
  /-- LD_64 Loads 64 bits from the scratchpad window. (R44) -/
  | ld64 (c x : Nat) (h : SlotHdr) (f : ScalarF)
  /-- ST_8 Stores a byte into the scratchpad window. (R44) -/
  | st8 (c x : Nat) (h : SlotHdr) (f : ScalarF)
  /-- ST_16 Stores 16 bits into the scratchpad window. (R44) -/
  | st16 (c x : Nat) (h : SlotHdr) (f : ScalarF)
  /-- ST_32 Stores 32 bits into the scratchpad window. (R44) -/
  | st32 (c x : Nat) (h : SlotHdr) (f : ScalarF)
  /-- ST_64 Stores 64 bits into the scratchpad window. (R44) -/
  | st64 (c x : Nat) (h : SlotHdr) (f : ScalarF)
  /-- BR Branches to PC + 128 x IMM, conditionally through the predicate. (R45) -/
  | br (c x : Nat) (h : SlotHdr) (f : ScalarF)
  /-- BRZ Branches if a scalar is zero. (R45) -/
  | brz (c x : Nat) (h : SlotHdr) (f : ScalarF)
  /-- BRNZ Branches if a scalar is nonzero. (R45) -/
  | brnz (c x : Nat) (h : SlotHdr) (f : ScalarF)
  /-- BRDEC Decrements a scalar and branches if the result is nonzero. (R45) -/
  | brdec (c x : Nat) (h : SlotHdr) (f : ScalarF)
  /-- CALL Saves the return address in s63 and branches. (R45) -/
  | call (c x : Nat) (h : SlotHdr) (f : ScalarF)
  /-- JR Branches to the address held in a scalar, which must be 128 B aligned. (R45) -/
  | jr (c x : Nat) (h : SlotHdr) (f : ScalarF)
  /-- END Ends the tile-thread after this bundle. (R45) -/
  | endOp (c x : Nat) (h : SlotHdr) (f : ScalarF)
  /-- TILE_THREAD_START A free context begins its next tile-thread of a launch in the state of R38. (R68) -/
  | tileThreadStart (c x l : Nat)
  /-- TLD Queues a load of a descriptor box from device memory into the own scratchpad. (R46) -/
  | tld (c x : Nat) (h : SlotHdr) (f : MoverF)
  /-- TLDZ Queues a fill of a box of the own scratchpad with zeros. (R46) -/
  | tldz (c x : Nat) (h : SlotHdr) (f : MoverF)
  /-- TCPY Queues a copy of a descriptor box between device addresses, written densely. (R46) -/
  | tcpy (c x : Nat) (h : SlotHdr) (f : MoverF)
  /-- TST Queues a store of dense scratchpad data into a descriptor box. (R47) -/
  | tst (c x : Nat) (h : SlotHdr) (f : MoverF)
  /-- TST_ADDF Queues a store that adds FP32 elements atomically into the destination. (R47) -/
  | tstAddf (c x : Nat) (h : SlotHdr) (f : MoverF)
  /-- TST_ADDI Queues a store that adds INT32 elements atomically, wrapping. (R47) -/
  | tstAddi (c x : Nat) (h : SlotHdr) (f : MoverF)
  /-- MOVER_OP_COMPLETE A mover operation's writes become visible; its tag count drops and its semaphore is signalled if SEMEN = 1. (R56) -/
  | moverOpComplete (c : Nat) (st : Bool) (x : Nat)
  /-- MMUL Queues a matrix product into an accumulator tile. (R48) -/
  | mmul (c x : Nat) (h : SlotHdr) (f : MatrixF)
  /-- MMUL_CHUNK_DONE The matrix unit finishes one 128-element chunk of an mmul and checks every entry for overflow. (R86) -/
  | mmulChunkDone (c : Nat)
  /-- MDRAIN Queues a drain of a tile through a drain chain to a destination. (R108) -/
  | mdrain (c x : Nat) (h : SlotHdr) (f : MatrixF)
  /-- DRAIN_START A drain starts once its tiles are drainable and the drain unit is free, and reads the tiles in 128 cycles. (R48) -/
  | drainStart (c : Nat)
  /-- DRAIN_RERUN A format-mapped drain whose SB exceeds SB_THRESH runs again at the next format of the ladder. (R100) -/
  | drainRerun (c : Nat)
  /-- DRAIN_WRITTEN A drain's output and tile status word are written 128 + 8n cycles after it started. (R130) -/
  | drainWritten (c : Nat)
  /-- MFREE Empties a tile without draining it once earlier mmuls into it have completed. (R109) -/
  | mfree (c x : Nat) (h : SlotHdr) (f : MatrixF)
  /-- LRUN Queues a Lupin run on a loop-nest table. (R48) -/
  | lrun (c x : Nat) (h : SlotHdr) (f : MatrixF)
  /-- LRUN_EXPAND_START An lrun reaches the head of the matrix queue; Lupin reads and checks its table chain and captures the address registers. (R116) -/
  | lrunExpandStart (c : Nat)
  /-- LUPIN_ITERATION Lupin expands one iteration vector into at most one A load, one B load, one mmul and one drain. (R117) -/
  | lupinIteration (c : Nat)
  /-- LRUN_COMPLETE An lrun's last drain is written and its semaphore is signalled if SEMEN = 1. (R122) -/
  | lrunComplete (c : Nat)
  /-- VADD Element-wise vector add. (R49) -/
  | vadd (c x : Nat) (h : SlotHdr) (f : VectorF)
  /-- VSUB Element-wise vector subtract. (R49) -/
  | vsub (c x : Nat) (h : SlotHdr) (f : VectorF)
  /-- VMUL Element-wise vector multiply. (R49) -/
  | vmul (c x : Nat) (h : SlotHdr) (f : VectorF)
  /-- VMIN Element-wise vector minimum. (R49) -/
  | vmin (c x : Nat) (h : SlotHdr) (f : VectorF)
  /-- VMAX Element-wise vector maximum. (R49) -/
  | vmax (c x : Nat) (h : SlotHdr) (f : VectorF)
  /-- VFMA Element-wise fused multiply-add with one rounding. (R49) -/
  | vfma (c x : Nat) (h : SlotHdr) (f : VectorF)
  /-- VABS Element-wise absolute value. (R49) -/
  | vabs (c x : Nat) (h : SlotHdr) (f : VectorF)
  /-- VNEG Element-wise negation. (R49) -/
  | vneg (c x : Nat) (h : SlotHdr) (f : VectorF)
  /-- VAND Element-wise bitwise and on integer types. (R49) -/
  | vand (c x : Nat) (h : SlotHdr) (f : VectorF)
  /-- VOR Element-wise bitwise or on integer types. (R49) -/
  | vor (c x : Nat) (h : SlotHdr) (f : VectorF)
  /-- VXOR Element-wise bitwise exclusive or on integer types. (R49) -/
  | vxor (c x : Nat) (h : SlotHdr) (f : VectorF)
  /-- VSHL Element-wise shift left by amounts modulo the element width. (R49) -/
  | vshl (c x : Nat) (h : SlotHdr) (f : VectorF)
  /-- VSHR Element-wise logical shift right. (R49) -/
  | vshr (c x : Nat) (h : SlotHdr) (f : VectorF)
  /-- VSRA Element-wise arithmetic shift right. (R49) -/
  | vsra (c x : Nat) (h : SlotHdr) (f : VectorF)
  /-- VCMP_EQ Writes a lane predicate for equality. (R49) -/
  | vcmpEq (c x : Nat) (h : SlotHdr) (f : VectorF)
  /-- VCMP_NE Writes a lane predicate for inequality. (R49) -/
  | vcmpNe (c x : Nat) (h : SlotHdr) (f : VectorF)
  /-- VCMP_LT Writes a lane predicate for less than. (R49) -/
  | vcmpLt (c x : Nat) (h : SlotHdr) (f : VectorF)
  /-- VCMP_LE Writes a lane predicate for less or equal. (R49) -/
  | vcmpLe (c x : Nat) (h : SlotHdr) (f : VectorF)
  /-- VSEL Selects per lane between two sources by a predicate. (R49) -/
  | vsel (c x : Nat) (h : SlotHdr) (f : VectorF)
  /-- VCVT Converts every lane between element types under R92. (R49) -/
  | vcvt (c x : Nat) (h : SlotHdr) (f : VectorF)
  /-- VPERM Permutes lanes by indices in a second source. (R49) -/
  | vperm (c x : Nat) (h : SlotHdr) (f : VectorF)
  /-- VBCAST Broadcasts a scalar into every lane. (R49) -/
  | vbcast (c x : Nat) (h : SlotHdr) (f : VectorF)
  /-- VRED_ADD Adds the active lanes in a fixed pairwise tree into a scalar. (R49) -/
  | vredAdd (c x : Nat) (h : SlotHdr) (f : VectorF)
  /-- VRED_MAX Reduces the active lanes to their maximum in a scalar. (R49) -/
  | vredMax (c x : Nat) (h : SlotHdr) (f : VectorF)
  /-- VRED_MIN Reduces the active lanes to their minimum in a scalar. (R49) -/
  | vredMin (c x : Nat) (h : SlotHdr) (f : VectorF)
  /-- VLD Loads 256 elements from the scratchpad window. (R49) -/
  | vld (c x : Nat) (h : SlotHdr) (f : VectorF)
  /-- VST Stores 256 elements into the scratchpad window. (R49) -/
  | vst (c x : Nat) (h : SlotHdr) (f : VectorF)
  /-- RNG Writes counter-based random words from the generator of R350 into the lanes. (R49) -/
  | rng (c x : Nat) (h : SlotHdr) (f : VectorF)
  /-- VIDX Writes the lane index plus an immediate into each lane. (R49) -/
  | vidx (c x : Nat) (h : SlotHdr) (f : VectorF)
  /-- SFU Runs a special-function micro-program on every active lane. (R160) -/
  | sfu (c x : Nat) (h : SlotHdr) (f : SpecialF)
  /-- SFU_GATE Multiplies one source by a micro-program of another with one rounding. (R160) -/
  | sfuGate (c x : Nat) (h : SlotHdr) (f : SpecialF)
  /-- TBL_COMMIT Marks a table's inactive bank pending and starts its check. (R180) -/
  | tblCommit (c x : Nat) (h : SlotHdr) (f : SpecialF)
  /-- TBL_CHECK_DONE The SFU finishes checking a committed program record; a failed check raises ILLEGAL_BUNDLE and clears the pending state. (R180) -/
  | tblCheckDone (c t : Nat)
  /-- TABLE_SWITCH Once every earlier user has finished, a pending table's active bank flips and its pending bit clears. (R181) -/
  | tableSwitch (c t : Nat)
  /-- FENCE Makes the context wait until earlier operations of the selected units have completed. (R51) -/
  | fence (c x : Nat) (h : SlotHdr) (f : SyncF)
  /-- FENCE_SATISFIED The operations a fence waits on have completed and the context becomes ready. (R51) -/
  | fenceSatisfied (c x : Nat)
  /-- MWAIT Makes the context wait until the named mover tag counts reach zero. (R51) -/
  | mwait (c x : Nat) (h : SlotHdr) (f : SyncF)
  /-- MWAIT_SATISFIED The awaited tag counts reach zero and the context becomes ready. (R56) -/
  | mwaitSatisfied (c x : Nat)
  /-- SEM_SIG Sends an increment to a semaphore's home without blocking. (R51) -/
  | semSig (c x : Nat) (h : SlotHdr) (f : SyncF)
  /-- SEM_SIG_APPLY A signal arrives at the semaphore's home and is added to its value. (R62) -/
  | semSigApply (k : Nat)
  /-- SEM_WAIT Makes the context wait until a semaphore reaches a threshold. (R51) -/
  | semWait (c x : Nat) (h : SlotHdr) (f : SyncF)
  /-- SEM_WAIT_SATISFIED A waited semaphore reaches its threshold and the waiter continues. (R62) -/
  | semWaitSatisfied (c x : Nat)
  /-- SEM_TAKE Waits until a semaphore holds n, then subtracts n atomically. (R51) -/
  | semTake (c x : Nat) (h : SlotHdr) (f : SyncF)
  /-- SEM_TAKE_SERVED The home serves the oldest waiting sem.take once its n is met. (R62) -/
  | semTakeServed (die i : Nat)
  /-- SEM_RD Reads a semaphore's value into a scalar. (R51) -/
  | semRd (c x : Nat) (h : SlotHdr) (f : SyncF)
  /-- CLAIM Fetches and adds to a claim counter at its home. (R63) -/
  | claim (c x : Nat) (h : SlotHdr) (f : SyncF)
  /-- FBAR Counts an arrival at a fabric barrier and makes the context wait. (R324) -/
  | fbar (c x : Nat) (h : SlotHdr) (f : SyncF)
  /-- BARRIER_OPEN All members have counted their arrivals; the barrier opens, waiters continue and its epoch increases. (R324) -/
  | barrierOpen (p i : Nat) (remote : Bool)
  /-- LAUNCH_COMPLETE All tile-threads, items or jobs and their operations have finished and the launch's completion is formed. (R70) -/
  | launchComplete (l : Nat)
  /-- FOX_ITEM_START A Foxglove unit reads its next work item and waits on its semaphore if WEN = 1. (R136) -/
  | foxItemStart (u : Nat)
  /-- MAP_EPOCH_PIN The unit pins the map epoch once LOCK is clear, reads the lengths and checks the item. (R154) -/
  | mapEpochPin (u : Nat)
  /-- FOX_LAB_FILL The walker's reads for a look-aside miss return and are checked and filled into the buffer. (R152) -/
  | foxLabFill (u page : Nat)
  /-- FOX_BLOCK_COMPUTE The arrays compute one visited key block for one head and update the running soft maximum. (R142) -/
  | foxBlockCompute (u : Nat)
  /-- FOX_ITEM_COMPLETE An item's outputs become visible; it releases its epoch pin and signals SSEM. (R145) -/
  | foxItemComplete (u : Nat)
  /-- MAP_EDIT_BATCH With LOCK set, the firmware applies queued page-map edits, invalidates walkers, increments EPOCH and clears LOCK. (R156) -/
  | mapEditBatch (m : Nat)
  /-- PRIM_JOB_START A Primrose engine reads its next job, waits on its semaphore and checks it. (R191) -/
  | primJobStart (e : Nat)
  /-- PRIM_JOB_COMPLETE A CONV or CSC job's outputs become visible and SSEM is signalled. (R194) -/
  | primJobComplete (e : Nat)
  /-- ENGINE_DISPATCH An engine that becomes free is given to the first LC launch or the BE launch chosen by virtual time. (R291) -/
  | engineDispatch (k : EngineKind) (n : Nat)
  /-- HOT_WINDOW_END A 16,384-cycle window ends; a hot window is counted and recorded for the firmware. (R202) -/
  | hotWindowEnd (die ch lines total gran : Nat)
  /-- DRAM_ROW_SPARE A row with 8 corrected errors in 24 h is copied into a spare row and redirected. (R206) -/
  | dramRowSpare (die ch row : Nat)
  /-- DRAM_PATROL_SCRUB The patrol scrub reads the next line in its 24 h sweep. (R208) -/
  | dramPatrolScrub (die : Nat) (e : EccFind)
  /-- DRAM_REFRESH A channel's refresh counter refreshes the next rows. (R210) -/
  | dramRefresh (die ch : Nat)
  /-- DRAM_CHANNEL_POWER_DOWN A channel without requests for 1 µs powers down. (R434) -/
  | dramChannelPowerDown (die ch : Nat)
  /-- REGION_DRAIN_DONE Operations checked against a region being removed or reduced have completed and the change takes effect. (R215) -/
  | regionDrainDone (p i : Nat)
  /-- WW_POSITION_READ Once the slot-free semaphores allow, the streamer reads the next layer position into its slot of every home. (R223) -/
  | wwPositionRead (w : Nat)
  /-- WW_LAYER_READY A layer position is complete and visible and RDY is signalled on every home's die. (R223) -/
  | wwLayerReady (w : Nat)
  /-- WW_RUNG_READY A requested rung is complete in the side slot and RSEM is signalled. (R226) -/
  | wwRungReady (w : Nat)
  /-- FLASH_DECODE_RESULT A codeword read or retry rung returns; success ends the read, failure starts the next rung. (R235) -/
  | flashDecodeResult (k : Nat) (r : CodewordFind)
  /-- FLASH_RELOCATE The controller writes a block's data to a new location and switches the map in one journal update. (R238) -/
  | flashRelocate (blk dst : Nat)
  /-- PROGRAM_FAILURE A page program fails and the block becomes grown bad. (R238) -/
  | programFailure (blk : Nat)
  /-- ERASE_FAILURE A block erase fails and the block becomes grown bad. (R238) -/
  | eraseFailure (blk : Nat)
  /-- DIE_FAILED A die stops responding or fails three erases in 24 h and is served by rebuild. (R237) -/
  | dieFailed (d : Nat)
  /-- DIE_REBUILD Background rewriting of a failed die's valid data into other dies proceeds. (R237) -/
  | dieRebuild (d n : Nat)
  /-- READ_COUNT_CHECK A block's read counter reaches 1,000,000; the block is checked and relocated or reset. (R239) -/
  | readCountCheck (blk errs retries : Nat)
  /-- RETENTION_SCRUB The retention scrub reads the next oldest-scrubbed block. (R240) -/
  | retentionScrub (blk errs retries : Nat)
  /-- STATIC_WEAR_LEVEL An erase count gap above 300 relocates the least-erased stripe block. (R241) -/
  | staticWearLevel (g q : Nat)
  /-- GARBAGE_COLLECTION Valid stripe rows of a stripe block are relocated before it is erased. (R241) -/
  | garbageCollection (g q : Nat)
  /-- FLASH_CHANNEL_POWER_DOWN A flash channel interface without operations for 100 µs powers down. (R434) -/
  | flashChannelPowerDown (ch : Nat)
  /-- WEAR_GOVERNOR_TICK Each second the governor accrues credit and sets its state and k. (R246) -/
  | wearGovernorTick 
  /-- MBX_CTRL_WRITE A write to MBX_CTRL enables or disables a mailbox, resetting indices and checking the ring bases. (R257) -/
  | mbxCtrlWrite (m : Nat) (v : W64)
  /-- MBX_CMD_TAIL_WRITE The host's doorbell hands command entries to the firmware. (R263) -/
  | mbxCmdTailWrite (m : Nat) (v : W64)
  /-- MBX_CMP_HEAD_WRITE The host frees completion slots, letting held completions be posted. (R261) -/
  | mbxCmpHeadWrite (m : Nat) (v : W64)
  /-- MAILBOX_TURN The firmware serves one mailbox in round robin, accepting entries and starting at most one command. (R263) -/
  | mailboxTurn 
  /-- BG_COMMAND_FINISH A background command's hub work finishes and its completion becomes due. (R264) -/
  | bgCommandFinish (m tag : Nat) (o : BgFind)
  /-- COMPLETION_POST The firmware writes due completions into the ring while it has room and ends the posting batch. (R261) -/
  | completionPost (m : Nat)
  /-- CP_WATCHDOG_EXPIRE The firmware fails to restart the watchdog for 20 ms and the control processor resets. (R255) -/
  | cpWatchdogExpire 
  /-- CP_SRAM_UNCORRECTABLE An uncorrectable control-processor SRAM error resets the control processor. (R255) -/
  | cpSramUncorrectable 
  /-- CP_RESTART_DONE The restarted firmware reloads the journal, replays outstanding commands and resumes serving. (R266) -/
  | cpRestartDone 
  /-- OPEN_SESSION Negotiates versions and features and opens a session. (R268) -/
  | openSession (m : Nat) (h : CmdHdr) (resp mbx img pkg snap feats : W64)
  /-- CLOSE_SESSION Closes the mailbox's session. (R267) -/
  | closeSession (m : Nat) (h : CmdHdr)
  /-- FENCE_COMMAND Completes after every earlier command of the mailbox has finished. (R279) -/
  | fenceCommand (m : Nat) (h : CmdHdr)
  /-- ABORT Stops, removes or lets finish a command or pending edit named by its TAG. (R274) -/
  | abort (m : Nat) (h : CmdHdr) (target : W64)
  /-- GET_INFO Writes the version, feature and identity block. (R270) -/
  | getInfo (m : Nat) (h : CmdHdr) (resp : W64)
  /-- NOP Returns ROM_VER and PATCH_LEVEL. (R279) -/
  | nop (m : Nat) (h : CmdHdr)
  /-- REGION_CREATE Creates a region map entry, zeroing newly allocated granules. (R212) -/
  | regionCreate (m : Nat) (h : CmdHdr) (index baseg lastg flags : W64)
  /-- REGION_REMOVE Removes a region after draining operations checked against it. (R215) -/
  | regionRemove (m : Nat) (h : CmdHdr) (index : W64)
  /-- REGION_PERM Changes a region's permissions. (R215) -/
  | regionPerm (m : Nat) (h : CmdHdr) (index flags : W64)
  /-- REGION_QUERY Returns a region entry and its HOTCH count. (R279) -/
  | regionQuery (m : Nat) (h : CmdHdr) (index : W64)
  /-- REGION_GRANT Grants or withdraws granules to another partition. (R212) -/
  | regionGrant (m : Nat) (h : CmdHdr) (baseg lastg part enable : W64)
  /-- IMG_LOAD Checks and loads a program image, assigns a handle and invalidates instruction caches. (R276) -/
  | imgLoad (m : Nat) (h : CmdHdr) (src len index : W64)
  /-- IMG_UNLOAD Frees an image handle. (R276) -/
  | imgUnload (m : Nat) (h : CmdHdr) (handle : W64)
  /-- IMG_QUERY Writes information about an image. (R279) -/
  | imgQuery (m : Nat) (h : CmdHdr) (handle resp : W64)
  /-- TBL_LOAD Checks a table and loads and commits it on every core of the partition. (R466) -/
  | tblLoad (m : Nat) (h : CmdHdr) (tid src : W64)
  /-- PART_CREATE Creates a partition with its ranges and quotas. (R281) -/
  | partCreate (m : Nat) (h : CmdHdr) (part pb : W64)
  /-- PART_DESTROY Destroys a partition and frees its resources. (R279) -/
  | partDestroy (m : Nat) (h : CmdHdr) (part : W64)
  /-- PART_ASSIGN Assigns reserved and shared engines and allocates save areas. (R282) -/
  | partAssign (m : Nat) (h : CmdHdr) (part pb : W64)
  /-- PART_CONFIG Sets class, VARFAULT, share and regulators of a partition. (R283) -/
  | partConfig (m : Nat) (h : CmdHdr) (part pb : W64)
  /-- QP_CREATE Creates a queue pair. (R284) -/
  | qpCreate (m : Nat) (h : CmdHdr) (qp pb : W64)
  /-- QP_DESTROY Stops and destroys a queue pair after its started entries retire. (R467) -/
  | qpDestroy (m : Nat) (h : CmdHdr) (qp : W64)
  /-- QP_QUERY Writes a queue pair's charges and ring indices. (R462) -/
  | qpQuery (m : Nat) (h : CmdHdr) (qp resp : W64)
  /-- SEQ_QUERY Returns an active-sequence table entry. (R302) -/
  | seqQuery (m : Nat) (h : CmdHdr) (entry resp : W64)
  /-- SEQ_REMOVE Frees a sequence at the next step boundary with an ST_ABORTED completion. (R304) -/
  | seqRemove (m : Nat) (h : CmdHdr) (entry : W64)
  /-- SEQ_HOLD Holds or releases a sequence at the next step boundary. (R304) -/
  | seqHold (m : Nat) (h : CmdHdr) (entry hold : W64)
  /-- POOL_CREATE Creates a page pool. (R148) -/
  | poolCreate (m : Nat) (h : CmdHdr) (pb : W64)
  /-- POOL_DESTROY Destroys a pool with no allocated page. (R279) -/
  | poolDestroy (m : Nat) (h : CmdHdr) (pool : W64)
  /-- PAGE_ALLOC Allocates pages and returns frame and generation. (R279) -/
  | pageAlloc (m : Nat) (h : CmdHdr) (pool n out : W64)
  /-- PAGE_FREE Frees unmapped pages, advancing their generation. (R157) -/
  | pageFree (m : Nat) (h : CmdHdr) (pool n inp : W64)
  /-- PMAP_CREATE Creates a page map and returns its MAP_ID. (R279) -/
  | pmapCreate (m : Nat) (h : CmdHdr)
  /-- PMAP_DESTROY Destroys an unused page map. (R279) -/
  | pmapDestroy (m : Nat) (h : CmdHdr) (map : W64)
  /-- PMAP_SET_STREAM Sets a stream record, at once or deferred behind a pinned epoch. (R155) -/
  | pmapSetStream (m : Nat) (h : CmdHdr) (map stream flags dirm1 coord sum : W64)
  /-- PMAP_SET_LEAF Sets leaf entries, at once or deferred. (R155) -/
  | pmapSetLeaf (m : Nat) (h : CmdHdr) (map stream lpage0 n inp : W64)
  /-- PMAP_CLEAR Clears leaf entries, at once or deferred. (R155) -/
  | pmapClear (m : Nat) (h : CmdHdr) (map stream lpage0 n : W64)
  /-- PMAP_QUERY Returns EPOCH, PINS and the deferred queue length. (R157) -/
  | pmapQuery (m : Nat) (h : CmdHdr) (map : W64)
  /-- FLASH_LAYOUT Sets the weight region size. (R242) -/
  | flashLayout (m : Nat) (h : CmdHdr) (wsize : W64)
  /-- FLASH_QUERY Writes the flash store state. (R279) -/
  | flashQuery (m : Nat) (h : CmdHdr) (resp : W64)
  /-- TOBJ_CREATE Allocates a zeroed flash copy of a tensor object. (R217) -/
  | tobjCreate (m : Nat) (h : CmdHdr) (sizeg : W64)
  /-- TOBJ_LOAD Creates a home and reads the whole flash copy into it. (R217) -/
  | tobjLoad (m : Nat) (h : CmdHdr) (id index baseg flags : W64)
  /-- TOBJ_FLUSH Writes a dirty home to a new flash copy and switches to it. (R221) -/
  | tobjFlush (m : Nat) (h : CmdHdr) (id : W64)
  /-- TOBJ_EVICT Withdraws W, writes back if dirty and removes the home. (R217) -/
  | tobjEvict (m : Nat) (h : CmdHdr) (id : W64)
  /-- TOBJ_DESTROY Releases a tensor object's flash copy. (R217) -/
  | tobjDestroy (m : Nat) (h : CmdHdr) (id : W64)
  /-- TOBJ_QUERY Returns a tensor object's state, DIRTY and region. (R279) -/
  | tobjQuery (m : Nat) (h : CmdHdr) (id : W64)
  /-- WPKG_OPEN Reserves space for a weight package and returns a handle. (R250) -/
  | wpkgOpen (m : Nat) (h : CmdHdr) (total : W64)
  /-- WPKG_WRITE Writes a range of an open package. (R250) -/
  | wpkgWrite (m : Nat) (h : CmdHdr) (handle offset len src : W64)
  /-- WPKG_COMMIT Verifies a package and makes it ready in one journal update. (R250) -/
  | wpkgCommit (m : Nat) (h : CmdHdr) (handle : W64)
  /-- WPKG_DELETE Deletes a package not named by a running window. (R250) -/
  | wpkgDelete (m : Nat) (h : CmdHdr) (handle : W64)
  /-- WPKG_GRANT Grants a ready package to another partition. (R250) -/
  | wpkgGrant (m : Nat) (h : CmdHdr) (handle part enable : W64)
  /-- WWIN_START Checks a window descriptor, resets its semaphores and starts the streamer. (R223) -/
  | wwinStart (m : Nat) (h : CmdHdr) (win desc : W64)
  /-- WWIN_STOP Stops a weight window after the layer being read is complete. (R279) -/
  | wwinStop (m : Nat) (h : CmdHdr) (win : W64)
  /-- WWIN_QUERY Writes a weight window's state. (R279) -/
  | wwinQuery (m : Nat) (h : CmdHdr) (win resp : W64)
  /-- SNAP_SET Sets the partition's snapshot set, flash policy and shadows. (R371) -/
  | snapSet (m : Nat) (h : CmdHdr) (pb : W64)
  /-- SNAP_TAKE Requests a capture at the next step boundary or idle instant. (R372) -/
  | snapTake (m : Nat) (h : CmdHdr)
  /-- SNAP_LIST Lists snapshots after a given identifier. (R375) -/
  | snapList (m : Nat) (h : CmdHdr) (resp after : W64)
  /-- SNAP_RESTORE Restores a snapshot at the next step boundary or idle instant. (R377) -/
  | snapRestore (m : Nat) (h : CmdHdr) (id : W64)
  /-- SNAP_DELETE Deletes a flash snapshot. (R375) -/
  | snapDelete (m : Nat) (h : CmdHdr) (id : W64)
  /-- SNAP_EXPORT Writes a snapshot in the stored format to an address. (R376) -/
  | snapExport (m : Nat) (h : CmdHdr) (id dst len : W64)
  /-- SNAP_IMPORT Reads a snapshot in the stored format into flash. (R376) -/
  | snapImport (m : Nat) (h : CmdHdr) (src len : W64)
  /-- DOM_CONFIG Forms a schedule domain with its coordinates, partitions and credits. (R321) -/
  | domConfig (m : Nat) (h : CmdHdr) (pb : W64)
  /-- DOM_LEAVE Leaves the domain when no participating partition has work running. (R321) -/
  | domLeave (m : Nat) (h : CmdHdr)
  /-- LINK_QUERY Writes a port's state and counters. (R319) -/
  | linkQuery (m : Nat) (h : CmdHdr) (port resp : W64)
  /-- TWIN_CONFIG Forms a twin pair with the twin module. (R340) -/
  | twinConfig (m : Nat) (h : CmdHdr) (pb : W64)
  /-- FTIME_QUERY Returns fabric time. (R322) -/
  | ftimeQuery (m : Nat) (h : CmdHdr)
  /-- IRS_OPEN Checks a parameter block and opens an Iris session. (R386) -/
  | irsOpen (m : Nat) (h : CmdHdr) (pb : W64)
  /-- IRS_CLOSE Ends an Iris session after started descriptors finish. (R395) -/
  | irsClose (m : Nat) (h : CmdHdr) (session : W64)
  /-- IRS_QUERY Writes an Iris session's state. (R395) -/
  | irsQuery (m : Nat) (h : CmdHdr) (session resp : W64)
  /-- PWR_TIMEOUT Sets the partition's Off timeout. (R431) -/
  | pwrTimeout (m : Nat) (h : CmdHdr) (offUs : W64)
  /-- PWR_MODULE Moves the module between Active, Standby and Sleep. (R438) -/
  | pwrModule (m : Nat) (h : CmdHdr) (target : W64)
  /-- TEL_SUBSCRIBE Sets the mask of telemetry events posted. (R279) -/
  | telSubscribe (m : Nat) (h : CmdHdr) (mask : W64)
  /-- TEL_READ Writes telemetry data. (R279) -/
  | telRead (m : Nat) (h : CmdHdr) (resp : W64)
  /-- SEC_KEY_SET Sets or clears a partition key slot. (R425) -/
  | secKeySet (m : Nat) (h : CmdHdr) (part key : W64)
  /-- SEC_SECURE Makes a partition secure or not. (R426) -/
  | secSecure (m : Nat) (h : CmdHdr) (part enable : W64)
  /-- SEC_ATTEST Writes a signed attestation report and certificate chain. (R427) -/
  | secAttest (m : Nat) (h : CmdHdr) (nonce resp : W64)
  /-- DIAG_LOG Writes diagnostic log entries. (R279) -/
  | diagLog (m : Nat) (h : CmdHdr) (resp start : W64)
  /-- DIAG_SELFTEST Tests a unit of the partition. (R279) -/
  | diagSelftest (m : Nat) (h : CmdHdr) (unit : W64)
  /-- DIAG_INJECT Injects a fault on a diagnostic partition. (R279) -/
  | diagInject (m : Nat) (h : CmdHdr) (pb : W64)
  /-- QE_DOORBELL_WRITE A doorbell moves a queue pair's submission tail or completion head. (R285) -/
  | qeDoorbellWrite (p : Nat) (v : W64)
  /-- LAUNCH The queue engine takes a LAUNCH entry and checks it before any work runs. (R289) -/
  | launch (q : Nat)
  /-- LAUNCH_START A launch whose wait is met and which has its engines begins its first tile-thread, item or job. (R290) -/
  | launchStart (l : Nat)
  /-- COPY The hub copy engine starts moving LEN bytes. (R290) -/
  | copy (q : Nat)
  /-- COPY_DONE A COPY's bytes are visible and the entry completes. (R290) -/
  | copyDone (q k : Nat)
  /-- ADD_SEQ An ADD_SEQ entry holds its queue until the step builder takes it at a tick. (R303) -/
  | addSeq (q : Nat)
  /-- STEP A STEP entry starts or stops the partition's serving run. (R306) -/
  | step (q : Nat)
  /-- FENCE_ENTRY A FENCE entry holds its queue until earlier entries and its wait are met. (R290) -/
  | fenceEntry (q : Nat)
  /-- FENCE_ENTRY_COMPLETE A FENCE's earlier entries and wait are met; it signals SSEM and completes. (R290) -/
  | fenceEntryComplete (q : Nat)
  /-- QP_COMPLETION_POST A completion is written when the completion ring has a free slot. (R287) -/
  | qpCompletionPost (q : Nat)
  /-- PREEMPT An LC launch stops a shared core's BE contexts at a bundle boundary and starts the save. (R296) -/
  | preempt (c l : Nat)
  /-- PREEMPT_SAVE_DONE The BE state is saved and the core passes to the LC launch. (R296) -/
  | preemptSaveDone (c : Nat)
  /-- PREEMPT_RESTORE The LC launch leaves the core; saved BE state is restored and the BE contexts resume. (R296) -/
  | preemptRestore (c : Nat)
  /-- REGULATOR_REFILL Every 1 µs each regulator's balance refills up to BURST. (R295) -/
  | regulatorRefill 
  /-- SEM_HOLD_REVOKE A LOCK hold reaches HOLD_US; N is added back, the holder cleared and SEM_REVOKED raised. (R300) -/
  | semHoldRevoke (die i : Nat)
  /-- STEP_TICK The step builder admits ADD_SEQ entries, selects the step's sequences and emits its launches. (R308) -/
  | stepTick (p : Nat)
  /-- STEP_BOUNDARY Once the step's work retires, digests compare, sequences advance, snapshots capture, completions post and the next tick runs. (R26) -/
  | stepBoundary (p : Nat)
  /-- STEP_BARRIER_OPEN The step barrier opens and delivers the XOR of digests, OR of due flags and minimum snapshot step. (R326) -/
  | stepBarrierOpen (p : Nat) (xor : W64) (due : Bool) (s : Nat)
  /-- FLIT_RECEIVE A flit arrives, is accepted in order with matching CRC or rejected with a NAK. (R313) -/
  | flitReceive (port : Nat) (f : Flit)
  /-- FLIT_REPLAY_TIMEOUT The oldest unacknowledged flit waits 10 µs and the sender replays. (R313) -/
  | flitReplayTimeout (port : Nat)
  /-- ACK_TIMER The receiver returns ACKSEQ at least once per 64 flits or per 1 µs. (R313) -/
  | ackTimer (port : Nat)
  /-- PORT_RETRAIN A flit replayed 8 times or lost FEC alignment retrains the port. (R316) -/
  | portRetrain (port : Nat) (fec failed : Bool)
  /-- PORT_TRAINING_DONE A port finishes training and goes UP, VERSION_FAIL or IDENT_FAIL. (R317) -/
  | portTrainingDone (port : Nat) (t : TrainInfo)
  /-- SYNC_FLIT SYNC flits exchanged every 1 µs adjust the fabric time rate. (R322) -/
  | syncFlit (port : Nat) (t : W64)
  /-- FAB_BAR_CFG_WRITE A barrier configuration write takes effect at once or at the barrier's next opening. (R323) -/
  | fabBarCfgWrite (p die b : Nat) (v : W64)
  /-- FAB_CQ_CFG_WRITE Enabling a collective queue sets N to 0 and clears FAULT. (R327) -/
  | fabCqCfgWrite (p die q : Nat) (v : W64)
  /-- COLLECTIVE_START The engine starts the next collective descriptor once PSEM allows and the previous one completed. (R329) -/
  | collectiveStart (p die q : Nat)
  /-- CHUNK_RECEIVE A receiver writes a chunk, checks its CRC and then combines, forwards or signals it. (R333) -/
  | chunkReceive (p die q : Nat) (ch : Chunk)
  /-- COLL_ABORT_RECEIVE A member receiving a collective abort faults its queue with COLL_MISMATCH. (R335) -/
  | collAbortReceive (p die q peer : Nat)
  /-- COLLECTIVE_COMPLETE Every output chunk is signalled and every sent chunk accepted; DSEM is signalled. (R329) -/
  | collectiveComplete (p die q : Nat)
  /-- FORWARD_DRAIN A drain wholly in a forwarding channel's source range is sent as one chunk to the peer. (R336) -/
  | forwardDrain (k : Nat)
  /-- TWIN_HEARTBEAT A heartbeat is sent on the twin ports every 1 ms. (R340) -/
  | twinHeartbeat 
  /-- TWIN_HEARTBEAT_TIMEOUT No heartbeat for 100 ms declares the twin lost and the domain continues alone. (R343) -/
  | twinHeartbeatTimeout 
  /-- TWIN_WAIT_TIMEOUT The twin's step digest misses TWIN_WAIT and the twin is declared lost. (R343) -/
  | twinWaitTimeout (p : Nat)
  /-- ADMISSION_COUNT_RECEIVE The twin receives the leader's admission counts and admits the same entries. (R341) -/
  | admissionCountReceive (p : Nat) (ns : List (Nat × Nat))
  /-- STEP_DIGEST_EXCHANGE The twins' step digests are compared and barrier 255 opens again with the mismatch OR. (R341) -/
  | stepDigestExchange (p : Nat) (peer : W64) (other due : Bool) (s risk : Nat)
  /-- REPLAY_NOTICE A member's replay notice makes every member restore the minimum recovery point. (R366) -/
  | replayNotice (p s : Nat)
  /-- AUDIT_RUN_START A selected unit of work is re-run on the next engine after that engine finishes its share. (R355) -/
  | auditRunStart (l u : Nat)
  /-- AUDIT_RUN_COMPLETE An audit run's write digest is compared; a mismatch starts a third run and reports the engine. (R356) -/
  | auditRunComplete (l u : Nat) (first audit third : W64)
  /-- STEP_REPLAY The partition's step is discarded, the newest recovery point restored and steps rerun. (R359) -/
  | stepReplay (p : Nat)
  /-- TILE_REPLAY The queue engine reruns an affected context's or engine's whole share of a host launch. (R360) -/
  | tileReplay (l n x : Nat)
  /-- POISON_REPORT An engine reading a poisoned line reports it; a serving run replays or ends with ST_POISON. (R362) -/
  | poisonReport (p addr : Nat)
  /-- WEIGHT_REFETCH_TWIN A lost weight codeword is reread from the twin and rewritten locally. (R363) -/
  | weightRefetchTwin (w : Nat) (image : List Byte)
  /-- SRAM_UNCORRECTABLE An uncorrectable SRAM error replays work on the same engine. (R361) -/
  | sramUncorrectable (k : UnitKind) (n : Nat)
  /-- SRAM_CORRECTED A correctable SRAM error is corrected in place. (R361) -/
  | sramCorrected (k : UnitKind) (n : Nat)
  /-- CORE_WATCHDOG_EXPIRE A ready context that issues nothing for 10 ms marks the core failed. (R361) -/
  | coreWatchdogExpire (c : Nat)
  /-- PRIM_JOB_WATCHDOG A Primrose job exceeding 100 ms marks the engine failed. (R361) -/
  | primJobWatchdog (e : Nat)
  /-- UNIT_CHECK_FAILURE A datapath parity or residue check failure marks the unit failed. (R361) -/
  | unitCheckFailure (k : UnitKind) (n : Nat)
  /-- QUARANTINE A failed unit is fenced and its logical number moves to a spare or the other Primrose engine. (R364) -/
  | quarantine (k : UnitKind) (n : Nat)
  /-- MODULE_FAILURE A hub or module failure stops all fabric and twin transmission within 1 ms. (R365) -/
  | moduleFailure 
  /-- RISK_UPDATE Every 1 ms Marigold sets the risk estimate from E and temperature. (R367) -/
  | riskUpdate (t vin pin : Nat)
  /-- RISK_DECAY Each second E is multiplied by 2^(−1/3600). (R367) -/
  | riskDecay 
  /-- SHADOW_COPY_BLOCK The hub copies the next 64 KiB block of a capture into the shadow. (R373) -/
  | shadowCopyBlock (p : Nat)
  /-- FLASH_SNAPSHOT_WRITE The flash writer writes a capture to flash, switches to it and trims old snapshots. (R373) -/
  | flashSnapshotWrite (p : Nat)
  /-- IRIS_DESCRIPTOR_START An Iris core starts the next ready descriptor of the session whose turn it is. (R388) -/
  | irisDescriptorStart (k : Nat)
  /-- IRIS_ROW_DONE A coding-block row leaves the pipeline. (R380) -/
  | irisRowDone (k : Nat)
  /-- IRIS_SLICE_EMIT In sub-frame mode a finished slice or tile group is written, PROG advances and SLSIG is signalled. (R396) -/
  | irisSliceEmit (k : Nat)
  /-- IRIS_PICTURE_DONE A picture's statistics and record are written and SIG is signalled. (R390) -/
  | irisPictureDone (k : Nat)
  /-- IRIS_PICTURE_REPEAT An uncorrectable SRAM error or datapath check failure repeats the picture. (R393) -/
  | irisPictureRepeat (k : Nat)
  /-- FLR A function-level reset resets the function, closes its mailbox session and stops host-ring queue pairs. (R403) -/
  | flr (p : Nat)
  /-- PERST_ASSERT PERST# resets the PCIe endpoint and treats each function as an FLR while work continues. (R445) -/
  | perstAssert 
  /-- PERST_DEASSERT PERST# deasserted after MRDY starts link training. (R443) -/
  | perstDeassert 
  /-- PCIE_LINK_DOWN The link goes down without reset; completions wait for its return. (R403) -/
  | pcieLinkDown 
  /-- PCIE_LINK_UP The link returns and held completions are written. (R403) -/
  | pcieLinkUp 
  /-- BAR4_READ A host read through BAR4 is checked against the region map and returns data, 0xFF or poison. (R409) -/
  | bar4Read (p off n : Nat)
  /-- BAR4_WRITE A host write through BAR4 is checked and written or discarded. (R409) -/
  | bar4Write (p off : Nat) (bs : List Byte)
  /-- REGISTER_WRITE A write to a register without behaviour of its own sets its writable fields or is discarded. (R408) -/
  | registerWrite (p bar off n : Nat) (v : W64)
  /-- MSIX_UNMASK Unmasking a vector with its pending bit set sends the message. (R413) -/
  | msixUnmask (p vec : Nat)
  /-- HOST_READ_FAIL A module read of host memory times out or fails and its operation ends with ST_ADDR or stops its ring. (R414) -/
  | hostReadFail (w : HostRead)
  /-- IDE_INTEGRITY_FAIL An IDE stream failing its integrity check leaves the secure state and its TLPs are dropped. (R415) -/
  | ideIntegrityFail (st : Nat)
  /-- IDE_KM IDE keys are programmed over a secured SPDM session. (R415) -/
  | ideKm (st key : Nat)
  /-- MCTP_CONTROL_MESSAGE An MCTP message arrives on the management bus and is served or refused by type. (R416) -/
  | mctpControlMessage (ty : Byte) (body : List Byte)
  /-- GET_SENSOR_READING Returns a platform sensor value. (R417) -/
  | getSensorReading (id : Nat)
  /-- SET_EVENT_RECEIVER Sets the receiver of platform event messages. (R417) -/
  | setEventReceiver (eid : Nat)
  /-- SET_STATE_EFFECTER_STATES Sets effecter 1 to Standby or Reset, or effecter 2 for LOC. (R440) -/
  | setStateEffecterStates (id st : Nat)
  /-- GET_FRU_RECORD Returns the FRU record with ORDER, STEPPING and SERIAL. (R416) -/
  | getFruRecord 
  /-- PASS_COMPONENT_UPDATE Writes a new patch table into the copy not in force. (R418) -/
  | passComponentUpdate (image : List Byte)
  /-- VERIFY_COMPLETE Checks the new patch copy's signature and level. (R418) -/
  | verifyComplete 
  /-- ACTIVATE_FIRMWARE Makes the new patch copy the one in force, optionally resetting the control processor. (R418) -/
  | activateFirmware (selfContained : Bool)
  /-- GET_VERSION SPDM version negotiation. (R419) -/
  | getVersion (peer : List Nat)
  /-- GET_CERTIFICATE Returns the slot 0 certificate chain. (R419) -/
  | getCertificate (slot off len : Nat)
  /-- CHALLENGE Signs a CHALLENGE_AUTH with the attestation key. (R419) -/
  | challenge (slot : Nat) (nonce : List Byte)
  /-- GET_MEASUREMENTS Returns signed measurement blocks. (R419) -/
  | getMeasurements (index : Nat) (nonce : List Byte)
  /-- KEY_EXCHANGE Establishes a secured SPDM session. (R419) -/
  | keyExchange (slot : Nat) (pub : List Byte)
  /-- CORE_ENTER_RETAIN A core without work for 20 µs stops its clocks and retains state. (R430) -/
  | coreEnterRetain (k : EngineKind) (n : Nat)
  /-- CORE_ENTER_OFF A core reaching its Off timeout powers down, keeping only its table window. (R431) -/
  | coreEnterOff (k : EngineKind) (n : Nat)
  /-- CORE_WAKE A core leaves Retain or Off after its exit time and begins the work that woke it. (R432) -/
  | coreWake (k : EngineKind) (n : Nat)
  /-- STANDBY_ENTRY_DONE Running work has finished and 100 µs later the module is in Standby. (R438) -/
  | standbyEntryDone 
  /-- SLEEP_ENTRY The sleep image is written and the PWR_MODULE completion posted. (R439) -/
  | sleepEntry 
  /-- SLEEP_POWER_DOWN 10 ms after the posting the link and ports stop, DRAM self-refreshes and domains power down. (R439) -/
  | sleepPowerDown 
  /-- WAKE_ASSERT WAKE# low for long enough starts a Sleep exit or is latched or ignored by state. (R455) -/
  | wakeAssert (acted : Bool) (ticks : Nat)
  /-- SLEEP_EXIT_DONE The exit from Sleep completes and the module is in Standby with READY set. (R440) -/
  | sleepExitDone (b : BootFind)
  /-- GUARD_TRIP Over-current or out-of-range input opens the input switch and the module goes to Off. (R441) -/
  | guardTrip 
  /-- SUPPLY_DROOP Input below 40 V for over 1 µs without a trip is reported to Marigold. (R441) -/
  | supplyDroop 
  /-- GUARD_RECLOSE 10 s after a trip the switch closes and the module starts from step 1. (R441) -/
  | guardReclose 
  /-- INPUT_LOW_RELEASE Input below 20 V for 1 s releases a switch held open after repeated trips or a thermal stop. (R441) -/
  | inputLowRelease 
  /-- POWER_ON 48 V valid starts the start-up sequence at step 1. (R442) -/
  | powerOn (b : BootFind)
  /-- STARTUP_READY Step 10 completes; every mailbox reads READY and an event is sent. (R442) -/
  | startupReady 
  /-- RST_ASSERT RST# low for at least 10 µs performs a cold reset from step 3. (R445) -/
  | rstAssert (acted : Bool) (ticks : Nat) (b : BootFind)
  /-- PWR_RESET_WRITE Writing 0xC01D to PWR_RESET.KEY schedules a cold reset 1 ms later. (R446) -/
  | pwrResetWrite (p n : Nat) (v : W64)
  /-- COLD_RESET_START 1 ms after the key write the cold reset begins. (R446) -/
  | coldResetStart (b : BootFind)
  /-- PPRSNT_MAKE PPRSNT# contact closes the input switch and starts the module. (R457) -/
  | pprsntMake (b : BootFind)
  /-- PPRSNT_BREAK PPRSNT# breaking opens the input switch as a module failure. (R457) -/
  | pprsntBreak 
  /-- THERMAL_STOP Low coolant flow or a die above 105 °C fails the module stop. (R459) -/
  | thermalStop 
  /-- THERMAL_SWITCH_OPEN 100 ms after a thermal stop the input switch opens. (R459) -/
  | thermalSwitchOpen 
  /-- CBL_PRS_CHANGE A cable is fitted or removed, switching cable power. (R451) -/
  | cblPrsChange (k : Nat) (fitted : Bool)
  /-- UNLISTED_ENTRY_TYPE The queue engine takes a submission entry whose TYPE is not one of the listed types and refuses it with ST_BAD_PARAM. (R286) -/
  | unlistedEntryType (q : Nat)
  /-- TWIN_REPLAY_NOTICE A domain receives over the twin ports its twin's notice that it is beginning a replay, and treats the twin as lost from that moment. (R366) -/
  | twinReplayNotice 
  /-- CONFIGURATION_REQUEST A PCIe configuration request reaches a function: it is answered with Request Retry Status before READY, or it changes state such as Bus Master Enable, MSI-X enable, VF enable or Relaxed Ordering, and re-enabling Bus Master Enable releases held ring writes. (R414) -/
  | configurationRequest (p : Nat) (r : CfgReq)
  /-- DYNAMIC_ADDRESS_ASSIGNMENT The I3C bus controller assigns the management interface a dynamic address, moving MCTP from the SMBus fallback at 0x4C onto I3C. (R416) -/
  | dynamicAddressAssignment (addr : Nat)
  deriving DecidableEq, Repr

end Sys2Proof
end

