-- ==== Sys2Proof/Decode.lean ====
section
/-!
DEFINITION. The command that a word spells. The block's commands come from outside and opcode_table.json gives no row
any bits, so a word spells no command.
-/

namespace Sys2Proof

/-- The command that `nbits` bits `w` spell by the table: none. -/
def decodeTableWord (_nbits _w : Nat) : Option Instr := none

end Sys2Proof
end

