-- ==== Sys2Proof/Machine/Crypto.lean ====
section
/-!
DEFINITION. The codes and digests the manual names by their standards: CRC-32C (RFC 3720, R312, R333),
CRC-64/XZ (R337), SHA-512 (R276) and the verification of ECDSA P-521 (R251). The standards' tables and curve
constants are PRESUMED (log 15): the manual names the standards and does not print them.
-/

namespace Sys2Proof.Machine

/-- One byte of a reflected CRC with polynomial `poly`. -/
def crcByte (poly c : Nat) (b : Byte) : Nat :=
  go 8 (c ^^^ b.toNat)
where
  /-- `k` bit steps. -/
  go : Nat → Nat → Nat
    | 0, c => c
    | k + 1, c => go k (if c % 2 = 1 then (c >>> 1) ^^^ poly else c >>> 1)

/-- CRC-32C of a byte string. -/
def crc32c (bs : List Byte) : Nat :=
  bs.foldl (crcByte 0x82F63B78) 0xFFFFFFFF ^^^ 0xFFFFFFFF

/-- CRC-64/XZ of a byte string (R337). -/
def crc64 (bs : List Byte) : Nat :=
  bs.foldl (crcByte 0xC96C5795D7870F42) 0xFFFFFFFFFFFFFFFF ^^^ 0xFFFFFFFFFFFFFFFF

namespace Sha512

/-- The round constants. -/
def k : List Nat :=
  [0x428a2f98d728ae22, 0x7137449123ef65cd, 0xb5c0fbcfec4d3b2f, 0xe9b5dba58189dbbc, 0x3956c25bf348b538, 0x59f111f1b605d019, 0x923f82a4af194f9b, 0xab1c5ed5da6d8118] ++
  [0xd807aa98a3030242, 0x12835b0145706fbe, 0x243185be4ee4b28c, 0x550c7dc3d5ffb4e2, 0x72be5d74f27b896f, 0x80deb1fe3b1696b1, 0x9bdc06a725c71235, 0xc19bf174cf692694] ++
  [0xe49b69c19ef14ad2, 0xefbe4786384f25e3, 0xfc19dc68b8cd5b5, 0x240ca1cc77ac9c65, 0x2de92c6f592b0275, 0x4a7484aa6ea6e483, 0x5cb0a9dcbd41fbd4, 0x76f988da831153b5] ++
  [0x983e5152ee66dfab, 0xa831c66d2db43210, 0xb00327c898fb213f, 0xbf597fc7beef0ee4, 0xc6e00bf33da88fc2, 0xd5a79147930aa725, 0x6ca6351e003826f, 0x142929670a0e6e70] ++
  [0x27b70a8546d22ffc, 0x2e1b21385c26c926, 0x4d2c6dfc5ac42aed, 0x53380d139d95b3df, 0x650a73548baf63de, 0x766a0abb3c77b2a8, 0x81c2c92e47edaee6, 0x92722c851482353b] ++
  [0xa2bfe8a14cf10364, 0xa81a664bbc423001, 0xc24b8b70d0f89791, 0xc76c51a30654be30, 0xd192e819d6ef5218, 0xd69906245565a910, 0xf40e35855771202a, 0x106aa07032bbd1b8] ++
  [0x19a4c116b8d2d0c8, 0x1e376c085141ab53, 0x2748774cdf8eeb99, 0x34b0bcb5e19b48a8, 0x391c0cb3c5c95a63, 0x4ed8aa4ae3418acb, 0x5b9cca4f7763e373, 0x682e6ff3d6b2b8a3] ++
  [0x748f82ee5defb2fc, 0x78a5636f43172f60, 0x84c87814a1f0ab72, 0x8cc702081a6439ec, 0x90befffa23631e28, 0xa4506cebde82bde9, 0xbef9a3f7b2c67915, 0xc67178f2e372532b] ++
  [0xca273eceea26619c, 0xd186b8c721c0c207, 0xeada7dd6cde0eb1e, 0xf57d4f7fee6ed178, 0x6f067aa72176fba, 0xa637dc5a2c898a6, 0x113f9804bef90dae, 0x1b710b35131c471b] ++
  [0x28db77f523047d84, 0x32caab7b40c72493, 0x3c9ebe0a15c9bebc, 0x431d67c49c100d4c, 0x4cc5d4becb3e42b6, 0x597f299cfc657e2a, 0x5fcb6fab3ad6faec, 0x6c44198c4a475817]

/-- The initial hash value. -/
def h0 : List Nat :=
  [0x6a09e667f3bcc908, 0xbb67ae8584caa73b, 0x3c6ef372fe94f82b, 0xa54ff53a5f1d36f1, 0x510e527fade682d1, 0x9b05688c2b3e6c1f, 0x1f83d9abfb41bd6b, 0x5be0cd19137e2179]

/-- Rotation right of a 64-bit word. -/
def rotr (x n : Nat) : Nat := (x >>> n) ||| ((x <<< (64 - n)) % 2 ^ 64)

/-- A byte string as big-endian words of eight bytes. -/
def words : Nat → List Byte → List Nat
  | 0, _ => []
  | n + 1, bs => (bs.take 8).foldl (fun a b => a * 256 + b.toNat) 0 :: words n (bs.drop 8)

/-- The message schedule, newest word first. -/
def extend : Nat → List Nat → List Nat
  | 0, w => w
  | n + 1, w =>
    let g i := w.getD i 0
    let s0 := rotr (g 14) 1 ^^^ rotr (g 14) 8 ^^^ (g 14 >>> 7)
    let s1 := rotr (g 1) 19 ^^^ rotr (g 1) 61 ^^^ (g 1 >>> 6)
    extend n ((g 15 + s0 + g 6 + s1) % 2 ^ 64 :: w)

/-- One round on the working variables. -/
def round (s : List Nat) (kw : Nat × Nat) : List Nat :=
  match s with
  | [a, b, c, d, e, f, g, h] =>
    let s1 := rotr e 14 ^^^ rotr e 18 ^^^ rotr e 41
    let ch := (e &&& f) ^^^ ((2 ^ 64 - 1 - e) &&& g)
    let t1 := h + s1 + ch + kw.1 + kw.2
    let s0 := rotr a 28 ^^^ rotr a 34 ^^^ rotr a 39
    let mj := (a &&& b) ^^^ (a &&& c) ^^^ (b &&& c)
    [(t1 + s0 + mj) % 2 ^ 64, a, b, c, (d + t1) % 2 ^ 64, e, f, g]
  | s => s

/-- One block of 128 bytes. -/
def block (s : List Nat) (bs : List Byte) : List Nat :=
  let w := (extend 64 (words 16 bs).reverse).reverse
  List.zipWith (fun a b => (a + b) % 2 ^ 64) s ((k.zip w).foldl round s)

/-- The padded message. -/
def pad (bs : List Byte) : List Byte :=
  let n := bs.length
  let z := (128 - (n + 17) % 128) % 128
  bs ++ [0x80#8] ++ List.replicate z 0#8 ++
    (List.range 16).map (fun i => BitVec.ofNat 8 ((8 * n) >>> (8 * (15 - i))))

/-- All blocks. -/
def blocks : Nat → List Nat → List Byte → List Nat
  | 0, s, _ => s
  | n + 1, s, bs => blocks n (block s (bs.take 128)) (bs.drop 128)

end Sha512

/-- SHA-512 of a byte string, 64 bytes. -/
def sha512 (bs : List Byte) : List Byte :=
  let p := Sha512.pad bs
  (Sha512.blocks (p.length / 128) Sha512.h0 p).flatMap
    (fun w => (List.range 8).map (fun i => BitVec.ofNat 8 (w >>> (8 * (7 - i)))))

namespace P521

/-- The field prime. -/
def p : Nat := 2 ^ 521 - 1

/-- The group order. -/
def n : Nat := 0x01FFFFFFFFFFFFFFFFFFFFFFFFFFFFFFFFFFFFFFFFFFFFFFFFFFFFFFFFFFFFFFFFFFFA51868783BF2F966B7FCC0148F709A5D03BB5C9B8899C47AEBB6FB71E91386409

/-- The curve constant `b`; `a` is -3. -/
def b : Nat := 0x0051953EB9618E1C9A1F929A21A0B68540EEA2DA725B99B315F3B8B489918EF109E156193951EC7E937B1652C0BD3BB1BF073573DF883D2C34F1EF451FD46B503F00

/-- The generator. -/
def g : Nat × Nat :=
  (0x00C6858E06B70404E9CD9E3ECB662395B4429C648139053FB521F828AF606B4D3DBAA14B5E77EFE75928FE1DC127A2FFA8DE3348B3C1856A429BF97E7E31C2E5BD66,
   0x011839296A789A3BC0045C8A5FB42C7D1BD998F54449579B446817AFBD17273E662C97EE72995EF42640C550B9013FAD0761353C7086A272C24088BE94769FD16650)

/-- `x ^ e` modulo `m`, over the `k` low bits of the exponent. -/
def powMod (m : Nat) : Nat → Nat → Nat → Nat
  | 0, _, _ => 1 % m
  | k + 1, x, e =>
    let r := powMod m k (x * x % m) (e / 2)
    if e % 2 = 1 then r * x % m else r

/-- The inverse modulo a prime. -/
def inv (m x : Nat) : Nat := powMod m 521 x (m - 2)

/-- A point is on the curve. -/
def onCurve (q : Nat × Nat) : Bool :=
  q.1 < p && q.2 < p && (q.2 * q.2) % p == (q.1 * q.1 * q.1 + (p - 3) * q.1 + b) % p

/-- The sum of two points; none is the point at infinity. -/
def addPt : Option (Nat × Nat) → Option (Nat × Nat) → Option (Nat × Nat)
  | none, q => q
  | q, none => q
  | some (x1, y1), some (x2, y2) =>
    if x1 = x2 ∧ (y1 + y2) % p = 0 then none
    else
      let l := if x1 = x2 then (3 * x1 * x1 + (p - 3)) * inv p (2 * y1 % p) % p
        else (y2 + p - y1) * inv p ((x2 + p - x1) % p) % p
      let x3 := (l * l + 2 * p - x1 - x2) % p
      some (x3, (l * (x1 + p - x3) + p - y1) % p)

/-- The multiple of a point, over `k` bits. -/
def mulPt : Nat → Nat → Option (Nat × Nat) → Option (Nat × Nat)
  | 0, _, _ => none
  | k + 1, e, q =>
    let r := mulPt k (e / 2) (addPt q q)
    if e % 2 = 1 then addPt r q else r

end P521

/-- Big-endian bytes as a number. -/
def beNat (bs : List Byte) : Nat := bs.foldl (fun a b => a * 256 + b.toNat) 0

/-- ECDSA P-521 verification of `(r, s)` over a SHA-512 digest with public point `q` (R251, R425, R426). -/
def ecdsaVerify (q : Nat × Nat) (digest : List Byte) (r s : Nat) : Bool :=
  if r = 0 ∨ s = 0 ∨ P521.n ≤ r ∨ P521.n ≤ s ∨ P521.onCurve q = false then false
  else
    let w := P521.inv P521.n s
    let z := beNat digest
    let pt := P521.addPt (P521.mulPt 521 (z * w % P521.n) (some P521.g)) (P521.mulPt 521 (r * w % P521.n) (some q))
    match pt with
    | none => false
    | some (x, _) => x % P521.n == r

end Sys2Proof.Machine
end

