-- ==== Sys2Proof/Config.lean ====
section
/-!
DEFINITION. What the manual leaves open: constants without a body, so that no proof can see a value of one.
-/

namespace Sys2Proof.Config

/-- A byte the manual leaves undefined: the first argument numbers the occasion (the state's counter `fresh`), the
second the byte within it (log 10). -/
opaque freeByte : Nat → Nat → Byte

/-- Which value a reader of a 64 B line finds while operations under way write it: the occasion and the line (R4, R57, log 8). -/
opaque lineSeen : Nat → Nat → Nat

/-- A byte of the factory table contents of stepping B1 that the manual does not print: the first argument is the
store (0 records, 1 segments), the second the byte's place (R169, log 9). -/
opaque factoryByte : Nat → Nat → Byte

/-- A byte of a response block whose layout the manual does not print: which block, the state's counter, the
byte's place (log 10). -/
opaque responseByte : Nat → Nat → Nat → Byte

/-- True for ordering code YZ960-16TC, false for YZ960-08TC (R2, log 13). -/
opaque is16TC : Bool

/-- The module's serial number, from its signed trim record (R421, log 13). -/
opaque serial : W64

/-- ROM_VER (R270, log 13). -/
opaque romVer : W32

/-- PATCH_FLOOR of the trim record (R421, log 13). -/
opaque patchFloor : Nat

/-- Command handlers that a patch table replaces, and the bytes of its code (R272): the table's layout is not given (log 10). -/
opaque patchHandlers : List Byte → Nat
opaque patchCode : List Byte → Nat
/-- What a DIAG_INJECT block asks for: the layout of the block is not given (log 10). -/
opaque diagInject : List Byte → Nat → Nat
/-- VID of the trim record (R421, log 13). -/
opaque trimVid : Nat

/-- A byte of a signature, key agreement or certificate the module forms with its secret keys: what it is, a digest
of what it covers, the byte's place (R419, R423, R427, log 14). -/
opaque secretByte : Nat → List Byte → Nat → Byte

/-- A byte of what an Iris core forms: session parameters, picture number, kind of output, place (R382, R392,
log 10). -/
opaque irisByte : List Byte → List Byte → Nat → Nat → Byte

/-- A number an Iris core forms in the same way: a length, a statistic (log 10). -/
opaque irisNat : List Byte → List Byte → Nat → Nat

/-- The physical blocks of the factory bad-block table, each once (R238, log 12). -/
opaque factoryBad : List Nat

/-- The flash block that an operation's next codeword lies in, by the state's counter (R235, log 10). -/
opaque flashBlock : Nat → Nat

/-- The object, package or snapshot that a codeword found lost by the controller's own reading belongs to, by the
state's counter (R236, log 10). -/
opaque flashOwner : Nat → Nat

/-- The time of the module at (0, 0, 0) that a member takes when its domain forms, by the state's counter (R322,
log 11). -/
opaque domainTime : Nat → Nat

/-- A receiver's device address in the header of a packet whose sender does not choose it, by the state's counter (R315,
log 10). -/
opaque peerAddr : Nat → Nat

/-- A choice among several that the manual leaves open, by the state's counter (log 10). -/
opaque pick : Nat → Nat

/-- A level admits a picture size and frame rate: codec, direction, level, width, height, frame rate as a fraction. The
manual takes the limits from the coding standards and does not print them (R381, R386, log 10). -/
opaque levelAdmits : Nat → Bool → Nat → Nat → Nat → Nat → Nat → Bool

/-- The `i`-th unit of a kind on a die that the trim record does not enable, counted among those that are left (R421,
log 13): kind, die and i. -/
opaque unfitted : Nat → Nat → Nat → Nat

/-- PATCH_LEVEL of a patch table, whose layout the manual does not print (R272, log 10). -/
opaque patchLevel : List Byte → Nat

/-- A patch table's signature verifies against the Juldane key (R272, log 14). -/
opaque patchSigned : List Byte → Bool

end Sys2Proof.Config
end

