-- ==== Sys2Proof/Machine/Bytes.lean ====
section
/-!
DEFINITION. Numbers and little-endian bytes (R5).
-/

namespace Sys2Proof.Machine

/-- A number from bytes in little-endian order (R5). -/
def ofLe (bs : List Byte) : Nat := bs.foldr (fun b a => b.toNat + 256 * a) 0

/-- The `n` little-endian bytes of a number. -/
def toLe (n v : Nat) : List Byte :=
  match n with
  | 0 => []
  | k + 1 => BitVec.ofNat 8 v :: toLe k (v / 256)

/-- The bytes of 64-bit words. -/
def wordsLe (ws : List W64) : List Byte := ws.flatMap (fun w => toLe 8 w.toNat)

/-- The 64-bit word at byte offset `o` of a byte string. -/
def wordAt (bs : List Byte) (o : Nat) : Nat := ofLe ((bs.drop o).take 8)

/-- Byte `k` of a little-endian number. -/
def byteOf (w k : Nat) : Byte := BitVec.ofNat 8 (w >>> (8 * k))

end Sys2Proof.Machine
end

