-- ==== Sys2Proof/Machine/Fp.lean ====
section
/-!
DEFINITION. Exact values and rounding (R73, R74, R91, R92): a finite value is a sign, a magnitude and a power of two,
operations are exact, and each conversion rounds once.
-/

namespace Sys2Proof.Machine

/-- A floating-point value: NaN (the module ignores its sign and payload, R74), an infinity, or
`(-1)^neg * m * 2^e`, where a zero keeps its sign. -/
inductive Fp where
  | nan
  | inf (neg : Bool)
  | fin (neg : Bool) (m : Nat) (e : Int)
deriving DecidableEq, Repr

namespace Fp

/-- +0.0. -/
def zero : Fp := .fin false 0 0

/-- An integer as an exact value. -/
def ofInt (n : Int) : Fp := .fin (n < 0) n.natAbs 0

/-- True for a zero of either sign. -/
def isZero : Fp → Bool
  | .fin _ 0 _ => true
  | _ => false

/-- True for NaN. -/
def isNan : Fp → Bool
  | .nan => true
  | _ => false

/-- True for a finite value. -/
def isFin : Fp → Bool
  | .fin _ _ _ => true
  | _ => false

/-- The sign with which the value is written; NaN has none. -/
def sign : Fp → Bool
  | .nan => false
  | .inf n => n
  | .fin n _ _ => n

/-- The value with its sign inverted. -/
def neg : Fp → Fp
  | .nan => .nan
  | .inf n => .inf (!n)
  | .fin n m e => .fin (!n) m e

/-- The magnitude. -/
def abs : Fp → Fp
  | .nan => .nan
  | .inf _ => .inf false
  | .fin _ m e => .fin false m e

/-- The exact product; infinity times zero is NaN (R85, R90). R85 names no result for infinity times infinity: it is the infinity with the
product's sign, as for infinity times a finite value (DESIGN CHOICE, log 45). -/
def mul : Fp → Fp → Fp
  | .nan, _ => .nan
  | _, .nan => .nan
  | .inf a, .inf b => .inf (a != b)
  | .inf a, .fin b m _ => if m = 0 then .nan else .inf (a != b)
  | .fin a m _, .inf b => if m = 0 then .nan else .inf (a != b)
  | .fin a m e, .fin b n f => .fin (a != b) (m * n) (e + f)

/-- A signed magnitude scaled to the exponent `e0`, which is at most `e`. -/
def scaled (n : Bool) (m : Nat) (e e0 : Int) : Int :=
  let v : Int := ((m <<< (e - e0).toNat : Nat) : Int)
  if n then -v else v

/-- The exact sum; a zero sum is +0 unless both operands are negative (round to nearest). -/
def add : Fp → Fp → Fp
  | .nan, _ => .nan
  | _, .nan => .nan
  | .inf a, .inf b => if a = b then .inf a else .nan
  | .inf a, .fin _ _ _ => .inf a
  | .fin _ _ _, .inf b => .inf b
  | .fin a m e, .fin b n f =>
    let e0 := min e f
    let s := scaled a m e e0 + scaled b n f e0
    if s = 0 then .fin (a && b) 0 0 else .fin (s < 0) s.natAbs e0

/-- The exact difference. -/
def sub (x y : Fp) : Fp := add x (neg y)

/-- `x * 2^k`. -/
def scale2 (x : Fp) (k : Int) : Fp :=
  match x with
  | .fin n m e => .fin n m (e + k)
  | x => x

/-- -1, 0 or 1 as the first is below, equal to or above the second; none when one is NaN. Zeros are equal. -/
def cmp (x y : Fp) : Option Int :=
  match x, y with
  | .nan, _ => none
  | _, .nan => none
  | .inf a, .inf b => some (if a = b then 0 else if a then -1 else 1)
  | .inf a, .fin _ _ _ => some (if a then -1 else 1)
  | .fin _ _ _, .inf b => some (if b then 1 else -1)
  | .fin a m e, .fin b n f =>
    let e0 := min e f
    let d := scaled a m e e0 - scaled b n f e0
    some (if d = 0 then 0 else if d < 0 then -1 else 1)

/-- Ordered and less. -/
def lt (x y : Fp) : Bool := cmp x y == some (-1)

/-- Ordered and equal. -/
def eq (x y : Fp) : Bool := cmp x y == some 0

/-- Ordered and less or equal. -/
def le (x y : Fp) : Bool := lt x y || eq x y

/-- The smaller value, with -0 below +0, and NaN when either is NaN (R49). -/
def min (x y : Fp) : Fp :=
  match cmp x y with
  | none => .nan
  | some c => if c < 0 then x else if 0 < c then y else if sign x then x else y

/-- The larger value, with -0 below +0, and NaN when either is NaN (R49). -/
def max (x y : Fp) : Fp :=
  match cmp x y with
  | none => .nan
  | some c => if c < 0 then y else if 0 < c then x else if sign x then y else x

/-- `m / 2^k` rounded to the nearest integer, ties to even (R91). -/
def rneShift (m k : Nat) : Nat :=
  let n := m >>> k
  let r := m % 2 ^ k
  let h := 2 ^ (k - 1)
  if k = 0 then m else if h < r ∨ (r = h ∧ n % 2 = 1) then n + 1 else n

/-- `m * 2^e` rounded to the nearest integer, ties to even. -/
def rneNat (m : Nat) (e : Int) : Nat :=
  if 0 ≤ e then m <<< e.toNat else rneShift m (-e).toNat

/-- A finite value rounded to the nearest integer, ties to even. -/
def rneInt : Fp → Int
  | .fin n m e => let r : Int := rneNat m e; if n then -r else r
  | _ => 0

/-- The greatest integer at most a finite value. -/
def floor : Fp → Int
  | .fin n m e =>
    if 0 ≤ e then let v : Int := ((m <<< e.toNat : Nat) : Int); if n then -v else v
    else
      let k := (-e).toNat
      if n then -(((m + 2 ^ k - 1) >>> k : Nat) : Int) else ((m >>> k : Nat) : Int)
  | _ => 0

/-- The bits of an IEEE format with `eb` exponent and `mb` mantissa bits, as a value. -/
def ofBits (eb mb w : Nat) : Fp :=
  let s := bit w (eb + mb)
  let ex := bits w mb eb
  let ma := bits w 0 mb
  let bias : Int := (2 ^ (eb - 1) : Nat) - 1
  if ex = 2 ^ eb - 1 then (if ma = 0 then .inf s else .nan)
  else if ex = 0 then .fin s ma (1 - bias - mb)
  else .fin s (2 ^ mb + ma) ((ex : Int) - bias - mb)

/-- The magnitude bits of `m * 2^e` rounded once to a format with `eb` exponent and `mb` mantissa bits;
the result may lie at or above the code of infinity. Subnormals are kept (R74). -/
def roundMag (eb mb m : Nat) (e : Int) : Nat :=
  let bias : Int := (2 ^ (eb - 1) : Nat) - 1
  let qmin : Int := 1 - bias - mb
  let q : Int := Max.max (e + (m.log2 : Int) - mb) qmin
  if m = 0 then 0 else (q - qmin).toNat * 2 ^ mb + rneNat m (e - q)

/-- A value rounded once to an IEEE format: beyond the range it is an infinity, NaN is the canonical NaN (R74, R92). -/
def toBits (eb mb : Nat) : Fp → Nat
  | .nan => (2 ^ eb - 1) * 2 ^ mb + 2 ^ (mb - 1)
  | .inf s => b2n s * 2 ^ (eb + mb) + (2 ^ eb - 1) * 2 ^ mb
  | .fin s m e => b2n s * 2 ^ (eb + mb) + Min.min (roundMag eb mb m e) ((2 ^ eb - 1) * 2 ^ mb)

/-- binary32 bits as a value. -/
def of32 (w : Nat) : Fp := ofBits 8 23 w

/-- A value rounded once to binary32. -/
def to32 (x : Fp) : Nat := toBits 8 23 x

/-- RNE32: a value rounded once to binary32, as a value (R128). -/
def rne32 (x : Fp) : Fp := of32 (to32 x)

/-- BF16 bits as a value: bits [31:16] of a binary32 (R73). -/
def ofBf16 (w : Nat) : Fp := ofBits 8 7 w

/-- A value rounded once to BF16. -/
def toBf16 (x : Fp) : Nat := toBits 8 7 x

/-- binary16 bits as a value. -/
def of16 (w : Nat) : Fp := ofBits 5 10 w

/-- A value rounded once to binary16. -/
def to16 (x : Fp) : Nat := toBits 5 10 x

/-- E4M3 bits as a value: no infinities, one NaN magnitude (R73). -/
def ofE4M3 (w : Nat) : Fp :=
  let s := bit w 7
  let ex := bits w 3 4
  let ma := bits w 0 3
  if ex = 15 ∧ ma = 7 then .nan
  else if ex = 0 then .fin s ma (-9)
  else .fin s (8 + ma) ((ex : Int) - 10)

/-- A value rounded once to E4M3: beyond the range it is 448 in magnitude, an infinity and NaN give the canonical NaN (R92). -/
def toE4M3 : Fp → Nat
  | .nan => 0x7F
  | .inf _ => 0x7F
  | .fin s m e => b2n s * 128 + Min.min (roundMag 4 3 m e) 0x7E

/-- E5M2 bits as a value. -/
def ofE5M2 (w : Nat) : Fp := ofBits 5 2 w

/-- A value rounded once to E5M2: a finite value beyond the range is 57,344 in magnitude (R92). -/
def toE5M2 : Fp → Nat
  | .nan => 0x7E
  | .inf s => b2n s * 128 + 0x7C
  | .fin s m e => b2n s * 128 + Min.min (roundMag 5 2 m e) 0x7B

/-- A value rounded once to an `n`-bit two's complement integer: it saturates, and NaN gives 0 (R92). -/
def toInt (n : Nat) (x : Fp) : Int :=
  let hi : Int := (2 ^ (n - 1) : Nat) - 1
  let lo : Int := -(2 ^ (n - 1) : Nat)
  match x with
  | .nan => 0
  | .inf s => if s then lo else hi
  | .fin _ _ _ => Max.max lo (Min.min hi (rneInt x))

/-- The quotient rounded once to binary32: enough quotient bits and a sticky bit make the one rounding exact. -/
def div32 (x y : Fp) : Fp :=
  match x, y with
  | .nan, _ => .nan
  | _, .nan => .nan
  | .inf _, .inf _ => .nan
  | .inf a, .fin b _ _ => .inf (a != b)
  | .fin a _ _, .inf b => .fin (a != b) 0 0
  | .fin a m e, .fin b n f =>
    if n = 0 then (if m = 0 then .nan else .inf (a != b))
    else
      let k := 64 + n.log2
      let num := m <<< k
      let q := num / n
      let st := if num % n = 0 then 0 else 1
      rne32 (.fin (a != b) (2 * q + st) (e - f - k - 1))

/-- `x * 2^(n/2)` rounded once to binary32; for odd `n` the square root of two enters, exact up to a sticky bit. -/
def scaleHalf32 (x : Fp) (n : Int) : Fp :=
  match x with
  | .fin s m e =>
    if n % 2 = 0 then rne32 (.fin s m (e + n / 2))
    else if m = 0 then .fin s 0 0
    else
      let r := Nat.sqrt (2 * m * m * 4 ^ 64)
      rne32 (.fin s (2 * r + 1) (e + (n - 1) / 2 - 65))
  | x => x

/-- Pairwise tree of FP32 additions: adjacent pairs, then adjacent pair sums, `k` levels (R49, R90). -/
def tree32 : Nat → List Fp → Fp
  | 0, [] => zero
  | 0, x :: _ => x
  | k + 1, xs => tree32 k (pairs xs)
where
  /-- The sums of adjacent pairs. -/
  pairs : List Fp → List Fp
    | [] => []
    | [x] => [x]
    | x :: y :: t => rne32 (add x y) :: pairs t

end Fp

/-- The block exponent product of a mantissa: the smallest integer `e` with `x <= q * 2^e`, for positive `x` and `q` (R94). -/
def leastExp (xm : Nat) (xe : Int) (qm : Nat) (qe : Int) : Int :=
  let e0 : Int := (xe + xm.log2) - (qe + qm.log2)
  let holds (e : Int) : Bool := Fp.le (.fin false xm xe) (.fin false qm (qe + e))
  if holds (e0 - 1) then e0 - 1 else if holds e0 then e0 else e0 + 1

end Sys2Proof.Machine
end

