-- ==== Sys2Proof/Machine/Exact.lean ====
section
/-!
DEFINITION. The real functions that the factory programs approximate (R169, R171), evaluated in fixed point with an error far below
any bound that R171 states (log 44), and the rounding and the error bounds stated against them.
-/

namespace Sys2Proof.Machine

namespace Real

/-! ### Fixed point: an integer `n` stands for n / 2^320 -/

/-- Fraction bits. -/
def prec : Nat := 320
/-- 1. -/
def one : Int := 2 ^ prec
/-- A finite value in fixed point; its exponent is at least -320 for every FP32 value. -/
def fix (x : Fp) : Int :=
  match x with
  | .fin s m e => Fp.floor (.fin s m (e + prec))
  | _ => 0
/-- The product. -/
def mul (a b : Int) : Int := a * b / one
/-- The quotient. -/
def div (a b : Int) : Int := a * one / b
/-- A fixed-point number as a value, times 2^n. -/
def val (a : Int) (n : Int) : Fp := .fin (a < 0) a.natAbs (n - prec)

/-- The square root of a nonnegative number. -/
def sqrt (a : Int) : Int := (Nat.sqrt (a.natAbs * 2 ^ prec) : Nat)

/-- The sum of z^(2k+1) / (2k+1): atanh z for |z| at most 1/3. -/
def atanh (z : Int) : Int :=
  let z2 := mul z z
  ((List.range 130).foldl (fun (acc : Int × Int) k => (acc.1 + acc.2 / (2 * k + 1 : Nat), mul acc.2 z2)) (0, z)).1

/-- ln 2. -/
def ln2 : Int := 2 * atanh (one / 3)

/-- The natural logarithm of a number from 1 up to 2 (or a little outside). -/
def lnNear (m : Int) : Int := 2 * atanh (div (m - one) (m + one))

/-- The exponential of a small number by its series. -/
def expNear (r : Int) : Int :=
  ((List.range 90).foldl (fun (acc : Int × Int) k => (acc.1 + acc.2, mul acc.2 r / (k + 1 : Nat))) (0, one)).1

/-- e^x as a number and a power of two; beyond 2^400 on either side the power is held there. -/
def exp (x : Int) : Int × Int :=
  let n := (x + ln2 / 2) / ln2
  if 400 < n then (one, 400) else if n < -400 then (one, -400) else (expNear (x - n * ln2), n)

/-- e^x in fixed point, for x at most 0. -/
def expFix (x : Int) : Int :=
  let (m, n) := exp x
  if 0 ≤ n then m * 2 ^ n.toNat else m / 2 ^ (-n).toNat

/-- ln of a value above zero. -/
def ln (x : Fp) : Int :=
  match x with
  | .fin _ m e =>
    let l : Nat := m.log2
    lnNear (fix (.fin false m (-(l : Int)))) + (e + l) * ln2
  | _ => 0

/-- atan (1 / n) by its series. -/
def atanInv (n : Nat) : Int :=
  let z := one / n
  ((List.range 140).foldl (fun (acc : Int × Int) k => (acc.1 + acc.2 / (2 * k + 1 : Nat), -(acc.2 / (n * n : Nat)))) (0, z)).1

/-- pi by Machin's formula. -/
def pi : Int := 4 * (4 * atanInv 5 - atanInv 239)

/-- sin and cos of a reduced number. -/
def sinCosNear (r : Int) : Int × Int :=
  let t := (List.range 100).foldl (fun (acc : (Int × Int) × Int) k =>
    let term := acc.2
    let next := mul term r / (k + 1 : Nat)
    (match k % 4 with
      | 0 => (acc.1.1, acc.1.2 + term)
      | 1 => (acc.1.1 + term, acc.1.2)
      | 2 => (acc.1.1, acc.1.2 - term)
      | _ => (acc.1.1 - term, acc.1.2), next)) ((0, 0), one)
  t.1

/-- sin x and cos x. -/
def sinCos (x : Int) : Int × Int :=
  let h := pi / 2
  let n := (x + h / 2) / h
  let (s, c) := sinCosNear (x - n * h)
  match n % 4 with
  | 0 => (s, c)
  | 1 => (c, -s)
  | 2 => (-s, -c)
  | _ => (-c, s)

/-- erf of a number from 0 up to 8, by the series whose terms have one sign. -/
def erfPos (x : Int) : Int :=
  let x2 := mul x x
  let sum := ((List.range 500).foldl (fun (acc : Int × Int) k => (acc.1 + acc.2, 2 * mul acc.2 x2 / (2 * k + 3 : Nat))) (0, x)).1
  mul (div (2 * sum) (sqrt pi)) (expFix (-x2))

/-- erf. -/
def erf (x : Int) : Int :=
  let a : Int := (x.natAbs : Nat)
  let r := if 12 * one < a then one else erfPos a
  if x < 0 then -r else r

/-- tanh. -/
def tanh (x : Int) : Int :=
  let a : Int := (x.natAbs : Nat)
  let e := expFix (-2 * a)
  let r := div (one - e) (one + e)
  if x < 0 then -r else r

/-- 1 / (1 + e^-x). -/
def sigmoid (x : Int) : Int :=
  let e := expFix (-(x.natAbs : Nat))
  if x < 0 then div e (one + e) else div one (one + e)

/-- ln (1 + e^x). -/
def softplus (x : Int) : Int :=
  let e := expFix (-(x.natAbs : Nat))
  let l := 2 * atanh (div e (2 * one + e))
  if x < 0 then l else x + l

/-- x/2 (1 + tanh (sqrt (2/pi) (x + 0.044715 x^3))) (PRESUMED, log 44). -/
def geluTanh (x : Int) : Int :=
  let u := mul (sqrt (div (2 * one) pi)) (x + mul (mul x (mul x x)) (44715 * one / 1000000))
  mul x (one + tanh u) / 2

/-- x/2 (1 + erf (x / sqrt 2)). -/
def geluErf (x : Int) : Int := mul x (one + erf (div x (sqrt (2 * one)))) / 2

/-- 1 / x of a value that is not zero. -/
def recip (x : Fp) : Fp :=
  match x with
  | .fin s m e => .fin s (2 ^ prec / m) (-e - prec)
  | _ => .nan

/-- The square root of a value above zero. -/
def root (x : Fp) : Fp :=
  match x with
  | .fin _ m e =>
    if e % 2 = 0 then .fin false (Nat.sqrt (m * 4 ^ prec)) (e / 2 - prec) else .fin false (Nat.sqrt (2 * m * 4 ^ prec)) ((e - 1) / 2 - prec)
  | _ => .nan

end Real

/-! ### What a factory program approximates (R169, R353) -/

/-- The exact value of factory function `n` at a finite value that is not zero and in its domain (R169, R353). Beyond 1024 in
magnitude the argument of a function that has run into its limit there is held at 1024. -/
def exactFn (n : Nat) (x : Fp) : Fp :=
  let lim (y : Fp) : Int := max (-1024 * Real.one) (min (1024 * Real.one) (Real.fix y))
  let f := lim x
  let ex (a : Int) : Fp := let r := Real.exp a; Real.val r.1 r.2
  match n with
  | 1 => ex (Real.mul f Real.ln2)
  | 2 => ex f
  | 3 => Real.val (Real.div (Real.ln x) Real.ln2) 0
  | 4 => Real.val (Real.ln x) 0
  | 5 => Real.recip x
  | 6 => Real.recip (Real.root x)
  | 7 => Real.root x
  | 8 => Real.val (Real.sigmoid f) 0
  | 9 => Real.val (Real.tanh f) 0
  | 10 => Real.val (Real.erf f) 0
  | 11 => Real.val (Real.geluTanh f) 0
  | 12 => Real.val (Real.geluErf f) 0
  | 13 => Real.val (Real.mul f (Real.sigmoid f)) 0
  | 14 => Real.val (Real.softplus f) 0
  | 15 => Real.val (Real.sinCos (Real.fix x)).1 0
  | 16 => Real.val (Real.sinCos (Real.fix x)).2 0
  | _ => Real.root (Fp.abs (Fp.rne32 (Fp.mul x (Fp.of32 0xBFB17218))))

/-- Where R169 to R171 fix the result itself: outside the ranges of exp2 and exp, at a zero of sigmoid and softplus, in the linear
and the constant pieces of tanh, erf, the gelus, silu and softplus. As an FP32 word. -/
def exactWord (n xw : Nat) : Option Nat :=
  let x := Fp.of32 xw
  let num (a : Int) : Fp := Fp.ofInt a
  let hundredth (a : Int) : Bool := Fp.lt (Fp.mul x (num 100)) (num a)
  let mag := Fp.abs x
  let pw (k : Int) : Fp := .fin false 1 k
  let sgn (w : Nat) : Nat := if Fp.sign x then w + 0x80000000 else w
  match n with
  | 1 => if Fp.lt x (num (-150)) then some 0 else if Fp.lt x (num 128) then none else some 0x7F800000
  | 2 => if Fp.lt x (num (-104)) then some 0 else if hundredth 8873 then none else some 0x7F800000
  | 8 => if Fp.isZero x then some 0x3F000000 else if hundredth (-8872) then some 0 else none
  | 9 => if Fp.lt mag (pw (-12)) then some xw else if Fp.le (.fin false 73 (-3)) mag then some (sgn 0x3F800000) else none
  | 10 => if Fp.lt mag (pw (-12)) then some xw
    else if Fp.le (num 392) (Fp.mul mag (num 100)) then some (sgn 0x3F800000) else none
  | 11 | 12 => if Fp.lt x (num (-8)) then some 0x80000000 else if Fp.lt x (num 8) then none else some xw
  | 13 => if Fp.lt x (num 16) then none else some xw
  | 14 => if Fp.isZero x then some (Fp.to32 (Real.val Real.ln2 0)) else if Fp.lt x (num 20) then none else some xw
  | _ => none

/-- The distance of two finite values is at most `k` times 2^e. -/
def within (x v : Fp) (k : Nat) (e : Int) : Bool := Fp.isFin x && Fp.le (Fp.abs (Fp.sub x v)) (.fin false k e)

/-- The exponent of an FP32 ulp at a value (R171). -/
def ulpExp (v : Fp) : Int :=
  match v with
  | .fin _ m e => if m = 0 then -149 else max (-149) (e + m.log2 - 23)
  | _ => 0

/-- The bounds of R171 and R353 admit `r` for input `x`, where the exact result is `v`. -/
def factoryBound (n : Nat) (x v r : Fp) : Bool :=
  let ulps (k : Nat) : Bool := within r v k (ulpExp v)
  let mag := Fp.abs x
  let pw (k : Int) : Fp := .fin false 1 k
  match n with
  | 1 => ulps 1
  | 2 => ulps 2
  | 3 => ulps 2
  | 4 => ulps 2
  | 5 => ulps 1 || (!Fp.isFin (Fp.rne32 v) && r == Fp.rne32 v)
  | 6 => ulps 1
  | 7 => ulps 1
  | 8 => ulps 3
  | 9 => ulps 2
  | 10 => ulps 2
  | 11 | 12 => if Fp.lt x (Fp.ofInt (-3)) then within r v 1 (-32) else ulps 3
  | 13 => ulps 3
  | 14 => ulps 2
  | 15 | 16 =>
    if Fp.le mag (pw 17) then (if Fp.le (pw (-10)) (Fp.abs v) then ulps 2 else within r v 1 (-33))
    else if Fp.lt mag (pw 24) then within r v 1 (-20)
    else within r Fp.zero 1 0
  | _ => ulps 1

end Sys2Proof.Machine
end

