-- ==== Sys2Proof/Machine/Factory.lean ====
section
/-!
DEFINITION. The factory contents of the special-function tables (R169, R170, R353): what the manual states of the records and segments
stands as it states it, and every other byte is a free value (log 9, log 44).
-/

namespace Sys2Proof.Machine

/-- A factory sub-table (R164, R169): the function its segments approximate, its segments, its mode, and its range. LIN: the
lower bound is `lo` segment widths, the width 2^we. LOG: the first binade is 2^we, with 2^mb segments a binade. -/
structure SubTable where
  fn : Nat
  base : Nat
  count : Nat
  log : Bool
  lo : Int
  we : Int
  mb : Nat
  deriving DecidableEq, Repr

/-- A linear sub-table. -/
def linTable (fn base count : Nat) (lo we : Int) : SubTable := { fn := fn, base := base, count := count, log := false, lo := lo, we := we, mb := 0 }
/-- A logarithmic sub-table. -/
def logTable (fn base count : Nat) (we : Int) (mb : Nat) : SubTable := { fn := fn, base := base, count := count, log := true, lo := 0, we := we, mb := mb }

/-- The sub-tables of factory program `n` (R169, R353); a program's own sub-table comes first, and sin's before cos's (log 9). -/
def factorySubs : Nat → List SubTable
  | 1 => [linTable 1 0 16 0 (-4)]
  | 2 => [linTable 2 16 24 0 (-5)]
  | 3 => [linTable 3 40 48 (-16) (-6)]
  | 4 => [linTable 4 88 48 (-16) (-6)]
  | 5 => [linTable 5 136 32 32 (-5)]
  | 6 => [logTable 6 168 64 0 5]
  | 7 => [logTable 7 232 64 0 5]
  | 8 => [linTable 2 16 24 0 (-5), linTable 5 136 32 32 (-5)]
  | 9 => [logTable 9 296 128 (-12) 3]
  | 10 => [logTable 10 424 112 (-12) 3]
  | 11 => [linTable 11 536 256 (-128) (-4)]
  | 12 => [linTable 12 792 256 (-128) (-4)]
  | 13 => [linTable 13 1048 256 (-128) (-3), linTable 2 16 24 0 (-5)]
  | 14 => [linTable 14 1304 160 (-80) (-2), linTable 2 16 24 0 (-5)]
  | 15 => [linTable 15 1464 16 (-8) (-3), linTable 16 1480 16 (-8) (-3)]
  | 16 => [linTable 15 1496 16 (-8) (-3), linTable 16 1512 16 (-8) (-3)]
  | 17 => [logTable 7 232 64 0 5]
  | _ => []

/-- The lower end of segment `i` of a sub-table; segment `count` is the upper end of the last. -/
def SubTable.edge (t : SubTable) (i : Nat) : Fp :=
  let v (n : Int) (e : Int) : Fp := .fin (n < 0) n.natAbs e
  if t.log then v (2 ^ t.mb + i % 2 ^ t.mb : Nat) (t.we + (i / 2 ^ t.mb : Nat) - t.mb) else v (t.lo + i) t.we

/-- The function that a sub-table approximates, at an argument of the polynomial: log2 and log take m - 1 (R169). -/
def SubTable.value (t : SubTable) (x : Fp) : Fp :=
  match t.fn with
  | 3 => exactFn 3 (Fp.add (Fp.ofInt 1) x)
  | 4 => exactFn 4 (Fp.add (Fp.ofInt 1) x)
  | n => exactFn n x

/-- The FP32 word of the function at an end of a segment (R165). -/
def SubTable.edgeWord (t : SubTable) (i : Nat) : Nat := Fp.to32 (t.value (t.edge i))

/-- The steps of factory program `n` as operation, mode and PAR: those whose latencies add up to what R169 prints for the program's
construction (DEDUCED, log 9). -/
def factorySteps (n : Nat) : List (Nat × Nat × Nat) :=
  let poly (sub d : Nat) : List (Nat × Nat × Nat) := [(2, 0, sub), (3, 0, sub), (4, 0, d)]
  let expm (sub : Nat) : List (Nat × Nat × Nat) := [(1, 1, 0)] ++ poly sub 4 ++ [(5, 0, 0)]
  match n with
  | 2 => expm 0
  | 3 => [(1, 4, 0), (6, 5, 0)] ++ poly 0 5 ++ [(5, 4, 0)]
  | 4 => [(1, 4, 0), (6, 5, 0)] ++ poly 0 5 ++ [(5, 5, 0)]
  | 5 => [(1, 3, 0)] ++ poly 0 3 ++ [(5, 1, 0), (5, 7, 0)]
  | 6 => [(1, 5, 0)] ++ poly 0 3 ++ [(5, 3, 0)]
  | 7 => [(1, 5, 0)] ++ poly 0 3 ++ [(5, 2, 0)]
  | 8 => [(6, 6, 0)] ++ expm 0 ++ [(6, 5, 0), (1, 3, 0)] ++ poly 1 3 ++ [(5, 1, 0), (5, 6, 0)]
  | 9 | 10 => [(6, 6, 0)] ++ poly 0 5 ++ [(7, 2, 0), (7, 5, 0), (5, 7, 0)]
  | 11 | 12 => poly 0 5 ++ [(7, 3, 0), (7, 4, 0)]
  | 13 => poly 0 5 ++ expm 1 ++ [(6, 2, 0), (7, 3, 0), (7, 2, 0)]
  | 14 => poly 0 5 ++ expm 1 ++ [(7, 3, 0), (7, 2, 0)]
  | 15 => [(1, 2, 0)] ++ poly 0 5 ++ poly 1 5 ++ [(7, 0, 0)]
  | 16 => [(1, 2, 0)] ++ poly 0 5 ++ poly 1 5 ++ [(7, 1, 0)]
  | 17 => [(6, 4, 0), (1, 5, 0)] ++ poly 0 3 ++ [(5, 2, 0)]
  | _ => []

/-- The largest constant index that a step may name (R180), plus 1. -/
def constBound (op mode : Nat) : Nat :=
  match op, mode with
  | 1, 1 => 4 | 1, 2 => 4 | 1, 4 => 6 | 5, 5 => 6 | 6, 4 => 6 | 6, 5 => 6 | 7, 2 => 6 | 7, 3 => 6 | 7, 4 => 5 | 7, 5 => 5 | _, _ => 8

/-- Step word `j` of factory program `n`: its registers and constant indices are free, the first step reads w0 (R162). -/
def factoryStep (n j : Nat) : Nat :=
  match (factorySteps n)[j]? with
  | none => 0
  | some (op, mode, par) =>
    let free (k m : Nat) : Nat := (Config.factoryByte 0 (128 * n + 0x40 + 4 * j + k)).toNat % m
    let regs : Nat × Nat × Nat × Nat := if n = 17 ∧ j = 0 then (0, 0, 0, 0)
      else (free 0 (if op = 1 ∨ op = 2 then 7 else 8), if j = 0 then 0 else free 1 8, free 2 8, free 3 (constBound op mode))
    op + 2 ^ 4 * mode + 2 ^ 8 * regs.1 + 2 ^ 11 * regs.2.1 + 2 ^ 14 * regs.2.2.1 + 2 ^ 17 * regs.2.2.2 + 2 ^ 20 * par

/-- Sub-table descriptor `k` of factory program `n` (R164). LO of a LOG sub-table has no meaning and is free. -/
def factorySub (n k : Nat) : Nat :=
  match (factorySubs n)[k]? with
  | none => 0
  | some t =>
    let lo := if t.log then ofLe ((List.range 4).map (fun i => Config.factoryByte 0 (128 * n + 8 + 8 * k + i))) else Fp.to32 (t.edge 0)
    lo + 2 ^ 32 * t.base + 2 ^ 43 * (t.count - 1) + 2 ^ 51 * b2n t.log + 2 ^ 52 * t.mb + 2 ^ 55 + 2 ^ 56 * unsigned 8 t.we

/-- Byte 0x02 or 0x03 of a factory record: the special-value codes of R170 and R353. -/
def factorySpecial (n hi : Nat) : Nat :=
  let t : List (Nat × Nat) :=
    [(0, 0), (0x51, 0x33), (0x51, 0x33), (0x57, 0x66), (0x57, 0x66), (0x12, 0x56), (0x17, 0x56), (0x57, 0x88), (0x31, 0x00)] ++
    [(0x34, 0x88), (0x34, 0x88), (0x52, 0x88), (0x52, 0x88), (0x52, 0x88), (0x51, 0x00), (0x77, 0x88), (0x77, 0x33), (0x75, 0x11)]
  let e := t.getD n (0, 0)
  if hi = 0 then e.1 else e.2

/-- The NEGNAN flag of a factory record (R170). -/
def factoryNegNan (n : Nat) : Bool := n == 3 || n == 4 || n == 6 || n == 7

/-- The factory exp2 record as the manual prints it: header, sub-table 0 and the five steps. -/
def exp2Record (i : Nat) : Option Nat :=
  let word (w : Nat) (k : Nat) : Option Nat := some ((w >>> (8 * k)) % 256)
  if i < 8 then word 0x33510503 i
  else if i < 16 then word 0xFC80780000000000 (i - 8)
  else if 0x40 ≤ i ∧ i < 0x54 then
    word (([0x101, 0xB02, 0x1803, 0x410D04, 0xA805] : List Nat).getD ((i - 0x40) / 4) 0) ((i - 0x40) % 4)
  else if 0x54 ≤ i then some 0
  else none

/-- Byte `i` of the factory program record `n` (R169, R170, R353): records 0 and 0x12 to 0xFF have V = 0; what the manual does not
print of a record is a free value (log 9). -/
def factoryRecord (n i : Nat) : Byte :=
  let free := Config.factoryByte 0 (128 * n + i)
  if n = 0 ∨ 0x12 ≤ n then (if i = 0 then free &&& 0xFE#8 else free)
  else
    match (if n = 1 then exp2Record i else none) with
    | some b => BitVec.ofNat 8 b
    | none =>
      if i = 0 then 1#8 ||| (free &&& 2#8) ||| (if factoryNegNan n then 4#8 else 0#8)
      else if i = 1 then BitVec.ofNat 8 (factorySteps n).length
      else if i = 2 ∨ i = 3 then BitVec.ofNat 8 (factorySpecial n (i - 2))
      else if i < 8 then 0#8
      else if i < 0x28 then byteOf (factorySub n ((i - 8) / 8)) (i % 8)
      else if i < 0x40 then (if n = 17 ∧ i < 0x2C then byteOf 0xBFB17218 (i - 0x28) else free)
      else byteOf (factoryStep n ((i - 0x40) / 4)) (i % 4)

/-- The sub-table that holds factory segment `i`. -/
def segmentHolder (i : Nat) : Option SubTable :=
  ((List.range 17).flatMap factorySubs).find? (fun t => decide (t.base ≤ i ∧ i < t.base + t.count))

/-- Byte `i` of the factory segment store (R165, R169): the coefficients are free but for C0 of exp2's first segment, YLO and YHI are
the function's values at the segment's ends. -/
def factorySegment (i : Nat) : Byte :=
  let o := i % 32
  if i < 4 then byteOf 0x3F800000 i
  else
    match segmentHolder (i / 32) with
    | none => 0#8
    | some t =>
      if o < 0x18 then Config.factoryByte 1 i
      else byteOf (t.edgeWord (i / 32 - t.base + (if o < 0x1C then 0 else 1))) (o % 4)

end Sys2Proof.Machine
end

