-- ==== Sys2Proof/Machine/Tab.lean ====
section
/-!
DEFINITION. Reading and writing sparse tables. `d k` is what key `k` reads as when it is not listed.
-/

namespace Sys2Proof.Machine

/-- The value at a key. -/
def tget {α : Type} (d : Nat → α) : Tab α → Nat → α
  | [], k => d k
  | (k', v) :: t, k => if k = k' then v else tget d t k

/-- The table with its entry at `k`, if any, taken out. -/
def tdrop {α : Type} (t : Tab α) (k : Nat) : Tab α := t.filter (fun p => p.1 != k)

/-- The table with `v` listed at `k`. -/
def tins {α : Type} : Tab α → Nat → α → Tab α
  | [], k, v => [(k, v)]
  | (k', v') :: t, k, v =>
    if k = k' then (k, v) :: t
    else if k < k' then (k, v) :: (k', v') :: t
    else (k', v') :: tins t k v

/-- The table with the value `v` at key `k`, in canonical form: a value that an unlisted key reads as is not listed. -/
def tput {α : Type} [DecidableEq α] (d : Nat → α) (t : Tab α) (k : Nat) (v : α) : Tab α :=
  if v = d k then tdrop t k else tins t k v

/-- The canonical form: keys strictly rising, and no entry equal to what its key reads as unlisted. -/
abbrev TabWf {α : Type} (d : Nat → α) (t : Tab α) : Prop :=
  t.Pairwise (fun a b => a.1 < b.1) ∧ ∀ p ∈ t, p.2 ≠ d p.1

/-- A table of optional values, where an unlisted key holds nothing. -/
def oget {α : Type} (t : Tab α) (k : Nat) : Option α :=
  match t with
  | [] => none
  | (k', v) :: t' => if k = k' then some v else oget t' k

/-- The table with key `k` present or absent. -/
def oput {α : Type} (t : Tab α) (k : Nat) (v : Option α) : Tab α :=
  match v with
  | none => tdrop t k
  | some x => tins t k x

/-- The value at a key of a plain association, changed where it is present. -/
def oupd {α : Type} (t : Tab α) (k : Nat) (f : α → α) : Tab α :=
  match oget t k with
  | none => t
  | some x => tins t k (f x)

/-- Every listed value changed, in canonical form. -/
def tmap {α : Type} [DecidableEq α] (d : Nat → α) (f : Nat → α → α) (t : Tab α) : Tab α :=
  (t.map (fun p => (p.1, f p.1 p.2))).filter (fun p => p.2 ≠ d p.1)

/-- The least key that is not used, from `k` on, searched over `fuel` keys. -/
def freeKey {α : Type} (t : Tab α) : Nat → Nat → Option Nat
  | 0, _ => none
  | fuel + 1, k => if (oget t k).isNone then some k else freeKey t fuel (k + 1)

end Sys2Proof.Machine
end

