-- ==== Sys2Proof/Machine/State.lean ====
section
/-!
DEFINITION. The state of the block, what a step can stop with, and the state right after reset.
-/

namespace Sys2Proof.Machine

/-- Faults. The manual stops the block in no command: a fault of a program ends its tile-thread, a command's
failure is its status, and the block goes on. -/
inductive Fault where
  /-- Raised by no command (safe: the constructor only makes the type inhabited). -/
  | none
  deriving DecidableEq, Repr

/-- Refusals. -/
inductive Refusal where
  /-- A command that has no meaning yet, by its mnemonic: raised by exec alone (safe: the block stops). -/
  | notModelled (mnemonic : String)
  deriving DecidableEq, Repr

/-! ### Cores and contexts (02, 03, 04, 06) -/

/-- A fault a core raises: its code (R65), the slot (R64) and the five DETAIL words. -/
structure CoreFault where
  code : Nat
  slot : Nat
  d18 : Nat
  d20 : Nat
  d28 : Nat
  d30 : Nat
  d38 : Nat
  deriving DecidableEq, Repr

/-- The tile-thread a context runs, or ran: its launch and its linear index (R67). -/
structure Thread where
  launch : Nat
  index : Nat
  deriving DecidableEq, Repr

/-- What a context waits for (R38, R51, R59). -/
inductive Wait where
  | none
  | fence (mask : BitVec 3) (before : Nat)
  | tags (mask : BitVec 16)
  | semWait (die idx n : Nat)
  | semTake (die idx n : Nat)
  | barrier (part die idx : Nat)
  | line (addr : Nat)
  deriving DecidableEq, Repr

/-- A value a tile-thread took from a semaphore, recorded for an audit (R354). -/
structure SemSeen where
  die : Nat
  idx : Nat
  take : Bool
  value : Nat
  deriving DecidableEq, Repr

/-- One thread context (R36, R38). -/
structure Ctx where
  s : Tab W64
  a : Tab (BitVec 48)
  v : Tab (List W32)
  p : Tab (BitVec 256)
  d : Tab W32
  accTiles : Nat                       -- R37
  pc : BitVec 48                       -- R30
  tags : Tab Nat                       -- R56
  wait : Wait
  tt : Option Thread                   -- the tile-thread it runs
  launch : Option Nat                  -- the launch whose share it works through (R68)
  k : Nat                              -- position in its share (R68)
  chunkNext : Nat                      -- the next index of its claimed range, and its end (R69)
  chunkEnd : Nat
  spadBase : Nat                       -- R58
  spadSize : Nat
  kfc : List Byte                      -- R89; holds WIDEN_POLICY (R97)
  chain : List Byte                    -- R127
  kmode : Bool                         -- LUP_KCFG.KMODE (R111)
  statMac : W64                        -- LUP_STAT_MAC (R121)
  lastHandle : Nat                     -- R119
  seen : List SemSeen
  deriving DecidableEq, Repr

/-- A parsed tensor descriptor (R52): extents of dimensions 0 to 4. -/
structure Desc where
  fmt : Nat
  rank : Nat
  box : List Nat
  valid : List Nat
  stride : List Int
  aux : Nat
  deriving DecidableEq, Repr

/-- A parsed scale header (R77). -/
structure ScaleHdr where
  expMin : Int
  expMax : Int
  mode : Nat
  baseFmt : Nat
  maxF : Nat
  tscale : W32
  tbase : Nat
  expAddr : Nat
  scaleAddr : Nat
  mapAddr : Nat
  mapCols : Nat
  w2tid : Nat
  deriving DecidableEq, Repr

/-- A mover operation from its issue to its completion, with what it captured at issue (R55, R465). -/
structure MoverRec where
  seq : Nat
  ctx : Nat
  by_ : Thread
  op : MoverOp
  tag : Option Nat                     -- none for a load of Lupin (R118)
  sig : Option (Nat × Nat)             -- die and semaphore of SEMEN
  pc : BitVec 48
  src : Nat
  dst : Nat
  desc : Desc
  hdr : Option ScaleHdr
  w2 : W32                             -- the code table word read at issue (R80)
  fmt : Nat                            -- the format moved: that of the status word for FMAP (R101)
  part : Nat
  deriving DecidableEq, Repr

/-- A place of a Lupin-issued mmul in its lrun (R126). -/
structure NestPos where
  seq : Nat
  table : Nat
  deriving DecidableEq, Repr

/-- An mmul, with its operand offsets as read at issue (R105). -/
structure MmulRec where
  ctx : Nat
  tile : Nat
  a : Nat
  b : Nat
  kch : Nat
  fmta : Nat
  fmtb : Nat
  acc : Bool
  trb : Bool
  done : Nat                           -- chunks added
  nest : Option NestPos
  needs : List Nat                     -- sequence numbers of the loads it waits for (R118)
  at_ : Nat                            -- sequence number at which Lupin expanded it; 0 in TILE mode
  issued : Option Nat                  -- sequence number at which Lupin issued it (R118, R181); none before, and in TILE mode
  deriving DecidableEq, Repr

/-- A drain from its issue (R108). `x`: the value of X of each stage (R127). -/
structure DrainRec where
  seq : Nat
  ctx : Nat
  by_ : Thread
  pc : BitVec 48
  tile : Nat
  pair : Bool                          -- its chain reads the partner tile (R108, R128)
  chain : Nat
  dst : Nat
  desc : Desc
  hdr : Option ScaleHdr
  w2 : W32                             -- the code table word read at issue (R80)
  x : List Nat
  lrun : Option Nat                    -- the lrun whose drain it is
  part : Nat
  deriving DecidableEq, Repr

/-- One entry of the matrix queue (R48). -/
inductive MatrixRec where
  | mmul (m : MmulRec) (by_ : Thread) (pc : BitVec 48) (seq : Nat)
  | mdrain (d : DrainRec)
  | mfree (ctx tile seq : Nat)
  | clear (ctx tile seq : Nat)         -- a tile that a new tile-thread finds empty (R38); it takes no entry of the queue
  | lrun (ctx : Nat) (by_ : Thread) (pc : BitVec 48) (table : Nat) (seq : Nat) (header : Nat)
  deriving DecidableEq, Repr

/-- One level of a loop nest (R114). -/
structure Level where
  boundM1 : Nat
  pos : Nat
  kind : Nat
  padv : Nat
  chstep : Nat
  sa : Int
  sb : Int
  sc : Int
  sx : Int
  deriving DecidableEq, Repr

/-- One table of a loop-nest chain, with its templates (R113). -/
structure Nest where
  off : Nat
  seqBit : Bool
  kchl : Nat
  trb : Bool
  chain : Nat
  nba : Nat
  nbb : Nat
  descA : Desc
  hdrA : Option ScaleHdr
  descB : Desc
  hdrB : Option ScaleHdr
  descC : Desc
  hdrC : Option ScaleHdr
  regA : Nat
  regB : Nat
  regC : Nat
  regX : Nat
  stgOff : Nat
  stgSize : Nat
  fmta : Nat
  fmtb : Nat
  sig : Option (Nat × Nat)
  levels : List Level
  deriving DecidableEq, Repr

/-- What the last load of one operand of an lrun staged (R118): its address, its validity, its buffer and the
sequence number of the load. -/
structure Staged where
  addr : Nat
  v0 : Nat
  v1 : Nat
  buf : Nat
  load : Nat
  deriving DecidableEq, Repr

/-- An lrun in expansion (R116 to R122). -/
structure Lrun where
  id : Nat
  ctx : Nat
  by_ : Thread
  pc : BitVec 48
  tables : List Nest
  tbl : Nat                            -- the table being walked
  idx : List Nat                       -- the next iteration vector, by POS
  changed : Nat                        -- the outermost POS that changed (R125)
  ba : Nat
  bb : Nat
  bc : Nat
  bx : Nat
  seq : Nat                            -- mmuls issued
  stA : Option Staged
  stB : Option Staged
  held : List (List Nat × Nat × Nat)   -- key, tile handle (the first of a pair), and 0 for one tile, 1 for a pair, 2 for a partner tile that is left
  walked : Bool                        -- every iteration has been expanded
  header : Nat                         -- the header word of the lrun's bundle, for ILLEGAL_BUNDLE (R80)
  sig : Option (Nat × Nat)
  deriving DecidableEq, Repr

/-- An mmul that Lupin has expanded and that has not completed (R117, R122): its lrun, and the staging areas of that lrun
as first and last byte of the core's scratchpad. -/
structure LupinMmul where
  m : MmulRec
  lrun : Nat
  by_ : Thread
  pc : BitVec 48
  areas : List (Nat × Nat)
  deriving DecidableEq, Repr

/-- A drain that has started: what it will write (R100, R130). `rerun`: the format of the next run, if it widens. -/
structure DrainRun where
  d : DrainRec
  fmt : Nat
  steps : Nat
  sb0 : Nat
  rerun : Bool
  poison : Bool                        -- made from a poisoned line (R362)
  writes : List (Nat × List Byte)      -- spans to write, with the tile status word
  deriving DecidableEq, Repr

/-- The value of one accumulator entry (R83, R90). -/
inductive Entry where
  | int (n : BitVec 96)
  | pinf
  | ninf
  | nan
  | f32 (w : W32)
  deriving DecidableEq, Repr

/-- The accumulation path a tile has taken (R82). -/
inductive Path where
  | empty | fixed | fp32
  deriving DecidableEq, Repr

/-- One accumulator tile (R29, R83, R87). Entry (r, c) at key 128 r + c. -/
structure Tile where
  path : Path
  entries : Tab Entry
  kdone : Nat
  poison : Bool                        -- computed from a poisoned line (R362)
  deriving DecidableEq, Repr

/-- A tile that is empty and not live. -/
def Tile.empty : Tile := { path := .empty, entries := [], kdone := 0, poison := false }

/-- One set of the instruction cache: the line address and bytes of each way, and the tree bits (R29, R59). -/
structure ICacheSet where
  w0 : Option (Nat × List Byte)
  w1 : Option (Nat × List Byte)
  w2 : Option (Nat × List Byte)
  w3 : Option (Nat × List Byte)
  plru : BitVec 3
  deriving DecidableEq, Repr

/-- A set that holds no line. -/
def ICacheSet.empty : ICacheSet := { w0 := none, w1 := none, w2 := none, w3 := none, plru := 0 }

/-- A commit whose table has not switched (R180, R181): the table's number in SFU_ACTIVE, whether its check has
passed, the context and bundle that committed, and the sequence number of the commit. -/
structure Commit where
  table : Nat
  passed : Bool
  ctx : Option Nat
  by_ : Thread
  pc : BitVec 48
  header : Nat                         -- the bundle's header word, for ILLEGAL_BUNDLE
  seq : Nat
  deriving DecidableEq, Repr

/-- The power states of an engine that a cycle without a ready context does not change (R430, R447). -/
inductive Power where
  | run | retain | off
  deriving DecidableEq, Repr

/-- What a pre-emption saved of a core (R296). -/
structure Saved where
  ctxs : List (Nat × Ctx)
  tiles : Tab Tile
  spad : List (Nat × List Byte)
  lmq : List MoverRec
  smq : List MoverRec
  mq : List MatrixRec
  drains : List DrainRec
  lrun : Option Lrun
  lmm : List LupinMmul
  tail : List (Nat × Nat × Thread × Option (Nat × Nat))
  size : Nat                           -- bytes saved
  deriving DecidableEq, Repr

/-- One Thaif core (R29). -/
structure Core where
  lastCtx : Nat                        -- R40
  lastYield : Bool
  icache : Tab ICacheSet
  nextSeq : Nat                        -- numbers operations in order of issue (R181)
  lmq : List MoverRec                  -- load mover queue
  smq : List MoverRec                  -- store mover queue
  mq : List MatrixRec                  -- matrix queue
  drains : List DrainRec               -- drains issued by Lupin that have not started
  drain : Option DrainRun              -- the drain being read
  writing : List DrainRun              -- drains read and not yet written
  lrun : Option Lrun                   -- the lrun in expansion
  lmm : List LupinMmul                 -- Lupin's mmuls, oldest first (R117, R122)
  tail : List (Nat × Nat × Thread × Option (Nat × Nat))  -- lruns walked and not complete: id, context, thread, signal
  active : BitVec 512                  -- SFU_ACTIVE0-7 (R176)
  pending : BitVec 512                 -- SFU_PENDING0-7 (R176)
  commits : List Commit
  power : Power
  workSince : Nat                      -- instant at which the core last had work; in Retain, its entry less 20 µs (R430)
  offLeft : Nat                        -- instant at which CYCLE read 0 (R39)
  part : Option Nat                    -- the partition whose tables its window holds (R177)
  frozen : List Nat                    -- contexts that issue nothing while an LC launch has the core (R296, R297)
  stop : Option Nat                    -- an LC launch waits for the core's save (R296)
  saved : Option Saved
  stopAt : Nat                         -- when the LC launch was accepted (R294)
  victim : Option Nat                  -- the partition pre-empted, until the first LC bundle (R294, R298)
  viaOff : Bool                        -- it passes through Off before its new partition has it (R431)
  deriving DecidableEq, Repr

/-- Who holds a LOCK semaphore (R299, R300). -/
structure Hold where
  core : Nat
  ctx : Nat
  n : Nat
  since : Nat
  us : Nat                             -- HOLD_US at the sem.take, in µs
  by_ : Thread
  deriving DecidableEq, Repr

/-- One semaphore (R62, R299). -/
structure Sem where
  value : W32
  lock : Bool
  holdUs : BitVec 12
  hold : Option Hold
  waiters : List (Nat × Nat)           -- waiting sem.takes in order of arrival: core and context
  deriving DecidableEq, Repr

/-- A semaphore after reset: QE_SEM_CFG.HOLD_US is 0x032 (R299). -/
def Sem.reset : Sem := { value := 0, lock := false, holdUs := 0x032, hold := none, waiters := [] }

/-- Who sent a signal that has not reached its home (R51, R62). -/
structure Signal where
  die : Nat
  idx : Nat
  n : Nat
  core : Nat
  ctx : Nat
  by_ : Thread
  pc : BitVec 48
  deriving DecidableEq, Repr

/-- A claim that a context has made (R301). -/
structure ClaimRec where
  core : Nat
  ctx : Nat
  launch : Nat
  base : Nat
  n : Nat
  deriving DecidableEq, Repr

/-- One claim counter (R63, R301). -/
structure Claim where
  value : W64
  recs : List ClaimRec
  reclaim : List (Nat × Nat)
  deriving DecidableEq, Repr

/-- A claim counter that holds 0. -/
def Claim.reset : Claim := { value := 0, recs := [], reclaim := [] }

/-- A context after reset: the manual gives its registers no reset value (log 4). -/
def Ctx.reset : Ctx :=
  { s := [], a := [], v := [], p := [], d := [], accTiles := 0, pc := 0, tags := [], wait := .none, tt := none,
    launch := none, k := 0, chunkNext := 0, chunkEnd := 0, spadBase := 0, spadSize := 0,
    kfc := [], chain := [], kmode := false, statMac := 0, lastHandle := 0,
    seen := [] }

/-- A core after reset: in Off, nothing queued, every table's bank 0 active (R176, R442, R447). -/
def Core.reset : Core :=
  { lastCtx := 0, lastYield := false, icache := [], nextSeq := 0, lmq := [], smq := [], mq := [], drains := [],
    drain := none, writing := [], lrun := none, lmm := [], tail := [], active := 0, pending := 0, commits := [], power := .off,
    workSince := 0, offLeft := 0, part := none, frozen := [], stop := none, saved := none, stopAt := 0, victim := none, viaOff := false }

/-- The module states that a command can find (R437); in Off the block holds what reset gives it. -/
inductive ModState where
  | active | standby | sleep | off
  deriving DecidableEq, Repr

/-! ### Partitions, queues and launches (11) -/

/-- One token-bucket regulator (R283, R295). `rate` 0xFFFF_FFFF: unregulated. -/
structure Regulator where
  rate : Nat
  burst : Nat
  balance : Int
  deriving DecidableEq, Repr

/-- An unregulated resource (R283). -/
def Regulator.free : Regulator := { rate := 0xFFFF_FFFF, burst := 0, balance := 0 }

/-- One partition (R281, R282, R283, R294). `fox`, `prim`, `enc`, `dec`: bit masks. -/
structure Part where
  seqBase : Nat
  seqCount : Nat
  qpBase : Nat
  qpCount : Nat
  semBase : Nat
  semCount : Nat
  claimBase : Nat
  claimCount : Nat
  dq0 : Nat
  dq1 : Nat
  wq : Nat
  tq : Nat
  diag : Bool
  rcore : BitVec 128
  score : BitVec 128
  rfox : BitVec 32
  sfox : BitVec 32
  rprim : BitVec 4
  sprim : BitVec 4
  renc : BitVec 4
  rdec : BitVec 4
  cls : Bool                           -- LC for the step builder's launches
  varfault : Bool
  share : Nat
  regs : List Regulator                -- DRAM, flash, fabric, PCIe
  vt : Nat                             -- R292
  acctCore : Nat                       -- engine-cycles charged, in twelfths (R293)
  acctFox : Nat
  acctPrim : Nat
  preempts : W32                       -- QE_PREEMPT.COUNT
  maxNs : W32                          -- QE_PREEMPT.MAXNS
  revoke : W32
  step : W64                           -- QE_STEP
  badDoorbell : W32
  semLost : W32
  start : Nat                          -- START of R308
  offUs : W32                          -- PWR_OFFTO (R431)
  destroying : Bool
  tables : Tab Byte                    -- its tables where they differ from the factory's: bank 0 offset in a table window (R177)
  deriving DecidableEq, Repr

/-- A completion that is due on a queue pair and not yet posted: the 64 bytes but for PHASE and SQ_HEAD (R287). -/
structure QpDue where
  status : Nat
  kind : Nat
  rungUp : Bool
  irq : Bool
  tag : Nat
  ty : Nat
  id : Nat
  faults : Nat
  widen : Nat
  emptyRow : Nat
  engine : Nat
  count : Nat
  deriving DecidableEq, Repr

/-- An entry taken from a submission ring that has not completed (R286, R290). `what`: its type; `key`: the launch
it became; `at_`: its index in the order of the queue. -/
structure QpEntry where
  at_ : Nat
  ty : Nat
  var : Bool
  order : Bool
  irq : Bool
  tag : Nat
  words : List W64
  started : Bool
  key : Nat
  failed : Bool                        -- a read of host memory failed (R414)
  engine : Nat
  deriving DecidableEq, Repr

/-- One queue pair (R284, R285, R287). -/
structure Qp where
  part : Nat
  sqAddr : W64
  cqAddr : W64
  sqLog : Nat
  cqLog : Nat
  cls : Bool
  irqen : Bool
  vec : Nat
  share : Nat
  sqTail : Nat
  fetch : Nat                          -- index of the next entry to read
  taken : Nat                          -- entries taken since QP_CREATE
  sqHead : Nat                         -- as completions report it (R287, R305)
  cqTail : Nat
  cqPhase : Bool
  cqHead : Nat
  entries : List QpEntry               -- taken and not completed, in ring order
  due : List QpDue
  acctCore : Nat                       -- engine-cycles charged, in twelfths (R293)
  acctFox : Nat
  acctPrim : Nat
  vt : Nat
  stopped : Bool                       -- a read of the ring failed, or the function was reset (R403, R414)
  discard : Bool                       -- the function was reset: completions are discarded (R403)
  destroy : Option (Nat × Nat)         -- QP_DESTROY outstanding: mailbox and tag (R467)
  adds : List Nat                      -- ring indices of ADD_SEQ entries taken and in no snapshot yet (R305)
  held : Bool                          -- an ADD_SEQ at the head holds the queue (R303)
  deriving DecidableEq, Repr

/-- A kernel entry of an image (R277). -/
structure Kernel where
  kind : Nat
  kmode : Bool
  usesVar : Bool
  entry : Nat
  spadMin : Nat
  kfc : List Byte
  acfg : List Byte
  chains : List Byte
  deriving DecidableEq, Repr

/-- A loaded program image (R276). -/
structure Image where
  part : Nat
  code : Nat
  kernels : List Kernel
  digest : List Byte
  signer : Nat
  signed : Bool
  deriving DecidableEq, Repr

/-- The fields of a LAUNCH entry after the common word (R288). -/
structure LaunchE where
  image : Nat
  kernel : Nat
  dist : Bool
  ctxs : Nat
  accTiles : Nat
  claimIdx : Nat
  claimDie : Nat
  claimChunk : Nat
  mask : Nat
  e0 : Nat
  e1 : Nat
  e2 : Nat
  e3 : Nat
  arg : Nat
  winu : Nat
  wbase : Nat
  liveu : Nat
  roomu : Nat
  roomt : Nat
  roomc : Nat
  faultAddr : Nat
  wait : List (Nat × Nat × Nat)        -- die, semaphore, threshold; the re-run of a rung request has one for each die (R226)
  sig : Option (Nat × Nat)             -- die, semaphore
  dreg : Nat
  reserved : Bool                      -- a reserved field is nonzero
  deriving DecidableEq, Repr

/-- Where a launch of the step builder stands in its step (R309, R226). -/
structure StepPos where
  stage : Nat
  iter : Nat
  layer : Option (Nat × Nat × Nat)     -- window, layer and rung whose weights it reads (R102)
  rerun : Bool
  deriving DecidableEq, Repr

/-- One launch, from its acceptance to its completion (R67 to R70, R289, R290). -/
structure Launch where
  part : Nat
  qp : Nat
  tag : Nat                            -- LAUNCH_ID
  at_ : Nat                            -- the queue entry it belongs to
  var : Bool
  lc : Bool
  e : LaunchE
  k : Kernel
  code : Nat                           -- device address of the kernel's first bundle
  dregs : List W32
  order : Nat                          -- order of acceptance
  since : Nat                          -- instant of acceptance
  started : Bool
  engines : List Nat                   -- engines it holds now
  begun : Nat                          -- items or jobs begun (KIND 1 and 2)
  ended : Nat                          -- tile-threads, items or jobs ended
  exhausted : List Nat                 -- contexts (4 core + context) whose share has no further tile-thread
  faulted : List Nat                   -- indices of faulted tile-threads, items or jobs
  record : Option (Nat × List W64)     -- index and words of the record to write
  widenBy : Tab Nat                    -- WIDEN by context (4 core + context), EMPTYROW by unit
  emptyBy : Tab Nat
  engine : Nat                         -- engine-cycles charged, in twelfths (R293)
  step : Option StepPos
  killed : Bool                        -- ended by a collective fault (R335)
  served : List Nat                    -- engines whose share is done and which it has left
  posns : Tab Nat                      -- next position in the share of an engine taken away between items or jobs
  skips : List Nat                     -- tile-threads that obtained more than 16 semaphore values (R354)
  aRate : Nat                          -- RATE in force for it; 0: not audited (R354, R355, R357)
  aSeed : W64
  audits : List (Nat × Bool)           -- audit runs begun, and whether each has compared
  again : List (Nat × Nat)             -- contexts or engines whose share must run again (R360): engine and context
  shares : List (Nat × Nat × Nat)      -- ranges claimed under DIST: context (4 core + context), base, length
  pins : Tab Nat                       -- items whose map epoch an audit keeps pinned (R355)
  deriving DecidableEq, Repr

/-- One active-sequence table entry (R302). -/
structure Seq where
  id : W32
  state : BitVec 3
  cls : Bool
  part : Nat
  qp : Nat
  pass : Nat
  npass : Nat
  cstep : Nat
  lens : List Nat
  map : Nat
  cond : Nat
  args : Nat
  ts : Nat
  rkey : W64
  rctr : W64
  cursor : W64
  atag : W32
  deriving DecidableEq, Repr

/-- A FREE entry. -/
def Seq.free : Seq :=
  { id := 0, state := 0, cls := false, part := 0, qp := 0, pass := 0, npass := 0, cstep := 0, lens := [0, 0, 0, 0],
    map := 0, cond := 0, args := 0, ts := 0, rkey := 0, rctr := 0, cursor := 0, atag := 0 }

/-- One stage of a step plan (R307), its template parsed as a launch entry. -/
structure Stage where
  kind : Nat
  rule : Nat
  rowarg : Nat
  qarg : Nat
  oarg : Nat
  larg : Nat
  hpi : Nat
  nhead : Nat
  qstream : Nat
  kstream : Nat
  mask : Nat
  krule : Bool
  fblk : Nat
  dt : Nat
  wval0 : Nat
  wvstep : Nat
  iwait : Nat
  isig : Nat
  e : LaunchE
  tmpl : List W64
  deriving DecidableEq, Repr

/-- A step plan as read when the run starts (R307). -/
structure Plan where
  maxSeq : Nat
  budgetArg : Nat
  maxRows : Nat
  loopFirst : Nat
  loopLast : Nat
  loopCount : Nat
  build : Nat
  buildBytes : Nat
  stages : List Stage
  deriving DecidableEq, Repr

/-- The serving run of a partition (R306 to R309). -/
structure Run where
  qp : Nat
  at_ : Nat
  tag : Nat
  irq : Bool
  var : Bool
  plan : Plan
  nsteps : Nat
  stepsRun : Nat
  stop : Bool
  faultAddr : Nat
  faulted : Bool                       -- a program fault in the step (R306)
  status : Nat                         -- the status that ends the run, 0 for none
  inStep : Bool                        -- a step has been emitted and has not reached its boundary
  idle : Bool                          -- the last tick emitted nothing (R307)
  wait : Nat                           -- 0 none, 1 the step barrier, 2 the twin's digest, 3 the barrier before a replay, 4 a restore from flash
  back : Nat                           -- the step whose snapshot is being restored from flash (R374)
  sel : List Nat                       -- the step's sequences
  rungs : List (Nat × Nat × Nat)       -- window, layer and rung in force in this step (R102)
  rungUp : Bool                        -- a launch reported RUNG_UP that no window could serve (R226)
  replay : Bool                        -- a failure asks for a step replay (R361)
  mism : Nat × Nat                     -- step and times its step digests differed (R342)
  poison : List (Nat × Nat)            -- steps and lines at which poison was reported (R362)
  due : Bool                           -- the step barrier delivered that a snapshot is due (R326)
  captured : Nat                       -- step and instant of the last capture (R368)
  capTime : Nat
  deriving DecidableEq, Repr

/-- What the step log records of one tick (R305, R226). -/
structure StepLog where
  step : Nat                           -- the step whose tick it is
  emitted : Bool                       -- its tick emitted the step: a replay takes the same entries
  admits : List (Nat × List (List W64)) -- queue pair and the ADD_SEQ entries taken
  rungs : List (Nat × Nat)             -- window and rung requests numbered before the step
  holds : List (Nat × Bool)            -- holds and releases of the boundary before the tick
  removes : List Nat
  deriving DecidableEq, Repr

/-- A SEQ_HOLD, SEQ_REMOVE, SNAP_TAKE, SNAP_RESTORE or DOM_LEAVE waiting for a step boundary. -/
inductive Boundary where
  | hold (m tag entry : Nat) (on : Bool)
  | remove (m tag entry : Nat)
  | take (m tag : Nat)
  | restore (m tag id : Nat)
  deriving DecidableEq, Repr

/-- A copy of the hub copy engine in progress (R290). -/
structure Copy where
  qp : Nat
  at_ : Nat
  deriving DecidableEq, Repr
/-! ### Memory, regions, tensor objects and weight windows (08) -/

/-- One region map entry with V = 1 (R211), its HOTCH count and the MEM_HOT bookkeeping of R202. -/
structure Region where
  r : Bool
  w : Bool
  x : Bool
  shared : Bool
  map : Bool
  tobj : Bool
  dirty : Bool
  hsel : BitVec 3
  tobjId : W32
  baseg : Nat
  lastg : Nat
  hotch : Nat
  hotTimes : List Nat                  -- instants of the last counts, newest first
  hotEvent : Option Nat                -- instant of the last MEM_HOT event
  deriving DecidableEq, Repr

/-- A grant of granules to another partition (R212). -/
structure Grant where
  baseg : Nat
  lastg : Nat
  owner : Nat
  grantee : Nat
  deriving DecidableEq, Repr

/-- DRAM granules that belong to a partition (R212): those of a region of its own, or of a save area (R282). -/
structure Own where
  part : Nat
  baseg : Nat
  lastg : Nat
  save : Bool
  deriving DecidableEq, Repr

/-- A region removal or reduction that waits for its drain (R215): the mailbox command it completes, and the
permissions that remain (none: the region goes). `marks`: the sequence numbers of the 128 cores at the command. -/
structure RegionDrain where
  part : Nat
  idx : Nat
  keep : Option (Bool × Bool × Bool)
  m : Nat
  tag : Nat
  marks : List Nat
  deriving DecidableEq, Repr

/-- The DRAM controller registers of one die (R204, R209). -/
structure DramDie where
  hotWin : W64
  hotCh : BitVec 8
  hotGran : BitVec 17
  eccCe : W64
  eccUe : W64
  spareUsed : BitVec 19
  minCh : BitVec 8
  minLeft : BitVec 11
  patrol : Nat                         -- next line of the patrol scrub (R208)
  deriving DecidableEq, Repr

/-- The registers after reset. -/
def DramDie.reset : DramDie :=
  { hotWin := 0, hotCh := 0, hotGran := 0, eccCe := 0, eccUe := 0, spareUsed := 0, minCh := 0, minLeft := 0x400,
    patrol := 0 }

/-- One DRAM channel: corrected-error log and spared rows (R206), refresh counter (R210), power-down (R434). -/
structure DramCh where
  log : List (Nat × Nat)               -- row and instant of each logged corrected error
  spared : List Nat
  refresh : Nat
  down : Bool                          -- powered down (R434)
  degraded : Bool
  deriving DecidableEq, Repr

/-- A channel after reset. -/
def DramCh.reset : DramCh := { log := [], spared := [], refresh := 0, down := false, degraded := false }

/-- The states of a tensor object (R216). -/
inductive TobjState where
  | flash | loading | resident | writing
  deriving DecidableEq, Repr

/-- One tensor object (R216). `image`: its flash copy, bytes that differ from 0. -/
structure Tobj where
  part : Nat
  sizeg : Nat
  state : TobjState
  region : Nat
  image : Tab Byte
  damaged : Bool
  evict : Bool                         -- an eviction is in progress (R217)
  copying : Tab Byte                   -- its home when the write-back began, bytes that differ from 0 (R221)
  lost : List Nat                      -- poisoned lines of its flash copy, counted from its start (R207, R362)
  deriving DecidableEq, Repr

/-- One weight package (R250): bytes that differ from 0. -/
structure Wpkg where
  part : Nat
  total : Nat
  ready : Bool
  image : Tab Byte
  grants : List Nat
  signed : Bool
  signer : Nat
  digest : List Byte
  damaged : Bool
  deriving DecidableEq, Repr

/-- One weight window (R222 to R228). -/
structure Wwin where
  part : Nat
  pkg : Nat
  nslot : Nat
  home0 : Nat
  home1 : Nat
  slotg : Nat
  rdy : Nat
  free : Nat
  nlayer : Nat
  rsem : Nat
  list : Nat
  side0 : Nat
  side1 : Nat
  sideg : Nat
  run : Bool                           -- MEM_WW_POS.RUN
  n : Nat                              -- MEM_WW_POS.N
  n0 : Nat                             -- first position of the step in progress (R227)
  reading : Option Nat                 -- position whose layer is being read
  met : Bool                           -- that reading met a retry or a rebuild (R225)
  j : Nat                              -- rung requests numbered so far (R226)
  rung : List (Nat × Nat)              -- layer and rung of each request not yet served
  rungBusy : Bool                      -- the re-run of the last served request has not completed (R226)
  stop : Option (Nat × Nat)            -- WWIN_STOP outstanding: mailbox and tag
  stall : W64
  late : W32
  rlate : W32
  deriving DecidableEq, Repr

/-! ### Flash store (09) -/

/-- One flash block (R238 to R241). -/
structure FlashBlk where
  erases : Nat
  reads : Nat
  bad : Bool
  scrub : Nat
  valid : Bool
  deriving DecidableEq, Repr

/-- A block as it leaves the factory (log 12). -/
def FlashBlk.reset : FlashBlk := { erases := 0, reads := 0, bad := false, scrub := 0, valid := false }

/-- What a stripe row's data belongs to (R242). -/
inductive FlashOwner where
  | tobj (id : Nat)
  | wpkg (id : Nat)
  | snap (id : Nat)
  deriving DecidableEq, Repr

/-- A stripe block in use (R233, R237, R238): its programmed rows, the positions whose dies they leave out, and the valid rows of each
owner. -/
structure Stripe where
  rows : Nat
  out : List Nat
  live : List (FlashOwner × Nat)
  deriving DecidableEq, Repr

/-- What a codeword read serves (R235, R236): a command, a weight window, the controller's own reading of a block, or the restore of a
partition's state. -/
inductive FlashFor where
  | cmd (m tag : Nat)
  | window (w : Nat)
  | scrub (blk : Nat)
  | restore (p : Nat)
  deriving DecidableEq, Repr

/-- The codeword that an operation is reading: its rung of the ladder (0 to 17), its block, and whose data it reads (R235). -/
structure FlashRead where
  for_ : FlashFor
  rung : Nat
  blk : Nat
  own : Option FlashOwner
  deriving DecidableEq, Repr

/-- The flash store's registers and its housekeeping (R237 to R249). -/
structure Flash where
  credit : Int                         -- FLS_WEAR_CREDIT.C
  wear : Nat                           -- FLS_WEAR_STATE.STATE: 0 NORMAL, 1 TIGHT, 2 LIMIT
  k : Nat
  degr : Bool
  progBytes : W64
  retry : W64
  lost : W32
  grown : W32
  wsize : Nat
  blks : Tab FlashBlk
  failed : List Nat                    -- failed dies (R237)
  rebuilt : Tab Nat                    -- bytes rebuilt of a failed die
  dieErases : List (Nat × Nat)         -- die and instant of each failed erase (R237)
  spareLost : Nat                      -- spare capacity taken by bad blocks, in bytes (R244)
  reads : List FlashRead
  down : List Nat                      -- channels powered down (R434)
  scrubs : Nat                         -- retention scrubs done, to order blocks by their last scrub (R240)
  map : Tab (Option Nat)               -- physical block of a die's logical block, where it is not the first mapping (R238)
  strs : Tab Stripe                    -- stripe blocks in use (R233)
  head : Option Nat                    -- the stripe block that new data is written into (R241)
  left : Tab Nat                       -- bytes of a failed die's valid data still to be rewritten (R237)
  deriving DecidableEq, Repr

/-- The rated endurance of the variant in bytes: raw capacity x 3,000 (R232, R245). -/
def ratedBytes : Nat := if Config.is16TC then 512 * 1656 * 18874368 * 3000 else 512 * 828 * 18874368 * 3000
/-- A of R245: bytes accrued each second. -/
def accrual : Nat := ratedBytes / 157788000
/-- CMAX of R245: 30 days of accrual. -/
def creditMax : Nat := ratedBytes * 2592000 / 157788000

/-- The store as a module leaves the factory (R245, log 12). -/
def Flash.factory : Flash :=
  { credit := creditMax, wear := 0, k := 0, degr := false, progBytes := 0, retry := 0, lost := 0, grown := 0,
    wsize := if Config.is16TC then 6000000000000 else 3000000000000, blks := [], failed := [], rebuilt := [],
    dieErases := [], spareLost := Config.factoryBad.length * 18874368, reads := [], down := [], scrubs := 0, map := [], strs := [], head := none,
    left := [] }
/-! ### Control processor and mailboxes (10) -/

/-- A completion of a mailbox (R260) but for its PHASE; `irq`: it raises the interrupt (R261); `event`: it is a telemetry event (R262). -/
structure CmpEntry where
  status : Nat
  deferred : Bool
  replayed : Bool
  irq : Bool
  event : Bool
  tag : Nat
  code : Nat
  slot : Nat
  r0 : W64
  r1 : W64
  deriving DecidableEq, Repr

/-- A session and what it negotiated (R268, R271). -/
structure Session where
  mbxVer : Nat
  imgVer : Nat
  pkgVer : Nat
  snapVer : Nat
  feats : W64
  deriving DecidableEq, Repr

/-- One mailbox (R256, R257, R261, R268). -/
structure Mbx where
  cmdBase : W64
  cmpBase : W64
  en : Bool
  irqen : Bool
  vec : Nat
  cmdTail : Nat
  cmdHead : Nat
  cmpHead : Nat
  cmpTail : Nat
  phase : Bool
  session : Option Session
  evtLost : W32
  disable : Bool                       -- a write of EN = 0 waits for outstanding commands (R257)
  stopped : Bool                       -- a read of the ring failed (R414)
  telMask : W64
  due : List CmpEntry                  -- completions due and not posted, in the order they became due
  deriving DecidableEq, Repr

/-- A mailbox after reset (R256). -/
def Mbx.reset : Mbx :=
  { cmdBase := 0, cmpBase := 0, en := false, irqen := false, vec := 0, cmdTail := 0, cmdHead := 0, cmpHead := 0,
    cmpTail := 0, phase := true, session := none, evtLost := 0, disable := false, stopped := false,
    telMask := BitVec.allOnes 64, due := [] }

/-- An ABORT that waits for its target's completion, or for the batch of a pending edit (R274, R275): its tag, ring index, IRQ and
session, and whether it was outstanding over a control-processor reset (R266). -/
structure Watch where
  tag : Nat
  slot : Nat
  irq : Bool
  sess : Option Session
  replayed : Bool
  deriving DecidableEq, Repr

/-- One outstanding command in the journal (R263, R266, R274). -/
structure Cmd where
  m : Nat
  slot : Nat
  code : Nat
  wait : Bool
  irq : Bool
  tag : Nat
  ps : List W64
  sess : Option Session                -- the session at acceptance (R263)
  started : Bool
  bg : Bool                            -- its work runs in hub engines (R264)
  committed : Bool                     -- past its commit point (R274)
  late : Bool                          -- an abort came after the commit point
  replayed : Bool
  discard : Bool                       -- the function was reset: its completion is discarded (R403)
  watch : List Watch
  r0 : Nat                             -- what it fixed when it started
  r1 : Nat
  data : List Byte                     -- what it read when it started (R466)
  deriving DecidableEq, Repr

/-- A stream edit, leaf edit or clear of a page map in its deferred-edit queue (R154, R155). -/
structure MapEdit where
  m : Nat
  tag : Nat
  slot : Nat
  irq : Bool
  wait : Bool
  code : Nat
  ps : List W64
  data : List W64
  tables : List (Nat × Nat)            -- map memory taken for it: directory index and table (log 20)
  watch : List Watch                   -- ABORTs that came after its batch began (R275)
  deriving DecidableEq, Repr

/-! ### PCIe functions (16) -/

/-- One MSI-X table entry (R413, log 17). -/
structure Vector where
  addr : W64
  data : W32
  mask : Bool
  deriving DecidableEq, Repr

/-- A vector after reset: masked (log 17). -/
def Vector.reset : Vector := { addr := 0, data := 0, mask := true }

/-- One function (R402 to R404, R412 to R414). `bar4`: the size of BAR4 in GiB as a power of two. -/
structure Func where
  enabled : Bool                       -- VF enable; the PF is always present
  busMaster : Bool
  relaxed : Bool
  timeout : BitVec 4
  msixEn : Bool
  msixMask : Bool
  vectors : Tab Vector
  pending : List Nat                   -- vectors whose pending bit is set
  bar4 : Nat
  deriving DecidableEq, Repr

/-- A function after reset (R403, R404, R414). -/
def Func.reset : Func :=
  { enabled := false, busMaster := false, relaxed := false, timeout := 0, msixEn := false, msixMask := false,
    vectors := [], pending := [], bar4 := 0 }

/-- What the block has sent to the outside: an interrupt message of a function's vector, an answer on the host link or
on the management bus, or a flit or message on a port. -/
inductive Sent where
  | msix (fn vec : Nat) (addr : W64) (data : W32)
  | host (fn : Nat) (bytes : List Byte) (poisoned : Bool)
  | retry (fn : Nat)                   -- Request Retry Status (R443)
  | mgmt (bytes : List Byte)           -- a response or message on the management bus
  | port (k : Nat) (bytes : List Byte)
  | bridge (die : Nat) (head : List W64) (data : List Byte) -- a chunk to the other compute die (R331)
  | answer (what : ChunkKind) (p die peer : Nat) (word0 sig word2 : W64) -- to a member: its RECV has started, a chunk is accepted, or asked for again
  | abort (p die q peer : Nat)        -- a collective abort (R335)
  | twin (what : Nat) (p : Nat) (data : List W64)
  | domain (what : Nat) (p : Nat) (data : List W64)
  deriving DecidableEq, Repr
/-- A partition's signing key (R425). -/
structure PKey where
  id : W64
  x : Nat
  y : Nat
  deriving DecidableEq, Repr

/-! ### Page pools and map epochs (05) -/

/-- One page pool (R148). -/
structure Pool where
  part : Nat
  pgsz : Bool
  rowBytes : Nat
  base : Nat
  npages : Nat
  stateAddr : Nat
  deriving DecidableEq, Repr

/-- One entry of the map epoch table (R154). `header`: where the map header lies; `part`: the owner. -/
structure MapE where
  part : Nat
  header : Nat
  epoch : W32
  pins : BitVec 16
  lock : Bool
  queue : List MapEdit
  deriving DecidableEq, Repr

/-! ### Foxglove units and Primrose engines (05, 07) -/

/-- An entry of a look-aside buffer: map, stream and logical page, and the page's address and row size (R152). -/
structure LabEntry where
  map : Nat
  stream : Nat
  page : Nat
  addr : Nat
  rowBytes : Nat
  deriving DecidableEq, Repr

/-- One set of a look-aside buffer: its ways and its tree bits (R153). -/
structure LabSet where
  ways : List (Option LabEntry)
  plru : BitVec 7
  deriving DecidableEq, Repr

/-- A set that holds nothing. -/
def LabSet.empty : LabSet := { ways := List.replicate 8 none, plru := 0 }

/-- The running values of one query row of the head in progress (R142); `bad`: R143 applies. -/
structure FoxRow where
  m : W32
  l : W32
  o : List W32
  bad : Bool
  deriving DecidableEq, Repr

/-- A work item from its start to its completion (R135, R136, R142). `phase`: 0 waits on its semaphore, 1 waits on
LOCK, 2 runs. `todo`: visited blocks left of the head `h`; `visit`: all visited blocks. -/
structure FoxItem where
  launch : Nat
  idx : Nat
  words : List W64
  phase : Nat
  lockSince : Nat
  map : Nat
  lens : List Nat
  visit : List Nat
  h : Nat
  todo : List Nat
  blk : Nat                            -- visited blocks the walker has translated, counted over the heads in turn (R152)
  pages : List (Nat × LabEntry)        -- translated pages of blocks not computed yet, with the block's number
  rows : List FoxRow
  outs : List (Nat × List Byte)
  emptyRows : Nat
  since : Nat
  poison : Bool                        -- it read a poisoned line (R362)
  deriving DecidableEq, Repr

/-- One Foxglove unit (R131, R153, R158). -/
structure Fox where
  launch : Option Nat                  -- the launch it works for
  k : Nat                              -- its next position in that launch's share (R132)
  item : Option FoxItem
  lab : Tab LabSet
  emptyRow : W64
  visit : W64
  skip : W64
  labMiss : W64
  pinWait : W64
  power : Power
  workSince : Nat
  part : Option Nat                    -- the partition it was last assigned to (R153)
  deriving DecidableEq, Repr

/-- A unit after reset. -/
def Fox.reset : Fox :=
  { launch := none, k := 0, item := none, lab := [], emptyRow := 0, visit := 0, skip := 0, labMiss := 0, pinWait := 0,
    power := .off, workSince := 0, part := none }

/-- A job from its start to its completion (R190, R191): `ready`: its wait is met and its check passed. -/
structure PrimJob where
  launch : Nat
  idx : Nat
  words : List W64
  since : Nat
  deriving DecidableEq, Repr

/-- One Primrose engine (R188, R364). -/
structure Prim where
  launch : Option Nat
  k : Nat
  job : Option PrimJob
  power : Power
  workSince : Nat
  part : Option Nat
  deriving DecidableEq, Repr

/-- An engine after reset. -/
def Prim.reset : Prim := { launch := none, k := 0, job := none, power := .off, workSince := 0, part := none }
/-! ### Fabric (12) -/

/-- One barrier of a partition on a die (R323): its configuration as written and as in force, its epoch, and the
arrivals counted in order, each with the context that waits if it still does. -/
structure Bar where
  en : Bool
  span : Nat
  arrive : Nat
  inEn : Bool
  inSpan : Nat
  inArrive : Nat
  epoch : W32
  arrivals : List (Option (Nat × Nat))
  deriving DecidableEq, Repr

/-- A barrier after reset (R323). -/
def Bar.reset : Bar :=
  { en := false, span := 0, arrive := 0, inEn := false, inSpan := 0, inArrive := 0, epoch := 0, arrivals := [] }

/-- The states of a port (R318). -/
inductive PortState where
  | down | training | up | versionFail | identFail
  deriving DecidableEq, Repr

/-- A flit sent and not acknowledged, and how often it has been replayed (R313, R316). -/
structure SentFlit where
  seq : Nat
  bytes : List Byte
  tries : Nat
  deriving DecidableEq, Repr

/-- One fabric or twin port (R312 to R318). -/
structure Port where
  state : PortState
  ver : Nat
  nport : Nat
  serial : W64                         -- the partner's serial (R319)
  fec : W64
  unc : W64
  crc : W64
  replay : W64
  retrain : W32
  powered : Bool                       -- enabled (R434)
  fails : List Nat                     -- instants of failed retrains (R316)
  txSeq : Nat                          -- SEQ of the next new flit
  buffer : List SentFlit               -- oldest first
  rxSeq : Nat                          -- SEQ expected next
  rxAny : Bool                         -- a flit has been accepted since training
  nak : Bool                           -- discarding until the replay begins
  since : Nat                          -- flits accepted since the last ACKSEQ was sent
  credits : Tab Nat                    -- 2 partition + virtual channel: credits held (R314)
  hErrs : Nat                          -- differences found in verified mode (R339)
  deriving DecidableEq, Repr

/-- A DATA flit that waits for a port: own, or accepted on port `from_` and forwarded (R314, R315). `dim`: the dimension
it travelled in, and its virtual channel there. -/
structure FlitOut where
  part : Nat
  dst : Nat
  src : Nat
  nline : Nat
  dim : Option Nat
  vc : Nat
  from_ : Option Nat
  lane : Nat                           -- which of the UP ports of its direction its packet takes in turn (R333)
  len : Nat                            -- data bytes of its packet, on the packet's first flit at its source (R295)
  payload : List Byte
  deriving DecidableEq, Repr

/-- A port after reset (R318). -/
def Port.reset : Port :=
  { state := .down, ver := 0, nport := 0, serial := 0, fec := 0, unc := 0, crc := 0, replay := 0, retrain := 0,
    powered := false, fails := [], txSeq := 0, buffer := [], rxSeq := 0, rxAny := false, nak := false,
    since := 0, credits := [], hErrs := 0 }

/-- A schedule domain (R321). -/
structure Domain where
  id : Nat
  dx : Nat
  dy : Nat
  dz : Nat
  x : Nat
  y : Nat
  z : Nat
  pmask : Nat
  fwdp : Nat
  cred : List Nat
  deriving DecidableEq, Repr

/-- A twin pair (R340). -/
structure Twin where
  pair : Nat
  roleB : Bool
  peer : W64
  pmask : Nat
  waitMs : Nat
  lost : Bool                          -- the twin is lost or has left (R342, R343)
  beat : Nat                           -- heartbeats sent
  deriving DecidableEq, Repr

/-- What a partition has on the fabric besides its queues: result digests of both dies (R337) and FAB_ROLLBACK (R339).
`counts`: admission counts from the leader that its ticks have not used (R341); `digest`: its step digest while it waits
for the twin's. -/
structure FabPart where
  dig0 : W64
  dig1 : W64
  rollbacks : W32
  verified : Bool
  counts : List (List (Nat × Nat))
  digest : W64
  opened : Nat                         -- minimum S delivered by the last opening of the step barrier (R366)
  deriving DecidableEq, Repr

/-- Before anything was sent. -/
def FabPart.reset : FabPart :=
  { dig0 := 0, dig1 := 0, rollbacks := 0, verified := false, counts := [], digest := 0, opened := 0 }

/-- A transfer direction of a collective: chunks received of the transfer in progress, in elements or bytes, transfers
done, and the chunk's failures (R331, R333). -/
structure Feed where
  k : Nat                              -- transfers completed
  pos : Nat                            -- items received of the transfer in progress
  no : Nat                             -- chunk number expected next from the sender
  bad : Nat                            -- failures of that chunk (R335)
  deriving DecidableEq, Repr

/-- A lane before its first chunk. -/
def Feed.start : Feed := { k := 0, pos := 0, no := 0, bad := 0 }

/-- A chunk sent and not accepted yet, as the engine's staging memory holds it (R333): its receiver, number and pieces. -/
structure SentChunk where
  dst : Nat
  no : Nat
  pieces : List (Nat × List Byte)
  deriving DecidableEq, Repr

/-- A descriptor in execution (R328 to R335). Values travel as numbers of 32 or 128 bits, bytes as numbers of 8. -/
structure Coll where
  words : List W64
  dbl : Bool                           -- recursive doubling (R330)
  stage : Nat                          -- stage of the algorithm in progress
  vec : List Nat                       -- the member's data at the start of the stage (an all-gather: its bytes so far)
  lo : Feed                            -- chunks carried in the + direction, or from the partner
  hi : Feed                            -- chunks carried in the - direction
  blocks : Tab (List Nat)              -- results and blocks received: 2 block + half
  outs : Nat                           -- output chunks signalled
  sent : List (Nat × Nat)              -- chunks sent to each peer: member and count
  staged : List SentChunk              -- those of them that are not accepted yet
  deriving DecidableEq, Repr

/-- One collective queue (R327). -/
structure Cq where
  en : Bool
  log2n : Nat
  psem : Nat
  base : Nat
  n : Nat
  fault : Bool
  run : Option Coll
  ready : List (Nat × W64)             -- members whose RECV has started, with its word 0x00, oldest first (R334)
  deriving DecidableEq, Repr

/-- A queue after reset (R327). -/
def Cq.reset : Cq := { en := false, log2n := 4, psem := 0, base := 0, n := 0, fault := false, run := none, ready := [] }

/-- One forwarding channel (R336): its registers, its unsent drains as addresses and bytes, and the drains sent. -/
structure Fwd where
  en : Bool
  peer : Nat
  dsem : Nat
  leng : Nat
  src : Nat
  dst : Nat
  queue : List (List (Nat × List Byte))
  count : Nat
  staged : List SentChunk              -- drains sent and not accepted yet (R333)
  deriving DecidableEq, Repr

/-- A channel after reset (R336). -/
def Fwd.reset : Fwd := { en := false, peer := 0, dsem := 0, leng := 0, src := 0, dst := 0, queue := [], count := 0, staged := [] }
/-! ### Marigold: audits, risk, spares (13, 14) -/

/-- Marigold's registers and records (R354 to R357, R364 to R369). A unit is named by its kind (0 core, 1 Foxglove unit,
2 Primrose engine) and a number. -/
structure Health where
  e : Nat                              -- E in units of 2^-32 (R367)
  risk : Nat                           -- MGD_RISK.RISK
  band : Nat                           -- MGD_RISK.BAND
  bandMin : BitVec 3                   -- MGD_RISK_CFG
  auditCfg : BitVec 6                  -- MGD_AUDIT_CFG
  auditSeed : W64
  auditRuns : W64
  auditMiss : W32
  auditSkip : W32
  faulty : List (Nat × Nat)            -- logical units reported and not yet quarantined
  map : Tab Nat                        -- 1024 kind + logical number: the physical unit, where it is not the first one
  fenced : List (Nat × Nat)            -- physical units quarantined now
  history : List (Nat × Nat)           -- every quarantine since manufacture
  alt : Tab Nat                        -- by die: the Primrose engine, or number, whose job ran last there (R364)
  failed : Bool                        -- the module has declared a failure (R365)
  deriving DecidableEq, Repr

/-- Marigold after reset, every unit as manufactured (R357, R369, log 12). -/
def Health.reset : Health :=
  { e := 0, risk := 0, band := 0, bandMin := 0, auditCfg := 0x3A, auditSeed := 0, auditRuns := 0, auditMiss := 0,
    auditSkip := 0, faulty := [], map := [], fenced := [], history := [], alt := [], failed := false }
/-! ### Iris (15) -/

/-- One Iris session (R385 to R395). -/
structure IrisSess where
  part : Nat
  words : List W64                     -- the 16 words of its parameter block
  n : Nat                              -- next descriptor
  held : List (Nat × List W64)         -- source pictures held, in display order: descriptor index and words
  group : Nat                          -- held pictures still to be coded of a complete mini-GOP (R389)
  pics : W64                           -- records written
  bytes : W64                          -- bitstream bytes written or consumed
  closing : Option (Nat × Nat)         -- IRS_CLOSE outstanding: mailbox and tag
  irap : Bool                          -- the next picture is coded as IRAP (R391)
  skip : Bool                          -- decode: CORRUPT, and no IRAP unit since
  since : Nat                          -- pictures coded since the last IRAP
  coded : Nat                          -- pictures started
  hist : List Byte                     -- descriptors and source bytes of the pictures started (R392)
  deriving DecidableEq, Repr

/-- A picture in the pipeline (R380, R390, R393). -/
structure IrisPic where
  sess : Nat
  n : Nat
  words : List W64
  hist : List Byte
  irap : Bool
  ty : Nat
  status : Nat
  rows : Nat                           -- rows that have left the pipeline
  slices : Nat                         -- slices or tile groups written
  prog : Nat
  told : Nat                           -- slices signalled, repeats not counted again (R393)
  repeated : Bool
  deriving DecidableEq, Repr

/-- One Iris core (R387, R399). -/
structure IrisCore where
  pic : Option IrisPic
  turn : Nat                           -- handle from which the next turn is looked for (R387)
  pics : W64
  samples : W64
  repeats : W32
  deriving DecidableEq, Repr

/-- A core after reset (R399). -/
def IrisCore.reset : IrisCore := { pic := none, turn := 0, pics := 0, samples := 0, repeats := 0 }

/-! ### Snapshots (14) -/

/-- One range of a snapshot set, or what a capture holds of it (R371, R372): kind 0 data, 1 stream table. -/
structure SetEntry where
  addr : Nat
  kind : Nat
  len : Nat
  deriving DecidableEq, Repr

/-- What SNAP_SET gives (R371). -/
structure SnapCfg where
  set : List SetEntry
  flash : Bool
  keep : Nat
  shadow0 : Nat
  shadow1 : Nat
  deriving DecidableEq, Repr

/-- One section of a snapshot as R376 stores it: its kind, die and address, and its bytes. -/
structure SnapSec where
  kind : Nat
  die : Nat
  addr : Nat
  bytes : List Byte
  deriving DecidableEq, Repr

/-- One capture (R372), as the sections in which R376 stores it. -/
structure Snap where
  id : Nat                             -- R375
  ftime : Nat
  vmin : Nat
  place : Nat                          -- word 0x20 of R376
  serial : W64
  digest : W64                         -- STEPDIG
  secs : List SnapSec
  bad : Bool                           -- it holds a poisoned line (R374)
  deriving DecidableEq, Repr

/-- Snapshots of a partition (R369, R373): what SNAP_SET gave, the shadow, its blocks still to copy, the flash write in
progress and whether it is protected. -/
structure SnapPart where
  cfg : Option SnapCfg
  shadow : Option Snap
  left : Nat
  writing : Option (Snap × Bool)
  protect : Bool                       -- the next flash write is protected
  lastFlash : Option (Nat × Nat)       -- step and instant of the last capture written to flash
  twin : Option Nat                    -- identifier the twin's shadow holds
  importNo : Nat
  flashSkip : W32                      -- MGD_REPLAY.FLASHSKIP
  replays : W32                        -- MGD_REPLAY.N
  deriving DecidableEq, Repr

/-- Before SNAP_SET. -/
def SnapPart.reset : SnapPart :=
  { cfg := none, shadow := none, left := 0, writing := none, protect := false, lastFlash := none, twin := none,
    importNo := 0, flashSkip := 0, replays := 0 }

/-- A snapshot in flash. -/
structure FlashSnap where
  snap : Snap
  unusable : Bool
  lost : Bool                          -- damaged by a lost codeword of its own (R236)
  deriving DecidableEq, Repr
/-! ### Host interface, power and module hardware (16 to 18) -/

/-- Host access registers of a partition page (R409, R410), and the instant of its last SEC_HOST_VIOL event. -/
structure Page where
  bar4 : Nat
  viol : W32
  violAddr : Nat
  violWrite : Bool
  violCause : Nat
  violAt : Option Nat
  deriving DecidableEq, Repr

/-- A page after reset. -/
def Page.reset : Page := { bar4 := 0, viol := 0, violAddr := 0, violWrite := false, violCause := 0, violAt := none }

/-- A copy of the patch table in the configuration NOR flash (R418, R420): its level, its bytes, and whether it passed
R272. -/
structure PatchCopy where
  level : Nat
  bytes : List Byte
  ok : Bool
  deriving DecidableEq, Repr

/-- The always-on island and the board: start-up (R424, R442), module states (R438 to R440), the supply guard (R441),
resets (R445, R446), sensors and registers (R417, R447), the management interface and security (R415 to R420), pins and
indicators (R450 to R460). -/
structure Board where
  step : Nat                           -- SEC_BOOT
  failed : Bool
  err : Nat
  trimB : Bool
  patchB : Bool
  starting : Bool                      -- start-up, or an exit from Sleep, is in progress
  exiting : Bool                       -- it is an exit from Sleep
  lastRst : Nat                        -- PWR_MOD
  gtrips : Nat
  vin : Nat                            -- PWR_IN
  pin : Nat
  tmax : Nat
  trips : List Nat                     -- instants of guard trips in the last 10 min
  swOpen : Bool                        -- the input switch is open, since when, and whether it is held open
  swSince : Nat
  swHeld : Bool
  thermal : Option Nat                 -- instant of a thermal stop
  resetAt : Option (Nat × Nat)         -- a cold reset is coming: instant of its cause, and the cause
  trans : Option (Nat × Nat × Nat)     -- PWR_MODULE in progress: mailbox, tag and target state
  sleepAt : Option Nat                 -- instant at which the sleep image was complete and the completion due
  wake : Bool                          -- a latched wake request
  mrdy : Bool
  perst : Bool                         -- PERST# is asserted
  pprsnt : Bool                        -- PPRSNT# makes contact
  cables : List Nat                    -- connectors with a cable: F0 to F5 are 0 to 5, TC is 6
  loc : Bool
  quar : Bool                          -- a quarantine since the last cold reset
  addr : Option Nat                    -- dynamic address on the management bus (R416)
  receiver : Option Nat                -- event receiver (R417)
  spdmVer : Option Nat                 -- SPDM: version agreed, and the secured sessions
  spdmSess : Nat
  ide : List Nat                       -- IDE streams in the secure state (R415)
  copyA : Option PatchCopy             -- patch copies, and the update not yet verified (R418)
  copyB : Option PatchCopy
  update : Option PatchCopy
  deriving DecidableEq, Repr

/-- Right after reset (log 5): the pins at the levels R454 gives when nothing drives them. -/
def Board.reset : Board :=
  { step := 0, failed := false, err := 0, trimB := false, patchB := false, starting := true, exiting := false, lastRst := 0, gtrips := 0,
    vin := 0, pin := 0, tmax := 0, trips := [], swOpen := false, swSince := 0, swHeld := false, thermal := none, resetAt := none, trans := none,
    sleepAt := none, wake := false, mrdy := false, perst := true, pprsnt := true, cables := [], loc := false, quar := false, addr := none,
    receiver := none, spdmVer := none, spdmSess := 0, ide := [], copyA := none, copyB := none, update := none }

/-! ### The whole block -/

/-- The state of the block. A table lists what differs from what its key reads as when it is not listed. -/
structure State where
  pending : List Instr                 -- commands waiting, first in first out (log 1)
  time : Nat                           -- eighths of a nanosecond since the first reset (log 1)
  ftAdj : Int                          -- fabric time less `time`, in ns (R322)
  ftTenths : Int                       -- adjustment of fabric time not yet applied, in tenths of a nanosecond (R322)
  fresh : Nat                          -- numbers free values (log 10)
  mem : Tab Byte                       -- device memory by device address (R12)
  poison : List Nat                    -- poisoned 64 B lines (R207)
  host : Tab (Tab Byte)                -- host memory by function (R414)
  ctxs : Tab Ctx                       -- 4 core + context
  cores : Tab Core
  tiles : Tab Tile                     -- 16 (4 core + context) + handle
  sems : Tab Sem                       -- 4096 die + index
  signals : List Signal
  claims : Tab Claim                   -- 1024 die + index
  parts : Tab Part                     -- listed: the partition exists
  qps : Tab Qp
  launches : Tab Launch
  nextLaunch : Nat
  images : Tab Image
  lastImage : Nat                      -- last image handle assigned (R276)
  seqs : Tab Seq
  regions : Tab Region                 -- 1024 partition + index; listed: V = 1
  owned : List Own
  hsel : Tab (BitVec 3)                -- HSEL of each granule (R200)
  grants : List Grant
  drains : List RegionDrain
  dies : Tab DramDie
  chans : Tab DramCh                   -- 256 die + channel
  tobjs : Tab Tobj
  lastTobj : Nat                       -- last tensor object identifier assigned
  wpkgs : Tab Wpkg
  lastWpkg : Nat                       -- last package handle assigned
  wwins : Tab Wwin
  flash : Flash
  pools : Tab Pool
  maps : Tab MapE
  mapRoom : Tab (Nat × Nat)            -- map memory of a partition not yet used: first byte and end (log 20)
  foxes : Tab Fox
  prims : Tab Prim
  mbxs : Tab Mbx
  journal : List Cmd                   -- outstanding commands in order of acceptance (R266)
  turn : Nat                           -- the mailbox whose turn comes next (R263)
  cpRst : Bool                         -- MBX_STATUS.CPRST (R256)
  replays : Nat                        -- MBX_STATUS.REPLAYS (R256)
  ready : Bool                         -- MBX_STATUS.READY: start-up is complete (R256, R442)
  patch : Nat × Bool                   -- PATCH_LEVEL and PATCH_OK in force (R272)
  nextPatch : Option (Nat × Bool)      -- a table that was installed and takes effect at the next reset (R273)
  funcs : Tab Func
  pkeys : Tab PKey                     -- 4 partition + slot (R425)
  secure : List Nat                    -- secure partitions (R426)
  linkUp : Bool                        -- the PCIe link is up (R403)
  sent : List Sent                     -- oldest first
  bars : Tab Bar                       -- 512 partition + 256 die + index
  runs : Tab Run                       -- serving run of each partition (R306)
  stepLogs : Tab (List StepLog)        -- step log of each partition, oldest first (R305)
  bounds : List (Nat × Boundary)       -- partition and command that wait for its next step boundary (R304)
  copies : List Copy                   -- copies in progress, oldest first (R290)
  pass0 : Tab Nat                      -- PASS0 of the sequence last admitted to an entry (R287, R303)
  posted : List (Nat × Nat × Nat × Nat) -- sequence completions posted: partition, entry, step, identifier and tag (R27, R304)
  health : Health
  ports : Tab Port
  outbox : List FlitOut                -- DATA flits that wait for a port, oldest first (R314)
  lanes : Tab Nat                      -- packets sent in each direction so far, which the UP ports take in turn (R333)
  domain : Option Domain
  twin : Option Twin
  fabs : Tab FabPart                   -- by partition
  cqs : Tab Cq                         -- 8 partition + 4 die + queue
  fwds : Tab Fwd                       -- 4 die + channel
  snaps : Tab SnapPart                 -- by partition
  fsnaps : Tab FlashSnap               -- by identifier
  mode : ModState                      -- module state (R437)
  pages : Tab Page                     -- by partition
  iris : Tab IrisSess                  -- by session handle
  icores : Tab IrisCore                -- encode cores 0 to 3, decode cores 4 to 7
  board : Board
  deriving DecidableEq, Repr

/-- The block right after reset. -/
def State.reset : State :=
  { pending := [], time := 0, ftAdj := 0, ftTenths := 0, fresh := 0, mem := [], poison := [], host := [], ctxs := [], cores := [], tiles := [],
    sems := [], signals := [], claims := [], parts := [], qps := [], launches := [], nextLaunch := 0, images := [],
    lastImage := 0, seqs := [], regions := [], owned := [], hsel := [], grants := [], drains := [], dies := [], chans := [], tobjs := [], lastTobj := 0, wpkgs := [],
    lastWpkg := 0, wwins := [], flash := Flash.factory, pools := [], maps := [], mapRoom := [], foxes := [], prims := [],
    mbxs := [], journal := [], turn := 0, cpRst := false, replays := 0, ready := false, patch := (0, false), nextPatch := none, funcs := [], pkeys := [], secure := [], linkUp := false,
    sent := [], bars := [], runs := [], stepLogs := [], bounds := [], copies := [], posted := [], pass0 := [], health := Health.reset, ports := [], outbox := [], lanes := [], domain := none, twin := none, fabs := [], cqs := [], fwds := [], snaps := [], fsnaps := [], mode := .active, pages := [], iris := [], icores := [], board := Board.reset }

end Sys2Proof.Machine
end

