-- ==== Sys2Proof/Machine/Formats.lean ====
section
/-!
DEFINITION. Number formats (R72, R73, R75), tensor descriptors (R52, R53, R76), scale headers (R77), code tables
(R80), conversions (R92) and the quantise stage (R94, R95).
-/

namespace Sys2Proof.Machine

/-! ### Format codes (R72) -/

/-- Element bits of a format; 0 for FMAP and reserved codes. -/
def fmtBits : Nat → Nat
  | 0 => 32 | 1 => 16 | 2 => 16 | 3 => 8 | 4 => 8 | 5 => 8 | 6 => 4 | 7 => 2 | 8 => 8 | 9 => 32 | _ => 0

/-- The format always carries block exponents: W4, W2, E4M3B (R72). -/
def fmtBlock (f : Nat) : Bool := f == 6 || f == 7 || f == 8

/-- Bytes of a block of 32 elements (R76). -/
def blockBytes (f : Nat) : Nat := 4 * fmtBits f

/-- The widening ladder W2, W4, E4M3B, BF16 (R96): the rung of a format. -/
def rungOf : Nat → Option Nat
  | 7 => some 0 | 6 => some 1 | 8 => some 2 | 1 => some 3 | _ => none

/-- The format of a rung. -/
def fmtOfRung : Nat → Nat
  | 0 => 7 | 1 => 6 | 2 => 8 | _ => 1

/-- Bytes of a 128 by 128 tile image in a ladder format (R99). -/
def tileImage (f : Nat) : Nat := 2048 * fmtBits f + (if f = 1 then 0 else 512)

/-! ### Elements (R73) -/

/-- Level `c` of a code table word (R80). -/
def w2level (tbl : W32) (c : Nat) : Int := signed 8 (tbl.toNat >>> (8 * c))

/-- The code of a table whose level is nearest a value, the lower code on a tie (R94, R95). -/
def w2nearest (tbl : W32) (x : Fp) : Nat :=
  let dist (c : Nat) : Fp := Fp.abs (Fp.sub x (Fp.ofInt (w2level tbl c)))
  [1, 2, 3].foldl (fun best c => if Fp.lt (dist c) (dist best) then c else best) 0

/-- QLIM of a W2 table: the largest magnitude of a level (R94). -/
def w2lim (tbl : W32) : Nat := ((List.range 4).map (fun c => (w2level tbl c).natAbs)).foldl max 0

/-- The value of an element's bits, without block exponent and scale. `tbl`: the code table word of W2. -/
def elemVal (f : Nat) (tbl : W32) (w : Nat) : Fp :=
  match f with
  | 0 => Fp.of32 w
  | 1 => Fp.ofBf16 w
  | 2 => Fp.of16 w
  | 3 => Fp.ofE4M3 w
  | 4 => Fp.ofE5M2 w
  | 5 => Fp.ofInt (signed 8 w)
  | 6 => Fp.ofInt (signed 4 w)
  | 7 => Fp.ofInt (w2level tbl w)
  | 8 => Fp.ofE4M3 w
  | 9 => Fp.ofInt (signed 32 w)
  | _ => .nan

/-- A value converted once to a format without blocks (R92, R93). -/
def toFmt (f : Nat) (x : Fp) : Nat :=
  match f with
  | 0 => Fp.to32 x
  | 1 => Fp.toBf16 x
  | 2 => Fp.to16 x
  | 3 => Fp.toE4M3 x
  | 4 => Fp.toE5M2 x
  | 5 => unsigned 8 (Fp.toInt 8 x)
  | 9 => unsigned 32 (Fp.toInt 32 x)
  | _ => 0

/-- The bits of an element written or placed as zero (R95). -/
def zeroElem (f : Nat) (tbl : W32) : Nat := if f = 7 then w2nearest tbl Fp.zero else 0

/-- Elements of `b` bits packed into bytes, the first in the low bits (R53, R73). -/
def packBits (b : Nat) (es : List Nat) : List Byte :=
  let w := es.foldr (fun e a => e % 2 ^ b + 2 ^ b * a) 0
  toLe (es.length * b / 8) w

/-! ### Code tables -/

/-- Identifier of a W2 code table (R80). -/
def isW2tid (t : Nat) : Bool := decide (0x8000 ≤ t ∧ t ≤ 0x80FF)

/-- The number of a table in SFU_ACTIVE: programs 0 to 255, code tables from 256 (R176). -/
def tableNo (t : Nat) : Nat := if isW2tid t then 256 + (t - 0x8000) else t % 256

/-- The active bank of a table. -/
def Core.bank (k : Core) (no : Nat) : Nat := b2n (k.active.getLsbD no)

/-! ### Descriptors (R52, R53, R76) and scale headers (R77) -/

/-- A descriptor's 64 bytes: none where they break R52, R53, R54's extents or R76. -/
def parseDesc (bs : List Byte) : Option Desc :=
  let w0 := wordAt bs 0
  let fmt := bits w0 0 4
  let rank := bits w0 4 3
  let dims := (List.range 5).map (fun k => wordAt bs (8 + 8 * k))
  let w6 := wordAt bs 0x30
  let boxes := dims.map (fun w => bits w 0 16)
  let strides := dims.map (fun w => signed 32 (w >>> 32))
  let ok :=
    decide (fmt ≤ 10) && decide (1 ≤ rank ∧ rank ≤ 5) && decide (bits w0 7 57 = 0) && decide (bits w6 48 16 = 0) &&
    decide (wordAt bs 0x38 = 0) &&
    (List.range 5).all (fun k => if k < rank then decide (boxes.getD k 0 ≥ 1) else decide (dims.getD k 0 = 0)) &&
    decide (strides.getD 0 0 = 0) &&
    (!fmtBlock fmt || (decide (boxes.getD 0 0 % 32 = 0) && (List.range 5).all (fun k => k == 0 || decide (strides.getD k 0 % (blockBytes fmt : Int) = 0))))
  if ok then
    some { fmt := fmt, rank := rank, box := boxes.take rank, valid := (dims.map (fun w => bits w 16 16)).take rank,
           stride := strides.take rank, aux := bits w6 0 48 }
  else none

/-- A scale header's 64 bytes for a tensor of format `fmt`: none where they break R77. R77 gives EXP_MIN the range -127 to 127
and names no fault for -128: the model refuses it as it does EXP_MIN > EXP_MAX (DESIGN CHOICE, log 45). -/
def parseHdr (bs : List Byte) (fmt : Nat) : Option ScaleHdr :=
  let w (o : Nat) := wordAt bs o
  let h : ScaleHdr :=
    { expMin := signed 8 (w 0), expMax := signed 8 (w 0 >>> 8), mode := bits (w 0) 16 4, baseFmt := bits (w 0) 20 4,
      maxF := bits (w 0) 24 4, tscale := BitVec.ofNat 32 (w 0 >>> 32), tbase := bits (w 8) 0 48,
      expAddr := bits (w 0x10) 0 48, scaleAddr := bits (w 0x18) 0 48, mapAddr := bits (w 0x20) 0 48,
      mapCols := bits (w 0x28) 0 16, w2tid := bits (w 0x28) 16 16 }
  let upper := [8, 0x10, 0x18, 0x20].all (fun o => decide (w o >>> 48 = 0))
  let ladder :=
    match rungOf h.baseFmt, rungOf h.maxF with
    | some b, some m => decide (b ≤ m)
    | _, _ => false
  let ok :=
    decide (h.expMin ≤ h.expMax) && decide (-127 ≤ h.expMin) && decide (h.mode ≤ 3) && decide (bits (w 0) 28 4 = 0) &&
    upper && decide (w 0x28 >>> 32 = 0) && decide (w 0x30 = 0) && decide (w 0x38 = 0) &&
    (if fmt = 10 then ladder && decide (h.mapAddr ≠ 0) else decide (h.baseFmt = 0 ∧ h.maxF = 0))
  if ok then some h else none

/-- Elements of a box. -/
def Desc.count (d : Desc) : Nat := d.box.foldl (· * ·) 1

/-- The coordinates of the box's element `i`, dimension 0 fastest (R53). -/
def Desc.coords (d : Desc) (i : Nat) : List Nat :=
  (d.box.foldl (fun (acc : List Nat × Nat) b => (acc.1 ++ [acc.2 % b], acc.2 / b)) ([], i)).1

/-- The element exists at the source (R54). -/
def Desc.isValid (d : Desc) (i : Nat) : Bool :=
  ((d.coords i).zip d.valid).all (fun (c, v) => decide (c < v))

/-- The device-side byte offset of the row that holds element `i`: the strides of dimensions 1 and up. -/
def Desc.rowOff (d : Desc) (i : Nat) : Int :=
  ((d.coords i).zip d.stride).foldl (fun a (c, st) => a + c * st) 0

/-- Bytes of one dense row of dimension 0. -/
def Desc.rowBytes (d : Desc) (f : Nat) : Nat := d.box.getD 0 0 * fmtBits f / 8

/-- Bytes of the dense side of a move: the elements and, for a block-scaled format, the exponents after them at the
next 64 B boundary (R53, R79). -/
def Desc.denseBytes (d : Desc) (f : Nat) : Nat :=
  let n := d.count * fmtBits f / 8
  if fmtBlock f then roundUp n 64 + d.count / 32 else n

/-- The lowest and one past the highest byte offset of the strided side (R213). -/
def Desc.span (d : Desc) (f : Nat) : Int × Int :=
  let ext := (d.box.zip d.stride).drop 1 |>.map (fun (b, st) => ((b : Int) - 1) * st)
  (ext.foldl (fun a e => a + min e 0) 0, ext.foldl (fun a e => a + max e 0) 0 + d.rowBytes f)

/-! ### The quantise stage (R94, R95) -/

/-- One quantised block: its exponent code, its element bits, and whether it counts as saturated or as zero. -/
structure QBlock where
  code : Nat
  elems : List Nat
  sat : Bool
  zero : Bool
  deriving DecidableEq, Repr

/-- The integer or level an element rounds to is zero (R94). -/
def qIsZero (f : Nat) (tbl : W32) (w : Nat) : Bool :=
  match f with
  | 6 => w == 0
  | 7 => w2level tbl w == 0
  | _ => w % 128 == 0

/-- round_elem of R94 on the exact scaled value. -/
def roundElem (f : Nat) (tbl : W32) (x : Fp) : Nat :=
  match f with
  | 6 =>
    match x with
    | .nan => 0
    | .inf s => unsigned 4 (if s then -7 else 7)
    | _ => unsigned 4 (max (-7) (min 7 (Fp.rneInt x)))
  | 7 =>
    match x with
    | .nan => w2nearest tbl Fp.zero
    | .inf s =>
      let c := if s then Fp.ofInt (-1000) else Fp.ofInt 1000
      w2nearest tbl c
    | _ => w2nearest tbl x
  | _ => Fp.toE4M3 x

/-- QLIM as a value m * 2^e with integer m: 7, the table's largest magnitude, 448. -/
def qlim (f : Nat) (tbl : W32) : Nat :=
  match f with
  | 6 => 7
  | 7 => w2lim tbl
  | _ => 448

/-- The quantise stage on the elements of one block; a padded element is none, is left out of m and is written as
zero (R95). -/
def quantBlock (f : Nat) (h : ScaleHdr) (tbl : W32) (xs : List (Option Fp)) : QBlock :=
  let fins := xs.filterMap (fun o => match o with
    | some (.fin s m e) => some (Fp.abs (.fin s m e))
    | _ => none)
  let m := fins.foldl (fun a x => if Fp.lt a x then x else a) Fp.zero
  let q := qlim f tbl
  let (e, sat) : Int × Bool :=
    match m with
    | .fin _ mm me =>
      if mm = 0 ∨ q = 0 then (h.expMin, false)
      else
        let es := leastExp mm me q 0
        if es > h.expMax then (h.expMax, true) else (max h.expMin es, false)
    | _ => (h.expMin, false)
  let qs := xs.map (fun o => match o with
    | some x => roundElem f tbl (Fp.scale2 x (-e))
    | none => zeroElem f tbl)
  let live := (xs.zip qs).filter (fun (o, _) => o.isSome)
  if live.all (fun (_, w) => qIsZero f tbl w) then
    { code := 0, elems := xs.map (fun _ => 0), sat := false, zero := true }
  else
    { code := (e + 128).toNat, elems := qs,
      sat := sat || xs.any (fun o => match o with
        | some (.inf _) => true
        | _ => false), zero := false }

end Sys2Proof.Machine
end

