-- ==== Sys2Proof/Machine/Spans.lean ====
section
/-!
DEFINITION. What a mover operation reads and writes, from any reading of device memory (R46, R47, R53, R54, R76 to R79, R95,
R99, R101).
-/

namespace Sys2Proof.Machine

/-! ### Rows of a box -/

/-- Rows of dimension 0 in a box. -/
def Desc.rows (d : Desc) : Nat := (d.box.drop 1).foldl (· * ·) 1
/-- BOX0. -/
def Desc.box0 (d : Desc) : Nat := d.box.getD 0 0
/-- Elements of row `r` that exist (R54): VALID0, at most BOX0, where the row's other coordinates are valid. -/
def Desc.rowValid (d : Desc) (r : Nat) : Nat :=
  let cs := (d.coords (r * d.box0)).drop 1
  if (cs.zip (d.valid.drop 1)).all (fun (c, v) => decide (c < v)) then min d.box0 (d.valid.getD 0 0) else 0
/-- The device byte address of row `r` of the strided side at `a`. -/
def Desc.rowAddr (d : Desc) (a r : Nat) : Nat := ((a : Int) + d.rowOff (r * d.box0)).toNat

/-- The address of the exponent byte of the block whose first element lies at `a`: the quotient is floored, also below TBASE
(R17, R78). -/
def ScaleHdr.expByte (h : ScaleHdr) (f a : Nat) : Nat :=
  unsigned 48 ((h.expAddr : Int) + ((a : Int) - h.tbase) / (blockBytes f : Int))

/-- Some block of the box lies only partly in padding (R95). -/
def Desc.partBlock (d : Desc) : Bool :=
  (List.range d.rows).any (fun r => d.rowValid r % 32 != 0)

/-! ### Reading. `rd`: the byte a reader finds at an address. -/

/-- A little-endian value of `n` bytes. -/
def leOf (rd : Nat → Byte) (a n : Nat) : Nat := ofLe ((List.range n).map (fun i => rd (a + i)))

/-- The element of `b` bits at index `i` of the byte string at `a`. -/
def elemOf (rd : Nat → Byte) (a b i : Nat) : Nat :=
  if b ≥ 8 then leOf rd (a + i * b / 8) (b / 8) else bits (rd (a + i * b / 8)).toNat (i * b % 8) b

/-- The dense elements of row `r` as a load places them: padding as zero, a block wholly in padding all zero bits
(R54, R79, R95). `src`: the row's address. -/
def loadRow (rd : Nat → Byte) (f : Nat) (w2 : W32) (n valid src : Nat) : List Nat :=
  (List.range n).map (fun i =>
    if i < valid then elemOf rd src (fmtBits f) i
    else if fmtBlock f ∧ valid ≤ i / 32 * 32 then 0 else zeroElem f w2)

/-- The block exponents of a row as a load places them (R79). -/
def loadExps (rd : Nat → Byte) (f : Nat) (h : ScaleHdr) (n valid src : Nat) : List Byte :=
  (List.range (n / 32)).map (fun j =>
    if valid ≤ 32 * j then 0#8 else rd (h.expByte f (src + j * blockBytes f)))

/-- What a load of box `d` in format `f` from `src` writes densely at `dst` (R53, R79). -/
def loadSpans (rd : Nat → Byte) (d : Desc) (h : Option ScaleHdr) (w2 : W32) (f src dst : Nat) : List (Nat × List Byte) :=
  let rows := List.range d.rows
  let elems := rows.flatMap (fun r => packBits (fmtBits f) (loadRow rd f w2 d.box0 (d.rowValid r) (d.rowAddr src r)))
  match h with
  | some h =>
    if fmtBlock f then
      let exps := rows.flatMap (fun r => loadExps rd f h d.box0 (d.rowValid r) (d.rowAddr src r))
      [(dst, elems), (dst + roundUp elems.length 64, exps)]
    else [(dst, elems)]
  | none => [(dst, elems)]

/-- What a load of a format-mapped tile writes: the image of a 128 by 128 tile in format `f`, elements then
exponents, with padding as zero (R99, R101). -/
def loadTile (rd : Nat → Byte) (d : Desc) (w2 : W32) (f src dst : Nat) : List (Nat × List Byte) :=
  let rowB := 128 * fmtBits f / 8
  let elems := (List.range 128).flatMap (fun r =>
    packBits (fmtBits f) (loadRow rd f w2 128 (d.rowValid r) (src + r * rowB)))
  if fmtBlock f then
    let exps := (List.range 128).flatMap (fun r => (List.range 4).map (fun j =>
      if d.rowValid r ≤ 32 * j then 0#8 else rd (src + 128 * rowB + 4 * r + j)))
    [(dst, elems), (dst + roundUp elems.length 64, exps)]
  else [(dst, elems)]

/-- What a store of box `d` writes at `dst` from dense data at `src` (R54, R79, R95). -/
def storeSpans (rd : Nat → Byte) (d : Desc) (h : Option ScaleHdr) (w2 : W32) (src dst : Nat) : List (Nat × List Byte) :=
  let f := d.fmt
  let b := fmtBits f
  let n := d.box0
  let expOff := roundUp (d.count * b / 8) 64
  (List.range d.rows).flatMap (fun r =>
    let v := d.rowValid r
    let at_ := d.rowAddr dst r
    let row := src + r * d.rowBytes f
    if v = 0 then []
    else
      match h, fmtBlock f with
      | some h, true =>
        (List.range (ceilDiv v 32)).flatMap (fun j =>
          let es := (List.range 32).map (fun i =>
            if 32 * j + i < v then elemOf rd row b (32 * j + i) else zeroElem f w2)
          let a := at_ + j * blockBytes f
          [(a, packBits b es), (h.expByte f a, [rd (src + expOff + r * (n / 32) + j)])])
      | _, _ => [(at_, packBits b ((List.range v).map (elemOf rd row b)))])

/-- The 32-bit words a tst.addf or tst.addi adds: each destination word with the dense source word (R47). -/
def Desc.addPairs (d : Desc) (src dst : Nat) : List (Nat × Nat) :=
  (List.range d.rows).flatMap (fun r =>
    (List.range (d.rowValid r)).map (fun i => (d.rowAddr dst r + 4 * i, src + r * (4 * d.box0) + 4 * i)))

/-- The sum a tst.addf or tst.addi stores. -/
def addWord (o : MoverOp) (a b : Nat) : Nat :=
  match o with
  | .tstAddf => Fp.to32 (Fp.add (Fp.of32 a) (Fp.of32 b))
  | _ => (a + b) % 2 ^ 32

/-- The spans a mover operation writes, but for the atomic adds, which write their sums one after the other (R46, R47). -/
def MoverRec.spans (m : MoverRec) (rd : Nat → Byte) : List (Nat × List Byte) :=
  match m.op with
  | .tld =>
    if m.desc.fmt = 10 then loadTile rd m.desc m.w2 m.fmt m.src m.dst
    else loadSpans rd m.desc m.hdr m.w2 m.fmt m.src m.dst
  | .tcpy => loadSpans rd m.desc m.hdr m.w2 m.fmt m.src m.dst
  | .tldz =>
    let n := m.desc.count * fmtBits m.fmt / 8
    if fmtBlock m.fmt then [(m.dst, List.replicate n 0), (m.dst + roundUp n 64, List.replicate (m.desc.count / 32) 0)]
    else [(m.dst, List.replicate n 0)]
  | .tst => storeSpans rd m.desc m.hdr m.w2 m.src m.dst
  | .tstAddf | .tstAddi =>
    (m.desc.addPairs m.src m.dst).map (fun (d, a) => (d, toLe 4 (addWord m.op (leOf rd d 4) (leOf rd a 4))))

/-! ### Spans of the two sides -/

/-- Exponent bytes of `n` blocks from the one at `a`. -/
def expSpan (h : Option ScaleHdr) (f a n : Nat) : List (Nat × Nat) :=
  match h with
  | some h => if fmtBlock f ∧ 0 < n then [(h.expByte f a, n)] else []
  | none => []

/-- The spans of the strided side's valid elements, and of their block exponents (R54, R78): a store of a block-scaled tensor writes
whole blocks. -/
def Desc.liveSpans (d : Desc) (h : Option ScaleHdr) (f a : Nat) (whole : Bool) : List (Nat × Nat) :=
  (List.range d.rows).flatMap (fun r =>
    let v := d.rowValid r
    let n := if whole ∧ fmtBlock f then ceilDiv v 32 * 32 else v
    if v = 0 then []
    else (d.rowAddr a r, ceilDiv (n * fmtBits f) 8) :: expSpan h f (d.rowAddr a r) (ceilDiv v 32))

/-- The spans a mover operation reads (R54, R101): no padding, and for a store all of its dense side. -/
def MoverRec.readSpans (m : MoverRec) : List (Nat × Nat) :=
  match m.op with
  | .tldz => []
  | .tst => [(m.src, m.desc.denseBytes m.fmt)]
  | .tstAddf | .tstAddi => (m.src, m.desc.denseBytes m.fmt) :: m.desc.liveSpans m.hdr m.desc.fmt m.dst false
  | .tcpy => m.desc.liveSpans m.hdr m.fmt m.src false
  | .tld =>
    if m.desc.fmt = 10 then
      let rowB := 128 * fmtBits m.fmt / 8
      (List.range 128).flatMap (fun r =>
        let v := m.desc.rowValid r
        if v = 0 then []
        else (m.src + r * rowB, ceilDiv (v * fmtBits m.fmt) 8) ::
          (if fmtBlock m.fmt then [(m.src + 128 * rowB + 4 * r, ceilDiv v 32)] else []))
    else m.desc.liveSpans m.hdr m.fmt m.src false

/-- The spans a mover operation writes (R54, R101). -/
def MoverRec.writeSpans (m : MoverRec) : List (Nat × Nat) :=
  match m.op with
  | .tst => m.desc.liveSpans m.hdr m.desc.fmt m.dst true
  | .tstAddf | .tstAddi => m.desc.liveSpans none m.desc.fmt m.dst false
  | _ => [(m.dst, m.desc.denseBytes m.fmt)]

/-- The spans of a mover operation's destination as they are checked at issue (R465): whole rows, and the block exponents that a
store of a block-scaled tensor writes. -/
def MoverRec.destSpans (m : MoverRec) : List (Nat × Nat) :=
  match m.op with
  | .tst | .tstAddf | .tstAddi =>
    (List.range m.desc.rows).flatMap (fun r =>
      (m.desc.rowAddr m.dst r, m.desc.rowBytes m.desc.fmt) :: expSpan m.hdr m.desc.fmt (m.desc.rowAddr m.dst r) (m.desc.box0 / 32))
  | _ => [(m.dst, m.desc.denseBytes m.fmt)]

/-- The byte that the spans write at an address: the last one that covers it. -/
def spanByte (ws : List (Nat × List Byte)) (a : Nat) : Option Byte :=
  ws.foldl (fun o w => if w.1 ≤ a ∧ a < w.1 + w.2.length then w.2[a - w.1]? else o) none

/-- Bytes of the 64 B lines of DRAM that spans touch (R295). `lim`: the size of DRAM. -/
def lineBytes (lim : Nat) (ss : List (Nat × Nat)) : Nat :=
  let ls := ss.flatMap (fun (a, n) => if a < lim ∧ 0 < n then (List.range ((a + n - 1) / 64 + 1 - a / 64)).map (a / 64 + ·) else [])
  64 * ls.eraseDups.length

end Sys2Proof.Machine
end

