-- ==== Sys2Proof/Machine/Ops.lean ====
section
/-!
DEFINITION. The named operations over memory, contexts, cores, regions, semaphores and fault records that every
command's meaning uses.
-/

namespace Sys2Proof.Machine

/-! ### Addresses (R12, R13, R174) -/

/-- Bytes of one die's DRAM. -/
def dieBytes : Nat := 2 ^ 38
/-- Bytes of a DRAM granule (R200). -/
def granule : Nat := 2 ^ 21
/-- Device address of core `c`'s scratchpad slot. -/
def spadSlot (c : Nat) : Nat := 0x10000000000 + c * 0x1000000
/-- Device address of the first table window. -/
def windowBase : Nat := 0x20002000000
/-- Device address of core `c`'s table window. -/
def tableWindow (c : Nat) : Nat := windowBase + c * 0x40000

/-- The address lies in DRAM. -/
def inDram (a : Nat) : Bool := a < 2 * dieBytes

/-- The core whose scratchpad slot holds the address. -/
def spadCore (a : Nat) : Option Nat :=
  if spadSlot 0 ≤ a ∧ a < spadSlot 128 then some ((a - spadSlot 0) / 0x1000000) else none

/-- The core whose table window holds the address. -/
def windowCore (a : Nat) : Option Nat :=
  if windowBase ≤ a ∧ a < tableWindow 128 then some ((a - windowBase) / 0x40000) else none

/-- The `n` bytes from `a` on are all mapped, in one store of the module (R13, R174). -/
def mappedSpan (a n : Nat) : Bool :=
  let o := (a - spadSlot 0) % 0x1000000
  let w := (a - windowBase) % 0x40000
  if inDram a then decide (a + n ≤ 2 * dieBytes)
  else if (spadCore a).isSome then decide (o + n ≤ 0x800000)
  else if (windowCore a).isSome then decide (w + n ≤ 0x30800 ∨ (0x31000 ≤ w ∧ w + n ≤ 0x31080))
  else false

/-- What a byte of device memory reads as when nothing has been written to it: the factory table contents in the
table windows (R169, R177), 0 everywhere else (DESIGN CHOICE, log 3). -/
def Memory.dflt (a : Nat) : Byte :=
  if (windowCore a).isSome then
    let w := (a - windowBase) % 0x40000
    if w < 0x10000 then factoryRecord (w % 0x8000 / 128) (w % 128)
    else if w < 0x30000 then factorySegment (w % 0x10000)
    else 0#8
  else 0#8

/-- The canonical form of device memory (no two entries of one address, rising, none equal to its default). -/
abbrev Memory.wf (m : Tab Byte) : Prop := TabWf Memory.dflt m

/-! ### Contexts and cores -/

/-- Context `x` of core `c`. -/
def State.ctx (s : State) (c x : Nat) : Ctx := tget (fun _ => Ctx.reset) s.ctxs (4 * c + x)
/-- The state with context `x` of core `c` replaced. -/
def State.setCtx (s : State) (c x : Nat) (k : Ctx) : State :=
  { s with ctxs := tput (fun _ => Ctx.reset) s.ctxs (4 * c + x) k }
/-- The state with context `x` of core `c` changed. -/
def State.updCtx (s : State) (c x : Nat) (f : Ctx → Ctx) : State := s.setCtx c x (f (s.ctx c x))
/-- Core `c`. -/
def State.core (s : State) (c : Nat) : Core := tget (fun _ => Core.reset) s.cores c
/-- The state with core `c` replaced. -/
def State.setCore (s : State) (c : Nat) (k : Core) : State :=
  { s with cores := tput (fun _ => Core.reset) s.cores c k }
/-- The state with core `c` changed. -/
def State.updCore (s : State) (c : Nat) (f : Core → Core) : State := s.setCore c (f (s.core c))
/-- Accumulator tile `h` of context `x` of core `c`. -/
def State.tile (s : State) (c x h : Nat) : Tile := tget (fun _ => Tile.empty) s.tiles (16 * (4 * c + x) + h)
/-- The state with that tile replaced. -/
def State.setTile (s : State) (c x h : Nat) (t : Tile) : State :=
  { s with tiles := tput (fun _ => Tile.empty) s.tiles (16 * (4 * c + x) + h) t }

/-- Scalar register (R36): s0 reads 0. -/
def Ctx.getS (k : Ctx) (r : Nat) : W64 := if r = 0 then 0 else tget (fun _ => 0#64) k.s r
/-- Writing a scalar register: a write to s0 is discarded. -/
def Ctx.setS (k : Ctx) (r : Nat) (v : W64) : Ctx :=
  if r = 0 then k else { k with s := tput (fun _ => 0#64) k.s r v }
/-- Address register. -/
def Ctx.getA (k : Ctx) (r : Nat) : BitVec 48 := tget (fun _ => 0#48) k.a r
/-- Writing an address register. -/
def Ctx.setA (k : Ctx) (r : Nat) (v : BitVec 48) : Ctx := { k with a := tput (fun _ => 0#48) k.a r v }
/-- Predicate register: p0 reads all ones. -/
def Ctx.getP (k : Ctx) (r : Nat) : BitVec 256 :=
  if r = 0 then BitVec.allOnes 256 else tget (fun _ => 0#256) k.p r
/-- Writing a predicate register: a write to p0 is discarded. -/
def Ctx.setP (k : Ctx) (r : Nat) (v : BitVec 256) : Ctx :=
  if r = 0 then k else { k with p := tput (fun _ => 0#256) k.p r v }
/-- A vector register of zeros. -/
def zeroVec : List W32 := List.replicate 256 0#32
/-- Lane `i` of a vector register. -/
def Ctx.getV (k : Ctx) (r i : Nat) : W32 := (tget (fun _ => zeroVec) k.v r).getD i 0
/-- Writing the 256 lanes of a vector register. -/
def Ctx.setV (k : Ctx) (r : Nat) (f : Nat → W32) : Ctx :=
  { k with v := tput (fun _ => zeroVec) k.v r ((List.range 256).map f) }
/-- Descriptor register. -/
def Ctx.getD (k : Ctx) (r : Nat) : W32 := tget (fun _ => 0#32) k.d r
/-- The count of a mover tag (R56). -/
def Ctx.tagCount (k : Ctx) (t : Nat) : Nat := tget (fun _ => 0) k.tags t
/-- A tag count changed. -/
def Ctx.setTag (k : Ctx) (t n : Nat) : Ctx := { k with tags := tput (fun _ => 0) k.tags t n }

/-- The launch under key `l`. -/
def State.launch (s : State) (l : Nat) : Option Launch := oget s.launches l
/-- The launch a context works for. -/
def State.launchOf (s : State) (c x : Nat) : Option Launch := (s.ctx c x).launch.bind s.launch
/-- The state with a launch changed. -/
def State.updLaunch (s : State) (l : Nat) (f : Launch → Launch) : State := { s with launches := oupd s.launches l f }
/-- WIDEN of a launch: tiles widened (R102). -/
def Launch.widen (l : Launch) : Nat := (l.widenBy.map (·.2)).foldl (· + ·) 0
/-- One tile of a context is widened. -/
def Launch.addWiden (l : Launch) (i : Nat) : Launch :=
  { l with widenBy := tput (fun _ => 0) l.widenBy i (tget (fun _ => 0) l.widenBy i + 1) }
/-- EMPTYROW of a launch (R143). -/
def Launch.emptyRow (l : Launch) : Nat := (l.emptyBy.map (·.2)).foldl (· + ·) 0
/-- Empty rows of a unit. -/
def Launch.addEmpty (l : Launch) (u n : Nat) : Launch :=
  { l with emptyBy := tput (fun _ => 0) l.emptyBy u (tget (fun _ => 0) l.emptyBy u + n) }
/-- The module starts new work: it is in Active and no transition out of it is in progress (R437, R438). -/
def State.workOpen (s : State) : Bool := s.mode == .active && s.board.trans.isNone
/-- The partition a context works for (0 where it works for none). -/
def State.partOf (s : State) (c x : Nat) : Nat :=
  match s.launchOf c x with
  | some l => l.part
  | none => 0
/-- The state with a partition changed. -/
def State.updPart (s : State) (p : Nat) (f : Part → Part) : State := { s with parts := oupd s.parts p f }
/-- The compute die of a core (R14). -/
def dieOf (c : Nat) : Nat := c / 64

/-! ### Device memory -/

/-- One byte of device memory as stored. -/
def State.rawByte (s : State) (a : Nat) : Byte := tget Memory.dflt s.mem a

/-- One byte of device memory: the bank registers stand in the table windows (R176). -/
def State.byte (s : State) (a : Nat) : Byte :=
  match windowCore a with
  | some c =>
    let w := (a - windowBase) % 0x40000
    if 0x31000 ≤ w ∧ w < 0x31040 then ((s.core c).active >>> (8 * (w - 0x31000))).setWidth 8
    else if 0x31040 ≤ w ∧ w < 0x31080 then ((s.core c).pending >>> (8 * (w - 0x31040))).setWidth 8
    else s.rawByte a
  | none => s.rawByte a

/-- `n` bytes of device memory. -/
def State.bytes (s : State) (a n : Nat) : List Byte := (List.range n).map (fun i => s.byte (a + i))

/-- A little-endian value of `n` bytes. -/
def State.le (s : State) (a n : Nat) : Nat := ofLe (s.bytes a n)

/-- The element of `b` bits at index `i` of the byte string at `a`. -/
def State.elem (s : State) (a b i : Nat) : Nat := elemOf s.byte a b i

/-- The word of code table `t` in its active bank on core `c` (R80, R174). -/
def State.w2word (s : State) (c t : Nat) : W32 :=
  BitVec.ofNat 32 (s.le (tableWindow c + 0x30000 + 0x400 * (s.core c).bank (tableNo t) + 4 * (t - 0x8000)) 4)

/-! ### What a reader finds while writes are under way (R4, R57, log 8) -/

/-- The mover operations under way on a core: the oldest of each context in each mover (R56). -/
def Core.moving (k : Core) : List MoverRec :=
  (List.range 4).flatMap (fun x => (k.lmq.find? (fun m => m.ctx == x)).toList ++ (k.smq.find? (fun m => m.ctx == x)).toList)

/-- What each operation under way would write: the mover operations in progress, the drains that have read their
tiles, and the finished heads of work items. -/
def State.underWay (s : State) : List (List (Nat × List Byte)) :=
  s.cores.flatMap (fun (_, k) => k.moving.map (fun m => m.spans s.byte) ++ k.writing.map (·.writes)) ++
  s.foxes.flatMap (fun (_, f) => (f.item.map (·.outs)).toList)

/-- The spans reach the 64 B line `l`. -/
def touchesLine (l : Nat) (ws : List (Nat × List Byte)) : Bool :=
  ws.any (fun w => decide (64 * l < w.1 + w.2.length ∧ w.1 < 64 * l + 64))

/-- One byte of device memory as an agent finds it: in a line that operations under way write, it is that of one of them or the
old one, a free choice for the whole line (R57); elsewhere it is `State.byte`. -/
def State.seen (s : State) (a : Nat) : Byte :=
  match s.underWay with
  | [] => s.byte a
  | ws =>
    let here := ws.filter (touchesLine (a / 64))
    match here[Config.lineSeen s.fresh (a / 64) % (here.length + 1)]? with
    | some w => (spanByte w a).getD (s.byte a)
    | none => s.byte a

/-- `n` bytes of device memory as an agent finds them. -/
def State.seenBytes (s : State) (a n : Nat) : List Byte := (List.range n).map (fun i => s.seen (a + i))

/-- A little-endian value of `n` bytes as an agent finds it. -/
def State.seenLe (s : State) (a n : Nat) : Nat := ofLe (s.seenBytes a n)

/-- The next occasion of a free value. -/
def State.bump (s : State) : State := { s with fresh := s.fresh + 1 }

/-- Bytes written one after the other, in the stored table. -/
def memPut (m : Tab Byte) (a : Nat) : List Byte → Tab Byte
  | [] => m
  | b :: bs => memPut (tput Memory.dflt m a b) (a + 1) bs

/-- The 64 B line of an address (R57). -/
def lineOf (a : Nat) : Nat := a / 64

/-- A written span clears the poison of the lines it covers whole (R207). -/
def clearPoison (ps : List Nat) (a n : Nat) : List Nat :=
  ps.filter (fun l => !(decide (a ≤ 64 * l ∧ 64 * l + 64 ≤ a + n)))

/-- A span has a poisoned line. -/
def State.poisoned (s : State) (a n : Nat) : Bool := s.poison.any (fun l => decide (64 * l < a + n ∧ a < 64 * l + 64))

/-- The lines of a span become poisoned: what was written there came from a poisoned line (R362). -/
def State.taint (s : State) (a n : Nat) : State :=
  if n = 0 then s
  else
    let ls := (List.range ((a + n - 1) / 64 + 1 - a / 64)).map (a / 64 + ·)
    { s with poison := ls.filter (fun l => !s.poison.contains l) ++ s.poison }

/-- DIRTY of the tensor object homes that a write of `n` bytes at `a` touches (R220). -/
def markDirty (rs : Tab Region) (a n : Nat) : Tab Region :=
  rs.map (fun (k, r) =>
    (k, if r.tobj ∧ r.baseg ≤ (a + n - 1) / granule ∧ a / granule ≤ r.lastg then { r with dirty := true } else r))

/-- Writing bytes to device memory: whole lines lose their poison, homes become dirty (R207, R220). Writing nothing
changes nothing. -/
def State.write (s : State) (a : Nat) (bs : List Byte) : State :=
  if bs = [] then s
  else { s with mem := memPut s.mem a bs, poison := clearPoison s.poison a bs.length,
                regions := markDirty s.regions a bs.length }

/-- Writing several spans in order. -/
def State.writes (s : State) (ws : List (Nat × List Byte)) : State := ws.foldl (fun s w => s.write w.1 w.2) s

/-! ### Region maps (R211, R213) -/

/-- The regions of partition `p`. -/
def State.regionsOf (s : State) (p : Nat) : List Region :=
  s.regions.filterMap (fun (k, r) => if k / 1024 = p then some r else none)

/-- Granules `g` to `last` lie in regions with the needed permissions, followed region by region. -/
def covered (rs : List Region) (needR needW needX : Bool) : Nat → Nat → Nat → Bool
  | 0, _, _ => false
  | fuel + 1, g, last =>
    match rs.find? (fun r => decide (r.baseg ≤ g ∧ g ≤ r.lastg) && (r.r || !needR) && (r.w || !needW) && (r.x || !needX)) with
    | none => false
    | some r => if last ≤ r.lastg then true else covered rs needR needW needX fuel (r.lastg + 1) last

/-- An access of `n` bytes at `a` on behalf of partition `p` is permitted (R213): every granule of its span lies in a
region with the permission, and the span is mapped (R13). -/
def State.permits (s : State) (p a n : Nat) (r w x : Bool) : Bool :=
  decide (0 < n) && mappedSpan a n && covered (s.regionsOf p) r w x 1025 (a / granule) ((a + n - 1) / granule)

/-- The number of the needed permission in a fault's DETAIL (R65). -/
def permCode (r w x : Bool) : Nat := b2n r + 2 * b2n w + 4 * b2n x

/-! ### Faults (R64, R65) -/

/-- A fault of one DETAIL word. -/
def fault1 (code slot d : Nat) : CoreFault :=
  { code := code, slot := slot, d18 := d, d20 := 0, d28 := 0, d30 := 0, d38 := 0 }

/-- ADDRESS at a device address. -/
def faultAddress (slot a : Nat) : CoreFault := fault1 2 slot a
/-- REGION at an address with the needed permission. -/
def faultRegion (slot a perm : Nat) : CoreFault := { fault1 3 slot a with d20 := perm }
/-- The die and index of a semaphore, claim counter or barrier in a DETAIL word (R299, R324). -/
def syncWord (die i : Nat) : Nat := die * 4096 + i

/-- The words of the record of a core fault (R64). -/
def faultWords (c x tag pc tt : Nat) (f : CoreFault) : List W64 :=
  [f.code % 65536 + c % 128 * 2 ^ 16 + x % 4 * 2 ^ 23 + f.slot % 8 * 2 ^ 25 + tag % 2 ^ 32 * 2 ^ 32, pc, tt,
    f.d18, f.d20, f.d28, f.d30, f.d38].map (BitVec.ofNat 64)

/-- A fault recorded against the tile-thread, item or job `i` of a launch: each counts once, and the record of the
lowest index is kept (R64). -/
def Launch.addFault (l : Launch) (i : Nat) (rec : List W64) : Launch :=
  { l with
    faulted := if l.faulted.contains i then l.faulted else i :: l.faulted
    record :=
      match l.record with
      | none => some (i, rec)
      | some (j, r) => if i < j then some (i, rec) else some (j, r) }

/-- A core fault recorded against a tile-thread. -/
def State.recordFault (s : State) (c x pc : Nat) (th : Thread) (f : CoreFault) : State :=
  s.updLaunch th.launch (fun l => l.addFault th.index (faultWords c x l.tag pc th.index f))

/-- Taking a context out of every semaphore's wait list. -/
def State.leaveWaits (s : State) (c x : Nat) : State :=
  { s with sems := tmap (fun _ => Sem.reset) (fun _ v => { v with waiters := v.waiters.filter (fun w => w ≠ (c, x)) }) s.sems }

/-- A context no longer waits at any barrier; its arrivals stay counted (R324). -/
def State.leaveBars (s : State) (c x : Nat) : State :=
  { s with bars := tmap (fun _ => Bar.reset) (fun _ b => { b with arrivals := b.arrivals.map (fun w => if w = some (c, x) then none else w) }) s.bars }

/-- The tile-thread of a context ends (R45, R64, R70): its tag counts stay, its wait ends. -/
def State.endThread (s : State) (c x : Nat) : State :=
  match (s.ctx c x).tt with
  | none => s
  | some th =>
    let s := (s.updLaunch th.launch (fun l =>
      { l with ended := l.ended + 1, skips := if 16 < (s.ctx c x).seen.length then th.index :: l.skips else l.skips })).leaveWaits c x |>.leaveBars c x
    s.updCtx c x (fun k => { k with tt := none, wait := .none, seen := [] })

/-! ### The queue of the matrix unit (R38, R48, R86, R124) -/

/-- The context of a matrix operation. -/
def MatrixRec.ctx : MatrixRec → Nat
  | .mmul m _ _ _ => m.ctx
  | .mdrain d => d.ctx
  | .mfree x _ _ => x
  | .clear x _ _ => x
  | .lrun x _ _ _ _ _ => x

/-- The tile-thread that issued it; an mfree and the clearing of a tile belong to none. -/
def MatrixRec.thread : MatrixRec → Option Thread
  | .mmul _ th _ _ => some th
  | .mdrain d => some d.by_
  | .mfree _ _ _ => none
  | .clear _ _ _ => none
  | .lrun _ th _ _ _ _ => some th

/-- Its place in the order of issue. -/
def MatrixRec.seq : MatrixRec → Nat
  | .mmul _ _ _ q => q
  | .mdrain d => d.seq
  | .mfree _ _ q => q
  | .clear _ _ q => q
  | .lrun _ _ _ _ q _ => q

/-- A tile that a new tile-thread finds empty (R38). -/
def MatrixRec.isClear : MatrixRec → Bool
  | .clear _ _ _ => true
  | _ => false

/-- An mmul. -/
def MatrixRec.isMmul : MatrixRec → Bool
  | .mmul _ _ _ _ => true
  | _ => false

/-- A drain reads tile `t` of context `x`, as main tile or as partner (R108). -/
def DrainRec.reads (d : DrainRec) (x t : Nat) : Bool := d.ctx == x && (d.tile == t || (d.pair && d.tile ^^^ 1 == t))

/-- The queue without the operations of context `x` from its first mmul on: the one that fails and those after it (R86). The tiles of
a new tile-thread are still cleared (R38). -/
def dropFromMmul (x : Nat) : List MatrixRec → List MatrixRec
  | [] => []
  | o :: rest =>
    if o.isMmul && o.ctx == x then (o :: rest).filter (fun o => o.ctx ≠ x || o.isClear)
    else o :: dropFromMmul x rest

/-- The drain that takes the sum of an mmul of Lupin: the oldest one of its tile that was issued after it (R117). -/
def Core.drainOf (k : Core) (u : LupinMmul) : Option DrainRec :=
  k.drains.find? (fun d => d.reads u.m.ctx u.m.tile && decide (u.m.at_ < d.seq))

/-- Lupin stops for lrun `id` of context `x` (R124, R126): its later lruns go with all they have issued; of lrun `id` the mmuls stay
whose output's drain Lupin has issued. `bad`: the mmul that failed, with whose tile its drain goes too. -/
def Core.stopLupin (k : Core) (x id : Nat) (bad : Option LupinMmul) : Core :=
  let gone := (bad.bind k.drainOf).map (·.seq)
  let drains := k.drains.filter (fun d => d.ctx ≠ x || (decide (d.lrun.getD 0 ≤ id) && some d.seq ≠ gone))
  let stays (u : LupinMmul) : Bool :=
    u.m.ctx ≠ x || decide (u.lrun < id) || (u.lrun == id &&
      (match k.drainOf u with
        | some d => some d.seq ≠ gone
        | none => false))
  let ended := match k.lrun with
    | some l => if l.ctx = x ∧ l.id = id then [(id, x, l.by_, none)] else []
    | none => []
  { k with
    drains := drains
    lmm := k.lmm.filter stays
    lrun := k.lrun.filter (fun l => l.ctx ≠ x || decide (l.id < id))
    mq := k.mq.filter (fun o => o.ctx ≠ x || o.isClear)
    tail := (k.tail.filter (fun t => t.2.1 ≠ x || decide (t.1 ≤ id))).map (fun t =>
      if t.2.1 = x ∧ t.1 = id then (t.1, t.2.1, t.2.2.1, none) else t) ++ ended }

/-- The tiles that the lrun in expansion holds for a context (R119). -/
def Core.heldBy (k : Core) (x : Nat) : List Nat :=
  match k.lrun with
  | some l => if l.ctx = x then l.held.flatMap (fun h => if h.2.2 = 1 then [h.2.1, h.2.1 + 1] else [h.2.1]) else []
  | none => []

/-- Lupin stops: the tiles that it held and that no remaining drain reads are discarded (R124). -/
def State.stopLupin (s : State) (c x id : Nat) (bad : Option LupinMmul) : State :=
  let held := (s.core c).heldBy x
  let s := s.updCore c (fun k => k.stopLupin x id bad)
  let k := s.core c
  let read (t : Nat) : Bool := k.drains.any (fun d => d.reads x t) ||
    (match k.drain with
      | some r => r.d.reads x t
      | none => false)
  (held.filter (fun t => !read t)).foldl (fun s t => s.setTile c x t Tile.empty) s

/-! ### Code tables of mmuls (R80, R89, R181) -/

/-- The code table identifier of a tile handle for W2 mmuls (R89). -/
def Ctx.w2tid (k : Ctx) (t : Nat) : Nat := ofLe ((k.kfc.drop (0x10 + 2 * t)).take 2)

/-- The mmul reads a code table whose commit is pending. -/
def State.mmulPending (s : State) (c : Nat) (m : MmulRec) : Bool :=
  m.fmtb == 7 && (s.core c).pending.getLsbD (tableNo ((s.ctx c m.ctx).w2tid m.tile))

/-- Lupin issues each of its mmuls, oldest first, once its operands' loads have completed (R118) and no commit of its code table is
pending (R181). -/
def State.issueMmuls (s : State) (c : Nat) : State :=
  let k := s.core c
  let ready (u : LupinMmul) : Bool := u.m.issued.isNone && !u.m.needs.any (fun q => k.lmq.any (fun r => r.seq == q)) && !s.mmulPending c u.m
  let go := fun (acc : List LupinMmul × Nat × Bool) (u : LupinMmul) =>
    if acc.2.2 ∧ ready u then (acc.1 ++ [{ u with m := { u.m with issued := some acc.2.1 } }], acc.2.1 + 1, true)
    else (acc.1 ++ [u], acc.2.1, acc.2.2 && u.m.issued.isSome)
  let r := k.lmm.foldl go ([], k.nextSeq, true)
  if k.lmm.all (fun u => u.m.issued.isSome) then s else s.updCore c (fun k => { k with lmm := r.1, nextSeq := r.2.1 })

/-- A fault that reaches a context between two bundles (R62, R86, R124, R300): recorded against the tile-thread that
raised it, which ends if it still runs. Every state between two commands is a bundle boundary (log 18). -/
def State.lateFault (s : State) (c x pc : Nat) (th : Thread) (f : CoreFault) : State :=
  let s := s.recordFault c x pc th f
  if (s.ctx c x).tt = some th then s.endThread c x else s

/-! ### Semaphores and claim counters (R62, R299) -/

/-- Semaphore `i` of a die. -/
def State.sem (s : State) (die i : Nat) : Sem := tget (fun _ => Sem.reset) s.sems (4096 * die + i)
/-- The state with a semaphore replaced. -/
def State.setSem (s : State) (die i : Nat) (v : Sem) : State :=
  { s with sems := tput (fun _ => Sem.reset) s.sems (4096 * die + i) v }
/-- Claim counter `i` of a die. -/
def State.claim (s : State) (die i : Nat) : Claim := tget (fun _ => Claim.reset) s.claims (1024 * die + i)
/-- The state with a claim counter replaced. -/
def State.setClaim (s : State) (die i : Nat) (v : Claim) : State :=
  { s with claims := tput (fun _ => Claim.reset) s.claims (1024 * die + i) v }

/-- Semaphore `i` lies in the partition's range (R281, R299). -/
def State.semIn (s : State) (p i : Nat) : Bool :=
  match oget s.parts p with
  | some q => decide (q.semBase ≤ i ∧ i < q.semBase + q.semCount)
  | none => false

/-- Claim counter `i` lies in the partition's range. -/
def State.claimIn (s : State) (p i : Nat) : Bool :=
  match oget s.parts p with
  | some q => decide (q.claimBase ≤ i ∧ i < q.claimBase + q.claimCount)
  | none => false

/-- Adding `n` to a semaphore at its home (R62): none where the value would pass 0xFFFF_FFFF. -/
def State.semAdd (s : State) (die i n : Nat) : Option State :=
  let v := s.sem die i
  if v.value.toNat + n < 2 ^ 32 then some (s.setSem die i { v with value := BitVec.ofNat 32 (v.value.toNat + n) })
  else none

end Sys2Proof.Machine
end

