-- ==== Sys2Proof/Machine/Flags.lean ====
section
/-!
DEFINITION. Predicates and comparisons (R33, R43, R49), and the conditions under which a bundle is illegal (R34).
-/

namespace Sys2Proof.Machine

/-- q of R33: the predicate register, inverted where PNEG = 1. -/
def Ctx.q (k : Ctx) (h : SlotHdr) : BitVec 256 :=
  if h.pneg then ~~~ (k.getP h.pred.toNat) else k.getP h.pred.toNat

/-- The predicate a comparison writes: all ones if true, else all zeros (R43). -/
def boolPred (b : Bool) : BitVec 256 := if b then BitVec.allOnes 256 else 0

/-- The scalar comparisons (R43); `none` for other operations. -/
def scalarCmp (o : ScalarOp) (a b : W64) : Option Bool :=
  match o with
  | .cmpEq => some (a == b)
  | .cmpNe => some (a != b)
  | .cmpLt => some (a.slt b)
  | .cmpLtu => some (a.ult b)
  | .cmpGe => some (!a.slt b)
  | .cmpGeu => some (!a.ult b)
  | _ => none

/-- A register that a slot names as destination. -/
inductive Reg where
  | s (r : Nat)
  | a (r : Nat)
  | v (r : Nat)
  | p (r : Nat)
  deriving DecidableEq, Repr

/-- The slot of an operation, numbered as SLOT_VALID (R30). -/
def slotOf : SlotOp → Nat
  | .scalar _ f => if f.slotB then 1 else 0
  | .mover .tld _ | .mover .tldz _ | .mover .tcpy _ => 2
  | .mover _ _ => 3
  | .matrix _ _ => 4
  | .vector _ _ => 5
  | .special _ _ => 6
  | .sync _ _ => 7

/-- The registers an operation names as destinations (R34). -/
def destsOf : SlotOp → List Reg
  | .scalar o f =>
    match o with
    | .cmpEq | .cmpNe | .cmpLt | .cmpLtu | .cmpGe | .cmpGeu => [.p f.rd.toNat]
    | .adda | .mova => [.a f.rd.toNat]
    | .st8 | .st16 | .st32 | .st64 | .br | .brz | .brnz | .jr | .endOp => []
    | .call => [.s 63]
    | _ => [.s f.rd.toNat]
  | .mover _ _ => []
  | .matrix _ _ => []
  | .vector o f =>
    match o with
    | .vcmpEq | .vcmpNe | .vcmpLt | .vcmpLe => [.p f.pd.toNat]
    | .vredAdd | .vredMax | .vredMin => [.s f.ss.toNat]
    | .vst => []
    | _ => [.v f.vd.toNat]
  | .special o f => match o with
    | .tblCommit => []
    | _ => [.v f.vd.toNat]
  | .sync o f => match o with
    | .semRd | .claim => [.s f.rd.toNat]
    | _ => []

/-- The special registers of rdsr (R39). -/
def rdsrKnown (n : Nat) : Bool := decide (n ≤ 0x0E ∨ n = 0x10 ∨ n = 0x11)

/-- The operation is marked "VAR only" (R34, R39, R47, R51). -/
def varOnly : SlotOp → Bool
  | .scalar .rdsr f => f.immv.toNat % 256 == 0x10 || f.immv.toNat % 256 == 0x11
  | .mover .tstAddf _ => true
  | .sync .claim _ => true
  | _ => false

/-- The immediate form is offered (R42, R43, R49, R51). -/
def immForm : SlotOp → Bool
  | .scalar o _ =>
    match o with
    | .mova | .movs | .rdsr | .ld8 | .ld16 | .ld32 | .ld64 | .st8 | .st16 | .st32 | .st64
    | .br | .brz | .brnz | .brdec | .call | .jr | .endOp => false
    | .cmpEq | .cmpNe | .cmpLt | .cmpLtu | .cmpGe | .cmpGeu => false
    | _ => true
  | .vector o _ =>
    match o with
    | .vadd | .vsub | .vmul | .vmin | .vmax | .vshl | .vshr | .vsra => true
    | _ => false
  | .sync o _ =>
    match o with
    | .semSig | .semWait | .semTake | .claim => true
    | _ => false
  | _ => false

/-- OPC[7] of the operation. -/
def immOf : SlotOp → Bool
  | .scalar _ f => f.imm
  | .vector _ f => f.imm
  | .sync _ f => f.imm
  | _ => false

/-- The element type is an FP type. -/
def etFp (et : Nat) : Bool := decide (et < 3)

/-- An operation of one slot is legal in itself: register fields within their files, element types its row
admits, reserved fields zero (R34, R42). -/
def slotLegal (op : SlotOp) : Bool :=
  (!immOf op || immForm op) &&
  match op with
  | .scalar o f =>
    let rd := f.rd.toNat
    let r1 := f.rs1.toNat
    match o with
    | .cmpEq | .cmpNe | .cmpLt | .cmpLtu | .cmpGe | .cmpGeu => decide (rd < 16)
    | .adda => decide (rd < 32 ∧ r1 < 32)
    | .mova => decide (rd < 32)
    | .movs => decide (r1 < 32)
    | .rdsr => rdsrKnown (f.immv.toNat % 256)
    | .ld8 | .ld16 | .ld32 | .ld64 | .st8 | .st16 | .st32 | .st64 => !f.slotB && decide (r1 < 32)
    | .br | .brz | .brnz | .brdec | .call | .jr | .endOp => f.slotB
    | _ => true
  | .mover _ _ => true
  | .matrix _ _ => true
  | .vector o f =>
    let et := f.et.toNat
    decide (et < 6) &&
    match o with
    | .vand | .vor | .vxor | .vshl | .vshr | .vsra => !etFp et
    | .vcvt => decide (f.imm32.toNat % 8 < 6)
    | .vld | .vst => decide (f.ss.toNat < 32)
    | .rng => decide (f.ss.toNat ≤ 61)
    | _ => true
  | .special o f =>
    match o with
    | .tblCommit => decide (f.et.toNat < 6)
    | _ => etFp f.et.toNat
  | .sync _ f => f.imm || decide (f.imm32 = 0)

/-- A destination of the operation is also one of another operation of the bundle. -/
def conflicts (ops : List (SlotHdr × SlotOp)) (op : SlotOp) : Bool :=
  ops.any (fun o => slotOf o.2 != slotOf op && (destsOf o.2).any (fun r => (destsOf op).contains r))

/-- The slot reported for an illegal bundle (R34, R64): 0 for a condition of the header, else the lowest slot that
takes part in a condition. `raw`: slots whose bits are themselves bad. -/
def illegalSlot (hdrBad : Bool) (raw : List Nat) (var : Bool) (ops : List (SlotHdr × SlotOp)) : Option Nat :=
  if hdrBad then some 0
  else
    let bad := raw ++ (ops.filter (fun o => !slotLegal o.2 || conflicts ops o.2 || (varOnly o.2 && !var))).map (fun o => slotOf o.2)
    bad.min?

end Sys2Proof.Machine
end

