-- ==== Sys2Proof/Machine/Operands.lean ====
section
/-!
DEFINITION. Reading a bundle's 128 bytes (R30, R31, R32, R42) and the operands of its slots.
-/

namespace Sys2Proof.Machine

/-- The scalar operation codes (R43, R44, R45). -/
def scalarOpc : Nat → Option ScalarOp
  | 0x01 => some .add | 0x02 => some .sub | 0x03 => some .and | 0x04 => some .or | 0x05 => some .xor
  | 0x06 => some .shl | 0x07 => some .shr | 0x08 => some .sra | 0x09 => some .min | 0x0A => some .max
  | 0x0B => some .minu | 0x0C => some .maxu
  | 0x10 => some .mul | 0x11 => some .mulh | 0x12 => some .mulhu
  | 0x14 => some .div | 0x15 => some .divu | 0x16 => some .rem | 0x17 => some .remu
  | 0x18 => some .cmpEq | 0x19 => some .cmpNe | 0x1A => some .cmpLt | 0x1B => some .cmpLtu
  | 0x1C => some .cmpGe | 0x1D => some .cmpGeu
  | 0x20 => some .adda | 0x21 => some .mova | 0x22 => some .movs | 0x30 => some .rdsr
  | 0x28 => some .ld8 | 0x29 => some .ld16 | 0x2A => some .ld32 | 0x2B => some .ld64
  | 0x2C => some .st8 | 0x2D => some .st16 | 0x2E => some .st32 | 0x2F => some .st64
  | 0x40 => some .br | 0x42 => some .brz | 0x43 => some .brnz | 0x44 => some .brdec
  | 0x45 => some .call | 0x46 => some .jr | 0x47 => some .endOp
  | _ => none

/-- The vector operation codes (R49). -/
def vectorOpc : Nat → Option VectorOp
  | 0x01 => some .vadd | 0x02 => some .vsub | 0x03 => some .vmul | 0x04 => some .vmin | 0x05 => some .vmax
  | 0x06 => some .vfma | 0x07 => some .vabs | 0x08 => some .vneg
  | 0x09 => some .vand | 0x0A => some .vor | 0x0B => some .vxor | 0x0C => some .vshl | 0x0D => some .vshr
  | 0x0E => some .vsra
  | 0x10 => some .vcmpEq | 0x11 => some .vcmpNe | 0x12 => some .vcmpLt | 0x13 => some .vcmpLe
  | 0x14 => some .vsel | 0x15 => some .vcvt | 0x16 => some .vperm | 0x17 => some .vbcast
  | 0x18 => some .vredAdd | 0x19 => some .vredMax | 0x1A => some .vredMin
  | 0x1C => some .vld | 0x1D => some .vst | 0x1E => some .rng | 0x1F => some .vidx
  | _ => none

/-- The sync operation codes (R51). -/
def syncOpc : Nat → Option SyncOp
  | 1 => some .fence | 2 => some .mwait | 3 => some .semSig | 4 => some .semWait | 5 => some .semTake
  | 6 => some .semRd | 7 => some .claim | 8 => some .fbar
  | _ => none

/-- The bits of slot `n` within the bundle: low bit and width (R30). -/
def slotRange (n : Nat) : Nat × Nat :=
  ([(64, 96), (160, 96), (256, 160), (416, 160), (576, 128), (704, 128), (832, 96), (928, 96)] : List (Nat × Nat)).getD n (0, 0)

/-- A field of a slot as a bit vector. -/
def fld (n w lo : Nat) : BitVec n := BitVec.ofNat n (w >>> lo)

/-- A reserved field of slot `n` is not zero (R42). -/
def slotReserved (n w : Nat) : Bool :=
  decide (bits w 13 3 ≠ 0) ||
  match n with
  | 0 | 1 => decide (bits w 34 14 ≠ 0)
  | 2 | 3 => decide (bits w 50 14 ≠ 0 ∨ bits w 128 32 ≠ 0)
  | 4 => decide (bits w 66 30 ≠ 0)
  | 5 => decide (bits w 49 15 ≠ 0 ∨ bits w 96 32 ≠ 0)
  | 6 => decide (bits w 42 22 ≠ 0)
  | _ => decide (bits w 41 4 ≠ 0)

/-- The operation in slot `n` whose bits are `w` (R42), whatever its reserved fields hold: none where the code is invalid. -/
def decodeSlot (n w : Nat) : Option SlotOp :=
  let opc := bits w 0 8
  let low := bits w 0 7
  let imm := bit w 7
  match n with
  | 0 | 1 =>
    (scalarOpc low).map (fun o => .scalar o
      { slotB := n == 1, imm := imm, rd := fld 6 w 16, rs1 := fld 6 w 22, rs2 := fld 6 w 28, immv := fld 48 w 48 })
  | 2 | 3 =>
    let f : MoverF :=
      { desc := fld 6 w 16, asrc := fld 5 w 22, adst := fld 5 w 27, tag := fld 4 w 32, semen := bit w 36,
        semdie := bit w 37, sem := fld 12 w 38, offsSrc := fld 32 w 64, offsDst := fld 32 w 96 }
    match n, opc with
    | 2, 1 => some (.mover .tld f)
    | 2, 2 => some (.mover .tldz f)
    | 2, 3 => some (.mover .tcpy f)
    | 3, 1 => some (.mover .tst f)
    | 3, 2 => some (.mover .tstAddf f)
    | 3, 3 => some (.mover .tstAddi f)
    | _, _ => none
  | 4 =>
    let f : MatrixF :=
      { td := fld 4 w 16, aa := fld 5 w 20, ab := fld 5 w 25, kch := fld 12 w 30, fmta := fld 4 w 42,
        fmtb := fld 4 w 46, acc := bit w 50, trb := bit w 51, desc := fld 6 w 52, chain := fld 3 w 58,
        adst := fld 5 w 61, offs := fld 32 w 96 }
    match opc with
    | 1 => some (.matrix .mmul f)
    | 2 => some (.matrix .mdrain f)
    | 3 => some (.matrix .mfree f)
    | 4 => some (.matrix .lrun f)
    | _ => none
  | 5 =>
    (vectorOpc low).map (fun o => .vector o
      { imm := imm, vd := fld 5 w 16, vs1 := fld 5 w 21, vs2 := fld 5 w 26, vs3 := fld 5 w 31, ss := fld 6 w 36,
        et := fld 3 w 42, pd := fld 4 w 45, imm32 := fld 32 w 64 })
  | 6 =>
    let f : SpecialF :=
      { vd := fld 5 w 16, vs1 := fld 5 w 21, vs2 := fld 5 w 26, prog := fld 8 w 31, et := fld 3 w 39,
        imm32 := fld 32 w 64 }
    match opc with
    | 1 => some (.special .sfu f)
    | 2 => some (.special .sfuGate f)
    | 3 => some (.special .tblCommit f)
    | _ => none
  | _ =>
    (syncOpc low).map (fun o => .sync o
      { imm := imm, rd := fld 6 w 16, rs := fld 6 w 22, idx := fld 12 w 28, die := bit w 40,
        tagmask := fld 16 w 45, fmask := fld 3 w 61, imm32 := fld 32 w 64 })

/-- The slot header of a slot's bits, with VAR and CTX_HINT of the bundle. -/
def decodeHdr (w : Nat) (var : Bool) (hint : Nat) : SlotHdr :=
  { pred := fld 4 w 8, pneg := bit w 12, var := var, hint := BitVec.ofNat 2 hint }

/-- A bundle: its header word, VAR, CTX_HINT, its operations, and the slot of an illegal one. -/
structure Bundle where
  header : Nat
  var : Bool
  hint : Nat
  ops : List (SlotHdr × SlotOp)
  illegal : Option Nat
  deriving DecidableEq, Repr

/-- The bundle in 128 bytes (R30 to R34). -/
def decodeBundle (bs : List Byte) : Bundle :=
  let w := ofLe bs
  let hd := bits w 0 64
  let valid := bits hd 0 8
  let var := bit hd 8
  let hint := bits hd 9 2
  let hdrBad := decide (bits hd 12 4 ≠ 1 ∨ hint ≥ 2) || bit hd 11 || decide (bits hd 16 48 ≠ 0)
  let slots := (List.range 8).map (fun n => (n, bits w (slotRange n).1 (slotRange n).2))
  let dec := slots.map (fun (n, sw) => (n, sw, if bit valid n then decodeSlot n sw else none))
  let raw := dec.filterMap (fun (n, sw, o) => if bit valid n then (if o.isNone ∨ slotReserved n sw then some n else none)
    else (if sw ≠ 0 then some n else none))
  let ops := dec.filterMap (fun (_, sw, o) => o.map (fun o => (decodeHdr sw var hint, o)))
  { header := hd, var := var, hint := hint, ops := ops, illegal := illegalSlot hdrBad raw var ops }

/-- The header word of a bundle that holds this one slot (R31). -/
def oneHeader (h : SlotHdr) (op : SlotOp) : Nat := 2 ^ slotOf op + 2 ^ 8 * b2n h.var + 2 ^ 9 * h.hint.toNat + 2 ^ 12

/-- A bundle of one slot (log 6). -/
def oneBundle (h : SlotHdr) (op : SlotOp) : Bundle :=
  { header := oneHeader h op, var := h.var, hint := h.hint.toNat, ops := [(h, op)],
    illegal := illegalSlot (decide (h.hint.toNat ≥ 2)) [] h.var [(h, op)] }

/-- A 48-bit immediate sign-extended to 64 bits (R42). -/
def immExt (f : ScalarF) : W64 := f.immv.signExtend 64

/-- The second source of a scalar operation: sS2, or IMM in the immediate form. -/
def scalarSrc2 (f : ScalarF) (k : Ctx) : W64 := if f.imm then immExt f else k.getS f.rs2.toNat

/-- The count or threshold of a sync operation, as an unbounded number: IMM32, or sRS. -/
def syncCount (f : SyncF) (k : Ctx) : Nat := if f.imm then f.imm32.toNat else (k.getS f.rs.toNat).toNat

/-- An address register plus a signed 32-bit offset, modulo 2^48. -/
def offAddr (a : BitVec 48) (o : W32) : Nat := (a + o.signExtend 48).toNat

end Sys2Proof.Machine
end

