-- ==== Sys2Proof/Machine/Scalar.lean ====
section
/-!
DEFINITION. The scalar slots (R39, R43, R44, R45).
-/

namespace Sys2Proof.Machine

/-- Signed quotient rounded toward zero; by zero all ones; the most negative value by -1 is itself (R43). -/
def sdivR (a b : W64) : W64 := if b = 0 then BitVec.allOnes 64 else a.sdiv b
/-- Signed remainder with the sign of the dividend; by zero the dividend (R43). -/
def sremR (a b : W64) : W64 := if b = 0 then a else a.srem b
/-- Unsigned quotient; by zero all ones (R43). -/
def udivR (a b : W64) : W64 := if b = 0 then BitVec.allOnes 64 else a / b
/-- Unsigned remainder; by zero the dividend (R43). -/
def uremR (a b : W64) : W64 := if b = 0 then a else a % b

/-- The arithmetic operations that write a scalar register from two sources (R43). -/
def scalarAlu (o : ScalarOp) (a b : W64) : Option W64 :=
  match o with
  | .add => some (a + b)
  | .sub => some (a - b)
  | .and => some (a &&& b)
  | .or => some (a ||| b)
  | .xor => some (a ^^^ b)
  | .shl => some (a <<< (b.toNat % 64))
  | .shr => some (a >>> (b.toNat % 64))
  | .sra => some (a.sshiftRight (b.toNat % 64))
  | .min => some (if a.slt b then a else b)
  | .max => some (if a.slt b then b else a)
  | .minu => some (if a.ult b then a else b)
  | .maxu => some (if a.ult b then b else a)
  | .mul => some (a * b)
  | .mulh => some (((a.signExtend 128 * b.signExtend 128) >>> 64).setWidth 64)
  | .mulhu => some (((a.setWidth 128 * b.setWidth 128) >>> 64).setWidth 64)
  | .div => some (sdivR a b)
  | .divu => some (udivR a b)
  | .rem => some (sremR a b)
  | .remu => some (uremR a b)
  | _ => none

/-- The coordinates G0 to G3 of tile-thread `i` (R67). -/
def gridCoord (e : LaunchE) (i k : Nat) : Nat :=
  match k with
  | 0 => i % e.e0
  | 1 => i / e.e0 % e.e1
  | 2 => i / (e.e0 * e.e1) % e.e2
  | _ => i / (e.e0 * e.e1 * e.e2)

/-- Fabric time in nanoseconds (R322). -/
def State.ftime (s : State) : Nat := ((s.time / 8 : Nat) + s.ftAdj).toNat

/-- The special registers (R39). -/
def State.rdsr (s : State) (c x n : Nat) : W64 :=
  let k := s.ctx c x
  let i := match k.tt with
    | some t => t.index
    | none => 0
  let grid (f : LaunchE → Nat) : Nat := match s.launchOf c x with
    | some l => f l.e
    | none => 0
  let v : Nat :=
    match n with
    | 0x00 => c
    | 0x01 => x
    | 0x02 => i
    | 0x03 => grid (fun e => gridCoord e i 0)
    | 0x04 => grid (fun e => gridCoord e i 1)
    | 0x05 => grid (fun e => gridCoord e i 2)
    | 0x06 => grid (fun e => gridCoord e i 3)
    | 0x07 => grid (·.e0)
    | 0x08 => grid (·.e1)
    | 0x09 => grid (·.e2)
    | 0x0A => grid (·.e3)
    | 0x0B => match s.launchOf c x with
      | some l => l.tag
      | none => 0
    | 0x0C => s.partOf c x
    | 0x0D => k.spadBase
    | 0x0E => k.spadSize
    | 0x10 => (s.time - (s.core c).offLeft) / 5
    | 0x11 => s.ftime
    | _ => 0
  BitVec.ofNat 64 v

/-- Bytes of a scalar load or store (R44). -/
def accessWidth : ScalarOp → Option (Bool × Nat)
  | .ld8 => some (false, 1) | .ld16 => some (false, 2) | .ld32 => some (false, 4) | .ld64 => some (false, 8)
  | .st8 => some (true, 1) | .st16 => some (true, 2) | .st32 => some (true, 4) | .st64 => some (true, 8)
  | _ => none

/-- The device address of window offset `off` of a context, for an access of `n` bytes aligned to `al`: none where
it is not aligned or not wholly in the window (R44, R49, R58). -/
def windowAddr (c : Nat) (k : Ctx) (off : Int) (n al : Nat) : Option Nat :=
  if 0 ≤ off ∧ off % (al : Int) = 0 ∧ off + (n : Int) ≤ (k.spadSize : Int) then some (spadSlot c + k.spadBase + off.toNat) else none

/-- The address an ADDRESS fault names for a window offset: the device address of the access's first byte. R65 does not say for ld, st, vld
and vst whether the offset or the device address stands there (DESIGN CHOICE, log 45). -/
def offsetAddr (c : Nat) (k : Ctx) (off : Int) : Nat := unsigned 48 ((spadSlot c : Int) + k.spadBase + off)

/-- The window offset of a scalar load or store: aS1 + IMM (R44), as an unbounded sum. R44 does not say whether it wraps modulo 2^48 before
the check of the window: here it does not, so a sum outside raises ADDRESS (DESIGN CHOICE, log 45). -/
def scalarOff (k : Ctx) (f : ScalarF) : Int := ((k.getA f.rs1.toNat).toNat : Int) + f.immv.toInt

/-- PC + 128 IMM (R45). -/
def branchTarget (k : Ctx) (f : ScalarF) : BitVec 48 := k.pc + 128 * f.immv

/-- Where a branch operation goes, from the context as the bundle read it; none where it does not branch (R45). -/
def branchTo (k : Ctx) (o : ScalarOp) (f : ScalarF) : Option (BitVec 48) :=
  match o with
  | .br | .call => some (branchTarget k f)
  | .brz => if k.getS f.rs1.toNat = 0 then some (branchTarget k f) else none
  | .brnz => if k.getS f.rs1.toNat ≠ 0 then some (branchTarget k f) else none
  | .brdec => if k.getS f.rd.toNat - 1 ≠ 0 then some (branchTarget k f) else none
  | .jr => some ((k.getS f.rs1.toNat).setWidth 48)
  | _ => none

/-- What an executed scalar slot does to the registers and to the scratchpad (R43, R44, R45); the branch itself is
`branchTo`, the end of the tile-thread follows the bundle. `pre`: the state in which the bundle reads. -/
def scalarSlot (c x : Nat) (pre : State) (o : ScalarOp) (f : ScalarF) (s : State) : Except CoreFault State :=
  let k := pre.ctx c x
  let slot := b2n f.slotB
  match scalarAlu o (k.getS f.rs1.toNat) (scalarSrc2 f k) with
  | some v => .ok (s.updCtx c x (fun t => t.setS f.rd.toNat v))
  | none =>
    match scalarCmp o (k.getS f.rs1.toNat) (k.getS f.rs2.toNat) with
    | some b => .ok (s.updCtx c x (fun t => t.setP f.rd.toNat (boolPred b)))
    | none =>
      match accessWidth o with
      | some (st, n) =>
        match windowAddr c k (scalarOff k f) n n with
        | none => .error (faultAddress slot (offsetAddr c k (scalarOff k f)))
        | some a =>
          if st then .ok (s.write a (toLe n (k.getS f.rs2.toNat).toNat))
          else .ok (s.updCtx c x (fun t => t.setS f.rd.toNat (BitVec.ofNat 64 (pre.seenLe a n))))
      | none =>
        match o with
        | .adda => .ok (s.updCtx c x (fun t => t.setA f.rd.toNat (k.getA f.rs1.toNat + (scalarSrc2 f k).setWidth 48)))
        | .mova => .ok (s.updCtx c x (fun t => t.setA f.rd.toNat ((k.getS f.rs1.toNat).setWidth 48)))
        | .movs => .ok (s.updCtx c x (fun t => t.setS f.rd.toNat ((k.getA f.rs1.toNat).setWidth 64)))
        | .rdsr => .ok (s.updCtx c x (fun t => t.setS f.rd.toNat (pre.rdsr c x (f.immv.toNat % 256))))
        | .brdec => .ok (s.updCtx c x (fun t => t.setS f.rd.toNat (k.getS f.rd.toNat - 1)))
        | .call => .ok (s.updCtx c x (fun t => t.setS 63 ((k.pc + 128).setWidth 64)))
        | .jr =>
          if (k.getS f.rs1.toNat).toNat % 128 = 0 then .ok s
          else .error (faultAddress slot ((k.getS f.rs1.toNat).toNat % 2 ^ 48))
        | _ => .ok s

end Sys2Proof.Machine
end

