-- ==== Sys2Proof/Machine/Vector.lean ====
section
/-!
DEFINITION. The vector slot (R49) and the random generator of rng (R350).
-/

namespace Sys2Proof.Machine

/-- Bits of an element type (R42). -/
def etBits : Nat → Nat
  | 0 => 32 | 1 => 16 | 2 => 16 | 3 => 32 | 4 => 16 | _ => 8

/-- An FP element's value (R49, R73). -/
def etVal (et : Nat) (w : W32) : Fp :=
  match et with
  | 0 => Fp.of32 w.toNat
  | 1 => Fp.ofBf16 (w.toNat % 2 ^ 16)
  | _ => Fp.of16 (w.toNat % 2 ^ 16)

/-- A value rounded once to an FP element type (R49, R91). Above a 16-bit element the lane's bits become 0: R36 and R49 only say that the low
bits are used (DESIGN CHOICE, log 45). -/
def etRound (et : Nat) (x : Fp) : W32 :=
  BitVec.ofNat 32 (match et with
    | 0 => Fp.to32 x
    | 1 => Fp.toBf16 x
    | _ => Fp.to16 x)

/-- An integer element as a number. -/
def etInt (et : Nat) (w : W32) : Int := signed (etBits et) w.toNat

/-- An integer wrapped to an element type. Above a 16-bit or 8-bit element the lane's bits become 0 (DESIGN CHOICE, log 45). -/
def etWrap (et : Nat) (v : Int) : W32 := BitVec.ofNat 32 (unsigned (etBits et) v)

/-- The lane arithmetic of two sources (R49). -/
def lane2 (o : VectorOp) (et : Nat) (a b : W32) : W32 :=
  if etFp et then
    let x := etVal et a
    let y := etVal et b
    match o with
    | .vadd => etRound et (Fp.add x y)
    | .vsub => etRound et (Fp.sub x y)
    | .vmul => etRound et (Fp.mul x y)
    | .vmin => etRound et (Fp.min x y)
    | .vmax => etRound et (Fp.max x y)
    | .vabs => etRound et (Fp.abs x)
    | .vneg => etRound et (Fp.neg x)
    | _ => a
  else
    let x := etInt et a
    let y := etInt et b
    let n := etBits et
    let sh := b.toNat % n
    match o with
    | .vadd => etWrap et (x + y)
    | .vsub => etWrap et (x - y)
    | .vmul => etWrap et (x * y)
    | .vmin => etWrap et (min x y)
    | .vmax => etWrap et (max x y)
    | .vabs => etWrap et (x.natAbs : Int)
    | .vneg => etWrap et (-x)
    | .vand => etWrap et ((a &&& b).toNat : Int)
    | .vor => etWrap et ((a ||| b).toNat : Int)
    | .vxor => etWrap et ((a ^^^ b).toNat : Int)
    | .vshl => etWrap et (x * (2 ^ sh : Nat))
    | .vshr => etWrap et ((a.toNat % 2 ^ n) / 2 ^ sh : Nat)
    | .vsra => etWrap et (x / (2 ^ sh : Nat))
    | _ => a

/-- The fused multiply-add of a lane: one rounding for FP types (R49). -/
def laneFma (et : Nat) (a b c : W32) : W32 :=
  if etFp et then etRound et (Fp.add (Fp.mul (etVal et a) (etVal et b)) (etVal et c))
  else etWrap et (etInt et a * etInt et b + etInt et c)

/-- A lane comparison (R49). -/
def laneCmp (o : VectorOp) (et : Nat) (a b : W32) : Option Bool :=
  let eq := if etFp et then Fp.eq (etVal et a) (etVal et b) else etInt et a == etInt et b
  let lt := if etFp et then Fp.lt (etVal et a) (etVal et b) else decide (etInt et a < etInt et b)
  match o with
  | .vcmpEq => some eq
  | .vcmpNe => some (!eq)
  | .vcmpLt => some lt
  | .vcmpLe => some (lt || eq)
  | _ => none

/-- The low bits of a lane, as an element type holds them. -/
def etKeep (et : Nat) (a : W32) : W32 := BitVec.ofNat 32 (a.toNat % 2 ^ etBits et)

/-- R92 lists the conversion from `et` to `dt`; from a type to itself vcvt leaves the element as it is (DESIGN CHOICE, log 45). -/
def cvtListed (et dt : Nat) : Bool :=
  et == dt || (et < 4) || (et == 4 && dt == 0) || (et == 5 && dt < 3)

/-- The element that vcvt leaves in lane `i` for a pair of types that R92 does not list: a free value (log 10). -/
def freeLane (occ dt i : Nat) : W32 :=
  BitVec.ofNat 32 (ofLe ((List.range 4).map (fun j => Config.freeByte occ (4 * i + j))) % 2 ^ etBits dt)

/-- vcvt of a lane from `et` to `dt` under R92: integers saturate. -/
def laneCvt (et dt : Nat) (a : W32) : W32 :=
  let x := if etFp et then etVal et a else Fp.ofInt (etInt et a)
  if etFp dt then etRound dt x
  else BitVec.ofNat 32 (unsigned (etBits dt) (Fp.toInt (etBits dt) x))

/-- The lanes below 256 whose predicate bit is set. -/
def activeLanes (q : BitVec 256) : List Nat := (List.range 256).filter (fun i => q.getLsbD i)

/-- The reductions (R49): the 64-bit scalar result. -/
def vred (o : VectorOp) (et : Nat) (q : BitVec 256) (v : Nat → W32) : W64 :=
  let act := activeLanes q
  if etFp et then
    let r : Fp :=
      match o with
      | .vredAdd => Fp.tree32 8 ((List.range 256).map (fun i => if q.getLsbD i then etVal et (v i) else Fp.zero))
      | .vredMax => act.foldl (fun a i => Fp.max a (etVal et (v i))) (.inf true)
      | _ => act.foldl (fun a i => Fp.min a (etVal et (v i))) (.inf false)
    BitVec.ofNat 64 (Fp.to32 r)
  else
    let n := etBits et
    let r : Int :=
      match o with
      | .vredAdd => act.foldl (fun a i => a + etInt et (v i)) 0
      | .vredMax => act.foldl (fun a i => max a (etInt et (v i))) (-(2 ^ (n - 1) : Nat))
      | _ => act.foldl (fun a i => min a (etInt et (v i))) ((2 ^ (n - 1) : Nat) - 1)
    BitVec.ofNat 64 (unsigned 64 r)

/-- A 32-bit rotation left (R350). -/
def rotl32 (x n : Nat) : Nat := (x <<< n ||| x >>> (32 - n)) % 2 ^ 32

/-- One round of the counter-based generator (R350). -/
def rngRound (s : (Nat × Nat × Nat × Nat) × (Nat × Nat)) : (Nat × Nat × Nat × Nat) × (Nat × Nat) :=
  let ((c0, c1, c2, c3), (k0, k1)) := s
  let t0 := (c0 + c2 + k0) % 2 ^ 32
  let t1 := c1 ^^^ rotl32 t0 13
  let t2 := (c3 + t1 + k1) % 2 ^ 32
  let t3 := c2 ^^^ rotl32 t2 7
  ((t1, t2, t3, t0), ((k0 + 0x6A5D39E1) % 2 ^ 32, (k1 + 0xC2B84F17) % 2 ^ 32))

/-- The four output words of the generator at counter words c0 to c3 under key words k0, k1 (R350). -/
def rngWords (c0 c1 c2 c3 k0 k1 : Nat) : List Nat :=
  let r := (Nat.repeat rngRound 10 ((c0, c1, c2, c3), (k0, k1))).1
  [r.1, r.2.1, r.2.2.1, r.2.2.2]

/-- Lane `i` of rng from the scalars sSS, s(SS+1), s(SS+2) (R49). -/
def rngLane (ctr hi key : Nat) (i : Nat) : W32 :=
  let c := (ctr + i / 4) % 2 ^ 64
  BitVec.ofNat 32 ((rngWords (c % 2 ^ 32) (c / 2 ^ 32) (hi % 2 ^ 32) (hi / 2 ^ 32) (key % 2 ^ 32) (key / 2 ^ 32)).getD (i % 4) 0)

/-- A vector register written where q is 1 (R33). -/
def Ctx.setVq (k old : Ctx) (q : BitVec 256) (r : Nat) (f : Nat → W32) : Ctx :=
  k.setV r (fun i => if q.getLsbD i then f i else old.getV r i)

/-- A predicate register written where q is 1 (R33). -/
def Ctx.setPq (k old : Ctx) (q : BitVec 256) (r : Nat) (f : Nat → Bool) : Ctx :=
  let bitsOf := (List.range 256).foldr (fun i a => 2 * a + b2n (if q.getLsbD i then f i else (old.getP r).getLsbD i)) 0
  k.setP r (BitVec.ofNat 256 bitsOf)

/-- The window offset of vld and vst: aSS + IMM32 (R49), as an unbounded sum (log 45). -/
def vectorOff (k : Ctx) (f : VectorF) : Int := ((k.getA f.ss.toNat).toNat : Int) + f.imm32.toInt

/-- The vector slot (R33, R49). -/
def vectorSlot (c x : Nat) (pre : State) (h : SlotHdr) (o : VectorOp) (f : VectorF) (s : State) : Except CoreFault State :=
  let k := pre.ctx c x
  let q := k.q h
  let et := f.et.toNat
  let n := etBits et / 8
  let a i := k.getV f.vs1.toNat i
  let b i := if f.imm then f.imm32 else k.getV f.vs2.toNat i
  let put (g : Nat → W32) : Except CoreFault State := .ok (s.updCtx c x (fun t => t.setVq k q f.vd.toNat g))
  match o with
  | .vadd | .vsub | .vmul | .vmin | .vmax | .vabs | .vneg | .vand | .vor | .vxor | .vshl | .vshr | .vsra =>
    put (fun i => lane2 o et (a i) (b i))
  | .vfma => put (fun i => laneFma et (a i) (k.getV f.vs2.toNat i) (k.getV f.vs3.toNat i))
  | .vcmpEq | .vcmpNe | .vcmpLt | .vcmpLe =>
    .ok (s.updCtx c x (fun t => t.setPq k q f.pd.toNat (fun i => (laneCmp o et (a i) (b i)).getD false)))
  | .vsel => put (fun i => if (k.getP f.pd.toNat).getLsbD i then a i else k.getV f.vs2.toNat i)
  | .vcvt =>
    let dt := f.imm32.toNat % 8
    if et = dt then put (fun i => etKeep et (a i))
    else if cvtListed et dt then put (fun i => laneCvt et dt (a i))
    else .ok (s.updCtx c x (fun t => t.setVq k q f.vd.toNat (fun i => freeLane pre.fresh dt i))).bump
  | .vperm => put (fun i => a ((k.getV f.vs2.toNat i).toNat % 256))
  | .vbcast => put (fun _ => BitVec.ofNat 32 ((k.getS f.ss.toNat).toNat % 2 ^ etBits et))
  | .vredAdd | .vredMax | .vredMin => .ok (s.updCtx c x (fun t => t.setS f.ss.toNat (vred o et q a)))
  | .vld =>
    match windowAddr c k (vectorOff k f) (256 * n) 64 with
    | none => .error (faultAddress 5 (offsetAddr c k (vectorOff k f)))
    | some ad => put (fun i => BitVec.ofNat 32 (pre.seenLe (ad + n * i) n))
  | .vst =>
    match windowAddr c k (vectorOff k f) (256 * n) 64 with
    | none => .error (faultAddress 5 (offsetAddr c k (vectorOff k f)))
    | some ad => .ok ((activeLanes q).foldl (fun t i => t.write (ad + n * i) (toLe n (a i).toNat)) s)
  | .rng =>
    let ss := f.ss.toNat
    put (rngLane (k.getS ss).toNat (k.getS (ss + 1)).toNat (k.getS (ss + 2)).toNat)
  | .vidx =>
    let v (i : Nat) : Int := (i : Int) + f.imm32.toInt
    put (fun i => if etFp et then etRound et (Fp.ofInt (v i)) else etWrap et (v i))

end Sys2Proof.Machine
end

