-- ==== Sys2Proof/Machine/Sfu.lean ====
section
/-!
DEFINITION. Special-function micro-programs (R160 to R168), the special slot (R50), commits of tables and their
checks (R178 to R181).
-/

namespace Sys2Proof.Machine

/-! ### Records, sub-tables and segments -/

/-- Where program record `n` of bank `b` of core `c` lies (R174). -/
def recordAddr (c b n : Nat) : Nat := tableWindow c + 0x8000 * b + 128 * n
/-- Where segment `i` of bank `b` lies. -/
def segAddr (c b i : Nat) : Nat := tableWindow c + 0x10000 + 0x10000 * b + 32 * i

/-- The 64-bit header word of a record (R163). -/
def recHeader (r : List Byte) : Nat := wordAt r 0
/-- Sub-table descriptor `k` of a record (R164). -/
def recSub (r : List Byte) (k : Nat) : Nat := wordAt r (8 + 8 * k)
/-- The word of constant `k` of a record (R163). -/
def recKw (r : List Byte) (k : Nat) : Nat := ofLe ((r.drop (0x28 + 4 * k)).take 4)
/-- Constant `k` of a record. -/
def recK (r : List Byte) (k : Nat) : Fp := Fp.of32 (recKw r k)
/-- Step word `j` of a record (R166). -/
def recStep (r : List Byte) (j : Nat) : Nat := ofLe ((r.drop (0x40 + 4 * j)).take 4)
/-- The number of steps. -/
def recNstep (r : List Byte) : Nat := bits (recHeader r) 8 5

/-- The working state of a lane: the registers w0 to w7 as 32-bit words and the latched segment (R162). -/
structure Lane where
  w : List Nat
  seg : List Nat
  sub : Nat
  deriving DecidableEq, Repr

/-- A register as FP32. -/
def Lane.fp (l : Lane) (i : Nat) : Fp := Fp.of32 (l.w.getD i 0)
/-- A register as INT32. -/
def Lane.int (l : Lane) (i : Nat) : Int := signed 32 (l.w.getD i 0)
/-- A register written. -/
def Lane.put (l : Lane) (i v : Nat) : Lane := { l with w := l.w.set i (v % 2 ^ 32) }
/-- A register written with an FP value rounded once to FP32. -/
def Lane.putFp (l : Lane) (i : Nat) (x : Fp) : Lane := l.put i (Fp.to32 x)

/-- An integer clamped to the range of RRED's n (R166). -/
def clampN (n : Int) : Int := max (-(2 ^ 30)) (min (2 ^ 30) n)

/-- The magnitude of a value as m * 2^n with m in [1, 2) (RRED EXPM): zero gives +0.0 and 0. -/
def expm (x : Fp) : Fp × Int :=
  match x with
  | .fin _ m e => if m = 0 then (.zero, 0) else (.fin false m (-(m.log2 : Int)), e + m.log2)
  | .inf _ => (.inf false, 0)
  | .nan => (.nan, 0)

/-- RRED (R166): f and n. -/
def rred (mode : Nat) (x k0 k1 k2 : Fp) : Fp × Int :=
  let cody (n : Int) : Fp :=
    let y := Fp.rne32 (Fp.sub x (Fp.mul (Fp.ofInt n) k1))
    Fp.rne32 (Fp.sub y (Fp.mul (Fp.ofInt n) k2))
  match mode with
  | 0 =>
    let n := clampN (Fp.floor x)
    (Fp.rne32 (Fp.sub x (Fp.ofInt n)), n)
  | 1 =>
    let n := clampN (Fp.floor (Fp.mul x k0))
    (cody n, n)
  | 2 =>
    let n := clampN (Fp.rneInt (Fp.mul x k0))
    (cody n, n)
  | 3 => expm x
  | 4 =>
    let (m, n) := expm x
    if Fp.le k0 m then (Fp.scale2 m (-1), n + 1) else (m, n)
  | _ =>
    let (m, n) := expm x
    if n % 2 ≠ 0 then (Fp.scale2 m 1, n - 1) else (m, n)

/-- SIDX (R166): the segment index and its lower end. -/
def sidx (sub : Nat) (x : Fp) : Int × Fp :=
  let lo := Fp.of32 (bits sub 0 32)
  let nseg : Int := bits sub 43 8
  let we := signed 8 (sub >>> 56)
  let clamp (i : Int) : Int := max 0 (min nseg i)
  if bit sub 51 then
    let b : Nat := 2 ^ bits sub 52 3
    let (i, _) : Int × Bool :=
      match expm x with
      | (.fin _ m e', e) =>
        if m = 0 ∨ e < we then (0, true)
        else ((e - we) * b + Fp.floor (Fp.scale2 (Fp.sub (.fin false m e') (Fp.ofInt 1)) (bits sub 52 3)), false)
      | (.inf _, _) => (nseg, false)
      | (.nan, _) => (0, true)
    let j := clamp i
    (j, Fp.scale2 (Fp.add (Fp.ofInt 1) (Fp.scale2 (Fp.ofInt (j % b)) (-(bits sub 52 3 : Int)))) (we + j / b))
  else
    let i := match x with
      | .inf s => if s then 0 else nseg
      | .nan => 0
      | x => Fp.floor (Fp.scale2 (Fp.sub x lo) (-we))
    let j := clamp i
    (j, Fp.add lo (Fp.scale2 (Fp.ofInt j) we))

/-- The seam clamp (R167). -/
def seamClamp (ylo yhi y : Fp) : Fp :=
  let lo := if Fp.lt yhi ylo then yhi else ylo
  let hi := if Fp.lt yhi ylo then ylo else yhi
  if Fp.isNan y then y else if Fp.lt y lo then lo else if Fp.lt hi y then hi else y

/-- HORN (R166): the polynomial of degree `d` over the latched segment. -/
def horn (seg : List Nat) (log : Bool) (d : Nat) (a b : Fp) : Fp :=
  let co (j : Nat) : Fp := Fp.of32 (seg.getD j 0)
  let u := Fp.rne32 (Fp.sub (if log then Fp.abs a else a) b)
  let y := (List.range d).foldl (fun y j => Fp.rne32 (Fp.add (Fp.mul y u) (co (d - 1 - j)))) (co d)
  seamClamp (Fp.of32 (seg.getD 6 0)) (Fp.of32 (seg.getD 7 0)) y

/-- One step of a micro-program on one lane (R166). `seg`: reads the words of a segment of the program's bank. -/
def sfuStep (rec : List Byte) (seg : Nat → List Nat) (xw : Nat) (l : Lane) (st : Nat) : Lane :=
  let mode := bits st 4 4
  let d := bits st 8 3
  let a := bits st 11 3
  let b := bits st 14 3
  let cc := bits st 17 3
  let par := bits st 20 3
  let x := Fp.of32 xw
  match bits st 0 4 with
  | 1 =>
    let (f, n) := rred mode (l.fp a) (recK rec cc) (recK rec (cc + 1)) (recK rec (cc + 2))
    (l.putFp d f).put (d + 1) (unsigned 32 (clampN n))
  | 2 =>
    let (i, sv) := sidx (recSub rec par) (l.fp a)
    (l.put d (unsigned 32 i)).putFp (d + 1) sv
  | 3 => { l with seg := seg (bits (recSub rec par) 32 11 + l.w.getD a 0), sub := par }
  | 4 => l.putFp d (horn l.seg (bit (recSub rec l.sub) 51) par (l.fp a) (l.fp b))
  | 5 =>
    let y := l.fp a
    let n := l.int b
    match mode with
    | 0 => l.putFp d (Fp.scale2 y n)
    | 1 => l.putFp d (Fp.scale2 y (-n))
    | 2 => l.put d (Fp.to32 (Fp.scaleHalf32 y n))
    | 3 => l.put d (Fp.to32 (Fp.scaleHalf32 y (-n)))
    | 4 => l.putFp d (Fp.add y (Fp.ofInt n))
    | 5 => l.putFp d (Fp.add y (Fp.mul (Fp.ofInt n) (recK rec cc)))
    | 6 => l.putFp d (if Fp.lt Fp.zero x then Fp.sub (Fp.ofInt 1) y else y)
    | _ => l.putFp d (if bit xw 31 then Fp.neg y else y)
  | 6 =>
    let p := l.fp a
    let q := l.fp b
    match mode with
    | 0 => l.putFp d (Fp.add p q)
    | 1 => l.putFp d (Fp.sub p q)
    | 2 => l.putFp d (Fp.mul p q)
    | 3 => l.putFp d (Fp.add (Fp.mul p q) (l.fp cc))
    | 4 => l.putFp d (Fp.mul p (recK rec cc))
    | 5 => l.putFp d (Fp.add p (recK rec cc))
    | 6 => l.putFp d (Fp.abs p)
    | _ => l.putFp d (Fp.neg p)
  | _ =>
    let p := l.fp a
    let lt := Fp.lt p (recK rec cc)
    let ge := Fp.le (recK rec cc) p
    match mode with
    | 0 => match (l.int cc) % 4 with
      | 0 => l.put d (l.w.getD a 0)
      | 1 => l.put d (l.w.getD b 0)
      | 2 => l.putFp d (Fp.neg p)
      | _ => l.putFp d (Fp.neg (l.fp b))
    | 1 => match (l.int cc) % 4 with
      | 0 => l.put d (l.w.getD b 0)
      | 1 => l.putFp d (Fp.neg p)
      | 2 => l.putFp d (Fp.neg (l.fp b))
      | _ => l.put d (l.w.getD a 0)
    | 2 => if lt then l.put d (l.w.getD b 0) else l
    | 3 => if ge then l.put d (l.w.getD b 0) else l
    | 4 => if lt then l.put d (recKw rec (cc + 1)) else l
    | _ => if ge then l.put d (recKw rec (cc + 1)) else l

/-- The value of a special-value code (R161); none where the steps determine it. -/
def specialValue (code xw : Nat) : Option Nat :=
  match code with
  | 1 => some 0
  | 2 => some 0x80000000
  | 3 => some 0x3F800000
  | 4 => some 0xBF800000
  | 5 => some 0x7F800000
  | 6 => some 0xFF800000
  | 7 => some 0x7FC00000
  | 8 => some xw
  | _ => none

/-- What a record's special-value fields make of the FP32 word X (R161); none where the steps determine the result. -/
def recSpecial (hd xw : Nat) : Option Nat :=
  match Fp.of32 xw with
  | .nan => some 0x7FC00000
  | .inf s => specialValue (bits hd (if s then 16 else 20) 4) xw
  | .fin s m _ =>
    if m = 0 then specialValue (bits hd (if s then 24 else 28) 4) xw
    else if s ∧ bit hd 2 then some 0x7FC00000 else none

/-- A program's result r on the FP32 word X (R161, R162). -/
def sfuEval (rec : List Byte) (seg : Nat → List Nat) (xw : Nat) : Nat :=
  match recSpecial (recHeader rec) xw with
  | some r => r
  | none =>
    let l0 : Lane := { w := [xw, 0, 0, 0, 0, 0, 0, 0], seg := [], sub := 0 }
    let l := ((List.range (recNstep rec)).map (recStep rec)).foldl (sfuStep rec seg xw) l0
    Fp.to32 (Fp.of32 (l.w.getD 0 0))

/-! ### The factory programs (R169 to R173) -/

/-- The bytes of factory record `n`. -/
def factoryRec (n : Nat) : List Byte := (List.range 128).map (factoryRecord n)

/-- The words of factory segment `i`. -/
def factorySeg (i : Nat) : List Nat :=
  (List.range 8).map (fun k => ofLe ((List.range 4).map (fun b => factorySegment (32 * i + 4 * k + b))))

/-- The predicate holds for every number below `n`. -/
def allBelow : Nat → (Nat → Bool) → Bool
  | 0, _ => true
  | n + 1, f => f n && allBelow n f

/-- The result that the steps of factory program `n` give for X keeps the bounds of R171 and R353. -/
def factoryFits (n xw : Nat) : Bool :=
  let r := sfuEval (factoryRec n) factorySeg xw
  match recSpecial (recHeader (factoryRec n)) xw, exactWord n xw with
  | some _, _ => true
  | none, some w => r == w
  | none, none => factoryBound n (Fp.of32 xw) (exactFn n (Fp.of32 xw)) (Fp.of32 r)

/-- Programs that are non-decreasing over all inputs (R172). -/
def factoryUp (n : Nat) : Bool := [1, 2, 3, 4, 7, 8, 9, 10, 14].contains n
/-- Programs that are non-increasing on each side of zero (R172). -/
def factoryDown (n : Nat) : Bool := n == 5 || n == 6

/-- The results at the magnitudes `w` and `w + 1` of either sign, and at the two zeros, stand in the order of R172. -/
def factoryMono (n w : Nat) : Bool :=
  let f (x : Nat) : Fp := Fp.of32 (sfuEval (factoryRec n) factorySeg x)
  let ord (a b : Nat) : Bool := !Fp.lt (f b) (f a)
  (!factoryUp n || (ord w (w + 1) && ord (0x80000001 + w) (0x80000000 + w) && ord 0x80000000 0)) &&
  (!factoryDown n || (ord (w + 1) w && ord (0x80000000 + w) (0x80000001 + w)))

/-- The free bytes of factory program `n` keep what R171 and R172 state of it, for every FP32 input. -/
def factoryOk (n : Nat) : Bool := allBelow (2 ^ 32) (factoryFits n) && allBelow 0x7F800000 (factoryMono n)

/-- The result of factory program `n` on the FP32 word X: that of its steps. The free bytes among its record and segments are those of a
part that keeps R171 and R172; for any others the result is the exact one rounded, which keeps them too (log 44). -/
def factoryRun (n xw : Nat) : Nat :=
  if factoryOk n then sfuEval (factoryRec n) factorySeg xw
  else
    match recSpecial (recHeader (factoryRec n)) xw, exactWord n xw with
    | some r, _ => r
    | none, some w => w
    | none, none => Fp.to32 (exactFn n (Fp.of32 xw))

/-- Bank `b` of core `c` still holds factory record `n` and every factory segment as the firmware wrote them (R169, R177). -/
def State.holdsFactory (s : State) (c b n : Nat) : Bool :=
  decide (1 ≤ n ∧ n ≤ 17) && !s.mem.any (fun e =>
    decide (recordAddr c b n ≤ e.1 ∧ e.1 < recordAddr c b n + 128) || decide (segAddr c b 0 ≤ e.1 ∧ e.1 < segAddr c b 1528))

/-- Program `n` of core `c`'s active bank on an FP32 word, as an FP32 word. -/
def State.sfuRun (s : State) (c n xw : Nat) : Nat :=
  let b := (s.core c).bank n
  if s.holdsFactory c b n then factoryRun n xw
  else
    sfuEval (s.bytes (recordAddr c b n) 128)
      (fun i => (List.range 8).map (fun k => s.le (segAddr c b (i % 2048) + 4 * k) 4)) xw

/-- Program `n` exists in its active bank (R160). -/
def State.sfuValid (s : State) (c n : Nat) : Bool :=
  decide (n ≠ 0) && bit (s.byte (recordAddr c ((s.core c).bank n) n)).toNat 0

/-! ### Commits (R180, R181) -/

/-- The latency of one step (R166). -/
def stepLatency (st : Nat) : Nat :=
  match bits st 0 4 with
  | 1 => 3 | 2 => 1 | 3 => 3 | 4 => 2 + 2 * bits st 20 3 | 5 => 2 | 6 => 3 | _ => 1

/-- One step of a record is well formed, but for HORN's place after a TRD (R180). -/
def stepOk (rec : List Byte) (st : Nat) : Bool :=
  let mode := bits st 4 4
  let d := bits st 8 3
  let cc := bits st 17 3
  let par := bits st 20 3
  decide (bits st 23 9 = 0) &&
  match bits st 0 4 with
  | 1 => decide (mode ≤ 5 ∧ d ≤ 6) && (if mode = 1 ∨ mode = 2 then decide (cc ≤ 3) else if mode = 4 then decide (cc ≤ 5) else true)
  | 2 => decide (mode = 0 ∧ d ≤ 6 ∧ par ≤ 3) && bit (recSub rec par) 55
  | 3 => decide (mode = 0 ∧ par ≤ 3) && bit (recSub rec par) 55
  | 4 => decide (mode = 0 ∧ par ≤ 5)
  | 5 => decide (mode ≤ 7) && (if mode = 5 then decide (cc ≤ 5) else true)
  | 6 => decide (mode ≤ 7) && (if mode = 4 ∨ mode = 5 then decide (cc ≤ 5) else true)
  | 7 => decide (mode ≤ 5) && (if mode = 2 ∨ mode = 3 then decide (cc ≤ 5) else if mode ≥ 4 then decide (cc ≤ 4) else true)
  | _ => false

/-- Every HORN step comes after a TRD step (R180). -/
def hornAfterTrd : Bool → List Nat → Bool
  | _, [] => true
  | seen, st :: t =>
    if bits st 0 4 = 4 then seen && hornAfterTrd seen t
    else hornAfterTrd (seen || bits st 0 4 == 3) t

/-- The segments a record names: first and last of each sub-table that exists (R164). -/
def recSegs (rec : List Byte) : List (Nat × Nat) :=
  (List.range 4).filterMap (fun k =>
    let w := recSub rec k
    if bit w 55 then some (bits w 32 11, bits w 32 11 + bits w 43 8) else none)

/-- The check of a program record and its segments (R180). `seg`: the eight words of a segment of its bank. -/
def recordOk (rec : List Byte) (seg : Nat → List Nat) : Bool :=
  let hd := recHeader rec
  let n := recNstep rec
  let steps := (List.range n).map (recStep rec)
  let spOk (lo : Nat) : Bool := decide (bits hd lo 4 ≤ 8)
  let fin (w : Nat) : Bool := Fp.isFin (Fp.of32 w)
  bit hd 0 && decide (bits hd 3 5 = 0 ∧ bits hd 13 3 = 0 ∧ bits hd 32 32 = 0) && decide (1 ≤ n ∧ n ≤ 16) &&
  spOk 16 && spOk 20 && spOk 24 && spOk 28 &&
  steps.all (stepOk rec) && (List.range 16).all (fun j => decide (j < n) || decide (recStep rec j = 0)) &&
  hornAfterTrd false steps &&
  decide (4 + (steps.map stepLatency).foldl (· + ·) 0 ≤ 48) &&
  (recSegs rec).all (fun (a, b) => decide (b ≤ 2047) &&
    (List.range (b + 1 - a)).all (fun i => fin ((seg (a + i)).getD 6 0) && fin ((seg (a + i)).getD 7 0)) &&
    (!bit hd 1 || (List.range (b - a)).all (fun i => (seg (a + i)).getD 7 0 == (seg (a + i + 1)).getD 6 0)))

/-- The check of the inactive bank's record of table `no` on core `c`; code tables have none (R180). -/
def State.commitOk (s : State) (c no : Nat) : Bool :=
  if no < 256 then
    let b := 1 - (s.core c).bank no
    recordOk (s.bytes (recordAddr c b no) 128)
      (fun i => (List.range 8).map (fun k => s.le (segAddr c b (i % 2048) + 4 * k) 4))
  else true

/-- The table identifier of a number (R174). -/
def tableId (no : Nat) : Nat := if no < 256 then no else 0x8000 + (no - 256)

/-- The identifier lies in one of the ranges of R174. -/
def tidOk (t : Nat) : Bool := decide (1 ≤ t ∧ t ≤ 0xFF) || isW2tid t

/-- TABLE_BUSY with the DETAIL of R179. -/
def faultTable (slot tid bank : Nat) (pend cmt : Bool) (a : Nat) : CoreFault :=
  { fault1 7 slot (tid + 2 ^ 16 * bank + 2 ^ 17 * b2n pend + 2 ^ 18 * b2n cmt) with d20 := a }

/-- A table becomes pending (R180). -/
def State.startCommit (s : State) (c : Nat) (x : Option Nat) (th : Thread) (pc : BitVec 48) (hd no : Nat) : State :=
  s.updCore c (fun k =>
    { k with pending := k.pending ||| (1 <<< no), nextSeq := k.nextSeq + 1,
             commits := k.commits ++ [{ table := no, passed := decide (256 ≤ no), ctx := x, by_ := th, pc := pc, header := hd, seq := k.nextSeq }] })

/-! ### The special slot (R50) -/

/-- The special slot (R33, R160, R180). `hd`: the bundle's header word, for ILLEGAL_BUNDLE (R65). -/
def specialSlot (c x : Nat) (pre : State) (hd : Nat) (h : SlotHdr) (o : SpecialOp) (f : SpecialF) (s : State) :
    Except CoreFault State :=
  let k := pre.ctx c x
  let q := k.q h
  let et := f.et.toNat
  let n := f.prog.toNat
  let x32 (w : W32) : Nat := Fp.to32 (etVal et w)
  let put (g : Nat → W32) : Except CoreFault State := .ok (s.updCtx c x (fun t => t.setVq k q f.vd.toNat g))
  match o with
  | .sfu =>
    if pre.sfuValid c n then put (fun i => etRound et (Fp.of32 (pre.sfuRun c n (x32 (k.getV f.vs1.toNat i)))))
    else .error (fault1 1 6 hd)
  | .sfuGate =>
    if pre.sfuValid c n then
      put (fun i => etRound et (Fp.mul (etVal et (k.getV f.vs1.toNat i))
        (Fp.of32 (pre.sfuRun c n (x32 (k.getV f.vs2.toNat i))))))
    else .error (fault1 1 6 hd)
  | .tblCommit =>
    let t := f.imm32.toNat
    if tidOk t then
      if q.getLsbD 0 then
        if (pre.core c).pending.getLsbD (tableNo t) then
          .error (faultTable 6 t (1 - (pre.core c).bank (tableNo t)) true true 0)
        else .ok (s.startCommit c (some x) (k.tt.getD { launch := 0, index := 0 }) k.pc hd (tableNo t))
      else .ok s
    else .error (fault1 1 6 hd)

end Sys2Proof.Machine
end

