-- ==== Sys2Proof/Machine/Mover.lean ====
section
/-!
DEFINITION. The movers (R46, R47, R52 to R57, R76 to R79, R95, R101, R178, R465).
-/

namespace Sys2Proof.Machine

/-- The data of a mover operation moved whole (R46, R47; log 8). The atomic adds read their destination as it is, one word after the
other. -/
def State.move (s : State) (m : MoverRec) : State :=
  match m.op with
  | .tstAddf | .tstAddi =>
    (m.desc.addPairs m.src m.dst).foldl
      (fun t (d, a) => t.write d (toLe 4 (addWord m.op (t.le d 4) (s.seenLe a 4)))) s
  | _ => s.writes (m.spans s.seen)

/-! ### Table windows as destinations (R175, R178) -/

/-- The record of program `n` in bank `b` exists and names segment `i`. -/
def State.namesSeg (s : State) (c b n i : Nat) : Bool :=
  let rec_ := s.bytes (recordAddr c b n) 128
  bit (recHeader rec_) 0 && (recSegs rec_).any (fun (lo, hi) => decide (lo ≤ i ∧ i ≤ hi))

/-- The table that makes a byte of core `c`'s window busy, and its bank (R178): the lowest identifier. A record names segments of its own
bank (R164), so a pending table makes those of bank `b` busy that its record in bank `b` names. -/
def State.busyAt (s : State) (c w : Nat) : Option (Nat × Nat) :=
  let k := s.core c
  let hot (no b : Nat) : Bool := k.bank no == b || k.pending.getLsbD no
  if w < 0x10000 then
    let b := w / 0x8000
    let n := w % 0x8000 / 128
    if hot n b then some (n, b) else none
  else if w < 0x30000 then
    let b := w / 0x10000 - 1
    let i := w % 0x10000 / 32
    ((List.range 256).find? (fun n => hot n b && s.namesSeg c b n i)).map (·, b)
  else if w < 0x30800 then
    let b := (w - 0x30000) / 0x400
    let t := (w - 0x30000) % 0x400 / 4
    if hot (256 + t) b then some (0x8000 + t, b) else none
  else none

/-- The fault of a write span in the table windows, if it meets a busy table (R178, R179). -/
def State.busySpan (s : State) (c slot a n : Nat) : Option CoreFault :=
  if windowCore a = some c then
    (List.range n).findSome? (fun i =>
      let w := (a + i - windowBase) % 0x40000
      (s.busyAt c w).map (fun (t, b) => faultTable slot t b ((s.core c).pending.getLsbD (tableNo t)) false (a + i)))
  else none

/-! ### Issue (R465) -/

/-- The own-scratchpad side of `n` bytes at `a` lies in the core's slot and the context's window (R55). -/
def inWindow (c : Nat) (k : Ctx) (a n : Nat) : Bool :=
  decide (spadSlot c + k.spadBase ≤ a ∧ a + n ≤ spadSlot c + k.spadBase + k.spadSize)

/-- No span lies in another core's table window: there only the owner's movers may write (R175). -/
def ownWindows (c : Nat) (ss : List (Nat × Nat)) : Bool :=
  ss.all (fun (a, n) => [a, a + n - 1].all (fun b => windowCore b == none || windowCore b == some c))

/-- The check of a strided side at `a` (R213, R465): its whole span, and for a block-scaled tensor its exponents. The faulting address
is the lowest byte of the span that fails, wherever within it the access would fail (DESIGN CHOICE, log 45). -/
def State.checkStrided (s : State) (p slot : Nat) (d : Desc) (h : Option ScaleHdr) (a : Nat) (r w : Bool) : Option CoreFault :=
  let (lo, hi) := d.span d.fmt
  let base := (a : Int) + lo
  let n := (hi - lo).toNat
  if base < 0 ∨ !s.permits p base.toNat n r w false then some (faultRegion slot (unsigned 48 base) (permCode r w false))
  else
    (expSpan h d.fmt base.toNat (n / blockBytes d.fmt)).findSome? (fun (e0, en) =>
      if s.permits p e0 en r w false then none else some (faultRegion slot e0 (permCode r w false)))

/-- The table identifier of a scale header, 0 where there is none. -/
def hdrTid (h : Option ScaleHdr) : Nat :=
  match h with
  | some h => h.w2tid
  | none => 0

/-- Steps 1 (fields) to 4 of R465 for a descriptor `d` read at `doff`: the scale header and the format moved. R77 and R101 name no fault
for an AUX that is no multiple of 64 and for a format-mapped source that is no slot address: both raise ILLEGAL_DESC, the first with the
fields of the descriptor and so before the region check of the header, the second before the region check of the source (DESIGN CHOICE,
log 45). -/
def moverCheck (c x : Nat) (pre : State) (slot : Nat) (o : MoverOp) (d : Desc) (doff src dst : Nat) :
    Except CoreFault (Option ScaleHdr × Nat) := do
  let k := pre.ctx c x
  let p := pre.partOf c x
  let bad : CoreFault := fault1 0xB slot doff
  let fm := d.fmt
  if (o = .tstAddf ∧ fm ≠ 0) ∨ (o = .tstAddi ∧ fm ≠ 9) then throw bad
  if fm = 10 ∧ (o ≠ .tld ∨ d.rank ≠ 2 ∨ d.box ≠ [128, 128]) then throw bad
  if (fmtBlock fm ∨ fm = 10) ∧ d.aux = 0 then throw bad
  -- 2. the scale header
  let h ← if d.aux = 0 then .ok none
    else if d.aux % 64 ≠ 0 then .error bad
    else if !pre.permits p d.aux 64 true false false then .error (faultRegion slot d.aux 1)
    else match parseHdr (pre.seenBytes d.aux 64) fm with
      | some h => .ok (some h)
      | none => .error bad
  let tid := hdrTid h
  if fm = 7 ∧ (o = .tst ∨ (o ≠ .tldz ∧ d.partBlock)) ∧ !isW2tid tid then throw bad
  let image := match h with
    | some h => tileImage h.maxF
    | none => 0
  let dense := if fm = 10 then image else d.denseBytes fm
  -- 3. the own-scratchpad side
  match o with
  | .tld | .tldz => if !inWindow c k dst dense then throw (faultAddress slot dst)
  | .tcpy => pure ()
  | _ => if !inWindow c k src dense then throw (faultAddress slot src)
  -- 4. the other side
  let m : MoverRec :=
    { seq := 0, ctx := x, by_ := { launch := 0, index := 0 }, op := o, tag := none, sig := none, pc := 0, src := src, dst := dst, desc := d,
      hdr := h, w2 := 0, fmt := fm, part := p }
  let own : Bool := ownWindows c m.destSpans
  let fmt ← match o, fm, h with
    | .tld, 10, some h =>
      let n := (src - h.tbase) / image
      if src < h.tbase ∨ (src - h.tbase) % image ≠ 0 then .error bad
      else if !pre.permits p src image true false false then .error (faultRegion slot src 1)
      else
        let wa := h.mapAddr + 4 * n
        if !pre.permits p wa 4 true false false then .error (faultRegion slot wa 1)
        else
          let w := pre.seenLe wa 4
          let wf := bits w 0 4
          match rungOf wf, rungOf h.baseFmt, rungOf h.maxF with
          | some r, some b, some m =>
            if bit w 31 ∧ b ≤ r ∧ r ≤ m ∧ (wf ≠ 7 ∨ !d.partBlock ∨ isW2tid tid) then .ok wf else .error bad
          | _, _, _ => .error bad
    | .tld, _, _ => match pre.checkStrided p slot d h src true false with
      | some e => .error e
      | none => .ok fm
    | .tcpy, _, _ => match pre.checkStrided p slot d h src true false with
      | some e => .error e
      | none =>
        if pre.permits p dst dense false true false ∧ own then .ok fm else .error (faultRegion slot dst 2)
    | .tst, _, _ => match pre.checkStrided p slot d h dst false true with
      | some e => .error e
      | none => if own then .ok fm else .error (faultRegion slot dst 2)
    | .tstAddf, _, _ | .tstAddi, _, _ => match pre.checkStrided p slot d h dst true true with
      | some e => .error e
      | none => if own then .ok fm else .error (faultRegion slot dst 3)
    | _, _, _ => .ok fm
  return (h, fmt)

/-- A descriptor named by a window offset, read at issue (R52, R55). -/
def descAt (c x : Nat) (pre : State) (slot doff : Nat) : Except CoreFault Desc :=
  match windowAddr c (pre.ctx c x) doff 64 64 with
  | some a =>
    match parseDesc (pre.seenBytes a 64) with
    | some d => .ok d
    | none => .error (fault1 0xB slot doff)
  | none => .error (faultAddress slot (offsetAddr c (pre.ctx c x) doff))

/-- The checks of a mover operation in the order of R465, and what it captures. -/
def moverIssue (c x : Nat) (pre : State) (o : MoverOp) (f : MoverF) : Except CoreFault MoverRec := do
  let k := pre.ctx c x
  let p := pre.partOf c x
  let slot := slotOf (.mover o f)
  let die := if f.semdie then 1 - dieOf c else dieOf c
  let doff := (k.getD f.desc.toNat).toNat
  let d ← descAt c x pre slot doff
  let src := offAddr (k.getA f.asrc.toNat) f.offsSrc
  let dst := offAddr (k.getA f.adst.toNat) f.offsDst
  let (h, fmt) ← moverCheck c x pre slot o d doff src dst
  let m : MoverRec :=
    { seq := (pre.core c).nextSeq, ctx := x, by_ := k.tt.getD { launch := 0, index := 0 }, op := o, tag := some f.tag.toNat,
      sig := if f.semen then some (die, f.sem.toNat) else none, pc := k.pc, src := src, dst := dst, desc := d, hdr := h,
      w2 := if isW2tid (hdrTid h) then pre.w2word c (hdrTid h) else 0, fmt := fmt, part := p }
  -- 5. the table windows
  match m.destSpans.findSome? (fun (a, n) => pre.busySpan c slot a n) with
  | some e => throw e
  | none => pure ()
  -- 6. the semaphore
  if f.semen ∧ !pre.semIn p f.sem.toNat then throw (faultRegion slot (syncWord die f.sem.toNat) 0)
  return m

/-- The operation is the store mover's. -/
def isStore (o : MoverOp) : Bool :=
  match o with
  | .tld | .tldz | .tcpy => false
  | _ => true

/-- An operation enters its mover's queue (R56). -/
def State.enqueueMover (s : State) (c : Nat) (m : MoverRec) : State :=
  let m := { m with seq := (s.core c).nextSeq }
  let s := s.updCore c (fun k =>
    if isStore m.op then { k with smq := k.smq ++ [m], nextSeq := k.nextSeq + 1 }
    else { k with lmq := k.lmq ++ [m], nextSeq := k.nextSeq + 1 })
  match m.tag with
  | some t => s.updCtx c m.ctx (fun k => k.setTag t (k.tagCount t + 1))
  | none => s

/-- A mover slot (R33, R46, R47): nothing where its predicate is 0. -/
def moverSlot (c x : Nat) (pre : State) (h : SlotHdr) (o : MoverOp) (f : MoverF) (s : State) : Except CoreFault State :=
  if ((pre.ctx c x).q h).getLsbD 0 then
    match moverIssue c x pre o f with
    | .error e => .error e
    | .ok m => .ok (s.enqueueMover c m)
  else .ok s

/-! ### Completion (R56, R62) -/

/-- What a mover operation reads and writes in DRAM, for the partition's regulator: whole lines (R295). -/
def MoverRec.dramBytes (m : MoverRec) : Nat := lineBytes (2 * dieBytes) m.readSpans + lineBytes (2 * dieBytes) m.writeSpans

/-- Regulator `j` of partition `p` lets a request start (R295). -/
def State.regOpen (s : State) (p j : Nat) : Bool :=
  match oget s.parts p with
  | some q =>
    let r := q.regs.getD j Regulator.free
    decide (r.rate = 0xFFFFFFFF ∨ 0 < r.balance)
  | none => true

/-- A request of `n` bytes is charged to regulator `j` of partition `p` (R295). -/
def State.charge (s : State) (p j n : Nat) : State :=
  s.updPart p (fun q =>
    let r := q.regs.getD j Regulator.free
    if r.rate = 0xFFFFFFFF then q else { q with regs := q.regs.set j { r with balance := r.balance - n } })

/-- The lines of DRAM that spans touch are charged to a partition's DRAM regulator (R295). -/
def State.chargeLines (s : State) (p : Nat) (ss : List (Nat × Nat)) : State := s.charge p 0 (lineBytes (2 * dieBytes) ss)

/-- A span that a mover operation reads holds a poisoned line (R54, R207). -/
def State.moverPoisoned (s : State) (m : MoverRec) : Bool := m.readSpans.any (fun (a, n) => s.poisoned a n)

/-- A signal by 1 from an operation of a tile-thread: SEM_OVERFLOW goes to the tile-thread that issued it (R62). -/
def State.signalBy (s : State) (c x slot : Nat) (pc : BitVec 48) (th : Thread) (sig : Option (Nat × Nat)) : State :=
  match sig with
  | none => s
  | some (die, i) =>
    match s.semAdd die i 1 with
    | some s' => s'
    | none => s.lateFault c x pc.toNat th (fault1 5 slot (syncWord die i))

/-- The first operation of context `x` in a mover's queue. -/
def Core.firstMover (k : Core) (st : Bool) (x : Nat) : Option MoverRec :=
  (if st then k.smq else k.lmq).find? (fun m => m.ctx == x)

/-- The queue without an operation, by its sequence number. -/
def Core.dropMover (k : Core) (st : Bool) (seq : Nat) : Core :=
  if st then { k with smq := k.smq.filter (fun m => m.seq ≠ seq) } else { k with lmq := k.lmq.filter (fun m => m.seq ≠ seq) }

/-- MOVER_OP_COMPLETE (R56): the oldest operation of the context in the mover moves its data, its tag count drops and
its semaphore is signalled; what it reads from a poisoned line arrives as poisoned lines (R362). Waits while its regulator
is empty (R295) or a save holds the context (R296). -/
def moverComplete (c : Nat) (st : Bool) (x : Nat) (s : State) : State :=
  match (s.core c).firstMover st x with
  | none => s
  | some m =>
    if (0 < m.dramBytes ∧ !s.regOpen m.part 0) ∨ (s.core c).frozen.contains x then s
    else
      let bad := s.moverPoisoned m
      let s := (s.updCore c (fun k => k.dropMover st m.seq)).bump
      let s := (s.move m).charge m.part 0 m.dramBytes
      let s := if bad then m.writeSpans.foldl (fun s (a, n) => s.taint a n) s else s
      let s := s.issueMmuls c
      let s := match m.tag with
        | some t => s.updCtx c x (fun k => k.setTag t (k.tagCount t - 1))
        | none => s
      s.signalBy c x (if st then 3 else 2) m.pc m.by_ m.sig

end Sys2Proof.Machine
end

