-- ==== Sys2Proof/Machine/Matrix.lean ====
section
/-!
DEFINITION. The matrix unit (R48, R81 to R90, R105 to R109) and the drain unit (R93 to R101, R108, R127 to R130).
-/

namespace Sys2Proof.Machine

/-! ### Formats of an mmul (R81) -/

/-- An 8-bit operand format. -/
def fmt8 (f : Nat) : Bool := f == 3 || f == 4 || f == 5 || f == 8
/-- BF16 or FP16. -/
def fmt16 (f : Nat) : Bool := f == 1 || f == 2

/-- The path of a pair of formats; `empty` where R81 does not accept the pair. -/
def pairPath (a b : Nat) : Path :=
  if fmt8 a ∧ (fmt8 b ∨ b = 6 ∨ b = 7) then .fixed
  else if fmt16 a ∧ (fmt8 b ∨ b = 6 ∨ b = 7) then .fixed
  else if fmt8 a ∧ fmt16 b then .fixed
  else if fmt16 a ∧ a = b then .fp32
  else .empty

/-- ACC_Q of a tile handle (R89). -/
def Ctx.accq (k : Ctx) (t : Nat) : Int := signed 8 (k.kfc.getD t 0).toNat
/-- WIDEN_POLICY (R97). -/
def Ctx.widen (k : Ctx) : Nat := wordAt k.kfc 0x30

/-- Bytes of an mmul operand of `n` chunks (R79, R105). -/
def operandBytes (f n : Nat) : Nat :=
  let e := 2048 * n * fmtBits f
  if fmtBlock f then e + 512 * n else e

/-! ### Adding a chunk (R84, R85, R86, R90) -/

/-- The value of element `i` of an operand image at device address `a`, block exponent included (R75, R84). -/
def State.operandVal (s : State) (f : Nat) (w2 : W32) (a kch i : Nat) : Fp :=
  let v := elemVal f w2 (elemOf s.seen a (fmtBits f) i)
  if fmtBlock f then
    let b := (s.seen (a + 2048 * kch * fmtBits f + i / 32)).toNat
    if b = 0 then .zero else Fp.scale2 v ((b : Int) - 128)
  else v

/-- One contribution to an entry on the fixed path: the floored product, or the class it gives (R84, R85). -/
def addContribution (accq : Int) (e : Int × Entry) (p : Fp) : Int × Entry :=
  match p with
  | .fin _ _ _ => (e.1 + Fp.floor (Fp.scale2 p (-accq)), e.2)
  | .nan => (e.1, .nan)
  | .inf sg =>
    (e.1, match e.2, sg with
      | .nan, _ => .nan
      | .pinf, true => .nan
      | .ninf, false => .nan
      | _, true => .ninf
      | _, false => .pinf)

/-- An entry after a chunk on the fixed path, with its out-of-range sum if it overflows (R86). -/
def fixedChunk (accq : Int) (old : Entry) (ps : List Fp) : Entry × Option Int :=
  let n0 : Int := match old with
    | .int n => n.toInt
    | _ => 0
  let c0 : Entry := match old with
    | .int _ => .int 0
    | .f32 _ => .int 0
    | e => e
  let (n, cls) := ps.foldl (addContribution accq) (n0, c0)
  match cls with
  | .int _ => if -(2 ^ 95) ≤ n ∧ n < 2 ^ 95 then (.int (BitVec.ofInt 96 n), none) else (old, some n)
  | e => (e, none)

/-- An entry after a chunk on the FP32 path (R90). -/
def fp32Chunk (old : Entry) (ps : List Fp) : Entry :=
  let o := match old with
    | .f32 w => Fp.of32 w.toNat
    | _ => Fp.zero
  .f32 (BitVec.ofNat 32 (Fp.to32 (Fp.add o (Fp.tree32 7 (ps.map Fp.rne32)))))

/-- What an entry reads as when it is not listed. -/
def zeroEntry (p : Path) : Entry := if p = .fp32 then .f32 0 else .int 0

/-- Entry (r, c) of a tile. -/
def Tile.entry (t : Tile) (r c : Nat) : Entry := tget (fun _ => zeroEntry t.path) t.entries (128 * r + c)

/-- The products of entry (r, c) in chunk `n` of an mmul (R84, R105). -/
def State.chunkProducts (s : State) (c x : Nat) (m : MmulRec) (w2 : W32) (n r cc : Nat) : List Fp :=
  let base := spadSlot c + (s.ctx c x).spadBase
  let kk := 128 * m.kch
  (List.range 128).map (fun i =>
    let k := 128 * n + i
    let a := s.operandVal m.fmta 0 (base + m.a) m.kch (r * kk + k)
    let b := s.operandVal m.fmtb w2 (base + m.b) m.kch (if m.trb then cc * kk + k else 128 * k + cc)
    Fp.mul a b)

/-- A tile after a chunk, or the first entry in row-major order that overflows: row, column and sum (R86). -/
def State.chunkTile (s : State) (c x : Nat) (m : MmulRec) (w2 : W32) (t : Tile) : Except (Nat × Nat × Int) Tile :=
  let path := pairPath m.fmta m.fmtb
  let accq := (s.ctx c x).accq m.tile
  let cells := (List.range 16384).map (fun i =>
    let ps := s.chunkProducts c x m w2 m.done (i / 128) (i % 128)
    let old := t.entry (i / 128) (i % 128)
    (i, if path = .fp32 then (fp32Chunk old ps, none) else fixedChunk accq old ps))
  match cells.findSome? (fun (i, e) => e.2.map (fun n => (i / 128, i % 128, n))) with
  | some o => .error o
  | none =>
    let base := spadSlot c + (s.ctx c x).spadBase
    let bad := s.poisoned (base + m.a) (operandBytes m.fmta m.kch) || s.poisoned (base + m.b) (operandBytes m.fmtb m.kch)
    .ok { path := path, kdone := t.kdone + 128, poison := t.poison || bad
          entries := cells.foldr (fun (i, e) l => if e.1 = zeroEntry path then l else (i, e.1) :: l) [] }

/-! ### The matrix queue -/

/-- An operation of context `x` on tile `t`; a drain's partner tile counts where its chain reads it (R48). -/
def MatrixRec.touches (x t : Nat) : MatrixRec → Bool
  | .mmul m _ _ _ => m.ctx == x && m.tile == t
  | .mdrain d => d.reads x t
  | .mfree y u _ => y == x && u == t
  | .clear y u _ => y == x && u == t
  | .lrun y _ _ _ _ _ => y == x

/-- A drain issued before `n` that is being read, or is Lupin's and waits to start, still needs a tile (R48). -/
def Core.drainHolds (k : Core) (x t n : Nat) : Bool :=
  (match k.drain with
    | some r => r.d.reads x t && decide (r.d.seq < n)
    | none => false) || k.drains.any (fun d => d.reads x t && decide (d.seq < n))

/-- An mmul of Lupin expanded before `n` adds into a tile (R38, R117). -/
def Core.lupinAdds (k : Core) (x t n : Nat) : Bool := k.lmm.any (fun u => u.m.ctx == x && u.m.tile == t && decide (u.m.at_ < n))

/-- mfrees and clears at whose turn every earlier operation on their tile has completed take effect (R38, R109): what remains of the
queue, and the tiles emptied. -/
def freeReady (k : Core) : List MatrixRec → List MatrixRec → List MatrixRec × List (Nat × Nat)
  | _, [] => ([], [])
  | before, o :: rest =>
    let stay := fun () =>
      let r := freeReady k (before ++ [o]) rest
      (o :: r.1, r.2)
    let turn (x t q : Nat) :=
      if before.any (MatrixRec.touches x t) ∨ k.drainHolds x t q ∨ k.lupinAdds x t q then stay ()
      else
        let r := freeReady k before rest
        (r.1, (x, t) :: r.2)
    match o with
    | .mfree x t q => turn x t q
    | .clear x t q => turn x t q
    | _ => stay ()

/-- mfrees and clears whose turn has come take effect. -/
def State.settleFrees (s : State) (c : Nat) : State :=
  let k := s.core c
  let (mq, es) := freeReady k [] k.mq
  es.foldl (fun s (x, t) => s.setTile c x t Tile.empty) (s.setCore c { k with mq := mq })

/-- The path tile `t` will have when the operations queued for it are done (R82). -/
def State.pathAfter (s : State) (c x t : Nat) : Path :=
  let k := s.core c
  let p0 := if k.drainHolds x t k.nextSeq then Path.empty else (s.tile c x t).path
  k.mq.foldl (fun p o => match o with
    | .mmul m _ _ _ => if m.ctx = x ∧ m.tile = t then (if m.acc ∧ p ≠ .empty then p else pairPath m.fmta m.fmtb) else p
    | .mdrain d => if d.reads x t then .empty else p
    | .mfree y u _ => if y = x ∧ u = t then .empty else p
    | .clear y u _ => if y = x ∧ u = t then .empty else p
    | .lrun _ _ _ _ _ _ => p) p0

/-- The checks of an mmul at issue (R37, R79 to R82, R105, R112). KCH = 0 lies outside the range that R42 gives and R42 names no fault: it
raises ILLEGAL_BUNDLE (DESIGN CHOICE, log 45). -/
def mmulIssue (c x : Nat) (pre : State) (hd : Nat) (f : MatrixF) : Except CoreFault MmulRec := do
  let k := pre.ctx c x
  let a := f.fmta.toNat
  let b := f.fmtb.toNat
  let n := f.kch.toNat
  let t := f.td.toNat
  let ill : CoreFault := fault1 1 4 hd
  if k.kmode ∨ pairPath a b = .empty ∨ n = 0 ∨ (fmtBlock b ∧ !f.trb) ∨ (b = 7 ∧ !isW2tid (k.w2tid t)) then throw ill
  if k.accTiles ≤ t then throw (fault1 4 4 t)
  let oa := (k.getA f.aa.toNat).toNat
  let ob := (k.getA f.ab.toNat).toNat
  if windowAddr c k oa (operandBytes a n) 64 = none then throw (faultAddress 4 (offsetAddr c k oa))
  if windowAddr c k ob (operandBytes b n) 64 = none then throw (faultAddress 4 (offsetAddr c k ob))
  let p := pre.pathAfter c x t
  if f.acc ∧ p ≠ .empty ∧ p ≠ pairPath a b then throw (fault1 4 4 t)
  return { ctx := x, tile := t, a := oa, b := ob, kch := n, fmta := a, fmtb := b, acc := f.acc, trb := f.trb, done := 0,
           nest := none, needs := [], at_ := 0, issued := none }

/-! ### Drain chains (R127, R128, R129) -/

/-- One stage of a drain chain (R127). -/
structure DStage where
  op : Nat
  mode : Nat
  prog : Nat
  sfmt : Nat
  xsel : Bool
  xreg : Nat
  imm : Nat
  off : Int
  imm2 : Nat
  reserved : Bool
  no : Nat
  deriving DecidableEq, Repr

/-- Stage `n` of chain `ch` in a chain table. -/
def dstage (tbl : List Byte) (ch n : Nat) : DStage :=
  let o := 128 * ch + 16 * n
  let w := wordAt tbl o
  let v := wordAt tbl (o + 8)
  { op := bits w 0 4, mode := bits w 4 4, prog := bits w 8 8, sfmt := bits w 16 4, xsel := bit w 20, xreg := bits w 21 5,
    imm := w >>> 32, off := signed 32 v, imm2 := v >>> 32, reserved := decide (bits w 26 6 ≠ 0), no := n }

/-- The stages of a chain that are active, in ascending order (R128). -/
def chainStages (tbl : List Byte) (ch : Nat) : List DStage :=
  ((List.range 8).map (dstage tbl ch)).filter (fun st => st.op ≠ 0)

/-- The largest MODE of a stage operation; ACT, RESID and the operations from CLAMP on have one form. -/
def maxMode : Nat → Nat
  | 1 => 2 | 2 => 1 | 5 => 2 | _ => 0

/-- A chain is valid (R129). An ACT stage with PROG = 0 is refused where the drain issues (R160). -/
def chainValid (tbl : List Byte) (ch : Nat) : Bool :=
  let all := (List.range 8).map (dstage tbl ch)
  let act := chainStages tbl ch
  all.all (fun st => decide (st.op ≤ 9) && decide (st.mode ≤ maxMode st.op) && decide (st.sfmt ≤ 1) && !st.reserved) &&
  decide ((act.filter (fun st => st.op = 9)).length ≤ 1) &&
  act.dropLast.all (fun st => st.op != 8)

/-- The chain ends in QUANT. -/
def chainQuant (tbl : List Byte) (ch : Nat) : Bool := (chainStages tbl ch).any (fun st => st.op = 8)
/-- The chain reads the partner tile (GATE mode 0). -/
def chainPartner (tbl : List Byte) (ch : Nat) : Bool := (chainStages tbl ch).any (fun st => st.op = 5 ∧ st.mode = 0)
/-- The chain transposes. -/
def chainTrans (tbl : List Byte) (ch : Nat) : Bool := (chainStages tbl ch).any (fun st => st.op = 9)

/-- Bytes of a stage's scratchpad source; 0 where it has none (R127, R128). -/
def DStage.srcBytes (st : DStage) : Nat :=
  let tile := if st.sfmt = 1 then 32768 else 65536
  match st.op, st.mode with
  | 1, 1 => 512 | 1, 2 => 512 | 2, 1 => 512 | 4, _ => tile
  | 5, 0 => 512 | 5, 1 => tile | 5, 2 => 512 | 7, _ => 65536
  | _, _ => 0

/-- The window offset of a stage's source. `xs`: X of each stage number. -/
def DStage.addr (st : DStage) (xs : List Nat) : Int := (if st.xsel then (xs.getD st.no 0 : Int) else 0) + st.off

/-- A span lies in no table window: a drain is no mover of the owning core, so it may write none (R175). -/
def noWindow (a n : Nat) : Bool := [a, a + n - 1].all (fun b => windowCore b == none)

/-- The checks of a drain at issue (R98 to R100, R108, R127 to R129, R160, R175). `slot` is 4; `xs`: X of each stage. A misaligned AUX is
treated as for a mover (log 45). -/
def drainIssue (c x : Nat) (pre : State) (tile ch dst : Nat) (d : Desc) (doff : Nat) (xs : List Nat) (lrun : Option Nat)
    (th : Thread) (pc : BitVec 48) : Except CoreFault DrainRec := do
  let k := pre.ctx c x
  let p := pre.partOf c x
  let bad : CoreFault := fault1 0xB 4 doff
  let fm := d.fmt
  if d.rank ≠ 2 ∨ d.box ≠ [128, 128] ∨ ((fmtBlock fm ∨ fm = 10) ∧ d.aux = 0) then throw bad
  let h ← if d.aux = 0 then .ok none
    else if d.aux % 64 ≠ 0 then .error bad
    else if !pre.permits p d.aux 64 true false false then .error (faultRegion 4 d.aux 1)
    else match parseHdr (pre.seenBytes d.aux 64) fm with
      | some h => .ok (some h)
      | none => .error bad
  let tid := hdrTid h
  let base := match h with
    | some h => h.baseFmt
    | none => 0
  if (fm = 7 ∨ (fm = 10 ∧ base = 7)) ∧ !isW2tid tid then throw bad
  if (fmtBlock fm ∨ fm = 10) ≠ (chainQuant k.chain ch = true) then throw bad
  let stages := chainStages k.chain ch
  if chainPartner k.chain ch ∧ k.accTiles ≤ tile ^^^ 1 then throw (fault1 4 4 (tile ^^^ 1))
  if stages.any (fun st => (st.op = 3 ∨ (st.op = 5 ∧ st.prog ≠ 0)) ∧ !pre.sfuValid c st.prog) then throw bad
  match stages.find? (fun st => st.srcBytes ≠ 0 ∧ windowAddr c k (st.addr xs) st.srcBytes 1 = none) with
  | some st => throw (faultAddress 4 (offsetAddr c k (st.addr xs)))
  | none => pure ()
  match h, fm with
  | some h, 10 =>
    let size := tileImage h.maxF
    if dst < h.tbase ∨ (dst - h.tbase) % size ≠ 0 then throw bad
    if !pre.permits p dst size false true false then throw (faultRegion 4 dst 2)
    let wa := h.mapAddr + 4 * ((dst - h.tbase) / size)
    if !pre.permits p wa 4 false true false ∨ !noWindow dst size ∨ !noWindow wa 4 then
      throw (faultRegion 4 (if noWindow dst size then wa else dst) 2)
  | h, _ =>
    match pre.checkStrided p 4 d h dst false true with
    | some e => throw e
    | none => pure ()
    match ((List.range d.rows).flatMap (fun r => (d.rowAddr dst r, d.rowBytes fm) :: expSpan h fm (d.rowAddr dst r) (d.box0 / 32))).find?
        (fun (a, n) => !noWindow a n) with
    | some (a, _) => throw (faultRegion 4 a 2)
    | none => pure ()
    match h with
    | some h =>
      if h.mapAddr ≠ 0 then
        let st1 := d.stride.getD 1 0
        let b := fmtBits fm
        if st1 ≤ 0 ∨ dst < h.tbase then throw bad
        let off := dst - h.tbase
        let j := off % st1.toNat
        let i1 := off / st1.toNat
        let i0 := j * 8 / b
        if j * 8 % b ≠ 0 ∨ i0 % 128 ≠ 0 ∨ i1 % 128 ≠ 0 then throw bad
        let wa := h.mapAddr + 4 * (i1 / 128 * h.mapCols + i0 / 128)
        if !pre.permits p wa 4 false true false ∨ !noWindow wa 4 then throw (faultRegion 4 wa 2)
    | none => pure ()
  return { seq := (pre.core c).nextSeq, ctx := x, by_ := th, pc := pc, tile := tile, pair := chainPartner k.chain ch, chain := ch, dst := dst, desc := d,
           hdr := h, w2 := if isW2tid tid then pre.w2word c tid else 0, x := xs, lrun := lrun, part := p }

/-! ### Evaluating a drain (R93, R94, R128) -/

/-- The exact value of an entry. -/
def entryVal (accq : Int) : Entry → Fp
  | .int n => .fin (n.toInt < 0) n.toInt.natAbs accq
  | .pinf => .inf false
  | .ninf => .inf true
  | .nan => .nan
  | .f32 w => Fp.of32 w.toNat

/-- The FP32 word at a window offset of a context. -/
def State.wfp32 (s : State) (c x : Nat) (off : Int) : Fp :=
  Fp.of32 (s.seenLe (offsetAddr c (s.ctx c x) off) 4)

/-- Element (r, cc) of a scratchpad tile source (R127). -/
def State.tileSrc (s : State) (c x : Nat) (st : DStage) (off : Int) (r cc : Nat) : Fp :=
  let i := 128 * r + cc
  if st.sfmt = 1 then Fp.ofBf16 (s.seenLe (offsetAddr c (s.ctx c x) (off + 2 * i)) 2) else s.wfp32 c x (off + 4 * i)

/-- One stage on the values of row `r` (R128). `part`: the exact entries of the partner's row. -/
def State.stageRow (s : State) (c x : Nat) (xs : List Nat) (r : Nat) (part : List Fp) (ys : List Fp) (st : DStage) : List Fp :=
  let a := st.addr xs
  let im := Fp.of32 st.imm
  let col (cc : Nat) : Fp := s.wfp32 c x (a + 4 * cc)
  let each (f : Nat → Fp → Fp) : List Fp := ys.mapIdx f
  match st.op with
  | 1 =>
    match st.mode with
    | 0 => each (fun _ y => Fp.rne32 (Fp.mul y im))
    | 1 => each (fun cc y => Fp.rne32 (Fp.mul y (col cc)))
    | _ => each (fun _ y => Fp.rne32 (Fp.mul y (s.wfp32 c x (a + 4 * r))))
  | 2 => each (fun cc y => Fp.rne32 (Fp.add y (if st.mode = 0 then im else col cc)))
  | 3 => each (fun _ y => Fp.of32 (s.sfuRun c st.prog (Fp.to32 y)))
  | 4 => each (fun cc y => Fp.rne32 (Fp.add y (s.tileSrc c x st a r cc)))
  | 5 =>
    each (fun cc y =>
      let g := match st.mode with
        | 0 => Fp.rne32 (Fp.mul (part.getD cc .zero) (col cc))
        | 1 => s.tileSrc c x st a r cc
        | _ => col cc
      if st.prog = 0 then Fp.rne32 (Fp.mul y g) else Fp.rne32 (Fp.mul y (Fp.of32 (s.sfuRun c st.prog (Fp.to32 g)))))
  | 6 => each (fun _ y => if Fp.isNan y then y else Fp.min (Fp.max y im) (Fp.of32 st.imm2))
  | 7 =>
    each (fun cc y =>
      let b := a + 512 * r + 8 * (cc / 2)
      let cs := s.wfp32 c x b
      let sn := s.wfp32 c x (b + 4)
      let ev := ys.getD (cc / 2 * 2) .zero
      if cc % 2 = 0 then Fp.rne32 (Fp.sub (Fp.mul y cs) (Fp.mul (ys.getD (cc + 1) .zero) sn))
      else Fp.rne32 (Fp.add (Fp.mul ev sn) (Fp.mul y cs)))
  | 8 => each (fun _ y => Fp.rne32 (Fp.mul y im))
  | _ => ys

/-- The values a drain's chain makes of row `r` of its tile (R93, R128). A first stage that scales takes the exact
entries; a chain that starts otherwise takes them rounded to FP32; without stages they stay exact. -/
def State.drainRow (s : State) (c : Nat) (d : DrainRec) (r : Nat) : List Fp :=
  let k := s.ctx c d.ctx
  let row (t : Nat) : List Fp :=
    let tl := s.tile c d.ctx t
    (List.range 128).map (fun cc => entryVal (k.accq t) (tl.entry r cc))
  let ex := row d.tile
  let part := row (d.tile ^^^ 1)
  match chainStages k.chain d.chain with
  | [] => ex
  | st :: rest =>
    (st :: rest).foldl (s.stageRow c d.ctx d.x r part) (if st.op = 1 then ex else ex.map Fp.rne32)

/-- The values in destination order: row i1, element i0 (R108, R128). -/
def State.drainVals (s : State) (c : Nat) (d : DrainRec) : List (List Fp) :=
  let rows := (List.range 128).map (s.drainRow c d)
  if chainTrans (s.ctx c d.ctx).chain d.chain then
    (List.range 128).map (fun i => rows.map (fun row => row.getD i .zero))
  else rows

/-- The padded values of block `j` of a destination row with `v` valid elements. -/
def blockOf (row : List Fp) (v j : Nat) : List (Option Fp) :=
  (List.range 32).map (fun i => if 32 * j + i < v then some (row.getD (32 * j + i) .zero) else none)

/-- What one run of a drain in format `f` would write, and its counts SB and ZB (R94, R95, R98, R99, R108). -/
def State.drainRun (s : State) (c : Nat) (d : DrainRec) (f : Nat) : List (Nat × List Byte) × Nat × Nat :=
  let v0 := min 128 (d.desc.valid.getD 0 0)
  let v1 := min 128 (d.desc.valid.getD 1 0)
  let rows := (s.drainVals c d).zipIdx
  match d.hdr with
  | some h =>
    if d.desc.fmt = 10 then
      if f = 1 then
        let es := rows.flatMap (fun (row, i1) => packBits 16 (row.mapIdx (fun i y =>
          if i < v0 ∧ i1 < v1 then Fp.toBf16 y else 0)))
        ([(d.dst, es)], 0, 0)
      else
        let qs := rows.flatMap (fun (row, i1) => (List.range 4).map (fun j =>
          if i1 < v1 ∧ 32 * j < v0 then (quantBlock f h d.w2 (blockOf row v0 j), true)
          else ({ code := 0, elems := List.replicate 32 0, sat := false, zero := true }, false)))
        ([(d.dst, qs.flatMap (fun q => packBits (fmtBits f) q.1.elems) ++ qs.map (fun q => BitVec.ofNat 8 q.1.code))],
          (qs.filter (fun q => q.2 ∧ q.1.sat)).length, (qs.filter (fun q => q.2 ∧ q.1.zero)).length)
    else if fmtBlock f then
      let qs := rows.flatMap (fun (row, i1) => (List.range 4).filterMap (fun j =>
        if i1 < v1 ∧ 32 * j < v0 then
          some (d.desc.rowAddr d.dst i1 + j * blockBytes f, quantBlock f h d.w2 (blockOf row v0 j))
        else none))
      (qs.flatMap (fun (a, q) => [(a, packBits (fmtBits f) q.elems), (h.expByte f a, [BitVec.ofNat 8 q.code])]),
        (qs.filter (fun q => q.2.sat)).length, (qs.filter (fun q => q.2.zero)).length)
    else
      (rows.filterMap (fun (row, i1) =>
        if i1 < v1 then some (d.desc.rowAddr d.dst i1, packBits (fmtBits f) ((row.take v0).map (toFmt f))) else none), 0, 0)
  | none =>
    (rows.filterMap (fun (row, i1) =>
      if i1 < v1 then some (d.desc.rowAddr d.dst i1, packBits (fmtBits f) ((row.take v0).map (toFmt f))) else none), 0, 0)

/-- The tile status word (R98). -/
def statusWord (f steps sb0 zb : Nat) : Nat := f + 2 ^ 4 * steps + 2 ^ 8 * sb0 + 2 ^ 18 * zb + 2 ^ 31

/-- Where a drain's tile status word goes, if its destination has a format map (R98). -/
def DrainRec.statusAddr (d : DrainRec) : Option Nat :=
  match d.hdr with
  | some h =>
    if h.mapAddr = 0 then none
    else if d.desc.fmt = 10 then some (h.mapAddr + 4 * ((d.dst - h.tbase) / tileImage h.maxF))
    else
      let st1 := (d.desc.stride.getD 1 1).toNat
      let off := d.dst - h.tbase
      some (h.mapAddr + 4 * (off / st1 / 128 * h.mapCols + off % st1 * 8 / fmtBits d.desc.fmt / 128))
  | none => none

/-- The tile widens (R100): WEN = 1, SB above SB_THRESH, and the format narrower than MAXF. -/
def widens (policy : Nat) (h : Option ScaleHdr) (f sb : Nat) : Bool :=
  bit policy 16 && decide (bits policy 0 10 < sb) &&
  match h with
  | some h => match rungOf f, rungOf h.maxF with
    | some r, some m => decide (r < m)
    | _, _ => false
  | none => false

/-- A drain reads a poisoned tile or a poisoned line of a stage's source (R362). -/
def State.drainPoisoned (s : State) (c : Nat) (d : DrainRec) : Bool :=
  let k := s.ctx c d.ctx
  (s.tile c d.ctx d.tile).poison ||
  (d.pair && (s.tile c d.ctx (d.tile ^^^ 1)).poison) ||
  (chainStages k.chain d.chain).any (fun st =>
    s.poisoned (((spadSlot c + k.spadBase : Nat) : Int) + st.addr d.x).toNat st.srcBytes)

/-- One run of a drain (R100). -/
def State.runDrain (s : State) (c : Nat) (d : DrainRec) (f steps sb0 : Nat) : DrainRun :=
  let (ws, sb, zb) := s.drainRun c d f
  let first := if steps = 0 then sb else sb0
  let re := decide (d.desc.fmt = 10) && widens (s.ctx c d.ctx).widen d.hdr f sb
  let st := match d.statusAddr with
    | some a => [(a, toLe 4 (statusWord f steps first zb))]
    | none => []
  { d := d, fmt := f, steps := steps, sb0 := first, rerun := re, poison := s.drainPoisoned c d, writes := ws ++ st }

/-- The drain has read its tiles: both become empty and not live (R48, R108), and its output waits to be written. -/
def State.drainRead (s : State) (c : Nat) (r : DrainRun) : State :=
  let s := s.setTile c r.d.ctx r.d.tile Tile.empty
  let s := if r.d.pair then s.setTile c r.d.ctx (r.d.tile ^^^ 1) Tile.empty else s
  (s.updCore c (fun k => { k with drain := none, writing := k.writing ++ [r] })).settleFrees c

/-- A run that widens keeps the drain unit and the tile; any other run has read the tile (R100). -/
def State.afterRun (s : State) (c : Nat) (r : DrainRun) : State :=
  if r.rerun then s.updCore c (fun k => { k with drain := some r }) else s.drainRead c r

/-- A stage reads the tables of program `n`. -/
def DStage.readsTable (st : DStage) (n : Nat) : Bool := (st.op == 3 || (st.op == 5 && st.prog != 0)) && st.prog == n

/-- The drain's chain reads the tables of program `n`. -/
def State.drainTable (s : State) (c : Nat) (d : DrainRec) (n : Nat) : Bool :=
  (chainStages (s.ctx c d.ctx).chain d.chain).any (fun st => st.readsTable n)

/-- A table that the drain's chain reads has a commit pending that was issued before the drain (R181): such a drain does not start. One
issued before the commit starts and reads the old bank. -/
def State.chainPending (s : State) (c : Nat) (d : DrainRec) : Bool :=
  (s.core c).commits.any (fun t => decide (t.seq < d.seq) && s.drainTable c d t.table)

/-- The first mdrain of the matrix queue whose earlier operations on its tiles have completed (R48). -/
def firstDrain : List MatrixRec → List MatrixRec → Option DrainRec
  | _, [] => none
  | before, .mdrain d :: rest =>
    if before.any (fun o => o.touches d.ctx d.tile || (d.pair && o.touches d.ctx (d.tile ^^^ 1))) then firstDrain (before ++ [.mdrain d]) rest
    else some d
  | before, o :: rest => firstDrain (before ++ [o]) rest

/-- Mmuls of Lupin that it expanded before a drain of its own still add into what the drain reads (R48, R117, R120). -/
def Core.drainWaits (k : Core) (d : DrainRec) : Bool :=
  k.lupinAdds d.ctx d.tile d.seq || (d.pair && k.lupinAdds d.ctx (d.tile ^^^ 1) d.seq)

/-- The drain that starts next on a core: Lupin's oldest, else the first ready mdrain (R48, R117). -/
def Core.nextDrain (k : Core) : Option DrainRec :=
  match k.drains with
  | d :: _ => if k.drainWaits d then firstDrain [] k.mq else some d
  | [] => firstDrain [] k.mq

/-- A drain leaves the queue it waited in. -/
def Core.takeDrain (k : Core) (seq : Nat) : Core :=
  { k with
    drains := k.drains.filter (fun d => d.seq ≠ seq)
    mq := k.mq.filter (fun o => match o with
      | .mdrain d => d.seq ≠ seq
      | _ => true) }

/-- DRAIN_START (R48): the drain unit is free and the next drain's tables are not pending; the first run reads the
tile. `hold`: a forwarding channel is full (R336). -/
def drainStart (c : Nat) (hold : Bool) (s : State) : State :=
  match (s.core c).drain, (s.core c).nextDrain with
  | none, some d =>
    if hold ∨ s.chainPending c d ∨ (s.core c).frozen.contains d.ctx then s
    else
      let f := match d.desc.fmt, d.hdr with
        | 10, some h => h.baseFmt
        | f, _ => f
      let s := s.bump
      let r := s.runDrain c d f 0 0
      (s.updCore c (fun k => k.takeDrain d.seq)).afterRun c r
  | _, _ => s

/-- DRAIN_RERUN (R100): the drain runs again at the next format of the ladder. -/
def drainRerun (c : Nat) (s : State) : State :=
  match (s.core c).drain with
  | none => s
  | some r =>
    let f := match rungOf r.fmt with
      | some k => fmtOfRung (k + 1)
      | none => r.fmt
    s.bump.afterRun c (s.bump.runDrain c r.d f (r.steps + 1) r.sb0)

/-- Bytes of the lines of DRAM that spans touch (R295). -/
def spansDram (ws : List (Nat × List Byte)) : Nat := lineBytes (2 * dieBytes) (ws.map (fun w => (w.1, w.2.length)))

/-- DRAIN_WRITTEN (R130): the oldest drain that has read its tile is written, with its tile status word; a widened
tile counts in WIDEN_COUNT (R102). -/
def drainWritten (c : Nat) (s : State) : State :=
  match (s.core c).writing with
  | [] => s
  | r :: rest =>
    let s := (s.writes r.writes).charge r.d.part 0 (spansDram r.writes)
    let s := if r.poison then r.writes.foldl (fun s w => s.taint w.1 w.2.length) s else s
    let s := s.updCore c (fun k => { k with writing := rest })
    if 0 < r.steps then s.updLaunch r.d.by_.launch (fun l => l.addWiden (4 * c + r.d.ctx)) else s

/-! ### A chunk completes (R86) -/

/-- The DETAIL of ACC_OVERFLOW (R87, R126). -/
def faultOverflow (accq : Int) (m : MmulRec) (kdone r c : Nat) (sum : Int) : CoreFault :=
  let u := unsigned 128 sum
  { code := 8, slot := 4
    d18 := m.tile + 2 ^ 8 * unsigned 8 accq + 2 ^ 16 * m.done + 2 ^ 32 * r + 2 ^ 40 * c
    d20 := u % 2 ^ 64, d28 := u / 2 ^ 64, d30 := kdone
    d38 := match m.nest with
      | some n => n.seq % 2 ^ 40 + 2 ^ 40 * n.table + 2 ^ 63
      | none => 0 }

/-- Lupin's oldest mmul can run: Lupin has issued it, and no earlier drain and no earlier tile-thread still has its tile (R38, R48,
R118). -/
def Core.lupinReady (k : Core) (u : LupinMmul) : Bool :=
  u.m.issued.isSome && (u.m.done ≠ 0 ||
    !(k.drainHolds u.m.ctx u.m.tile u.m.at_ ||
      k.mq.any (fun o => o.isClear && o.touches u.m.ctx u.m.tile && decide (o.seq < u.m.at_))))

/-- The mmul on whose next chunk the matrix unit works: Lupin's oldest while it has any, else the first mmul of the queue that no lrun
precedes and no drain holds (R48, R107, R122). -/
def Core.currentMmul (k : Core) : Option (MmulRec × Thread × BitVec 48) :=
  match k.lmm with
  | u :: _ => if k.lupinReady u then some (u.m, u.by_, u.pc) else none
  | [] => go [] k.mq
where
  /-- The first mmul, with the operations before it. -/
  go : List MatrixRec → List MatrixRec → Option (MmulRec × Thread × BitVec 48)
    | _, [] => none
    | before, .mmul m th pc _ :: _ =>
      if before.any (fun o => !o.isMmul && o.touches m.ctx m.tile) ∨ (m.done = 0 ∧ k.drainHolds m.ctx m.tile k.nextSeq) then none
      else some (m, th, pc)
    | _, .lrun _ _ _ _ _ _ :: _ => none
    | before, o :: rest => go (before ++ [o]) rest

/-- The first mmul of the queue changed, or taken out when it is complete. -/
def setFirstMmul (m : Option MmulRec) : List MatrixRec → List MatrixRec
  | [] => []
  | .mmul _ th pc seq :: rest => match m with
    | some m => .mmul m th pc seq :: rest
    | none => rest
  | o :: rest => o :: setFirstMmul m rest

/-- The mmul in progress replaced, or taken out when it is complete. -/
def Core.setMmul (k : Core) (m : Option MmulRec) : Core :=
  match k.lmm with
  | u :: rest => { k with lmm := match m with
      | some m => { u with m := m } :: rest
      | none => rest }
  | [] => { k with mq := setFirstMmul m k.mq }

/-- The matrix operations that an overflow of the mmul in progress discards (R86, R124, R126): in TILE mode the context's operations from
that mmul on, in NEST mode those of its lrun and of later ones. -/
def State.dropMatrix (s : State) (c x : Nat) : State :=
  match (s.core c).lmm with
  | u :: _ => s.stopLupin c x u.lrun (some u)
  | [] => s.updCore c (fun k => { k with mq := dropFromMmul x k.mq })

/-- MMUL_CHUNK_DONE (R86): the chunk is added if no entry overflows; otherwise the tile stays as it was, the context's
later matrix operations are discarded and ACC_OVERFLOW is raised. -/
def mmulChunk (c : Nat) (s : State) : State :=
  match (s.core c).currentMmul with
  | none => s
  | some (m, th, pc) =>
    let k := s.ctx c m.ctx
    if (s.core c).frozen.contains m.ctx then s
    else
      let s := s.bump
      let t := if m.done = 0 ∧ !m.acc then Tile.empty else s.tile c m.ctx m.tile
      match s.chunkTile c m.ctx m (if m.fmtb = 7 then s.w2word c (k.w2tid m.tile) else 0) t with
      | .error (r, cc, n) =>
        let s := (s.setTile c m.ctx m.tile t).dropMatrix c m.ctx
        (s.lateFault c m.ctx pc.toNat th (faultOverflow (k.accq m.tile) m t.kdone r cc n)).settleFrees c
      | .ok t' =>
        let s := s.setTile c m.ctx m.tile t'
        let m' := { m with done := m.done + 1 }
        (s.updCore c (fun k => k.setMmul (if m'.done = m.kch then none else some m'))).settleFrees c

/-! ### The matrix slot (R48) -/

/-- X of each stage of a chain in TILE mode: the address register XREG names (R127). -/
def tileXs (k : Ctx) (ch : Nat) : List Nat :=
  (List.range 8).map (fun n => (k.getA (dstage k.chain ch n).xreg).toNat)

/-- An operation enters the matrix queue. -/
def State.enqueueMatrix (s : State) (c : Nat) (f : Nat → MatrixRec) : State :=
  (s.updCore c (fun k => { k with mq := k.mq ++ [f k.nextSeq], nextSeq := k.nextSeq + 1 })).settleFrees c

/-- The matrix slot (R33, R48, R105, R108, R109, R112). -/
def matrixSlot (c x : Nat) (pre : State) (hd : Nat) (h : SlotHdr) (o : MatrixOp) (f : MatrixF) (s : State) :
    Except CoreFault State :=
  let k := pre.ctx c x
  let run := (k.q h).getLsbD 0
  let th := k.tt.getD { launch := 0, index := 0 }
  let ill : CoreFault := fault1 1 4 hd
  match o with
  | .mmul =>
    match mmulIssue c x pre hd f with
    | .error e => if run ∨ e.code = 1 then .error e else .ok s
    | .ok m => if run then .ok (s.enqueueMatrix c (fun q => .mmul m th k.pc q)) else .ok s
  | .mdrain =>
    if k.kmode then .error ill
    else if !run then .ok s
    else if k.accTiles ≤ f.td.toNat then .error (fault1 4 4 f.td.toNat)
    else
      match descAt c x pre 4 (k.getD f.desc.toNat).toNat with
      | .error e => .error e
      | .ok d =>
        match drainIssue c x pre f.td.toNat f.chain.toNat (offAddr (k.getA f.adst.toNat) f.offs) d
            (k.getD f.desc.toNat).toNat (tileXs k f.chain.toNat) none th k.pc with
        | .error e => .error e
        | .ok r => .ok (s.enqueueMatrix c (fun q => .mdrain { r with seq := q }))
  | .mfree =>
    if k.kmode then .error ill
    else if !run then .ok s
    else if k.accTiles ≤ f.td.toNat then .error (fault1 4 4 f.td.toNat)
    else .ok (s.enqueueMatrix c (fun q => .mfree x f.td.toNat q))
  | .lrun =>
    if !k.kmode then .error ill
    else if !run then .ok s
    else .ok (s.enqueueMatrix c (fun q => .lrun x th k.pc (k.getD f.desc.toNat).toNat q hd))

end Sys2Proof.Machine
end

