-- ==== Sys2Proof/Machine/Lupin.lean ====
section
/-!
DEFINITION. Lupin, the loop-nest sequencer (R111 to R126).
-/

namespace Sys2Proof.Machine

/-! ### Reading a chain of tables (R113 to R116) -/

/-- A level descriptor's 64 bytes (R114), and whether its reserved fields are zero. -/
def parseLevel (bs : List Byte) : Level × Bool :=
  let w := wordAt bs 0
  ({ boundM1 := bits w 0 24, pos := bits w 24 3, kind := bits w 28 3, padv := bits w 32 20, chstep := bits w 52 3,
     sa := signed 64 (wordAt bs 8), sb := signed 64 (wordAt bs 0x10), sc := signed 64 (wordAt bs 0x18),
     sx := signed 64 (wordAt bs 0x20) },
   decide (bits w 27 1 = 0 ∧ bits w 31 1 = 0 ∧ bits w 55 9 = 0) && [0x28, 0x30, 0x38].all (fun o => wordAt bs o == 0))

/-- Levels of a kind. -/
def countKind (ls : List Level) (k : Nat) : Nat := (ls.filter (fun l => l.kind = k)).length

/-- The levels of a table are well formed (R115). -/
def levelsOk (n kchl : Nat) (ls : List Level) : Bool :=
  (List.range n).all (fun p => decide ((ls.filter (fun l => l.pos = p)).length = 1)) &&
  ls.all (fun l => decide (l.kind ≤ 4) &&
    match l.kind with
    | 0 => decide (l.padv ≤ 127)
    | 1 => decide (l.padv ≤ 127)
    | 2 => decide (l.padv ≤ 128 * kchl - 1)
    | 3 => decide (l.padv = 0 ∧ l.boundM1 = 1)
    | _ => decide (l.padv = 0)) &&
  [0, 1, 2, 3].all (fun k => decide (countKind ls k ≤ 1)) && decide (countKind ls 4 ≤ 2)

/-- A table read at a window offset: the fault it raises, or the table and the offset of the next (R113, R115, R116). R115 does not list an
STG_OFF or STG_SIZE that is no multiple of 4 KiB: it raises ILLEGAL_DESC like the rest of a malformed table (DESIGN CHOICE, log 45). -/
def State.parseNest (s : State) (c x off : Nat) : Except CoreFault (Nest × Nat) := do
  let k := s.ctx c x
  let bad : CoreFault := fault1 0xB 4 off
  let addrFault (o : Nat) : CoreFault := faultAddress 4 (offsetAddr c k o)
  let read (o : Nat) : Except CoreFault (List Byte) :=
    match windowAddr c k o 64 1 with
    | some a => .ok (s.seenBytes a 64)
    | none => .error (addrFault o)
  let tmpl (o : Nat) : Except CoreFault Desc := do
    let bs ← read o
    match (if o % 64 = 0 then parseDesc bs else none) with
    | some d => return d
    | none => throw bad
  if off % 64 ≠ 0 then throw (addrFault off)
  let hd ← read off
  let w0 := wordAt hd 0
  let n := bits w0 0 3
  let kchl := bits w0 8 12
  let w28 := wordAt hd 0x28
  if n = 0 ∨ n = 7 then throw bad
  let raw ← (List.range n).mapM (fun i => read (off + 64 * (i + 1)))
  let ls := raw.map parseLevel
  let reserved := [bits w0 4 4, bits w0 28 4, bits w0 49 15, wordAt hd 0x10 >>> 32, wordAt hd 0x18 >>> 20, w28 >>> 22,
    wordAt hd 0x30, wordAt hd 0x38]
  if reserved.any (fun v => v ≠ 0) ∨ ls.any (fun l => !l.2) ∨ kchl = 0 then throw bad
  let fmta := bits w28 0 4
  let fmtb := bits w28 4 4
  let trb := bit w0 20
  if !levelsOk n kchl (ls.map (·.1)) ∨ pairPath fmta fmtb = .empty ∨ (fmtBlock fmtb ∧ !trb) then throw bad
  let dA ← tmpl (bits (wordAt hd 8) 0 32)
  let dB ← tmpl (wordAt hd 8 >>> 32)
  let dC ← tmpl (bits (wordAt hd 0x10) 0 32)
  let opOk (d : Desc) : Bool := decide (d.rank = 2 ∧ d.box = [128 * kchl, 128])
  if !opOk dA ∨ !opOk dB ∨ dC.rank ≠ 2 ∨ dC.box ≠ [128, 128] then throw bad
  let w18 := wordAt hd 0x18
  let w20 := wordAt hd 0x20
  if bits w20 0 32 % 4096 ≠ 0 ∨ (w20 >>> 32) % 4096 ≠ 0 then throw bad
  let die := if bit w28 9 then 1 - dieOf c else dieOf c
  return ({ off := off, seqBit := bit w0 3, kchl := kchl, trb := trb, chain := bits w0 21 3, nba := bits w0 24 2,
            nbb := bits w0 26 2, descA := dA, hdrA := none, descB := dB, hdrB := none, descC := dC, hdrC := none,
            regA := bits w18 0 5, regB := bits w18 5 5, regC := bits w18 10 5, regX := bits w18 15 5,
            stgOff := bits w20 0 32, stgSize := w20 >>> 32, fmta := fmta, fmtb := fmtb,
            sig := if bit w28 8 then some (die, bits w28 10 12) else none, levels := ls.map (·.1) },
          64 * bits w0 32 17)

/-- RESOURCE with the DETAIL of R125. -/
def faultResource (kind table level need have_ : Nat) (idx : List Nat) (seq : Nat) : CoreFault :=
  let pair (i : Nat) : Nat := idx.getD i 0 + 2 ^ 24 * idx.getD (i + 1) 0
  { code := 9, slot := 4
    d18 := kind + 2 ^ 4 * table + 2 ^ 8 * level + 2 ^ 16 * (need % 2 ^ 16) + 2 ^ 32 * (have_ % 2 ^ 16)
    d20 := pair 0, d28 := pair 2, d30 := pair 4, d38 := seq }

/-- The size of one staging buffer of an operand (R118). -/
def bufBytes (f kchl : Nat) : Nat := roundUp (operandBytes f kchl) 4096

/-- Bytes a table's staging buffers need (R118). -/
def Nest.stageNeed (t : Nest) : Nat := (t.nba + 1) * bufBytes t.fmta t.kchl + (t.nbb + 1) * bufBytes t.fmtb t.kchl

/-- The header and level descriptors of a chain from a window offset on, by the NEXT fields alone (R113, R125). A chain that comes back to a
table or leaves the window is counted up to its 64th table (DESIGN CHOICE, log 45). -/
def State.chainCount (s : State) (c x : Nat) : Nat → Nat → Nat
  | 0, _ => 0
  | fuel + 1, off =>
    match windowAddr c (s.ctx c x) off 64 1 with
    | none => 0
    | some a =>
      let w := s.seenLe a 8
      let next := 64 * bits w 32 17
      1 + bits w 0 3 + (if next = 0 then 0 else s.chainCount c x fuel next)

/-- The tables of a chain from a window offset, with at most 16 tables and 64 descriptors (R115, R116). `need`: the descriptors of the
whole chain. -/
def State.parseChain (s : State) (c x need : Nat) : Nat → Nat → Nat → Nat → Except CoreFault (List Nest)
  | 0, _, pos, _ => .error (faultResource 3 (pos % 16) 7 need 64 [] 0)
  | fuel + 1, off, pos, ds =>
    match s.parseNest c x off with
    | .error e => .error e
    | .ok (t, next) =>
      let ds := ds + 1 + t.levels.length
      if 64 < ds then .error (faultResource 3 pos 7 need 64 [] 0)
      else if t.stgSize < t.stageNeed ∨ (s.ctx c x).spadSize < t.stgOff + t.stgSize then
        .error (faultResource 2 pos 7 (ceilDiv t.stageNeed 1024) (t.stgSize / 1024) [] 0)
      else if next = 0 then .ok [t]
      else
        match s.parseChain c x need fuel next (pos + 1) ds with
        | .error e => .error e
        | .ok ts => .ok (t :: ts)

/-- A fault of Lupin in lrun `id`: it stops, and the context's later matrix operations are discarded (R124). -/
def State.lupinFault (s : State) (c x id : Nat) (pc : BitVec 48) (th : Thread) (f : CoreFault) : State :=
  ((s.stopLupin c x id none).lateFault c x pc.toNat th f).settleFrees c

/-- The lrun at the head of the matrix queue, past the tiles that wait to be cleared for a new tile-thread. -/
def Core.headLrun (k : Core) : Option MatrixRec :=
  match k.mq.dropWhile MatrixRec.isClear with
  | o@(.lrun _ _ _ _ _ _) :: _ => some o
  | _ => none

/-- LRUN_EXPAND_START (R116): the lrun at the head of the matrix queue is read, checked and begun. -/
def lrunStart (c : Nat) (s : State) : State :=
  match (s.core c).lrun, (s.core c).headLrun with
  | none, some (.lrun x th pc off seq hd) =>
    if (s.core c).frozen.contains x then s
    else
      let k := s.ctx c x
      let s := s.bump
      match s.parseChain c x (s.chainCount c x 64 off) 16 off 0 0 with
      | .error e => s.lupinFault c x seq pc th e
      | .ok ts =>
        match ts with
        | [] => s
        | t :: _ =>
          let r : Lrun :=
            { id := seq, ctx := x, by_ := th, pc := pc, tables := ts, tbl := 0, idx := List.replicate t.levels.length 0,
              changed := 0, ba := (k.getA t.regA).toNat, bb := (k.getA t.regB).toNat, bc := (k.getA t.regC).toNat,
              bx := (k.getA t.regX).toNat, seq := 0, stA := none, stB := none, held := [],
              walked := false, header := hd, sig := t.sig }
          s.updCore c (fun q => { q with lrun := some r })
  | _, _ => s

/-! ### One iteration (R117 to R121) -/

/-- The level at a position. -/
def Nest.at_ (t : Nest) (p : Nat) : Option Level := t.levels.find? (fun l => l.pos = p)
/-- The level of a kind. -/
def Nest.kind? (t : Nest) (k : Nat) : Option Level := t.levels.find? (fun l => l.kind = k)
/-- The index of a level in an iteration vector. -/
def idxOf (idx : List Nat) (l : Level) : Nat := idx.getD l.pos 0

/-- An address at an iteration: the sums of R117, modulo 2^48. -/
def Nest.addrAt (t : Nest) (idx : List Nat) (base : Nat) (f : Level → Int) : Nat :=
  unsigned 48 (t.levels.foldl (fun a l => a + idxOf idx l * f l) (base : Int))

/-- The extent of a level: the template's, or PADV in the level's last iteration (R117). -/
def padExtent (l : Option Level) (idx : List Nat) (tmpl : Nat) : Nat :=
  match l with
  | some l => if l.padv ≠ 0 ∧ idxOf idx l = l.boundM1 then l.padv else tmpl
  | none => tmpl

/-- kch of an iteration (R117). -/
def Nest.kchAt (t : Nest) (idx : List Nat) : Nat :=
  match t.kind? 2 with
  | some l => if l.padv ≠ 0 ∧ idxOf idx l = l.boundM1 then ceilDiv l.padv 128 else t.kchl
  | none => t.kchl

/-- The next iteration vector, highest POS fastest, with the outermost position that changed; none after the last. -/
def nextIdx (t : Nest) : Nat → List Nat → Option (List Nat × Nat)
  | 0, _ => none
  | p + 1, idx =>
    match t.at_ p with
    | some l =>
      if idxOf idx l < l.boundM1 then some (idx.set p (idxOf idx l + 1), p)
      else nextIdx t p (idx.set p 0)
    | none => none

/-- The key of an output: the indices of every level other than K and PAIR (R117, R119). -/
def Nest.key (t : Nest) (tbl : Nat) (idx : List Nat) : List Nat :=
  tbl :: (List.range t.levels.length).map (fun p => match t.at_ p with
    | some l => if l.kind = 2 ∨ l.kind = 3 then 0 else idx.getD p 0
    | none => 0)

/-- The first handle after the last assigned one that is not held (R119). `n`: handles; `used`: those held. -/
def nextFree (n last : Nat) (used : List Nat) : Option Nat :=
  ((List.range n).map (fun i => (last + 1 + i) % n)).find? (fun h => !used.contains h)

/-- The first aligned pair after the last assigned handle with neither handle held (R119): its even handle. -/
def nextPair (n last : Nat) (used : List Nat) : Option Nat :=
  ((List.range n).map (fun i => (last + 1 + i) % n)).find? (fun h => h % 2 == 0 && decide (h + 1 < n) && !used.contains h && !used.contains (h + 1))

/-- The handles an lrun holds (R119). -/
def Lrun.heldTiles (l : Lrun) : List Nat := l.held.flatMap (fun h => if h.2.2 = 1 then [h.2.1, h.2.1 + 1] else [h.2.1])

/-- A staged load (R118): the mover operation of Lupin for one operand, or its fault. -/
def lupinLoad (c : Nat) (s : State) (l : Lrun) (d : Desc) (doff src dst kch v0 v1 : Nat) : Except CoreFault MoverRec :=
  let d' := { d with box := [128 * kch, 128], valid := [v0, v1] }
  match moverCheck c l.ctx s 4 .tld d' doff src dst with
  | .error e => .error e
  | .ok (h, fmt) =>
    .ok { seq := 0, ctx := l.ctx, by_ := l.by_, op := .tld, tag := none, sig := none, pc := l.pc, src := src, dst := dst,
          desc := d', hdr := h, w2 := if isW2tid (hdrTid h) then s.w2word c (hdrTid h) else 0, fmt := fmt,
          part := s.partOf c l.ctx }

/-- stage() of R117 for one operand: the buffer to read, the load to issue if one is needed. `nb`: buffers; `first`:
the window offset of buffer 0; `size`: its size. -/
def stageOp (prev : Option Staged) (addr v0 v1 nb : Nat) : Nat × Bool :=
  match prev with
  | some p => if p.addr = addr ∧ p.v0 = v0 ∧ p.v1 = v1 then (p.buf, false) else ((p.buf + 1) % nb, true)
  | none => (0, true)

/-- A load enters the load mover's queue for Lupin; the staged record of its operand. -/
def State.stageLoad (s : State) (c : Nat) (m : MoverRec) (addr v0 v1 buf : Nat) : State × Staged :=
  let q := (s.core c).nextSeq
  (s.enqueueMover c m, { addr := addr, v0 := v0, v1 := v1, buf := buf, load := q })

/-- Loads of Lupin in a core's load mover queue (R118). -/
def Core.lupinLoads (k : Core) : Nat := (k.lmq.filter (fun m => m.tag = none)).length

/-- Drains of an lrun that are not written yet. -/
def Core.lrunDrains (k : Core) (id : Nat) : Bool :=
  k.drains.any (fun d => d.lrun = some id) || k.writing.any (fun r => r.d.lrun = some id) ||
  (match k.drain with
    | some r => r.d.lrun == some id
    | none => false)

/-- The lrun moves to its next iteration, table or end (R117). -/
def Lrun.advance (l : Lrun) (t : Nest) : Lrun :=
  match nextIdx t t.levels.length l.idx with
  | some (i, p) => { l with idx := i, changed := p }
  | none =>
    match l.tables[l.tbl + 1]? with
    | some t' => { l with tbl := l.tbl + 1, idx := List.replicate t'.levels.length 0, changed := 0, stA := none, stB := none }
    | none => { l with walked := true }

/-- The core with an lrun after an iteration: once it is walked, it leaves the head of the queue and waits for its mmuls and drains, and
Lupin can begin the next (R122). -/
def Core.putLrun (k : Core) (l : Lrun) : Core :=
  if l.walked then
    { k with lrun := none, mq := k.mq.filter (fun o => !(o.ctx == l.ctx && o.seq == l.id && !o.isClear)),
             tail := k.tail ++ [(l.id, l.ctx, l.by_, l.sig)] }
  else { k with lrun := some l }

/-- The tile an iteration holds for its output: the lrun and context with the handle assigned, or none where no
handle or aligned pair is free (R117, R119). -/
def holdTile (k : Ctx) (l : Lrun) (key : List Nat) (pair opens : Bool) : Option (Lrun × Ctx × Nat) :=
  if opens then
    if pair then
      match nextPair k.accTiles k.lastHandle l.heldTiles with
      | some h => some ({ l with held := (key, h, 1) :: l.held }, { k with lastHandle := h + 1 }, h)
      | none => none
    else
      match nextFree k.accTiles k.lastHandle l.heldTiles with
      | some h => some ({ l with held := (key, h, 0) :: l.held }, { k with lastHandle := h }, h)
      | none => none
  else
    match l.held.find? (fun h => h.1 = key) with
    | some h => some (l, k, h.2.1)
    | none => none

/-- The lrun no longer holds an output once Lupin has issued its drain; a partner tile that the drain does not read stays held to the end of
the lrun (R119). -/
def Lrun.release (l : Lrun) (key : List Nat) (pair reads : Bool) : Lrun :=
  { l with held := if pair && !reads then l.held.map (fun h => if h.1 = key then ([], h.2.1, 2) else h) else l.held.filter (fun h => h.1 ≠ key) }

/-- The spans meet. -/
def meets (a n b m : Nat) : Bool := decide (a < b + m ∧ b < a + n)

/-- The staging areas of an lrun on a core, as first and last byte of its scratchpad (R118, R122). -/
def Lrun.areas (l : Lrun) (base : Nat) : List (Nat × Nat) := l.tables.map (fun t => (base + t.stgOff, base + t.stgOff + t.stgSize))

/-- A load into `n` bytes at offset `off` of context `x`'s window must wait: an mmul of the same lrun that has not completed reads there
(R118), or mmuls of an earlier lrun remain whose staging area meets that of this one (R122). -/
def Core.loadWaits (k : Core) (l : Lrun) (base off n : Nat) : Bool :=
  k.lmm.any (fun u =>
    if u.lrun = l.id then
      meets off n u.m.a (operandBytes u.m.fmta u.m.kch) || meets off n u.m.b (operandBytes u.m.fmtb u.m.kch)
    else u.areas.any (fun a => (l.areas base).any (fun b => decide (a.1 < b.2 ∧ b.1 < a.2))))

/-- One iteration of Lupin, read from its table and iteration vector (R117 to R119): addresses of the operands and outputs, valid extents,
the chunks, the staging buffers with their offsets in the context's window, and the place of the iteration in its output. -/
structure LupinVec where
  pa : Nat
  pb : Nat
  pc : Nat
  px : Nat
  kch : Nat
  av0 : Nat
  av1 : Nat
  bv0 : Nat
  bv1 : Nat
  first : Bool                         -- the first iteration of the output's K loop
  last : Bool                          -- its last
  paired : Bool                        -- the table pairs tiles
  pairIx : Nat
  bufA : Nat
  bufB : Nat
  loadA : Bool
  loadB : Bool
  sizeA : Nat
  sizeB : Nat
  offA : Nat
  offB : Nat

/-- The iteration an lrun is at. -/
def Lrun.vec (l : Lrun) (t : Nest) : LupinVec :=
  let idx := l.idx
  let kl := t.kind? 2
  let pa := t.addrAt idx l.ba (·.sa)
  let pb := t.addrAt idx l.bb (·.sb)
  let av0 := padExtent kl idx (t.descA.valid.getD 0 0)
  let av1 := padExtent (t.kind? 0) idx (t.descA.valid.getD 1 0)
  let bv0 := padExtent kl idx (t.descB.valid.getD 0 0)
  let bv1 := padExtent (t.kind? 1) idx (t.descB.valid.getD 1 0)
  let oA := stageOp l.stA pa av0 av1 (t.nba + 1)
  let oB := stageOp l.stB pb bv0 bv1 (t.nbb + 1)
  let sizeA := bufBytes t.fmta t.kchl
  let sizeB := bufBytes t.fmtb t.kchl
  { pa := pa, pb := pb, pc := t.addrAt idx l.bc (·.sc), px := t.addrAt idx l.bx (·.sx), kch := t.kchAt idx,
    av0 := av0, av1 := av1, bv0 := bv0, bv1 := bv1
    first := (match kl with
      | some q => idxOf idx q == 0
      | none => true)
    last := (match kl with
      | some q => idxOf idx q == q.boundM1
      | none => true)
    paired := (t.kind? 3).isSome
    pairIx := (match t.kind? 3 with
      | some q => idxOf idx q
      | none => 0)
    bufA := oA.1, bufB := oB.1, loadA := oA.2, loadB := oB.2, sizeA := sizeA, sizeB := sizeB
    offA := t.stgOff + oA.1 * sizeA, offB := t.stgOff + (t.nba + 1) * sizeA + oB.1 * sizeB }

/-- The iteration opens an output, which needs a tile (R119). -/
def LupinVec.opens (v : LupinVec) : Bool := v.first && (!v.paired || v.pairIx == 0)

/-- The iteration is the last of an output (R117). -/
def LupinVec.closes (v : LupinVec) : Bool := v.last && (!v.paired || v.pairIx == 1)

/-- Lupin waits: a buffer that an unfinished mmul reads (R118), earlier drains under SEQ, no room in the queues, or its context is stopped. -/
def Core.lupinWaits (k : Core) (l : Lrun) (t : Nest) (v : LupinVec) (base : Nat) : Bool :=
  (v.loadA && k.loadWaits l base v.offA v.sizeA) || (v.loadB && k.loadWaits l base v.offB v.sizeB) ||
  (t.seqBit && l.idx.all (· == 0) && k.lrunDrains l.id) || decide (6 < k.lupinLoads ∨ 30 < k.lmq.length) || k.frozen.contains l.ctx

/-- One operand is staged (R117, R118): its load is issued if it needs one. -/
def State.lupinStage (s : State) (c : Nat) (l : Lrun) (d : Desc) (doff addr off kch v0 v1 buf : Nat) (prev : Option Staged) :
    Bool → Except CoreFault (State × Option Staged)
  | false => .ok (s, prev)
  | true =>
    match lupinLoad c s l d doff addr (spadSlot c + (s.ctx c l.ctx).spadBase + off) kch v0 v1 with
    | .error e => .error e
    | .ok m =>
      match s.stageLoad c m addr v0 v1 buf with
      | (s', st) => .ok (s', some st)

/-- The sequence number of a staged operand's load. -/
def stagedLoad : Option Staged → List Nat
  | some st => [st.load]
  | none => []

/-- The iteration's mmul enters Lupin's queue; it waits for the loads of its operands (R118). -/
def State.lupinMul (s : State) (c : Nat) (l : Lrun) (t : Nest) (v : LupinVec) (tile : Nat) (stA stB : Option Staged) : State :=
  let m : MmulRec :=
    { ctx := l.ctx, tile := tile, a := v.offA, b := v.offB, kch := v.kch, fmta := t.fmta, fmtb := t.fmtb, acc := !v.first,
      trb := t.trb, done := 0, nest := some { seq := l.seq, table := l.tbl }, needs := stagedLoad stA ++ stagedLoad stB,
      at_ := (s.core c).nextSeq, issued := none }
  let u : LupinMmul := { m := m, lrun := l.id, by_ := l.by_, pc := l.pc, areas := l.areas (s.ctx c l.ctx).spadBase }
  (s.updCore c (fun q => { q with lmm := q.lmm ++ [u], nextSeq := q.nextSeq + 1 })).updCtx c l.ctx
    (fun k => { k with statMac := k.statMac + BitVec.ofNat 64 (v.av1 * v.bv1 * v.av0) })

/-- The drain of an output, issued with its last mmul (R117, R120), and the lrun that no longer holds the output. -/
def State.lupinDrain (s : State) (c : Nat) (l : Lrun) (t : Nest) (v : LupinVec) (idx : List Nat) (key : List Nat) (tile : Nat) :
    Bool → Except CoreFault (State × Lrun)
  | false => .ok (s, l)
  | true =>
    let chain := (t.chain + t.levels.foldl (fun a q => a + idxOf idx q * q.chstep) 0) % 8
    let dC := { t.descC with valid := [padExtent (t.kind? 1) idx (t.descC.valid.getD 0 0), padExtent (t.kind? 0) idx (t.descC.valid.getD 1 0)] }
    match drainIssue c l.ctx s tile chain v.pc dC t.off (List.replicate 8 v.px) (some l.id) l.by_ l.pc with
    | .error e => .error e
    | .ok d =>
      .ok (s.updCore c (fun q => { q with drains := q.drains ++ [{ d with seq := q.nextSeq }], nextSeq := q.nextSeq + 1 }),
        l.release key v.paired d.pair)

/-- The work of one iteration on its tile: at most one A load, one B load, one mmul and one drain (R117). A W2 table identifier outside
0x8000 to 0x80FF raises ILLEGAL_BUNDLE (R80), with the header word of the lrun's bundle. `l1`, `k1`: the lrun and context that hold the tile. -/
def State.lupinRun (s : State) (c : Nat) (l : Lrun) (t : Nest) (v : LupinVec) (l1 : Lrun) (k1 : Ctx) (tile : Nat) : Except CoreFault State :=
  if t.fmtb = 7 ∧ !isW2tid ((s.ctx c l.ctx).w2tid tile) then .error (fault1 1 4 l.header)
  else
    match (s.setCtx c l.ctx k1).lupinStage c l t.descA t.off v.pa v.offA v.kch v.av0 v.av1 v.bufA l.stA v.loadA with
    | .error e => .error e
    | .ok (s1, stA) =>
      match s1.lupinStage c l t.descB t.off v.pb v.offB v.kch v.bv0 v.bv1 v.bufB l.stB v.loadB with
      | .error e => .error e
      | .ok (s2, stB) =>
        match (s2.lupinMul c l t v tile stA stB).lupinDrain c { l1 with stA := stA, stB := stB, seq := l.seq + 1 } t v l.idx
            (t.key l.tbl l.idx) tile v.closes with
        | .error e => .error e
        | .ok (s3, l3) => .ok (((s3.updCore c (fun q => q.putLrun (l3.advance t))).issueMmuls c).settleFrees c)

/-- LUPIN_ITERATION (R117): one iteration vector is expanded into at most one A load, one B load, one mmul and one
drain. It waits for earlier drains under SEQ, for a buffer that an unfinished mmul reads, and for room in the queues. The mmul waits for its
loads (R118), the drain for its tile's mmuls (R120). Where no tile is free, the launch faults (R119, R125). -/
def lupinIterate (c : Nat) (s : State) : State :=
  match (s.core c).lrun with
  | none => s
  | some l =>
    match l.walked, l.tables[l.tbl]? with
    | false, some t =>
      let k := s.ctx c l.ctx
      let v := l.vec t
      if (s.core c).lupinWaits l t v k.spadBase then s
      else
        match holdTile k l (t.key l.tbl l.idx) v.paired v.opens with
        | none =>
          s.lupinFault c l.ctx l.id l.pc l.by_
            (faultResource 1 l.tbl l.changed (l.heldTiles.length + (if v.paired then 2 else 1)) k.accTiles l.idx l.seq)
        | some (l1, k1, h0) =>
          match s.lupinRun c l t v l1 k1 (if v.paired then h0 + v.pairIx else h0) with
          | .ok s' => s'
          | .error e => s.lupinFault c l.ctx l.id l.pc l.by_ e
    | _, _ => s

/-- LRUN_COMPLETE (R122): the oldest walked lrun whose drains are written completes and signals its semaphore. -/
def lrunComplete (c : Nat) (s : State) : State :=
  match (s.core c).tail.find? (fun l => !(s.core c).lrunDrains l.1 && !(s.core c).lmm.any (fun u => u.lrun == l.1)) with
  | none => s
  | some (id, x, th, sig) =>
    let s := s.updCore c (fun k => { k with tail := k.tail.filter (fun l => l.1 ≠ id) })
    match sig with
    | none => s
    | some (die, i) =>
      if !s.semIn (s.partOf c x) i then s.lateFault c x (s.ctx c x).pc.toNat th (faultRegion 4 (syncWord die i) 0)
      else s.signalBy c x 4 (s.ctx c x).pc th sig

/-- BUSY of LUP_KCFG (R111): an lrun of the context is queued or being expanded. -/
def Core.lupinBusy (k : Core) (x : Nat) : Bool :=
  k.mq.any (fun o => match o with
    | .lrun y _ _ _ _ _ => y == x
    | _ => false) ||
  (match k.lrun with
    | some l => l.ctx == x
    | none => false)

end Sys2Proof.Machine
end

