-- ==== Sys2Proof/Machine/Sync.lean ====
section
/-!
DEFINITION. The sync slot, waits, signals and claims (R51, R56, R61 to R63, R299 to R301), and fabric barriers (R323,
R324).
-/

namespace Sys2Proof.Machine

/-! ### Waits -/

/-- An operation of the load or store mover issued before `n` by context `x` is not complete. -/
def moverBusy (q : List MoverRec) (x n : Nat) : Bool := q.any (fun m => m.ctx == x && decide (m.seq < n))

/-- A matrix operation or drain issued before `n` by context `x` is not complete (R48, R122, R130). -/
def Core.matrixBusy (k : Core) (x n : Nat) : Bool :=
  k.mq.any (fun o => o.ctx == x && !o.isClear && decide (o.seq < n)) ||
  (match k.drain with
    | some r => r.d.ctx == x && decide (r.d.seq < n)
    | none => false) ||
  k.writing.any (fun r => r.d.ctx == x && decide (r.d.seq < n)) ||
  k.tail.any (fun l => l.2.1 == x && decide (l.1 < n))

/-- Every operation of the context issued before `n` in the units of FMASK has completed (R51). -/
def Core.fenceMet (k : Core) (x : Nat) (mask : BitVec 3) (n : Nat) : Bool :=
  (!mask.getLsbD 0 || !moverBusy k.lmq x n) && (!mask.getLsbD 1 || !moverBusy k.smq x n) &&
  (!mask.getLsbD 2 || !k.matrixBusy x n)

/-- The count of every tag in TAGMASK is 0 (R51). -/
def Ctx.tagsMet (k : Ctx) (mask : BitVec 16) : Bool :=
  (List.range 16).all (fun t => !mask.getLsbD t || k.tagCount t == 0)

/-- The context begins to wait. -/
def State.setWait (s : State) (c x : Nat) (w : Wait) : State := s.updCtx c x (fun k => { k with wait := w })

/-- The context is ready again. -/
def State.wake (s : State) (c x : Nat) : State := s.setWait c x .none

/-- Barrier `i` of a partition on a die. -/
def State.bar (s : State) (p die i : Nat) : Bar := tget (fun _ => Bar.reset) s.bars (512 * p + 256 * die + i)
/-- The state with that barrier replaced. -/
def State.setBar (s : State) (p die i : Nat) (b : Bar) : State :=
  { s with bars := tput (fun _ => Bar.reset) s.bars (512 * p + 256 * die + i) b }

/-! ### Claims (R63, R301) -/

/-- A claim of `n` by a context: the base it returns. The reclaim list is served first. -/
def State.takeClaim (s : State) (c x launch die i n : Nat) : Nat × State :=
  let v := s.claim die i
  let rec_ (b m : Nat) : ClaimRec := { core := c, ctx := x, launch := launch, base := b, n := m }
  match v.reclaim with
  | (b, len) :: rest =>
    (b, s.setClaim die i { v with reclaim := rest, recs := rec_ b len :: v.recs.filter (fun r => !(r.core == c && r.ctx == x)) })
  | [] =>
    let b := v.value.toNat
    (b, s.setClaim die i
      { v with value := v.value + BitVec.ofNat 64 n, recs := rec_ b n :: v.recs.filter (fun r => !(r.core == c && r.ctx == x)) })

/-! ### The sync slot (R51) -/

/-- The sync slot (R33, R51, R62, R63, R299, R324). mwait sees the tags of its own bundle's movers; a fence waits for
operations of earlier bundles. -/
def syncSlot (c x : Nat) (pre : State) (h : SlotHdr) (o : SyncOp) (f : SyncF) (s : State) : Except CoreFault State :=
  let k := pre.ctx c x
  let p := pre.partOf c x
  let die := if f.die then 1 - dieOf c else dieOf c
  let i := f.idx.toNat
  let n := syncCount f k
  let out : Except CoreFault State := .error (faultRegion 7 (syncWord die i) 0)
  if !(k.q h).getLsbD 0 then .ok s
  else
    match o with
    | .fence =>
      let b := (pre.core c).nextSeq
      .ok (if (s.core c).fenceMet x f.fmask b then s else s.setWait c x (.fence f.fmask b))
    | .mwait => .ok (if (s.ctx c x).tagsMet f.tagmask then s else s.setWait c x (.tags f.tagmask))
    | .semSig =>
      let g : Signal := { die := die, idx := i, n := n, core := c, ctx := x, by_ := k.tt.getD { launch := 0, index := 0 }, pc := k.pc }
      if pre.semIn p i then .ok { s with signals := s.signals ++ [g] } else out
    | .semWait => if pre.semIn p i then .ok (s.setWait c x (.semWait die i n)) else out
    | .semTake =>
      if pre.semIn p i then
        let v := s.sem die i
        .ok ((s.setSem die i { v with waiters := v.waiters ++ [(c, x)] }).setWait c x (.semTake die i n))
      else out
    | .semRd =>
      if pre.semIn p i then
        let v := (pre.sem die i).value
        let g : SemSeen := { die := die, idx := i, take := false, value := v.toNat }
        .ok (s.updCtx c x (fun t => { t.setS f.rd.toNat (v.setWidth 64) with seen := t.seen ++ [g] }))
      else out
    | .claim =>
      if pre.claimIn p i then
        let (b, s) := s.takeClaim c x (k.launch.getD 0) die i n
        .ok (s.updCtx c x (fun t => t.setS f.rd.toNat (BitVec.ofNat 64 b)))
      else out
    | .fbar =>
      let b := pre.bar p die i
      if 255 ≤ i ∨ !b.inEn then out
      else
        let b := s.bar p die i
        .ok ((s.setBar p die i { b with arrivals := b.arrivals ++ [some (c, x)] }).setWait c x (.barrier p die i))

/-! ### Events of the waits -/

/-- FENCE_SATISFIED (R51). -/
def fenceDone (c x : Nat) (s : State) : State :=
  match (s.ctx c x).wait with
  | .fence m n => if (s.core c).fenceMet x m n ∧ !(s.core c).frozen.contains x then s.wake c x else s
  | _ => s

/-- MWAIT_SATISFIED (R56). -/
def mwaitDone (c x : Nat) (s : State) : State :=
  match (s.ctx c x).wait with
  | .tags m => if (s.ctx c x).tagsMet m ∧ !(s.core c).frozen.contains x then s.wake c x else s
  | _ => s

/-- SEM_WAIT_SATISFIED (R62): as soon as the threshold is met. -/
def semWaitDone (c x : Nat) (s : State) : State :=
  match (s.ctx c x).wait with
  | .semWait die i n => if n ≤ (s.sem die i).value.toNat ∧ !(s.core c).frozen.contains x then s.wake c x else s
  | _ => s

/-- SEM_TAKE_SERVED (R62, R300): the oldest waiting sem.take alone, once its n is met and, on a LOCK semaphore, no
holder exists; the taker becomes the holder, for HOLD_US, where 0 acts as 1 (R299). A context that a pre-emption has stopped takes
nothing. -/
def semTakeDone (die i : Nat) (s : State) : State :=
  let v := s.sem die i
  match v.waiters with
  | [] => s
  | (c, x) :: rest =>
    match (s.ctx c x).wait with
    | .semTake d j n =>
      if d = die ∧ j = i ∧ n ≤ v.value.toNat ∧ (!v.lock || v.hold.isNone) ∧ !(s.core c).frozen.contains x then
        let taker : Hold := { core := c, ctx := x, n := n, since := s.time, us := max 1 v.holdUs.toNat, by_ := (s.ctx c x).tt.getD { launch := 0, index := 0 } }
        let hold := if v.lock then some taker else v.hold
        let s := s.setSem die i { v with value := v.value - BitVec.ofNat 32 n, waiters := rest, hold := hold }
        let g : SemSeen := { die := die, idx := i, take := true, value := n }
        s.updCtx c x (fun k => { k with wait := .none, seen := k.seen ++ [g] })
      else s
    | _ => s

/-- SEM_SIG_APPLY (R62, R300): the k-th signal under way is added at its home. The holder's own signal releases a
hold; a signal that overflows changes nothing there and raises SEM_OVERFLOW at the signaller. -/
def sigApply (k : Nat) (s : State) : State :=
  match s.signals[k]? with
  | none => s
  | some g =>
    let s := { s with signals := s.signals.eraseIdx k }
    match s.semAdd g.die g.idx g.n with
    | some s =>
      let v := s.sem g.die g.idx
      match v.hold with
      | some h => if h.core = g.core ∧ h.ctx = g.ctx then s.setSem g.die g.idx { v with hold := none } else s
      | none => s
    | none => s.lateFault g.core g.ctx g.pc.toNat g.by_ (fault1 5 7 (syncWord g.die g.idx))

/-! ### Opening a barrier (R324) -/

/-- ARRIVE as it acts: 0 acts as 1 (R323). -/
def Bar.need (b : Bar) : Nat := max 1 b.inArrive

/-- The count has been reached on this die. -/
def Bar.full (b : Bar) : Bool := b.inEn && decide (b.need ≤ b.arrivals.length)

/-- The written configuration takes effect (R323): N counts from the enabling. -/
def Bar.applyCfg (b : Bar) : Bar :=
  { b with inEn := b.en, inSpan := b.span, inArrive := b.arrive, epoch := if b.en ∧ !b.inEn then 0 else b.epoch }

/-- A context that waits at a barrier continues, also where a pre-emption saved it. -/
def State.wakeAtBar (s : State) (p die i c x : Nat) : State :=
  let s := if (s.ctx c x).wait = .barrier p die i then s.wake c x else s
  match (s.core c).saved with
  | some v =>
    let ks := v.ctxs.map (fun (y, t) => (y, if y = x ∧ t.wait = .barrier p die i then { t with wait := .none } else t))
    s.updCore c (fun k => { k with saved := some { v with ctxs := ks } })
  | none => s

/-- A barrier opens on one die: its waiting contexts continue, N increases, and the arrivals that reached the count
leave it. -/
def State.openBar (s : State) (p die i : Nat) : State :=
  let b := s.bar p die i
  let s := (b.arrivals.take b.need).foldl (fun s w => match w with
    | some (c, x) => s.wakeAtBar p die i c x
    | none => s) s
  s.setBar p die i ({ b with epoch := b.epoch + 1, arrivals := b.arrivals.drop b.need }).applyCfg

/-- BARRIER_OPEN (R324) of barrier `i` (256 die + index) of partition `p`: every member has counted its arrivals.
`remote`: the members of other modules have. A SPAN with the die axis joins both dies. -/
def barrierOpens (p i : Nat) (remote : Bool) (multi : Nat → Bool) (s : State) : State :=
  let die := i / 256 % 2
  let n := i % 256
  let b := s.bar p die n
  let dies := if bit b.inSpan 0 then [0, 1] else [die]
  if n < 255 ∧ dies.all (fun d => (s.bar p d n).full) ∧ (remote || !multi b.inSpan) then
    dies.foldl (fun s d => s.openBar p d n) s
  else s

end Sys2Proof.Machine
end

