-- ==== Sys2Proof/Machine/Issue.lean ====
section
/-!
DEFINITION. Issue of bundles (R31 to R35, R40, R64, R66), the instruction cache (R59), the start of a tile-thread
(R38, R67 to R69), and the check and switch of a committed table (R180, R181).
-/

namespace Sys2Proof.Machine

/-! ### Executing one bundle -/

/-- What one operation of a bundle does. `pre`: the state in which every slot reads; `hd`: the header word. -/
def slotEffect (c x : Nat) (pre : State) (hd : Nat) (h : SlotHdr) (op : SlotOp) (s : State) : Except CoreFault State :=
  match op with
  | .scalar o f => if ((pre.ctx c x).q h).getLsbD 0 then scalarSlot c x pre o f s else .ok s
  | .mover o f => moverSlot c x pre h o f s
  | .matrix o f => matrixSlot c x pre hd h o f s
  | .vector o f => vectorSlot c x pre h o f s
  | .special o f => specialSlot c x pre hd h o f s
  | .sync o f => syncSlot c x pre h o f s

/-- The slots of a bundle in slot order, all reading `pre`; the first error is that of the lowest slot (log 7). -/
def runSlots (c x : Nat) (pre : State) (hd : Nat) : List (SlotHdr × SlotOp) → State → Except CoreFault State
  | [], s => .ok s
  | (h, op) :: rest, s =>
    match slotEffect c x pre hd h op s with
    | .error e => .error e
    | .ok s => runSlots c x pre hd rest s

/-- Where a bundle goes: the target of the branch that executes, else the next bundle (R45). -/
def nextPc (k : Ctx) (ops : List (SlotHdr × SlotOp)) : BitVec 48 :=
  (ops.findSome? (fun (h, op) => match op with
    | .scalar o f => if (k.q h).getLsbD 0 then branchTo k o f else none
    | _ => none)).getD (k.pc + 128)

/-- An end operation executes (R45). -/
def bundleEnds (k : Ctx) (ops : List (SlotHdr × SlotOp)) : Bool :=
  ops.any (fun (h, op) => match op with
    | .scalar .endOp _ => (k.q h).getLsbD 0
    | _ => false)

/-- The first LC bundle after a pre-emption sets the longest delay that its victim caused (R294, R298). -/
def State.noteLate (s : State) (c : Nat) : State :=
  match (s.core c).victim with
  | none => s
  | some p => (s.updPart p (fun q => { q with maxNs := BitVec.ofNat 32 (max q.maxNs.toNat ((s.time - (s.core c).stopAt) / 8)) })).updCore c
      (fun k => { k with victim := none })

/-- The core records which context issued, and whether its bundle hints yield (R31, R40); each bundle is an occasion of its own for free
values. -/
def State.noteIssue (s : State) (c x hint : Nat) : State :=
  (s.noteLate c).bump.updCore c (fun k => { k with lastCtx := x, lastYield := hint == 1, workSince := s.time })

/-- The partition of a context faults on VAR (R66). -/
def State.varFault (s : State) (c x : Nat) : Bool :=
  match oget s.parts (s.partOf c x) with
  | some p => p.varfault
  | none => false

/-- The tile-thread of a context raises a precise fault: no slot of the bundle writes state, and it ends (R64). -/
def State.preciseFault (s : State) (c x : Nat) (f : CoreFault) : State :=
  match (s.ctx c x).tt with
  | some th => (s.recordFault c x (s.ctx c x).pc.toNat th f).endThread c x
  | none => s

/-- Context `x` issues bundle `b` (R34, R35, R45, R64, R66). -/
def State.issue (s : State) (c x : Nat) (b : Bundle) : State :=
  let k := s.ctx c x
  let s0 := s.noteIssue c x b.hint
  match b.illegal with
  | some n => s0.preciseFault c x (fault1 1 n b.header)
  | none =>
    if b.var ∧ s.varFault c x then s0.preciseFault c x (fault1 6 0 0)
    else
      match runSlots c x s b.header b.ops s0 with
      | .error e => s0.preciseFault c x e
      | .ok t =>
        let t := t.updCtx c x (fun q => { q with pc := nextPc k b.ops })
        if bundleEnds k b.ops then t.endThread c x else t

/-! ### Readiness -/

/-- The context runs a tile-thread, waits for nothing, and no pre-emption holds it (R38, R296). -/
def State.canRun (s : State) (c x : Nat) : Bool :=
  (s.ctx c x).tt.isSome && (s.ctx c x).wait == .none && !(s.core c).frozen.contains x && (s.core c).stop.isNone &&
  (s.core c).power == .run

/-- Entries of the matrix queue that are occupied (R29): every operation issued from a bundle that has not completed. -/
def Core.matrixEntries (k : Core) : Nat := (k.mq.filter (fun o => !o.isClear)).length

/-- The resources an operation needs to issue: an entry of its queue (R56, R48) and tables that are not pending
(R181). -/
def State.opReady (s : State) (c x : Nat) (h : SlotHdr) (op : SlotOp) : Bool :=
  let k := s.ctx c x
  let q := s.core c
  let runs := (k.q h).getLsbD 0
  match op with
  | .mover o _ => !runs || decide ((if isStore o then q.smq else q.lmq).length < 32)
  | .matrix o f => !runs || (decide (q.matrixEntries < 4) &&
      (o != .mmul || f.fmtb.toNat != 7 || !q.pending.getLsbD (tableNo (k.w2tid f.td.toNat))))
  | .special .tblCommit _ => true
  | .special _ f => !q.pending.getLsbD f.prog.toNat
  | _ => true

/-- The bundle can issue now (R35, R40, R56, R181). An illegal bundle can: it raises its fault. -/
def State.bundleReady (s : State) (c x : Nat) (b : Bundle) : Bool :=
  b.illegal.isSome || b.ops.all (fun (h, op) => s.opReady c x h op)

/-- The command of one slot operation: the bundle that holds this one slot issues on context `x` (log 6). -/
def oneSlot (c x : Nat) (h : SlotHdr) (op : SlotOp) (s : State) : State :=
  let b := oneBundle h op
  if s.canRun c x ∧ s.bundleReady c x b then s.issue c x b else s

/-! ### Instruction cache (R29, R59) -/

/-- The bytes of one way that holds line `l`. -/
def wayHit (w : Option (Nat × List Byte)) (l : Nat) : Option (List Byte) :=
  match w with
  | some (a, bs) => if a = l then some bs else none
  | none => none

/-- The way that holds a line, with its bytes. -/
def ICacheSet.find (k : ICacheSet) (l : Nat) : Option (Nat × List Byte) :=
  match wayHit k.w0 l, wayHit k.w1 l, wayHit k.w2 l, wayHit k.w3 l with
  | some b, _, _, _ => some (0, b)
  | _, some b, _, _ => some (1, b)
  | _, _, some b, _ => some (2, b)
  | _, _, _, some b => some (3, b)
  | _, _, _, _ => none

/-- The tree bits after a use of way `w`: each bit on its path points to the other half (log 4: the polarity is the
model's). -/
def touchWay (b : BitVec 3) (w : Nat) : BitVec 3 :=
  let root := decide (w < 2)
  let low := if w < 2 then decide (w = 0) else b.getLsbD 1
  let high := if w < 2 then b.getLsbD 2 else decide (w = 2)
  BitVec.ofNat 3 (b2n root + 2 * b2n low + 4 * b2n high)

/-- The way that the tree bits give up. -/
def victimWay (b : BitVec 3) : Nat :=
  if b.getLsbD 0 then (if b.getLsbD 2 then 3 else 2) else (if b.getLsbD 1 then 1 else 0)

/-- The way a new line takes: an empty one, else the victim. -/
def ICacheSet.room (k : ICacheSet) : Nat :=
  if k.w0.isNone then 0 else if k.w1.isNone then 1 else if k.w2.isNone then 2 else if k.w3.isNone then 3
  else victimWay k.plru

/-- A line placed in its set. -/
def ICacheSet.place (k : ICacheSet) (l : Nat) (bs : List Byte) : ICacheSet :=
  match k.find l with
  | some _ => k
  | none =>
    let w := k.room
    let e := some (l, bs)
    let k := { k with plru := touchWay k.plru w }
    match w with
    | 0 => { k with w0 := e }
    | 1 => { k with w1 := e }
    | 2 => { k with w2 := e }
    | _ => { k with w3 := e }

/-- The set of an instruction line. -/
def Core.iset (k : Core) (l : Nat) : ICacheSet := tget (fun _ => ICacheSet.empty) k.icache (l % 128)
/-- The core with that set replaced. -/
def Core.setIset (k : Core) (l : Nat) (v : ICacheSet) : Core :=
  { k with icache := tput (fun _ => ICacheSet.empty) k.icache (l % 128) v }

/-- A line of instructions that arrives from memory. -/
def State.fillLine (s : State) (c l : Nat) : State :=
  if mappedSpan (512 * l) 512 then s.updCore c (fun k => k.setIset l ((k.iset l).place l (s.seenBytes (512 * l) 512))) else s

/-- ICACHE_LINE_FILL (R59): the missed line and the next sequential line arrive, and the context becomes ready. It
waits while a line it reads is poisoned (R207), and for a refill of the partition's DRAM regulator, which counts both lines; the fetches of
a pre-empting launch until its first bundle are not counted and do not wait (R295). -/
def lineFill (c x : Nat) (s : State) : State :=
  match (s.ctx c x).wait with
  | .line a =>
    let l := a / 512
    let free := (s.core c).victim.isSome
    if s.poisoned (512 * l) 512 ∨ (!free ∧ !s.regOpen (s.partOf c x) 0) then s
    else
      let s := if free then s else s.chargeLines (s.partOf c x) [(512 * l, 1024)]
      ((s.fillLine c l).fillLine c (l + 1)).wake c x
  | _ => s

/-- What a context whose turn it is does in BUNDLE_ISSUE. -/
inductive Fetch where
  | bundle (b : Bundle)
  | miss (a : Nat)
  | noExec (a : Nat)
  | busy
  deriving DecidableEq, Repr

/-- The fetch of a context's next bundle (R30, R59). -/
def State.fetch (s : State) (c x : Nat) : Fetch :=
  let a := (s.ctx c x).pc.toNat
  if !s.canRun c x then .busy
  else if !s.permits (s.partOf c x) a 128 false false true then .noExec a
  else
    match ((s.core c).iset (a / 512)).find (a / 512) with
    | none => .miss a
    | some (_, bs) =>
      let b := decodeBundle ((bs.drop (a % 512)).take 128)
      if s.bundleReady c x b then .bundle b else .busy

/-- The first ready context of a list issues; a miss makes its context wait and the next one is tried. -/
def issueFirst (c : Nat) : List Nat → State → State
  | [], s => s
  | x :: rest, s =>
    match s.fetch c x with
    | .busy => issueFirst c rest s
    | .miss a => issueFirst c rest (s.setWait c x (.line a))
    | .noExec a => (s.noteIssue c x 0).preciseFault c x (faultRegion 0 a 4)
    | .bundle b =>
      let l := (s.ctx c x).pc.toNat / 512
      let s := s.updCore c (fun k =>
        let v := k.iset l
        match v.find l with
        | some (w, _) => k.setIset l { v with plru := touchWay v.plru w }
        | none => k)
      s.issue c x b

/-- BUNDLE_ISSUE (R40). -/
def bundleIssue (c : Nat) (s : State) : State :=
  let k := s.core c
  let after := (List.range 4).map (fun i => (k.lastCtx + 1 + i) % 4)
  issueFirst c (if k.lastYield then after else k.lastCtx :: after.filter (· ≠ k.lastCtx)) s

/-! ### Assignment (R282) -/

/-- An engine is assigned to a partition (R282). -/
def State.engineOf (s : State) (p : Nat) (k : EngineKind) (n : Nat) : Bool :=
  match oget s.parts p with
  | some q => match k with
    | .core => q.rcore.getLsbD n || q.score.getLsbD n
    | .fox => q.rfox.getLsbD n || q.sfox.getLsbD n
    | .prim => q.rprim.getLsbD n || q.sprim.getLsbD n
  | none => false

/-- An engine is shared by a partition (R282). -/
def State.engineShared (s : State) (p : Nat) (k : EngineKind) (n : Nat) : Bool :=
  match oget s.parts p with
  | some q => match k with
    | .core => q.score.getLsbD n
    | .fox => q.sfox.getLsbD n
    | .prim => q.sprim.getLsbD n
  | none => false

/-! ### The start of a tile-thread (R38, R67 to R69) -/

/-- Logical cores of a mask, ascending. -/
def maskList (n m : Nat) : List Nat := (List.range n).filter (bit m)

/-- The registers of R38 for tile-thread `i` of launch `l`. -/
def Ctx.startThread (k : Ctx) (key : Nat) (l : Launch) (i : Nat) : Ctx :=
  { k with
    s := [], a := [], v := [], p := [], tt := some { launch := key, index := i }, wait := .none, seen := []
    pc := BitVec.ofNat 48 (l.code + l.k.entry)
    d := (List.range 64).foldl (fun t n => tput (fun _ => 0#32) t n (l.dregs.getD n 0)) [] }
  |>.setS 1 (BitVec.ofNat 64 i) |>.setA 1 (BitVec.ofNat 48 l.e.arg)

/-- A context begins tile-thread `i`: it finds its tiles empty, which each becomes once earlier operations have done with it (R38). -/
def State.beginThread (s : State) (c x key i : Nat) : State :=
  match s.launch key with
  | none => s
  | some l =>
    let n := (s.ctx c x).accTiles
    let s := (s.updCtx c x (fun k => k.startThread key l i)).updLaunch key (fun l => { l with begun := l.begun + 1 })
    (s.updCore c (fun k =>
      { k with mq := k.mq ++ (List.range n).map (fun t => MatrixRec.clear x t k.nextSeq), nextSeq := k.nextSeq + 1, workSince := s.time })).settleFrees c

/-- Tile-threads of a launch. -/
def LaunchE.total (e : LaunchE) : Nat := e.e0 * e.e1 * e.e2 * e.e3

/-- The context has no further tile-thread of its launch. -/
def State.exhaust (s : State) (c x key : Nat) : State :=
  s.updLaunch key (fun l => { l with exhausted := if l.exhausted.contains (4 * c + x) then l.exhausted else l.exhausted ++ [4 * c + x] })

/-- TILE_THREAD_START (R68, R69): a free context of a started launch begins its next tile-thread, in fixed or in claim
distribution. A core that is no longer assigned to the partition begins no further one (R282). -/
def threadStart (c x key : Nat) (s : State) : State :=
  let k := s.ctx c x
  match s.launch key with
  | none => s
  | some l =>
    if k.launch ≠ some key ∨ k.tt.isSome ∨ !l.started ∨ l.killed ∨ l.again.contains (c, x) ∨ l.exhausted.contains (4 * c + x) ∨
        (s.core c).frozen.contains x ∨ (s.core c).stop.isSome ∨ (s.core c).power ≠ .run ∨ !s.engineOf l.part .core c then s
    else if l.e.dist then
      if k.chunkNext < k.chunkEnd then
        (s.updCtx c x (fun k => { k with chunkNext := k.chunkNext + 1 })).beginThread c x key k.chunkNext
      else
        let n := l.e.claimChunk
        let (b, s) := s.takeClaim c x key l.e.claimDie l.e.claimIdx n
        if l.e.total ≤ b then s.exhaust c x key
        else ((s.updCtx c x (fun k => { k with chunkNext := b + 1, chunkEnd := min (b + n) l.e.total })).updLaunch key (fun l =>
          { l with shares := l.shares ++ [(4 * c + x, b, n)] })).beginThread c x key b
    else
      let cores := maskList 128 l.e.mask
      let i := k.k * cores.length + cores.idxOf c
      if i < l.e.total then
        (s.updCtx c x (fun k => { k with k := k.k + l.e.ctxs })).beginThread c x key i
      else s.exhaust c x key

/-! ### Committed tables (R180, R181) -/

/-- The bank of a table that is not active. -/
def Core.otherBank (k : Core) (no : Nat) : Nat := 1 - k.bank no

/-- A mover operation writes into bank `b` of core `c`'s table window. -/
def MoverRec.writesBank (m : MoverRec) (c b : Nat) : Bool :=
  let w := tableWindow c
  let hit (lo len : Nat) : Bool := m.destSpans.any (fun (a, n) => decide (a < lo + len ∧ lo < a + n))
  hit (w + 0x8000 * b) 0x8000 || hit (w + 0x10000 + 0x10000 * b) 0x10000 || hit (w + 0x30000 + 0x400 * b) 0x400

/-- An mmul reads code table `no`. -/
def State.mmulReads (s : State) (c : Nat) (m : MmulRec) (no : Nat) : Bool :=
  m.fmtb == 7 && tableNo ((s.ctx c m.ctx).w2tid m.tile) == no

/-- Operations issued before a commit still use the old bank or write the new one (R181): mover writes, mmuls, which read a code table, and
drains, until they have read their tables. -/
def State.tableUsed (s : State) (c : Nat) (t : Commit) : Bool :=
  let k := s.core c
  let early (q : List MoverRec) : Bool := q.any (fun m => decide (m.seq < t.seq) && m.writesBank c (k.otherBank t.table))
  early k.lmq || early k.smq ||
  k.mq.any (fun o => decide (o.seq < t.seq) && match o with
    | .mmul m _ _ _ => s.mmulReads c m t.table
    | .mdrain d => s.drainTable c d t.table
    | _ => false) ||
  k.lmm.any (fun u => (match u.m.issued with
    | some q => decide (q < t.seq)
    | none => false) && s.mmulReads c u.m t.table) ||
  k.drains.any (fun d => decide (d.seq < t.seq) && s.drainTable c d t.table) ||
  (match k.drain with
    | some r => decide (r.d.seq < t.seq) && s.drainTable c r.d t.table
    | none => false)

/-- A commit leaves the pending state. -/
def Core.dropCommit (k : Core) (no : Nat) : Core :=
  { k with pending := k.pending &&& ~~~(1#512 <<< no), commits := k.commits.filter (fun t => t.table ≠ no) }

/-- TBL_CHECK_DONE (R180): a record that passes may switch; one that fails raises ILLEGAL_BUNDLE, and the pending
state is cleared. -/
def checkDone (c no : Nat) (s : State) : State :=
  match (s.core c).commits.find? (fun t => t.table = no ∧ !t.passed) with
  | none => s
  | some t =>
    if s.commitOk c no then
      s.updCore c (fun k => { k with commits := k.commits.map (fun t => if t.table = no then { t with passed := true } else t) })
    else
      let s := (s.updCore c (fun k => k.dropCommit no)).issueMmuls c
      match t.ctx with
      | some x => s.lateFault c x t.pc.toNat t.by_ (fault1 1 6 t.header)
      | none => s

/-- TABLE_SWITCH (R181): the active bank flips and the pending bit clears once every earlier user has finished. -/
def tableSwitch (c no : Nat) (s : State) : State :=
  match (s.core c).commits.find? (fun t => t.table = no ∧ t.passed) with
  | none => s
  | some t =>
    if s.tableUsed c t then s
    else (s.updCore c (fun k => { (k.dropCommit no) with active := k.active ^^^ (1#512 <<< no) })).issueMmuls c

end Sys2Proof.Machine
end

