-- ==== Sys2Proof/Machine/Cp.lean ====
section
/-!
DEFINITION. The control processor: address words and host memory (R259, R414), interrupts (R413), telemetry events
(R262), and how a command is accepted, started and completed (R258 to R267, R271, R274, R278).
-/

namespace Sys2Proof.Machine

/-! ### Functions and host memory (R402, R413, R414) -/

/-- Function `p`, bound to partition `p`. -/
def State.func (s : State) (p : Nat) : Func := tget (fun _ => Func.reset) s.funcs p
/-- The state with a function replaced. -/
def State.setFunc (s : State) (p : Nat) (f : Func) : State := { s with funcs := tput (fun _ => Func.reset) s.funcs p f }
/-- The function exists on the link: the PF always, a VF when it is enabled (R402). -/
def State.funcHere (s : State) (p : Nat) : Bool := p == 0 || (s.func p).enabled
/-- The module may write and read host memory for function `p` now (R403, R414). -/
def State.hostOpen (s : State) (p : Nat) : Bool := s.linkUp && s.funcHere p && (s.func p).busMaster

/-- Host memory of a function. -/
def State.hostMem (s : State) (p : Nat) : Tab Byte := tget (fun _ => []) s.host p
/-- Bytes of host memory. -/
def State.hostBytes (s : State) (p a n : Nat) : List Byte := (List.range n).map (fun i => tget (fun _ => 0#8) (s.hostMem p) (a + i))
/-- Bytes written to host memory. -/
def putBytes (m : Tab Byte) (a : Nat) : List Byte → Tab Byte
  | [] => m
  | b :: bs => putBytes (tput (fun _ => 0#8) m a b) (a + 1) bs
/-- Host memory of a function written. -/
def State.hostWrite (s : State) (p a : Nat) (bs : List Byte) : State :=
  { s with host := tput (fun _ => []) s.host p (putBytes (s.hostMem p) a bs) }

/-- An address word names host memory (R259). -/
def awHost (w : W64) : Bool := w.getLsbD 63
/-- The address in an address word. -/
def awAddr (w : W64) : Nat := if awHost w then w.toNat % 2 ^ 63 else w.toNat % 2 ^ 48

/-- The check of an address word for `n` bytes on behalf of partition `p` (R259): bus master enable, or the region map
with the needed permission and bits [62:48] zero. In a table window W permits only the writes of R175 (R212). -/
def State.awOk (s : State) (p : Nat) (w : W64) (n : Nat) (rd wr : Bool) : Bool :=
  if awHost w then (s.func p).busMaster && s.funcHere p
  else decide (w.toNat / 2 ^ 48 % 2 ^ 15 = 0) && s.permits p (awAddr w) n rd wr false && (!wr || noWindow (awAddr w) n)

/-- The check of a structure's address word: also 64 B aligned (R259). -/
def State.awBlock (s : State) (p : Nat) (w : W64) (n : Nat) (rd wr : Bool) : Bool :=
  decide (awAddr w % 64 = 0) && s.awOk p w n rd wr

/-- Bytes at an address word. -/
def State.awBytes (s : State) (p : Nat) (w : W64) (n : Nat) : List Byte :=
  if awHost w then s.hostBytes p (awAddr w) n else s.bytes (awAddr w) n

/-- Bytes written at an address word. -/
def State.awWrite (s : State) (p : Nat) (w : W64) (bs : List Byte) : State :=
  if awHost w then s.hostWrite p (awAddr w) bs else s.write (awAddr w) bs

/-- Vector `v` of a function. -/
def Func.vector (f : Func) (v : Nat) : Vector := tget (fun _ => Vector.reset) f.vectors v

/-- A source of vector `v` of function `p` becomes due (R413): a message, a pending bit where the vector or the function
is masked, nothing where MSI-X is disabled or the bit is already set. -/
def State.interrupt (s : State) (p v : Nat) : State :=
  let f := s.func p
  if !f.msixEn ∨ f.pending.contains v then s
  else if f.msixMask ∨ (f.vector v).mask then s.setFunc p { f with pending := v :: f.pending }
  else { s with sent := s.sent ++ [.msix p v (f.vector v).addr (f.vector v).data] }

/-! ### Mailboxes -/

/-- Mailbox `m`. -/
def State.mbx (s : State) (m : Nat) : Mbx := tget (fun _ => Mbx.reset) s.mbxs m
/-- The state with a mailbox replaced. -/
def State.setMbx (s : State) (m : Nat) (b : Mbx) : State := { s with mbxs := tput (fun _ => Mbx.reset) s.mbxs m b }
/-- The state with a mailbox changed. -/
def State.updMbx (s : State) (m : Nat) (f : Mbx → Mbx) : State := s.setMbx m (f (s.mbx m))

/-- A session grants a feature (R271). -/
def grants (q : Option Session) (n : Nat) : Bool :=
  match q with
  | some q => q.feats.getLsbD n
  | none => false

/-- A granted feature of a mailbox's session (R271). -/
def Mbx.feat (b : Mbx) (n : Nat) : Bool := grants b.session n

/-- Outstanding commands of a mailbox (R263): in the journal, with the ABORTs that wait for them, or complete and not
posted. -/
def State.outstanding (s : State) (m : Nat) : Nat :=
  (s.journal.map (fun c => if c.m = m then 1 + c.watch.length else 0)).foldl (· + ·) 0 +
  ((s.mbx m).due.filter (fun d => !d.event)).length

/-- Entries that can still be posted in a mailbox's completion ring (R261). -/
def Mbx.room (b : Mbx) : Nat := (b.cmpHead + 4095 - b.cmpTail) % 4096

/-- A telemetry event number is subscribed; numbers above 63 have no bit and are always posted (R279, log 19). -/
def Mbx.wants (b : Mbx) (n : Nat) : Bool := decide (64 ≤ n) || b.telMask.getLsbD n

/-- A telemetry event for a mailbox (R262): due at once while the ring has room beyond one entry for each outstanding
command, else discarded and counted. -/
def State.event (s : State) (m n data : Nat) : State :=
  let b := s.mbx m
  if !b.en ∨ !b.feat 1 ∨ !b.wants n then s
  else if s.outstanding m + (b.due.filter (·.event)).length < b.room then
    let e : CmpEntry :=
      { status := 0, deferred := false, replayed := false, irq := b.feat 0, event := true, tag := 0xFFFFFFFF, code := 0x0AF0,
        slot := 0, r0 := BitVec.ofNat 64 n, r1 := BitVec.ofNat 64 data }
    s.setMbx m { b with due := b.due ++ [e] }
  else s.setMbx m { b with evtLost := b.evtLost + 1 }

/-- An event of the module, for every subscribed mailbox (log 19). -/
def State.eventAll (s : State) (n data : Nat) : State := (List.range 16).foldl (fun s m => s.event m n data) s

/-- A signal or add-back dropped at a semaphore (R62): QE_SEM_LOST and event SEM_LOST. -/
def State.semLost (s : State) (p die i : Nat) : State :=
  (s.updPart p (fun q => { q with semLost := q.semLost + 1 })).event p 0x40 (syncWord die i)

/-- A signal of an agent other than a core, of `n` (R62). -/
def State.signalOr (s : State) (p die i n : Nat) : State :=
  match s.semAdd die i n with
  | some s => s
  | none => s.semLost p die i

/-! ### Marigold (R365, R367) -/

/-- A failure declared by the module: it sends nothing more on the fabric (R365). -/
def State.failModule (s : State) : State := { s with health := { s.health with failed := true } }

/-- A weight is added to E (R367), in units of 2^-32. -/
def State.addRisk (s : State) (n : Nat) : State := { s with health := { s.health with e := s.health.e + n * 2 ^ 32 } }

/-- A message to other modules; a module that has failed sends none (R365). -/
def State.tell (s : State) (m : Sent) : State := if s.health.failed then s else { s with sent := s.sent ++ [m] }

/-! ### Completions (R260, R261, R266, R274) -/

/-- The partition a mailbox belongs to (R256). -/
def Cmd.part (c : Cmd) : Nat := c.m

/-- A parameter word. -/
def Cmd.p (c : Cmd) (j : Nat) : Nat := (c.ps.getD j 0).toNat
/-- A parameter word as an address word. -/
def Cmd.w (c : Cmd) (j : Nat) : W64 := c.ps.getD j 0

/-- The REPLAYED flag as a session shows it (R269, R271). -/
def showsReplay (q : Option Session) (replayed : Bool) : Bool :=
  replayed && match q with
    | some q => decide (0x0102 ≤ q.mbxVer) && q.feats.getLsbD 2
    | none => false

/-- A completion becomes due for its mailbox. -/
def State.due (s : State) (m : Nat) (e : CmpEntry) : State := s.updMbx m (fun b => { b with due := b.due ++ [e] })

/-- The completion entry of a command. Its IRQ counts where the session it was accepted in grants completion interrupts (R261, R271). -/
def Cmd.entry (c : Cmd) (status : Nat) (deferred : Bool) (r0 r1 : Nat) : CmpEntry :=
  { status := if c.late ∧ status = 0 then 2 else status, deferred := deferred, replayed := showsReplay c.sess c.replayed, irq := c.irq && grants c.sess 0,
    event := false, tag := c.tag, code := c.code, slot := c.slot, r0 := BitVec.ofNat 64 r0, r1 := BitVec.ofNat 64 r1 }

/-- The completion of an ABORT. -/
def abortEntry (w : Watch) (status r0 : Nat) : CmpEntry :=
  { status := status, deferred := false, replayed := showsReplay w.sess w.replayed, irq := w.irq && grants w.sess 0, event := false, tag := w.tag, code := 4,
    slot := w.slot, r0 := BitVec.ofNat 64 r0, r1 := 0 }

/-- A command completes (R261, R274): its entry becomes due, and after it those of the ABORTs that waited for it. OPEN_SESSION counts as
accepted in the session that it opens. -/
def State.complete (s : State) (c : Cmd) (status : Nat) (deferred : Bool) (r0 r1 : Nat) : State :=
  let s := { s with journal := s.journal.filter (fun d => !(d.m == c.m && d.slot == c.slot && d.tag == c.tag)) }
  let c := if c.code = 1 ∧ c.sess.isNone then { c with sess := (s.mbx c.m).session } else c
  if c.discard then s
  else
    c.watch.foldl (fun s w => s.due c.m (abortEntry w 0 (if status = 3 then 0 else 1)))
      (s.due c.m (c.entry status deferred r0 r1))

/-- A command passes its commit point with its results fixed; it completes at a later event (R274). -/
def State.commit (s : State) (c : Cmd) (r0 r1 : Nat) : State :=
  { s with journal := s.journal.map (fun d => if d.m = c.m ∧ d.slot = c.slot ∧ d.tag = c.tag then { d with committed := true, r0 := r0, r1 := r1, data := [] } else d) }

/-- The state with a command of the journal changed. -/
def State.updCmd (s : State) (c : Cmd) (f : Cmd → Cmd) : State :=
  { s with journal := s.journal.map (fun d => if d.m = c.m ∧ d.slot = c.slot ∧ d.tag = c.tag then f d else d) }

/-- The command of a mailbox with a tag, if it is outstanding. -/
def State.cmd (s : State) (m tag : Nat) : Option Cmd := s.journal.find? (fun c => c.m = m ∧ c.tag = tag)

/-! ### The command list (R279) -/

/-- What a handler answers when its command starts: a completion, work that goes on in hub engines while the mailbox
goes on, or a wait in place. -/
inductive Reply where
  | done (status r0 r1 : Nat)
  | bg
  | wait
  deriving DecidableEq, Repr

/-- A command's handler. -/
abbrev Handler := Cmd → State → State × Reply

/-- ST_OK without results. -/
def ok : Reply := .done 0 0 0
/-- A refusal. -/
def no (status : Nat) : Reply := .done status 0 0

/-- A row of the command list: parameters, whether it is marked as administrative, and the parameters that name
objects (R264): kind and index of the word. -/
structure CmdRow where
  code : Nat
  params : Nat
  admin : Bool
  objs : List (Nat × Nat)
  deriving DecidableEq, Repr

/-- The rows of the command list (R279), with the objects that R264 names; kinds: 1 table, 2 queue pair, 3 sequence
entry, 4 pool, 5 map, 6 window, 7 Iris session, 8 image, 9 package, 10 tensor object, 11 snapshot. -/
def cmdRows : List CmdRow :=
  ([⟨0x0001, 6, false, []⟩, ⟨0x0002, 0, false, []⟩, ⟨0x0003, 0, false, []⟩, ⟨0x0004, 1, false, []⟩,
     ⟨0x0005, 1, false, []⟩, ⟨0x0006, 0, false, []⟩, ⟨0x0100, 4, false, []⟩, ⟨0x0101, 1, false, []⟩,
     ⟨0x0102, 2, false, []⟩, ⟨0x0103, 1, false, []⟩, ⟨0x0104, 4, false, []⟩, ⟨0x0200, 3, false, []⟩,
     ⟨0x0201, 1, false, [(8, 0)]⟩, ⟨0x0202, 2, false, []⟩, ⟨0x0203, 2, false, [(1, 0)]⟩, ⟨0x0300, 2, true, []⟩,
     ⟨0x0301, 1, true, []⟩, ⟨0x0302, 2, true, []⟩, ⟨0x0303, 2, true, []⟩, ⟨0x0304, 2, false, [(2, 0)]⟩] : List CmdRow) ++
  ([⟨0x0305, 1, false, [(2, 0)]⟩, ⟨0x0306, 2, false, []⟩, ⟨0x0400, 2, false, []⟩, ⟨0x0401, 1, false, [(3, 0)]⟩,
     ⟨0x0402, 2, false, [(3, 0)]⟩, ⟨0x0500, 1, false, []⟩, ⟨0x0501, 1, false, [(4, 0)]⟩,
     ⟨0x0502, 3, false, [(4, 0)]⟩, ⟨0x0503, 3, false, [(4, 0)]⟩, ⟨0x0504, 0, false, []⟩,
     ⟨0x0505, 1, false, [(5, 0)]⟩, ⟨0x0506, 6, false, [(5, 0)]⟩, ⟨0x0507, 5, false, [(5, 0)]⟩,
     ⟨0x0508, 4, false, [(5, 0)]⟩, ⟨0x0509, 1, false, []⟩, ⟨0x0600, 1, true, []⟩, ⟨0x0601, 1, false, []⟩,
     ⟨0x0602, 1, false, []⟩, ⟨0x0603, 4, false, [(10, 0)]⟩, ⟨0x0604, 1, false, [(10, 0)]⟩] : List CmdRow) ++
  ([⟨0x0605, 1, false, [(10, 0)]⟩, ⟨0x0606, 1, false, [(10, 0)]⟩, ⟨0x0607, 1, false, []⟩, ⟨0x0608, 1, false, []⟩,
     ⟨0x0609, 4, false, [(9, 0)]⟩, ⟨0x060A, 1, false, [(9, 0)]⟩, ⟨0x060B, 1, false, [(9, 0)]⟩,
     ⟨0x060C, 3, false, [(9, 0)]⟩, ⟨0x060D, 2, false, [(6, 0)]⟩, ⟨0x060E, 1, false, [(6, 0)]⟩,
     ⟨0x060F, 2, false, []⟩, ⟨0x0700, 1, false, []⟩, ⟨0x0701, 0, false, []⟩, ⟨0x0702, 2, false, []⟩,
     ⟨0x0703, 1, false, [(11, 0)]⟩, ⟨0x0704, 1, false, [(11, 0)]⟩, ⟨0x0705, 3, false, [(11, 0)]⟩,
     ⟨0x0706, 2, false, []⟩, ⟨0x0800, 1, true, []⟩, ⟨0x0801, 0, true, []⟩] : List CmdRow) ++
  ([⟨0x0802, 2, false, []⟩, ⟨0x0803, 1, true, []⟩, ⟨0x0804, 0, false, []⟩, ⟨0x0900, 1, false, []⟩,
     ⟨0x0901, 1, false, [(7, 0)]⟩, ⟨0x0902, 2, false, []⟩, ⟨0x0A00, 1, false, []⟩, ⟨0x0A01, 1, true, []⟩,
     ⟨0x0A02, 1, false, []⟩, ⟨0x0A03, 1, false, []⟩, ⟨0x0B00, 2, true, []⟩, ⟨0x0B01, 2, true, []⟩,
     ⟨0x0B02, 2, false, []⟩, ⟨0x0C00, 2, false, []⟩, ⟨0x0C01, 1, false, []⟩, ⟨0x0C02, 1, true, []⟩] : List CmdRow)

/-- The row of a code. -/
def cmdRow (code : Nat) : Option CmdRow := cmdRows.find? (fun r => r.code = code)

/-- The objects a command names: kind and number; a table is named within its partition. -/
def Cmd.objects (c : Cmd) : List (Nat × Nat × Nat) :=
  match cmdRow c.code with
  | some r => r.objs.map (fun (k, j) => (k, if k = 1 then c.m else 0, c.p j))
  | none => []

/-- The objects a command names, with the package that the window descriptor of WWIN_START names (R225, R264). -/
def State.objectsOf (s : State) (c : Cmd) : List (Nat × Nat × Nat) :=
  c.objects ++ (if c.code = 0x060D then [(9, 0, wordAt (s.awBytes c.m (c.w 1) 64) 0 % 2 ^ 32)] else [])

/-- Query commands, FENCE, ABORT and CLOSE_SESSION are exempt from ST_BUSY (R264): their rows name no object here. -/
def State.busyWith (s : State) (c : Cmd) : Bool :=
  s.journal.any (fun d => d.started && d.bg && !(d.m == c.m && d.slot == c.slot && d.tag == c.tag) &&
    d.objects.any (fun o => (s.objectsOf c).contains o))

/-- The feature a command belongs to (R271, log 22). -/
def cmdFeature (code : Nat) : Option Nat :=
  match code with
  | 0x0803 => some 4
  | 0x0B01 => some 3
  | 0x0A02 | 0x0A03 => some 1
  | _ => none

/-- The page-map edits. -/
def isEdit (code : Nat) : Bool := code == 0x0506 || code == 0x0507 || code == 0x0508

/-- Commands whose commit point is not their start (R274, R438). -/
def lateCommit (c : Cmd) : Bool :=
  [0x0100, 0x0603, 0x0604, 0x0605, 0x0609, 0x060A, 0x0705, 0x0706, 0x0A01, 0x0C01].contains c.code || (isEdit c.code && c.wait)

/-! ### Acceptance (R263) -/

/-- A command entry as the firmware reads it (R258): slot, the 128 bytes' fields, and whether a reserved bit is set. -/
structure CmdEntry where
  slot : Nat
  code : Nat
  wait : Bool
  irq : Bool
  tag : Nat
  ps : List W64
  reserved : Bool
  deriving DecidableEq, Repr

/-- The fields of 128 bytes. -/
def parseEntry (slot : Nat) (bs : List Byte) : CmdEntry :=
  let w := wordAt bs 0
  { slot := slot, code := bits w 0 16, wait := bit w 16, irq := bit w 17, tag := w >>> 32,
    ps := (List.range 15).map (fun j => BitVec.ofNat 64 (wordAt bs (8 + 8 * j))), reserved := decide (bits w 18 14 ≠ 0) }

/-- The status with which acceptance refuses an entry, if it does (R259, R263, R267). `used`: the tag is outstanding or
names a pending edit. -/
def CmdEntry.refusal (e : CmdEntry) (sess : Option Session) (used : Bool) : Option Nat :=
  match cmdRow e.code with
  | none => some 0x10
  | some r =>
    if e.reserved ∨ used ∨ e.tag = 0xFFFFFFFF ∨ (e.ps.drop r.params).any (fun w => w ≠ 0) then some 0x11
    else if sess.isNone ∧ e.code ≠ 1 then some 0x12
    else if e.wait && (!isEdit e.code || (match sess with
      | some q => decide (q.mbxVer < 0x0101)
      | none => true)) then some 0x11
    else none

/-- The journal's record of an entry. -/
def CmdEntry.toCmd (e : CmdEntry) (m : Nat) (sess : Option Session) : Cmd :=
  { m := m, slot := e.slot, code := e.code, wait := e.wait, irq := e.irq, tag := e.tag, ps := e.ps, sess := sess,
    started := false, bg := false, committed := false, late := false, replayed := false, discard := false, watch := [],
    r0 := 0, r1 := 0, data := [] }

/-- The firmware serves a mailbox: start-up is complete, no control-processor reset is in progress, and the mailbox is
enabled (R255, R256, R263). -/
def State.serves (s : State) (m : Nat) : Bool := s.ready && !s.cpRst && (s.mbx m).en

/-- The mailbox takes a further entry (R257, R263). -/
def State.canAccept (s : State) (m : Nat) : Bool :=
  let b := s.mbx m
  s.serves m && !b.disable && decide (s.outstanding m + (b.cmpTail + 4096 - b.cmpHead) % 4096 < 4095)

/-- The first command of a mailbox that has not started, where it can start (R264, R265): no earlier command of the
mailbox waits in place, and CLOSE_SESSION and FENCE wait for every earlier command. -/
def startable (js : List Cmd) (m : Nat) : Option Cmd :=
  let mine := js.filter (fun c => c.m = m)
  let before := mine.takeWhile (fun c => c.started)
  match mine.find? (fun c => !c.started) with
  | none => none
  | some c =>
    if before.any (fun d => !d.bg) ∨ ((c.code = 2 ∨ c.code = 3) ∧ before ≠ []) then none else some c

/-- A command starts (R264, R271, R274, R278). TOBJ_CREATE, whose start programs the flash store, waits for its regulator (R295). -/
def State.startCmd (s : State) (handler : Handler) (c : Cmd) : State :=
  let denied : Bool := (match cmdRow c.code with
    | some r => r.admin && c.m != 0
    | none => false) || (match cmdFeature c.code, c.sess with
      | some n, some q => !q.feats.getLsbD n
      | some _, none => true
      | none, _ => false)
  if denied then s.complete c 0x14 false 0 0
  else if s.busyWith c then s.complete c 0x17 false 0 0
  else if c.code = 0x0602 ∧ !s.regOpen c.m 1 then s
  else
    let c := { c with started := true, committed := !lateCommit c }
    let (s, r) := handler c (s.updCmd c (fun d => { d with started := true, committed := !lateCommit d }))
    match r with
    | .done st r0 r1 => s.complete c st false r0 r1
    | .bg => s.updCmd c (fun d => { d with bg := true })
    | .wait => s

/-! ### ABORT (R274, R275), processed when it is accepted (log 22) -/

/-- What the abort of a started command before its commit point undoes (R274's table), supplied by the families. -/
abbrev Undo := Cmd → State → State

/-- A page-map edit of a mailbox under a tag waits in a queue whose batch has begun: LOCK is set (R156, R274, R275). -/
def State.batchBegun (s : State) (m tag : Nat) : Bool :=
  s.maps.any (fun (_, e) => e.lock && e.queue.any (fun d => d.m == m && d.tag == tag))

/-- ABORT of a tag: of an outstanding command, or of a pending edit. Once the edit's batch has begun, the edit is applied and the ABORT
waits for it (R275); for one with WAIT = 1 that is its commit point (R274). -/
def State.abortCmd (s : State) (undo : Undo) (ab : Cmd) (tag : Nat) : State :=
  let w : Watch := { tag := ab.tag, slot := ab.slot, irq := ab.irq, sess := ab.sess, replayed := false }
  match s.journal.find? (fun c => c.m = ab.m ∧ c.tag = tag) with
  | some t =>
    if !t.started then s.complete { t with watch := t.watch ++ [w] } 3 false 0 0
    else if !t.committed ∧ !s.batchBegun ab.m tag then (undo t s).complete { t with watch := t.watch ++ [w] } 3 false 0 0
    else s.updCmd t (fun d => { d with watch := d.watch ++ [w], late := true })
  | none =>
    let mine (e : MapEdit) : Bool := e.m == ab.m && e.tag == tag
    if s.batchBegun ab.m tag then
      { s with maps := s.maps.map (fun (k, e) =>
          (k, { e with queue := e.queue.map (fun d => if mine d then { d with watch := d.watch ++ [w] } else d) })) }
    else if s.maps.any (fun (_, e) => e.queue.any mine) then
      let maps := s.maps.map (fun (k, e) => (k, { e with queue := e.queue.filter (fun d => !mine d) }))
      ({ s with maps := maps }).due ab.m (abortEntry w 0 0)
    else s.due ab.m (abortEntry w 0x15 0)

/-! ### Posting (R261) -/

/-- The 32 bytes of a completion entry (R260). -/
def CmpEntry.bytes (e : CmpEntry) (phase : Bool) : List Byte :=
  wordsLe
    [BitVec.ofNat 64 (e.status % 65536 + 2 ^ 16 * b2n phase + 2 ^ 17 * b2n e.deferred + 2 ^ 18 * b2n e.replayed + 2 ^ 32 * e.tag),
     BitVec.ofNat 64 (e.code % 65536 + 2 ^ 16 * (e.slot % 4096)), e.r0, e.r1]

/-- The address word of a ring's entry. -/
def ringAt (base : W64) (o : Nat) : W64 := base + BitVec.ofNat 64 o

/-- Entries posted while the ring has room: the state, and whether one of them raises the interrupt. -/
def postAll (m : Nat) : List CmpEntry → State → State × Bool
  | [], s => (s, false)
  | e :: rest, s =>
    let b := s.mbx m
    if b.room = 0 then (s, false)
    else
      let t := (b.cmpTail + 1) % 4096
      let s := (s.awWrite m (ringAt b.cmpBase (32 * b.cmpTail)) (e.bytes b.phase)).updMbx m (fun b =>
        { b with cmpTail := t, phase := if t = 0 then !b.phase else b.phase, due := b.due.drop 1 })
      let (s, irq) := postAll m rest s
      (s, irq || e.irq)

/-- A pending write of EN = 0 takes effect once nothing is outstanding (R257). -/
def State.settleDisable (s : State) (m : Nat) : State :=
  let b := s.mbx m
  if b.disable ∧ s.outstanding m = 0 then s.setMbx m { b with en := false, disable := false, due := [] } else s

/-- COMPLETION_POST (R261): one posting batch of a mailbox. Host rings wait for the link and bus mastering (R403). -/
def State.post (s : State) (m : Nat) : State :=
  let b := s.mbx m
  if !s.ready ∨ s.cpRst ∨ !b.en ∨ (awHost b.cmpBase ∧ !s.hostOpen m) then s
  else
    let (s, irq) := postAll m b.due s
    let s := if irq ∧ b.irqen then s.interrupt m b.vec else s
    s.settleDisable m

end Sys2Proof.Machine
end

