-- ==== Sys2Proof/Machine/Regions.lean ====
section
/-!
DEFINITION. Region maps, granule ownership and grants (R197 to R200, R211 to R215), hot channels (R202), ECC, sparing
and refresh of DRAM (R206 to R210, R434), and the region commands (R279).
-/

namespace Sys2Proof.Machine

/-! ### Ranges of granules -/

/-- The ranges together cover `lo` to `hi`. -/
def rangesCover (rs : List (Nat × Nat)) : Nat → Nat → Nat → Bool
  | 0, _, _ => false
  | fuel + 1, lo, hi =>
    match rs.find? (fun r => decide (r.1 ≤ lo ∧ lo ≤ r.2)) with
    | none => false
    | some r => if hi ≤ r.2 then true else rangesCover rs fuel (r.2 + 1) hi

/-- The ranges cover `lo` to `hi`, searched as often as there are ranges. -/
def covers (rs : List (Nat × Nat)) (lo hi : Nat) : Bool := rangesCover rs (rs.length + 1) lo hi

/-- Two ranges meet. -/
def granulesMeet (a b c d : Nat) : Bool := decide (a ≤ d ∧ c ≤ b)

/-- A range without `lo` to `hi`. -/
def rangeSub (r : Nat × Nat) (lo hi : Nat) : List (Nat × Nat) :=
  if granulesMeet r.1 r.2 lo hi then
    (if r.1 < lo then [(r.1, lo - 1)] else []) ++ (if hi < r.2 then [(hi + 1, r.2)] else [])
  else [r]

/-- What of `lo` to `hi` no range covers. -/
def uncovered (rs : List (Nat × Nat)) (lo hi : Nat) : List (Nat × Nat) :=
  rs.foldl (fun out r => out.flatMap (fun o => rangeSub o r.1 r.2)) [(lo, hi)]

/-- Granules of ranges that lie on a die. -/
def dieGranules (rs : List (Nat × Nat)) (die : Nat) : Nat :=
  (rs.map (fun r => min r.2 (131072 * die + 131071) + 1 - max r.1 (131072 * die))).foldl (· + ·) 0

/-! ### Owners (R212, R464) -/

/-- The ranges a partition owns. -/
def State.ownedBy (s : State) (p : Nat) : List (Nat × Nat) :=
  s.owned.filterMap (fun o => if o.part = p then some (o.baseg, o.lastg) else none)

/-- Another partition owns a granule of the range. -/
def State.ownedElse (s : State) (p lo hi : Nat) : Bool :=
  s.owned.any (fun o => o.part ≠ p ∧ granulesMeet o.baseg o.lastg lo hi)

/-- DRAM granules a partition uses on a die. -/
def State.dramUsed (s : State) (p die : Nat) : Nat := dieGranules (s.ownedBy p) die

/-- The DRAM quota of a partition on a die; partition 0 has what the others leave (R464). -/
def State.dramQuota (s : State) (p die : Nat) : Nat :=
  let dq (q : Part) : Nat := if die = 0 then q.dq0 else q.dq1
  if p = 0 then
    131072 - (s.parts.map (fun (k, q) => if k = 0 then 0 else dq q)).foldl (· + ·) 0
  else
    match oget s.parts p with
    | some q => dq q
    | none => 0

/-- Taking the new granules `rs` stays within the quota of each die. -/
def State.quotaOk (s : State) (p : Nat) (rs : List (Nat × Nat)) : Bool :=
  [0, 1].all (fun d => decide (s.dramUsed p d + dieGranules rs d ≤ s.dramQuota p d))

/-- DRAM bytes set to zero: whole granules, so their poison is cleared too (R207, R214). -/
def State.zero (s : State) (a n : Nat) : State :=
  { s with mem := s.mem.filter (fun (k, _) => !(decide (a ≤ k ∧ k < a + n))), poison := clearPoison s.poison a n }

/-- Granules `lo` to `hi` newly allocated to a partition: owned, zeroed (R212, R214). -/
def State.allocGranules (s : State) (p lo hi : Nat) (save : Bool) : State :=
  let new := uncovered (s.ownedBy p) lo hi
  let s := new.foldl (fun s r => s.zero (r.1 * granule) ((r.2 + 1 - r.1) * granule)) s
  { s with owned := s.owned ++ new.map (fun r => { part := p, baseg := r.1, lastg := r.2, save := save }) }

/-- The parts of a range that no entry of `gone` covers. -/
def keptOf (gone : List (Nat × Nat)) (lo hi : Nat) : List (Nat × Nat) := uncovered gone lo hi

/-- Granules that no region maps any more return to the free pool one by one, with the grants their owner made of them; a save area stays
(R200, R212, R282). -/
def State.settleOwned (s : State) : State :=
  let maps := s.regions.map (fun (_, r) => (r.baseg, r.lastg))
  let s := { s with owned := s.owned.flatMap (fun (o : Own) =>
    if o.save then [o]
    else (keptOf (uncovered maps o.baseg o.lastg) o.baseg o.lastg).map (fun (r : Nat × Nat) => { o with baseg := r.1, lastg := r.2 })) }
  { s with grants := s.grants.flatMap (fun (g : Grant) =>
      (keptOf (uncovered (s.ownedBy g.owner) g.baseg g.lastg) g.baseg g.lastg).map (fun (r : Nat × Nat) => { g with baseg := r.1, lastg := r.2 })) }

/-- HSEL of the granules of a DRAM region (R200). -/
def State.setHsel (s : State) (lo hi : Nat) (h : BitVec 3) : State :=
  { s with hsel := (List.range (hi + 1 - lo)).foldl (fun t i => tput (fun _ => 0#3) t (lo + i) h) s.hsel }

/-- HSEL of a granule. -/
def State.hselAt (s : State) (g : Nat) : BitVec 3 := tget (fun _ => 0#3) s.hsel g

/-! ### The permitted ranges of R212 -/

/-- Granules of DRAM. -/
def dramGranules : Nat := 262144

/-- The range lies wholly in one die's DRAM. -/
def inOneDie (lo hi : Nat) : Bool := decide (hi < dramGranules ∧ lo / 131072 = hi / 131072)

/-- A core is assigned to the partition (R282). -/
def State.coreOf (s : State) (p c : Nat) : Bool :=
  match oget s.parts p with
  | some q => q.rcore.getLsbD c || q.score.getLsbD c
  | none => false

/-- The range covers scratchpad slots of the partition's cores only. -/
def State.inSpads (s : State) (p lo hi : Nat) : Bool :=
  let first := spadSlot 0 / granule
  decide (first ≤ lo ∧ hi < first + 1024) &&
  (List.range 128).all (fun c => !granulesMeet (first + 8 * c) (first + 8 * c + 7) lo hi || s.coreOf p c)

/-- The range lies in the table windows. -/
def inWindows (lo hi : Nat) : Bool := decide (windowBase / granule ≤ lo ∧ hi < windowBase / granule + 16)

/-- The index of an entry of a partition's region map. -/
def regionKey (p i : Nat) : Nat := 1024 * p + i

/-- A region entry of a partition. -/
def State.region (s : State) (p i : Nat) : Option Region := oget s.regions (regionKey p i)

/-- A region of the partition meets the range. -/
def State.overlapsOwn (s : State) (p lo hi : Nat) : Bool := (s.regionsOf p).any (fun r => granulesMeet r.baseg r.lastg lo hi)

/-- The range is granted to a partition by the partitions that own its granules. -/
def State.grantedTo (s : State) (p lo hi : Nat) : Bool :=
  covers (s.grants.filterMap (fun g =>
    if g.grantee = p ∧ covers (s.ownedBy g.owner) g.baseg g.lastg then some (g.baseg, g.lastg) else none)) lo hi

/-- The status with which creating a region over granules `lo` to `hi` is refused, if it is (R200, R212, R279, R280). -/
def State.regionRefusal (s : State) (p i lo hi : Nat) (shared : Bool) (h : BitVec 3) : Option Nat :=
  if 1024 ≤ i ∨ hi < lo ∨ 2 ^ 27 ≤ hi then some 0x11
  else if (s.region p i).isSome then some 0x16
  else
    let dram := inOneDie lo hi
    if !dram ∧ !s.inSpads p lo hi ∧ !inWindows lo hi then some 0x22
    else if !dram ∧ (h ≠ 0 ∨ shared) then some 0x11
    else if s.overlapsOwn p lo hi then some 0x20
    else if !dram then none
    else
      let other (g : Nat) : Bool := s.hselAt g != h
      let gs := (List.range (hi + 1 - lo)).map (lo + ·)
      if shared then
        if covers (s.ownedBy p) lo hi ∨ !s.grantedTo p lo hi ∨ gs.any other then some 0x21 else none
      else if s.ownedElse p lo hi then some 0x21
      else if gs.any (fun g => other g && s.regions.any (fun (_, r) => decide (r.baseg ≤ g ∧ g ≤ r.lastg))) then some 0x23
      else if !s.quotaOk p (uncovered (s.ownedBy p) lo hi) then some 0x18
      else none

/-- A region entry. -/
def mkRegion (r w x shared map : Bool) (h : BitVec 3) (lo hi : Nat) : Region :=
  { r := r, w := w, x := x, shared := shared, map := map, tobj := false, dirty := false, hsel := h, tobjId := 0,
    baseg := lo, lastg := hi, hotch := 0, hotTimes := [], hotEvent := none }

/-- A region is created: granules newly allocated are zeroed before it is visible (R200, R214). -/
def State.addRegion (s : State) (p i : Nat) (r : Region) : State :=
  let s := if inOneDie r.baseg r.lastg ∧ !r.shared then
      (s.allocGranules p r.baseg r.lastg false).setHsel r.baseg r.lastg r.hsel
    else s
  { s with regions := tins s.regions (regionKey p i) r }

/-- A region entry goes; its granules return where nothing maps them. -/
def State.dropRegion (s : State) (p i : Nat) : State :=
  ({ s with regions := tdrop s.regions (regionKey p i) }).settleOwned

/-! ### Operations checked against a region (R215) -/

/-- A span of an operation meets the region. -/
def Region.hit (r : Region) (a n : Nat) : Bool := decide (0 < n) && granulesMeet r.baseg r.lastg (a / granule) ((a + n - 1) / granule)

/-- A mover operation uses the region. -/
def MoverRec.uses (m : MoverRec) (r : Region) : Bool :=
  let (lo, hi) := m.desc.span m.desc.fmt
  let far (a : Nat) : Bool := r.hit ((a : Int) + lo).toNat (hi - lo).toNat
  let dense (a : Nat) : Bool := r.hit a (m.desc.denseBytes m.fmt)
  match m.op with
  | .tld => far m.src || dense m.dst
  | .tldz => dense m.dst
  | .tcpy => far m.src || dense m.dst
  | _ => far m.dst || dense m.src

/-- A drain uses the region. -/
def DrainRec.uses (d : DrainRec) (r : Region) : Bool :=
  let (lo, hi) := d.desc.span d.desc.fmt
  r.hit ((d.dst : Int) + lo).toNat (hi - lo).toNat ||
  (match d.hdr with
    | some h => r.hit h.mapAddr 4 || (if d.desc.fmt = 10 then r.hit d.dst (tileImage h.maxF) else false)
    | none => false)

/-- An operation of the partition that a core issued before the mark `n` uses the region. -/
def Core.regionBusy (k : Core) (p n : Nat) (r : Region) : Bool :=
  let mv (q : List MoverRec) : Bool := q.any (fun m => m.part == p && decide (m.seq < n) && m.uses r)
  let dr (d : DrainRec) : Bool := d.part == p && decide (d.seq < n) && d.uses r
  mv k.lmq || mv k.smq || k.drains.any dr || k.writing.any (fun w => dr w.d) ||
  (match k.drain with
    | some w => dr w.d
    | none => false) ||
  k.mq.any (fun o => match o with
    | .mdrain d => dr d
    | _ => false)

/-- A mailbox command of the partition that works in hub engines reads or writes a span of the region: a load, an import or export, or a write
of a package (R264). -/
def Cmd.uses (c : Cmd) (p : Nat) (r : Region) : Bool :=
  let word (j n : Nat) : Bool := !awHost (c.w j) && r.hit (awAddr (c.w j)) n
  c.part == p && c.started && c.bg &&
  match c.code with
  | 0x0200 => word 0 (c.p 1)
  | 0x0609 => word 3 (c.p 2)
  | 0x0705 => word 1 (c.p 2)
  | 0x0706 => word 0 (c.p 1)
  | _ => false

/-- An operation of the partition issued before the marks and checked against the region has not completed: of a core,
a work item, a job, a copy, a collective, a picture or a background command. -/
def State.regionBusy (s : State) (p : Nat) (marks : List Nat) (r : Region) : Bool :=
  let ofP (l : Nat) : Bool := match s.launch l with
    | some q => q.part == p
    | none => false
  (List.range 128).any (fun c => (s.core c).regionBusy p (marks.getD c 0) r) ||
  s.foxes.any (fun (_, f) => match f.item with
    | some i => ofP i.launch
    | none => false) ||
  s.prims.any (fun (_, e) => match e.job with
    | some j => ofP j.launch
    | none => false) ||
  s.qps.any (fun (_, q) => q.part == p && q.entries.any (fun e => e.ty == 2 && e.started)) ||
  s.cqs.any (fun (k, q) => decide (k / 8 = p) && q.run.isSome) ||
  s.icores.any (fun (_, k) => match k.pic with
    | some q => (match oget s.iris q.sess with
      | some v => v.part == p
      | none => false)
    | none => false) ||
  s.journal.any (fun c => c.uses p r)

/-- The marks at a command. -/
def State.marks (s : State) : List Nat := (List.range 128).map (fun c => (s.core c).nextSeq)

/-- The sparse image of `n` bytes of device memory. -/
def State.capture (s : State) (a n : Nat) : Tab Byte := (s.mem.filter (fun (k, _) => decide (a ≤ k ∧ k < a + n))).map (fun (k, b) => (k - a, b))

/-- REGION_DRAIN_DONE (R215): the change of region `i` of partition `p` takes effect and its command completes; an eviction goes on with the
write-back of the home (R217). -/
def regionDrained (p i : Nat) (s : State) : State :=
  match s.drains.find? (fun d => d.part = p ∧ d.idx = i), s.region p i with
  | some d, some r =>
    if s.regionBusy p d.marks r then s
    else
      let s := { s with drains := s.drains.filter (fun e => !(e.part == p && e.idx == i)) }
      let s := match d.keep with
        | none => s.dropRegion p i
        | some (pr, pw, px) => { s with regions := tins s.regions (regionKey p i) { r with r := pr, w := pw, x := px } }
      match s.cmd d.m d.tag with
      | some c =>
        if c.code = 0x0605 then
          { s with tobjs := oupd s.tobjs r.tobjId.toNat (fun t => { t with state := .writing, copying := s.capture (r.baseg * granule) (t.sizeg * granule) }) }
        else s.complete c 0 false 0 0
      | none => s
  | _, _ => s

/-! ### Region commands (R279) -/

/-- A flag word's bit. -/
def flag (n k : Nat) : Bool := bit n k

/-- REGION_CREATE (R200, R212, R214). -/
def hRegionCreate : Handler := fun c s =>
  let f := c.p 3
  let h := BitVec.ofNat 3 (bits f 4 3)
  if 2 ^ 7 ≤ f then (s, no 0x11)
  else
    match s.regionRefusal c.part (c.p 0) (c.p 1) (c.p 2) (flag f 3) h with
    | some st => (s, no st)
    | none => (s.addRegion c.part (c.p 0) (mkRegion (flag f 0) (flag f 1) (flag f 2) (flag f 3) false h (c.p 1) (c.p 2)), ok)

/-- A region's removal or reduction begins to drain. -/
def State.beginDrain (s : State) (c : Cmd) (i : Nat) (keep : Option (Bool × Bool × Bool)) : State :=
  let d : RegionDrain := { part := c.part, idx := i, keep := keep, m := c.m, tag := c.tag, marks := s.marks }
  { s with drains := s.drains ++ [d] }

/-- REGION_REMOVE (R215). -/
def hRegionRemove : Handler := fun c s =>
  match s.region c.part (c.p 0) with
  | none => (s, no 0x15)
  | some r => if r.tobj ∨ r.map ∨ 1024 ≤ c.p 0 then (s, no 0x16) else (s.beginDrain c (c.p 0) none, .wait)

/-- A home whose tensor object is being loaded or evicted withholds permissions of its own (R216). -/
def State.homeHeld (s : State) (r : Region) : Bool :=
  r.tobj && match oget s.tobjs r.tobjId.toNat with
    | some o => o.state == .loading || o.evict
    | none => false

/-- REGION_PERM (R215): an added permission applies with the command; a removed one after the drain. The home of an object that is being
loaded or evicted accepts no change (R216). -/
def hRegionPerm : Handler := fun c s =>
  let f := c.p 1
  if 8 ≤ f then (s, no 0x11)
  else
    match s.region c.part (c.p 0) with
    | none => (s, no 0x15)
    | some r =>
      if r.map ∨ 1024 ≤ c.p 0 ∨ s.homeHeld r then (s, no 0x16)
      else if (r.r && !flag f 0) || (r.w && !flag f 1) || (r.x && !flag f 2) then
        (s.beginDrain c (c.p 0) (some (flag f 0, flag f 1, flag f 2)), .wait)
      else
        ({ s with regions := tins s.regions (regionKey c.part (c.p 0)) { r with r := flag f 0, w := flag f 1, x := flag f 2 } }, ok)

/-- Word 0x00 of a region entry (R211). -/
def Region.word0 (r : Region) : Nat :=
  1 + 2 * b2n r.r + 4 * b2n r.w + 8 * b2n r.x + 16 * b2n r.shared + 32 * b2n r.map + 64 * b2n r.tobj + 128 * b2n r.dirty +
  256 * r.hsel.toNat + 2 ^ 32 * r.tobjId.toNat

/-- REGION_QUERY. -/
def hRegionQuery : Handler := fun c s =>
  match s.region c.part (c.p 0) with
  | none => (s, no 0x15)
  | some r => (s, if 1024 ≤ c.p 0 then no 0x15 else .done 0 r.word0 r.hotch)

/-- REGION_GRANT (R212). -/
def hRegionGrant : Handler := fun c s =>
  let lo := c.p 0
  let hi := c.p 1
  let q := c.p 2
  if hi < lo ∨ 1 < c.p 3 ∨ 16 ≤ q ∨ q = c.part ∨ (oget s.parts q).isNone then (s, no 0x11)
  else if dramGranules ≤ hi then (s, no 0x22)
  else if !covers (s.ownedBy c.part) lo hi then (s, no 0x21)
  else if c.p 3 = 1 then ({ s with grants := s.grants ++ [{ baseg := lo, lastg := hi, owner := c.part, grantee := q }] }, ok)
  else if (s.regionsOf q).any (fun r => r.shared && granulesMeet r.baseg r.lastg lo hi) then (s, no 0x16)
  else
    ({ s with grants := s.grants.flatMap (fun g =>
        if g.owner = c.part ∧ g.grantee = q then
          (rangeSub (g.baseg, g.lastg) lo hi).map (fun r => { g with baseg := r.1, lastg := r.2 })
        else [g]) }, ok)

/-! ### DRAM (R198 to R210) -/

/-- DRAM controller of a die. -/
def State.die (s : State) (d : Nat) : DramDie := tget (fun _ => DramDie.reset) s.dies d
/-- The state with a die's controller replaced. -/
def State.setDie (s : State) (d : Nat) (v : DramDie) : State := { s with dies := tput (fun _ => DramDie.reset) s.dies d v }
/-- Channel `ch` of a die. -/
def State.chan (s : State) (d ch : Nat) : DramCh := tget (fun _ => DramCh.reset) s.chans (256 * d + ch)
/-- The state with a channel replaced. -/
def State.setChan (s : State) (d ch : Nat) (v : DramCh) : State :=
  { s with chans := tput (fun _ => DramCh.reset) s.chans (256 * d + ch) v }

/-- The rotations of hash matrix `h` (R199). -/
def hashRot (h : Nat) : Nat × Nat × Nat :=
  ([(0, 0, 0), (1, 2, 3), (2, 4, 6), (3, 6, 1), (5, 1, 4), (6, 3, 0), (7, 5, 2), (4, 7, 5)] : List (Nat × Nat × Nat)).getD h (0, 0, 0)

/-- Mask M[h][i] (R199). -/
def hashMask (h i : Nat) : Nat :=
  let (a, b, c) := hashRot h
  2 ^ ((i + a) % 8) + 2 ^ (8 + (i + b) % 8) + 2 ^ (16 + (i + c) % 8)

/-- An odd number of bits among the low `n` is set. -/
def parity (n w : Nat) : Bool := (List.range n).foldl (fun b i => b != bit w i) false

/-- The channel of a die offset under a hash matrix (R198). -/
def channelOf (h off : Nat) : Nat :=
  (List.range 8).foldl (fun ch i => ch ^^^ (b2n (parity 24 ((off >>> 14) &&& hashMask h i)) <<< i)) ((off >>> 6) % 256)

/-- The channel and row of the line at a device address in DRAM (R198, R206): a row is 2 KiB of a channel. -/
def State.rowOf (s : State) (a : Nat) : Nat × Nat :=
  let off := a % dieBytes
  (channelOf (s.hselAt (a / granule)).toNat off, off / 2 ^ 14 / 32)

/-- A second and a day in the model's time (log 1). -/
def second : Nat := 8000000000
/-- 24 hours. -/
def day : Nat := 86400 * second

/-- A row is copied to a spare row, with MEM_SPARE brought up to date; its log starts anew, and a row that stands in a spare row can be spared
again. A channel without spare rows is degraded (R206, R209). -/
def State.spareRow (s : State) (d ch row : Nat) : State :=
  let v := s.chan d ch
  if 1024 ≤ v.spared.length then s.setChan d ch { v with degraded := true }
  else
    let s := (s.setChan d ch { v with spared := row :: v.spared, log := v.log.filter (fun e => e.1 ≠ row),
                                      degraded := decide (1023 ≤ v.spared.length) }).addRisk 256
    let left := 1023 - v.spared.length
    let g := s.die d
    s.setDie d { g with
      spareUsed := g.spareUsed + 1
      minCh := if left < g.minLeft.toNat then BitVec.ofNat 8 ch else g.minCh
      minLeft := if left < g.minLeft.toNat then BitVec.ofNat 11 left else g.minLeft }

/-- A corrected error on the line at an address (R206). -/
def State.eccCorrected (s : State) (a : Nat) : State :=
  let d := a / dieBytes
  let (ch, row) := s.rowOf a
  let g := s.die d
  let v := s.chan d ch
  ((s.setDie d { g with eccCe := g.eccCe + 1 }).setChan d ch { v with log := (row, s.time) :: v.log }).addRisk 4

/-- An uncorrectable error: the line is poisoned and its row spared at once (R207). -/
def State.eccLost (s : State) (a : Nat) : State :=
  let d := a / dieBytes
  let (ch, row) := s.rowOf a
  let g := s.die d
  let s := ((s.setDie d { g with eccUe := g.eccUe + 1 }).spareRow d ch row).addRisk 8192
  { s with poison := if s.poison.contains (lineOf a) then s.poison else lineOf a :: s.poison }

/-- DRAM_ROW_SPARE (R206): a row with 8 corrected errors logged within 24 h. -/
def rowSpare (d ch row : Nat) (s : State) : State :=
  if 8 ≤ ((s.chan d ch).log.filter (fun e => e.1 = row ∧ s.time ≤ e.2 + day)).length then s.spareRow d ch row else s

/-- A line as an error of three or more symbols leaves it, when the code corrects it wrongly or misses it (R205). -/
def State.wrongLine (s : State) (a : Nat) (w : BitVec 512) : State := { s with mem := memPut s.mem a (toLe 64 w.toNat) }

/-- DRAM_PATROL_SCRUB (R208): the next line of the die is read, and what it shows is treated under R206 and R207. Errors of three or more
symbols may be corrected wrongly or missed (R205): the line then holds what they made of it. -/
def patrolScrub (d : Nat) (e : EccFind) (s : State) : State :=
  let g := s.die d
  let a := dieBytes * d + 64 * g.patrol
  let (ch, _) := s.rowOf a
  let s := s.setDie d { g with patrol := (g.patrol + 1) % 2 ^ 32 }
  let s := s.setChan d ch { s.chan d ch with down := false }
  match e with
  | .clean => s
  | .corrected => s.eccCorrected a
  | .uncorrectable => s.eccLost a
  | .miscorrected w => (s.wrongLine a w).eccCorrected a
  | .missed w => s.wrongLine a w

/-- DRAM_REFRESH (R210): the channel's counter moves to its next row, in every module state but Off. -/
def dramRefresh (d ch : Nat) (s : State) : State :=
  let v := s.chan d ch
  if s.mode = .off then s
  else s.setChan d ch { v with refresh := (v.refresh + 1) % 524288 }

/-- DRAM_CHANNEL_POWER_DOWN (R434): refresh and data stay. -/
def chanDown (d ch : Nat) (s : State) : State := s.setChan d ch { s.chan d ch with down := true }

/-- HOTCH of the regions that map a granule rises by 1 at a time; MEM_HOT is posted for a region whose count has risen by 100
within the last second, at most once per second (R202). -/
def State.countHot (s : State) (g : Nat) : State :=
  s.regions.foldl (fun s (k, r) =>
    if r.baseg ≤ g ∧ g ≤ r.lastg then
      let ts := s.time :: r.hotTimes.filter (fun t => s.time < t + second)
      let quiet := match r.hotEvent with
        | some t => decide (t + second ≤ s.time)
        | none => true
      let fire := decide (100 ≤ ts.length) && quiet
      let r := { r with hotch := r.hotch + 1, hotTimes := ts, hotEvent := if fire then some s.time else r.hotEvent }
      let s := { s with regions := tins s.regions k r }
      if fire then s.event (k / 1024) 1 (k % 1024) else s
    else s) s

/-- HOT_WINDOW_END (R202, R204): a window of 16,384 cycles ends in which the busiest channel `ch` served `lines` of
`total` lines, the last of them in granule `gran` of the die. -/
def hotWindow (d ch lines total gran : Nat) (s : State) : State :=
  let s := s.setChan d ch { s.chan d ch with down := (s.chan d ch).down && lines == 0 }
  if 20000 ≤ lines ∧ 8 * total ≤ 256 * lines then
    let g := s.die d
    (s.setDie d { g with hotWin := g.hotWin + 1, hotCh := BitVec.ofNat 8 ch, hotGran := BitVec.ofNat 17 gran }).countHot
      (131072 * d + gran)
  else s

end Sys2Proof.Machine
end

