-- ==== Sys2Proof/Machine/Mailbox.lean ====
section
/-!
DEFINITION. Mailbox registers, acceptance, and the session and region commands (R255 to R271, R279).
-/

namespace Sys2Proof.Machine

/-! ### Registers (R256, R257) -/

/-- A ring base of a mailbox passes its check: `n` bytes of device memory of the partition, or bus mastering. -/
def State.baseOk (s : State) (m : Nat) (w : W64) (n : Nat) (rd wr : Bool) : Bool := s.awOk m w n rd wr

/-- A write of MBX_CTRL (R257). -/
def ctrlWrite (m : Nat) (v : W64) (s : State) : State :=
  let b := s.mbx m
  let on := v.getLsbD 0
  let b1 := { b with irqen := v.getLsbD 1, vec := bits v.toNat 2 11 }
  if on ∧ !b.en then
    if s.baseOk m b.cmdBase 524288 true false ∧ s.baseOk m b.cmpBase 131072 false true then
      s.setMbx m { b1 with en := true, stopped := false, cmdHead := 0, cmdTail := 0, cmpHead := 0, cmpTail := 0, phase := true }
    else s.setMbx m b1
  else (s.setMbx m { b1 with disable := b.en && !on }).settleDisable m

/-- MBX_CTRL_WRITE. -/
def execMbxCtrlWrite (m : Nat) (v : W64) (s : State) : Host.Outcome State Fault Refusal := .next (ctrlWrite m v s)
/-- MBX_CMD_TAIL_WRITE: the doorbell. -/
def execMbxCmdTailWrite (m : Nat) (v : W64) (s : State) : Host.Outcome State Fault Refusal :=
  .next (s.updMbx m (fun b => { b with cmdTail := v.toNat % 4096 }))
/-- MBX_CMP_HEAD_WRITE. -/
def execMbxCmpHeadWrite (m : Nat) (v : W64) (s : State) : Host.Outcome State Fault Refusal :=
  .next (s.updMbx m (fun b => { b with cmpHead := v.toNat % 4096 }))
/-- COMPLETION_POST (R261). -/
def execCompletionPost (m : Nat) (s : State) : Host.Outcome State Fault Refusal := .next (s.post m)

/-- Bits [47:12] and 63 of a ring base: the others read 0. -/
def baseMask : W64 := 0x8000FFFFFFFFF000

/-- A register of a mailbox page by its offset, read (R256). -/
def State.mbxRead (s : State) (m off : Nat) : W64 :=
  let b := s.mbx m
  match off with
  | 0x000 => b.cmdBase
  | 0x008 => b.cmpBase
  | 0x010 => BitVec.ofNat 64 (b2n b.en + 2 * b2n b.irqen + 4 * b.vec)
  | 0x018 => BitVec.ofNat 64 b.cmdTail
  | 0x020 => BitVec.ofNat 64 b.cmdHead
  | 0x028 => BitVec.ofNat 64 b.cmpHead
  | 0x030 => BitVec.ofNat 64 (b.cmpTail + 4096 * b2n b.phase)
  | 0x038 => BitVec.ofNat 64 (b2n s.ready + 2 * b2n s.cpRst + 4 * b2n b.session.isSome + 65536 * s.replays + 2 ^ 32 * b.evtLost.toNat)
  | _ => 0

/-- A register of a mailbox page written: bases only while EN = 0 (R257). -/
def State.mbxWrite (s : State) (m off : Nat) (v : W64) : State :=
  match off with
  | 0x000 => s.updMbx m (fun b => if b.en then b else { b with cmdBase := v &&& baseMask })
  | 0x008 => s.updMbx m (fun b => if b.en then b else { b with cmpBase := v &&& baseMask })
  | 0x010 => ctrlWrite m v s
  | 0x018 => s.updMbx m (fun b => { b with cmdTail := v.toNat % 4096 })
  | 0x028 => s.updMbx m (fun b => { b with cmpHead := v.toNat % 4096 })
  | _ => s

/-! ### Control-processor reset (R255, R266, R273) -/

/-- The control processor restarts: only its own state goes. -/
def cpReset (s : State) : State := { s with cpRst := true, replays := min 0xFFFF (s.replays + 1) }

/-- CP_WATCHDOG_EXPIRE. -/
def execCpWatchdogExpire (s : State) : Host.Outcome State Fault Refusal := .next (cpReset s)
/-- CP_SRAM_UNCORRECTABLE. -/
def execCpSramUncorrectable (s : State) : Host.Outcome State Fault Refusal := .next (cpReset s)
/-- CP_RESTART_DONE: the journal is reloaded, every command in it resumes as a replay, and an installed patch table
takes effect. -/
def execCpRestartDone (s : State) : Host.Outcome State Fault Refusal :=
  .next (if s.cpRst then
    { s with cpRst := false, journal := s.journal.map (fun c => { c with replayed := true, watch := c.watch.map (fun w => { w with replayed := true }) }),
             maps := s.maps.map (fun (k, e) => (k, { e with queue := e.queue.map (fun d => { d with watch := d.watch.map (fun w => { w with replayed := true }) }) })),
             patch := s.nextPatch.getD s.patch, nextPatch := none,
             board := { s.board with patchB := if s.nextPatch.isSome then !s.board.patchB else s.board.patchB } }
  else s)

/-! ### Acceptance (R263) -/

/-- A tag is outstanding in a mailbox, or names a pending edit (R263, R275). -/
def State.tagUsed (s : State) (m tag : Nat) : Bool :=
  s.journal.any (fun c => c.m == m && (c.tag == tag || c.watch.any (fun w => w.tag == tag))) ||
  (s.mbx m).due.any (fun e => !e.event && e.tag == tag) ||
  s.maps.any (fun (_, e) => e.queue.any (fun d => d.m == m && (d.tag == tag || d.watch.any (fun w => w.tag == tag))))

/-- An entry is accepted: refused at once, processed at once (ABORT), or journaled; HEAD passes it. -/
def State.accept (s : State) (undo : Undo) (m : Nat) (e : CmdEntry) : State :=
  let q := (s.mbx m).session
  let c := e.toCmd m q
  match e.refusal q (s.tagUsed m e.tag) with
  | some st => s.due m (c.entry st false 0 0)
  | none =>
    if e.code = 4 then
      if 2 ^ 32 ≤ c.p 0 then s.due m (c.entry 0x11 false 0 0) else s.abortCmd undo c (c.p 0)
    else { s with journal := s.journal ++ [c] }

/-- HEAD passes an entry at ring index `slot`. -/
def State.passHead (s : State) (m slot : Nat) : State :=
  s.updMbx m (fun b => if b.cmdHead = slot then { b with cmdHead := (slot + 1) % 4096 } else b)

/-- The entries between HEAD and TAIL are accepted, up to `n` of them. -/
def acceptAll (undo : Undo) (m : Nat) : Nat → State → State
  | 0, s => s
  | n + 1, s =>
    let b := s.mbx m
    if b.cmdHead = b.cmdTail ∨ !s.canAccept m then s
    else
      let e := parseEntry b.cmdHead (s.awBytes m (ringAt b.cmdBase (128 * b.cmdHead)) 128)
      acceptAll undo m n ((s.accept undo m e).passHead m b.cmdHead)

/-- The mailbox whose turn it is: the first that is served, from `turn` on. -/
def State.nextTurn (s : State) : Option Nat := ((List.range 16).map (fun i => (s.turn + i) % 16)).find? (fun m => s.serves m)

/-- MAILBOX_TURN (R263): the mailbox whose turn it is accepts its entries and starts at most one command. A ring in
host memory is read only while the host can be reached. -/
def State.mailboxTurn (s : State) (undo : Undo) (handler : Nat → Handler) : State :=
  match s.nextTurn with
  | none => s
  | some m =>
    let s := { s with turn := (m + 1) % 16 }
    let b := s.mbx m
    let s := if b.stopped ∨ (awHost b.cmdBase ∧ !s.hostOpen m) then s else acceptAll undo m 4095 s
    match startable s.journal m with
    | some c => s.startCmd (handler c.code) c
    | none => s

/-- A mailbox command by itself: its entry at ring index `h.slot` is accepted and, where acceptance took it and nothing before it stands in
its way, started. -/
def runCmd (m : Nat) (h : CmdHdr) (code : Nat) (ps : List W64) (handler : Handler) (s : State) : State :=
  if !s.canAccept m then s
  else
    let e : CmdEntry :=
      { slot := h.slot.toNat, code := code, wait := h.wait, irq := h.irq, tag := h.tag.toNat, ps := ps, reserved := false }
    let t := s.accept (fun _ s => s) m e
    let taken := decide (s.journal.length < t.journal.length)
    let s := t.passHead m h.slot.toNat
    match startable s.journal m with
    | some c => if taken ∧ c.slot = h.slot.toNat ∧ c.tag = h.tag.toNat then s.startCmd handler c else s
    | none => s

/-! ### Block checks (R259) -/

/-- The status with which the address word of a structure of `n` bytes is refused, if it is. -/
def State.blockRefusal (s : State) (p : Nat) (w : W64) (n : Nat) (rd wr : Bool) : Option Nat :=
  if awAddr w % 64 ≠ 0 then some 0x11 else if !s.awOk p w n rd wr then some 0x1A else none

/-- A handler that reads a parameter block of `n` bytes at parameter `j`. -/
def withPb (j n : Nat) (f : Cmd → List Byte → State → State × Reply) : Handler := fun c s =>
  match s.blockRefusal c.part (c.w j) n true false with
  | some st => (s, no st)
  | none => f c (s.awBytes c.part (c.w j) n) s

/-- A handler that writes a response block at parameter `j`, of `n` bytes. -/
def withResp (j n : Nat) (f : Cmd → State → List Byte × Reply) : Handler := fun c s =>
  match s.blockRefusal c.part (c.w j) n false true with
  | some st => (s, no st)
  | none =>
    let (bs, r) := f c s
    (s.awWrite c.part (c.w j) bs, r)

/-! ### Sessions (R267 to R271) -/

/-- The highest supported version within a range word. -/
def chooseVersion (supported : List Nat) (range : Nat) : Option Nat :=
  (supported.filter (fun v => decide (range % 65536 ≤ v ∧ v ≤ range / 65536))).getLast?

/-- A range word is malformed. -/
def badRange (w : Nat) : Bool := decide (2 ^ 32 ≤ w ∨ w / 65536 < w % 65536)

/-- The ordering code of the part (R2, R270). -/
def orderBytes : List Byte :=
  let code : List Nat := if Config.is16TC then [49, 54] else [48, 56]
  (([89, 90, 57, 54, 48, 45] ++ code ++ [84, 67] : List Nat).map (BitVec.ofNat 8)) ++ List.replicate 6 0#8

/-- The block of R270. -/
def State.infoBlock (s : State) (m : Nat) (q : Session) : List Byte :=
  wordsLe [BitVec.ofNat 64 (q.mbxVer + q.imgVer * 2 ^ 16 + q.pkgVer * 2 ^ 32 + q.snapVer * 2 ^ 48), q.feats] ++ orderBytes ++
  wordsLe [BitVec.ofNat 64 (0x3142 + m * 2 ^ 16 + m * 2 ^ 20), Config.serial,
    BitVec.ofNat 64 (Config.romVer.toNat + s.patch.1 * 2 ^ 32), BitVec.ofNat 64 (b2n s.patch.2)]

/-- OPEN_SESSION. -/
def hOpenSession : Handler := fun c s =>
  if badRange (c.p 1) || badRange (c.p 2) || badRange (c.p 3) || badRange (c.p 4) then (s, no 0x11)
  else
    match s.blockRefusal c.part (c.w 0) 64 false true with
    | some st => (s, no st)
    | none =>
      match chooseVersion [0x0100, 0x0101, 0x0102] (c.p 1), chooseVersion [0x0100, 0x0101] (c.p 2),
          chooseVersion [0x0100] (c.p 3), chooseVersion [0x0100, 0x0101] (c.p 4) with
      | some a, some b, some d, some e =>
        let q : Session := { mbxVer := a, imgVer := b, pkgVer := d, snapVer := e, feats := c.w 5 &&& 0x3F }
        ((s.awWrite c.part (c.w 0) (s.infoBlock c.m q)).updMbx c.m (fun b => { b with session := some q }), ok)
      | _, _, _, _ => (s, no 0x13)

/-- CLOSE_SESSION. -/
def hCloseSession : Handler := fun c s => (s.updMbx c.m (fun b => { b with session := none }), ok)
/-- FENCE. -/
def hFence : Handler := fun _ s => (s, ok)
/-- GET_INFO: of the session open when the entry was accepted. -/
def hGetInfo : Handler := withResp 0 64 (fun c s =>
  match c.sess with
  | some q => (s.infoBlock c.m q, ok)
  | none => ([], no 0x12))
/-- NOP. -/
def hNop : Handler := fun _ s => (s, .done 0 Config.romVer.toNat s.patch.1)

/-- OPEN_SESSION. -/
def execOpenSession (m : Nat) (h : CmdHdr) (resp mbx img pkg snap feats : W64) (s : State) : Host.Outcome State Fault Refusal :=
  .next (runCmd m h 0x0001 [resp, mbx, img, pkg, snap, feats] hOpenSession s)
/-- CLOSE_SESSION. -/
def execCloseSession (m : Nat) (h : CmdHdr) (s : State) : Host.Outcome State Fault Refusal :=
  .next (runCmd m h 0x0002 [] hCloseSession s)
/-- FENCE. -/
def execFenceCommand (m : Nat) (h : CmdHdr) (s : State) : Host.Outcome State Fault Refusal := .next (runCmd m h 0x0003 [] hFence s)
/-- GET_INFO. -/
def execGetInfo (m : Nat) (h : CmdHdr) (resp : W64) (s : State) : Host.Outcome State Fault Refusal :=
  .next (runCmd m h 0x0005 [resp] hGetInfo s)
/-- NOP. -/
def execNop (m : Nat) (h : CmdHdr) (s : State) : Host.Outcome State Fault Refusal := .next (runCmd m h 0x0006 [] hNop s)

/-! ### Region commands and DRAM events -/

/-- REGION_CREATE. -/
def execRegionCreate (m : Nat) (h : CmdHdr) (index baseg lastg flags : W64) (s : State) : Host.Outcome State Fault Refusal :=
  .next (runCmd m h 0x0100 [index, baseg, lastg, flags] hRegionCreate s)
/-- REGION_REMOVE. -/
def execRegionRemove (m : Nat) (h : CmdHdr) (index : W64) (s : State) : Host.Outcome State Fault Refusal :=
  .next (runCmd m h 0x0101 [index] hRegionRemove s)
/-- REGION_PERM. -/
def execRegionPerm (m : Nat) (h : CmdHdr) (index flags : W64) (s : State) : Host.Outcome State Fault Refusal :=
  .next (runCmd m h 0x0102 [index, flags] hRegionPerm s)
/-- REGION_QUERY. -/
def execRegionQuery (m : Nat) (h : CmdHdr) (index : W64) (s : State) : Host.Outcome State Fault Refusal :=
  .next (runCmd m h 0x0103 [index] hRegionQuery s)
/-- REGION_GRANT. -/
def execRegionGrant (m : Nat) (h : CmdHdr) (baseg lastg part enable : W64) (s : State) : Host.Outcome State Fault Refusal :=
  .next (runCmd m h 0x0104 [baseg, lastg, part, enable] hRegionGrant s)
/-- REGION_DRAIN_DONE. -/
def execRegionDrainDone (p i : Nat) (s : State) : Host.Outcome State Fault Refusal := .next (regionDrained p i s)
/-- HOT_WINDOW_END. -/
def execHotWindowEnd (die ch lines total gran : Nat) (s : State) : Host.Outcome State Fault Refusal :=
  .next (hotWindow die ch lines total gran s)
/-- DRAM_ROW_SPARE. -/
def execDramRowSpare (die ch row : Nat) (s : State) : Host.Outcome State Fault Refusal := .next (rowSpare die ch row s)
/-- DRAM_PATROL_SCRUB. -/
def execDramPatrolScrub (die : Nat) (e : EccFind) (s : State) : Host.Outcome State Fault Refusal := .next (patrolScrub die e s)
/-- DRAM_REFRESH. -/
def execDramRefresh (die ch : Nat) (s : State) : Host.Outcome State Fault Refusal := .next (dramRefresh die ch s)
/-- DRAM_CHANNEL_POWER_DOWN. -/
def execDramChannelPowerDown (die ch : Nat) (s : State) : Host.Outcome State Fault Refusal := .next (chanDown die ch s)

end Sys2Proof.Machine
end

