-- ==== Sys2Proof/Machine/Maps.lean ====
section
/-!
DEFINITION. Page pools, page maps and map epochs (R148 to R157, R275), and the commands of group 0x05 (R279). Where map
memory lies is the model's choice (log 20).
-/

namespace Sys2Proof.Machine

/-! ### Map memory (R151, log 20) -/

/-- The highest free index of a partition's region map, among the first `n`. -/
def State.freeRegion (s : State) (p : Nat) : Nat → Option Nat
  | 0 => none
  | n + 1 => if (s.region p n).isNone then some n else s.freeRegion p n

/-- The highest place of `k` granules below granule `n` where partition `p` can create region `i`. -/
def State.freeGranules (s : State) (p i k : Nat) : Nat → Option Nat
  | 0 => none
  | n + 1 => if (s.regionRefusal p i n (n + k - 1) false 0).isNone then some n else s.freeGranules p i k n

/-- `n` bytes of map memory of a partition, aligned to `al`, holding zeros: from the room left, else from a new region
that the partition can only read. -/
def State.mapAlloc (s : State) (p n al : Nat) : Option (Nat × State) :=
  let (a, e) := tget (fun _ => (0, 0)) s.mapRoom p
  let a' := roundUp a al
  if a' + n ≤ e then some (a', { s with mapRoom := tput (fun _ => (0, 0)) s.mapRoom p (a' + n, e) })
  else
    let k := ceilDiv n granule
    match s.freeRegion p 1024 with
    | none => none
    | some i =>
      match s.freeGranules p i k dramGranules with
      | none => none
      | some lo =>
        let s := s.addRegion p i (mkRegion true false false false true 0 lo (lo + k - 1))
        some (lo * granule, { s with mapRoom := tput (fun _ => (0, 0)) s.mapRoom p (lo * granule + n, (lo + k) * granule) })

/-- Several tables of 4 KiB, one for each index of the list. -/
def State.allocTables (s : State) (p : Nat) : List Nat → Option (List (Nat × Nat) × State)
  | [] => some ([], s)
  | i :: is =>
    match s.mapAlloc p 4096 4096 with
    | none => none
    | some (a, s) =>
      match s.allocTables p is with
      | none => none
      | some (ts, s) => some ((i, a) :: ts, s)

/-! ### Pools (R148) -/

/-- Slots of a page. -/
def pageSlots (pgsz : Bool) : Nat := if pgsz then 256 else 16
/-- Bytes of a page of a pool. -/
def Pool.pageBytes (q : Pool) : Nat := roundUp (2 * pageSlots q.pgsz * q.rowBytes) 4096
/-- Device address of page `f`. -/
def Pool.page (q : Pool) (f : Nat) : Nat := q.base + f * q.pageBytes
/-- The page-state word of a page. -/
def State.pageState (s : State) (q : Pool) (f : Nat) : Nat := s.le (q.stateAddr + 8 * f) 8
/-- The page-state word of a page replaced. -/
def State.setPageState (s : State) (q : Pool) (f v : Nat) : State := s.write (q.stateAddr + 8 * f) (toLe 8 v)
/-- ALLOC of a page-state word. -/
def psAlloc (w : Nat) : Bool := bit w 32
/-- MAPS of a page-state word. -/
def psMaps (w : Nat) : Nat := bits w 16 16
/-- GEN of a page-state word. -/
def psGen (w : Nat) : Nat := bits w 0 16
/-- A page-state word. -/
def psWord (gen maps : Nat) (alloc : Bool) : Nat := gen % 65536 + maps % 65536 * 65536 + 2 ^ 32 * b2n alloc

/-- A pool of the partition, or the status for a number that names none. -/
def State.poolOf (s : State) (p n : Nat) (absent : Nat) : Except Nat Pool :=
  match oget s.pools n with
  | none => .error absent
  | some q => if q.part = p then .ok q else .error 0x14

/-- POOL_CREATE: the fields of R148 in its order, a word each (log 20). -/
def hPoolCreate : Handler := withPb 0 64 (fun c bs s =>
  let f (i : Nat) : Nat := wordAt bs (8 * i)
  let q : Pool := { part := c.part, pgsz := f 1 == 1, rowBytes := f 2, base := f 3, npages := f 4, stateAddr := 0 }
  if 256 ≤ f 0 ∨ 2 ≤ f 1 ∨ f 2 = 0 ∨ f 2 % 64 ≠ 0 ∨ f 3 % 4096 ≠ 0 ∨ f 4 = 0 ∨ 2 ^ 32 ≤ f 4 ∨ f 5 ≠ 0 ∨ f 6 ≠ 0 ∨ f 7 ≠ 0 then
    (s, no 0x11)
  else if !(inDram (f 3) && s.permits c.part (f 3) (q.npages * q.pageBytes) true true false) then (s, no 0x1A)
  else if (oget s.pools (f 0)).isSome then (s, no 0x19)
  else
    match s.mapAlloc c.part (8 * f 4) 4096 with
    | none => (s, no 0x19)
    | some (a, s) => ({ s with pools := tins s.pools (f 0) { q with stateAddr := a } }, .done 0 (f 0) 0))

/-- POOL_DESTROY. -/
def hPoolDestroy : Handler := fun c s =>
  match s.poolOf c.part (c.p 0) 0x15 with
  | .error st => (s, no st)
  | .ok q =>
    if (List.range q.npages).any (fun f => psAlloc (s.pageState q f)) then (s, no 0x16)
    else ({ s with pools := tdrop s.pools (c.p 0) }, ok)

/-- PAGE_ALLOC: the lowest free pages (log 20). -/
def hPageAlloc : Handler := fun c s =>
  let n := c.p 1
  match s.poolOf c.part (c.p 0) 0x11 with
  | .error st => (s, no st)
  | .ok q =>
    if n = 0 ∨ 2 ^ 32 ≤ n then (s, no 0x11)
    else if !s.awOk c.part (c.w 2) (8 * n) false true then (s, no 0x1A)
    else
      let fs := ((List.range q.npages).filter (fun f => !psAlloc (s.pageState q f))).take n
      if fs.length < n then (s, no 0x19)
      else
        let ws := fs.map (fun f => BitVec.ofNat 64 (f + psGen (s.pageState q f) * 2 ^ 32))
        let s := fs.foldl (fun s f => s.setPageState q f (psWord (psGen (s.pageState q f)) 0 true)) s
        (s.awWrite c.part (c.w 2) (wordsLe ws), ok)

/-- The status with which freeing the pages `ws` in turn is refused, and the state after freeing them. -/
def freePages (q : Pool) : List Nat → State → Except Nat State
  | [], s => .ok s
  | w :: ws, s =>
    let f := w % 2 ^ 32
    let v := s.pageState q f
    if 2 ^ 48 ≤ w then .error 0x11
    else if q.npages ≤ f ∨ !psAlloc v ∨ psGen v ≠ bits w 32 16 then .error 0x31
    else if psMaps v ≠ 0 then .error 0x32
    else freePages q ws (s.setPageState q f (psWord (psGen v + 1) 0 false))

/-- PAGE_FREE: all or none. -/
def hPageFree : Handler := fun c s =>
  let n := c.p 1
  match s.poolOf c.part (c.p 0) 0x11 with
  | .error st => (s, no st)
  | .ok q =>
    if n = 0 ∨ 2 ^ 32 ≤ n then (s, no 0x11)
    else if !s.awOk c.part (c.w 2) (8 * n) true false then (s, no 0x1A)
    else
      let bs := s.awBytes c.part (c.w 2) (8 * n)
      match freePages q ((List.range n).map (fun i => wordAt bs (8 * i))) s with
      | .error st => (s, no st)
      | .ok s => (s, ok)

/-! ### Page maps (R149, R150) -/

/-- A stream record. -/
structure Stream where
  v : Bool
  pgsz : Bool
  dir : Nat
  dirm1 : Nat
  coord : Nat
  sum : Nat
  deriving DecidableEq, Repr

/-- Stream `st` of the map whose header lies at `h`. -/
def State.stream (s : State) (h st : Nat) : Stream :=
  let a := h + 64 * (st + 1)
  let w0 := s.le a 8
  let w1 := s.le (a + 8) 8
  { v := bit w0 0, pgsz := bit w0 1, dir := bits w1 0 48, dirm1 := bits w1 48 10, coord := bits (s.le (a + 16) 8) 0 48,
    sum := bits (s.le (a + 24) 8) 0 48 }

/-- The directory entry over a logical page. -/
def State.dirEntry (s : State) (r : Stream) (lp : Nat) : Nat := s.le (r.dir + 8 * (lp / 512)) 8
/-- The leaf table a directory entry points to. -/
def leafTable (d : Nat) : Nat := bits d 12 36 * 4096
/-- Address of the leaf entry of a logical page in a leaf table. -/
def leafAt (t lp : Nat) : Nat := t + 8 * (lp % 512)

/-- MAPS of the page that a leaf word names, changed by one up or down. -/
def State.countMap (s : State) (leaf : Nat) (up : Bool) : State :=
  match oget s.pools (bits leaf 8 8) with
  | none => s
  | some q =>
    let f := bits leaf 16 32
    let w := s.pageState q f
    s.setPageState q f (psWord (psGen w) (if up then psMaps w + 1 else psMaps w + 65535) (psAlloc w))

/-- A leaf entry replaced, with MAPS of the page that was there and of the new one. -/
def State.putLeaf (s : State) (a w : Nat) : State :=
  let old := s.le a 8
  let s := if bit old 0 then s.countMap old false else s
  let s := if bit w 0 then s.countMap w true else s
  s.write a (toLe 8 w)

/-- Every page of a stream is unmapped. -/
def State.dropStream (s : State) (r : Stream) : State :=
  if !r.v then s
  else
    (List.range (r.dirm1 + 1)).foldl (fun s d =>
      let e := s.le (r.dir + 8 * d) 8
      if bit e 0 then (List.range 512).foldl (fun s i => s.putLeaf (leafAt (leafTable e) i) 0) s else s) s

/-- One edit is written (R156). -/
def MapEdit.write (e : MapEdit) (h : Nat) (s : State) : State :=
  let p (i : Nat) : Nat := (e.ps.getD i 0).toNat
  let st := p 1
  let r := s.stream h st
  if e.code = 0x0506 then
    let dir := match e.tables with
      | (_, a) :: _ => a
      | [] => 0
    let v := p 2 % 2 = 1
    let words := if v then [p 2, dir + p 3 * 2 ^ 48, p 4, p 5] else [0, 0, 0, 0]
    (s.dropStream r).write (h + 64 * (st + 1)) (wordsLe (words.map (BitVec.ofNat 64)))
  else
    let lp0 := p 2
    let s := e.tables.foldl (fun s (d, a) =>
      if bit (s.le (r.dir + 8 * d) 8) 0 then s else s.write (r.dir + 8 * d) (toLe 8 (a + 1))) s
    (List.range (p 3)).foldl (fun s i =>
      let d := s.dirEntry r (lp0 + i)
      let w := if e.code = 0x0507 then (e.data.getD i 0).toNat + 1 else 0
      if bit d 0 then s.putLeaf (leafAt (leafTable d) (lp0 + i)) w else s) s

/-- The map's entries leave every look-aside buffer (R156). -/
def State.forgetMap (s : State) (id : Nat) : State :=
  let clean (w : Option LabEntry) : Option LabEntry := match w with
    | some e => if e.map = id then none else some e
    | none => none
  { s with foxes := s.foxes.map (fun (k, f) => (k, { f with lab := f.lab.map (fun (i, l) => (i, { l with ways := l.ways.map clean })) })) }

/-- A batch of edits is applied (R156): the entries, the look-aside buffers, EPOCH; LOCK is clear after it. -/
def State.batch (s : State) (id : Nat) (es : List MapEdit) : State :=
  match oget s.maps id with
  | none => s
  | some e =>
    let s := (es.foldl (fun s d => d.write e.header s) s).forgetMap id
    { s with maps := tins s.maps id { e with epoch := e.epoch + 1, lock := false, queue := [] } }

/-- The edits of a batch that were outstanding complete, with DEFERRED (R155); then the ABORTs that came after the batch had begun answer
that the edit is applied (R275). -/
def State.finishEdits (s : State) (es : List MapEdit) : State :=
  es.foldl (fun s d =>
    d.watch.foldl (fun s w => s.due d.m (abortEntry w 0 1))
      (if d.wait then
        match s.cmd d.m d.tag with
        | some c => s.complete c 0 true 0 0
        | none => s
      else s)) s

/-- MAP_EDIT_BATCH (R156): with LOCK set, every queued edit is applied. A queue that aborts have emptied only clears
LOCK. -/
def mapBatch (id : Nat) (s : State) : State :=
  match oget s.maps id with
  | none => s
  | some e =>
    if !e.lock then s
    else if e.queue = [] then { s with maps := tins s.maps id { e with lock := false } }
    else (s.batch id e.queue).finishEdits e.queue

/-- A unit pins a map epoch (R154). -/
def State.pin (s : State) (id : Nat) : State :=
  { s with maps := oupd s.maps id (fun e => { e with pins := e.pins + 1 }) }

/-- A unit releases a map epoch; the last release sets LOCK where edits are queued (R154). -/
def State.unpin (s : State) (id : Nat) : State :=
  { s with maps := oupd s.maps id (fun e => { e with pins := e.pins - 1, lock := e.lock || (e.pins == 1 && e.queue != []) }) }

/-! ### Commands on maps (R279) -/

/-- PMAP_CREATE. -/
def hPmapCreate : Handler := fun c s =>
  match freeKey s.maps 65536 0 with
  | none => (s, no 0x19)
  | some id =>
    match s.mapAlloc c.part 320 128 with
    | none => (s, no 0x19)
    | some (a, s) =>
      let s := s.write a (toLe 2 id ++ List.replicate 318 0#8)
      let e : MapE := { part := c.part, header := a, epoch := 0, pins := 0, lock := false, queue := [] }
      ({ s with maps := tins s.maps id e }, .done 0 id a)

/-- A map of the partition, or the status for a number that names none. -/
def State.mapOf (s : State) (p n : Nat) (absent : Nat) : Except Nat MapE :=
  match oget s.maps n with
  | none => .error absent
  | some e => if e.part = p then .ok e else .error 0x14

/-- PMAP_DESTROY: its pages are unmapped. -/
def hPmapDestroy : Handler := fun c s =>
  match s.mapOf c.part (c.p 0) 0x15 with
  | .error st => (s, no st)
  | .ok e =>
    if e.pins ≠ 0 ∨ e.queue ≠ [] ∨ s.seqs.any (fun (_, q) => q.state ≠ 0 && q.map == e.header) then (s, no 0x16)
    else
      let s := ((List.range 4).foldl (fun s st => s.dropStream (s.stream e.header st)) s).forgetMap (c.p 0)
      ({ s with maps := tdrop s.maps (c.p 0) }, ok)

/-- PMAP_QUERY. -/
def hPmapQuery : Handler := fun c s =>
  match s.mapOf c.part (c.p 0) 0x15 with
  | .error st => (s, no st)
  | .ok e => (s, .done 0 e.epoch.toNat (e.pins.toNat + e.queue.length * 65536))

/-- The stream as it will stand once the queued edits are applied. -/
def State.streamAfter (s : State) (e : MapE) (st : Nat) : Stream × Bool :=
  match (e.queue.filter (fun d => d.code = 0x0506 ∧ (d.ps.getD 1 0).toNat = st)).getLast? with
  | some d =>
    let f := (d.ps.getD 2 0).toNat
    ({ v := bit f 0, pgsz := bit f 1, dir := 0, dirm1 := (d.ps.getD 3 0).toNat, coord := 0, sum := 0 }, true)
  | none => (s.stream e.header st, false)

/-- A leaf word of PMAP_SET_LEAF names an allocated page of its generation, in a pool of the partition with the
stream's page size (R155). -/
def State.leafOk (s : State) (p : Nat) (pgsz : Bool) (w : Nat) : Bool :=
  match oget s.pools (bits w 8 8) with
  | none => false
  | some q =>
    let f := bits w 16 32
    let v := s.pageState q f
    q.part == p && q.pgsz == pgsz && decide (f < q.npages) && psAlloc v && psGen v == bits w 48 16

/-- What is wrong with an address word that must name device memory the command may read: a host address, or a range
without the right (R155). -/
def State.deviceWord (s : State) (c : Cmd) (j n : Nat) : Option Nat :=
  if awHost (c.w j) then some 0x11 else if s.awOk c.part (c.w j) n true false then none else some 0x1A

/-- The directory a new stream needs (R155). -/
def State.newDirectory (s : State) (c : Cmd) (d : MapEdit) : Except Nat (MapEdit × State) :=
  match s.mapAlloc c.part (roundUp (8 * (c.p 3 + 1)) 4096) 4096 with
  | none => .error 0x19
  | some (a, s) => .ok ({ d with tables := [(0, a)] }, s)

/-- The edit of a command, checked, with the map memory it needs (R155). -/
def State.makeEdit (s : State) (c : Cmd) (e : MapE) : Except Nat (MapEdit × State) :=
  let d : MapEdit := { m := c.m, tag := c.tag, slot := c.slot, irq := c.irq, wait := c.wait, code := c.code, ps := c.ps, data := [], tables := [], watch := [] }
  let st := c.p 1
  if 4 ≤ st then .error 0x11
  else if c.code = 0x0506 then
    let f := c.p 2
    if 4 ≤ f ∨ 1024 ≤ c.p 3 then .error 0x11
    else if bit f 0 then
      match s.deviceWord c 4 8, s.deviceWord c 5 16 with
      | none, none => s.newDirectory c d
      | some x, _ => .error x
      | _, some x => .error x
    else .ok (d, s)
  else
    let (r, fresh) := s.streamAfter e st
    let lp0 := c.p 2
    let n := c.p 3
    if n = 0 ∨ 512 * (r.dirm1 + 1) < lp0 + n ∨ (c.code = 0x0507 ∧ 512 < n) ∨ !r.v then .error 0x11
    else if c.code = 0x0507 then
      if !s.awOk c.part (c.w 4) (8 * n) true false then .error 0x1A
      else
        let bs := s.awBytes c.part (c.w 4) (8 * n)
        let ws := (List.range n).map (fun i => wordAt bs (8 * i))
        if ws.any (fun w => w % 256 ≠ 0) then .error 0x11
        else if !ws.all (s.leafOk c.part r.pgsz) then .error 0x31
        else
          let first := lp0 / 512
          let ds := (List.range ((lp0 + n - 1) / 512 + 1 - first)).map (first + ·)
          let need := ds.filter (fun i => fresh || !bit (s.le (r.dir + 8 * i) 8) 0)
          match s.allocTables c.part need with
          | none => .error 0x19
          | some (ts, s) => .ok ({ d with data := ws.map (BitVec.ofNat 64), tables := ts }, s)
    else .ok (d, s)

/-- PMAP_SET_STREAM, PMAP_SET_LEAF and PMAP_CLEAR (R155): applied at once, deferred, or refused. -/
def hEdit : Handler := fun c s =>
  match s.mapOf c.part (c.p 0) 0x11 with
  | .error st => (s, no st)
  | .ok e =>
    match s.makeEdit c e with
    | .error st => (s, no st)
    | .ok (d, t) =>
      if e.pins = 0 ∧ e.queue = [] then (t.batch (c.p 0) [d], ok)
      else if 32 ≤ e.queue.length then (s, no 0x30)
      else
        let t := { t with maps := oupd t.maps (c.p 0) (fun e => { e with queue := e.queue ++ [d] }) }
        (t, if c.wait then .wait else no 1)

/-- The abort of an edit deferred with WAIT = 1 (R274): the edit leaves the queue. -/
def undoEdit : Undo := fun c s =>
  { s with maps := s.maps.map (fun (k, e) => (k, { e with queue := e.queue.filter (fun d => !(d.m == c.m && d.tag == c.tag)) })) }

/-- POOL_CREATE. -/
def execPoolCreate (m : Nat) (h : CmdHdr) (pb : W64) (s : State) : Host.Outcome State Fault Refusal :=
  .next (runCmd m h 0x0500 [pb] hPoolCreate s)
/-- POOL_DESTROY. -/
def execPoolDestroy (m : Nat) (h : CmdHdr) (pool : W64) (s : State) : Host.Outcome State Fault Refusal :=
  .next (runCmd m h 0x0501 [pool] hPoolDestroy s)
/-- PAGE_ALLOC. -/
def execPageAlloc (m : Nat) (h : CmdHdr) (pool n out : W64) (s : State) : Host.Outcome State Fault Refusal :=
  .next (runCmd m h 0x0502 [pool, n, out] hPageAlloc s)
/-- PAGE_FREE. -/
def execPageFree (m : Nat) (h : CmdHdr) (pool n inp : W64) (s : State) : Host.Outcome State Fault Refusal :=
  .next (runCmd m h 0x0503 [pool, n, inp] hPageFree s)
/-- PMAP_CREATE. -/
def execPmapCreate (m : Nat) (h : CmdHdr) (s : State) : Host.Outcome State Fault Refusal :=
  .next (runCmd m h 0x0504 [] hPmapCreate s)
/-- PMAP_DESTROY. -/
def execPmapDestroy (m : Nat) (h : CmdHdr) (map : W64) (s : State) : Host.Outcome State Fault Refusal :=
  .next (runCmd m h 0x0505 [map] hPmapDestroy s)
/-- PMAP_SET_STREAM. -/
def execPmapSetStream (m : Nat) (h : CmdHdr) (map stream flags dirm1 coord sum : W64) (s : State) : Host.Outcome State Fault Refusal :=
  .next (runCmd m h 0x0506 [map, stream, flags, dirm1, coord, sum] hEdit s)
/-- PMAP_SET_LEAF. -/
def execPmapSetLeaf (m : Nat) (h : CmdHdr) (map stream lpage0 n inp : W64) (s : State) : Host.Outcome State Fault Refusal :=
  .next (runCmd m h 0x0507 [map, stream, lpage0, n, inp] hEdit s)
/-- PMAP_CLEAR. -/
def execPmapClear (m : Nat) (h : CmdHdr) (map stream lpage0 n : W64) (s : State) : Host.Outcome State Fault Refusal :=
  .next (runCmd m h 0x0508 [map, stream, lpage0, n] hEdit s)
/-- PMAP_QUERY. -/
def execPmapQuery (m : Nat) (h : CmdHdr) (map : W64) (s : State) : Host.Outcome State Fault Refusal :=
  .next (runCmd m h 0x0509 [map] hPmapQuery s)
/-- MAP_EDIT_BATCH of map `m`. -/
def execMapEditBatch (m : Nat) (s : State) : Host.Outcome State Fault Refusal := .next (mapBatch m s)

end Sys2Proof.Machine
end

