-- ==== Sys2Proof/Machine/Fox.lean ====
section
/-!
DEFINITION. Accounting of engine-cycles (R292, R293), fault records of items and jobs (R159, R194), and the Foxglove
units (R131 to R146, R152 to R159).
-/

namespace Sys2Proof.Machine

/-! ### Accounting (R292, R293) -/

/-- Core cycles since an instant. -/
def State.cyclesSince (s : State) (t : Nat) : Nat := (s.time - t) / 5

/-- A charge of `n` twelfths of an engine-cycle to launch `l`, on an engine of kind `k`: to the launch, its partition and
its queue, with the virtual times of a best-effort launch (R292). -/
def State.chargeEngine (s : State) (k : EngineKind) (l n : Nat) : State :=
  match s.launch l with
  | none => s
  | some q =>
    let be := !q.lc
    let s := s.updLaunch l (fun q => { q with engine := q.engine + n })
    let s := s.updPart q.part (fun p =>
      let p := if be then { p with vt := p.vt + n * 65536 / 12 / max 1 p.share } else p
      match k with
      | .core => { p with acctCore := p.acctCore + n }
      | .fox => { p with acctFox := p.acctFox + n }
      | .prim => { p with acctPrim := p.acctPrim + n })
    let qps := oupd s.qps q.qp (fun p =>
      let p := if be then { p with vt := p.vt + n * 65536 / 12 / max 1 p.share } else p
      match k with
      | .core => { p with acctCore := p.acctCore + n }
      | .fox => { p with acctFox := p.acctFox + n }
      | .prim => { p with acctPrim := p.acctPrim + n })
    { s with qps := qps }

/-! ### Audits (R354, R355) -/

/-- Unit of work `i` of a launch is selected for an audit (R354). -/
def Launch.picked (l : Launch) (i : Nat) : Bool :=
  l.aRate != 0 && !l.var && !l.faulted.contains i &&
  decide ((rngWords (i % 2 ^ 32) 0 l.tag l.part (l.aSeed.toNat % 2 ^ 32) (l.aSeed.toNat / 2 ^ 32)).headD 1 % 2 ^ l.aRate = 0)

/-! ### Faults of items and jobs (R159, R194) -/

/-- What an item or job faults with: code, stream, logical page, address. -/
structure ItemFault where
  code : Nat
  stream : Nat
  lpage : Nat
  addr : Nat
  deriving DecidableEq, Repr

/-- A fault without further fields. -/
def itemFault (code : Nat) : ItemFault := { code := code, stream := 0, lpage := 0, addr := 0 }
/-- REGION at an address. -/
def itemRegion (a : Nat) : ItemFault := { code := 3, stream := 0, lpage := 0, addr := a }
/-- ADDRESS or REGION for a span that is refused (R13, R213). -/
def spanCode (a n : Nat) : Nat := if mappedSpan a n then 3 else 2
/-- The fault of a refused span, at its lowest byte (log 45). -/
def itemSpan (a n : Nat) : ItemFault := { code := spanCode a n, stream := 0, lpage := 0, addr := a }

/-- The words of a record of R159. -/
def ItemFault.words (f : ItemFault) (unit tag i : Nat) : List W64 :=
  [f.code + unit * 2 ^ 16 + tag % 2 ^ 32 * 2 ^ 32, i, f.stream + f.lpage % 2 ^ 24 * 2 ^ 8, f.addr % 2 ^ 48, 0, 0, 0, 0].map (BitVec.ofNat 64)

/-- An item or job of a launch ends with a fault. -/
def State.itemFaulted (s : State) (l unit i : Nat) (f : ItemFault) : State :=
  s.updLaunch l (fun q => ({ q with ended := q.ended + 1 }).addFault i (f.words unit q.tag i))

/-- An item's or job's spans may be accessed; else the fault of the first that may not (R159, R194): ADDRESS where it is unmapped
(R13), else REGION. A table window is no place for an engine's outputs (R175, R212). -/
def State.checkSpans (s : State) (p : Nat) (rd wr : Bool) (ss : List (Nat × Nat)) : Option ItemFault :=
  ss.findSome? (fun (a, n) =>
    if s.permits p a n rd wr false && (!wr || noWindow a n) then none else some (itemSpan a n))

/-- The bytes that a faulted item or job leaves undefined in what it may write (R159, R194, log 10). -/
def State.freeSpans (s : State) (p : Nat) (ss : List (Nat × Nat)) : State :=
  ((s.writes ((ss.filter (fun (a, n) => (s.checkSpans p false true [(a, n)]).isNone)).map (fun (a, n) =>
    (a, (List.range n).map (fun k => Config.freeByte s.fresh (a + k)))))).bump)

/-! ### Fields of a work item (R133, R135, R139, R140) -/

/-- Unit `u`. -/
def State.fox (s : State) (u : Nat) : Fox := tget (fun _ => Fox.reset) s.foxes u
/-- The state with a unit replaced. -/
def State.setFox (s : State) (u : Nat) (f : Fox) : State := { s with foxes := tput (fun _ => Fox.reset) s.foxes u f }
/-- The state with a unit changed. -/
def State.updFox (s : State) (u : Nat) (f : Fox → Fox) : State := s.setFox u (f (s.fox u))

/-- A word of an item. -/
def FoxItem.w (i : FoxItem) (n : Nat) : Nat := (i.words.getD n 0).toNat
/-- QSTREAM. -/
def FoxItem.qstream (i : FoxItem) : Nat := bits (i.w 0) 16 2
/-- KSTREAM. -/
def FoxItem.kstream (i : FoxItem) : Nat := bits (i.w 0) 18 2
/-- MASK. -/
def FoxItem.mask (i : FoxItem) : Nat := bits (i.w 0) 20 4
/-- QSLOT0. -/
def FoxItem.qslot0 (i : FoxItem) : Nat := bits (i.w 0) 32 32
/-- QROWS. -/
def FoxItem.qrows (i : FoxItem) : Nat := bits (i.w 1) 0 8
/-- H0. -/
def FoxItem.h0 (i : FoxItem) : Nat := bits (i.w 1) 8 8
/-- The number of heads. -/
def FoxItem.nh (i : FoxItem) : Nat := bits (i.w 1) 16 8 + 1
/-- KB0. -/
def FoxItem.kb0 (i : FoxItem) : Nat := bits (i.w 1) 32 32
/-- KBN. -/
def FoxItem.kbn (i : FoxItem) : Nat := bits (i.w 2) 0 24
/-- Die and index of WSEM where WEN = 1. -/
def FoxItem.wsem (i : FoxItem) : Option (Nat × Nat) :=
  if bit (i.w 6) 13 then some (bits (i.w 6) 12 1, bits (i.w 6) 0 12) else none
/-- Die and index of SSEM where SEN = 1. -/
def FoxItem.ssem (i : FoxItem) : Option (Nat × Nat) :=
  if bit (i.w 7) 13 then some (bits (i.w 7) 12 1, bits (i.w 7) 0 12) else none
/-- The length of a stream. -/
def FoxItem.len (i : FoxItem) (st : Nat) : Nat := i.lens.getD st 0

/-- A reserved field of an item is nonzero (R135). -/
def FoxItem.reserved (i : FoxItem) : Bool :=
  decide (bits (i.w 0) 24 8 ≠ 0 ∨ bits (i.w 1) 24 8 ≠ 0 ∨ bits (i.w 2) 24 40 ≠ 0 ∨ bits (i.w 3) 48 16 ≠ 0 ∨ bits (i.w 4) 48 16 ≠ 0 ∨
    bits (i.w 5) 48 16 ≠ 0 ∨ bits (i.w 6) 14 18 ≠ 0 ∨ bits (i.w 7) 14 50 ≠ 0)

/-- An attention configuration (R133). -/
structure Acfg where
  qfmt : Nat
  kfmt : Nat
  vfmt : Nat
  ofmt : Nat
  d : Nat
  lse : Bool
  scale : Fp
  vscale : Fp
  qstride : Nat
  ostride : Nat
  lstride : Nat
  mtab : Nat
  deriving DecidableEq, Repr

/-- The fields of 64 bytes. -/
def parseAcfg (bs : List Byte) : Acfg :=
  let w (n : Nat) : Nat := wordAt bs (8 * n)
  { qfmt := bits (w 0) 0 4, kfmt := bits (w 0) 4 4, vfmt := bits (w 0) 8 4, ofmt := bits (w 0) 12 4, d := 64 * (bits (w 0) 16 2 + 1),
    lse := bit (w 0) 18, scale := Fp.of32 (w 0 >>> 32), vscale := Fp.of32 (w 1 % 2 ^ 32), qstride := w 2 % 2 ^ 32,
    ostride := w 2 >>> 32, lstride := w 3 % 2 ^ 32, mtab := w 4 % 2 ^ 48 }

/-- A configuration is valid (R134); an output format that R133 does not list is none either. -/
def acfgOk (bs : List Byte) : Bool :=
  let w (n : Nat) : Nat := wordAt bs (8 * n)
  let c := parseAcfg bs
  let fp8 (f : Nat) : Bool := f == 3 || f == 4
  ((fp8 c.qfmt && fp8 c.kfmt && fp8 c.vfmt) || (c.qfmt == 1 && c.kfmt == 1 && c.vfmt == 1)) && decide (c.ofmt ≤ 3) &&
  decide (c.qstride % 64 = 0 ∧ c.ostride % 64 = 0 ∧ bits (w 0) 19 13 = 0 ∧ w 1 / 2 ^ 32 = 0 ∧ w 3 / 2 ^ 32 = 0 ∧ w 4 / 2 ^ 48 = 0 ∧
    w 5 = 0 ∧ w 6 = 0 ∧ w 7 = 0)

/-- Bytes of an element. -/
def elemBytes (f : Nat) : Nat := fmtBits f / 8

/-- A mask descriptor (R139). -/
structure Mask where
  twin : Bool
  ywin : Bool
  xwin : Bool
  causal : Bool
  bitmap : Bool
  dt : Nat
  dy : Nat
  dx : Nat
  bmap : Nat
  stride : Nat
  reserved : Bool
  deriving DecidableEq, Repr

/-- The fields of 64 bytes. -/
def parseMask (bs : List Byte) : Mask :=
  let w (n : Nat) : Nat := wordAt bs (8 * n)
  { twin := bit (w 0) 0, ywin := bit (w 0) 1, xwin := bit (w 0) 2, causal := bit (w 0) 3, bitmap := bit (w 0) 4, dt := bits (w 0) 8 16,
    dy := bits (w 0) 24 16, dx := bits (w 0) 40 16, bmap := bits (w 1) 0 48, stride := bits (w 2) 0 32,
    reserved := decide (bits (w 0) 5 3 ≠ 0 ∨ bits (w 0) 56 8 ≠ 0 ∨ bits (w 1) 48 16 ≠ 0 ∨ bits (w 2) 32 32 ≠ 0) ||
      ((bs.drop 24).any (· ≠ 0)) }

/-- T, Y or X of a coordinate entry (R140). -/
def coordOf (w axis : Nat) : Nat := bits w (16 * axis) 16
/-- HOLE of a coordinate entry. -/
def isHole (w : Nat) : Bool := bit w 63
/-- A reserved bit of a coordinate entry is set. -/
def coordBad (w : Nat) : Bool := decide (bits w 48 15 ≠ 0)

/-- Two ranges lie within `d` of each other. -/
def near (alo ahi blo bhi d : Nat) : Bool := decide (alo ≤ bhi + d ∧ blo ≤ ahi + d)

/-- A key's coordinates pass the enabled tests against a query's, but for the bitmap (R138). -/
def Mask.passes (k : Mask) (q c : Nat) : Bool :=
  let f (axis d : Nat) : Bool := near (coordOf q axis) (coordOf q axis) (coordOf c axis) (coordOf c axis) d
  (!k.causal || decide (coordOf c 0 ≤ coordOf q 0)) && (!k.twin || f 0 k.dt) && (!k.ywin || f 1 k.dy) && (!k.xwin || f 2 k.dx)

/-- Address of the bitmap byte of query block `qb` and key block `b`. -/
def Mask.byteAt (k : Mask) (qb b : Nat) : Nat := k.bmap + qb * k.stride + b / 8

/-- The coordinate entries of the query rows that are computed: row and entry (R138, R142). -/
def State.queryRows (s : State) (i : FoxItem) (r : Stream) : List (Nat × Nat) :=
  ((List.range (min i.qrows (i.len i.qstream - i.qslot0))).map (fun n => (n, s.seenLe (r.coord + 8 * (i.qslot0 + n)) 8))).filter
    (fun e => !isHole e.2)

/-- Lowest and highest coordinate of an axis over rows. -/
def boxOf (rows : List (Nat × Nat)) (axis : Nat) : Nat × Nat :=
  rows.foldl (fun b e => (min b.1 (coordOf e.2 axis), max b.2 (coordOf e.2 axis))) (65535, 0)

/-- The unit skips a key block whose summary is `w` (R141). -/
def Mask.skips (k : Mask) (rows : List (Nat × Nat)) (w : Nat) : Bool :=
  let far (axis d : Nat) : Bool :=
    let q := boxOf rows axis
    !near q.1 q.2 (bits w (32 * axis) 16) (bits w (32 * axis + 16) 16) d
  bit w 127 || (k.twin && far 0 k.dt) || (k.ywin && far 1 k.dy) || (k.xwin && far 2 k.dx) ||
  (k.causal && decide ((boxOf rows 0).2 < bits w 0 16))

/-! ### The start of an item (R132, R136, R141) -/

/-- The launch a unit works for, and its configuration. -/
def State.foxLaunch (s : State) (u : Nat) : Option (Nat × Launch) :=
  match (s.fox u).launch with
  | none => none
  | some l => (s.launch l).map (fun q => (l, q))

/-- The output rows and LSE words of an item, for every row and head it names (R135). -/
def FoxItem.outSpans (i : FoxItem) (c : Acfg) : List (Nat × Nat) :=
  let ob := elemBytes c.ofmt
  (List.range i.nh).flatMap (fun h => (List.range (min 128 i.qrows)).flatMap (fun r =>
    ((i.w 4) % 2 ^ 48 + r * c.ostride + (i.h0 + h) * c.d * ob, c.d * ob) ::
      (if c.lse then [((i.w 5) % 2 ^ 48 + h * c.lstride + 4 * r, 4)] else [])))

/-- The item of a unit ends with a fault: its pin is released, SSEM is not signalled (R159). -/
def State.foxEnd (s : State) (u : Nat) (i : FoxItem) (f : ItemFault) : State :=
  let s := s.chargeEngine .fox i.launch (12 * s.cyclesSince i.since)
  let s := s.itemFaulted i.launch u i.idx f
  let s := if i.phase = 2 then s.unpin i.map else s
  s.updFox u (fun q => { q with item := none, workSince := s.time })

/-- An item faults before its outputs are complete: they are undefined (R159). -/
def State.foxFault (s : State) (u : Nat) (i : FoxItem) (f : ItemFault) : State :=
  let s := s.foxEnd u i f
  match s.launch i.launch with
  | some l => s.freeSpans l.part (i.outSpans (parseAcfg l.k.acfg))
  | none => s

/-- FOX_ITEM_START: a unit that is still assigned to the partition (R282) reads the next item of its share; WSEM outside the
partition's range faults (R299). -/
def foxItemStart (u : Nat) (s : State) : State :=
  let q := s.fox u
  match s.foxLaunch u with
  | none => s
  | some (key, l) =>
    let us := maskList 32 l.e.mask
    let n := q.k * us.length + us.idxOf u
    if q.item.isSome ∨ !l.started ∨ l.killed ∨ l.again.contains (u, 0) ∨ q.power ≠ .run ∨ l.e.e0 ≤ n ∨ !s.engineOf l.part .fox u ∨
      !s.regOpen l.part 0 then s
    else
      let a := l.e.arg + 64 * n
      let may := s.permits l.part a 64 true false false
      let i : FoxItem :=
        { launch := key, idx := n, words := if may then (List.range 8).map (fun j => BitVec.ofNat 64 (s.seenLe (a + 8 * j) 8)) else List.replicate 8 0,
          phase := 0, lockSince := 0, map := 0, lens := [], visit := [], h := 0, todo := [], blk := 0, pages := [], rows := [], outs := [],
          emptyRows := 0, since := s.time, poison := s.poisoned a 64 }
      let s := (s.updLaunch key (fun l => { l with begun := l.begun + 1 })).updFox u (fun q => { q with k := q.k + 1, item := some i })
      if !may then s.foxFault u i (itemSpan a 64)
      else
        let s := s.chargeLines l.part [(a, 64)]
        match i.wsem with
        | some (die, k) => if s.semIn l.part k then s else s.foxFault u i (itemRegion (syncWord die k))
        | none => s

/-- A head's running values before its first block (R142). -/
def freshRows (d : Nat) : List FoxRow :=
  List.replicate 128 { m := 0xFF800000, l := 0, o := List.replicate d 0, bad := false }

/-- The leaf entries with V = 1 of a stream. -/
def State.leaves (s : State) (r : Stream) : List Nat :=
  (List.range (r.dirm1 + 1)).flatMap (fun d =>
    let e := s.le (r.dir + 8 * d) 8
    if bit e 0 then ((List.range 512).map (fun i => s.le (leafAt (leafTable e) i) 8)).filter (fun w => bit w 0) else [])

/-- A head of the item lies outside a row of a pool of the stream (R136). -/
def State.headsExceed (s : State) (r : Stream) (need : Nat) : Bool :=
  (s.leaves r).any (fun w => match oget s.pools (bits w 8 8) with
    | some q => decide (q.rowBytes < need)
    | none => false)

/-- The map of a sequence of the partition, by the header its table entry names: MAP_ID and entry. -/
def State.mapAt (s : State) (p header : Nat) : Option (Nat × MapE) := s.maps.find? (fun (_, e) => e.header = header ∧ e.part = p)

/-- The coordinate entries of every query row of the block are read and checked in turn (R140, R141). -/
def State.testRows (s : State) (p : Nat) (a : Nat) : Nat → Option ItemFault
  | 0 => none
  | n + 1 =>
    if !s.permits p a 8 true false false then some (itemSpan a 8)
    else if coordBad (s.seenLe a 8) then some (itemFault 0x10)
    else s.testRows p (a + 8) n

/-- The key blocks are tested in turn (R141): those to visit, and the spans that were read; a block's summary is read first, and its
bitmap byte only where nothing before it in R141's list skips the block (log 46). -/
def State.testBlocks (s : State) (p sum len qb : Nat) (k : Mask) (rows : List (Nat × Nat)) :
    List Nat → Except ItemFault (List Nat × List (Nat × Nat))
  | [] => .ok ([], [])
  | b :: bs =>
    let go (hit : Bool) (rd : List (Nat × Nat)) : Except ItemFault (List Nat × List (Nat × Nat)) :=
      (s.testBlocks p sum len qb k rows bs).map (fun r => (if hit then b :: r.1 else r.1, rd ++ r.2))
    let a := sum + 16 * b
    if len ≤ 256 * b then go false []
    else if !s.permits p a 16 true false false then .error (itemSpan a 16)
    else
      let w := s.seenLe a 16
      let m := k.byteAt qb b
      if bits w 96 31 ≠ 0 then .error (itemFault 0x10)
      else if bit w 127 ∨ rows = [] then go false [(a, 16)]
      else if !k.bitmap then go (!k.skips rows w) [(a, 16)]
      else if !s.permits p m 1 true false false then .error (itemSpan m 1)
      else go (bit (s.seen m).toNat (b % 8) && !k.skips rows w) [(a, 16), (m, 1)]

/-- The checks of an item after its pin (R136, R139, R140, R299): the blocks it visits (R141), and the spans that were read. -/
def State.foxCheck (s : State) (i : FoxItem) (l : Launch) (h : Nat) : Except ItemFault (List Nat × List (Nat × Nat)) :=
  let c := parseAcfg l.k.acfg
  let p := l.part
  let rq := s.stream h i.qstream
  let rk := s.stream h i.kstream
  let kb := c.d * elemBytes c.kfmt
  let ma := c.mtab + 64 * i.mask
  let ca := rq.coord + 8 * i.qslot0
  if i.reserved ∨ i.qslot0 % 128 ≠ 0 ∨ i.qrows = 0 ∨ 128 < i.qrows ∨ !rq.v ∨ !rk.v then .error (itemFault 0x10)
  else if s.headsExceed rk ((i.h0 + i.nh) * kb) then .error (itemFault 0x10)
  else
    match (match i.ssem with
      | some (die, k) => if s.semIn p k then none else some (itemRegion (syncWord die k))
      | none => none), s.checkSpans p true false [(ma, 64)] with
    | some f, _ => .error f
    | none, some f => .error f
    | none, none =>
      let k := parseMask (s.seenBytes ma 64)
      if k.reserved then .error (itemFault 0x10)
      else
        match s.testRows p ca i.qrows with
        | some f => .error f
        | none =>
          (s.testBlocks p rk.sum (i.len i.kstream) (i.qslot0 / 128) k (s.queryRows i rq) ((List.range i.kbn).map (i.kb0 + ·))).map
            (fun r => (r.1, (ma, 64) :: (ca, 8 * i.qrows) :: r.2))

/-! ### Finishing a head (R142 to R144) -/

/-- A head of an item is normalised: its outputs wait, its empty rows are counted. -/
def FoxItem.finishHead (i : FoxItem) (c : Acfg) (rows : List (Nat × Nat)) : FoxItem :=
  let h := i.h0 + i.h
  let ob := elemBytes c.ofmt
  let oa := (i.w 4) % 2 ^ 48
  let la := (i.w 5) % 2 ^ 48
  let one (e : Nat × Nat) : List (Nat × List Byte) × Nat :=
    let r := i.rows.getD e.1 { m := 0xFF800000, l := 0, o := [], bad := false }
    let empty := decide (r.m = 0xFF800000) && !r.bad
    let rec_ := Fp.div32 c.vscale (Fp.of32 r.l.toNat)
    let outs := (List.range c.d).map (fun n =>
      if r.bad then Fp.nan else if empty then Fp.zero else Fp.rne32 (Fp.mul (Fp.of32 (r.o.getD n 0).toNat) rec_))
    let lse :=
      if r.bad then Fp.nan else if empty then Fp.inf true
      else Fp.rne32 (Fp.add (Fp.of32 r.m.toNat) (Fp.of32 (factoryRun 3 r.l.toNat)))
    ((oa + e.1 * c.ostride + h * c.d * ob, packBits (8 * ob) (outs.map (toFmt c.ofmt))) ::
      (if c.lse then [(la + i.h * c.lstride + 4 * e.1, toLe 4 (Fp.to32 lse))] else []), b2n empty)
  let os := rows.map one
  { i with h := i.h + 1, todo := i.visit, rows := freshRows c.d, outs := i.outs ++ os.flatMap (·.1),
           emptyRows := i.emptyRows + (os.map (·.2)).foldl (· + ·) 0 }

/-- Every head of an item that visits no block is finished. -/
def finishAll (c : Acfg) (rows : List (Nat × Nat)) : Nat → FoxItem → FoxItem
  | 0, i => i
  | n + 1, i => finishAll c rows n (i.finishHead c rows)

/-- The item of a unit goes on as `i`; rows without a visible key found meanwhile are counted (R144). -/
def State.putItem (s : State) (u : Nat) (old : Nat) (i : FoxItem) : State :=
  (s.updLaunch i.launch (fun q => q.addEmpty u (i.emptyRows - old))).updFox u (fun f =>
    { f with item := some i, emptyRow := f.emptyRow + BitVec.ofNat 64 (i.emptyRows - old) })

/-- MAP_EPOCH_PIN (R136, R154): the wait is met and the map is not locked: the unit pins the epoch, reads the lengths,
checks the item and finds the blocks to visit. While LOCK = 1 it waits, and the wait is counted. -/
def mapEpochPin (u : Nat) (s : State) : State :=
  match (s.fox u).item with
  | none => s
  | some i =>
    match s.launch i.launch with
    | none => s
    | some l =>
      let met := match i.wsem with
        | some (die, k) => decide (bits (i.w 6) 32 32 ≤ (s.sem die k).value.toNat)
        | none => true
      if i.phase = 2 ∨ (i.phase = 0 ∧ !met) then s
      else
        let q := tget (fun _ => Seq.free) s.seqs (bits (i.w 0) 0 16)
        match s.mapAt l.part q.map with
        | none => s.foxFault u i (itemFault 0x10)
        | some (id, e) =>
          if q.state = 0 ∨ q.part ≠ l.part then s.foxFault u i (itemFault 0x10)
          else if !s.regOpen l.part 0 then s
          else if e.lock then
            if i.phase = 0 then s.updFox u (fun f => { f with item := some { i with phase := 1, lockSince := s.time } }) else s
          else
            let waited := if i.phase = 1 then s.cyclesSince i.lockSince else 0
            let s := (s.pin id).updFox u (fun f => { f with pinWait := f.pinWait + BitVec.ofNat 64 waited })
            let i := { i with phase := 2, map := id, lens := q.lens }
            match s.foxCheck i l e.header with
            | .error f => s.foxFault u i f
            | .ok (visit, reads) =>
              let c := parseAcfg l.k.acfg
              let i := { i with visit := visit, todo := visit, rows := freshRows c.d,
                                poison := i.poison || reads.any (fun (a, n) => s.poisoned a n) }
              let i := if visit = [] then finishAll c (s.queryRows i (s.stream e.header i.qstream)) i.nh i else i
              ((s.chargeLines l.part reads).putItem u 0 i).updFox u (fun f => { f with skip := f.skip + BitVec.ofNat 64 (i.kbn - visit.length) })

/-! ### The look-aside buffer (R152, R153) -/

/-- Where an entry stands in its set. -/
def LabSet.find (l : LabSet) (m st p : Nat) : Option (Nat × LabEntry) :=
  (l.ways.zipIdx.findSome? (fun (w, k) => match w with
    | some e => if e.map = m ∧ e.stream = st ∧ e.page = p then some (k, e) else none
    | none => none))

/-- The tree bits after a use of way `w` of 8 (log 4): each bit on its path points to the other half. -/
def touchTree (b : BitVec 7) (w : Nat) : BitVec 7 :=
  let set (b : BitVec 7) (n : Nat) (v : Bool) : BitVec 7 := if v then b ||| (1#7 <<< n) else b &&& ~~~(1#7 <<< n)
  let a := set b 0 (decide (w < 4))
  let c := set a (1 + w / 4) (decide (w % 4 < 2))
  set c (3 + w / 2) (decide (w % 2 = 0))

/-- The way the tree bits give up. -/
def victimTree (b : BitVec 7) : Nat :=
  let x := b2n (b.getLsbD 0)
  let y := 2 * x + b2n (b.getLsbD (1 + x))
  2 * y + b2n (b.getLsbD (3 + y))

/-- The set of a page (log 20). -/
def labSet (p : Nat) : Nat := p % 64

/-- The entry of a page in a unit's buffer. -/
def Fox.lookup (f : Fox) (m st p : Nat) : Option LabEntry :=
  ((tget (fun _ => LabSet.empty) f.lab (labSet p)).find m st p).map (·.2)

/-- A set with a way used, or an entry placed in an empty way, else in the victim's. -/
def LabSet.place (l : LabSet) (e : LabEntry) : LabSet :=
  let w := match l.ways.findIdx? (·.isNone) with
    | some w => w
    | none => victimTree l.plru
  { ways := l.ways.set w (some e), plru := touchTree l.plru w }

/-- The pages of a block that hold a slot below LEN (R152). -/
def blockPages (pgsz : Bool) (b len : Nat) : List Nat :=
  if pgsz then (if 256 * b < len then [b] else [])
  else ((List.range 16).map (16 * b + ·)).filter (fun p => 16 * p < len)

/-- The walk for a page (R152): the page's entry, or its fault. -/
def State.walk (s : State) (p id : Nat) (r : Stream) (st lp : Nat) : Except ItemFault LabEntry :=
  let bad (c : Nat) : Except ItemFault LabEntry := .error { code := c, stream := st, lpage := lp, addr := 0 }
  let d := s.dirEntry r lp
  if r.dirm1 < lp / 512 ∨ !bit d 0 then bad 0x11
  else
    let w := s.le (leafAt (leafTable d) lp) 8
    if !bit w 0 then bad 0x11
    else
      match oget s.pools (bits w 8 8) with
      | none => bad 0x12
      | some q =>
        let v := s.pageState q (bits w 16 32)
        let a := q.page (bits w 16 32)
        if psGen v ≠ bits w 48 16 ∨ !psAlloc v then bad 0x12
        else if !s.permits p a q.pageBytes true false false then .error { code := 3, stream := st, lpage := lp, addr := a }
        else .ok { map := id, stream := st, page := lp, addr := a, rowBytes := q.rowBytes }

/-- The header of a map. -/
def State.mapHeader (s : State) (id : Nat) : Nat :=
  match oget s.maps id with
  | some e => e.header
  | none => 0

/-- Visited blocks computed so far, counted over the heads in turn. -/
def FoxItem.done (i : FoxItem) : Nat := i.h * i.visit.length + (i.visit.length - i.todo.length)

/-- The pages of visited block number `n`, counted over the heads in turn. -/
def FoxItem.blockAt (i : FoxItem) (pgsz : Bool) (n : Nat) : List Nat :=
  blockPages pgsz (i.visit.getD (n % i.visit.length) 0) (i.len i.kstream)

/-- The page the walker translates next (R152): visited blocks in order for each head, up to 8 ahead of the arrays. -/
def FoxItem.nextPage (i : FoxItem) (pgsz : Bool) : Option Nat :=
  if i.phase = 2 ∧ i.blk < i.nh * i.visit.length ∧ i.blk ≤ i.done + 8 then
    (i.blockAt pgsz i.blk)[(i.pages.filter (·.1 = i.blk)).length]?
  else none

/-- The item with one page more translated. -/
def FoxItem.gotPage (i : FoxItem) (pgsz : Bool) (e : LabEntry) : FoxItem :=
  let ps := i.pages ++ [(i.blk, e)]
  { i with pages := ps, blk := if (ps.filter (·.1 = i.blk)).length = (i.blockAt pgsz i.blk).length then i.blk + 1 else i.blk }

/-- The words that a walk for a page reads: directory entry, leaf entry, page state (R152). -/
def State.walkReads (s : State) (r : Stream) (lp : Nat) : List (Nat × Nat) :=
  let d := s.dirEntry r lp
  let la := leafAt (leafTable d) lp
  let w := s.le la 8
  (r.dir + 8 * (lp / 512), 8) ::
    (if r.dirm1 < lp / 512 ∨ !bit d 0 then [] else (la, 8) ::
      (if !bit w 0 then [] else match oget s.pools (bits w 8 8) with
        | some q => [(q.stateAddr + 8 * bits w 16 32, 8)]
        | none => []))

/-- FOX_LAB_FILL: the walker translates the next page that the item visits; a hit only ages the set, a miss walks the tables and fills an
entry. -/
def foxLabFill (u page : Nat) (s : State) : State :=
  match (s.fox u).item with
  | none => s
  | some i =>
    match s.launch i.launch with
    | none => s
    | some l =>
      let r := s.stream (s.mapHeader i.map) i.kstream
      if i.nextPage r.pgsz ≠ some page ∨ !s.regOpen l.part 0 then s
      else
        let f := s.fox u
        let v := tget (fun _ => LabSet.empty) f.lab (labSet page)
        let put (v : LabSet) (miss : W64) (i : FoxItem) : State :=
          s.setFox u { f with lab := tput (fun _ => LabSet.empty) f.lab (labSet page) v, labMiss := f.labMiss + miss, item := some i }
        match v.find i.map i.kstream page with
        | some (w, e) => put { v with plru := touchTree v.plru w } 0 (i.gotPage r.pgsz e)
        | none =>
          match s.walk l.part i.map r i.kstream page with
          | .error e => (put v 1 i).foxFault u i e
          | .ok e => (put (v.place e) 1 (i.gotPage r.pgsz e)).chargeLines l.part (s.walkReads r page)

/-! ### A block of a head (R138, R142, R143) -/

/-- A sum of products of 16-bit operands in the order of R90: a tree in each chunk of 128, chunks in ascending order. -/
def chunkSum : Nat → List Fp → Fp → Fp
  | 0, _, acc => acc
  | n + 1, ps, acc =>
    let c := ps.take 128
    chunkSum n (ps.drop 128) (Fp.rne32 (Fp.add acc (Fp.tree32 7 ((c ++ List.replicate (128 - c.length) Fp.zero).map Fp.rne32))))

/-- qk or pv over a list of exact products (R142). -/
def foxDot (bf : Bool) (ps : List Fp) : Fp :=
  if bf then chunkSum (ceilDiv ps.length 128) ps Fp.zero else Fp.rne32 (ps.foldl Fp.add Fp.zero)

/-- The values of `n` elements of a format from an address. -/
def State.elems (s : State) (f a n : Nat) : List Fp := (List.range n).map (fun i => elemVal f 0 (elemOf s.seen a (fmtBits f) i))

/-- One row's running values after a block (R142, R143). `ks`: for each key of the block its visibility, K and V row. -/
def FoxRow.block (r : FoxRow) (c : Acfg) (q : List Fp) (ks : List (Bool × List Fp × List Fp)) : FoxRow :=
  let bf := c.kfmt == 1
  let z : List (Option Fp × Bool) := ks.map (fun (vis, k, _) =>
    if vis then
      let x := foxDot bf (List.zipWith Fp.mul q k)
      let y := Fp.rne32 (Fp.mul x c.scale)
      (some y, !(Fp.isFin x && Fp.isFin y))
    else (none, false))
  if z.all (fun e => e.1.isNone) then r
  else if r.bad ∨ z.any (·.2) then { r with bad := true }
  else
    let m := Fp.of32 r.m.toNat
    let mn := z.foldl (fun a e => match e.1 with
      | some y => Fp.max a y
      | none => a) m
    let e2 (x : Fp) : Fp := Fp.of32 (factoryRun 1 (Fp.to32 (Fp.rne32 x)))
    let a := e2 (Fp.sub m mn)
    let p := z.map (fun e => match e.1 with
      | some y => e2 (Fp.sub y mn)
      | none => Fp.zero)
    let pc := p.map (fun x => if bf then Fp.ofBf16 (Fp.toBf16 x) else Fp.ofE4M3 (Fp.toE4M3 x))
    let w (x : Fp) : W32 := BitVec.ofNat 32 (Fp.to32 x)
    { m := w mn
      l := w (Fp.add (Fp.mul a (Fp.of32 r.l.toNat)) (Fp.tree32 8 p))
      o := (List.range c.d).map (fun n =>
        let ps := List.zipWith (fun (k : Bool × List Fp × List Fp) x => if k.1 then Fp.mul x (k.2.2.getD n .zero) else Fp.zero) ks pc
        w (Fp.add (Fp.mul a (Fp.of32 (r.o.getD n 0).toNat)) (foxDot bf ps)))
      bad := false }

/-- The address of key slot `k`'s K row, with the distance to its V row, among the translated pages of a block. -/
def keyRow (ps : List LabEntry) (pgsz : Bool) (k : Nat) : Nat × Nat :=
  let n := pageSlots pgsz
  match ps.find? (fun e => e.page = k / n) with
  | some e => (e.addr + k % n * e.rowBytes, n * e.rowBytes)
  | none => (0, 0)

/-- FOX_BLOCK_COMPUTE: the next visited block of the head, once its pages are translated. The queries of a head are read with its first
block. -/
def foxBlockCompute (u : Nat) (s : State) : State :=
  match (s.fox u).item with
  | none => s
  | some i =>
    match s.launch i.launch, i.todo with
    | some l, b :: rest =>
      let c := parseAcfg l.k.acfg
      let h := s.mapHeader i.map
      let rk := s.stream h i.kstream
      let len := i.len i.kstream
      if i.phase ≠ 2 ∨ i.nh ≤ i.h ∨ i.blk ≤ i.done ∨ !s.regOpen l.part 0 then s
      else
        let n := min 256 (len - 256 * b)
        let rows := s.queryRows i (s.stream h i.qstream)
        let qa (r : Nat) : Nat := (i.w 3) % 2 ^ 48 + r * c.qstride + (i.h0 + i.h) * c.d * elemBytes c.qfmt
        let ca := rk.coord + 8 * 256 * b
        let coords := (List.range n).map (fun j => s.seenLe (rk.coord + 8 * (256 * b + j)) 8)
        let qs := rows.map (fun e => (qa e.1, c.d * elemBytes c.qfmt))
        match s.checkSpans l.part true false ((ca, 8 * n) :: qs) with
        | some f => s.foxFault u i f
        | none =>
          if coords.any coordBad then s.foxFault u i (itemFault 0x10)
          else
            let mk := parseMask (s.seenBytes (c.mtab + 64 * i.mask) 64)
            let hb := (i.h0 + i.h) * c.d * elemBytes c.kfmt
            let ps := (i.pages.filter (·.1 = i.done)).map (·.2)
            let at_ (j : Nat) : Nat × Nat := keyRow ps rk.pgsz (256 * b + j)
            let kv := (List.range n).map (fun j => (s.elems c.kfmt ((at_ j).1 + hb) c.d, s.elems c.vfmt ((at_ j).1 + (at_ j).2 + hb) c.d))
            let pad := List.replicate (256 - n) (false, ([] : List Fp), ([] : List Fp))
            let upd (rs : List FoxRow) (e : Nat × Nat) : List FoxRow :=
              let ks := List.zipWith (fun w (x : List Fp × List Fp) => (!isHole w && mk.passes e.2 w, x.1, x.2)) coords kv ++ pad
              rs.set e.1 ((rs.getD e.1 { m := 0xFF800000, l := 0, o := [], bad := false }).block c (s.elems c.qfmt (qa e.1) c.d) ks)
            let reads := (ca, 8 * n) :: (if i.todo.length = i.visit.length then qs else []) ++
              (List.range n).flatMap (fun j => [((at_ j).1 + hb, c.d * elemBytes c.kfmt), ((at_ j).1 + (at_ j).2 + hb, c.d * elemBytes c.vfmt)])
            let bad := reads.any (fun (a, n) => s.poisoned a n)
            let j := { i with rows := rows.foldl upd i.rows, todo := rest, poison := i.poison || bad,
                              pages := i.pages.filter (fun e => e.1 ≠ i.done) }
            let j := if rest = [] then j.finishHead c rows else j
            ((s.chargeLines l.part reads).putItem u i.emptyRows j).updFox u (fun f => { f with visit := f.visit + 1 })
    | _, _ => s

/-! ### The end of an item (R145) -/

/-- FOX_ITEM_COMPLETE: every head is finished: the outputs are written, the epoch is released, SSEM is signalled. An item picked for an
audit keeps its epoch pinned for it (R354). A signal that overflows faults the item after its outputs are complete (R159). -/
def foxItemComplete (u : Nat) (s : State) : State :=
  match (s.fox u).item with
  | none => s
  | some i =>
    match s.launch i.launch with
    | none => s
    | some l =>
      if i.phase ≠ 2 ∨ i.h < i.nh ∨ !s.regOpen l.part 0 then s
      else
        match s.checkSpans l.part false true (i.outs.map (fun o => (o.1, o.2.length))) with
        | some f => s.foxFault u i f
        | none =>
          let s := (s.writes i.outs).charge l.part 0 (spansDram i.outs)
          let s := if i.poison then i.outs.foldl (fun s w => s.taint w.1 w.2.length) s else s
          let free (s : State) : State :=
            if l.picked i.idx then s.updLaunch i.launch (fun q => { q with pins := tins q.pins i.idx i.map }) else s.unpin i.map
          let done (s : State) : State :=
            ((s.chargeEngine .fox i.launch (12 * s.cyclesSince i.since)).updLaunch i.launch (fun q =>
              { q with ended := q.ended + 1 })).updFox u (fun f => { f with item := none, workSince := s.time })
          match i.ssem with
          | none => done (free s)
          | some (die, k) =>
            match (free s).semAdd die k 1 with
            | some s => done s
            | none => s.foxEnd u i (itemFault 5)

/-- FOX_ITEM_START. -/
def execFoxItemStart (u : Nat) (s : State) : Host.Outcome State Fault Refusal := .next (foxItemStart u s)
/-- MAP_EPOCH_PIN. -/
def execMapEpochPin (u : Nat) (s : State) : Host.Outcome State Fault Refusal := .next (mapEpochPin u s)
/-- FOX_LAB_FILL. -/
def execFoxLabFill (u page : Nat) (s : State) : Host.Outcome State Fault Refusal := .next (foxLabFill u page s)
/-- FOX_BLOCK_COMPUTE. -/
def execFoxBlockCompute (u : Nat) (s : State) : Host.Outcome State Fault Refusal := .next (foxBlockCompute u s)
/-- FOX_ITEM_COMPLETE. -/
def execFoxItemComplete (u : Nat) (s : State) : Host.Outcome State Fault Refusal := .next (foxItemComplete u s)

end Sys2Proof.Machine
end

