-- ==== Sys2Proof/Machine/Primrose.lean ====
section
/-!
DEFINITION. The Primrose engines: jobs, convolution and colour conversion (R188 to R196).
-/

namespace Sys2Proof.Machine

/-- Engine `e`. -/
def State.prim (s : State) (e : Nat) : Prim := tget (fun _ => Prim.reset) s.prims e
/-- The state with an engine replaced. -/
def State.setPrim (s : State) (e : Nat) (p : Prim) : State := { s with prims := tput (fun _ => Prim.reset) s.prims e p }
/-- The state with an engine changed. -/
def State.updPrim (s : State) (e : Nat) (f : Prim → Prim) : State := s.setPrim e (f (s.prim e))

/-! ### Jobs (R190, R191) -/

/-- A job's fields. -/
structure Job where
  op : Nat
  ifmt : Nat
  ofmt : Nat
  kt : Nat
  kh : Nat
  kw : Nat
  sy : Nat
  sx : Nat
  padt : Nat
  pady : Nat
  padx : Nat
  cin : Nat
  cout : Nat
  iaddr : Nat
  it : Nat
  ih : Nat
  iw : Nat
  its : Nat
  iys : Nat
  oaddr : Nat
  ots : Nat
  oys : Nat
  t0 : Nat
  y0 : Nat
  x0 : Nat
  ot : Nat
  oh : Nat
  ow : Nat
  waddr : Nat
  baddr : Nat
  wsem : Option (Nat × Nat)
  wval : Nat
  ssem : Option (Nat × Nat)
  bt2020 : Bool
  d10 : Bool
  caddr : Nat
  w : List Nat
  deriving DecidableEq, Repr

/-- The fields of a job's words. -/
def parseJob (ws : List W64) : Job :=
  let w (n : Nat) : Nat := (ws.getD n 0).toNat
  let b (n lo k : Nat) : Nat := bits (w n) lo k
  let sem (n : Nat) : Option (Nat × Nat) := if bit (w n) 13 then some (b n 12 1, b n 0 12) else none
  { op := b 0 0 4, ifmt := b 0 4 4, ofmt := b 0 8 4, kt := b 0 12 3, kh := b 0 15 3, kw := b 0 18 3, sy := b 0 21 1 + 1,
    sx := b 0 22 1 + 1, padt := b 0 23 3, pady := b 0 26 3, padx := b 0 29 3, cin := b 0 32 10 + 1, cout := b 0 42 8 + 1,
    iaddr := b 1 0 48, it := b 2 0 16, ih := b 2 16 16, iw := b 2 32 16, its := b 3 0 32, iys := b 3 32 32, oaddr := b 4 0 48,
    ots := b 5 0 32, oys := b 5 32 32, t0 := b 6 0 16, y0 := b 6 16 16, x0 := b 6 32 16, ot := b 7 0 16, oh := b 7 16 16,
    ow := b 7 32 16, waddr := b 8 0 48, baddr := b 9 0 48, wsem := sem 10, wval := b 10 32 32, ssem := sem 11, bt2020 := bit (w 12) 0,
    d10 := bit (w 12) 1, caddr := b 13 0 48, w := ws.map (·.toNat) }

/-- A reserved field is nonzero. -/
def Job.reserved (j : Job) : Bool :=
  let w (n : Nat) : Nat := j.w.getD n 0
  decide (bits (w 0) 50 14 ≠ 0 ∨ w 14 ≠ 0 ∨ w 15 ≠ 0 ∨ bits (w 10) 14 18 ≠ 0 ∨ bits (w 11) 14 50 ≠ 0 ∨ bits (w 12) 2 62 ≠ 0) ||
  [1, 2, 4, 6, 7, 8, 9, 13].any (fun n => bits (w n) 48 16 ≠ 0)

/-- The output elements' bytes: of OFMT, or of a colour sample (R195). -/
def Job.ob (j : Job) : Nat := if j.op = 1 then elemBytes j.ofmt else if j.d10 then 2 else 1

/-- A CSC job breaks R195, or a field that does not apply to it is nonzero. -/
def Job.cscBad (j : Job) : Bool :=
  decide (j.cin ≠ 3 ∨ j.kt ≠ 1 ∨ j.kh ≠ 1 ∨ j.kw ≠ 1 ∨ j.padt ≠ 0 ∨ j.pady ≠ 0 ∨ j.padx ≠ 0 ∨ j.sy ≠ 1 ∨ j.sx ≠ 1 ∨ j.cout ≠ 1 ∨
    j.y0 % 2 ≠ 0 ∨ j.x0 % 2 ≠ 0 ∨ j.oh % 2 ≠ 0 ∨ j.ow % 2 ≠ 0 ∨ j.it < j.t0 + j.ot ∨ j.ih < j.y0 + j.oh ∨ j.iw < j.x0 + j.ow ∨
    j.waddr ≠ 0 ∨ j.baddr ≠ 0 ∨ j.ofmt ≠ 0)

/-- The job is malformed (R191); a box of no frame, row or column is outside its field's range. -/
def Job.malformed (j : Job) : Bool :=
  let ib := elemBytes j.ifmt
  let f (x : Nat) : Bool := j.ifmt == x
  j.reserved || decide (j.ot = 0 ∨ j.oh = 0 ∨ j.ow = 0) ||
  (if j.op = 1 then
    !(f 0 || f 1 || f 3) || decide (1 < j.ofmt) || j.bt2020 || j.d10 || decide (j.caddr ≠ 0)
  else if j.op = 2 then !(f 0 || f 1) || j.cscBad
  else true) ||
  decide (j.kt = 0 ∨ j.kh = 0 ∨ j.kw = 0 ∨ j.kt ≤ j.padt ∨ j.kh ≤ j.pady ∨ j.kw ≤ j.padx ∨ 16 < min j.cin j.cout ∨
    j.its % 64 ≠ 0 ∨ j.iys % 64 ≠ 0 ∨ j.ots % 64 ≠ 0 ∨ j.oys % 64 ≠ 0 ∨ j.iaddr % ib ≠ 0 ∨ j.oaddr % max 1 j.ob ≠ 0 ∨
    j.waddr % 64 ≠ 0 ∨ 2 ^ 21 < j.kt * (j.kh + j.sy) * ((j.ow - 1) * j.sx + j.kw) * j.cin * ib)

/-! ### Convolution (R192) -/

/-- Address of an input element. -/
def Job.inAt (j : Job) (t y x c : Nat) : Nat := j.iaddr + t * j.its + y * j.iys + (x * j.cin + c) * elemBytes j.ifmt

/-- Address of an output element of the box. -/
def Job.outAt (j : Job) (t y x co : Nat) : Nat := j.oaddr + t * j.ots + y * j.oys + (x * j.cout + co) * j.ob

/-- A coordinate with its leading pad taken off, where it lies inside `n`. -/
def inside (a pad n : Nat) : Option Nat := if pad ≤ a ∧ a - pad < n then some (a - pad) else none

/-- One output element (R192). -/
def State.conv (s : State) (j : Job) (t y x co : Nat) : Fp :=
  let acc0 := if j.baddr ≠ 0 then Fp.of32 (s.seenLe (j.baddr + 4 * co) 4) else Fp.zero
  let taps := (List.range j.kt).flatMap (fun a => (List.range j.kh).flatMap (fun b => (List.range j.kw).map (fun c => (a, b, c))))
  taps.foldl (fun acc (a, b, c) =>
    (List.range (ceilDiv j.cin 16)).foldl (fun acc g =>
      let ps := (List.range 16).map (fun k =>
        let n := 16 * g + k
        if n < j.cin then
          let v := match inside (t + a) j.padt j.it, inside (y * j.sy + b) j.pady j.ih, inside (x * j.sx + c) j.padx j.iw with
            | some t', some y', some x' => elemVal j.ifmt 0 (s.seenLe (j.inAt t' y' x' n) (elemBytes j.ifmt))
            | _, _, _ => Fp.zero
          let w := Fp.ofBf16 (s.seenLe (j.waddr + 2 * ((((co * j.kt + a) * j.kh + b) * j.kw + c) * j.cin + n)) 2)
          Fp.rne32 (Fp.mul v w)
        else Fp.zero)
      Fp.rne32 (Fp.add acc (Fp.tree32 4 ps))) acc) acc0

/-- The frames, rows and columns of the box. -/
def Job.box (j : Job) : List (Nat × Nat × Nat) :=
  (List.range j.ot).flatMap (fun t => (List.range j.oh).flatMap (fun y => (List.range j.ow).map (fun x => (t, y, x))))

/-- What a CONV job writes. -/
def State.convOut (s : State) (j : Job) : List (Nat × List Byte) :=
  j.box.map (fun (t, y, x) => (j.outAt t y x 0, (List.range j.cout).flatMap (fun co =>
    toLe j.ob (toFmt j.ofmt (s.conv j (j.t0 + t) (j.y0 + y) (j.x0 + x) co)))))

/-! ### Colour conversion (R195, R196) -/

/-- A component clamped to [0.0, 1.0]; NaN is 0.0. -/
def clampUnit (x : Fp) : Fp :=
  if Fp.isNan x then Fp.zero else if Fp.lt x Fp.zero then Fp.zero else if Fp.lt (Fp.ofInt 1) x then Fp.ofInt 1 else x

/-- cR, cG, cB and O of a sample: 0 Y, 1 Cb, 2 Cr (R196). -/
def cscCoef (bt2020 : Bool) (n : Nat) : Int × Int × Int × Int :=
  match bt2020, n with
  | false, 0 => (3051317, 10264825, 1036242, 16)
  | false, 1 => (-1681926, -5658106, 7340032, 128)
  | false, _ => (7340032, -6666994, -673038, 128)
  | true, 0 => (3770371, 9730916, 851097, 16)
  | true, 1 => (-2049778, -5290254, 7340032, 128)
  | true, _ => (7340032, -6749684, -590348, 128)

/-- A sample of three exact components (R196). -/
def cscSample (bt2020 d10 : Bool) (n : Nat) (r g b : Fp) : Nat :=
  let (cr, cg, cb, o) := cscCoef bt2020 n
  let k : Int := if d10 then 4 else 1
  let term (c : Int) (x : Fp) : Fp := Fp.mul (Fp.ofInt (k * c)) x
  (Fp.rneInt (Fp.scale2 (Fp.add (Fp.add (Fp.ofInt (k * o * 65536)) (term cr r)) (Fp.add (term cg g) (term cb b))) (-16))).toNat

/-- The clamped component `c` of an input pixel. -/
def State.pixel (s : State) (j : Job) (t y x c : Nat) : Fp :=
  clampUnit (elemVal j.ifmt 0 (s.seenLe (j.iaddr + t * j.its + y * j.iys + (3 * x + c) * elemBytes j.ifmt) (elemBytes j.ifmt)))

/-- What a CSC job writes. -/
def State.cscOut (s : State) (j : Job) : List (Nat × List Byte) :=
  j.box.flatMap (fun (t, y, x) =>
    let px (dy dx c : Nat) : Fp := s.pixel j (j.t0 + t) (j.y0 + y + dy) (j.x0 + x + dx) c
    let luma := (j.oaddr + t * j.ots + y * j.oys + x * j.ob, toLe j.ob (cscSample j.bt2020 j.d10 0 (px 0 0 0) (px 0 0 1) (px 0 0 2)))
    let mean (c : Nat) : Fp := Fp.scale2 (Fp.add (Fp.add (px 0 0 c) (px 0 1 c)) (Fp.add (px 1 0 c) (px 1 1 c))) (-2)
    if y % 2 = 0 ∧ x % 2 = 0 then
      [luma, (j.caddr + t * j.ots + y / 2 * j.oys + x / 2 * 2 * j.ob,
        toLe j.ob (cscSample j.bt2020 j.d10 1 (mean 0) (mean 1) (mean 2)) ++ toLe j.ob (cscSample j.bt2020 j.d10 2 (mean 0) (mean 1) (mean 2)))]
    else [luma])

/-! ### What a job reads and writes (R192, R193, R207) -/

/-- The input coordinates inside `n` that an output coordinate of `lo` to `lo + m - 1` reaches by `k` taps, each once. -/
def tapped (lo m stride k pad n : Nat) : List Nat :=
  ((List.range m).flatMap (fun y => (List.range k).filterMap (fun b => inside ((lo + y) * stride + b) pad n))).eraseDups

/-- The input pixels of the `t`-th output frame of a job, one span each: the engine reads each once for each output frame that uses it (R193). -/
def Job.framePixels (j : Job) (t : Nat) : List (Nat × Nat) :=
  (tapped (j.t0 + t) 1 1 j.kt j.padt j.it).flatMap (fun t' => (tapped j.y0 j.oh j.sy j.kh j.pady j.ih).flatMap (fun y' =>
    (tapped j.x0 j.ow j.sx j.kw j.padx j.iw).map (fun x' => (j.inAt t' y' x' 0, j.cin * elemBytes j.ifmt))))

/-- The bias and the weights. -/
def Job.params (j : Job) : List (Nat × Nat) :=
  if j.op = 1 then
    (if j.baddr ≠ 0 then [(j.baddr, 4 * j.cout)] else []) ++ [(j.waddr, 2 * j.cout * j.kt * j.kh * j.kw * j.cin)]
  else []

/-- Every span a job reads. -/
def Job.reads (j : Job) : List (Nat × Nat) := j.params ++ (List.range j.ot).flatMap j.framePixels

/-- The bytes of DRAM lines that a job's reads are charged as (R193, R295). -/
def Job.readBytes (j : Job) : Nat :=
  lineBytes (2 * dieBytes) j.params + ((List.range j.ot).map (fun t => lineBytes (2 * dieBytes) (j.framePixels t))).foldl (· + ·) 0

/-- Every span a job writes (R190, R195). -/
def Job.outSpans (j : Job) : List (Nat × Nat) :=
  if j.op = 1 then j.box.map (fun (t, y, x) => (j.outAt t y x 0, j.cout * j.ob))
  else if j.op = 2 then
    j.box.flatMap (fun (t, y, x) => (j.oaddr + t * j.ots + y * j.oys + x * j.ob, j.ob) ::
      (if y % 2 = 0 ∧ x % 2 = 0 then [(j.caddr + t * j.ots + y / 2 * j.oys + x / 2 * 2 * j.ob, 2 * j.ob)] else []))
  else []

/-! ### Start and completion -/

/-- The job of an engine ends with a fault (R194). -/
def State.primEnd (s : State) (e : Nat) (b : PrimJob) (f : ItemFault) : State :=
  let s := s.chargeEngine .prim b.launch (12 * s.cyclesSince b.since)
  (s.itemFaulted b.launch e b.idx f).updPrim e (fun q => { q with job := none, workSince := s.time })

/-- A job faults before its outputs are complete: they are undefined (R194). -/
def State.primFault (s : State) (e : Nat) (b : PrimJob) (f : ItemFault) : State :=
  let s := s.primEnd e b f
  match s.launch b.launch with
  | some l => s.freeSpans l.part (parseJob b.words).outSpans
  | none => s

/-- Physical Primrose engine of a number: its own, or the die's other engine after a quarantine (R364). -/
def State.primUnit (s : State) (e : Nat) : Nat := (oget s.health.map (2048 + e)).getD e

/-- The next job of a number's launch is there to be started. -/
def State.primReady (s : State) (e : Nat) : Option Launch :=
  match (s.prim e).launch.bind s.launch with
  | none => none
  | some l =>
    let es := maskList 4 l.e.mask
    if l.started ∧ !l.killed ∧ (s.prim e).k * es.length + es.idxOf e < l.e.e0 then some l else none

/-- Number `e` may start a job of launch `l`: where both numbers of a die share an engine they alternate at job boundaries,
beginning with the number whose launch was accepted first (R364). -/
def State.primTurn (s : State) (e : Nat) (l : Launch) : Bool :=
  let o := if e % 2 = 0 then e + 1 else e - 1
  if s.primUnit e ≠ s.primUnit o then true
  else if (s.prim o).job.isSome then false
  else match s.primReady o with
    | none => true
    | some m => match oget s.health.alt (e / 2) with
      | some last => if last = e then false else if last = o then true else decide (l.order ≤ m.order)
      | none => decide (l.order ≤ m.order)

/-- PRIM_JOB_START (R189, R191): an engine that is still assigned to the partition (R282) reads the next job of its share; WSEM outside the partition's range
faults (R299). -/
def primJobStart (e : Nat) (s : State) : State :=
  let q := s.prim e
  match q.launch with
  | none => s
  | some key =>
    match s.launch key with
    | none => s
    | some l =>
      let es := maskList 4 l.e.mask
      let n := q.k * es.length + es.idxOf e
      if q.job.isSome ∨ !l.started ∨ l.killed ∨ l.again.contains (e, 0) ∨ q.power ≠ .run ∨ l.e.e0 ≤ n ∨ !s.primTurn e l ∨
        !s.engineOf l.part .prim e ∨ !s.regOpen l.part 0 then s
      else
        let a := l.e.arg + 128 * n
        let may := s.permits l.part a 128 true false false
        let b : PrimJob :=
          { launch := key, idx := n, since := s.time,
            words := if may then (List.range 16).map (fun i => BitVec.ofNat 64 (s.seenLe (a + 8 * i) 8)) else List.replicate 16 0 }
        let s := (s.updLaunch key (fun l => { l with begun := l.begun + 1 })).updPrim e (fun q => { q with k := q.k + 1, job := some b })
        let s := { s with health := { s.health with alt := tins s.health.alt (e / 2) e } }
        if !may then s.primFault e b (itemSpan a 128)
        else
          let s := s.chargeLines l.part [(a, 128)]
          match (parseJob b.words).wsem with
          | some (die, k) => if s.semIn l.part k then s else s.primFault e b (itemRegion (syncWord die k))
          | none => s

/-- PRIM_JOB_COMPLETE (R191, R192, R194): the wait is met: the job is checked, its outputs are written and SSEM is
signalled. -/
def primJobComplete (e : Nat) (s : State) : State :=
  match (s.prim e).job with
  | none => s
  | some b =>
    match s.launch b.launch with
    | none => s
    | some l =>
      let j := parseJob b.words
      let met := match j.wsem with
        | some (die, k) => decide (j.wval ≤ (s.sem die k).value.toNat)
        | none => true
      if !met ∨ !s.regOpen l.part 0 then s
      else if j.malformed then s.primFault e b (itemFault 0x20)
      else
        match (match j.ssem with
          | some (die, k) => if s.semIn l.part k then none else some (itemRegion (syncWord die k))
          | none => none), s.checkSpans l.part true false j.reads, s.checkSpans l.part false true j.outSpans with
        | some f, _, _ => s.primFault e b f
        | none, some f, _ => s.primFault e b f
        | none, none, some f => s.primFault e b f
        | none, none, none =>
          let ws := if j.op = 1 then s.convOut j else s.cscOut j
          let bad := s.poisoned (l.e.arg + 128 * b.idx) 128 || j.reads.any (fun r => s.poisoned r.1 r.2)
          let s := (s.writes ws).charge l.part 0 (spansDram ws + j.readBytes)
          let s := if bad then ws.foldl (fun s w => s.taint w.1 w.2.length) s else s
          let done (s : State) : State :=
            ((s.chargeEngine .prim b.launch (12 * s.cyclesSince b.since)).updLaunch b.launch (fun q => { q with ended := q.ended + 1 })).updPrim e
              (fun q => { q with job := none, workSince := s.time })
          match j.ssem with
          | none => done s
          | some (die, k) =>
            match s.semAdd die k 1 with
            | some s => done s
            | none => s.primEnd e b (itemFault 5)

/-- PRIM_JOB_START. -/
def execPrimJobStart (e : Nat) (s : State) : Host.Outcome State Fault Refusal := .next (primJobStart e s)
/-- PRIM_JOB_COMPLETE. -/
def execPrimJobComplete (e : Nat) (s : State) : Host.Outcome State Fault Refusal := .next (primJobComplete e s)

end Sys2Proof.Machine
end

