-- ==== Sys2Proof/Machine/Store.lean ====
section
/-!
DEFINITION. The flash store below its objects: dies, planes, blocks and their maps (R231, R232, R238), stripe rows and parity (R233,
R234), where new data goes (R241), relocation, failed dies (R237) and what each of these programs (R245, R249).
-/

namespace Sys2Proof.Machine

/-! ### Geometry (R231 to R233) -/

/-- A size that YZ960-08TC halves. -/
def variantBytes (n : Nat) : Nat := if Config.is16TC then n else n / 2
/-- Data bytes of a page. -/
def pageBytes : Nat := 16384
/-- Pages of a block (R232). -/
def blkPages : Nat := 1152
/-- Data bytes of a block (R232). -/
def blkBytes : Nat := 18874368
/-- Physical blocks of a plane (R232). -/
def planeBlks : Nat := if Config.is16TC then 414 else 207
/-- Logical blocks of a plane (R232). -/
def planeLogs : Nat := if Config.is16TC then 400 else 200
/-- Physical blocks of a die: four planes. -/
def blksPerDie : Nat := if Config.is16TC then 1656 else 828
/-- Logical blocks of a die. -/
def dieLogs : Nat := 4 * planeLogs
/-- Raw data capacity. -/
def rawBytes : Nat := 512 * blksPerDie * blkBytes
/-- Usable capacity. -/
def usableBytes : Nat := variantBytes 12000000000000
/-- The die of a physical block: its number is counted die by die, and plane by plane in a die (log 12). -/
def dieOfBlk (b : Nat) : Nat := b / blksPerDie

/-- The stripe group of a die (R233): dies are numbered by channel, target and LUN (log 12). -/
def dieGroup (d : Nat) : Nat := d / 256 * 8 + d % 8
/-- A die's position in its group: its channel modulo 32. -/
def diePos (d : Nat) : Nat := d / 8 % 32
/-- The die at a position of a group. -/
def dieAt (g pos : Nat) : Nat := (32 * (g / 8) + pos) * 8 + g % 8
/-- The group and the logical block of a stripe block's number (log 12). -/
def stripeAt (sb : Nat) : Nat × Nat := (sb / dieLogs, sb % dieLogs)
/-- The position that holds a stripe block's parity (R233). -/
def parityPos (sb : Nat) : Nat := (stripeAt sb).2 % 32

/-! ### Parity (R233, R235) -/

/-- The bytewise XOR of two pages. -/
def xorPage (a b : List Byte) : List Byte := List.zipWith (· ^^^ ·) a b
/-- The parity page of a stripe row's `n`-byte data pages. -/
def parityPage (n : Nat) (ps : List (List Byte)) : List Byte := ps.foldl xorPage (List.replicate n 0)
/-- A page rebuilt from the other pages of its row and the parity page. -/
def rebuildPage (n : Nat) (others : List (List Byte)) (parity : List Byte) : List Byte := xorPage parity (parityPage n others)

/-- The most bit errors of a codeword that a hard decode corrects (R233). -/
def hardLimit : Nat := 120

/-! ### Blocks (R238, R239) -/

/-- Block `b`. -/
def Flash.blk (f : Flash) (b : Nat) : FlashBlk := tget (fun _ => FlashBlk.reset) f.blks b
/-- The store with a block replaced. -/
def Flash.setBlk (f : Flash) (b : Nat) (v : FlashBlk) : Flash := { f with blks := tput (fun _ => FlashBlk.reset) f.blks b v }
/-- A block is in the factory or the grown bad-block table. -/
def Flash.isBad (f : Flash) (b : Nat) : Bool := Config.factoryBad.contains b || (f.blk b).bad

/-- The physical blocks of a plane of die `d`. -/
def planeOf (d plane : Nat) : List Nat := (List.range planeBlks).map (d * blksPerDie + plane * planeBlks + ·)

/-- The physical block of logical block `q` of die `d`: at first, the plane's blocks without the factory's bad ones in turn (log 12). -/
def Flash.phys (f : Flash) (d q : Nat) : Option Nat :=
  match oget f.map (d * dieLogs + q) with
  | some m => m
  | none => ((planeOf d (q / planeLogs)).filter (fun b => !Config.factoryBad.contains b))[q % planeLogs]?

/-- The logical block of its die that a physical block holds. -/
def Flash.logical (f : Flash) (b : Nat) : Option Nat := (List.range dieLogs).find? (fun q => f.phys (dieOfBlk b) q = some b)

/-- A spare block of the plane of logical block `q`: neither bad nor mapped, the lowest (log 12). -/
def Flash.spareFor (f : Flash) (d q : Nat) : Option Nat :=
  let plane := q / planeLogs
  let used := (List.range planeLogs).filterMap (fun i => f.phys d (plane * planeLogs + i))
  (planeOf d plane).find? (fun b => !f.isBad b && !used.contains b)

/-- The spare block that a relocation takes: the controller's choice `dst` where that is a spare of the plane, else the lowest (log 12). -/
def Flash.spareAt (f : Flash) (d q dst : Nat) : Option Nat :=
  if dst ∈ planeOf d (q / planeLogs) ∧ f.isBad dst = false ∧ f.logical dst = none then some dst else f.spareFor d q

/-- The blocks of a stripe block, by position. -/
def Flash.stripeBlks (f : Flash) (sb : Nat) : List (Nat × Nat) :=
  let (g, q) := stripeAt sb
  (List.range 32).filterMap (fun pos => (f.phys (dieAt g pos) q).map (fun b => (pos, b)))

/-- The stripe block whose rows a physical block holds pages of. -/
def Flash.stripeOf (f : Flash) (b : Nat) : Option (Nat × Stripe) :=
  (f.logical b).bind (fun q =>
    let sb := dieGroup (dieOfBlk b) * dieLogs + q
    (oget f.strs sb).bind (fun st => if st.out.contains (diePos (dieOfBlk b)) then none else some (sb, st)))

/-- Valid rows of a stripe block. -/
def Stripe.valid (st : Stripe) : Nat := (st.live.map (·.2)).foldl (· + ·) 0

/-- Data bytes of a stripe row (R233, R237). -/
def Stripe.rowBytes (st : Stripe) : Nat := (31 - st.out.length) * pageBytes

/-! ### Programming (R234, R241, R245) -/

/-- `k` pages are programmed: FLS_PROG_BYTES and the credit follow (R245, R249). -/
def Flash.spend (f : Flash) (k : Nat) : Flash :=
  { f with credit := f.credit - pageBytes * k, progBytes := f.progBytes + BitVec.ofNat 64 (pageBytes * k) }

/-- One update of the journal: a page in single-level mode, mirrored on two dies of different groups (R234); an update takes one page
(log 12). -/
def Flash.journal (f : Flash) : Flash := f.spend 2

/-- The sum of a stripe block's erase counts, and its number of blocks. -/
def Flash.wearOf (f : Flash) (sb : Nat) : Nat × Nat :=
  let bs := f.stripeBlks sb
  ((bs.map (fun b => (f.blk b.2).erases)).foldl (· + ·) 0, bs.length)

/-- The stripe block of lowest mean erase count that satisfies a test; the lowest number among equals (log 12). -/
def Flash.leastWorn (f : Flash) (ok : Nat → Bool) : Option Nat :=
  ((List.range (16 * dieLogs)).filter ok).foldl (fun best sb => match best with
    | none => some sb
    | some b =>
      let x := f.wearOf sb
      let y := f.wearOf b
      if x.1 * y.2 < y.1 * x.2 then some sb else best) none

/-- Positions of a group whose dies new rows at a logical block leave out: failed dies, and planes without a spare (R237, R238). -/
def Flash.missing (f : Flash) (sb : Nat) : List Nat :=
  let (g, q) := stripeAt sb
  (List.range 32).filter (fun pos => f.failed.contains (dieAt g pos) || (f.phys (dieAt g pos) q).isNone)

/-- Rows of an owner added to a stripe block. -/
def Stripe.add (st : Stripe) (o : FlashOwner) (k : Nat) : Stripe :=
  { st with rows := st.rows + k,
            live := (o, k + ((st.live.find? (·.1 = o)).map (·.2)).getD 0) :: st.live.filter (fun e => e.1 ≠ o) }

/-- The blocks of a stripe block have been programmed: their read counters begin again (R239). -/
def Flash.programmed (f : Flash) (sb : Nat) : Flash :=
  (f.stripeBlks sb).foldl (fun f b => f.setBlk b.2 { f.blk b.2 with reads := 0, valid := true }) f

/-- `n` bytes of an owner are written as whole stripe rows with their parity (R234): into the stripe block in use, then into the free
one of lowest mean erase count (R241). -/
def Flash.place (o : FlashOwner) : Nat → Nat → Flash → Flash
  | 0, _, f => f
  | fuel + 1, n, f =>
    if n = 0 then f
    else
      match f.head.bind (fun h => (oget f.strs h).bind (fun st => if st.rows < blkPages then some (h, st) else none)) with
      | some (h, st) =>
        let k := min (ceilDiv n st.rowBytes) (blkPages - st.rows)
        Flash.place o fuel (n - k * st.rowBytes)
          (({ f with strs := tins f.strs h (st.add o k) } : Flash).spend (k * (32 - st.out.length)) |>.programmed h)
      | none =>
        match f.leastWorn (fun sb => (oget f.strs sb).isNone) with
        | none => f.spend (32 * ceilDiv n 507904)
        | some h => Flash.place o fuel n { f with head := some h, strs := tins f.strs h { rows := 0, out := f.missing h, live := [] } }

/-- `n` bytes of an owner's data are programmed. -/
def Flash.program (f : Flash) (o : FlashOwner) (n : Nat) : Flash := f.place o (2 * ceilDiv n pageBytes + 2) n

/-- An owner's rows are valid no more. -/
def Flash.release (f : Flash) (o : FlashOwner) : Flash :=
  { f with strs := f.strs.map (fun (sb, st) => (sb, { st with live := st.live.filter (fun e => e.1 ≠ o) })) }

/-- A complete new copy of an owner's data replaces the old one in one journal update (R218, R238). -/
def Flash.replace (f : Flash) (o : FlashOwner) (n : Nat) : Flash := ((f.release o).program o n).journal

/-! ### Relocation, erasure and bad blocks (R237, R238, R241) -/

/-- The valid rows of a stripe block are written elsewhere. -/
def Flash.moveStripe (f : Flash) (sb : Nat) : Flash :=
  match oget f.strs sb with
  | none => f
  | some st =>
    let f := { f with strs := tins f.strs sb { st with live := [] }, head := if f.head = some sb then none else f.head }
    (st.live.foldl (fun f e => f.program e.1 (e.2 * st.rowBytes)) f).journal

/-- A block is erased. -/
def Flash.erase (f : Flash) (b : Nat) : Flash :=
  let v := f.blk b
  f.setBlk b { v with erases := v.erases + 1, reads := 0, valid := false }

/-- A stripe block is erased, the unit of erase (R233), and is free. -/
def Flash.eraseStripe (f : Flash) (sb : Nat) : Flash :=
  let f := (f.stripeBlks sb).foldl (fun f b => f.erase b.2) f
  { f with strs := tdrop f.strs sb, head := if f.head = some sb then none else f.head }

/-- The valid pages of a block are copied to a spare of its plane, and the map switches in one journal update (R238): its bits stay as
they were. Where the plane has no spare, the stripe block's valid rows move, and later rows at that logical block leave the die out. -/
def Flash.relocateBy (f : Flash) (b : Nat) (pick : Nat → Nat → Option Nat) : Flash :=
  match f.logical b with
  | none => f
  | some q =>
    let d := dieOfBlk b
    let sb := dieGroup d * dieLogs + q
    match pick d q with
    | some sp =>
      let n := match f.stripeOf b with
        | some (_, st) => st.valid
        | none => 0
      let f := (({ f with map := tins f.map (d * dieLogs + q) (some sp) } : Flash).spend n).journal
      (f.setBlk sp { f.blk sp with valid := (f.blk b).valid, reads := 0 }).erase b
    | none =>
      let f := f.moveStripe sb
      if f.isBad b then { f with map := tins f.map (d * dieLogs + q) none } else f

/-- A block's data moves to the lowest spare of its plane. -/
def Flash.relocate (f : Flash) (b : Nat) : Flash := f.relocateBy b f.spareFor

/-- The spare capacity that bad blocks and failed dies leave (R244): what the usable capacity and its parity do not take. -/
def Flash.spare (f : Flash) : Int := (rawBytes : Int) - usableBytes * 32 / 31 - f.spareLost
/-- DEGRADED follows the spare capacity (R244). -/
def Flash.settle (f : Flash) : Flash := { f with degr := f.degr || decide (f.spare < variantBytes 1000000000000) }

/-- A block becomes grown bad (R236, R238): what is valid in it is copied, and its logical block is remapped to a spare. A block of a
failed die has left the spare capacity already. -/
def Flash.growBad (f : Flash) (b : Nat) : Flash :=
  if f.isBad b then f
  else
    let v := f.blk b
    let lost := if f.failed.contains (dieOfBlk b) then 0 else blkBytes
    let f := ({ f with grown := f.grown + 1, spareLost := f.spareLost + lost } : Flash).setBlk b { v with bad := true }
    let f := (f.relocate b).settle
    f.setBlk b { f.blk b with erases := v.erases, valid := false }

/-- Bytes of valid data on a die (R237). -/
def Flash.dieData (f : Flash) (d : Nat) : Nat :=
  (f.strs.map (fun (sb, st) =>
    if (stripeAt sb).1 = dieGroup d ∧ !st.out.contains (diePos d) then st.valid * pageBytes else 0)).foldl (· + ·) 0

/-- Dies of a die's group that have failed and are not rewritten yet, but for itself (R237). -/
def Flash.otherFailed (f : Flash) (d : Nat) : List Nat :=
  f.failed.filter (fun e => decide (e ≠ d ∧ dieGroup e = dieGroup d) && decide (0 < tget (fun _ => 0) f.left e))

/-- The stripe blocks with rows on both of two dies of a group. -/
def Flash.onBoth (f : Flash) (d e : Nat) : List (Nat × Stripe) :=
  f.strs.filter (fun (sb, st) => decide ((stripeAt sb).1 = dieGroup d) && !st.out.contains (diePos d) && !st.out.contains (diePos e))

/-- A die has failed (R237): its reads are served by rebuild, its valid data is to be rewritten, and its blocks are spare no more. -/
def Flash.failDie (f : Flash) (d : Nat) : Flash :=
  let gone := (f.blks.filter (fun (b, v) => dieOfBlk b == d && v.bad)).length + (Config.factoryBad.filter (fun b => dieOfBlk b == d)).length
  ({ f with failed := f.failed ++ [d], spareLost := f.spareLost + (blksPerDie - gone) * blkBytes,
            left := tput (fun _ => 0) f.left d (f.dieData d), head := none } : Flash).settle.journal

/-- `n` bytes more of a failed die are rewritten into other dies, as rows of 30 + 1 (R237); after the last ones no row touches the die. -/
def Flash.rebuild (f : Flash) (d n : Nat) : Flash :=
  let old := tget (fun _ => 0) f.left d
  let k := min n old
  let f := ({ f with left := tput (fun _ => 0) f.left d (old - k),
                     rebuilt := tput (fun _ => 0) f.rebuilt d (tget (fun _ => 0) f.rebuilt d + k) } : Flash).spend (31 * ceilDiv k (30 * pageBytes))
  if old = 0 ∨ k < old then f
  else { f with strs := f.strs.map (fun (sb, st) =>
    (sb, if (stripeAt sb).1 = dieGroup d ∧ !st.out.contains (diePos d) then { st with out := diePos d :: st.out } else st)) }

/-- Lowest and highest erase count of the module's blocks (R249). -/
def Flash.eraseRange (f : Flash) : Nat × Nat :=
  let es := f.blks.map (fun (_, v) => v.erases)
  (if f.blks.length < 512 * blksPerDie then 0 else es.foldl min 65535, es.foldl max 0)

/-! ### Reading (R235, R239) -/

/-- The codeword an operation reads next begins its ladder (R235): with the rebuild where its die has failed (R237). -/
def Flash.firstRung (f : Flash) (b : Nat) : Nat := if f.failed.contains (dieOfBlk b) then 17 else 0

/-- The block that an owner's next codeword lies in: one that holds its data, a free choice (log 10). -/
def State.ownerBlk (s : State) (o : Option FlashOwner) : Nat :=
  let n := Config.flashBlock s.fresh
  match o with
  | none => n
  | some o =>
    let xs := s.flash.strs.filter (fun (_, st) => st.live.any (fun e => e.1 = o))
    match xs[n % xs.length]? with
    | none => n
    | some (sb, st) =>
      let bs := (s.flash.stripeBlks sb).filter (fun e => !st.out.contains e.1 && e.1 != parityPos sb)
      ((bs[n / xs.length % bs.length]?).map (·.2)).getD n

/-- The codeword that serves a purpose is not in the middle of its ladder. -/
def Flash.steady (f : Flash) (who : FlashFor) : Bool :=
  f.reads.all (fun r => r.for_ ≠ who || r.rung == f.firstRung r.blk)

/-- The state with the flash store changed. -/
def State.updFlash (s : State) (g : Flash → Flash) : State := { s with flash := g s.flash }

/-- An operation begins to read an owner's data. -/
def State.beginRead (s : State) (who : FlashFor) (o : FlashOwner) : State :=
  let b := s.ownerBlk (some o)
  { s with fresh := s.fresh + 1,
           flash := { s.flash with reads := s.flash.reads ++ [{ for_ := who, rung := s.flash.firstRung b, blk := b, own := some o }] } }

/-- The controller reads a block for itself: a scrub, a check or a relocation (R236, R239, R240). Of the owners of the rows that the block
holds pages of, the one whose codeword meets the ladder is free (log 10). -/
def State.readBlk (s : State) (b : Nat) : State :=
  let live := ((s.flash.stripeOf b).map (fun e => e.2.live)).getD []
  let own := (live[Config.flashOwner s.fresh % live.length]?).map (·.1)
  { s with fresh := s.fresh + 1, flash := { s.flash with
      reads := s.flash.reads.filter (fun r => r.for_ ≠ .scrub b) ++ [{ for_ := .scrub b, rung := s.flash.firstRung b, blk := b, own := own }] } }

/-- An operation reads no more. -/
def State.endRead (s : State) (who : FlashFor) : State := s.updFlash (fun f => { f with reads := f.reads.filter (fun r => r.for_ ≠ who) })

/-- Page reads counted in a block's read counter (R239). -/
def Flash.addReads (f : Flash) (b n : Nat) : Flash := f.setBlk b { f.blk b with reads := (f.blk b).reads + n }

/-- Every programmed page of a block is read for a check or the scrub (R239, R240): `errs`: the most bit errors of a codeword,
`retries`: codewords that needed more than the first hard decode. A worn block is relocated. -/
def Flash.checked (f : Flash) (b errs retries : Nat) : Flash :=
  let n := match f.stripeOf b with
    | some (_, st) => st.rows
    | none => 0
  let f := { (f.addReads b n) with retry := f.retry + BitVec.ofNat 64 retries }
  if 72 < errs ∨ 0 < retries then f.relocate b else f

/-- A block holds programmed pages of a stripe block in use. -/
def Flash.holdsData (f : Flash) (b : Nat) : Bool := match f.stripeOf b with
  | some (_, st) => decide (0 < st.rows)
  | none => false

/-- No block with programmed pages had its last scrub before block `b` (R240). -/
def Flash.oldestScrub (f : Flash) (b : Nat) : Bool :=
  f.strs.all (fun (sb, st) => st.rows == 0 || (f.stripeBlks sb).all (fun e => st.out.contains e.1 || decide ((f.blk b).scrub ≤ (f.blk e.2).scrub)))

end Sys2Proof.Machine
end

