-- ==== Sys2Proof/Machine/Flash.lean ====
section
/-!
DEFINITION. The flash store above its blocks: its events (R235 to R241), its regions and quotas (R242 to R244), the wear governor
(R245 to R249), tensor objects (R216 to R221) and weight packages (R250 to R253).
-/

namespace Sys2Proof.Machine

/-! ### Capacities (R232, R242 to R244) -/

/-- The tensor tier region (R242). -/
def State.tierBytes (s : State) : Nat := usableBytes - s.flash.wsize - variantBytes 3064000000000
/-- Bytes of the tensor objects of partitions that satisfy a test. -/
def State.tobjBytes (s : State) (ok : Nat → Bool) : Nat :=
  (s.tobjs.map (fun (_, t) => if ok t.part then t.sizeg * granule else 0)).foldl (· + ·) 0
/-- Bytes the tensor tier holds for objects: their copies, and for each the space of the new copy of R218 (R242, log 12). -/
def State.tierUsed (s : State) : Nat := 2 * s.tobjBytes (fun _ => true)
/-- Bytes of the weight packages of partitions that satisfy a test. -/
def State.wpkgBytes (s : State) (ok : Nat → Bool) : Nat :=
  (s.wpkgs.map (fun (_, t) => if ok t.part then t.total else 0)).foldl (· + ·) 0
/-- A flash quota of a partition: its own, or for partition 0 what the others leave of the region (R464). -/
def State.flashQuota (s : State) (p region : Nat) (f : Part → Nat) : Nat :=
  if p = 0 then region - (s.parts.map (fun (k, q) => if k = 0 then 0 else f q * 1000000000)).foldl (· + ·) 0
  else match oget s.parts p with
    | some q => f q * 1000000000
    | none => 0

/-! ### Events of the store -/

/-- The object, package or snapshot of an owner is damaged (R236). -/
def State.damage (s : State) (o : FlashOwner) : State :=
  match o with
  | .tobj id => { s with tobjs := oupd s.tobjs id (fun t => { t with damaged := true }) }
  | .wpkg id => { s with wpkgs := oupd s.wpkgs id (fun t => { t with damaged := true }) }
  | .snap id => { s with fsnaps := oupd s.fsnaps id (fun f => { f with lost := true }) }

/-- Codewords lost: FLS_LOST and the risk follow (R236, R367). -/
def State.loseCodewords (s : State) (n : Nat) : State :=
  (s.updFlash (fun f => { f with lost := f.lost + BitVec.ofNat 32 n })).addRisk (4096 * n)

/-- A die fails (R237). While another die of its group is not rewritten yet, every codeword of a row on both is lost: on each die four to a
row, and what they belong to is damaged. -/
def State.dieFails (s : State) (d : Nat) : State :=
  if s.flash.failed.contains d ∨ 512 ≤ d then s
  else
    let both := (s.flash.otherFailed d).flatMap (fun e => s.flash.onBoth d e)
    let s := (both.flatMap (fun e => e.2.live.map (·.1))).foldl (fun s o => s.damage o) s
    let s := if both = [] then s else s.loseCodewords (8 * (both.map (fun e => e.2.valid)).foldl (· + ·) 0)
    s.updFlash (fun f => f.failDie d)

/-- Nanoseconds-of-time of 24 h, in the state's eighths of a nanosecond. -/
def dayTime : Nat := 86400 * 8000000000

/-- FLASH_RELOCATE (R238): the new location is `dst`, or the lowest spare of the plane. The controller reads the block for it (R236). -/
def execFlashRelocate (blk dst : Nat) (s : State) : Host.Outcome State Fault Refusal :=
  .next ((s.readBlk blk).updFlash (fun f => f.relocateBy blk (fun d q => f.spareAt d q dst)))
/-- PROGRAM_FAILURE (R238). -/
def execProgramFailure (blk : Nat) (s : State) : Host.Outcome State Fault Refusal := .next (s.updFlash (fun f => f.growBad blk))
/-- ERASE_FAILURE (R237, R238): the third of a die within 24 h fails the die. -/
def execEraseFailure (blk : Nat) (s : State) : Host.Outcome State Fault Refusal :=
  let d := dieOfBlk blk
  let t := s.updFlash (fun f => { f.growBad blk with dieErases := (d, s.time) :: f.dieErases })
  .next (if 3 ≤ (t.flash.dieErases.filter (fun e => decide (e.1 = d ∧ s.time < e.2 + dayTime))).length then t.dieFails d else t)
/-- DIE_FAILED (R237): the die stops responding. -/
def execDieFailed (d : Nat) (s : State) : Host.Outcome State Fault Refusal := .next (s.dieFails d)
/-- DIE_REBUILD (R237): `n` bytes more of a failed die are rewritten into other dies. -/
def execDieRebuild (d n : Nat) (s : State) : Host.Outcome State Fault Refusal :=
  .next (s.updFlash (fun f => if f.failed.contains d then f.rebuild d n else f))
/-- READ_COUNT_CHECK (R239): `errs`: the most bit errors of a codeword, `retries`: codewords that needed more than the first hard decode. -/
def execReadCountCheck (blk errs retries : Nat) (s : State) : Host.Outcome State Fault Refusal :=
  .next (if 1000000 ≤ (s.flash.blk blk).reads then
    ((s.readBlk blk).updFlash (fun f =>
      let f := f.checked blk errs retries
      f.setBlk blk { f.blk blk with reads := 0 })).addRisk retries
  else s)
/-- RETENTION_SCRUB (R240): the block with the oldest scrub comes first. -/
def execRetentionScrub (blk errs retries : Nat) (s : State) : Host.Outcome State Fault Refusal :=
  .next (if s.flash.holdsData blk && s.flash.oldestScrub blk then
    ((s.readBlk blk).updFlash (fun f =>
      let n := f.scrubs + 1
      let g := f.setBlk blk { f.blk blk with scrub := n }
      let h := { g with scrubs := n }.checked blk errs retries
      match f.logical blk with
      | some q => match h.phys (dieOfBlk blk) q with
        | some b => h.setBlk b { h.blk b with scrub := n }
        | none => h
      | none => h)).addRisk retries
  else s)
/-- STATIC_WEAR_LEVEL (R241): with a gap above 300, the data of the least-erased stripe block, logical block `q` of group `g`, is relocated, and the block
is erased. -/
def execStaticWearLevel (g q : Nat) (s : State) : Host.Outcome State Fault Refusal :=
  .next (s.updFlash (fun f =>
    let sb := g * dieLogs + q
    let (lo, hi) := f.eraseRange
    if lo + 300 < hi ∧ f.leastWorn (fun _ => true) = some sb then (f.moveStripe sb).eraseStripe sb else f))
/-- GARBAGE_COLLECTION (R241): the valid rows of a stripe block in use, logical block `q` of group `g`, are relocated and it is erased. -/
def execGarbageCollection (g q : Nat) (s : State) : Host.Outcome State Fault Refusal :=
  .next (s.updFlash (fun f =>
    let sb := g * dieLogs + q
    if (oget f.strs sb).isSome then (f.moveStripe sb).eraseStripe sb else f))
/-- FLASH_CHANNEL_POWER_DOWN (R434). -/
def execFlashChannelPowerDown (ch : Nat) (s : State) : Host.Outcome State Fault Refusal :=
  .next (s.updFlash (fun f => if f.reads = [] ∧ !f.down.contains ch then { f with down := f.down ++ [ch] } else f))

/-! ### The wear governor (R245 to R248) -/

/-- f < b of R246, with b in thousandths and a margin in thousandths. -/
def Flash.below (f : Flash) (b : Nat) : Bool := decide (f.credit * 1000 < (b * creditMax : Nat))

/-- The boundary in thousandths below which rank `r` begins: NORMAL 0, TIGHT with k = 1 to 6, LIMIT 7 (R246). -/
def wearBound (r : Nat) : Nat := 275 - 25 * r

/-- The rank f asks for by itself. -/
def Flash.rawRank (f : Flash) : Nat := ((List.range 7).filter (fun i => f.below (wearBound (i + 1)))).length

/-- The rank of the state in force. -/
def Flash.rank (f : Flash) : Nat := if f.wear = 2 then 7 else if f.wear = 1 then f.k else 0

/-- Toward NORMAL only when f exceeds the boundary by 0.01. -/
def easeRank (f : Flash) (raw : Nat) : Nat → Nat
  | 0 => 0
  | r + 1 => if r + 1 ≤ raw then r + 1 else if decide (((wearBound (r + 1) + 10) * creditMax : Nat) < f.credit * 1000) then easeRank f raw r else r + 1

/-- The store with a rank in force. -/
def Flash.setRank (f : Flash) (r : Nat) : Flash := { f with wear := if r = 0 then 0 else if r = 7 then 2 else 1, k := if r = 0 ∨ r = 7 then 0 else r }

/-- RESULT1 of FLS_WEAR (R262). -/
def Flash.wearWord (f : Flash) : Nat := f.wear + 4 * f.k + 2 ^ 8 * unsigned 56 f.credit

/-- WEAR_GOVERNOR_TICK: a second out of Off. -/
def wearTick (s : State) : State :=
  let f := s.flash
  let f := { f with credit := min (f.credit + accrual) creditMax }
  let r := easeRank f f.rawRank (max f.rank f.rawRank)
  let g := f.setRank r
  let s := { s with flash := g }
  if f.rank ≠ r then s.eventAll 2 g.wearWord else s

/-- Writing to the tensor tier is refused, with its status (R244, R246). -/
def Flash.tierRefusal (f : Flash) : Option Nat := if f.degr then some 0x3B else if f.wear = 2 then some 0x3C else none

/-! ### Tensor objects (R216 to R221) -/

/-- A tensor object of the partition, or the status for a number that names none. -/
def State.tobjOf (s : State) (p n absent : Nat) : Except Nat Tobj :=
  match oget s.tobjs n with
  | none => .error absent
  | some t => if t.part = p then .ok t else .error 0x14
/-- The state with an object changed. -/
def State.updTobj (s : State) (n : Nat) (f : Tobj → Tobj) : State := { s with tobjs := oupd s.tobjs n f }

/-- Bytes of a sparse image. -/
def imageBytes (t : Tab Byte) (a n : Nat) : List Byte := (List.range n).map (fun i => tget (fun _ => 0#8) t (a + i))
/-- A sparse image with bytes written into it. -/
def imagePut (t : Tab Byte) (a : Nat) (bs : List Byte) : Tab Byte := putBytes t a bs
/-- A sparse image of `n` bytes placed in DRAM. -/
def State.placeImage (s : State) (a n : Nat) (t : Tab Byte) : State :=
  let s := s.zero a n
  { s with mem := t.foldl (fun m (k, b) => tput Memory.dflt m (a + k) b) s.mem }

/-- The region that is a tensor object's home. -/
def State.homeOf (s : State) (t : Tobj) : Option Region := s.region t.part t.region
/-- DIRTY of an object's home; an object in FLASH has none (R216). -/
def State.dirty (s : State) (t : Tobj) : Bool := t.state != .flash && match s.homeOf t with
  | some r => r.dirty
  | none => false
/-- The state with a home changed. -/
def State.updHome (s : State) (t : Tobj) (f : Region → Region) : State :=
  { s with regions := oupd s.regions (regionKey t.part t.region) f }

/-- The next identifier of a 32-bit sequence that is not in use. -/
def nextId {α : Type} (t : Tab α) (last : Nat) : Nat :=
  (((List.range (t.length + 1)).map (fun i => (last + 1 + i) % 2 ^ 32)).find? (fun k => (oget t k).isNone)).getD ((last + 1) % 2 ^ 32)

/-- TOBJ_CREATE. -/
def hTobjCreate : Handler := fun c s =>
  let n := c.p 0
  let b := n * granule
  if n = 0 ∨ 131072 < n then (s, no 0x11)
  else if s.flash.degr then (s, no 0x3B)
  else if s.flashQuota c.part s.tierBytes (·.tq) < s.tobjBytes (· == c.part) + b then (s, no 0x3A)
  else if s.tierBytes < s.tierUsed + 2 * b then (s, no 0x39)
  else
    let id := nextId s.tobjs s.lastTobj
    let t : Tobj :=
      { part := c.part, sizeg := n, state := .flash, region := 0, image := [], damaged := false, evict := false, copying := [], lost := [] }
    (({ s with tobjs := tins s.tobjs id t, lastTobj := id, flash := s.flash.replace (.tobj id) b } : State).charge c.part 1 b, .done 0 id 0)

/-- TOBJ_LOAD: the home exists with all permissions withheld while the flash copy is read. -/
def hTobjLoad : Handler := fun c s =>
  match s.tobjOf c.part (c.p 0) 0x11 with
  | .error st => (s, no st)
  | .ok t =>
    let f := c.p 3
    let h := BitVec.ofNat 3 (bits f 4 3)
    let lo := c.p 2
    let hi := lo + t.sizeg - 1
    if 2 ^ 7 ≤ f then (s, no 0x11)
    else if t.state ≠ .flash then (s, no 0x16)
    else if t.damaged then (s, no 0x38)
    else if !inOneDie lo hi then (s, no 0x22)
    else
      match s.regionRefusal c.part (c.p 1) lo hi (flag f 3) h with
      | some st => (s, no st)
      | none =>
        let r := { mkRegion false false false (flag f 3) false h lo hi with tobj := true, tobjId := BitVec.ofNat 32 (c.p 0) }
        let s := (s.addRegion c.part (c.p 1) r).updTobj (c.p 0) (fun t => { t with state := .loading, region := c.p 1 })
        (s.beginRead (.cmd c.m c.tag) (.tobj (c.p 0)), .bg)

/-- The finish of TOBJ_LOAD: the data is in place with DIRTY = 0, and the requested permissions are granted: the commit point (R274).
Lines that were poisoned when the copy was made are poisoned again (R207). It waits for the flash regulator (R295). -/
def finTobjLoad (c : Cmd) (s : State) : State :=
  match oget s.tobjs (c.p 0) with
  | none => s
  | some t =>
    match s.homeOf t with
    | none => s
    | some r =>
      if !s.regOpen c.part 1 then s
      else
        let f := c.p 3
        let a := r.baseg * granule
        let n := t.sizeg * granule
        let s := s.placeImage a n t.image
        let s := ({ s with poison := t.lost.map (a / 64 + ·) ++ s.poison.filter (fun l => !t.lost.contains (l - a / 64) || decide (l < a / 64)) } : State)
        let s := (s.updHome t (fun r =>
          { r with r := flag f 0, w := flag f 1, x := flag f 2, dirty := false })).updTobj (c.p 0) (fun t => { t with state := .resident })
        ((s.endRead (.cmd c.m c.tag)).charge c.part 1 n).commit c 0 0

/-- TOBJ_LOAD is undone: no home, the object in FLASH. -/
def undoTobjLoad : Undo := fun c s =>
  match oget s.tobjs (c.p 0) with
  | none => s
  | some t => ((s.dropRegion t.part t.region).updTobj (c.p 0) (fun t => { t with state := .flash })).endRead (.cmd c.m c.tag)

/-- TOBJ_FLUSH: DIRTY is cleared before the copy starts. -/
def hTobjFlush : Handler := fun c s =>
  match s.tobjOf c.part (c.p 0) 0x11 with
  | .error st => (s, no st)
  | .ok t =>
    if t.state ≠ .resident then (s, no 0x16)
    else if !s.dirty t then (s, ok)
    else
      match s.flash.tierRefusal with
      | some st => (s, no st)
      | none =>
        match s.homeOf t with
        | none => (s, no 0x16)
        | some r => ((s.updHome t (fun r => { r with dirty := false })).updTobj (c.p 0) (fun t =>
            { t with state := .writing, copying := s.capture (r.baseg * granule) (t.sizeg * granule) }), .bg)

/-- A copy of a home made while writes land: each line as it was when the copy began or as it is now, a free choice (R221). -/
def mixImages (occ : Nat) (old now : Tab Byte) : Tab Byte :=
  let pick (l : Nat) : Bool := Config.lineSeen occ l % 2 = 0
  let same := old == now
  if same then now
  else (now.filter (fun e => pick (e.1 / 64))).foldl (fun t e => tput (fun _ => 0#8) t e.1 e.2) (old.filter (fun e => !pick (e.1 / 64)))

/-- The home has been copied to a new flash copy that replaces the old one (R218); its poisoned lines stay known (R207). -/
def State.writeBack (s : State) (id : Nat) (t : Tobj) (r : Region) : State :=
  let n := t.sizeg * granule
  let a := r.baseg * granule
  (({ s with flash := s.flash.replace (.tobj id) n } : State).bump.updTobj id (fun u =>
    { u with image := mixImages s.fresh t.copying (s.capture a n), damaged := false, copying := [],
             lost := (s.poison.filter (fun l => decide (a ≤ 64 * l ∧ 64 * l < a + n))).map (· - a / 64) })).charge t.part 1 n

/-- The finish of TOBJ_FLUSH: the journal switch, its commit point (R274), once the flash regulator lets it (R295). -/
def finTobjFlush (c : Cmd) (s : State) : State :=
  match oget s.tobjs (c.p 0) with
  | none => s
  | some t =>
    match s.homeOf t with
    | none => s
    | some r =>
      if !s.regOpen c.part 1 then s
      else ((s.writeBack (c.p 0) t r).updTobj (c.p 0) (fun t => { t with state := .resident })).commit c 0 0

/-- TOBJ_FLUSH is undone: the old flash copy stays current, DIRTY is 1. -/
def undoTobjFlush : Undo := fun c s =>
  match oget s.tobjs (c.p 0) with
  | none => s
  | some t => (s.updHome t (fun r => { r with dirty := true })).updTobj (c.p 0) (fun t => { t with state := .resident, copying := [] })

/-- TOBJ_EVICT: W is to be withdrawn under the drain of R215; what it was, and whether the governor has been asked, is kept with the
command. -/
def hTobjEvict : Handler := fun c s =>
  match s.tobjOf c.part (c.p 0) 0x11 with
  | .error st => (s, no st)
  | .ok t =>
    if t.state ≠ .resident then (s, no 0x16)
    else
      match s.homeOf t, (if s.dirty t then s.flash.tierRefusal else none) with
      | _, some st => (s, no st)
      | none, none => (s, no 0x16)
      | some r, none =>
        let s1 := (s.beginDrain c t.region (some (r.r, false, r.x))).updTobj (c.p 0) (fun t => { t with evict := true })
        (s1.updCmd c (fun d => { d with r0 := b2n r.w, r1 := b2n (s.dirty t) }), .bg)

/-- TOBJ_EVICT is undone: W is restored. -/
def undoTobjEvict : Undo := fun c s =>
  match oget s.tobjs (c.p 0) with
  | none => s
  | some t =>
    let s := { s with drains := s.drains.filter (fun d => !(d.m == c.m && d.tag == c.tag)) }
    (s.updHome t (fun r => { r with w := c.r0 == 1 })).updTobj (c.p 0) (fun t => { t with state := .resident, evict := false, copying := [] })

/-- The finish of TOBJ_EVICT. Once W is withdrawn, a dirty home is written back: the journal switch, its commit point (R274). An object
that only writes issued before dirtied is refused by the governor here (R219, R248). Then the home goes, once it is drained (R215). -/
def finTobjEvict (c : Cmd) (s : State) : State :=
  match oget s.tobjs (c.p 0) with
  | none => s
  | some t =>
    match s.homeOf t with
    | none => s
    | some r =>
      if t.state ≠ .writing ∨ (r.dirty ∧ !c.committed ∧ !s.regOpen c.part 1) then s
      else if !c.committed then
        match (if r.dirty ∧ c.r1 = 0 then s.flash.tierRefusal else none) with
        | some st => (undoTobjEvict c s).complete c st false 0 0
        | none => (if r.dirty then s.writeBack (c.p 0) t r else s).commit c c.r0 c.r1
      else if s.regionBusy t.part s.marks r then s
      else
        ((s.dropRegion t.part t.region).updTobj (c.p 0) (fun t => { t with state := .flash, evict := false, copying := [] })).complete
          c 0 false 0 0

/-- TOBJ_DESTROY. -/
def hTobjDestroy : Handler := fun c s =>
  match s.tobjOf c.part (c.p 0) 0x11 with
  | .error st => (s, no st)
  | .ok t => if t.state ≠ .flash then (s, no 0x16)
    else ({ s with tobjs := tdrop s.tobjs (c.p 0), flash := (s.flash.release (.tobj (c.p 0))).journal }, ok)

/-- TOBJ_QUERY: the state as its row of R216. -/
def hTobjQuery : Handler := fun c s =>
  match s.tobjOf c.part (c.p 0) 0x15 with
  | .error st => (s, no st)
  | .ok t =>
    let d := s.dirty t
    let n := match t.state with
      | .flash => 0
      | .loading => 1
      | .resident => if d then 3 else 2
      | .writing => 4
    (s, .done 0 (n + 8 * b2n d) t.region)

/-! ### Weight packages (R250 to R252) -/

/-- A package of the partition, or the status for a handle that names none. -/
def State.wpkgOf (s : State) (p n absent : Nat) : Except Nat Wpkg :=
  match oget s.wpkgs n with
  | none => .error absent
  | some t => if t.part = p then .ok t else .error 0x14
/-- The state with a package changed. -/
def State.updWpkg (s : State) (n : Nat) (f : Wpkg → Wpkg) : State := { s with wpkgs := oupd s.wpkgs n f }
/-- A running window names the package. -/
def State.pkgUsed (s : State) (n : Nat) (ok : Nat → Bool) : Bool := s.wwins.any (fun (_, w) => w.run && w.pkg == n && ok w.part)

/-- WPKG_OPEN. -/
def hWpkgOpen : Handler := fun c s =>
  let n := c.p 0
  if n = 0 ∨ n % 4096 ≠ 0 then (s, no 0x11)
  else if s.flash.degr then (s, no 0x3B)
  else if s.flash.credit * 31 < (n * 32 : Nat) then (s, no 0x3C)
  else if s.flashQuota c.part s.flash.wsize (·.wq) < s.wpkgBytes (· == c.part) + n then (s, no 0x3A)
  else if s.flash.wsize < s.wpkgBytes (fun _ => true) + n then (s, no 0x39)
  else
    let id := nextId s.wpkgs s.lastWpkg
    let t : Wpkg :=
      { part := c.part, total := n, ready := false, image := [], grants := [], signed := false, signer := 0, digest := [], damaged := false }
    ({ s with wpkgs := tins s.wpkgs id t, lastWpkg := id }, .done 0 id 0)

/-- WPKG_WRITE. -/
def hWpkgWrite : Handler := fun c s =>
  match s.wpkgOf c.part (c.p 0) 0x11 with
  | .error st => (s, no st)
  | .ok t =>
    let o := c.p 1
    let n := c.p 2
    if n = 0 ∨ o % 4096 ≠ 0 ∨ n % 4096 ≠ 0 ∨ t.total < o + n then (s, no 0x11)
    else if t.ready then (s, no 0x16)
    else if !s.awOk c.part (c.w 3) n true false then (s, no 0x1A)
    else (s, .bg)

/-- The finish of WPKG_WRITE: the source is read and programmed. -/
def finWpkgWrite (c : Cmd) (s : State) : State :=
  if (awHost (c.w 3) ∧ !s.hostOpen c.part) ∨ !s.regOpen c.part 1 then s
  else
    let n := c.p 2
    let bs := s.awBytes c.part (c.w 3) n
    ((({ s with flash := s.flash.program (.wpkg (c.p 0)) n } : State).updWpkg (c.p 0) (fun t => { t with image := imagePut t.image (c.p 1) bs })).charge c.part 1 n).complete
      c 0 false 0 0

/-- WPKG_WRITE is undone: each 4 KiB unit is written or unchanged, a free choice (R274, log 10); where the source cannot be read, each is
unchanged. -/
def undoWpkgWrite : Undo := fun c s =>
  if awHost (c.w 3) ∧ !s.hostOpen c.part then s
  else
    let units := (List.range (c.p 2 / 4096)).filter (fun i => Config.lineSeen s.fresh i % 2 = 1)
    let bs := s.awBytes c.part (c.w 3) (c.p 2)
    let put (t : Tab Byte) (i : Nat) : Tab Byte := imagePut t (c.p 1 + 4096 * i) ((bs.drop (4096 * i)).take 4096)
    (({ s with flash := s.flash.program (.wpkg (c.p 0)) (4096 * units.length) } : State).updWpkg (c.p 0) (fun t =>
      { t with image := units.foldl put t.image })).bump

/-- The entries of a directory. -/
structure DirEntry where
  base : Nat
  rmask : Nat
  offs : List Nat
  lens : List Nat
  crcs : List Nat
  reserved : Bool
  deriving DecidableEq, Repr

/-- Directory entry `n` of a package whose directory begins at `dir` (R252). -/
def dirEntryOf (t : Tab Byte) (dir n : Nat) : DirEntry :=
  let bs := imageBytes t (dir + 128 * n) 128
  let w (o : Nat) : Nat := wordAt bs o
  { base := bits (w 0) 0 4, rmask := bits (w 0) 4 4, offs := (List.range 4).map (fun j => w (8 + 16 * j)),
    lens := (List.range 4).map (fun j => bits (w (16 + 16 * j)) 0 32), crcs := (List.range 4).map (fun j => bits (w (16 + 16 * j)) 32 32),
    reserved := decide (bits (w 0) 8 56 ≠ 0) || (bs.drop 0x48).any (· ≠ 0) }

/-- The spans of the present rungs of an entry. -/
def DirEntry.spans (d : DirEntry) : List (Nat × Nat) :=
  (List.range 4).filterMap (fun j => if bit d.rmask j then some (d.offs.getD j 0, d.lens.getD j 0) else none)

/-- An entry is well formed within `total` bytes: base rung present, offsets on 4 KiB, absent rungs without offset, each
image with its CRC. -/
def DirEntry.okIn (d : DirEntry) (t : Tab Byte) (total : Nat) : Bool :=
  !d.reserved && (match rungOf d.base with
    | some r => bit d.rmask r
    | none => false) &&
  (List.range 4).all (fun j =>
    let o := d.offs.getD j 0
    let n := d.lens.getD j 0
    if bit d.rmask j then decide (o % 4096 = 0 ∧ o + n ≤ total) && crc32c (imageBytes t o n) == d.crcs.getD j 0
    else decide (o = 0))

/-- No two spans meet. -/
def disjointSpans : List (Nat × Nat) → Bool
  | [] => true
  | (a, n) :: rest => rest.all (fun (b, k) => decide (n = 0 ∨ k = 0 ∨ a + n ≤ b ∨ b + k ≤ a)) && disjointSpans rest

/-- The bytes a digest covers: the first `head` bytes and those from 0x1000 on, without the signature block. -/
def digestBytes (t : Tab Byte) (head total : Nat) (sig : Option Nat) : List Byte :=
  imageBytes t 0 head ++
  match sig with
  | none => imageBytes t 0x1000 (total - 0x1000)
  | some o => imageBytes t 0x1000 (o - 0x1000) ++ imageBytes t (o + 256) (total - (o + 256))

/-- A signature block verifies over a digest with the key of partition `p` that it names (R251, R426). -/
def State.sigOk (s : State) (p : Nat) (blk digest : List Byte) : Bool :=
  let id := wordAt blk 0
  (List.range 4).any (fun i =>
    match oget s.pkeys (4 * p + i) with
    | some k => k.id.toNat == id && ecdsaVerify (k.x, k.y) digest (beNat ((blk.drop 8).take 66)) (beNat ((blk.drop 0x50).take 66))
    | none => false)

/-- Partition `p` is secure (R426). -/
def State.isSecure (s : State) (p : Nat) : Bool := s.secure.contains p

/-- What a package's check finds: a status, or signer and digest (R250 to R252, R269, R426). -/
def State.checkPkg (s : State) (t : Wpkg) : Except Nat (Bool × Nat × List Byte) :=
  let hd := imageBytes t.image 0 4096
  let w (o : Nat) : Nat := wordAt hd o
  let n := bits (w 0x10) 0 20
  let signed := bit (w 0x10) 20
  let dir := w 0x18
  let sig := w 0x20
  let digest := (hd.drop 0x28).take 64
  let ds := (List.range n).map (dirEntryOf t.image dir)
  if bits (w 0) 0 32 ≠ 0x50575A59 ∨ t.total < 4096 then .error 0x3D
  else if bits (w 0) 32 8 ≠ 1 ∨ bits (w 0) 40 8 ≠ 0 then .error 0x3E
  else if bits (w 0) 48 16 ≠ 0 ∨ w 8 ≠ t.total ∨ n = 0 ∨ bits (w 0x10) 21 43 ≠ 0 ∨ dir % 4096 ≠ 0 ∨ t.total < dir + 128 * n ∨ dir < 4096 ∨
      (hd.drop 0x68).any (· ≠ 0) ∨ (signed = true ∧ (sig < 4096 ∨ t.total < sig + 256)) ∨ (signed = false ∧ sig ≠ 0) then .error 0x3D
  else if !ds.all (fun d => d.okIn t.image t.total) ∨
      !disjointSpans ([(0, 4096), (dir, 128 * n)] ++ (if signed then [(sig, 256)] else []) ++ ds.flatMap DirEntry.spans) then .error 0x3D
  else if sha512 (digestBytes t.image 0x28 t.total (if signed then some sig else none)) ≠ digest then .error 0x3D
  else
    let blk := imageBytes t.image sig 256
    if signed then (if s.sigOk t.part blk digest then .ok (true, wordAt blk 0, digest) else .error 0x3F)
    else if s.isSecure t.part then .error 0x3F else .ok (false, 0, digest)

/-- WPKG_COMMIT: a ready package never changes. -/
def hWpkgCommit : Handler := fun c s =>
  match s.wpkgOf c.part (c.p 0) 0x11 with
  | .error st => (s, no st)
  | .ok t => if t.ready then (s, no 0x11) else (s.beginRead (.cmd c.m c.tag) (.wpkg (c.p 0)), .bg)

/-- The finish of WPKG_COMMIT: a package that passes its checks is ready in one journal update, the commit point (R274). -/
def finWpkgCommit (c : Cmd) (s : State) : State :=
  match oget s.wpkgs (c.p 0) with
  | none => s
  | some t =>
    let s1 := s.endRead (.cmd c.m c.tag)
    match s.checkPkg t with
    | .error st => s1.complete c st false 0 0
    | .ok (signed, signer, digest) =>
      ((s1.updWpkg (c.p 0) (fun t => { t with ready := true, signed := signed, signer := signer, digest := digest })).updFlash Flash.journal).commit c 0 0

/-- WPKG_COMMIT is undone: the package stays open. -/
def undoRead : Undo := fun c s => s.endRead (.cmd c.m c.tag)

/-- WPKG_DELETE. -/
def hWpkgDelete : Handler := fun c s =>
  match s.wpkgOf c.part (c.p 0) 0x11 with
  | .error st => (s, no st)
  | .ok _ => if s.pkgUsed (c.p 0) (fun _ => true) then (s, no 0x40)
    else ({ s with wpkgs := tdrop s.wpkgs (c.p 0), flash := (s.flash.release (.wpkg (c.p 0))).journal }, ok)

/-- WPKG_GRANT (R250, R426). -/
def hWpkgGrant : Handler := fun c s =>
  let q := c.p 1
  match s.wpkgOf c.part (c.p 0) 0x11 with
  | .error st => (s, no st)
  | .ok t =>
    if 1 < c.p 2 ∨ (oget s.parts q).isNone ∨ q = c.part ∨ !t.ready then (s, no 0x11)
    else if s.isSecure c.part then (s, no 0x14)
    else if c.p 2 = 0 then
      if s.pkgUsed (c.p 0) (· == q) then (s, no 0x40)
      else (s.updWpkg (c.p 0) (fun t => { t with grants := t.grants.filter (· ≠ q) }), ok)
    else (s.updWpkg (c.p 0) (fun t => { t with grants := q :: t.grants.filter (· ≠ q) }), ok)

/-! ### Layout and queries -/

/-- FLASH_LAYOUT (R242). -/
def hFlashLayout : Handler := fun c s =>
  let n := c.p 0
  if n % 16000000000 ≠ 0 ∨ variantBytes 8000000000000 < n then (s, no 0x11)
  else if n < s.wpkgBytes (fun _ => true) ∨ usableBytes - n - variantBytes 3064000000000 < s.tierUsed then (s, no 0x39)
  else (s.updFlash (fun f => { f with wsize := n }.journal), ok)

/-- A response block of `n` bytes whose layout the manual does not print, at parameter `j`: its bytes are free (log 10). -/
def freeResp (which j n : Nat) (s : State) (c : Cmd) : State × Reply :=
  match s.blockRefusal c.part (c.w j) n false true with
  | some st => (s, no st)
  | none =>
    ({ s.awWrite c.part (c.w j) ((List.range n).map (Config.responseByte which s.fresh)) with fresh := s.fresh + 1 }, ok)

/-- FLASH_QUERY. -/
def hFlashQuery : Handler := fun c s => freeResp 0x0601 0 64 s c

end Sys2Proof.Machine
end

