-- ==== Sys2Proof/Machine/Slots.lean ====
section
/-!
DEFINITION. The meanings of the core's commands: each slot operation as the bundle of that one slot (log 6), and the
events of a core's units.
-/

namespace Sys2Proof.Machine

/-- BUNDLE_ISSUE (R40): In a cycle the core picks a ready context and issues its next bundle, whose valid slots read their operands and execute together. -/
def execBundleIssue (c : Nat) (s : State) : Host.Outcome State Fault Refusal := .next (bundleIssue c s)

/-- ICACHE_LINE_FILL (R59): A missed instruction line arrives from DRAM and the waiting context becomes ready. -/
def execIcacheLineFill (c x : Nat) (s : State) : Host.Outcome State Fault Refusal := .next (lineFill c x s)

/-- ADD (R43): Scalar add of two sources or a source and the immediate. -/
def execAdd (c x : Nat) (h : SlotHdr) (f : ScalarF) (s : State) : Host.Outcome State Fault Refusal :=
  .next (oneSlot c x h (.scalar .add f) s)

/-- SUB (R43): Scalar subtract. -/
def execSub (c x : Nat) (h : SlotHdr) (f : ScalarF) (s : State) : Host.Outcome State Fault Refusal :=
  .next (oneSlot c x h (.scalar .sub f) s)

/-- AND (R43): Scalar bitwise and. -/
def execAnd (c x : Nat) (h : SlotHdr) (f : ScalarF) (s : State) : Host.Outcome State Fault Refusal :=
  .next (oneSlot c x h (.scalar .and f) s)

/-- OR (R43): Scalar bitwise or. -/
def execOr (c x : Nat) (h : SlotHdr) (f : ScalarF) (s : State) : Host.Outcome State Fault Refusal :=
  .next (oneSlot c x h (.scalar .or f) s)

/-- XOR (R43): Scalar bitwise exclusive or. -/
def execXor (c x : Nat) (h : SlotHdr) (f : ScalarF) (s : State) : Host.Outcome State Fault Refusal :=
  .next (oneSlot c x h (.scalar .xor f) s)

/-- SHL (R43): Scalar shift left by an amount modulo 64. -/
def execShl (c x : Nat) (h : SlotHdr) (f : ScalarF) (s : State) : Host.Outcome State Fault Refusal :=
  .next (oneSlot c x h (.scalar .shl f) s)

/-- SHR (R43): Scalar logical shift right by an amount modulo 64. -/
def execShr (c x : Nat) (h : SlotHdr) (f : ScalarF) (s : State) : Host.Outcome State Fault Refusal :=
  .next (oneSlot c x h (.scalar .shr f) s)

/-- SRA (R43): Scalar arithmetic shift right by an amount modulo 64. -/
def execSra (c x : Nat) (h : SlotHdr) (f : ScalarF) (s : State) : Host.Outcome State Fault Refusal :=
  .next (oneSlot c x h (.scalar .sra f) s)

/-- MIN (R43): Scalar signed minimum. -/
def execMin (c x : Nat) (h : SlotHdr) (f : ScalarF) (s : State) : Host.Outcome State Fault Refusal :=
  .next (oneSlot c x h (.scalar .min f) s)

/-- MAX (R43): Scalar signed maximum. -/
def execMax (c x : Nat) (h : SlotHdr) (f : ScalarF) (s : State) : Host.Outcome State Fault Refusal :=
  .next (oneSlot c x h (.scalar .max f) s)

/-- MINU (R43): Scalar unsigned minimum. -/
def execMinu (c x : Nat) (h : SlotHdr) (f : ScalarF) (s : State) : Host.Outcome State Fault Refusal :=
  .next (oneSlot c x h (.scalar .minu f) s)

/-- MAXU (R43): Scalar unsigned maximum. -/
def execMaxu (c x : Nat) (h : SlotHdr) (f : ScalarF) (s : State) : Host.Outcome State Fault Refusal :=
  .next (oneSlot c x h (.scalar .maxu f) s)

/-- MUL (R43): Low 64 bits of a scalar product. -/
def execMul (c x : Nat) (h : SlotHdr) (f : ScalarF) (s : State) : Host.Outcome State Fault Refusal :=
  .next (oneSlot c x h (.scalar .mul f) s)

/-- MULH (R43): High 64 bits of a signed scalar product. -/
def execMulh (c x : Nat) (h : SlotHdr) (f : ScalarF) (s : State) : Host.Outcome State Fault Refusal :=
  .next (oneSlot c x h (.scalar .mulh f) s)

/-- MULHU (R43): High 64 bits of an unsigned scalar product. -/
def execMulhu (c x : Nat) (h : SlotHdr) (f : ScalarF) (s : State) : Host.Outcome State Fault Refusal :=
  .next (oneSlot c x h (.scalar .mulhu f) s)

/-- DIV (R43): Signed division rounding toward zero, with defined results for zero divisors and overflow. -/
def execDiv (c x : Nat) (h : SlotHdr) (f : ScalarF) (s : State) : Host.Outcome State Fault Refusal :=
  .next (oneSlot c x h (.scalar .div f) s)

/-- DIVU (R43): Unsigned division, all ones for a zero divisor. -/
def execDivu (c x : Nat) (h : SlotHdr) (f : ScalarF) (s : State) : Host.Outcome State Fault Refusal :=
  .next (oneSlot c x h (.scalar .divu f) s)

/-- REM (R43): Signed remainder with the sign of the dividend. -/
def execRem (c x : Nat) (h : SlotHdr) (f : ScalarF) (s : State) : Host.Outcome State Fault Refusal :=
  .next (oneSlot c x h (.scalar .rem f) s)

/-- REMU (R43): Unsigned remainder, the dividend for a zero divisor. -/
def execRemu (c x : Nat) (h : SlotHdr) (f : ScalarF) (s : State) : Host.Outcome State Fault Refusal :=
  .next (oneSlot c x h (.scalar .remu f) s)

/-- CMP_EQ (R43): Writes a predicate of all ones when the sources are equal. -/
def execCmpEq (c x : Nat) (h : SlotHdr) (f : ScalarF) (s : State) : Host.Outcome State Fault Refusal :=
  .next (oneSlot c x h (.scalar .cmpEq f) s)

/-- CMP_NE (R43): Writes a predicate for inequality. -/
def execCmpNe (c x : Nat) (h : SlotHdr) (f : ScalarF) (s : State) : Host.Outcome State Fault Refusal :=
  .next (oneSlot c x h (.scalar .cmpNe f) s)

/-- CMP_LT (R43): Writes a predicate for signed less than. -/
def execCmpLt (c x : Nat) (h : SlotHdr) (f : ScalarF) (s : State) : Host.Outcome State Fault Refusal :=
  .next (oneSlot c x h (.scalar .cmpLt f) s)

/-- CMP_LTU (R43): Writes a predicate for unsigned less than. -/
def execCmpLtu (c x : Nat) (h : SlotHdr) (f : ScalarF) (s : State) : Host.Outcome State Fault Refusal :=
  .next (oneSlot c x h (.scalar .cmpLtu f) s)

/-- CMP_GE (R43): Writes a predicate for signed greater or equal. -/
def execCmpGe (c x : Nat) (h : SlotHdr) (f : ScalarF) (s : State) : Host.Outcome State Fault Refusal :=
  .next (oneSlot c x h (.scalar .cmpGe f) s)

/-- CMP_GEU (R43): Writes a predicate for unsigned greater or equal. -/
def execCmpGeu (c x : Nat) (h : SlotHdr) (f : ScalarF) (s : State) : Host.Outcome State Fault Refusal :=
  .next (oneSlot c x h (.scalar .cmpGeu f) s)

/-- ADDA (R43): Adds a scalar or immediate to an address register modulo 2^48. -/
def execAdda (c x : Nat) (h : SlotHdr) (f : ScalarF) (s : State) : Host.Outcome State Fault Refusal :=
  .next (oneSlot c x h (.scalar .adda f) s)

/-- MOVA (R43): Moves the low 48 bits of a scalar into an address register. -/
def execMova (c x : Nat) (h : SlotHdr) (f : ScalarF) (s : State) : Host.Outcome State Fault Refusal :=
  .next (oneSlot c x h (.scalar .mova f) s)

/-- MOVS (R43): Moves an address register into a scalar, zero-extended. -/
def execMovs (c x : Nat) (h : SlotHdr) (f : ScalarF) (s : State) : Host.Outcome State Fault Refusal :=
  .next (oneSlot c x h (.scalar .movs f) s)

/-- RDSR (R39): Reads a special register into a scalar. -/
def execRdsr (c x : Nat) (h : SlotHdr) (f : ScalarF) (s : State) : Host.Outcome State Fault Refusal :=
  .next (oneSlot c x h (.scalar .rdsr f) s)

/-- LD_8 (R44): Loads a byte from the context's scratchpad window. -/
def execLd8 (c x : Nat) (h : SlotHdr) (f : ScalarF) (s : State) : Host.Outcome State Fault Refusal :=
  .next (oneSlot c x h (.scalar .ld8 f) s)

/-- LD_16 (R44): Loads 16 bits from the scratchpad window. -/
def execLd16 (c x : Nat) (h : SlotHdr) (f : ScalarF) (s : State) : Host.Outcome State Fault Refusal :=
  .next (oneSlot c x h (.scalar .ld16 f) s)

/-- LD_32 (R44): Loads 32 bits from the scratchpad window. -/
def execLd32 (c x : Nat) (h : SlotHdr) (f : ScalarF) (s : State) : Host.Outcome State Fault Refusal :=
  .next (oneSlot c x h (.scalar .ld32 f) s)

/-- LD_64 (R44): Loads 64 bits from the scratchpad window. -/
def execLd64 (c x : Nat) (h : SlotHdr) (f : ScalarF) (s : State) : Host.Outcome State Fault Refusal :=
  .next (oneSlot c x h (.scalar .ld64 f) s)

/-- ST_8 (R44): Stores a byte into the scratchpad window. -/
def execSt8 (c x : Nat) (h : SlotHdr) (f : ScalarF) (s : State) : Host.Outcome State Fault Refusal :=
  .next (oneSlot c x h (.scalar .st8 f) s)

/-- ST_16 (R44): Stores 16 bits into the scratchpad window. -/
def execSt16 (c x : Nat) (h : SlotHdr) (f : ScalarF) (s : State) : Host.Outcome State Fault Refusal :=
  .next (oneSlot c x h (.scalar .st16 f) s)

/-- ST_32 (R44): Stores 32 bits into the scratchpad window. -/
def execSt32 (c x : Nat) (h : SlotHdr) (f : ScalarF) (s : State) : Host.Outcome State Fault Refusal :=
  .next (oneSlot c x h (.scalar .st32 f) s)

/-- ST_64 (R44): Stores 64 bits into the scratchpad window. -/
def execSt64 (c x : Nat) (h : SlotHdr) (f : ScalarF) (s : State) : Host.Outcome State Fault Refusal :=
  .next (oneSlot c x h (.scalar .st64 f) s)

/-- BR (R45): Branches to PC + 128 x IMM, conditionally through the predicate. -/
def execBr (c x : Nat) (h : SlotHdr) (f : ScalarF) (s : State) : Host.Outcome State Fault Refusal :=
  .next (oneSlot c x h (.scalar .br f) s)

/-- BRZ (R45): Branches if a scalar is zero. -/
def execBrz (c x : Nat) (h : SlotHdr) (f : ScalarF) (s : State) : Host.Outcome State Fault Refusal :=
  .next (oneSlot c x h (.scalar .brz f) s)

/-- BRNZ (R45): Branches if a scalar is nonzero. -/
def execBrnz (c x : Nat) (h : SlotHdr) (f : ScalarF) (s : State) : Host.Outcome State Fault Refusal :=
  .next (oneSlot c x h (.scalar .brnz f) s)

/-- BRDEC (R45): Decrements a scalar and branches if the result is nonzero. -/
def execBrdec (c x : Nat) (h : SlotHdr) (f : ScalarF) (s : State) : Host.Outcome State Fault Refusal :=
  .next (oneSlot c x h (.scalar .brdec f) s)

/-- CALL (R45): Saves the return address in s63 and branches. -/
def execCall (c x : Nat) (h : SlotHdr) (f : ScalarF) (s : State) : Host.Outcome State Fault Refusal :=
  .next (oneSlot c x h (.scalar .call f) s)

/-- JR (R45): Branches to the address held in a scalar, which must be 128 B aligned. -/
def execJr (c x : Nat) (h : SlotHdr) (f : ScalarF) (s : State) : Host.Outcome State Fault Refusal :=
  .next (oneSlot c x h (.scalar .jr f) s)

/-- END (R45): Ends the tile-thread after this bundle. -/
def execEndOp (c x : Nat) (h : SlotHdr) (f : ScalarF) (s : State) : Host.Outcome State Fault Refusal :=
  .next (oneSlot c x h (.scalar .endOp f) s)

/-- TILE_THREAD_START (R68): A free context begins its next tile-thread of a launch in the state of R38. -/
def execTileThreadStart (c x l : Nat) (s : State) : Host.Outcome State Fault Refusal := .next (threadStart c x l s)

/-- TLD (R46): Queues a load of a descriptor box from device memory into the own scratchpad. -/
def execTld (c x : Nat) (h : SlotHdr) (f : MoverF) (s : State) : Host.Outcome State Fault Refusal :=
  .next (oneSlot c x h (.mover .tld f) s)

/-- TLDZ (R46): Queues a fill of a box of the own scratchpad with zeros. -/
def execTldz (c x : Nat) (h : SlotHdr) (f : MoverF) (s : State) : Host.Outcome State Fault Refusal :=
  .next (oneSlot c x h (.mover .tldz f) s)

/-- TCPY (R46): Queues a copy of a descriptor box between device addresses, written densely. -/
def execTcpy (c x : Nat) (h : SlotHdr) (f : MoverF) (s : State) : Host.Outcome State Fault Refusal :=
  .next (oneSlot c x h (.mover .tcpy f) s)

/-- TST (R47): Queues a store of dense scratchpad data into a descriptor box. -/
def execTst (c x : Nat) (h : SlotHdr) (f : MoverF) (s : State) : Host.Outcome State Fault Refusal :=
  .next (oneSlot c x h (.mover .tst f) s)

/-- TST_ADDF (R47): Queues a store that adds FP32 elements atomically into the destination. -/
def execTstAddf (c x : Nat) (h : SlotHdr) (f : MoverF) (s : State) : Host.Outcome State Fault Refusal :=
  .next (oneSlot c x h (.mover .tstAddf f) s)

/-- TST_ADDI (R47): Queues a store that adds INT32 elements atomically, wrapping. -/
def execTstAddi (c x : Nat) (h : SlotHdr) (f : MoverF) (s : State) : Host.Outcome State Fault Refusal :=
  .next (oneSlot c x h (.mover .tstAddi f) s)

/-- MOVER_OP_COMPLETE (R56): A mover operation's writes become visible; its tag count drops and its semaphore is signalled if SEMEN = 1. -/
def execMoverOpComplete (c : Nat) (st : Bool) (x : Nat) (s : State) : Host.Outcome State Fault Refusal := .next (moverComplete c st x s)

/-- MMUL (R48): Queues a matrix product into an accumulator tile. -/
def execMmul (c x : Nat) (h : SlotHdr) (f : MatrixF) (s : State) : Host.Outcome State Fault Refusal :=
  .next (oneSlot c x h (.matrix .mmul f) s)

/-- MMUL_CHUNK_DONE (R86): The matrix unit finishes one 128-element chunk of an mmul and checks every entry for overflow. -/
def execMmulChunkDone (c : Nat) (s : State) : Host.Outcome State Fault Refusal := .next (mmulChunk c s)

/-- MDRAIN (R108): Queues a drain of a tile through a drain chain to a destination. -/
def execMdrain (c x : Nat) (h : SlotHdr) (f : MatrixF) (s : State) : Host.Outcome State Fault Refusal :=
  .next (oneSlot c x h (.matrix .mdrain f) s)

/-- DRAIN_RERUN (R100): A format-mapped drain whose SB exceeds SB_THRESH runs again at the next format of the ladder. -/
def execDrainRerun (c : Nat) (s : State) : Host.Outcome State Fault Refusal := .next (drainRerun c s)

/-- MFREE (R109): Empties a tile without draining it once earlier mmuls into it have completed. -/
def execMfree (c x : Nat) (h : SlotHdr) (f : MatrixF) (s : State) : Host.Outcome State Fault Refusal :=
  .next (oneSlot c x h (.matrix .mfree f) s)

/-- LRUN (R48): Queues a Lupin run on a loop-nest table. -/
def execLrun (c x : Nat) (h : SlotHdr) (f : MatrixF) (s : State) : Host.Outcome State Fault Refusal :=
  .next (oneSlot c x h (.matrix .lrun f) s)

/-- LRUN_EXPAND_START (R116): An lrun reaches the head of the matrix queue; Lupin reads and checks its table chain and captures the address registers. -/
def execLrunExpandStart (c : Nat) (s : State) : Host.Outcome State Fault Refusal := .next (lrunStart c s)

/-- LUPIN_ITERATION (R117): Lupin expands one iteration vector into at most one A load, one B load, one mmul and one drain. -/
def execLupinIteration (c : Nat) (s : State) : Host.Outcome State Fault Refusal := .next (lupinIterate c s)

/-- LRUN_COMPLETE (R122): An lrun's last drain is written and its semaphore is signalled if SEMEN = 1. -/
def execLrunComplete (c : Nat) (s : State) : Host.Outcome State Fault Refusal := .next (lrunComplete c s)

/-- VADD (R49): Element-wise vector add. -/
def execVadd (c x : Nat) (h : SlotHdr) (f : VectorF) (s : State) : Host.Outcome State Fault Refusal :=
  .next (oneSlot c x h (.vector .vadd f) s)

/-- VSUB (R49): Element-wise vector subtract. -/
def execVsub (c x : Nat) (h : SlotHdr) (f : VectorF) (s : State) : Host.Outcome State Fault Refusal :=
  .next (oneSlot c x h (.vector .vsub f) s)

/-- VMUL (R49): Element-wise vector multiply. -/
def execVmul (c x : Nat) (h : SlotHdr) (f : VectorF) (s : State) : Host.Outcome State Fault Refusal :=
  .next (oneSlot c x h (.vector .vmul f) s)

/-- VMIN (R49): Element-wise vector minimum. -/
def execVmin (c x : Nat) (h : SlotHdr) (f : VectorF) (s : State) : Host.Outcome State Fault Refusal :=
  .next (oneSlot c x h (.vector .vmin f) s)

/-- VMAX (R49): Element-wise vector maximum. -/
def execVmax (c x : Nat) (h : SlotHdr) (f : VectorF) (s : State) : Host.Outcome State Fault Refusal :=
  .next (oneSlot c x h (.vector .vmax f) s)

/-- VFMA (R49): Element-wise fused multiply-add with one rounding. -/
def execVfma (c x : Nat) (h : SlotHdr) (f : VectorF) (s : State) : Host.Outcome State Fault Refusal :=
  .next (oneSlot c x h (.vector .vfma f) s)

/-- VABS (R49): Element-wise absolute value. -/
def execVabs (c x : Nat) (h : SlotHdr) (f : VectorF) (s : State) : Host.Outcome State Fault Refusal :=
  .next (oneSlot c x h (.vector .vabs f) s)

/-- VNEG (R49): Element-wise negation. -/
def execVneg (c x : Nat) (h : SlotHdr) (f : VectorF) (s : State) : Host.Outcome State Fault Refusal :=
  .next (oneSlot c x h (.vector .vneg f) s)

/-- VAND (R49): Element-wise bitwise and on integer types. -/
def execVand (c x : Nat) (h : SlotHdr) (f : VectorF) (s : State) : Host.Outcome State Fault Refusal :=
  .next (oneSlot c x h (.vector .vand f) s)

/-- VOR (R49): Element-wise bitwise or on integer types. -/
def execVor (c x : Nat) (h : SlotHdr) (f : VectorF) (s : State) : Host.Outcome State Fault Refusal :=
  .next (oneSlot c x h (.vector .vor f) s)

/-- VXOR (R49): Element-wise bitwise exclusive or on integer types. -/
def execVxor (c x : Nat) (h : SlotHdr) (f : VectorF) (s : State) : Host.Outcome State Fault Refusal :=
  .next (oneSlot c x h (.vector .vxor f) s)

/-- VSHL (R49): Element-wise shift left by amounts modulo the element width. -/
def execVshl (c x : Nat) (h : SlotHdr) (f : VectorF) (s : State) : Host.Outcome State Fault Refusal :=
  .next (oneSlot c x h (.vector .vshl f) s)

/-- VSHR (R49): Element-wise logical shift right. -/
def execVshr (c x : Nat) (h : SlotHdr) (f : VectorF) (s : State) : Host.Outcome State Fault Refusal :=
  .next (oneSlot c x h (.vector .vshr f) s)

/-- VSRA (R49): Element-wise arithmetic shift right. -/
def execVsra (c x : Nat) (h : SlotHdr) (f : VectorF) (s : State) : Host.Outcome State Fault Refusal :=
  .next (oneSlot c x h (.vector .vsra f) s)

/-- VCMP_EQ (R49): Writes a lane predicate for equality. -/
def execVcmpEq (c x : Nat) (h : SlotHdr) (f : VectorF) (s : State) : Host.Outcome State Fault Refusal :=
  .next (oneSlot c x h (.vector .vcmpEq f) s)

/-- VCMP_NE (R49): Writes a lane predicate for inequality. -/
def execVcmpNe (c x : Nat) (h : SlotHdr) (f : VectorF) (s : State) : Host.Outcome State Fault Refusal :=
  .next (oneSlot c x h (.vector .vcmpNe f) s)

/-- VCMP_LT (R49): Writes a lane predicate for less than. -/
def execVcmpLt (c x : Nat) (h : SlotHdr) (f : VectorF) (s : State) : Host.Outcome State Fault Refusal :=
  .next (oneSlot c x h (.vector .vcmpLt f) s)

/-- VCMP_LE (R49): Writes a lane predicate for less or equal. -/
def execVcmpLe (c x : Nat) (h : SlotHdr) (f : VectorF) (s : State) : Host.Outcome State Fault Refusal :=
  .next (oneSlot c x h (.vector .vcmpLe f) s)

/-- VSEL (R49): Selects per lane between two sources by a predicate. -/
def execVsel (c x : Nat) (h : SlotHdr) (f : VectorF) (s : State) : Host.Outcome State Fault Refusal :=
  .next (oneSlot c x h (.vector .vsel f) s)

/-- VCVT (R49): Converts every lane between element types under R92. -/
def execVcvt (c x : Nat) (h : SlotHdr) (f : VectorF) (s : State) : Host.Outcome State Fault Refusal :=
  .next (oneSlot c x h (.vector .vcvt f) s)

/-- VPERM (R49): Permutes lanes by indices in a second source. -/
def execVperm (c x : Nat) (h : SlotHdr) (f : VectorF) (s : State) : Host.Outcome State Fault Refusal :=
  .next (oneSlot c x h (.vector .vperm f) s)

/-- VBCAST (R49): Broadcasts a scalar into every lane. -/
def execVbcast (c x : Nat) (h : SlotHdr) (f : VectorF) (s : State) : Host.Outcome State Fault Refusal :=
  .next (oneSlot c x h (.vector .vbcast f) s)

/-- VRED_ADD (R49): Adds the active lanes in a fixed pairwise tree into a scalar. -/
def execVredAdd (c x : Nat) (h : SlotHdr) (f : VectorF) (s : State) : Host.Outcome State Fault Refusal :=
  .next (oneSlot c x h (.vector .vredAdd f) s)

/-- VRED_MAX (R49): Reduces the active lanes to their maximum in a scalar. -/
def execVredMax (c x : Nat) (h : SlotHdr) (f : VectorF) (s : State) : Host.Outcome State Fault Refusal :=
  .next (oneSlot c x h (.vector .vredMax f) s)

/-- VRED_MIN (R49): Reduces the active lanes to their minimum in a scalar. -/
def execVredMin (c x : Nat) (h : SlotHdr) (f : VectorF) (s : State) : Host.Outcome State Fault Refusal :=
  .next (oneSlot c x h (.vector .vredMin f) s)

/-- VLD (R49): Loads 256 elements from the scratchpad window. -/
def execVld (c x : Nat) (h : SlotHdr) (f : VectorF) (s : State) : Host.Outcome State Fault Refusal :=
  .next (oneSlot c x h (.vector .vld f) s)

/-- VST (R49): Stores 256 elements into the scratchpad window. -/
def execVst (c x : Nat) (h : SlotHdr) (f : VectorF) (s : State) : Host.Outcome State Fault Refusal :=
  .next (oneSlot c x h (.vector .vst f) s)

/-- RNG (R49): Writes counter-based random words from the generator of R350 into the lanes. -/
def execRng (c x : Nat) (h : SlotHdr) (f : VectorF) (s : State) : Host.Outcome State Fault Refusal :=
  .next (oneSlot c x h (.vector .rng f) s)

/-- VIDX (R49): Writes the lane index plus an immediate into each lane. -/
def execVidx (c x : Nat) (h : SlotHdr) (f : VectorF) (s : State) : Host.Outcome State Fault Refusal :=
  .next (oneSlot c x h (.vector .vidx f) s)

/-- SFU (R160): Runs a special-function micro-program on every active lane. -/
def execSfu (c x : Nat) (h : SlotHdr) (f : SpecialF) (s : State) : Host.Outcome State Fault Refusal :=
  .next (oneSlot c x h (.special .sfu f) s)

/-- SFU_GATE (R160): Multiplies one source by a micro-program of another with one rounding. -/
def execSfuGate (c x : Nat) (h : SlotHdr) (f : SpecialF) (s : State) : Host.Outcome State Fault Refusal :=
  .next (oneSlot c x h (.special .sfuGate f) s)

/-- TBL_COMMIT (R180): Marks a table's inactive bank pending and starts its check. -/
def execTblCommit (c x : Nat) (h : SlotHdr) (f : SpecialF) (s : State) : Host.Outcome State Fault Refusal :=
  .next (oneSlot c x h (.special .tblCommit f) s)


/-- FENCE (R51): Makes the context wait until earlier operations of the selected units have completed. -/
def execFence (c x : Nat) (h : SlotHdr) (f : SyncF) (s : State) : Host.Outcome State Fault Refusal :=
  .next (oneSlot c x h (.sync .fence f) s)

/-- FENCE_SATISFIED (R51): The operations a fence waits on have completed and the context becomes ready. -/
def execFenceSatisfied (c x : Nat) (s : State) : Host.Outcome State Fault Refusal := .next (fenceDone c x s)

/-- MWAIT (R51): Makes the context wait until the named mover tag counts reach zero. -/
def execMwait (c x : Nat) (h : SlotHdr) (f : SyncF) (s : State) : Host.Outcome State Fault Refusal :=
  .next (oneSlot c x h (.sync .mwait f) s)

/-- MWAIT_SATISFIED (R56): The awaited tag counts reach zero and the context becomes ready. -/
def execMwaitSatisfied (c x : Nat) (s : State) : Host.Outcome State Fault Refusal := .next (mwaitDone c x s)

/-- SEM_SIG (R51): Sends an increment to a semaphore's home without blocking. -/
def execSemSig (c x : Nat) (h : SlotHdr) (f : SyncF) (s : State) : Host.Outcome State Fault Refusal :=
  .next (oneSlot c x h (.sync .semSig f) s)

/-- SEM_SIG_APPLY (R62): A signal arrives at the semaphore's home and is added to its value. -/
def execSemSigApply (k : Nat) (s : State) : Host.Outcome State Fault Refusal := .next (sigApply k s)

/-- SEM_WAIT (R51): Makes the context wait until a semaphore reaches a threshold. -/
def execSemWait (c x : Nat) (h : SlotHdr) (f : SyncF) (s : State) : Host.Outcome State Fault Refusal :=
  .next (oneSlot c x h (.sync .semWait f) s)

/-- SEM_WAIT_SATISFIED (R62): A waited semaphore reaches its threshold and the waiter continues. -/
def execSemWaitSatisfied (c x : Nat) (s : State) : Host.Outcome State Fault Refusal := .next (semWaitDone c x s)

/-- SEM_TAKE (R51): Waits until a semaphore holds n, then subtracts n atomically. -/
def execSemTake (c x : Nat) (h : SlotHdr) (f : SyncF) (s : State) : Host.Outcome State Fault Refusal :=
  .next (oneSlot c x h (.sync .semTake f) s)

/-- SEM_TAKE_SERVED (R62): The home serves the oldest waiting sem.take once its n is met. -/
def execSemTakeServed (die i : Nat) (s : State) : Host.Outcome State Fault Refusal := .next (semTakeDone die i s)

/-- SEM_RD (R51): Reads a semaphore's value into a scalar. -/
def execSemRd (c x : Nat) (h : SlotHdr) (f : SyncF) (s : State) : Host.Outcome State Fault Refusal :=
  .next (oneSlot c x h (.sync .semRd f) s)

/-- CLAIM (R63): Fetches and adds to a claim counter at its home. -/
def execClaim (c x : Nat) (h : SlotHdr) (f : SyncF) (s : State) : Host.Outcome State Fault Refusal :=
  .next (oneSlot c x h (.sync .claim f) s)

/-- FBAR (R324): Counts an arrival at a fabric barrier and makes the context wait. -/
def execFbar (c x : Nat) (h : SlotHdr) (f : SyncF) (s : State) : Host.Outcome State Fault Refusal :=
  .next (oneSlot c x h (.sync .fbar f) s)

end Sys2Proof.Machine
end

