-- ==== Sys2Proof/Machine/Images.lean ====
section
/-!
DEFINITION. Program images (R276, R277), the table load command (R177, R466) and partitions (R281 to R283, R464).
-/

namespace Sys2Proof.Machine

/-! ### Images -/

/-- Reserved, or zero by the kind, in a kernel entry (R277). `minor`: the image's minor version. -/
def kernelBad (minor : Nat) (codeLen : Nat) (bs : List Byte) : Bool :=
  let w := wordAt bs 0
  let kind := bits w 0 2
  let z (o n : Nat) : Bool := ((bs.drop o).take n).all (· = 0)
  kind == 3 || decide (bits w 4 60 ≠ 0) || !z 0x10 0x30 || !z 0xC0 0x40 ||
  (minor == 0 && decide (bits (wordAt bs 8) 32 32 ≠ 0)) ||
  (if kind = 0 then decide (bits (wordAt bs 8) 0 32 % 128 ≠ 0 ∨ codeLen ≤ bits (wordAt bs 8) 0 32)
   else bit w 2 || decide (bits (wordAt bs 8) 0 32 ≠ 0) || !z 0x40 0x40 || !z 0x100 0x400) ||
  (kind ≠ 1 && !z 0x80 0x40)

/-- A kernel entry (R277). -/
def parseKernel (bs : List Byte) : Kernel :=
  let w := wordAt bs 0
  { kind := bits w 0 2, kmode := bit w 2, usesVar := bit w 3, entry := bits (wordAt bs 8) 0 32,
    spadMin := bits (wordAt bs 8) 32 32, kfc := (bs.drop 0x40).take 64, acfg := (bs.drop 0x80).take 64,
    chains := (bs.drop 0x100).take 1024 }

/-- What the check of an image's bytes finds: a status, or the image (its code not yet placed) and its code bytes
(R269, R276, R277, R426). -/
def State.checkImage (s : State) (p imgVer : Nat) (bs : List Byte) : Except Nat (Image × List Byte) :=
  let w (o : Nat) : Nat := wordAt bs o
  let total := w 8
  let n := bits (w 0x10) 0 16
  let signed := bit (w 0x10) 16
  let ktab := w 0x18
  let code := w 0x20
  let len := w 0x28
  let sig := w 0x30
  let digest := (bs.drop 0x38).take 64
  let minor := bits (w 0) 40 8
  if bs.length < 4096 ∨ bits (w 0) 0 32 ≠ 0x4D495A59 then .error 0x28
  else if bits (w 0) 32 8 ≠ imgVer / 256 ∨ imgVer % 256 < minor then .error 0x29
  else if bits (w 0) 48 16 ≠ 0 ∨ bits (w 0x10) 17 47 ≠ 0 ∨ ((bs.take 4096).drop 0x78).any (· ≠ 0) then .error 0x28
  else if total % 4096 ≠ 0 ∨ total < 4096 ∨ bs.length < total ∨ n = 0 ∨ 4096 < n ∨ ktab % 4096 ≠ 0 ∨ code % 4096 ≠ 0 ∨ len % 128 ≠ 0 ∨
      total < ktab + 1280 * n ∨ total < code + len ∨ (signed = true ∧ (sig < 4096 ∨ total < sig + 256)) ∨ (signed = false ∧ sig ≠ 0) then .error 0x28
  else
    let body := bs.take total
    let cover := if signed then (body.take sig).drop 0x1000 ++ body.drop (sig + 256) else body.drop 0x1000
    let ks := (List.range n).map (fun i => (body.drop (ktab + 1280 * i)).take 1280)
    if sha512 (body.take 0x38 ++ cover) ≠ digest ∨ ks.any (kernelBad minor len) then .error 0x28
    else
      let blk := (body.drop sig).take 256
      let img : Image :=
        { part := p, code := 0, kernels := ks.map parseKernel, digest := digest, signer := if signed then wordAt blk 0 else 0,
          signed := signed }
      let out := (img, (body.drop code).take len)
      if signed then (if s.sigOk p blk digest then .ok out else .error 0x2A)
      else if s.isSecure p then .error 0x2A else .ok out

/-- The next image handle after the last one assigned that is not in use, from 1 to 65,535 (R276). -/
def State.nextImage (s : State) : Option Nat :=
  ((List.range 65535).map (fun i => (s.lastImage + i) % 65535 + 1)).find? (fun k => (oget s.images k).isNone)

/-- The instruction caches of a partition's cores are invalidated (R59). -/
def State.flushICaches (s : State) (p : Nat) : State :=
  (List.range 128).foldl (fun s c => if s.coreOf p c then s.updCore c (fun k => { k with icache := [] }) else s) s

/-- IMG_LOAD: starts its copy. -/
def hImgLoad : Handler := fun c s =>
  if c.p 1 = 0 ∨ 1024 ≤ c.p 2 then (s, no 0x11)
  else if !s.awBlock c.part (c.w 0) (c.p 1) true false then (s, no 0x1A)
  else (s, .bg)

/-- The finish of IMG_LOAD: the checks, the copy, the handle. -/
def finImgLoad (c : Cmd) (s : State) : State :=
  let ver := match c.sess with
    | some q => q.imgVer
    | none => 0x0100
  match s.checkImage c.part ver (s.awBytes c.part (c.w 0) (c.p 1)) with
  | .error st => s.complete c st false 0 0
  | .ok (img, code) =>
    match s.region c.part (c.p 2) with
    | none => s.complete c 0x22 false 0 0
    | some r =>
      if !inOneDie r.baseg r.lastg ∨ !r.r ∨ !r.x ∨ (r.lastg + 1 - r.baseg) * granule < code.length then s.complete c 0x22 false 0 0
      else
        match s.nextImage with
        | none => s.complete c 0x19 false 0 0
        | some h =>
          let s := (s.write (r.baseg * granule) code).flushICaches c.part
          ({ s with images := tins s.images h { img with code := r.baseg * granule }, lastImage := h }).complete c 0 false h 0

/-- An image of the partition, or the status that refuses it. -/
def State.imageOf (s : State) (p h : Nat) : Except Nat Image :=
  match oget s.images h with
  | none => .error 0x15
  | some i => if i.part = p then .ok i else .error 0x14

/-- IMG_UNLOAD: the handle becomes free. -/
def hImgUnload : Handler := fun c s =>
  match s.imageOf c.part (c.p 0) with
  | .error st => (s, no st)
  | .ok _ => ({ s with images := tdrop s.images (c.p 0) }, ok)

/-- IMG_QUERY. -/
def hImgQuery : Handler := fun c s =>
  match s.imageOf c.part (c.p 0) with
  | .error st => (s, no st)
  | .ok _ => freeResp 0x0202 1 64 s c

/-! ### A partition's tables (R177, R466) -/

/-- A byte of a partition's current tables, at its bank 0 offset in a table window. -/
def Part.tableByte (q : Part) (o : Nat) : Byte := tget (fun o => Memory.dflt (windowBase + o)) q.tables o

/-- The offset in bank `b` of bank 0 offset `o`. -/
def bankOff (b o : Nat) : Nat := o + b * (if o < 0x8000 then 0x8000 else if o < 0x30000 then 0x10000 else 0x400)

/-- Both banks of a core's window take the partition's tables, bank 0 becomes active and nothing is pending. -/
def State.fillTables (s : State) (p c : Nat) : State :=
  match oget s.parts p with
  | none => s
  | some q =>
    let w := tableWindow c
    let m := s.mem.filter (fun (k, _) => !(decide (w ≤ k ∧ k < w + 0x31000)))
    let m := q.tables.foldl (fun m (o, b) => tput Memory.dflt (tput Memory.dflt m (w + o) b) (w + bankOff 1 o) b) m
    ({ s with mem := m }).updCore c (fun k => { k with active := 0, pending := 0, commits := [], part := some p })

/-- A core is assigned to the partition: its window is written unless it holds that partition's tables already. -/
def State.giveCore (s : State) (p c : Nat) : State := if (s.core c).part = some p then s else s.fillTables p c

/-- The spans of a table load, as bank 0 offsets with their bytes: a record and the segments its sub-tables name, in the
order of the sub-tables, or a code table word. -/
def tableSpans (tid : Nat) (bs : List Byte) : List (Nat × List Byte) :=
  if isW2tid tid then [(0x30000 + 4 * (tid - 0x8000), bs.take 4)]
  else
    let segs := (recSegs (bs.take 128)).flatMap (fun (a, b) => (List.range (b + 1 - a)).map (a + ·))
    (128 * tid, bs.take 128) :: (List.range segs.length).map (fun i => (0x10000 + 32 * (segs.getD i 0 % 2048), (bs.drop (128 + 32 * i)).take 32))

/-- How many bytes a table load reads, from its record. -/
def tableBytes (tid : Nat) (rec : List Byte) : Nat :=
  if isW2tid tid then 4 else 128 + 32 * ((recSegs rec).map (fun (a, b) => b + 1 - a)).foldl (· + ·) 0

/-- The check of a table load's record against its own segments (R180). -/
def tableOk (tid : Nat) (bs : List Byte) : Bool :=
  if isW2tid tid then true
  else
    let sp := tableSpans tid bs
    recordOk (bs.take 128) (fun i =>
      let b := match sp.find? (fun x => x.1 = 0x10000 + 32 * (i % 2048)) with
        | some x => x.2
        | none => []
      (List.range 8).map (fun k => ofLe ((b.drop (4 * k)).take 4)))

/-- The new contents go into a core's inactive bank and are committed (R466). -/
def State.loadTable (s : State) (c tid : Nat) (bs : List Byte) : State :=
  let no := tableNo tid
  let b := (s.core c).otherBank no
  let s := (tableSpans tid bs).foldl (fun s (o, x) => s.write (tableWindow c + bankOff b o) x) s
  s.startCommit c none { launch := 0, index := 0 } 0 0 no

/-- The cores whose windows hold the partition's tables (R177): a shared core that works for another partition takes the
new tables when it next works for this one. -/
def State.tableCores (s : State) (p : Nat) : List Nat := (List.range 128).filter (fun c => (s.core c).part = some p)

/-- The contents of a table load are in the active bank of core `c` (R466). -/
def State.tableHeld (s : State) (c tid : Nat) (bs : List Byte) : Bool :=
  (tableSpans tid bs).all (fun (o, x) => s.bytes (tableWindow c + bankOff ((s.core c).bank (tableNo tid)) o) x.length = x)

/-- A TBL_LOAD that waits moves on: cores whose pending commit has ended take the contents that were checked, and it completes when
they are active on every core of the partition. `r0`: cores written; `r1`: cores on which the contents are active. -/
def State.tblStep (s : State) (c : Cmd) : State :=
  let tid := c.p 0
  let no := tableNo tid
  let cores := s.tableCores c.part
  let idle (k : Nat) : Bool := !(s.core k).pending.getLsbD no
  let held (k : Nat) : Bool := bit c.r0 k && s.tableHeld k tid c.data
  let done := cores.filter (fun k => idle k && held k)
  let new := cores.filter (fun k => idle k && !held k && !bit c.r1 k)
  let put (m : Nat) (k : Nat) : Nat := if bit m k then m else m + 2 ^ k
  let r1 := done.foldl put c.r1
  let r0 := new.foldl put c.r0
  let s := new.foldl (fun s k => s.loadTable k tid c.data) s
  if cores.all (fun k => bit r1 k) then s.complete c 0 false 0 0 else s.updCmd c (fun d => { d with r0 := r0, r1 := r1 })

/-- TBL_LOAD (R466): the record is checked first. -/
def hTblLoad : Handler := fun c s =>
  let tid := c.p 0
  if !tidOk tid then (s, no 0x11)
  else
    let n0 := if isW2tid tid then 4 else 128
    match s.blockRefusal c.part (c.w 1) n0 true false with
    | some st => (s, no st)
    | none =>
      let n := tableBytes tid (s.awBytes c.part (c.w 1) 128)
      if !s.awOk c.part (c.w 1) n true false then (s, no 0x1A)
      else
        let bs := s.awBytes c.part (c.w 1) n
        if !tableOk tid bs then (s, no 0x2B)
        else
          let put (t : Tab Byte) (x : Nat × List Byte) : Tab Byte :=
            (List.range x.2.length).foldl (fun t i => tput (fun o => Memory.dflt (windowBase + o)) t (x.1 + i) (x.2.getD i 0)) t
          let s := s.updPart c.part (fun q => { q with tables := (tableSpans tid bs).foldl put q.tables })
          if (s.tableCores c.part).isEmpty then (s, ok)
          else ((s.updCmd c (fun d => { d with data := bs })).tblStep { c with data := bs }, .wait)

/-- Every TBL_LOAD that waits is looked at again. -/
def State.tblAdvance (s : State) : State :=
  (s.journal.filter (fun c => c.code = 0x0203 ∧ c.started)).foldl (fun s c => s.tblStep c) s

/-! ### Partitions -/

/-- Two ranges of numbers meet. -/
def rangesMeet (a n b k : Nat) : Bool := decide (0 < n ∧ 0 < k ∧ a < b + k ∧ b < a + n)

/-- A partition without engines and not configured (R283); the step builder's selection starts at SEQ_BASE (R308). -/
def Part.fresh (seqB seqC qpB qpC semB semC clB clC d0 d1 wq tq : Nat) (diag : Bool) : Part :=
  { seqBase := seqB, seqCount := seqC, qpBase := qpB, qpCount := qpC, semBase := semB, semCount := semC, claimBase := clB,
    claimCount := clC, dq0 := d0, dq1 := d1, wq := wq, tq := tq, diag := diag, rcore := 0, score := 0, rfox := 0, sfox := 0,
    rprim := 0, sprim := 0, renc := 0, rdec := 0, cls := false, varfault := false, share := 1,
    regs := List.replicate 4 Regulator.free, vt := 0, acctCore := 0, acctFox := 0, acctPrim := 0, preempts := 0, maxNs := 0,
    revoke := 0, step := 0, badDoorbell := 0, semLost := 0, start := seqB, offUs := 10000, destroying := false, tables := [] }

/-- The parameter block of PART_CREATE, and whether it is out of form (R281). -/
def parsePart (bs : List Byte) : Part × Bool :=
  let w (o : Nat) : Nat := wordAt bs o
  let q := Part.fresh (bits (w 0) 0 16) (bits (w 0) 16 17) (bits (w 8) 0 18) (bits (w 8) 18 19) (bits (w 0x10) 0 12)
    (bits (w 0x10) 12 13) (bits (w 0x10) 25 10) (bits (w 0x10) 35 11) (bits (w 0x18) 0 18) (bits (w 0x18) 18 18)
    (bits (w 0x20) 0 16) (bits (w 0x20) 16 16) (bit (w 0x20) 32)
  (q, decide (bits (w 0) 33 31 ≠ 0 ∨ bits (w 8) 37 27 ≠ 0 ∨ bits (w 0x10) 46 18 ≠ 0 ∨ bits (w 0x18) 36 28 ≠ 0 ∨ bits (w 0x20) 33 31 ≠ 0) ||
    (bs.drop 0x28).any (· ≠ 0) ||
    decide (65536 < q.seqBase + q.seqCount ∨ 262144 < q.qpBase + q.qpCount ∨ 4096 < q.semBase + q.semCount ∨ 1024 < q.claimBase + q.claimCount))

/-- A range or a quota of a new partition that cannot be had (R281, R464). -/
def State.partClash (s : State) (q : Part) : Bool :=
  s.parts.any (fun (_, o) => rangesMeet q.seqBase q.seqCount o.seqBase o.seqCount || rangesMeet q.qpBase q.qpCount o.qpBase o.qpCount ||
    rangesMeet q.semBase q.semCount o.semBase o.semCount || rangesMeet q.claimBase q.claimCount o.claimBase o.claimCount) ||
  decide (s.dramQuota 0 0 < q.dq0 + s.dramUsed 0 0) || decide (s.dramQuota 0 1 < q.dq1 + s.dramUsed 0 1) ||
  decide (s.flashQuota 0 s.flash.wsize (·.wq) < q.wq * 1000000000 + s.wpkgBytes (· == 0)) ||
  decide (s.flashQuota 0 s.tierBytes (·.tq) < q.tq * 1000000000 + s.tobjBytes (· == 0))

/-- The counters of a partition's ranges are 0 and its table entries FREE (R281). -/
def State.clearRanges (s : State) (q : Part) : State :=
  { s with
    sems := s.sems.filter (fun (k, _) => !(decide (q.semBase ≤ k % 4096 ∧ k % 4096 < q.semBase + q.semCount)))
    claims := s.claims.filter (fun (k, _) => !(decide (q.claimBase ≤ k % 1024 ∧ k % 1024 < q.claimBase + q.claimCount)))
    seqs := s.seqs.filter (fun (k, _) => !(decide (q.seqBase ≤ k ∧ k < q.seqBase + q.seqCount))) }

/-- PART_CREATE. -/
def hPartCreate : Handler := withPb 1 64 (fun c bs s =>
  let (q, bad) := parsePart bs
  if 16 ≤ c.p 0 ∨ bad then (s, no 0x11)
  else if (oget s.parts (c.p 0)).isSome then (s, no 0x16)
  else if s.partClash q then (s, no 0x19)
  else
    let s := s.clearRanges q
    ({ s with parts := tins s.parts (c.p 0) q }, ok))

/-- PART_DESTROY: its DRAM is zeroed in the background (R214). Partition 0 always exists (log 22). -/
def hPartDestroy : Handler := fun c s =>
  let p := c.p 0
  match oget s.parts p with
  | none => (s, no 0x16)
  | some q =>
    let busy := s.qps.any (fun (_, x) => x.part == p) || s.launches.any (fun (_, l) => l.part == p) ||
      s.wwins.any (fun (_, w) => w.part == p && w.run) || s.tobjs.any (fun (_, t) => t.part == p) || s.wpkgs.any (fun (_, t) => t.part == p) ||
      s.iris.any (fun (_, t) => t.part == p)
    if p = 0 ∨ q.destroying ∨ busy then (s, no 0x16)
    else (s.updPart p (fun q => { q with destroying := true }), .bg)

/-- The finish of PART_DESTROY: everything that belongs to the partition goes; its granules are zeroed. -/
def finPartDestroy (c : Cmd) (s : State) : State :=
  let p := c.p 0
  match oget s.parts p with
  | none => s.complete c 0 false 0 0
  | some q =>
    let mine := s.owned.filter (fun o => o.part = p)
    let s := mine.foldl (fun s o => s.zero (o.baseg * granule) ((o.lastg + 1 - o.baseg) * granule)) s
    let s := (List.range 128).foldl (fun s k => if (s.core k).part = some p then s.updCore k (fun k => { k with part := none }) else s) (s.clearRanges q)
    ({ s with
        foxes := tmap (fun _ => Fox.reset) (fun _ f => if f.part = some p then { f with part := none, lab := [] } else f) s.foxes
        prims := tmap (fun _ => Prim.reset) (fun _ f => if f.part = some p then { f with part := none } else f) s.prims
        owned := s.owned.filter (fun o => o.part ≠ p)
        regions := s.regions.filter (fun (k, _) => k / 1024 ≠ p)
        grants := s.grants.filter (fun g => g.owner ≠ p ∧ g.grantee ≠ p)
        images := s.images.filter (fun (_, i) => i.part ≠ p)
        wwins := s.wwins.filter (fun (_, w) => w.part ≠ p)
        pools := s.pools.filter (fun (_, w) => w.part ≠ p)
        maps := s.maps.filter (fun (_, w) => w.part ≠ p)
        mapRoom := tdrop s.mapRoom p
        secure := s.secure.filter (· ≠ p)
        snaps := tdrop s.snaps p
        stepLogs := tdrop s.stepLogs p
        fabs := tdrop s.fabs p
        pages := tdrop s.pages p
        pkeys := s.pkeys.filter (fun (k, _) => k / 4 ≠ p)
        parts := tdrop s.parts p }).complete c 0 false 0 0

/-- The engines of one assignment as masks: reserved cores, shared cores, and so on (R282). -/
structure Assign where
  rcore : Nat
  score : Nat
  rfox : Nat
  sfox : Nat
  rprim : Nat
  sprim : Nat
  renc : Nat
  rdec : Nat
  deriving DecidableEq, Repr

/-- The parameter block of PART_ASSIGN, and whether a reserved bit is set. -/
def parseAssign (bs : List Byte) : Assign × Bool :=
  let w (o : Nat) : Nat := wordAt bs o
  ({ rcore := w 0 + 2 ^ 64 * w 8, score := w 0x10 + 2 ^ 64 * w 0x18, rfox := bits (w 0x20) 0 32, sfox := bits (w 0x20) 32 32,
     rprim := bits (w 0x28) 0 4, sprim := bits (w 0x28) 4 4, renc := bits (w 0x28) 8 4, rdec := bits (w 0x28) 12 4 },
   decide (bits (w 0x28) 16 48 ≠ 0) || (bs.drop 0x30).any (· ≠ 0))

/-- Two masks have a bit in common. -/
def masksMeet (a b : Nat) : Bool := decide (a &&& b ≠ 0)

/-- Reserved engines stay with one partition (R282): within the block, and against the other partitions. -/
def State.assignClash (s : State) (p : Nat) (a : Assign) : Bool :=
  masksMeet a.rcore a.score || masksMeet a.rfox a.sfox || masksMeet a.rprim a.sprim ||
  s.parts.any (fun (k, q) => k ≠ p &&
    (masksMeet a.rcore (q.rcore ||| q.score).toNat || masksMeet a.score q.rcore.toNat ||
     masksMeet a.rfox (q.rfox ||| q.sfox).toNat || masksMeet a.sfox q.rfox.toNat ||
     masksMeet a.rprim (q.rprim ||| q.sprim).toNat || masksMeet a.sprim q.rprim.toNat ||
     masksMeet a.renc q.renc.toNat || masksMeet a.rdec q.rdec.toNat))

/-- Six free granules in a row on a die for a save area of 12 MiB: the lowest (log 16). -/
def State.saveArea (s : State) (die : Nat) : Option Nat :=
  let taken := (s.owned.filter (fun o => decide (o.baseg / 131072 = die))).map (fun o => o.lastg + 1)
  ((131072 * die) :: taken).find? (fun g => decide (g + 5 < 131072 * (die + 1)) && !s.owned.any (fun o => granulesMeet o.baseg o.lastg g (g + 5)))

/-- Save areas for the cores of a list; none where the quota cannot hold one. -/
def State.takeSaves (p : Nat) : List Nat → State → Option State
  | [], s => some s
  | c :: t, s =>
    match s.saveArea (dieOf c) with
    | none => none
    | some g => if s.quotaOk p [(g, g + 5)] then takeSaves p t (s.allocGranules p g (g + 5) true) else none

/-- A core enters Off (R430): scratchpad, registers, accumulators and instruction cache are lost, its table window stays. -/
def State.corePowerOff (s : State) (c : Nat) : State :=
  let s : State := { s with
    mem := s.mem.filter (fun (a, _) => spadCore a != some c)
    poison := s.poison.filter (fun l => spadCore (64 * l) != some c)
    ctxs := s.ctxs.filter (fun (x, _) => x / 4 != c)
    tiles := s.tiles.filter (fun (x, _) => x / 64 != c) }
  s.updCore c (fun k => { k with icache := [], power := .off, viaOff := false })

/-- No context of the core works for a launch. -/
def State.coreIdle (s : State) (c : Nat) : Bool := (List.range 4).all (fun x => (s.ctx c x).launch.isNone)

/-- A core that moves to a new partition passes through Off, at once where it is idle, else before that partition's work
(R431). -/
def State.passOff (s : State) (c : Nat) : State :=
  if s.coreIdle c then s.corePowerOff c else s.updCore c (fun k => { k with viaOff := true })

/-- A unit that is new to the partition, and was last another's, loses its look-aside buffer (R153). -/
def State.assignFox (s : State) (p u : Nat) : State :=
  s.updFox u (fun f => if f.part = some p then f else { f with part := some p, lab := [] })

/-- PART_ASSIGN: the block replaces the partition's assignment; every core new to the partition passes through Off, and a
reserved one gets its tables; a core that is taken away gets them again when it comes back (R177). -/
def hPartAssign : Handler := withPb 1 64 (fun c bs s =>
  let p := c.p 0
  let (a, bad) := parseAssign bs
  if 16 ≤ p ∨ bad then (s, no 0x11)
  else
    match oget s.parts p with
    | none => (s, no 0x16)
    | some q0 =>
      if s.assignClash p a then (s, no 0x19)
      else
        let s0 := { s with owned := s.owned.filter (fun o => !(o.part == p && o.save)) }
        match State.takeSaves p (maskList 128 a.score) s0 with
        | none => (s, no 0x19)
        | some s1 =>
          let s2 := s1.updPart p (fun q =>
            { q with rcore := BitVec.ofNat 128 a.rcore, score := BitVec.ofNat 128 a.score, rfox := BitVec.ofNat 32 a.rfox,
                     sfox := BitVec.ofNat 32 a.sfox, rprim := BitVec.ofNat 4 a.rprim, sprim := BitVec.ofNat 4 a.sprim,
                     renc := BitVec.ofNat 4 a.renc, rdec := BitVec.ofNat 4 a.rdec })
          let moved := (maskList 128 (a.rcore ||| a.score)).filter (fun k => !bit (q0.rcore ||| q0.score).toNat k)
          let gone := (maskList 128 (q0.rcore ||| q0.score).toNat).filter (fun k => !bit (a.rcore ||| a.score) k)
          let s2 := gone.foldl (fun s k => s.updCore k (fun k => if k.part = some p then { k with part := none } else k)) s2
          let units := (maskList 32 (a.rfox ||| a.sfox)).filter (fun k => !bit (q0.rfox ||| q0.sfox).toNat k)
          let s2 := units.foldl (fun s u => s.assignFox p u) s2
          let s3 := moved.foldl (fun s k => s.passOff k) s2
          ((maskList 128 a.rcore).foldl (fun s k => s.giveCore p k) s3, ok))

/-- PART_CONFIG (R283): a regulator's balance starts full (log 22). -/
def hPartConfig : Handler := withPb 1 64 (fun c bs s =>
  let p := c.p 0
  let w := wordAt bs 0
  let reg (j : Nat) : Regulator :=
    let v := wordAt bs (8 + 8 * j)
    { rate := bits v 0 32, burst := bits v 32 32, balance := bits v 32 32 }
  if 16 ≤ p ∨ bits w 2 14 ≠ 0 ∨ bits w 32 32 ≠ 0 ∨ bits w 16 16 = 0 ∨ (bs.drop 0x28).any (· ≠ 0) then (s, no 0x11)
  else if (oget s.parts p).isNone then (s, no 0x16)
  else (s.updPart p (fun q =>
    { q with cls := bit w 0, varfault := bit w 1, share := bits w 16 16, regs := (List.range 4).map reg }), ok))

/-! ### Commands -/

/-- TABLE_SWITCH (R181): once every earlier user has finished, a pending table's active bank flips and its pending bit
clears; a table load that waited for it moves on (R466). -/
def execTableSwitch (c t : Nat) (s : State) : Host.Outcome State Fault Refusal := .next (tableSwitch c t s).tblAdvance
/-- TBL_CHECK_DONE (R180): The SFU finishes checking a committed program record; a failed check raises ILLEGAL_BUNDLE and clears the pending state; a table load that waited for the commit moves on (R466). -/
def execTblCheckDone (c t : Nat) (s : State) : Host.Outcome State Fault Refusal := .next (checkDone c t s).tblAdvance
/-- IMG_LOAD. -/
def execImgLoad (m : Nat) (h : CmdHdr) (src len index : W64) (s : State) : Host.Outcome State Fault Refusal :=
  .next (runCmd m h 0x0200 [src, len, index] hImgLoad s)
/-- IMG_UNLOAD. -/
def execImgUnload (m : Nat) (h : CmdHdr) (handle : W64) (s : State) : Host.Outcome State Fault Refusal :=
  .next (runCmd m h 0x0201 [handle] hImgUnload s)
/-- IMG_QUERY. -/
def execImgQuery (m : Nat) (h : CmdHdr) (handle resp : W64) (s : State) : Host.Outcome State Fault Refusal :=
  .next (runCmd m h 0x0202 [handle, resp] hImgQuery s)
/-- TBL_LOAD. -/
def execTblLoad (m : Nat) (h : CmdHdr) (tid src : W64) (s : State) : Host.Outcome State Fault Refusal :=
  .next (runCmd m h 0x0203 [tid, src] hTblLoad s)
/-- PART_CREATE. -/
def execPartCreate (m : Nat) (h : CmdHdr) (part pb : W64) (s : State) : Host.Outcome State Fault Refusal :=
  .next (runCmd m h 0x0300 [part, pb] hPartCreate s)
/-- PART_DESTROY. -/
def execPartDestroy (m : Nat) (h : CmdHdr) (part : W64) (s : State) : Host.Outcome State Fault Refusal :=
  .next (runCmd m h 0x0301 [part] hPartDestroy s)
/-- PART_ASSIGN. -/
def execPartAssign (m : Nat) (h : CmdHdr) (part pb : W64) (s : State) : Host.Outcome State Fault Refusal :=
  .next (runCmd m h 0x0302 [part, pb] hPartAssign s)
/-- PART_CONFIG. -/
def execPartConfig (m : Nat) (h : CmdHdr) (part pb : W64) (s : State) : Host.Outcome State Fault Refusal :=
  .next (runCmd m h 0x0303 [part, pb] hPartConfig s)

end Sys2Proof.Machine
end

