-- ==== Sys2Proof/Machine/Windows.lean ====
section
/-!
DEFINITION. Weight windows (R222 to R228, R253) and the execution of the flash commands of group 0x06.
-/

namespace Sys2Proof.Machine

/-- Window `w`. -/
def State.wwin (s : State) (w : Nat) : Option Wwin := oget s.wwins w
/-- The state with a window changed. -/
def State.updWwin (s : State) (w : Nat) (f : Wwin → Wwin) : State := { s with wwins := oupd s.wwins w f }

/-- The homes of a window: device address of slot 0. -/
def Wwin.homes (w : Wwin) : List Nat := if w.home1 = 0 then [w.home0] else [w.home0, w.home1]
/-- The side slots of its homes, where it has them. -/
def Wwin.sides (w : Wwin) : List Nat := if w.home1 = 0 then [w.side0] else [w.side0, w.side1]
/-- The die of a DRAM address. -/
def dieOfAddr (a : Nat) : Nat := a / dieBytes
/-- The dies of a window's homes. -/
def Wwin.dies (w : Wwin) : List Nat := w.homes.map dieOfAddr
/-- Slot of a position. -/
def Wwin.slot (w : Wwin) (n : Nat) : Nat := n % w.nslot
/-- Device address of slot `k` in a home. -/
def Wwin.slotAt (w : Wwin) (home k : Nat) : Nat := home + k * w.slotg * granule

/-- Layer and format code of a layer list entry. -/
def State.listEntry (s : State) (w : Wwin) (n : Nat) : Nat × Nat :=
  let e := s.le (w.list + 4 * (n % w.nlayer)) 4
  (bits e 0 20, bits e 20 4)

/-- Offset, length and CRC of a layer's image at a rung, where the package holds it (R252). -/
def Wpkg.rungImage (t : Wpkg) (layer fmt : Nat) : Option (Nat × Nat × Nat) :=
  let w := wordAt (imageBytes t.image 0x10 8) 0
  let d := dirEntryOf t.image (wordAt (imageBytes t.image 0x18 8) 0) layer
  match rungOf fmt with
  | none => none
  | some j => if layer < bits w 0 20 ∧ bit d.rmask j then some (d.offs.getD j 0, d.lens.getD j 0, d.crcs.getD j 0) else none

/-- An image relocated to slot address `a` (R253): each named word's bits [47:0] grow by `a`. -/
def relocate (bs : List Byte) (a : Nat) : List Byte :=
  let n := wordAt bs 0 % 2 ^ 32
  (List.range n).foldl (fun out i =>
    let o := ofLe ((bs.drop (8 + 4 * i)).take 4)
    let w := wordAt bs o
    out.take o ++ toLe 8 (w / 2 ^ 48 * 2 ^ 48 + (w + a) % 2 ^ 48) ++ out.drop (o + 8)) bs

/-- The slot lies in readable regions of the partition. -/
def State.slotsOk (s : State) (p : Nat) (bases : List Nat) (n k : Nat) : Bool :=
  bases.all (fun b => inDram b && (List.range n).all (fun i => s.permits p (b + i * k * granule) (k * granule) true false false))

/-- The window of a descriptor's 128 bytes (R222). -/
def parseWwin (p : Nat) (bs : List Byte) : Wwin :=
  let w (o : Nat) : Nat := wordAt bs o
  { part := p, pkg := bits (w 0) 0 32, nslot := bits (w 0) 32 4 + 1, home0 := bits (w 8) 0 48, home1 := bits (w 0x10) 0 48,
    slotg := bits (w 0x18) 0 18, rdy := bits (w 0x18) 32 12, free := bits (w 0x18) 48 12, nlayer := bits (w 0x20) 0 16,
    rsem := bits (w 0x20) 16 12, list := bits (w 0x28) 0 48, side0 := bits (w 0x30) 0 48, side1 := bits (w 0x38) 0 48,
    sideg := bits (w 0x40) 0 18, run := true, n := 0, n0 := 0, reading := none, met := false, j := 0, rung := [], rungBusy := false, stop := none,
    stall := 0, late := 0, rlate := 0 }

/-- A reserved field of a window descriptor is nonzero, or a field is outside its range. -/
def wwinBad (bs : List Byte) (v : Wwin) : Bool :=
  let w (o : Nat) : Nat := wordAt bs o
  decide (bits (w 0) 36 28 ≠ 0 ∨ bits (w 8) 48 16 ≠ 0 ∨ bits (w 0x10) 48 16 ≠ 0 ∨ bits (w 0x18) 18 14 ≠ 0 ∨ bits (w 0x18) 44 4 ≠ 0 ∨
    bits (w 0x18) 60 4 ≠ 0 ∨ bits (w 0x20) 28 36 ≠ 0 ∨ bits (w 0x28) 48 16 ≠ 0 ∨ bits (w 0x30) 48 16 ≠ 0 ∨ bits (w 0x38) 48 16 ≠ 0 ∨
    bits (w 0x40) 18 46 ≠ 0 ∨ v.nlayer = 0 ∨ v.slotg = 0) || (bs.drop 0x48).any (· ≠ 0) ||
  [v.home0, v.home1, v.side0, v.side1].any (fun a => a % granule ≠ 0) ||
  (v.home1 ≠ 0 && dieOfAddr v.home0 == dieOfAddr v.home1)

/-- The semaphores of a window are in the partition's range. -/
def State.wwinSems (s : State) (p : Nat) (v : Wwin) : Bool :=
  s.semIn p v.rsem && (List.range v.nslot).all (fun i => s.semIn p (v.rdy + i) && s.semIn p (v.free + i))

/-- The package may be named by the partition: ready, owned or granted, and for a secure partition signed by its keys
(R250, R426). -/
def State.pkgFor (s : State) (p n : Nat) : Except Nat Wpkg :=
  match oget s.wpkgs n with
  | none => .error 0x15
  | some t =>
    if !t.ready then .error 0x15
    else if t.part ≠ p ∧ !t.grants.contains p then .error 0x14
    else if s.isSecure p ∧ !(t.signed && (List.range 4).any (fun i => match oget s.pkeys (4 * p + i) with
      | some k => k.id.toNat == t.signer
      | none => false)) then .error 0x14
    else if t.damaged then .error 0x38
    else .ok t

/-- What the streamer's check of a window refuses it with (R223). -/
def State.wwinRefusal (s : State) (p : Nat) (bs : List Byte) (v : Wwin) : Option Nat :=
  if wwinBad bs v then some 0x11
  else
    match s.pkgFor p v.pkg with
    | .error st => some st
    | .ok t =>
      let es := (List.range v.nlayer).map (s.listEntry v)
      let raw := (List.range v.nlayer).map (fun i => s.le (v.list + 4 * i) 4)
      if !s.permits p v.list (4 * v.nlayer) true false false then some 0x1A
      else if raw.any (fun e => bits e 24 8 ≠ 0) then some 0x11
      else if es.any (fun e => (t.rungImage e.1 e.2).isNone) then some 0x15
      else if es.any (fun e => match t.rungImage e.1 e.2 with
        | some (_, n, _) => decide (v.slotg * granule < n)
        | none => false) then some 0x22
      else if !s.slotsOk p v.homes v.nslot v.slotg ∨ !s.slotsOk p (v.sides.filter (· ≠ 0)) 1 v.sideg then some 0x22
      else if !s.wwinSems p v then some 0x14
      else none

/-- A semaphore's value set by the firmware or the streamer. -/
def State.semSet (s : State) (die i v : Nat) : State := s.setSem die i { s.sem die i with value := BitVec.ofNat 32 v }

/-- The semaphores of a window at position `n0` after `j` requests (R223, R227). -/
def State.primeSems (s : State) (v : Wwin) (n0 j : Nat) : State :=
  v.dies.foldl (fun s d =>
    let s := (List.range v.nslot).foldl (fun s k =>
      let below := (n0 + v.nslot - 1 - k) / v.nslot
      (s.semSet d (v.rdy + k) below).semSet d (v.free + k) below) s
    s.semSet d v.rsem j) s

/-- WWIN_START. -/
def hWwinStart : Handler := fun c s =>
  let w := c.p 0
  if 16 ≤ w ∨ awHost (c.w 1) then (s, no 0x11)
  else
    match s.blockRefusal c.part (c.w 1) 128 true false with
    | some st => (s, no st)
    | none =>
      match s.wwin w with
      | some v => if v.run then (s, no (if v.part = c.part then 0x16 else 0x14)) else go c w s
      | none => go c w s
where
  /-- The check and the start. -/
  go (c : Cmd) (w : Nat) (s : State) : State × Reply :=
    let bs := s.awBytes c.part (c.w 1) 128
    let v := parseWwin c.part bs
    match s.wwinRefusal c.part bs v with
    | some st => (s, no st)
    | none => ({ s.primeSems v 0 0 with wwins := tins s.wwins w v }, ok)

/-- WWIN_STOP: after the layer being read is complete. -/
def hWwinStop : Handler := fun c s =>
  match s.wwin (c.p 0) with
  | none => (s, no 0x15)
  | some v =>
    if v.part ≠ c.part then (s, no 0x14)
    else if !v.run then (s, no 0x15)
    else if v.reading.isSome then (s.updWwin (c.p 0) (fun v => { v with stop := some (c.m, c.tag) }), .wait)
    else (s.updWwin (c.p 0) (fun v => { v with run := false }), ok)

/-- WWIN_QUERY. -/
def hWwinQuery : Handler := fun c s =>
  match s.wwin (c.p 0) with
  | none => (s, no 0x15)
  | some v => if v.part ≠ c.part then (s, no 0x14) else freeResp 0x060F 1 64 s c

/-- The streamer turns to the window's next image, if one is to be read (R223, R226, R235). -/
def State.turnWindow (s : State) (w : Nat) : State :=
  let s := s.endRead (.window w)
  match s.wwin w with
  | some v => if v.run ∧ (v.reading.isSome ∨ v.rung ≠ []) then s.beginRead (.window w) (.wpkg v.pkg) else s
  | none => s

/-- WW_POSITION_READ (R223, R226): the slot is free on every home's die, and no rung request goes ahead. -/
def wwPositionRead (w : Nat) (s : State) : State :=
  match s.wwin w with
  | none => s
  | some v =>
    let k := v.slot v.n
    if !v.run ∨ v.reading.isSome ∨ v.stop.isSome ∨ (v.rung ≠ [] ∧ !v.rungBusy) ∨ !s.regOpen v.part 1 ∨ !s.regOpen v.part 0 ∨
        !v.dies.all (fun d => decide (v.n / v.nslot ≤ (s.sem d (v.free + k)).value.toNat)) then s
    else
      let n := match oget s.wpkgs v.pkg with
        | some t => match t.rungImage (s.listEntry v v.n).1 (s.listEntry v v.n).2 with
          | some (_, n, _) => n
          | none => 0
        | none => 0
      (((s.charge v.part 1 n).chargeLines v.part [(v.list + 4 * (v.n % v.nlayer), 4)]).updWwin w (fun v =>
        { v with reading := some v.n, met := false })).turnWindow w

/-- A context or a launch waits for a semaphore to pass its value. -/
def State.waitedOn (s : State) (die i : Nat) : Bool :=
  let x := (s.sem die i).value.toNat
  s.ctxs.any (fun (_, k) => match k.wait with
    | .semWait d j n => d == die && j == i && decide (x < n)
    | _ => false) ||
  s.launches.any (fun (_, l) => !l.started && l.e.wait.any (fun (d, j, n) => d == die && j == i && decide (x < n)))

/-- An image is placed in a slot of every home, at the charge of the partition's DRAM regulator (R295). -/
def State.placeLayer (s : State) (p : Nat) (bs : List Byte) (slots : List Nat) : State :=
  (slots.foldl (fun s a => s.write a (relocate bs a)) s).chargeLines p (slots.map (fun a => (a, bs.length)))

/-- WWIN_STOP completes once the layer being read is complete. -/
def State.settleStop (s : State) (w : Nat) : State :=
  match s.wwin w with
  | some v =>
    match v.stop with
    | some (m, tag) =>
      let s := s.updWwin w (fun v => { v with run := false, stop := none })
      match s.cmd m tag with
      | some c => s.complete c 0 false 0 0
      | none => s
    | none => s
  | none => s

/-- The bytes of a layer's image at a rung, and whether its CRC holds. -/
def State.layerImage (s : State) (v : Wwin) (layer fmt : Nat) : List Byte × Bool :=
  match oget s.wpkgs v.pkg with
  | none => ([], true)
  | some t =>
    match t.rungImage layer fmt with
    | none => ([], true)
    | some (o, n, crc) => let bs := imageBytes t.image o n; (bs, crc32c bs == crc)

/-- A layer position is complete: visible in every home, RDY signalled, lateness counted (R223, R225). -/
def layerArrives (w : Nat) (v : Wwin) (n : Nat) (bs : List Byte) (s : State) : State :=
  let k := v.slot n
  let s := s.placeLayer v.part bs (v.homes.map (fun h => v.slotAt h k))
  let late := v.dies.any (fun d => s.waitedOn d (v.rdy + k))
  let s := v.dies.foldl (fun s d => s.signalOr v.part d (v.rdy + k) 1) s
  let s := s.updWwin w (fun v =>
    { v with n := n + 1, reading := none, late := if late then v.late + 1 else v.late,
             rlate := if late ∧ v.met then v.rlate + 1 else v.rlate })
  (s.settleStop w).turnWindow w

/-- The next rung request is served: the rung lies in the side slot of every home and RSEM is signalled (R226). -/
def rungArrives (w : Nat) (v : Wwin) (bs : List Byte) (s : State) : State :=
  let s := s.placeLayer v.part bs v.sides
  let s := v.dies.foldl (fun s d => s.signalOr v.part d v.rsem 1) s
  (s.updWwin w (fun v => { v with rung := v.rung.tail, rungBusy := true })).turnWindow w

/-- A window restarts at position `n0` with `j` requests behind it (R227). -/
def State.restartWindow (s : State) (w n0 j : Nat) : State :=
  match s.wwin w with
  | none => s
  | some v =>
    ((s.primeSems v n0 j).updWwin w (fun v =>
      { v with n := n0, n0 := n0, reading := none, met := false, j := j, rung := [], rungBusy := false })).endRead (.window w)

/-! ### Commands of group 0x06 -/

/-- FLASH_LAYOUT. -/
def execFlashLayout (m : Nat) (h : CmdHdr) (wsize : W64) (s : State) : Host.Outcome State Fault Refusal :=
  .next (runCmd m h 0x0600 [wsize] hFlashLayout s)
/-- FLASH_QUERY. -/
def execFlashQuery (m : Nat) (h : CmdHdr) (resp : W64) (s : State) : Host.Outcome State Fault Refusal :=
  .next (runCmd m h 0x0601 [resp] hFlashQuery s)
/-- TOBJ_CREATE. -/
def execTobjCreate (m : Nat) (h : CmdHdr) (sizeg : W64) (s : State) : Host.Outcome State Fault Refusal :=
  .next (runCmd m h 0x0602 [sizeg] hTobjCreate s)
/-- TOBJ_LOAD. -/
def execTobjLoad (m : Nat) (h : CmdHdr) (id index baseg flags : W64) (s : State) : Host.Outcome State Fault Refusal :=
  .next (runCmd m h 0x0603 [id, index, baseg, flags] hTobjLoad s)
/-- TOBJ_FLUSH. -/
def execTobjFlush (m : Nat) (h : CmdHdr) (id : W64) (s : State) : Host.Outcome State Fault Refusal :=
  .next (runCmd m h 0x0604 [id] hTobjFlush s)
/-- TOBJ_EVICT. -/
def execTobjEvict (m : Nat) (h : CmdHdr) (id : W64) (s : State) : Host.Outcome State Fault Refusal :=
  .next (runCmd m h 0x0605 [id] hTobjEvict s)
/-- TOBJ_DESTROY. -/
def execTobjDestroy (m : Nat) (h : CmdHdr) (id : W64) (s : State) : Host.Outcome State Fault Refusal :=
  .next (runCmd m h 0x0606 [id] hTobjDestroy s)
/-- TOBJ_QUERY. -/
def execTobjQuery (m : Nat) (h : CmdHdr) (id : W64) (s : State) : Host.Outcome State Fault Refusal :=
  .next (runCmd m h 0x0607 [id] hTobjQuery s)
/-- WPKG_OPEN. -/
def execWpkgOpen (m : Nat) (h : CmdHdr) (total : W64) (s : State) : Host.Outcome State Fault Refusal :=
  .next (runCmd m h 0x0608 [total] hWpkgOpen s)
/-- WPKG_WRITE. -/
def execWpkgWrite (m : Nat) (h : CmdHdr) (handle offset len src : W64) (s : State) : Host.Outcome State Fault Refusal :=
  .next (runCmd m h 0x0609 [handle, offset, len, src] hWpkgWrite s)
/-- WPKG_COMMIT. -/
def execWpkgCommit (m : Nat) (h : CmdHdr) (handle : W64) (s : State) : Host.Outcome State Fault Refusal :=
  .next (runCmd m h 0x060A [handle] hWpkgCommit s)
/-- WPKG_DELETE. -/
def execWpkgDelete (m : Nat) (h : CmdHdr) (handle : W64) (s : State) : Host.Outcome State Fault Refusal :=
  .next (runCmd m h 0x060B [handle] hWpkgDelete s)
/-- WPKG_GRANT. -/
def execWpkgGrant (m : Nat) (h : CmdHdr) (handle part enable : W64) (s : State) : Host.Outcome State Fault Refusal :=
  .next (runCmd m h 0x060C [handle, part, enable] hWpkgGrant s)
/-- WWIN_START. -/
def execWwinStart (m : Nat) (h : CmdHdr) (win desc : W64) (s : State) : Host.Outcome State Fault Refusal :=
  .next (runCmd m h 0x060D [win, desc] hWwinStart s)
/-- WWIN_STOP. -/
def execWwinStop (m : Nat) (h : CmdHdr) (win : W64) (s : State) : Host.Outcome State Fault Refusal :=
  .next (runCmd m h 0x060E [win] hWwinStop s)
/-- WWIN_QUERY. -/
def execWwinQuery (m : Nat) (h : CmdHdr) (win resp : W64) (s : State) : Host.Outcome State Fault Refusal :=
  .next (runCmd m h 0x060F [win, resp] hWwinQuery s)
/-- WW_POSITION_READ. -/
def execWwPositionRead (w : Nat) (s : State) : Host.Outcome State Fault Refusal := .next (wwPositionRead w s)

end Sys2Proof.Machine
end

