-- ==== Sys2Proof/Machine/Queues.lean ====
section
/-!
DEFINITION. Queue pairs, their rings and entries (R284 to R290, R303, R462, R467), and regulators (R295).
-/

namespace Sys2Proof.Machine

/-! ### Queue pairs (R284, R462) -/

/-- Queue pair `q`. -/
def State.qp (s : State) (q : Nat) : Option Qp := oget s.qps q
/-- The state with a queue pair changed. -/
def State.updQp (s : State) (q : Nat) (f : Qp → Qp) : State := { s with qps := oupd s.qps q f }

/-- A queue pair number lies in the partition's range. -/
def State.qpIn (s : State) (p q : Nat) : Bool := match oget s.parts p with
  | some x => decide (x.qpBase ≤ q ∧ q < x.qpBase + x.qpCount)
  | none => false

/-- Entries of the submission and of the completion ring. -/
def Qp.sqSize (q : Qp) : Nat := 2 ^ q.sqLog
/-- Entries of the completion ring. -/
def Qp.cqSize (q : Qp) : Nat := 2 ^ q.cqLog

/-- The submission head as a completion reports it: it does not pass an ADD_SEQ that no snapshot holds (R287, R305). -/
def Qp.head (q : Qp) : Nat := q.adds.headD q.fetch

/-- QP_CREATE. -/
def hQpCreate : Handler := withPb 1 64 (fun c bs s =>
  let n := c.p 0
  let w := wordAt bs 0x10
  let sq := BitVec.ofNat 64 (wordAt bs 0)
  let cq := BitVec.ofNat 64 (wordAt bs 8)
  let sl := bits w 0 4
  let cl := bits w 4 4
  let bad := decide (sl < 6 ∨ cl < 6 ∨ bits w 21 11 ≠ 0 ∨ bits w 32 16 = 0 ∨ bits w 48 16 ≠ 0) || (bs.drop 0x18).any (· ≠ 0) ||
    decide (awAddr sq % (128 * 2 ^ sl) ≠ 0 ∨ awAddr cq % (64 * 2 ^ cl) ≠ 0)
  if !s.qpIn c.part n then (s, no 0x14)
  else if bad then (s, no 0x11)
  else if (s.qp n).isSome then (s, no 0x16)
  else if !s.awOk c.part sq (128 * 2 ^ sl) true false ∨ !s.awOk c.part cq (64 * 2 ^ cl) false true then (s, no 0x1A)
  else
    let q : Qp :=
      { part := c.part, sqAddr := sq, cqAddr := cq, sqLog := sl, cqLog := cl, cls := bit w 8, irqen := bit w 9, vec := bits w 10 11,
        share := bits w 32 16, sqTail := 0, fetch := 0, taken := 0, sqHead := 0, cqTail := 0, cqPhase := true, cqHead := 0,
        entries := [], due := [], acctCore := 0, acctFox := 0, acctPrim := 0, vt := 0, stopped := false, discard := false, destroy := none,
        adds := [], held := false }
    ({ s with qps := tins s.qps n q }, ok))

/-- The queue pair a command names, or the status that refuses it (R280). -/
def State.qpFor (s : State) (p n : Nat) : Except Nat Qp :=
  if !s.qpIn p n then .error 0x14
  else match s.qp n with
    | some q => if q.destroy.isSome then .error 0x15 else .ok q
    | none => .error 0x15

/-- The block of QP_QUERY (R462). -/
def Qp.block (q : Qp) : List Byte :=
  wordsLe ([q.acctCore / 12, q.acctFox / 12, q.acctPrim / 12, q.sqTail, q.head, q.cqTail + 65536 * b2n q.cqPhase, q.cqHead, 0].map (BitVec.ofNat 64))

/-- QP_QUERY. -/
def hQpQuery : Handler := withResp 1 64 (fun c s => match s.qpFor c.part (c.p 0) with
  | .ok q => (q.block, ok)
  | .error st => ([], no st))

/-! ### Completions (R287) -/

/-- The 64 bytes of a completion. -/
def QpDue.bytes (d : QpDue) (phase : Bool) (head : Nat) : List Byte :=
  wordsLe ([d.status % 65536 + 2 ^ 16 * b2n phase + 2 ^ 17 * d.kind + 2 ^ 19 * b2n d.rungUp + 2 ^ 32 * d.tag,
    head % 65536 + 2 ^ 16 * (d.ty % 256) + 2 ^ 32 * (d.id % 2 ^ 32), d.faults % 2 ^ 32 + 2 ^ 32 * (d.widen % 2 ^ 32), d.emptyRow,
    d.engine / 12, d.count, 0, 0].map (BitVec.ofNat 64))

/-- A plain completion of an entry. -/
def QpEntry.dueWith (e : QpEntry) (status : Nat) : QpDue :=
  { status := status, kind := 0, rungUp := false, irq := e.irq, tag := e.tag, ty := e.ty, id := 0, faults := 0, widen := 0,
    emptyRow := 0, engine := e.engine, count := 0 }

/-- QP_DESTROY completes, and the queue pair goes, once no entry is in execution (R467). -/
def State.settleQp (s : State) (q : Nat) : State :=
  match s.qp q with
  | some x =>
    match x.destroy, x.entries with
    | some (m, tag), [] =>
      let s := { s with qps := tdrop s.qps q }
      match s.cmd m tag with
      | some c => s.complete c 0 false 0 0
      | none => s
    | _, _ => s
  | none => s

/-- A completion becomes due; a queue pair that is being destroyed posts none (R467). -/
def State.dueQp (s : State) (q : Nat) (d : QpDue) : State :=
  s.updQp q (fun x => if x.destroy.isSome ∨ x.discard then x else { x with due := x.due ++ [d] })

/-- An entry completes. -/
def State.endEntry (s : State) (q at_ : Nat) (d : QpDue) : State :=
  ((s.updQp q (fun x => { x with entries := x.entries.filter (fun e => e.at_ ≠ at_) })).dueQp q d).settleQp q

/-- The completion ring has a free slot. -/
def Qp.cqRoom (q : Qp) : Bool := decide ((q.cqTail + 1) % q.cqSize ≠ q.cqHead)

/-- QP_COMPLETION_POST: the oldest due completion is written and raises VEC where its entry asks for it. -/
def qpPost (q : Nat) (s : State) : State :=
  match s.qp q with
  | none => s
  | some x =>
    match x.due with
    | [] => s
    | d :: rest =>
      if !x.cqRoom ∨ x.destroy.isSome ∨ (awHost x.cqAddr ∧ (!s.hostOpen x.part ∨ x.stopped)) then s
      else
        let s := (s.awWrite x.part (ringAt x.cqAddr (64 * x.cqTail)) (d.bytes x.cqPhase x.head)).updQp q (fun x =>
          let t := (x.cqTail + 1) % x.cqSize
          { x with due := rest, sqHead := x.head, cqTail := t, cqPhase := if t = 0 then !x.cqPhase else x.cqPhase })
        let s := if awHost x.cqAddr then s.charge x.part 3 64 else s
        if d.irq ∧ x.irqen then s.interrupt x.part x.vec else s

/-! ### Doorbells (R285) -/

/-- QE_DOORBELL_WRITE. -/
def doorbell (p : Nat) (v : W64) (s : State) : State :=
  let w := v.toNat
  let n := bits w 0 18
  let idx := bits w 20 16
  if !s.qpIn p n then s.updPart p (fun q => { q with badDoorbell := q.badDoorbell + 1 })
  else s.updQp n (fun q => if bit w 18 then { q with cqHead := idx % q.cqSize } else { q with sqTail := idx % q.sqSize })

/-! ### Taking entries (R286) -/

/-- An entry as its 128 bytes give it. -/
def parseQpEntry (at_ : Nat) (bs : List Byte) : QpEntry × Bool :=
  let w := wordAt bs 0
  ({ at_ := at_, ty := bits w 0 8, var := bit w 8, order := bit w 9, irq := bit w 10, tag := w >>> 32,
     words := (List.range 16).map (fun i => BitVec.ofNat 64 (wordAt bs (8 * i))), started := false, key := 0, failed := false, engine := 0 },
   decide (bits w 11 21 ≠ 0))

/-- Word `i` of an entry. -/
def QpEntry.w (e : QpEntry) (i : Nat) : Nat := (e.words.getD i 0).toNat

/-- Ring entry `i` of a queue, with whether reserved bits of its common word are set. -/
def State.ringEntry (s : State) (x : Qp) (i : Nat) : QpEntry × Bool :=
  parseQpEntry x.taken (s.awBytes x.part (ringAt x.sqAddr (128 * i)) 128)

/-- The entry at the head of a queue that the queue engine may take now: every earlier entry has started, none of them
is a FENCE, and ORDER waits for every earlier completion (R286). -/
def State.nextEntry (s : State) (q : Nat) : Option (Qp × QpEntry × Bool) :=
  match s.qp q with
  | none => none
  | some x =>
    if !s.ready ∨ s.mode = .sleep ∨ x.destroy.isSome ∨ x.stopped ∨ x.fetch = x.sqTail ∨ (awHost x.sqAddr ∧ !s.hostOpen x.part) ∨
        x.entries.any (fun e => !e.started || e.ty == 5) then none
    else
      let (e, bad) := s.ringEntry x x.fetch
      if e.order ∧ x.entries ≠ [] then none else some (x, e, bad)

/-- An entry is taken from the ring. -/
def State.take (s : State) (q : Nat) (e : QpEntry) : State :=
  s.updQp q (fun x => { x with fetch := (x.fetch + 1) % x.sqSize, taken := x.taken + 1, entries := x.entries ++ [e] })

/-- Words of an entry that must be zero: from word `n` on, without the common word. -/
def QpEntry.tailBad (e : QpEntry) (n : Nat) : Bool := (e.words.drop n).any (· ≠ 0)

/-- VAR = 1 in a partition set to fault on VAR (R283). -/
def State.varDenied (s : State) (p : Nat) (e : QpEntry) : Bool := e.var && (match oget s.parts p with
  | some q => q.varfault
  | none => false)

/-- An entry taken and refused, or else taken and handed on. -/
def State.takeOr (s : State) (q : Nat) (e : QpEntry) (st : Option Nat) (go : State → State) : State :=
  match st with
  | some st => (s.take q e).endEntry q e.at_ (e.dueWith st)
  | none => go (s.take q e)

/-- UNLISTED_ENTRY_TYPE. -/
def unlistedEntry (q : Nat) (s : State) : State :=
  match s.nextEntry q with
  | some (_, e, _) => if 1 ≤ e.ty ∧ e.ty ≤ 5 then s else s.takeOr q e (some 0x11) id
  | none => s

/-! ### COPY (R290) -/

/-- LEN of a COPY. -/
def QpEntry.copyLen (e : QpEntry) : Nat := bits (e.w 3) 0 40

/-- The sides of a COPY that lie in the device. -/
def QpEntry.copySpans (e : QpEntry) : List (Nat × Nat) :=
  ([e.words.getD 1 0, e.words.getD 2 0].filter (fun w => !awHost w)).map (fun w => (awAddr w, e.copyLen))

/-- COPY: the copy engine starts. -/
def copyStart (q : Nat) (s : State) : State :=
  match s.nextEntry q with
  | some (x, e, bad) =>
    if e.ty ≠ 2 then s
    else
      let st := if bad ∨ bits (e.w 3) 40 24 ≠ 0 ∨ e.tailBad 4 then some 0x11
        else if s.varDenied x.part e then some 0x14
        else if e.copyLen ≠ 0 ∧ (!s.awOk x.part (e.words.getD 1 0) e.copyLen true false ∨ !s.awOk x.part (e.words.getD 2 0) e.copyLen false true) then
          some 0x1A
        else none
      s.takeOr q { e with started := true } st (fun s => { s with copies := s.copies ++ [{ qp := q, at_ := e.at_ }] })
  | none => s

/-- COPY_DONE: copy `k` of queue `q` has moved its bytes in ascending order; where source and destination overlap the
destination bytes are undefined (log 10). A read of host memory that failed ends it with ST_ADDR (R414). The DRAM and PCIe regulators
delay it (R295). -/
def copyDone (q k : Nat) (s : State) : State :=
  match (s.copies.filter (fun c => c.qp = q))[k]?, s.qp q with
  | some c, some x =>
    match x.entries.find? (fun e => e.at_ = c.at_) with
    | none => s
    | some e =>
      let src := e.words.getD 1 0
      let dst := e.words.getD 2 0
      let n := e.copyLen
      let host := awHost src || awHost dst
      if ((host ∧ (!s.hostOpen x.part ∨ !s.regOpen x.part 3)) ∨ (e.copySpans ≠ [] ∧ !s.regOpen x.part 0)) ∧ !e.failed then s
      else
        let s := { s with copies := s.copies.filter (· ≠ c) }
        if e.failed then s.endEntry q e.at_ (e.dueWith 0x1A)
        else
          let lap := awHost src == awHost dst && decide (awAddr src < awAddr dst + n ∧ awAddr dst < awAddr src + n)
          let bs := if lap then (List.range n).map (Config.freeByte s.fresh) else if awHost src then s.hostBytes x.part (awAddr src) n else s.seenBytes (awAddr src) n
          let bad := !awHost src && s.poisoned (awAddr src) n && !lap
          let s := { s.awWrite x.part dst bs with fresh := if lap then s.fresh + 1 else s.fresh }
          let s := if bad ∧ !awHost dst then s.taint (awAddr dst) n else s
          let s := if host then s.charge x.part 3 n else s
          let s := e.copySpans.foldl (fun s r => s.chargeLines x.part [r]) s
          s.endEntry q e.at_ (e.dueWith 0)
  | _, _ => s

/-! ### FENCE (R290) -/

/-- FENCE_ENTRY: the entry is taken and holds its queue. -/
def fenceTake (q : Nat) (s : State) : State :=
  match s.nextEntry q with
  | some (x, e, bad) =>
    if e.ty ≠ 5 then s
    else
      let st := if bad ∨ bits (e.w 1) 14 18 ≠ 0 ∨ bits (e.w 2) 14 18 ≠ 0 ∨ e.tailBad 3 then some 0x11
        else if s.varDenied x.part e then some 0x14 else none
      s.takeOr q { e with started := true } st id
  | none => s

/-- The wait of a FENCE is met. -/
def State.fenceOpen (s : State) (e : QpEntry) : Bool :=
  !bit (e.w 1) 13 || decide (e.w 1 >>> 32 ≤ (s.sem (bits (e.w 1) 12 1) (bits (e.w 1) 0 12)).value.toNat)

/-- FENCE_ENTRY_COMPLETE: every earlier entry has completed and the wait is met; the fence signals and completes. Out of
the partition's range, it completes with ST_DENIED without waiting. -/
def fenceComplete (q : Nat) (s : State) : State :=
  match s.qp q with
  | none => s
  | some x =>
    match x.entries with
    | [e] =>
      if e.ty ≠ 5 then s
      else
        let wrong (w : Nat) : Bool := bit w 13 && !s.semIn x.part (bits w 0 12)
        if wrong (e.w 1) || wrong (e.w 2) then s.endEntry q e.at_ (e.dueWith 0x14)
        else if !s.fenceOpen e then s
        else
          let w := e.w 2
          let s := if bit w 13 then s.signalOr x.part (bits w 12 1) (bits w 0 12) (w >>> 32) else s
          s.endEntry q e.at_ (e.dueWith 0)
    | _ => s

/-- ADD_SEQ: an entry at the head holds its queue until the step builder takes it at a tick (R303). -/
def addSeqHold (q : Nat) (s : State) : State :=
  match s.nextEntry q with
  | some (_, e, _) => if e.ty = 3 then s.updQp q (fun x => { x with held := true }) else s
  | none => s

/-! ### Regulators (R295) -/

/-- REGULATOR_REFILL: one refill of every regulator. -/
def refill (s : State) : State :=
  { s with parts := s.parts.map (fun (k, q) => (k, { q with regs := q.regs.map (fun r =>
      if r.rate = 0xFFFFFFFF then r else { r with balance := min (r.balance + r.rate) r.burst }) })) }

/-! ### Commands -/

/-- QP_CREATE. -/
def execQpCreate (m : Nat) (h : CmdHdr) (qp pb : W64) (s : State) : Host.Outcome State Fault Refusal :=
  .next (runCmd m h 0x0304 [qp, pb] hQpCreate s)
/-- QP_QUERY. -/
def execQpQuery (m : Nat) (h : CmdHdr) (qp resp : W64) (s : State) : Host.Outcome State Fault Refusal :=
  .next (runCmd m h 0x0306 [qp, resp] hQpQuery s)
/-- QE_DOORBELL_WRITE. -/
def execQeDoorbellWrite (p : Nat) (v : W64) (s : State) : Host.Outcome State Fault Refusal := .next (doorbell p v s)
/-- COPY. -/
def execCopy (q : Nat) (s : State) : Host.Outcome State Fault Refusal := .next (copyStart q s)
/-- COPY_DONE. -/
def execCopyDone (q k : Nat) (s : State) : Host.Outcome State Fault Refusal := .next (copyDone q k s)
/-- ADD_SEQ. -/
def execAddSeq (q : Nat) (s : State) : Host.Outcome State Fault Refusal := .next (addSeqHold q s)
/-- FENCE_ENTRY. -/
def execFenceEntry (q : Nat) (s : State) : Host.Outcome State Fault Refusal := .next (fenceTake q s)
/-- FENCE_ENTRY_COMPLETE. -/
def execFenceEntryComplete (q : Nat) (s : State) : Host.Outcome State Fault Refusal := .next (fenceComplete q s)
/-- QP_COMPLETION_POST. -/
def execQpCompletionPost (q : Nat) (s : State) : Host.Outcome State Fault Refusal := .next (qpPost q s)
/-- UNLISTED_ENTRY_TYPE. -/
def execUnlistedEntryType (q : Nat) (s : State) : Host.Outcome State Fault Refusal := .next (unlistedEntry q s)

end Sys2Proof.Machine
end

