-- ==== Sys2Proof/Machine/Launch.lean ====
section
/-!
DEFINITION. Launches (R288 to R293), pre-emption (R296 to R298), revocation (R300) and the end of a queue pair (R467).
-/

namespace Sys2Proof.Machine

/-! ### The entry and its checks (R288, R289) -/

/-- The fields of a LAUNCH entry from its words 1 to 11; `tail`: reserved bits elsewhere are set. -/
def parseLaunch (w : Nat → Nat) (tail : Bool) : LaunchE :=
  { image := bits (w 1) 0 16, kernel := bits (w 1) 16 12, dist := bit (w 1) 28, ctxs := bits (w 1) 29 3 + 1,
    accTiles := bits (w 1) 32 5, claimIdx := bits (w 1) 40 10, claimDie := bits (w 1) 50 1, claimChunk := bits (w 1) 51 9,
    mask := w 2 + 2 ^ 64 * w 3, e0 := bits (w 4) 0 32, e1 := bits (w 4) 32 32, e2 := bits (w 5) 0 32, e3 := bits (w 5) 32 32,
    arg := bits (w 6) 0 48, winu := bits (w 7) 0 8, wbase := bits (w 7) 8 8, liveu := bits (w 7) 16 8, roomu := bits (w 7) 24 8,
    roomt := bits (w 7) 32 4, roomc := bits (w 7) 36 2, faultAddr := bits (w 8) 0 48,
    wait := if bit (w 9) 13 then [(bits (w 9) 12 1, bits (w 9) 0 12, w 9 >>> 32)] else [],
    sig := if bit (w 10) 13 then some (bits (w 10) 12 1, bits (w 10) 0 12) else none, dreg := bits (w 11) 0 48,
    reserved := tail || decide (bits (w 1) 37 3 ≠ 0 ∨ bits (w 1) 60 4 ≠ 0 ∨ bits (w 6) 48 16 ≠ 0 ∨ bits (w 7) 38 26 ≠ 0 ∨
      bits (w 8) 48 16 ≠ 0 ∨ bits (w 9) 14 18 ≠ 0 ∨ bits (w 10) 14 50 ≠ 0 ∨ bits (w 11) 48 16 ≠ 0) }

/-- A kernel format configuration is valid for `acc` tiles (R89, R97). -/
def kfcOk (kfc : List Byte) (acc : Nat) : Bool :=
  let w := wordAt kfc 0x30
  decide (wordAt kfc 0x38 = 0 ∧ bits w 10 6 = 0 ∧ bits w 17 15 = 0) &&
  (List.range (min acc 16)).all (fun t => decide (-80 ≤ signed 8 (kfc.getD t 0).toNat ∧ signed 8 (kfc.getD t 0).toNat ≤ 16))

/-- A kernel's configuration is valid (R89, R129, R134). -/
def Kernel.ok (k : Kernel) (acc : Nat) : Bool :=
  if k.kind = 1 then acfgOk k.acfg else kfcOk k.kfc acc && (List.range 8).all (fun ch => chainValid k.chains ch)

/-- The engines a mask names for a kind of kernel, ascending (R68, R132, R189). -/
def enginesOf (kind mask : Nat) : List Nat := if kind = 0 then maskList 128 mask else if kind = 1 then maskList 32 mask else maskList 4 mask

/-- The kind of engine of a kind of kernel. -/
def engineKind (kind : Nat) : EngineKind := if kind = 0 then .core else if kind = 1 then .fox else .prim

/-- The 64 words of a descriptor block; all zero without one (R288). -/
def State.dregWords (s : State) (a : Nat) : List W32 :=
  if a = 0 then [] else (List.range 64).map (fun i => BitVec.ofNat 32 (s.le (a + 4 * i) 4))

/-- A word of a descriptor block is no window offset (R288). -/
def dregBad (winu : Nat) (ws : List W32) : Bool := ws.any (fun w => decide (w.toNat % 64 ≠ 0 ∨ winu * 65536 ≤ w.toNat))

/-- The third row of R289. -/
def LaunchE.bad (e : LaunchE) (k : Kernel) : Bool :=
  decide (128 < e.wbase + e.ctxs * e.winu + e.roomu ∨ 16 < e.ctxs * e.accTiles + e.roomt ∨ 4 < e.ctxs + e.roomc ∨ e.winu < e.liveu ∨
    e.winu * 65536 < k.spadMin ∨ (k.kind = 0 ∧ e.winu = 0)) ||
  (e.dist && decide (e.claimChunk = 0 ∨ 256 < e.claimChunk ∨ k.kind ≠ 0)) || (enginesOf k.kind e.mask).isEmpty ||
  decide (e.e0 = 0 ∨ e.e1 = 0 ∨ e.e2 = 0 ∨ e.e3 = 0 ∨ 2 ^ 32 < e.total ∨ (k.kind ≠ 0 ∧ (e.e1 ≠ 1 ∨ e.e2 ≠ 1 ∨ e.e3 ≠ 1))) ||
  decide (e.dreg % 64 ≠ 0 ∨ (e.dreg ≠ 0 ∧ k.kind ≠ 0)) || e.reserved

/-- The checks of R289 in the order of its rows: a status, or the image and the kernel. -/
def State.checkLaunch (s : State) (p : Nat) (var : Bool) (e : LaunchE) : Except Nat (Image × Kernel) :=
  match oget s.images e.image with
  | none => .error 0x15
  | some img =>
    match img.kernels[e.kernel]? with
    | none => .error 0x15
    | some k =>
      let es := enginesOf k.kind e.mask
      let semBad (x : Option (Nat × Nat)) : Bool := match x with
        | some (_, i) => !s.semIn p i
        | none => false
      let varf : Bool := match oget s.parts p with
        | some q => q.varfault
        | none => false
      let unread := e.dreg ≠ 0 && !s.permits p e.dreg 256 true false false
      let late : Option Nat :=
        if unread then some 0x1A
        else if (e.dist || k.usesVar) && !var then some 0x11
        else if img.part ≠ p ∨ es.any (fun n => !s.engineOf p (engineKind k.kind) n) ∨ e.wait.any (fun w => semBad (some (w.1, w.2.1))) ∨
            semBad e.sig ∨ (e.dist && !s.claimIn p e.claimIdx) ∨ (var && varf) then some 0x14
        else none
      if !k.ok e.accTiles then .error 0x28
      else if e.bad k ∨ (late.isSome ∧ !unread ∧ dregBad e.winu (s.dregWords e.dreg)) then .error 0x11
      else
        match late with
        | some st => .error st
        | none => .ok (img, k)

/-! ### Acceptance (R291, R292) -/

/-- The engines of a launch. -/
def Launch.engineList (l : Launch) : List Nat := enginesOf l.k.kind l.e.mask

/-- The launch still has work for engine `n` that it has not been given (R68, R291). -/
def Launch.wants (l : Launch) (n : Nat) : Bool :=
  l.engineList.contains n && !l.engines.contains n && !l.served.contains n && !l.killed &&
  (if l.e.dist then l.exhausted.isEmpty else decide (l.engineList.idxOf n < l.e.total))

/-- A best-effort launch that waits for an engine (R292). -/
def Launch.waiting (l : Launch) : Bool := !l.lc && l.engineList.any l.wants

/-- A partition, or a queue pair of it, is backlogged (R292). -/
def State.backlogged (s : State) (p : Nat) (q : Option Nat) : Bool :=
  s.launches.any (fun (_, l) => l.part == p && (match q with
    | some q => l.qp == q
    | none => true) && l.waiting)

/-- The lowest of a list of numbers. -/
def lowest : List Nat → Option Nat
  | [] => none
  | n :: t => match lowest t with
    | none => some n
    | some m => some (min n m)

/-- The virtual times rise when partition `p` or its queue `q` becomes backlogged (R292). -/
def State.enterBacklog (s : State) (p q : Nat) : State :=
  let vtP (x : Nat) : Nat := match oget s.parts x with
    | some v => v.vt
    | none => 0
  let vtQ (x : Nat) : Nat := match s.qp x with
    | some v => v.vt
    | none => 0
  let s1 := if s.backlogged p none then s
    else match lowest ((s.parts.map (·.1)).filter (fun x => s.backlogged x none) |>.map vtP) with
      | some m => s.updPart p (fun v => { v with vt := max v.vt m })
      | none => s
  if s.backlogged p (some q) then s1
  else match lowest (((s.qps.filter (fun (_, v) => v.part = p)).map (·.1)).filter (fun x => s.backlogged p (some x)) |>.map vtQ) with
    | some m => s1.updQp q (fun v => { v with vt := max v.vt m })
    | none => s1

/-- RATE of a launch as the audit registers give it when it is accepted (R354, R355, R357). -/
def State.auditRate (s : State) (k : Kernel) (e : LaunchE) : Nat :=
  let c := s.health.auditCfg
  if (enginesOf k.kind e.mask).length < 2 ∨ (k.kind = 1 ∧ !c.getLsbD 4) ∨ (k.kind = 2 ∧ !c.getLsbD 5) then 0 else c.toNat % 16

/-- A launch is accepted: it takes the next key. -/
def State.acceptLaunch (s : State) (p q at_ tag : Nat) (var lc : Bool) (e : LaunchE) (img : Image) (k : Kernel) (step : Option StepPos)
    (order : Nat) : State :=
  let l : Launch :=
    { part := p, qp := q, tag := tag, at_ := at_, var := var, lc := lc, e := e, k := k, code := img.code, dregs := [],
      order := order, since := s.time, started := false, engines := [], begun := 0, ended := 0, exhausted := [], faulted := [],
      record := none, widenBy := [], emptyBy := [], engine := 0, step := step, killed := false, served := [], posns := [], skips := [],
      aRate := s.auditRate k e, aSeed := s.health.auditSeed, audits := [], again := [], shares := [], pins := [] }
  let s := if lc then s else s.enterBacklog p q
  { s with launches := tins s.launches s.nextLaunch l, nextLaunch := s.nextLaunch + 1 }

/-- LAUNCH: the entry is taken and checked before any work runs. -/
def launchTake (q : Nat) (s : State) : State :=
  match s.nextEntry q with
  | some (x, e, bad) =>
    if e.ty ≠ 1 then s
    else
      let le := parseLaunch e.w (bad || e.tailBad 12)
      match s.checkLaunch x.part e.var le with
      | .error st => (s.take q e).endEntry q e.at_ { e.dueWith st with id := e.tag }
      | .ok (img, k) =>
        (s.take q { e with key := s.nextLaunch }).acceptLaunch x.part q e.at_ e.tag e.var x.cls le img k none s.nextLaunch
  | none => s

/-! ### Engines (R282, R291) -/

/-- The launch wait is met (R288). -/
def State.launchOpen (s : State) (l : Launch) : Bool :=
  l.e.wait.all (fun (d, i, n) => decide (n ≤ (s.sem d i).value.toNat))

/-- New launches of the partition are held: by the module state (R437), or for a capture or a restore (R372, R377). -/
def State.holdsLaunches (s : State) (p : Nat) : Bool :=
  !s.workOpen || s.health.failed ||
  ((oget s.runs p).isNone && s.bounds.any (fun (q, b) => q == p && match b with
    | .take _ _ => true
    | .restore _ _ _ => true
    | _ => false))

/-- An earlier launch of the same step may yet be re-run at a wider rung: nothing later of the step starts (R102). -/
def State.rungHolds (s : State) (l : Launch) : Bool :=
  l.step.isSome && s.launches.any (fun (_, o) => o.part == l.part && o.step.isSome && decide (o.order < l.order) && bit (wordAt o.k.kfc 0x30) 16)

/-- The unit that DIAG_SELFTEST names, with the classes of R370 (log 10). -/
def diagUnit (w : Nat) : Option (EngineKind × Nat) :=
  let n := bits w 8 8
  if bits w 0 4 = 0 then some (.core, n) else if bits w 0 4 = 1 then some (.fox, n) else if bits w 0 4 = 2 then some (.prim, n) else none

/-- A DIAG_SELFTEST has the engine from its start to its completion (R274, R279). -/
def State.underTest (s : State) (k : EngineKind) (n : Nat) : Bool :=
  s.journal.any (fun c => c.code == 0x0C01 && c.started && diagUnit (c.p 0) == some (k, n))

/-- Launch `key` could use engine `n` of kind `k` now. -/
def State.ready4 (s : State) (k : EngineKind) (n : Nat) (l : Launch) : Bool :=
  engineKind l.k.kind == k && l.wants n && s.launchOpen l && !s.holdsLaunches l.part && !s.rungHolds l && s.engineOf l.part k n && !s.underTest k n

/-- One launch goes before another (R291, R292). -/
def State.before (s : State) (a b : Nat × Launch) : Bool :=
  let vp (p : Nat) : Nat := match oget s.parts p with
    | some v => v.vt
    | none => 0
  let vq (q : Nat) : Nat := match s.qp q with
    | some v => v.vt
    | none => 0
  let x := a.2
  let y := b.2
  if x.lc ≠ y.lc then x.lc
  else if x.lc then decide (x.order < y.order)
  else if vp x.part ≠ vp y.part then decide (vp x.part < vp y.part)
  else if x.part ≠ y.part then decide (x.part < y.part)
  else if vq x.qp ≠ vq y.qp then decide (vq x.qp < vq y.qp)
  else if x.qp ≠ y.qp then decide (x.qp < y.qp)
  else decide (x.order < y.order)

/-- The launch that an engine is given to, among those that could use it. -/
def State.choose (s : State) (k : EngineKind) (n : Nat) (lcOnly : Bool) : Option (Nat × Launch) :=
  (s.launches.filter (fun (_, l) => s.ready4 k n l && (!lcOnly || l.lc))).foldl (fun best a => match best with
    | none => some a
    | some b => if s.before a b then some a else some b) none

/-- A context is given to launch `key` as its context `i` of core `c`, at the position it had reached there (R38, R282, R288); its first
tile handle is the lowest (R119). -/
def Ctx.give (key : Nat) (l : Launch) (c i : Nat) : Ctx :=
  { Ctx.reset with
    accTiles := l.e.accTiles, lastHandle := l.e.accTiles - 1, launch := some key, k := (oget l.posns (4 * c + i)).getD i, spadBase := (l.e.wbase + i * l.e.winu) * 65536, spadSize := l.e.winu * 65536,
    kfc := l.k.kfc, chain := l.k.chains, kmode := l.k.kmode }

/-- A core is given to a launch, on contexts from `base` on; a core that moved to the partition passes through Off first (R431). -/
def State.giveCoreTo (s : State) (c key : Nat) (l : Launch) (base : Nat) : State :=
  let s := if (s.core c).viaOff && s.coreIdle c then s.corePowerOff c else s
  let s := s.giveCore l.part c
  let s := (List.range l.e.ctxs).foldl (fun s i => s.setCtx c (base + i) (Ctx.give key l c i)) s
  s.updLaunch key (fun l => { l with engines := l.engines ++ [c] })

/-- A unit or engine is given to a launch, at the position it had reached there. -/
def State.giveUnitTo (s : State) (k : EngineKind) (n key : Nat) (l : Launch) : State :=
  let i := (oget l.posns n).getD 0
  let s := match k with
    | .fox => s.updFox n (fun f => { f with launch := some key, k := i, part := some l.part })
    | _ => s.updPrim n (fun f => { f with launch := some key, k := i, part := some l.part })
  s.updLaunch key (fun l => { l with engines := l.engines ++ [n] })

/-- A context has finished its share of launch `key` and nothing it issued is outstanding. -/
def Core.ctxIdle (k : Core) (x : Nat) : Bool :=
  !k.lmq.any (fun m => m.ctx == x) && !k.smq.any (fun m => m.ctx == x) && !k.mq.any (fun o => match o with
    | .mmul m _ _ _ => m.ctx == x
    | .mdrain d => d.ctx == x
    | .mfree y _ _ => y == x
    | .clear y _ _ => y == x
    | .lrun y _ _ _ _ _ => y == x) && !k.lmm.any (fun u => u.m.ctx == x) &&
  !k.drains.any (fun d => d.ctx == x) && !(k.drain.map (fun d => d.d.ctx == x)).getD false && !k.writing.any (fun d => d.d.ctx == x) &&
  !(k.lrun.map (fun l => l.ctx == x)).getD false && !k.tail.any (fun t => t.2.1 == x)

/-- Contexts of a core that a launch holds. -/
def State.ctxsOf (s : State) (c key : Nat) : List Nat := (List.range 4).filter (fun x => (s.ctx c x).launch = some key)

/-- No context of launch `key` on core `c` runs a tile-thread or has anything outstanding. -/
def State.coreQuiet (s : State) (c key : Nat) (l : Launch) : Bool :=
  (s.ctxsOf c key).all (fun x => (s.ctx c x).tt.isNone && !l.again.contains (c, x) && (s.core c).ctxIdle x)

/-- Launch `key` has finished its work on core `c` (R292). -/
def State.coreServed (s : State) (c key : Nat) (l : Launch) : Bool :=
  s.coreQuiet c key l && (l.killed || (s.ctxsOf c key).all (fun x => l.exhausted.contains (4 * c + x)))

/-- Virtual time and accounts take the cycles of a save or a restore of `n` bytes (R293, R296). -/
def State.chargeSave (s : State) (key n : Nat) : State := s.chargeEngine .core key (12 * ceilDiv n 640)

/-- A launch that leaves the core it pre-empted is charged the cycles of the restore (R293). -/
def State.chargeRestore (s : State) (c key : Nat) : State :=
  match (s.core c).saved with
  | some v => if s.ctxsOf c key = [] then s else s.chargeSave key v.size
  | none => s

/-- A core leaves a launch; what a pre-emption saved of the launch is no longer needed. -/
def State.quitCore (s : State) (c key : Nat) : State :=
  let s := s.chargeRestore c key
  let s := (s.ctxsOf c key).foldl (fun s x => s.updCtx c x (fun k => { k with launch := none })) s
  (s.updCore c (fun k => { k with saved := k.saved.filter (fun v => !v.ctxs.any (fun (_, t) => t.launch == some key)) })).updLaunch key
    (fun l => { l with engines := l.engines.filter (· ≠ c) })

/-- A core has done its share of a launch and leaves it. -/
def State.leaveCore (s : State) (c key : Nat) : State := (s.quitCore c key).updLaunch key (fun l => { l with served := c :: l.served })

/-- A context's claim goes to its counter's reclaim list where part of the range has not begun (log 47). -/
def State.handBack (s : State) (l : Launch) (key c x : Nat) : State :=
  let v := s.claim l.e.claimDie l.e.claimIdx
  let mine (r : ClaimRec) : Bool := r.core == c && r.ctx == x && r.launch == key
  if l.e.dist ∧ (s.ctx c x).chunkNext < (s.ctx c x).chunkEnd then
    s.setClaim l.e.claimDie l.e.claimIdx { v with
      recs := v.recs.filter (fun r => !mine r), reclaim := v.reclaim ++ (v.recs.filter mine).map (fun r => (r.base, r.n)) }
  else s

/-- A core that its partition has lost leaves a launch with its share unfinished: each context keeps its position (R282, log 47), and a
best-effort launch waits again (R292). -/
def State.loseCore (s : State) (c key : Nat) (l : Launch) : State :=
  let xs := s.ctxsOf c key
  let at_ := (List.range xs.length).map (fun i => (4 * c + i, (s.ctx c (xs.getD i 0)).k))
  let s := if l.lc then s else s.enterBacklog l.part l.qp
  let s := (xs.foldl (fun s x => s.handBack l key c x) s).quitCore c key
  s.updLaunch key (fun l => { l with
    posns := at_.foldl (fun t (i, k) => tins t i k) l.posns, exhausted := l.exhausted.filter (fun i => i / 4 ≠ c) })

/-- A unit leaves a launch: for good, or with its position kept, and then a best-effort launch waits again (R292). -/
def State.leaveUnit (s : State) (k : EngineKind) (n key : Nat) (done : Bool) : State :=
  let i := match k with
    | .fox => (s.fox n).k
    | _ => (s.prim n).k
  let s := match s.launch key with
    | some l => if done ∨ l.lc then s else s.enterBacklog l.part l.qp
    | none => s
  let s := match k with
    | .fox => s.updFox n (fun f => { f with launch := none })
    | _ => s.updPrim n (fun f => { f with launch := none })
  s.updLaunch key (fun l => { l with
    engines := l.engines.filter (· ≠ n), served := if done then n :: l.served else l.served, posns := tins l.posns n i })

/-- The launch a unit works for, its position, and whether it is between items or jobs. -/
def State.unitAt (s : State) (k : EngineKind) (n : Nat) : Option Nat × Nat × Bool :=
  match k with
  | .fox => ((s.fox n).launch, (s.fox n).k, (s.fox n).item.isNone)
  | _ => ((s.prim n).launch, (s.prim n).k, (s.prim n).job.isNone)

/-- A core leaves the launches whose work on it has ended, and those of a partition that has it no longer once the tile-threads it runs
have ended (R282). -/
def State.releaseCore (s : State) (c : Nat) : State :=
  ((List.range 4).filterMap (fun x => (s.ctx c x).launch)).foldl (fun s key => match s.launch key with
    | some l =>
      if l.started ∧ s.coreServed c key l then s.leaveCore c key
      else if s.coreQuiet c key l ∧ !s.engineOf l.part .core c then s.loseCore c key l else s
    | none => s) s

/-- A core runs no launch and holds none. -/
def State.coreFree (s : State) (c : Nat) : Bool :=
  (List.range 4).all (fun x => (s.ctx c x).launch.isNone) && (s.core c).saved.isNone && (s.core c).frozen.isEmpty && (s.core c).stop.isNone

/-- ENGINE_DISPATCH (R291): the engine leaves work that has ended; a free engine is given to the first LC launch or to the
BE launch chosen by virtual time; a unit that its partition has lost, or a shared one that an LC launch needs, is taken between items or
jobs (R146, R194, R282). -/
def engineDispatch (k : EngineKind) (n : Nat) (s : State) : State :=
  match k with
  | .core =>
    let s := s.releaseCore n
    if !s.coreFree n then s
    else match s.choose .core n false with
      | some (key, l) => s.giveCoreTo n key l 0
      | none => s
  | _ =>
    let (cur, i, idle) := s.unitAt k n
    match cur.bind (fun key => (s.launch key).map (fun l => (key, l))) with
    | none =>
      let s := match k with
        | .fox => s.updFox n (fun f => { f with launch := none })
        | _ => s.updPrim n (fun f => { f with launch := none })
      match s.choose k n false with
      | some (key, l) => s.giveUnitTo k n key l
      | none => s
    | some (key, l) =>
      if !idle ∨ l.again.contains (n, 0) then s
      else
        let over_ := l.started && (l.killed || decide (l.e.e0 ≤ i * l.engineList.length + l.engineList.idxOf n))
        if over_ then
          let s := s.leaveUnit k n key true
          match s.choose k n false with
          | some (key, l) => s.giveUnitTo k n key l
          | none => s
        else if !s.engineOf l.part k n then
          let s := s.leaveUnit k n key false
          match s.choose k n false with
          | some (key, l) => s.giveUnitTo k n key l
          | none => s
        else if l.lc ∨ !s.engineShared l.part k n then s
        else match s.choose k n true with
          | some (key2, l2) => (s.leaveUnit k n key false).giveUnitTo k n key2 l2
          | none => s

/-! ### Start (R288, R301) -/

/-- Every engine of a launch leaves it. -/
def State.leaveEngines (s : State) (key : Nat) (l : Launch) : State :=
  l.engines.foldl (fun s n => match engineKind l.k.kind with
    | .core => s.leaveCore n key
    | k => s.leaveUnit k n key true) s

/-- A launch leaves without a trace. -/
def State.dropLaunch (s : State) (key : Nat) : State :=
  match s.launch key with
  | none => s
  | some l =>
    let s := s.leaveEngines key l
    { s with launches := tdrop s.launches key }

/-- A partition's run asks for a step replay (R361). -/
def State.wantReplay (s : State) (p : Nat) : State := { s with runs := oupd s.runs p (fun r => { r with replay := true }) }

/-- The run of a partition ends with a status at its boundary. -/
def State.failRun (s : State) (p st : Nat) : State := { s with runs := oupd s.runs p (fun r => { r with status := if r.status = 0 then st else r.status }) }

/-- LAUNCH_START: the wait is met and an engine is there: the descriptor block is read, the claim counter is 0. -/
def launchStart (key : Nat) (s : State) : State :=
  match s.launch key with
  | none => s
  | some l =>
    if l.started ∨ l.engines = [] ∨ !s.launchOpen l ∨ s.holdsLaunches l.part ∨ s.rungHolds l then s
    else
      let ds := s.dregWords l.e.dreg
      if dregBad l.e.winu ds then
        let s := s.dropLaunch key
        match l.step with
        | some _ => s.failRun l.part 0x11
        | none => match s.qp l.qp with
          | some x => match x.entries.find? (fun e => e.at_ = l.at_) with
            | some e => s.endEntry l.qp l.at_ { e.dueWith 0x11 with id := l.tag }
            | none => s
          | none => s
      else
        let s := if l.e.dist then s.setClaim l.e.claimDie l.e.claimIdx Claim.reset else s
        (s.updLaunch key (fun l => { l with started := true, dregs := ds })).updQp l.qp (fun x =>
          { x with entries := x.entries.map (fun e => if e.at_ = l.at_ ∧ l.step.isNone then { e with started := true } else e) })

/-! ### Completion (R70, R102, R289) -/

/-- A launch still has an operation, a signal or a hold outstanding. -/
def State.launchBusy (s : State) (key : Nat) : Bool :=
  let mine (t : Thread) : Bool := t.launch == key
  s.signals.any (fun g => mine g.by_) || s.sems.any (fun (_, v) => (v.hold.map (fun h => mine h.by_)).getD false) ||
  s.cores.any (fun (_, k) =>
    k.lmq.any (fun m => mine m.by_) || k.smq.any (fun m => mine m.by_) || k.mq.any (fun o => match o with
      | .mmul _ b _ _ => mine b
      | .mdrain d => mine d.by_
      | .mfree _ _ _ => false
      | .clear _ _ _ => false
      | .lrun _ b _ _ _ _ => mine b) || k.lmm.any (fun u => mine u.by_) || k.commits.any (fun t => !t.passed && t.ctx.isSome && mine t.by_) ||
    k.drains.any (fun d => mine d.by_) || (k.drain.map (fun d => mine d.d.by_)).getD false || k.writing.any (fun d => mine d.d.by_) ||
    (k.lrun.map (fun l => mine l.by_)).getD false || k.tail.any (fun t => mine t.2.2.1) ||
    (k.saved.map (fun v => v.ctxs.any (fun (_, t) => t.launch == some key))).getD false)

/-- Every tile-thread, item or job of the launch has ended. -/
def State.launchEnded (s : State) (key : Nat) (l : Launch) : Bool :=
  if l.killed then decide (l.begun ≤ l.ended)
  else if l.e.dist then
    !l.exhausted.isEmpty && decide (l.begun = l.ended) && (s.claim l.e.claimDie l.e.claimIdx).reclaim.isEmpty &&
    s.ctxs.all (fun (i, k) => k.launch != some key || (k.tt.isNone && l.exhausted.contains i))
  else decide (l.ended = l.e.total)

/-- Every unit of work that is selected has been audited (R354, R355). -/
def Launch.audited (l : Launch) : Bool :=
  l.aRate == 0 || l.var || (List.range l.e.total).all (fun i => !l.picked i || l.skips.contains i || l.audits.contains (i, true))

/-- A started launch can complete. -/
def State.launchDone (s : State) (key : Nat) (l : Launch) : Bool :=
  l.started && s.launchEnded key l && !s.launchBusy key && l.again.isEmpty && (l.killed || l.audited)

/-- What a launch leaves when it completes: its fault record, its signal, its engines, claims and pinned epochs. -/
def State.retireLaunch (s : State) (key : Nat) (l : Launch) : State :=
  let s := match l.record with
    | some (_, ws) => if l.e.faultAddr ≠ 0 ∧ s.permits l.part l.e.faultAddr 64 false true false then s.write l.e.faultAddr (wordsLe ws) else s
    | none => s
  let s := match l.e.sig with
    | some (d, i) => s.signalOr l.part d i 1
    | none => s
  let s := { s with claims := tmap (fun _ => Claim.reset) (fun _ v => { v with recs := v.recs.filter (fun r => r.launch ≠ key) }) s.claims }
  let s := l.pins.foldl (fun s (_, m) => s.unpin m) s
  let skipped := if l.aRate = 0 ∨ l.var then 0 else (l.skips.filter l.picked).length
  let s := { s with health := { s.health with auditSkip := s.health.auditSkip + BitVec.ofNat 32 skipped } }
  s.dropLaunch key

/-- Faults of a launch; what a killed launch did not finish counts (R335). -/
def Launch.faultCount (l : Launch) : Nat := if l.killed then l.faulted.length + (l.e.total - l.ended) else l.faulted.length

/-- The completion of a launch of the host. -/
def Launch.due (l : Launch) (rungUp irq : Bool) : QpDue :=
  { status := 0, kind := 0, rungUp := rungUp, irq := irq, tag := l.tag, ty := 1, id := l.tag, faults := l.faultCount, widen := l.widen,
    emptyRow := l.emptyRow, engine := l.engine, count := 0 }

/-! ### Pre-emption (R296, R297, R300) -/

/-- The BE launch that holds a core. -/
def State.coreHolder (s : State) (c : Nat) : Option (Nat × Launch) :=
  match (List.range 4).filterMap (fun x => (s.ctx c x).launch) with
  | key :: _ => (s.launch key).map (fun l => (key, l))
  | [] => none

/-- An LC launch fits the room that a BE launch of its partition leaves free (R297). -/
def fitsRoom (lc be : Launch) : Bool :=
  lc.part == be.part && decide (lc.e.ctxs ≤ be.e.roomc ∧ lc.e.ctxs * lc.e.accTiles ≤ be.e.roomt ∧ 128 ≤ lc.e.wbase + be.e.roomu ∧
    lc.e.wbase + lc.e.ctxs * lc.e.winu ≤ 128)

/-- A context of a core holds a LOCK semaphore. -/
def State.holdsLock (s : State) (c : Nat) : Bool := s.sems.any (fun (_, v) => (v.hold.map (fun h => h.core == c)).getD false)

/-- PREEMPT: the LC launch accepted first stops the BE contexts of a shared core, which leave the wait lists of their semaphores
(R291, R300); in the room left for it, it takes its contexts without a save (R297). The pre-emption counts (R294). -/
def preempt (c key : Nat) (s : State) : State :=
  match s.launch key, s.coreHolder c with
  | some l, some (bk, b) =>
    let k := s.core c
    if b.lc ∨ (s.choose .core c true).map (·.1) ≠ some key ∨ !s.engineShared b.part .core c ∨ k.stop.isSome ∨ k.saved.isSome ∨ k.frozen ≠ [] ∨
        s.holdsLock c then s
    else
      let xs := s.ctxsOf c bk
      let s := xs.foldl (fun s x => s.leaveWaits c x) (s.updPart b.part (fun p => { p with preempts := p.preempts + 1 }))
      let s := s.updCore c (fun k => { k with frozen := xs, stopAt := l.since, victim := some b.part })
      if fitsRoom l b then s.giveCoreTo c key l (4 - l.e.ctxs) else s.updCore c (fun k => { k with stop := some key })
  | _, _ => s

/-- Bytes that a save moves (R296). -/
def State.saveBytes (s : State) (c : Nat) (b : Launch) (xs : List Nat) : Nat :=
  let live := (xs.flatMap (fun x => (List.range 16).map (fun h => s.tile c x h))).filter (fun t => t ≠ Tile.empty)
  xs.length * (b.e.liveu * 65536 + 34560) + live.length * 196608 + 1024

/-- A drain in progress keeps a stopped core from being quiescent (R296). -/
def Core.quiescent (k : Core) : Bool := k.drain.isNone && k.writing.isEmpty

/-- A restored context that waited for a sem.take arrives again (R300). -/
def State.rejoin (s : State) (c x : Nat) : State :=
  match (s.ctx c x).wait with
  | .semTake d i _ => let v := s.sem d i
    s.setSem d i { v with waiters := v.waiters ++ [(c, x)] }
  | _ => s

/-- The stopped contexts of a core go on where they stand. -/
def State.thaw (s : State) (c : Nat) : State :=
  (s.core c).frozen.foldl (fun s x => s.rejoin c x) (s.updCore c (fun k => { k with frozen := [], stop := none, victim := none }))

/-- What a core keeps of its BE contexts `xs`, of launch `b`, for a save of `n` bytes (R296). -/
def State.saved (s : State) (c : Nat) (b : Launch) (xs : List Nat) (n : Nat) : Saved :=
  let k := s.core c
  { ctxs := xs.map (fun x => (x, s.ctx c x)), tiles := s.tiles.filter (fun (i, _) => decide (i / 64 = c)),
    spad := xs.map (fun x => ((s.ctx c x).spadBase, s.bytes (spadSlot c + (s.ctx c x).spadBase) (b.e.liveu * 65536))),
    lmq := k.lmq, smq := k.smq, mq := k.mq, drains := k.drains, lrun := k.lrun, lmm := k.lmm, tail := k.tail, size := n }

/-- PREEMPT_SAVE_DONE: the BE state is saved, the core's look-aside state is empty, and the core passes to the LC launch. -/
def preemptSaveDone (c : Nat) (s : State) : State :=
  let k := s.core c
  match k.stop with
  | none => s
  | some key =>
    match s.launch key, s.coreHolder c with
    | some l, some (_, b) =>
      if !k.quiescent then s
      else
        let xs := k.frozen
        let n := s.saveBytes c b xs
        let v := s.saved c b xs n
        let s := xs.foldl (fun s x => s.setCtx c x Ctx.reset) s
        let s := { s with tiles := s.tiles.filter (fun (i, _) => !(decide (i / 64 = c))) }
        let s := s.updCore c (fun k =>
          { k with saved := some v, stop := none, frozen := [], lmq := [], smq := [], mq := [], drains := [], lrun := none, lmm := [], tail := [],
                   icache := [] })
        (s.giveCoreTo c key l 0).chargeSave key n
    | _, _ => s.thaw c

/-- What was saved of a core is there again. -/
def State.restored (s : State) (c : Nat) (v : Saved) : State :=
  let s := v.ctxs.foldl (fun s (x, t) => s.setCtx c x t) s
  let s := { s with tiles := v.tiles.foldl (fun t (i, x) => tput (fun _ => Tile.empty) t i x) s.tiles }
  let s := v.spad.foldl (fun s (a, bs) => s.write (spadSlot c + a) bs) s
  s.updCore c (fun k =>
    { k with saved := none, victim := none, lmq := v.lmq, smq := v.smq, mq := v.mq, drains := v.drains, lrun := v.lrun, lmm := v.lmm, tail := v.tail,
             icache := [] })

/-- PREEMPT_RESTORE: the LC launch has left the core: the BE contexts resume where they stopped. -/
def preemptRestore (c : Nat) (s : State) : State :=
  let s := s.releaseCore c
  let k := s.core c
  let lcHere := (List.range 4).any (fun x => match (s.ctx c x).launch.bind s.launch with
    | some l => l.lc
    | none => false)
  if lcHere ∨ k.stop.isSome then s
  else
    match k.saved with
    | some v =>
      let s := match ((v.ctxs.head?).bind (fun (_, t) => t.launch)).bind s.launch with
        | some l => s.giveCore l.part c
        | none => s
      v.ctxs.foldl (fun s (x, _) => s.rejoin c x) (s.restored c v)
    | none => if k.frozen = [] then s else s.thaw c

/-! ### Revocation (R300) -/

/-- SEM_HOLD_REVOKE: once the hold has reached its limit, N is added back and the holder cleared; the taker's tile-thread raises SEM_REVOKED, or, in a launch of
the step builder, the step is replayed. -/
def holdRevoke (die i : Nat) (s : State) : State :=
  let v := s.sem die i
  match v.hold with
  | none => s
  | some h =>
    if s.time < h.since + 8000 * h.us then s
    else match s.launch h.by_.launch with
    | none => s.setSem die i { v with hold := none }
    | some l =>
      let s := s.setSem die i { v with hold := none }
      let s := match s.semAdd die i h.n with
        | some s => s
        | none => s.semLost l.part die i
      let s := s.updPart l.part (fun p => { p with revoke := p.revoke + 1 })
      if l.step.isSome then s.wantReplay l.part
      else s.lateFault h.core h.ctx (s.ctx h.core h.ctx).pc.toNat h.by_ (fault1 0xA 0 (syncWord die i + 2 ^ 32 * h.n))

/-! ### QP_DESTROY (R467) -/

/-- An entry has started; a launch of it has started a tile-thread, item or job. -/
def State.entryRuns (s : State) (e : QpEntry) : Bool :=
  if e.ty = 1 then (match s.launch e.key with
    | some l => l.started && decide (0 < l.begun)
    | none => false)
  else e.started && e.ty != 5

/-- QP_DESTROY: entries that have not started go without completions; the command completes when the rest have retired. -/
def hQpDestroy : Handler := fun c s =>
  match s.qpFor c.part (c.p 0) with
  | .error st => (s, no st)
  | .ok x =>
    let out := x.entries.filter (fun e => !s.entryRuns e)
    let s := out.foldl (fun s e => if e.ty = 1 then s.dropLaunch e.key else s) s
    let s := s.updQp (c.p 0) (fun x => { x with entries := x.entries.filter (fun e => !(out.contains e)), due := [], destroy := some (c.m, c.tag), held := false })
    (s.settleQp (c.p 0), .wait)

/-! ### Commands -/

/-- QP_DESTROY. -/
def execQpDestroy (m : Nat) (h : CmdHdr) (qp : W64) (s : State) : Host.Outcome State Fault Refusal :=
  .next (runCmd m h 0x0305 [qp] hQpDestroy s)
/-- LAUNCH. -/
def execLaunch (q : Nat) (s : State) : Host.Outcome State Fault Refusal := .next (launchTake q s)
/-- ENGINE_DISPATCH. -/
def execEngineDispatch (k : EngineKind) (n : Nat) (s : State) : Host.Outcome State Fault Refusal := .next (engineDispatch k n s)
/-- LAUNCH_START. -/
def execLaunchStart (l : Nat) (s : State) : Host.Outcome State Fault Refusal := .next (launchStart l s)
/-- PREEMPT. -/
def execPreempt (c l : Nat) (s : State) : Host.Outcome State Fault Refusal := .next (preempt c l s)
/-- PREEMPT_SAVE_DONE. -/
def execPreemptSaveDone (c : Nat) (s : State) : Host.Outcome State Fault Refusal := .next (preemptSaveDone c s)
/-- PREEMPT_RESTORE. -/
def execPreemptRestore (c : Nat) (s : State) : Host.Outcome State Fault Refusal := .next (preemptRestore c s)
/-- SEM_HOLD_REVOKE. -/
def execSemHoldRevoke (die i : Nat) (s : State) : Host.Outcome State Fault Refusal := .next (holdRevoke die i s)

end Sys2Proof.Machine
end

