-- ==== Sys2Proof/Machine/Snap.lean ====
section
/-!
DEFINITION. Sequence entries (R302), snapshots, their targets and their stored format (R368, R371 to R377), and the
commands of group 0x07.
-/

namespace Sys2Proof.Machine

/-! ### Active-sequence table entries (R302) -/

/-- Entry `e` of the active-sequence table. -/
def State.seq (s : State) (e : Nat) : Seq := tget (fun _ => Seq.free) s.seqs e
/-- The state with an entry replaced. -/
def State.setSeq (s : State) (e : Nat) (q : Seq) : State := { s with seqs := tput (fun _ => Seq.free) s.seqs e q }
/-- An entry lies in the partition's range. -/
def State.seqIn (s : State) (p e : Nat) : Bool := match oget s.parts p with
  | some q => decide (q.seqBase ≤ e ∧ e < q.seqBase + q.seqCount)
  | none => false

/-- The 128 bytes of an entry. -/
def Seq.bytes (q : Seq) : List Byte :=
  let l (i : Nat) : Nat := q.lens.getD i 0 % 2 ^ 32
  wordsLe
    ([q.id.toNat + 2 ^ 32 * q.state.toNat + 2 ^ 35 * b2n q.cls + 2 ^ 36 * (q.part % 16) + 2 ^ 40 * (q.qp % 2 ^ 18),
      q.pass % 2 ^ 16 + 2 ^ 16 * (q.npass % 2 ^ 16) + 2 ^ 32 * (q.cstep % 2 ^ 16), l 0 + 2 ^ 32 * l 1, l 2 + 2 ^ 32 * l 3,
      q.map % 2 ^ 48, q.cond % 2 ^ 48, q.args % 2 ^ 48, q.ts % 2 ^ 48, q.rkey.toNat, q.rctr.toNat, q.cursor.toNat, q.atag.toNat,
      0, 0, 0, 0].map (BitVec.ofNat 64))

/-- The entry that 128 bytes give. -/
def parseSeq (bs : List Byte) : Seq :=
  let w (i : Nat) : Nat := wordAt bs (8 * i)
  { id := BitVec.ofNat 32 (w 0), state := BitVec.ofNat 3 (bits (w 0) 32 3), cls := bit (w 0) 35, part := bits (w 0) 36 4, qp := bits (w 0) 40 18,
    pass := bits (w 1) 0 16, npass := bits (w 1) 16 16, cstep := bits (w 1) 32 16,
    lens := [bits (w 2) 0 32, bits (w 2) 32 32, bits (w 3) 0 32, bits (w 3) 32 32], map := bits (w 4) 0 48, cond := bits (w 5) 0 48,
    args := bits (w 6) 0 48, ts := bits (w 7) 0 48, rkey := BitVec.ofNat 64 (w 8), rctr := BitVec.ofNat 64 (w 9),
    cursor := BitVec.ofNat 64 (w 10), atag := BitVec.ofNat 32 (w 11) }

/-! ### Risk bands and intervals (R246, R247, R368) -/

/-- One minute in units of State.time. -/
def minute : Nat := 60 * 8000000000
/-- Steps between captures of a band (R368). -/
def bandSteps (b : Nat) : Nat := [64, 32, 16, 8, 4, 2].getD b 1
/-- Time between captures of a band; in band 6 the step count alone makes every boundary due. -/
def bandTime (b : Nat) : Nat := ([30, 15, 8, 4, 2, 1].getD b 30) * minute

/-- Steps and time between snapshots written to flash: the longer of the risk interval and the governor's (R246, R247). -/
def State.flashInterval (s : State) : Nat × Nat :=
  let b := s.health.band
  if s.flash.wear = 2 then (64, 30 * minute)
  else (min 64 (2 ^ s.flash.k * bandSteps b), min (30 * minute) (2 ^ s.flash.k * bandTime b))

/-! ### Captures (R372, R373) -/

/-- Snapshots of a partition. -/
def State.snapPart (s : State) (p : Nat) : SnapPart := tget (fun _ => SnapPart.reset) s.snaps p
/-- The state with a partition's snapshots changed. -/
def State.updSnap (s : State) (p : Nat) (f : SnapPart → SnapPart) : State :=
  { s with snaps := tput (fun _ => SnapPart.reset) s.snaps p (f (s.snapPart p)) }

/-- Collective queue `q` of a die of a partition. -/
def State.cq (s : State) (p die q : Nat) : Cq := tget (fun _ => Cq.reset) s.cqs (8 * p + 4 * die + q)
/-- The state with a collective queue changed. -/
def State.updCq (s : State) (p die q : Nat) (f : Cq → Cq) : State :=
  { s with cqs := tput (fun _ => Cq.reset) s.cqs (8 * p + 4 * die + q) (f (s.cq p die q)) }

/-- Partition `p` as its record, or as one without ranges. -/
def State.part (s : State) (p : Nat) : Part := (oget s.parts p).getD (Part.fresh 0 0 0 0 0 0 0 0 0 0 0 0 false)

/-- A sequence finishes or is removed: its KIND 1 completion, with the passes run since its admission (R287), unless it was posted before
(R27), and the entry is FREE. -/
def State.finishSeq (s : State) (e status : Nat) : State :=
  let q := s.seq e
  let key := (q.part, e, (s.part q.part).step.toNat, q.id.toNat + 2 ^ 32 * q.atag.toNat)
  let ran := q.pass - tget (fun _ => 0) s.pass0 e
  let d : QpDue :=
    { status := status, kind := 1, rungUp := false, irq := false, tag := q.atag.toNat, ty := 3, id := q.id.toNat, faults := 0, widen := 0,
      emptyRow := 0, engine := 0, count := e + 2 ^ 16 * ran }
  let s := s.setSeq e Seq.free
  if s.posted.contains key then s else ({ s with posted := s.posted ++ [key] } : State).dueQp q.qp d

/-- Order 5 of a boundary (R26): every finished sequence of the partition has its completion and leaves the table. -/
def State.finishDone (s : State) (p : Nat) : State :=
  ((s.seqs.filter (fun (e, q) => s.seqIn p e && q.state == 3)).map (·.1)).foldl (fun s e => s.finishSeq e 0) s

/-- The ranges of a partition's snapshot set. -/
def State.snapSet (s : State) (p : Nat) : List SetEntry := match (s.snapPart p).cfg with
  | some c => c.set
  | none => []

/-- A section of a die. -/
def sec (kind die : Nat) (bs : List Byte) : SnapSec := { kind := kind, die := die, addr := 0, bytes := bs }

/-- The numbers of a partition's running windows. -/
def State.windowsOf (s : State) (p : Nat) : List (Nat × Wwin) := s.wwins.filter (fun (_, w) => w.part == p && w.run)

/-- What a capture holds (R372), as sections (R376). -/
def State.captureSecs (s : State) (p : Nat) : List SnapSec :=
  let q := s.part p
  let sync (die : Nat) : List Byte :=
    (List.range q.semCount).flatMap (fun i => toLe 4 (s.sem die (q.semBase + i)).value.toNat) ++
    (List.range q.claimCount).flatMap (fun i => toLe 8 (s.claim die (q.claimBase + i)).value.toNat)
  let fab (die : Nat) : List Byte :=
    (List.range 255).flatMap (fun i => toLe 4 (s.bar p die i).epoch.toNat) ++ (List.range 4).flatMap (fun i => toLe 4 (s.cq p die i).n)
  let read (i : Nat) : Nat := match s.qp (q.qpBase + i) with
    | some x => x.fetch
    | none => 0
  [sec 1 0 (wordsLe [q.step, BitVec.ofNat 64 (q.start % 65536), 0, 0, 0, 0, 0, 0]),
   sec 2 0 ((List.range q.seqCount).flatMap (fun i => (s.seq (q.seqBase + i)).bytes)),
   sec 3 0 ((List.range q.qpCount).flatMap (fun i => toLe 8 (read i))),
   sec 4 0 (sync 0), sec 4 1 (sync 1), sec 5 0 (fab 0), sec 5 1 (fab 1),
   sec 6 0 ((s.windowsOf p).flatMap (fun (k, w) => toLe 8 (k % 16 + 2 ^ 32 * w.n0)))] ++
  (s.snapSet p).map (fun e => { kind := 8 + e.kind, die := dieOfAddr e.addr, addr := e.addr, bytes := s.bytes e.addr e.len })

/-- Bytes of a snapshot in the stored format (R376). -/
def secsTotal (ss : List SnapSec) : Nat :=
  0x1000 + roundUp (32 * ss.length) 4096 + (ss.map (fun x => roundUp x.bytes.length 4096)).foldl (· + ·) 0

/-- The step number in an identifier, and the identifier of a capture (R375). -/
def snapStep (id : Nat) : Nat := id % 2 ^ 48
/-- The identifier of the capture of a partition at a step boundary. -/
def captureId (p step : Nat) : Nat := step % 2 ^ 48 + p % 16 * 2 ^ 48

/-- DOMAIN_ID, coordinates and PART as word 0x20 holds them. -/
def State.placeWord (s : State) (p : Nat) : Nat :=
  (match s.domain with
   | some d => d.id % 2 ^ 32 + 2 ^ 32 * d.x + 2 ^ 35 * d.y + 2 ^ 38 * d.z
   | none => 0) + 2 ^ 40 * (p % 16)

/-- The snapshot format minor version in force for a partition (R269, log 27). -/
def State.snapMinor (s : State) (p : Nat) : Nat := match (s.mbx p).session with
  | some q => q.snapVer % 256
  | none => 0

/-- The DRAM spans of a partition's shadow. -/
def State.shadowSpans (s : State) (p : Nat) : List (Nat × Nat) := match (s.snapPart p).cfg with
  | some c => [c.shadow0, c.shadow1].filterMap (fun i => (s.region p i).map (fun r => (r.baseg * granule, (r.lastg + 1 - r.baseg) * granule)))
  | none => []

/-- A flash write of a partition was skipped or abandoned (R373, R370). -/
def State.snapSkip (s : State) (p step : Nat) : State :=
  (s.updSnap p (fun x => { x with flashSkip := x.flashSkip + 1 })).event p 0x25 (step % 2 ^ 48)

/-- The flash interval has elapsed since the last capture written. -/
def State.flashDue (s : State) (p : Nat) : Bool := match (s.snapPart p).lastFlash with
  | none => true
  | some (step, t) => decide ((s.flashInterval).1 ≤ (s.part p).step.toNat - step ∨ (s.flashInterval).2 ≤ s.time - t)

/-- An unprotected flash write still in progress is abandoned, and the next one is protected (R373). -/
def State.dropUnfinished (s : State) (p : Nat) : State :=
  match (s.snapPart p).writing with
  | some (w, false) => (s.updSnap p (fun x => { x with writing := none, protect := true, lastFlash := none })).snapSkip p (snapStep w.id)
  | _ => s

/-- What a capture does to flash writes (R373): an unprotected write still in progress is abandoned, and the next one is
protected; a write starts where it is due and none goes on. -/
def State.flashPlan (s : State) (p : Nat) (snap : Snap) : State :=
  match (s.snapPart p).cfg with
  | none => s
  | some c =>
    let s := s.dropUnfinished p
    if c.flash ∧ (s.snapPart p).writing.isNone ∧ s.flashDue p then
      s.updSnap p (fun x => { x with writing := some (snap, x.protect), protect := false, lastFlash := some (snapStep snap.id, s.time) })
    else s

/-- SNAPSHOT_CAPTURE (R372, R373): the capture takes effect at once; the shadow holds it, its blocks are to be copied, and
SQ_HEAD passes the admissions it holds (R305). -/
def State.takeSnap (s : State) (p : Nat) (digest : W64) : State :=
  let step := (s.part p).step.toNat
  let secs := s.captureSecs p
  let minor := s.snapMinor p
  let snap : Snap :=
    { id := captureId p step, ftime := s.ftime, vmin := minor, place := s.placeWord p, serial := Config.serial,
      digest := if minor = 0 then 0 else digest, secs := secs, bad := (s.snapSet p).any (fun e => s.poisoned e.addr e.len) }
  let s := (s.shadowSpans p).foldl (fun s (a, n) => { s with poison := clearPoison s.poison a n }) s
  let s := s.updSnap p (fun x => { x with shadow := some snap, left := ceilDiv (secsTotal secs) 65536 })
  let s := s.flashPlan p snap
  { s with qps := s.qps.map (fun (k, x) => (k, if x.part = p then { x with adds := [] } else x)),
           runs := oupd s.runs p (fun r => { r with captured := step, capTime := s.time }) }

/-- A capture is due at a step boundary of a run (R368). -/
def State.captureDue (s : State) (p : Nat) : Bool :=
  match oget s.runs p with
  | some r =>
    let b := s.health.band
    decide (bandSteps b ≤ (s.part p).step.toNat - r.captured ∨ bandTime b ≤ s.time - r.capTime) ||
    s.bounds.any (fun (q, x) => q == p && match x with
      | .take _ _ => true
      | _ => false)
  | none => false

/-- SHADOW_COPY_BLOCK: one block of 64 KiB, charged to the DRAM regulator. -/
def shadowCopy (p : Nat) (s : State) : State :=
  if (s.snapPart p).left = 0 ∨ !s.regOpen p 0 then s
  else (s.charge p 0 65536).updSnap p (fun x => { x with left := x.left - 1 })

/-! ### The flash snapshots of the store (R242, R373) -/

/-- Size of a flash snapshot in the stored format. -/
def Snap.total (x : Snap) : Nat := secsTotal x.secs
/-- Bytes of the snapshot region in use. -/
def State.snapBytes (s : State) : Nat := (s.fsnaps.map (fun (_, f) => f.snap.total)).foldl (· + ·) 0
/-- Bytes of the snapshot region (R242). -/
def snapRegion : Nat := variantBytes 3000000000000
/-- The captured flash snapshots of a partition, by rising step number. -/
def State.capturedOf (s : State) (p : Nat) : List Nat := (s.fsnaps.map (·.1)).filter (fun id => id / 2 ^ 48 = p % 16)

/-- A flash snapshot is deleted: its rows are valid no more, in one journal update. -/
def State.dropFsnap (s : State) (id : Nat) : State :=
  { s with fsnaps := tdrop s.fsnaps id, flash := (s.flash.release (.snap id)).journal }

/-- The oldest captured snapshots but the newest make room for `n` bytes. -/
def makeRoom (p n : Nat) : Nat → State → State
  | 0, s => s
  | fuel + 1, s =>
    if s.snapBytes + n ≤ snapRegion then s
    else match s.capturedOf p with
      | old :: _ :: _ => makeRoom p n fuel (s.dropFsnap old)
      | _ => s

/-- At most KEEP captured snapshots remain. -/
def trimSnaps (p keep : Nat) : Nat → State → State
  | 0, s => s
  | fuel + 1, s =>
    if keep < (s.capturedOf p).length then match s.capturedOf p with
      | old :: _ => trimSnaps p keep fuel (s.dropFsnap old)
      | [] => s
    else s

/-- FLASH_SNAPSHOT_WRITE: the write in progress ends: room is made, the store switches to the new snapshot, and the
partition keeps KEEP of them; without room it is skipped. -/
def flashSnapWrite (p : Nat) (s : State) : State :=
  let x := s.snapPart p
  match x.writing with
  | none => s
  | some (snap, _) =>
    if !s.regOpen p 1 ∨ (x.left ≠ 0 ∧ x.shadow.map (·.id) = some snap.id) then s
    else
      let keep := match x.cfg with
        | some c => c.keep
        | none => 1
      let s := makeRoom p snap.total s.fsnaps.length s
      let s := s.updSnap p (fun x => { x with writing := none })
      if snapRegion < s.snapBytes + snap.total then s.snapSkip p (snapStep snap.id)
      else
        let s := { s with fsnaps := tins s.fsnaps snap.id { snap := snap, unusable := false, lost := false }, flash := s.flash.replace (.snap snap.id) snap.total }
        trimSnaps p keep s.fsnaps.length (s.charge p 1 snap.total)

/-! ### Restoring (R359, R374, R377) -/

/-- The requests a window had numbered before the step after boundary `step` (R227). -/
def State.rungsBefore (s : State) (p step w j : Nat) : Nat :=
  match (oget s.stepLogs p).bind (fun l => l.find? (fun x => x.step = step + 1)) with
  | some x => if x.emitted then (match x.rungs.find? (fun r => r.1 = w) with
      | some (_, n) => n
      | none => 0) else j
  | none => j

/-- One section takes its place. -/
def State.placeSec (s : State) (p : Nat) (step : Nat) (x : SnapSec) : State :=
  let q := s.part p
  let at_ (n o : Nat) : Nat := ofLe ((x.bytes.drop o).take n)
  match x.kind with
  | 1 => s.updPart p (fun q => { q with step := BitVec.ofNat 64 (at_ 8 0), start := at_ 2 8 })
  | 2 => (List.range q.seqCount).foldl (fun s i => s.setSeq (q.seqBase + i)
      (let e := parseSeq ((x.bytes.drop (128 * i)).take 128)
       if e.state = 0 then e else { e with part := p })) s
  | 4 =>
    let s := (List.range q.semCount).foldl (fun s i =>
      s.setSem x.die (q.semBase + i) { s.sem x.die (q.semBase + i) with value := BitVec.ofNat 32 (at_ 4 (4 * i)), hold := none, waiters := [] }) s
    (List.range q.claimCount).foldl (fun s i =>
      s.setClaim x.die (q.claimBase + i) { Claim.reset with value := BitVec.ofNat 64 (at_ 8 (4 * q.semCount + 8 * i)) }) s
  | 5 =>
    let s := (List.range 255).foldl (fun s i =>
      s.setBar p x.die i { s.bar p x.die i with epoch := BitVec.ofNat 32 (at_ 4 (4 * i)), arrivals := [] }) s
    (List.range 4).foldl (fun s i => s.updCq p x.die i (fun c => { c with n := at_ 4 (1020 + 4 * i), fault := false, run := none, ready := [] })) s
  | 6 => (List.range (x.bytes.length / 8)).foldl (fun s i =>
      let w := at_ 8 (8 * i)
      match s.wwin (w % 16) with
      | some v => if v.part = p ∧ v.run then s.restartWindow (w % 16) (w / 2 ^ 32) (s.rungsBefore p step (w % 16) v.j) else s
      | none => s) s
  | 8 => s.write x.addr x.bytes
  | 9 => s.write x.addr x.bytes
  | _ => s

/-- A snapshot's section 6 names a window. -/
def Snap.names (x : Snap) (w : Nat) : Bool := match x.secs.find? (fun y => y.kind = 6) with
  | some y => (List.range (y.bytes.length / 8)).any (fun i => ofLe ((y.bytes.drop (8 * i)).take 8) % 16 == w % 16)
  | none => false

/-- The state of a snapshot takes its place in the partition (R372, R374); read indices stay (R305). A running window of the partition that
started after the capture restarts at its first position (R227, log 27). -/
def State.placeSnap (s : State) (p : Nat) (snap : Snap) : State :=
  let s := snap.secs.foldl (fun s x => s.placeSec p (snapStep snap.id) x) s
  ((s.windowsOf p).filter (fun w => !snap.names w.1)).foldl (fun s w => s.restartWindow w.1 0 0) s

/-- The read indices of a snapshot take effect too (R377). -/
def State.placeQueues (s : State) (p : Nat) (snap : Snap) : State :=
  match snap.secs.find? (fun x => x.kind = 3) with
  | some x => (List.range (s.part p).qpCount).foldl (fun s i =>
      s.updQp ((s.part p).qpBase + i) (fun q => { q with fetch := ofLe ((x.bytes.drop (8 * i)).take 2) % q.sqSize, adds := [], held := false })) s
  | none => s

/-- The shadow is usable (R374). -/
def State.shadowOk (s : State) (p : Nat) (snap : Snap) : Bool := !snap.bad && !(s.shadowSpans p).any (fun (a, n) => s.poisoned a n)

/-- The twin's shadow holds a snapshot. -/
def State.twinHolds (s : State) (p id : Nat) : Bool := (s.snapPart p).twin == some id && (s.twin.map (fun t => !t.lost)).getD false

/-- A snapshot that the shadow or the twin's shadow holds usable. -/
def State.shadowSnap (s : State) (p id : Nat) : Option Snap := match (s.snapPart p).shadow with
  | some x => if x.id = id ∧ (s.shadowOk p x ∨ s.twinHolds p id) then some { x with bad := false } else none
  | none => none

/-- A snapshot by its identifier, from the first target that holds it usable: the shadow, the twin, flash (R374). -/
def State.findSnap (s : State) (p id : Nat) : Option Snap :=
  match s.shadowSnap p id with
  | some x => some x
  | none => match oget s.fsnaps id with
    | some f => if f.unusable ∨ f.lost then none else some f.snap
    | none => none

/-- The status of a command that names a snapshot which cannot be read: ST_FLASH_LOST for one that is damaged (R236). -/
def State.snapBad (s : State) (id : Nat) : Nat := match oget s.fsnaps id with
  | some f => if f.lost ∧ !f.unusable then 0x38 else 0x48
  | none => 0x48

/-- An operation begins to read a snapshot, from flash where no shadow holds it. -/
def State.readSnap (s : State) (p id : Nat) (who : FlashFor) : State :=
  if (s.shadowSnap p id).isSome then s else s.beginRead who (.snap id)

/-- The newest recovery point that the module holds usable: the newest capture, else the newest older captured flash
snapshot (R374). -/
def State.newestSnap (s : State) (p : Nat) : Option Snap :=
  match (s.snapPart p).shadow.bind (fun x => s.findSnap p x.id) with
  | some x => some x
  | none => ((s.capturedOf p).reverse.filterMap (fun id => s.findSnap p id)).head?

/-- The step number of the newest usable snapshot, as the step barrier carries it (R326). -/
def State.newestStep (s : State) (p : Nat) : Nat := match s.newestSnap p with
  | some x => snapStep x.id
  | none => 0

/-! ### Step digests (R341) -/

/-- The step digest of a partition: the tensors of its snapshot set in ascending address order, then the ADD_SEQ entries
admitted in the step. -/
def State.stepDigest (s : State) (p : Nat) (adds : List (List W64)) : W64 :=
  let set := (s.snapSet p).foldl (fun t e => tins t e.addr e.len) ([] : Tab Nat)
  BitVec.ofNat 64 (crc64 (set.flatMap (fun (a, n) => s.bytes a n) ++ adds.flatMap wordsLe))

/-! ### The stored format (R376) -/

/-- A list of bytes filled with zeros to `n`. -/
def padTo (bs : List Byte) (n : Nat) : List Byte := bs ++ List.replicate (n - bs.length) 0

/-- The directory entries of sections from offset `o` on. -/
def dirBytes : Nat → List SnapSec → List Byte
  | _, [] => []
  | o, x :: rest =>
    wordsLe ([x.kind % 256 + 256 * (x.die % 2) + 2 ^ 32 * crc32c x.bytes, x.addr % 2 ^ 48, x.bytes.length, o].map (BitVec.ofNat 64)) ++
    dirBytes (o + roundUp x.bytes.length 4096) rest

/-- A snapshot in the stored format. -/
def Snap.stored (x : Snap) : List Byte :=
  let dirLen := roundUp (32 * x.secs.length) 4096
  let body := padTo (dirBytes (0x1000 + dirLen) x.secs) dirLen ++ x.secs.flatMap (fun y => padTo y.bytes (roundUp y.bytes.length 4096))
  let head := wordsLe ([0x4E535A59 + 2 ^ 32 + 2 ^ 40 * x.vmin, x.total, x.id, x.ftime, x.place, x.secs.length].map (BitVec.ofNat 64) ++ [x.serial])
  let dig := wordsLe [x.digest]
  padTo (head ++ sha512 (head ++ dig ++ body) ++ dig) 0x1000 ++ body

/-- A directory entry of stored bytes: the section, and whether its fields are in place and its CRC holds. -/
def parseSec (bs : List Byte) (i : Nat) : SnapSec × Bool × Bool :=
  let d := 0x1000 + 32 * i
  let w (n : Nat) : Nat := wordAt bs (d + 8 * n)
  let data := (bs.drop (w 3)).take (w 2)
  let x : SnapSec := { kind := bits (w 0) 0 8, die := bits (w 0) 8 1, addr := bits (w 1) 0 48, bytes := data }
  (x, decide (bits (w 0) 9 23 = 0 ∧ bits (w 1) 48 16 = 0 ∧ w 3 % 4096 = 0 ∧ w 3 + w 2 ≤ bs.length) &&
        [1, 2, 3, 4, 5, 6, 8, 9].contains x.kind, decide (w 0 >>> 32 = crc32c data))

/-- Stored bytes as a snapshot with identifier `id`, and whether its digest and section CRCs hold; none where a field is
malformed (log 27). -/
def parseSnap (bs : List Byte) (id : Nat) : Option (Snap × Bool) :=
  let w (n : Nat) : Nat := wordAt bs (8 * n)
  let n := bits (w 5) 0 13
  let xs := (List.range n).map (parseSec bs)
  let minor := bits (w 0) 40 8
  if bits (w 0) 0 32 ≠ 0x4E535A59 ∨ bits (w 0) 48 16 ≠ 0 ∨ w 1 ≠ bs.length ∨ w 1 % 4096 ≠ 0 ∨ bits (w 4) 44 20 ≠ 0 ∨ bits (w 5) 13 51 ≠ 0 ∨
      n = 0 ∨ 4096 < n ∨ bs.length < 0x1000 + 32 * n ∨ (minor = 0 ∧ w 15 ≠ 0) ∨ ((bs.drop 0x80).take 0xF80).any (· ≠ 0) ∨
      xs.any (fun x => !x.2.1) then none
  else
    let dig := sha512 (bs.take 0x38 ++ (bs.drop 0x78).take 8 ++ bs.drop 0x1000)
    some ({ id := id, ftime := w 3, vmin := minor, place := w 4 % 2 ^ 44, serial := BitVec.ofNat 64 (w 6), digest := BitVec.ofNat 64 (w 15),
            secs := xs.map (·.1), bad := false },
          decide (dig = (bs.drop 0x38).take 64) && xs.all (fun x => x.2.2))

/-! ### Commands that wait for a step boundary (R304, R372, R377) -/

/-- A launch of the partition runs. -/
def State.launchRuns (s : State) (p : Nat) : Bool := s.launches.any (fun (_, l) => l.part == p && l.started)

/-- A mailbox command that waited completes. -/
def State.endWait (s : State) (m tag status r0 : Nat) : State := match s.cmd m tag with
  | some c => s.complete c status false r0 0
  | none => s

/-- Why a restore is refused (R269, R377), if it is. -/
def State.restoreRefusal (s : State) (p : Nat) (minor : Nat) (x : Snap) : Option Nat :=
  let q := s.part p
  let len (k die n : Nat) : Bool := match x.secs.find? (fun y => y.kind = k ∧ y.die = die) with
    | some y => decide (y.bytes.length = n)
    | none => false
  if minor < x.vmin then some 0x49
  else if x.secs.any (fun y => 8 ≤ y.kind ∧ !s.permits p y.addr y.bytes.length false true false) then some 0x1A
  else if !(len 1 0 64 && len 2 0 (128 * q.seqCount) && len 3 0 (8 * q.qpCount) && len 4 0 (4 * q.semCount + 8 * q.claimCount) &&
      len 4 1 (4 * q.semCount + 8 * q.claimCount) && len 5 0 1036 && len 5 1 1036) then some 0x11
  else none

/-- The step log without the steps after the partition's boundary. -/
def State.dropLog (s : State) (p : Nat) : State :=
  { s with stepLogs := oupd s.stepLogs p (fun l => l.filter (fun x => x.step ≤ (s.part p).step.toNat)) }

/-- SNAP_RESTORE takes effect; sequences that the capture holds as finished leave the table (R26, log 27). -/
def State.doRestore (s : State) (p m tag id : Nat) : State :=
  let s := s.endRead (.cmd m tag)
  match s.cmd m tag with
  | none => s
  | some c =>
    let minor := match c.sess with
      | some q => q.snapVer % 256
      | none => 0
    match s.findSnap p id with
    | none => s.complete c (s.snapBad id) false 0 0
    | some x => match s.restoreRefusal p minor x with
      | some st => s.complete c st false 0 0
      | none => ((((s.placeSnap p x).finishDone p).placeQueues p x).dropLog p).complete c 0 false 0 0

/-- The state with the commands of a partition that wait for a boundary replaced. -/
def State.setBounds (s : State) (p : Nat) (bs : List Boundary) : State :=
  { s with bounds := s.bounds.filter (fun b => b.1 ≠ p) ++ bs.map (fun b => (p, b)) }

/-- The captures that a partition's commands ask for complete with an identifier. -/
def State.endTakes (s : State) (p id : Nat) : State :=
  let mine := (s.bounds.filter (fun b => b.1 = p)).map (·.2)
  let takes := mine.filterMap (fun b => match b with
    | .take m tag => some (m, tag)
    | _ => none)
  let s := s.setBounds p (mine.filter (fun b => match b with
    | .take _ _ => false
    | _ => true))
  takes.foldl (fun s (m, tag) => s.endWait m tag 0 id) s

/-- The restores that a partition's commands ask for take effect. -/
def State.endRestores (s : State) (p : Nat) : State :=
  let mine := (s.bounds.filter (fun b => b.1 = p)).map (·.2)
  let rs := mine.filterMap (fun b => match b with
    | .restore m tag id => some (m, tag, id)
    | _ => none)
  let s := s.setBounds p (mine.filter (fun b => match b with
    | .restore _ _ _ => false
    | _ => true))
  rs.foldl (fun s (m, tag, id) => s.doRestore p m tag id) s

/-- Outside a serving run, at an instant at which no launch of the partition runs, waiting captures and restores happen
(R372, R377). -/
def State.settleBounds (s : State) (p : Nat) : State :=
  if (oget s.runs p).isSome ∨ s.launchRuns p ∨ !s.bounds.any (fun b => b.1 = p) then s
  else
    let takes := s.bounds.any (fun (q, b) => q == p && match b with
      | .take _ _ => true
      | _ => false)
    let s := if takes then (s.takeSnap p 0).endTakes p (captureId p (s.part p).step.toNat) else s
    s.endRestores p

/-! ### Commands of group 0x07 -/

/-- One entry of a set list. -/
def parseSetEntry (bs : List Byte) : SetEntry × Bool :=
  let a := wordAt bs 0
  let n := wordAt bs 8
  let e : SetEntry := { addr := bits a 0 48, kind := bits a 48 4, len := bits n 0 40 }
  (e, decide (bits a 52 12 ≠ 0 ∨ bits n 40 24 ≠ 0 ∨ e.addr % 64 ≠ 0 ∨ 1 < e.kind ∨ (e.kind = 0 ∧ e.len % 64 ≠ 0) ∨ e.len % 16 ≠ 0))

/-- A region is fit to be the shadow of a die for `n` bytes of the set (R371). -/
def State.shadowFit (s : State) (p i die n : Nat) : Bool := match s.region p i with
  | some r => decide (r.baseg * granule / dieBytes = die ∧ r.lastg * granule / dieBytes = die ∧
      n + 16 * 2 ^ 20 ≤ (r.lastg + 1 - r.baseg) * granule) && !r.r && !r.w && !r.x
  | none => false

/-- SNAP_SET. -/
def hSnapSet : Handler := withPb 0 64 (fun c bs s =>
  let w (o : Nat) : Nat := wordAt bs o
  let p := c.part
  let a := bits (w 0) 0 48
  let n := bits (w 8) 0 11
  let cfg : SnapCfg := { set := [], flash := bit (w 8) 11, keep := bits (w 8) 12 4, shadow0 := bits (w 0x10) 0 10, shadow1 := bits (w 0x10) 16 10 }
  if bits (w 0) 48 16 ≠ 0 ∨ a % 64 ≠ 0 ∨ 1024 < n ∨ cfg.keep = 0 ∨ w 8 / 2 ^ 16 ≠ 0 ∨ bits (w 0x10) 10 6 ≠ 0 ∨ bits (w 0x10) 26 38 ≠ 0 ∨
      (bs.drop 0x18).any (· ≠ 0) then (s, no 0x11)
  else if n ≠ 0 ∧ !s.permits p a (16 * n) true false false then (s, no 0x1A)
  else
    let es := (List.range n).map (fun i => parseSetEntry (s.bytes (a + 16 * i) 16))
    let set := es.map (·.1)
    let sum (f : SetEntry → Nat) : Nat := (set.map f).foldl (· + ·) 0
    let onDie (d : Nat) : Nat := sum (fun e => if dieOfAddr e.addr = d then e.len else 0)
    if es.any (·.2) ∨ set.any (fun e => !inDram e.addr ∨ !s.permits p e.addr e.len true false false) ∨
        !disjointSpans (set.map (fun e => (e.addr, e.len))) ∨ 2 ^ 20 < sum (fun e => if e.kind = 1 then e.len / 16 else 0) ∨
        !s.shadowFit p cfg.shadow0 0 (onDie 0) ∨ !s.shadowFit p cfg.shadow1 1 (onDie 1) then (s, no 0x11)
    else (s.updSnap p (fun x => { x with cfg := some { cfg with set := set } }), ok))

/-- SNAP_TAKE: at the next step boundary, or once no launch runs. -/
def hSnapTake : Handler := fun c s => (({ s with bounds := s.bounds ++ [(c.part, .take c.m c.tag)] } : State).settleBounds c.part, .wait)

/-- The snapshots of a partition: identifier, the snapshot, and the bits that say where it is held (R375). -/
def State.snapList (s : State) (p : Nat) : List (Nat × Snap × Nat) :=
  let x := s.snapPart p
  let flash := s.fsnaps.filter (fun (id, _) => id / 2 ^ 48 % 16 = p)
  let all : Tab Snap := (flash.map (fun (id, f) => (id, f.snap)))
  let all := match x.writing with
    | some (w, _) => if (oget all w.id).isNone then tins all w.id w else all
    | none => all
  let all := match x.shadow with
    | some w => if (oget all w.id).isNone then tins all w.id w else all
    | none => all
  let flags (id : Nat) : Nat :=
    let f := oget s.fsnaps id
    b2n (x.shadow.map (·.id) == some id) + 2 * b2n (s.twinHolds p id) + 4 * b2n f.isSome + 8 * b2n ((f.map (·.unusable)).getD false) +
      16 * b2n (x.writing.map (·.1.id) == some id)
  let key (id : Nat) : Nat := (2 ^ 48 - 1 - snapStep id) * 4096 + (if id / 2 ^ 52 = 0 then 0 else 4096 - id / 2 ^ 52)
  let sorted : Tab (Nat × Snap × Nat) := all.foldl (fun t (id, w) => tins t (key id) (id, w, flags id)) []
  sorted.map (·.2)

/-- SNAP_LIST. -/
def hSnapList : Handler := fun c s =>
  match s.blockRefusal c.part (c.w 0) 2080 false true with
  | some st => (s, no st)
  | none =>
    let all := s.snapList c.part
    let after := if c.p 1 = 0 then some all else if all.any (fun x => x.1 = c.p 1) then some ((all.dropWhile (fun x => x.1 ≠ c.p 1)).drop 1) else none
    match after with
    | none => (s, no 0x15)
    | some xs =>
      let out := xs.take 63
      let head := wordsLe ([out.length + 2 ^ 16 * b2n (decide (63 < xs.length)), 0, 0, 0, 0, 0, 0, 0].map (BitVec.ofNat 64))
      let body := out.flatMap (fun (id, x, f) => wordsLe ([id, f + 256 * x.vmin, x.total, x.ftime].map (BitVec.ofNat 64)))
      (s.awWrite c.part (c.w 0) (head ++ body), ok)

/-- A snapshot that a command names, or the status that refuses it; `absent`: that for one that is not held. -/
def State.snapFor (s : State) (p id absent : Nat) : Except Nat Unit :=
  if id / 2 ^ 48 % 16 ≠ p then .error 0x14
  else if (s.snapList p).any (fun x => x.1 = id) then .ok () else .error absent

/-- SNAP_RESTORE: a flash snapshot is read meanwhile. -/
def hSnapRestore : Handler := fun c s =>
  match s.snapFor c.part (c.p 0) 0x11 with
  | .error st => (s, no st)
  | .ok () =>
    match s.findSnap c.part (c.p 0) with
    | none => (s, no (s.snapBad (c.p 0)))
    | some _ =>
      let s := s.readSnap c.part (c.p 0) (.cmd c.m c.tag)
      ({ s with bounds := s.bounds ++ [(c.part, .restore c.m c.tag (c.p 0))] }, .bg)

/-- SNAP_DELETE: of a flash snapshot. -/
def hSnapDelete : Handler := fun c s =>
  if c.p 0 / 2 ^ 48 % 16 ≠ c.part then (s, no 0x14)
  else match oget s.fsnaps (c.p 0) with
    | some _ => (s.dropFsnap (c.p 0), ok)
    | none => (s, no 0x15)

/-- SNAP_EXPORT: starts its copy, from flash where no shadow holds the snapshot. -/
def hSnapExport : Handler := fun c s =>
  match s.snapFor c.part (c.p 0) 0x11 with
  | .error st => (s, no st)
  | .ok () =>
    match s.findSnap c.part (c.p 0) with
    | none => (s, no (s.snapBad (c.p 0)))
    | some x =>
      if c.p 2 < x.total then (s, no 0x11)
      else if !s.awBlock c.part (c.w 1) x.total false true then (s, no 0x1A)
      else (s.readSnap c.part (c.p 0) (.cmd c.m c.tag), .bg)

/-- The finish of SNAP_EXPORT. -/
def finSnapExport (c : Cmd) (s : State) : State :=
  if awHost (c.w 1) ∧ !s.hostOpen c.part then s
  else match s.findSnap c.part (c.p 0) with
    | none => (s.endRead (.cmd c.m c.tag)).complete c (s.snapBad (c.p 0)) false 0 0
    | some x => ((s.endRead (.cmd c.m c.tag)).awWrite c.part (c.w 1) x.stored).complete c 0 false 0 0

/-- SNAP_IMPORT: starts its copy. -/
def hSnapImport : Handler := fun c s =>
  if c.p 1 < 0x2000 ∨ c.p 1 % 4096 ≠ 0 then (s, no 0x11)
  else if !s.awBlock c.part (c.w 0) (c.p 1) true false then (s, no 0x1A)
  else (s, .bg)

/-- The first import number from the next one on that is free for a step of a partition (R375). -/
def State.importNumber (s : State) (p step : Nat) : Option Nat :=
  ((List.range 4095).map (fun i => ((s.snapPart p).importNo + i) % 4095 + 1)).find? (fun k =>
    (oget s.fsnaps (captureId p step + k * 2 ^ 52)).isNone)

/-- The finish of SNAP_IMPORT: a new snapshot in flash, in one journal update, its commit point (R274), once the flash regulator lets it
(R295). -/
def finSnapImport (c : Cmd) (s : State) : State :=
  if (awHost (c.w 0) ∧ !s.hostOpen c.part) ∨ !s.regOpen c.part 1 then s
  else
    let bs := s.awBytes c.part (c.w 0) (c.p 1)
    let step := snapStep (wordAt bs 0x10)
    let minor := match c.sess with
      | some q => q.snapVer % 256
      | none => 0
    match s.importNumber c.part step with
    | none => s.complete c 0x39 false 0 0
    | some k =>
      let id := captureId c.part step + k * 2 ^ 52
      if bits (wordAt bs 0) 0 32 = 0x4E535A59 ∧ (bits (wordAt bs 0) 32 8 ≠ 1 ∨ minor < bits (wordAt bs 0) 40 8) then s.complete c 0x49 false 0 0
      else match parseSnap bs id with
        | none => s.complete c 0x11 false 0 0
        | some (x, good) =>
          if snapRegion < s.snapBytes + x.total then s.complete c 0x39 false 0 0
          else
            let s := { s with fsnaps := tins s.fsnaps id { snap := x, unusable := !good, lost := false }, flash := s.flash.replace (.snap id) x.total }
            ((s.charge c.part 1 x.total).updSnap c.part (fun q => { q with importNo := k })).commit c id 0

/-! ### Commands -/

/-- SNAP_SET. -/
def execSnapSet (m : Nat) (h : CmdHdr) (pb : W64) (s : State) : Host.Outcome State Fault Refusal := .next (runCmd m h 0x0700 [pb] hSnapSet s)
/-- SNAP_TAKE. -/
def execSnapTake (m : Nat) (h : CmdHdr) (s : State) : Host.Outcome State Fault Refusal := .next (runCmd m h 0x0701 [] hSnapTake s)
/-- SNAP_LIST. -/
def execSnapList (m : Nat) (h : CmdHdr) (resp after : W64) (s : State) : Host.Outcome State Fault Refusal :=
  .next (runCmd m h 0x0702 [resp, after] hSnapList s)
/-- SNAP_RESTORE. -/
def execSnapRestore (m : Nat) (h : CmdHdr) (id : W64) (s : State) : Host.Outcome State Fault Refusal :=
  .next (runCmd m h 0x0703 [id] hSnapRestore s)
/-- SNAP_DELETE. -/
def execSnapDelete (m : Nat) (h : CmdHdr) (id : W64) (s : State) : Host.Outcome State Fault Refusal :=
  .next (runCmd m h 0x0704 [id] hSnapDelete s)
/-- SNAP_EXPORT. -/
def execSnapExport (m : Nat) (h : CmdHdr) (id dst len : W64) (s : State) : Host.Outcome State Fault Refusal :=
  .next (runCmd m h 0x0705 [id, dst, len] hSnapExport s)
/-- SNAP_IMPORT. -/
def execSnapImport (m : Nat) (h : CmdHdr) (src len : W64) (s : State) : Host.Outcome State Fault Refusal :=
  .next (runCmd m h 0x0706 [src, len] hSnapImport s)
/-- SHADOW_COPY_BLOCK. -/
def execShadowCopyBlock (p : Nat) (s : State) : Host.Outcome State Fault Refusal := .next (shadowCopy p s)
/-- FLASH_SNAPSHOT_WRITE. -/
def execFlashSnapshotWrite (p : Nat) (s : State) : Host.Outcome State Fault Refusal := .next (flashSnapWrite p s)

end Sys2Proof.Machine
end

