-- ==== Sys2Proof/Machine/Steps.lean ====
section
/-!
DEFINITION. The step builder: ADD_SEQ admission (R303), serving runs (R306), step plans and ticks (R307 to R309, R463),
step boundaries (R26, R304), step replay (R359), and the completion of launches (R70, R102, R226).
-/

namespace Sys2Proof.Machine

/-! ### Step plans (R307) -/

/-- A stage from its 128 bytes, and whether a reserved field is nonzero. -/
def parseStage (bs : List Byte) : Stage × Bool :=
  let w (i : Nat) : Nat := wordAt bs (8 * i)
  let dreg := bits (w 4) 0 48
  let lw (i : Nat) : Nat := if i = 11 then dreg else if 1 ≤ i ∧ i ≤ 10 then w (4 + i) else 0
  let e := parseLaunch lw false
  ({ kind := bits (w 0) 0 2, rule := bits (w 0) 2 2, rowarg := bits (w 0) 8 8, qarg := bits (w 0) 16 8, oarg := bits (w 0) 24 8,
     larg := bits (w 0) 32 8, hpi := bits (w 0) 40 8, nhead := bits (w 0) 48 8, qstream := bits (w 1) 0 2, kstream := bits (w 1) 2 2,
     mask := bits (w 1) 4 4, krule := bit (w 1) 8, fblk := bits (w 1) 16 16, dt := bits (w 1) 32 16, wval0 := bits (w 2) 0 32,
     wvstep := bits (w 2) 32 32, iwait := bits (w 3) 0 14, isig := bits (w 3) 14 14, e := e,
     tmpl := (List.range 10).map (fun i => BitVec.ofNat 64 (w (5 + i))) },
   e.reserved || decide (bits (w 0) 4 4 ≠ 0 ∨ bits (w 0) 56 8 ≠ 0 ∨ bits (w 1) 9 7 ≠ 0 ∨ bits (w 1) 48 16 ≠ 0 ∨ bits (w 3) 28 36 ≠ 0 ∨
     bits (w 4) 48 16 ≠ 0 ∨ w 15 ≠ 0))

/-- A plan's header, and whether a field is reserved and nonzero or out of range; with the number of stages. -/
def parsePlan (bs : List Byte) : Plan × Nat × Bool :=
  let w (i : Nat) : Nat := wordAt bs (8 * i)
  let n := bits (w 0) 0 9
  let p : Plan :=
    { maxSeq := bits (w 0) 16 16, budgetArg := bits (w 0) 32 6, maxRows := bits (w 1) 0 32, loopFirst := bits (w 2) 0 8, loopLast := bits (w 2) 8 8,
      loopCount := bits (w 2) 16 16, build := bits (w 3) 0 48, buildBytes := bits (w 4) 0 40, stages := [] }
  (p, n, decide (bits (w 0) 9 7 ≠ 0 ∨ bits (w 0) 38 26 ≠ 0 ∨ bits (w 1) 32 32 ≠ 0 ∨ bits (w 2) 32 32 ≠ 0 ∨ bits (w 3) 48 16 ≠ 0 ∨
    bits (w 4) 40 24 ≠ 0 ∨ w 5 ≠ 0 ∨ w 6 ≠ 0 ∨ w 7 ≠ 0 ∨ n = 0 ∨ 256 < n ∨ p.maxSeq = 0 ∨
    (p.loopCount ≠ 0 ∧ (p.loopLast < p.loopFirst ∨ n ≤ p.loopLast))))

/-- The stages of a step in the order of their launches, with their iterations (R309). -/
def Plan.order (p : Plan) : List (Nat × Nat) :=
  let n := p.stages.length
  if p.loopCount = 0 then (List.range n).map (fun i => (i, 0))
  else
    (List.range p.loopFirst).map (fun i => (i, 0)) ++
    (List.range p.loopCount).flatMap (fun it => (List.range (p.loopLast + 1 - p.loopFirst)).map (fun i => (p.loopFirst + i, it))) ++
    (List.range (n - 1 - p.loopLast)).map (fun i => (p.loopLast + 1 + i, 0))

/-- Bytes of the build area that a plan needs whatever its sequences (log 26). -/
def Plan.need (p : Plan) : Nat :=
  64 * p.maxSeq + ((p.order.filter (fun (i, _) => (p.stages[i]?.map (·.kind)) = some 0)).length) * 64 +
  ((p.stages.filter (fun g => g.rule = 1)).length) * roundUp (16 * p.maxSeq) 64

/-- The grid of a stage as the checks of R289 see it: the extent its rule sets is taken as 1. -/
def Stage.checked (g : Stage) : LaunchE := if g.rule = 1 then { g.e with e1 := 1 } else if g.rule = 2 then { g.e with e0 := 1 } else g.e

/-- The first status with which a stage of a plan is refused, its descriptor block words among what is checked (R289, R306). -/
def State.stageRefusal (s : State) (p : Nat) (var : Bool) : List (Stage × Bool) → Option Nat
  | [] => none
  | (g, bad) :: rest =>
    match s.checkLaunch p var { g.checked with reserved := bad } with
    | .error st => some st
    | .ok (_, k) =>
      if k.kind ≠ g.kind ∨ 2 < g.rule ∨ (g.rule = 1 ∧ g.kind ≠ 0) ∨ (g.rule = 2 ∧ (g.kind ≠ 1 ∨ g.hpi = 0 ∨ g.nhead = 0)) ∨
          dregBad g.e.winu (s.dregWords g.e.dreg) then some 0x11
      else s.stageRefusal p var rest

/-- The plan at an address: the plan, or the status with which its STEP completes (R306, log 26). -/
def State.readPlan (s : State) (p a : Nat) (var : Bool) : Except Nat Plan :=
  if !s.permits p a 64 true false false then .error 0x1A
  else
    let (h, n, bad) := parsePlan (s.bytes a 64)
    if bad then .error 0x11
    else if !s.permits p (a + 64) (128 * n) true false false then .error 0x1A
    else
      let gs := (List.range n).map (fun i => parseStage (s.bytes (a + 64 + 128 * i) 128))
      match s.stageRefusal p var gs with
      | some st => .error st
      | none =>
        let plan := { h with stages := gs.map (·.1) }
        if 65536 < plan.order.length then .error 0x11
        else if plan.buildBytes < plan.need then .error 0x19
        else if !s.permits p plan.build plan.buildBytes true true false then .error 0x1A
        else .ok plan

/-! ### Admission (R303, R305, R341) -/

/-- The state with a run changed. -/
def State.updRun (s : State) (p : Nat) (f : Run → Run) : State := { s with runs := oupd s.runs p f }

/-- The number of the step in progress: that of the boundary which ends it. -/
def State.stepNo (s : State) (p : Nat) : Nat := (s.part p).step.toNat + 1

/-- The step log of a partition. -/
def State.stepLog (s : State) (p : Nat) : List StepLog := (oget s.stepLogs p).getD []
/-- What the log records of a step. -/
def State.logOf (s : State) (p n : Nat) : Option StepLog := (s.stepLog p).find? (fun x => x.step = n)
/-- The record of a step changed, or begun. -/
def State.updLog (s : State) (p n : Nat) (f : StepLog → StepLog) : State :=
  let l := s.stepLog p
  let l := if l.any (fun x => x.step = n) then l.map (fun x => if x.step = n then f x else x)
    else l ++ [f { step := n, emitted := false, admits := [], rungs := [], holds := [], removes := [] }]
  { s with stepLogs := tins s.stepLogs p l }

/-- The twin pair is whole and compares a partition (R340, R343). -/
def State.twinned (s : State) (p : Nat) : Bool := match s.twin with
  | some t => !t.lost && bit t.pmask p
  | none => false
/-- The partition takes part in the schedule domain (R321). -/
def State.domained (s : State) (p : Nat) : Bool := match s.domain with
  | some d => bit d.pmask p
  | none => false

/-- What a partition has on the fabric. -/
def State.fab (s : State) (p : Nat) : FabPart := tget (fun _ => FabPart.reset) s.fabs p
/-- The state with it changed. -/
def State.updFab (s : State) (p : Nat) (f : FabPart → FabPart) : State := { s with fabs := tput (fun _ => FabPart.reset) s.fabs p (f (s.fab p)) }

/-- ENTRY of an ADD_SEQ. -/
def QpEntry.seqEntry (e : QpEntry) : Nat := bits (e.w 1) 0 16

/-- The table entry that an ADD_SEQ makes. -/
def QpEntry.seq (e : QpEntry) (p q : Nat) (cls : Bool) : Seq :=
  { id := BitVec.ofNat 32 (e.w 2), state := 1, cls := cls, part := p, qp := q, pass := bits (e.w 1) 32 16, npass := bits (e.w 1) 16 16,
    cstep := bits (e.w 1) 48 16, lens := [bits (e.w 3) 0 32, bits (e.w 3) 32 32, bits (e.w 4) 0 32, bits (e.w 4) 32 32],
    map := bits (e.w 5) 0 48, cond := bits (e.w 6) 0 48, args := bits (e.w 7) 0 48, ts := bits (e.w 8) 0 48,
    rkey := BitVec.ofNat 64 (e.w 9), rctr := BitVec.ofNat 64 (e.w 10), cursor := BitVec.ofNat 64 (e.w 11), atag := BitVec.ofNat 32 e.tag }

/-- A valid ADD_SEQ makes its entry ACTIVE; its PASS0 is kept for the completion (R287). -/
def State.admitEntry (s : State) (e : QpEntry) (p q : Nat) : State :=
  { s.setSeq e.seqEntry (e.seq p q (s.part p).cls) with pass0 := tput (fun _ => 0) s.pass0 e.seqEntry (bits (e.w 1) 32 16) }

/-- The check of an ADD_SEQ (R303). -/
def State.addRefusal (s : State) (p : Nat) (e : QpEntry) (bad : Bool) : Option Nat :=
  let n := bits (e.w 1) 16 16
  let long (v : Nat) : Bool := decide (2 ^ 32 - 256 < v)
  if bad ∨ !s.seqIn p e.seqEntry ∨ n ≤ bits (e.w 1) 32 16 ∨ n = 0 ∨ e.w 2 / 2 ^ 32 ≠ 0 ∨
      long (bits (e.w 3) 0 32) ∨ long (bits (e.w 3) 32 32) ∨ long (bits (e.w 4) 0 32) ∨ long (bits (e.w 4) 32 32) ∨
      [5, 6, 7, 8].any (fun i => e.w i / 2 ^ 48 ≠ 0) ∨ e.tailBad 12 then some 0x11
  else if s.varDenied p e then some 0x14
  else if (s.seq e.seqEntry).state ≠ 0 then some 0x16
  else if (s.mapAt p (bits (e.w 5) 0 48)).isNone then some 0x14
  else none

/-- The ADD_SEQ at the head of a queue is taken, checked and completed; its words, if it is admitted. -/
def State.admitOne (s : State) (p q : Nat) (e : QpEntry) (bad : Bool) : State × Option (List W64) :=
  let at_ := match s.qp q with
    | some x => x.fetch
    | none => 0
  let st := s.addRefusal p e bad
  let s := (s.take q { e with started := true }).updQp q (fun x => { x with adds := x.adds ++ [at_], held := false })
  match st with
  | some st => (s.endEntry q e.at_ (e.dueWith st), none)
  | none => ((s.admitEntry e p q).endEntry q e.at_ { e.dueWith 0 with count := e.seqEntry }, some e.words)

/-- Up to `limit` ADD_SEQ entries from the head of a queue: the state, the words of those admitted, the number taken. -/
def State.admitFrom (p q : Nat) : Nat → State → State × List (List W64) × Nat
  | 0, s => (s, [], 0)
  | limit + 1, s => match s.nextEntry q with
    | some (_, e, bad) =>
      if e.ty ≠ 3 then (s, [], 0)
      else
        let (s, w) := s.admitOne p q e bad
        let (s, ws, n) := State.admitFrom p q limit s
        (s, (match w with
          | some w => w :: ws
          | none => ws), n + 1)
    | none => (s, [], 0)

/-- The queue pairs of a partition in ascending order. -/
def State.qpsOf (s : State) (p : Nat) : List Nat := (s.qps.filter (fun (_, x) => x.part = p)).map (·.1)

/-- Every queue's ADD_SEQ entries are taken, `limit q` of them at most. -/
def State.admitAll (p : Nat) (limit : Nat → Nat) : List Nat → State → State × List (Nat × List (List W64)) × List (Nat × Nat)
  | [], s => (s, [], [])
  | q :: rest, s =>
    let (s, ws, n) := State.admitFrom p q (limit q) s
    let (s, a, c) := State.admitAll p limit rest s
    (s, (if ws = [] then a else (q, ws) :: a), if n = 0 then c else (q, n) :: c)

/-- The admission of a tick: by the step log where the step is replayed, by the leader's counts on its twin, else of
every waiting ADD_SEQ. None: the leader's counts, or the entries they count, have not arrived. -/
def State.takeIn (s : State) (p : Nat) : Option State :=
  let n := s.stepNo p
  let replayed := match s.logOf p n with
    | some x => if x.emitted then some x else none
    | none => none
  match replayed with
  | some x => some (x.admits.foldl (fun s (q, ws) => ws.foldl (fun s w =>
      s.admitEntry (parseQpEntry 0 (wordsLe w)).1 p q) s) s)
  | none =>
    let log (s : State) (a : List (Nat × List (List W64))) : State := s.updLog p n (fun x => { x with admits := x.admits ++ a })
    let follower := s.twinned p && (s.twin.map (·.roleB)).getD false
    if follower then
      match (s.fab p).counts with
      | [] => none
      | ns :: rest =>
        let (s2, a, c) := State.admitAll p (fun q => ((ns.find? (fun x => x.1 = q)).map (·.2)).getD 0) (s.qpsOf p) s
        if c = ns.filter (fun x => x.2 ≠ 0) then some (log (s2.updFab p (fun f => { f with counts := rest })) a) else none
    else
      let (s, a, c) := State.admitAll p (fun _ => 65536) (s.qpsOf p) s
      let s := log s a
      some (if s.twinned p then s.tell (.twin 2 p (c.flatMap (fun (q, k) => [BitVec.ofNat 64 q, BitVec.ofNat 64 k]))) else s)

/-! ### The step tick (R308, R309) -/

/-- Word `i` of a sequence's argument table. -/
def State.argWord (s : State) (e i : Nat) : Nat := s.le ((s.seq e).args + 8 * i) 8

/-- The sequences of a step, from START on, and the new START (R308). -/
def State.selectSeqs (s : State) (p : Nat) (plan : Plan) : List Nat × Nat :=
  let q := s.part p
  let ids := (List.range q.seqCount).map (fun i => q.seqBase + (q.start - q.seqBase + i) % max 1 q.seqCount)
  let r := ids.foldl (fun (acc : List Nat × Nat × Bool) e =>
    let (sel, rows, stop) := acc
    if stop ∨ (s.seq e).state ≠ 1 then acc
    else
      let n := if plan.maxRows = 0 then 0 else s.argWord e plan.budgetArg
      if sel.length = plan.maxSeq ∨ (sel ≠ [] ∧ plan.maxRows ≠ 0 ∧ plan.maxRows < rows + n) then (sel, rows, true)
      else (sel ++ [e], rows + n, false)) ([], 0, false)
  let next := match r.1.getLast? with
    | some e => if e + 1 = q.seqBase + q.seqCount then q.seqBase else e + 1
    | none => q.start
  ((r.1.foldl (fun (t : Tab Unit) e => tins t e ()) []).map (·.1), next)

/-- The step record of a sequence (R308). -/
def State.stepRecord (s : State) (e : Nat) : List W64 :=
  let q := s.seq e
  [BitVec.ofNat 64 (e + 2 ^ 16 * q.pass + 2 ^ 32 * q.npass), BitVec.ofNat 64 (s.le (q.ts + 4 * q.pass) 4), BitVec.ofNat 64 q.cond,
   BitVec.ofNat 64 q.args, q.rkey, q.rctr + BitVec.ofNat 64 q.pass, q.cursor, 0]

/-- What a rule builds for a stage: words to write and the extent it sets; none where a limit would break (R463). -/
structure BuildOut where
  bytes : List Byte
  extent : Nat
  deriving DecidableEq, Repr

/-- The segment table of RULE 1. -/
def State.segments (s : State) (g : Stage) (sel : List Nat) : Option BuildOut :=
  sel.foldl (fun o e => match o with
    | none => none
    | some o =>
      let r := s.argWord e g.rowarg
      let n := ceilDiv r 128
      if 2 ^ 32 ≤ r ∨ 2 ^ 32 ≤ o.extent + n then none
      else some { bytes := o.bytes ++ wordsLe ([o.extent + 2 ^ 32 * n, r + 2 ^ 32 * e].map (BitVec.ofNat 64)), extent := o.extent + n })
    (some { bytes := [], extent := 0 })

/-- The items of RULE 2 of one query block, without their waits. -/
def State.blockItems (s : State) (g : Stage) (c : Acfg) (e j q : Nat) (rows : List Nat) : List (List Nat) :=
  let x := s.seq e
  let lq := x.lens.getD g.qstream 0
  let nkb := ceilDiv (x.lens.getD g.kstream 0) 256
  let ts := rows.map (fun w => coordOf w 0)
  let lo := ts.foldl min 65535
  let hi := ts.foldl max 0
  let kb0 := if g.krule then (lo - g.dt) * g.fblk else 0
  let top := if g.krule then min ((hi + g.dt + 1) * g.fblk) nkb else nkb
  let (kb0, kbn) := if top ≤ kb0 then (nkb, 1) else (kb0, top - kb0)
  (List.range (ceilDiv g.nhead (max 1 g.hpi))).map (fun i =>
    let h0 := i * g.hpi
    [e + 2 ^ 16 * g.qstream + 2 ^ 18 * g.kstream + 2 ^ 20 * g.mask + 2 ^ 32 * (128 * j),
     min 128 (lq - 128 * j) + 2 ^ 8 * h0 + 2 ^ 16 * (min g.hpi (g.nhead - h0) - 1) + 2 ^ 32 * kb0, kbn,
     s.argWord e g.qarg + 128 * j * c.qstride, s.argWord e g.oarg + 128 * j * c.ostride, s.argWord e g.larg + h0 * c.lstride + 512 * j,
     g.iwait + 2 ^ 32 * (g.wval0 + q * g.wvstep), g.isig])

/-- The work list of RULE 2 (R309): holes skipped, block by block. -/
def State.workList (s : State) (p : Nat) (g : Stage) (c : Acfg) (sel : List Nat) : Option BuildOut :=
  let blocks := sel.flatMap (fun e =>
    let x := s.seq e
    let lq := x.lens.getD g.qstream 0
    let coord := match s.mapAt p x.map with
      | some (_, m) => (s.stream m.header g.qstream).coord
      | none => 0
    (List.range (ceilDiv lq 128)).filterMap (fun j =>
      let rows := ((List.range (min 128 (lq - 128 * j))).map (fun i => s.le (coord + 8 * (128 * j + i)) 8)).filter (fun w => !isHole w)
      if rows = [] then none else some (e, j, rows)))
  let items := (blocks.zipIdx).flatMap (fun ((e, j, rows), q) => s.blockItems g c e j q rows)
  if 2 ^ 32 ≤ items.length ∨ items.any (fun ws => ws.any (fun w => 2 ^ 64 ≤ w)) then none
  else some { bytes := items.flatMap (fun ws => wordsLe (ws.map (BitVec.ofNat 64))), extent := items.length }

/-- The emission of a step as far as it has come: bytes used of the build area, what each stage's ITER 0 built, and
whether it goes on. -/
structure Emit where
  s : State
  off : Nat
  built : List (Nat × Nat × Nat)       -- stage, address, extent
  go : Bool

/-- A block of bytes in the build area, on the next 64 B line; the emission ends with ST_RESOURCE where it does not fit
(log 26). -/
def Emit.put (b : Emit) (p : Nat) (plan : Plan) (bs : List Byte) : Emit × Nat :=
  let a := roundUp b.off 64
  if plan.buildBytes < a + bs.length then ({ b with s := b.s.failRun p 0x19, go := false }, 0)
  else ({ b with s := b.s.write (plan.build + a) bs, off := a + bs.length }, plan.build + a)

/-- A limit would break: the step ends as after a program fault (R463). -/
def Emit.range (b : Emit) (p : Nat) (r : Run) (tag stage : Nat) : Emit :=
  let f := itemFault 0x40
  let s := if r.faultAddr ≠ 0 ∧ b.s.permits p r.faultAddr 64 false true false then b.s.write r.faultAddr (wordsLe (f.words 0 tag stage)) else b.s
  { b with s := s.updRun p (fun r => { r with faulted := true }), go := false }

/-- What ITER 0 of a stage builds, or what it built. -/
def Emit.build (b : Emit) (p : Nat) (r : Run) (g : Stage) (kern : Kernel) (i tag : Nat) (sel : List Nat) : Emit × Nat × Nat :=
  match b.built.find? (fun x => x.1 = i) with
  | some (_, a, n) => (b, a, n)
  | none =>
    match (if g.rule = 1 then b.s.segments g sel else b.s.workList p g (parseAcfg kern.acfg) sel) with
    | none => (b.range p r tag i, 0, 0)
    | some o =>
      let (b, a) := b.put p r.plan o.bytes
      ({ b with built := b.built ++ [(i, a, o.extent)] }, a, o.extent)

/-- What a stage's launch builds: nothing under RULE 0 (R309). -/
def Emit.buildFor (b : Emit) (p : Nat) (r : Run) (g : Stage) (kern : Kernel) (i tag : Nat) (sel : List Nat) : Emit × Nat × Nat :=
  if g.rule = 0 then (b, 0, 0) else b.build p r g kern i tag sel

/-- The argument of a KIND 0 launch, in the build area (R309). -/
def Emit.putArgs (b : Emit) (p : Nat) (r : Run) (g : Stage) (e : LaunchE) (args : List Byte) : Emit × Nat :=
  if g.kind = 0 then b.put p r.plan args else (b, e.arg)

/-- The launch goes to the launcher (R309). -/
def Emit.accept (b : Emit) (p : Nat) (r : Run) (i it tag : Nat) (e : LaunchE) (img : Image) (kern : Kernel) : Emit :=
  let pos : StepPos := { stage := i, iter := it, layer := none, rerun := false }
  { b with s := b.s.acceptLaunch p r.qp r.at_ tag r.var (b.s.part p).cls e img kern (some pos) b.s.nextLaunch }

/-- The launch of a stage for which `a` and `ext` were built (R309, R463). -/
def Emit.launch (b : Emit) (p : Nat) (r : Run) (sel : List Nat) (recs i it tag : Nat) (g : Stage) (img : Image) (kern : Kernel)
    (a ext : Nat) : Emit :=
  let e := if g.rule = 1 then { g.e with e1 := ext } else if g.rule = 2 then { g.e with e0 := ext, arg := a } else g.e
  if e.e0 = 0 ∨ e.e1 = 0 then b
  else if 2 ^ 32 < e.total then b.range p r tag i
  else
    let args := wordsLe ([b.s.stepNo p, it + 2 ^ 16 * sel.length + 2 ^ 32 * i, recs, (if g.rule = 1 then a else 0), g.e.arg, 0, 0, 0].map (BitVec.ofNat 64))
    let q := b.putArgs p r g e args
    if !q.1.go then q.1 else q.1.accept p r i it tag { e with arg := q.2, faultAddr := r.faultAddr } img kern

/-- One launch of the step is emitted (R309). `k`: its number; `recs`: address of the step records. -/
def Emit.stage (b : Emit) (p : Nat) (r : Run) (sel : List Nat) (recs k i it : Nat) : Emit :=
  if !b.go then b
  else
    match r.plan.stages[i]? with
    | none => b
    | some g =>
      let tag := b.s.stepNo p % 2 ^ 16 * 2 ^ 16 + k
      match b.s.checkLaunch p r.var g.checked with
      | .error st => { b with s := b.s.failRun p st, go := false }
      | .ok (img, kern) =>
        let q := b.buildFor p r g kern i tag sel
        if !q.1.go then q.1 else q.1.launch p r sel recs i it tag g img kern q.2.1 q.2.2

/-- The step builder emits the work of a step of the sequences `sel`. -/
def State.emitStep (s : State) (p : Nat) (r : Run) (sel : List Nat) : State :=
  let s := s.write r.plan.build (sel.flatMap (fun e => wordsLe (s.stepRecord e)))
  let b : Emit := { s := s, off := 64 * sel.length, built := [], go := true }
  ((r.plan.order.zipIdx).foldl (fun b ((i, it), k) => b.stage p r sel r.plan.build k i it) b).s

/-- STEP_TICK's effect (R307): admission, and where a sequence is ACTIVE the selection and the launches of the step. -/
def State.tick (s : State) (p : Nat) : State :=
  match oget s.runs p with
  | none => s
  | some r =>
    match s.takeIn p with
    | none => s.updRun p (fun r => { r with idle := true })
    | some s =>
      let (sel, start) := s.selectSeqs p r.plan
      if sel = [] then s.updRun p (fun r => { r with idle := true })
      else
        let rungs := (s.windowsOf p).map (fun (k, w) => (k, w.j))
        let s := s.updLog p (s.stepNo p) (fun x => { x with emitted := true, rungs := if x.emitted then x.rungs else rungs })
        let s := s.updPart p (fun q => { q with start := start })
        let s := s.updRun p (fun r => { r with idle := false, inStep := true, sel := sel, rungs := [], faulted := false })
        s.emitStep p r sel

/-! ### Sequences (R304) -/

/-- Why a hold, a release or a removal of an entry is refused now. -/
def State.seqRefusal (s : State) (e : Nat) (want : Option Nat) : Option Nat :=
  let st := (s.seq e).state.toNat
  if st = 0 then some 0x15 else match want with
    | some n => if st = n then none else some 0x16
    | none => none

/-- A hold or a removal takes effect at a boundary, and the step log records it. -/
def State.applyBound (s : State) (p : Nat) (b : Boundary) (log : Bool) : State :=
  match b with
  | .hold m tag e on =>
    match s.seqRefusal e (some (if on then 1 else 2)) with
    | some st => s.endWait m tag st 0
    | none =>
      let s := s.setSeq e { s.seq e with state := if on then 2 else 1 }
      let s := if log then s.updLog p (s.stepNo p) (fun x => { x with holds := x.holds ++ [(e, on)] }) else s
      s.endWait m tag 0 0
  | .remove m tag e =>
    match s.seqRefusal e none with
    | some st => s.endWait m tag st 0
    | none =>
      let s := s.finishSeq e 3
      let s := if log then s.updLog p (s.stepNo p) (fun x => { x with removes := x.removes ++ [e] }) else s
      s.endWait m tag 0 0
  | _ => s

/-- The holds and removals that the step log records for the partition's boundary (R359). -/
def State.redoEdits (s : State) (p : Nat) : State :=
  match s.logOf p (s.stepNo p) with
  | some x =>
    let s := x.holds.foldl (fun s (e, on) => if (s.seq e).state = (if on then 1 else 2) then s.setSeq e { s.seq e with state := if on then 2 else 1 } else s) s
    x.removes.foldl (fun s e => if (s.seq e).state = 0 then s else s.finishSeq e 3) s
  | none => s

/-- What followed a capture at its boundary follows its restore: the finished sequences leave, and the holds and removals of the boundary
take effect again (R26, R27, R359). -/
def State.redoBoundary (s : State) (p : Nat) : State := (s.finishDone p).redoEdits p

/-- The holds and removals of a boundary: those the log records for it, and, unless the step is being replayed, those
that wait (R359). -/
def State.applyBounds (s : State) (p : Nat) (log : Bool) : State :=
  let again := log && ((s.logOf p (s.stepNo p)).map (·.emitted)).getD false
  let s := if log then s.redoEdits p else s
  if again then s
  else
    let seqCmd (b : Boundary) : Bool := match b with
      | .hold _ _ _ _ => true
      | .remove _ _ _ => true
      | _ => false
    let mine := (s.bounds.filter (fun b => b.1 = p)).map (·.2)
    (mine.filter seqCmd).foldl (fun s b => s.applyBound p b log) (s.setBounds p (mine.filter (fun b => !seqCmd b)))

/-! ### Runs and boundaries (R26, R306) -/

/-- A serving run ends: its STEP completes; what waited for a boundary happens. -/
def State.endRun (s : State) (p status : Nat) : State :=
  match oget s.runs p with
  | none => s
  | some r =>
    let engine := match (s.qp r.qp).bind (fun x => x.entries.find? (fun e => e.at_ = r.at_)) with
      | some e => e.engine
      | none => 0
    let d : QpDue :=
      { status := status, kind := 0, rungUp := r.rungUp, irq := r.irq, tag := r.tag, ty := 4, id := 0, faults := b2n r.faulted, widen := 0,
        emptyRow := 0, engine := engine, count := r.stepsRun }
    let s := ({ s with runs := tdrop s.runs p } : State).endEntry r.qp r.at_ d
    (s.applyBounds p false).settleBounds p

/-- Orders 3 to 6 of a step boundary (R26). -/
def State.boundaryDone (s : State) (p : Nat) (due : Bool) (digest : W64) : State :=
  match oget s.runs p with
  | none => s
  | some r =>
    let s := r.sel.foldl (fun s e =>
      let q := s.seq e
      let q1 : Seq := { q with pass := q.pass + 1, cursor := q.cursor + BitVec.ofNat 64 q.cstep, state := if q.pass + 1 = q.npass then 3 else 1 }
      if q.state = 1 then s.setSeq e q1 else s) s
    let s := s.updPart p (fun q => { q with step := q.step + 1 })
    let s : State := { s with wwins := s.wwins.map (fun (k, w) => (k, if w.part = p ∧ w.run then { w with n0 := w.n0 + w.nlayer } else w)) }
    let s := s.updRun p (fun r => { r with inStep := false, wait := 0, stepsRun := r.stepsRun + 1, sel := [] })
    let s := if due then (s.takeSnap p digest).endTakes p (captureId p (s.part p).step.toNat) else s
    let s := if due ∧ s.twinned p then s.updSnap p (fun x => { x with twin := x.shadow.map (·.id) }) else s
    let s := (s.finishDone p).applyBounds p true
    let ends := r.stop || (r.nsteps != 0 && r.nsteps == r.stepsRun + 1) || s.bounds.any (fun (q, b) => q == p && match b with
      | .restore _ _ _ => true
      | _ => false)
    if ends then s.endRun p 0 else s.tick p

/-- A collective queue has a descriptor posted that has not completed (R327, R329). -/
def State.cqBusy (s : State) (die : Nat) (c : Cq) : Bool :=
  !c.fault && (c.run.isSome || (c.en && decide (c.n < (s.sem die c.psem).value.toNat)))

/-- The step's kernels have retired and its collectives have completed (R26, order 1). -/
def State.stepRetired (s : State) (p : Nat) : Bool :=
  !s.launches.any (fun (_, l) => l.part == p && l.step.isSome) &&
  s.cqs.all (fun (k, c) => k / 8 != p || !s.cqBusy (k / 4 % 2) c)

/-- STEP_BOUNDARY (R26, R326): outside a domain the boundary itself; in a domain the hub arrives at the step barrier with
the result digests, the due flag and the newest usable snapshot. -/
def stepBoundary (p : Nat) (s : State) : State :=
  match oget s.runs p with
  | none => s
  | some r =>
    if !r.inStep ∨ r.wait ≠ 0 ∨ r.replay ∨ !s.stepRetired p then s
    else if r.faulted ∨ r.status ≠ 0 then s.endRun p r.status
    else if s.domained p then
      let w : List W64 := [(s.fab p).dig0, (s.fab p).dig1, BitVec.ofNat 64 (b2n (s.captureDue p)), BitVec.ofNat 64 (s.newestStep p)]
      (s.updRun p (fun r => { r with wait := 1 })).tell (.domain 1 p w)
    else s.boundaryDone p (s.captureDue p) 0

/-- STEP_TICK: the tick that an idle run repeats at an ADD_SEQ doorbell, or once its twin's counts are there. -/
def stepTick (p : Nat) (s : State) : State :=
  match oget s.runs p with
  | some r => if r.idle ∧ r.wait = 0 ∧ !r.replay then s.tick p else s
  | none => s

/-- The firmware opens the step barriers of a partition that takes part in a domain, spanning the whole domain, when a
serving run starts (R326). -/
def State.openBars (s : State) (p : Nat) : State :=
  if s.domained p then [0, 1].foldl (fun s d => s.setBar p d 255 { s.bar p d 255 with en := true, span := 0xF, inEn := true, inSpan := 0xF }) s else s

/-- The capture with which a serving run starts (R372). -/
def State.firstCapture (s : State) (p : Nat) : State :=
  let s := (s.takeSnap p (if s.twinned p then s.stepDigest p [] else 0)).endTakes p (captureId p (s.part p).step.toNat)
  if s.twinned p then s.updSnap p (fun x => { x with twin := x.shadow.map (·.id) }) else s

/-- A serving run starts: its entry is taken, a first capture is made and its first step ticks (R306, R372). -/
def State.startRun (s : State) (q p : Nat) (e : QpEntry) (plan : Plan) : State :=
  let r : Run :=
    { qp := q, at_ := e.at_, tag := e.tag, irq := e.irq, var := e.var, plan := plan, nsteps := bits (e.w 2) 0 32, stepsRun := 0, stop := false,
      faultAddr := bits (e.w 3) 0 48, faulted := false, status := 0, inStep := false, idle := false, wait := 0, back := 0, sel := [], rungs := [],
      rungUp := false, replay := false, mism := (0, 0), poison := [], due := false, captured := 0, capTime := 0 }
  let s := s.take q { e with started := true }
  let s := ({ s with runs := tins s.runs p r } : State).dropLog p
  ((s.openBars p).firstCapture p).tick p

/-- STEP (R306): a STOP ends the run at its next boundary and completes at once; else a run starts: its first capture
(R372), its span of the step barrier (R326), its first tick. -/
def stepTake (q : Nat) (s : State) : State :=
  match s.nextEntry q with
  | some (x, e, bad) =>
    if e.ty ≠ 4 then s
    else
      let p := x.part
      let stop := bit (e.w 2) 32
      if bad ∨ bits (e.w 1) 48 16 ≠ 0 ∨ bits (e.w 2) 33 31 ≠ 0 ∨ bits (e.w 3) 48 16 ≠ 0 ∨ e.tailBad 4 then s.takeOr q e (some 0x11) id
      else if s.varDenied p e then s.takeOr q e (some 0x14) id
      else if stop then
        let s := s.takeOr q e (some 0) id
        match oget s.runs p with
        | some r => if r.idle then s.endRun p 0 else s.updRun p (fun r => { r with stop := true })
        | none => s
      else if (oget s.runs p).isSome then s.takeOr q e (some 0x16) id
      else
        match s.readPlan p (bits (e.w 1) 0 48) e.var with
        | .error st => s.takeOr q e (some st) id
        | .ok plan => s.startRun q p e plan
  | none => s

/-! ### Discarding and replaying a step (R359) -/

/-- What the operations under way of a launch were to write on a core becomes undefined (R359, log 34). -/
def State.spoilCore (s : State) (c p : Nat) (mine : Thread → Bool) : State :=
  let k := s.core c
  s.freeSpans p ((k.moving.filter (fun m => mine m.by_)).flatMap (·.destSpans) ++
    (k.writing.filter (fun r => mine r.d.by_)).flatMap (fun r => r.writes.map (fun w => (w.1, w.2.length))))

/-- A launch's work stops wherever it is, what it was writing is undefined, and the launch goes. -/
def State.killLaunch (s : State) (key : Nat) (l : Launch) : State :=
  let mine (t : Thread) : Bool := t.launch == key
  let cores : List Nat := if l.k.kind = 0 then l.engineList else []
  let s := cores.foldl (fun s c =>
    let s := s.spoilCore c l.part mine
    let xs := s.ctxsOf c key
    let s := xs.foldl (fun s x => ((s.leaveWaits c x).leaveBars c x).setCtx c x Ctx.reset) s
    let s := { s with tiles := s.tiles.filter (fun (i, _) => !(xs.any (fun x => i / 16 == 4 * c + x))) }
    s.updCore c (fun k =>
      let gone := (k.saved.map (fun v => v.ctxs.any (fun (_, t) => t.launch == some key))).getD false
      { k with
        lmq := k.lmq.filter (fun m => !mine m.by_), smq := k.smq.filter (fun m => !mine m.by_), drains := k.drains.filter (fun d => !mine d.by_),
        mq := k.mq.filter (fun o => match o with
          | .mmul _ b _ _ => !mine b
          | .mdrain d => !mine d.by_
          | .mfree x _ _ => !xs.contains x
          | .clear x _ _ => !xs.contains x
          | .lrun _ b _ _ _ _ => !mine b),
        lmm := k.lmm.filter (fun u => !mine u.by_),
        drain := k.drain.filter (fun d => !mine d.d.by_), writing := k.writing.filter (fun d => !mine d.d.by_),
        lrun := k.lrun.filter (fun r => !mine r.by_), tail := k.tail.filter (fun t => !mine t.2.2.1),
        commits := k.commits.filter (fun t => !mine t.by_), saved := if gone then none else k.saved,
        victim := if k.frozen.any xs.contains then none else k.victim, frozen := if k.frozen.any xs.contains then [] else k.frozen, stop := if k.stop = some key then none else k.stop })) s
  let s := if l.k.kind = 1 then l.engineList.foldl (fun s u =>
      match (s.fox u).item with
      | some i => if i.launch = key then
          ((if i.phase = 2 then s.unpin i.map else s).updFox u (fun f => { f with item := none, launch := none })).freeSpans l.part
            (i.outSpans (parseAcfg l.k.acfg)) else s
      | none => if (s.fox u).launch = some key then s.updFox u (fun f => { f with launch := none }) else s) s else s
  let s := if l.k.kind = 2 then l.engineList.foldl (fun s n =>
      if (s.prim n).launch = some key then
        (s.updPrim n (fun f => { f with job := none, launch := none })).freeSpans l.part
          (((s.prim n).job.map (fun b => (parseJob b.words).outSpans)).getD []) else s) s else s
  let s := l.pins.foldl (fun s (_, m) => s.unpin m) s
  { s with
    signals := s.signals.filter (fun g => !mine g.by_),
    sems := tmap (fun _ => Sem.reset) (fun _ v => if (v.hold.map (fun h => mine h.by_)).getD false then { v with hold := none } else v) s.sems,
    claims := tmap (fun _ => Claim.reset) (fun _ v => { v with recs := v.recs.filter (fun r => r.launch ≠ key) }) s.claims,
    launches := tdrop s.launches key }

/-- Forwarding channels that are assigned to a partition (R336). -/
def State.fwdOf (s : State) (p k : Nat) : Bool := match s.domain with
  | some d => decide (bits d.fwdp (4 * k) 4 = p)
  | none => false

/-- Order 1 of R359: the partition's work of the step is discarded. -/
def State.discardStep (s : State) (p : Nat) : State :=
  let s := (s.launches.filter (fun (_, l) => l.part == p && l.step.isSome)).foldl (fun s (k, l) => s.killLaunch k l) s
  let s := { s with cqs := tmap (fun _ => Cq.reset) (fun k c => if k / 8 = p then { c with run := none, ready := [] } else c) s.cqs,
                    fwds := tmap (fun _ => Fwd.reset) (fun k f => if s.fwdOf p k then { f with queue := [], staged := [] } else f) s.fwds }
  s.updRun p (fun r => { r with inStep := false, sel := [], rungs := [], replay := false, faulted := false, idle := false })

/-- The run goes back to the boundary of a snapshot: the state is restored, and the steps since run again (R359). -/
def State.replayFrom (s : State) (p : Nat) (snap : Snap) (barrier : Bool) : State :=
  let now := (s.part p).step.toNat
  let s := ((s.discardStep p).placeSnap p snap).redoBoundary p
  let n := now - (s.part p).step.toNat
  let s := s.updSnap p (fun x => { x with replays := x.replays + 1 })
  let s := s.event p 0x22 (snapStep snap.id + 2 ^ 48 * (n % 2 ^ 16))
  let s := s.updRun p (fun r => { r with
    stepsRun := r.stepsRun - n, captured := snapStep snap.id, wait := if barrier then 3 else 0, status := 0 })
  if barrier then s else s.tick p

/-- A run goes back to a snapshot: at once, or, from flash, once its bytes have been read (R374). -/
def State.restoreRun (s : State) (p : Nat) (snap : Snap) (barrier : Bool) : State :=
  if (s.shadowSnap p snap.id).isSome then s.replayFrom p snap barrier
  else ((s.discardStep p).beginRead (.restore p) (.snap snap.id)).updRun p (fun r => { r with wait := 4, back := snapStep snap.id })

/-- The module's twin is lost (R343, R366): the domain goes on alone; `why` is RESULT1 of FAB_TWIN. -/
def State.loseTwin (s : State) (why : Nat) : State :=
  match s.twin with
  | some t => if t.lost then s else ({ s with twin := some { t with lost := true } } : State).eventAll 0x12 why
  | none => s

/-- The replay of a partition's run to a step, or a module failure where the module does not hold it (R366). -/
def State.replayTo (s : State) (p step : Nat) : State :=
  match s.findSnap p (captureId p step) with
  | some x => s.restoreRun p x true
  | none => (s.discardStep p).failModule

/-- The restore from flash ends: with the snapshot it read, or, where a codeword of it was lost, with the next older one (R236, R366,
R374). -/
def State.endRestore (s : State) (p : Nat) (r : Run) : State :=
  let s := s.endRead (.restore p)
  if s.domained p then match s.findSnap p (captureId p r.back) with
    | some x => s.replayFrom p x true
    | none => (s.discardStep p).failModule
  else match s.newestSnap p with
    | some x => if snapStep x.id = r.back then s.replayFrom p x false else s.restoreRun p x false
    | none => (s.discardStep p).failModule

/-- STEP_REPLAY (R359, R366): outside a domain the newest recovery point is restored; in a domain the members are told, and
all restore the least S. A twin is told at once. A restore from flash ends at the next STEP_REPLAY. -/
def stepReplay (p : Nat) (s : State) : State :=
  match oget s.runs p with
  | none => s
  | some r =>
    if r.wait = 4 then (if s.flash.steady (.restore p) then s.endRestore p r else s)
    else if !r.replay then s
    else
      let s := if s.twinned p then (s.tell (.twin 3 p [])).loseTwin 1 else s
      if s.domained p then
        let own := s.newestStep p
        let s := s.tell (.domain 2 p [BitVec.ofNat 64 own])
        s.replayTo p (min own (s.fab p).opened)
      else match s.newestSnap p with
        | some x => s.restoreRun p x false
        | none => (s.discardStep p).failModule

/-- REPLAY_NOTICE (R366): another member must replay; this one restores the least S of the notice, its own and the value of
the last opening. -/
def replayNotice (p n : Nat) (s : State) : State :=
  match oget s.runs p with
  | none => s
  | some _ =>
    if !s.domained p then s else s.replayTo p (min n (min (s.newestStep p) (s.fab p).opened))

/-! ### The step barrier and the twin's digest (R326, R338, R341, R342) -/

/-- A rollback of a partition to a step (R338). -/
def State.rollback (s : State) (p step : Nat) : State :=
  let s := (s.updFab p (fun f => { f with rollbacks := f.rollbacks + 1, verified := true })).event p 0x11 (s.stepNo p)
  (s.addRisk 8192).replayTo p step

/-- STEP_BARRIER_OPEN: barrier 255 opens with the XOR of the digests, the OR of the due flags and the minimum of S. -/
def stepBarrierOpen (p : Nat) (xor : W64) (due : Bool) (n : Nat) (s : State) : State :=
  match oget s.runs p with
  | none => s
  | some r =>
    if r.wait = 3 then
      let s := s.updRun p (fun r => { r with wait := 0 })
      s.tick p
    else if r.wait ≠ 1 then s
    else
      let s := s.updFab p (fun f => { f with dig0 := 0, dig1 := 0, opened := n })
      let s := [0, 1].foldl (fun s d => s.setBar p d 255 { s.bar p d 255 with epoch := (s.bar p d 255).epoch + 1 }) s
      if xor ≠ 0 then s.rollback p n
      else
        let s := s.updFab p (fun f => { f with verified := false })
        if s.twinned p then
          let adds := match s.logOf p (s.stepNo p) with
            | some x => x.admits.flatMap (·.2)
            | none => []
          let d := s.stepDigest p adds
          let s := s.updFab p (fun f => { f with digest := d })
          (s.updRun p (fun r => { r with wait := 2, due := due })).tell (.twin 1 p [d, BitVec.ofNat 64 (b2n due)])
        else s.boundaryDone p due 0

/-- The twin is lost or has left while its digest is awaited: the boundary goes on alone (R343). -/
def State.twinGone (s : State) (why : Nat) : State :=
  let waiting := (s.runs.filter (fun (_, r) => r.wait = 2)).map (fun (p, r) => (p, r.due))
  waiting.foldl (fun s (p, due) => s.boundaryDone p due (s.fab p).digest) (s.loseTwin why)

/-- STEP_DIGEST_EXCHANGE: the twin's step digest has arrived and barrier 255 has opened with the OR of the mismatches.
`due`: the due flags of both domains; `n`: the least S of both; `risk`: the highest risk estimate of the twin domain. The
domain that leaves stands at a restored boundary (log 28). -/
def digestExchange (p : Nat) (peer : W64) (other due : Bool) (n risk : Nat) (s : State) : State :=
  match oget s.runs p, s.twin with
  | some r, some t =>
    if r.wait ≠ 2 ∨ t.lost then s
    else
      let own := (s.fab p).digest
      if own = peer ∧ !other then s.boundaryDone p (due || r.due) own
      else
        let step := s.stepNo p
        let times := if r.mism.1 = step then r.mism.2 else 0
        if 2 ≤ times then
          let leaves := decide (risk < s.health.risk ∨ (risk = s.health.risk ∧ t.roleB))
          let s := s.addRisk 8192
          if leaves then
            let s := (s.discardStep p).loseTwin 2
            let s := match s.findSnap p (captureId p n) with
              | some x => (s.placeSnap p x).redoBoundary p
              | none => s
            s.updRun p (fun r => { r with wait := 0, idle := true })
          else s.twinGone 2
        else
          let s := s.updRun p (fun r => { r with mism := (step, times + 1) })
          s.rollback p n
  | _, _ => s

/-! ### Completion of launches (R70, R102, R226) -/

/-- The window position whose RDY semaphore a launch waits on: window, layer, format code (log 24). -/
def State.waitedLayer (s : State) (l : Launch) : Option (Nat × Nat × Nat) :=
  match l.e.wait with
  | [] => none
  | (d, i, v) :: _ =>
    ((s.windowsOf l.part).findSome? (fun (k, w) =>
      if w.dies.contains d ∧ w.rdy ≤ i ∧ i < w.rdy + w.nslot ∧ 0 < v then
        let e := s.listEntry w ((v - 1) * w.nslot + (i - w.rdy))
        some (k, e.1, e.2) else none))

/-- The layer whose weights a launch reads, with the rung in force (R102, log 24). -/
def State.launchLayer (s : State) (l : Launch) : Option (Nat × Nat × Nat) :=
  let base := match l.step with
    | none => s.waitedLayer l
    | some q => match q.layer with
      | some x => some x
      | none => match s.waitedLayer l with
        | some x => some x
        | none => (s.windowsOf l.part).head?.map (fun (k, w) => let e := s.listEntry w q.iter; (k, e.1, e.2))
  base.map (fun (k, layer, f) => match (oget s.runs l.part).bind (fun r => r.rungs.find? (fun x => x.1 = k ∧ x.2.1 = layer)) with
    | some (_, _, g) => if l.step.isSome then (k, layer, g) else (k, layer, f)
    | none => (k, layer, f))

/-- The next wider rung of a layer that the window's package holds, with its image length. -/
def State.nextRung (s : State) (w : Wwin) (layer f : Nat) : Option (Nat × Nat) :=
  match rungOf f, oget s.wpkgs w.pkg with
  | some j, some t => ((List.range 4).filter (fun i => j < i)).findSome? (fun i =>
      (t.rungImage layer (fmtOfRung i)).map (fun (_, n, _) => (fmtOfRung i, n)))
  | _, _ => none

/-- RUNG_UP of a launch that completes: the window, layer, next rung and its length (R102). -/
def State.rungUp (s : State) (l : Launch) : Option (Nat × Nat × Nat × Nat) :=
  let pol := wordAt l.k.kfc 0x30
  if l.k.kind = 0 ∧ bit pol 16 ∧ pol >>> 32 < l.widen then
    (s.launchLayer l).bind (fun (k, layer, f) => (s.wwin k).bind (fun w => (s.nextRung w layer f).map (fun (g, n) => (k, layer, g, n))))
  else none

/-- The re-run of a launch at a wider rung: request j of the window, waiting on RSEM ≥ j on each home's die (R226). -/
def State.askRung (s : State) (l : Launch) (k : Nat) (w : Wwin) (layer g : Nat) (n : Nat) : State :=
  if w.sides.any (· = 0) ∨ w.sideg * granule < n then s.updRun l.part (fun r => { r with rungUp := true })
  else
    let j := w.j + 1
    let s := s.updWwin k (fun w => { w with j := j, rung := w.rung ++ [(layer, g)] })
    let s := if s.flash.reads.any (fun r => r.for_ = .window k) then s else s.turnWindow k
    let s := s.updRun l.part (fun r => { r with rungs := (k, layer, g) :: r.rungs.filter (fun x => !(x.1 == k && x.2.1 == layer)) })
    match l.step, oget s.images l.e.image with
    | some q, some img =>
      s.acceptLaunch l.part l.qp l.at_ l.tag l.var l.lc { l.e with wait := w.dies.map (fun d => (d, w.rsem, j)) } img l.k
        (some { q with layer := some (k, layer, g), rerun := true }) l.order
    | _, _ => s

/-- The unstarted launches of a step are not emitted any more (R306). -/
def State.dropUnstarted (s : State) (p : Nat) : State :=
  (s.launches.filter (fun (_, l) => l.part == p && l.step.isSome && !l.started)).foldl (fun s (k, _) => s.dropLaunch k) s

/-- LAUNCH_COMPLETE (R70): of a host's launch its completion is due; of a step's launch the run learns a fault (R306), and
a launch that asks for a wider rung is followed by its re-run. -/
def launchComplete (key : Nat) (s : State) : State :=
  match s.launch key with
  | none => s
  | some l =>
    if !s.launchDone key l then s
    else
      let s := s.leaveEngines key l
      let l := (s.launch key).getD l
      match l.step with
      | none =>
        let up := (s.rungUp l).isSome
        let s := s.retireLaunch key l
        let irq := match (s.qp l.qp).bind (fun x => x.entries.find? (fun e => e.at_ = l.at_)) with
          | some e => e.irq
          | none => false
        (s.endEntry l.qp l.at_ (l.due up irq)).settleBounds l.part
      | some q =>
        let up := s.rungUp l
        let first := match oget s.runs l.part with
          | some r => !r.faulted
          | none => true
        let s := s.retireLaunch key (if first then l else { l with record := none })
        let s := s.updQp l.qp (fun x => { x with entries := x.entries.map (fun e => if e.at_ = l.at_ then { e with engine := e.engine + l.engine } else e) })
        let s := match q.layer with
          | some (k, _, _) => s.updWwin k (fun w => { w with rungBusy := false })
          | none => s
        if 0 < l.faultCount then (s.updRun l.part (fun r => { r with faulted := true })).dropUnstarted l.part
        else match up with
          | some (k, layer, g, n) => (match s.wwin k with
            | some w => s.askRung l k w layer g n
            | none => s)
          | none => s

/-! ### Sequence commands -/

/-- SEQ_QUERY. -/
def hSeqQuery : Handler := fun c s =>
  if !s.seqIn c.part (c.p 0) then (s, no 0x14)
  else if (s.seq (c.p 0)).state = 0 then (s, no 0x15)
  else match s.blockRefusal c.part (c.w 1) 128 false true with
    | some st => (s, no st)
    | none => (s.awWrite c.part (c.w 1) (s.seq (c.p 0)).bytes, ok)

/-- A sequence command waits for the next boundary, or happens at once where no run steps (log 26). -/
def State.boundOrNow (s : State) (p : Nat) (b : Boundary) : State :=
  match oget s.runs p with
  | some r => if r.idle then s.applyBound p b true else { s with bounds := s.bounds ++ [(p, b)] }
  | none => s.applyBound p b false

/-- SEQ_REMOVE. -/
def hSeqRemove : Handler := fun c s =>
  if !s.seqIn c.part (c.p 0) then (s, no 0x14)
  else match s.seqRefusal (c.p 0) none with
    | some st => (s, no st)
    | none => (s.boundOrNow c.part (.remove c.m c.tag (c.p 0)), .wait)

/-- SEQ_HOLD. -/
def hSeqHold : Handler := fun c s =>
  if 1 < c.p 1 then (s, no 0x11)
  else if !s.seqIn c.part (c.p 0) then (s, no 0x14)
  else match s.seqRefusal (c.p 0) (some (if c.p 1 = 1 then 1 else 2)) with
    | some st => (s, no st)
    | none => (s.boundOrNow c.part (.hold c.m c.tag (c.p 0) (c.p 1 == 1)), .wait)

/-! ### Commands -/

/-- SEQ_QUERY. -/
def execSeqQuery (m : Nat) (h : CmdHdr) (entry resp : W64) (s : State) : Host.Outcome State Fault Refusal :=
  .next (runCmd m h 0x0400 [entry, resp] hSeqQuery s)
/-- SEQ_REMOVE. -/
def execSeqRemove (m : Nat) (h : CmdHdr) (entry : W64) (s : State) : Host.Outcome State Fault Refusal :=
  .next (runCmd m h 0x0401 [entry] hSeqRemove s)
/-- SEQ_HOLD. -/
def execSeqHold (m : Nat) (h : CmdHdr) (entry hold : W64) (s : State) : Host.Outcome State Fault Refusal :=
  .next (runCmd m h 0x0402 [entry, hold] hSeqHold s)
/-- STEP. -/
def execStep (q : Nat) (s : State) : Host.Outcome State Fault Refusal := .next (stepTake q s)
/-- STEP_TICK. -/
def execStepTick (p : Nat) (s : State) : Host.Outcome State Fault Refusal := .next (stepTick p s)
/-- STEP_BOUNDARY. -/
def execStepBoundary (p : Nat) (s : State) : Host.Outcome State Fault Refusal := .next (stepBoundary p s)
/-- STEP_BARRIER_OPEN. -/
def execStepBarrierOpen (p : Nat) (xor : W64) (due : Bool) (n : Nat) (s : State) : Host.Outcome State Fault Refusal :=
  .next (stepBarrierOpen p xor due n s)
/-- STEP_DIGEST_EXCHANGE. -/
def execStepDigestExchange (p : Nat) (peer : W64) (other due : Bool) (n risk : Nat) (s : State) : Host.Outcome State Fault Refusal :=
  .next (digestExchange p peer other due n risk s)
/-- STEP_REPLAY. -/
def execStepReplay (p : Nat) (s : State) : Host.Outcome State Fault Refusal := .next (stepReplay p s)
/-- REPLAY_NOTICE. -/
def execReplayNotice (p n : Nat) (s : State) : Host.Outcome State Fault Refusal := .next (replayNotice p n s)
/-- LAUNCH_COMPLETE. -/
def execLaunchComplete (l : Nat) (s : State) : Host.Outcome State Fault Refusal := .next (launchComplete l s)

end Sys2Proof.Machine
end

