-- ==== Sys2Proof/Machine/Ports.lean ====
section
/-!
DEFINITION. Fabric and twin ports (R310 to R319), schedule domains (R320 to R322), the configuration of barriers (R323)
and the twin pair (R340 to R343, R366).
-/

namespace Sys2Proof.Machine

/-! ### Ports (R311 to R318) -/

/-- Port `k`. -/
def State.port (s : State) (k : Nat) : Port := tget (fun _ => Port.reset) s.ports k
/-- The state with a port changed. -/
def State.updPort (s : State) (k : Nat) (f : Port → Port) : State := { s with ports := tput (fun _ => Port.reset) s.ports k (f (s.port k)) }

/-- FAB_PORT_STAT.STATE (R318). -/
def PortState.code : PortState → Nat
  | .down => 0
  | .training => 1
  | .up => 2
  | .versionFail => 3
  | .identFail => 4

/-- FAB_PORT_STAT (R318). -/
def Port.stat (q : Port) : Nat := q.state.code + 2 ^ 8 * q.ver + 2 ^ 24 * q.nport

/-- A port takes a state; a change posts FAB_LINK (R339). -/
def State.portTo (s : State) (k : Nat) (st : PortState) : State :=
  if (s.port k).state = st then s
  else (s.updPort k (fun q => { q with state := st })).eventAll 0x10 (k + 2 ^ 8 * st.code)

/-- A port starts its first training: sequencing starts at 0, credits will be initialised (R317). -/
def State.trainPort (s : State) (k : Nat) : State :=
  (s.updPort k (fun q => { Port.reset with
    state := q.state, fec := q.fec, unc := q.unc, crc := q.crc, replay := q.replay, retrain := q.retrain, powered := true })).portTo k .training

/-- The bytes of a flit (R312). -/
def mkFlit (ftype part vc nline seq ack dst src : Nat) (payload : List Byte) : List Byte :=
  let body := toLe 4 (ftype + 2 ^ 4 * part + 2 ^ 8 * vc + 2 ^ 9 * nline + 2 ^ 12 * seq) ++ toLe 4 ack ++ toLe 4 (dst + 2 ^ 9 * src) ++ padTo payload 256
  body ++ toLe 4 (crc32c body)

/-- The acknowledgement fields a port sends (R312, R313). -/
def Port.ack (q : Port) : Nat := (if q.rxAny then (q.rxSeq + 4095) % 4096 + 2 ^ 12 else 0) + 2 ^ 13 * b2n q.nak

/-- What a port sends; a module that has failed sends nothing (R365). -/
def State.onPort (s : State) (k : Nat) (bs : List Byte) : State := s.tell (.port k bs)

/-- An IDLE flit with the acknowledgement, and `n` credits of a partition and virtual channel returned (R313, R314). -/
def State.sendIdle (s : State) (k p vc n : Nat) : State :=
  let q := s.port k
  (s.updPort k (fun q => { q with since := 0 })).onPort k (mkFlit 0 0 0 0 0 (q.ack + 2 ^ 14 * p + 2 ^ 18 * vc + 2 ^ 19 * n) 0 0 [])

/-- A sequenced flit is sent and kept until it is acknowledged (R313). -/
def State.sendSeq (s : State) (k ftype part vc nline dst src : Nat) (payload : List Byte) : State :=
  let q := s.port k
  let bs := mkFlit ftype part vc nline q.txSeq q.ack dst src payload
  (s.updPort k (fun q => { q with txSeq := (q.txSeq + 1) % 4096, buffer := q.buffer ++ [{ seq := q.txSeq, bytes := bs, tries := 0 }], since := 0 })).onPort k bs

/-- The sender replays every unacknowledged flit in order (R313). -/
def State.replayPort (s : State) (k : Nat) : State :=
  let q := s.port k
  if q.buffer = [] then s
  else
    let s := s.updPort k (fun q => { q with replay := q.replay + 1, buffer := q.buffer.map (fun f => { f with tries := f.tries + 1 }) })
    q.buffer.foldl (fun s f => s.onPort k f.bytes) s

/-! ### Routing (R314, R315, R320) -/

/-- The dimensions of a domain. -/
def Domain.size (d : Domain) (a : Nat) : Nat := if a = 0 then d.dx else if a = 1 then d.dy else d.dz
/-- The module's own coordinates. -/
def Domain.own (d : Domain) (a : Nat) : Nat := if a = 0 then d.x else if a = 1 then d.y else d.z
/-- The coordinate of a member's module on an axis (R320). -/
def Domain.coord (d : Domain) (m a : Nat) : Nat :=
  if a = 0 then m / 2 % d.dx else if a = 1 then m / 2 / d.dx % d.dy else m / 2 / d.dx / d.dy

/-- The domain of a module that is in none: itself alone. -/
def Domain.alone : Domain := { id := 0, dx := 1, dy := 1, dz := 1, x := 0, y := 0, z := 0, pmask := 0, fwdp := 0, cred := [] }
/-- The domain, or the module alone. -/
def State.dom (s : State) : Domain := s.domain.getD Domain.alone
/-- The member at a die of a module. -/
def Domain.member (d : Domain) (die x y z : Nat) : Nat := die + 2 * (x + d.dx * (y + d.dy * z))
/-- The module's own member number of a die. -/
def State.member (s : State) (die : Nat) : Nat := s.dom.member die s.dom.x s.dom.y s.dom.z

/-- The direction of the first dimension in which a member's module lies elsewhere, and whether the hop wraps: the shorter
way, + when both are equal. -/
def Domain.route (d : Domain) (dst : Nat) : Option (Nat × Bool) :=
  ([0, 1, 2].find? (fun a => d.coord dst a ≠ d.own a)).map (fun a =>
    let n := d.size a
    let fwd := (d.coord dst a + n - d.own a) % n
    if 2 * fwd ≤ n then (2 * a, decide (d.own a + 1 = n)) else (2 * a + 1, decide (d.own a = 0)))

/-- Ports of a direction that are UP. -/
def State.upPorts (s : State) (dir : Nat) : List Nat := ([4 * dir, 4 * dir + 1, 4 * dir + 2, 4 * dir + 3] : List Nat).filter (fun k => (s.port k).state = .up)

/-- Credits that a port holds for a partition and virtual channel. -/
def Port.credit (q : Port) (p vc : Nat) : Nat := tget (fun _ => 0) q.credits (2 * p + vc)
/-- The port with credits changed. -/
def Port.setCredit (q : Port) (p vc n : Nat) : Port := { q with credits := tput (fun _ => 0) q.credits (2 * p + vc) n }

/-- A DATA flit leaves on the port of its direction whose turn it is among those that are UP (R333), once that port has room in its replay
buffer and a credit; the buffer it was received in is free again. A packet starts at its source once the fabric regulator lets it
(R295). None: it waits. -/
def State.tryFlit (s : State) (f : FlitOut) : Option State :=
  match s.dom.route f.dst with
  | none => some s
  | some (dir, wraps) =>
    let vc := if wraps then 1 else if f.dim = some (dir / 2) then f.vc else 0
    let ups := s.upPorts dir
    match ups[f.lane % ups.length]? with
    | none => none
    | some k =>
      if (s.port k).credit f.part vc = 0 ∨ 1024 ≤ (s.port k).buffer.length ∨ (0 < f.len ∧ !s.regOpen f.part 2) then none
      else
      let s := if f.len = 0 then s else s.charge f.part 2 f.len
      let s := (s.updPort k (fun q => q.setCredit f.part vc (q.credit f.part vc - 1))).sendSeq k 1 f.part vc f.nline f.dst f.src f.payload
      some (match f.from_ with
        | some j => s.sendIdle j f.part f.vc 1
        | none => s)

/-- A flit of the same partition from and to the same members waits before this one. -/
def State.blocked (s : State) (f : FlitOut) : Bool := s.outbox.any (fun g => g.part == f.part && g.src == f.src && g.dst == f.dst)

/-- Every waiting flit that can leave leaves, in order. -/
def State.pushFlits (s : State) : State :=
  s.outbox.foldl (fun s f => match (if s.blocked f then none else s.tryFlit f) with
    | some s => s
    | none => { s with outbox := s.outbox ++ [f] }) { s with outbox := [] }

/-- REGULATOR_REFILL's effect (R295), with the packets that waited for it. -/
def refillAll (s : State) : State := (refill s).pushFlits

/-! ### Receiving a flit (R312 to R314) -/

/-- A flit is rejected, or is not the next one: the receiver discards until the replay begins, and says so once. -/
def State.nakPort (s : State) (k : Nat) : State :=
  if (s.port k).nak then s else (s.updPort k (fun q => { q with nak := true })).sendIdle k 0 0 0

/-- The acknowledgement, credits and NAK of a header. -/
def State.takeAck (s : State) (k h : Nat) : State :=
  let ack := bits h 0 12
  let q := s.port k
  let left := if bit h 12 then q.buffer.filter (fun f => !(decide ((ack + 4096 - f.seq) % 4096 < 2048))) else q.buffer
  let s := s.updPort k (fun q => { q with buffer := left })
  let n := bits h 19 11
  let s := if n = 0 then s else s.updPort k (fun q => q.setCredit (bits h 14 4) (bits h 18 1) (q.credit (bits h 14 4) (bits h 18 1) + n))
  if bit h 13 then s.replayPort k else s

/-- A DATA flit for another module waits for its next hop; one for this module is delivered and its buffer is free. -/
def State.takeData (s : State) (k : Nat) (bs : List Byte) : State :=
  let w (i : Nat) : Nat := ofLe ((bs.drop (4 * i)).take 4)
  let f : FlitOut :=
    { part := bits (w 0) 4 4, dst := bits (w 2) 0 9, src := bits (w 2) 9 9, nline := bits (w 0) 9 3,
      dim := some (k / 8), vc := bits (w 0) 8 1, from_ := some k, lane := k % 4, len := 0, payload := (bs.drop 12).take 256 }
  match s.dom.route f.dst with
  | some _ => if k < 24 then { s with outbox := s.outbox ++ [f] } else s.sendIdle k f.part f.vc 1
  | none => s.sendIdle k f.part f.vc 1

/-- FLIT_RECEIVE. -/
def flitReceive (k : Nat) (f : Flit) (s : State) : State :=
  if (s.port k).state ≠ .up then s
  else
    let bs := f.bytes
    let bad := decide (bs.length ≠ 272 ∨ ofLe (bs.drop 268) ≠ crc32c (bs.take 268))
    let s := s.updPort k (fun q => { q with
      fec := q.fec + BitVec.ofNat 64 f.corrected, unc := q.unc + BitVec.ofNat 64 f.unc, crc := q.crc + BitVec.ofNat 64 (b2n bad) })
    let s := s.addRisk (2 * (f.unc + b2n bad))
    if f.uncorrectable ∨ bad then s.nakPort k
    else
      let w0 := ofLe (bs.take 4)
      let s := s.takeAck k (ofLe ((bs.drop 4).take 4))
      let ty := bits w0 0 4
      let seq := bits w0 12 12
      let q := s.port k
      let s :=
        if ty = 0 ∨ 4 ≤ ty then s
        else if seq = q.rxSeq then
          let s := s.updPort k (fun q => { q with rxSeq := (q.rxSeq + 1) % 4096, rxAny := true, nak := false, since := q.since + 1 })
          let s := if ty = 1 then s.takeData k bs else s
          if 64 ≤ (s.port k).since then s.sendIdle k 0 0 0 else s
        else if (seq + 4096 - q.rxSeq) % 4096 < 2048 then s.nakPort k
        else s
      s.pushFlits

/-- FLIT_REPLAY_TIMEOUT. -/
def flitTimeout (k : Nat) (s : State) : State := if (s.port k).state = .up then s.replayPort k else s

/-- ACK_TIMER: flits accepted since the last ACKSEQ are acknowledged. -/
def ackTimer (k : Nat) (s : State) : State :=
  if (s.port k).state = .up ∧ (0 < (s.port k).since ∨ (s.port k).nak) then s.sendIdle k 0 0 0 else s

/-! ### Retraining and training (R316, R317) -/

/-- A direction is used by the domain: its dimension has more than one module (R320). -/
def Domain.uses (d : Domain) (dir : Nat) : Bool := decide (dir < 6 ∧ 1 < d.size (dir / 2))

/-- A used direction has no port that is UP or training: its neighbour is unreachable, a module failure (R316). -/
def State.settleLinks (s : State) : State :=
  match s.domain with
  | none => s
  | some d =>
    if (List.range 6).any (fun dir => d.uses dir && ([4 * dir, 4 * dir + 1, 4 * dir + 2, 4 * dir + 3] : List Nat).all (fun k =>
        (s.port k).state != .up && (s.port k).state != .training)) then s.failModule else s

/-- A flit that a port has not got across travels on another one. -/
def flitAgain (k : Nat) (bs : List Byte) : List FlitOut :=
  let w (i : Nat) : Nat := ofLe ((bs.drop (4 * i)).take 4)
  if bits (w 0) 0 4 = 1 then
    [{ part := bits (w 0) 4 4, dst := bits (w 2) 0 9, src := bits (w 2) 9 9, nline := bits (w 0) 9 3, dim := some (k / 8),
       vc := bits (w 0) 8 1, from_ := none, lane := k % 4, len := 0, payload := (bs.drop 12).take 256 }]
  else []

/-- A port goes DOWN and is powered down; its unacknowledged DATA flits go to the others (R316, R434). -/
def State.portDown (s : State) (k : Nat) : State :=
  let fs := (s.port k).buffer.flatMap (fun f => flitAgain k f.bytes)
  let s := (s.updPort k (fun q => { q with powered := false, buffer := [] })).portTo k .down
  (({ s with outbox := fs ++ s.outbox } : State).settleLinks).pushFlits

/-- PORT_RETRAIN: a flit replayed 8 times, or FEC alignment lost; or a retrain that fails. Three failed retrains within 1 s
take the port DOWN. -/
def portRetrain (k : Nat) (fec failed : Bool) (s : State) : State :=
  let q := s.port k
  let start := decide (q.state = .up) && (q.buffer.any (fun f => decide (8 ≤ f.tries)) || fec)
  let again := decide (q.state = .training ∧ q.ver ≠ 0) && failed
  if !start && !again then s
  else
    let s := ((s.updPort k (fun q => { q with retrain := q.retrain + 1, buffer := q.buffer.map (fun f => { f with tries := 0 }) })).addRisk 512).portTo k .training
    if !failed then s
    else
      let fails := s.time :: q.fails.filter (fun t => s.time < t + second)
      let s := s.updPort k (fun q => { q with fails := fails })
      if 3 ≤ fails.length then s.portDown k else s

/-- The highest link protocol version that both ends support (R317). -/
def linkVersion (lo hi : Nat) : Option Nat := ([0x0101, 0x0100] : List Nat).find? (fun v => lo ≤ v ∧ v ≤ hi)

/-- The partner is the one that R311 and the configuration in force name. -/
def State.partnerOk (s : State) (k : Nat) (t : TrainInfo) : Bool :=
  if 24 ≤ k then
    t.port == k && (match s.twin with
      | some w => w.peer == t.serial
      | none => true)
  else
    t.port == 4 * ((k / 4) ^^^ 1) + k % 4 && (match s.domain with
      | some d =>
        let a := k / 8
        let n := d.size a
        let want (b : Nat) : Nat := if a ≠ b then d.own b else if k / 4 % 2 = 0 then (d.own b + 1) % n else (d.own b + n - 1) % n
        t.domain == 0 || (t.domain.toNat == d.id && t.x == want 0 && t.y == want 1 && t.z == want 2)
      | none => true)

/-- The credits that DOM_CONFIG allots (R314, R321). -/
def Domain.credits (d : Domain) : Tab Nat :=
  (List.range 32).foldl (fun t i => tput (fun _ => 0) t i (d.cred.getD (i / 2) 0)) []

/-- PORT_TRAINING_DONE. A port that fails may have been the last one of a direction that was not DOWN (R316). -/
def portTrained (k : Nat) (t : TrainInfo) (s : State) : State :=
  let q := s.port k
  if q.state ≠ .training ∨ !t.answers ∨ 26 ≤ k then s
  else
    match linkVersion t.verLo t.verHi with
    | none => (s.portTo k .versionFail).settleLinks
    | some v =>
      if !s.partnerOk k t then (s.portTo k .identFail).settleLinks
      else
        let first := decide (q.ver = 0)
        let s := (s.updPort k (fun q => { q with
          ver := v, nport := t.port, serial := t.serial, credits := if first then s.dom.credits else q.credits })).portTo k .up
        (s.replayPort k).pushFlits

/-! ### LINK_QUERY (R319) -/

/-- LINK_QUERY. -/
def hLinkQuery : Handler := fun c s =>
  if 26 ≤ c.p 0 then (s, no 0x15)
  else match s.blockRefusal c.part (c.w 1) 64 false true with
    | some st => (s, no st)
    | none =>
      let q := s.port (c.p 0)
      (s.awWrite c.part (c.w 1) (wordsLe [BitVec.ofNat 64 q.stat, q.fec, q.unc, q.crc, q.replay, q.retrain.setWidth 64, q.serial, 0]), ok)

/-! ### Schedule domains (R321, R322) -/

/-- The parameter block of DOM_CONFIG, and whether it is malformed. -/
def parseDomain (bs : List Byte) : Domain × Bool :=
  let w (i : Nat) : Nat := wordAt bs (8 * i)
  let d : Domain :=
    { id := bits (w 0) 0 32, dx := bits (w 0) 32 3 + 1, dy := bits (w 0) 35 3 + 1, dz := bits (w 0) 38 2 + 1, x := bits (w 0) 40 3, y := bits (w 0) 43 3,
      z := bits (w 0) 46 2, pmask := bits (w 0) 48 16, fwdp := bits (w 1) 0 32,
      cred := (List.range 16).map (fun p => ofLe ((bs.drop (16 + 2 * p)).take 2)) }
  (d, decide (d.id = 0 ∨ d.dx ≤ d.x ∨ d.dy ≤ d.y ∨ d.dz ≤ d.z ∨ bits (w 1) 32 32 ≠ 0 ∨ w 6 ≠ 0 ∨ w 7 ≠ 0 ∨ 4032 < 2 * d.cred.foldl (· + ·) 0))

/-- Ports that are DOWN, or failed in training, start training again. -/
def State.restartPorts (s : State) (ks : List Nat) : State :=
  ks.foldl (fun s k => match (s.port k).state with
    | .up => s
    | .training => s
    | _ => s.trainPort k) s

/-- DOM_CONFIG: starts, with the ports of the used directions trained anew where they are down. -/
def hDomConfig : Handler := withPb 0 64 (fun _ bs s =>
  let (d, bad) := parseDomain bs
  if bad then (s, no 0x11)
  else (s.restartPorts ((List.range 24).filter (fun k => d.uses (k / 4))), .bg))

/-- The domain has formed: its members take the time of the module at (0, 0, 0), which is ahead or behind (R322). -/
def State.formDomain (s : State) (d : Domain) : State :=
  let t := if d.x = 0 ∧ d.y = 0 ∧ d.z = 0 then s.ftime else Config.domainTime s.fresh
  let s : State := { s with domain := some d, fresh := s.fresh + 1, ftAdj := s.ftAdj + ((t : Int) - s.ftime), ftTenths := 0 }
  let s := (List.range 24).foldl (fun s k => s.updPort k (fun q => if q.state = .up then { q with credits := d.credits } else q)) s
  { s with fabs := tmap (fun _ => FabPart.reset) (fun _ f => { f with dig0 := 0, dig1 := 0 }) s.fabs }

/-- DOM_CONFIG ends: the block is read again as it stood, and what the other modules gave decides. -/
def finDomConfig (o : BgFind) (c : Cmd) (s : State) : State :=
  if awHost (c.w 0) ∧ !s.hostOpen c.part then s
  else
    let (d, bad) := parseDomain (s.awBytes c.part (c.w 0) 64)
    if bad then s.complete c 0x11 false 0 0
    else if o = .domainDiffers ∨ (List.range 24).any (fun k => d.uses (k / 4) && (s.port k).state == .identFail) then s.complete c 0x51 false 0 0
    else if o = .linkDown ∨ (List.range 6).any (fun dir => d.uses dir && (s.upPorts dir).isEmpty) then s.complete c 0x50 false 0 0
    else (s.formDomain d).complete c 0 false 0 0

/-- A partition has work running: launches, a serving run or a collective. -/
def State.working (s : State) (p : Nat) : Bool :=
  (oget s.runs p).isSome || s.launches.any (fun (_, l) => l.part == p) || s.cqs.any (fun (k, q) => k / 8 == p && q.run.isSome)

/-- The domain has a partition with work running. -/
def State.domainBusy (s : State) (d : Domain) : Bool := (List.range 16).any (fun p => bit d.pmask p && s.working p)

/-- The module leaves its domain. -/
def State.leaveDomain (s : State) : State := { s with domain := none, twin := none, outbox := [] }

/-- DOM_LEAVE: it waits until no partition in PMASK has work running (log 28). -/
def hDomLeave : Handler := fun _ s =>
  match s.domain with
  | none => (s, no 0x16)
  | some d => if s.domainBusy d then (s, .wait) else (s.leaveDomain, ok)

/-- Waiting DOM_LEAVE commands end once the work has: the first leaves, and one that finds no domain completes with ST_STATE. -/
def State.settleLeave (s : State) : State :=
  (s.journal.filter (fun c => c.code == 0x0801 && c.started)).foldl (fun s c => match s.domain with
    | none => s.complete c 0x16 false 0 0
    | some d => if s.domainBusy d then s else s.leaveDomain.complete c 0 false 0 0) s

/-- FTIME_QUERY. -/
def hFtimeQuery : Handler := fun _ s => (s, if s.domain.isSome then .done 0 s.ftime 0 else no 0x16)

/-- SYNC_FLIT: one is sent unless the replay buffer is full (R313), and fabric time moves by at most a tenth of a nanosecond, 100 ppm of the 1 µs between SYNC flits, toward the time
of the neighbour on the way to (0, 0, 0), or of the twin in domain B. `t`: that time, as received and corrected for the
link's delay. A step back is taken while time passes, so time never runs backward (R322). -/
def syncFlit (k : Nat) (t : W64) (s : State) : State :=
  if (s.port k).state ≠ .up then s
  else
    let s := if 1024 ≤ (s.port k).buffer.length then s else s.sendSeq k 3 0 0 4 0 0 ((List.range 256).map (Config.freeByte s.fresh))
    let s : State := { s with fresh := s.fresh + 1 }
    let follows : Bool :=
      if 24 ≤ k then (s.twin.map (fun w => w.roleB && !w.lost)).getD false
      else match s.domain with
        | some d => (match d.route 0 with
          | some (dir, _) => dir == k / 4
          | none => false)
        | none => false
    if !follows ∨ t.toNat = s.ftime then s
    else if s.ftime < t.toNat then
      if 9 ≤ s.ftTenths then { s with ftAdj := s.ftAdj + 1, ftTenths := s.ftTenths - 9 } else { s with ftTenths := s.ftTenths + 1 }
    else { s with ftTenths := s.ftTenths - 1 }

/-! ### Barriers (R320, R323, R324) -/

/-- The axes of a SPAN beyond the die reach other modules (R320). -/
def State.spanFar (s : State) (span : Nat) : Bool := [0, 1, 2].any (fun a => bit span (a + 1) && decide (1 < s.dom.size a))

/-- BARRIER_OPEN. -/
def barrierOpen (p i : Nat) (remote : Bool) (s : State) : State := barrierOpens p i remote s.spanFar s

/-- A write of FAB_BAR_CFG: it takes effect at once where no arrival is counted, else at the barrier's next opening. -/
def barCfg (p die i : Nat) (v : W64) (s : State) : State :=
  let b := s.bar p die i
  let b := { b with en := v.getLsbD 0, span := bits v.toNat 1 4, arrive := bits v.toNat 5 12 }
  if 256 ≤ i ∨ 2 ≤ die ∨ 16 ≤ p then s else s.setBar p die i (if b.arrivals = [] then b.applyCfg else b)

/-- A write of FAB_CQ_CFG (R327): EN from 0 to 1 sets N to 0 and clears FAULT; other fields only while EN = 0. -/
def cqCfg (p die q : Nat) (v : W64) (s : State) : State :=
  if 4 ≤ q ∨ 2 ≤ die ∨ 16 ≤ p then s
  else s.updCq p die q (fun c =>
    let on := v.getLsbD 0
    if c.en then { c with en := on }
    else
      let c := { c with log2n := bits v.toNat 1 4, psem := bits v.toNat 5 12 }
      if on then { c with en := true, n := 0, fault := false, run := none, ready := [] } else c)

/-! ### The twin pair (R340 to R343, R366) -/

/-- The parameter block of TWIN_CONFIG, and whether it is malformed. -/
def parseTwin (bs : List Byte) (dmask : Nat) : Twin × Bool :=
  let w (i : Nat) : Nat := wordAt bs (8 * i)
  let ms := bits (w 2) 16 10
  let t : Twin :=
    { pair := bits (w 0) 0 32, roleB := bit (w 0) 32, peer := BitVec.ofNat 64 (w 1), pmask := bits (w 2) 0 16, waitMs := if ms = 0 then 1000 else ms,
      lost := false, beat := 0 }
  (t, decide (t.pair = 0 ∨ bits (w 0) 33 31 ≠ 0 ∨ bits (w 2) 26 38 ≠ 0 ∨ (0 < ms ∧ ms < 10) ∨ 1000 < ms ∨ t.pmask &&& dmask ≠ t.pmask ∨
    [3, 4, 5, 6, 7].any (fun i => w i ≠ 0)))

/-- PMASK of the domain in force. -/
def State.dmask (s : State) : Nat := match s.domain with
  | some d => d.pmask
  | none => 0

/-- TWIN_CONFIG: starts, with the twin ports trained anew where they are down. -/
def hTwinConfig : Handler := withPb 0 64 (fun _ bs s =>
  if (parseTwin bs s.dmask).2 then (s, no 0x11) else (s.restartPorts [24, 25], .bg))

/-- TWIN_CONFIG ends. -/
def finTwinConfig (o : BgFind) (c : Cmd) (s : State) : State :=
  if awHost (c.w 0) ∧ !s.hostOpen c.part then s
  else
    let (t, bad) := parseTwin (s.awBytes c.part (c.w 0) 64) s.dmask
    let up := [24, 25].any (fun k => (s.port k).state == .up && (s.port k).serial == t.peer)
    if bad then s.complete c 0x11 false 0 0
    else if o = .domainDiffers then s.complete c 0x51 false 0 0
    else if o = .linkDown ∨ !up then s.complete c 0x50 false 0 0
    else ({ s with twin := some t } : State).complete c 0 false 0 0

/-- TWIN_HEARTBEAT: one is sent each millisecond. -/
def twinHeartbeat (s : State) : State :=
  match s.twin with
  | some t => if t.lost ∨ s.health.failed then s else ({ s with twin := some { t with beat := t.beat + 1 } } : State).tell (.twin 0 0 [])
  | none => s

/-- The twin is lost from now on, and the members of the domain are told (R343). -/
def State.twinLost (s : State) : State :=
  match s.twin with
  | some t => if t.lost then s else (s.tell (.domain 3 0 [])).twinGone 1
  | none => s

/-- TWIN_WAIT_TIMEOUT: the twin's digest for a partition's boundary has not arrived within TWIN_WAIT. -/
def twinWait (p : Nat) (s : State) : State :=
  match oget s.runs p with
  | some r => if r.wait = 2 then s.twinLost else s
  | none => s

/-- ADMISSION_COUNT_RECEIVE: the leader's counts of its next tick, by queue pair (R341). -/
def admissionCounts (p : Nat) (ns : List (Nat × Nat)) (s : State) : State :=
  if s.twinned p then s.updFab p (fun f => { f with counts := f.counts ++ [ns] }) else s

/-! ### Commands -/

/-- DOM_CONFIG. -/
def execDomConfig (m : Nat) (h : CmdHdr) (pb : W64) (s : State) : Host.Outcome State Fault Refusal := .next (runCmd m h 0x0800 [pb] hDomConfig s)
/-- DOM_LEAVE. -/
def execDomLeave (m : Nat) (h : CmdHdr) (s : State) : Host.Outcome State Fault Refusal := .next (runCmd m h 0x0801 [] hDomLeave s)
/-- LINK_QUERY. -/
def execLinkQuery (m : Nat) (h : CmdHdr) (port resp : W64) (s : State) : Host.Outcome State Fault Refusal :=
  .next (runCmd m h 0x0802 [port, resp] hLinkQuery s)
/-- TWIN_CONFIG. -/
def execTwinConfig (m : Nat) (h : CmdHdr) (pb : W64) (s : State) : Host.Outcome State Fault Refusal := .next (runCmd m h 0x0803 [pb] hTwinConfig s)
/-- FTIME_QUERY. -/
def execFtimeQuery (m : Nat) (h : CmdHdr) (s : State) : Host.Outcome State Fault Refusal := .next (runCmd m h 0x0804 [] hFtimeQuery s)
/-- FLIT_RECEIVE. -/
def execFlitReceive (k : Nat) (f : Flit) (s : State) : Host.Outcome State Fault Refusal := .next (flitReceive k f s)
/-- FLIT_REPLAY_TIMEOUT. -/
def execFlitReplayTimeout (k : Nat) (s : State) : Host.Outcome State Fault Refusal := .next (flitTimeout k s)
/-- ACK_TIMER. -/
def execAckTimer (k : Nat) (s : State) : Host.Outcome State Fault Refusal := .next (ackTimer k s)
/-- PORT_RETRAIN. -/
def execPortRetrain (k : Nat) (fec failed : Bool) (s : State) : Host.Outcome State Fault Refusal := .next (portRetrain k fec failed s)
/-- PORT_TRAINING_DONE. -/
def execPortTrainingDone (k : Nat) (t : TrainInfo) (s : State) : Host.Outcome State Fault Refusal := .next (portTrained k t s)
/-- SYNC_FLIT. -/
def execSyncFlit (k : Nat) (t : W64) (s : State) : Host.Outcome State Fault Refusal := .next (syncFlit k t s)
/-- REGULATOR_REFILL. -/
def execRegulatorRefill (s : State) : Host.Outcome State Fault Refusal := .next (refillAll s)
/-- BARRIER_OPEN. -/
def execBarrierOpen (p i : Nat) (remote : Bool) (s : State) : Host.Outcome State Fault Refusal := .next (barrierOpen p i remote s)
/-- FAB_BAR_CFG_WRITE. -/
def execFabBarCfgWrite (p die b : Nat) (v : W64) (s : State) : Host.Outcome State Fault Refusal := .next (barCfg p die b v s)
/-- FAB_CQ_CFG_WRITE. -/
def execFabCqCfgWrite (p die q : Nat) (v : W64) (s : State) : Host.Outcome State Fault Refusal := .next (cqCfg p die q v s)
/-- TWIN_HEARTBEAT. -/
def execTwinHeartbeat (s : State) : Host.Outcome State Fault Refusal := .next (twinHeartbeat s)
/-- TWIN_HEARTBEAT_TIMEOUT. -/
def execTwinHeartbeatTimeout (s : State) : Host.Outcome State Fault Refusal := .next s.twinLost
/-- TWIN_WAIT_TIMEOUT. -/
def execTwinWaitTimeout (p : Nat) (s : State) : Host.Outcome State Fault Refusal := .next (twinWait p s)
/-- TWIN_REPLAY_NOTICE. -/
def execTwinReplayNotice (s : State) : Host.Outcome State Fault Refusal := .next s.twinLost
/-- ADMISSION_COUNT_RECEIVE. -/
def execAdmissionCountReceive (p : Nat) (ns : List (Nat × Nat)) (s : State) : Host.Outcome State Fault Refusal := .next (admissionCounts p ns s)

end Sys2Proof.Machine
end

