-- ==== Sys2Proof/Machine/Collect.lean ====
section
/-!
DEFINITION. Collectives (R327 to R335), tile forwarding (R336) and result digests (R337).
-/

namespace Sys2Proof.Machine

/-! ### Descriptors (R328) -/

/-- The fields of a collective descriptor. -/
structure CollD where
  op : Nat
  ifmt : Nat
  ofmt : Nat
  rop : Nat
  exact : Bool
  var : Bool
  span : Nat
  xq : Int
  clog : Nat
  count : Nat
  src : Nat
  dst : Nat
  peer : Nat
  thresh : Nat
  csem : Option Nat
  dsem : Option Nat
  wsem : Option (Nat × Nat)
  tag : Nat
  sig : Nat                            -- word 0x00 with VAR cleared
  deriving DecidableEq, Repr

/-- The fields of the 16 words. -/
def parseColl (ws : List W64) : CollD :=
  let w (i : Nat) : Nat := (ws.getD i 0).toNat
  { op := bits (w 0) 0 4, ifmt := bits (w 0) 4 4, ofmt := bits (w 0) 8 4, rop := bits (w 0) 12 2, exact := bit (w 0) 14, var := bit (w 0) 15,
    span := bits (w 0) 16 4, xq := signed 8 (bits (w 0) 20 8), clog := bits (w 0) 28 3, count := bits (w 0) 32 32, src := bits (w 1) 0 48,
    dst := bits (w 2) 0 48, peer := bits (w 3) 0 9, thresh := bits (w 3) 32 32,
    csem := if bit (w 4) 12 then some (bits (w 4) 0 12) else none, dsem := if bit (w 4) 44 then some (bits (w 4) 32 12) else none,
    wsem := if bit (w 5) 12 then some (bits (w 5) 0 12, bits (w 5) 32 32) else none, tag := w 6,
    sig := w 0 - (if bit (w 0) 15 then 2 ^ 15 else 0) }

/-- A format that a reduce-scatter takes and gives. -/
def collFmt (f : Nat) : Bool := f == 0 || f == 1 || f == 2 || f == 9

/-- The descriptor is malformed (R328, R335). `members`: the members of the domain. -/
def collBad (ws : List W64) (members : Nat) : Bool :=
  let w (i : Nat) : Nat := (ws.getD i 0).toNat
  let d := parseColl ws
  decide (d.op = 0 ∨ 4 < d.op ∨ bit (w 0) 31 = true ∨ 6 < d.clog ∨ bits (w 1) 48 16 ≠ 0 ∨ bits (w 2) 48 16 ≠ 0 ∨ bits (w 3) 9 23 ≠ 0 ∨
    bits (w 4) 13 19 ≠ 0 ∨ bits (w 4) 45 19 ≠ 0 ∨ bits (w 5) 13 19 ≠ 0) || [7, 8, 9, 10, 11, 12, 13, 14, 15].any (fun i => w i ≠ 0) ||
  (if d.op = 1 then !collFmt d.ifmt || !collFmt d.ofmt || d.rop == 3 || (d.exact && decide (d.rop ≠ 0 ∨ d.xq < -80 ∨ 16 < d.xq))
   else decide (d.ifmt ≠ 0 ∨ d.ofmt ≠ 0)) ||
  (d.op == 2 && decide (d.count % 64 ≠ 0)) || (decide (3 ≤ d.op) && decide (d.span ≠ 0 ∨ members ≤ d.peer))

/-! ### Members and stages (R320, R330, R331) -/

/-- The size of an axis: 0 die, 1 X, 2 Y, 3 Z. -/
def Domain.axis (d : Domain) (a : Nat) : Nat := if a = 0 then 2 else d.size (a - 1)
/-- The coordinate of the own member on an axis. -/
def Domain.at_ (d : Domain) (die a : Nat) : Nat := if a = 0 then die else d.own (a - 1)
/-- The spanned axes of more than one member, die first. -/
def Domain.axes (d : Domain) (span : Nat) : List Nat := [0, 1, 2, 3].filter (fun a => bit span a && decide (1 < d.axis a))
/-- The number of members of a span. -/
def Domain.count (d : Domain) (span : Nat) : Nat := ((d.axes span).map d.axis).foldl (· * ·) 1
/-- The member that agrees with the own one but for its coordinate on an axis. -/
def Domain.along (d : Domain) (die a c : Nat) : Nat :=
  let g (b : Nat) : Nat := if a = b then c else d.at_ die b
  d.member (g 0) (g 1) (g 2) (g 3)
/-- The rank of the own member (R320). -/
def Domain.rank (d : Domain) (die span : Nat) : Nat := (d.axes span).foldr (fun a r => d.at_ die a + d.axis a * r) 0
/-- The member of a rank, from the spanned axes on. -/
def memberAt (d : Domain) (g : Nat → Nat) : List Nat → Nat → Nat
  | [], _ => d.member (g 0) (g 1) (g 2) (g 3)
  | a :: rest, r => memberAt d (fun b => if b = a then r % d.axis a else g b) rest (r / d.axis a)
/-- The member of a rank. -/
def Domain.ofRank (d : Domain) (die span r : Nat) : Nat := memberAt d (d.at_ die) (d.axes span) r

/-- One stage: a ring over an axis of `n` members where the own coordinate is `c`, or an exchange of recursive doubling over
bit `s` of the rank. -/
inductive CollStage where
  | ring (axis n c : Nat)
  | pair (s : Nat)
  deriving DecidableEq, Repr

/-- The exponent of a power of two, if it is one. -/
def log2Exact (p : Nat) : Option Nat := (List.range 10).find? (fun l => 2 ^ l = p)

/-- The stages of a collective in order. -/
def Domain.stages (d : Domain) (die : Nat) (x : CollD) (dbl : Bool) : List CollStage :=
  let asc : List CollStage :=
    if dbl then (List.range ((log2Exact (d.count x.span)).getD 0)).reverse.map .pair
    else (d.axes x.span).map (fun a => .ring a (d.axis a) (d.at_ die a))
  if x.op = 1 then asc else if x.op = 2 then asc.reverse else []

/-! ### Values (R332) -/

/-- An exact-mode value as it travels: N and its class. -/
def exactOf (n : Int) (cls : Nat) : Nat := unsigned 96 n + 2 ^ 96 * cls
/-- A value in the exact format, unless it lies outside. -/
def exactFit (n : Int) : Option Nat := if -(2 ^ 95 : Int) ≤ n ∧ n < 2 ^ 95 then some (exactOf n 0) else none
/-- Adding two exact-mode values; none where a finite partial lies outside -2^95 to 2^95 - 1. -/
def exactAdd (a b : Nat) : Option Nat :=
  let ca := bits a 96 2
  let cb := bits b 96 2
  if ca = 0 ∧ cb = 0 then exactFit (signed 96 a + signed 96 b)
  else if ca = 0 then some (exactOf 0 cb)
  else if cb = 0 ∨ ca = cb then some (exactOf 0 ca)
  else some (exactOf 0 3)

/-- An input element as it is combined: FP32 or INT32 bits, or the exact format. -/
def CollD.enter (x : CollD) (w : Nat) : Option Nat :=
  let v := elemVal x.ifmt 0 w
  if x.exact then
    match v with
    | .nan => some (exactOf 0 3)
    | .inf n => some (exactOf 0 (if n then 2 else 1))
    | v => exactFit (Fp.floor (Fp.scale2 v (-x.xq)))
  else if x.ifmt = 9 then some (w % 2 ^ 32)
  else some (Fp.to32 v)

/-- add of R332. -/
def CollD.add (x : CollD) (a b : Nat) : Option Nat :=
  if x.exact then exactAdd a b
  else if x.ifmt = 9 then
    some (match x.rop with
      | 0 => (a + b) % 2 ^ 32
      | 1 => if signed 32 a < signed 32 b then b else a
      | _ => if signed 32 a < signed 32 b then a else b)
  else
    some (Fp.to32 (match x.rop with
      | 0 => Fp.add (Fp.of32 a) (Fp.of32 b)
      | 1 => Fp.max (Fp.of32 a) (Fp.of32 b)
      | _ => Fp.min (Fp.of32 a) (Fp.of32 b)))

/-- The value of a combined element. -/
def CollD.value (x : CollD) (w : Nat) : Fp :=
  if x.exact then
    match bits w 96 2 with
    | 0 => Fp.scale2 (Fp.ofInt (signed 96 w)) x.xq
    | 1 => .inf false
    | 2 => .inf true
    | _ => .nan
  else if x.ifmt = 9 then Fp.ofInt (signed 32 w)
  else Fp.of32 w

/-- Bytes of an output item: an element, or a byte. -/
def CollD.outBytes (x : CollD) : Nat := if x.op = 1 then fmtBits x.ofmt / 8 else 1
/-- An output item as bytes. -/
def CollD.out (x : CollD) (w : Nat) : List Byte := if x.op = 1 then toLe x.outBytes (toFmt x.ofmt (x.value w)) else [BitVec.ofNat 8 w]
/-- Bytes of an item as it travels. -/
def CollD.itemBytes (x : CollD) : Nat := if x.op ≠ 1 then 1 else if x.exact then 16 else 4
/-- Items of a full chunk (R333). -/
def CollD.chunkItems (x : CollD) : Nat := 2 ^ (16 + x.clog) / x.itemBytes
/-- Items as bytes of a chunk. -/
def CollD.pack (x : CollD) (is : List Nat) : List Byte := is.flatMap (toLe x.itemBytes)
/-- Items from the bytes of a chunk. -/
def CollD.unpack (x : CollD) (bs : List Byte) : List Nat :=
  (List.range (bs.length / x.itemBytes)).map (fun i => ofLe ((bs.drop (i * x.itemBytes)).take x.itemBytes))

/-- Elementwise add; none on COLL_OVERFLOW. -/
def CollD.addAll (x : CollD) : List Nat → List Nat → Option (List Nat)
  | a :: as, b :: bs => match x.add a b, CollD.addAll x as bs with
    | some c, some cs => some (c :: cs)
    | _, _ => none
  | _, _ => some []

/-- Consecutive pieces of `k` items. -/
def pieces {α : Type} (k : Nat) (xs : List α) : List (List α) :=
  if k = 0 then [] else (List.range (ceilDiv xs.length k)).map (fun i => (xs.drop (i * k)).take k)

/-! ### What a stage moves (R331) -/

/-- The whole data of a block of the member's own at a stage. -/
def CollD.block (x : CollD) (st : CollStage) (vec : List Nat) (j : Nat) : List Nat :=
  match st with
  | .ring _ n _ => if x.op = 2 then vec else ((pieces x.count vec).zipIdx.filter (fun p => p.2 % n = j)).flatMap (·.1)
  | .pair _ => if x.op = 2 then vec else if j = 0 then vec.take (vec.length / 2) else vec.drop (vec.length / 2)

/-- Items of a block of a stage. -/
def CollD.blockLen (x : CollD) (st : CollStage) (vec : List Nat) : Nat :=
  if x.op = 2 then vec.length
  else match st with
    | .ring _ n _ => vec.length / n
    | .pair _ => vec.length / 2

/-- Items of one of its halves: 0 the first, rounded up, 1 the rest. An exchange of doubling is not halved. -/
def CollD.halfLen (x : CollD) (st : CollStage) (vec : List Nat) (half : Nat) : Nat :=
  let n := x.blockLen st vec
  match st with
  | .ring _ _ _ => if half = 0 then (n + 1) / 2 else n / 2
  | .pair _ => if half = 0 then n else 0

/-- A half of a block. -/
def CollD.half (x : CollD) (st : CollStage) (vec : List Nat) (j half : Nat) : List Nat :=
  let b := x.block st vec j
  let n := x.halfLen st vec 0
  if half = 0 then b.take n else b.drop n

/-- Transfers that a half receives in a stage. -/
def CollStage.rounds : CollStage → Nat
  | .ring _ n _ => n - 1
  | .pair _ => 1

/-- The block of round `r` as it is received; sent on, it is the block of the next round. -/
def CollD.blockOf (x : CollD) (st : CollStage) (rank r half : Nat) : Nat :=
  match st with
  | .ring _ n c => if x.op = 1 then (if half = 0 then (c + 2 * n - 1 - r) % n else (c + 1 + r) % n) else if half = 0 then (c + r) % n else (c + n - r) % n
  | .pair s => if x.op = 1 then rank / 2 ^ s % 2 else 1 - rank / 2 ^ s % 2

/-- The member that a half comes from, and the member it goes to. -/
def CollD.peers (x : CollD) (d : Domain) (die : Nat) (st : CollStage) (half : Nat) : Nat × Nat :=
  match st with
  | .ring a n c =>
    let up := d.along die a ((c + 1) % n)
    let dn := d.along die a ((c + n - 1) % n)
    if (x.op == 1) == (half == 0) then (dn, up) else (up, dn)
  | .pair s =>
    let m := d.ofRank die x.span (d.rank die x.span ^^^ 2 ^ s)
    (m, m)

/-- The feed of a half. -/
def Coll.feed (c : Coll) (half : Nat) : Feed := if half = 0 then c.lo else c.hi
/-- The collective with a half's feed replaced. -/
def Coll.setFeed (c : Coll) (half : Nat) (f : Feed) : Coll := if half = 0 then { c with lo := f } else { c with hi := f }
/-- Items held under a key. -/
def Coll.held (c : Coll) (k : Nat) : List Nat := (oget c.blocks k).getD []

/-- Every transfer of a half has been received. -/
def CollD.fed (x : CollD) (st : CollStage) (c : Coll) (half : Nat) : Bool :=
  x.halfLen st c.vec half == 0 || decide (st.rounds ≤ (c.feed half).k)

/-- The blocks in place of each other after a ring stage of an all-gather: shards in ascending order. -/
def interleave {α : Type} (count n : Nat) (block : Nat → List α) : List α :=
  let m := (block 0).length / max 1 count
  (List.range (m * n)).flatMap (fun i => ((block (i % n)).drop (i / n * count)).take count)

/-- The member's data after a stage. -/
def CollD.result (x : CollD) (st : CollStage) (rank : Nat) (c : Coll) : List Nat :=
  match st with
  | .ring _ n own =>
    if x.op = 1 then c.held 0 ++ c.held 1
    else interleave x.count n (fun j => if j = own then c.vec else c.held (2 * j) ++ c.held (2 * j + 1))
  | .pair s => if x.op = 1 then c.held 0 else if rank / 2 ^ s % 2 = 1 then c.held 0 ++ c.vec else c.vec ++ c.held 0

/-- A list of what is known, padded with what is not. -/
def known (n : Nat) (xs : List Nat) : List (Option Nat) := xs.map some ++ List.replicate (n - xs.length) none

/-- The output as far as it is final (R333). -/
def CollD.final (x : CollD) (d : Domain) (die : Nat) (c : Coll) : List (Option Nat) :=
  let sts := d.stages die x c.dbl
  if x.op = 3 then []
  else if x.op = 4 then known x.count (c.held 0)
  else if sts.length ≤ c.stage then c.vec.map some
  else if c.stage + 1 < sts.length then []
  else match sts[c.stage]? with
    | none => []
    | some st =>
      let l0 := x.halfLen st c.vec 0
      let l1 := x.halfLen st c.vec 1
      if x.op = 1 then known l0 (c.held 0) ++ known l1 (c.held 1)
      else match st with
        | .ring _ n own =>
          interleave x.count n (fun j => if j = own then c.vec.map some else known l0 (c.held (2 * j)) ++ known l1 (c.held (2 * j + 1)))
        | .pair s => if d.rank die x.span / 2 ^ s % 2 = 1 then known l0 (c.held 0) ++ c.vec.map some else c.vec.map some ++ known l0 (c.held 0)

/-- Output items in all. -/
def CollD.outItems (x : CollD) (p : Nat) : Nat := if x.op = 3 then 0 else if x.op = 2 then p * x.count else x.count

/-! ### Sending (R315, R333, R337) -/

/-- The digest of a chunk: CRC-64 over the words 0x00 to 0x17 of its first header and its data (R337). -/
def chunkDigest (w0 sig w2 : W64) (data : List Byte) : W64 := BitVec.ofNat 64 (crc64 (wordsLe [w0, sig, w2] ++ data))

/-- A chunk enters a die's result digest. -/
def State.digest (s : State) (p die : Nat) (h : W64) : State :=
  s.updFab p (fun f => if die = 0 then { f with dig0 := f.dig0 ^^^ h } else { f with dig1 := f.dig1 ^^^ h })

/-- The packets of a chunk from the addresses and data of its pieces (R315). -/
def cutPackets (ps : List (Nat × List Byte)) : List (Nat × List Byte) :=
  ps.flatMap (fun (a, bs) => (pieces 4032 bs).zipIdx.map (fun (b, i) => (a + 4032 * i, b)))

/-- The flits of a packet: its header and data in payloads of 256 B. -/
def packetFlits (p src dst lane : Nat) (w0 sig w2 : W64) (addr : Nat) (data : List Byte) (last : Option Nat) : List FlitOut :=
  let tail : List W64 := [BitVec.ofNat 64 addr, BitVec.ofNat 64 (data.length + 2 ^ 12 * b2n last.isSome), BitVec.ofNat 64 (last.getD 0), 0, 0]
  (pieces 256 (wordsLe ([w0, sig, w2] ++ tail) ++ data)).zipIdx.map (fun (bs, i) =>
    { part := p, dst := dst, src := src, nline := ceilDiv bs.length 64, dim := none, vc := 0, from_ := none, lane := lane,
      len := if i = 0 then data.length else 0, payload := bs })

/-- The member is the other compute die of this module, reached over the bridge. -/
def State.onBridge (s : State) (die m : Nat) : Bool := m == s.member (1 - die)

/-- A chunk goes to a member: over the bridge, or in packets on the fabric that take the UP ports of their direction in turn (R333). -/
def State.putChunk (s : State) (p die peer : Nat) (w0 sig w2 : W64) (ps : List (Nat × List Byte)) : State :=
  let data := ps.flatMap (·.2)
  if s.onBridge die peer then { s with sent := s.sent ++ [.bridge (1 - die) [w0, sig, w2] data] }
  else
    let cut := cutPackets ps
    let dir := ((s.dom.route peer).map (·.1)).getD 0
    let lane := tget (fun _ => 0) s.lanes dir
    let fs := cut.zipIdx.flatMap (fun ((a, bs), i) =>
      packetFlits p (s.member die) peer (lane + i) w0 sig w2 a bs (if i + 1 = cut.length then some (crc32c data) else none))
    ({ s with outbox := s.outbox ++ fs, lanes := tput (fun _ => 0) s.lanes dir (lane + cut.length) } : State).pushFlits

/-- A chunk is sent for the first time: it enters the result digest (R337). -/
def State.sendChunk (s : State) (p die peer : Nat) (w0 sig w2 : W64) (ps : List (Nat × List Byte)) : State :=
  (s.digest p die (chunkDigest w0 sig w2 (ps.flatMap (·.2)))).putChunk p die peer w0 sig w2 ps

/-- Chunks sent to a member so far. -/
def Coll.sentTo (c : Coll) (m : Nat) : Nat := ((c.sent.find? (fun x => x.1 = m)).map (·.2)).getD 0

/-- Word 0x00 of the packet headers of a collective queue's descriptor in progress (R315). -/
def State.collWord0 (s : State) (p die q : Nat) (x : CollD) : W64 :=
  BitVec.ofNat 64 ((if x.op ≤ 2 then 1 else 2) + 2 ^ 4 * q + 2 ^ 32 * (s.cq p die q).n)

/-- A transfer of items to a member, cut into chunks, which the staging memory keeps until they are accepted (R333). Where the receiver
places them is its own matter. -/
def State.sendItems (s : State) (p die q : Nat) (x : CollD) (m : Nat) (is : List Nat) : State :=
  (pieces x.chunkItems is).foldl (fun s b =>
    match (s.cq p die q).run with
    | none => s
    | some c =>
      let no := c.sentTo m
      let ps := [(Config.peerAddr s.fresh, x.pack b)]
      let s1 := s.updCq p die q (fun k => { k with run := some { c with
        sent := (m, no + 1) :: c.sent.filter (fun y => y.1 ≠ m), staged := c.staged ++ [{ dst := m, no := no, pieces := ps }] } })
      s1.bump.sendChunk p die m (s.collWord0 p die q x) (BitVec.ofNat 64 x.sig) (BitVec.ofNat 64 no) ps) s

/-- A SEND's chunks go out: its RECV has started (R334). One lane stands for its one transfer. -/
def State.sendAll (s : State) (p die q : Nat) (x : CollD) : State :=
  (s.updCq p die q (fun k => { k with run := k.run.map (fun c => { c with lo := { c.lo with k := 1 } }) })).sendItems p die q x x.peer
    ((s.seenBytes x.src x.count).map BitVec.toNat)

/-! ### Faults (R335) -/

/-- A running launch ends where it is: what it has not finished counts in FAULTS. -/
def State.haltLaunch (s : State) (key : Nat) (l : Launch) : State :=
  let s := s.killLaunch key l
  { s with launches := tins s.launches key { l with killed := true, begun := l.ended, engines := [] } }

/-- A launch uses a die. -/
def Launch.onDie (l : Launch) (die : Nat) : Bool :=
  l.engineList.any (fun n => (if l.k.kind = 0 then n / 64 else if l.k.kind = 1 then n / 16 else n / 2) == die)

/-- A collective queue faults: its record, and the end of the step or of the partition's running launches on the die. -/
def State.collFault (s : State) (p die q code peer chunk : Nat) : State :=
  let c := s.cq p die q
  let at_ := c.base + 128 * (c.n % 2 ^ c.log2n)
  let tag := match c.run with
    | some r => (r.words.getD 6 0).toNat
    | none => if s.permits p at_ 128 true false false then s.le (at_ + 0x30) 8 else 0
  let rec_ := wordsLe ([code + 2 ^ 16 * die + 2 ^ 17 * q, c.n, tag, peer + 2 ^ 32 * chunk, 0, 0, 0, 0].map (BitVec.ofNat 64))
  let a := c.base + 128 * 2 ^ c.log2n
  let s := s.updCq p die q (fun c => { c with fault := true, run := none })
  let s := if s.permits p a 64 false true false then s.write a rec_ else s
  let halt (s : State) (step : Bool) : State :=
    (s.launches.filter (fun (_, l) => l.part == p && l.started && (l.step.isSome == step) && l.onDie die)).foldl (fun s (k, l) => s.haltLaunch k l) s
  match oget s.runs p with
  | some r =>
    if r.inStep then
      let s := if !r.faulted ∧ r.faultAddr ≠ 0 ∧ s.permits p r.faultAddr 64 false true false then s.write r.faultAddr rec_ else s
      halt ((s.updRun p (fun r => { r with faulted := true })).dropUnstarted p) true
    else halt s false
  | none => halt s false

/-- The other members of a collective. -/
def CollD.others (x : CollD) (d : Domain) (die : Nat) : List Nat :=
  if 3 ≤ x.op then [x.peer]
  else ((List.range (d.count x.span)).map (d.ofRank die x.span)).filter (· ≠ d.member die d.x d.y d.z)

/-- COLL_MISMATCH: the queue faults and tells every member of the collective. -/
def State.collMismatch (s : State) (p die q peer chunk : Nat) (x : CollD) : State :=
  let s := s.collFault p die q 0x31 peer chunk
  (x.others s.dom die).foldl (fun s m => s.tell (.abort p die q m)) s

/-! ### Progress (R329, R331, R333) -/

/-- Output chunks that are final are written and signalled, in ascending order. -/
def collOutputs (p die q : Nat) (x : CollD) (out : List (Option Nat)) : Nat → State → State
  | 0, s => s
  | fuel + 1, s =>
    match (s.cq p die q).run with
    | none => s
    | some c =>
      let n := 2 ^ (16 + x.clog) / x.outBytes
      let ch := (out.drop (c.outs * n)).take n
      if ch = [] ∨ ch.any Option.isNone then s
      else
        let a := x.dst + c.outs * n * x.outBytes
        let bs := ch.flatMap (fun v => x.out (v.getD 0))
        let s := (s.chargeLines p [(a, bs.length)]).write a bs
        let inLen := if x.op = 1 then s.dom.count x.span * x.count * (fmtBits x.ifmt / 8) else x.count
        let s := if x.op ≤ 2 ∧ s.poisoned x.src inLen then s.taint a bs.length else s
        let s := s.updCq p die q (fun k => { k with run := some { c with outs := c.outs + 1 } })
        match x.csem with
        | none => collOutputs p die q x out fuel s
        | some i => match s.semAdd die i 1 with
          | some s => collOutputs p die q x out fuel s
          | none => s.collFault p die q 5 0 0

/-- The first transfers of a stage are sent, the first half before the second. -/
def State.openStage (s : State) (p die q : Nat) (x : CollD) (c : Coll) (st : CollStage) : State :=
  let rank := s.dom.rank die x.span
  let send (s : State) (half : Nat) : State :=
    let j := match st with
      | .ring _ _ _ => x.blockOf st rank 0 half
      | .pair t => if x.op = 1 then 1 - rank / 2 ^ t % 2 else 0
    if x.halfLen st c.vec half = 0 then s else s.sendItems p die q x (x.peers s.dom die st half).2 (x.half st c.vec j half)
  send (send s 0) 1

/-- The second half's feed as a stage begins: in a ring of 2 both halves come from one member, the first half first. -/
def CollD.hiStart (x : CollD) (st : Option CollStage) (vec : List Nat) : Feed :=
  match st with
  | some (.ring a n c) => if n = 2 then { Feed.start with no := ceilDiv (x.halfLen (.ring a n c) vec 0) x.chunkItems } else Feed.start
  | _ => Feed.start

/-- A stage whose transfers have all been received is followed by the next. -/
def collAdvance (p die q : Nat) (x : CollD) : Nat → State → State
  | 0, s => s
  | fuel + 1, s =>
    match (s.cq p die q).run with
    | none => s
    | some c =>
      match (s.dom.stages die x c.dbl)[c.stage]? with
      | none => s
      | some st =>
        if !x.fed st c 0 || !x.fed st c 1 then s
        else
          let vec := x.result st (s.dom.rank die x.span) c
          let next := (s.dom.stages die x c.dbl)[c.stage + 1]?
          let hi := x.hiStart next vec
          let c2 : Coll := { c with stage := c.stage + 1, vec := vec, lo := Feed.start, hi := hi, blocks := [] }
          let s := s.updCq p die q (fun k => { k with run := some c2 })
          match next with
          | some st2 => collAdvance p die q x fuel (s.openStage p die q x c2 st2)
          | none => s

/-- Everything that a collective can do now. -/
def State.collProgress (s : State) (p die q : Nat) (x : CollD) : State :=
  let s := collAdvance p die q x 16 s
  match (s.cq p die q).run with
  | none => s
  | some c =>
    let out := x.final s.dom die c
    collOutputs p die q x out (out.length + 1) s

/-- The elements of a reduce-scatter's input, as they are combined. -/
def State.collInput (s : State) (x : CollD) (n : Nat) : Option (List Nat) :=
  (List.range n).foldr (fun i acc => match acc, x.enter (elemOf s.seen x.src (fmtBits x.ifmt) i) with
    | some t, some v => some (v :: t)
    | _, _ => none) (some [])

/-- A SEND whose RECV has started sends; one whose RECV has another COUNT faults on both members (R334). -/
def State.takeReady (s : State) (p die q : Nat) (x : CollD) : State :=
  match (s.cq p die q).ready.find? (fun r => r.1 = x.peer) with
  | none => s
  | some r =>
    let s := s.updCq p die q (fun k => { k with ready := k.ready.erase r })
    if r.2.toNat / 16 ≠ x.sig / 16 then s.collMismatch p die q x.peer 0 x else s.sendAll p die q x

/-- A collective begins: its algorithm is chosen (R330), its input read; a RECV tells its sender (R334). -/
def State.collBegin (s : State) (p die q : Nat) (ws : List W64) (x : CollD) : State :=
  let d := s.dom
  let pn := d.count x.span
  let inLen := if x.op = 1 then pn * x.count * (fmtBits x.ifmt / 8) else if x.op = 4 then 0 else x.count
  let outLen := x.outItems pn * x.outBytes
  if 0 < inLen ∧ !s.permits p x.src inLen true false false then s.collFault p die q (spanCode x.src inLen) 0 0
  else if 0 < outLen ∧ !s.permits p x.dst outLen false true false then s.collFault p die q (spanCode x.dst outLen) 0 0
  else
    let size := x.count * x.outBytes
    let rule := decide (size < (if x.thresh = 0 then 256 else x.thresh) * 1024)
    let free := (Config.freeByte s.fresh 0).toNat % 2 == 1
    let dbl := (log2Exact pn).isSome && (if x.var && !x.exact then free else rule)
    let vec? := if x.op = 1 then s.collInput x (pn * x.count) else if x.op = 2 then some ((s.seenBytes x.src x.count).map BitVec.toNat) else some []
    match vec? with
    | none => s.collFault p die q 0x32 0 0
    | some vec =>
      let st? := (d.stages die x dbl)[0]?
      let hi := x.hiStart st? vec
      let c : Coll := { words := ws, dbl := dbl, stage := 0, vec := vec, lo := Feed.start, hi := hi, blocks := [], outs := 0, sent := [], staged := [] }
      let s := (s.bump.chargeLines p [(x.src, inLen)]).updCq p die q (fun k => { k with run := some c })
      let s := match st? with
        | some st => s.openStage p die q x c st
        | none => s
      let s := if x.op = 3 then s.takeReady p die q x
        else if x.op = 4 then s.tell (.answer .ready p die x.peer (s.collWord0 p die q x) (BitVec.ofNat 64 x.sig) 0) else s
      s.collProgress p die q x

/-- COLLECTIVE_START (R329): PSEM ≥ n + 1, the previous descriptor has completed, and the descriptor's own wait is met; the partition's DRAM
regulator has to let it (R295). -/
def collStart (p die q : Nat) (s : State) : State :=
  let c := s.cq p die q
  if !c.en ∨ c.fault ∨ c.run.isSome ∨ !s.regOpen p 0 ∨ !s.workOpen ∨ s.health.failed ∨ 4 ≤ q ∨ 2 ≤ die ∨ (oget s.parts p).isNone then s
  else if !s.semIn p c.psem then s.collFault p die q 3 0 0
  else if (s.sem die c.psem).value.toNat < c.n + 1 then s
  else
    let a := c.base + 128 * (c.n % 2 ^ c.log2n)
    if !s.permits p a 128 true false false then s.collFault p die q (spanCode a 128) 0 0
    else
      let ws := (List.range 16).map (fun i => BitVec.ofNat 64 (s.le (a + 8 * i) 8))
      let x := parseColl ws
      let out (i : Option Nat) : Bool := match i with
        | some i => !s.semIn p i
        | none => false
      if collBad ws (2 * s.dom.dx * s.dom.dy * s.dom.dz) then s.collFault p die q 0x30 0 0
      else if x.var ∧ (s.part p).varfault then s.collFault p die q 6 0 0
      else if out x.csem || out x.dsem || out (x.wsem.map (·.1)) then s.collFault p die q 3 0 0
      else if (match x.wsem with
        | some (i, n) => decide ((s.sem die i).value.toNat < n)
        | none => false) then s
      else s.collBegin p die q ws x

/-! ### Receiving (R333 to R339) -/

/-- The half that a chunk from a member belongs to, if its turn has come: from that half's sender, with the number it
expects. -/
def CollD.halfOf (x : CollD) (d : Domain) (die : Nat) (st : CollStage) (c : Coll) (src no : Nat) : Option Nat :=
  [0, 1].find? (fun h => !x.fed st c h && (x.peers d die st h).1 == src && (c.feed h).no == no)

/-- Items expected in the next chunk of a half. -/
def CollD.expect (x : CollD) (st : CollStage) (c : Coll) (half : Nat) : Nat := min x.chunkItems (x.halfLen st c.vec half - (c.feed half).pos)

/-- A chunk of a half is accepted: it is combined or kept, and sent on where it goes further; none on COLL_OVERFLOW. -/
def State.takeItems (s : State) (p die q : Nat) (x : CollD) (st : CollStage) (c : Coll) (half : Nat) (is : List Nat) : Option State :=
  let rank := s.dom.rank die x.span
  let f := c.feed half
  let r := f.k + 1
  let j := x.blockOf st rank r half
  let own := ((x.half st c.vec j half).drop f.pos).take is.length
  let new := if x.op ≠ 1 then some is else match st with
    | .ring _ _ _ => x.addAll is own
    | .pair _ => x.addAll own is
  match new with
  | none => none
  | some new =>
    let keep := match st with
      | .ring _ _ _ => if x.op = 1 then (if r = st.rounds then some half else none) else some (2 * j + half)
      | .pair _ => some 0
    let pos := f.pos + is.length
    let full := decide (x.halfLen st c.vec half ≤ pos)
    let f2 : Feed := { k := if full then f.k + 1 else f.k, pos := if full then 0 else pos, no := f.no + 1, bad := 0 }
    let c2 := c.setFeed half f2
    let c3 : Coll := match keep with
      | some k => { c2 with blocks := oput c2.blocks k (some (c2.held k ++ new)) }
      | none => c2
    let s := s.updCq p die q (fun k => { k with run := some c3 })
    let s := if r < st.rounds then s.sendItems p die q x (x.peers s.dom die st half).2 new else s
    some (s.collProgress p die q x)

/-- A chunk whose digest the sender found different is resent, and its port counts an error; a second one takes the port
DOWN (R339). -/
def State.digestError (s : State) (k : Nat) : State :=
  let s := s.updPort k (fun q => { q with hErrs := q.hErrs + 1 })
  if 2 ≤ (s.port k).hErrs ∧ (s.port k).state ≠ .down then s.portDown k else s

/-- The bytes of a chunk. -/
def chunkData (ch : Chunk) : List Byte := ch.packets.flatMap (·.2)

/-- What a receiver answers to the sender of a chunk: that it is accepted, or to be sent again (R329, R333). -/
def State.answer (s : State) (what : ChunkKind) (p die : Nat) (ch : Chunk) : State :=
  s.tell (.answer what p die ch.src ch.word0 ch.sig ch.word2)

/-- A chunk of a forwarding channel: it is written where its packets say and the channel's DSEM is signalled (R336, log 25). -/
def State.takeForward (s : State) (p die q : Nat) (ch : Chunk) : State :=
  if crc32c (chunkData ch) ≠ ch.ccrc.toNat then s.answer .again p die ch
  else if (s.fab p).verified ∧ !ch.hOk then (s.digestError ch.port).answer .again p die ch
  else if ch.packets.any (fun x => !s.permits p x.1.toNat x.2.length false true false) then s
  else
    let s := (s.digest p die (chunkDigest ch.word0 ch.sig ch.word2 (chunkData ch))).answer .taken p die ch
    let s := s.writes (ch.packets.map (fun x => (x.1.toNat, x.2)))
    let f := tget (fun _ => Fwd.reset) s.fwds (4 * die + q)
    if s.semIn p f.dsem then s.signalOr p die f.dsem 1 else s

/-- A chunk from member `ch.src`. A chunk whose turn has not come waits with its receiver. -/
def State.takeChunk (p die q : Nat) (ch : Chunk) (s : State) : State :=
  let kind := bits ch.word0.toNat 0 4
  if kind = 3 then s.takeForward p die q ch
  else
    let k := s.cq p die q
    match k.run with
    | none => s
    | some c =>
      let x := parseColl c.words
      let no := bits ch.word2.toNat 0 32
      let dseq := ch.word0.toNat / 2 ^ 32
      let data := chunkData ch
      let point := decide (3 ≤ x.op)
      let later := !point && decide (k.n < dseq)
      let sigOk := if point then ch.sig.toNat / 16 == x.sig / 16 else ch.sig.toNat == x.sig && dseq == k.n
      if !k.en ∨ k.fault ∨ later ∨ (kind == 2) ≠ point ∨ x.op = 3 ∨ (point ∧ ch.src ≠ x.peer) then s
      else if !sigOk then s.collMismatch p die q ch.src no x
      else
        let place : Option (Nat × CollStage × Nat) :=
          if point then
            if c.lo.no = no ∧ c.lo.pos < x.count then some (0, .pair 0, min x.chunkItems (x.count - c.lo.pos)) else none
          else match (s.dom.stages die x c.dbl)[c.stage]? with
            | some st => (x.halfOf s.dom die st c ch.src no).map (fun h => (h, st, x.expect st c h))
            | none => none
        match place with
        | none => s
        | some (half, st, n) =>
          if data.length ≠ n * x.itemBytes ∨ crc32c data ≠ ch.ccrc.toNat then
            let f := c.feed half
            if 3 ≤ f.bad then s.collFault p die q 0x33 ch.src no
            else
              let s := s.updCq p die q (fun k => { k with run := some (c.setFeed half { f with bad := f.bad + 1 }) })
              s.answer .again p die ch
          else if (s.fab p).verified ∧ !ch.hOk then (s.digestError ch.port).answer .again p die ch
          else
            let s := (s.digest p die (chunkDigest ch.word0 ch.sig ch.word2 data)).answer .taken p die ch
            if point then
              let f : Feed := { c.lo with pos := c.lo.pos + n, no := no + 1, bad := 0 }
              let c2 : Coll := { c with lo := f, blocks := oput c.blocks 0 (some (c.held 0 ++ x.unpack data)) }
              (s.updCq p die q (fun k => { k with run := some c2 })).collProgress p die q x
            else match s.takeItems p die q x st c half (x.unpack data) with
              | some s => s
              | none => s.collFault p die q 0x32 ch.src no

/-- A forwarding channel. -/
def State.fwd (s : State) (k : Nat) : Fwd := tget (fun _ => Fwd.reset) s.fwds k
/-- The state with a channel changed. -/
def State.updFwd (s : State) (k : Nat) (f : Fwd → Fwd) : State := { s with fwds := tput (fun _ => Fwd.reset) s.fwds k (f (s.fwd k)) }

/-- A receiver's answer about a chunk: what is accepted leaves the staging memory (R333); what is asked for again is sent from it, and enters
no digest (R337). Chunks of a forwarding channel are named by their drain count, others by the descriptor and their number. -/
def State.chunkAnswered (s : State) (p die q : Nat) (ch : Chunk) : State :=
  let own (no : Nat) (c : SentChunk) : Bool := c.dst == ch.src && c.no == no
  let resend (s : State) (cs : List SentChunk) (no : Nat) : State := match cs.find? (own no) with
    | some c => s.putChunk p die c.dst ch.word0 ch.sig ch.word2 c.pieces
    | none => s
  if bits ch.word0.toNat 0 4 = 3 then
    let k := 4 * die + q
    let no := ch.word0.toNat / 2 ^ 32
    if ch.what = .taken then s.updFwd k (fun f => { f with staged := f.staged.filter (fun c => !own no c) })
    else resend s (s.fwd k).staged no
  else match (s.cq p die q).run with
    | none => s
    | some c =>
      let no := bits ch.word2.toNat 0 32
      if ch.word0 ≠ s.collWord0 p die q (parseColl c.words) then s
      else if ch.what = .taken then s.updCq p die q (fun k => { k with run := some { c with staged := c.staged.filter (fun c => !own no c) } })
      else resend s c.staged no

/-- CHUNK_RECEIVE: a chunk, or what its receiver answers (R329, R333, R334). -/
def chunkReceive (p die q : Nat) (ch : Chunk) (s : State) : State :=
  match ch.what with
  | .data => State.takeChunk p die q ch s
  | .ready =>
    if !(s.cq p die q).en ∨ (s.cq p die q).fault then s
    else
      let s := s.updCq p die q (fun k => { k with ready := k.ready ++ [(ch.src, ch.sig)] })
      (match (s.cq p die q).run with
      | some c => if (parseColl c.words).op = 3 ∧ c.lo.k = 0 then s.takeReady p die q (parseColl c.words) else s
      | none => s)
  | _ => s.chunkAnswered p die q ch

/-- COLL_ABORT_RECEIVE. -/
def collAbort (p die q peer : Nat) (s : State) : State :=
  let k := s.cq p die q
  if k.en ∧ !k.fault then s.collFault p die q 0x31 peer 0 else s

/-- COLLECTIVE_COMPLETE (R329): every output chunk has been signalled and every chunk sent has been accepted; a SEND has sent. -/
def collComplete (p die q : Nat) (s : State) : State :=
  match (s.cq p die q).run with
  | none => s
  | some c =>
    let x := parseColl c.words
    let all := ceilDiv (x.outItems (s.dom.count x.span) * x.outBytes) (2 ^ (16 + x.clog))
    if c.outs < all ∨ c.stage < (s.dom.stages die x c.dbl).length ∨ c.staged ≠ [] ∨ (x.op = 3 ∧ c.lo.k = 0) then s
    else
      let done (s : State) : State := s.updCq p die q (fun k => { k with run := none, n := k.n + 1 })
      match x.dsem with
      | none => done s
      | some i => match s.semAdd die i 1 with
        | some s => done s
        | none => s.collFault p die q 5 0 0

/-! ### Tile forwarding (R336) -/

/-- What a drain wrote to its destination, without its tile status word. -/
def DrainRun.body (r : DrainRun) : List (Nat × List Byte) := if r.d.statusAddr.isSome then r.writes.dropLast else r.writes

/-- Every byte written lies in the channel's source range. -/
def Fwd.holds (f : Fwd) (ws : List (Nat × List Byte)) : Bool :=
  f.en && ws != [] && ws.all (fun w => decide (f.src ≤ w.1 ∧ w.1 + w.2.length ≤ f.src + f.leng * granule))

/-- A written drain is queued at each channel of its partition on its die whose range holds it. -/
def State.forward (s : State) (c : Nat) (r : DrainRun) : State :=
  (List.range 4).foldl (fun s i =>
    let k := 4 * dieOf c + i
    if s.fwdOf r.d.part k ∧ (s.fwd k).holds r.body then s.updFwd k (fun f => { f with queue := f.queue ++ [r.body] }) else s) s

/-- DRAIN_WRITTEN, with what is forwarded of it. -/
def drainWrittenForward (c : Nat) (s : State) : State :=
  match (s.core c).writing with
  | [] => s
  | r :: _ => (drainWritten c s).forward c r

/-- A drain writes within the channel's source range. -/
def Fwd.covers (f : Fwd) (d : DrainRec) : Bool :=
  let (lo, hi) := d.desc.span d.desc.fmt
  f.en && decide ((f.src : Int) ≤ d.dst + lo ∧ (d.dst : Int) + hi ≤ f.src + f.leng * granule)

/-- A channel of the drain's partition on the core's die, whose range it writes, holds 64 unsent drains: it waits to start. -/
def State.fwdFull (s : State) (c : Nat) (d : DrainRec) : Bool :=
  (List.range 4).any (fun i =>
    let f := s.fwd (4 * dieOf c + i)
    s.fwdOf d.part (4 * dieOf c + i) && f.covers d && decide (64 ≤ f.queue.length))

/-- FORWARD_DRAIN: the oldest unsent drain of a channel is sent as one chunk. -/
def forwardDrain (k : Nat) (s : State) : State :=
  let f := s.fwd k
  match f.queue, s.domain with
  | ws :: rest, some d =>
    if s.health.failed then s
    else
      let p := bits d.fwdp (4 * k) 4
      let ps := ws.map (fun w => (f.dst + (w.1 - f.src), w.2))
      let no := f.count % 2 ^ 32
      let s := s.updFwd k (fun f => { f with
        queue := rest, count := f.count + 1, staged := f.staged ++ [{ dst := f.peer, no := no, pieces := ps }] })
      s.sendChunk p (k / 4) f.peer (BitVec.ofNat 64 (3 + 2 ^ 4 * (k % 4) + 2 ^ 32 * no)) 0 0 ps
  | _, _ => s

/-! ### Commands -/

/-- COLLECTIVE_START. -/
def execCollectiveStart (p die q : Nat) (s : State) : Host.Outcome State Fault Refusal := .next (collStart p die q s)
/-- CHUNK_RECEIVE. -/
def execChunkReceive (p die q : Nat) (ch : Chunk) (s : State) : Host.Outcome State Fault Refusal := .next (chunkReceive p die q ch s)
/-- COLL_ABORT_RECEIVE. -/
def execCollAbortReceive (p die q peer : Nat) (s : State) : Host.Outcome State Fault Refusal := .next (collAbort p die q peer s)
/-- COLLECTIVE_COMPLETE. -/
def execCollectiveComplete (p die q : Nat) (s : State) : Host.Outcome State Fault Refusal := .next (collComplete p die q s)
/-- FORWARD_DRAIN. -/
def execForwardDrain (k : Nat) (s : State) : Host.Outcome State Fault Refusal := .next (forwardDrain k s)
/-- DRAIN_START (R48, R336). -/
def execDrainStart (c : Nat) (s : State) : Host.Outcome State Fault Refusal :=
  .next (drainStart c (match (s.core c).nextDrain with
    | some d => s.fwdFull c d
    | none => false) s)
/-- DRAIN_WRITTEN (R130, R336): a drain's output and tile status word are written, and forwarded. -/
def execDrainWritten (c : Nat) (s : State) : Host.Outcome State Fault Refusal := .next (drainWrittenForward c s)

end Sys2Proof.Machine
end

