-- ==== Sys2Proof/Machine/Health.lean ====
section
/-!
DEFINITION. Reading the flash store through its ladder (R235, R236, R363), audits (R354 to R357), failures of units,
quarantine and replay (R360 to R366), poison (R362) and the risk estimate (R367, R368).
-/

namespace Sys2Proof.Machine

/-- A message on the management bus whose layout the manual does not print: `n` free bytes (log 10). -/
def State.mgmtFree (s : State) (which n : Nat) : State :=
  { s with sent := s.sent ++ [.mgmt ((List.range n).map (Config.responseByte which s.fresh))], fresh := s.fresh + 1 }

/-- PlatformEventMessage to the event receiver (R417). -/
def State.platformEvent (s : State) : State := if s.board.receiver.isSome then s.mgmtFree 0x417 16 else s

/-! ### The retry ladder (R235, R236) -/

/-- The read of a purpose goes on with its next codeword, in a block of the same owner (log 10). The controller's own reading of a block
ends here. -/
def State.nextRead (s : State) (r : FlashRead) : State :=
  match r.for_ with
  | .scrub _ => s.endRead r.for_
  | _ =>
    let b := s.ownerBlk r.own
    { s with fresh := s.fresh + 1, flash := { s.flash with
        reads := s.flash.reads.map (fun x => if x.for_ = r.for_ then { x with rung := s.flash.firstRung b, blk := b } else x) } }

/-- The read of a purpose stands at a rung. -/
def State.setRung (s : State) (who : FlashFor) (n : Nat) : State :=
  s.updFlash (fun f => { f with reads := f.reads.map (fun r => if r.for_ = who then { r with rung := n } else r) })

/-- The other blocks of the stripe block that a block's rows lie in: a rebuild's peers (R233, R235). -/
def Flash.peers (f : Flash) (b : Nat) : List Nat :=
  match f.stripeOf b with
  | some (sb, st) => ((f.stripeBlks sb).filter (fun e => !st.out.contains e.1 && e.2 != b)).map (·.2)
  | none => []

/-- A read at rung `n` of the ladder counts in the read counters of the blocks it reads (R239): a soft read is two further reads, a rebuild
reads a page of each peer. -/
def Flash.countRead (f : Flash) (b n : Nat) : Flash :=
  if n < 16 then f.addReads b 1
  else if n = 16 then f.addReads b 2
  else (f.peers b).foldl (fun f x => f.addReads x 1) f

/-- The result of a rung (R233, R235, R237): a hard decode corrects up to 120 bit errors, a rebuild needs every peer's die, and what the
soft decode and the rebuild found is `ok`. -/
def Flash.rungOk (f : Flash) (r : FlashRead) (errs : Nat) (ok : Bool) : Bool :=
  if r.rung < 16 then decide (errs ≤ hardLimit)
  else ok && (r.rung != 17 || (f.peers r.blk).all (fun b => !f.failed.contains (dieOfBlk b)))

/-- The first command of a codeword's loss (R236): what ends, and how. -/
def State.lostCommand (s : State) (c : Cmd) : State :=
  if c.code = 0x603 then (undoTobjLoad c s).complete c 0x38 false 0 0
  else (s.endRead (.cmd c.m c.tag)).complete c 0x38 false 0 0

/-- The snapshot that a read was of is unusable (R236). -/
def State.spoilSnap (s : State) (o : Option FlashOwner) : State :=
  match o with
  | some (.snap id) => { s with fsnaps := oupd s.fsnaps id (fun f => { f with unusable := true }) }
  | _ => s

/-- The controller's own reading found a lost codeword: the object, package or snapshot that holds it is damaged (R236). -/
def State.lostScrub (s : State) (r : FlashRead) : State :=
  let s := s.endRead r.for_
  match r.own with
  | some o => s.damage o
  | none => s

/-- A window's codeword is lost outside a twin pair (R363): the window stops, the package is damaged, and the partition's run
ends with its step discarded. -/
def State.lostWindow (s : State) (w : Nat) (v : Wwin) : State :=
  let s := (s.endRead (.window w)).updWpkg v.pkg (fun t => { t with damaged := true })
  let s := s.updWwin w (fun v => { v with run := false, reading := none, rung := [] })
  let s := match v.stop.bind (fun x => s.cmd x.1 x.2) with
    | some c => (s.updWwin w (fun v => { v with stop := none })).complete c 0 false 0 0
    | none => s
  if (oget s.runs v.part).isSome then (s.discardStep v.part).endRun v.part 0x38 else s

/-- The module is in a twin pair whose twin is there. -/
def State.paired (s : State) : Bool := (s.twin.map (fun t => !t.lost)).getD false

/-- A codeword is lost (R236, R363). In a twin pair a window's read waits at rung 18 for the twin's copy. -/
def State.codewordLost (s : State) (r : FlashRead) : State :=
  let s := (s.updFlash (fun f => { f with lost := f.lost + 1 })).addRisk 4096
  match r.for_ with
  | .cmd m tag => match s.cmd m tag with
    | some c => (s.spoilSnap r.own).lostCommand c
    | none => s.endRead r.for_
  | .window w => match s.wwin w with
    | some v => if s.paired then s.setRung r.for_ 18 else s.lostWindow w v
    | none => s.endRead r.for_
  | .scrub _ => s.lostScrub r
  | .restore _ => (s.spoilSnap r.own).endRead r.for_

/-- A read that needed more than the first hard decode has ended (R235, R367): FLS_RETRY and the risk follow, and the window it served is
told. -/
def State.retried (s : State) (r : FlashRead) : State :=
  if r.rung = 0 then s
  else
    let s := (s.updFlash (fun f => { f with retry := f.retry + 1 })).addRisk 1
    match r.for_ with
    | .window w => s.updWwin w (fun v => { v with met := true })
    | _ => s

/-- FLASH_DECODE_RESULT: the result of a codeword's read at its rung: `errs`: its bit errors, `ok`: whether the soft decode, or each peer of
the rebuild, decoded. A read that reached the rebuild retires its block, but for a failed die's (R236, R237). -/
def flashDecode (k errs : Nat) (ok : Bool) (s : State) : State :=
  match s.flash.reads[k]? with
  | none => s
  | some r =>
    if 18 ≤ r.rung then
      match r.for_ with
      | .window w => match s.wwin w with
        | some v => if s.paired then s else s.lostWindow w v
        | none => s.endRead r.for_
      | _ => s
    else
      let good := s.flash.rungOk r errs ok
      let s := s.updFlash (fun f => f.countRead r.blk r.rung)
      if !good ∧ r.rung < 17 then s.setRung r.for_ (r.rung + 1)
      else
        let s := s.retried r
        let s := if r.rung = 17 ∧ !s.flash.failed.contains (dieOfBlk r.blk) then s.updFlash (fun f => f.growBad r.blk) else s
        if good then s.nextRead r else s.codewordLost r

/-- WW_LAYER_READY: the layer being read is complete, and its CRC holds; a CRC that does not is a lost read (R253). -/
def layerReady (w : Nat) (s : State) : State :=
  match s.wwin w with
  | none => s
  | some v =>
    match v.reading with
    | none => s
    | some n =>
      if !s.flash.steady (.window w) ∨ !s.regOpen v.part 0 then s
      else
        let (bs, good) := s.layerImage v (s.listEntry v n).1 (s.listEntry v n).2
        if good then layerArrives w v n bs s
        else s.codewordLost { for_ := .window w, rung := 17, blk := 0, own := some (.wpkg v.pkg) }

/-- WW_RUNG_READY: the oldest rung request is served (R226). -/
def rungReady (w : Nat) (s : State) : State :=
  match s.wwin w with
  | none => s
  | some v =>
    match v.rung with
    | [] => s
    | (layer, fmt) :: _ =>
      if v.rungBusy ∨ !v.run ∨ !s.flash.steady (.window w) ∨ !s.regOpen v.part 1 ∨ !s.regOpen v.part 0 then s
      else
        let (bs, good) := s.layerImage v layer fmt
        if good then rungArrives w v bs (s.charge v.part 1 bs.length)
        else s.codewordLost { for_ := .window w, rung := 17, blk := 0, own := some (.wpkg v.pkg) }

/-- The layer and format that a window's lost read was of. -/
def State.lostImage (s : State) (v : Wwin) : Nat × Nat :=
  match v.reading with
  | some n => s.listEntry v n
  | none => v.rung.headD (0, 0)

/-- WEIGHT_REFETCH_TWIN: the damaged rung image arrives from the twin, is written to a new location and the window goes on. -/
def weightRefetch (w : Nat) (image : List Byte) (s : State) : State :=
  match s.wwin w with
  | none => s
  | some v =>
    if !s.paired ∨ !s.flash.reads.any (fun r => r.for_ = .window w && r.rung == 18) then s
    else
      let (layer, fmt) := s.lostImage v
      match (oget s.wpkgs v.pkg).bind (fun t => t.rungImage layer fmt) with
      | none => s
      | some (o, n, _) =>
        if image.length ≠ n then s
        else ((s.updFlash (fun f => (f.program (.wpkg v.pkg) n).journal)).updWpkg v.pkg (fun t => { t with image := imagePut t.image o image })).nextRead
          { for_ := .window w, rung := 18, blk := 0, own := some (.wpkg v.pkg) }

/-! ### Work that must run again (R359, R360) -/

/-- What a context runs and has queued goes, with its tiles; a tile-thread in progress counts as ended until its share runs
again. -/
def State.haltCtx (s : State) (c x : Nat) : State :=
  let k := s.ctx c x
  let s := (s.leaveWaits c x).leaveBars c x
  let s := match k.tt with
    | some t => s.updLaunch t.launch (fun l => { l with ended := l.ended + 1 })
    | none => s
  let s := s.updCtx c x (fun k => { k with tt := none, wait := .none, chunkNext := k.chunkEnd })
  let s := { s with tiles := s.tiles.filter (fun (i, _) => i / 16 != 4 * c + x), signals := s.signals.filter (fun g => !(g.core == c && g.ctx == x)),
                    sems := tmap (fun _ => Sem.reset) (fun _ v =>
                      if v.hold.any (fun (h : Hold) => h.core == c && h.ctx == x) then { v with hold := none } else v) s.sems }
  s.updCore c (fun k => { k with
    lmq := k.lmq.filter (fun m => m.ctx != x), smq := k.smq.filter (fun m => m.ctx != x), drains := k.drains.filter (fun d => d.ctx != x),
    mq := k.mq.filter (fun o => match o with
      | .mmul m _ _ _ => m.ctx != x
      | .mdrain d => d.ctx != x
      | .mfree y _ _ => y != x
      | .clear y _ _ => y != x
      | .lrun y _ _ _ _ _ => y != x),
    lmm := k.lmm.filter (fun u => u.m.ctx != x),
    drain := k.drain.filter (fun d => d.d.ctx != x), writing := k.writing.filter (fun d => d.d.ctx != x),
    lrun := k.lrun.filter (fun r => r.ctx != x), tail := k.tail.filter (fun t => t.2.1 != x),
    commits := k.commits.filter (fun t => t.ctx != some x) })

/-- The share of engine `n`, or of its context `x`, must run again: in a step by a step replay, else by TILE_REPLAY. -/
def State.mustReplay (s : State) (key n x : Nat) : State :=
  match s.launch key with
  | none => s
  | some l =>
    if l.step.isSome then s.wantReplay l.part
    else s.updLaunch key (fun l => { l with again := if l.again.contains (n, x) then l.again else l.again ++ [(n, x)] })

/-- A Foxglove unit's item, or a Primrose engine's job, is dropped, and its share must run again. -/
def State.haltUnit (s : State) (k : EngineKind) (n : Nat) : State :=
  match k with
  | .fox => match (s.fox n).item with
    | some i => ((if i.phase = 2 then s.unpin i.map else s).updLaunch i.launch (fun l => { l with ended := l.ended + 1 })).updFox n (fun f =>
        { f with item := none })
    | none => s
  | _ => match (s.prim n).job with
    | some b => (s.updLaunch b.launch (fun l => { l with ended := l.ended + 1 })).updPrim n (fun q => { q with job := none })
    | none => s

/-- What runs on an engine stops and must run again. -/
def State.replayUnit (s : State) (k : EngineKind) (n : Nat) : State :=
  match k with
  | .core => (List.range 4).foldl (fun s x => match (s.ctx n x).launch with
    | some key => (s.haltCtx n x).mustReplay key n x
    | none => s) s
  | _ => match (s.unitAt k n).1 with
    | some key => (s.haltUnit k n).mustReplay key n 0
    | none => s

/-- Tile-threads in a claimed range. -/
def LaunchE.inRange (e : LaunchE) (b n : Nat) : Nat := min e.total (b + n) - min e.total b

/-- A launch with the counts of a share taken back: `n` begun units, and those of its faulted units in the share. -/
def Launch.takeBack (l : Launch) (n : Nat) (mine : Nat → Bool) : Launch :=
  { l with begun := l.begun - n, ended := l.ended - n, faulted := l.faulted.filter (fun i => !mine i),
           audits := l.audits.filter (fun a => a.2 || !mine a.1), skips := l.skips.filter (fun i => !mine i) }

/-- TILE_REPLAY (R360): the whole share of context `x` of core `n`, or of unit `n`, runs again from its beginning. -/
def tileReplay (key n x : Nat) (s : State) : State :=
  match s.launch key with
  | none => s
  | some l =>
    if !l.again.contains (n, x) then s
    else
      let s := s.updLaunch key (fun l => { l with again := l.again.filter (· ≠ (n, x)) })
      let es := l.engineList
      let j := es.idxOf n
      match engineKind l.k.kind with
      | .core =>
        let k := s.ctx n x
        let i := if l.e.winu = 0 then x else k.spadBase / 65536 - l.e.wbase
        let i := if l.e.winu = 0 then i else i / l.e.winu
        let s := s.setCtx n x { Ctx.give key l n i with k := i }
        if l.e.dist then
          let rs := (l.shares.filter (fun r => r.1 = 4 * n + x)).map (·.2)
          let mine (u : Nat) : Bool := rs.any (fun r => decide (r.1 ≤ u ∧ u < r.1 + r.2))
          let left := k.chunkEnd - k.chunkNext
          let n1 := (rs.map (fun r => l.e.inRange r.1 r.2)).foldl (· + ·) 0 - left
          let v := s.claim l.e.claimDie l.e.claimIdx
          let s := s.setClaim l.e.claimDie l.e.claimIdx { v with
            recs := v.recs.filter (fun r => !(r.core == n && r.ctx == x && r.launch == key)),
            reclaim := v.reclaim ++ rs.filter (fun r => !v.reclaim.contains r) }
          s.updLaunch key (fun l =>
            { (l.takeBack n1 mine) with exhausted := [], shares := l.shares.filter (fun r => r.1 ≠ 4 * n + x), widenBy := tdrop l.widenBy (4 * n + x) })
        else
          let n1 := (k.k - i) / max 1 l.e.ctxs
          let mine (u : Nat) : Bool := decide (u % es.length = j ∧ u / es.length % max 1 l.e.ctxs = i)
          s.updLaunch key (fun l =>
            { (l.takeBack n1 mine) with exhausted := l.exhausted.filter (· ≠ 4 * n + x), widenBy := tdrop l.widenBy (4 * n + x) })
      | k =>
        let n1 := (s.unitAt k n).2.1
        let mine (u : Nat) : Bool := decide (u % es.length = j)
        let s := (l.pins.filter (fun a => mine a.1)).foldl (fun s a => s.unpin a.2) s
        let s := match k with
          | .fox => s.updFox n (fun f => { f with k := 0 })
          | _ => s.updPrim n (fun q => { q with k := 0 })
        s.updLaunch key (fun l => { (l.takeBack n1 mine) with emptyBy := tdrop l.emptyBy n, pins := l.pins.filter (fun a => !mine a.1) })

/-! ### Failures of units, quarantine (R361, R364) -/

/-- The number of a kind of unit in Marigold's records. -/
def unitCode : UnitKind → Nat
  | .core => 0
  | .fox => 1
  | .prim => 2
  | .irisEnc => 3
  | .irisDec => 4
  | .hub => 5
/-- The engine of a kind of unit. -/
def unitEngine : UnitKind → Option EngineKind
  | .core => some .core
  | .fox => some .fox
  | .prim => some .prim
  | _ => none

/-- Units of a kind on a die, spares included, and without them (R18, R364). -/
def unitsOf (kind : Nat) : Nat × Nat := if kind = 0 then (68, 64) else if kind = 1 then (17, 16) else (2, 2)
/-- Die of a logical unit. -/
def dieOfUnit (kind n : Nat) : Nat := n / (unitsOf kind).2
/-- Numbers on a die of the units of a kind that the trim record enables, in ascending order (R421). -/
def fittedUnits (kind die : Nat) : List Nat :=
  let (all, named) := unitsOf kind
  (List.range (all - named)).foldl (fun us i => us.eraseIdx (Config.unfitted kind die i % (all - i))) (List.range all)
/-- Physical number of a logical unit as manufactured. -/
def firstUnit (kind n : Nat) : Nat :=
  let die := dieOfUnit kind n
  die * (unitsOf kind).1 + (fittedUnits kind die).getD (n % (unitsOf kind).2) 0
/-- Physical number of a logical unit now. -/
def State.physical (s : State) (kind n : Nat) : Nat := (oget s.health.map (1024 * kind + n)).getD (firstUnit kind n)
/-- Fenced units of a kind on a die. -/
def State.fencedOn (s : State) (kind die : Nat) : Nat :=
  (s.health.fenced.filter (fun u => u.1 = kind ∧ u.2 / (unitsOf kind).1 = die)).length
/-- Spares left of a kind on a die; working engines of Primrose (MGD_SPARE, R369). -/
def State.sparesLeft (s : State) (kind die : Nat) : Nat :=
  (if kind = 2 then 2 else (unitsOf kind).1 - (unitsOf kind).2) - s.fencedOn kind die
/-- The first unfenced spare of a kind on a die that no logical number uses. -/
def State.freeSpare (s : State) (kind die : Nat) : Option Nat :=
  let (all, named) := unitsOf kind
  ((List.range all).map (fun i => die * all + i)).find? (fun u =>
    !s.health.fenced.contains (kind, u) && !(List.range named).any (fun i => s.physical kind (die * named + i) == u))

/-- A unit is known to have failed: it is to be quarantined. -/
def State.report (s : State) (kind n : Nat) : State :=
  if s.health.faulty.contains (kind, n) then s else { s with health := { s.health with faulty := s.health.faulty ++ [(kind, n)] } }

/-- A core, Foxglove unit or Primrose engine has failed; a hub failure is the module's (R361, R365, R367). -/
def State.unitFails (s : State) (k : UnitKind) (n : Nat) : State :=
  match unitEngine k with
  | some _ => (s.report (unitCode k) n).addRisk 16384
  | none => if k = .hub then s.failModule else s

/-- UNIT_CHECK_FAILURE. -/
def unitCheck (k : UnitKind) (n : Nat) (s : State) : State := s.unitFails k n

/-- CORE_WATCHDOG_EXPIRE: a ready context has issued nothing for 10 ms. -/
def coreWatchdog (c : Nat) (s : State) : State :=
  if (List.range 4).any (fun x => s.canRun c x) then s.unitFails .core c else s

/-- PRIM_JOB_WATCHDOG: a job has taken more than 100 ms. -/
def primWatchdog (e : Nat) (s : State) : State := if (s.prim e).job.isSome then s.unitFails .prim e else s

/-- SRAM_CORRECTED. -/
def sramCorrected (_k : UnitKind) (_n : Nat) (s : State) : State := s.addRisk 16

/-- SRAM_UNCORRECTABLE: the work replays on the same engine; in the hub it is a module failure. An Iris core repeats its
picture (IRIS_PICTURE_REPEAT). -/
def sramUncorrectable (k : UnitKind) (n : Nat) (s : State) : State :=
  let s := s.addRisk 8192
  match unitEngine k with
  | some e => s.replayUnit e n
  | none => if k = .hub then s.failModule else s

/-- A core's SRAM as a spare brings it: empty, with its partition's tables in its window (R15, R177, R364). -/
def State.emptyCore (s : State) (c : Nat) : State :=
  let k := s.core c
  let s := { s with mem := s.mem.filter (fun (a, _) => spadCore a != some c && windowCore a != some c) }
  let s := s.setCore c { Core.reset with nextSeq := k.nextSeq, power := k.power, workSince := k.workSince, offLeft := k.offLeft, saved := k.saved }
  match k.part with
  | some p => s.giveCore p c
  | none => s

/-- Records of a retired core's claims move to their counters' reclaim lists (R301). -/
def State.reclaimCore (s : State) (c : Nat) : State :=
  { s with claims := tmap (fun _ => Claim.reset) (fun _ v =>
      { v with recs := v.recs.filter (fun r => r.core != c), reclaim := v.reclaim ++ ((v.recs.filter (fun r => r.core == c)).reverse.map (fun r => (r.base, r.n))) }) s.claims }

/-- The logical numbers of a kind that a physical unit serves. -/
def State.numbersOn (s : State) (kind u : Nat) : List Nat := (List.range (2 * (unitsOf kind).2)).filter (fun i => s.physical kind i = u)

/-- A logical number moves to a physical unit. -/
def State.mapUnit (s : State) (kind n u : Nat) : State := { s with health := { s.health with map := tins s.health.map (1024 * kind + n) u } }

/-- QUARANTINE (R364): the unit is fenced, its number moves to a spare of its die, or to the die's other Primrose engine,
and its work runs again there; without one the module fails. -/
def quarantine (k : UnitKind) (n : Nat) (s : State) : State :=
  match unitEngine k with
  | none => s
  | some e =>
    let kind := unitCode k
    if !s.health.faulty.contains (kind, n) then s
    else
      let u := s.physical kind n
      let die := dieOfUnit kind n
      let ns := s.numbersOn kind u
      let s := { s with
        health := { s.health with faulty := s.health.faulty.filter (fun f => !(f.1 == kind && ns.contains f.2)), fenced := s.health.fenced ++ [(kind, u)],
                                  history := s.health.history ++ [(kind, u)] },
        board := { s.board with quar := true } }
      let s := s.eventAll 0x21 (kind + 2 ^ 4 * n + 2 ^ 12 * u)
      let s := ns.foldl (fun s i => s.replayUnit e i) s
      let s := if kind = 0 then (s.reclaimCore n).emptyCore n else s
      let s := if kind = 1 then s.updFox n (fun f => { f with lab := [] }) else s
      let new := if kind = 2 then (let o := if u % 2 = 0 then u + 1 else u - 1; if s.health.fenced.contains (2, o) then none else some o)
        else s.freeSpare kind die
      match new with
      | none => s.failModule
      | some v =>
        let s := ns.foldl (fun s i => s.mapUnit kind i v) s
        let s := if kind = 2 then { s with health := { s.health with alt := tdrop s.health.alt die } } else s
        if (if kind = 2 then s.sparesLeft 2 die = 1 else s.sparesLeft kind die = 0) then s.eventAll 0x23 (kind + 2 ^ 4 * die) else s

/-- MODULE_FAILURE (R365). -/
def moduleFailure (s : State) : State := s.failModule

/-! ### Audits (R354 to R357) -/

/-- The engine that ran unit of work `u` of a launch. -/
def Launch.ranOn (l : Launch) (u : Nat) : Nat :=
  if l.e.dist then
    match l.shares.find? (fun r => decide (r.2.1 ≤ u ∧ u < r.2.1 + r.2.2)) with
    | some r => l.engineList.idxOf (r.1 / 4)
    | none => 0
  else u % max 1 l.engineList.length

/-- An engine has finished its own share of a launch. -/
def State.shareDone (s : State) (key : Nat) (l : Launch) (n : Nat) : Bool :=
  l.served.contains n || (!l.engines.contains n && !l.wants n) ||
  (match engineKind l.k.kind with
   | .core => s.coreServed n key l
   | k => let (cur, i, idle) := s.unitAt k n
     cur == some key && idle && decide (l.e.e0 ≤ i * l.engineList.length + l.engineList.idxOf n))

/-- Unit of work `u` has been begun and has ended: no engine is at it. -/
def State.unitEnded (s : State) (key : Nat) (l : Launch) (u : Nat) : Bool :=
  match engineKind l.k.kind with
  | .core =>
    !s.ctxs.any (fun (_, k) => k.tt == some { launch := key, index := u }) &&
    (if l.e.dist then l.shares.any (fun r => decide (r.2.1 ≤ u ∧ u < r.2.1 + r.2.2)) && !s.ctxs.any (fun (_, k) => k.launch == some key && decide (k.chunkNext ≤ u ∧ u < k.chunkEnd))
     else
      let c := l.engineList.getD (u % max 1 l.engineList.length) 0
      let i := u / max 1 l.engineList.length
      l.served.contains c || (List.range 4).any (fun x => (s.ctx c x).launch == some key && (s.ctx c x).k % max 1 l.e.ctxs == i % max 1 l.e.ctxs && decide (i < (s.ctx c x).k)))
  | k =>
    let n := l.engineList.getD (u % max 1 l.engineList.length) 0
    let i := u / max 1 l.engineList.length
    l.served.contains n || (let (cur, j, idle) := s.unitAt k n
      if cur = some key then decide (i + 1 < j) || (idle && decide (i < j)) else decide (i < (oget l.posns n).getD 0))

/-- AUDIT_RUN_START: a selected unit of work that has ended is run again on the next engine of the launch. -/
def auditStart (key u : Nat) (s : State) : State :=
  match s.launch key with
  | none => s
  | some l =>
    let es := l.engineList
    let n := es.getD ((l.ranOn u + 1) % max 1 es.length) 0
    if !l.started ∨ l.killed ∨ l.e.total ≤ u ∨ !l.picked u ∨ l.skips.contains u ∨ l.audits.any (fun a => a.1 == u) ∨ !l.again.isEmpty ∨
        !s.unitEnded key l u ∨ !s.shareDone key l n then s
    else s.updLaunch key (fun l => { l with audits := l.audits ++ [(u, false)] })

/-- Audit runs completed. -/
def State.countAudits (s : State) (n : Nat) : State := { s with health := { s.health with auditRuns := s.health.auditRuns + BitVec.ofNat 64 n } }

/-- The audit of unit `u` has compared: the item's epoch is no longer pinned (R355). -/
def State.auditDone (s : State) (key u : Nat) (l : Launch) : State :=
  let s := match oget l.pins u with
    | some m => s.unpin m
    | none => s
  s.updLaunch key (fun l => { l with audits := l.audits.map (fun a => if a.1 = u then (u, true) else a), pins := tdrop l.pins u })

/-- AUDIT_RUN_COMPLETE (R356): the digests of the original run, of the audit run and, where those differ, of a third run. The
engine whose digest differs from the other two is reported; both engines of the first comparison if all differ or there is no
third. -/
def auditComplete (key u : Nat) (first audit third : W64) (s : State) : State :=
  match s.launch key with
  | none => s
  | some l =>
    if !l.audits.contains (u, false) then s
    else if first = audit then (s.countAudits 1).auditDone key u l
    else
      let es := l.engineList
      let kind := l.k.kind
      let j := l.ranOn u
      let e1 := es.getD j 0
      let e2 := es.getD ((j + 1) % es.length) 0
      let s := ({ s with health := { s.health with auditMiss := s.health.auditMiss + 1 } } : State).addRisk 16384
      let s := s.countAudits (if es.length < 3 then 1 else 2)
      let s := if 3 ≤ es.length ∧ third = first then (s.report kind e2).auditDone key u l
        else if 3 ≤ es.length ∧ third = audit then s.report kind e1
        else (s.report kind e1).report kind e2
      if l.step.isSome then s.wantReplay l.part else s

/-! ### Poison (R362) -/

/-- POISON_REPORT: an engine of partition `p` has read a poisoned line. -/
def poisonReport (p addr : Nat) (s : State) : State :=
  let line := addr / 64
  if !s.poison.contains line then s
  else match oget s.runs p with
    | some r =>
      if !r.inStep then s.event p 0x24 (addr % 2 ^ 48)
      else
        let step := s.stepNo p
        if r.poison.contains (step, line) then
          if r.replay then s else ((s.discardStep p).event p 0x24 (addr % 2 ^ 48)).endRun p 0x1B
        else (s.updRun p (fun r => { r with poison := r.poison ++ [(step, line)] })).wantReplay p
    | none => s.event p 0x24 (addr % 2 ^ 48)

/-! ### The risk estimate (R367, R368) -/

/-- The risk band of an estimate (R368). -/
def riskBand (r : Nat) : Nat :=
  if r < 1024 then 0 else if r < 2048 then 1 else if r < 4096 then 2 else if r < 8192 then 3 else if r < 16384 then 4 else if r < 32768 then 5 else 6

/-- RISK_UPDATE: the estimate from E and the highest die temperature `t`; a change of band is told. The same millisecond's
input voltage and power stand in PWR_IN (R447). -/
def riskUpdate (t vin pin : Nat) (s : State) : State :=
  let risk := min 65535 (s.health.e / 2 ^ 32 + 1024 * (t - 85))
  let band := max (riskBand risk) (min 6 s.health.bandMin.toNat)
  let old := s.health.band
  let s := { s with health := { s.health with risk := risk, band := band }, board := { s.board with tmax := t % 256, vin := vin % 65536, pin := pin % 65536 } }
  if band = old then s else (s.eventAll 0x20 (risk + 2 ^ 16 * band)).platformEvent

/-- 2 ^ (-1/3600) in units of 2 ^ -128, rounded down. -/
def decayFactor : Nat := 340216854960443585506143627629073615751

/-- RISK_DECAY: E is multiplied by 2 ^ (-1/3600); which of the two values within 2 ^ -32 of it is free (log 10). -/
def riskDecay (s : State) : State :=
  { s with fresh := s.fresh + 1,
           health := { s.health with e := s.health.e * decayFactor / 2 ^ 128 + (if s.health.e = 0 then 0 else (Config.freeByte s.fresh 0).toNat % 2) } }

/-! ### The rows -/

/-- WW_LAYER_READY. -/
def execWwLayerReady (w : Nat) (s : State) : Host.Outcome State Fault Refusal := .next (layerReady w s)
/-- WW_RUNG_READY. -/
def execWwRungReady (w : Nat) (s : State) : Host.Outcome State Fault Refusal := .next (rungReady w s)
/-- FLASH_DECODE_RESULT. -/
def execFlashDecodeResult (k : Nat) (r : CodewordFind) (s : State) : Host.Outcome State Fault Refusal := .next (flashDecode k r.errs r.ok s)
/-- AUDIT_RUN_START. -/
def execAuditRunStart (l u : Nat) (s : State) : Host.Outcome State Fault Refusal := .next (auditStart l u s)
/-- AUDIT_RUN_COMPLETE. -/
def execAuditRunComplete (l u : Nat) (first audit third : W64) (s : State) : Host.Outcome State Fault Refusal :=
  .next (auditComplete l u first audit third s)
/-- TILE_REPLAY. -/
def execTileReplay (l n x : Nat) (s : State) : Host.Outcome State Fault Refusal := .next (tileReplay l n x s)
/-- POISON_REPORT. -/
def execPoisonReport (p addr : Nat) (s : State) : Host.Outcome State Fault Refusal := .next (poisonReport p addr s)
/-- WEIGHT_REFETCH_TWIN. -/
def execWeightRefetchTwin (w : Nat) (image : List Byte) (s : State) : Host.Outcome State Fault Refusal := .next (weightRefetch w image s)
/-- SRAM_UNCORRECTABLE. -/
def execSramUncorrectable (k : UnitKind) (n : Nat) (s : State) : Host.Outcome State Fault Refusal := .next (sramUncorrectable k n s)
/-- SRAM_CORRECTED. -/
def execSramCorrected (k : UnitKind) (n : Nat) (s : State) : Host.Outcome State Fault Refusal := .next (sramCorrected k n s)
/-- CORE_WATCHDOG_EXPIRE. -/
def execCoreWatchdogExpire (c : Nat) (s : State) : Host.Outcome State Fault Refusal := .next (coreWatchdog c s)
/-- PRIM_JOB_WATCHDOG. -/
def execPrimJobWatchdog (e : Nat) (s : State) : Host.Outcome State Fault Refusal := .next (primWatchdog e s)
/-- UNIT_CHECK_FAILURE. -/
def execUnitCheckFailure (k : UnitKind) (n : Nat) (s : State) : Host.Outcome State Fault Refusal := .next (unitCheck k n s)
/-- QUARANTINE. -/
def execQuarantine (k : UnitKind) (n : Nat) (s : State) : Host.Outcome State Fault Refusal := .next (quarantine k n s)
/-- MODULE_FAILURE. -/
def execModuleFailure (s : State) : Host.Outcome State Fault Refusal := .next (moduleFailure s)
/-- RISK_UPDATE. -/
def execRiskUpdate (t vin pin : Nat) (s : State) : Host.Outcome State Fault Refusal := .next (riskUpdate t vin pin s)
/-- RISK_DECAY. -/
def execRiskDecay (s : State) : Host.Outcome State Fault Refusal := .next (riskDecay s)

end Sys2Proof.Machine
end

