-- ==== Sys2Proof/Machine/Iris.lean ====
section
/-!
DEFINITION. Iris (R379 to R399). What an encoder or decoder makes of a picture depends only on the session's parameters, its
descriptors and the bytes it has read (R392): those results are free functions of them (log 10).
-/

namespace Sys2Proof.Machine

/-! ### Sessions (R384 to R386) -/

/-- Word `i` of a session's parameter block. -/
def IrisSess.w (x : IrisSess) (i : Nat) : Nat := (x.words.getD i 0).toNat
/-- A decode session. -/
def IrisSess.dec (x : IrisSess) : Bool := bit (x.w 0) 0
/-- CODEC. -/
def IrisSess.codec (x : IrisSess) : Nat := bits (x.w 0) 1 2
/-- Its core: encode cores are 0 to 3, decode cores 4 to 7 (R399). -/
def IrisSess.core (x : IrisSess) : Nat := bits (x.w 0) 3 2 + 4 * b2n x.dec
/-- D10. -/
def IrisSess.d10 (x : IrisSess) : Bool := bit (x.w 0) 5
/-- SUBF. -/
def IrisSess.subf (x : IrisSess) : Bool := bit (x.w 0) 6
/-- GOP. -/
def IrisSess.gop (x : IrisSess) : Nat := bits (x.w 0) 8 2
/-- WIDTH. -/
def IrisSess.width (x : IrisSess) : Nat := bits (x.w 0) 16 16
/-- HEIGHT. -/
def IrisSess.height (x : IrisSess) : Nat := bits (x.w 0) 32 16
/-- LEVEL. -/
def IrisSess.level (x : IrisSess) : Nat := bits (x.w 0) 48 8
/-- SLROWS. -/
def IrisSess.slrows (x : IrisSess) : Nat := bits (x.w 0) 56 8
/-- RING_ADDR. -/
def IrisSess.ring (x : IrisSess) : Nat := bits (x.w 5) 0 48
/-- Entries of its rings. -/
def IrisSess.size (x : IrisSess) : Nat := 2 ^ bits (x.w 6) 0 4
/-- Die and index of PSEM. -/
def IrisSess.psem (x : IrisSess) : Nat × Nat := (bits (x.w 6) 16 1, bits (x.w 6) 4 12)
/-- RES_ADDR. -/
def IrisSess.res (x : IrisSess) : Nat := bits (x.w 7) 0 48
/-- Bytes of a sample. -/
def IrisSess.sample (x : IrisSess) : Nat := if x.d10 then 2 else 1
/-- PB (R384). -/
def IrisSess.pictureBytes (x : IrisSess) : Nat := ceilDiv (x.width * x.sample) 64 * 64 * (x.height + x.height / 2)
/-- The least DPB_BYTES (R385). -/
def IrisSess.dpbLeast (x : IrisSess) : Nat :=
  x.pictureBytes * (if x.dec then (if x.codec = 1 then 9 else 17) else if x.gop = 0 then 1 else if x.gop = 1 then 2 else 6)
/-- Rows of a coding block (R382, R385). -/
def IrisSess.block (x : IrisSess) : Nat := if x.codec = 1 then 64 else if bit (x.w 0) 10 then 64 else 32
/-- Block rows of a picture of an encode session (R380). -/
def IrisSess.rows (x : IrisSess) : Nat := ceilDiv x.height x.block
/-- Block rows of a slice or tile group. -/
def IrisSess.perSlice (x : IrisSess) : Nat := if x.slrows ≠ 0 then x.slrows else if x.codec = 1 then 36 else x.rows
/-- Slices or tile groups of an encoded picture. -/
def IrisSess.slices (x : IrisSess) : Nat := ceilDiv x.rows (max 1 x.perSlice)

/-- A parameter block's session. -/
def parseIris (p : Nat) (bs : List Byte) : IrisSess :=
  { part := p, words := (List.range 16).map (fun i => BitVec.ofNat 64 (wordAt bs (8 * i))), n := 0, held := [], group := 0, pics := 0, bytes := 0,
    closing := none, irap := false, skip := false, since := 0, coded := 0, hist := [] }

/-- The highest QP of an encode session. -/
def IrisSess.qpTop (x : IrisSess) : Nat := if x.codec = 1 then 255 else if x.d10 then 63 else 51

/-- A reserved field or value, or a field outside its range (R385, R386). -/
def IrisSess.bad (x : IrisSess) : Bool :=
  decide (bits (x.w 0) 12 4 ≠ 0 ∨ x.codec = 3 ∨ x.width < 64 ∨ 8192 < x.width ∨ x.width % 2 ≠ 0 ∨ x.height < 64 ∨ 4352 < x.height ∨ x.height % 2 ≠ 0 ∨
    bits (x.w 1) 18 14 ≠ 0 ∨ bits (x.w 5) 48 16 ≠ 0 ∨ bits (x.w 6) 17 47 ≠ 0 ∨ bits (x.w 7) 48 16 ≠ 0 ∨ bits (x.w 8) 48 16 ≠ 0 ∨ bits (x.w 9) 48 16 ≠ 0 ∨
    bits (x.w 6) 0 4 < 4 ∨ 12 < bits (x.w 6) 0 4 ∨ x.ring % (128 * x.size) ≠ 0 ∨ x.res % (64 * x.size) ≠ 0 ∨ x.w 8 % 64 ≠ 0 ∨ x.w 9 < x.dpbLeast) ||
  (x.words.drop 10).any (· ≠ 0) ||
  (if x.dec then decide (bits (x.w 0) 6 6 ≠ 0 ∨ x.slrows ≠ 0 ∨ x.w 1 ≠ 0 ∨ x.w 2 ≠ 0 ∨ x.w 3 ≠ 0 ∨ x.w 4 ≠ 0)
   else decide (x.gop = 3 ∨ bits (x.w 1) 16 2 = 3 ∨ (x.subf = true ∧ (x.gop = 2 ∨ x.slrows = 0))) ||
     [0, 8, 16, 24, 32].any (fun o => decide (x.qpTop < bits (x.w 3) o 8)))

/-- A profile, level or tool that R381 and R382 do not give, or a size beyond the level (R386). -/
def IrisSess.unsupported (x : IrisSess) : Bool :=
  decide ((x.codec = 2 ∧ (x.dec = false ∨ x.d10 = true)) ∨ (x.codec = 0 ∧ 186 < x.level) ∨ (x.codec = 1 ∧ 19 < x.level) ∨ (x.codec = 2 ∧ 62 < x.level)) ||
  !Config.levelAdmits x.codec x.dec x.level x.width x.height (bits (x.w 4) 0 32) (bits (x.w 4) 32 32)

/-- Its core is reserved to the partition. -/
def State.irisOf (s : State) (p k : Nat) : Bool :=
  match oget s.parts p with
  | some q => if k < 4 then q.renc.getLsbD k else q.rdec.getLsbD (k - 4)
  | none => false

/-- Its memory lies in regions of the partition with R and W permission. -/
def State.irisSpans (s : State) (p : Nat) (x : IrisSess) : Bool :=
  s.permits p x.ring (128 * x.size) true true false && s.permits p x.res (64 * x.size) true true false && s.permits p (x.w 8) (x.w 9) true true false

/-- IRS_OPEN; which free handle the session gets is free (log 10). A post semaphore outside the partition's range is denied (DESIGN CHOICE,
log 44: R386 does not name it). -/
def hIrsOpen : Handler := withPb 0 128 (fun c bs s =>
  let x := parseIris c.part bs
  let av1 := x.codec = 1 ∧ x.dec = false ∧ !((c.sess.map (fun q => q.feats.getLsbD 5)).getD false)
  if x.bad then (s, no 0x11)
  else if !s.irisSpans c.part x then (s, no 0x1A)
  else if !s.irisOf c.part x.core ∨ av1 ∨ !s.semIn c.part x.psem.2 then (s, no 0x14)
  else if x.unsupported then (s, no 0x58)
  else if 16 ≤ (s.iris.filter (fun (_, y) => y.core = x.core)).length then (s, no 0x19)
  else
    let free := (List.range 256).filter (fun h => (oget s.iris h).isNone)
    match free[Config.pick s.fresh % max 1 free.length]? with
    | none => (s, no 0x19)
    | some h => ({ s with iris := tins s.iris h x, fresh := s.fresh + 1 }, .done 0 h 0))

/-- A session of the partition. -/
def State.irisFor (s : State) (p h : Nat) : Except Nat IrisSess :=
  match oget s.iris h with
  | none => .error 0x15
  | some x => if x.part = p then .ok x else .error 0x14

/-- Iris core `k`. -/
def State.icore (s : State) (k : Nat) : IrisCore := tget (fun _ => IrisCore.reset) s.icores k
/-- The state with an Iris core changed. -/
def State.updIcore (s : State) (k : Nat) (f : IrisCore → IrisCore) : State :=
  { s with icores := tput (fun _ => IrisCore.reset) s.icores k (f (s.icore k)) }
/-- The state with a session changed. -/
def State.updIris (s : State) (h : Nat) (f : IrisSess → IrisSess) : State := { s with iris := oupd s.iris h f }

/-- A picture of the session is in its core's pipeline. -/
def State.irisBusy (s : State) (h : Nat) (x : IrisSess) : Bool := ((s.icore x.core).pic.map (fun p => p.sess == h)).getD false

/-- IRS_CLOSE (R395): held pictures and descriptors that have not started are dropped. -/
def hIrsClose : Handler := fun c s =>
  match s.irisFor c.part (c.p 0) with
  | .error st => (s, no st)
  | .ok x =>
    if x.closing.isSome then (s, no 0x16)
    else if s.irisBusy (c.p 0) x then (s.updIris (c.p 0) (fun x => { x with held := [], group := 0, closing := some (c.m, c.tag) }), .wait)
    else ({ s with iris := tdrop s.iris (c.p 0) }, ok)

/-- IRS_QUERY (R395). -/
def hIrsQuery : Handler := withResp 1 64 (fun c s =>
  match s.irisFor c.part (c.p 0) with
  | .error st => ([], no st)
  | .ok x => (wordsLe ([x.n % 2 ^ 32 + 2 ^ 32 * x.held.length + 2 ^ 40 * b2n x.closing.isSome, x.pics.toNat, x.bytes.toNat, 0, 0, 0, 0, 0].map (BitVec.ofNat 64)), ok))

/-! ### Descriptors (R388, R389) -/

/-- Word `i` of a picture's descriptor. -/
def dw (ws : List W64) (i : Nat) : Nat := (ws.getD i 0).toNat
/-- Die and semaphore of a field in the layout of R135, where its enable is set. -/
def semField (w : Nat) : Option (Nat × Nat) := if bit w 13 then some (bits w 12 1, bits w 0 12) else none

/-- Rows of a surface of `w` x `h` samples: address and bytes of each (R384). -/
def surfaceRows (ws : List W64) (w h b : Nat) : List (Nat × Nat) :=
  (List.range h).map (fun r => (bits (dw ws 1) 0 48 + r * bits (dw ws 3) 0 32, w * b)) ++
  (List.range (h / 2)).map (fun r => (bits (dw ws 2) 0 48 + r * bits (dw ws 3) 32 32, w * b))

/-- Bytes of the statistics of a picture (R397). -/
def IrisSess.statBytes (x : IrisSess) : Nat := 64 + 16 * (ceilDiv x.width 16 * ceilDiv x.height 16)

/-- The source bytes a descriptor names: a surface, or a unit of the bitstream. -/
def IrisSess.sources (x : IrisSess) (ws : List W64) : List (Nat × Nat) :=
  if x.dec then [(bits (dw ws 4) 0 48, bits (dw ws 5) 0 32)] else surfaceRows ws x.width x.height x.sample
/-- The bytes it may write. -/
def IrisSess.sinks (x : IrisSess) (ws : List W64) : List (Nat × Nat) :=
  (if x.dec then surfaceRows ws x.width x.height x.sample else [(bits (dw ws 4) 0 48, bits (dw ws 5) 0 32)]) ++
  (if bits (dw ws 6) 0 48 = 0 then [] else [(bits (dw ws 6) 0 48, x.statBytes)])

/-- A reserved field of a descriptor is not 0, or its statistics do not lie on 64 bytes (R8, R135, R389). -/
def irisReserved (ws : List W64) : Bool :=
  decide (bits (dw ws 0) 2 30 ≠ 0 ∨ bits (dw ws 5) 32 32 ≠ 0 ∨ bits (dw ws 7) 14 18 ≠ 0 ∨ bits (dw ws 8) 14 50 ≠ 0 ∨ bits (dw ws 9) 14 50 ≠ 0 ∨ dw ws 6 % 64 ≠ 0) ||
  [1, 2, 4, 6].any (fun i => decide (bits (dw ws i) 48 16 ≠ 0)) || (ws.drop 10).any (· ≠ 0)

/-- An address or a semaphore of a descriptor is refused (R391). A reserved field ends it so too (DESIGN CHOICE, log 44: the chapter names
no status of its own for one). -/
def State.irisRefused (s : State) (x : IrisSess) (ws : List W64) : Bool :=
  irisReserved ws ||
  (s.checkSpans x.part true false (x.sources ws)).isSome || (s.checkSpans x.part false true (x.sinks ws)).isSome ||
  [semField (dw ws 7), semField (dw ws 8), (if x.subf then semField (dw ws 9) else none)].any (fun f => match f with
    | some (_, i) => !s.semIn x.part i
    | none => false)

/-- The next descriptor of a session. -/
def State.irisDesc (s : State) (x : IrisSess) : List W64 :=
  (List.range 16).map (fun i => BitVec.ofNat 64 (s.le (x.ring + 128 * (x.n % x.size) + 8 * i) 8))

/-- A session has a picture to start: one held of a complete mini-GOP, or a descriptor that is posted and whose wait is
met. -/
def State.irisReady (s : State) (x : IrisSess) : Bool :=
  x.closing.isNone && (decide (0 < x.group) ||
    (decide (x.n < (s.sem x.psem.1 x.psem.2).value.toNat) &&
     match semField (dw (s.irisDesc x) 7) with
     | some (d, i) => !s.semIn x.part i || decide (dw (s.irisDesc x) 7 / 2 ^ 32 ≤ (s.sem d i).value.toNat)
     | none => true))

/-! ### What a picture becomes (R391, R392, R397, R398) -/

/-- A number that the core forms for a picture (R392). -/
def IrisSess.num (x : IrisSess) (hist : List Byte) (k : Nat) : Nat := Config.irisNat (wordsLe x.words) hist k

/-- Luma sample of a surface, nearest edge sample beyond it (R398). -/
def State.luma (s : State) (x : IrisSess) (ws : List W64) (r c : Nat) : Nat :=
  s.le (bits (dw ws 1) 0 48 + min r (x.height - 1) * bits (dw ws 3) 0 32 + min c (x.width - 1) * x.sample) x.sample % (if x.d10 then 1024 else 256)

/-- Set bits of a number below 8. -/
def ones3 (n : Nat) : Nat := n % 2 + n / 2 % 2 + n / 4 % 2

/-- The sum of a sub-block's Hadamard coefficients, without the first, for its top left sample (R398). -/
def State.satd8 (s : State) (x : IrisSess) (ws : List W64) (r c : Nat) : Nat :=
  let px (i j : Nat) : Int := (s.luma x ws (r + i) (c + j) : Int)
  let sign (n : Nat) : Int := if n % 2 = 0 then 1 else -1
  let coef (u v : Nat) : Int :=
    ((List.range 64).map (fun k => sign (ones3 (u &&& (k / 8)) + ones3 (v &&& (k % 8))) * px (k / 8) (k % 8))).foldl (· + ·) 0
  ((List.range 63).map (fun k => (coef ((k + 1) / 8) ((k + 1) % 8)).natAbs)).foldl (· + ·) 0

/-- SATD of a 16 x 16 block (R398). -/
def State.satd (s : State) (x : IrisSess) (ws : List W64) (r c : Nat) : Nat :=
  min (2 ^ 24 - 1) ((s.satd8 x ws r c + s.satd8 x ws r (c + 8) + s.satd8 x ws (r + 8) c + s.satd8 x ws (r + 8) (c + 8)) / 4)

/-- What the record of a block holds besides SATD and QP: vector, costs and modes (R397, R398). -/
structure BlockStat where
  mv : Nat
  costI : Nat
  costP : Nat
  intra : Bool
  skip : Bool
  mvv : Bool
  deriving DecidableEq, Repr

/-- Block `b` of a picture; `first`: the session's first picture. The encoder's search covers 256 samples to each side and 128 up and down
(R398). -/
def IrisSess.blockStat (x : IrisSess) (hist : List Byte) (first : Bool) (b : Nat) : BlockStat :=
  let f (k : Nat) : Nat := x.num hist (2 ^ 20 * (k + 1) + b)
  let intra := f 3 % 2 = 1
  let within (k n : Nat) : Nat := unsigned 16 ((f k % (2 * n + 1) : Nat) - (n : Int))
  if x.dec then { mv := f 0 % 2 ^ 32, costI := 0, costP := 0, intra := intra, skip := f 4 % 2 == 1, mvv := !intra }
  else { mv := within 0 1024 + 2 ^ 16 * within 5 512, costI := min 65535 (f 1), costP := min 65535 (f 2), intra := intra, skip := f 4 % 2 == 1, mvv := !first }

/-- Blocks of a picture. -/
def IrisSess.blocks (x : IrisSess) : Nat := ceilDiv x.width 16 * ceilDiv x.height 16

/-- NINTRA (R398). -/
def IrisSess.nintra (x : IrisSess) (hist : List Byte) (first : Bool) : Nat :=
  ((List.range x.blocks).filter (fun b =>
    let v := x.blockStat hist first b
    if x.dec then v.intra else v.mvv && decide (v.costI < v.costP))).length

/-- SCENE (R398). -/
def IrisSess.scene (x : IrisSess) (hist : List Byte) (first : Bool) : Nat :=
  if first then 65535 else min 65535 (65536 * x.nintra hist first / max 1 x.blocks)

/-- QP of a picture's blocks: constant where the session says so, else free, within QPMIN and QPMAX under CBR and VBR (R385). -/
def IrisSess.qp (x : IrisSess) (hist : List Byte) (ty b : Nat) : Nat :=
  let f := x.num hist (2 ^ 20 * 6 + b)
  let lo := bits (x.w 3) 24 8
  if x.dec then f % 256
  else if bits (x.w 1) 16 2 = 0 then (if bit (x.w 0) 7 then f % (x.qpTop + 1) else bits (x.w 3) (8 * ty) 8)
  else lo + f % (bits (x.w 3) 32 8 + 1 - lo)

/-- An encoded picture is an IRAP picture: asked for, forced, periodic or at a scene cut (R385, R391, R398). -/
def IrisSess.isIrap (x : IrisSess) (ws : List W64) : Bool :=
  if x.dec then x.num x.hist 4 % 2 == 1
  else
    let cut := bits (x.w 3) 40 16
    bit (dw ws 0) 0 || x.irap || decide (x.coded = 0) || (decide (bits (x.w 1) 0 16 ≠ 0) && decide (bits (x.w 1) 0 16 ≤ x.since + 1)) ||
    (decide (cut ≠ 0) && decide (cut ≤ x.scene x.hist (x.coded == 0)))

/-- TYPE of a picture: intra where it must be, no B picture in a low-delay HEVC stream (R382), else free (R390). -/
def IrisSess.pictureType (x : IrisSess) (irap : Bool) : Nat :=
  if (irap && !x.dec) || (!x.dec && x.gop == 0) then 0
  else if !x.dec && x.gop == 1 && x.codec == 0 then x.num x.hist 1 % 2 else x.num x.hist 1 % 3

/-- A picture starts in the core of session `h`: its descriptor is number `n`. -/
def State.startPicture (s : State) (h n : Nat) (ws : List W64) : State :=
  match oget s.iris h with
  | none => s
  | some x =>
    let lines := ((x.ring + 128 * (n % x.size), 128) :: x.sources ws).find? (fun r => s.poisoned r.1 r.2)
    let irap := x.isIrap ws
    let status := if s.irisRefused x ws then 4 else if lines.isSome then 5
      else if x.dec ∧ x.skip ∧ !irap then 3
      else if x.dec ∧ x.num x.hist 3 % 2 = 1 then 2 else 0
    let p : IrisPic :=
      { sess := h, n := n, words := ws, hist := x.hist, irap := irap, ty := x.pictureType irap, status := status, rows := 0,
        slices := 0, prog := 0, told := 0, repeated := false }
    let s := s.updIris h (fun x => { x with
      coded := x.coded + 1, since := if irap then 0 else x.since + 1, skip := x.skip && !(x.dec && irap), irap := x.irap && !irap })
    let s := s.updIcore x.core (fun k => { k with pic := some p })
    if status = 5 then match lines with
      | some (a, _) => s.event x.part 0x24 (a % 2 ^ 48)
      | none => s
    else s

/-- The next held picture in mini-GOP order, which is free (log 10), starts. -/
def State.startHeld (s : State) (h : Nat) : State :=
  match oget s.iris h with
  | none => s
  | some x =>
    let i := x.num x.hist 10 % max 1 x.held.length
    match x.held[i]? with
    | none => s
    | some (n, ws) => (s.updIris h (fun x => { x with held := x.held.eraseIdx i, group := x.group - 1 })).startPicture h n ws

/-- The source bytes that a picture is made of; of a 10-bit sample Iris ignores bits [15:10] (R384). -/
def State.sourceBytes (s : State) (x : IrisSess) (ws : List W64) : List Byte :=
  (x.sources ws).flatMap (fun r =>
    let bs := s.bytes r.1 r.2
    if !x.dec && x.d10 then bs.zipIdx.map (fun (b, j) => if j % 2 = 1 then b % 4 else b) else bs)

/-- Descriptor `n` of a session is read (R388, R389): it starts, or in random-access mode joins the pictures held. -/
def State.readDescriptor (s : State) (h : Nat) (x : IrisSess) : State :=
  let ws := s.irisDesc x
  let src := if s.irisRefused x ws then [] else s.sourceBytes x ws
  let s := s.updIris h (fun x => { x with n := x.n + 1, hist := x.hist ++ wordsLe ws ++ src })
  if x.dec ∨ x.gop ≠ 2 ∨ s.irisRefused x ws ∨ (x.held = [] ∧ (bit (dw ws 0) 0 ∨ x.coded = 0 ∨ x.irap = true)) then s.startPicture h x.n ws
  else
    let held := x.held ++ [(x.n, ws)]
    let full := decide (8 ≤ held.length) || bit (dw ws 0) 1 || bit (dw ws 0) 0
    let s := s.updIris h (fun x => { x with held := held, group := if full then held.length else 0 })
    if full then s.startHeld h else s

/-- IRIS_DESCRIPTOR_START: the core takes the next picture of the session whose turn it is; one that has none ready loses its
turn (R387). -/
def irisStart (k : Nat) (s : State) : State :=
  if (s.icore k).pic.isSome ∨ !s.workOpen then s
  else
    let t := (s.icore k).turn
    let mine := s.iris.filter (fun (_, x) => x.core = k)
    match (mine.filter (fun (h, _) => decide (t ≤ h)) ++ mine.filter (fun (h, _) => decide (h < t))).find? (fun (_, x) => s.irisReady x) with
    | none => s
    | some (h, x) =>
      let s := s.updIcore k (fun c => { c with turn := h + 1 })
      if 0 < x.group then s.startHeld h else s.readDescriptor h x

/-- Rows of the picture in the pipeline: a decoded picture's depend on its stream. -/
def IrisSess.picRows (x : IrisSess) (p : IrisPic) : Nat := if x.dec then 1 + x.num p.hist 11 % ceilDiv x.height 16 else x.rows

/-- IRIS_ROW_DONE. -/
def irisRow (k : Nat) (s : State) : State :=
  match (s.icore k).pic with
  | none => s
  | some p => match oget s.iris p.sess with
    | none => s
    | some x => if p.status = 0 ∧ p.rows < x.picRows p then s.updIcore k (fun c => { c with pic := some { p with rows := p.rows + 1 } }) else s

/-- Bytes that a core writes for a picture: of the bitstream, the luma or the chroma plane, from place `o`. -/
def IrisSess.out (x : IrisSess) (p : IrisPic) (what o n : Nat) : List Byte :=
  (List.range n).map (fun i => Config.irisByte (wordsLe x.words) p.hist what (o + i))

/-- The record's address. -/
def IrisSess.recAt (x : IrisSess) (p : IrisPic) : Nat := x.res + 64 * (p.n % x.size)

/-- IRIS_SLICE_EMIT (R396): the slice's bytes, then PROG in the record, then SLSIG, which a repeat does not signal again. -/
def irisSlice (k : Nat) (s : State) : State :=
  match (s.icore k).pic with
  | none => s
  | some p => match oget s.iris p.sess with
    | none => s
    | some x =>
      if !x.subf ∨ x.dec ∨ p.status ≠ 0 ∨ x.slices ≤ p.slices ∨ p.rows < min x.rows ((p.slices + 1) * x.perSlice) then s
      else
        let n := x.num p.hist (16 + p.slices)
        if bits (dw p.words 5) 0 32 < p.prog + n then s.updIcore k (fun c => { c with pic := some { p with status := 1 } })
        else
          let s := s.write (bits (dw p.words 4) 0 48 + p.prog) (x.out p 0 p.prog n)
          let q := { p with prog := p.prog + n, slices := p.slices + 1, told := max p.told (p.slices + 1) }
          let s := if p.told ≤ p.slices then s.write (x.recAt p + 0x20) (toLe 8 q.prog) else s
          let s := match semField (dw p.words 9) with
            | some (d, i) => if p.told ≤ p.slices then s.signalOr x.part d i 1 else s
            | none => s
          s.updIcore k (fun c => { c with pic := some q })

/-- The statistics of a picture (R397). -/
def State.irisStats (s : State) (x : IrisSess) (p : IrisPic) (first : Bool) : List Byte :=
  let nx := ceilDiv x.width 16
  let ny := ceilDiv x.height 16
  let satds := (List.range (nx * ny)).map (fun b => s.satd x p.words (b / nx * 16) (b % nx * 16))
  let head := [nx + 2 ^ 16 * ny + 2 ^ 32 * x.scene p.hist first, satds.foldl (· + ·) 0 % 2 ^ 48,
    x.nintra p.hist first % 2 ^ 32 + 2 ^ 32 * bits (dw p.words 0) 32 32, 0, 0, 0, 0, 0]
  wordsLe ((head ++ ((List.range (nx * ny)).flatMap (fun b =>
    let v := x.blockStat p.hist first b
    [v.mv + 2 ^ 32 * satds.getD b 0 + 2 ^ 56 * x.qp p.hist p.ty b,
     v.costI + 2 ^ 16 * v.costP + 2 ^ 32 * b2n v.intra + 2 ^ 33 * b2n v.skip + 2 ^ 34 * b2n v.mvv]))).map (BitVec.ofNat 64))

/-- What the outputs of a finished picture are: its status, BYTES, and the spans written. -/
def IrisSess.result (x : IrisSess) (p : IrisPic) : Nat × Nat × List (Nat × List Byte) :=
  let at_ := bits (dw p.words 4) 0 48
  let cap := bits (dw p.words 5) 0 32
  if 3 ≤ p.status then (p.status, 0, [])
  else if x.dec then
    let w := x.width - 2 * (x.num p.hist 5 % (x.width / 2))
    let h := x.height - 2 * (x.num p.hist 6 % (x.height / 2))
    let place (i : Nat) (r : Nat × Nat) : Nat × List Byte :=
      (r.1, if x.d10 then (x.out p 1 (2 ^ 16 * i) r.2).zipIdx.map (fun (b, j) => if j % 2 = 1 then b % 4 else b) else x.out p 1 (2 ^ 16 * i) r.2)
    (p.status, x.num p.hist 9 % (cap + 1), (surfaceRows p.words w h x.sample).zipIdx.map (fun (r, i) => place i r))
  else if x.subf then (p.status, p.prog, if p.status = 1 then [(at_, x.out p 0 0 cap)] else [])
  else
    let n := x.num p.hist 0
    if cap < n then (1, x.num p.hist 12 % (cap + 1), [(at_, x.out p 0 0 cap)]) else (0, n, [(at_, x.out p 0 0 n)])

/-- A session that closes, and whose last picture is done, ends (R395). -/
def State.settleIris (s : State) (h : Nat) : State :=
  match oget s.iris h with
  | none => s
  | some x => match x.closing with
    | none => s
    | some (m, tag) =>
      let s : State := { s with iris := tdrop s.iris h }
      match s.cmd m tag with
      | some c => s.complete c 0 false 0 0
      | none => s

/-- Mean QP of a picture's blocks, rounded down. -/
def IrisSess.qpMean (x : IrisSess) (p : IrisPic) : Nat :=
  ((List.range x.blocks).map (fun b => x.qp p.hist p.ty b)).foldl (· + ·) 0 / max 1 x.blocks

/-- The record of a picture (R390). -/
def IrisSess.record (x : IrisSess) (p : IrisPic) (status bytes : Nat) (first : Bool) : List Byte :=
  let order := if x.dec then x.num p.hist 7 else p.n
  let ns := if x.dec then x.num p.hist 8 % 65536 else x.slices
  wordsLe ([p.n % 2 ^ 32 + 2 ^ 32 * status + 2 ^ 40 * p.ty + 2 ^ 42 * b2n p.irap, bytes % 2 ^ 32 + 2 ^ 32 * bits (dw p.words 0) 32 32, order,
    x.scene p.hist first + 2 ^ 16 * (x.qpMean p % 256) + 2 ^ 24 * ns, if x.subf then p.prog else 0, 0, 0, 2 ^ 63].map (BitVec.ofNat 64))

/-- IRIS_PICTURE_DONE (R390, R391): the outputs and statistics are written, then the record, then SIG is signalled. -/
def irisDone (k : Nat) (s : State) : State :=
  match (s.icore k).pic with
  | none => s
  | some p => match oget s.iris p.sess with
    | none => s
    | some x =>
      if p.status = 0 ∧ (p.rows < x.picRows p ∨ (x.subf ∧ !x.dec ∧ p.slices < x.slices)) then s
      else
        let first := decide (p.n = 0)
        let (status, bytes, ws) := x.result p
        let s := s.writes ws
        let st := bits (dw p.words 6) 0 48
        let s := if st ≠ 0 ∧ status < 3 then s.write st (s.irisStats x p first) else s
        let s := if s.permits x.part (x.recAt p) 64 false true false then s.write (x.recAt p) (x.record p status bytes first) else s
        let s := match semField (dw p.words 8) with
          | some (d, i) => if s.semIn x.part i then s.signalOr x.part d i 1 else s
          | none => s
        let s := s.updIris p.sess (fun x => { x with
          pics := x.pics + 1, bytes := x.bytes + BitVec.ofNat 64 bytes, irap := x.irap || (!x.dec && (status == 1 || status == 4 || status == 5)), skip := x.skip || (x.dec && status == 2) })
        let s := s.updIcore k (fun c => { c with
          pic := none, pics := if status < 3 then c.pics + 1 else c.pics, samples := if status < 3 then c.samples + BitVec.ofNat 64 (x.width * x.height) else c.samples })
        s.settleIris p.sess

/-- IRIS_PICTURE_REPEAT (R393): the picture begins again; a second failure within it is a hub failure. -/
def irisRepeat (k : Nat) (s : State) : State :=
  match (s.icore k).pic with
  | none => s
  | some p =>
    if p.repeated then s.failModule
    else s.updIcore k (fun c => { c with
      pic := some { p with rows := 0, slices := 0, prog := 0, repeated := true, status := if p.status = 1 then 0 else p.status }, repeats := c.repeats + 1 })

/-! ### The rows -/

/-- IRS_OPEN. -/
def execIrsOpen (m : Nat) (h : CmdHdr) (pb : W64) (s : State) : Host.Outcome State Fault Refusal := .next (runCmd m h 0x0900 [pb] hIrsOpen s)
/-- IRS_CLOSE. -/
def execIrsClose (m : Nat) (h : CmdHdr) (session : W64) (s : State) : Host.Outcome State Fault Refusal :=
  .next (runCmd m h 0x0901 [session] hIrsClose s)
/-- IRS_QUERY. -/
def execIrsQuery (m : Nat) (h : CmdHdr) (session resp : W64) (s : State) : Host.Outcome State Fault Refusal :=
  .next (runCmd m h 0x0902 [session, resp] hIrsQuery s)
/-- IRIS_DESCRIPTOR_START. -/
def execIrisDescriptorStart (k : Nat) (s : State) : Host.Outcome State Fault Refusal := .next (irisStart k s)
/-- IRIS_ROW_DONE. -/
def execIrisRowDone (k : Nat) (s : State) : Host.Outcome State Fault Refusal := .next (irisRow k s)
/-- IRIS_SLICE_EMIT. -/
def execIrisSliceEmit (k : Nat) (s : State) : Host.Outcome State Fault Refusal := .next (irisSlice k s)
/-- IRIS_PICTURE_DONE. -/
def execIrisPictureDone (k : Nat) (s : State) : Host.Outcome State Fault Refusal := .next (irisDone k s)
/-- IRIS_PICTURE_REPEAT. -/
def execIrisPictureRepeat (k : Nat) (s : State) : Host.Outcome State Fault Refusal := .next (irisRepeat k s)

end Sys2Proof.Machine
end

