-- ==== Sys2Proof/Machine/Secure.lean ====
section
/-!
DEFINITION. Partition keys, secure partitions and attestation (R425 to R427), SPDM measurements (R419), and the telemetry and
diagnostic commands of groups 0x0A and 0x0C (R279).
-/

namespace Sys2Proof.Machine

/-! ### Partition keys (R425, R426) -/

/-- Key slot `i` of a partition. -/
def State.pkey (s : State) (p i : Nat) : Option PKey := oget s.pkeys (4 * p + i)

/-- Key slots of a partition that hold a key. -/
def State.pkeysOf (s : State) (p : Nat) : List (Nat × PKey) :=
  (List.range 4).filterMap (fun i => (s.pkey p i).map (fun k => (i, k)))

/-- SEC_KEY_SET: a key is set, or its slot cleared. -/
def hSecKeySet : Handler := withPb 1 256 (fun c bs s =>
  let p := c.p 0
  let w0 := wordAt bs 0
  let id := wordAt bs 8
  let x := beNat ((bs.drop 0x10).take 66)
  let y := beNat ((bs.drop 0x52).take 66)
  let i := w0 % 4
  if 16 ≤ p ∨ 4 ≤ w0 ∨ (bs.drop 0x94).any (· ≠ 0) then (s, no 0x11)
  else if (oget s.parts p).isNone ∨ s.isSecure p then (s, no 0x16)
  else if x = 0 ∧ y = 0 then ({ s with pkeys := tdrop s.pkeys (4 * p + i) }, ok)
  else if id = 0 ∨ !P521.onCurve (x, y) ∨ (s.pkeysOf p).any (fun k => k.1 != i && k.2.id.toNat == id) then (s, no 0x11)
  else ({ s with pkeys := tins s.pkeys (4 * p + i) { id := BitVec.ofNat 64 id, x := x, y := y } }, ok))

/-- A signer is one of the partition's keys. -/
def State.signedBy (s : State) (p signer : Nat) : Bool := (s.pkeysOf p).any (fun k => k.2.id.toNat == signer)

/-- The partition may become secure. -/
def State.maySecure (s : State) (p : Nat) : Bool :=
  !(s.pkeysOf p).isEmpty && s.images.all (fun (_, i) => i.part != p || (i.signed && s.signedBy p i.signer)) &&
  s.wwins.all (fun (_, w) => w.part != p || !w.run || (match oget s.wpkgs w.pkg with
    | some t => t.signed && s.signedBy p t.signer
    | none => true))

/-- The partition may stop being secure. -/
def State.mayRelease (s : State) (p : Nat) : Bool :=
  s.images.all (fun (_, i) => i.part != p) && s.wwins.all (fun (_, w) => w.part != p || !w.run)

/-- SEC_SECURE. -/
def hSecSecure : Handler := fun c s =>
  let p := c.p 0
  if 16 ≤ p ∨ 1 < c.p 1 then (s, no 0x11)
  else if (oget s.parts p).isNone then (s, no 0x16)
  else if c.p 1 = 1 then
    if s.maySecure p then ({ s with secure := p :: s.secure.filter (· ≠ p) }, ok) else (s, no 0x16)
  else if s.mayRelease p then ({ s with secure := s.secure.filter (· ≠ p) }, ok) else (s, no 0x16)

/-! ### Attestation (R427) and measurements (R419) -/

/-- What the module forms with its secrets (log 14): `n` bytes of a kind, over what they cover. -/
def secret (what : Nat) (over_ : List Byte) (n : Nat) : List Byte := (List.range n).map (Config.secretByte what over_)

/-- The patch table in force. -/
def State.patchBytes (s : State) : Option (List Byte) :=
  if !s.patch.2 then none else (if s.board.patchB then s.board.copyB else s.board.copyA).map (·.bytes)

/-- Measurement 1: the ROM; its bytes are not printed (log 13). -/
def romDigest : List Byte := secret 1 [] 64
/-- Measurement 2: the patch table in force, or zero. -/
def State.patchDigest (s : State) : List Byte := match s.patchBytes with
  | some bs => sha512 bs
  | none => List.replicate 64 0
/-- Measurement 3: the trim record (log 13). -/
def trimDigest : List Byte := secret 3 [] 64

/-- The entries of a partition's report, each of 80 bytes, by kind and handle. -/
def State.attestEntries (s : State) (p : Nat) : List (List Byte) :=
  let entry (kind n id : Nat) (d : List Byte) : List Byte := wordsLe ([kind + 2 ^ 32 * n, id].map (BitVec.ofNat 64)) ++ d
  (s.images.filter (fun (_, i) => i.part == p)).map (fun (n, i) => entry 1 n (if i.signed then i.signer else 0) i.digest) ++
  (s.wpkgs.filter (fun (_, t) => t.ready && (t.part == p || t.grants.contains p))).map (fun (n, t) => entry 2 n (if t.signed then t.signer else 0) t.digest) ++
  (s.pkeysOf p).map (fun (i, k) => entry 3 i k.id.toNat (sha512 ((toLe 66 k.x).reverse ++ (toLe 66 k.y).reverse)))

/-- What the attestation key depends on: ROM, patch table and trim record (R422). -/
def State.akSeed (s : State) : List Byte := romDigest ++ s.patchDigest ++ trimDigest

/-- Bytes of the certificate chain: the attestation key's, the device's and the device CA's. -/
def State.akChain (s : State) : List Byte := secret 6 s.akSeed (ofLe (secret 5 s.akSeed 2) % 8193)

/-- The report, signature included. -/
def State.report427 (s : State) (p : Nat) (nonce : List Byte) : List Byte :=
  let es := s.attestEntries p
  let ks := es.take 1024
  let len := 0x1D0 + 80 * ks.length + 136
  let body := wordsLe ([0x54415A59 + 2 ^ 32, len + 2 ^ 32 * ks.length,
      p + 16 * b2n (s.isSecure p) + 32 * b2n s.patch.2 + 64 * b2n (decide (1024 < es.length)), s.ftime].map (BitVec.ofNat 64)) ++
    nonce ++ romDigest ++ s.patchDigest ++ trimDigest ++
    wordsLe [BitVec.ofNat 64 (Config.romVer.toNat + 2 ^ 32 * s.patch.1), Config.serial] ++ orderBytes ++
    wordsLe [BitVec.ofNat 64 (0x3142 + 2 ^ 32 * s.akChain.length)] ++ secret 4 s.akSeed 132 ++ List.replicate 4 0 ++ ks.flatten
  body ++ secret 7 (s.akSeed ++ body) 132 ++ List.replicate 4 0

/-- SEC_ATTEST. -/
def hSecAttest : Handler := fun c s =>
  match s.blockRefusal c.part (c.w 0) 64 true false, s.blockRefusal c.part (c.w 1) 98304 false true with
  | some st, _ => (s, no st)
  | none, some st => (s, no st)
  | none, none =>
    let r := s.report427 c.part (s.awBytes c.part (c.w 0) 64)
    let s1 := s.awWrite c.part (c.w 1) r
    (s1.awWrite c.part (c.w 1 + BitVec.ofNat 64 (roundUp r.length 64)) s.akChain, ok)

/-! ### Telemetry and diagnostics (R279): the layouts of their blocks are not printed (log 10) -/

/-- TEL_SUBSCRIBE. -/
def hTelSubscribe : Handler := fun c s => (s.updMbx c.m (fun b => { b with telMask := c.w 0 }), ok)
/-- TEL_READ. -/
def hTelRead : Handler := fun c s => freeResp 0x0A03 0 64 s c
/-- DIAG_LOG. -/
def hDiagLog : Handler := fun c s => freeResp 0x0C00 0 64 s c

/-- The unit works for a launch. -/
def State.unitBusy (s : State) (k : EngineKind) (n : Nat) : Bool :=
  match k with
  | .core => (List.range 4).any (fun x => (s.ctx n x).launch.isSome)
  | _ => (s.unitAt k n).1.isSome

/-- DIAG_SELFTEST: a unit of the partition that works for no launch is tested. Of when it answers ST_RESOURCE the manual says nothing: here
while another DIAG_SELFTEST is outstanding (DESIGN CHOICE, log 44). -/
def hDiagSelftest : Handler := fun c s =>
  let w := c.p 0
  if bits w 4 4 ≠ 0 ∨ 2 ^ 16 ≤ w then (s, no 0x11)
  else match diagUnit w with
    | none => (s, no 0x11)
    | some (k, n) =>
      if !s.engineOf c.part k n then (s, no 0x14)
      else if s.unitBusy k n then (s, no 0x16)
      else if s.journal.any (fun d => d.code == 0x0C01 && d.bg) then (s, no 0x19)
      else (s, .bg)

/-- The finish of DIAG_SELFTEST. -/
def finDiagSelftest (c : Cmd) (s : State) : State := s.complete c 0 false 0 0

/-- The fault that a DIAG_INJECT block asks for, in partition `p`: the manual prints no layout of the block, so which of the faults of
R206, R207, R361 and R367 it is, and where, is free (log 10). -/
def State.inject (s : State) (p : Nat) (bs : List Byte) : State :=
  let f := Config.diagInject bs
  let units := (List.range 128).filter (fun n => s.engineOf p .core n)
  let n := units.getD (f 2 % max 1 units.length) 0
  let regs := s.regions.filter (fun (k, r) => k / 1024 = p && !r.map)
  let a := match regs[f 3 % max 1 regs.length]? with
    | some (_, r) => r.baseg * granule + f 4 % ((r.lastg + 1 - r.baseg) * granule) / 64 * 64
    | none => 0
  match f 1 % 6 with
  | 0 => if units = [] then s else sramCorrected .core n s
  | 1 => if units = [] then s else sramUncorrectable .core n s
  | 2 => if units = [] then s else s.unitFails .core n
  | 3 => if regs = [] then s else s.eccCorrected a
  | 4 => if regs = [] then s else s.eccLost a
  | _ => s

/-- DIAG_INJECT: it acts on a diagnostic partition that is not secure (R427). -/
def hDiagInject : Handler := withPb 0 64 (fun _ bs s =>
  let ps := s.parts.filter (fun (p, q) => q.diag && !s.isSecure p)
  match ps[Config.diagInject bs 0 % max 1 ps.length]? with
  | some (p, _) => (s.inject p bs, ok)
  | none => (s, no 0x16))

/-! ### The rows -/

/-- TEL_SUBSCRIBE. -/
def execTelSubscribe (m : Nat) (h : CmdHdr) (mask : W64) (s : State) : Host.Outcome State Fault Refusal :=
  .next (runCmd m h 0x0A02 [mask] hTelSubscribe s)
/-- TEL_READ. -/
def execTelRead (m : Nat) (h : CmdHdr) (resp : W64) (s : State) : Host.Outcome State Fault Refusal := .next (runCmd m h 0x0A03 [resp] hTelRead s)
/-- SEC_KEY_SET. -/
def execSecKeySet (m : Nat) (h : CmdHdr) (part key : W64) (s : State) : Host.Outcome State Fault Refusal :=
  .next (runCmd m h 0x0B00 [part, key] hSecKeySet s)
/-- SEC_SECURE. -/
def execSecSecure (m : Nat) (h : CmdHdr) (part enable : W64) (s : State) : Host.Outcome State Fault Refusal :=
  .next (runCmd m h 0x0B01 [part, enable] hSecSecure s)
/-- SEC_ATTEST. -/
def execSecAttest (m : Nat) (h : CmdHdr) (nonce resp : W64) (s : State) : Host.Outcome State Fault Refusal :=
  .next (runCmd m h 0x0B02 [nonce, resp] hSecAttest s)
/-- DIAG_LOG. -/
def execDiagLog (m : Nat) (h : CmdHdr) (resp start : W64) (s : State) : Host.Outcome State Fault Refusal :=
  .next (runCmd m h 0x0C00 [resp, start] hDiagLog s)
/-- DIAG_SELFTEST. -/
def execDiagSelftest (m : Nat) (h : CmdHdr) (unit : W64) (s : State) : Host.Outcome State Fault Refusal :=
  .next (runCmd m h 0x0C01 [unit] hDiagSelftest s)
/-- DIAG_INJECT. -/
def execDiagInject (m : Nat) (h : CmdHdr) (pb : W64) (s : State) : Host.Outcome State Fault Refusal :=
  .next (runCmd m h 0x0C02 [pb] hDiagInject s)

end Sys2Proof.Machine
end

