-- ==== Sys2Proof/Machine/Host.lean ====
section
/-!
DEFINITION. The host interface: functions and their resets (R400 to R404, R445), register space (R405 to R408), the DRAM window
(R409 to R411), MSI-X (R413), IDE (R415) and configuration requests.
-/

namespace Sys2Proof.Machine

/-! ### Function-level reset (R403, R445) -/

/-- A ring of the queue pair is a host address. -/
def Qp.hostRing (q : Qp) : Bool := awHost q.sqAddr || awHost q.cqAddr

/-- What a reset of function `p` does to the mailbox and queue pairs of partition `p`: the session closes, EN becomes 0, what is
outstanding runs on and its completions are discarded. -/
def State.dropHost (s : State) (p : Nat) : State :=
  let s := s.updMbx p (fun b => { b with session := none, en := false, disable := false, due := [] })
  { s with
    journal := s.journal.map (fun c => if c.m = p then { c with discard := true } else c)
    qps := s.qps.map (fun (k, q) => (k, if q.part = p ∧ q.hostRing then { q with stopped := true, discard := true, due := [] } else q)) }

/-- The configuration of function `p`, its MSI-X table and MEM_BAR4 return to their reset values; a reset of the physical
function disables the virtual ones. The size of the virtual functions' BAR4 stands at key 16. -/
def State.resetFunc (s : State) (p : Nat) : State :=
  let s := s.setFunc p { Func.reset with enabled := decide (p ≠ 0) && (s.func p).enabled }
  let s := if p = 0 then { s with funcs := s.funcs.filter (fun (k, _) => decide (k = 0)) } else s
  { s with pages := oupd s.pages p (fun g => { g with bar4 := 0 }) }

/-- FLR of function `p`. -/
def flr (p : Nat) (s : State) : State := if 16 ≤ p ∨ !s.funcHere p then s else (s.resetFunc p).dropHost p

/-- Every function is handled as by an FLR; the link is down (R445). -/
def State.endpointReset (s : State) : State :=
  let s := (List.range 16).foldl (fun s p => (s.resetFunc (15 - p)).dropHost (15 - p)) s
  { s with linkUp := false, board := { s.board with ide := [] } }

/-! ### Violations (R410) -/

/-- The page of partition `p`. -/
def State.page (s : State) (p : Nat) : Page := (oget s.pages p).getD Page.reset
/-- SEC_HOST_VIOL_ADDR. -/
def Page.violWord (g : Page) : Nat := g.violAddr % 2 ^ 48 + 2 ^ 48 * b2n g.violWrite + 2 ^ 49 * g.violCause

/-- A host access of function `p` is refused: counted, and told at most once in a millisecond. -/
def State.refuseHost (s : State) (p addr : Nat) (write : Bool) (cause : Nat) : State :=
  let g := s.page p
  let tell := match g.violAt with
    | none => true
    | some t => decide (t + 8000000 ≤ s.time)
  let g : Page := { g with viol := g.viol + 1, violAddr := addr, violWrite := write, violCause := cause, violAt := if tell then some s.time else g.violAt }
  let s : State := { s with pages := tins s.pages p g }
  if tell then s.event p 0x30 g.violWord else s

/-! ### The register space, read (R405 to R408) -/

/-- SEC_BOOT (R424). -/
def State.secBoot (s : State) : Nat :=
  let b := s.board
  b.step + 2 ^ 4 * b2n b.failed + 2 ^ 12 * b.err + 2 ^ 20 * b2n b.trimB + 2 ^ 21 * b2n b.patchB + 2 ^ 22 * b2n s.patch.2

/-- PWR_MOD.STATE (R447): 2 while the module enters Sleep. -/
def State.pwrState (s : State) : Nat :=
  if s.mode = .standby then
    if s.board.sleepAt.isSome || (match s.board.trans with
      | some (_, _, t) => t == 2
      | none => false) then 2 else 1
  else 0

/-- PWR_MOD. -/
def State.pwrMod (s : State) : Nat :=
  s.pwrState + 4 * b2n s.board.trans.isSome + 2 ^ 8 * s.board.lastRst + 2 ^ 16 * min 255 s.board.gtrips

/-- State of a logical core in PWR_CORE (R430, R447): Idle in a cycle without a ready context. -/
def State.corePower (s : State) (c : Nat) : Nat :=
  match (s.core c).power with
  | .run => if (List.range 4).any (fun x => s.canRun c x) then 0 else 1
  | .retain => 2
  | .off => 3

/-- A sum of `n` fields of `w` bits. -/
def packed (w n : Nat) (f : Nat → Nat) : Nat := ((List.range n).map (fun i => f i * 2 ^ (w * i))).foldl (· + ·) 0

/-- PWR_UNIT. -/
def State.pwrUnit (s : State) : Nat :=
  packed 1 32 (fun u => b2n (decide ((s.fox u).power = .off))) + 2 ^ 32 * packed 1 4 (fun k => b2n (decide ((s.prim k).power = .off))) +
  2 ^ 36 * packed 1 8 (fun k => b2n (s.iris.any (fun (_, x) => x.core == k)))

/-- The registers of the module page at a base, by index (R406). -/
def State.modReg (s : State) (base i : Nat) : Nat :=
  let h := s.health
  let f := s.flash
  if base = 0 then (if i = 0 then s.secBoot else 0)
  else if base = 1 then
    match i with
    | 0 => s.pwrMod
    | 2 => s.board.vin % 2 ^ 16 + 2 ^ 16 * (s.board.pin % 2 ^ 16) + 2 ^ 32 * (s.board.tmax % 256)
    | 7 => s.pwrUnit
    | i => if 3 ≤ i ∧ i < 7 then packed 2 32 (fun k => s.corePower (32 * (i - 3) + k))
      else if 8 ≤ i ∧ i < 24 then (s.part (i - 8)).offUs.toNat else 0
  else if base = 2 then
    match i with
    | 0 => h.risk + 2 ^ 16 * h.band + 2 ^ 32 * min (2 ^ 32 - 1) (h.e / 2 ^ 32)
    | 1 => h.bandMin.toNat
    | 2 => s.sparesLeft 0 0 + 2 ^ 3 * s.sparesLeft 0 1 + 2 ^ 6 * s.sparesLeft 1 0 + 2 ^ 7 * s.sparesLeft 1 1 +
        2 ^ 8 * s.sparesLeft 2 0 + 2 ^ 10 * s.sparesLeft 2 1 + 2 ^ 32 * (h.history.length % 2 ^ 16)
    | 3 => h.auditCfg.toNat
    | 4 => h.auditSeed.toNat
    | 5 => h.auditRuns.toNat
    | 6 => h.auditMiss.toNat + 2 ^ 32 * h.auditSkip.toNat
    | _ => 0
  else if base = 3 then
    match i with
    | 0 => unsigned 64 f.credit
    | 1 => f.wear + 2 ^ 2 * f.k + 2 ^ 5 * b2n f.degr
    | 2 => f.progBytes.toNat
    | 3 => f.eraseRange.1 % 2 ^ 16 + 2 ^ 16 * (f.eraseRange.2 % 2 ^ 16)
    | 4 => f.retry.toNat
    | 5 => f.lost.toNat
    | 6 => f.grown.toNat + 2 ^ 32 * f.failed.length
    | _ => 0
  else if base = 4 ∨ base = 5 then
    let d := tget (fun _ => DramDie.reset) s.dies (base - 4)
    match i with
    | 0 => d.hotWin.toNat
    | 1 => d.hotCh.toNat + 2 ^ 16 * d.hotGran.toNat
    | 2 => d.eccCe.toNat
    | 3 => d.eccUe.toNat
    | 4 => d.spareUsed.toNat + 2 ^ 32 * d.minCh.toNat + 2 ^ 40 * d.minLeft.toNat
    | _ => 0
  else if base = 6 then
    match s.wwin (i / 4), i % 4 with
    | some v, 0 => v.n % 2 ^ 32 + 2 ^ 32 * b2n v.run
    | some v, 1 => v.stall.toNat
    | some v, 2 => v.late.toNat + 2 ^ 32 * v.rlate.toNat
    | _, _ => 0
  else if base = 7 then
    let q := s.port (i / 8)
    if 26 ≤ i / 8 then 0
    else match i % 8 with
    | 0 => q.stat
    | 1 => q.fec.toNat
    | 2 => q.unc.toNat
    | 3 => q.crc.toNat
    | 4 => q.replay.toNat
    | 5 => q.retrain.toNat
    | _ => 0
  else if base = 8 then
    let q := s.fox (i / 8)
    if 32 ≤ i / 8 then 0
    else match i % 8 with
    | 0 => q.emptyRow.toNat
    | 1 => q.visit.toNat
    | 2 => q.skip.toNat
    | 3 => q.labMiss.toNat
    | 4 => q.pinWait.toNat
    | _ => 0
  else if base = 9 then
    let q := s.icore (i / 8)
    if 8 ≤ i / 8 then 0
    else match i % 8 with
    | 0 => b2n q.pic.isSome + 2 * (s.iris.filter (fun (_, x) => x.core = i / 8)).length
    | 1 => q.pics.toNat
    | 2 => q.samples.toNat
    | 3 => q.repeats.toNat
    | _ => 0
  else 0

/-- QE_SEM_HOLD (R299). -/
def Sem.holdWord (v : Sem) : Nat := match v.hold with
  | some h => 1 + 2 * (h.core % 128) + 2 ^ 8 * (h.ctx % 4) + 2 ^ 16 * (h.n % 2 ^ 32)
  | none => 0

/-- The register of partition page `p` at offset `o` (R407). -/
def State.pageReg (s : State) (p o : Nat) : Nat :=
  let q := s.part p
  if o < 0x10000 then
    match o / 8 with
    | 0 => q.acctCore / 12
    | 1 => q.acctFox / 12
    | 2 => q.acctPrim / 12
    | 3 => q.preempts.toNat + 2 ^ 32 * q.maxNs.toNat
    | 4 => q.revoke.toNat
    | 5 => q.step.toNat
    | 6 => q.badDoorbell.toNat
    | 7 => q.semLost.toNat
    | 8 => (s.snapPart p).replays.toNat + 2 ^ 32 * (s.snapPart p).flashSkip.toNat
    | 9 => (s.fab p).rollbacks.toNat + 2 ^ 32 * b2n (s.fab p).verified
    | 10 => (s.page p).bar4 * granule
    | 11 => (s.page p).viol.toNat
    | 12 => (s.page p).violWord
    | _ => 0
  else if o < 0x12000 then
    let b := s.bar p (o / 0x1000 % 2) (o % 0x1000 / 16)
    if o / 8 % 2 = 0 then b2n b.en + 2 * b.span + 2 ^ 5 * b.arrive else b.epoch.toNat
  else if o < 0x12200 then
    if 128 ≤ o % 0x100 then 0
    else
      let c := s.cq p (o / 0x100 % 2) (o % 0x100 / 32)
      match o / 8 % 4 with
      | 0 => b2n c.en + 2 * c.log2n + 2 ^ 5 * c.psem
      | 1 => c.base
      | 2 => c.n % 2 ^ 32 + 2 ^ 32 * b2n c.fault
      | _ => 0
  else if 0x13000 ≤ o ∧ o < 0x13100 then
    let k := o % 0x1000 / 32
    let f := s.fwd k
    if !s.fwdOf p k then 0
    else match o / 8 % 4 with
    | 0 => b2n f.en + 2 * f.peer + 2 ^ 10 * f.dsem + 2 ^ 22 * f.leng
    | 1 => f.src
    | 2 => f.dst
    | _ => 0
  else if 0x20000 ≤ o ∧ o < 0x40000 then
    let i := o % 0x10000 / 16
    let v := s.sem (o / 0x10000 % 2) i
    if !s.semIn p i then 0
    else if o / 8 % 2 = 0 then b2n v.lock + 2 ^ 4 * v.holdUs.toNat else v.holdWord
  else 0

/-- Registers of the module page per block: the index of a register and its base. -/
def modIndex (o : Nat) : Nat × Nat := (o / 0x10000, o % 0x10000 / 8)

/-- The register at an 8-aligned offset of register space (R405): reserved offsets read 0. -/
def State.register (s : State) (o : Nat) : Nat :=
  if o < 0x100000 then s.modReg (modIndex o).1 (modIndex o).2
  else if o < 0x900000 then s.pageReg ((o - 0x100000) / 0x80000) ((o - 0x100000) % 0x80000)
  else if 0x2000000 ≤ o ∧ o < 0x4000000 then s.le (windowBase + (o - 0x2000000)) 8
  else 0

/-- What function `p` reads through BAR0: 1 to 8 bytes within one register; a virtual function sees its partition's page. -/
def State.bar0Read (s : State) (p off n : Nat) : List Byte :=
  let o := if p = 0 then off else 0x100000 + 0x80000 * p + off
  ((toLe 8 (s.register (o / 8 * 8))).drop (o % 8)).take n

/-! ### The register space, written (R408) -/

/-- A write of PWR_RESET (R446): the key starts a cold reset 1 ms later. -/
def State.resetWrite (s : State) (v : W64) : State :=
  if v.toNat % 2 ^ 16 = 0xC01D then { s with board := { s.board with resetAt := some (s.time, 2) } } else s

/-- A register of the module page is written. -/
def State.modWrite (s : State) (o : Nat) (v : W64) : State :=
  match modIndex o with
  | (1, 1) => s.resetWrite v
  | (2, 1) => { s with health := { s.health with bandMin := BitVec.ofNat 3 v.toNat } }
  | (2, 3) => { s with health := { s.health with auditCfg := BitVec.ofNat 6 v.toNat } }
  | (2, 4) => { s with health := { s.health with auditSeed := v } }
  | _ => s

/-- A register of partition page `p` is written. -/
def State.pageWrite (s : State) (p o : Nat) (v : W64) : State :=
  let n := v.toNat
  if o = 0x50 then { s with pages := tins s.pages p { s.page p with bar4 := bits n 21 27 } }
  else if 0x10000 ≤ o ∧ o < 0x12000 then (if o / 8 % 2 = 0 then barCfg p (o / 0x1000 % 2) (o % 0x1000 / 16) v s else s)
  else if 0x12000 ≤ o ∧ o < 0x12200 ∧ o % 0x100 < 128 then
    let die := o / 0x100 % 2
    let q := o % 0x100 / 32
    match o / 8 % 4 with
    | 0 => cqCfg p die q v s
    | 1 => s.updCq p die q (fun c => if c.en then c else { c with base := bits n 0 48 })
    | _ => s
  else if 0x13000 ≤ o ∧ o < 0x13100 then
    let k := o % 0x1000 / 32
    if !s.fwdOf p k then s
    else match o / 8 % 4 with
    | 0 => s.updFwd k (fun f => { f with en := bit n 0, peer := bits n 1 9, dsem := bits n 10 12, leng := bits n 22 18 })
    | 1 => s.updFwd k (fun f => { f with src := bits n 0 48 })
    | 2 => s.updFwd k (fun f => { f with dst := bits n 0 48 })
    | _ => s
  else if 0x20000 ≤ o ∧ o < 0x40000 then
    let die := o / 0x10000 % 2
    let i := o % 0x10000 / 16
    if o / 8 % 2 = 0 ∧ s.semIn p i then s.setSem die i { s.sem die i with lock := bit n 0, holdUs := BitVec.ofNat 12 (bits n 4 12) } else s
  else s

/-! ### MSI-X (R413) -/

/-- A vector is unmasked: a pending message is sent. -/
def msixUnmask (p k : Nat) (s : State) : State :=
  let f := s.func p
  if !s.funcHere p ∨ 2048 ≤ k then s
  else
    let f := { f with vectors := tput (fun _ => Vector.reset) f.vectors k { f.vector k with mask := false } }
    if f.pending.contains k ∧ f.msixEn ∧ !f.msixMask then
      let s := s.setFunc p { f with pending := f.pending.filter (· ≠ k) }
      { s with sent := s.sent ++ [.msix p k (f.vector k).addr (f.vector k).data] }
    else s.setFunc p f

/-- The pending messages of vectors that are not masked are sent: the function's mask was lifted or MSI-X was enabled. -/
def State.sendPending (s : State) (p : Nat) : State :=
  (s.func p).pending.foldr (fun k s => if ((s.func p).vector k).mask then s else msixUnmask p k s) s

/-- The bytes of a vector's entry in the MSI-X table. -/
def Vector.bytes (v : Vector) : List Byte := toLe 8 v.addr.toNat ++ toLe 4 v.data.toNat ++ toLe 4 (b2n v.mask)

/-- A write of 4 or 8 bytes in the MSI-X table. -/
def State.tableWrite (s : State) (p off n : Nat) (v : W64) : State :=
  let k := off / 16
  let o := off % 16
  if (n ≠ 4 ∧ n ≠ 8) ∨ off % n ≠ 0 ∨ 2048 ≤ k then s
  else
    let f := s.func p
    let bs := (f.vector k).bytes
    let bs := bs.take o ++ toLe n (v.toNat % 2 ^ (8 * n)) ++ bs.drop (o + n)
    let mask := bit (ofLe (bs.drop 12)) 0
    let e : Vector := { addr := BitVec.ofNat 64 (ofLe (bs.take 8)), data := BitVec.ofNat 32 (ofLe ((bs.drop 8).take 4)), mask := (f.vector k).mask && mask }
    let e := if mask then { e with mask := true } else e
    let s := s.setFunc p { f with vectors := tput (fun _ => Vector.reset) f.vectors k e }
    if mask then s else msixUnmask p k s

/-! ### Register writes (R404, R408) -/

/-- REGISTER_WRITE: function `p` writes `n` bytes at an offset of BAR0 or BAR2. -/
def registerWrite (p bar off n : Nat) (v : W64) (s : State) : State :=
  if !s.linkUp ∨ 16 ≤ p ∨ !s.funcHere p then s
  else if bar = 2 then
    if 0x10000 ≤ off ∧ off < 0x18000 then s.tableWrite p (off - 0x10000) n v
    else if n ≠ 8 ∨ off % 8 ≠ 0 then s
    else if off < 0x1000 then s.mbxWrite p off v
    else if off = 0x1000 then doorbell p v s
    else s
  else if bar = 0 then
    let o := if p = 0 then off else 0x100000 + 0x80000 * p + off
    let a := 0x20000000000 + o
    if (if p = 0 then 0x4000000 else 0x80000) ≤ off then s
    else if n ≠ 8 ∨ off % 8 ≠ 0 then s.refuseHost p a true 2
    else if o < 0x100000 then s.modWrite o v
    else if o < 0x900000 then (if (o - 0x100000) / 0x80000 = p then s.pageWrite p ((o - 0x100000) % 0x80000) v else s.refuseHost p a true 2)
    else if 0x1000000 ≤ o ∧ o < 0x1000080 then (if (o - 0x1000000) / 8 = p then doorbell p v s else s.refuseHost p a true 2)
    else if 0x2000000 ≤ o then s.refuseHost p a true 2
    else s
  else s

/-- PWR_RESET_WRITE: a write of `n` bytes at PWR_RESET through the BAR0 of function `p`; only the physical function has it. -/
def pwrResetWrite (p n : Nat) (v : W64) (s : State) : State := if p = 0 then registerWrite 0 0 0x10008 n v s else s

/-! ### The DRAM window (R409 to R411) -/

/-- The device address of an access of `n` bytes at an offset of BAR4, where the window decodes it. -/
def State.bar4At (s : State) (p off n : Nat) : Option Nat :=
  if s.linkUp ∧ p < 16 ∧ s.funcHere p ∧ 0 < n ∧ off + n ≤ 2 ^ ((s.func (if p = 0 then 0 else 16)).bar4 + 30) then some ((s.page p).bar4 * granule + off) else none

/-- Why an access of `n` bytes at `a` fails its check (R410). -/
def State.violCause (s : State) (p a n : Nat) : Nat :=
  if 2 * dieBytes < a + n then 3 else if s.permits p a n false false false then 1 else 0

/-- An access through BAR4 passes the check of R213, and reaches DRAM only. -/
def State.bar4Ok (s : State) (p a n : Nat) (write : Bool) : Bool := decide (a + n ≤ 2 * dieBytes) && s.permits p a n (!write) write false

/-- BAR4_READ: the host finds device memory as an agent does (R57). -/
def bar4Read (p off n : Nat) (s : State) : State :=
  match s.bar4At p off n with
  | none => s
  | some a =>
    let ones := List.replicate n (0xFF : Byte)
    if !s.bar4Ok p a n false then
      let s : State := { s with sent := s.sent ++ [.host p ones false] }
      s.refuseHost p a false (s.violCause p a n)
    else match (List.range n).find? (fun i => s.poison.contains ((a + i) / 64)) with
      | some i => ({ s with sent := s.sent ++ [.host p ones true] } : State).event p 0x24 (a + i)
      | none => { s with sent := s.sent ++ [.host p (s.seenBytes a n) false], fresh := s.fresh + 1 }

/-- BAR4_WRITE. -/
def bar4Write (p off : Nat) (bs : List Byte) (s : State) : State :=
  match s.bar4At p off bs.length with
  | none => s
  | some a => if s.bar4Ok p a bs.length true then s.write a bs else s.refuseHost p a true (s.violCause p a bs.length)

/-! ### The link and configuration requests (R402, R403, R443, R445) -/

/-- PERST_ASSERT. -/
def perstAssert (s : State) : State := { s.endpointReset with board := { s.endpointReset.board with perst := true } }

/-- PERST_DEASSERT: training follows; before MRDY the link stays ignored until step 9. -/
def perstDeassert (s : State) : State := { s with board := { s.board with perst := false } }

/-- PCIE_LINK_DOWN: no reset; ring writes wait until bus mastering is enabled again. -/
def linkDown (s : State) : State :=
  { s with linkUp := false, funcs := s.funcs.map (fun (k, f) => (k, { f with busMaster := false })) }

/-- PCIE_LINK_UP: the link has trained; at start-up this is step 9. -/
def linkUp (s : State) : State :=
  if s.board.perst ∨ !s.board.mrdy ∨ s.board.failed ∨ s.mode = .off ∨ s.mode = .sleep then s
  else { s with linkUp := true, board := { s.board with step := if s.board.starting ∧ s.board.step = 8 then 9 else s.board.step } }

/-- The bytes that a configuration read of function `p` returns (R401, R402, R413); what the manual leaves to the PCIe specification is free
(log 10). -/
def State.cfgBytes (s : State) (p : Nat) (what : CfgField) : List Byte :=
  match what with
  | .vendor => toLe 2 (Config.trimVid % 65536)
  | .device => toLe 2 (if p = 0 then 0x0960 else 0x0961)
  | .classCode => toLe 3 0x120000
  | .revision => toLe 1 0xB1
  | .totalVfs | .initialVfs => toLe 2 (if p = 0 then 15 else 0)
  | .messageNumber => [0#8]
  | .other => (List.range 4).map (Config.responseByte 0x401 s.fresh)

/-- CONFIGURATION_REQUEST: answered with Request Retry Status until step 10; then it changes the function's state. -/
def configRequest (p : Nat) (r : CfgReq) (s : State) : State :=
  if !s.linkUp ∨ 16 ≤ p ∨ !s.funcHere p then s
  else if !s.ready then { s with sent := s.sent ++ [.retry p] }
  else
    let f := s.func p
    match r with
    | .read what => { s with sent := s.sent ++ [.host p (s.cfgBytes p what) false], fresh := s.fresh + 1 }
    | .busMaster on => s.setFunc p { f with busMaster := on }
    | .msixEnable on => (s.setFunc p { f with msixEn := on }).sendPending p
    | .msixMask on => (s.setFunc p { f with msixMask := on }).sendPending p
    | .vfEnable on => if p = 0 then (List.range 15).foldl (fun s i => s.setFunc (i + 1) { s.func (i + 1) with enabled := on }) s else s
    | .relaxedOrdering on => s.setFunc p { f with relaxed := on }
    | .timeout code => s.setFunc p { f with timeout := code }
    | .barSize k => if 6 < k - 10 ∨ k < 10 then s
      else if p = 0 then s.setFunc 0 { f with bar4 := k - 10 }
      else s.setFunc 16 { s.func 16 with bar4 := k - 10 }

/-! ### IDE (R415) -/

/-- IDE_KM: keys of a stream are set over a secured SPDM session, and the stream is secure. -/
def ideKm (st _key : Nat) (s : State) : State :=
  if s.board.spdmSess = 0 ∨ 9 ≤ st ∨ s.board.ide.contains st then s else { s with board := { s.board with ide := s.board.ide ++ [st] } }

/-- IDE_INTEGRITY_FAIL: the stream leaves the secure state. -/
def ideFail (st : Nat) (s : State) : State := { s with board := { s.board with ide := s.board.ide.filter (· ≠ st) } }

/-! ### The rows -/

/-- FLR. -/
def execFlr (p : Nat) (s : State) : Host.Outcome State Fault Refusal := .next (flr p s)
/-- PERST_ASSERT. -/
def execPerstAssert (s : State) : Host.Outcome State Fault Refusal := .next (perstAssert s)
/-- PERST_DEASSERT. -/
def execPerstDeassert (s : State) : Host.Outcome State Fault Refusal := .next (perstDeassert s)
/-- PCIE_LINK_DOWN. -/
def execPcieLinkDown (s : State) : Host.Outcome State Fault Refusal := .next (linkDown s)
/-- PCIE_LINK_UP. -/
def execPcieLinkUp (s : State) : Host.Outcome State Fault Refusal := .next (linkUp s)
/-- BAR4_READ: the host finds device memory as an agent does (R57). -/
def execBar4Read (p off n : Nat) (s : State) : Host.Outcome State Fault Refusal := .next (bar4Read p off n s)
/-- BAR4_WRITE. -/
def execBar4Write (p off : Nat) (bs : List Byte) (s : State) : Host.Outcome State Fault Refusal := .next (bar4Write p off bs s)
/-- REGISTER_WRITE. -/
def execRegisterWrite (p bar off n : Nat) (v : W64) (s : State) : Host.Outcome State Fault Refusal := .next (registerWrite p bar off n v s)
/-- MSIX_UNMASK. -/
def execMsixUnmask (p vec : Nat) (s : State) : Host.Outcome State Fault Refusal := .next (msixUnmask p vec s)
/-- IDE_INTEGRITY_FAIL. -/
def execIdeIntegrityFail (st : Nat) (s : State) : Host.Outcome State Fault Refusal := .next (ideFail st s)
/-- IDE_KM. -/
def execIdeKm (st key : Nat) (s : State) : Host.Outcome State Fault Refusal := .next (ideKm st key s)
/-- PWR_RESET_WRITE. -/
def execPwrResetWrite (p n : Nat) (v : W64) (s : State) : Host.Outcome State Fault Refusal := .next (pwrResetWrite p n v s)
/-- CONFIGURATION_REQUEST. -/
def execConfigurationRequest (p : Nat) (r : CfgReq) (s : State) : Host.Outcome State Fault Refusal := .next (configRequest p r s)

end Sys2Proof.Machine
end

