-- ==== Sys2Proof/Machine/Power.lean ====
section
/-!
DEFINITION. Power states of engines (R430 to R432), module states (R437 to R440), the supply guard and the input switch
(R441, R457, R459), start-up and resets (R442 to R446), sideband inputs and indicators (R455, R460).
-/

namespace Sys2Proof.Machine

/-! ### Engines (R430 to R432) -/

/-- The core has a tile-thread, works for a launch, or has an operation outstanding (R430, R433). -/
def State.coreBusy (s : State) (c : Nat) : Bool :=
  (List.range 4).any (fun x => (s.ctx c x).tt.isSome || (s.ctx c x).launch.isSome || !(s.core c).ctxIdle x) || (s.core c).stop.isSome

/-- The partition's Off timeout in µs, at least 20 (R431). -/
def Part.offTime (q : Part) : Nat := max 20 q.offUs.toNat

/-- The longest of some partitions' timeouts; 20 µs for none. -/
def longest (qs : List Part) : Nat := (qs.map Part.offTime).foldl max 20

/-- Off timeout of a core: of the partition that has it reserved, else the longest of those that share it. -/
def State.coreTimeout (s : State) (c : Nat) : Nat :=
  let qs := s.parts.map (·.2)
  match qs.find? (fun q => q.rcore.getLsbD c) with
  | some q => q.offTime
  | none => longest (qs.filter (fun q => q.score.getLsbD c))

/-- Off timeout of an engine: a Foxglove unit's is the longest of the four cores it serves, a Primrose engine's that of the
partitions that have it. -/
def State.offTimeout (s : State) (k : EngineKind) (n : Nat) : Nat :=
  match k with
  | .core => s.coreTimeout n
  | .fox => ((List.range 4).map (fun i => s.coreTimeout (4 * n + i))).foldl max 20
  | .prim => longest ((s.parts.map (·.2)).filter (fun q => q.rprim.getLsbD n || q.sprim.getLsbD n))

/-- Engines of a kind. -/
def engineCount (k : EngineKind) : Nat := match k with
  | .core => 128
  | .fox => 32
  | .prim => 4

/-- Power state of an engine, and the instant at which it last had work. -/
def State.enginePower (s : State) (k : EngineKind) (n : Nat) : Power × Nat := match k with
  | .core => ((s.core n).power, (s.core n).workSince)
  | .fox => ((s.fox n).power, (s.fox n).workSince)
  | .prim => ((s.prim n).power, (s.prim n).workSince)

/-- The engine has work in progress. -/
def State.engineBusy (s : State) (k : EngineKind) (n : Nat) : Bool := match k with
  | .core => s.coreBusy n
  | .fox => (s.fox n).item.isSome
  | .prim => (s.prim n).job.isSome

/-- The engine holds a launch, whose work waits for it. -/
def State.engineWanted (s : State) (k : EngineKind) (n : Nat) : Bool := match k with
  | .core => s.coreBusy n
  | .fox => (s.fox n).launch.isSome
  | .prim => (s.prim n).launch.isSome

/-- Power state and instant replaced. -/
def State.setEngine (s : State) (k : EngineKind) (n : Nat) (p : Power) (t : Nat) : State := match k with
  | .core => s.updCore n (fun c => { c with power := p, workSince := t })
  | .fox => s.updFox n (fun c => { c with power := p, workSince := t })
  | .prim => s.updPrim n (fun c => { c with power := p, workSince := t })

/-- An accumulator tile that Retain did not keep: its entries are free (R430, log 10). -/
def Tile.forget (t : Tile) (fresh : Nat) : Tile :=
  let e (i : Nat) : Entry :=
    let bs := (List.range 12).map (fun j => Config.freeByte fresh (12 * i + j))
    if t.path = .fp32 then .f32 (BitVec.ofNat 32 (ofLe bs)) else .int (BitVec.ofNat 96 (ofLe bs))
  { t with entries := ((List.range 16384).map (fun i => (i, e i))).filter (fun x => x.2 ≠ zeroEntry t.path) }

/-- The tiles of a core that hold something lose it. -/
def State.forgetTiles (s : State) (c : Nat) : State :=
  { s with fresh := s.fresh + 1
           tiles := tmap (fun _ => Tile.empty) (fun i t => if i / 64 = c then t.forget (s.fresh + i) else t) s.tiles }

/-- The module powers its engines: it is in Active or Standby and start-up is complete. -/
def State.powered (s : State) : Bool := (s.mode == .active || s.mode == .standby) && s.ready

/-- CORE_ENTER_RETAIN: 20 µs without work. The instant is kept so that the timeout counts from the entry (R431). -/
def coreEnterRetain (k : EngineKind) (n : Nat) (s : State) : State :=
  let (p, t) := s.enginePower k n
  if !s.powered ∨ engineCount k ≤ n ∨ p ≠ .run ∨ s.engineBusy k n ∨ s.time < t + 160000 then s
  else
    let s := if k = .core then s.forgetTiles n else s
    s.setEngine k n .retain (s.time - 160000)

/-- An engine loses what Off does not keep; a Foxglove unit's look-aside buffer is empty. -/
def State.engineOff (s : State) (k : EngineKind) (n : Nat) : State := match k with
  | .core => s.corePowerOff n
  | .fox => s.updFox n (fun f => { f with power := .off, lab := [] })
  | .prim => s.updPrim n (fun f => { f with power := .off })

/-- CORE_ENTER_OFF: the time in Retain plus 20 µs has reached the timeout; 0xFFFF_FFFF is never reached. -/
def coreEnterOff (k : EngineKind) (n : Nat) (s : State) : State :=
  let (p, t) := s.enginePower k n
  let us := s.offTimeout k n
  if !s.powered ∨ engineCount k ≤ n ∨ p ≠ .retain ∨ us = 0xFFFFFFFF ∨ s.time < t + 8000 * us then s else s.engineOff k n

/-- CORE_WAKE: the engine runs for the work that woke it; a core that leaves Off restarts CYCLE. -/
def coreWake (k : EngineKind) (n : Nat) (s : State) : State :=
  let (p, _) := s.enginePower k n
  if !s.powered ∨ engineCount k ≤ n ∨ p = .run ∨ !s.engineWanted k n then s
  else match k with
    | .core => s.updCore n (fun c => { c with power := .run, workSince := s.time, offLeft := if p = .off then s.time else c.offLeft })
    | k => s.setEngine k n .run s.time

/-- PWR_TIMEOUT (R431). -/
def hPwrTimeout : Handler := fun c s =>
  if 2 ^ 32 ≤ c.p 0 then (s, no 0x11) else (s.updPart c.part (fun q => { q with offUs := BitVec.ofNat 32 (c.p 0) }), ok)

/-! ### Module states (R437 to R440) -/

/-- Running work that an entry to Standby waits for: launches that have started with their items and jobs, collectives, Iris
pictures. -/
def State.workRuns (s : State) : Bool :=
  s.launches.any (fun (_, l) => l.started) || s.cqs.any (fun (_, q) => q.run.isSome) || s.icores.any (fun (_, q) => q.pic.isSome)

/-- A flash write of a tensor object, package or snapshot is in progress. -/
def State.flashWrites (s : State) : Bool :=
  s.tobjs.any (fun (_, t) => t.state == .writing) || s.snaps.any (fun (_, x) => x.writing.isSome) ||
  s.journal.any (fun c => c.started && (c.code == 0x609 || c.code == 0x60A))

/-- What refuses Sleep. -/
def State.sleepRefused (s : State) : Bool :=
  s.domain.isSome || s.twin.isSome || !s.runs.isEmpty || s.wwins.any (fun (_, w) => w.run) || !s.iris.isEmpty ||
  s.journal.any (fun c => c.started && c.bg && c.code != 0x0A01) || s.flashWrites

/-- The module state by its PWR_MODULE number. -/
def State.modeNo (s : State) : Nat := match s.mode with
  | .active => 0
  | .standby => 1
  | .sleep => 2
  | .off => 3

/-- PWR_MODULE. The mailbox goes on while a transition runs, so that a later PWR_MODULE meets ST_BUSY (R438, log 29). From
Standby there is no running work to wait for, and the commit point is the start. -/
def hPwrModule : Handler := fun c s =>
  let t := c.p 0
  if 2 < t then (s, no 0x11)
  else if s.board.trans.isSome ∨ s.board.sleepAt.isSome then (s, no 0x17)
  else if t = s.modeNo then (s, ok)
  else if t = 0 then (({ s with mode := .active } : State).platformEvent, ok)
  else if t = 2 ∧ s.sleepRefused then (s, no 0x16)
  else
    let s := if s.mode = .standby then s.updCmd c (fun d => { d with committed := true }) else s
    ({ s with board := { s.board with trans := some (c.m, c.tag, t) } }, .bg)

/-- An ABORT before the commit point: the module is in Active again. -/
def undoPwrModule : Undo := fun _ s => { s with board := { s.board with trans := none } }

/-- The transition's command completes. -/
def State.endTrans (s : State) (status : Nat) : State :=
  match s.board.trans with
  | none => s
  | some (m, tag, _) =>
    let s : State := { s with board := { s.board with trans := none } }
    match s.cmd m tag with
    | some c => s.complete c status false 0 0
    | none => s

/-- STANDBY_ENTRY_DONE: no work runs any more; every core is in Retain or Off. A transition to Sleep goes on, past its commit
point. -/
def standbyEntryDone (s : State) : State :=
  match s.board.trans with
  | none => s
  | some (m, tag, t) =>
    if s.mode ≠ .active ∨ s.workRuns then s
    else
      let s := (List.range 128).foldl (fun s c => if (s.core c).power = .run then (s.forgetTiles c).setEngine .core c .retain (s.time - 160000) else s) s
      let s := ({ s with mode := .standby } : State).platformEvent
      if t = 1 then s.endTrans 0
      else match s.cmd m tag with
        | some c => s.updCmd c (fun d => { d with committed := true })
        | none => s

/-- Granules of a die that belong to nothing. -/
def State.granulesFree (s : State) (die : Nat) : Nat := 131072 - dieGranules (s.owned.map (fun o => (o.baseg, o.lastg))) die

/-- SLEEP_ENTRY: the sleep image takes 256 MiB of free granules of each die, and the completion is due. What refuses Sleep is
looked at again, and the module then stays in Standby. -/
def sleepEntry (s : State) : State :=
  match s.board.trans with
  | none => s
  | some (_, _, t) =>
    if s.mode ≠ .standby ∨ t ≠ 2 then s
    else if s.sleepRefused then s.endTrans 0x16
    else if s.granulesFree 0 < 128 ∨ s.granulesFree 1 < 128 then s.endTrans 0x19
    else
      let s := s.endTrans 0
      { s with board := { s.board with sleepAt := some s.time } }

/-- A wake request in Sleep: the exit to Standby begins, with the always-on island running (R440). -/
def State.beginExit (s : State) : State :=
  { s with board := { s.board with wake := false, starting := true, exiting := true, step := 2 } }

/-- What an engine or port loses when everything but the always-on island and DRAM is powered down (R439). -/
def State.domainsDown (s : State) : State :=
  let s := (List.range 128).foldl (fun s c => s.corePowerOff c) s
  { s with
    foxes := tmap (fun _ => Fox.reset) (fun _ f => { f with power := .off, lab := [] }) s.foxes
    prims := tmap (fun _ => Prim.reset) (fun _ f => { f with power := .off }) s.prims
    ports := tmap (fun _ => Port.reset) (fun _ q => { q with state := .down, powered := false, buffer := [], credits := [] }) s.ports
    outbox := [], flash := { s.flash with reads := [], down := [] } }

/-- SLEEP_POWER_DOWN: the link and the ports go down, DRAM is in self-refresh, the other domains lose power. A latched wake
request starts the exit at once (R455). -/
def sleepPowerDown (s : State) : State :=
  if s.mode ≠ .standby ∨ s.board.sleepAt.isNone then s
  else
    let s := s.domainsDown
    let s : State := { s with mode := .sleep, ready := false, linkUp := false, board := { s.board with sleepAt := none, mrdy := false } }
    let s := s.platformEvent
    if s.board.wake then s.beginExit else s

/-- A low pulse of `ticks` AO ticks is acted on: from 250 ticks on always, below 25 never, between them as the module does
(R455). -/
def pulseActs (acted : Bool) (ticks : Nat) : Bool := decide (250 ≤ ticks) || (decide (25 ≤ ticks) && acted)

/-- A wake request takes effect by state (R440, R455). -/
def State.wakeRequest (s : State) : State :=
  if s.mode = .sleep ∧ !s.board.starting ∧ !s.board.failed then s.beginExit
  else if s.board.sleepAt.isSome then { s with board := { s.board with wake := true } }
  else s

/-- WAKE_ASSERT. -/
def wakeAssert (acted : Bool) (ticks : Nat) (s : State) : State := if pulseActs acted ticks then s.wakeRequest else s

/-! ### Start-up and resets (R423, R442 to R446) -/

/-- A patch table passes the checks of R272; one beyond the table's limits is ignored too (DESIGN CHOICE, log 44). -/
def patchOk (bytes : List Byte) (level : Nat) : Bool :=
  Config.patchSigned bytes && decide (Config.patchFloor ≤ level ∧ Config.patchHandlers bytes ≤ 256 ∧ Config.patchCode bytes ≤ 524288)

/-- A copy of the patch table may be used. -/
def PatchCopy.passes (c : PatchCopy) : Bool := c.ok && patchOk c.bytes c.level

/-- Level and verdict of the copy the ROM uses, and whether it is copy B: the higher level that passes, else the other, else
none (R272, R418). -/
def Board.bootPatch (b : Board) : (Nat × Bool) × Bool :=
  let use (o : Option PatchCopy) : Option Nat := (o.filter PatchCopy.passes).map (·.level)
  match use b.copyA, use b.copyB with
  | some x, some y => if x < y then ((y, true), true) else ((x, true), false)
  | some x, none => ((x, true), false)
  | none, some y => ((y, true), true)
  | none, none => ((0, false), false)

/-- The last step a start completes and the error that stops it there; none: step 8 is complete. -/
def bootStops (b : BootFind) : Option (Nat × Nat) :=
  if !b.romOk then some (2, 0x01)
  else if !b.trimA && !b.trimB then some (3, 0x02)
  else if !b.vmajOk then some (3, 0x03)
  else if !b.hwOk then some (3, 0x04)
  else if !b.dramOk then some (5, 0x16)
  else if !b.flashOk then some (6, 0x17)
  else none

/-- What a start has found in the NOR flash: the copies of the trim record and of the patch table in use. The patch table is verified in
step 5 (R442): a start that stops before it runs without one (R272). -/
def State.booted (s : State) (f : BootFind) : State :=
  let b := s.board
  let verified := match bootStops f with
    | some (at_, _) => decide (5 ≤ at_)
    | none => true
  let (p, isB) := if verified then b.bootPatch else ((0, false), false)
  { s with patch := p, nextPatch := none, board := { b with trimB := f.romOk && !f.trimA && f.trimB, patchB := isB } }

/-- A start stops: management only (R423, R444). -/
def State.startFails (s : State) (at_ err : Nat) : State :=
  ({ s with board := { s.board with step := at_, failed := true, err := err, starting := false, exiting := false, mrdy := false } } : State).platformEvent

/-- What a reset keeps (R445): flash and NOR flash with journal-held fields, and the always-on island. Host memory, the queue of
commands and what was sent lie outside the block. Uncommitted packages and interrupted write-backs are discarded (R218, R250). -/
def State.cleared (s : State) : State :=
  let b := s.board
  { State.reset with
    pending := s.pending, time := s.time, ftAdj := -((s.time / 8 : Nat) : Int), fresh := s.fresh, host := s.host, sent := s.sent
    tobjs := s.tobjs.map (fun (k, t) => (k, { t with state := .flash, region := 0, evict := false, copying := [] })), lastTobj := s.lastTobj
    wpkgs := s.wpkgs.filter (fun (_, w) => w.ready), lastWpkg := s.lastWpkg
    flash := { (s.wpkgs.filter (fun (_, w) => !w.ready)).foldl (fun f w => f.release (.wpkg w.1)) s.flash with retry := 0, reads := [], down := [] }, fsnaps := s.fsnaps
    health := { Health.reset with map := s.health.map, fenced := s.health.fenced, history := s.health.history }
    board := { Board.reset with
      gtrips := b.gtrips, trips := b.trips, swOpen := b.swOpen, swSince := b.swSince, swHeld := b.swHeld, thermal := b.thermal, perst := b.perst
      pprsnt := b.pprsnt, cables := b.cables, addr := b.addr, receiver := b.receiver, copyA := b.copyA, copyB := b.copyB } }

/-- Marigold's test at a cold reset: a unit that passes rejoins the spares unless it was quarantined twice (R364). -/
def Health.retest (h : Health) (units : List (Nat × Nat)) : Health :=
  { h with fenced := h.fenced.filter (fun u => !units.contains u || decide (2 ≤ (h.history.filter (· = u)).length)) }

/-- Steps 3 to 8 from a cleared state: they fail, or every port that will train is training and MRDY is asserted (R442, R443). -/
def State.bootFrom (s : State) (f : BootFind) (cause : Nat) : State :=
  let s : State := { s with mode := .active, board := { s.board with starting := true, lastRst := cause } }
  let s := s.platformEvent.booted f
  match bootStops f with
  | some (at_, err) => s.startFails at_ err
  | none =>
    let s : State := { s with health := s.health.retest f.units, board := { s.board with step := 8, mrdy := true } }
    (f.ports.filter (· < 26)).foldl (fun s k => s.trainPort k) s

/-- A cold reset (R445), from step 3. -/
def State.coldReset (s : State) (f : BootFind) (cause : Nat) : State := s.cleared.bootFrom f cause

/-- COLD_RESET_START: 1 ms after PWR_RESET, or when management asked for it (R446). -/
def coldResetStart (f : BootFind) (s : State) : State :=
  match s.board.resetAt with
  | some (_, cause) => if s.mode = .off then s else s.coldReset f cause
  | none => s

/-- RST_ASSERT: in every state but Off (R455). -/
def rstAssert (acted : Bool) (ticks : Nat) (f : BootFind) (s : State) : State :=
  if pulseActs acted ticks ∧ s.mode ≠ .off then s.coldReset f 1 else s

/-- The input switch is open: the module is Off, and everything is lost but flash, NOR flash and the trip count (R441). -/
def State.powerLost (s : State) : State :=
  let s := s.cleared
  { s with mode := .off, board := { s.board with starting := false, addr := none, receiver := none, swOpen := true, swSince := s.time } }

/-- POWER_ON: 48 V is valid (R442); after a guard retry the cause is 4. -/
def powerOn (f : BootFind) (s : State) : State :=
  let b := s.board
  if (s.mode ≠ .off ∧ !(b.starting ∧ b.step = 0)) ∨ !b.pprsnt ∨ b.swOpen then s
  else
    let s := s.cleared
    ({ s with board := { s.board with addr := none, receiver := none } } : State).bootFrom f (if b.lastRst = 4 then 4 else 0)

/-- STARTUP_READY: step 10. Ports that have not trained are DOWN, and partition 0 exists (R442, R464). -/
def startupReady (s : State) : State :=
  if !s.board.starting ∨ s.board.exiting ∨ s.board.step ≠ 9 then s
  else
    let s : State := { s with
      ports := tmap (fun _ => Port.reset) (fun _ q => if q.state = .training then { q with state := .down, powered := false } else q) s.ports
      ready := true, parts := tins s.parts 0 (Part.fresh 0 0 0 0 0 0 0 0 0 0 0 0 false)
      board := { s.board with starting := false, step := 10 } }
    s.platformEvent

/-- SLEEP_EXIT_DONE (R440): functions and mailboxes are as after PERST#, queue pairs with a ring in host memory stopped. -/
def sleepExitDone (f : BootFind) (s : State) : State :=
  if s.mode ≠ .sleep ∨ !s.board.exiting then s
  else match bootStops f with
    | some (at_, err) => (s.booted f).startFails at_ err
    | none =>
      let s := s.endpointReset.booted f
      let s : State := { s with
        mode := .standby, ready := true, linkUp := !s.board.perst
        board := { s.board with starting := false, exiting := false, step := 10, lastRst := 5, mrdy := true } }
      State.platformEvent ((f.ports.filter (· < 26)).foldl (fun s k => s.trainPort k) s)

/-! ### The supply guard and the input (R441, R457, R459) -/

/-- GUARD_TRIP: the third trip within 10 min keeps the switch open. -/
def guardTrip (s : State) : State :=
  if s.mode = .off then s
  else
    let recent := s.time :: s.board.trips.filter (fun t => decide (s.time < t + 4800000000000))
    ({ s with board := { s.board with gtrips := min 255 (s.board.gtrips + 1), trips := recent, swHeld := decide (3 ≤ recent.length) } } : State).powerLost

/-- SUPPLY_DROOP. -/
def supplyDroop (s : State) : State := if s.mode = .off then s else s.addRisk 2048

/-- GUARD_RECLOSE: the switch closes 10 s after it opened, and the module starts with LASTRST 4 once 48 V is valid. -/
def guardReclose (s : State) : State :=
  let b := s.board
  if s.mode ≠ .off ∨ !b.swOpen ∨ b.swHeld ∨ !b.pprsnt then s
  else { s with time := max s.time (b.swSince + 80000000000), board := { b with swOpen := false, lastRst := 4 } }

/-- INPUT_LOW_RELEASE: the input has been below 20 V for 1 s. -/
def inputLowRelease (s : State) : State :=
  if s.mode ≠ .off then s
  else { s with board := { s.board with swOpen := !s.board.pprsnt, swHeld := false, gtrips := 0, trips := [], thermal := none, lastRst := 0 } }

/-- PPRSNT_MAKE: the module starts, unless its switch is held open. -/
def pprsntMake (f : BootFind) (s : State) : State :=
  let b := s.board
  if b.pprsnt then s
  else powerOn f { s with board := { b with pprsnt := true, swOpen := b.swHeld, lastRst := 0 } }

/-- PPRSNT_BREAK: the switch opens, as at a guard trip. -/
def pprsntBreak (s : State) : State :=
  let s : State := { s with board := { s.board with pprsnt := false } }
  if s.mode = .off then { s with board := { s.board with swOpen := true } } else s.powerLost

/-- THERMAL_STOP: the module fails stop (R365, R459). -/
def thermalStop (s : State) : State :=
  if s.mode = .off ∨ s.board.thermal.isSome then s
  else ({ s with board := { s.board with thermal := some s.time } } : State).failModule

/-- THERMAL_SWITCH_OPEN: the switch opens and is held; the trip count stays. -/
def thermalSwitchOpen (s : State) : State :=
  if s.mode = .off ∨ s.board.thermal.isNone then s
  else ({ s with board := { s.board with swHeld := true } } : State).powerLost

/-- CBL_PRS_CHANGE: connectors F0 to F5 are 0 to 5, TC is 6. -/
def cblPrsChange (k : Nat) (fitted : Bool) (s : State) : State :=
  if 7 ≤ k then s
  else
    let cs := s.board.cables.filter (· ≠ k)
    { s with board := { s.board with cables := if fitted then k :: cs else cs } }

/-- V3P3_CBL of a connector: a cable is fitted and one of the connector's ports is enabled (R451). -/
def State.cablePower (s : State) (k : Nat) : Bool :=
  s.board.cables.contains k && (List.range 4).any (fun i => decide (4 * k + i < 26) && (s.port (4 * k + i)).powered)

/-! ### Indicators (R460): 0 off, 1 steady, 2 blinking -/

/-- PWR. -/
def State.ledPwr (s : State) : Nat := match s.mode with
  | .off => 0
  | .sleep => 2
  | _ => 1
/-- STAT. -/
def State.ledStat (s : State) : Nat :=
  if s.mode = .off then 0
  else if s.board.starting then 2
  else b2n (s.mbxs.any (fun (m, b) => m != 0 && b.session.isSome))
/-- FLT: the steady state wins. -/
def State.ledFlt (s : State) : Nat :=
  let b := s.board
  if b.failed || b.thermal.isSome || (b.swOpen && !b.trips.isEmpty) then 1
  else if b.quar || s.flash.degr then (if s.mode = .off then 0 else 2) else 0
/-- LOC. -/
def State.ledLoc (s : State) : Nat := b2n s.board.loc

/-! ### Commands -/

/-- PWR_TIMEOUT. -/
def execPwrTimeout (m : Nat) (h : CmdHdr) (offUs : W64) (s : State) : Host.Outcome State Fault Refusal := .next (runCmd m h 0x0A00 [offUs] hPwrTimeout s)
/-- PWR_MODULE. -/
def execPwrModule (m : Nat) (h : CmdHdr) (target : W64) (s : State) : Host.Outcome State Fault Refusal := .next (runCmd m h 0x0A01 [target] hPwrModule s)
/-- CORE_ENTER_RETAIN. -/
def execCoreEnterRetain (k : EngineKind) (n : Nat) (s : State) : Host.Outcome State Fault Refusal := .next (coreEnterRetain k n s)
/-- CORE_ENTER_OFF. -/
def execCoreEnterOff (k : EngineKind) (n : Nat) (s : State) : Host.Outcome State Fault Refusal := .next (coreEnterOff k n s)
/-- CORE_WAKE. -/
def execCoreWake (k : EngineKind) (n : Nat) (s : State) : Host.Outcome State Fault Refusal := .next (coreWake k n s)
/-- STANDBY_ENTRY_DONE. -/
def execStandbyEntryDone (s : State) : Host.Outcome State Fault Refusal := .next (standbyEntryDone s)
/-- SLEEP_ENTRY. -/
def execSleepEntry (s : State) : Host.Outcome State Fault Refusal := .next (sleepEntry s)
/-- SLEEP_POWER_DOWN. -/
def execSleepPowerDown (s : State) : Host.Outcome State Fault Refusal := .next (sleepPowerDown s)
/-- WAKE_ASSERT. -/
def execWakeAssert (acted : Bool) (ticks : Nat) (s : State) : Host.Outcome State Fault Refusal := .next (wakeAssert acted ticks s)
/-- SLEEP_EXIT_DONE. -/
def execSleepExitDone (b : BootFind) (s : State) : Host.Outcome State Fault Refusal := .next (sleepExitDone b s)
/-- GUARD_TRIP. -/
def execGuardTrip (s : State) : Host.Outcome State Fault Refusal := .next (guardTrip s)
/-- SUPPLY_DROOP. -/
def execSupplyDroop (s : State) : Host.Outcome State Fault Refusal := .next (supplyDroop s)
/-- GUARD_RECLOSE. -/
def execGuardReclose (s : State) : Host.Outcome State Fault Refusal := .next (guardReclose s)
/-- INPUT_LOW_RELEASE. -/
def execInputLowRelease (s : State) : Host.Outcome State Fault Refusal := .next (inputLowRelease s)
/-- POWER_ON. -/
def execPowerOn (b : BootFind) (s : State) : Host.Outcome State Fault Refusal := .next (powerOn b s)
/-- STARTUP_READY. -/
def execStartupReady (s : State) : Host.Outcome State Fault Refusal := .next (startupReady s)
/-- RST_ASSERT. -/
def execRstAssert (acted : Bool) (ticks : Nat) (b : BootFind) (s : State) : Host.Outcome State Fault Refusal := .next (rstAssert acted ticks b s)
/-- COLD_RESET_START. -/
def execColdResetStart (b : BootFind) (s : State) : Host.Outcome State Fault Refusal := .next (coldResetStart b s)
/-- PPRSNT_MAKE. -/
def execPprsntMake (b : BootFind) (s : State) : Host.Outcome State Fault Refusal := .next (pprsntMake b s)
/-- PPRSNT_BREAK. -/
def execPprsntBreak (s : State) : Host.Outcome State Fault Refusal := .next (pprsntBreak s)
/-- THERMAL_STOP. -/
def execThermalStop (s : State) : Host.Outcome State Fault Refusal := .next (thermalStop s)
/-- THERMAL_SWITCH_OPEN. -/
def execThermalSwitchOpen (s : State) : Host.Outcome State Fault Refusal := .next (thermalSwitchOpen s)
/-- CBL_PRS_CHANGE. -/
def execCblPrsChange (k : Nat) (fitted : Bool) (s : State) : Host.Outcome State Fault Refusal := .next (cblPrsChange k fitted s)

end Sys2Proof.Machine
end

