-- ==== Sys2Proof/Machine/Mgmt.lean ====
section
/-!
DEFINITION. The management interface: MCTP, PLDM and firmware update (R416 to R418, R440, R460), and SPDM (R419, R423).
-/

namespace Sys2Proof.Machine

/-- The management interface works: from step 2 on, in every module state except Off (R416). -/
def State.mgmtUp (s : State) : Bool := s.mode != .off && decide (2 ≤ s.board.step)

/-- A message on the management bus. The headers of its protocols are left out (log 30). -/
def State.mgmt (s : State) (bs : List Byte) : State := { s with sent := s.sent ++ [.mgmt bs] }

/-- What `f` does where the management interface works. -/
def whenMgmt (f : State → State) (s : State) : State := if s.mgmtUp then f s else s

/-! ### MCTP and PLDM (R416, R417) -/

/-- MCTP_CONTROL_MESSAGE: a served type is answered; another is refused. Of either answer the manual prints no bytes (log 10). -/
def mctpMessage (ty : Byte) (_body : List Byte) : State → State := whenMgmt fun s =>
  if ([0x00, 0x01, 0x05, 0x06] : List Byte).contains ty then s.mgmtFree 0x4160 64 else s.mgmtFree 0x4161 4

/-- The module state of sensor 6, numbered as R417 lists them (log 30). -/
def State.sensor6 (s : State) : Nat :=
  if s.board.failed then 4 else if s.board.starting then 3 else s.modeNo

/-- Reading of a sensor in units of its resolution (R417); the fraction f is rounded down (log 30). -/
def State.sensor (s : State) (id : Nat) : Option Int :=
  match id with
  | 1 => some s.board.vin
  | 2 => some s.board.pin
  | 3 => some s.board.tmax
  | 4 => some s.health.risk
  | 5 => some (s.flash.credit * 1000 / (creditMax : Int))
  | 6 => some s.sensor6
  | _ => none

/-- GET_SENSOR_READING. -/
def getSensor (id : Nat) : State → State := whenMgmt fun s =>
  match s.sensor id with
  | some v => s.mgmt (toLe 8 (unsigned 64 v))
  | none => s.mgmtFree 0x4171 1

/-- SET_EVENT_RECEIVER. -/
def setReceiver (eid : Nat) : State → State := whenMgmt fun s => { (s.mgmtFree 0x4172 1) with board := { s.board with receiver := some eid } }

/-- SET_STATE_EFFECTER_STATES: effecter 1 takes 1 for Standby, which leaves Sleep, and 2 for Reset; effecter 2 is LOC (R440, R445,
R460, log 30). -/
def setEffecter (id st : Nat) : State → State := whenMgmt fun s =>
  let s := s.mgmtFree 0x4173 1
  if id = 1 ∧ st = 1 then s.wakeRequest
  else if id = 1 ∧ st = 2 then { s with board := { s.board with resetAt := some (s.time, 3) } }
  else if id = 2 ∧ st < 2 then { s with board := { s.board with loc := decide (st = 1) } }
  else s

/-- GET_FRU_RECORD: ORDER, STEPPING and SERIAL. -/
def getFru : State → State := whenMgmt fun s => s.mgmt (orderBytes ++ toLe 2 0x3142 ++ toLe 8 Config.serial.toNat)

/-- DYNAMIC_ADDRESS_ASSIGNMENT. -/
def setAddress (a : Nat) : State → State := whenMgmt fun s => { s with board := { s.board with addr := some (a % 128) } }

/-! ### Firmware update (R418, R272, R273) -/

/-- The patch copy that is not in force, replaced. -/
def Board.setSpare (b : Board) (c : Option PatchCopy) : Board := if b.patchB then { b with copyA := c } else { b with copyB := c }

/-- PASS_COMPONENT_UPDATE: the new table is written into the copy that is not in force. -/
def passUpdate (image : List Byte) : State → State := whenMgmt fun s =>
  let c : PatchCopy := { level := Config.patchLevel image, bytes := image, ok := true }
  let s := s.mgmtFree 0x4181 1
  { s with nextPatch := none, board := { s.board.setSpare (some c) with update := some { c with ok := false } } }

/-- The checks of VerifyComplete: R272, and a level above the one in force. -/
def State.updateOk (s : State) (c : PatchCopy) : Bool :=
  patchOk c.bytes c.level && decide (s.patch.1 < c.level)

/-- VERIFY_COMPLETE: a copy that fails is reported and never used. -/
def verifyUpdate : State → State := whenMgmt fun s =>
  match s.board.update with
  | none => s.mgmtFree 0x4182 1
  | some c =>
    if s.updateOk c then { (s.mgmtFree 0x4183 1) with board := { s.board with update := some { c with ok := true } } }
    else { (s.mgmtFree 0x4184 1) with board := { s.board.setSpare (some { c with ok := false }) with update := none } }

/-- ACTIVATE_FIRMWARE: the verified copy is in force from the next control-processor or cold reset on; self-contained, the control
processor is reset at once, between two mailbox turns. -/
def activateUpdate (selfContained : Bool) : State → State := whenMgmt fun s =>
  match s.board.update with
  | none => s.mgmtFree 0x4185 1
  | some c =>
    if !c.ok then s.mgmtFree 0x4185 1
    else
      let s : State := { (s.mgmtFree 0x4186 1) with nextPatch := some (c.level, true), board := { s.board with update := none } }
      if selfContained ∧ s.ready then cpReset s else s

/-! ### SPDM (R419, R423) -/

/-- The highest version that the peer and the module have in common: 1.2 and 1.3. -/
def spdmCommon (peer : List Nat) : Option Nat := if peer.contains 0x13 then some 0x13 else if peer.contains 0x12 then some 0x12 else none

/-- GET_VERSION: answered even where start-up failed. -/
def getVersion (peer : List Nat) : State → State := whenMgmt fun s =>
  { (s.mgmt [0x12, 0x13]) with board := { s.board with spdmVer := spdmCommon peer } }

/-- A request that needs a key: an error where start-up has failed or not reached step 5, or no version is agreed (R423). -/
def withKey (f : State → State) : State → State := whenMgmt fun s =>
  if s.board.failed ∨ s.board.step < 5 ∨ s.board.spdmVer.isNone then s.mgmtFree 0x4190 4 else f s

/-- Slot 0's chain: Juldane root, device CA, device identity certificate, attestation key certificate (log 14). -/
def State.spdmChain (s : State) : List Byte := secret 8 s.akSeed (ofLe (secret 9 s.akSeed 2))

/-- GET_CERTIFICATE: part of the chain; other slots hold none. -/
def getCertificate (slot off len : Nat) : State → State := withKey fun s =>
  if slot = 0 then s.mgmt ((s.spdmChain.drop off).take len) else s.mgmtFree 0x4190 4

/-- CHALLENGE: signed by the attestation key. -/
def challengeAuth (slot : Nat) (nonce : List Byte) : State → State := withKey fun s =>
  if slot = 0 then s.mgmt (secret 10 (s.akSeed ++ nonce) 132) else s.mgmtFree 0x4190 4

/-- Measurement block of an index, if there is one. -/
def State.measurement (s : State) (i : Nat) : Option (List Byte) :=
  if i = 1 then some romDigest
  else if i = 2 then some s.patchDigest
  else if i = 3 then some trimDigest
  else if i = 4 then some (toLe 4 Config.romVer.toNat ++ toLe 4 s.patch.1)
  else if 0x10 ≤ i ∧ i < 0x20 then some (sha512 (s.attestEntries (i - 0x10)).flatten)
  else none

/-- GET_MEASUREMENTS: the block of an index, 0xFF for all of them, 0 for their number, with a signature (log 30). -/
def getMeasurements (i : Nat) (nonce : List Byte) : State → State := withKey fun s =>
  let all := (List.range 0x20).filterMap s.measurement
  let bs := if i = 0 then some [BitVec.ofNat 8 all.length] else if i = 0xFF then some all.flatten else s.measurement i
  match bs with
  | some bs => s.mgmt (bs ++ secret 11 (s.akSeed ++ nonce ++ bs) 132)
  | none => s.mgmtFree 0x4190 4

/-- KEY_EXCHANGE: a secured session. -/
def keyExchange (slot : Nat) (pub : List Byte) : State → State := withKey fun s =>
  if slot = 0 then { (s.mgmt (secret 12 (s.akSeed ++ pub) 264)) with board := { s.board with spdmSess := s.board.spdmSess + 1 } }
  else s.mgmtFree 0x4190 4

/-! ### Commands -/

/-- MCTP_CONTROL_MESSAGE. -/
def execMctpControlMessage (ty : Byte) (body : List Byte) (s : State) : Host.Outcome State Fault Refusal := .next (mctpMessage ty body s)
/-- GET_SENSOR_READING. -/
def execGetSensorReading (id : Nat) (s : State) : Host.Outcome State Fault Refusal := .next (getSensor id s)
/-- SET_EVENT_RECEIVER. -/
def execSetEventReceiver (eid : Nat) (s : State) : Host.Outcome State Fault Refusal := .next (setReceiver eid s)
/-- SET_STATE_EFFECTER_STATES. -/
def execSetStateEffecterStates (id st : Nat) (s : State) : Host.Outcome State Fault Refusal := .next (setEffecter id st s)
/-- GET_FRU_RECORD. -/
def execGetFruRecord (s : State) : Host.Outcome State Fault Refusal := .next (getFru s)
/-- PASS_COMPONENT_UPDATE. -/
def execPassComponentUpdate (image : List Byte) (s : State) : Host.Outcome State Fault Refusal := .next (passUpdate image s)
/-- VERIFY_COMPLETE. -/
def execVerifyComplete (s : State) : Host.Outcome State Fault Refusal := .next (verifyUpdate s)
/-- ACTIVATE_FIRMWARE. -/
def execActivateFirmware (selfContained : Bool) (s : State) : Host.Outcome State Fault Refusal := .next (activateUpdate selfContained s)
/-- GET_VERSION. -/
def execGetVersion (peer : List Nat) (s : State) : Host.Outcome State Fault Refusal := .next (getVersion peer s)
/-- GET_CERTIFICATE. -/
def execGetCertificate (slot off len : Nat) (s : State) : Host.Outcome State Fault Refusal := .next (getCertificate slot off len s)
/-- CHALLENGE. -/
def execChallenge (slot : Nat) (nonce : List Byte) (s : State) : Host.Outcome State Fault Refusal := .next (challengeAuth slot nonce s)
/-- GET_MEASUREMENTS. -/
def execGetMeasurements (index : Nat) (nonce : List Byte) (s : State) : Host.Outcome State Fault Refusal := .next (getMeasurements index nonce s)
/-- KEY_EXCHANGE. -/
def execKeyExchange (slot : Nat) (pub : List Byte) (s : State) : Host.Outcome State Fault Refusal := .next (keyExchange slot pub s)
/-- DYNAMIC_ADDRESS_ASSIGNMENT. -/
def execDynamicAddressAssignment (addr : Nat) (s : State) : Host.Outcome State Fault Refusal := .next (setAddress addr s)

end Sys2Proof.Machine
end

