-- ==== Sys2Proof/Machine/Firmware.lean ====
section
/-!
DEFINITION. The firmware as a whole: the handler of each command code (R279), a mailbox turn (R263), the finish of background
commands (R264), ABORT (R274), failed reads of host memory (R414), the wear governor's second (R246), and the clock.
-/

namespace Sys2Proof.Machine

/-! ### Handlers -/

/-- Handlers of groups 0x00 to 0x05. -/
def handlerLow (code : Nat) : Handler := match code with
  | 0x0001 => hOpenSession
  | 0x0002 => hCloseSession
  | 0x0003 => hFence
  | 0x0005 => hGetInfo
  | 0x0006 => hNop
  | 0x0100 => hRegionCreate
  | 0x0101 => hRegionRemove
  | 0x0102 => hRegionPerm
  | 0x0103 => hRegionQuery
  | 0x0104 => hRegionGrant
  | 0x0200 => hImgLoad
  | 0x0201 => hImgUnload
  | 0x0202 => hImgQuery
  | 0x0203 => hTblLoad
  | 0x0300 => hPartCreate
  | 0x0301 => hPartDestroy
  | 0x0302 => hPartAssign
  | 0x0303 => hPartConfig
  | 0x0304 => hQpCreate
  | 0x0305 => hQpDestroy
  | 0x0306 => hQpQuery
  | 0x0400 => hSeqQuery
  | 0x0401 => hSeqRemove
  | 0x0402 => hSeqHold
  | 0x0500 => hPoolCreate
  | 0x0501 => hPoolDestroy
  | 0x0502 => hPageAlloc
  | 0x0503 => hPageFree
  | 0x0504 => hPmapCreate
  | 0x0505 => hPmapDestroy
  | 0x0506 => hEdit
  | 0x0507 => hEdit
  | 0x0508 => hEdit
  | 0x0509 => hPmapQuery
  | _ => fun _ s => (s, no 0x10)

/-- Handlers of groups 0x06 to 0x0C. -/
def handlerHigh (code : Nat) : Handler := match code with
  | 0x0600 => hFlashLayout
  | 0x0601 => hFlashQuery
  | 0x0602 => hTobjCreate
  | 0x0603 => hTobjLoad
  | 0x0604 => hTobjFlush
  | 0x0605 => hTobjEvict
  | 0x0606 => hTobjDestroy
  | 0x0607 => hTobjQuery
  | 0x0608 => hWpkgOpen
  | 0x0609 => hWpkgWrite
  | 0x060A => hWpkgCommit
  | 0x060B => hWpkgDelete
  | 0x060C => hWpkgGrant
  | 0x060D => hWwinStart
  | 0x060E => hWwinStop
  | 0x060F => hWwinQuery
  | 0x0700 => hSnapSet
  | 0x0701 => hSnapTake
  | 0x0702 => hSnapList
  | 0x0703 => hSnapRestore
  | 0x0704 => hSnapDelete
  | 0x0705 => hSnapExport
  | 0x0706 => hSnapImport
  | 0x0800 => hDomConfig
  | 0x0801 => hDomLeave
  | 0x0802 => hLinkQuery
  | 0x0803 => hTwinConfig
  | 0x0804 => hFtimeQuery
  | 0x0900 => hIrsOpen
  | 0x0901 => hIrsClose
  | 0x0902 => hIrsQuery
  | 0x0A00 => hPwrTimeout
  | 0x0A01 => hPwrModule
  | 0x0A02 => hTelSubscribe
  | 0x0A03 => hTelRead
  | 0x0B00 => hSecKeySet
  | 0x0B01 => hSecSecure
  | 0x0B02 => hSecAttest
  | 0x0C00 => hDiagLog
  | 0x0C01 => hDiagSelftest
  | 0x0C02 => hDiagInject
  | _ => fun _ s => (s, no 0x10)

/-- The handler of a command code (R279). -/
def handlerOf (code : Nat) : Handler := if code < 0x0600 then handlerLow code else handlerHigh code

/-- What an abort before the commit point undoes (R274's table, R438). REGION_CREATE waits for nothing in this model; of a
WPKG_WRITE each 4 KiB unit is written or unchanged, a free choice (log 10); of a SNAP_EXPORT the destination bytes, of a SNAP_IMPORT nothing remains. -/
def undoOf : Undo := fun c s => match c.code with
  | 0x0603 => undoTobjLoad c s
  | 0x0604 => undoTobjFlush c s
  | 0x0605 => undoTobjEvict c s
  | 0x0609 => undoWpkgWrite c s
  | 0x060A => undoRead c s
  | 0x0705 => match s.findSnap c.part (c.p 0) with
    | some x => undoRead c (s.awWrite c.part (c.w 1) ((List.range x.total).map (Config.freeByte s.fresh))).bump
    | none => undoRead c s
  | 0x0506 => undoEdit c s
  | 0x0507 => undoEdit c s
  | 0x0508 => undoEdit c s
  | 0x0A01 => undoPwrModule c s
  | _ => s

/-- MAILBOX_TURN, with the commands that waited for work to end (R321). -/
def turn (s : State) : State := s.settleLeave.mailboxTurn undoOf handlerOf

/-- ABORT by itself: it is processed when it is accepted (log 22). -/
def abortEntryRun (m : Nat) (h : CmdHdr) (target : W64) (s : State) : State :=
  if !s.canAccept m then s
  else
    let e : CmdEntry :=
      { slot := h.slot.toNat, code := 4, wait := h.wait, irq := h.irq, tag := h.tag.toNat, ps := [target], reserved := false }
    (s.accept undoOf m e).passHead m h.slot.toNat

/-! ### Background commands (R264) -/

/-- The parameter that names the memory a background command reads or writes. -/
def hostParam (code : Nat) : Option Nat := match code with
  | 0x0200 => some 0
  | 0x0609 => some 3
  | 0x0705 => some 1
  | 0x0706 => some 0
  | 0x0800 => some 0
  | 0x0803 => some 0
  | _ => none

/-- The command's memory is in the host. -/
def Cmd.hostBound (c : Cmd) : Bool := match hostParam c.code with
  | some j => awHost (c.w j)
  | none => false

/-- A background command ends with ST_ADDR: its host memory could not be read (R414). -/
def State.sourceFails (s : State) (c : Cmd) : State := (undoOf c s).complete c 0x1A false 0 0

/-- What DIAG_SELFTEST found: a unit that fails its test is one that has failed (R361). -/
def selftestEnds (o : BgFind) (c : Cmd) (s : State) : State :=
  let s := match o, diagUnit (c.p 0) with
    | .unitFails, some (.core, n) => s.unitFails .core n
    | .unitFails, some (.fox, n) => s.unitFails .fox n
    | .unitFails, some (.prim, n) => s.unitFails .prim n
    | _, _ => s
  finDiagSelftest c s

/-- The finish of a background command of a code. -/
def finOf (o : BgFind) (c : Cmd) (s : State) : State := match c.code with
  | 0x0200 => finImgLoad c s
  | 0x0301 => finPartDestroy c s
  | 0x0603 => finTobjLoad c s
  | 0x0604 => finTobjFlush c s
  | 0x0605 => finTobjEvict c s
  | 0x0609 => finWpkgWrite c s
  | 0x060A => finWpkgCommit c s
  | 0x0703 => s.settleBounds c.part
  | 0x0705 => finSnapExport c s
  | 0x0706 => finSnapImport c s
  | 0x0800 => finDomConfig o c s
  | 0x0803 => finTwinConfig o c s
  | 0x0C01 => selftestEnds o c s
  | _ => s

/-- BG_COMMAND_FINISH: the hub engines have done the work of a background command, or what was left of it past its commit point (R274). Its flash read must not stand in a ladder, and
its host memory must be reachable. -/
def bgFinish (m tag : Nat) (o : BgFind) (s : State) : State :=
  match s.cmd m tag with
  | none => s
  | some c =>
    if !s.ready ∨ s.cpRst ∨ !c.started ∨ !c.bg ∨ !s.flash.steady (.cmd m tag) then s
    else if c.committed ∧ lateCommit c ∧ c.code ≠ 0x0605 then s.complete c 0 false c.r0 c.r1
    else if c.hostBound then
      if o = .sourceLost then s.sourceFails c else if !s.hostOpen c.part then s else finOf o c s
    else finOf o c s

/-! ### Failed reads of host memory (R414) -/

/-- The command has a parameter that names host memory. -/
def Cmd.readsHost (c : Cmd) : Bool := c.ps.any awHost

/-- HOST_READ_FAIL: the read is not repeated. -/
def hostReadFail (w : HostRead) (s : State) : State :=
  match w with
  | .mailboxRing m => s.updMbx m (fun b => if awHost b.cmdBase then { b with stopped := true } else b)
  | .queueRing q => s.updQp q (fun x => if awHost x.sqAddr then { x with stopped := true } else x)
  | .command m tag => match s.cmd m tag with
    | some c =>
      if !c.readsHost then s
      else if c.committed ∧ lateCommit c then s
      else if c.started then s.sourceFails c
      else if startable s.journal m = some c then s.complete c 0x1A false 0 0 else s
    | none => s
  | .copy q k => match (s.copies.filter (fun c => c.qp = q))[k]? with
    | some c =>
      let hit (e : QpEntry) : Bool := e.at_ == c.at_ && awHost (e.words.getD 1 0)
      copyFails q k hit s
    | none => s
where
  /-- The copy's entry is marked as failed and ends. -/
  copyFails (q k : Nat) (hit : QpEntry → Bool) (s : State) : State :=
    let any := (s.qp q).map (fun x => x.entries.any hit)
    if any = some true then
      copyDone q k (s.updQp q (fun x => { x with entries := x.entries.map (fun e => if hit e then { e with failed := true } else e) }))
    else s

/-! ### The wear governor (R245, R246) -/

/-- WEAR_GOVERNOR_TICK: each second out of Off; Sleep counts (R439). -/
def wearSecond (s : State) : State := if s.mode = .off then s else wearTick s

/-! ### The clock (log 1) -/

/-- Contexts of a core that run tile-threads. -/
def State.running (s : State) (c : Nat) : Nat := ((List.range 4).filter (fun x => (s.ctx c x).tt.isSome && !(s.core c).frozen.contains x)).length

/-- One cycle is charged to the launches of the contexts that run tile-threads, 1/n to each (R293). -/
def State.chargeCycle (s : State) : State :=
  s.ctxs.foldl (fun s (i, k) => match k.tt, k.launch with
    | some _, some l => if (s.core (i / 4)).frozen.contains (i % 4) then s else s.chargeEngine .core l (12 / s.running (i / 4))
    | _, _ => s) s

/-- A semaphore is an RDY semaphore or RSEM of a window (R226, R228). -/
def Wwin.signals (w : Wwin) (d i : Nat) : Bool := w.dies.contains d && decide ((w.rdy ≤ i ∧ i < w.rdy + w.nslot) ∨ i = w.rsem)

/-- A core waits on an RDY semaphore or RSEM of a window: in a context, or free for a launch that names it and whose wait is not met
(R224 to R226). -/
def State.waitsOn (s : State) (c : Nat) (w : Wwin) : Bool :=
  (List.range 4).any (fun x => match (s.ctx c x).wait with
    | .semWait d i _ => (s.ctx c x).tt.isSome && w.signals d i
    | _ => false) ||
  (s.coreFree c && s.launches.any (fun (_, l) => l.k.kind == 0 && !l.started && l.engineList.contains c &&
    l.e.wait.any (fun (d, i, n) => w.signals d i && decide ((s.sem d i).value.toNat < n))))

/-- MEM_WW_STALL counts the waiting core-cycles of each running window (R225). -/
def State.countStalls (s : State) : State :=
  { s with wwins := s.wwins.map (fun (k, w) =>
      (k, if w.run then { w with stall := w.stall + BitVec.ofNat 64 ((List.range 128).filter (fun c => s.waitsOn c w)).length } else w)) }

/-- An engine that has work at a cycle has had work at its end (R430). -/
def State.noteWork (s : State) : State :=
  { s with
    cores := tmap (fun _ => Core.reset) (fun c k => if k.power = .run ∧ s.coreBusy c then { k with workSince := s.time } else k) s.cores
    foxes := tmap (fun _ => Fox.reset) (fun _ f => if f.item.isSome then { f with workSince := s.time } else f) s.foxes
    prims := tmap (fun _ => Prim.reset) (fun _ f => if f.job.isSome then { f with workSince := s.time } else f) s.prims }

/-- A step back of fabric time by 1 ns is taken as a nanosecond passes, so that time does not run backward (R322). -/
def State.slowTime (s : State) (before : Nat) : State :=
  if s.ftTenths ≤ -10 ∧ before / 8 < s.time / 8 then { s with ftAdj := s.ftAdj - 1, ftTenths := s.ftTenths + 10 } else s

/-- One core cycle passes with nothing commanded: 0.625 ns, five eighths of a nanosecond. -/
def idleTick (s : State) : State :=
  let s1 := s.chargeCycle.countStalls
  (({ s1 with time := s1.time + 5 } : State).noteWork).slowTime s.time

/-! ### Commands -/

/-- MAILBOX_TURN. -/
def execMailboxTurn (s : State) : Host.Outcome State Fault Refusal := .next (turn s)
/-- ABORT. -/
def execAbort (m : Nat) (h : CmdHdr) (target : W64) (s : State) : Host.Outcome State Fault Refusal := .next (abortEntryRun m h target s)
/-- BG_COMMAND_FINISH. -/
def execBgCommandFinish (m tag : Nat) (o : BgFind) (s : State) : Host.Outcome State Fault Refusal := .next (bgFinish m tag o s)
/-- HOST_READ_FAIL. -/
def execHostReadFail (w : HostRead) (s : State) : Host.Outcome State Fault Refusal := .next (hostReadFail w s)
/-- WEAR_GOVERNOR_TICK. -/
def execWearGovernorTick (s : State) : Host.Outcome State Fault Refusal := .next (wearSecond s)

end Sys2Proof.Machine
end

