-- ==== Sys2Proof/Machine/Dispatch.lean ====
section
/-!
DEFINITION. What each command does to everything but the queue: one arm per constructor.
-/

namespace Sys2Proof.Machine

def exec (i : Instr) (s : State) : Host.Outcome State Fault Refusal :=
  match i with
  | .bundleIssue c => Sys2Proof.Machine.execBundleIssue c s
  | .icacheLineFill c x => Sys2Proof.Machine.execIcacheLineFill c x s
  | .add c x h f => Sys2Proof.Machine.execAdd c x h f s
  | .sub c x h f => Sys2Proof.Machine.execSub c x h f s
  | .and c x h f => Sys2Proof.Machine.execAnd c x h f s
  | .or c x h f => Sys2Proof.Machine.execOr c x h f s
  | .xor c x h f => Sys2Proof.Machine.execXor c x h f s
  | .shl c x h f => Sys2Proof.Machine.execShl c x h f s
  | .shr c x h f => Sys2Proof.Machine.execShr c x h f s
  | .sra c x h f => Sys2Proof.Machine.execSra c x h f s
  | .min c x h f => Sys2Proof.Machine.execMin c x h f s
  | .max c x h f => Sys2Proof.Machine.execMax c x h f s
  | .minu c x h f => Sys2Proof.Machine.execMinu c x h f s
  | .maxu c x h f => Sys2Proof.Machine.execMaxu c x h f s
  | .mul c x h f => Sys2Proof.Machine.execMul c x h f s
  | .mulh c x h f => Sys2Proof.Machine.execMulh c x h f s
  | .mulhu c x h f => Sys2Proof.Machine.execMulhu c x h f s
  | .div c x h f => Sys2Proof.Machine.execDiv c x h f s
  | .divu c x h f => Sys2Proof.Machine.execDivu c x h f s
  | .rem c x h f => Sys2Proof.Machine.execRem c x h f s
  | .remu c x h f => Sys2Proof.Machine.execRemu c x h f s
  | .cmpEq c x h f => Sys2Proof.Machine.execCmpEq c x h f s
  | .cmpNe c x h f => Sys2Proof.Machine.execCmpNe c x h f s
  | .cmpLt c x h f => Sys2Proof.Machine.execCmpLt c x h f s
  | .cmpLtu c x h f => Sys2Proof.Machine.execCmpLtu c x h f s
  | .cmpGe c x h f => Sys2Proof.Machine.execCmpGe c x h f s
  | .cmpGeu c x h f => Sys2Proof.Machine.execCmpGeu c x h f s
  | .adda c x h f => Sys2Proof.Machine.execAdda c x h f s
  | .mova c x h f => Sys2Proof.Machine.execMova c x h f s
  | .movs c x h f => Sys2Proof.Machine.execMovs c x h f s
  | .rdsr c x h f => Sys2Proof.Machine.execRdsr c x h f s
  | .ld8 c x h f => Sys2Proof.Machine.execLd8 c x h f s
  | .ld16 c x h f => Sys2Proof.Machine.execLd16 c x h f s
  | .ld32 c x h f => Sys2Proof.Machine.execLd32 c x h f s
  | .ld64 c x h f => Sys2Proof.Machine.execLd64 c x h f s
  | .st8 c x h f => Sys2Proof.Machine.execSt8 c x h f s
  | .st16 c x h f => Sys2Proof.Machine.execSt16 c x h f s
  | .st32 c x h f => Sys2Proof.Machine.execSt32 c x h f s
  | .st64 c x h f => Sys2Proof.Machine.execSt64 c x h f s
  | .br c x h f => Sys2Proof.Machine.execBr c x h f s
  | .brz c x h f => Sys2Proof.Machine.execBrz c x h f s
  | .brnz c x h f => Sys2Proof.Machine.execBrnz c x h f s
  | .brdec c x h f => Sys2Proof.Machine.execBrdec c x h f s
  | .call c x h f => Sys2Proof.Machine.execCall c x h f s
  | .jr c x h f => Sys2Proof.Machine.execJr c x h f s
  | .endOp c x h f => Sys2Proof.Machine.execEndOp c x h f s
  | .tileThreadStart c x l => Sys2Proof.Machine.execTileThreadStart c x l s
  | .tld c x h f => Sys2Proof.Machine.execTld c x h f s
  | .tldz c x h f => Sys2Proof.Machine.execTldz c x h f s
  | .tcpy c x h f => Sys2Proof.Machine.execTcpy c x h f s
  | .tst c x h f => Sys2Proof.Machine.execTst c x h f s
  | .tstAddf c x h f => Sys2Proof.Machine.execTstAddf c x h f s
  | .tstAddi c x h f => Sys2Proof.Machine.execTstAddi c x h f s
  | .moverOpComplete c st x => Sys2Proof.Machine.execMoverOpComplete c st x s
  | .mmul c x h f => Sys2Proof.Machine.execMmul c x h f s
  | .mmulChunkDone c => Sys2Proof.Machine.execMmulChunkDone c s
  | .mdrain c x h f => Sys2Proof.Machine.execMdrain c x h f s
  | .drainStart c => Sys2Proof.Machine.execDrainStart c s
  | .drainRerun c => Sys2Proof.Machine.execDrainRerun c s
  | .drainWritten c => Sys2Proof.Machine.execDrainWritten c s
  | .mfree c x h f => Sys2Proof.Machine.execMfree c x h f s
  | .lrun c x h f => Sys2Proof.Machine.execLrun c x h f s
  | .lrunExpandStart c => Sys2Proof.Machine.execLrunExpandStart c s
  | .lupinIteration c => Sys2Proof.Machine.execLupinIteration c s
  | .lrunComplete c => Sys2Proof.Machine.execLrunComplete c s
  | .vadd c x h f => Sys2Proof.Machine.execVadd c x h f s
  | .vsub c x h f => Sys2Proof.Machine.execVsub c x h f s
  | .vmul c x h f => Sys2Proof.Machine.execVmul c x h f s
  | .vmin c x h f => Sys2Proof.Machine.execVmin c x h f s
  | .vmax c x h f => Sys2Proof.Machine.execVmax c x h f s
  | .vfma c x h f => Sys2Proof.Machine.execVfma c x h f s
  | .vabs c x h f => Sys2Proof.Machine.execVabs c x h f s
  | .vneg c x h f => Sys2Proof.Machine.execVneg c x h f s
  | .vand c x h f => Sys2Proof.Machine.execVand c x h f s
  | .vor c x h f => Sys2Proof.Machine.execVor c x h f s
  | .vxor c x h f => Sys2Proof.Machine.execVxor c x h f s
  | .vshl c x h f => Sys2Proof.Machine.execVshl c x h f s
  | .vshr c x h f => Sys2Proof.Machine.execVshr c x h f s
  | .vsra c x h f => Sys2Proof.Machine.execVsra c x h f s
  | .vcmpEq c x h f => Sys2Proof.Machine.execVcmpEq c x h f s
  | .vcmpNe c x h f => Sys2Proof.Machine.execVcmpNe c x h f s
  | .vcmpLt c x h f => Sys2Proof.Machine.execVcmpLt c x h f s
  | .vcmpLe c x h f => Sys2Proof.Machine.execVcmpLe c x h f s
  | .vsel c x h f => Sys2Proof.Machine.execVsel c x h f s
  | .vcvt c x h f => Sys2Proof.Machine.execVcvt c x h f s
  | .vperm c x h f => Sys2Proof.Machine.execVperm c x h f s
  | .vbcast c x h f => Sys2Proof.Machine.execVbcast c x h f s
  | .vredAdd c x h f => Sys2Proof.Machine.execVredAdd c x h f s
  | .vredMax c x h f => Sys2Proof.Machine.execVredMax c x h f s
  | .vredMin c x h f => Sys2Proof.Machine.execVredMin c x h f s
  | .vld c x h f => Sys2Proof.Machine.execVld c x h f s
  | .vst c x h f => Sys2Proof.Machine.execVst c x h f s
  | .rng c x h f => Sys2Proof.Machine.execRng c x h f s
  | .vidx c x h f => Sys2Proof.Machine.execVidx c x h f s
  | .sfu c x h f => Sys2Proof.Machine.execSfu c x h f s
  | .sfuGate c x h f => Sys2Proof.Machine.execSfuGate c x h f s
  | .tblCommit c x h f => Sys2Proof.Machine.execTblCommit c x h f s
  | .tblCheckDone c t => Sys2Proof.Machine.execTblCheckDone c t s
  | .tableSwitch c t => Sys2Proof.Machine.execTableSwitch c t s
  | .fence c x h f => Sys2Proof.Machine.execFence c x h f s
  | .fenceSatisfied c x => Sys2Proof.Machine.execFenceSatisfied c x s
  | .mwait c x h f => Sys2Proof.Machine.execMwait c x h f s
  | .mwaitSatisfied c x => Sys2Proof.Machine.execMwaitSatisfied c x s
  | .semSig c x h f => Sys2Proof.Machine.execSemSig c x h f s
  | .semSigApply k => Sys2Proof.Machine.execSemSigApply k s
  | .semWait c x h f => Sys2Proof.Machine.execSemWait c x h f s
  | .semWaitSatisfied c x => Sys2Proof.Machine.execSemWaitSatisfied c x s
  | .semTake c x h f => Sys2Proof.Machine.execSemTake c x h f s
  | .semTakeServed die ix => Sys2Proof.Machine.execSemTakeServed die ix s
  | .semRd c x h f => Sys2Proof.Machine.execSemRd c x h f s
  | .claim c x h f => Sys2Proof.Machine.execClaim c x h f s
  | .fbar c x h f => Sys2Proof.Machine.execFbar c x h f s
  | .barrierOpen p ix remote => Sys2Proof.Machine.execBarrierOpen p ix remote s
  | .launchComplete l => Sys2Proof.Machine.execLaunchComplete l s
  | .foxItemStart u => Sys2Proof.Machine.execFoxItemStart u s
  | .mapEpochPin u => Sys2Proof.Machine.execMapEpochPin u s
  | .foxLabFill u page => Sys2Proof.Machine.execFoxLabFill u page s
  | .foxBlockCompute u => Sys2Proof.Machine.execFoxBlockCompute u s
  | .foxItemComplete u => Sys2Proof.Machine.execFoxItemComplete u s
  | .mapEditBatch m => Sys2Proof.Machine.execMapEditBatch m s
  | .primJobStart e => Sys2Proof.Machine.execPrimJobStart e s
  | .primJobComplete e => Sys2Proof.Machine.execPrimJobComplete e s
  | .engineDispatch k n => Sys2Proof.Machine.execEngineDispatch k n s
  | .hotWindowEnd die ch lines total gran => Sys2Proof.Machine.execHotWindowEnd die ch lines total gran s
  | .dramRowSpare die ch row => Sys2Proof.Machine.execDramRowSpare die ch row s
  | .dramPatrolScrub die e => Sys2Proof.Machine.execDramPatrolScrub die e s
  | .dramRefresh die ch => Sys2Proof.Machine.execDramRefresh die ch s
  | .dramChannelPowerDown die ch => Sys2Proof.Machine.execDramChannelPowerDown die ch s
  | .regionDrainDone p ix => Sys2Proof.Machine.execRegionDrainDone p ix s
  | .wwPositionRead w => Sys2Proof.Machine.execWwPositionRead w s
  | .wwLayerReady w => Sys2Proof.Machine.execWwLayerReady w s
  | .wwRungReady w => Sys2Proof.Machine.execWwRungReady w s
  | .flashDecodeResult k r => Sys2Proof.Machine.execFlashDecodeResult k r s
  | .flashRelocate blk dst => Sys2Proof.Machine.execFlashRelocate blk dst s
  | .programFailure blk => Sys2Proof.Machine.execProgramFailure blk s
  | .eraseFailure blk => Sys2Proof.Machine.execEraseFailure blk s
  | .dieFailed d => Sys2Proof.Machine.execDieFailed d s
  | .dieRebuild d n => Sys2Proof.Machine.execDieRebuild d n s
  | .readCountCheck blk errs retries => Sys2Proof.Machine.execReadCountCheck blk errs retries s
  | .retentionScrub blk errs retries => Sys2Proof.Machine.execRetentionScrub blk errs retries s
  | .staticWearLevel g q => Sys2Proof.Machine.execStaticWearLevel g q s
  | .garbageCollection g q => Sys2Proof.Machine.execGarbageCollection g q s
  | .flashChannelPowerDown ch => Sys2Proof.Machine.execFlashChannelPowerDown ch s
  | .wearGovernorTick => Sys2Proof.Machine.execWearGovernorTick s
  | .mbxCtrlWrite m v => Sys2Proof.Machine.execMbxCtrlWrite m v s
  | .mbxCmdTailWrite m v => Sys2Proof.Machine.execMbxCmdTailWrite m v s
  | .mbxCmpHeadWrite m v => Sys2Proof.Machine.execMbxCmpHeadWrite m v s
  | .mailboxTurn => Sys2Proof.Machine.execMailboxTurn s
  | .bgCommandFinish m tag o => Sys2Proof.Machine.execBgCommandFinish m tag o s
  | .completionPost m => Sys2Proof.Machine.execCompletionPost m s
  | .cpWatchdogExpire => Sys2Proof.Machine.execCpWatchdogExpire s
  | .cpSramUncorrectable => Sys2Proof.Machine.execCpSramUncorrectable s
  | .cpRestartDone => Sys2Proof.Machine.execCpRestartDone s
  | .openSession m h resp mbx img pkg snap feats => Sys2Proof.Machine.execOpenSession m h resp mbx img pkg snap feats s
  | .closeSession m h => Sys2Proof.Machine.execCloseSession m h s
  | .fenceCommand m h => Sys2Proof.Machine.execFenceCommand m h s
  | .abort m h target => Sys2Proof.Machine.execAbort m h target s
  | .getInfo m h resp => Sys2Proof.Machine.execGetInfo m h resp s
  | .nop m h => Sys2Proof.Machine.execNop m h s
  | .regionCreate m h index baseg lastg flags => Sys2Proof.Machine.execRegionCreate m h index baseg lastg flags s
  | .regionRemove m h index => Sys2Proof.Machine.execRegionRemove m h index s
  | .regionPerm m h index flags => Sys2Proof.Machine.execRegionPerm m h index flags s
  | .regionQuery m h index => Sys2Proof.Machine.execRegionQuery m h index s
  | .regionGrant m h baseg lastg part enable => Sys2Proof.Machine.execRegionGrant m h baseg lastg part enable s
  | .imgLoad m h src len index => Sys2Proof.Machine.execImgLoad m h src len index s
  | .imgUnload m h handle => Sys2Proof.Machine.execImgUnload m h handle s
  | .imgQuery m h handle resp => Sys2Proof.Machine.execImgQuery m h handle resp s
  | .tblLoad m h tid src => Sys2Proof.Machine.execTblLoad m h tid src s
  | .partCreate m h part pb => Sys2Proof.Machine.execPartCreate m h part pb s
  | .partDestroy m h part => Sys2Proof.Machine.execPartDestroy m h part s
  | .partAssign m h part pb => Sys2Proof.Machine.execPartAssign m h part pb s
  | .partConfig m h part pb => Sys2Proof.Machine.execPartConfig m h part pb s
  | .qpCreate m h qp pb => Sys2Proof.Machine.execQpCreate m h qp pb s
  | .qpDestroy m h qp => Sys2Proof.Machine.execQpDestroy m h qp s
  | .qpQuery m h qp resp => Sys2Proof.Machine.execQpQuery m h qp resp s
  | .seqQuery m h entry resp => Sys2Proof.Machine.execSeqQuery m h entry resp s
  | .seqRemove m h entry => Sys2Proof.Machine.execSeqRemove m h entry s
  | .seqHold m h entry hold => Sys2Proof.Machine.execSeqHold m h entry hold s
  | .poolCreate m h pb => Sys2Proof.Machine.execPoolCreate m h pb s
  | .poolDestroy m h pool => Sys2Proof.Machine.execPoolDestroy m h pool s
  | .pageAlloc m h pool n out => Sys2Proof.Machine.execPageAlloc m h pool n out s
  | .pageFree m h pool n inp => Sys2Proof.Machine.execPageFree m h pool n inp s
  | .pmapCreate m h => Sys2Proof.Machine.execPmapCreate m h s
  | .pmapDestroy m h map => Sys2Proof.Machine.execPmapDestroy m h map s
  | .pmapSetStream m h map stream flags dirm1 coord sum => Sys2Proof.Machine.execPmapSetStream m h map stream flags dirm1 coord sum s
  | .pmapSetLeaf m h map stream lpage0 n inp => Sys2Proof.Machine.execPmapSetLeaf m h map stream lpage0 n inp s
  | .pmapClear m h map stream lpage0 n => Sys2Proof.Machine.execPmapClear m h map stream lpage0 n s
  | .pmapQuery m h map => Sys2Proof.Machine.execPmapQuery m h map s
  | .flashLayout m h wsize => Sys2Proof.Machine.execFlashLayout m h wsize s
  | .flashQuery m h resp => Sys2Proof.Machine.execFlashQuery m h resp s
  | .tobjCreate m h sizeg => Sys2Proof.Machine.execTobjCreate m h sizeg s
  | .tobjLoad m h id index baseg flags => Sys2Proof.Machine.execTobjLoad m h id index baseg flags s
  | .tobjFlush m h id => Sys2Proof.Machine.execTobjFlush m h id s
  | .tobjEvict m h id => Sys2Proof.Machine.execTobjEvict m h id s
  | .tobjDestroy m h id => Sys2Proof.Machine.execTobjDestroy m h id s
  | .tobjQuery m h id => Sys2Proof.Machine.execTobjQuery m h id s
  | .wpkgOpen m h total => Sys2Proof.Machine.execWpkgOpen m h total s
  | .wpkgWrite m h handle offset len src => Sys2Proof.Machine.execWpkgWrite m h handle offset len src s
  | .wpkgCommit m h handle => Sys2Proof.Machine.execWpkgCommit m h handle s
  | .wpkgDelete m h handle => Sys2Proof.Machine.execWpkgDelete m h handle s
  | .wpkgGrant m h handle part enable => Sys2Proof.Machine.execWpkgGrant m h handle part enable s
  | .wwinStart m h win desc => Sys2Proof.Machine.execWwinStart m h win desc s
  | .wwinStop m h win => Sys2Proof.Machine.execWwinStop m h win s
  | .wwinQuery m h win resp => Sys2Proof.Machine.execWwinQuery m h win resp s
  | .snapSet m h pb => Sys2Proof.Machine.execSnapSet m h pb s
  | .snapTake m h => Sys2Proof.Machine.execSnapTake m h s
  | .snapList m h resp after => Sys2Proof.Machine.execSnapList m h resp after s
  | .snapRestore m h id => Sys2Proof.Machine.execSnapRestore m h id s
  | .snapDelete m h id => Sys2Proof.Machine.execSnapDelete m h id s
  | .snapExport m h id dst len => Sys2Proof.Machine.execSnapExport m h id dst len s
  | .snapImport m h src len => Sys2Proof.Machine.execSnapImport m h src len s
  | .domConfig m h pb => Sys2Proof.Machine.execDomConfig m h pb s
  | .domLeave m h => Sys2Proof.Machine.execDomLeave m h s
  | .linkQuery m h port resp => Sys2Proof.Machine.execLinkQuery m h port resp s
  | .twinConfig m h pb => Sys2Proof.Machine.execTwinConfig m h pb s
  | .ftimeQuery m h => Sys2Proof.Machine.execFtimeQuery m h s
  | .irsOpen m h pb => Sys2Proof.Machine.execIrsOpen m h pb s
  | .irsClose m h session => Sys2Proof.Machine.execIrsClose m h session s
  | .irsQuery m h session resp => Sys2Proof.Machine.execIrsQuery m h session resp s
  | .pwrTimeout m h offUs => Sys2Proof.Machine.execPwrTimeout m h offUs s
  | .pwrModule m h target => Sys2Proof.Machine.execPwrModule m h target s
  | .telSubscribe m h mask => Sys2Proof.Machine.execTelSubscribe m h mask s
  | .telRead m h resp => Sys2Proof.Machine.execTelRead m h resp s
  | .secKeySet m h part key => Sys2Proof.Machine.execSecKeySet m h part key s
  | .secSecure m h part enable => Sys2Proof.Machine.execSecSecure m h part enable s
  | .secAttest m h nonce resp => Sys2Proof.Machine.execSecAttest m h nonce resp s
  | .diagLog m h resp start => Sys2Proof.Machine.execDiagLog m h resp start s
  | .diagSelftest m h unit => Sys2Proof.Machine.execDiagSelftest m h unit s
  | .diagInject m h pb => Sys2Proof.Machine.execDiagInject m h pb s
  | .qeDoorbellWrite p v => Sys2Proof.Machine.execQeDoorbellWrite p v s
  | .launch q => Sys2Proof.Machine.execLaunch q s
  | .launchStart l => Sys2Proof.Machine.execLaunchStart l s
  | .copy q => Sys2Proof.Machine.execCopy q s
  | .copyDone q k => Sys2Proof.Machine.execCopyDone q k s
  | .addSeq q => Sys2Proof.Machine.execAddSeq q s
  | .step q => Sys2Proof.Machine.execStep q s
  | .fenceEntry q => Sys2Proof.Machine.execFenceEntry q s
  | .fenceEntryComplete q => Sys2Proof.Machine.execFenceEntryComplete q s
  | .qpCompletionPost q => Sys2Proof.Machine.execQpCompletionPost q s
  | .preempt c l => Sys2Proof.Machine.execPreempt c l s
  | .preemptSaveDone c => Sys2Proof.Machine.execPreemptSaveDone c s
  | .preemptRestore c => Sys2Proof.Machine.execPreemptRestore c s
  | .regulatorRefill => Sys2Proof.Machine.execRegulatorRefill s
  | .semHoldRevoke die ix => Sys2Proof.Machine.execSemHoldRevoke die ix s
  | .stepTick p => Sys2Proof.Machine.execStepTick p s
  | .stepBoundary p => Sys2Proof.Machine.execStepBoundary p s
  | .stepBarrierOpen p xor due st => Sys2Proof.Machine.execStepBarrierOpen p xor due st s
  | .flitReceive port f => Sys2Proof.Machine.execFlitReceive port f s
  | .flitReplayTimeout port => Sys2Proof.Machine.execFlitReplayTimeout port s
  | .ackTimer port => Sys2Proof.Machine.execAckTimer port s
  | .portRetrain port fec failed => Sys2Proof.Machine.execPortRetrain port fec failed s
  | .portTrainingDone port t => Sys2Proof.Machine.execPortTrainingDone port t s
  | .syncFlit port t => Sys2Proof.Machine.execSyncFlit port t s
  | .fabBarCfgWrite p die b v => Sys2Proof.Machine.execFabBarCfgWrite p die b v s
  | .fabCqCfgWrite p die q v => Sys2Proof.Machine.execFabCqCfgWrite p die q v s
  | .collectiveStart p die q => Sys2Proof.Machine.execCollectiveStart p die q s
  | .chunkReceive p die q ch => Sys2Proof.Machine.execChunkReceive p die q ch s
  | .collAbortReceive p die q peer => Sys2Proof.Machine.execCollAbortReceive p die q peer s
  | .collectiveComplete p die q => Sys2Proof.Machine.execCollectiveComplete p die q s
  | .forwardDrain k => Sys2Proof.Machine.execForwardDrain k s
  | .twinHeartbeat => Sys2Proof.Machine.execTwinHeartbeat s
  | .twinHeartbeatTimeout => Sys2Proof.Machine.execTwinHeartbeatTimeout s
  | .twinWaitTimeout p => Sys2Proof.Machine.execTwinWaitTimeout p s
  | .admissionCountReceive p ns => Sys2Proof.Machine.execAdmissionCountReceive p ns s
  | .stepDigestExchange p peer other due st risk => Sys2Proof.Machine.execStepDigestExchange p peer other due st risk s
  | .replayNotice p st => Sys2Proof.Machine.execReplayNotice p st s
  | .auditRunStart l u => Sys2Proof.Machine.execAuditRunStart l u s
  | .auditRunComplete l u first audit third => Sys2Proof.Machine.execAuditRunComplete l u first audit third s
  | .stepReplay p => Sys2Proof.Machine.execStepReplay p s
  | .tileReplay l n x => Sys2Proof.Machine.execTileReplay l n x s
  | .poisonReport p addr => Sys2Proof.Machine.execPoisonReport p addr s
  | .weightRefetchTwin w image => Sys2Proof.Machine.execWeightRefetchTwin w image s
  | .sramUncorrectable k n => Sys2Proof.Machine.execSramUncorrectable k n s
  | .sramCorrected k n => Sys2Proof.Machine.execSramCorrected k n s
  | .coreWatchdogExpire c => Sys2Proof.Machine.execCoreWatchdogExpire c s
  | .primJobWatchdog e => Sys2Proof.Machine.execPrimJobWatchdog e s
  | .unitCheckFailure k n => Sys2Proof.Machine.execUnitCheckFailure k n s
  | .quarantine k n => Sys2Proof.Machine.execQuarantine k n s
  | .moduleFailure => Sys2Proof.Machine.execModuleFailure s
  | .riskUpdate t vin pin => Sys2Proof.Machine.execRiskUpdate t vin pin s
  | .riskDecay => Sys2Proof.Machine.execRiskDecay s
  | .shadowCopyBlock p => Sys2Proof.Machine.execShadowCopyBlock p s
  | .flashSnapshotWrite p => Sys2Proof.Machine.execFlashSnapshotWrite p s
  | .irisDescriptorStart k => Sys2Proof.Machine.execIrisDescriptorStart k s
  | .irisRowDone k => Sys2Proof.Machine.execIrisRowDone k s
  | .irisSliceEmit k => Sys2Proof.Machine.execIrisSliceEmit k s
  | .irisPictureDone k => Sys2Proof.Machine.execIrisPictureDone k s
  | .irisPictureRepeat k => Sys2Proof.Machine.execIrisPictureRepeat k s
  | .flr p => Sys2Proof.Machine.execFlr p s
  | .perstAssert => Sys2Proof.Machine.execPerstAssert s
  | .perstDeassert => Sys2Proof.Machine.execPerstDeassert s
  | .pcieLinkDown => Sys2Proof.Machine.execPcieLinkDown s
  | .pcieLinkUp => Sys2Proof.Machine.execPcieLinkUp s
  | .bar4Read p off n => Sys2Proof.Machine.execBar4Read p off n s
  | .bar4Write p off bs => Sys2Proof.Machine.execBar4Write p off bs s
  | .registerWrite p bar off n v => Sys2Proof.Machine.execRegisterWrite p bar off n v s
  | .msixUnmask p vec => Sys2Proof.Machine.execMsixUnmask p vec s
  | .hostReadFail w => Sys2Proof.Machine.execHostReadFail w s
  | .ideIntegrityFail st => Sys2Proof.Machine.execIdeIntegrityFail st s
  | .ideKm st key => Sys2Proof.Machine.execIdeKm st key s
  | .mctpControlMessage ty body => Sys2Proof.Machine.execMctpControlMessage ty body s
  | .getSensorReading id => Sys2Proof.Machine.execGetSensorReading id s
  | .setEventReceiver eid => Sys2Proof.Machine.execSetEventReceiver eid s
  | .setStateEffecterStates id st => Sys2Proof.Machine.execSetStateEffecterStates id st s
  | .getFruRecord => Sys2Proof.Machine.execGetFruRecord s
  | .passComponentUpdate image => Sys2Proof.Machine.execPassComponentUpdate image s
  | .verifyComplete => Sys2Proof.Machine.execVerifyComplete s
  | .activateFirmware selfContained => Sys2Proof.Machine.execActivateFirmware selfContained s
  | .getVersion peer => Sys2Proof.Machine.execGetVersion peer s
  | .getCertificate slot off len => Sys2Proof.Machine.execGetCertificate slot off len s
  | .challenge slot nonce => Sys2Proof.Machine.execChallenge slot nonce s
  | .getMeasurements index nonce => Sys2Proof.Machine.execGetMeasurements index nonce s
  | .keyExchange slot pub => Sys2Proof.Machine.execKeyExchange slot pub s
  | .coreEnterRetain k n => Sys2Proof.Machine.execCoreEnterRetain k n s
  | .coreEnterOff k n => Sys2Proof.Machine.execCoreEnterOff k n s
  | .coreWake k n => Sys2Proof.Machine.execCoreWake k n s
  | .standbyEntryDone => Sys2Proof.Machine.execStandbyEntryDone s
  | .sleepEntry => Sys2Proof.Machine.execSleepEntry s
  | .sleepPowerDown => Sys2Proof.Machine.execSleepPowerDown s
  | .wakeAssert acted ticks => Sys2Proof.Machine.execWakeAssert acted ticks s
  | .sleepExitDone b => Sys2Proof.Machine.execSleepExitDone b s
  | .guardTrip => Sys2Proof.Machine.execGuardTrip s
  | .supplyDroop => Sys2Proof.Machine.execSupplyDroop s
  | .guardReclose => Sys2Proof.Machine.execGuardReclose s
  | .inputLowRelease => Sys2Proof.Machine.execInputLowRelease s
  | .powerOn b => Sys2Proof.Machine.execPowerOn b s
  | .startupReady => Sys2Proof.Machine.execStartupReady s
  | .rstAssert acted ticks b => Sys2Proof.Machine.execRstAssert acted ticks b s
  | .pwrResetWrite p n v => Sys2Proof.Machine.execPwrResetWrite p n v s
  | .coldResetStart b => Sys2Proof.Machine.execColdResetStart b s
  | .pprsntMake b => Sys2Proof.Machine.execPprsntMake b s
  | .pprsntBreak => Sys2Proof.Machine.execPprsntBreak s
  | .thermalStop => Sys2Proof.Machine.execThermalStop s
  | .thermalSwitchOpen => Sys2Proof.Machine.execThermalSwitchOpen s
  | .cblPrsChange k fitted => Sys2Proof.Machine.execCblPrsChange k fitted s
  | .unlistedEntryType q => Sys2Proof.Machine.execUnlistedEntryType q s
  | .twinReplayNotice => Sys2Proof.Machine.execTwinReplayNotice s
  | .configurationRequest p r => Sys2Proof.Machine.execConfigurationRequest p r s
  | .dynamicAddressAssignment addr => Sys2Proof.Machine.execDynamicAddressAssignment addr s

end Sys2Proof.Machine
end

