-- ==== Sys2Proof/WellFormed.lean ====
section
/-!
DEFINITION. Well-formed commands: every unit a command names exists, and a received item has its size.
-/

namespace Sys2Proof

/-- The kinds of things that commands name by number. -/
inductive Named where
  | core | context | mailbox | partition | die | channel | port | fox | prim | iris | queuePair | window | block | flashGroup | logical
  | table | flashDie | map | flashChannel | connector | forward | collQueue | semaphore | barrier | region | stream | vector
  deriving DecidableEq, Repr

/-- How many of a kind there are. -/
def Named.count (k : Named) : Nat :=
  match k with
  | .core => 128 -- logical cores (R14)
  | .context => 4 -- thread contexts of a core (R36)
  | .mailbox => 16 -- mailboxes (R256)
  | .partition => 16 -- partitions and functions (R281, R402)
  | .die => 2 -- compute dies
  | .channel => 256 -- DRAM channels of a die (R199)
  | .port => 26 -- fabric and twin ports (R311)
  | .fox => 32 -- Foxglove units (R14)
  | .prim => 4 -- Primrose engines (R188)
  | .iris => 8 -- Iris cores: encode 0 to 3, decode 4 to 7 (R387)
  | .queuePair => 262144 -- queue pairs (R281)
  | .window => 16 -- weight windows (R222)
  | .block => 847872 -- flash blocks (R232)
  | .flashGroup => 16 -- stripe groups (R233)
  | .logical => 1600 -- logical blocks of a die (R232)
  | .table => 512 -- program records and code tables with a bank bit (R176)
  | .flashDie => 512 -- flash dies (R232)
  | .map => 65536 -- page maps (R154)
  | .flashChannel => 64 -- flash channels (R428)
  | .connector => 7 -- cable connectors (R449)
  | .forward => 8 -- forwarding channels (R336)
  | .collQueue => 4 -- collective queues (R327)
  | .semaphore => 4096 -- semaphores of a die (R62)
  | .barrier => 256 -- barriers of a partition on a die (R323)
  | .region => 1024 -- region indices (R211)
  | .stream => 9 -- IDE streams (R415)
  | .vector => 2048 -- MSI-X vectors (R413)

/-- An engine by its number. -/
def EngineKind.named (k : EngineKind) (n : Nat) : Named × Nat :=
  match k with
  | .core => (.core, n)
  | .fox => (.fox, n)
  | .prim => (.prim, n)

/-- A unit by its number; a hub block has none. -/
def UnitKind.named (k : UnitKind) (n : Nat) : List (Named × Nat) :=
  match k with
  | .core => [(.core, n)]
  | .fox => [(.fox, n)]
  | .prim => [(.prim, n)]
  | .irisEnc => [(.iris, n)]
  | .irisDec => [(.iris, n + 4)]
  | .hub => []

/-- What a failed read of host memory names. -/
def HostRead.named (w : HostRead) : List (Named × Nat) :=
  match w with
  | .mailboxRing m => [(.mailbox, m)]
  | .queueRing q => [(.queuePair, q)]
  | .command m _ => [(.mailbox, m)]
  | .copy q _ => [(.queuePair, q)]

/-- The units a command names. -/
def Instr.names (i : Instr) : List (Named × Nat) :=
  match i with
  | .bundleIssue c => [(.core, c)]
  | .icacheLineFill c x => [(.core, c), (.context, x)]
  | .add c x _ _ => [(.core, c), (.context, x)]
  | .sub c x _ _ => [(.core, c), (.context, x)]
  | .and c x _ _ => [(.core, c), (.context, x)]
  | .or c x _ _ => [(.core, c), (.context, x)]
  | .xor c x _ _ => [(.core, c), (.context, x)]
  | .shl c x _ _ => [(.core, c), (.context, x)]
  | .shr c x _ _ => [(.core, c), (.context, x)]
  | .sra c x _ _ => [(.core, c), (.context, x)]
  | .min c x _ _ => [(.core, c), (.context, x)]
  | .max c x _ _ => [(.core, c), (.context, x)]
  | .minu c x _ _ => [(.core, c), (.context, x)]
  | .maxu c x _ _ => [(.core, c), (.context, x)]
  | .mul c x _ _ => [(.core, c), (.context, x)]
  | .mulh c x _ _ => [(.core, c), (.context, x)]
  | .mulhu c x _ _ => [(.core, c), (.context, x)]
  | .div c x _ _ => [(.core, c), (.context, x)]
  | .divu c x _ _ => [(.core, c), (.context, x)]
  | .rem c x _ _ => [(.core, c), (.context, x)]
  | .remu c x _ _ => [(.core, c), (.context, x)]
  | .cmpEq c x _ _ => [(.core, c), (.context, x)]
  | .cmpNe c x _ _ => [(.core, c), (.context, x)]
  | .cmpLt c x _ _ => [(.core, c), (.context, x)]
  | .cmpLtu c x _ _ => [(.core, c), (.context, x)]
  | .cmpGe c x _ _ => [(.core, c), (.context, x)]
  | .cmpGeu c x _ _ => [(.core, c), (.context, x)]
  | .adda c x _ _ => [(.core, c), (.context, x)]
  | .mova c x _ _ => [(.core, c), (.context, x)]
  | .movs c x _ _ => [(.core, c), (.context, x)]
  | .rdsr c x _ _ => [(.core, c), (.context, x)]
  | .ld8 c x _ _ => [(.core, c), (.context, x)]
  | .ld16 c x _ _ => [(.core, c), (.context, x)]
  | .ld32 c x _ _ => [(.core, c), (.context, x)]
  | .ld64 c x _ _ => [(.core, c), (.context, x)]
  | .st8 c x _ _ => [(.core, c), (.context, x)]
  | .st16 c x _ _ => [(.core, c), (.context, x)]
  | .st32 c x _ _ => [(.core, c), (.context, x)]
  | .st64 c x _ _ => [(.core, c), (.context, x)]
  | .br c x _ _ => [(.core, c), (.context, x)]
  | .brz c x _ _ => [(.core, c), (.context, x)]
  | .brnz c x _ _ => [(.core, c), (.context, x)]
  | .brdec c x _ _ => [(.core, c), (.context, x)]
  | .call c x _ _ => [(.core, c), (.context, x)]
  | .jr c x _ _ => [(.core, c), (.context, x)]
  | .endOp c x _ _ => [(.core, c), (.context, x)]
  | .tileThreadStart c x _ => [(.core, c), (.context, x)]
  | .tld c x _ _ => [(.core, c), (.context, x)]
  | .tldz c x _ _ => [(.core, c), (.context, x)]
  | .tcpy c x _ _ => [(.core, c), (.context, x)]
  | .tst c x _ _ => [(.core, c), (.context, x)]
  | .tstAddf c x _ _ => [(.core, c), (.context, x)]
  | .tstAddi c x _ _ => [(.core, c), (.context, x)]
  | .moverOpComplete c _ _ => [(.core, c)]
  | .mmul c x _ _ => [(.core, c), (.context, x)]
  | .mmulChunkDone c => [(.core, c)]
  | .mdrain c x _ _ => [(.core, c), (.context, x)]
  | .drainStart c => [(.core, c)]
  | .drainRerun c => [(.core, c)]
  | .drainWritten c => [(.core, c)]
  | .mfree c x _ _ => [(.core, c), (.context, x)]
  | .lrun c x _ _ => [(.core, c), (.context, x)]
  | .lrunExpandStart c => [(.core, c)]
  | .lupinIteration c => [(.core, c)]
  | .lrunComplete c => [(.core, c)]
  | .vadd c x _ _ => [(.core, c), (.context, x)]
  | .vsub c x _ _ => [(.core, c), (.context, x)]
  | .vmul c x _ _ => [(.core, c), (.context, x)]
  | .vmin c x _ _ => [(.core, c), (.context, x)]
  | .vmax c x _ _ => [(.core, c), (.context, x)]
  | .vfma c x _ _ => [(.core, c), (.context, x)]
  | .vabs c x _ _ => [(.core, c), (.context, x)]
  | .vneg c x _ _ => [(.core, c), (.context, x)]
  | .vand c x _ _ => [(.core, c), (.context, x)]
  | .vor c x _ _ => [(.core, c), (.context, x)]
  | .vxor c x _ _ => [(.core, c), (.context, x)]
  | .vshl c x _ _ => [(.core, c), (.context, x)]
  | .vshr c x _ _ => [(.core, c), (.context, x)]
  | .vsra c x _ _ => [(.core, c), (.context, x)]
  | .vcmpEq c x _ _ => [(.core, c), (.context, x)]
  | .vcmpNe c x _ _ => [(.core, c), (.context, x)]
  | .vcmpLt c x _ _ => [(.core, c), (.context, x)]
  | .vcmpLe c x _ _ => [(.core, c), (.context, x)]
  | .vsel c x _ _ => [(.core, c), (.context, x)]
  | .vcvt c x _ _ => [(.core, c), (.context, x)]
  | .vperm c x _ _ => [(.core, c), (.context, x)]
  | .vbcast c x _ _ => [(.core, c), (.context, x)]
  | .vredAdd c x _ _ => [(.core, c), (.context, x)]
  | .vredMax c x _ _ => [(.core, c), (.context, x)]
  | .vredMin c x _ _ => [(.core, c), (.context, x)]
  | .vld c x _ _ => [(.core, c), (.context, x)]
  | .vst c x _ _ => [(.core, c), (.context, x)]
  | .rng c x _ _ => [(.core, c), (.context, x)]
  | .vidx c x _ _ => [(.core, c), (.context, x)]
  | .sfu c x _ _ => [(.core, c), (.context, x)]
  | .sfuGate c x _ _ => [(.core, c), (.context, x)]
  | .tblCommit c x _ _ => [(.core, c), (.context, x)]
  | .tblCheckDone c t => [(.core, c), (.table, t)]
  | .tableSwitch c t => [(.core, c), (.table, t)]
  | .fence c x _ _ => [(.core, c), (.context, x)]
  | .fenceSatisfied c x => [(.core, c), (.context, x)]
  | .mwait c x _ _ => [(.core, c), (.context, x)]
  | .mwaitSatisfied c x => [(.core, c), (.context, x)]
  | .semSig c x _ _ => [(.core, c), (.context, x)]
  | .semSigApply _ => []
  | .semWait c x _ _ => [(.core, c), (.context, x)]
  | .semWaitSatisfied c x => [(.core, c), (.context, x)]
  | .semTake c x _ _ => [(.core, c), (.context, x)]
  | .semTakeServed die ix => [(.die, die), (.semaphore, ix)]
  | .semRd c x _ _ => [(.core, c), (.context, x)]
  | .claim c x _ _ => [(.core, c), (.context, x)]
  | .fbar c x _ _ => [(.core, c), (.context, x)]
  | .barrierOpen p ix _ => [(.partition, p), (.barrier, ix)]
  | .launchComplete _ => []
  | .foxItemStart u => [(.fox, u)]
  | .mapEpochPin u => [(.fox, u)]
  | .foxLabFill u _ => [(.fox, u)]
  | .foxBlockCompute u => [(.fox, u)]
  | .foxItemComplete u => [(.fox, u)]
  | .mapEditBatch m => [(.map, m)]
  | .primJobStart e => [(.prim, e)]
  | .primJobComplete e => [(.prim, e)]
  | .engineDispatch k n => [k.named n]
  | .hotWindowEnd die ch _ _ _ => [(.die, die), (.channel, ch)]
  | .dramRowSpare die ch _ => [(.die, die), (.channel, ch)]
  | .dramPatrolScrub die _ => [(.die, die)]
  | .dramRefresh die ch => [(.die, die), (.channel, ch)]
  | .dramChannelPowerDown die ch => [(.die, die), (.channel, ch)]
  | .regionDrainDone p ix => [(.partition, p), (.region, ix)]
  | .wwPositionRead w => [(.window, w)]
  | .wwLayerReady w => [(.window, w)]
  | .wwRungReady w => [(.window, w)]
  | .flashDecodeResult _ _ => []
  | .flashRelocate blk dst => [(.block, blk), (.block, dst)]
  | .programFailure blk => [(.block, blk)]
  | .eraseFailure blk => [(.block, blk)]
  | .dieFailed d => [(.flashDie, d)]
  | .dieRebuild d _ => [(.flashDie, d)]
  | .readCountCheck blk _ _ => [(.block, blk)]
  | .retentionScrub blk _ _ => [(.block, blk)]
  | .staticWearLevel g q => [(.flashGroup, g), (.logical, q)]
  | .garbageCollection g q => [(.flashGroup, g), (.logical, q)]
  | .flashChannelPowerDown ch => [(.flashChannel, ch)]
  | .wearGovernorTick => []
  | .mbxCtrlWrite m _ => [(.mailbox, m)]
  | .mbxCmdTailWrite m _ => [(.mailbox, m)]
  | .mbxCmpHeadWrite m _ => [(.mailbox, m)]
  | .mailboxTurn => []
  | .bgCommandFinish m _ _ => [(.mailbox, m)]
  | .completionPost m => [(.mailbox, m)]
  | .cpWatchdogExpire => []
  | .cpSramUncorrectable => []
  | .cpRestartDone => []
  | .openSession m _ _ _ _ _ _ _ => [(.mailbox, m)]
  | .closeSession m _ => [(.mailbox, m)]
  | .fenceCommand m _ => [(.mailbox, m)]
  | .abort m _ _ => [(.mailbox, m)]
  | .getInfo m _ _ => [(.mailbox, m)]
  | .nop m _ => [(.mailbox, m)]
  | .regionCreate m _ _ _ _ _ => [(.mailbox, m)]
  | .regionRemove m _ _ => [(.mailbox, m)]
  | .regionPerm m _ _ _ => [(.mailbox, m)]
  | .regionQuery m _ _ => [(.mailbox, m)]
  | .regionGrant m _ _ _ _ _ => [(.mailbox, m)]
  | .imgLoad m _ _ _ _ => [(.mailbox, m)]
  | .imgUnload m _ _ => [(.mailbox, m)]
  | .imgQuery m _ _ _ => [(.mailbox, m)]
  | .tblLoad m _ _ _ => [(.mailbox, m)]
  | .partCreate m _ _ _ => [(.mailbox, m)]
  | .partDestroy m _ _ => [(.mailbox, m)]
  | .partAssign m _ _ _ => [(.mailbox, m)]
  | .partConfig m _ _ _ => [(.mailbox, m)]
  | .qpCreate m _ _ _ => [(.mailbox, m)]
  | .qpDestroy m _ _ => [(.mailbox, m)]
  | .qpQuery m _ _ _ => [(.mailbox, m)]
  | .seqQuery m _ _ _ => [(.mailbox, m)]
  | .seqRemove m _ _ => [(.mailbox, m)]
  | .seqHold m _ _ _ => [(.mailbox, m)]
  | .poolCreate m _ _ => [(.mailbox, m)]
  | .poolDestroy m _ _ => [(.mailbox, m)]
  | .pageAlloc m _ _ _ _ => [(.mailbox, m)]
  | .pageFree m _ _ _ _ => [(.mailbox, m)]
  | .pmapCreate m _ => [(.mailbox, m)]
  | .pmapDestroy m _ _ => [(.mailbox, m)]
  | .pmapSetStream m _ _ _ _ _ _ _ => [(.mailbox, m)]
  | .pmapSetLeaf m _ _ _ _ _ _ => [(.mailbox, m)]
  | .pmapClear m _ _ _ _ _ => [(.mailbox, m)]
  | .pmapQuery m _ _ => [(.mailbox, m)]
  | .flashLayout m _ _ => [(.mailbox, m)]
  | .flashQuery m _ _ => [(.mailbox, m)]
  | .tobjCreate m _ _ => [(.mailbox, m)]
  | .tobjLoad m _ _ _ _ _ => [(.mailbox, m)]
  | .tobjFlush m _ _ => [(.mailbox, m)]
  | .tobjEvict m _ _ => [(.mailbox, m)]
  | .tobjDestroy m _ _ => [(.mailbox, m)]
  | .tobjQuery m _ _ => [(.mailbox, m)]
  | .wpkgOpen m _ _ => [(.mailbox, m)]
  | .wpkgWrite m _ _ _ _ _ => [(.mailbox, m)]
  | .wpkgCommit m _ _ => [(.mailbox, m)]
  | .wpkgDelete m _ _ => [(.mailbox, m)]
  | .wpkgGrant m _ _ _ _ => [(.mailbox, m)]
  | .wwinStart m _ _ _ => [(.mailbox, m)]
  | .wwinStop m _ _ => [(.mailbox, m)]
  | .wwinQuery m _ _ _ => [(.mailbox, m)]
  | .snapSet m _ _ => [(.mailbox, m)]
  | .snapTake m _ => [(.mailbox, m)]
  | .snapList m _ _ _ => [(.mailbox, m)]
  | .snapRestore m _ _ => [(.mailbox, m)]
  | .snapDelete m _ _ => [(.mailbox, m)]
  | .snapExport m _ _ _ _ => [(.mailbox, m)]
  | .snapImport m _ _ _ => [(.mailbox, m)]
  | .domConfig m _ _ => [(.mailbox, m)]
  | .domLeave m _ => [(.mailbox, m)]
  | .linkQuery m _ _ _ => [(.mailbox, m)]
  | .twinConfig m _ _ => [(.mailbox, m)]
  | .ftimeQuery m _ => [(.mailbox, m)]
  | .irsOpen m _ _ => [(.mailbox, m)]
  | .irsClose m _ _ => [(.mailbox, m)]
  | .irsQuery m _ _ _ => [(.mailbox, m)]
  | .pwrTimeout m _ _ => [(.mailbox, m)]
  | .pwrModule m _ _ => [(.mailbox, m)]
  | .telSubscribe m _ _ => [(.mailbox, m)]
  | .telRead m _ _ => [(.mailbox, m)]
  | .secKeySet m _ _ _ => [(.mailbox, m)]
  | .secSecure m _ _ _ => [(.mailbox, m)]
  | .secAttest m _ _ _ => [(.mailbox, m)]
  | .diagLog m _ _ _ => [(.mailbox, m)]
  | .diagSelftest m _ _ => [(.mailbox, m)]
  | .diagInject m _ _ => [(.mailbox, m)]
  | .qeDoorbellWrite p _ => [(.partition, p)]
  | .launch q => [(.queuePair, q)]
  | .launchStart _ => []
  | .copy q => [(.queuePair, q)]
  | .copyDone q _ => [(.queuePair, q)]
  | .addSeq q => [(.queuePair, q)]
  | .step q => [(.queuePair, q)]
  | .fenceEntry q => [(.queuePair, q)]
  | .fenceEntryComplete q => [(.queuePair, q)]
  | .qpCompletionPost q => [(.queuePair, q)]
  | .preempt c _ => [(.core, c)]
  | .preemptSaveDone c => [(.core, c)]
  | .preemptRestore c => [(.core, c)]
  | .regulatorRefill => []
  | .semHoldRevoke die ix => [(.die, die), (.semaphore, ix)]
  | .stepTick p => [(.partition, p)]
  | .stepBoundary p => [(.partition, p)]
  | .stepBarrierOpen p _ _ _ => [(.partition, p)]
  | .flitReceive port _ => [(.port, port)]
  | .flitReplayTimeout port => [(.port, port)]
  | .ackTimer port => [(.port, port)]
  | .portRetrain port _ _ => [(.port, port)]
  | .portTrainingDone port _ => [(.port, port)]
  | .syncFlit port _ => [(.port, port)]
  | .fabBarCfgWrite p die b _ => [(.partition, p), (.die, die), (.barrier, b)]
  | .fabCqCfgWrite p die q _ => [(.partition, p), (.die, die), (.collQueue, q)]
  | .collectiveStart p die q => [(.partition, p), (.die, die), (.collQueue, q)]
  | .chunkReceive p die q _ => [(.partition, p), (.die, die), (.collQueue, q)]
  | .collAbortReceive p die q _ => [(.partition, p), (.die, die), (.collQueue, q)]
  | .collectiveComplete p die q => [(.partition, p), (.die, die), (.collQueue, q)]
  | .forwardDrain k => [(.forward, k)]
  | .twinHeartbeat => []
  | .twinHeartbeatTimeout => []
  | .twinWaitTimeout p => [(.partition, p)]
  | .admissionCountReceive p _ => [(.partition, p)]
  | .stepDigestExchange p _ _ _ _ _ => [(.partition, p)]
  | .replayNotice p _ => [(.partition, p)]
  | .auditRunStart _ _ => []
  | .auditRunComplete _ _ _ _ _ => []
  | .stepReplay p => [(.partition, p)]
  | .tileReplay _ _ _ => []
  | .poisonReport p _ => [(.partition, p)]
  | .weightRefetchTwin w _ => [(.window, w)]
  | .sramUncorrectable k n => k.named n
  | .sramCorrected k n => k.named n
  | .coreWatchdogExpire c => [(.core, c)]
  | .primJobWatchdog e => [(.prim, e)]
  | .unitCheckFailure k n => k.named n
  | .quarantine k n => k.named n
  | .moduleFailure => []
  | .riskUpdate _ _ _ => []
  | .riskDecay => []
  | .shadowCopyBlock p => [(.partition, p)]
  | .flashSnapshotWrite p => [(.partition, p)]
  | .irisDescriptorStart k => [(.iris, k)]
  | .irisRowDone k => [(.iris, k)]
  | .irisSliceEmit k => [(.iris, k)]
  | .irisPictureDone k => [(.iris, k)]
  | .irisPictureRepeat k => [(.iris, k)]
  | .flr p => [(.partition, p)]
  | .perstAssert => []
  | .perstDeassert => []
  | .pcieLinkDown => []
  | .pcieLinkUp => []
  | .bar4Read p _ _ => [(.partition, p)]
  | .bar4Write p _ _ => [(.partition, p)]
  | .registerWrite p _ _ _ _ => [(.partition, p)]
  | .msixUnmask p vec => [(.partition, p), (.vector, vec)]
  | .hostReadFail w => w.named
  | .ideIntegrityFail st => [(.stream, st)]
  | .ideKm st _ => [(.stream, st)]
  | .mctpControlMessage _ _ => []
  | .getSensorReading _ => []
  | .setEventReceiver _ => []
  | .setStateEffecterStates _ _ => []
  | .getFruRecord => []
  | .passComponentUpdate _ => []
  | .verifyComplete => []
  | .activateFirmware _ => []
  | .getVersion _ => []
  | .getCertificate _ _ _ => []
  | .challenge _ _ => []
  | .getMeasurements _ _ => []
  | .keyExchange _ _ => []
  | .coreEnterRetain k n => [k.named n]
  | .coreEnterOff k n => [k.named n]
  | .coreWake k n => [k.named n]
  | .standbyEntryDone => []
  | .sleepEntry => []
  | .sleepPowerDown => []
  | .wakeAssert _ _ => []
  | .sleepExitDone _ => []
  | .guardTrip => []
  | .supplyDroop => []
  | .guardReclose => []
  | .inputLowRelease => []
  | .powerOn _ => []
  | .startupReady => []
  | .rstAssert _ _ _ => []
  | .pwrResetWrite p _ _ => [(.partition, p)]
  | .coldResetStart _ => []
  | .pprsntMake _ => []
  | .pprsntBreak => []
  | .thermalStop => []
  | .thermalSwitchOpen => []
  | .cblPrsChange k _ => [(.connector, k)]
  | .unlistedEntryType q => [(.queuePair, q)]
  | .twinReplayNotice => []
  | .configurationRequest p _ => [(.partition, p)]
  | .dynamicAddressAssignment _ => []

/-- A received flit has 272 bytes (R312), an access of register space 1 to 8 bytes. -/
def Instr.sized (i : Instr) : Bool :=
  match i with
  | .flitReceive _ f => f.bytes.length == 272
  | .registerWrite _ _ _ n _ => decide (1 ≤ n ∧ n ≤ 8)
  | .pwrResetWrite _ n _ => decide (1 ≤ n ∧ n ≤ 8)
  | _ => true

/-- A well-formed command. -/
def Instr.wf (i : Instr) : Bool := i.names.all (fun p => decide (p.2 < p.1.count)) && i.sized

end Sys2Proof
end

