-- ==== Sys2Proof/Safety.lean ====
section
/-!
DEFINITION. What counts as a safe run of the block: every command is answered with a next state, and device memory keeps its
canonical form.
-/

namespace Sys2Proof.Machine

/-- Runs of the block. -/
inductive Reaches : State → State → Prop where
  | refl (s : State) : Reaches s s
  | step {s t u : State} : Reaches s t → Machine.step t = .next u → Reaches s u

/-- A state from which the block goes on, with device memory in canonical form. -/
def Safe (s : State) : Prop := Memory.wf s.mem ∧ ∃ t, step s = .next t

/-- Every command that waits is well formed. -/
def State.queueOk (s : State) : Prop := ∀ i ∈ s.pending, i.wf = true

/-! ### When the bundle of one slot issues and executes (R33, R34, R40) -/

/-- The one-slot bundle of an operation issues on context `x` of core `c` and raises neither ILLEGAL_BUNDLE nor the VAR fault:
the context runs and waits for nothing, the operation's resources are free, the bundle is legal. -/
structure Issues (s : State) (c x : Nat) (h : SlotHdr) (op : SlotOp) : Prop where
  runs : s.canRun c x = true
  ready : s.bundleReady c x (oneBundle h op) = true
  legal : (oneBundle h op).illegal = none
  var : h.var = true → s.varFault c x = false

/-- The slot's predicate lets it execute: q[0] = 1 (R33). -/
abbrev Executes (s : State) (c x : Nat) (h : SlotHdr) : Prop := ((s.ctx c x).q h).getLsbD 0 = true

/-- The bundle has issued and its only effect is on its context's registers: `f`, and the next bundle follows. -/
def State.stepped (s : State) (c x : Nat) (h : SlotHdr) (f : Ctx → Ctx) : State :=
  ((s.noteIssue c x h.hint.toNat).updCtx c x f).updCtx c x (fun k => { k with pc := (s.ctx c x).pc + 128 })

/-! ### When a mailbox command is accepted and starts at once (R263, R264, R267, R271) -/

/-- The journal's record of a command when it has started (R266, R274). -/
def State.newCmd (s : State) (m : Nat) (h : CmdHdr) (code : Nat) (ps : List W64) : Cmd :=
  let c : Cmd :=
    { m := m, slot := h.slot.toNat, code := code, wait := h.wait, irq := h.irq, tag := h.tag.toNat, ps := ps, sess := (s.mbx m).session,
      started := true, bg := false, committed := false, late := false, replayed := false, discard := false, watch := [], r0 := 0, r1 := 0, data := [] }
  { c with committed := !lateCommit c }

/-- The state in which a command that starts finds the block: it stands in the journal, and HEAD has passed its entry. -/
def State.begun (s : State) (m : Nat) (h : CmdHdr) (code : Nat) (ps : List W64) : State :=
  State.passHead { s with journal := s.journal ++ [s.newCmd m h code ps] } m h.slot.toNat

/-- The command is accepted and starts at once: the mailbox takes entries and has none outstanding in the journal, the tag is free,
the command exists with that many parameters, a session is open or it opens one, the feature and the mailbox admit it, no
background command works on its objects, and the flash regulator of the partition admits a load (R295). -/
structure Takes (s : State) (m : Nat) (h : CmdHdr) (code : Nat) (ps : List W64) : Prop where
  accepts : s.canAccept m = true
  alone : ∀ c ∈ s.journal, c.m ≠ m
  fresh : s.tagUsed m h.tag.toNat = false
  tag : h.tag.toNat ≠ 0xFFFFFFFF
  row : ∃ r, cmdRow code = some r ∧ ps.length = r.params ∧ (r.admin = true → m = 0)
  session : (s.mbx m).session.isSome = true ∨ code = 1
  plain : h.wait = false
  feature : ∀ n, cmdFeature code = some n → (s.mbx m).feat n = true
  notBusy : s.busyWith (s.newCmd m h code ps) = false
  ready : code = 0x0602 → s.regOpen m 1 = true

/-- Only a patch table that passed R272 is in force or is to be (R418). -/
structure PatchOk (s : State) : Prop where
  /-- With no table in force the level reads 0. -/
  absent : s.patch.2 = false → s.patch.1 = 0
  /-- A table in force has a level not below PATCH_FLOOR. -/
  floor : s.patch.2 = true → Config.patchFloor ≤ s.patch.1
  /-- So has the table that the next control-processor reset puts in force. -/
  next : ∀ n, s.nextPatch = some n → n.2 = true ∧ Config.patchFloor ≤ n.1
  /-- An update that passed verification is signed and has such a level. -/
  update : ∀ c, s.board.update = some c → c.ok = true → Config.patchSigned c.bytes = true ∧ Config.patchFloor ≤ c.level

end Sys2Proof.Machine
end

