-- ==== Sys2Proof/Certificates/Slice0/Obligations.lean ====
section
/-!
DEFINITION. The statements for the provers. Helpers stand in the model's namespace; the statements are `Obligations.<Name>`.
-/

open Sys2Proof Sys2Proof.Machine

/-! ### The step (log 1) -/

/-- The model's queue (log 1): a step takes the command at the front and runs it with the rest of the queue; with nothing
waiting, one core cycle passes. -/
def Obligations.StepTakesFront : Prop :=
  (∀ (i : Instr) (rest : List Instr) (s : State), s.pending = i :: rest → step s = exec i { s with pending := rest }) ∧
  (∀ s : State, s.pending = [] → ∃ t, step s = .next t ∧ t.time = s.time + 5)

/-- The model's queue and clock (log 1): no command touches the queue behind it, and no step turns the clock back. -/
def Obligations.QueueAndClock : Prop :=
  ∀ s t : State, step s = .next t → t.pending = s.pending.tail ∧ s.time ≤ t.time

/-- Every step keeps the canonical form of device memory (log 3): equal memories are equal data. -/
def Obligations.MemoryKept : Prop :=
  ∀ s t : State, Memory.wf s.mem → step s = .next t → Memory.wf t.mem

/-- R272 and R418 over every step: a patch table in force, or to be put in force, has a level not below PATCH_FLOOR. -/
def Obligations.PatchFloorKept : Prop :=
  ∀ s t : State, PatchOk s → step s = .next t → PatchOk t

/-- The state after reset has no patch table in force (log 5) and meets the invariant; its memory is canonical. -/
def Obligations.ResetOk : Prop :=
  PatchOk State.reset ∧ Memory.wf State.reset.mem ∧ State.reset.pending = [] ∧ State.reset.queueOk

/-! ### Scalar slots (R33, R42 to R45) -/

namespace Sys2Proof.Machine

/-- Signed value as 64 bits. -/
abbrev ofZ (z : Int) : W64 := BitVec.ofInt 64 z
/-- Natural value as 64 bits. -/
abbrev ofN (n : Nat) : W64 := BitVec.ofNat 64 n

/-- The arithmetic operations of R43: constructor, operation, and the value of sD from the values of the sources. -/
def aluRows : List ((Nat → Nat → SlotHdr → ScalarF → Instr) × ScalarOp × (W64 → W64 → W64)) :=
  [(Instr.add, ScalarOp.add, fun (a b : W64) => ofN (a.toNat + b.toNat)), (Instr.sub, ScalarOp.sub, fun (a b : W64) => ofZ (a.toInt - b.toInt)),
   (Instr.and, ScalarOp.and, fun (a b : W64) => a &&& b), (Instr.or, ScalarOp.or, fun (a b : W64) => a ||| b), (Instr.xor, ScalarOp.xor, fun (a b : W64) => a ^^^ b),
   (Instr.shl, ScalarOp.shl, fun (a b : W64) => ofN (a.toNat * 2 ^ (b.toNat % 64))), (Instr.shr, ScalarOp.shr, fun (a b : W64) => ofN (a.toNat / 2 ^ (b.toNat % 64))),
   (Instr.sra, ScalarOp.sra, fun (a b : W64) => ofZ (a.toInt / 2 ^ (b.toNat % 64))),
   (Instr.min, ScalarOp.min, fun (a b : W64) => if a.toInt < b.toInt then a else b), (Instr.max, ScalarOp.max, fun (a b : W64) => if a.toInt < b.toInt then b else a),
   (Instr.minu, ScalarOp.minu, fun (a b : W64) => if a.toNat < b.toNat then a else b), (Instr.maxu, ScalarOp.maxu, fun (a b : W64) => if a.toNat < b.toNat then b else a)] ++
  [(Instr.mul, ScalarOp.mul, fun (a b : W64) => ofN (a.toNat * b.toNat)), (Instr.mulh, ScalarOp.mulh, fun (a b : W64) => ofZ (a.toInt * b.toInt / 2 ^ 64)),
   (Instr.mulhu, ScalarOp.mulhu, fun (a b : W64) => ofN (a.toNat * b.toNat / 2 ^ 64)),
   (Instr.div, ScalarOp.div, fun (a b : W64) => if b = 0 then 0xFFFFFFFFFFFFFFFF else ofZ (a.toInt.tdiv b.toInt)),
   (Instr.divu, ScalarOp.divu, fun (a b : W64) => if b = 0 then 0xFFFFFFFFFFFFFFFF else ofN (a.toNat / b.toNat)),
   (Instr.rem, ScalarOp.rem, fun (a b : W64) => if b = 0 then a else ofZ (a.toInt.tmod b.toInt)),
   (Instr.remu, ScalarOp.remu, fun (a b : W64) => if b = 0 then a else ofN (a.toNat % b.toNat))]

/-- The comparisons of R43. -/
def cmpRows : List ((Nat → Nat → SlotHdr → ScalarF → Instr) × ScalarOp × (W64 → W64 → Bool)) :=
  [(Instr.cmpEq, ScalarOp.cmpEq, fun (a b : W64) => decide (a = b)), (Instr.cmpNe, ScalarOp.cmpNe, fun (a b : W64) => decide (a ≠ b)),
   (Instr.cmpLt, ScalarOp.cmpLt, fun (a b : W64) => decide (a.toInt < b.toInt)), (Instr.cmpLtu, ScalarOp.cmpLtu, fun (a b : W64) => decide (a.toNat < b.toNat)),
   (Instr.cmpGe, ScalarOp.cmpGe, fun (a b : W64) => decide (b.toInt ≤ a.toInt)), (Instr.cmpGeu, ScalarOp.cmpGeu, fun (a b : W64) => decide (b.toNat ≤ a.toNat))]

end Sys2Proof.Machine

/-- R43, R33, R36: an arithmetic operation that executes writes sD (nothing where D is 0) and nothing else but the pc; a comparison
writes pD with all ones if it is true, else with all zeros (nothing where D is 0). -/
def Obligations.ScalarArithmetic : Prop :=
  (∀ r ∈ aluRows, ∀ (c x : Nat) (h : SlotHdr) (f : ScalarF) (s : State), Issues s c x h (.scalar r.2.1 f) → Executes s c x h →
    exec (r.1 c x h f) s = .next (s.stepped c x h (fun k =>
      let v := r.2.2 (k.getS f.rs1.toNat) (if f.imm then f.immv.signExtend 64 else k.getS f.rs2.toNat)
      if f.rd = 0 then k else k.setS f.rd.toNat v))) ∧
  (∀ r ∈ cmpRows, ∀ (c x : Nat) (h : SlotHdr) (f : ScalarF) (s : State), Issues s c x h (.scalar r.2.1 f) → Executes s c x h →
    exec (r.1 c x h f) s = .next (s.stepped c x h (fun k =>
      if f.rd = 0 then k else k.setP f.rd.toNat (if r.2.2 (k.getS f.rs1.toNat) (k.getS f.rs2.toNat) then BitVec.allOnes 256 else 0))))


/-- R43: adda, mova and movs; R39: rdsr of the core number, the context number, the tile-thread index, the partition, the
scratchpad window and fabric time. -/
def Obligations.AddressAndSpecialMoves : Prop :=
  ∀ (c x : Nat) (h : SlotHdr) (f : ScalarF) (s : State), Executes s c x h →
    (Issues s c x h (.scalar .adda f) → exec (.adda c x h f) s = .next (s.stepped c x h (fun k =>
      k.setA f.rd.toNat (BitVec.ofNat 48 ((k.getA f.rs1.toNat).toNat + (if f.imm then f.immv.signExtend 64 else k.getS f.rs2.toNat).toNat))))) ∧
    (Issues s c x h (.scalar .mova f) → exec (.mova c x h f) s = .next (s.stepped c x h (fun k =>
      k.setA f.rd.toNat (BitVec.ofNat 48 (k.getS f.rs1.toNat).toNat)))) ∧
    (Issues s c x h (.scalar .movs f) → exec (.movs c x h f) s = .next (s.stepped c x h (fun k =>
      k.setS f.rd.toNat (BitVec.ofNat 64 (k.getA f.rs1.toNat).toNat)))) ∧
    (Issues s c x h (.scalar .rdsr f) → ∀ v : Nat,
      ((f.immv.toNat % 256, v) ∈ [(0x00, c), (0x01, x), (0x02, ((s.ctx c x).tt.map (·.index)).getD 0), (0x0C, s.partOf c x),
        (0x0D, (s.ctx c x).spadBase), (0x0E, (s.ctx c x).spadSize), (0x11, s.ftime)]) →
      exec (.rdsr c x h f) s = .next (s.stepped c x h (fun k => k.setS f.rd.toNat (BitVec.ofNat 64 v))))

namespace Sys2Proof.Machine

/-- The scratchpad loads of R44 with their widths in bytes. -/
def loadRows : List ((Nat → Nat → SlotHdr → ScalarF → Instr) × ScalarOp × Nat) :=
  [(Instr.ld8, ScalarOp.ld8, 1), (Instr.ld16, ScalarOp.ld16, 2), (Instr.ld32, ScalarOp.ld32, 4), (Instr.ld64, ScalarOp.ld64, 8)]

/-- The scratchpad stores of R44 with their widths in bytes. -/
def storeRows : List ((Nat → Nat → SlotHdr → ScalarF → Instr) × ScalarOp × Nat) :=
  [(Instr.st8, ScalarOp.st8, 1), (Instr.st16, ScalarOp.st16, 2), (Instr.st32, ScalarOp.st32, 4), (Instr.st64, ScalarOp.st64, 8)]

end Sys2Proof.Machine

/-- R44: an aligned load inside the context's window reads its bytes, least significant first, zero-extended into sD, and
changes no byte of memory; the bytes are those an agent finds (R57), which with no operation under way are the stored ones. R44 and R64: a load or a store that is not aligned to its width or not wholly inside the window raises ADDRESS (code 2): it
writes nothing, and its tile-thread ends. R44: an aligned store inside the context's window stores the low bits of sS2 there, least significant byte first, and
leaves every other byte of memory and every register but the pc as it was. -/
def Obligations.ScratchpadAccess : Prop :=
  ((∀ r ∈ loadRows, ∀ (c x o : Nat) (h : SlotHdr) (f : ScalarF) (s : State), Issues s c x h (.scalar r.2.1 f) → Executes s c x h →
    ((s.ctx c x).getA f.rs1.toNat).toNat + f.immv.toInt = (o : Int) → o % r.2.2 = 0 → o + r.2.2 ≤ (s.ctx c x).spadSize →
    exec (r.1 c x h f) s = .next (s.stepped c x h (fun k =>
      k.setS f.rd.toNat (BitVec.ofNat 64 (s.seenLe (spadSlot c + k.spadBase + o) r.2.2)))) ∧
    (s.underWay = [] → s.seenLe (spadSlot c + (s.ctx c x).spadBase + o) r.2.2 = s.le (spadSlot c + (s.ctx c x).spadBase + o) r.2.2)) ∧
  (∀ r ∈ loadRows ++ storeRows, ∀ (c x : Nat) (h : SlotHdr) (f : ScalarF) (s : State), Issues s c x h (.scalar r.2.1 f) →
    Executes s c x h →
    (let o := ((s.ctx c x).getA f.rs1.toNat).toNat + f.immv.toInt
     o < 0 ∨ o % (r.2.2 : Int) ≠ 0 ∨ ((s.ctx c x).spadSize : Int) < o + r.2.2) →
    ∃ t, exec (r.1 c x h f) s = .next t ∧ t.mem = s.mem ∧ (t.ctx c x).tt = none ∧ (t.ctx c x).s = (s.ctx c x).s ∧
      ∃ e : CoreFault, e.code = 2 ∧ t = (s.noteIssue c x h.hint.toNat).preciseFault c x e)) ∧
  (∀ r ∈ storeRows, ∀ (c x o : Nat) (h : SlotHdr) (f : ScalarF) (s : State), Issues s c x h (.scalar r.2.1 f) → Executes s c x h →
    ((s.ctx c x).getA f.rs1.toNat).toNat + f.immv.toInt = (o : Int) → o % r.2.2 = 0 → o + r.2.2 ≤ (s.ctx c x).spadSize →
    ∃ t, exec (r.1 c x h f) s = .next t ∧
      (∀ i < r.2.2, t.rawByte (spadSlot c + (s.ctx c x).spadBase + o + i) = BitVec.ofNat 8 (((s.ctx c x).getS f.rs2.toNat).toNat / 256 ^ i)) ∧
      (∀ a, (a < spadSlot c + (s.ctx c x).spadBase + o ∨ spadSlot c + (s.ctx c x).spadBase + o + r.2.2 ≤ a) → t.rawByte a = s.rawByte a) ∧
      t.ctx c x = { s.ctx c x with pc := (s.ctx c x).pc + 128 } ∧
      (∀ i, i ≠ 4 * c + x → tget (fun _ => Ctx.reset) t.ctxs i = tget (fun _ => Ctx.reset) s.ctxs i))

/-- R45: where the branches go, what brdec and call write, and that a branch not taken falls through; a jr to a place that is not
128 B aligned raises ADDRESS (code 2). R45 and R33: `end` ends the tile-thread after its bundle, and its launch counts it; a scalar operation whose predicate is
false does nothing but let the next bundle follow. -/
def Obligations.Branches : Prop :=
  (∀ (c x : Nat) (h : SlotHdr) (f : ScalarF) (s : State), Executes s c x h →
    let k := s.ctx c x
    let target := k.pc + 128 * f.immv
    let go (g : Ctx → Ctx) (a : BitVec 48) : Host.Outcome State Fault Refusal :=
      .next (((s.noteIssue c x h.hint.toNat).updCtx c x g).updCtx c x (fun q => { q with pc := a }))
    let jump (a : BitVec 48) : Host.Outcome State Fault Refusal :=
      .next ((s.noteIssue c x h.hint.toNat).updCtx c x (fun q => { q with pc := a }))
    (Issues s c x h (.scalar .br f) → exec (.br c x h f) s = jump target) ∧
    (Issues s c x h (.scalar .brz f) → exec (.brz c x h f) s = jump (if k.getS f.rs1.toNat = 0 then target else k.pc + 128)) ∧
    (Issues s c x h (.scalar .brnz f) → exec (.brnz c x h f) s = jump (if k.getS f.rs1.toNat = 0 then k.pc + 128 else target)) ∧
    (Issues s c x h (.scalar .brdec f) → exec (.brdec c x h f) s =
      go (·.setS f.rd.toNat (k.getS f.rd.toNat - 1)) (if k.getS f.rd.toNat = 1 then k.pc + 128 else target)) ∧
    (Issues s c x h (.scalar .call f) → exec (.call c x h f) s = go (·.setS 63 (BitVec.ofNat 64 (k.pc + 128).toNat)) target) ∧
    (Issues s c x h (.scalar .jr f) → (k.getS f.rs1.toNat).toNat % 128 = 0 →
      exec (.jr c x h f) s = jump (BitVec.ofNat 48 (k.getS f.rs1.toNat).toNat)) ∧
    (Issues s c x h (.scalar .jr f) → (k.getS f.rs1.toNat).toNat % 128 ≠ 0 →
      ∃ e : CoreFault, e.code = 2 ∧ exec (.jr c x h f) s = .next ((s.noteIssue c x h.hint.toNat).preciseFault c x e))) ∧
  ((∀ (c x : Nat) (h : SlotHdr) (f : ScalarF) (s : State) (th : Thread), Issues s c x h (.scalar .endOp f) → Executes s c x h →
    (s.ctx c x).tt = some th →
    ∃ t, exec (.endOp c x h f) s = .next t ∧ (t.ctx c x).tt = none ∧ (t.ctx c x).wait = .none ∧ t.mem = s.mem ∧
      ∀ l, s.launch th.launch = some l → ∃ l', t.launch th.launch = some l' ∧ l'.ended = l.ended + 1) ∧
  (∀ r ∈ aluRows, ∀ (c x : Nat) (h : SlotHdr) (f : ScalarF) (s : State), Issues s c x h (.scalar r.2.1 f) → ¬Executes s c x h →
    exec (r.1 c x h f) s = .next ((s.noteIssue c x h.hint.toNat).updCtx c x (fun k => { k with pc := k.pc + 128 }))))

/-! ### Movers (R46, R47, R56, R62, R465) -/

namespace Sys2Proof.Machine

/-- The next bundle of the context follows. -/
def State.onward (s : State) (c x : Nat) (pc : BitVec 48) : State := s.updCtx c x (fun q => { q with pc := pc + 128 })

/-- The mover operations. -/
def moverRows : List ((Nat → Nat → SlotHdr → MoverF → Instr) × MoverOp) :=
  [(Instr.tld, MoverOp.tld), (Instr.tldz, MoverOp.tldz), (Instr.tcpy, MoverOp.tcpy), (Instr.tst, MoverOp.tst), (Instr.tstAddf, MoverOp.tstAddf),
   (Instr.tstAddi, MoverOp.tstAddi)]

/-- What a mover operation stores: the address and length of every span, by the function that moves the data. -/
def State.stored (s : State) (m : MoverRec) : List (Nat × Nat) := (m.spans s.seen).map (fun w => (w.1, w.2.length))

end Sys2Proof.Machine

/-- R46, R47, R56: a mover operation that passes its checks enters the queue of its mover (tst and its sums the store mover,
the others the load mover) with the next sequence number, and the count of its tag rises by one; nothing moves yet (log 8). One that
fails a check ends the tile-thread with that fault and enters nothing (R64). -/
def Obligations.MoverIssue : Prop :=
  ∀ r ∈ moverRows, ∀ (c x : Nat) (h : SlotHdr) (f : MoverF) (s : State), Issues s c x h (.mover r.2 f) → Executes s c x h →
    (∀ m, moverIssue c x s r.2 f = .ok m →
      let m' := { m with seq := (s.core c).nextSeq }
      m.op = r.2 ∧ m.ctx = x ∧ m.tag = some f.tag.toNat ∧
      exec (r.1 c x h f) s = .next ((((s.noteIssue c x h.hint.toNat).updCore c (fun k =>
        if r.2 ∈ [MoverOp.tst, MoverOp.tstAddf, MoverOp.tstAddi] then { k with smq := k.smq ++ [m'], nextSeq := k.nextSeq + 1 }
        else { k with lmq := k.lmq ++ [m'], nextSeq := k.nextSeq + 1 })).updCtx c x
          (fun k => k.setTag f.tag.toNat (k.tagCount f.tag.toNat + 1))).onward c x (s.ctx c x).pc)) ∧
    (∀ e, moverIssue c x s r.2 f = .error e →
      exec (r.1 c x h f) s = .next ((s.noteIssue c x h.hint.toNat).preciseFault c x e))

/-- R56 and R62: the oldest operation of a context in a mover completes: it leaves the queue, its data moves, its regulator is charged, and
the count of its tag drops by one; what it made of a poisoned line arrives as poisoned lines (R362). With SEMEN = 1 its semaphore rises by 1;
where that would pass 0xFFFF_FFFF SEM_OVERFLOW (code 5) goes to the tile-thread that issued it. A tldz leaves zeros, and no byte outside the
spans an operation stores changes. -/
def Obligations.MoverCompletes : Prop :=
  ∀ (c : Nat) (st : Bool) (x tg : Nat) (s : State) (m : MoverRec), (s.core c).firstMover st x = some m → m.tag = some tg →
    (m.dramBytes = 0 ∨ s.regOpen m.part 0 = true) → (s.core c).frozen.contains x = false →
    let u := (s.updCore c (fun k => k.dropMover st m.seq)).bump
    let put := (u.move m).charge m.part 0 m.dramBytes
    let moved := ((if s.moverPoisoned m then m.writeSpans.foldl (fun t w => t.taint w.1 w.2) put else put).issueMmuls c).updCtx c x
      (fun k => k.setTag tg (k.tagCount tg - 1))
    (m.sig = none → exec (.moverOpComplete c st x) s = .next moved) ∧
    (∀ die i, m.sig = some (die, i) → (s.sem die i).value.toNat < 2 ^ 32 - 1 →
      exec (.moverOpComplete c st x) s = .next (moved.setSem die i { s.sem die i with value := (s.sem die i).value + 1 })) ∧
    (∀ die i, m.sig = some (die, i) → (s.sem die i).value.toNat = 2 ^ 32 - 1 →
      ∃ e : CoreFault, e.code = 5 ∧ exec (.moverOpComplete c st x) s = .next (moved.lateFault c x m.pc.toNat m.by_ e)) ∧
    (∀ a, (∀ w ∈ u.stored m, a < w.1 ∨ w.1 + w.2 ≤ a) → moved.rawByte a = s.rawByte a) ∧
    (m.op = .tldz → ∀ i < m.desc.count * fmtBits m.fmt / 8, moved.rawByte (m.dst + i) = 0)

/-! ### The matrix unit (R48, R86, R100, R109, R122, R130) -/

/-- R48: mmul, mdrain, mfree and lrun enter the core's matrix queue, and the next bundle follows. An mmul and an mdrain do so
when their checks pass; an mfree takes a tile the context has. R109: an mfree waits behind an earlier mmul into its tile; then the tile is
empty, nothing is written and nothing faults, whatever the tile held. R112: mmul, mdrain and mfree in NEST mode, and lrun in TILE mode, raise
ILLEGAL_BUNDLE (code 1). -/
def Obligations.MatrixIssue : Prop :=
  (∀ (c x : Nat) (h : SlotHdr) (f : MatrixF) (s : State), Executes s c x h → (s.ctx c x).kmode = false →
    Issues s c x h (.matrix .mfree f) → f.td.toNat < (s.ctx c x).accTiles →
    let t := f.td.toNat
    let n := (s.core c).nextSeq
    ((s.core c).mq.any (MatrixRec.touches x t) = false → (s.core c).drainHolds x t n = false → (s.core c).lupinAdds x t n = false →
      ∃ u : State, exec (.mfree c x h f) s = .next u ∧
        u.tile c x t = Tile.empty ∧ u.mem = s.mem ∧ (u.ctx c x).tt = (s.ctx c x).tt ∧ u.launches = s.launches) ∧
    (∀ m th pc q, .mmul m th pc q ∈ (s.core c).mq → m.ctx = x → m.tile = t →
      (∀ y w q, .mfree y w q ∈ (s.core c).mq ∨ .clear y w q ∈ (s.core c).mq → w < 16 ∧ (y, w) ≠ (x, t)) →
      ∃ u : State, exec (.mfree c x h f) s = .next u ∧ u.tile c x t = s.tile c x t ∧ .mfree x t n ∈ (u.core c).mq)) ∧
  (∀ (c x t q : Nat) (s : State) (rest : List MatrixRec), (s.core c).mq = .mfree x t q :: rest ∨ (s.core c).mq = .clear x t q :: rest →
    (s.core c).drainHolds x t q = false → (s.core c).lupinAdds x t q = false →
    (s.settleFrees c).tile c x t = Tile.empty ∧ (s.settleFrees c).mem = s.mem) ∧
  (∀ (c x : Nat) (h : SlotHdr) (f : MatrixF) (s : State), Executes s c x h →
    let faults (o : Host.Outcome State Fault Refusal) : Prop :=
      ∃ e : CoreFault, e.code = 1 ∧ o = .next ((s.noteIssue c x h.hint.toNat).preciseFault c x e)
    ((s.ctx c x).kmode = true → (Issues s c x h (.matrix .mmul f) → faults (exec (.mmul c x h f) s)) ∧
      (Issues s c x h (.matrix .mdrain f) → faults (exec (.mdrain c x h f) s)) ∧ (Issues s c x h (.matrix .mfree f) → faults (exec (.mfree c x h f) s))) ∧
    ((s.ctx c x).kmode = false → Issues s c x h (.matrix .lrun f) → faults (exec (.lrun c x h f) s))) ∧
  ∀ (c x : Nat) (h : SlotHdr) (f : MatrixF) (s : State), Executes s c x h →
    let k := s.ctx c x
    let th := k.tt.getD { launch := 0, index := 0 }
    let enters (g : Nat → MatrixRec) : Host.Outcome State Fault Refusal :=
      .next ((((s.noteIssue c x h.hint.toNat).updCore c (fun q =>
        { q with mq := q.mq ++ [g q.nextSeq], nextSeq := q.nextSeq + 1 })).settleFrees c).onward c x k.pc)
    (∀ m, Issues s c x h (.matrix .mmul f) → mmulIssue c x s (oneHeader h (.matrix .mmul f)) f = .ok m →
      exec (.mmul c x h f) s = enters (fun q => .mmul m th k.pc q)) ∧
    (∀ d r, Issues s c x h (.matrix .mdrain f) → k.kmode = false → f.td.toNat < k.accTiles →
      descAt c x s 4 (k.getD f.desc.toNat).toNat = .ok d →
      drainIssue c x s f.td.toNat f.chain.toNat (offAddr (k.getA f.adst.toNat) f.offs) d (k.getD f.desc.toNat).toNat (tileXs k f.chain.toNat)
        none th k.pc = .ok r →
      exec (.mdrain c x h f) s = enters (fun q => .mdrain { r with seq := q })) ∧
    (Issues s c x h (.matrix .mfree f) → k.kmode = false → f.td.toNat < k.accTiles →
      exec (.mfree c x h f) s = enters (fun q => .mfree x f.td.toNat q)) ∧
    (Issues s c x h (.matrix .lrun f) → k.kmode = true →
      exec (.lrun c x h f) s = enters (fun q => .lrun x th k.pc (k.getD f.desc.toNat).toNat q (oneHeader h (.matrix .lrun f))))

/-- R84 to R86 and R90: a chunk of the mmul in progress adds its 128 products to every entry of the tile; KDONE rises by 128, and the
mmul stands in progress until its last chunk. If an entry's sum leaves the 96-bit range, the tile stays as it was, the mmul and the
operations after it are dropped (in TILE mode those of its context in the queue), and ACC_OVERFLOW (code 8) is raised. -/
def Obligations.ChunkCompletes : Prop :=
  ∀ (c : Nat) (s : State) (m : MmulRec) (th : Thread) (pc : BitVec 48), (s.core c).currentMmul = some (m, th, pc) →
    (s.core c).frozen.contains m.ctx = false →
    let u := s.bump
    let w2 := if m.fmtb = 7 then u.w2word c ((s.ctx c m.ctx).w2tid m.tile) else 0
    let old := if m.done = 0 ∧ !m.acc then Tile.empty else s.tile c m.ctx m.tile
    ∃ t : State, exec (.mmulChunkDone c) s = .next t ∧
      (match u.chunkTile c m.ctx m w2 old with
      | .ok t' =>
        t'.kdone = old.kdone + 128 ∧ t'.path = pairPath m.fmta m.fmtb ∧
        t = ((u.setTile c m.ctx m.tile t').updCore c (fun k =>
          k.setMmul (if m.done + 1 = m.kch then none else some { m with done := m.done + 1 }))).settleFrees c
      | .error (_, _, n) =>
        (n < -(2 ^ 95) ∨ 2 ^ 95 ≤ n) ∧ ∃ e : CoreFault, e.code = 8 ∧
        t = ((((u.setTile c m.ctx m.tile old).dropMatrix c m.ctx).lateFault c m.ctx pc.toNat th e)).settleFrees c ∧
        ((s.core c).lmm = [] → (((u.setTile c m.ctx m.tile old).dropMatrix c m.ctx).core c).mq = dropFromMmul m.ctx (s.core c).mq))

namespace Sys2Proof.Machine

/-- The format of a drain's first run: BASEFMT for a format-mapped tile, else the descriptor's (R98). -/
def DrainRec.firstFmt (d : DrainRec) : Nat :=
  match d.hdr with
  | some h => if d.desc.fmt = 10 then h.baseFmt else d.desc.fmt
  | none => d.desc.fmt

end Sys2Proof.Machine

/-- R48, R100, R108: a drain starts when the drain unit is free: its first run reads the tile. A run that widens keeps the drain
unit and the tile and runs again one rung up; any other run empties the tile, and the partner tile where its chain gates with it,
frees the drain unit and waits to be written. R130, R98 and R102: the oldest drain that has read its tile is written, with its tile status word, and nothing else of memory
changes; a widened tile counts in its launch. Where no forwarding channel is enabled that is all. -/
def Obligations.DrainProceeds : Prop :=
  ((∀ (c : Nat) (s : State) (d : DrainRec), (s.core c).drain = none → (s.core c).nextDrain = some d → s.chainPending c d = false →
    (s.core c).frozen.contains d.ctx = false → s.fwdFull c d = false →
    exec (.drainStart c) s = .next ((s.bump.updCore c (fun k => k.takeDrain d.seq)).afterRun c (s.bump.runDrain c d d.firstFmt 0 0))) ∧
  (∀ (c : Nat) (s : State) (r : DrainRun) (g : Nat), (s.core c).drain = some r → rungOf r.fmt = some g →
    exec (.drainRerun c) s = .next (s.bump.afterRun c (s.bump.runDrain c r.d (fmtOfRung (g + 1)) (r.steps + 1) r.sb0))) ∧
  (∀ (c : Nat) (s : State) (r : DrainRun), s.afterRun c r =
    if r.rerun then s.updCore c (fun k => { k with drain := some r })
    else
      let one := s.setTile c r.d.ctx r.d.tile Tile.empty
      let both := if r.d.pair then one.setTile c r.d.ctx (r.d.tile ^^^ 1) Tile.empty else one
      (both.updCore c (fun k => { k with drain := none, writing := k.writing ++ [r] })).settleFrees c) ∧
  (∀ (c : Nat) (s : State) (d : DrainRec) (f n b : Nat), (s.runDrain c d f n b).d = d ∧ (s.runDrain c d f n b).fmt = f ∧
    (s.runDrain c d f n b).steps = n ∧
    ((s.runDrain c d f n b).rerun = true → d.desc.fmt = 10 ∧ bit (s.ctx c d.ctx).widen 16 = true)) ∧
  (∀ (c x : Nat) (s : State) (t chain dst doff : Nat) (d : Desc) (xs : List Nat) (lr : Option Nat) (th : Thread) (pc : BitVec 48) (r : DrainRec),
    drainIssue c x s t chain dst d doff xs lr th pc = .ok r → r.pair = chainPartner (s.ctx c x).chain chain)) ∧
  (∀ (c : Nat) (s : State) (r : DrainRun) (rest : List DrainRun), (s.core c).writing = r :: rest →
    (∀ k, (s.fwd k).en = false) →
    let put := (s.writes r.writes).charge r.d.part 0 (spansDram r.writes)
    let wrote := (if r.poison then r.writes.foldl (fun t w => t.taint w.1 w.2.length) put else put).updCore c (fun k => { k with writing := rest })
    exec (.drainWritten c) s = .next (if 0 < r.steps then wrote.updLaunch r.d.by_.launch (fun l => l.addWiden (4 * c + r.d.ctx)) else wrote) ∧
    (∀ a, (∀ w ∈ r.writes, a < w.1 ∨ w.1 + w.2.length ≤ a) → wrote.rawByte a = s.rawByte a))

/-! ### Lupin (R111 to R126) -/

/-- R116, R117, R122, R124: an lrun at the head of the matrix queue is read and checked whole, then expansion begins at iteration 0
of its first table; a chain that fails a check stops Lupin with that fault. A walked lrun whose mmuls are done and whose drains are written
completes. -/
def Obligations.LrunStartsAndCompletes : Prop :=
  (∀ (c x off seq hd : Nat) (th : Thread) (pc : BitVec 48) (s : State), (s.core c).lrun = none →
    (s.core c).headLrun = some (.lrun x th pc off seq hd) → (s.core c).frozen.contains x = false →
    let chain := s.bump.parseChain c x (s.bump.chainCount c x 64 off) 16 off 0 0
    (∀ t ts, chain = .ok (t :: ts) → ∃ l : Lrun, l.id = seq ∧ l.ctx = x ∧ l.tables = t :: ts ∧ l.tbl = 0 ∧ l.seq = 0 ∧
      l.idx = List.replicate t.levels.length 0 ∧ l.held = [] ∧ l.walked = false ∧ l.sig = t.sig ∧
      l.ba = ((s.ctx c x).getA t.regA).toNat ∧ l.bb = ((s.ctx c x).getA t.regB).toNat ∧ l.bc = ((s.ctx c x).getA t.regC).toNat ∧
      exec (.lrunExpandStart c) s = .next (s.bump.updCore c (fun q => { q with lrun := some l }))) ∧
    (∀ e, chain = .error e →
      exec (.lrunExpandStart c) s = .next (((s.bump.stopLupin c x seq none).lateFault c x pc.toNat th e).settleFrees c))) ∧
  (∀ (c id x : Nat) (th : Thread) (s : State),
    (s.core c).tail.find? (fun l => !(s.core c).lrunDrains l.1 && !(s.core c).lmm.any (fun u => u.lrun == l.1)) = some (id, x, th, none) →
    exec (.lrunComplete c) s = .next (s.updCore c (fun k => { k with tail := k.tail.filter (fun l => l.1 ≠ id) })))

/-- R117: an iteration of a table without a PAIR level, both of whose operands stand staged and that is not the last of its output's
K loop: it loads nothing and drains nothing, adds one mmul into the tile that its output holds (accumulating unless it is the first of
the K loop), counts its multiplications, and moves to the next index vector. -/
def Obligations.LupinIterates : Prop :=
  ∀ (c tile : Nat) (s : State) (l l1 : Lrun) (t : Nest) (k1 : Ctx) (q : Level) (a b : Staged), (s.core c).lrun = some l → l.walked = false →
    l.tables[l.tbl]? = some t → t.kind? 3 = none → t.kind? 2 = some q → idxOf l.idx q < q.boundM1 → t.seqBit = false → t.fmtb ≠ 7 →
    (s.core c).frozen.contains l.ctx = false → (s.core c).lupinLoads ≤ 6 → (s.core c).lmq.length ≤ 30 →
    l.stA = some a → l.stB = some b →
    a.addr = t.addrAt l.idx l.ba (·.sa) → a.v0 = t.descA.valid.getD 0 0 → a.v1 = padExtent (t.kind? 0) l.idx (t.descA.valid.getD 1 0) →
    b.addr = t.addrAt l.idx l.bb (·.sb) → b.v0 = t.descB.valid.getD 0 0 → b.v1 = padExtent (t.kind? 1) l.idx (t.descB.valid.getD 1 0) →
    holdTile (s.ctx c l.ctx) l (t.key l.tbl l.idx) false (idxOf l.idx q == 0) = some (l1, k1, tile) →
    let n := (s.core c).nextSeq
    let m : MmulRec :=
      { ctx := l.ctx, tile := tile, a := t.stgOff + a.buf * bufBytes t.fmta t.kchl,
        b := t.stgOff + (t.nba + 1) * bufBytes t.fmta t.kchl + b.buf * bufBytes t.fmtb t.kchl, kch := t.kchl, fmta := t.fmta, fmtb := t.fmtb,
        acc := !(idxOf l.idx q == 0), trb := t.trb, done := 0, nest := some { seq := l.seq, table := l.tbl }, needs := [a.load, b.load],
        at_ := n, issued := none }
    let u : LupinMmul := { m := m, lrun := l.id, by_ := l.by_, pc := l.pc, areas := l.areas k1.spadBase }
    let l2 := { l1 with stA := some a, stB := some b, seq := l.seq + 1 }
    exec (.lupinIteration c) s = .next ((((((s.setCtx c l.ctx k1).updCore c (fun k =>
      { k with lmm := k.lmm ++ [u], nextSeq := n + 1 })).updCtx c l.ctx (fun k =>
      { k with statMac := k.statMac + BitVec.ofNat 64 (a.v1 * b.v1 * a.v0) })).updCore c (fun k => k.putLrun (l2.advance t))).issueMmuls c).settleFrees c)


/-! ### The vector slot (R33, R49, R73, R91, R92, R350) -/

namespace Sys2Proof.Machine

/-- The second source of a lane: the immediate, or vS2. -/
def vsrc2 (f : VectorF) (k : Ctx) (i : Nat) : W32 := if f.imm then f.imm32 else k.getV f.vs2.toNat i

/-- The vector register D written in the lanes whose predicate bit is 1; the other lanes keep their value (R33). -/
def Ctx.lanes (k : Ctx) (q : BitVec 256) (r : Nat) (g : Nat → W32) : Ctx :=
  k.setV r (fun i => if q.getLsbD i then g i else k.getV r i)

/-- The lane operations on FP elements: the exact result is rounded once. -/
def fpLaneRows : List ((Nat → Nat → SlotHdr → VectorF → Instr) × VectorOp × (Fp → Fp → Fp)) :=
  [(Instr.vadd, VectorOp.vadd, Fp.add), (Instr.vsub, VectorOp.vsub, Fp.sub), (Instr.vmul, VectorOp.vmul, Fp.mul),
   (Instr.vmin, VectorOp.vmin, Fp.min), (Instr.vmax, VectorOp.vmax, Fp.max), (Instr.vabs, VectorOp.vabs, fun (a _ : Fp) => Fp.abs a),
   (Instr.vneg, VectorOp.vneg, fun (a _ : Fp) => Fp.neg a)]

/-- The lane operations on integer elements of any width. -/
def intLaneRows : List ((Nat → Nat → SlotHdr → VectorF → Instr) × VectorOp × ((n : Nat) → BitVec n → BitVec n → BitVec n)) :=
  [(Instr.vadd, VectorOp.vadd, fun (n : Nat) (a b : BitVec n) => a + b), (Instr.vsub, VectorOp.vsub, fun (n : Nat) (a b : BitVec n) => a - b),
   (Instr.vmul, VectorOp.vmul, fun (n : Nat) (a b : BitVec n) => a * b),
   (Instr.vmin, VectorOp.vmin, fun (n : Nat) (a b : BitVec n) => if a.toInt ≤ b.toInt then a else b),
   (Instr.vmax, VectorOp.vmax, fun (n : Nat) (a b : BitVec n) => if a.toInt ≤ b.toInt then b else a),
   (Instr.vabs, VectorOp.vabs, fun (n : Nat) (a _ : BitVec n) => if a.toInt < 0 then -a else a),
   (Instr.vneg, VectorOp.vneg, fun (n : Nat) (a _ : BitVec n) => -a)] ++
  [(Instr.vand, VectorOp.vand, fun (n : Nat) (a b : BitVec n) => a &&& b), (Instr.vor, VectorOp.vor, fun (n : Nat) (a b : BitVec n) => a ||| b),
   (Instr.vxor, VectorOp.vxor, fun (n : Nat) (a b : BitVec n) => a ^^^ b)]

/-- The shifts of integer elements: the count is vS2's, or the immediate's, modulo the width. -/
def shiftLaneRows : List ((Nat → Nat → SlotHdr → VectorF → Instr) × VectorOp × ((n : Nat) → BitVec n → Nat → BitVec n)) :=
  [(Instr.vshl, VectorOp.vshl, fun (n : Nat) (a : BitVec n) (k : Nat) => a <<< k), (Instr.vshr, VectorOp.vshr, fun (n : Nat) (a : BitVec n) (k : Nat) => a >>> k),
   (Instr.vsra, VectorOp.vsra, fun (n : Nat) (a : BitVec n) (k : Nat) => a.sshiftRight k)]

/-- The lane comparisons, on FP and on signed integer elements. -/
def laneCmpRows : List ((Nat → Nat → SlotHdr → VectorF → Instr) × VectorOp × (Fp → Fp → Bool) × (Int → Int → Bool)) :=
  [(Instr.vcmpEq, VectorOp.vcmpEq, Fp.eq, fun (a b : Int) => decide (a = b)), (Instr.vcmpNe, VectorOp.vcmpNe, fun (a b : Fp) => !Fp.eq a b, fun (a b : Int) => decide (a ≠ b)),
   (Instr.vcmpLt, VectorOp.vcmpLt, Fp.lt, fun (a b : Int) => decide (a < b)),
   (Instr.vcmpLe, VectorOp.vcmpLe, fun (a b : Fp) => Fp.lt a b || Fp.eq a b, fun (a b : Int) => decide (a ≤ b))]

end Sys2Proof.Machine

/-- R49, R33: the integer lane operations wrap at the element's width; shifts take the count modulo the width. R49, R33, R91: the FP lane operations round the exact result of each active lane once to the element type; vfma rounds once
after its product and sum. Inactive lanes and every other register keep their value. -/
def Obligations.VectorArithmetic : Prop :=
  (∀ (c x : Nat) (h : SlotHdr) (f : VectorF) (s : State), 3 ≤ f.et.toNat → f.et.toNat < 6 →
    let n := etBits f.et.toNat
    (∀ r ∈ intLaneRows, Issues s c x h (.vector r.2.1 f) → exec (r.1 c x h f) s = .next (s.stepped c x h (fun k =>
      k.lanes ((s.ctx c x).q h) f.vd.toNat (fun i =>
        (r.2.2 n ((k.getV f.vs1.toNat i).setWidth n) ((vsrc2 f k i).setWidth n)).setWidth 32)))) ∧
    (∀ r ∈ shiftLaneRows, Issues s c x h (.vector r.2.1 f) → exec (r.1 c x h f) s = .next (s.stepped c x h (fun k =>
      k.lanes ((s.ctx c x).q h) f.vd.toNat (fun i => (r.2.2 n ((k.getV f.vs1.toNat i).setWidth n) ((vsrc2 f k i).toNat % n)).setWidth 32)))) ∧
    (Issues s c x h (.vector .vfma f) → exec (.vfma c x h f) s = .next (s.stepped c x h (fun k =>
      k.lanes ((s.ctx c x).q h) f.vd.toNat (fun i =>
        ((k.getV f.vs1.toNat i).setWidth n * (k.getV f.vs2.toNat i).setWidth n + (k.getV f.vs3.toNat i).setWidth n).setWidth 32))))) ∧
  (∀ (c x : Nat) (h : SlotHdr) (f : VectorF) (s : State), f.et.toNat < 3 →
    (∀ r ∈ fpLaneRows, Issues s c x h (.vector r.2.1 f) → exec (r.1 c x h f) s = .next (s.stepped c x h (fun k =>
      k.lanes ((s.ctx c x).q h) f.vd.toNat (fun i => etRound f.et.toNat
        (r.2.2 (etVal f.et.toNat (k.getV f.vs1.toNat i)) (etVal f.et.toNat (vsrc2 f k i))))))) ∧
    (Issues s c x h (.vector .vfma f) → exec (.vfma c x h f) s = .next (s.stepped c x h (fun k =>
      k.lanes ((s.ctx c x).q h) f.vd.toNat (fun i => etRound f.et.toNat
        (Fp.add (Fp.mul (etVal f.et.toNat (k.getV f.vs1.toNat i)) (etVal f.et.toNat (k.getV f.vs2.toNat i)))
          (etVal f.et.toNat (k.getV f.vs3.toNat i))))))))

/-- R49, R92, R350: the moves between lanes, the conversions that R92 lists (from a type to itself the element stays, log 45; a pair that R92 does
not list writes free values, log 10), rng and vidx. R49: the reductions write one scalar from the active
lanes: the 64-bit sum of integers, the FP32 sum of the fixed tree, the greatest and the least value, and the limits where no lane is
active. R49, R33: a lane comparison writes the bits of pD whose predicate bit is 1 and leaves its other bits; p0 stays all ones. -/
def Obligations.VectorMoves : Prop :=
  ((∀ (c x : Nat) (h : SlotHdr) (f : VectorF) (s : State),
    let e := f.et.toNat
    let lanes (g : Ctx → Nat → W32) : Host.Outcome State Fault Refusal :=
      .next (s.stepped c x h (fun k => k.lanes ((s.ctx c x).q h) f.vd.toNat (g k)))
    (Issues s c x h (.vector .vsel f) → exec (.vsel c x h f) s = lanes (fun k i =>
      if (k.getP f.pd.toNat).getLsbD i then k.getV f.vs1.toNat i else k.getV f.vs2.toNat i)) ∧
    (Issues s c x h (.vector .vperm f) → exec (.vperm c x h f) s = lanes (fun k i =>
      k.getV f.vs1.toNat ((k.getV f.vs2.toNat i).toNat % 256))) ∧
    (Issues s c x h (.vector .vbcast f) → exec (.vbcast c x h f) s = lanes (fun k _ =>
      ((k.getS f.ss.toNat).setWidth (etBits e)).setWidth 32)) ∧
    (Issues s c x h (.vector .vcvt f) → f.imm32.toNat % 8 = e → exec (.vcvt c x h f) s = lanes (fun k i =>
      ((k.getV f.vs1.toNat i).setWidth (etBits e)).setWidth 32)) ∧
    (Issues s c x h (.vector .vcvt f) → f.imm32.toNat % 8 ≠ e → e < 3 → f.imm32.toNat % 8 < 3 → exec (.vcvt c x h f) s = lanes (fun k i =>
      etRound (f.imm32.toNat % 8) (etVal e (k.getV f.vs1.toNat i)))) ∧
    (Issues s c x h (.vector .vcvt f) → e < 3 → 3 ≤ f.imm32.toNat % 8 → exec (.vcvt c x h f) s = lanes (fun k i =>
      let n := etBits (f.imm32.toNat % 8)
      (BitVec.ofInt n (Fp.toInt n (etVal e (k.getV f.vs1.toNat i)))).setWidth 32)) ∧
    (Issues s c x h (.vector .vcvt f) → e = 3 → 3 < f.imm32.toNat % 8 → f.imm32.toNat % 8 < 6 → exec (.vcvt c x h f) s = lanes (fun k i =>
      let n := etBits (f.imm32.toNat % 8)
      (BitVec.ofInt n (Max.max (-(2 ^ (n - 1) : Int)) (Min.min (2 ^ (n - 1) - 1) (etInt e (k.getV f.vs1.toNat i))))).setWidth 32)) ∧
    (Issues s c x h (.vector .vcvt f) → (e, f.imm32.toNat % 8) ∈ [(3, 0), (3, 1), (3, 2), (4, 0), (5, 0), (5, 1), (5, 2)] →
      exec (.vcvt c x h f) s = lanes (fun k i => etRound (f.imm32.toNat % 8) (Fp.ofInt (etInt e (k.getV f.vs1.toNat i))))) ∧
    (Issues s c x h (.vector .vcvt f) → (e, f.imm32.toNat % 8) ∈ [(4, 1), (4, 2), (4, 3), (4, 5), (5, 3), (5, 4)] → ∃ g : Nat → W32,
      exec (.vcvt c x h f) s = .next (s.stepped c x h (fun k => k.lanes ((s.ctx c x).q h) f.vd.toNat g)).bump) ∧
    (Issues s c x h (.vector .rng f) → exec (.rng c x h f) s = lanes (fun k i =>
      rngLane (k.getS f.ss.toNat).toNat (k.getS (f.ss.toNat + 1)).toNat (k.getS (f.ss.toNat + 2)).toNat i)) ∧
    (Issues s c x h (.vector .vidx f) → 3 ≤ e → exec (.vidx c x h f) s = lanes (fun _ i =>
      ((BitVec.ofNat 32 i + f.imm32).setWidth (etBits e)).setWidth 32)) ∧
    (Issues s c x h (.vector .vidx f) → e < 3 → exec (.vidx c x h f) s = lanes (fun _ i =>
      etRound e (Fp.ofInt ((i : Int) + f.imm32.toInt))))) ∧
  (∀ (c x : Nat) (h : SlotHdr) (f : VectorF) (s : State),
    let k := s.ctx c x
    let e := f.et.toNat
    let vs := ((List.range 256).filter (fun i => (k.q h).getLsbD i)).map (fun i => etInt e (k.getV f.vs1.toNat i))
    let fs := ((List.range 256).filter (fun i => (k.q h).getLsbD i)).map (fun i => etVal e (k.getV f.vs1.toNat i))
    let writes (w : W64) : Host.Outcome State Fault Refusal := .next (s.stepped c x h (fun k => k.setS f.ss.toNat w))
    (Issues s c x h (.vector .vredAdd f) → 3 ≤ e → exec (.vredAdd c x h f) s = writes (BitVec.ofInt 64 vs.sum)) ∧
    (Issues s c x h (.vector .vredMax f) → 3 ≤ e → ∃ w : W64, exec (.vredMax c x h f) s = writes w ∧
      (vs ≠ [] → w.toInt ∈ vs ∧ ∀ v ∈ vs, v ≤ w.toInt) ∧ (vs = [] → w = BitVec.ofInt 64 (-(2 ^ (etBits e - 1) : Int)))) ∧
    (Issues s c x h (.vector .vredMin f) → 3 ≤ e → ∃ w : W64, exec (.vredMin c x h f) s = writes w ∧
      (vs ≠ [] → w.toInt ∈ vs ∧ ∀ v ∈ vs, w.toInt ≤ v) ∧ (vs = [] → w = BitVec.ofInt 64 (2 ^ (etBits e - 1) - 1 : Int))) ∧
    (Issues s c x h (.vector .vredMax f) → e < 3 →
      exec (.vredMax c x h f) s = writes (BitVec.ofNat 64 (Fp.to32 (fs.foldl Fp.max (.inf true))))) ∧
    (Issues s c x h (.vector .vredMin f) → e < 3 →
      exec (.vredMin c x h f) s = writes (BitVec.ofNat 64 (Fp.to32 (fs.foldl Fp.min (.inf false))))) ∧
    (Issues s c x h (.vector .vredAdd f) → e < 3 →
      exec (.vredAdd c x h f) s = writes (BitVec.ofNat 64 (Fp.to32 (Fp.tree32 8 ((List.range 256).map (fun i =>
        if (k.q h).getLsbD i then etVal e (k.getV f.vs1.toNat i) else Fp.zero)))))))) ∧
  (∀ r ∈ laneCmpRows, ∀ (c x : Nat) (h : SlotHdr) (f : VectorF) (s : State), Issues s c x h (.vector r.2.1 f) →
    let k := s.ctx c x
    let e := f.et.toNat
    ∃ w : BitVec 256, exec (r.1 c x h f) s = .next (s.stepped c x h (fun k => k.setP f.pd.toNat w)) ∧
      ∀ i < 256, w.getLsbD i =
        if (k.q h).getLsbD i then
          (if e < 3 then r.2.2.1 (etVal e (k.getV f.vs1.toNat i)) (etVal e (vsrc2 f k i))
           else r.2.2.2 (etInt e (k.getV f.vs1.toNat i)) (etInt e (vsrc2 f k i)))
        else (k.getP f.pd.toNat).getLsbD i)

/-- R49: vld reads 256 elements as an agent finds them (R57) from a 64 B-aligned place inside the window into the active lanes; vst stores the active lanes
there, changes no other byte, and no register but the pc; outside the window or misaligned, both raise ADDRESS. -/
def Obligations.VectorMemory : Prop :=
  ∀ (c x o : Nat) (h : SlotHdr) (f : VectorF) (s : State),
    let k := s.ctx c x
    let n := etBits f.et.toNat / 8
    let a := spadSlot c + k.spadBase + o
    (((k.getA f.ss.toNat).toNat : Int) + f.imm32.toInt = (o : Int) → o % 64 = 0 → o + 256 * n ≤ k.spadSize →
      (Issues s c x h (.vector .vld f) → exec (.vld c x h f) s = .next (s.stepped c x h (fun k =>
        k.lanes ((s.ctx c x).q h) f.vd.toNat (fun i => BitVec.ofNat 32 (s.seenLe (a + n * i) n))))) ∧
      (Issues s c x h (.vector .vst f) →
        ∃ t, exec (.vst c x h f) s = .next t ∧
          (∀ i < 256, (k.q h).getLsbD i = true → ∀ j < n, t.rawByte (a + n * i + j) = BitVec.ofNat 8 ((k.getV f.vs1.toNat i).toNat / 256 ^ j)) ∧
          (∀ b, (∀ i < 256, (k.q h).getLsbD i = true → b < a + n * i ∨ a + n * i + n ≤ b) → t.rawByte b = s.rawByte b) ∧
          t.ctx c x = { k with pc := k.pc + 128 } ∧ t.cores = (s.noteIssue c x h.hint.toNat).cores)) ∧
    ((let p := ((k.getA f.ss.toNat).toNat : Int) + f.imm32.toInt
      p < 0 ∨ p % 64 ≠ 0 ∨ (k.spadSize : Int) < p + 256 * n) →
      (Issues s c x h (.vector .vld f) → ∃ e : CoreFault, e.code = 2 ∧
        exec (.vld c x h f) s = .next ((s.noteIssue c x h.hint.toNat).preciseFault c x e)) ∧
      (Issues s c x h (.vector .vst f) → ∃ e : CoreFault, e.code = 2 ∧
        exec (.vst c x h f) s = .next ((s.noteIssue c x h.hint.toNat).preciseFault c x e)))


/-! ### Special functions and tables (R50, R160 to R162, R178 to R181) -/

/-- R50, R160, R161: sfu evaluates program PROG of the active bank on each active lane and rounds once to the element type; sfu.gate
multiplies it by vS1 with one rounding; a program that does not exist raises ILLEGAL_BUNDLE (code 1); a NaN gives the NaN. -/
def Obligations.SpecialFunction : Prop :=
  ∀ (c x : Nat) (h : SlotHdr) (f : SpecialF) (s : State),
    let e := f.et.toNat
    let n := f.prog.toNat
    let at_ (w : W32) : Fp := Fp.of32 (s.sfuRun c n (Fp.to32 (etVal e w)))
    (∀ w : W32, etVal e w = .nan → at_ w = .nan) ∧
    (Issues s c x h (.special .sfu f) → s.sfuValid c n = true → exec (.sfu c x h f) s = .next (s.stepped c x h (fun k =>
      k.lanes ((s.ctx c x).q h) f.vd.toNat (fun i => etRound e (at_ (k.getV f.vs1.toNat i)))))) ∧
    (Issues s c x h (.special .sfuGate f) → s.sfuValid c n = true → exec (.sfuGate c x h f) s = .next (s.stepped c x h (fun k =>
      k.lanes ((s.ctx c x).q h) f.vd.toNat (fun i => etRound e (Fp.mul (etVal e (k.getV f.vs1.toNat i)) (at_ (k.getV f.vs2.toNat i))))))) ∧
    (s.sfuValid c n = false → ∃ e1 e2 : CoreFault, e1.code = 1 ∧ e2.code = 1 ∧
      (Issues s c x h (.special .sfu f) → exec (.sfu c x h f) s = .next ((s.noteIssue c x h.hint.toNat).preciseFault c x e1)) ∧
      (Issues s c x h (.special .sfuGate f) → exec (.sfuGate c x h f) s = .next ((s.noteIssue c x h.hint.toNat).preciseFault c x e2)))

/-- R180 and R181: tbl.commit of a table that is not pending makes it pending; its check passes or, when it fails, clears the pending
state and raises ILLEGAL_BUNDLE (code 1) in the tile-thread that committed it; a table that passed and that no earlier operation uses switches
banks and is pending no more. Then a TBL_LOAD that waited for the table goes on (R466), if there is one. -/
def Obligations.TableCommit : Prop :=
  (∀ (c x : Nat) (h : SlotHdr) (f : SpecialF) (s : State), Issues s c x h (.special .tblCommit f) → Executes s c x h →
    let no := tableNo f.imm32.toNat
    tidOk f.imm32.toNat = true →
    ((s.core c).pending.getLsbD no = false →
      ∃ e : Commit, e.table = no ∧ e.ctx = some x ∧ e.seq = (s.core c).nextSeq ∧ e.passed = decide (256 ≤ no) ∧
        exec (.tblCommit c x h f) s = .next (((s.noteIssue c x h.hint.toNat).updCore c (fun k =>
          { k with pending := k.pending ||| (1 <<< no), nextSeq := k.nextSeq + 1, commits := k.commits ++ [e] })).onward c x (s.ctx c x).pc)) ∧
    ((s.core c).pending.getLsbD no = true → ∃ e : CoreFault, e.code = 7 ∧
      exec (.tblCommit c x h f) s = .next ((s.noteIssue c x h.hint.toNat).preciseFault c x e))) ∧
  (∀ (c no : Nat) (s : State) (e : Commit), (s.core c).commits.find? (fun t => t.table = no ∧ !t.passed) = some e →
    (s.commitOk c no = true → exec (.tblCheckDone c no) s = .next (s.updCore c (fun k => { k with
      commits := k.commits.map (fun t => if t.table = no then { t with passed := true } else t) })).tblAdvance) ∧
    (s.commitOk c no = false → let u := (s.updCore c (fun k => k.dropCommit no)).issueMmuls c
      (e.ctx = none → exec (.tblCheckDone c no) s = .next u.tblAdvance) ∧
      (∀ x, e.ctx = some x → ∃ f : CoreFault, f.code = 1 ∧
        exec (.tblCheckDone c no) s = .next (u.lateFault c x e.pc.toNat e.by_ f).tblAdvance))) ∧
  (∀ (c no : Nat) (s : State) (e : Commit), (s.core c).commits.find? (fun t => t.table = no ∧ t.passed) = some e → s.tableUsed c e = false →
    no < 512 → ∃ q : Core, exec (.tableSwitch c no) s = .next ((s.setCore c q).issueMmuls c).tblAdvance ∧
      (∀ i, q.active.getLsbD i = ((s.core c).active.getLsbD i ^^ decide (i = no))) ∧
      (∀ i, q.pending.getLsbD i = ((s.core c).pending.getLsbD i && decide (i ≠ no))) ∧ q.commits = (s.core c).commits.filter (fun t => t.table ≠ no)) ∧
  (∀ s : State, (∀ d ∈ s.journal, d.code ≠ 0x0203) → s.tblAdvance = s)

/-! ### The sync slot, waits, signals and claims (R51, R56, R61 to R63, R299 to R301, R324) -/

/-- R51: a fence whose operations have completed and an mwait whose tags are at 0 let the next bundle follow at once; otherwise the
context waits, and goes on when the condition holds. -/
def Obligations.FencesAndTags : Prop :=
  (∀ (c x : Nat) (h : SlotHdr) (f : SyncF) (s : State), Executes s c x h →
    let s0 := s.noteIssue c x h.hint.toNat
    (Issues s c x h (.sync .fence f) → exec (.fence c x h f) s = .next
      ((if (s0.core c).fenceMet x f.fmask (s.core c).nextSeq then s0 else s0.setWait c x (.fence f.fmask (s.core c).nextSeq)).onward c x (s.ctx c x).pc)) ∧
    (Issues s c x h (.sync .mwait f) →
      ((∀ t < 16, f.tagmask.getLsbD t = true → (s.ctx c x).tagCount t = 0) → exec (.mwait c x h f) s = .next (s0.onward c x (s.ctx c x).pc)) ∧
      (∀ t < 16, f.tagmask.getLsbD t = true → (s.ctx c x).tagCount t ≠ 0 →
        exec (.mwait c x h f) s = .next ((s0.setWait c x (.tags f.tagmask)).onward c x (s.ctx c x).pc)))) ∧
  (∀ (c x n : Nat) (m : BitVec 3) (s : State), (s.ctx c x).wait = .fence m n → (s.core c).frozen.contains x = false →
    exec (.fenceSatisfied c x) s = .next (if (s.core c).fenceMet x m n then s.updCtx c x (fun k => { k with wait := .none }) else s)) ∧
  (∀ (c x : Nat) (m : BitVec 16) (s : State), (s.ctx c x).wait = .tags m → (s.core c).frozen.contains x = false →
    ((∀ t < 16, m.getLsbD t = true → (s.ctx c x).tagCount t = 0) →
      exec (.mwaitSatisfied c x) s = .next (s.updCtx c x (fun k => { k with wait := .none }))) ∧
    (∀ t < 16, m.getLsbD t = true → (s.ctx c x).tagCount t ≠ 0 → exec (.mwaitSatisfied c x) s = .next s))

namespace Sys2Proof.Machine

/-- The die of a sync operation's object: the core's own, or the other with DIE = 1 (R299). -/
def SyncDie (c : Nat) (f : SyncF) : Nat := if f.die then 1 - dieOf c else dieOf c

end Sys2Proof.Machine

/-- R51, R62, R63, R301, R324: what the sync operations on a semaphore, a claim counter or a barrier within the partition's range
do: a signal is under way; a wait, a take and an arrival wait; a read and a claim write sD. -/
def Obligations.SyncOperations : Prop :=
  ∀ (c x : Nat) (h : SlotHdr) (f : SyncF) (s : State), Executes s c x h →
    let s0 := s.noteIssue c x h.hint.toNat
    let k := s.ctx c x
    let die := SyncDie c f
    let i := f.idx.toNat
    let n := if f.imm then f.imm32.toNat else (k.getS f.rs.toNat).toNat
    (s.semIn (s.partOf c x) i = true →
      (Issues s c x h (.sync .semSig f) → ∃ g : Signal, g.die = die ∧ g.idx = i ∧ g.n = n ∧ g.core = c ∧ g.ctx = x ∧
        exec (.semSig c x h f) s = .next (State.onward { s0 with signals := s.signals ++ [g] } c x k.pc)) ∧
      (Issues s c x h (.sync .semWait f) → exec (.semWait c x h f) s = .next ((s0.setWait c x (.semWait die i n)).onward c x k.pc)) ∧
      (Issues s c x h (.sync .semTake f) → exec (.semTake c x h f) s = .next (((s0.setSem die i
        { s.sem die i with waiters := (s.sem die i).waiters ++ [(c, x)] }).setWait c x (.semTake die i n)).onward c x k.pc)) ∧
      (Issues s c x h (.sync .semRd f) → ∃ g : SemSeen, g.take = false ∧ g.value = (s.sem die i).value.toNat ∧
        exec (.semRd c x h f) s = .next ((s0.updCtx c x (fun t => { t.setS f.rd.toNat ((s.sem die i).value.setWidth 64) with seen := t.seen ++ [g] })).onward c x k.pc))) ∧
    (s.claimIn (s.partOf c x) i = true → Issues s c x h (.sync .claim f) → (s.claim die i).reclaim = [] →
      ∃ g : ClaimRec, g.base = (s.claim die i).value.toNat ∧ g.n = n ∧ g.core = c ∧ g.ctx = x ∧
        exec (.claim c x h f) s = .next (((s0.setClaim die i { s.claim die i with
          value := (s.claim die i).value + BitVec.ofNat 64 n
          recs := g :: (s.claim die i).recs.filter (fun r => !(r.core == c && r.ctx == x)) }).updCtx c x (fun t =>
            t.setS f.rd.toNat (s.claim die i).value)).onward c x k.pc)) ∧
    (i < 255 → (s.bar (s.partOf c x) die i).inEn = true → Issues s c x h (.sync .fbar f) →
      exec (.fbar c x h f) s = .next (((s0.setBar (s.partOf c x) die i { s.bar (s.partOf c x) die i with
        arrivals := (s.bar (s.partOf c x) die i).arrivals ++ [some (c, x)] }).setWait c x (.barrier (s.partOf c x) die i)).onward c x k.pc)) ∧
    (s.semIn (s.partOf c x) i = false → Issues s c x h (.sync .semSig f) → ∃ e : CoreFault, e.code = 3 ∧
      exec (.semSig c x h f) s = .next (s0.preciseFault c x e))

/-- R62 and R300: a signal is added at its home, and the holder's own signal releases the hold; a wait is over when its threshold
is met; the oldest take alone is served, its n is subtracted, and on a LOCK semaphore the taker becomes the holder. R323 and R324: a barrier of one die whose count is reached opens: its contexts go on, the epoch rises by one and the counted
arrivals leave it; while the count is not reached nothing happens. -/
def Obligations.SemaphoreEvents : Prop :=
  ((∀ (k : Nat) (s : State) (g : Signal), s.signals[k]? = some g → (s.sem g.die g.idx).value.toNat + g.n < 2 ^ 32 →
    let added := State.setSem { s with signals := s.signals.eraseIdx k } g.die g.idx
      { s.sem g.die g.idx with value := BitVec.ofNat 32 ((s.sem g.die g.idx).value.toNat + g.n) }
    ((added.sem g.die g.idx).hold = none → exec (.semSigApply k) s = .next added) ∧
    (∀ v, (added.sem g.die g.idx).hold = some v → v.core = g.core ∧ v.ctx = g.ctx →
      exec (.semSigApply k) s = .next (added.setSem g.die g.idx { added.sem g.die g.idx with hold := none })) ∧
    (∀ v, (added.sem g.die g.idx).hold = some v → ¬(v.core = g.core ∧ v.ctx = g.ctx) → exec (.semSigApply k) s = .next added)) ∧
  (∀ (k : Nat) (s : State) (g : Signal), s.signals[k]? = some g → 2 ^ 32 ≤ (s.sem g.die g.idx).value.toNat + g.n →
    ∃ e : CoreFault, e.code = 5 ∧ exec (.semSigApply k) s =
      .next (({ s with signals := s.signals.eraseIdx k } : State).lateFault g.core g.ctx g.pc.toNat g.by_ e)) ∧
  (∀ (c x die i n : Nat) (s : State), (s.ctx c x).wait = .semWait die i n → (s.core c).frozen.contains x = false →
    exec (.semWaitSatisfied c x) s = .next (if n ≤ (s.sem die i).value.toNat then s.updCtx c x (fun k => { k with wait := .none }) else s)) ∧
  (∀ (die i c x n : Nat) (s : State) (rest : List (Nat × Nat)), (s.sem die i).waiters = (c, x) :: rest → (s.ctx c x).wait = .semTake die i n →
    n ≤ (s.sem die i).value.toNat → (s.sem die i).hold = none → (s.core c).frozen.contains x = false →
    ∃ t, exec (.semTakeServed die i) s = .next t ∧ t.mem = s.mem ∧ t.cores = s.cores ∧ ∃ o : Option Hold, ∃ g : SemSeen,
      (o = none ↔ (s.sem die i).lock = false) ∧ (∀ v, o = some v → v.core = c ∧ v.ctx = x ∧ v.n = n ∧ v.since = s.time ∧ v.us = max 1 (s.sem die i).holdUs.toNat) ∧
      t = (s.setSem die i { s.sem die i with value := (s.sem die i).value - BitVec.ofNat 32 n, waiters := rest, hold := o }).updCtx c x
        (fun k => { k with wait := .none, seen := k.seen ++ [g] }))) ∧
  (∀ (p i : Nat) (s : State) (b : Bar), i < 255 → s.bar p 0 i = b → bit b.inSpan 0 = false → b.inEn = true →
    (b.arrivals.length < max 1 b.inArrive → exec (.barrierOpen p i true) s = .next s) ∧
    (∀ c x, b.arrivals = [some (c, x)] → b.inArrive ≤ 1 → (s.ctx c x).wait = .barrier p 0 i → (s.core c).saved = none →
      ∃ b' : Bar, b'.epoch = b.epoch + 1 ∧ b'.arrivals = [] ∧ b'.inEn = b'.en ∧ b'.en = b.en ∧
        exec (.barrierOpen p i true) s = .next ((s.updCtx c x (fun k => { k with wait := .none })).setBar p 0 i b')))

/-! ### Issue, the instruction cache and tile-threads (R38, R40, R59, R67 to R69) -/

/-- R40: the context that issued last goes on unless its bundle yielded or it cannot issue; then the next ready context in turn
issues; with none ready nothing happens. Of the core only the order bits of its instruction cache change besides. R35: a legal bundle that
raises no fault runs its slots on the state before it, and the next bundle follows or the tile-thread ends. R59: a line fill brings the missed
line and the next one; the context that waited for it goes on. -/
def Obligations.BundleIssues : Prop :=
  (∀ (c x : Nat) (s : State) (b : Bundle) (before after : List Nat),
    let k := s.core c
    let turn := (List.range 4).map (fun i => (k.lastCtx + 1 + i) % 4)
    (if k.lastYield then turn else k.lastCtx :: turn.filter (· ≠ k.lastCtx)) = before ++ x :: after →
    (∀ y ∈ before, s.fetch c y = .busy) → s.fetch c x = .bundle b →
    ∃ q : Core, exec (.bundleIssue c) s = .next ((s.setCore c q).issue c x b) ∧
      (∀ l, (∃ w bs, (k.iset l).find l = some (w, bs)) → ∃ w bs, (q.iset l).find l = some (w, bs)) ∧ q.lmq = k.lmq ∧ q.mq = k.mq ∧
      q.lastCtx = k.lastCtx ∧ q.active = k.active) ∧
  (∀ (c : Nat) (s : State), (∀ x, s.fetch c x = .busy) → exec (.bundleIssue c) s = .next s) ∧
  (∀ (c x : Nat) (b : Bundle) (s t : State), b.illegal = none → (b.var = true → s.varFault c x = false) →
    runSlots c x s b.header b.ops (s.noteIssue c x b.hint) = .ok t →
    let u := t.updCtx c x (fun k => { k with pc := nextPc (s.ctx c x) b.ops })
    s.issue c x b = if bundleEnds (s.ctx c x) b.ops then u.endThread c x else u) ∧
  (∀ (c x a : Nat) (s : State), (s.ctx c x).wait = .line a → s.poisoned (512 * (a / 512)) 512 = false →
    mappedSpan (512 * (a / 512)) 512 = true → (s.core c).victim.isSome = true ∨ s.regOpen (s.partOf c x) 0 = true →
    ∃ t, exec (.icacheLineFill c x) s = .next t ∧ t.mem = s.mem ∧ t.ctxs = (s.updCtx c x (fun k => { k with wait := .none })).ctxs ∧
      (((s.core c).iset (a / 512)).find (a / 512) = none →
        ∃ w, ((t.core c).iset (a / 512)).find (a / 512) = some (w, s.seenBytes (512 * (a / 512)) 512)))

/-- R38, R67, R68, R69: a free context of a started launch begins its next tile-thread. In fixed distribution that is the one at its
position; in claim distribution it comes from the context's claim, or from a new claim of CLAIM_CHUNK. The registers of the context are
those of R38. -/
def Obligations.TileThreadStarts : Prop :=
  ∀ (c x key : Nat) (s : State) (l : Launch), s.launch key = some l → (s.ctx c x).launch = some key → (s.ctx c x).tt = none →
    l.started = true → l.killed = false → l.again = [] → l.exhausted.contains (4 * c + x) = false → (s.core c).frozen.contains x = false →
    (s.core c).stop = none → (s.core c).power = .run → s.engineOf l.part .core c = true →
    let k := s.ctx c x
    let begins (u : State) (i : Nat) (g : Ctx → Ctx) : Prop :=
      ∃ t, exec (.tileThreadStart c x key) s = .next t ∧ t.mem = s.mem ∧ t.sems = s.sems ∧
        (∃ l' o, t.launch key = some l' ∧ u.launch key = some o ∧ l'.begun = o.begun + 1 ∧ l'.ended = o.ended) ∧
        ∃ k', t.ctx c x = k' ∧ k'.tt = some { launch := key, index := i } ∧ k'.wait = .none ∧ k'.pc = BitVec.ofNat 48 (l.code + l.k.entry) ∧
          k'.getS 1 = BitVec.ofNat 64 i ∧ k'.getA 1 = BitVec.ofNat 48 l.e.arg ∧ (∀ r, r ≠ 1 → k'.getS r = 0 ∧ k'.getA r = 0) ∧
          (∀ r i, k'.getV r i = 0) ∧ (∀ r, r ≠ 0 → k'.getP r = 0) ∧ (∀ r < 64, k'.getD r = l.dregs.getD r 0) ∧ k'.k = (g k).k ∧
          k'.chunkNext = (g k).chunkNext ∧ k'.chunkEnd = (g k).chunkEnd ∧ k'.accTiles = k.accTiles ∧ k'.spadBase = k.spadBase
    (l.e.dist = false → let i := k.k * (maskList 128 l.e.mask).length + (maskList 128 l.e.mask).idxOf c
      i < l.e.total → begins s i (fun k => { k with k := k.k + l.e.ctxs })) ∧
    (l.e.dist = true → k.chunkNext < k.chunkEnd → begins s k.chunkNext (fun k => { k with chunkNext := k.chunkNext + 1 })) ∧
    (l.e.dist = true → k.chunkEnd ≤ k.chunkNext → (s.claim l.e.claimDie l.e.claimIdx).reclaim = [] →
      let b := (s.claim l.e.claimDie l.e.claimIdx).value.toNat
      b < l.e.total → begins s b (fun k => { k with chunkNext := b + 1, chunkEnd := Min.min (b + l.e.claimChunk) l.e.total }))

/-! ### Queue pairs and their entries (R285 to R290, R295, R303) -/

namespace Sys2Proof.Machine

/-- The queue with the entry at its head taken. -/
def Qp.taking (x : Qp) (e : QpEntry) : Qp :=
  { x with fetch := (x.fetch + 1) % 2 ^ x.sqLog, taken := x.taken + 1, entries := x.entries ++ [e] }

/-- The queue with its entry at `a` completed. -/
def Qp.ending (x : Qp) (a : Nat) (d : QpDue) : Qp := { x with entries := x.entries.filter (fun e => e.at_ ≠ a), due := x.due ++ [d] }

end Sys2Proof.Machine

/-- R286, R288 to R290 and R303: what happens to the entry at the head of a queue. An accepted COPY and FENCE are in execution, an
accepted LAUNCH waits under a key of its own, an ADD_SEQ waits for the tick, and a type the spec does not list completes with
ST_BAD_PARAM (0x11). R285: a doorbell write sets the tail of the submission ring or the head of the completion ring; outside the partition's
range it only counts. -/
def Obligations.QueueEntries : Prop :=
  (∀ (q : Nat) (s : State) (x : Qp) (e : QpEntry) (bad : Bool), s.nextEntry q = some (x, e, bad) → s.qp q = some x → x.discard = false →
    let holds (u : State) (e' : QpEntry) : Prop := u.qps = tins s.qps q (x.taking e') ∧ u.mem = s.mem ∧ u.parts = s.parts
    (e.ty = 0 ∨ 5 < e.ty → ∃ t, exec (.unlistedEntryType q) s = .next t ∧ t.mem = s.mem ∧
      ∃ d : QpDue, d.status = 0x11 ∧ d.tag = e.tag ∧ d.ty = e.ty ∧ t.qp q = some ((x.taking e).ending e.at_ d)) ∧
    (e.ty = 2 → bad = false → bits (e.w 3) 40 24 = 0 → e.tailBad 4 = false → s.varDenied x.part e = false →
      s.awOk x.part (e.words.getD 1 0) e.copyLen true false = true → s.awOk x.part (e.words.getD 2 0) e.copyLen false true = true →
      ∃ t, exec (.copy q) s = .next t ∧ holds t { e with started := true } ∧ t.copies = s.copies ++ [{ qp := q, at_ := e.at_ }]) ∧
    (e.ty = 5 → bad = false → bits (e.w 1) 14 18 = 0 → bits (e.w 2) 14 18 = 0 → e.tailBad 3 = false → s.varDenied x.part e = false →
      ∃ t, exec (.fenceEntry q) s = .next t ∧ holds t { e with started := true }) ∧
    (e.ty = 3 → exec (.addSeq q) s = .next { s with qps := tins s.qps q { x with held := true } }) ∧
    (e.ty = 1 → (∀ im k, s.checkLaunch x.part e.var (parseLaunch e.w (bad || e.tailBad 12)) = .ok (im, k) →
      ∃ t l y, exec (.launch q) s = .next t ∧ t.mem = s.mem ∧ t.nextLaunch = s.nextLaunch + 1 ∧ (x.cls = true → holds t { e with key := s.nextLaunch }) ∧
        t.qp q = some y ∧ y.entries = x.entries ++ [{ e with key := s.nextLaunch }] ∧ y.fetch = (x.fetch + 1) % 2 ^ x.sqLog ∧
        t.launches = tins s.launches s.nextLaunch l ∧ l.part = x.part ∧ l.qp = q ∧ l.lc = x.cls ∧ l.tag = e.tag ∧ l.code = im.code ∧ l.k = k ∧
        l.started = false ∧ l.begun = 0 ∧ l.ended = 0 ∧ l.engines = []) ∧
      (∀ st, s.checkLaunch x.part e.var (parseLaunch e.w (bad || e.tailBad 12)) = .error st →
        ∃ t, exec (.launch q) s = .next t ∧ t.mem = s.mem ∧ t.launches = s.launches ∧
          ∃ d : QpDue, d.status = st ∧ d.tag = e.tag ∧ t.qp q = some ((x.taking e).ending e.at_ d)))) ∧
  (∀ (p : Nat) (v : W64) (s : State),
    let n := v.toNat % 2 ^ 18
    let idx := v.toNat / 2 ^ 20 % 2 ^ 16
    (s.qpIn p n = true → ∀ x, s.qp n = some x → 
      let y := if v.getLsbD 18 then { x with cqHead := idx % 2 ^ x.cqLog } else { x with sqTail := idx % 2 ^ x.sqLog }
      exec (.qeDoorbellWrite p v) s = .next { s with qps := tins s.qps n y }) ∧
    (s.qpIn p n = false → ∀ q, oget s.parts p = some q →
      exec (.qeDoorbellWrite p v) s = .next { s with parts := tins s.parts p { q with badDoorbell := q.badDoorbell + 1 } }))

/-- R287, R290, R295: a COPY whose ranges do not overlap moves its bytes; a FENCE whose wait is met signals and completes; the oldest
completion is written to its slot with the phase, and the ring's tail moves; a refill adds each regulator's rate up to its burst, and flits that
waited for it leave. -/
def Obligations.QueueCompletions : Prop :=
  (∀ (q : Nat) (s : State) (x : Qp) (e : QpEntry) (k : Copy), s.copies.filter (fun c => c.qp = q) = [k] → s.qp q = some x →
    x.entries = [e] → e.at_ = k.at_ → e.failed = false → x.destroy = none → x.discard = false →
    let src := e.words.getD 1 0
    let dst := e.words.getD 2 0
    (awHost src = true ∨ awHost dst = true → s.hostOpen x.part = true ∧ s.regOpen x.part 3 = true) →
    (e.copySpans ≠ [] → s.regOpen x.part 0 = true) →
    ∃ t, exec (.copyDone q 0) s = .next t ∧ t.copies = s.copies.filter (· ≠ k) ∧
      (∃ d : QpDue, d.status = 0 ∧ d.tag = e.tag ∧ t.qp q = some (x.ending e.at_ d)) ∧
      (awHost src ≠ awHost dst ∨ awAddr src + e.copyLen ≤ awAddr dst ∨ awAddr dst + e.copyLen ≤ awAddr src →
        let u := s.awWrite x.part dst
          (if awHost src then s.hostBytes x.part (awAddr src) e.copyLen else s.seenBytes (awAddr src) e.copyLen)
        t.mem = u.mem ∧ t.host = u.host ∧ t.fresh = s.fresh)) ∧
  (∀ (q : Nat) (s : State) (x : Qp) (e : QpEntry), s.qp q = some x → x.entries = [e] → e.ty = 5 → x.destroy = none → x.discard = false →
    (bit (e.w 2) 13 = true → s.semIn x.part (bits (e.w 2) 0 12) = true) → (bit (e.w 1) 13 = true → s.semIn x.part (bits (e.w 1) 0 12) = true ∧
      e.w 1 >>> 32 ≤ (s.sem (bits (e.w 1) 12 1) (bits (e.w 1) 0 12)).value.toNat) →
    ∃ t, exec (.fenceEntryComplete q) s = .next t ∧ t.mem = s.mem ∧
      t.sems = (if bit (e.w 2) 13 then s.signalOr x.part (bits (e.w 2) 12 1) (bits (e.w 2) 0 12) (e.w 2 >>> 32) else s).sems ∧
      ∃ d : QpDue, d.status = 0 ∧ d.tag = e.tag ∧ t.qp q = some (x.ending e.at_ d)) ∧
  (∀ (q : Nat) (s : State) (x : Qp) (d : QpDue) (rest : List QpDue), s.qp q = some x → x.due = d :: rest → x.destroy = none →
    (x.cqTail + 1) % 2 ^ x.cqLog ≠ x.cqHead → (awHost x.cqAddr = true → s.hostOpen x.part = true ∧ x.stopped = false) →
    let u := s.awWrite x.part (x.cqAddr + BitVec.ofNat 64 (64 * x.cqTail)) (d.bytes x.cqPhase x.head)
    ∃ t, exec (.qpCompletionPost q) s = .next t ∧ t.mem = u.mem ∧ t.host = u.host ∧
      ∃ y, t.qp q = some y ∧ y.due = rest ∧ y.cqTail = (x.cqTail + 1) % 2 ^ x.cqLog ∧ y.entries = x.entries ∧ y.sqHead = x.head ∧
        y.cqPhase = (if (x.cqTail + 1) % 2 ^ x.cqLog = 0 then !x.cqPhase else x.cqPhase)) ∧
  (∀ (s : State),
    let u : State := { s with parts := s.parts.map (fun kq => (kq.1, { kq.2 with regs := kq.2.regs.map (fun r =>
      if r.rate = 0xFFFFFFFF then r else { r with balance := Min.min (r.balance + r.rate) r.burst }) })) }
    exec .regulatorRefill s = .next u.pushFlits ∧ (s.outbox = [] → u.pushFlits = u))


/-! ### Launches on engines (R70, R288, R289, R291, R292, R296, R297, R300) -/

namespace Sys2Proof.Machine

/-- No context of a core is given to a launch and nothing of a pre-emption stands on it. -/
structure CoreVacant (s : State) (c : Nat) : Prop where
  ctxs : ∀ x < 4, (s.ctx c x).launch = none
  saved : (s.core c).saved = none
  frozen : (s.core c).frozen = []
  stop : (s.core c).stop = none

end Sys2Proof.Machine

/-- R291 and R38: a free core, unit or engine is given to the launch that the rule chooses, a latency-critical launch before every
best-effort one; a core's contexts then hold what R38 and R288 give them. -/
def Obligations.EngineDispatch : Prop :=
  (∀ (k : EngineKind) (n key m : Nat) (lcOnly : Bool) (s : State) (l o : Launch), s.choose k n lcOnly = some (key, l) → (m, o) ∈ s.launches →
    s.ready4 k n o = true → o.lc = true → l.lc = true ∧ l.order ≤ o.order) ∧
  (∀ (c key : Nat) (s : State) (l : Launch), CoreVacant s c → (s.core c).viaOff = false → s.choose .core c false = some (key, l) →
    l.e.ctxs ≤ 4 → ∃ t, exec (.engineDispatch .core c) s = .next t ∧
      (∀ i < l.e.ctxs, t.ctx c i = { Ctx.reset with
        accTiles := l.e.accTiles, lastHandle := l.e.accTiles - 1, launch := some key, k := (oget l.posns (4 * c + i)).getD i, spadBase := (l.e.wbase + i * l.e.winu) * 65536, spadSize := l.e.winu * 65536,
        kfc := l.k.kfc, chain := l.k.chains, kmode := l.k.kmode }) ∧
      (∀ i, i < 4 * c ∨ 4 * c + l.e.ctxs ≤ i → tget (fun _ => Ctx.reset) t.ctxs i = tget (fun _ => Ctx.reset) s.ctxs i) ∧ t.sems = s.sems ∧
      t.qps = s.qps ∧ ∀ o, s.launch key = some o → t.launch key = some { o with engines := o.engines ++ [c] }) ∧
  (∀ (u key : Nat) (s : State) (l : Launch), (s.fox u).launch = none → s.choose .fox u false = some (key, l) →
    ∃ t, exec (.engineDispatch .fox u) s = .next t ∧ (t.fox u).launch = some key ∧ (t.fox u).k = (oget l.posns u).getD 0 ∧
      (t.fox u).part = some l.part ∧ t.mem = s.mem) ∧
  (∀ (e key : Nat) (s : State) (l : Launch), (s.prim e).launch = none → s.choose .prim e false = some (key, l) →
    ∃ t, exec (.engineDispatch .prim e) s = .next t ∧ (t.prim e).launch = some key ∧ (t.prim e).part = some l.part ∧ t.mem = s.mem)

/-- R70, R289, R62: a launch of the host that is done completes: its entry leaves the queue with status 0, its faults, widened tiles
and empty rows; its fault record, if any, is stored, and its semaphore signalled; the launch is gone. R288: a launch whose wait is met and that has an engine starts: its descriptor block is read into the D values, and in claim
distribution its claim counter becomes 0; a word of the block that is no window offset ends it with ST_BAD_PARAM. -/
def Obligations.LaunchLifetime : Prop :=
  (∀ (key : Nat) (s : State) (l : Launch) (x : Qp), s.launch key = some l → s.launchDone key l = true → l.step = none →
    s.bounds = [] → s.qp l.qp = some x → x.destroy = none → x.discard = false →
    ∃ t, exec (.launchComplete key) s = .next t ∧ t.launches = tdrop s.launches key ∧
      (l.record = none → t.mem = s.mem) ∧
      (∀ i ws, l.record = some (i, ws) → t.mem = (if l.e.faultAddr ≠ 0 ∧ s.permits l.part l.e.faultAddr 64 false true false
        then s.write l.e.faultAddr (wordsLe ws) else s).mem) ∧
      (l.e.sig = none → t.sems = s.sems) ∧ (∀ d i, l.e.sig = some (d, i) → t.sems = (s.signalOr l.part d i 1).sems) ∧
      ∃ d : QpDue, d.status = 0 ∧ d.faults = (if l.killed then l.faulted.length + (l.e.total - l.ended) else l.faulted.length) ∧
        d.widen = l.widen ∧ d.emptyRow = l.emptyRow ∧ d.tag = l.tag ∧ d.ty = 1 ∧
        ∃ y : Qp, t.qp l.qp = some y ∧ y.entries = x.entries.filter (fun e => e.at_ ≠ l.at_) ∧ y.due = x.due ++ [d] ∧ y.fetch = x.fetch) ∧
  (∀ (key : Nat) (s : State) (l : Launch), s.launch key = some l → l.started = false → l.engines ≠ [] → s.launchOpen l = true →
    s.holdsLaunches l.part = false → s.rungHolds l = false → dregBad l.e.winu (s.dregWords l.e.dreg) = false →
    ∃ t, exec (.launchStart key) s = .next t ∧ t.launches = tins s.launches key { l with started := true, dregs := s.dregWords l.e.dreg } ∧
      t.mem = s.mem ∧ t.ctxs = s.ctxs ∧ t.claims = (if l.e.dist then s.setClaim l.e.claimDie l.e.claimIdx Claim.reset else s).claims ∧
      (l.step = none → ∀ x, s.qp l.qp = some x → ∃ y, t.qp l.qp = some y ∧ y.due = x.due ∧
        ∀ e ∈ x.entries, (if e.at_ = l.at_ then { e with started := true } else e) ∈ y.entries)) ∧
  (∀ (key : Nat) (s : State) (l : Launch) (x : Qp) (e : QpEntry), s.launch key = some l → l.started = false → l.engines ≠ [] →
    s.launchOpen l = true → s.holdsLaunches l.part = false → s.rungHolds l = false → dregBad l.e.winu (s.dregWords l.e.dreg) = true →
    l.step = none → s.qp l.qp = some x → x.entries.find? (fun e => e.at_ = l.at_) = some e → x.destroy = none → x.discard = false →
    ∃ t, exec (.launchStart key) s = .next t ∧ t.launches = tdrop s.launches key ∧ t.mem = s.mem ∧
      ∃ (d : QpDue) (y : Qp), d.status = 0x11 ∧ d.tag = e.tag ∧ t.qp l.qp = some y ∧ y.entries = x.entries.filter (fun e => e.at_ ≠ l.at_) ∧
        y.due = x.due ++ [d])

/-- R291, R294, R296, R297: the latency-critical launch that a shared core would be given first stops the core's best-effort contexts, which
count as pre-empted and leave the wait lists of their semaphores; where it fits the room they leave, it takes its contexts there at once;
otherwise the core is saved, passes to it with an empty instruction cache, charged for the save, and afterwards gives the contexts back as they
were. R300: revoking a hold that has reached its limit adds N back, clears the holder, counts, and raises SEM_REVOKED (code 0xA) at the
tile-thread that took it; before the limit nothing happens. -/
def Obligations.Preemption : Prop :=
  ((∀ (c key bk : Nat) (s : State) (l b : Launch), s.launch key = some l → s.coreHolder c = some (bk, b) → b.lc = false →
    s.choose .core c true = some (key, l) → s.engineShared b.part .core c = true → (s.core c).stop = none → (s.core c).saved = none →
    (s.core c).frozen = [] → s.holdsLock c = false →
    let xs := s.ctxsOf c bk
    let u := (xs.foldl (fun (u : State) x => u.leaveWaits c x) (s.updPart b.part (fun p => { p with preempts := p.preempts + 1 }))).updCore c
      (fun k => { k with frozen := xs, stopAt := l.since, victim := some b.part })
    (fitsRoom l b = false → exec (.preempt c key) s = .next (u.updCore c (fun k => { k with stop := some key }))) ∧
    (fitsRoom l b = true → exec (.preempt c key) s = .next (u.giveCoreTo c key l (4 - l.e.ctxs)))) ∧
  (∀ (c key bk : Nat) (s : State) (l b : Launch), (s.core c).stop = some key → s.launch key = some l → s.coreHolder c = some (bk, b) →
    (s.core c).drain = none → (s.core c).writing = [] → (s.core c).viaOff = false → 0 < l.e.ctxs → l.e.ctxs ≤ 4 →
    let n := s.saveBytes c b (s.core c).frozen
    ∃ t v, exec (.preemptSaveDone c) s = .next t ∧ (t.core c).saved = some v ∧ (t.core c).stop = none ∧ (t.core c).frozen = [] ∧
      (t.core c).icache = [] ∧ (t.core c).lmq = [] ∧ (t.core c).smq = [] ∧ (t.core c).mq = [] ∧ (t.core c).drains = [] ∧ (t.core c).lmm = [] ∧
      (t.core c).tail = [] ∧ (t.core c).lrun = none ∧ v = s.saved c b (s.core c).frozen n ∧
      v.ctxs = (s.core c).frozen.map (fun x => (x, s.ctx c x)) ∧ v.lmq = (s.core c).lmq ∧ v.smq = (s.core c).smq ∧ v.mq = (s.core c).mq ∧
      v.spad = (s.core c).frozen.map (fun x => ((s.ctx c x).spadBase, s.bytes (spadSlot c + (s.ctx c x).spadBase) (b.e.liveu * 65536))) ∧
      (t.ctx c 0).launch = some key ∧
      ∀ p, oget s.parts l.part = some p → ∃ p', oget t.parts l.part = some p' ∧ p'.acctCore = p.acctCore + 12 * ceilDiv n 640) ∧
  (∀ (c bk : Nat) (s : State) (v : Saved), (∀ y < 4, (s.ctx c y).launch = none) → (s.core c).stop = none →
    (s.core c).saved = some v → v.ctxs ≠ [] → (∀ w ∈ v.ctxs, w.2.launch = some bk) → v.ctxs.Pairwise (fun a b => a.1 ≠ b.1) →
    let u := match s.launch bk with
      | some l => s.giveCore l.part c
      | none => s
    ∃ t, exec (.preemptRestore c) s = .next t ∧ (∀ w ∈ v.ctxs, t.ctx c w.1 = w.2) ∧ (t.core c).saved = none ∧ (t.core c).lmq = v.lmq ∧
      (t.core c).smq = v.smq ∧ (t.core c).mq = v.mq ∧ (t.core c).drains = v.drains ∧ (t.core c).lrun = v.lrun ∧ (t.core c).lmm = v.lmm ∧
      (t.core c).tail = v.tail ∧ (t.core c).icache = [] ∧
      t.mem = (v.spad.foldl (fun (u : State) w => u.write (spadSlot c + w.1) w.2) u).mem)) ∧
  (∀ (die i : Nat) (s : State) (h : Hold) (l : Launch), (s.sem die i).hold = some h →
    (s.time < h.since + 8000 * h.us → exec (.semHoldRevoke die i) s = .next s) ∧
    (h.since + 8000 * h.us ≤ s.time → s.launch h.by_.launch = some l → l.step = none →
    (s.sem die i).value.toNat + h.n < 2 ^ 32 →
    ∃ e : CoreFault, e.code = 0xA ∧ exec (.semHoldRevoke die i) s = .next
      ((((s.setSem die i { s.sem die i with hold := none }).setSem die i
        { s.sem die i with hold := none, value := BitVec.ofNat 32 ((s.sem die i).value.toNat + h.n) }).updPart l.part
          (fun p => { p with revoke := p.revoke + 1 })).lateFault h.core h.ctx (s.ctx h.core h.ctx).pc.toNat h.by_ e)))


/-! ### Foxglove, Primrose and the page maps (R132 to R145, R152 to R156, R189 to R194) -/

namespace Sys2Proof.Machine

/-- Word `n` of 64 bits that a read at device address `a` finds. -/
def State.word (s : State) (a n : Nat) : Nat := s.seenLe (a + 8 * n) 8

end Sys2Proof.Machine

/-- R132, R136, R141, R152, R154: a unit reads the next item of its share; it waits while its map is locked, else pins the epoch; a
page it needs and does not hold comes from the tables into its buffer; the item's outputs are written when every head is done, and
nothing else of memory changes. -/
def Obligations.FoxgloveItem : Prop :=
  (∀ (u key : Nat) (s : State) (l : Launch), (s.fox u).launch = some key → s.launch key = some l → (s.fox u).item = none → l.started = true →
    l.killed = false → l.again = [] → (s.fox u).power = .run → s.engineOf l.part .fox u = true → s.regOpen l.part 0 = true →
    let n := (s.fox u).k * (maskList 32 l.e.mask).length + (maskList 32 l.e.mask).idxOf u
    let a := l.e.arg + 64 * n
    n < l.e.e0 → s.permits l.part a 64 true false false = true → (bit (s.word a 6) 13 = true → s.semIn l.part (bits (s.word a 6) 0 12) = true) →
    ∃ t i, exec (.foxItemStart u) s = .next t ∧ (t.fox u).item = some i ∧ (t.fox u).k = (s.fox u).k + 1 ∧ i.launch = key ∧ i.idx = n ∧ i.phase = 0 ∧
      i.words = (List.range 8).map (fun j => BitVec.ofNat 64 (s.word a j)) ∧ t.launch key = some { l with begun := l.begun + 1 } ∧ t.mem = s.mem) ∧
  (∀ (u id : Nat) (s : State) (i : FoxItem) (l : Launch) (e : MapE) (q : Seq), (s.fox u).item = some i → s.launch i.launch = some l →
    (i.phase = 1 ∨ i.phase = 0 ∧ (bit (i.w 6) 13 = true → i.w 6 / 2 ^ 32 ≤ (s.sem (bits (i.w 6) 12 1) (bits (i.w 6) 0 12)).value.toNat)) →
    tget (fun _ => Seq.free) s.seqs (bits (i.w 0) 0 16) = q → s.mapAt l.part q.map = some (id, e) → q.state ≠ 0 → q.part = l.part → s.regOpen l.part 0 = true →
    (e.lock = true → i.phase = 0 → exec (.mapEpochPin u) s =
      .next (s.setFox u { s.fox u with item := some { i with phase := 1, lockSince := s.time } })) ∧
    (e.lock = true → i.phase = 1 → exec (.mapEpochPin u) s = .next s) ∧
    (e.lock = false → i.phase = 0 → oget s.maps id = some e → ∀ b bs rd, ((s.pin id).updFox u (fun f => { f with pinWait := f.pinWait + 0 })).foxCheck
        { i with phase := 2, map := id, lens := q.lens } l e.header = .ok (b :: bs, rd) →
      ∃ t j, exec (.mapEpochPin u) s = .next t ∧ (t.fox u).item = some j ∧ j.phase = 2 ∧ j.map = id ∧ j.lens = q.lens ∧ j.visit = b :: bs ∧
        j.todo = b :: bs ∧ j.h = i.h ∧ oget t.maps id = some { e with pins := e.pins + 1 } ∧ t.mem = s.mem)) ∧
  (∀ (u page : Nat) (s : State) (i : FoxItem) (l : Launch), (s.fox u).item = some i → s.launch i.launch = some l → s.regOpen l.part 0 = true →
    let r := s.stream (s.mapHeader i.map) i.kstream
    let v := tget (fun _ => LabSet.empty) (s.fox u).lab (labSet page)
    i.nextPage r.pgsz = some page →
    (∀ w e, v.find i.map i.kstream page = some (w, e) → let old : LabSet := { v with plru := touchTree v.plru w }
      exec (.foxLabFill u page) s = .next (s.setFox u { s.fox u with
        lab := tput (fun _ => LabSet.empty) (s.fox u).lab (labSet page) old, item := some (i.gotPage r.pgsz e) })) ∧
    (∀ e, v.find i.map i.kstream page = none → s.walk l.part i.map r i.kstream page = .ok e →
      exec (.foxLabFill u page) s = .next ((s.setFox u { s.fox u with
        lab := tput (fun _ => LabSet.empty) (s.fox u).lab (labSet page) (v.place e), labMiss := (s.fox u).labMiss + 1, item := some (i.gotPage r.pgsz e) }).chargeLines l.part (s.walkReads r page)))) ∧
  (∀ (u b : Nat) (s : State) (i : FoxItem) (l : Launch) (rest : List Nat), (s.fox u).item = some i → s.launch i.launch = some l →
    i.todo = b :: rest → i.phase = 2 → i.h < i.nh → i.done < i.blk → s.regOpen l.part 0 = true →
    let c := parseAcfg l.k.acfg
    let rk := s.stream (s.mapHeader i.map) i.kstream
    let n := Min.min 256 (i.len i.kstream - 256 * b)
    s.checkSpans l.part true false ((rk.coord + 8 * 256 * b, 8 * n) :: (s.queryRows i (s.stream (s.mapHeader i.map) i.qstream)).map
      (fun e => (i.w 3 % 2 ^ 48 + e.1 * c.qstride + (i.h0 + i.h) * c.d * elemBytes c.qfmt, c.d * elemBytes c.qfmt))) = none →
    (∀ j < n, coordBad (s.seenLe (rk.coord + 8 * (256 * b + j)) 8) = false) →
    ∃ t j, exec (.foxBlockCompute u) s = .next t ∧ (t.fox u).item = some j ∧ (t.fox u).visit = (s.fox u).visit + 1 ∧ t.mem = s.mem ∧
      j.visit = i.visit ∧ j.blk = i.blk ∧ (rest ≠ [] → j.todo = rest ∧ j.h = i.h ∧ j.outs = i.outs) ∧ (rest = [] → j.todo = i.visit ∧ j.h = i.h + 1)) ∧
  (∀ (u : Nat) (s : State) (i : FoxItem) (l : Launch), (s.fox u).item = some i → s.launch i.launch = some l → s.regOpen l.part 0 = true → i.phase = 2 → i.nh ≤ i.h →
    s.checkSpans l.part false true (i.outs.map (fun o => (o.1, o.2.length))) = none →
    (bit (i.w 7) 13 = true → (s.sem (bits (i.w 7) 12 1) (bits (i.w 7) 0 12)).value.toNat < 2 ^ 32 - 1) →
    ∃ t o, exec (.foxItemComplete u) s = .next t ∧ (t.fox u).item = none ∧ t.launch i.launch = some o ∧ o.ended = l.ended + 1 ∧
      o.begun = l.begun ∧ t.mem = (s.writes i.outs).mem ∧
      (∀ a, (∀ w ∈ i.outs, a < w.1 ∨ w.1 + w.2.length ≤ a) → t.rawByte a = s.rawByte a))

/-- R189, R191 to R196 and R156: an engine reads the next job of its share; a well-formed job whose wait is met writes its outputs and
signals; a malformed one faults with code 0x20. A batch of map edits raises the map's epoch by one and leaves LOCK clear. -/
def Obligations.PrimroseAndMaps : Prop :=
  (∀ (e key : Nat) (s : State) (l : Launch), (s.prim e).launch = some key → s.launch key = some l → (s.prim e).job = none → l.started = true →
    l.killed = false → l.again = [] → (s.prim e).power = .run → s.primTurn e l = true → s.engineOf l.part .prim e = true → s.regOpen l.part 0 = true →
    let n := (s.prim e).k * (maskList 4 l.e.mask).length + (maskList 4 l.e.mask).idxOf e
    let a := l.e.arg + 128 * n
    n < l.e.e0 → s.permits l.part a 128 true false false = true → (bit (s.word a 10) 13 = true → s.semIn l.part (bits (s.word a 10) 0 12) = true) →
    ∃ t b, exec (.primJobStart e) s = .next t ∧ (t.prim e).job = some b ∧ (t.prim e).k = (s.prim e).k + 1 ∧ b.launch = key ∧ b.idx = n ∧
      b.words = (List.range 16).map (fun j => BitVec.ofNat 64 (s.word a j)) ∧ t.launch key = some { l with begun := l.begun + 1 } ∧ t.mem = s.mem) ∧
  (∀ (e : Nat) (s : State) (b : PrimJob) (l : Launch), (s.prim e).job = some b → s.launch b.launch = some l → s.regOpen l.part 0 = true →
    let j := parseJob b.words
    (∀ die k, j.wsem = some (die, k) → j.wval ≤ (s.sem die k).value.toNat) →
    (j.malformed = true → ∃ t o, exec (.primJobComplete e) s = .next t ∧
      (∀ a, (∀ w ∈ j.outSpans, a < w.1 ∨ w.1 + w.2 ≤ a) → t.rawByte a = s.rawByte a) ∧ (t.prim e).job = none ∧ t.launch b.launch = some o ∧
      o.ended = l.ended + 1 ∧ b.idx ∈ o.faulted) ∧
    (j.malformed = false → (∀ die k, j.ssem = some (die, k) → s.semIn l.part k = true ∧ (s.sem die k).value.toNat < 2 ^ 32 - 1) →
      s.checkSpans l.part true false j.reads = none →
      let ws := if j.op = 1 then s.convOut j else s.cscOut j
      s.checkSpans l.part false true j.outSpans = none →
      ∃ t o, exec (.primJobComplete e) s = .next t ∧ t.mem = (s.writes ws).mem ∧ (t.prim e).job = none ∧ t.launch b.launch = some o ∧
        o.ended = l.ended + 1 ∧ o.faulted = l.faulted ∧
        ∀ die k, j.ssem = some (die, k) → t.sems = (s.setSem die k { s.sem die k with value := (s.sem die k).value + 1 }).sems)) ∧
  (∀ (m : Nat) (s : State) (e : MapE), oget s.maps m = some e → e.lock = true →
    ∃ t e', exec (.mapEditBatch m) s = .next t ∧ oget t.maps m = some e' ∧ e'.lock = false ∧ e'.queue = [] ∧ e'.pins = e.pins ∧
      e'.epoch = e.epoch + (if e.queue = [] then 0 else 1) ∧ (e.queue = [] → t.mem = s.mem))


/-! ### DRAM, the flash store and weight windows (R198 to R210, R215, R222 to R228, R232 to R249, R253, R363, R434) -/

/-- R202 to R210, R215, R434: what the controllers of DRAM do at their events: the hot window, sparing of a row, the patrol, refresh,
a channel's power-down; and a region's removal or loss of permissions once the operations before it are done. -/
def Obligations.DramEvents : Prop :=
  (∀ (d ch lines total gran : Nat) (s : State),
    let u := s.setChan d ch { s.chan d ch with down := (s.chan d ch).down && lines == 0 }
    (¬(20000 ≤ lines ∧ 8 * total ≤ 256 * lines) → exec (.hotWindowEnd d ch lines total gran) s = .next u) ∧
    (20000 ≤ lines → 8 * total ≤ 256 * lines → ∃ t, exec (.hotWindowEnd d ch lines total gran) s = .next t ∧ t.mem = s.mem ∧ t.chans = u.chans ∧
      t.dies = (u.setDie d { s.die d with
        hotWin := (s.die d).hotWin + 1, hotCh := BitVec.ofNat 8 ch, hotGran := BitVec.ofNat 17 gran }).dies ∧
      ∀ k r, s.regions = [(k, r)] → ∃ r', t.regions = [(k, r')] ∧ r'.baseg = r.baseg ∧ r'.lastg = r.lastg ∧
        r'.hotch = r.hotch + (if r.baseg ≤ 131072 * d + gran ∧ 131072 * d + gran ≤ r.lastg then 1 else 0))) ∧
  (∀ (d ch row : Nat) (s : State), 8 ≤ ((s.chan d ch).log.filter (fun e => e.1 = row ∧ s.time ≤ e.2 + day)).length →
    (1024 ≤ (s.chan d ch).spared.length → exec (.dramRowSpare d ch row) s = .next (s.setChan d ch { s.chan d ch with degraded := true })) ∧
    ((s.chan d ch).spared.length < 1024 →
    ∃ t v, exec (.dramRowSpare d ch row) s = .next t ∧ t.mem = s.mem ∧ t.poison = s.poison ∧ t.chan d ch = v ∧
      v.spared = row :: (s.chan d ch).spared ∧ v.log = (s.chan d ch).log.filter (fun e => e.1 ≠ row) ∧ (v.degraded = true ↔ 1023 ≤ (s.chan d ch).spared.length) ∧
      (t.die d).spareUsed = (s.die d).spareUsed + 1)) ∧
  (∀ (d : Nat) (s : State),
    let a := dieBytes * d + 64 * (s.die d).patrol
    let u := (s.setDie d { s.die d with patrol := ((s.die d).patrol + 1) % 2 ^ 32 })
    let v := u.setChan d (s.rowOf a).1 { s.chan d (s.rowOf a).1 with down := false }
    exec (.dramPatrolScrub d .clean) s = .next v ∧
    (∀ w, exec (.dramPatrolScrub d (.missed w)) s = .next { v with mem := memPut s.mem a (toLe 64 w.toNat) } ∧
      ∃ t, exec (.dramPatrolScrub d (.miscorrected w)) s = .next t ∧ t.mem = memPut s.mem a (toLe 64 w.toNat) ∧ t.poison = s.poison ∧
        ((s.rowOf a).2, s.time) ∈ (t.chan (a / dieBytes) (s.rowOf a).1).log) ∧
    ((∃ t, exec (.dramPatrolScrub d .corrected) s = .next t ∧ t.mem = s.mem ∧ t.poison = s.poison ∧
        ((s.rowOf a).2, s.time) ∈ (t.chan (a / dieBytes) (s.rowOf a).1).log) ∧
      (∃ t, exec (.dramPatrolScrub d .uncorrectable) s = .next t ∧ t.mem = s.mem ∧ lineOf a ∈ t.poison ∧ ∀ l ∈ s.poison, l ∈ t.poison))) ∧
  (∀ (d ch : Nat) (s : State),
    (s.mode = .off → exec (.dramRefresh d ch) s = .next s) ∧
    (s.mode ≠ .off → exec (.dramRefresh d ch) s = .next (s.setChan d ch { s.chan d ch with refresh := ((s.chan d ch).refresh + 1) % 524288 })) ∧
    exec (.dramChannelPowerDown d ch) s = .next (s.setChan d ch { s.chan d ch with down := true })) ∧
  (∀ (p i : Nat) (s : State) (d : RegionDrain) (r : Region), s.drains.find? (fun d => d.part = p ∧ d.idx = i) = some d → s.region p i = some r →
    s.regionBusy p d.marks r = false → ∃ t, exec (.regionDrainDone p i) s = .next t ∧ t.mem = s.mem ∧
      t.drains = s.drains.filter (fun e => !(e.part == p && e.idx == i)) ∧
      (d.keep = none → t.regions = tdrop s.regions (1024 * p + i)) ∧
      (∀ a b c, d.keep = some (a, b, c) → t.regions = tins s.regions (1024 * p + i) { r with r := a, w := b, x := c }))

/-- R234, R236 to R241, R245, R249, R434: what the flash controller does at its events. Every one of them touches the flash store
only, but for what a lost codeword damages. R245, R246 and R262: every second out of Off the credit grows by the accrual up to its maximum;
while it stays above a quarter of the maximum the state stays NORMAL and nothing is posted. -/
def Obligations.FlashEvents : Prop :=
  (∀ (s : State),
    let f := s.flash
    (∀ b dst, f.logical b = none → exec (.flashRelocate b dst) s = .next (s.readBlk b)) ∧
    (∀ b dst q sp sb st, f.logical b = some q → f.spareAt (dieOfBlk b) q dst = some sp → f.stripeOf b = some (sb, st) →
      ∃ t, exec (.flashRelocate b dst) s = .next t ∧ t.flash.phys (dieOfBlk b) q = some sp ∧ t.flash.strs = f.strs ∧ t.mem = s.mem ∧
        t.flash.progBytes = f.progBytes + BitVec.ofNat 64 (16384 * st.valid) + BitVec.ofNat 64 (16384 * 2) ∧
        t.flash.credit = f.credit - 16384 * st.valid - 16384 * 2 ∧ (t.flash.blk b).erases = (f.blk b).erases + 1) ∧
    (∀ b, f.isBad b = true → exec (.programFailure b) s = .next s) ∧
    (∀ b, f.isBad b = false → ∃ t, exec (.programFailure b) s = .next t ∧ t.mem = s.mem ∧ t.flash.grown = f.grown + 1 ∧
      t.flash.isBad b = true ∧ (t.flash.blk b).valid = false ∧ (t.flash.blk b).erases = (f.blk b).erases ∧ t.flash.failed = f.failed ∧
      t.flash.spareLost = f.spareLost + (if dieOfBlk b ∈ f.failed then 0 else blkBytes)) ∧
    (∀ b, f.isBad b = false →
      let n := (f.dieErases.filter (fun e => decide (e.1 = dieOfBlk b ∧ s.time < e.2 + 86400 * 8000000000))).length
      ∃ t, exec (.eraseFailure b) s = .next t ∧ t.mem = s.mem ∧ t.flash.isBad b = true ∧
        t.flash.dieErases = (dieOfBlk b, s.time) :: f.dieErases ∧ (n < 2 → t.flash.failed = f.failed) ∧
        (2 ≤ n → dieOfBlk b < 512 → dieOfBlk b ∈ t.flash.failed)) ∧
    (∀ d, d ∈ f.failed ∨ 512 ≤ d → exec (.dieFailed d) s = .next s) ∧
    (∀ d, d < 512 → d ∉ f.failed → ∃ t, exec (.dieFailed d) s = .next t ∧ t.mem = s.mem ∧ t.flash.failed = f.failed ++ [d] ∧
      tget (fun _ => 0) t.flash.left d = f.dieData d ∧ t.flash.blks = f.blks ∧
      (f.otherFailed d = [] → t.tobjs = s.tobjs ∧ t.wpkgs = s.wpkgs ∧ t.fsnaps = s.fsnaps ∧ t.flash.lost = f.lost) ∧
      (∀ e sb st id k o, e ∈ f.otherFailed d → (sb, st) ∈ f.onBoth d e → (FlashOwner.tobj id, k) ∈ st.live → oget s.tobjs id = some o →
        ∃ o', oget t.tobjs id = some o' ∧ o'.damaged = true)) ∧
    (∀ d n, d ∉ f.failed → exec (.dieRebuild d n) s = .next s) ∧
    (∀ d n, d ∈ f.failed →
      let k := Min.min n (tget (fun _ => 0) f.left d)
      ∃ t, exec (.dieRebuild d n) s = .next t ∧ t.mem = s.mem ∧ tget (fun _ => 0) t.flash.left d = tget (fun _ => 0) f.left d - k ∧
        tget (fun _ => 0) t.flash.rebuilt d = tget (fun _ => 0) f.rebuilt d + k ∧
        t.flash.progBytes = f.progBytes + BitVec.ofNat 64 (16384 * (31 * ceilDiv k (30 * 16384)))) ∧
    (∀ b errs retries, (f.blk b).reads < 1000000 → exec (.readCountCheck b errs retries) s = .next s) ∧
    (∀ b errs retries, 1000000 ≤ (f.blk b).reads → ∃ t, exec (.readCountCheck b errs retries) s = .next t ∧ t.mem = s.mem ∧
      (t.flash.blk b).reads = 0 ∧ t.flash.retry = f.retry + BitVec.ofNat 64 retries ∧
      (errs ≤ 72 → retries = 0 → t.flash.map = f.map ∧ t.flash.progBytes = f.progBytes) ∧
      (∀ q sp, 72 < errs ∨ 0 < retries → f.logical b = some q → f.spareFor (dieOfBlk b) q = some sp → t.flash.phys (dieOfBlk b) q = some sp)) ∧
    (∀ b errs retries, f.holdsData b = false ∨ f.oldestScrub b = false → exec (.retentionScrub b errs retries) s = .next s) ∧
    (∀ b errs retries, f.holdsData b = true → f.oldestScrub b = true → ∃ t, exec (.retentionScrub b errs retries) s = .next t ∧
      t.mem = s.mem ∧ t.flash.scrubs = f.scrubs + 1 ∧ t.flash.retry = f.retry + BitVec.ofNat 64 retries ∧
      (errs ≤ 72 → retries = 0 → t.flash.map = f.map ∧ (t.flash.blk b).scrub = f.scrubs + 1)) ∧
    (∀ g q, f.eraseRange.2 ≤ f.eraseRange.1 + 300 → exec (.staticWearLevel g q) s = .next s) ∧
    (∀ g q, let sb := g * 1600 + q
      f.eraseRange.1 + 300 < f.eraseRange.2 → f.leastWorn (fun _ => true) = some sb → ∃ t, exec (.staticWearLevel g q) s = .next t ∧
      t.mem = s.mem ∧ oget t.flash.strs sb = none ∧ ∀ e ∈ f.stripeBlks sb, (f.blk e.2).erases + 1 ≤ (t.flash.blk e.2).erases) ∧
    (∀ g q, oget f.strs (g * 1600 + q) = none → exec (.garbageCollection g q) s = .next s) ∧
    (∀ g q st, let sb := g * 1600 + q
      oget f.strs sb = some st → ∃ t, exec (.garbageCollection g q) s = .next t ∧ t.mem = s.mem ∧ oget t.flash.strs sb = none ∧
      ∀ e ∈ f.stripeBlks sb, (f.blk e.2).erases + 1 ≤ (t.flash.blk e.2).erases) ∧
    (∀ ch, f.reads = [] → ch ∉ f.down → exec (.flashChannelPowerDown ch) s = .next { s with flash := { f with down := f.down ++ [ch] } }) ∧
    (∀ k r errs ok, f.reads[k]? = some r → (r.rung < 16 ∧ 120 < errs ∨ r.rung = 16 ∧ ok = false) → exec (.flashDecodeResult k ⟨errs, ok⟩) s =
      .next { s with flash := { f.countRead r.blk r.rung with
        reads := (f.countRead r.blk r.rung).reads.map (fun q => if q.for_ = r.for_ then { q with rung := r.rung + 1 } else q) } }) ∧
    (∀ k r errs ok, f.reads[k]? = some r → r.rung = 0 → errs ≤ 120 → (∀ b, r.for_ ≠ .scrub b) →
      ∃ t, exec (.flashDecodeResult k ⟨errs, ok⟩) s = .next t ∧ t.mem = s.mem ∧ t.flash.retry = f.retry ∧ t.flash.lost = f.lost ∧
      t.flash.blks = (f.countRead r.blk 0).blks ∧ t.flash.reads.length = f.reads.length ∧ t.fresh = s.fresh + 1) ∧
    (∀ k r errs, f.reads[k]? = some r → (0 < r.rung ∧ r.rung < 16 ∧ errs ≤ 120) ∨ r.rung = 16 →
      ∃ t, exec (.flashDecodeResult k ⟨errs, true⟩) s = .next t ∧ t.mem = s.mem ∧ t.flash.retry = f.retry + 1 ∧ t.flash.lost = f.lost) ∧
    (∀ k r errs, f.reads[k]? = some r → r.rung = 17 → ∃ t, exec (.flashDecodeResult k ⟨errs, false⟩) s = .next t ∧
      t.flash.retry = f.retry + 1 ∧ t.flash.lost = f.lost + 1 ∧ (dieOfBlk r.blk ∉ f.failed → t.flash.isBad r.blk = true))) ∧
  (∀ (s : State), s.mode ≠ .off → ∃ t, exec .wearGovernorTick s = .next t ∧ t.mem = s.mem ∧
    t.flash.credit = Min.min (s.flash.credit + accrual) creditMax ∧
    (s.flash.wear = 0 → s.flash.k = 0 → (creditMax : Int) ≤ 4 * Min.min (s.flash.credit + accrual) creditMax →
      t.flash.wear = 0 ∧ t.mbxs = s.mbxs))

/-- R223, R225, R226, R253 and R363: a window whose slot is free reads its next position; a complete layer lies relocated in its slot
of every home and RDY is signalled; a complete rung request lies in the side slot of every home and RSEM is signalled; the twin's copy
replaces a lost image. -/
def Obligations.WeightWindows : Prop :=
  ∀ (w : Nat) (s : State) (v : Wwin), s.wwin w = some v →
    (v.run = true → v.reading = none → v.stop = none → (v.rung = [] ∨ v.rungBusy = true) → s.regOpen v.part 1 = true → s.regOpen v.part 0 = true →
      (∀ d ∈ v.dies, v.n / v.nslot ≤ (s.sem d (v.free + v.n % v.nslot)).value.toNat) →
      ∃ t r, exec (.wwPositionRead w) s = .next t ∧ t.mem = s.mem ∧ t.sems = s.sems ∧
        t.wwin w = some { v with reading := some v.n, met := false } ∧ t.flash.reads = s.flash.reads.filter (fun q => q.for_ ≠ .window w) ++ [r] ∧ r.for_ = .window w) ∧
    (∀ n bs, v.reading = some n → v.stop = none → s.flash.steady (.window w) = true → s.regOpen v.part 0 = true →
      s.layerImage v (s.listEntry v n).1 (s.listEntry v n).2 = (bs, true) →
      ∃ t v', exec (.wwLayerReady w) s = .next t ∧ t.wwin w = some v' ∧ v'.n = n + 1 ∧ v'.reading = none ∧ v'.run = v.run ∧
        t.mem = (v.homes.foldl (fun (u : State) h => u.write (h + n % v.nslot * v.slotg * granule)
          (relocate bs (h + n % v.nslot * v.slotg * granule))) s).mem ∧
        t.sems = (v.dies.foldl (fun (u : State) d => u.signalOr v.part d (v.rdy + n % v.nslot) 1) s).sems) ∧
    (∀ e rest bs, v.rung = e :: rest → v.rungBusy = false → v.run = true → s.flash.steady (.window w) = true → s.regOpen v.part 1 = true → s.regOpen v.part 0 = true →
      s.layerImage v e.1 e.2 = (bs, true) →
      ∃ t, exec (.wwRungReady w) s = .next t ∧ t.wwin w = some { v with rung := rest, rungBusy := true } ∧
        t.mem = (v.sides.foldl (fun (u : State) a => u.write a (relocate bs a)) s).mem ∧
        t.sems = (v.dies.foldl (fun (u : State) d => u.signalOr v.part d v.rsem 1) s).sems) ∧
    (∀ p o n crc image, s.paired = true → s.flash.reads.any (fun r => r.for_ = .window w && r.rung == 18) = true →
      oget s.wpkgs v.pkg = some p → p.rungImage (s.lostImage v).1 (s.lostImage v).2 = some (o, n, crc) → image.length = n →
      ∃ t p', exec (.weightRefetchTwin w image) s = .next t ∧ oget t.wpkgs v.pkg = some p' ∧ p'.image = putBytes p.image o image ∧ t.mem = s.mem ∧
        t.flash.progBytes = ((s.flash.program (.wpkg v.pkg) n).journal).progBytes ∧ ∀ r ∈ t.flash.reads, r.for_ = .window w → r.rung ≠ 18)


/-! ### Mailboxes (R255 to R266, R274, R275) -/

namespace Sys2Proof.Machine

/-- The completion entry of a command of session `q` that was never replayed nor deferred (R260); IRQ counts where the session grants
completion interrupts (R261, R271). -/
def cmdEntry (q : Option Session) (h : CmdHdr) (code st r0 r1 : Nat) : CmpEntry :=
  { status := st, deferred := false, replayed := false, irq := h.irq && grants q 0, event := false, tag := h.tag.toNat, code := code,
    slot := h.slot.toNat, r0 := BitVec.ofNat 64 r0, r1 := BitVec.ofNat 64 r1 }

/-- The command `i` of mailbox `m` is answered: `f` acts on the state in which it stands started, then it completes with status `st` and
results `r0`, `r1`. -/
def Replies (i : Instr) (s : State) (m : Nat) (h : CmdHdr) (code : Nat) (ps : List W64) (f : State → State) (st r0 r1 : Nat) : Prop :=
  exec i s = .next ((f (s.begun m h code ps)).complete (s.newCmd m h code ps) st false r0 r1)

/-- The command `i` of mailbox `m` goes on in the background after `f`. -/
def GoesOn (i : Instr) (s : State) (m : Nat) (h : CmdHdr) (code : Nat) (ps : List W64) (f : State → State) : Prop :=
  exec i s = .next ((f (s.begun m h code ps)).updCmd (s.newCmd m h code ps) (fun d => { d with bg := true }))

/-- The command `i` of mailbox `m` waits in place after `f`. -/
def Waits (i : Instr) (s : State) (m : Nat) (h : CmdHdr) (code : Nat) (ps : List W64) (f : State → State) : Prop :=
  exec i s = .next (f (s.begun m h code ps))

end Sys2Proof.Machine

/-- R260, R261, R263, R267: a command that completes leaves the journal and its entry becomes due, with its tag, slot, code, status
and results; nothing else changes. An entry for which no session is open completes with ST_NO_SESSION (0x12). -/
def Obligations.CommandAnswered : Prop :=
  (∀ (s t : State) (m code st r0 r1 : Nat) (h : CmdHdr) (ps : List W64), Takes s m h code ps → t.journal = (s.begun m h code ps).journal →
    t.complete (s.newCmd m h code ps) st false r0 r1 =
      State.updMbx { t with journal := s.journal } m (fun b => { b with due := b.due ++
        [cmdEntry (if code = 1 ∧ (s.mbx m).session = none then (t.mbx m).session else (s.mbx m).session) h code st r0 r1] })) ∧
  (∀ (s : State) (m : Nat) (h : CmdHdr), s.canAccept m = true → s.tagUsed m h.tag.toNat = false → h.tag.toNat ≠ 0xFFFFFFFF →
    (s.mbx m).session = none → (∀ c ∈ s.journal, c.m ≠ m) →
    exec (.nop m h) s = .next ((s.updMbx m (fun b => { b with due := b.due ++ [cmdEntry none h 6 0x12 0 0] })).passHead m h.slot.toNat))

/-- R256, R257, R261, R263: what writes of a mailbox's registers do, a turn of the firmware and a posting batch of one entry. R255, R264, R266, R272, R273: a failure of the control processor resets it and nothing else; its restart reloads the journal,
every command in it a replay, and puts a patch table that waits in force. -/
def Obligations.MailboxRegisters : Prop :=
  (∀ (m : Nat) (s : State),
    let b := s.mbx m
    (∀ v : W64, exec (.mbxCmdTailWrite m v) s = .next (s.setMbx m { b with cmdTail := v.toNat % 4096 })) ∧
    (∀ v : W64, exec (.mbxCmpHeadWrite m v) s = .next (s.setMbx m { b with cmpHead := v.toNat % 4096 })) ∧
    (∀ v : W64, v.getLsbD 0 = true → b.en = false → s.awOk m b.cmdBase 524288 true false = true → s.awOk m b.cmpBase 131072 false true = true →
      let b1 := { b with irqen := v.getLsbD 1, vec := v.toNat / 4 % 2048, en := true, stopped := false }
      exec (.mbxCtrlWrite m v) s = .next (s.setMbx m { b1 with cmdHead := 0, cmdTail := 0, cmpHead := 0, cmpTail := 0, phase := true })) ∧
    (∀ v : W64, v.getLsbD 0 = false → b.en = true → s.outstanding m ≠ 0 →
      exec (.mbxCtrlWrite m v) s = .next (s.setMbx m { b with irqen := v.getLsbD 1, vec := v.toNat / 4 % 2048, disable := true })) ∧
    (s.nextTurn = some m → b.cmdHead = b.cmdTail → (∀ c ∈ s.journal, c.m = m → c.started = true) →
      exec .mailboxTurn s = .next { s with turn := (m + 1) % 16 }) ∧
    (s.nextTurn = some m → b.stopped = false → (awHost b.cmdBase = true → s.hostOpen m = true) → b.cmdTail = (b.cmdHead + 1) % 4096 → b.cmdHead < 4096 →
      s.canAccept m = true → (∀ c ∈ s.journal, c.m ≠ m) →
      let e := parseEntry b.cmdHead (s.awBytes m (b.cmdBase + BitVec.ofNat 64 (128 * b.cmdHead)) 128)
      e.refusal b.session (s.tagUsed m e.tag) = none → e.code ≠ 4 →
      let c := e.toCmd m b.session
      exec .mailboxTurn s = .next ((State.updMbx { s with turn := (m + 1) % 16, journal := s.journal ++ [c] } m
        (fun b => { b with cmdHead := (b.cmdHead + 1) % 4096 })).startCmd (handlerOf e.code) c)) ∧
    (∀ e : CmpEntry, b.due = [e] → s.ready = true → s.cpRst = false → b.en = true → (awHost b.cmpBase = true → s.hostOpen m = true) →
      b.room ≠ 0 → b.disable = false → (b.irqen = false ∨ (e.irq = false ∧ e.event = false)) →
      exec (.completionPost m) s = .next ((s.awWrite m (b.cmpBase + BitVec.ofNat 64 (32 * b.cmpTail)) (e.bytes b.phase)).setMbx m
        { b with cmpTail := (b.cmpTail + 1) % 4096, phase := (if (b.cmpTail + 1) % 4096 = 0 then !b.phase else b.phase), due := [] }))) ∧
  (∀ s : State,
    (exec .cpWatchdogExpire s = .next { s with cpRst := true, replays := Min.min 0xFFFF (s.replays + 1) }) ∧
    (exec .cpSramUncorrectable s = .next { s with cpRst := true, replays := Min.min 0xFFFF (s.replays + 1) }) ∧
    (s.cpRst = true → ∃ t, exec .cpRestartDone s = .next t ∧ t.cpRst = false ∧ t.journal.length = s.journal.length ∧
      (∀ c ∈ t.journal, c.replayed = true) ∧ t.patch = s.nextPatch.getD s.patch ∧ t.nextPatch = none ∧ t.mem = s.mem ∧ t.cores = s.cores ∧
      t.launches = s.launches ∧ t.qps = s.qps) ∧
    (∀ (m tag : Nat) (o : BgFind) (c : Cmd), s.cmd m tag = some c → s.ready = true → s.cpRst = false → c.started = true → c.bg = true →
      s.flash.steady (.cmd m tag) = true →
      (c.committed = true → lateCommit c = true → c.code ≠ 0x0605 → exec (.bgCommandFinish m tag o) s = .next (s.complete c 0 false c.r0 c.r1)) ∧
      (c.committed = false ∨ lateCommit c = false ∨ c.code = 0x0605 → (c.hostBound = true → s.hostOpen c.part = true ∧ o ≠ .sourceLost) →
        exec (.bgCommandFinish m tag o) s = .next (finOf o c s))))

/-- R267 to R271, R274, R275, R278: the session commands. NOP returns the ROM version and the patch level; GET_INFO writes its block;
OPEN_SESSION chooses the highest version of each range and CLOSE_SESSION ends it; an ABORT of a command that has not started completes
that command with ST_ABORTED (3). -/
def Obligations.SessionCommands : Prop :=
  ∀ (m : Nat) (h : CmdHdr) (s : State),
    (Takes s m h 0x0006 [] → Replies (.nop m h) s m h 0x0006 [] id 0 Config.romVer.toNat s.patch.1) ∧
    (Takes s m h 0x0003 [] → Replies (.fenceCommand m h) s m h 0x0003 [] id 0 0 0) ∧
    (Takes s m h 0x0002 [] → Replies (.closeSession m h) s m h 0x0002 [] (fun u => u.updMbx m (fun b => { b with session := none })) 0 0 0) ∧
    (∀ resp q, Takes s m h 0x0005 [resp] → (s.mbx m).session = some q → s.blockRefusal m resp 64 false true = none →
      Replies (.getInfo m h resp) s m h 0x0005 [resp] (fun u => u.awWrite m resp (s.infoBlock m q)) 0 0 0) ∧
    (∀ resp mb im pk sn ft a b d e, Takes s m h 0x0001 [resp, mb, im, pk, sn, ft] → s.blockRefusal m resp 64 false true = none →
      badRange mb.toNat = false → badRange im.toNat = false → badRange pk.toNat = false → badRange sn.toNat = false →
      chooseVersion [0x0100, 0x0101, 0x0102] mb.toNat = some a → chooseVersion [0x0100, 0x0101] im.toNat = some b →
      chooseVersion [0x0100] pk.toNat = some d → chooseVersion [0x0100, 0x0101] sn.toNat = some e →
      let q : Session := { mbxVer := a, imgVer := b, pkgVer := d, snapVer := e, feats := ft &&& 0x3F }
      Replies (.openSession m h resp mb im pk sn ft) s m h 0x0001 [resp, mb, im, pk, sn, ft]
        (fun u => (u.awWrite m resp (s.infoBlock m q)).updMbx m (fun b => { b with session := some q })) 0 0 0) ∧
    (∀ (target : W64) (c : Cmd), s.canAccept m = true → s.tagUsed m h.tag.toNat = false → h.tag.toNat ≠ 0xFFFFFFFF → h.wait = false →
      (s.mbx m).session.isSome = true → target.toNat < 2 ^ 32 → s.journal = [c] → c.m = m → c.tag = target.toNat → c.started = false →
      c.discard = false → c.late = false → c.watch = [] →
      ∃ t e1 e2, exec (.abort m h target) s = .next t ∧ t.journal = [] ∧ (t.mbx m).due = (s.mbx m).due ++ [e1, e2] ∧
        e1.tag = c.tag ∧ e1.status = 3 ∧ e1.code = c.code ∧ e2.tag = h.tag.toNat ∧ e2.code = 4 ∧ e2.status = 0 ∧ e2.r0 = 0 ∧ t.mem = s.mem)

/-- R200, R212, R214, R215: the region commands. Creating a region of free granules zeroes them before the region is visible; removing
it, or taking a permission away, waits for the drain; a permission added applies at once. -/
def Obligations.RegionCommands : Prop :=
  ∀ (m : Nat) (h : CmdHdr) (s : State),
    (∀ i lo hi fl : W64, Takes s m h 0x0100 [i, lo, hi, fl] → fl.toNat < 128 →
      s.regionRefusal m i.toNat lo.toNat hi.toNat (bit fl.toNat 3) (BitVec.ofNat 3 (bits fl.toNat 4 3)) = none →
      ∃ (t : State) (r : Region), exec (.regionCreate m h i lo hi fl) s =
          .next (t.complete (s.newCmd m h 0x0100 [i, lo, hi, fl]) 0 false 0 0) ∧ t.regions = tins s.regions (1024 * m + i.toNat) r ∧
        r.r = bit fl.toNat 0 ∧ r.w = bit fl.toNat 1 ∧ r.x = bit fl.toNat 2 ∧ r.shared = bit fl.toNat 3 ∧ r.baseg = lo.toNat ∧ r.lastg = hi.toNat ∧
        (inOneDie lo.toNat hi.toNat = false ∨ bit fl.toNat 3 = true → t.mem = s.mem) ∧
        (inOneDie lo.toNat hi.toNat = true → bit fl.toNat 3 = false → s.ownedBy m = [] →
          (∀ a, lo.toNat * granule ≤ a → a < (hi.toNat + 1) * granule → t.rawByte a = 0) ∧
          (∀ a, a < lo.toNat * granule ∨ (hi.toNat + 1) * granule ≤ a → t.rawByte a = s.rawByte a))) ∧
    (∀ (i : W64) (r : Region), Takes s m h 0x0101 [i] → s.region m i.toNat = some r → r.tobj = false → r.map = false → i.toNat < 1024 →
      let marks := (List.range 128).map (fun c => (s.core c).nextSeq)
      let d : RegionDrain := { part := m, idx := i.toNat, keep := none, m := m, tag := h.tag.toNat, marks := marks }
      Waits (.regionRemove m h i) s m h 0x0101 [i] (fun u => { u with drains := u.drains ++ [d] })) ∧
    (∀ (i fl : W64) (r : Region), Takes s m h 0x0102 [i, fl] → s.region m i.toNat = some r → s.homeHeld r = false → r.map = false → i.toNat < 1024 → fl.toNat < 8 →
      (r.r = true → bit fl.toNat 0 = true) → (r.w = true → bit fl.toNat 1 = true) → (r.x = true → bit fl.toNat 2 = true) →
      Replies (.regionPerm m h i fl) s m h 0x0102 [i, fl] (fun u =>
        let r' := { r with r := bit fl.toNat 0, w := bit fl.toNat 1, x := bit fl.toNat 2 }
        { u with regions := tins s.regions (1024 * m + i.toNat) r' }) 0 0 0) ∧
    (∀ (i : W64) (r : Region), Takes s m h 0x0103 [i] → s.region m i.toNat = some r → i.toNat < 1024 →
      Replies (.regionQuery m h i) s m h 0x0103 [i] id 0 r.word0 r.hotch) ∧
    (∀ (lo hi q : W64), Takes s m h 0x0104 [lo, hi, q, 1] → lo.toNat ≤ hi.toNat → hi.toNat < 262144 → q.toNat < 16 → q.toNat ≠ m →
      (oget s.parts q.toNat).isSome = true → covers (s.ownedBy m) lo.toNat hi.toNat = true →
      Replies (.regionGrant m h lo hi q 1) s m h 0x0104 [lo, hi, q, 1] (fun u =>
        { u with grants := u.grants ++ [{ baseg := lo.toNat, lastg := hi.toNat, owner := m, grantee := q.toNat }] }) 0 0 0)


/-! ### Images, tables and partitions (R176, R177, R276, R277, R281 to R283, R430, R464, R466) -/

/-- R276, R277 and R466: IMG_LOAD starts its copy in the background and ends with the code placed at the base of its region, the
caches of the partition's cores empty, and a fresh handle; IMG_UNLOAD frees a handle; IMG_QUERY writes a response block of 64 bytes (log
10); TBL_LOAD completes at once where no core's window holds the partition's tables, else every such core has the table pending. -/
def Obligations.ImageCommands : Prop :=
  ∀ (m : Nat) (h : CmdHdr) (s : State),
    (∀ src len index : W64, Takes s m h 0x0200 [src, len, index] → len ≠ 0 → index.toNat < 1024 → s.awBlock m src len.toNat true false = true →
      GoesOn (.imgLoad m h src len index) s m h 0x0200 [src, len, index] id) ∧
    (∀ (o : BgFind) (c : Cmd) (q : Session) (img : Image) (code : List Byte) (r : Region) (k : Nat), c.code = 0x0200 → c.sess = some q →
      s.checkImage c.m q.imgVer (s.awBytes c.m (c.w 0) (c.p 1)) = .ok (img, code) →
      s.region c.m (c.p 2) = some r → inOneDie r.baseg r.lastg = true → r.r = true → r.x = true →
      code.length ≤ (r.lastg + 1 - r.baseg) * granule → s.nextImage = some k →
      ∃ u : State, finOf o c s = u.complete c 0 false k 0 ∧ u.images = tins s.images k { img with code := r.baseg * granule } ∧ u.lastImage = k ∧
        oget s.images k = none ∧ 1 ≤ k ∧ k < 65536 ∧ u.mem = (s.write (r.baseg * granule) code).mem ∧ u.journal = s.journal ∧
        u.cores = (s.flushICaches c.m).cores ∧ u.regions = (s.write (r.baseg * granule) code).regions) ∧
    (∀ (k : W64) (i : Image), Takes s m h 0x0201 [k] → oget s.images k.toNat = some i → i.part = m →
      Replies (.imgUnload m h k) s m h 0x0201 [k] (fun u => { u with images := tdrop s.images k.toNat }) 0 0 0) ∧
    (∀ (k resp : W64) (i : Image), Takes s m h 0x0202 [k, resp] → oget s.images k.toNat = some i → i.part = m →
      s.blockRefusal m resp 64 false true = none →
      ∃ bs : List Byte, bs.length = 64 ∧
        Replies (.imgQuery m h k resp) s m h 0x0202 [k, resp] (fun u => { u.awWrite m resp bs with fresh := s.fresh + 1 }) 0 0 0) ∧
    (∀ (tid src : W64) (q : Part), Takes s m h 0x0203 [tid, src] → oget s.parts m = some q → tidOk tid.toNat = true →
      s.blockRefusal m src (if isW2tid tid.toNat then 4 else 128) true false = none →
      let n := tableBytes tid.toNat (s.awBytes m src 128)
      let bs := s.awBytes m src n
      s.awOk m src n true false = true → tableOk tid.toNat bs = true →
      let put (t : Tab Byte) (x : Nat × List Byte) : Tab Byte :=
        (List.range x.2.length).foldl (fun t i => tput (fun o => Memory.dflt (windowBase + o)) t (x.1 + i) (x.2.getD i 0)) t
      let parts := tins s.parts m { q with tables := (tableSpans tid.toNat bs).foldl put q.tables }
      (s.tableCores m = [] → Replies (.tblLoad m h tid src) s m h 0x0203 [tid, src] (fun u => { u with parts := parts }) 0 0 0) ∧
      (s.tableCores m ≠ [] → ∃ t : State, exec (.tblLoad m h tid src) s = .next t ∧ t.parts = parts ∧ (t.mbx m).due = (s.mbx m).due ∧
        ∀ c ∈ s.tableCores m, (t.core c).pending.getLsbD (tableNo tid.toNat) = true))

/-- R281 to R283, R430, R464: PART_CREATE makes the partition with the ranges and quotas of its block, its counters 0 and its
table entries FREE, the step builder's selection at SEQ_BASE (R308); PART_DESTROY takes everything of it away and zeroes its granules; PART_ASSIGN replaces its engines; PART_CONFIG sets its
class, share and regulators, each regulator full (log 22). -/
def Obligations.PartitionCommands : Prop :=
  ∀ (m : Nat) (h : CmdHdr) (s : State) (part pb : W64),
    let bs := s.awBytes m pb 64
    let w := fun o => wordAt bs o
    (∀ q : Part, Takes s m h 0x0300 [part, pb] → s.blockRefusal m pb 64 true false = none → part.toNat < 16 → parsePart bs = (q, false) → oget s.parts part.toNat = none → s.partClash q = false →
      q.seqBase = bits (w 0) 0 16 ∧ q.seqCount = bits (w 0) 16 17 ∧ q.qpBase = bits (w 8) 0 18 ∧ q.qpCount = bits (w 8) 18 19 ∧
      q.semBase = bits (w 0x10) 0 12 ∧ q.semCount = bits (w 0x10) 12 13 ∧ q.claimBase = bits (w 0x10) 25 10 ∧ q.claimCount = bits (w 0x10) 35 11 ∧
      q.dq0 = bits (w 0x18) 0 18 ∧ q.dq1 = bits (w 0x18) 18 18 ∧ q.wq = bits (w 0x20) 0 16 ∧ q.tq = bits (w 0x20) 16 16 ∧
      q.rcore = 0 ∧ q.score = 0 ∧ q.share = 1 ∧ q.start = q.seqBase ∧ q.diag = bit (w 0x20) 32 ∧
      Replies (.partCreate m h part pb) s m h 0x0300 [part, pb] (fun u =>
        { u.clearRanges q with parts := tins s.parts part.toNat q }) 0 0 0) ∧
    (∀ (a : Assign) (p : Part) (s1 : State), Takes s m h 0x0302 [part, pb] → s.blockRefusal m pb 64 true false = none → part.toNat < 16 →
      parseAssign bs = (a, false) → oget s.parts part.toNat = some p → s.assignClash part.toNat a = false →
      State.takeSaves part.toNat (maskList 128 a.score)
        { s.begun m h 0x0302 [part, pb] with owned := s.owned.filter (fun o => !(o.part == part.toNat && o.save)) } = some s1 →
      ∃ t : State, exec (.partAssign m h part pb) s = .next (t.complete (s.newCmd m h 0x0302 [part, pb]) 0 false 0 0) ∧
        t.parts = tins s.parts part.toNat { p with
          rcore := BitVec.ofNat 128 a.rcore, score := BitVec.ofNat 128 a.score, rfox := BitVec.ofNat 32 a.rfox,
          sfox := BitVec.ofNat 32 a.sfox, rprim := BitVec.ofNat 4 a.rprim, sprim := BitVec.ofNat 4 a.sprim,
          renc := BitVec.ofNat 4 a.renc, rdec := BitVec.ofNat 4 a.rdec } ∧
        t.owned = s1.owned ∧ t.sems = s.sems ∧ t.launches = s.launches ∧ t.qps = s.qps) ∧
    (∀ p : Part, Takes s m h 0x0303 [part, pb] → s.blockRefusal m pb 64 true false = none → part.toNat < 16 → oget s.parts part.toNat = some p → bits (w 0) 2 14 = 0 → bits (w 0) 32 32 = 0 →
      bits (w 0) 16 16 ≠ 0 → (bs.drop 0x28).any (· ≠ 0) = false →
      let reg (j : Nat) : Regulator :=
        { rate := bits (w (8 + 8 * j)) 0 32, burst := bits (w (8 + 8 * j)) 32 32, balance := bits (w (8 + 8 * j)) 32 32 }
      let p' := { p with cls := bit (w 0) 0, varfault := bit (w 0) 1, share := bits (w 0) 16 16, regs := [reg 0, reg 1, reg 2, reg 3] }
      Replies (.partConfig m h part pb) s m h 0x0303 [part, pb] (fun u => { u with parts := tins s.parts part.toNat p' }) 0 0 0) ∧
    (∀ p : Part, Takes s m h 0x0301 [part] → oget s.parts part.toNat = some p → part ≠ 0 → p.destroying = false →
      (∀ x ∈ s.qps, x.2.part ≠ part.toNat) → (∀ x ∈ s.launches, x.2.part ≠ part.toNat) → (∀ x ∈ s.wwins, x.2.part = part.toNat → x.2.run = false) →
      (∀ x ∈ s.tobjs, x.2.part ≠ part.toNat) → (∀ x ∈ s.wpkgs, x.2.part ≠ part.toNat) → (∀ x ∈ s.iris, x.2.part ≠ part.toNat) →
      GoesOn (.partDestroy m h part) s m h 0x0301 [part] (fun u => { u with parts := tins s.parts part.toNat { p with destroying := true } })) ∧
    (∀ (o : BgFind) (c : Cmd) (p : Part), c.code = 0x0301 → oget s.parts (c.p 0) = some p →
      ∃ u : State, finOf o c s = u.complete c 0 false 0 0 ∧ u.parts = tdrop s.parts (c.p 0) ∧ u.journal = s.journal ∧
        u.owned = s.owned.filter (fun o => o.part ≠ c.p 0) ∧ u.regions = s.regions.filter (fun r => r.1 / 1024 ≠ c.p 0) ∧
        u.images = s.images.filter (fun i => i.2.part ≠ c.p 0) ∧ u.seqs = (s.clearRanges p).seqs ∧ u.sems = (s.clearRanges p).sems ∧
        (∀ e ∈ s.owned, e.part = c.p 0 → ∀ a, e.baseg * granule ≤ a → a < (e.lastg + 1) * granule → a < 2 * dieBytes → u.rawByte a = 0))


/-! ### Queue-pair, sequence, pool and page-map commands (R27, R148 to R157, R275, R284, R302, R304, R305, R462, R467) -/

/-- R284, R462, R467: QP_CREATE makes an empty queue pair with the rings of its block; QP_QUERY writes its counters; QP_DESTROY drops
the entries that have not started and waits for the others. R302, R304 and R27: SEQ_QUERY writes the entry; outside a serving run a
hold, a release and a removal take effect at once, in a run they wait for the boundary. -/
def Obligations.QueueAndSequenceCommands : Prop :=
  ∀ (m : Nat) (h : CmdHdr) (s : State),
    (∀ qp pb : W64, Takes s m h 0x0304 [qp, pb] → s.blockRefusal m pb 64 true false = none →
      let bs := s.awBytes m pb 64
      let w := wordAt bs 0x10
      let sq := BitVec.ofNat 64 (wordAt bs 0)
      let cq := BitVec.ofNat 64 (wordAt bs 8)
      let sl := bits w 0 4
      let cl := bits w 4 4
      s.qpIn m qp.toNat = true → 6 ≤ sl → 6 ≤ cl → bits w 21 11 = 0 → bits w 32 16 ≠ 0 → bits w 48 16 = 0 → (bs.drop 0x18).any (· ≠ 0) = false →
      awAddr sq % (128 * 2 ^ sl) = 0 → awAddr cq % (64 * 2 ^ cl) = 0 → s.qp qp.toNat = none →
      s.awOk m sq (128 * 2 ^ sl) true false = true → s.awOk m cq (64 * 2 ^ cl) false true = true →
      ∃ q : Qp, q.part = m ∧ q.sqAddr = sq ∧ q.cqAddr = cq ∧ q.sqLog = sl ∧ q.cqLog = cl ∧ q.cls = bit w 8 ∧ q.irqen = bit w 9 ∧ q.vec = bits w 10 11 ∧
        q.share = bits w 32 16 ∧ q.sqTail = 0 ∧ q.fetch = 0 ∧ q.cqTail = 0 ∧ q.cqPhase = true ∧ q.cqHead = 0 ∧ q.entries = [] ∧ q.due = [] ∧
        q.destroy = none ∧ q.stopped = false ∧
        Replies (.qpCreate m h qp pb) s m h 0x0304 [qp, pb] (fun u => { u with qps := tins s.qps qp.toNat q }) 0 0 0) ∧
    (∀ (qp : W64) (x : Qp), Takes s m h 0x0305 [qp] → s.qpIn m qp.toNat = true → s.qp qp.toNat = some x → x.destroy = none →
      (x.entries = [] → Replies (.qpDestroy m h qp) s m h 0x0305 [qp] (fun u => { u with qps := tdrop s.qps qp.toNat }) 0 0 0) ∧
      (x.entries.filter s.entryRuns ≠ [] → ∃ t : State, ∃ y : Qp, exec (.qpDestroy m h qp) s = .next t ∧ t.qp qp.toNat = some y ∧
        y.destroy = some (m, h.tag.toNat) ∧ y.due = [] ∧ y.entries = x.entries.filter s.entryRuns ∧ (t.mbx m).due = (s.mbx m).due)) ∧
    (∀ (qp resp : W64) (x : Qp), Takes s m h 0x0306 [qp, resp] → s.qpIn m qp.toNat = true → s.qp qp.toNat = some x → x.destroy = none →
      s.blockRefusal m resp 64 false true = none →
      Replies (.qpQuery m h qp resp) s m h 0x0306 [qp, resp] (fun u => u.awWrite m resp (wordsLe ([x.acctCore / 12, x.acctFox / 12, x.acctPrim / 12,
        x.sqTail, x.adds.headD x.fetch, x.cqTail + 65536 * b2n x.cqPhase, x.cqHead, 0].map (BitVec.ofNat 64)))) 0 0 0) ∧
    (∀ (e resp : W64), Takes s m h 0x0400 [e, resp] → s.seqIn m e.toNat = true → (s.seq e.toNat).state ≠ 0 →
      s.blockRefusal m resp 128 false true = none →
      Replies (.seqQuery m h e resp) s m h 0x0400 [e, resp] (fun u => u.awWrite m resp (s.seq e.toNat).bytes) 0 0 0) ∧
    (∀ (e : W64), Takes s m h 0x0401 [e] → s.seqIn m e.toNat = true → (s.seq e.toNat).state ≠ 0 →
      (oget s.runs m = none → ∃ t : State, exec (.seqRemove m h e) s = .next (t.complete (s.newCmd m h 0x0401 [e]) 0 false 0 0) ∧
        t.seqs = tdrop s.seqs e.toNat ∧ t.mem = s.mem ∧
        ∀ x ∈ s.posted, x ∈ t.posted) ∧
      (∀ r : Run, oget s.runs m = some r → r.idle = false → Waits (.seqRemove m h e) s m h 0x0401 [e] (fun u =>
        { u with bounds := s.bounds ++ [(m, .remove m h.tag.toNat e.toNat)] }))) ∧
    (∀ (e hold : W64), Takes s m h 0x0402 [e, hold] → hold.toNat < 2 → s.seqIn m e.toNat = true →
      (s.seq e.toNat).state = (if hold = 1 then 1 else 2) →
      (oget s.runs m = none → Replies (.seqHold m h e hold) s m h 0x0402 [e, hold] (fun u =>
        u.setSeq e.toNat { s.seq e.toNat with state := if hold = 1 then 2 else 1 }) 0 0 0) ∧
      (∀ r : Run, oget s.runs m = some r → r.idle = false → Waits (.seqHold m h e hold) s m h 0x0402 [e, hold] (fun u =>
        { u with bounds := s.bounds ++ [(m, .hold m h.tag.toNat e.toNat (hold == 1))] })))

/-- R148 and R155: the pool and page commands. Map memory lies where log 20 says. PAGE_ALLOC takes the lowest free pages and
PAGE_FREE frees all of its list or none. -/
def Obligations.PageCommands : Prop :=
  ∀ (m : Nat) (h : CmdHdr) (s : State),
    (∀ (pb : W64) (a : Nat) (u : State), Takes s m h 0x0500 [pb] → s.blockRefusal m pb 64 true false = none →
      let f := fun i => wordAt (s.awBytes m pb 64) (8 * i)
      let q : Pool := { part := m, pgsz := f 1 == 1, rowBytes := f 2, base := f 3, npages := f 4, stateAddr := a }
      f 0 < 256 → f 1 < 2 → f 2 ≠ 0 → f 2 % 64 = 0 → f 3 % 4096 = 0 → f 4 ≠ 0 → f 4 < 2 ^ 32 → f 5 = 0 → f 6 = 0 → f 7 = 0 →
      inDram (f 3) = true → s.permits m (f 3) (q.npages * q.pageBytes) true true false = true → oget s.pools (f 0) = none →
      (s.begun m h 0x0500 [pb]).mapAlloc m (8 * f 4) 4096 = some (a, u) →
      exec (.poolCreate m h pb) s = .next (State.complete { u with pools := tins s.pools (f 0) q } (s.newCmd m h 0x0500 [pb]) 0 false (f 0) 0)) ∧
    (∀ (n : W64) (q : Pool), oget s.pools n.toNat = some q → q.part = m →
      (Takes s m h 0x0501 [n] → (∀ f < q.npages, bit (s.le (q.stateAddr + 8 * f) 8) 32 = false) →
        Replies (.poolDestroy m h n) s m h 0x0501 [n] (fun u => { u with pools := tdrop s.pools n.toNat }) 0 0 0) ∧
      (Takes s m h 0x0501 [n] → (∃ f < q.npages, bit (s.le (q.stateAddr + 8 * f) 8) 32 = true) →
        Replies (.poolDestroy m h n) s m h 0x0501 [n] id 0x16 0 0) ∧
      (∀ k out : W64, Takes s m h 0x0502 [n, k, out] → k ≠ 0 → k.toNat < 2 ^ 32 → s.awOk m out (8 * k.toNat) false true = true →
        let free := (List.range q.npages).filter (fun f => !bit (s.le (q.stateAddr + 8 * f) 8) 32)
        let gen (v : State) (f : Nat) : Nat := v.le (q.stateAddr + 8 * f) 8 % 65536
        (k.toNat ≤ free.length → Replies (.pageAlloc m h n k out) s m h 0x0502 [n, k, out] (fun u =>
          ((free.take k.toNat).foldl (fun v f => v.write (q.stateAddr + 8 * f) (toLe 8 (gen v f + 2 ^ 32))) u).awWrite m out
            (wordsLe ((free.take k.toNat).map (fun f => BitVec.ofNat 64 (f + gen s f * 2 ^ 32))))) 0 0 0) ∧
        (free.length < k.toNat → Replies (.pageAlloc m h n k out) s m h 0x0502 [n, k, out] id 0x19 0 0)) ∧
      (∀ k inp : W64, Takes s m h 0x0503 [n, k, inp] → k ≠ 0 → k.toNat < 2 ^ 32 → s.awOk m inp (8 * k.toNat) true false = true →
        let ws := (List.range k.toNat).map (fun i => wordAt (s.awBytes m inp (8 * k.toNat)) (8 * i))
        (∀ u, freePages q ws (s.begun m h 0x0503 [n, k, inp]) = .ok u →
          exec (.pageFree m h n k inp) s = .next (u.complete (s.newCmd m h 0x0503 [n, k, inp]) 0 false 0 0)) ∧
        (∀ st, freePages q ws (s.begun m h 0x0503 [n, k, inp]) = .error st →
          Replies (.pageFree m h n k inp) s m h 0x0503 [n, k, inp] id st 0 0))) ∧
    (∀ (q : Pool) (w : Nat) (ws : List Nat) (u : State), 
      let f := w % 2 ^ 32
      let v := u.le (q.stateAddr + 8 * f) 8
      (w < 2 ^ 48 → f < q.npages → bit v 32 = true → bits v 0 16 = bits w 32 16 → bits v 16 16 = 0 →
        freePages q (w :: ws) u = freePages q ws (u.write (q.stateAddr + 8 * f) (toLe 8 ((bits v 0 16 + 1) % 65536)))) ∧
      (w < 2 ^ 48 → f < q.npages → bit v 32 = true → bits v 0 16 = bits w 32 16 → bits v 16 16 ≠ 0 → freePages q (w :: ws) u = .error 0x32) ∧
      (w < 2 ^ 48 → (q.npages ≤ f ∨ bit v 32 = false ∨ bits v 0 16 ≠ bits w 32 16) → freePages q (w :: ws) u = .error 0x31))

/-- R149 to R157 and R275: the page-map commands. An edit on a map that no unit pins and that has no edits queued is applied at once:
EPOCH rises by one; otherwise it is queued, and the command completes with ST_DEFERRED (1), or waits with WAIT = 1; with 32 edits queued it
is refused with ST_QUEUE_FULL (0x30). -/
def Obligations.PageMapCommands : Prop :=
  ∀ (m : Nat) (h : CmdHdr) (s : State),
    (∀ (id a : Nat) (u : State), Takes s m h 0x0504 [] → freeKey s.maps 65536 0 = some id → (s.begun m h 0x0504 []).mapAlloc m 320 128 = some (a, u) →
      let v := u.write a (toLe 2 id ++ List.replicate 318 0#8)
      let e : MapE := { part := m, header := a, epoch := 0, pins := 0, lock := false, queue := [] }
      exec (.pmapCreate m h) s = .next (State.complete { v with maps := tins s.maps id e } (s.newCmd m h 0x0504 []) 0 false id a)) ∧
    (∀ (n : W64) (e : MapE), oget s.maps n.toNat = some e → e.part = m →
      (Takes s m h 0x0505 [n] → e.pins = 0 → e.queue = [] → (∀ x ∈ s.seqs, x.2.state ≠ 0 → x.2.map ≠ e.header) →
        Replies (.pmapDestroy m h n) s m h 0x0505 [n] (fun u =>
          let v := ((List.range 4).foldl (fun v st => v.dropStream (v.stream e.header st)) u).forgetMap n.toNat
          { v with maps := tdrop s.maps n.toNat }) 0 0 0) ∧
      (Takes s m h 0x0509 [n] → Replies (.pmapQuery m h n) s m h 0x0509 [n] id 0 e.epoch.toNat (e.pins.toNat + e.queue.length * 65536)) ∧
      (∀ (i : Instr) (code : Nat) (ps : List W64) (d : MapEdit) (u : State), Takes s m h code ps →
        ((∃ st fl dirm1 co su, i = .pmapSetStream m h n st fl dirm1 co su ∧ code = 0x0506 ∧ ps = [n, st, fl, dirm1, co, su]) ∨
          (∃ st lp k inp, i = .pmapSetLeaf m h n st lp k inp ∧ code = 0x0507 ∧ ps = [n, st, lp, k, inp]) ∨
          (∃ st lp k, i = .pmapClear m h n st lp k ∧ code = 0x0508 ∧ ps = [n, st, lp, k])) →
        (s.begun m h code ps).makeEdit (s.newCmd m h code ps) e = .ok (d, u) →
        (e.pins = 0 → e.queue = [] → ∃ v : State, exec i s = .next (v.complete (s.newCmd m h code ps) 0 false 0 0) ∧
          oget v.maps n.toNat = some { e with epoch := e.epoch + 1, lock := false, queue := [] } ∧ v.mem = (d.write e.header u).mem) ∧
        ((e.pins ≠ 0 ∨ e.queue ≠ []) → e.queue.length < 32 → exec i s = .next (State.complete
          { u with maps := tins s.maps n.toNat { e with queue := e.queue ++ [d] } } (s.newCmd m h code ps) 1 false 0 0)) ∧
        ((e.pins ≠ 0 ∨ e.queue ≠ []) → 32 ≤ e.queue.length → Replies i s m h code ps id 0x30 0 0))) ∧
    (∀ (c : Cmd) (e : MapE) (d : MapEdit) (u : State), oget s.maps (c.p 0) = some e → e.part = c.m → s.makeEdit c e = .ok (d, u) →
      (e.pins ≠ 0 ∨ e.queue ≠ []) → e.queue.length < 32 → c.wait = true →
      hEdit c s = ({ u with maps := tins s.maps (c.p 0) { e with queue := e.queue ++ [d] } }, .wait))


/-! ### Commands of the flash store (R216 to R224, R242 to R253, R274) -/

/-- R216 to R221, R242 to R244: FLASH_LAYOUT moves the boundary of the weight region; FLASH_QUERY writes its block (log 10); a
tensor object is created in flash, loaded into a new home, flushed and evicted in the background, destroyed in FLASH, and queried. -/
def Obligations.TensorObjectCommands : Prop :=
  ∀ (m : Nat) (h : CmdHdr) (s : State),
    (∀ n : W64, Takes s m h 0x0600 [n] → n.toNat % 16000000000 = 0 → n.toNat ≤ variantBytes 8000000000000 →
      s.wpkgBytes (fun _ => true) ≤ n.toNat → 2 * s.tobjBytes (fun _ => true) ≤ usableBytes - n.toNat - variantBytes 3064000000000 →
      Replies (.flashLayout m h n) s m h 0x0600 [n] (fun u => { u with flash := ({ s.flash with wsize := n.toNat } : Flash).journal }) 0 0 0) ∧
    (∀ resp : W64, Takes s m h 0x0601 [resp] → s.blockRefusal m resp 64 false true = none → ∃ bs : List Byte, bs.length = 64 ∧
      Replies (.flashQuery m h resp) s m h 0x0601 [resp] (fun u => { u.awWrite m resp bs with fresh := s.fresh + 1 }) 0 0 0) ∧
    (∀ n : W64, Takes s m h 0x0602 [n] → 1 ≤ n.toNat → n.toNat ≤ 131072 → s.flash.degr = false →
      s.tobjBytes (· == m) + n.toNat * granule ≤ s.flashQuota m s.tierBytes (·.tq) →
      2 * s.tobjBytes (fun _ => true) + 2 * (n.toNat * granule) ≤ s.tierBytes →
      let id := nextId s.tobjs s.lastTobj
      let t : Tobj := { part := m, sizeg := n.toNat, state := .flash, region := 0, image := [], damaged := false, evict := false, copying := [], lost := [] }
      (s.tobjs.length < 2 ^ 32 → oget s.tobjs id = none) ∧ Replies (.tobjCreate m h n) s m h 0x0602 [n] (fun u =>
        ({ u with tobjs := tins s.tobjs id t, lastTobj := id, flash := s.flash.replace (.tobj id) (n.toNat * granule) } : State).charge m 1
          (n.toNat * granule)) 0 id 0) ∧
    (∀ (n : W64) (t : Tobj), oget s.tobjs n.toNat = some t → t.part = m →
      (∀ i lo fl : W64, Takes s m h 0x0603 [n, i, lo, fl] → fl.toNat < 128 → t.state = .flash → t.damaged = false →
        inOneDie lo.toNat (lo.toNat + t.sizeg - 1) = true →
        s.regionRefusal m i.toNat lo.toNat (lo.toNat + t.sizeg - 1) (bit fl.toNat 3) (BitVec.ofNat 3 (bits fl.toNat 4 3)) = none →
        ∃ (u : State) (r : Region), exec (.tobjLoad m h n i lo fl) s = .next (u.updCmd (s.newCmd m h 0x0603 [n, i, lo, fl]) (fun d => { d with bg := true })) ∧
          u.regions = tins s.regions (1024 * m + i.toNat) r ∧ r.r = false ∧ r.w = false ∧ r.x = false ∧ r.tobj = true ∧ r.baseg = lo.toNat ∧
          r.lastg = lo.toNat + t.sizeg - 1 ∧ u.tobjs = tins s.tobjs n.toNat { t with state := .loading, region := i.toNat }) ∧
      (Takes s m h 0x0604 [n] → t.state = .resident →
        (s.dirty t = false → Replies (.tobjFlush m h n) s m h 0x0604 [n] id 0 0 0) ∧
        (∀ r, s.region m t.region = some r → r.dirty = true → s.flash.tierRefusal = none → GoesOn (.tobjFlush m h n) s m h 0x0604 [n] (fun u =>
          { u with regions := tins s.regions (1024 * m + t.region) { r with dirty := false },
                   tobjs := tins s.tobjs n.toNat { t with state := .writing, copying := s.capture (r.baseg * granule) (t.sizeg * granule) } }))) ∧
      (∀ r, Takes s m h 0x0605 [n] → t.state = .resident → s.region m t.region = some r → (r.dirty = true → s.flash.tierRefusal = none) →
        let marks := (List.range 128).map (fun c => (s.core c).nextSeq)
        let d : RegionDrain := { part := m, idx := t.region, keep := some (r.r, false, r.x), m := m, tag := h.tag.toNat, marks := marks }
        ∃ u : State, ∃ c : Cmd, exec (.tobjEvict m h n) s = .next u ∧ c ∈ u.journal ∧ c.m = m ∧ c.tag = h.tag.toNat ∧ c.bg = true ∧
          c.r0 = b2n r.w ∧ u.regions = s.regions ∧ u.tobjs = tins s.tobjs n.toNat { t with evict := true } ∧
          u.drains = s.drains ++ [d] ∧ u.mem = s.mem ∧ (u.mbx m).due = (s.mbx m).due) ∧
      (Takes s m h 0x0606 [n] → t.state = .flash →
        Replies (.tobjDestroy m h n) s m h 0x0606 [n] (fun u =>
          { u with tobjs := tdrop s.tobjs n.toNat, flash := (s.flash.release (.tobj n.toNat)).journal }) 0 0 0) ∧
      (Takes s m h 0x0607 [n] → ∀ k, ((t.state, s.dirty t, k) ∈ ([(.flash, false, 0), (.loading, false, 1), (.resident, false, 2), (.resident, true, 11),
          (.writing, false, 4), (.writing, true, 12)] : List (TobjState × Bool × Nat))) →
        Replies (.tobjQuery m h n) s m h 0x0607 [n] id 0 k t.region)) ∧
    (∀ (o : BgFind) (c : Cmd) (t : Tobj) (r : Region), oget s.tobjs (c.p 0) = some t → s.region t.part t.region = some r →
      (c.code = 0x0603 → s.regOpen c.m 1 = true → ∃ u : State, finOf o c s = u.commit c 0 0 ∧
        u.mem = (s.placeImage (r.baseg * granule) (t.sizeg * granule) t.image).mem ∧ u.journal = s.journal ∧
        u.regions = tins s.regions (1024 * t.part + t.region)
          { r with r := bit (c.p 3) 0, w := bit (c.p 3) 1, x := bit (c.p 3) 2, dirty := false } ∧
        u.tobjs = tins s.tobjs (c.p 0) { t with state := .resident } ∧ ∀ l ∈ t.lost, r.baseg * granule / 64 + l ∈ u.poison) ∧
      (c.code = 0x0604 → s.regOpen c.m 1 = true → ∃ u : State, finOf o c s = u.commit c 0 0 ∧ u.mem = s.mem ∧ u.regions = s.regions ∧
        u.flash = s.flash.replace (.tobj (c.p 0)) (t.sizeg * granule) ∧ ∃ x, u.tobjs = tins s.tobjs (c.p 0) x ∧ x.state = .resident ∧
        x.damaged = false ∧ x.image = mixImages s.fresh t.copying (s.capture (r.baseg * granule) (t.sizeg * granule)) ∧
        (t.copying = s.capture (r.baseg * granule) (t.sizeg * granule) → x.image = t.copying)) ∧
      (c.code = 0x0605 → t.state = .writing → r.dirty = false → c.committed = false → finOf o c s = s.commit c c.r0 c.r1) ∧
      (c.code = 0x0605 → t.state = .writing → c.committed = true → s.regionBusy t.part s.marks r = false →
        ∃ u : State, finOf o c s = u.complete c 0 false 0 0 ∧ u.mem = s.mem ∧ u.regions = tdrop s.regions (1024 * t.part + t.region) ∧
          u.tobjs = tins s.tobjs (c.p 0) { t with state := .flash, evict := false, copying := [] }))

/-- R222 to R224 and R248 to R253: a package is opened, written, committed once it passes its check, granted and deleted while no
running window names it; a window starts at position 0 with its semaphores primed, stops after the layer being read, and is queried (log
10). -/
def Obligations.WeightCommands : Prop :=
  ∀ (m : Nat) (h : CmdHdr) (s : State),
    (∀ n : W64, Takes s m h 0x0608 [n] → n ≠ 0 → n.toNat % 4096 = 0 → s.flash.degr = false → ((n.toNat * 32 : Nat) : Int) ≤ s.flash.credit * 31 →
      s.wpkgBytes (· == m) + n.toNat ≤ s.flashQuota m s.flash.wsize (·.wq) → s.wpkgBytes (fun _ => true) + n.toNat ≤ s.flash.wsize →
      let id := nextId s.wpkgs s.lastWpkg
      ∃ t : Wpkg, t.part = m ∧ t.total = n.toNat ∧ t.ready = false ∧ t.image = [] ∧ t.grants = [] ∧ (s.wpkgs.length < 2 ^ 32 → oget s.wpkgs id = none) ∧
        Replies (.wpkgOpen m h n) s m h 0x0608 [n] (fun u => { u with wpkgs := tins s.wpkgs id t, lastWpkg := id }) 0 id 0) ∧
    (∀ (n : W64) (t : Wpkg), oget s.wpkgs n.toNat = some t → t.part = m →
      (∀ o k src : W64, Takes s m h 0x0609 [n, o, k, src] → k ≠ 0 → o.toNat % 4096 = 0 → k.toNat % 4096 = 0 → o.toNat + k.toNat ≤ t.total →
        t.ready = false → s.awOk m src k.toNat true false = true → GoesOn (.wpkgWrite m h n o k src) s m h 0x0609 [n, o, k, src] id) ∧
      (Takes s m h 0x060A [n] → t.ready = false → ∃ u r, exec (.wpkgCommit m h n) s =
          .next (State.updCmd u (s.newCmd m h 0x060A [n]) (fun d => { d with bg := true })) ∧ u.flash.reads = s.flash.reads ++ [r] ∧
          r.for_ = .cmd m h.tag.toNat ∧ u.wpkgs = s.wpkgs) ∧
      (Takes s m h 0x060A [n] → t.ready = true → Replies (.wpkgCommit m h n) s m h 0x060A [n] id 0x11 0 0) ∧
      (Takes s m h 0x060B [n] → (∀ w ∈ s.wwins, w.2.run = true → w.2.pkg ≠ n.toNat) →
        Replies (.wpkgDelete m h n) s m h 0x060B [n] (fun u =>
          { u with wpkgs := tdrop s.wpkgs n.toNat, flash := (s.flash.release (.wpkg n.toNat)).journal }) 0 0 0) ∧
      (Takes s m h 0x060B [n] → (∃ w ∈ s.wwins, w.2.run = true ∧ w.2.pkg = n.toNat) →
        Replies (.wpkgDelete m h n) s m h 0x060B [n] id 0x40 0 0) ∧
      (∀ q e : W64, Takes s m h 0x060C [n, q, e] → (oget s.parts q.toNat).isSome = true → q.toNat ≠ m → t.ready = true → s.isSecure m = false →
        (e = 1 → Replies (.wpkgGrant m h n q e) s m h 0x060C [n, q, e] (fun u =>
          { u with wpkgs := tins s.wpkgs n.toNat { t with grants := q.toNat :: t.grants.filter (· ≠ q.toNat) } }) 0 0 0) ∧
        (e = 0 → s.pkgUsed n.toNat (· == q.toNat) = false → Replies (.wpkgGrant m h n q e) s m h 0x060C [n, q, e] (fun u =>
          { u with wpkgs := tins s.wpkgs n.toNat { t with grants := t.grants.filter (· ≠ q.toNat) } }) 0 0 0))) ∧
    (∀ (o : BgFind) (c : Cmd) (t : Wpkg), oget s.wpkgs (c.p 0) = some t →
      (c.code = 0x0609 → awHost (c.w 3) = false → s.regOpen c.m 1 = true → ∃ u : State, finOf o c s = u.complete c 0 false 0 0 ∧ u.mem = s.mem ∧
        u.flash = s.flash.program (.wpkg (c.p 0)) (c.p 2) ∧
        u.wpkgs = tins s.wpkgs (c.p 0) { t with image := putBytes t.image (c.p 1) (s.awBytes c.m (c.w 3) (c.p 2)) }) ∧
      (∀ sg sr dg, c.code = 0x060A → s.checkPkg t = .ok (sg, sr, dg) → ∃ u : State, finOf o c s = u.commit c 0 0 ∧ u.mem = s.mem ∧
        u.wpkgs = tins s.wpkgs (c.p 0) { t with ready := true, signed := sg, signer := sr, digest := dg })) ∧
    (∀ (w pb : W64), Takes s m h 0x060D [w, pb] → w.toNat < 16 → awHost pb = false → s.blockRefusal m pb 128 true false = none →
      (∀ v, s.wwin w.toNat = some v → v.run = false) →
      let bs := s.awBytes m pb 128
      let v := parseWwin m bs
      s.wwinRefusal m bs v = none → v.run = true ∧ v.n = 0 ∧ v.reading = none ∧ v.rung = [] ∧
        Replies (.wwinStart m h w pb) s m h 0x060D [w, pb] (fun u => { u.primeSems v 0 0 with wwins := tins s.wwins w.toNat v }) 0 0 0) ∧
    (∀ (w : W64) (v : Wwin), s.wwin w.toNat = some v → v.part = m →
      (Takes s m h 0x060E [w] → v.run = true → v.reading = none →
        Replies (.wwinStop m h w) s m h 0x060E [w] (fun u => { u with wwins := tins s.wwins w.toNat { v with run := false } }) 0 0 0) ∧
      (∀ n, Takes s m h 0x060E [w] → v.run = true → v.reading = some n → Waits (.wwinStop m h w) s m h 0x060E [w] (fun u =>
        { u with wwins := tins s.wwins w.toNat { v with stop := some (m, h.tag.toNat) } })) ∧
      (∀ resp : W64, Takes s m h 0x060F [w, resp] → s.blockRefusal m resp 64 false true = none → ∃ bs : List Byte, bs.length = 64 ∧
        Replies (.wwinQuery m h w resp) s m h 0x060F [w, resp] (fun u => { u.awWrite m resp bs with fresh := s.fresh + 1 }) 0 0 0))


/-! ### Snapshot commands (R368, R371 to R377, R304) -/

/-- R371 to R377: SNAP_SET takes its list and shadows; SNAP_TAKE captures once no launch of the partition runs, or waits for the boundary
of its run, and returns the identifier; SNAP_LIST, SNAP_DELETE, SNAP_EXPORT, SNAP_IMPORT and SNAP_RESTORE; a shadow block is copied against
the DRAM regulator, and a flash write that ends is in the store. -/
def Obligations.SnapshotCommands : Prop :=
  ∀ (m : Nat) (h : CmdHdr) (s : State),
    (∀ pb : W64, Takes s m h 0x0700 [pb] → s.blockRefusal m pb 64 true false = none →
      let bs := s.awBytes m pb 64
      let w := fun o => wordAt bs o
      let a := bits (w 0) 0 48
      let n := bits (w 8) 0 11
      let es := (List.range n).map (fun i => parseSetEntry (s.bytes (a + 16 * i) 16))
      let set := es.map (·.1)
      let sum (f : SetEntry → Nat) : Nat := (set.map f).foldl (· + ·) 0
      let cfg : SnapCfg := { set := set, flash := bit (w 8) 11, keep := bits (w 8) 12 4, shadow0 := bits (w 0x10) 0 10, shadow1 := bits (w 0x10) 16 10 }
      bits (w 0) 48 16 = 0 → a % 64 = 0 → n ≤ 1024 → cfg.keep ≠ 0 → w 8 < 2 ^ 16 → bits (w 0x10) 10 6 = 0 → bits (w 0x10) 26 38 = 0 →
      (bs.drop 0x18).any (· ≠ 0) = false → (n ≠ 0 → s.permits m a (16 * n) true false false = true) → es.any (·.2) = false →
      (∀ e ∈ set, inDram e.addr = true ∧ s.permits m e.addr e.len true false false = true) → disjointSpans (set.map (fun e => (e.addr, e.len))) = true →
      sum (fun e => if e.kind = 1 then e.len / 16 else 0) ≤ 2 ^ 20 → s.shadowFit m cfg.shadow0 0 (sum (fun e => if dieOfAddr e.addr = 0 then e.len else 0)) = true →
      s.shadowFit m cfg.shadow1 1 (sum (fun e => if dieOfAddr e.addr = 1 then e.len else 0)) = true →
      Replies (.snapSet m h pb) s m h 0x0700 [pb] (fun u => u.updSnap m (fun x => { x with cfg := some cfg })) 0 0 0) ∧
    (Takes s m h 0x0701 [] →
      (∀ r, oget s.runs m = some r → Waits (.snapTake m h) s m h 0x0701 [] (fun u => { u with bounds := s.bounds ++ [(m, .take m h.tag.toNat)] })) ∧
      (oget s.runs m = none → s.launchRuns m = false → s.bounds = [] →
        let id := captureId m (s.part m).step.toNat
        ∃ (t : State) (x : Snap), exec (.snapTake m h) s = .next t ∧ t.journal = s.journal ∧ (t.snapPart m).shadow = some x ∧ x.id = id ∧
          x.secs = s.captureSecs m ∧ t.mem = s.mem ∧ t.bounds = [] ∧ cmdEntry (s.mbx m).session h 0x0701 0 id 0 ∈ (t.mbx m).due)) ∧
    (∀ resp : W64, Takes s m h 0x0702 [resp, 0] → s.blockRefusal m resp 2080 false true = none →
      let all := s.snapList m
      let out := all.take 63
      Replies (.snapList m h resp 0) s m h 0x0702 [resp, 0] (fun u => u.awWrite m resp
        (wordsLe ([out.length + 2 ^ 16 * b2n (decide (63 < all.length)), 0, 0, 0, 0, 0, 0, 0].map (BitVec.ofNat 64)) ++
          out.flatMap (fun e => wordsLe ([e.1, e.2.2 + 256 * e.2.1.vmin, e.2.1.total, e.2.1.ftime].map (BitVec.ofNat 64))))) 0 0 0) ∧
    (∀ (id : W64) (x : Snap), id.toNat / 2 ^ 48 % 16 = m → (s.snapList m).any (fun y => y.1 = id.toNat) = true → s.findSnap m id.toNat = some x →
      (Takes s m h 0x0703 [id] → ∃ u : State, exec (.snapRestore m h id) s = .next (u.updCmd (s.newCmd m h 0x0703 [id]) (fun d => { d with bg := true })) ∧
        u.bounds = s.bounds ++ [(m, .restore m h.tag.toNat id.toNat)] ∧ u.mem = s.mem ∧ u.parts = s.parts ∧ u.seqs = s.seqs) ∧
      (∀ dst len : W64, Takes s m h 0x0705 [id, dst, len] → x.total ≤ len.toNat → s.awBlock m dst x.total false true = true →
        GoesOn (.snapExport m h id dst len) s m h 0x0705 [id, dst, len] (fun u => u.readSnap m id.toNat (.cmd m h.tag.toNat)))) ∧
    (∀ (id : W64) (f : FlashSnap), Takes s m h 0x0704 [id] → id.toNat / 2 ^ 48 % 16 = m → oget s.fsnaps id.toNat = some f →
      Replies (.snapDelete m h id) s m h 0x0704 [id] (fun u =>
        { u with fsnaps := tdrop s.fsnaps id.toNat, flash := (s.flash.release (.snap id.toNat)).journal }) 0 0 0) ∧
    (∀ src len : W64, Takes s m h 0x0706 [src, len] → 0x2000 ≤ len.toNat → len.toNat % 4096 = 0 → s.awBlock m src len.toNat true false = true →
      GoesOn (.snapImport m h src len) s m h 0x0706 [src, len] id) ∧
    (∀ (o : BgFind) (c : Cmd) (x : Snap),
      (c.code = 0x0705 → awHost (c.w 1) = false → s.findSnap c.m (c.p 0) = some x →
        finOf o c s = ((s.endRead (.cmd c.m c.tag)).awWrite c.m (c.w 1) x.stored).complete c 0 false 0 0) ∧
      (∀ (k : Nat) (good : Bool) (q : Session), c.code = 0x0706 → awHost (c.w 0) = false → s.regOpen c.m 1 = true → c.sess = some q →
        let bs := s.awBytes c.m (c.w 0) (c.p 1)
        let id := captureId c.m (snapStep (wordAt bs 0x10)) + k * 2 ^ 52
        s.importNumber c.m (snapStep (wordAt bs 0x10)) = some k → bits (wordAt bs 0) 32 8 = 1 → bits (wordAt bs 0) 40 8 ≤ q.snapVer % 256 →
        parseSnap bs id = some (x, good) → s.snapBytes + x.total ≤ snapRegion →
        ∃ u : State, finOf o c s = u.commit c id 0 ∧ u.fsnaps = tins s.fsnaps id { snap := x, unusable := !good, lost := false } ∧ u.mem = s.mem ∧
          u.flash = s.flash.replace (.snap id) x.total ∧ oget s.fsnaps id = none) ∧
      (∀ id, c.code = 0x0703 → s.cmd c.m c.tag = some c → oget s.runs c.m = none → s.launchRuns c.m = false →
        s.bounds = [(c.m, .restore c.m c.tag id)] →
        let v := (s.setBounds c.m []).endRead (.cmd c.m c.tag)
        v.findSnap c.m id = some x → v.restoreRefusal c.m ((c.sess.map (fun q => q.snapVer % 256)).getD 0) x = none →
        finOf o c s = ((((v.placeSnap c.m x).finishDone c.m).placeQueues c.m x).dropLog c.m).complete c 0 false 0 0)) ∧
    (∀ p, (s.snapPart p).left ≠ 0 → s.regOpen p 0 = true →
      exec (.shadowCopyBlock p) s = .next ((s.charge p 0 65536).updSnap p (fun x => { x with left := x.left - 1 }))) ∧
    (∀ p snap prot c, (s.snapPart p).writing = some (snap, prot) → (s.snapPart p).cfg = some c → 1 ≤ c.keep → (s.snapPart p).left = 0 →
      s.regOpen p 1 = true → s.snapBytes + snap.total ≤ snapRegion → s.capturedOf p = [] →
      ∃ t : State, exec (.flashSnapshotWrite p) s = .next t ∧ t.fsnaps = tins s.fsnaps snap.id { snap := snap, unusable := false, lost := false } ∧
        (t.snapPart p).writing = none ∧ t.flash = s.flash.replace (.snap snap.id) snap.total ∧ t.mem = s.mem)

/-! ### Commands of the module (R269, R319 to R322, R340, R385 to R395, R419, R425 to R427, R431, R438) -/

/-- R319 to R322, R340, R385 to R395: the commands of the schedule domain, the twin pair, the links and the Iris sessions. DOM_CONFIG and
TWIN_CONFIG train the ports they need and, when the links and the other modules agree, the configuration is in force. -/
def Obligations.DomainAndIrisCommands : Prop :=
  ∀ (m : Nat) (h : CmdHdr) (s : State),
    (∀ (pb : W64) (d : Domain), Takes s m h 0x0800 [pb] → s.blockRefusal m pb 64 true false = none → parseDomain (s.awBytes m pb 64) = (d, false) →
      GoesOn (.domConfig m h pb) s m h 0x0800 [pb] (fun u => u.restartPorts ((List.range 24).filter (fun k => d.uses (k / 4))))) ∧
    (∀ (c : Cmd) (d : Domain), c.code = 0x0800 → awHost (c.w 0) = false → parseDomain (s.awBytes c.m (c.w 0) 64) = (d, false) →
      (∀ k < 24, d.uses (k / 4) = true → (s.port k).state ≠ .identFail) → (∀ dir < 6, d.uses dir = true → s.upPorts dir ≠ []) →
      ∃ u : State, finOf .done c s = u.complete c 0 false 0 0 ∧ u.domain = some d ∧ u.mem = s.mem ∧
        (d.x = 0 → d.y = 0 → d.z = 0 → u.ftime = s.ftime) ∧
        (¬(d.x = 0 ∧ d.y = 0 ∧ d.z = 0) → 0 ≤ ((s.time / 8 : Nat) : Int) + s.ftAdj → u.ftime = Config.domainTime s.fresh)) ∧
    (∀ d, Takes s m h 0x0801 [] → s.domain = some d → (∀ p < 16, bit d.pmask p = true → s.working p = false) →
      Replies (.domLeave m h) s m h 0x0801 [] (fun u => { u with domain := none, twin := none, outbox := [] }) 0 0 0) ∧
    (∀ d, Takes s m h 0x0801 [] → s.domain = some d → (∃ p < 16, bit d.pmask p = true ∧ s.working p = true) → Waits (.domLeave m h) s m h 0x0801 [] id) ∧
    (Takes s m h 0x0801 [] → s.domain = none → Replies (.domLeave m h) s m h 0x0801 [] id 0x16 0 0) ∧
    (∀ k resp : W64, Takes s m h 0x0802 [k, resp] → k.toNat < 26 → s.blockRefusal m resp 64 false true = none →
      let q := s.port k.toNat
      Replies (.linkQuery m h k resp) s m h 0x0802 [k, resp] (fun u => u.awWrite m resp (wordsLe
        [BitVec.ofNat 64 (q.state.code + 2 ^ 8 * q.ver + 2 ^ 24 * q.nport), q.fec, q.unc, q.crc, q.replay, q.retrain.setWidth 64, q.serial, 0])) 0 0 0) ∧
    (∀ (pb : W64), Takes s m h 0x0803 [pb] → s.blockRefusal m pb 64 true false = none → (parseTwin (s.awBytes m pb 64) s.dmask).2 = false →
      GoesOn (.twinConfig m h pb) s m h 0x0803 [pb] (fun u => u.restartPorts [24, 25])) ∧
    (∀ (c : Cmd) (t : Twin) (k : Nat), c.code = 0x0803 → awHost (c.w 0) = false → parseTwin (s.awBytes c.m (c.w 0) 64) s.dmask = (t, false) →
      (k = 24 ∨ k = 25) → (s.port k).state = .up → (s.port k).serial = t.peer →
      finOf .done c s = State.complete { s with twin := some t } c 0 false 0 0) ∧
    (Takes s m h 0x0804 [] → (s.domain ≠ none → Replies (.ftimeQuery m h) s m h 0x0804 [] id 0 s.ftime 0) ∧
      (s.domain = none → Replies (.ftimeQuery m h) s m h 0x0804 [] id 0x16 0 0)) ∧
    (∀ pb : W64, Takes s m h 0x0900 [pb] → s.blockRefusal m pb 128 true false = none →
      let x := parseIris m (s.awBytes m pb 128)
      x.bad = false → s.irisSpans m x = true → s.irisOf m x.core = true → (x.codec = 1 → x.dec = false → (s.mbx m).feat 5 = true) →
      s.semIn m x.psem.2 = true → x.unsupported = false → (s.iris.filter (fun e => e.2.core = x.core)).length < 16 →
      (∃ k < 256, oget s.iris k = none) → ∃ k < 256, oget s.iris k = none ∧
        Replies (.irsOpen m h pb) s m h 0x0900 [pb] (fun u => { u with iris := tins s.iris k x, fresh := s.fresh + 1 }) 0 k 0) ∧
    (∀ (k : W64) (x : IrisSess), oget s.iris k.toNat = some x → x.part = m →
      (Takes s m h 0x0901 [k] → x.closing = none →
        (s.irisBusy k.toNat x = false → Replies (.irsClose m h k) s m h 0x0901 [k] (fun u => { u with iris := tdrop s.iris k.toNat }) 0 0 0) ∧
        (s.irisBusy k.toNat x = true → Waits (.irsClose m h k) s m h 0x0901 [k] (fun u =>
          { u with iris := tins s.iris k.toNat { x with held := [], group := 0, closing := some (m, h.tag.toNat) } }))) ∧
      (∀ resp : W64, Takes s m h 0x0902 [k, resp] → s.blockRefusal m resp 64 false true = none →
        Replies (.irsQuery m h k resp) s m h 0x0902 [k, resp] (fun u => u.awWrite m resp (wordsLe
          ([x.n % 2 ^ 32 + 2 ^ 32 * x.held.length + 2 ^ 40 * b2n x.closing.isSome, x.pics.toNat, x.bytes.toNat, 0, 0, 0, 0, 0].map (BitVec.ofNat 64)))) 0 0 0))

/-- R279, R425 to R427, R431, R438: the commands of power, telemetry, security and diagnostics. The blocks of TEL_READ and DIAG_LOG are
free bytes (log 10), and so is the fault that a DIAG_INJECT block asks for; a DIAG_SELFTEST while another runs answers ST_RESOURCE (the
model's choice, log 44); PWR_MODULE lets the mailbox go on while its transition runs (log 29). -/
def Obligations.PowerSecurityDiagnostics : Prop :=
  ∀ (m : Nat) (h : CmdHdr) (s : State),
    (∀ (us : W64) (q : Part), Takes s m h 0x0A00 [us] → us.toNat < 2 ^ 32 → oget s.parts m = some q →
      Replies (.pwrTimeout m h us) s m h 0x0A00 [us] (fun u =>
        { u with parts := tins s.parts m { q with offUs := BitVec.ofNat 32 us.toNat } }) 0 0 0) ∧
    (∀ t : W64, Takes s m h 0x0A01 [t] → t.toNat ≤ 2 → s.board.trans = none → s.board.sleepAt = none →
      (t.toNat = s.modeNo → Replies (.pwrModule m h t) s m h 0x0A01 [t] id 0 0 0) ∧
      (t = 0 → s.mode ≠ .active → Replies (.pwrModule m h t) s m h 0x0A01 [t] (fun u => State.platformEvent { u with mode := .active }) 0 0 0) ∧
      (t ≠ 0 → t.toNat ≠ s.modeNo → (t = 2 → s.sleepRefused = false) → ∃ u : State, exec (.pwrModule m h t) s = .next u ∧
        u.board = { s.board with trans := some (m, h.tag.toNat, t.toNat) } ∧ u.mode = s.mode ∧ u.mem = s.mem ∧ (u.mbx m).due = (s.mbx m).due)) ∧
    (∀ mask : W64, Takes s m h 0x0A02 [mask] →
      Replies (.telSubscribe m h mask) s m h 0x0A02 [mask] (fun u => u.updMbx m (fun b => { b with telMask := mask })) 0 0 0) ∧
    (∀ resp : W64, Takes s m h 0x0A03 [resp] → s.blockRefusal m resp 64 false true = none → ∃ bs : List Byte, bs.length = 64 ∧
      Replies (.telRead m h resp) s m h 0x0A03 [resp] (fun u => { u.awWrite m resp bs with fresh := s.fresh + 1 }) 0 0 0) ∧
    (∀ p k : W64, Takes s m h 0x0B00 [p, k] → s.blockRefusal m k 256 true false = none → p.toNat < 16 → (oget s.parts p.toNat).isSome = true →
      s.isSecure p.toNat = false →
      let bs := s.awBytes m k 256
      let id := wordAt bs 8
      let x := beNat ((bs.drop 0x10).take 66)
      let y := beNat ((bs.drop 0x52).take 66)
      let slot := 4 * p.toNat + wordAt bs 0
      wordAt bs 0 < 4 → (bs.drop 0x94).any (· ≠ 0) = false →
      (x = 0 → y = 0 → Replies (.secKeySet m h p k) s m h 0x0B00 [p, k] (fun u => { u with pkeys := tdrop s.pkeys slot }) 0 0 0) ∧
      (id ≠ 0 → P521.onCurve (x, y) = true → ¬(x = 0 ∧ y = 0) → (∀ e ∈ s.pkeysOf p.toNat, e.1 ≠ wordAt bs 0 → e.2.id.toNat ≠ id) →
        Replies (.secKeySet m h p k) s m h 0x0B00 [p, k] (fun u =>
          { u with pkeys := tins s.pkeys slot { id := BitVec.ofNat 64 id, x := x, y := y } }) 0 0 0)) ∧
    (∀ p e : W64, Takes s m h 0x0B01 [p, e] → p.toNat < 16 → (oget s.parts p.toNat).isSome = true →
      (e = 1 → s.maySecure p.toNat = true → Replies (.secSecure m h p e) s m h 0x0B01 [p, e] (fun u =>
        { u with secure := p.toNat :: s.secure.filter (· ≠ p.toNat) }) 0 0 0) ∧
      (e = 0 → s.mayRelease p.toNat = true → Replies (.secSecure m h p e) s m h 0x0B01 [p, e] (fun u =>
        { u with secure := s.secure.filter (· ≠ p.toNat) }) 0 0 0)) ∧
    (∀ n r : W64, Takes s m h 0x0B02 [n, r] → s.blockRefusal m n 64 true false = none → s.blockRefusal m r 98304 false true = none →
      let rep := s.report427 m (s.awBytes m n 64)
      Replies (.secAttest m h n r) s m h 0x0B02 [n, r] (fun u =>
        (u.awWrite m r rep).awWrite m (r + BitVec.ofNat 64 (roundUp rep.length 64)) s.akChain) 0 0 0) ∧
    (∀ resp start : W64, Takes s m h 0x0C00 [resp, start] → s.blockRefusal m resp 64 false true = none → ∃ bs : List Byte, bs.length = 64 ∧
      Replies (.diagLog m h resp start) s m h 0x0C00 [resp, start] (fun u => { u.awWrite m resp bs with fresh := s.fresh + 1 }) 0 0 0) ∧
    (∀ (w : W64) (k : EngineKind) (n : Nat), Takes s m h 0x0C01 [w] → bits w.toNat 4 4 = 0 → w.toNat < 2 ^ 16 → diagUnit w.toNat = some (k, n) →
      s.engineOf m k n = true → s.unitBusy k n = false →
      (s.journal.any (fun d => d.code == 0x0C01 && d.bg) = false → GoesOn (.diagSelftest m h w) s m h 0x0C01 [w] id) ∧
      (s.journal.any (fun d => d.code == 0x0C01 && d.bg) = true → Replies (.diagSelftest m h w) s m h 0x0C01 [w] id 0x19 0 0)) ∧
    (∀ c : Cmd, c.code = 0x0C01 → finOf .done c s = s.complete c 0 false 0 0 ∧
      ∀ n, diagUnit (c.p 0) = some (.core, n) → finOf .unitFails c s = (s.unitFails .core n).complete c 0 false 0 0) ∧
    (∀ pb : W64, Takes s m h 0x0C02 [pb] → s.blockRefusal m pb 64 true false = none →
      let ps := s.parts.filter (fun e => e.2.diag && !s.isSecure e.1)
      let bs := s.awBytes m pb 64
      (ps = [] → Replies (.diagInject m h pb) s m h 0x0C02 [pb] id 0x16 0 0) ∧
      (∀ x, ps[Config.diagInject bs 0 % max 1 ps.length]? = some x → Replies (.diagInject m h pb) s m h 0x0C02 [pb] (fun u => u.inject x.1 bs) 0 0 0))


/-! ### Serving runs and steps (R26, R303 to R309, R326, R338, R341 to R343, R359, R366, R372) -/

/-- R26, R303, R306 to R308, R326, R338, R341 to R343, R359, R366, R372: a STEP with STOP ends a run at its next boundary; another STEP
starts a run with its first capture and tick. A tick of an idle run selects a step or leaves the run idle. A boundary advances the
step's sequences and QE_STEP; in a domain it waits at the step barrier, whose opening goes on, rolls back where the digests differ, or
waits for the twin. Equal step digests pass; differing ones replay the step. A replay goes back to the newest snapshot, and where none is
left the module has failed. -/
def Obligations.StepsAndReplays : Prop :=
  (∀ (q : Nat) (s : State) (x : Qp) (e : QpEntry), s.nextEntry q = some (x, e, false) → e.ty = 4 → bits (e.w 1) 48 16 = 0 → bits (e.w 2) 33 31 = 0 →
    bits (e.w 3) 48 16 = 0 → e.tailBad 4 = false → s.varDenied x.part e = false →
    let took (f : Bool) : State := s.take q { e with started := f || e.started }
    (bit (e.w 2) 32 = true → oget s.runs x.part = none → exec (.step q) s = .next ((took false).endEntry q e.at_ (e.dueWith 0))) ∧
    (bit (e.w 2) 32 = true → ∀ r, oget s.runs x.part = some r → r.idle = false →
      exec (.step q) s = .next { (took false).endEntry q e.at_ (e.dueWith 0) with runs := tins s.runs x.part { r with stop := true } }) ∧
    (bit (e.w 2) 32 = true → ∀ r, oget s.runs x.part = some r → r.idle = true →
      exec (.step q) s = .next (((took false).endEntry q e.at_ (e.dueWith 0)).endRun x.part 0)) ∧
    (bit (e.w 2) 32 = false → ∀ r, oget s.runs x.part = some r → exec (.step q) s = .next ((took false).endEntry q e.at_ (e.dueWith 0x16))) ∧
    (bit (e.w 2) 32 = false → ∀ plan, oget s.runs x.part = none → s.readPlan x.part (bits (e.w 1) 0 48) e.var = .ok plan →
      ∃ r : Run, r.qp = q ∧ r.at_ = e.at_ ∧ r.tag = e.tag ∧ r.plan = plan ∧ r.nsteps = bits (e.w 2) 0 32 ∧ r.stepsRun = 0 ∧ r.inStep = false ∧
        r.wait = 0 ∧ r.stop = false ∧ r.faultAddr = bits (e.w 3) 0 48 ∧
        let u := State.dropLog { took true with runs := tins s.runs x.part r } x.part
        exec (.step q) s = .next (((u.openBars x.part).firstCapture x.part).tick x.part) ∧
        ∃ y, ((u.openBars x.part).firstCapture x.part).snapPart x.part = y ∧
          ∃ z, y.shadow = some z ∧ z.id = captureId x.part (s.part x.part).step.toNat)) ∧
  (∀ (p : Nat) (s u : State) (r : Run), oget s.runs p = some r → r.idle = true → r.wait = 0 → r.replay = false → s.takeIn p = some u →
    ∀ sel start, u.selectSeqs p r.plan = (sel, start) →
      (sel = [] → exec (.stepTick p) s = .next { u with runs := oupd u.runs p (fun r => { r with idle := true }) }) ∧
      (sel ≠ [] → ∃ v : State, exec (.stepTick p) s = .next (v.emitStep p r sel) ∧ v.mem = u.mem ∧ v.seqs = u.seqs ∧
        v.runs = oupd u.runs p (fun r => { r with idle := false, inStep := true, sel := sel, rungs := [], faulted := false }) ∧
        v.parts = oupd u.parts p (fun q => { q with start := start }))) ∧
  (∀ (p : Nat) (s : State) (r : Run), oget s.runs p = some r → r.inStep = true → r.wait = 0 → r.replay = false → s.stepRetired p = true →
    (r.faulted = true ∨ r.status ≠ 0 → exec (.stepBoundary p) s = .next (s.endRun p r.status)) ∧
    (r.faulted = false → r.status = 0 →
      (s.domained p = true → exec (.stepBoundary p) s = .next (State.tell { s with runs := tins s.runs p { r with wait := 1 } }
        (.domain 1 p [(s.fab p).dig0, (s.fab p).dig1, BitVec.ofNat 64 (b2n (s.captureDue p)), BitVec.ofNat 64 (s.newestStep p)]))) ∧
      (∀ e q c x en, s.domained p = false → s.captureDue p = false → s.twinned p = false → r.sel = [e] → s.bounds = [] →
        (∀ y ∈ s.seqs, y.2.state = 3 → s.seqIn p y.1 = false) → oget s.stepLogs p = none →
        r.nsteps = r.stepsRun + 1 → oget s.parts p = some q → s.seq e = c → c.state = 1 → c.pass + 1 < c.npass →
        s.qp r.qp = some x → x.entries = [en] → en.at_ = r.at_ → x.destroy = none → x.discard = false →
        ∃ t : State, exec (.stepBoundary p) s = .next t ∧ t.mem = s.mem ∧ t.runs = tdrop s.runs p ∧
          t.parts = tins s.parts p { q with step := q.step + 1 } ∧
          t.seqs = tins s.seqs e { c with pass := c.pass + 1, cursor := c.cursor + BitVec.ofNat 64 c.cstep } ∧
          t.wwins = s.wwins.map (fun w => (w.1, if w.2.part = p ∧ w.2.run = true then { w.2 with n0 := w.2.n0 + w.2.nlayer } else w.2)) ∧
          ∃ d : QpDue, d.status = 0 ∧ d.count = r.stepsRun + 1 ∧ d.tag = r.tag ∧ t.qp r.qp = some { x with entries := [], due := x.due ++ [d] }))) ∧
  (∀ (p n : Nat) (xor : W64) (due : Bool) (s : State) (r : Run), oget s.runs p = some r →
    let v := (s.updFab p (fun f => { f with dig0 := 0, dig1 := 0, opened := n }))
    let w := (v.setBar p 0 255 { s.bar p 0 255 with epoch := (s.bar p 0 255).epoch + 1 }).setBar p 1 255
      { s.bar p 1 255 with epoch := (s.bar p 1 255).epoch + 1 }
    (r.wait = 3 → exec (.stepBarrierOpen p xor due n) s = .next (State.tick { s with runs := tins s.runs p { r with wait := 0 } } p)) ∧
    (r.wait = 1 → xor ≠ 0 → exec (.stepBarrierOpen p xor due n) s = .next (w.rollback p n)) ∧
    (r.wait = 1 → s.twinned p = false → exec (.stepBarrierOpen p 0 due n) s =
      .next ((w.updFab p (fun f => { f with verified := false })).boundaryDone p due 0))) ∧
  (∀ (p n risk : Nat) (peer : W64) (other due : Bool) (s : State) (r : Run) (t : Twin), oget s.runs p = some r → r.wait = 2 → s.twin = some t → t.lost = false →
    ((s.fab p).digest = peer → other = false → exec (.stepDigestExchange p peer other due n risk) s =
      .next (s.boundaryDone p (due || r.due) (s.fab p).digest)) ∧
    ((s.fab p).digest ≠ peer ∨ other = true → r.mism.1 ≠ s.stepNo p → exec (.stepDigestExchange p peer other due n risk) s =
      .next (State.rollback { s with runs := tins s.runs p { r with mism := (s.stepNo p, 1) } } p n))) ∧
  (∀ (p n : Nat) (s : State) (r : Run), oget s.runs p = some r →
    (r.replay = true → r.wait ≠ 4 → s.twinned p = false → s.domained p = false →
      (∀ x, s.newestSnap p = some x → (s.shadowSnap p x.id).isSome = true → exec (.stepReplay p) s = .next (s.replayFrom p x false)) ∧
      (∀ x, s.newestSnap p = some x → s.shadowSnap p x.id = none → exec (.stepReplay p) s = .next
        (State.updRun ((s.discardStep p).beginRead (.restore p) (.snap x.id)) p (fun r => { r with wait := 4, back := snapStep x.id }))) ∧
      (s.newestSnap p = none → exec (.stepReplay p) s = .next (s.discardStep p).failModule)) ∧
    (r.wait = 4 → s.flash.steady (.restore p) = true → s.domained p = false → ∀ x,
      (s.endRead (.restore p)).newestSnap p = some x → snapStep x.id = r.back →
      exec (.stepReplay p) s = .next ((s.endRead (.restore p)).replayFrom p x false)) ∧
    (s.domained p = true → exec (.replayNotice p n) s = .next (s.replayTo p (Min.min n (Min.min (s.newestStep p) (s.fab p).opened))))) ∧
  (∀ (s : State) (t : Twin), s.twin = some t → t.lost = false → (∀ r ∈ s.runs, r.2.wait ≠ 2) →
    exec .twinReplayNotice s = .next (State.eventAll { s.tell (.domain 3 0 []) with twin := some { t with lost := true } } 0x12 1)) ∧
  (∀ (p : Nat) (ns : List (Nat × Nat)) (s : State), s.twinned p = true →
    exec (.admissionCountReceive p ns) s = .next (s.updFab p (fun f => { f with counts := f.counts ++ [ns] })))


/-! ### The fabric and collectives (R311 to R317, R322, R323, R327 to R336, R340, R343) -/

/-- R312 to R314, R316, R317, R322, R323, R327, R340, R343: a port discards a flit that fails its check and says so; the next flit in
order is accepted; a timeout replays what is unacknowledged; retraining, training, the acknowledgement timer, SYNC flits, the configuration
writes of barriers and collective queues, and the twin's heartbeat. -/
def Obligations.FabricEvents : Prop :=
  (∀ (k : Nat) (f : Flit) (s : State), (s.port k).state = .up →
    let bad := decide (f.bytes.length ≠ 272 ∨ ofLe (f.bytes.drop 268) ≠ crc32c (f.bytes.take 268))
    let q := s.port k
    (f.uncorrectable = true ∨ bad = true → ∃ t : State, exec (.flitReceive k f) s = .next t ∧ t.mem = s.mem ∧ (t.port k).nak = true ∧
      (t.port k).rxSeq = q.rxSeq ∧ (t.port k).unc = q.unc + BitVec.ofNat 64 f.unc ∧
      (t.port k).crc = q.crc + BitVec.ofNat 64 (b2n bad) ∧ (t.port k).fec = q.fec + BitVec.ofNat 64 f.corrected) ∧
    (f.uncorrectable = false → bad = false → bits (ofLe (f.bytes.take 4)) 0 4 ∈ [1, 2, 3] → bits (ofLe (f.bytes.take 4)) 12 12 = q.rxSeq →
      ∃ t : State, exec (.flitReceive k f) s = .next t ∧ t.mem = s.mem ∧ (t.port k).rxSeq = (q.rxSeq + 1) % 4096 ∧ (t.port k).rxAny = true ∧
        (t.port k).nak = false ∧ (t.port k).crc = q.crc)) ∧
  (∀ (k : Nat) (s : State), (s.port k).state = .up →
    ((s.port k).buffer ≠ [] → s.health.failed = false → ∃ t : State, exec (.flitReplayTimeout k) s = .next t ∧
      t.port k = { s.port k with replay := (s.port k).replay + 1, buffer := (s.port k).buffer.map (fun f => { f with tries := f.tries + 1 }) } ∧
      t.sent = s.sent ++ (s.port k).buffer.map (fun f => .port k f.bytes)) ∧
    (0 < (s.port k).since → s.health.failed = false → ∃ (t : State) (bs : List Byte), exec (.ackTimer k) s = .next t ∧ t.port k = { s.port k with since := 0 } ∧
      t.sent = s.sent ++ [.port k bs] ∧ bs.length = 272 ∧ bits (ofLe (bs.take 4)) 0 4 = 0) ∧
    (∀ fec, ((∃ f ∈ (s.port k).buffer, 8 ≤ f.tries) ∨ fec = true) → ∃ t : State, exec (.portRetrain k fec false) s = .next t ∧
      t.port k = { s.port k with state := .training, retrain := (s.port k).retrain + 1,
                                 buffer := (s.port k).buffer.map (fun f => { f with tries := 0 }) } ∧ t.health.e = s.health.e + 512 * 2 ^ 32) ∧
    (∀ t : W64, ∃ u : State, exec (.syncFlit k t) s = .next u ∧ u.time = s.time ∧ s.ftime ≤ u.ftime ∧ u.ftime ≤ s.ftime + 1 ∧
      ((s.port k).buffer.length < 1024 → (u.port k).txSeq = ((s.port k).txSeq + 1) % 4096) ∧
      (1024 ≤ (s.port k).buffer.length → u.port k = s.port k ∧ u.sent = s.sent) ∧ u.mem = s.mem)) ∧
  (∀ (k : Nat) (t : TrainInfo) (s : State), (s.port k).state = .training → t.answers = true → k < 26 →
    (linkVersion t.verLo t.verHi = none → ∃ u : State, exec (.portTrainingDone k t) s = .next u ∧ u.port k = { s.port k with state := .versionFail }) ∧
    (∀ v, linkVersion t.verLo t.verHi = some v → s.partnerOk k t = false →
      ∃ u : State, exec (.portTrainingDone k t) s = .next u ∧ u.port k = { s.port k with state := .identFail }) ∧
    (∀ v, linkVersion t.verLo t.verHi = some v → s.partnerOk k t = true →
      ∃ u : State, exec (.portTrainingDone k t) s = .next u ∧ (u.port k).state = .up ∧ (u.port k).ver = v ∧ (u.port k).serial = t.serial ∧
        (u.port k).nport = t.port ∧ u.mem = s.mem)) ∧
  (∀ (p die i : Nat) (v : W64) (s : State), i < 256 → die < 2 → p < 16 →
    let b := s.bar p die i
    let w := { b with en := v.getLsbD 0, span := bits v.toNat 1 4, arrive := bits v.toNat 5 12 }
    (b.arrivals = [] → exec (.fabBarCfgWrite p die i v) s = .next (s.setBar p die i { w with
      inEn := w.en, inSpan := w.span, inArrive := w.arrive, epoch := if w.en && !b.inEn then 0 else b.epoch })) ∧
    (b.arrivals ≠ [] → exec (.fabBarCfgWrite p die i v) s = .next (s.setBar p die i w))) ∧
  (∀ (p die q : Nat) (v : W64) (s : State), q < 4 → die < 2 → p < 16 →
    let c := s.cq p die q
    let puts (k : Cq) : Host.Outcome State Fault Refusal := .next (s.updCq p die q (fun _ => k))
    (c.en = true → exec (.fabCqCfgWrite p die q v) s = puts { c with en := v.getLsbD 0 }) ∧
    (c.en = false → v.getLsbD 0 = true → exec (.fabCqCfgWrite p die q v) s =
      puts { c with en := true, log2n := bits v.toNat 1 4, psem := bits v.toNat 5 12, n := 0, fault := false, run := none, ready := [] }) ∧
    (c.en = false → v.getLsbD 0 = false → exec (.fabCqCfgWrite p die q v) s = puts { c with log2n := bits v.toNat 1 4, psem := bits v.toNat 5 12 })) ∧
  (∀ (s : State) (t : Twin), s.twin = some t → t.lost = false →
    (s.health.failed = false → exec .twinHeartbeat s = .next (State.tell { s with twin := some { t with beat := t.beat + 1 } } (.twin 0 0 []))) ∧
    ((∀ r ∈ s.runs, r.2.wait ≠ 2) → exec .twinHeartbeatTimeout s =
      .next (State.eventAll { s.tell (.domain 3 0 []) with twin := some { t with lost := true } } 0x12 1)) ∧
    (∀ p r, oget s.runs p = some r → r.wait = 2 → exec (.twinWaitTimeout p) s = .next ((s.tell (.domain 3 0 [])).twinGone 1)))

/-- R327 to R336: a collective starts when its semaphore and its wait allow it; a malformed descriptor faults its queue. A chunk in turn
is added to the result digest, taken and answered; one that fails its CRC is asked for again, and the sender sends it again from its staging
memory. A SEND sends once its RECV has started. A complete collective counts and signals; an abort
faults the queue; a forwarding channel sends its oldest drain. -/
def Obligations.Collectives : Prop :=
  (∀ (p die q : Nat) (s : State), (s.cq p die q).en = true → (s.cq p die q).fault = false → (s.cq p die q).run = none → s.regOpen p 0 = true → s.workOpen = true →
    s.health.failed = false → q < 4 → die < 2 → (oget s.parts p).isSome = true → s.semIn p (s.cq p die q).psem = true →
    let c := s.cq p die q
    let a := c.base + 128 * (c.n % 2 ^ c.log2n)
    let ws := (List.range 16).map (fun i => BitVec.ofNat 64 (s.le (a + 8 * i) 8))
    let x := parseColl ws
    ((s.sem die c.psem).value.toNat ≤ c.n → exec (.collectiveStart p die q) s = .next s) ∧
    (c.n < (s.sem die c.psem).value.toNat → s.permits p a 128 true false false = true →
      (collBad ws (2 * s.dom.dx * s.dom.dy * s.dom.dz) = true → ∃ t : State, exec (.collectiveStart p die q) s = .next t ∧
        (t.cq p die q).fault = true ∧ (t.cq p die q).run = none ∧ (t.cq p die q).n = c.n) ∧
      (collBad ws (2 * s.dom.dx * s.dom.dy * s.dom.dz) = false → x.var = false → (∀ i, x.csem = some i ∨ x.dsem = some i → s.semIn p i = true) →
        (∀ i n, x.wsem = some (i, n) → s.semIn p i = true ∧ n ≤ (s.sem die i).value.toNat) →
        exec (.collectiveStart p die q) s = .next (s.collBegin p die q ws x) ∧
        (x.op = 3 → s.permits p x.src x.count true false false = true → c.ready.find? (fun r => r.1 = x.peer) = none →
          ∃ r : Coll, r.words = ws ∧ r.outs = 0 ∧ r.sent = [] ∧ r.staged = [] ∧ r.lo.k = 0 ∧
          exec (.collectiveStart p die q) s = .next (State.updCq ({ s with fresh := s.fresh + 1 }.chargeLines p [(x.src, x.count)]) p die q
            (fun k => { k with run := some r })))))) ∧
  (∀ (p die q : Nat) (ch : Chunk) (s : State) (c : Coll), (s.cq p die q).run = some c → (s.cq p die q).en = true → (s.cq p die q).fault = false →
    let x := parseColl c.words
    let no := ch.word2.toNat % 2 ^ 32
    let data := ch.packets.flatMap (·.2)
    let n := Min.min x.chunkItems (x.count - c.lo.pos)
    x.op = 4 → ch.what = .data → ch.word0.toNat % 16 = 2 → ch.src = x.peer → ch.sig.toNat / 16 = x.sig / 16 → c.lo.no = no → c.lo.pos < x.count →
    (data.length = n * x.itemBytes → crc32c data = ch.ccrc.toNat → ((s.fab p).verified = false ∨ ch.hOk = true) →
      exec (.chunkReceive p die q ch) s = .next (State.collProgress (((s.digest p die (chunkDigest ch.word0 ch.sig ch.word2 data)).answer .taken p die ch).updCq p die q (fun k =>
        { k with run := some { c with lo := { c.lo with pos := c.lo.pos + n, no := no + 1, bad := 0 },
                                      blocks := oput c.blocks 0 (some (c.held 0 ++ x.unpack data)) } })) p die q x)) ∧
    (crc32c data ≠ ch.ccrc.toNat → c.lo.bad < 3 → exec (.chunkReceive p die q ch) s = .next (State.answer (s.updCq p die q (fun k =>
      { k with run := some { c with lo := { c.lo with bad := c.lo.bad + 1 } } })) .again p die ch))) ∧
  (∀ (p die q : Nat) (ch : Chunk) (s : State) (c : Coll), (s.cq p die q).run = some c → (s.cq p die q).en = true → (s.cq p die q).fault = false →
    let x := parseColl c.words
    (ch.what = .ready → x.op = 3 → c.lo.k = 0 → (s.cq p die q).ready = [] → ch.src = x.peer → ch.sig.toNat / 16 = x.sig / 16 →
      ∃ t : State, exec (.chunkReceive p die q ch) s = .next (t.sendAll p die q x) ∧ t.cq p die q = s.cq p die q ∧ t.mem = s.mem) ∧
    (ch.what = .taken → ch.word0.toNat % 16 ≠ 3 → ch.word0 = s.collWord0 p die q x → exec (.chunkReceive p die q ch) s =
      .next (s.updCq p die q (fun k => { k with run := some { c with
        staged := c.staged.filter (fun e => !(e.dst == ch.src && e.no == ch.word2.toNat % 2 ^ 32)) } }))) ∧
    (∀ e, ch.what = .again → ch.word0.toNat % 16 ≠ 3 → ch.word0 = s.collWord0 p die q x →
      c.staged.find? (fun e => e.dst == ch.src && e.no == ch.word2.toNat % 2 ^ 32) = some e → exec (.chunkReceive p die q ch) s =
        .next (s.putChunk p die ch.src ch.word0 ch.sig ch.word2 e.pieces))) ∧
  (∀ (p die q : Nat) (ch : Chunk) (s : State), ch.what = .data → ch.word0.toNat % 16 = 3 → ((s.fab p).verified = false ∨ ch.hOk = true) → crc32c (ch.packets.flatMap (·.2)) = ch.ccrc.toNat →
    (∀ x ∈ ch.packets, s.permits p x.1.toNat x.2.length false true false = true) →
    ∃ t : State, exec (.chunkReceive p die q ch) s = .next t ∧ t.mem = (s.writes (ch.packets.map (fun x => (x.1.toNat, x.2)))).mem ∧
      t.cqs = s.cqs ∧ t.outbox = s.outbox) ∧
  (∀ (p die q peer : Nat) (s : State), (s.cq p die q).en = true →
    ((s.cq p die q).fault = false → ∃ t : State, exec (.collAbortReceive p die q peer) s = .next t ∧ (t.cq p die q).fault = true ∧
      (t.cq p die q).run = none ∧ (t.cq p die q).n = (s.cq p die q).n) ∧
    ((s.cq p die q).fault = true → exec (.collAbortReceive p die q peer) s = .next s)) ∧
  (∀ (p die q : Nat) (s : State) (c : Coll), (s.cq p die q).run = some c →
    let x := parseColl c.words
    (x.op = 3 → c.lo.k ≠ 0) → c.staged = [] → ceilDiv (x.outItems (s.dom.count x.span) * x.outBytes) (2 ^ (16 + x.clog)) ≤ c.outs → (s.dom.stages die x c.dbl).length ≤ c.stage →
    let ends (u : State) : Host.Outcome State Fault Refusal := .next (u.updCq p die q (fun k => { k with run := none, n := k.n + 1 }))
    (x.dsem = none → exec (.collectiveComplete p die q) s = ends s) ∧
    (∀ i, x.dsem = some i → (s.sem die i).value.toNat < 2 ^ 32 - 1 → exec (.collectiveComplete p die q) s =
      ends (s.setSem die i { s.sem die i with value := BitVec.ofNat 32 ((s.sem die i).value.toNat + 1) }))) ∧
  (∀ (k : Nat) (s : State) (d : Domain) (ws : List (Nat × List Byte)) (rest : List (List (Nat × List Byte))), (s.fwd k).queue = ws :: rest →
    s.domain = some d → s.health.failed = false →
    let f := s.fwd k
    let ps := ws.map (fun w => (f.dst + (w.1 - f.src), w.2))
    let sent : SentChunk := { dst := f.peer, no := f.count % 2 ^ 32, pieces := ps }
    ∃ t : State, t.fwd k = { f with queue := rest, count := f.count + 1, staged := f.staged ++ [sent] } ∧ t.mem = s.mem ∧
      exec (.forwardDrain k) s = .next (t.sendChunk (bits d.fwdp (4 * k) 4) (k / 4) f.peer
        (BitVec.ofNat 64 (3 + 2 ^ 4 * (k % 4) + 2 ^ 32 * (f.count % 2 ^ 32))) 0 0 ps))

/-! ### Marigold (R207, R354 to R368) -/

/-- R354 to R356, R360 to R368: weights enter the sum E; a failed unit is reported and quarantined, its number moving to a spare of its
die; without a spare, or on a hub failure, the module fails. A picked unit of work is audited once; equal digests end the audit,
unequal ones report an engine. A share that must run again begins again. A first poison report of a step asks for a replay, and one after
the replay ends the run. The risk estimate and its decay follow their formulas. -/
def Obligations.HealthEvents : Prop :=
  (∀ s : State, exec .moduleFailure s = .next { s with health := { s.health with failed := true } } ∧
    (∀ k n, exec (.sramCorrected k n) s = .next { s with health := { s.health with e := s.health.e + 16 * 2 ^ 32 } }) ∧
    (∀ n, exec (.unitCheckFailure .hub n) s = .next { s with health := { s.health with failed := true } }) ∧
    (∀ n, exec (.sramUncorrectable .hub n) s = .next { s with health := { s.health with e := s.health.e + 8192 * 2 ^ 32, failed := true } })) ∧
  (∀ (k : UnitKind) (n : Nat) (s : State), k ∈ [UnitKind.core, .fox, .prim] → s.health.faulty.contains (unitCode k, n) = false →
    let t : State := { s with health := { s.health with e := s.health.e + 16384 * 2 ^ 32, faulty := s.health.faulty ++ [(unitCode k, n)] } }
    exec (.unitCheckFailure k n) s = .next t ∧
    (k = .core → (∃ x < 4, s.canRun n x = true) → exec (.coreWatchdogExpire n) s = .next t) ∧
    (k = .prim → (s.prim n).job.isSome = true → exec (.primJobWatchdog n) s = .next t)) ∧
  (∀ (n key : Nat) (l : Launch) (i : FoxItem) (s : State), (s.fox n).launch = some key → s.launch key = some l → l.step = none →
    (s.fox n).item = some i → i.launch = key → ∃ (t : State) (l' : Launch), exec (.sramUncorrectable .fox n) s = .next t ∧
      t.health = { s.health with e := s.health.e + 8192 * 2 ^ 32 } ∧ (t.fox n).item = none ∧ t.launch key = some l' ∧ (n, 0) ∈ l'.again ∧
      l'.ended = l.ended + 1) ∧
  (∀ (n : Nat) (s : State), n < 128 → s.health.faulty.contains (0, n) = true →
    let u := s.physical 0 n
    let f : State := { s with health := { s.health with fenced := s.health.fenced ++ [(0, u)] } }
    ∃ t : State, exec (.quarantine .core n) s = .next t ∧ (0, u) ∈ t.health.fenced ∧ t.board.quar = true ∧
      (0, n) ∉ t.health.faulty ∧ (f.freeSpare 0 (n / 64) = none → t.health.failed = true) ∧
      (∀ v, f.freeSpare 0 (n / 64) = some v → t.physical 0 n = v ∧ t.health.failed = s.health.failed)) ∧
  (∀ (key u : Nat) (l : Launch) (s : State), s.launch key = some l →
    (l.picked u = false → exec (.auditRunStart key u) s = .next s) ∧
    (l.started = true → l.killed = false → u < l.e.total → l.picked u = true → l.skips.contains u = false → l.audits.any (fun a => a.1 == u) = false →
      l.again = [] → s.unitEnded key l u = true →
      s.shareDone key l (l.engineList.getD ((l.ranOn u + 1) % Max.max 1 l.engineList.length) 0) = true →
      exec (.auditRunStart key u) s = .next (s.updLaunch key (fun l => { l with audits := l.audits ++ [(u, false)] }))) ∧
    (∀ d third : W64, (u, false) ∈ l.audits → oget l.pins u = none → ∃ (t : State) (l' : Launch), exec (.auditRunComplete key u d d third) s = .next t ∧
      t.health = { s.health with auditRuns := s.health.auditRuns + 1 } ∧ t.launch key = some l' ∧ (u, true) ∈ l'.audits ∧ (u, false) ∉ l'.audits) ∧
    (∀ d e third : W64, (u, false) ∈ l.audits → d ≠ e → third ≠ d → third ≠ e → l.step = none → ∃ t : State,
      exec (.auditRunComplete key u d e third) s = .next t ∧ t.health.auditMiss = s.health.auditMiss + 1 ∧ t.health.e = s.health.e + 16384 * 2 ^ 32 ∧
      t.health.faulty.contains (l.k.kind, l.engineList.getD (l.ranOn u) 0) = true ∧
      t.health.faulty.contains (l.k.kind, l.engineList.getD ((l.ranOn u + 1) % l.engineList.length) 0) = true) ∧
    (∀ n x, l.again.contains (n, x) = true → ∃ (t : State) (l' : Launch), exec (.tileReplay key n x) s = .next t ∧ t.mem = s.mem ∧
      t.launch key = some l' ∧ l'.again = l.again.filter (· ≠ (n, x)) ∧
      (engineKind l.k.kind = .core → l.e.winu = 0 → t.ctx n x = { Ctx.give key l n x with k := x }))) ∧
  (∀ (p a : Nat) (s : State), s.poison.contains (a / 64) = true →
    (oget s.runs p = none → exec (.poisonReport p a) s = .next (s.event p 0x24 (a % 2 ^ 48))) ∧
    (∀ r : Run, oget s.runs p = some r → r.inStep = true →
      (r.poison.contains (s.stepNo p, a / 64) = false → ∃ t : State, exec (.poisonReport p a) s = .next t ∧
        oget t.runs p = some { r with poison := r.poison ++ [(s.stepNo p, a / 64)], replay := true }) ∧
      (r.poison.contains (s.stepNo p, a / 64) = true → r.replay = false →
        exec (.poisonReport p a) s = .next (((s.discardStep p).event p 0x24 (a % 2 ^ 48)).endRun p 0x1B)))) ∧
  (∀ (t vin pin : Nat) (s : State), let risk := Min.min 65535 (s.health.e / 2 ^ 32 + 1024 * (t - 85))
    ∃ u : State, exec (.riskUpdate t vin pin) s = .next u ∧ u.mem = s.mem ∧
      u.health = { s.health with risk := risk, band := Max.max (riskBand risk) (Min.min 6 s.health.bandMin.toNat) } ∧
      u.board = { s.board with tmax := t % 256, vin := vin % 65536, pin := pin % 65536 }) ∧
  (∀ s : State, ∃ (u : State) (d : Nat), d < 2 ∧ exec .riskDecay s = .next u ∧ (s.health.e = 0 → d = 0) ∧
    u.health = { s.health with e := s.health.e * decayFactor / 2 ^ 128 + d } ∧ u.mem = s.mem)

/-! ### Iris (R387 to R398) -/

/-- R387 to R391, R393, R396: a free core takes the next descriptor of its session and runs its picture row by row; slices and
the record are written where they belong, a slice that does not fit ends the picture as too long, and a repeat begins it again. What a
picture becomes is free (log 10). -/
def Obligations.IrisPictures : Prop :=
  (∀ (k h : Nat) (x : IrisSess) (s : State), s.iris = [(h, x)] → x.core = k → (s.icore k).pic = none → s.workOpen = true →
    (s.irisReady x = false → exec (.irisDescriptorStart k) s = .next s) ∧
    (s.irisReady x = true → x.group = 0 → x.gop ≠ 2 → ∃ (t : State) (p : IrisPic) (y : IrisSess), exec (.irisDescriptorStart k) s = .next t ∧ t.mem = s.mem ∧
      (t.icore k).pic = some p ∧ p.sess = h ∧ p.n = x.n ∧ p.words = s.irisDesc x ∧ p.rows = 0 ∧ p.repeated = false ∧
      (s.irisRefused x (s.irisDesc x) = true → p.status = 4) ∧ oget t.iris h = some y ∧ y.n = x.n + 1)) ∧
  (∀ (k : Nat) (s : State), (s.icore k).pic.isSome = true → exec (.irisDescriptorStart k) s = .next s) ∧
  (∀ (k : Nat) (p : IrisPic) (x : IrisSess) (s : State), (s.icore k).pic = some p → oget s.iris p.sess = some x →
    (p.status = 0 → p.rows < x.picRows p →
      exec (.irisRowDone k) s = .next (s.updIcore k (fun c => { c with pic := some { p with rows := p.rows + 1 } }))) ∧
    (x.subf = true → x.dec = false → p.status = 0 → p.slices < x.slices → Min.min x.rows ((p.slices + 1) * x.perSlice) ≤ p.rows →
      let n := x.num p.hist (16 + p.slices)
      let at_ := bits (dw p.words 4) 0 48 + p.prog
      (bits (dw p.words 5) 0 32 < p.prog + n →
        exec (.irisSliceEmit k) s = .next (s.updIcore k (fun c => { c with pic := some { p with status := 1 } }))) ∧
      (p.prog + n ≤ bits (dw p.words 5) 0 32 → p.told ≤ p.slices → ∃ t : State, exec (.irisSliceEmit k) s = .next t ∧
        (t.icore k).pic = some { p with prog := p.prog + n, slices := p.slices + 1, told := p.slices + 1 } ∧
        (∀ a, (a < at_ ∨ at_ + n ≤ a) → (a < x.recAt p + 0x20 ∨ x.recAt p + 0x28 ≤ a) → t.rawByte a = s.rawByte a) ∧
        (∀ i < 8, t.rawByte (x.recAt p + 0x20 + i) = BitVec.ofNat 8 ((p.prog + n) / 256 ^ i)) ∧
        (∀ i < n, (at_ + i < x.recAt p + 0x20 ∨ x.recAt p + 0x28 ≤ at_ + i) → t.rawByte (at_ + i) = (x.out p 0 p.prog n).getD i 0))) ∧
    (p.status ≠ 0 ∨ x.picRows p ≤ p.rows ∧ (x.subf = false ∨ x.dec = true ∨ x.slices ≤ p.slices) →
      let r := x.result p
      ∃ (t : State), exec (.irisPictureDone k) s = .next t ∧
        (t.icores = tput (fun _ => IrisCore.reset) s.icores k { s.icore k with
          pic := none, pics := if r.1 < 3 then (s.icore k).pics + 1 else (s.icore k).pics,
          samples := if r.1 < 3 then (s.icore k).samples + BitVec.ofNat 64 (x.width * x.height) else (s.icore k).samples }) ∧
        (x.closing = none → ∃ y : IrisSess, oget t.iris p.sess = some y ∧ y.pics = x.pics + 1 ∧ y.bytes = x.bytes + BitVec.ofNat 64 r.2.1) ∧
        (s.permits x.part (x.recAt p) 64 false true false = true → ∀ i < 64,
          t.rawByte (x.recAt p + i) = (x.record p r.1 r.2.1 (decide (p.n = 0))).getD i 0)) ∧
    (p.repeated = true → exec (.irisPictureRepeat k) s = .next { s with health := { s.health with failed := true } }) ∧
    (p.repeated = false → exec (.irisPictureRepeat k) s = .next (s.updIcore k (fun c => { c with
      pic := some { p with rows := 0, slices := 0, prog := 0, repeated := true, status := if p.status = 1 then 0 else p.status }, repeats := c.repeats + 1 }))))

/-! ### The host link (R402 to R415, R443, R446) -/

/-- R411: a BAR4 read that covers a poisoned line answers ones, marked as poisoned, and MGD_POISON (0x24) is posted for the first
poisoned byte; a write clears the poison of the lines it covers whole, and of no other. -/
def Obligations.PoisonedWindow : Prop :=
  ∀ (p off n : Nat) (s : State), s.linkUp = true → p < 16 → s.funcHere p = true → 0 < n →
    off + n ≤ 2 ^ ((s.func (if p = 0 then 0 else 16)).bar4 + 30) →
    let a := (s.page p).bar4 * granule + off
    a + n ≤ 2 * dieBytes →
    (s.permits p a n true false false = true → ∀ i < n, s.poison.contains ((a + i) / 64) = true → ∃ j ≤ i, s.poison.contains ((a + j) / 64) = true ∧
      exec (.bar4Read p off n) s = .next (State.event { s with sent := s.sent ++ [.host p (List.replicate n 0xFF) true] } p 0x24 (a + j))) ∧
    (∀ bs : List Byte, bs.length = n → s.permits p a n false true false = true → ∃ t : State, exec (.bar4Write p off bs) s = .next t ∧
      ∀ l, l ∈ t.poison ↔ l ∈ s.poison ∧ ¬(a ≤ 64 * l ∧ 64 * l + 64 ≤ a + n))

/-- R403, R404, R408 to R410, R413 to R415, R443 and R446: what a function-level reset, PERST#, the link, the DRAM window, a register write, an unmasked
vector, a failed host read, an IDE stream and a configuration request do. -/
def Obligations.HostAccess : Prop :=
  (∀ (p : Nat) (s : State), p < 16 → p ≠ 0 → (s.func p).enabled = true → exec (.flr p) s = .next { s with
    funcs := tput (fun _ => Func.reset) s.funcs p { Func.reset with enabled := true },
    pages := oupd s.pages p (fun g => { g with bar4 := 0 }),
    mbxs := tput (fun _ => Mbx.reset) s.mbxs p { s.mbx p with session := none, en := false, disable := false, due := [] },
    journal := s.journal.map (fun c => if c.m = p then { c with discard := true } else c),
    qps := s.qps.map (fun (k, q) => (k, if q.part = p ∧ q.hostRing then { q with stopped := true, discard := true, due := [] } else q)) }) ∧
  (∀ s : State, ∃ t : State, exec (.flr 0) s = .next t ∧ t.mem = s.mem ∧ t.parts = s.parts ∧ t.launches = s.launches ∧ t.regions = s.regions ∧
    (∀ c ∈ t.journal, c.m = 0 → c.discard = true)) ∧
  (∀ s : State, (∃ t : State, exec .perstAssert s = .next t ∧ t.linkUp = false ∧ t.board = { s.board with perst := true, ide := [] } ∧ t.mem = s.mem ∧
      t.launches = s.launches ∧ (∀ c ∈ t.journal, c.m < 16 → c.discard = true)) ∧
    exec .perstDeassert s = .next { s with board := { s.board with perst := false } } ∧
    exec .pcieLinkDown s = .next { s with linkUp := false, funcs := s.funcs.map (fun (k, f) => (k, { f with busMaster := false })) } ∧
    (s.board.perst = false → s.board.mrdy = true → s.board.failed = false → s.mode = .active →
      exec .pcieLinkUp s = .next { s with linkUp := true, board := { s.board with
        step := if s.board.starting = true ∧ s.board.step = 8 then 9 else s.board.step } }) ∧
    (s.board.mrdy = false → exec .pcieLinkUp s = .next s)) ∧
  (∀ (p off n : Nat) (s : State), s.linkUp = true → p < 16 → s.funcHere p = true → 0 < n →
    off + n ≤ 2 ^ ((s.func (if p = 0 then 0 else 16)).bar4 + 30) →
    let a := (s.page p).bar4 * granule + off
    (a + n ≤ 2 * dieBytes → s.permits p a n true false false = true → (∀ i < n, s.poison.contains ((a + i) / 64) = false) →
      exec (.bar4Read p off n) s = .next { s with sent := s.sent ++ [.host p (s.seenBytes a n) false], fresh := s.fresh + 1 }) ∧
    (2 * dieBytes < a + n → ∃ t : State, exec (.bar4Read p off n) s = .next t ∧ t.sent = s.sent ++ [.host p (List.replicate n 0xFF) false] ∧ t.mem = s.mem ∧
      (t.page p).viol = (s.page p).viol + 1 ∧ (t.page p).violAddr = a ∧ (t.page p).violWrite = false ∧ (t.page p).violCause = 3) ∧
    (∀ bs : List Byte, bs.length = n →
      (a + n ≤ 2 * dieBytes → s.permits p a n false true false = true → exec (.bar4Write p off bs) s = .next (s.write a bs)) ∧
      (s.permits p a n false true false = false → ∃ t : State, exec (.bar4Write p off bs) s = .next t ∧ t.mem = s.mem ∧ t.sent = s.sent ∧
        (t.page p).viol = (s.page p).viol + 1 ∧ (t.page p).violAddr = a ∧ (t.page p).violWrite = true))) ∧
  (∀ (v : W64) (s : State), s.linkUp = true →
    exec (.registerWrite 0 0 0x20008 8 v) s = .next { s with health := { s.health with bandMin := BitVec.ofNat 3 v.toNat } } ∧
    exec (.registerWrite 0 0 0x20018 8 v) s = .next { s with health := { s.health with auditCfg := BitVec.ofNat 6 v.toNat } } ∧
    exec (.registerWrite 0 0 0x20020 8 v) s = .next { s with health := { s.health with auditSeed := v } } ∧
    (∀ p off n, p < 16 → s.funcHere p = true → off < 0x80000 → (n ≠ 8 ∨ off % 8 ≠ 0) → ∃ t : State, exec (.registerWrite p 0 off n v) s = .next t ∧
      t.health = s.health ∧ t.bars = s.bars ∧ t.cqs = s.cqs ∧ (t.page p).viol = (s.page p).viol + 1 ∧ (t.page p).violWrite = true ∧ (t.page p).violCause = 2) ∧
    (∀ p, p < 16 → p ≠ 0 → (s.func p).enabled = true → exec (.registerWrite p 0 0x50 8 v) s =
      .next { s with pages := tins s.pages p { s.page p with bar4 := bits v.toNat 21 27 } }) ∧
    (∀ p o, 0 < p → p < 16 → o < 0x80000 → o % 8 = 0 → ∃ t : State, exec (.registerWrite 0 0 (0x100000 + 0x80000 * p + o) 8 v) s = .next t ∧
      t.bars = s.bars ∧ t.cqs = s.cqs ∧ t.fwds = s.fwds ∧ t.sems = s.sems ∧ (t.page 0).viol = (s.page 0).viol + 1) ∧
    exec (.pwrResetWrite 0 8 v) s = .next (if v.toNat % 2 ^ 16 = 0xC01D then { s with board := { s.board with resetAt := some (s.time, 2) } } else s) ∧
    (∀ p n, p ≠ 0 → exec (.pwrResetWrite p n v) s = .next s)) ∧
  (∀ (p k : Nat) (s : State), s.funcHere p = true → k < 2048 →
    let f := s.func p
    let vs := tput (fun _ => Vector.reset) f.vectors k { f.vector k with mask := false }
    ((f.pending.contains k && f.msixEn && !f.msixMask) = false → exec (.msixUnmask p k) s = .next (s.setFunc p { f with vectors := vs })) ∧
    (f.pending.contains k = true → f.msixEn = true → f.msixMask = false → ∃ t : State, exec (.msixUnmask p k) s = .next t ∧ t.mem = s.mem ∧
      t.funcs = (s.setFunc p { f with vectors := vs, pending := f.pending.filter (· ≠ k) }).funcs ∧ t.sent.length = s.sent.length + 1)) ∧
  (∀ (m : Nat) (s : State), awHost (s.mbx m).cmdBase = true →
    exec (.hostReadFail (.mailboxRing m)) s = .next (s.setMbx m { s.mbx m with stopped := true })) ∧
  (∀ (q : Nat) (x : Qp) (s : State), oget s.qps q = some x → awHost x.sqAddr = true →
    ∃ t : State, exec (.hostReadFail (.queueRing q)) s = .next t ∧ oget t.qps q = some { x with stopped := true } ∧ t.mem = s.mem) ∧
  (∀ (st key : Nat) (s : State), exec (.ideIntegrityFail st) s = .next { s with board := { s.board with ide := s.board.ide.filter (· ≠ st) } } ∧
    (s.board.spdmSess = 0 → exec (.ideKm st key) s = .next s) ∧
    (s.board.spdmSess ≠ 0 → st < 9 → s.board.ide.contains st = false →
      exec (.ideKm st key) s = .next { s with board := { s.board with ide := s.board.ide ++ [st] } })) ∧
  (∀ (p : Nat) (r : CfgReq) (s : State), s.linkUp = true → p < 16 → s.funcHere p = true →
    (s.ready = false → exec (.configurationRequest p r) s = .next { s with sent := s.sent ++ [.retry p] }) ∧
    (s.ready = true → (∀ on, r = .busMaster on → exec (.configurationRequest p r) s = .next (s.setFunc p { s.func p with busMaster := on })) ∧
      (∀ c, r = .timeout c → exec (.configurationRequest p r) s = .next (s.setFunc p { s.func p with timeout := c })) ∧
      (∀ what, r = .read what → exec (.configurationRequest p r) s =
        .next { s with sent := s.sent ++ [.host p (s.cfgBytes p what) false], fresh := s.fresh + 1 }) ∧
      s.cfgBytes p .vendor = toLe 2 (Config.trimVid % 65536) ∧ s.cfgBytes p .device = (if p = 0 then [0x60, 0x09] else [0x61, 0x09]) ∧
      s.cfgBytes p .classCode = [0x00, 0x00, 0x12] ∧ s.cfgBytes p .revision = [0xB1]))

/-! ### Management (R416 to R419, R423, R440, R445, R460) -/

/-- One message is sent on the management bus. -/
def Sys2Proof.Machine.OneMessage (s t : State) : Prop := ∃ bs : List Byte, t.sent = s.sent ++ [.mgmt bs]

/-- R416 to R419, R423, R440, R445, R460: each management request is answered by one message; readings and the FRU record have
their values, effecters act, an update goes into the copy that is not in force and is checked before it can be activated, and SPDM
answers what needs no key at any time and the rest only from a start that has reached its keys. Message layouts are the model's (log 30). -/
def Obligations.ManagementRequests : Prop :=
  ∀ s : State, (s.mgmtUp = false → ∀ i ∈ [Instr.getFruRecord, .verifyComplete, .getSensorReading 1, .getVersion [0x13]], exec i s = .next s) ∧
  (s.mgmtUp = true →
    (∀ ty body, ∃ t : State, exec (.mctpControlMessage ty body) s = .next t ∧ OneMessage s t ∧ t.board = s.board ∧ t.mem = s.mem) ∧
    (∀ r ∈ [(1, (s.board.vin : Int)), (2, s.board.pin), (3, s.board.tmax), (4, s.health.risk), (5, s.flash.credit * 1000 / (creditMax : Int))],
      exec (.getSensorReading r.1) s = .next { s with sent := s.sent ++ [.mgmt (toLe 8 (unsigned 64 r.2))] }) ∧
    (∀ eid, ∃ t : State, exec (.setEventReceiver eid) s = .next t ∧ OneMessage s t ∧ t.board = { s.board with receiver := some eid }) ∧
    (∃ t : State, exec (.setStateEffecterStates 1 2) s = .next t ∧ OneMessage s t ∧ t.board = { s.board with resetAt := some (s.time, 3) }) ∧
    (s.mode = .sleep → s.board.starting = false → s.board.failed = false → ∃ t : State, exec (.setStateEffecterStates 1 1) s = .next t ∧
      t.board = { s.board with wake := false, starting := true, exiting := true, step := 2 }) ∧
    (∀ st < 2, ∃ t : State, exec (.setStateEffecterStates 2 st) s = .next t ∧ OneMessage s t ∧ t.board = { s.board with loc := decide (st = 1) }) ∧
    exec .getFruRecord s = .next { s with sent := s.sent ++ [.mgmt (orderBytes ++ toLe 2 0x3142 ++ toLe 8 Config.serial.toNat)] } ∧
    (∀ a, exec (.dynamicAddressAssignment a) s = .next { s with board := { s.board with addr := some (a % 128) } }) ∧
    (∀ image : List Byte, let c : PatchCopy := { level := Config.patchLevel image, bytes := image, ok := true }
      ∃ t : State, exec (.passComponentUpdate image) s = .next t ∧ OneMessage s t ∧ t.patch = s.patch ∧ t.board.update = some { c with ok := false } ∧
        (s.board.patchB = true → t.board.copyA = some c ∧ t.board.copyB = s.board.copyB) ∧
        (s.board.patchB = false → t.board.copyB = some c ∧ t.board.copyA = s.board.copyA)) ∧
    (∀ c, s.board.update = some c →
      (Config.patchSigned c.bytes = true → Config.patchFloor ≤ c.level → Config.patchHandlers c.bytes ≤ 256 → Config.patchCode c.bytes ≤ 524288 →
        s.patch.1 < c.level → ∃ t : State, exec .verifyComplete s = .next t ∧
        t.board = { s.board with update := some { c with ok := true } } ∧ t.patch = s.patch) ∧
      (c.level ≤ s.patch.1 → ∃ t : State, exec .verifyComplete s = .next t ∧ t.board.update = none ∧ t.patch = s.patch ∧ t.nextPatch = s.nextPatch) ∧
      (c.ok = true → s.ready = true → ∃ t : State, exec (.activateFirmware true) s = .next t ∧ t.nextPatch = some (c.level, true) ∧ t.patch = s.patch ∧
        t.cpRst = true ∧ t.journal = s.journal ∧ t.launches = s.launches) ∧
      (c.ok = false → ∀ b, ∃ t : State, exec (.activateFirmware b) s = .next t ∧ t.nextPatch = s.nextPatch ∧ t.cpRst = s.cpRst)) ∧
    (∀ peer : List Nat, exec (.getVersion peer) s = .next { s with
      sent := s.sent ++ [.mgmt [0x12, 0x13]],
      board := { s.board with spdmVer := if peer.contains 0x13 then some 0x13 else if peer.contains 0x12 then some 0x12 else none } }) ∧
    (s.board.failed = false → 5 ≤ s.board.step → s.board.spdmVer.isSome = true →
      (∀ off len, exec (.getCertificate 0 off len) s = .next { s with sent := s.sent ++ [.mgmt ((s.spdmChain.drop off).take len)] }) ∧
      (∀ nonce, exec (.challenge 0 nonce) s = .next { s with sent := s.sent ++ [.mgmt (secret 10 (s.akSeed ++ nonce) 132)] }) ∧
      (∀ i nonce bs, i ≠ 0 → i ≠ 0xFF → s.measurement i = some bs → exec (.getMeasurements i nonce) s =
        .next { s with sent := s.sent ++ [.mgmt (bs ++ secret 11 (s.akSeed ++ nonce ++ bs) 132)] }) ∧
      (∀ pub, ∃ t : State, exec (.keyExchange 0 pub) s = .next t ∧ OneMessage s t ∧ t.board = { s.board with spdmSess := s.board.spdmSess + 1 })) ∧
    (s.board.failed = true → ∀ nonce, ∃ t : State, exec (.challenge 0 nonce) s = .next t ∧ t.board = s.board ∧ (∃ bs : List Byte, bs.length = 4 ∧ t.sent = s.sent ++ [.mgmt bs])))

/-! ### Power, start-up and resets (R430 to R446, R455 to R459) -/

namespace Sys2Proof.Machine

/-- What a start answers: it stops at a step with its error, or every port that will train is training and the module waits for
its link. Device memory is as after reset, and the flash store is kept. -/
def Starts (o : Host.Outcome State Fault Refusal) (s : State) (f : BootFind) (cause : Nat) : Prop :=
  (bootStops f = none → ∃ t : State, o = .next t ∧ t.mode = .active ∧ t.ready = false ∧ t.board.step = 8 ∧ t.board.failed = false ∧
    t.board.mrdy = true ∧ t.board.lastRst = cause ∧ t.mem = State.reset.mem ∧ t.launches = [] ∧ t.tobjs.map (·.1) = s.tobjs.map (·.1) ∧
    t.pending = s.pending ∧ (∀ k ∈ f.ports, k < 26 → (t.port k).state = .training)) ∧
  (∀ at_ err, bootStops f = some (at_, err) → ∃ t : State, o = .next t ∧ t.ready = false ∧ t.board.step = at_ ∧ t.board.failed = true ∧
    t.board.err = err ∧ t.board.lastRst = cause ∧ t.mem = State.reset.mem ∧ t.tobjs.map (·.1) = s.tobjs.map (·.1))

/-- What opening the input switch answers: Off, with the flash store kept. -/
def GoesDark (o : Host.Outcome State Fault Refusal) (s : State) (trips : Nat) (held : Bool) : Prop :=
  ∃ t : State, o = .next t ∧ t.mode = .off ∧ t.ready = false ∧ t.linkUp = false ∧ t.board.swOpen = true ∧ t.board.swSince = s.time ∧ t.board.swHeld = held ∧
    t.board.gtrips = trips ∧ t.mem = State.reset.mem ∧ t.launches = [] ∧ t.tobjs.map (·.1) = s.tobjs.map (·.1)

end Sys2Proof.Machine

/-- R430, R431, R437 to R440, R455: an engine without work for 20 µs enters Retain and after its timeout Off, and wakes for work; the module
enters Standby and Sleep as PWR_MODULE asked, and leaves Sleep on a wake request. -/
def Obligations.PowerSaving : Prop :=
  (∀ (n : Nat) (s : State), s.powered = true →
    (n < 32 → (s.fox n).power = .run → (s.fox n).item = none → (s.fox n).workSince + 160000 ≤ s.time →
      exec (.coreEnterRetain .fox n) s = .next (s.setFox n { s.fox n with power := .retain, workSince := s.time - 160000 })) ∧
    (n < 4 → (s.prim n).power = .run → (s.prim n).job = none → (s.prim n).workSince + 160000 ≤ s.time →
      exec (.coreEnterRetain .prim n) s = .next (s.setPrim n { s.prim n with power := .retain, workSince := s.time - 160000 })) ∧
    (s.coreBusy n = true → exec (.coreEnterRetain .core n) s = .next s) ∧
    (n < 128 → (s.core n).power = .run → s.coreBusy n = false → (s.core n).workSince + 160000 ≤ s.time → ∃ t : State,
      exec (.coreEnterRetain .core n) s = .next t ∧ t.core n = { s.core n with power := .retain, workSince := s.time - 160000 } ∧ t.mem = s.mem ∧
      t.ctxs = s.ctxs) ∧
    (n < 32 → (s.fox n).power = .retain → s.offTimeout .fox n ≠ 0xFFFFFFFF → (s.fox n).workSince + 8000 * s.offTimeout .fox n ≤ s.time →
      exec (.coreEnterOff .fox n) s = .next (s.setFox n { s.fox n with power := .off, lab := [] })) ∧
    (s.offTimeout .core n = 0xFFFFFFFF → exec (.coreEnterOff .core n) s = .next s) ∧
    (n < 128 → (s.core n).power = .retain → s.coreTimeout n ≠ 0xFFFFFFFF → (s.core n).workSince + 8000 * s.coreTimeout n ≤ s.time →
      ∃ t : State, exec (.coreEnterOff .core n) s = .next t ∧ (∀ a, spadCore a = some n → t.rawByte a = Memory.dflt a) ∧
        (∀ a, spadCore a ≠ some n → t.rawByte a = s.rawByte a) ∧
        t.cores = (s.setCore n { s.core n with icache := [], power := .off, viaOff := false }).cores) ∧
    (n < 128 → (s.core n).power ≠ .run → s.coreBusy n = true → ∃ t : State, exec (.coreWake .core n) s = .next t ∧ t.mem = s.mem ∧
      t.core n = { s.core n with power := .run, workSince := s.time, offLeft := if (s.core n).power = .off then s.time else (s.core n).offLeft })) ∧
  (∀ (m tag : Nat) (s : State), s.mode = .active →
    (s.workRuns = true → exec .standbyEntryDone s = .next s) ∧
    (s.board.trans = some (m, tag, 1) → s.workRuns = false → ∃ t : State, exec .standbyEntryDone s = .next t ∧ t.mode = .standby ∧ t.board.trans = none ∧
      t.mem = s.mem ∧ (∀ c < 128, (t.core c).power ≠ .run) ∧ s.cmd m tag ∉ t.journal.map some)) ∧
  (∀ (m tag : Nat) (s : State), s.mode = .standby → s.board.trans = some (m, tag, 2) → s.sleepRefused = false → 128 ≤ s.granulesFree 0 →
    128 ≤ s.granulesFree 1 → ∃ t : State, exec .sleepEntry s = .next t ∧ t.board = { s.board with trans := none, sleepAt := some s.time } ∧ t.mode = .standby) ∧
  (∀ (m tag : Nat) (s : State), s.mode = .standby → s.board.trans = some (m, tag, 2) → s.sleepRefused = true →
    ∃ t : State, exec .sleepEntry s = .next t ∧ t.board = { s.board with trans := none } ∧ t.mode = .standby) ∧
  (∀ s : State, s.mode = .standby → s.board.sleepAt.isSome = true → ∃ t : State, exec .sleepPowerDown s = .next t ∧ t.mode = .sleep ∧ t.ready = false ∧
    t.linkUp = false ∧ (∀ a, inDram a = true → t.rawByte a = s.rawByte a) ∧
    (∀ a c, c < 128 → spadCore a = some c → t.rawByte a = Memory.dflt a) ∧
    t.board = (if s.board.wake = true then { s.board with sleepAt := none, mrdy := false, wake := false, starting := true, exiting := true, step := 2 }
      else { s.board with sleepAt := none, mrdy := false })) ∧
  (∀ (acted : Bool) (ticks : Nat) (s : State),
    (ticks < 25 ∨ (ticks < 250 ∧ acted = false) → exec (.wakeAssert acted ticks) s = .next s) ∧
    (250 ≤ ticks → s.mode = .sleep → s.board.starting = false → s.board.failed = false →
      exec (.wakeAssert acted ticks) s = .next { s with board := { s.board with wake := false, starting := true, exiting := true, step := 2 } }) ∧
    (250 ≤ ticks → s.mode ≠ .sleep → s.board.sleepAt.isSome = true →
      exec (.wakeAssert acted ticks) s = .next { s with board := { s.board with wake := true } })) ∧
  (∀ (f : BootFind) (s : State), s.mode = .sleep → s.board.exiting = true →
    (bootStops f = none → ∃ t : State, exec (.sleepExitDone f) s = .next t ∧ t.mode = .standby ∧ t.ready = true ∧ t.linkUp = (!s.board.perst) ∧
      t.board.step = 10 ∧ t.board.starting = false ∧ t.board.lastRst = 5 ∧ t.board.mrdy = true ∧ t.mem = s.mem) ∧
    (∀ at_ err, bootStops f = some (at_, err) → ∃ t : State, exec (.sleepExitDone f) s = .next t ∧ t.board.failed = true ∧ t.board.err = err ∧
      t.board.step = at_ ∧ t.ready = s.ready))

/-- R441 to R446, R455, R457, R459: power-on, RST#, a reset that was asked for and a module put into its slot start the module; start-up
ends with partition 0; a guard trip, a module taken out and an open thermal switch open the input switch, which closes again as it says. -/
def Obligations.StartsAndStops : Prop :=
  (∀ (f : BootFind) (s : State), s.mode = .off → s.board.pprsnt = true → s.board.swOpen = false →
    Starts (exec (.powerOn f) s) s f (if s.board.lastRst = 4 then 4 else 0)) ∧
  (∀ (f : BootFind) (s : State), s.board.swOpen = true → exec (.powerOn f) s = .next s) ∧
  (∀ (acted : Bool) (ticks : Nat) (f : BootFind) (s : State), (ticks < 25 → exec (.rstAssert acted ticks f) s = .next s) ∧
    (250 ≤ ticks → s.mode ≠ .off → Starts (exec (.rstAssert acted ticks f) s) s f 1)) ∧
  (∀ (f : BootFind) (t cause : Nat) (s : State), s.board.resetAt = some (t, cause) → s.mode ≠ .off → Starts (exec (.coldResetStart f) s) s f cause) ∧
  (∀ (f : BootFind) (s : State), s.board.resetAt = none → exec (.coldResetStart f) s = .next s) ∧
  (∀ (f : BootFind) (s : State), s.mode = .off → s.board.pprsnt = false → s.board.swHeld = false → Starts (exec (.pprsntMake f) s) s f 0) ∧
  (∀ (f : BootFind) (s : State), s.board.pprsnt = false → s.board.swHeld = true →
    exec (.pprsntMake f) s = .next { s with board := { s.board with pprsnt := true, swOpen := true, lastRst := 0 } }) ∧
  (∀ s : State, s.board.starting = true → s.board.exiting = false → s.board.step = 9 → ∃ t : State, exec .startupReady s = .next t ∧ t.ready = true ∧
    t.board = { s.board with starting := false, step := 10 } ∧ (oget t.parts 0).isSome = true ∧ (∀ q ∈ t.ports, q.2.state ≠ .training)) ∧
  (∀ s : State, s.board.step ≠ 9 → exec .startupReady s = .next s) ∧
  (∀ s : State, s.mode ≠ .off →
    let recent := s.board.trips.filter (fun t => decide (s.time < t + 4800000000000))
    GoesDark (exec .guardTrip s) s (Min.min 255 (s.board.gtrips + 1)) (decide (2 ≤ recent.length)) ∧
    GoesDark (exec .pprsntBreak s) s s.board.gtrips s.board.swHeld ∧
    (s.board.thermal.isSome = true → GoesDark (exec .thermalSwitchOpen s) s s.board.gtrips true) ∧
    (s.board.thermal = none → exec .thermalStop s = .next { s with board := { s.board with thermal := some s.time }, health := { s.health with failed := true } } ∧
      exec .thermalSwitchOpen s = .next s) ∧
    exec .supplyDroop s = .next { s with health := { s.health with e := s.health.e + 2048 * 2 ^ 32 } }) ∧
  (∀ s : State, s.mode = .off →
    (s.board.swOpen = true → s.board.swHeld = false → s.board.pprsnt = true → exec .guardReclose s =
      .next { s with time := Max.max s.time (s.board.swSince + 80000000000), board := { s.board with swOpen := false, lastRst := 4 } }) ∧
    (s.board.swHeld = true → exec .guardReclose s = .next s) ∧
    exec .inputLowRelease s = .next { s with board := { s.board with
      swOpen := !s.board.pprsnt, swHeld := false, gtrips := 0, trips := [], thermal := none, lastRst := 0 } }) ∧
  (∀ (k : Nat) (fitted : Bool) (s : State), k < 7 → exec (.cblPrsChange k fitted) s = .next { s with board := { s.board with
    cables := if fitted then k :: s.board.cables.filter (· ≠ k) else s.board.cables.filter (· ≠ k) } })
end

