-- ==== Sys2Proof/Laws/Tab.lean ====
section
/-!
SUPPORT. Laws of sparse tables: what is read after a write, and that every operation keeps the canonical form.
-/

set_option Elab.async false

namespace Sys2Proof.Machine

/-- The keys of a table rise. -/
abbrev Sorted {α : Type} (t : Tab α) : Prop := t.Pairwise (fun a b => a.1 < b.1)

/-- Every key of `tins t k v` is `k` or one of `t`. -/
theorem mem_tins {α : Type} {t : Tab α} {k : Nat} {v : α} {p : Nat × α} (h : p ∈ tins t k v) : p = (k, v) ∨ p ∈ t := by
  induction t with
  | nil => simpa [tins] using h
  | cons q t ih =>
    simp only [tins] at h
    split at h
    · rcases List.mem_cons.mp h with rfl | h
      · exact .inl rfl
      · exact .inr (List.mem_cons_of_mem _ h)
    · split at h
      · rcases List.mem_cons.mp h with rfl | h
        · exact .inl rfl
        · exact .inr h
      · rcases List.mem_cons.mp h with rfl | h
        · exact .inr (List.mem_cons_self ..)
        · exact (ih h).imp_right (List.mem_cons_of_mem _)

/-- Taking an entry out leaves a part of the table. -/
theorem tdrop_sublist {α : Type} (t : Tab α) (k : Nat) : (tdrop t k).Sublist t := List.filter_sublist

/-- Listing a value keeps the keys rising. -/
theorem sorted_tins {α : Type} {t : Tab α} (h : Sorted t) (k : Nat) (v : α) : Sorted (tins t k v) := by
  induction t with
  | nil => exact List.pairwise_singleton ..
  | cons q t ih =>
    obtain ⟨hq, ht⟩ := List.pairwise_cons.mp h
    simp only [tins]
    split
    · rename_i hk
      exact List.pairwise_cons.mpr ⟨fun p hp => hk ▸ hq p hp, ht⟩
    · split
      · rename_i hk
        exact List.pairwise_cons.mpr ⟨fun p hp => (List.mem_cons.mp hp).elim (fun e => e ▸ hk) (fun hp => Nat.lt_trans hk (hq p hp)), h⟩
      · rename_i h1 h2
        have hlt : q.1 < k := by omega
        exact List.pairwise_cons.mpr ⟨fun p hp => (mem_tins hp).elim (fun e => e ▸ hlt) (hq p), ih ht⟩

/-! ### Reading -/

/-- What a key reads as after a value was listed. -/
theorem tget_tins {α : Type} (d : Nat → α) (t : Tab α) (k j : Nat) (v : α) :
    tget d (tins t k v) j = if j = k then v else tget d t j := by
  induction t with
  | nil => simp only [tins, tget]
  | cons q t ih =>
    obtain ⟨a, b⟩ := q
    simp only [tins]
    split
    · rename_i e
      subst e
      simp only [tget]
      split <;> rfl
    · split
      · simp only [tget]
      · rename_i h1 _
        simp only [tget, ih]
        by_cases hj : j = k
        · subst hj
          rw [if_neg h1, if_pos rfl, if_pos rfl]
        · simp only [if_neg hj]

/-- What a key reads as after its entry was taken out. -/
theorem tget_tdrop {α : Type} (d : Nat → α) (t : Tab α) (k j : Nat) : tget d (tdrop t k) j = if j = k then d j else tget d t j := by
  induction t with
  | nil => simp [tdrop, tget]
  | cons q t ih =>
    obtain ⟨a, b⟩ := q
    unfold tdrop at ih ⊢
    by_cases e : a = k
    · subst e
      rw [List.filter_cons_of_neg (by simp), ih, tget]
      split
      · rfl
      · rfl
    · rw [List.filter_cons_of_pos (by simpa using e), tget, tget, ih]
      by_cases hj : j = k
      · subst hj
        rw [if_neg (fun h => e h.symm), if_pos rfl, if_pos rfl]
      · simp only [if_neg hj]

section
variable {α : Type} [DecidableEq α] {d : Nat → α} {t : Tab α}

/-- Reading after a write. -/
theorem tget_tput (t : Tab α) (k j : Nat) (v : α) : tget d (tput d t k v) j = if j = k then v else tget d t j := by
  unfold tput
  split
  · rename_i e
    rw [tget_tdrop]
    split
    · rename_i e2
      rw [e2, e]
    · rfl
  · exact tget_tins d t k j v

/-- The value written is read back. -/
theorem tget_tput_self (t : Tab α) (k : Nat) (v : α) : tget d (tput d t k v) k = v := by rw [tget_tput, if_pos rfl]

/-- Other keys read as before. -/
theorem tget_tput_ne (t : Tab α) {k j : Nat} (v : α) (h : j ≠ k) : tget d (tput d t k v) j = tget d t j := by rw [tget_tput, if_neg h]

/-- A write keeps the canonical form. -/
theorem tabWf_tput (h : TabWf d t) (k : Nat) (v : α) : TabWf d (tput d t k v) := by
  unfold tput
  split
  · exact ⟨h.1.sublist (tdrop_sublist t k), fun p hp => h.2 p ((tdrop_sublist t k).subset hp)⟩
  · rename_i hv
    exact ⟨sorted_tins h.1 k v, fun p hp => (mem_tins hp).elim (fun e => e ▸ hv) (h.2 p)⟩

omit [DecidableEq α] in
/-- Leaving entries out keeps the canonical form. -/
theorem tabWf_filter (h : TabWf d t) (f : Nat × α → Bool) : TabWf d (t.filter f) :=
  ⟨h.1.sublist List.filter_sublist, fun p hp => h.2 p (List.mem_of_mem_filter hp)⟩

/-- Changing every value keeps the canonical form. -/
theorem tabWf_tmap (h : Sorted t) (f : Nat → α → α) : TabWf d (tmap d f t) := by
  unfold tmap
  refine ⟨List.Pairwise.sublist List.filter_sublist (List.Pairwise.map _ (fun _ _ h => h) h), fun p hp => ?_⟩
  exact of_decide_eq_true (p := p.2 ≠ d p.1) (List.mem_filter.mp hp).2

end

/-- The empty table. -/
theorem tabWf_nil {α : Type} (d : Nat → α) : TabWf d ([] : Tab α) := ⟨List.Pairwise.nil, fun _ h => absurd h (List.not_mem_nil)⟩

/-! ### Tables of optional values -/

theorem oget_tins {α : Type} (t : Tab α) (k j : Nat) (v : α) : oget (tins t k v) j = if j = k then some v else oget t j := by
  induction t with
  | nil => simp only [tins, oget]
  | cons q t ih =>
    obtain ⟨a, b⟩ := q
    simp only [tins]
    split
    · rename_i e
      subst e
      simp only [oget]
      split <;> rfl
    · split
      · simp only [oget]
      · rename_i h1 _
        simp only [oget, ih]
        by_cases hj : j = k
        · subst hj
          rw [if_neg h1, if_pos rfl, if_pos rfl]
        · simp only [if_neg hj]

theorem oget_tdrop {α : Type} (t : Tab α) (k j : Nat) : oget (tdrop t k) j = if j = k then none else oget t j := by
  induction t with
  | nil => simp [tdrop, oget]
  | cons q t ih =>
    obtain ⟨a, b⟩ := q
    unfold tdrop at ih ⊢
    by_cases e : a = k
    · subst e
      rw [List.filter_cons_of_neg (by simp), ih, oget]
      split
      · rfl
      · rfl
    · rw [List.filter_cons_of_pos (by simpa using e), oget, oget, ih]
      by_cases hj : j = k
      · subst hj
        rw [if_neg (fun h => e h.symm), if_pos rfl, if_pos rfl]
      · simp only [if_neg hj]

theorem oget_oupd_self {α : Type} {t : Tab α} {k : Nat} {v : α} (h : oget t k = some v) (f : α → α) : oget (oupd t k f) k = some (f v) := by
  simp only [oupd, h, oget_tins, if_true]

theorem oget_oupd_ne {α : Type} (t : Tab α) {k j : Nat} (f : α → α) (h : j ≠ k) : oget (oupd t k f) j = oget t j := by
  unfold oupd
  split
  · rfl
  · rw [oget_tins, if_neg h]

end Sys2Proof.Machine
end

