-- ==== Sys2Proof/Laws/Memory.lean ====
section
/-!
SUPPORT. Device memory: every operation on it keeps the canonical form, and a read after a write gives what was written there
and what stood elsewhere.
-/

set_option Elab.async false

namespace Sys2Proof.Machine

/-! ### The canonical form -/

theorem memPut_wf {m : Tab Byte} (h : Memory.wf m) (a : Nat) (bs : List Byte) : Memory.wf (memPut m a bs) := by
  induction bs generalizing m a with
  | nil => exact h
  | cons b bs ih => exact ih (tabWf_tput h a b) (a + 1)

/-- Memory of which some bytes are as unlisted again. -/
theorem filter_wf {m : Tab Byte} (h : Memory.wf m) (f : Nat × Byte → Bool) : Memory.wf (m.filter f) := tabWf_filter h f

theorem State.write_wf {s : State} (h : Memory.wf s.mem) (a : Nat) (bs : List Byte) : Memory.wf (s.write a bs).mem := by
  unfold State.write
  split
  · exact h
  · exact memPut_wf h a bs

theorem State.writes_wf {s : State} (h : Memory.wf s.mem) (ws : List (Nat × List Byte)) : Memory.wf (s.writes ws).mem := by
  induction ws generalizing s with
  | nil => exact h
  | cons w ws ih => exact ih (State.write_wf h w.1 w.2)

theorem State.zero_wf {s : State} (h : Memory.wf s.mem) (a n : Nat) : Memory.wf (s.zero a n).mem := filter_wf h _

/-- Bytes put one by one at places that each entry of a table names. -/
theorem foldl_put_wf {m : Tab Byte} (h : Memory.wf m) (t : Tab Byte) (f : Tab Byte → Nat × Byte → Tab Byte)
    (hf : ∀ m x, Memory.wf m → Memory.wf (f m x)) : Memory.wf (t.foldl f m) := by
  induction t generalizing m with
  | nil => exact h
  | cons x t ih => exact ih (hf m x h)

theorem State.placeImage_wf {s : State} (h : Memory.wf s.mem) (a n : Nat) (t : Tab Byte) : Memory.wf (s.placeImage a n t).mem :=
  foldl_put_wf (State.zero_wf h a n) t _ fun _ _ hm => tabWf_tput hm _ _

theorem State.fillTables_wf {s : State} (h : Memory.wf s.mem) (p c : Nat) : Memory.wf (s.fillTables p c).mem := by
  unfold State.fillTables
  split
  · exact h
  · exact foldl_put_wf (filter_wf h _) _ _ fun _ _ hm => tabWf_tput (tabWf_tput hm _ _) _ _

theorem State.corePowerOff_wf {s : State} (h : Memory.wf s.mem) (c : Nat) : Memory.wf (s.corePowerOff c).mem := filter_wf h _

/-- Reset memory lists nothing. -/
theorem reset_mem_wf : Memory.wf State.reset.mem := tabWf_nil _

/-! ### Reading back -/

theorem tget_memPut (m : Tab Byte) (a j : Nat) (bs : List Byte) :
    tget Memory.dflt (memPut m a bs) j = if a ≤ j ∧ j < a + bs.length then bs.getD (j - a) 0 else tget Memory.dflt m j := by
  induction bs generalizing m a with
  | nil => simp [memPut]
  | cons b bs ih =>
    simp only [memPut, ih, tget_tput, List.length_cons]
    by_cases h1 : a + 1 ≤ j ∧ j < a + 1 + bs.length
    · rw [if_pos h1, if_pos (by omega)]
      obtain ⟨k, rfl⟩ : ∃ k, j = a + 1 + k := ⟨j - (a + 1), by omega⟩
      rw [show a + 1 + k - (a + 1) = k by omega, show a + 1 + k - a = k + 1 by omega]
      rfl
    · rw [if_neg h1]
      by_cases h2 : j = a
      · subst h2
        rw [if_pos rfl, if_pos (by omega), Nat.sub_self]
        rfl
      · rw [if_neg h2, if_neg (by omega)]

/-- A byte after a write: the byte written where the write reaches, and what was there elsewhere. -/
theorem State.rawByte_write (s : State) (a j : Nat) (bs : List Byte) :
    (s.write a bs).rawByte j = if a ≤ j ∧ j < a + bs.length then bs.getD (j - a) 0 else s.rawByte j := by
  unfold State.write
  split
  · rename_i e
    subst e
    rw [if_neg (by simp)]
  · exact tget_memPut s.mem a j bs

/-- A read outside all of a list of writes gives what was there. -/
theorem State.rawByte_writes (s : State) (ws : List (Nat × List Byte)) (j : Nat)
    (hj : ∀ w ∈ ws, j < w.1 ∨ w.1 + w.2.length ≤ j) : (s.writes ws).rawByte j = s.rawByte j := by
  induction ws generalizing s with
  | nil => rfl
  | cons w ws ih =>
    have e := ih (s.write w.1 w.2) (fun w' hw => hj w' (List.mem_cons_of_mem _ hw))
    have o := hj w (List.mem_cons_self ..)
    exact e.trans ((State.rawByte_write s w.1 j w.2).trans (if_neg (by omega)))

end Sys2Proof.Machine
end

