-- ==== Sys2Proof/Laws/Kept.lean ====
section
/-!
SUPPORT. What most commands keep: the queue, the clock, the patch tables of the NOR flash, and the canonical form of device
memory. One lemma for each operation of the model says so.
-/

set_option Elab.async false

namespace Sys2Proof.Machine

/-- The part of the state that few commands change, and device memory. -/
structure Vault where
  pending : List Instr
  time : Nat
  patch : Nat × Bool
  nextPatch : Option (Nat × Bool)
  copyA : Option PatchCopy
  copyB : Option PatchCopy
  update : Option PatchCopy
  mem : Tab Byte

/-- That part of a state. -/
def State.vault (s : State) : Vault :=
  { pending := s.pending, time := s.time, patch := s.patch, nextPatch := s.nextPatch, copyA := s.board.copyA, copyB := s.board.copyB, update := s.board.update, mem := s.mem }

/-- The rest is the same, and memory stays canonical. -/
structure Vault.Kept (v w : Vault) : Prop where
  pending : w.pending = v.pending
  time : w.time = v.time
  patch : w.patch = v.patch
  nextPatch : w.nextPatch = v.nextPatch
  copyA : w.copyA = v.copyA
  copyB : w.copyB = v.copyB
  update : w.update = v.update
  mem : Memory.wf v.mem → Memory.wf w.mem

/-- What most commands keep. -/
def Kept (s t : State) : Prop := s.vault.Kept t.vault

@[refl] theorem Kept.refl (s : State) : Kept s s := ⟨rfl, rfl, rfl, rfl, rfl, rfl, rfl, id⟩

/-- One more operation. -/
theorem Kept.of {s t u : State} (h : Kept t u) (k : Kept s t) : Kept s u :=
  ⟨h.pending.trans k.pending, h.time.trans k.time, h.patch.trans k.patch, h.nextPatch.trans k.nextPatch, h.copyA.trans k.copyA,
    h.copyB.trans k.copyB, h.update.trans k.update, h.mem ∘ k.mem⟩

theorem kept_vault {s t : State} (h : s.vault.Kept t.vault) : Kept s t := h
theorem vault_kept {s t : State} (h : Kept s t) : s.vault.Kept t.vault := h

theorem State.mk_vault (a0 : List Instr) (a1 : Nat) (a2 : Int) (a3 : Int) (a4 : Nat) (a5 : Tab Byte) (a6 : List Nat) (a7 : Tab (Tab Byte)) (a8 : Tab Ctx) (a9 : Tab Core) (a10 : Tab Tile) (a11 : Tab Sem) (a12 : List Signal) (a13 : Tab Claim) (a14 : Tab Part) (a15 : Tab Qp) (a16 : Tab Launch) (a17 : Nat) (a18 : Tab Image) (a19 : Nat) (a20 : Tab Seq) (a21 : Tab Region) (a22 : List Own) (a23 : Tab (BitVec 3)) (a24 : List Grant) (a25 : List RegionDrain) (a26 : Tab DramDie) (a27 : Tab DramCh) (a28 : Tab Tobj) (a29 : Nat) (a30 : Tab Wpkg) (a31 : Nat) (a32 : Tab Wwin) (a33 : Flash) (a34 : Tab Pool) (a35 : Tab MapE) (a36 : Tab (Nat × Nat)) (a37 : Tab Fox) (a38 : Tab Prim) (a39 : Tab Mbx) (a40 : List Cmd) (a41 : Nat) (a42 : Bool) (a43 : Nat) (a44 : Bool) (a45 : Nat × Bool) (a46 : Option (Nat × Bool)) (a47 : Tab Func) (a48 : Tab PKey) (a49 : List Nat) (a50 : Bool) (a51 : List Sent) (a52 : Tab Bar) (a53 : Tab Run) (a54 : Tab (List StepLog)) (a55 : List (Nat × Boundary)) (a56 : List Copy) (a57 : Tab Nat) (a58 : List (Nat × Nat × Nat × Nat)) (a59 : Health) (a60 : Tab Port) (a61 : List FlitOut) (a62 : Tab Nat) (a63 : Option Domain) (a64 : Option Twin) (a65 : Tab FabPart) (a66 : Tab Cq) (a67 : Tab Fwd) (a68 : Tab SnapPart) (a69 : Tab FlashSnap) (a70 : ModState) (a71 : Tab Page) (a72 : Tab IrisSess) (a73 : Tab IrisCore) (a74 : Board) :
    (State.mk a0 a1 a2 a3 a4 a5 a6 a7 a8 a9 a10 a11 a12 a13 a14 a15 a16 a17 a18 a19 a20 a21 a22 a23 a24 a25 a26 a27 a28 a29 a30 a31 a32 a33 a34 a35 a36 a37 a38 a39 a40 a41 a42 a43 a44 a45 a46 a47 a48 a49 a50 a51 a52 a53 a54 a55 a56 a57 a58 a59 a60 a61 a62 a63 a64 a65 a66 a67 a68 a69 a70 a71 a72 a73 a74).vault = ⟨a0, a1, a45, a46, a74.copyA, a74.copyB, a74.update, a5⟩ := id rfl

theorem pending_vault (s : State) : s.pending = s.vault.pending := rfl
theorem time_vault (s : State) : s.time = s.vault.time := rfl
theorem patch_vault (s : State) : s.patch = s.vault.patch := rfl
theorem nextPatch_vault (s : State) : s.nextPatch = s.vault.nextPatch := rfl
theorem copyA_vault (s : State) : s.board.copyA = s.vault.copyA := rfl
theorem copyB_vault (s : State) : s.board.copyB = s.vault.copyB := rfl
theorem update_vault (s : State) : s.board.update = s.vault.update := rfl
theorem mem_vault (s : State) : s.mem = s.vault.mem := rfl
theorem Vault.eta (v : Vault) : Vault.mk v.pending v.time v.patch v.nextPatch v.copyA v.copyB v.update v.mem = v := rfl

/-- Only the memory differs. -/
theorem kept_mem {s t : State} (h0 : t.pending = s.pending) (h1 : t.time = s.time) (h2 : t.patch = s.patch) (h3 : t.nextPatch = s.nextPatch)
    (h4 : t.board = s.board) (h : Memory.wf s.mem → Memory.wf t.mem) : Kept s t :=
  ⟨h0, h1, h2, h3, congrArg Board.copyA h4, congrArg Board.copyB h4, congrArg Board.update h4, h⟩

/-- States that agree on the vault. -/
theorem kept_same {s t : State} (h : t.vault = s.vault) : Kept s t := by
  unfold Kept
  rw [h]
  exact Kept.refl s

theorem err_ok {ε α : Type} {e : ε} {a : α} {P : Prop} (h : Except.error e = Except.ok a) : P := nomatch h

theorem ok_pair {ε α β : Type} {a a2 : α} {b b2 : β} (h : (Except.ok (a, b) : Except ε (α × β)) = Except.ok (a2, b2)) : b = b2 := by
  cases h; rfl

theorem ite_kept {c : Prop} [Decidable c] {s a b : State} (ha : Kept s a) (hb : Kept s b) : Kept s (if c then a else b) := by
  split <;> assumption

theorem ite_fst_kept {α : Type} {c : Prop} [Decidable c] {s : State} {a b : State × α} (ha : Kept s a.1) (hb : Kept s b.1) :
    Kept s (if c then a else b).1 := by
  split <;> assumption

theorem fst_kept {α : Type} {s t : State} {r : α} (h : Kept s t) : Kept s (t, r).1 := h

theorem foldl_kept {α : Type} {f : State → α → State} (h : ∀ s x, Kept s (f s x)) (l : List α) (s : State) : Kept s (l.foldl f s) := by
  induction l generalizing s with
  | nil => rfl
  | cons x l ih => exact (ih _).of (h s x)

theorem foldr_kept {α : Type} {f : α → State → State} (h : ∀ x s, Kept s (f x s)) (l : List α) (s : State) : Kept s (l.foldr f s) := by
  induction l with
  | nil => rfl
  | cons x l ih => exact (h x _).of ih

theorem bind_ok {ε α β : Type} {x : Except ε α} {f : α → Except ε β} {b : β} (h : (x >>= f) = .ok b) :
    ∃ a, x = .ok a ∧ f a = .ok b := by
  cases x with
  | error e => cases h
  | ok a => exact ⟨a, rfl, h⟩

theorem ite_or {α : Type} {c : Prop} [Decidable c] {x y r : α} (h : (if c then x else y) = r) : x = r ∨ y = r := by
  split at h
  · exact .inl h
  · exact .inr h

end Sys2Proof.Machine
end

