-- ==== Sys2Proof/Laws/KeptOps.lean ====
section
/-!
SUPPORT. The operations of Machine/Ops keep what Kept says.
-/

set_option Elab.async false

namespace Sys2Proof.Machine

theorem State.setCtx_kept (s : State) (c x : Nat) (k : Ctx) : Kept s (State.setCtx s c x k) := by
  unfold State.setCtx
  repeat' first
    | with_reducible rfl
    | with_reducible assumption
    | with_reducible refine ite_kept ?_ ?_
    | with_reducible refine ite_fst_kept ?_ ?_
    | dsimp only
    | (with_reducible refine kept_vault ?_; simp only [↓State.mk_vault]; simp only [pending_vault, time_vault, patch_vault, nextPatch_vault, copyA_vault, copyB_vault, update_vault, mem_vault, Vault.eta]; with_reducible refine vault_kept ?_)

theorem State.updCtx_kept (s : State) (c x : Nat) (f : Ctx → Ctx) : Kept s (State.updCtx s c x f) := by
  unfold State.updCtx
  repeat' first
    | with_reducible rfl
    | with_reducible assumption
    | with_reducible refine ite_kept ?_ ?_
    | with_reducible refine ite_fst_kept ?_ ?_
    | dsimp only
    | (with_reducible refine kept_vault ?_; simp only [↓State.mk_vault]; simp only [pending_vault, time_vault, patch_vault, nextPatch_vault, copyA_vault, copyB_vault, update_vault, mem_vault, Vault.eta]; with_reducible refine vault_kept ?_)
    | with_reducible refine (State.setCtx_kept ..).of ?_

theorem State.setCore_kept (s : State) (c : Nat) (k : Core) : Kept s (State.setCore s c k) := by
  unfold State.setCore
  repeat' first
    | with_reducible rfl
    | with_reducible assumption
    | with_reducible refine ite_kept ?_ ?_
    | with_reducible refine ite_fst_kept ?_ ?_
    | dsimp only
    | (with_reducible refine kept_vault ?_; simp only [↓State.mk_vault]; simp only [pending_vault, time_vault, patch_vault, nextPatch_vault, copyA_vault, copyB_vault, update_vault, mem_vault, Vault.eta]; with_reducible refine vault_kept ?_)

theorem State.updCore_kept (s : State) (c : Nat) (f : Core → Core) : Kept s (State.updCore s c f) := by
  unfold State.updCore
  repeat' first
    | with_reducible rfl
    | with_reducible assumption
    | with_reducible refine ite_kept ?_ ?_
    | with_reducible refine ite_fst_kept ?_ ?_
    | dsimp only
    | (with_reducible refine kept_vault ?_; simp only [↓State.mk_vault]; simp only [pending_vault, time_vault, patch_vault, nextPatch_vault, copyA_vault, copyB_vault, update_vault, mem_vault, Vault.eta]; with_reducible refine vault_kept ?_)
    | with_reducible refine (State.setCore_kept ..).of ?_

theorem State.setTile_kept (s : State) (c x h : Nat) (t : Tile) : Kept s (State.setTile s c x h t) := by
  unfold State.setTile
  repeat' first
    | with_reducible rfl
    | with_reducible assumption
    | with_reducible refine ite_kept ?_ ?_
    | with_reducible refine ite_fst_kept ?_ ?_
    | dsimp only
    | (with_reducible refine kept_vault ?_; simp only [↓State.mk_vault]; simp only [pending_vault, time_vault, patch_vault, nextPatch_vault, copyA_vault, copyB_vault, update_vault, mem_vault, Vault.eta]; with_reducible refine vault_kept ?_)

theorem State.updLaunch_kept (s : State) (l : Nat) (f : Launch → Launch) : Kept s (State.updLaunch s l f) := by
  unfold State.updLaunch
  repeat' first
    | with_reducible rfl
    | with_reducible assumption
    | with_reducible refine ite_kept ?_ ?_
    | with_reducible refine ite_fst_kept ?_ ?_
    | dsimp only
    | (with_reducible refine kept_vault ?_; simp only [↓State.mk_vault]; simp only [pending_vault, time_vault, patch_vault, nextPatch_vault, copyA_vault, copyB_vault, update_vault, mem_vault, Vault.eta]; with_reducible refine vault_kept ?_)

theorem State.updPart_kept (s : State) (p : Nat) (f : Part → Part) : Kept s (State.updPart s p f) := by
  unfold State.updPart
  repeat' first
    | with_reducible rfl
    | with_reducible assumption
    | with_reducible refine ite_kept ?_ ?_
    | with_reducible refine ite_fst_kept ?_ ?_
    | dsimp only
    | (with_reducible refine kept_vault ?_; simp only [↓State.mk_vault]; simp only [pending_vault, time_vault, patch_vault, nextPatch_vault, copyA_vault, copyB_vault, update_vault, mem_vault, Vault.eta]; with_reducible refine vault_kept ?_)

theorem State.bump_kept (s : State) : Kept s (State.bump s) := by
  unfold State.bump
  repeat' first
    | with_reducible rfl
    | with_reducible assumption
    | with_reducible refine ite_kept ?_ ?_
    | with_reducible refine ite_fst_kept ?_ ?_
    | dsimp only
    | (with_reducible refine kept_vault ?_; simp only [↓State.mk_vault]; simp only [pending_vault, time_vault, patch_vault, nextPatch_vault, copyA_vault, copyB_vault, update_vault, mem_vault, Vault.eta]; with_reducible refine vault_kept ?_)

theorem State.taint_kept (s : State) (a n : Nat) : Kept s (State.taint s a n) := by
  unfold State.taint
  repeat' first
    | with_reducible rfl
    | with_reducible assumption
    | with_reducible refine ite_kept ?_ ?_
    | with_reducible refine ite_fst_kept ?_ ?_
    | dsimp only
    | (with_reducible refine kept_vault ?_; simp only [↓State.mk_vault]; simp only [pending_vault, time_vault, patch_vault, nextPatch_vault, copyA_vault, copyB_vault, update_vault, mem_vault, Vault.eta]; with_reducible refine vault_kept ?_)

theorem State.write_kept (s : State) (a : Nat) (bs : List Byte) : Kept s (State.write s a bs) := by
  refine kept_mem ?_ ?_ ?_ ?_ ?_ (fun h => State.write_wf h a bs)
  all_goals
    unfold State.write
    split <;> rfl

theorem State.writes_kept (s : State) (ws : List (Nat × List Byte)) : Kept s (State.writes s ws) := by
  unfold State.writes
  repeat' first
    | with_reducible rfl
    | with_reducible assumption
    | with_reducible refine ite_kept ?_ ?_
    | with_reducible refine ite_fst_kept ?_ ?_
    | dsimp only
    | (with_reducible refine kept_vault ?_; simp only [↓State.mk_vault]; simp only [pending_vault, time_vault, patch_vault, nextPatch_vault, copyA_vault, copyB_vault, update_vault, mem_vault, Vault.eta]; with_reducible refine vault_kept ?_)
    | with_reducible refine (State.write_kept ..).of ?_
    | (with_reducible refine (foldl_kept ?_ _ _).of ?_ <;> try intro _ _)

theorem State.recordFault_kept (s : State) (c x pc : Nat) (th : Thread) (f : CoreFault) : Kept s (State.recordFault s c x pc th f) := by
  unfold State.recordFault
  repeat' first
    | with_reducible rfl
    | with_reducible assumption
    | with_reducible refine ite_kept ?_ ?_
    | with_reducible refine ite_fst_kept ?_ ?_
    | dsimp only
    | (with_reducible refine kept_vault ?_; simp only [↓State.mk_vault]; simp only [pending_vault, time_vault, patch_vault, nextPatch_vault, copyA_vault, copyB_vault, update_vault, mem_vault, Vault.eta]; with_reducible refine vault_kept ?_)
    | with_reducible refine (State.updLaunch_kept ..).of ?_

theorem State.leaveWaits_kept (s : State) (c x : Nat) : Kept s (State.leaveWaits s c x) := by
  unfold State.leaveWaits
  repeat' first
    | with_reducible rfl
    | with_reducible assumption
    | with_reducible refine ite_kept ?_ ?_
    | with_reducible refine ite_fst_kept ?_ ?_
    | dsimp only
    | (with_reducible refine kept_vault ?_; simp only [↓State.mk_vault]; simp only [pending_vault, time_vault, patch_vault, nextPatch_vault, copyA_vault, copyB_vault, update_vault, mem_vault, Vault.eta]; with_reducible refine vault_kept ?_)

theorem State.leaveBars_kept (s : State) (c x : Nat) : Kept s (State.leaveBars s c x) := by
  unfold State.leaveBars
  repeat' first
    | with_reducible rfl
    | with_reducible assumption
    | with_reducible refine ite_kept ?_ ?_
    | with_reducible refine ite_fst_kept ?_ ?_
    | dsimp only
    | (with_reducible refine kept_vault ?_; simp only [↓State.mk_vault]; simp only [pending_vault, time_vault, patch_vault, nextPatch_vault, copyA_vault, copyB_vault, update_vault, mem_vault, Vault.eta]; with_reducible refine vault_kept ?_)

theorem State.endThread_kept (s : State) (c x : Nat) : Kept s (State.endThread s c x) := by
  unfold State.endThread
  repeat' first
    | with_reducible rfl
    | with_reducible assumption
    | with_reducible refine ite_kept ?_ ?_
    | with_reducible refine ite_fst_kept ?_ ?_
    | dsimp only
    | (with_reducible refine kept_vault ?_; simp only [↓State.mk_vault]; simp only [pending_vault, time_vault, patch_vault, nextPatch_vault, copyA_vault, copyB_vault, update_vault, mem_vault, Vault.eta]; with_reducible refine vault_kept ?_)
    | with_reducible refine (State.updLaunch_kept ..).of ?_
    | with_reducible refine (State.leaveWaits_kept ..).of ?_
    | with_reducible refine (State.leaveBars_kept ..).of ?_
    | with_reducible refine (State.updCtx_kept ..).of ?_
    | split

theorem State.stopLupin_kept (s : State) (c x id : Nat) (bad : Option LupinMmul) : Kept s (State.stopLupin s c x id bad) := by
  unfold State.stopLupin
  repeat' first
    | with_reducible rfl
    | with_reducible assumption
    | with_reducible refine ite_kept ?_ ?_
    | with_reducible refine ite_fst_kept ?_ ?_
    | dsimp only
    | (with_reducible refine kept_vault ?_; simp only [↓State.mk_vault]; simp only [pending_vault, time_vault, patch_vault, nextPatch_vault, copyA_vault, copyB_vault, update_vault, mem_vault, Vault.eta]; with_reducible refine vault_kept ?_)
    | with_reducible refine (State.updCore_kept ..).of ?_
    | with_reducible refine (State.setTile_kept ..).of ?_
    | (with_reducible refine (foldl_kept ?_ _ _).of ?_ <;> try intro _ _)

theorem State.issueMmuls_kept (s : State) (c : Nat) : Kept s (State.issueMmuls s c) := by
  unfold State.issueMmuls
  repeat' first
    | with_reducible rfl
    | with_reducible assumption
    | with_reducible refine ite_kept ?_ ?_
    | with_reducible refine ite_fst_kept ?_ ?_
    | dsimp only
    | (with_reducible refine kept_vault ?_; simp only [↓State.mk_vault]; simp only [pending_vault, time_vault, patch_vault, nextPatch_vault, copyA_vault, copyB_vault, update_vault, mem_vault, Vault.eta]; with_reducible refine vault_kept ?_)
    | with_reducible refine (State.updCore_kept ..).of ?_

theorem State.lateFault_kept (s : State) (c x pc : Nat) (th : Thread) (f : CoreFault) : Kept s (State.lateFault s c x pc th f) := by
  unfold State.lateFault
  repeat' first
    | with_reducible rfl
    | with_reducible assumption
    | with_reducible refine ite_kept ?_ ?_
    | with_reducible refine ite_fst_kept ?_ ?_
    | dsimp only
    | (with_reducible refine kept_vault ?_; simp only [↓State.mk_vault]; simp only [pending_vault, time_vault, patch_vault, nextPatch_vault, copyA_vault, copyB_vault, update_vault, mem_vault, Vault.eta]; with_reducible refine vault_kept ?_)
    | with_reducible refine (State.recordFault_kept ..).of ?_
    | with_reducible refine (State.endThread_kept ..).of ?_

theorem State.setSem_kept (s : State) (die i : Nat) (v : Sem) : Kept s (State.setSem s die i v) := by
  unfold State.setSem
  repeat' first
    | with_reducible rfl
    | with_reducible assumption
    | with_reducible refine ite_kept ?_ ?_
    | with_reducible refine ite_fst_kept ?_ ?_
    | dsimp only
    | (with_reducible refine kept_vault ?_; simp only [↓State.mk_vault]; simp only [pending_vault, time_vault, patch_vault, nextPatch_vault, copyA_vault, copyB_vault, update_vault, mem_vault, Vault.eta]; with_reducible refine vault_kept ?_)

theorem State.setClaim_kept (s : State) (die i : Nat) (v : Claim) : Kept s (State.setClaim s die i v) := by
  unfold State.setClaim
  repeat' first
    | with_reducible rfl
    | with_reducible assumption
    | with_reducible refine ite_kept ?_ ?_
    | with_reducible refine ite_fst_kept ?_ ?_
    | dsimp only
    | (with_reducible refine kept_vault ?_; simp only [↓State.mk_vault]; simp only [pending_vault, time_vault, patch_vault, nextPatch_vault, copyA_vault, copyB_vault, update_vault, mem_vault, Vault.eta]; with_reducible refine vault_kept ?_)

theorem State.semAdd_kept {s : State} {die i n : Nat} {t : State} (h : State.semAdd s die i n = some t) : Kept s t := by
  unfold State.semAdd at h
  try dsimp only at h
  repeat' split at h
  all_goals first
    | (cases h; done)
    | (simp at h; done)
    | (cases h
       repeat' first
         | with_reducible rfl
         | with_reducible assumption
         | with_reducible refine ite_kept ?_ ?_
         | with_reducible refine ite_fst_kept ?_ ?_
         | dsimp only
         | (with_reducible refine kept_vault ?_; simp only [↓State.mk_vault]; simp only [pending_vault, time_vault, patch_vault, nextPatch_vault, copyA_vault, copyB_vault, update_vault, mem_vault, Vault.eta]; with_reducible refine vault_kept ?_)
         | with_reducible refine (State.setSem_kept ..).of ?_
       )

end Sys2Proof.Machine
end

