-- ==== Sys2Proof/Laws/KeptScalar.lean ====
section
/-!
SUPPORT. The operations of Machine/Scalar keep what Kept says.
-/

set_option Elab.async false

namespace Sys2Proof.Machine

theorem scalarSlot_kept {c x : Nat} {pre : State} {o : ScalarOp} {f : ScalarF} {s : State} {t : State} (h : scalarSlot c x pre o f s = .ok t) : Kept s t := by
  unfold scalarSlot at h
  try dsimp only at h
  repeat' split at h
  all_goals first
    | (cases h; done)
    | (simp at h; done)
    | (cases h
       repeat' first
         | with_reducible rfl
         | with_reducible assumption
         | with_reducible refine ite_kept ?_ ?_
         | with_reducible refine ite_fst_kept ?_ ?_
         | dsimp only
         | (with_reducible refine kept_vault ?_; simp only [↓State.mk_vault]; simp only [pending_vault, time_vault, patch_vault, nextPatch_vault, copyA_vault, copyB_vault, update_vault, mem_vault, Vault.eta]; with_reducible refine vault_kept ?_)
         | with_reducible refine (State.updCtx_kept ..).of ?_
         | with_reducible refine (State.write_kept ..).of ?_
       )

end Sys2Proof.Machine
end

