-- ==== Sys2Proof/Laws/KeptVector.lean ====
section
/-!
SUPPORT. The operations of Machine/Vector keep what Kept says.
-/

set_option Elab.async false

namespace Sys2Proof.Machine

theorem vectorSlot_kept {c x : Nat} {pre : State} {h : SlotHdr} {o : VectorOp} {f : VectorF} {s : State} {t : State} (h : vectorSlot c x pre h o f s = .ok t) : Kept s t := by
  unfold vectorSlot at h
  try dsimp only at h
  repeat' split at h
  all_goals first
    | (cases h; done)
    | (simp at h; done)
    | (cases h
       repeat' first
         | with_reducible rfl
         | with_reducible assumption
         | with_reducible refine ite_kept ?_ ?_
         | with_reducible refine ite_fst_kept ?_ ?_
         | dsimp only
         | (with_reducible refine kept_vault ?_; simp only [↓State.mk_vault]; simp only [pending_vault, time_vault, patch_vault, nextPatch_vault, copyA_vault, copyB_vault, update_vault, mem_vault, Vault.eta]; with_reducible refine vault_kept ?_)
         | with_reducible refine (State.bump_kept ..).of ?_
         | with_reducible refine (State.updCtx_kept ..).of ?_
         | with_reducible refine (State.write_kept ..).of ?_
         | (with_reducible refine (foldl_kept ?_ _ _).of ?_ <;> try intro _ _)
       )

end Sys2Proof.Machine
end

