-- ==== Sys2Proof/Laws/KeptSfu.lean ====
section
/-!
SUPPORT. The operations of Machine/Sfu keep what Kept says.
-/

set_option Elab.async false

namespace Sys2Proof.Machine

theorem State.startCommit_kept (s : State) (c : Nat) (x : Option Nat) (th : Thread) (pc : BitVec 48) (hd no : Nat) : Kept s (State.startCommit s c x th pc hd no) := by
  unfold State.startCommit
  repeat' first
    | with_reducible rfl
    | with_reducible assumption
    | with_reducible refine ite_kept ?_ ?_
    | with_reducible refine ite_fst_kept ?_ ?_
    | dsimp only
    | (with_reducible refine kept_vault ?_; simp only [↓State.mk_vault]; simp only [pending_vault, time_vault, patch_vault, nextPatch_vault, copyA_vault, copyB_vault, update_vault, mem_vault, Vault.eta]; with_reducible refine vault_kept ?_)
    | with_reducible refine (State.updCore_kept ..).of ?_

theorem specialSlot_kept {c x : Nat} {pre : State} {hd : Nat} {h : SlotHdr} {o : SpecialOp} {f : SpecialF} {s : State} {t : State} (h : specialSlot c x pre hd h o f s = .ok t) : Kept s t := by
  unfold specialSlot at h
  try dsimp only at h
  repeat' split at h
  all_goals first
    | (cases h; done)
    | (simp at h; done)
    | (cases h
       repeat' first
         | with_reducible rfl
         | with_reducible assumption
         | with_reducible refine ite_kept ?_ ?_
         | with_reducible refine ite_fst_kept ?_ ?_
         | dsimp only
         | (with_reducible refine kept_vault ?_; simp only [↓State.mk_vault]; simp only [pending_vault, time_vault, patch_vault, nextPatch_vault, copyA_vault, copyB_vault, update_vault, mem_vault, Vault.eta]; with_reducible refine vault_kept ?_)
         | with_reducible refine (State.updCtx_kept ..).of ?_
         | with_reducible refine (State.startCommit_kept ..).of ?_
       )

end Sys2Proof.Machine
end

