-- ==== Sys2Proof/Laws/KeptMover.lean ====
section
/-!
SUPPORT. The operations of Machine/Mover keep what Kept says.
-/

set_option Elab.async false

namespace Sys2Proof.Machine

theorem State.move_kept (s : State) (m : MoverRec) : Kept s (State.move s m) := by
  unfold State.move
  repeat' first
    | with_reducible rfl
    | with_reducible assumption
    | with_reducible refine ite_kept ?_ ?_
    | with_reducible refine ite_fst_kept ?_ ?_
    | dsimp only
    | (with_reducible refine kept_vault ?_; simp only [↓State.mk_vault]; simp only [pending_vault, time_vault, patch_vault, nextPatch_vault, copyA_vault, copyB_vault, update_vault, mem_vault, Vault.eta]; with_reducible refine vault_kept ?_)
    | with_reducible refine (State.write_kept ..).of ?_
    | with_reducible refine (State.writes_kept ..).of ?_
    | (with_reducible refine (foldl_kept ?_ _ _).of ?_ <;> try intro _ _)
    | split

theorem State.enqueueMover_kept (s : State) (c : Nat) (m : MoverRec) : Kept s (State.enqueueMover s c m) := by
  unfold State.enqueueMover
  repeat' first
    | with_reducible rfl
    | with_reducible assumption
    | with_reducible refine ite_kept ?_ ?_
    | with_reducible refine ite_fst_kept ?_ ?_
    | dsimp only
    | (with_reducible refine kept_vault ?_; simp only [↓State.mk_vault]; simp only [pending_vault, time_vault, patch_vault, nextPatch_vault, copyA_vault, copyB_vault, update_vault, mem_vault, Vault.eta]; with_reducible refine vault_kept ?_)
    | with_reducible refine (State.updCore_kept ..).of ?_
    | with_reducible refine (State.updCtx_kept ..).of ?_
    | split

theorem moverSlot_kept {c x : Nat} {pre : State} {h : SlotHdr} {o : MoverOp} {f : MoverF} {s : State} {t : State} (h : moverSlot c x pre h o f s = .ok t) : Kept s t := by
  unfold moverSlot at h
  try dsimp only at h
  repeat' split at h
  all_goals first
    | (cases h; done)
    | (simp at h; done)
    | (cases h
       repeat' first
         | with_reducible rfl
         | with_reducible assumption
         | with_reducible refine ite_kept ?_ ?_
         | with_reducible refine ite_fst_kept ?_ ?_
         | dsimp only
         | (with_reducible refine kept_vault ?_; simp only [↓State.mk_vault]; simp only [pending_vault, time_vault, patch_vault, nextPatch_vault, copyA_vault, copyB_vault, update_vault, mem_vault, Vault.eta]; with_reducible refine vault_kept ?_)
         | with_reducible refine (State.enqueueMover_kept ..).of ?_
       )

theorem State.charge_kept (s : State) (p j n : Nat) : Kept s (State.charge s p j n) := by
  unfold State.charge
  repeat' first
    | with_reducible rfl
    | with_reducible assumption
    | with_reducible refine ite_kept ?_ ?_
    | with_reducible refine ite_fst_kept ?_ ?_
    | dsimp only
    | (with_reducible refine kept_vault ?_; simp only [↓State.mk_vault]; simp only [pending_vault, time_vault, patch_vault, nextPatch_vault, copyA_vault, copyB_vault, update_vault, mem_vault, Vault.eta]; with_reducible refine vault_kept ?_)
    | with_reducible refine (State.updPart_kept ..).of ?_

theorem State.chargeLines_kept (s : State) (p : Nat) (ss : List (Nat × Nat)) : Kept s (State.chargeLines s p ss) := by
  unfold State.chargeLines
  repeat' first
    | with_reducible rfl
    | with_reducible assumption
    | with_reducible refine ite_kept ?_ ?_
    | with_reducible refine ite_fst_kept ?_ ?_
    | dsimp only
    | (with_reducible refine kept_vault ?_; simp only [↓State.mk_vault]; simp only [pending_vault, time_vault, patch_vault, nextPatch_vault, copyA_vault, copyB_vault, update_vault, mem_vault, Vault.eta]; with_reducible refine vault_kept ?_)
    | with_reducible refine (State.charge_kept ..).of ?_

theorem State.signalBy_kept (s : State) (c x slot : Nat) (pc : BitVec 48) (th : Thread) (sig : Option (Nat × Nat)) : Kept s (State.signalBy s c x slot pc th sig) := by
  unfold State.signalBy
  repeat' first
    | with_reducible rfl
    | with_reducible assumption
    | with_reducible refine ite_kept ?_ ?_
    | with_reducible refine ite_fst_kept ?_ ?_
    | dsimp only
    | (with_reducible refine kept_vault ?_; simp only [↓State.mk_vault]; simp only [pending_vault, time_vault, patch_vault, nextPatch_vault, copyA_vault, copyB_vault, update_vault, mem_vault, Vault.eta]; with_reducible refine vault_kept ?_)
    | with_reducible refine (State.semAdd_kept (by with_reducible assumption)).of ?_
    | with_reducible refine (State.lateFault_kept ..).of ?_
    | split

theorem moverComplete_kept (c : Nat) (st : Bool) (x : Nat) (s : State) : Kept s (moverComplete c st x s) := by
  unfold moverComplete
  repeat' first
    | with_reducible rfl
    | with_reducible assumption
    | with_reducible refine ite_kept ?_ ?_
    | with_reducible refine ite_fst_kept ?_ ?_
    | dsimp only
    | (with_reducible refine kept_vault ?_; simp only [↓State.mk_vault]; simp only [pending_vault, time_vault, patch_vault, nextPatch_vault, copyA_vault, copyB_vault, update_vault, mem_vault, Vault.eta]; with_reducible refine vault_kept ?_)
    | with_reducible refine (State.updCore_kept ..).of ?_
    | with_reducible refine (State.bump_kept ..).of ?_
    | with_reducible refine (State.move_kept ..).of ?_
    | with_reducible refine (State.charge_kept ..).of ?_
    | with_reducible refine (State.taint_kept ..).of ?_
    | with_reducible refine (State.issueMmuls_kept ..).of ?_
    | with_reducible refine (State.updCtx_kept ..).of ?_
    | with_reducible refine (State.signalBy_kept ..).of ?_
    | (with_reducible refine (foldl_kept ?_ _ _).of ?_ <;> try intro _ _)
    | split

end Sys2Proof.Machine
end

