-- ==== Sys2Proof/Laws/KeptMatrix.lean ====
section
/-!
SUPPORT. The operations of Machine/Matrix keep what Kept says.
-/

set_option Elab.async false

namespace Sys2Proof.Machine

theorem State.settleFrees_kept (s : State) (c : Nat) : Kept s (State.settleFrees s c) := by
  unfold State.settleFrees
  repeat' first
    | with_reducible rfl
    | with_reducible assumption
    | with_reducible refine ite_kept ?_ ?_
    | with_reducible refine ite_fst_kept ?_ ?_
    | dsimp only
    | (with_reducible refine kept_vault ?_; simp only [↓State.mk_vault]; simp only [pending_vault, time_vault, patch_vault, nextPatch_vault, copyA_vault, copyB_vault, update_vault, mem_vault, Vault.eta]; with_reducible refine vault_kept ?_)
    | with_reducible refine (State.setTile_kept ..).of ?_
    | with_reducible refine (State.setCore_kept ..).of ?_
    | (with_reducible refine (foldl_kept ?_ _ _).of ?_ <;> try intro _ _)

theorem State.drainRead_kept (s : State) (c : Nat) (r : DrainRun) : Kept s (State.drainRead s c r) := by
  unfold State.drainRead
  repeat' first
    | with_reducible rfl
    | with_reducible assumption
    | with_reducible refine ite_kept ?_ ?_
    | with_reducible refine ite_fst_kept ?_ ?_
    | dsimp only
    | (with_reducible refine kept_vault ?_; simp only [↓State.mk_vault]; simp only [pending_vault, time_vault, patch_vault, nextPatch_vault, copyA_vault, copyB_vault, update_vault, mem_vault, Vault.eta]; with_reducible refine vault_kept ?_)
    | with_reducible refine (State.setTile_kept ..).of ?_
    | with_reducible refine (State.updCore_kept ..).of ?_
    | with_reducible refine (State.settleFrees_kept ..).of ?_

theorem State.afterRun_kept (s : State) (c : Nat) (r : DrainRun) : Kept s (State.afterRun s c r) := by
  unfold State.afterRun
  repeat' first
    | with_reducible rfl
    | with_reducible assumption
    | with_reducible refine ite_kept ?_ ?_
    | with_reducible refine ite_fst_kept ?_ ?_
    | dsimp only
    | (with_reducible refine kept_vault ?_; simp only [↓State.mk_vault]; simp only [pending_vault, time_vault, patch_vault, nextPatch_vault, copyA_vault, copyB_vault, update_vault, mem_vault, Vault.eta]; with_reducible refine vault_kept ?_)
    | with_reducible refine (State.updCore_kept ..).of ?_
    | with_reducible refine (State.drainRead_kept ..).of ?_

theorem drainStart_kept (c : Nat) (hold : Bool) (s : State) : Kept s (drainStart c hold s) := by
  unfold drainStart
  repeat' first
    | with_reducible rfl
    | with_reducible assumption
    | with_reducible refine ite_kept ?_ ?_
    | with_reducible refine ite_fst_kept ?_ ?_
    | dsimp only
    | (with_reducible refine kept_vault ?_; simp only [↓State.mk_vault]; simp only [pending_vault, time_vault, patch_vault, nextPatch_vault, copyA_vault, copyB_vault, update_vault, mem_vault, Vault.eta]; with_reducible refine vault_kept ?_)
    | with_reducible refine (State.bump_kept ..).of ?_
    | with_reducible refine (State.updCore_kept ..).of ?_
    | with_reducible refine (State.afterRun_kept ..).of ?_
    | split

theorem drainRerun_kept (c : Nat) (s : State) : Kept s (drainRerun c s) := by
  unfold drainRerun
  repeat' first
    | with_reducible rfl
    | with_reducible assumption
    | with_reducible refine ite_kept ?_ ?_
    | with_reducible refine ite_fst_kept ?_ ?_
    | dsimp only
    | (with_reducible refine kept_vault ?_; simp only [↓State.mk_vault]; simp only [pending_vault, time_vault, patch_vault, nextPatch_vault, copyA_vault, copyB_vault, update_vault, mem_vault, Vault.eta]; with_reducible refine vault_kept ?_)
    | with_reducible refine (State.afterRun_kept ..).of ?_
    | with_reducible refine (State.bump_kept ..).of ?_
    | split

theorem drainWritten_kept (c : Nat) (s : State) : Kept s (drainWritten c s) := by
  unfold drainWritten
  repeat' first
    | with_reducible rfl
    | with_reducible assumption
    | with_reducible refine ite_kept ?_ ?_
    | with_reducible refine ite_fst_kept ?_ ?_
    | dsimp only
    | (with_reducible refine kept_vault ?_; simp only [↓State.mk_vault]; simp only [pending_vault, time_vault, patch_vault, nextPatch_vault, copyA_vault, copyB_vault, update_vault, mem_vault, Vault.eta]; with_reducible refine vault_kept ?_)
    | with_reducible refine (State.writes_kept ..).of ?_
    | with_reducible refine (State.charge_kept ..).of ?_
    | with_reducible refine (State.taint_kept ..).of ?_
    | with_reducible refine (State.updCore_kept ..).of ?_
    | with_reducible refine (State.updLaunch_kept ..).of ?_
    | (with_reducible refine (foldl_kept ?_ _ _).of ?_ <;> try intro _ _)
    | split

theorem State.dropMatrix_kept (s : State) (c x : Nat) : Kept s (State.dropMatrix s c x) := by
  unfold State.dropMatrix
  repeat' first
    | with_reducible rfl
    | with_reducible assumption
    | with_reducible refine ite_kept ?_ ?_
    | with_reducible refine ite_fst_kept ?_ ?_
    | dsimp only
    | (with_reducible refine kept_vault ?_; simp only [↓State.mk_vault]; simp only [pending_vault, time_vault, patch_vault, nextPatch_vault, copyA_vault, copyB_vault, update_vault, mem_vault, Vault.eta]; with_reducible refine vault_kept ?_)
    | with_reducible refine (State.stopLupin_kept ..).of ?_
    | with_reducible refine (State.updCore_kept ..).of ?_
    | split

theorem mmulChunk_kept (c : Nat) (s : State) : Kept s (mmulChunk c s) := by
  unfold mmulChunk
  repeat' first
    | with_reducible rfl
    | with_reducible assumption
    | with_reducible refine ite_kept ?_ ?_
    | with_reducible refine ite_fst_kept ?_ ?_
    | dsimp only
    | (with_reducible refine kept_vault ?_; simp only [↓State.mk_vault]; simp only [pending_vault, time_vault, patch_vault, nextPatch_vault, copyA_vault, copyB_vault, update_vault, mem_vault, Vault.eta]; with_reducible refine vault_kept ?_)
    | with_reducible refine (State.bump_kept ..).of ?_
    | with_reducible refine (State.setTile_kept ..).of ?_
    | with_reducible refine (State.dropMatrix_kept ..).of ?_
    | with_reducible refine (State.lateFault_kept ..).of ?_
    | with_reducible refine (State.settleFrees_kept ..).of ?_
    | with_reducible refine (State.updCore_kept ..).of ?_
    | split

theorem State.enqueueMatrix_kept (s : State) (c : Nat) (f : Nat → MatrixRec) : Kept s (State.enqueueMatrix s c f) := by
  unfold State.enqueueMatrix
  repeat' first
    | with_reducible rfl
    | with_reducible assumption
    | with_reducible refine ite_kept ?_ ?_
    | with_reducible refine ite_fst_kept ?_ ?_
    | dsimp only
    | (with_reducible refine kept_vault ?_; simp only [↓State.mk_vault]; simp only [pending_vault, time_vault, patch_vault, nextPatch_vault, copyA_vault, copyB_vault, update_vault, mem_vault, Vault.eta]; with_reducible refine vault_kept ?_)
    | with_reducible refine (State.updCore_kept ..).of ?_
    | with_reducible refine (State.settleFrees_kept ..).of ?_

theorem matrixSlot_kept {c x : Nat} {pre : State} {hd : Nat} {h : SlotHdr} {o : MatrixOp} {f : MatrixF} {s : State} {t : State} (h : matrixSlot c x pre hd h o f s = .ok t) : Kept s t := by
  unfold matrixSlot at h
  try dsimp only at h
  repeat' split at h
  all_goals first
    | (cases h; done)
    | (simp at h; done)
    | (cases h
       repeat' first
         | with_reducible rfl
         | with_reducible assumption
         | with_reducible refine ite_kept ?_ ?_
         | with_reducible refine ite_fst_kept ?_ ?_
         | dsimp only
         | (with_reducible refine kept_vault ?_; simp only [↓State.mk_vault]; simp only [pending_vault, time_vault, patch_vault, nextPatch_vault, copyA_vault, copyB_vault, update_vault, mem_vault, Vault.eta]; with_reducible refine vault_kept ?_)
         | with_reducible refine (State.enqueueMatrix_kept ..).of ?_
       )

end Sys2Proof.Machine
end

