-- ==== Sys2Proof/Laws/KeptLupin.lean ====
section
/-!
SUPPORT. The operations of Machine/Lupin keep what Kept says.
-/

set_option Elab.async false

namespace Sys2Proof.Machine

theorem State.lupinFault_kept (s : State) (c x id : Nat) (pc : BitVec 48) (th : Thread) (f : CoreFault) : Kept s (State.lupinFault s c x id pc th f) := by
  unfold State.lupinFault
  repeat' first
    | with_reducible rfl
    | with_reducible assumption
    | with_reducible refine ite_kept ?_ ?_
    | with_reducible refine ite_fst_kept ?_ ?_
    | dsimp only
    | (with_reducible refine kept_vault ?_; simp only [↓State.mk_vault]; simp only [pending_vault, time_vault, patch_vault, nextPatch_vault, copyA_vault, copyB_vault, update_vault, mem_vault, Vault.eta]; with_reducible refine vault_kept ?_)
    | with_reducible refine (State.stopLupin_kept ..).of ?_
    | with_reducible refine (State.lateFault_kept ..).of ?_
    | with_reducible refine (State.settleFrees_kept ..).of ?_

theorem lrunStart_kept (c : Nat) (s : State) : Kept s (lrunStart c s) := by
  unfold lrunStart
  repeat' first
    | with_reducible rfl
    | with_reducible assumption
    | with_reducible refine ite_kept ?_ ?_
    | with_reducible refine ite_fst_kept ?_ ?_
    | dsimp only
    | (with_reducible refine kept_vault ?_; simp only [↓State.mk_vault]; simp only [pending_vault, time_vault, patch_vault, nextPatch_vault, copyA_vault, copyB_vault, update_vault, mem_vault, Vault.eta]; with_reducible refine vault_kept ?_)
    | with_reducible refine (State.bump_kept ..).of ?_
    | with_reducible refine (State.lupinFault_kept ..).of ?_
    | with_reducible refine (State.updCore_kept ..).of ?_
    | split

theorem State.stageLoad_kept (s : State) (c : Nat) (m : MoverRec) (addr v0 v1 buf : Nat) : Kept s (State.stageLoad s c m addr v0 v1 buf).1 := by
  unfold State.stageLoad
  repeat' first
    | with_reducible rfl
    | with_reducible assumption
    | with_reducible refine ite_kept ?_ ?_
    | with_reducible refine ite_fst_kept ?_ ?_
    | dsimp only
    | (with_reducible refine kept_vault ?_; simp only [↓State.mk_vault]; simp only [pending_vault, time_vault, patch_vault, nextPatch_vault, copyA_vault, copyB_vault, update_vault, mem_vault, Vault.eta]; with_reducible refine vault_kept ?_)
    | with_reducible refine (State.enqueueMover_kept ..).of ?_

theorem State.lupinStage_kept {s : State} {c : Nat} {l : Lrun} {d : Desc} {doff addr off kch v0 v1 buf : Nat} {prev : Option Staged} {b : Bool}
    {r : State × Option Staged} (h : s.lupinStage c l d doff addr off kch v0 v1 buf prev b = .ok r) : Kept s r.1 := by
  cases b with
  | false => cases h; rfl
  | true =>
    simp only [State.lupinStage] at h
    split at h
    · cases h
    · cases h; exact State.stageLoad_kept _ _ _ addr v0 v1 buf

theorem State.lupinMul_kept (s : State) (c : Nat) (l : Lrun) (t : Nest) (v : LupinVec) (tile : Nat) (stA stB : Option Staged) : Kept s (State.lupinMul s c l t v tile stA stB) := by
  unfold State.lupinMul
  repeat' first
    | with_reducible rfl
    | with_reducible assumption
    | with_reducible refine ite_kept ?_ ?_
    | with_reducible refine ite_fst_kept ?_ ?_
    | dsimp only
    | (with_reducible refine kept_vault ?_; simp only [↓State.mk_vault]; simp only [pending_vault, time_vault, patch_vault, nextPatch_vault, copyA_vault, copyB_vault, update_vault, mem_vault, Vault.eta]; with_reducible refine vault_kept ?_)
    | with_reducible refine (State.updCore_kept ..).of ?_
    | with_reducible refine (State.updCtx_kept ..).of ?_

theorem State.lupinDrain_kept {s : State} {c : Nat} {l : Lrun} {t : Nest} {v : LupinVec} {idx key : List Nat} {tile : Nat} {b : Bool}
    {r : State × Lrun} (h : s.lupinDrain c l t v idx key tile b = .ok r) : Kept s r.1 := by
  cases b with
  | false => cases h; rfl
  | true =>
    simp only [State.lupinDrain] at h
    split at h
    · cases h
    · cases h; exact State.updCore_kept ..

theorem State.lupinRun_kept {s r : State} {c : Nat} {l : Lrun} {t : Nest} {v : LupinVec} {l1 : Lrun} {k1 : Ctx} {tile : Nat}
    (h : s.lupinRun c l t v l1 k1 tile = .ok r) : Kept s r := by
  simp only [State.lupinRun] at h
  split at h
  · cases h
  · split at h
    · cases h
    · rename_i hA
      split at h
      · cases h
      · rename_i hB
        split at h
        · cases h
        · rename_i hD
          cases h
          exact (State.settleFrees_kept ..).of ((State.issueMmuls_kept ..).of ((State.updCore_kept ..).of
            ((State.lupinDrain_kept hD).of ((State.lupinMul_kept ..).of ((State.lupinStage_kept hB).of
              ((State.lupinStage_kept hA).of (State.setCtx_kept ..)))))))

theorem lupinIterate_kept (c : Nat) (s : State) : Kept s (lupinIterate c s) := by
  unfold lupinIterate
  dsimp only
  repeat' split
  all_goals first
    | rfl
    | exact State.lupinFault_kept ..
    | (rename_i h; exact State.lupinRun_kept h)

theorem lrunComplete_kept (c : Nat) (s : State) : Kept s (lrunComplete c s) := by
  unfold lrunComplete
  repeat' first
    | with_reducible rfl
    | with_reducible assumption
    | with_reducible refine ite_kept ?_ ?_
    | with_reducible refine ite_fst_kept ?_ ?_
    | dsimp only
    | (with_reducible refine kept_vault ?_; simp only [↓State.mk_vault]; simp only [pending_vault, time_vault, patch_vault, nextPatch_vault, copyA_vault, copyB_vault, update_vault, mem_vault, Vault.eta]; with_reducible refine vault_kept ?_)
    | with_reducible refine (State.updCore_kept ..).of ?_
    | with_reducible refine (State.lateFault_kept ..).of ?_
    | with_reducible refine (State.signalBy_kept ..).of ?_
    | split

end Sys2Proof.Machine
end

