-- ==== Sys2Proof/Laws/KeptSync.lean ====
section
/-!
SUPPORT. The operations of Machine/Sync keep what Kept says.
-/

set_option Elab.async false

namespace Sys2Proof.Machine

theorem State.setWait_kept (s : State) (c x : Nat) (w : Wait) : Kept s (State.setWait s c x w) := by
  unfold State.setWait
  repeat' first
    | with_reducible rfl
    | with_reducible assumption
    | with_reducible refine ite_kept ?_ ?_
    | with_reducible refine ite_fst_kept ?_ ?_
    | dsimp only
    | (with_reducible refine kept_vault ?_; simp only [↓State.mk_vault]; simp only [pending_vault, time_vault, patch_vault, nextPatch_vault, copyA_vault, copyB_vault, update_vault, mem_vault, Vault.eta]; with_reducible refine vault_kept ?_)
    | with_reducible refine (State.updCtx_kept ..).of ?_

theorem State.wake_kept (s : State) (c x : Nat) : Kept s (State.wake s c x) := by
  unfold State.wake
  repeat' first
    | with_reducible rfl
    | with_reducible assumption
    | with_reducible refine ite_kept ?_ ?_
    | with_reducible refine ite_fst_kept ?_ ?_
    | dsimp only
    | (with_reducible refine kept_vault ?_; simp only [↓State.mk_vault]; simp only [pending_vault, time_vault, patch_vault, nextPatch_vault, copyA_vault, copyB_vault, update_vault, mem_vault, Vault.eta]; with_reducible refine vault_kept ?_)
    | with_reducible refine (State.setWait_kept ..).of ?_

theorem State.setBar_kept (s : State) (p die i : Nat) (b : Bar) : Kept s (State.setBar s p die i b) := by
  unfold State.setBar
  repeat' first
    | with_reducible rfl
    | with_reducible assumption
    | with_reducible refine ite_kept ?_ ?_
    | with_reducible refine ite_fst_kept ?_ ?_
    | dsimp only
    | (with_reducible refine kept_vault ?_; simp only [↓State.mk_vault]; simp only [pending_vault, time_vault, patch_vault, nextPatch_vault, copyA_vault, copyB_vault, update_vault, mem_vault, Vault.eta]; with_reducible refine vault_kept ?_)

theorem State.takeClaim_kept (s : State) (c x launch die i n : Nat) : Kept s (State.takeClaim s c x launch die i n).2 := by
  unfold State.takeClaim
  repeat' first
    | with_reducible rfl
    | with_reducible assumption
    | with_reducible refine ite_kept ?_ ?_
    | with_reducible refine ite_fst_kept ?_ ?_
    | dsimp only
    | (with_reducible refine kept_vault ?_; simp only [↓State.mk_vault]; simp only [pending_vault, time_vault, patch_vault, nextPatch_vault, copyA_vault, copyB_vault, update_vault, mem_vault, Vault.eta]; with_reducible refine vault_kept ?_)
    | with_reducible refine (State.setClaim_kept ..).of ?_
    | split

theorem syncSlot_kept {c x : Nat} {pre : State} {h : SlotHdr} {o : SyncOp} {f : SyncF} {s : State} {t : State} (h : syncSlot c x pre h o f s = .ok t) : Kept s t := by
  unfold syncSlot at h
  try dsimp only at h
  repeat' split at h
  all_goals first
    | (cases h; done)
    | (simp at h; done)
    | (cases h
       repeat' first
         | with_reducible rfl
         | with_reducible assumption
         | with_reducible refine ite_kept ?_ ?_
         | with_reducible refine ite_fst_kept ?_ ?_
         | dsimp only
         | (with_reducible refine kept_vault ?_; simp only [↓State.mk_vault]; simp only [pending_vault, time_vault, patch_vault, nextPatch_vault, copyA_vault, copyB_vault, update_vault, mem_vault, Vault.eta]; with_reducible refine vault_kept ?_)
         | with_reducible refine (State.setWait_kept ..).of ?_
         | with_reducible refine (State.setSem_kept ..).of ?_
         | with_reducible refine (State.updCtx_kept ..).of ?_
         | with_reducible refine (State.takeClaim_kept ..).of ?_
         | with_reducible refine (State.setBar_kept ..).of ?_
       )

theorem fenceDone_kept (c x : Nat) (s : State) : Kept s (fenceDone c x s) := by
  unfold fenceDone
  repeat' first
    | with_reducible rfl
    | with_reducible assumption
    | with_reducible refine ite_kept ?_ ?_
    | with_reducible refine ite_fst_kept ?_ ?_
    | dsimp only
    | (with_reducible refine kept_vault ?_; simp only [↓State.mk_vault]; simp only [pending_vault, time_vault, patch_vault, nextPatch_vault, copyA_vault, copyB_vault, update_vault, mem_vault, Vault.eta]; with_reducible refine vault_kept ?_)
    | with_reducible refine (State.wake_kept ..).of ?_
    | split

theorem mwaitDone_kept (c x : Nat) (s : State) : Kept s (mwaitDone c x s) := by
  unfold mwaitDone
  repeat' first
    | with_reducible rfl
    | with_reducible assumption
    | with_reducible refine ite_kept ?_ ?_
    | with_reducible refine ite_fst_kept ?_ ?_
    | dsimp only
    | (with_reducible refine kept_vault ?_; simp only [↓State.mk_vault]; simp only [pending_vault, time_vault, patch_vault, nextPatch_vault, copyA_vault, copyB_vault, update_vault, mem_vault, Vault.eta]; with_reducible refine vault_kept ?_)
    | with_reducible refine (State.wake_kept ..).of ?_
    | split

theorem semWaitDone_kept (c x : Nat) (s : State) : Kept s (semWaitDone c x s) := by
  unfold semWaitDone
  repeat' first
    | with_reducible rfl
    | with_reducible assumption
    | with_reducible refine ite_kept ?_ ?_
    | with_reducible refine ite_fst_kept ?_ ?_
    | dsimp only
    | (with_reducible refine kept_vault ?_; simp only [↓State.mk_vault]; simp only [pending_vault, time_vault, patch_vault, nextPatch_vault, copyA_vault, copyB_vault, update_vault, mem_vault, Vault.eta]; with_reducible refine vault_kept ?_)
    | with_reducible refine (State.wake_kept ..).of ?_
    | split

theorem semTakeDone_kept (die i : Nat) (s : State) : Kept s (semTakeDone die i s) := by
  unfold semTakeDone
  repeat' first
    | with_reducible rfl
    | with_reducible assumption
    | with_reducible refine ite_kept ?_ ?_
    | with_reducible refine ite_fst_kept ?_ ?_
    | dsimp only
    | (with_reducible refine kept_vault ?_; simp only [↓State.mk_vault]; simp only [pending_vault, time_vault, patch_vault, nextPatch_vault, copyA_vault, copyB_vault, update_vault, mem_vault, Vault.eta]; with_reducible refine vault_kept ?_)
    | with_reducible refine (State.setSem_kept ..).of ?_
    | with_reducible refine (State.updCtx_kept ..).of ?_
    | split

theorem sigApply_kept (k : Nat) (s : State) : Kept s (sigApply k s) := by
  unfold sigApply
  repeat' first
    | with_reducible rfl
    | with_reducible assumption
    | with_reducible refine ite_kept ?_ ?_
    | with_reducible refine ite_fst_kept ?_ ?_
    | dsimp only
    | (with_reducible refine kept_vault ?_; simp only [↓State.mk_vault]; simp only [pending_vault, time_vault, patch_vault, nextPatch_vault, copyA_vault, copyB_vault, update_vault, mem_vault, Vault.eta]; with_reducible refine vault_kept ?_)
    | with_reducible refine (State.semAdd_kept (by with_reducible assumption)).of ?_
    | with_reducible refine (State.setSem_kept ..).of ?_
    | with_reducible refine (State.lateFault_kept ..).of ?_
    | split

theorem State.wakeAtBar_kept (s : State) (p die i c x : Nat) : Kept s (State.wakeAtBar s p die i c x) := by
  unfold State.wakeAtBar
  repeat' first
    | with_reducible rfl
    | with_reducible assumption
    | with_reducible refine ite_kept ?_ ?_
    | with_reducible refine ite_fst_kept ?_ ?_
    | dsimp only
    | (with_reducible refine kept_vault ?_; simp only [↓State.mk_vault]; simp only [pending_vault, time_vault, patch_vault, nextPatch_vault, copyA_vault, copyB_vault, update_vault, mem_vault, Vault.eta]; with_reducible refine vault_kept ?_)
    | with_reducible refine (State.wake_kept ..).of ?_
    | with_reducible refine (State.updCore_kept ..).of ?_
    | split

theorem State.openBar_kept (s : State) (p die i : Nat) : Kept s (State.openBar s p die i) := by
  unfold State.openBar
  repeat' first
    | with_reducible rfl
    | with_reducible assumption
    | with_reducible refine ite_kept ?_ ?_
    | with_reducible refine ite_fst_kept ?_ ?_
    | dsimp only
    | (with_reducible refine kept_vault ?_; simp only [↓State.mk_vault]; simp only [pending_vault, time_vault, patch_vault, nextPatch_vault, copyA_vault, copyB_vault, update_vault, mem_vault, Vault.eta]; with_reducible refine vault_kept ?_)
    | with_reducible refine (State.wakeAtBar_kept ..).of ?_
    | with_reducible refine (State.setBar_kept ..).of ?_
    | (with_reducible refine (foldl_kept ?_ _ _).of ?_ <;> try intro _ _)
    | split

theorem barrierOpens_kept (p i : Nat) (remote : Bool) (multi : Nat → Bool) (s : State) : Kept s (barrierOpens p i remote multi s) := by
  unfold barrierOpens
  repeat' first
    | with_reducible rfl
    | with_reducible assumption
    | with_reducible refine ite_kept ?_ ?_
    | with_reducible refine ite_fst_kept ?_ ?_
    | dsimp only
    | (with_reducible refine kept_vault ?_; simp only [↓State.mk_vault]; simp only [pending_vault, time_vault, patch_vault, nextPatch_vault, copyA_vault, copyB_vault, update_vault, mem_vault, Vault.eta]; with_reducible refine vault_kept ?_)
    | with_reducible refine (State.openBar_kept ..).of ?_
    | (with_reducible refine (foldl_kept ?_ _ _).of ?_ <;> try intro _ _)

end Sys2Proof.Machine
end

