-- ==== Sys2Proof/Laws/KeptIssue.lean ====
section
/-!
SUPPORT. The operations of Machine/Issue keep what Kept says.
-/

set_option Elab.async false

namespace Sys2Proof.Machine

theorem slotEffect_kept {c x : Nat} {pre : State} {hd : Nat} {h : SlotHdr} {op : SlotOp} {s : State} {t : State} (h : slotEffect c x pre hd h op s = .ok t) : Kept s t := by
  unfold slotEffect at h
  try dsimp only at h
  repeat' split at h
  all_goals first
    | exact scalarSlot_kept h
    | exact moverSlot_kept h
    | exact matrixSlot_kept h
    | exact vectorSlot_kept h
    | exact specialSlot_kept h
    | exact syncSlot_kept h
    | (cases h; done)
    | (simp at h; done)
    | (cases h
       repeat' first
         | with_reducible rfl
       )

theorem runSlots_kept {c x : Nat} {pre : State} {hd : Nat} {ops : List (SlotHdr × SlotOp)} {s t : State}
    (h : runSlots c x pre hd ops s = .ok t) : Kept s t := by
  induction ops generalizing s with
  | nil => cases h; rfl
  | cons o ops ih =>
    obtain ⟨a, op⟩ := o
    simp only [runSlots] at h
    split at h
    · cases h
    · exact (ih h).of (slotEffect_kept (by with_reducible assumption))

theorem State.noteLate_kept (s : State) (c : Nat) : Kept s (State.noteLate s c) := by
  unfold State.noteLate
  repeat' first
    | with_reducible rfl
    | with_reducible assumption
    | with_reducible refine ite_kept ?_ ?_
    | with_reducible refine ite_fst_kept ?_ ?_
    | dsimp only
    | (with_reducible refine kept_vault ?_; simp only [↓State.mk_vault]; simp only [pending_vault, time_vault, patch_vault, nextPatch_vault, copyA_vault, copyB_vault, update_vault, mem_vault, Vault.eta]; with_reducible refine vault_kept ?_)
    | with_reducible refine (State.updPart_kept ..).of ?_
    | with_reducible refine (State.updCore_kept ..).of ?_
    | split

theorem State.noteIssue_kept (s : State) (c x hint : Nat) : Kept s (State.noteIssue s c x hint) := by
  unfold State.noteIssue
  repeat' first
    | with_reducible rfl
    | with_reducible assumption
    | with_reducible refine ite_kept ?_ ?_
    | with_reducible refine ite_fst_kept ?_ ?_
    | dsimp only
    | (with_reducible refine kept_vault ?_; simp only [↓State.mk_vault]; simp only [pending_vault, time_vault, patch_vault, nextPatch_vault, copyA_vault, copyB_vault, update_vault, mem_vault, Vault.eta]; with_reducible refine vault_kept ?_)
    | with_reducible refine (State.noteLate_kept ..).of ?_
    | with_reducible refine (State.updCore_kept ..).of ?_
    | with_reducible refine (State.bump_kept ..).of ?_

theorem State.preciseFault_kept (s : State) (c x : Nat) (f : CoreFault) : Kept s (State.preciseFault s c x f) := by
  unfold State.preciseFault
  repeat' first
    | with_reducible rfl
    | with_reducible assumption
    | with_reducible refine ite_kept ?_ ?_
    | with_reducible refine ite_fst_kept ?_ ?_
    | dsimp only
    | (with_reducible refine kept_vault ?_; simp only [↓State.mk_vault]; simp only [pending_vault, time_vault, patch_vault, nextPatch_vault, copyA_vault, copyB_vault, update_vault, mem_vault, Vault.eta]; with_reducible refine vault_kept ?_)
    | with_reducible refine (State.recordFault_kept ..).of ?_
    | with_reducible refine (State.endThread_kept ..).of ?_
    | split

theorem State.issue_kept (s : State) (c x : Nat) (b : Bundle) : Kept s (State.issue s c x b) := by
  unfold State.issue
  repeat' first
    | with_reducible rfl
    | with_reducible assumption
    | with_reducible refine ite_kept ?_ ?_
    | with_reducible refine ite_fst_kept ?_ ?_
    | dsimp only
    | (with_reducible refine kept_vault ?_; simp only [↓State.mk_vault]; simp only [pending_vault, time_vault, patch_vault, nextPatch_vault, copyA_vault, copyB_vault, update_vault, mem_vault, Vault.eta]; with_reducible refine vault_kept ?_)
    | with_reducible refine (State.noteIssue_kept ..).of ?_
    | with_reducible refine (State.preciseFault_kept ..).of ?_
    | with_reducible refine (runSlots_kept (by with_reducible assumption)).of ?_
    | with_reducible refine (State.updCtx_kept ..).of ?_
    | with_reducible refine (State.endThread_kept ..).of ?_
    | split

theorem oneSlot_kept (c x : Nat) (h : SlotHdr) (op : SlotOp) (s : State) : Kept s (oneSlot c x h op s) := by
  unfold oneSlot
  repeat' first
    | with_reducible rfl
    | with_reducible assumption
    | with_reducible refine ite_kept ?_ ?_
    | with_reducible refine ite_fst_kept ?_ ?_
    | dsimp only
    | (with_reducible refine kept_vault ?_; simp only [↓State.mk_vault]; simp only [pending_vault, time_vault, patch_vault, nextPatch_vault, copyA_vault, copyB_vault, update_vault, mem_vault, Vault.eta]; with_reducible refine vault_kept ?_)
    | with_reducible refine (State.issue_kept ..).of ?_

theorem State.fillLine_kept (s : State) (c l : Nat) : Kept s (State.fillLine s c l) := by
  unfold State.fillLine
  repeat' first
    | with_reducible rfl
    | with_reducible assumption
    | with_reducible refine ite_kept ?_ ?_
    | with_reducible refine ite_fst_kept ?_ ?_
    | dsimp only
    | (with_reducible refine kept_vault ?_; simp only [↓State.mk_vault]; simp only [pending_vault, time_vault, patch_vault, nextPatch_vault, copyA_vault, copyB_vault, update_vault, mem_vault, Vault.eta]; with_reducible refine vault_kept ?_)
    | with_reducible refine (State.updCore_kept ..).of ?_

theorem lineFill_kept (c x : Nat) (s : State) : Kept s (lineFill c x s) := by
  unfold lineFill
  repeat' first
    | with_reducible rfl
    | with_reducible assumption
    | with_reducible refine ite_kept ?_ ?_
    | with_reducible refine ite_fst_kept ?_ ?_
    | dsimp only
    | (with_reducible refine kept_vault ?_; simp only [↓State.mk_vault]; simp only [pending_vault, time_vault, patch_vault, nextPatch_vault, copyA_vault, copyB_vault, update_vault, mem_vault, Vault.eta]; with_reducible refine vault_kept ?_)
    | with_reducible refine (State.chargeLines_kept ..).of ?_
    | with_reducible refine (State.fillLine_kept ..).of ?_
    | with_reducible refine (State.wake_kept ..).of ?_
    | split

theorem issueFirst_kept (c : Nat) (xs : List Nat) (s : State) : Kept s (issueFirst c xs s) := by
  induction xs generalizing s with
  | nil => rfl
  | cons x xs ih =>
    simp only [issueFirst]
    split
    · exact ih s
    · exact (ih _).of (State.setWait_kept ..)
    · exact (State.preciseFault_kept ..).of (State.noteIssue_kept ..)
    · exact (State.issue_kept ..).of (State.updCore_kept ..)

theorem bundleIssue_kept (c : Nat) (s : State) : Kept s (bundleIssue c s) := by
  unfold bundleIssue
  repeat' first
    | with_reducible rfl
    | with_reducible assumption
    | with_reducible refine ite_kept ?_ ?_
    | with_reducible refine ite_fst_kept ?_ ?_
    | dsimp only
    | (with_reducible refine kept_vault ?_; simp only [↓State.mk_vault]; simp only [pending_vault, time_vault, patch_vault, nextPatch_vault, copyA_vault, copyB_vault, update_vault, mem_vault, Vault.eta]; with_reducible refine vault_kept ?_)
    | with_reducible refine (issueFirst_kept ..).of ?_

theorem State.beginThread_kept (s : State) (c x key i : Nat) : Kept s (State.beginThread s c x key i) := by
  unfold State.beginThread
  repeat' first
    | with_reducible rfl
    | with_reducible assumption
    | with_reducible refine ite_kept ?_ ?_
    | with_reducible refine ite_fst_kept ?_ ?_
    | dsimp only
    | (with_reducible refine kept_vault ?_; simp only [↓State.mk_vault]; simp only [pending_vault, time_vault, patch_vault, nextPatch_vault, copyA_vault, copyB_vault, update_vault, mem_vault, Vault.eta]; with_reducible refine vault_kept ?_)
    | with_reducible refine (State.updCtx_kept ..).of ?_
    | with_reducible refine (State.updLaunch_kept ..).of ?_
    | with_reducible refine (State.updCore_kept ..).of ?_
    | with_reducible refine (State.settleFrees_kept ..).of ?_
    | split

theorem State.exhaust_kept (s : State) (c x key : Nat) : Kept s (State.exhaust s c x key) := by
  unfold State.exhaust
  repeat' first
    | with_reducible rfl
    | with_reducible assumption
    | with_reducible refine ite_kept ?_ ?_
    | with_reducible refine ite_fst_kept ?_ ?_
    | dsimp only
    | (with_reducible refine kept_vault ?_; simp only [↓State.mk_vault]; simp only [pending_vault, time_vault, patch_vault, nextPatch_vault, copyA_vault, copyB_vault, update_vault, mem_vault, Vault.eta]; with_reducible refine vault_kept ?_)
    | with_reducible refine (State.updLaunch_kept ..).of ?_

theorem threadStart_kept (c x key : Nat) (s : State) : Kept s (threadStart c x key s) := by
  unfold threadStart
  repeat' first
    | with_reducible rfl
    | with_reducible assumption
    | with_reducible refine ite_kept ?_ ?_
    | with_reducible refine ite_fst_kept ?_ ?_
    | dsimp only
    | (with_reducible refine kept_vault ?_; simp only [↓State.mk_vault]; simp only [pending_vault, time_vault, patch_vault, nextPatch_vault, copyA_vault, copyB_vault, update_vault, mem_vault, Vault.eta]; with_reducible refine vault_kept ?_)
    | with_reducible refine (State.updCtx_kept ..).of ?_
    | with_reducible refine (State.beginThread_kept ..).of ?_
    | with_reducible refine (State.takeClaim_kept ..).of ?_
    | with_reducible refine (State.exhaust_kept ..).of ?_
    | with_reducible refine (State.updLaunch_kept ..).of ?_
    | split

theorem checkDone_kept (c no : Nat) (s : State) : Kept s (checkDone c no s) := by
  unfold checkDone
  repeat' first
    | with_reducible rfl
    | with_reducible assumption
    | with_reducible refine ite_kept ?_ ?_
    | with_reducible refine ite_fst_kept ?_ ?_
    | dsimp only
    | (with_reducible refine kept_vault ?_; simp only [↓State.mk_vault]; simp only [pending_vault, time_vault, patch_vault, nextPatch_vault, copyA_vault, copyB_vault, update_vault, mem_vault, Vault.eta]; with_reducible refine vault_kept ?_)
    | with_reducible refine (State.updCore_kept ..).of ?_
    | with_reducible refine (State.issueMmuls_kept ..).of ?_
    | with_reducible refine (State.lateFault_kept ..).of ?_
    | split

theorem tableSwitch_kept (c no : Nat) (s : State) : Kept s (tableSwitch c no s) := by
  unfold tableSwitch
  repeat' first
    | with_reducible rfl
    | with_reducible assumption
    | with_reducible refine ite_kept ?_ ?_
    | with_reducible refine ite_fst_kept ?_ ?_
    | dsimp only
    | (with_reducible refine kept_vault ?_; simp only [↓State.mk_vault]; simp only [pending_vault, time_vault, patch_vault, nextPatch_vault, copyA_vault, copyB_vault, update_vault, mem_vault, Vault.eta]; with_reducible refine vault_kept ?_)
    | with_reducible refine (State.updCore_kept ..).of ?_
    | with_reducible refine (State.issueMmuls_kept ..).of ?_
    | split

end Sys2Proof.Machine
end

