-- ==== Sys2Proof/Laws/KeptCp.lean ====
section
/-!
SUPPORT. The operations of Machine/Cp keep what Kept says.
-/

set_option Elab.async false

namespace Sys2Proof.Machine

theorem State.setFunc_kept (s : State) (p : Nat) (f : Func) : Kept s (State.setFunc s p f) := by
  unfold State.setFunc
  repeat' first
    | with_reducible rfl
    | with_reducible assumption
    | with_reducible refine ite_kept ?_ ?_
    | with_reducible refine ite_fst_kept ?_ ?_
    | dsimp only
    | (with_reducible refine kept_vault ?_; simp only [↓State.mk_vault]; simp only [pending_vault, time_vault, patch_vault, nextPatch_vault, copyA_vault, copyB_vault, update_vault, mem_vault, Vault.eta]; with_reducible refine vault_kept ?_)

theorem State.hostWrite_kept (s : State) (p a : Nat) (bs : List Byte) : Kept s (State.hostWrite s p a bs) := by
  unfold State.hostWrite
  repeat' first
    | with_reducible rfl
    | with_reducible assumption
    | with_reducible refine ite_kept ?_ ?_
    | with_reducible refine ite_fst_kept ?_ ?_
    | dsimp only
    | (with_reducible refine kept_vault ?_; simp only [↓State.mk_vault]; simp only [pending_vault, time_vault, patch_vault, nextPatch_vault, copyA_vault, copyB_vault, update_vault, mem_vault, Vault.eta]; with_reducible refine vault_kept ?_)

theorem State.awWrite_kept (s : State) (p : Nat) (w : W64) (bs : List Byte) : Kept s (State.awWrite s p w bs) := by
  unfold State.awWrite
  repeat' first
    | with_reducible rfl
    | with_reducible assumption
    | with_reducible refine ite_kept ?_ ?_
    | with_reducible refine ite_fst_kept ?_ ?_
    | dsimp only
    | (with_reducible refine kept_vault ?_; simp only [↓State.mk_vault]; simp only [pending_vault, time_vault, patch_vault, nextPatch_vault, copyA_vault, copyB_vault, update_vault, mem_vault, Vault.eta]; with_reducible refine vault_kept ?_)
    | with_reducible refine (State.hostWrite_kept ..).of ?_
    | with_reducible refine (State.write_kept ..).of ?_

theorem State.interrupt_kept (s : State) (p v : Nat) : Kept s (State.interrupt s p v) := by
  unfold State.interrupt
  repeat' first
    | with_reducible rfl
    | with_reducible assumption
    | with_reducible refine ite_kept ?_ ?_
    | with_reducible refine ite_fst_kept ?_ ?_
    | dsimp only
    | (with_reducible refine kept_vault ?_; simp only [↓State.mk_vault]; simp only [pending_vault, time_vault, patch_vault, nextPatch_vault, copyA_vault, copyB_vault, update_vault, mem_vault, Vault.eta]; with_reducible refine vault_kept ?_)
    | with_reducible refine (State.setFunc_kept ..).of ?_

theorem State.setMbx_kept (s : State) (m : Nat) (b : Mbx) : Kept s (State.setMbx s m b) := by
  unfold State.setMbx
  repeat' first
    | with_reducible rfl
    | with_reducible assumption
    | with_reducible refine ite_kept ?_ ?_
    | with_reducible refine ite_fst_kept ?_ ?_
    | dsimp only
    | (with_reducible refine kept_vault ?_; simp only [↓State.mk_vault]; simp only [pending_vault, time_vault, patch_vault, nextPatch_vault, copyA_vault, copyB_vault, update_vault, mem_vault, Vault.eta]; with_reducible refine vault_kept ?_)

theorem State.updMbx_kept (s : State) (m : Nat) (f : Mbx → Mbx) : Kept s (State.updMbx s m f) := by
  unfold State.updMbx
  repeat' first
    | with_reducible rfl
    | with_reducible assumption
    | with_reducible refine ite_kept ?_ ?_
    | with_reducible refine ite_fst_kept ?_ ?_
    | dsimp only
    | (with_reducible refine kept_vault ?_; simp only [↓State.mk_vault]; simp only [pending_vault, time_vault, patch_vault, nextPatch_vault, copyA_vault, copyB_vault, update_vault, mem_vault, Vault.eta]; with_reducible refine vault_kept ?_)
    | with_reducible refine (State.setMbx_kept ..).of ?_

theorem State.event_kept (s : State) (m n data : Nat) : Kept s (State.event s m n data) := by
  unfold State.event
  repeat' first
    | with_reducible rfl
    | with_reducible assumption
    | with_reducible refine ite_kept ?_ ?_
    | with_reducible refine ite_fst_kept ?_ ?_
    | dsimp only
    | (with_reducible refine kept_vault ?_; simp only [↓State.mk_vault]; simp only [pending_vault, time_vault, patch_vault, nextPatch_vault, copyA_vault, copyB_vault, update_vault, mem_vault, Vault.eta]; with_reducible refine vault_kept ?_)
    | with_reducible refine (State.setMbx_kept ..).of ?_

theorem State.eventAll_kept (s : State) (n data : Nat) : Kept s (State.eventAll s n data) := by
  unfold State.eventAll
  repeat' first
    | with_reducible rfl
    | with_reducible assumption
    | with_reducible refine ite_kept ?_ ?_
    | with_reducible refine ite_fst_kept ?_ ?_
    | dsimp only
    | (with_reducible refine kept_vault ?_; simp only [↓State.mk_vault]; simp only [pending_vault, time_vault, patch_vault, nextPatch_vault, copyA_vault, copyB_vault, update_vault, mem_vault, Vault.eta]; with_reducible refine vault_kept ?_)
    | with_reducible refine (State.event_kept ..).of ?_
    | (with_reducible refine (foldl_kept ?_ _ _).of ?_ <;> try intro _ _)

theorem State.semLost_kept (s : State) (p die i : Nat) : Kept s (State.semLost s p die i) := by
  unfold State.semLost
  repeat' first
    | with_reducible rfl
    | with_reducible assumption
    | with_reducible refine ite_kept ?_ ?_
    | with_reducible refine ite_fst_kept ?_ ?_
    | dsimp only
    | (with_reducible refine kept_vault ?_; simp only [↓State.mk_vault]; simp only [pending_vault, time_vault, patch_vault, nextPatch_vault, copyA_vault, copyB_vault, update_vault, mem_vault, Vault.eta]; with_reducible refine vault_kept ?_)
    | with_reducible refine (State.updPart_kept ..).of ?_
    | with_reducible refine (State.event_kept ..).of ?_

theorem State.signalOr_kept (s : State) (p die i n : Nat) : Kept s (State.signalOr s p die i n) := by
  unfold State.signalOr
  repeat' first
    | with_reducible rfl
    | with_reducible assumption
    | with_reducible refine ite_kept ?_ ?_
    | with_reducible refine ite_fst_kept ?_ ?_
    | dsimp only
    | (with_reducible refine kept_vault ?_; simp only [↓State.mk_vault]; simp only [pending_vault, time_vault, patch_vault, nextPatch_vault, copyA_vault, copyB_vault, update_vault, mem_vault, Vault.eta]; with_reducible refine vault_kept ?_)
    | with_reducible refine (State.semAdd_kept (by with_reducible assumption)).of ?_
    | with_reducible refine (State.semLost_kept ..).of ?_
    | split

theorem State.failModule_kept (s : State) : Kept s (State.failModule s) := by
  unfold State.failModule
  repeat' first
    | with_reducible rfl
    | with_reducible assumption
    | with_reducible refine ite_kept ?_ ?_
    | with_reducible refine ite_fst_kept ?_ ?_
    | dsimp only
    | (with_reducible refine kept_vault ?_; simp only [↓State.mk_vault]; simp only [pending_vault, time_vault, patch_vault, nextPatch_vault, copyA_vault, copyB_vault, update_vault, mem_vault, Vault.eta]; with_reducible refine vault_kept ?_)

theorem State.addRisk_kept (s : State) (n : Nat) : Kept s (State.addRisk s n) := by
  unfold State.addRisk
  repeat' first
    | with_reducible rfl
    | with_reducible assumption
    | with_reducible refine ite_kept ?_ ?_
    | with_reducible refine ite_fst_kept ?_ ?_
    | dsimp only
    | (with_reducible refine kept_vault ?_; simp only [↓State.mk_vault]; simp only [pending_vault, time_vault, patch_vault, nextPatch_vault, copyA_vault, copyB_vault, update_vault, mem_vault, Vault.eta]; with_reducible refine vault_kept ?_)

theorem State.tell_kept (s : State) (m : Sent) : Kept s (State.tell s m) := by
  unfold State.tell
  repeat' first
    | with_reducible rfl
    | with_reducible assumption
    | with_reducible refine ite_kept ?_ ?_
    | with_reducible refine ite_fst_kept ?_ ?_
    | dsimp only
    | (with_reducible refine kept_vault ?_; simp only [↓State.mk_vault]; simp only [pending_vault, time_vault, patch_vault, nextPatch_vault, copyA_vault, copyB_vault, update_vault, mem_vault, Vault.eta]; with_reducible refine vault_kept ?_)

theorem State.due_kept (s : State) (m : Nat) (e : CmpEntry) : Kept s (State.due s m e) := by
  unfold State.due
  repeat' first
    | with_reducible rfl
    | with_reducible assumption
    | with_reducible refine ite_kept ?_ ?_
    | with_reducible refine ite_fst_kept ?_ ?_
    | dsimp only
    | (with_reducible refine kept_vault ?_; simp only [↓State.mk_vault]; simp only [pending_vault, time_vault, patch_vault, nextPatch_vault, copyA_vault, copyB_vault, update_vault, mem_vault, Vault.eta]; with_reducible refine vault_kept ?_)
    | with_reducible refine (State.updMbx_kept ..).of ?_

theorem State.complete_kept (s : State) (c : Cmd) (status : Nat) (deferred : Bool) (r0 r1 : Nat) : Kept s (State.complete s c status deferred r0 r1) := by
  unfold State.complete
  repeat' first
    | with_reducible rfl
    | with_reducible assumption
    | with_reducible refine ite_kept ?_ ?_
    | with_reducible refine ite_fst_kept ?_ ?_
    | dsimp only
    | (with_reducible refine kept_vault ?_; simp only [↓State.mk_vault]; simp only [pending_vault, time_vault, patch_vault, nextPatch_vault, copyA_vault, copyB_vault, update_vault, mem_vault, Vault.eta]; with_reducible refine vault_kept ?_)
    | with_reducible refine (State.due_kept ..).of ?_
    | (with_reducible refine (foldl_kept ?_ _ _).of ?_ <;> try intro _ _)

theorem State.commit_kept (s : State) (c : Cmd) (r0 r1 : Nat) : Kept s (State.commit s c r0 r1) := by
  unfold State.commit
  repeat' first
    | with_reducible rfl
    | with_reducible assumption
    | with_reducible refine ite_kept ?_ ?_
    | with_reducible refine ite_fst_kept ?_ ?_
    | dsimp only
    | (with_reducible refine kept_vault ?_; simp only [↓State.mk_vault]; simp only [pending_vault, time_vault, patch_vault, nextPatch_vault, copyA_vault, copyB_vault, update_vault, mem_vault, Vault.eta]; with_reducible refine vault_kept ?_)

theorem State.updCmd_kept (s : State) (c : Cmd) (f : Cmd → Cmd) : Kept s (State.updCmd s c f) := by
  unfold State.updCmd
  repeat' first
    | with_reducible rfl
    | with_reducible assumption
    | with_reducible refine ite_kept ?_ ?_
    | with_reducible refine ite_fst_kept ?_ ?_
    | dsimp only
    | (with_reducible refine kept_vault ?_; simp only [↓State.mk_vault]; simp only [pending_vault, time_vault, patch_vault, nextPatch_vault, copyA_vault, copyB_vault, update_vault, mem_vault, Vault.eta]; with_reducible refine vault_kept ?_)

theorem State.startCmd_kept (s : State) (handler : Handler) (c : Cmd) (h : ∀ c s, Kept s (handler c s).1) : Kept s (State.startCmd s handler c) := by
  simp only [State.startCmd]
  refine ite_kept (State.complete_kept ..) (ite_kept (State.complete_kept ..) (ite_kept (.refl _) ?_))
  split
  · exact (State.complete_kept ..).of ((h _ _).of (State.updCmd_kept ..))
  · exact (State.updCmd_kept ..).of ((h _ _).of (State.updCmd_kept ..))
  · exact (h _ _).of (State.updCmd_kept ..)

theorem State.abortCmd_kept (s : State) (undo : Undo) (ab : Cmd) (tag : Nat) (hundo : ∀ c s, Kept s (undo c s)) : Kept s (State.abortCmd s undo ab tag) := by
  unfold State.abortCmd
  repeat' first
    | with_reducible rfl
    | with_reducible assumption
    | with_reducible refine ite_kept ?_ ?_
    | with_reducible refine ite_fst_kept ?_ ?_
    | dsimp only
    | (with_reducible refine kept_vault ?_; simp only [↓State.mk_vault]; simp only [pending_vault, time_vault, patch_vault, nextPatch_vault, copyA_vault, copyB_vault, update_vault, mem_vault, Vault.eta]; with_reducible refine vault_kept ?_)
    | with_reducible refine (State.complete_kept ..).of ?_
    | with_reducible refine (State.updCmd_kept ..).of ?_
    | with_reducible refine (State.due_kept ..).of ?_
    | with_reducible refine (hundo ..).of ?_
    | split

theorem postAll_kept (m : Nat) (es : List CmpEntry) (s : State) : Kept s (postAll m es s).1 := by
  induction es generalizing s with
  | nil => rfl
  | cons e es ih =>
    simp only [postAll]
    split
    · rfl
    · exact (ih _).of ((State.updMbx_kept ..).of (State.awWrite_kept ..))

theorem State.settleDisable_kept (s : State) (m : Nat) : Kept s (State.settleDisable s m) := by
  unfold State.settleDisable
  repeat' first
    | with_reducible rfl
    | with_reducible assumption
    | with_reducible refine ite_kept ?_ ?_
    | with_reducible refine ite_fst_kept ?_ ?_
    | dsimp only
    | (with_reducible refine kept_vault ?_; simp only [↓State.mk_vault]; simp only [pending_vault, time_vault, patch_vault, nextPatch_vault, copyA_vault, copyB_vault, update_vault, mem_vault, Vault.eta]; with_reducible refine vault_kept ?_)
    | with_reducible refine (State.setMbx_kept ..).of ?_

theorem State.post_kept (s : State) (m : Nat) : Kept s (State.post s m) := by
  simp only [State.post]
  refine ite_kept (.refl _) ((State.settleDisable_kept ..).of ?_)
  exact ite_kept ((State.interrupt_kept ..).of (postAll_kept ..)) (postAll_kept ..)

end Sys2Proof.Machine
end

