-- ==== Sys2Proof/Laws/KeptRegions.lean ====
section
/-!
SUPPORT. The operations of Machine/Regions keep what Kept says.
-/

set_option Elab.async false

namespace Sys2Proof.Machine

theorem State.zero_kept (s : State) (a n : Nat) : Kept s (State.zero s a n) :=
  kept_mem rfl rfl rfl rfl rfl (fun h => State.zero_wf h a n)

theorem State.allocGranules_kept (s : State) (p lo hi : Nat) (save : Bool) : Kept s (State.allocGranules s p lo hi save) := by
  unfold State.allocGranules
  repeat' first
    | with_reducible rfl
    | with_reducible assumption
    | with_reducible refine ite_kept ?_ ?_
    | with_reducible refine ite_fst_kept ?_ ?_
    | dsimp only
    | (with_reducible refine kept_vault ?_; simp only [↓State.mk_vault]; simp only [pending_vault, time_vault, patch_vault, nextPatch_vault, copyA_vault, copyB_vault, update_vault, mem_vault, Vault.eta]; with_reducible refine vault_kept ?_)
    | with_reducible refine (State.zero_kept ..).of ?_
    | (with_reducible refine (foldl_kept ?_ _ _).of ?_ <;> try intro _ _)

theorem State.settleOwned_kept (s : State) : Kept s (State.settleOwned s) := by
  unfold State.settleOwned
  repeat' first
    | with_reducible rfl
    | with_reducible assumption
    | with_reducible refine ite_kept ?_ ?_
    | with_reducible refine ite_fst_kept ?_ ?_
    | dsimp only
    | (with_reducible refine kept_vault ?_; simp only [↓State.mk_vault]; simp only [pending_vault, time_vault, patch_vault, nextPatch_vault, copyA_vault, copyB_vault, update_vault, mem_vault, Vault.eta]; with_reducible refine vault_kept ?_)

theorem State.setHsel_kept (s : State) (lo hi : Nat) (h : BitVec 3) : Kept s (State.setHsel s lo hi h) := by
  unfold State.setHsel
  repeat' first
    | with_reducible rfl
    | with_reducible assumption
    | with_reducible refine ite_kept ?_ ?_
    | with_reducible refine ite_fst_kept ?_ ?_
    | dsimp only
    | (with_reducible refine kept_vault ?_; simp only [↓State.mk_vault]; simp only [pending_vault, time_vault, patch_vault, nextPatch_vault, copyA_vault, copyB_vault, update_vault, mem_vault, Vault.eta]; with_reducible refine vault_kept ?_)

theorem State.addRegion_kept (s : State) (p i : Nat) (r : Region) : Kept s (State.addRegion s p i r) := by
  unfold State.addRegion
  repeat' first
    | with_reducible rfl
    | with_reducible assumption
    | with_reducible refine ite_kept ?_ ?_
    | with_reducible refine ite_fst_kept ?_ ?_
    | dsimp only
    | (with_reducible refine kept_vault ?_; simp only [↓State.mk_vault]; simp only [pending_vault, time_vault, patch_vault, nextPatch_vault, copyA_vault, copyB_vault, update_vault, mem_vault, Vault.eta]; with_reducible refine vault_kept ?_)
    | with_reducible refine (State.allocGranules_kept ..).of ?_
    | with_reducible refine (State.setHsel_kept ..).of ?_

theorem State.dropRegion_kept (s : State) (p i : Nat) : Kept s (State.dropRegion s p i) := by
  unfold State.dropRegion
  repeat' first
    | with_reducible rfl
    | with_reducible assumption
    | with_reducible refine ite_kept ?_ ?_
    | with_reducible refine ite_fst_kept ?_ ?_
    | dsimp only
    | (with_reducible refine kept_vault ?_; simp only [↓State.mk_vault]; simp only [pending_vault, time_vault, patch_vault, nextPatch_vault, copyA_vault, copyB_vault, update_vault, mem_vault, Vault.eta]; with_reducible refine vault_kept ?_)
    | with_reducible refine (State.settleOwned_kept ..).of ?_

theorem regionDrained_kept (p i : Nat) (s : State) : Kept s (regionDrained p i s) := by
  unfold regionDrained
  repeat' first
    | with_reducible rfl
    | with_reducible assumption
    | with_reducible refine ite_kept ?_ ?_
    | with_reducible refine ite_fst_kept ?_ ?_
    | dsimp only
    | (with_reducible refine kept_vault ?_; simp only [↓State.mk_vault]; simp only [pending_vault, time_vault, patch_vault, nextPatch_vault, copyA_vault, copyB_vault, update_vault, mem_vault, Vault.eta]; with_reducible refine vault_kept ?_)
    | with_reducible refine (State.dropRegion_kept ..).of ?_
    | with_reducible refine (State.complete_kept ..).of ?_
    | split

theorem hRegionCreate_kept (c : Cmd) (s : State) : Kept s (hRegionCreate c s).1 := by
  unfold hRegionCreate
  repeat' first
    | with_reducible rfl
    | with_reducible assumption
    | with_reducible refine ite_kept ?_ ?_
    | with_reducible refine ite_fst_kept ?_ ?_
    | dsimp only
    | (with_reducible refine kept_vault ?_; simp only [↓State.mk_vault]; simp only [pending_vault, time_vault, patch_vault, nextPatch_vault, copyA_vault, copyB_vault, update_vault, mem_vault, Vault.eta]; with_reducible refine vault_kept ?_)
    | with_reducible refine (State.addRegion_kept ..).of ?_
    | split

theorem State.beginDrain_kept (s : State) (c : Cmd) (i : Nat) (keep : Option (Bool × Bool × Bool)) : Kept s (State.beginDrain s c i keep) := by
  unfold State.beginDrain
  repeat' first
    | with_reducible rfl
    | with_reducible assumption
    | with_reducible refine ite_kept ?_ ?_
    | with_reducible refine ite_fst_kept ?_ ?_
    | dsimp only
    | (with_reducible refine kept_vault ?_; simp only [↓State.mk_vault]; simp only [pending_vault, time_vault, patch_vault, nextPatch_vault, copyA_vault, copyB_vault, update_vault, mem_vault, Vault.eta]; with_reducible refine vault_kept ?_)

theorem hRegionRemove_kept (c : Cmd) (s : State) : Kept s (hRegionRemove c s).1 := by
  unfold hRegionRemove
  repeat' first
    | with_reducible rfl
    | with_reducible assumption
    | with_reducible refine ite_kept ?_ ?_
    | with_reducible refine ite_fst_kept ?_ ?_
    | dsimp only
    | (with_reducible refine kept_vault ?_; simp only [↓State.mk_vault]; simp only [pending_vault, time_vault, patch_vault, nextPatch_vault, copyA_vault, copyB_vault, update_vault, mem_vault, Vault.eta]; with_reducible refine vault_kept ?_)
    | with_reducible refine (State.beginDrain_kept ..).of ?_
    | split

theorem hRegionPerm_kept (c : Cmd) (s : State) : Kept s (hRegionPerm c s).1 := by
  unfold hRegionPerm
  repeat' first
    | with_reducible rfl
    | with_reducible assumption
    | with_reducible refine ite_kept ?_ ?_
    | with_reducible refine ite_fst_kept ?_ ?_
    | dsimp only
    | (with_reducible refine kept_vault ?_; simp only [↓State.mk_vault]; simp only [pending_vault, time_vault, patch_vault, nextPatch_vault, copyA_vault, copyB_vault, update_vault, mem_vault, Vault.eta]; with_reducible refine vault_kept ?_)
    | with_reducible refine (State.beginDrain_kept ..).of ?_
    | split

theorem hRegionQuery_kept (c : Cmd) (s : State) : Kept s (hRegionQuery c s).1 := by
  unfold hRegionQuery
  repeat' first
    | with_reducible rfl
    | with_reducible assumption
    | with_reducible refine ite_kept ?_ ?_
    | with_reducible refine ite_fst_kept ?_ ?_
    | dsimp only
    | (with_reducible refine kept_vault ?_; simp only [↓State.mk_vault]; simp only [pending_vault, time_vault, patch_vault, nextPatch_vault, copyA_vault, copyB_vault, update_vault, mem_vault, Vault.eta]; with_reducible refine vault_kept ?_)
    | split

theorem hRegionGrant_kept (c : Cmd) (s : State) : Kept s (hRegionGrant c s).1 := by
  unfold hRegionGrant
  repeat' first
    | with_reducible rfl
    | with_reducible assumption
    | with_reducible refine ite_kept ?_ ?_
    | with_reducible refine ite_fst_kept ?_ ?_
    | dsimp only
    | (with_reducible refine kept_vault ?_; simp only [↓State.mk_vault]; simp only [pending_vault, time_vault, patch_vault, nextPatch_vault, copyA_vault, copyB_vault, update_vault, mem_vault, Vault.eta]; with_reducible refine vault_kept ?_)

theorem State.setDie_kept (s : State) (d : Nat) (v : DramDie) : Kept s (State.setDie s d v) := by
  unfold State.setDie
  repeat' first
    | with_reducible rfl
    | with_reducible assumption
    | with_reducible refine ite_kept ?_ ?_
    | with_reducible refine ite_fst_kept ?_ ?_
    | dsimp only
    | (with_reducible refine kept_vault ?_; simp only [↓State.mk_vault]; simp only [pending_vault, time_vault, patch_vault, nextPatch_vault, copyA_vault, copyB_vault, update_vault, mem_vault, Vault.eta]; with_reducible refine vault_kept ?_)

theorem State.setChan_kept (s : State) (d ch : Nat) (v : DramCh) : Kept s (State.setChan s d ch v) := by
  unfold State.setChan
  repeat' first
    | with_reducible rfl
    | with_reducible assumption
    | with_reducible refine ite_kept ?_ ?_
    | with_reducible refine ite_fst_kept ?_ ?_
    | dsimp only
    | (with_reducible refine kept_vault ?_; simp only [↓State.mk_vault]; simp only [pending_vault, time_vault, patch_vault, nextPatch_vault, copyA_vault, copyB_vault, update_vault, mem_vault, Vault.eta]; with_reducible refine vault_kept ?_)

theorem State.spareRow_kept (s : State) (d ch row : Nat) : Kept s (State.spareRow s d ch row) := by
  unfold State.spareRow
  repeat' first
    | with_reducible rfl
    | with_reducible assumption
    | with_reducible refine ite_kept ?_ ?_
    | with_reducible refine ite_fst_kept ?_ ?_
    | dsimp only
    | (with_reducible refine kept_vault ?_; simp only [↓State.mk_vault]; simp only [pending_vault, time_vault, patch_vault, nextPatch_vault, copyA_vault, copyB_vault, update_vault, mem_vault, Vault.eta]; with_reducible refine vault_kept ?_)
    | with_reducible refine (State.setChan_kept ..).of ?_
    | with_reducible refine (State.addRisk_kept ..).of ?_
    | with_reducible refine (State.setDie_kept ..).of ?_

theorem State.eccCorrected_kept (s : State) (a : Nat) : Kept s (State.eccCorrected s a) := by
  unfold State.eccCorrected
  repeat' first
    | with_reducible rfl
    | with_reducible assumption
    | with_reducible refine ite_kept ?_ ?_
    | with_reducible refine ite_fst_kept ?_ ?_
    | dsimp only
    | (with_reducible refine kept_vault ?_; simp only [↓State.mk_vault]; simp only [pending_vault, time_vault, patch_vault, nextPatch_vault, copyA_vault, copyB_vault, update_vault, mem_vault, Vault.eta]; with_reducible refine vault_kept ?_)
    | with_reducible refine (State.setDie_kept ..).of ?_
    | with_reducible refine (State.setChan_kept ..).of ?_
    | with_reducible refine (State.addRisk_kept ..).of ?_

theorem State.eccLost_kept (s : State) (a : Nat) : Kept s (State.eccLost s a) := by
  unfold State.eccLost
  repeat' first
    | with_reducible rfl
    | with_reducible assumption
    | with_reducible refine ite_kept ?_ ?_
    | with_reducible refine ite_fst_kept ?_ ?_
    | dsimp only
    | (with_reducible refine kept_vault ?_; simp only [↓State.mk_vault]; simp only [pending_vault, time_vault, patch_vault, nextPatch_vault, copyA_vault, copyB_vault, update_vault, mem_vault, Vault.eta]; with_reducible refine vault_kept ?_)
    | with_reducible refine (State.setDie_kept ..).of ?_
    | with_reducible refine (State.spareRow_kept ..).of ?_
    | with_reducible refine (State.addRisk_kept ..).of ?_

theorem rowSpare_kept (d ch row : Nat) (s : State) : Kept s (rowSpare d ch row s) := by
  unfold rowSpare
  repeat' first
    | with_reducible rfl
    | with_reducible assumption
    | with_reducible refine ite_kept ?_ ?_
    | with_reducible refine ite_fst_kept ?_ ?_
    | dsimp only
    | (with_reducible refine kept_vault ?_; simp only [↓State.mk_vault]; simp only [pending_vault, time_vault, patch_vault, nextPatch_vault, copyA_vault, copyB_vault, update_vault, mem_vault, Vault.eta]; with_reducible refine vault_kept ?_)
    | with_reducible refine (State.spareRow_kept ..).of ?_

theorem State.wrongLine_kept (s : State) (a : Nat) (w : BitVec 512) : Kept s (s.wrongLine a w) :=
  kept_mem rfl rfl rfl rfl rfl (fun h => memPut_wf h _ _)

theorem patrolScrub_kept (d : Nat) (e : EccFind) (s : State) : Kept s (patrolScrub d e s) := by
  unfold patrolScrub
  repeat' first
    | with_reducible rfl
    | with_reducible assumption
    | with_reducible refine ite_kept ?_ ?_
    | with_reducible refine ite_fst_kept ?_ ?_
    | dsimp only
    | (with_reducible refine kept_vault ?_; simp only [↓State.mk_vault]; simp only [pending_vault, time_vault, patch_vault, nextPatch_vault, copyA_vault, copyB_vault, update_vault, mem_vault, Vault.eta]; with_reducible refine vault_kept ?_)
    | with_reducible refine (State.setDie_kept ..).of ?_
    | with_reducible refine (State.setChan_kept ..).of ?_
    | with_reducible refine (State.eccCorrected_kept ..).of ?_
    | with_reducible refine (State.eccLost_kept ..).of ?_
    | with_reducible refine (State.wrongLine_kept ..).of ?_
    | split

theorem dramRefresh_kept (d ch : Nat) (s : State) : Kept s (dramRefresh d ch s) := by
  unfold dramRefresh
  repeat' first
    | with_reducible rfl
    | with_reducible assumption
    | with_reducible refine ite_kept ?_ ?_
    | with_reducible refine ite_fst_kept ?_ ?_
    | dsimp only
    | (with_reducible refine kept_vault ?_; simp only [↓State.mk_vault]; simp only [pending_vault, time_vault, patch_vault, nextPatch_vault, copyA_vault, copyB_vault, update_vault, mem_vault, Vault.eta]; with_reducible refine vault_kept ?_)
    | with_reducible refine (State.setChan_kept ..).of ?_

theorem chanDown_kept (d ch : Nat) (s : State) : Kept s (chanDown d ch s) := by
  unfold chanDown
  repeat' first
    | with_reducible rfl
    | with_reducible assumption
    | with_reducible refine ite_kept ?_ ?_
    | with_reducible refine ite_fst_kept ?_ ?_
    | dsimp only
    | (with_reducible refine kept_vault ?_; simp only [↓State.mk_vault]; simp only [pending_vault, time_vault, patch_vault, nextPatch_vault, copyA_vault, copyB_vault, update_vault, mem_vault, Vault.eta]; with_reducible refine vault_kept ?_)
    | with_reducible refine (State.setChan_kept ..).of ?_

theorem State.countHot_kept (s : State) (g : Nat) : Kept s (State.countHot s g) := by
  unfold State.countHot
  repeat' first
    | with_reducible rfl
    | with_reducible assumption
    | with_reducible refine ite_kept ?_ ?_
    | with_reducible refine ite_fst_kept ?_ ?_
    | dsimp only
    | (with_reducible refine kept_vault ?_; simp only [↓State.mk_vault]; simp only [pending_vault, time_vault, patch_vault, nextPatch_vault, copyA_vault, copyB_vault, update_vault, mem_vault, Vault.eta]; with_reducible refine vault_kept ?_)
    | with_reducible refine (State.event_kept ..).of ?_
    | (with_reducible refine (foldl_kept ?_ _ _).of ?_ <;> try intro _ _)

theorem hotWindow_kept (d ch lines total gran : Nat) (s : State) : Kept s (hotWindow d ch lines total gran s) := by
  unfold hotWindow
  repeat' first
    | with_reducible rfl
    | with_reducible assumption
    | with_reducible refine ite_kept ?_ ?_
    | with_reducible refine ite_fst_kept ?_ ?_
    | dsimp only
    | (with_reducible refine kept_vault ?_; simp only [↓State.mk_vault]; simp only [pending_vault, time_vault, patch_vault, nextPatch_vault, copyA_vault, copyB_vault, update_vault, mem_vault, Vault.eta]; with_reducible refine vault_kept ?_)
    | with_reducible refine (State.setChan_kept ..).of ?_
    | with_reducible refine (State.setDie_kept ..).of ?_
    | with_reducible refine (State.countHot_kept ..).of ?_

end Sys2Proof.Machine
end

