-- ==== Sys2Proof/Laws/KeptMailbox.lean ====
section
/-!
SUPPORT. The operations of Machine/Mailbox keep what Kept says.
-/

set_option Elab.async false

namespace Sys2Proof.Machine

theorem ctrlWrite_kept (m : Nat) (v : W64) (s : State) : Kept s (ctrlWrite m v s) := by
  unfold ctrlWrite
  repeat' first
    | with_reducible rfl
    | with_reducible assumption
    | with_reducible refine ite_kept ?_ ?_
    | with_reducible refine ite_fst_kept ?_ ?_
    | dsimp only
    | (with_reducible refine kept_vault ?_; simp only [↓State.mk_vault]; simp only [pending_vault, time_vault, patch_vault, nextPatch_vault, copyA_vault, copyB_vault, update_vault, mem_vault, Vault.eta]; with_reducible refine vault_kept ?_)
    | with_reducible refine (State.setMbx_kept ..).of ?_
    | with_reducible refine (State.settleDisable_kept ..).of ?_

theorem State.mbxWrite_kept (s : State) (m off : Nat) (v : W64) : Kept s (State.mbxWrite s m off v) := by
  unfold State.mbxWrite
  repeat' first
    | with_reducible rfl
    | with_reducible assumption
    | with_reducible refine ite_kept ?_ ?_
    | with_reducible refine ite_fst_kept ?_ ?_
    | dsimp only
    | (with_reducible refine kept_vault ?_; simp only [↓State.mk_vault]; simp only [pending_vault, time_vault, patch_vault, nextPatch_vault, copyA_vault, copyB_vault, update_vault, mem_vault, Vault.eta]; with_reducible refine vault_kept ?_)
    | with_reducible refine (State.updMbx_kept ..).of ?_
    | with_reducible refine (ctrlWrite_kept ..).of ?_
    | split

theorem cpReset_kept (s : State) : Kept s (cpReset s) := by
  unfold cpReset
  repeat' first
    | with_reducible rfl
    | with_reducible assumption
    | with_reducible refine ite_kept ?_ ?_
    | with_reducible refine ite_fst_kept ?_ ?_
    | dsimp only
    | (with_reducible refine kept_vault ?_; simp only [↓State.mk_vault]; simp only [pending_vault, time_vault, patch_vault, nextPatch_vault, copyA_vault, copyB_vault, update_vault, mem_vault, Vault.eta]; with_reducible refine vault_kept ?_)

theorem State.accept_kept (s : State) (undo : Undo) (m : Nat) (e : CmdEntry) (hundo : ∀ c s, Kept s (undo c s)) : Kept s (State.accept s undo m e) := by
  unfold State.accept
  repeat' first
    | with_reducible rfl
    | with_reducible assumption
    | with_reducible refine ite_kept ?_ ?_
    | with_reducible refine ite_fst_kept ?_ ?_
    | dsimp only
    | (with_reducible refine kept_vault ?_; simp only [↓State.mk_vault]; simp only [pending_vault, time_vault, patch_vault, nextPatch_vault, copyA_vault, copyB_vault, update_vault, mem_vault, Vault.eta]; with_reducible refine vault_kept ?_)
    | with_reducible refine (State.due_kept ..).of ?_
    | (with_reducible refine (State.abortCmd_kept _ _ _ _ ?_).of ?_ <;> try intros)
    | with_reducible refine (hundo ..).of ?_
    | split

theorem State.passHead_kept (s : State) (m slot : Nat) : Kept s (State.passHead s m slot) := by
  unfold State.passHead
  repeat' first
    | with_reducible rfl
    | with_reducible assumption
    | with_reducible refine ite_kept ?_ ?_
    | with_reducible refine ite_fst_kept ?_ ?_
    | dsimp only
    | (with_reducible refine kept_vault ?_; simp only [↓State.mk_vault]; simp only [pending_vault, time_vault, patch_vault, nextPatch_vault, copyA_vault, copyB_vault, update_vault, mem_vault, Vault.eta]; with_reducible refine vault_kept ?_)
    | with_reducible refine (State.updMbx_kept ..).of ?_

theorem acceptAll_kept (undo : Undo) (h : ∀ c s, Kept s (undo c s)) (m n : Nat) (s : State) :
    Kept s (acceptAll undo m n s) := by
  induction n generalizing s with
  | zero => rfl
  | succ n ih =>
    simp only [acceptAll]
    split
    · rfl
    · exact (ih _).of ((State.passHead_kept ..).of (State.accept_kept _ _ _ _ h))

theorem State.mailboxTurn_kept (s : State) (undo : Undo) (handler : Nat → Handler) (hu : ∀ c s, Kept s (undo c s))
    (hh : ∀ n c s, Kept s (handler n c s).1) : Kept s (State.mailboxTurn s undo handler) := by
  unfold State.mailboxTurn
  split
  · rfl
  · dsimp only
    have key : ∀ (p : Prop) [Decidable p] (m : Nat) (t : State), Kept t (if p then t else acceptAll undo m 4095 t) := by
      intro p _ m t
      split
      · rfl
      · exact acceptAll_kept _ hu _ _ _
    split
    · exact (State.startCmd_kept _ _ _ (hh _)).of ((key _ _ _).of (kept_same rfl))
    · exact (key _ _ _).of (kept_same rfl)

theorem runCmd_kept (m : Nat) (h : CmdHdr) (code : Nat) (ps : List W64) (handler : Handler) (hh : ∀ c s, Kept s (handler c s).1) (s : State) :
    Kept s (runCmd m h code ps handler s) := by
  simp only [runCmd]
  repeat' first
    | rfl
    | assumption
    | refine (State.startCmd_kept _ _ _ hh).of ?_
    | refine (State.accept_kept _ _ _ _ ?_).of ?_
    | split
    | with_reducible refine (State.passHead_kept ..).of ?_
    | intro _ _

theorem withPb_kept (j n : Nat) (f : Cmd → List Byte → State → State × Reply) (h : ∀ c bs s, Kept s (f c bs s).1) (c : Cmd) (s : State) :
    Kept s (withPb j n f c s).1 := by
  unfold withPb
  split
  · rfl
  · exact h ..

theorem withResp_kept (j n : Nat) (f : Cmd → State → List Byte × Reply) (c : Cmd) (s : State) : Kept s (withResp j n f c s).1 := by
  unfold withResp
  split
  · rfl
  · exact State.awWrite_kept ..

theorem hOpenSession_kept (c : Cmd) (s : State) : Kept s (hOpenSession c s).1 := by
  unfold hOpenSession
  repeat' first
    | with_reducible rfl
    | with_reducible assumption
    | with_reducible refine ite_kept ?_ ?_
    | with_reducible refine ite_fst_kept ?_ ?_
    | dsimp only
    | (with_reducible refine kept_vault ?_; simp only [↓State.mk_vault]; simp only [pending_vault, time_vault, patch_vault, nextPatch_vault, copyA_vault, copyB_vault, update_vault, mem_vault, Vault.eta]; with_reducible refine vault_kept ?_)
    | with_reducible refine (State.awWrite_kept ..).of ?_
    | with_reducible refine (State.updMbx_kept ..).of ?_
    | split

theorem hCloseSession_kept (c : Cmd) (s : State) : Kept s (hCloseSession c s).1 := by
  unfold hCloseSession
  repeat' first
    | with_reducible rfl
    | with_reducible assumption
    | with_reducible refine ite_kept ?_ ?_
    | with_reducible refine ite_fst_kept ?_ ?_
    | dsimp only
    | (with_reducible refine kept_vault ?_; simp only [↓State.mk_vault]; simp only [pending_vault, time_vault, patch_vault, nextPatch_vault, copyA_vault, copyB_vault, update_vault, mem_vault, Vault.eta]; with_reducible refine vault_kept ?_)
    | with_reducible refine (State.updMbx_kept ..).of ?_

theorem hFence_kept (c : Cmd) (s : State) : Kept s (hFence c s).1 := by
  unfold hFence
  repeat' first
    | with_reducible rfl

theorem hGetInfo_kept (c : Cmd) (s : State) : Kept s (hGetInfo c s).1 := by
  unfold hGetInfo
  exact withResp_kept _ _ _ _ _

theorem hNop_kept (c : Cmd) (s : State) : Kept s (hNop c s).1 := by
  unfold hNop
  repeat' first
    | with_reducible rfl

end Sys2Proof.Machine
end

