-- ==== Sys2Proof/Laws/KeptMaps.lean ====
section
/-!
SUPPORT. The operations of Machine/Maps keep what Kept says.
-/

set_option Elab.async false

namespace Sys2Proof.Machine

theorem State.mapAlloc_kept {s t : State} {p n al a : Nat} (h : s.mapAlloc p n al = some (a, t)) : Kept s t := by
  unfold State.mapAlloc at h
  dsimp only at h
  repeat' split at h
  all_goals first
    | (cases h; done)
    | (cases h; exact kept_same rfl)
    | (cases h; refine kept_vault ?_; simp only [State.mk_vault]; exact vault_kept (State.addRegion_kept ..))

theorem State.allocTables_kept {p : Nat} {is : List Nat} {s t : State} {ts : List (Nat × Nat)} (h : s.allocTables p is = some (ts, t)) :
    Kept s t := by
  induction is generalizing s t ts with
  | nil => cases h; rfl
  | cons i is ih =>
    simp only [State.allocTables] at h
    split at h
    · cases h
    · split at h
      · cases h
      · cases h
        exact (ih (by with_reducible assumption)).of (State.mapAlloc_kept (by with_reducible assumption))

theorem State.setPageState_kept (s : State) (q : Pool) (f v : Nat) : Kept s (State.setPageState s q f v) := by
  unfold State.setPageState
  repeat' first
    | with_reducible rfl
    | with_reducible assumption
    | with_reducible refine ite_kept ?_ ?_
    | with_reducible refine ite_fst_kept ?_ ?_
    | dsimp only
    | (with_reducible refine kept_vault ?_; simp only [↓State.mk_vault]; simp only [pending_vault, time_vault, patch_vault, nextPatch_vault, copyA_vault, copyB_vault, update_vault, mem_vault, Vault.eta]; with_reducible refine vault_kept ?_)
    | with_reducible refine (State.write_kept ..).of ?_

theorem hPoolCreate_kept (c : Cmd) (s : State) : Kept s (hPoolCreate c s).1 := by
  unfold hPoolCreate
  refine withPb_kept _ _ _ ?_ _ _
  intro c bs s
  repeat' first
    | with_reducible rfl
    | with_reducible assumption
    | with_reducible refine ite_kept ?_ ?_
    | with_reducible refine ite_fst_kept ?_ ?_
    | dsimp only
    | (with_reducible refine kept_vault ?_; simp only [↓State.mk_vault]; simp only [pending_vault, time_vault, patch_vault, nextPatch_vault, copyA_vault, copyB_vault, update_vault, mem_vault, Vault.eta]; with_reducible refine vault_kept ?_)
    | with_reducible refine (State.mapAlloc_kept (by with_reducible assumption)).of ?_
    | split

theorem hPoolDestroy_kept (c : Cmd) (s : State) : Kept s (hPoolDestroy c s).1 := by
  unfold hPoolDestroy
  repeat' first
    | with_reducible rfl
    | with_reducible assumption
    | with_reducible refine ite_kept ?_ ?_
    | with_reducible refine ite_fst_kept ?_ ?_
    | dsimp only
    | (with_reducible refine kept_vault ?_; simp only [↓State.mk_vault]; simp only [pending_vault, time_vault, patch_vault, nextPatch_vault, copyA_vault, copyB_vault, update_vault, mem_vault, Vault.eta]; with_reducible refine vault_kept ?_)
    | split

theorem hPageAlloc_kept (c : Cmd) (s : State) : Kept s (hPageAlloc c s).1 := by
  unfold hPageAlloc
  repeat' first
    | with_reducible rfl
    | with_reducible assumption
    | with_reducible refine ite_kept ?_ ?_
    | with_reducible refine ite_fst_kept ?_ ?_
    | dsimp only
    | (with_reducible refine kept_vault ?_; simp only [↓State.mk_vault]; simp only [pending_vault, time_vault, patch_vault, nextPatch_vault, copyA_vault, copyB_vault, update_vault, mem_vault, Vault.eta]; with_reducible refine vault_kept ?_)
    | with_reducible refine (State.setPageState_kept ..).of ?_
    | with_reducible refine (State.awWrite_kept ..).of ?_
    | (with_reducible refine (foldl_kept ?_ _ _).of ?_ <;> try intro _ _)
    | split

theorem freePages_kept {q : Pool} {ws : List Nat} {s t : State} (h : freePages q ws s = .ok t) : Kept s t := by
  induction ws generalizing s with
  | nil => cases h; rfl
  | cons w ws ih =>
    simp only [freePages] at h
    repeat' split at h
    all_goals first
      | (cases h; done)
      | exact (ih h).of (State.setPageState_kept ..)

theorem hPageFree_kept (c : Cmd) (s : State) : Kept s (hPageFree c s).1 := by
  unfold hPageFree
  repeat' first
    | with_reducible rfl
    | with_reducible assumption
    | with_reducible refine ite_kept ?_ ?_
    | with_reducible refine ite_fst_kept ?_ ?_
    | dsimp only
    | (with_reducible refine kept_vault ?_; simp only [↓State.mk_vault]; simp only [pending_vault, time_vault, patch_vault, nextPatch_vault, copyA_vault, copyB_vault, update_vault, mem_vault, Vault.eta]; with_reducible refine vault_kept ?_)
    | with_reducible refine (freePages_kept (by with_reducible assumption)).of ?_
    | split

theorem State.countMap_kept (s : State) (leaf : Nat) (up : Bool) : Kept s (State.countMap s leaf up) := by
  unfold State.countMap
  repeat' first
    | with_reducible rfl
    | with_reducible assumption
    | with_reducible refine ite_kept ?_ ?_
    | with_reducible refine ite_fst_kept ?_ ?_
    | dsimp only
    | (with_reducible refine kept_vault ?_; simp only [↓State.mk_vault]; simp only [pending_vault, time_vault, patch_vault, nextPatch_vault, copyA_vault, copyB_vault, update_vault, mem_vault, Vault.eta]; with_reducible refine vault_kept ?_)
    | with_reducible refine (State.setPageState_kept ..).of ?_
    | split

theorem State.putLeaf_kept (s : State) (a w : Nat) : Kept s (State.putLeaf s a w) := by
  unfold State.putLeaf
  repeat' first
    | with_reducible rfl
    | with_reducible assumption
    | with_reducible refine ite_kept ?_ ?_
    | with_reducible refine ite_fst_kept ?_ ?_
    | dsimp only
    | (with_reducible refine kept_vault ?_; simp only [↓State.mk_vault]; simp only [pending_vault, time_vault, patch_vault, nextPatch_vault, copyA_vault, copyB_vault, update_vault, mem_vault, Vault.eta]; with_reducible refine vault_kept ?_)
    | with_reducible refine (State.countMap_kept ..).of ?_
    | with_reducible refine (State.write_kept ..).of ?_

theorem State.dropStream_kept (s : State) (r : Stream) : Kept s (State.dropStream s r) := by
  unfold State.dropStream
  repeat' first
    | with_reducible rfl
    | with_reducible assumption
    | with_reducible refine ite_kept ?_ ?_
    | with_reducible refine ite_fst_kept ?_ ?_
    | dsimp only
    | (with_reducible refine kept_vault ?_; simp only [↓State.mk_vault]; simp only [pending_vault, time_vault, patch_vault, nextPatch_vault, copyA_vault, copyB_vault, update_vault, mem_vault, Vault.eta]; with_reducible refine vault_kept ?_)
    | with_reducible refine (State.putLeaf_kept ..).of ?_
    | (with_reducible refine (foldl_kept ?_ _ _).of ?_ <;> try intro _ _)

theorem MapEdit.write_kept (e : MapEdit) (h : Nat) (s : State) : Kept s (MapEdit.write e h s) := by
  unfold MapEdit.write
  repeat' first
    | with_reducible rfl
    | with_reducible assumption
    | with_reducible refine ite_kept ?_ ?_
    | with_reducible refine ite_fst_kept ?_ ?_
    | dsimp only
    | (with_reducible refine kept_vault ?_; simp only [↓State.mk_vault]; simp only [pending_vault, time_vault, patch_vault, nextPatch_vault, copyA_vault, copyB_vault, update_vault, mem_vault, Vault.eta]; with_reducible refine vault_kept ?_)
    | with_reducible refine (State.dropStream_kept ..).of ?_
    | with_reducible refine (State.write_kept ..).of ?_
    | with_reducible refine (State.putLeaf_kept ..).of ?_
    | (with_reducible refine (foldl_kept ?_ _ _).of ?_ <;> try intro _ _)

theorem State.forgetMap_kept (s : State) (id : Nat) : Kept s (State.forgetMap s id) := by
  unfold State.forgetMap
  repeat' first
    | with_reducible rfl
    | with_reducible assumption
    | with_reducible refine ite_kept ?_ ?_
    | with_reducible refine ite_fst_kept ?_ ?_
    | dsimp only
    | (with_reducible refine kept_vault ?_; simp only [↓State.mk_vault]; simp only [pending_vault, time_vault, patch_vault, nextPatch_vault, copyA_vault, copyB_vault, update_vault, mem_vault, Vault.eta]; with_reducible refine vault_kept ?_)

theorem State.batch_kept (s : State) (id : Nat) (es : List MapEdit) : Kept s (State.batch s id es) := by
  unfold State.batch
  repeat' first
    | with_reducible rfl
    | with_reducible assumption
    | with_reducible refine ite_kept ?_ ?_
    | with_reducible refine ite_fst_kept ?_ ?_
    | dsimp only
    | (with_reducible refine kept_vault ?_; simp only [↓State.mk_vault]; simp only [pending_vault, time_vault, patch_vault, nextPatch_vault, copyA_vault, copyB_vault, update_vault, mem_vault, Vault.eta]; with_reducible refine vault_kept ?_)
    | with_reducible refine (State.write_kept ..).of ?_
    | with_reducible refine (MapEdit.write_kept ..).of ?_
    | with_reducible refine (State.forgetMap_kept ..).of ?_
    | (with_reducible refine (foldl_kept ?_ _ _).of ?_ <;> try intro _ _)
    | split

theorem State.finishEdits_kept (s : State) (es : List MapEdit) : Kept s (State.finishEdits s es) := by
  unfold State.finishEdits
  repeat' first
    | with_reducible rfl
    | with_reducible assumption
    | with_reducible refine ite_kept ?_ ?_
    | with_reducible refine ite_fst_kept ?_ ?_
    | dsimp only
    | (with_reducible refine kept_vault ?_; simp only [↓State.mk_vault]; simp only [pending_vault, time_vault, patch_vault, nextPatch_vault, copyA_vault, copyB_vault, update_vault, mem_vault, Vault.eta]; with_reducible refine vault_kept ?_)
    | with_reducible refine (State.due_kept ..).of ?_
    | with_reducible refine (State.complete_kept ..).of ?_
    | (with_reducible refine (foldl_kept ?_ _ _).of ?_ <;> try intro _ _)
    | split

theorem mapBatch_kept (id : Nat) (s : State) : Kept s (mapBatch id s) := by
  unfold mapBatch
  repeat' first
    | with_reducible rfl
    | with_reducible assumption
    | with_reducible refine ite_kept ?_ ?_
    | with_reducible refine ite_fst_kept ?_ ?_
    | dsimp only
    | (with_reducible refine kept_vault ?_; simp only [↓State.mk_vault]; simp only [pending_vault, time_vault, patch_vault, nextPatch_vault, copyA_vault, copyB_vault, update_vault, mem_vault, Vault.eta]; with_reducible refine vault_kept ?_)
    | with_reducible refine (State.batch_kept ..).of ?_
    | with_reducible refine (State.finishEdits_kept ..).of ?_
    | split

theorem State.pin_kept (s : State) (id : Nat) : Kept s (State.pin s id) := by
  unfold State.pin
  repeat' first
    | with_reducible rfl
    | with_reducible assumption
    | with_reducible refine ite_kept ?_ ?_
    | with_reducible refine ite_fst_kept ?_ ?_
    | dsimp only
    | (with_reducible refine kept_vault ?_; simp only [↓State.mk_vault]; simp only [pending_vault, time_vault, patch_vault, nextPatch_vault, copyA_vault, copyB_vault, update_vault, mem_vault, Vault.eta]; with_reducible refine vault_kept ?_)

theorem State.unpin_kept (s : State) (id : Nat) : Kept s (State.unpin s id) := by
  unfold State.unpin
  repeat' first
    | with_reducible rfl
    | with_reducible assumption
    | with_reducible refine ite_kept ?_ ?_
    | with_reducible refine ite_fst_kept ?_ ?_
    | dsimp only
    | (with_reducible refine kept_vault ?_; simp only [↓State.mk_vault]; simp only [pending_vault, time_vault, patch_vault, nextPatch_vault, copyA_vault, copyB_vault, update_vault, mem_vault, Vault.eta]; with_reducible refine vault_kept ?_)

theorem hPmapCreate_kept (c : Cmd) (s : State) : Kept s (hPmapCreate c s).1 := by
  unfold hPmapCreate
  repeat' first
    | with_reducible rfl
    | with_reducible assumption
    | with_reducible refine ite_kept ?_ ?_
    | with_reducible refine ite_fst_kept ?_ ?_
    | dsimp only
    | (with_reducible refine kept_vault ?_; simp only [↓State.mk_vault]; simp only [pending_vault, time_vault, patch_vault, nextPatch_vault, copyA_vault, copyB_vault, update_vault, mem_vault, Vault.eta]; with_reducible refine vault_kept ?_)
    | with_reducible refine (State.mapAlloc_kept (by with_reducible assumption)).of ?_
    | with_reducible refine (State.write_kept ..).of ?_
    | with_reducible refine (MapEdit.write_kept ..).of ?_
    | split

theorem hPmapDestroy_kept (c : Cmd) (s : State) : Kept s (hPmapDestroy c s).1 := by
  unfold hPmapDestroy
  repeat' first
    | with_reducible rfl
    | with_reducible assumption
    | with_reducible refine ite_kept ?_ ?_
    | with_reducible refine ite_fst_kept ?_ ?_
    | dsimp only
    | (with_reducible refine kept_vault ?_; simp only [↓State.mk_vault]; simp only [pending_vault, time_vault, patch_vault, nextPatch_vault, copyA_vault, copyB_vault, update_vault, mem_vault, Vault.eta]; with_reducible refine vault_kept ?_)
    | with_reducible refine (State.dropStream_kept ..).of ?_
    | with_reducible refine (State.forgetMap_kept ..).of ?_
    | (with_reducible refine (foldl_kept ?_ _ _).of ?_ <;> try intro _ _)
    | split

theorem hPmapQuery_kept (c : Cmd) (s : State) : Kept s (hPmapQuery c s).1 := by
  unfold hPmapQuery
  repeat' first
    | with_reducible rfl
    | with_reducible assumption
    | with_reducible refine ite_kept ?_ ?_
    | with_reducible refine ite_fst_kept ?_ ?_
    | dsimp only
    | (with_reducible refine kept_vault ?_; simp only [↓State.mk_vault]; simp only [pending_vault, time_vault, patch_vault, nextPatch_vault, copyA_vault, copyB_vault, update_vault, mem_vault, Vault.eta]; with_reducible refine vault_kept ?_)
    | split

theorem State.newDirectory_kept {s t : State} {c : Cmd} {d e : MapEdit} (h : s.newDirectory c d = .ok (e, t)) : Kept s t := by
  cases hr : s.mapAlloc c.part (roundUp (8 * (c.p 3 + 1)) 4096) 4096 with
  | none =>
    have e1 : s.newDirectory c d = .error 0x19 := by rw [State.newDirectory, hr]
    rw [e1] at h
    exact err_ok h
  | some x =>
    have e1 : s.newDirectory c d = .ok ({ d with tables := [(0, x.1)] }, x.2) := by rw [State.newDirectory, hr]
    rw [e1] at h
    rw [← ok_pair h]
    exact State.mapAlloc_kept hr

theorem State.makeEdit_kept {s t : State} {c : Cmd} {e : MapE} {d : MapEdit} (h : s.makeEdit c e = .ok (d, t)) : Kept s t := by
  unfold State.makeEdit at h
  dsimp only at h
  repeat' split at h
  all_goals first
    | exact err_ok h
    | exact State.newDirectory_kept h
    | (rw [← ok_pair h]; exact State.allocTables_kept (by with_reducible assumption))
    | (rw [← ok_pair h])

theorem hEdit_kept (c : Cmd) (s : State) : Kept s (hEdit c s).1 := by
  unfold hEdit
  repeat' first
    | with_reducible rfl
    | with_reducible assumption
    | with_reducible refine ite_kept ?_ ?_
    | with_reducible refine ite_fst_kept ?_ ?_
    | dsimp only
    | (with_reducible refine kept_vault ?_; simp only [↓State.mk_vault]; simp only [pending_vault, time_vault, patch_vault, nextPatch_vault, copyA_vault, copyB_vault, update_vault, mem_vault, Vault.eta]; with_reducible refine vault_kept ?_)
    | with_reducible refine (State.makeEdit_kept (by with_reducible assumption)).of ?_
    | with_reducible refine (State.batch_kept ..).of ?_
    | split

theorem undoEdit_kept (c : Cmd) (s : State) : Kept s (undoEdit c s) := by
  unfold undoEdit
  repeat' first
    | with_reducible rfl
    | with_reducible assumption
    | with_reducible refine ite_kept ?_ ?_
    | with_reducible refine ite_fst_kept ?_ ?_
    | dsimp only
    | (with_reducible refine kept_vault ?_; simp only [↓State.mk_vault]; simp only [pending_vault, time_vault, patch_vault, nextPatch_vault, copyA_vault, copyB_vault, update_vault, mem_vault, Vault.eta]; with_reducible refine vault_kept ?_)

end Sys2Proof.Machine
end

