-- ==== Sys2Proof/Laws/KeptFox.lean ====
section
/-!
SUPPORT. The operations of Machine/Fox keep what Kept says.
-/

set_option Elab.async false

namespace Sys2Proof.Machine

theorem State.chargeEngine_kept (s : State) (k : EngineKind) (l n : Nat) : Kept s (State.chargeEngine s k l n) := by
  unfold State.chargeEngine
  repeat' first
    | with_reducible rfl
    | with_reducible assumption
    | with_reducible refine ite_kept ?_ ?_
    | with_reducible refine ite_fst_kept ?_ ?_
    | dsimp only
    | (with_reducible refine kept_vault ?_; simp only [↓State.mk_vault]; simp only [pending_vault, time_vault, patch_vault, nextPatch_vault, copyA_vault, copyB_vault, update_vault, mem_vault, Vault.eta]; with_reducible refine vault_kept ?_)
    | with_reducible refine (State.updLaunch_kept ..).of ?_
    | with_reducible refine (State.updPart_kept ..).of ?_
    | split

theorem State.itemFaulted_kept (s : State) (l unit i : Nat) (f : ItemFault) : Kept s (State.itemFaulted s l unit i f) := by
  unfold State.itemFaulted
  repeat' first
    | with_reducible rfl
    | with_reducible assumption
    | with_reducible refine ite_kept ?_ ?_
    | with_reducible refine ite_fst_kept ?_ ?_
    | dsimp only
    | (with_reducible refine kept_vault ?_; simp only [↓State.mk_vault]; simp only [pending_vault, time_vault, patch_vault, nextPatch_vault, copyA_vault, copyB_vault, update_vault, mem_vault, Vault.eta]; with_reducible refine vault_kept ?_)
    | with_reducible refine (State.updLaunch_kept ..).of ?_

theorem State.freeSpans_kept (s : State) (p : Nat) (ss : List (Nat × Nat)) : Kept s (State.freeSpans s p ss) := by
  unfold State.freeSpans
  repeat' first
    | with_reducible rfl
    | with_reducible assumption
    | with_reducible refine ite_kept ?_ ?_
    | with_reducible refine ite_fst_kept ?_ ?_
    | dsimp only
    | (with_reducible refine kept_vault ?_; simp only [↓State.mk_vault]; simp only [pending_vault, time_vault, patch_vault, nextPatch_vault, copyA_vault, copyB_vault, update_vault, mem_vault, Vault.eta]; with_reducible refine vault_kept ?_)
    | with_reducible refine (State.writes_kept ..).of ?_
    | with_reducible refine (State.bump_kept ..).of ?_

theorem State.setFox_kept (s : State) (u : Nat) (f : Fox) : Kept s (State.setFox s u f) := by
  unfold State.setFox
  repeat' first
    | with_reducible rfl
    | with_reducible assumption
    | with_reducible refine ite_kept ?_ ?_
    | with_reducible refine ite_fst_kept ?_ ?_
    | dsimp only
    | (with_reducible refine kept_vault ?_; simp only [↓State.mk_vault]; simp only [pending_vault, time_vault, patch_vault, nextPatch_vault, copyA_vault, copyB_vault, update_vault, mem_vault, Vault.eta]; with_reducible refine vault_kept ?_)

theorem State.updFox_kept (s : State) (u : Nat) (f : Fox → Fox) : Kept s (State.updFox s u f) := by
  unfold State.updFox
  repeat' first
    | with_reducible rfl
    | with_reducible assumption
    | with_reducible refine ite_kept ?_ ?_
    | with_reducible refine ite_fst_kept ?_ ?_
    | dsimp only
    | (with_reducible refine kept_vault ?_; simp only [↓State.mk_vault]; simp only [pending_vault, time_vault, patch_vault, nextPatch_vault, copyA_vault, copyB_vault, update_vault, mem_vault, Vault.eta]; with_reducible refine vault_kept ?_)
    | with_reducible refine (State.setFox_kept ..).of ?_

theorem State.foxEnd_kept (s : State) (u : Nat) (i : FoxItem) (f : ItemFault) : Kept s (State.foxEnd s u i f) := by
  unfold State.foxEnd
  repeat' first
    | with_reducible rfl
    | with_reducible assumption
    | with_reducible refine ite_kept ?_ ?_
    | with_reducible refine ite_fst_kept ?_ ?_
    | dsimp only
    | (with_reducible refine kept_vault ?_; simp only [↓State.mk_vault]; simp only [pending_vault, time_vault, patch_vault, nextPatch_vault, copyA_vault, copyB_vault, update_vault, mem_vault, Vault.eta]; with_reducible refine vault_kept ?_)
    | with_reducible refine (State.chargeEngine_kept ..).of ?_
    | with_reducible refine (State.itemFaulted_kept ..).of ?_
    | with_reducible refine (State.unpin_kept ..).of ?_
    | with_reducible refine (State.updFox_kept ..).of ?_

theorem State.foxFault_kept (s : State) (u : Nat) (i : FoxItem) (f : ItemFault) : Kept s (State.foxFault s u i f) := by
  unfold State.foxFault
  repeat' first
    | with_reducible rfl
    | with_reducible assumption
    | with_reducible refine ite_kept ?_ ?_
    | with_reducible refine ite_fst_kept ?_ ?_
    | dsimp only
    | (with_reducible refine kept_vault ?_; simp only [↓State.mk_vault]; simp only [pending_vault, time_vault, patch_vault, nextPatch_vault, copyA_vault, copyB_vault, update_vault, mem_vault, Vault.eta]; with_reducible refine vault_kept ?_)
    | with_reducible refine (State.foxEnd_kept ..).of ?_
    | with_reducible refine (State.freeSpans_kept ..).of ?_
    | split

theorem foxItemStart_kept (u : Nat) (s : State) : Kept s (foxItemStart u s) := by
  unfold foxItemStart
  repeat' first
    | with_reducible rfl
    | with_reducible assumption
    | with_reducible refine ite_kept ?_ ?_
    | with_reducible refine ite_fst_kept ?_ ?_
    | dsimp only
    | (with_reducible refine kept_vault ?_; simp only [↓State.mk_vault]; simp only [pending_vault, time_vault, patch_vault, nextPatch_vault, copyA_vault, copyB_vault, update_vault, mem_vault, Vault.eta]; with_reducible refine vault_kept ?_)
    | with_reducible refine (State.updLaunch_kept ..).of ?_
    | with_reducible refine (State.updFox_kept ..).of ?_
    | with_reducible refine (State.foxFault_kept ..).of ?_
    | with_reducible refine (State.chargeLines_kept ..).of ?_
    | split

theorem State.putItem_kept (s : State) (u : Nat) (old : Nat) (i : FoxItem) : Kept s (State.putItem s u old i) := by
  unfold State.putItem
  repeat' first
    | with_reducible rfl
    | with_reducible assumption
    | with_reducible refine ite_kept ?_ ?_
    | with_reducible refine ite_fst_kept ?_ ?_
    | dsimp only
    | (with_reducible refine kept_vault ?_; simp only [↓State.mk_vault]; simp only [pending_vault, time_vault, patch_vault, nextPatch_vault, copyA_vault, copyB_vault, update_vault, mem_vault, Vault.eta]; with_reducible refine vault_kept ?_)
    | with_reducible refine (State.updLaunch_kept ..).of ?_
    | with_reducible refine (State.updFox_kept ..).of ?_

theorem mapEpochPin_kept (u : Nat) (s : State) : Kept s (mapEpochPin u s) := by
  unfold mapEpochPin
  repeat' first
    | with_reducible rfl
    | with_reducible assumption
    | with_reducible refine ite_kept ?_ ?_
    | with_reducible refine ite_fst_kept ?_ ?_
    | dsimp only
    | (with_reducible refine kept_vault ?_; simp only [↓State.mk_vault]; simp only [pending_vault, time_vault, patch_vault, nextPatch_vault, copyA_vault, copyB_vault, update_vault, mem_vault, Vault.eta]; with_reducible refine vault_kept ?_)
    | with_reducible refine (State.foxFault_kept ..).of ?_
    | with_reducible refine (State.updFox_kept ..).of ?_
    | with_reducible refine (State.pin_kept ..).of ?_
    | with_reducible refine (State.chargeLines_kept ..).of ?_
    | with_reducible refine (State.putItem_kept ..).of ?_
    | split

theorem foxLabFill_kept (u page : Nat) (s : State) : Kept s (foxLabFill u page s) := by
  unfold foxLabFill
  repeat' first
    | with_reducible rfl
    | with_reducible assumption
    | with_reducible refine ite_kept ?_ ?_
    | with_reducible refine ite_fst_kept ?_ ?_
    | dsimp only
    | (with_reducible refine kept_vault ?_; simp only [↓State.mk_vault]; simp only [pending_vault, time_vault, patch_vault, nextPatch_vault, copyA_vault, copyB_vault, update_vault, mem_vault, Vault.eta]; with_reducible refine vault_kept ?_)
    | with_reducible refine (State.setFox_kept ..).of ?_
    | with_reducible refine (State.foxFault_kept ..).of ?_
    | with_reducible refine (State.chargeLines_kept ..).of ?_
    | split

theorem foxBlockCompute_kept (u : Nat) (s : State) : Kept s (foxBlockCompute u s) := by
  unfold foxBlockCompute
  repeat' first
    | with_reducible rfl
    | with_reducible assumption
    | with_reducible refine ite_kept ?_ ?_
    | with_reducible refine ite_fst_kept ?_ ?_
    | dsimp only
    | (with_reducible refine kept_vault ?_; simp only [↓State.mk_vault]; simp only [pending_vault, time_vault, patch_vault, nextPatch_vault, copyA_vault, copyB_vault, update_vault, mem_vault, Vault.eta]; with_reducible refine vault_kept ?_)
    | with_reducible refine (State.foxFault_kept ..).of ?_
    | with_reducible refine (State.chargeLines_kept ..).of ?_
    | with_reducible refine (State.putItem_kept ..).of ?_
    | with_reducible refine (State.updFox_kept ..).of ?_
    | split

theorem foxItemComplete_kept (u : Nat) (s : State) : Kept s (foxItemComplete u s) := by
  unfold foxItemComplete
  repeat' first
    | with_reducible rfl
    | with_reducible assumption
    | with_reducible refine ite_kept ?_ ?_
    | with_reducible refine ite_fst_kept ?_ ?_
    | dsimp only
    | (with_reducible refine kept_vault ?_; simp only [↓State.mk_vault]; simp only [pending_vault, time_vault, patch_vault, nextPatch_vault, copyA_vault, copyB_vault, update_vault, mem_vault, Vault.eta]; with_reducible refine vault_kept ?_)
    | with_reducible refine (State.foxFault_kept ..).of ?_
    | with_reducible refine (State.writes_kept ..).of ?_
    | with_reducible refine (State.charge_kept ..).of ?_
    | with_reducible refine (State.taint_kept ..).of ?_
    | with_reducible refine (State.updLaunch_kept ..).of ?_
    | with_reducible refine (State.unpin_kept ..).of ?_
    | with_reducible refine (State.chargeEngine_kept ..).of ?_
    | with_reducible refine (State.updFox_kept ..).of ?_
    | with_reducible refine (State.semAdd_kept (by with_reducible assumption)).of ?_
    | with_reducible refine (State.foxEnd_kept ..).of ?_
    | (with_reducible refine (foldl_kept ?_ _ _).of ?_ <;> try intro _ _)
    | split

end Sys2Proof.Machine
end

