-- ==== Sys2Proof/Laws/KeptPrimrose.lean ====
section
/-!
SUPPORT. The operations of Machine/Primrose keep what Kept says.
-/

set_option Elab.async false

namespace Sys2Proof.Machine

theorem State.setPrim_kept (s : State) (e : Nat) (p : Prim) : Kept s (State.setPrim s e p) := by
  unfold State.setPrim
  repeat' first
    | with_reducible rfl
    | with_reducible assumption
    | with_reducible refine ite_kept ?_ ?_
    | with_reducible refine ite_fst_kept ?_ ?_
    | dsimp only
    | (with_reducible refine kept_vault ?_; simp only [↓State.mk_vault]; simp only [pending_vault, time_vault, patch_vault, nextPatch_vault, copyA_vault, copyB_vault, update_vault, mem_vault, Vault.eta]; with_reducible refine vault_kept ?_)

theorem State.updPrim_kept (s : State) (e : Nat) (f : Prim → Prim) : Kept s (State.updPrim s e f) := by
  unfold State.updPrim
  repeat' first
    | with_reducible rfl
    | with_reducible assumption
    | with_reducible refine ite_kept ?_ ?_
    | with_reducible refine ite_fst_kept ?_ ?_
    | dsimp only
    | (with_reducible refine kept_vault ?_; simp only [↓State.mk_vault]; simp only [pending_vault, time_vault, patch_vault, nextPatch_vault, copyA_vault, copyB_vault, update_vault, mem_vault, Vault.eta]; with_reducible refine vault_kept ?_)
    | with_reducible refine (State.setPrim_kept ..).of ?_

theorem State.primEnd_kept (s : State) (e : Nat) (b : PrimJob) (f : ItemFault) : Kept s (State.primEnd s e b f) := by
  unfold State.primEnd
  repeat' first
    | with_reducible rfl
    | with_reducible assumption
    | with_reducible refine ite_kept ?_ ?_
    | with_reducible refine ite_fst_kept ?_ ?_
    | dsimp only
    | (with_reducible refine kept_vault ?_; simp only [↓State.mk_vault]; simp only [pending_vault, time_vault, patch_vault, nextPatch_vault, copyA_vault, copyB_vault, update_vault, mem_vault, Vault.eta]; with_reducible refine vault_kept ?_)
    | with_reducible refine (State.chargeEngine_kept ..).of ?_
    | with_reducible refine (State.itemFaulted_kept ..).of ?_
    | with_reducible refine (State.updPrim_kept ..).of ?_

theorem State.primFault_kept (s : State) (e : Nat) (b : PrimJob) (f : ItemFault) : Kept s (State.primFault s e b f) := by
  unfold State.primFault
  repeat' first
    | with_reducible rfl
    | with_reducible assumption
    | with_reducible refine ite_kept ?_ ?_
    | with_reducible refine ite_fst_kept ?_ ?_
    | dsimp only
    | (with_reducible refine kept_vault ?_; simp only [↓State.mk_vault]; simp only [pending_vault, time_vault, patch_vault, nextPatch_vault, copyA_vault, copyB_vault, update_vault, mem_vault, Vault.eta]; with_reducible refine vault_kept ?_)
    | with_reducible refine (State.primEnd_kept ..).of ?_
    | with_reducible refine (State.freeSpans_kept ..).of ?_
    | split

theorem primJobStart_kept (e : Nat) (s : State) : Kept s (primJobStart e s) := by
  unfold primJobStart
  repeat' first
    | with_reducible rfl
    | with_reducible assumption
    | with_reducible refine ite_kept ?_ ?_
    | with_reducible refine ite_fst_kept ?_ ?_
    | dsimp only
    | (with_reducible refine kept_vault ?_; simp only [↓State.mk_vault]; simp only [pending_vault, time_vault, patch_vault, nextPatch_vault, copyA_vault, copyB_vault, update_vault, mem_vault, Vault.eta]; with_reducible refine vault_kept ?_)
    | with_reducible refine (State.updLaunch_kept ..).of ?_
    | with_reducible refine (State.updPrim_kept ..).of ?_
    | with_reducible refine (State.primFault_kept ..).of ?_
    | with_reducible refine (State.chargeLines_kept ..).of ?_
    | split

theorem primJobComplete_kept (e : Nat) (s : State) : Kept s (primJobComplete e s) := by
  unfold primJobComplete
  repeat' first
    | with_reducible rfl
    | with_reducible assumption
    | with_reducible refine ite_kept ?_ ?_
    | with_reducible refine ite_fst_kept ?_ ?_
    | dsimp only
    | (with_reducible refine kept_vault ?_; simp only [↓State.mk_vault]; simp only [pending_vault, time_vault, patch_vault, nextPatch_vault, copyA_vault, copyB_vault, update_vault, mem_vault, Vault.eta]; with_reducible refine vault_kept ?_)
    | with_reducible refine (State.primFault_kept ..).of ?_
    | with_reducible refine (State.writes_kept ..).of ?_
    | with_reducible refine (State.charge_kept ..).of ?_
    | with_reducible refine (State.taint_kept ..).of ?_
    | with_reducible refine (State.chargeEngine_kept ..).of ?_
    | with_reducible refine (State.updLaunch_kept ..).of ?_
    | with_reducible refine (State.updPrim_kept ..).of ?_
    | with_reducible refine (State.semAdd_kept (by with_reducible assumption)).of ?_
    | with_reducible refine (State.primEnd_kept ..).of ?_
    | (with_reducible refine (foldl_kept ?_ _ _).of ?_ <;> try intro _ _)
    | split

end Sys2Proof.Machine
end

