-- ==== Sys2Proof/Laws/KeptFlash.lean ====
section
/-!
SUPPORT. The operations of Machine/Flash keep what Kept says.
-/

set_option Elab.async false

namespace Sys2Proof.Machine

theorem State.damage_kept (s : State) (o : FlashOwner) : Kept s (State.damage s o) := by
  unfold State.damage
  repeat' first
    | with_reducible rfl
    | with_reducible assumption
    | with_reducible refine ite_kept ?_ ?_
    | with_reducible refine ite_fst_kept ?_ ?_
    | dsimp only
    | (with_reducible refine kept_vault ?_; simp only [↓State.mk_vault]; simp only [pending_vault, time_vault, patch_vault, nextPatch_vault, copyA_vault, copyB_vault, update_vault, mem_vault, Vault.eta]; with_reducible refine vault_kept ?_)
    | split

theorem State.loseCodewords_kept (s : State) (n : Nat) : Kept s (State.loseCodewords s n) := by
  unfold State.loseCodewords
  repeat' first
    | with_reducible rfl
    | with_reducible assumption
    | with_reducible refine ite_kept ?_ ?_
    | with_reducible refine ite_fst_kept ?_ ?_
    | dsimp only
    | (with_reducible refine kept_vault ?_; simp only [↓State.mk_vault]; simp only [pending_vault, time_vault, patch_vault, nextPatch_vault, copyA_vault, copyB_vault, update_vault, mem_vault, Vault.eta]; with_reducible refine vault_kept ?_)
    | with_reducible refine (State.updFlash_kept ..).of ?_
    | with_reducible refine (State.addRisk_kept ..).of ?_

theorem State.dieFails_kept (s : State) (d : Nat) : Kept s (State.dieFails s d) := by
  unfold State.dieFails
  repeat' first
    | with_reducible rfl
    | with_reducible assumption
    | with_reducible refine ite_kept ?_ ?_
    | with_reducible refine ite_fst_kept ?_ ?_
    | dsimp only
    | (with_reducible refine kept_vault ?_; simp only [↓State.mk_vault]; simp only [pending_vault, time_vault, patch_vault, nextPatch_vault, copyA_vault, copyB_vault, update_vault, mem_vault, Vault.eta]; with_reducible refine vault_kept ?_)
    | with_reducible refine (State.damage_kept ..).of ?_
    | with_reducible refine (State.loseCodewords_kept ..).of ?_
    | with_reducible refine (State.updFlash_kept ..).of ?_
    | (with_reducible refine (foldl_kept ?_ _ _).of ?_ <;> try intro _ _)

theorem wearTick_kept (s : State) : Kept s (wearTick s) := by
  unfold wearTick
  repeat' first
    | with_reducible rfl
    | with_reducible assumption
    | with_reducible refine ite_kept ?_ ?_
    | with_reducible refine ite_fst_kept ?_ ?_
    | dsimp only
    | (with_reducible refine kept_vault ?_; simp only [↓State.mk_vault]; simp only [pending_vault, time_vault, patch_vault, nextPatch_vault, copyA_vault, copyB_vault, update_vault, mem_vault, Vault.eta]; with_reducible refine vault_kept ?_)
    | with_reducible refine (State.eventAll_kept ..).of ?_

theorem State.updTobj_kept (s : State) (n : Nat) (f : Tobj → Tobj) : Kept s (State.updTobj s n f) := by
  unfold State.updTobj
  repeat' first
    | with_reducible rfl
    | with_reducible assumption
    | with_reducible refine ite_kept ?_ ?_
    | with_reducible refine ite_fst_kept ?_ ?_
    | dsimp only
    | (with_reducible refine kept_vault ?_; simp only [↓State.mk_vault]; simp only [pending_vault, time_vault, patch_vault, nextPatch_vault, copyA_vault, copyB_vault, update_vault, mem_vault, Vault.eta]; with_reducible refine vault_kept ?_)

theorem State.placeImage_kept (s : State) (a n : Nat) (t : Tab Byte) : Kept s (State.placeImage s a n t) :=
  kept_mem rfl rfl rfl rfl rfl (fun h => State.placeImage_wf h a n t)

theorem State.updHome_kept (s : State) (t : Tobj) (f : Region → Region) : Kept s (State.updHome s t f) := by
  unfold State.updHome
  repeat' first
    | with_reducible rfl
    | with_reducible assumption
    | with_reducible refine ite_kept ?_ ?_
    | with_reducible refine ite_fst_kept ?_ ?_
    | dsimp only
    | (with_reducible refine kept_vault ?_; simp only [↓State.mk_vault]; simp only [pending_vault, time_vault, patch_vault, nextPatch_vault, copyA_vault, copyB_vault, update_vault, mem_vault, Vault.eta]; with_reducible refine vault_kept ?_)

theorem hTobjCreate_kept (c : Cmd) (s : State) : Kept s (hTobjCreate c s).1 := by
  unfold hTobjCreate
  repeat' first
    | with_reducible rfl
    | with_reducible assumption
    | with_reducible refine ite_kept ?_ ?_
    | with_reducible refine ite_fst_kept ?_ ?_
    | dsimp only
    | (with_reducible refine kept_vault ?_; simp only [↓State.mk_vault]; simp only [pending_vault, time_vault, patch_vault, nextPatch_vault, copyA_vault, copyB_vault, update_vault, mem_vault, Vault.eta]; with_reducible refine vault_kept ?_)
    | with_reducible refine (State.charge_kept ..).of ?_

theorem hTobjLoad_kept (c : Cmd) (s : State) : Kept s (hTobjLoad c s).1 := by
  unfold hTobjLoad
  repeat' first
    | with_reducible rfl
    | with_reducible assumption
    | with_reducible refine ite_kept ?_ ?_
    | with_reducible refine ite_fst_kept ?_ ?_
    | dsimp only
    | (with_reducible refine kept_vault ?_; simp only [↓State.mk_vault]; simp only [pending_vault, time_vault, patch_vault, nextPatch_vault, copyA_vault, copyB_vault, update_vault, mem_vault, Vault.eta]; with_reducible refine vault_kept ?_)
    | with_reducible refine (State.addRegion_kept ..).of ?_
    | with_reducible refine (State.updTobj_kept ..).of ?_
    | with_reducible refine (State.beginRead_kept ..).of ?_
    | split

theorem finTobjLoad_kept (c : Cmd) (s : State) : Kept s (finTobjLoad c s) := by
  unfold finTobjLoad
  repeat' first
    | with_reducible rfl
    | with_reducible assumption
    | with_reducible refine ite_kept ?_ ?_
    | with_reducible refine ite_fst_kept ?_ ?_
    | dsimp only
    | (with_reducible refine kept_vault ?_; simp only [↓State.mk_vault]; simp only [pending_vault, time_vault, patch_vault, nextPatch_vault, copyA_vault, copyB_vault, update_vault, mem_vault, Vault.eta]; with_reducible refine vault_kept ?_)
    | with_reducible refine (State.placeImage_kept ..).of ?_
    | with_reducible refine (State.updHome_kept ..).of ?_
    | with_reducible refine (State.updTobj_kept ..).of ?_
    | with_reducible refine (State.endRead_kept ..).of ?_
    | with_reducible refine (State.charge_kept ..).of ?_
    | with_reducible refine (State.commit_kept ..).of ?_
    | split

theorem undoTobjLoad_kept (c : Cmd) (s : State) : Kept s (undoTobjLoad c s) := by
  unfold undoTobjLoad
  repeat' first
    | with_reducible rfl
    | with_reducible assumption
    | with_reducible refine ite_kept ?_ ?_
    | with_reducible refine ite_fst_kept ?_ ?_
    | dsimp only
    | (with_reducible refine kept_vault ?_; simp only [↓State.mk_vault]; simp only [pending_vault, time_vault, patch_vault, nextPatch_vault, copyA_vault, copyB_vault, update_vault, mem_vault, Vault.eta]; with_reducible refine vault_kept ?_)
    | with_reducible refine (State.dropRegion_kept ..).of ?_
    | with_reducible refine (State.updTobj_kept ..).of ?_
    | with_reducible refine (State.endRead_kept ..).of ?_
    | split

theorem hTobjFlush_kept (c : Cmd) (s : State) : Kept s (hTobjFlush c s).1 := by
  unfold hTobjFlush
  repeat' first
    | with_reducible rfl
    | with_reducible assumption
    | with_reducible refine ite_kept ?_ ?_
    | with_reducible refine ite_fst_kept ?_ ?_
    | dsimp only
    | (with_reducible refine kept_vault ?_; simp only [↓State.mk_vault]; simp only [pending_vault, time_vault, patch_vault, nextPatch_vault, copyA_vault, copyB_vault, update_vault, mem_vault, Vault.eta]; with_reducible refine vault_kept ?_)
    | with_reducible refine (State.updHome_kept ..).of ?_
    | with_reducible refine (State.updTobj_kept ..).of ?_
    | split

theorem State.writeBack_kept (s : State) (id : Nat) (t : Tobj) (r : Region) : Kept s (State.writeBack s id t r) := by
  unfold State.writeBack
  repeat' first
    | with_reducible rfl
    | with_reducible assumption
    | with_reducible refine ite_kept ?_ ?_
    | with_reducible refine ite_fst_kept ?_ ?_
    | dsimp only
    | (with_reducible refine kept_vault ?_; simp only [↓State.mk_vault]; simp only [pending_vault, time_vault, patch_vault, nextPatch_vault, copyA_vault, copyB_vault, update_vault, mem_vault, Vault.eta]; with_reducible refine vault_kept ?_)
    | with_reducible refine (State.updTobj_kept ..).of ?_
    | with_reducible refine (State.charge_kept ..).of ?_
    | with_reducible refine (State.bump_kept ..).of ?_

theorem finTobjFlush_kept (c : Cmd) (s : State) : Kept s (finTobjFlush c s) := by
  unfold finTobjFlush
  repeat' first
    | with_reducible rfl
    | with_reducible assumption
    | with_reducible refine ite_kept ?_ ?_
    | with_reducible refine ite_fst_kept ?_ ?_
    | dsimp only
    | (with_reducible refine kept_vault ?_; simp only [↓State.mk_vault]; simp only [pending_vault, time_vault, patch_vault, nextPatch_vault, copyA_vault, copyB_vault, update_vault, mem_vault, Vault.eta]; with_reducible refine vault_kept ?_)
    | with_reducible refine (State.writeBack_kept ..).of ?_
    | with_reducible refine (State.updTobj_kept ..).of ?_
    | with_reducible refine (State.commit_kept ..).of ?_
    | split

theorem undoTobjFlush_kept (c : Cmd) (s : State) : Kept s (undoTobjFlush c s) := by
  unfold undoTobjFlush
  repeat' first
    | with_reducible rfl
    | with_reducible assumption
    | with_reducible refine ite_kept ?_ ?_
    | with_reducible refine ite_fst_kept ?_ ?_
    | dsimp only
    | (with_reducible refine kept_vault ?_; simp only [↓State.mk_vault]; simp only [pending_vault, time_vault, patch_vault, nextPatch_vault, copyA_vault, copyB_vault, update_vault, mem_vault, Vault.eta]; with_reducible refine vault_kept ?_)
    | with_reducible refine (State.updHome_kept ..).of ?_
    | with_reducible refine (State.updTobj_kept ..).of ?_
    | split

theorem hTobjEvict_kept (c : Cmd) (s : State) : Kept s (hTobjEvict c s).1 := by
  unfold hTobjEvict
  repeat' first
    | with_reducible rfl
    | with_reducible assumption
    | with_reducible refine ite_kept ?_ ?_
    | with_reducible refine ite_fst_kept ?_ ?_
    | dsimp only
    | (with_reducible refine kept_vault ?_; simp only [↓State.mk_vault]; simp only [pending_vault, time_vault, patch_vault, nextPatch_vault, copyA_vault, copyB_vault, update_vault, mem_vault, Vault.eta]; with_reducible refine vault_kept ?_)
    | with_reducible refine (State.beginDrain_kept ..).of ?_
    | with_reducible refine (State.updTobj_kept ..).of ?_
    | with_reducible refine (State.updCmd_kept ..).of ?_
    | split

theorem undoTobjEvict_kept (c : Cmd) (s : State) : Kept s (undoTobjEvict c s) := by
  unfold undoTobjEvict
  repeat' first
    | with_reducible rfl
    | with_reducible assumption
    | with_reducible refine ite_kept ?_ ?_
    | with_reducible refine ite_fst_kept ?_ ?_
    | dsimp only
    | (with_reducible refine kept_vault ?_; simp only [↓State.mk_vault]; simp only [pending_vault, time_vault, patch_vault, nextPatch_vault, copyA_vault, copyB_vault, update_vault, mem_vault, Vault.eta]; with_reducible refine vault_kept ?_)
    | with_reducible refine (State.updHome_kept ..).of ?_
    | with_reducible refine (State.updTobj_kept ..).of ?_
    | split

theorem finTobjEvict_kept (c : Cmd) (s : State) : Kept s (finTobjEvict c s) := by
  unfold finTobjEvict
  repeat' first
    | with_reducible rfl
    | with_reducible assumption
    | with_reducible refine ite_kept ?_ ?_
    | with_reducible refine ite_fst_kept ?_ ?_
    | dsimp only
    | (with_reducible refine kept_vault ?_; simp only [↓State.mk_vault]; simp only [pending_vault, time_vault, patch_vault, nextPatch_vault, copyA_vault, copyB_vault, update_vault, mem_vault, Vault.eta]; with_reducible refine vault_kept ?_)
    | with_reducible refine (undoTobjEvict_kept ..).of ?_
    | with_reducible refine (State.complete_kept ..).of ?_
    | with_reducible refine (State.writeBack_kept ..).of ?_
    | with_reducible refine (State.commit_kept ..).of ?_
    | with_reducible refine (State.dropRegion_kept ..).of ?_
    | with_reducible refine (State.updTobj_kept ..).of ?_
    | split

theorem hTobjDestroy_kept (c : Cmd) (s : State) : Kept s (hTobjDestroy c s).1 := by
  unfold hTobjDestroy
  repeat' first
    | with_reducible rfl
    | with_reducible assumption
    | with_reducible refine ite_kept ?_ ?_
    | with_reducible refine ite_fst_kept ?_ ?_
    | dsimp only
    | (with_reducible refine kept_vault ?_; simp only [↓State.mk_vault]; simp only [pending_vault, time_vault, patch_vault, nextPatch_vault, copyA_vault, copyB_vault, update_vault, mem_vault, Vault.eta]; with_reducible refine vault_kept ?_)
    | split

theorem hTobjQuery_kept (c : Cmd) (s : State) : Kept s (hTobjQuery c s).1 := by
  unfold hTobjQuery
  repeat' first
    | with_reducible rfl
    | with_reducible assumption
    | with_reducible refine ite_kept ?_ ?_
    | with_reducible refine ite_fst_kept ?_ ?_
    | dsimp only
    | (with_reducible refine kept_vault ?_; simp only [↓State.mk_vault]; simp only [pending_vault, time_vault, patch_vault, nextPatch_vault, copyA_vault, copyB_vault, update_vault, mem_vault, Vault.eta]; with_reducible refine vault_kept ?_)
    | split

theorem State.updWpkg_kept (s : State) (n : Nat) (f : Wpkg → Wpkg) : Kept s (State.updWpkg s n f) := by
  unfold State.updWpkg
  repeat' first
    | with_reducible rfl
    | with_reducible assumption
    | with_reducible refine ite_kept ?_ ?_
    | with_reducible refine ite_fst_kept ?_ ?_
    | dsimp only
    | (with_reducible refine kept_vault ?_; simp only [↓State.mk_vault]; simp only [pending_vault, time_vault, patch_vault, nextPatch_vault, copyA_vault, copyB_vault, update_vault, mem_vault, Vault.eta]; with_reducible refine vault_kept ?_)

theorem hWpkgOpen_kept (c : Cmd) (s : State) : Kept s (hWpkgOpen c s).1 := by
  unfold hWpkgOpen
  repeat' first
    | with_reducible rfl
    | with_reducible assumption
    | with_reducible refine ite_kept ?_ ?_
    | with_reducible refine ite_fst_kept ?_ ?_
    | dsimp only
    | (with_reducible refine kept_vault ?_; simp only [↓State.mk_vault]; simp only [pending_vault, time_vault, patch_vault, nextPatch_vault, copyA_vault, copyB_vault, update_vault, mem_vault, Vault.eta]; with_reducible refine vault_kept ?_)

theorem hWpkgWrite_kept (c : Cmd) (s : State) : Kept s (hWpkgWrite c s).1 := by
  unfold hWpkgWrite
  repeat' first
    | with_reducible rfl
    | with_reducible assumption
    | with_reducible refine ite_kept ?_ ?_
    | with_reducible refine ite_fst_kept ?_ ?_
    | dsimp only
    | (with_reducible refine kept_vault ?_; simp only [↓State.mk_vault]; simp only [pending_vault, time_vault, patch_vault, nextPatch_vault, copyA_vault, copyB_vault, update_vault, mem_vault, Vault.eta]; with_reducible refine vault_kept ?_)
    | split

theorem finWpkgWrite_kept (c : Cmd) (s : State) : Kept s (finWpkgWrite c s) := by
  unfold finWpkgWrite
  repeat' first
    | with_reducible rfl
    | with_reducible assumption
    | with_reducible refine ite_kept ?_ ?_
    | with_reducible refine ite_fst_kept ?_ ?_
    | dsimp only
    | (with_reducible refine kept_vault ?_; simp only [↓State.mk_vault]; simp only [pending_vault, time_vault, patch_vault, nextPatch_vault, copyA_vault, copyB_vault, update_vault, mem_vault, Vault.eta]; with_reducible refine vault_kept ?_)
    | with_reducible refine (State.updWpkg_kept ..).of ?_
    | with_reducible refine (State.charge_kept ..).of ?_
    | with_reducible refine (State.complete_kept ..).of ?_

theorem undoWpkgWrite_kept (c : Cmd) (s : State) : Kept s (undoWpkgWrite c s) := by
  unfold undoWpkgWrite
  repeat' first
    | with_reducible rfl
    | with_reducible assumption
    | with_reducible refine ite_kept ?_ ?_
    | with_reducible refine ite_fst_kept ?_ ?_
    | dsimp only
    | (with_reducible refine kept_vault ?_; simp only [↓State.mk_vault]; simp only [pending_vault, time_vault, patch_vault, nextPatch_vault, copyA_vault, copyB_vault, update_vault, mem_vault, Vault.eta]; with_reducible refine vault_kept ?_)
    | with_reducible refine (State.updWpkg_kept ..).of ?_
    | with_reducible refine (State.bump_kept ..).of ?_

theorem hWpkgCommit_kept (c : Cmd) (s : State) : Kept s (hWpkgCommit c s).1 := by
  unfold hWpkgCommit
  repeat' first
    | with_reducible rfl
    | with_reducible assumption
    | with_reducible refine ite_kept ?_ ?_
    | with_reducible refine ite_fst_kept ?_ ?_
    | dsimp only
    | (with_reducible refine kept_vault ?_; simp only [↓State.mk_vault]; simp only [pending_vault, time_vault, patch_vault, nextPatch_vault, copyA_vault, copyB_vault, update_vault, mem_vault, Vault.eta]; with_reducible refine vault_kept ?_)
    | with_reducible refine (State.beginRead_kept ..).of ?_
    | split

theorem finWpkgCommit_kept (c : Cmd) (s : State) : Kept s (finWpkgCommit c s) := by
  unfold finWpkgCommit
  repeat' first
    | with_reducible rfl
    | with_reducible assumption
    | with_reducible refine ite_kept ?_ ?_
    | with_reducible refine ite_fst_kept ?_ ?_
    | dsimp only
    | (with_reducible refine kept_vault ?_; simp only [↓State.mk_vault]; simp only [pending_vault, time_vault, patch_vault, nextPatch_vault, copyA_vault, copyB_vault, update_vault, mem_vault, Vault.eta]; with_reducible refine vault_kept ?_)
    | with_reducible refine (State.endRead_kept ..).of ?_
    | with_reducible refine (State.complete_kept ..).of ?_
    | with_reducible refine (State.updWpkg_kept ..).of ?_
    | with_reducible refine (State.updFlash_kept ..).of ?_
    | with_reducible refine (State.commit_kept ..).of ?_
    | split

theorem undoRead_kept (c : Cmd) (s : State) : Kept s (undoRead c s) := by
  unfold undoRead
  repeat' first
    | with_reducible rfl
    | with_reducible assumption
    | with_reducible refine ite_kept ?_ ?_
    | with_reducible refine ite_fst_kept ?_ ?_
    | dsimp only
    | (with_reducible refine kept_vault ?_; simp only [↓State.mk_vault]; simp only [pending_vault, time_vault, patch_vault, nextPatch_vault, copyA_vault, copyB_vault, update_vault, mem_vault, Vault.eta]; with_reducible refine vault_kept ?_)
    | with_reducible refine (State.endRead_kept ..).of ?_

theorem hWpkgDelete_kept (c : Cmd) (s : State) : Kept s (hWpkgDelete c s).1 := by
  unfold hWpkgDelete
  repeat' first
    | with_reducible rfl
    | with_reducible assumption
    | with_reducible refine ite_kept ?_ ?_
    | with_reducible refine ite_fst_kept ?_ ?_
    | dsimp only
    | (with_reducible refine kept_vault ?_; simp only [↓State.mk_vault]; simp only [pending_vault, time_vault, patch_vault, nextPatch_vault, copyA_vault, copyB_vault, update_vault, mem_vault, Vault.eta]; with_reducible refine vault_kept ?_)
    | split

theorem hWpkgGrant_kept (c : Cmd) (s : State) : Kept s (hWpkgGrant c s).1 := by
  unfold hWpkgGrant
  repeat' first
    | with_reducible rfl
    | with_reducible assumption
    | with_reducible refine ite_kept ?_ ?_
    | with_reducible refine ite_fst_kept ?_ ?_
    | dsimp only
    | (with_reducible refine kept_vault ?_; simp only [↓State.mk_vault]; simp only [pending_vault, time_vault, patch_vault, nextPatch_vault, copyA_vault, copyB_vault, update_vault, mem_vault, Vault.eta]; with_reducible refine vault_kept ?_)
    | with_reducible refine (State.updWpkg_kept ..).of ?_
    | split

theorem hFlashLayout_kept (c : Cmd) (s : State) : Kept s (hFlashLayout c s).1 := by
  unfold hFlashLayout
  repeat' first
    | with_reducible rfl
    | with_reducible assumption
    | with_reducible refine ite_kept ?_ ?_
    | with_reducible refine ite_fst_kept ?_ ?_
    | dsimp only
    | (with_reducible refine kept_vault ?_; simp only [↓State.mk_vault]; simp only [pending_vault, time_vault, patch_vault, nextPatch_vault, copyA_vault, copyB_vault, update_vault, mem_vault, Vault.eta]; with_reducible refine vault_kept ?_)
    | with_reducible refine (State.updFlash_kept ..).of ?_

theorem freeResp_kept (which j n : Nat) (s : State) (c : Cmd) : Kept s (freeResp which j n s c).1 := by
  unfold freeResp
  repeat' first
    | with_reducible rfl
    | with_reducible assumption
    | with_reducible refine ite_kept ?_ ?_
    | with_reducible refine ite_fst_kept ?_ ?_
    | dsimp only
    | (with_reducible refine kept_vault ?_; simp only [↓State.mk_vault]; simp only [pending_vault, time_vault, patch_vault, nextPatch_vault, copyA_vault, copyB_vault, update_vault, mem_vault, Vault.eta]; with_reducible refine vault_kept ?_)
    | with_reducible refine (State.awWrite_kept ..).of ?_
    | split

theorem hFlashQuery_kept (c : Cmd) (s : State) : Kept s (hFlashQuery c s).1 := by
  unfold hFlashQuery
  repeat' first
    | with_reducible rfl
    | with_reducible assumption
    | with_reducible refine ite_kept ?_ ?_
    | with_reducible refine ite_fst_kept ?_ ?_
    | dsimp only
    | (with_reducible refine kept_vault ?_; simp only [↓State.mk_vault]; simp only [pending_vault, time_vault, patch_vault, nextPatch_vault, copyA_vault, copyB_vault, update_vault, mem_vault, Vault.eta]; with_reducible refine vault_kept ?_)
    | with_reducible refine (freeResp_kept ..).of ?_

end Sys2Proof.Machine
end

