-- ==== Sys2Proof/Laws/KeptWindows.lean ====
section
/-!
SUPPORT. The operations of Machine/Windows keep what Kept says.
-/

set_option Elab.async false

namespace Sys2Proof.Machine

theorem State.updWwin_kept (s : State) (w : Nat) (f : Wwin → Wwin) : Kept s (State.updWwin s w f) := by
  unfold State.updWwin
  repeat' first
    | with_reducible rfl
    | with_reducible assumption
    | with_reducible refine ite_kept ?_ ?_
    | with_reducible refine ite_fst_kept ?_ ?_
    | dsimp only
    | (with_reducible refine kept_vault ?_; simp only [↓State.mk_vault]; simp only [pending_vault, time_vault, patch_vault, nextPatch_vault, copyA_vault, copyB_vault, update_vault, mem_vault, Vault.eta]; with_reducible refine vault_kept ?_)

theorem State.semSet_kept (s : State) (die i v : Nat) : Kept s (State.semSet s die i v) := by
  unfold State.semSet
  repeat' first
    | with_reducible rfl
    | with_reducible assumption
    | with_reducible refine ite_kept ?_ ?_
    | with_reducible refine ite_fst_kept ?_ ?_
    | dsimp only
    | (with_reducible refine kept_vault ?_; simp only [↓State.mk_vault]; simp only [pending_vault, time_vault, patch_vault, nextPatch_vault, copyA_vault, copyB_vault, update_vault, mem_vault, Vault.eta]; with_reducible refine vault_kept ?_)
    | with_reducible refine (State.setSem_kept ..).of ?_

theorem State.primeSems_kept (s : State) (v : Wwin) (n0 j : Nat) : Kept s (State.primeSems s v n0 j) := by
  unfold State.primeSems
  repeat' first
    | with_reducible rfl
    | with_reducible assumption
    | with_reducible refine ite_kept ?_ ?_
    | with_reducible refine ite_fst_kept ?_ ?_
    | dsimp only
    | (with_reducible refine kept_vault ?_; simp only [↓State.mk_vault]; simp only [pending_vault, time_vault, patch_vault, nextPatch_vault, copyA_vault, copyB_vault, update_vault, mem_vault, Vault.eta]; with_reducible refine vault_kept ?_)
    | with_reducible refine (State.semSet_kept ..).of ?_
    | (with_reducible refine (foldl_kept ?_ _ _).of ?_ <;> try intro _ _)

theorem hWwinStart_go_kept (c : Cmd) (w : Nat) (s : State) : Kept s (hWwinStart.go c w s).1 := by
  simp only [hWwinStart.go]
  split
  · rfl
  · exact State.primeSems_kept ..

theorem hWwinStart_kept (c : Cmd) (s : State) : Kept s (hWwinStart c s).1 := by
  simp only [hWwinStart]
  repeat' first
    | rfl
    | exact hWwinStart_go_kept ..
    | split

theorem hWwinStop_kept (c : Cmd) (s : State) : Kept s (hWwinStop c s).1 := by
  unfold hWwinStop
  repeat' first
    | with_reducible rfl
    | with_reducible assumption
    | with_reducible refine ite_kept ?_ ?_
    | with_reducible refine ite_fst_kept ?_ ?_
    | dsimp only
    | (with_reducible refine kept_vault ?_; simp only [↓State.mk_vault]; simp only [pending_vault, time_vault, patch_vault, nextPatch_vault, copyA_vault, copyB_vault, update_vault, mem_vault, Vault.eta]; with_reducible refine vault_kept ?_)
    | with_reducible refine (State.updWwin_kept ..).of ?_
    | split

theorem hWwinQuery_kept (c : Cmd) (s : State) : Kept s (hWwinQuery c s).1 := by
  unfold hWwinQuery
  repeat' first
    | with_reducible rfl
    | with_reducible assumption
    | with_reducible refine ite_kept ?_ ?_
    | with_reducible refine ite_fst_kept ?_ ?_
    | dsimp only
    | (with_reducible refine kept_vault ?_; simp only [↓State.mk_vault]; simp only [pending_vault, time_vault, patch_vault, nextPatch_vault, copyA_vault, copyB_vault, update_vault, mem_vault, Vault.eta]; with_reducible refine vault_kept ?_)
    | with_reducible refine (freeResp_kept ..).of ?_
    | split

theorem State.turnWindow_kept (s : State) (w : Nat) : Kept s (State.turnWindow s w) := by
  unfold State.turnWindow
  repeat' first
    | with_reducible rfl
    | with_reducible assumption
    | with_reducible refine ite_kept ?_ ?_
    | with_reducible refine ite_fst_kept ?_ ?_
    | dsimp only
    | (with_reducible refine kept_vault ?_; simp only [↓State.mk_vault]; simp only [pending_vault, time_vault, patch_vault, nextPatch_vault, copyA_vault, copyB_vault, update_vault, mem_vault, Vault.eta]; with_reducible refine vault_kept ?_)
    | with_reducible refine (State.endRead_kept ..).of ?_
    | with_reducible refine (State.beginRead_kept ..).of ?_
    | split

theorem wwPositionRead_kept (w : Nat) (s : State) : Kept s (wwPositionRead w s) := by
  unfold wwPositionRead
  repeat' first
    | with_reducible rfl
    | with_reducible assumption
    | with_reducible refine ite_kept ?_ ?_
    | with_reducible refine ite_fst_kept ?_ ?_
    | dsimp only
    | (with_reducible refine kept_vault ?_; simp only [↓State.mk_vault]; simp only [pending_vault, time_vault, patch_vault, nextPatch_vault, copyA_vault, copyB_vault, update_vault, mem_vault, Vault.eta]; with_reducible refine vault_kept ?_)
    | with_reducible refine (State.charge_kept ..).of ?_
    | with_reducible refine (State.chargeLines_kept ..).of ?_
    | with_reducible refine (State.updWwin_kept ..).of ?_
    | with_reducible refine (State.turnWindow_kept ..).of ?_
    | split

theorem State.placeLayer_kept (s : State) (p : Nat) (bs : List Byte) (slots : List Nat) : Kept s (State.placeLayer s p bs slots) := by
  unfold State.placeLayer
  repeat' first
    | with_reducible rfl
    | with_reducible assumption
    | with_reducible refine ite_kept ?_ ?_
    | with_reducible refine ite_fst_kept ?_ ?_
    | dsimp only
    | (with_reducible refine kept_vault ?_; simp only [↓State.mk_vault]; simp only [pending_vault, time_vault, patch_vault, nextPatch_vault, copyA_vault, copyB_vault, update_vault, mem_vault, Vault.eta]; with_reducible refine vault_kept ?_)
    | with_reducible refine (State.write_kept ..).of ?_
    | with_reducible refine (MapEdit.write_kept ..).of ?_
    | with_reducible refine (State.chargeLines_kept ..).of ?_
    | (with_reducible refine (foldl_kept ?_ _ _).of ?_ <;> try intro _ _)

theorem State.settleStop_kept (s : State) (w : Nat) : Kept s (State.settleStop s w) := by
  unfold State.settleStop
  repeat' first
    | with_reducible rfl
    | with_reducible assumption
    | with_reducible refine ite_kept ?_ ?_
    | with_reducible refine ite_fst_kept ?_ ?_
    | dsimp only
    | (with_reducible refine kept_vault ?_; simp only [↓State.mk_vault]; simp only [pending_vault, time_vault, patch_vault, nextPatch_vault, copyA_vault, copyB_vault, update_vault, mem_vault, Vault.eta]; with_reducible refine vault_kept ?_)
    | with_reducible refine (State.updWwin_kept ..).of ?_
    | with_reducible refine (State.complete_kept ..).of ?_
    | split

theorem layerArrives_kept (w : Nat) (v : Wwin) (n : Nat) (bs : List Byte) (s : State) : Kept s (layerArrives w v n bs s) := by
  unfold layerArrives
  repeat' first
    | with_reducible rfl
    | with_reducible assumption
    | with_reducible refine ite_kept ?_ ?_
    | with_reducible refine ite_fst_kept ?_ ?_
    | dsimp only
    | (with_reducible refine kept_vault ?_; simp only [↓State.mk_vault]; simp only [pending_vault, time_vault, patch_vault, nextPatch_vault, copyA_vault, copyB_vault, update_vault, mem_vault, Vault.eta]; with_reducible refine vault_kept ?_)
    | with_reducible refine (State.placeLayer_kept ..).of ?_
    | with_reducible refine (State.signalOr_kept ..).of ?_
    | with_reducible refine (State.updWwin_kept ..).of ?_
    | with_reducible refine (State.settleStop_kept ..).of ?_
    | with_reducible refine (State.turnWindow_kept ..).of ?_
    | (with_reducible refine (foldl_kept ?_ _ _).of ?_ <;> try intro _ _)

theorem rungArrives_kept (w : Nat) (v : Wwin) (bs : List Byte) (s : State) : Kept s (rungArrives w v bs s) := by
  unfold rungArrives
  repeat' first
    | with_reducible rfl
    | with_reducible assumption
    | with_reducible refine ite_kept ?_ ?_
    | with_reducible refine ite_fst_kept ?_ ?_
    | dsimp only
    | (with_reducible refine kept_vault ?_; simp only [↓State.mk_vault]; simp only [pending_vault, time_vault, patch_vault, nextPatch_vault, copyA_vault, copyB_vault, update_vault, mem_vault, Vault.eta]; with_reducible refine vault_kept ?_)
    | with_reducible refine (State.placeLayer_kept ..).of ?_
    | with_reducible refine (State.signalOr_kept ..).of ?_
    | with_reducible refine (State.updWwin_kept ..).of ?_
    | with_reducible refine (State.turnWindow_kept ..).of ?_
    | (with_reducible refine (foldl_kept ?_ _ _).of ?_ <;> try intro _ _)

theorem State.restartWindow_kept (s : State) (w n0 j : Nat) : Kept s (State.restartWindow s w n0 j) := by
  unfold State.restartWindow
  repeat' first
    | with_reducible rfl
    | with_reducible assumption
    | with_reducible refine ite_kept ?_ ?_
    | with_reducible refine ite_fst_kept ?_ ?_
    | dsimp only
    | (with_reducible refine kept_vault ?_; simp only [↓State.mk_vault]; simp only [pending_vault, time_vault, patch_vault, nextPatch_vault, copyA_vault, copyB_vault, update_vault, mem_vault, Vault.eta]; with_reducible refine vault_kept ?_)
    | with_reducible refine (State.primeSems_kept ..).of ?_
    | with_reducible refine (State.updWwin_kept ..).of ?_
    | with_reducible refine (State.endRead_kept ..).of ?_
    | split

end Sys2Proof.Machine
end

