-- ==== Sys2Proof/Laws/KeptImages.lean ====
section
/-!
SUPPORT. The operations of Machine/Images keep what Kept says.
-/

set_option Elab.async false

namespace Sys2Proof.Machine

theorem State.flushICaches_kept (s : State) (p : Nat) : Kept s (State.flushICaches s p) := by
  unfold State.flushICaches
  repeat' first
    | with_reducible rfl
    | with_reducible assumption
    | with_reducible refine ite_kept ?_ ?_
    | with_reducible refine ite_fst_kept ?_ ?_
    | dsimp only
    | (with_reducible refine kept_vault ?_; simp only [↓State.mk_vault]; simp only [pending_vault, time_vault, patch_vault, nextPatch_vault, copyA_vault, copyB_vault, update_vault, mem_vault, Vault.eta]; with_reducible refine vault_kept ?_)
    | with_reducible refine (State.updCore_kept ..).of ?_
    | (with_reducible refine (foldl_kept ?_ _ _).of ?_ <;> try intro _ _)

theorem hImgLoad_kept (c : Cmd) (s : State) : Kept s (hImgLoad c s).1 := by
  unfold hImgLoad
  repeat' first
    | with_reducible rfl
    | with_reducible assumption
    | with_reducible refine ite_kept ?_ ?_
    | with_reducible refine ite_fst_kept ?_ ?_

theorem finImgLoad_kept (c : Cmd) (s : State) : Kept s (finImgLoad c s) := by
  unfold finImgLoad
  repeat' first
    | with_reducible rfl
    | with_reducible assumption
    | with_reducible refine ite_kept ?_ ?_
    | with_reducible refine ite_fst_kept ?_ ?_
    | dsimp only
    | (with_reducible refine kept_vault ?_; simp only [↓State.mk_vault]; simp only [pending_vault, time_vault, patch_vault, nextPatch_vault, copyA_vault, copyB_vault, update_vault, mem_vault, Vault.eta]; with_reducible refine vault_kept ?_)
    | with_reducible refine (State.complete_kept ..).of ?_
    | with_reducible refine (State.write_kept ..).of ?_
    | with_reducible refine (MapEdit.write_kept ..).of ?_
    | with_reducible refine (State.flushICaches_kept ..).of ?_
    | split

theorem hImgUnload_kept (c : Cmd) (s : State) : Kept s (hImgUnload c s).1 := by
  unfold hImgUnload
  repeat' first
    | with_reducible rfl
    | with_reducible assumption
    | with_reducible refine ite_kept ?_ ?_
    | with_reducible refine ite_fst_kept ?_ ?_
    | dsimp only
    | (with_reducible refine kept_vault ?_; simp only [↓State.mk_vault]; simp only [pending_vault, time_vault, patch_vault, nextPatch_vault, copyA_vault, copyB_vault, update_vault, mem_vault, Vault.eta]; with_reducible refine vault_kept ?_)
    | split

theorem hImgQuery_kept (c : Cmd) (s : State) : Kept s (hImgQuery c s).1 := by
  unfold hImgQuery
  repeat' first
    | with_reducible rfl
    | with_reducible assumption
    | with_reducible refine ite_kept ?_ ?_
    | with_reducible refine ite_fst_kept ?_ ?_
    | dsimp only
    | (with_reducible refine kept_vault ?_; simp only [↓State.mk_vault]; simp only [pending_vault, time_vault, patch_vault, nextPatch_vault, copyA_vault, copyB_vault, update_vault, mem_vault, Vault.eta]; with_reducible refine vault_kept ?_)
    | with_reducible refine (freeResp_kept ..).of ?_
    | split

theorem State.fillTables_kept (s : State) (p c : Nat) : Kept s (State.fillTables s p c) := by
  refine kept_mem ?_ ?_ ?_ ?_ ?_ (fun h => State.fillTables_wf h p c)
  all_goals
    unfold State.fillTables
    split <;> rfl

theorem State.giveCore_kept (s : State) (p c : Nat) : Kept s (State.giveCore s p c) := by
  unfold State.giveCore
  repeat' first
    | with_reducible rfl
    | with_reducible assumption
    | with_reducible refine ite_kept ?_ ?_
    | with_reducible refine ite_fst_kept ?_ ?_
    | dsimp only
    | (with_reducible refine kept_vault ?_; simp only [↓State.mk_vault]; simp only [pending_vault, time_vault, patch_vault, nextPatch_vault, copyA_vault, copyB_vault, update_vault, mem_vault, Vault.eta]; with_reducible refine vault_kept ?_)
    | with_reducible refine (State.fillTables_kept ..).of ?_

theorem State.loadTable_kept (s : State) (c tid : Nat) (bs : List Byte) : Kept s (State.loadTable s c tid bs) := by
  unfold State.loadTable
  repeat' first
    | with_reducible rfl
    | with_reducible assumption
    | with_reducible refine ite_kept ?_ ?_
    | with_reducible refine ite_fst_kept ?_ ?_
    | dsimp only
    | (with_reducible refine kept_vault ?_; simp only [↓State.mk_vault]; simp only [pending_vault, time_vault, patch_vault, nextPatch_vault, copyA_vault, copyB_vault, update_vault, mem_vault, Vault.eta]; with_reducible refine vault_kept ?_)
    | with_reducible refine (State.write_kept ..).of ?_
    | with_reducible refine (MapEdit.write_kept ..).of ?_
    | with_reducible refine (State.startCommit_kept ..).of ?_
    | (with_reducible refine (foldl_kept ?_ _ _).of ?_ <;> try intro _ _)

theorem State.tblStep_kept (s : State) (c : Cmd) : Kept s (State.tblStep s c) := by
  unfold State.tblStep
  repeat' first
    | with_reducible rfl
    | with_reducible assumption
    | with_reducible refine ite_kept ?_ ?_
    | with_reducible refine ite_fst_kept ?_ ?_
    | dsimp only
    | (with_reducible refine kept_vault ?_; simp only [↓State.mk_vault]; simp only [pending_vault, time_vault, patch_vault, nextPatch_vault, copyA_vault, copyB_vault, update_vault, mem_vault, Vault.eta]; with_reducible refine vault_kept ?_)
    | with_reducible refine (State.loadTable_kept ..).of ?_
    | with_reducible refine (State.complete_kept ..).of ?_
    | with_reducible refine (State.updCmd_kept ..).of ?_
    | (with_reducible refine (foldl_kept ?_ _ _).of ?_ <;> try intro _ _)

theorem hTblLoad_kept (c : Cmd) (s : State) : Kept s (hTblLoad c s).1 := by
  unfold hTblLoad
  repeat' first
    | with_reducible rfl
    | with_reducible assumption
    | with_reducible refine ite_kept ?_ ?_
    | with_reducible refine ite_fst_kept ?_ ?_
    | dsimp only
    | (with_reducible refine kept_vault ?_; simp only [↓State.mk_vault]; simp only [pending_vault, time_vault, patch_vault, nextPatch_vault, copyA_vault, copyB_vault, update_vault, mem_vault, Vault.eta]; with_reducible refine vault_kept ?_)
    | with_reducible refine (State.updPart_kept ..).of ?_
    | with_reducible refine (State.updCmd_kept ..).of ?_
    | with_reducible refine (State.tblStep_kept ..).of ?_
    | split

theorem State.tblAdvance_kept (s : State) : Kept s (State.tblAdvance s) := by
  unfold State.tblAdvance
  repeat' first
    | with_reducible rfl
    | with_reducible assumption
    | with_reducible refine ite_kept ?_ ?_
    | with_reducible refine ite_fst_kept ?_ ?_
    | dsimp only
    | (with_reducible refine kept_vault ?_; simp only [↓State.mk_vault]; simp only [pending_vault, time_vault, patch_vault, nextPatch_vault, copyA_vault, copyB_vault, update_vault, mem_vault, Vault.eta]; with_reducible refine vault_kept ?_)
    | with_reducible refine (State.tblStep_kept ..).of ?_
    | (with_reducible refine (foldl_kept ?_ _ _).of ?_ <;> try intro _ _)

theorem State.clearRanges_kept (s : State) (q : Part) : Kept s (State.clearRanges s q) := by
  unfold State.clearRanges
  repeat' first
    | with_reducible rfl
    | with_reducible assumption
    | with_reducible refine ite_kept ?_ ?_
    | with_reducible refine ite_fst_kept ?_ ?_
    | dsimp only
    | (with_reducible refine kept_vault ?_; simp only [↓State.mk_vault]; simp only [pending_vault, time_vault, patch_vault, nextPatch_vault, copyA_vault, copyB_vault, update_vault, mem_vault, Vault.eta]; with_reducible refine vault_kept ?_)

theorem hPartCreate_kept (c : Cmd) (s : State) : Kept s (hPartCreate c s).1 := by
  unfold hPartCreate
  refine withPb_kept _ _ _ ?_ _ _
  intro c bs s
  repeat' first
    | with_reducible rfl
    | with_reducible assumption
    | with_reducible refine ite_kept ?_ ?_
    | with_reducible refine ite_fst_kept ?_ ?_
    | dsimp only
    | (with_reducible refine kept_vault ?_; simp only [↓State.mk_vault]; simp only [pending_vault, time_vault, patch_vault, nextPatch_vault, copyA_vault, copyB_vault, update_vault, mem_vault, Vault.eta]; with_reducible refine vault_kept ?_)
    | with_reducible refine (State.clearRanges_kept ..).of ?_

theorem hPartDestroy_kept (c : Cmd) (s : State) : Kept s (hPartDestroy c s).1 := by
  unfold hPartDestroy
  repeat' first
    | with_reducible rfl
    | with_reducible assumption
    | with_reducible refine ite_kept ?_ ?_
    | with_reducible refine ite_fst_kept ?_ ?_
    | dsimp only
    | (with_reducible refine kept_vault ?_; simp only [↓State.mk_vault]; simp only [pending_vault, time_vault, patch_vault, nextPatch_vault, copyA_vault, copyB_vault, update_vault, mem_vault, Vault.eta]; with_reducible refine vault_kept ?_)
    | with_reducible refine (State.updPart_kept ..).of ?_
    | split

theorem finPartDestroy_kept (c : Cmd) (s : State) : Kept s (finPartDestroy c s) := by
  unfold finPartDestroy
  repeat' first
    | with_reducible rfl
    | with_reducible assumption
    | with_reducible refine ite_kept ?_ ?_
    | with_reducible refine ite_fst_kept ?_ ?_
    | dsimp only
    | (with_reducible refine kept_vault ?_; simp only [↓State.mk_vault]; simp only [pending_vault, time_vault, patch_vault, nextPatch_vault, copyA_vault, copyB_vault, update_vault, mem_vault, Vault.eta]; with_reducible refine vault_kept ?_)
    | with_reducible refine (State.complete_kept ..).of ?_
    | with_reducible refine (State.zero_kept ..).of ?_
    | with_reducible refine (State.updCore_kept ..).of ?_
    | with_reducible refine (State.clearRanges_kept ..).of ?_
    | (with_reducible refine (foldl_kept ?_ _ _).of ?_ <;> try intro _ _)
    | split

theorem State.takeSaves_kept {p : Nat} {cs : List Nat} {s t : State} (h : State.takeSaves p cs s = some t) : Kept s t := by
  induction cs generalizing s with
  | nil => cases h; rfl
  | cons c cs ih =>
    simp only [State.takeSaves] at h
    repeat' split at h
    all_goals first
      | (cases h; done)
      | exact (ih h).of (State.allocGranules_kept ..)

theorem State.corePowerOff_kept (s : State) (c : Nat) : Kept s (State.corePowerOff s c) :=
  kept_mem rfl rfl rfl rfl rfl (fun h => State.corePowerOff_wf h c)

theorem State.passOff_kept (s : State) (c : Nat) : Kept s (State.passOff s c) := by
  unfold State.passOff
  repeat' first
    | with_reducible rfl
    | with_reducible assumption
    | with_reducible refine ite_kept ?_ ?_
    | with_reducible refine ite_fst_kept ?_ ?_
    | dsimp only
    | (with_reducible refine kept_vault ?_; simp only [↓State.mk_vault]; simp only [pending_vault, time_vault, patch_vault, nextPatch_vault, copyA_vault, copyB_vault, update_vault, mem_vault, Vault.eta]; with_reducible refine vault_kept ?_)
    | with_reducible refine (State.corePowerOff_kept ..).of ?_
    | with_reducible refine (State.updCore_kept ..).of ?_

theorem State.assignFox_kept (s : State) (p u : Nat) : Kept s (State.assignFox s p u) := by
  unfold State.assignFox
  repeat' first
    | with_reducible rfl
    | with_reducible assumption
    | with_reducible refine ite_kept ?_ ?_
    | with_reducible refine ite_fst_kept ?_ ?_
    | dsimp only
    | (with_reducible refine kept_vault ?_; simp only [↓State.mk_vault]; simp only [pending_vault, time_vault, patch_vault, nextPatch_vault, copyA_vault, copyB_vault, update_vault, mem_vault, Vault.eta]; with_reducible refine vault_kept ?_)
    | with_reducible refine (State.updFox_kept ..).of ?_

theorem hPartAssign_kept (c : Cmd) (s : State) : Kept s (hPartAssign c s).1 := by
  unfold hPartAssign
  refine withPb_kept _ _ _ ?_ _ _
  intro c bs s
  repeat' first
    | with_reducible rfl
    | with_reducible assumption
    | with_reducible refine ite_kept ?_ ?_
    | with_reducible refine ite_fst_kept ?_ ?_
    | dsimp only
    | (with_reducible refine kept_vault ?_; simp only [↓State.mk_vault]; simp only [pending_vault, time_vault, patch_vault, nextPatch_vault, copyA_vault, copyB_vault, update_vault, mem_vault, Vault.eta]; with_reducible refine vault_kept ?_)
    | with_reducible refine (State.takeSaves_kept (by with_reducible assumption)).of ?_
    | with_reducible refine (State.updPart_kept ..).of ?_
    | with_reducible refine (State.updCore_kept ..).of ?_
    | with_reducible refine (State.assignFox_kept ..).of ?_
    | with_reducible refine (State.passOff_kept ..).of ?_
    | with_reducible refine (State.giveCore_kept ..).of ?_
    | (with_reducible refine (foldl_kept ?_ _ _).of ?_ <;> try intro _ _)
    | split

theorem hPartConfig_kept (c : Cmd) (s : State) : Kept s (hPartConfig c s).1 := by
  unfold hPartConfig
  refine withPb_kept _ _ _ ?_ _ _
  intro c bs s
  repeat' first
    | with_reducible rfl
    | with_reducible assumption
    | with_reducible refine ite_kept ?_ ?_
    | with_reducible refine ite_fst_kept ?_ ?_
    | dsimp only
    | (with_reducible refine kept_vault ?_; simp only [↓State.mk_vault]; simp only [pending_vault, time_vault, patch_vault, nextPatch_vault, copyA_vault, copyB_vault, update_vault, mem_vault, Vault.eta]; with_reducible refine vault_kept ?_)
    | with_reducible refine (State.updPart_kept ..).of ?_

end Sys2Proof.Machine
end

