-- ==== Sys2Proof/Laws/KeptQueues.lean ====
section
/-!
SUPPORT. The operations of Machine/Queues keep what Kept says.
-/

set_option Elab.async false

namespace Sys2Proof.Machine

theorem State.updQp_kept (s : State) (q : Nat) (f : Qp → Qp) : Kept s (State.updQp s q f) := by
  unfold State.updQp
  repeat' first
    | with_reducible rfl
    | with_reducible assumption
    | with_reducible refine ite_kept ?_ ?_
    | with_reducible refine ite_fst_kept ?_ ?_
    | dsimp only
    | (with_reducible refine kept_vault ?_; simp only [↓State.mk_vault]; simp only [pending_vault, time_vault, patch_vault, nextPatch_vault, copyA_vault, copyB_vault, update_vault, mem_vault, Vault.eta]; with_reducible refine vault_kept ?_)

theorem hQpCreate_kept (c : Cmd) (s : State) : Kept s (hQpCreate c s).1 := by
  unfold hQpCreate
  refine withPb_kept _ _ _ ?_ _ _
  intro c bs s
  repeat' first
    | with_reducible rfl
    | with_reducible assumption
    | with_reducible refine ite_kept ?_ ?_
    | with_reducible refine ite_fst_kept ?_ ?_
    | dsimp only
    | (with_reducible refine kept_vault ?_; simp only [↓State.mk_vault]; simp only [pending_vault, time_vault, patch_vault, nextPatch_vault, copyA_vault, copyB_vault, update_vault, mem_vault, Vault.eta]; with_reducible refine vault_kept ?_)

theorem hQpQuery_kept (c : Cmd) (s : State) : Kept s (hQpQuery c s).1 := by
  unfold hQpQuery
  exact withResp_kept _ _ _ _ _

theorem State.settleQp_kept (s : State) (q : Nat) : Kept s (State.settleQp s q) := by
  unfold State.settleQp
  repeat' first
    | with_reducible rfl
    | with_reducible assumption
    | with_reducible refine ite_kept ?_ ?_
    | with_reducible refine ite_fst_kept ?_ ?_
    | dsimp only
    | (with_reducible refine kept_vault ?_; simp only [↓State.mk_vault]; simp only [pending_vault, time_vault, patch_vault, nextPatch_vault, copyA_vault, copyB_vault, update_vault, mem_vault, Vault.eta]; with_reducible refine vault_kept ?_)
    | with_reducible refine (State.complete_kept ..).of ?_
    | split

theorem State.dueQp_kept (s : State) (q : Nat) (d : QpDue) : Kept s (State.dueQp s q d) := by
  unfold State.dueQp
  repeat' first
    | with_reducible rfl
    | with_reducible assumption
    | with_reducible refine ite_kept ?_ ?_
    | with_reducible refine ite_fst_kept ?_ ?_
    | dsimp only
    | (with_reducible refine kept_vault ?_; simp only [↓State.mk_vault]; simp only [pending_vault, time_vault, patch_vault, nextPatch_vault, copyA_vault, copyB_vault, update_vault, mem_vault, Vault.eta]; with_reducible refine vault_kept ?_)
    | with_reducible refine (State.updQp_kept ..).of ?_

theorem State.endEntry_kept (s : State) (q at_ : Nat) (d : QpDue) : Kept s (State.endEntry s q at_ d) := by
  unfold State.endEntry
  repeat' first
    | with_reducible rfl
    | with_reducible assumption
    | with_reducible refine ite_kept ?_ ?_
    | with_reducible refine ite_fst_kept ?_ ?_
    | dsimp only
    | (with_reducible refine kept_vault ?_; simp only [↓State.mk_vault]; simp only [pending_vault, time_vault, patch_vault, nextPatch_vault, copyA_vault, copyB_vault, update_vault, mem_vault, Vault.eta]; with_reducible refine vault_kept ?_)
    | with_reducible refine (State.updQp_kept ..).of ?_
    | with_reducible refine (State.dueQp_kept ..).of ?_
    | with_reducible refine (State.settleQp_kept ..).of ?_

theorem qpPost_kept (q : Nat) (s : State) : Kept s (qpPost q s) := by
  unfold qpPost
  repeat' first
    | with_reducible rfl
    | with_reducible assumption
    | with_reducible refine ite_kept ?_ ?_
    | with_reducible refine ite_fst_kept ?_ ?_
    | dsimp only
    | (with_reducible refine kept_vault ?_; simp only [↓State.mk_vault]; simp only [pending_vault, time_vault, patch_vault, nextPatch_vault, copyA_vault, copyB_vault, update_vault, mem_vault, Vault.eta]; with_reducible refine vault_kept ?_)
    | with_reducible refine (State.due_kept ..).of ?_
    | with_reducible refine (State.awWrite_kept ..).of ?_
    | with_reducible refine (State.updQp_kept ..).of ?_
    | with_reducible refine (State.charge_kept ..).of ?_
    | with_reducible refine (State.interrupt_kept ..).of ?_
    | split

theorem doorbell_kept (p : Nat) (v : W64) (s : State) : Kept s (doorbell p v s) := by
  unfold doorbell
  repeat' first
    | with_reducible rfl
    | with_reducible assumption
    | with_reducible refine ite_kept ?_ ?_
    | with_reducible refine ite_fst_kept ?_ ?_
    | dsimp only
    | (with_reducible refine kept_vault ?_; simp only [↓State.mk_vault]; simp only [pending_vault, time_vault, patch_vault, nextPatch_vault, copyA_vault, copyB_vault, update_vault, mem_vault, Vault.eta]; with_reducible refine vault_kept ?_)
    | with_reducible refine (State.updPart_kept ..).of ?_
    | with_reducible refine (State.updQp_kept ..).of ?_

theorem State.take_kept (s : State) (q : Nat) (e : QpEntry) : Kept s (State.take s q e) := by
  unfold State.take
  repeat' first
    | with_reducible rfl
    | with_reducible assumption
    | with_reducible refine ite_kept ?_ ?_
    | with_reducible refine ite_fst_kept ?_ ?_
    | dsimp only
    | (with_reducible refine kept_vault ?_; simp only [↓State.mk_vault]; simp only [pending_vault, time_vault, patch_vault, nextPatch_vault, copyA_vault, copyB_vault, update_vault, mem_vault, Vault.eta]; with_reducible refine vault_kept ?_)
    | with_reducible refine (State.updQp_kept ..).of ?_

theorem State.takeOr_kept (s : State) (q : Nat) (e : QpEntry) (st : Option Nat) (go : State → State) (hgo : ∀ x0, Kept x0 (go x0)) : Kept s (State.takeOr s q e st go) := by
  unfold State.takeOr
  repeat' first
    | with_reducible rfl
    | with_reducible assumption
    | with_reducible refine ite_kept ?_ ?_
    | with_reducible refine ite_fst_kept ?_ ?_
    | dsimp only
    | (with_reducible refine kept_vault ?_; simp only [↓State.mk_vault]; simp only [pending_vault, time_vault, patch_vault, nextPatch_vault, copyA_vault, copyB_vault, update_vault, mem_vault, Vault.eta]; with_reducible refine vault_kept ?_)
    | with_reducible refine (State.take_kept ..).of ?_
    | with_reducible refine (State.endEntry_kept ..).of ?_
    | with_reducible refine (hgo ..).of ?_
    | split

theorem unlistedEntry_kept (q : Nat) (s : State) : Kept s (unlistedEntry q s) := by
  unfold unlistedEntry
  repeat' first
    | with_reducible rfl
    | with_reducible assumption
    | with_reducible refine ite_kept ?_ ?_
    | with_reducible refine ite_fst_kept ?_ ?_
    | dsimp only
    | (with_reducible refine kept_vault ?_; simp only [↓State.mk_vault]; simp only [pending_vault, time_vault, patch_vault, nextPatch_vault, copyA_vault, copyB_vault, update_vault, mem_vault, Vault.eta]; with_reducible refine vault_kept ?_)
    | (with_reducible refine (State.takeOr_kept _ _ _ _ _ ?_).of ?_ <;> try intros)
    | split
    | simp only [id_eq]

theorem copyStart_kept (q : Nat) (s : State) : Kept s (copyStart q s) := by
  unfold copyStart
  repeat' first
    | with_reducible rfl
    | with_reducible assumption
    | with_reducible refine ite_kept ?_ ?_
    | with_reducible refine ite_fst_kept ?_ ?_
    | dsimp only
    | (with_reducible refine kept_vault ?_; simp only [↓State.mk_vault]; simp only [pending_vault, time_vault, patch_vault, nextPatch_vault, copyA_vault, copyB_vault, update_vault, mem_vault, Vault.eta]; with_reducible refine vault_kept ?_)
    | (with_reducible refine (State.takeOr_kept _ _ _ _ _ ?_).of ?_ <;> try intros)
    | split

theorem copyDone_kept (q k : Nat) (s : State) : Kept s (copyDone q k s) := by
  unfold copyDone
  repeat' first
    | with_reducible rfl
    | with_reducible assumption
    | with_reducible refine ite_kept ?_ ?_
    | with_reducible refine ite_fst_kept ?_ ?_
    | dsimp only
    | (with_reducible refine kept_vault ?_; simp only [↓State.mk_vault]; simp only [pending_vault, time_vault, patch_vault, nextPatch_vault, copyA_vault, copyB_vault, update_vault, mem_vault, Vault.eta]; with_reducible refine vault_kept ?_)
    | with_reducible refine (State.endEntry_kept ..).of ?_
    | with_reducible refine (State.awWrite_kept ..).of ?_
    | with_reducible refine (State.taint_kept ..).of ?_
    | with_reducible refine (State.charge_kept ..).of ?_
    | with_reducible refine (State.chargeLines_kept ..).of ?_
    | (with_reducible refine (foldl_kept ?_ _ _).of ?_ <;> try intro _ _)
    | split

theorem fenceTake_kept (q : Nat) (s : State) : Kept s (fenceTake q s) := by
  unfold fenceTake
  repeat' first
    | with_reducible rfl
    | with_reducible assumption
    | with_reducible refine ite_kept ?_ ?_
    | with_reducible refine ite_fst_kept ?_ ?_
    | dsimp only
    | (with_reducible refine kept_vault ?_; simp only [↓State.mk_vault]; simp only [pending_vault, time_vault, patch_vault, nextPatch_vault, copyA_vault, copyB_vault, update_vault, mem_vault, Vault.eta]; with_reducible refine vault_kept ?_)
    | (with_reducible refine (State.takeOr_kept _ _ _ _ _ ?_).of ?_ <;> try intros)
    | split
    | simp only [id_eq]

theorem fenceComplete_kept (q : Nat) (s : State) : Kept s (fenceComplete q s) := by
  unfold fenceComplete
  repeat' first
    | with_reducible rfl
    | with_reducible assumption
    | with_reducible refine ite_kept ?_ ?_
    | with_reducible refine ite_fst_kept ?_ ?_
    | dsimp only
    | (with_reducible refine kept_vault ?_; simp only [↓State.mk_vault]; simp only [pending_vault, time_vault, patch_vault, nextPatch_vault, copyA_vault, copyB_vault, update_vault, mem_vault, Vault.eta]; with_reducible refine vault_kept ?_)
    | with_reducible refine (State.endEntry_kept ..).of ?_
    | with_reducible refine (State.signalOr_kept ..).of ?_
    | split

theorem addSeqHold_kept (q : Nat) (s : State) : Kept s (addSeqHold q s) := by
  unfold addSeqHold
  repeat' first
    | with_reducible rfl
    | with_reducible assumption
    | with_reducible refine ite_kept ?_ ?_
    | with_reducible refine ite_fst_kept ?_ ?_
    | dsimp only
    | (with_reducible refine kept_vault ?_; simp only [↓State.mk_vault]; simp only [pending_vault, time_vault, patch_vault, nextPatch_vault, copyA_vault, copyB_vault, update_vault, mem_vault, Vault.eta]; with_reducible refine vault_kept ?_)
    | with_reducible refine (State.updQp_kept ..).of ?_
    | split

theorem refill_kept (s : State) : Kept s (refill s) := by
  unfold refill
  repeat' first
    | with_reducible rfl
    | with_reducible assumption
    | with_reducible refine ite_kept ?_ ?_
    | with_reducible refine ite_fst_kept ?_ ?_
    | dsimp only
    | (with_reducible refine kept_vault ?_; simp only [↓State.mk_vault]; simp only [pending_vault, time_vault, patch_vault, nextPatch_vault, copyA_vault, copyB_vault, update_vault, mem_vault, Vault.eta]; with_reducible refine vault_kept ?_)

end Sys2Proof.Machine
end

