-- ==== Sys2Proof/Laws/KeptLaunch.lean ====
section
/-!
SUPPORT. The operations of Machine/Launch keep what Kept says.
-/

set_option Elab.async false

namespace Sys2Proof.Machine

theorem State.enterBacklog_kept (s : State) (p q : Nat) : Kept s (State.enterBacklog s p q) := by
  unfold State.enterBacklog
  repeat' first
    | with_reducible rfl
    | with_reducible assumption
    | with_reducible refine ite_kept ?_ ?_
    | with_reducible refine ite_fst_kept ?_ ?_
    | dsimp only
    | (with_reducible refine kept_vault ?_; simp only [↓State.mk_vault]; simp only [pending_vault, time_vault, patch_vault, nextPatch_vault, copyA_vault, copyB_vault, update_vault, mem_vault, Vault.eta]; with_reducible refine vault_kept ?_)
    | with_reducible refine (State.updPart_kept ..).of ?_
    | with_reducible refine (State.updQp_kept ..).of ?_
    | split

theorem State.acceptLaunch_kept (s : State) (p q at_ tag : Nat) (var lc : Bool) (e : LaunchE) (img : Image) (k : Kernel) (step : Option StepPos)
    (order : Nat) : Kept s (State.acceptLaunch s p q at_ tag var lc e img k step order) := by
  unfold State.acceptLaunch
  repeat' first
    | with_reducible rfl
    | with_reducible assumption
    | with_reducible refine ite_kept ?_ ?_
    | with_reducible refine ite_fst_kept ?_ ?_
    | dsimp only
    | (with_reducible refine kept_vault ?_; simp only [↓State.mk_vault]; simp only [pending_vault, time_vault, patch_vault, nextPatch_vault, copyA_vault, copyB_vault, update_vault, mem_vault, Vault.eta]; with_reducible refine vault_kept ?_)
    | with_reducible refine (State.enterBacklog_kept ..).of ?_

theorem launchTake_kept (q : Nat) (s : State) : Kept s (launchTake q s) := by
  unfold launchTake
  repeat' first
    | with_reducible rfl
    | with_reducible assumption
    | with_reducible refine ite_kept ?_ ?_
    | with_reducible refine ite_fst_kept ?_ ?_
    | dsimp only
    | (with_reducible refine kept_vault ?_; simp only [↓State.mk_vault]; simp only [pending_vault, time_vault, patch_vault, nextPatch_vault, copyA_vault, copyB_vault, update_vault, mem_vault, Vault.eta]; with_reducible refine vault_kept ?_)
    | with_reducible refine (State.take_kept ..).of ?_
    | with_reducible refine (State.endEntry_kept ..).of ?_
    | with_reducible refine (State.acceptLaunch_kept ..).of ?_
    | split

theorem State.giveCoreTo_kept (s : State) (c key : Nat) (l : Launch) (base : Nat) : Kept s (State.giveCoreTo s c key l base) := by
  unfold State.giveCoreTo
  repeat' first
    | with_reducible rfl
    | with_reducible assumption
    | with_reducible refine ite_kept ?_ ?_
    | with_reducible refine ite_fst_kept ?_ ?_
    | dsimp only
    | (with_reducible refine kept_vault ?_; simp only [↓State.mk_vault]; simp only [pending_vault, time_vault, patch_vault, nextPatch_vault, copyA_vault, copyB_vault, update_vault, mem_vault, Vault.eta]; with_reducible refine vault_kept ?_)
    | with_reducible refine (State.corePowerOff_kept ..).of ?_
    | with_reducible refine (State.giveCore_kept ..).of ?_
    | with_reducible refine (State.setCtx_kept ..).of ?_
    | with_reducible refine (State.updLaunch_kept ..).of ?_
    | (with_reducible refine (foldl_kept ?_ _ _).of ?_ <;> try intro _ _)

theorem State.giveUnitTo_kept (s : State) (k : EngineKind) (n key : Nat) (l : Launch) : Kept s (State.giveUnitTo s k n key l) := by
  unfold State.giveUnitTo
  repeat' first
    | with_reducible rfl
    | with_reducible assumption
    | with_reducible refine ite_kept ?_ ?_
    | with_reducible refine ite_fst_kept ?_ ?_
    | dsimp only
    | (with_reducible refine kept_vault ?_; simp only [↓State.mk_vault]; simp only [pending_vault, time_vault, patch_vault, nextPatch_vault, copyA_vault, copyB_vault, update_vault, mem_vault, Vault.eta]; with_reducible refine vault_kept ?_)
    | with_reducible refine (State.updFox_kept ..).of ?_
    | with_reducible refine (State.updPrim_kept ..).of ?_
    | with_reducible refine (State.updLaunch_kept ..).of ?_
    | split

theorem State.chargeSave_kept (s : State) (key n : Nat) : Kept s (State.chargeSave s key n) := by
  unfold State.chargeSave
  repeat' first
    | with_reducible rfl
    | with_reducible assumption
    | with_reducible refine ite_kept ?_ ?_
    | with_reducible refine ite_fst_kept ?_ ?_
    | dsimp only
    | (with_reducible refine kept_vault ?_; simp only [↓State.mk_vault]; simp only [pending_vault, time_vault, patch_vault, nextPatch_vault, copyA_vault, copyB_vault, update_vault, mem_vault, Vault.eta]; with_reducible refine vault_kept ?_)
    | with_reducible refine (State.chargeEngine_kept ..).of ?_

theorem State.chargeRestore_kept (s : State) (c key : Nat) : Kept s (State.chargeRestore s c key) := by
  unfold State.chargeRestore
  repeat' first
    | with_reducible rfl
    | with_reducible assumption
    | with_reducible refine ite_kept ?_ ?_
    | with_reducible refine ite_fst_kept ?_ ?_
    | dsimp only
    | (with_reducible refine kept_vault ?_; simp only [↓State.mk_vault]; simp only [pending_vault, time_vault, patch_vault, nextPatch_vault, copyA_vault, copyB_vault, update_vault, mem_vault, Vault.eta]; with_reducible refine vault_kept ?_)
    | with_reducible refine (State.chargeSave_kept ..).of ?_
    | split

theorem State.quitCore_kept (s : State) (c key : Nat) : Kept s (State.quitCore s c key) := by
  unfold State.quitCore
  repeat' first
    | with_reducible rfl
    | with_reducible assumption
    | with_reducible refine ite_kept ?_ ?_
    | with_reducible refine ite_fst_kept ?_ ?_
    | dsimp only
    | (with_reducible refine kept_vault ?_; simp only [↓State.mk_vault]; simp only [pending_vault, time_vault, patch_vault, nextPatch_vault, copyA_vault, copyB_vault, update_vault, mem_vault, Vault.eta]; with_reducible refine vault_kept ?_)
    | with_reducible refine (State.chargeRestore_kept ..).of ?_
    | with_reducible refine (State.updCtx_kept ..).of ?_
    | with_reducible refine (State.updCore_kept ..).of ?_
    | with_reducible refine (State.updLaunch_kept ..).of ?_
    | (with_reducible refine (foldl_kept ?_ _ _).of ?_ <;> try intro _ _)

theorem State.leaveCore_kept (s : State) (c key : Nat) : Kept s (State.leaveCore s c key) := by
  unfold State.leaveCore
  repeat' first
    | with_reducible rfl
    | with_reducible assumption
    | with_reducible refine ite_kept ?_ ?_
    | with_reducible refine ite_fst_kept ?_ ?_
    | dsimp only
    | (with_reducible refine kept_vault ?_; simp only [↓State.mk_vault]; simp only [pending_vault, time_vault, patch_vault, nextPatch_vault, copyA_vault, copyB_vault, update_vault, mem_vault, Vault.eta]; with_reducible refine vault_kept ?_)
    | with_reducible refine (State.quitCore_kept ..).of ?_
    | with_reducible refine (State.updLaunch_kept ..).of ?_

theorem State.handBack_kept (s : State) (l : Launch) (key c x : Nat) : Kept s (State.handBack s l key c x) := by
  unfold State.handBack
  repeat' first
    | with_reducible rfl
    | with_reducible assumption
    | with_reducible refine ite_kept ?_ ?_
    | with_reducible refine ite_fst_kept ?_ ?_
    | dsimp only
    | (with_reducible refine kept_vault ?_; simp only [↓State.mk_vault]; simp only [pending_vault, time_vault, patch_vault, nextPatch_vault, copyA_vault, copyB_vault, update_vault, mem_vault, Vault.eta]; with_reducible refine vault_kept ?_)
    | with_reducible refine (State.setClaim_kept ..).of ?_

theorem State.loseCore_kept (s : State) (c key : Nat) (l : Launch) : Kept s (State.loseCore s c key l) := by
  unfold State.loseCore
  repeat' first
    | with_reducible rfl
    | with_reducible assumption
    | with_reducible refine ite_kept ?_ ?_
    | with_reducible refine ite_fst_kept ?_ ?_
    | dsimp only
    | (with_reducible refine kept_vault ?_; simp only [↓State.mk_vault]; simp only [pending_vault, time_vault, patch_vault, nextPatch_vault, copyA_vault, copyB_vault, update_vault, mem_vault, Vault.eta]; with_reducible refine vault_kept ?_)
    | with_reducible refine (State.enterBacklog_kept ..).of ?_
    | with_reducible refine (State.handBack_kept ..).of ?_
    | with_reducible refine (State.quitCore_kept ..).of ?_
    | with_reducible refine (State.updLaunch_kept ..).of ?_
    | (with_reducible refine (foldl_kept ?_ _ _).of ?_ <;> try intro _ _)

theorem State.leaveUnit_kept (s : State) (k : EngineKind) (n key : Nat) (done : Bool) : Kept s (State.leaveUnit s k n key done) := by
  unfold State.leaveUnit
  repeat' first
    | with_reducible rfl
    | with_reducible assumption
    | with_reducible refine ite_kept ?_ ?_
    | with_reducible refine ite_fst_kept ?_ ?_
    | dsimp only
    | (with_reducible refine kept_vault ?_; simp only [↓State.mk_vault]; simp only [pending_vault, time_vault, patch_vault, nextPatch_vault, copyA_vault, copyB_vault, update_vault, mem_vault, Vault.eta]; with_reducible refine vault_kept ?_)
    | with_reducible refine (State.enterBacklog_kept ..).of ?_
    | with_reducible refine (State.updFox_kept ..).of ?_
    | with_reducible refine (State.updPrim_kept ..).of ?_
    | with_reducible refine (State.updLaunch_kept ..).of ?_
    | split

theorem State.releaseCore_kept (s : State) (c : Nat) : Kept s (State.releaseCore s c) := by
  unfold State.releaseCore
  repeat' first
    | with_reducible rfl
    | with_reducible assumption
    | with_reducible refine ite_kept ?_ ?_
    | with_reducible refine ite_fst_kept ?_ ?_
    | dsimp only
    | (with_reducible refine kept_vault ?_; simp only [↓State.mk_vault]; simp only [pending_vault, time_vault, patch_vault, nextPatch_vault, copyA_vault, copyB_vault, update_vault, mem_vault, Vault.eta]; with_reducible refine vault_kept ?_)
    | with_reducible refine (State.leaveCore_kept ..).of ?_
    | with_reducible refine (State.loseCore_kept ..).of ?_
    | (with_reducible refine (foldl_kept ?_ _ _).of ?_ <;> try intro _ _)
    | split

theorem engineDispatch_kept (k : EngineKind) (n : Nat) (s : State) : Kept s (engineDispatch k n s) := by
  unfold engineDispatch
  repeat' first
    | with_reducible rfl
    | with_reducible assumption
    | with_reducible refine ite_kept ?_ ?_
    | with_reducible refine ite_fst_kept ?_ ?_
    | dsimp only
    | (with_reducible refine kept_vault ?_; simp only [↓State.mk_vault]; simp only [pending_vault, time_vault, patch_vault, nextPatch_vault, copyA_vault, copyB_vault, update_vault, mem_vault, Vault.eta]; with_reducible refine vault_kept ?_)
    | with_reducible refine (State.releaseCore_kept ..).of ?_
    | with_reducible refine (State.giveCoreTo_kept ..).of ?_
    | with_reducible refine (State.updFox_kept ..).of ?_
    | with_reducible refine (State.updPrim_kept ..).of ?_
    | with_reducible refine (State.giveUnitTo_kept ..).of ?_
    | with_reducible refine (State.leaveUnit_kept ..).of ?_
    | split

theorem State.leaveEngines_kept (s : State) (key : Nat) (l : Launch) : Kept s (State.leaveEngines s key l) := by
  unfold State.leaveEngines
  repeat' first
    | with_reducible rfl
    | with_reducible assumption
    | with_reducible refine ite_kept ?_ ?_
    | with_reducible refine ite_fst_kept ?_ ?_
    | dsimp only
    | (with_reducible refine kept_vault ?_; simp only [↓State.mk_vault]; simp only [pending_vault, time_vault, patch_vault, nextPatch_vault, copyA_vault, copyB_vault, update_vault, mem_vault, Vault.eta]; with_reducible refine vault_kept ?_)
    | with_reducible refine (State.leaveCore_kept ..).of ?_
    | with_reducible refine (State.leaveUnit_kept ..).of ?_
    | (with_reducible refine (foldl_kept ?_ _ _).of ?_ <;> try intro _ _)
    | split

theorem State.dropLaunch_kept (s : State) (key : Nat) : Kept s (State.dropLaunch s key) := by
  unfold State.dropLaunch
  repeat' first
    | with_reducible rfl
    | with_reducible assumption
    | with_reducible refine ite_kept ?_ ?_
    | with_reducible refine ite_fst_kept ?_ ?_
    | dsimp only
    | (with_reducible refine kept_vault ?_; simp only [↓State.mk_vault]; simp only [pending_vault, time_vault, patch_vault, nextPatch_vault, copyA_vault, copyB_vault, update_vault, mem_vault, Vault.eta]; with_reducible refine vault_kept ?_)
    | with_reducible refine (State.leaveEngines_kept ..).of ?_
    | split

theorem State.wantReplay_kept (s : State) (p : Nat) : Kept s (State.wantReplay s p) := by
  unfold State.wantReplay
  repeat' first
    | with_reducible rfl
    | with_reducible assumption
    | with_reducible refine ite_kept ?_ ?_
    | with_reducible refine ite_fst_kept ?_ ?_
    | dsimp only
    | (with_reducible refine kept_vault ?_; simp only [↓State.mk_vault]; simp only [pending_vault, time_vault, patch_vault, nextPatch_vault, copyA_vault, copyB_vault, update_vault, mem_vault, Vault.eta]; with_reducible refine vault_kept ?_)

theorem State.failRun_kept (s : State) (p st : Nat) : Kept s (State.failRun s p st) := by
  unfold State.failRun
  repeat' first
    | with_reducible rfl
    | with_reducible assumption
    | with_reducible refine ite_kept ?_ ?_
    | with_reducible refine ite_fst_kept ?_ ?_
    | dsimp only
    | (with_reducible refine kept_vault ?_; simp only [↓State.mk_vault]; simp only [pending_vault, time_vault, patch_vault, nextPatch_vault, copyA_vault, copyB_vault, update_vault, mem_vault, Vault.eta]; with_reducible refine vault_kept ?_)

theorem launchStart_kept (key : Nat) (s : State) : Kept s (launchStart key s) := by
  unfold launchStart
  repeat' first
    | with_reducible rfl
    | with_reducible assumption
    | with_reducible refine ite_kept ?_ ?_
    | with_reducible refine ite_fst_kept ?_ ?_
    | dsimp only
    | (with_reducible refine kept_vault ?_; simp only [↓State.mk_vault]; simp only [pending_vault, time_vault, patch_vault, nextPatch_vault, copyA_vault, copyB_vault, update_vault, mem_vault, Vault.eta]; with_reducible refine vault_kept ?_)
    | with_reducible refine (State.dropLaunch_kept ..).of ?_
    | with_reducible refine (State.failRun_kept ..).of ?_
    | with_reducible refine (State.endEntry_kept ..).of ?_
    | with_reducible refine (State.setClaim_kept ..).of ?_
    | with_reducible refine (State.updLaunch_kept ..).of ?_
    | with_reducible refine (State.updQp_kept ..).of ?_
    | split

theorem State.retireLaunch_kept (s : State) (key : Nat) (l : Launch) : Kept s (State.retireLaunch s key l) := by
  unfold State.retireLaunch
  repeat' first
    | with_reducible rfl
    | with_reducible assumption
    | with_reducible refine ite_kept ?_ ?_
    | with_reducible refine ite_fst_kept ?_ ?_
    | dsimp only
    | (with_reducible refine kept_vault ?_; simp only [↓State.mk_vault]; simp only [pending_vault, time_vault, patch_vault, nextPatch_vault, copyA_vault, copyB_vault, update_vault, mem_vault, Vault.eta]; with_reducible refine vault_kept ?_)
    | with_reducible refine (State.write_kept ..).of ?_
    | with_reducible refine (MapEdit.write_kept ..).of ?_
    | with_reducible refine (State.signalOr_kept ..).of ?_
    | with_reducible refine (State.unpin_kept ..).of ?_
    | with_reducible refine (State.dropLaunch_kept ..).of ?_
    | (with_reducible refine (foldl_kept ?_ _ _).of ?_ <;> try intro _ _)
    | split

theorem preempt_kept (c key : Nat) (s : State) : Kept s (preempt c key s) := by
  unfold preempt
  repeat' first
    | with_reducible rfl
    | with_reducible assumption
    | with_reducible refine ite_kept ?_ ?_
    | with_reducible refine ite_fst_kept ?_ ?_
    | dsimp only
    | (with_reducible refine kept_vault ?_; simp only [↓State.mk_vault]; simp only [pending_vault, time_vault, patch_vault, nextPatch_vault, copyA_vault, copyB_vault, update_vault, mem_vault, Vault.eta]; with_reducible refine vault_kept ?_)
    | with_reducible refine (State.leaveWaits_kept ..).of ?_
    | with_reducible refine (State.updPart_kept ..).of ?_
    | with_reducible refine (State.updCore_kept ..).of ?_
    | with_reducible refine (State.giveCoreTo_kept ..).of ?_
    | (with_reducible refine (foldl_kept ?_ _ _).of ?_ <;> try intro _ _)
    | split

theorem State.rejoin_kept (s : State) (c x : Nat) : Kept s (State.rejoin s c x) := by
  unfold State.rejoin
  repeat' first
    | with_reducible rfl
    | with_reducible assumption
    | with_reducible refine ite_kept ?_ ?_
    | with_reducible refine ite_fst_kept ?_ ?_
    | dsimp only
    | (with_reducible refine kept_vault ?_; simp only [↓State.mk_vault]; simp only [pending_vault, time_vault, patch_vault, nextPatch_vault, copyA_vault, copyB_vault, update_vault, mem_vault, Vault.eta]; with_reducible refine vault_kept ?_)
    | with_reducible refine (State.setSem_kept ..).of ?_
    | split

theorem State.thaw_kept (s : State) (c : Nat) : Kept s (State.thaw s c) := by
  unfold State.thaw
  repeat' first
    | with_reducible rfl
    | with_reducible assumption
    | with_reducible refine ite_kept ?_ ?_
    | with_reducible refine ite_fst_kept ?_ ?_
    | dsimp only
    | (with_reducible refine kept_vault ?_; simp only [↓State.mk_vault]; simp only [pending_vault, time_vault, patch_vault, nextPatch_vault, copyA_vault, copyB_vault, update_vault, mem_vault, Vault.eta]; with_reducible refine vault_kept ?_)
    | with_reducible refine (State.rejoin_kept ..).of ?_
    | with_reducible refine (State.updCore_kept ..).of ?_
    | (with_reducible refine (foldl_kept ?_ _ _).of ?_ <;> try intro _ _)

theorem preemptSaveDone_kept (c : Nat) (s : State) : Kept s (preemptSaveDone c s) := by
  unfold preemptSaveDone
  repeat' first
    | with_reducible rfl
    | with_reducible assumption
    | with_reducible refine ite_kept ?_ ?_
    | with_reducible refine ite_fst_kept ?_ ?_
    | dsimp only
    | (with_reducible refine kept_vault ?_; simp only [↓State.mk_vault]; simp only [pending_vault, time_vault, patch_vault, nextPatch_vault, copyA_vault, copyB_vault, update_vault, mem_vault, Vault.eta]; with_reducible refine vault_kept ?_)
    | with_reducible refine (State.setCtx_kept ..).of ?_
    | with_reducible refine (State.updCore_kept ..).of ?_
    | with_reducible refine (State.giveCoreTo_kept ..).of ?_
    | with_reducible refine (State.chargeSave_kept ..).of ?_
    | with_reducible refine (State.thaw_kept ..).of ?_
    | (with_reducible refine (foldl_kept ?_ _ _).of ?_ <;> try intro _ _)
    | split

theorem State.restored_kept (s : State) (c : Nat) (v : Saved) : Kept s (State.restored s c v) := by
  unfold State.restored
  repeat' first
    | with_reducible rfl
    | with_reducible assumption
    | with_reducible refine ite_kept ?_ ?_
    | with_reducible refine ite_fst_kept ?_ ?_
    | dsimp only
    | (with_reducible refine kept_vault ?_; simp only [↓State.mk_vault]; simp only [pending_vault, time_vault, patch_vault, nextPatch_vault, copyA_vault, copyB_vault, update_vault, mem_vault, Vault.eta]; with_reducible refine vault_kept ?_)
    | with_reducible refine (State.setCtx_kept ..).of ?_
    | with_reducible refine (State.write_kept ..).of ?_
    | with_reducible refine (MapEdit.write_kept ..).of ?_
    | with_reducible refine (State.updCore_kept ..).of ?_
    | (with_reducible refine (foldl_kept ?_ _ _).of ?_ <;> try intro _ _)

theorem preemptRestore_kept (c : Nat) (s : State) : Kept s (preemptRestore c s) := by
  unfold preemptRestore
  repeat' first
    | with_reducible rfl
    | with_reducible assumption
    | with_reducible refine ite_kept ?_ ?_
    | with_reducible refine ite_fst_kept ?_ ?_
    | dsimp only
    | (with_reducible refine kept_vault ?_; simp only [↓State.mk_vault]; simp only [pending_vault, time_vault, patch_vault, nextPatch_vault, copyA_vault, copyB_vault, update_vault, mem_vault, Vault.eta]; with_reducible refine vault_kept ?_)
    | with_reducible refine (State.releaseCore_kept ..).of ?_
    | with_reducible refine (State.giveCore_kept ..).of ?_
    | with_reducible refine (State.rejoin_kept ..).of ?_
    | with_reducible refine (State.restored_kept ..).of ?_
    | with_reducible refine (State.thaw_kept ..).of ?_
    | (with_reducible refine (foldl_kept ?_ _ _).of ?_ <;> try intro _ _)
    | split

theorem holdRevoke_kept (die i : Nat) (s : State) : Kept s (holdRevoke die i s) := by
  unfold holdRevoke
  repeat' first
    | with_reducible rfl
    | with_reducible assumption
    | with_reducible refine ite_kept ?_ ?_
    | with_reducible refine ite_fst_kept ?_ ?_
    | dsimp only
    | (with_reducible refine kept_vault ?_; simp only [↓State.mk_vault]; simp only [pending_vault, time_vault, patch_vault, nextPatch_vault, copyA_vault, copyB_vault, update_vault, mem_vault, Vault.eta]; with_reducible refine vault_kept ?_)
    | with_reducible refine (State.setSem_kept ..).of ?_
    | with_reducible refine (State.semAdd_kept (by with_reducible assumption)).of ?_
    | with_reducible refine (State.semLost_kept ..).of ?_
    | with_reducible refine (State.updPart_kept ..).of ?_
    | with_reducible refine (State.wantReplay_kept ..).of ?_
    | with_reducible refine (State.lateFault_kept ..).of ?_
    | split

theorem hQpDestroy_kept (c : Cmd) (s : State) : Kept s (hQpDestroy c s).1 := by
  unfold hQpDestroy
  repeat' first
    | with_reducible rfl
    | with_reducible assumption
    | with_reducible refine ite_kept ?_ ?_
    | with_reducible refine ite_fst_kept ?_ ?_
    | dsimp only
    | (with_reducible refine kept_vault ?_; simp only [↓State.mk_vault]; simp only [pending_vault, time_vault, patch_vault, nextPatch_vault, copyA_vault, copyB_vault, update_vault, mem_vault, Vault.eta]; with_reducible refine vault_kept ?_)
    | with_reducible refine (State.dropLaunch_kept ..).of ?_
    | with_reducible refine (State.updQp_kept ..).of ?_
    | with_reducible refine (State.due_kept ..).of ?_
    | with_reducible refine (State.settleQp_kept ..).of ?_
    | (with_reducible refine (foldl_kept ?_ _ _).of ?_ <;> try intro _ _)
    | split

end Sys2Proof.Machine
end

