-- ==== Sys2Proof/Laws/KeptSnap.lean ====
section
/-!
SUPPORT. The operations of Machine/Snap keep what Kept says.
-/

set_option Elab.async false

namespace Sys2Proof.Machine

theorem State.setSeq_kept (s : State) (e : Nat) (q : Seq) : Kept s (State.setSeq s e q) := by
  unfold State.setSeq
  repeat' first
    | with_reducible rfl
    | with_reducible assumption
    | with_reducible refine ite_kept ?_ ?_
    | with_reducible refine ite_fst_kept ?_ ?_
    | dsimp only
    | (with_reducible refine kept_vault ?_; simp only [↓State.mk_vault]; simp only [pending_vault, time_vault, patch_vault, nextPatch_vault, copyA_vault, copyB_vault, update_vault, mem_vault, Vault.eta]; with_reducible refine vault_kept ?_)

theorem State.updSnap_kept (s : State) (p : Nat) (f : SnapPart → SnapPart) : Kept s (State.updSnap s p f) := by
  unfold State.updSnap
  repeat' first
    | with_reducible rfl
    | with_reducible assumption
    | with_reducible refine ite_kept ?_ ?_
    | with_reducible refine ite_fst_kept ?_ ?_
    | dsimp only
    | (with_reducible refine kept_vault ?_; simp only [↓State.mk_vault]; simp only [pending_vault, time_vault, patch_vault, nextPatch_vault, copyA_vault, copyB_vault, update_vault, mem_vault, Vault.eta]; with_reducible refine vault_kept ?_)

theorem State.updCq_kept (s : State) (p die q : Nat) (f : Cq → Cq) : Kept s (State.updCq s p die q f) := by
  unfold State.updCq
  repeat' first
    | with_reducible rfl
    | with_reducible assumption
    | with_reducible refine ite_kept ?_ ?_
    | with_reducible refine ite_fst_kept ?_ ?_
    | dsimp only
    | (with_reducible refine kept_vault ?_; simp only [↓State.mk_vault]; simp only [pending_vault, time_vault, patch_vault, nextPatch_vault, copyA_vault, copyB_vault, update_vault, mem_vault, Vault.eta]; with_reducible refine vault_kept ?_)

theorem State.finishSeq_kept (s : State) (e status : Nat) : Kept s (State.finishSeq s e status) := by
  unfold State.finishSeq
  repeat' first
    | with_reducible rfl
    | with_reducible assumption
    | with_reducible refine ite_kept ?_ ?_
    | with_reducible refine ite_fst_kept ?_ ?_
    | dsimp only
    | (with_reducible refine kept_vault ?_; simp only [↓State.mk_vault]; simp only [pending_vault, time_vault, patch_vault, nextPatch_vault, copyA_vault, copyB_vault, update_vault, mem_vault, Vault.eta]; with_reducible refine vault_kept ?_)
    | with_reducible refine (State.setSeq_kept ..).of ?_
    | with_reducible refine (State.dueQp_kept ..).of ?_

theorem State.finishDone_kept (s : State) (p : Nat) : Kept s (State.finishDone s p) := by
  unfold State.finishDone
  repeat' first
    | with_reducible rfl
    | with_reducible assumption
    | with_reducible refine ite_kept ?_ ?_
    | with_reducible refine ite_fst_kept ?_ ?_
    | dsimp only
    | (with_reducible refine kept_vault ?_; simp only [↓State.mk_vault]; simp only [pending_vault, time_vault, patch_vault, nextPatch_vault, copyA_vault, copyB_vault, update_vault, mem_vault, Vault.eta]; with_reducible refine vault_kept ?_)
    | with_reducible refine (State.finishSeq_kept ..).of ?_
    | (with_reducible refine (foldl_kept ?_ _ _).of ?_ <;> try intro _ _)

theorem State.snapSkip_kept (s : State) (p step : Nat) : Kept s (State.snapSkip s p step) := by
  unfold State.snapSkip
  repeat' first
    | with_reducible rfl
    | with_reducible assumption
    | with_reducible refine ite_kept ?_ ?_
    | with_reducible refine ite_fst_kept ?_ ?_
    | dsimp only
    | (with_reducible refine kept_vault ?_; simp only [↓State.mk_vault]; simp only [pending_vault, time_vault, patch_vault, nextPatch_vault, copyA_vault, copyB_vault, update_vault, mem_vault, Vault.eta]; with_reducible refine vault_kept ?_)
    | with_reducible refine (State.updSnap_kept ..).of ?_
    | with_reducible refine (State.event_kept ..).of ?_

theorem State.dropUnfinished_kept (s : State) (p : Nat) : Kept s (State.dropUnfinished s p) := by
  unfold State.dropUnfinished
  repeat' first
    | with_reducible rfl
    | with_reducible assumption
    | with_reducible refine ite_kept ?_ ?_
    | with_reducible refine ite_fst_kept ?_ ?_
    | dsimp only
    | (with_reducible refine kept_vault ?_; simp only [↓State.mk_vault]; simp only [pending_vault, time_vault, patch_vault, nextPatch_vault, copyA_vault, copyB_vault, update_vault, mem_vault, Vault.eta]; with_reducible refine vault_kept ?_)
    | with_reducible refine (State.updSnap_kept ..).of ?_
    | with_reducible refine (State.snapSkip_kept ..).of ?_
    | split

theorem State.flashPlan_kept (s : State) (p : Nat) (snap : Snap) : Kept s (State.flashPlan s p snap) := by
  unfold State.flashPlan
  repeat' first
    | with_reducible rfl
    | with_reducible assumption
    | with_reducible refine ite_kept ?_ ?_
    | with_reducible refine ite_fst_kept ?_ ?_
    | dsimp only
    | (with_reducible refine kept_vault ?_; simp only [↓State.mk_vault]; simp only [pending_vault, time_vault, patch_vault, nextPatch_vault, copyA_vault, copyB_vault, update_vault, mem_vault, Vault.eta]; with_reducible refine vault_kept ?_)
    | with_reducible refine (State.dropUnfinished_kept ..).of ?_
    | with_reducible refine (State.updSnap_kept ..).of ?_
    | split

theorem State.takeSnap_kept (s : State) (p : Nat) (digest : W64) : Kept s (State.takeSnap s p digest) := by
  unfold State.takeSnap
  repeat' first
    | with_reducible rfl
    | with_reducible assumption
    | with_reducible refine ite_kept ?_ ?_
    | with_reducible refine ite_fst_kept ?_ ?_
    | dsimp only
    | (with_reducible refine kept_vault ?_; simp only [↓State.mk_vault]; simp only [pending_vault, time_vault, patch_vault, nextPatch_vault, copyA_vault, copyB_vault, update_vault, mem_vault, Vault.eta]; with_reducible refine vault_kept ?_)
    | with_reducible refine (State.updSnap_kept ..).of ?_
    | with_reducible refine (State.flashPlan_kept ..).of ?_
    | (with_reducible refine (foldl_kept ?_ _ _).of ?_ <;> try intro _ _)

theorem shadowCopy_kept (p : Nat) (s : State) : Kept s (shadowCopy p s) := by
  unfold shadowCopy
  repeat' first
    | with_reducible rfl
    | with_reducible assumption
    | with_reducible refine ite_kept ?_ ?_
    | with_reducible refine ite_fst_kept ?_ ?_
    | dsimp only
    | (with_reducible refine kept_vault ?_; simp only [↓State.mk_vault]; simp only [pending_vault, time_vault, patch_vault, nextPatch_vault, copyA_vault, copyB_vault, update_vault, mem_vault, Vault.eta]; with_reducible refine vault_kept ?_)
    | with_reducible refine (State.charge_kept ..).of ?_
    | with_reducible refine (State.updSnap_kept ..).of ?_

theorem State.dropFsnap_kept (s : State) (id : Nat) : Kept s (State.dropFsnap s id) := by
  unfold State.dropFsnap
  repeat' first
    | with_reducible rfl
    | with_reducible assumption
    | with_reducible refine ite_kept ?_ ?_
    | with_reducible refine ite_fst_kept ?_ ?_
    | dsimp only
    | (with_reducible refine kept_vault ?_; simp only [↓State.mk_vault]; simp only [pending_vault, time_vault, patch_vault, nextPatch_vault, copyA_vault, copyB_vault, update_vault, mem_vault, Vault.eta]; with_reducible refine vault_kept ?_)

theorem makeRoom_kept (p n fuel : Nat) (s : State) : Kept s (makeRoom p n fuel s) := by
  induction fuel generalizing s with
  | zero => rfl
  | succ fuel ih =>
    simp only [makeRoom]
    repeat' split
    · rfl
    · exact (ih _).of (kept_same rfl)
    · rfl

theorem trimSnaps_kept (p keep fuel : Nat) (s : State) : Kept s (trimSnaps p keep fuel s) := by
  induction fuel generalizing s with
  | zero => rfl
  | succ fuel ih =>
    simp only [trimSnaps]
    repeat' split
    · exact (ih _).of (kept_same rfl)
    · rfl
    · rfl

theorem flashSnapWrite_kept (p : Nat) (s : State) : Kept s (flashSnapWrite p s) := by
  unfold flashSnapWrite
  repeat' first
    | with_reducible rfl
    | with_reducible assumption
    | with_reducible refine ite_kept ?_ ?_
    | with_reducible refine ite_fst_kept ?_ ?_
    | dsimp only
    | (with_reducible refine kept_vault ?_; simp only [↓State.mk_vault]; simp only [pending_vault, time_vault, patch_vault, nextPatch_vault, copyA_vault, copyB_vault, update_vault, mem_vault, Vault.eta]; with_reducible refine vault_kept ?_)
    | with_reducible refine (makeRoom_kept ..).of ?_
    | with_reducible refine (State.updSnap_kept ..).of ?_
    | with_reducible refine (State.snapSkip_kept ..).of ?_
    | with_reducible refine (trimSnaps_kept ..).of ?_
    | with_reducible refine (State.charge_kept ..).of ?_
    | split

theorem State.placeSec_kept (s : State) (p : Nat) (step : Nat) (x : SnapSec) : Kept s (State.placeSec s p step x) := by
  unfold State.placeSec
  repeat' first
    | with_reducible rfl
    | with_reducible assumption
    | with_reducible refine ite_kept ?_ ?_
    | with_reducible refine ite_fst_kept ?_ ?_
    | dsimp only
    | (with_reducible refine kept_vault ?_; simp only [↓State.mk_vault]; simp only [pending_vault, time_vault, patch_vault, nextPatch_vault, copyA_vault, copyB_vault, update_vault, mem_vault, Vault.eta]; with_reducible refine vault_kept ?_)
    | with_reducible refine (State.take_kept ..).of ?_
    | with_reducible refine (State.updPart_kept ..).of ?_
    | with_reducible refine (State.setSeq_kept ..).of ?_
    | with_reducible refine (State.setSem_kept ..).of ?_
    | with_reducible refine (State.setClaim_kept ..).of ?_
    | with_reducible refine (State.setBar_kept ..).of ?_
    | with_reducible refine (State.updCq_kept ..).of ?_
    | with_reducible refine (State.restartWindow_kept ..).of ?_
    | with_reducible refine (State.write_kept ..).of ?_
    | with_reducible refine (MapEdit.write_kept ..).of ?_
    | (with_reducible refine (foldl_kept ?_ _ _).of ?_ <;> try intro _ _)
    | split

theorem State.placeSnap_kept (s : State) (p : Nat) (snap : Snap) : Kept s (State.placeSnap s p snap) := by
  unfold State.placeSnap
  repeat' first
    | with_reducible rfl
    | with_reducible assumption
    | with_reducible refine ite_kept ?_ ?_
    | with_reducible refine ite_fst_kept ?_ ?_
    | dsimp only
    | (with_reducible refine kept_vault ?_; simp only [↓State.mk_vault]; simp only [pending_vault, time_vault, patch_vault, nextPatch_vault, copyA_vault, copyB_vault, update_vault, mem_vault, Vault.eta]; with_reducible refine vault_kept ?_)
    | with_reducible refine (State.placeSec_kept ..).of ?_
    | with_reducible refine (State.restartWindow_kept ..).of ?_
    | (with_reducible refine (foldl_kept ?_ _ _).of ?_ <;> try intro _ _)

theorem State.placeQueues_kept (s : State) (p : Nat) (snap : Snap) : Kept s (State.placeQueues s p snap) := by
  unfold State.placeQueues
  repeat' first
    | with_reducible rfl
    | with_reducible assumption
    | with_reducible refine ite_kept ?_ ?_
    | with_reducible refine ite_fst_kept ?_ ?_
    | dsimp only
    | (with_reducible refine kept_vault ?_; simp only [↓State.mk_vault]; simp only [pending_vault, time_vault, patch_vault, nextPatch_vault, copyA_vault, copyB_vault, update_vault, mem_vault, Vault.eta]; with_reducible refine vault_kept ?_)
    | with_reducible refine (State.updQp_kept ..).of ?_
    | with_reducible refine (State.take_kept ..).of ?_
    | (with_reducible refine (foldl_kept ?_ _ _).of ?_ <;> try intro _ _)
    | split

theorem State.readSnap_kept (s : State) (p id : Nat) (who : FlashFor) : Kept s (State.readSnap s p id who) := by
  unfold State.readSnap
  repeat' first
    | with_reducible rfl
    | with_reducible assumption
    | with_reducible refine ite_kept ?_ ?_
    | with_reducible refine ite_fst_kept ?_ ?_
    | dsimp only
    | (with_reducible refine kept_vault ?_; simp only [↓State.mk_vault]; simp only [pending_vault, time_vault, patch_vault, nextPatch_vault, copyA_vault, copyB_vault, update_vault, mem_vault, Vault.eta]; with_reducible refine vault_kept ?_)
    | with_reducible refine (State.beginRead_kept ..).of ?_

theorem State.endWait_kept (s : State) (m tag status r0 : Nat) : Kept s (State.endWait s m tag status r0) := by
  unfold State.endWait
  repeat' first
    | with_reducible rfl
    | with_reducible assumption
    | with_reducible refine ite_kept ?_ ?_
    | with_reducible refine ite_fst_kept ?_ ?_
    | dsimp only
    | (with_reducible refine kept_vault ?_; simp only [↓State.mk_vault]; simp only [pending_vault, time_vault, patch_vault, nextPatch_vault, copyA_vault, copyB_vault, update_vault, mem_vault, Vault.eta]; with_reducible refine vault_kept ?_)
    | with_reducible refine (State.complete_kept ..).of ?_
    | split

theorem State.dropLog_kept (s : State) (p : Nat) : Kept s (State.dropLog s p) := by
  unfold State.dropLog
  repeat' first
    | with_reducible rfl
    | with_reducible assumption
    | with_reducible refine ite_kept ?_ ?_
    | with_reducible refine ite_fst_kept ?_ ?_
    | dsimp only
    | (with_reducible refine kept_vault ?_; simp only [↓State.mk_vault]; simp only [pending_vault, time_vault, patch_vault, nextPatch_vault, copyA_vault, copyB_vault, update_vault, mem_vault, Vault.eta]; with_reducible refine vault_kept ?_)

theorem State.doRestore_kept (s : State) (p m tag id : Nat) : Kept s (State.doRestore s p m tag id) := by
  unfold State.doRestore
  repeat' first
    | with_reducible rfl
    | with_reducible assumption
    | with_reducible refine ite_kept ?_ ?_
    | with_reducible refine ite_fst_kept ?_ ?_
    | dsimp only
    | (with_reducible refine kept_vault ?_; simp only [↓State.mk_vault]; simp only [pending_vault, time_vault, patch_vault, nextPatch_vault, copyA_vault, copyB_vault, update_vault, mem_vault, Vault.eta]; with_reducible refine vault_kept ?_)
    | with_reducible refine (State.endRead_kept ..).of ?_
    | with_reducible refine (State.complete_kept ..).of ?_
    | with_reducible refine (State.placeSnap_kept ..).of ?_
    | with_reducible refine (State.finishDone_kept ..).of ?_
    | with_reducible refine (State.placeQueues_kept ..).of ?_
    | with_reducible refine (State.dropLog_kept ..).of ?_
    | split

theorem State.setBounds_kept (s : State) (p : Nat) (bs : List Boundary) : Kept s (State.setBounds s p bs) := by
  unfold State.setBounds
  repeat' first
    | with_reducible rfl
    | with_reducible assumption
    | with_reducible refine ite_kept ?_ ?_
    | with_reducible refine ite_fst_kept ?_ ?_
    | dsimp only
    | (with_reducible refine kept_vault ?_; simp only [↓State.mk_vault]; simp only [pending_vault, time_vault, patch_vault, nextPatch_vault, copyA_vault, copyB_vault, update_vault, mem_vault, Vault.eta]; with_reducible refine vault_kept ?_)

theorem State.endTakes_kept (s : State) (p id : Nat) : Kept s (State.endTakes s p id) := by
  unfold State.endTakes
  repeat' first
    | with_reducible rfl
    | with_reducible assumption
    | with_reducible refine ite_kept ?_ ?_
    | with_reducible refine ite_fst_kept ?_ ?_
    | dsimp only
    | (with_reducible refine kept_vault ?_; simp only [↓State.mk_vault]; simp only [pending_vault, time_vault, patch_vault, nextPatch_vault, copyA_vault, copyB_vault, update_vault, mem_vault, Vault.eta]; with_reducible refine vault_kept ?_)
    | with_reducible refine (State.take_kept ..).of ?_
    | with_reducible refine (State.setBounds_kept ..).of ?_
    | with_reducible refine (State.endWait_kept ..).of ?_
    | (with_reducible refine (foldl_kept ?_ _ _).of ?_ <;> try intro _ _)

theorem State.endRestores_kept (s : State) (p : Nat) : Kept s (State.endRestores s p) := by
  unfold State.endRestores
  repeat' first
    | with_reducible rfl
    | with_reducible assumption
    | with_reducible refine ite_kept ?_ ?_
    | with_reducible refine ite_fst_kept ?_ ?_
    | dsimp only
    | (with_reducible refine kept_vault ?_; simp only [↓State.mk_vault]; simp only [pending_vault, time_vault, patch_vault, nextPatch_vault, copyA_vault, copyB_vault, update_vault, mem_vault, Vault.eta]; with_reducible refine vault_kept ?_)
    | with_reducible refine (State.setBounds_kept ..).of ?_
    | with_reducible refine (State.doRestore_kept ..).of ?_
    | (with_reducible refine (foldl_kept ?_ _ _).of ?_ <;> try intro _ _)

theorem State.settleBounds_kept (s : State) (p : Nat) : Kept s (State.settleBounds s p) := by
  unfold State.settleBounds
  repeat' first
    | with_reducible rfl
    | with_reducible assumption
    | with_reducible refine ite_kept ?_ ?_
    | with_reducible refine ite_fst_kept ?_ ?_
    | dsimp only
    | (with_reducible refine kept_vault ?_; simp only [↓State.mk_vault]; simp only [pending_vault, time_vault, patch_vault, nextPatch_vault, copyA_vault, copyB_vault, update_vault, mem_vault, Vault.eta]; with_reducible refine vault_kept ?_)
    | with_reducible refine (State.take_kept ..).of ?_
    | with_reducible refine (State.takeSnap_kept ..).of ?_
    | with_reducible refine (State.endTakes_kept ..).of ?_
    | with_reducible refine (State.endRestores_kept ..).of ?_

theorem hSnapSet_kept (c : Cmd) (s : State) : Kept s (hSnapSet c s).1 := by
  unfold hSnapSet
  refine withPb_kept _ _ _ ?_ _ _
  intro c bs s
  repeat' first
    | with_reducible rfl
    | with_reducible assumption
    | with_reducible refine ite_kept ?_ ?_
    | with_reducible refine ite_fst_kept ?_ ?_
    | dsimp only
    | (with_reducible refine kept_vault ?_; simp only [↓State.mk_vault]; simp only [pending_vault, time_vault, patch_vault, nextPatch_vault, copyA_vault, copyB_vault, update_vault, mem_vault, Vault.eta]; with_reducible refine vault_kept ?_)
    | with_reducible refine (State.updSnap_kept ..).of ?_

theorem hSnapTake_kept (c : Cmd) (s : State) : Kept s (hSnapTake c s).1 := by
  unfold hSnapTake
  repeat' first
    | with_reducible rfl
    | with_reducible assumption
    | with_reducible refine ite_kept ?_ ?_
    | with_reducible refine ite_fst_kept ?_ ?_
    | dsimp only
    | (with_reducible refine kept_vault ?_; simp only [↓State.mk_vault]; simp only [pending_vault, time_vault, patch_vault, nextPatch_vault, copyA_vault, copyB_vault, update_vault, mem_vault, Vault.eta]; with_reducible refine vault_kept ?_)
    | with_reducible refine (State.take_kept ..).of ?_
    | with_reducible refine (State.settleBounds_kept ..).of ?_

theorem hSnapList_kept (c : Cmd) (s : State) : Kept s (hSnapList c s).1 := by
  unfold hSnapList
  repeat' first
    | with_reducible rfl
    | with_reducible assumption
    | with_reducible refine ite_kept ?_ ?_
    | with_reducible refine ite_fst_kept ?_ ?_
    | dsimp only
    | (with_reducible refine kept_vault ?_; simp only [↓State.mk_vault]; simp only [pending_vault, time_vault, patch_vault, nextPatch_vault, copyA_vault, copyB_vault, update_vault, mem_vault, Vault.eta]; with_reducible refine vault_kept ?_)
    | with_reducible refine (State.take_kept ..).of ?_
    | with_reducible refine (State.awWrite_kept ..).of ?_
    | split

theorem hSnapRestore_kept (c : Cmd) (s : State) : Kept s (hSnapRestore c s).1 := by
  unfold hSnapRestore
  repeat' first
    | with_reducible rfl
    | with_reducible assumption
    | with_reducible refine ite_kept ?_ ?_
    | with_reducible refine ite_fst_kept ?_ ?_
    | dsimp only
    | (with_reducible refine kept_vault ?_; simp only [↓State.mk_vault]; simp only [pending_vault, time_vault, patch_vault, nextPatch_vault, copyA_vault, copyB_vault, update_vault, mem_vault, Vault.eta]; with_reducible refine vault_kept ?_)
    | with_reducible refine (State.readSnap_kept ..).of ?_
    | split

theorem hSnapDelete_kept (c : Cmd) (s : State) : Kept s (hSnapDelete c s).1 := by
  unfold hSnapDelete
  repeat' first
    | with_reducible rfl
    | with_reducible assumption
    | with_reducible refine ite_kept ?_ ?_
    | with_reducible refine ite_fst_kept ?_ ?_
    | dsimp only
    | (with_reducible refine kept_vault ?_; simp only [↓State.mk_vault]; simp only [pending_vault, time_vault, patch_vault, nextPatch_vault, copyA_vault, copyB_vault, update_vault, mem_vault, Vault.eta]; with_reducible refine vault_kept ?_)
    | with_reducible refine (State.dropFsnap_kept ..).of ?_
    | split

theorem hSnapExport_kept (c : Cmd) (s : State) : Kept s (hSnapExport c s).1 := by
  unfold hSnapExport
  repeat' first
    | with_reducible rfl
    | with_reducible assumption
    | with_reducible refine ite_kept ?_ ?_
    | with_reducible refine ite_fst_kept ?_ ?_
    | dsimp only
    | (with_reducible refine kept_vault ?_; simp only [↓State.mk_vault]; simp only [pending_vault, time_vault, patch_vault, nextPatch_vault, copyA_vault, copyB_vault, update_vault, mem_vault, Vault.eta]; with_reducible refine vault_kept ?_)
    | with_reducible refine (State.readSnap_kept ..).of ?_
    | split

theorem finSnapExport_kept (c : Cmd) (s : State) : Kept s (finSnapExport c s) := by
  unfold finSnapExport
  repeat' first
    | with_reducible rfl
    | with_reducible assumption
    | with_reducible refine ite_kept ?_ ?_
    | with_reducible refine ite_fst_kept ?_ ?_
    | dsimp only
    | (with_reducible refine kept_vault ?_; simp only [↓State.mk_vault]; simp only [pending_vault, time_vault, patch_vault, nextPatch_vault, copyA_vault, copyB_vault, update_vault, mem_vault, Vault.eta]; with_reducible refine vault_kept ?_)
    | with_reducible refine (State.endRead_kept ..).of ?_
    | with_reducible refine (State.complete_kept ..).of ?_
    | with_reducible refine (State.awWrite_kept ..).of ?_
    | split

theorem hSnapImport_kept (c : Cmd) (s : State) : Kept s (hSnapImport c s).1 := by
  unfold hSnapImport
  repeat' first
    | with_reducible rfl
    | with_reducible assumption
    | with_reducible refine ite_kept ?_ ?_
    | with_reducible refine ite_fst_kept ?_ ?_

theorem finSnapImport_kept (c : Cmd) (s : State) : Kept s (finSnapImport c s) := by
  unfold finSnapImport
  repeat' first
    | with_reducible rfl
    | with_reducible assumption
    | with_reducible refine ite_kept ?_ ?_
    | with_reducible refine ite_fst_kept ?_ ?_
    | dsimp only
    | (with_reducible refine kept_vault ?_; simp only [↓State.mk_vault]; simp only [pending_vault, time_vault, patch_vault, nextPatch_vault, copyA_vault, copyB_vault, update_vault, mem_vault, Vault.eta]; with_reducible refine vault_kept ?_)
    | with_reducible refine (State.complete_kept ..).of ?_
    | with_reducible refine (State.charge_kept ..).of ?_
    | with_reducible refine (State.updSnap_kept ..).of ?_
    | with_reducible refine (State.commit_kept ..).of ?_
    | split

end Sys2Proof.Machine
end

