-- ==== Sys2Proof/Laws/KeptSteps.lean ====
section
/-!
SUPPORT. The operations of Machine/Steps keep what Kept says.
-/

set_option Elab.async false

namespace Sys2Proof.Machine

theorem State.updRun_kept (s : State) (p : Nat) (f : Run → Run) : Kept s (State.updRun s p f) := by
  unfold State.updRun
  repeat' first
    | with_reducible rfl
    | with_reducible assumption
    | with_reducible refine ite_kept ?_ ?_
    | with_reducible refine ite_fst_kept ?_ ?_
    | dsimp only
    | (with_reducible refine kept_vault ?_; simp only [↓State.mk_vault]; simp only [pending_vault, time_vault, patch_vault, nextPatch_vault, copyA_vault, copyB_vault, update_vault, mem_vault, Vault.eta]; with_reducible refine vault_kept ?_)

theorem State.updLog_kept (s : State) (p n : Nat) (f : StepLog → StepLog) : Kept s (State.updLog s p n f) := by
  unfold State.updLog
  repeat' first
    | with_reducible rfl
    | with_reducible assumption
    | with_reducible refine ite_kept ?_ ?_
    | with_reducible refine ite_fst_kept ?_ ?_
    | dsimp only
    | (with_reducible refine kept_vault ?_; simp only [↓State.mk_vault]; simp only [pending_vault, time_vault, patch_vault, nextPatch_vault, copyA_vault, copyB_vault, update_vault, mem_vault, Vault.eta]; with_reducible refine vault_kept ?_)

theorem State.updFab_kept (s : State) (p : Nat) (f : FabPart → FabPart) : Kept s (State.updFab s p f) := by
  unfold State.updFab
  repeat' first
    | with_reducible rfl
    | with_reducible assumption
    | with_reducible refine ite_kept ?_ ?_
    | with_reducible refine ite_fst_kept ?_ ?_
    | dsimp only
    | (with_reducible refine kept_vault ?_; simp only [↓State.mk_vault]; simp only [pending_vault, time_vault, patch_vault, nextPatch_vault, copyA_vault, copyB_vault, update_vault, mem_vault, Vault.eta]; with_reducible refine vault_kept ?_)

theorem State.admitEntry_kept (s : State) (e : QpEntry) (p q : Nat) : Kept s (State.admitEntry s e p q) := by
  unfold State.admitEntry
  repeat' first
    | with_reducible rfl
    | with_reducible assumption
    | with_reducible refine ite_kept ?_ ?_
    | with_reducible refine ite_fst_kept ?_ ?_
    | dsimp only
    | (with_reducible refine kept_vault ?_; simp only [↓State.mk_vault]; simp only [pending_vault, time_vault, patch_vault, nextPatch_vault, copyA_vault, copyB_vault, update_vault, mem_vault, Vault.eta]; with_reducible refine vault_kept ?_)
    | with_reducible refine (State.setSeq_kept ..).of ?_

theorem State.admitOne_kept (s : State) (p q : Nat) (e : QpEntry) (bad : Bool) : Kept s (State.admitOne s p q e bad).1 := by
  unfold State.admitOne
  repeat' first
    | with_reducible rfl
    | with_reducible assumption
    | with_reducible refine ite_kept ?_ ?_
    | with_reducible refine ite_fst_kept ?_ ?_
    | dsimp only
    | (with_reducible refine kept_vault ?_; simp only [↓State.mk_vault]; simp only [pending_vault, time_vault, patch_vault, nextPatch_vault, copyA_vault, copyB_vault, update_vault, mem_vault, Vault.eta]; with_reducible refine vault_kept ?_)
    | with_reducible refine (State.take_kept ..).of ?_
    | with_reducible refine (State.updQp_kept ..).of ?_
    | with_reducible refine (State.endEntry_kept ..).of ?_
    | with_reducible refine (State.admitEntry_kept ..).of ?_
    | split

theorem State.admitFrom_kept (p q limit : Nat) (s : State) : Kept s (State.admitFrom p q limit s).1 := by
  induction limit generalizing s with
  | zero => rfl
  | succ n ih =>
    simp only [State.admitFrom]
    split
    · split
      · rfl
      · exact (ih _).of (State.admitOne_kept ..)
    · rfl

theorem State.admitAll_kept (p : Nat) (limit : Nat → Nat) (qs : List Nat) (s : State) : Kept s (State.admitAll p limit qs s).1 := by
  induction qs generalizing s with
  | nil => rfl
  | cons q qs ih => exact (ih _).of (State.admitFrom_kept ..)

theorem State.takeIn_kept {s : State} {p : Nat} {t : State} (h : State.takeIn s p = some t) : Kept s t := by
  unfold State.takeIn at h
  try dsimp only at h
  repeat' split at h
  all_goals first
    | (cases h; done)
    | (simp at h; done)
    | (cases h
       repeat' first
         | with_reducible rfl
         | with_reducible assumption
         | with_reducible refine ite_kept ?_ ?_
         | with_reducible refine ite_fst_kept ?_ ?_
         | dsimp only
         | (with_reducible refine kept_vault ?_; simp only [↓State.mk_vault]; simp only [pending_vault, time_vault, patch_vault, nextPatch_vault, copyA_vault, copyB_vault, update_vault, mem_vault, Vault.eta]; with_reducible refine vault_kept ?_)
         | with_reducible refine (State.admitEntry_kept ..).of ?_
         | with_reducible refine (State.updLog_kept ..).of ?_
         | with_reducible refine (State.admitAll_kept ..).of ?_
         | with_reducible refine (State.updFab_kept ..).of ?_
         | with_reducible refine (State.tell_kept ..).of ?_
         | (with_reducible refine (foldl_kept ?_ _ _).of ?_ <;> try intro _ _)
       )

theorem Emit.put_kept (b : Emit) (p : Nat) (plan : Plan) (bs : List Byte) : Kept b.s (Emit.put b p plan bs).1.s := by
  unfold Emit.put
  repeat' first
    | with_reducible rfl
    | with_reducible assumption
    | with_reducible refine ite_kept ?_ ?_
    | with_reducible refine ite_fst_kept ?_ ?_
    | dsimp only
    | (with_reducible refine kept_vault ?_; simp only [↓State.mk_vault]; simp only [pending_vault, time_vault, patch_vault, nextPatch_vault, copyA_vault, copyB_vault, update_vault, mem_vault, Vault.eta]; with_reducible refine vault_kept ?_)
    | with_reducible refine (State.failRun_kept ..).of ?_
    | with_reducible refine (State.write_kept ..).of ?_
    | with_reducible refine (MapEdit.write_kept ..).of ?_
    | split

theorem Emit.range_kept (b : Emit) (p : Nat) (r : Run) (tag stage : Nat) : Kept b.s (Emit.range b p r tag stage).s := by
  unfold Emit.range
  repeat' first
    | with_reducible rfl
    | with_reducible assumption
    | with_reducible refine ite_kept ?_ ?_
    | with_reducible refine ite_fst_kept ?_ ?_
    | dsimp only
    | (with_reducible refine kept_vault ?_; simp only [↓State.mk_vault]; simp only [pending_vault, time_vault, patch_vault, nextPatch_vault, copyA_vault, copyB_vault, update_vault, mem_vault, Vault.eta]; with_reducible refine vault_kept ?_)
    | with_reducible refine (State.write_kept ..).of ?_
    | with_reducible refine (MapEdit.write_kept ..).of ?_
    | with_reducible refine (State.updRun_kept ..).of ?_

theorem Emit.build_kept (b : Emit) (p : Nat) (r : Run) (g : Stage) (kern : Kernel) (i tag : Nat) (sel : List Nat) : Kept b.s (Emit.build b p r g kern i tag sel).1.s := by
  unfold Emit.build
  repeat' first
    | with_reducible rfl
    | with_reducible assumption
    | with_reducible refine ite_kept ?_ ?_
    | with_reducible refine ite_fst_kept ?_ ?_
    | dsimp only
    | (with_reducible refine kept_vault ?_; simp only [↓State.mk_vault]; simp only [pending_vault, time_vault, patch_vault, nextPatch_vault, copyA_vault, copyB_vault, update_vault, mem_vault, Vault.eta]; with_reducible refine vault_kept ?_)
    | with_reducible refine (Emit.put_kept ..).of ?_
    | with_reducible refine (Emit.range_kept ..).of ?_
    | split

theorem Emit.buildFor_kept (b : Emit) (p : Nat) (r : Run) (g : Stage) (kern : Kernel) (i tag : Nat) (sel : List Nat) : Kept b.s (Emit.buildFor b p r g kern i tag sel).1.s := by
  unfold Emit.buildFor
  repeat' first
    | with_reducible rfl
    | with_reducible assumption
    | with_reducible refine ite_kept ?_ ?_
    | with_reducible refine ite_fst_kept ?_ ?_
    | dsimp only
    | (with_reducible refine kept_vault ?_; simp only [↓State.mk_vault]; simp only [pending_vault, time_vault, patch_vault, nextPatch_vault, copyA_vault, copyB_vault, update_vault, mem_vault, Vault.eta]; with_reducible refine vault_kept ?_)
    | with_reducible refine (Emit.build_kept ..).of ?_
    | split

theorem Emit.putArgs_kept (b : Emit) (p : Nat) (r : Run) (g : Stage) (e : LaunchE) (args : List Byte) : Kept b.s (Emit.putArgs b p r g e args).1.s := by
  unfold Emit.putArgs
  repeat' first
    | with_reducible rfl
    | with_reducible assumption
    | with_reducible refine ite_kept ?_ ?_
    | with_reducible refine ite_fst_kept ?_ ?_
    | dsimp only
    | (with_reducible refine kept_vault ?_; simp only [↓State.mk_vault]; simp only [pending_vault, time_vault, patch_vault, nextPatch_vault, copyA_vault, copyB_vault, update_vault, mem_vault, Vault.eta]; with_reducible refine vault_kept ?_)
    | with_reducible refine (Emit.put_kept ..).of ?_
    | split

theorem Emit.accept_kept (b : Emit) (p : Nat) (r : Run) (i it tag : Nat) (e : LaunchE) (img : Image) (kern : Kernel) : Kept b.s (Emit.accept b p r i it tag e img kern).s := by
  unfold Emit.accept
  repeat' first
    | with_reducible rfl
    | with_reducible assumption
    | with_reducible refine ite_kept ?_ ?_
    | with_reducible refine ite_fst_kept ?_ ?_
    | dsimp only
    | (with_reducible refine kept_vault ?_; simp only [↓State.mk_vault]; simp only [pending_vault, time_vault, patch_vault, nextPatch_vault, copyA_vault, copyB_vault, update_vault, mem_vault, Vault.eta]; with_reducible refine vault_kept ?_)
    | with_reducible refine (State.acceptLaunch_kept ..).of ?_

theorem Emit.launch_kept (b : Emit) (p : Nat) (r : Run) (sel : List Nat) (recs i it tag : Nat) (g : Stage) (img : Image) (kern : Kernel)
    (a ext : Nat) : Kept b.s (Emit.launch b p r sel recs i it tag g img kern a ext).s := by
  unfold Emit.launch
  repeat' first
    | with_reducible rfl
    | with_reducible assumption
    | with_reducible refine ite_kept ?_ ?_
    | with_reducible refine ite_fst_kept ?_ ?_
    | dsimp only
    | (with_reducible refine kept_vault ?_; simp only [↓State.mk_vault]; simp only [pending_vault, time_vault, patch_vault, nextPatch_vault, copyA_vault, copyB_vault, update_vault, mem_vault, Vault.eta]; with_reducible refine vault_kept ?_)
    | with_reducible refine (Emit.putArgs_kept ..).of ?_
    | with_reducible refine (Emit.accept_kept ..).of ?_
    | with_reducible refine (Emit.range_kept ..).of ?_
    | split

theorem Emit.stage_kept (b : Emit) (p : Nat) (r : Run) (sel : List Nat) (recs k i it : Nat) : Kept b.s (Emit.stage b p r sel recs k i it).s := by
  unfold Emit.stage
  repeat' first
    | with_reducible rfl
    | with_reducible assumption
    | with_reducible refine ite_kept ?_ ?_
    | with_reducible refine ite_fst_kept ?_ ?_
    | dsimp only
    | (with_reducible refine kept_vault ?_; simp only [↓State.mk_vault]; simp only [pending_vault, time_vault, patch_vault, nextPatch_vault, copyA_vault, copyB_vault, update_vault, mem_vault, Vault.eta]; with_reducible refine vault_kept ?_)
    | with_reducible refine (State.failRun_kept ..).of ?_
    | with_reducible refine (Emit.buildFor_kept ..).of ?_
    | with_reducible refine (Emit.launch_kept ..).of ?_
    | split

theorem foldl_emit_kept {α : Type} (f : Emit → α → Emit) (h : ∀ b x, Kept b.s (f b x).s) (l : List α) (b : Emit) :
    Kept b.s (l.foldl f b).s := by
  induction l generalizing b with
  | nil => rfl
  | cons x l ih => exact (ih _).of (h b x)

theorem State.emitStep_kept (s : State) (p : Nat) (r : Run) (sel : List Nat) : Kept s (State.emitStep s p r sel) := by
  simp only [State.emitStep]
  exact (foldl_emit_kept _ (fun b x => Emit.stage_kept ..) _ _).of (State.write_kept ..)

theorem State.tick_kept (s : State) (p : Nat) : Kept s (State.tick s p) := by
  unfold State.tick
  repeat' first
    | with_reducible rfl
    | with_reducible assumption
    | with_reducible refine ite_kept ?_ ?_
    | with_reducible refine ite_fst_kept ?_ ?_
    | dsimp only
    | (with_reducible refine kept_vault ?_; simp only [↓State.mk_vault]; simp only [pending_vault, time_vault, patch_vault, nextPatch_vault, copyA_vault, copyB_vault, update_vault, mem_vault, Vault.eta]; with_reducible refine vault_kept ?_)
    | with_reducible refine (State.takeIn_kept (by with_reducible assumption)).of ?_
    | with_reducible refine (State.updRun_kept ..).of ?_
    | with_reducible refine (State.updLog_kept ..).of ?_
    | with_reducible refine (State.updPart_kept ..).of ?_
    | with_reducible refine (State.emitStep_kept ..).of ?_
    | split

theorem State.applyBound_kept (s : State) (p : Nat) (b : Boundary) (log : Bool) : Kept s (State.applyBound s p b log) := by
  unfold State.applyBound
  repeat' first
    | with_reducible rfl
    | with_reducible assumption
    | with_reducible refine ite_kept ?_ ?_
    | with_reducible refine ite_fst_kept ?_ ?_
    | dsimp only
    | (with_reducible refine kept_vault ?_; simp only [↓State.mk_vault]; simp only [pending_vault, time_vault, patch_vault, nextPatch_vault, copyA_vault, copyB_vault, update_vault, mem_vault, Vault.eta]; with_reducible refine vault_kept ?_)
    | with_reducible refine (State.endWait_kept ..).of ?_
    | with_reducible refine (State.setSeq_kept ..).of ?_
    | with_reducible refine (State.updLog_kept ..).of ?_
    | with_reducible refine (State.finishSeq_kept ..).of ?_
    | split

theorem State.redoEdits_kept (s : State) (p : Nat) : Kept s (State.redoEdits s p) := by
  unfold State.redoEdits
  repeat' first
    | with_reducible rfl
    | with_reducible assumption
    | with_reducible refine ite_kept ?_ ?_
    | with_reducible refine ite_fst_kept ?_ ?_
    | dsimp only
    | (with_reducible refine kept_vault ?_; simp only [↓State.mk_vault]; simp only [pending_vault, time_vault, patch_vault, nextPatch_vault, copyA_vault, copyB_vault, update_vault, mem_vault, Vault.eta]; with_reducible refine vault_kept ?_)
    | with_reducible refine (State.setSeq_kept ..).of ?_
    | with_reducible refine (State.finishSeq_kept ..).of ?_
    | (with_reducible refine (foldl_kept ?_ _ _).of ?_ <;> try intro _ _)
    | split

theorem State.redoBoundary_kept (s : State) (p : Nat) : Kept s (State.redoBoundary s p) := by
  unfold State.redoBoundary
  repeat' first
    | with_reducible rfl
    | with_reducible assumption
    | with_reducible refine ite_kept ?_ ?_
    | with_reducible refine ite_fst_kept ?_ ?_
    | dsimp only
    | (with_reducible refine kept_vault ?_; simp only [↓State.mk_vault]; simp only [pending_vault, time_vault, patch_vault, nextPatch_vault, copyA_vault, copyB_vault, update_vault, mem_vault, Vault.eta]; with_reducible refine vault_kept ?_)
    | with_reducible refine (State.finishDone_kept ..).of ?_
    | with_reducible refine (State.redoEdits_kept ..).of ?_

theorem State.applyBounds_kept (s : State) (p : Nat) (log : Bool) : Kept s (State.applyBounds s p log) := by
  unfold State.applyBounds
  repeat' first
    | with_reducible rfl
    | with_reducible assumption
    | with_reducible refine ite_kept ?_ ?_
    | with_reducible refine ite_fst_kept ?_ ?_
    | dsimp only
    | (with_reducible refine kept_vault ?_; simp only [↓State.mk_vault]; simp only [pending_vault, time_vault, patch_vault, nextPatch_vault, copyA_vault, copyB_vault, update_vault, mem_vault, Vault.eta]; with_reducible refine vault_kept ?_)
    | with_reducible refine (State.redoEdits_kept ..).of ?_
    | with_reducible refine (State.applyBound_kept ..).of ?_
    | with_reducible refine (State.setBounds_kept ..).of ?_
    | (with_reducible refine (foldl_kept ?_ _ _).of ?_ <;> try intro _ _)

theorem State.endRun_kept (s : State) (p status : Nat) : Kept s (State.endRun s p status) := by
  unfold State.endRun
  repeat' first
    | with_reducible rfl
    | with_reducible assumption
    | with_reducible refine ite_kept ?_ ?_
    | with_reducible refine ite_fst_kept ?_ ?_
    | dsimp only
    | (with_reducible refine kept_vault ?_; simp only [↓State.mk_vault]; simp only [pending_vault, time_vault, patch_vault, nextPatch_vault, copyA_vault, copyB_vault, update_vault, mem_vault, Vault.eta]; with_reducible refine vault_kept ?_)
    | with_reducible refine (State.endEntry_kept ..).of ?_
    | with_reducible refine (State.applyBounds_kept ..).of ?_
    | with_reducible refine (State.settleBounds_kept ..).of ?_
    | split

theorem State.boundaryDone_kept (s : State) (p : Nat) (due : Bool) (digest : W64) : Kept s (State.boundaryDone s p due digest) := by
  unfold State.boundaryDone
  repeat' first
    | with_reducible rfl
    | with_reducible assumption
    | with_reducible refine ite_kept ?_ ?_
    | with_reducible refine ite_fst_kept ?_ ?_
    | dsimp only
    | (with_reducible refine kept_vault ?_; simp only [↓State.mk_vault]; simp only [pending_vault, time_vault, patch_vault, nextPatch_vault, copyA_vault, copyB_vault, update_vault, mem_vault, Vault.eta]; with_reducible refine vault_kept ?_)
    | with_reducible refine (State.setSeq_kept ..).of ?_
    | with_reducible refine (State.updPart_kept ..).of ?_
    | with_reducible refine (State.updRun_kept ..).of ?_
    | with_reducible refine (State.due_kept ..).of ?_
    | with_reducible refine (State.takeSnap_kept ..).of ?_
    | with_reducible refine (State.endTakes_kept ..).of ?_
    | with_reducible refine (State.updSnap_kept ..).of ?_
    | with_reducible refine (State.finishDone_kept ..).of ?_
    | with_reducible refine (State.applyBounds_kept ..).of ?_
    | with_reducible refine (State.endRun_kept ..).of ?_
    | with_reducible refine (State.tick_kept ..).of ?_
    | (with_reducible refine (foldl_kept ?_ _ _).of ?_ <;> try intro _ _)
    | split

theorem stepBoundary_kept (p : Nat) (s : State) : Kept s (stepBoundary p s) := by
  unfold stepBoundary
  repeat' first
    | with_reducible rfl
    | with_reducible assumption
    | with_reducible refine ite_kept ?_ ?_
    | with_reducible refine ite_fst_kept ?_ ?_
    | dsimp only
    | (with_reducible refine kept_vault ?_; simp only [↓State.mk_vault]; simp only [pending_vault, time_vault, patch_vault, nextPatch_vault, copyA_vault, copyB_vault, update_vault, mem_vault, Vault.eta]; with_reducible refine vault_kept ?_)
    | with_reducible refine (State.endRun_kept ..).of ?_
    | with_reducible refine (State.updRun_kept ..).of ?_
    | with_reducible refine (State.tell_kept ..).of ?_
    | with_reducible refine (State.boundaryDone_kept ..).of ?_
    | split

theorem stepTick_kept (p : Nat) (s : State) : Kept s (stepTick p s) := by
  unfold stepTick
  repeat' first
    | with_reducible rfl
    | with_reducible assumption
    | with_reducible refine ite_kept ?_ ?_
    | with_reducible refine ite_fst_kept ?_ ?_
    | dsimp only
    | (with_reducible refine kept_vault ?_; simp only [↓State.mk_vault]; simp only [pending_vault, time_vault, patch_vault, nextPatch_vault, copyA_vault, copyB_vault, update_vault, mem_vault, Vault.eta]; with_reducible refine vault_kept ?_)
    | with_reducible refine (State.tick_kept ..).of ?_
    | split

theorem State.openBars_kept (s : State) (p : Nat) : Kept s (State.openBars s p) := by
  unfold State.openBars
  repeat' first
    | with_reducible rfl
    | with_reducible assumption
    | with_reducible refine ite_kept ?_ ?_
    | with_reducible refine ite_fst_kept ?_ ?_
    | dsimp only
    | (with_reducible refine kept_vault ?_; simp only [↓State.mk_vault]; simp only [pending_vault, time_vault, patch_vault, nextPatch_vault, copyA_vault, copyB_vault, update_vault, mem_vault, Vault.eta]; with_reducible refine vault_kept ?_)
    | with_reducible refine (State.setBar_kept ..).of ?_
    | (with_reducible refine (foldl_kept ?_ _ _).of ?_ <;> try intro _ _)

theorem State.firstCapture_kept (s : State) (p : Nat) : Kept s (State.firstCapture s p) := by
  unfold State.firstCapture
  repeat' first
    | with_reducible rfl
    | with_reducible assumption
    | with_reducible refine ite_kept ?_ ?_
    | with_reducible refine ite_fst_kept ?_ ?_
    | dsimp only
    | (with_reducible refine kept_vault ?_; simp only [↓State.mk_vault]; simp only [pending_vault, time_vault, patch_vault, nextPatch_vault, copyA_vault, copyB_vault, update_vault, mem_vault, Vault.eta]; with_reducible refine vault_kept ?_)
    | with_reducible refine (State.takeSnap_kept ..).of ?_
    | with_reducible refine (State.endTakes_kept ..).of ?_
    | with_reducible refine (State.updSnap_kept ..).of ?_

theorem State.startRun_kept (s : State) (q p : Nat) (e : QpEntry) (plan : Plan) : Kept s (State.startRun s q p e plan) := by
  unfold State.startRun
  repeat' first
    | with_reducible rfl
    | with_reducible assumption
    | with_reducible refine ite_kept ?_ ?_
    | with_reducible refine ite_fst_kept ?_ ?_
    | dsimp only
    | (with_reducible refine kept_vault ?_; simp only [↓State.mk_vault]; simp only [pending_vault, time_vault, patch_vault, nextPatch_vault, copyA_vault, copyB_vault, update_vault, mem_vault, Vault.eta]; with_reducible refine vault_kept ?_)
    | with_reducible refine (State.due_kept ..).of ?_
    | with_reducible refine (State.take_kept ..).of ?_
    | with_reducible refine (State.dropLog_kept ..).of ?_
    | with_reducible refine (State.openBars_kept ..).of ?_
    | with_reducible refine (State.firstCapture_kept ..).of ?_
    | with_reducible refine (State.tick_kept ..).of ?_

theorem stepTake_kept (q : Nat) (s : State) : Kept s (stepTake q s) := by
  unfold stepTake
  repeat' first
    | with_reducible rfl
    | with_reducible assumption
    | with_reducible refine ite_kept ?_ ?_
    | with_reducible refine ite_fst_kept ?_ ?_
    | dsimp only
    | (with_reducible refine kept_vault ?_; simp only [↓State.mk_vault]; simp only [pending_vault, time_vault, patch_vault, nextPatch_vault, copyA_vault, copyB_vault, update_vault, mem_vault, Vault.eta]; with_reducible refine vault_kept ?_)
    | (with_reducible refine (State.takeOr_kept _ _ _ _ _ ?_).of ?_ <;> try intros)
    | with_reducible refine (State.endRun_kept ..).of ?_
    | with_reducible refine (State.updRun_kept ..).of ?_
    | with_reducible refine (State.startRun_kept ..).of ?_
    | split
    | simp only [id_eq]

theorem State.spoilCore_kept (s : State) (c p : Nat) (mine : Thread → Bool) : Kept s (State.spoilCore s c p mine) := by
  unfold State.spoilCore
  repeat' first
    | with_reducible rfl
    | with_reducible assumption
    | with_reducible refine ite_kept ?_ ?_
    | with_reducible refine ite_fst_kept ?_ ?_
    | dsimp only
    | (with_reducible refine kept_vault ?_; simp only [↓State.mk_vault]; simp only [pending_vault, time_vault, patch_vault, nextPatch_vault, copyA_vault, copyB_vault, update_vault, mem_vault, Vault.eta]; with_reducible refine vault_kept ?_)
    | with_reducible refine (State.freeSpans_kept ..).of ?_

theorem State.killLaunch_kept (s : State) (key : Nat) (l : Launch) : Kept s (State.killLaunch s key l) := by
  unfold State.killLaunch
  repeat' first
    | with_reducible rfl
    | with_reducible assumption
    | with_reducible refine ite_kept ?_ ?_
    | with_reducible refine ite_fst_kept ?_ ?_
    | dsimp only
    | (with_reducible refine kept_vault ?_; simp only [↓State.mk_vault]; simp only [pending_vault, time_vault, patch_vault, nextPatch_vault, copyA_vault, copyB_vault, update_vault, mem_vault, Vault.eta]; with_reducible refine vault_kept ?_)
    | with_reducible refine (Emit.launch_kept ..).of ?_
    | with_reducible refine (State.spoilCore_kept ..).of ?_
    | with_reducible refine (State.leaveWaits_kept ..).of ?_
    | with_reducible refine (State.leaveBars_kept ..).of ?_
    | with_reducible refine (State.setCtx_kept ..).of ?_
    | with_reducible refine (State.updCore_kept ..).of ?_
    | with_reducible refine (State.unpin_kept ..).of ?_
    | with_reducible refine (State.updFox_kept ..).of ?_
    | with_reducible refine (State.freeSpans_kept ..).of ?_
    | with_reducible refine (State.updPrim_kept ..).of ?_
    | (with_reducible refine (foldl_kept ?_ _ _).of ?_ <;> try intro _ _)
    | split

theorem State.discardStep_kept (s : State) (p : Nat) : Kept s (State.discardStep s p) := by
  unfold State.discardStep
  repeat' first
    | with_reducible rfl
    | with_reducible assumption
    | with_reducible refine ite_kept ?_ ?_
    | with_reducible refine ite_fst_kept ?_ ?_
    | dsimp only
    | (with_reducible refine kept_vault ?_; simp only [↓State.mk_vault]; simp only [pending_vault, time_vault, patch_vault, nextPatch_vault, copyA_vault, copyB_vault, update_vault, mem_vault, Vault.eta]; with_reducible refine vault_kept ?_)
    | with_reducible refine (State.killLaunch_kept ..).of ?_
    | with_reducible refine (State.updRun_kept ..).of ?_
    | (with_reducible refine (foldl_kept ?_ _ _).of ?_ <;> try intro _ _)

theorem State.replayFrom_kept (s : State) (p : Nat) (snap : Snap) (barrier : Bool) : Kept s (State.replayFrom s p snap barrier) := by
  unfold State.replayFrom
  repeat' first
    | with_reducible rfl
    | with_reducible assumption
    | with_reducible refine ite_kept ?_ ?_
    | with_reducible refine ite_fst_kept ?_ ?_
    | dsimp only
    | (with_reducible refine kept_vault ?_; simp only [↓State.mk_vault]; simp only [pending_vault, time_vault, patch_vault, nextPatch_vault, copyA_vault, copyB_vault, update_vault, mem_vault, Vault.eta]; with_reducible refine vault_kept ?_)
    | with_reducible refine (State.discardStep_kept ..).of ?_
    | with_reducible refine (State.placeSnap_kept ..).of ?_
    | with_reducible refine (State.redoBoundary_kept ..).of ?_
    | with_reducible refine (State.updSnap_kept ..).of ?_
    | with_reducible refine (State.event_kept ..).of ?_
    | with_reducible refine (State.updRun_kept ..).of ?_
    | with_reducible refine (State.tick_kept ..).of ?_

theorem State.restoreRun_kept (s : State) (p : Nat) (snap : Snap) (barrier : Bool) : Kept s (State.restoreRun s p snap barrier) := by
  unfold State.restoreRun
  repeat' first
    | with_reducible rfl
    | with_reducible assumption
    | with_reducible refine ite_kept ?_ ?_
    | with_reducible refine ite_fst_kept ?_ ?_
    | dsimp only
    | (with_reducible refine kept_vault ?_; simp only [↓State.mk_vault]; simp only [pending_vault, time_vault, patch_vault, nextPatch_vault, copyA_vault, copyB_vault, update_vault, mem_vault, Vault.eta]; with_reducible refine vault_kept ?_)
    | with_reducible refine (State.replayFrom_kept ..).of ?_
    | with_reducible refine (State.discardStep_kept ..).of ?_
    | with_reducible refine (State.beginRead_kept ..).of ?_
    | with_reducible refine (State.updRun_kept ..).of ?_

theorem State.loseTwin_kept (s : State) (why : Nat) : Kept s (State.loseTwin s why) := by
  unfold State.loseTwin
  repeat' first
    | with_reducible rfl
    | with_reducible assumption
    | with_reducible refine ite_kept ?_ ?_
    | with_reducible refine ite_fst_kept ?_ ?_
    | dsimp only
    | (with_reducible refine kept_vault ?_; simp only [↓State.mk_vault]; simp only [pending_vault, time_vault, patch_vault, nextPatch_vault, copyA_vault, copyB_vault, update_vault, mem_vault, Vault.eta]; with_reducible refine vault_kept ?_)
    | with_reducible refine (State.eventAll_kept ..).of ?_
    | split

theorem State.replayTo_kept (s : State) (p step : Nat) : Kept s (State.replayTo s p step) := by
  unfold State.replayTo
  repeat' first
    | with_reducible rfl
    | with_reducible assumption
    | with_reducible refine ite_kept ?_ ?_
    | with_reducible refine ite_fst_kept ?_ ?_
    | dsimp only
    | (with_reducible refine kept_vault ?_; simp only [↓State.mk_vault]; simp only [pending_vault, time_vault, patch_vault, nextPatch_vault, copyA_vault, copyB_vault, update_vault, mem_vault, Vault.eta]; with_reducible refine vault_kept ?_)
    | with_reducible refine (State.restoreRun_kept ..).of ?_
    | with_reducible refine (State.discardStep_kept ..).of ?_
    | with_reducible refine (State.failModule_kept ..).of ?_
    | split

theorem State.endRestore_kept (s : State) (p : Nat) (r : Run) : Kept s (State.endRestore s p r) := by
  unfold State.endRestore
  repeat' first
    | with_reducible rfl
    | with_reducible assumption
    | with_reducible refine ite_kept ?_ ?_
    | with_reducible refine ite_fst_kept ?_ ?_
    | dsimp only
    | (with_reducible refine kept_vault ?_; simp only [↓State.mk_vault]; simp only [pending_vault, time_vault, patch_vault, nextPatch_vault, copyA_vault, copyB_vault, update_vault, mem_vault, Vault.eta]; with_reducible refine vault_kept ?_)
    | with_reducible refine (State.endRead_kept ..).of ?_
    | with_reducible refine (State.replayFrom_kept ..).of ?_
    | with_reducible refine (State.discardStep_kept ..).of ?_
    | with_reducible refine (State.failModule_kept ..).of ?_
    | with_reducible refine (State.restoreRun_kept ..).of ?_
    | split

theorem stepReplay_kept (p : Nat) (s : State) : Kept s (stepReplay p s) := by
  unfold stepReplay
  repeat' first
    | with_reducible rfl
    | with_reducible assumption
    | with_reducible refine ite_kept ?_ ?_
    | with_reducible refine ite_fst_kept ?_ ?_
    | dsimp only
    | (with_reducible refine kept_vault ?_; simp only [↓State.mk_vault]; simp only [pending_vault, time_vault, patch_vault, nextPatch_vault, copyA_vault, copyB_vault, update_vault, mem_vault, Vault.eta]; with_reducible refine vault_kept ?_)
    | with_reducible refine (State.endRestore_kept ..).of ?_
    | with_reducible refine (State.tell_kept ..).of ?_
    | with_reducible refine (State.loseTwin_kept ..).of ?_
    | with_reducible refine (State.replayTo_kept ..).of ?_
    | with_reducible refine (State.restoreRun_kept ..).of ?_
    | with_reducible refine (State.discardStep_kept ..).of ?_
    | with_reducible refine (State.failModule_kept ..).of ?_
    | split

theorem replayNotice_kept (p n : Nat) (s : State) : Kept s (replayNotice p n s) := by
  unfold replayNotice
  repeat' first
    | with_reducible rfl
    | with_reducible assumption
    | with_reducible refine ite_kept ?_ ?_
    | with_reducible refine ite_fst_kept ?_ ?_
    | dsimp only
    | (with_reducible refine kept_vault ?_; simp only [↓State.mk_vault]; simp only [pending_vault, time_vault, patch_vault, nextPatch_vault, copyA_vault, copyB_vault, update_vault, mem_vault, Vault.eta]; with_reducible refine vault_kept ?_)
    | with_reducible refine (State.replayTo_kept ..).of ?_
    | split

theorem State.rollback_kept (s : State) (p step : Nat) : Kept s (State.rollback s p step) := by
  unfold State.rollback
  repeat' first
    | with_reducible rfl
    | with_reducible assumption
    | with_reducible refine ite_kept ?_ ?_
    | with_reducible refine ite_fst_kept ?_ ?_
    | dsimp only
    | (with_reducible refine kept_vault ?_; simp only [↓State.mk_vault]; simp only [pending_vault, time_vault, patch_vault, nextPatch_vault, copyA_vault, copyB_vault, update_vault, mem_vault, Vault.eta]; with_reducible refine vault_kept ?_)
    | with_reducible refine (State.updFab_kept ..).of ?_
    | with_reducible refine (State.event_kept ..).of ?_
    | with_reducible refine (State.addRisk_kept ..).of ?_
    | with_reducible refine (State.replayTo_kept ..).of ?_

theorem stepBarrierOpen_kept (p : Nat) (xor : W64) (due : Bool) (n : Nat) (s : State) : Kept s (stepBarrierOpen p xor due n s) := by
  unfold stepBarrierOpen
  repeat' first
    | with_reducible rfl
    | with_reducible assumption
    | with_reducible refine ite_kept ?_ ?_
    | with_reducible refine ite_fst_kept ?_ ?_
    | dsimp only
    | (with_reducible refine kept_vault ?_; simp only [↓State.mk_vault]; simp only [pending_vault, time_vault, patch_vault, nextPatch_vault, copyA_vault, copyB_vault, update_vault, mem_vault, Vault.eta]; with_reducible refine vault_kept ?_)
    | with_reducible refine (State.updRun_kept ..).of ?_
    | with_reducible refine (State.tick_kept ..).of ?_
    | with_reducible refine (State.updFab_kept ..).of ?_
    | with_reducible refine (State.setBar_kept ..).of ?_
    | with_reducible refine (State.rollback_kept ..).of ?_
    | with_reducible refine (State.due_kept ..).of ?_
    | with_reducible refine (State.tell_kept ..).of ?_
    | with_reducible refine (State.boundaryDone_kept ..).of ?_
    | (with_reducible refine (foldl_kept ?_ _ _).of ?_ <;> try intro _ _)
    | split

theorem State.twinGone_kept (s : State) (why : Nat) : Kept s (State.twinGone s why) := by
  unfold State.twinGone
  repeat' first
    | with_reducible rfl
    | with_reducible assumption
    | with_reducible refine ite_kept ?_ ?_
    | with_reducible refine ite_fst_kept ?_ ?_
    | dsimp only
    | (with_reducible refine kept_vault ?_; simp only [↓State.mk_vault]; simp only [pending_vault, time_vault, patch_vault, nextPatch_vault, copyA_vault, copyB_vault, update_vault, mem_vault, Vault.eta]; with_reducible refine vault_kept ?_)
    | with_reducible refine (State.due_kept ..).of ?_
    | with_reducible refine (State.boundaryDone_kept ..).of ?_
    | with_reducible refine (State.loseTwin_kept ..).of ?_
    | (with_reducible refine (foldl_kept ?_ _ _).of ?_ <;> try intro _ _)

theorem digestExchange_kept (p : Nat) (peer : W64) (other due : Bool) (n risk : Nat) (s : State) : Kept s (digestExchange p peer other due n risk s) := by
  unfold digestExchange
  repeat' first
    | with_reducible rfl
    | with_reducible assumption
    | with_reducible refine ite_kept ?_ ?_
    | with_reducible refine ite_fst_kept ?_ ?_
    | dsimp only
    | (with_reducible refine kept_vault ?_; simp only [↓State.mk_vault]; simp only [pending_vault, time_vault, patch_vault, nextPatch_vault, copyA_vault, copyB_vault, update_vault, mem_vault, Vault.eta]; with_reducible refine vault_kept ?_)
    | with_reducible refine (State.boundaryDone_kept ..).of ?_
    | with_reducible refine (State.due_kept ..).of ?_
    | with_reducible refine (State.addRisk_kept ..).of ?_
    | with_reducible refine (State.discardStep_kept ..).of ?_
    | with_reducible refine (State.loseTwin_kept ..).of ?_
    | with_reducible refine (State.placeSnap_kept ..).of ?_
    | with_reducible refine (State.redoBoundary_kept ..).of ?_
    | with_reducible refine (State.updRun_kept ..).of ?_
    | with_reducible refine (State.twinGone_kept ..).of ?_
    | with_reducible refine (State.rollback_kept ..).of ?_
    | split

theorem State.askRung_kept (s : State) (l : Launch) (k : Nat) (w : Wwin) (layer g : Nat) (n : Nat) : Kept s (State.askRung s l k w layer g n) := by
  unfold State.askRung
  repeat' first
    | with_reducible rfl
    | with_reducible assumption
    | with_reducible refine ite_kept ?_ ?_
    | with_reducible refine ite_fst_kept ?_ ?_
    | dsimp only
    | (with_reducible refine kept_vault ?_; simp only [↓State.mk_vault]; simp only [pending_vault, time_vault, patch_vault, nextPatch_vault, copyA_vault, copyB_vault, update_vault, mem_vault, Vault.eta]; with_reducible refine vault_kept ?_)
    | with_reducible refine (State.updRun_kept ..).of ?_
    | with_reducible refine (State.updWwin_kept ..).of ?_
    | with_reducible refine (State.turnWindow_kept ..).of ?_
    | with_reducible refine (State.acceptLaunch_kept ..).of ?_
    | split

theorem State.dropUnstarted_kept (s : State) (p : Nat) : Kept s (State.dropUnstarted s p) := by
  unfold State.dropUnstarted
  repeat' first
    | with_reducible rfl
    | with_reducible assumption
    | with_reducible refine ite_kept ?_ ?_
    | with_reducible refine ite_fst_kept ?_ ?_
    | dsimp only
    | (with_reducible refine kept_vault ?_; simp only [↓State.mk_vault]; simp only [pending_vault, time_vault, patch_vault, nextPatch_vault, copyA_vault, copyB_vault, update_vault, mem_vault, Vault.eta]; with_reducible refine vault_kept ?_)
    | with_reducible refine (State.dropLaunch_kept ..).of ?_
    | (with_reducible refine (foldl_kept ?_ _ _).of ?_ <;> try intro _ _)

theorem launchComplete_kept (key : Nat) (s : State) : Kept s (launchComplete key s) := by
  unfold launchComplete
  repeat' first
    | with_reducible rfl
    | with_reducible assumption
    | with_reducible refine ite_kept ?_ ?_
    | with_reducible refine ite_fst_kept ?_ ?_
    | dsimp only
    | (with_reducible refine kept_vault ?_; simp only [↓State.mk_vault]; simp only [pending_vault, time_vault, patch_vault, nextPatch_vault, copyA_vault, copyB_vault, update_vault, mem_vault, Vault.eta]; with_reducible refine vault_kept ?_)
    | with_reducible refine (Emit.launch_kept ..).of ?_
    | with_reducible refine (State.leaveEngines_kept ..).of ?_
    | with_reducible refine (State.retireLaunch_kept ..).of ?_
    | with_reducible refine (State.endEntry_kept ..).of ?_
    | with_reducible refine (State.due_kept ..).of ?_
    | with_reducible refine (State.settleBounds_kept ..).of ?_
    | with_reducible refine (State.updQp_kept ..).of ?_
    | with_reducible refine (State.updWwin_kept ..).of ?_
    | with_reducible refine (State.updRun_kept ..).of ?_
    | with_reducible refine (State.dropUnstarted_kept ..).of ?_
    | with_reducible refine (State.askRung_kept ..).of ?_
    | split

theorem hSeqQuery_kept (c : Cmd) (s : State) : Kept s (hSeqQuery c s).1 := by
  unfold hSeqQuery
  repeat' first
    | with_reducible rfl
    | with_reducible assumption
    | with_reducible refine ite_kept ?_ ?_
    | with_reducible refine ite_fst_kept ?_ ?_
    | dsimp only
    | (with_reducible refine kept_vault ?_; simp only [↓State.mk_vault]; simp only [pending_vault, time_vault, patch_vault, nextPatch_vault, copyA_vault, copyB_vault, update_vault, mem_vault, Vault.eta]; with_reducible refine vault_kept ?_)
    | with_reducible refine (State.awWrite_kept ..).of ?_
    | split

theorem State.boundOrNow_kept (s : State) (p : Nat) (b : Boundary) : Kept s (State.boundOrNow s p b) := by
  unfold State.boundOrNow
  repeat' first
    | with_reducible rfl
    | with_reducible assumption
    | with_reducible refine ite_kept ?_ ?_
    | with_reducible refine ite_fst_kept ?_ ?_
    | dsimp only
    | (with_reducible refine kept_vault ?_; simp only [↓State.mk_vault]; simp only [pending_vault, time_vault, patch_vault, nextPatch_vault, copyA_vault, copyB_vault, update_vault, mem_vault, Vault.eta]; with_reducible refine vault_kept ?_)
    | with_reducible refine (State.applyBound_kept ..).of ?_
    | split

theorem hSeqRemove_kept (c : Cmd) (s : State) : Kept s (hSeqRemove c s).1 := by
  unfold hSeqRemove
  repeat' first
    | with_reducible rfl
    | with_reducible assumption
    | with_reducible refine ite_kept ?_ ?_
    | with_reducible refine ite_fst_kept ?_ ?_
    | dsimp only
    | (with_reducible refine kept_vault ?_; simp only [↓State.mk_vault]; simp only [pending_vault, time_vault, patch_vault, nextPatch_vault, copyA_vault, copyB_vault, update_vault, mem_vault, Vault.eta]; with_reducible refine vault_kept ?_)
    | with_reducible refine (State.boundOrNow_kept ..).of ?_
    | split

theorem hSeqHold_kept (c : Cmd) (s : State) : Kept s (hSeqHold c s).1 := by
  unfold hSeqHold
  repeat' first
    | with_reducible rfl
    | with_reducible assumption
    | with_reducible refine ite_kept ?_ ?_
    | with_reducible refine ite_fst_kept ?_ ?_
    | dsimp only
    | (with_reducible refine kept_vault ?_; simp only [↓State.mk_vault]; simp only [pending_vault, time_vault, patch_vault, nextPatch_vault, copyA_vault, copyB_vault, update_vault, mem_vault, Vault.eta]; with_reducible refine vault_kept ?_)
    | with_reducible refine (State.boundOrNow_kept ..).of ?_
    | split

end Sys2Proof.Machine
end

