-- ==== Sys2Proof/Laws/KeptPorts.lean ====
section
/-!
SUPPORT. The operations of Machine/Ports keep what Kept says.
-/

set_option Elab.async false

namespace Sys2Proof.Machine

theorem State.updPort_kept (s : State) (k : Nat) (f : Port → Port) : Kept s (State.updPort s k f) := by
  unfold State.updPort
  repeat' first
    | with_reducible rfl
    | with_reducible assumption
    | with_reducible refine ite_kept ?_ ?_
    | with_reducible refine ite_fst_kept ?_ ?_
    | dsimp only
    | (with_reducible refine kept_vault ?_; simp only [↓State.mk_vault]; simp only [pending_vault, time_vault, patch_vault, nextPatch_vault, copyA_vault, copyB_vault, update_vault, mem_vault, Vault.eta]; with_reducible refine vault_kept ?_)

theorem State.portTo_kept (s : State) (k : Nat) (st : PortState) : Kept s (State.portTo s k st) := by
  unfold State.portTo
  repeat' first
    | with_reducible rfl
    | with_reducible assumption
    | with_reducible refine ite_kept ?_ ?_
    | with_reducible refine ite_fst_kept ?_ ?_
    | dsimp only
    | (with_reducible refine kept_vault ?_; simp only [↓State.mk_vault]; simp only [pending_vault, time_vault, patch_vault, nextPatch_vault, copyA_vault, copyB_vault, update_vault, mem_vault, Vault.eta]; with_reducible refine vault_kept ?_)
    | with_reducible refine (State.updPort_kept ..).of ?_
    | with_reducible refine (State.eventAll_kept ..).of ?_

theorem State.trainPort_kept (s : State) (k : Nat) : Kept s (State.trainPort s k) := by
  unfold State.trainPort
  repeat' first
    | with_reducible rfl
    | with_reducible assumption
    | with_reducible refine ite_kept ?_ ?_
    | with_reducible refine ite_fst_kept ?_ ?_
    | dsimp only
    | (with_reducible refine kept_vault ?_; simp only [↓State.mk_vault]; simp only [pending_vault, time_vault, patch_vault, nextPatch_vault, copyA_vault, copyB_vault, update_vault, mem_vault, Vault.eta]; with_reducible refine vault_kept ?_)
    | with_reducible refine (State.updPort_kept ..).of ?_
    | with_reducible refine (State.portTo_kept ..).of ?_

theorem State.onPort_kept (s : State) (k : Nat) (bs : List Byte) : Kept s (State.onPort s k bs) := by
  unfold State.onPort
  repeat' first
    | with_reducible rfl
    | with_reducible assumption
    | with_reducible refine ite_kept ?_ ?_
    | with_reducible refine ite_fst_kept ?_ ?_
    | dsimp only
    | (with_reducible refine kept_vault ?_; simp only [↓State.mk_vault]; simp only [pending_vault, time_vault, patch_vault, nextPatch_vault, copyA_vault, copyB_vault, update_vault, mem_vault, Vault.eta]; with_reducible refine vault_kept ?_)
    | with_reducible refine (State.tell_kept ..).of ?_

theorem State.sendIdle_kept (s : State) (k p vc n : Nat) : Kept s (State.sendIdle s k p vc n) := by
  unfold State.sendIdle
  repeat' first
    | with_reducible rfl
    | with_reducible assumption
    | with_reducible refine ite_kept ?_ ?_
    | with_reducible refine ite_fst_kept ?_ ?_
    | dsimp only
    | (with_reducible refine kept_vault ?_; simp only [↓State.mk_vault]; simp only [pending_vault, time_vault, patch_vault, nextPatch_vault, copyA_vault, copyB_vault, update_vault, mem_vault, Vault.eta]; with_reducible refine vault_kept ?_)
    | with_reducible refine (State.updPort_kept ..).of ?_
    | with_reducible refine (State.onPort_kept ..).of ?_

theorem State.sendSeq_kept (s : State) (k ftype part vc nline dst src : Nat) (payload : List Byte) : Kept s (State.sendSeq s k ftype part vc nline dst src payload) := by
  unfold State.sendSeq
  repeat' first
    | with_reducible rfl
    | with_reducible assumption
    | with_reducible refine ite_kept ?_ ?_
    | with_reducible refine ite_fst_kept ?_ ?_
    | dsimp only
    | (with_reducible refine kept_vault ?_; simp only [↓State.mk_vault]; simp only [pending_vault, time_vault, patch_vault, nextPatch_vault, copyA_vault, copyB_vault, update_vault, mem_vault, Vault.eta]; with_reducible refine vault_kept ?_)
    | with_reducible refine (State.updPort_kept ..).of ?_
    | with_reducible refine (State.onPort_kept ..).of ?_

theorem State.replayPort_kept (s : State) (k : Nat) : Kept s (State.replayPort s k) := by
  unfold State.replayPort
  repeat' first
    | with_reducible rfl
    | with_reducible assumption
    | with_reducible refine ite_kept ?_ ?_
    | with_reducible refine ite_fst_kept ?_ ?_
    | dsimp only
    | (with_reducible refine kept_vault ?_; simp only [↓State.mk_vault]; simp only [pending_vault, time_vault, patch_vault, nextPatch_vault, copyA_vault, copyB_vault, update_vault, mem_vault, Vault.eta]; with_reducible refine vault_kept ?_)
    | with_reducible refine (State.updPort_kept ..).of ?_
    | with_reducible refine (State.onPort_kept ..).of ?_
    | (with_reducible refine (foldl_kept ?_ _ _).of ?_ <;> try intro _ _)

theorem State.tryFlit_kept {s : State} {f : FlitOut} {t : State} (h : State.tryFlit s f = some t) : Kept s t := by
  unfold State.tryFlit at h
  try dsimp only at h
  repeat' split at h
  all_goals first
    | (cases h; done)
    | (simp at h; done)
    | (cases h
       repeat' first
         | with_reducible rfl
         | with_reducible assumption
         | with_reducible refine ite_kept ?_ ?_
         | with_reducible refine ite_fst_kept ?_ ?_
         | dsimp only
         | (with_reducible refine kept_vault ?_; simp only [↓State.mk_vault]; simp only [pending_vault, time_vault, patch_vault, nextPatch_vault, copyA_vault, copyB_vault, update_vault, mem_vault, Vault.eta]; with_reducible refine vault_kept ?_)
         | with_reducible refine (State.charge_kept ..).of ?_
         | with_reducible refine (State.updPort_kept ..).of ?_
         | with_reducible refine (State.sendSeq_kept ..).of ?_
         | with_reducible refine (State.sendIdle_kept ..).of ?_
       )

theorem State.pushFlits_kept (s : State) : Kept s (State.pushFlits s) := by
  unfold State.pushFlits
  refine (foldl_kept ?_ _ _).of (kept_same rfl)
  intro s f
  split
  · rename_i h
    split at h
    · cases h
    · exact State.tryFlit_kept h
  · exact kept_same rfl

theorem refillAll_kept (s : State) : Kept s (refillAll s) := by
  unfold refillAll
  repeat' first
    | with_reducible rfl
    | with_reducible assumption
    | with_reducible refine ite_kept ?_ ?_
    | with_reducible refine ite_fst_kept ?_ ?_
    | dsimp only
    | (with_reducible refine kept_vault ?_; simp only [↓State.mk_vault]; simp only [pending_vault, time_vault, patch_vault, nextPatch_vault, copyA_vault, copyB_vault, update_vault, mem_vault, Vault.eta]; with_reducible refine vault_kept ?_)
    | with_reducible refine (refill_kept ..).of ?_
    | with_reducible refine (State.pushFlits_kept ..).of ?_

theorem State.nakPort_kept (s : State) (k : Nat) : Kept s (State.nakPort s k) := by
  unfold State.nakPort
  repeat' first
    | with_reducible rfl
    | with_reducible assumption
    | with_reducible refine ite_kept ?_ ?_
    | with_reducible refine ite_fst_kept ?_ ?_
    | dsimp only
    | (with_reducible refine kept_vault ?_; simp only [↓State.mk_vault]; simp only [pending_vault, time_vault, patch_vault, nextPatch_vault, copyA_vault, copyB_vault, update_vault, mem_vault, Vault.eta]; with_reducible refine vault_kept ?_)
    | with_reducible refine (State.updPort_kept ..).of ?_
    | with_reducible refine (State.sendIdle_kept ..).of ?_

theorem State.takeAck_kept (s : State) (k h : Nat) : Kept s (State.takeAck s k h) := by
  unfold State.takeAck
  repeat' first
    | with_reducible rfl
    | with_reducible assumption
    | with_reducible refine ite_kept ?_ ?_
    | with_reducible refine ite_fst_kept ?_ ?_
    | dsimp only
    | (with_reducible refine kept_vault ?_; simp only [↓State.mk_vault]; simp only [pending_vault, time_vault, patch_vault, nextPatch_vault, copyA_vault, copyB_vault, update_vault, mem_vault, Vault.eta]; with_reducible refine vault_kept ?_)
    | with_reducible refine (State.updPort_kept ..).of ?_
    | with_reducible refine (State.replayPort_kept ..).of ?_

theorem State.takeData_kept (s : State) (k : Nat) (bs : List Byte) : Kept s (State.takeData s k bs) := by
  unfold State.takeData
  repeat' first
    | with_reducible rfl
    | with_reducible assumption
    | with_reducible refine ite_kept ?_ ?_
    | with_reducible refine ite_fst_kept ?_ ?_
    | dsimp only
    | (with_reducible refine kept_vault ?_; simp only [↓State.mk_vault]; simp only [pending_vault, time_vault, patch_vault, nextPatch_vault, copyA_vault, copyB_vault, update_vault, mem_vault, Vault.eta]; with_reducible refine vault_kept ?_)
    | with_reducible refine (State.take_kept ..).of ?_
    | with_reducible refine (State.sendIdle_kept ..).of ?_
    | split

theorem flitReceive_kept (k : Nat) (f : Flit) (s : State) : Kept s (flitReceive k f s) := by
  unfold flitReceive
  repeat' first
    | with_reducible rfl
    | with_reducible assumption
    | with_reducible refine ite_kept ?_ ?_
    | with_reducible refine ite_fst_kept ?_ ?_
    | dsimp only
    | (with_reducible refine kept_vault ?_; simp only [↓State.mk_vault]; simp only [pending_vault, time_vault, patch_vault, nextPatch_vault, copyA_vault, copyB_vault, update_vault, mem_vault, Vault.eta]; with_reducible refine vault_kept ?_)
    | with_reducible refine (State.take_kept ..).of ?_
    | with_reducible refine (State.updPort_kept ..).of ?_
    | with_reducible refine (State.addRisk_kept ..).of ?_
    | with_reducible refine (State.nakPort_kept ..).of ?_
    | with_reducible refine (State.takeAck_kept ..).of ?_
    | with_reducible refine (State.takeData_kept ..).of ?_
    | with_reducible refine (State.sendIdle_kept ..).of ?_
    | with_reducible refine (State.pushFlits_kept ..).of ?_

theorem flitTimeout_kept (k : Nat) (s : State) : Kept s (flitTimeout k s) := by
  unfold flitTimeout
  repeat' first
    | with_reducible rfl
    | with_reducible assumption
    | with_reducible refine ite_kept ?_ ?_
    | with_reducible refine ite_fst_kept ?_ ?_
    | dsimp only
    | (with_reducible refine kept_vault ?_; simp only [↓State.mk_vault]; simp only [pending_vault, time_vault, patch_vault, nextPatch_vault, copyA_vault, copyB_vault, update_vault, mem_vault, Vault.eta]; with_reducible refine vault_kept ?_)
    | with_reducible refine (State.replayPort_kept ..).of ?_

theorem ackTimer_kept (k : Nat) (s : State) : Kept s (ackTimer k s) := by
  unfold ackTimer
  repeat' first
    | with_reducible rfl
    | with_reducible assumption
    | with_reducible refine ite_kept ?_ ?_
    | with_reducible refine ite_fst_kept ?_ ?_
    | dsimp only
    | (with_reducible refine kept_vault ?_; simp only [↓State.mk_vault]; simp only [pending_vault, time_vault, patch_vault, nextPatch_vault, copyA_vault, copyB_vault, update_vault, mem_vault, Vault.eta]; with_reducible refine vault_kept ?_)
    | with_reducible refine (State.sendIdle_kept ..).of ?_

theorem State.settleLinks_kept (s : State) : Kept s (State.settleLinks s) := by
  unfold State.settleLinks
  repeat' first
    | with_reducible rfl
    | with_reducible assumption
    | with_reducible refine ite_kept ?_ ?_
    | with_reducible refine ite_fst_kept ?_ ?_
    | dsimp only
    | (with_reducible refine kept_vault ?_; simp only [↓State.mk_vault]; simp only [pending_vault, time_vault, patch_vault, nextPatch_vault, copyA_vault, copyB_vault, update_vault, mem_vault, Vault.eta]; with_reducible refine vault_kept ?_)
    | with_reducible refine (State.failModule_kept ..).of ?_
    | with_reducible refine (Emit.range_kept ..).of ?_
    | split

theorem State.portDown_kept (s : State) (k : Nat) : Kept s (State.portDown s k) := by
  unfold State.portDown
  repeat' first
    | with_reducible rfl
    | with_reducible assumption
    | with_reducible refine ite_kept ?_ ?_
    | with_reducible refine ite_fst_kept ?_ ?_
    | dsimp only
    | (with_reducible refine kept_vault ?_; simp only [↓State.mk_vault]; simp only [pending_vault, time_vault, patch_vault, nextPatch_vault, copyA_vault, copyB_vault, update_vault, mem_vault, Vault.eta]; with_reducible refine vault_kept ?_)
    | with_reducible refine (State.updPort_kept ..).of ?_
    | with_reducible refine (State.portTo_kept ..).of ?_
    | with_reducible refine (State.settleLinks_kept ..).of ?_
    | with_reducible refine (State.pushFlits_kept ..).of ?_

theorem portRetrain_kept (k : Nat) (fec failed : Bool) (s : State) : Kept s (portRetrain k fec failed s) := by
  unfold portRetrain
  repeat' first
    | with_reducible rfl
    | with_reducible assumption
    | with_reducible refine ite_kept ?_ ?_
    | with_reducible refine ite_fst_kept ?_ ?_
    | dsimp only
    | (with_reducible refine kept_vault ?_; simp only [↓State.mk_vault]; simp only [pending_vault, time_vault, patch_vault, nextPatch_vault, copyA_vault, copyB_vault, update_vault, mem_vault, Vault.eta]; with_reducible refine vault_kept ?_)
    | with_reducible refine (State.updPort_kept ..).of ?_
    | with_reducible refine (State.addRisk_kept ..).of ?_
    | with_reducible refine (State.portTo_kept ..).of ?_
    | with_reducible refine (State.portDown_kept ..).of ?_

theorem portTrained_kept (k : Nat) (t : TrainInfo) (s : State) : Kept s (portTrained k t s) := by
  unfold portTrained
  repeat' first
    | with_reducible rfl
    | with_reducible assumption
    | with_reducible refine ite_kept ?_ ?_
    | with_reducible refine ite_fst_kept ?_ ?_
    | dsimp only
    | (with_reducible refine kept_vault ?_; simp only [↓State.mk_vault]; simp only [pending_vault, time_vault, patch_vault, nextPatch_vault, copyA_vault, copyB_vault, update_vault, mem_vault, Vault.eta]; with_reducible refine vault_kept ?_)
    | with_reducible refine (State.portTo_kept ..).of ?_
    | with_reducible refine (State.settleLinks_kept ..).of ?_
    | with_reducible refine (State.updPort_kept ..).of ?_
    | with_reducible refine (State.replayPort_kept ..).of ?_
    | with_reducible refine (State.pushFlits_kept ..).of ?_
    | split

theorem hLinkQuery_kept (c : Cmd) (s : State) : Kept s (hLinkQuery c s).1 := by
  unfold hLinkQuery
  repeat' first
    | with_reducible rfl
    | with_reducible assumption
    | with_reducible refine ite_kept ?_ ?_
    | with_reducible refine ite_fst_kept ?_ ?_
    | dsimp only
    | (with_reducible refine kept_vault ?_; simp only [↓State.mk_vault]; simp only [pending_vault, time_vault, patch_vault, nextPatch_vault, copyA_vault, copyB_vault, update_vault, mem_vault, Vault.eta]; with_reducible refine vault_kept ?_)
    | with_reducible refine (State.awWrite_kept ..).of ?_
    | split

theorem State.restartPorts_kept (s : State) (ks : List Nat) : Kept s (State.restartPorts s ks) := by
  unfold State.restartPorts
  repeat' first
    | with_reducible rfl
    | with_reducible assumption
    | with_reducible refine ite_kept ?_ ?_
    | with_reducible refine ite_fst_kept ?_ ?_
    | dsimp only
    | (with_reducible refine kept_vault ?_; simp only [↓State.mk_vault]; simp only [pending_vault, time_vault, patch_vault, nextPatch_vault, copyA_vault, copyB_vault, update_vault, mem_vault, Vault.eta]; with_reducible refine vault_kept ?_)
    | with_reducible refine (State.trainPort_kept ..).of ?_
    | (with_reducible refine (foldl_kept ?_ _ _).of ?_ <;> try intro _ _)
    | split

theorem hDomConfig_kept (c : Cmd) (s : State) : Kept s (hDomConfig c s).1 := by
  unfold hDomConfig
  refine withPb_kept _ _ _ ?_ _ _
  intro c bs s
  repeat' first
    | with_reducible rfl
    | with_reducible assumption
    | with_reducible refine ite_kept ?_ ?_
    | with_reducible refine ite_fst_kept ?_ ?_
    | dsimp only
    | (with_reducible refine kept_vault ?_; simp only [↓State.mk_vault]; simp only [pending_vault, time_vault, patch_vault, nextPatch_vault, copyA_vault, copyB_vault, update_vault, mem_vault, Vault.eta]; with_reducible refine vault_kept ?_)
    | with_reducible refine (State.restartPorts_kept ..).of ?_

theorem State.formDomain_kept (s : State) (d : Domain) : Kept s (State.formDomain s d) := by
  unfold State.formDomain
  repeat' first
    | with_reducible rfl
    | with_reducible assumption
    | with_reducible refine ite_kept ?_ ?_
    | with_reducible refine ite_fst_kept ?_ ?_
    | dsimp only
    | (with_reducible refine kept_vault ?_; simp only [↓State.mk_vault]; simp only [pending_vault, time_vault, patch_vault, nextPatch_vault, copyA_vault, copyB_vault, update_vault, mem_vault, Vault.eta]; with_reducible refine vault_kept ?_)
    | with_reducible refine (State.updPort_kept ..).of ?_
    | with_reducible refine (Emit.range_kept ..).of ?_
    | (with_reducible refine (foldl_kept ?_ _ _).of ?_ <;> try intro _ _)

theorem finDomConfig_kept (o : BgFind) (c : Cmd) (s : State) : Kept s (finDomConfig o c s) := by
  unfold finDomConfig
  repeat' first
    | with_reducible rfl
    | with_reducible assumption
    | with_reducible refine ite_kept ?_ ?_
    | with_reducible refine ite_fst_kept ?_ ?_
    | dsimp only
    | (with_reducible refine kept_vault ?_; simp only [↓State.mk_vault]; simp only [pending_vault, time_vault, patch_vault, nextPatch_vault, copyA_vault, copyB_vault, update_vault, mem_vault, Vault.eta]; with_reducible refine vault_kept ?_)
    | with_reducible refine (State.complete_kept ..).of ?_
    | with_reducible refine (State.formDomain_kept ..).of ?_

theorem State.leaveDomain_kept (s : State) : Kept s (State.leaveDomain s) := by
  unfold State.leaveDomain
  repeat' first
    | with_reducible rfl
    | with_reducible assumption
    | with_reducible refine ite_kept ?_ ?_
    | with_reducible refine ite_fst_kept ?_ ?_
    | dsimp only
    | (with_reducible refine kept_vault ?_; simp only [↓State.mk_vault]; simp only [pending_vault, time_vault, patch_vault, nextPatch_vault, copyA_vault, copyB_vault, update_vault, mem_vault, Vault.eta]; with_reducible refine vault_kept ?_)

theorem hDomLeave_kept (c : Cmd) (s : State) : Kept s (hDomLeave c s).1 := by
  unfold hDomLeave
  repeat' first
    | with_reducible rfl
    | with_reducible assumption
    | with_reducible refine ite_kept ?_ ?_
    | with_reducible refine ite_fst_kept ?_ ?_
    | dsimp only
    | (with_reducible refine kept_vault ?_; simp only [↓State.mk_vault]; simp only [pending_vault, time_vault, patch_vault, nextPatch_vault, copyA_vault, copyB_vault, update_vault, mem_vault, Vault.eta]; with_reducible refine vault_kept ?_)
    | with_reducible refine (State.leaveDomain_kept ..).of ?_
    | split

theorem State.settleLeave_kept (s : State) : Kept s (State.settleLeave s) := by
  unfold State.settleLeave
  repeat' first
    | with_reducible rfl
    | with_reducible assumption
    | with_reducible refine ite_kept ?_ ?_
    | with_reducible refine ite_fst_kept ?_ ?_
    | dsimp only
    | (with_reducible refine kept_vault ?_; simp only [↓State.mk_vault]; simp only [pending_vault, time_vault, patch_vault, nextPatch_vault, copyA_vault, copyB_vault, update_vault, mem_vault, Vault.eta]; with_reducible refine vault_kept ?_)
    | with_reducible refine (State.complete_kept ..).of ?_
    | with_reducible refine (State.leaveDomain_kept ..).of ?_
    | (with_reducible refine (foldl_kept ?_ _ _).of ?_ <;> try intro _ _)
    | split

theorem hFtimeQuery_kept (c : Cmd) (s : State) : Kept s (hFtimeQuery c s).1 := by
  unfold hFtimeQuery
  repeat' first
    | with_reducible rfl

theorem syncFlit_kept (k : Nat) (t : W64) (s : State) : Kept s (syncFlit k t s) := by
  unfold syncFlit
  repeat' first
    | with_reducible rfl
    | with_reducible assumption
    | with_reducible refine ite_kept ?_ ?_
    | with_reducible refine ite_fst_kept ?_ ?_
    | dsimp only
    | (with_reducible refine kept_vault ?_; simp only [↓State.mk_vault]; simp only [pending_vault, time_vault, patch_vault, nextPatch_vault, copyA_vault, copyB_vault, update_vault, mem_vault, Vault.eta]; with_reducible refine vault_kept ?_)
    | with_reducible refine (State.sendSeq_kept ..).of ?_

theorem barrierOpen_kept (p i : Nat) (remote : Bool) (s : State) : Kept s (barrierOpen p i remote s) := by
  unfold barrierOpen
  repeat' first
    | with_reducible rfl
    | with_reducible assumption
    | with_reducible refine ite_kept ?_ ?_
    | with_reducible refine ite_fst_kept ?_ ?_
    | dsimp only
    | (with_reducible refine kept_vault ?_; simp only [↓State.mk_vault]; simp only [pending_vault, time_vault, patch_vault, nextPatch_vault, copyA_vault, copyB_vault, update_vault, mem_vault, Vault.eta]; with_reducible refine vault_kept ?_)
    | with_reducible refine (barrierOpens_kept ..).of ?_

theorem barCfg_kept (p die i : Nat) (v : W64) (s : State) : Kept s (barCfg p die i v s) := by
  unfold barCfg
  repeat' first
    | with_reducible rfl
    | with_reducible assumption
    | with_reducible refine ite_kept ?_ ?_
    | with_reducible refine ite_fst_kept ?_ ?_
    | dsimp only
    | (with_reducible refine kept_vault ?_; simp only [↓State.mk_vault]; simp only [pending_vault, time_vault, patch_vault, nextPatch_vault, copyA_vault, copyB_vault, update_vault, mem_vault, Vault.eta]; with_reducible refine vault_kept ?_)
    | with_reducible refine (State.setBar_kept ..).of ?_

theorem cqCfg_kept (p die q : Nat) (v : W64) (s : State) : Kept s (cqCfg p die q v s) := by
  unfold cqCfg
  repeat' first
    | with_reducible rfl
    | with_reducible assumption
    | with_reducible refine ite_kept ?_ ?_
    | with_reducible refine ite_fst_kept ?_ ?_
    | dsimp only
    | (with_reducible refine kept_vault ?_; simp only [↓State.mk_vault]; simp only [pending_vault, time_vault, patch_vault, nextPatch_vault, copyA_vault, copyB_vault, update_vault, mem_vault, Vault.eta]; with_reducible refine vault_kept ?_)
    | with_reducible refine (State.updCq_kept ..).of ?_

theorem hTwinConfig_kept (c : Cmd) (s : State) : Kept s (hTwinConfig c s).1 := by
  unfold hTwinConfig
  refine withPb_kept _ _ _ ?_ _ _
  intro c bs s
  repeat' first
    | with_reducible rfl
    | with_reducible assumption
    | with_reducible refine ite_kept ?_ ?_
    | with_reducible refine ite_fst_kept ?_ ?_
    | dsimp only
    | (with_reducible refine kept_vault ?_; simp only [↓State.mk_vault]; simp only [pending_vault, time_vault, patch_vault, nextPatch_vault, copyA_vault, copyB_vault, update_vault, mem_vault, Vault.eta]; with_reducible refine vault_kept ?_)
    | with_reducible refine (State.restartPorts_kept ..).of ?_

theorem finTwinConfig_kept (o : BgFind) (c : Cmd) (s : State) : Kept s (finTwinConfig o c s) := by
  unfold finTwinConfig
  repeat' first
    | with_reducible rfl
    | with_reducible assumption
    | with_reducible refine ite_kept ?_ ?_
    | with_reducible refine ite_fst_kept ?_ ?_
    | dsimp only
    | (with_reducible refine kept_vault ?_; simp only [↓State.mk_vault]; simp only [pending_vault, time_vault, patch_vault, nextPatch_vault, copyA_vault, copyB_vault, update_vault, mem_vault, Vault.eta]; with_reducible refine vault_kept ?_)
    | with_reducible refine (State.complete_kept ..).of ?_

theorem twinHeartbeat_kept (s : State) : Kept s (twinHeartbeat s) := by
  unfold twinHeartbeat
  repeat' first
    | with_reducible rfl
    | with_reducible assumption
    | with_reducible refine ite_kept ?_ ?_
    | with_reducible refine ite_fst_kept ?_ ?_
    | dsimp only
    | (with_reducible refine kept_vault ?_; simp only [↓State.mk_vault]; simp only [pending_vault, time_vault, patch_vault, nextPatch_vault, copyA_vault, copyB_vault, update_vault, mem_vault, Vault.eta]; with_reducible refine vault_kept ?_)
    | with_reducible refine (State.tell_kept ..).of ?_
    | split

theorem State.twinLost_kept (s : State) : Kept s (State.twinLost s) := by
  unfold State.twinLost
  repeat' first
    | with_reducible rfl
    | with_reducible assumption
    | with_reducible refine ite_kept ?_ ?_
    | with_reducible refine ite_fst_kept ?_ ?_
    | dsimp only
    | (with_reducible refine kept_vault ?_; simp only [↓State.mk_vault]; simp only [pending_vault, time_vault, patch_vault, nextPatch_vault, copyA_vault, copyB_vault, update_vault, mem_vault, Vault.eta]; with_reducible refine vault_kept ?_)
    | with_reducible refine (State.tell_kept ..).of ?_
    | with_reducible refine (State.twinGone_kept ..).of ?_
    | split

theorem twinWait_kept (p : Nat) (s : State) : Kept s (twinWait p s) := by
  unfold twinWait
  repeat' first
    | with_reducible rfl
    | with_reducible assumption
    | with_reducible refine ite_kept ?_ ?_
    | with_reducible refine ite_fst_kept ?_ ?_
    | dsimp only
    | (with_reducible refine kept_vault ?_; simp only [↓State.mk_vault]; simp only [pending_vault, time_vault, patch_vault, nextPatch_vault, copyA_vault, copyB_vault, update_vault, mem_vault, Vault.eta]; with_reducible refine vault_kept ?_)
    | with_reducible refine (State.twinLost_kept ..).of ?_
    | split

theorem admissionCounts_kept (p : Nat) (ns : List (Nat × Nat)) (s : State) : Kept s (admissionCounts p ns s) := by
  unfold admissionCounts
  repeat' first
    | with_reducible rfl
    | with_reducible assumption
    | with_reducible refine ite_kept ?_ ?_
    | with_reducible refine ite_fst_kept ?_ ?_
    | dsimp only
    | (with_reducible refine kept_vault ?_; simp only [↓State.mk_vault]; simp only [pending_vault, time_vault, patch_vault, nextPatch_vault, copyA_vault, copyB_vault, update_vault, mem_vault, Vault.eta]; with_reducible refine vault_kept ?_)
    | with_reducible refine (State.updFab_kept ..).of ?_

end Sys2Proof.Machine
end

