-- ==== Sys2Proof/Laws/KeptCollect.lean ====
section
/-!
SUPPORT. The operations of Machine/Collect keep what Kept says.
-/

set_option Elab.async false

namespace Sys2Proof.Machine

theorem State.digest_kept (s : State) (p die : Nat) (h : W64) : Kept s (State.digest s p die h) := by
  unfold State.digest
  repeat' first
    | with_reducible rfl
    | with_reducible assumption
    | with_reducible refine ite_kept ?_ ?_
    | with_reducible refine ite_fst_kept ?_ ?_
    | dsimp only
    | (with_reducible refine kept_vault ?_; simp only [↓State.mk_vault]; simp only [pending_vault, time_vault, patch_vault, nextPatch_vault, copyA_vault, copyB_vault, update_vault, mem_vault, Vault.eta]; with_reducible refine vault_kept ?_)
    | with_reducible refine (State.updFab_kept ..).of ?_

theorem State.putChunk_kept (s : State) (p die peer : Nat) (w0 sig w2 : W64) (ps : List (Nat × List Byte)) : Kept s (State.putChunk s p die peer w0 sig w2 ps) := by
  unfold State.putChunk
  repeat' first
    | with_reducible rfl
    | with_reducible assumption
    | with_reducible refine ite_kept ?_ ?_
    | with_reducible refine ite_fst_kept ?_ ?_
    | dsimp only
    | (with_reducible refine kept_vault ?_; simp only [↓State.mk_vault]; simp only [pending_vault, time_vault, patch_vault, nextPatch_vault, copyA_vault, copyB_vault, update_vault, mem_vault, Vault.eta]; with_reducible refine vault_kept ?_)
    | with_reducible refine (State.pushFlits_kept ..).of ?_

theorem State.sendChunk_kept (s : State) (p die peer : Nat) (w0 sig w2 : W64) (ps : List (Nat × List Byte)) : Kept s (State.sendChunk s p die peer w0 sig w2 ps) := by
  unfold State.sendChunk
  repeat' first
    | with_reducible rfl
    | with_reducible assumption
    | with_reducible refine ite_kept ?_ ?_
    | with_reducible refine ite_fst_kept ?_ ?_
    | dsimp only
    | (with_reducible refine kept_vault ?_; simp only [↓State.mk_vault]; simp only [pending_vault, time_vault, patch_vault, nextPatch_vault, copyA_vault, copyB_vault, update_vault, mem_vault, Vault.eta]; with_reducible refine vault_kept ?_)
    | with_reducible refine (State.digest_kept ..).of ?_
    | with_reducible refine (State.putChunk_kept ..).of ?_

theorem State.sendItems_kept (s : State) (p die q : Nat) (x : CollD) (m : Nat) (is : List Nat) : Kept s (State.sendItems s p die q x m is) := by
  unfold State.sendItems
  repeat' first
    | with_reducible rfl
    | with_reducible assumption
    | with_reducible refine ite_kept ?_ ?_
    | with_reducible refine ite_fst_kept ?_ ?_
    | dsimp only
    | (with_reducible refine kept_vault ?_; simp only [↓State.mk_vault]; simp only [pending_vault, time_vault, patch_vault, nextPatch_vault, copyA_vault, copyB_vault, update_vault, mem_vault, Vault.eta]; with_reducible refine vault_kept ?_)
    | with_reducible refine (State.updCq_kept ..).of ?_
    | with_reducible refine (State.sendChunk_kept ..).of ?_
    | with_reducible refine (State.bump_kept ..).of ?_
    | (with_reducible refine (foldl_kept ?_ _ _).of ?_ <;> try intro _ _)
    | split

theorem State.sendAll_kept (s : State) (p die q : Nat) (x : CollD) : Kept s (State.sendAll s p die q x) := by
  unfold State.sendAll
  repeat' first
    | with_reducible rfl
    | with_reducible assumption
    | with_reducible refine ite_kept ?_ ?_
    | with_reducible refine ite_fst_kept ?_ ?_
    | dsimp only
    | (with_reducible refine kept_vault ?_; simp only [↓State.mk_vault]; simp only [pending_vault, time_vault, patch_vault, nextPatch_vault, copyA_vault, copyB_vault, update_vault, mem_vault, Vault.eta]; with_reducible refine vault_kept ?_)
    | with_reducible refine (State.updCq_kept ..).of ?_
    | with_reducible refine (State.sendItems_kept ..).of ?_

theorem State.haltLaunch_kept (s : State) (key : Nat) (l : Launch) : Kept s (State.haltLaunch s key l) := by
  unfold State.haltLaunch
  repeat' first
    | with_reducible rfl
    | with_reducible assumption
    | with_reducible refine ite_kept ?_ ?_
    | with_reducible refine ite_fst_kept ?_ ?_
    | dsimp only
    | (with_reducible refine kept_vault ?_; simp only [↓State.mk_vault]; simp only [pending_vault, time_vault, patch_vault, nextPatch_vault, copyA_vault, copyB_vault, update_vault, mem_vault, Vault.eta]; with_reducible refine vault_kept ?_)
    | with_reducible refine (State.killLaunch_kept ..).of ?_

theorem State.collFault_kept (s : State) (p die q code peer chunk : Nat) : Kept s (State.collFault s p die q code peer chunk) := by
  unfold State.collFault
  repeat' first
    | with_reducible rfl
    | with_reducible assumption
    | with_reducible refine ite_kept ?_ ?_
    | with_reducible refine ite_fst_kept ?_ ?_
    | dsimp only
    | (with_reducible refine kept_vault ?_; simp only [↓State.mk_vault]; simp only [pending_vault, time_vault, patch_vault, nextPatch_vault, copyA_vault, copyB_vault, update_vault, mem_vault, Vault.eta]; with_reducible refine vault_kept ?_)
    | with_reducible refine (State.updCq_kept ..).of ?_
    | with_reducible refine (State.write_kept ..).of ?_
    | with_reducible refine (MapEdit.write_kept ..).of ?_
    | with_reducible refine (State.haltLaunch_kept ..).of ?_
    | with_reducible refine (State.updRun_kept ..).of ?_
    | with_reducible refine (State.dropUnstarted_kept ..).of ?_
    | (with_reducible refine (foldl_kept ?_ _ _).of ?_ <;> try intro _ _)
    | split

theorem State.collMismatch_kept (s : State) (p die q peer chunk : Nat) (x : CollD) : Kept s (State.collMismatch s p die q peer chunk x) := by
  unfold State.collMismatch
  repeat' first
    | with_reducible rfl
    | with_reducible assumption
    | with_reducible refine ite_kept ?_ ?_
    | with_reducible refine ite_fst_kept ?_ ?_
    | dsimp only
    | (with_reducible refine kept_vault ?_; simp only [↓State.mk_vault]; simp only [pending_vault, time_vault, patch_vault, nextPatch_vault, copyA_vault, copyB_vault, update_vault, mem_vault, Vault.eta]; with_reducible refine vault_kept ?_)
    | with_reducible refine (State.collFault_kept ..).of ?_
    | with_reducible refine (State.tell_kept ..).of ?_
    | (with_reducible refine (foldl_kept ?_ _ _).of ?_ <;> try intro _ _)

theorem collOutputs_kept (p die q : Nat) (x : CollD) (out : List (Option Nat)) (fuel : Nat) (s : State) :
    Kept s (collOutputs p die q x out fuel s) := by
  induction fuel generalizing s with
  | zero => rfl
  | succ fuel ih =>
    simp only [collOutputs]
    repeat' first
      | with_reducible rfl
      | with_reducible refine ite_kept ?_ ?_
      | with_reducible refine (ih _).of ?_
      | with_reducible refine (State.semAdd_kept (by with_reducible assumption)).of ?_
      | with_reducible refine (State.collFault_kept ..).of ?_
      | with_reducible refine (State.updCq_kept ..).of ?_
      | with_reducible refine (State.taint_kept ..).of ?_
      | with_reducible refine (State.write_kept ..).of ?_
      | with_reducible refine (State.chargeLines_kept ..).of ?_
      | split

theorem State.openStage_kept (s : State) (p die q : Nat) (x : CollD) (c : Coll) (st : CollStage) : Kept s (State.openStage s p die q x c st) := by
  unfold State.openStage
  repeat' first
    | with_reducible rfl
    | with_reducible assumption
    | with_reducible refine ite_kept ?_ ?_
    | with_reducible refine ite_fst_kept ?_ ?_
    | dsimp only
    | (with_reducible refine kept_vault ?_; simp only [↓State.mk_vault]; simp only [pending_vault, time_vault, patch_vault, nextPatch_vault, copyA_vault, copyB_vault, update_vault, mem_vault, Vault.eta]; with_reducible refine vault_kept ?_)
    | with_reducible refine (State.sendItems_kept ..).of ?_

theorem collAdvance_kept (p die q : Nat) (x : CollD) (fuel : Nat) (s : State) : Kept s (collAdvance p die q x fuel s) := by
  induction fuel generalizing s with
  | zero => rfl
  | succ fuel ih =>
    simp only [collAdvance]
    repeat' first
      | rfl
      | refine (ih _).of ?_
      | split
      | with_reducible refine (State.openStage_kept ..).of ?_
      | with_reducible refine (State.updCq_kept ..).of ?_

theorem State.collProgress_kept (s : State) (p die q : Nat) (x : CollD) : Kept s (State.collProgress s p die q x) := by
  unfold State.collProgress
  repeat' first
    | with_reducible rfl
    | with_reducible assumption
    | with_reducible refine ite_kept ?_ ?_
    | with_reducible refine ite_fst_kept ?_ ?_
    | dsimp only
    | (with_reducible refine kept_vault ?_; simp only [↓State.mk_vault]; simp only [pending_vault, time_vault, patch_vault, nextPatch_vault, copyA_vault, copyB_vault, update_vault, mem_vault, Vault.eta]; with_reducible refine vault_kept ?_)
    | with_reducible refine (collAdvance_kept ..).of ?_
    | with_reducible refine (collOutputs_kept ..).of ?_
    | split

theorem State.takeReady_kept (s : State) (p die q : Nat) (x : CollD) : Kept s (State.takeReady s p die q x) := by
  unfold State.takeReady
  repeat' first
    | with_reducible rfl
    | with_reducible assumption
    | with_reducible refine ite_kept ?_ ?_
    | with_reducible refine ite_fst_kept ?_ ?_
    | dsimp only
    | (with_reducible refine kept_vault ?_; simp only [↓State.mk_vault]; simp only [pending_vault, time_vault, patch_vault, nextPatch_vault, copyA_vault, copyB_vault, update_vault, mem_vault, Vault.eta]; with_reducible refine vault_kept ?_)
    | with_reducible refine (State.updCq_kept ..).of ?_
    | with_reducible refine (State.collMismatch_kept ..).of ?_
    | with_reducible refine (State.sendAll_kept ..).of ?_
    | split

theorem State.collBegin_kept (s : State) (p die q : Nat) (ws : List W64) (x : CollD) : Kept s (State.collBegin s p die q ws x) := by
  unfold State.collBegin
  repeat' first
    | with_reducible rfl
    | with_reducible assumption
    | with_reducible refine ite_kept ?_ ?_
    | with_reducible refine ite_fst_kept ?_ ?_
    | dsimp only
    | (with_reducible refine kept_vault ?_; simp only [↓State.mk_vault]; simp only [pending_vault, time_vault, patch_vault, nextPatch_vault, copyA_vault, copyB_vault, update_vault, mem_vault, Vault.eta]; with_reducible refine vault_kept ?_)
    | with_reducible refine (State.collFault_kept ..).of ?_
    | with_reducible refine (Emit.stage_kept ..).of ?_
    | with_reducible refine (State.chargeLines_kept ..).of ?_
    | with_reducible refine (State.updCq_kept ..).of ?_
    | with_reducible refine (State.openStage_kept ..).of ?_
    | with_reducible refine (State.takeReady_kept ..).of ?_
    | with_reducible refine (State.tell_kept ..).of ?_
    | with_reducible refine (State.collProgress_kept ..).of ?_
    | with_reducible refine (State.bump_kept ..).of ?_
    | split

theorem collStart_kept (p die q : Nat) (s : State) : Kept s (collStart p die q s) := by
  unfold collStart
  repeat' first
    | with_reducible rfl
    | with_reducible assumption
    | with_reducible refine ite_kept ?_ ?_
    | with_reducible refine ite_fst_kept ?_ ?_
    | dsimp only
    | (with_reducible refine kept_vault ?_; simp only [↓State.mk_vault]; simp only [pending_vault, time_vault, patch_vault, nextPatch_vault, copyA_vault, copyB_vault, update_vault, mem_vault, Vault.eta]; with_reducible refine vault_kept ?_)
    | with_reducible refine (State.collFault_kept ..).of ?_
    | with_reducible refine (State.collBegin_kept ..).of ?_

theorem State.takeItems_kept {s : State} {p die q : Nat} {x : CollD} {st : CollStage} {c : Coll} {half : Nat} {is : List Nat} {t : State} (h : State.takeItems s p die q x st c half is = some t) : Kept s t := by
  unfold State.takeItems at h
  try dsimp only at h
  repeat' split at h
  all_goals first
    | (cases h; done)
    | (simp at h; done)
    | (cases h
       repeat' first
         | with_reducible rfl
         | with_reducible assumption
         | with_reducible refine ite_kept ?_ ?_
         | with_reducible refine ite_fst_kept ?_ ?_
         | dsimp only
         | (with_reducible refine kept_vault ?_; simp only [↓State.mk_vault]; simp only [pending_vault, time_vault, patch_vault, nextPatch_vault, copyA_vault, copyB_vault, update_vault, mem_vault, Vault.eta]; with_reducible refine vault_kept ?_)
         | with_reducible refine (State.take_kept ..).of ?_
         | with_reducible refine (State.updCq_kept ..).of ?_
         | with_reducible refine (State.sendItems_kept ..).of ?_
         | with_reducible refine (State.collProgress_kept ..).of ?_
       )

theorem State.digestError_kept (s : State) (k : Nat) : Kept s (State.digestError s k) := by
  unfold State.digestError
  repeat' first
    | with_reducible rfl
    | with_reducible assumption
    | with_reducible refine ite_kept ?_ ?_
    | with_reducible refine ite_fst_kept ?_ ?_
    | dsimp only
    | (with_reducible refine kept_vault ?_; simp only [↓State.mk_vault]; simp only [pending_vault, time_vault, patch_vault, nextPatch_vault, copyA_vault, copyB_vault, update_vault, mem_vault, Vault.eta]; with_reducible refine vault_kept ?_)
    | with_reducible refine (State.updPort_kept ..).of ?_
    | with_reducible refine (State.portDown_kept ..).of ?_

theorem State.answer_kept (s : State) (what : ChunkKind) (p die : Nat) (ch : Chunk) : Kept s (State.answer s what p die ch) := by
  unfold State.answer
  repeat' first
    | with_reducible rfl
    | with_reducible assumption
    | with_reducible refine ite_kept ?_ ?_
    | with_reducible refine ite_fst_kept ?_ ?_
    | dsimp only
    | (with_reducible refine kept_vault ?_; simp only [↓State.mk_vault]; simp only [pending_vault, time_vault, patch_vault, nextPatch_vault, copyA_vault, copyB_vault, update_vault, mem_vault, Vault.eta]; with_reducible refine vault_kept ?_)
    | with_reducible refine (State.tell_kept ..).of ?_

theorem State.takeForward_kept (s : State) (p die q : Nat) (ch : Chunk) : Kept s (State.takeForward s p die q ch) := by
  unfold State.takeForward
  repeat' first
    | with_reducible rfl
    | with_reducible assumption
    | with_reducible refine ite_kept ?_ ?_
    | with_reducible refine ite_fst_kept ?_ ?_
    | dsimp only
    | (with_reducible refine kept_vault ?_; simp only [↓State.mk_vault]; simp only [pending_vault, time_vault, patch_vault, nextPatch_vault, copyA_vault, copyB_vault, update_vault, mem_vault, Vault.eta]; with_reducible refine vault_kept ?_)
    | with_reducible refine (State.answer_kept ..).of ?_
    | with_reducible refine (State.digestError_kept ..).of ?_
    | with_reducible refine (State.digest_kept ..).of ?_
    | with_reducible refine (State.writes_kept ..).of ?_
    | with_reducible refine (State.signalOr_kept ..).of ?_

theorem State.takeChunk_kept (p die q : Nat) (ch : Chunk) (s : State) : Kept s (State.takeChunk p die q ch s) := by
  unfold State.takeChunk
  repeat' first
    | with_reducible rfl
    | with_reducible assumption
    | with_reducible refine ite_kept ?_ ?_
    | with_reducible refine ite_fst_kept ?_ ?_
    | dsimp only
    | (with_reducible refine kept_vault ?_; simp only [↓State.mk_vault]; simp only [pending_vault, time_vault, patch_vault, nextPatch_vault, copyA_vault, copyB_vault, update_vault, mem_vault, Vault.eta]; with_reducible refine vault_kept ?_)
    | with_reducible refine (State.takeForward_kept ..).of ?_
    | with_reducible refine (State.collMismatch_kept ..).of ?_
    | with_reducible refine (Emit.stage_kept ..).of ?_
    | with_reducible refine (State.collFault_kept ..).of ?_
    | with_reducible refine (State.updCq_kept ..).of ?_
    | with_reducible refine (State.answer_kept ..).of ?_
    | with_reducible refine (State.digestError_kept ..).of ?_
    | with_reducible refine (State.digest_kept ..).of ?_
    | with_reducible refine (State.collProgress_kept ..).of ?_
    | with_reducible refine (State.takeItems_kept (by with_reducible assumption)).of ?_
    | split

theorem State.updFwd_kept (s : State) (k : Nat) (f : Fwd → Fwd) : Kept s (State.updFwd s k f) := by
  unfold State.updFwd
  repeat' first
    | with_reducible rfl
    | with_reducible assumption
    | with_reducible refine ite_kept ?_ ?_
    | with_reducible refine ite_fst_kept ?_ ?_
    | dsimp only
    | (with_reducible refine kept_vault ?_; simp only [↓State.mk_vault]; simp only [pending_vault, time_vault, patch_vault, nextPatch_vault, copyA_vault, copyB_vault, update_vault, mem_vault, Vault.eta]; with_reducible refine vault_kept ?_)

theorem State.chunkAnswered_kept (s : State) (p die q : Nat) (ch : Chunk) : Kept s (State.chunkAnswered s p die q ch) := by
  unfold State.chunkAnswered
  repeat' first
    | with_reducible rfl
    | with_reducible assumption
    | with_reducible refine ite_kept ?_ ?_
    | with_reducible refine ite_fst_kept ?_ ?_
    | dsimp only
    | (with_reducible refine kept_vault ?_; simp only [↓State.mk_vault]; simp only [pending_vault, time_vault, patch_vault, nextPatch_vault, copyA_vault, copyB_vault, update_vault, mem_vault, Vault.eta]; with_reducible refine vault_kept ?_)
    | with_reducible refine (State.putChunk_kept ..).of ?_
    | with_reducible refine (State.updFwd_kept ..).of ?_
    | with_reducible refine (State.updCq_kept ..).of ?_
    | split

theorem chunkReceive_kept (p die q : Nat) (ch : Chunk) (s : State) : Kept s (chunkReceive p die q ch s) := by
  unfold chunkReceive
  repeat' first
    | with_reducible rfl
    | with_reducible assumption
    | with_reducible refine ite_kept ?_ ?_
    | with_reducible refine ite_fst_kept ?_ ?_
    | dsimp only
    | (with_reducible refine kept_vault ?_; simp only [↓State.mk_vault]; simp only [pending_vault, time_vault, patch_vault, nextPatch_vault, copyA_vault, copyB_vault, update_vault, mem_vault, Vault.eta]; with_reducible refine vault_kept ?_)
    | with_reducible refine (State.takeChunk_kept ..).of ?_
    | with_reducible refine (State.updCq_kept ..).of ?_
    | with_reducible refine (State.takeReady_kept ..).of ?_
    | with_reducible refine (State.chunkAnswered_kept ..).of ?_
    | split

theorem collAbort_kept (p die q peer : Nat) (s : State) : Kept s (collAbort p die q peer s) := by
  unfold collAbort
  repeat' first
    | with_reducible rfl
    | with_reducible assumption
    | with_reducible refine ite_kept ?_ ?_
    | with_reducible refine ite_fst_kept ?_ ?_
    | dsimp only
    | (with_reducible refine kept_vault ?_; simp only [↓State.mk_vault]; simp only [pending_vault, time_vault, patch_vault, nextPatch_vault, copyA_vault, copyB_vault, update_vault, mem_vault, Vault.eta]; with_reducible refine vault_kept ?_)
    | with_reducible refine (State.collFault_kept ..).of ?_

theorem collComplete_kept (p die q : Nat) (s : State) : Kept s (collComplete p die q s) := by
  unfold collComplete
  repeat' first
    | with_reducible rfl
    | with_reducible assumption
    | with_reducible refine ite_kept ?_ ?_
    | with_reducible refine ite_fst_kept ?_ ?_
    | dsimp only
    | (with_reducible refine kept_vault ?_; simp only [↓State.mk_vault]; simp only [pending_vault, time_vault, patch_vault, nextPatch_vault, copyA_vault, copyB_vault, update_vault, mem_vault, Vault.eta]; with_reducible refine vault_kept ?_)
    | with_reducible refine (Emit.stage_kept ..).of ?_
    | with_reducible refine (State.updCq_kept ..).of ?_
    | with_reducible refine (State.semAdd_kept (by with_reducible assumption)).of ?_
    | with_reducible refine (State.collFault_kept ..).of ?_
    | split

theorem State.forward_kept (s : State) (c : Nat) (r : DrainRun) : Kept s (State.forward s c r) := by
  unfold State.forward
  repeat' first
    | with_reducible rfl
    | with_reducible assumption
    | with_reducible refine ite_kept ?_ ?_
    | with_reducible refine ite_fst_kept ?_ ?_
    | dsimp only
    | (with_reducible refine kept_vault ?_; simp only [↓State.mk_vault]; simp only [pending_vault, time_vault, patch_vault, nextPatch_vault, copyA_vault, copyB_vault, update_vault, mem_vault, Vault.eta]; with_reducible refine vault_kept ?_)
    | with_reducible refine (State.updFwd_kept ..).of ?_
    | with_reducible refine (Emit.range_kept ..).of ?_
    | (with_reducible refine (foldl_kept ?_ _ _).of ?_ <;> try intro _ _)

theorem drainWrittenForward_kept (c : Nat) (s : State) : Kept s (drainWrittenForward c s) := by
  unfold drainWrittenForward
  repeat' first
    | with_reducible rfl
    | with_reducible assumption
    | with_reducible refine ite_kept ?_ ?_
    | with_reducible refine ite_fst_kept ?_ ?_
    | dsimp only
    | (with_reducible refine kept_vault ?_; simp only [↓State.mk_vault]; simp only [pending_vault, time_vault, patch_vault, nextPatch_vault, copyA_vault, copyB_vault, update_vault, mem_vault, Vault.eta]; with_reducible refine vault_kept ?_)
    | with_reducible refine (drainWritten_kept ..).of ?_
    | with_reducible refine (State.forward_kept ..).of ?_
    | split

theorem forwardDrain_kept (k : Nat) (s : State) : Kept s (forwardDrain k s) := by
  unfold forwardDrain
  repeat' first
    | with_reducible rfl
    | with_reducible assumption
    | with_reducible refine ite_kept ?_ ?_
    | with_reducible refine ite_fst_kept ?_ ?_
    | dsimp only
    | (with_reducible refine kept_vault ?_; simp only [↓State.mk_vault]; simp only [pending_vault, time_vault, patch_vault, nextPatch_vault, copyA_vault, copyB_vault, update_vault, mem_vault, Vault.eta]; with_reducible refine vault_kept ?_)
    | with_reducible refine (State.updFwd_kept ..).of ?_
    | with_reducible refine (State.sendChunk_kept ..).of ?_
    | split

end Sys2Proof.Machine
end

