-- ==== Sys2Proof/Laws/KeptHealth.lean ====
section
/-!
SUPPORT. The operations of Machine/Health keep what Kept says.
-/

set_option Elab.async false

namespace Sys2Proof.Machine

theorem State.mgmtFree_kept (s : State) (which n : Nat) : Kept s (State.mgmtFree s which n) := by
  unfold State.mgmtFree
  repeat' first
    | with_reducible rfl
    | with_reducible assumption
    | with_reducible refine ite_kept ?_ ?_
    | with_reducible refine ite_fst_kept ?_ ?_
    | dsimp only
    | (with_reducible refine kept_vault ?_; simp only [↓State.mk_vault]; simp only [pending_vault, time_vault, patch_vault, nextPatch_vault, copyA_vault, copyB_vault, update_vault, mem_vault, Vault.eta]; with_reducible refine vault_kept ?_)

theorem State.platformEvent_kept (s : State) : Kept s (State.platformEvent s) := by
  unfold State.platformEvent
  repeat' first
    | with_reducible rfl
    | with_reducible assumption
    | with_reducible refine ite_kept ?_ ?_
    | with_reducible refine ite_fst_kept ?_ ?_
    | dsimp only
    | (with_reducible refine kept_vault ?_; simp only [↓State.mk_vault]; simp only [pending_vault, time_vault, patch_vault, nextPatch_vault, copyA_vault, copyB_vault, update_vault, mem_vault, Vault.eta]; with_reducible refine vault_kept ?_)
    | with_reducible refine (State.mgmtFree_kept ..).of ?_

theorem State.nextRead_kept (s : State) (r : FlashRead) : Kept s (State.nextRead s r) := by
  unfold State.nextRead
  repeat' first
    | with_reducible rfl
    | with_reducible assumption
    | with_reducible refine ite_kept ?_ ?_
    | with_reducible refine ite_fst_kept ?_ ?_
    | dsimp only
    | (with_reducible refine kept_vault ?_; simp only [↓State.mk_vault]; simp only [pending_vault, time_vault, patch_vault, nextPatch_vault, copyA_vault, copyB_vault, update_vault, mem_vault, Vault.eta]; with_reducible refine vault_kept ?_)
    | with_reducible refine (State.endRead_kept ..).of ?_
    | split

theorem State.setRung_kept (s : State) (who : FlashFor) (n : Nat) : Kept s (State.setRung s who n) := by
  unfold State.setRung
  repeat' first
    | with_reducible rfl
    | with_reducible assumption
    | with_reducible refine ite_kept ?_ ?_
    | with_reducible refine ite_fst_kept ?_ ?_
    | dsimp only
    | (with_reducible refine kept_vault ?_; simp only [↓State.mk_vault]; simp only [pending_vault, time_vault, patch_vault, nextPatch_vault, copyA_vault, copyB_vault, update_vault, mem_vault, Vault.eta]; with_reducible refine vault_kept ?_)
    | with_reducible refine (State.updFlash_kept ..).of ?_

theorem State.lostCommand_kept (s : State) (c : Cmd) : Kept s (State.lostCommand s c) := by
  unfold State.lostCommand
  repeat' first
    | with_reducible rfl
    | with_reducible assumption
    | with_reducible refine ite_kept ?_ ?_
    | with_reducible refine ite_fst_kept ?_ ?_
    | dsimp only
    | (with_reducible refine kept_vault ?_; simp only [↓State.mk_vault]; simp only [pending_vault, time_vault, patch_vault, nextPatch_vault, copyA_vault, copyB_vault, update_vault, mem_vault, Vault.eta]; with_reducible refine vault_kept ?_)
    | with_reducible refine (undoTobjLoad_kept ..).of ?_
    | with_reducible refine (State.complete_kept ..).of ?_
    | with_reducible refine (State.endRead_kept ..).of ?_

theorem State.spoilSnap_kept (s : State) (o : Option FlashOwner) : Kept s (State.spoilSnap s o) := by
  unfold State.spoilSnap
  repeat' first
    | with_reducible rfl
    | with_reducible assumption
    | with_reducible refine ite_kept ?_ ?_
    | with_reducible refine ite_fst_kept ?_ ?_
    | dsimp only
    | (with_reducible refine kept_vault ?_; simp only [↓State.mk_vault]; simp only [pending_vault, time_vault, patch_vault, nextPatch_vault, copyA_vault, copyB_vault, update_vault, mem_vault, Vault.eta]; with_reducible refine vault_kept ?_)
    | split

theorem State.lostScrub_kept (s : State) (r : FlashRead) : Kept s (State.lostScrub s r) := by
  unfold State.lostScrub
  repeat' first
    | with_reducible rfl
    | with_reducible assumption
    | with_reducible refine ite_kept ?_ ?_
    | with_reducible refine ite_fst_kept ?_ ?_
    | dsimp only
    | (with_reducible refine kept_vault ?_; simp only [↓State.mk_vault]; simp only [pending_vault, time_vault, patch_vault, nextPatch_vault, copyA_vault, copyB_vault, update_vault, mem_vault, Vault.eta]; with_reducible refine vault_kept ?_)
    | with_reducible refine (State.endRead_kept ..).of ?_
    | with_reducible refine (State.damage_kept ..).of ?_
    | split

theorem State.lostWindow_kept (s : State) (w : Nat) (v : Wwin) : Kept s (State.lostWindow s w v) := by
  unfold State.lostWindow
  repeat' first
    | with_reducible rfl
    | with_reducible assumption
    | with_reducible refine ite_kept ?_ ?_
    | with_reducible refine ite_fst_kept ?_ ?_
    | dsimp only
    | (with_reducible refine kept_vault ?_; simp only [↓State.mk_vault]; simp only [pending_vault, time_vault, patch_vault, nextPatch_vault, copyA_vault, copyB_vault, update_vault, mem_vault, Vault.eta]; with_reducible refine vault_kept ?_)
    | with_reducible refine (State.endRead_kept ..).of ?_
    | with_reducible refine (State.updWpkg_kept ..).of ?_
    | with_reducible refine (State.updWwin_kept ..).of ?_
    | with_reducible refine (State.complete_kept ..).of ?_
    | with_reducible refine (State.discardStep_kept ..).of ?_
    | with_reducible refine (State.endRun_kept ..).of ?_
    | split

theorem State.codewordLost_kept (s : State) (r : FlashRead) : Kept s (State.codewordLost s r) := by
  unfold State.codewordLost
  repeat' first
    | with_reducible rfl
    | with_reducible assumption
    | with_reducible refine ite_kept ?_ ?_
    | with_reducible refine ite_fst_kept ?_ ?_
    | dsimp only
    | (with_reducible refine kept_vault ?_; simp only [↓State.mk_vault]; simp only [pending_vault, time_vault, patch_vault, nextPatch_vault, copyA_vault, copyB_vault, update_vault, mem_vault, Vault.eta]; with_reducible refine vault_kept ?_)
    | with_reducible refine (State.updFlash_kept ..).of ?_
    | with_reducible refine (State.addRisk_kept ..).of ?_
    | with_reducible refine (State.spoilSnap_kept ..).of ?_
    | with_reducible refine (State.lostCommand_kept ..).of ?_
    | with_reducible refine (State.endRead_kept ..).of ?_
    | with_reducible refine (State.setRung_kept ..).of ?_
    | with_reducible refine (State.lostWindow_kept ..).of ?_
    | with_reducible refine (State.lostScrub_kept ..).of ?_
    | split

theorem State.retried_kept (s : State) (r : FlashRead) : Kept s (State.retried s r) := by
  unfold State.retried
  repeat' first
    | with_reducible rfl
    | with_reducible assumption
    | with_reducible refine ite_kept ?_ ?_
    | with_reducible refine ite_fst_kept ?_ ?_
    | dsimp only
    | (with_reducible refine kept_vault ?_; simp only [↓State.mk_vault]; simp only [pending_vault, time_vault, patch_vault, nextPatch_vault, copyA_vault, copyB_vault, update_vault, mem_vault, Vault.eta]; with_reducible refine vault_kept ?_)
    | with_reducible refine (State.updFlash_kept ..).of ?_
    | with_reducible refine (State.addRisk_kept ..).of ?_
    | with_reducible refine (State.updWwin_kept ..).of ?_
    | split

theorem flashDecode_kept (k errs : Nat) (ok : Bool) (s : State) : Kept s (flashDecode k errs ok s) := by
  unfold flashDecode
  repeat' first
    | with_reducible rfl
    | with_reducible assumption
    | with_reducible refine ite_kept ?_ ?_
    | with_reducible refine ite_fst_kept ?_ ?_
    | dsimp only
    | (with_reducible refine kept_vault ?_; simp only [↓State.mk_vault]; simp only [pending_vault, time_vault, patch_vault, nextPatch_vault, copyA_vault, copyB_vault, update_vault, mem_vault, Vault.eta]; with_reducible refine vault_kept ?_)
    | with_reducible refine (State.lostWindow_kept ..).of ?_
    | with_reducible refine (State.endRead_kept ..).of ?_
    | with_reducible refine (State.updFlash_kept ..).of ?_
    | with_reducible refine (State.setRung_kept ..).of ?_
    | with_reducible refine (State.retried_kept ..).of ?_
    | with_reducible refine (State.nextRead_kept ..).of ?_
    | with_reducible refine (State.codewordLost_kept ..).of ?_
    | split

theorem layerReady_kept (w : Nat) (s : State) : Kept s (layerReady w s) := by
  unfold layerReady
  repeat' first
    | with_reducible rfl
    | with_reducible assumption
    | with_reducible refine ite_kept ?_ ?_
    | with_reducible refine ite_fst_kept ?_ ?_
    | dsimp only
    | (with_reducible refine kept_vault ?_; simp only [↓State.mk_vault]; simp only [pending_vault, time_vault, patch_vault, nextPatch_vault, copyA_vault, copyB_vault, update_vault, mem_vault, Vault.eta]; with_reducible refine vault_kept ?_)
    | with_reducible refine (layerArrives_kept ..).of ?_
    | with_reducible refine (State.codewordLost_kept ..).of ?_
    | split

theorem rungReady_kept (w : Nat) (s : State) : Kept s (rungReady w s) := by
  unfold rungReady
  repeat' first
    | with_reducible rfl
    | with_reducible assumption
    | with_reducible refine ite_kept ?_ ?_
    | with_reducible refine ite_fst_kept ?_ ?_
    | dsimp only
    | (with_reducible refine kept_vault ?_; simp only [↓State.mk_vault]; simp only [pending_vault, time_vault, patch_vault, nextPatch_vault, copyA_vault, copyB_vault, update_vault, mem_vault, Vault.eta]; with_reducible refine vault_kept ?_)
    | with_reducible refine (rungArrives_kept ..).of ?_
    | with_reducible refine (State.charge_kept ..).of ?_
    | with_reducible refine (State.codewordLost_kept ..).of ?_
    | split

theorem weightRefetch_kept (w : Nat) (image : List Byte) (s : State) : Kept s (weightRefetch w image s) := by
  unfold weightRefetch
  repeat' first
    | with_reducible rfl
    | with_reducible assumption
    | with_reducible refine ite_kept ?_ ?_
    | with_reducible refine ite_fst_kept ?_ ?_
    | dsimp only
    | (with_reducible refine kept_vault ?_; simp only [↓State.mk_vault]; simp only [pending_vault, time_vault, patch_vault, nextPatch_vault, copyA_vault, copyB_vault, update_vault, mem_vault, Vault.eta]; with_reducible refine vault_kept ?_)
    | with_reducible refine (State.updFlash_kept ..).of ?_
    | with_reducible refine (State.updWpkg_kept ..).of ?_
    | with_reducible refine (State.nextRead_kept ..).of ?_
    | split

theorem State.haltCtx_kept (s : State) (c x : Nat) : Kept s (State.haltCtx s c x) := by
  unfold State.haltCtx
  repeat' first
    | with_reducible rfl
    | with_reducible assumption
    | with_reducible refine ite_kept ?_ ?_
    | with_reducible refine ite_fst_kept ?_ ?_
    | dsimp only
    | (with_reducible refine kept_vault ?_; simp only [↓State.mk_vault]; simp only [pending_vault, time_vault, patch_vault, nextPatch_vault, copyA_vault, copyB_vault, update_vault, mem_vault, Vault.eta]; with_reducible refine vault_kept ?_)
    | with_reducible refine (State.leaveWaits_kept ..).of ?_
    | with_reducible refine (State.leaveBars_kept ..).of ?_
    | with_reducible refine (State.updLaunch_kept ..).of ?_
    | with_reducible refine (Emit.launch_kept ..).of ?_
    | with_reducible refine (State.updCtx_kept ..).of ?_
    | with_reducible refine (State.updCore_kept ..).of ?_
    | split

theorem State.mustReplay_kept (s : State) (key n x : Nat) : Kept s (State.mustReplay s key n x) := by
  unfold State.mustReplay
  repeat' first
    | with_reducible rfl
    | with_reducible assumption
    | with_reducible refine ite_kept ?_ ?_
    | with_reducible refine ite_fst_kept ?_ ?_
    | dsimp only
    | (with_reducible refine kept_vault ?_; simp only [↓State.mk_vault]; simp only [pending_vault, time_vault, patch_vault, nextPatch_vault, copyA_vault, copyB_vault, update_vault, mem_vault, Vault.eta]; with_reducible refine vault_kept ?_)
    | with_reducible refine (Emit.launch_kept ..).of ?_
    | with_reducible refine (State.wantReplay_kept ..).of ?_
    | with_reducible refine (State.updLaunch_kept ..).of ?_
    | split

theorem State.haltUnit_kept (s : State) (k : EngineKind) (n : Nat) : Kept s (State.haltUnit s k n) := by
  unfold State.haltUnit
  repeat' first
    | with_reducible rfl
    | with_reducible assumption
    | with_reducible refine ite_kept ?_ ?_
    | with_reducible refine ite_fst_kept ?_ ?_
    | dsimp only
    | (with_reducible refine kept_vault ?_; simp only [↓State.mk_vault]; simp only [pending_vault, time_vault, patch_vault, nextPatch_vault, copyA_vault, copyB_vault, update_vault, mem_vault, Vault.eta]; with_reducible refine vault_kept ?_)
    | with_reducible refine (State.unpin_kept ..).of ?_
    | with_reducible refine (State.updLaunch_kept ..).of ?_
    | with_reducible refine (Emit.launch_kept ..).of ?_
    | with_reducible refine (State.updFox_kept ..).of ?_
    | with_reducible refine (State.updPrim_kept ..).of ?_
    | split

theorem State.replayUnit_kept (s : State) (k : EngineKind) (n : Nat) : Kept s (State.replayUnit s k n) := by
  unfold State.replayUnit
  repeat' first
    | with_reducible rfl
    | with_reducible assumption
    | with_reducible refine ite_kept ?_ ?_
    | with_reducible refine ite_fst_kept ?_ ?_
    | dsimp only
    | (with_reducible refine kept_vault ?_; simp only [↓State.mk_vault]; simp only [pending_vault, time_vault, patch_vault, nextPatch_vault, copyA_vault, copyB_vault, update_vault, mem_vault, Vault.eta]; with_reducible refine vault_kept ?_)
    | with_reducible refine (Emit.launch_kept ..).of ?_
    | with_reducible refine (State.haltCtx_kept ..).of ?_
    | with_reducible refine (State.mustReplay_kept ..).of ?_
    | with_reducible refine (State.haltUnit_kept ..).of ?_
    | with_reducible refine (Emit.range_kept ..).of ?_
    | (with_reducible refine (foldl_kept ?_ _ _).of ?_ <;> try intro _ _)
    | split

theorem tileReplay_kept (key n x : Nat) (s : State) : Kept s (tileReplay key n x s) := by
  unfold tileReplay
  repeat' first
    | with_reducible rfl
    | with_reducible assumption
    | with_reducible refine ite_kept ?_ ?_
    | with_reducible refine ite_fst_kept ?_ ?_
    | dsimp only
    | (with_reducible refine kept_vault ?_; simp only [↓State.mk_vault]; simp only [pending_vault, time_vault, patch_vault, nextPatch_vault, copyA_vault, copyB_vault, update_vault, mem_vault, Vault.eta]; with_reducible refine vault_kept ?_)
    | with_reducible refine (Emit.launch_kept ..).of ?_
    | with_reducible refine (State.updLaunch_kept ..).of ?_
    | with_reducible refine (State.setCtx_kept ..).of ?_
    | with_reducible refine (State.setClaim_kept ..).of ?_
    | with_reducible refine (State.unpin_kept ..).of ?_
    | with_reducible refine (State.updFox_kept ..).of ?_
    | with_reducible refine (State.updPrim_kept ..).of ?_
    | (with_reducible refine (foldl_kept ?_ _ _).of ?_ <;> try intro _ _)
    | split

theorem State.report_kept (s : State) (kind n : Nat) : Kept s (State.report s kind n) := by
  unfold State.report
  repeat' first
    | with_reducible rfl
    | with_reducible assumption
    | with_reducible refine ite_kept ?_ ?_
    | with_reducible refine ite_fst_kept ?_ ?_
    | dsimp only
    | (with_reducible refine kept_vault ?_; simp only [↓State.mk_vault]; simp only [pending_vault, time_vault, patch_vault, nextPatch_vault, copyA_vault, copyB_vault, update_vault, mem_vault, Vault.eta]; with_reducible refine vault_kept ?_)

theorem State.unitFails_kept (s : State) (k : UnitKind) (n : Nat) : Kept s (State.unitFails s k n) := by
  unfold State.unitFails
  repeat' first
    | with_reducible rfl
    | with_reducible assumption
    | with_reducible refine ite_kept ?_ ?_
    | with_reducible refine ite_fst_kept ?_ ?_
    | dsimp only
    | (with_reducible refine kept_vault ?_; simp only [↓State.mk_vault]; simp only [pending_vault, time_vault, patch_vault, nextPatch_vault, copyA_vault, copyB_vault, update_vault, mem_vault, Vault.eta]; with_reducible refine vault_kept ?_)
    | with_reducible refine (State.report_kept ..).of ?_
    | with_reducible refine (State.addRisk_kept ..).of ?_
    | with_reducible refine (State.failModule_kept ..).of ?_
    | split

theorem unitCheck_kept (k : UnitKind) (n : Nat) (s : State) : Kept s (unitCheck k n s) := by
  unfold unitCheck
  repeat' first
    | with_reducible rfl
    | with_reducible assumption
    | with_reducible refine ite_kept ?_ ?_
    | with_reducible refine ite_fst_kept ?_ ?_
    | dsimp only
    | (with_reducible refine kept_vault ?_; simp only [↓State.mk_vault]; simp only [pending_vault, time_vault, patch_vault, nextPatch_vault, copyA_vault, copyB_vault, update_vault, mem_vault, Vault.eta]; with_reducible refine vault_kept ?_)
    | with_reducible refine (State.unitFails_kept ..).of ?_

theorem coreWatchdog_kept (c : Nat) (s : State) : Kept s (coreWatchdog c s) := by
  unfold coreWatchdog
  repeat' first
    | with_reducible rfl
    | with_reducible assumption
    | with_reducible refine ite_kept ?_ ?_
    | with_reducible refine ite_fst_kept ?_ ?_
    | dsimp only
    | (with_reducible refine kept_vault ?_; simp only [↓State.mk_vault]; simp only [pending_vault, time_vault, patch_vault, nextPatch_vault, copyA_vault, copyB_vault, update_vault, mem_vault, Vault.eta]; with_reducible refine vault_kept ?_)
    | with_reducible refine (State.unitFails_kept ..).of ?_

theorem primWatchdog_kept (e : Nat) (s : State) : Kept s (primWatchdog e s) := by
  unfold primWatchdog
  repeat' first
    | with_reducible rfl
    | with_reducible assumption
    | with_reducible refine ite_kept ?_ ?_
    | with_reducible refine ite_fst_kept ?_ ?_
    | dsimp only
    | (with_reducible refine kept_vault ?_; simp only [↓State.mk_vault]; simp only [pending_vault, time_vault, patch_vault, nextPatch_vault, copyA_vault, copyB_vault, update_vault, mem_vault, Vault.eta]; with_reducible refine vault_kept ?_)
    | with_reducible refine (State.unitFails_kept ..).of ?_

theorem sramCorrected_kept (_k : UnitKind) (_n : Nat) (s : State) : Kept s (sramCorrected _k _n s) := by
  unfold sramCorrected
  repeat' first
    | with_reducible rfl
    | with_reducible assumption
    | with_reducible refine ite_kept ?_ ?_
    | with_reducible refine ite_fst_kept ?_ ?_
    | dsimp only
    | (with_reducible refine kept_vault ?_; simp only [↓State.mk_vault]; simp only [pending_vault, time_vault, patch_vault, nextPatch_vault, copyA_vault, copyB_vault, update_vault, mem_vault, Vault.eta]; with_reducible refine vault_kept ?_)
    | with_reducible refine (State.addRisk_kept ..).of ?_

theorem sramUncorrectable_kept (k : UnitKind) (n : Nat) (s : State) : Kept s (sramUncorrectable k n s) := by
  unfold sramUncorrectable
  repeat' first
    | with_reducible rfl
    | with_reducible assumption
    | with_reducible refine ite_kept ?_ ?_
    | with_reducible refine ite_fst_kept ?_ ?_
    | dsimp only
    | (with_reducible refine kept_vault ?_; simp only [↓State.mk_vault]; simp only [pending_vault, time_vault, patch_vault, nextPatch_vault, copyA_vault, copyB_vault, update_vault, mem_vault, Vault.eta]; with_reducible refine vault_kept ?_)
    | with_reducible refine (State.addRisk_kept ..).of ?_
    | with_reducible refine (State.replayUnit_kept ..).of ?_
    | with_reducible refine (State.failModule_kept ..).of ?_
    | split

theorem State.emptyCore_kept (s : State) (c : Nat) : Kept s (State.emptyCore s c) := by
  have e : Kept s { s with mem := s.mem.filter (fun (a, _) => spadCore a != some c && windowCore a != some c) } :=
    kept_mem rfl rfl rfl rfl rfl (fun h => filter_wf h _)
  unfold State.emptyCore
  dsimp only
  split
  · exact (State.giveCore_kept ..).of ((State.setCore_kept ..).of e)
  · exact (State.setCore_kept ..).of e

theorem State.reclaimCore_kept (s : State) (c : Nat) : Kept s (State.reclaimCore s c) := by
  unfold State.reclaimCore
  repeat' first
    | with_reducible rfl
    | with_reducible assumption
    | with_reducible refine ite_kept ?_ ?_
    | with_reducible refine ite_fst_kept ?_ ?_
    | dsimp only
    | (with_reducible refine kept_vault ?_; simp only [↓State.mk_vault]; simp only [pending_vault, time_vault, patch_vault, nextPatch_vault, copyA_vault, copyB_vault, update_vault, mem_vault, Vault.eta]; with_reducible refine vault_kept ?_)

theorem State.mapUnit_kept (s : State) (kind n u : Nat) : Kept s (State.mapUnit s kind n u) := by
  unfold State.mapUnit
  repeat' first
    | with_reducible rfl
    | with_reducible assumption
    | with_reducible refine ite_kept ?_ ?_
    | with_reducible refine ite_fst_kept ?_ ?_
    | dsimp only
    | (with_reducible refine kept_vault ?_; simp only [↓State.mk_vault]; simp only [pending_vault, time_vault, patch_vault, nextPatch_vault, copyA_vault, copyB_vault, update_vault, mem_vault, Vault.eta]; with_reducible refine vault_kept ?_)

theorem quarantine_kept (k : UnitKind) (n : Nat) (s : State) : Kept s (quarantine k n s) := by
  unfold quarantine
  repeat' first
    | with_reducible rfl
    | with_reducible assumption
    | with_reducible refine ite_kept ?_ ?_
    | with_reducible refine ite_fst_kept ?_ ?_
    | dsimp only
    | (with_reducible refine kept_vault ?_; simp only [↓State.mk_vault]; simp only [pending_vault, time_vault, patch_vault, nextPatch_vault, copyA_vault, copyB_vault, update_vault, mem_vault, Vault.eta]; with_reducible refine vault_kept ?_)
    | with_reducible refine (State.eventAll_kept ..).of ?_
    | with_reducible refine (State.replayUnit_kept ..).of ?_
    | with_reducible refine (State.reclaimCore_kept ..).of ?_
    | with_reducible refine (State.emptyCore_kept ..).of ?_
    | with_reducible refine (State.updFox_kept ..).of ?_
    | with_reducible refine (State.failModule_kept ..).of ?_
    | with_reducible refine (State.mapUnit_kept ..).of ?_
    | (with_reducible refine (foldl_kept ?_ _ _).of ?_ <;> try intro _ _)
    | split

theorem moduleFailure_kept (s : State) : Kept s (moduleFailure s) := by
  unfold moduleFailure
  repeat' first
    | with_reducible rfl
    | with_reducible assumption
    | with_reducible refine ite_kept ?_ ?_
    | with_reducible refine ite_fst_kept ?_ ?_
    | dsimp only
    | (with_reducible refine kept_vault ?_; simp only [↓State.mk_vault]; simp only [pending_vault, time_vault, patch_vault, nextPatch_vault, copyA_vault, copyB_vault, update_vault, mem_vault, Vault.eta]; with_reducible refine vault_kept ?_)
    | with_reducible refine (State.failModule_kept ..).of ?_

theorem auditStart_kept (key u : Nat) (s : State) : Kept s (auditStart key u s) := by
  unfold auditStart
  repeat' first
    | with_reducible rfl
    | with_reducible assumption
    | with_reducible refine ite_kept ?_ ?_
    | with_reducible refine ite_fst_kept ?_ ?_
    | dsimp only
    | (with_reducible refine kept_vault ?_; simp only [↓State.mk_vault]; simp only [pending_vault, time_vault, patch_vault, nextPatch_vault, copyA_vault, copyB_vault, update_vault, mem_vault, Vault.eta]; with_reducible refine vault_kept ?_)
    | with_reducible refine (Emit.launch_kept ..).of ?_
    | with_reducible refine (State.updLaunch_kept ..).of ?_
    | split

theorem State.countAudits_kept (s : State) (n : Nat) : Kept s (State.countAudits s n) := by
  unfold State.countAudits
  repeat' first
    | with_reducible rfl
    | with_reducible assumption
    | with_reducible refine ite_kept ?_ ?_
    | with_reducible refine ite_fst_kept ?_ ?_
    | dsimp only
    | (with_reducible refine kept_vault ?_; simp only [↓State.mk_vault]; simp only [pending_vault, time_vault, patch_vault, nextPatch_vault, copyA_vault, copyB_vault, update_vault, mem_vault, Vault.eta]; with_reducible refine vault_kept ?_)

theorem State.auditDone_kept (s : State) (key u : Nat) (l : Launch) : Kept s (State.auditDone s key u l) := by
  unfold State.auditDone
  repeat' first
    | with_reducible rfl
    | with_reducible assumption
    | with_reducible refine ite_kept ?_ ?_
    | with_reducible refine ite_fst_kept ?_ ?_
    | dsimp only
    | (with_reducible refine kept_vault ?_; simp only [↓State.mk_vault]; simp only [pending_vault, time_vault, patch_vault, nextPatch_vault, copyA_vault, copyB_vault, update_vault, mem_vault, Vault.eta]; with_reducible refine vault_kept ?_)
    | with_reducible refine (State.unpin_kept ..).of ?_
    | with_reducible refine (State.updLaunch_kept ..).of ?_
    | split

theorem auditComplete_kept (key u : Nat) (first audit third : W64) (s : State) : Kept s (auditComplete key u first audit third s) := by
  unfold auditComplete
  repeat' first
    | with_reducible rfl
    | with_reducible assumption
    | with_reducible refine ite_kept ?_ ?_
    | with_reducible refine ite_fst_kept ?_ ?_
    | dsimp only
    | (with_reducible refine kept_vault ?_; simp only [↓State.mk_vault]; simp only [pending_vault, time_vault, patch_vault, nextPatch_vault, copyA_vault, copyB_vault, update_vault, mem_vault, Vault.eta]; with_reducible refine vault_kept ?_)
    | with_reducible refine (Emit.launch_kept ..).of ?_
    | with_reducible refine (State.countAudits_kept ..).of ?_
    | with_reducible refine (State.auditDone_kept ..).of ?_
    | with_reducible refine (State.addRisk_kept ..).of ?_
    | with_reducible refine (State.report_kept ..).of ?_
    | with_reducible refine (State.wantReplay_kept ..).of ?_
    | split

theorem poisonReport_kept (p addr : Nat) (s : State) : Kept s (poisonReport p addr s) := by
  unfold poisonReport
  repeat' first
    | with_reducible rfl
    | with_reducible assumption
    | with_reducible refine ite_kept ?_ ?_
    | with_reducible refine ite_fst_kept ?_ ?_
    | dsimp only
    | (with_reducible refine kept_vault ?_; simp only [↓State.mk_vault]; simp only [pending_vault, time_vault, patch_vault, nextPatch_vault, copyA_vault, copyB_vault, update_vault, mem_vault, Vault.eta]; with_reducible refine vault_kept ?_)
    | with_reducible refine (State.event_kept ..).of ?_
    | with_reducible refine (State.discardStep_kept ..).of ?_
    | with_reducible refine (State.endRun_kept ..).of ?_
    | with_reducible refine (State.updRun_kept ..).of ?_
    | with_reducible refine (State.wantReplay_kept ..).of ?_
    | split

theorem riskUpdate_kept (t vin pin : Nat) (s : State) : Kept s (riskUpdate t vin pin s) := by
  unfold riskUpdate
  repeat' first
    | with_reducible rfl
    | with_reducible assumption
    | with_reducible refine ite_kept ?_ ?_
    | with_reducible refine ite_fst_kept ?_ ?_
    | dsimp only
    | (with_reducible refine kept_vault ?_; simp only [↓State.mk_vault]; simp only [pending_vault, time_vault, patch_vault, nextPatch_vault, copyA_vault, copyB_vault, update_vault, mem_vault, Vault.eta]; with_reducible refine vault_kept ?_)
    | with_reducible refine (State.pin_kept ..).of ?_
    | with_reducible refine (State.eventAll_kept ..).of ?_
    | with_reducible refine (State.platformEvent_kept ..).of ?_

theorem riskDecay_kept (s : State) : Kept s (riskDecay s) := by
  unfold riskDecay
  repeat' first
    | with_reducible rfl
    | with_reducible assumption
    | with_reducible refine ite_kept ?_ ?_
    | with_reducible refine ite_fst_kept ?_ ?_
    | dsimp only
    | (with_reducible refine kept_vault ?_; simp only [↓State.mk_vault]; simp only [pending_vault, time_vault, patch_vault, nextPatch_vault, copyA_vault, copyB_vault, update_vault, mem_vault, Vault.eta]; with_reducible refine vault_kept ?_)

end Sys2Proof.Machine
end

