-- ==== Sys2Proof/Laws/KeptIris.lean ====
section
/-!
SUPPORT. The operations of Machine/Iris keep what Kept says.
-/

set_option Elab.async false

namespace Sys2Proof.Machine

theorem hIrsOpen_kept (c : Cmd) (s : State) : Kept s (hIrsOpen c s).1 := by
  unfold hIrsOpen
  refine withPb_kept _ _ _ ?_ _ _
  intro c bs s
  repeat' first
    | with_reducible rfl
    | with_reducible assumption
    | with_reducible refine ite_kept ?_ ?_
    | with_reducible refine ite_fst_kept ?_ ?_
    | dsimp only
    | (with_reducible refine kept_vault ?_; simp only [↓State.mk_vault]; simp only [pending_vault, time_vault, patch_vault, nextPatch_vault, copyA_vault, copyB_vault, update_vault, mem_vault, Vault.eta]; with_reducible refine vault_kept ?_)
    | with_reducible refine (Emit.range_kept ..).of ?_
    | split

theorem State.updIcore_kept (s : State) (k : Nat) (f : IrisCore → IrisCore) : Kept s (State.updIcore s k f) := by
  unfold State.updIcore
  repeat' first
    | with_reducible rfl
    | with_reducible assumption
    | with_reducible refine ite_kept ?_ ?_
    | with_reducible refine ite_fst_kept ?_ ?_
    | dsimp only
    | (with_reducible refine kept_vault ?_; simp only [↓State.mk_vault]; simp only [pending_vault, time_vault, patch_vault, nextPatch_vault, copyA_vault, copyB_vault, update_vault, mem_vault, Vault.eta]; with_reducible refine vault_kept ?_)

theorem State.updIris_kept (s : State) (h : Nat) (f : IrisSess → IrisSess) : Kept s (State.updIris s h f) := by
  unfold State.updIris
  repeat' first
    | with_reducible rfl
    | with_reducible assumption
    | with_reducible refine ite_kept ?_ ?_
    | with_reducible refine ite_fst_kept ?_ ?_
    | dsimp only
    | (with_reducible refine kept_vault ?_; simp only [↓State.mk_vault]; simp only [pending_vault, time_vault, patch_vault, nextPatch_vault, copyA_vault, copyB_vault, update_vault, mem_vault, Vault.eta]; with_reducible refine vault_kept ?_)

theorem hIrsClose_kept (c : Cmd) (s : State) : Kept s (hIrsClose c s).1 := by
  unfold hIrsClose
  repeat' first
    | with_reducible rfl
    | with_reducible assumption
    | with_reducible refine ite_kept ?_ ?_
    | with_reducible refine ite_fst_kept ?_ ?_
    | dsimp only
    | (with_reducible refine kept_vault ?_; simp only [↓State.mk_vault]; simp only [pending_vault, time_vault, patch_vault, nextPatch_vault, copyA_vault, copyB_vault, update_vault, mem_vault, Vault.eta]; with_reducible refine vault_kept ?_)
    | with_reducible refine (State.updIris_kept ..).of ?_
    | split

theorem hIrsQuery_kept (c : Cmd) (s : State) : Kept s (hIrsQuery c s).1 := by
  unfold hIrsQuery
  exact withResp_kept _ _ _ _ _

theorem State.startPicture_kept (s : State) (h n : Nat) (ws : List W64) : Kept s (State.startPicture s h n ws) := by
  unfold State.startPicture
  repeat' first
    | with_reducible rfl
    | with_reducible assumption
    | with_reducible refine ite_kept ?_ ?_
    | with_reducible refine ite_fst_kept ?_ ?_
    | dsimp only
    | (with_reducible refine kept_vault ?_; simp only [↓State.mk_vault]; simp only [pending_vault, time_vault, patch_vault, nextPatch_vault, copyA_vault, copyB_vault, update_vault, mem_vault, Vault.eta]; with_reducible refine vault_kept ?_)
    | with_reducible refine (State.updIris_kept ..).of ?_
    | with_reducible refine (State.updIcore_kept ..).of ?_
    | with_reducible refine (State.event_kept ..).of ?_
    | split

theorem State.startHeld_kept (s : State) (h : Nat) : Kept s (State.startHeld s h) := by
  unfold State.startHeld
  repeat' first
    | with_reducible rfl
    | with_reducible assumption
    | with_reducible refine ite_kept ?_ ?_
    | with_reducible refine ite_fst_kept ?_ ?_
    | dsimp only
    | (with_reducible refine kept_vault ?_; simp only [↓State.mk_vault]; simp only [pending_vault, time_vault, patch_vault, nextPatch_vault, copyA_vault, copyB_vault, update_vault, mem_vault, Vault.eta]; with_reducible refine vault_kept ?_)
    | with_reducible refine (State.updIris_kept ..).of ?_
    | with_reducible refine (State.startPicture_kept ..).of ?_
    | split

theorem State.readDescriptor_kept (s : State) (h : Nat) (x : IrisSess) : Kept s (State.readDescriptor s h x) := by
  unfold State.readDescriptor
  repeat' first
    | with_reducible rfl
    | with_reducible assumption
    | with_reducible refine ite_kept ?_ ?_
    | with_reducible refine ite_fst_kept ?_ ?_
    | dsimp only
    | (with_reducible refine kept_vault ?_; simp only [↓State.mk_vault]; simp only [pending_vault, time_vault, patch_vault, nextPatch_vault, copyA_vault, copyB_vault, update_vault, mem_vault, Vault.eta]; with_reducible refine vault_kept ?_)
    | with_reducible refine (State.updIris_kept ..).of ?_
    | with_reducible refine (State.startPicture_kept ..).of ?_
    | with_reducible refine (State.startHeld_kept ..).of ?_

theorem irisStart_kept (k : Nat) (s : State) : Kept s (irisStart k s) := by
  unfold irisStart
  repeat' first
    | with_reducible rfl
    | with_reducible assumption
    | with_reducible refine ite_kept ?_ ?_
    | with_reducible refine ite_fst_kept ?_ ?_
    | dsimp only
    | (with_reducible refine kept_vault ?_; simp only [↓State.mk_vault]; simp only [pending_vault, time_vault, patch_vault, nextPatch_vault, copyA_vault, copyB_vault, update_vault, mem_vault, Vault.eta]; with_reducible refine vault_kept ?_)
    | with_reducible refine (State.updIcore_kept ..).of ?_
    | with_reducible refine (State.startHeld_kept ..).of ?_
    | with_reducible refine (State.readDescriptor_kept ..).of ?_
    | split

theorem irisRow_kept (k : Nat) (s : State) : Kept s (irisRow k s) := by
  unfold irisRow
  repeat' first
    | with_reducible rfl
    | with_reducible assumption
    | with_reducible refine ite_kept ?_ ?_
    | with_reducible refine ite_fst_kept ?_ ?_
    | dsimp only
    | (with_reducible refine kept_vault ?_; simp only [↓State.mk_vault]; simp only [pending_vault, time_vault, patch_vault, nextPatch_vault, copyA_vault, copyB_vault, update_vault, mem_vault, Vault.eta]; with_reducible refine vault_kept ?_)
    | with_reducible refine (State.updIcore_kept ..).of ?_
    | split

theorem irisSlice_kept (k : Nat) (s : State) : Kept s (irisSlice k s) := by
  unfold irisSlice
  repeat' first
    | with_reducible rfl
    | with_reducible assumption
    | with_reducible refine ite_kept ?_ ?_
    | with_reducible refine ite_fst_kept ?_ ?_
    | dsimp only
    | (with_reducible refine kept_vault ?_; simp only [↓State.mk_vault]; simp only [pending_vault, time_vault, patch_vault, nextPatch_vault, copyA_vault, copyB_vault, update_vault, mem_vault, Vault.eta]; with_reducible refine vault_kept ?_)
    | with_reducible refine (State.updIcore_kept ..).of ?_
    | with_reducible refine (State.write_kept ..).of ?_
    | with_reducible refine (MapEdit.write_kept ..).of ?_
    | with_reducible refine (State.signalOr_kept ..).of ?_
    | split

theorem State.settleIris_kept (s : State) (h : Nat) : Kept s (State.settleIris s h) := by
  unfold State.settleIris
  repeat' first
    | with_reducible rfl
    | with_reducible assumption
    | with_reducible refine ite_kept ?_ ?_
    | with_reducible refine ite_fst_kept ?_ ?_
    | dsimp only
    | (with_reducible refine kept_vault ?_; simp only [↓State.mk_vault]; simp only [pending_vault, time_vault, patch_vault, nextPatch_vault, copyA_vault, copyB_vault, update_vault, mem_vault, Vault.eta]; with_reducible refine vault_kept ?_)
    | with_reducible refine (State.complete_kept ..).of ?_
    | split

theorem irisDone_kept (k : Nat) (s : State) : Kept s (irisDone k s) := by
  unfold irisDone
  repeat' first
    | with_reducible rfl
    | with_reducible assumption
    | with_reducible refine ite_kept ?_ ?_
    | with_reducible refine ite_fst_kept ?_ ?_
    | dsimp only
    | (with_reducible refine kept_vault ?_; simp only [↓State.mk_vault]; simp only [pending_vault, time_vault, patch_vault, nextPatch_vault, copyA_vault, copyB_vault, update_vault, mem_vault, Vault.eta]; with_reducible refine vault_kept ?_)
    | with_reducible refine (State.writes_kept ..).of ?_
    | with_reducible refine (State.write_kept ..).of ?_
    | with_reducible refine (MapEdit.write_kept ..).of ?_
    | with_reducible refine (State.signalOr_kept ..).of ?_
    | with_reducible refine (State.updIris_kept ..).of ?_
    | with_reducible refine (State.updIcore_kept ..).of ?_
    | with_reducible refine (State.settleIris_kept ..).of ?_
    | split

theorem irisRepeat_kept (k : Nat) (s : State) : Kept s (irisRepeat k s) := by
  unfold irisRepeat
  repeat' first
    | with_reducible rfl
    | with_reducible assumption
    | with_reducible refine ite_kept ?_ ?_
    | with_reducible refine ite_fst_kept ?_ ?_
    | dsimp only
    | (with_reducible refine kept_vault ?_; simp only [↓State.mk_vault]; simp only [pending_vault, time_vault, patch_vault, nextPatch_vault, copyA_vault, copyB_vault, update_vault, mem_vault, Vault.eta]; with_reducible refine vault_kept ?_)
    | with_reducible refine (State.failModule_kept ..).of ?_
    | with_reducible refine (State.updIcore_kept ..).of ?_
    | split

end Sys2Proof.Machine
end

