-- ==== Sys2Proof/Laws/KeptPower.lean ====
section
/-!
SUPPORT. The operations of Machine/Power keep what Kept says.
-/

set_option Elab.async false

namespace Sys2Proof.Machine

theorem State.setEngine_kept (s : State) (k : EngineKind) (n : Nat) (p : Power) (t : Nat) : Kept s (State.setEngine s k n p t) := by
  unfold State.setEngine
  repeat' first
    | with_reducible rfl
    | with_reducible assumption
    | with_reducible refine ite_kept ?_ ?_
    | with_reducible refine ite_fst_kept ?_ ?_
    | dsimp only
    | (with_reducible refine kept_vault ?_; simp only [↓State.mk_vault]; simp only [pending_vault, time_vault, patch_vault, nextPatch_vault, copyA_vault, copyB_vault, update_vault, mem_vault, Vault.eta]; with_reducible refine vault_kept ?_)
    | with_reducible refine (State.updCore_kept ..).of ?_
    | with_reducible refine (State.updFox_kept ..).of ?_
    | with_reducible refine (State.updPrim_kept ..).of ?_
    | split

theorem State.forgetTiles_kept (s : State) (c : Nat) : Kept s (State.forgetTiles s c) := by
  unfold State.forgetTiles
  repeat' first
    | with_reducible rfl
    | with_reducible assumption
    | with_reducible refine ite_kept ?_ ?_
    | with_reducible refine ite_fst_kept ?_ ?_
    | dsimp only
    | (with_reducible refine kept_vault ?_; simp only [↓State.mk_vault]; simp only [pending_vault, time_vault, patch_vault, nextPatch_vault, copyA_vault, copyB_vault, update_vault, mem_vault, Vault.eta]; with_reducible refine vault_kept ?_)

theorem coreEnterRetain_kept (k : EngineKind) (n : Nat) (s : State) : Kept s (coreEnterRetain k n s) := by
  unfold coreEnterRetain
  repeat' first
    | with_reducible rfl
    | with_reducible assumption
    | with_reducible refine ite_kept ?_ ?_
    | with_reducible refine ite_fst_kept ?_ ?_
    | dsimp only
    | (with_reducible refine kept_vault ?_; simp only [↓State.mk_vault]; simp only [pending_vault, time_vault, patch_vault, nextPatch_vault, copyA_vault, copyB_vault, update_vault, mem_vault, Vault.eta]; with_reducible refine vault_kept ?_)
    | with_reducible refine (State.forgetTiles_kept ..).of ?_
    | with_reducible refine (State.setEngine_kept ..).of ?_

theorem State.engineOff_kept (s : State) (k : EngineKind) (n : Nat) : Kept s (State.engineOff s k n) := by
  unfold State.engineOff
  repeat' first
    | with_reducible rfl
    | with_reducible assumption
    | with_reducible refine ite_kept ?_ ?_
    | with_reducible refine ite_fst_kept ?_ ?_
    | dsimp only
    | (with_reducible refine kept_vault ?_; simp only [↓State.mk_vault]; simp only [pending_vault, time_vault, patch_vault, nextPatch_vault, copyA_vault, copyB_vault, update_vault, mem_vault, Vault.eta]; with_reducible refine vault_kept ?_)
    | with_reducible refine (State.corePowerOff_kept ..).of ?_
    | with_reducible refine (State.updFox_kept ..).of ?_
    | with_reducible refine (State.updPrim_kept ..).of ?_
    | split

theorem coreEnterOff_kept (k : EngineKind) (n : Nat) (s : State) : Kept s (coreEnterOff k n s) := by
  unfold coreEnterOff
  repeat' first
    | with_reducible rfl
    | with_reducible assumption
    | with_reducible refine ite_kept ?_ ?_
    | with_reducible refine ite_fst_kept ?_ ?_
    | dsimp only
    | (with_reducible refine kept_vault ?_; simp only [↓State.mk_vault]; simp only [pending_vault, time_vault, patch_vault, nextPatch_vault, copyA_vault, copyB_vault, update_vault, mem_vault, Vault.eta]; with_reducible refine vault_kept ?_)
    | with_reducible refine (State.engineOff_kept ..).of ?_

theorem coreWake_kept (k : EngineKind) (n : Nat) (s : State) : Kept s (coreWake k n s) := by
  unfold coreWake
  repeat' first
    | with_reducible rfl
    | with_reducible assumption
    | with_reducible refine ite_kept ?_ ?_
    | with_reducible refine ite_fst_kept ?_ ?_
    | dsimp only
    | (with_reducible refine kept_vault ?_; simp only [↓State.mk_vault]; simp only [pending_vault, time_vault, patch_vault, nextPatch_vault, copyA_vault, copyB_vault, update_vault, mem_vault, Vault.eta]; with_reducible refine vault_kept ?_)
    | with_reducible refine (State.updCore_kept ..).of ?_
    | with_reducible refine (State.setEngine_kept ..).of ?_
    | split

theorem hPwrTimeout_kept (c : Cmd) (s : State) : Kept s (hPwrTimeout c s).1 := by
  unfold hPwrTimeout
  repeat' first
    | with_reducible rfl
    | with_reducible assumption
    | with_reducible refine ite_kept ?_ ?_
    | with_reducible refine ite_fst_kept ?_ ?_
    | dsimp only
    | (with_reducible refine kept_vault ?_; simp only [↓State.mk_vault]; simp only [pending_vault, time_vault, patch_vault, nextPatch_vault, copyA_vault, copyB_vault, update_vault, mem_vault, Vault.eta]; with_reducible refine vault_kept ?_)
    | with_reducible refine (State.updPart_kept ..).of ?_

theorem hPwrModule_kept (c : Cmd) (s : State) : Kept s (hPwrModule c s).1 := by
  unfold hPwrModule
  repeat' first
    | with_reducible rfl
    | with_reducible assumption
    | with_reducible refine ite_kept ?_ ?_
    | with_reducible refine ite_fst_kept ?_ ?_
    | dsimp only
    | (with_reducible refine kept_vault ?_; simp only [↓State.mk_vault]; simp only [pending_vault, time_vault, patch_vault, nextPatch_vault, copyA_vault, copyB_vault, update_vault, mem_vault, Vault.eta]; with_reducible refine vault_kept ?_)
    | with_reducible refine (State.platformEvent_kept ..).of ?_
    | with_reducible refine (State.updCmd_kept ..).of ?_

theorem undoPwrModule_kept (c : Cmd) (s : State) : Kept s (undoPwrModule c s) := by
  unfold undoPwrModule
  repeat' first
    | with_reducible rfl
    | with_reducible assumption
    | with_reducible refine ite_kept ?_ ?_
    | with_reducible refine ite_fst_kept ?_ ?_
    | dsimp only
    | (with_reducible refine kept_vault ?_; simp only [↓State.mk_vault]; simp only [pending_vault, time_vault, patch_vault, nextPatch_vault, copyA_vault, copyB_vault, update_vault, mem_vault, Vault.eta]; with_reducible refine vault_kept ?_)

theorem State.endTrans_kept (s : State) (status : Nat) : Kept s (State.endTrans s status) := by
  unfold State.endTrans
  repeat' first
    | with_reducible rfl
    | with_reducible assumption
    | with_reducible refine ite_kept ?_ ?_
    | with_reducible refine ite_fst_kept ?_ ?_
    | dsimp only
    | (with_reducible refine kept_vault ?_; simp only [↓State.mk_vault]; simp only [pending_vault, time_vault, patch_vault, nextPatch_vault, copyA_vault, copyB_vault, update_vault, mem_vault, Vault.eta]; with_reducible refine vault_kept ?_)
    | with_reducible refine (State.complete_kept ..).of ?_
    | split

theorem standbyEntryDone_kept (s : State) : Kept s (standbyEntryDone s) := by
  have key (t : State) : Kept t ((List.range 128).foldl (fun s c =>
      if (s.core c).power = .run then (s.forgetTiles c).setEngine .core c .retain (s.time - 160000) else s) t) :=
    foldl_kept (fun s x => ite_kept ((State.setEngine_kept ..).of (State.forgetTiles_kept ..)) (.refl _)) _ _
  have key' (t : State) : Kept t ({ t with mode := .standby } : State).platformEvent :=
    (State.platformEvent_kept _).of (kept_same rfl)
  unfold standbyEntryDone
  split
  · rfl
  · refine ite_kept (.refl _) (ite_kept ((State.endTrans_kept ..).of ((key' _).of (key _))) ?_)
    split
    · exact (State.updCmd_kept ..).of ((key' _).of (key _))
    · exact (key' _).of (key _)

theorem sleepEntry_kept (s : State) : Kept s (sleepEntry s) := by
  unfold sleepEntry
  repeat' first
    | with_reducible rfl
    | with_reducible assumption
    | with_reducible refine ite_kept ?_ ?_
    | with_reducible refine ite_fst_kept ?_ ?_
    | dsimp only
    | (with_reducible refine kept_vault ?_; simp only [↓State.mk_vault]; simp only [pending_vault, time_vault, patch_vault, nextPatch_vault, copyA_vault, copyB_vault, update_vault, mem_vault, Vault.eta]; with_reducible refine vault_kept ?_)
    | with_reducible refine (State.endTrans_kept ..).of ?_
    | split

theorem State.beginExit_kept (s : State) : Kept s (State.beginExit s) := by
  unfold State.beginExit
  repeat' first
    | with_reducible rfl
    | with_reducible assumption
    | with_reducible refine ite_kept ?_ ?_
    | with_reducible refine ite_fst_kept ?_ ?_
    | dsimp only
    | (with_reducible refine kept_vault ?_; simp only [↓State.mk_vault]; simp only [pending_vault, time_vault, patch_vault, nextPatch_vault, copyA_vault, copyB_vault, update_vault, mem_vault, Vault.eta]; with_reducible refine vault_kept ?_)

theorem State.domainsDown_kept (s : State) : Kept s (State.domainsDown s) := by
  unfold State.domainsDown
  repeat' first
    | with_reducible rfl
    | with_reducible assumption
    | with_reducible refine ite_kept ?_ ?_
    | with_reducible refine ite_fst_kept ?_ ?_
    | dsimp only
    | (with_reducible refine kept_vault ?_; simp only [↓State.mk_vault]; simp only [pending_vault, time_vault, patch_vault, nextPatch_vault, copyA_vault, copyB_vault, update_vault, mem_vault, Vault.eta]; with_reducible refine vault_kept ?_)
    | with_reducible refine (State.corePowerOff_kept ..).of ?_
    | with_reducible refine (Emit.range_kept ..).of ?_
    | (with_reducible refine (foldl_kept ?_ _ _).of ?_ <;> try intro _ _)

theorem sleepPowerDown_kept (s : State) : Kept s (sleepPowerDown s) := by
  unfold sleepPowerDown
  repeat' first
    | with_reducible rfl
    | with_reducible assumption
    | with_reducible refine ite_kept ?_ ?_
    | with_reducible refine ite_fst_kept ?_ ?_
    | dsimp only
    | (with_reducible refine kept_vault ?_; simp only [↓State.mk_vault]; simp only [pending_vault, time_vault, patch_vault, nextPatch_vault, copyA_vault, copyB_vault, update_vault, mem_vault, Vault.eta]; with_reducible refine vault_kept ?_)
    | with_reducible refine (State.domainsDown_kept ..).of ?_
    | with_reducible refine (linkUp_kept ..).of ?_
    | with_reducible refine (State.platformEvent_kept ..).of ?_
    | with_reducible refine (State.wake_kept ..).of ?_
    | with_reducible refine (State.beginExit_kept ..).of ?_

theorem State.wakeRequest_kept (s : State) : Kept s (State.wakeRequest s) := by
  unfold State.wakeRequest
  repeat' first
    | with_reducible rfl
    | with_reducible assumption
    | with_reducible refine ite_kept ?_ ?_
    | with_reducible refine ite_fst_kept ?_ ?_
    | dsimp only
    | (with_reducible refine kept_vault ?_; simp only [↓State.mk_vault]; simp only [pending_vault, time_vault, patch_vault, nextPatch_vault, copyA_vault, copyB_vault, update_vault, mem_vault, Vault.eta]; with_reducible refine vault_kept ?_)
    | with_reducible refine (State.beginExit_kept ..).of ?_

theorem wakeAssert_kept (acted : Bool) (ticks : Nat) (s : State) : Kept s (wakeAssert acted ticks s) := by
  unfold wakeAssert
  repeat' first
    | with_reducible rfl
    | with_reducible assumption
    | with_reducible refine ite_kept ?_ ?_
    | with_reducible refine ite_fst_kept ?_ ?_
    | dsimp only
    | (with_reducible refine kept_vault ?_; simp only [↓State.mk_vault]; simp only [pending_vault, time_vault, patch_vault, nextPatch_vault, copyA_vault, copyB_vault, update_vault, mem_vault, Vault.eta]; with_reducible refine vault_kept ?_)
    | with_reducible refine (State.wakeRequest_kept ..).of ?_

theorem State.startFails_kept (s : State) (at_ err : Nat) : Kept s (State.startFails s at_ err) := by
  unfold State.startFails
  repeat' first
    | with_reducible rfl
    | with_reducible assumption
    | with_reducible refine ite_kept ?_ ?_
    | with_reducible refine ite_fst_kept ?_ ?_
    | dsimp only
    | (with_reducible refine kept_vault ?_; simp only [↓State.mk_vault]; simp only [pending_vault, time_vault, patch_vault, nextPatch_vault, copyA_vault, copyB_vault, update_vault, mem_vault, Vault.eta]; with_reducible refine vault_kept ?_)
    | with_reducible refine (State.platformEvent_kept ..).of ?_

theorem startupReady_kept (s : State) : Kept s (startupReady s) := by
  unfold startupReady
  repeat' first
    | with_reducible rfl
    | with_reducible assumption
    | with_reducible refine ite_kept ?_ ?_
    | with_reducible refine ite_fst_kept ?_ ?_
    | dsimp only
    | (with_reducible refine kept_vault ?_; simp only [↓State.mk_vault]; simp only [pending_vault, time_vault, patch_vault, nextPatch_vault, copyA_vault, copyB_vault, update_vault, mem_vault, Vault.eta]; with_reducible refine vault_kept ?_)
    | with_reducible refine (State.platformEvent_kept ..).of ?_

theorem supplyDroop_kept (s : State) : Kept s (supplyDroop s) := by
  unfold supplyDroop
  repeat' first
    | with_reducible rfl
    | with_reducible assumption
    | with_reducible refine ite_kept ?_ ?_
    | with_reducible refine ite_fst_kept ?_ ?_
    | dsimp only
    | (with_reducible refine kept_vault ?_; simp only [↓State.mk_vault]; simp only [pending_vault, time_vault, patch_vault, nextPatch_vault, copyA_vault, copyB_vault, update_vault, mem_vault, Vault.eta]; with_reducible refine vault_kept ?_)
    | with_reducible refine (State.addRisk_kept ..).of ?_

theorem inputLowRelease_kept (s : State) : Kept s (inputLowRelease s) := by
  unfold inputLowRelease
  repeat' first
    | with_reducible rfl
    | with_reducible assumption
    | with_reducible refine ite_kept ?_ ?_
    | with_reducible refine ite_fst_kept ?_ ?_
    | dsimp only
    | (with_reducible refine kept_vault ?_; simp only [↓State.mk_vault]; simp only [pending_vault, time_vault, patch_vault, nextPatch_vault, copyA_vault, copyB_vault, update_vault, mem_vault, Vault.eta]; with_reducible refine vault_kept ?_)

theorem thermalStop_kept (s : State) : Kept s (thermalStop s) := by
  unfold thermalStop
  repeat' first
    | with_reducible rfl
    | with_reducible assumption
    | with_reducible refine ite_kept ?_ ?_
    | with_reducible refine ite_fst_kept ?_ ?_
    | dsimp only
    | (with_reducible refine kept_vault ?_; simp only [↓State.mk_vault]; simp only [pending_vault, time_vault, patch_vault, nextPatch_vault, copyA_vault, copyB_vault, update_vault, mem_vault, Vault.eta]; with_reducible refine vault_kept ?_)
    | with_reducible refine (State.failModule_kept ..).of ?_

theorem cblPrsChange_kept (k : Nat) (fitted : Bool) (s : State) : Kept s (cblPrsChange k fitted s) := by
  unfold cblPrsChange
  repeat' first
    | with_reducible rfl
    | with_reducible assumption
    | with_reducible refine ite_kept ?_ ?_
    | with_reducible refine ite_fst_kept ?_ ?_
    | dsimp only
    | (with_reducible refine kept_vault ?_; simp only [↓State.mk_vault]; simp only [pending_vault, time_vault, patch_vault, nextPatch_vault, copyA_vault, copyB_vault, update_vault, mem_vault, Vault.eta]; with_reducible refine vault_kept ?_)

end Sys2Proof.Machine
end

