-- ==== Sys2Proof/Laws/KeptMgmt.lean ====
section
/-!
SUPPORT. The operations of Machine/Mgmt keep what Kept says.
-/

set_option Elab.async false

namespace Sys2Proof.Machine

theorem State.mgmt_kept (s : State) (bs : List Byte) : Kept s (State.mgmt s bs) := by
  unfold State.mgmt
  repeat' first
    | with_reducible rfl
    | with_reducible assumption
    | with_reducible refine ite_kept ?_ ?_
    | with_reducible refine ite_fst_kept ?_ ?_
    | dsimp only
    | (with_reducible refine kept_vault ?_; simp only [↓State.mk_vault]; simp only [pending_vault, time_vault, patch_vault, nextPatch_vault, copyA_vault, copyB_vault, update_vault, mem_vault, Vault.eta]; with_reducible refine vault_kept ?_)

theorem whenMgmt_kept (f : State → State) (s : State) (hf : ∀ x0, Kept x0 (f x0)) : Kept s (whenMgmt f s) := by
  unfold whenMgmt
  repeat' first
    | with_reducible rfl
    | with_reducible assumption
    | with_reducible refine ite_kept ?_ ?_
    | with_reducible refine ite_fst_kept ?_ ?_
    | dsimp only
    | (with_reducible refine kept_vault ?_; simp only [↓State.mk_vault]; simp only [pending_vault, time_vault, patch_vault, nextPatch_vault, copyA_vault, copyB_vault, update_vault, mem_vault, Vault.eta]; with_reducible refine vault_kept ?_)
    | with_reducible refine (hf ..).of ?_

theorem mctpMessage_kept (ty : Byte) (_body : List Byte) (s : State) : Kept s (mctpMessage ty _body s) := by
  unfold mctpMessage
  repeat' first
    | with_reducible rfl
    | with_reducible assumption
    | with_reducible refine ite_kept ?_ ?_
    | with_reducible refine ite_fst_kept ?_ ?_
    | dsimp only
    | (with_reducible refine kept_vault ?_; simp only [↓State.mk_vault]; simp only [pending_vault, time_vault, patch_vault, nextPatch_vault, copyA_vault, copyB_vault, update_vault, mem_vault, Vault.eta]; with_reducible refine vault_kept ?_)
    | (with_reducible refine (whenMgmt_kept _ _ ?_).of ?_ <;> try intros)
    | with_reducible refine (State.mgmtFree_kept ..).of ?_

theorem getSensor_kept (id : Nat) (s : State) : Kept s (getSensor id s) := by
  unfold getSensor
  repeat' first
    | with_reducible rfl
    | with_reducible assumption
    | with_reducible refine ite_kept ?_ ?_
    | with_reducible refine ite_fst_kept ?_ ?_
    | dsimp only
    | (with_reducible refine kept_vault ?_; simp only [↓State.mk_vault]; simp only [pending_vault, time_vault, patch_vault, nextPatch_vault, copyA_vault, copyB_vault, update_vault, mem_vault, Vault.eta]; with_reducible refine vault_kept ?_)
    | (with_reducible refine (whenMgmt_kept _ _ ?_).of ?_ <;> try intros)
    | with_reducible refine (State.mgmt_kept ..).of ?_
    | with_reducible refine (State.mgmtFree_kept ..).of ?_
    | split

theorem setReceiver_kept (eid : Nat) (s : State) : Kept s (setReceiver eid s) := by
  unfold setReceiver
  refine whenMgmt_kept _ _ ?_
  intro s
  have h := State.mgmtFree_kept s 0x4172 1
  exact ⟨h.pending, h.time, h.patch, h.nextPatch, rfl, rfl, rfl, h.mem⟩

theorem setEffecter_kept (id st : Nat) (s : State) : Kept s (setEffecter id st s) := by
  unfold setEffecter
  repeat' first
    | with_reducible rfl
    | with_reducible assumption
    | with_reducible refine ite_kept ?_ ?_
    | with_reducible refine ite_fst_kept ?_ ?_
    | dsimp only
    | (with_reducible refine kept_vault ?_; simp only [↓State.mk_vault]; simp only [pending_vault, time_vault, patch_vault, nextPatch_vault, copyA_vault, copyB_vault, update_vault, mem_vault, Vault.eta]; with_reducible refine vault_kept ?_)
    | (with_reducible refine (whenMgmt_kept _ _ ?_).of ?_ <;> try intros)
    | with_reducible refine (State.mgmtFree_kept ..).of ?_
    | with_reducible refine (State.wakeRequest_kept ..).of ?_

theorem getFru_kept  (s : State) : Kept s (getFru  s) := by
  unfold getFru
  repeat' first
    | with_reducible rfl
    | with_reducible assumption
    | with_reducible refine ite_kept ?_ ?_
    | with_reducible refine ite_fst_kept ?_ ?_
    | dsimp only
    | (with_reducible refine kept_vault ?_; simp only [↓State.mk_vault]; simp only [pending_vault, time_vault, patch_vault, nextPatch_vault, copyA_vault, copyB_vault, update_vault, mem_vault, Vault.eta]; with_reducible refine vault_kept ?_)
    | (with_reducible refine (whenMgmt_kept _ _ ?_).of ?_ <;> try intros)
    | with_reducible refine (State.mgmt_kept ..).of ?_

theorem setAddress_kept (a : Nat) (s : State) : Kept s (setAddress a s) := by
  unfold setAddress
  repeat' first
    | with_reducible rfl
    | with_reducible assumption
    | with_reducible refine ite_kept ?_ ?_
    | with_reducible refine ite_fst_kept ?_ ?_
    | dsimp only
    | (with_reducible refine kept_vault ?_; simp only [↓State.mk_vault]; simp only [pending_vault, time_vault, patch_vault, nextPatch_vault, copyA_vault, copyB_vault, update_vault, mem_vault, Vault.eta]; with_reducible refine vault_kept ?_)
    | (with_reducible refine (whenMgmt_kept _ _ ?_).of ?_ <;> try intros)

theorem getVersion_kept (peer : List Nat) (s : State) : Kept s (getVersion peer s) := by
  unfold getVersion
  refine whenMgmt_kept _ _ ?_
  intro s
  have h := State.mgmt_kept s [0x12, 0x13]
  exact ⟨h.pending, h.time, h.patch, h.nextPatch, rfl, rfl, rfl, h.mem⟩

theorem withKey_kept (f : State → State) (hf : ∀ x0, Kept x0 (f x0)) (s : State) : Kept s (withKey f s) := by
  unfold withKey
  repeat' first
    | with_reducible rfl
    | with_reducible assumption
    | with_reducible refine ite_kept ?_ ?_
    | with_reducible refine ite_fst_kept ?_ ?_
    | dsimp only
    | (with_reducible refine kept_vault ?_; simp only [↓State.mk_vault]; simp only [pending_vault, time_vault, patch_vault, nextPatch_vault, copyA_vault, copyB_vault, update_vault, mem_vault, Vault.eta]; with_reducible refine vault_kept ?_)
    | (with_reducible refine (whenMgmt_kept _ _ ?_).of ?_ <;> try intros)
    | with_reducible refine (State.mgmtFree_kept ..).of ?_
    | with_reducible refine (hf ..).of ?_

theorem getCertificate_kept (slot off len : Nat) (s : State) : Kept s (getCertificate slot off len s) := by
  unfold getCertificate
  repeat' first
    | with_reducible rfl
    | with_reducible assumption
    | with_reducible refine ite_kept ?_ ?_
    | with_reducible refine ite_fst_kept ?_ ?_
    | dsimp only
    | (with_reducible refine kept_vault ?_; simp only [↓State.mk_vault]; simp only [pending_vault, time_vault, patch_vault, nextPatch_vault, copyA_vault, copyB_vault, update_vault, mem_vault, Vault.eta]; with_reducible refine vault_kept ?_)
    | (with_reducible refine (withKey_kept _ ?_ _).of ?_ <;> try intros)
    | with_reducible refine (State.mgmt_kept ..).of ?_
    | with_reducible refine (State.take_kept ..).of ?_
    | with_reducible refine (State.mgmtFree_kept ..).of ?_

theorem challengeAuth_kept (slot : Nat) (nonce : List Byte) (s : State) : Kept s (challengeAuth slot nonce s) := by
  unfold challengeAuth
  repeat' first
    | with_reducible rfl
    | with_reducible assumption
    | with_reducible refine ite_kept ?_ ?_
    | with_reducible refine ite_fst_kept ?_ ?_
    | dsimp only
    | (with_reducible refine kept_vault ?_; simp only [↓State.mk_vault]; simp only [pending_vault, time_vault, patch_vault, nextPatch_vault, copyA_vault, copyB_vault, update_vault, mem_vault, Vault.eta]; with_reducible refine vault_kept ?_)
    | (with_reducible refine (withKey_kept _ ?_ _).of ?_ <;> try intros)
    | with_reducible refine (State.mgmt_kept ..).of ?_
    | with_reducible refine (State.mgmtFree_kept ..).of ?_

theorem getMeasurements_kept (i : Nat) (nonce : List Byte) (s : State) : Kept s (getMeasurements i nonce s) := by
  unfold getMeasurements
  repeat' first
    | with_reducible rfl
    | with_reducible assumption
    | with_reducible refine ite_kept ?_ ?_
    | with_reducible refine ite_fst_kept ?_ ?_
    | dsimp only
    | (with_reducible refine kept_vault ?_; simp only [↓State.mk_vault]; simp only [pending_vault, time_vault, patch_vault, nextPatch_vault, copyA_vault, copyB_vault, update_vault, mem_vault, Vault.eta]; with_reducible refine vault_kept ?_)
    | (with_reducible refine (withKey_kept _ ?_ _).of ?_ <;> try intros)
    | with_reducible refine (State.mgmt_kept ..).of ?_
    | with_reducible refine (State.mgmtFree_kept ..).of ?_
    | with_reducible refine (Emit.range_kept ..).of ?_
    | split

theorem keyExchange_kept (slot : Nat) (pub : List Byte) (s : State) : Kept s (keyExchange slot pub s) := by
  unfold keyExchange
  refine withKey_kept _ ?_ _
  intro s
  refine ite_kept ?_ (State.mgmtFree_kept ..)
  have h := State.mgmt_kept s (secret 12 (s.akSeed ++ pub) 264)
  exact ⟨h.pending, h.time, h.patch, h.nextPatch, rfl, rfl, rfl, h.mem⟩

end Sys2Proof.Machine
end

