-- ==== Sys2Proof/Laws/KeptFirmware.lean ====
section
/-!
SUPPORT. The operations of Machine/Firmware keep what Kept says.
-/

set_option Elab.async false

namespace Sys2Proof.Machine

theorem handlerLow_kept (code : Nat) (c : Cmd) (s : State) : Kept s (handlerLow code c s).1 := by
  unfold handlerLow
  repeat' first
    | with_reducible rfl
    | with_reducible assumption
    | with_reducible refine ite_kept ?_ ?_
    | with_reducible refine ite_fst_kept ?_ ?_
    | dsimp only
    | (with_reducible refine kept_vault ?_; simp only [↓State.mk_vault]; simp only [pending_vault, time_vault, patch_vault, nextPatch_vault, copyA_vault, copyB_vault, update_vault, mem_vault, Vault.eta]; with_reducible refine vault_kept ?_)
    | with_reducible refine (hOpenSession_kept ..).of ?_
    | with_reducible refine (hCloseSession_kept ..).of ?_
    | with_reducible refine (hFence_kept ..).of ?_
    | with_reducible refine (hGetInfo_kept ..).of ?_
    | with_reducible refine (hNop_kept ..).of ?_
    | with_reducible refine (hRegionCreate_kept ..).of ?_
    | with_reducible refine (hRegionRemove_kept ..).of ?_
    | with_reducible refine (hRegionPerm_kept ..).of ?_
    | with_reducible refine (hRegionQuery_kept ..).of ?_
    | with_reducible refine (hRegionGrant_kept ..).of ?_
    | with_reducible refine (hImgLoad_kept ..).of ?_
    | with_reducible refine (hImgUnload_kept ..).of ?_
    | with_reducible refine (hImgQuery_kept ..).of ?_
    | with_reducible refine (hTblLoad_kept ..).of ?_
    | with_reducible refine (hPartCreate_kept ..).of ?_
    | with_reducible refine (hPartDestroy_kept ..).of ?_
    | with_reducible refine (hPartAssign_kept ..).of ?_
    | with_reducible refine (hPartConfig_kept ..).of ?_
    | with_reducible refine (hQpCreate_kept ..).of ?_
    | with_reducible refine (hQpDestroy_kept ..).of ?_
    | with_reducible refine (hQpQuery_kept ..).of ?_
    | with_reducible refine (hSeqQuery_kept ..).of ?_
    | with_reducible refine (hSeqRemove_kept ..).of ?_
    | with_reducible refine (hSeqHold_kept ..).of ?_
    | with_reducible refine (hPoolCreate_kept ..).of ?_
    | with_reducible refine (hPoolDestroy_kept ..).of ?_
    | with_reducible refine (hPageAlloc_kept ..).of ?_
    | with_reducible refine (hPageFree_kept ..).of ?_
    | with_reducible refine (hPmapCreate_kept ..).of ?_
    | with_reducible refine (hPmapDestroy_kept ..).of ?_
    | with_reducible refine (hEdit_kept ..).of ?_
    | with_reducible refine (hPmapQuery_kept ..).of ?_
    | split

theorem handlerHigh_kept (code : Nat) (c : Cmd) (s : State) : Kept s (handlerHigh code c s).1 := by
  unfold handlerHigh
  repeat' first
    | with_reducible rfl
    | with_reducible assumption
    | with_reducible refine ite_kept ?_ ?_
    | with_reducible refine ite_fst_kept ?_ ?_
    | dsimp only
    | (with_reducible refine kept_vault ?_; simp only [↓State.mk_vault]; simp only [pending_vault, time_vault, patch_vault, nextPatch_vault, copyA_vault, copyB_vault, update_vault, mem_vault, Vault.eta]; with_reducible refine vault_kept ?_)
    | with_reducible refine (hFlashLayout_kept ..).of ?_
    | with_reducible refine (hFlashQuery_kept ..).of ?_
    | with_reducible refine (hTobjCreate_kept ..).of ?_
    | with_reducible refine (hTobjLoad_kept ..).of ?_
    | with_reducible refine (hTobjFlush_kept ..).of ?_
    | with_reducible refine (hTobjEvict_kept ..).of ?_
    | with_reducible refine (hTobjDestroy_kept ..).of ?_
    | with_reducible refine (hTobjQuery_kept ..).of ?_
    | with_reducible refine (hWpkgOpen_kept ..).of ?_
    | with_reducible refine (hWpkgWrite_kept ..).of ?_
    | with_reducible refine (hWpkgCommit_kept ..).of ?_
    | with_reducible refine (hWpkgDelete_kept ..).of ?_
    | with_reducible refine (hWpkgGrant_kept ..).of ?_
    | with_reducible refine (hWwinStart_kept ..).of ?_
    | with_reducible refine (hWwinStop_kept ..).of ?_
    | with_reducible refine (hWwinQuery_kept ..).of ?_
    | with_reducible refine (hSnapSet_kept ..).of ?_
    | with_reducible refine (hSnapTake_kept ..).of ?_
    | with_reducible refine (hSnapList_kept ..).of ?_
    | with_reducible refine (hSnapRestore_kept ..).of ?_
    | with_reducible refine (hSnapDelete_kept ..).of ?_
    | with_reducible refine (hSnapExport_kept ..).of ?_
    | with_reducible refine (hSnapImport_kept ..).of ?_
    | with_reducible refine (hDomConfig_kept ..).of ?_
    | with_reducible refine (hDomLeave_kept ..).of ?_
    | with_reducible refine (hLinkQuery_kept ..).of ?_
    | with_reducible refine (hTwinConfig_kept ..).of ?_
    | with_reducible refine (hFtimeQuery_kept ..).of ?_
    | with_reducible refine (hIrsOpen_kept ..).of ?_
    | with_reducible refine (hIrsClose_kept ..).of ?_
    | with_reducible refine (hIrsQuery_kept ..).of ?_
    | with_reducible refine (hPwrTimeout_kept ..).of ?_
    | with_reducible refine (hPwrModule_kept ..).of ?_
    | with_reducible refine (hTelSubscribe_kept ..).of ?_
    | with_reducible refine (hTelRead_kept ..).of ?_
    | with_reducible refine (hSecKeySet_kept ..).of ?_
    | with_reducible refine (hSecSecure_kept ..).of ?_
    | with_reducible refine (hSecAttest_kept ..).of ?_
    | with_reducible refine (hDiagLog_kept ..).of ?_
    | with_reducible refine (hDiagSelftest_kept ..).of ?_
    | with_reducible refine (hDiagInject_kept ..).of ?_
    | split

theorem handlerOf_kept (code : Nat) (c : Cmd) (s : State) : Kept s (handlerOf code c s).1 := by
  unfold handlerOf
  repeat' first
    | with_reducible rfl
    | with_reducible assumption
    | with_reducible refine ite_kept ?_ ?_
    | with_reducible refine ite_fst_kept ?_ ?_
    | dsimp only
    | (with_reducible refine kept_vault ?_; simp only [↓State.mk_vault]; simp only [pending_vault, time_vault, patch_vault, nextPatch_vault, copyA_vault, copyB_vault, update_vault, mem_vault, Vault.eta]; with_reducible refine vault_kept ?_)
    | with_reducible refine (handlerLow_kept ..).of ?_
    | with_reducible refine (handlerHigh_kept ..).of ?_
    | split

theorem undoOf_kept (c : Cmd) (s : State) : Kept s (undoOf c s) := by
  unfold undoOf
  repeat' first
    | with_reducible rfl
    | with_reducible assumption
    | with_reducible refine ite_kept ?_ ?_
    | with_reducible refine ite_fst_kept ?_ ?_
    | dsimp only
    | (with_reducible refine kept_vault ?_; simp only [↓State.mk_vault]; simp only [pending_vault, time_vault, patch_vault, nextPatch_vault, copyA_vault, copyB_vault, update_vault, mem_vault, Vault.eta]; with_reducible refine vault_kept ?_)
    | with_reducible refine (undoTobjLoad_kept ..).of ?_
    | with_reducible refine (undoTobjFlush_kept ..).of ?_
    | with_reducible refine (undoTobjEvict_kept ..).of ?_
    | with_reducible refine (undoWpkgWrite_kept ..).of ?_
    | with_reducible refine (undoRead_kept ..).of ?_
    | with_reducible refine (State.awWrite_kept ..).of ?_
    | with_reducible refine (State.bump_kept ..).of ?_
    | with_reducible refine (undoEdit_kept ..).of ?_
    | with_reducible refine (undoPwrModule_kept ..).of ?_
    | with_reducible refine (Emit.range_kept ..).of ?_
    | split

theorem turn_kept (s : State) : Kept s (turn s) := by
  unfold turn
  repeat' first
    | with_reducible rfl
    | with_reducible assumption
    | with_reducible refine ite_kept ?_ ?_
    | with_reducible refine ite_fst_kept ?_ ?_
    | dsimp only
    | (with_reducible refine kept_vault ?_; simp only [↓State.mk_vault]; simp only [pending_vault, time_vault, patch_vault, nextPatch_vault, copyA_vault, copyB_vault, update_vault, mem_vault, Vault.eta]; with_reducible refine vault_kept ?_)
    | (with_reducible refine (State.mailboxTurn_kept _ _ _ ?_ ?_).of ?_ <;> try intros)
    | with_reducible refine (undoOf_kept ..).of ?_
    | with_reducible refine (handlerOf_kept ..).of ?_
    | with_reducible refine (State.settleLeave_kept ..).of ?_

theorem abortEntryRun_kept (m : Nat) (h : CmdHdr) (target : W64) (s : State) : Kept s (abortEntryRun m h target s) := by
  unfold abortEntryRun
  repeat' first
    | with_reducible rfl
    | with_reducible assumption
    | with_reducible refine ite_kept ?_ ?_
    | with_reducible refine ite_fst_kept ?_ ?_
    | dsimp only
    | (with_reducible refine kept_vault ?_; simp only [↓State.mk_vault]; simp only [pending_vault, time_vault, patch_vault, nextPatch_vault, copyA_vault, copyB_vault, update_vault, mem_vault, Vault.eta]; with_reducible refine vault_kept ?_)
    | (with_reducible refine (State.accept_kept _ _ _ _ ?_).of ?_ <;> try intros)
    | with_reducible refine (Emit.accept_kept ..).of ?_
    | with_reducible refine (undoOf_kept ..).of ?_
    | with_reducible refine (State.passHead_kept ..).of ?_

theorem State.sourceFails_kept (s : State) (c : Cmd) : Kept s (State.sourceFails s c) := by
  unfold State.sourceFails
  repeat' first
    | with_reducible rfl
    | with_reducible assumption
    | with_reducible refine ite_kept ?_ ?_
    | with_reducible refine ite_fst_kept ?_ ?_
    | dsimp only
    | (with_reducible refine kept_vault ?_; simp only [↓State.mk_vault]; simp only [pending_vault, time_vault, patch_vault, nextPatch_vault, copyA_vault, copyB_vault, update_vault, mem_vault, Vault.eta]; with_reducible refine vault_kept ?_)
    | with_reducible refine (undoOf_kept ..).of ?_
    | with_reducible refine (State.complete_kept ..).of ?_

theorem selftestEnds_kept (o : BgFind) (c : Cmd) (s : State) : Kept s (selftestEnds o c s) := by
  unfold selftestEnds
  repeat' first
    | with_reducible rfl
    | with_reducible assumption
    | with_reducible refine ite_kept ?_ ?_
    | with_reducible refine ite_fst_kept ?_ ?_
    | dsimp only
    | (with_reducible refine kept_vault ?_; simp only [↓State.mk_vault]; simp only [pending_vault, time_vault, patch_vault, nextPatch_vault, copyA_vault, copyB_vault, update_vault, mem_vault, Vault.eta]; with_reducible refine vault_kept ?_)
    | with_reducible refine (State.unitFails_kept ..).of ?_
    | with_reducible refine (finDiagSelftest_kept ..).of ?_
    | split

theorem finOf_kept (o : BgFind) (c : Cmd) (s : State) : Kept s (finOf o c s) := by
  unfold finOf
  repeat' first
    | with_reducible rfl
    | with_reducible assumption
    | with_reducible refine ite_kept ?_ ?_
    | with_reducible refine ite_fst_kept ?_ ?_
    | dsimp only
    | (with_reducible refine kept_vault ?_; simp only [↓State.mk_vault]; simp only [pending_vault, time_vault, patch_vault, nextPatch_vault, copyA_vault, copyB_vault, update_vault, mem_vault, Vault.eta]; with_reducible refine vault_kept ?_)
    | with_reducible refine (finImgLoad_kept ..).of ?_
    | with_reducible refine (finPartDestroy_kept ..).of ?_
    | with_reducible refine (finTobjLoad_kept ..).of ?_
    | with_reducible refine (finTobjFlush_kept ..).of ?_
    | with_reducible refine (finTobjEvict_kept ..).of ?_
    | with_reducible refine (finWpkgWrite_kept ..).of ?_
    | with_reducible refine (finWpkgCommit_kept ..).of ?_
    | with_reducible refine (State.settleBounds_kept ..).of ?_
    | with_reducible refine (finSnapExport_kept ..).of ?_
    | with_reducible refine (finSnapImport_kept ..).of ?_
    | with_reducible refine (finDomConfig_kept ..).of ?_
    | with_reducible refine (finTwinConfig_kept ..).of ?_
    | with_reducible refine (selftestEnds_kept ..).of ?_
    | split

theorem bgFinish_kept (m tag : Nat) (o : BgFind) (s : State) : Kept s (bgFinish m tag o s) := by
  unfold bgFinish
  repeat' first
    | with_reducible rfl
    | with_reducible assumption
    | with_reducible refine ite_kept ?_ ?_
    | with_reducible refine ite_fst_kept ?_ ?_
    | dsimp only
    | (with_reducible refine kept_vault ?_; simp only [↓State.mk_vault]; simp only [pending_vault, time_vault, patch_vault, nextPatch_vault, copyA_vault, copyB_vault, update_vault, mem_vault, Vault.eta]; with_reducible refine vault_kept ?_)
    | with_reducible refine (State.complete_kept ..).of ?_
    | with_reducible refine (State.sourceFails_kept ..).of ?_
    | with_reducible refine (finOf_kept ..).of ?_
    | split

theorem hostReadFail_copyFails_kept (q k : Nat) (hit : QpEntry → Bool) (s : State) : Kept s (hostReadFail.copyFails q k hit s) :=
  ite_kept ((copyDone_kept ..).of (State.updQp_kept ..)) (.refl _)

theorem hostReadFail_kept (w : HostRead) (s : State) : Kept s (hostReadFail w s) := by
  unfold hostReadFail
  repeat' first
    | with_reducible rfl
    | with_reducible refine ite_kept ?_ ?_
    | with_reducible refine (State.updMbx_kept ..).of ?_
    | with_reducible refine (State.updQp_kept ..).of ?_
    | with_reducible refine (State.sourceFails_kept ..).of ?_
    | with_reducible refine (State.complete_kept ..).of ?_
    | with_reducible refine (hostReadFail_copyFails_kept ..).of ?_
    | split

theorem wearSecond_kept (s : State) : Kept s (wearSecond s) := by
  unfold wearSecond
  repeat' first
    | with_reducible rfl
    | with_reducible assumption
    | with_reducible refine ite_kept ?_ ?_
    | with_reducible refine ite_fst_kept ?_ ?_
    | dsimp only
    | (with_reducible refine kept_vault ?_; simp only [↓State.mk_vault]; simp only [pending_vault, time_vault, patch_vault, nextPatch_vault, copyA_vault, copyB_vault, update_vault, mem_vault, Vault.eta]; with_reducible refine vault_kept ?_)
    | with_reducible refine (wearTick_kept ..).of ?_

theorem State.chargeCycle_kept (s : State) : Kept s (State.chargeCycle s) := by
  unfold State.chargeCycle
  repeat' first
    | with_reducible rfl
    | with_reducible assumption
    | with_reducible refine ite_kept ?_ ?_
    | with_reducible refine ite_fst_kept ?_ ?_
    | dsimp only
    | (with_reducible refine kept_vault ?_; simp only [↓State.mk_vault]; simp only [pending_vault, time_vault, patch_vault, nextPatch_vault, copyA_vault, copyB_vault, update_vault, mem_vault, Vault.eta]; with_reducible refine vault_kept ?_)
    | with_reducible refine (Emit.launch_kept ..).of ?_
    | with_reducible refine (State.chargeEngine_kept ..).of ?_
    | (with_reducible refine (foldl_kept ?_ _ _).of ?_ <;> try intro _ _)
    | split

theorem State.countStalls_kept (s : State) : Kept s (State.countStalls s) := by
  unfold State.countStalls
  repeat' first
    | with_reducible rfl
    | with_reducible assumption
    | with_reducible refine ite_kept ?_ ?_
    | with_reducible refine ite_fst_kept ?_ ?_
    | dsimp only
    | (with_reducible refine kept_vault ?_; simp only [↓State.mk_vault]; simp only [pending_vault, time_vault, patch_vault, nextPatch_vault, copyA_vault, copyB_vault, update_vault, mem_vault, Vault.eta]; with_reducible refine vault_kept ?_)

theorem State.noteWork_kept (s : State) : Kept s (State.noteWork s) := by
  unfold State.noteWork
  repeat' first
    | with_reducible rfl
    | with_reducible assumption
    | with_reducible refine ite_kept ?_ ?_
    | with_reducible refine ite_fst_kept ?_ ?_
    | dsimp only
    | (with_reducible refine kept_vault ?_; simp only [↓State.mk_vault]; simp only [pending_vault, time_vault, patch_vault, nextPatch_vault, copyA_vault, copyB_vault, update_vault, mem_vault, Vault.eta]; with_reducible refine vault_kept ?_)

theorem State.slowTime_kept (s : State) (before : Nat) : Kept s (State.slowTime s before) := by
  unfold State.slowTime
  repeat' first
    | with_reducible rfl
    | with_reducible assumption
    | with_reducible refine ite_kept ?_ ?_
    | with_reducible refine ite_fst_kept ?_ ?_
    | dsimp only
    | (with_reducible refine kept_vault ?_; simp only [↓State.mk_vault]; simp only [pending_vault, time_vault, patch_vault, nextPatch_vault, copyA_vault, copyB_vault, update_vault, mem_vault, Vault.eta]; with_reducible refine vault_kept ?_)

end Sys2Proof.Machine
end

