-- ==== Sys2Proof/Laws/KeptExec.lean ====
section
/-!
SUPPORT. Every command keeps what Kept says, but for the resets, the firmware updates and the supply guard. The lemmas
of those exceptions stand in Laws/Patch.
-/

set_option Elab.async false

namespace Sys2Proof.Machine

theorem execBundleIssue_kept (c : Nat) (s : State) {nx : State} (hx : execBundleIssue c s = .next nx) : Kept s nx := by
  cases hx; exact bundleIssue_kept ..

theorem execIcacheLineFill_kept (c x : Nat) (s : State) {nx : State} (hx : execIcacheLineFill c x s = .next nx) : Kept s nx := by
  cases hx; exact lineFill_kept ..

theorem execAdd_kept (c x : Nat) (h : SlotHdr) (f : ScalarF) (s : State) {nx : State} (hx : execAdd c x h f s = .next nx) : Kept s nx := by
  cases hx; exact oneSlot_kept ..

theorem execSub_kept (c x : Nat) (h : SlotHdr) (f : ScalarF) (s : State) {nx : State} (hx : execSub c x h f s = .next nx) : Kept s nx := by
  cases hx; exact oneSlot_kept ..

theorem execAnd_kept (c x : Nat) (h : SlotHdr) (f : ScalarF) (s : State) {nx : State} (hx : execAnd c x h f s = .next nx) : Kept s nx := by
  cases hx; exact oneSlot_kept ..

theorem execOr_kept (c x : Nat) (h : SlotHdr) (f : ScalarF) (s : State) {nx : State} (hx : execOr c x h f s = .next nx) : Kept s nx := by
  cases hx; exact oneSlot_kept ..

theorem execXor_kept (c x : Nat) (h : SlotHdr) (f : ScalarF) (s : State) {nx : State} (hx : execXor c x h f s = .next nx) : Kept s nx := by
  cases hx; exact oneSlot_kept ..

theorem execShl_kept (c x : Nat) (h : SlotHdr) (f : ScalarF) (s : State) {nx : State} (hx : execShl c x h f s = .next nx) : Kept s nx := by
  cases hx; exact oneSlot_kept ..

theorem execShr_kept (c x : Nat) (h : SlotHdr) (f : ScalarF) (s : State) {nx : State} (hx : execShr c x h f s = .next nx) : Kept s nx := by
  cases hx; exact oneSlot_kept ..

theorem execSra_kept (c x : Nat) (h : SlotHdr) (f : ScalarF) (s : State) {nx : State} (hx : execSra c x h f s = .next nx) : Kept s nx := by
  cases hx; exact oneSlot_kept ..

theorem execMin_kept (c x : Nat) (h : SlotHdr) (f : ScalarF) (s : State) {nx : State} (hx : execMin c x h f s = .next nx) : Kept s nx := by
  cases hx; exact oneSlot_kept ..

theorem execMax_kept (c x : Nat) (h : SlotHdr) (f : ScalarF) (s : State) {nx : State} (hx : execMax c x h f s = .next nx) : Kept s nx := by
  cases hx; exact oneSlot_kept ..

theorem execMinu_kept (c x : Nat) (h : SlotHdr) (f : ScalarF) (s : State) {nx : State} (hx : execMinu c x h f s = .next nx) : Kept s nx := by
  cases hx; exact oneSlot_kept ..

theorem execMaxu_kept (c x : Nat) (h : SlotHdr) (f : ScalarF) (s : State) {nx : State} (hx : execMaxu c x h f s = .next nx) : Kept s nx := by
  cases hx; exact oneSlot_kept ..

theorem execMul_kept (c x : Nat) (h : SlotHdr) (f : ScalarF) (s : State) {nx : State} (hx : execMul c x h f s = .next nx) : Kept s nx := by
  cases hx; exact oneSlot_kept ..

theorem execMulh_kept (c x : Nat) (h : SlotHdr) (f : ScalarF) (s : State) {nx : State} (hx : execMulh c x h f s = .next nx) : Kept s nx := by
  cases hx; exact oneSlot_kept ..

theorem execMulhu_kept (c x : Nat) (h : SlotHdr) (f : ScalarF) (s : State) {nx : State} (hx : execMulhu c x h f s = .next nx) : Kept s nx := by
  cases hx; exact oneSlot_kept ..

theorem execDiv_kept (c x : Nat) (h : SlotHdr) (f : ScalarF) (s : State) {nx : State} (hx : execDiv c x h f s = .next nx) : Kept s nx := by
  cases hx; exact oneSlot_kept ..

theorem execDivu_kept (c x : Nat) (h : SlotHdr) (f : ScalarF) (s : State) {nx : State} (hx : execDivu c x h f s = .next nx) : Kept s nx := by
  cases hx; exact oneSlot_kept ..

theorem execRem_kept (c x : Nat) (h : SlotHdr) (f : ScalarF) (s : State) {nx : State} (hx : execRem c x h f s = .next nx) : Kept s nx := by
  cases hx; exact oneSlot_kept ..

theorem execRemu_kept (c x : Nat) (h : SlotHdr) (f : ScalarF) (s : State) {nx : State} (hx : execRemu c x h f s = .next nx) : Kept s nx := by
  cases hx; exact oneSlot_kept ..

theorem execCmpEq_kept (c x : Nat) (h : SlotHdr) (f : ScalarF) (s : State) {nx : State} (hx : execCmpEq c x h f s = .next nx) : Kept s nx := by
  cases hx; exact oneSlot_kept ..

theorem execCmpNe_kept (c x : Nat) (h : SlotHdr) (f : ScalarF) (s : State) {nx : State} (hx : execCmpNe c x h f s = .next nx) : Kept s nx := by
  cases hx; exact oneSlot_kept ..

theorem execCmpLt_kept (c x : Nat) (h : SlotHdr) (f : ScalarF) (s : State) {nx : State} (hx : execCmpLt c x h f s = .next nx) : Kept s nx := by
  cases hx; exact oneSlot_kept ..

theorem execCmpLtu_kept (c x : Nat) (h : SlotHdr) (f : ScalarF) (s : State) {nx : State} (hx : execCmpLtu c x h f s = .next nx) : Kept s nx := by
  cases hx; exact oneSlot_kept ..

theorem execCmpGe_kept (c x : Nat) (h : SlotHdr) (f : ScalarF) (s : State) {nx : State} (hx : execCmpGe c x h f s = .next nx) : Kept s nx := by
  cases hx; exact oneSlot_kept ..

theorem execCmpGeu_kept (c x : Nat) (h : SlotHdr) (f : ScalarF) (s : State) {nx : State} (hx : execCmpGeu c x h f s = .next nx) : Kept s nx := by
  cases hx; exact oneSlot_kept ..

theorem execAdda_kept (c x : Nat) (h : SlotHdr) (f : ScalarF) (s : State) {nx : State} (hx : execAdda c x h f s = .next nx) : Kept s nx := by
  cases hx; exact oneSlot_kept ..

theorem execMova_kept (c x : Nat) (h : SlotHdr) (f : ScalarF) (s : State) {nx : State} (hx : execMova c x h f s = .next nx) : Kept s nx := by
  cases hx; exact oneSlot_kept ..

theorem execMovs_kept (c x : Nat) (h : SlotHdr) (f : ScalarF) (s : State) {nx : State} (hx : execMovs c x h f s = .next nx) : Kept s nx := by
  cases hx; exact oneSlot_kept ..

theorem execRdsr_kept (c x : Nat) (h : SlotHdr) (f : ScalarF) (s : State) {nx : State} (hx : execRdsr c x h f s = .next nx) : Kept s nx := by
  cases hx; exact oneSlot_kept ..

theorem execLd8_kept (c x : Nat) (h : SlotHdr) (f : ScalarF) (s : State) {nx : State} (hx : execLd8 c x h f s = .next nx) : Kept s nx := by
  cases hx; exact oneSlot_kept ..

theorem execLd16_kept (c x : Nat) (h : SlotHdr) (f : ScalarF) (s : State) {nx : State} (hx : execLd16 c x h f s = .next nx) : Kept s nx := by
  cases hx; exact oneSlot_kept ..

theorem execLd32_kept (c x : Nat) (h : SlotHdr) (f : ScalarF) (s : State) {nx : State} (hx : execLd32 c x h f s = .next nx) : Kept s nx := by
  cases hx; exact oneSlot_kept ..

theorem execLd64_kept (c x : Nat) (h : SlotHdr) (f : ScalarF) (s : State) {nx : State} (hx : execLd64 c x h f s = .next nx) : Kept s nx := by
  cases hx; exact oneSlot_kept ..

theorem execSt8_kept (c x : Nat) (h : SlotHdr) (f : ScalarF) (s : State) {nx : State} (hx : execSt8 c x h f s = .next nx) : Kept s nx := by
  cases hx; exact oneSlot_kept ..

theorem execSt16_kept (c x : Nat) (h : SlotHdr) (f : ScalarF) (s : State) {nx : State} (hx : execSt16 c x h f s = .next nx) : Kept s nx := by
  cases hx; exact oneSlot_kept ..

theorem execSt32_kept (c x : Nat) (h : SlotHdr) (f : ScalarF) (s : State) {nx : State} (hx : execSt32 c x h f s = .next nx) : Kept s nx := by
  cases hx; exact oneSlot_kept ..

theorem execSt64_kept (c x : Nat) (h : SlotHdr) (f : ScalarF) (s : State) {nx : State} (hx : execSt64 c x h f s = .next nx) : Kept s nx := by
  cases hx; exact oneSlot_kept ..

theorem execBr_kept (c x : Nat) (h : SlotHdr) (f : ScalarF) (s : State) {nx : State} (hx : execBr c x h f s = .next nx) : Kept s nx := by
  cases hx; exact oneSlot_kept ..

theorem execBrz_kept (c x : Nat) (h : SlotHdr) (f : ScalarF) (s : State) {nx : State} (hx : execBrz c x h f s = .next nx) : Kept s nx := by
  cases hx; exact oneSlot_kept ..

theorem execBrnz_kept (c x : Nat) (h : SlotHdr) (f : ScalarF) (s : State) {nx : State} (hx : execBrnz c x h f s = .next nx) : Kept s nx := by
  cases hx; exact oneSlot_kept ..

theorem execBrdec_kept (c x : Nat) (h : SlotHdr) (f : ScalarF) (s : State) {nx : State} (hx : execBrdec c x h f s = .next nx) : Kept s nx := by
  cases hx; exact oneSlot_kept ..

theorem execCall_kept (c x : Nat) (h : SlotHdr) (f : ScalarF) (s : State) {nx : State} (hx : execCall c x h f s = .next nx) : Kept s nx := by
  cases hx; exact oneSlot_kept ..

theorem execJr_kept (c x : Nat) (h : SlotHdr) (f : ScalarF) (s : State) {nx : State} (hx : execJr c x h f s = .next nx) : Kept s nx := by
  cases hx; exact oneSlot_kept ..

theorem execEndOp_kept (c x : Nat) (h : SlotHdr) (f : ScalarF) (s : State) {nx : State} (hx : execEndOp c x h f s = .next nx) : Kept s nx := by
  cases hx; exact oneSlot_kept ..

theorem execTileThreadStart_kept (c x l : Nat) (s : State) {nx : State} (hx : execTileThreadStart c x l s = .next nx) : Kept s nx := by
  cases hx; exact threadStart_kept ..

theorem execTld_kept (c x : Nat) (h : SlotHdr) (f : MoverF) (s : State) {nx : State} (hx : execTld c x h f s = .next nx) : Kept s nx := by
  cases hx; exact oneSlot_kept ..

theorem execTldz_kept (c x : Nat) (h : SlotHdr) (f : MoverF) (s : State) {nx : State} (hx : execTldz c x h f s = .next nx) : Kept s nx := by
  cases hx; exact oneSlot_kept ..

theorem execTcpy_kept (c x : Nat) (h : SlotHdr) (f : MoverF) (s : State) {nx : State} (hx : execTcpy c x h f s = .next nx) : Kept s nx := by
  cases hx; exact oneSlot_kept ..

theorem execTst_kept (c x : Nat) (h : SlotHdr) (f : MoverF) (s : State) {nx : State} (hx : execTst c x h f s = .next nx) : Kept s nx := by
  cases hx; exact oneSlot_kept ..

theorem execTstAddf_kept (c x : Nat) (h : SlotHdr) (f : MoverF) (s : State) {nx : State} (hx : execTstAddf c x h f s = .next nx) : Kept s nx := by
  cases hx; exact oneSlot_kept ..

theorem execTstAddi_kept (c x : Nat) (h : SlotHdr) (f : MoverF) (s : State) {nx : State} (hx : execTstAddi c x h f s = .next nx) : Kept s nx := by
  cases hx; exact oneSlot_kept ..

theorem execMoverOpComplete_kept (c : Nat) (st : Bool) (x : Nat) (s : State) {nx : State} (hx : execMoverOpComplete c st x s = .next nx) : Kept s nx := by
  cases hx; exact moverComplete_kept ..

theorem execMmul_kept (c x : Nat) (h : SlotHdr) (f : MatrixF) (s : State) {nx : State} (hx : execMmul c x h f s = .next nx) : Kept s nx := by
  cases hx; exact oneSlot_kept ..

theorem execMmulChunkDone_kept (c : Nat) (s : State) {nx : State} (hx : execMmulChunkDone c s = .next nx) : Kept s nx := by
  cases hx; exact mmulChunk_kept ..

theorem execMdrain_kept (c x : Nat) (h : SlotHdr) (f : MatrixF) (s : State) {nx : State} (hx : execMdrain c x h f s = .next nx) : Kept s nx := by
  cases hx; exact oneSlot_kept ..

theorem execDrainRerun_kept (c : Nat) (s : State) {nx : State} (hx : execDrainRerun c s = .next nx) : Kept s nx := by
  cases hx; exact drainRerun_kept ..

theorem execMfree_kept (c x : Nat) (h : SlotHdr) (f : MatrixF) (s : State) {nx : State} (hx : execMfree c x h f s = .next nx) : Kept s nx := by
  cases hx; exact oneSlot_kept ..

theorem execLrun_kept (c x : Nat) (h : SlotHdr) (f : MatrixF) (s : State) {nx : State} (hx : execLrun c x h f s = .next nx) : Kept s nx := by
  cases hx; exact oneSlot_kept ..

theorem execLrunExpandStart_kept (c : Nat) (s : State) {nx : State} (hx : execLrunExpandStart c s = .next nx) : Kept s nx := by
  cases hx; exact lrunStart_kept ..

theorem execLupinIteration_kept (c : Nat) (s : State) {nx : State} (hx : execLupinIteration c s = .next nx) : Kept s nx := by
  cases hx; exact lupinIterate_kept ..

theorem execLrunComplete_kept (c : Nat) (s : State) {nx : State} (hx : execLrunComplete c s = .next nx) : Kept s nx := by
  cases hx; exact lrunComplete_kept ..

theorem execVadd_kept (c x : Nat) (h : SlotHdr) (f : VectorF) (s : State) {nx : State} (hx : execVadd c x h f s = .next nx) : Kept s nx := by
  cases hx; exact oneSlot_kept ..

theorem execVsub_kept (c x : Nat) (h : SlotHdr) (f : VectorF) (s : State) {nx : State} (hx : execVsub c x h f s = .next nx) : Kept s nx := by
  cases hx; exact oneSlot_kept ..

theorem execVmul_kept (c x : Nat) (h : SlotHdr) (f : VectorF) (s : State) {nx : State} (hx : execVmul c x h f s = .next nx) : Kept s nx := by
  cases hx; exact oneSlot_kept ..

theorem execVmin_kept (c x : Nat) (h : SlotHdr) (f : VectorF) (s : State) {nx : State} (hx : execVmin c x h f s = .next nx) : Kept s nx := by
  cases hx; exact oneSlot_kept ..

theorem execVmax_kept (c x : Nat) (h : SlotHdr) (f : VectorF) (s : State) {nx : State} (hx : execVmax c x h f s = .next nx) : Kept s nx := by
  cases hx; exact oneSlot_kept ..

theorem execVfma_kept (c x : Nat) (h : SlotHdr) (f : VectorF) (s : State) {nx : State} (hx : execVfma c x h f s = .next nx) : Kept s nx := by
  cases hx; exact oneSlot_kept ..

theorem execVabs_kept (c x : Nat) (h : SlotHdr) (f : VectorF) (s : State) {nx : State} (hx : execVabs c x h f s = .next nx) : Kept s nx := by
  cases hx; exact oneSlot_kept ..

theorem execVneg_kept (c x : Nat) (h : SlotHdr) (f : VectorF) (s : State) {nx : State} (hx : execVneg c x h f s = .next nx) : Kept s nx := by
  cases hx; exact oneSlot_kept ..

theorem execVand_kept (c x : Nat) (h : SlotHdr) (f : VectorF) (s : State) {nx : State} (hx : execVand c x h f s = .next nx) : Kept s nx := by
  cases hx; exact oneSlot_kept ..

theorem execVor_kept (c x : Nat) (h : SlotHdr) (f : VectorF) (s : State) {nx : State} (hx : execVor c x h f s = .next nx) : Kept s nx := by
  cases hx; exact oneSlot_kept ..

theorem execVxor_kept (c x : Nat) (h : SlotHdr) (f : VectorF) (s : State) {nx : State} (hx : execVxor c x h f s = .next nx) : Kept s nx := by
  cases hx; exact oneSlot_kept ..

theorem execVshl_kept (c x : Nat) (h : SlotHdr) (f : VectorF) (s : State) {nx : State} (hx : execVshl c x h f s = .next nx) : Kept s nx := by
  cases hx; exact oneSlot_kept ..

theorem execVshr_kept (c x : Nat) (h : SlotHdr) (f : VectorF) (s : State) {nx : State} (hx : execVshr c x h f s = .next nx) : Kept s nx := by
  cases hx; exact oneSlot_kept ..

theorem execVsra_kept (c x : Nat) (h : SlotHdr) (f : VectorF) (s : State) {nx : State} (hx : execVsra c x h f s = .next nx) : Kept s nx := by
  cases hx; exact oneSlot_kept ..

theorem execVcmpEq_kept (c x : Nat) (h : SlotHdr) (f : VectorF) (s : State) {nx : State} (hx : execVcmpEq c x h f s = .next nx) : Kept s nx := by
  cases hx; exact oneSlot_kept ..

theorem execVcmpNe_kept (c x : Nat) (h : SlotHdr) (f : VectorF) (s : State) {nx : State} (hx : execVcmpNe c x h f s = .next nx) : Kept s nx := by
  cases hx; exact oneSlot_kept ..

theorem execVcmpLt_kept (c x : Nat) (h : SlotHdr) (f : VectorF) (s : State) {nx : State} (hx : execVcmpLt c x h f s = .next nx) : Kept s nx := by
  cases hx; exact oneSlot_kept ..

theorem execVcmpLe_kept (c x : Nat) (h : SlotHdr) (f : VectorF) (s : State) {nx : State} (hx : execVcmpLe c x h f s = .next nx) : Kept s nx := by
  cases hx; exact oneSlot_kept ..

theorem execVsel_kept (c x : Nat) (h : SlotHdr) (f : VectorF) (s : State) {nx : State} (hx : execVsel c x h f s = .next nx) : Kept s nx := by
  cases hx; exact oneSlot_kept ..

theorem execVcvt_kept (c x : Nat) (h : SlotHdr) (f : VectorF) (s : State) {nx : State} (hx : execVcvt c x h f s = .next nx) : Kept s nx := by
  cases hx; exact oneSlot_kept ..

theorem execVperm_kept (c x : Nat) (h : SlotHdr) (f : VectorF) (s : State) {nx : State} (hx : execVperm c x h f s = .next nx) : Kept s nx := by
  cases hx; exact oneSlot_kept ..

theorem execVbcast_kept (c x : Nat) (h : SlotHdr) (f : VectorF) (s : State) {nx : State} (hx : execVbcast c x h f s = .next nx) : Kept s nx := by
  cases hx; exact oneSlot_kept ..

theorem execVredAdd_kept (c x : Nat) (h : SlotHdr) (f : VectorF) (s : State) {nx : State} (hx : execVredAdd c x h f s = .next nx) : Kept s nx := by
  cases hx; exact oneSlot_kept ..

theorem execVredMax_kept (c x : Nat) (h : SlotHdr) (f : VectorF) (s : State) {nx : State} (hx : execVredMax c x h f s = .next nx) : Kept s nx := by
  cases hx; exact oneSlot_kept ..

theorem execVredMin_kept (c x : Nat) (h : SlotHdr) (f : VectorF) (s : State) {nx : State} (hx : execVredMin c x h f s = .next nx) : Kept s nx := by
  cases hx; exact oneSlot_kept ..

theorem execVld_kept (c x : Nat) (h : SlotHdr) (f : VectorF) (s : State) {nx : State} (hx : execVld c x h f s = .next nx) : Kept s nx := by
  cases hx; exact oneSlot_kept ..

theorem execVst_kept (c x : Nat) (h : SlotHdr) (f : VectorF) (s : State) {nx : State} (hx : execVst c x h f s = .next nx) : Kept s nx := by
  cases hx; exact oneSlot_kept ..

theorem execRng_kept (c x : Nat) (h : SlotHdr) (f : VectorF) (s : State) {nx : State} (hx : execRng c x h f s = .next nx) : Kept s nx := by
  cases hx; exact oneSlot_kept ..

theorem execVidx_kept (c x : Nat) (h : SlotHdr) (f : VectorF) (s : State) {nx : State} (hx : execVidx c x h f s = .next nx) : Kept s nx := by
  cases hx; exact oneSlot_kept ..

theorem execSfu_kept (c x : Nat) (h : SlotHdr) (f : SpecialF) (s : State) {nx : State} (hx : execSfu c x h f s = .next nx) : Kept s nx := by
  cases hx; exact oneSlot_kept ..

theorem execSfuGate_kept (c x : Nat) (h : SlotHdr) (f : SpecialF) (s : State) {nx : State} (hx : execSfuGate c x h f s = .next nx) : Kept s nx := by
  cases hx; exact oneSlot_kept ..

theorem execTblCommit_kept (c x : Nat) (h : SlotHdr) (f : SpecialF) (s : State) {nx : State} (hx : execTblCommit c x h f s = .next nx) : Kept s nx := by
  cases hx; exact oneSlot_kept ..

theorem execTblCheckDone_kept (c t : Nat) (s : State) {nx : State} (hx : execTblCheckDone c t s = .next nx) : Kept s nx := by
  cases hx; exact (State.tblAdvance_kept ..).of (checkDone_kept ..)

theorem execFence_kept (c x : Nat) (h : SlotHdr) (f : SyncF) (s : State) {nx : State} (hx : execFence c x h f s = .next nx) : Kept s nx := by
  cases hx; exact oneSlot_kept ..

theorem execFenceSatisfied_kept (c x : Nat) (s : State) {nx : State} (hx : execFenceSatisfied c x s = .next nx) : Kept s nx := by
  cases hx; exact fenceDone_kept ..

theorem execMwait_kept (c x : Nat) (h : SlotHdr) (f : SyncF) (s : State) {nx : State} (hx : execMwait c x h f s = .next nx) : Kept s nx := by
  cases hx; exact oneSlot_kept ..

theorem execMwaitSatisfied_kept (c x : Nat) (s : State) {nx : State} (hx : execMwaitSatisfied c x s = .next nx) : Kept s nx := by
  cases hx; exact mwaitDone_kept ..

theorem execSemSig_kept (c x : Nat) (h : SlotHdr) (f : SyncF) (s : State) {nx : State} (hx : execSemSig c x h f s = .next nx) : Kept s nx := by
  cases hx; exact oneSlot_kept ..

theorem execSemSigApply_kept (k : Nat) (s : State) {nx : State} (hx : execSemSigApply k s = .next nx) : Kept s nx := by
  cases hx; exact sigApply_kept ..

theorem execSemWait_kept (c x : Nat) (h : SlotHdr) (f : SyncF) (s : State) {nx : State} (hx : execSemWait c x h f s = .next nx) : Kept s nx := by
  cases hx; exact oneSlot_kept ..

theorem execSemWaitSatisfied_kept (c x : Nat) (s : State) {nx : State} (hx : execSemWaitSatisfied c x s = .next nx) : Kept s nx := by
  cases hx; exact semWaitDone_kept ..

theorem execSemTake_kept (c x : Nat) (h : SlotHdr) (f : SyncF) (s : State) {nx : State} (hx : execSemTake c x h f s = .next nx) : Kept s nx := by
  cases hx; exact oneSlot_kept ..

theorem execSemTakeServed_kept (die i : Nat) (s : State) {nx : State} (hx : execSemTakeServed die i s = .next nx) : Kept s nx := by
  cases hx; exact semTakeDone_kept ..

theorem execSemRd_kept (c x : Nat) (h : SlotHdr) (f : SyncF) (s : State) {nx : State} (hx : execSemRd c x h f s = .next nx) : Kept s nx := by
  cases hx; exact oneSlot_kept ..

theorem execClaim_kept (c x : Nat) (h : SlotHdr) (f : SyncF) (s : State) {nx : State} (hx : execClaim c x h f s = .next nx) : Kept s nx := by
  cases hx; exact oneSlot_kept ..

theorem execFbar_kept (c x : Nat) (h : SlotHdr) (f : SyncF) (s : State) {nx : State} (hx : execFbar c x h f s = .next nx) : Kept s nx := by
  cases hx; exact oneSlot_kept ..

theorem execMbxCtrlWrite_kept (m : Nat) (v : W64) (s : State) {nx : State} (hx : execMbxCtrlWrite m v s = .next nx) : Kept s nx := by
  cases hx; exact ctrlWrite_kept ..

theorem execMbxCmdTailWrite_kept (m : Nat) (v : W64) (s : State) {nx : State} (hx : execMbxCmdTailWrite m v s = .next nx) : Kept s nx := by
  cases hx; exact State.updMbx_kept ..

theorem execMbxCmpHeadWrite_kept (m : Nat) (v : W64) (s : State) {nx : State} (hx : execMbxCmpHeadWrite m v s = .next nx) : Kept s nx := by
  cases hx; exact State.updMbx_kept ..

theorem execCompletionPost_kept (m : Nat) (s : State) {nx : State} (hx : execCompletionPost m s = .next nx) : Kept s nx := by
  cases hx; exact State.post_kept ..

theorem execCpWatchdogExpire_kept (s : State) {nx : State} (hx : execCpWatchdogExpire s = .next nx) : Kept s nx := by
  cases hx; exact cpReset_kept ..

theorem execCpSramUncorrectable_kept (s : State) {nx : State} (hx : execCpSramUncorrectable s = .next nx) : Kept s nx := by
  cases hx; exact cpReset_kept ..

theorem execOpenSession_kept (m : Nat) (h : CmdHdr) (resp mbx img pkg snap feats : W64) (s : State) {nx : State} (hx : execOpenSession m h resp mbx img pkg snap feats s = .next nx) : Kept s nx := by
  cases hx; exact runCmd_kept _ _ _ _ _ (hOpenSession_kept) _

theorem execCloseSession_kept (m : Nat) (h : CmdHdr) (s : State) {nx : State} (hx : execCloseSession m h s = .next nx) : Kept s nx := by
  cases hx; exact runCmd_kept _ _ _ _ _ (hCloseSession_kept) _

theorem execFenceCommand_kept (m : Nat) (h : CmdHdr) (s : State) {nx : State} (hx : execFenceCommand m h s = .next nx) : Kept s nx := by
  cases hx; exact runCmd_kept _ _ _ _ _ (hFence_kept) _

theorem execGetInfo_kept (m : Nat) (h : CmdHdr) (resp : W64) (s : State) {nx : State} (hx : execGetInfo m h resp s = .next nx) : Kept s nx := by
  cases hx; exact runCmd_kept _ _ _ _ _ (hGetInfo_kept) _

theorem execNop_kept (m : Nat) (h : CmdHdr) (s : State) {nx : State} (hx : execNop m h s = .next nx) : Kept s nx := by
  cases hx; exact runCmd_kept _ _ _ _ _ (hNop_kept) _

theorem execRegionCreate_kept (m : Nat) (h : CmdHdr) (index baseg lastg flags : W64) (s : State) {nx : State} (hx : execRegionCreate m h index baseg lastg flags s = .next nx) : Kept s nx := by
  cases hx; exact runCmd_kept _ _ _ _ _ (hRegionCreate_kept) _

theorem execRegionRemove_kept (m : Nat) (h : CmdHdr) (index : W64) (s : State) {nx : State} (hx : execRegionRemove m h index s = .next nx) : Kept s nx := by
  cases hx; exact runCmd_kept _ _ _ _ _ (hRegionRemove_kept) _

theorem execRegionPerm_kept (m : Nat) (h : CmdHdr) (index flags : W64) (s : State) {nx : State} (hx : execRegionPerm m h index flags s = .next nx) : Kept s nx := by
  cases hx; exact runCmd_kept _ _ _ _ _ (hRegionPerm_kept) _

theorem execRegionQuery_kept (m : Nat) (h : CmdHdr) (index : W64) (s : State) {nx : State} (hx : execRegionQuery m h index s = .next nx) : Kept s nx := by
  cases hx; exact runCmd_kept _ _ _ _ _ (hRegionQuery_kept) _

theorem execRegionGrant_kept (m : Nat) (h : CmdHdr) (baseg lastg part enable : W64) (s : State) {nx : State} (hx : execRegionGrant m h baseg lastg part enable s = .next nx) : Kept s nx := by
  cases hx; exact runCmd_kept _ _ _ _ _ (hRegionGrant_kept) _

theorem execRegionDrainDone_kept (p i : Nat) (s : State) {nx : State} (hx : execRegionDrainDone p i s = .next nx) : Kept s nx := by
  cases hx; exact regionDrained_kept ..

theorem execHotWindowEnd_kept (die ch lines total gran : Nat) (s : State) {nx : State} (hx : execHotWindowEnd die ch lines total gran s = .next nx) : Kept s nx := by
  cases hx; exact hotWindow_kept ..

theorem execDramRowSpare_kept (die ch row : Nat) (s : State) {nx : State} (hx : execDramRowSpare die ch row s = .next nx) : Kept s nx := by
  cases hx; exact rowSpare_kept ..

theorem execDramPatrolScrub_kept (die : Nat) (e : EccFind) (s : State) {nx : State} (hx : execDramPatrolScrub die e s = .next nx) : Kept s nx := by
  cases hx; exact patrolScrub_kept ..

theorem execDramRefresh_kept (die ch : Nat) (s : State) {nx : State} (hx : execDramRefresh die ch s = .next nx) : Kept s nx := by
  cases hx; exact dramRefresh_kept ..

theorem execDramChannelPowerDown_kept (die ch : Nat) (s : State) {nx : State} (hx : execDramChannelPowerDown die ch s = .next nx) : Kept s nx := by
  cases hx; exact chanDown_kept ..

theorem execPoolCreate_kept (m : Nat) (h : CmdHdr) (pb : W64) (s : State) {nx : State} (hx : execPoolCreate m h pb s = .next nx) : Kept s nx := by
  cases hx; exact runCmd_kept _ _ _ _ _ (hPoolCreate_kept) _

theorem execPoolDestroy_kept (m : Nat) (h : CmdHdr) (pool : W64) (s : State) {nx : State} (hx : execPoolDestroy m h pool s = .next nx) : Kept s nx := by
  cases hx; exact runCmd_kept _ _ _ _ _ (hPoolDestroy_kept) _

theorem execPageAlloc_kept (m : Nat) (h : CmdHdr) (pool n out : W64) (s : State) {nx : State} (hx : execPageAlloc m h pool n out s = .next nx) : Kept s nx := by
  cases hx; exact runCmd_kept _ _ _ _ _ (hPageAlloc_kept) _

theorem execPageFree_kept (m : Nat) (h : CmdHdr) (pool n inp : W64) (s : State) {nx : State} (hx : execPageFree m h pool n inp s = .next nx) : Kept s nx := by
  cases hx; exact runCmd_kept _ _ _ _ _ (hPageFree_kept) _

theorem execPmapCreate_kept (m : Nat) (h : CmdHdr) (s : State) {nx : State} (hx : execPmapCreate m h s = .next nx) : Kept s nx := by
  cases hx; exact runCmd_kept _ _ _ _ _ (hPmapCreate_kept) _

theorem execPmapDestroy_kept (m : Nat) (h : CmdHdr) (map : W64) (s : State) {nx : State} (hx : execPmapDestroy m h map s = .next nx) : Kept s nx := by
  cases hx; exact runCmd_kept _ _ _ _ _ (hPmapDestroy_kept) _

theorem execPmapSetStream_kept (m : Nat) (h : CmdHdr) (map stream flags dirm1 coord sum : W64) (s : State) {nx : State} (hx : execPmapSetStream m h map stream flags dirm1 coord sum s = .next nx) : Kept s nx := by
  cases hx; exact runCmd_kept _ _ _ _ _ (hEdit_kept) _

theorem execPmapSetLeaf_kept (m : Nat) (h : CmdHdr) (map stream lpage0 n inp : W64) (s : State) {nx : State} (hx : execPmapSetLeaf m h map stream lpage0 n inp s = .next nx) : Kept s nx := by
  cases hx; exact runCmd_kept _ _ _ _ _ (hEdit_kept) _

theorem execPmapClear_kept (m : Nat) (h : CmdHdr) (map stream lpage0 n : W64) (s : State) {nx : State} (hx : execPmapClear m h map stream lpage0 n s = .next nx) : Kept s nx := by
  cases hx; exact runCmd_kept _ _ _ _ _ (hEdit_kept) _

theorem execPmapQuery_kept (m : Nat) (h : CmdHdr) (map : W64) (s : State) {nx : State} (hx : execPmapQuery m h map s = .next nx) : Kept s nx := by
  cases hx; exact runCmd_kept _ _ _ _ _ (hPmapQuery_kept) _

theorem execMapEditBatch_kept (m : Nat) (s : State) {nx : State} (hx : execMapEditBatch m s = .next nx) : Kept s nx := by
  cases hx; exact mapBatch_kept ..

theorem execFoxItemStart_kept (u : Nat) (s : State) {nx : State} (hx : execFoxItemStart u s = .next nx) : Kept s nx := by
  cases hx; exact foxItemStart_kept ..

theorem execMapEpochPin_kept (u : Nat) (s : State) {nx : State} (hx : execMapEpochPin u s = .next nx) : Kept s nx := by
  cases hx; exact mapEpochPin_kept ..

theorem execFoxLabFill_kept (u page : Nat) (s : State) {nx : State} (hx : execFoxLabFill u page s = .next nx) : Kept s nx := by
  cases hx; exact foxLabFill_kept ..

theorem execFoxBlockCompute_kept (u : Nat) (s : State) {nx : State} (hx : execFoxBlockCompute u s = .next nx) : Kept s nx := by
  cases hx; exact foxBlockCompute_kept ..

theorem execFoxItemComplete_kept (u : Nat) (s : State) {nx : State} (hx : execFoxItemComplete u s = .next nx) : Kept s nx := by
  cases hx; exact foxItemComplete_kept ..

theorem execPrimJobStart_kept (e : Nat) (s : State) {nx : State} (hx : execPrimJobStart e s = .next nx) : Kept s nx := by
  cases hx; exact primJobStart_kept ..

theorem execPrimJobComplete_kept (e : Nat) (s : State) {nx : State} (hx : execPrimJobComplete e s = .next nx) : Kept s nx := by
  cases hx; exact primJobComplete_kept ..

theorem execFlashRelocate_kept (blk dst : Nat) (s : State) {nx : State} (hx : execFlashRelocate blk dst s = .next nx) : Kept s nx := by
  cases hx; exact (State.updFlash_kept ..).of (State.readBlk_kept ..)

theorem execProgramFailure_kept (blk : Nat) (s : State) {nx : State} (hx : execProgramFailure blk s = .next nx) : Kept s nx := by
  cases hx; exact State.updFlash_kept ..

theorem execEraseFailure_kept (blk : Nat) (s : State) {nx : State} (hx : execEraseFailure blk s = .next nx) : Kept s nx := by
  cases hx
  exact ite_kept ((State.dieFails_kept ..).of (State.updFlash_kept ..)) (State.updFlash_kept ..)

theorem execDieFailed_kept (d : Nat) (s : State) {nx : State} (hx : execDieFailed d s = .next nx) : Kept s nx := by
  cases hx; exact State.dieFails_kept ..

theorem execDieRebuild_kept (d n : Nat) (s : State) {nx : State} (hx : execDieRebuild d n s = .next nx) : Kept s nx := by
  cases hx; exact State.updFlash_kept ..

theorem execReadCountCheck_kept (blk errs retries : Nat) (s : State) {nx : State} (hx : execReadCountCheck blk errs retries s = .next nx) : Kept s nx := by
  cases hx; exact ite_kept ((State.addRisk_kept ..).of ((State.updFlash_kept ..).of (State.readBlk_kept ..))) (.refl _)

theorem execRetentionScrub_kept (blk errs retries : Nat) (s : State) {nx : State} (hx : execRetentionScrub blk errs retries s = .next nx) : Kept s nx := by
  cases hx; exact ite_kept ((State.addRisk_kept ..).of ((State.updFlash_kept ..).of (State.readBlk_kept ..))) (.refl _)

theorem execStaticWearLevel_kept (g q : Nat) (s : State) {nx : State} (hx : execStaticWearLevel g q s = .next nx) : Kept s nx := by
  cases hx; exact State.updFlash_kept ..

theorem execGarbageCollection_kept (g q : Nat) (s : State) {nx : State} (hx : execGarbageCollection g q s = .next nx) : Kept s nx := by
  cases hx; exact State.updFlash_kept ..

theorem execFlashChannelPowerDown_kept (ch : Nat) (s : State) {nx : State} (hx : execFlashChannelPowerDown ch s = .next nx) : Kept s nx := by
  cases hx; exact State.updFlash_kept ..

theorem execFlashLayout_kept (m : Nat) (h : CmdHdr) (wsize : W64) (s : State) {nx : State} (hx : execFlashLayout m h wsize s = .next nx) : Kept s nx := by
  cases hx; exact runCmd_kept _ _ _ _ _ (hFlashLayout_kept) _

theorem execFlashQuery_kept (m : Nat) (h : CmdHdr) (resp : W64) (s : State) {nx : State} (hx : execFlashQuery m h resp s = .next nx) : Kept s nx := by
  cases hx; exact runCmd_kept _ _ _ _ _ (hFlashQuery_kept) _

theorem execTobjCreate_kept (m : Nat) (h : CmdHdr) (sizeg : W64) (s : State) {nx : State} (hx : execTobjCreate m h sizeg s = .next nx) : Kept s nx := by
  cases hx; exact runCmd_kept _ _ _ _ _ (hTobjCreate_kept) _

theorem execTobjLoad_kept (m : Nat) (h : CmdHdr) (id index baseg flags : W64) (s : State) {nx : State} (hx : execTobjLoad m h id index baseg flags s = .next nx) : Kept s nx := by
  cases hx; exact runCmd_kept _ _ _ _ _ (hTobjLoad_kept) _

theorem execTobjFlush_kept (m : Nat) (h : CmdHdr) (id : W64) (s : State) {nx : State} (hx : execTobjFlush m h id s = .next nx) : Kept s nx := by
  cases hx; exact runCmd_kept _ _ _ _ _ (hTobjFlush_kept) _

theorem execTobjEvict_kept (m : Nat) (h : CmdHdr) (id : W64) (s : State) {nx : State} (hx : execTobjEvict m h id s = .next nx) : Kept s nx := by
  cases hx; exact runCmd_kept _ _ _ _ _ (hTobjEvict_kept) _

theorem execTobjDestroy_kept (m : Nat) (h : CmdHdr) (id : W64) (s : State) {nx : State} (hx : execTobjDestroy m h id s = .next nx) : Kept s nx := by
  cases hx; exact runCmd_kept _ _ _ _ _ (hTobjDestroy_kept) _

theorem execTobjQuery_kept (m : Nat) (h : CmdHdr) (id : W64) (s : State) {nx : State} (hx : execTobjQuery m h id s = .next nx) : Kept s nx := by
  cases hx; exact runCmd_kept _ _ _ _ _ (hTobjQuery_kept) _

theorem execWpkgOpen_kept (m : Nat) (h : CmdHdr) (total : W64) (s : State) {nx : State} (hx : execWpkgOpen m h total s = .next nx) : Kept s nx := by
  cases hx; exact runCmd_kept _ _ _ _ _ (hWpkgOpen_kept) _

theorem execWpkgWrite_kept (m : Nat) (h : CmdHdr) (handle offset len src : W64) (s : State) {nx : State} (hx : execWpkgWrite m h handle offset len src s = .next nx) : Kept s nx := by
  cases hx; exact runCmd_kept _ _ _ _ _ (hWpkgWrite_kept) _

theorem execWpkgCommit_kept (m : Nat) (h : CmdHdr) (handle : W64) (s : State) {nx : State} (hx : execWpkgCommit m h handle s = .next nx) : Kept s nx := by
  cases hx; exact runCmd_kept _ _ _ _ _ (hWpkgCommit_kept) _

theorem execWpkgDelete_kept (m : Nat) (h : CmdHdr) (handle : W64) (s : State) {nx : State} (hx : execWpkgDelete m h handle s = .next nx) : Kept s nx := by
  cases hx; exact runCmd_kept _ _ _ _ _ (hWpkgDelete_kept) _

theorem execWpkgGrant_kept (m : Nat) (h : CmdHdr) (handle part enable : W64) (s : State) {nx : State} (hx : execWpkgGrant m h handle part enable s = .next nx) : Kept s nx := by
  cases hx; exact runCmd_kept _ _ _ _ _ (hWpkgGrant_kept) _

theorem execWwinStart_kept (m : Nat) (h : CmdHdr) (win desc : W64) (s : State) {nx : State} (hx : execWwinStart m h win desc s = .next nx) : Kept s nx := by
  cases hx; exact runCmd_kept _ _ _ _ _ (hWwinStart_kept) _

theorem execWwinStop_kept (m : Nat) (h : CmdHdr) (win : W64) (s : State) {nx : State} (hx : execWwinStop m h win s = .next nx) : Kept s nx := by
  cases hx; exact runCmd_kept _ _ _ _ _ (hWwinStop_kept) _

theorem execWwinQuery_kept (m : Nat) (h : CmdHdr) (win resp : W64) (s : State) {nx : State} (hx : execWwinQuery m h win resp s = .next nx) : Kept s nx := by
  cases hx; exact runCmd_kept _ _ _ _ _ (hWwinQuery_kept) _

theorem execWwPositionRead_kept (w : Nat) (s : State) {nx : State} (hx : execWwPositionRead w s = .next nx) : Kept s nx := by
  cases hx; exact wwPositionRead_kept ..

theorem execTableSwitch_kept (c t : Nat) (s : State) {nx : State} (hx : execTableSwitch c t s = .next nx) : Kept s nx := by
  cases hx
  repeat' first
    | with_reducible rfl
    | with_reducible assumption
    | with_reducible refine ite_kept ?_ ?_
    | with_reducible refine (tableSwitch_kept ..).of ?_
    | with_reducible refine (State.tblAdvance_kept ..).of ?_

theorem execImgLoad_kept (m : Nat) (h : CmdHdr) (src len index : W64) (s : State) {nx : State} (hx : execImgLoad m h src len index s = .next nx) : Kept s nx := by
  cases hx; exact runCmd_kept _ _ _ _ _ (hImgLoad_kept) _

theorem execImgUnload_kept (m : Nat) (h : CmdHdr) (handle : W64) (s : State) {nx : State} (hx : execImgUnload m h handle s = .next nx) : Kept s nx := by
  cases hx; exact runCmd_kept _ _ _ _ _ (hImgUnload_kept) _

theorem execImgQuery_kept (m : Nat) (h : CmdHdr) (handle resp : W64) (s : State) {nx : State} (hx : execImgQuery m h handle resp s = .next nx) : Kept s nx := by
  cases hx; exact runCmd_kept _ _ _ _ _ (hImgQuery_kept) _

theorem execTblLoad_kept (m : Nat) (h : CmdHdr) (tid src : W64) (s : State) {nx : State} (hx : execTblLoad m h tid src s = .next nx) : Kept s nx := by
  cases hx; exact runCmd_kept _ _ _ _ _ (hTblLoad_kept) _

theorem execPartCreate_kept (m : Nat) (h : CmdHdr) (part pb : W64) (s : State) {nx : State} (hx : execPartCreate m h part pb s = .next nx) : Kept s nx := by
  cases hx; exact runCmd_kept _ _ _ _ _ (hPartCreate_kept) _

theorem execPartDestroy_kept (m : Nat) (h : CmdHdr) (part : W64) (s : State) {nx : State} (hx : execPartDestroy m h part s = .next nx) : Kept s nx := by
  cases hx; exact runCmd_kept _ _ _ _ _ (hPartDestroy_kept) _

theorem execPartAssign_kept (m : Nat) (h : CmdHdr) (part pb : W64) (s : State) {nx : State} (hx : execPartAssign m h part pb s = .next nx) : Kept s nx := by
  cases hx; exact runCmd_kept _ _ _ _ _ (hPartAssign_kept) _

theorem execPartConfig_kept (m : Nat) (h : CmdHdr) (part pb : W64) (s : State) {nx : State} (hx : execPartConfig m h part pb s = .next nx) : Kept s nx := by
  cases hx; exact runCmd_kept _ _ _ _ _ (hPartConfig_kept) _

theorem execQpCreate_kept (m : Nat) (h : CmdHdr) (qp pb : W64) (s : State) {nx : State} (hx : execQpCreate m h qp pb s = .next nx) : Kept s nx := by
  cases hx; exact runCmd_kept _ _ _ _ _ (hQpCreate_kept) _

theorem execQpQuery_kept (m : Nat) (h : CmdHdr) (qp resp : W64) (s : State) {nx : State} (hx : execQpQuery m h qp resp s = .next nx) : Kept s nx := by
  cases hx; exact runCmd_kept _ _ _ _ _ (hQpQuery_kept) _

theorem execQeDoorbellWrite_kept (p : Nat) (v : W64) (s : State) {nx : State} (hx : execQeDoorbellWrite p v s = .next nx) : Kept s nx := by
  cases hx; exact doorbell_kept ..

theorem execCopy_kept (q : Nat) (s : State) {nx : State} (hx : execCopy q s = .next nx) : Kept s nx := by
  cases hx; exact copyStart_kept ..

theorem execCopyDone_kept (q k : Nat) (s : State) {nx : State} (hx : execCopyDone q k s = .next nx) : Kept s nx := by
  cases hx; exact copyDone_kept ..

theorem execAddSeq_kept (q : Nat) (s : State) {nx : State} (hx : execAddSeq q s = .next nx) : Kept s nx := by
  cases hx; exact addSeqHold_kept ..

theorem execFenceEntry_kept (q : Nat) (s : State) {nx : State} (hx : execFenceEntry q s = .next nx) : Kept s nx := by
  cases hx; exact fenceTake_kept ..

theorem execFenceEntryComplete_kept (q : Nat) (s : State) {nx : State} (hx : execFenceEntryComplete q s = .next nx) : Kept s nx := by
  cases hx; exact fenceComplete_kept ..

theorem execQpCompletionPost_kept (q : Nat) (s : State) {nx : State} (hx : execQpCompletionPost q s = .next nx) : Kept s nx := by
  cases hx; exact qpPost_kept ..

theorem execRegulatorRefill_kept (s : State) {nx : State} (hx : execRegulatorRefill s = .next nx) : Kept s nx := by
  cases hx; exact refillAll_kept ..

theorem execUnlistedEntryType_kept (q : Nat) (s : State) {nx : State} (hx : execUnlistedEntryType q s = .next nx) : Kept s nx := by
  cases hx; exact unlistedEntry_kept ..

theorem execQpDestroy_kept (m : Nat) (h : CmdHdr) (qp : W64) (s : State) {nx : State} (hx : execQpDestroy m h qp s = .next nx) : Kept s nx := by
  cases hx; exact runCmd_kept _ _ _ _ _ (hQpDestroy_kept) _

theorem execLaunch_kept (q : Nat) (s : State) {nx : State} (hx : execLaunch q s = .next nx) : Kept s nx := by
  cases hx; exact launchTake_kept ..

theorem execEngineDispatch_kept (k : EngineKind) (n : Nat) (s : State) {nx : State} (hx : execEngineDispatch k n s = .next nx) : Kept s nx := by
  cases hx; exact engineDispatch_kept ..

theorem execLaunchStart_kept (l : Nat) (s : State) {nx : State} (hx : execLaunchStart l s = .next nx) : Kept s nx := by
  cases hx; exact launchStart_kept ..

theorem execPreempt_kept (c l : Nat) (s : State) {nx : State} (hx : execPreempt c l s = .next nx) : Kept s nx := by
  cases hx; exact preempt_kept ..

theorem execPreemptSaveDone_kept (c : Nat) (s : State) {nx : State} (hx : execPreemptSaveDone c s = .next nx) : Kept s nx := by
  cases hx; exact preemptSaveDone_kept ..

theorem execPreemptRestore_kept (c : Nat) (s : State) {nx : State} (hx : execPreemptRestore c s = .next nx) : Kept s nx := by
  cases hx; exact preemptRestore_kept ..

theorem execSemHoldRevoke_kept (die i : Nat) (s : State) {nx : State} (hx : execSemHoldRevoke die i s = .next nx) : Kept s nx := by
  cases hx; exact holdRevoke_kept ..

theorem execSnapSet_kept (m : Nat) (h : CmdHdr) (pb : W64) (s : State) {nx : State} (hx : execSnapSet m h pb s = .next nx) : Kept s nx := by
  cases hx; exact runCmd_kept _ _ _ _ _ (hSnapSet_kept) _

theorem execSnapTake_kept (m : Nat) (h : CmdHdr) (s : State) {nx : State} (hx : execSnapTake m h s = .next nx) : Kept s nx := by
  cases hx; exact runCmd_kept _ _ _ _ _ (hSnapTake_kept) _

theorem execSnapList_kept (m : Nat) (h : CmdHdr) (resp after : W64) (s : State) {nx : State} (hx : execSnapList m h resp after s = .next nx) : Kept s nx := by
  cases hx; exact runCmd_kept _ _ _ _ _ (hSnapList_kept) _

theorem execSnapRestore_kept (m : Nat) (h : CmdHdr) (id : W64) (s : State) {nx : State} (hx : execSnapRestore m h id s = .next nx) : Kept s nx := by
  cases hx; exact runCmd_kept _ _ _ _ _ (hSnapRestore_kept) _

theorem execSnapDelete_kept (m : Nat) (h : CmdHdr) (id : W64) (s : State) {nx : State} (hx : execSnapDelete m h id s = .next nx) : Kept s nx := by
  cases hx; exact runCmd_kept _ _ _ _ _ (hSnapDelete_kept) _

theorem execSnapExport_kept (m : Nat) (h : CmdHdr) (id dst len : W64) (s : State) {nx : State} (hx : execSnapExport m h id dst len s = .next nx) : Kept s nx := by
  cases hx; exact runCmd_kept _ _ _ _ _ (hSnapExport_kept) _

theorem execSnapImport_kept (m : Nat) (h : CmdHdr) (src len : W64) (s : State) {nx : State} (hx : execSnapImport m h src len s = .next nx) : Kept s nx := by
  cases hx; exact runCmd_kept _ _ _ _ _ (hSnapImport_kept) _

theorem execShadowCopyBlock_kept (p : Nat) (s : State) {nx : State} (hx : execShadowCopyBlock p s = .next nx) : Kept s nx := by
  cases hx; exact shadowCopy_kept ..

theorem execFlashSnapshotWrite_kept (p : Nat) (s : State) {nx : State} (hx : execFlashSnapshotWrite p s = .next nx) : Kept s nx := by
  cases hx; exact flashSnapWrite_kept ..

theorem execSeqQuery_kept (m : Nat) (h : CmdHdr) (entry resp : W64) (s : State) {nx : State} (hx : execSeqQuery m h entry resp s = .next nx) : Kept s nx := by
  cases hx; exact runCmd_kept _ _ _ _ _ (hSeqQuery_kept) _

theorem execSeqRemove_kept (m : Nat) (h : CmdHdr) (entry : W64) (s : State) {nx : State} (hx : execSeqRemove m h entry s = .next nx) : Kept s nx := by
  cases hx; exact runCmd_kept _ _ _ _ _ (hSeqRemove_kept) _

theorem execSeqHold_kept (m : Nat) (h : CmdHdr) (entry hold : W64) (s : State) {nx : State} (hx : execSeqHold m h entry hold s = .next nx) : Kept s nx := by
  cases hx; exact runCmd_kept _ _ _ _ _ (hSeqHold_kept) _

theorem execStep_kept (q : Nat) (s : State) {nx : State} (hx : execStep q s = .next nx) : Kept s nx := by
  cases hx; exact stepTake_kept ..

theorem execStepTick_kept (p : Nat) (s : State) {nx : State} (hx : execStepTick p s = .next nx) : Kept s nx := by
  cases hx; exact stepTick_kept ..

theorem execStepBoundary_kept (p : Nat) (s : State) {nx : State} (hx : execStepBoundary p s = .next nx) : Kept s nx := by
  cases hx; exact stepBoundary_kept ..

theorem execStepBarrierOpen_kept (p : Nat) (xor : W64) (due : Bool) (n : Nat) (s : State) {nx : State} (hx : execStepBarrierOpen p xor due n s = .next nx) : Kept s nx := by
  cases hx; exact stepBarrierOpen_kept ..

theorem execStepDigestExchange_kept (p : Nat) (peer : W64) (other due : Bool) (n risk : Nat) (s : State) {nx : State} (hx : execStepDigestExchange p peer other due n risk s = .next nx) : Kept s nx := by
  cases hx; exact digestExchange_kept ..

theorem execStepReplay_kept (p : Nat) (s : State) {nx : State} (hx : execStepReplay p s = .next nx) : Kept s nx := by
  cases hx; exact stepReplay_kept ..

theorem execReplayNotice_kept (p n : Nat) (s : State) {nx : State} (hx : execReplayNotice p n s = .next nx) : Kept s nx := by
  cases hx; exact replayNotice_kept ..

theorem execLaunchComplete_kept (l : Nat) (s : State) {nx : State} (hx : execLaunchComplete l s = .next nx) : Kept s nx := by
  cases hx; exact launchComplete_kept ..

theorem execDomConfig_kept (m : Nat) (h : CmdHdr) (pb : W64) (s : State) {nx : State} (hx : execDomConfig m h pb s = .next nx) : Kept s nx := by
  cases hx; exact runCmd_kept _ _ _ _ _ (hDomConfig_kept) _

theorem execDomLeave_kept (m : Nat) (h : CmdHdr) (s : State) {nx : State} (hx : execDomLeave m h s = .next nx) : Kept s nx := by
  cases hx; exact runCmd_kept _ _ _ _ _ (hDomLeave_kept) _

theorem execLinkQuery_kept (m : Nat) (h : CmdHdr) (port resp : W64) (s : State) {nx : State} (hx : execLinkQuery m h port resp s = .next nx) : Kept s nx := by
  cases hx; exact runCmd_kept _ _ _ _ _ (hLinkQuery_kept) _

theorem execTwinConfig_kept (m : Nat) (h : CmdHdr) (pb : W64) (s : State) {nx : State} (hx : execTwinConfig m h pb s = .next nx) : Kept s nx := by
  cases hx; exact runCmd_kept _ _ _ _ _ (hTwinConfig_kept) _

theorem execFtimeQuery_kept (m : Nat) (h : CmdHdr) (s : State) {nx : State} (hx : execFtimeQuery m h s = .next nx) : Kept s nx := by
  cases hx; exact runCmd_kept _ _ _ _ _ (hFtimeQuery_kept) _

theorem execFlitReceive_kept (k : Nat) (f : Flit) (s : State) {nx : State} (hx : execFlitReceive k f s = .next nx) : Kept s nx := by
  cases hx; exact flitReceive_kept ..

theorem execFlitReplayTimeout_kept (k : Nat) (s : State) {nx : State} (hx : execFlitReplayTimeout k s = .next nx) : Kept s nx := by
  cases hx; exact flitTimeout_kept ..

theorem execAckTimer_kept (k : Nat) (s : State) {nx : State} (hx : execAckTimer k s = .next nx) : Kept s nx := by
  cases hx; exact ackTimer_kept ..

theorem execPortRetrain_kept (k : Nat) (fec failed : Bool) (s : State) {nx : State} (hx : execPortRetrain k fec failed s = .next nx) : Kept s nx := by
  cases hx; exact portRetrain_kept ..

theorem execPortTrainingDone_kept (k : Nat) (t : TrainInfo) (s : State) {nx : State} (hx : execPortTrainingDone k t s = .next nx) : Kept s nx := by
  cases hx; exact portTrained_kept ..

theorem execSyncFlit_kept (k : Nat) (t : W64) (s : State) {nx : State} (hx : execSyncFlit k t s = .next nx) : Kept s nx := by
  cases hx; exact syncFlit_kept ..

theorem execBarrierOpen_kept (p i : Nat) (remote : Bool) (s : State) {nx : State} (hx : execBarrierOpen p i remote s = .next nx) : Kept s nx := by
  cases hx; exact barrierOpen_kept ..

theorem execFabBarCfgWrite_kept (p die b : Nat) (v : W64) (s : State) {nx : State} (hx : execFabBarCfgWrite p die b v s = .next nx) : Kept s nx := by
  cases hx; exact barCfg_kept ..

theorem execFabCqCfgWrite_kept (p die q : Nat) (v : W64) (s : State) {nx : State} (hx : execFabCqCfgWrite p die q v s = .next nx) : Kept s nx := by
  cases hx; exact cqCfg_kept ..

theorem execTwinHeartbeat_kept (s : State) {nx : State} (hx : execTwinHeartbeat s = .next nx) : Kept s nx := by
  cases hx; exact twinHeartbeat_kept ..

theorem execTwinHeartbeatTimeout_kept (s : State) {nx : State} (hx : execTwinHeartbeatTimeout s = .next nx) : Kept s nx := by
  cases hx; exact State.twinLost_kept ..

theorem execTwinWaitTimeout_kept (p : Nat) (s : State) {nx : State} (hx : execTwinWaitTimeout p s = .next nx) : Kept s nx := by
  cases hx; exact twinWait_kept ..

theorem execTwinReplayNotice_kept (s : State) {nx : State} (hx : execTwinReplayNotice s = .next nx) : Kept s nx := by
  cases hx; exact State.twinLost_kept ..

theorem execAdmissionCountReceive_kept (p : Nat) (ns : List (Nat × Nat)) (s : State) {nx : State} (hx : execAdmissionCountReceive p ns s = .next nx) : Kept s nx := by
  cases hx; exact admissionCounts_kept ..

theorem execCollectiveStart_kept (p die q : Nat) (s : State) {nx : State} (hx : execCollectiveStart p die q s = .next nx) : Kept s nx := by
  cases hx; exact collStart_kept ..

theorem execChunkReceive_kept (p die q : Nat) (ch : Chunk) (s : State) {nx : State} (hx : execChunkReceive p die q ch s = .next nx) : Kept s nx := by
  cases hx; exact chunkReceive_kept ..

theorem execCollAbortReceive_kept (p die q peer : Nat) (s : State) {nx : State} (hx : execCollAbortReceive p die q peer s = .next nx) : Kept s nx := by
  cases hx; exact collAbort_kept ..

theorem execCollectiveComplete_kept (p die q : Nat) (s : State) {nx : State} (hx : execCollectiveComplete p die q s = .next nx) : Kept s nx := by
  cases hx; exact collComplete_kept ..

theorem execForwardDrain_kept (k : Nat) (s : State) {nx : State} (hx : execForwardDrain k s = .next nx) : Kept s nx := by
  cases hx; exact forwardDrain_kept ..

theorem execDrainStart_kept (c : Nat) (s : State) {nx : State} (hx : execDrainStart c s = .next nx) : Kept s nx := by
  cases hx; exact drainStart_kept ..

theorem execDrainWritten_kept (c : Nat) (s : State) {nx : State} (hx : execDrainWritten c s = .next nx) : Kept s nx := by
  cases hx; exact drainWrittenForward_kept ..

theorem execWwLayerReady_kept (w : Nat) (s : State) {nx : State} (hx : execWwLayerReady w s = .next nx) : Kept s nx := by
  cases hx; exact layerReady_kept ..

theorem execWwRungReady_kept (w : Nat) (s : State) {nx : State} (hx : execWwRungReady w s = .next nx) : Kept s nx := by
  cases hx; exact rungReady_kept ..

theorem execFlashDecodeResult_kept (k : Nat) (r : CodewordFind) (s : State) {nx : State} (hx : execFlashDecodeResult k r s = .next nx) : Kept s nx := by
  cases hx; exact flashDecode_kept ..

theorem execAuditRunStart_kept (l u : Nat) (s : State) {nx : State} (hx : execAuditRunStart l u s = .next nx) : Kept s nx := by
  cases hx; exact auditStart_kept ..

theorem execAuditRunComplete_kept (l u : Nat) (first audit third : W64) (s : State) {nx : State} (hx : execAuditRunComplete l u first audit third s = .next nx) : Kept s nx := by
  cases hx; exact auditComplete_kept ..

theorem execTileReplay_kept (l n x : Nat) (s : State) {nx : State} (hx : execTileReplay l n x s = .next nx) : Kept s nx := by
  cases hx; exact tileReplay_kept ..

theorem execPoisonReport_kept (p addr : Nat) (s : State) {nx : State} (hx : execPoisonReport p addr s = .next nx) : Kept s nx := by
  cases hx; exact poisonReport_kept ..

theorem execWeightRefetchTwin_kept (w : Nat) (image : List Byte) (s : State) {nx : State} (hx : execWeightRefetchTwin w image s = .next nx) : Kept s nx := by
  cases hx; exact weightRefetch_kept ..

theorem execSramUncorrectable_kept (k : UnitKind) (n : Nat) (s : State) {nx : State} (hx : execSramUncorrectable k n s = .next nx) : Kept s nx := by
  cases hx; exact sramUncorrectable_kept ..

theorem execSramCorrected_kept (k : UnitKind) (n : Nat) (s : State) {nx : State} (hx : execSramCorrected k n s = .next nx) : Kept s nx := by
  cases hx; exact sramCorrected_kept ..

theorem execCoreWatchdogExpire_kept (c : Nat) (s : State) {nx : State} (hx : execCoreWatchdogExpire c s = .next nx) : Kept s nx := by
  cases hx; exact coreWatchdog_kept ..

theorem execPrimJobWatchdog_kept (e : Nat) (s : State) {nx : State} (hx : execPrimJobWatchdog e s = .next nx) : Kept s nx := by
  cases hx; exact primWatchdog_kept ..

theorem execUnitCheckFailure_kept (k : UnitKind) (n : Nat) (s : State) {nx : State} (hx : execUnitCheckFailure k n s = .next nx) : Kept s nx := by
  cases hx; exact unitCheck_kept ..

theorem execQuarantine_kept (k : UnitKind) (n : Nat) (s : State) {nx : State} (hx : execQuarantine k n s = .next nx) : Kept s nx := by
  cases hx; exact quarantine_kept ..

theorem execModuleFailure_kept (s : State) {nx : State} (hx : execModuleFailure s = .next nx) : Kept s nx := by
  cases hx; exact moduleFailure_kept ..

theorem execRiskUpdate_kept (t vin pin : Nat) (s : State) {nx : State} (hx : execRiskUpdate t vin pin s = .next nx) : Kept s nx := by
  cases hx; exact riskUpdate_kept ..

theorem execRiskDecay_kept (s : State) {nx : State} (hx : execRiskDecay s = .next nx) : Kept s nx := by
  cases hx; exact riskDecay_kept ..

theorem execIrsOpen_kept (m : Nat) (h : CmdHdr) (pb : W64) (s : State) {nx : State} (hx : execIrsOpen m h pb s = .next nx) : Kept s nx := by
  cases hx; exact runCmd_kept _ _ _ _ _ (hIrsOpen_kept) _

theorem execIrsClose_kept (m : Nat) (h : CmdHdr) (session : W64) (s : State) {nx : State} (hx : execIrsClose m h session s = .next nx) : Kept s nx := by
  cases hx; exact runCmd_kept _ _ _ _ _ (hIrsClose_kept) _

theorem execIrsQuery_kept (m : Nat) (h : CmdHdr) (session resp : W64) (s : State) {nx : State} (hx : execIrsQuery m h session resp s = .next nx) : Kept s nx := by
  cases hx; exact runCmd_kept _ _ _ _ _ (hIrsQuery_kept) _

theorem execIrisDescriptorStart_kept (k : Nat) (s : State) {nx : State} (hx : execIrisDescriptorStart k s = .next nx) : Kept s nx := by
  cases hx; exact irisStart_kept ..

theorem execIrisRowDone_kept (k : Nat) (s : State) {nx : State} (hx : execIrisRowDone k s = .next nx) : Kept s nx := by
  cases hx; exact irisRow_kept ..

theorem execIrisSliceEmit_kept (k : Nat) (s : State) {nx : State} (hx : execIrisSliceEmit k s = .next nx) : Kept s nx := by
  cases hx; exact irisSlice_kept ..

theorem execIrisPictureDone_kept (k : Nat) (s : State) {nx : State} (hx : execIrisPictureDone k s = .next nx) : Kept s nx := by
  cases hx; exact irisDone_kept ..

theorem execIrisPictureRepeat_kept (k : Nat) (s : State) {nx : State} (hx : execIrisPictureRepeat k s = .next nx) : Kept s nx := by
  cases hx; exact irisRepeat_kept ..

theorem execTelSubscribe_kept (m : Nat) (h : CmdHdr) (mask : W64) (s : State) {nx : State} (hx : execTelSubscribe m h mask s = .next nx) : Kept s nx := by
  cases hx; exact runCmd_kept _ _ _ _ _ (hTelSubscribe_kept) _

theorem execTelRead_kept (m : Nat) (h : CmdHdr) (resp : W64) (s : State) {nx : State} (hx : execTelRead m h resp s = .next nx) : Kept s nx := by
  cases hx; exact runCmd_kept _ _ _ _ _ (hTelRead_kept) _

theorem execSecKeySet_kept (m : Nat) (h : CmdHdr) (part key : W64) (s : State) {nx : State} (hx : execSecKeySet m h part key s = .next nx) : Kept s nx := by
  cases hx; exact runCmd_kept _ _ _ _ _ (hSecKeySet_kept) _

theorem execSecSecure_kept (m : Nat) (h : CmdHdr) (part enable : W64) (s : State) {nx : State} (hx : execSecSecure m h part enable s = .next nx) : Kept s nx := by
  cases hx; exact runCmd_kept _ _ _ _ _ (hSecSecure_kept) _

theorem execSecAttest_kept (m : Nat) (h : CmdHdr) (nonce resp : W64) (s : State) {nx : State} (hx : execSecAttest m h nonce resp s = .next nx) : Kept s nx := by
  cases hx; exact runCmd_kept _ _ _ _ _ (hSecAttest_kept) _

theorem execDiagLog_kept (m : Nat) (h : CmdHdr) (resp start : W64) (s : State) {nx : State} (hx : execDiagLog m h resp start s = .next nx) : Kept s nx := by
  cases hx; exact runCmd_kept _ _ _ _ _ (hDiagLog_kept) _

theorem execDiagSelftest_kept (m : Nat) (h : CmdHdr) (unit : W64) (s : State) {nx : State} (hx : execDiagSelftest m h unit s = .next nx) : Kept s nx := by
  cases hx; exact runCmd_kept _ _ _ _ _ (hDiagSelftest_kept) _

theorem execDiagInject_kept (m : Nat) (h : CmdHdr) (pb : W64) (s : State) {nx : State} (hx : execDiagInject m h pb s = .next nx) : Kept s nx := by
  cases hx; exact runCmd_kept _ _ _ _ _ (hDiagInject_kept) _

theorem execFlr_kept (p : Nat) (s : State) {nx : State} (hx : execFlr p s = .next nx) : Kept s nx := by
  cases hx; exact flr_kept ..

theorem execPerstAssert_kept (s : State) {nx : State} (hx : execPerstAssert s = .next nx) : Kept s nx := by
  cases hx; exact perstAssert_kept ..

theorem execPerstDeassert_kept (s : State) {nx : State} (hx : execPerstDeassert s = .next nx) : Kept s nx := by
  cases hx; exact perstDeassert_kept ..

theorem execPcieLinkDown_kept (s : State) {nx : State} (hx : execPcieLinkDown s = .next nx) : Kept s nx := by
  cases hx; exact linkDown_kept ..

theorem execPcieLinkUp_kept (s : State) {nx : State} (hx : execPcieLinkUp s = .next nx) : Kept s nx := by
  cases hx; exact linkUp_kept ..

theorem execBar4Read_kept (p off n : Nat) (s : State) {nx : State} (hx : execBar4Read p off n s = .next nx) : Kept s nx := by
  cases hx; exact bar4Read_kept ..

theorem execBar4Write_kept (p off : Nat) (bs : List Byte) (s : State) {nx : State} (hx : execBar4Write p off bs s = .next nx) : Kept s nx := by
  cases hx; exact bar4Write_kept ..

theorem execRegisterWrite_kept (p bar off n : Nat) (v : W64) (s : State) {nx : State} (hx : execRegisterWrite p bar off n v s = .next nx) : Kept s nx := by
  cases hx; exact registerWrite_kept ..

theorem execMsixUnmask_kept (p vec : Nat) (s : State) {nx : State} (hx : execMsixUnmask p vec s = .next nx) : Kept s nx := by
  cases hx; exact msixUnmask_kept ..

theorem execIdeIntegrityFail_kept (st : Nat) (s : State) {nx : State} (hx : execIdeIntegrityFail st s = .next nx) : Kept s nx := by
  cases hx; exact ideFail_kept ..

theorem execIdeKm_kept (st key : Nat) (s : State) {nx : State} (hx : execIdeKm st key s = .next nx) : Kept s nx := by
  cases hx; exact ideKm_kept ..

theorem execPwrResetWrite_kept (p n : Nat) (v : W64) (s : State) {nx : State} (hx : execPwrResetWrite p n v s = .next nx) : Kept s nx := by
  cases hx; exact pwrResetWrite_kept ..

theorem execConfigurationRequest_kept (p : Nat) (r : CfgReq) (s : State) {nx : State} (hx : execConfigurationRequest p r s = .next nx) : Kept s nx := by
  cases hx; exact configRequest_kept ..

theorem execPwrTimeout_kept (m : Nat) (h : CmdHdr) (offUs : W64) (s : State) {nx : State} (hx : execPwrTimeout m h offUs s = .next nx) : Kept s nx := by
  cases hx; exact runCmd_kept _ _ _ _ _ (hPwrTimeout_kept) _

theorem execPwrModule_kept (m : Nat) (h : CmdHdr) (target : W64) (s : State) {nx : State} (hx : execPwrModule m h target s = .next nx) : Kept s nx := by
  cases hx; exact runCmd_kept _ _ _ _ _ (hPwrModule_kept) _

theorem execCoreEnterRetain_kept (k : EngineKind) (n : Nat) (s : State) {nx : State} (hx : execCoreEnterRetain k n s = .next nx) : Kept s nx := by
  cases hx; exact coreEnterRetain_kept ..

theorem execCoreEnterOff_kept (k : EngineKind) (n : Nat) (s : State) {nx : State} (hx : execCoreEnterOff k n s = .next nx) : Kept s nx := by
  cases hx; exact coreEnterOff_kept ..

theorem execCoreWake_kept (k : EngineKind) (n : Nat) (s : State) {nx : State} (hx : execCoreWake k n s = .next nx) : Kept s nx := by
  cases hx; exact coreWake_kept ..

theorem execStandbyEntryDone_kept (s : State) {nx : State} (hx : execStandbyEntryDone s = .next nx) : Kept s nx := by
  cases hx; exact standbyEntryDone_kept ..

theorem execSleepEntry_kept (s : State) {nx : State} (hx : execSleepEntry s = .next nx) : Kept s nx := by
  cases hx; exact sleepEntry_kept ..

theorem execSleepPowerDown_kept (s : State) {nx : State} (hx : execSleepPowerDown s = .next nx) : Kept s nx := by
  cases hx; exact sleepPowerDown_kept ..

theorem execWakeAssert_kept (acted : Bool) (ticks : Nat) (s : State) {nx : State} (hx : execWakeAssert acted ticks s = .next nx) : Kept s nx := by
  cases hx; exact wakeAssert_kept ..

theorem execSupplyDroop_kept (s : State) {nx : State} (hx : execSupplyDroop s = .next nx) : Kept s nx := by
  cases hx; exact supplyDroop_kept ..

theorem execInputLowRelease_kept (s : State) {nx : State} (hx : execInputLowRelease s = .next nx) : Kept s nx := by
  cases hx; exact inputLowRelease_kept ..

theorem execStartupReady_kept (s : State) {nx : State} (hx : execStartupReady s = .next nx) : Kept s nx := by
  cases hx; exact startupReady_kept ..

theorem execThermalStop_kept (s : State) {nx : State} (hx : execThermalStop s = .next nx) : Kept s nx := by
  cases hx; exact thermalStop_kept ..

theorem execCblPrsChange_kept (k : Nat) (fitted : Bool) (s : State) {nx : State} (hx : execCblPrsChange k fitted s = .next nx) : Kept s nx := by
  cases hx; exact cblPrsChange_kept ..

theorem execMctpControlMessage_kept (ty : Byte) (body : List Byte) (s : State) {nx : State} (hx : execMctpControlMessage ty body s = .next nx) : Kept s nx := by
  cases hx; exact mctpMessage_kept ..

theorem execGetSensorReading_kept (id : Nat) (s : State) {nx : State} (hx : execGetSensorReading id s = .next nx) : Kept s nx := by
  cases hx; exact getSensor_kept ..

theorem execSetEventReceiver_kept (eid : Nat) (s : State) {nx : State} (hx : execSetEventReceiver eid s = .next nx) : Kept s nx := by
  cases hx; exact setReceiver_kept ..

theorem execSetStateEffecterStates_kept (id st : Nat) (s : State) {nx : State} (hx : execSetStateEffecterStates id st s = .next nx) : Kept s nx := by
  cases hx; exact setEffecter_kept ..

theorem execGetFruRecord_kept (s : State) {nx : State} (hx : execGetFruRecord s = .next nx) : Kept s nx := by
  cases hx; exact getFru_kept ..

theorem execGetVersion_kept (peer : List Nat) (s : State) {nx : State} (hx : execGetVersion peer s = .next nx) : Kept s nx := by
  cases hx; exact getVersion_kept ..

theorem execGetCertificate_kept (slot off len : Nat) (s : State) {nx : State} (hx : execGetCertificate slot off len s = .next nx) : Kept s nx := by
  cases hx; exact getCertificate_kept ..

theorem execChallenge_kept (slot : Nat) (nonce : List Byte) (s : State) {nx : State} (hx : execChallenge slot nonce s = .next nx) : Kept s nx := by
  cases hx; exact challengeAuth_kept ..

theorem execGetMeasurements_kept (index : Nat) (nonce : List Byte) (s : State) {nx : State} (hx : execGetMeasurements index nonce s = .next nx) : Kept s nx := by
  cases hx; exact getMeasurements_kept ..

theorem execKeyExchange_kept (slot : Nat) (pub : List Byte) (s : State) {nx : State} (hx : execKeyExchange slot pub s = .next nx) : Kept s nx := by
  cases hx; exact keyExchange_kept ..

theorem execDynamicAddressAssignment_kept (addr : Nat) (s : State) {nx : State} (hx : execDynamicAddressAssignment addr s = .next nx) : Kept s nx := by
  cases hx; exact setAddress_kept ..

theorem execMailboxTurn_kept (s : State) {nx : State} (hx : execMailboxTurn s = .next nx) : Kept s nx := by
  cases hx; exact turn_kept ..

theorem execAbort_kept (m : Nat) (h : CmdHdr) (target : W64) (s : State) {nx : State} (hx : execAbort m h target s = .next nx) : Kept s nx := by
  cases hx; exact abortEntryRun_kept ..

theorem execBgCommandFinish_kept (m tag : Nat) (o : BgFind) (s : State) {nx : State} (hx : execBgCommandFinish m tag o s = .next nx) : Kept s nx := by
  cases hx; exact bgFinish_kept ..

theorem execHostReadFail_kept (w : HostRead) (s : State) {nx : State} (hx : execHostReadFail w s = .next nx) : Kept s nx := by
  cases hx; exact hostReadFail_kept ..

theorem execWearGovernorTick_kept (s : State) {nx : State} (hx : execWearGovernorTick s = .next nx) : Kept s nx := by
  cases hx; exact wearSecond_kept ..

end Sys2Proof.Machine
end

