-- ==== Sys2Proof/Laws/Mailbox.lean ====
section
/-!
SUPPORT. What a mailbox command does when it is accepted and starts at once, and what its completion leaves.
-/

set_option Elab.async false

namespace Sys2Proof.Machine

/-- What becomes of a command whose handler has answered. -/
def State.replied (t : State) (c : Cmd) (r : Reply) : State :=
  match r with
  | .done st r0 r1 => t.complete c st false r0 r1
  | .bg => t.updCmd c (fun d => { d with bg := true })
  | .wait => t

/-- A command that is accepted and starts at once: its handler runs in the state in which it stands started in the journal. -/
theorem runCmd_takes {s : State} {m : Nat} {h : CmdHdr} {code : Nat} {ps : List W64} (ht : Takes s m h code ps) (hc : code ≠ 4)
    (handler : Handler) :
    runCmd m h code ps handler s =
      (handler (s.newCmd m h code ps) (s.begun m h code ps)).1.replied (s.newCmd m h code ps) (handler (s.newCmd m h code ps) (s.begun m h code ps)).2 := by
  obtain ⟨r, hr, hlen, hadm⟩ := ht.row
  have htag := ht.tag
  have hw := ht.plain
  let e : CmdEntry := { slot := h.slot.toNat, code := code, wait := h.wait, irq := h.irq, tag := h.tag.toNat, ps := ps, reserved := false }
  have href : e.refusal (s.mbx m).session (s.tagUsed m h.tag.toNat) = none := by
    simp only [CmdEntry.refusal, e, hr, ht.fresh, hw, ← hlen, List.drop_length, List.any_nil]
    rcases ht.session with hs | hs
    · simp [hs, htag, Option.isSome_iff_ne_none.mp hs]
    · simp [hs, htag]
  have hacc : s.accept (fun _ s => s) m e = { s with journal := s.journal ++ [e.toCmd m (s.mbx m).session] } := by
    unfold State.accept
    simp only [e] at href ⊢
    simp only [href, hc, if_false]
  have hfil : ∀ l : List Cmd, (∀ c ∈ l, c.m ≠ m) → l.filter (fun c => decide (c.m = m)) = [] := fun l hl =>
    List.filter_eq_nil_iff.mpr (fun c hc => by simpa using hl c hc)
  have hst : startable (s.journal ++ [e.toCmd m (s.mbx m).session]) m = some (e.toCmd m (s.mbx m).session) := by
    unfold startable
    have : (s.journal ++ [e.toCmd m (s.mbx m).session]).filter (fun c => decide (c.m = m)) = [e.toCmd m (s.mbx m).session] := by
      rw [List.filter_append, hfil _ ht.alone]
      simp [CmdEntry.toCmd]
    simp only [this]
    simp [CmdEntry.toCmd]
  have hbusy : (State.passHead { s with journal := s.journal ++ [e.toCmd m (s.mbx m).session] } m h.slot.toNat).busyWith
      (e.toCmd m (s.mbx m).session) = false := by
    have hb := ht.notBusy
    unfold State.busyWith at hb ⊢
    show (s.journal ++ [e.toCmd m (s.mbx m).session]).any _ = false
    rw [List.any_append]
    simp only [Bool.or_eq_false_iff]
    refine ⟨?_, by simp [CmdEntry.toCmd]⟩
    exact hb
  have hmap : ∀ (l : List Cmd) (f : Cmd → Cmd), (∀ c ∈ l, c.m ≠ m) →
      l.map (fun d => if d.m = m ∧ d.slot = h.slot.toNat ∧ d.tag = h.tag.toNat then f d else d) = l := fun l f hl => by
    conv_rhs => rw [← List.map_id l]
    exact List.map_congr_left (fun c hcl => by simp [hl c hcl])
  have hupd : (State.passHead { s with journal := s.journal ++ [e.toCmd m (s.mbx m).session] } m h.slot.toNat).updCmd
      (s.newCmd m h code ps) (fun d => { d with started := true, committed := !lateCommit d }) = s.begun m h code ps := by
    unfold State.updCmd
    have : (State.passHead { s with journal := s.journal ++ [e.toCmd m (s.mbx m).session] } m h.slot.toNat).journal =
      s.journal ++ [e.toCmd m (s.mbx m).session] := rfl
    rw [this, List.map_append]
    rw [show (fun d : Cmd => if d.m = (s.newCmd m h code ps).m ∧ d.slot = (s.newCmd m h code ps).slot ∧
        d.tag = (s.newCmd m h code ps).tag then _ else d) =
      (fun d : Cmd => if d.m = m ∧ d.slot = h.slot.toNat ∧ d.tag = h.tag.toNat then
        { d with started := true, committed := !lateCommit d } else d) from rfl]
    rw [hmap _ _ ht.alone]
    simp only [List.map_cons, List.map_nil]
    rw [if_pos ⟨rfl, rfl, rfl⟩]
    rfl
  unfold runCmd
  simp only [ht.accepts, Bool.not_true, if_false, Bool.false_eq_true]
  rw [hacc]
  have hj : (State.passHead { s with journal := s.journal ++ [e.toCmd m (s.mbx m).session] } m h.slot.toNat).journal =
      s.journal ++ [e.toCmd m (s.mbx m).session] := rfl
  rw [hj, hst]
  have hlt : decide (s.journal.length < (s.journal ++ [e.toCmd m (s.mbx m).session]).length) = true := by simp
  simp only [show (e.toCmd m (s.mbx m).session).tag = h.tag.toNat from rfl, show (e.toCmd m (s.mbx m).session).slot = h.slot.toNat from rfl,
    hlt, and_self, if_true]
  unfold State.startCmd
  refine (if_neg ?_).trans ((if_neg ?_).trans ((if_neg ?_).trans ?_))
  · simp only [CmdEntry.toCmd, e, hr, Bool.not_eq_true, Bool.or_eq_false_iff]
    refine ⟨?_, ?_⟩
    · cases ha : r.admin
      · rfl
      · simp [hadm ha]
    · cases hf : cmdFeature code with
      | none => rfl
      | some n =>
        have := ht.feature n hf
        unfold Mbx.feat at this
        cases hs : (s.mbx m).session with
        | none => simp [hs, grants] at this
        | some q => simpa [hs, grants] using this
  · rw [hbusy]
    exact Bool.false_ne_true
  · rintro ⟨h1, h2⟩
    have h3 : s.regOpen m 1 = true := ht.ready h1
    have h4 : (State.passHead { s with journal := s.journal ++ [e.toCmd m (s.mbx m).session] } m h.slot.toNat).regOpen m 1 = s.regOpen m 1 := rfl
    rw [show (e.toCmd m (s.mbx m).session).m = m from rfl, h4, h3] at h2
    cases h2
  · rw [← hupd]
    unfold State.replied
    rfl

end Sys2Proof.Machine
end

