-- ==== Sys2Proof/Laws/Patch.lean ====
section
/-!
SUPPORT. What the resets, the firmware updates and the supply guard keep: the queue, the canonical form of memory and `PatchOk`; and they
never turn the clock back.
-/

set_option Elab.async false

namespace Sys2Proof.Machine

/-! ### From Kept -/

/-- `PatchOk` speaks of four fields only. -/
theorem patchOk_of_eq {s t : State} (h1 : t.patch = s.patch) (h2 : t.nextPatch = s.nextPatch) (h3 : t.board.update = s.board.update)
    (h : PatchOk s) : PatchOk t :=
  ⟨h1 ▸ h.absent, h1 ▸ h.floor, h2 ▸ h.next, h3 ▸ h.update⟩

theorem patchOk_of_kept {s t : State} (h : Kept s t) : PatchOk s → PatchOk t := patchOk_of_eq h.patch h.nextPatch h.update

/-- What every command keeps of the queue, the clock, the patch table and device memory. -/
structure Keeps (s t : State) : Prop where
  pending : t.pending = s.pending
  time : s.time ≤ t.time
  patch : PatchOk s → PatchOk t
  mem : Memory.wf s.mem → Memory.wf t.mem

theorem Keeps.refl (s : State) : Keeps s s := ⟨rfl, le_rfl, id, id⟩
theorem Keeps.trans {s t u : State} (h : Keeps s t) (k : Keeps t u) : Keeps s u :=
  ⟨k.pending.trans h.pending, h.time.trans k.time, k.patch ∘ h.patch, k.mem ∘ h.mem⟩

theorem keeps_of_kept {s t : State} (h : Kept s t) : Keeps s t := ⟨h.pending, le_of_eq h.time.symm, patchOk_of_kept h, h.mem⟩

theorem keeps_same {s t : State} (hp : t.pending = s.pending) (ht : t.time = s.time) (h1 : t.patch = s.patch)
    (h2 : t.nextPatch = s.nextPatch) (h3 : t.board.update = s.board.update) (h4 : t.mem = s.mem) : Keeps s t :=
  ⟨hp, ht.ge, patchOk_of_eq h1 h2 h3, fun h => h4 ▸ h⟩

theorem keeps_ite {c : Prop} [Decidable c] {s a b : State} (ha : Keeps s a) (hb : Keeps s b) : Keeps s (if c then a else b) := by
  split <;> assumption

/-! ### Resets (R418, R442, R445) -/

/-- The copy that a start uses passes R272. -/
theorem bootPatch_ok (b : Board) :
    (b.bootPatch.1.2 = false → b.bootPatch.1.1 = 0) ∧ (b.bootPatch.1.2 = true → Config.patchFloor ≤ b.bootPatch.1.1) := by
  have key : ∀ (o : Option PatchCopy) (n : Nat), (o.filter PatchCopy.passes).map (·.level) = some n → Config.patchFloor ≤ n := by
    intro o n h
    rcases o with _ | c
    · simp at h
    · by_cases hc : c.passes = true
      · simp only [Option.filter, hc, if_true, Option.map_some, Option.some.injEq] at h
        subst h
        simp only [PatchCopy.passes, patchOk, Bool.and_eq_true, decide_eq_true_eq] at hc
        exact hc.2.2.1
      · simp [Option.filter, hc] at h
  unfold Board.bootPatch
  dsimp only
  repeat' split
  all_goals first
    | exact ⟨fun h => by simp at h, fun _ => key _ _ (by assumption)⟩
    | exact ⟨fun _ => rfl, fun h => by simp at h⟩

theorem cleared_keeps (s : State) : Keeps s s.cleared :=
  ⟨rfl, le_rfl, fun _ => ⟨fun _ => rfl, nofun, nofun, nofun⟩, fun _ => reset_mem_wf⟩

theorem booted_keeps (s : State) (f : BootFind) : Keeps s (s.booted f) := by
  have k (v : Bool) (hs : PatchOk s) : PatchOk { s with
      patch := (if v then s.board.bootPatch else ((0, false), false)).1, nextPatch := none
      board := { s.board with trimB := f.romOk && !f.trimA && f.trimB, patchB := (if v then s.board.bootPatch else ((0, false), false)).2 } } := by
    cases v
    · exact ⟨fun _ => rfl, nofun, nofun, hs.update⟩
    · exact ⟨(bootPatch_ok s.board).1, (bootPatch_ok s.board).2, nofun, hs.update⟩
  exact ⟨rfl, le_rfl, k _, id⟩

theorem bootFrom_keeps (s : State) (f : BootFind) (cause : Nat) : Keeps s (s.bootFrom f cause) := by
  have e1 : Keeps s ({ s with mode := .active, board := { s.board with starting := true, lastRst := cause } } : State).platformEvent :=
    Keeps.trans (t := { s with mode := .active, board := { s.board with starting := true, lastRst := cause } }) (keeps_same rfl rfl rfl rfl rfl rfl)
      (keeps_of_kept (State.platformEvent_kept _))
  unfold State.bootFrom
  dsimp only
  refine (e1.trans (booted_keeps _ f)).trans ?_
  generalize State.booted _ f = t
  split
  · exact keeps_of_kept (State.startFails_kept ..)
  · refine Keeps.trans ?_ (keeps_of_kept (foldl_kept (fun s x => State.trainPort_kept ..) _ _))
    exact keeps_same rfl rfl rfl rfl rfl rfl

theorem coldReset_keeps (s : State) (f : BootFind) (cause : Nat) : Keeps s (s.coldReset f cause) :=
  (cleared_keeps s).trans (bootFrom_keeps ..)

theorem powerLost_keeps (s : State) : Keeps s s.powerLost :=
  (cleared_keeps s).trans (keeps_same rfl rfl rfl rfl rfl rfl)

theorem powerOn_keeps (f : BootFind) (s : State) : Keeps s (powerOn f s) := by
  unfold powerOn
  dsimp only
  refine keeps_ite (Keeps.refl s) (Keeps.trans ?_ (bootFrom_keeps ..))
  exact (cleared_keeps s).trans (keeps_same rfl rfl rfl rfl rfl rfl)

theorem sleepExitDone_keeps (f : BootFind) (s : State) : Keeps s (sleepExitDone f s) := by
  unfold sleepExitDone
  dsimp only
  refine keeps_ite (Keeps.refl s) ?_
  split
  · exact (booted_keeps s f).trans (keeps_of_kept (State.startFails_kept ..))
  · refine ((keeps_of_kept (State.endpointReset_kept s)).trans (booted_keeps _ f)).trans ?_
    generalize State.booted _ f = t
    refine Keeps.trans ?_ ((keeps_of_kept (foldl_kept (fun s x => State.trainPort_kept ..) _ _)).trans
      (keeps_of_kept (State.platformEvent_kept _)))
    exact keeps_same rfl rfl rfl rfl rfl rfl

theorem rstAssert_keeps (acted : Bool) (ticks : Nat) (f : BootFind) (s : State) : Keeps s (rstAssert acted ticks f s) :=
  keeps_ite (coldReset_keeps ..) (Keeps.refl s)

theorem coldResetStart_keeps (f : BootFind) (s : State) : Keeps s (coldResetStart f s) := by
  unfold coldResetStart
  split
  · exact keeps_ite (Keeps.refl s) (coldReset_keeps ..)
  · exact Keeps.refl s

/-! ### The supply guard and the input (R441) -/

theorem guardTrip_keeps (s : State) : Keeps s (guardTrip s) := by
  unfold guardTrip
  dsimp only
  refine keeps_ite (Keeps.refl s) (Keeps.trans ?_ (powerLost_keeps _))
  exact keeps_same rfl rfl rfl rfl rfl rfl

theorem guardReclose_keeps (s : State) : Keeps s (guardReclose s) :=
  keeps_ite (Keeps.refl s) ⟨rfl, le_max_left .., patchOk_of_eq rfl rfl rfl, id⟩

theorem pprsntMake_keeps (f : BootFind) (s : State) : Keeps s (pprsntMake f s) := by
  unfold pprsntMake
  dsimp only
  refine keeps_ite (Keeps.refl s) (Keeps.trans ?_ (powerOn_keeps ..))
  exact keeps_same rfl rfl rfl rfl rfl rfl

theorem pprsntBreak_keeps (s : State) : Keeps s (pprsntBreak s) := by
  unfold pprsntBreak
  dsimp only
  refine keeps_ite (keeps_same rfl rfl rfl rfl rfl rfl) (Keeps.trans ?_ (powerLost_keeps _))
  exact keeps_same rfl rfl rfl rfl rfl rfl

theorem thermalSwitchOpen_keeps (s : State) : Keeps s (thermalSwitchOpen s) := by
  unfold thermalSwitchOpen
  dsimp only
  refine keeps_ite (Keeps.refl s) (Keeps.trans ?_ (powerLost_keeps _))
  exact keeps_same rfl rfl rfl rfl rfl rfl

/-! ### Firmware updates (R418) -/

theorem setSpare_update (b : Board) (c : Option PatchCopy) : (b.setSpare c).update = b.update := by
  unfold Board.setSpare
  split <;> rfl

theorem whenMgmt_keeps (f : State → State) (s : State) (h : Keeps s (f s)) : Keeps s (whenMgmt f s) := by
  unfold whenMgmt
  split <;> first | exact h | exact Keeps.refl s

theorem passUpdate_keeps (image : List Byte) (s : State) : Keeps s (passUpdate image s) := by
  refine whenMgmt_keeps _ _ ?_
  dsimp only
  have k := keeps_of_kept (State.mgmtFree_kept s 0x4181 1)
  refine k.trans ⟨rfl, le_rfl, fun h => ⟨h.absent, h.floor, nofun, fun c hc hok => ?_⟩, id⟩
  cases hc
  cases hok

theorem verifyUpdate_keeps (s : State) : Keeps s (verifyUpdate s) := by
  refine whenMgmt_keeps _ _ ?_
  dsimp only
  split
  · exact keeps_of_kept (State.mgmtFree_kept ..)
  · rename_i c hc
    split
    · rename_i ho
      have k := keeps_of_kept (State.mgmtFree_kept s 0x4183 1)
      refine k.trans ⟨rfl, le_rfl, fun h => ⟨h.absent, h.floor, h.next, fun d hd _ => ?_⟩, id⟩
      cases hd
      simp only [State.updateOk, patchOk, Bool.and_eq_true, decide_eq_true_eq] at ho
      exact ⟨ho.1.1, ho.1.2.1⟩
    · have k := keeps_of_kept (State.mgmtFree_kept s 0x4184 1)
      exact k.trans ⟨rfl, le_rfl, fun h => ⟨h.absent, h.floor, h.next, nofun⟩, id⟩

theorem activateUpdate_keeps (selfContained : Bool) (s : State) : Keeps s (activateUpdate selfContained s) := by
  refine whenMgmt_keeps _ _ ?_
  dsimp only
  split
  · exact keeps_of_kept (State.mgmtFree_kept ..)
  · rename_i c hc
    split
    · exact keeps_of_kept (State.mgmtFree_kept ..)
    · rename_i ho
      have hv := State.mgmtFree_kept s 0x4186 1
      generalize s.mgmtFree 0x4186 1 = u at hv
      have k : Keeps s { u with nextPatch := some (c.level, true), board := { s.board with update := none } } := by
        refine ⟨hv.pending, le_of_eq hv.time.symm, fun h => ?_, hv.mem⟩
        have g := patchOk_of_kept hv h
        refine ⟨g.absent, g.floor, fun n hn => ?_, nofun⟩
        cases hn
        exact ⟨rfl, (h.update c hc (by simpa using ho)).2⟩
      refine keeps_ite (Keeps.trans ?_ (keeps_of_kept (cpReset_kept _))) ?_ <;> exact k

theorem execCpRestartDone_keeps {s nx : State} (hx : execCpRestartDone s = .next nx) : Keeps s nx := by
  cases hx
  refine keeps_ite ⟨rfl, le_rfl, fun h => ?_, id⟩ (Keeps.refl s)
  rcases hn : s.nextPatch with _ | n
  · exact ⟨h.absent, h.floor, nofun, h.update⟩
  · have e := h.next n hn
    exact ⟨fun c => absurd (e.1.symm.trans c) nofun, fun _ => e.2, nofun, h.update⟩

/-! ### The clock (log 1) -/

theorem idleTick_keeps (s : State) : Keeps s (idleTick s) := by
  have h1 : Kept s s.chargeCycle.countStalls := (State.countStalls_kept _).of (State.chargeCycle_kept s)
  unfold idleTick
  dsimp only
  generalize s.chargeCycle.countStalls = t at h1
  refine Keeps.trans ?_ (keeps_of_kept ((State.slowTime_kept ..).of (State.noteWork_kept _)))
  have k : Keeps s t := keeps_of_kept h1
  exact ⟨k.pending, k.time.trans (Nat.le_add_right ..), fun h => patchOk_of_eq (s := t) rfl rfl rfl (k.patch h), k.mem⟩

/-! ### The rows -/

theorem execPowerOn_keeps (f : BootFind) (s : State) {nx : State} (hx : execPowerOn f s = .next nx) : Keeps s nx := by
  cases hx
  exact powerOn_keeps ..

theorem execSleepExitDone_keeps (f : BootFind) (s : State) {nx : State} (hx : execSleepExitDone f s = .next nx) : Keeps s nx := by
  cases hx
  exact sleepExitDone_keeps ..

theorem execRstAssert_keeps (acted : Bool) (ticks : Nat) (f : BootFind) (s : State) {nx : State} (hx : execRstAssert acted ticks f s = .next nx) : Keeps s nx := by
  cases hx
  exact rstAssert_keeps ..

theorem execColdResetStart_keeps (f : BootFind) (s : State) {nx : State} (hx : execColdResetStart f s = .next nx) : Keeps s nx := by
  cases hx
  exact coldResetStart_keeps ..

theorem execGuardTrip_keeps (s : State) {nx : State} (hx : execGuardTrip s = .next nx) : Keeps s nx := by
  cases hx
  exact guardTrip_keeps ..

theorem execGuardReclose_keeps (s : State) {nx : State} (hx : execGuardReclose s = .next nx) : Keeps s nx := by
  cases hx
  exact guardReclose_keeps ..

theorem execPprsntMake_keeps (f : BootFind) (s : State) {nx : State} (hx : execPprsntMake f s = .next nx) : Keeps s nx := by
  cases hx
  exact pprsntMake_keeps ..

theorem execPprsntBreak_keeps (s : State) {nx : State} (hx : execPprsntBreak s = .next nx) : Keeps s nx := by
  cases hx
  exact pprsntBreak_keeps ..

theorem execThermalSwitchOpen_keeps (s : State) {nx : State} (hx : execThermalSwitchOpen s = .next nx) : Keeps s nx := by
  cases hx
  exact thermalSwitchOpen_keeps ..

theorem execPassComponentUpdate_keeps (image : List Byte) (s : State) {nx : State} (hx : execPassComponentUpdate image s = .next nx) : Keeps s nx := by
  cases hx
  exact passUpdate_keeps ..

theorem execVerifyComplete_keeps (s : State) {nx : State} (hx : execVerifyComplete s = .next nx) : Keeps s nx := by
  cases hx
  exact verifyUpdate_keeps ..

theorem execActivateFirmware_keeps (b : Bool) (s : State) {nx : State} (hx : execActivateFirmware b s = .next nx) : Keeps s nx := by
  cases hx
  exact activateUpdate_keeps ..

end Sys2Proof.Machine
end

