-- ==== Sys2Proof/Laws/PerInstr.lean ====
section
/-!
SUPPORT. A well-formed command names only units that exist.
-/

set_option Elab.async false

namespace Sys2Proof.Laws.Legal

/-- Every unit that a well-formed command names exists. -/
def Statement (i : Instr) : Prop := i.wf = true → ∀ p ∈ i.names, p.2 < p.1.count

/-- What the check of a command says of one name. -/
theorem of_wf (i : Instr) : Statement i := by
  intro h p hp
  have h1 : i.names.all (fun p => decide (p.2 < p.1.count)) = true := (Bool.and_eq_true _ _ ▸ h).1
  exact of_decide_eq_true (List.all_eq_true.mp h1 p hp)

theorem bundleIssue (c : Nat) : Statement (.bundleIssue c) := of_wf _
theorem icacheLineFill (c : Nat) (x : Nat) : Statement (.icacheLineFill c x) := of_wf _
theorem add (c : Nat) (x : Nat) (h : SlotHdr) (f : ScalarF) : Statement (.add c x h f) := of_wf _
theorem sub (c : Nat) (x : Nat) (h : SlotHdr) (f : ScalarF) : Statement (.sub c x h f) := of_wf _
theorem and (c : Nat) (x : Nat) (h : SlotHdr) (f : ScalarF) : Statement (.and c x h f) := of_wf _
theorem or (c : Nat) (x : Nat) (h : SlotHdr) (f : ScalarF) : Statement (.or c x h f) := of_wf _
theorem xor (c : Nat) (x : Nat) (h : SlotHdr) (f : ScalarF) : Statement (.xor c x h f) := of_wf _
theorem shl (c : Nat) (x : Nat) (h : SlotHdr) (f : ScalarF) : Statement (.shl c x h f) := of_wf _
theorem shr (c : Nat) (x : Nat) (h : SlotHdr) (f : ScalarF) : Statement (.shr c x h f) := of_wf _
theorem sra (c : Nat) (x : Nat) (h : SlotHdr) (f : ScalarF) : Statement (.sra c x h f) := of_wf _
theorem min (c : Nat) (x : Nat) (h : SlotHdr) (f : ScalarF) : Statement (.min c x h f) := of_wf _
theorem max (c : Nat) (x : Nat) (h : SlotHdr) (f : ScalarF) : Statement (.max c x h f) := of_wf _
theorem minu (c : Nat) (x : Nat) (h : SlotHdr) (f : ScalarF) : Statement (.minu c x h f) := of_wf _
theorem maxu (c : Nat) (x : Nat) (h : SlotHdr) (f : ScalarF) : Statement (.maxu c x h f) := of_wf _
theorem mul (c : Nat) (x : Nat) (h : SlotHdr) (f : ScalarF) : Statement (.mul c x h f) := of_wf _
theorem mulh (c : Nat) (x : Nat) (h : SlotHdr) (f : ScalarF) : Statement (.mulh c x h f) := of_wf _
theorem mulhu (c : Nat) (x : Nat) (h : SlotHdr) (f : ScalarF) : Statement (.mulhu c x h f) := of_wf _
theorem div (c : Nat) (x : Nat) (h : SlotHdr) (f : ScalarF) : Statement (.div c x h f) := of_wf _
theorem divu (c : Nat) (x : Nat) (h : SlotHdr) (f : ScalarF) : Statement (.divu c x h f) := of_wf _
theorem rem (c : Nat) (x : Nat) (h : SlotHdr) (f : ScalarF) : Statement (.rem c x h f) := of_wf _
theorem remu (c : Nat) (x : Nat) (h : SlotHdr) (f : ScalarF) : Statement (.remu c x h f) := of_wf _
theorem cmpEq (c : Nat) (x : Nat) (h : SlotHdr) (f : ScalarF) : Statement (.cmpEq c x h f) := of_wf _
theorem cmpNe (c : Nat) (x : Nat) (h : SlotHdr) (f : ScalarF) : Statement (.cmpNe c x h f) := of_wf _
theorem cmpLt (c : Nat) (x : Nat) (h : SlotHdr) (f : ScalarF) : Statement (.cmpLt c x h f) := of_wf _
theorem cmpLtu (c : Nat) (x : Nat) (h : SlotHdr) (f : ScalarF) : Statement (.cmpLtu c x h f) := of_wf _
theorem cmpGe (c : Nat) (x : Nat) (h : SlotHdr) (f : ScalarF) : Statement (.cmpGe c x h f) := of_wf _
theorem cmpGeu (c : Nat) (x : Nat) (h : SlotHdr) (f : ScalarF) : Statement (.cmpGeu c x h f) := of_wf _
theorem adda (c : Nat) (x : Nat) (h : SlotHdr) (f : ScalarF) : Statement (.adda c x h f) := of_wf _
theorem mova (c : Nat) (x : Nat) (h : SlotHdr) (f : ScalarF) : Statement (.mova c x h f) := of_wf _
theorem movs (c : Nat) (x : Nat) (h : SlotHdr) (f : ScalarF) : Statement (.movs c x h f) := of_wf _
theorem rdsr (c : Nat) (x : Nat) (h : SlotHdr) (f : ScalarF) : Statement (.rdsr c x h f) := of_wf _
theorem ld8 (c : Nat) (x : Nat) (h : SlotHdr) (f : ScalarF) : Statement (.ld8 c x h f) := of_wf _
theorem ld16 (c : Nat) (x : Nat) (h : SlotHdr) (f : ScalarF) : Statement (.ld16 c x h f) := of_wf _
theorem ld32 (c : Nat) (x : Nat) (h : SlotHdr) (f : ScalarF) : Statement (.ld32 c x h f) := of_wf _
theorem ld64 (c : Nat) (x : Nat) (h : SlotHdr) (f : ScalarF) : Statement (.ld64 c x h f) := of_wf _
theorem st8 (c : Nat) (x : Nat) (h : SlotHdr) (f : ScalarF) : Statement (.st8 c x h f) := of_wf _
theorem st16 (c : Nat) (x : Nat) (h : SlotHdr) (f : ScalarF) : Statement (.st16 c x h f) := of_wf _
theorem st32 (c : Nat) (x : Nat) (h : SlotHdr) (f : ScalarF) : Statement (.st32 c x h f) := of_wf _
theorem st64 (c : Nat) (x : Nat) (h : SlotHdr) (f : ScalarF) : Statement (.st64 c x h f) := of_wf _
theorem br (c : Nat) (x : Nat) (h : SlotHdr) (f : ScalarF) : Statement (.br c x h f) := of_wf _
theorem brz (c : Nat) (x : Nat) (h : SlotHdr) (f : ScalarF) : Statement (.brz c x h f) := of_wf _
theorem brnz (c : Nat) (x : Nat) (h : SlotHdr) (f : ScalarF) : Statement (.brnz c x h f) := of_wf _
theorem brdec (c : Nat) (x : Nat) (h : SlotHdr) (f : ScalarF) : Statement (.brdec c x h f) := of_wf _
theorem call (c : Nat) (x : Nat) (h : SlotHdr) (f : ScalarF) : Statement (.call c x h f) := of_wf _
theorem jr (c : Nat) (x : Nat) (h : SlotHdr) (f : ScalarF) : Statement (.jr c x h f) := of_wf _
theorem endOp (c : Nat) (x : Nat) (h : SlotHdr) (f : ScalarF) : Statement (.endOp c x h f) := of_wf _
theorem tileThreadStart (c : Nat) (x : Nat) (l : Nat) : Statement (.tileThreadStart c x l) := of_wf _
theorem tld (c : Nat) (x : Nat) (h : SlotHdr) (f : MoverF) : Statement (.tld c x h f) := of_wf _
theorem tldz (c : Nat) (x : Nat) (h : SlotHdr) (f : MoverF) : Statement (.tldz c x h f) := of_wf _
theorem tcpy (c : Nat) (x : Nat) (h : SlotHdr) (f : MoverF) : Statement (.tcpy c x h f) := of_wf _
theorem tst (c : Nat) (x : Nat) (h : SlotHdr) (f : MoverF) : Statement (.tst c x h f) := of_wf _
theorem tstAddf (c : Nat) (x : Nat) (h : SlotHdr) (f : MoverF) : Statement (.tstAddf c x h f) := of_wf _
theorem tstAddi (c : Nat) (x : Nat) (h : SlotHdr) (f : MoverF) : Statement (.tstAddi c x h f) := of_wf _
theorem moverOpComplete (c : Nat) (st : Bool) (x : Nat) : Statement (.moverOpComplete c st x) := of_wf _
theorem mmul (c : Nat) (x : Nat) (h : SlotHdr) (f : MatrixF) : Statement (.mmul c x h f) := of_wf _
theorem mmulChunkDone (c : Nat) : Statement (.mmulChunkDone c) := of_wf _
theorem mdrain (c : Nat) (x : Nat) (h : SlotHdr) (f : MatrixF) : Statement (.mdrain c x h f) := of_wf _
theorem drainStart (c : Nat) : Statement (.drainStart c) := of_wf _
theorem drainRerun (c : Nat) : Statement (.drainRerun c) := of_wf _
theorem drainWritten (c : Nat) : Statement (.drainWritten c) := of_wf _
theorem mfree (c : Nat) (x : Nat) (h : SlotHdr) (f : MatrixF) : Statement (.mfree c x h f) := of_wf _
theorem lrun (c : Nat) (x : Nat) (h : SlotHdr) (f : MatrixF) : Statement (.lrun c x h f) := of_wf _
theorem lrunExpandStart (c : Nat) : Statement (.lrunExpandStart c) := of_wf _
theorem lupinIteration (c : Nat) : Statement (.lupinIteration c) := of_wf _
theorem lrunComplete (c : Nat) : Statement (.lrunComplete c) := of_wf _
theorem vadd (c : Nat) (x : Nat) (h : SlotHdr) (f : VectorF) : Statement (.vadd c x h f) := of_wf _
theorem vsub (c : Nat) (x : Nat) (h : SlotHdr) (f : VectorF) : Statement (.vsub c x h f) := of_wf _
theorem vmul (c : Nat) (x : Nat) (h : SlotHdr) (f : VectorF) : Statement (.vmul c x h f) := of_wf _
theorem vmin (c : Nat) (x : Nat) (h : SlotHdr) (f : VectorF) : Statement (.vmin c x h f) := of_wf _
theorem vmax (c : Nat) (x : Nat) (h : SlotHdr) (f : VectorF) : Statement (.vmax c x h f) := of_wf _
theorem vfma (c : Nat) (x : Nat) (h : SlotHdr) (f : VectorF) : Statement (.vfma c x h f) := of_wf _
theorem vabs (c : Nat) (x : Nat) (h : SlotHdr) (f : VectorF) : Statement (.vabs c x h f) := of_wf _
theorem vneg (c : Nat) (x : Nat) (h : SlotHdr) (f : VectorF) : Statement (.vneg c x h f) := of_wf _
theorem vand (c : Nat) (x : Nat) (h : SlotHdr) (f : VectorF) : Statement (.vand c x h f) := of_wf _
theorem vor (c : Nat) (x : Nat) (h : SlotHdr) (f : VectorF) : Statement (.vor c x h f) := of_wf _
theorem vxor (c : Nat) (x : Nat) (h : SlotHdr) (f : VectorF) : Statement (.vxor c x h f) := of_wf _
theorem vshl (c : Nat) (x : Nat) (h : SlotHdr) (f : VectorF) : Statement (.vshl c x h f) := of_wf _
theorem vshr (c : Nat) (x : Nat) (h : SlotHdr) (f : VectorF) : Statement (.vshr c x h f) := of_wf _
theorem vsra (c : Nat) (x : Nat) (h : SlotHdr) (f : VectorF) : Statement (.vsra c x h f) := of_wf _
theorem vcmpEq (c : Nat) (x : Nat) (h : SlotHdr) (f : VectorF) : Statement (.vcmpEq c x h f) := of_wf _
theorem vcmpNe (c : Nat) (x : Nat) (h : SlotHdr) (f : VectorF) : Statement (.vcmpNe c x h f) := of_wf _
theorem vcmpLt (c : Nat) (x : Nat) (h : SlotHdr) (f : VectorF) : Statement (.vcmpLt c x h f) := of_wf _
theorem vcmpLe (c : Nat) (x : Nat) (h : SlotHdr) (f : VectorF) : Statement (.vcmpLe c x h f) := of_wf _
theorem vsel (c : Nat) (x : Nat) (h : SlotHdr) (f : VectorF) : Statement (.vsel c x h f) := of_wf _
theorem vcvt (c : Nat) (x : Nat) (h : SlotHdr) (f : VectorF) : Statement (.vcvt c x h f) := of_wf _
theorem vperm (c : Nat) (x : Nat) (h : SlotHdr) (f : VectorF) : Statement (.vperm c x h f) := of_wf _
theorem vbcast (c : Nat) (x : Nat) (h : SlotHdr) (f : VectorF) : Statement (.vbcast c x h f) := of_wf _
theorem vredAdd (c : Nat) (x : Nat) (h : SlotHdr) (f : VectorF) : Statement (.vredAdd c x h f) := of_wf _
theorem vredMax (c : Nat) (x : Nat) (h : SlotHdr) (f : VectorF) : Statement (.vredMax c x h f) := of_wf _
theorem vredMin (c : Nat) (x : Nat) (h : SlotHdr) (f : VectorF) : Statement (.vredMin c x h f) := of_wf _
theorem vld (c : Nat) (x : Nat) (h : SlotHdr) (f : VectorF) : Statement (.vld c x h f) := of_wf _
theorem vst (c : Nat) (x : Nat) (h : SlotHdr) (f : VectorF) : Statement (.vst c x h f) := of_wf _
theorem rng (c : Nat) (x : Nat) (h : SlotHdr) (f : VectorF) : Statement (.rng c x h f) := of_wf _
theorem vidx (c : Nat) (x : Nat) (h : SlotHdr) (f : VectorF) : Statement (.vidx c x h f) := of_wf _
theorem sfu (c : Nat) (x : Nat) (h : SlotHdr) (f : SpecialF) : Statement (.sfu c x h f) := of_wf _
theorem sfuGate (c : Nat) (x : Nat) (h : SlotHdr) (f : SpecialF) : Statement (.sfuGate c x h f) := of_wf _
theorem tblCommit (c : Nat) (x : Nat) (h : SlotHdr) (f : SpecialF) : Statement (.tblCommit c x h f) := of_wf _
theorem tblCheckDone (c : Nat) (t : Nat) : Statement (.tblCheckDone c t) := of_wf _
theorem tableSwitch (c : Nat) (t : Nat) : Statement (.tableSwitch c t) := of_wf _
theorem fence (c : Nat) (x : Nat) (h : SlotHdr) (f : SyncF) : Statement (.fence c x h f) := of_wf _
theorem fenceSatisfied (c : Nat) (x : Nat) : Statement (.fenceSatisfied c x) := of_wf _
theorem mwait (c : Nat) (x : Nat) (h : SlotHdr) (f : SyncF) : Statement (.mwait c x h f) := of_wf _
theorem mwaitSatisfied (c : Nat) (x : Nat) : Statement (.mwaitSatisfied c x) := of_wf _
theorem semSig (c : Nat) (x : Nat) (h : SlotHdr) (f : SyncF) : Statement (.semSig c x h f) := of_wf _
theorem semSigApply (k : Nat) : Statement (.semSigApply k) := of_wf _
theorem semWait (c : Nat) (x : Nat) (h : SlotHdr) (f : SyncF) : Statement (.semWait c x h f) := of_wf _
theorem semWaitSatisfied (c : Nat) (x : Nat) : Statement (.semWaitSatisfied c x) := of_wf _
theorem semTake (c : Nat) (x : Nat) (h : SlotHdr) (f : SyncF) : Statement (.semTake c x h f) := of_wf _
theorem semTakeServed (die : Nat) (ix : Nat) : Statement (.semTakeServed die ix) := of_wf _
theorem semRd (c : Nat) (x : Nat) (h : SlotHdr) (f : SyncF) : Statement (.semRd c x h f) := of_wf _
theorem claim (c : Nat) (x : Nat) (h : SlotHdr) (f : SyncF) : Statement (.claim c x h f) := of_wf _
theorem fbar (c : Nat) (x : Nat) (h : SlotHdr) (f : SyncF) : Statement (.fbar c x h f) := of_wf _
theorem barrierOpen (p : Nat) (ix : Nat) (remote : Bool) : Statement (.barrierOpen p ix remote) := of_wf _
theorem launchComplete (l : Nat) : Statement (.launchComplete l) := of_wf _
theorem foxItemStart (u : Nat) : Statement (.foxItemStart u) := of_wf _
theorem mapEpochPin (u : Nat) : Statement (.mapEpochPin u) := of_wf _
theorem foxLabFill (u : Nat) (page : Nat) : Statement (.foxLabFill u page) := of_wf _
theorem foxBlockCompute (u : Nat) : Statement (.foxBlockCompute u) := of_wf _
theorem foxItemComplete (u : Nat) : Statement (.foxItemComplete u) := of_wf _
theorem mapEditBatch (m : Nat) : Statement (.mapEditBatch m) := of_wf _
theorem primJobStart (e : Nat) : Statement (.primJobStart e) := of_wf _
theorem primJobComplete (e : Nat) : Statement (.primJobComplete e) := of_wf _
theorem engineDispatch (k : EngineKind) (n : Nat) : Statement (.engineDispatch k n) := of_wf _
theorem hotWindowEnd (die : Nat) (ch : Nat) (lines : Nat) (total : Nat) (gran : Nat) : Statement (.hotWindowEnd die ch lines total gran) := of_wf _
theorem dramRowSpare (die : Nat) (ch : Nat) (row : Nat) : Statement (.dramRowSpare die ch row) := of_wf _
theorem dramPatrolScrub (die : Nat) (e : EccFind) : Statement (.dramPatrolScrub die e) := of_wf _
theorem dramRefresh (die : Nat) (ch : Nat) : Statement (.dramRefresh die ch) := of_wf _
theorem dramChannelPowerDown (die : Nat) (ch : Nat) : Statement (.dramChannelPowerDown die ch) := of_wf _
theorem regionDrainDone (p : Nat) (ix : Nat) : Statement (.regionDrainDone p ix) := of_wf _
theorem wwPositionRead (w : Nat) : Statement (.wwPositionRead w) := of_wf _
theorem wwLayerReady (w : Nat) : Statement (.wwLayerReady w) := of_wf _
theorem wwRungReady (w : Nat) : Statement (.wwRungReady w) := of_wf _
theorem flashDecodeResult (k : Nat) (r : CodewordFind) : Statement (.flashDecodeResult k r) := of_wf _
theorem flashRelocate (blk : Nat) (dst : Nat) : Statement (.flashRelocate blk dst) := of_wf _
theorem programFailure (blk : Nat) : Statement (.programFailure blk) := of_wf _
theorem eraseFailure (blk : Nat) : Statement (.eraseFailure blk) := of_wf _
theorem dieFailed (d : Nat) : Statement (.dieFailed d) := of_wf _
theorem dieRebuild (d : Nat) (n : Nat) : Statement (.dieRebuild d n) := of_wf _
theorem readCountCheck (blk : Nat) (errs : Nat) (retries : Nat) : Statement (.readCountCheck blk errs retries) := of_wf _
theorem retentionScrub (blk : Nat) (errs : Nat) (retries : Nat) : Statement (.retentionScrub blk errs retries) := of_wf _
theorem staticWearLevel (g : Nat) (q : Nat) : Statement (.staticWearLevel g q) := of_wf _
theorem garbageCollection (g : Nat) (q : Nat) : Statement (.garbageCollection g q) := of_wf _
theorem flashChannelPowerDown (ch : Nat) : Statement (.flashChannelPowerDown ch) := of_wf _
theorem wearGovernorTick : Statement (.wearGovernorTick) := of_wf _
theorem mbxCtrlWrite (m : Nat) (v : W64) : Statement (.mbxCtrlWrite m v) := of_wf _
theorem mbxCmdTailWrite (m : Nat) (v : W64) : Statement (.mbxCmdTailWrite m v) := of_wf _
theorem mbxCmpHeadWrite (m : Nat) (v : W64) : Statement (.mbxCmpHeadWrite m v) := of_wf _
theorem mailboxTurn : Statement (.mailboxTurn) := of_wf _
theorem bgCommandFinish (m : Nat) (tag : Nat) (o : BgFind) : Statement (.bgCommandFinish m tag o) := of_wf _
theorem completionPost (m : Nat) : Statement (.completionPost m) := of_wf _
theorem cpWatchdogExpire : Statement (.cpWatchdogExpire) := of_wf _
theorem cpSramUncorrectable : Statement (.cpSramUncorrectable) := of_wf _
theorem cpRestartDone : Statement (.cpRestartDone) := of_wf _
theorem openSession (m : Nat) (h : CmdHdr) (resp : W64) (mbx : W64) (img : W64) (pkg : W64) (snap : W64) (feats : W64) : Statement (.openSession m h resp mbx img pkg snap feats) := of_wf _
theorem closeSession (m : Nat) (h : CmdHdr) : Statement (.closeSession m h) := of_wf _
theorem fenceCommand (m : Nat) (h : CmdHdr) : Statement (.fenceCommand m h) := of_wf _
theorem abort (m : Nat) (h : CmdHdr) (target : W64) : Statement (.abort m h target) := of_wf _
theorem getInfo (m : Nat) (h : CmdHdr) (resp : W64) : Statement (.getInfo m h resp) := of_wf _
theorem nop (m : Nat) (h : CmdHdr) : Statement (.nop m h) := of_wf _
theorem regionCreate (m : Nat) (h : CmdHdr) (index : W64) (baseg : W64) (lastg : W64) (flags : W64) : Statement (.regionCreate m h index baseg lastg flags) := of_wf _
theorem regionRemove (m : Nat) (h : CmdHdr) (index : W64) : Statement (.regionRemove m h index) := of_wf _
theorem regionPerm (m : Nat) (h : CmdHdr) (index : W64) (flags : W64) : Statement (.regionPerm m h index flags) := of_wf _
theorem regionQuery (m : Nat) (h : CmdHdr) (index : W64) : Statement (.regionQuery m h index) := of_wf _
theorem regionGrant (m : Nat) (h : CmdHdr) (baseg : W64) (lastg : W64) (part : W64) (enable : W64) : Statement (.regionGrant m h baseg lastg part enable) := of_wf _
theorem imgLoad (m : Nat) (h : CmdHdr) (src : W64) (len : W64) (index : W64) : Statement (.imgLoad m h src len index) := of_wf _
theorem imgUnload (m : Nat) (h : CmdHdr) (handle : W64) : Statement (.imgUnload m h handle) := of_wf _
theorem imgQuery (m : Nat) (h : CmdHdr) (handle : W64) (resp : W64) : Statement (.imgQuery m h handle resp) := of_wf _
theorem tblLoad (m : Nat) (h : CmdHdr) (tid : W64) (src : W64) : Statement (.tblLoad m h tid src) := of_wf _
theorem partCreate (m : Nat) (h : CmdHdr) (part : W64) (pb : W64) : Statement (.partCreate m h part pb) := of_wf _
theorem partDestroy (m : Nat) (h : CmdHdr) (part : W64) : Statement (.partDestroy m h part) := of_wf _
theorem partAssign (m : Nat) (h : CmdHdr) (part : W64) (pb : W64) : Statement (.partAssign m h part pb) := of_wf _
theorem partConfig (m : Nat) (h : CmdHdr) (part : W64) (pb : W64) : Statement (.partConfig m h part pb) := of_wf _
theorem qpCreate (m : Nat) (h : CmdHdr) (qp : W64) (pb : W64) : Statement (.qpCreate m h qp pb) := of_wf _
theorem qpDestroy (m : Nat) (h : CmdHdr) (qp : W64) : Statement (.qpDestroy m h qp) := of_wf _
theorem qpQuery (m : Nat) (h : CmdHdr) (qp : W64) (resp : W64) : Statement (.qpQuery m h qp resp) := of_wf _
theorem seqQuery (m : Nat) (h : CmdHdr) (entry : W64) (resp : W64) : Statement (.seqQuery m h entry resp) := of_wf _
theorem seqRemove (m : Nat) (h : CmdHdr) (entry : W64) : Statement (.seqRemove m h entry) := of_wf _
theorem seqHold (m : Nat) (h : CmdHdr) (entry : W64) (hold : W64) : Statement (.seqHold m h entry hold) := of_wf _
theorem poolCreate (m : Nat) (h : CmdHdr) (pb : W64) : Statement (.poolCreate m h pb) := of_wf _
theorem poolDestroy (m : Nat) (h : CmdHdr) (pool : W64) : Statement (.poolDestroy m h pool) := of_wf _
theorem pageAlloc (m : Nat) (h : CmdHdr) (pool : W64) (n : W64) (out : W64) : Statement (.pageAlloc m h pool n out) := of_wf _
theorem pageFree (m : Nat) (h : CmdHdr) (pool : W64) (n : W64) (inp : W64) : Statement (.pageFree m h pool n inp) := of_wf _
theorem pmapCreate (m : Nat) (h : CmdHdr) : Statement (.pmapCreate m h) := of_wf _
theorem pmapDestroy (m : Nat) (h : CmdHdr) (map : W64) : Statement (.pmapDestroy m h map) := of_wf _
theorem pmapSetStream (m : Nat) (h : CmdHdr) (map : W64) (stream : W64) (flags : W64) (dirm1 : W64) (coord : W64) (sum : W64) : Statement (.pmapSetStream m h map stream flags dirm1 coord sum) := of_wf _
theorem pmapSetLeaf (m : Nat) (h : CmdHdr) (map : W64) (stream : W64) (lpage0 : W64) (n : W64) (inp : W64) : Statement (.pmapSetLeaf m h map stream lpage0 n inp) := of_wf _
theorem pmapClear (m : Nat) (h : CmdHdr) (map : W64) (stream : W64) (lpage0 : W64) (n : W64) : Statement (.pmapClear m h map stream lpage0 n) := of_wf _
theorem pmapQuery (m : Nat) (h : CmdHdr) (map : W64) : Statement (.pmapQuery m h map) := of_wf _
theorem flashLayout (m : Nat) (h : CmdHdr) (wsize : W64) : Statement (.flashLayout m h wsize) := of_wf _
theorem flashQuery (m : Nat) (h : CmdHdr) (resp : W64) : Statement (.flashQuery m h resp) := of_wf _
theorem tobjCreate (m : Nat) (h : CmdHdr) (sizeg : W64) : Statement (.tobjCreate m h sizeg) := of_wf _
theorem tobjLoad (m : Nat) (h : CmdHdr) (id : W64) (index : W64) (baseg : W64) (flags : W64) : Statement (.tobjLoad m h id index baseg flags) := of_wf _
theorem tobjFlush (m : Nat) (h : CmdHdr) (id : W64) : Statement (.tobjFlush m h id) := of_wf _
theorem tobjEvict (m : Nat) (h : CmdHdr) (id : W64) : Statement (.tobjEvict m h id) := of_wf _
theorem tobjDestroy (m : Nat) (h : CmdHdr) (id : W64) : Statement (.tobjDestroy m h id) := of_wf _
theorem tobjQuery (m : Nat) (h : CmdHdr) (id : W64) : Statement (.tobjQuery m h id) := of_wf _
theorem wpkgOpen (m : Nat) (h : CmdHdr) (total : W64) : Statement (.wpkgOpen m h total) := of_wf _
theorem wpkgWrite (m : Nat) (h : CmdHdr) (handle : W64) (offset : W64) (len : W64) (src : W64) : Statement (.wpkgWrite m h handle offset len src) := of_wf _
theorem wpkgCommit (m : Nat) (h : CmdHdr) (handle : W64) : Statement (.wpkgCommit m h handle) := of_wf _
theorem wpkgDelete (m : Nat) (h : CmdHdr) (handle : W64) : Statement (.wpkgDelete m h handle) := of_wf _
theorem wpkgGrant (m : Nat) (h : CmdHdr) (handle : W64) (part : W64) (enable : W64) : Statement (.wpkgGrant m h handle part enable) := of_wf _
theorem wwinStart (m : Nat) (h : CmdHdr) (win : W64) (desc : W64) : Statement (.wwinStart m h win desc) := of_wf _
theorem wwinStop (m : Nat) (h : CmdHdr) (win : W64) : Statement (.wwinStop m h win) := of_wf _
theorem wwinQuery (m : Nat) (h : CmdHdr) (win : W64) (resp : W64) : Statement (.wwinQuery m h win resp) := of_wf _
theorem snapSet (m : Nat) (h : CmdHdr) (pb : W64) : Statement (.snapSet m h pb) := of_wf _
theorem snapTake (m : Nat) (h : CmdHdr) : Statement (.snapTake m h) := of_wf _
theorem snapList (m : Nat) (h : CmdHdr) (resp : W64) (after : W64) : Statement (.snapList m h resp after) := of_wf _
theorem snapRestore (m : Nat) (h : CmdHdr) (id : W64) : Statement (.snapRestore m h id) := of_wf _
theorem snapDelete (m : Nat) (h : CmdHdr) (id : W64) : Statement (.snapDelete m h id) := of_wf _
theorem snapExport (m : Nat) (h : CmdHdr) (id : W64) (dst : W64) (len : W64) : Statement (.snapExport m h id dst len) := of_wf _
theorem snapImport (m : Nat) (h : CmdHdr) (src : W64) (len : W64) : Statement (.snapImport m h src len) := of_wf _
theorem domConfig (m : Nat) (h : CmdHdr) (pb : W64) : Statement (.domConfig m h pb) := of_wf _
theorem domLeave (m : Nat) (h : CmdHdr) : Statement (.domLeave m h) := of_wf _
theorem linkQuery (m : Nat) (h : CmdHdr) (port : W64) (resp : W64) : Statement (.linkQuery m h port resp) := of_wf _
theorem twinConfig (m : Nat) (h : CmdHdr) (pb : W64) : Statement (.twinConfig m h pb) := of_wf _
theorem ftimeQuery (m : Nat) (h : CmdHdr) : Statement (.ftimeQuery m h) := of_wf _
theorem irsOpen (m : Nat) (h : CmdHdr) (pb : W64) : Statement (.irsOpen m h pb) := of_wf _
theorem irsClose (m : Nat) (h : CmdHdr) (session : W64) : Statement (.irsClose m h session) := of_wf _
theorem irsQuery (m : Nat) (h : CmdHdr) (session : W64) (resp : W64) : Statement (.irsQuery m h session resp) := of_wf _
theorem pwrTimeout (m : Nat) (h : CmdHdr) (offUs : W64) : Statement (.pwrTimeout m h offUs) := of_wf _
theorem pwrModule (m : Nat) (h : CmdHdr) (target : W64) : Statement (.pwrModule m h target) := of_wf _
theorem telSubscribe (m : Nat) (h : CmdHdr) (mask : W64) : Statement (.telSubscribe m h mask) := of_wf _
theorem telRead (m : Nat) (h : CmdHdr) (resp : W64) : Statement (.telRead m h resp) := of_wf _
theorem secKeySet (m : Nat) (h : CmdHdr) (part : W64) (key : W64) : Statement (.secKeySet m h part key) := of_wf _
theorem secSecure (m : Nat) (h : CmdHdr) (part : W64) (enable : W64) : Statement (.secSecure m h part enable) := of_wf _
theorem secAttest (m : Nat) (h : CmdHdr) (nonce : W64) (resp : W64) : Statement (.secAttest m h nonce resp) := of_wf _
theorem diagLog (m : Nat) (h : CmdHdr) (resp : W64) (start : W64) : Statement (.diagLog m h resp start) := of_wf _
theorem diagSelftest (m : Nat) (h : CmdHdr) (unit : W64) : Statement (.diagSelftest m h unit) := of_wf _
theorem diagInject (m : Nat) (h : CmdHdr) (pb : W64) : Statement (.diagInject m h pb) := of_wf _
theorem qeDoorbellWrite (p : Nat) (v : W64) : Statement (.qeDoorbellWrite p v) := of_wf _
theorem launch (q : Nat) : Statement (.launch q) := of_wf _
theorem launchStart (l : Nat) : Statement (.launchStart l) := of_wf _
theorem copy (q : Nat) : Statement (.copy q) := of_wf _
theorem copyDone (q : Nat) (k : Nat) : Statement (.copyDone q k) := of_wf _
theorem addSeq (q : Nat) : Statement (.addSeq q) := of_wf _
theorem step (q : Nat) : Statement (.step q) := of_wf _
theorem fenceEntry (q : Nat) : Statement (.fenceEntry q) := of_wf _
theorem fenceEntryComplete (q : Nat) : Statement (.fenceEntryComplete q) := of_wf _
theorem qpCompletionPost (q : Nat) : Statement (.qpCompletionPost q) := of_wf _
theorem preempt (c : Nat) (l : Nat) : Statement (.preempt c l) := of_wf _
theorem preemptSaveDone (c : Nat) : Statement (.preemptSaveDone c) := of_wf _
theorem preemptRestore (c : Nat) : Statement (.preemptRestore c) := of_wf _
theorem regulatorRefill : Statement (.regulatorRefill) := of_wf _
theorem semHoldRevoke (die : Nat) (ix : Nat) : Statement (.semHoldRevoke die ix) := of_wf _
theorem stepTick (p : Nat) : Statement (.stepTick p) := of_wf _
theorem stepBoundary (p : Nat) : Statement (.stepBoundary p) := of_wf _
theorem stepBarrierOpen (p : Nat) (xor : W64) (due : Bool) (s : Nat) : Statement (.stepBarrierOpen p xor due s) := of_wf _
theorem flitReceive (port : Nat) (f : Flit) : Statement (.flitReceive port f) := of_wf _
theorem flitReplayTimeout (port : Nat) : Statement (.flitReplayTimeout port) := of_wf _
theorem ackTimer (port : Nat) : Statement (.ackTimer port) := of_wf _
theorem portRetrain (port : Nat) (fec : Bool) (failed : Bool) : Statement (.portRetrain port fec failed) := of_wf _
theorem portTrainingDone (port : Nat) (t : TrainInfo) : Statement (.portTrainingDone port t) := of_wf _
theorem syncFlit (port : Nat) (t : W64) : Statement (.syncFlit port t) := of_wf _
theorem fabBarCfgWrite (p : Nat) (die : Nat) (b : Nat) (v : W64) : Statement (.fabBarCfgWrite p die b v) := of_wf _
theorem fabCqCfgWrite (p : Nat) (die : Nat) (q : Nat) (v : W64) : Statement (.fabCqCfgWrite p die q v) := of_wf _
theorem collectiveStart (p : Nat) (die : Nat) (q : Nat) : Statement (.collectiveStart p die q) := of_wf _
theorem chunkReceive (p : Nat) (die : Nat) (q : Nat) (ch : Chunk) : Statement (.chunkReceive p die q ch) := of_wf _
theorem collAbortReceive (p : Nat) (die : Nat) (q : Nat) (peer : Nat) : Statement (.collAbortReceive p die q peer) := of_wf _
theorem collectiveComplete (p : Nat) (die : Nat) (q : Nat) : Statement (.collectiveComplete p die q) := of_wf _
theorem forwardDrain (k : Nat) : Statement (.forwardDrain k) := of_wf _
theorem twinHeartbeat : Statement (.twinHeartbeat) := of_wf _
theorem twinHeartbeatTimeout : Statement (.twinHeartbeatTimeout) := of_wf _
theorem twinWaitTimeout (p : Nat) : Statement (.twinWaitTimeout p) := of_wf _
theorem admissionCountReceive (p : Nat) (ns : List (Nat × Nat)) : Statement (.admissionCountReceive p ns) := of_wf _
theorem stepDigestExchange (p : Nat) (peer : W64) (other : Bool) (due : Bool) (s : Nat) (risk : Nat) : Statement (.stepDigestExchange p peer other due s risk) := of_wf _
theorem replayNotice (p : Nat) (s : Nat) : Statement (.replayNotice p s) := of_wf _
theorem auditRunStart (l : Nat) (u : Nat) : Statement (.auditRunStart l u) := of_wf _
theorem auditRunComplete (l : Nat) (u : Nat) (first : W64) (audit : W64) (third : W64) : Statement (.auditRunComplete l u first audit third) := of_wf _
theorem stepReplay (p : Nat) : Statement (.stepReplay p) := of_wf _
theorem tileReplay (l : Nat) (n : Nat) (x : Nat) : Statement (.tileReplay l n x) := of_wf _
theorem poisonReport (p : Nat) (addr : Nat) : Statement (.poisonReport p addr) := of_wf _
theorem weightRefetchTwin (w : Nat) (image : List Byte) : Statement (.weightRefetchTwin w image) := of_wf _
theorem sramUncorrectable (k : UnitKind) (n : Nat) : Statement (.sramUncorrectable k n) := of_wf _
theorem sramCorrected (k : UnitKind) (n : Nat) : Statement (.sramCorrected k n) := of_wf _
theorem coreWatchdogExpire (c : Nat) : Statement (.coreWatchdogExpire c) := of_wf _
theorem primJobWatchdog (e : Nat) : Statement (.primJobWatchdog e) := of_wf _
theorem unitCheckFailure (k : UnitKind) (n : Nat) : Statement (.unitCheckFailure k n) := of_wf _
theorem quarantine (k : UnitKind) (n : Nat) : Statement (.quarantine k n) := of_wf _
theorem moduleFailure : Statement (.moduleFailure) := of_wf _
theorem riskUpdate (t : Nat) (vin : Nat) (pin : Nat) : Statement (.riskUpdate t vin pin) := of_wf _
theorem riskDecay : Statement (.riskDecay) := of_wf _
theorem shadowCopyBlock (p : Nat) : Statement (.shadowCopyBlock p) := of_wf _
theorem flashSnapshotWrite (p : Nat) : Statement (.flashSnapshotWrite p) := of_wf _
theorem irisDescriptorStart (k : Nat) : Statement (.irisDescriptorStart k) := of_wf _
theorem irisRowDone (k : Nat) : Statement (.irisRowDone k) := of_wf _
theorem irisSliceEmit (k : Nat) : Statement (.irisSliceEmit k) := of_wf _
theorem irisPictureDone (k : Nat) : Statement (.irisPictureDone k) := of_wf _
theorem irisPictureRepeat (k : Nat) : Statement (.irisPictureRepeat k) := of_wf _
theorem flr (p : Nat) : Statement (.flr p) := of_wf _
theorem perstAssert : Statement (.perstAssert) := of_wf _
theorem perstDeassert : Statement (.perstDeassert) := of_wf _
theorem pcieLinkDown : Statement (.pcieLinkDown) := of_wf _
theorem pcieLinkUp : Statement (.pcieLinkUp) := of_wf _
theorem bar4Read (p : Nat) (off : Nat) (n : Nat) : Statement (.bar4Read p off n) := of_wf _
theorem bar4Write (p : Nat) (off : Nat) (bs : List Byte) : Statement (.bar4Write p off bs) := of_wf _
theorem registerWrite (p : Nat) (bar : Nat) (off : Nat) (n : Nat) (v : W64) : Statement (.registerWrite p bar off n v) := of_wf _
theorem msixUnmask (p : Nat) (vec : Nat) : Statement (.msixUnmask p vec) := of_wf _
theorem hostReadFail (w : HostRead) : Statement (.hostReadFail w) := of_wf _
theorem ideIntegrityFail (st : Nat) : Statement (.ideIntegrityFail st) := of_wf _
theorem ideKm (st : Nat) (key : Nat) : Statement (.ideKm st key) := of_wf _
theorem mctpControlMessage (ty : Byte) (body : List Byte) : Statement (.mctpControlMessage ty body) := of_wf _
theorem getSensorReading (id : Nat) : Statement (.getSensorReading id) := of_wf _
theorem setEventReceiver (eid : Nat) : Statement (.setEventReceiver eid) := of_wf _
theorem setStateEffecterStates (id : Nat) (st : Nat) : Statement (.setStateEffecterStates id st) := of_wf _
theorem getFruRecord : Statement (.getFruRecord) := of_wf _
theorem passComponentUpdate (image : List Byte) : Statement (.passComponentUpdate image) := of_wf _
theorem verifyComplete : Statement (.verifyComplete) := of_wf _
theorem activateFirmware (selfContained : Bool) : Statement (.activateFirmware selfContained) := of_wf _
theorem getVersion (peer : List Nat) : Statement (.getVersion peer) := of_wf _
theorem getCertificate (slot : Nat) (off : Nat) (len : Nat) : Statement (.getCertificate slot off len) := of_wf _
theorem challenge (slot : Nat) (nonce : List Byte) : Statement (.challenge slot nonce) := of_wf _
theorem getMeasurements (index : Nat) (nonce : List Byte) : Statement (.getMeasurements index nonce) := of_wf _
theorem keyExchange (slot : Nat) (pub : List Byte) : Statement (.keyExchange slot pub) := of_wf _
theorem coreEnterRetain (k : EngineKind) (n : Nat) : Statement (.coreEnterRetain k n) := of_wf _
theorem coreEnterOff (k : EngineKind) (n : Nat) : Statement (.coreEnterOff k n) := of_wf _
theorem coreWake (k : EngineKind) (n : Nat) : Statement (.coreWake k n) := of_wf _
theorem standbyEntryDone : Statement (.standbyEntryDone) := of_wf _
theorem sleepEntry : Statement (.sleepEntry) := of_wf _
theorem sleepPowerDown : Statement (.sleepPowerDown) := of_wf _
theorem wakeAssert (acted : Bool) (ticks : Nat) : Statement (.wakeAssert acted ticks) := of_wf _
theorem sleepExitDone (b : BootFind) : Statement (.sleepExitDone b) := of_wf _
theorem guardTrip : Statement (.guardTrip) := of_wf _
theorem supplyDroop : Statement (.supplyDroop) := of_wf _
theorem guardReclose : Statement (.guardReclose) := of_wf _
theorem inputLowRelease : Statement (.inputLowRelease) := of_wf _
theorem powerOn (b : BootFind) : Statement (.powerOn b) := of_wf _
theorem startupReady : Statement (.startupReady) := of_wf _
theorem rstAssert (acted : Bool) (ticks : Nat) (b : BootFind) : Statement (.rstAssert acted ticks b) := of_wf _
theorem pwrResetWrite (p : Nat) (n : Nat) (v : W64) : Statement (.pwrResetWrite p n v) := of_wf _
theorem coldResetStart (b : BootFind) : Statement (.coldResetStart b) := of_wf _
theorem pprsntMake (b : BootFind) : Statement (.pprsntMake b) := of_wf _
theorem pprsntBreak : Statement (.pprsntBreak) := of_wf _
theorem thermalStop : Statement (.thermalStop) := of_wf _
theorem thermalSwitchOpen : Statement (.thermalSwitchOpen) := of_wf _
theorem cblPrsChange (k : Nat) (fitted : Bool) : Statement (.cblPrsChange k fitted) := of_wf _
theorem unlistedEntryType (q : Nat) : Statement (.unlistedEntryType q) := of_wf _
theorem twinReplayNotice : Statement (.twinReplayNotice) := of_wf _
theorem configurationRequest (p : Nat) (r : CfgReq) : Statement (.configurationRequest p r) := of_wf _
theorem dynamicAddressAssignment (addr : Nat) : Statement (.dynamicAddressAssignment addr) := of_wf _

end Sys2Proof.Laws.Legal
end

