-- ==== Sys2Proof/Laws/Slot.lean ====
section
/-!
SUPPORT. What the bundle of one slot does when it issues: one lemma for every slot operation.
-/

set_option Elab.async false

namespace Sys2Proof.Machine

/-- A bundle of one slot that issues and whose operation does not end the tile-thread: the operation acts, and the context
goes on at the next bundle or at the branch target. -/
theorem oneSlot_ok {s t : State} {c x : Nat} {h : SlotHdr} {op : SlotOp} (hi : Issues s c x h op)
    (he : slotEffect c x s (oneHeader h op) h op (s.noteIssue c x h.hint.toNat) = .ok t)
    (hn : bundleEnds (s.ctx c x) [(h, op)] = false) :
    oneSlot c x h op s = t.updCtx c x (fun q => { q with pc := nextPc (s.ctx c x) [(h, op)] }) := by
  have hv : ¬(h.var = true ∧ s.varFault c x = true) := fun hc => by
    have := hi.var hc.1
    simp [this] at hc
  unfold oneSlot
  simp only [hi.runs, hi.ready, and_self, if_true]
  unfold State.issue
  simp only [hi.legal]
  rw [show (oneBundle h op).ops = [(h, op)] from rfl, show (oneBundle h op).var = h.var from rfl,
    show (oneBundle h op).header = oneHeader h op from rfl, show (oneBundle h op).hint = h.hint.toNat from rfl]
  simp only [hv, if_false, runSlots, he, hn, Bool.false_eq_true]

/-- A bundle of one slot whose operation faults: the tile-thread ends with the fault and no slot writes (R64). -/
theorem oneSlot_error {s : State} {e : CoreFault} {c x : Nat} {h : SlotHdr} {op : SlotOp} (hi : Issues s c x h op)
    (he : slotEffect c x s (oneHeader h op) h op (s.noteIssue c x h.hint.toNat) = .error e) :
    oneSlot c x h op s = (s.noteIssue c x h.hint.toNat).preciseFault c x e := by
  have hv : ¬(h.var = true ∧ s.varFault c x = true) := fun hc => by
    have := hi.var hc.1
    simp [this] at hc
  unfold oneSlot
  simp only [hi.runs, hi.ready, and_self, if_true]
  unfold State.issue
  simp only [hi.legal]
  rw [show (oneBundle h op).ops = [(h, op)] from rfl, show (oneBundle h op).var = h.var from rfl,
    show (oneBundle h op).header = oneHeader h op from rfl, show (oneBundle h op).hint = h.hint.toNat from rfl]
  simp only [hv, if_false, runSlots, he]

/-- Only a branch or `end` leaves the sequence of bundles. -/
theorem nextPc_seq {k : Ctx} {h : SlotHdr} {op : SlotOp} (hb : ∀ o f, op = .scalar o f → branchTo k o f = none) :
    nextPc k [(h, op)] = k.pc + 128 := by
  unfold nextPc
  cases op with
  | scalar o f => simp [hb o f rfl]
  | _ => simp

theorem bundleEnds_no {k : Ctx} {h : SlotHdr} {op : SlotOp} (hb : ∀ f, op ≠ .scalar .endOp f) : bundleEnds k [(h, op)] = false := by
  unfold bundleEnds
  cases op with
  | scalar o f => cases o <;> simp_all
  | _ => simp

/-- A slot operation that acts on the registers of its context only. -/
theorem oneSlot_stepped {s : State} {c x : Nat} {h : SlotHdr} {op : SlotOp} {f : Ctx → Ctx} (hi : Issues s c x h op)
    (he : slotEffect c x s (oneHeader h op) h op (s.noteIssue c x h.hint.toNat) = .ok ((s.noteIssue c x h.hint.toNat).updCtx c x f))
    (hn : ∀ g, op ≠ .scalar .endOp g) (hb : ∀ o g, op = .scalar o g → branchTo (s.ctx c x) o g = none) :
    oneSlot c x h op s = s.stepped c x h f := by
  rw [oneSlot_ok hi he (bundleEnds_no hn), nextPc_seq hb]
  rfl

end Sys2Proof.Machine
end

