-- ==== Sys2Proof/Laws/State.lean ====
section
/-!
SUPPORT. What each setter of the state leaves alone, field by field, and that what it sets is read back.
-/

set_option Elab.async false

namespace Sys2Proof.Machine

/-! ### setCtx -/

@[simp] theorem State.setCtx_pending (s : State) (c x : Nat) (k : Ctx) : (s.setCtx c x k).pending = s.pending := rfl
@[simp] theorem State.setCtx_time (s : State) (c x : Nat) (k : Ctx) : (s.setCtx c x k).time = s.time := rfl
@[simp] theorem State.setCtx_ftAdj (s : State) (c x : Nat) (k : Ctx) : (s.setCtx c x k).ftAdj = s.ftAdj := rfl
@[simp] theorem State.setCtx_ftTenths (s : State) (c x : Nat) (k : Ctx) : (s.setCtx c x k).ftTenths = s.ftTenths := rfl
@[simp] theorem State.setCtx_fresh (s : State) (c x : Nat) (k : Ctx) : (s.setCtx c x k).fresh = s.fresh := rfl
@[simp] theorem State.setCtx_mem (s : State) (c x : Nat) (k : Ctx) : (s.setCtx c x k).mem = s.mem := rfl
@[simp] theorem State.setCtx_poison (s : State) (c x : Nat) (k : Ctx) : (s.setCtx c x k).poison = s.poison := rfl
@[simp] theorem State.setCtx_host (s : State) (c x : Nat) (k : Ctx) : (s.setCtx c x k).host = s.host := rfl
@[simp] theorem State.setCtx_cores (s : State) (c x : Nat) (k : Ctx) : (s.setCtx c x k).cores = s.cores := rfl
@[simp] theorem State.setCtx_tiles (s : State) (c x : Nat) (k : Ctx) : (s.setCtx c x k).tiles = s.tiles := rfl
@[simp] theorem State.setCtx_sems (s : State) (c x : Nat) (k : Ctx) : (s.setCtx c x k).sems = s.sems := rfl
@[simp] theorem State.setCtx_signals (s : State) (c x : Nat) (k : Ctx) : (s.setCtx c x k).signals = s.signals := rfl
@[simp] theorem State.setCtx_claims (s : State) (c x : Nat) (k : Ctx) : (s.setCtx c x k).claims = s.claims := rfl
@[simp] theorem State.setCtx_parts (s : State) (c x : Nat) (k : Ctx) : (s.setCtx c x k).parts = s.parts := rfl
@[simp] theorem State.setCtx_qps (s : State) (c x : Nat) (k : Ctx) : (s.setCtx c x k).qps = s.qps := rfl
@[simp] theorem State.setCtx_launches (s : State) (c x : Nat) (k : Ctx) : (s.setCtx c x k).launches = s.launches := rfl
@[simp] theorem State.setCtx_nextLaunch (s : State) (c x : Nat) (k : Ctx) : (s.setCtx c x k).nextLaunch = s.nextLaunch := rfl
@[simp] theorem State.setCtx_images (s : State) (c x : Nat) (k : Ctx) : (s.setCtx c x k).images = s.images := rfl
@[simp] theorem State.setCtx_lastImage (s : State) (c x : Nat) (k : Ctx) : (s.setCtx c x k).lastImage = s.lastImage := rfl
@[simp] theorem State.setCtx_seqs (s : State) (c x : Nat) (k : Ctx) : (s.setCtx c x k).seqs = s.seqs := rfl
@[simp] theorem State.setCtx_regions (s : State) (c x : Nat) (k : Ctx) : (s.setCtx c x k).regions = s.regions := rfl
@[simp] theorem State.setCtx_owned (s : State) (c x : Nat) (k : Ctx) : (s.setCtx c x k).owned = s.owned := rfl
@[simp] theorem State.setCtx_hsel (s : State) (c x : Nat) (k : Ctx) : (s.setCtx c x k).hsel = s.hsel := rfl
@[simp] theorem State.setCtx_grants (s : State) (c x : Nat) (k : Ctx) : (s.setCtx c x k).grants = s.grants := rfl
@[simp] theorem State.setCtx_drains (s : State) (c x : Nat) (k : Ctx) : (s.setCtx c x k).drains = s.drains := rfl
@[simp] theorem State.setCtx_dies (s : State) (c x : Nat) (k : Ctx) : (s.setCtx c x k).dies = s.dies := rfl
@[simp] theorem State.setCtx_chans (s : State) (c x : Nat) (k : Ctx) : (s.setCtx c x k).chans = s.chans := rfl
@[simp] theorem State.setCtx_tobjs (s : State) (c x : Nat) (k : Ctx) : (s.setCtx c x k).tobjs = s.tobjs := rfl
@[simp] theorem State.setCtx_lastTobj (s : State) (c x : Nat) (k : Ctx) : (s.setCtx c x k).lastTobj = s.lastTobj := rfl
@[simp] theorem State.setCtx_wpkgs (s : State) (c x : Nat) (k : Ctx) : (s.setCtx c x k).wpkgs = s.wpkgs := rfl
@[simp] theorem State.setCtx_lastWpkg (s : State) (c x : Nat) (k : Ctx) : (s.setCtx c x k).lastWpkg = s.lastWpkg := rfl
@[simp] theorem State.setCtx_wwins (s : State) (c x : Nat) (k : Ctx) : (s.setCtx c x k).wwins = s.wwins := rfl
@[simp] theorem State.setCtx_flash (s : State) (c x : Nat) (k : Ctx) : (s.setCtx c x k).flash = s.flash := rfl
@[simp] theorem State.setCtx_pools (s : State) (c x : Nat) (k : Ctx) : (s.setCtx c x k).pools = s.pools := rfl
@[simp] theorem State.setCtx_maps (s : State) (c x : Nat) (k : Ctx) : (s.setCtx c x k).maps = s.maps := rfl
@[simp] theorem State.setCtx_mapRoom (s : State) (c x : Nat) (k : Ctx) : (s.setCtx c x k).mapRoom = s.mapRoom := rfl
@[simp] theorem State.setCtx_foxes (s : State) (c x : Nat) (k : Ctx) : (s.setCtx c x k).foxes = s.foxes := rfl
@[simp] theorem State.setCtx_prims (s : State) (c x : Nat) (k : Ctx) : (s.setCtx c x k).prims = s.prims := rfl
@[simp] theorem State.setCtx_mbxs (s : State) (c x : Nat) (k : Ctx) : (s.setCtx c x k).mbxs = s.mbxs := rfl
@[simp] theorem State.setCtx_journal (s : State) (c x : Nat) (k : Ctx) : (s.setCtx c x k).journal = s.journal := rfl
@[simp] theorem State.setCtx_turn (s : State) (c x : Nat) (k : Ctx) : (s.setCtx c x k).turn = s.turn := rfl
@[simp] theorem State.setCtx_cpRst (s : State) (c x : Nat) (k : Ctx) : (s.setCtx c x k).cpRst = s.cpRst := rfl
@[simp] theorem State.setCtx_replays (s : State) (c x : Nat) (k : Ctx) : (s.setCtx c x k).replays = s.replays := rfl
@[simp] theorem State.setCtx_ready (s : State) (c x : Nat) (k : Ctx) : (s.setCtx c x k).ready = s.ready := rfl
@[simp] theorem State.setCtx_patch (s : State) (c x : Nat) (k : Ctx) : (s.setCtx c x k).patch = s.patch := rfl
@[simp] theorem State.setCtx_nextPatch (s : State) (c x : Nat) (k : Ctx) : (s.setCtx c x k).nextPatch = s.nextPatch := rfl
@[simp] theorem State.setCtx_funcs (s : State) (c x : Nat) (k : Ctx) : (s.setCtx c x k).funcs = s.funcs := rfl
@[simp] theorem State.setCtx_pkeys (s : State) (c x : Nat) (k : Ctx) : (s.setCtx c x k).pkeys = s.pkeys := rfl
@[simp] theorem State.setCtx_secure (s : State) (c x : Nat) (k : Ctx) : (s.setCtx c x k).secure = s.secure := rfl
@[simp] theorem State.setCtx_linkUp (s : State) (c x : Nat) (k : Ctx) : (s.setCtx c x k).linkUp = s.linkUp := rfl
@[simp] theorem State.setCtx_sent (s : State) (c x : Nat) (k : Ctx) : (s.setCtx c x k).sent = s.sent := rfl
@[simp] theorem State.setCtx_bars (s : State) (c x : Nat) (k : Ctx) : (s.setCtx c x k).bars = s.bars := rfl
@[simp] theorem State.setCtx_runs (s : State) (c x : Nat) (k : Ctx) : (s.setCtx c x k).runs = s.runs := rfl
@[simp] theorem State.setCtx_stepLogs (s : State) (c x : Nat) (k : Ctx) : (s.setCtx c x k).stepLogs = s.stepLogs := rfl
@[simp] theorem State.setCtx_bounds (s : State) (c x : Nat) (k : Ctx) : (s.setCtx c x k).bounds = s.bounds := rfl
@[simp] theorem State.setCtx_copies (s : State) (c x : Nat) (k : Ctx) : (s.setCtx c x k).copies = s.copies := rfl
@[simp] theorem State.setCtx_posted (s : State) (c x : Nat) (k : Ctx) : (s.setCtx c x k).posted = s.posted := rfl
@[simp] theorem State.setCtx_pass0 (s : State) (c x : Nat) (k : Ctx) : (s.setCtx c x k).pass0 = s.pass0 := rfl
@[simp] theorem State.setCtx_health (s : State) (c x : Nat) (k : Ctx) : (s.setCtx c x k).health = s.health := rfl
@[simp] theorem State.setCtx_ports (s : State) (c x : Nat) (k : Ctx) : (s.setCtx c x k).ports = s.ports := rfl
@[simp] theorem State.setCtx_outbox (s : State) (c x : Nat) (k : Ctx) : (s.setCtx c x k).outbox = s.outbox := rfl
@[simp] theorem State.setCtx_lanes (s : State) (c x : Nat) (k : Ctx) : (s.setCtx c x k).lanes = s.lanes := rfl
@[simp] theorem State.setCtx_domain (s : State) (c x : Nat) (k : Ctx) : (s.setCtx c x k).domain = s.domain := rfl
@[simp] theorem State.setCtx_twin (s : State) (c x : Nat) (k : Ctx) : (s.setCtx c x k).twin = s.twin := rfl
@[simp] theorem State.setCtx_fabs (s : State) (c x : Nat) (k : Ctx) : (s.setCtx c x k).fabs = s.fabs := rfl
@[simp] theorem State.setCtx_cqs (s : State) (c x : Nat) (k : Ctx) : (s.setCtx c x k).cqs = s.cqs := rfl
@[simp] theorem State.setCtx_fwds (s : State) (c x : Nat) (k : Ctx) : (s.setCtx c x k).fwds = s.fwds := rfl
@[simp] theorem State.setCtx_snaps (s : State) (c x : Nat) (k : Ctx) : (s.setCtx c x k).snaps = s.snaps := rfl
@[simp] theorem State.setCtx_fsnaps (s : State) (c x : Nat) (k : Ctx) : (s.setCtx c x k).fsnaps = s.fsnaps := rfl
@[simp] theorem State.setCtx_mode (s : State) (c x : Nat) (k : Ctx) : (s.setCtx c x k).mode = s.mode := rfl
@[simp] theorem State.setCtx_pages (s : State) (c x : Nat) (k : Ctx) : (s.setCtx c x k).pages = s.pages := rfl
@[simp] theorem State.setCtx_iris (s : State) (c x : Nat) (k : Ctx) : (s.setCtx c x k).iris = s.iris := rfl
@[simp] theorem State.setCtx_icores (s : State) (c x : Nat) (k : Ctx) : (s.setCtx c x k).icores = s.icores := rfl
@[simp] theorem State.setCtx_board (s : State) (c x : Nat) (k : Ctx) : (s.setCtx c x k).board = s.board := rfl

/-! ### setCore -/

@[simp] theorem State.setCore_pending (s : State) (c : Nat) (k : Core) : (s.setCore c k).pending = s.pending := rfl
@[simp] theorem State.setCore_time (s : State) (c : Nat) (k : Core) : (s.setCore c k).time = s.time := rfl
@[simp] theorem State.setCore_ftAdj (s : State) (c : Nat) (k : Core) : (s.setCore c k).ftAdj = s.ftAdj := rfl
@[simp] theorem State.setCore_ftTenths (s : State) (c : Nat) (k : Core) : (s.setCore c k).ftTenths = s.ftTenths := rfl
@[simp] theorem State.setCore_fresh (s : State) (c : Nat) (k : Core) : (s.setCore c k).fresh = s.fresh := rfl
@[simp] theorem State.setCore_mem (s : State) (c : Nat) (k : Core) : (s.setCore c k).mem = s.mem := rfl
@[simp] theorem State.setCore_poison (s : State) (c : Nat) (k : Core) : (s.setCore c k).poison = s.poison := rfl
@[simp] theorem State.setCore_host (s : State) (c : Nat) (k : Core) : (s.setCore c k).host = s.host := rfl
@[simp] theorem State.setCore_ctxs (s : State) (c : Nat) (k : Core) : (s.setCore c k).ctxs = s.ctxs := rfl
@[simp] theorem State.setCore_tiles (s : State) (c : Nat) (k : Core) : (s.setCore c k).tiles = s.tiles := rfl
@[simp] theorem State.setCore_sems (s : State) (c : Nat) (k : Core) : (s.setCore c k).sems = s.sems := rfl
@[simp] theorem State.setCore_signals (s : State) (c : Nat) (k : Core) : (s.setCore c k).signals = s.signals := rfl
@[simp] theorem State.setCore_claims (s : State) (c : Nat) (k : Core) : (s.setCore c k).claims = s.claims := rfl
@[simp] theorem State.setCore_parts (s : State) (c : Nat) (k : Core) : (s.setCore c k).parts = s.parts := rfl
@[simp] theorem State.setCore_qps (s : State) (c : Nat) (k : Core) : (s.setCore c k).qps = s.qps := rfl
@[simp] theorem State.setCore_launches (s : State) (c : Nat) (k : Core) : (s.setCore c k).launches = s.launches := rfl
@[simp] theorem State.setCore_nextLaunch (s : State) (c : Nat) (k : Core) : (s.setCore c k).nextLaunch = s.nextLaunch := rfl
@[simp] theorem State.setCore_images (s : State) (c : Nat) (k : Core) : (s.setCore c k).images = s.images := rfl
@[simp] theorem State.setCore_lastImage (s : State) (c : Nat) (k : Core) : (s.setCore c k).lastImage = s.lastImage := rfl
@[simp] theorem State.setCore_seqs (s : State) (c : Nat) (k : Core) : (s.setCore c k).seqs = s.seqs := rfl
@[simp] theorem State.setCore_regions (s : State) (c : Nat) (k : Core) : (s.setCore c k).regions = s.regions := rfl
@[simp] theorem State.setCore_owned (s : State) (c : Nat) (k : Core) : (s.setCore c k).owned = s.owned := rfl
@[simp] theorem State.setCore_hsel (s : State) (c : Nat) (k : Core) : (s.setCore c k).hsel = s.hsel := rfl
@[simp] theorem State.setCore_grants (s : State) (c : Nat) (k : Core) : (s.setCore c k).grants = s.grants := rfl
@[simp] theorem State.setCore_drains (s : State) (c : Nat) (k : Core) : (s.setCore c k).drains = s.drains := rfl
@[simp] theorem State.setCore_dies (s : State) (c : Nat) (k : Core) : (s.setCore c k).dies = s.dies := rfl
@[simp] theorem State.setCore_chans (s : State) (c : Nat) (k : Core) : (s.setCore c k).chans = s.chans := rfl
@[simp] theorem State.setCore_tobjs (s : State) (c : Nat) (k : Core) : (s.setCore c k).tobjs = s.tobjs := rfl
@[simp] theorem State.setCore_lastTobj (s : State) (c : Nat) (k : Core) : (s.setCore c k).lastTobj = s.lastTobj := rfl
@[simp] theorem State.setCore_wpkgs (s : State) (c : Nat) (k : Core) : (s.setCore c k).wpkgs = s.wpkgs := rfl
@[simp] theorem State.setCore_lastWpkg (s : State) (c : Nat) (k : Core) : (s.setCore c k).lastWpkg = s.lastWpkg := rfl
@[simp] theorem State.setCore_wwins (s : State) (c : Nat) (k : Core) : (s.setCore c k).wwins = s.wwins := rfl
@[simp] theorem State.setCore_flash (s : State) (c : Nat) (k : Core) : (s.setCore c k).flash = s.flash := rfl
@[simp] theorem State.setCore_pools (s : State) (c : Nat) (k : Core) : (s.setCore c k).pools = s.pools := rfl
@[simp] theorem State.setCore_maps (s : State) (c : Nat) (k : Core) : (s.setCore c k).maps = s.maps := rfl
@[simp] theorem State.setCore_mapRoom (s : State) (c : Nat) (k : Core) : (s.setCore c k).mapRoom = s.mapRoom := rfl
@[simp] theorem State.setCore_foxes (s : State) (c : Nat) (k : Core) : (s.setCore c k).foxes = s.foxes := rfl
@[simp] theorem State.setCore_prims (s : State) (c : Nat) (k : Core) : (s.setCore c k).prims = s.prims := rfl
@[simp] theorem State.setCore_mbxs (s : State) (c : Nat) (k : Core) : (s.setCore c k).mbxs = s.mbxs := rfl
@[simp] theorem State.setCore_journal (s : State) (c : Nat) (k : Core) : (s.setCore c k).journal = s.journal := rfl
@[simp] theorem State.setCore_turn (s : State) (c : Nat) (k : Core) : (s.setCore c k).turn = s.turn := rfl
@[simp] theorem State.setCore_cpRst (s : State) (c : Nat) (k : Core) : (s.setCore c k).cpRst = s.cpRst := rfl
@[simp] theorem State.setCore_replays (s : State) (c : Nat) (k : Core) : (s.setCore c k).replays = s.replays := rfl
@[simp] theorem State.setCore_ready (s : State) (c : Nat) (k : Core) : (s.setCore c k).ready = s.ready := rfl
@[simp] theorem State.setCore_patch (s : State) (c : Nat) (k : Core) : (s.setCore c k).patch = s.patch := rfl
@[simp] theorem State.setCore_nextPatch (s : State) (c : Nat) (k : Core) : (s.setCore c k).nextPatch = s.nextPatch := rfl
@[simp] theorem State.setCore_funcs (s : State) (c : Nat) (k : Core) : (s.setCore c k).funcs = s.funcs := rfl
@[simp] theorem State.setCore_pkeys (s : State) (c : Nat) (k : Core) : (s.setCore c k).pkeys = s.pkeys := rfl
@[simp] theorem State.setCore_secure (s : State) (c : Nat) (k : Core) : (s.setCore c k).secure = s.secure := rfl
@[simp] theorem State.setCore_linkUp (s : State) (c : Nat) (k : Core) : (s.setCore c k).linkUp = s.linkUp := rfl
@[simp] theorem State.setCore_sent (s : State) (c : Nat) (k : Core) : (s.setCore c k).sent = s.sent := rfl
@[simp] theorem State.setCore_bars (s : State) (c : Nat) (k : Core) : (s.setCore c k).bars = s.bars := rfl
@[simp] theorem State.setCore_runs (s : State) (c : Nat) (k : Core) : (s.setCore c k).runs = s.runs := rfl
@[simp] theorem State.setCore_stepLogs (s : State) (c : Nat) (k : Core) : (s.setCore c k).stepLogs = s.stepLogs := rfl
@[simp] theorem State.setCore_bounds (s : State) (c : Nat) (k : Core) : (s.setCore c k).bounds = s.bounds := rfl
@[simp] theorem State.setCore_copies (s : State) (c : Nat) (k : Core) : (s.setCore c k).copies = s.copies := rfl
@[simp] theorem State.setCore_posted (s : State) (c : Nat) (k : Core) : (s.setCore c k).posted = s.posted := rfl
@[simp] theorem State.setCore_pass0 (s : State) (c : Nat) (k : Core) : (s.setCore c k).pass0 = s.pass0 := rfl
@[simp] theorem State.setCore_health (s : State) (c : Nat) (k : Core) : (s.setCore c k).health = s.health := rfl
@[simp] theorem State.setCore_ports (s : State) (c : Nat) (k : Core) : (s.setCore c k).ports = s.ports := rfl
@[simp] theorem State.setCore_outbox (s : State) (c : Nat) (k : Core) : (s.setCore c k).outbox = s.outbox := rfl
@[simp] theorem State.setCore_lanes (s : State) (c : Nat) (k : Core) : (s.setCore c k).lanes = s.lanes := rfl
@[simp] theorem State.setCore_domain (s : State) (c : Nat) (k : Core) : (s.setCore c k).domain = s.domain := rfl
@[simp] theorem State.setCore_twin (s : State) (c : Nat) (k : Core) : (s.setCore c k).twin = s.twin := rfl
@[simp] theorem State.setCore_fabs (s : State) (c : Nat) (k : Core) : (s.setCore c k).fabs = s.fabs := rfl
@[simp] theorem State.setCore_cqs (s : State) (c : Nat) (k : Core) : (s.setCore c k).cqs = s.cqs := rfl
@[simp] theorem State.setCore_fwds (s : State) (c : Nat) (k : Core) : (s.setCore c k).fwds = s.fwds := rfl
@[simp] theorem State.setCore_snaps (s : State) (c : Nat) (k : Core) : (s.setCore c k).snaps = s.snaps := rfl
@[simp] theorem State.setCore_fsnaps (s : State) (c : Nat) (k : Core) : (s.setCore c k).fsnaps = s.fsnaps := rfl
@[simp] theorem State.setCore_mode (s : State) (c : Nat) (k : Core) : (s.setCore c k).mode = s.mode := rfl
@[simp] theorem State.setCore_pages (s : State) (c : Nat) (k : Core) : (s.setCore c k).pages = s.pages := rfl
@[simp] theorem State.setCore_iris (s : State) (c : Nat) (k : Core) : (s.setCore c k).iris = s.iris := rfl
@[simp] theorem State.setCore_icores (s : State) (c : Nat) (k : Core) : (s.setCore c k).icores = s.icores := rfl
@[simp] theorem State.setCore_board (s : State) (c : Nat) (k : Core) : (s.setCore c k).board = s.board := rfl

/-! ### setTile -/

@[simp] theorem State.setTile_pending (s : State) (c x h : Nat) (t : Tile) : (s.setTile c x h t).pending = s.pending := rfl
@[simp] theorem State.setTile_time (s : State) (c x h : Nat) (t : Tile) : (s.setTile c x h t).time = s.time := rfl
@[simp] theorem State.setTile_ftAdj (s : State) (c x h : Nat) (t : Tile) : (s.setTile c x h t).ftAdj = s.ftAdj := rfl
@[simp] theorem State.setTile_ftTenths (s : State) (c x h : Nat) (t : Tile) : (s.setTile c x h t).ftTenths = s.ftTenths := rfl
@[simp] theorem State.setTile_fresh (s : State) (c x h : Nat) (t : Tile) : (s.setTile c x h t).fresh = s.fresh := rfl
@[simp] theorem State.setTile_mem (s : State) (c x h : Nat) (t : Tile) : (s.setTile c x h t).mem = s.mem := rfl
@[simp] theorem State.setTile_poison (s : State) (c x h : Nat) (t : Tile) : (s.setTile c x h t).poison = s.poison := rfl
@[simp] theorem State.setTile_host (s : State) (c x h : Nat) (t : Tile) : (s.setTile c x h t).host = s.host := rfl
@[simp] theorem State.setTile_ctxs (s : State) (c x h : Nat) (t : Tile) : (s.setTile c x h t).ctxs = s.ctxs := rfl
@[simp] theorem State.setTile_cores (s : State) (c x h : Nat) (t : Tile) : (s.setTile c x h t).cores = s.cores := rfl
@[simp] theorem State.setTile_sems (s : State) (c x h : Nat) (t : Tile) : (s.setTile c x h t).sems = s.sems := rfl
@[simp] theorem State.setTile_signals (s : State) (c x h : Nat) (t : Tile) : (s.setTile c x h t).signals = s.signals := rfl
@[simp] theorem State.setTile_claims (s : State) (c x h : Nat) (t : Tile) : (s.setTile c x h t).claims = s.claims := rfl
@[simp] theorem State.setTile_parts (s : State) (c x h : Nat) (t : Tile) : (s.setTile c x h t).parts = s.parts := rfl
@[simp] theorem State.setTile_qps (s : State) (c x h : Nat) (t : Tile) : (s.setTile c x h t).qps = s.qps := rfl
@[simp] theorem State.setTile_launches (s : State) (c x h : Nat) (t : Tile) : (s.setTile c x h t).launches = s.launches := rfl
@[simp] theorem State.setTile_nextLaunch (s : State) (c x h : Nat) (t : Tile) : (s.setTile c x h t).nextLaunch = s.nextLaunch := rfl
@[simp] theorem State.setTile_images (s : State) (c x h : Nat) (t : Tile) : (s.setTile c x h t).images = s.images := rfl
@[simp] theorem State.setTile_lastImage (s : State) (c x h : Nat) (t : Tile) : (s.setTile c x h t).lastImage = s.lastImage := rfl
@[simp] theorem State.setTile_seqs (s : State) (c x h : Nat) (t : Tile) : (s.setTile c x h t).seqs = s.seqs := rfl
@[simp] theorem State.setTile_regions (s : State) (c x h : Nat) (t : Tile) : (s.setTile c x h t).regions = s.regions := rfl
@[simp] theorem State.setTile_owned (s : State) (c x h : Nat) (t : Tile) : (s.setTile c x h t).owned = s.owned := rfl
@[simp] theorem State.setTile_hsel (s : State) (c x h : Nat) (t : Tile) : (s.setTile c x h t).hsel = s.hsel := rfl
@[simp] theorem State.setTile_grants (s : State) (c x h : Nat) (t : Tile) : (s.setTile c x h t).grants = s.grants := rfl
@[simp] theorem State.setTile_drains (s : State) (c x h : Nat) (t : Tile) : (s.setTile c x h t).drains = s.drains := rfl
@[simp] theorem State.setTile_dies (s : State) (c x h : Nat) (t : Tile) : (s.setTile c x h t).dies = s.dies := rfl
@[simp] theorem State.setTile_chans (s : State) (c x h : Nat) (t : Tile) : (s.setTile c x h t).chans = s.chans := rfl
@[simp] theorem State.setTile_tobjs (s : State) (c x h : Nat) (t : Tile) : (s.setTile c x h t).tobjs = s.tobjs := rfl
@[simp] theorem State.setTile_lastTobj (s : State) (c x h : Nat) (t : Tile) : (s.setTile c x h t).lastTobj = s.lastTobj := rfl
@[simp] theorem State.setTile_wpkgs (s : State) (c x h : Nat) (t : Tile) : (s.setTile c x h t).wpkgs = s.wpkgs := rfl
@[simp] theorem State.setTile_lastWpkg (s : State) (c x h : Nat) (t : Tile) : (s.setTile c x h t).lastWpkg = s.lastWpkg := rfl
@[simp] theorem State.setTile_wwins (s : State) (c x h : Nat) (t : Tile) : (s.setTile c x h t).wwins = s.wwins := rfl
@[simp] theorem State.setTile_flash (s : State) (c x h : Nat) (t : Tile) : (s.setTile c x h t).flash = s.flash := rfl
@[simp] theorem State.setTile_pools (s : State) (c x h : Nat) (t : Tile) : (s.setTile c x h t).pools = s.pools := rfl
@[simp] theorem State.setTile_maps (s : State) (c x h : Nat) (t : Tile) : (s.setTile c x h t).maps = s.maps := rfl
@[simp] theorem State.setTile_mapRoom (s : State) (c x h : Nat) (t : Tile) : (s.setTile c x h t).mapRoom = s.mapRoom := rfl
@[simp] theorem State.setTile_foxes (s : State) (c x h : Nat) (t : Tile) : (s.setTile c x h t).foxes = s.foxes := rfl
@[simp] theorem State.setTile_prims (s : State) (c x h : Nat) (t : Tile) : (s.setTile c x h t).prims = s.prims := rfl
@[simp] theorem State.setTile_mbxs (s : State) (c x h : Nat) (t : Tile) : (s.setTile c x h t).mbxs = s.mbxs := rfl
@[simp] theorem State.setTile_journal (s : State) (c x h : Nat) (t : Tile) : (s.setTile c x h t).journal = s.journal := rfl
@[simp] theorem State.setTile_turn (s : State) (c x h : Nat) (t : Tile) : (s.setTile c x h t).turn = s.turn := rfl
@[simp] theorem State.setTile_cpRst (s : State) (c x h : Nat) (t : Tile) : (s.setTile c x h t).cpRst = s.cpRst := rfl
@[simp] theorem State.setTile_replays (s : State) (c x h : Nat) (t : Tile) : (s.setTile c x h t).replays = s.replays := rfl
@[simp] theorem State.setTile_ready (s : State) (c x h : Nat) (t : Tile) : (s.setTile c x h t).ready = s.ready := rfl
@[simp] theorem State.setTile_patch (s : State) (c x h : Nat) (t : Tile) : (s.setTile c x h t).patch = s.patch := rfl
@[simp] theorem State.setTile_nextPatch (s : State) (c x h : Nat) (t : Tile) : (s.setTile c x h t).nextPatch = s.nextPatch := rfl
@[simp] theorem State.setTile_funcs (s : State) (c x h : Nat) (t : Tile) : (s.setTile c x h t).funcs = s.funcs := rfl
@[simp] theorem State.setTile_pkeys (s : State) (c x h : Nat) (t : Tile) : (s.setTile c x h t).pkeys = s.pkeys := rfl
@[simp] theorem State.setTile_secure (s : State) (c x h : Nat) (t : Tile) : (s.setTile c x h t).secure = s.secure := rfl
@[simp] theorem State.setTile_linkUp (s : State) (c x h : Nat) (t : Tile) : (s.setTile c x h t).linkUp = s.linkUp := rfl
@[simp] theorem State.setTile_sent (s : State) (c x h : Nat) (t : Tile) : (s.setTile c x h t).sent = s.sent := rfl
@[simp] theorem State.setTile_bars (s : State) (c x h : Nat) (t : Tile) : (s.setTile c x h t).bars = s.bars := rfl
@[simp] theorem State.setTile_runs (s : State) (c x h : Nat) (t : Tile) : (s.setTile c x h t).runs = s.runs := rfl
@[simp] theorem State.setTile_stepLogs (s : State) (c x h : Nat) (t : Tile) : (s.setTile c x h t).stepLogs = s.stepLogs := rfl
@[simp] theorem State.setTile_bounds (s : State) (c x h : Nat) (t : Tile) : (s.setTile c x h t).bounds = s.bounds := rfl
@[simp] theorem State.setTile_copies (s : State) (c x h : Nat) (t : Tile) : (s.setTile c x h t).copies = s.copies := rfl
@[simp] theorem State.setTile_posted (s : State) (c x h : Nat) (t : Tile) : (s.setTile c x h t).posted = s.posted := rfl
@[simp] theorem State.setTile_pass0 (s : State) (c x h : Nat) (t : Tile) : (s.setTile c x h t).pass0 = s.pass0 := rfl
@[simp] theorem State.setTile_health (s : State) (c x h : Nat) (t : Tile) : (s.setTile c x h t).health = s.health := rfl
@[simp] theorem State.setTile_ports (s : State) (c x h : Nat) (t : Tile) : (s.setTile c x h t).ports = s.ports := rfl
@[simp] theorem State.setTile_outbox (s : State) (c x h : Nat) (t : Tile) : (s.setTile c x h t).outbox = s.outbox := rfl
@[simp] theorem State.setTile_lanes (s : State) (c x h : Nat) (t : Tile) : (s.setTile c x h t).lanes = s.lanes := rfl
@[simp] theorem State.setTile_domain (s : State) (c x h : Nat) (t : Tile) : (s.setTile c x h t).domain = s.domain := rfl
@[simp] theorem State.setTile_twin (s : State) (c x h : Nat) (t : Tile) : (s.setTile c x h t).twin = s.twin := rfl
@[simp] theorem State.setTile_fabs (s : State) (c x h : Nat) (t : Tile) : (s.setTile c x h t).fabs = s.fabs := rfl
@[simp] theorem State.setTile_cqs (s : State) (c x h : Nat) (t : Tile) : (s.setTile c x h t).cqs = s.cqs := rfl
@[simp] theorem State.setTile_fwds (s : State) (c x h : Nat) (t : Tile) : (s.setTile c x h t).fwds = s.fwds := rfl
@[simp] theorem State.setTile_snaps (s : State) (c x h : Nat) (t : Tile) : (s.setTile c x h t).snaps = s.snaps := rfl
@[simp] theorem State.setTile_fsnaps (s : State) (c x h : Nat) (t : Tile) : (s.setTile c x h t).fsnaps = s.fsnaps := rfl
@[simp] theorem State.setTile_mode (s : State) (c x h : Nat) (t : Tile) : (s.setTile c x h t).mode = s.mode := rfl
@[simp] theorem State.setTile_pages (s : State) (c x h : Nat) (t : Tile) : (s.setTile c x h t).pages = s.pages := rfl
@[simp] theorem State.setTile_iris (s : State) (c x h : Nat) (t : Tile) : (s.setTile c x h t).iris = s.iris := rfl
@[simp] theorem State.setTile_icores (s : State) (c x h : Nat) (t : Tile) : (s.setTile c x h t).icores = s.icores := rfl
@[simp] theorem State.setTile_board (s : State) (c x h : Nat) (t : Tile) : (s.setTile c x h t).board = s.board := rfl

/-! ### updLaunch -/

@[simp] theorem State.updLaunch_pending (s : State) (l : Nat) (f : Launch → Launch) : (s.updLaunch l f).pending = s.pending := rfl
@[simp] theorem State.updLaunch_time (s : State) (l : Nat) (f : Launch → Launch) : (s.updLaunch l f).time = s.time := rfl
@[simp] theorem State.updLaunch_ftAdj (s : State) (l : Nat) (f : Launch → Launch) : (s.updLaunch l f).ftAdj = s.ftAdj := rfl
@[simp] theorem State.updLaunch_ftTenths (s : State) (l : Nat) (f : Launch → Launch) : (s.updLaunch l f).ftTenths = s.ftTenths := rfl
@[simp] theorem State.updLaunch_fresh (s : State) (l : Nat) (f : Launch → Launch) : (s.updLaunch l f).fresh = s.fresh := rfl
@[simp] theorem State.updLaunch_mem (s : State) (l : Nat) (f : Launch → Launch) : (s.updLaunch l f).mem = s.mem := rfl
@[simp] theorem State.updLaunch_poison (s : State) (l : Nat) (f : Launch → Launch) : (s.updLaunch l f).poison = s.poison := rfl
@[simp] theorem State.updLaunch_host (s : State) (l : Nat) (f : Launch → Launch) : (s.updLaunch l f).host = s.host := rfl
@[simp] theorem State.updLaunch_ctxs (s : State) (l : Nat) (f : Launch → Launch) : (s.updLaunch l f).ctxs = s.ctxs := rfl
@[simp] theorem State.updLaunch_cores (s : State) (l : Nat) (f : Launch → Launch) : (s.updLaunch l f).cores = s.cores := rfl
@[simp] theorem State.updLaunch_tiles (s : State) (l : Nat) (f : Launch → Launch) : (s.updLaunch l f).tiles = s.tiles := rfl
@[simp] theorem State.updLaunch_sems (s : State) (l : Nat) (f : Launch → Launch) : (s.updLaunch l f).sems = s.sems := rfl
@[simp] theorem State.updLaunch_signals (s : State) (l : Nat) (f : Launch → Launch) : (s.updLaunch l f).signals = s.signals := rfl
@[simp] theorem State.updLaunch_claims (s : State) (l : Nat) (f : Launch → Launch) : (s.updLaunch l f).claims = s.claims := rfl
@[simp] theorem State.updLaunch_parts (s : State) (l : Nat) (f : Launch → Launch) : (s.updLaunch l f).parts = s.parts := rfl
@[simp] theorem State.updLaunch_qps (s : State) (l : Nat) (f : Launch → Launch) : (s.updLaunch l f).qps = s.qps := rfl
@[simp] theorem State.updLaunch_nextLaunch (s : State) (l : Nat) (f : Launch → Launch) : (s.updLaunch l f).nextLaunch = s.nextLaunch := rfl
@[simp] theorem State.updLaunch_images (s : State) (l : Nat) (f : Launch → Launch) : (s.updLaunch l f).images = s.images := rfl
@[simp] theorem State.updLaunch_lastImage (s : State) (l : Nat) (f : Launch → Launch) : (s.updLaunch l f).lastImage = s.lastImage := rfl
@[simp] theorem State.updLaunch_seqs (s : State) (l : Nat) (f : Launch → Launch) : (s.updLaunch l f).seqs = s.seqs := rfl
@[simp] theorem State.updLaunch_regions (s : State) (l : Nat) (f : Launch → Launch) : (s.updLaunch l f).regions = s.regions := rfl
@[simp] theorem State.updLaunch_owned (s : State) (l : Nat) (f : Launch → Launch) : (s.updLaunch l f).owned = s.owned := rfl
@[simp] theorem State.updLaunch_hsel (s : State) (l : Nat) (f : Launch → Launch) : (s.updLaunch l f).hsel = s.hsel := rfl
@[simp] theorem State.updLaunch_grants (s : State) (l : Nat) (f : Launch → Launch) : (s.updLaunch l f).grants = s.grants := rfl
@[simp] theorem State.updLaunch_drains (s : State) (l : Nat) (f : Launch → Launch) : (s.updLaunch l f).drains = s.drains := rfl
@[simp] theorem State.updLaunch_dies (s : State) (l : Nat) (f : Launch → Launch) : (s.updLaunch l f).dies = s.dies := rfl
@[simp] theorem State.updLaunch_chans (s : State) (l : Nat) (f : Launch → Launch) : (s.updLaunch l f).chans = s.chans := rfl
@[simp] theorem State.updLaunch_tobjs (s : State) (l : Nat) (f : Launch → Launch) : (s.updLaunch l f).tobjs = s.tobjs := rfl
@[simp] theorem State.updLaunch_lastTobj (s : State) (l : Nat) (f : Launch → Launch) : (s.updLaunch l f).lastTobj = s.lastTobj := rfl
@[simp] theorem State.updLaunch_wpkgs (s : State) (l : Nat) (f : Launch → Launch) : (s.updLaunch l f).wpkgs = s.wpkgs := rfl
@[simp] theorem State.updLaunch_lastWpkg (s : State) (l : Nat) (f : Launch → Launch) : (s.updLaunch l f).lastWpkg = s.lastWpkg := rfl
@[simp] theorem State.updLaunch_wwins (s : State) (l : Nat) (f : Launch → Launch) : (s.updLaunch l f).wwins = s.wwins := rfl
@[simp] theorem State.updLaunch_flash (s : State) (l : Nat) (f : Launch → Launch) : (s.updLaunch l f).flash = s.flash := rfl
@[simp] theorem State.updLaunch_pools (s : State) (l : Nat) (f : Launch → Launch) : (s.updLaunch l f).pools = s.pools := rfl
@[simp] theorem State.updLaunch_maps (s : State) (l : Nat) (f : Launch → Launch) : (s.updLaunch l f).maps = s.maps := rfl
@[simp] theorem State.updLaunch_mapRoom (s : State) (l : Nat) (f : Launch → Launch) : (s.updLaunch l f).mapRoom = s.mapRoom := rfl
@[simp] theorem State.updLaunch_foxes (s : State) (l : Nat) (f : Launch → Launch) : (s.updLaunch l f).foxes = s.foxes := rfl
@[simp] theorem State.updLaunch_prims (s : State) (l : Nat) (f : Launch → Launch) : (s.updLaunch l f).prims = s.prims := rfl
@[simp] theorem State.updLaunch_mbxs (s : State) (l : Nat) (f : Launch → Launch) : (s.updLaunch l f).mbxs = s.mbxs := rfl
@[simp] theorem State.updLaunch_journal (s : State) (l : Nat) (f : Launch → Launch) : (s.updLaunch l f).journal = s.journal := rfl
@[simp] theorem State.updLaunch_turn (s : State) (l : Nat) (f : Launch → Launch) : (s.updLaunch l f).turn = s.turn := rfl
@[simp] theorem State.updLaunch_cpRst (s : State) (l : Nat) (f : Launch → Launch) : (s.updLaunch l f).cpRst = s.cpRst := rfl
@[simp] theorem State.updLaunch_replays (s : State) (l : Nat) (f : Launch → Launch) : (s.updLaunch l f).replays = s.replays := rfl
@[simp] theorem State.updLaunch_ready (s : State) (l : Nat) (f : Launch → Launch) : (s.updLaunch l f).ready = s.ready := rfl
@[simp] theorem State.updLaunch_patch (s : State) (l : Nat) (f : Launch → Launch) : (s.updLaunch l f).patch = s.patch := rfl
@[simp] theorem State.updLaunch_nextPatch (s : State) (l : Nat) (f : Launch → Launch) : (s.updLaunch l f).nextPatch = s.nextPatch := rfl
@[simp] theorem State.updLaunch_funcs (s : State) (l : Nat) (f : Launch → Launch) : (s.updLaunch l f).funcs = s.funcs := rfl
@[simp] theorem State.updLaunch_pkeys (s : State) (l : Nat) (f : Launch → Launch) : (s.updLaunch l f).pkeys = s.pkeys := rfl
@[simp] theorem State.updLaunch_secure (s : State) (l : Nat) (f : Launch → Launch) : (s.updLaunch l f).secure = s.secure := rfl
@[simp] theorem State.updLaunch_linkUp (s : State) (l : Nat) (f : Launch → Launch) : (s.updLaunch l f).linkUp = s.linkUp := rfl
@[simp] theorem State.updLaunch_sent (s : State) (l : Nat) (f : Launch → Launch) : (s.updLaunch l f).sent = s.sent := rfl
@[simp] theorem State.updLaunch_bars (s : State) (l : Nat) (f : Launch → Launch) : (s.updLaunch l f).bars = s.bars := rfl
@[simp] theorem State.updLaunch_runs (s : State) (l : Nat) (f : Launch → Launch) : (s.updLaunch l f).runs = s.runs := rfl
@[simp] theorem State.updLaunch_stepLogs (s : State) (l : Nat) (f : Launch → Launch) : (s.updLaunch l f).stepLogs = s.stepLogs := rfl
@[simp] theorem State.updLaunch_bounds (s : State) (l : Nat) (f : Launch → Launch) : (s.updLaunch l f).bounds = s.bounds := rfl
@[simp] theorem State.updLaunch_copies (s : State) (l : Nat) (f : Launch → Launch) : (s.updLaunch l f).copies = s.copies := rfl
@[simp] theorem State.updLaunch_posted (s : State) (l : Nat) (f : Launch → Launch) : (s.updLaunch l f).posted = s.posted := rfl
@[simp] theorem State.updLaunch_pass0 (s : State) (l : Nat) (f : Launch → Launch) : (s.updLaunch l f).pass0 = s.pass0 := rfl
@[simp] theorem State.updLaunch_health (s : State) (l : Nat) (f : Launch → Launch) : (s.updLaunch l f).health = s.health := rfl
@[simp] theorem State.updLaunch_ports (s : State) (l : Nat) (f : Launch → Launch) : (s.updLaunch l f).ports = s.ports := rfl
@[simp] theorem State.updLaunch_outbox (s : State) (l : Nat) (f : Launch → Launch) : (s.updLaunch l f).outbox = s.outbox := rfl
@[simp] theorem State.updLaunch_lanes (s : State) (l : Nat) (f : Launch → Launch) : (s.updLaunch l f).lanes = s.lanes := rfl
@[simp] theorem State.updLaunch_domain (s : State) (l : Nat) (f : Launch → Launch) : (s.updLaunch l f).domain = s.domain := rfl
@[simp] theorem State.updLaunch_twin (s : State) (l : Nat) (f : Launch → Launch) : (s.updLaunch l f).twin = s.twin := rfl
@[simp] theorem State.updLaunch_fabs (s : State) (l : Nat) (f : Launch → Launch) : (s.updLaunch l f).fabs = s.fabs := rfl
@[simp] theorem State.updLaunch_cqs (s : State) (l : Nat) (f : Launch → Launch) : (s.updLaunch l f).cqs = s.cqs := rfl
@[simp] theorem State.updLaunch_fwds (s : State) (l : Nat) (f : Launch → Launch) : (s.updLaunch l f).fwds = s.fwds := rfl
@[simp] theorem State.updLaunch_snaps (s : State) (l : Nat) (f : Launch → Launch) : (s.updLaunch l f).snaps = s.snaps := rfl
@[simp] theorem State.updLaunch_fsnaps (s : State) (l : Nat) (f : Launch → Launch) : (s.updLaunch l f).fsnaps = s.fsnaps := rfl
@[simp] theorem State.updLaunch_mode (s : State) (l : Nat) (f : Launch → Launch) : (s.updLaunch l f).mode = s.mode := rfl
@[simp] theorem State.updLaunch_pages (s : State) (l : Nat) (f : Launch → Launch) : (s.updLaunch l f).pages = s.pages := rfl
@[simp] theorem State.updLaunch_iris (s : State) (l : Nat) (f : Launch → Launch) : (s.updLaunch l f).iris = s.iris := rfl
@[simp] theorem State.updLaunch_icores (s : State) (l : Nat) (f : Launch → Launch) : (s.updLaunch l f).icores = s.icores := rfl
@[simp] theorem State.updLaunch_board (s : State) (l : Nat) (f : Launch → Launch) : (s.updLaunch l f).board = s.board := rfl

/-! ### updPart -/

@[simp] theorem State.updPart_pending (s : State) (p : Nat) (f : Part → Part) : (s.updPart p f).pending = s.pending := rfl
@[simp] theorem State.updPart_time (s : State) (p : Nat) (f : Part → Part) : (s.updPart p f).time = s.time := rfl
@[simp] theorem State.updPart_ftAdj (s : State) (p : Nat) (f : Part → Part) : (s.updPart p f).ftAdj = s.ftAdj := rfl
@[simp] theorem State.updPart_ftTenths (s : State) (p : Nat) (f : Part → Part) : (s.updPart p f).ftTenths = s.ftTenths := rfl
@[simp] theorem State.updPart_fresh (s : State) (p : Nat) (f : Part → Part) : (s.updPart p f).fresh = s.fresh := rfl
@[simp] theorem State.updPart_mem (s : State) (p : Nat) (f : Part → Part) : (s.updPart p f).mem = s.mem := rfl
@[simp] theorem State.updPart_poison (s : State) (p : Nat) (f : Part → Part) : (s.updPart p f).poison = s.poison := rfl
@[simp] theorem State.updPart_host (s : State) (p : Nat) (f : Part → Part) : (s.updPart p f).host = s.host := rfl
@[simp] theorem State.updPart_ctxs (s : State) (p : Nat) (f : Part → Part) : (s.updPart p f).ctxs = s.ctxs := rfl
@[simp] theorem State.updPart_cores (s : State) (p : Nat) (f : Part → Part) : (s.updPart p f).cores = s.cores := rfl
@[simp] theorem State.updPart_tiles (s : State) (p : Nat) (f : Part → Part) : (s.updPart p f).tiles = s.tiles := rfl
@[simp] theorem State.updPart_sems (s : State) (p : Nat) (f : Part → Part) : (s.updPart p f).sems = s.sems := rfl
@[simp] theorem State.updPart_signals (s : State) (p : Nat) (f : Part → Part) : (s.updPart p f).signals = s.signals := rfl
@[simp] theorem State.updPart_claims (s : State) (p : Nat) (f : Part → Part) : (s.updPart p f).claims = s.claims := rfl
@[simp] theorem State.updPart_qps (s : State) (p : Nat) (f : Part → Part) : (s.updPart p f).qps = s.qps := rfl
@[simp] theorem State.updPart_launches (s : State) (p : Nat) (f : Part → Part) : (s.updPart p f).launches = s.launches := rfl
@[simp] theorem State.updPart_nextLaunch (s : State) (p : Nat) (f : Part → Part) : (s.updPart p f).nextLaunch = s.nextLaunch := rfl
@[simp] theorem State.updPart_images (s : State) (p : Nat) (f : Part → Part) : (s.updPart p f).images = s.images := rfl
@[simp] theorem State.updPart_lastImage (s : State) (p : Nat) (f : Part → Part) : (s.updPart p f).lastImage = s.lastImage := rfl
@[simp] theorem State.updPart_seqs (s : State) (p : Nat) (f : Part → Part) : (s.updPart p f).seqs = s.seqs := rfl
@[simp] theorem State.updPart_regions (s : State) (p : Nat) (f : Part → Part) : (s.updPart p f).regions = s.regions := rfl
@[simp] theorem State.updPart_owned (s : State) (p : Nat) (f : Part → Part) : (s.updPart p f).owned = s.owned := rfl
@[simp] theorem State.updPart_hsel (s : State) (p : Nat) (f : Part → Part) : (s.updPart p f).hsel = s.hsel := rfl
@[simp] theorem State.updPart_grants (s : State) (p : Nat) (f : Part → Part) : (s.updPart p f).grants = s.grants := rfl
@[simp] theorem State.updPart_drains (s : State) (p : Nat) (f : Part → Part) : (s.updPart p f).drains = s.drains := rfl
@[simp] theorem State.updPart_dies (s : State) (p : Nat) (f : Part → Part) : (s.updPart p f).dies = s.dies := rfl
@[simp] theorem State.updPart_chans (s : State) (p : Nat) (f : Part → Part) : (s.updPart p f).chans = s.chans := rfl
@[simp] theorem State.updPart_tobjs (s : State) (p : Nat) (f : Part → Part) : (s.updPart p f).tobjs = s.tobjs := rfl
@[simp] theorem State.updPart_lastTobj (s : State) (p : Nat) (f : Part → Part) : (s.updPart p f).lastTobj = s.lastTobj := rfl
@[simp] theorem State.updPart_wpkgs (s : State) (p : Nat) (f : Part → Part) : (s.updPart p f).wpkgs = s.wpkgs := rfl
@[simp] theorem State.updPart_lastWpkg (s : State) (p : Nat) (f : Part → Part) : (s.updPart p f).lastWpkg = s.lastWpkg := rfl
@[simp] theorem State.updPart_wwins (s : State) (p : Nat) (f : Part → Part) : (s.updPart p f).wwins = s.wwins := rfl
@[simp] theorem State.updPart_flash (s : State) (p : Nat) (f : Part → Part) : (s.updPart p f).flash = s.flash := rfl
@[simp] theorem State.updPart_pools (s : State) (p : Nat) (f : Part → Part) : (s.updPart p f).pools = s.pools := rfl
@[simp] theorem State.updPart_maps (s : State) (p : Nat) (f : Part → Part) : (s.updPart p f).maps = s.maps := rfl
@[simp] theorem State.updPart_mapRoom (s : State) (p : Nat) (f : Part → Part) : (s.updPart p f).mapRoom = s.mapRoom := rfl
@[simp] theorem State.updPart_foxes (s : State) (p : Nat) (f : Part → Part) : (s.updPart p f).foxes = s.foxes := rfl
@[simp] theorem State.updPart_prims (s : State) (p : Nat) (f : Part → Part) : (s.updPart p f).prims = s.prims := rfl
@[simp] theorem State.updPart_mbxs (s : State) (p : Nat) (f : Part → Part) : (s.updPart p f).mbxs = s.mbxs := rfl
@[simp] theorem State.updPart_journal (s : State) (p : Nat) (f : Part → Part) : (s.updPart p f).journal = s.journal := rfl
@[simp] theorem State.updPart_turn (s : State) (p : Nat) (f : Part → Part) : (s.updPart p f).turn = s.turn := rfl
@[simp] theorem State.updPart_cpRst (s : State) (p : Nat) (f : Part → Part) : (s.updPart p f).cpRst = s.cpRst := rfl
@[simp] theorem State.updPart_replays (s : State) (p : Nat) (f : Part → Part) : (s.updPart p f).replays = s.replays := rfl
@[simp] theorem State.updPart_ready (s : State) (p : Nat) (f : Part → Part) : (s.updPart p f).ready = s.ready := rfl
@[simp] theorem State.updPart_patch (s : State) (p : Nat) (f : Part → Part) : (s.updPart p f).patch = s.patch := rfl
@[simp] theorem State.updPart_nextPatch (s : State) (p : Nat) (f : Part → Part) : (s.updPart p f).nextPatch = s.nextPatch := rfl
@[simp] theorem State.updPart_funcs (s : State) (p : Nat) (f : Part → Part) : (s.updPart p f).funcs = s.funcs := rfl
@[simp] theorem State.updPart_pkeys (s : State) (p : Nat) (f : Part → Part) : (s.updPart p f).pkeys = s.pkeys := rfl
@[simp] theorem State.updPart_secure (s : State) (p : Nat) (f : Part → Part) : (s.updPart p f).secure = s.secure := rfl
@[simp] theorem State.updPart_linkUp (s : State) (p : Nat) (f : Part → Part) : (s.updPart p f).linkUp = s.linkUp := rfl
@[simp] theorem State.updPart_sent (s : State) (p : Nat) (f : Part → Part) : (s.updPart p f).sent = s.sent := rfl
@[simp] theorem State.updPart_bars (s : State) (p : Nat) (f : Part → Part) : (s.updPart p f).bars = s.bars := rfl
@[simp] theorem State.updPart_runs (s : State) (p : Nat) (f : Part → Part) : (s.updPart p f).runs = s.runs := rfl
@[simp] theorem State.updPart_stepLogs (s : State) (p : Nat) (f : Part → Part) : (s.updPart p f).stepLogs = s.stepLogs := rfl
@[simp] theorem State.updPart_bounds (s : State) (p : Nat) (f : Part → Part) : (s.updPart p f).bounds = s.bounds := rfl
@[simp] theorem State.updPart_copies (s : State) (p : Nat) (f : Part → Part) : (s.updPart p f).copies = s.copies := rfl
@[simp] theorem State.updPart_posted (s : State) (p : Nat) (f : Part → Part) : (s.updPart p f).posted = s.posted := rfl
@[simp] theorem State.updPart_pass0 (s : State) (p : Nat) (f : Part → Part) : (s.updPart p f).pass0 = s.pass0 := rfl
@[simp] theorem State.updPart_health (s : State) (p : Nat) (f : Part → Part) : (s.updPart p f).health = s.health := rfl
@[simp] theorem State.updPart_ports (s : State) (p : Nat) (f : Part → Part) : (s.updPart p f).ports = s.ports := rfl
@[simp] theorem State.updPart_outbox (s : State) (p : Nat) (f : Part → Part) : (s.updPart p f).outbox = s.outbox := rfl
@[simp] theorem State.updPart_lanes (s : State) (p : Nat) (f : Part → Part) : (s.updPart p f).lanes = s.lanes := rfl
@[simp] theorem State.updPart_domain (s : State) (p : Nat) (f : Part → Part) : (s.updPart p f).domain = s.domain := rfl
@[simp] theorem State.updPart_twin (s : State) (p : Nat) (f : Part → Part) : (s.updPart p f).twin = s.twin := rfl
@[simp] theorem State.updPart_fabs (s : State) (p : Nat) (f : Part → Part) : (s.updPart p f).fabs = s.fabs := rfl
@[simp] theorem State.updPart_cqs (s : State) (p : Nat) (f : Part → Part) : (s.updPart p f).cqs = s.cqs := rfl
@[simp] theorem State.updPart_fwds (s : State) (p : Nat) (f : Part → Part) : (s.updPart p f).fwds = s.fwds := rfl
@[simp] theorem State.updPart_snaps (s : State) (p : Nat) (f : Part → Part) : (s.updPart p f).snaps = s.snaps := rfl
@[simp] theorem State.updPart_fsnaps (s : State) (p : Nat) (f : Part → Part) : (s.updPart p f).fsnaps = s.fsnaps := rfl
@[simp] theorem State.updPart_mode (s : State) (p : Nat) (f : Part → Part) : (s.updPart p f).mode = s.mode := rfl
@[simp] theorem State.updPart_pages (s : State) (p : Nat) (f : Part → Part) : (s.updPart p f).pages = s.pages := rfl
@[simp] theorem State.updPart_iris (s : State) (p : Nat) (f : Part → Part) : (s.updPart p f).iris = s.iris := rfl
@[simp] theorem State.updPart_icores (s : State) (p : Nat) (f : Part → Part) : (s.updPart p f).icores = s.icores := rfl
@[simp] theorem State.updPart_board (s : State) (p : Nat) (f : Part → Part) : (s.updPart p f).board = s.board := rfl

/-! ### setSem -/

@[simp] theorem State.setSem_pending (s : State) (die i : Nat) (v : Sem) : (s.setSem die i v).pending = s.pending := rfl
@[simp] theorem State.setSem_time (s : State) (die i : Nat) (v : Sem) : (s.setSem die i v).time = s.time := rfl
@[simp] theorem State.setSem_ftAdj (s : State) (die i : Nat) (v : Sem) : (s.setSem die i v).ftAdj = s.ftAdj := rfl
@[simp] theorem State.setSem_ftTenths (s : State) (die i : Nat) (v : Sem) : (s.setSem die i v).ftTenths = s.ftTenths := rfl
@[simp] theorem State.setSem_fresh (s : State) (die i : Nat) (v : Sem) : (s.setSem die i v).fresh = s.fresh := rfl
@[simp] theorem State.setSem_mem (s : State) (die i : Nat) (v : Sem) : (s.setSem die i v).mem = s.mem := rfl
@[simp] theorem State.setSem_poison (s : State) (die i : Nat) (v : Sem) : (s.setSem die i v).poison = s.poison := rfl
@[simp] theorem State.setSem_host (s : State) (die i : Nat) (v : Sem) : (s.setSem die i v).host = s.host := rfl
@[simp] theorem State.setSem_ctxs (s : State) (die i : Nat) (v : Sem) : (s.setSem die i v).ctxs = s.ctxs := rfl
@[simp] theorem State.setSem_cores (s : State) (die i : Nat) (v : Sem) : (s.setSem die i v).cores = s.cores := rfl
@[simp] theorem State.setSem_tiles (s : State) (die i : Nat) (v : Sem) : (s.setSem die i v).tiles = s.tiles := rfl
@[simp] theorem State.setSem_signals (s : State) (die i : Nat) (v : Sem) : (s.setSem die i v).signals = s.signals := rfl
@[simp] theorem State.setSem_claims (s : State) (die i : Nat) (v : Sem) : (s.setSem die i v).claims = s.claims := rfl
@[simp] theorem State.setSem_parts (s : State) (die i : Nat) (v : Sem) : (s.setSem die i v).parts = s.parts := rfl
@[simp] theorem State.setSem_qps (s : State) (die i : Nat) (v : Sem) : (s.setSem die i v).qps = s.qps := rfl
@[simp] theorem State.setSem_launches (s : State) (die i : Nat) (v : Sem) : (s.setSem die i v).launches = s.launches := rfl
@[simp] theorem State.setSem_nextLaunch (s : State) (die i : Nat) (v : Sem) : (s.setSem die i v).nextLaunch = s.nextLaunch := rfl
@[simp] theorem State.setSem_images (s : State) (die i : Nat) (v : Sem) : (s.setSem die i v).images = s.images := rfl
@[simp] theorem State.setSem_lastImage (s : State) (die i : Nat) (v : Sem) : (s.setSem die i v).lastImage = s.lastImage := rfl
@[simp] theorem State.setSem_seqs (s : State) (die i : Nat) (v : Sem) : (s.setSem die i v).seqs = s.seqs := rfl
@[simp] theorem State.setSem_regions (s : State) (die i : Nat) (v : Sem) : (s.setSem die i v).regions = s.regions := rfl
@[simp] theorem State.setSem_owned (s : State) (die i : Nat) (v : Sem) : (s.setSem die i v).owned = s.owned := rfl
@[simp] theorem State.setSem_hsel (s : State) (die i : Nat) (v : Sem) : (s.setSem die i v).hsel = s.hsel := rfl
@[simp] theorem State.setSem_grants (s : State) (die i : Nat) (v : Sem) : (s.setSem die i v).grants = s.grants := rfl
@[simp] theorem State.setSem_drains (s : State) (die i : Nat) (v : Sem) : (s.setSem die i v).drains = s.drains := rfl
@[simp] theorem State.setSem_dies (s : State) (die i : Nat) (v : Sem) : (s.setSem die i v).dies = s.dies := rfl
@[simp] theorem State.setSem_chans (s : State) (die i : Nat) (v : Sem) : (s.setSem die i v).chans = s.chans := rfl
@[simp] theorem State.setSem_tobjs (s : State) (die i : Nat) (v : Sem) : (s.setSem die i v).tobjs = s.tobjs := rfl
@[simp] theorem State.setSem_lastTobj (s : State) (die i : Nat) (v : Sem) : (s.setSem die i v).lastTobj = s.lastTobj := rfl
@[simp] theorem State.setSem_wpkgs (s : State) (die i : Nat) (v : Sem) : (s.setSem die i v).wpkgs = s.wpkgs := rfl
@[simp] theorem State.setSem_lastWpkg (s : State) (die i : Nat) (v : Sem) : (s.setSem die i v).lastWpkg = s.lastWpkg := rfl
@[simp] theorem State.setSem_wwins (s : State) (die i : Nat) (v : Sem) : (s.setSem die i v).wwins = s.wwins := rfl
@[simp] theorem State.setSem_flash (s : State) (die i : Nat) (v : Sem) : (s.setSem die i v).flash = s.flash := rfl
@[simp] theorem State.setSem_pools (s : State) (die i : Nat) (v : Sem) : (s.setSem die i v).pools = s.pools := rfl
@[simp] theorem State.setSem_maps (s : State) (die i : Nat) (v : Sem) : (s.setSem die i v).maps = s.maps := rfl
@[simp] theorem State.setSem_mapRoom (s : State) (die i : Nat) (v : Sem) : (s.setSem die i v).mapRoom = s.mapRoom := rfl
@[simp] theorem State.setSem_foxes (s : State) (die i : Nat) (v : Sem) : (s.setSem die i v).foxes = s.foxes := rfl
@[simp] theorem State.setSem_prims (s : State) (die i : Nat) (v : Sem) : (s.setSem die i v).prims = s.prims := rfl
@[simp] theorem State.setSem_mbxs (s : State) (die i : Nat) (v : Sem) : (s.setSem die i v).mbxs = s.mbxs := rfl
@[simp] theorem State.setSem_journal (s : State) (die i : Nat) (v : Sem) : (s.setSem die i v).journal = s.journal := rfl
@[simp] theorem State.setSem_turn (s : State) (die i : Nat) (v : Sem) : (s.setSem die i v).turn = s.turn := rfl
@[simp] theorem State.setSem_cpRst (s : State) (die i : Nat) (v : Sem) : (s.setSem die i v).cpRst = s.cpRst := rfl
@[simp] theorem State.setSem_replays (s : State) (die i : Nat) (v : Sem) : (s.setSem die i v).replays = s.replays := rfl
@[simp] theorem State.setSem_ready (s : State) (die i : Nat) (v : Sem) : (s.setSem die i v).ready = s.ready := rfl
@[simp] theorem State.setSem_patch (s : State) (die i : Nat) (v : Sem) : (s.setSem die i v).patch = s.patch := rfl
@[simp] theorem State.setSem_nextPatch (s : State) (die i : Nat) (v : Sem) : (s.setSem die i v).nextPatch = s.nextPatch := rfl
@[simp] theorem State.setSem_funcs (s : State) (die i : Nat) (v : Sem) : (s.setSem die i v).funcs = s.funcs := rfl
@[simp] theorem State.setSem_pkeys (s : State) (die i : Nat) (v : Sem) : (s.setSem die i v).pkeys = s.pkeys := rfl
@[simp] theorem State.setSem_secure (s : State) (die i : Nat) (v : Sem) : (s.setSem die i v).secure = s.secure := rfl
@[simp] theorem State.setSem_linkUp (s : State) (die i : Nat) (v : Sem) : (s.setSem die i v).linkUp = s.linkUp := rfl
@[simp] theorem State.setSem_sent (s : State) (die i : Nat) (v : Sem) : (s.setSem die i v).sent = s.sent := rfl
@[simp] theorem State.setSem_bars (s : State) (die i : Nat) (v : Sem) : (s.setSem die i v).bars = s.bars := rfl
@[simp] theorem State.setSem_runs (s : State) (die i : Nat) (v : Sem) : (s.setSem die i v).runs = s.runs := rfl
@[simp] theorem State.setSem_stepLogs (s : State) (die i : Nat) (v : Sem) : (s.setSem die i v).stepLogs = s.stepLogs := rfl
@[simp] theorem State.setSem_bounds (s : State) (die i : Nat) (v : Sem) : (s.setSem die i v).bounds = s.bounds := rfl
@[simp] theorem State.setSem_copies (s : State) (die i : Nat) (v : Sem) : (s.setSem die i v).copies = s.copies := rfl
@[simp] theorem State.setSem_posted (s : State) (die i : Nat) (v : Sem) : (s.setSem die i v).posted = s.posted := rfl
@[simp] theorem State.setSem_pass0 (s : State) (die i : Nat) (v : Sem) : (s.setSem die i v).pass0 = s.pass0 := rfl
@[simp] theorem State.setSem_health (s : State) (die i : Nat) (v : Sem) : (s.setSem die i v).health = s.health := rfl
@[simp] theorem State.setSem_ports (s : State) (die i : Nat) (v : Sem) : (s.setSem die i v).ports = s.ports := rfl
@[simp] theorem State.setSem_outbox (s : State) (die i : Nat) (v : Sem) : (s.setSem die i v).outbox = s.outbox := rfl
@[simp] theorem State.setSem_lanes (s : State) (die i : Nat) (v : Sem) : (s.setSem die i v).lanes = s.lanes := rfl
@[simp] theorem State.setSem_domain (s : State) (die i : Nat) (v : Sem) : (s.setSem die i v).domain = s.domain := rfl
@[simp] theorem State.setSem_twin (s : State) (die i : Nat) (v : Sem) : (s.setSem die i v).twin = s.twin := rfl
@[simp] theorem State.setSem_fabs (s : State) (die i : Nat) (v : Sem) : (s.setSem die i v).fabs = s.fabs := rfl
@[simp] theorem State.setSem_cqs (s : State) (die i : Nat) (v : Sem) : (s.setSem die i v).cqs = s.cqs := rfl
@[simp] theorem State.setSem_fwds (s : State) (die i : Nat) (v : Sem) : (s.setSem die i v).fwds = s.fwds := rfl
@[simp] theorem State.setSem_snaps (s : State) (die i : Nat) (v : Sem) : (s.setSem die i v).snaps = s.snaps := rfl
@[simp] theorem State.setSem_fsnaps (s : State) (die i : Nat) (v : Sem) : (s.setSem die i v).fsnaps = s.fsnaps := rfl
@[simp] theorem State.setSem_mode (s : State) (die i : Nat) (v : Sem) : (s.setSem die i v).mode = s.mode := rfl
@[simp] theorem State.setSem_pages (s : State) (die i : Nat) (v : Sem) : (s.setSem die i v).pages = s.pages := rfl
@[simp] theorem State.setSem_iris (s : State) (die i : Nat) (v : Sem) : (s.setSem die i v).iris = s.iris := rfl
@[simp] theorem State.setSem_icores (s : State) (die i : Nat) (v : Sem) : (s.setSem die i v).icores = s.icores := rfl
@[simp] theorem State.setSem_board (s : State) (die i : Nat) (v : Sem) : (s.setSem die i v).board = s.board := rfl

/-! ### setClaim -/

@[simp] theorem State.setClaim_pending (s : State) (die i : Nat) (v : Claim) : (s.setClaim die i v).pending = s.pending := rfl
@[simp] theorem State.setClaim_time (s : State) (die i : Nat) (v : Claim) : (s.setClaim die i v).time = s.time := rfl
@[simp] theorem State.setClaim_ftAdj (s : State) (die i : Nat) (v : Claim) : (s.setClaim die i v).ftAdj = s.ftAdj := rfl
@[simp] theorem State.setClaim_ftTenths (s : State) (die i : Nat) (v : Claim) : (s.setClaim die i v).ftTenths = s.ftTenths := rfl
@[simp] theorem State.setClaim_fresh (s : State) (die i : Nat) (v : Claim) : (s.setClaim die i v).fresh = s.fresh := rfl
@[simp] theorem State.setClaim_mem (s : State) (die i : Nat) (v : Claim) : (s.setClaim die i v).mem = s.mem := rfl
@[simp] theorem State.setClaim_poison (s : State) (die i : Nat) (v : Claim) : (s.setClaim die i v).poison = s.poison := rfl
@[simp] theorem State.setClaim_host (s : State) (die i : Nat) (v : Claim) : (s.setClaim die i v).host = s.host := rfl
@[simp] theorem State.setClaim_ctxs (s : State) (die i : Nat) (v : Claim) : (s.setClaim die i v).ctxs = s.ctxs := rfl
@[simp] theorem State.setClaim_cores (s : State) (die i : Nat) (v : Claim) : (s.setClaim die i v).cores = s.cores := rfl
@[simp] theorem State.setClaim_tiles (s : State) (die i : Nat) (v : Claim) : (s.setClaim die i v).tiles = s.tiles := rfl
@[simp] theorem State.setClaim_sems (s : State) (die i : Nat) (v : Claim) : (s.setClaim die i v).sems = s.sems := rfl
@[simp] theorem State.setClaim_signals (s : State) (die i : Nat) (v : Claim) : (s.setClaim die i v).signals = s.signals := rfl
@[simp] theorem State.setClaim_parts (s : State) (die i : Nat) (v : Claim) : (s.setClaim die i v).parts = s.parts := rfl
@[simp] theorem State.setClaim_qps (s : State) (die i : Nat) (v : Claim) : (s.setClaim die i v).qps = s.qps := rfl
@[simp] theorem State.setClaim_launches (s : State) (die i : Nat) (v : Claim) : (s.setClaim die i v).launches = s.launches := rfl
@[simp] theorem State.setClaim_nextLaunch (s : State) (die i : Nat) (v : Claim) : (s.setClaim die i v).nextLaunch = s.nextLaunch := rfl
@[simp] theorem State.setClaim_images (s : State) (die i : Nat) (v : Claim) : (s.setClaim die i v).images = s.images := rfl
@[simp] theorem State.setClaim_lastImage (s : State) (die i : Nat) (v : Claim) : (s.setClaim die i v).lastImage = s.lastImage := rfl
@[simp] theorem State.setClaim_seqs (s : State) (die i : Nat) (v : Claim) : (s.setClaim die i v).seqs = s.seqs := rfl
@[simp] theorem State.setClaim_regions (s : State) (die i : Nat) (v : Claim) : (s.setClaim die i v).regions = s.regions := rfl
@[simp] theorem State.setClaim_owned (s : State) (die i : Nat) (v : Claim) : (s.setClaim die i v).owned = s.owned := rfl
@[simp] theorem State.setClaim_hsel (s : State) (die i : Nat) (v : Claim) : (s.setClaim die i v).hsel = s.hsel := rfl
@[simp] theorem State.setClaim_grants (s : State) (die i : Nat) (v : Claim) : (s.setClaim die i v).grants = s.grants := rfl
@[simp] theorem State.setClaim_drains (s : State) (die i : Nat) (v : Claim) : (s.setClaim die i v).drains = s.drains := rfl
@[simp] theorem State.setClaim_dies (s : State) (die i : Nat) (v : Claim) : (s.setClaim die i v).dies = s.dies := rfl
@[simp] theorem State.setClaim_chans (s : State) (die i : Nat) (v : Claim) : (s.setClaim die i v).chans = s.chans := rfl
@[simp] theorem State.setClaim_tobjs (s : State) (die i : Nat) (v : Claim) : (s.setClaim die i v).tobjs = s.tobjs := rfl
@[simp] theorem State.setClaim_lastTobj (s : State) (die i : Nat) (v : Claim) : (s.setClaim die i v).lastTobj = s.lastTobj := rfl
@[simp] theorem State.setClaim_wpkgs (s : State) (die i : Nat) (v : Claim) : (s.setClaim die i v).wpkgs = s.wpkgs := rfl
@[simp] theorem State.setClaim_lastWpkg (s : State) (die i : Nat) (v : Claim) : (s.setClaim die i v).lastWpkg = s.lastWpkg := rfl
@[simp] theorem State.setClaim_wwins (s : State) (die i : Nat) (v : Claim) : (s.setClaim die i v).wwins = s.wwins := rfl
@[simp] theorem State.setClaim_flash (s : State) (die i : Nat) (v : Claim) : (s.setClaim die i v).flash = s.flash := rfl
@[simp] theorem State.setClaim_pools (s : State) (die i : Nat) (v : Claim) : (s.setClaim die i v).pools = s.pools := rfl
@[simp] theorem State.setClaim_maps (s : State) (die i : Nat) (v : Claim) : (s.setClaim die i v).maps = s.maps := rfl
@[simp] theorem State.setClaim_mapRoom (s : State) (die i : Nat) (v : Claim) : (s.setClaim die i v).mapRoom = s.mapRoom := rfl
@[simp] theorem State.setClaim_foxes (s : State) (die i : Nat) (v : Claim) : (s.setClaim die i v).foxes = s.foxes := rfl
@[simp] theorem State.setClaim_prims (s : State) (die i : Nat) (v : Claim) : (s.setClaim die i v).prims = s.prims := rfl
@[simp] theorem State.setClaim_mbxs (s : State) (die i : Nat) (v : Claim) : (s.setClaim die i v).mbxs = s.mbxs := rfl
@[simp] theorem State.setClaim_journal (s : State) (die i : Nat) (v : Claim) : (s.setClaim die i v).journal = s.journal := rfl
@[simp] theorem State.setClaim_turn (s : State) (die i : Nat) (v : Claim) : (s.setClaim die i v).turn = s.turn := rfl
@[simp] theorem State.setClaim_cpRst (s : State) (die i : Nat) (v : Claim) : (s.setClaim die i v).cpRst = s.cpRst := rfl
@[simp] theorem State.setClaim_replays (s : State) (die i : Nat) (v : Claim) : (s.setClaim die i v).replays = s.replays := rfl
@[simp] theorem State.setClaim_ready (s : State) (die i : Nat) (v : Claim) : (s.setClaim die i v).ready = s.ready := rfl
@[simp] theorem State.setClaim_patch (s : State) (die i : Nat) (v : Claim) : (s.setClaim die i v).patch = s.patch := rfl
@[simp] theorem State.setClaim_nextPatch (s : State) (die i : Nat) (v : Claim) : (s.setClaim die i v).nextPatch = s.nextPatch := rfl
@[simp] theorem State.setClaim_funcs (s : State) (die i : Nat) (v : Claim) : (s.setClaim die i v).funcs = s.funcs := rfl
@[simp] theorem State.setClaim_pkeys (s : State) (die i : Nat) (v : Claim) : (s.setClaim die i v).pkeys = s.pkeys := rfl
@[simp] theorem State.setClaim_secure (s : State) (die i : Nat) (v : Claim) : (s.setClaim die i v).secure = s.secure := rfl
@[simp] theorem State.setClaim_linkUp (s : State) (die i : Nat) (v : Claim) : (s.setClaim die i v).linkUp = s.linkUp := rfl
@[simp] theorem State.setClaim_sent (s : State) (die i : Nat) (v : Claim) : (s.setClaim die i v).sent = s.sent := rfl
@[simp] theorem State.setClaim_bars (s : State) (die i : Nat) (v : Claim) : (s.setClaim die i v).bars = s.bars := rfl
@[simp] theorem State.setClaim_runs (s : State) (die i : Nat) (v : Claim) : (s.setClaim die i v).runs = s.runs := rfl
@[simp] theorem State.setClaim_stepLogs (s : State) (die i : Nat) (v : Claim) : (s.setClaim die i v).stepLogs = s.stepLogs := rfl
@[simp] theorem State.setClaim_bounds (s : State) (die i : Nat) (v : Claim) : (s.setClaim die i v).bounds = s.bounds := rfl
@[simp] theorem State.setClaim_copies (s : State) (die i : Nat) (v : Claim) : (s.setClaim die i v).copies = s.copies := rfl
@[simp] theorem State.setClaim_posted (s : State) (die i : Nat) (v : Claim) : (s.setClaim die i v).posted = s.posted := rfl
@[simp] theorem State.setClaim_pass0 (s : State) (die i : Nat) (v : Claim) : (s.setClaim die i v).pass0 = s.pass0 := rfl
@[simp] theorem State.setClaim_health (s : State) (die i : Nat) (v : Claim) : (s.setClaim die i v).health = s.health := rfl
@[simp] theorem State.setClaim_ports (s : State) (die i : Nat) (v : Claim) : (s.setClaim die i v).ports = s.ports := rfl
@[simp] theorem State.setClaim_outbox (s : State) (die i : Nat) (v : Claim) : (s.setClaim die i v).outbox = s.outbox := rfl
@[simp] theorem State.setClaim_lanes (s : State) (die i : Nat) (v : Claim) : (s.setClaim die i v).lanes = s.lanes := rfl
@[simp] theorem State.setClaim_domain (s : State) (die i : Nat) (v : Claim) : (s.setClaim die i v).domain = s.domain := rfl
@[simp] theorem State.setClaim_twin (s : State) (die i : Nat) (v : Claim) : (s.setClaim die i v).twin = s.twin := rfl
@[simp] theorem State.setClaim_fabs (s : State) (die i : Nat) (v : Claim) : (s.setClaim die i v).fabs = s.fabs := rfl
@[simp] theorem State.setClaim_cqs (s : State) (die i : Nat) (v : Claim) : (s.setClaim die i v).cqs = s.cqs := rfl
@[simp] theorem State.setClaim_fwds (s : State) (die i : Nat) (v : Claim) : (s.setClaim die i v).fwds = s.fwds := rfl
@[simp] theorem State.setClaim_snaps (s : State) (die i : Nat) (v : Claim) : (s.setClaim die i v).snaps = s.snaps := rfl
@[simp] theorem State.setClaim_fsnaps (s : State) (die i : Nat) (v : Claim) : (s.setClaim die i v).fsnaps = s.fsnaps := rfl
@[simp] theorem State.setClaim_mode (s : State) (die i : Nat) (v : Claim) : (s.setClaim die i v).mode = s.mode := rfl
@[simp] theorem State.setClaim_pages (s : State) (die i : Nat) (v : Claim) : (s.setClaim die i v).pages = s.pages := rfl
@[simp] theorem State.setClaim_iris (s : State) (die i : Nat) (v : Claim) : (s.setClaim die i v).iris = s.iris := rfl
@[simp] theorem State.setClaim_icores (s : State) (die i : Nat) (v : Claim) : (s.setClaim die i v).icores = s.icores := rfl
@[simp] theorem State.setClaim_board (s : State) (die i : Nat) (v : Claim) : (s.setClaim die i v).board = s.board := rfl

/-! ### setBar -/

@[simp] theorem State.setBar_pending (s : State) (p die i : Nat) (b : Bar) : (s.setBar p die i b).pending = s.pending := rfl
@[simp] theorem State.setBar_time (s : State) (p die i : Nat) (b : Bar) : (s.setBar p die i b).time = s.time := rfl
@[simp] theorem State.setBar_ftAdj (s : State) (p die i : Nat) (b : Bar) : (s.setBar p die i b).ftAdj = s.ftAdj := rfl
@[simp] theorem State.setBar_ftTenths (s : State) (p die i : Nat) (b : Bar) : (s.setBar p die i b).ftTenths = s.ftTenths := rfl
@[simp] theorem State.setBar_fresh (s : State) (p die i : Nat) (b : Bar) : (s.setBar p die i b).fresh = s.fresh := rfl
@[simp] theorem State.setBar_mem (s : State) (p die i : Nat) (b : Bar) : (s.setBar p die i b).mem = s.mem := rfl
@[simp] theorem State.setBar_poison (s : State) (p die i : Nat) (b : Bar) : (s.setBar p die i b).poison = s.poison := rfl
@[simp] theorem State.setBar_host (s : State) (p die i : Nat) (b : Bar) : (s.setBar p die i b).host = s.host := rfl
@[simp] theorem State.setBar_ctxs (s : State) (p die i : Nat) (b : Bar) : (s.setBar p die i b).ctxs = s.ctxs := rfl
@[simp] theorem State.setBar_cores (s : State) (p die i : Nat) (b : Bar) : (s.setBar p die i b).cores = s.cores := rfl
@[simp] theorem State.setBar_tiles (s : State) (p die i : Nat) (b : Bar) : (s.setBar p die i b).tiles = s.tiles := rfl
@[simp] theorem State.setBar_sems (s : State) (p die i : Nat) (b : Bar) : (s.setBar p die i b).sems = s.sems := rfl
@[simp] theorem State.setBar_signals (s : State) (p die i : Nat) (b : Bar) : (s.setBar p die i b).signals = s.signals := rfl
@[simp] theorem State.setBar_claims (s : State) (p die i : Nat) (b : Bar) : (s.setBar p die i b).claims = s.claims := rfl
@[simp] theorem State.setBar_parts (s : State) (p die i : Nat) (b : Bar) : (s.setBar p die i b).parts = s.parts := rfl
@[simp] theorem State.setBar_qps (s : State) (p die i : Nat) (b : Bar) : (s.setBar p die i b).qps = s.qps := rfl
@[simp] theorem State.setBar_launches (s : State) (p die i : Nat) (b : Bar) : (s.setBar p die i b).launches = s.launches := rfl
@[simp] theorem State.setBar_nextLaunch (s : State) (p die i : Nat) (b : Bar) : (s.setBar p die i b).nextLaunch = s.nextLaunch := rfl
@[simp] theorem State.setBar_images (s : State) (p die i : Nat) (b : Bar) : (s.setBar p die i b).images = s.images := rfl
@[simp] theorem State.setBar_lastImage (s : State) (p die i : Nat) (b : Bar) : (s.setBar p die i b).lastImage = s.lastImage := rfl
@[simp] theorem State.setBar_seqs (s : State) (p die i : Nat) (b : Bar) : (s.setBar p die i b).seqs = s.seqs := rfl
@[simp] theorem State.setBar_regions (s : State) (p die i : Nat) (b : Bar) : (s.setBar p die i b).regions = s.regions := rfl
@[simp] theorem State.setBar_owned (s : State) (p die i : Nat) (b : Bar) : (s.setBar p die i b).owned = s.owned := rfl
@[simp] theorem State.setBar_hsel (s : State) (p die i : Nat) (b : Bar) : (s.setBar p die i b).hsel = s.hsel := rfl
@[simp] theorem State.setBar_grants (s : State) (p die i : Nat) (b : Bar) : (s.setBar p die i b).grants = s.grants := rfl
@[simp] theorem State.setBar_drains (s : State) (p die i : Nat) (b : Bar) : (s.setBar p die i b).drains = s.drains := rfl
@[simp] theorem State.setBar_dies (s : State) (p die i : Nat) (b : Bar) : (s.setBar p die i b).dies = s.dies := rfl
@[simp] theorem State.setBar_chans (s : State) (p die i : Nat) (b : Bar) : (s.setBar p die i b).chans = s.chans := rfl
@[simp] theorem State.setBar_tobjs (s : State) (p die i : Nat) (b : Bar) : (s.setBar p die i b).tobjs = s.tobjs := rfl
@[simp] theorem State.setBar_lastTobj (s : State) (p die i : Nat) (b : Bar) : (s.setBar p die i b).lastTobj = s.lastTobj := rfl
@[simp] theorem State.setBar_wpkgs (s : State) (p die i : Nat) (b : Bar) : (s.setBar p die i b).wpkgs = s.wpkgs := rfl
@[simp] theorem State.setBar_lastWpkg (s : State) (p die i : Nat) (b : Bar) : (s.setBar p die i b).lastWpkg = s.lastWpkg := rfl
@[simp] theorem State.setBar_wwins (s : State) (p die i : Nat) (b : Bar) : (s.setBar p die i b).wwins = s.wwins := rfl
@[simp] theorem State.setBar_flash (s : State) (p die i : Nat) (b : Bar) : (s.setBar p die i b).flash = s.flash := rfl
@[simp] theorem State.setBar_pools (s : State) (p die i : Nat) (b : Bar) : (s.setBar p die i b).pools = s.pools := rfl
@[simp] theorem State.setBar_maps (s : State) (p die i : Nat) (b : Bar) : (s.setBar p die i b).maps = s.maps := rfl
@[simp] theorem State.setBar_mapRoom (s : State) (p die i : Nat) (b : Bar) : (s.setBar p die i b).mapRoom = s.mapRoom := rfl
@[simp] theorem State.setBar_foxes (s : State) (p die i : Nat) (b : Bar) : (s.setBar p die i b).foxes = s.foxes := rfl
@[simp] theorem State.setBar_prims (s : State) (p die i : Nat) (b : Bar) : (s.setBar p die i b).prims = s.prims := rfl
@[simp] theorem State.setBar_mbxs (s : State) (p die i : Nat) (b : Bar) : (s.setBar p die i b).mbxs = s.mbxs := rfl
@[simp] theorem State.setBar_journal (s : State) (p die i : Nat) (b : Bar) : (s.setBar p die i b).journal = s.journal := rfl
@[simp] theorem State.setBar_turn (s : State) (p die i : Nat) (b : Bar) : (s.setBar p die i b).turn = s.turn := rfl
@[simp] theorem State.setBar_cpRst (s : State) (p die i : Nat) (b : Bar) : (s.setBar p die i b).cpRst = s.cpRst := rfl
@[simp] theorem State.setBar_replays (s : State) (p die i : Nat) (b : Bar) : (s.setBar p die i b).replays = s.replays := rfl
@[simp] theorem State.setBar_ready (s : State) (p die i : Nat) (b : Bar) : (s.setBar p die i b).ready = s.ready := rfl
@[simp] theorem State.setBar_patch (s : State) (p die i : Nat) (b : Bar) : (s.setBar p die i b).patch = s.patch := rfl
@[simp] theorem State.setBar_nextPatch (s : State) (p die i : Nat) (b : Bar) : (s.setBar p die i b).nextPatch = s.nextPatch := rfl
@[simp] theorem State.setBar_funcs (s : State) (p die i : Nat) (b : Bar) : (s.setBar p die i b).funcs = s.funcs := rfl
@[simp] theorem State.setBar_pkeys (s : State) (p die i : Nat) (b : Bar) : (s.setBar p die i b).pkeys = s.pkeys := rfl
@[simp] theorem State.setBar_secure (s : State) (p die i : Nat) (b : Bar) : (s.setBar p die i b).secure = s.secure := rfl
@[simp] theorem State.setBar_linkUp (s : State) (p die i : Nat) (b : Bar) : (s.setBar p die i b).linkUp = s.linkUp := rfl
@[simp] theorem State.setBar_sent (s : State) (p die i : Nat) (b : Bar) : (s.setBar p die i b).sent = s.sent := rfl
@[simp] theorem State.setBar_runs (s : State) (p die i : Nat) (b : Bar) : (s.setBar p die i b).runs = s.runs := rfl
@[simp] theorem State.setBar_stepLogs (s : State) (p die i : Nat) (b : Bar) : (s.setBar p die i b).stepLogs = s.stepLogs := rfl
@[simp] theorem State.setBar_bounds (s : State) (p die i : Nat) (b : Bar) : (s.setBar p die i b).bounds = s.bounds := rfl
@[simp] theorem State.setBar_copies (s : State) (p die i : Nat) (b : Bar) : (s.setBar p die i b).copies = s.copies := rfl
@[simp] theorem State.setBar_posted (s : State) (p die i : Nat) (b : Bar) : (s.setBar p die i b).posted = s.posted := rfl
@[simp] theorem State.setBar_pass0 (s : State) (p die i : Nat) (b : Bar) : (s.setBar p die i b).pass0 = s.pass0 := rfl
@[simp] theorem State.setBar_health (s : State) (p die i : Nat) (b : Bar) : (s.setBar p die i b).health = s.health := rfl
@[simp] theorem State.setBar_ports (s : State) (p die i : Nat) (b : Bar) : (s.setBar p die i b).ports = s.ports := rfl
@[simp] theorem State.setBar_outbox (s : State) (p die i : Nat) (b : Bar) : (s.setBar p die i b).outbox = s.outbox := rfl
@[simp] theorem State.setBar_lanes (s : State) (p die i : Nat) (b : Bar) : (s.setBar p die i b).lanes = s.lanes := rfl
@[simp] theorem State.setBar_domain (s : State) (p die i : Nat) (b : Bar) : (s.setBar p die i b).domain = s.domain := rfl
@[simp] theorem State.setBar_twin (s : State) (p die i : Nat) (b : Bar) : (s.setBar p die i b).twin = s.twin := rfl
@[simp] theorem State.setBar_fabs (s : State) (p die i : Nat) (b : Bar) : (s.setBar p die i b).fabs = s.fabs := rfl
@[simp] theorem State.setBar_cqs (s : State) (p die i : Nat) (b : Bar) : (s.setBar p die i b).cqs = s.cqs := rfl
@[simp] theorem State.setBar_fwds (s : State) (p die i : Nat) (b : Bar) : (s.setBar p die i b).fwds = s.fwds := rfl
@[simp] theorem State.setBar_snaps (s : State) (p die i : Nat) (b : Bar) : (s.setBar p die i b).snaps = s.snaps := rfl
@[simp] theorem State.setBar_fsnaps (s : State) (p die i : Nat) (b : Bar) : (s.setBar p die i b).fsnaps = s.fsnaps := rfl
@[simp] theorem State.setBar_mode (s : State) (p die i : Nat) (b : Bar) : (s.setBar p die i b).mode = s.mode := rfl
@[simp] theorem State.setBar_pages (s : State) (p die i : Nat) (b : Bar) : (s.setBar p die i b).pages = s.pages := rfl
@[simp] theorem State.setBar_iris (s : State) (p die i : Nat) (b : Bar) : (s.setBar p die i b).iris = s.iris := rfl
@[simp] theorem State.setBar_icores (s : State) (p die i : Nat) (b : Bar) : (s.setBar p die i b).icores = s.icores := rfl
@[simp] theorem State.setBar_board (s : State) (p die i : Nat) (b : Bar) : (s.setBar p die i b).board = s.board := rfl

/-! ### setFunc -/

@[simp] theorem State.setFunc_pending (s : State) (p : Nat) (f : Func) : (s.setFunc p f).pending = s.pending := rfl
@[simp] theorem State.setFunc_time (s : State) (p : Nat) (f : Func) : (s.setFunc p f).time = s.time := rfl
@[simp] theorem State.setFunc_ftAdj (s : State) (p : Nat) (f : Func) : (s.setFunc p f).ftAdj = s.ftAdj := rfl
@[simp] theorem State.setFunc_ftTenths (s : State) (p : Nat) (f : Func) : (s.setFunc p f).ftTenths = s.ftTenths := rfl
@[simp] theorem State.setFunc_fresh (s : State) (p : Nat) (f : Func) : (s.setFunc p f).fresh = s.fresh := rfl
@[simp] theorem State.setFunc_mem (s : State) (p : Nat) (f : Func) : (s.setFunc p f).mem = s.mem := rfl
@[simp] theorem State.setFunc_poison (s : State) (p : Nat) (f : Func) : (s.setFunc p f).poison = s.poison := rfl
@[simp] theorem State.setFunc_host (s : State) (p : Nat) (f : Func) : (s.setFunc p f).host = s.host := rfl
@[simp] theorem State.setFunc_ctxs (s : State) (p : Nat) (f : Func) : (s.setFunc p f).ctxs = s.ctxs := rfl
@[simp] theorem State.setFunc_cores (s : State) (p : Nat) (f : Func) : (s.setFunc p f).cores = s.cores := rfl
@[simp] theorem State.setFunc_tiles (s : State) (p : Nat) (f : Func) : (s.setFunc p f).tiles = s.tiles := rfl
@[simp] theorem State.setFunc_sems (s : State) (p : Nat) (f : Func) : (s.setFunc p f).sems = s.sems := rfl
@[simp] theorem State.setFunc_signals (s : State) (p : Nat) (f : Func) : (s.setFunc p f).signals = s.signals := rfl
@[simp] theorem State.setFunc_claims (s : State) (p : Nat) (f : Func) : (s.setFunc p f).claims = s.claims := rfl
@[simp] theorem State.setFunc_parts (s : State) (p : Nat) (f : Func) : (s.setFunc p f).parts = s.parts := rfl
@[simp] theorem State.setFunc_qps (s : State) (p : Nat) (f : Func) : (s.setFunc p f).qps = s.qps := rfl
@[simp] theorem State.setFunc_launches (s : State) (p : Nat) (f : Func) : (s.setFunc p f).launches = s.launches := rfl
@[simp] theorem State.setFunc_nextLaunch (s : State) (p : Nat) (f : Func) : (s.setFunc p f).nextLaunch = s.nextLaunch := rfl
@[simp] theorem State.setFunc_images (s : State) (p : Nat) (f : Func) : (s.setFunc p f).images = s.images := rfl
@[simp] theorem State.setFunc_lastImage (s : State) (p : Nat) (f : Func) : (s.setFunc p f).lastImage = s.lastImage := rfl
@[simp] theorem State.setFunc_seqs (s : State) (p : Nat) (f : Func) : (s.setFunc p f).seqs = s.seqs := rfl
@[simp] theorem State.setFunc_regions (s : State) (p : Nat) (f : Func) : (s.setFunc p f).regions = s.regions := rfl
@[simp] theorem State.setFunc_owned (s : State) (p : Nat) (f : Func) : (s.setFunc p f).owned = s.owned := rfl
@[simp] theorem State.setFunc_hsel (s : State) (p : Nat) (f : Func) : (s.setFunc p f).hsel = s.hsel := rfl
@[simp] theorem State.setFunc_grants (s : State) (p : Nat) (f : Func) : (s.setFunc p f).grants = s.grants := rfl
@[simp] theorem State.setFunc_drains (s : State) (p : Nat) (f : Func) : (s.setFunc p f).drains = s.drains := rfl
@[simp] theorem State.setFunc_dies (s : State) (p : Nat) (f : Func) : (s.setFunc p f).dies = s.dies := rfl
@[simp] theorem State.setFunc_chans (s : State) (p : Nat) (f : Func) : (s.setFunc p f).chans = s.chans := rfl
@[simp] theorem State.setFunc_tobjs (s : State) (p : Nat) (f : Func) : (s.setFunc p f).tobjs = s.tobjs := rfl
@[simp] theorem State.setFunc_lastTobj (s : State) (p : Nat) (f : Func) : (s.setFunc p f).lastTobj = s.lastTobj := rfl
@[simp] theorem State.setFunc_wpkgs (s : State) (p : Nat) (f : Func) : (s.setFunc p f).wpkgs = s.wpkgs := rfl
@[simp] theorem State.setFunc_lastWpkg (s : State) (p : Nat) (f : Func) : (s.setFunc p f).lastWpkg = s.lastWpkg := rfl
@[simp] theorem State.setFunc_wwins (s : State) (p : Nat) (f : Func) : (s.setFunc p f).wwins = s.wwins := rfl
@[simp] theorem State.setFunc_flash (s : State) (p : Nat) (f : Func) : (s.setFunc p f).flash = s.flash := rfl
@[simp] theorem State.setFunc_pools (s : State) (p : Nat) (f : Func) : (s.setFunc p f).pools = s.pools := rfl
@[simp] theorem State.setFunc_maps (s : State) (p : Nat) (f : Func) : (s.setFunc p f).maps = s.maps := rfl
@[simp] theorem State.setFunc_mapRoom (s : State) (p : Nat) (f : Func) : (s.setFunc p f).mapRoom = s.mapRoom := rfl
@[simp] theorem State.setFunc_foxes (s : State) (p : Nat) (f : Func) : (s.setFunc p f).foxes = s.foxes := rfl
@[simp] theorem State.setFunc_prims (s : State) (p : Nat) (f : Func) : (s.setFunc p f).prims = s.prims := rfl
@[simp] theorem State.setFunc_mbxs (s : State) (p : Nat) (f : Func) : (s.setFunc p f).mbxs = s.mbxs := rfl
@[simp] theorem State.setFunc_journal (s : State) (p : Nat) (f : Func) : (s.setFunc p f).journal = s.journal := rfl
@[simp] theorem State.setFunc_turn (s : State) (p : Nat) (f : Func) : (s.setFunc p f).turn = s.turn := rfl
@[simp] theorem State.setFunc_cpRst (s : State) (p : Nat) (f : Func) : (s.setFunc p f).cpRst = s.cpRst := rfl
@[simp] theorem State.setFunc_replays (s : State) (p : Nat) (f : Func) : (s.setFunc p f).replays = s.replays := rfl
@[simp] theorem State.setFunc_ready (s : State) (p : Nat) (f : Func) : (s.setFunc p f).ready = s.ready := rfl
@[simp] theorem State.setFunc_patch (s : State) (p : Nat) (f : Func) : (s.setFunc p f).patch = s.patch := rfl
@[simp] theorem State.setFunc_nextPatch (s : State) (p : Nat) (f : Func) : (s.setFunc p f).nextPatch = s.nextPatch := rfl
@[simp] theorem State.setFunc_pkeys (s : State) (p : Nat) (f : Func) : (s.setFunc p f).pkeys = s.pkeys := rfl
@[simp] theorem State.setFunc_secure (s : State) (p : Nat) (f : Func) : (s.setFunc p f).secure = s.secure := rfl
@[simp] theorem State.setFunc_linkUp (s : State) (p : Nat) (f : Func) : (s.setFunc p f).linkUp = s.linkUp := rfl
@[simp] theorem State.setFunc_sent (s : State) (p : Nat) (f : Func) : (s.setFunc p f).sent = s.sent := rfl
@[simp] theorem State.setFunc_bars (s : State) (p : Nat) (f : Func) : (s.setFunc p f).bars = s.bars := rfl
@[simp] theorem State.setFunc_runs (s : State) (p : Nat) (f : Func) : (s.setFunc p f).runs = s.runs := rfl
@[simp] theorem State.setFunc_stepLogs (s : State) (p : Nat) (f : Func) : (s.setFunc p f).stepLogs = s.stepLogs := rfl
@[simp] theorem State.setFunc_bounds (s : State) (p : Nat) (f : Func) : (s.setFunc p f).bounds = s.bounds := rfl
@[simp] theorem State.setFunc_copies (s : State) (p : Nat) (f : Func) : (s.setFunc p f).copies = s.copies := rfl
@[simp] theorem State.setFunc_posted (s : State) (p : Nat) (f : Func) : (s.setFunc p f).posted = s.posted := rfl
@[simp] theorem State.setFunc_pass0 (s : State) (p : Nat) (f : Func) : (s.setFunc p f).pass0 = s.pass0 := rfl
@[simp] theorem State.setFunc_health (s : State) (p : Nat) (f : Func) : (s.setFunc p f).health = s.health := rfl
@[simp] theorem State.setFunc_ports (s : State) (p : Nat) (f : Func) : (s.setFunc p f).ports = s.ports := rfl
@[simp] theorem State.setFunc_outbox (s : State) (p : Nat) (f : Func) : (s.setFunc p f).outbox = s.outbox := rfl
@[simp] theorem State.setFunc_lanes (s : State) (p : Nat) (f : Func) : (s.setFunc p f).lanes = s.lanes := rfl
@[simp] theorem State.setFunc_domain (s : State) (p : Nat) (f : Func) : (s.setFunc p f).domain = s.domain := rfl
@[simp] theorem State.setFunc_twin (s : State) (p : Nat) (f : Func) : (s.setFunc p f).twin = s.twin := rfl
@[simp] theorem State.setFunc_fabs (s : State) (p : Nat) (f : Func) : (s.setFunc p f).fabs = s.fabs := rfl
@[simp] theorem State.setFunc_cqs (s : State) (p : Nat) (f : Func) : (s.setFunc p f).cqs = s.cqs := rfl
@[simp] theorem State.setFunc_fwds (s : State) (p : Nat) (f : Func) : (s.setFunc p f).fwds = s.fwds := rfl
@[simp] theorem State.setFunc_snaps (s : State) (p : Nat) (f : Func) : (s.setFunc p f).snaps = s.snaps := rfl
@[simp] theorem State.setFunc_fsnaps (s : State) (p : Nat) (f : Func) : (s.setFunc p f).fsnaps = s.fsnaps := rfl
@[simp] theorem State.setFunc_mode (s : State) (p : Nat) (f : Func) : (s.setFunc p f).mode = s.mode := rfl
@[simp] theorem State.setFunc_pages (s : State) (p : Nat) (f : Func) : (s.setFunc p f).pages = s.pages := rfl
@[simp] theorem State.setFunc_iris (s : State) (p : Nat) (f : Func) : (s.setFunc p f).iris = s.iris := rfl
@[simp] theorem State.setFunc_icores (s : State) (p : Nat) (f : Func) : (s.setFunc p f).icores = s.icores := rfl
@[simp] theorem State.setFunc_board (s : State) (p : Nat) (f : Func) : (s.setFunc p f).board = s.board := rfl

/-! ### setMbx -/

@[simp] theorem State.setMbx_pending (s : State) (m : Nat) (b : Mbx) : (s.setMbx m b).pending = s.pending := rfl
@[simp] theorem State.setMbx_time (s : State) (m : Nat) (b : Mbx) : (s.setMbx m b).time = s.time := rfl
@[simp] theorem State.setMbx_ftAdj (s : State) (m : Nat) (b : Mbx) : (s.setMbx m b).ftAdj = s.ftAdj := rfl
@[simp] theorem State.setMbx_ftTenths (s : State) (m : Nat) (b : Mbx) : (s.setMbx m b).ftTenths = s.ftTenths := rfl
@[simp] theorem State.setMbx_fresh (s : State) (m : Nat) (b : Mbx) : (s.setMbx m b).fresh = s.fresh := rfl
@[simp] theorem State.setMbx_mem (s : State) (m : Nat) (b : Mbx) : (s.setMbx m b).mem = s.mem := rfl
@[simp] theorem State.setMbx_poison (s : State) (m : Nat) (b : Mbx) : (s.setMbx m b).poison = s.poison := rfl
@[simp] theorem State.setMbx_host (s : State) (m : Nat) (b : Mbx) : (s.setMbx m b).host = s.host := rfl
@[simp] theorem State.setMbx_ctxs (s : State) (m : Nat) (b : Mbx) : (s.setMbx m b).ctxs = s.ctxs := rfl
@[simp] theorem State.setMbx_cores (s : State) (m : Nat) (b : Mbx) : (s.setMbx m b).cores = s.cores := rfl
@[simp] theorem State.setMbx_tiles (s : State) (m : Nat) (b : Mbx) : (s.setMbx m b).tiles = s.tiles := rfl
@[simp] theorem State.setMbx_sems (s : State) (m : Nat) (b : Mbx) : (s.setMbx m b).sems = s.sems := rfl
@[simp] theorem State.setMbx_signals (s : State) (m : Nat) (b : Mbx) : (s.setMbx m b).signals = s.signals := rfl
@[simp] theorem State.setMbx_claims (s : State) (m : Nat) (b : Mbx) : (s.setMbx m b).claims = s.claims := rfl
@[simp] theorem State.setMbx_parts (s : State) (m : Nat) (b : Mbx) : (s.setMbx m b).parts = s.parts := rfl
@[simp] theorem State.setMbx_qps (s : State) (m : Nat) (b : Mbx) : (s.setMbx m b).qps = s.qps := rfl
@[simp] theorem State.setMbx_launches (s : State) (m : Nat) (b : Mbx) : (s.setMbx m b).launches = s.launches := rfl
@[simp] theorem State.setMbx_nextLaunch (s : State) (m : Nat) (b : Mbx) : (s.setMbx m b).nextLaunch = s.nextLaunch := rfl
@[simp] theorem State.setMbx_images (s : State) (m : Nat) (b : Mbx) : (s.setMbx m b).images = s.images := rfl
@[simp] theorem State.setMbx_lastImage (s : State) (m : Nat) (b : Mbx) : (s.setMbx m b).lastImage = s.lastImage := rfl
@[simp] theorem State.setMbx_seqs (s : State) (m : Nat) (b : Mbx) : (s.setMbx m b).seqs = s.seqs := rfl
@[simp] theorem State.setMbx_regions (s : State) (m : Nat) (b : Mbx) : (s.setMbx m b).regions = s.regions := rfl
@[simp] theorem State.setMbx_owned (s : State) (m : Nat) (b : Mbx) : (s.setMbx m b).owned = s.owned := rfl
@[simp] theorem State.setMbx_hsel (s : State) (m : Nat) (b : Mbx) : (s.setMbx m b).hsel = s.hsel := rfl
@[simp] theorem State.setMbx_grants (s : State) (m : Nat) (b : Mbx) : (s.setMbx m b).grants = s.grants := rfl
@[simp] theorem State.setMbx_drains (s : State) (m : Nat) (b : Mbx) : (s.setMbx m b).drains = s.drains := rfl
@[simp] theorem State.setMbx_dies (s : State) (m : Nat) (b : Mbx) : (s.setMbx m b).dies = s.dies := rfl
@[simp] theorem State.setMbx_chans (s : State) (m : Nat) (b : Mbx) : (s.setMbx m b).chans = s.chans := rfl
@[simp] theorem State.setMbx_tobjs (s : State) (m : Nat) (b : Mbx) : (s.setMbx m b).tobjs = s.tobjs := rfl
@[simp] theorem State.setMbx_lastTobj (s : State) (m : Nat) (b : Mbx) : (s.setMbx m b).lastTobj = s.lastTobj := rfl
@[simp] theorem State.setMbx_wpkgs (s : State) (m : Nat) (b : Mbx) : (s.setMbx m b).wpkgs = s.wpkgs := rfl
@[simp] theorem State.setMbx_lastWpkg (s : State) (m : Nat) (b : Mbx) : (s.setMbx m b).lastWpkg = s.lastWpkg := rfl
@[simp] theorem State.setMbx_wwins (s : State) (m : Nat) (b : Mbx) : (s.setMbx m b).wwins = s.wwins := rfl
@[simp] theorem State.setMbx_flash (s : State) (m : Nat) (b : Mbx) : (s.setMbx m b).flash = s.flash := rfl
@[simp] theorem State.setMbx_pools (s : State) (m : Nat) (b : Mbx) : (s.setMbx m b).pools = s.pools := rfl
@[simp] theorem State.setMbx_maps (s : State) (m : Nat) (b : Mbx) : (s.setMbx m b).maps = s.maps := rfl
@[simp] theorem State.setMbx_mapRoom (s : State) (m : Nat) (b : Mbx) : (s.setMbx m b).mapRoom = s.mapRoom := rfl
@[simp] theorem State.setMbx_foxes (s : State) (m : Nat) (b : Mbx) : (s.setMbx m b).foxes = s.foxes := rfl
@[simp] theorem State.setMbx_prims (s : State) (m : Nat) (b : Mbx) : (s.setMbx m b).prims = s.prims := rfl
@[simp] theorem State.setMbx_journal (s : State) (m : Nat) (b : Mbx) : (s.setMbx m b).journal = s.journal := rfl
@[simp] theorem State.setMbx_turn (s : State) (m : Nat) (b : Mbx) : (s.setMbx m b).turn = s.turn := rfl
@[simp] theorem State.setMbx_cpRst (s : State) (m : Nat) (b : Mbx) : (s.setMbx m b).cpRst = s.cpRst := rfl
@[simp] theorem State.setMbx_replays (s : State) (m : Nat) (b : Mbx) : (s.setMbx m b).replays = s.replays := rfl
@[simp] theorem State.setMbx_ready (s : State) (m : Nat) (b : Mbx) : (s.setMbx m b).ready = s.ready := rfl
@[simp] theorem State.setMbx_patch (s : State) (m : Nat) (b : Mbx) : (s.setMbx m b).patch = s.patch := rfl
@[simp] theorem State.setMbx_nextPatch (s : State) (m : Nat) (b : Mbx) : (s.setMbx m b).nextPatch = s.nextPatch := rfl
@[simp] theorem State.setMbx_funcs (s : State) (m : Nat) (b : Mbx) : (s.setMbx m b).funcs = s.funcs := rfl
@[simp] theorem State.setMbx_pkeys (s : State) (m : Nat) (b : Mbx) : (s.setMbx m b).pkeys = s.pkeys := rfl
@[simp] theorem State.setMbx_secure (s : State) (m : Nat) (b : Mbx) : (s.setMbx m b).secure = s.secure := rfl
@[simp] theorem State.setMbx_linkUp (s : State) (m : Nat) (b : Mbx) : (s.setMbx m b).linkUp = s.linkUp := rfl
@[simp] theorem State.setMbx_sent (s : State) (m : Nat) (b : Mbx) : (s.setMbx m b).sent = s.sent := rfl
@[simp] theorem State.setMbx_bars (s : State) (m : Nat) (b : Mbx) : (s.setMbx m b).bars = s.bars := rfl
@[simp] theorem State.setMbx_runs (s : State) (m : Nat) (b : Mbx) : (s.setMbx m b).runs = s.runs := rfl
@[simp] theorem State.setMbx_stepLogs (s : State) (m : Nat) (b : Mbx) : (s.setMbx m b).stepLogs = s.stepLogs := rfl
@[simp] theorem State.setMbx_bounds (s : State) (m : Nat) (b : Mbx) : (s.setMbx m b).bounds = s.bounds := rfl
@[simp] theorem State.setMbx_copies (s : State) (m : Nat) (b : Mbx) : (s.setMbx m b).copies = s.copies := rfl
@[simp] theorem State.setMbx_posted (s : State) (m : Nat) (b : Mbx) : (s.setMbx m b).posted = s.posted := rfl
@[simp] theorem State.setMbx_pass0 (s : State) (m : Nat) (b : Mbx) : (s.setMbx m b).pass0 = s.pass0 := rfl
@[simp] theorem State.setMbx_health (s : State) (m : Nat) (b : Mbx) : (s.setMbx m b).health = s.health := rfl
@[simp] theorem State.setMbx_ports (s : State) (m : Nat) (b : Mbx) : (s.setMbx m b).ports = s.ports := rfl
@[simp] theorem State.setMbx_outbox (s : State) (m : Nat) (b : Mbx) : (s.setMbx m b).outbox = s.outbox := rfl
@[simp] theorem State.setMbx_lanes (s : State) (m : Nat) (b : Mbx) : (s.setMbx m b).lanes = s.lanes := rfl
@[simp] theorem State.setMbx_domain (s : State) (m : Nat) (b : Mbx) : (s.setMbx m b).domain = s.domain := rfl
@[simp] theorem State.setMbx_twin (s : State) (m : Nat) (b : Mbx) : (s.setMbx m b).twin = s.twin := rfl
@[simp] theorem State.setMbx_fabs (s : State) (m : Nat) (b : Mbx) : (s.setMbx m b).fabs = s.fabs := rfl
@[simp] theorem State.setMbx_cqs (s : State) (m : Nat) (b : Mbx) : (s.setMbx m b).cqs = s.cqs := rfl
@[simp] theorem State.setMbx_fwds (s : State) (m : Nat) (b : Mbx) : (s.setMbx m b).fwds = s.fwds := rfl
@[simp] theorem State.setMbx_snaps (s : State) (m : Nat) (b : Mbx) : (s.setMbx m b).snaps = s.snaps := rfl
@[simp] theorem State.setMbx_fsnaps (s : State) (m : Nat) (b : Mbx) : (s.setMbx m b).fsnaps = s.fsnaps := rfl
@[simp] theorem State.setMbx_mode (s : State) (m : Nat) (b : Mbx) : (s.setMbx m b).mode = s.mode := rfl
@[simp] theorem State.setMbx_pages (s : State) (m : Nat) (b : Mbx) : (s.setMbx m b).pages = s.pages := rfl
@[simp] theorem State.setMbx_iris (s : State) (m : Nat) (b : Mbx) : (s.setMbx m b).iris = s.iris := rfl
@[simp] theorem State.setMbx_icores (s : State) (m : Nat) (b : Mbx) : (s.setMbx m b).icores = s.icores := rfl
@[simp] theorem State.setMbx_board (s : State) (m : Nat) (b : Mbx) : (s.setMbx m b).board = s.board := rfl

/-! ### updCmd -/

@[simp] theorem State.updCmd_pending (s : State) (c : Cmd) (f : Cmd → Cmd) : (s.updCmd c f).pending = s.pending := rfl
@[simp] theorem State.updCmd_time (s : State) (c : Cmd) (f : Cmd → Cmd) : (s.updCmd c f).time = s.time := rfl
@[simp] theorem State.updCmd_ftAdj (s : State) (c : Cmd) (f : Cmd → Cmd) : (s.updCmd c f).ftAdj = s.ftAdj := rfl
@[simp] theorem State.updCmd_ftTenths (s : State) (c : Cmd) (f : Cmd → Cmd) : (s.updCmd c f).ftTenths = s.ftTenths := rfl
@[simp] theorem State.updCmd_fresh (s : State) (c : Cmd) (f : Cmd → Cmd) : (s.updCmd c f).fresh = s.fresh := rfl
@[simp] theorem State.updCmd_mem (s : State) (c : Cmd) (f : Cmd → Cmd) : (s.updCmd c f).mem = s.mem := rfl
@[simp] theorem State.updCmd_poison (s : State) (c : Cmd) (f : Cmd → Cmd) : (s.updCmd c f).poison = s.poison := rfl
@[simp] theorem State.updCmd_host (s : State) (c : Cmd) (f : Cmd → Cmd) : (s.updCmd c f).host = s.host := rfl
@[simp] theorem State.updCmd_ctxs (s : State) (c : Cmd) (f : Cmd → Cmd) : (s.updCmd c f).ctxs = s.ctxs := rfl
@[simp] theorem State.updCmd_cores (s : State) (c : Cmd) (f : Cmd → Cmd) : (s.updCmd c f).cores = s.cores := rfl
@[simp] theorem State.updCmd_tiles (s : State) (c : Cmd) (f : Cmd → Cmd) : (s.updCmd c f).tiles = s.tiles := rfl
@[simp] theorem State.updCmd_sems (s : State) (c : Cmd) (f : Cmd → Cmd) : (s.updCmd c f).sems = s.sems := rfl
@[simp] theorem State.updCmd_signals (s : State) (c : Cmd) (f : Cmd → Cmd) : (s.updCmd c f).signals = s.signals := rfl
@[simp] theorem State.updCmd_claims (s : State) (c : Cmd) (f : Cmd → Cmd) : (s.updCmd c f).claims = s.claims := rfl
@[simp] theorem State.updCmd_parts (s : State) (c : Cmd) (f : Cmd → Cmd) : (s.updCmd c f).parts = s.parts := rfl
@[simp] theorem State.updCmd_qps (s : State) (c : Cmd) (f : Cmd → Cmd) : (s.updCmd c f).qps = s.qps := rfl
@[simp] theorem State.updCmd_launches (s : State) (c : Cmd) (f : Cmd → Cmd) : (s.updCmd c f).launches = s.launches := rfl
@[simp] theorem State.updCmd_nextLaunch (s : State) (c : Cmd) (f : Cmd → Cmd) : (s.updCmd c f).nextLaunch = s.nextLaunch := rfl
@[simp] theorem State.updCmd_images (s : State) (c : Cmd) (f : Cmd → Cmd) : (s.updCmd c f).images = s.images := rfl
@[simp] theorem State.updCmd_lastImage (s : State) (c : Cmd) (f : Cmd → Cmd) : (s.updCmd c f).lastImage = s.lastImage := rfl
@[simp] theorem State.updCmd_seqs (s : State) (c : Cmd) (f : Cmd → Cmd) : (s.updCmd c f).seqs = s.seqs := rfl
@[simp] theorem State.updCmd_regions (s : State) (c : Cmd) (f : Cmd → Cmd) : (s.updCmd c f).regions = s.regions := rfl
@[simp] theorem State.updCmd_owned (s : State) (c : Cmd) (f : Cmd → Cmd) : (s.updCmd c f).owned = s.owned := rfl
@[simp] theorem State.updCmd_hsel (s : State) (c : Cmd) (f : Cmd → Cmd) : (s.updCmd c f).hsel = s.hsel := rfl
@[simp] theorem State.updCmd_grants (s : State) (c : Cmd) (f : Cmd → Cmd) : (s.updCmd c f).grants = s.grants := rfl
@[simp] theorem State.updCmd_drains (s : State) (c : Cmd) (f : Cmd → Cmd) : (s.updCmd c f).drains = s.drains := rfl
@[simp] theorem State.updCmd_dies (s : State) (c : Cmd) (f : Cmd → Cmd) : (s.updCmd c f).dies = s.dies := rfl
@[simp] theorem State.updCmd_chans (s : State) (c : Cmd) (f : Cmd → Cmd) : (s.updCmd c f).chans = s.chans := rfl
@[simp] theorem State.updCmd_tobjs (s : State) (c : Cmd) (f : Cmd → Cmd) : (s.updCmd c f).tobjs = s.tobjs := rfl
@[simp] theorem State.updCmd_lastTobj (s : State) (c : Cmd) (f : Cmd → Cmd) : (s.updCmd c f).lastTobj = s.lastTobj := rfl
@[simp] theorem State.updCmd_wpkgs (s : State) (c : Cmd) (f : Cmd → Cmd) : (s.updCmd c f).wpkgs = s.wpkgs := rfl
@[simp] theorem State.updCmd_lastWpkg (s : State) (c : Cmd) (f : Cmd → Cmd) : (s.updCmd c f).lastWpkg = s.lastWpkg := rfl
@[simp] theorem State.updCmd_wwins (s : State) (c : Cmd) (f : Cmd → Cmd) : (s.updCmd c f).wwins = s.wwins := rfl
@[simp] theorem State.updCmd_flash (s : State) (c : Cmd) (f : Cmd → Cmd) : (s.updCmd c f).flash = s.flash := rfl
@[simp] theorem State.updCmd_pools (s : State) (c : Cmd) (f : Cmd → Cmd) : (s.updCmd c f).pools = s.pools := rfl
@[simp] theorem State.updCmd_maps (s : State) (c : Cmd) (f : Cmd → Cmd) : (s.updCmd c f).maps = s.maps := rfl
@[simp] theorem State.updCmd_mapRoom (s : State) (c : Cmd) (f : Cmd → Cmd) : (s.updCmd c f).mapRoom = s.mapRoom := rfl
@[simp] theorem State.updCmd_foxes (s : State) (c : Cmd) (f : Cmd → Cmd) : (s.updCmd c f).foxes = s.foxes := rfl
@[simp] theorem State.updCmd_prims (s : State) (c : Cmd) (f : Cmd → Cmd) : (s.updCmd c f).prims = s.prims := rfl
@[simp] theorem State.updCmd_mbxs (s : State) (c : Cmd) (f : Cmd → Cmd) : (s.updCmd c f).mbxs = s.mbxs := rfl
@[simp] theorem State.updCmd_turn (s : State) (c : Cmd) (f : Cmd → Cmd) : (s.updCmd c f).turn = s.turn := rfl
@[simp] theorem State.updCmd_cpRst (s : State) (c : Cmd) (f : Cmd → Cmd) : (s.updCmd c f).cpRst = s.cpRst := rfl
@[simp] theorem State.updCmd_replays (s : State) (c : Cmd) (f : Cmd → Cmd) : (s.updCmd c f).replays = s.replays := rfl
@[simp] theorem State.updCmd_ready (s : State) (c : Cmd) (f : Cmd → Cmd) : (s.updCmd c f).ready = s.ready := rfl
@[simp] theorem State.updCmd_patch (s : State) (c : Cmd) (f : Cmd → Cmd) : (s.updCmd c f).patch = s.patch := rfl
@[simp] theorem State.updCmd_nextPatch (s : State) (c : Cmd) (f : Cmd → Cmd) : (s.updCmd c f).nextPatch = s.nextPatch := rfl
@[simp] theorem State.updCmd_funcs (s : State) (c : Cmd) (f : Cmd → Cmd) : (s.updCmd c f).funcs = s.funcs := rfl
@[simp] theorem State.updCmd_pkeys (s : State) (c : Cmd) (f : Cmd → Cmd) : (s.updCmd c f).pkeys = s.pkeys := rfl
@[simp] theorem State.updCmd_secure (s : State) (c : Cmd) (f : Cmd → Cmd) : (s.updCmd c f).secure = s.secure := rfl
@[simp] theorem State.updCmd_linkUp (s : State) (c : Cmd) (f : Cmd → Cmd) : (s.updCmd c f).linkUp = s.linkUp := rfl
@[simp] theorem State.updCmd_sent (s : State) (c : Cmd) (f : Cmd → Cmd) : (s.updCmd c f).sent = s.sent := rfl
@[simp] theorem State.updCmd_bars (s : State) (c : Cmd) (f : Cmd → Cmd) : (s.updCmd c f).bars = s.bars := rfl
@[simp] theorem State.updCmd_runs (s : State) (c : Cmd) (f : Cmd → Cmd) : (s.updCmd c f).runs = s.runs := rfl
@[simp] theorem State.updCmd_stepLogs (s : State) (c : Cmd) (f : Cmd → Cmd) : (s.updCmd c f).stepLogs = s.stepLogs := rfl
@[simp] theorem State.updCmd_bounds (s : State) (c : Cmd) (f : Cmd → Cmd) : (s.updCmd c f).bounds = s.bounds := rfl
@[simp] theorem State.updCmd_copies (s : State) (c : Cmd) (f : Cmd → Cmd) : (s.updCmd c f).copies = s.copies := rfl
@[simp] theorem State.updCmd_posted (s : State) (c : Cmd) (f : Cmd → Cmd) : (s.updCmd c f).posted = s.posted := rfl
@[simp] theorem State.updCmd_pass0 (s : State) (c : Cmd) (f : Cmd → Cmd) : (s.updCmd c f).pass0 = s.pass0 := rfl
@[simp] theorem State.updCmd_health (s : State) (c : Cmd) (f : Cmd → Cmd) : (s.updCmd c f).health = s.health := rfl
@[simp] theorem State.updCmd_ports (s : State) (c : Cmd) (f : Cmd → Cmd) : (s.updCmd c f).ports = s.ports := rfl
@[simp] theorem State.updCmd_outbox (s : State) (c : Cmd) (f : Cmd → Cmd) : (s.updCmd c f).outbox = s.outbox := rfl
@[simp] theorem State.updCmd_lanes (s : State) (c : Cmd) (f : Cmd → Cmd) : (s.updCmd c f).lanes = s.lanes := rfl
@[simp] theorem State.updCmd_domain (s : State) (c : Cmd) (f : Cmd → Cmd) : (s.updCmd c f).domain = s.domain := rfl
@[simp] theorem State.updCmd_twin (s : State) (c : Cmd) (f : Cmd → Cmd) : (s.updCmd c f).twin = s.twin := rfl
@[simp] theorem State.updCmd_fabs (s : State) (c : Cmd) (f : Cmd → Cmd) : (s.updCmd c f).fabs = s.fabs := rfl
@[simp] theorem State.updCmd_cqs (s : State) (c : Cmd) (f : Cmd → Cmd) : (s.updCmd c f).cqs = s.cqs := rfl
@[simp] theorem State.updCmd_fwds (s : State) (c : Cmd) (f : Cmd → Cmd) : (s.updCmd c f).fwds = s.fwds := rfl
@[simp] theorem State.updCmd_snaps (s : State) (c : Cmd) (f : Cmd → Cmd) : (s.updCmd c f).snaps = s.snaps := rfl
@[simp] theorem State.updCmd_fsnaps (s : State) (c : Cmd) (f : Cmd → Cmd) : (s.updCmd c f).fsnaps = s.fsnaps := rfl
@[simp] theorem State.updCmd_mode (s : State) (c : Cmd) (f : Cmd → Cmd) : (s.updCmd c f).mode = s.mode := rfl
@[simp] theorem State.updCmd_pages (s : State) (c : Cmd) (f : Cmd → Cmd) : (s.updCmd c f).pages = s.pages := rfl
@[simp] theorem State.updCmd_iris (s : State) (c : Cmd) (f : Cmd → Cmd) : (s.updCmd c f).iris = s.iris := rfl
@[simp] theorem State.updCmd_icores (s : State) (c : Cmd) (f : Cmd → Cmd) : (s.updCmd c f).icores = s.icores := rfl
@[simp] theorem State.updCmd_board (s : State) (c : Cmd) (f : Cmd → Cmd) : (s.updCmd c f).board = s.board := rfl

/-! ### updFlash -/

@[simp] theorem State.updFlash_pending (s : State) (g : Flash → Flash) : (s.updFlash g).pending = s.pending := rfl
@[simp] theorem State.updFlash_time (s : State) (g : Flash → Flash) : (s.updFlash g).time = s.time := rfl
@[simp] theorem State.updFlash_ftAdj (s : State) (g : Flash → Flash) : (s.updFlash g).ftAdj = s.ftAdj := rfl
@[simp] theorem State.updFlash_ftTenths (s : State) (g : Flash → Flash) : (s.updFlash g).ftTenths = s.ftTenths := rfl
@[simp] theorem State.updFlash_fresh (s : State) (g : Flash → Flash) : (s.updFlash g).fresh = s.fresh := rfl
@[simp] theorem State.updFlash_mem (s : State) (g : Flash → Flash) : (s.updFlash g).mem = s.mem := rfl
@[simp] theorem State.updFlash_poison (s : State) (g : Flash → Flash) : (s.updFlash g).poison = s.poison := rfl
@[simp] theorem State.updFlash_host (s : State) (g : Flash → Flash) : (s.updFlash g).host = s.host := rfl
@[simp] theorem State.updFlash_ctxs (s : State) (g : Flash → Flash) : (s.updFlash g).ctxs = s.ctxs := rfl
@[simp] theorem State.updFlash_cores (s : State) (g : Flash → Flash) : (s.updFlash g).cores = s.cores := rfl
@[simp] theorem State.updFlash_tiles (s : State) (g : Flash → Flash) : (s.updFlash g).tiles = s.tiles := rfl
@[simp] theorem State.updFlash_sems (s : State) (g : Flash → Flash) : (s.updFlash g).sems = s.sems := rfl
@[simp] theorem State.updFlash_signals (s : State) (g : Flash → Flash) : (s.updFlash g).signals = s.signals := rfl
@[simp] theorem State.updFlash_claims (s : State) (g : Flash → Flash) : (s.updFlash g).claims = s.claims := rfl
@[simp] theorem State.updFlash_parts (s : State) (g : Flash → Flash) : (s.updFlash g).parts = s.parts := rfl
@[simp] theorem State.updFlash_qps (s : State) (g : Flash → Flash) : (s.updFlash g).qps = s.qps := rfl
@[simp] theorem State.updFlash_launches (s : State) (g : Flash → Flash) : (s.updFlash g).launches = s.launches := rfl
@[simp] theorem State.updFlash_nextLaunch (s : State) (g : Flash → Flash) : (s.updFlash g).nextLaunch = s.nextLaunch := rfl
@[simp] theorem State.updFlash_images (s : State) (g : Flash → Flash) : (s.updFlash g).images = s.images := rfl
@[simp] theorem State.updFlash_lastImage (s : State) (g : Flash → Flash) : (s.updFlash g).lastImage = s.lastImage := rfl
@[simp] theorem State.updFlash_seqs (s : State) (g : Flash → Flash) : (s.updFlash g).seqs = s.seqs := rfl
@[simp] theorem State.updFlash_regions (s : State) (g : Flash → Flash) : (s.updFlash g).regions = s.regions := rfl
@[simp] theorem State.updFlash_owned (s : State) (g : Flash → Flash) : (s.updFlash g).owned = s.owned := rfl
@[simp] theorem State.updFlash_hsel (s : State) (g : Flash → Flash) : (s.updFlash g).hsel = s.hsel := rfl
@[simp] theorem State.updFlash_grants (s : State) (g : Flash → Flash) : (s.updFlash g).grants = s.grants := rfl
@[simp] theorem State.updFlash_drains (s : State) (g : Flash → Flash) : (s.updFlash g).drains = s.drains := rfl
@[simp] theorem State.updFlash_dies (s : State) (g : Flash → Flash) : (s.updFlash g).dies = s.dies := rfl
@[simp] theorem State.updFlash_chans (s : State) (g : Flash → Flash) : (s.updFlash g).chans = s.chans := rfl
@[simp] theorem State.updFlash_tobjs (s : State) (g : Flash → Flash) : (s.updFlash g).tobjs = s.tobjs := rfl
@[simp] theorem State.updFlash_lastTobj (s : State) (g : Flash → Flash) : (s.updFlash g).lastTobj = s.lastTobj := rfl
@[simp] theorem State.updFlash_wpkgs (s : State) (g : Flash → Flash) : (s.updFlash g).wpkgs = s.wpkgs := rfl
@[simp] theorem State.updFlash_lastWpkg (s : State) (g : Flash → Flash) : (s.updFlash g).lastWpkg = s.lastWpkg := rfl
@[simp] theorem State.updFlash_wwins (s : State) (g : Flash → Flash) : (s.updFlash g).wwins = s.wwins := rfl
@[simp] theorem State.updFlash_pools (s : State) (g : Flash → Flash) : (s.updFlash g).pools = s.pools := rfl
@[simp] theorem State.updFlash_maps (s : State) (g : Flash → Flash) : (s.updFlash g).maps = s.maps := rfl
@[simp] theorem State.updFlash_mapRoom (s : State) (g : Flash → Flash) : (s.updFlash g).mapRoom = s.mapRoom := rfl
@[simp] theorem State.updFlash_foxes (s : State) (g : Flash → Flash) : (s.updFlash g).foxes = s.foxes := rfl
@[simp] theorem State.updFlash_prims (s : State) (g : Flash → Flash) : (s.updFlash g).prims = s.prims := rfl
@[simp] theorem State.updFlash_mbxs (s : State) (g : Flash → Flash) : (s.updFlash g).mbxs = s.mbxs := rfl
@[simp] theorem State.updFlash_journal (s : State) (g : Flash → Flash) : (s.updFlash g).journal = s.journal := rfl
@[simp] theorem State.updFlash_turn (s : State) (g : Flash → Flash) : (s.updFlash g).turn = s.turn := rfl
@[simp] theorem State.updFlash_cpRst (s : State) (g : Flash → Flash) : (s.updFlash g).cpRst = s.cpRst := rfl
@[simp] theorem State.updFlash_replays (s : State) (g : Flash → Flash) : (s.updFlash g).replays = s.replays := rfl
@[simp] theorem State.updFlash_ready (s : State) (g : Flash → Flash) : (s.updFlash g).ready = s.ready := rfl
@[simp] theorem State.updFlash_patch (s : State) (g : Flash → Flash) : (s.updFlash g).patch = s.patch := rfl
@[simp] theorem State.updFlash_nextPatch (s : State) (g : Flash → Flash) : (s.updFlash g).nextPatch = s.nextPatch := rfl
@[simp] theorem State.updFlash_funcs (s : State) (g : Flash → Flash) : (s.updFlash g).funcs = s.funcs := rfl
@[simp] theorem State.updFlash_pkeys (s : State) (g : Flash → Flash) : (s.updFlash g).pkeys = s.pkeys := rfl
@[simp] theorem State.updFlash_secure (s : State) (g : Flash → Flash) : (s.updFlash g).secure = s.secure := rfl
@[simp] theorem State.updFlash_linkUp (s : State) (g : Flash → Flash) : (s.updFlash g).linkUp = s.linkUp := rfl
@[simp] theorem State.updFlash_sent (s : State) (g : Flash → Flash) : (s.updFlash g).sent = s.sent := rfl
@[simp] theorem State.updFlash_bars (s : State) (g : Flash → Flash) : (s.updFlash g).bars = s.bars := rfl
@[simp] theorem State.updFlash_runs (s : State) (g : Flash → Flash) : (s.updFlash g).runs = s.runs := rfl
@[simp] theorem State.updFlash_stepLogs (s : State) (g : Flash → Flash) : (s.updFlash g).stepLogs = s.stepLogs := rfl
@[simp] theorem State.updFlash_bounds (s : State) (g : Flash → Flash) : (s.updFlash g).bounds = s.bounds := rfl
@[simp] theorem State.updFlash_copies (s : State) (g : Flash → Flash) : (s.updFlash g).copies = s.copies := rfl
@[simp] theorem State.updFlash_posted (s : State) (g : Flash → Flash) : (s.updFlash g).posted = s.posted := rfl
@[simp] theorem State.updFlash_pass0 (s : State) (g : Flash → Flash) : (s.updFlash g).pass0 = s.pass0 := rfl
@[simp] theorem State.updFlash_health (s : State) (g : Flash → Flash) : (s.updFlash g).health = s.health := rfl
@[simp] theorem State.updFlash_ports (s : State) (g : Flash → Flash) : (s.updFlash g).ports = s.ports := rfl
@[simp] theorem State.updFlash_outbox (s : State) (g : Flash → Flash) : (s.updFlash g).outbox = s.outbox := rfl
@[simp] theorem State.updFlash_lanes (s : State) (g : Flash → Flash) : (s.updFlash g).lanes = s.lanes := rfl
@[simp] theorem State.updFlash_domain (s : State) (g : Flash → Flash) : (s.updFlash g).domain = s.domain := rfl
@[simp] theorem State.updFlash_twin (s : State) (g : Flash → Flash) : (s.updFlash g).twin = s.twin := rfl
@[simp] theorem State.updFlash_fabs (s : State) (g : Flash → Flash) : (s.updFlash g).fabs = s.fabs := rfl
@[simp] theorem State.updFlash_cqs (s : State) (g : Flash → Flash) : (s.updFlash g).cqs = s.cqs := rfl
@[simp] theorem State.updFlash_fwds (s : State) (g : Flash → Flash) : (s.updFlash g).fwds = s.fwds := rfl
@[simp] theorem State.updFlash_snaps (s : State) (g : Flash → Flash) : (s.updFlash g).snaps = s.snaps := rfl
@[simp] theorem State.updFlash_fsnaps (s : State) (g : Flash → Flash) : (s.updFlash g).fsnaps = s.fsnaps := rfl
@[simp] theorem State.updFlash_mode (s : State) (g : Flash → Flash) : (s.updFlash g).mode = s.mode := rfl
@[simp] theorem State.updFlash_pages (s : State) (g : Flash → Flash) : (s.updFlash g).pages = s.pages := rfl
@[simp] theorem State.updFlash_iris (s : State) (g : Flash → Flash) : (s.updFlash g).iris = s.iris := rfl
@[simp] theorem State.updFlash_icores (s : State) (g : Flash → Flash) : (s.updFlash g).icores = s.icores := rfl
@[simp] theorem State.updFlash_board (s : State) (g : Flash → Flash) : (s.updFlash g).board = s.board := rfl

/-! ### updTobj -/

@[simp] theorem State.updTobj_pending (s : State) (n : Nat) (f : Tobj → Tobj) : (s.updTobj n f).pending = s.pending := rfl
@[simp] theorem State.updTobj_time (s : State) (n : Nat) (f : Tobj → Tobj) : (s.updTobj n f).time = s.time := rfl
@[simp] theorem State.updTobj_ftAdj (s : State) (n : Nat) (f : Tobj → Tobj) : (s.updTobj n f).ftAdj = s.ftAdj := rfl
@[simp] theorem State.updTobj_ftTenths (s : State) (n : Nat) (f : Tobj → Tobj) : (s.updTobj n f).ftTenths = s.ftTenths := rfl
@[simp] theorem State.updTobj_fresh (s : State) (n : Nat) (f : Tobj → Tobj) : (s.updTobj n f).fresh = s.fresh := rfl
@[simp] theorem State.updTobj_mem (s : State) (n : Nat) (f : Tobj → Tobj) : (s.updTobj n f).mem = s.mem := rfl
@[simp] theorem State.updTobj_poison (s : State) (n : Nat) (f : Tobj → Tobj) : (s.updTobj n f).poison = s.poison := rfl
@[simp] theorem State.updTobj_host (s : State) (n : Nat) (f : Tobj → Tobj) : (s.updTobj n f).host = s.host := rfl
@[simp] theorem State.updTobj_ctxs (s : State) (n : Nat) (f : Tobj → Tobj) : (s.updTobj n f).ctxs = s.ctxs := rfl
@[simp] theorem State.updTobj_cores (s : State) (n : Nat) (f : Tobj → Tobj) : (s.updTobj n f).cores = s.cores := rfl
@[simp] theorem State.updTobj_tiles (s : State) (n : Nat) (f : Tobj → Tobj) : (s.updTobj n f).tiles = s.tiles := rfl
@[simp] theorem State.updTobj_sems (s : State) (n : Nat) (f : Tobj → Tobj) : (s.updTobj n f).sems = s.sems := rfl
@[simp] theorem State.updTobj_signals (s : State) (n : Nat) (f : Tobj → Tobj) : (s.updTobj n f).signals = s.signals := rfl
@[simp] theorem State.updTobj_claims (s : State) (n : Nat) (f : Tobj → Tobj) : (s.updTobj n f).claims = s.claims := rfl
@[simp] theorem State.updTobj_parts (s : State) (n : Nat) (f : Tobj → Tobj) : (s.updTobj n f).parts = s.parts := rfl
@[simp] theorem State.updTobj_qps (s : State) (n : Nat) (f : Tobj → Tobj) : (s.updTobj n f).qps = s.qps := rfl
@[simp] theorem State.updTobj_launches (s : State) (n : Nat) (f : Tobj → Tobj) : (s.updTobj n f).launches = s.launches := rfl
@[simp] theorem State.updTobj_nextLaunch (s : State) (n : Nat) (f : Tobj → Tobj) : (s.updTobj n f).nextLaunch = s.nextLaunch := rfl
@[simp] theorem State.updTobj_images (s : State) (n : Nat) (f : Tobj → Tobj) : (s.updTobj n f).images = s.images := rfl
@[simp] theorem State.updTobj_lastImage (s : State) (n : Nat) (f : Tobj → Tobj) : (s.updTobj n f).lastImage = s.lastImage := rfl
@[simp] theorem State.updTobj_seqs (s : State) (n : Nat) (f : Tobj → Tobj) : (s.updTobj n f).seqs = s.seqs := rfl
@[simp] theorem State.updTobj_regions (s : State) (n : Nat) (f : Tobj → Tobj) : (s.updTobj n f).regions = s.regions := rfl
@[simp] theorem State.updTobj_owned (s : State) (n : Nat) (f : Tobj → Tobj) : (s.updTobj n f).owned = s.owned := rfl
@[simp] theorem State.updTobj_hsel (s : State) (n : Nat) (f : Tobj → Tobj) : (s.updTobj n f).hsel = s.hsel := rfl
@[simp] theorem State.updTobj_grants (s : State) (n : Nat) (f : Tobj → Tobj) : (s.updTobj n f).grants = s.grants := rfl
@[simp] theorem State.updTobj_drains (s : State) (n : Nat) (f : Tobj → Tobj) : (s.updTobj n f).drains = s.drains := rfl
@[simp] theorem State.updTobj_dies (s : State) (n : Nat) (f : Tobj → Tobj) : (s.updTobj n f).dies = s.dies := rfl
@[simp] theorem State.updTobj_chans (s : State) (n : Nat) (f : Tobj → Tobj) : (s.updTobj n f).chans = s.chans := rfl
@[simp] theorem State.updTobj_lastTobj (s : State) (n : Nat) (f : Tobj → Tobj) : (s.updTobj n f).lastTobj = s.lastTobj := rfl
@[simp] theorem State.updTobj_wpkgs (s : State) (n : Nat) (f : Tobj → Tobj) : (s.updTobj n f).wpkgs = s.wpkgs := rfl
@[simp] theorem State.updTobj_lastWpkg (s : State) (n : Nat) (f : Tobj → Tobj) : (s.updTobj n f).lastWpkg = s.lastWpkg := rfl
@[simp] theorem State.updTobj_wwins (s : State) (n : Nat) (f : Tobj → Tobj) : (s.updTobj n f).wwins = s.wwins := rfl
@[simp] theorem State.updTobj_flash (s : State) (n : Nat) (f : Tobj → Tobj) : (s.updTobj n f).flash = s.flash := rfl
@[simp] theorem State.updTobj_pools (s : State) (n : Nat) (f : Tobj → Tobj) : (s.updTobj n f).pools = s.pools := rfl
@[simp] theorem State.updTobj_maps (s : State) (n : Nat) (f : Tobj → Tobj) : (s.updTobj n f).maps = s.maps := rfl
@[simp] theorem State.updTobj_mapRoom (s : State) (n : Nat) (f : Tobj → Tobj) : (s.updTobj n f).mapRoom = s.mapRoom := rfl
@[simp] theorem State.updTobj_foxes (s : State) (n : Nat) (f : Tobj → Tobj) : (s.updTobj n f).foxes = s.foxes := rfl
@[simp] theorem State.updTobj_prims (s : State) (n : Nat) (f : Tobj → Tobj) : (s.updTobj n f).prims = s.prims := rfl
@[simp] theorem State.updTobj_mbxs (s : State) (n : Nat) (f : Tobj → Tobj) : (s.updTobj n f).mbxs = s.mbxs := rfl
@[simp] theorem State.updTobj_journal (s : State) (n : Nat) (f : Tobj → Tobj) : (s.updTobj n f).journal = s.journal := rfl
@[simp] theorem State.updTobj_turn (s : State) (n : Nat) (f : Tobj → Tobj) : (s.updTobj n f).turn = s.turn := rfl
@[simp] theorem State.updTobj_cpRst (s : State) (n : Nat) (f : Tobj → Tobj) : (s.updTobj n f).cpRst = s.cpRst := rfl
@[simp] theorem State.updTobj_replays (s : State) (n : Nat) (f : Tobj → Tobj) : (s.updTobj n f).replays = s.replays := rfl
@[simp] theorem State.updTobj_ready (s : State) (n : Nat) (f : Tobj → Tobj) : (s.updTobj n f).ready = s.ready := rfl
@[simp] theorem State.updTobj_patch (s : State) (n : Nat) (f : Tobj → Tobj) : (s.updTobj n f).patch = s.patch := rfl
@[simp] theorem State.updTobj_nextPatch (s : State) (n : Nat) (f : Tobj → Tobj) : (s.updTobj n f).nextPatch = s.nextPatch := rfl
@[simp] theorem State.updTobj_funcs (s : State) (n : Nat) (f : Tobj → Tobj) : (s.updTobj n f).funcs = s.funcs := rfl
@[simp] theorem State.updTobj_pkeys (s : State) (n : Nat) (f : Tobj → Tobj) : (s.updTobj n f).pkeys = s.pkeys := rfl
@[simp] theorem State.updTobj_secure (s : State) (n : Nat) (f : Tobj → Tobj) : (s.updTobj n f).secure = s.secure := rfl
@[simp] theorem State.updTobj_linkUp (s : State) (n : Nat) (f : Tobj → Tobj) : (s.updTobj n f).linkUp = s.linkUp := rfl
@[simp] theorem State.updTobj_sent (s : State) (n : Nat) (f : Tobj → Tobj) : (s.updTobj n f).sent = s.sent := rfl
@[simp] theorem State.updTobj_bars (s : State) (n : Nat) (f : Tobj → Tobj) : (s.updTobj n f).bars = s.bars := rfl
@[simp] theorem State.updTobj_runs (s : State) (n : Nat) (f : Tobj → Tobj) : (s.updTobj n f).runs = s.runs := rfl
@[simp] theorem State.updTobj_stepLogs (s : State) (n : Nat) (f : Tobj → Tobj) : (s.updTobj n f).stepLogs = s.stepLogs := rfl
@[simp] theorem State.updTobj_bounds (s : State) (n : Nat) (f : Tobj → Tobj) : (s.updTobj n f).bounds = s.bounds := rfl
@[simp] theorem State.updTobj_copies (s : State) (n : Nat) (f : Tobj → Tobj) : (s.updTobj n f).copies = s.copies := rfl
@[simp] theorem State.updTobj_posted (s : State) (n : Nat) (f : Tobj → Tobj) : (s.updTobj n f).posted = s.posted := rfl
@[simp] theorem State.updTobj_pass0 (s : State) (n : Nat) (f : Tobj → Tobj) : (s.updTobj n f).pass0 = s.pass0 := rfl
@[simp] theorem State.updTobj_health (s : State) (n : Nat) (f : Tobj → Tobj) : (s.updTobj n f).health = s.health := rfl
@[simp] theorem State.updTobj_ports (s : State) (n : Nat) (f : Tobj → Tobj) : (s.updTobj n f).ports = s.ports := rfl
@[simp] theorem State.updTobj_outbox (s : State) (n : Nat) (f : Tobj → Tobj) : (s.updTobj n f).outbox = s.outbox := rfl
@[simp] theorem State.updTobj_lanes (s : State) (n : Nat) (f : Tobj → Tobj) : (s.updTobj n f).lanes = s.lanes := rfl
@[simp] theorem State.updTobj_domain (s : State) (n : Nat) (f : Tobj → Tobj) : (s.updTobj n f).domain = s.domain := rfl
@[simp] theorem State.updTobj_twin (s : State) (n : Nat) (f : Tobj → Tobj) : (s.updTobj n f).twin = s.twin := rfl
@[simp] theorem State.updTobj_fabs (s : State) (n : Nat) (f : Tobj → Tobj) : (s.updTobj n f).fabs = s.fabs := rfl
@[simp] theorem State.updTobj_cqs (s : State) (n : Nat) (f : Tobj → Tobj) : (s.updTobj n f).cqs = s.cqs := rfl
@[simp] theorem State.updTobj_fwds (s : State) (n : Nat) (f : Tobj → Tobj) : (s.updTobj n f).fwds = s.fwds := rfl
@[simp] theorem State.updTobj_snaps (s : State) (n : Nat) (f : Tobj → Tobj) : (s.updTobj n f).snaps = s.snaps := rfl
@[simp] theorem State.updTobj_fsnaps (s : State) (n : Nat) (f : Tobj → Tobj) : (s.updTobj n f).fsnaps = s.fsnaps := rfl
@[simp] theorem State.updTobj_mode (s : State) (n : Nat) (f : Tobj → Tobj) : (s.updTobj n f).mode = s.mode := rfl
@[simp] theorem State.updTobj_pages (s : State) (n : Nat) (f : Tobj → Tobj) : (s.updTobj n f).pages = s.pages := rfl
@[simp] theorem State.updTobj_iris (s : State) (n : Nat) (f : Tobj → Tobj) : (s.updTobj n f).iris = s.iris := rfl
@[simp] theorem State.updTobj_icores (s : State) (n : Nat) (f : Tobj → Tobj) : (s.updTobj n f).icores = s.icores := rfl
@[simp] theorem State.updTobj_board (s : State) (n : Nat) (f : Tobj → Tobj) : (s.updTobj n f).board = s.board := rfl

/-! ### updWpkg -/

@[simp] theorem State.updWpkg_pending (s : State) (n : Nat) (f : Wpkg → Wpkg) : (s.updWpkg n f).pending = s.pending := rfl
@[simp] theorem State.updWpkg_time (s : State) (n : Nat) (f : Wpkg → Wpkg) : (s.updWpkg n f).time = s.time := rfl
@[simp] theorem State.updWpkg_ftAdj (s : State) (n : Nat) (f : Wpkg → Wpkg) : (s.updWpkg n f).ftAdj = s.ftAdj := rfl
@[simp] theorem State.updWpkg_ftTenths (s : State) (n : Nat) (f : Wpkg → Wpkg) : (s.updWpkg n f).ftTenths = s.ftTenths := rfl
@[simp] theorem State.updWpkg_fresh (s : State) (n : Nat) (f : Wpkg → Wpkg) : (s.updWpkg n f).fresh = s.fresh := rfl
@[simp] theorem State.updWpkg_mem (s : State) (n : Nat) (f : Wpkg → Wpkg) : (s.updWpkg n f).mem = s.mem := rfl
@[simp] theorem State.updWpkg_poison (s : State) (n : Nat) (f : Wpkg → Wpkg) : (s.updWpkg n f).poison = s.poison := rfl
@[simp] theorem State.updWpkg_host (s : State) (n : Nat) (f : Wpkg → Wpkg) : (s.updWpkg n f).host = s.host := rfl
@[simp] theorem State.updWpkg_ctxs (s : State) (n : Nat) (f : Wpkg → Wpkg) : (s.updWpkg n f).ctxs = s.ctxs := rfl
@[simp] theorem State.updWpkg_cores (s : State) (n : Nat) (f : Wpkg → Wpkg) : (s.updWpkg n f).cores = s.cores := rfl
@[simp] theorem State.updWpkg_tiles (s : State) (n : Nat) (f : Wpkg → Wpkg) : (s.updWpkg n f).tiles = s.tiles := rfl
@[simp] theorem State.updWpkg_sems (s : State) (n : Nat) (f : Wpkg → Wpkg) : (s.updWpkg n f).sems = s.sems := rfl
@[simp] theorem State.updWpkg_signals (s : State) (n : Nat) (f : Wpkg → Wpkg) : (s.updWpkg n f).signals = s.signals := rfl
@[simp] theorem State.updWpkg_claims (s : State) (n : Nat) (f : Wpkg → Wpkg) : (s.updWpkg n f).claims = s.claims := rfl
@[simp] theorem State.updWpkg_parts (s : State) (n : Nat) (f : Wpkg → Wpkg) : (s.updWpkg n f).parts = s.parts := rfl
@[simp] theorem State.updWpkg_qps (s : State) (n : Nat) (f : Wpkg → Wpkg) : (s.updWpkg n f).qps = s.qps := rfl
@[simp] theorem State.updWpkg_launches (s : State) (n : Nat) (f : Wpkg → Wpkg) : (s.updWpkg n f).launches = s.launches := rfl
@[simp] theorem State.updWpkg_nextLaunch (s : State) (n : Nat) (f : Wpkg → Wpkg) : (s.updWpkg n f).nextLaunch = s.nextLaunch := rfl
@[simp] theorem State.updWpkg_images (s : State) (n : Nat) (f : Wpkg → Wpkg) : (s.updWpkg n f).images = s.images := rfl
@[simp] theorem State.updWpkg_lastImage (s : State) (n : Nat) (f : Wpkg → Wpkg) : (s.updWpkg n f).lastImage = s.lastImage := rfl
@[simp] theorem State.updWpkg_seqs (s : State) (n : Nat) (f : Wpkg → Wpkg) : (s.updWpkg n f).seqs = s.seqs := rfl
@[simp] theorem State.updWpkg_regions (s : State) (n : Nat) (f : Wpkg → Wpkg) : (s.updWpkg n f).regions = s.regions := rfl
@[simp] theorem State.updWpkg_owned (s : State) (n : Nat) (f : Wpkg → Wpkg) : (s.updWpkg n f).owned = s.owned := rfl
@[simp] theorem State.updWpkg_hsel (s : State) (n : Nat) (f : Wpkg → Wpkg) : (s.updWpkg n f).hsel = s.hsel := rfl
@[simp] theorem State.updWpkg_grants (s : State) (n : Nat) (f : Wpkg → Wpkg) : (s.updWpkg n f).grants = s.grants := rfl
@[simp] theorem State.updWpkg_drains (s : State) (n : Nat) (f : Wpkg → Wpkg) : (s.updWpkg n f).drains = s.drains := rfl
@[simp] theorem State.updWpkg_dies (s : State) (n : Nat) (f : Wpkg → Wpkg) : (s.updWpkg n f).dies = s.dies := rfl
@[simp] theorem State.updWpkg_chans (s : State) (n : Nat) (f : Wpkg → Wpkg) : (s.updWpkg n f).chans = s.chans := rfl
@[simp] theorem State.updWpkg_tobjs (s : State) (n : Nat) (f : Wpkg → Wpkg) : (s.updWpkg n f).tobjs = s.tobjs := rfl
@[simp] theorem State.updWpkg_lastTobj (s : State) (n : Nat) (f : Wpkg → Wpkg) : (s.updWpkg n f).lastTobj = s.lastTobj := rfl
@[simp] theorem State.updWpkg_lastWpkg (s : State) (n : Nat) (f : Wpkg → Wpkg) : (s.updWpkg n f).lastWpkg = s.lastWpkg := rfl
@[simp] theorem State.updWpkg_wwins (s : State) (n : Nat) (f : Wpkg → Wpkg) : (s.updWpkg n f).wwins = s.wwins := rfl
@[simp] theorem State.updWpkg_flash (s : State) (n : Nat) (f : Wpkg → Wpkg) : (s.updWpkg n f).flash = s.flash := rfl
@[simp] theorem State.updWpkg_pools (s : State) (n : Nat) (f : Wpkg → Wpkg) : (s.updWpkg n f).pools = s.pools := rfl
@[simp] theorem State.updWpkg_maps (s : State) (n : Nat) (f : Wpkg → Wpkg) : (s.updWpkg n f).maps = s.maps := rfl
@[simp] theorem State.updWpkg_mapRoom (s : State) (n : Nat) (f : Wpkg → Wpkg) : (s.updWpkg n f).mapRoom = s.mapRoom := rfl
@[simp] theorem State.updWpkg_foxes (s : State) (n : Nat) (f : Wpkg → Wpkg) : (s.updWpkg n f).foxes = s.foxes := rfl
@[simp] theorem State.updWpkg_prims (s : State) (n : Nat) (f : Wpkg → Wpkg) : (s.updWpkg n f).prims = s.prims := rfl
@[simp] theorem State.updWpkg_mbxs (s : State) (n : Nat) (f : Wpkg → Wpkg) : (s.updWpkg n f).mbxs = s.mbxs := rfl
@[simp] theorem State.updWpkg_journal (s : State) (n : Nat) (f : Wpkg → Wpkg) : (s.updWpkg n f).journal = s.journal := rfl
@[simp] theorem State.updWpkg_turn (s : State) (n : Nat) (f : Wpkg → Wpkg) : (s.updWpkg n f).turn = s.turn := rfl
@[simp] theorem State.updWpkg_cpRst (s : State) (n : Nat) (f : Wpkg → Wpkg) : (s.updWpkg n f).cpRst = s.cpRst := rfl
@[simp] theorem State.updWpkg_replays (s : State) (n : Nat) (f : Wpkg → Wpkg) : (s.updWpkg n f).replays = s.replays := rfl
@[simp] theorem State.updWpkg_ready (s : State) (n : Nat) (f : Wpkg → Wpkg) : (s.updWpkg n f).ready = s.ready := rfl
@[simp] theorem State.updWpkg_patch (s : State) (n : Nat) (f : Wpkg → Wpkg) : (s.updWpkg n f).patch = s.patch := rfl
@[simp] theorem State.updWpkg_nextPatch (s : State) (n : Nat) (f : Wpkg → Wpkg) : (s.updWpkg n f).nextPatch = s.nextPatch := rfl
@[simp] theorem State.updWpkg_funcs (s : State) (n : Nat) (f : Wpkg → Wpkg) : (s.updWpkg n f).funcs = s.funcs := rfl
@[simp] theorem State.updWpkg_pkeys (s : State) (n : Nat) (f : Wpkg → Wpkg) : (s.updWpkg n f).pkeys = s.pkeys := rfl
@[simp] theorem State.updWpkg_secure (s : State) (n : Nat) (f : Wpkg → Wpkg) : (s.updWpkg n f).secure = s.secure := rfl
@[simp] theorem State.updWpkg_linkUp (s : State) (n : Nat) (f : Wpkg → Wpkg) : (s.updWpkg n f).linkUp = s.linkUp := rfl
@[simp] theorem State.updWpkg_sent (s : State) (n : Nat) (f : Wpkg → Wpkg) : (s.updWpkg n f).sent = s.sent := rfl
@[simp] theorem State.updWpkg_bars (s : State) (n : Nat) (f : Wpkg → Wpkg) : (s.updWpkg n f).bars = s.bars := rfl
@[simp] theorem State.updWpkg_runs (s : State) (n : Nat) (f : Wpkg → Wpkg) : (s.updWpkg n f).runs = s.runs := rfl
@[simp] theorem State.updWpkg_stepLogs (s : State) (n : Nat) (f : Wpkg → Wpkg) : (s.updWpkg n f).stepLogs = s.stepLogs := rfl
@[simp] theorem State.updWpkg_bounds (s : State) (n : Nat) (f : Wpkg → Wpkg) : (s.updWpkg n f).bounds = s.bounds := rfl
@[simp] theorem State.updWpkg_copies (s : State) (n : Nat) (f : Wpkg → Wpkg) : (s.updWpkg n f).copies = s.copies := rfl
@[simp] theorem State.updWpkg_posted (s : State) (n : Nat) (f : Wpkg → Wpkg) : (s.updWpkg n f).posted = s.posted := rfl
@[simp] theorem State.updWpkg_pass0 (s : State) (n : Nat) (f : Wpkg → Wpkg) : (s.updWpkg n f).pass0 = s.pass0 := rfl
@[simp] theorem State.updWpkg_health (s : State) (n : Nat) (f : Wpkg → Wpkg) : (s.updWpkg n f).health = s.health := rfl
@[simp] theorem State.updWpkg_ports (s : State) (n : Nat) (f : Wpkg → Wpkg) : (s.updWpkg n f).ports = s.ports := rfl
@[simp] theorem State.updWpkg_outbox (s : State) (n : Nat) (f : Wpkg → Wpkg) : (s.updWpkg n f).outbox = s.outbox := rfl
@[simp] theorem State.updWpkg_lanes (s : State) (n : Nat) (f : Wpkg → Wpkg) : (s.updWpkg n f).lanes = s.lanes := rfl
@[simp] theorem State.updWpkg_domain (s : State) (n : Nat) (f : Wpkg → Wpkg) : (s.updWpkg n f).domain = s.domain := rfl
@[simp] theorem State.updWpkg_twin (s : State) (n : Nat) (f : Wpkg → Wpkg) : (s.updWpkg n f).twin = s.twin := rfl
@[simp] theorem State.updWpkg_fabs (s : State) (n : Nat) (f : Wpkg → Wpkg) : (s.updWpkg n f).fabs = s.fabs := rfl
@[simp] theorem State.updWpkg_cqs (s : State) (n : Nat) (f : Wpkg → Wpkg) : (s.updWpkg n f).cqs = s.cqs := rfl
@[simp] theorem State.updWpkg_fwds (s : State) (n : Nat) (f : Wpkg → Wpkg) : (s.updWpkg n f).fwds = s.fwds := rfl
@[simp] theorem State.updWpkg_snaps (s : State) (n : Nat) (f : Wpkg → Wpkg) : (s.updWpkg n f).snaps = s.snaps := rfl
@[simp] theorem State.updWpkg_fsnaps (s : State) (n : Nat) (f : Wpkg → Wpkg) : (s.updWpkg n f).fsnaps = s.fsnaps := rfl
@[simp] theorem State.updWpkg_mode (s : State) (n : Nat) (f : Wpkg → Wpkg) : (s.updWpkg n f).mode = s.mode := rfl
@[simp] theorem State.updWpkg_pages (s : State) (n : Nat) (f : Wpkg → Wpkg) : (s.updWpkg n f).pages = s.pages := rfl
@[simp] theorem State.updWpkg_iris (s : State) (n : Nat) (f : Wpkg → Wpkg) : (s.updWpkg n f).iris = s.iris := rfl
@[simp] theorem State.updWpkg_icores (s : State) (n : Nat) (f : Wpkg → Wpkg) : (s.updWpkg n f).icores = s.icores := rfl
@[simp] theorem State.updWpkg_board (s : State) (n : Nat) (f : Wpkg → Wpkg) : (s.updWpkg n f).board = s.board := rfl

/-! ### setFox -/

@[simp] theorem State.setFox_pending (s : State) (u : Nat) (f : Fox) : (s.setFox u f).pending = s.pending := rfl
@[simp] theorem State.setFox_time (s : State) (u : Nat) (f : Fox) : (s.setFox u f).time = s.time := rfl
@[simp] theorem State.setFox_ftAdj (s : State) (u : Nat) (f : Fox) : (s.setFox u f).ftAdj = s.ftAdj := rfl
@[simp] theorem State.setFox_ftTenths (s : State) (u : Nat) (f : Fox) : (s.setFox u f).ftTenths = s.ftTenths := rfl
@[simp] theorem State.setFox_fresh (s : State) (u : Nat) (f : Fox) : (s.setFox u f).fresh = s.fresh := rfl
@[simp] theorem State.setFox_mem (s : State) (u : Nat) (f : Fox) : (s.setFox u f).mem = s.mem := rfl
@[simp] theorem State.setFox_poison (s : State) (u : Nat) (f : Fox) : (s.setFox u f).poison = s.poison := rfl
@[simp] theorem State.setFox_host (s : State) (u : Nat) (f : Fox) : (s.setFox u f).host = s.host := rfl
@[simp] theorem State.setFox_ctxs (s : State) (u : Nat) (f : Fox) : (s.setFox u f).ctxs = s.ctxs := rfl
@[simp] theorem State.setFox_cores (s : State) (u : Nat) (f : Fox) : (s.setFox u f).cores = s.cores := rfl
@[simp] theorem State.setFox_tiles (s : State) (u : Nat) (f : Fox) : (s.setFox u f).tiles = s.tiles := rfl
@[simp] theorem State.setFox_sems (s : State) (u : Nat) (f : Fox) : (s.setFox u f).sems = s.sems := rfl
@[simp] theorem State.setFox_signals (s : State) (u : Nat) (f : Fox) : (s.setFox u f).signals = s.signals := rfl
@[simp] theorem State.setFox_claims (s : State) (u : Nat) (f : Fox) : (s.setFox u f).claims = s.claims := rfl
@[simp] theorem State.setFox_parts (s : State) (u : Nat) (f : Fox) : (s.setFox u f).parts = s.parts := rfl
@[simp] theorem State.setFox_qps (s : State) (u : Nat) (f : Fox) : (s.setFox u f).qps = s.qps := rfl
@[simp] theorem State.setFox_launches (s : State) (u : Nat) (f : Fox) : (s.setFox u f).launches = s.launches := rfl
@[simp] theorem State.setFox_nextLaunch (s : State) (u : Nat) (f : Fox) : (s.setFox u f).nextLaunch = s.nextLaunch := rfl
@[simp] theorem State.setFox_images (s : State) (u : Nat) (f : Fox) : (s.setFox u f).images = s.images := rfl
@[simp] theorem State.setFox_lastImage (s : State) (u : Nat) (f : Fox) : (s.setFox u f).lastImage = s.lastImage := rfl
@[simp] theorem State.setFox_seqs (s : State) (u : Nat) (f : Fox) : (s.setFox u f).seqs = s.seqs := rfl
@[simp] theorem State.setFox_regions (s : State) (u : Nat) (f : Fox) : (s.setFox u f).regions = s.regions := rfl
@[simp] theorem State.setFox_owned (s : State) (u : Nat) (f : Fox) : (s.setFox u f).owned = s.owned := rfl
@[simp] theorem State.setFox_hsel (s : State) (u : Nat) (f : Fox) : (s.setFox u f).hsel = s.hsel := rfl
@[simp] theorem State.setFox_grants (s : State) (u : Nat) (f : Fox) : (s.setFox u f).grants = s.grants := rfl
@[simp] theorem State.setFox_drains (s : State) (u : Nat) (f : Fox) : (s.setFox u f).drains = s.drains := rfl
@[simp] theorem State.setFox_dies (s : State) (u : Nat) (f : Fox) : (s.setFox u f).dies = s.dies := rfl
@[simp] theorem State.setFox_chans (s : State) (u : Nat) (f : Fox) : (s.setFox u f).chans = s.chans := rfl
@[simp] theorem State.setFox_tobjs (s : State) (u : Nat) (f : Fox) : (s.setFox u f).tobjs = s.tobjs := rfl
@[simp] theorem State.setFox_lastTobj (s : State) (u : Nat) (f : Fox) : (s.setFox u f).lastTobj = s.lastTobj := rfl
@[simp] theorem State.setFox_wpkgs (s : State) (u : Nat) (f : Fox) : (s.setFox u f).wpkgs = s.wpkgs := rfl
@[simp] theorem State.setFox_lastWpkg (s : State) (u : Nat) (f : Fox) : (s.setFox u f).lastWpkg = s.lastWpkg := rfl
@[simp] theorem State.setFox_wwins (s : State) (u : Nat) (f : Fox) : (s.setFox u f).wwins = s.wwins := rfl
@[simp] theorem State.setFox_flash (s : State) (u : Nat) (f : Fox) : (s.setFox u f).flash = s.flash := rfl
@[simp] theorem State.setFox_pools (s : State) (u : Nat) (f : Fox) : (s.setFox u f).pools = s.pools := rfl
@[simp] theorem State.setFox_maps (s : State) (u : Nat) (f : Fox) : (s.setFox u f).maps = s.maps := rfl
@[simp] theorem State.setFox_mapRoom (s : State) (u : Nat) (f : Fox) : (s.setFox u f).mapRoom = s.mapRoom := rfl
@[simp] theorem State.setFox_prims (s : State) (u : Nat) (f : Fox) : (s.setFox u f).prims = s.prims := rfl
@[simp] theorem State.setFox_mbxs (s : State) (u : Nat) (f : Fox) : (s.setFox u f).mbxs = s.mbxs := rfl
@[simp] theorem State.setFox_journal (s : State) (u : Nat) (f : Fox) : (s.setFox u f).journal = s.journal := rfl
@[simp] theorem State.setFox_turn (s : State) (u : Nat) (f : Fox) : (s.setFox u f).turn = s.turn := rfl
@[simp] theorem State.setFox_cpRst (s : State) (u : Nat) (f : Fox) : (s.setFox u f).cpRst = s.cpRst := rfl
@[simp] theorem State.setFox_replays (s : State) (u : Nat) (f : Fox) : (s.setFox u f).replays = s.replays := rfl
@[simp] theorem State.setFox_ready (s : State) (u : Nat) (f : Fox) : (s.setFox u f).ready = s.ready := rfl
@[simp] theorem State.setFox_patch (s : State) (u : Nat) (f : Fox) : (s.setFox u f).patch = s.patch := rfl
@[simp] theorem State.setFox_nextPatch (s : State) (u : Nat) (f : Fox) : (s.setFox u f).nextPatch = s.nextPatch := rfl
@[simp] theorem State.setFox_funcs (s : State) (u : Nat) (f : Fox) : (s.setFox u f).funcs = s.funcs := rfl
@[simp] theorem State.setFox_pkeys (s : State) (u : Nat) (f : Fox) : (s.setFox u f).pkeys = s.pkeys := rfl
@[simp] theorem State.setFox_secure (s : State) (u : Nat) (f : Fox) : (s.setFox u f).secure = s.secure := rfl
@[simp] theorem State.setFox_linkUp (s : State) (u : Nat) (f : Fox) : (s.setFox u f).linkUp = s.linkUp := rfl
@[simp] theorem State.setFox_sent (s : State) (u : Nat) (f : Fox) : (s.setFox u f).sent = s.sent := rfl
@[simp] theorem State.setFox_bars (s : State) (u : Nat) (f : Fox) : (s.setFox u f).bars = s.bars := rfl
@[simp] theorem State.setFox_runs (s : State) (u : Nat) (f : Fox) : (s.setFox u f).runs = s.runs := rfl
@[simp] theorem State.setFox_stepLogs (s : State) (u : Nat) (f : Fox) : (s.setFox u f).stepLogs = s.stepLogs := rfl
@[simp] theorem State.setFox_bounds (s : State) (u : Nat) (f : Fox) : (s.setFox u f).bounds = s.bounds := rfl
@[simp] theorem State.setFox_copies (s : State) (u : Nat) (f : Fox) : (s.setFox u f).copies = s.copies := rfl
@[simp] theorem State.setFox_posted (s : State) (u : Nat) (f : Fox) : (s.setFox u f).posted = s.posted := rfl
@[simp] theorem State.setFox_pass0 (s : State) (u : Nat) (f : Fox) : (s.setFox u f).pass0 = s.pass0 := rfl
@[simp] theorem State.setFox_health (s : State) (u : Nat) (f : Fox) : (s.setFox u f).health = s.health := rfl
@[simp] theorem State.setFox_ports (s : State) (u : Nat) (f : Fox) : (s.setFox u f).ports = s.ports := rfl
@[simp] theorem State.setFox_outbox (s : State) (u : Nat) (f : Fox) : (s.setFox u f).outbox = s.outbox := rfl
@[simp] theorem State.setFox_lanes (s : State) (u : Nat) (f : Fox) : (s.setFox u f).lanes = s.lanes := rfl
@[simp] theorem State.setFox_domain (s : State) (u : Nat) (f : Fox) : (s.setFox u f).domain = s.domain := rfl
@[simp] theorem State.setFox_twin (s : State) (u : Nat) (f : Fox) : (s.setFox u f).twin = s.twin := rfl
@[simp] theorem State.setFox_fabs (s : State) (u : Nat) (f : Fox) : (s.setFox u f).fabs = s.fabs := rfl
@[simp] theorem State.setFox_cqs (s : State) (u : Nat) (f : Fox) : (s.setFox u f).cqs = s.cqs := rfl
@[simp] theorem State.setFox_fwds (s : State) (u : Nat) (f : Fox) : (s.setFox u f).fwds = s.fwds := rfl
@[simp] theorem State.setFox_snaps (s : State) (u : Nat) (f : Fox) : (s.setFox u f).snaps = s.snaps := rfl
@[simp] theorem State.setFox_fsnaps (s : State) (u : Nat) (f : Fox) : (s.setFox u f).fsnaps = s.fsnaps := rfl
@[simp] theorem State.setFox_mode (s : State) (u : Nat) (f : Fox) : (s.setFox u f).mode = s.mode := rfl
@[simp] theorem State.setFox_pages (s : State) (u : Nat) (f : Fox) : (s.setFox u f).pages = s.pages := rfl
@[simp] theorem State.setFox_iris (s : State) (u : Nat) (f : Fox) : (s.setFox u f).iris = s.iris := rfl
@[simp] theorem State.setFox_icores (s : State) (u : Nat) (f : Fox) : (s.setFox u f).icores = s.icores := rfl
@[simp] theorem State.setFox_board (s : State) (u : Nat) (f : Fox) : (s.setFox u f).board = s.board := rfl

/-! ### setPrim -/

@[simp] theorem State.setPrim_pending (s : State) (e : Nat) (p : Prim) : (s.setPrim e p).pending = s.pending := rfl
@[simp] theorem State.setPrim_time (s : State) (e : Nat) (p : Prim) : (s.setPrim e p).time = s.time := rfl
@[simp] theorem State.setPrim_ftAdj (s : State) (e : Nat) (p : Prim) : (s.setPrim e p).ftAdj = s.ftAdj := rfl
@[simp] theorem State.setPrim_ftTenths (s : State) (e : Nat) (p : Prim) : (s.setPrim e p).ftTenths = s.ftTenths := rfl
@[simp] theorem State.setPrim_fresh (s : State) (e : Nat) (p : Prim) : (s.setPrim e p).fresh = s.fresh := rfl
@[simp] theorem State.setPrim_mem (s : State) (e : Nat) (p : Prim) : (s.setPrim e p).mem = s.mem := rfl
@[simp] theorem State.setPrim_poison (s : State) (e : Nat) (p : Prim) : (s.setPrim e p).poison = s.poison := rfl
@[simp] theorem State.setPrim_host (s : State) (e : Nat) (p : Prim) : (s.setPrim e p).host = s.host := rfl
@[simp] theorem State.setPrim_ctxs (s : State) (e : Nat) (p : Prim) : (s.setPrim e p).ctxs = s.ctxs := rfl
@[simp] theorem State.setPrim_cores (s : State) (e : Nat) (p : Prim) : (s.setPrim e p).cores = s.cores := rfl
@[simp] theorem State.setPrim_tiles (s : State) (e : Nat) (p : Prim) : (s.setPrim e p).tiles = s.tiles := rfl
@[simp] theorem State.setPrim_sems (s : State) (e : Nat) (p : Prim) : (s.setPrim e p).sems = s.sems := rfl
@[simp] theorem State.setPrim_signals (s : State) (e : Nat) (p : Prim) : (s.setPrim e p).signals = s.signals := rfl
@[simp] theorem State.setPrim_claims (s : State) (e : Nat) (p : Prim) : (s.setPrim e p).claims = s.claims := rfl
@[simp] theorem State.setPrim_parts (s : State) (e : Nat) (p : Prim) : (s.setPrim e p).parts = s.parts := rfl
@[simp] theorem State.setPrim_qps (s : State) (e : Nat) (p : Prim) : (s.setPrim e p).qps = s.qps := rfl
@[simp] theorem State.setPrim_launches (s : State) (e : Nat) (p : Prim) : (s.setPrim e p).launches = s.launches := rfl
@[simp] theorem State.setPrim_nextLaunch (s : State) (e : Nat) (p : Prim) : (s.setPrim e p).nextLaunch = s.nextLaunch := rfl
@[simp] theorem State.setPrim_images (s : State) (e : Nat) (p : Prim) : (s.setPrim e p).images = s.images := rfl
@[simp] theorem State.setPrim_lastImage (s : State) (e : Nat) (p : Prim) : (s.setPrim e p).lastImage = s.lastImage := rfl
@[simp] theorem State.setPrim_seqs (s : State) (e : Nat) (p : Prim) : (s.setPrim e p).seqs = s.seqs := rfl
@[simp] theorem State.setPrim_regions (s : State) (e : Nat) (p : Prim) : (s.setPrim e p).regions = s.regions := rfl
@[simp] theorem State.setPrim_owned (s : State) (e : Nat) (p : Prim) : (s.setPrim e p).owned = s.owned := rfl
@[simp] theorem State.setPrim_hsel (s : State) (e : Nat) (p : Prim) : (s.setPrim e p).hsel = s.hsel := rfl
@[simp] theorem State.setPrim_grants (s : State) (e : Nat) (p : Prim) : (s.setPrim e p).grants = s.grants := rfl
@[simp] theorem State.setPrim_drains (s : State) (e : Nat) (p : Prim) : (s.setPrim e p).drains = s.drains := rfl
@[simp] theorem State.setPrim_dies (s : State) (e : Nat) (p : Prim) : (s.setPrim e p).dies = s.dies := rfl
@[simp] theorem State.setPrim_chans (s : State) (e : Nat) (p : Prim) : (s.setPrim e p).chans = s.chans := rfl
@[simp] theorem State.setPrim_tobjs (s : State) (e : Nat) (p : Prim) : (s.setPrim e p).tobjs = s.tobjs := rfl
@[simp] theorem State.setPrim_lastTobj (s : State) (e : Nat) (p : Prim) : (s.setPrim e p).lastTobj = s.lastTobj := rfl
@[simp] theorem State.setPrim_wpkgs (s : State) (e : Nat) (p : Prim) : (s.setPrim e p).wpkgs = s.wpkgs := rfl
@[simp] theorem State.setPrim_lastWpkg (s : State) (e : Nat) (p : Prim) : (s.setPrim e p).lastWpkg = s.lastWpkg := rfl
@[simp] theorem State.setPrim_wwins (s : State) (e : Nat) (p : Prim) : (s.setPrim e p).wwins = s.wwins := rfl
@[simp] theorem State.setPrim_flash (s : State) (e : Nat) (p : Prim) : (s.setPrim e p).flash = s.flash := rfl
@[simp] theorem State.setPrim_pools (s : State) (e : Nat) (p : Prim) : (s.setPrim e p).pools = s.pools := rfl
@[simp] theorem State.setPrim_maps (s : State) (e : Nat) (p : Prim) : (s.setPrim e p).maps = s.maps := rfl
@[simp] theorem State.setPrim_mapRoom (s : State) (e : Nat) (p : Prim) : (s.setPrim e p).mapRoom = s.mapRoom := rfl
@[simp] theorem State.setPrim_foxes (s : State) (e : Nat) (p : Prim) : (s.setPrim e p).foxes = s.foxes := rfl
@[simp] theorem State.setPrim_mbxs (s : State) (e : Nat) (p : Prim) : (s.setPrim e p).mbxs = s.mbxs := rfl
@[simp] theorem State.setPrim_journal (s : State) (e : Nat) (p : Prim) : (s.setPrim e p).journal = s.journal := rfl
@[simp] theorem State.setPrim_turn (s : State) (e : Nat) (p : Prim) : (s.setPrim e p).turn = s.turn := rfl
@[simp] theorem State.setPrim_cpRst (s : State) (e : Nat) (p : Prim) : (s.setPrim e p).cpRst = s.cpRst := rfl
@[simp] theorem State.setPrim_replays (s : State) (e : Nat) (p : Prim) : (s.setPrim e p).replays = s.replays := rfl
@[simp] theorem State.setPrim_ready (s : State) (e : Nat) (p : Prim) : (s.setPrim e p).ready = s.ready := rfl
@[simp] theorem State.setPrim_patch (s : State) (e : Nat) (p : Prim) : (s.setPrim e p).patch = s.patch := rfl
@[simp] theorem State.setPrim_nextPatch (s : State) (e : Nat) (p : Prim) : (s.setPrim e p).nextPatch = s.nextPatch := rfl
@[simp] theorem State.setPrim_funcs (s : State) (e : Nat) (p : Prim) : (s.setPrim e p).funcs = s.funcs := rfl
@[simp] theorem State.setPrim_pkeys (s : State) (e : Nat) (p : Prim) : (s.setPrim e p).pkeys = s.pkeys := rfl
@[simp] theorem State.setPrim_secure (s : State) (e : Nat) (p : Prim) : (s.setPrim e p).secure = s.secure := rfl
@[simp] theorem State.setPrim_linkUp (s : State) (e : Nat) (p : Prim) : (s.setPrim e p).linkUp = s.linkUp := rfl
@[simp] theorem State.setPrim_sent (s : State) (e : Nat) (p : Prim) : (s.setPrim e p).sent = s.sent := rfl
@[simp] theorem State.setPrim_bars (s : State) (e : Nat) (p : Prim) : (s.setPrim e p).bars = s.bars := rfl
@[simp] theorem State.setPrim_runs (s : State) (e : Nat) (p : Prim) : (s.setPrim e p).runs = s.runs := rfl
@[simp] theorem State.setPrim_stepLogs (s : State) (e : Nat) (p : Prim) : (s.setPrim e p).stepLogs = s.stepLogs := rfl
@[simp] theorem State.setPrim_bounds (s : State) (e : Nat) (p : Prim) : (s.setPrim e p).bounds = s.bounds := rfl
@[simp] theorem State.setPrim_copies (s : State) (e : Nat) (p : Prim) : (s.setPrim e p).copies = s.copies := rfl
@[simp] theorem State.setPrim_posted (s : State) (e : Nat) (p : Prim) : (s.setPrim e p).posted = s.posted := rfl
@[simp] theorem State.setPrim_pass0 (s : State) (e : Nat) (p : Prim) : (s.setPrim e p).pass0 = s.pass0 := rfl
@[simp] theorem State.setPrim_health (s : State) (e : Nat) (p : Prim) : (s.setPrim e p).health = s.health := rfl
@[simp] theorem State.setPrim_ports (s : State) (e : Nat) (p : Prim) : (s.setPrim e p).ports = s.ports := rfl
@[simp] theorem State.setPrim_outbox (s : State) (e : Nat) (p : Prim) : (s.setPrim e p).outbox = s.outbox := rfl
@[simp] theorem State.setPrim_lanes (s : State) (e : Nat) (p : Prim) : (s.setPrim e p).lanes = s.lanes := rfl
@[simp] theorem State.setPrim_domain (s : State) (e : Nat) (p : Prim) : (s.setPrim e p).domain = s.domain := rfl
@[simp] theorem State.setPrim_twin (s : State) (e : Nat) (p : Prim) : (s.setPrim e p).twin = s.twin := rfl
@[simp] theorem State.setPrim_fabs (s : State) (e : Nat) (p : Prim) : (s.setPrim e p).fabs = s.fabs := rfl
@[simp] theorem State.setPrim_cqs (s : State) (e : Nat) (p : Prim) : (s.setPrim e p).cqs = s.cqs := rfl
@[simp] theorem State.setPrim_fwds (s : State) (e : Nat) (p : Prim) : (s.setPrim e p).fwds = s.fwds := rfl
@[simp] theorem State.setPrim_snaps (s : State) (e : Nat) (p : Prim) : (s.setPrim e p).snaps = s.snaps := rfl
@[simp] theorem State.setPrim_fsnaps (s : State) (e : Nat) (p : Prim) : (s.setPrim e p).fsnaps = s.fsnaps := rfl
@[simp] theorem State.setPrim_mode (s : State) (e : Nat) (p : Prim) : (s.setPrim e p).mode = s.mode := rfl
@[simp] theorem State.setPrim_pages (s : State) (e : Nat) (p : Prim) : (s.setPrim e p).pages = s.pages := rfl
@[simp] theorem State.setPrim_iris (s : State) (e : Nat) (p : Prim) : (s.setPrim e p).iris = s.iris := rfl
@[simp] theorem State.setPrim_icores (s : State) (e : Nat) (p : Prim) : (s.setPrim e p).icores = s.icores := rfl
@[simp] theorem State.setPrim_board (s : State) (e : Nat) (p : Prim) : (s.setPrim e p).board = s.board := rfl

/-! ### updWwin -/

@[simp] theorem State.updWwin_pending (s : State) (w : Nat) (f : Wwin → Wwin) : (s.updWwin w f).pending = s.pending := rfl
@[simp] theorem State.updWwin_time (s : State) (w : Nat) (f : Wwin → Wwin) : (s.updWwin w f).time = s.time := rfl
@[simp] theorem State.updWwin_ftAdj (s : State) (w : Nat) (f : Wwin → Wwin) : (s.updWwin w f).ftAdj = s.ftAdj := rfl
@[simp] theorem State.updWwin_ftTenths (s : State) (w : Nat) (f : Wwin → Wwin) : (s.updWwin w f).ftTenths = s.ftTenths := rfl
@[simp] theorem State.updWwin_fresh (s : State) (w : Nat) (f : Wwin → Wwin) : (s.updWwin w f).fresh = s.fresh := rfl
@[simp] theorem State.updWwin_mem (s : State) (w : Nat) (f : Wwin → Wwin) : (s.updWwin w f).mem = s.mem := rfl
@[simp] theorem State.updWwin_poison (s : State) (w : Nat) (f : Wwin → Wwin) : (s.updWwin w f).poison = s.poison := rfl
@[simp] theorem State.updWwin_host (s : State) (w : Nat) (f : Wwin → Wwin) : (s.updWwin w f).host = s.host := rfl
@[simp] theorem State.updWwin_ctxs (s : State) (w : Nat) (f : Wwin → Wwin) : (s.updWwin w f).ctxs = s.ctxs := rfl
@[simp] theorem State.updWwin_cores (s : State) (w : Nat) (f : Wwin → Wwin) : (s.updWwin w f).cores = s.cores := rfl
@[simp] theorem State.updWwin_tiles (s : State) (w : Nat) (f : Wwin → Wwin) : (s.updWwin w f).tiles = s.tiles := rfl
@[simp] theorem State.updWwin_sems (s : State) (w : Nat) (f : Wwin → Wwin) : (s.updWwin w f).sems = s.sems := rfl
@[simp] theorem State.updWwin_signals (s : State) (w : Nat) (f : Wwin → Wwin) : (s.updWwin w f).signals = s.signals := rfl
@[simp] theorem State.updWwin_claims (s : State) (w : Nat) (f : Wwin → Wwin) : (s.updWwin w f).claims = s.claims := rfl
@[simp] theorem State.updWwin_parts (s : State) (w : Nat) (f : Wwin → Wwin) : (s.updWwin w f).parts = s.parts := rfl
@[simp] theorem State.updWwin_qps (s : State) (w : Nat) (f : Wwin → Wwin) : (s.updWwin w f).qps = s.qps := rfl
@[simp] theorem State.updWwin_launches (s : State) (w : Nat) (f : Wwin → Wwin) : (s.updWwin w f).launches = s.launches := rfl
@[simp] theorem State.updWwin_nextLaunch (s : State) (w : Nat) (f : Wwin → Wwin) : (s.updWwin w f).nextLaunch = s.nextLaunch := rfl
@[simp] theorem State.updWwin_images (s : State) (w : Nat) (f : Wwin → Wwin) : (s.updWwin w f).images = s.images := rfl
@[simp] theorem State.updWwin_lastImage (s : State) (w : Nat) (f : Wwin → Wwin) : (s.updWwin w f).lastImage = s.lastImage := rfl
@[simp] theorem State.updWwin_seqs (s : State) (w : Nat) (f : Wwin → Wwin) : (s.updWwin w f).seqs = s.seqs := rfl
@[simp] theorem State.updWwin_regions (s : State) (w : Nat) (f : Wwin → Wwin) : (s.updWwin w f).regions = s.regions := rfl
@[simp] theorem State.updWwin_owned (s : State) (w : Nat) (f : Wwin → Wwin) : (s.updWwin w f).owned = s.owned := rfl
@[simp] theorem State.updWwin_hsel (s : State) (w : Nat) (f : Wwin → Wwin) : (s.updWwin w f).hsel = s.hsel := rfl
@[simp] theorem State.updWwin_grants (s : State) (w : Nat) (f : Wwin → Wwin) : (s.updWwin w f).grants = s.grants := rfl
@[simp] theorem State.updWwin_drains (s : State) (w : Nat) (f : Wwin → Wwin) : (s.updWwin w f).drains = s.drains := rfl
@[simp] theorem State.updWwin_dies (s : State) (w : Nat) (f : Wwin → Wwin) : (s.updWwin w f).dies = s.dies := rfl
@[simp] theorem State.updWwin_chans (s : State) (w : Nat) (f : Wwin → Wwin) : (s.updWwin w f).chans = s.chans := rfl
@[simp] theorem State.updWwin_tobjs (s : State) (w : Nat) (f : Wwin → Wwin) : (s.updWwin w f).tobjs = s.tobjs := rfl
@[simp] theorem State.updWwin_lastTobj (s : State) (w : Nat) (f : Wwin → Wwin) : (s.updWwin w f).lastTobj = s.lastTobj := rfl
@[simp] theorem State.updWwin_wpkgs (s : State) (w : Nat) (f : Wwin → Wwin) : (s.updWwin w f).wpkgs = s.wpkgs := rfl
@[simp] theorem State.updWwin_lastWpkg (s : State) (w : Nat) (f : Wwin → Wwin) : (s.updWwin w f).lastWpkg = s.lastWpkg := rfl
@[simp] theorem State.updWwin_flash (s : State) (w : Nat) (f : Wwin → Wwin) : (s.updWwin w f).flash = s.flash := rfl
@[simp] theorem State.updWwin_pools (s : State) (w : Nat) (f : Wwin → Wwin) : (s.updWwin w f).pools = s.pools := rfl
@[simp] theorem State.updWwin_maps (s : State) (w : Nat) (f : Wwin → Wwin) : (s.updWwin w f).maps = s.maps := rfl
@[simp] theorem State.updWwin_mapRoom (s : State) (w : Nat) (f : Wwin → Wwin) : (s.updWwin w f).mapRoom = s.mapRoom := rfl
@[simp] theorem State.updWwin_foxes (s : State) (w : Nat) (f : Wwin → Wwin) : (s.updWwin w f).foxes = s.foxes := rfl
@[simp] theorem State.updWwin_prims (s : State) (w : Nat) (f : Wwin → Wwin) : (s.updWwin w f).prims = s.prims := rfl
@[simp] theorem State.updWwin_mbxs (s : State) (w : Nat) (f : Wwin → Wwin) : (s.updWwin w f).mbxs = s.mbxs := rfl
@[simp] theorem State.updWwin_journal (s : State) (w : Nat) (f : Wwin → Wwin) : (s.updWwin w f).journal = s.journal := rfl
@[simp] theorem State.updWwin_turn (s : State) (w : Nat) (f : Wwin → Wwin) : (s.updWwin w f).turn = s.turn := rfl
@[simp] theorem State.updWwin_cpRst (s : State) (w : Nat) (f : Wwin → Wwin) : (s.updWwin w f).cpRst = s.cpRst := rfl
@[simp] theorem State.updWwin_replays (s : State) (w : Nat) (f : Wwin → Wwin) : (s.updWwin w f).replays = s.replays := rfl
@[simp] theorem State.updWwin_ready (s : State) (w : Nat) (f : Wwin → Wwin) : (s.updWwin w f).ready = s.ready := rfl
@[simp] theorem State.updWwin_patch (s : State) (w : Nat) (f : Wwin → Wwin) : (s.updWwin w f).patch = s.patch := rfl
@[simp] theorem State.updWwin_nextPatch (s : State) (w : Nat) (f : Wwin → Wwin) : (s.updWwin w f).nextPatch = s.nextPatch := rfl
@[simp] theorem State.updWwin_funcs (s : State) (w : Nat) (f : Wwin → Wwin) : (s.updWwin w f).funcs = s.funcs := rfl
@[simp] theorem State.updWwin_pkeys (s : State) (w : Nat) (f : Wwin → Wwin) : (s.updWwin w f).pkeys = s.pkeys := rfl
@[simp] theorem State.updWwin_secure (s : State) (w : Nat) (f : Wwin → Wwin) : (s.updWwin w f).secure = s.secure := rfl
@[simp] theorem State.updWwin_linkUp (s : State) (w : Nat) (f : Wwin → Wwin) : (s.updWwin w f).linkUp = s.linkUp := rfl
@[simp] theorem State.updWwin_sent (s : State) (w : Nat) (f : Wwin → Wwin) : (s.updWwin w f).sent = s.sent := rfl
@[simp] theorem State.updWwin_bars (s : State) (w : Nat) (f : Wwin → Wwin) : (s.updWwin w f).bars = s.bars := rfl
@[simp] theorem State.updWwin_runs (s : State) (w : Nat) (f : Wwin → Wwin) : (s.updWwin w f).runs = s.runs := rfl
@[simp] theorem State.updWwin_stepLogs (s : State) (w : Nat) (f : Wwin → Wwin) : (s.updWwin w f).stepLogs = s.stepLogs := rfl
@[simp] theorem State.updWwin_bounds (s : State) (w : Nat) (f : Wwin → Wwin) : (s.updWwin w f).bounds = s.bounds := rfl
@[simp] theorem State.updWwin_copies (s : State) (w : Nat) (f : Wwin → Wwin) : (s.updWwin w f).copies = s.copies := rfl
@[simp] theorem State.updWwin_posted (s : State) (w : Nat) (f : Wwin → Wwin) : (s.updWwin w f).posted = s.posted := rfl
@[simp] theorem State.updWwin_pass0 (s : State) (w : Nat) (f : Wwin → Wwin) : (s.updWwin w f).pass0 = s.pass0 := rfl
@[simp] theorem State.updWwin_health (s : State) (w : Nat) (f : Wwin → Wwin) : (s.updWwin w f).health = s.health := rfl
@[simp] theorem State.updWwin_ports (s : State) (w : Nat) (f : Wwin → Wwin) : (s.updWwin w f).ports = s.ports := rfl
@[simp] theorem State.updWwin_outbox (s : State) (w : Nat) (f : Wwin → Wwin) : (s.updWwin w f).outbox = s.outbox := rfl
@[simp] theorem State.updWwin_lanes (s : State) (w : Nat) (f : Wwin → Wwin) : (s.updWwin w f).lanes = s.lanes := rfl
@[simp] theorem State.updWwin_domain (s : State) (w : Nat) (f : Wwin → Wwin) : (s.updWwin w f).domain = s.domain := rfl
@[simp] theorem State.updWwin_twin (s : State) (w : Nat) (f : Wwin → Wwin) : (s.updWwin w f).twin = s.twin := rfl
@[simp] theorem State.updWwin_fabs (s : State) (w : Nat) (f : Wwin → Wwin) : (s.updWwin w f).fabs = s.fabs := rfl
@[simp] theorem State.updWwin_cqs (s : State) (w : Nat) (f : Wwin → Wwin) : (s.updWwin w f).cqs = s.cqs := rfl
@[simp] theorem State.updWwin_fwds (s : State) (w : Nat) (f : Wwin → Wwin) : (s.updWwin w f).fwds = s.fwds := rfl
@[simp] theorem State.updWwin_snaps (s : State) (w : Nat) (f : Wwin → Wwin) : (s.updWwin w f).snaps = s.snaps := rfl
@[simp] theorem State.updWwin_fsnaps (s : State) (w : Nat) (f : Wwin → Wwin) : (s.updWwin w f).fsnaps = s.fsnaps := rfl
@[simp] theorem State.updWwin_mode (s : State) (w : Nat) (f : Wwin → Wwin) : (s.updWwin w f).mode = s.mode := rfl
@[simp] theorem State.updWwin_pages (s : State) (w : Nat) (f : Wwin → Wwin) : (s.updWwin w f).pages = s.pages := rfl
@[simp] theorem State.updWwin_iris (s : State) (w : Nat) (f : Wwin → Wwin) : (s.updWwin w f).iris = s.iris := rfl
@[simp] theorem State.updWwin_icores (s : State) (w : Nat) (f : Wwin → Wwin) : (s.updWwin w f).icores = s.icores := rfl
@[simp] theorem State.updWwin_board (s : State) (w : Nat) (f : Wwin → Wwin) : (s.updWwin w f).board = s.board := rfl

/-! ### updQp -/

@[simp] theorem State.updQp_pending (s : State) (q : Nat) (f : Qp → Qp) : (s.updQp q f).pending = s.pending := rfl
@[simp] theorem State.updQp_time (s : State) (q : Nat) (f : Qp → Qp) : (s.updQp q f).time = s.time := rfl
@[simp] theorem State.updQp_ftAdj (s : State) (q : Nat) (f : Qp → Qp) : (s.updQp q f).ftAdj = s.ftAdj := rfl
@[simp] theorem State.updQp_ftTenths (s : State) (q : Nat) (f : Qp → Qp) : (s.updQp q f).ftTenths = s.ftTenths := rfl
@[simp] theorem State.updQp_fresh (s : State) (q : Nat) (f : Qp → Qp) : (s.updQp q f).fresh = s.fresh := rfl
@[simp] theorem State.updQp_mem (s : State) (q : Nat) (f : Qp → Qp) : (s.updQp q f).mem = s.mem := rfl
@[simp] theorem State.updQp_poison (s : State) (q : Nat) (f : Qp → Qp) : (s.updQp q f).poison = s.poison := rfl
@[simp] theorem State.updQp_host (s : State) (q : Nat) (f : Qp → Qp) : (s.updQp q f).host = s.host := rfl
@[simp] theorem State.updQp_ctxs (s : State) (q : Nat) (f : Qp → Qp) : (s.updQp q f).ctxs = s.ctxs := rfl
@[simp] theorem State.updQp_cores (s : State) (q : Nat) (f : Qp → Qp) : (s.updQp q f).cores = s.cores := rfl
@[simp] theorem State.updQp_tiles (s : State) (q : Nat) (f : Qp → Qp) : (s.updQp q f).tiles = s.tiles := rfl
@[simp] theorem State.updQp_sems (s : State) (q : Nat) (f : Qp → Qp) : (s.updQp q f).sems = s.sems := rfl
@[simp] theorem State.updQp_signals (s : State) (q : Nat) (f : Qp → Qp) : (s.updQp q f).signals = s.signals := rfl
@[simp] theorem State.updQp_claims (s : State) (q : Nat) (f : Qp → Qp) : (s.updQp q f).claims = s.claims := rfl
@[simp] theorem State.updQp_parts (s : State) (q : Nat) (f : Qp → Qp) : (s.updQp q f).parts = s.parts := rfl
@[simp] theorem State.updQp_launches (s : State) (q : Nat) (f : Qp → Qp) : (s.updQp q f).launches = s.launches := rfl
@[simp] theorem State.updQp_nextLaunch (s : State) (q : Nat) (f : Qp → Qp) : (s.updQp q f).nextLaunch = s.nextLaunch := rfl
@[simp] theorem State.updQp_images (s : State) (q : Nat) (f : Qp → Qp) : (s.updQp q f).images = s.images := rfl
@[simp] theorem State.updQp_lastImage (s : State) (q : Nat) (f : Qp → Qp) : (s.updQp q f).lastImage = s.lastImage := rfl
@[simp] theorem State.updQp_seqs (s : State) (q : Nat) (f : Qp → Qp) : (s.updQp q f).seqs = s.seqs := rfl
@[simp] theorem State.updQp_regions (s : State) (q : Nat) (f : Qp → Qp) : (s.updQp q f).regions = s.regions := rfl
@[simp] theorem State.updQp_owned (s : State) (q : Nat) (f : Qp → Qp) : (s.updQp q f).owned = s.owned := rfl
@[simp] theorem State.updQp_hsel (s : State) (q : Nat) (f : Qp → Qp) : (s.updQp q f).hsel = s.hsel := rfl
@[simp] theorem State.updQp_grants (s : State) (q : Nat) (f : Qp → Qp) : (s.updQp q f).grants = s.grants := rfl
@[simp] theorem State.updQp_drains (s : State) (q : Nat) (f : Qp → Qp) : (s.updQp q f).drains = s.drains := rfl
@[simp] theorem State.updQp_dies (s : State) (q : Nat) (f : Qp → Qp) : (s.updQp q f).dies = s.dies := rfl
@[simp] theorem State.updQp_chans (s : State) (q : Nat) (f : Qp → Qp) : (s.updQp q f).chans = s.chans := rfl
@[simp] theorem State.updQp_tobjs (s : State) (q : Nat) (f : Qp → Qp) : (s.updQp q f).tobjs = s.tobjs := rfl
@[simp] theorem State.updQp_lastTobj (s : State) (q : Nat) (f : Qp → Qp) : (s.updQp q f).lastTobj = s.lastTobj := rfl
@[simp] theorem State.updQp_wpkgs (s : State) (q : Nat) (f : Qp → Qp) : (s.updQp q f).wpkgs = s.wpkgs := rfl
@[simp] theorem State.updQp_lastWpkg (s : State) (q : Nat) (f : Qp → Qp) : (s.updQp q f).lastWpkg = s.lastWpkg := rfl
@[simp] theorem State.updQp_wwins (s : State) (q : Nat) (f : Qp → Qp) : (s.updQp q f).wwins = s.wwins := rfl
@[simp] theorem State.updQp_flash (s : State) (q : Nat) (f : Qp → Qp) : (s.updQp q f).flash = s.flash := rfl
@[simp] theorem State.updQp_pools (s : State) (q : Nat) (f : Qp → Qp) : (s.updQp q f).pools = s.pools := rfl
@[simp] theorem State.updQp_maps (s : State) (q : Nat) (f : Qp → Qp) : (s.updQp q f).maps = s.maps := rfl
@[simp] theorem State.updQp_mapRoom (s : State) (q : Nat) (f : Qp → Qp) : (s.updQp q f).mapRoom = s.mapRoom := rfl
@[simp] theorem State.updQp_foxes (s : State) (q : Nat) (f : Qp → Qp) : (s.updQp q f).foxes = s.foxes := rfl
@[simp] theorem State.updQp_prims (s : State) (q : Nat) (f : Qp → Qp) : (s.updQp q f).prims = s.prims := rfl
@[simp] theorem State.updQp_mbxs (s : State) (q : Nat) (f : Qp → Qp) : (s.updQp q f).mbxs = s.mbxs := rfl
@[simp] theorem State.updQp_journal (s : State) (q : Nat) (f : Qp → Qp) : (s.updQp q f).journal = s.journal := rfl
@[simp] theorem State.updQp_turn (s : State) (q : Nat) (f : Qp → Qp) : (s.updQp q f).turn = s.turn := rfl
@[simp] theorem State.updQp_cpRst (s : State) (q : Nat) (f : Qp → Qp) : (s.updQp q f).cpRst = s.cpRst := rfl
@[simp] theorem State.updQp_replays (s : State) (q : Nat) (f : Qp → Qp) : (s.updQp q f).replays = s.replays := rfl
@[simp] theorem State.updQp_ready (s : State) (q : Nat) (f : Qp → Qp) : (s.updQp q f).ready = s.ready := rfl
@[simp] theorem State.updQp_patch (s : State) (q : Nat) (f : Qp → Qp) : (s.updQp q f).patch = s.patch := rfl
@[simp] theorem State.updQp_nextPatch (s : State) (q : Nat) (f : Qp → Qp) : (s.updQp q f).nextPatch = s.nextPatch := rfl
@[simp] theorem State.updQp_funcs (s : State) (q : Nat) (f : Qp → Qp) : (s.updQp q f).funcs = s.funcs := rfl
@[simp] theorem State.updQp_pkeys (s : State) (q : Nat) (f : Qp → Qp) : (s.updQp q f).pkeys = s.pkeys := rfl
@[simp] theorem State.updQp_secure (s : State) (q : Nat) (f : Qp → Qp) : (s.updQp q f).secure = s.secure := rfl
@[simp] theorem State.updQp_linkUp (s : State) (q : Nat) (f : Qp → Qp) : (s.updQp q f).linkUp = s.linkUp := rfl
@[simp] theorem State.updQp_sent (s : State) (q : Nat) (f : Qp → Qp) : (s.updQp q f).sent = s.sent := rfl
@[simp] theorem State.updQp_bars (s : State) (q : Nat) (f : Qp → Qp) : (s.updQp q f).bars = s.bars := rfl
@[simp] theorem State.updQp_runs (s : State) (q : Nat) (f : Qp → Qp) : (s.updQp q f).runs = s.runs := rfl
@[simp] theorem State.updQp_stepLogs (s : State) (q : Nat) (f : Qp → Qp) : (s.updQp q f).stepLogs = s.stepLogs := rfl
@[simp] theorem State.updQp_bounds (s : State) (q : Nat) (f : Qp → Qp) : (s.updQp q f).bounds = s.bounds := rfl
@[simp] theorem State.updQp_copies (s : State) (q : Nat) (f : Qp → Qp) : (s.updQp q f).copies = s.copies := rfl
@[simp] theorem State.updQp_posted (s : State) (q : Nat) (f : Qp → Qp) : (s.updQp q f).posted = s.posted := rfl
@[simp] theorem State.updQp_pass0 (s : State) (q : Nat) (f : Qp → Qp) : (s.updQp q f).pass0 = s.pass0 := rfl
@[simp] theorem State.updQp_health (s : State) (q : Nat) (f : Qp → Qp) : (s.updQp q f).health = s.health := rfl
@[simp] theorem State.updQp_ports (s : State) (q : Nat) (f : Qp → Qp) : (s.updQp q f).ports = s.ports := rfl
@[simp] theorem State.updQp_outbox (s : State) (q : Nat) (f : Qp → Qp) : (s.updQp q f).outbox = s.outbox := rfl
@[simp] theorem State.updQp_lanes (s : State) (q : Nat) (f : Qp → Qp) : (s.updQp q f).lanes = s.lanes := rfl
@[simp] theorem State.updQp_domain (s : State) (q : Nat) (f : Qp → Qp) : (s.updQp q f).domain = s.domain := rfl
@[simp] theorem State.updQp_twin (s : State) (q : Nat) (f : Qp → Qp) : (s.updQp q f).twin = s.twin := rfl
@[simp] theorem State.updQp_fabs (s : State) (q : Nat) (f : Qp → Qp) : (s.updQp q f).fabs = s.fabs := rfl
@[simp] theorem State.updQp_cqs (s : State) (q : Nat) (f : Qp → Qp) : (s.updQp q f).cqs = s.cqs := rfl
@[simp] theorem State.updQp_fwds (s : State) (q : Nat) (f : Qp → Qp) : (s.updQp q f).fwds = s.fwds := rfl
@[simp] theorem State.updQp_snaps (s : State) (q : Nat) (f : Qp → Qp) : (s.updQp q f).snaps = s.snaps := rfl
@[simp] theorem State.updQp_fsnaps (s : State) (q : Nat) (f : Qp → Qp) : (s.updQp q f).fsnaps = s.fsnaps := rfl
@[simp] theorem State.updQp_mode (s : State) (q : Nat) (f : Qp → Qp) : (s.updQp q f).mode = s.mode := rfl
@[simp] theorem State.updQp_pages (s : State) (q : Nat) (f : Qp → Qp) : (s.updQp q f).pages = s.pages := rfl
@[simp] theorem State.updQp_iris (s : State) (q : Nat) (f : Qp → Qp) : (s.updQp q f).iris = s.iris := rfl
@[simp] theorem State.updQp_icores (s : State) (q : Nat) (f : Qp → Qp) : (s.updQp q f).icores = s.icores := rfl
@[simp] theorem State.updQp_board (s : State) (q : Nat) (f : Qp → Qp) : (s.updQp q f).board = s.board := rfl

/-! ### setSeq -/

@[simp] theorem State.setSeq_pending (s : State) (e : Nat) (q : Seq) : (s.setSeq e q).pending = s.pending := rfl
@[simp] theorem State.setSeq_time (s : State) (e : Nat) (q : Seq) : (s.setSeq e q).time = s.time := rfl
@[simp] theorem State.setSeq_ftAdj (s : State) (e : Nat) (q : Seq) : (s.setSeq e q).ftAdj = s.ftAdj := rfl
@[simp] theorem State.setSeq_ftTenths (s : State) (e : Nat) (q : Seq) : (s.setSeq e q).ftTenths = s.ftTenths := rfl
@[simp] theorem State.setSeq_fresh (s : State) (e : Nat) (q : Seq) : (s.setSeq e q).fresh = s.fresh := rfl
@[simp] theorem State.setSeq_mem (s : State) (e : Nat) (q : Seq) : (s.setSeq e q).mem = s.mem := rfl
@[simp] theorem State.setSeq_poison (s : State) (e : Nat) (q : Seq) : (s.setSeq e q).poison = s.poison := rfl
@[simp] theorem State.setSeq_host (s : State) (e : Nat) (q : Seq) : (s.setSeq e q).host = s.host := rfl
@[simp] theorem State.setSeq_ctxs (s : State) (e : Nat) (q : Seq) : (s.setSeq e q).ctxs = s.ctxs := rfl
@[simp] theorem State.setSeq_cores (s : State) (e : Nat) (q : Seq) : (s.setSeq e q).cores = s.cores := rfl
@[simp] theorem State.setSeq_tiles (s : State) (e : Nat) (q : Seq) : (s.setSeq e q).tiles = s.tiles := rfl
@[simp] theorem State.setSeq_sems (s : State) (e : Nat) (q : Seq) : (s.setSeq e q).sems = s.sems := rfl
@[simp] theorem State.setSeq_signals (s : State) (e : Nat) (q : Seq) : (s.setSeq e q).signals = s.signals := rfl
@[simp] theorem State.setSeq_claims (s : State) (e : Nat) (q : Seq) : (s.setSeq e q).claims = s.claims := rfl
@[simp] theorem State.setSeq_parts (s : State) (e : Nat) (q : Seq) : (s.setSeq e q).parts = s.parts := rfl
@[simp] theorem State.setSeq_qps (s : State) (e : Nat) (q : Seq) : (s.setSeq e q).qps = s.qps := rfl
@[simp] theorem State.setSeq_launches (s : State) (e : Nat) (q : Seq) : (s.setSeq e q).launches = s.launches := rfl
@[simp] theorem State.setSeq_nextLaunch (s : State) (e : Nat) (q : Seq) : (s.setSeq e q).nextLaunch = s.nextLaunch := rfl
@[simp] theorem State.setSeq_images (s : State) (e : Nat) (q : Seq) : (s.setSeq e q).images = s.images := rfl
@[simp] theorem State.setSeq_lastImage (s : State) (e : Nat) (q : Seq) : (s.setSeq e q).lastImage = s.lastImage := rfl
@[simp] theorem State.setSeq_regions (s : State) (e : Nat) (q : Seq) : (s.setSeq e q).regions = s.regions := rfl
@[simp] theorem State.setSeq_owned (s : State) (e : Nat) (q : Seq) : (s.setSeq e q).owned = s.owned := rfl
@[simp] theorem State.setSeq_hsel (s : State) (e : Nat) (q : Seq) : (s.setSeq e q).hsel = s.hsel := rfl
@[simp] theorem State.setSeq_grants (s : State) (e : Nat) (q : Seq) : (s.setSeq e q).grants = s.grants := rfl
@[simp] theorem State.setSeq_drains (s : State) (e : Nat) (q : Seq) : (s.setSeq e q).drains = s.drains := rfl
@[simp] theorem State.setSeq_dies (s : State) (e : Nat) (q : Seq) : (s.setSeq e q).dies = s.dies := rfl
@[simp] theorem State.setSeq_chans (s : State) (e : Nat) (q : Seq) : (s.setSeq e q).chans = s.chans := rfl
@[simp] theorem State.setSeq_tobjs (s : State) (e : Nat) (q : Seq) : (s.setSeq e q).tobjs = s.tobjs := rfl
@[simp] theorem State.setSeq_lastTobj (s : State) (e : Nat) (q : Seq) : (s.setSeq e q).lastTobj = s.lastTobj := rfl
@[simp] theorem State.setSeq_wpkgs (s : State) (e : Nat) (q : Seq) : (s.setSeq e q).wpkgs = s.wpkgs := rfl
@[simp] theorem State.setSeq_lastWpkg (s : State) (e : Nat) (q : Seq) : (s.setSeq e q).lastWpkg = s.lastWpkg := rfl
@[simp] theorem State.setSeq_wwins (s : State) (e : Nat) (q : Seq) : (s.setSeq e q).wwins = s.wwins := rfl
@[simp] theorem State.setSeq_flash (s : State) (e : Nat) (q : Seq) : (s.setSeq e q).flash = s.flash := rfl
@[simp] theorem State.setSeq_pools (s : State) (e : Nat) (q : Seq) : (s.setSeq e q).pools = s.pools := rfl
@[simp] theorem State.setSeq_maps (s : State) (e : Nat) (q : Seq) : (s.setSeq e q).maps = s.maps := rfl
@[simp] theorem State.setSeq_mapRoom (s : State) (e : Nat) (q : Seq) : (s.setSeq e q).mapRoom = s.mapRoom := rfl
@[simp] theorem State.setSeq_foxes (s : State) (e : Nat) (q : Seq) : (s.setSeq e q).foxes = s.foxes := rfl
@[simp] theorem State.setSeq_prims (s : State) (e : Nat) (q : Seq) : (s.setSeq e q).prims = s.prims := rfl
@[simp] theorem State.setSeq_mbxs (s : State) (e : Nat) (q : Seq) : (s.setSeq e q).mbxs = s.mbxs := rfl
@[simp] theorem State.setSeq_journal (s : State) (e : Nat) (q : Seq) : (s.setSeq e q).journal = s.journal := rfl
@[simp] theorem State.setSeq_turn (s : State) (e : Nat) (q : Seq) : (s.setSeq e q).turn = s.turn := rfl
@[simp] theorem State.setSeq_cpRst (s : State) (e : Nat) (q : Seq) : (s.setSeq e q).cpRst = s.cpRst := rfl
@[simp] theorem State.setSeq_replays (s : State) (e : Nat) (q : Seq) : (s.setSeq e q).replays = s.replays := rfl
@[simp] theorem State.setSeq_ready (s : State) (e : Nat) (q : Seq) : (s.setSeq e q).ready = s.ready := rfl
@[simp] theorem State.setSeq_patch (s : State) (e : Nat) (q : Seq) : (s.setSeq e q).patch = s.patch := rfl
@[simp] theorem State.setSeq_nextPatch (s : State) (e : Nat) (q : Seq) : (s.setSeq e q).nextPatch = s.nextPatch := rfl
@[simp] theorem State.setSeq_funcs (s : State) (e : Nat) (q : Seq) : (s.setSeq e q).funcs = s.funcs := rfl
@[simp] theorem State.setSeq_pkeys (s : State) (e : Nat) (q : Seq) : (s.setSeq e q).pkeys = s.pkeys := rfl
@[simp] theorem State.setSeq_secure (s : State) (e : Nat) (q : Seq) : (s.setSeq e q).secure = s.secure := rfl
@[simp] theorem State.setSeq_linkUp (s : State) (e : Nat) (q : Seq) : (s.setSeq e q).linkUp = s.linkUp := rfl
@[simp] theorem State.setSeq_sent (s : State) (e : Nat) (q : Seq) : (s.setSeq e q).sent = s.sent := rfl
@[simp] theorem State.setSeq_bars (s : State) (e : Nat) (q : Seq) : (s.setSeq e q).bars = s.bars := rfl
@[simp] theorem State.setSeq_runs (s : State) (e : Nat) (q : Seq) : (s.setSeq e q).runs = s.runs := rfl
@[simp] theorem State.setSeq_stepLogs (s : State) (e : Nat) (q : Seq) : (s.setSeq e q).stepLogs = s.stepLogs := rfl
@[simp] theorem State.setSeq_bounds (s : State) (e : Nat) (q : Seq) : (s.setSeq e q).bounds = s.bounds := rfl
@[simp] theorem State.setSeq_copies (s : State) (e : Nat) (q : Seq) : (s.setSeq e q).copies = s.copies := rfl
@[simp] theorem State.setSeq_posted (s : State) (e : Nat) (q : Seq) : (s.setSeq e q).posted = s.posted := rfl
@[simp] theorem State.setSeq_pass0 (s : State) (e : Nat) (q : Seq) : (s.setSeq e q).pass0 = s.pass0 := rfl
@[simp] theorem State.setSeq_health (s : State) (e : Nat) (q : Seq) : (s.setSeq e q).health = s.health := rfl
@[simp] theorem State.setSeq_ports (s : State) (e : Nat) (q : Seq) : (s.setSeq e q).ports = s.ports := rfl
@[simp] theorem State.setSeq_outbox (s : State) (e : Nat) (q : Seq) : (s.setSeq e q).outbox = s.outbox := rfl
@[simp] theorem State.setSeq_lanes (s : State) (e : Nat) (q : Seq) : (s.setSeq e q).lanes = s.lanes := rfl
@[simp] theorem State.setSeq_domain (s : State) (e : Nat) (q : Seq) : (s.setSeq e q).domain = s.domain := rfl
@[simp] theorem State.setSeq_twin (s : State) (e : Nat) (q : Seq) : (s.setSeq e q).twin = s.twin := rfl
@[simp] theorem State.setSeq_fabs (s : State) (e : Nat) (q : Seq) : (s.setSeq e q).fabs = s.fabs := rfl
@[simp] theorem State.setSeq_cqs (s : State) (e : Nat) (q : Seq) : (s.setSeq e q).cqs = s.cqs := rfl
@[simp] theorem State.setSeq_fwds (s : State) (e : Nat) (q : Seq) : (s.setSeq e q).fwds = s.fwds := rfl
@[simp] theorem State.setSeq_snaps (s : State) (e : Nat) (q : Seq) : (s.setSeq e q).snaps = s.snaps := rfl
@[simp] theorem State.setSeq_fsnaps (s : State) (e : Nat) (q : Seq) : (s.setSeq e q).fsnaps = s.fsnaps := rfl
@[simp] theorem State.setSeq_mode (s : State) (e : Nat) (q : Seq) : (s.setSeq e q).mode = s.mode := rfl
@[simp] theorem State.setSeq_pages (s : State) (e : Nat) (q : Seq) : (s.setSeq e q).pages = s.pages := rfl
@[simp] theorem State.setSeq_iris (s : State) (e : Nat) (q : Seq) : (s.setSeq e q).iris = s.iris := rfl
@[simp] theorem State.setSeq_icores (s : State) (e : Nat) (q : Seq) : (s.setSeq e q).icores = s.icores := rfl
@[simp] theorem State.setSeq_board (s : State) (e : Nat) (q : Seq) : (s.setSeq e q).board = s.board := rfl

/-! ### updCq -/

@[simp] theorem State.updCq_pending (s : State) (p die q : Nat) (f : Cq → Cq) : (s.updCq p die q f).pending = s.pending := rfl
@[simp] theorem State.updCq_time (s : State) (p die q : Nat) (f : Cq → Cq) : (s.updCq p die q f).time = s.time := rfl
@[simp] theorem State.updCq_ftAdj (s : State) (p die q : Nat) (f : Cq → Cq) : (s.updCq p die q f).ftAdj = s.ftAdj := rfl
@[simp] theorem State.updCq_ftTenths (s : State) (p die q : Nat) (f : Cq → Cq) : (s.updCq p die q f).ftTenths = s.ftTenths := rfl
@[simp] theorem State.updCq_fresh (s : State) (p die q : Nat) (f : Cq → Cq) : (s.updCq p die q f).fresh = s.fresh := rfl
@[simp] theorem State.updCq_mem (s : State) (p die q : Nat) (f : Cq → Cq) : (s.updCq p die q f).mem = s.mem := rfl
@[simp] theorem State.updCq_poison (s : State) (p die q : Nat) (f : Cq → Cq) : (s.updCq p die q f).poison = s.poison := rfl
@[simp] theorem State.updCq_host (s : State) (p die q : Nat) (f : Cq → Cq) : (s.updCq p die q f).host = s.host := rfl
@[simp] theorem State.updCq_ctxs (s : State) (p die q : Nat) (f : Cq → Cq) : (s.updCq p die q f).ctxs = s.ctxs := rfl
@[simp] theorem State.updCq_cores (s : State) (p die q : Nat) (f : Cq → Cq) : (s.updCq p die q f).cores = s.cores := rfl
@[simp] theorem State.updCq_tiles (s : State) (p die q : Nat) (f : Cq → Cq) : (s.updCq p die q f).tiles = s.tiles := rfl
@[simp] theorem State.updCq_sems (s : State) (p die q : Nat) (f : Cq → Cq) : (s.updCq p die q f).sems = s.sems := rfl
@[simp] theorem State.updCq_signals (s : State) (p die q : Nat) (f : Cq → Cq) : (s.updCq p die q f).signals = s.signals := rfl
@[simp] theorem State.updCq_claims (s : State) (p die q : Nat) (f : Cq → Cq) : (s.updCq p die q f).claims = s.claims := rfl
@[simp] theorem State.updCq_parts (s : State) (p die q : Nat) (f : Cq → Cq) : (s.updCq p die q f).parts = s.parts := rfl
@[simp] theorem State.updCq_qps (s : State) (p die q : Nat) (f : Cq → Cq) : (s.updCq p die q f).qps = s.qps := rfl
@[simp] theorem State.updCq_launches (s : State) (p die q : Nat) (f : Cq → Cq) : (s.updCq p die q f).launches = s.launches := rfl
@[simp] theorem State.updCq_nextLaunch (s : State) (p die q : Nat) (f : Cq → Cq) : (s.updCq p die q f).nextLaunch = s.nextLaunch := rfl
@[simp] theorem State.updCq_images (s : State) (p die q : Nat) (f : Cq → Cq) : (s.updCq p die q f).images = s.images := rfl
@[simp] theorem State.updCq_lastImage (s : State) (p die q : Nat) (f : Cq → Cq) : (s.updCq p die q f).lastImage = s.lastImage := rfl
@[simp] theorem State.updCq_seqs (s : State) (p die q : Nat) (f : Cq → Cq) : (s.updCq p die q f).seqs = s.seqs := rfl
@[simp] theorem State.updCq_regions (s : State) (p die q : Nat) (f : Cq → Cq) : (s.updCq p die q f).regions = s.regions := rfl
@[simp] theorem State.updCq_owned (s : State) (p die q : Nat) (f : Cq → Cq) : (s.updCq p die q f).owned = s.owned := rfl
@[simp] theorem State.updCq_hsel (s : State) (p die q : Nat) (f : Cq → Cq) : (s.updCq p die q f).hsel = s.hsel := rfl
@[simp] theorem State.updCq_grants (s : State) (p die q : Nat) (f : Cq → Cq) : (s.updCq p die q f).grants = s.grants := rfl
@[simp] theorem State.updCq_drains (s : State) (p die q : Nat) (f : Cq → Cq) : (s.updCq p die q f).drains = s.drains := rfl
@[simp] theorem State.updCq_dies (s : State) (p die q : Nat) (f : Cq → Cq) : (s.updCq p die q f).dies = s.dies := rfl
@[simp] theorem State.updCq_chans (s : State) (p die q : Nat) (f : Cq → Cq) : (s.updCq p die q f).chans = s.chans := rfl
@[simp] theorem State.updCq_tobjs (s : State) (p die q : Nat) (f : Cq → Cq) : (s.updCq p die q f).tobjs = s.tobjs := rfl
@[simp] theorem State.updCq_lastTobj (s : State) (p die q : Nat) (f : Cq → Cq) : (s.updCq p die q f).lastTobj = s.lastTobj := rfl
@[simp] theorem State.updCq_wpkgs (s : State) (p die q : Nat) (f : Cq → Cq) : (s.updCq p die q f).wpkgs = s.wpkgs := rfl
@[simp] theorem State.updCq_lastWpkg (s : State) (p die q : Nat) (f : Cq → Cq) : (s.updCq p die q f).lastWpkg = s.lastWpkg := rfl
@[simp] theorem State.updCq_wwins (s : State) (p die q : Nat) (f : Cq → Cq) : (s.updCq p die q f).wwins = s.wwins := rfl
@[simp] theorem State.updCq_flash (s : State) (p die q : Nat) (f : Cq → Cq) : (s.updCq p die q f).flash = s.flash := rfl
@[simp] theorem State.updCq_pools (s : State) (p die q : Nat) (f : Cq → Cq) : (s.updCq p die q f).pools = s.pools := rfl
@[simp] theorem State.updCq_maps (s : State) (p die q : Nat) (f : Cq → Cq) : (s.updCq p die q f).maps = s.maps := rfl
@[simp] theorem State.updCq_mapRoom (s : State) (p die q : Nat) (f : Cq → Cq) : (s.updCq p die q f).mapRoom = s.mapRoom := rfl
@[simp] theorem State.updCq_foxes (s : State) (p die q : Nat) (f : Cq → Cq) : (s.updCq p die q f).foxes = s.foxes := rfl
@[simp] theorem State.updCq_prims (s : State) (p die q : Nat) (f : Cq → Cq) : (s.updCq p die q f).prims = s.prims := rfl
@[simp] theorem State.updCq_mbxs (s : State) (p die q : Nat) (f : Cq → Cq) : (s.updCq p die q f).mbxs = s.mbxs := rfl
@[simp] theorem State.updCq_journal (s : State) (p die q : Nat) (f : Cq → Cq) : (s.updCq p die q f).journal = s.journal := rfl
@[simp] theorem State.updCq_turn (s : State) (p die q : Nat) (f : Cq → Cq) : (s.updCq p die q f).turn = s.turn := rfl
@[simp] theorem State.updCq_cpRst (s : State) (p die q : Nat) (f : Cq → Cq) : (s.updCq p die q f).cpRst = s.cpRst := rfl
@[simp] theorem State.updCq_replays (s : State) (p die q : Nat) (f : Cq → Cq) : (s.updCq p die q f).replays = s.replays := rfl
@[simp] theorem State.updCq_ready (s : State) (p die q : Nat) (f : Cq → Cq) : (s.updCq p die q f).ready = s.ready := rfl
@[simp] theorem State.updCq_patch (s : State) (p die q : Nat) (f : Cq → Cq) : (s.updCq p die q f).patch = s.patch := rfl
@[simp] theorem State.updCq_nextPatch (s : State) (p die q : Nat) (f : Cq → Cq) : (s.updCq p die q f).nextPatch = s.nextPatch := rfl
@[simp] theorem State.updCq_funcs (s : State) (p die q : Nat) (f : Cq → Cq) : (s.updCq p die q f).funcs = s.funcs := rfl
@[simp] theorem State.updCq_pkeys (s : State) (p die q : Nat) (f : Cq → Cq) : (s.updCq p die q f).pkeys = s.pkeys := rfl
@[simp] theorem State.updCq_secure (s : State) (p die q : Nat) (f : Cq → Cq) : (s.updCq p die q f).secure = s.secure := rfl
@[simp] theorem State.updCq_linkUp (s : State) (p die q : Nat) (f : Cq → Cq) : (s.updCq p die q f).linkUp = s.linkUp := rfl
@[simp] theorem State.updCq_sent (s : State) (p die q : Nat) (f : Cq → Cq) : (s.updCq p die q f).sent = s.sent := rfl
@[simp] theorem State.updCq_bars (s : State) (p die q : Nat) (f : Cq → Cq) : (s.updCq p die q f).bars = s.bars := rfl
@[simp] theorem State.updCq_runs (s : State) (p die q : Nat) (f : Cq → Cq) : (s.updCq p die q f).runs = s.runs := rfl
@[simp] theorem State.updCq_stepLogs (s : State) (p die q : Nat) (f : Cq → Cq) : (s.updCq p die q f).stepLogs = s.stepLogs := rfl
@[simp] theorem State.updCq_bounds (s : State) (p die q : Nat) (f : Cq → Cq) : (s.updCq p die q f).bounds = s.bounds := rfl
@[simp] theorem State.updCq_copies (s : State) (p die q : Nat) (f : Cq → Cq) : (s.updCq p die q f).copies = s.copies := rfl
@[simp] theorem State.updCq_posted (s : State) (p die q : Nat) (f : Cq → Cq) : (s.updCq p die q f).posted = s.posted := rfl
@[simp] theorem State.updCq_pass0 (s : State) (p die q : Nat) (f : Cq → Cq) : (s.updCq p die q f).pass0 = s.pass0 := rfl
@[simp] theorem State.updCq_health (s : State) (p die q : Nat) (f : Cq → Cq) : (s.updCq p die q f).health = s.health := rfl
@[simp] theorem State.updCq_ports (s : State) (p die q : Nat) (f : Cq → Cq) : (s.updCq p die q f).ports = s.ports := rfl
@[simp] theorem State.updCq_outbox (s : State) (p die q : Nat) (f : Cq → Cq) : (s.updCq p die q f).outbox = s.outbox := rfl
@[simp] theorem State.updCq_lanes (s : State) (p die q : Nat) (f : Cq → Cq) : (s.updCq p die q f).lanes = s.lanes := rfl
@[simp] theorem State.updCq_domain (s : State) (p die q : Nat) (f : Cq → Cq) : (s.updCq p die q f).domain = s.domain := rfl
@[simp] theorem State.updCq_twin (s : State) (p die q : Nat) (f : Cq → Cq) : (s.updCq p die q f).twin = s.twin := rfl
@[simp] theorem State.updCq_fabs (s : State) (p die q : Nat) (f : Cq → Cq) : (s.updCq p die q f).fabs = s.fabs := rfl
@[simp] theorem State.updCq_fwds (s : State) (p die q : Nat) (f : Cq → Cq) : (s.updCq p die q f).fwds = s.fwds := rfl
@[simp] theorem State.updCq_snaps (s : State) (p die q : Nat) (f : Cq → Cq) : (s.updCq p die q f).snaps = s.snaps := rfl
@[simp] theorem State.updCq_fsnaps (s : State) (p die q : Nat) (f : Cq → Cq) : (s.updCq p die q f).fsnaps = s.fsnaps := rfl
@[simp] theorem State.updCq_mode (s : State) (p die q : Nat) (f : Cq → Cq) : (s.updCq p die q f).mode = s.mode := rfl
@[simp] theorem State.updCq_pages (s : State) (p die q : Nat) (f : Cq → Cq) : (s.updCq p die q f).pages = s.pages := rfl
@[simp] theorem State.updCq_iris (s : State) (p die q : Nat) (f : Cq → Cq) : (s.updCq p die q f).iris = s.iris := rfl
@[simp] theorem State.updCq_icores (s : State) (p die q : Nat) (f : Cq → Cq) : (s.updCq p die q f).icores = s.icores := rfl
@[simp] theorem State.updCq_board (s : State) (p die q : Nat) (f : Cq → Cq) : (s.updCq p die q f).board = s.board := rfl

/-! ### updRun -/

@[simp] theorem State.updRun_pending (s : State) (p : Nat) (f : Run → Run) : (s.updRun p f).pending = s.pending := rfl
@[simp] theorem State.updRun_time (s : State) (p : Nat) (f : Run → Run) : (s.updRun p f).time = s.time := rfl
@[simp] theorem State.updRun_ftAdj (s : State) (p : Nat) (f : Run → Run) : (s.updRun p f).ftAdj = s.ftAdj := rfl
@[simp] theorem State.updRun_ftTenths (s : State) (p : Nat) (f : Run → Run) : (s.updRun p f).ftTenths = s.ftTenths := rfl
@[simp] theorem State.updRun_fresh (s : State) (p : Nat) (f : Run → Run) : (s.updRun p f).fresh = s.fresh := rfl
@[simp] theorem State.updRun_mem (s : State) (p : Nat) (f : Run → Run) : (s.updRun p f).mem = s.mem := rfl
@[simp] theorem State.updRun_poison (s : State) (p : Nat) (f : Run → Run) : (s.updRun p f).poison = s.poison := rfl
@[simp] theorem State.updRun_host (s : State) (p : Nat) (f : Run → Run) : (s.updRun p f).host = s.host := rfl
@[simp] theorem State.updRun_ctxs (s : State) (p : Nat) (f : Run → Run) : (s.updRun p f).ctxs = s.ctxs := rfl
@[simp] theorem State.updRun_cores (s : State) (p : Nat) (f : Run → Run) : (s.updRun p f).cores = s.cores := rfl
@[simp] theorem State.updRun_tiles (s : State) (p : Nat) (f : Run → Run) : (s.updRun p f).tiles = s.tiles := rfl
@[simp] theorem State.updRun_sems (s : State) (p : Nat) (f : Run → Run) : (s.updRun p f).sems = s.sems := rfl
@[simp] theorem State.updRun_signals (s : State) (p : Nat) (f : Run → Run) : (s.updRun p f).signals = s.signals := rfl
@[simp] theorem State.updRun_claims (s : State) (p : Nat) (f : Run → Run) : (s.updRun p f).claims = s.claims := rfl
@[simp] theorem State.updRun_parts (s : State) (p : Nat) (f : Run → Run) : (s.updRun p f).parts = s.parts := rfl
@[simp] theorem State.updRun_qps (s : State) (p : Nat) (f : Run → Run) : (s.updRun p f).qps = s.qps := rfl
@[simp] theorem State.updRun_launches (s : State) (p : Nat) (f : Run → Run) : (s.updRun p f).launches = s.launches := rfl
@[simp] theorem State.updRun_nextLaunch (s : State) (p : Nat) (f : Run → Run) : (s.updRun p f).nextLaunch = s.nextLaunch := rfl
@[simp] theorem State.updRun_images (s : State) (p : Nat) (f : Run → Run) : (s.updRun p f).images = s.images := rfl
@[simp] theorem State.updRun_lastImage (s : State) (p : Nat) (f : Run → Run) : (s.updRun p f).lastImage = s.lastImage := rfl
@[simp] theorem State.updRun_seqs (s : State) (p : Nat) (f : Run → Run) : (s.updRun p f).seqs = s.seqs := rfl
@[simp] theorem State.updRun_regions (s : State) (p : Nat) (f : Run → Run) : (s.updRun p f).regions = s.regions := rfl
@[simp] theorem State.updRun_owned (s : State) (p : Nat) (f : Run → Run) : (s.updRun p f).owned = s.owned := rfl
@[simp] theorem State.updRun_hsel (s : State) (p : Nat) (f : Run → Run) : (s.updRun p f).hsel = s.hsel := rfl
@[simp] theorem State.updRun_grants (s : State) (p : Nat) (f : Run → Run) : (s.updRun p f).grants = s.grants := rfl
@[simp] theorem State.updRun_drains (s : State) (p : Nat) (f : Run → Run) : (s.updRun p f).drains = s.drains := rfl
@[simp] theorem State.updRun_dies (s : State) (p : Nat) (f : Run → Run) : (s.updRun p f).dies = s.dies := rfl
@[simp] theorem State.updRun_chans (s : State) (p : Nat) (f : Run → Run) : (s.updRun p f).chans = s.chans := rfl
@[simp] theorem State.updRun_tobjs (s : State) (p : Nat) (f : Run → Run) : (s.updRun p f).tobjs = s.tobjs := rfl
@[simp] theorem State.updRun_lastTobj (s : State) (p : Nat) (f : Run → Run) : (s.updRun p f).lastTobj = s.lastTobj := rfl
@[simp] theorem State.updRun_wpkgs (s : State) (p : Nat) (f : Run → Run) : (s.updRun p f).wpkgs = s.wpkgs := rfl
@[simp] theorem State.updRun_lastWpkg (s : State) (p : Nat) (f : Run → Run) : (s.updRun p f).lastWpkg = s.lastWpkg := rfl
@[simp] theorem State.updRun_wwins (s : State) (p : Nat) (f : Run → Run) : (s.updRun p f).wwins = s.wwins := rfl
@[simp] theorem State.updRun_flash (s : State) (p : Nat) (f : Run → Run) : (s.updRun p f).flash = s.flash := rfl
@[simp] theorem State.updRun_pools (s : State) (p : Nat) (f : Run → Run) : (s.updRun p f).pools = s.pools := rfl
@[simp] theorem State.updRun_maps (s : State) (p : Nat) (f : Run → Run) : (s.updRun p f).maps = s.maps := rfl
@[simp] theorem State.updRun_mapRoom (s : State) (p : Nat) (f : Run → Run) : (s.updRun p f).mapRoom = s.mapRoom := rfl
@[simp] theorem State.updRun_foxes (s : State) (p : Nat) (f : Run → Run) : (s.updRun p f).foxes = s.foxes := rfl
@[simp] theorem State.updRun_prims (s : State) (p : Nat) (f : Run → Run) : (s.updRun p f).prims = s.prims := rfl
@[simp] theorem State.updRun_mbxs (s : State) (p : Nat) (f : Run → Run) : (s.updRun p f).mbxs = s.mbxs := rfl
@[simp] theorem State.updRun_journal (s : State) (p : Nat) (f : Run → Run) : (s.updRun p f).journal = s.journal := rfl
@[simp] theorem State.updRun_turn (s : State) (p : Nat) (f : Run → Run) : (s.updRun p f).turn = s.turn := rfl
@[simp] theorem State.updRun_cpRst (s : State) (p : Nat) (f : Run → Run) : (s.updRun p f).cpRst = s.cpRst := rfl
@[simp] theorem State.updRun_replays (s : State) (p : Nat) (f : Run → Run) : (s.updRun p f).replays = s.replays := rfl
@[simp] theorem State.updRun_ready (s : State) (p : Nat) (f : Run → Run) : (s.updRun p f).ready = s.ready := rfl
@[simp] theorem State.updRun_patch (s : State) (p : Nat) (f : Run → Run) : (s.updRun p f).patch = s.patch := rfl
@[simp] theorem State.updRun_nextPatch (s : State) (p : Nat) (f : Run → Run) : (s.updRun p f).nextPatch = s.nextPatch := rfl
@[simp] theorem State.updRun_funcs (s : State) (p : Nat) (f : Run → Run) : (s.updRun p f).funcs = s.funcs := rfl
@[simp] theorem State.updRun_pkeys (s : State) (p : Nat) (f : Run → Run) : (s.updRun p f).pkeys = s.pkeys := rfl
@[simp] theorem State.updRun_secure (s : State) (p : Nat) (f : Run → Run) : (s.updRun p f).secure = s.secure := rfl
@[simp] theorem State.updRun_linkUp (s : State) (p : Nat) (f : Run → Run) : (s.updRun p f).linkUp = s.linkUp := rfl
@[simp] theorem State.updRun_sent (s : State) (p : Nat) (f : Run → Run) : (s.updRun p f).sent = s.sent := rfl
@[simp] theorem State.updRun_bars (s : State) (p : Nat) (f : Run → Run) : (s.updRun p f).bars = s.bars := rfl
@[simp] theorem State.updRun_stepLogs (s : State) (p : Nat) (f : Run → Run) : (s.updRun p f).stepLogs = s.stepLogs := rfl
@[simp] theorem State.updRun_bounds (s : State) (p : Nat) (f : Run → Run) : (s.updRun p f).bounds = s.bounds := rfl
@[simp] theorem State.updRun_copies (s : State) (p : Nat) (f : Run → Run) : (s.updRun p f).copies = s.copies := rfl
@[simp] theorem State.updRun_posted (s : State) (p : Nat) (f : Run → Run) : (s.updRun p f).posted = s.posted := rfl
@[simp] theorem State.updRun_pass0 (s : State) (p : Nat) (f : Run → Run) : (s.updRun p f).pass0 = s.pass0 := rfl
@[simp] theorem State.updRun_health (s : State) (p : Nat) (f : Run → Run) : (s.updRun p f).health = s.health := rfl
@[simp] theorem State.updRun_ports (s : State) (p : Nat) (f : Run → Run) : (s.updRun p f).ports = s.ports := rfl
@[simp] theorem State.updRun_outbox (s : State) (p : Nat) (f : Run → Run) : (s.updRun p f).outbox = s.outbox := rfl
@[simp] theorem State.updRun_lanes (s : State) (p : Nat) (f : Run → Run) : (s.updRun p f).lanes = s.lanes := rfl
@[simp] theorem State.updRun_domain (s : State) (p : Nat) (f : Run → Run) : (s.updRun p f).domain = s.domain := rfl
@[simp] theorem State.updRun_twin (s : State) (p : Nat) (f : Run → Run) : (s.updRun p f).twin = s.twin := rfl
@[simp] theorem State.updRun_fabs (s : State) (p : Nat) (f : Run → Run) : (s.updRun p f).fabs = s.fabs := rfl
@[simp] theorem State.updRun_cqs (s : State) (p : Nat) (f : Run → Run) : (s.updRun p f).cqs = s.cqs := rfl
@[simp] theorem State.updRun_fwds (s : State) (p : Nat) (f : Run → Run) : (s.updRun p f).fwds = s.fwds := rfl
@[simp] theorem State.updRun_snaps (s : State) (p : Nat) (f : Run → Run) : (s.updRun p f).snaps = s.snaps := rfl
@[simp] theorem State.updRun_fsnaps (s : State) (p : Nat) (f : Run → Run) : (s.updRun p f).fsnaps = s.fsnaps := rfl
@[simp] theorem State.updRun_mode (s : State) (p : Nat) (f : Run → Run) : (s.updRun p f).mode = s.mode := rfl
@[simp] theorem State.updRun_pages (s : State) (p : Nat) (f : Run → Run) : (s.updRun p f).pages = s.pages := rfl
@[simp] theorem State.updRun_iris (s : State) (p : Nat) (f : Run → Run) : (s.updRun p f).iris = s.iris := rfl
@[simp] theorem State.updRun_icores (s : State) (p : Nat) (f : Run → Run) : (s.updRun p f).icores = s.icores := rfl
@[simp] theorem State.updRun_board (s : State) (p : Nat) (f : Run → Run) : (s.updRun p f).board = s.board := rfl

/-! ### updPort -/

@[simp] theorem State.updPort_pending (s : State) (k : Nat) (f : Port → Port) : (s.updPort k f).pending = s.pending := rfl
@[simp] theorem State.updPort_time (s : State) (k : Nat) (f : Port → Port) : (s.updPort k f).time = s.time := rfl
@[simp] theorem State.updPort_ftAdj (s : State) (k : Nat) (f : Port → Port) : (s.updPort k f).ftAdj = s.ftAdj := rfl
@[simp] theorem State.updPort_ftTenths (s : State) (k : Nat) (f : Port → Port) : (s.updPort k f).ftTenths = s.ftTenths := rfl
@[simp] theorem State.updPort_fresh (s : State) (k : Nat) (f : Port → Port) : (s.updPort k f).fresh = s.fresh := rfl
@[simp] theorem State.updPort_mem (s : State) (k : Nat) (f : Port → Port) : (s.updPort k f).mem = s.mem := rfl
@[simp] theorem State.updPort_poison (s : State) (k : Nat) (f : Port → Port) : (s.updPort k f).poison = s.poison := rfl
@[simp] theorem State.updPort_host (s : State) (k : Nat) (f : Port → Port) : (s.updPort k f).host = s.host := rfl
@[simp] theorem State.updPort_ctxs (s : State) (k : Nat) (f : Port → Port) : (s.updPort k f).ctxs = s.ctxs := rfl
@[simp] theorem State.updPort_cores (s : State) (k : Nat) (f : Port → Port) : (s.updPort k f).cores = s.cores := rfl
@[simp] theorem State.updPort_tiles (s : State) (k : Nat) (f : Port → Port) : (s.updPort k f).tiles = s.tiles := rfl
@[simp] theorem State.updPort_sems (s : State) (k : Nat) (f : Port → Port) : (s.updPort k f).sems = s.sems := rfl
@[simp] theorem State.updPort_signals (s : State) (k : Nat) (f : Port → Port) : (s.updPort k f).signals = s.signals := rfl
@[simp] theorem State.updPort_claims (s : State) (k : Nat) (f : Port → Port) : (s.updPort k f).claims = s.claims := rfl
@[simp] theorem State.updPort_parts (s : State) (k : Nat) (f : Port → Port) : (s.updPort k f).parts = s.parts := rfl
@[simp] theorem State.updPort_qps (s : State) (k : Nat) (f : Port → Port) : (s.updPort k f).qps = s.qps := rfl
@[simp] theorem State.updPort_launches (s : State) (k : Nat) (f : Port → Port) : (s.updPort k f).launches = s.launches := rfl
@[simp] theorem State.updPort_nextLaunch (s : State) (k : Nat) (f : Port → Port) : (s.updPort k f).nextLaunch = s.nextLaunch := rfl
@[simp] theorem State.updPort_images (s : State) (k : Nat) (f : Port → Port) : (s.updPort k f).images = s.images := rfl
@[simp] theorem State.updPort_lastImage (s : State) (k : Nat) (f : Port → Port) : (s.updPort k f).lastImage = s.lastImage := rfl
@[simp] theorem State.updPort_seqs (s : State) (k : Nat) (f : Port → Port) : (s.updPort k f).seqs = s.seqs := rfl
@[simp] theorem State.updPort_regions (s : State) (k : Nat) (f : Port → Port) : (s.updPort k f).regions = s.regions := rfl
@[simp] theorem State.updPort_owned (s : State) (k : Nat) (f : Port → Port) : (s.updPort k f).owned = s.owned := rfl
@[simp] theorem State.updPort_hsel (s : State) (k : Nat) (f : Port → Port) : (s.updPort k f).hsel = s.hsel := rfl
@[simp] theorem State.updPort_grants (s : State) (k : Nat) (f : Port → Port) : (s.updPort k f).grants = s.grants := rfl
@[simp] theorem State.updPort_drains (s : State) (k : Nat) (f : Port → Port) : (s.updPort k f).drains = s.drains := rfl
@[simp] theorem State.updPort_dies (s : State) (k : Nat) (f : Port → Port) : (s.updPort k f).dies = s.dies := rfl
@[simp] theorem State.updPort_chans (s : State) (k : Nat) (f : Port → Port) : (s.updPort k f).chans = s.chans := rfl
@[simp] theorem State.updPort_tobjs (s : State) (k : Nat) (f : Port → Port) : (s.updPort k f).tobjs = s.tobjs := rfl
@[simp] theorem State.updPort_lastTobj (s : State) (k : Nat) (f : Port → Port) : (s.updPort k f).lastTobj = s.lastTobj := rfl
@[simp] theorem State.updPort_wpkgs (s : State) (k : Nat) (f : Port → Port) : (s.updPort k f).wpkgs = s.wpkgs := rfl
@[simp] theorem State.updPort_lastWpkg (s : State) (k : Nat) (f : Port → Port) : (s.updPort k f).lastWpkg = s.lastWpkg := rfl
@[simp] theorem State.updPort_wwins (s : State) (k : Nat) (f : Port → Port) : (s.updPort k f).wwins = s.wwins := rfl
@[simp] theorem State.updPort_flash (s : State) (k : Nat) (f : Port → Port) : (s.updPort k f).flash = s.flash := rfl
@[simp] theorem State.updPort_pools (s : State) (k : Nat) (f : Port → Port) : (s.updPort k f).pools = s.pools := rfl
@[simp] theorem State.updPort_maps (s : State) (k : Nat) (f : Port → Port) : (s.updPort k f).maps = s.maps := rfl
@[simp] theorem State.updPort_mapRoom (s : State) (k : Nat) (f : Port → Port) : (s.updPort k f).mapRoom = s.mapRoom := rfl
@[simp] theorem State.updPort_foxes (s : State) (k : Nat) (f : Port → Port) : (s.updPort k f).foxes = s.foxes := rfl
@[simp] theorem State.updPort_prims (s : State) (k : Nat) (f : Port → Port) : (s.updPort k f).prims = s.prims := rfl
@[simp] theorem State.updPort_mbxs (s : State) (k : Nat) (f : Port → Port) : (s.updPort k f).mbxs = s.mbxs := rfl
@[simp] theorem State.updPort_journal (s : State) (k : Nat) (f : Port → Port) : (s.updPort k f).journal = s.journal := rfl
@[simp] theorem State.updPort_turn (s : State) (k : Nat) (f : Port → Port) : (s.updPort k f).turn = s.turn := rfl
@[simp] theorem State.updPort_cpRst (s : State) (k : Nat) (f : Port → Port) : (s.updPort k f).cpRst = s.cpRst := rfl
@[simp] theorem State.updPort_replays (s : State) (k : Nat) (f : Port → Port) : (s.updPort k f).replays = s.replays := rfl
@[simp] theorem State.updPort_ready (s : State) (k : Nat) (f : Port → Port) : (s.updPort k f).ready = s.ready := rfl
@[simp] theorem State.updPort_patch (s : State) (k : Nat) (f : Port → Port) : (s.updPort k f).patch = s.patch := rfl
@[simp] theorem State.updPort_nextPatch (s : State) (k : Nat) (f : Port → Port) : (s.updPort k f).nextPatch = s.nextPatch := rfl
@[simp] theorem State.updPort_funcs (s : State) (k : Nat) (f : Port → Port) : (s.updPort k f).funcs = s.funcs := rfl
@[simp] theorem State.updPort_pkeys (s : State) (k : Nat) (f : Port → Port) : (s.updPort k f).pkeys = s.pkeys := rfl
@[simp] theorem State.updPort_secure (s : State) (k : Nat) (f : Port → Port) : (s.updPort k f).secure = s.secure := rfl
@[simp] theorem State.updPort_linkUp (s : State) (k : Nat) (f : Port → Port) : (s.updPort k f).linkUp = s.linkUp := rfl
@[simp] theorem State.updPort_sent (s : State) (k : Nat) (f : Port → Port) : (s.updPort k f).sent = s.sent := rfl
@[simp] theorem State.updPort_bars (s : State) (k : Nat) (f : Port → Port) : (s.updPort k f).bars = s.bars := rfl
@[simp] theorem State.updPort_runs (s : State) (k : Nat) (f : Port → Port) : (s.updPort k f).runs = s.runs := rfl
@[simp] theorem State.updPort_stepLogs (s : State) (k : Nat) (f : Port → Port) : (s.updPort k f).stepLogs = s.stepLogs := rfl
@[simp] theorem State.updPort_bounds (s : State) (k : Nat) (f : Port → Port) : (s.updPort k f).bounds = s.bounds := rfl
@[simp] theorem State.updPort_copies (s : State) (k : Nat) (f : Port → Port) : (s.updPort k f).copies = s.copies := rfl
@[simp] theorem State.updPort_posted (s : State) (k : Nat) (f : Port → Port) : (s.updPort k f).posted = s.posted := rfl
@[simp] theorem State.updPort_pass0 (s : State) (k : Nat) (f : Port → Port) : (s.updPort k f).pass0 = s.pass0 := rfl
@[simp] theorem State.updPort_health (s : State) (k : Nat) (f : Port → Port) : (s.updPort k f).health = s.health := rfl
@[simp] theorem State.updPort_outbox (s : State) (k : Nat) (f : Port → Port) : (s.updPort k f).outbox = s.outbox := rfl
@[simp] theorem State.updPort_lanes (s : State) (k : Nat) (f : Port → Port) : (s.updPort k f).lanes = s.lanes := rfl
@[simp] theorem State.updPort_domain (s : State) (k : Nat) (f : Port → Port) : (s.updPort k f).domain = s.domain := rfl
@[simp] theorem State.updPort_twin (s : State) (k : Nat) (f : Port → Port) : (s.updPort k f).twin = s.twin := rfl
@[simp] theorem State.updPort_fabs (s : State) (k : Nat) (f : Port → Port) : (s.updPort k f).fabs = s.fabs := rfl
@[simp] theorem State.updPort_cqs (s : State) (k : Nat) (f : Port → Port) : (s.updPort k f).cqs = s.cqs := rfl
@[simp] theorem State.updPort_fwds (s : State) (k : Nat) (f : Port → Port) : (s.updPort k f).fwds = s.fwds := rfl
@[simp] theorem State.updPort_snaps (s : State) (k : Nat) (f : Port → Port) : (s.updPort k f).snaps = s.snaps := rfl
@[simp] theorem State.updPort_fsnaps (s : State) (k : Nat) (f : Port → Port) : (s.updPort k f).fsnaps = s.fsnaps := rfl
@[simp] theorem State.updPort_mode (s : State) (k : Nat) (f : Port → Port) : (s.updPort k f).mode = s.mode := rfl
@[simp] theorem State.updPort_pages (s : State) (k : Nat) (f : Port → Port) : (s.updPort k f).pages = s.pages := rfl
@[simp] theorem State.updPort_iris (s : State) (k : Nat) (f : Port → Port) : (s.updPort k f).iris = s.iris := rfl
@[simp] theorem State.updPort_icores (s : State) (k : Nat) (f : Port → Port) : (s.updPort k f).icores = s.icores := rfl
@[simp] theorem State.updPort_board (s : State) (k : Nat) (f : Port → Port) : (s.updPort k f).board = s.board := rfl

/-! ### updFwd -/

@[simp] theorem State.updFwd_pending (s : State) (k : Nat) (f : Fwd → Fwd) : (s.updFwd k f).pending = s.pending := rfl
@[simp] theorem State.updFwd_time (s : State) (k : Nat) (f : Fwd → Fwd) : (s.updFwd k f).time = s.time := rfl
@[simp] theorem State.updFwd_ftAdj (s : State) (k : Nat) (f : Fwd → Fwd) : (s.updFwd k f).ftAdj = s.ftAdj := rfl
@[simp] theorem State.updFwd_ftTenths (s : State) (k : Nat) (f : Fwd → Fwd) : (s.updFwd k f).ftTenths = s.ftTenths := rfl
@[simp] theorem State.updFwd_fresh (s : State) (k : Nat) (f : Fwd → Fwd) : (s.updFwd k f).fresh = s.fresh := rfl
@[simp] theorem State.updFwd_mem (s : State) (k : Nat) (f : Fwd → Fwd) : (s.updFwd k f).mem = s.mem := rfl
@[simp] theorem State.updFwd_poison (s : State) (k : Nat) (f : Fwd → Fwd) : (s.updFwd k f).poison = s.poison := rfl
@[simp] theorem State.updFwd_host (s : State) (k : Nat) (f : Fwd → Fwd) : (s.updFwd k f).host = s.host := rfl
@[simp] theorem State.updFwd_ctxs (s : State) (k : Nat) (f : Fwd → Fwd) : (s.updFwd k f).ctxs = s.ctxs := rfl
@[simp] theorem State.updFwd_cores (s : State) (k : Nat) (f : Fwd → Fwd) : (s.updFwd k f).cores = s.cores := rfl
@[simp] theorem State.updFwd_tiles (s : State) (k : Nat) (f : Fwd → Fwd) : (s.updFwd k f).tiles = s.tiles := rfl
@[simp] theorem State.updFwd_sems (s : State) (k : Nat) (f : Fwd → Fwd) : (s.updFwd k f).sems = s.sems := rfl
@[simp] theorem State.updFwd_signals (s : State) (k : Nat) (f : Fwd → Fwd) : (s.updFwd k f).signals = s.signals := rfl
@[simp] theorem State.updFwd_claims (s : State) (k : Nat) (f : Fwd → Fwd) : (s.updFwd k f).claims = s.claims := rfl
@[simp] theorem State.updFwd_parts (s : State) (k : Nat) (f : Fwd → Fwd) : (s.updFwd k f).parts = s.parts := rfl
@[simp] theorem State.updFwd_qps (s : State) (k : Nat) (f : Fwd → Fwd) : (s.updFwd k f).qps = s.qps := rfl
@[simp] theorem State.updFwd_launches (s : State) (k : Nat) (f : Fwd → Fwd) : (s.updFwd k f).launches = s.launches := rfl
@[simp] theorem State.updFwd_nextLaunch (s : State) (k : Nat) (f : Fwd → Fwd) : (s.updFwd k f).nextLaunch = s.nextLaunch := rfl
@[simp] theorem State.updFwd_images (s : State) (k : Nat) (f : Fwd → Fwd) : (s.updFwd k f).images = s.images := rfl
@[simp] theorem State.updFwd_lastImage (s : State) (k : Nat) (f : Fwd → Fwd) : (s.updFwd k f).lastImage = s.lastImage := rfl
@[simp] theorem State.updFwd_seqs (s : State) (k : Nat) (f : Fwd → Fwd) : (s.updFwd k f).seqs = s.seqs := rfl
@[simp] theorem State.updFwd_regions (s : State) (k : Nat) (f : Fwd → Fwd) : (s.updFwd k f).regions = s.regions := rfl
@[simp] theorem State.updFwd_owned (s : State) (k : Nat) (f : Fwd → Fwd) : (s.updFwd k f).owned = s.owned := rfl
@[simp] theorem State.updFwd_hsel (s : State) (k : Nat) (f : Fwd → Fwd) : (s.updFwd k f).hsel = s.hsel := rfl
@[simp] theorem State.updFwd_grants (s : State) (k : Nat) (f : Fwd → Fwd) : (s.updFwd k f).grants = s.grants := rfl
@[simp] theorem State.updFwd_drains (s : State) (k : Nat) (f : Fwd → Fwd) : (s.updFwd k f).drains = s.drains := rfl
@[simp] theorem State.updFwd_dies (s : State) (k : Nat) (f : Fwd → Fwd) : (s.updFwd k f).dies = s.dies := rfl
@[simp] theorem State.updFwd_chans (s : State) (k : Nat) (f : Fwd → Fwd) : (s.updFwd k f).chans = s.chans := rfl
@[simp] theorem State.updFwd_tobjs (s : State) (k : Nat) (f : Fwd → Fwd) : (s.updFwd k f).tobjs = s.tobjs := rfl
@[simp] theorem State.updFwd_lastTobj (s : State) (k : Nat) (f : Fwd → Fwd) : (s.updFwd k f).lastTobj = s.lastTobj := rfl
@[simp] theorem State.updFwd_wpkgs (s : State) (k : Nat) (f : Fwd → Fwd) : (s.updFwd k f).wpkgs = s.wpkgs := rfl
@[simp] theorem State.updFwd_lastWpkg (s : State) (k : Nat) (f : Fwd → Fwd) : (s.updFwd k f).lastWpkg = s.lastWpkg := rfl
@[simp] theorem State.updFwd_wwins (s : State) (k : Nat) (f : Fwd → Fwd) : (s.updFwd k f).wwins = s.wwins := rfl
@[simp] theorem State.updFwd_flash (s : State) (k : Nat) (f : Fwd → Fwd) : (s.updFwd k f).flash = s.flash := rfl
@[simp] theorem State.updFwd_pools (s : State) (k : Nat) (f : Fwd → Fwd) : (s.updFwd k f).pools = s.pools := rfl
@[simp] theorem State.updFwd_maps (s : State) (k : Nat) (f : Fwd → Fwd) : (s.updFwd k f).maps = s.maps := rfl
@[simp] theorem State.updFwd_mapRoom (s : State) (k : Nat) (f : Fwd → Fwd) : (s.updFwd k f).mapRoom = s.mapRoom := rfl
@[simp] theorem State.updFwd_foxes (s : State) (k : Nat) (f : Fwd → Fwd) : (s.updFwd k f).foxes = s.foxes := rfl
@[simp] theorem State.updFwd_prims (s : State) (k : Nat) (f : Fwd → Fwd) : (s.updFwd k f).prims = s.prims := rfl
@[simp] theorem State.updFwd_mbxs (s : State) (k : Nat) (f : Fwd → Fwd) : (s.updFwd k f).mbxs = s.mbxs := rfl
@[simp] theorem State.updFwd_journal (s : State) (k : Nat) (f : Fwd → Fwd) : (s.updFwd k f).journal = s.journal := rfl
@[simp] theorem State.updFwd_turn (s : State) (k : Nat) (f : Fwd → Fwd) : (s.updFwd k f).turn = s.turn := rfl
@[simp] theorem State.updFwd_cpRst (s : State) (k : Nat) (f : Fwd → Fwd) : (s.updFwd k f).cpRst = s.cpRst := rfl
@[simp] theorem State.updFwd_replays (s : State) (k : Nat) (f : Fwd → Fwd) : (s.updFwd k f).replays = s.replays := rfl
@[simp] theorem State.updFwd_ready (s : State) (k : Nat) (f : Fwd → Fwd) : (s.updFwd k f).ready = s.ready := rfl
@[simp] theorem State.updFwd_patch (s : State) (k : Nat) (f : Fwd → Fwd) : (s.updFwd k f).patch = s.patch := rfl
@[simp] theorem State.updFwd_nextPatch (s : State) (k : Nat) (f : Fwd → Fwd) : (s.updFwd k f).nextPatch = s.nextPatch := rfl
@[simp] theorem State.updFwd_funcs (s : State) (k : Nat) (f : Fwd → Fwd) : (s.updFwd k f).funcs = s.funcs := rfl
@[simp] theorem State.updFwd_pkeys (s : State) (k : Nat) (f : Fwd → Fwd) : (s.updFwd k f).pkeys = s.pkeys := rfl
@[simp] theorem State.updFwd_secure (s : State) (k : Nat) (f : Fwd → Fwd) : (s.updFwd k f).secure = s.secure := rfl
@[simp] theorem State.updFwd_linkUp (s : State) (k : Nat) (f : Fwd → Fwd) : (s.updFwd k f).linkUp = s.linkUp := rfl
@[simp] theorem State.updFwd_sent (s : State) (k : Nat) (f : Fwd → Fwd) : (s.updFwd k f).sent = s.sent := rfl
@[simp] theorem State.updFwd_bars (s : State) (k : Nat) (f : Fwd → Fwd) : (s.updFwd k f).bars = s.bars := rfl
@[simp] theorem State.updFwd_runs (s : State) (k : Nat) (f : Fwd → Fwd) : (s.updFwd k f).runs = s.runs := rfl
@[simp] theorem State.updFwd_stepLogs (s : State) (k : Nat) (f : Fwd → Fwd) : (s.updFwd k f).stepLogs = s.stepLogs := rfl
@[simp] theorem State.updFwd_bounds (s : State) (k : Nat) (f : Fwd → Fwd) : (s.updFwd k f).bounds = s.bounds := rfl
@[simp] theorem State.updFwd_copies (s : State) (k : Nat) (f : Fwd → Fwd) : (s.updFwd k f).copies = s.copies := rfl
@[simp] theorem State.updFwd_posted (s : State) (k : Nat) (f : Fwd → Fwd) : (s.updFwd k f).posted = s.posted := rfl
@[simp] theorem State.updFwd_pass0 (s : State) (k : Nat) (f : Fwd → Fwd) : (s.updFwd k f).pass0 = s.pass0 := rfl
@[simp] theorem State.updFwd_health (s : State) (k : Nat) (f : Fwd → Fwd) : (s.updFwd k f).health = s.health := rfl
@[simp] theorem State.updFwd_ports (s : State) (k : Nat) (f : Fwd → Fwd) : (s.updFwd k f).ports = s.ports := rfl
@[simp] theorem State.updFwd_outbox (s : State) (k : Nat) (f : Fwd → Fwd) : (s.updFwd k f).outbox = s.outbox := rfl
@[simp] theorem State.updFwd_lanes (s : State) (k : Nat) (f : Fwd → Fwd) : (s.updFwd k f).lanes = s.lanes := rfl
@[simp] theorem State.updFwd_domain (s : State) (k : Nat) (f : Fwd → Fwd) : (s.updFwd k f).domain = s.domain := rfl
@[simp] theorem State.updFwd_twin (s : State) (k : Nat) (f : Fwd → Fwd) : (s.updFwd k f).twin = s.twin := rfl
@[simp] theorem State.updFwd_fabs (s : State) (k : Nat) (f : Fwd → Fwd) : (s.updFwd k f).fabs = s.fabs := rfl
@[simp] theorem State.updFwd_cqs (s : State) (k : Nat) (f : Fwd → Fwd) : (s.updFwd k f).cqs = s.cqs := rfl
@[simp] theorem State.updFwd_snaps (s : State) (k : Nat) (f : Fwd → Fwd) : (s.updFwd k f).snaps = s.snaps := rfl
@[simp] theorem State.updFwd_fsnaps (s : State) (k : Nat) (f : Fwd → Fwd) : (s.updFwd k f).fsnaps = s.fsnaps := rfl
@[simp] theorem State.updFwd_mode (s : State) (k : Nat) (f : Fwd → Fwd) : (s.updFwd k f).mode = s.mode := rfl
@[simp] theorem State.updFwd_pages (s : State) (k : Nat) (f : Fwd → Fwd) : (s.updFwd k f).pages = s.pages := rfl
@[simp] theorem State.updFwd_iris (s : State) (k : Nat) (f : Fwd → Fwd) : (s.updFwd k f).iris = s.iris := rfl
@[simp] theorem State.updFwd_icores (s : State) (k : Nat) (f : Fwd → Fwd) : (s.updFwd k f).icores = s.icores := rfl
@[simp] theorem State.updFwd_board (s : State) (k : Nat) (f : Fwd → Fwd) : (s.updFwd k f).board = s.board := rfl

/-! ### updIcore -/

@[simp] theorem State.updIcore_pending (s : State) (k : Nat) (f : IrisCore → IrisCore) : (s.updIcore k f).pending = s.pending := rfl
@[simp] theorem State.updIcore_time (s : State) (k : Nat) (f : IrisCore → IrisCore) : (s.updIcore k f).time = s.time := rfl
@[simp] theorem State.updIcore_ftAdj (s : State) (k : Nat) (f : IrisCore → IrisCore) : (s.updIcore k f).ftAdj = s.ftAdj := rfl
@[simp] theorem State.updIcore_ftTenths (s : State) (k : Nat) (f : IrisCore → IrisCore) : (s.updIcore k f).ftTenths = s.ftTenths := rfl
@[simp] theorem State.updIcore_fresh (s : State) (k : Nat) (f : IrisCore → IrisCore) : (s.updIcore k f).fresh = s.fresh := rfl
@[simp] theorem State.updIcore_mem (s : State) (k : Nat) (f : IrisCore → IrisCore) : (s.updIcore k f).mem = s.mem := rfl
@[simp] theorem State.updIcore_poison (s : State) (k : Nat) (f : IrisCore → IrisCore) : (s.updIcore k f).poison = s.poison := rfl
@[simp] theorem State.updIcore_host (s : State) (k : Nat) (f : IrisCore → IrisCore) : (s.updIcore k f).host = s.host := rfl
@[simp] theorem State.updIcore_ctxs (s : State) (k : Nat) (f : IrisCore → IrisCore) : (s.updIcore k f).ctxs = s.ctxs := rfl
@[simp] theorem State.updIcore_cores (s : State) (k : Nat) (f : IrisCore → IrisCore) : (s.updIcore k f).cores = s.cores := rfl
@[simp] theorem State.updIcore_tiles (s : State) (k : Nat) (f : IrisCore → IrisCore) : (s.updIcore k f).tiles = s.tiles := rfl
@[simp] theorem State.updIcore_sems (s : State) (k : Nat) (f : IrisCore → IrisCore) : (s.updIcore k f).sems = s.sems := rfl
@[simp] theorem State.updIcore_signals (s : State) (k : Nat) (f : IrisCore → IrisCore) : (s.updIcore k f).signals = s.signals := rfl
@[simp] theorem State.updIcore_claims (s : State) (k : Nat) (f : IrisCore → IrisCore) : (s.updIcore k f).claims = s.claims := rfl
@[simp] theorem State.updIcore_parts (s : State) (k : Nat) (f : IrisCore → IrisCore) : (s.updIcore k f).parts = s.parts := rfl
@[simp] theorem State.updIcore_qps (s : State) (k : Nat) (f : IrisCore → IrisCore) : (s.updIcore k f).qps = s.qps := rfl
@[simp] theorem State.updIcore_launches (s : State) (k : Nat) (f : IrisCore → IrisCore) : (s.updIcore k f).launches = s.launches := rfl
@[simp] theorem State.updIcore_nextLaunch (s : State) (k : Nat) (f : IrisCore → IrisCore) : (s.updIcore k f).nextLaunch = s.nextLaunch := rfl
@[simp] theorem State.updIcore_images (s : State) (k : Nat) (f : IrisCore → IrisCore) : (s.updIcore k f).images = s.images := rfl
@[simp] theorem State.updIcore_lastImage (s : State) (k : Nat) (f : IrisCore → IrisCore) : (s.updIcore k f).lastImage = s.lastImage := rfl
@[simp] theorem State.updIcore_seqs (s : State) (k : Nat) (f : IrisCore → IrisCore) : (s.updIcore k f).seqs = s.seqs := rfl
@[simp] theorem State.updIcore_regions (s : State) (k : Nat) (f : IrisCore → IrisCore) : (s.updIcore k f).regions = s.regions := rfl
@[simp] theorem State.updIcore_owned (s : State) (k : Nat) (f : IrisCore → IrisCore) : (s.updIcore k f).owned = s.owned := rfl
@[simp] theorem State.updIcore_hsel (s : State) (k : Nat) (f : IrisCore → IrisCore) : (s.updIcore k f).hsel = s.hsel := rfl
@[simp] theorem State.updIcore_grants (s : State) (k : Nat) (f : IrisCore → IrisCore) : (s.updIcore k f).grants = s.grants := rfl
@[simp] theorem State.updIcore_drains (s : State) (k : Nat) (f : IrisCore → IrisCore) : (s.updIcore k f).drains = s.drains := rfl
@[simp] theorem State.updIcore_dies (s : State) (k : Nat) (f : IrisCore → IrisCore) : (s.updIcore k f).dies = s.dies := rfl
@[simp] theorem State.updIcore_chans (s : State) (k : Nat) (f : IrisCore → IrisCore) : (s.updIcore k f).chans = s.chans := rfl
@[simp] theorem State.updIcore_tobjs (s : State) (k : Nat) (f : IrisCore → IrisCore) : (s.updIcore k f).tobjs = s.tobjs := rfl
@[simp] theorem State.updIcore_lastTobj (s : State) (k : Nat) (f : IrisCore → IrisCore) : (s.updIcore k f).lastTobj = s.lastTobj := rfl
@[simp] theorem State.updIcore_wpkgs (s : State) (k : Nat) (f : IrisCore → IrisCore) : (s.updIcore k f).wpkgs = s.wpkgs := rfl
@[simp] theorem State.updIcore_lastWpkg (s : State) (k : Nat) (f : IrisCore → IrisCore) : (s.updIcore k f).lastWpkg = s.lastWpkg := rfl
@[simp] theorem State.updIcore_wwins (s : State) (k : Nat) (f : IrisCore → IrisCore) : (s.updIcore k f).wwins = s.wwins := rfl
@[simp] theorem State.updIcore_flash (s : State) (k : Nat) (f : IrisCore → IrisCore) : (s.updIcore k f).flash = s.flash := rfl
@[simp] theorem State.updIcore_pools (s : State) (k : Nat) (f : IrisCore → IrisCore) : (s.updIcore k f).pools = s.pools := rfl
@[simp] theorem State.updIcore_maps (s : State) (k : Nat) (f : IrisCore → IrisCore) : (s.updIcore k f).maps = s.maps := rfl
@[simp] theorem State.updIcore_mapRoom (s : State) (k : Nat) (f : IrisCore → IrisCore) : (s.updIcore k f).mapRoom = s.mapRoom := rfl
@[simp] theorem State.updIcore_foxes (s : State) (k : Nat) (f : IrisCore → IrisCore) : (s.updIcore k f).foxes = s.foxes := rfl
@[simp] theorem State.updIcore_prims (s : State) (k : Nat) (f : IrisCore → IrisCore) : (s.updIcore k f).prims = s.prims := rfl
@[simp] theorem State.updIcore_mbxs (s : State) (k : Nat) (f : IrisCore → IrisCore) : (s.updIcore k f).mbxs = s.mbxs := rfl
@[simp] theorem State.updIcore_journal (s : State) (k : Nat) (f : IrisCore → IrisCore) : (s.updIcore k f).journal = s.journal := rfl
@[simp] theorem State.updIcore_turn (s : State) (k : Nat) (f : IrisCore → IrisCore) : (s.updIcore k f).turn = s.turn := rfl
@[simp] theorem State.updIcore_cpRst (s : State) (k : Nat) (f : IrisCore → IrisCore) : (s.updIcore k f).cpRst = s.cpRst := rfl
@[simp] theorem State.updIcore_replays (s : State) (k : Nat) (f : IrisCore → IrisCore) : (s.updIcore k f).replays = s.replays := rfl
@[simp] theorem State.updIcore_ready (s : State) (k : Nat) (f : IrisCore → IrisCore) : (s.updIcore k f).ready = s.ready := rfl
@[simp] theorem State.updIcore_patch (s : State) (k : Nat) (f : IrisCore → IrisCore) : (s.updIcore k f).patch = s.patch := rfl
@[simp] theorem State.updIcore_nextPatch (s : State) (k : Nat) (f : IrisCore → IrisCore) : (s.updIcore k f).nextPatch = s.nextPatch := rfl
@[simp] theorem State.updIcore_funcs (s : State) (k : Nat) (f : IrisCore → IrisCore) : (s.updIcore k f).funcs = s.funcs := rfl
@[simp] theorem State.updIcore_pkeys (s : State) (k : Nat) (f : IrisCore → IrisCore) : (s.updIcore k f).pkeys = s.pkeys := rfl
@[simp] theorem State.updIcore_secure (s : State) (k : Nat) (f : IrisCore → IrisCore) : (s.updIcore k f).secure = s.secure := rfl
@[simp] theorem State.updIcore_linkUp (s : State) (k : Nat) (f : IrisCore → IrisCore) : (s.updIcore k f).linkUp = s.linkUp := rfl
@[simp] theorem State.updIcore_sent (s : State) (k : Nat) (f : IrisCore → IrisCore) : (s.updIcore k f).sent = s.sent := rfl
@[simp] theorem State.updIcore_bars (s : State) (k : Nat) (f : IrisCore → IrisCore) : (s.updIcore k f).bars = s.bars := rfl
@[simp] theorem State.updIcore_runs (s : State) (k : Nat) (f : IrisCore → IrisCore) : (s.updIcore k f).runs = s.runs := rfl
@[simp] theorem State.updIcore_stepLogs (s : State) (k : Nat) (f : IrisCore → IrisCore) : (s.updIcore k f).stepLogs = s.stepLogs := rfl
@[simp] theorem State.updIcore_bounds (s : State) (k : Nat) (f : IrisCore → IrisCore) : (s.updIcore k f).bounds = s.bounds := rfl
@[simp] theorem State.updIcore_copies (s : State) (k : Nat) (f : IrisCore → IrisCore) : (s.updIcore k f).copies = s.copies := rfl
@[simp] theorem State.updIcore_posted (s : State) (k : Nat) (f : IrisCore → IrisCore) : (s.updIcore k f).posted = s.posted := rfl
@[simp] theorem State.updIcore_pass0 (s : State) (k : Nat) (f : IrisCore → IrisCore) : (s.updIcore k f).pass0 = s.pass0 := rfl
@[simp] theorem State.updIcore_health (s : State) (k : Nat) (f : IrisCore → IrisCore) : (s.updIcore k f).health = s.health := rfl
@[simp] theorem State.updIcore_ports (s : State) (k : Nat) (f : IrisCore → IrisCore) : (s.updIcore k f).ports = s.ports := rfl
@[simp] theorem State.updIcore_outbox (s : State) (k : Nat) (f : IrisCore → IrisCore) : (s.updIcore k f).outbox = s.outbox := rfl
@[simp] theorem State.updIcore_lanes (s : State) (k : Nat) (f : IrisCore → IrisCore) : (s.updIcore k f).lanes = s.lanes := rfl
@[simp] theorem State.updIcore_domain (s : State) (k : Nat) (f : IrisCore → IrisCore) : (s.updIcore k f).domain = s.domain := rfl
@[simp] theorem State.updIcore_twin (s : State) (k : Nat) (f : IrisCore → IrisCore) : (s.updIcore k f).twin = s.twin := rfl
@[simp] theorem State.updIcore_fabs (s : State) (k : Nat) (f : IrisCore → IrisCore) : (s.updIcore k f).fabs = s.fabs := rfl
@[simp] theorem State.updIcore_cqs (s : State) (k : Nat) (f : IrisCore → IrisCore) : (s.updIcore k f).cqs = s.cqs := rfl
@[simp] theorem State.updIcore_fwds (s : State) (k : Nat) (f : IrisCore → IrisCore) : (s.updIcore k f).fwds = s.fwds := rfl
@[simp] theorem State.updIcore_snaps (s : State) (k : Nat) (f : IrisCore → IrisCore) : (s.updIcore k f).snaps = s.snaps := rfl
@[simp] theorem State.updIcore_fsnaps (s : State) (k : Nat) (f : IrisCore → IrisCore) : (s.updIcore k f).fsnaps = s.fsnaps := rfl
@[simp] theorem State.updIcore_mode (s : State) (k : Nat) (f : IrisCore → IrisCore) : (s.updIcore k f).mode = s.mode := rfl
@[simp] theorem State.updIcore_pages (s : State) (k : Nat) (f : IrisCore → IrisCore) : (s.updIcore k f).pages = s.pages := rfl
@[simp] theorem State.updIcore_iris (s : State) (k : Nat) (f : IrisCore → IrisCore) : (s.updIcore k f).iris = s.iris := rfl
@[simp] theorem State.updIcore_board (s : State) (k : Nat) (f : IrisCore → IrisCore) : (s.updIcore k f).board = s.board := rfl

/-! ### updIris -/

@[simp] theorem State.updIris_pending (s : State) (h : Nat) (f : IrisSess → IrisSess) : (s.updIris h f).pending = s.pending := rfl
@[simp] theorem State.updIris_time (s : State) (h : Nat) (f : IrisSess → IrisSess) : (s.updIris h f).time = s.time := rfl
@[simp] theorem State.updIris_ftAdj (s : State) (h : Nat) (f : IrisSess → IrisSess) : (s.updIris h f).ftAdj = s.ftAdj := rfl
@[simp] theorem State.updIris_ftTenths (s : State) (h : Nat) (f : IrisSess → IrisSess) : (s.updIris h f).ftTenths = s.ftTenths := rfl
@[simp] theorem State.updIris_fresh (s : State) (h : Nat) (f : IrisSess → IrisSess) : (s.updIris h f).fresh = s.fresh := rfl
@[simp] theorem State.updIris_mem (s : State) (h : Nat) (f : IrisSess → IrisSess) : (s.updIris h f).mem = s.mem := rfl
@[simp] theorem State.updIris_poison (s : State) (h : Nat) (f : IrisSess → IrisSess) : (s.updIris h f).poison = s.poison := rfl
@[simp] theorem State.updIris_host (s : State) (h : Nat) (f : IrisSess → IrisSess) : (s.updIris h f).host = s.host := rfl
@[simp] theorem State.updIris_ctxs (s : State) (h : Nat) (f : IrisSess → IrisSess) : (s.updIris h f).ctxs = s.ctxs := rfl
@[simp] theorem State.updIris_cores (s : State) (h : Nat) (f : IrisSess → IrisSess) : (s.updIris h f).cores = s.cores := rfl
@[simp] theorem State.updIris_tiles (s : State) (h : Nat) (f : IrisSess → IrisSess) : (s.updIris h f).tiles = s.tiles := rfl
@[simp] theorem State.updIris_sems (s : State) (h : Nat) (f : IrisSess → IrisSess) : (s.updIris h f).sems = s.sems := rfl
@[simp] theorem State.updIris_signals (s : State) (h : Nat) (f : IrisSess → IrisSess) : (s.updIris h f).signals = s.signals := rfl
@[simp] theorem State.updIris_claims (s : State) (h : Nat) (f : IrisSess → IrisSess) : (s.updIris h f).claims = s.claims := rfl
@[simp] theorem State.updIris_parts (s : State) (h : Nat) (f : IrisSess → IrisSess) : (s.updIris h f).parts = s.parts := rfl
@[simp] theorem State.updIris_qps (s : State) (h : Nat) (f : IrisSess → IrisSess) : (s.updIris h f).qps = s.qps := rfl
@[simp] theorem State.updIris_launches (s : State) (h : Nat) (f : IrisSess → IrisSess) : (s.updIris h f).launches = s.launches := rfl
@[simp] theorem State.updIris_nextLaunch (s : State) (h : Nat) (f : IrisSess → IrisSess) : (s.updIris h f).nextLaunch = s.nextLaunch := rfl
@[simp] theorem State.updIris_images (s : State) (h : Nat) (f : IrisSess → IrisSess) : (s.updIris h f).images = s.images := rfl
@[simp] theorem State.updIris_lastImage (s : State) (h : Nat) (f : IrisSess → IrisSess) : (s.updIris h f).lastImage = s.lastImage := rfl
@[simp] theorem State.updIris_seqs (s : State) (h : Nat) (f : IrisSess → IrisSess) : (s.updIris h f).seqs = s.seqs := rfl
@[simp] theorem State.updIris_regions (s : State) (h : Nat) (f : IrisSess → IrisSess) : (s.updIris h f).regions = s.regions := rfl
@[simp] theorem State.updIris_owned (s : State) (h : Nat) (f : IrisSess → IrisSess) : (s.updIris h f).owned = s.owned := rfl
@[simp] theorem State.updIris_hsel (s : State) (h : Nat) (f : IrisSess → IrisSess) : (s.updIris h f).hsel = s.hsel := rfl
@[simp] theorem State.updIris_grants (s : State) (h : Nat) (f : IrisSess → IrisSess) : (s.updIris h f).grants = s.grants := rfl
@[simp] theorem State.updIris_drains (s : State) (h : Nat) (f : IrisSess → IrisSess) : (s.updIris h f).drains = s.drains := rfl
@[simp] theorem State.updIris_dies (s : State) (h : Nat) (f : IrisSess → IrisSess) : (s.updIris h f).dies = s.dies := rfl
@[simp] theorem State.updIris_chans (s : State) (h : Nat) (f : IrisSess → IrisSess) : (s.updIris h f).chans = s.chans := rfl
@[simp] theorem State.updIris_tobjs (s : State) (h : Nat) (f : IrisSess → IrisSess) : (s.updIris h f).tobjs = s.tobjs := rfl
@[simp] theorem State.updIris_lastTobj (s : State) (h : Nat) (f : IrisSess → IrisSess) : (s.updIris h f).lastTobj = s.lastTobj := rfl
@[simp] theorem State.updIris_wpkgs (s : State) (h : Nat) (f : IrisSess → IrisSess) : (s.updIris h f).wpkgs = s.wpkgs := rfl
@[simp] theorem State.updIris_lastWpkg (s : State) (h : Nat) (f : IrisSess → IrisSess) : (s.updIris h f).lastWpkg = s.lastWpkg := rfl
@[simp] theorem State.updIris_wwins (s : State) (h : Nat) (f : IrisSess → IrisSess) : (s.updIris h f).wwins = s.wwins := rfl
@[simp] theorem State.updIris_flash (s : State) (h : Nat) (f : IrisSess → IrisSess) : (s.updIris h f).flash = s.flash := rfl
@[simp] theorem State.updIris_pools (s : State) (h : Nat) (f : IrisSess → IrisSess) : (s.updIris h f).pools = s.pools := rfl
@[simp] theorem State.updIris_maps (s : State) (h : Nat) (f : IrisSess → IrisSess) : (s.updIris h f).maps = s.maps := rfl
@[simp] theorem State.updIris_mapRoom (s : State) (h : Nat) (f : IrisSess → IrisSess) : (s.updIris h f).mapRoom = s.mapRoom := rfl
@[simp] theorem State.updIris_foxes (s : State) (h : Nat) (f : IrisSess → IrisSess) : (s.updIris h f).foxes = s.foxes := rfl
@[simp] theorem State.updIris_prims (s : State) (h : Nat) (f : IrisSess → IrisSess) : (s.updIris h f).prims = s.prims := rfl
@[simp] theorem State.updIris_mbxs (s : State) (h : Nat) (f : IrisSess → IrisSess) : (s.updIris h f).mbxs = s.mbxs := rfl
@[simp] theorem State.updIris_journal (s : State) (h : Nat) (f : IrisSess → IrisSess) : (s.updIris h f).journal = s.journal := rfl
@[simp] theorem State.updIris_turn (s : State) (h : Nat) (f : IrisSess → IrisSess) : (s.updIris h f).turn = s.turn := rfl
@[simp] theorem State.updIris_cpRst (s : State) (h : Nat) (f : IrisSess → IrisSess) : (s.updIris h f).cpRst = s.cpRst := rfl
@[simp] theorem State.updIris_replays (s : State) (h : Nat) (f : IrisSess → IrisSess) : (s.updIris h f).replays = s.replays := rfl
@[simp] theorem State.updIris_ready (s : State) (h : Nat) (f : IrisSess → IrisSess) : (s.updIris h f).ready = s.ready := rfl
@[simp] theorem State.updIris_patch (s : State) (h : Nat) (f : IrisSess → IrisSess) : (s.updIris h f).patch = s.patch := rfl
@[simp] theorem State.updIris_nextPatch (s : State) (h : Nat) (f : IrisSess → IrisSess) : (s.updIris h f).nextPatch = s.nextPatch := rfl
@[simp] theorem State.updIris_funcs (s : State) (h : Nat) (f : IrisSess → IrisSess) : (s.updIris h f).funcs = s.funcs := rfl
@[simp] theorem State.updIris_pkeys (s : State) (h : Nat) (f : IrisSess → IrisSess) : (s.updIris h f).pkeys = s.pkeys := rfl
@[simp] theorem State.updIris_secure (s : State) (h : Nat) (f : IrisSess → IrisSess) : (s.updIris h f).secure = s.secure := rfl
@[simp] theorem State.updIris_linkUp (s : State) (h : Nat) (f : IrisSess → IrisSess) : (s.updIris h f).linkUp = s.linkUp := rfl
@[simp] theorem State.updIris_sent (s : State) (h : Nat) (f : IrisSess → IrisSess) : (s.updIris h f).sent = s.sent := rfl
@[simp] theorem State.updIris_bars (s : State) (h : Nat) (f : IrisSess → IrisSess) : (s.updIris h f).bars = s.bars := rfl
@[simp] theorem State.updIris_runs (s : State) (h : Nat) (f : IrisSess → IrisSess) : (s.updIris h f).runs = s.runs := rfl
@[simp] theorem State.updIris_stepLogs (s : State) (h : Nat) (f : IrisSess → IrisSess) : (s.updIris h f).stepLogs = s.stepLogs := rfl
@[simp] theorem State.updIris_bounds (s : State) (h : Nat) (f : IrisSess → IrisSess) : (s.updIris h f).bounds = s.bounds := rfl
@[simp] theorem State.updIris_copies (s : State) (h : Nat) (f : IrisSess → IrisSess) : (s.updIris h f).copies = s.copies := rfl
@[simp] theorem State.updIris_posted (s : State) (h : Nat) (f : IrisSess → IrisSess) : (s.updIris h f).posted = s.posted := rfl
@[simp] theorem State.updIris_pass0 (s : State) (h : Nat) (f : IrisSess → IrisSess) : (s.updIris h f).pass0 = s.pass0 := rfl
@[simp] theorem State.updIris_health (s : State) (h : Nat) (f : IrisSess → IrisSess) : (s.updIris h f).health = s.health := rfl
@[simp] theorem State.updIris_ports (s : State) (h : Nat) (f : IrisSess → IrisSess) : (s.updIris h f).ports = s.ports := rfl
@[simp] theorem State.updIris_outbox (s : State) (h : Nat) (f : IrisSess → IrisSess) : (s.updIris h f).outbox = s.outbox := rfl
@[simp] theorem State.updIris_lanes (s : State) (h : Nat) (f : IrisSess → IrisSess) : (s.updIris h f).lanes = s.lanes := rfl
@[simp] theorem State.updIris_domain (s : State) (h : Nat) (f : IrisSess → IrisSess) : (s.updIris h f).domain = s.domain := rfl
@[simp] theorem State.updIris_twin (s : State) (h : Nat) (f : IrisSess → IrisSess) : (s.updIris h f).twin = s.twin := rfl
@[simp] theorem State.updIris_fabs (s : State) (h : Nat) (f : IrisSess → IrisSess) : (s.updIris h f).fabs = s.fabs := rfl
@[simp] theorem State.updIris_cqs (s : State) (h : Nat) (f : IrisSess → IrisSess) : (s.updIris h f).cqs = s.cqs := rfl
@[simp] theorem State.updIris_fwds (s : State) (h : Nat) (f : IrisSess → IrisSess) : (s.updIris h f).fwds = s.fwds := rfl
@[simp] theorem State.updIris_snaps (s : State) (h : Nat) (f : IrisSess → IrisSess) : (s.updIris h f).snaps = s.snaps := rfl
@[simp] theorem State.updIris_fsnaps (s : State) (h : Nat) (f : IrisSess → IrisSess) : (s.updIris h f).fsnaps = s.fsnaps := rfl
@[simp] theorem State.updIris_mode (s : State) (h : Nat) (f : IrisSess → IrisSess) : (s.updIris h f).mode = s.mode := rfl
@[simp] theorem State.updIris_pages (s : State) (h : Nat) (f : IrisSess → IrisSess) : (s.updIris h f).pages = s.pages := rfl
@[simp] theorem State.updIris_icores (s : State) (h : Nat) (f : IrisSess → IrisSess) : (s.updIris h f).icores = s.icores := rfl
@[simp] theorem State.updIris_board (s : State) (h : Nat) (f : IrisSess → IrisSess) : (s.updIris h f).board = s.board := rfl

/-! ### What a setter sets is read back -/

@[simp] theorem State.ctx_setCtx (s : State) (c x : Nat) (k : Ctx) : (s.setCtx c x k).ctx c x = k :=
  tget_tput_self ..

@[simp] theorem State.core_setCore (s : State) (c : Nat) (k : Core) : (s.setCore c k).core c = k :=
  tget_tput_self ..

@[simp] theorem State.tile_setTile (s : State) (c x h : Nat) (t : Tile) : (s.setTile c x h t).tile c x h = t :=
  tget_tput_self ..

@[simp] theorem State.sem_setSem (s : State) (die i : Nat) (v : Sem) : (s.setSem die i v).sem die i = v :=
  tget_tput_self ..

@[simp] theorem State.claim_setClaim (s : State) (die i : Nat) (v : Claim) : (s.setClaim die i v).claim die i = v :=
  tget_tput_self ..

@[simp] theorem State.bar_setBar (s : State) (p die i : Nat) (b : Bar) : (s.setBar p die i b).bar p die i = b :=
  tget_tput_self ..

@[simp] theorem State.func_setFunc (s : State) (p : Nat) (f : Func) : (s.setFunc p f).func p = f :=
  tget_tput_self ..

@[simp] theorem State.mbx_setMbx (s : State) (m : Nat) (b : Mbx) : (s.setMbx m b).mbx m = b :=
  tget_tput_self ..

@[simp] theorem State.fox_setFox (s : State) (u : Nat) (f : Fox) : (s.setFox u f).fox u = f :=
  tget_tput_self ..

@[simp] theorem State.prim_setPrim (s : State) (e : Nat) (q : Prim) : (s.setPrim e q).prim e = q :=
  tget_tput_self ..

theorem State.launch_updLaunch {s : State} {k : Nat} {l : Launch} (h : s.launch k = some l) (f : Launch → Launch) :
    (s.updLaunch k f).launch k = some (f l) := oget_oupd_self h f

@[simp] theorem State.port_updPort (s : State) (k : Nat) (f : Port → Port) : (s.updPort k f).port k = f (s.port k) :=
  tget_tput_self ..

@[simp] theorem State.icore_updIcore (s : State) (k : Nat) (f : IrisCore → IrisCore) :
    (s.updIcore k f).icore k = f (s.icore k) := tget_tput_self ..

end Sys2Proof.Machine
end

