-- ==== Sys2Proof/Tests/Slice0.lean ====
section
/-!
SUPPORT. Tests: ill-formed commands that the check refuses, one step on a small state with the value the spec gives, and a
concrete state that meets the hypotheses of each statement.
-/

set_option Elab.async false

namespace Sys2Proof.Tests

open Sys2Proof Sys2Proof.Machine

/-- A context with a tile-thread, 4 KiB of scratchpad and four accumulator tiles. -/
def kRun : Ctx :=
  { Ctx.reset with tt := some { launch := 0, index := 3 }, spadSize := 4096, accTiles := 4, pc := 0x1000, launch := some 0 }
/-- Context 0 of core 0 is `k`. -/
def sWith (k : Ctx) : State := { State.reset with ctxs := [(0, k)], cores := [(0, { Core.reset with power := .run })] }
/-- Context 0 of core 0 runs `kRun`. -/
def sRun : State := sWith kRun
/-- A slot under predicate register 0, which is all ones. -/
def h0 : SlotHdr := { pred := 0, pneg := false, var := false, hint := 0 }
/-- A slot under the inverse of it. -/
def hNot : SlotHdr := { pred := 0, pneg := true, var := false, hint := 0 }
/-- sD = s1, sS1 = s2, sS2 = s3. -/
def fReg : ScalarF := { slotB := false, imm := false, rd := 1, rs1 := 2, rs2 := 3, immv := 0 }

/-- `Issues` as a check. -/
def issuesB (s : State) (c x : Nat) (h : SlotHdr) (op : SlotOp) : Bool :=
  s.canRun c x && s.bundleReady c x (oneBundle h op) && (oneBundle h op).illegal.isNone && (!h.var || !s.varFault c x)

theorem issues_of {s : State} {c x : Nat} {h : SlotHdr} {op : SlotOp} (e : issuesB s c x h op = true) : Issues s c x h op := by
  simp only [issuesB, Bool.and_eq_true, Bool.or_eq_true, Bool.not_eq_true', Option.isNone_iff_eq_none] at e
  exact ⟨e.1.1.1, e.1.1.2, e.1.2, fun v => by rcases e.2 with w | w; (· rw [v] at w; cases w); exact w⟩

/-! ### The step -/

theorem witness_front : ({ State.reset with pending := [.pwrResetWrite 0 0 0] }).pending = .pwrResetWrite 0 0 0 :: [] := rfl
theorem witness_idle : State.reset.pending = [] := rfl
theorem witness_step : ∃ t, step State.reset = .next t := ⟨_, rfl⟩
theorem witness_memory : Memory.wf State.reset.mem ∧ ∃ t, step State.reset = .next t := ⟨by decide, _, rfl⟩
theorem witness_patch : PatchOk State.reset ∧ ∃ t, step State.reset = .next t :=
  ⟨⟨fun _ => rfl, (fun h => nomatch h), (fun _ h => nomatch h), (fun _ h => nomatch h)⟩, _, rfl⟩

/-! ### Scalar slots -/

theorem witness_alu : ∀ r ∈ aluRows, Issues sRun 0 0 h0 (.scalar r.2.1 fReg) ∧ Executes sRun 0 0 h0 := by
  have : aluRows.all (fun r => issuesB sRun 0 0 h0 (.scalar r.2.1 fReg)) = true := by decide
  exact fun r hr => ⟨issues_of (List.all_eq_true.1 this r hr), by decide⟩

/-- `r` with its slot operation issues and executes for every row. -/
def rowsRun {α : Type} (s : State) (h : SlotHdr) (f : ScalarF) (rs : List ((Nat → Nat → SlotHdr → ScalarF → Instr) × ScalarOp × α)) : Bool :=
  rs.all (fun r => issuesB s 0 0 h (.scalar r.2.1 f))

theorem witness_cmp : ∀ r ∈ cmpRows, Issues sRun 0 0 h0 (.scalar r.2.1 fReg) ∧ Executes sRun 0 0 h0 := by
  have : rowsRun sRun h0 fReg cmpRows = true := by decide
  exact fun r hr => ⟨issues_of (List.all_eq_true.1 this r hr), by decide⟩
theorem witness_predicated_off : ∀ r ∈ aluRows, Issues sRun 0 0 hNot (.scalar r.2.1 fReg) ∧ ¬Executes sRun 0 0 hNot := by
  have : rowsRun sRun hNot fReg aluRows = true := by decide
  exact fun r hr => ⟨issues_of (List.all_eq_true.1 this r hr), by decide⟩
theorem witness_adda : Executes sRun 0 0 h0 ∧ Issues sRun 0 0 h0 (.scalar .adda fReg) := ⟨by decide, issues_of (by decide)⟩
theorem witness_mova : Executes sRun 0 0 h0 ∧ Issues sRun 0 0 h0 (.scalar .mova fReg) := ⟨by decide, issues_of (by decide)⟩
theorem witness_movs : Executes sRun 0 0 h0 ∧ Issues sRun 0 0 h0 (.scalar .movs fReg) := ⟨by decide, issues_of (by decide)⟩
/-- rdsr of special register `i`; fabric time needs the VAR bit (R39). -/
def hVar : SlotHdr := { h0 with var := true }
theorem witness_rdsr : ∀ i ∈ [0x00, 0x01, 0x02, 0x0C, 0x0D, 0x0E, 0x11],
    Executes sRun 0 0 hVar ∧ Issues sRun 0 0 hVar (.scalar .rdsr { fReg with immv := BitVec.ofNat 48 i }) := by
  have : [0x00, 0x01, 0x02, 0x0C, 0x0D, 0x0E, 0x11].all
      (fun i => issuesB sRun 0 0 hVar (.scalar .rdsr { fReg with immv := BitVec.ofNat 48 i })) = true := by decide
  exact fun i hi => ⟨by decide, issues_of (List.all_eq_true.1 this i hi)⟩

/-- The last place of the window that holds `w` bytes; a0 is 0. -/
def fAt (o : Int) : ScalarF := { fReg with rs1 := 0, immv := BitVec.ofInt 48 o }

theorem witness_load : ∀ r ∈ loadRows, Issues sRun 0 0 h0 (.scalar r.2.1 (fAt (4096 - r.2.2))) ∧
    ((sRun.ctx 0 0).getA 0).toNat + (fAt (4096 - r.2.2)).immv.toInt = ((4096 - r.2.2 : Nat) : Int) ∧ (4096 - r.2.2) % r.2.2 = 0 ∧
    4096 - r.2.2 + r.2.2 ≤ (sRun.ctx 0 0).spadSize := by
  have : loadRows.all (fun r => issuesB sRun 0 0 h0 (.scalar r.2.1 (fAt (4096 - r.2.2))) &&
    decide (((sRun.ctx 0 0).getA 0).toNat + (fAt (4096 - r.2.2)).immv.toInt = ((4096 - r.2.2 : Nat) : Int) ∧ (4096 - r.2.2) % r.2.2 = 0 ∧
      4096 - r.2.2 + r.2.2 ≤ (sRun.ctx 0 0).spadSize)) = true := by decide
  intro r hr
  have h := List.all_eq_true.1 this r hr
  simp only [Bool.and_eq_true, decide_eq_true_eq] at h
  exact ⟨issues_of h.1, h.2⟩
theorem witness_store : ∀ r ∈ storeRows, Issues sRun 0 0 h0 (.scalar r.2.1 (fAt 0)) ∧
    ((sRun.ctx 0 0).getA 0).toNat + (fAt 0).immv.toInt = ((0 : Nat) : Int) := by
  have : rowsRun sRun h0 (fAt 0) storeRows = true := by decide
  exact fun r hr => ⟨issues_of (List.all_eq_true.1 this r hr), by decide⟩
theorem witness_access_below : ∀ r ∈ loadRows ++ storeRows, Issues sRun 0 0 h0 (.scalar r.2.1 (fAt (-1))) ∧
    ((sRun.ctx 0 0).getA 0).toNat + (fAt (-1)).immv.toInt < 0 := by
  have : rowsRun sRun h0 (fAt (-1)) (loadRows ++ storeRows) = true := by decide
  exact fun r hr => ⟨issues_of (List.all_eq_true.1 this r hr), by decide⟩
theorem witness_access_misaligned : Issues sRun 0 0 h0 (.scalar .st64 (fAt 4)) ∧
    (((sRun.ctx 0 0).getA 0).toNat + (fAt 4).immv.toInt) % (8 : Int) ≠ 0 := ⟨issues_of (by decide), by decide⟩
theorem witness_access_above : ∀ r ∈ loadRows ++ storeRows, Issues sRun 0 0 h0 (.scalar r.2.1 (fAt 4096)) ∧
    ((sRun.ctx 0 0).spadSize : Int) < ((sRun.ctx 0 0).getA 0).toNat + (fAt 4096).immv.toInt + r.2.2 := by
  have : (loadRows ++ storeRows).all (fun r => issuesB sRun 0 0 h0 (.scalar r.2.1 (fAt 4096)) &&
    decide (((sRun.ctx 0 0).spadSize : Int) < ((sRun.ctx 0 0).getA 0).toNat + (fAt 4096).immv.toInt + r.2.2)) = true := by decide
  intro r hr
  have h := List.all_eq_true.1 this r hr
  simp only [Bool.and_eq_true, decide_eq_true_eq] at h
  exact ⟨issues_of h.1, h.2⟩

/-- The same fields in scalar B. -/
def fB : ScalarF := { fReg with slotB := true }
/-- The branches. -/
def branchOps : List ScalarOp := [.br, .brz, .brnz, .brdec, .call, .jr]
theorem witness_branch : ∀ o ∈ branchOps, Issues sRun 0 0 h0 (.scalar o fB) := by
  have : branchOps.all (fun o => issuesB sRun 0 0 h0 (.scalar o fB)) = true := by decide
  exact fun o ho => issues_of (List.all_eq_true.1 this o ho)
theorem witness_jr : ((sRun.ctx 0 0).getS 2).toNat % 128 = 0 := by decide
theorem witness_end : Issues sRun 0 0 h0 (.scalar .endOp fB) ∧ (sRun.ctx 0 0).tt = some { launch := 0, index := 3 } :=
  ⟨issues_of (by decide), by decide⟩

/-- sS1 and sS2 of `fReg`. -/
def sVals (a b : W64) : State := sWith { kRun with s := [(2, a), (3, b)] }
/-- sD after one step. -/
def s1After (i : Instr) (s : State) : Option W64 :=
  match exec i s with
  | .next t => some ((t.ctx 0 0).getS 1)
  | _ => none

/-! Expected values: R43. -/
theorem test_add_wraps : s1After (.add 0 0 h0 fReg) (sVals 0xFFFFFFFFFFFFFFFF 2) = some 1 := by decide
theorem test_sub : s1After (.sub 0 0 h0 fReg) (sVals 2 3) = some 0xFFFFFFFFFFFFFFFF := by decide
theorem test_shl_count : s1After (.shl 0 0 h0 fReg) (sVals 1 65) = some 2 := by decide
theorem test_sra : s1After (.sra 0 0 h0 fReg) (sVals 0x8000000000000000 63) = some 0xFFFFFFFFFFFFFFFF := by decide
theorem test_mulh : s1After (.mulh 0 0 h0 fReg) (sVals 0xFFFFFFFFFFFFFFFF 2) = some 0xFFFFFFFFFFFFFFFF := by decide
theorem test_mulhu : s1After (.mulhu 0 0 h0 fReg) (sVals 0xFFFFFFFFFFFFFFFF 2) = some 1 := by decide
theorem test_div_by_zero : s1After (.div 0 0 h0 fReg) (sVals 7 0) = some 0xFFFFFFFFFFFFFFFF := by decide
theorem test_rem_by_zero : s1After (.rem 0 0 h0 fReg) (sVals 7 0) = some 7 := by decide
theorem test_div_toward_zero : s1After (.div 0 0 h0 fReg) (sVals 0xFFFFFFFFFFFFFFF9 2) = some 0xFFFFFFFFFFFFFFFD := by decide
theorem test_min_signed : s1After (.min 0 0 h0 fReg) (sVals 0xFFFFFFFFFFFFFFFF 1) = some 0xFFFFFFFFFFFFFFFF := by decide
theorem test_minu : s1After (.minu 0 0 h0 fReg) (sVals 0xFFFFFFFFFFFFFFFF 1) = some 1 := by decide

/-! ### Movers -/

/-- `n` as `k` bytes, least significant first, at address `a`. -/
def put (a k n : Nat) : List (Nat × Byte) :=
  ((List.range k).map (fun i => (a + i, BitVec.ofNat 8 (n / 256 ^ i)))).filter (fun e => e.2 ≠ 0)
/-- A descriptor of rank 1: format, extent and validity (R52), at offset 0 of the scratchpad. -/
def desc1 (fmt n v : Nat) : List (Nat × Byte) := put (spadSlot 0) 8 (fmt + 16) ++ put (spadSlot 0 + 8) 8 (n + 65536 * v)
/-- A region of partition 0: the first granule of die 0, readable and writable. -/
def region0 : Region :=
  { r := true, w := true, x := true, shared := false, map := false, tobj := false, dirty := false, hsel := 0, tobjId := 0, baseg := 0,
    lastg := 0, hotch := 0, hotTimes := [], hotEvent := none }
/-- a2 is 0x1000 and a4 0x2000, in that region; a3 is 512 of the scratchpad. -/
def kMove : Ctx := { kRun with a := [(2, 0x1000), (3, BitVec.ofNat 48 (spadSlot 0 + 512)), (4, 0x2000)] }
/-- Source a2, destination a3, tag 5. -/
def fMove : MoverF :=
  { desc := 0, asrc := 2, adst := 3, tag := 5, semen := false, semdie := false, sem := 0, offsSrc := 0, offsDst := 0 }
/-- The context with descriptor `d` in its memory. -/
def sMove (d : List (Nat × Byte)) : State := { sWith kMove with mem := d, regions := [(0, region0)] }
/-- Source a3 in the scratchpad, destination a2 in the region. -/
def fBack : MoverF := { fMove with asrc := 3, adst := 2 }
/-- Each mover operation with fields and a descriptor that pass its checks; tst.addf takes FP32, tst.addi INT32. -/
def moverCases : List (MoverOp × MoverF × State) :=
  [(.tld, fMove, sMove (desc1 0 32 32)), (.tldz, fMove, sMove (desc1 0 32 32)), (.tcpy, { fMove with adst := 4 }, sMove (desc1 0 32 32)),
   (.tst, fBack, sMove (desc1 0 32 32)), (.tstAddf, fBack, sMove (desc1 0 32 32)), (.tstAddi, fBack, sMove (desc1 9 32 32))]

theorem witness_mover : ∀ r ∈ moverCases, Issues r.2.2 0 0 hVar (.mover r.1 r.2.1) ∧ Executes r.2.2 0 0 hVar ∧
    (moverIssue 0 0 r.2.2 r.1 r.2.1).isOk = true := by
  have : moverCases.all (fun r => issuesB r.2.2 0 0 hVar (.mover r.1 r.2.1) && (decide (Executes r.2.2 0 0 hVar) &&
      (moverIssue 0 0 r.2.2 r.1 r.2.1).isOk)) = true := by decide
  intro r hr
  have h := List.all_eq_true.1 this r hr
  simp only [Bool.and_eq_true, decide_eq_true_eq] at h
  exact ⟨issues_of h.1, h.2⟩
/-- A descriptor of format 15 raises ILLEGAL_DESC. -/
theorem witness_mover_fault : ∀ r ∈ moverRows, Issues (sMove (desc1 15 32 32)) 0 0 hVar (.mover r.2 fMove) ∧
    (moverIssue 0 0 (sMove (desc1 15 32 32)) r.2 fMove).isOk = false := by
  have : moverRows.all (fun r => issuesB (sMove (desc1 15 32 32)) 0 0 hVar (.mover r.2 fMove) &&
      !(moverIssue 0 0 (sMove (desc1 15 32 32)) r.2 fMove).isOk) = true := by decide
  intro r hr
  have h := List.all_eq_true.1 this r hr
  simp only [Bool.and_eq_true, Bool.not_eq_true'] at h
  exact ⟨issues_of h.1, h.2⟩

/-- An operation in a mover queue: `o` on 32 FP32 elements between 0x1000 and 512 of the scratchpad. -/
def mRec (o : MoverOp) (sig : Option (Nat × Nat)) : MoverRec :=
  { seq := 0, ctx := 0, by_ := { launch := 0, index := 3 }, op := o, tag := some 5, sig := sig, pc := 0x1000, src := 0x1000,
    dst := spadSlot 0 + 512, desc := { fmt := 0, rank := 1, box := [32], valid := [32], stride := [0], aux := 0 }, hdr := none, w2 := 0,
    fmt := 0, part := 0 }
/-- The load mover of core 0 holds `mRec`, and semaphore 9 of die 0 holds `v`. -/
def sMover (o : MoverOp) (sig : Option (Nat × Nat)) (v : W32) : State :=
  { sMove [] with
    cores := [(0, { Core.reset with power := .run, lmq := [mRec o sig] })], sems := [(9, { Sem.reset with value := v })] }

theorem witness_mover_done : ((sMover .tld none 0).core 0).firstMover false 0 = some (mRec .tld none) ∧ (mRec .tld none).tag = some 5 ∧
    (sMover .tld none 0).regOpen 0 0 = true ∧ ((sMover .tld none 0).core 0).frozen.contains 0 = false ∧
    (sMover .tld none 0).moverPoisoned (mRec .tld none) = false := by decide
theorem witness_mover_signals : ((sMover .tldz (some (0, 9)) 0xFFFFFFFE).core 0).firstMover false 0 = some (mRec .tldz (some (0, 9))) ∧
    ((sMover .tldz (some (0, 9)) 0xFFFFFFFE).sem 0 9).value.toNat < 2 ^ 32 - 1 := by decide
theorem witness_mover_overflows : ((sMover .tldz (some (0, 9)) 0xFFFFFFFF).core 0).firstMover false 0 = some (mRec .tldz (some (0, 9))) ∧
    ((sMover .tldz (some (0, 9)) 0xFFFFFFFF).sem 0 9).value.toNat = 2 ^ 32 - 1 := by decide

/-! ### The matrix unit -/

/-- BF16 by BF16 into tile 3, one chunk: operands at 0 and 32768 of the window. -/
def fMat : MatrixF :=
  { td := 3, aa := 0, ab := 5, kch := 1, fmta := 1, fmtb := 1, acc := false, trb := true, desc := 0, chain := 0, adst := 2, offs := 0 }
/-- A context with a window of 128 KiB; a2 is 0x1000, a5 is 32768. -/
def kMat : Ctx := { kRun with spadSize := 131072, a := [(2, 0x1000), (5, 32768)] }
/-- The context in TILE mode, with region 0. -/
def sMat : State := { sWith kMat with regions := [(0, region0)] }
/-- The context in NEST mode. -/
def sNest : State := sWith { kMat with kmode := true }
/-- An mmul of that context. -/
def mmul0 : MmulRec :=
  { ctx := 0, tile := 3, a := 0, b := 32768, kch := 1, fmta := 1, fmtb := 1, acc := false, trb := true, done := 0, nest := none, needs := [],
    at_ := 0, issued := none }
/-- The tile-thread of `kRun`. -/
def thread0 : Thread := { launch := 0, index := 3 }
/-- The matrix queue of core 0 holds `q`. -/
def sQueue (k : Ctx) (q : List MatrixRec) : State :=
  { sMat with ctxs := [(0, k)], cores := [(0, { Core.reset with power := .run, mq := q })] }

theorem witness_mfree : Issues sMat 0 0 h0 (.matrix .mfree fMat) ∧ Executes sMat 0 0 h0 ∧ (sMat.ctx 0 0).kmode = false ∧
    fMat.td.toNat < (sMat.ctx 0 0).accTiles ∧ (sMat.core 0).mq.any (MatrixRec.touches 0 3) = false ∧ (sMat.core 0).drainHolds 0 3 0 = false ∧
    (sMat.core 0).lupinAdds 0 3 0 = false :=
  ⟨issues_of (by decide), by decide⟩
theorem witness_mfree_waits : let s := sQueue kMat [.mmul mmul0 thread0 0x1000 0]
    Issues s 0 0 h0 (.matrix .mfree fMat) ∧ MatrixRec.mmul mmul0 thread0 0x1000 0 ∈ (s.core 0).mq ∧ mmul0.ctx = 0 ∧ mmul0.tile = 3 ∧
    ∀ y w q, .mfree y w q ∈ (s.core 0).mq ∨ .clear y w q ∈ (s.core 0).mq → w < 16 ∧ (y, w) ≠ (0, 3) :=
  ⟨issues_of (by decide), by decide, rfl, rfl, by
    intro y w q e
    have : (sQueue kMat [.mmul mmul0 thread0 0x1000 0]).core 0 = { Core.reset with power := .run, mq := [.mmul mmul0 thread0 0x1000 0] } := rfl
    rw [this] at e; simp at e⟩
theorem witness_free_settles : let s := sQueue kMat [.mfree 0 3 0, .mmul mmul0 thread0 0x1000 0]
    (s.core 0).mq = .mfree 0 3 0 :: [.mmul mmul0 thread0 0x1000 0] ∧ (s.core 0).drainHolds 0 3 0 = false ∧
    (s.core 0).lupinAdds 0 3 0 = false := by decide
theorem witness_nest_mode : (sNest.ctx 0 0).kmode = true ∧ Issues sNest 0 0 h0 (.matrix .mmul fMat) ∧ Issues sNest 0 0 h0 (.matrix .mdrain fMat) ∧
    Issues sNest 0 0 h0 (.matrix .mfree fMat) ∧ Issues sNest 0 0 h0 (.matrix .lrun fMat) :=
  ⟨by decide, issues_of (by decide), issues_of (by decide), issues_of (by decide), issues_of (by decide)⟩
theorem witness_tile_mode : (sMat.ctx 0 0).kmode = false ∧ Issues sMat 0 0 h0 (.matrix .lrun fMat) := ⟨by decide, issues_of (by decide)⟩
theorem witness_mmul : Issues sMat 0 0 h0 (.matrix .mmul fMat) ∧ (mmulIssue 0 0 sMat (oneHeader h0 (.matrix .mmul fMat)) fMat).isOk = true :=
  ⟨issues_of (by decide), by decide⟩
/-- An FP32 descriptor of a whole tile (R100), at offset 0. -/
def descTile : List (Nat × Byte) :=
  put (spadSlot 0) 8 (0 + 16 * 2) ++ put (spadSlot 0 + 8) 8 (128 + 65536 * 128) ++ put (spadSlot 0 + 16) 8 (128 + 65536 * 128 + 2 ^ 32 * 512)
/-- What it parses to. -/
def dTile : Desc := { fmt := 0, rank := 2, box := [128, 128], valid := [128, 128], stride := [0, 512], aux := 0 }
theorem witness_mdrain : let s := { sMat with mem := descTile }
    Issues s 0 0 h0 (.matrix .mdrain fMat) ∧ (descAt 0 0 s 4 ((s.ctx 0 0).getD 0).toNat).toOption = some dTile ∧
    (drainIssue 0 0 s 3 0 (offAddr ((s.ctx 0 0).getA 2) 0) dTile 0 (tileXs (s.ctx 0 0) 0) none thread0 0x1000).isOk = true :=
  ⟨issues_of (by decide), by decide, by decide⟩
theorem witness_lrun : Issues sNest 0 0 h0 (.matrix .lrun fMat) ∧ (sNest.ctx 0 0).kmode = true := ⟨issues_of (by decide), by decide⟩

/-- An mmul of FP formats adds a chunk whatever its operands (R90). -/
theorem chunk_fp32 (s : State) (t : Tile) : ∃ t', s.chunkTile 0 0 mmul0 0 t = .ok t' := by
  unfold State.chunkTile
  have hp : pairPath mmul0.fmta mmul0.fmtb = .fp32 := by decide
  simp only [hp, if_true]
  split
  · next h =>
    obtain ⟨e, he, h⟩ := List.exists_of_findSome?_eq_some h
    obtain ⟨i, -, rfl⟩ := List.mem_map.1 he
    cases h
  · exact ⟨_, rfl⟩
theorem witness_chunk : let s := sQueue kMat [.mmul mmul0 thread0 0x1000 0]
    (s.core 0).currentMmul = some (mmul0, thread0, 0x1000) ∧ (s.core 0).frozen.contains 0 = false ∧ mmul0.needs = [] ∧ mmul0.nest = none ∧
    ∃ t', s.chunkTile 0 0 mmul0 0 Tile.empty = .ok t' := ⟨by decide, by decide, rfl, rfl, chunk_fp32 _ _⟩
/-- An INT8 mmul with operands of ones into a tile whose entry (0, 0) holds the greatest sum. -/
def mmul8 : MmulRec := { mmul0 with fmta := 5, fmtb := 5, acc := true }
/-- Core 0 with that tile. -/
def sFull : State :=
  { sQueue kMat [.mmul mmul8 thread0 0x1000 0] with
    tiles := [(3, { Tile.empty with path := .fixed, entries := [(0, .int 0x7FFFFFFFFFFFFFFFFFFFFFFF)] })]
    mem := [(spadSlot 0, 1), (spadSlot 0 + 32768, 1)] }
theorem witness_chunk_overflows : (sFull.core 0).currentMmul = some (mmul8, thread0, 0x1000) ∧
    (sFull.chunkTile 0 0 mmul8 0 (sFull.tile 0 0 3)).isOk = false := by constructor <;> decide +kernel

/-- A drain of tile 3 to 0x1000. -/
def drain0 : DrainRec :=
  { seq := 0, ctx := 0, by_ := thread0, pc := 0x1000, tile := 3, pair := false, chain := 0, dst := 0x1000, desc := dTile, hdr := none, w2 := 0,
    x := [0, 0, 0, 0, 0, 0, 0, 0], lrun := none, part := 0 }
/-- That drain in its first run; it writes one span. -/
def run0 : DrainRun := { d := drain0, fmt := 6, steps := 0, sb0 := 0, rerun := true, poison := false, writes := [(0x1000, [1, 2])] }
theorem witness_drain_start : let s := sQueue kMat [.mdrain drain0]
    (s.core 0).drain = none ∧ (s.core 0).nextDrain = some drain0 ∧ s.chainPending 0 drain0 = false ∧
    (s.core 0).frozen.contains 0 = false ∧ s.fwdFull 0 drain0 = false := by decide
/-- The drain unit reads, or waits to write, that drain. -/
def sDrain (d : Option DrainRun) (w : List DrainRun) : State :=
  { sMat with cores := [(0, { Core.reset with power := .run, drain := d, writing := w })] }
theorem witness_drain_rerun : ((sDrain (some run0) []).core 0).drain = some run0 ∧ rungOf run0.fmt = some 1 := by decide
theorem witness_drain_written : ((sDrain none [run0]).core 0).writing = run0 :: [] ∧ run0.poison = false ∧
    ((sDrain none [run0]).fwd 0).en = false := by decide
theorem witness_drain_widened : ((sDrain none [{ run0 with steps := 1 }]).core 0).writing = { run0 with steps := 1 } :: [] := by decide

/-! ### Lupin -/

/-- A chain of one table at window offset 0x400 (R113, R114): one K level of 4 iterations, INT8 by INT8, templates at 0x800, 0x840
and 0x880, staging from 4096. -/
def chain0 : List (Nat × Byte) :=
  put (spadSlot 0 + 0x400) 8 (1 + 2 ^ 8 + 2 ^ 20) ++ put (spadSlot 0 + 0x408) 8 (0x800 + 2 ^ 32 * 0x840) ++ put (spadSlot 0 + 0x410) 8 0x880 ++
  put (spadSlot 0 + 0x420) 8 (4096 + 2 ^ 32 * 65536) ++ put (spadSlot 0 + 0x428) 8 (5 + 16 * 5) ++
  put (spadSlot 0 + 0x440) 8 (3 + 2 ^ 28 * 2) ++
  (List.flatten ([0x800, 0x840, 0x880].map (fun o => put (spadSlot 0 + o) 8 (5 + 16 * 2) ++ put (spadSlot 0 + o + 8) 8 (128 + 65536 * 128) ++
    put (spadSlot 0 + o + 16) 8 (128 + 65536 * 128 + 2 ^ 32 * 128))))
/-- An lrun of it at the head of the matrix queue. -/
def sLrun (m : List (Nat × Byte)) : State :=
  { sWith { kMat with kmode := true } with
    mem := m, cores := [(0, { Core.reset with power := .run, mq := [.lrun 0 thread0 0x1000 0x400 7 0] })] }
theorem witness_lrun_start : ((sLrun chain0).core 0).lrun = none ∧
    ((sLrun chain0).core 0).headLrun = some (.lrun 0 thread0 0x1000 0x400 7 0) ∧ ((sLrun chain0).core 0).frozen.contains 0 = false ∧
    (match (sLrun chain0).bump.parseChain 0 0 ((sLrun chain0).bump.chainCount 0 0 64 0x400) 16 0x400 0 0 with | .ok (_ :: _) => true | _ => false) = true := by decide +kernel
theorem witness_lrun_fault : ((sLrun []).bump.parseChain 0 0 ((sLrun []).bump.chainCount 0 0 64 0x400) 16 0x400 0 0).isOk = false := by decide
theorem witness_lrun_complete : let s : State := { sMat with cores := [(0, { Core.reset with tail := [(7, 0, thread0, none)] })] }
    (s.core 0).tail.find? (fun l => !(s.core 0).lrunDrains l.1 && !(s.core 0).lmm.any (fun u => u.lrun == l.1)) = some (7, 0, thread0, none) := by decide

/-- That table as it is read. -/
def nest0 : Nest :=
  { off := 0x400, seqBit := false, kchl := 1, trb := true, chain := 0, nba := 0, nbb := 0, descA := { dTile with fmt := 5 }, hdrA := none,
    descB := { dTile with fmt := 5 }, hdrB := none, descC := dTile, hdrC := none, regA := 0, regB := 0, regC := 0, regX := 0, stgOff := 4096,
    stgSize := 65536, fmta := 5, fmtb := 5, sig := none,
    levels := [{ boundM1 := 3, pos := 0, kind := 2, padv := 0, chstep := 0, sa := 0, sb := 0, sc := 0, sx := 0 }] }
/-- Both operands stand staged at address 0x1000. -/
def staged0 : Staged := { addr := 0x1000, v0 := 128, v1 := 128, buf := 0, load := 0 }
/-- The lrun in its second iteration, holding tile 1; `i`: the index of the K level. -/
def lrun0 (i : Nat) : Lrun :=
  { id := 7, ctx := 0, by_ := thread0, pc := 0x1000, tables := [nest0], tbl := 0, idx := [i], changed := 0, ba := 0x1000, bb := 0x1000, bc := 0,
    bx := 0, seq := i, stA := some staged0, stB := some staged0, held := if i = 0 then [] else [([0, 0], 1, 0)], walked := false,
    header := 0, sig := none }
/-- Core 0 expands it. -/
def sLupin (i : Nat) : State :=
  { sWith { kMat with kmode := true } with cores := [(0, { Core.reset with power := .run, lrun := some (lrun0 i) })] }
/-- The hypotheses of LupinIterates on `sLupin i`. -/
def lupinOk (i : Nat) : Bool :=
  let s := sLupin i
  let l := lrun0 i
  let t := nest0
  decide ((s.core 0).lrun = some l ∧ l.walked = false ∧ l.tables[l.tbl]? = some t ∧ (t.kind? 3).isNone ∧ t.seqBit = false ∧ t.fmtb ≠ 7 ∧
    (s.core 0).frozen.contains l.ctx = false ∧ (s.core 0).lupinLoads ≤ 6 ∧ (s.core 0).lmq.length ≤ 30 ∧ l.stA = some staged0 ∧ l.stB = some staged0 ∧
    staged0.addr = t.addrAt l.idx l.ba (·.sa) ∧ staged0.v0 = t.descA.valid.getD 0 0 ∧ staged0.v1 = padExtent (t.kind? 0) l.idx (t.descA.valid.getD 1 0) ∧
    staged0.addr = t.addrAt l.idx l.bb (·.sb) ∧ staged0.v0 = t.descB.valid.getD 0 0 ∧ staged0.v1 = padExtent (t.kind? 1) l.idx (t.descB.valid.getD 1 0)) &&
  (match t.kind? 2 with
    | some q => decide (idxOf l.idx q < q.boundM1) && (holdTile (s.ctx 0 l.ctx) l (t.key l.tbl l.idx) false (idxOf l.idx q == 0)).isSome
    | none => false)
theorem witness_lupin : lupinOk 0 = true ∧ lupinOk 2 = true := by decide

/-! ### The vector slot -/

/-- vD = v1, vS1 = v2, vS2 = v3, vS3 = v4, element type `e`. -/
def fVec (e : BitVec 3) : VectorF :=
  { imm := false, vd := 1, vs1 := 2, vs2 := 3, vs3 := 4, ss := 0, et := e, pd := 5, imm32 := 0 }
/-- An operation issues with element types `es`. -/
def vecRun (s : State) (o : VectorOp) (es : List (BitVec 3)) : Bool := es.all (fun e => issuesB s 0 0 h0 (.vector o (fVec e)))
/-- Every integer type, and every FP type. -/
def intTypes : List (BitVec 3) := [3, 4, 5]
def fpTypes : List (BitVec 3) := [0, 1, 2]
theorem vec_of {s : State} {o : VectorOp} {es : List (BitVec 3)} (h : vecRun s o es = true) {e : BitVec 3} (he : e ∈ es) :
    Issues s 0 0 h0 (.vector o (fVec e)) := issues_of (List.all_eq_true.1 h e he)

theorem witness_int_lanes : (∀ r ∈ intLaneRows, ∀ e ∈ intTypes, Issues sRun 0 0 h0 (.vector r.2.1 (fVec e))) ∧
    (∀ r ∈ shiftLaneRows, ∀ e ∈ intTypes, Issues sRun 0 0 h0 (.vector r.2.1 (fVec e))) ∧
    ∀ e ∈ intTypes, Issues sRun 0 0 h0 (.vector .vfma (fVec e)) := by
  have h1 : intLaneRows.all (fun r => vecRun sRun r.2.1 intTypes) = true := by decide
  have h2 : shiftLaneRows.all (fun r => vecRun sRun r.2.1 intTypes) = true := by decide
  have h3 : vecRun sRun .vfma intTypes = true := by decide
  exact ⟨fun r hr _ he => vec_of (List.all_eq_true.1 h1 r hr) he, fun r hr _ he => vec_of (List.all_eq_true.1 h2 r hr) he,
    fun _ he => vec_of h3 he⟩
theorem witness_fp_lanes : (∀ r ∈ fpLaneRows, ∀ e ∈ fpTypes, Issues sRun 0 0 h0 (.vector r.2.1 (fVec e))) ∧
    ∀ e ∈ fpTypes, Issues sRun 0 0 h0 (.vector .vfma (fVec e)) := by
  have h1 : fpLaneRows.all (fun r => vecRun sRun r.2.1 fpTypes) = true := by decide
  have h3 : vecRun sRun .vfma fpTypes = true := by decide
  exact ⟨fun r hr _ he => vec_of (List.all_eq_true.1 h1 r hr) he, fun _ he => vec_of h3 he⟩
theorem witness_lane_compare : ∀ r ∈ laneCmpRows, ∀ e ∈ intTypes ++ fpTypes, Issues sRun 0 0 h0 (.vector r.2.1 (fVec e)) := by
  have h : laneCmpRows.all (fun r => vecRun sRun r.2.1 (intTypes ++ fpTypes)) = true := by decide
  exact fun r hr _ he => vec_of (List.all_eq_true.1 h r hr) he
theorem witness_lane_moves : ∀ o ∈ [VectorOp.vsel, .vperm, .vbcast, .rng, .vidx, .vredAdd, .vredMax, .vredMin],
    Issues sRun 0 0 h0 (.vector o (fVec 3)) := by
  have h : [VectorOp.vsel, .vperm, .vbcast, .rng, .vidx, .vredAdd, .vredMax, .vredMin].all (fun o => vecRun sRun o [3]) = true := by decide
  exact fun o ho => vec_of (List.all_eq_true.1 h o ho) (List.mem_singleton.2 rfl)
theorem witness_vcvt : Issues sRun 0 0 h0 (.vector .vcvt { fVec 0 with imm32 := 2 }) ∧ Issues sRun 0 0 h0 (.vector .vcvt { fVec 3 with imm32 := 5 }) ∧
    Issues sRun 0 0 h0 (.vector .vcvt { fVec 0 with imm32 := 5 }) ∧ Issues sRun 0 0 h0 (.vector .vcvt { fVec 3 with imm32 := 0 }) ∧
    Issues sRun 0 0 h0 (.vector .vcvt { fVec 4 with imm32 := 1 }) ∧ Issues sRun 0 0 h0 (.vector .vcvt { fVec 3 with imm32 := 3 }) :=
  ⟨issues_of (by decide), issues_of (by decide), issues_of (by decide), issues_of (by decide), issues_of (by decide), issues_of (by decide)⟩
theorem witness_fp_moves : ∀ o ∈ [VectorOp.vidx, .vredAdd, .vredMax, .vredMin], Issues sRun 0 0 h0 (.vector o (fVec 2)) := by
  have h : [VectorOp.vidx, .vredAdd, .vredMax, .vredMin].all (fun o => vecRun sRun o [2]) = true := by decide
  exact fun o ho => vec_of (List.all_eq_true.1 h o ho) (List.mem_singleton.2 rfl)
theorem witness_vred_none : Issues sRun 0 0 hNot (.vector .vredMax (fVec 3)) ∧ Issues sRun 0 0 hNot (.vector .vredMin (fVec 3)) ∧
    (List.range 256).filter (fun i => ((sRun.ctx 0 0).q hNot).getLsbD i) = [] := ⟨issues_of (by decide), issues_of (by decide), by decide +kernel⟩
/-- The greatest and the least lane of v2, all zeros, is 0. -/
theorem witness_vred : let vs := ((List.range 256).filter (fun i => ((sRun.ctx 0 0).q h0).getLsbD i)).map (fun i => etInt 3 ((sRun.ctx 0 0).getV 2 i))
    (0 : W64).toInt ∈ vs ∧ (∀ v ∈ vs, v ≤ (0 : W64).toInt) ∧ ∀ v ∈ vs, (0 : W64).toInt ≤ v := by decide +kernel
theorem witness_vector_memory : (((sRun.ctx 0 0).getA 0).toNat : Int) + (fVec 5).imm32.toInt = ((0 : Nat) : Int) ∧
    0 + 256 * (etBits 5 / 8) ≤ (sRun.ctx 0 0).spadSize ∧ Issues sRun 0 0 h0 (.vector .vld (fVec 5)) ∧ Issues sRun 0 0 h0 (.vector .vst (fVec 5)) :=
  ⟨by decide, by decide, issues_of (by decide), issues_of (by decide)⟩
theorem witness_vector_above : let f := { fVec 5 with imm32 := 4096 - 192 }
    ((sRun.ctx 0 0).spadSize : Int) < (((sRun.ctx 0 0).getA 0).toNat : Int) + f.imm32.toInt + 256 * (etBits 5 / 8 : Nat) ∧
    Issues sRun 0 0 h0 (.vector .vld f) ∧ Issues sRun 0 0 h0 (.vector .vst f) := ⟨by decide, issues_of (by decide), issues_of (by decide)⟩
theorem witness_vector_misaligned : let f := { fVec 5 with imm32 := 32 }
    ((((sRun.ctx 0 0).getA 0).toNat : Int) + f.imm32.toInt) % 64 ≠ 0 ∧ Issues sRun 0 0 h0 (.vector .vld f) ∧
    Issues sRun 0 0 h0 (.vector .vst f) := ⟨by decide, issues_of (by decide), issues_of (by decide)⟩

/-! ### Special functions and tables -/

/-- vD = v1, vS1 = v2, vS2 = v3, program 5, type FP32. -/
def fSpec : SpecialF := { vd := 1, vs1 := 2, vs2 := 3, prog := 5, et := 0, imm32 := 0 }
/-- Program 5 exists in bank 0 of core 0. -/
def sProg : State := { sRun with mem := [(recordAddr 0 0 5, 1)] }
theorem witness_sfu : Issues sProg 0 0 h0 (.special .sfu fSpec) ∧ Issues sProg 0 0 h0 (.special .sfuGate fSpec) ∧ sProg.sfuValid 0 5 = true :=
  ⟨issues_of (by decide +kernel), issues_of (by decide +kernel), by decide +kernel⟩
theorem witness_sfu_nan : etVal 0 0x7FC00000 = .nan := by decide
theorem witness_sfu_absent : Issues sRun 0 0 h0 (.special .sfu { fSpec with prog := 0 }) ∧
    Issues sRun 0 0 h0 (.special .sfuGate { fSpec with prog := 0 }) ∧ sRun.sfuValid 0 0 = false :=
  ⟨issues_of (by decide +kernel), issues_of (by decide +kernel), by decide +kernel⟩
/-- tbl.commit of table `t`. -/
def fTbl (t : W32) : SpecialF := { vd := 0, vs1 := 0, vs2 := 0, prog := 0, et := 0, imm32 := t }
/-- A commit of table `no`. -/
def commit0 (no : Nat) (ok : Bool) : Commit :=
  { table := no, passed := ok, ctx := none, by_ := thread0, pc := 0x1000, header := 0, seq := 0 }
/-- Core 0 with that commit. -/
def sCommit (no : Nat) (ok : Bool) : State :=
  { sRun with cores := [(0, { Core.reset with power := .run, commits := [commit0 no ok], pending := 1 <<< no })] }
theorem witness_commit : ∀ t ∈ [1, 0xFF, 0x8000, 0x80FF], Issues sRun 0 0 h0 (.special .tblCommit (fTbl (BitVec.ofNat 32 t))) ∧
    tidOk t = true ∧ (sRun.core 0).pending.getLsbD (tableNo t) = false := by
  have h : [1, 0xFF, 0x8000, 0x80FF].all (fun t => issuesB sRun 0 0 h0 (.special .tblCommit (fTbl (BitVec.ofNat 32 t))) &&
    decide (tidOk t = true ∧ (sRun.core 0).pending.getLsbD (tableNo t) = false)) = true := by decide +kernel
  intro t ht
  have h := List.all_eq_true.1 h t ht
  simp only [Bool.and_eq_true, decide_eq_true_eq] at h
  exact ⟨issues_of h.1, h.2⟩
theorem witness_commit_pending : Issues (sCommit 5 false) 0 0 h0 (.special .tblCommit (fTbl 5)) ∧
    ((sCommit 5 false).core 0).pending.getLsbD 5 = true := ⟨issues_of (by decide +kernel), by decide +kernel⟩
theorem witness_check_passes : ((sCommit 300 false).core 0).commits.find? (fun t => t.table = 300 ∧ !t.passed) = some (commit0 300 false) ∧
    (sCommit 300 false).commitOk 0 300 = true := by decide +kernel
theorem witness_check_fails : let s := { sCommit 5 false with mem := (List.range 8).map (fun i => (recordAddr 0 1 5 + i, (0 : Byte))) }
    (s.core 0).commits.find? (fun t => t.table = 5 ∧ !t.passed) = some (commit0 5 false) ∧ s.commitOk 0 5 = false := by decide +kernel
theorem witness_switch : ((sCommit 511 true).core 0).commits.find? (fun t => t.table = 511 ∧ t.passed) = some (commit0 511 true) ∧
    (sCommit 511 true).tableUsed 0 (commit0 511 true) = false := by decide +kernel

/-! ### The sync slot -/

/-- RD = s1, count 2 in IMM32, object `i`. -/
def fSync (i : BitVec 12) : SyncF :=
  { imm := true, rd := 1, rs := 0, idx := i, die := false, tagmask := 0x20, fmask := 7, imm32 := 2 }
/-- The fields of a fence or mwait. -/
def fWait : SyncF := { imm := false, rd := 0, rs := 0, idx := 0, die := false, tagmask := 0x20, fmask := 7, imm32 := 0 }
/-- Partition 0 with the whole of everything. -/
def part0 : Part :=
  { seqBase := 0, seqCount := 128, qpBase := 0, qpCount := 64, semBase := 0, semCount := 4096, claimBase := 0, claimCount := 1024, dq0 := 1000,
    dq1 := 1000, wq := 0, tq := 0, diag := true, rcore := 1, score := 0, rfox := 1, sfox := 0, rprim := 1, sprim := 0, renc := 1, rdec := 1,
    cls := false, varfault := false, share := 1, regs := [], vt := 0, acctCore := 0, acctFox := 0, acctPrim := 0, preempts := 0, maxNs := 0,
    revoke := 0, step := 0, badDoorbell := 0, semLost := 0, start := 0, offUs := 0, destroying := false, tables := [] }
/-- The core runs in that partition. -/
def sSync : State := { sRun with parts := [(0, part0)] }
/-- An operation of the sync slot issues. -/
def syncRun (s : State) (o : SyncOp) (f : SyncF) : Bool := issuesB s 0 0 h0 (.sync o f)
theorem witness_fence : Issues sRun 0 0 h0 (.sync .fence { fWait with tagmask := 0 }) ∧ Executes sRun 0 0 h0 := ⟨issues_of (by decide), by decide⟩
theorem witness_mwait : Issues sRun 0 0 h0 (.sync .mwait { fWait with fmask := 0 }) ∧
    ∀ t < 16, fWait.tagmask.getLsbD t = true → (sRun.ctx 0 0).tagCount t = 0 := ⟨issues_of (by decide), by decide⟩
theorem witness_mwait_waits : let s := sWith { kRun with tags := [(5, 1)] }
    Issues s 0 0 h0 (.sync .mwait { fWait with fmask := 0 }) ∧ fWait.tagmask.getLsbD 5 = true ∧ (s.ctx 0 0).tagCount 5 ≠ 0 :=
  ⟨issues_of (by decide), by decide, by decide⟩
theorem witness_fence_done : let s := sWith { kRun with wait := .fence 7 0 }
    (s.ctx 0 0).wait = .fence 7 0 ∧ (s.core 0).frozen.contains 0 = false := by decide
theorem witness_mwait_done : let s := sWith { kRun with wait := .tags 0x20 }
    (s.ctx 0 0).wait = .tags 0x20 ∧ ∀ t < 16, (0x20 : BitVec 16).getLsbD t = true → (s.ctx 0 0).tagCount t = 0 := by decide
theorem witness_mwait_goes_on : let s := sWith { kRun with wait := .tags 0x20, tags := [(5, 1)] }
    (s.ctx 0 0).wait = .tags 0x20 ∧ (s.ctx 0 0).tagCount 5 ≠ 0 := by decide
/-- The fields of each operation of the sync slot on object 9. -/
def syncCases : List (SyncOp × SyncF) :=
  [(.semSig, { fSync 9 with rd := 0, tagmask := 0, fmask := 0 }), (.semWait, { fSync 9 with rd := 0, tagmask := 0, fmask := 0 }),
   (.semTake, { fSync 9 with rd := 0, tagmask := 0, fmask := 0 }), (.semRd, { fSync 9 with imm := false, imm32 := 0, tagmask := 0, fmask := 0 }),
   (.claim, { fSync 9 with tagmask := 0, fmask := 0 }),
   (.fbar, { fSync 254 with imm := false, imm32 := 0, rd := 0, tagmask := 0, fmask := 0 })]
/-- Barrier 254 of die 0 is enabled. -/
def sBar : State := { sSync with bars := [(254, { Bar.reset with en := true, inEn := true, arrive := 1, inArrive := 1 })] }
theorem witness_sync : (∀ r ∈ syncCases, Issues sBar 0 0 hVar (.sync r.1 r.2)) ∧ Executes sBar 0 0 hVar ∧
    sBar.semIn (sBar.partOf 0 0) 9 = true ∧ sBar.claimIn (sBar.partOf 0 0) 9 = true ∧ (sBar.claim 0 9).reclaim = [] ∧
    (sBar.bar (sBar.partOf 0 0) 0 254).inEn = true := by
  have h : syncCases.all (fun r => issuesB sBar 0 0 hVar (.sync r.1 r.2)) = true := by decide
  exact ⟨fun r hr => issues_of (List.all_eq_true.1 h r hr), by decide⟩
theorem witness_sync_outside : sRun.semIn (sRun.partOf 0 0) 9 = false ∧
    Issues sRun 0 0 h0 (.sync .semSig { fSync 9 with rd := 0, tagmask := 0, fmask := 0 }) := ⟨by decide, issues_of (by decide)⟩

/-- A signal of 2 to semaphore 9 from context 0 of core 0. -/
def sig0 : Signal := { die := 0, idx := 9, n := 2, core := 0, ctx := 0, by_ := thread0, pc := 0x1000 }
/-- It is under way; the semaphore holds `v` and is held by `o`. -/
def sSig (v : W32) (o : Option Hold) : State := { sRun with signals := [sig0], sems := [(9, { Sem.reset with value := v, lock := true, hold := o })] }
/-- A hold of a context of core 0. -/
def holdOf (x : Nat) : Hold := { core := 0, ctx := x, n := 1, since := 0, us := 1, by_ := thread0 }
theorem witness_signal : ∀ o ∈ [none, some (holdOf 0), some (holdOf 1)], (sSig 0xFFFFFFFD o).signals[0]? = some sig0 ∧
    ((sSig 0xFFFFFFFD o).sem 0 9).value.toNat + 2 < 2 ^ 32 ∧ ((sSig 0xFFFFFFFD o).sem 0 9).hold = o := by decide
theorem witness_signal_overflows : (sSig 0xFFFFFFFE none).signals[0]? = some sig0 ∧ 2 ^ 32 ≤ ((sSig 0xFFFFFFFE none).sem 0 9).value.toNat + 2 := by decide
theorem witness_wait_over : let s := { sWith { kRun with wait := .semWait 0 9 2 } with sems := [(9, { Sem.reset with value := 2 })] }
    (s.ctx 0 0).wait = .semWait 0 9 2 ∧ 2 ≤ (s.sem 0 9).value.toNat ∧ (s.core 0).frozen.contains 0 = false := by decide
theorem witness_take : let s := { sWith { kRun with wait := .semTake 0 9 2 } with sems := [(9, { Sem.reset with value := 2, waiters := [(0, 0)] })] }
    (s.sem 0 9).waiters = (0, 0) :: [] ∧ (s.ctx 0 0).wait = .semTake 0 9 2 ∧ 2 ≤ (s.sem 0 9).value.toNat ∧ (s.sem 0 9).hold = none ∧
    (s.core 0).frozen.contains 0 = false := by decide
theorem witness_barrier_waits : bit (sBar.bar 0 0 254).inSpan 0 = false ∧ (sBar.bar 0 0 254).inEn = true ∧
    (sBar.bar 0 0 254).arrivals.length < max 1 (sBar.bar 0 0 254).inArrive := by decide
theorem witness_barrier_opens :
    let s := { sWith { kRun with wait := .barrier 0 0 254 } with bars := [(254, { Bar.reset with inEn := true, arrivals := [some (0, 0)] })] }
    (s.bar 0 0 254).arrivals = [some (0, 0)] ∧ (s.bar 0 0 254).inArrive ≤ 1 ∧ (s.ctx 0 0).wait = .barrier 0 0 254 ∧ (s.core 0).saved = none := by decide

/-! ### Issue and tile-threads -/

/-- A line of four empty bundles (R31), and a core whose cache holds the line at 0x1000. -/
def lineBytes : List Byte := (List.range 512).map (fun i => if i % 128 = 1 then 0x10 else 0)
def kLine : Core := Core.setIset { Core.reset with power := .run } 8 { ICacheSet.empty with w0 := some (8, lineBytes) }
/-- Contexts 0 and 1 of core 0 are `a` and `b`; the cache holds their line, and region 0 may be executed. -/
def sIssue (a b : Ctx) : State := { State.reset with ctxs := [(0, a), (1, b)], cores := [(0, kLine)], regions := [(0, region0)] }
theorem witness_bundle : let s := sIssue kRun kRun
    (if (s.core 0).lastYield then [1, 2, 3, 0] else (s.core 0).lastCtx :: [1, 2, 3, 0].filter (· ≠ (s.core 0).lastCtx)) = [] ++ 0 :: [1, 2, 3] ∧
    (match s.fetch 0 0 with | .bundle _ => true | _ => false) = true := by decide +kernel
theorem witness_bundle_in_turn : let s := sIssue { kRun with wait := .tags 1 } kRun
    (if (s.core 0).lastYield then [1, 2, 3, 0] else (s.core 0).lastCtx :: [1, 2, 3, 0].filter (· ≠ (s.core 0).lastCtx)) = [0] ++ 1 :: [2, 3] ∧
    s.fetch 0 0 = .busy ∧ (match s.fetch 0 1 with | .bundle _ => true | _ => false) = true := by decide +kernel
theorem witness_bundle_runs : let b := oneBundle h0 (.scalar .add fReg)
    b.illegal = none ∧ b.var = false ∧ (runSlots 0 0 sRun b.header b.ops (sRun.noteIssue 0 0 b.hint)).isOk = true := by decide
theorem witness_line_fill : let s := sWith { kRun with wait := .line 0x1000 }
    (s.ctx 0 0).wait = .line 0x1000 ∧ s.poisoned (512 * (0x1000 / 512)) 512 = false ∧ mappedSpan (512 * (0x1000 / 512)) 512 = true ∧
    ((s.core 0).iset (0x1000 / 512)).find (0x1000 / 512) = none ∧ s.regOpen (s.partOf 0 0) 0 = true := by decide +kernel

/-- A kernel of kind `n`. -/
def kernelOf (n : Nat) : Kernel :=
  { kind := n, kmode := false, usesVar := false, entry := 0, spadMin := 0, kfc := List.replicate 64 0, acfg := List.replicate 64 0,
    chains := List.replicate 1024 0 }
/-- A launch entry: core, unit or engine 0, `t` tile-threads in one context of one 64 KiB window. -/
def entryOf (dist : Bool) (t : Nat) : LaunchE :=
  { image := 1, kernel := 0, dist := dist, ctxs := 1, accTiles := 4, claimIdx := 3, claimDie := 0, claimChunk := 4, mask := 1, e0 := t, e1 := 1,
    e2 := 1, e3 := 1, arg := 0x2000, winu := 1, wbase := 0, liveu := 1, roomu := 0, roomt := 0, roomc := 0, faultAddr := 0, wait := [],
    sig := none, dreg := 0, reserved := false }
/-- A launch of a best-effort queue of partition 0. -/
def launchOf (n : Nat) (dist : Bool) : Launch :=
  { part := 0, qp := 0, tag := 5, at_ := 0, var := dist, lc := false, e := entryOf dist 8, k := kernelOf n, code := 0x1000, dregs := [7],
    order := 0, since := 0, started := true, engines := [0], begun := 0, ended := 0, exhausted := [], faulted := [], record := none, widenBy := [],
    emptyBy := [], engine := 0, step := none, killed := false, served := [], posns := [], skips := [], aRate := 0, aSeed := 0, audits := [],
    again := [], shares := [], pins := [] }
/-- Context 0 of core 0 is free for launch 0. -/
def kFree (next last : Nat) : Ctx := { kRun with tt := none, k := 7, chunkNext := next, chunkEnd := last }
def sThread (dist : Bool) (next last : Nat) : State :=
  { sWith (kFree next last) with parts := [(0, part0)], launches := [(0, launchOf 0 dist)], claims := [(3, { Claim.reset with value := 7 })] }
theorem witness_thread : ∀ dist : Bool, let s := sThread dist 0 0
    s.launch 0 = some (launchOf 0 dist) ∧ (s.ctx 0 0).launch = some 0 ∧ (s.ctx 0 0).tt = none ∧ (launchOf 0 dist).started = true ∧
    (launchOf 0 dist).killed = false ∧ (launchOf 0 dist).again = [] ∧ (launchOf 0 dist).exhausted.contains 0 = false ∧
    (s.core 0).frozen.contains 0 = false ∧ (s.core 0).stop = none ∧ (s.core 0).power = .run ∧
    s.engineOf (launchOf 0 dist).part .core 0 = true := by decide +kernel
theorem witness_thread_fixed : let l := launchOf 0 false
    ((sThread false 0 0).ctx 0 0).k * (maskList 128 l.e.mask).length + (maskList 128 l.e.mask).idxOf 0 < l.e.total := by decide
theorem witness_thread_claimed : ((sThread true 6 8).ctx 0 0).chunkNext < ((sThread true 6 8).ctx 0 0).chunkEnd := by decide
theorem witness_thread_claims : ((sThread true 8 8).ctx 0 0).chunkEnd ≤ ((sThread true 8 8).ctx 0 0).chunkNext ∧
    ((sThread true 8 8).claim 0 3).reclaim = [] ∧ ((sThread true 8 8).claim 0 3).value.toNat < (launchOf 0 true).e.total := by decide

/-! ### Queue pairs -/

/-- A queue pair of partition 0 with rings of 16 entries in region 0 and one entry waiting. -/
def qp0 : Qp :=
  { part := 0, sqAddr := 0x10000, cqAddr := 0x20000, sqLog := 4, cqLog := 4, cls := true, irqen := false, vec := 0, share := 1, sqTail := 1,
    fetch := 0, taken := 0, sqHead := 0, cqTail := 0, cqPhase := true, cqHead := 0, entries := [], due := [], acctCore := 0, acctFox := 0,
    acctPrim := 0, vt := 0, stopped := false, discard := false, destroy := none, adds := [], held := false }
/-- The first entry of the ring is `ws`. -/
def sRing (ws : List Nat) : State :=
  { State.reset with
    ready := true, parts := [(0, part0)], qps := [(0, qp0)], regions := [(0, region0)]
    mem := List.flatten ((List.range ws.length).map (fun i => put (0x10000 + 8 * i) 8 (ws.getD i 0)))
    images := [(1, { part := 0, code := 0x1000, kernels := [kernelOf 0], digest := [], signer := 0, signed := false })] }
/-- The entry that stands there. -/
def headOf (ws : List Nat) : Option (Qp × QpEntry × Bool) := (sRing ws).nextEntry 0
/-- A COPY of 64 bytes from 0x30000 to 0x30040, a FENCE without a wait, an ADD_SEQ, and a LAUNCH of kernel 0 of image 1. -/
def wCopy : List Nat := [2 + 2 ^ 32 * 9, 0x30000, 0x30040, 64]
def wFence : List Nat := [5 + 2 ^ 32 * 9, 0, 0]
def wLaunch : List Nat := [1 + 2 ^ 32 * 9, 1 + 2 ^ 32 * 4, 1, 0, 8 + 2 ^ 32, 1 + 2 ^ 32, 0x2000, 1 + 2 ^ 16]
theorem witness_entry_unlisted : (headOf [6]).map (fun r => (r.1, r.2.1.ty, r.2.2)) = some (qp0, 6, false) ∧ (sRing [6]).qp 0 = some qp0 := by decide +kernel
theorem witness_entry_copy : (headOf wCopy).any (fun r => r.2.1.ty == 2 && !r.2.2 && bits (r.2.1.w 3) 40 24 == 0 && !r.2.1.tailBad 4 &&
    !(sRing wCopy).varDenied 0 r.2.1 && (sRing wCopy).awOk 0 (r.2.1.words.getD 1 0) r.2.1.copyLen true false &&
    (sRing wCopy).awOk 0 (r.2.1.words.getD 2 0) r.2.1.copyLen false true) = true := by decide +kernel
theorem witness_entry_fence : (headOf wFence).any (fun r => r.2.1.ty == 5 && !r.2.2 && bits (r.2.1.w 1) 14 18 == 0 && bits (r.2.1.w 2) 14 18 == 0 &&
    !r.2.1.tailBad 3 && !(sRing wFence).varDenied 0 r.2.1) = true := by decide +kernel
theorem witness_entry_add : (headOf [3]).any (fun r => r.2.1.ty == 3) = true := by decide +kernel
theorem witness_entry_launch : (headOf wLaunch).any (fun r => r.2.1.ty == 1 &&
    ((sRing wLaunch).checkLaunch 0 r.2.1.var (parseLaunch r.2.1.w (r.2.2 || r.2.1.tailBad 12))).isOk) = true := by decide +kernel
theorem witness_entry_refused : (headOf [1]).any (fun r => r.2.1.ty == 1 &&
    !((sRing [1]).checkLaunch 0 r.2.1.var (parseLaunch r.2.1.w (r.2.2 || r.2.1.tailBad 12))).isOk) = true := by decide +kernel
theorem witness_doorbell : (sRing []).qpIn 0 0 = true ∧ (sRing []).qp 0 = some qp0 ∧ (sRing []).qpIn 0 64 = false ∧
    oget (sRing []).parts 0 = some part0 := by decide

/-- An entry in execution with words `ws`. -/
def entry0 (ty : Nat) (ws : List W64) : QpEntry :=
  { at_ := 0, ty := ty, var := false, order := false, irq := false, tag := 9, words := ws, started := true, key := 0, failed := false, engine := 0 }
/-- The queue pair executes that entry. -/
def sEntry (ty : Nat) (ws : List W64) : State :=
  { sRing [] with qps := [(0, { qp0 with entries := [entry0 ty ws] })], copies := if ty = 2 then [{ qp := 0, at_ := 0 }] else [] }
theorem witness_copy_done : let s := sEntry 2 [0, 0x30000, 0x30040, 64]
    s.copies.filter (fun c => c.qp = 0) = [{ qp := 0, at_ := 0 }] ∧ s.qp 0 = some { qp0 with entries := [entry0 2 [0, 0x30000, 0x30040, 64]] } ∧
    s.regOpen 0 0 = true ∧ awHost 0x30000 = false ∧ awHost 0x30040 = false ∧ awAddr 0x30000 + (entry0 2 [0, 0x30000, 0x30040, 64]).copyLen ≤ awAddr 0x30040 := by decide
theorem witness_fence_entry : let s := { sEntry 5 [0, 9 + 2 ^ 13 + 2 ^ 33, 10 + 2 ^ 13 + 2 ^ 32] with sems := [(9, { Sem.reset with value := 2 })] }
    (s.qp 0).isSome = true ∧ s.semIn 0 9 = true ∧ s.semIn 0 10 = true ∧ (9 + 2 ^ 13 + 2 ^ 33) >>> 32 ≤ (s.sem 0 9).value.toNat := by decide
/-- A completion due. -/
def due0 : QpDue :=
  { status := 0, kind := 0, rungUp := false, irq := false, tag := 9, ty := 2, id := 0, faults := 0, widen := 0, emptyRow := 0, engine := 0, count := 0 }
theorem witness_post : let x := { qp0 with due := [due0], cqTail := 15, cqHead := 1 }
    let s := { sRing [] with qps := [(0, x)] }
    s.qp 0 = some x ∧ x.due = due0 :: [] ∧ x.destroy = none ∧ awHost x.cqAddr = false ∧ (x.cqTail + 1) % 2 ^ x.cqLog ≠ x.cqHead := by decide

/-! ### Launches on engines -/

/-- Launch `l` of partition 0 waits for an engine, and the module is ready. -/
def sLaunch (l : Launch) : State :=
  { State.reset with ready := true, parts := [(0, part0)], regions := [(0, region0)], qps := [(0, qp0)], launches := [(6, l)] }
/-- A launch of kind `n` that no engine holds. -/
def waiting0 (n : Nat) : Launch := { launchOf n false with started := false, engines := [] }
theorem witness_choose : (sLaunch { waiting0 0 with lc := true }).choose .core 0 false = some (6, { waiting0 0 with lc := true }) ∧
    (sLaunch { waiting0 0 with lc := true }).ready4 .core 0 { waiting0 0 with lc := true } = true := by decide +kernel
theorem witness_dispatch_core : CoreVacant (sLaunch (waiting0 0)) 0 ∧ ((sLaunch (waiting0 0)).core 0).viaOff = false ∧
    (sLaunch (waiting0 0)).choose .core 0 false = some (6, waiting0 0) ∧ (waiting0 0).e.ctxs ≤ 4 :=
  ⟨⟨by decide, by decide, by decide, by decide⟩, by decide +kernel⟩
theorem witness_dispatch_fox : ((sLaunch (waiting0 1)).fox 0).launch = none ∧
    (sLaunch (waiting0 1)).choose .fox 0 false = some (6, waiting0 1) := by decide +kernel
theorem witness_dispatch_prim : ((sLaunch (waiting0 2)).prim 0).launch = none ∧
    (sLaunch (waiting0 2)).choose .prim 0 false = some (6, waiting0 2) := by decide +kernel
/-- A launch that has ended, with a fault record or without. -/
def ended0 (r : Option (Nat × List W64)) : Launch :=
  { launchOf 0 false with e := { entryOf false 1 with faultAddr := 0x3000, sig := r.map (fun _ => (0, 9)) }, ended := 1, engines := [], exhausted := [0], record := r }
/-- Its queue pair. -/
def sEnded (r : Option (Nat × List W64)) : State := { sLaunch (ended0 r) with launches := [(6, ended0 r)] }
theorem witness_launch_done : ∀ r ∈ [none, some (0, [1, 2, 3, 4, 5, 6, 7, 8])], (sEnded r).launch 6 = some (ended0 r) ∧
    (sEnded r).launchDone 6 (ended0 r) = true ∧ (ended0 r).step = none ∧ (sEnded r).bounds = [] ∧ (sEnded r).qp 0 = some qp0 := by decide +kernel
/-- A launch that holds core 0 and has not started. -/
def given0 (dist : Bool) : Launch := { launchOf 0 dist with started := false }
theorem witness_launch_start : ∀ dist : Bool, (sLaunch (given0 dist)).launch 6 = some (given0 dist) ∧ (given0 dist).started = false ∧
    (given0 dist).engines ≠ [] ∧ (sLaunch (given0 dist)).launchOpen (given0 dist) = true ∧ (sLaunch (given0 dist)).holdsLaunches 0 = false ∧
    (sLaunch (given0 dist)).rungHolds (given0 dist) = false ∧
    dregBad (given0 dist).e.winu ((sLaunch (given0 dist)).dregWords (given0 dist).e.dreg) = false := by decide +kernel

theorem witness_launch_refused :
    let l := { given0 false with e := { entryOf false 8 with dreg := 0x3000 } }
    let s : State := { sLaunch l with mem := put 0x3000 4 1, qps := [(0, { qp0 with entries := [{ entry0 1 [] with started := false }] })] }
    s.launch 6 = some l ∧ s.launchOpen l = true ∧ s.holdsLaunches 0 = false ∧ s.rungHolds l = false ∧ dregBad l.e.winu (s.dregWords l.e.dreg) = true ∧
    l.step = none ∧ (s.qp 0).isSome = true ∧ (entry0 1 []).at_ = l.at_ := by decide +kernel

/-- Partition 0 with core 0 as a shared core. -/
def partShared : Part := { part0 with rcore := 0, score := 1 }
/-- A latency-critical launch that wants core 0. -/
def lc0 : Launch := { waiting0 0 with lc := true }
/-- Core 0 works for a best-effort launch. -/
def sShared (k : Core) : State :=
  { sLaunch lc0 with
    parts := [(0, partShared)], launches := [(5, launchOf 0 false), (6, lc0)], ctxs := [(0, { kRun with launch := some 5, tt := some { launch := 5, index := 0 } })]
    cores := [(0, k)] }
theorem witness_preempt : let s := sShared { Core.reset with power := .run }
    s.launch 6 = some lc0 ∧ s.coreHolder 0 = some (5, launchOf 0 false) ∧ s.choose .core 0 true = some (6, lc0) ∧ (launchOf 0 false).lc = false ∧ s.engineShared 0 .core 0 = true ∧
    (s.core 0).stop = none ∧ (s.core 0).saved = none ∧ (s.core 0).frozen = [] ∧ s.holdsLock 0 = false ∧ fitsRoom lc0 (launchOf 0 false) = false := by decide +kernel
theorem witness_preempt_room :
    let b := { launchOf 0 false with e := { entryOf false 8 with roomu := 127, roomt := 4, roomc := 1 } }
    let l := { lc0 with e := { entryOf false 8 with wbase := 1 } }
    let s : State := { sShared { Core.reset with power := .run } with launches := [(5, b), (6, l)] }
    s.launch 6 = some l ∧ s.coreHolder 0 = some (5, b) ∧ s.choose .core 0 true = some (6, l) ∧ fitsRoom l b = true := by decide +kernel
theorem witness_save : let s := sShared { Core.reset with power := .run, stop := some 6, frozen := [0] }
    (s.core 0).stop = some 6 ∧ s.launch 6 = some lc0 ∧ s.coreHolder 0 = some (5, launchOf 0 false) ∧ (s.core 0).drain = none ∧
    (s.core 0).writing = [] ∧ (s.core 0).viaOff = false ∧ 0 < lc0.e.ctxs ∧ lc0.e.ctxs ≤ 4 ∧ (oget s.parts 0).isSome = true := by decide +kernel
/-- What was saved of one context. -/
def saved0 : Saved :=
  { ctxs := [(0, { kRun with launch := some 5 })], tiles := [], spad := [(0, [1, 2, 3])], lmq := [], smq := [], mq := [], drains := [], lrun := none,
    lmm := [], tail := [], size := 3 }
theorem witness_restore : let s := { sShared { Core.reset with power := .run, saved := some saved0 } with ctxs := [] }
    (∀ y < 4, (s.ctx 0 y).launch = none) ∧ (s.core 0).stop = none ∧ (s.core 0).power = .run ∧ (s.core 0).saved = some saved0 ∧ saved0.ctxs ≠ [] ∧
    (∀ w ∈ saved0.ctxs, w.2.launch = some 5) ∧ saved0.ctxs.Pairwise (fun a b => a.1 ≠ b.1) := by decide +kernel
theorem witness_revoke : ∀ time ∈ [0, 8000], let s := { sShared Core.reset with time := time, sems := [(9, { Sem.reset with lock := true, hold := some { holdOf 0 with by_ := { launch := 5, index := 0 } } })] }
    (s.sem 0 9).hold = some { holdOf 0 with by_ := { launch := 5, index := 0 } } ∧ s.launch 5 = some (launchOf 0 false) ∧
    (launchOf 0 false).step = none ∧ (s.sem 0 9).value.toNat + 1 < 2 ^ 32 ∧ (s.sem 0 9).lock = true ∧
    (if time = 0 then s.time < 0 + 8000 * 1 else 0 + 8000 * 1 ≤ s.time) := by decide +kernel

/-! ### Foxglove and Primrose -/

/-- A map whose header lies at 0x40000: streams 0 and 1 have V = 1, a directory of one entry at 0x41000, coordinates at 0x44000 and
summaries at 0x48000; page 0 of stream 1 lies in page 0 of pool 3. -/
def mapMem : List (Nat × Byte) :=
  List.flatten ([0, 1].map (fun st => put (0x40040 + 64 * st) 8 1 ++ put (0x40048 + 64 * st) 8 0x41000 ++ put (0x40050 + 64 * st) 8 0x44000 ++
    put (0x40058 + 64 * st) 8 0x48000)) ++
  put 0x41000 8 (0x42000 + 1) ++ put 0x42000 8 (1 + 2 ^ 8 * 3) ++ put 0x43000 8 (2 ^ 32)
/-- The map, the pool and the sequence that names the map. -/
def map0 (lock : Bool) : MapE := { part := 0, header := 0x40000, epoch := 4, pins := 1, lock := lock, queue := [] }
def pool0 : Pool := { part := 0, pgsz := false, rowBytes := 256, base := 0x80000, npages := 1, stateAddr := 0x43000 }
def seq0 : Seq := { Seq.free with state := 1, map := 0x40000, lens := [1, 16, 0, 0] }
/-- The words of an item: one query row of stream 0 against key block 0 of stream 1, one head; `w6`: its wait. -/
def itemWords (w6 : Nat) : List W64 := [0x40000, 1, 1, 0x50000, 0x60000, 0, BitVec.ofNat 64 w6, 0]
/-- An item of launch 6 in phase `ph`, at head `h` with `todo` blocks left. -/
def itemOf (ph h : Nat) (todo : List Nat) : FoxItem :=
  { launch := 6, idx := 0, words := itemWords 0, phase := ph, lockSince := 0, map := 2, lens := [1, 16, 0, 0], visit := [0], h := h, todo := todo, blk := 0, pages := [],
    rows := freshRows 64, outs := if h = 0 then [] else [(0x60000, [1, 2, 3, 4])], emptyRows := 0, since := 0, poison := false }
/-- Unit 0 works for launch 6 with that item. -/
def sFox (i : Option FoxItem) (lab : Tab LabSet) (lock : Bool) : State :=
  { sLaunch (launchOf 1 false) with
    foxes := [(0, { Fox.reset with launch := some 6, item := i, lab := lab, power := .run })], maps := [(2, map0 lock)], pools := [(3, pool0)]
    seqs := [(0, seq0)], mem := mapMem ++ put 0x50000 8 1 }
theorem witness_item_start : let s := { sFox none [] false with mem := put 0x2030 8 (2 ^ 13 + 9) }
    (s.fox 0).launch = some 6 ∧ s.launch 6 = some (launchOf 1 false) ∧ (s.fox 0).item = none ∧ (s.fox 0).power = .run ∧
    s.engineOf 0 .fox 0 = true ∧ s.regOpen 0 0 = true ∧ s.permits 0 0x2000 64 true false false = true ∧ bit (s.word 0x2000 6) 13 = true ∧ s.semIn 0 (bits (s.word 0x2000 6) 0 12) = true := by decide +kernel
theorem witness_pin_locked : ∀ ph ∈ [0, 1], let s := sFox (some (itemOf ph 0 [])) [] true
    (s.fox 0).item = some (itemOf ph 0 []) ∧ s.launch 6 = some (launchOf 1 false) ∧ bit ((itemOf ph 0 []).w 6) 13 = false ∧
    tget (fun _ => Seq.free) s.seqs (bits ((itemOf ph 0 []).w 0) 0 16) = seq0 ∧ s.mapAt 0 seq0.map = some (2, map0 true) ∧ seq0.state ≠ 0 ∧
    seq0.part = 0 ∧ s.regOpen 0 0 = true := by decide +kernel
theorem witness_pin : let s := sFox (some (itemOf 0 0 [])) [] false
    s.mapAt 0 seq0.map = some (2, map0 false) ∧ oget s.maps 2 = some (map0 false) ∧
    (match ((s.pin 2).updFox 0 (fun f => { f with pinWait := f.pinWait + 0 })).foxCheck { itemOf 0 0 [] with phase := 2, map := 2, lens := seq0.lens }
      (launchOf 1 false) (map0 false).header with
    | .ok (_ :: _, _) => true
    | _ => false) = true := by decide +kernel
theorem witness_lab_fill : let s := sFox (some (itemOf 2 0 [0])) [] false
    (s.fox 0).item = some (itemOf 2 0 [0]) ∧ s.launch 6 = some (launchOf 1 false) ∧
    (itemOf 2 0 [0]).nextPage (s.stream (s.mapHeader 2) 1).pgsz = some 0 ∧ s.regOpen 0 0 = true ∧
    (tget (fun _ => LabSet.empty) (s.fox 0).lab (labSet 0)).find 2 1 0 = none ∧
    (s.walk 0 2 (s.stream (s.mapHeader 2) 1) 1 0).isOk = true := by decide +kernel
/-- Page 0 of stream 1 of that map. -/
def lab0 : LabEntry := { map := 2, stream := 1, page := 0, addr := 0x80000, rowBytes := 256 }
theorem witness_lab_hit : let s := sFox (some (itemOf 2 0 [0])) [(0, LabSet.empty.place lab0)] false
    (itemOf 2 0 [0]).nextPage (s.stream (s.mapHeader 2) 1).pgsz = some 0 ∧
    ((tget (fun _ => LabSet.empty) (s.fox 0).lab (labSet 0)).find 2 1 0).map (·.2) = some lab0 := by decide +kernel
theorem witness_block :
    let i := { itemOf 2 0 [0] with blk := 1, pages := [(0, lab0)] }
    let s := sFox (some i) [(0, LabSet.empty.place lab0)] false
    let rk := s.stream (s.mapHeader i.map) i.kstream
    let c := parseAcfg (launchOf 1 false).k.acfg
    (s.fox 0).item = some i ∧ i.todo = 0 :: [] ∧ i.phase = 2 ∧ i.h < i.nh ∧ i.done < i.blk ∧ s.regOpen 0 0 = true ∧
    s.checkSpans 0 true false ((rk.coord, 8 * 16) :: (s.queryRows i (s.stream (s.mapHeader i.map) i.qstream)).map
      (fun e => (i.w 3 % 2 ^ 48 + e.1 * c.qstride + (i.h0 + i.h) * c.d * elemBytes c.qfmt, c.d * elemBytes c.qfmt))) = none ∧
    (∀ j < 16, coordBad (s.seenLe (rk.coord + 8 * j) 8) = false) := by decide +kernel
theorem witness_item_complete : let s := sFox (some (itemOf 2 1 [])) [] false
    (itemOf 2 1 []).nh ≤ (itemOf 2 1 []).h ∧ s.regOpen 0 0 = true ∧ s.checkSpans 0 false true ((itemOf 2 1 []).outs.map (fun o => (o.1, o.2.length))) = none ∧
    bit ((itemOf 2 1 []).w 7) 13 = false := by decide +kernel

/-- The words of a CSC job of one pixel pair, and of a malformed one. -/
def jobWords (op : Nat) : List W64 :=
  [BitVec.ofNat 64 (op + 2 ^ 12 + 2 ^ 15 + 2 ^ 18 + 2 * 2 ^ 32), 0x50000, 1 + 2 ^ 16 * 2 + 2 ^ 32 * 2, 64 + 2 ^ 32 * 64, 0x60000, 64 + 2 ^ 32 * 64, 0,
   1 + 2 ^ 16 * 2 + 2 ^ 32 * 2, 0, 0, 0, 2 ^ 13 + 9, 0, 0x61000, 0, 0]
/-- Engine 0 works for launch 6 with that job. -/
def sPrim (b : Option PrimJob) : State :=
  { sLaunch (launchOf 2 false) with prims := [(0, { Prim.reset with launch := some 6, job := b, power := .run })] }
def jobOf (op : Nat) : PrimJob := { launch := 6, idx := 0, words := jobWords op, since := 0 }
theorem witness_job_start : let s := sPrim none
    (s.prim 0).launch = some 6 ∧ s.launch 6 = some (launchOf 2 false) ∧ (s.prim 0).job = none ∧ (s.prim 0).power = .run ∧
    s.primTurn 0 (launchOf 2 false) = true ∧ s.engineOf 0 .prim 0 = true ∧ s.regOpen 0 0 = true ∧ s.permits 0 0x2000 128 true false false = true ∧ bit (s.word 0x2000 10) 13 = false := by decide +kernel
theorem witness_job_malformed : let s := sPrim (some (jobOf 0))
    (s.prim 0).job = some (jobOf 0) ∧ s.regOpen 0 0 = true ∧ (parseJob (jobWords 0)).wsem = none ∧ (parseJob (jobWords 0)).malformed = true := by decide +kernel
theorem witness_job_complete : let s := sPrim (some (jobOf 2))
    (parseJob (jobWords 2)).malformed = false ∧ (parseJob (jobWords 2)).ssem = some (0, 9) ∧ s.semIn 0 9 = true ∧
    s.checkSpans 0 true false (parseJob (jobWords 2)).reads = none ∧
    s.checkSpans 0 false true (parseJob (jobWords 2)).outSpans = none ∧ (s.sem 0 9).value.toNat < 2 ^ 32 - 1 := by decide +kernel
theorem witness_edit_batch : oget (sFox none [] true).maps 2 = some (map0 true) ∧ (map0 true).lock = true := by decide

/-! ### DRAM, the flash store and weight windows -/

/-- Row 7 of channel 3 has met eight corrected errors. -/
def sRow : State := State.reset.setChan 0 3 { State.reset.chan 0 3 with log := List.replicate 8 (7, 0) }
theorem witness_row_spare : 8 ≤ ((sRow.chan 0 3).log.filter (fun e => e.1 = 7 ∧ sRow.time ≤ e.2 + day)).length ∧
    (sRow.chan 0 3).spared.length < 1024 := by decide +kernel
/-- The channel has no spare row left. -/
def sNoSpare : State := sRow.setChan 0 3 { sRow.chan 0 3 with spared := List.replicate 1024 9 }
theorem witness_row_no_spare : 8 ≤ ((sNoSpare.chan 0 3).log.filter (fun e => e.1 = 7 ∧ sNoSpare.time ≤ e.2 + day)).length ∧
    1024 ≤ (sNoSpare.chan 0 3).spared.length := by decide +kernel
theorem witness_refresh : State.reset.mode ≠ .off ∧ ({ State.reset with mode := .off } : State).mode = .off := by decide
/-- Region 0 of partition 0 goes, or loses its write permission. -/
def drain1 (keep : Option (Bool × Bool × Bool)) : RegionDrain := { part := 0, idx := 0, keep := keep, m := 0, tag := 5, marks := List.replicate 128 0 }
def sRegionDrain (keep : Option (Bool × Bool × Bool)) : State := { State.reset with regions := [(0, region0)], drains := [drain1 keep] }
theorem witness_drain : ∀ k ∈ [none, some (true, false, true)], let s := sRegionDrain k
    s.drains.find? (fun d => d.part = 0 ∧ d.idx = 0) = some (drain1 k) ∧ s.region 0 0 = some region0 ∧ s.regionBusy 0 (drain1 k).marks region0 = false := by
  decide +kernel
/-- Stripe block 0 holds three rows of tensor object 1; block 0 is `b`, and an operation reads it at `rung`. -/
def flash0 (b : FlashBlk) (rung : Nat) : Flash :=
  { Flash.factory with
    strs := [(0, { rows := 5, out := [], live := [(.tobj 1, 3)] })], blks := [(0, b)], reads := [{ for_ := .cmd 0 5, rung := rung, blk := 0, own := none }] }
def sFlash (b : FlashBlk) (rung : Nat) : State :=
  { State.reset with flash := flash0 b rung
                     tobjs := [(1, { part := 0, sizeg := 1, state := .flash, region := 0, image := [], damaged := false, evict := false, copying := [], lost := [] })] }
/-- Whether a block is a factory bad block is the module's own (Config.factoryBad): there is one that is not. -/
theorem witness_good_block : ∃ b, (sFlash FlashBlk.reset 0).flash.isBad b = false ∧ (sFlash { FlashBlk.reset with bad := true } 0).flash.isBad 0 = true := by
  have h : ∀ l : List Nat, ∃ n, ∀ m ∈ l, m < n := by
    intro l
    induction l with
    | nil => exact ⟨0, by simp⟩
    | cons a l ih =>
      obtain ⟨n, hn⟩ := ih
      refine ⟨n + a + 1, fun m hm => ?_⟩
      rcases List.mem_cons.1 hm with rfl | hm
      · omega
      · have := hn m hm; omega
  obtain ⟨n, hn⟩ := h Config.factoryBad
  refine ⟨n + 1, ?_, by simp [Flash.isBad, sFlash, flash0, Flash.blk, tget]⟩
  have hn' : n + 1 ∉ Config.factoryBad := fun hm => absurd (hn _ hm) (by omega)
  simp [Flash.isBad, hn', sFlash, flash0, Flash.blk, tget, FlashBlk.reset]
/-- A plane of die 0 in a store without factory bad blocks: its logical blocks lie in its first physical ones. -/
theorem phys_plane0 (hb : Config.factoryBad = []) (f : Flash) (hm : f.map = []) {q : Nat} (hq : q < planeLogs) : f.phys 0 q = some q := by
  have hp : planeLogs < planeBlks := by unfold planeLogs planeBlks; cases Config.is16TC <;> decide
  simp only [Flash.phys, hm, oget, planeOf, hb, Nat.zero_mul, Nat.zero_add, Nat.div_eq_of_lt hq, Nat.mod_eq_of_lt hq]
  simp [Nat.lt_trans hq hp]
/-- In a store without factory bad blocks, block 0 holds logical block 0, lies in that stripe block, and its plane has a spare. -/
theorem witness_flash_block (hb : Config.factoryBad = []) : let f := (sFlash { FlashBlk.reset with reads := 1000000 } 0).flash
    f.logical 0 = some 0 ∧ (∀ dst, (f.spareAt (dieOfBlk 0) 0 dst).isSome = true) ∧ (f.spareFor (dieOfBlk 0) 0).isSome = true ∧ f.stripeOf 0 = some (0, { rows := 5, out := [], live := [(.tobj 1, 3)] }) ∧
    1000000 ≤ (f.blk 0).reads ∧ f.holdsData 0 = true ∧ f.isBad 0 = false := by
  intro f
  have hl : 0 < planeLogs := by unfold planeLogs; cases Config.is16TC <;> decide
  have hp : planeLogs < planeBlks := by unfold planeLogs planeBlks; cases Config.is16TC <;> decide
  have hd : dieOfBlk 0 = 0 := Nat.zero_div _
  have h0 : f.phys 0 0 = some 0 := phys_plane0 hb f rfl hl
  have hlog : f.logical 0 = some 0 := by
    have : List.range dieLogs = 0 :: (List.range (dieLogs - 1)).map (· + 1) := by
      rw [show dieLogs = dieLogs - 1 + 1 by unfold dieLogs; omega, List.range_succ_eq_map]; rfl
    simp [Flash.logical, this, hd, h0]
  have hs : f.stripeOf 0 = some (0, { rows := 5, out := [], live := [(.tobj 1, 3)] }) := by
    simp only [Flash.stripeOf, hlog, hd, Option.bind_some]
    simp [dieGroup, f, sFlash, flash0, oget]
  have hsp : (f.spareFor (dieOfBlk 0) 0).isSome = true → ∀ dst, (f.spareAt (dieOfBlk 0) 0 dst).isSome = true := by
    intro h dst
    unfold Flash.spareAt
    split
    · rfl
    · exact h
  refine (fun h : (f.spareFor (dieOfBlk 0) 0).isSome = true => ⟨hlog, hsp h, h, hs, by decide, by simp [Flash.holdsData, hs], by simp [Flash.isBad, hb, f, sFlash, flash0, Flash.blk, tget, FlashBlk.reset]⟩) ?_
  rw [hd]
  refine List.find?_isSome.2 ⟨planeLogs, ?_, ?_⟩
  · simp only [planeOf, List.mem_map, List.mem_range]; exact ⟨planeLogs, hp, by simp⟩
  · have hu : planeLogs ∉ (List.range planeLogs).filterMap (fun i => f.phys 0 (0 / planeLogs * planeLogs + i)) := by
      intro h
      obtain ⟨i, hi, h⟩ := List.mem_filterMap.1 h
      rw [Nat.zero_div, Nat.zero_mul, Nat.zero_add, phys_plane0 hb f rfl (List.mem_range.1 hi)] at h
      have := List.mem_range.1 hi
      cases h; omega
    have hg : f.isBad planeLogs = false := by
      have : planeLogs ≠ 0 := by omega
      simp [Flash.isBad, hb, f, sFlash, flash0, Flash.blk, tget, FlashBlk.reset, this]
    simp only [hg, Bool.not_false, Bool.true_and, Bool.not_eq_true']
    simpa using hu
/-- Die 511 has failed. -/
def sDie : State := { State.reset with flash := { Flash.factory with failed := [511] } }
theorem witness_flash_die : 510 ∉ sDie.flash.failed ∧ 511 ∈ sDie.flash.failed ∧ 510 < 512 := by decide
theorem witness_decode : ∀ n ∈ [0, 1, 16, 17], (sFlash FlashBlk.reset n).flash.reads[0]? = some { for_ := .cmd 0 5, rung := n, blk := 0, own := none } ∧
    ∀ b, FlashFor.cmd 0 5 ≠ .scrub b := by
  intro n hn
  refine ⟨?_, fun b => by simp⟩
  revert hn; revert n; decide
theorem witness_channel_down : State.reset.flash.reads = [] ∧ 63 ∉ State.reset.flash.down := by decide
theorem witness_governor : State.reset.mode ≠ .off ∧ State.reset.flash.wear = 0 ∧ State.reset.flash.k = 0 := by decide

/-- A layer image of 16 bytes with one relocated word, and a package of one layer that holds it at 4096, at the base rung. -/
def layer0 : List Byte := [1, 0, 0, 0, 8, 0, 0, 0, 9, 0, 0, 0, 0, 0, 0, 0]
def packBytes : List (Nat × Byte) :=
  put 0x10 8 1 ++ put 0x18 8 512 ++ put 512 8 (6 + 32) ++ put 536 8 4096 ++ put 544 8 (16 + 2 ^ 32 * crc32c layer0) ++
  putBytes [] 4096 layer0
def pack0 : Wpkg :=
  { part := 0, total := 8192, ready := true, image := packBytes, grants := [], signed := false, signer := 0, digest := [], damaged := false }
def wwin0 : Wwin :=
  { part := 0, pkg := 1, nslot := 2, home0 := 0x400000, home1 := 0, slotg := 1, rdy := 16, free := 24, nlayer := 1, rsem := 30, list := 0x3000,
    side0 := 0x800000, side1 := 0, sideg := 1, run := true, n := 1, n0 := 0, reading := none, met := false, j := 0, rung := [], rungBusy := false,
    stop := none, stall := 0, late := 0, rlate := 0 }
/-- Window 3; its layer list names layer 0 at the base rung. -/
def sWin (v : Wwin) (rung : Nat) : State :=
  { State.reset with
    wwins := [(3, v)], wpkgs := [(1, pack0)], parts := [(0, part0)], regions := [(0, region0)], mem := put 0x3000 4 (2 ^ 20 * 6)
    flash := { Flash.factory with reads := [{ for_ := .window 3, rung := rung, blk := 0, own := none }] }
    twin := some { pair := 1, roleB := false, peer := 7, pmask := 1, waitMs := 10, lost := false, beat := 0 } }
theorem witness_position_read : let s := { sWin wwin0 0 with flash := { Flash.factory with reads := [] } }
    s.wwin 3 = some wwin0 ∧ wwin0.run = true ∧ wwin0.reading = none ∧ wwin0.stop = none ∧ s.regOpen wwin0.part 1 = true ∧ s.regOpen wwin0.part 0 = true ∧
    (∀ d ∈ wwin0.dies, wwin0.n / wwin0.nslot ≤ (s.sem d (wwin0.free + wwin0.n % wwin0.nslot)).value.toNat) := by decide +kernel
theorem witness_layer_ready : let v := { wwin0 with reading := some 1 }
    (sWin v 0).wwin 3 = some v ∧ (sWin v 0).flash.steady (.window 3) = true ∧
    (sWin v 0).layerImage v ((sWin v 0).listEntry v 1).1 ((sWin v 0).listEntry v 1).2 = (layer0, true) := by decide +kernel
theorem witness_rung_ready : let v := { wwin0 with rung := [(0, 6)] }
    (sWin v 0).wwin 3 = some v ∧ (sWin v 0).flash.steady (.window 3) = true ∧ (sWin v 0).regOpen v.part 1 = true ∧
    (sWin v 0).layerImage v 0 6 = (layer0, true) := by decide +kernel
theorem witness_refetch : let v := { wwin0 with reading := some 1 }
    (sWin v 18).paired = true ∧ (sWin v 18).flash.reads.any (fun r => r.for_ = .window 3 && r.rung == 18) = true ∧
    oget (sWin v 18).wpkgs v.pkg = some pack0 ∧ pack0.rungImage ((sWin v 18).lostImage v).1 ((sWin v 18).lostImage v).2 = some (4096, 16, crc32c layer0) ∧
    layer0.length = 16 := by decide +kernel

/-! ### Mailboxes -/

/-- A mailbox in use: session at the newest versions with every feature; rings at 0x100000 and 0x80000 of DRAM. -/
def mbx0 : Mbx :=
  { Mbx.reset with
    en := true, cmdBase := 0x100000, cmpBase := 0x80000
    session := some { mbxVer := 0x0102, imgVer := 0x0101, pkgVer := 0x0100, snapVer := 0x0101, feats := 0x3F } }
/-- A command entry at ring index 0 with tag 5. -/
def hdr0 : CmdHdr := { slot := 0, wait := false, irq := false, tag := 5 }
/-- Partition 0 with that mailbox and a region of everything on both dies. -/
def sMbx : State :=
  { State.reset with
    ready := true, mbxs := [(0, mbx0)], parts := [(0, part0)], regions := [(0, { region0 with lastg := 262143 })]
    owned := [{ part := 0, baseg := 0, lastg := 99, save := false }] }

/-- `Takes` as a check. -/
def takesB (s : State) (m : Nat) (h : CmdHdr) (code : Nat) (ps : List W64) : Bool :=
  s.canAccept m && s.journal.all (fun c => c.m ≠ m) && !s.tagUsed m h.tag.toNat && decide (h.tag.toNat ≠ 0xFFFFFFFF) &&
  (match cmdRow code with
    | some r => ps.length == r.params && (!r.admin || m == 0)
    | none => false) &&
  ((s.mbx m).session.isSome || code == 1) && !h.wait &&
  (match cmdFeature code with
    | some n => (s.mbx m).feat n
    | none => true) && !s.busyWith (s.newCmd m h code ps) && (code != 0x0602 || s.regOpen m 1)

theorem takes_of {s : State} {m : Nat} {h : CmdHdr} {code : Nat} {ps : List W64} (e : takesB s m h code ps = true) : Takes s m h code ps := by
  simp only [takesB, Bool.and_eq_true, List.all_eq_true, Bool.not_eq_true', decide_eq_true_eq, Bool.or_eq_true, beq_iff_eq, bne_iff_ne] at e
  obtain ⟨⟨⟨⟨⟨⟨⟨⟨⟨a, b⟩, c⟩, d⟩, r⟩, f⟩, g⟩, i⟩, j⟩, k⟩ := e
  refine ⟨a, b, c, d, ?_, f, g, ?_, j, fun hc => k.resolve_left (fun n => n hc)⟩
  · cases hr : cmdRow code with
    | none => simp [hr] at r
    | some w =>
      simp only [hr, Bool.and_eq_true, beq_iff_eq, Bool.or_eq_true, Bool.not_eq_true'] at r
      exact ⟨w, rfl, r.1, fun hw => by rcases r.2 with q | q; (· rw [hw] at q; cases q); exact q⟩
  · intro n hn
    simpa [hn] using i

theorem witness_answered : Takes sMbx 0 hdr0 0x0006 [] ∧ (sMbx.begun 0 hdr0 0x0006 []).journal = (sMbx.begun 0 hdr0 0x0006 []).journal :=
  ⟨takes_of (by decide +kernel), rfl⟩
theorem witness_no_session : let s := { sMbx with mbxs := [(0, { mbx0 with session := none })] }
    s.canAccept 0 = true ∧ s.tagUsed 0 5 = false ∧ (s.mbx 0).session = none ∧ (∀ c ∈ s.journal, c.m ≠ 0) := by decide +kernel
theorem witness_enable : let s := { sMbx with mbxs := [(0, { mbx0 with en := false })] }
    (3#64).getLsbD 0 = true ∧ (s.mbx 0).en = false ∧ s.awOk 0 (s.mbx 0).cmdBase 524288 true false = true ∧
    s.awOk 0 (s.mbx 0).cmpBase 131072 false true = true := by decide +kernel
/-- A command of mailbox 0 in the journal. -/
def cmd0 (code : Nat) (ps : List W64) (started : Bool) : Cmd :=
  { m := 0, slot := 0, code := code, wait := false, irq := false, tag := 6, ps := ps, sess := mbx0.session, started := started, bg := started,
    committed := true, late := false, replayed := false, discard := false, watch := [], r0 := 0, r1 := 0, data := [] }
def sJournal (c : Cmd) : State := { sMbx with journal := [c] }
theorem witness_disable : (2#64).getLsbD 0 = false ∧ ((sJournal (cmd0 6 [] true)).mbx 0).en = true ∧
    (sJournal (cmd0 6 [] true)).outstanding 0 ≠ 0 := by decide +kernel
theorem witness_turn_empty : sMbx.nextTurn = some 0 ∧ (sMbx.mbx 0).cmdHead = (sMbx.mbx 0).cmdTail := by decide +kernel
/-- A NOP with tag 9 waits in the ring. -/
def sRing1 : State :=
  { sMbx with mbxs := [(0, { mbx0 with cmdTail := 1 })], mem := put 0x100000 8 (6 + 2 ^ 32 * 9) }
theorem witness_turn : let b := sRing1.mbx 0
    let e := parseEntry b.cmdHead (sRing1.awBytes 0 (b.cmdBase + BitVec.ofNat 64 (128 * b.cmdHead)) 128)
    sRing1.nextTurn = some 0 ∧ b.stopped = false ∧ awHost b.cmdBase = false ∧ b.cmdTail = (b.cmdHead + 1) % 4096 ∧ sRing1.canAccept 0 = true ∧
    e.refusal b.session (sRing1.tagUsed 0 e.tag) = none ∧ e.code ≠ 4 := by decide +kernel
theorem witness_mbx_post : let e := cmdEntry none hdr0 6 0 0 0
    let s := { sMbx with mbxs := [(0, { mbx0 with due := [e] })] }
    (s.mbx 0).due = [e] ∧ s.ready = true ∧ s.cpRst = false ∧ (s.mbx 0).room ≠ 0 ∧ (s.mbx 0).disable = false ∧ (s.mbx 0).irqen = false := by decide +kernel
theorem witness_cp_restart : ({ sMbx with cpRst := true } : State).cpRst = true := rfl
/-- A TOBJ_LOAD that runs in the background. -/
def sBg : State := sJournal (cmd0 0x0603 [1, 1, 0, 3] true)
theorem witness_bg_finish : sBg.cmd 0 6 = some (cmd0 0x0603 [1, 1, 0, 3] true) ∧ sBg.ready = true ∧ sBg.flash.steady (.cmd 0 6) = true ∧
    (cmd0 0x0603 [1, 1, 0, 3] true).committed = true ∧ lateCommit (cmd0 0x0603 [1, 1, 0, 3] true) = true ∧
    lateCommit (cmd0 0x0200 [1, 1, 0] true) = false ∧ (cmd0 0x0200 [1, 1, 0] true).hostBound = false := by decide +kernel

theorem witness_session : Takes sMbx 0 hdr0 0x0006 [] ∧ Takes sMbx 0 hdr0 0x0003 [] ∧ Takes sMbx 0 hdr0 0x0002 [] ∧ Takes sMbx 0 hdr0 0x0005 [0x40] ∧
    (sMbx.mbx 0).session.isSome = true ∧ sMbx.blockRefusal 0 0x40 64 false true = none :=
  ⟨takes_of (by decide +kernel), takes_of (by decide +kernel), takes_of (by decide +kernel), takes_of (by decide +kernel), by decide +kernel⟩
/-- Version ranges from 1.0 to 1.9. -/
def rg : W64 := 0x0109_0100
theorem witness_open : Takes sMbx 0 hdr0 0x0001 [0x40, rg, rg, rg, rg, 0xFF] ∧ badRange rg.toNat = false ∧
    chooseVersion [0x0100, 0x0101, 0x0102] rg.toNat = some 0x0102 ∧ chooseVersion [0x0100, 0x0101] rg.toNat = some 0x0101 ∧
    chooseVersion [0x0100] rg.toNat = some 0x0100 := ⟨takes_of (by decide +kernel), by decide +kernel⟩
theorem witness_abort : let s := sJournal (cmd0 6 [] false)
    s.canAccept 0 = true ∧ s.tagUsed 0 5 = false ∧ s.journal = [cmd0 6 [] false] ∧ (s.mbx 0).session.isSome = true ∧ (6#64).toNat < 2 ^ 32 := by decide +kernel

/-- Region 1 of partition 0 is free, granules 4 and 5 too. -/
def sRegs : State := { sMbx with regions := [(0, region0)], owned := [] }
theorem witness_region_create : Takes sRegs 0 hdr0 0x0100 [1, 4, 5, 3] ∧ inOneDie 4 5 = true ∧ sRegs.ownedBy 0 = [] ∧
    sRegs.regionRefusal 0 1 4 5 false 0 = none := ⟨takes_of (by decide +kernel), by decide +kernel⟩
theorem witness_region_share : let s := { sRegs with grants := [{ baseg := 4, lastg := 5, owner := 2, grantee := 0 }], owned := [{ part := 2, baseg := 4, lastg := 5, save := false }] }
    Takes s 0 hdr0 0x0100 [1, 4, 5, 11] ∧ s.regionRefusal 0 1 4 5 true 0 = none := ⟨takes_of (by decide +kernel), by decide +kernel⟩
theorem witness_region_change : Takes sRegs 0 hdr0 0x0101 [0] ∧ Takes sRegs 0 hdr0 0x0102 [0, 7] ∧ Takes sRegs 0 hdr0 0x0103 [0] ∧
    sRegs.region 0 0 = some region0 ∧ region0.tobj = false ∧ region0.map = false ∧ sRegs.homeHeld region0 = false :=
  ⟨takes_of (by decide +kernel), takes_of (by decide +kernel), takes_of (by decide +kernel), by decide +kernel⟩
theorem witness_grant : let s := { sMbx with parts := [(0, part0), (2, part0)] }
    Takes s 0 hdr0 0x0104 [4, 5, 2, 1] ∧ (oget s.parts 2).isSome = true ∧ covers (s.ownedBy 0) 4 5 = true :=
  ⟨takes_of (by decide +kernel), by decide +kernel⟩

/-! ### Images, tables and partitions -/

/-- An image of one kernel whose code is one bundle, without its digest (R276, R277). -/
def imageHead : List Byte := wordsLe ([0x4D495A59 + 2 ^ 32, 16384, 1, 4096, 8192, 128, 0].map (BitVec.ofNat 64))
theorem witness_image_load : Takes sMbx 0 hdr0 0x0200 [0x200000, 16384, 0] ∧ sMbx.awBlock 0 0x200000 16384 true false = true :=
  ⟨takes_of (by decide +kernel), by decide +kernel⟩
def image0 : Image := { part := 0, code := 0x40000, kernels := [kernelOf 0], digest := [], signer := 0, signed := false }
def sImage : State := { sMbx with images := [(7, image0)] }
theorem witness_image : Takes sImage 0 hdr0 0x0201 [7] ∧ Takes sImage 0 hdr0 0x0202 [7, 0x40] ∧ oget sImage.images 7 = some image0 ∧
    sImage.blockRefusal 0 0x40 64 false true = none := ⟨takes_of (by decide +kernel), takes_of (by decide +kernel), by decide +kernel⟩
/-- Cores 1 and 2 hold the tables of partition 0 in their windows, or no core does. -/
def sTables (on : Bool) : State :=
  { sMbx with cores := if on then [(1, { Core.reset with part := some 0 }), (2, { Core.reset with part := some 0 })] else [] }
theorem witness_table_load : ∀ on : Bool, Takes (sTables on) 0 hdr0 0x0203 [0x8003, 0x40] ∧ tidOk 0x8003 = true ∧
    (sTables on).blockRefusal 0 0x40 4 true false = none ∧ (sTables on).awOk 0 0x40 4 true false = true ∧ tableOk 0x8003 ((sTables on).awBytes 0 0x40 4) = true ∧
    ((sTables on).tableCores 0 = [] ↔ on = false) := by
  intro on
  cases on
  · exact ⟨takes_of (by decide +kernel), by decide +kernel⟩
  · exact ⟨takes_of (by decide +kernel), by decide +kernel⟩

/-- The parameter block of a partition with its own ranges after those of partition 0. -/
def partPb : List (Nat × Byte) :=
  put 0x140 8 (1000 + 2 ^ 16 * 10) ++ put 0x148 8 (100 + 2 ^ 18 * 4) ++ put 0x158 8 1
/-- Partition 2 in the state, with a granule of its own. -/
def part2 : Part := { part0 with seqBase := 1000, seqCount := 10, qpBase := 100, qpCount := 4, semCount := 0, claimCount := 0, rcore := 0, rfox := 0, rprim := 0, renc := 0, rdec := 0 }
def sParts (m : List (Nat × Byte)) : State :=
  { sMbx with
    parts := [(0, part0), (2, part2)], mem := m ++ put (100 * granule) 8 1
    owned := [{ part := 0, baseg := 0, lastg := 99, save := false }, { part := 2, baseg := 100, lastg := 100, save := false }] }
theorem witness_part_create : let s := { sMbx with mem := partPb }
    Takes s 0 hdr0 0x0300 [2, 0x140] ∧ s.blockRefusal 0 0x140 64 true false = none ∧ (parsePart (s.awBytes 0 0x140 64)).2 = false ∧
    oget s.parts 2 = none ∧ s.partClash (parsePart (s.awBytes 0 0x140 64)).1 = false :=
  ⟨takes_of (by decide +kernel), by decide +kernel⟩
/-- Core 5 reserved, core 6 shared. -/
def assignPb : List (Nat × Byte) := put 0x140 8 32 ++ put 0x150 8 64
theorem witness_part_assign : let s := sParts assignPb
    Takes s 0 hdr0 0x0302 [2, 0x140] ∧ s.blockRefusal 0 0x140 64 true false = none ∧ (parseAssign (s.awBytes 0 0x140 64)).2 = false ∧
    oget s.parts 2 = some part2 ∧ s.assignClash 2 (parseAssign (s.awBytes 0 0x140 64)).1 = false ∧
    (State.takeSaves 2 (maskList 128 64) { s.begun 0 hdr0 0x0302 [2, 0x140] with
      owned := s.owned.filter (fun o => !(o.part == 2 && o.save)) }).isSome = true :=
  ⟨takes_of (by decide +kernel), by decide +kernel⟩
theorem witness_part_config : let s := sParts (put 0x140 8 (1 + 2 ^ 16 * 3))
    Takes s 0 hdr0 0x0303 [2, 0x140] ∧ s.blockRefusal 0 0x140 64 true false = none ∧ oget s.parts 2 = some part2 ∧
    ((s.awBytes 0 0x140 64).drop 0x28).any (· ≠ 0) = false := ⟨takes_of (by decide +kernel), by decide +kernel⟩
theorem witness_part_destroy : Takes (sParts []) 0 hdr0 0x0301 [2] ∧ oget (sParts []).parts 2 = some part2 ∧ part2.destroying = false ∧
    (sParts []).qps = [] ∧ (sParts []).launches = [] := ⟨takes_of (by decide +kernel), by decide +kernel⟩

/-! ### Queue pairs, sequences, pools and page maps -/

/-- The parameter block of a queue pair with rings of 64 entries at 0x10000 and 0x20000. -/
def qpPb : List (Nat × Byte) := put 0x140 8 0x10000 ++ put 0x148 8 0x20000 ++ put 0x150 8 (6 + 16 * 6 + 2 ^ 32)
theorem witness_qp_create : let s := { sRegs with mem := qpPb }
    Takes s 0 hdr0 0x0304 [3, 0x140] ∧ s.blockRefusal 0 0x140 64 true false = none ∧ s.qpIn 0 3 = true ∧ s.qp 3 = none ∧
    s.awOk 0 0x10000 8192 true false = true ∧ s.awOk 0 0x20000 4096 false true = true ∧ awAddr 0x10000 % 8192 = 0 ∧ awAddr 0x20000 % 4096 = 0 :=
  ⟨takes_of (by decide +kernel), by decide +kernel⟩
/-- Queue pair 3 of partition 0 with these entries. -/
def sQp (es : List QpEntry) : State := { sMbx with qps := [(3, { qp0 with entries := es })] }
/-- A COPY in execution. -/
def running0 : QpEntry := { entry0 2 [] with started := true }
theorem witness_qp_destroy : ∀ es ∈ [[], [running0]], Takes (sQp es) 0 hdr0 0x0305 [3] ∧ (sQp es).qpIn 0 3 = true ∧
    (sQp es).qp 3 = some { qp0 with entries := es } ∧ (es = [] ∨ es.filter (sQp es).entryRuns ≠ []) := by
  intro es he
  fin_cases he
  · exact ⟨takes_of (by decide +kernel), by decide +kernel⟩
  · exact ⟨takes_of (by decide +kernel), by decide +kernel⟩
theorem witness_qp_query : Takes (sQp []) 0 hdr0 0x0306 [3, 0x40] ∧ (sQp []).blockRefusal 0 0x40 64 false true = none :=
  ⟨takes_of (by decide +kernel), by decide +kernel⟩
/-- Sequence 4 of partition 0 in a state, with or without a serving run that is not idle. -/
def run1 : Run :=
  { qp := 0, at_ := 0, tag := 9, irq := false, var := false
    plan := { maxSeq := 1, budgetArg := 0, maxRows := 0, loopFirst := 0, loopLast := 0, loopCount := 1, build := 0x50000, buildBytes := 4096, stages := [] }
    nsteps := 2, stepsRun := 0, stop := false, faultAddr := 0, faulted := false, status := 0, inStep := true, idle := false, wait := 0, sel := [4],
    rungs := [], rungUp := false, replay := false, mism := (0, 0), poison := [], due := false, captured := 0, capTime := 0, back := 0 }
def sSeq (st : BitVec 3) (run : Bool) : State :=
  { sMbx with seqs := [(4, { seq0 with state := st })], runs := if run then [(0, run1)] else [] }
theorem witness_sequence : ∀ run : Bool, Takes (sSeq 1 run) 0 hdr0 0x0400 [4, 0x80] ∧ Takes (sSeq 1 run) 0 hdr0 0x0401 [4] ∧ (sSeq 1 run).seqIn 0 4 = true ∧
    ((sSeq 1 run).seq 4).state ≠ 0 ∧ (sSeq 1 run).blockRefusal 0 0x80 128 false true = none ∧
    (oget (sSeq 1 run).runs 0 = if run then some run1 else none) ∧ run1.idle = false := by
  intro run
  cases run
  · exact ⟨takes_of (by decide +kernel), takes_of (by decide +kernel), by decide +kernel⟩
  · exact ⟨takes_of (by decide +kernel), takes_of (by decide +kernel), by decide +kernel⟩
theorem witness_hold : ∀ hold : Bool, let s := sSeq (if hold then 1 else 2) false
    Takes s 0 hdr0 0x0402 [4, if hold then 1 else 0] ∧ (s.seq 4).state = (if hold then 1 else 2) := by
  intro hold
  cases hold
  · exact ⟨takes_of (by decide +kernel), by decide +kernel⟩
  · exact ⟨takes_of (by decide +kernel), by decide +kernel⟩

/-- A pool block: pool 3 of one page of 16 slots, rows of 256 bytes, at 0x80000. -/
def poolPb : List (Nat × Byte) := put 0x140 8 3 ++ put 0x150 8 256 ++ put 0x158 8 0x80000 ++ put 0x160 8 1
theorem witness_pool_create : let s := { sRegs with mem := poolPb }
    Takes s 0 hdr0 0x0500 [0x140] ∧ s.blockRefusal 0 0x140 64 true false = none ∧
    s.permits 0 0x80000 8192 true true false = true ∧ oget s.pools 3 = none ∧ ((s.begun 0 hdr0 0x0500 [0x140]).mapAlloc 0 8 4096).isSome = true :=
  ⟨takes_of (by decide +kernel), by decide +kernel⟩
/-- Pool 3 has two pages, of which the first is taken. -/
def pool1 : Pool := { pool0 with npages := 2 }
def sPool : State := { sMbx with pools := [(3, pool1)], mem := put 0x43000 8 (2 ^ 32 + 4) }
theorem witness_pages : Takes sPool 0 hdr0 0x0501 [3] ∧ (∃ f < 2, bit (sPool.le (pool1.stateAddr + 8 * f) 8) 32 = true) ∧
    Takes sPool 0 hdr0 0x0502 [3, 1, 0x200] ∧ sPool.awOk 0 0x200 8 false true = true ∧
    1 ≤ ((List.range 2).filter (fun f => !bit (sPool.le (pool1.stateAddr + 8 * f) 8) 32)).length ∧
    Takes sPool 0 hdr0 0x0502 [3, 2, 0x200] ∧ ((List.range 2).filter (fun f => !bit (sPool.le (pool1.stateAddr + 8 * f) 8) 32)).length < 2 ∧
    Takes sPool 0 hdr0 0x0503 [3, 1, 0x200] :=
  ⟨takes_of (by decide +kernel), by decide +kernel, takes_of (by decide +kernel), by decide +kernel, by decide +kernel, takes_of (by decide +kernel),
    by decide +kernel, takes_of (by decide +kernel)⟩
theorem witness_pool_destroy : let s := { sPool with mem := [] }
    Takes s 0 hdr0 0x0501 [3] ∧ (∀ f < 2, bit (s.le (pool1.stateAddr + 8 * f) 8) 32 = false) := ⟨takes_of (by decide +kernel), by decide +kernel⟩
theorem witness_page_free : bit (sPool.le 0x43000 8) 32 = true ∧ bits (sPool.le 0x43000 8) 0 16 = bits (4 * 2 ^ 32) 32 16 ∧
    bits (sPool.le 0x43000 8) 16 16 = 0 ∧ (freePages pool1 [4 * 2 ^ 32] sPool).isOk = true ∧
    (freePages pool1 [1 + 4 * 2 ^ 32] sPool).isOk = false := by decide +kernel
/-- The page is in a map. -/
theorem witness_page_mapped : let s := { sPool with mem := put 0x43000 8 (2 ^ 32 + 2 ^ 16 + 4) }
    bits (s.le 0x43000 8) 16 16 ≠ 0 := by decide +kernel
theorem witness_map_create : Takes sRegs 0 hdr0 0x0504 [] ∧ freeKey sRegs.maps 65536 0 = some 0 ∧
    ((sRegs.begun 0 hdr0 0x0504 []).mapAlloc 0 320 128).isSome = true := ⟨takes_of (by decide +kernel), by decide +kernel⟩
/-- Map 2 with `n` edits that wait. -/
def edit0 : MapEdit := { m := 0, tag := 6, slot := 0, irq := false, wait := false, code := 0x0508, ps := [2, 1, 0, 1], data := [], tables := [], watch := [] }
def sMap (n : Nat) : State := { sMbx with maps := [(2, { map0 false with pins := 0, queue := List.replicate n edit0 })], mem := mapMem }
theorem witness_map : Takes (sMap 0) 0 hdr0 0x0505 [2] ∧ Takes (sMap 0) 0 hdr0 0x0509 [2] ∧ (sMap 0).seqs = [] :=
  ⟨takes_of (by decide +kernel), takes_of (by decide +kernel), rfl⟩
theorem witness_edit : ∀ n ∈ [0, 1, 32], Takes (sMap n) 0 hdr0 0x0508 [2, 1, 0, 1] ∧
    ((sMap n).begun 0 hdr0 0x0508 [2, 1, 0, 1]).makeEdit ((sMap n).newCmd 0 hdr0 0x0508 [2, 1, 0, 1]) { map0 false with pins := 0, queue := List.replicate n edit0 } =
      .ok ({ edit0 with tag := 5 }, (sMap n).begun 0 hdr0 0x0508 [2, 1, 0, 1]) := by
  intro n hn
  fin_cases hn
  · exact ⟨takes_of (by decide +kernel), by rfl⟩
  · exact ⟨takes_of (by decide +kernel), by rfl⟩
  · exact ⟨takes_of (by decide +kernel), by rfl⟩
theorem witness_edit_waits : (sMap 1).makeEdit { cmd0 0x0508 [2, 1, 0, 1] true with wait := true } { map0 false with pins := 0, queue := [edit0] } =
    .ok ({ edit0 with wait := true }, sMap 1) := by rfl

/-! ### Commands of the flash store -/

/-- The same store with no weight region and a credit that is a plain number. -/
def flash1 : Flash := { Flash.factory with wsize := 0, credit := 1000000000000 }
/-- Object 5 of partition 0, of two granules, in state `st` with its home in region 1, and package 1. -/
def tobj0 (st : TobjState) : Tobj := { part := 0, sizeg := 2, state := st, region := 1, image := [(3, 7)], damaged := false, evict := false, copying := [], lost := [9] }
def home0 (dirty : Bool) : Region := { region0 with baseg := 4, lastg := 5, tobj := true, tobjId := 5, dirty := dirty }
def sTobj (st : TobjState) (dirty : Bool) : State :=
  { sRegs with tobjs := [(5, tobj0 st)], regions := if st = .flash then [(0, region0)] else [(0, region0), (1, home0 dirty)], flash := flash1 }
theorem witness_layout : Takes sMbx 0 hdr0 0x0600 [0] ∧ (0#64).toNat ≤ variantBytes 8000000000000 ∧ sMbx.wpkgBytes (fun _ => true) ≤ 0 ∧
    2 * sMbx.tobjBytes (fun _ => true) ≤ usableBytes - 0 - variantBytes 3064000000000 :=
  ⟨takes_of (by decide +kernel), Nat.zero_le _, by decide, Nat.zero_le _⟩
theorem witness_flash_query : Takes sMbx 0 hdr0 0x0601 [0x40] ∧ sMbx.blockRefusal 0 0x40 64 false true = none := ⟨takes_of (by decide +kernel), by decide +kernel⟩
theorem tier_room : 4194304 ≤ (sTobj .flash false).tierBytes := by
  show 4194304 ≤ variantBytes 12000000000000 - 0 - variantBytes 3064000000000
  unfold variantBytes
  cases Config.is16TC <;> decide
theorem witness_tobj_create : let s := { sTobj .flash false with tobjs := [] }
    Takes s 0 hdr0 0x0602 [1] ∧ s.flash.degr = false ∧ s.tobjBytes (· == 0) + 1 * granule ≤ s.flashQuota 0 s.tierBytes (·.tq) ∧
    2 * s.tobjBytes (fun _ => true) + 2 * (1 * granule) ≤ s.tierBytes :=
  ⟨takes_of (by decide +kernel), rfl, Nat.le_trans (by decide) tier_room, tier_room⟩
theorem witness_tobj_load : let s := sTobj .flash false
    Takes s 0 hdr0 0x0603 [5, 1, 4, 3] ∧ oget s.tobjs 5 = some (tobj0 .flash) ∧ inOneDie 4 5 = true ∧ s.regionRefusal 0 1 4 5 false 0 = none :=
  ⟨takes_of (by decide +kernel), by decide +kernel⟩
theorem witness_tobj_resident : ∀ d : Bool, let s := sTobj .resident d
    Takes s 0 hdr0 0x0604 [5] ∧ Takes s 0 hdr0 0x0605 [5] ∧ Takes s 0 hdr0 0x0607 [5] ∧ s.dirty (tobj0 .resident) = d ∧
    s.region 0 1 = some (home0 d) ∧ s.flash.tierRefusal = none := by
  intro d
  cases d
  · exact ⟨takes_of (by decide +kernel), takes_of (by decide +kernel), takes_of (by decide +kernel), by decide +kernel⟩
  · exact ⟨takes_of (by decide +kernel), takes_of (by decide +kernel), takes_of (by decide +kernel), by decide +kernel⟩
theorem witness_tobj_destroy : Takes (sTobj .flash false) 0 hdr0 0x0606 [5] ∧ (tobj0 .flash).state = .flash := ⟨takes_of (by decide +kernel), rfl⟩
theorem witness_tobj_finish : (cmd0 0x0603 [5, 1, 4, 3] true).code = 0x0603 ∧ oget (sTobj .loading false).tobjs ((cmd0 0x0603 [5, 1, 4, 3] true).p 0) = some (tobj0 .loading) ∧
    (sTobj .loading false).region 0 1 = some (home0 false) ∧ (sTobj .loading false).regOpen 0 1 = true := by decide +kernel
/-- A TOBJ_EVICT before and after its commit point, with nothing of the partition under way. -/
theorem witness_evict_finish : ∀ c ∈ [true, false], let d := { cmd0 0x0605 [5] true with committed := c }
    d.code = 0x0605 ∧ d.committed = c ∧ (tobj0 .writing).state = .writing ∧ (home0 false).dirty = false ∧
    (sTobj .writing false).regionBusy 0 (sTobj .writing false).marks (home0 false) = false := by decide +kernel

/-- A package of partition 0. -/
def sPkg (ready : Bool) : State :=
  { sMbx with wpkgs := [(1, { pack0 with ready := ready })], parts := [(0, part0), (2, part2)], flash := { flash1 with wsize := 16000000000 } }
theorem witness_wpkg_open : Takes (sPkg true) 0 hdr0 0x0608 [8192] ∧ (((8192 * 32 : Nat) : Int) ≤ (sPkg true).flash.credit * 31) ∧
    (sPkg true).wpkgBytes (· == 0) + 8192 ≤ (sPkg true).flashQuota 0 (sPkg true).flash.wsize (·.wq) := ⟨takes_of (by decide +kernel), by decide +kernel⟩
theorem witness_wpkg_write : Takes (sPkg false) 0 hdr0 0x0609 [1, 0, 4096, 0x4000] ∧ (sPkg false).awOk 0 0x4000 4096 true false = true ∧
    Takes (sPkg false) 0 hdr0 0x060A [1] ∧ Takes (sPkg true) 0 hdr0 0x060A [1] :=
  ⟨takes_of (by decide +kernel), by decide +kernel, takes_of (by decide +kernel), takes_of (by decide +kernel)⟩
theorem witness_wpkg_delete : Takes (sPkg true) 0 hdr0 0x060B [1] ∧ (sPkg true).wwins = [] ∧
    (let s := { sPkg true with wwins := [(3, wwin0)] }
     Takes s 0 hdr0 0x060B [1] ∧ (∃ w ∈ s.wwins, w.2.run = true ∧ w.2.pkg = 1)) :=
  ⟨takes_of (by decide +kernel), rfl, takes_of (by decide +kernel), (3, wwin0), List.mem_singleton_self _, rfl, rfl⟩
theorem witness_wpkg_grant : ∀ e : Bool, Takes (sPkg true) 0 hdr0 0x060C [1, 2, if e then 1 else 0] ∧ (oget (sPkg true).parts 2).isSome = true ∧
    (sPkg true).isSecure 0 = false ∧ (sPkg true).pkgUsed 1 (· == 2) = false := by
  intro e
  cases e
  · exact ⟨takes_of (by decide +kernel), by decide +kernel⟩
  · exact ⟨takes_of (by decide +kernel), by decide +kernel⟩
theorem witness_wpkg_finish : (cmd0 0x0609 [1, 0, 4096, 0x4000] true).code = 0x0609 ∧ awHost ((cmd0 0x0609 [1, 0, 4096, 0x4000] true).w 3) = false ∧
    (sPkg false).regOpen 0 1 = true ∧ (oget (sPkg false).wpkgs 1).isSome = true := by decide +kernel
/-- The descriptor of `wwin0` at 0x1000, and its layer list. -/
def wwinPb : List (Nat × Byte) :=
  put 0x1000 8 (1 + 2 ^ 32) ++ put 0x1008 8 0x400000 ++ put 0x1018 8 (1 + 2 ^ 32 * 16 + 2 ^ 48 * 24) ++ put 0x1020 8 (1 + 2 ^ 16 * 30) ++
  put 0x1028 8 0x3000 ++ put 0x1030 8 0x800000 ++ put 0x1040 8 1 ++ put 0x3000 4 (2 ^ 20 * 6)
def sWinStart : State := { sPkg true with mem := wwinPb }
theorem witness_window_start : Takes sWinStart 0 hdr0 0x060D [3, 0x1000] ∧ awHost 0x1000 = false ∧ sWinStart.blockRefusal 0 0x1000 128 true false = none ∧
    sWinStart.wwin 3 = none ∧ sWinStart.wwinRefusal 0 (sWinStart.awBytes 0 0x1000 128) (parseWwin 0 (sWinStart.awBytes 0 0x1000 128)) = none :=
  ⟨takes_of (by decide +kernel), by decide +kernel⟩
theorem witness_window_stop : ∀ r ∈ [none, some 1], let s := { sMbx with wwins := [(3, { wwin0 with reading := r })] }
    Takes s 0 hdr0 0x060E [3] ∧ Takes s 0 hdr0 0x060F [3, 0x40] ∧ s.wwin 3 = some { wwin0 with reading := r } := by
  intro r hr
  fin_cases hr
  · exact ⟨takes_of (by decide +kernel), takes_of (by decide +kernel), by decide +kernel⟩
  · exact ⟨takes_of (by decide +kernel), takes_of (by decide +kernel), by decide +kernel⟩

/-! ### Snapshots, domain, twin, Iris, power, security and diagnostics -/

/-- The block of a snapshot set without ranges, kept 3 times, shadows in regions 2 and 3. -/
def setPb : List (Nat × Byte) := put 0x148 8 (2 ^ 12 * 3) ++ put 0x150 8 (2 + 2 ^ 16 * 3)
/-- A region without permissions of 16 MiB from granule `g`. -/
def shadowR (g : Nat) : Region := { region0 with r := false, w := false, x := false, baseg := g, lastg := g + 7 }
def sSnap : State := { sMbx with regions := [(0, region0), (2, shadowR 8), (3, shadowR 131072)], mem := setPb }
theorem witness_snap_set : Takes sSnap 0 hdr0 0x0700 [0x140] ∧ sSnap.blockRefusal 0 0x140 64 true false = none ∧
    sSnap.shadowFit 0 2 0 0 = true ∧ sSnap.shadowFit 0 3 1 0 = true := ⟨takes_of (by decide +kernel), by decide +kernel⟩
/-- A capture of one section, and partition 0 with no ranges. -/
def snap0 : Snap :=
  { id := captureId 0 5, ftime := 1, vmin := 0, place := 0, serial := 0, digest := 0, secs := [sec 1 0 (List.replicate 64 0)], bad := false }
def sShadow : State := { sSnap with snaps := [(0, { SnapPart.reset with shadow := some snap0, left := 1, importNo := 0 })] }
theorem witness_snap_take : Takes sSnap 0 hdr0 0x0701 [] ∧ oget sSnap.runs 0 = none ∧ sSnap.launchRuns 0 = false ∧ sSnap.bounds = [] ∧
    Takes (sSeq 1 true) 0 hdr0 0x0701 [] ∧ oget (sSeq 1 true).runs 0 = some run1 :=
  ⟨takes_of (by decide +kernel), rfl, rfl, rfl, takes_of (by decide +kernel), rfl⟩
theorem witness_snap_list : Takes sShadow 0 hdr0 0x0702 [0x40, 0] ∧ sShadow.blockRefusal 0 0x40 2080 false true = none :=
  ⟨takes_of (by decide +kernel), by decide +kernel⟩
theorem witness_snap_named : Takes sShadow 0 hdr0 0x0703 [5] ∧ Takes sShadow 0 hdr0 0x0705 [5, 0x10000, 0x4000] ∧
    (sShadow.snapList 0).any (fun y => y.1 = 5) = true ∧ sShadow.findSnap 0 5 = some snap0 ∧ snap0.total ≤ 0x4000 ∧
    sShadow.awBlock 0 0x10000 snap0.total false true = true := ⟨takes_of (by decide +kernel), takes_of (by decide +kernel), by decide +kernel⟩
theorem witness_snap_delete : let s := { sSnap with fsnaps := [(5, { snap := snap0, unusable := false, lost := false })] }
    Takes s 0 hdr0 0x0704 [5] ∧ oget s.fsnaps 5 = some { snap := snap0, unusable := false, lost := false } := ⟨takes_of (by decide +kernel), rfl⟩
theorem witness_snap_import : Takes sSnap 0 hdr0 0x0706 [0x10000, 0x2000] ∧ sSnap.awBlock 0 0x10000 0x2000 true false = true :=
  ⟨takes_of (by decide +kernel), by decide +kernel⟩
/-- An image of one empty section of step 5 at 0x10000. -/
def imageMem : List (Nat × Byte) :=
  put 0x10000 8 (0x4E535A59 + 2 ^ 32) ++ put 0x10008 8 0x2000 ++ put 0x10010 8 5 ++ put 0x10028 8 1 ++ put 0x11000 8 1
def sImport : State := { sSnap with mem := imageMem }
def session0 : Session :=
  { mbxVer := 0x101, imgVer := 0x101, pkgVer := 0x101, snapVer := 0x101, feats := 0 }
theorem witness_snap_import_end : let bs := sImport.awBytes 0 0x10000 0x2000
    awHost ((cmd0 0x0706 [0x10000, 0x2000] true).w 0) = false ∧ sImport.regOpen 0 1 = true ∧ sImport.importNumber 0 (snapStep (wordAt bs 0x10)) = some 1 ∧
    bits (wordAt bs 0) 32 8 = 1 ∧ bits (wordAt bs 0) 40 8 ≤ session0.snapVer % 256 ∧ (parseSnap bs (captureId 0 5 + 2 ^ 52)).isSome = true ∧
    oget sImport.fsnaps (captureId 0 5 + 2 ^ 52) = none := by decide +kernel
theorem witness_snap_export_end : (cmd0 0x0705 [5, 0x10000, 0x4000] true).code = 0x0705 ∧ awHost ((cmd0 0x0705 [5, 0x10000, 0x4000] true).w 1) = false ∧
    sShadow.findSnap 0 ((cmd0 0x0705 [5, 0x10000, 0x4000] true).p 0) = some snap0 := by decide +kernel
/-- A restore waits, and no run or launch stands in its way. The snapshot is one that the state itself captures. -/
def partS : Part := { part0 with seqCount := 0, qpCount := 0, semCount := 0, claimCount := 0 }
def snap1 : Snap := { snap0 with secs := State.captureSecs { State.reset with parts := [(0, partS)] } 0 }
def sRestore : State :=
  { sSnap with
    parts := [(0, partS)], snaps := [(0, { SnapPart.reset with shadow := some snap1 })], bounds := [(0, .restore 0 6 5)]
    journal := [cmd0 0x0703 [5] true] }
theorem witness_snap_restore_end : let c := cmd0 0x0703 [5] true
    let v := (sRestore.setBounds 0 []).endRead (.cmd 0 6)
    sRestore.cmd 0 6 = some c ∧ sRestore.bounds = [(0, .restore 0 6 5)] ∧ oget sRestore.runs 0 = none ∧ sRestore.launchRuns 0 = false ∧ v.findSnap 0 5 = some snap1 ∧
    v.restoreRefusal 0 1 snap1 = none := by decide +kernel
theorem witness_shadow_copy : (sShadow.snapPart 0).left ≠ 0 ∧ sShadow.regOpen 0 0 = true := by decide +kernel
def sWrite : State :=
  { sSnap with snaps := [(0, { SnapPart.reset with
      cfg := some { set := [], flash := true, keep := 3, shadow0 := 2, shadow1 := 3 }, writing := some (snap0, false) })] }
theorem snap_room : sWrite.snapBytes + snap0.total ≤ snapRegion := by
  have h : sWrite.snapBytes + snap0.total = 12288 := by decide +kernel
  rw [h]; unfold snapRegion variantBytes
  cases Config.is16TC <;> decide
theorem witness_flash_write : (sWrite.snapPart 0).writing = some (snap0, false) ∧ (sWrite.snapPart 0).left = 0 ∧ sWrite.regOpen 0 1 = true ∧
    sWrite.capturedOf 0 = [] ∧ sWrite.snapBytes + snap0.total ≤ snapRegion :=
  ⟨by decide +kernel, by decide +kernel, by decide +kernel, by decide +kernel, snap_room⟩

/-- A domain of two modules in X with partitions 0 and 1, and this one at (0, 0, 0). -/
def domPb : List (Nat × Byte) := put 0x140 8 (1 + 2 ^ 32 + 2 ^ 48 * 3)
def dom0 : Domain := { id := 1, dx := 2, dy := 1, dz := 1, x := 0, y := 0, z := 0, pmask := 3, fwdp := 0, cred := List.replicate 16 0 }
/-- One port of each direction of X, and twin port 24, are UP. -/
def sDom (d : Option Domain) : State :=
  { sMbx with mem := domPb, domain := d, ports := [(0, { Port.reset with state := .up }), (4, { Port.reset with state := .up }),
      (24, { Port.reset with state := .up, serial := 9 })] }
theorem witness_domain : Takes (sDom none) 0 hdr0 0x0800 [0x140] ∧ (sDom none).blockRefusal 0 0x140 64 true false = none ∧
    parseDomain ((sDom none).awBytes 0 0x140 64) = (dom0, false) ∧ (∀ k < 24, dom0.uses (k / 4) = true → ((sDom none).port k).state ≠ .identFail) ∧
    (∀ dir < 6, dom0.uses dir = true → (sDom none).upPorts dir ≠ []) := ⟨takes_of (by decide +kernel), by decide +kernel⟩
theorem witness_domain_leave : Takes (sDom (some dom0)) 0 hdr0 0x0801 [] ∧ (∀ p < 16, bit dom0.pmask p = true → (sDom (some dom0)).working p = false) ∧
    Takes (sDom (some dom0)) 0 hdr0 0x0804 [] ∧ Takes (sDom none) 0 hdr0 0x0804 [] :=
  ⟨takes_of (by decide +kernel), by decide +kernel, takes_of (by decide +kernel), takes_of (by decide +kernel)⟩
theorem witness_leave_waits : let s := { sDom (some dom0) with runs := [(0, run1)] }
    Takes s 0 hdr0 0x0801 [] ∧ ∃ p < 16, bit dom0.pmask p = true ∧ s.working p = true :=
  ⟨takes_of (by decide +kernel), 0, by decide, by decide +kernel, by decide +kernel⟩
theorem witness_link_query : Takes (sDom none) 0 hdr0 0x0802 [24, 0x40] ∧ (sDom none).blockRefusal 0 0x40 64 false true = none :=
  ⟨takes_of (by decide +kernel), by decide +kernel⟩
def twin0 : Twin := { pair := 1, roleB := false, peer := 9, pmask := 1, waitMs := 1000, lost := false, beat := 0 }
def sTwin : State := { sDom (some dom0) with mem := put 0x140 8 1 ++ put 0x148 8 9 ++ put 0x150 8 1 }
theorem witness_twin : Takes sTwin 0 hdr0 0x0803 [0x140] ∧ sTwin.blockRefusal 0 0x140 64 true false = none ∧
    parseTwin (sTwin.awBytes 0 0x140 64) sTwin.dmask = (twin0, false) ∧ (sTwin.port 24).state = .up ∧ (sTwin.port 24).serial = twin0.peer :=
  ⟨takes_of (by decide +kernel), by decide +kernel⟩
/-- The block of an encode session of 64 by 64 pictures on core 0: ring at 0x10000, results at 0x20000, DPB at 0x30000. -/
def irisPb : List (Nat × Byte) :=
  put 0x180 8 (2 ^ 16 * 64 + 2 ^ 32 * 64 + 2 ^ 48 * 30) ++ put 0x1A0 8 (24 + 2 ^ 32) ++ put 0x1A8 8 0x10000 ++ put 0x1B0 8 (4 + 16 * 9) ++
  put 0x1B8 8 0x20000 ++ put 0x1C0 8 0x30000 ++ put 0x1C8 8 0x10000
def iris0 : IrisSess := parseIris 0 (State.awBytes { sMbx with mem := irisPb } 0 0x180 128)
/-- Whether a level admits a picture is a free value (log 10). -/
theorem witness_iris_open (admits : Config.levelAdmits 0 false 30 64 64 24 1 = true) : let s := { sMbx with mem := irisPb }
    Takes s 0 hdr0 0x0900 [0x180] ∧ iris0.bad = false ∧ s.irisSpans 0 iris0 = true ∧ s.irisOf 0 iris0.core = true ∧ iris0.codec = 0 ∧
    s.semIn 0 iris0.psem.2 = true ∧ iris0.unsupported = false ∧ oget s.iris 0 = none ∧
    (s.iris.filter (fun e => e.2.core = iris0.core)).length < 16 := by
  refine ⟨takes_of (by decide +kernel), by decide +kernel, by decide +kernel, by decide +kernel, by decide +kernel, by decide +kernel, ?_, rfl, by decide +kernel⟩
  have h : (iris0.codec, iris0.dec, iris0.level, iris0.width, iris0.height, bits (iris0.w 4) 0 32, bits (iris0.w 4) 32 32) = (0, false, 30, 64, 64, 24, 1) := by
    decide +kernel
  simp only [Prod.mk.injEq] at h
  simp only [IrisSess.unsupported, h, admits]
  decide
/-- The first picture of session 7, of two block rows, of which none has left the pipeline. -/
def pic0 : IrisPic :=
  { sess := 7, n := 0, words := [], hist := [], irap := true, ty := 0, status := 0, rows := 0, slices := 0, prog := 0, told := 0, repeated := false }
/-- A session that is open, and one whose picture is in the pipeline. -/
def sIris (busy : Bool) : State :=
  { sMbx with iris := [(7, iris0)], icores := if busy then [(0, { IrisCore.reset with pic := some pic0 })] else [] }
theorem witness_iris : ∀ busy : Bool, Takes (sIris busy) 0 hdr0 0x0901 [7] ∧ Takes (sIris busy) 0 hdr0 0x0902 [7, 0x40] ∧
    oget (sIris busy).iris 7 = some iris0 ∧ iris0.closing = none ∧ (sIris busy).irisBusy 7 iris0 = busy := by
  intro b
  cases b
  · exact ⟨takes_of (by decide +kernel), takes_of (by decide +kernel), by decide +kernel⟩
  · exact ⟨takes_of (by decide +kernel), takes_of (by decide +kernel), by decide +kernel⟩

theorem witness_power : Takes sMbx 0 hdr0 0x0A00 [100] ∧ Takes sMbx 0 hdr0 0x0A01 [0] ∧ Takes sMbx 0 hdr0 0x0A01 [1] ∧ sMbx.board.trans = none ∧
    sMbx.board.sleepAt = none ∧ sMbx.modeNo = 0 ∧ (let s := { sMbx with mode := .standby }
      Takes s 0 hdr0 0x0A01 [0] ∧ Takes s 0 hdr0 0x0A01 [2] ∧ s.sleepRefused = false) :=
  ⟨takes_of (by decide +kernel), takes_of (by decide +kernel), takes_of (by decide +kernel), rfl, rfl, rfl, takes_of (by decide +kernel),
    takes_of (by decide +kernel), by decide +kernel⟩
theorem witness_telemetry : Takes sMbx 0 hdr0 0x0A02 [3] ∧ Takes sMbx 0 hdr0 0x0A03 [0x40] ∧ Takes sMbx 0 hdr0 0x0C00 [0x40, 0] :=
  ⟨takes_of (by decide +kernel), takes_of (by decide +kernel), takes_of (by decide +kernel)⟩
/-- The base point of P-521 as a key of partition 2 with identifier 9, in slot 1; and the block that clears that slot. -/
def keyPb (set : Bool) : List (Nat × Byte) :=
  put 0x100 8 1 ++ (if set then put 0x108 8 9 ++ putBytes [] 0x110 ((toLe 66 P521.g.1).reverse ++ (toLe 66 P521.g.2).reverse) else [])
def sKey (m : List (Nat × Byte)) : State := { sParts m with pkeys := [(8, { id := 3, x := 0, y := 0 })] }
theorem witness_key : ∀ set : Bool, Takes (sKey (keyPb set)) 0 hdr0 0x0B00 [2, 0x100] ∧ (sKey (keyPb set)).blockRefusal 0 0x100 256 true false = none ∧
    (sKey (keyPb set)).isSecure 2 = false ∧ wordAt ((sKey (keyPb set)).awBytes 0 0x100 256) 0 < 4 := by
  intro b
  cases b
  · exact ⟨takes_of (by decide +kernel), by decide +kernel⟩
  · exact ⟨takes_of (by decide +kernel), by decide +kernel⟩
theorem witness_secure : Takes (sKey []) 0 hdr0 0x0B01 [2, 1] ∧ (sKey []).maySecure 2 = true ∧ Takes (sKey []) 0 hdr0 0x0B01 [2, 0] ∧
    (sKey []).mayRelease 2 = true := ⟨takes_of (by decide +kernel), by decide +kernel, takes_of (by decide +kernel), by decide +kernel⟩
theorem witness_attest : Takes sMbx 0 hdr0 0x0B02 [0x40, 0x10000] ∧ sMbx.blockRefusal 0 0x40 64 true false = none ∧
    sMbx.blockRefusal 0 0x10000 98304 false true = none := ⟨takes_of (by decide +kernel), by decide +kernel⟩
theorem witness_selftest : Takes sMbx 0 hdr0 0x0C01 [0] ∧ diagUnit 0 = some (.core, 0) ∧ sMbx.engineOf 0 .core 0 = true ∧ sMbx.unitBusy .core 0 = false :=
  ⟨takes_of (by decide +kernel), by decide +kernel⟩
theorem witness_selftest_busy : let s := { sMbx with journal := [{ cmd0 0x0C01 [1] true with m := 1 }] }
    s.journal.any (fun d => d.code == 0x0C01 && d.bg) = true ∧ Takes s 0 hdr0 0x0C01 [0] := ⟨by decide +kernel, takes_of (by decide +kernel)⟩
theorem witness_inject_into : let ps := sMbx.parts.filter (fun e => e.2.diag && !sMbx.isSecure e.1)
    ps.length = 1 ∧ ∀ n : Nat, ps[n % max 1 ps.length]? = some (0, part0) := by
  refine ⟨by decide +kernel, fun n => ?_⟩
  have h : sMbx.parts.filter (fun e => e.2.diag && !sMbx.isSecure e.1) = [(0, part0)] := by decide +kernel
  simp [h, Nat.mod_one]
theorem witness_inject_none : let s := { sMbx with secure := [0] }
    s.parts.filter (fun e => e.2.diag && !s.isSecure e.1) = [] ∧ Takes s 0 hdr0 0x0C02 [0x40] := ⟨by decide +kernel, takes_of (by decide +kernel)⟩
theorem witness_inject : Takes sMbx 0 hdr0 0x0C02 [0x40] ∧ part0.diag = true ∧ sMbx.isSecure 0 = false := ⟨takes_of (by decide +kernel), by decide +kernel⟩

/-! ### Serving runs and steps -/

/-- A STEP of 2 steps of the plan at 0x30000, or with STOP; and that plan: one stage, which launches kernel 0 of image 1. -/
def wStep (stop : Bool) : List Nat := [4 + 2 ^ 32 * 9, 0x30000, if stop then 2 ^ 32 else 2, 0x7000]
def planMem : List (Nat × Byte) :=
  put 0x30000 8 (1 + 2 ^ 16) ++ put 0x30018 8 0x50000 ++ put 0x30020 8 4096 ++
  put 0x30068 8 (1 + 2 ^ 32 * 4) ++ put 0x30070 8 1 ++ put 0x30080 8 (8 + 2 ^ 32) ++ put 0x30088 8 (1 + 2 ^ 32) ++ put 0x30090 8 0x2000 ++
  put 0x30098 8 (1 + 2 ^ 16)
def sStep (stop : Bool) (run : Option Run) : State :=
  let s := sRing (wStep stop)
  { s with mem := s.mem ++ planMem, runs := match run with
      | some r => [(0, r)]
      | none => [] }
theorem witness_step_entry : ∀ r ∈ [(true, none), (true, some run1), (false, some run1), (false, none)],
    ((sStep r.1 r.2).nextEntry 0).any (fun t => t.2.1.ty == 4 && !t.2.2 && bits (t.2.1.w 1) 48 16 == 0 && bits (t.2.1.w 2) 33 31 == 0 &&
      bits (t.2.1.w 3) 48 16 == 0 && !t.2.1.tailBad 4 && !(sStep r.1 r.2).varDenied 0 t.2.1 && bit (t.2.1.w 2) 32 == r.1 && bits (t.2.1.w 1) 0 48 == 0x30000 &&
      !t.2.1.var) = true ∧ oget (sStep r.1 r.2).runs 0 = r.2 := by decide +kernel
theorem witness_step_plan : ((sStep false none).readPlan 0 0x30000 false).isOk = true ∧ run1.idle = false := by decide +kernel
/-- A run that is idle; sequence 4 is ACTIVE or not. -/
def sIdle (st : BitVec 3) : State :=
  { sStep false (some { run1 with idle := true, inStep := false, sel := [] }) with seqs := if st = 0 then [] else [(4, { seq0 with state := st, npass := 3, ts := 0x40000, args := 0x41000 })] }
theorem witness_tick : ∀ st ∈ [0#3, 1], oget (sIdle st).runs 0 = some { run1 with idle := true, inStep := false, sel := [] } ∧
    ((sIdle st).takeIn 0).any (fun u => decide ((u.selectSeqs 0 run1.plan).1 = if st = 0 then [] else [4])) = true := by decide +kernel
/-- The run stands in a step whose launches have retired. -/
def atBoundary (r : Run) : State :=
  { sEntry 4 [] with runs := [(0, r)], seqs := [(4, { seq0 with npass := 3, cstep := 8 })], wwins := [(2, { wwin0 with part := 0, run := true })] }
/-- The last of its steps. -/
def run2 : Run := { run1 with stepsRun := 1 }
theorem witness_boundary_ends : let s := atBoundary { run2 with faulted := true }
    oget s.runs 0 = some { run2 with faulted := true } ∧ s.stepRetired 0 = true := by decide +kernel
theorem witness_boundary_domain : let s := { atBoundary run2 with domain := some dom0 }
    oget s.runs 0 = some run2 ∧ s.stepRetired 0 = true ∧ s.domained 0 = true := by decide +kernel
theorem witness_boundary : let s := atBoundary run2
    oget s.runs 0 = some run2 ∧ run2.inStep = true ∧ run2.wait = 0 ∧ run2.replay = false ∧ s.stepRetired 0 = true ∧ run2.faulted = false ∧
    run2.status = 0 ∧ s.domained 0 = false ∧ s.captureDue 0 = false ∧ s.twinned 0 = false ∧ run2.sel = [4] ∧ s.bounds = [] ∧ oget s.stepLogs 0 = none ∧
    run2.nsteps = run2.stepsRun + 1 ∧ oget s.parts 0 = some part0 ∧ s.seq 4 = { seq0 with npass := 3, cstep := 8 } ∧ seq0.state = 1 ∧ seq0.pass + 1 < 3 ∧
    s.qp 0 = some { qp0 with entries := [entry0 4 []] } ∧ (entry0 4 []).at_ = run2.at_ ∧ qp0.destroy = none ∧ qp0.discard = false := by decide +kernel
/-- The run waits: for the step barrier, for its twin's digest, or for the barrier before a replay. -/
def atBarrier (w : Nat) : State := { atBoundary { run2 with wait := w } with domain := some dom0 }
theorem witness_barrier_open : (∀ w ∈ [1, 3], oget (atBarrier w).runs 0 = some { run2 with wait := w }) ∧ (atBarrier 1).twinned 0 = false ∧ (1#64) ≠ 0 := by
  decide +kernel
/-- Its twin stands by. -/
def atTwin : State := { atBarrier 0 with twin := some twin0 }
def atDigest : State := { atBarrier 2 with twin := some twin0, fabs := [(0, { FabPart.reset with digest := 77 })] }
theorem witness_digest : oget atDigest.runs 0 = some { run2 with wait := 2 } ∧ atDigest.twin = some twin0 ∧ twin0.lost = false ∧
    (atDigest.fab 0).digest = 77 ∧ (77#64) ≠ 78 ∧ run2.mism.1 ≠ atDigest.stepNo 0 := by decide +kernel
/-- A failure asks for a replay; the shadow holds the capture of step 5, or nothing. -/
def toReplay (snap : Bool) : State :=
  { atBoundary { run2 with replay := true } with snaps := if snap then [(0, { SnapPart.reset with shadow := some snap1 })] else [] }
theorem witness_replay : ∀ b : Bool, oget (toReplay b).runs 0 = some { run2 with replay := true } ∧ (toReplay b).twinned 0 = false ∧
    (toReplay b).domained 0 = false ∧ (toReplay b).newestSnap 0 = if b then some snap1 else none := by decide +kernel
theorem witness_replay_shadow : (toReplay true).shadowSnap 0 snap1.id = some snap1 ∧ run2.wait ≠ 4 := by decide +kernel
/-- The newest snapshot is in flash only, and no shadow holds it; or its rows are being read. -/
def toRestore (wait : Nat) : State :=
  { atBoundary { run2 with replay := true, wait := wait, back := 5 } with
    fsnaps := [(5, { snap := snap1, unusable := false, lost := false })] }
theorem witness_replay_flash : (toRestore 0).newestSnap 0 = some snap1 ∧ (toRestore 0).shadowSnap 0 snap1.id = none ∧
    oget (toRestore 4).runs 0 = some { run2 with replay := true, wait := 4, back := 5 } ∧ (toRestore 4).flash.steady (.restore 0) = true ∧
    ((toRestore 4).endRead (.restore 0)).newestSnap 0 = some snap1 ∧ snapStep snap1.id = 5 := by decide +kernel
theorem witness_stop_idle : let s := sStep true (some { run1 with idle := true })
    oget s.runs 0 = some { run1 with idle := true } ∧ ((s.nextEntry 0).any (fun t => bit (t.2.1.w 2) 32)) = true := by decide +kernel
theorem witness_no_done : ∀ y ∈ (atBoundary run2).seqs, y.2.state = 3 → (atBoundary run2).seqIn 0 y.1 = false := by decide +kernel
theorem witness_notice : oget (atBarrier 0).runs 0 = some run2 ∧ (atBarrier 0).domained 0 = true := by decide +kernel
theorem witness_twin_notice : atTwin.twin = some twin0 ∧ twin0.lost = false ∧ (∀ r ∈ atTwin.runs, r.2.wait ≠ 2) ∧ atTwin.twinned 0 = true := by decide +kernel

/-! ### Fabric, collectives -/

/-- Port 3 in a state, with an unacknowledged flit, flits to acknowledge and 8 replays of one flit. -/
def sPort (st : PortState) : State := { State.reset with ports := [(3, { Port.reset with state := st, buffer := [{ seq := 0, bytes := [1], tries := 8 }], since := 2, txSeq := 1 })] }
/-- A CRC with its state computed byte by byte, and that it is the CRC. -/
def crcFold (poly : Nat) : List Byte → Nat → Nat
  | [], c => c
  | b :: bs, c => match crcByte poly c b with
    | 0 => crcFold poly bs 0
    | n + 1 => crcFold poly bs (n + 1)
theorem crcFold_eq (poly : Nat) (bs : List Byte) (c : Nat) : crcFold poly bs c = bs.foldl (crcByte poly) c := by
  induction bs generalizing c with
  | nil => rfl
  | cons b bs ih =>
    rw [List.foldl_cons, ← ih]
    show (match crcByte poly c b with
      | 0 => crcFold poly bs 0
      | n + 1 => crcFold poly bs (n + 1)) = crcFold poly bs (crcByte poly c b)
    generalize crcByte poly c b = x
    cases x <;> rfl
/-- A flit of type 2 with sequence number 0, intact or with a wrong CRC. -/
def flit0 (ok : Bool) : Flit := { bytes := 2 :: (List.replicate 267 0 ++ [if ok then 43 else 0, 214, 196, 4]), corrected := 1, unc := 0, uncorrectable := false }
theorem flit_crc : ∀ ok : Bool, decide ((flit0 ok).bytes.length ≠ 272 ∨ ofLe ((flit0 ok).bytes.drop 268) ≠ crc32c ((flit0 ok).bytes.take 268)) = !ok := by
  simp only [crc32c, ← crcFold_eq]
  decide +kernel
theorem witness_flit : ∀ ok : Bool, ((sPort .up).port 3).state = .up ∧ bits (ofLe ((flit0 ok).bytes.take 4)) 0 4 ∈ [1, 2, 3] ∧
    bits (ofLe ((flit0 ok).bytes.take 4)) 12 12 = ((sPort .up).port 3).rxSeq := by decide +kernel
theorem witness_port : ((sPort .up).port 3).buffer ≠ [] ∧ 0 < ((sPort .up).port 3).since ∧ (∃ f ∈ ((sPort .up).port 3).buffer, 8 ≤ f.tries) ∧
    (sPort .up).health.failed = false ∧ ((sPort .up).port 3).buffer.length < 1024 := by decide
theorem witness_port_full :
    1024 ≤ ((State.port { State.reset with ports := [(3, { Port.reset with buffer := List.replicate 1024 { seq := 0, bytes := [], tries := 0 } })] } 3).buffer).length :=
  by decide +kernel
/-- The partner of port 3 answers with versions 1.0 to `hi`. -/
def train0 (lo port : Nat) : TrainInfo := { answers := true, verLo := lo, verHi := 0x0101, serial := 9, domain := 0, x := 0, y := 0, z := 0, port := port }
theorem witness_training : ((sPort .training).port 3).state = .training ∧ linkVersion 0x0102 0x0101 = none ∧ linkVersion 0x0100 0x0101 = some 0x0101 ∧
    (sPort .training).partnerOk 3 (train0 0x0100 6) = false ∧ (sPort .training).partnerOk 3 (train0 0x0100 7) = true := by decide
theorem witness_bar_cfg : (sBar.bar 0 0 254).arrivals = [] ∧
    (State.bar { sBar with bars := [(254, { Bar.reset with arrivals := [some (0, 0)] })] } 0 0 254).arrivals ≠ [] := by decide
/-- Collective queue 1 of die 0 in a state. -/
def sCq (en fault : Bool) (run : Option Coll) (v : W32) (m : List (Nat × Byte)) : State :=
  { sMbx with
    cqs := [(1, { Cq.reset with en := en, psem := 9, base := 0x10000, fault := fault, run := run })], sems := [(9, { Sem.reset with value := v })], mem := m }
theorem witness_cq_cfg : ((sCq true false none 0 []).cq 0 0 1).en = true ∧ ((sCq false false none 0 []).cq 0 0 1).en = false ∧
    (1#64).getLsbD 0 = true ∧ (2#64).getLsbD 0 = false := by decide +kernel
theorem witness_twin_lost : atTwin.twin = some twin0 ∧ atTwin.health.failed = false ∧ (∀ r ∈ atTwin.runs, r.2.wait ≠ 2) ∧
    (oget atDigest.runs 0).map (·.wait) = some 2 ∧ atDigest.twin = some twin0 := by decide +kernel

/-- A SEND of 64 bytes at 0x30000 to member 1, once semaphore 9 has reached 1. -/
def sendDesc : List (Nat × Byte) := put 0x10000 8 (3 + 2 ^ 32 * 64) ++ put 0x10008 8 0x30000 ++ put 0x10018 8 1 ++ put 0x10028 8 (9 + 2 ^ 12 + 2 ^ 32)
def descWords (s : State) : List W64 := (List.range 16).map (fun i => BitVec.ofNat 64 (s.le (0x10000 + 8 * i) 8))
theorem witness_collective : ∀ r ∈ [(0#32, sendDesc), (1, []), (1, sendDesc)], let s := sCq true false none r.1 r.2
    (s.cq 0 0 1).en = true ∧ (s.cq 0 0 1).fault = false ∧ (s.cq 0 0 1).run = none ∧ s.workOpen = true ∧ s.health.failed = false ∧
    (oget s.parts 0).isSome = true ∧ s.semIn 0 (s.cq 0 0 1).psem = true ∧ s.permits 0 0x10000 128 true false false = true ∧
    (collBad (descWords s) (2 * s.dom.dx * s.dom.dy * s.dom.dz) = decide (r.2 = [])) ∧ ((s.sem 0 9).value.toNat ≤ (s.cq 0 0 1).n ↔ r.1 = 0) := by
  decide +kernel
theorem witness_send : let s := sCq true false none 1 sendDesc
    let x := parseColl (descWords s)
    x.var = false ∧ x.csem = none ∧ x.dsem = none ∧ x.wsem = some (9, 1) ∧ s.semIn 0 9 = true ∧ 1 ≤ (s.sem 0 9).value.toNat ∧ x.op = 3 ∧
    s.permits 0 x.src x.count true false false = true := by decide +kernel
/-- A RECV of 64 bytes to 0x30000 from member 1; `dsem`: it signals semaphore 9. -/
def recvWords (dsem : Bool) : List W64 :=
  [BitVec.ofNat 64 (4 + 2 ^ 32 * 64), 0, 0x30000, 1, if dsem then BitVec.ofNat 64 (2 ^ 32 * (9 + 2 ^ 12)) else 0, 0, 0, 0, 0, 0, 0, 0, 0, 0, 0, 0]
def recv0 (outs : Nat) (dsem : Bool) : Coll :=
  { words := recvWords dsem, dbl := false, stage := 0, vec := [], lo := Feed.start, hi := Feed.start, blocks := [], outs := outs, sent := [], staged := [] }
/-- A chunk of a kind with 64 bytes of zeros for 0x30000, intact or not. -/
def chunk0 (kind : Nat) (ok : Bool) : Chunk :=
  { what := .data, src := 1, word0 := BitVec.ofNat 64 kind, sig := (recvWords false).getD 0 0, word2 := 0, packets := [(0x30000, List.replicate 64 0)],
    ccrc := BitVec.ofNat 32 (crc32c (List.replicate 64 0) + (if ok then 0 else 1)), port := 0, hOk := true }
theorem witness_chunk_receive : ∀ ok : Bool, let s := sCq true false (some (recv0 0 false)) 0 []
    let c := recv0 0 false
    let x := parseColl c.words
    let ch := chunk0 2 ok
    let data := ch.packets.flatMap (·.2)
    (s.cq 0 0 1).run = some c ∧ x.op = 4 ∧ ch.word0.toNat % 16 = 2 ∧ ch.src = x.peer ∧ ch.sig.toNat / 16 = x.sig / 16 ∧ c.lo.no = ch.word2.toNat % 2 ^ 32 ∧
    c.lo.pos < x.count ∧ data.length = (Min.min x.chunkItems (x.count - c.lo.pos)) * x.itemBytes ∧ (crc32c data = ch.ccrc.toNat ↔ ok = true) ∧
    c.lo.bad < 3 ∧ (s.fab 0).verified = false := by decide +kernel
/-- The SEND in execution: chunk 0 is not accepted yet; and an answer to it. -/
def send0 : Coll :=
  { recv0 0 false with words := (BitVec.ofNat 64 (3 + 2 ^ 32 * 64)) :: 0x30000 :: 0 :: 1 :: List.replicate 12 0, staged := [{ dst := 1, no := 0, pieces := [] }] }
theorem witness_answers : let s := sCq true false (some send0) 0 []
    let x := parseColl send0.words
    let ch (k : ChunkKind) : Chunk := { chunk0 0 true with what := k, word0 := 18, sig := BitVec.ofNat 64 x.sig }
    (s.cq 0 0 1).run = some send0 ∧ x.op = 3 ∧ send0.lo.k = 0 ∧ (s.cq 0 0 1).ready = [] ∧ (ch .ready).src = x.peer ∧
    (ch .ready).sig.toNat / 16 = x.sig / 16 ∧ (ch .taken).word0.toNat % 16 ≠ 3 ∧ (ch .taken).word0 = s.collWord0 0 0 1 x ∧
    send0.staged.find? (fun e => e.dst == (ch .again).src && e.no == (ch .again).word2.toNat % 2 ^ 32) = some { dst := 1, no := 0, pieces := [] } := by
  decide +kernel
theorem witness_forwarded : (chunk0 3 true).word0.toNat % 16 = 3 ∧ crc32c ((chunk0 3 true).packets.flatMap (·.2)) = (chunk0 3 true).ccrc.toNat ∧
    (∀ x ∈ (chunk0 3 true).packets, sMbx.permits 0 x.1.toNat x.2.length false true false = true) := by decide +kernel
theorem witness_abort_receive : ((sCq true false none 0 []).cq 0 0 1).fault = false ∧ ((sCq true true none 0 []).cq 0 0 1).fault = true ∧
    ((sCq true true none 0 []).cq 0 0 1).en = true := by decide +kernel
theorem witness_collective_complete : ∀ d : Bool, let s := sCq true false (some (recv0 1 d)) 0 []
    let x := parseColl (recvWords d)
    (s.cq 0 0 1).run = some (recv0 1 d) ∧ x.op ≠ 3 ∧ (recv0 1 d).staged = [] ∧ ceilDiv (x.outItems (s.dom.count x.span) * x.outBytes) (2 ^ (16 + x.clog)) ≤ 1 ∧
    (s.dom.stages 0 x false).length ≤ 0 ∧ x.dsem = (if d then some 9 else none) ∧ (s.sem 0 9).value.toNat < 2 ^ 32 - 1 := by decide +kernel
/-- A drain waits in channel 0. -/
def sForward : State :=
  { sDom (some dom0) with fwds := [(0, { Fwd.reset with en := true, peer := 2, src := 0x40000, dst := 0x50000, leng := 1, queue := [[(0x40010, [1, 2])]] })] }
theorem witness_forward : (sForward.fwd 0).queue = [(0x40010, [1, 2])] :: [] ∧ sForward.domain = some dom0 ∧ sForward.health.failed = false := by decide +kernel

/-! ### Marigold, Iris -/

theorem witness_unit_check : UnitKind.prim ∈ [UnitKind.core, .fox, .prim] ∧ sRun.health.faulty.contains (0, 0) = false ∧ (∃ x < 4, sRun.canRun 0 x = true) ∧
    (sPrim (some (jobOf 0))).health.faulty.contains (2, 0) = false ∧ ((sPrim (some (jobOf 0))).prim 0).job.isSome = true :=
  ⟨by decide, by decide, ⟨0, by decide, by decide⟩, by decide, by decide⟩
theorem witness_sram : let s := sFox (some (itemOf 2 0 [])) [] false
    (s.fox 0).launch = some 6 ∧ s.launch 6 = some (launchOf 1 false) ∧ (launchOf 1 false).step = none ∧ (s.fox 0).item = some (itemOf 2 0 []) ∧
    (itemOf 2 0 []).launch = 6 := by decide +kernel
/-- Core 5 is to be quarantined; every core of die 0 has the unit of its own number, and the units in `us` are fenced. -/
def sFaulty (us : List Nat) : State :=
  { State.reset with health := { Health.reset with faulty := [(0, 5)], map := (List.range 64).map (fun i => (i, i)), fenced := us.map (fun u => (0, u)) } }
theorem witness_quarantine : ∀ us ∈ [[], [64, 65, 66, 67]], let s := sFaulty us
    s.health.faulty.contains (0, 5) = true ∧ s.physical 0 5 = 5 ∧
    State.freeSpare { s with health := { s.health with fenced := s.health.fenced ++ [(0, 5)] } } 0 0 = (if us = [] then some 64 else none) := by decide +kernel
/-- A launch whose odd units are mostly not audited; its work has ended on core 0. -/
def audited (a : List (Nat × Bool)) : Launch := { launchOf 0 false with aRate := 1, engines := [], served := [0], audits := a }
theorem witness_audit_start : let s := sLaunch (audited [])
    let l := audited []
    s.launch 6 = some l ∧ l.picked 1 = false ∧ l.picked 0 = true ∧ l.started = true ∧ l.killed = false ∧ 0 < l.e.total ∧ l.skips.contains 0 = false ∧
    l.audits.any (fun a => a.1 == 0) = false ∧ l.again = [] ∧ s.unitEnded 6 l 0 = true ∧
    s.shareDone 6 l (l.engineList.getD ((l.ranOn 0 + 1) % Max.max 1 l.engineList.length) 0) = true := by decide +kernel
theorem witness_audit_complete : (sLaunch (audited [(0, false)])).launch 6 = some (audited [(0, false)]) ∧ (0, false) ∈ (audited [(0, false)]).audits ∧
    oget (audited [(0, false)]).pins 0 = none ∧ (audited [(0, false)]).step = none ∧ (1#64) ≠ 2 ∧ (3#64) ≠ 1 ∧ (3#64) ≠ 2 := by decide +kernel
def halted : Launch := { launchOf 0 false with again := [(0, 0)], e := { entryOf false 8 with winu := 0 } }
theorem witness_tile_replay : (sLaunch halted).launch 6 = some halted ∧ halted.again.contains (0, 0) = true ∧ engineKind halted.k.kind = .core ∧
    halted.e.winu = 0 := by decide +kernel
/-- Line 0x1000 is poisoned; the step has reported it or not. -/
def sPoison (r : Option Run) : State := { sRing [] with poison := [0x1000], runs := match r with
    | some r => [(0, r)]
    | none => [] }
theorem witness_poison : (∀ r ∈ [none, some run1, some { run1 with poison := [(1, 0x1000)] }],
      (sPoison r).poison.contains (0x40000 / 64) = true ∧ oget (sPoison r).runs 0 = r) ∧ run1.inStep = true ∧ run1.replay = false ∧
    run1.poison.contains ((sPoison (some run1)).stepNo 0, 0x40000 / 64) = false ∧
    [(1, 0x1000)].contains ((sPoison (some { run1 with poison := [(1, 0x1000)] })).stepNo 0, 0x40000 / 64) = true := by decide +kernel

/-- The session of `iris0` in numbers, alone on core 0, and its producer semaphore at `v`. -/
def irisP : IrisSess :=
  { part := 0, words := [0x1E_0040_0040_0000, 0, 0, 0, 0x1_0000_0018, 0x10000, 0x94, 0x20000, 0x30000, 0x10000, 0, 0, 0, 0, 0, 0], n := 0, held := [], group := 0,
    pics := 0, bytes := 0, closing := none, irap := false, skip := false, since := 0, coded := 0, hist := [] }
def sIrisAlone (v : W32) (p : Option IrisPic) : State :=
  { sMbx with iris := [(7, irisP)], icores := [(0, { IrisCore.reset with pic := p })], sems := [(9, { Sem.reset with value := v })] }
theorem witness_iris_start (v : W32) : let s := sIrisAlone v none
    s.iris = [(7, irisP)] ∧ irisP.core = 0 ∧ (s.icore 0).pic = none ∧ s.workOpen = true ∧ irisP.group = 0 ∧ irisP.gop ≠ 2 :=
  ⟨rfl, by decide +kernel, rfl, rfl, rfl, by decide +kernel⟩
theorem witness_iris_ready : (sIrisAlone 0 none).irisReady irisP = false ∧ (sIrisAlone 1 none).irisReady irisP = true := by decide +kernel
/-- Its descriptor is all zeros: its source does not lie in a region of the partition. -/
theorem witness_iris_refused : (sIrisAlone 1 none).irisRefused irisP (List.replicate 16 0) = true := by decide +kernel
theorem witness_iris_row : let s := sIrisAlone 0 (some pic0)
    (s.icore 0).pic = some pic0 ∧ oget s.iris pic0.sess = some irisP ∧ pic0.status = 0 ∧ pic0.rows < irisP.picRows pic0 ∧ pic0.repeated = false ∧
    (s.icore 0).pic.isSome = true := by decide +kernel
/-- A session with slices of one row; its picture has all its rows, `slices` slices and room for `cap` bytes. -/
def irisS : IrisSess := { irisP with words := 0x11E_0040_0040_0040 :: irisP.words.drop 1 }
def picS (slices prog cap : Nat) : IrisPic := { pic0 with rows := 2, slices := slices, prog := prog, told := slices, words := [0, 0, 0, 0, 0x60000, BitVec.ofNat 64 cap] }
def sIrisS (p : IrisPic) : State := { sMbx with iris := [(7, irisS)], icores := [(0, { IrisCore.reset with pic := some p })] }
theorem witness_iris_slice : ∀ r ∈ [(1, 0), (0, 2 ^ 32 - 1)], let p := picS 1 r.1 r.2
    ((sIrisS p).icore 0).pic = some p ∧ oget (sIrisS p).iris p.sess = some irisS ∧ irisS.subf = true ∧ irisS.dec = false ∧ p.status = 0 ∧ p.slices < irisS.slices ∧
    Min.min irisS.rows ((p.slices + 1) * irisS.perSlice) ≤ p.rows ∧ p.told ≤ p.slices ∧ bits (dw p.words 5) 0 32 = r.2 ∧ p.prog = r.1 := by decide +kernel
/-- How many bytes a slice takes is free (log 10): beyond 0 bytes of room is one after 1, and any number below 2^32 fits. -/
theorem witness_iris_slice_room (n : Nat) (h : irisS.num (picS 1 0 (2 ^ 32 - 1)).hist 17 = n) (small : n < 2 ^ 32) :
    bits (dw (picS 1 1 0).words 5) 0 32 < (picS 1 1 0).prog + irisS.num (picS 1 1 0).hist 17 ∧
    (picS 1 0 (2 ^ 32 - 1)).prog + irisS.num (picS 1 0 (2 ^ 32 - 1)).hist 17 ≤ bits (dw (picS 1 0 (2 ^ 32 - 1)).words 5) 0 32 := by
  have a : bits (dw (picS 1 1 0).words 5) 0 32 = 0 := by decide
  have b : bits (dw (picS 1 0 (2 ^ 32 - 1)).words 5) 0 32 = 2 ^ 32 - 1 := by decide
  have c : (picS 1 1 0).prog = 1 := rfl
  have d : (picS 1 0 (2 ^ 32 - 1)).prog = 0 := rfl
  omega
theorem witness_iris_done : let s := sIrisAlone 0 (some { pic0 with rows := 2 })
    (s.icore 0).pic = some { pic0 with rows := 2 } ∧ irisP.picRows pic0 ≤ 2 ∧ irisP.subf = false ∧ irisP.closing = none ∧
    s.permits irisP.part (irisP.recAt pic0) 64 false true false = true := by decide +kernel
theorem witness_iris_repeated : ((sIrisS { picS 1 0 0 with repeated := true }).icore 0).pic = some { picS 1 0 0 with repeated := true } ∧
    oget (sIrisS { picS 1 0 0 with repeated := true }).iris 7 = some irisS := by decide +kernel

/-! ### Host link, management -/

/-- The link is up; line 0x40 is poisoned or not; function 3 is enabled. -/
def sHost (bad : Bool) : State :=
  { sMbx with linkUp := true, funcs := [(3, { Func.reset with enabled := true })], poison := if bad then [0x40] else [] }
theorem witness_window : ∀ bad : Bool, let s := sHost bad
    s.linkUp = true ∧ s.funcHere 0 = true ∧ 0x1000 + 64 ≤ 2 ^ ((s.func 0).bar4 + 30) ∧ (s.page 0).bar4 * granule + 0x1000 + 64 ≤ 2 * dieBytes ∧
    s.permits 0 0x1000 64 true false false = true ∧ s.permits 0 0x1000 64 false true false = true ∧ s.poison.contains (0x1000 / 64) = bad ∧
    (∀ i < 64, s.poison.contains ((0x1000 + i) / 64) = bad) := by decide +kernel
theorem witness_window_refused : let s := { sHost false with pages := [(0, { Page.reset with bar4 := 262143 })] }
    2 * dieBytes < (s.page 0).bar4 * granule + 0x200000 + 64 ∧ 0x200000 + 64 ≤ 2 ^ ((s.func 0).bar4 + 30) ∧
    s.permits 0 ((s.page 0).bar4 * granule + 0x200000) 64 false true false = false := by decide +kernel
theorem witness_flr : (sHost false).func 3 = { Func.reset with enabled := true } ∧ (3 : Nat) < 16 ∧ (3 : Nat) ≠ 0 ∧ (sHost false).funcHere 3 = true := by decide
theorem witness_link : let s := { sHost false with board := { Board.reset with perst := false, mrdy := true } }
    s.board.perst = false ∧ s.board.mrdy = true ∧ s.board.failed = false ∧ s.mode = .active ∧ State.reset.board.mrdy = false := by decide
theorem witness_register : (sHost false).linkUp = true ∧ (0x123 % 8 ≠ 0) ∧ ((sHost false).func 3).enabled = true ∧
    (0xC01D#64).toNat % 2 ^ 16 = 0xC01D := by decide
/-- Vector 5 of function 3 is pending, and MSI-X is enabled or not. -/
def sVector (on : Bool) : State :=
  { sHost false with funcs := [(3, { Func.reset with enabled := true, msixEn := on, pending := [5], vectors := [(5, { Vector.reset with mask := true })] })] }
theorem witness_unmask : ∀ on : Bool, let f := (sVector on).func 3
    (sVector on).funcHere 3 = true ∧ f.pending.contains 5 = true ∧ f.msixEn = on ∧ f.msixMask = false := by decide +kernel
theorem witness_host_read : let s := { sHost false with mbxs := [(0, { mbx0 with cmdBase := 2 ^ 63 })], qps := [(0, { qp0 with sqAddr := 2 ^ 63 })] }
    awHost (s.mbx 0).cmdBase = true ∧ oget s.qps 0 = some { qp0 with sqAddr := 2 ^ 63 } ∧ awHost (2 ^ 63 : W64) = true := by decide +kernel
theorem witness_ide : let s := { sHost false with board := { Board.reset with spdmSess := 1 } }
    s.board.spdmSess ≠ 0 ∧ s.board.ide.contains 3 = false ∧ State.reset.board.spdmSess = 0 := by decide
theorem witness_config : (sHost false).ready = true ∧ ({ sHost false with ready := false } : State).ready = false := by decide

/-- The management interface answers; the module's start has reached `step`, or failed there; SPDM is at version 1.3. -/
def sMgmt (step : Nat) (failed : Bool) : State :=
  { sMbx with board := { Board.reset with step := step, failed := failed, spdmVer := some 0x13, vin := 48000 } }
theorem witness_management : State.reset.mgmtUp = false ∧ (sMgmt 10 false).mgmtUp = true ∧ (sMgmt 5 true).mgmtUp = true ∧
    (sMgmt 10 false).board.failed = false ∧ 5 ≤ (sMgmt 10 false).board.step ∧ (sMgmt 10 false).board.spdmVer.isSome = true ∧
    (sMgmt 10 false).ready = true := by decide
theorem witness_management_sleep : let s := { sMgmt 10 false with mode := .sleep, board := { (sMgmt 10 false).board with starting := false } }
    s.mgmtUp = true ∧ s.mode = .sleep ∧ s.board.starting = false ∧ s.board.failed = false := by decide
theorem witness_measurement : ∃ bs : List Byte, (sMgmt 10 false).measurement 4 = some bs := ⟨_, rfl⟩
/-- A patch table in copy A; whether the ROM accepts its signature and level is outside the model (log 15). -/
def sUpdate (ok : Bool) : State :=
  { sMgmt 10 false with board := { (sMgmt 10 false).board with update := some { level := 7, bytes := [1], ok := ok } } }
theorem witness_update (signed : Config.patchSigned [1] = true) (floor : Config.patchFloor ≤ 7)
    (handlers : Config.patchHandlers [1] ≤ 256) (code : Config.patchCode [1] ≤ 524288) :
    ∀ ok : Bool, (sUpdate ok).board.update = some { level := 7, bytes := [1], ok := ok } ∧ Config.patchSigned [1] = true ∧ Config.patchFloor ≤ 7 ∧
      Config.patchHandlers [1] ≤ 256 ∧ Config.patchCode [1] ≤ 524288 ∧ (sUpdate ok).patch.1 < 7 ∧ (7 : Nat) ≤ (State.patch { sUpdate ok with patch := (7, true) }).1 := by
  intro ok
  cases ok
  · exact ⟨rfl, signed, floor, handlers, code, by decide, by decide⟩
  · exact ⟨rfl, signed, floor, handlers, code, by decide, by decide⟩

/-! ### Power, start-up and resets -/

/-- 160000 eighths of a nanosecond (20 µs) after their last work, engines stand in a power state. -/
def sEngines (p : Power) : State :=
  { sMbx with
    time := 160000, foxes := [(0, { Fox.reset with power := p })], prims := [(0, { Prim.reset with power := p })], cores := [(0, { Core.reset with power := p })] }
theorem witness_retain : let s := sEngines .run
    s.powered = true ∧ (s.fox 0).power = .run ∧ (s.fox 0).item = none ∧ (s.fox 0).workSince + 160000 ≤ s.time ∧ (s.prim 0).power = .run ∧ (s.prim 0).job = none ∧
    (s.prim 0).workSince + 160000 ≤ s.time ∧ (s.core 0).power = .run ∧ s.coreBusy 0 = false ∧ (s.core 0).workSince + 160000 ≤ s.time := by decide +kernel
theorem witness_off : let s := sEngines .retain
    s.powered = true ∧ (s.fox 0).power = .retain ∧ s.offTimeout .fox 0 ≠ 0xFFFFFFFF ∧ (s.fox 0).workSince + 8000 * s.offTimeout .fox 0 ≤ s.time ∧
    (s.core 0).power = .retain ∧ s.coreTimeout 0 ≠ 0xFFFFFFFF ∧ (s.core 0).workSince + 8000 * s.coreTimeout 0 ≤ s.time := by decide +kernel
theorem witness_never_off : State.offTimeout { sMbx with parts := [(0, { part0 with offUs := 0xFFFFFFFF })] } .core 0 = 0xFFFFFFFF := by decide +kernel
theorem witness_wake : let s := { sEngines .off with ctxs := [(0, { Ctx.reset with launch := some 6 })] }
    s.powered = true ∧ (s.core 0).power ≠ .run ∧ s.coreBusy 0 = true := by decide +kernel
/-- A transition to a module state that PWR_MODULE asked for, in a module state. -/
def sTrans (mode : ModState) (target : Nat) : State :=
  { sJournal (cmd0 0x0A01 [BitVec.ofNat 64 target] true) with mode := mode, board := { Board.reset with trans := some (0, 6, target) } }
theorem witness_standby : (sTrans .active 1).mode = .active ∧ (sTrans .active 1).board.trans = some (0, 6, 1) ∧ (sTrans .active 1).workRuns = false ∧
    State.workRuns { sTrans .active 1 with launches := [(6, launchOf 0 false)] } = true := by decide +kernel
theorem witness_sleep : let s := sTrans .standby 2
    s.mode = .standby ∧ s.board.trans = some (0, 6, 2) ∧ s.sleepRefused = false ∧ 128 ≤ s.granulesFree 0 ∧ 128 ≤ s.granulesFree 1 ∧
    State.sleepRefused { s with domain := some dom0 } = true := by decide +kernel
/-- The sleep image is complete; a wake request is latched or not. -/
def sSleepAt (wake : Bool) : State := { sMbx with mode := .standby, board := { Board.reset with sleepAt := some 0, wake := wake } }
theorem witness_power_down : ∀ w : Bool, (sSleepAt w).mode = .standby ∧ (sSleepAt w).board.sleepAt.isSome = true ∧ (sSleepAt w).board.wake = w ∧
    inDram 0x1000 = true ∧ spadCore (spadSlot 0) = some 0 := by decide +kernel
theorem witness_wake_pin : let s := { sMbx with mode := .sleep, board := { Board.reset with starting := false } }
    s.mode = .sleep ∧ s.board.starting = false ∧ s.board.failed = false ∧ (sSleepAt false).mode ≠ .sleep := by decide
/-- What a start finds: all is well, or a step fails. -/
def find0 (dram : Bool) : BootFind :=
  { romOk := true, trimA := true, trimB := true, vmajOk := true, hwOk := true, dramOk := dram, flashOk := true, ports := [0, 24], units := [] }
theorem witness_boot : bootStops (find0 true) = none ∧ bootStops (find0 false) = some (5, 0x16) := by decide
theorem witness_sleep_exit : let s := { sMbx with mode := .sleep, board := { Board.reset with exiting := true } }
    s.mode = .sleep ∧ s.board.exiting = true := by decide
/-- The module is Off. -/
def sOff (open_ held here : Bool) : State := { State.reset with mode := .off, board := { Board.reset with swOpen := open_, swHeld := held, pprsnt := here } }
theorem witness_power_on : (sOff false false true).mode = .off ∧ (sOff false false true).board.pprsnt = true ∧ (sOff false false true).board.swOpen = false ∧
    (sOff true false true).board.swOpen = true ∧ (sOff true false false).board.pprsnt = false ∧ (sOff true false false).board.swHeld = false ∧
    (sOff true true false).board.swHeld = true := by decide
theorem witness_resets : State.reset.mode ≠ .off ∧ State.reset.board.resetAt = none ∧
    (State.board { sMbx with board := { Board.reset with resetAt := some (0, 3) } }).resetAt = some (0, 3) := by decide
theorem witness_startup : let b := { Board.reset with step := 9 }
    b.starting = true ∧ b.exiting = false ∧ b.step = 9 ∧ Board.reset.step ≠ 9 := by decide
theorem witness_input_switch : let s := { sMbx with board := { Board.reset with thermal := some 0 } }
    s.mode ≠ .off ∧ s.board.thermal.isSome = true ∧ State.reset.board.thermal = none := by decide

/-! ### Ill-formed commands, each refused by its check; and the spec's own examples -/

/-- One command for each kind of unit with a number beyond the last, in the order of `Named`, and items of a wrong size. -/
theorem test_ill_formed : ∀ i ∈ [
   Instr.bundleIssue 128, .add 0 4 h0 fReg, .mbxCtrlWrite 16 0, .flr 16, .semTakeServed 2 0, .dramChannelPowerDown 0 256, .ackTimer 26, .foxItemStart 32,
   .primJobStart 4, .irisRowDone 8, .step 262144, .wwPositionRead 16, .flashRelocate 0 847872, .garbageCollection 16 0, .staticWearLevel 0 1600, .tableSwitch 0 512, .dieFailed 512, .mapEditBatch 65536,
   .flashChannelPowerDown 64, .cblPrsChange 7 true, .forwardDrain 8, .collectiveStart 0 0 4, .semHoldRevoke 0 4096, .barrierOpen 0 256 false,
   .regionDrainDone 0 1024, .ideKm 9 0, .msixUnmask 0 2048, .flitReceive 0 { bytes := [], corrected := 0, unc := 0, uncorrectable := false },
   .registerWrite 0 0 0 9 0, .pwrResetWrite 0 0 0], i.wf = false := by decide
theorem test_well_formed : ∀ i ∈ [Instr.bundleIssue 127, .add 0 3 h0 fReg, .ideKm 8 0, .cblPrsChange 6 true, .registerWrite 15 0 0 8 0, .semHoldRevoke 1 4095],
    i.wf = true := by decide
/-- The example of R199: M[1][3]. -/
theorem test_hash_mask : hashMask 1 3 = 0x402010 := by decide
/-- The walk of 16,448 bytes after R204 stays on channel 0 under matrix 0, and does not under matrix 1. -/
theorem test_hash_walk : ∀ n ∈ [1, 77, 255], channelOf 0 (n * 16448) = 0 ∧ (channelOf 1 (n * 16448) = 0 ↔ n = 255) := by decide +kernel
/-- The example of 03: 37 saturated blocks and 3 zero blocks in a tile stored as E4M3B after one step. -/
theorem test_status_word : statusWord 8 1 37 3 = 0x800C2518 := by decide
/-- There: 288 is stored as 0x79, and 0.3 times 32 as 10. -/
theorem test_e4m3 : toFmt 3 (Fp.ofInt 288) = 0x79 ∧ toFmt 3 (Fp.scale2 (Fp.of32 0x3E99999A) 5) = toFmt 3 (Fp.ofInt 10) := by decide +kernel
/-- The published check value of CRC-32C, over the digits 1 to 9. -/
theorem test_crc : crc32c [0x31, 0x32, 0x33, 0x34, 0x35, 0x36, 0x37, 0x38, 0x39] = 0xE3069283 := by decide +kernel

end Sys2Proof.Tests
end

section
/-!
The matrix slot (R48, R109, R112): which mfrees and clears of the queue have their turn, what emptying their tiles leaves
alone, and what an operation that issues does to the queue.
-/

namespace Sys2Proof.Machine

/-! ### Emptying tiles -/

/-- The state with the tiles `es` of core `c`, each a context and a handle, emptied. -/
def State.emptyTiles (s : State) (c : Nat) (es : List (Nat × Nat)) : State :=
  es.foldl (fun s (x, t) => s.setTile c x t Tile.empty) s

theorem State.emptyTiles_cons (s : State) (c : Nat) (e : Nat × Nat) (es : List (Nat × Nat)) :
    s.emptyTiles c (e :: es) = (s.setTile c e.1 e.2 Tile.empty).emptyTiles c es := rfl

theorem State.emptyTiles_eq (s : State) (c : Nat) (es : List (Nat × Nat)) :
    s.emptyTiles c es = { s with tiles := (s.emptyTiles c es).tiles } := by
  induction es generalizing s with
  | nil => rfl
  | cons e es ih =>
    rw [emptyTiles_cons]
    exact ih (s.setTile c e.1 e.2 Tile.empty)

@[simp] theorem State.emptyTiles_mem (s : State) (c : Nat) (es : List (Nat × Nat)) : (s.emptyTiles c es).mem = s.mem := by
  rw [emptyTiles_eq]
@[simp] theorem State.emptyTiles_ctxs (s : State) (c : Nat) (es : List (Nat × Nat)) : (s.emptyTiles c es).ctxs = s.ctxs := by
  rw [emptyTiles_eq]
@[simp] theorem State.emptyTiles_cores (s : State) (c : Nat) (es : List (Nat × Nat)) : (s.emptyTiles c es).cores = s.cores := by
  rw [emptyTiles_eq]
@[simp] theorem State.emptyTiles_launches (s : State) (c : Nat) (es : List (Nat × Nat)) :
    (s.emptyTiles c es).launches = s.launches := by
  rw [emptyTiles_eq]

theorem State.tile_setTile_empty {s : State} {c x t : Nat} (h : s.tile c x t = Tile.empty) (y w : Nat) :
    (s.setTile c y w Tile.empty).tile c x t = Tile.empty := by
  simp only [State.tile, State.setTile] at h ⊢
  rw [tget_tput, h, ite_self]

/-- Handles below 16 name different tiles of a core for different contexts. -/
theorem State.tile_setTile_ne {s : State} {c x t y w : Nat} {v : Tile} (ht : t < 16) (hw : w < 16) (hne : (y, w) ≠ (x, t)) :
    (s.setTile c y w v).tile c x t = s.tile c x t := by
  refine tget_tput_ne _ _ fun he => hne ?_
  rw [Prod.mk.injEq]
  omega

theorem State.tile_emptyTiles_empty {s : State} {c x t : Nat} (h : s.tile c x t = Tile.empty) (es : List (Nat × Nat)) :
    (s.emptyTiles c es).tile c x t = Tile.empty := by
  induction es generalizing s with
  | nil => exact h
  | cons e es ih => exact ih (tile_setTile_empty h ..)

theorem State.tile_emptyTiles_of_mem {c x t : Nat} {es : List (Nat × Nat)} (h : (x, t) ∈ es) (s : State) :
    (s.emptyTiles c es).tile c x t = Tile.empty := by
  induction es generalizing s with
  | nil => cases h
  | cons e es ih =>
    rcases List.mem_cons.mp h with rfl | h
    · exact tile_emptyTiles_empty (tile_setTile ..) es
    · exact ih h _

theorem State.tile_emptyTiles_of_ne {c x t : Nat} {es : List (Nat × Nat)} (ht : t < 16)
    (h : ∀ e ∈ es, e.2 < 16 ∧ e ≠ (x, t)) (s : State) : (s.emptyTiles c es).tile c x t = s.tile c x t := by
  induction es generalizing s with
  | nil => rfl
  | cons e es ih =>
    obtain ⟨he, hes⟩ := List.forall_mem_cons.mp h
    exact (ih hes _).trans (tile_setTile_ne ht he.1 he.2)

/-! ### The turn of an mfree or clear (R38, R109) -/

/-- The tile of an mfree or clear whose turn has come, behind the operations `before`; none for one that waits and for every other
operation. -/
def Core.freedBy (k : Core) (before : List MatrixRec) (o : MatrixRec) : Option (Nat × Nat) :=
  let turn (x t q : Nat) :=
    if before.any (MatrixRec.touches x t) ∨ k.drainHolds x t q ∨ k.lupinAdds x t q then none else some (x, t)
  match o with
  | .mfree x t q => turn x t q
  | .clear x t q => turn x t q
  | _ => none

theorem freeReady_cons_stays {k : Core} {before rest : List MatrixRec} {o : MatrixRec} (h : k.freedBy before o = none) :
    freeReady k before (o :: rest) = (o :: (freeReady k (before ++ [o]) rest).1, (freeReady k (before ++ [o]) rest).2) := by
  cases o with
  | mfree x t q =>
    simp only [Core.freedBy, ite_eq_left_iff, reduceCtorEq, imp_false, not_not] at h
    simp only [freeReady, if_pos h]
  | clear x t q =>
    simp only [Core.freedBy, ite_eq_left_iff, reduceCtorEq, imp_false, not_not] at h
    simp only [freeReady, if_pos h]
  | mmul _ _ _ _ => rfl
  | mdrain _ => rfl
  | lrun _ _ _ _ _ _ => rfl

theorem freeReady_cons_freed {k : Core} {before rest : List MatrixRec} {o : MatrixRec} {e : Nat × Nat}
    (h : k.freedBy before o = some e) :
    freeReady k before (o :: rest) = ((freeReady k before rest).1, e :: (freeReady k before rest).2) := by
  cases o with
  | mfree x t q =>
    obtain ⟨hturn, he⟩ := Option.ite_none_left_eq_some.mp h
    cases he
    simp only [freeReady, if_neg hturn]
  | clear x t q =>
    obtain ⟨hturn, he⟩ := Option.ite_none_left_eq_some.mp h
    cases he
    simp only [freeReady, if_neg hturn]
  | mmul _ _ _ _ => cases h
  | mdrain _ => cases h
  | lrun _ _ _ _ _ _ => cases h

/-- Only an mfree or clear of a tile empties it. -/
theorem Core.freedBy_some {k : Core} {before : List MatrixRec} {o : MatrixRec} {e : Nat × Nat} (h : k.freedBy before o = some e) :
    ∃ q, o = .mfree e.1 e.2 q ∨ o = .clear e.1 e.2 q := by
  cases o with
  | mfree x t q => cases (Option.ite_none_left_eq_some.mp h).2; exact ⟨q, .inl rfl⟩
  | clear x t q => cases (Option.ite_none_left_eq_some.mp h).2; exact ⟨q, .inr rfl⟩
  | mmul _ _ _ _ => cases h
  | mdrain _ => cases h
  | lrun _ _ _ _ _ _ => cases h

/-- An mfree or clear that no earlier operation holds back empties its tile. -/
theorem Core.freedBy_free {k : Core} {before : List MatrixRec} {o : MatrixRec} {x t q : Nat}
    (ho : o = .mfree x t q ∨ o = .clear x t q) (hb : before.any (MatrixRec.touches x t) = false)
    (hd : k.drainHolds x t q = false) (hl : k.lupinAdds x t q = false) : k.freedBy before o = some (x, t) := by
  rcases ho with rfl | rfl <;> simp [Core.freedBy, hb, hd, hl]

/-- An mfree waits behind an operation on its tile. -/
theorem Core.freedBy_mfree_waits {k : Core} {before : List MatrixRec} {x t : Nat} (q : Nat)
    (hb : before.any (MatrixRec.touches x t) = true) : k.freedBy before (.mfree x t q) = none := by
  simp [Core.freedBy, hb]

/-! ### The queue once mfrees have had their turn -/

/-- What remains of a first part of the queue stands before its second part. -/
theorem freeReady_append (k : Core) (before l₁ l₂ : List MatrixRec) :
    freeReady k before (l₁ ++ l₂) =
      ((freeReady k before l₁).1 ++ (freeReady k (before ++ (freeReady k before l₁).1) l₂).1,
        (freeReady k before l₁).2 ++ (freeReady k (before ++ (freeReady k before l₁).1) l₂).2) := by
  induction l₁ generalizing before with
  | nil => simp [freeReady]
  | cons o l₁ ih =>
    rw [List.cons_append]
    cases h : k.freedBy before o with
    | none => simp [freeReady_cons_stays h, ih]
    | some e => simp [freeReady_cons_freed h, ih]

theorem freeReady_sublist (k : Core) (before l : List MatrixRec) : (freeReady k before l).1.Sublist l := by
  induction l generalizing before with
  | nil => exact List.Sublist.refl _
  | cons o l ih =>
    cases h : k.freedBy before o with
    | none => rw [freeReady_cons_stays h]; exact (ih _).cons_cons o
    | some e => rw [freeReady_cons_freed h]; exact (ih _).cons o

/-- An mmul stays in the queue. -/
theorem mmul_mem_freeReady {k : Core} {before l : List MatrixRec} {m : MmulRec} {th : Thread} {pc : BitVec 48} {q : Nat}
    (hm : .mmul m th pc q ∈ l) : .mmul m th pc q ∈ (freeReady k before l).1 := by
  induction l generalizing before with
  | nil => cases hm
  | cons o l ih =>
    cases h : k.freedBy before o with
    | none =>
      rw [freeReady_cons_stays h]
      exact List.mem_cons.mpr ((List.mem_cons.mp hm).imp_right ih)
    | some e =>
      rw [freeReady_cons_freed h]
      rcases List.mem_cons.mp hm with rfl | hm
      · cases h
      · exact ih hm

/-- Every tile emptied is that of an mfree or clear of the queue. -/
theorem freed_mem {k : Core} {before l : List MatrixRec} {e : Nat × Nat} (he : e ∈ (freeReady k before l).2) :
    ∃ q, .mfree e.1 e.2 q ∈ l ∨ .clear e.1 e.2 q ∈ l := by
  induction l generalizing before with
  | nil => cases he
  | cons o l ih =>
    have later (b : List MatrixRec) (h : e ∈ (freeReady k b l).2) : ∃ q, .mfree e.1 e.2 q ∈ o :: l ∨ .clear e.1 e.2 q ∈ o :: l := by
      obtain ⟨q, h⟩ := ih h
      exact ⟨q, h.imp (List.mem_cons_of_mem _) (List.mem_cons_of_mem _)⟩
    cases h : k.freedBy before o with
    | none => rw [freeReady_cons_stays h] at he; exact later _ he
    | some e' =>
      rw [freeReady_cons_freed h] at he
      rcases List.mem_cons.mp he with rfl | he
      · obtain ⟨q, rfl | rfl⟩ := Core.freedBy_some h
        · exact ⟨q, .inl (List.mem_cons_self ..)⟩
        · exact ⟨q, .inr (List.mem_cons_self ..)⟩
      · exact later _ he

/-- The last mfree of a queue with no other operation on its tile empties it. -/
theorem freed_last {k : Core} {l : List MatrixRec} {x t q : Nat} (hl : l.any (MatrixRec.touches x t) = false)
    (hd : k.drainHolds x t q = false) (hu : k.lupinAdds x t q = false) : (x, t) ∈ (freeReady k [] (l ++ [.mfree x t q])).2 := by
  have hb : ([] ++ (freeReady k [] l).1).any (MatrixRec.touches x t) = false :=
    List.any_eq_false.mpr fun o ho => List.any_eq_false.mp hl o ((freeReady_sublist k [] l).subset ho)
  rw [freeReady_append, freeReady_cons_freed (Core.freedBy_free (.inl rfl) hb hd hu)]
  exact List.mem_append_right _ (List.mem_cons_self ..)

/-- The last mfree of a queue with an mmul into its tile stays, and the tiles of the rest are emptied as without it. -/
theorem freeReady_mfree_waits {k : Core} {l : List MatrixRec} {m : MmulRec} {th : Thread} {pc : BitVec 48} {p : Nat}
    (hm : .mmul m th pc p ∈ l) (q : Nat) :
    freeReady k [] (l ++ [.mfree m.ctx m.tile q]) = ((freeReady k [] l).1 ++ [.mfree m.ctx m.tile q], (freeReady k [] l).2) := by
  have hb : ([] ++ (freeReady k [] l).1).any (MatrixRec.touches m.ctx m.tile) = true :=
    List.any_eq_true.mpr ⟨_, mmul_mem_freeReady hm, by simp [MatrixRec.touches]⟩
  rw [freeReady_append, freeReady_cons_stays (Core.freedBy_mfree_waits q hb)]
  simp [freeReady]

/-! ### mfrees and clears take effect -/

theorem State.settleFrees_eq (s : State) (c : Nat) :
    s.settleFrees c = (s.setCore c { s.core c with mq := (freeReady (s.core c) [] (s.core c).mq).1 }).emptyTiles c
      (freeReady (s.core c) [] (s.core c).mq).2 := rfl

@[simp] theorem State.settleFrees_mem (s : State) (c : Nat) : (s.settleFrees c).mem = s.mem := by simp [settleFrees_eq]
@[simp] theorem State.settleFrees_ctxs (s : State) (c : Nat) : (s.settleFrees c).ctxs = s.ctxs := by simp [settleFrees_eq]
@[simp] theorem State.settleFrees_launches (s : State) (c : Nat) : (s.settleFrees c).launches = s.launches := by
  simp [settleFrees_eq]

@[simp] theorem State.settleFrees_mq (s : State) (c : Nat) :
    ((s.settleFrees c).core c).mq = (freeReady (s.core c) [] (s.core c).mq).1 := by
  have hc : (s.settleFrees c).core c = { s.core c with mq := (freeReady (s.core c) [] (s.core c).mq).1 } := by
    rw [settleFrees_eq, State.core, emptyTiles_cores]
    exact core_setCore ..
  rw [hc]

theorem State.tile_settleFrees_of_freed {s : State} {c x t : Nat} (h : (x, t) ∈ (freeReady (s.core c) [] (s.core c).mq).2) :
    (s.settleFrees c).tile c x t = Tile.empty := by
  rw [settleFrees_eq, tile_emptyTiles_of_mem h]

theorem State.tile_settleFrees_of_ne {s : State} {c x t : Nat} (ht : t < 16)
    (h : ∀ e ∈ (freeReady (s.core c) [] (s.core c).mq).2, e.2 < 16 ∧ e ≠ (x, t)) :
    (s.settleFrees c).tile c x t = s.tile c x t := by
  rw [settleFrees_eq, tile_emptyTiles_of_ne ht h]
  rfl

/-- The oldest operation of the queue is an mfree or clear that no drain and no mmul of Lupin holds back (R109). -/
theorem State.tile_settleFrees_head {s : State} {c x t q : Nat} {rest : List MatrixRec}
    (hq : (s.core c).mq = .mfree x t q :: rest ∨ (s.core c).mq = .clear x t q :: rest)
    (hd : (s.core c).drainHolds x t q = false) (hl : (s.core c).lupinAdds x t q = false) :
    (s.settleFrees c).tile c x t = Tile.empty := by
  obtain ⟨o, ho, hq⟩ : ∃ o, (o = .mfree x t q ∨ o = .clear x t q) ∧ (s.core c).mq = o :: rest :=
    hq.elim (fun h => ⟨_, .inl rfl, h⟩) (fun h => ⟨_, .inr rfl, h⟩)
  refine tile_settleFrees_of_freed ?_
  rw [hq, freeReady_cons_freed (Core.freedBy_free ho rfl hd hl)]
  exact List.mem_cons_self ..

/-! ### An operation enters the queue -/

@[simp] theorem State.core_updCore (s : State) (c : Nat) (f : Core → Core) : (s.updCore c f).core c = f (s.core c) := core_setCore ..

@[simp] theorem State.enqueueMatrix_mem (s : State) (c : Nat) (f : Nat → MatrixRec) : (s.enqueueMatrix c f).mem = s.mem :=
  settleFrees_mem ..
@[simp] theorem State.enqueueMatrix_ctxs (s : State) (c : Nat) (f : Nat → MatrixRec) : (s.enqueueMatrix c f).ctxs = s.ctxs :=
  settleFrees_ctxs ..
@[simp] theorem State.enqueueMatrix_launches (s : State) (c : Nat) (f : Nat → MatrixRec) :
    (s.enqueueMatrix c f).launches = s.launches :=
  settleFrees_launches ..

/-- An mfree that waits for nothing empties its tile as it enters the queue (R109). -/
theorem State.tile_enqueueMatrix_mfree {s : State} {c x t : Nat} (hq : (s.core c).mq.any (MatrixRec.touches x t) = false)
    (hd : (s.core c).drainHolds x t (s.core c).nextSeq = false) (hl : (s.core c).lupinAdds x t (s.core c).nextSeq = false) :
    (s.enqueueMatrix c (fun q => .mfree x t q)).tile c x t = Tile.empty := by
  refine tile_settleFrees_of_freed ?_
  rw [core_updCore]
  exact freed_last hq hd hl

/-- An mfree behind an mmul into its tile waits in the queue and leaves the tile (R109). -/
theorem State.enqueueMatrix_mfree_waits {s : State} {c : Nat} {m : MmulRec} {th : Thread} {pc : BitVec 48} {p : Nat}
    (hm : .mmul m th pc p ∈ (s.core c).mq) (ht : m.tile < 16)
    (hf : ∀ y w q, .mfree y w q ∈ (s.core c).mq ∨ .clear y w q ∈ (s.core c).mq → w < 16 ∧ (y, w) ≠ (m.ctx, m.tile)) :
    (s.enqueueMatrix c (fun q => .mfree m.ctx m.tile q)).tile c m.ctx m.tile = s.tile c m.ctx m.tile ∧
      .mfree m.ctx m.tile (s.core c).nextSeq ∈ ((s.enqueueMatrix c (fun q => .mfree m.ctx m.tile q)).core c).mq := by
  unfold enqueueMatrix
  constructor
  · refine tile_settleFrees_of_ne ht fun e he => ?_
    rw [core_updCore, freeReady_mfree_waits hm] at he
    obtain ⟨q, hq⟩ := freed_mem he
    exact hf e.1 e.2 q hq
  · rw [settleFrees_mq, core_updCore, freeReady_mfree_waits hm]
    exact List.mem_append_right _ (List.mem_singleton_self _)

/-! ### A bundle issues -/

theorem State.noteLate_tiles (s : State) (c : Nat) : (s.noteLate c).tiles = s.tiles := by unfold noteLate; split <;> rfl
theorem State.noteLate_mem (s : State) (c : Nat) : (s.noteLate c).mem = s.mem := by unfold noteLate; split <;> rfl
theorem State.noteLate_ctxs (s : State) (c : Nat) : (s.noteLate c).ctxs = s.ctxs := by unfold noteLate; split <;> rfl
theorem State.noteLate_launches (s : State) (c : Nat) : (s.noteLate c).launches = s.launches := by unfold noteLate; split <;> rfl

theorem State.core_noteLate (s : State) (c : Nat) : (s.noteLate c).core c = { s.core c with victim := none } := by
  unfold noteLate
  split
  · next h => rw [← h]
  · exact core_updCore ..

@[simp] theorem State.noteIssue_tiles (s : State) (c x n : Nat) : (s.noteIssue c x n).tiles = s.tiles := s.noteLate_tiles c
@[simp] theorem State.noteIssue_mem (s : State) (c x n : Nat) : (s.noteIssue c x n).mem = s.mem := s.noteLate_mem c
@[simp] theorem State.noteIssue_ctxs (s : State) (c x n : Nat) : (s.noteIssue c x n).ctxs = s.ctxs := s.noteLate_ctxs c
@[simp] theorem State.noteIssue_launches (s : State) (c x n : Nat) : (s.noteIssue c x n).launches = s.launches := s.noteLate_launches c

theorem State.core_noteIssue (s : State) (c x n : Nat) : (s.noteIssue c x n).core c =
    { s.core c with victim := none, lastCtx := x, lastYield := n == 1, workSince := s.time } := by
  have h : (s.noteLate c).bump.core c = { s.core c with victim := none } := s.core_noteLate c
  rw [noteIssue, core_updCore, h]

@[simp] theorem State.onward_mem (s : State) (c x : Nat) (pc : BitVec 48) : (s.onward c x pc).mem = s.mem := rfl
@[simp] theorem State.onward_launches (s : State) (c x : Nat) (pc : BitVec 48) : (s.onward c x pc).launches = s.launches := rfl
@[simp] theorem State.tile_onward (s : State) (c x : Nat) (pc : BitVec 48) : (s.onward c x pc).tile = s.tile := rfl
@[simp] theorem State.core_onward (s : State) (c x : Nat) (pc : BitVec 48) : (s.onward c x pc).core = s.core := rfl

theorem State.ctx_onward (s : State) (c x : Nat) (pc : BitVec 48) : (s.onward c x pc).ctx c x = { s.ctx c x with pc := pc + 128 } :=
  ctx_setCtx ..

/-! ### The matrix slot (R48, R112) -/

section
variable {c x : Nat} {h : SlotHdr} {f : MatrixF} {s : State}

theorem oneSlot_matrix_ok {o : MatrixOp} {t : State} (hi : Issues s c x h (.matrix o f))
    (he : matrixSlot c x s (oneHeader h (.matrix o f)) h o f (s.noteIssue c x h.hint.toNat) = .ok t) :
    oneSlot c x h (.matrix o f) s = t.onward c x (s.ctx c x).pc := by
  rw [oneSlot_ok hi he (bundleEnds_no (by simp)), nextPc_seq (by simp)]
  rfl

/-- An operation that is illegal in the context's mode ends the tile-thread with ILLEGAL_BUNDLE (R64, R112). -/
theorem oneSlot_matrix_illegal {o : MatrixOp} (hi : Issues s c x h (.matrix o f))
    (he : matrixSlot c x s (oneHeader h (.matrix o f)) h o f (s.noteIssue c x h.hint.toNat) =
      .error (fault1 1 4 (oneHeader h (.matrix o f)))) :
    ∃ e : CoreFault, e.code = 1 ∧ (.next (oneSlot c x h (.matrix o f) s) : Host.Outcome State Fault Refusal) =
      .next ((s.noteIssue c x h.hint.toNat).preciseFault c x e) :=
  ⟨_, rfl, congrArg _ (oneSlot_error hi he)⟩

theorem mmulIssue_nest {pre : State} (hd : Nat) (hk : (pre.ctx c x).kmode = true) :
    mmulIssue c x pre hd f = .error (fault1 1 4 hd) := by
  unfold mmulIssue
  rw [if_pos (.inl hk)]
  rfl

/-- The operations that TILE mode has raise ILLEGAL_BUNDLE in NEST mode (R112). -/
theorem matrixSlot_nest {pre : State} {o : MatrixOp} (hd : Nat) (ho : o ≠ .lrun) (hk : (pre.ctx c x).kmode = true) :
    matrixSlot c x pre hd h o f s = .error (fault1 1 4 hd) := by
  cases o with
  | mmul => simp [matrixSlot, mmulIssue_nest hd hk, fault1]
  | mdrain => simp [matrixSlot, hk]
  | mfree => simp [matrixSlot, hk]
  | lrun => exact absurd rfl ho

/-- An lrun raises ILLEGAL_BUNDLE in TILE mode (R112). -/
theorem matrixSlot_lrun_tile {pre : State} (hd : Nat) (hk : (pre.ctx c x).kmode = false) :
    matrixSlot c x pre hd h .lrun f s = .error (fault1 1 4 hd) := by
  simp [matrixSlot, hk]

theorem oneSlot_mmul {m : MmulRec} (hx : Executes s c x h) (hi : Issues s c x h (.matrix .mmul f))
    (hm : mmulIssue c x s (oneHeader h (.matrix .mmul f)) f = .ok m) :
    oneSlot c x h (.matrix .mmul f) s =
      ((s.noteIssue c x h.hint.toNat).enqueueMatrix c
        (fun q => .mmul m ((s.ctx c x).tt.getD { launch := 0, index := 0 }) (s.ctx c x).pc q)).onward c x (s.ctx c x).pc :=
  oneSlot_matrix_ok hi (by simp only [matrixSlot, hm, hx, if_true])

theorem oneSlot_mdrain {d : Desc} {r : DrainRec} (hx : Executes s c x h) (hi : Issues s c x h (.matrix .mdrain f))
    (hk : (s.ctx c x).kmode = false) (ht : f.td.toNat < (s.ctx c x).accTiles)
    (hd : descAt c x s 4 ((s.ctx c x).getD f.desc.toNat).toNat = .ok d)
    (hr : drainIssue c x s f.td.toNat f.chain.toNat (offAddr ((s.ctx c x).getA f.adst.toNat) f.offs) d
      ((s.ctx c x).getD f.desc.toNat).toNat (tileXs (s.ctx c x) f.chain.toNat) none
      ((s.ctx c x).tt.getD { launch := 0, index := 0 }) (s.ctx c x).pc = .ok r) :
    oneSlot c x h (.matrix .mdrain f) s =
      ((s.noteIssue c x h.hint.toNat).enqueueMatrix c (fun q => .mdrain { r with seq := q })).onward c x (s.ctx c x).pc :=
  oneSlot_matrix_ok hi (by
    simp only [matrixSlot, hk, hx, hd, hr, Nat.not_le.mpr ht, Bool.not_true, Bool.false_eq_true, if_false])

theorem oneSlot_mfree (hx : Executes s c x h) (hi : Issues s c x h (.matrix .mfree f))
    (hk : (s.ctx c x).kmode = false) (ht : f.td.toNat < (s.ctx c x).accTiles) :
    oneSlot c x h (.matrix .mfree f) s =
      ((s.noteIssue c x h.hint.toNat).enqueueMatrix c (fun q => .mfree x f.td.toNat q)).onward c x (s.ctx c x).pc :=
  oneSlot_matrix_ok hi (by simp only [matrixSlot, hk, hx, Nat.not_le.mpr ht, Bool.not_true, Bool.false_eq_true, if_false])

theorem oneSlot_lrun (hx : Executes s c x h) (hi : Issues s c x h (.matrix .lrun f)) (hk : (s.ctx c x).kmode = true) :
    oneSlot c x h (.matrix .lrun f) s =
      ((s.noteIssue c x h.hint.toNat).enqueueMatrix c
        (fun q => .lrun x ((s.ctx c x).tt.getD { launch := 0, index := 0 }) (s.ctx c x).pc
          ((s.ctx c x).getD f.desc.toNat).toNat q (oneHeader h (.matrix .lrun f)))).onward c x (s.ctx c x).pc :=
  oneSlot_matrix_ok hi (by simp only [matrixSlot, hk, hx, Bool.not_true, Bool.false_eq_true, if_false])

/-- R109: an mfree that waits for nothing empties its tile; memory, the launches and the tile-thread stay as they were. -/
theorem oneSlot_mfree_empties (hx : Executes s c x h) (hi : Issues s c x h (.matrix .mfree f))
    (hk : (s.ctx c x).kmode = false) (ht : f.td.toNat < (s.ctx c x).accTiles)
    (hq : (s.core c).mq.any (MatrixRec.touches x f.td.toNat) = false)
    (hd : (s.core c).drainHolds x f.td.toNat (s.core c).nextSeq = false)
    (hl : (s.core c).lupinAdds x f.td.toNat (s.core c).nextSeq = false) :
    (oneSlot c x h (.matrix .mfree f) s).tile c x f.td.toNat = Tile.empty ∧ (oneSlot c x h (.matrix .mfree f) s).mem = s.mem ∧
      ((oneSlot c x h (.matrix .mfree f) s).ctx c x).tt = (s.ctx c x).tt ∧
      (oneSlot c x h (.matrix .mfree f) s).launches = s.launches := by
  rw [oneSlot_mfree hx hi hk ht]
  refine ⟨State.tile_enqueueMatrix_mfree ?_ ?_ ?_, ?_, ?_, ?_⟩
  · rw [State.core_noteIssue]; exact hq
  · rw [State.core_noteIssue]; exact hd
  · rw [State.core_noteIssue]; exact hl
  · simp
  · rw [State.ctx_onward, State.ctx, State.enqueueMatrix_ctxs, State.noteIssue_ctxs]
    rfl
  · simp

/-- R109: an mfree behind an mmul into its tile leaves the tile and stands in the queue. -/
theorem oneSlot_mfree_waits (hx : Executes s c x h) (hi : Issues s c x h (.matrix .mfree f))
    (hk : (s.ctx c x).kmode = false) (ht : f.td.toNat < (s.ctx c x).accTiles) {m : MmulRec} {th : Thread} {pc : BitVec 48} {p : Nat}
    (hm : .mmul m th pc p ∈ (s.core c).mq) (hc : m.ctx = x) (htd : m.tile = f.td.toNat)
    (hf : ∀ y w q, .mfree y w q ∈ (s.core c).mq ∨ .clear y w q ∈ (s.core c).mq → w < 16 ∧ (y, w) ≠ (x, f.td.toNat)) :
    (oneSlot c x h (.matrix .mfree f) s).tile c x f.td.toNat = s.tile c x f.td.toNat ∧
      .mfree x f.td.toNat (s.core c).nextSeq ∈ ((oneSlot c x h (.matrix .mfree f) s).core c).mq := by
  subst hc
  have hcore := s.core_noteIssue c m.ctx h.hint.toNat
  have hmq : ((s.noteIssue c m.ctx h.hint.toNat).core c).mq = (s.core c).mq := by rw [hcore]
  have hseq : ((s.noteIssue c m.ctx h.hint.toNat).core c).nextSeq = (s.core c).nextSeq := by rw [hcore]
  have htile : (s.noteIssue c m.ctx h.hint.toNat).tile c m.ctx m.tile = s.tile c m.ctx m.tile := by
    rw [State.tile, State.noteIssue_tiles]; rfl
  rw [oneSlot_mfree hx hi hk ht, State.tile_onward, State.core_onward, ← htd, ← hseq, ← htile]
  exact State.enqueueMatrix_mfree_waits (by rwa [hmq]) (by rw [htd]; exact f.td.isLt) (by rwa [hmq, htd])

end

/-- Settles O12: an mfree at its turn empties its tile and nothing else, one behind an mmul waits; the other clauses are the cases
of the matrix slot. -/
theorem matrixIssue : Obligations.MatrixIssue := by
  unfold Obligations.MatrixIssue
  refine ⟨?_, ?_, ?_, ?_⟩
  · intro c x h f s hx hk hi ht
    refine ⟨fun hq hd hl => ⟨_, rfl, oneSlot_mfree_empties hx hi hk ht hq hd hl⟩, ?_⟩
    intro m th pc q hm hc htd hf
    exact ⟨_, rfl, oneSlot_mfree_waits hx hi hk ht hm hc htd hf⟩
  · intro c x t q s rest hq hd hl
    exact ⟨State.tile_settleFrees_head hq hd hl, State.settleFrees_mem s c⟩
  · intro c x h f s _
    have nest {o : MatrixOp} (ho : o ≠ .lrun) (hk : (s.ctx c x).kmode = true) (hi : Issues s c x h (.matrix o f)) :=
      oneSlot_matrix_illegal hi (matrixSlot_nest _ ho hk)
    exact ⟨fun hk => ⟨nest (by decide) hk, nest (by decide) hk, nest (by decide) hk⟩,
      fun hk hi => oneSlot_matrix_illegal hi (matrixSlot_lrun_tile _ hk)⟩
  · intro c x h f s hx
    exact ⟨fun m hi hm => congrArg _ (oneSlot_mmul hx hi hm),
      fun d r hi hk ht hd hr => congrArg _ (oneSlot_mdrain hx hi hk ht hd hr),
      fun hi hk ht => congrArg _ (oneSlot_mfree hx hi hk ht), fun hi hk => congrArg _ (oneSlot_lrun hx hi hk)⟩

end Sys2Proof.Machine
end

section
/-!
The DRAM window (R409, R411): what a read that finds poison answers and posts, and which poisoned lines a write leaves.
-/

namespace Sys2Proof.Machine

/-! ### Poison and the lines that a write covers -/

theorem mem_clearPoison {ps : List Nat} {a n l : Nat} :
    l ∈ clearPoison ps a n ↔ l ∈ ps ∧ ¬(a ≤ 64 * l ∧ 64 * l + 64 ≤ a + n) := by
  rw [clearPoison, List.mem_filter, Bool.not_eq_true', decide_eq_false_iff_not]

/-- A write clears the poison of the lines it covers whole, and of no other (R207). -/
theorem State.mem_poison_write (s : State) {a l : Nat} {bs : List Byte} (hb : bs ≠ []) :
    l ∈ (s.write a bs).poison ↔ l ∈ s.poison ∧ ¬(a ≤ 64 * l ∧ 64 * l + 64 ≤ a + bs.length) := by
  rw [State.write, if_neg hb]
  exact mem_clearPoison

/-- A span with a poisoned byte has a first one. -/
theorem exists_first_poisoned {ps : List Nat} {a n i : Nat} (hi : i < n) (h : ps.contains ((a + i) / 64) = true) :
    ∃ j ≤ i, ps.contains ((a + j) / 64) = true ∧
      (List.range n).find? (fun i => ps.contains ((a + i) / 64)) = some j := by
  have hs : ((List.range n).find? (fun i => ps.contains ((a + i) / 64))).isSome = true :=
    List.find?_isSome.mpr ⟨i, List.mem_range.mpr hi, h⟩
  obtain ⟨j, hj⟩ := Option.isSome_iff_exists.mp hs
  obtain ⟨hpj, -, hmin⟩ := List.find?_range_eq_some.mp hj
  exact ⟨j, Nat.le_of_not_lt fun hlt => absurd h (by simpa using hmin i hlt), hpj, hj⟩

/-! ### The window decodes and checks an access -/

section
variable {s : State} {p off n a : Nat}

/-- The DRAM window decodes an access of function `p` that lies in its BAR4 (R409). -/
theorem State.bar4At_eq (hl : s.linkUp = true) (hp : p < 16) (hf : s.funcHere p = true) (hn : 0 < n)
    (hb : off + n ≤ 2 ^ ((s.func (if p = 0 then 0 else 16)).bar4 + 30)) :
    s.bar4At p off n = some ((s.page p).bar4 * granule + off) :=
  if_pos ⟨hl, hp, hf, hn, hb⟩

theorem State.bar4Ok_iff {write : Bool} :
    s.bar4Ok p a n write = true ↔ a + n ≤ 2 * dieBytes ∧ s.permits p a n (!write) write false = true := by
  simp [State.bar4Ok]

/-- R411: a permitted read whose first poisoned byte is number `j` answers ones, marked as poisoned, and posts MGD_POISON
for that byte. -/
theorem bar4Read_poisoned {j : Nat} (ha : s.bar4At p off n = some a) (hok : s.bar4Ok p a n false = true)
    (hj : (List.range n).find? (fun i => s.poison.contains ((a + i) / 64)) = some j) :
    bar4Read p off n s =
      State.event { s with sent := s.sent ++ [.host p (List.replicate n 0xFF) true] } p 0x24 (a + j) := by
  simp only [bar4Read, ha, hok, hj, Bool.not_true, Bool.false_eq_true, if_false]

/-- A permitted write through the window is a write of device memory (R409). -/
theorem bar4Write_permitted {bs : List Byte} (ha : s.bar4At p off bs.length = some a)
    (hok : s.bar4Ok p a bs.length true = true) : bar4Write p off bs s = s.write a bs := by
  simp only [bar4Write, ha, hok, if_true]

end

/-- Settles O56: a read answers for the first poisoned byte of its span, and a permitted write is a write of device memory. -/
theorem poisonedWindow : Obligations.PoisonedWindow := by
  unfold Obligations.PoisonedWindow
  intro p off n s hl hp hf hn hb a ha
  have hat : s.bar4At p off n = some a := State.bar4At_eq hl hp hf hn hb
  constructor
  · intro hr i hi hpoison
    obtain ⟨j, hji, hpj, hfirst⟩ := exists_first_poisoned hi hpoison
    exact ⟨j, hji, hpj, congrArg _ (bar4Read_poisoned hat (State.bar4Ok_iff.mpr ⟨ha, hr⟩) hfirst)⟩
  · intro bs hlen hw
    subst hlen
    have hwrite := bar4Write_permitted hat (State.bar4Ok_iff.mpr ⟨ha, hw⟩)
    exact ⟨s.write a bs, congrArg _ hwrite, fun _ => s.mem_poison_write (List.ne_nil_of_length_pos hn)⟩

end Sys2Proof.Machine
end

section
/-!
The step (log 1): every command keeps the queue behind it, the clock's direction, the patch floor and the canonical form of
memory, and so does a tick of an empty queue.
-/

namespace Sys2Proof.Machine

/-- What every command keeps, by the law of its row. -/
theorem exec_keeps {i : Instr} {s t : State} (h : exec i s = .next t) : Keeps s t := by
  cases i with
  | bundleIssue _ => exact keeps_of_kept (execBundleIssue_kept _ _ h)
  | icacheLineFill _ _ => exact keeps_of_kept (execIcacheLineFill_kept _ _ _ h)
  | add _ _ _ _ => exact keeps_of_kept (execAdd_kept _ _ _ _ _ h)
  | sub _ _ _ _ => exact keeps_of_kept (execSub_kept _ _ _ _ _ h)
  | and _ _ _ _ => exact keeps_of_kept (execAnd_kept _ _ _ _ _ h)
  | or _ _ _ _ => exact keeps_of_kept (execOr_kept _ _ _ _ _ h)
  | xor _ _ _ _ => exact keeps_of_kept (execXor_kept _ _ _ _ _ h)
  | shl _ _ _ _ => exact keeps_of_kept (execShl_kept _ _ _ _ _ h)
  | shr _ _ _ _ => exact keeps_of_kept (execShr_kept _ _ _ _ _ h)
  | sra _ _ _ _ => exact keeps_of_kept (execSra_kept _ _ _ _ _ h)
  | min _ _ _ _ => exact keeps_of_kept (execMin_kept _ _ _ _ _ h)
  | max _ _ _ _ => exact keeps_of_kept (execMax_kept _ _ _ _ _ h)
  | minu _ _ _ _ => exact keeps_of_kept (execMinu_kept _ _ _ _ _ h)
  | maxu _ _ _ _ => exact keeps_of_kept (execMaxu_kept _ _ _ _ _ h)
  | mul _ _ _ _ => exact keeps_of_kept (execMul_kept _ _ _ _ _ h)
  | mulh _ _ _ _ => exact keeps_of_kept (execMulh_kept _ _ _ _ _ h)
  | mulhu _ _ _ _ => exact keeps_of_kept (execMulhu_kept _ _ _ _ _ h)
  | div _ _ _ _ => exact keeps_of_kept (execDiv_kept _ _ _ _ _ h)
  | divu _ _ _ _ => exact keeps_of_kept (execDivu_kept _ _ _ _ _ h)
  | rem _ _ _ _ => exact keeps_of_kept (execRem_kept _ _ _ _ _ h)
  | remu _ _ _ _ => exact keeps_of_kept (execRemu_kept _ _ _ _ _ h)
  | cmpEq _ _ _ _ => exact keeps_of_kept (execCmpEq_kept _ _ _ _ _ h)
  | cmpNe _ _ _ _ => exact keeps_of_kept (execCmpNe_kept _ _ _ _ _ h)
  | cmpLt _ _ _ _ => exact keeps_of_kept (execCmpLt_kept _ _ _ _ _ h)
  | cmpLtu _ _ _ _ => exact keeps_of_kept (execCmpLtu_kept _ _ _ _ _ h)
  | cmpGe _ _ _ _ => exact keeps_of_kept (execCmpGe_kept _ _ _ _ _ h)
  | cmpGeu _ _ _ _ => exact keeps_of_kept (execCmpGeu_kept _ _ _ _ _ h)
  | adda _ _ _ _ => exact keeps_of_kept (execAdda_kept _ _ _ _ _ h)
  | mova _ _ _ _ => exact keeps_of_kept (execMova_kept _ _ _ _ _ h)
  | movs _ _ _ _ => exact keeps_of_kept (execMovs_kept _ _ _ _ _ h)
  | rdsr _ _ _ _ => exact keeps_of_kept (execRdsr_kept _ _ _ _ _ h)
  | ld8 _ _ _ _ => exact keeps_of_kept (execLd8_kept _ _ _ _ _ h)
  | ld16 _ _ _ _ => exact keeps_of_kept (execLd16_kept _ _ _ _ _ h)
  | ld32 _ _ _ _ => exact keeps_of_kept (execLd32_kept _ _ _ _ _ h)
  | ld64 _ _ _ _ => exact keeps_of_kept (execLd64_kept _ _ _ _ _ h)
  | st8 _ _ _ _ => exact keeps_of_kept (execSt8_kept _ _ _ _ _ h)
  | st16 _ _ _ _ => exact keeps_of_kept (execSt16_kept _ _ _ _ _ h)
  | st32 _ _ _ _ => exact keeps_of_kept (execSt32_kept _ _ _ _ _ h)
  | st64 _ _ _ _ => exact keeps_of_kept (execSt64_kept _ _ _ _ _ h)
  | br _ _ _ _ => exact keeps_of_kept (execBr_kept _ _ _ _ _ h)
  | brz _ _ _ _ => exact keeps_of_kept (execBrz_kept _ _ _ _ _ h)
  | brnz _ _ _ _ => exact keeps_of_kept (execBrnz_kept _ _ _ _ _ h)
  | brdec _ _ _ _ => exact keeps_of_kept (execBrdec_kept _ _ _ _ _ h)
  | call _ _ _ _ => exact keeps_of_kept (execCall_kept _ _ _ _ _ h)
  | jr _ _ _ _ => exact keeps_of_kept (execJr_kept _ _ _ _ _ h)
  | endOp _ _ _ _ => exact keeps_of_kept (execEndOp_kept _ _ _ _ _ h)
  | tileThreadStart _ _ _ => exact keeps_of_kept (execTileThreadStart_kept _ _ _ _ h)
  | tld _ _ _ _ => exact keeps_of_kept (execTld_kept _ _ _ _ _ h)
  | tldz _ _ _ _ => exact keeps_of_kept (execTldz_kept _ _ _ _ _ h)
  | tcpy _ _ _ _ => exact keeps_of_kept (execTcpy_kept _ _ _ _ _ h)
  | tst _ _ _ _ => exact keeps_of_kept (execTst_kept _ _ _ _ _ h)
  | tstAddf _ _ _ _ => exact keeps_of_kept (execTstAddf_kept _ _ _ _ _ h)
  | tstAddi _ _ _ _ => exact keeps_of_kept (execTstAddi_kept _ _ _ _ _ h)
  | moverOpComplete _ _ _ => exact keeps_of_kept (execMoverOpComplete_kept _ _ _ _ h)
  | mmul _ _ _ _ => exact keeps_of_kept (execMmul_kept _ _ _ _ _ h)
  | mmulChunkDone _ => exact keeps_of_kept (execMmulChunkDone_kept _ _ h)
  | mdrain _ _ _ _ => exact keeps_of_kept (execMdrain_kept _ _ _ _ _ h)
  | drainStart _ => exact keeps_of_kept (execDrainStart_kept _ _ h)
  | drainRerun _ => exact keeps_of_kept (execDrainRerun_kept _ _ h)
  | drainWritten _ => exact keeps_of_kept (execDrainWritten_kept _ _ h)
  | mfree _ _ _ _ => exact keeps_of_kept (execMfree_kept _ _ _ _ _ h)
  | lrun _ _ _ _ => exact keeps_of_kept (execLrun_kept _ _ _ _ _ h)
  | lrunExpandStart _ => exact keeps_of_kept (execLrunExpandStart_kept _ _ h)
  | lupinIteration _ => exact keeps_of_kept (execLupinIteration_kept _ _ h)
  | lrunComplete _ => exact keeps_of_kept (execLrunComplete_kept _ _ h)
  | vadd _ _ _ _ => exact keeps_of_kept (execVadd_kept _ _ _ _ _ h)
  | vsub _ _ _ _ => exact keeps_of_kept (execVsub_kept _ _ _ _ _ h)
  | vmul _ _ _ _ => exact keeps_of_kept (execVmul_kept _ _ _ _ _ h)
  | vmin _ _ _ _ => exact keeps_of_kept (execVmin_kept _ _ _ _ _ h)
  | vmax _ _ _ _ => exact keeps_of_kept (execVmax_kept _ _ _ _ _ h)
  | vfma _ _ _ _ => exact keeps_of_kept (execVfma_kept _ _ _ _ _ h)
  | vabs _ _ _ _ => exact keeps_of_kept (execVabs_kept _ _ _ _ _ h)
  | vneg _ _ _ _ => exact keeps_of_kept (execVneg_kept _ _ _ _ _ h)
  | vand _ _ _ _ => exact keeps_of_kept (execVand_kept _ _ _ _ _ h)
  | vor _ _ _ _ => exact keeps_of_kept (execVor_kept _ _ _ _ _ h)
  | vxor _ _ _ _ => exact keeps_of_kept (execVxor_kept _ _ _ _ _ h)
  | vshl _ _ _ _ => exact keeps_of_kept (execVshl_kept _ _ _ _ _ h)
  | vshr _ _ _ _ => exact keeps_of_kept (execVshr_kept _ _ _ _ _ h)
  | vsra _ _ _ _ => exact keeps_of_kept (execVsra_kept _ _ _ _ _ h)
  | vcmpEq _ _ _ _ => exact keeps_of_kept (execVcmpEq_kept _ _ _ _ _ h)
  | vcmpNe _ _ _ _ => exact keeps_of_kept (execVcmpNe_kept _ _ _ _ _ h)
  | vcmpLt _ _ _ _ => exact keeps_of_kept (execVcmpLt_kept _ _ _ _ _ h)
  | vcmpLe _ _ _ _ => exact keeps_of_kept (execVcmpLe_kept _ _ _ _ _ h)
  | vsel _ _ _ _ => exact keeps_of_kept (execVsel_kept _ _ _ _ _ h)
  | vcvt _ _ _ _ => exact keeps_of_kept (execVcvt_kept _ _ _ _ _ h)
  | vperm _ _ _ _ => exact keeps_of_kept (execVperm_kept _ _ _ _ _ h)
  | vbcast _ _ _ _ => exact keeps_of_kept (execVbcast_kept _ _ _ _ _ h)
  | vredAdd _ _ _ _ => exact keeps_of_kept (execVredAdd_kept _ _ _ _ _ h)
  | vredMax _ _ _ _ => exact keeps_of_kept (execVredMax_kept _ _ _ _ _ h)
  | vredMin _ _ _ _ => exact keeps_of_kept (execVredMin_kept _ _ _ _ _ h)
  | vld _ _ _ _ => exact keeps_of_kept (execVld_kept _ _ _ _ _ h)
  | vst _ _ _ _ => exact keeps_of_kept (execVst_kept _ _ _ _ _ h)
  | rng _ _ _ _ => exact keeps_of_kept (execRng_kept _ _ _ _ _ h)
  | vidx _ _ _ _ => exact keeps_of_kept (execVidx_kept _ _ _ _ _ h)
  | sfu _ _ _ _ => exact keeps_of_kept (execSfu_kept _ _ _ _ _ h)
  | sfuGate _ _ _ _ => exact keeps_of_kept (execSfuGate_kept _ _ _ _ _ h)
  | tblCommit _ _ _ _ => exact keeps_of_kept (execTblCommit_kept _ _ _ _ _ h)
  | tblCheckDone _ _ => exact keeps_of_kept (execTblCheckDone_kept _ _ _ h)
  | tableSwitch _ _ => exact keeps_of_kept (execTableSwitch_kept _ _ _ h)
  | fence _ _ _ _ => exact keeps_of_kept (execFence_kept _ _ _ _ _ h)
  | fenceSatisfied _ _ => exact keeps_of_kept (execFenceSatisfied_kept _ _ _ h)
  | mwait _ _ _ _ => exact keeps_of_kept (execMwait_kept _ _ _ _ _ h)
  | mwaitSatisfied _ _ => exact keeps_of_kept (execMwaitSatisfied_kept _ _ _ h)
  | semSig _ _ _ _ => exact keeps_of_kept (execSemSig_kept _ _ _ _ _ h)
  | semSigApply _ => exact keeps_of_kept (execSemSigApply_kept _ _ h)
  | semWait _ _ _ _ => exact keeps_of_kept (execSemWait_kept _ _ _ _ _ h)
  | semWaitSatisfied _ _ => exact keeps_of_kept (execSemWaitSatisfied_kept _ _ _ h)
  | semTake _ _ _ _ => exact keeps_of_kept (execSemTake_kept _ _ _ _ _ h)
  | semTakeServed _ _ => exact keeps_of_kept (execSemTakeServed_kept _ _ _ h)
  | semRd _ _ _ _ => exact keeps_of_kept (execSemRd_kept _ _ _ _ _ h)
  | claim _ _ _ _ => exact keeps_of_kept (execClaim_kept _ _ _ _ _ h)
  | fbar _ _ _ _ => exact keeps_of_kept (execFbar_kept _ _ _ _ _ h)
  | barrierOpen _ _ _ => exact keeps_of_kept (execBarrierOpen_kept _ _ _ _ h)
  | launchComplete _ => exact keeps_of_kept (execLaunchComplete_kept _ _ h)
  | foxItemStart _ => exact keeps_of_kept (execFoxItemStart_kept _ _ h)
  | mapEpochPin _ => exact keeps_of_kept (execMapEpochPin_kept _ _ h)
  | foxLabFill _ _ => exact keeps_of_kept (execFoxLabFill_kept _ _ _ h)
  | foxBlockCompute _ => exact keeps_of_kept (execFoxBlockCompute_kept _ _ h)
  | foxItemComplete _ => exact keeps_of_kept (execFoxItemComplete_kept _ _ h)
  | mapEditBatch _ => exact keeps_of_kept (execMapEditBatch_kept _ _ h)
  | primJobStart _ => exact keeps_of_kept (execPrimJobStart_kept _ _ h)
  | primJobComplete _ => exact keeps_of_kept (execPrimJobComplete_kept _ _ h)
  | engineDispatch _ _ => exact keeps_of_kept (execEngineDispatch_kept _ _ _ h)
  | hotWindowEnd _ _ _ _ _ => exact keeps_of_kept (execHotWindowEnd_kept _ _ _ _ _ _ h)
  | dramRowSpare _ _ _ => exact keeps_of_kept (execDramRowSpare_kept _ _ _ _ h)
  | dramPatrolScrub _ _ => exact keeps_of_kept (execDramPatrolScrub_kept _ _ _ h)
  | dramRefresh _ _ => exact keeps_of_kept (execDramRefresh_kept _ _ _ h)
  | dramChannelPowerDown _ _ => exact keeps_of_kept (execDramChannelPowerDown_kept _ _ _ h)
  | regionDrainDone _ _ => exact keeps_of_kept (execRegionDrainDone_kept _ _ _ h)
  | wwPositionRead _ => exact keeps_of_kept (execWwPositionRead_kept _ _ h)
  | wwLayerReady _ => exact keeps_of_kept (execWwLayerReady_kept _ _ h)
  | wwRungReady _ => exact keeps_of_kept (execWwRungReady_kept _ _ h)
  | flashDecodeResult _ _ => exact keeps_of_kept (execFlashDecodeResult_kept _ _ _ h)
  | flashRelocate _ _ => exact keeps_of_kept (execFlashRelocate_kept _ _ _ h)
  | programFailure _ => exact keeps_of_kept (execProgramFailure_kept _ _ h)
  | eraseFailure _ => exact keeps_of_kept (execEraseFailure_kept _ _ h)
  | dieFailed _ => exact keeps_of_kept (execDieFailed_kept _ _ h)
  | dieRebuild _ _ => exact keeps_of_kept (execDieRebuild_kept _ _ _ h)
  | readCountCheck _ _ _ => exact keeps_of_kept (execReadCountCheck_kept _ _ _ _ h)
  | retentionScrub _ _ _ => exact keeps_of_kept (execRetentionScrub_kept _ _ _ _ h)
  | staticWearLevel _ _ => exact keeps_of_kept (execStaticWearLevel_kept _ _ _ h)
  | garbageCollection _ _ => exact keeps_of_kept (execGarbageCollection_kept _ _ _ h)
  | flashChannelPowerDown _ => exact keeps_of_kept (execFlashChannelPowerDown_kept _ _ h)
  | wearGovernorTick => exact keeps_of_kept (execWearGovernorTick_kept _ h)
  | mbxCtrlWrite _ _ => exact keeps_of_kept (execMbxCtrlWrite_kept _ _ _ h)
  | mbxCmdTailWrite _ _ => exact keeps_of_kept (execMbxCmdTailWrite_kept _ _ _ h)
  | mbxCmpHeadWrite _ _ => exact keeps_of_kept (execMbxCmpHeadWrite_kept _ _ _ h)
  | mailboxTurn => exact keeps_of_kept (execMailboxTurn_kept _ h)
  | bgCommandFinish _ _ _ => exact keeps_of_kept (execBgCommandFinish_kept _ _ _ _ h)
  | completionPost _ => exact keeps_of_kept (execCompletionPost_kept _ _ h)
  | cpWatchdogExpire => exact keeps_of_kept (execCpWatchdogExpire_kept _ h)
  | cpSramUncorrectable => exact keeps_of_kept (execCpSramUncorrectable_kept _ h)
  | cpRestartDone => exact execCpRestartDone_keeps h
  | openSession _ _ _ _ _ _ _ _ => exact keeps_of_kept (execOpenSession_kept _ _ _ _ _ _ _ _ _ h)
  | closeSession _ _ => exact keeps_of_kept (execCloseSession_kept _ _ _ h)
  | fenceCommand _ _ => exact keeps_of_kept (execFenceCommand_kept _ _ _ h)
  | abort _ _ _ => exact keeps_of_kept (execAbort_kept _ _ _ _ h)
  | getInfo _ _ _ => exact keeps_of_kept (execGetInfo_kept _ _ _ _ h)
  | nop _ _ => exact keeps_of_kept (execNop_kept _ _ _ h)
  | regionCreate _ _ _ _ _ _ => exact keeps_of_kept (execRegionCreate_kept _ _ _ _ _ _ _ h)
  | regionRemove _ _ _ => exact keeps_of_kept (execRegionRemove_kept _ _ _ _ h)
  | regionPerm _ _ _ _ => exact keeps_of_kept (execRegionPerm_kept _ _ _ _ _ h)
  | regionQuery _ _ _ => exact keeps_of_kept (execRegionQuery_kept _ _ _ _ h)
  | regionGrant _ _ _ _ _ _ => exact keeps_of_kept (execRegionGrant_kept _ _ _ _ _ _ _ h)
  | imgLoad _ _ _ _ _ => exact keeps_of_kept (execImgLoad_kept _ _ _ _ _ _ h)
  | imgUnload _ _ _ => exact keeps_of_kept (execImgUnload_kept _ _ _ _ h)
  | imgQuery _ _ _ _ => exact keeps_of_kept (execImgQuery_kept _ _ _ _ _ h)
  | tblLoad _ _ _ _ => exact keeps_of_kept (execTblLoad_kept _ _ _ _ _ h)
  | partCreate _ _ _ _ => exact keeps_of_kept (execPartCreate_kept _ _ _ _ _ h)
  | partDestroy _ _ _ => exact keeps_of_kept (execPartDestroy_kept _ _ _ _ h)
  | partAssign _ _ _ _ => exact keeps_of_kept (execPartAssign_kept _ _ _ _ _ h)
  | partConfig _ _ _ _ => exact keeps_of_kept (execPartConfig_kept _ _ _ _ _ h)
  | qpCreate _ _ _ _ => exact keeps_of_kept (execQpCreate_kept _ _ _ _ _ h)
  | qpDestroy _ _ _ => exact keeps_of_kept (execQpDestroy_kept _ _ _ _ h)
  | qpQuery _ _ _ _ => exact keeps_of_kept (execQpQuery_kept _ _ _ _ _ h)
  | seqQuery _ _ _ _ => exact keeps_of_kept (execSeqQuery_kept _ _ _ _ _ h)
  | seqRemove _ _ _ => exact keeps_of_kept (execSeqRemove_kept _ _ _ _ h)
  | seqHold _ _ _ _ => exact keeps_of_kept (execSeqHold_kept _ _ _ _ _ h)
  | poolCreate _ _ _ => exact keeps_of_kept (execPoolCreate_kept _ _ _ _ h)
  | poolDestroy _ _ _ => exact keeps_of_kept (execPoolDestroy_kept _ _ _ _ h)
  | pageAlloc _ _ _ _ _ => exact keeps_of_kept (execPageAlloc_kept _ _ _ _ _ _ h)
  | pageFree _ _ _ _ _ => exact keeps_of_kept (execPageFree_kept _ _ _ _ _ _ h)
  | pmapCreate _ _ => exact keeps_of_kept (execPmapCreate_kept _ _ _ h)
  | pmapDestroy _ _ _ => exact keeps_of_kept (execPmapDestroy_kept _ _ _ _ h)
  | pmapSetStream _ _ _ _ _ _ _ _ => exact keeps_of_kept (execPmapSetStream_kept _ _ _ _ _ _ _ _ _ h)
  | pmapSetLeaf _ _ _ _ _ _ _ => exact keeps_of_kept (execPmapSetLeaf_kept _ _ _ _ _ _ _ _ h)
  | pmapClear _ _ _ _ _ _ => exact keeps_of_kept (execPmapClear_kept _ _ _ _ _ _ _ h)
  | pmapQuery _ _ _ => exact keeps_of_kept (execPmapQuery_kept _ _ _ _ h)
  | flashLayout _ _ _ => exact keeps_of_kept (execFlashLayout_kept _ _ _ _ h)
  | flashQuery _ _ _ => exact keeps_of_kept (execFlashQuery_kept _ _ _ _ h)
  | tobjCreate _ _ _ => exact keeps_of_kept (execTobjCreate_kept _ _ _ _ h)
  | tobjLoad _ _ _ _ _ _ => exact keeps_of_kept (execTobjLoad_kept _ _ _ _ _ _ _ h)
  | tobjFlush _ _ _ => exact keeps_of_kept (execTobjFlush_kept _ _ _ _ h)
  | tobjEvict _ _ _ => exact keeps_of_kept (execTobjEvict_kept _ _ _ _ h)
  | tobjDestroy _ _ _ => exact keeps_of_kept (execTobjDestroy_kept _ _ _ _ h)
  | tobjQuery _ _ _ => exact keeps_of_kept (execTobjQuery_kept _ _ _ _ h)
  | wpkgOpen _ _ _ => exact keeps_of_kept (execWpkgOpen_kept _ _ _ _ h)
  | wpkgWrite _ _ _ _ _ _ => exact keeps_of_kept (execWpkgWrite_kept _ _ _ _ _ _ _ h)
  | wpkgCommit _ _ _ => exact keeps_of_kept (execWpkgCommit_kept _ _ _ _ h)
  | wpkgDelete _ _ _ => exact keeps_of_kept (execWpkgDelete_kept _ _ _ _ h)
  | wpkgGrant _ _ _ _ _ => exact keeps_of_kept (execWpkgGrant_kept _ _ _ _ _ _ h)
  | wwinStart _ _ _ _ => exact keeps_of_kept (execWwinStart_kept _ _ _ _ _ h)
  | wwinStop _ _ _ => exact keeps_of_kept (execWwinStop_kept _ _ _ _ h)
  | wwinQuery _ _ _ _ => exact keeps_of_kept (execWwinQuery_kept _ _ _ _ _ h)
  | snapSet _ _ _ => exact keeps_of_kept (execSnapSet_kept _ _ _ _ h)
  | snapTake _ _ => exact keeps_of_kept (execSnapTake_kept _ _ _ h)
  | snapList _ _ _ _ => exact keeps_of_kept (execSnapList_kept _ _ _ _ _ h)
  | snapRestore _ _ _ => exact keeps_of_kept (execSnapRestore_kept _ _ _ _ h)
  | snapDelete _ _ _ => exact keeps_of_kept (execSnapDelete_kept _ _ _ _ h)
  | snapExport _ _ _ _ _ => exact keeps_of_kept (execSnapExport_kept _ _ _ _ _ _ h)
  | snapImport _ _ _ _ => exact keeps_of_kept (execSnapImport_kept _ _ _ _ _ h)
  | domConfig _ _ _ => exact keeps_of_kept (execDomConfig_kept _ _ _ _ h)
  | domLeave _ _ => exact keeps_of_kept (execDomLeave_kept _ _ _ h)
  | linkQuery _ _ _ _ => exact keeps_of_kept (execLinkQuery_kept _ _ _ _ _ h)
  | twinConfig _ _ _ => exact keeps_of_kept (execTwinConfig_kept _ _ _ _ h)
  | ftimeQuery _ _ => exact keeps_of_kept (execFtimeQuery_kept _ _ _ h)
  | irsOpen _ _ _ => exact keeps_of_kept (execIrsOpen_kept _ _ _ _ h)
  | irsClose _ _ _ => exact keeps_of_kept (execIrsClose_kept _ _ _ _ h)
  | irsQuery _ _ _ _ => exact keeps_of_kept (execIrsQuery_kept _ _ _ _ _ h)
  | pwrTimeout _ _ _ => exact keeps_of_kept (execPwrTimeout_kept _ _ _ _ h)
  | pwrModule _ _ _ => exact keeps_of_kept (execPwrModule_kept _ _ _ _ h)
  | telSubscribe _ _ _ => exact keeps_of_kept (execTelSubscribe_kept _ _ _ _ h)
  | telRead _ _ _ => exact keeps_of_kept (execTelRead_kept _ _ _ _ h)
  | secKeySet _ _ _ _ => exact keeps_of_kept (execSecKeySet_kept _ _ _ _ _ h)
  | secSecure _ _ _ _ => exact keeps_of_kept (execSecSecure_kept _ _ _ _ _ h)
  | secAttest _ _ _ _ => exact keeps_of_kept (execSecAttest_kept _ _ _ _ _ h)
  | diagLog _ _ _ _ => exact keeps_of_kept (execDiagLog_kept _ _ _ _ _ h)
  | diagSelftest _ _ _ => exact keeps_of_kept (execDiagSelftest_kept _ _ _ _ h)
  | diagInject _ _ _ => exact keeps_of_kept (execDiagInject_kept _ _ _ _ h)
  | qeDoorbellWrite _ _ => exact keeps_of_kept (execQeDoorbellWrite_kept _ _ _ h)
  | launch _ => exact keeps_of_kept (execLaunch_kept _ _ h)
  | launchStart _ => exact keeps_of_kept (execLaunchStart_kept _ _ h)
  | copy _ => exact keeps_of_kept (execCopy_kept _ _ h)
  | copyDone _ _ => exact keeps_of_kept (execCopyDone_kept _ _ _ h)
  | addSeq _ => exact keeps_of_kept (execAddSeq_kept _ _ h)
  | step _ => exact keeps_of_kept (execStep_kept _ _ h)
  | fenceEntry _ => exact keeps_of_kept (execFenceEntry_kept _ _ h)
  | fenceEntryComplete _ => exact keeps_of_kept (execFenceEntryComplete_kept _ _ h)
  | qpCompletionPost _ => exact keeps_of_kept (execQpCompletionPost_kept _ _ h)
  | preempt _ _ => exact keeps_of_kept (execPreempt_kept _ _ _ h)
  | preemptSaveDone _ => exact keeps_of_kept (execPreemptSaveDone_kept _ _ h)
  | preemptRestore _ => exact keeps_of_kept (execPreemptRestore_kept _ _ h)
  | regulatorRefill => exact keeps_of_kept (execRegulatorRefill_kept _ h)
  | semHoldRevoke _ _ => exact keeps_of_kept (execSemHoldRevoke_kept _ _ _ h)
  | stepTick _ => exact keeps_of_kept (execStepTick_kept _ _ h)
  | stepBoundary _ => exact keeps_of_kept (execStepBoundary_kept _ _ h)
  | stepBarrierOpen _ _ _ _ => exact keeps_of_kept (execStepBarrierOpen_kept _ _ _ _ _ h)
  | flitReceive _ _ => exact keeps_of_kept (execFlitReceive_kept _ _ _ h)
  | flitReplayTimeout _ => exact keeps_of_kept (execFlitReplayTimeout_kept _ _ h)
  | ackTimer _ => exact keeps_of_kept (execAckTimer_kept _ _ h)
  | portRetrain _ _ _ => exact keeps_of_kept (execPortRetrain_kept _ _ _ _ h)
  | portTrainingDone _ _ => exact keeps_of_kept (execPortTrainingDone_kept _ _ _ h)
  | syncFlit _ _ => exact keeps_of_kept (execSyncFlit_kept _ _ _ h)
  | fabBarCfgWrite _ _ _ _ => exact keeps_of_kept (execFabBarCfgWrite_kept _ _ _ _ _ h)
  | fabCqCfgWrite _ _ _ _ => exact keeps_of_kept (execFabCqCfgWrite_kept _ _ _ _ _ h)
  | collectiveStart _ _ _ => exact keeps_of_kept (execCollectiveStart_kept _ _ _ _ h)
  | chunkReceive _ _ _ _ => exact keeps_of_kept (execChunkReceive_kept _ _ _ _ _ h)
  | collAbortReceive _ _ _ _ => exact keeps_of_kept (execCollAbortReceive_kept _ _ _ _ _ h)
  | collectiveComplete _ _ _ => exact keeps_of_kept (execCollectiveComplete_kept _ _ _ _ h)
  | forwardDrain _ => exact keeps_of_kept (execForwardDrain_kept _ _ h)
  | twinHeartbeat => exact keeps_of_kept (execTwinHeartbeat_kept _ h)
  | twinHeartbeatTimeout => exact keeps_of_kept (execTwinHeartbeatTimeout_kept _ h)
  | twinWaitTimeout _ => exact keeps_of_kept (execTwinWaitTimeout_kept _ _ h)
  | admissionCountReceive _ _ => exact keeps_of_kept (execAdmissionCountReceive_kept _ _ _ h)
  | stepDigestExchange _ _ _ _ _ _ => exact keeps_of_kept (execStepDigestExchange_kept _ _ _ _ _ _ _ h)
  | replayNotice _ _ => exact keeps_of_kept (execReplayNotice_kept _ _ _ h)
  | auditRunStart _ _ => exact keeps_of_kept (execAuditRunStart_kept _ _ _ h)
  | auditRunComplete _ _ _ _ _ => exact keeps_of_kept (execAuditRunComplete_kept _ _ _ _ _ _ h)
  | stepReplay _ => exact keeps_of_kept (execStepReplay_kept _ _ h)
  | tileReplay _ _ _ => exact keeps_of_kept (execTileReplay_kept _ _ _ _ h)
  | poisonReport _ _ => exact keeps_of_kept (execPoisonReport_kept _ _ _ h)
  | weightRefetchTwin _ _ => exact keeps_of_kept (execWeightRefetchTwin_kept _ _ _ h)
  | sramUncorrectable _ _ => exact keeps_of_kept (execSramUncorrectable_kept _ _ _ h)
  | sramCorrected _ _ => exact keeps_of_kept (execSramCorrected_kept _ _ _ h)
  | coreWatchdogExpire _ => exact keeps_of_kept (execCoreWatchdogExpire_kept _ _ h)
  | primJobWatchdog _ => exact keeps_of_kept (execPrimJobWatchdog_kept _ _ h)
  | unitCheckFailure _ _ => exact keeps_of_kept (execUnitCheckFailure_kept _ _ _ h)
  | quarantine _ _ => exact keeps_of_kept (execQuarantine_kept _ _ _ h)
  | moduleFailure => exact keeps_of_kept (execModuleFailure_kept _ h)
  | riskUpdate _ _ _ => exact keeps_of_kept (execRiskUpdate_kept _ _ _ _ h)
  | riskDecay => exact keeps_of_kept (execRiskDecay_kept _ h)
  | shadowCopyBlock _ => exact keeps_of_kept (execShadowCopyBlock_kept _ _ h)
  | flashSnapshotWrite _ => exact keeps_of_kept (execFlashSnapshotWrite_kept _ _ h)
  | irisDescriptorStart _ => exact keeps_of_kept (execIrisDescriptorStart_kept _ _ h)
  | irisRowDone _ => exact keeps_of_kept (execIrisRowDone_kept _ _ h)
  | irisSliceEmit _ => exact keeps_of_kept (execIrisSliceEmit_kept _ _ h)
  | irisPictureDone _ => exact keeps_of_kept (execIrisPictureDone_kept _ _ h)
  | irisPictureRepeat _ => exact keeps_of_kept (execIrisPictureRepeat_kept _ _ h)
  | flr _ => exact keeps_of_kept (execFlr_kept _ _ h)
  | perstAssert => exact keeps_of_kept (execPerstAssert_kept _ h)
  | perstDeassert => exact keeps_of_kept (execPerstDeassert_kept _ h)
  | pcieLinkDown => exact keeps_of_kept (execPcieLinkDown_kept _ h)
  | pcieLinkUp => exact keeps_of_kept (execPcieLinkUp_kept _ h)
  | bar4Read _ _ _ => exact keeps_of_kept (execBar4Read_kept _ _ _ _ h)
  | bar4Write _ _ _ => exact keeps_of_kept (execBar4Write_kept _ _ _ _ h)
  | registerWrite _ _ _ _ _ => exact keeps_of_kept (execRegisterWrite_kept _ _ _ _ _ _ h)
  | msixUnmask _ _ => exact keeps_of_kept (execMsixUnmask_kept _ _ _ h)
  | hostReadFail _ => exact keeps_of_kept (execHostReadFail_kept _ _ h)
  | ideIntegrityFail _ => exact keeps_of_kept (execIdeIntegrityFail_kept _ _ h)
  | ideKm _ _ => exact keeps_of_kept (execIdeKm_kept _ _ _ h)
  | mctpControlMessage _ _ => exact keeps_of_kept (execMctpControlMessage_kept _ _ _ h)
  | getSensorReading _ => exact keeps_of_kept (execGetSensorReading_kept _ _ h)
  | setEventReceiver _ => exact keeps_of_kept (execSetEventReceiver_kept _ _ h)
  | setStateEffecterStates _ _ => exact keeps_of_kept (execSetStateEffecterStates_kept _ _ _ h)
  | getFruRecord => exact keeps_of_kept (execGetFruRecord_kept _ h)
  | passComponentUpdate _ => exact execPassComponentUpdate_keeps _ _ h
  | verifyComplete => exact execVerifyComplete_keeps _ h
  | activateFirmware _ => exact execActivateFirmware_keeps _ _ h
  | getVersion _ => exact keeps_of_kept (execGetVersion_kept _ _ h)
  | getCertificate _ _ _ => exact keeps_of_kept (execGetCertificate_kept _ _ _ _ h)
  | challenge _ _ => exact keeps_of_kept (execChallenge_kept _ _ _ h)
  | getMeasurements _ _ => exact keeps_of_kept (execGetMeasurements_kept _ _ _ h)
  | keyExchange _ _ => exact keeps_of_kept (execKeyExchange_kept _ _ _ h)
  | coreEnterRetain _ _ => exact keeps_of_kept (execCoreEnterRetain_kept _ _ _ h)
  | coreEnterOff _ _ => exact keeps_of_kept (execCoreEnterOff_kept _ _ _ h)
  | coreWake _ _ => exact keeps_of_kept (execCoreWake_kept _ _ _ h)
  | standbyEntryDone => exact keeps_of_kept (execStandbyEntryDone_kept _ h)
  | sleepEntry => exact keeps_of_kept (execSleepEntry_kept _ h)
  | sleepPowerDown => exact keeps_of_kept (execSleepPowerDown_kept _ h)
  | wakeAssert _ _ => exact keeps_of_kept (execWakeAssert_kept _ _ _ h)
  | sleepExitDone _ => exact execSleepExitDone_keeps _ _ h
  | guardTrip => exact execGuardTrip_keeps _ h
  | supplyDroop => exact keeps_of_kept (execSupplyDroop_kept _ h)
  | guardReclose => exact execGuardReclose_keeps _ h
  | inputLowRelease => exact keeps_of_kept (execInputLowRelease_kept _ h)
  | powerOn _ => exact execPowerOn_keeps _ _ h
  | startupReady => exact keeps_of_kept (execStartupReady_kept _ h)
  | rstAssert _ _ _ => exact execRstAssert_keeps _ _ _ _ h
  | pwrResetWrite _ _ _ => exact keeps_of_kept (execPwrResetWrite_kept _ _ _ _ h)
  | coldResetStart _ => exact execColdResetStart_keeps _ _ h
  | pprsntMake _ => exact execPprsntMake_keeps _ _ h
  | pprsntBreak => exact execPprsntBreak_keeps _ h
  | thermalStop => exact keeps_of_kept (execThermalStop_kept _ h)
  | thermalSwitchOpen => exact execThermalSwitchOpen_keeps _ h
  | cblPrsChange _ _ => exact keeps_of_kept (execCblPrsChange_kept _ _ _ h)
  | unlistedEntryType _ => exact keeps_of_kept (execUnlistedEntryType_kept _ _ h)
  | twinReplayNotice => exact keeps_of_kept (execTwinReplayNotice_kept _ h)
  | configurationRequest _ _ => exact keeps_of_kept (execConfigurationRequest_kept _ _ _ h)
  | dynamicAddressAssignment _ => exact keeps_of_kept (execDynamicAddressAssignment_kept _ _ h)

/-- A step takes the front of the queue off and keeps the rest. -/
theorem step_keeps {s t : State} (h : step s = .next t) : Keeps { s with pending := s.pending.tail } t := by
  unfold step at h
  split at h
  · next hq =>
    cases h
    have hs : { s with pending := s.pending.tail } = s := by rw [hq, List.tail_nil, ← hq]
    rw [hs]
    exact idleTick_keeps s
  · next i rest hq =>
    rw [hq]
    exact exec_keeps h

theorem idleTick_time (s : State) : (idleTick s).time = s.time + 5 := by
  have h1 : Kept s s.chargeCycle.countStalls := (State.countStalls_kept _).of (State.chargeCycle_kept s)
  unfold idleTick
  dsimp only
  generalize s.chargeCycle.countStalls = t at h1
  exact ((State.slowTime_kept _ _).of (State.noteWork_kept _)).time.trans (congrArg (· + 5) h1.time)

/-- Settles O2: the queue behind the front and the clock are two of the things every step keeps. -/
theorem queueAndClock : Obligations.QueueAndClock := by
  unfold Obligations.QueueAndClock
  intro s t h
  exact ⟨(step_keeps h).pending, (step_keeps h).time⟩

/-- Settles O3: every command writes memory in its canonical form. -/
theorem memoryKept : Obligations.MemoryKept := by
  unfold Obligations.MemoryKept
  intro s t hs h
  exact (step_keeps h).mem hs

/-- Settles O4: resets and firmware updates put only passed tables in force, every other command leaves them. -/
theorem patchFloorKept : Obligations.PatchFloorKept := by
  unfold Obligations.PatchFloorKept
  intro s t hs h
  exact (step_keeps h).patch (patchOk_of_eq (s := s) rfl rfl rfl hs)

/-- Settles O1: the two branches of the step. -/
theorem stepTakesFront : Obligations.StepTakesFront := by
  unfold Obligations.StepTakesFront
  constructor
  · intro i rest s hq
    simp only [step, hq]
  · intro s hq
    exact ⟨idleTick s, by simp only [step, hq], idleTick_time s⟩

/-- Settles O5: reset has no patch table, empty memory and an empty queue. -/
theorem resetOk : Obligations.ResetOk := by
  unfold Obligations.ResetOk
  exact ⟨⟨fun _ => rfl, nofun, nofun, nofun⟩, reset_mem_wf, rfl, fun _ h => absurd h List.not_mem_nil⟩

end Sys2Proof.Machine
end

section
/-!
The scalar slots (R33, R39, R43 to R45): what each operation computes, what an access of the scratchpad reads and stores, where
branches go, and what a fault or an `end` leaves.
-/

namespace Sys2Proof.Machine

/-! ### 64-bit arithmetic (R43) -/

theorem ofN_add (a b : W64) : ofN (a.toNat + b.toNat) = a + b :=
  BitVec.eq_of_toNat_eq (by simp [BitVec.toNat_add])

theorem ofZ_sub (a b : W64) : ofZ (a.toInt - b.toInt) = a - b := by
  rw [← BitVec.ofInt_toInt (x := a - b), BitVec.toInt_sub]
  exact BitVec.eq_of_toInt_eq (by simp [BitVec.toInt_ofInt])

theorem ofN_mul (a b : W64) : ofN (a.toNat * b.toNat) = a * b :=
  BitVec.eq_of_toNat_eq (by simp [BitVec.toNat_mul])

theorem ofN_shl (a : W64) (n : Nat) : ofN (a.toNat * 2 ^ n) = a <<< n :=
  BitVec.eq_of_toNat_eq (by simp [BitVec.toNat_shiftLeft, Nat.shiftLeft_eq])

theorem ofN_shr (a : W64) (n : Nat) : ofN (a.toNat / 2 ^ n) = a >>> n := by
  refine BitVec.eq_of_toNat_eq ?_
  rw [BitVec.toNat_ushiftRight, Nat.shiftRight_eq_div_pow, BitVec.toNat_ofNat]
  exact Nat.mod_eq_of_lt (lt_of_le_of_lt (Nat.div_le_self ..) a.isLt)

theorem ofZ_sra (a : W64) (n : Nat) : ofZ (a.toInt / 2 ^ n) = a.sshiftRight n := by
  rw [← BitVec.ofInt_toInt (x := a.sshiftRight n), BitVec.toInt_sshiftRight, Int.shiftRight_eq_div_pow]
  norm_cast

theorem ofN_mulhu (a b : W64) : ofN (a.toNat * b.toNat / 2 ^ 64) = ((a.setWidth 128 * b.setWidth 128) >>> 64).setWidth 64 := by
  have hab : a.toNat * b.toNat < 2 ^ 128 := calc
    a.toNat * b.toNat < 2 ^ 64 * 2 ^ 64 := Nat.mul_lt_mul'' a.isLt b.isLt
    _ = 2 ^ 128 := by norm_num
  refine BitVec.eq_of_toNat_eq ?_
  rw [BitVec.toNat_setWidth, BitVec.toNat_ushiftRight, BitVec.toNat_mul, BitVec.toNat_setWidth_of_le (by decide),
    BitVec.toNat_setWidth_of_le (by decide), Nat.mod_eq_of_lt hab, Nat.shiftRight_eq_div_pow, BitVec.toNat_ofNat]

theorem ofZ_mulh (a b : W64) : ofZ (a.toInt * b.toInt / 2 ^ 64) = ((a.signExtend 128 * b.signExtend 128) >>> 64).setWidth 64 := by
  have h : ((a.signExtend 128 * b.signExtend 128).toNat : Int) = a.toInt * b.toInt % 2 ^ 128 := by
    have e : a.signExtend 128 * b.signExtend 128 = BitVec.ofInt 128 (a.toInt * b.toInt) := by
      rw [BitVec.ofInt_mul, BitVec.signExtend, BitVec.signExtend]
    rw [e, BitVec.toNat_ofInt]
    exact Int.toNat_of_nonneg (Int.emod_nonneg _ (by norm_num))
  refine BitVec.eq_of_toNat_eq ?_
  rw [BitVec.toNat_setWidth, BitVec.toNat_ushiftRight, Nat.shiftRight_eq_div_pow, BitVec.toNat_ofInt]
  generalize (a.signExtend 128 * b.signExtend 128).toNat = p at h
  generalize a.toInt * b.toInt = z at h
  omega

theorem ofZ_sdiv (a b : W64) : ofZ (a.toInt.tdiv b.toInt) = a.sdiv b := by
  rw [← BitVec.ofInt_toInt (x := a.sdiv b), BitVec.toInt_sdiv]
  exact BitVec.eq_of_toInt_eq (by simp [BitVec.toInt_ofInt])

theorem ofZ_srem (a b : W64) : ofZ (a.toInt.tmod b.toInt) = a.srem b := by
  rw [← BitVec.ofInt_toInt (x := a.srem b), BitVec.toInt_srem]

theorem ofN_udiv (a b : W64) : ofN (a.toNat / b.toNat) = a / b := by
  rw [← BitVec.toNat_udiv]; exact BitVec.ofNat_toNat ..

theorem ofN_umod (a b : W64) : ofN (a.toNat % b.toNat) = a % b := by
  rw [← BitVec.toNat_umod]; exact BitVec.ofNat_toNat ..

/-! ### The rows of the arithmetic operations and comparisons -/

/-- The operation neither branches nor ends the tile-thread. -/
def Sequential (o : ScalarOp) : Prop := o ≠ .endOp ∧ ∀ k f, branchTo k o f = none

theorem aluRows_exec {r : (Nat → Nat → SlotHdr → ScalarF → Instr) × ScalarOp × (W64 → W64 → W64)} (hr : r ∈ aluRows) :
    ∀ c x h f s, exec (r.1 c x h f) s = .next (oneSlot c x h (.scalar r.2.1 f) s) := by
  revert r
  simp only [aluRows, List.cons_append, List.nil_append, List.forall_mem_cons]
  exact ⟨fun _ _ _ _ _ => rfl, fun _ _ _ _ _ => rfl, fun _ _ _ _ _ => rfl, fun _ _ _ _ _ => rfl, fun _ _ _ _ _ => rfl,
    fun _ _ _ _ _ => rfl, fun _ _ _ _ _ => rfl, fun _ _ _ _ _ => rfl, fun _ _ _ _ _ => rfl, fun _ _ _ _ _ => rfl,
    fun _ _ _ _ _ => rfl, fun _ _ _ _ _ => rfl, fun _ _ _ _ _ => rfl, fun _ _ _ _ _ => rfl, fun _ _ _ _ _ => rfl,
    fun _ _ _ _ _ => rfl, fun _ _ _ _ _ => rfl, fun _ _ _ _ _ => rfl, fun _ _ _ _ _ => rfl, nofun⟩

theorem aluRows_seq {r : (Nat → Nat → SlotHdr → ScalarF → Instr) × ScalarOp × (W64 → W64 → W64)} (hr : r ∈ aluRows) :
    Sequential r.2.1 := by
  revert r
  simp only [aluRows, List.cons_append, List.nil_append, List.forall_mem_cons, Sequential, branchTo]
  simp

theorem ite_decide {α : Type} {p : Prop} [Decidable p] (a b : α) : (if decide p = true then a else b) = if p then a else b := by
  simp only [decide_eq_true_eq]

/-- Each row's value is that of the operation. -/
theorem aluRows_value {r : (Nat → Nat → SlotHdr → ScalarF → Instr) × ScalarOp × (W64 → W64 → W64)} (hr : r ∈ aluRows) (a b : W64) :
    scalarAlu r.2.1 a b = some (r.2.2 a b) := by
  revert r
  simp only [aluRows, List.cons_append, List.nil_append, List.forall_mem_cons, scalarAlu, Option.some.injEq]
  exact ⟨(ofN_add a b).symm, (ofZ_sub a b).symm, trivial, trivial, trivial, (ofN_shl a _).symm, (ofN_shr a _).symm, (ofZ_sra a _).symm,
    ite_decide .., ite_decide .., ite_decide .., ite_decide .., (ofN_mul a b).symm, (ofZ_mulh a b).symm, (ofN_mulhu a b).symm,
    congrArg (ite _ _) (ofZ_sdiv a b).symm, congrArg (ite _ _) (ofN_udiv a b).symm, congrArg (ite _ _) (ofZ_srem a b).symm,
    congrArg (ite _ _) (ofN_umod a b).symm, nofun⟩

theorem cmpRows_exec {r : (Nat → Nat → SlotHdr → ScalarF → Instr) × ScalarOp × (W64 → W64 → Bool)} (hr : r ∈ cmpRows) :
    ∀ c x h f s, exec (r.1 c x h f) s = .next (oneSlot c x h (.scalar r.2.1 f) s) := by
  revert r
  simp only [cmpRows, List.forall_mem_cons]
  exact ⟨fun _ _ _ _ _ => rfl, fun _ _ _ _ _ => rfl, fun _ _ _ _ _ => rfl, fun _ _ _ _ _ => rfl, fun _ _ _ _ _ => rfl,
    fun _ _ _ _ _ => rfl, nofun⟩

theorem cmpRows_seq {r : (Nat → Nat → SlotHdr → ScalarF → Instr) × ScalarOp × (W64 → W64 → Bool)} (hr : r ∈ cmpRows) : Sequential r.2.1 := by
  revert r
  simp only [cmpRows, List.forall_mem_cons, Sequential, branchTo]
  simp

theorem cmpRows_value {r : (Nat → Nat → SlotHdr → ScalarF → Instr) × ScalarOp × (W64 → W64 → Bool)} (hr : r ∈ cmpRows) (a b : W64) :
    scalarAlu r.2.1 a b = none ∧ scalarCmp r.2.1 a b = some (r.2.2 a b) := by
  revert r
  simp only [cmpRows, List.forall_mem_cons, scalarAlu, scalarCmp, Option.some.injEq, true_and]
  refine ⟨?_, ?_, rfl, rfl, ?_, ?_, nofun⟩
  · exact Bool.beq_eq_decide_eq a b
  · rw [Bool.eq_iff_iff]; simp
  · simp [BitVec.slt, ← decide_not]
  · simp [BitVec.ult, ← decide_not]

/-! ### A scalar slot that executes -/

section
variable {c x : Nat} {h : SlotHdr} {f : ScalarF} {s : State} {o : ScalarOp}

@[simp] theorem State.ctx_noteIssue (s : State) (c x n d y : Nat) : (s.noteIssue c x n).ctx d y = s.ctx d y := by
  rw [State.ctx, noteIssue_ctxs]; rfl

/-- Only the context that the bundle read matters to what it writes there. -/
theorem State.stepped_congr {f g : Ctx → Ctx} (hfg : f (s.ctx c x) = g (s.ctx c x)) : s.stepped c x h f = s.stepped c x h g := by
  unfold stepped State.updCtx
  rw [ctx_noteIssue, hfg]

theorem slotEffect_scalar (hx : Executes s c x h) (hd : Nat) (t : State) :
    slotEffect c x s hd h (.scalar o f) t = scalarSlot c x s o f t := if_pos hx

theorem slotEffect_scalar_off (hx : ¬Executes s c x h) (hd : Nat) (t : State) : slotEffect c x s hd h (.scalar o f) t = .ok t := if_neg hx

theorem nextPc_scalar (hx : Executes s c x h) : nextPc (s.ctx c x) [(h, .scalar o f)] = (branchTo (s.ctx c x) o f).getD ((s.ctx c x).pc + 128) := by
  have hq : ((s.ctx c x).q h).getLsbD 0 = true := hx
  unfold nextPc
  simp only [List.findSome?_cons, hq, if_true, List.findSome?_nil]
  cases branchTo (s.ctx c x) o f <;> rfl

/-- A scalar operation that acts on its context's registers only and does not branch. -/
theorem oneSlot_scalar_stepped {g g' : Ctx → Ctx} (hi : Issues s c x h (.scalar o f)) (hx : Executes s c x h) (ho : Sequential o)
    (he : scalarSlot c x s o f (s.noteIssue c x h.hint.toNat) = .ok ((s.noteIssue c x h.hint.toNat).updCtx c x g))
    (hg : g (s.ctx c x) = g' (s.ctx c x)) : oneSlot c x h (.scalar o f) s = s.stepped c x h g' := by
  rw [oneSlot_stepped hi ((slotEffect_scalar hx ..).trans he) (fun _ e => ho.1 (by cases e; rfl)) (fun _ _ e => by cases e; exact ho.2 ..)]
  exact State.stepped_congr hg

/-- A scalar operation that branches or falls through. -/
theorem oneSlot_scalar_goes {t : State} (hi : Issues s c x h (.scalar o f)) (hx : Executes s c x h) (ho : o ≠ .endOp)
    (he : scalarSlot c x s o f (s.noteIssue c x h.hint.toNat) = .ok t) :
    oneSlot c x h (.scalar o f) s = t.updCtx c x (fun q => { q with pc := (branchTo (s.ctx c x) o f).getD ((s.ctx c x).pc + 128) }) := by
  rw [oneSlot_ok hi ((slotEffect_scalar hx ..).trans he) (bundleEnds_no (fun _ e => ho (by cases e; rfl))), nextPc_scalar hx]

theorem oneSlot_scalar_error {e : CoreFault} (hi : Issues s c x h (.scalar o f)) (hx : Executes s c x h)
    (he : scalarSlot c x s o f (s.noteIssue c x h.hint.toNat) = .error e) :
    oneSlot c x h (.scalar o f) s = (s.noteIssue c x h.hint.toNat).preciseFault c x e :=
  oneSlot_error hi ((slotEffect_scalar hx ..).trans he)

/-- A scalar operation whose predicate is false (R33). -/
theorem oneSlot_scalar_off (hi : Issues s c x h (.scalar o f)) (hx : ¬Executes s c x h) (ho : Sequential o) :
    oneSlot c x h (.scalar o f) s = (s.noteIssue c x h.hint.toNat).updCtx c x (fun k => { k with pc := k.pc + 128 }) := by
  rw [oneSlot_ok hi (slotEffect_scalar_off hx ..) (bundleEnds_no (fun _ e => ho.1 (by cases e; rfl))), nextPc_seq (fun _ _ e => by cases e; exact ho.2 ..)]
  unfold State.updCtx
  rw [State.ctx_noteIssue]

theorem scalarSlot_alu {v : W64} {pre t : State} (hv : scalarAlu o ((pre.ctx c x).getS f.rs1.toNat) (scalarSrc2 f (pre.ctx c x)) = some v) :
    scalarSlot c x pre o f t = .ok (t.updCtx c x (fun k => k.setS f.rd.toNat v)) := by
  simp only [scalarSlot, hv]

theorem scalarAlu_none {a b : W64} (hn : scalarAlu o a b = none) (a' b' : W64) : scalarAlu o a' b' = none := by
  cases o <;> cases hn <;> rfl

theorem scalarSlot_cmp {b : Bool} {pre t : State}
    (hv : scalarAlu o ((pre.ctx c x).getS f.rs1.toNat) ((pre.ctx c x).getS f.rs2.toNat) = none ∧
      scalarCmp o ((pre.ctx c x).getS f.rs1.toNat) ((pre.ctx c x).getS f.rs2.toNat) = some b) :
    scalarSlot c x pre o f t = .ok (t.updCtx c x (fun k => k.setP f.rd.toNat (boolPred b))) := by
  simp only [scalarSlot, scalarAlu_none hv.1, hv.2]

end

theorem Ctx.setS_zero (k : Ctx) (v : W64) : k.setS 0 v = k := if_pos rfl
theorem Ctx.setP_zero (k : Ctx) (v : BitVec 256) : k.setP 0 v = k := if_pos rfl

/-- Settles O6: every arithmetic row computes its operation, every comparison row its relation, and a scalar slot writes nothing
else. -/
theorem scalarArithmetic : Obligations.ScalarArithmetic := by
  unfold Obligations.ScalarArithmetic
  constructor
  · intro r hr c x h f s hi hx
    refine (aluRows_exec hr ..).trans (congrArg _ (oneSlot_scalar_stepped hi hx (aluRows_seq hr) (scalarSlot_alu (aluRows_value hr ..)) ?_))
    by_cases hd : f.rd = 0
    · simp only [hd, if_true]
      exact Ctx.setS_zero ..
    · simp only [hd, if_false]
      rfl
  · intro r hr c x h f s hi hx
    refine (cmpRows_exec hr ..).trans (congrArg _ (oneSlot_scalar_stepped hi hx (cmpRows_seq hr) (scalarSlot_cmp (cmpRows_value hr ..)) ?_))
    by_cases hd : f.rd = 0
    · simp only [hd, if_true]
      exact Ctx.setP_zero ..
    · simp only [hd, if_false]
      rfl

/-! ### Address moves and special registers (R39, R43) -/

/-- The index of the tile-thread, 0 where none runs. -/
theorem rdsr_thread (s : State) (c x : Nat) : s.rdsr c x 0x02 = BitVec.ofNat 64 (((s.ctx c x).tt.map (·.index)).getD 0) := by
  unfold State.rdsr
  cases h : (s.ctx c x).tt <;> simp only [h] <;> rfl

/-- Settles O7: the address moves and rdsr are cases of the scalar slot that write one register. -/
theorem addressAndSpecialMoves : Obligations.AddressAndSpecialMoves := by
  unfold Obligations.AddressAndSpecialMoves
  intro c x h f s hx
  refine ⟨fun hi => ?_, fun hi => ?_, fun hi => ?_, fun hi v hv => ?_⟩
  · refine congrArg _ (oneSlot_scalar_stepped hi hx ⟨nofun, fun _ _ => rfl⟩ rfl ?_)
    refine congrArg (Ctx.setA _ _) (BitVec.eq_of_toNat_eq ?_)
    simp [BitVec.toNat_add, scalarSrc2, immExt, Nat.add_mod]
  · exact congrArg _ (oneSlot_scalar_stepped hi hx ⟨nofun, fun _ _ => rfl⟩ rfl rfl)
  · exact congrArg _ (oneSlot_scalar_stepped hi hx ⟨nofun, fun _ _ => rfl⟩ rfl
      (congrArg (Ctx.setS _ _) (BitVec.eq_of_toNat_eq (by simp))))
  · refine congrArg _ (oneSlot_scalar_stepped hi hx ⟨nofun, fun _ _ => rfl⟩ rfl ?_)
    refine congrArg (Ctx.setS _ _) ?_
    simp only [List.mem_cons, Prod.mk.injEq, List.not_mem_nil, or_false] at hv
    rcases hv with ⟨hn, rfl⟩ | ⟨hn, rfl⟩ | ⟨hn, rfl⟩ | ⟨hn, rfl⟩ | ⟨hn, rfl⟩ | ⟨hn, rfl⟩ | ⟨hn, rfl⟩ <;> rw [hn]
    case inr.inr.inl => exact rdsr_thread s c x
    all_goals rfl

/-! ### The end of a tile-thread and precise faults (R45, R64) -/

section
variable {s : State} {c x : Nat} {th : Thread}

@[simp] theorem State.endThread_mem (s : State) (c x : Nat) : (s.endThread c x).mem = s.mem := by
  unfold endThread
  split <;> rfl

theorem State.ctx_endThread (h : (s.ctx c x).tt = some th) :
    (s.endThread c x).ctx c x = { s.ctx c x with tt := none, wait := .none, seen := [] } := by
  simp only [endThread, h]
  exact ctx_setCtx ..

/-- The launch of the tile-thread counts its end. -/
theorem State.launch_endThread {l : Launch} (h : (s.ctx c x).tt = some th) (hl : s.launch th.launch = some l) :
    ∃ l', (s.endThread c x).launch th.launch = some l' ∧ l'.ended = l.ended + 1 := by
  refine ⟨{ l with ended := l.ended + 1, skips := if 16 < (s.ctx c x).seen.length then th.index :: l.skips else l.skips }, ?_, rfl⟩
  simp only [endThread, h]
  exact launch_updLaunch hl _

theorem State.preciseFault_eq (h : (s.ctx c x).tt = some th) (e : CoreFault) :
    s.preciseFault c x e = (s.recordFault c x (s.ctx c x).pc.toNat th e).endThread c x := by
  simp only [preciseFault, h]

@[simp] theorem State.preciseFault_mem (s : State) (c x : Nat) (e : CoreFault) : (s.preciseFault c x e).mem = s.mem := by
  unfold preciseFault
  split
  · exact endThread_mem ..
  · rfl

theorem State.ctx_preciseFault (h : (s.ctx c x).tt = some th) (e : CoreFault) :
    (s.preciseFault c x e).ctx c x = { s.ctx c x with tt := none, wait := .none, seen := [] } := by
  rw [preciseFault_eq h]
  exact ctx_endThread (s := s.recordFault ..) h

theorem Issues.thread {h : SlotHdr} {op : SlotOp} (hi : Issues s c x h op) : ∃ th, (s.ctx c x).tt = some th := by
  have hr := hi.runs
  simp only [State.canRun, Bool.and_eq_true] at hr
  exact Option.isSome_iff_exists.mp hr.1.1.1.1

end

/-! ### Accesses of the scratchpad (R44, R57) -/

@[simp] theorem toLe_length (n v : Nat) : (toLe n v).length = n := by
  induction n generalizing v with
  | zero => rfl
  | succ n ih => exact congrArg (· + 1) (ih _)

theorem toLe_getD {n i : Nat} (hi : i < n) (v : Nat) : (toLe n v).getD i 0 = BitVec.ofNat 8 (v / 256 ^ i) := by
  induction n generalizing v i with
  | zero => exact absurd hi (Nat.not_lt_zero _)
  | succ n ih =>
    cases i with
    | zero => simp [toLe]
    | succ i =>
      rw [pow_succ', ← Nat.div_div_eq_div_mul]
      exact ih (Nat.lt_of_succ_lt_succ hi) _

/-- A read of memory finds the stored bytes where no operation is under way (R57). -/
theorem State.seenLe_idle {s : State} (h : s.underWay = []) (a n : Nat) : s.seenLe a n = s.le a n := by
  have hb : s.seen = s.byte := funext fun b => by simp only [seen, h]
  simp only [seenLe, seenBytes, le, bytes, hb]

section
variable {c x n al : Nat} {k : Ctx} {off : Int}

theorem windowAddr_inside {o : Nat} (ho : off = o) (ha : o % al = 0) (hw : o + n ≤ k.spadSize) :
    windowAddr c k off n al = some (spadSlot c + k.spadBase + o) := by
  subst ho
  refine (if_pos ⟨Int.natCast_nonneg o, ?_, ?_⟩).trans rfl
  · exact_mod_cast ha
  · exact_mod_cast hw

theorem windowAddr_outside (h : off < 0 ∨ off % (al : Int) ≠ 0 ∨ (k.spadSize : Int) < off + n) : windowAddr c k off n al = none := by
  refine if_neg fun hin => ?_
  obtain ⟨h0, ha, hw⟩ := hin
  rcases h with h | h | h
  · omega
  · exact h ha
  · omega

end

section
variable {c x n : Nat} {f : ScalarF} {o : ScalarOp} {pre t : State} {st : Bool}

theorem accessWidth_alu (hw : accessWidth o = some (st, n)) (a b : W64) : scalarAlu o a b = none := by
  cases o <;> cases hw <;> rfl

theorem accessWidth_cmp (hw : accessWidth o = some (st, n)) (a b : W64) : scalarCmp o a b = none := by
  cases o <;> cases hw <;> rfl

theorem accessWidth_seq (hw : accessWidth o = some (st, n)) : Sequential o := by
  refine ⟨fun e => ?_, fun k f => ?_⟩
  · subst e
    cases hw
  · cases o <;> cases hw <;> rfl

theorem scalarSlot_load {a : Nat} (hw : accessWidth o = some (false, n))
    (ha : windowAddr c (pre.ctx c x) (scalarOff (pre.ctx c x) f) n n = some a) :
    scalarSlot c x pre o f t = .ok (t.updCtx c x (fun k => k.setS f.rd.toNat (BitVec.ofNat 64 (pre.seenLe a n)))) := by
  simp only [scalarSlot, accessWidth_alu hw, accessWidth_cmp hw, hw, ha, Bool.false_eq_true, if_false]

theorem scalarSlot_store {a : Nat} (hw : accessWidth o = some (true, n))
    (ha : windowAddr c (pre.ctx c x) (scalarOff (pre.ctx c x) f) n n = some a) :
    scalarSlot c x pre o f t = .ok (t.write a (toLe n ((pre.ctx c x).getS f.rs2.toNat).toNat)) := by
  simp only [scalarSlot, accessWidth_alu hw, accessWidth_cmp hw, hw, ha, if_true]

theorem scalarSlot_outside (hw : accessWidth o = some (st, n))
    (ha : windowAddr c (pre.ctx c x) (scalarOff (pre.ctx c x) f) n n = none) :
    scalarSlot c x pre o f t = .error (faultAddress (b2n f.slotB) (offsetAddr c (pre.ctx c x) (scalarOff (pre.ctx c x) f))) := by
  simp only [scalarSlot, accessWidth_alu hw, accessWidth_cmp hw, hw, ha]

end

theorem loadRows_row {r : (Nat → Nat → SlotHdr → ScalarF → Instr) × ScalarOp × Nat} (hr : r ∈ loadRows) :
    (∀ c x h f s, exec (r.1 c x h f) s = .next (oneSlot c x h (.scalar r.2.1 f) s)) ∧ accessWidth r.2.1 = some (false, r.2.2) := by
  revert r
  simp only [loadRows, List.forall_mem_cons]
  exact ⟨⟨fun _ _ _ _ _ => rfl, rfl⟩, ⟨fun _ _ _ _ _ => rfl, rfl⟩, ⟨fun _ _ _ _ _ => rfl, rfl⟩, ⟨fun _ _ _ _ _ => rfl, rfl⟩, nofun⟩

theorem storeRows_row {r : (Nat → Nat → SlotHdr → ScalarF → Instr) × ScalarOp × Nat} (hr : r ∈ storeRows) :
    (∀ c x h f s, exec (r.1 c x h f) s = .next (oneSlot c x h (.scalar r.2.1 f) s)) ∧ accessWidth r.2.1 = some (true, r.2.2) := by
  revert r
  simp only [storeRows, List.forall_mem_cons]
  exact ⟨⟨fun _ _ _ _ _ => rfl, rfl⟩, ⟨fun _ _ _ _ _ => rfl, rfl⟩, ⟨fun _ _ _ _ _ => rfl, rfl⟩, ⟨fun _ _ _ _ _ => rfl, rfl⟩, nofun⟩

section
variable {c x n : Nat} {h : SlotHdr} {f : ScalarF} {s : State} {o : ScalarOp} {st : Bool}

/-- An access outside the window or misaligned ends the tile-thread with ADDRESS and writes nothing (R44, R64). -/
theorem oneSlot_access_outside (hw : accessWidth o = some (st, n)) (hi : Issues s c x h (.scalar o f)) (hx : Executes s c x h)
    (ha : windowAddr c (s.ctx c x) (scalarOff (s.ctx c x) f) n n = none) :
    (oneSlot c x h (.scalar o f) s).mem = s.mem ∧ ((oneSlot c x h (.scalar o f) s).ctx c x).tt = none ∧
      ((oneSlot c x h (.scalar o f) s).ctx c x).s = (s.ctx c x).s ∧
      ∃ e : CoreFault, e.code = 2 ∧ oneSlot c x h (.scalar o f) s = (s.noteIssue c x h.hint.toNat).preciseFault c x e := by
  obtain ⟨th, hth⟩ := hi.thread
  rw [oneSlot_scalar_error hi hx (scalarSlot_outside hw ha)]
  have hc := State.ctx_preciseFault (s := s.noteIssue c x h.hint.toNat) (by rw [State.ctx_noteIssue]; exact hth)
    (faultAddress (b2n f.slotB) (offsetAddr c (s.ctx c x) (scalarOff (s.ctx c x) f)))
  rw [hc, State.ctx_noteIssue]
  exact ⟨by simp, rfl, rfl, _, rfl, rfl⟩

/-- A store leaves its bytes, least significant first, and nothing else but the pc (R44). -/
theorem oneSlot_store {a : Nat} (hw : accessWidth o = some (true, n)) (hi : Issues s c x h (.scalar o f)) (hx : Executes s c x h)
    (ha : windowAddr c (s.ctx c x) (scalarOff (s.ctx c x) f) n n = some a) :
    oneSlot c x h (.scalar o f) s = ((s.noteIssue c x h.hint.toNat).write a (toLe n ((s.ctx c x).getS f.rs2.toNat).toNat)).updCtx c x
      (fun q => { q with pc := (s.ctx c x).pc + 128 }) := by
  rw [oneSlot_scalar_goes hi hx (accessWidth_seq hw).1 (scalarSlot_store hw ha), (accessWidth_seq hw).2]
  rfl

end

@[simp] theorem State.write_ctxs (s : State) (a : Nat) (bs : List Byte) : (s.write a bs).ctxs = s.ctxs := by
  unfold write
  split <;> rfl

@[simp] theorem State.write_cores (s : State) (a : Nat) (bs : List Byte) : (s.write a bs).cores = s.cores := by
  unfold write
  split <;> rfl

theorem State.ctx_of_ctxs {s t : State} (h : t.ctxs = s.ctxs) (c x : Nat) : t.ctx c x = s.ctx c x := by
  rw [ctx, h]; rfl

theorem State.rawByte_noteIssue (s : State) (c x n a : Nat) : (s.noteIssue c x n).rawByte a = s.rawByte a := by
  rw [rawByte, noteIssue_mem]; rfl

/-- The bytes after a little-endian value was stored. -/
theorem State.rawByte_write_toLe (s : State) (a n v : Nat) :
    (∀ i < n, (s.write a (toLe n v)).rawByte (a + i) = BitVec.ofNat 8 (v / 256 ^ i)) ∧
      ∀ b, (b < a ∨ a + n ≤ b) → (s.write a (toLe n v)).rawByte b = s.rawByte b := by
  refine ⟨fun i hi => ?_, fun b hb => ?_⟩
  · rw [rawByte_write, if_pos (by rw [toLe_length]; omega), Nat.add_sub_cancel_left, toLe_getD hi]
  · rw [rawByte_write, if_neg (by rw [toLe_length]; omega)]

/-- Settles O8: an access inside the window is a read as an agent finds the bytes, or a write of its bytes; outside it faults. -/
theorem scratchpadAccess : Obligations.ScratchpadAccess := by
  unfold Obligations.ScratchpadAccess
  refine ⟨⟨?_, ?_⟩, ?_⟩
  · intro r hr c x o h f s hi hx ho ha hw
    obtain ⟨he, hacc⟩ := loadRows_row hr
    have hin := windowAddr_inside (c := c) (k := s.ctx c x) ho ha hw
    exact ⟨(he ..).trans (congrArg _ (oneSlot_scalar_stepped hi hx (accessWidth_seq hacc) (scalarSlot_load hacc hin) rfl)),
      fun hu => State.seenLe_idle hu ..⟩
  · intro r hr c x h f s hi hx ho
    have hout := windowAddr_outside (c := c) (k := s.ctx c x) ho
    rcases List.mem_append.mp hr with hr | hr
    · exact ⟨_, (loadRows_row hr).1 .., oneSlot_access_outside (loadRows_row hr).2 hi hx hout⟩
    · exact ⟨_, (storeRows_row hr).1 .., oneSlot_access_outside (storeRows_row hr).2 hi hx hout⟩
  · intro r hr c x o h f s hi hx ho ha hw
    obtain ⟨he, hacc⟩ := storeRows_row hr
    have hin := windowAddr_inside (c := c) (k := s.ctx c x) ho ha hw
    refine ⟨_, he .., ?_⟩
    rw [oneSlot_store hacc hi hx hin]
    have hbytes := State.rawByte_write_toLe (s.noteIssue c x h.hint.toNat) (spadSlot c + (s.ctx c x).spadBase + o) r.2.2
      ((s.ctx c x).getS f.rs2.toNat).toNat
    have hctx : ((s.noteIssue c x h.hint.toNat).write (spadSlot c + (s.ctx c x).spadBase + o)
        (toLe r.2.2 ((s.ctx c x).getS f.rs2.toNat).toNat)).ctxs = s.ctxs := by simp
    refine ⟨hbytes.1, fun a hout => (hbytes.2 a hout).trans (State.rawByte_noteIssue ..), ?_, fun i hne => ?_⟩
    · exact (State.ctx_setCtx ..).trans
        (congrArg (fun q : Ctx => { q with pc := (s.ctx c x).pc + 128 }) (State.ctx_of_ctxs hctx c x))
    · refine (tget_tput_ne _ _ hne).trans ?_
      rw [hctx]

/-! ### Branches (R45) -/

/-- An `end` that executes ends the tile-thread after its bundle. -/
theorem oneSlot_end {c x : Nat} {h : SlotHdr} {f : ScalarF} {s : State} (hi : Issues s c x h (.scalar .endOp f)) (hx : Executes s c x h) :
    oneSlot c x h (.scalar .endOp f) s =
      ((s.noteIssue c x h.hint.toNat).updCtx c x (fun q => { q with pc := (s.ctx c x).pc + 128 })).endThread c x := by
  have hv : ¬(h.var = true ∧ s.varFault c x = true) := fun hc => by simp [hi.var hc.1] at hc
  have he : bundleEnds (s.ctx c x) [(h, .scalar .endOp f)] = true := by
    have hq : ((s.ctx c x).q h).getLsbD 0 = true := hx
    simp [bundleEnds, hq]
  have hs : slotEffect c x s (oneHeader h (.scalar .endOp f)) h (.scalar .endOp f) (s.noteIssue c x h.hint.toNat) =
      .ok (s.noteIssue c x h.hint.toNat) := slotEffect_scalar hx ..
  unfold oneSlot
  simp only [hi.runs, hi.ready, and_self, if_true]
  unfold State.issue
  simp only [hi.legal]
  rw [show (oneBundle h (.scalar .endOp f)).ops = [(h, .scalar .endOp f)] from rfl,
    show (oneBundle h (.scalar .endOp f)).var = h.var from rfl,
    show (oneBundle h (.scalar .endOp f)).header = oneHeader h (.scalar .endOp f) from rfl,
    show (oneBundle h (.scalar .endOp f)).hint = h.hint.toNat from rfl]
  simp only [hv, if_false, runSlots, hs, he, if_true, nextPc_scalar hx]
  rfl

section
variable (k : Ctx) (f : ScalarF)

theorem brz_next : (branchTo k .brz f).getD (k.pc + 128) = if k.getS f.rs1.toNat = 0 then k.pc + 128 * f.immv else k.pc + 128 := by
  unfold branchTo
  dsimp only
  split <;> rfl

theorem brnz_next : (branchTo k .brnz f).getD (k.pc + 128) = if k.getS f.rs1.toNat = 0 then k.pc + 128 else k.pc + 128 * f.immv := by
  unfold branchTo
  dsimp only
  simp only [ne_eq, ite_not]
  split <;> rfl

theorem brdec_next : (branchTo k .brdec f).getD (k.pc + 128) = if k.getS f.rd.toNat = 1 then k.pc + 128 else k.pc + 128 * f.immv := by
  unfold branchTo
  dsimp only
  simp only [ne_eq, ite_not, sub_eq_zero]
  split <;> rfl

end

/-- Settles O9: the target of each branch is that of `branchTo`, and brdec and call write their register. -/
theorem branches : Obligations.Branches := by
  unfold Obligations.Branches
  refine ⟨?_, ?_, ?_⟩
  · intro c x h f s hx
    dsimp only
    refine ⟨fun hi => ?_, fun hi => ?_, fun hi => ?_, fun hi => ?_, fun hi => ?_, fun hi hj => ?_, fun hi hj => ?_⟩
    · exact congrArg _ (oneSlot_scalar_goes hi hx nofun rfl)
    · rw [← brz_next]
      exact congrArg _ (oneSlot_scalar_goes hi hx nofun rfl)
    · rw [← brnz_next]
      exact congrArg _ (oneSlot_scalar_goes hi hx nofun rfl)
    · rw [← brdec_next]
      exact congrArg _ (oneSlot_scalar_goes hi hx nofun rfl)
    · rw [show BitVec.ofNat 64 ((s.ctx c x).pc + 128).toNat = ((s.ctx c x).pc + 128).setWidth 64 from BitVec.eq_of_toNat_eq (by simp)]
      exact congrArg _ (oneSlot_scalar_goes hi hx nofun rfl)
    · exact congrArg _ (oneSlot_scalar_goes hi hx nofun (if_pos hj))
    · exact ⟨faultAddress (b2n f.slotB) (((s.ctx c x).getS f.rs1.toNat).toNat % 2 ^ 48), rfl,
        congrArg _ (oneSlot_scalar_error hi hx (if_neg hj))⟩
  · intro c x h f s th hi hx hth
    let u := (s.noteIssue c x h.hint.toNat).updCtx c x (fun q => { q with pc := (s.ctx c x).pc + 128 })
    have hu : u.ctx c x = { s.ctx c x with pc := (s.ctx c x).pc + 128 } := by
      refine (State.ctx_setCtx ..).trans ?_
      rw [State.ctx_noteIssue]
    have hut : (u.ctx c x).tt = some th := by rw [hu]; exact hth
    have hul : u.launch = s.launch := funext fun l => congrArg (oget · l) (s.noteIssue_launches c x h.hint.toNat)
    refine ⟨_, congrArg Host.Outcome.next (oneSlot_end hi hx), ?_, ?_, ?_, fun l hl => ?_⟩
    · rw [State.ctx_endThread hut]
    · rw [State.ctx_endThread hut]
    · exact (State.endThread_mem ..).trans (s.noteIssue_mem c x h.hint.toNat)
    · exact State.launch_endThread hut (by rw [hul]; exact hl)
  · intro r hr c x h f s hi hx
    exact (aluRows_exec hr ..).trans (congrArg _ (oneSlot_scalar_off hi hx (aluRows_seq hr)))

end Sys2Proof.Machine
end

section
/-!
The sync slot and its waits (R51, R56, R61 to R63, R299 to R301, R323, R324): what each operation does as it issues, when a wait is
over, and what a semaphore or a barrier does at its home.
-/

namespace Sys2Proof.Machine

/-! ### A sync slot that executes -/

section
variable {c x : Nat} {h : SlotHdr} {f : SyncF} {s t : State} {o : SyncOp}

theorem oneSlot_sync_ok (hi : Issues s c x h (.sync o f)) (he : syncSlot c x s h o f (s.noteIssue c x h.hint.toNat) = .ok t) :
    oneSlot c x h (.sync o f) s = t.onward c x (s.ctx c x).pc := by
  rw [oneSlot_ok hi he (bundleEnds_no (by simp)), nextPc_seq (by simp)]
  rfl

theorem oneSlot_sync_error {e : CoreFault} (hi : Issues s c x h (.sync o f))
    (he : syncSlot c x s h o f (s.noteIssue c x h.hint.toNat) = .error e) :
    oneSlot c x h (.sync o f) s = (s.noteIssue c x h.hint.toNat).preciseFault c x e := oneSlot_error hi he

/-- With its predicate true the slot does what its operation says (R33). -/
theorem not_off (hx : Executes s c x h) : ¬(!((s.ctx c x).q h).getLsbD 0) = true := by
  have hq : ((s.ctx c x).q h).getLsbD 0 = true := hx
  rw [hq]
  exact Bool.false_ne_true

theorem Ctx.tagsMet_iff {k : Ctx} {m : BitVec 16} : k.tagsMet m = true ↔ ∀ t < 16, m.getLsbD t = true → k.tagCount t = 0 := by
  simp only [tagsMet, List.all_eq_true, List.mem_range, Bool.or_eq_true, Bool.not_eq_true', beq_iff_eq]
  refine forall_congr' fun t => forall_congr' fun _ => ?_
  cases m.getLsbD t <;> simp

theorem Ctx.tagsMet_false {k : Ctx} {m : BitVec 16} {t : Nat} (ht : t < 16) (hm : m.getLsbD t = true) (hk : k.tagCount t ≠ 0) :
    k.tagsMet m = false := by
  rw [Bool.eq_false_iff]
  exact fun h => hk (tagsMet_iff.mp h t ht hm)

end

/-- Settles O22: an operation that waits does so exactly where its condition fails, and its event ends the wait where it holds. -/
theorem fencesAndTags : Obligations.FencesAndTags := by
  unfold Obligations.FencesAndTags
  refine ⟨?_, ?_, ?_⟩
  · intro c x h f s hx
    dsimp only
    refine ⟨fun hi => congrArg _ (oneSlot_sync_ok hi (if_neg (not_off hx))), fun hi => ⟨fun hm => ?_, fun t ht hm hk => ?_⟩⟩
    · refine congrArg _ (oneSlot_sync_ok hi ((if_neg (not_off hx)).trans (congrArg Except.ok (if_pos ?_))))
      rw [State.ctx_noteIssue]
      exact Ctx.tagsMet_iff.mpr hm
    · refine congrArg _ (oneSlot_sync_ok hi ((if_neg (not_off hx)).trans (congrArg Except.ok (if_neg ?_))))
      rw [State.ctx_noteIssue, Ctx.tagsMet_false ht hm hk]
      exact Bool.false_ne_true
  · intro c x n m s hw hf
    refine congrArg Host.Outcome.next ?_
    simp only [fenceDone, hw, hf, Bool.not_false, and_true]
    rfl
  · intro c x m s hw hf
    refine ⟨fun hm => congrArg Host.Outcome.next ?_, fun t ht hm hk => congrArg Host.Outcome.next ?_⟩
    · simp only [mwaitDone, hw, hf, Bool.not_false, and_true, Ctx.tagsMet_iff.mpr hm, if_true]
      rfl
    · simp only [mwaitDone, hw, Ctx.tagsMet_false ht hm hk, Bool.false_eq_true, false_and, if_false]

/-! ### Semaphores, claim counters and barriers as the slot finds them -/

section
variable (s : State) (c x n : Nat)

theorem State.noteLate_sems : (s.noteLate c).sems = s.sems := by unfold noteLate; split <;> rfl
theorem State.noteLate_signals : (s.noteLate c).signals = s.signals := by unfold noteLate; split <;> rfl
theorem State.noteLate_claims : (s.noteLate c).claims = s.claims := by unfold noteLate; split <;> rfl
theorem State.noteLate_bars : (s.noteLate c).bars = s.bars := by unfold noteLate; split <;> rfl

@[simp] theorem State.noteIssue_sems : (s.noteIssue c x n).sems = s.sems := s.noteLate_sems c
@[simp] theorem State.noteIssue_signals : (s.noteIssue c x n).signals = s.signals := s.noteLate_signals c
@[simp] theorem State.noteIssue_claims : (s.noteIssue c x n).claims = s.claims := s.noteLate_claims c
@[simp] theorem State.noteIssue_bars : (s.noteIssue c x n).bars = s.bars := s.noteLate_bars c

@[simp] theorem State.sem_noteIssue : (s.noteIssue c x n).sem = s.sem := by
  funext die i; rw [sem, noteIssue_sems]; rfl
@[simp] theorem State.claim_noteIssue : (s.noteIssue c x n).claim = s.claim := by
  funext die i; rw [claim, noteIssue_claims]; rfl
@[simp] theorem State.bar_noteIssue : (s.noteIssue c x n).bar = s.bar := by
  funext p die i; rw [bar, noteIssue_bars]; rfl

end

/-- With an empty reclaim list a claim takes the counter's value and moves it on (R63). -/
theorem State.takeClaim_new {s : State} {die i : Nat} (hr : (s.claim die i).reclaim = []) (c x l n : Nat) :
    s.takeClaim c x l die i n = ((s.claim die i).value.toNat, s.setClaim die i { s.claim die i with
      value := (s.claim die i).value + BitVec.ofNat 64 n
      recs := ⟨c, x, l, (s.claim die i).value.toNat, n⟩ :: (s.claim die i).recs.filter (fun r => !(r.core == c && r.ctx == x)) }) := by
  unfold takeClaim
  simp only [hr]

/-- Settles O23: each operation whose object lies in the partition's range is a case of the sync slot; one outside it raises REGION. -/
theorem syncOperations : Obligations.SyncOperations := by
  unfold Obligations.SyncOperations
  intro c x h f s hx
  dsimp only
  refine ⟨fun hin => ⟨fun hi => ?_, fun hi => ?_, fun hi => ?_, fun hi => ?_⟩, fun hin hi hr => ?_, fun hl hen hi => ?_, fun hout hi => ?_⟩
  · refine ⟨⟨SyncDie c f, f.idx.toNat, syncCount f (s.ctx c x), c, x, (s.ctx c x).tt.getD { launch := 0, index := 0 }, (s.ctx c x).pc⟩,
      rfl, rfl, rfl, rfl, rfl, ?_⟩
    rw [← s.noteIssue_signals c x h.hint.toNat]
    exact congrArg _ (oneSlot_sync_ok hi ((if_neg (not_off hx)).trans (if_pos hin)))
  · exact congrArg _ (oneSlot_sync_ok hi ((if_neg (not_off hx)).trans (if_pos hin)))
  · rw [← s.sem_noteIssue c x h.hint.toNat]
    exact congrArg _ (oneSlot_sync_ok hi ((if_neg (not_off hx)).trans (if_pos hin)))
  · exact ⟨⟨SyncDie c f, f.idx.toNat, false, (s.sem (SyncDie c f) f.idx.toNat).value.toNat⟩, rfl, rfl,
      congrArg _ (oneSlot_sync_ok hi ((if_neg (not_off hx)).trans (if_pos hin)))⟩
  · refine ⟨⟨c, x, (s.ctx c x).launch.getD 0, (s.claim (SyncDie c f) f.idx.toNat).value.toNat, syncCount f (s.ctx c x)⟩,
      rfl, rfl, rfl, rfl, ?_⟩
    refine congrArg _ (oneSlot_sync_ok hi ((if_neg (not_off hx)).trans ((if_pos hin).trans ?_)))
    rw [State.takeClaim_new (by rw [State.claim_noteIssue]; exact hr), State.claim_noteIssue]
    dsimp only
    rw [BitVec.ofNat_toNat, BitVec.setWidth_eq]
    rfl
  · rw [← s.bar_noteIssue c x h.hint.toNat]
    refine congrArg _ (oneSlot_sync_ok hi ((if_neg (not_off hx)).trans (if_neg ?_)))
    rintro (hge | hoff)
    · omega
    · rw [show (s.bar (s.partOf c x) (if f.die then 1 - dieOf c else dieOf c) f.idx.toNat).inEn = true from hen] at hoff
      cases hoff
  · refine ⟨faultRegion 7 (syncWord (SyncDie c f) f.idx.toNat) 0, rfl, ?_⟩
    refine congrArg _ (oneSlot_sync_error hi ((if_neg (not_off hx)).trans (if_neg ?_)))
    rw [hout]
    exact Bool.false_ne_true

/-! ### Semaphores at their home (R62, R300) -/

section
variable {s : State} {k : Nat} {g : Signal}

/-- A signal that fits is added, and the hold it meets decides. -/
theorem sigApply_adds (hg : s.signals[k]? = some g) (hfit : (s.sem g.die g.idx).value.toNat + g.n < 2 ^ 32) :
    sigApply k s =
      let added := State.setSem { s with signals := s.signals.eraseIdx k } g.die g.idx
        { s.sem g.die g.idx with value := BitVec.ofNat 32 ((s.sem g.die g.idx).value.toNat + g.n) }
      match (added.sem g.die g.idx).hold with
      | some v => if v.core = g.core ∧ v.ctx = g.ctx then added.setSem g.die g.idx { added.sem g.die g.idx with hold := none } else added
      | none => added := by
  have hadd : State.semAdd { s with signals := s.signals.eraseIdx k } g.die g.idx g.n =
      some (State.setSem { s with signals := s.signals.eraseIdx k } g.die g.idx
        { s.sem g.die g.idx with value := BitVec.ofNat 32 ((s.sem g.die g.idx).value.toNat + g.n) }) := if_pos hfit
  unfold sigApply
  simp only [hg, hadd] <;> rfl

theorem sigApply_overflows (hg : s.signals[k]? = some g) (hover : 2 ^ 32 ≤ (s.sem g.die g.idx).value.toNat + g.n) :
    sigApply k s = ({ s with signals := s.signals.eraseIdx k } : State).lateFault g.core g.ctx g.pc.toNat g.by_
      (fault1 5 7 (syncWord g.die g.idx)) := by
  have hadd : State.semAdd { s with signals := s.signals.eraseIdx k } g.die g.idx g.n = none := if_neg (Nat.not_lt.mpr hover)
  unfold sigApply
  simp only [hg, hadd]

end

/-- The taker of a LOCK semaphore, or none for a plain one (R299, R300). -/
def taker (s : State) (die i c x n : Nat) : Option Hold :=
  if (s.sem die i).lock then
    some { core := c, ctx := x, n := n, since := s.time, us := max 1 (s.sem die i).holdUs.toNat, by_ := (s.ctx c x).tt.getD { launch := 0, index := 0 } }
  else none

theorem taker_eq_none {s : State} {die i c x n : Nat} : taker s die i c x n = none ↔ (s.sem die i).lock = false := by
  unfold taker
  cases (s.sem die i).lock <;> simp

theorem taker_eq_some {s : State} {die i c x n : Nat} {v : Hold} (h : taker s die i c x n = some v) :
    v.core = c ∧ v.ctx = x ∧ v.n = n ∧ v.since = s.time ∧ v.us = max 1 (s.sem die i).holdUs.toNat := by
  cases (Option.ite_none_right_eq_some.mp h).2
  exact ⟨rfl, rfl, rfl, rfl, rfl⟩

/-- The oldest take, met and with no holder, is served (R62, R300). -/
theorem semTakeDone_served {s : State} {die i c x n : Nat} {rest : List (Nat × Nat)} (hw : (s.sem die i).waiters = (c, x) :: rest)
    (hk : (s.ctx c x).wait = .semTake die i n) (hn : n ≤ (s.sem die i).value.toNat) (hh : (s.sem die i).hold = none)
    (hf : (s.core c).frozen.contains x = false) :
    semTakeDone die i s = (s.setSem die i { s.sem die i with
      value := (s.sem die i).value - BitVec.ofNat 32 n, waiters := rest, hold := taker s die i c x n }).updCtx c x
        (fun k => { k with wait := .none, seen := k.seen ++ [⟨die, i, true, n⟩] }) := by
  unfold semTakeDone
  simp only [hw, hk, hn, hh, hf, Option.isNone_none, Bool.or_true, Bool.not_false, and_self, if_true]
  rfl

/-! ### Barriers of one die (R323, R324) -/

section
variable {p i c x : Nat} {s : State} {b : Bar}

theorem barrierOpen_one_die (hi : i < 255) (hb : s.bar p 0 i = b) (hs : bit b.inSpan 0 = false) :
    barrierOpen p i true s = if b.full then s.openBar p 0 i else s := by
  have hd : i / 256 % 2 = 0 := by omega
  have hm : i % 256 = i := by omega
  simp only [barrierOpen, barrierOpens, hd, hm, hb, hs, hi, Bool.false_eq_true, if_false, List.all_cons, List.all_nil, Bool.and_true,
    Bool.true_or, true_and, and_true, List.foldl_cons, List.foldl_nil]

theorem wakeAtBar_waiting (hw : (s.ctx c x).wait = .barrier p 0 i) (hv : (s.core c).saved = none) :
    s.wakeAtBar p 0 i c x = s.updCtx c x (fun k => { k with wait := .none }) := by
  have hv' : ((s.wake c x).core c).saved = none := hv
  unfold State.wakeAtBar
  simp only [hw, if_true, hv']
  rfl

/-- A barrier whose one arrival waits opens: it goes on, and the arrival leaves. -/
theorem openBar_single (hb : s.bar p 0 i = b) (ha : b.arrivals = [some (c, x)]) (hn : b.inArrive ≤ 1)
    (hw : (s.ctx c x).wait = .barrier p 0 i) (hv : (s.core c).saved = none) :
    s.openBar p 0 i = (s.updCtx c x (fun k => { k with wait := .none })).setBar p 0 i
      ({ b with epoch := b.epoch + 1, arrivals := [] } : Bar).applyCfg := by
  have hneed : b.need = 1 := Nat.max_eq_left hn
  unfold State.openBar
  simp only [hb, hneed, ha, List.take_one, List.head?_cons, Option.toList_some, List.foldl_cons, List.foldl_nil, wakeAtBar_waiting hw hv]
  rfl

end

/-- Settles O24: signals, waits and takes at the home, and a barrier of one die with its one arrival. -/
theorem semaphoreEvents : Obligations.SemaphoreEvents := by
  unfold Obligations.SemaphoreEvents
  refine ⟨⟨?_, ?_, ?_, ?_⟩, ?_⟩
  · intro k s g hg hfit
    have hap := sigApply_adds hg hfit
    dsimp only at hap ⊢
    refine ⟨fun hh => congrArg Host.Outcome.next ?_, fun v hh hv => congrArg Host.Outcome.next ?_, fun v hh hv => congrArg Host.Outcome.next ?_⟩
    · rw [hap, hh]
    · rw [hap, hh]
      exact if_pos hv
    · rw [hap, hh]
      exact if_neg hv
  · intro k s g hg hover
    exact ⟨fault1 5 7 (syncWord g.die g.idx), rfl, congrArg Host.Outcome.next (sigApply_overflows hg hover)⟩
  · intro c x die i n s hw hf
    refine congrArg Host.Outcome.next ?_
    simp only [semWaitDone, hw, hf, Bool.not_false, and_true]
    rfl
  · intro die i c x n s rest hw hk hn hh hf
    exact ⟨_, congrArg Host.Outcome.next (semTakeDone_served hw hk hn hh hf), rfl, rfl, taker s die i c x n, _, taker_eq_none,
      fun v hv => taker_eq_some hv, rfl⟩
  · intro p i s b hi hb hs hen
    refine ⟨fun hl => congrArg Host.Outcome.next ?_, fun c x ha hn hw hv => ?_⟩
    · have hfull : b.full = false := by
        rw [Bar.full, Bar.need, decide_eq_false (Nat.not_le.mpr hl), Bool.and_false]
      rw [barrierOpen_one_die hi hb hs, hfull, if_neg Bool.false_ne_true]
    · have hfull : b.full = true := by simp [Bar.full, Bar.need, hen, ha, hn]
      refine ⟨({ b with epoch := b.epoch + 1, arrivals := [] } : Bar).applyCfg, ?_, rfl, rfl, rfl, congrArg Host.Outcome.next ?_⟩
      · simp [Bar.applyCfg, hen]
      · rw [barrierOpen_one_die hi hb hs, if_pos hfull, openBar_single hb ha hn hw hv]

end Sys2Proof.Machine
end

section
/-!
The vector slot (R33, R49, R92): the arithmetic of a lane as bit-vector arithmetic at the element's width, what each operation
writes, and the lanes that vld and vst move.
-/

namespace Sys2Proof.Machine

/-! ### Elements as bit vectors -/

theorem ofNat_unsigned (n : Nat) (v : Int) : BitVec.ofNat 32 (unsigned n v) = (BitVec.ofInt n v).setWidth 32 :=
  BitVec.eq_of_toNat_eq (by simp [unsigned, BitVec.toNat_ofInt])

theorem etWrap_eq (et : Nat) (v : Int) : etWrap et v = (BitVec.ofInt (etBits et) v).setWidth 32 := ofNat_unsigned ..

theorem etBits_pos (et : Nat) : 0 < etBits et := by
  unfold etBits
  split <;> decide

theorem etBits_le (et : Nat) : etBits et ≤ 32 := by
  unfold etBits
  split <;> decide

theorem etInt_eq (et : Nat) (w : W32) : etInt et w = (w.setWidth (etBits et)).toInt := by
  have h2 : 2 ^ etBits et = 2 * 2 ^ (etBits et - 1) := by rw [← pow_succ', Nat.sub_add_cancel (etBits_pos et)]
  rw [etInt, signed, BitVec.toInt_eq_toNat_cond, BitVec.toNat_setWidth]
  generalize w.toNat % 2 ^ etBits et = v
  rw [h2]
  by_cases hv : v < 2 ^ (etBits et - 1)
  · rw [if_pos hv, if_pos (by omega)]
  · rw [if_neg hv, if_neg (by omega)]

theorem etKeep_eq (et : Nat) (a : W32) : etKeep et a = (a.setWidth (etBits et)).setWidth 32 :=
  BitVec.eq_of_toNat_eq (by simp [etKeep])

section
variable {n : Nat} (a b : BitVec n)

theorem ofInt_toInt_add : BitVec.ofInt n (a.toInt + b.toInt) = a + b := by rw [BitVec.ofInt_add, BitVec.ofInt_toInt, BitVec.ofInt_toInt]

theorem ofInt_toInt_mul : BitVec.ofInt n (a.toInt * b.toInt) = a * b := by rw [BitVec.ofInt_mul, BitVec.ofInt_toInt, BitVec.ofInt_toInt]

theorem ofInt_toInt_neg : BitVec.ofInt n (-a.toInt) = -a := by rw [BitVec.ofInt_neg, BitVec.ofInt_toInt]

theorem ofInt_toInt_sub : BitVec.ofInt n (a.toInt - b.toInt) = a - b := by
  rw [sub_eq_add_neg, BitVec.ofInt_add, ofInt_toInt_neg, BitVec.ofInt_toInt, BitVec.sub_eq_add_neg]

theorem ofInt_toInt_min : BitVec.ofInt n (min a.toInt b.toInt) = if a.toInt ≤ b.toInt then a else b := by
  rw [min_def]
  split <;> rw [BitVec.ofInt_toInt]

theorem ofInt_toInt_max : BitVec.ofInt n (max a.toInt b.toInt) = if a.toInt ≤ b.toInt then b else a := by
  rw [max_def]
  split <;> rw [BitVec.ofInt_toInt]

theorem ofInt_natAbs_toInt : BitVec.ofInt n (a.toInt.natAbs : Int) = if a.toInt < 0 then -a else a := by
  split
  next h => rw [Int.ofNat_natAbs_of_nonpos h.le, ofInt_toInt_neg]
  next h => rw [Int.natAbs_of_nonneg (not_lt.mp h), BitVec.ofInt_toInt]

theorem ofInt_toInt_shl (k : Nat) : BitVec.ofInt n (a.toInt * (2 ^ k : Nat)) = a <<< k := by
  rw [BitVec.ofInt_mul, BitVec.ofInt_toInt, BitVec.ofInt_natCast]
  exact BitVec.eq_of_toNat_eq (by rw [BitVec.toNat_mul, BitVec.toNat_ofNat, BitVec.toNat_shiftLeft, Nat.shiftLeft_eq, Nat.mul_mod_mod])

theorem ofInt_toNat_shr (k : Nat) : BitVec.ofInt n ((a.toNat / 2 ^ k : Nat) : Int) = a >>> k := by
  rw [BitVec.ofInt_natCast]
  refine BitVec.eq_of_toNat_eq ?_
  rw [BitVec.toNat_ushiftRight, Nat.shiftRight_eq_div_pow, BitVec.toNat_ofNat]
  exact Nat.mod_eq_of_lt (lt_of_le_of_lt (Nat.div_le_self ..) a.isLt)

theorem ofInt_toInt_sra (k : Nat) : BitVec.ofInt n (a.toInt / (2 ^ k : Nat)) = a.sshiftRight k := by
  rw [← BitVec.ofInt_toInt (x := a.sshiftRight k), BitVec.toInt_sshiftRight, Int.shiftRight_eq_div_pow]

theorem ofInt_toNat (w : W32) : BitVec.ofInt n (w.toNat : Int) = w.setWidth n := by
  rw [BitVec.ofInt_natCast]
  exact BitVec.eq_of_toNat_eq (by simp)

end

/-! ### A vector slot that writes lanes -/

section
variable {c x : Nat} {h : SlotHdr} {f : VectorF} {s : State} {o : VectorOp}

theorem oneSlot_vector_stepped {g : Ctx → Ctx} (hi : Issues s c x h (.vector o f))
    (he : vectorSlot c x s h o f (s.noteIssue c x h.hint.toNat) = .ok ((s.noteIssue c x h.hint.toNat).updCtx c x g)) :
    oneSlot c x h (.vector o f) s = s.stepped c x h g :=
  oneSlot_stepped hi he (fun _ => nofun) nofun

/-- Lanes written from the state before the bundle are the lanes of `Ctx.lanes`, where the values agree on the context read. -/
theorem oneSlot_vector_lanes {v : Nat → W32} {g : Ctx → Nat → W32} (hi : Issues s c x h (.vector o f))
    (he : vectorSlot c x s h o f (s.noteIssue c x h.hint.toNat) =
      .ok ((s.noteIssue c x h.hint.toNat).updCtx c x (fun t => t.setVq (s.ctx c x) ((s.ctx c x).q h) f.vd.toNat v)))
    (hg : v = g (s.ctx c x)) :
    oneSlot c x h (.vector o f) s = s.stepped c x h (fun k => k.lanes ((s.ctx c x).q h) f.vd.toNat (g k)) := by
  rw [oneSlot_vector_stepped hi he]
  exact State.stepped_congr (by rw [hg]; rfl)

theorem oneSlot_vector_error {e : CoreFault} (hi : Issues s c x h (.vector o f))
    (he : vectorSlot c x s h o f (s.noteIssue c x h.hint.toNat) = .error e) :
    oneSlot c x h (.vector o f) s = (s.noteIssue c x h.hint.toNat).preciseFault c x e := oneSlot_error hi he

end

/-! ### The rows of the lane arithmetic -/

/-- The operation of a row is answered by the vector slot with its lane arithmetic. -/
def LaneArith (i : Nat → Nat → SlotHdr → VectorF → Instr) (o : VectorOp) : Prop :=
  (∀ c x h f s, exec (i c x h f) s = .next (oneSlot c x h (.vector o f) s)) ∧
  ∀ c x h f s t, vectorSlot c x s h o f t = .ok (t.updCtx c x (fun k => k.setVq (s.ctx c x) ((s.ctx c x).q h) f.vd.toNat
    (fun i => lane2 o f.et.toNat ((s.ctx c x).getV f.vs1.toNat i) (vsrc2 f (s.ctx c x) i))))

theorem intLaneRows_arith : ∀ r ∈ intLaneRows, LaneArith r.1 r.2.1 := by
  simp only [intLaneRows, List.cons_append, List.nil_append, List.forall_mem_cons]
  exact ⟨⟨fun _ _ _ _ _ => rfl, fun _ _ _ _ _ _ => rfl⟩, ⟨fun _ _ _ _ _ => rfl, fun _ _ _ _ _ _ => rfl⟩,
    ⟨fun _ _ _ _ _ => rfl, fun _ _ _ _ _ _ => rfl⟩, ⟨fun _ _ _ _ _ => rfl, fun _ _ _ _ _ _ => rfl⟩,
    ⟨fun _ _ _ _ _ => rfl, fun _ _ _ _ _ _ => rfl⟩, ⟨fun _ _ _ _ _ => rfl, fun _ _ _ _ _ _ => rfl⟩,
    ⟨fun _ _ _ _ _ => rfl, fun _ _ _ _ _ _ => rfl⟩, ⟨fun _ _ _ _ _ => rfl, fun _ _ _ _ _ _ => rfl⟩,
    ⟨fun _ _ _ _ _ => rfl, fun _ _ _ _ _ _ => rfl⟩, ⟨fun _ _ _ _ _ => rfl, fun _ _ _ _ _ _ => rfl⟩, nofun⟩

theorem shiftLaneRows_arith : ∀ r ∈ shiftLaneRows, LaneArith r.1 r.2.1 := by
  simp only [shiftLaneRows, List.forall_mem_cons]
  exact ⟨⟨fun _ _ _ _ _ => rfl, fun _ _ _ _ _ _ => rfl⟩, ⟨fun _ _ _ _ _ => rfl, fun _ _ _ _ _ _ => rfl⟩,
    ⟨fun _ _ _ _ _ => rfl, fun _ _ _ _ _ _ => rfl⟩, nofun⟩

theorem fpLaneRows_arith : ∀ r ∈ fpLaneRows, LaneArith r.1 r.2.1 := by
  simp only [fpLaneRows, List.forall_mem_cons]
  exact ⟨⟨fun _ _ _ _ _ => rfl, fun _ _ _ _ _ _ => rfl⟩, ⟨fun _ _ _ _ _ => rfl, fun _ _ _ _ _ _ => rfl⟩,
    ⟨fun _ _ _ _ _ => rfl, fun _ _ _ _ _ _ => rfl⟩, ⟨fun _ _ _ _ _ => rfl, fun _ _ _ _ _ _ => rfl⟩,
    ⟨fun _ _ _ _ _ => rfl, fun _ _ _ _ _ _ => rfl⟩, ⟨fun _ _ _ _ _ => rfl, fun _ _ _ _ _ _ => rfl⟩,
    ⟨fun _ _ _ _ _ => rfl, fun _ _ _ _ _ _ => rfl⟩, nofun⟩

theorem etFp_of_int {et : Nat} (h : 3 ≤ et) : etFp et = false := decide_eq_false (by omega)

theorem etFp_of_fp {et : Nat} (h : et < 3) : etFp et = true := decide_eq_true h

/-- On integer elements a row's lane arithmetic is its bit-vector operation at the element's width. -/
theorem intLaneRows_value {et : Nat} (h3 : 3 ≤ et) (a b : W32) : ∀ r ∈ intLaneRows,
    lane2 r.2.1 et a b = (r.2.2 (etBits et) (a.setWidth (etBits et)) (b.setWidth (etBits et))).setWidth 32 := by
  simp only [intLaneRows, List.cons_append, List.nil_append, List.forall_mem_cons, lane2, etFp_of_int h3, Bool.false_eq_true, if_false,
    etWrap_eq, etInt_eq, ofInt_toNat, BitVec.setWidth_and, BitVec.setWidth_or, BitVec.setWidth_xor, ofInt_toInt_add, ofInt_toInt_sub,
    ofInt_toInt_mul, ofInt_toInt_min, ofInt_toInt_max, ofInt_natAbs_toInt, ofInt_toInt_neg, true_and]
  nofun

theorem shiftLaneRows_value {et : Nat} (h3 : 3 ≤ et) (a b : W32) : ∀ r ∈ shiftLaneRows,
    lane2 r.2.1 et a b = (r.2.2 (etBits et) (a.setWidth (etBits et)) (b.toNat % etBits et)).setWidth 32 := by
  simp only [shiftLaneRows, List.forall_mem_cons, lane2, etFp_of_int h3, Bool.false_eq_true, if_false,
    etWrap_eq, etInt_eq, ofInt_toInt_shl, ofInt_toInt_sra, ← BitVec.toNat_setWidth, ofInt_toNat_shr, true_and]
  nofun

theorem fpLaneRows_value {et : Nat} (h3 : et < 3) (a b : W32) : ∀ r ∈ fpLaneRows,
    lane2 r.2.1 et a b = etRound et (r.2.2 (etVal et a) (etVal et b)) := by
  simp only [fpLaneRows, List.forall_mem_cons, lane2, etFp_of_fp h3, if_true, true_and]
  nofun

theorem laneFma_int {et : Nat} (h3 : 3 ≤ et) (a b c : W32) : laneFma et a b c =
    (a.setWidth (etBits et) * b.setWidth (etBits et) + c.setWidth (etBits et)).setWidth 32 := by
  rw [laneFma, etFp_of_int h3, if_neg Bool.false_ne_true, etWrap_eq, BitVec.ofInt_add, etInt_eq, etInt_eq, etInt_eq, ofInt_toInt_mul,
    BitVec.ofInt_toInt]

theorem laneFma_fp {et : Nat} (h3 : et < 3) (a b c : W32) : laneFma et a b c =
    etRound et (Fp.add (Fp.mul (etVal et a) (etVal et b)) (etVal et c)) := by
  rw [laneFma, etFp_of_fp h3, if_pos rfl]

/-- A row of the lane arithmetic writes the active lanes with a value that agrees with its lane arithmetic. -/
theorem LaneArith.exec_lanes {i : Nat → Nat → SlotHdr → VectorF → Instr} {o : VectorOp} (ha : LaneArith i o) {c x : Nat} {h : SlotHdr}
    {f : VectorF} {s : State} (hi : Issues s c x h (.vector o f)) {g : Ctx → Nat → W32}
    (hg : ∀ j, lane2 o f.et.toNat ((s.ctx c x).getV f.vs1.toNat j) (vsrc2 f (s.ctx c x) j) = g (s.ctx c x) j) :
    exec (i c x h f) s = .next (s.stepped c x h (fun k => k.lanes ((s.ctx c x).q h) f.vd.toNat (g k))) :=
  (ha.1 ..).trans (congrArg _ (oneSlot_vector_lanes hi (ha.2 ..) (funext hg)))

/-- Settles O17: a row's lane arithmetic is its bit-vector operation at the element's width, or one rounding of the exact FP result. -/
theorem vectorArithmetic : Obligations.VectorArithmetic := by
  unfold Obligations.VectorArithmetic
  refine ⟨fun c x h f s h3 _ => ⟨fun r hr hi => ?_, fun r hr hi => ?_, fun hi => ?_⟩, fun c x h f s h3 => ⟨fun r hr hi => ?_, fun hi => ?_⟩⟩
  · exact (intLaneRows_arith r hr).exec_lanes hi (fun _ => intLaneRows_value h3 _ _ r hr)
  · exact (shiftLaneRows_arith r hr).exec_lanes hi (fun _ => shiftLaneRows_value h3 _ _ r hr)
  · exact congrArg Host.Outcome.next (oneSlot_vector_lanes hi rfl (funext fun _ => laneFma_int h3 ..))
  · exact (fpLaneRows_arith r hr).exec_lanes hi (fun _ => fpLaneRows_value h3 _ _ r hr)
  · exact congrArg Host.Outcome.next (oneSlot_vector_lanes hi rfl (funext fun _ => laneFma_fp h3 ..))

end Sys2Proof.Machine
end

section
/-!
Moves between lanes, conversions, reductions, lane comparisons (R49, R92) and the vector loads and stores.
-/

namespace Sys2Proof.Machine

/-! ### Conversions (R92) -/

theorem cvtListed_of_lt {et : Nat} (h : et < 4) (dt : Nat) : cvtListed et dt = true := by simp [cvtListed, h]

/-- A value saturated to an integer element. -/
theorem laneCvt_fp_int {et dt : Nat} (he : et < 3) (hd : 3 ≤ dt) (a : W32) :
    laneCvt et dt a = (BitVec.ofInt (etBits dt) (Fp.toInt (etBits dt) (etVal et a))).setWidth 32 := by
  simp only [laneCvt, etFp_of_fp he, etFp_of_int hd, if_true, Bool.false_eq_true, if_false, ofNat_unsigned]

theorem laneCvt_fp {et dt : Nat} (he : et < 3) (hd : dt < 3) (a : W32) : laneCvt et dt a = etRound dt (etVal et a) := by
  simp only [laneCvt, etFp_of_fp he, etFp_of_fp hd, if_true]

theorem laneCvt_int_fp {et dt : Nat} (he : 3 ≤ et) (hd : dt < 3) (a : W32) : laneCvt et dt a = etRound dt (Fp.ofInt (etInt et a)) := by
  simp only [laneCvt, etFp_of_int he, etFp_of_fp hd, if_true, Bool.false_eq_true, if_false]

/-- An integer is its own rounding. -/
theorem Fp.rneInt_ofInt (z : Int) : Fp.rneInt (Fp.ofInt z) = z := by
  simp only [Fp.ofInt, Fp.rneInt, Fp.rneNat]
  rcases lt_or_ge z 0 with hz | hz
  · simp only [hz, decide_true, if_true, le_refl, Int.toNat_zero, Nat.shiftLeft_zero]
    exact (congrArg Neg.neg (Int.ofNat_natAbs_of_nonpos hz.le)).trans (neg_neg z)
  · simp only [not_lt.mpr hz, decide_false, Bool.false_eq_true, if_false, if_true, le_refl, Int.toNat_zero, Nat.shiftLeft_zero]
    exact Int.natAbs_of_nonneg hz

theorem laneCvt_int {et dt : Nat} (he : 3 ≤ et) (hd : 3 ≤ dt) (a : W32) : laneCvt et dt a =
    (BitVec.ofInt (etBits dt) (max (-(2 ^ (etBits dt - 1) : Int)) (min (2 ^ (etBits dt - 1) - 1) (etInt et a)))).setWidth 32 := by
  simp only [laneCvt, etFp_of_int he, etFp_of_int hd, Bool.false_eq_true, if_false, ofNat_unsigned]
  have hv : Fp.toInt (etBits dt) (Fp.ofInt (etInt et a)) =
      max (-(2 ^ (etBits dt - 1) : Nat) : Int) (min ((2 ^ (etBits dt - 1) : Nat) - 1) (Fp.rneInt (Fp.ofInt (etInt et a)))) := rfl
  rw [hv, Fp.rneInt_ofInt]
  norm_cast

section
variable {c x : Nat} {h : SlotHdr} {f : VectorF} {s : State}

theorem vectorSlot_vcvt_same {t : State} (hd : f.imm32.toNat % 8 = f.et.toNat) : vectorSlot c x s h .vcvt f t =
    .ok (t.updCtx c x (fun k => k.setVq (s.ctx c x) ((s.ctx c x).q h) f.vd.toNat (fun i => etKeep f.et.toNat ((s.ctx c x).getV f.vs1.toNat i)))) :=
  if_pos hd.symm

theorem vectorSlot_vcvt {t : State} (hd : f.imm32.toNat % 8 ≠ f.et.toNat) (hl : cvtListed f.et.toNat (f.imm32.toNat % 8) = true) :
    vectorSlot c x s h .vcvt f t = .ok (t.updCtx c x (fun k => k.setVq (s.ctx c x) ((s.ctx c x).q h) f.vd.toNat
      (fun i => laneCvt f.et.toNat (f.imm32.toNat % 8) ((s.ctx c x).getV f.vs1.toNat i)))) :=
  (if_neg (Ne.symm hd)).trans (if_pos hl)

theorem vectorSlot_vcvt_free {t : State} (hd : f.imm32.toNat % 8 ≠ f.et.toNat) (hl : cvtListed f.et.toNat (f.imm32.toNat % 8) = false) :
    vectorSlot c x s h .vcvt f t = .ok (t.updCtx c x (fun k => k.setVq (s.ctx c x) ((s.ctx c x).q h) f.vd.toNat
      (freeLane s.fresh (f.imm32.toNat % 8)))).bump :=
  (if_neg (Ne.symm hd)).trans (if_neg (by simp [hl]))

/-- A conversion that R92 lists, between two types. -/
theorem exec_vcvt {g : Ctx → Nat → W32} (hi : Issues s c x h (.vector .vcvt f)) (hd : f.imm32.toNat % 8 ≠ f.et.toNat)
    (hl : cvtListed f.et.toNat (f.imm32.toNat % 8) = true)
    (hg : ∀ i, laneCvt f.et.toNat (f.imm32.toNat % 8) ((s.ctx c x).getV f.vs1.toNat i) = g (s.ctx c x) i) :
    exec (.vcvt c x h f) s = .next (s.stepped c x h (fun k => k.lanes ((s.ctx c x).q h) f.vd.toNat (g k))) :=
  congrArg Host.Outcome.next (oneSlot_vector_lanes hi (vectorSlot_vcvt hd hl) (funext hg))

/-- A conversion that R92 does not list leaves free values and uses up an occasion. -/
theorem oneSlot_vcvt_free (hi : Issues s c x h (.vector .vcvt f)) (hd : f.imm32.toNat % 8 ≠ f.et.toNat)
    (hl : cvtListed f.et.toNat (f.imm32.toNat % 8) = false) : oneSlot c x h (.vector .vcvt f) s =
      (s.stepped c x h (fun k => k.lanes ((s.ctx c x).q h) f.vd.toNat (freeLane s.fresh (f.imm32.toNat % 8)))).bump := by
  rw [oneSlot_ok hi (vectorSlot_vcvt_free hd hl) (bundleEnds_no fun _ => nofun), nextPc_seq (op := .vector .vcvt f) nofun]
  have hc : s.stepped c x h (fun k => k.lanes ((s.ctx c x).q h) f.vd.toNat (freeLane s.fresh (f.imm32.toNat % 8))) =
      s.stepped c x h (fun k => k.setVq (s.ctx c x) ((s.ctx c x).q h) f.vd.toNat (freeLane s.fresh (f.imm32.toNat % 8))) :=
    State.stepped_congr rfl
  rw [hc]
  rfl

end

/-- The low bits of a 64-bit scalar in a lane. -/
theorem ofNat_mod_pow (n : Nat) (w : W64) : BitVec.ofNat 32 (w.toNat % 2 ^ n) = (w.setWidth n).setWidth 32 :=
  BitVec.eq_of_toNat_eq (by simp)

theorem setWidth_ofInt {n m : Nat} (h : n ≤ m) (v : Int) : (BitVec.ofInt m v).setWidth n = BitVec.ofInt n v := by
  refine BitVec.eq_of_toInt_eq ?_
  rw [BitVec.toInt_setWidth, BitVec.toInt_ofInt, BitVec.toNat_ofInt, Int.toNat_of_nonneg (Int.emod_nonneg _ (by positivity)),
    Int.bmod_def, Int.bmod_def, Int.emod_emod_of_dvd]
  exact_mod_cast pow_dvd_pow 2 h

/-- The lane number and the immediate, wrapped at the element's width. -/
theorem etWrap_vidx (et i : Nat) (m : W32) : etWrap et ((i : Int) + m.toInt) = ((BitVec.ofNat 32 i + m).setWidth (etBits et)).setWidth 32 := by
  rw [etWrap_eq, ← setWidth_ofInt (etBits_le et), BitVec.ofInt_add, BitVec.ofInt_toInt, BitVec.ofInt_natCast]

/-! ### Reductions (R49) -/

/-- The greatest of a list above `lo` is one of its elements, unless the list is empty. -/
theorem foldl_max_spec {α : Type} [LinearOrder α] : ∀ (vs : List α) (lo : α), (∀ v ∈ vs, lo ≤ v) →
    (vs ≠ [] → vs.foldl max lo ∈ vs) ∧ ∀ v ∈ vs, v ≤ vs.foldl max lo := by
  have hle : ∀ (vs : List α) (lo : α), lo ≤ vs.foldl max lo ∧ ∀ v ∈ vs, v ≤ vs.foldl max lo := by
    intro vs
    induction vs with
    | nil => simp
    | cons v vs ih =>
      intro lo
      obtain ⟨h1, h2⟩ := ih (max lo v)
      exact ⟨(le_max_left ..).trans h1, List.forall_mem_cons.mpr ⟨(le_max_right ..).trans h1, h2⟩⟩
  have hmem : ∀ (vs : List α) (lo : α), vs.foldl max lo ∈ lo :: vs := by
    intro vs
    induction vs with
    | nil => simp
    | cons v vs ih =>
      intro lo
      rcases max_choice lo v with hc | hc <;> have := ih (max lo v) <;> rw [hc] at this <;> rw [List.foldl_cons, hc]
      · rcases List.mem_cons.mp this with h | h <;> simp [h]
      · exact List.mem_cons_of_mem _ this
  intro vs lo hlo
  refine ⟨fun hne => ?_, (hle vs lo).2⟩
  obtain ⟨v, vs', rfl⟩ := List.exists_cons_of_ne_nil hne
  have hv : max lo v = v := max_eq_right (hlo v List.mem_cons_self)
  rw [List.foldl_cons, hv]
  exact hmem vs' v

theorem foldl_min_spec {α : Type} [LinearOrder α] (vs : List α) (hi : α) (h : ∀ v ∈ vs, v ≤ hi) :
    (vs ≠ [] → vs.foldl min hi ∈ vs) ∧ ∀ v ∈ vs, vs.foldl min hi ≤ v :=
  foldl_max_spec (α := αᵒᵈ) vs hi h

/-- An element lies in its type's range. -/
theorem etInt_range (et : Nat) (w : W32) : -(2 ^ (etBits et - 1) : Int) ≤ etInt et w ∧ etInt et w ≤ 2 ^ (etBits et - 1) - 1 := by
  rw [etInt_eq]
  have hl := BitVec.le_toInt (w.setWidth (etBits et))
  have hu := BitVec.toInt_lt (x := w.setWidth (etBits et))
  exact ⟨hl, by omega⟩

/-- A value of an element's range is itself as a 64-bit scalar. -/
theorem toInt_ofInt_et {et : Nat} {v : Int} (hl : -(2 ^ (etBits et - 1) : Int) ≤ v) (hu : v ≤ 2 ^ (etBits et - 1) - 1) :
    (BitVec.ofInt 64 v).toInt = v := by
  have hp : (2 ^ (etBits et - 1) : Int) ≤ 2 ^ 31 := pow_le_pow_right₀ (by norm_num) (by have := etBits_le et; omega)
  rw [BitVec.toInt_ofInt, Int.bmod_eq_of_le (by norm_num at hp ⊢; omega) (by norm_num at hp ⊢; omega)]

theorem ofNat_unsigned64 (v : Int) : BitVec.ofNat 64 (unsigned 64 v) = BitVec.ofInt 64 v :=
  BitVec.eq_of_toNat_eq (by rw [BitVec.toNat_ofNat, BitVec.toNat_ofInt, unsigned]; have := Int.emod_lt_of_pos v (b := 2 ^ 64) (by norm_num); omega)

section
variable {et : Nat} (q : BitVec 256) (v : Nat → W32)

/-- The active lanes' integer elements. -/
def laneInts (et : Nat) (q : BitVec 256) (v : Nat → W32) : List Int := (activeLanes q).map (fun i => etInt et (v i))

theorem laneInts_range {w : Int} (h : w ∈ laneInts et q v) : -(2 ^ (etBits et - 1) : Int) ≤ w ∧ w ≤ 2 ^ (etBits et - 1) - 1 := by
  obtain ⟨i, _, rfl⟩ := List.mem_map.mp h
  exact etInt_range ..

theorem vredAdd_int (h : 3 ≤ et) : vred .vredAdd et q v = BitVec.ofInt 64 (laneInts et q v).sum := by
  simp only [vred, etFp_of_int h, Bool.false_eq_true, if_false, ofNat_unsigned64, laneInts, List.sum_eq_foldl, List.foldl_map]

theorem vredMax_int (h : 3 ≤ et) : vred .vredMax et q v = BitVec.ofInt 64 ((laneInts et q v).foldl max (-(2 ^ (etBits et - 1) : Int))) := by
  simp only [vred, etFp_of_int h, Bool.false_eq_true, if_false, ofNat_unsigned64, laneInts, List.foldl_map]
  norm_cast

theorem vredMin_int (h : 3 ≤ et) : vred .vredMin et q v = BitVec.ofInt 64 ((laneInts et q v).foldl min (2 ^ (etBits et - 1) - 1 : Int)) := by
  simp only [vred, etFp_of_int h, Bool.false_eq_true, if_false, ofNat_unsigned64, laneInts, List.foldl_map]
  norm_cast

/-- The greatest active element, or the least value where no lane is active. -/
theorem vredMax_spec (h : 3 ≤ et) : let w := vred .vredMax et q v
    (laneInts et q v ≠ [] → w.toInt ∈ laneInts et q v ∧ ∀ z ∈ laneInts et q v, z ≤ w.toInt) ∧
      (laneInts et q v = [] → w = BitVec.ofInt 64 (-(2 ^ (etBits et - 1) : Int))) := by
  intro w
  obtain ⟨hm, hle⟩ := foldl_max_spec (laneInts et q v) _ fun z hz => (laneInts_range q v hz).1
  refine ⟨fun hne => ?_, fun he => ?_⟩
  · have hr := laneInts_range q v (hm hne)
    rw [show w.toInt = _ from (congrArg BitVec.toInt (vredMax_int q v h)).trans (toInt_ofInt_et hr.1 hr.2)]
    exact ⟨hm hne, hle⟩
  · rw [show w = _ from vredMax_int q v h, he, List.foldl_nil]

/-- The least active element, or the greatest value where no lane is active. -/
theorem vredMin_spec (h : 3 ≤ et) : let w := vred .vredMin et q v
    (laneInts et q v ≠ [] → w.toInt ∈ laneInts et q v ∧ ∀ z ∈ laneInts et q v, w.toInt ≤ z) ∧
      (laneInts et q v = [] → w = BitVec.ofInt 64 (2 ^ (etBits et - 1) - 1 : Int)) := by
  intro w
  obtain ⟨hm, hle⟩ := foldl_min_spec (laneInts et q v) _ fun z hz => (laneInts_range q v hz).2
  refine ⟨fun hne => ?_, fun he => ?_⟩
  · have hr := laneInts_range q v (hm hne)
    rw [show w.toInt = _ from (congrArg BitVec.toInt (vredMin_int q v h)).trans (toInt_ofInt_et hr.1 hr.2)]
    exact ⟨hm hne, hle⟩
  · rw [show w = _ from vredMin_int q v h, he, List.foldl_nil]

theorem vred_fp (h : et < 3) :
    vred .vredMax et q v = BitVec.ofNat 64 (Fp.to32 (((activeLanes q).map (fun i => etVal et (v i))).foldl Fp.max (.inf true))) ∧
    vred .vredMin et q v = BitVec.ofNat 64 (Fp.to32 (((activeLanes q).map (fun i => etVal et (v i))).foldl Fp.min (.inf false))) ∧
    vred .vredAdd et q v = BitVec.ofNat 64 (Fp.to32 (Fp.tree32 8 ((List.range 256).map (fun i =>
      if q.getLsbD i then etVal et (v i) else Fp.zero)))) := by
  simp only [vred, etFp_of_fp h, if_true, List.foldl_map, and_self]

end

/-! ### Lane comparisons (R49) -/

/-- A number read off its bits, least significant first. -/
theorem testBit_foldr_bits (n : Nat) (g : Nat → Bool) (i : Nat) :
    ((List.range n).foldr (fun i a => 2 * a + b2n (g i)) 0).testBit i = (decide (i < n) && g i) := by
  induction n generalizing g i with
  | zero => simp
  | succ n ih =>
    rw [List.range_succ_eq_map, List.foldr_cons, List.foldr_map]
    generalize hf : List.foldr (fun j a => 2 * a + b2n (g (j + 1))) 0 (List.range n) = m
    have hm : ∀ j, m.testBit j = (decide (j < n) && g (j + 1)) := fun j => hf ▸ ih (fun j => g (j + 1)) j
    cases i with
    | zero => cases hg : g 0 <;> simp [Nat.testBit_zero, b2n]
    | succ i => rw [Nat.testBit_succ, show (2 * m + b2n (g 0)) / 2 = m by unfold b2n; split <;> omega, hm]; simp

/-- The predicate register that a lane comparison makes. -/
def cmpBits (k : Ctx) (q : BitVec 256) (r : Nat) (g : Nat → Bool) : BitVec 256 :=
  BitVec.ofNat 256 ((List.range 256).foldr (fun i a => 2 * a + b2n (if q.getLsbD i then g i else (k.getP r).getLsbD i)) 0)

theorem getLsbD_cmpBits {k : Ctx} {q : BitVec 256} {r : Nat} {g : Nat → Bool} {i : Nat} (hi : i < 256) :
    (cmpBits k q r g).getLsbD i = if q.getLsbD i then g i else (k.getP r).getLsbD i := by
  rw [cmpBits, BitVec.getLsbD_ofNat, testBit_foldr_bits]
  simp [hi]

/-- The operation of a row is answered by the vector slot with its comparison. -/
def LaneCmp (i : Nat → Nat → SlotHdr → VectorF → Instr) (o : VectorOp) : Prop :=
  (∀ c x h f s, exec (i c x h f) s = .next (oneSlot c x h (.vector o f) s)) ∧
  ∀ c x h f s t, vectorSlot c x s h o f t = .ok (t.updCtx c x (fun k => k.setPq (s.ctx c x) ((s.ctx c x).q h) f.pd.toNat
    (fun i => (laneCmp o f.et.toNat ((s.ctx c x).getV f.vs1.toNat i) (vsrc2 f (s.ctx c x) i)).getD false)))

theorem laneCmpRows_cmp : ∀ r ∈ laneCmpRows, LaneCmp r.1 r.2.1 := by
  simp only [laneCmpRows, List.forall_mem_cons]
  exact ⟨⟨fun _ _ _ _ _ => rfl, fun _ _ _ _ _ _ => rfl⟩, ⟨fun _ _ _ _ _ => rfl, fun _ _ _ _ _ _ => rfl⟩,
    ⟨fun _ _ _ _ _ => rfl, fun _ _ _ _ _ _ => rfl⟩, ⟨fun _ _ _ _ _ => rfl, fun _ _ _ _ _ _ => rfl⟩, nofun⟩

theorem laneCmpRows_value (et : Nat) (a b : W32) : ∀ r ∈ laneCmpRows, (laneCmp r.2.1 et a b).getD false =
    if et < 3 then r.2.2.1 (etVal et a) (etVal et b) else r.2.2.2 (etInt et a) (etInt et b) := by
  simp only [laneCmpRows, List.forall_mem_cons, laneCmp, Option.getD_some]
  rcases lt_or_ge et 3 with h | h
  · simp [etFp_of_fp h, h]
  · simp only [etFp_of_int h, not_lt.mpr h, Bool.false_eq_true, if_false, ne_eq, decide_not, Int.le_iff_lt_or_eq, Bool.decide_or, true_and]
    exact ⟨Bool.beq_eq_decide_eq .., congrArg _ (Bool.beq_eq_decide_eq ..), congrArg _ (Bool.beq_eq_decide_eq ..), nofun⟩

section
variable {c x : Nat} {h : SlotHdr} {f : VectorF} {s : State}

/-- A reduction writes its scalar. -/
theorem oneSlot_vred {o : VectorOp} {w : W64} (hi : Issues s c x h (.vector o f))
    (he : ∀ t, vectorSlot c x s h o f t = .ok (t.updCtx c x (fun k => k.setS f.ss.toNat
      (vred o f.et.toNat ((s.ctx c x).q h) ((s.ctx c x).getV f.vs1.toNat)))))
    (hw : vred o f.et.toNat ((s.ctx c x).q h) ((s.ctx c x).getV f.vs1.toNat) = w) :
    oneSlot c x h (.vector o f) s = s.stepped c x h (fun k => k.setS f.ss.toNat w) := by
  rw [oneSlot_vector_stepped hi (he _), hw]

/-- A conversion from an integer type to a type of another kind or width that R92 does not list. -/
theorem cvtListed_not {et dt : Nat} (h : (et, dt) ∈ [(4, 1), (4, 2), (4, 3), (4, 5), (5, 3), (5, 4)]) : cvtListed et dt = false ∧ dt ≠ et := by
  simp only [List.mem_cons, Prod.mk.injEq, List.not_mem_nil, or_false] at h
  rcases h with ⟨rfl, rfl⟩ | ⟨rfl, rfl⟩ | ⟨rfl, rfl⟩ | ⟨rfl, rfl⟩ | ⟨rfl, rfl⟩ | ⟨rfl, rfl⟩ <;> decide

theorem cvtListed_int_fp {et dt : Nat} (h : (et, dt) ∈ [(3, 0), (3, 1), (3, 2), (4, 0), (5, 0), (5, 1), (5, 2)]) :
    cvtListed et dt = true ∧ dt ≠ et ∧ 3 ≤ et ∧ dt < 3 := by
  simp only [List.mem_cons, Prod.mk.injEq, List.not_mem_nil, or_false] at h
  rcases h with ⟨rfl, rfl⟩ | ⟨rfl, rfl⟩ | ⟨rfl, rfl⟩ | ⟨rfl, rfl⟩ | ⟨rfl, rfl⟩ | ⟨rfl, rfl⟩ | ⟨rfl, rfl⟩ <;> decide

end

/-- Settles O18: each move is a function of the lanes read, a reduction folds the active lanes, a comparison writes bit by bit. -/
theorem vectorMoves : Obligations.VectorMoves := by
  unfold Obligations.VectorMoves
  refine ⟨⟨?_, ?_⟩, ?_⟩
  · intro c x h f s
    dsimp only
    refine ⟨fun hi => ?_, fun hi => ?_, fun hi => ?_, fun hi hd => ?_, fun hi hd he hf => ?_, fun hi he hd => ?_, fun hi he hd hd' => ?_,
      fun hi hl => ?_, fun hi hl => ?_, fun hi => ?_, fun hi he => ?_, fun hi he => ?_⟩
    · exact congrArg Host.Outcome.next (oneSlot_vector_lanes hi rfl rfl)
    · exact congrArg Host.Outcome.next (oneSlot_vector_lanes hi rfl rfl)
    · exact congrArg Host.Outcome.next (oneSlot_vector_lanes hi rfl (funext fun _ => ofNat_mod_pow ..))
    · exact congrArg Host.Outcome.next (oneSlot_vector_lanes hi (vectorSlot_vcvt_same hd) (funext fun _ => etKeep_eq ..))
    · exact exec_vcvt hi hd (cvtListed_of_lt (by omega) _) fun _ => laneCvt_fp he hf _
    · exact exec_vcvt hi (by omega) (cvtListed_of_lt (by omega) _) fun _ => laneCvt_fp_int he hd _
    · exact exec_vcvt hi (by omega) (cvtListed_of_lt (by omega) _) fun _ => laneCvt_int (by omega) (by omega) _
    · obtain ⟨hl, hne, he, hd⟩ := cvtListed_int_fp hl
      exact exec_vcvt hi hne hl fun _ => laneCvt_int_fp he hd _
    · obtain ⟨hl, hne⟩ := cvtListed_not hl
      exact ⟨_, congrArg Host.Outcome.next (oneSlot_vcvt_free hi hne hl)⟩
    · exact congrArg Host.Outcome.next (oneSlot_vector_lanes hi rfl rfl)
    · exact congrArg Host.Outcome.next (oneSlot_vector_lanes hi rfl (funext fun _ => by rw [etFp_of_int he]; exact etWrap_vidx ..))
    · exact congrArg Host.Outcome.next (oneSlot_vector_lanes hi rfl (funext fun _ => by rw [etFp_of_fp he]; rfl))
  · intro c x h f s
    dsimp only
    let q := (s.ctx c x).q h
    let v := (s.ctx c x).getV f.vs1.toNat
    refine ⟨fun hi he => ?_, fun hi he => ?_, fun hi he => ?_, fun hi he => ?_, fun hi he => ?_, fun hi he => ?_⟩
    · exact congrArg Host.Outcome.next (oneSlot_vred hi (fun _ => rfl) (vredAdd_int q v he))
    · exact ⟨_, congrArg Host.Outcome.next (oneSlot_vred hi (fun _ => rfl) rfl), vredMax_spec q v he⟩
    · exact ⟨_, congrArg Host.Outcome.next (oneSlot_vred hi (fun _ => rfl) rfl), vredMin_spec q v he⟩
    · exact congrArg Host.Outcome.next (oneSlot_vred hi (fun _ => rfl) (vred_fp q v he).1)
    · exact congrArg Host.Outcome.next (oneSlot_vred hi (fun _ => rfl) (vred_fp q v he).2.1)
    · exact congrArg Host.Outcome.next (oneSlot_vred hi (fun _ => rfl) (vred_fp q v he).2.2)
  · intro r hr c x h f s hi
    obtain ⟨he, hs⟩ := laneCmpRows_cmp r hr
    refine ⟨cmpBits (s.ctx c x) ((s.ctx c x).q h) f.pd.toNat _, (he ..).trans (congrArg Host.Outcome.next (oneSlot_vector_stepped hi (hs ..))), fun i hlt => ?_⟩
    rw [getLsbD_cmpBits hlt, laneCmpRows_value _ _ _ r hr]

end Sys2Proof.Machine
end

section
/-!
The lanes that vld and vst move (R49), special functions (R160, R161) and commits of tables (R180, R181).
-/

namespace Sys2Proof.Machine

/-! ### Lanes stored one after the other (R49) -/

/-- The lanes `l` of `v` stored as elements of `n` bytes from `ad`. -/
def State.storeLanes (s : State) (l : List Nat) (ad n : Nat) (v : Nat → W32) : State :=
  l.foldl (fun t i => t.write (ad + n * i) (toLe n (v i).toNat)) s

section
variable (l : List Nat) (ad n : Nat) (v : Nat → W32) (s : State)

@[simp] theorem State.storeLanes_cons (i : Nat) :
    s.storeLanes (i :: l) ad n v = (s.write (ad + n * i) (toLe n (v i).toNat)).storeLanes l ad n v := rfl

theorem State.storeLanes_ctxs : (s.storeLanes l ad n v).ctxs = s.ctxs := by
  induction l generalizing s with
  | nil => rfl
  | cons i l ih => rw [storeLanes_cons, ih, write_ctxs]

theorem State.storeLanes_cores : (s.storeLanes l ad n v).cores = s.cores := by
  induction l generalizing s with
  | nil => rfl
  | cons i l ih => rw [storeLanes_cons, ih, write_cores]

/-- A byte outside the spans of the lanes keeps its value. -/
theorem State.rawByte_storeLanes_outside {b : Nat} (h : ∀ i ∈ l, b < ad + n * i ∨ ad + n * i + n ≤ b) :
    (s.storeLanes l ad n v).rawByte b = s.rawByte b := by
  induction l generalizing s with
  | nil => rfl
  | cons i l ih =>
    rw [storeLanes_cons, ih _ fun j hj => h j (List.mem_cons_of_mem _ hj)]
    exact (s.rawByte_write_toLe ..).2 b (h i List.mem_cons_self)

/-- A lane stored lies in memory: the spans of distinct lanes do not meet. -/
theorem State.rawByte_storeLanes_lane {i j : Nat} (hi : i ∈ l) (hj : j < n) :
    (s.storeLanes l ad n v).rawByte (ad + n * i + j) = BitVec.ofNat 8 ((v i).toNat / 256 ^ j) := by
  induction l generalizing s with
  | nil => simp at hi
  | cons k l ih =>
    rw [storeLanes_cons]
    by_cases hl : i ∈ l
    · exact ih _ hl
    obtain rfl : i = k := (List.mem_cons.mp hi).resolve_right hl
    rw [rawByte_storeLanes_outside]
    · exact (s.rawByte_write_toLe ..).1 j hj
    · intro m hm
      rcases Nat.lt_or_gt_of_ne (show m ≠ i from fun e => hl (e ▸ hm)) with hlt | hgt
      · have := Nat.mul_le_mul_left n hlt
        rw [Nat.mul_succ] at this
        omega
      · have := Nat.mul_le_mul_left n hgt
        rw [Nat.mul_succ] at this
        omega

end

theorem mem_activeLanes {q : BitVec 256} {i : Nat} : i ∈ activeLanes q ↔ i < 256 ∧ q.getLsbD i = true := by
  simp [activeLanes]

section
variable {c x : Nat} {h : SlotHdr} {f : VectorF} {s t : State}

theorem vectorSlot_vld {a : Nat} (ha : windowAddr c (s.ctx c x) (vectorOff (s.ctx c x) f) (256 * (etBits f.et.toNat / 8)) 64 = some a) :
    vectorSlot c x s h .vld f t = .ok (t.updCtx c x (fun k => k.setVq (s.ctx c x) ((s.ctx c x).q h) f.vd.toNat
      (fun i => BitVec.ofNat 32 (s.seenLe (a + etBits f.et.toNat / 8 * i) (etBits f.et.toNat / 8))))) := by
  unfold vectorSlot
  simp only [ha]

theorem vectorSlot_vst {a : Nat} (ha : windowAddr c (s.ctx c x) (vectorOff (s.ctx c x) f) (256 * (etBits f.et.toNat / 8)) 64 = some a) :
    vectorSlot c x s h .vst f t =
      .ok (t.storeLanes (activeLanes ((s.ctx c x).q h)) a (etBits f.et.toNat / 8) ((s.ctx c x).getV f.vs1.toNat)) := by
  unfold vectorSlot
  simp only [ha]
  rfl

theorem vectorSlot_outside {o : VectorOp} (ho : o = .vld ∨ o = .vst)
    (ha : windowAddr c (s.ctx c x) (vectorOff (s.ctx c x) f) (256 * (etBits f.et.toNat / 8)) 64 = none) :
    vectorSlot c x s h o f t = .error (faultAddress 5 (offsetAddr c (s.ctx c x) (vectorOff (s.ctx c x) f))) := by
  rcases ho with rfl | rfl <;> unfold vectorSlot <;> simp only [ha]

end

/-- Settles O19: inside the window vld reads and vst stores lane by lane; outside it both fault. -/
theorem vectorMemory : Obligations.VectorMemory := by
  unfold Obligations.VectorMemory
  intro c x o h f s
  dsimp only
  refine ⟨fun ho ha hw => ?_, fun hout => ?_⟩
  · have hin := windowAddr_inside (c := c) (k := s.ctx c x) (al := 64) ho ha hw
    refine ⟨fun hi => congrArg Host.Outcome.next (oneSlot_vector_lanes hi (vectorSlot_vld hin) rfl), fun hi => ?_⟩
    refine ⟨_, congrArg Host.Outcome.next (oneSlot_ok hi (vectorSlot_vst hin) (bundleEnds_no fun _ => nofun)), ?_, fun b hb => ?_, ?_, ?_⟩
    · exact fun i hi hq j hj => State.rawByte_storeLanes_lane _ _ _ _ _ (mem_activeLanes.mpr ⟨hi, hq⟩) hj
    · refine (State.rawByte_storeLanes_outside _ _ _ _ _ fun i hi => ?_).trans (State.rawByte_noteIssue ..)
      obtain ⟨hi, hq⟩ := mem_activeLanes.mp hi
      exact hb i hi hq
    · rw [nextPc_seq (op := .vector .vst f) nofun]
      refine (State.ctx_setCtx ..).trans ?_
      rw [State.ctx_of_ctxs (State.storeLanes_ctxs ..), State.ctx_noteIssue]
    · exact State.storeLanes_cores ..
  · have hno := windowAddr_outside (c := c) (k := s.ctx c x) (al := 64) (off := vectorOff (s.ctx c x) f)
      (n := 256 * (etBits f.et.toNat / 8)) (by push_cast; exact hout)
    exact ⟨fun hi => ⟨_, rfl, congrArg Host.Outcome.next (oneSlot_vector_error hi (vectorSlot_outside (.inl rfl) hno))⟩,
      fun hi => ⟨_, rfl, congrArg Host.Outcome.next (oneSlot_vector_error hi (vectorSlot_outside (.inr rfl) hno))⟩⟩

/-! ### Special functions (R160, R161) -/

/-- A NaN gives the canonical NaN, whatever the record's special-value fields are. -/
theorem recSpecial_nan (hd : Nat) : recSpecial hd (Fp.to32 .nan) = some 0x7FC00000 := by
  have hn : Fp.of32 (Fp.to32 .nan) = .nan := by decide
  unfold recSpecial
  simp only [hn]

theorem sfuEval_nan (rec : List Byte) (seg : Nat → List Nat) : sfuEval rec seg (Fp.to32 .nan) = 0x7FC00000 := by
  unfold sfuEval
  simp only [recSpecial_nan]

theorem factoryRun_nan (n : Nat) : factoryRun n (Fp.to32 .nan) = 0x7FC00000 := by
  unfold factoryRun
  split
  · exact sfuEval_nan ..
  · simp only [recSpecial_nan]

theorem State.sfuRun_nan (s : State) (c n : Nat) : s.sfuRun c n (Fp.to32 .nan) = 0x7FC00000 := by
  unfold sfuRun
  dsimp only
  split
  · exact factoryRun_nan ..
  · exact sfuEval_nan ..

section
variable {c x : Nat} {h : SlotHdr} {f : SpecialF} {s : State} {o : SpecialOp}

theorem oneSlot_special_stepped {g g' : Ctx → Ctx} (hi : Issues s c x h (.special o f))
    (he : specialSlot c x s (oneHeader h (.special o f)) h o f (s.noteIssue c x h.hint.toNat) =
      .ok ((s.noteIssue c x h.hint.toNat).updCtx c x g)) (hg : g (s.ctx c x) = g' (s.ctx c x)) :
    oneSlot c x h (.special o f) s = s.stepped c x h g' := by
  rw [oneSlot_stepped hi he (fun _ => nofun) nofun]
  exact State.stepped_congr hg

theorem oneSlot_special_error {e : CoreFault} (hi : Issues s c x h (.special o f))
    (he : specialSlot c x s (oneHeader h (.special o f)) h o f (s.noteIssue c x h.hint.toNat) = .error e) :
    oneSlot c x h (.special o f) s = (s.noteIssue c x h.hint.toNat).preciseFault c x e := oneSlot_error hi he

theorem oneSlot_special_onward {t : State} (hi : Issues s c x h (.special o f))
    (he : specialSlot c x s (oneHeader h (.special o f)) h o f (s.noteIssue c x h.hint.toNat) = .ok t) :
    oneSlot c x h (.special o f) s = t.onward c x (s.ctx c x).pc := by
  rw [oneSlot_ok hi he (bundleEnds_no fun _ => nofun), nextPc_seq (op := .special o f) nofun]
  rfl

end

/-- Settles O20: the lanes are the program's results rounded once, and NaN passes through every program. -/
theorem specialFunction : Obligations.SpecialFunction := by
  unfold Obligations.SpecialFunction
  intro c x h f s
  dsimp only
  refine ⟨fun w hw => ?_, fun hi hv => ?_, fun hi hv => ?_, fun hv => ?_⟩
  · rw [hw, State.sfuRun_nan]
    decide
  · exact congrArg Host.Outcome.next (oneSlot_special_stepped hi (if_pos hv) rfl)
  · exact congrArg Host.Outcome.next (oneSlot_special_stepped hi (if_pos hv) rfl)
  · have hn : ¬s.sfuValid c f.prog.toNat = true := by simp [hv]
    exact ⟨fault1 1 6 (oneHeader h (.special .sfu f)), fault1 1 6 (oneHeader h (.special .sfuGate f)), rfl, rfl,
      fun hi => congrArg Host.Outcome.next (oneSlot_special_error hi (if_neg hn)),
      fun hi => congrArg Host.Outcome.next (oneSlot_special_error hi (if_neg hn))⟩

/-! ### Commits of tables (R180, R181) -/

section
variable {c no : Nat} {s : State} {e : Commit}

theorem checkDone_passes (he : (s.core c).commits.find? (fun t => t.table = no ∧ !t.passed) = some e) (hk : s.commitOk c no = true) :
    checkDone c no s = s.updCore c (fun k => { k with
      commits := k.commits.map (fun t => if t.table = no then { t with passed := true } else t) }) := by
  unfold checkDone
  simp only [he, hk, if_true]

theorem checkDone_fails {x : Nat} (he : (s.core c).commits.find? (fun t => t.table = no ∧ !t.passed) = some e)
    (hk : s.commitOk c no = false) (hc : e.ctx = some x) : checkDone c no s =
      ((s.updCore c (fun k => k.dropCommit no)).issueMmuls c).lateFault c x e.pc.toNat e.by_ (fault1 1 6 e.header) := by
  unfold checkDone
  simp only [he, hk, Bool.false_eq_true, if_false, hc]

theorem checkDone_drops (he : (s.core c).commits.find? (fun t => t.table = no ∧ !t.passed) = some e)
    (hk : s.commitOk c no = false) (hc : e.ctx = none) :
    checkDone c no s = (s.updCore c (fun k => k.dropCommit no)).issueMmuls c := by
  unfold checkDone
  simp only [he, hk, Bool.false_eq_true, if_false, hc]

theorem tableSwitch_unused (he : (s.core c).commits.find? (fun t => t.table = no ∧ t.passed) = some e) (hu : s.tableUsed c e = false) :
    tableSwitch c no s =
      (s.setCore c { (s.core c).dropCommit no with active := (s.core c).active ^^^ (1#512 <<< no) }).issueMmuls c := by
  unfold tableSwitch
  simp only [he, hu, Bool.false_eq_true, if_false]
  rfl

end

theorem getLsbD_one_shl {no : Nat} (h : no < 512) (i : Nat) : (1#512 <<< no).getLsbD i = decide (i = no) := by
  rw [BitVec.getLsbD_shiftLeft, BitVec.getLsbD_one, Bool.eq_iff_iff]
  simp only [Bool.and_eq_true, decide_eq_true_eq, Bool.not_eq_true', decide_eq_false_iff_not]
  omega

/-- A TBL_LOAD goes on only where one stands in the journal. -/
theorem State.tblAdvance_idle {s : State} (h : ∀ d ∈ s.journal, d.code ≠ 0x0203) : s.tblAdvance = s := by
  unfold tblAdvance
  rw [List.filter_eq_nil_iff.mpr fun d hd => by simp [h d hd]]
  rfl

/-- Settles O21: a commit becomes pending once, its check marks or drops it, and its switch flips one bit of the bank register. -/
theorem tableCommit : Obligations.TableCommit := by
  unfold Obligations.TableCommit
  refine ⟨fun c x h f s hi hx hid => ⟨fun hp => ?_, fun hp => ?_⟩, fun c no s e he => ⟨fun hk => ?_, fun hk => ⟨fun hc => ?_, fun x hc => ?_⟩⟩,
    fun c no s e he hu hno => ?_, fun s => State.tblAdvance_idle⟩
  · have hq : ((s.ctx c x).q h).getLsbD 0 = true := hx
    have hn : ¬(s.core c).pending.getLsbD (tableNo f.imm32.toNat) = true := by simp [hp]
    have hs : ((s.noteIssue c x h.hint.toNat).core c).nextSeq = (s.core c).nextSeq := by rw [State.core_noteIssue]
    let e : Commit := ⟨tableNo f.imm32.toNat, decide (256 ≤ tableNo f.imm32.toNat), some x,
      (s.ctx c x).tt.getD { launch := 0, index := 0 }, (s.ctx c x).pc, oneHeader h (.special .tblCommit f), (s.core c).nextSeq⟩
    refine ⟨e, rfl, rfl, rfl, rfl, congrArg Host.Outcome.next (oneSlot_special_onward hi ((if_pos hid).trans ((if_pos hq).trans ((if_neg hn).trans ?_))))⟩
    unfold State.startCommit State.updCore
    dsimp only [e]
    rw [hs]
  · have hq : ((s.ctx c x).q h).getLsbD 0 = true := hx
    exact ⟨_, rfl, congrArg Host.Outcome.next (oneSlot_special_error hi ((if_pos hid).trans ((if_pos hq).trans (if_pos hp))))⟩
  · exact congrArg (fun t : State => Host.Outcome.next t.tblAdvance) (checkDone_passes he hk)
  · exact congrArg (fun t : State => Host.Outcome.next t.tblAdvance) (checkDone_drops he hk hc)
  · exact ⟨fault1 1 6 e.header, rfl, congrArg (fun t : State => Host.Outcome.next t.tblAdvance) (checkDone_fails he hk hc)⟩
  · refine ⟨_, congrArg (fun t : State => Host.Outcome.next t.tblAdvance) (tableSwitch_unused he hu), fun i => ?_, fun i => ?_, rfl⟩
    · rw [BitVec.getLsbD_xor, getLsbD_one_shl hno]
    · have hp : (((s.core c).dropCommit no).pending).getLsbD i = ((s.core c).pending.getLsbD i && decide (i ≠ no)) := by
        rw [Core.dropCommit, BitVec.getLsbD_and, BitVec.getLsbD_not, getLsbD_one_shl hno, decide_not]
        rcases lt_or_ge i 512 with hlt | hge
        · simp [hlt]
        · simp [BitVec.getLsbD_of_ge _ _ hge]
      exact hp

end Sys2Proof.Machine
end

section
/-!
The movers (R46, R47, R56, R62): what an operation that issues captures, and what a completed one moves and leaves unchanged.
-/

namespace Sys2Proof.Machine

/-! ### Issue (R56, R465) -/

/-- A step of a check that went well. -/
theorem Except.bind_eq_ok {ε α β : Type} {a : Except ε α} {f : α → Except ε β} {r : β} (h : a >>= f = .ok r) : ∃ v, a = .ok v ∧ f v = .ok r := by
  cases a with
  | error e => cases h
  | ok v => exact ⟨v, rfl, h⟩

/-- A mover operation that passes its checks captures its own code, context and tag. -/
theorem moverIssue_ok {c x : Nat} {s : State} {o : MoverOp} {f : MoverF} {m : MoverRec} (h : moverIssue c x s o f = .ok m) :
    m.op = o ∧ m.ctx = x ∧ m.tag = some f.tag.toNat := by
  unfold moverIssue at h
  obtain ⟨d, _, h⟩ := Except.bind_eq_ok h
  obtain ⟨⟨hdr, fmt⟩, _, h⟩ := Except.bind_eq_ok h
  dsimp only at h
  split at h
  · cases h
  · split at h
    · cases h
    · cases h
      exact ⟨rfl, rfl, rfl⟩

theorem isStore_iff (o : MoverOp) : isStore o = true ↔ o ∈ [MoverOp.tst, MoverOp.tstAddf, MoverOp.tstAddi] := by
  cases o <;> decide

theorem State.core_updCore_self (s : State) (c : Nat) (f : Core → Core) : (s.updCore c f).core c = f (s.core c) := by
  rw [State.core_updCore]

section
variable {c x : Nat} {h : SlotHdr} {f : MoverF} {s : State} {o : MoverOp}

theorem moverSlot_ok {m : MoverRec} {t : State} (hx : Executes s c x h) (hm : moverIssue c x s o f = .ok m) :
    moverSlot c x s h o f t = .ok (t.enqueueMover c m) := by
  refine (if_pos hx).trans ?_
  rw [hm]

theorem moverSlot_error {e : CoreFault} {t : State} (hx : Executes s c x h) (hm : moverIssue c x s o f = .error e) :
    moverSlot c x s h o f t = .error e := by
  refine (if_pos hx).trans ?_
  rw [hm]

theorem oneSlot_mover_ok {t : State} (hi : Issues s c x h (.mover o f))
    (he : moverSlot c x s h o f (s.noteIssue c x h.hint.toNat) = .ok t) :
    oneSlot c x h (.mover o f) s = t.onward c x (s.ctx c x).pc := by
  rw [oneSlot_ok hi he (bundleEnds_no fun _ => nofun), nextPc_seq (op := .mover o f) nofun]
  rfl

end

theorem moverRows_exec : ∀ r ∈ moverRows, ∀ c x h f s, exec (r.1 c x h f) s = .next (oneSlot c x h (.mover r.2 f) s) := by
  simp only [moverRows, List.forall_mem_cons]
  exact ⟨fun _ _ _ _ _ => rfl, fun _ _ _ _ _ => rfl, fun _ _ _ _ _ => rfl, fun _ _ _ _ _ => rfl, fun _ _ _ _ _ => rfl,
    fun _ _ _ _ _ => rfl, nofun⟩

/-- An operation that enters takes the next sequence number, its mover's queue and one of its tag. -/
theorem State.enqueueMover_eq {s : State} {c n : Nat} {m : MoverRec} {t : Nat} (ht : m.tag = some t) (hn : (s.core c).nextSeq = n) :
    s.enqueueMover c m = (s.updCore c (fun k =>
      if m.op ∈ [MoverOp.tst, MoverOp.tstAddf, MoverOp.tstAddi] then { k with smq := k.smq ++ [{ m with seq := n }], nextSeq := k.nextSeq + 1 }
      else { k with lmq := k.lmq ++ [{ m with seq := n }], nextSeq := k.nextSeq + 1 })).updCtx c m.ctx
        (fun k => k.setTag t (k.tagCount t + 1)) := by
  unfold enqueueMover
  simp only [ht, hn, isStore_iff]

/-- Settles O10: an operation that passes its checks enters its queue and raises its tag; one that fails leaves only the fault. -/
theorem moverIssue_holds : Obligations.MoverIssue := by
  unfold Obligations.MoverIssue
  intro r hr c x h f s hi hx
  refine ⟨fun m hm => ?_, fun e he => ?_⟩
  · obtain ⟨hop, hctx, htag⟩ := moverIssue_ok hm
    have hn : ((s.noteIssue c x h.hint.toNat).core c).nextSeq = (s.core c).nextSeq := by rw [State.core_noteIssue]
    refine ⟨hop, hctx, htag, (moverRows_exec r hr ..).trans (congrArg Host.Outcome.next ?_)⟩
    rw [oneSlot_mover_ok hi (moverSlot_ok hx hm), State.enqueueMover_eq htag hn, hop, hctx]
  · exact (moverRows_exec r hr ..).trans (congrArg Host.Outcome.next (oneSlot_error hi (moverSlot_error hx he)))

/-! ### What moving data leaves unchanged -/

@[simp] theorem State.write_sems (s : State) (a : Nat) (bs : List Byte) : (s.write a bs).sems = s.sems := by
  unfold write
  split <;> rfl

@[simp] theorem State.taint_sems (s : State) (a n : Nat) : (s.taint a n).sems = s.sems := by
  unfold taint
  split <;> rfl

@[simp] theorem State.taint_mem (s : State) (a n : Nat) : (s.taint a n).mem = s.mem := by
  unfold taint
  split <;> rfl

@[simp] theorem State.issueMmuls_sems (s : State) (c : Nat) : (s.issueMmuls c).sems = s.sems := by
  unfold issueMmuls
  dsimp only
  split <;> rfl

theorem State.issueMmuls_mem (s : State) (c : Nat) : (s.issueMmuls c).mem = s.mem := by
  unfold issueMmuls
  dsimp only
  split <;> rfl

/-- A property of the state that every step of a fold keeps. -/
theorem foldl_keeps {σ α β : Type} (p : σ → β) (f : σ → α → σ) (h : ∀ s a, p (f s a) = p s) (l : List α) (s : σ) :
    p (l.foldl f s) = p s := by
  induction l generalizing s with
  | nil => rfl
  | cons a l ih => rw [List.foldl_cons, ih, h]

theorem State.writes_sems (s : State) (ws : List (Nat × List Byte)) : (s.writes ws).sems = s.sems :=
  foldl_keeps State.sems _ (fun s _ => s.write_sems ..) ws s

theorem State.move_sems (s : State) (m : MoverRec) : (s.move m).sems = s.sems := by
  unfold move
  split
  · exact foldl_keeps State.sems _ (fun s _ => s.write_sems ..) _ s
  · exact foldl_keeps State.sems _ (fun s _ => s.write_sems ..) _ s
  · exact s.writes_sems _

/-- Writes of lists of known length, each of whose bytes may depend on the state it finds: no byte outside their spans changes. -/
theorem State.rawByte_foldl_write {α : Type} (l : List α) (ad : α → Nat) (n : Nat) (v : State → α → Nat) (s : State) {b : Nat}
    (h : ∀ p ∈ l, b < ad p ∨ ad p + n ≤ b) : (l.foldl (fun t p => t.write (ad p) (toLe n (v t p))) s).rawByte b = s.rawByte b := by
  induction l generalizing s with
  | nil => rfl
  | cons p l ih =>
    rw [List.foldl_cons, ih _ fun q hq => h q (List.mem_cons_of_mem _ hq)]
    exact (s.rawByte_write_toLe ..).2 b (h p List.mem_cons_self)

/-- Moving the data of an operation changes no byte outside the spans it stores. -/
theorem State.rawByte_move (s : State) (m : MoverRec) {a : Nat} (h : ∀ w ∈ s.stored m, a < w.1 ∨ w.1 + w.2 ≤ a) :
    (s.move m).rawByte a = s.rawByte a := by
  have hspan : ∀ w ∈ m.spans s.seen, a < w.1 ∨ w.1 + w.2.length ≤ a := fun w hw => h _ (List.mem_map_of_mem hw)
  have hadd : (m.op = .tstAddf ∨ m.op = .tstAddi) → ∀ p ∈ m.desc.addPairs m.src m.dst, a < p.1 ∨ p.1 + 4 ≤ a := by
    intro ho p hp
    have hs : m.spans s.seen =
        (m.desc.addPairs m.src m.dst).map (fun (d, a) => (d, toLe 4 (addWord m.op (leOf s.seen d 4) (leOf s.seen a 4)))) := by
      unfold MoverRec.spans
      rcases ho with ho | ho <;> rw [ho]
    have := hspan _ (hs ▸ List.mem_map_of_mem hp)
    rwa [toLe_length] at this
  unfold move
  split
  next ho => exact rawByte_foldl_write _ Prod.fst 4 _ s (hadd (.inl ho))
  next ho => exact rawByte_foldl_write _ Prod.fst 4 _ s (hadd (.inr ho))
  next => exact s.rawByte_writes _ _ hspan

theorem roundUp_le (n k : Nat) (hk : 0 < k) : n ≤ roundUp n k := by
  unfold roundUp ceilDiv
  have := Nat.div_add_mod (n + k - 1) k
  have := Nat.mod_lt (n + k - 1) hk
  rw [Nat.mul_comm]
  omega

theorem rawByte_write_replicate (s : State) (a n i : Nat) (hi : i < n) : (s.write a (List.replicate n 0)).rawByte (a + i) = 0 := by
  rw [State.rawByte_write, List.length_replicate, if_pos ⟨Nat.le_add_right .., by omega⟩, Nat.add_sub_cancel_left,
    List.getD_replicate _ hi]

/-- A tldz leaves zeros. -/
theorem State.rawByte_move_tldz (s : State) {m : MoverRec} (ho : m.op = .tldz) {i : Nat} (hi : i < m.desc.count * fmtBits m.fmt / 8) :
    (s.move m).rawByte (m.dst + i) = 0 := by
  have hle := roundUp_le (m.desc.count * fmtBits m.fmt / 8) 64 (by decide)
  unfold move
  simp only [ho, MoverRec.spans, writes]
  split
  · simp only [List.foldl_cons, List.foldl_nil]
    rw [rawByte_write, if_neg (by omega)]
    exact rawByte_write_replicate _ _ _ _ hi
  · exact rawByte_write_replicate _ _ _ _ hi

/-! ### Completion (R56, R62) -/

/-- What the data, the regulator, the poison and the tag of a completed operation make of the state. -/
def State.moved (s u : State) (c x tg : Nat) (m : MoverRec) : State :=
  let put := (u.move m).charge m.part 0 m.dramBytes
  ((if s.moverPoisoned m then m.writeSpans.foldl (fun t w => t.taint w.1 w.2) put else put).issueMmuls c).updCtx c x
    (fun k => k.setTag tg (k.tagCount tg - 1))

section
variable (s u : State) (c x tg : Nat) (m : MoverRec)

theorem State.moved_sems : (s.moved u c x tg m).sems = u.sems := by
  have hp : ((u.move m).charge m.part 0 m.dramBytes).sems = u.sems := u.move_sems m
  unfold moved
  rw [show ∀ t : State, ∀ g, (t.updCtx c x g).sems = t.sems from fun _ _ => rfl, State.issueMmuls_sems]
  split
  · rw [foldl_keeps State.sems _ (fun t w => t.taint_sems ..), hp]
  · exact hp

theorem State.moved_mem : (s.moved u c x tg m).mem = (u.move m).mem := by
  unfold moved
  rw [show ∀ t : State, ∀ g, (t.updCtx c x g).mem = t.mem from fun _ _ => rfl, State.issueMmuls_mem]
  split
  · rw [foldl_keeps State.mem _ (fun t w => t.taint_mem ..)]
    rfl
  · rfl

theorem State.moved_sem (die i : Nat) : (s.moved u c x tg m).sem die i = u.sem die i := by
  rw [State.sem, State.moved_sems]; rfl

theorem State.rawByte_moved (a : Nat) : (s.moved u c x tg m).rawByte a = (u.move m).rawByte a := by
  rw [State.rawByte, State.moved_mem]; rfl

end

theorem moverComplete_moved {c x tg : Nat} {st : Bool} {s : State} {m : MoverRec} (hm : (s.core c).firstMover st x = some m)
    (ht : m.tag = some tg) (hr : m.dramBytes = 0 ∨ s.regOpen m.part 0 = true) (hf : (s.core c).frozen.contains x = false) :
    moverComplete c st x s = (s.moved (s.updCore c (fun k => k.dropMover st m.seq)).bump c x tg m).signalBy c x (if st then 3 else 2)
      m.pc m.by_ m.sig := by
  have hg : ¬((0 < m.dramBytes ∧ (!s.regOpen m.part 0) = true) ∨ (s.core c).frozen.contains x = true) := by
    rcases hr with hr | hr <;> simp only [hr, hf] <;> simp
  unfold moverComplete
  simp only [hm, ht, hg, if_false]
  rfl

/-- Settles O11: the data moves into the stored spans only, and the semaphore of a SEMEN operation rises or overflows. -/
theorem moverCompletes : Obligations.MoverCompletes := by
  unfold Obligations.MoverCompletes
  intro c st x tg s m hm ht hr hf
  have hdone := moverComplete_moved hm ht hr hf
  let u := (s.updCore c (fun k => k.dropMover st m.seq)).bump
  have hsem : ∀ die i, (s.moved u c x tg m).sem die i = s.sem die i := fun die i => s.moved_sem u c x tg m die i
  have hraw : ∀ a, (s.moved u c x tg m).rawByte a = (u.move m).rawByte a := s.rawByte_moved u c x tg m
  refine ⟨fun hs => ?_, fun die i hs hv => ?_, fun die i hs hv => ?_, fun a ha => ?_, fun ho i hi => ?_⟩
  · exact congrArg Host.Outcome.next (hdone.trans (by rw [hs]; rfl))
  · refine congrArg Host.Outcome.next (hdone.trans ?_)
    have hadd : (s.moved u c x tg m).semAdd die i 1 =
        some ((s.moved u c x tg m).setSem die i { s.sem die i with value := (s.sem die i).value + 1 }) := by
      rw [State.semAdd, hsem, if_pos (by omega)]
      exact congrArg (fun w => some ((s.moved u c x tg m).setSem die i { s.sem die i with value := w }))
        (BitVec.eq_of_toNat_eq (by simp))
    rw [hs, State.signalBy, hadd]
    rfl
  · refine ⟨fault1 5 (if st then 3 else 2) (syncWord die i), rfl, congrArg Host.Outcome.next (hdone.trans ?_)⟩
    have hadd : (s.moved u c x tg m).semAdd die i 1 = none := by
      rw [State.semAdd, hsem, if_neg (by omega)]
    rw [hs, State.signalBy, hadd]
    rfl
  · exact (hraw a).trans (u.rawByte_move m ha)
  · exact (hraw _).trans (u.rawByte_move_tldz ho hi)

end Sys2Proof.Machine
end

section
/-!
Chunks of an mmul (R84 to R86) and drains (R48, R98 to R102, R108, R130): what they write, and what stays.
-/

namespace Sys2Proof.Machine

/-! ### A chunk (R86) -/

/-- An entry that overflows has a sum outside the 96-bit range. -/
theorem fixedChunk_overflow {q : Int} {old : Entry} {ps : List Fp} {n : Int} (h : (fixedChunk q old ps).2 = some n) :
    n < -(2 ^ 95) ∨ 2 ^ 95 ≤ n := by
  unfold fixedChunk at h
  dsimp only at h
  generalize List.foldl (addContribution q) _ ps = p at h
  split at h
  · split at h
    · cases h
    next hr =>
      cases h
      by_contra hc
      exact hr ⟨not_lt.mp fun h => hc (.inl h), not_le.mp fun h => hc (.inr h)⟩
  · cases h

theorem chunkTile_ok {s : State} {c x : Nat} {m : MmulRec} {w2 : W32} {t t' : Tile} (h : s.chunkTile c x m w2 t = .ok t') :
    t'.kdone = t.kdone + 128 ∧ t'.path = pairPath m.fmta m.fmtb := by
  unfold State.chunkTile at h
  dsimp only at h
  split at h
  · cases h
  · cases h
    exact ⟨rfl, rfl⟩

theorem chunkTile_error {s : State} {c x : Nat} {m : MmulRec} {w2 : W32} {t : Tile} {o : Nat × Nat × Int}
    (h : s.chunkTile c x m w2 t = .error o) : o.2.2 < -(2 ^ 95) ∨ 2 ^ 95 ≤ o.2.2 := by
  unfold State.chunkTile at h
  dsimp only at h
  split at h
  next hf =>
    cases h
    obtain ⟨⟨i, e⟩, hmem, he⟩ := List.exists_of_findSome?_eq_some hf
    obtain ⟨n, hn, rfl⟩ := Option.map_eq_some_iff.mp he
    obtain ⟨j, _, hj⟩ := List.mem_map.mp hmem
    obtain ⟨rfl, rfl⟩ := Prod.mk.inj hj
    split at hn
    · cases hn
    · exact fixedChunk_overflow hn
  · cases h

theorem dropMatrix_queue {s : State} {c x : Nat} (h : (s.core c).lmm = []) :
    ((s.dropMatrix c x).core c).mq = dropFromMmul x (s.core c).mq := by
  unfold State.dropMatrix
  simp only [h]
  rw [State.core_updCore]

/-- Settles O13: a chunk either takes the tile that `chunkTile` gives, or an entry left the range and the mmul is dropped. -/
theorem chunkCompletes : Obligations.ChunkCompletes := by
  unfold Obligations.ChunkCompletes
  intro c s m th pc hm hf u w2 old
  refine ⟨_, rfl, ?_⟩
  cases ht : u.chunkTile c m.ctx m w2 old with
  | ok t' =>
    obtain ⟨hk, hp⟩ := chunkTile_ok ht
    refine ⟨hk, hp, ?_⟩
    have hchunk : mmulChunk c s = ((u.setTile c m.ctx m.tile t').updCore c (fun k =>
        k.setMmul (if m.done + 1 = m.kch then none else some { m with done := m.done + 1 }))).settleFrees c := by
      unfold mmulChunk
      simp only [hm, hf, Bool.false_eq_true, if_false]
      rw [show s.bump.chunkTile c m.ctx m (if m.fmtb = 7 then s.bump.w2word c ((s.ctx c m.ctx).w2tid m.tile) else 0)
        (if m.done = 0 ∧ (!m.acc) = true then Tile.empty else s.bump.tile c m.ctx m.tile) = .ok t' from ht]
    exact hchunk
  | error o =>
    have hr := chunkTile_error ht
    obtain ⟨r, cc, n⟩ := o
    refine ⟨hr, faultOverflow ((s.ctx c m.ctx).accq m.tile) m old.kdone r cc n, rfl, ?_, fun hl => dropMatrix_queue hl⟩
    have hchunk : mmulChunk c s = (((u.setTile c m.ctx m.tile old).dropMatrix c m.ctx).lateFault c m.ctx pc.toNat th
        (faultOverflow ((s.ctx c m.ctx).accq m.tile) m old.kdone r cc n)).settleFrees c := by
      unfold mmulChunk
      simp only [hm, hf, Bool.false_eq_true, if_false]
      rw [show s.bump.chunkTile c m.ctx m (if m.fmtb = 7 then s.bump.w2word c ((s.ctx c m.ctx).w2tid m.tile) else 0)
        (if m.done = 0 ∧ (!m.acc) = true then Tile.empty else s.bump.tile c m.ctx m.tile) = .error (r, cc, n) from ht]
      rfl
    exact hchunk

/-! ### A drain starts (R48, R100) -/

theorem firstFmt_eq (d : DrainRec) : (match d.desc.fmt, d.hdr with
    | 10, some h => h.baseFmt
    | f, _ => f) = d.firstFmt := by
  unfold DrainRec.firstFmt
  cases d.hdr with
  | none => simp
  | some h =>
    dsimp only
    split
    next h' hf hh => rw [if_pos hf, Option.some.inj hh]
    next hne => rw [if_neg fun hf => hne h hf rfl]

theorem drainStart_eq {c : Nat} {s : State} {d : DrainRec} (hu : (s.core c).drain = none) (hn : (s.core c).nextDrain = some d)
    (hp : s.chainPending c d = false) (hf : (s.core c).frozen.contains d.ctx = false) :
    drainStart c false s = (s.bump.updCore c (fun k => k.takeDrain d.seq)).afterRun c (s.bump.runDrain c d d.firstFmt 0 0) := by
  rw [← firstFmt_eq]
  unfold drainStart
  simp only [hu, hn, hp, hf, Bool.false_eq_true, or_self, if_false] <;> rfl

theorem drainRerun_eq {c g : Nat} {s : State} {r : DrainRun} (hr : (s.core c).drain = some r) (hg : rungOf r.fmt = some g) :
    drainRerun c s = s.bump.afterRun c (s.bump.runDrain c r.d (fmtOfRung (g + 1)) (r.steps + 1) r.sb0) := by
  unfold drainRerun
  simp only [hr, hg]

/-- A run widens only a format-mapped tile whose policy enables it. -/
theorem runDrain_rerun {s : State} {c f n b : Nat} {d : DrainRec} (h : (s.runDrain c d f n b).rerun = true) :
    d.desc.fmt = 10 ∧ bit (s.ctx c d.ctx).widen 16 = true := by
  simp only [State.runDrain, widens, Bool.and_eq_true, decide_eq_true_eq] at h
  exact ⟨h.1, h.2.1.1⟩

/-- Where the checks of a `do` block go well, its result has the property. -/
def Yields {ε α : Type} (p : α → Prop) (a : Except ε α) : Prop := ∀ r, a = .ok r → p r

section
variable {ε α β : Type} {p : α → Prop}

theorem Yields.throws {e : ε} {k : β → Except ε α} : Yields p ((throw e : Except ε β) >>= k) := fun _ => nofun
theorem Yields.fails {e : ε} {k : β → Except ε α} : Yields p ((.error e : Except ε β) >>= k) := fun _ => nofun
theorem Yields.ite {c : Prop} [Decidable c] {a b : Except ε α} (ha : Yields p a) (hb : Yields p b) : Yields p (if c then a else b) := by
  split
  · exact ha
  · exact hb
theorem Yields.bind_ok {v : β} {k : β → Except ε α} (h : Yields p (k v)) : Yields p ((.ok v : Except ε β) >>= k) := h

end

/-- The drain reads the partner tile exactly where chain `ch` of `k` gates with it. -/
def DrainRec.PairsAs (k : Ctx) (ch : Nat) (r : DrainRec) : Prop := r.pair = chainPartner k.chain ch

/-- A drain that passes its checks takes the partner tile along as its chain says (R128). -/
theorem drainIssue_pair (c x : Nat) (s : State) (t chain dst doff : Nat) (d : Desc) (xs : List Nat) (lr : Option Nat) (th : Thread)
    (pc : BitVec 48) : Yields (DrainRec.PairsAs (s.ctx c x) chain) (drainIssue c x s t chain dst d doff xs lr th pc) := by
  unfold drainIssue
  extract_lets k p bad fm stages st1 b afterHdr afterBox
  clear_value st1 b
  have hHdr : ∀ h, Yields (DrainRec.PairsAs k chain) (afterHdr h) := by
    intro h
    unfold afterHdr
    extract_lets tid base ret afterSrc afterSfu afterPartner afterQuant afterTid
    have hret : ∀ v, Yields (DrainRec.PairsAs k chain) (ret v) := fun _ r hr => by cases hr; rfl
    clear_value ret
    have hSrc : ∀ v, Yields (DrainRec.PairsAs k chain) (afterSrc v) := by
      intro v
      unfold afterSrc fm
      clear afterTid afterQuant afterPartner afterSfu afterSrc
      split
      · extract_lets size wa last perm
        have hlast : ∀ v, Yields (DrainRec.PairsAs k chain) (last v) := fun _ => .ite .throws (hret ())
        have hperm : ∀ v, Yields (DrainRec.PairsAs k chain) (perm v) := fun _ => .ite .throws (hlast ())
        exact .ite .throws (hperm ())
      · extract_lets map window
        have hmap : ∀ v, Yields (DrainRec.PairsAs k chain) (map v) := by
          intro v
          unfold map
          split
          · refine .ite ?_ (hret ())
            extract_lets off j i1 i0 wa permits aligned
            have hpermits : ∀ v, Yields (DrainRec.PairsAs k chain) (permits v) := fun _ => .ite .throws (hret ())
            have haligned : ∀ v, Yields (DrainRec.PairsAs k chain) (aligned v) := fun _ => .ite .throws (hpermits ())
            exact .ite .throws (haligned ())
          · exact hret ()
        clear_value map
        have hwindow : ∀ v, Yields (DrainRec.PairsAs k chain) (window v) := by
          intro v
          unfold window
          split
          · exact .throws
          · exact hmap ()
        clear_value window
        split
        · exact .throws
        · exact hwindow ()
    clear_value afterSrc
    have hSfu : ∀ v, Yields (DrainRec.PairsAs k chain) (afterSfu v) := by
      intro v
      unfold afterSfu
      split
      · exact .throws
      · exact hSrc ()
    have hPartner : ∀ v, Yields (DrainRec.PairsAs k chain) (afterPartner v) := fun _ => .ite .throws (hSfu ())
    have hQuant : ∀ v, Yields (DrainRec.PairsAs k chain) (afterQuant v) := fun _ => .ite .throws (hPartner ())
    have hTid : ∀ v, Yields (DrainRec.PairsAs k chain) (afterTid v) := fun _ => .ite .throws (hQuant ())
    exact .ite .throws (hTid ())
  clear_value afterHdr
  have hBox : ∀ v, Yields (DrainRec.PairsAs k chain) (afterBox v) := by
    intro v
    unfold afterBox
    refine .ite (hHdr none) (.ite .fails (.ite .fails ?_))
    split
    · exact hHdr _
    · exact .fails
  exact .ite .throws (hBox ())

/-! ### A drain is written (R102, R130) -/

section
variable (s : State)

@[simp] theorem State.write_fwds (a : Nat) (bs : List Byte) : (s.write a bs).fwds = s.fwds := by
  unfold write
  split <;> rfl

@[simp] theorem State.taint_fwds (a n : Nat) : (s.taint a n).fwds = s.fwds := by
  unfold taint
  split <;> rfl

end

/-- The oldest drain that has read its tile, written: its bytes, its regulator and its poison. -/
def State.wroteDrain (s : State) (c : Nat) (r : DrainRun) (rest : List DrainRun) : State :=
  let put := (s.writes r.writes).charge r.d.part 0 (spansDram r.writes)
  (if r.poison then r.writes.foldl (fun t w => t.taint w.1 w.2.length) put else put).updCore c (fun k => { k with writing := rest })

section
variable {c : Nat} {s : State} {r : DrainRun} {rest : List DrainRun}

theorem wroteDrain_mem : (s.wroteDrain c r rest).mem = (s.writes r.writes).mem := by
  unfold State.wroteDrain
  dsimp only
  rw [show ∀ t : State, ∀ g, (t.updCore c g).mem = t.mem from fun _ _ => rfl]
  split
  · rw [foldl_keeps State.mem _ fun t w => t.taint_mem ..]
    rfl
  · rfl

theorem wroteDrain_fwds : (s.wroteDrain c r rest).fwds = s.fwds := by
  have hw : (s.writes r.writes).fwds = s.fwds := foldl_keeps State.fwds _ (fun t w => t.write_fwds ..) r.writes s
  unfold State.wroteDrain
  dsimp only
  rw [show ∀ t : State, ∀ g, (t.updCore c g).fwds = t.fwds from fun _ _ => rfl]
  split
  · rw [foldl_keeps State.fwds _ fun t w => t.taint_fwds ..]
    exact hw
  · exact hw

theorem drainWritten_eq (h : (s.core c).writing = r :: rest) : drainWritten c s =
    if 0 < r.steps then (s.wroteDrain c r rest).updLaunch r.d.by_.launch (fun l => l.addWiden (4 * c + r.d.ctx))
    else s.wroteDrain c r rest := by
  unfold drainWritten
  simp only [h]
  rfl

/-- With no channel enabled nothing is forwarded. -/
theorem forward_idle (h : ∀ k, (s.fwd k).en = false) : s.forward c r = s := by
  have hstep : ∀ l : List Nat, l.foldl (fun s i =>
      let k := 4 * dieOf c + i
      if s.fwdOf r.d.part k ∧ (s.fwd k).holds r.body then s.updFwd k (fun f => { f with queue := f.queue ++ [r.body] }) else s) s = s := by
    intro l
    induction l with
    | nil => rfl
    | cons i l ih =>
      have hn : (s.fwd (4 * dieOf c + i)).holds r.body = false := by simp [Fwd.holds, h]
      rw [List.foldl_cons]
      simp only [hn, Bool.false_eq_true, and_false, if_false]
      exact ih
  exact hstep _

end

/-- Settles O14: the runs of a drain, what it leaves in its tile, and the bytes that it writes. -/
theorem drainProceeds : Obligations.DrainProceeds := by
  unfold Obligations.DrainProceeds
  refine ⟨⟨fun c s d hu hn hp hf hw => ?_, fun c s r g hr hg => ?_, fun c s r => rfl, fun c s d f n b => ⟨rfl, rfl, rfl, runDrain_rerun⟩,
    fun c x s t chain dst doff d xs lr th pc r hr => drainIssue_pair c x s t chain dst doff d xs lr th pc r hr⟩,
    fun c s r rest hr hen => ⟨?_, fun a ha => ?_⟩⟩
  · refine congrArg Host.Outcome.next ((?_ : _ = drainStart c false s).trans (drainStart_eq hu hn hp hf))
    rw [hn, ← hw]
  · exact congrArg Host.Outcome.next (drainRerun_eq hr hg)
  · refine congrArg Host.Outcome.next ((?_ : _ = drainWritten c s).trans (drainWritten_eq hr))
    have hfwds : (drainWritten c s).fwds = s.fwds := by
      rw [drainWritten_eq hr]
      split
      · exact wroteDrain_fwds (c := c) (rest := rest)
      · exact wroteDrain_fwds
    unfold drainWrittenForward
    simp only [hr]
    exact forward_idle fun k => (congrArg (fun ws => (tget (fun _ => Fwd.reset) ws k).en) hfwds).trans (hen k)
  · exact (congrArg (fun m => tget Memory.dflt m a) wroteDrain_mem).trans (s.rawByte_writes _ _ ha)

end Sys2Proof.Machine
end

section
/-!
Lupin (R116 to R124): how an lrun starts and completes, and an iteration whose operands stand staged.
-/

namespace Sys2Proof.Machine

/-! ### Start and completion (R116, R122, R124) -/

section
variable {c x off seq hd : Nat} {th : Thread} {pc : BitVec 48} {s : State}

/-- The lrun that expansion begins with: iteration 0 of its first table. -/
def Lrun.start (k : Ctx) (x : Nat) (th : Thread) (pc : BitVec 48) (seq hd : Nat) (t : Nest) (ts : List Nest) : Lrun :=
  { id := seq, ctx := x, by_ := th, pc := pc, tables := t :: ts, tbl := 0, idx := List.replicate t.levels.length 0,
    changed := 0, ba := (k.getA t.regA).toNat, bb := (k.getA t.regB).toNat, bc := (k.getA t.regC).toNat,
    bx := (k.getA t.regX).toNat, seq := 0, stA := none, stB := none, held := [], walked := false, header := hd, sig := t.sig }

theorem lrunStart_ok {t : Nest} {ts : List Nest} (hl : (s.core c).lrun = none) (hh : (s.core c).headLrun = some (.lrun x th pc off seq hd))
    (hf : (s.core c).frozen.contains x = false)
    (hc : s.bump.parseChain c x (s.bump.chainCount c x 64 off) 16 off 0 0 = .ok (t :: ts)) :
    lrunStart c s = s.bump.updCore c (fun q => { q with lrun := some (Lrun.start (s.ctx c x) x th pc seq hd t ts) }) := by
  unfold lrunStart
  simp only [hl, hh, hf, Bool.false_eq_true, if_false, hc]
  rfl

theorem lrunStart_error {e : CoreFault} (hl : (s.core c).lrun = none) (hh : (s.core c).headLrun = some (.lrun x th pc off seq hd))
    (hf : (s.core c).frozen.contains x = false)
    (hc : s.bump.parseChain c x (s.bump.chainCount c x 64 off) 16 off 0 0 = .error e) :
    lrunStart c s = ((s.bump.stopLupin c x seq none).lateFault c x pc.toNat th e).settleFrees c := by
  unfold lrunStart
  simp only [hl, hh, hf, Bool.false_eq_true, if_false, hc]
  rfl

theorem lrunComplete_unsignalled {id : Nat}
    (h : (s.core c).tail.find? (fun l => !(s.core c).lrunDrains l.1 && !(s.core c).lmm.any (fun u => u.lrun == l.1)) = some (id, x, th, none)) :
    lrunComplete c s = s.updCore c (fun k => { k with tail := k.tail.filter (fun l => l.1 ≠ id) }) := by
  unfold lrunComplete
  simp only [h]

end

/-- Settles O15: a chain that parses starts at iteration 0 of its first table, any other is Lupin's fault. -/
theorem lrunStartsAndCompletes : Obligations.LrunStartsAndCompletes := by
  unfold Obligations.LrunStartsAndCompletes
  refine ⟨fun c x off seq hd th pc s hl hh hf => ⟨fun t ts hc => ?_, fun e hc => ?_⟩, fun c id x th s h => ?_⟩
  · exact ⟨Lrun.start (s.ctx c x) x th pc seq hd t ts, rfl, rfl, rfl, rfl, rfl, rfl, rfl, rfl, rfl, rfl, rfl, rfl,
      congrArg Host.Outcome.next (lrunStart_ok hl hh hf hc)⟩
  · exact congrArg Host.Outcome.next (lrunStart_error hl hh hf hc)
  · exact congrArg Host.Outcome.next (lrunComplete_unsignalled h)

/-! ### An iteration whose operands are staged (R117, R118) -/

/-- An operand staged at the address and extents that an iteration needs is not loaded again. -/
theorem stageOp_staged {a : Staged} {addr v0 v1 nb : Nat} (ha : a.addr = addr) (h0 : a.v0 = v0) (h1 : a.v1 = v1) :
    stageOp (some a) addr v0 v1 nb = (a.buf, false) := if_pos ⟨ha, h0, h1⟩

/-- Before its last iteration a level has the template's extent. -/
theorem padExtent_before {q : Level} {idx : List Nat} (h : idxOf idx q < q.boundM1) (tmpl : Nat) : padExtent (some q) idx tmpl = tmpl :=
  if_neg fun hp => by omega

theorem kchAt_before {t : Nest} {q : Level} {idx : List Nat} (hq : t.kind? 2 = some q) (h : idxOf idx q < q.boundM1) :
    t.kchAt idx = t.kchl := by
  unfold Nest.kchAt
  rw [hq]
  exact if_neg fun hp => by omega

section
variable {c : Nat} {s : State} {l : Lrun} {t : Nest} {q : Level} {a b : Staged}

/-- The iteration an lrun is at, where it pairs no tiles, is not the last of its K loop and both operands stand staged. -/
def stagedVec (l : Lrun) (t : Nest) (q : Level) (a b : Staged) : LupinVec :=
  { pa := a.addr, pb := b.addr, pc := t.addrAt l.idx l.bc (·.sc), px := t.addrAt l.idx l.bx (·.sx), kch := t.kchl,
    av0 := a.v0, av1 := a.v1, bv0 := b.v0, bv1 := b.v1, first := idxOf l.idx q == 0, last := false, paired := false, pairIx := 0,
    bufA := a.buf, bufB := b.buf, loadA := false, loadB := false, sizeA := bufBytes t.fmta t.kchl, sizeB := bufBytes t.fmtb t.kchl,
    offA := t.stgOff + a.buf * bufBytes t.fmta t.kchl,
    offB := t.stgOff + (t.nba + 1) * bufBytes t.fmta t.kchl + b.buf * bufBytes t.fmtb t.kchl }

theorem vec_staged (hp : t.kind? 3 = none) (hq : t.kind? 2 = some q) (hk : idxOf l.idx q < q.boundM1) (hA : l.stA = some a) (hB : l.stB = some b)
    (ha : a.addr = t.addrAt l.idx l.ba (·.sa)) (ha0 : a.v0 = t.descA.valid.getD 0 0)
    (ha1 : a.v1 = padExtent (t.kind? 0) l.idx (t.descA.valid.getD 1 0))
    (hb : b.addr = t.addrAt l.idx l.bb (·.sb)) (hb0 : b.v0 = t.descB.valid.getD 0 0)
    (hb1 : b.v1 = padExtent (t.kind? 1) l.idx (t.descB.valid.getD 1 0)) : l.vec t = stagedVec l t q a b := by
  have hlast : (idxOf l.idx q == q.boundM1) = false := beq_eq_false_iff_ne.mpr (by omega)
  unfold Lrun.vec stagedVec
  simp only [hp, hq, hA, hB, padExtent_before hk, kchAt_before hq hk, hlast,
    ← ha, ← ha0, ← ha1, ← hb, ← hb0, ← hb1, Option.isSome_none, stageOp_staged]

theorem lupinWaits_staged {base : Nat} (hs : t.seqBit = false) (hf : (s.core c).frozen.contains l.ctx = false)
    (hl : (s.core c).lupinLoads ≤ 6) (hm : (s.core c).lmq.length ≤ 30) :
    (s.core c).lupinWaits l t (stagedVec l t q a b) base = false := by
  have hroom : decide (6 < (s.core c).lupinLoads ∨ 30 < (s.core c).lmq.length) = false := decide_eq_false (by omega)
  simp only [Core.lupinWaits, stagedVec, hs, hf, hroom, Bool.false_and, Bool.or_false]

/-- The mmul of the iteration enters Lupin's queue, and Lupin moves on. -/
theorem lupinRun_staged {l1 : Lrun} {k1 : Ctx} {tile : Nat} (hf7 : t.fmtb ≠ 7) :
    s.lupinRun c l t (stagedVec l t q a b) l1 k1 tile = .ok (((((s.setCtx c l.ctx k1).lupinMul c l t (stagedVec l t q a b) tile l.stA l.stB).updCore c
      (fun k => k.putLrun (Lrun.advance { l1 with stA := l.stA, stB := l.stB, seq := l.seq + 1 } t))).issueMmuls c).settleFrees c) := by
  have hno : ¬(t.fmtb = 7 ∧ (!isW2tid ((s.ctx c l.ctx).w2tid tile)) = true) := fun h => hf7 h.1
  unfold State.lupinRun
  rw [if_neg hno]
  rfl

theorem updCore_congr {f g : Core → Core} (h : f (s.core c) = g (s.core c)) : s.updCore c f = s.updCore c g := by
  unfold State.updCore
  rw [h]

end

/-- Settles O16: an iteration with both operands staged adds one mmul and moves on. -/
theorem lupinIterates : Obligations.LupinIterates := by
  unfold Obligations.LupinIterates
  intro c tile s l l1 t k1 q a b hl hw ht hp hq hk hs hf7 hf hload hlmq hA hB ha ha0 ha1 hb hb0 hb1 hold
  have hv := vec_staged hp hq hk hA hB ha ha0 ha1 hb hb0 hb1
  have hwait := lupinWaits_staged (q := q) (a := a) (b := b) (base := (s.ctx c l.ctx).spadBase) hs hf hload hlmq
  have hopen : (stagedVec l t q a b).opens = (idxOf l.idx q == 0) := by simp [LupinVec.opens, stagedVec]
  have hiter : lupinIterate c s = ((((s.setCtx c l.ctx k1).lupinMul c l t (stagedVec l t q a b) tile (some a) (some b)).updCore c
      (fun k => k.putLrun (Lrun.advance { l1 with stA := some a, stB := some b, seq := l.seq + 1 } t))).issueMmuls c).settleFrees c := by
    unfold lupinIterate
    simp only [hl, hw, ht, hv, hwait, Bool.false_eq_true, if_false, hopen]
    rw [show (stagedVec l t q a b).paired = false from rfl, hold]
    simp only [Bool.false_eq_true, if_false, lupinRun_staged hf7, hA, hB]
  refine congrArg Host.Outcome.next (hiter.trans ?_)
  unfold State.lupinMul
  rw [State.ctx_setCtx]
  rfl

end Sys2Proof.Machine
end

section
/-!
Issue of bundles, the instruction cache and the start of tile-threads (R38, R40, R59, R67 to R69).
-/

namespace Sys2Proof.Machine

/-! ### Which context issues (R40) -/

/-- Contexts that cannot issue are passed over. -/
theorem issueFirst_busy {c : Nat} {s : State} {before : List Nat} (h : ∀ y ∈ before, s.fetch c y = .busy) (rest : List Nat) :
    issueFirst c (before ++ rest) s = issueFirst c rest s := by
  induction before with
  | nil => rfl
  | cons y before ih =>
    rw [List.cons_append, issueFirst, h y List.mem_cons_self]
    exact ih fun z hz => h z (List.mem_cons_of_mem _ hz)

/-- The core with the order bits of the line that a bundle was fetched from turned away from its way. -/
def Core.touch (k : Core) (l : Nat) : Core :=
  match (k.iset l).find l with
  | some (w, _) => k.setIset l { k.iset l with plru := touchWay (k.iset l).plru w }
  | none => k

theorem issueFirst_bundle {c x : Nat} {s : State} {b : Bundle} (h : s.fetch c x = .bundle b) (rest : List Nat) :
    issueFirst c (x :: rest) s = (s.setCore c ((s.core c).touch ((s.ctx c x).pc.toNat / 512))).issue c x b := by
  rw [issueFirst, h]
  rfl

theorem Core.iset_setIset (k : Core) (l m : Nat) (v : ICacheSet) :
    (k.setIset l v).iset m = if m % 128 = l % 128 then v else k.iset m := tget_tput ..

/-- The order bits do not matter to which lines a set holds. -/
theorem ICacheSet.find_plru (v : ICacheSet) (p : BitVec 3) (l : Nat) : ({ v with plru := p } : ICacheSet).find l = v.find l := rfl

section
variable (k : Core) (l : Nat)

/-- Touching a line changes only order bits. -/
theorem Core.touch_spec : (∀ m, ((k.touch l).iset m).find m = (k.iset m).find m) ∧ (k.touch l).lmq = k.lmq ∧ (k.touch l).mq = k.mq ∧
    (k.touch l).lastCtx = k.lastCtx ∧ (k.touch l).active = k.active := by
  unfold touch
  split
  · refine ⟨fun m => ?_, rfl, rfl, rfl, rfl⟩
    rw [iset_setIset]
    split
    next h =>
      have hs : k.iset m = k.iset l := congrArg (fun i => tget (fun _ => ICacheSet.empty) k.icache i) h
      rw [hs, ICacheSet.find_plru]
    · rfl
  · exact ⟨fun _ => rfl, rfl, rfl, rfl, rfl⟩

end

/-- A legal bundle that raises no fault (R35, R45). -/
theorem State.issue_ok {c x : Nat} {b : Bundle} {s t : State} (hl : b.illegal = none) (hv : b.var = true → s.varFault c x = false)
    (hr : runSlots c x s b.header b.ops (s.noteIssue c x b.hint) = .ok t) :
    s.issue c x b = if bundleEnds (s.ctx c x) b.ops then (t.updCtx c x (fun k => { k with pc := nextPc (s.ctx c x) b.ops })).endThread c x
      else t.updCtx c x (fun k => { k with pc := nextPc (s.ctx c x) b.ops }) := by
  have hno : ¬(b.var = true ∧ s.varFault c x = true) := fun h => by simp [hv h.1] at h
  unfold issue
  simp only [hl, hno, if_false, hr]

/-! ### Line fills (R59) -/

theorem wayHit_some (l : Nat) (bs : List Byte) : wayHit (some (l, bs)) l = some bs := if_pos rfl

theorem ICacheSet.find_none {v : ICacheSet} {l : Nat} (h : v.find l = none) :
    wayHit v.w0 l = none ∧ wayHit v.w1 l = none ∧ wayHit v.w2 l = none ∧ wayHit v.w3 l = none := by
  unfold find at h
  split at h <;> try cases h
  next h0 h1 h2 h3 =>
    refine ⟨Option.eq_none_iff_forall_ne_some.mpr h0, Option.eq_none_iff_forall_ne_some.mpr h1,
      Option.eq_none_iff_forall_ne_some.mpr h2, Option.eq_none_iff_forall_ne_some.mpr h3⟩

/-- A line that its set did not hold stands in one of its ways once placed. -/
theorem ICacheSet.find_place {v : ICacheSet} {l : Nat} (h : v.find l = none) (bs : List Byte) : ∃ w, (v.place l bs).find l = some (w, bs) := by
  obtain ⟨h0, h1, h2, h3⟩ := find_none h
  unfold place
  rw [h]
  dsimp only
  split
  · exact ⟨0, by simp only [find, wayHit_some]⟩
  · exact ⟨1, by simp only [find, wayHit_some, h0]⟩
  · exact ⟨2, by simp only [find, wayHit_some, h0, h1]⟩
  · exact ⟨3, by simp only [find, wayHit_some, h0, h1, h2]⟩

section
variable (s : State) (c l : Nat)

theorem State.fillLine_mem : (s.fillLine c l).mem = s.mem := by
  unfold fillLine
  split <;> rfl

theorem State.fillLine_ctxs : (s.fillLine c l).ctxs = s.ctxs := by
  unfold fillLine
  split <;> rfl

theorem State.fillLine_iset (hm : mappedSpan (512 * l) 512 = true) :
    ((s.fillLine c l).core c).iset l = ((s.core c).iset l).place l (s.seenBytes (512 * l) 512) := by
  unfold fillLine
  rw [if_pos hm, core_updCore, Core.iset_setIset, if_pos rfl]

/-- Filling the next line leaves the set of the missed one alone. -/
theorem State.fillLine_succ_iset : ((s.fillLine c (l + 1)).core c).iset l = (s.core c).iset l := by
  unfold fillLine
  split
  · rw [core_updCore, Core.iset_setIset, if_neg (by omega)]
  · rfl

end

/-- The state in which a line fill's fetches are counted: those of a pre-empting launch are not (R295). -/
def State.fillCharged (s : State) (c x l : Nat) : State :=
  if (s.core c).victim.isSome then s else s.chargeLines (s.partOf c x) [(512 * l, 1024)]

section
variable (s : State) (c x l : Nat)

theorem State.fillCharged_same : (s.fillCharged c x l).mem = s.mem ∧ (s.fillCharged c x l).ctxs = s.ctxs ∧
    (s.fillCharged c x l).cores = s.cores ∧ (s.fillCharged c x l).seenBytes = s.seenBytes := by
  unfold fillCharged
  split
  · exact ⟨rfl, rfl, rfl, rfl⟩
  · exact ⟨rfl, rfl, rfl, rfl⟩

theorem lineFill_eq {a : Nat} (hw : (s.ctx c x).wait = .line a) (hp : s.poisoned (512 * (a / 512)) 512 = false)
    (hr : (s.core c).victim.isSome = true ∨ s.regOpen (s.partOf c x) 0 = true) :
    lineFill c x s = (((s.fillCharged c x (a / 512)).fillLine c (a / 512)).fillLine c (a / 512 + 1)).wake c x := by
  have hno : ¬(s.poisoned (512 * (a / 512)) 512 = true ∨ ((!(s.core c).victim.isSome) = true ∧ (!s.regOpen (s.partOf c x) 0) = true)) := by
    rcases hr with hr | hr <;> simp [hp, hr]
  unfold lineFill
  simp only [hw, hno, if_false]
  rfl

end

/-- Only the contexts matter to those a wake leaves. -/
theorem State.wake_ctxs_congr {s u : State} {c x : Nat} (h : u.ctxs = s.ctxs) :
    (u.wake c x).ctxs = (s.updCtx c x (fun k => { k with wait := .none })).ctxs := by
  unfold wake setWait updCtx
  rw [ctx_of_ctxs h]
  unfold setCtx
  rw [h]

/-- Settles O25: the first context in turn whose bundle can issue issues, and a line fill leaves the missed line in its set. -/
theorem bundleIssues : Obligations.BundleIssues := by
  unfold Obligations.BundleIssues
  refine ⟨fun c x s b before after hord hbusy hb => ?_, fun c s hbusy => ?_, fun c x b s t hl hv hr => State.issue_ok hl hv hr,
    fun c x a s hw hp hm hr => ?_⟩
  · obtain ⟨hfind, hlmq, hmq, hlast, hact⟩ := Core.touch_spec (s.core c) ((s.ctx c x).pc.toNat / 512)
    refine ⟨(s.core c).touch ((s.ctx c x).pc.toNat / 512), congrArg Host.Outcome.next ?_, fun l hl => ?_, hlmq, hmq, hlast, hact⟩
    · have hi : bundleIssue c s = issueFirst c (before ++ x :: after) s := congrArg (fun l => issueFirst c l s) hord
      rw [hi, issueFirst_busy hbusy, issueFirst_bundle hb]
    · rw [hfind]; exact hl
  · have hi := issueFirst_busy (c := c) (s := s) (before := if (s.core c).lastYield then (List.range 4).map (fun i => ((s.core c).lastCtx + 1 + i) % 4)
      else (s.core c).lastCtx :: ((List.range 4).map (fun i => ((s.core c).lastCtx + 1 + i) % 4)).filter (· ≠ (s.core c).lastCtx))
      (fun y _ => hbusy y) []
    rw [List.append_nil] at hi
    exact congrArg Host.Outcome.next hi
  · obtain ⟨hmem, hctxs, hcores, hseen⟩ := s.fillCharged_same c x (a / 512)
    refine ⟨_, congrArg Host.Outcome.next (lineFill_eq s c x hw hp hr), ?_, ?_, fun hf => ?_⟩
    · rw [show ∀ u : State, (u.wake c x).mem = u.mem from fun _ => rfl, State.fillLine_mem, State.fillLine_mem, hmem]
    · have hall : (((s.fillCharged c x (a / 512)).fillLine c (a / 512)).fillLine c (a / 512 + 1)).ctxs = s.ctxs := by
        rw [State.fillLine_ctxs, State.fillLine_ctxs, hctxs]
      exact State.wake_ctxs_congr hall
    · have hcore : (s.fillCharged c x (a / 512)).core c = s.core c := congrArg (fun t => tget (fun _ => Core.reset) t c) hcores
      have hset : (((((s.fillCharged c x (a / 512)).fillLine c (a / 512)).fillLine c (a / 512 + 1)).wake c x).core c).iset (a / 512) =
          ((s.core c).iset (a / 512)).place (a / 512) (s.seenBytes (512 * (a / 512)) 512) := by
        rw [show ∀ u : State, (u.wake c x).core c = u.core c from fun _ => rfl, State.fillLine_succ_iset, State.fillLine_iset _ _ _ hm,
          hcore, hseen]
      rw [hset]
      exact ICacheSet.find_place hf _

/-! ### The registers of a tile-thread (R38) -/

theorem tget_foldl_tput {α : Type} [DecidableEq α] (d : Nat → α) (g : Nat → α) (n r : Nat) (t : Tab α) :
    tget d ((List.range n).foldl (fun t i => tput d t i (g i)) t) r = if r < n then g r else tget d t r := by
  induction n with
  | zero => rfl
  | succ n ih =>
    rw [List.range_succ, List.foldl_append, List.foldl_cons, List.foldl_nil, tget_tput, ih]
    by_cases h : r = n
    · simp [h]
    · simp only [h, if_false, show r < n + 1 ↔ r < n by omega]

/-- A context at the start of tile-thread `i`, as R38 has it. -/
structure Ctx.AtStart (k' : Ctx) (l : Launch) (key i : Nat) : Prop where
  thread : k'.tt = some { launch := key, index := i }
  wait : k'.wait = .none
  pc : k'.pc = BitVec.ofNat 48 (l.code + l.k.entry)
  index : k'.getS 1 = BitVec.ofNat 64 i
  arg : k'.getA 1 = BitVec.ofNat 48 l.e.arg
  zero : ∀ r, r ≠ 1 → k'.getS r = 0 ∧ k'.getA r = 0
  lanes : ∀ r i, k'.getV r i = 0
  preds : ∀ r, r ≠ 0 → k'.getP r = 0
  descs : ∀ r < 64, k'.getD r = l.dregs.getD r 0

theorem startThread_atStart (k : Ctx) (key : Nat) (l : Launch) (i : Nat) : (k.startThread key l i).AtStart l key i where
  thread := rfl
  wait := rfl
  pc := rfl
  index := tget_tput_self ..
  arg := tget_tput_self ..
  zero r hr := ⟨by
    show (if r = 0 then (0 : W64) else tget (fun _ => 0#64) (tput (fun _ => 0#64) [] 1 (BitVec.ofNat 64 i)) r) = 0
    rw [tget_tput_ne _ _ hr]
    exact ite_self _, tget_tput_ne _ _ hr⟩
  lanes r i := by
    show (List.replicate 256 0#32).getD i 0 = 0
    rw [List.getD_eq_getElem?_getD, List.getElem?_replicate]
    split <;> rfl
  preds r hr := if_neg hr
  descs r hr := (tget_foldl_tput (fun _ => 0#32) (fun n => l.dregs.getD n 0) 64 r []).trans (if_pos hr)

/-! ### The start of a tile-thread (R68, R69) -/

section
variable {s : State} {c x key i : Nat} {l : Launch}

/-- What a context finds when it begins a tile-thread. -/
theorem State.beginThread_spec (hl : s.launch key = some l) :
    (s.beginThread c x key i).mem = s.mem ∧ (s.beginThread c x key i).sems = s.sems ∧
      (s.beginThread c x key i).launch key = some { l with begun := l.begun + 1 } ∧
      (s.beginThread c x key i).ctx c x = (s.ctx c x).startThread key l i := by
  have hsems : ∀ (t : State) (c : Nat), (t.settleFrees c).sems = t.sems := fun t c => by
    rw [settleFrees_eq, emptyTiles_eq]
    rfl
  unfold beginThread
  rw [hl]
  refine ⟨settleFrees_mem .., hsems .., ?_, ?_⟩
  · rw [launch, settleFrees_launches]
    exact oget_oupd_self hl _
  · rw [ctx_of_ctxs (settleFrees_ctxs ..)]
    exact ctx_setCtx ..

/-- The context is free and its launch may begin another tile-thread here. -/
theorem threadStart_free (hc : (s.ctx c x).launch = some key) (ht : (s.ctx c x).tt = none)
    (hs : l.started = true) (hk : l.killed = false) (ha : l.again = []) (he : l.exhausted.contains (4 * c + x) = false)
    (hf : (s.core c).frozen.contains x = false) (hstop : (s.core c).stop = none) (hp : (s.core c).power = .run)
    (hen : s.engineOf l.part .core c = true) :
    ¬((s.ctx c x).launch ≠ some key ∨ (s.ctx c x).tt.isSome ∨ !l.started ∨ l.killed ∨ l.again.contains (c, x) ∨ l.exhausted.contains (4 * c + x) ∨
      (s.core c).frozen.contains x ∨ (s.core c).stop.isSome ∨ (s.core c).power ≠ .run ∨ !s.engineOf l.part .core c) := by
  simp only [hc, ht, hs, hk, ha, he, hf, hstop, hp, hen, ne_eq, not_true_eq_false, false_or, Option.isSome_none, Bool.not_true,
    Bool.false_eq_true, List.contains_nil, not_false_eq_true]

end

section
variable {s u v : State} {c x key i : Nat} {l : Launch} {g : Ctx → Ctx}

/-- What the obligation says of a tile-thread that begins: `v`, the state it begins in, has the context's launch counters of `u` and
its context changed by `g` where a tile-thread's start leaves it alone. -/
theorem beginThread_begins (hl : s.launch key = some l) (hv : ∃ l', v.launch key = some l' ∧ l'.begun = l.begun ∧ l'.ended = l.ended ∧
      l'.code = l.code ∧ l'.k.entry = l.k.entry ∧ l'.e.arg = l.e.arg ∧ l'.dregs = l.dregs)
    (hm : v.mem = s.mem) (hs : v.sems = s.sems) (hg : v.ctx c x = g (s.ctx c x))
    (hacc : (g (s.ctx c x)).accTiles = (s.ctx c x).accTiles) (hbase : (g (s.ctx c x)).spadBase = (s.ctx c x).spadBase)
    (he : exec (.tileThreadStart c x key) s = .next (v.beginThread c x key i)) :
    ∃ t, exec (.tileThreadStart c x key) s = .next t ∧ t.mem = s.mem ∧ t.sems = s.sems ∧
      (∃ l' o, t.launch key = some l' ∧ s.launch key = some o ∧ l'.begun = o.begun + 1 ∧ l'.ended = o.ended) ∧
      ∃ k', t.ctx c x = k' ∧ k'.tt = some { launch := key, index := i } ∧ k'.wait = .none ∧ k'.pc = BitVec.ofNat 48 (l.code + l.k.entry) ∧
        k'.getS 1 = BitVec.ofNat 64 i ∧ k'.getA 1 = BitVec.ofNat 48 l.e.arg ∧ (∀ r, r ≠ 1 → k'.getS r = 0 ∧ k'.getA r = 0) ∧
        (∀ r i, k'.getV r i = 0) ∧ (∀ r, r ≠ 0 → k'.getP r = 0) ∧ (∀ r < 64, k'.getD r = l.dregs.getD r 0) ∧ k'.k = (g (s.ctx c x)).k ∧
        k'.chunkNext = (g (s.ctx c x)).chunkNext ∧ k'.chunkEnd = (g (s.ctx c x)).chunkEnd ∧ k'.accTiles = (s.ctx c x).accTiles ∧
        k'.spadBase = (s.ctx c x).spadBase := by
  obtain ⟨l', hl', hb, hen, hcode, hentry, harg, hd⟩ := hv
  obtain ⟨bmem, bsems, blaunch, bctx⟩ := State.beginThread_spec (c := c) (x := x) (i := i) hl'
  obtain ⟨a1, a2, a3, a4, a5, a6, a7, a8, a9⟩ := startThread_atStart (v.ctx c x) key l' i
  rw [hcode, hentry] at a3
  rw [harg] at a5
  rw [hd] at a9
  rw [← hg] at hacc hbase ⊢
  exact ⟨_, he, bmem.trans hm, bsems.trans hs, ⟨_, l, blaunch, hl, congrArg (· + 1) hb, hen⟩,
    _, bctx, a1, a2, a3, a4, a5, a6, a7, a8, a9, rfl, rfl, rfl, hacc, hbase⟩

end

/-- Settles O26: in each distribution the context takes its next index and begins that tile-thread with the registers of R38. -/
theorem tileThreadStarts : Obligations.TileThreadStarts := by
  unfold Obligations.TileThreadStarts
  intro c x key s l hl hc ht hst hk ha hex hf hstop hp hen
  have hfree := threadStart_free hc ht hst hk ha hex hf hstop hp hen
  have hstart : ∀ t, threadStart c x key s = t → exec (.tileThreadStart c x key) s = .next t := fun t h => congrArg Host.Outcome.next h
  have hbegin : ∀ (u : State) (g : Ctx → Ctx), u.launches = s.launches → u.ctxs = s.ctxs → u.mem = s.mem → u.sems = s.sems →
      (u.updCtx c x g).launch key = some l ∧ (u.updCtx c x g).mem = s.mem ∧ (u.updCtx c x g).sems = s.sems ∧
        (u.updCtx c x g).ctx c x = g (s.ctx c x) := fun u g hul huc hum hus =>
    ⟨(congrArg (oget · key) hul).trans hl, hum, hus, (State.ctx_setCtx ..).trans (by rw [State.ctx_of_ctxs huc])⟩
  refine ⟨fun hd hi => ?_, fun hd hlt => ?_, fun hd hge hr hi => ?_⟩
  · let g : Ctx → Ctx := fun k => { k with k := k.k + l.e.ctxs }
    obtain ⟨h1, h2, h3, h4⟩ := hbegin s g rfl rfl rfl rfl
    refine beginThread_begins (v := s.updCtx c x g) (g := g) hl ⟨l, h1, rfl, rfl, rfl, rfl, rfl, rfl⟩ h2 h3 h4 rfl rfl (hstart _ ?_)
    unfold threadStart
    simp only [hl, hfree, if_false, hd, Bool.false_eq_true]
    exact if_pos hi
  · let g : Ctx → Ctx := fun k => { k with chunkNext := k.chunkNext + 1 }
    obtain ⟨h1, h2, h3, h4⟩ := hbegin s g rfl rfl rfl rfl
    refine beginThread_begins (v := s.updCtx c x g) (g := g) hl ⟨l, h1, rfl, rfl, rfl, rfl, rfl, rfl⟩ h2 h3 h4 rfl rfl (hstart _ ?_)
    unfold threadStart
    simp only [hl, hfree, if_false, hd, if_true, hlt]
    rfl
  · let b := (s.claim l.e.claimDie l.e.claimIdx).value.toNat
    let g : Ctx → Ctx := fun k => { k with chunkNext := b + 1, chunkEnd := min (b + l.e.claimChunk) l.e.total }
    let u := (s.takeClaim c x key l.e.claimDie l.e.claimIdx l.e.claimChunk).2
    have hu : u = _ := congrArg Prod.snd (State.takeClaim_new hr c x key l.e.claimChunk)
    obtain ⟨h1, h2, h3, h4⟩ := hbegin u g (by rw [hu]; rfl) (by rw [hu]; rfl) (by rw [hu]; rfl) (by rw [hu]; rfl)
    refine beginThread_begins (v := (u.updCtx c x g).updLaunch key (fun l' => { l' with shares := l'.shares ++ [(4 * c + x, b, l.e.claimChunk)] }))
      (g := g) hl ⟨_, State.launch_updLaunch h1 _, rfl, rfl, rfl, rfl, rfl, rfl⟩ h2 h3 h4 rfl rfl (hstart _ ?_)
    unfold threadStart
    simp only [hl, hfree, if_false, hd, if_true, not_lt.mpr hge, u, State.takeClaim_new hr, not_le.mpr hi]
    rfl

end Sys2Proof.Machine
end

section
/-!
Queue pairs (R285 to R290, R295, R303): entries taken, started and completed, and the rings' ends.
-/

namespace Sys2Proof.Machine

/-! ### A value of a table changed where it is present -/

theorem oupd_some {α : Type} {t : Tab α} {k : Nat} {v : α} (h : oget t k = some v) (f : α → α) : oupd t k f = tins t k (f v) := by
  rw [oupd, h]

theorem oupd_none {α : Type} {t : Tab α} {k : Nat} (h : oget t k = none) (f : α → α) : oupd t k f = t := by
  rw [oupd, h]

/-! ### Bits of a word -/

theorem bit_eq_getLsbD {n : Nat} (w : BitVec n) (i : Nat) : bit w.toNat i = w.getLsbD i := by
  rw [bit, BitVec.getLsbD, Nat.testBit_eq_decide_div_mod_eq, Nat.shiftRight_eq_div_pow]
  exact Bool.beq_eq_decide_eq ..

theorem bits_eq (w lo n : Nat) : bits w lo n = w / 2 ^ lo % 2 ^ n := by rw [bits, Nat.shiftRight_eq_div_pow]

/-! ### Entries taken and completed (R286, R287, R467) -/

section
variable {s : State} {q : Nat} {x : Qp} {e : QpEntry}

theorem State.updQp_some (h : s.qp q = some x) (f : Qp → Qp) : s.updQp q f = { s with qps := tins s.qps q (f x) } := by
  rw [updQp, oupd_some h]

theorem State.qp_tins (t : State) (q : Nat) (x : Qp) (ps : Tab Qp) : ({ t with qps := tins ps q x } : State).qp q = some x := by
  rw [qp, oget_tins, if_pos rfl]

theorem State.take_eq (h : s.qp q = some x) (e : QpEntry) : s.take q e = { s with qps := tins s.qps q (x.taking e) } := updQp_some h _

theorem State.qp_take (h : s.qp q = some x) (e : QpEntry) : (s.take q e).qp q = some (x.taking e) := by
  rw [take_eq h, qp_tins]

theorem nextEntry_some {bad : Bool} (h : s.nextEntry q = some (x, e, bad)) : s.qp q = some x ∧ x.destroy = none := by
  unfold State.nextEntry at h
  split at h
  · cases h
  next y hy =>
    split at h
    · cases h
    next hno =>
      dsimp only at h
      split at h
      · cases h
      · cases h
        refine ⟨hy, ?_⟩
        rw [← Option.not_isSome_iff_eq_none]
        exact fun hd => hno (.inr (.inr (.inl hd)))

/-- Only a queue pair that is being destroyed can go. -/
theorem State.settleQp_open (h : s.qp q = some x) (hd : x.destroy = none) : s.settleQp q = s := by
  unfold settleQp
  simp only [h, hd]

/-- An entry of a queue that is not being destroyed completes: it leaves the queue, and its completion is due. -/
theorem State.endEntry_eq (h : s.qp q = some x) (hd : x.destroy = none) (hc : x.discard = false) (a : Nat) (d : QpDue) :
    s.endEntry q a d = { s with qps := tins (tins s.qps q { x with entries := x.entries.filter (fun e => e.at_ ≠ a) }) q (x.ending a d) } := by
  have hopen : ¬(x.destroy.isSome = true ∨ x.discard = true) := by simp [hd, hc]
  unfold endEntry
  rw [updQp_some h]
  unfold dueQp
  rw [updQp_some (qp_tins ..), if_neg hopen]
  exact settleQp_open (qp_tins ..) hd

theorem State.qp_endEntry (h : s.qp q = some x) (hd : x.destroy = none) (hc : x.discard = false) (a : Nat) (d : QpDue) :
    (s.endEntry q a d).qp q = some (x.ending a d) := by
  rw [endEntry_eq h hd hc, qp_tins]

end

/-! ### The entry at the head of a queue (R286, R289, R290, R303) -/

section
variable {s : State} {q : Nat} {x : Qp} {e : QpEntry} {bad : Bool} (hn : s.nextEntry q = some (x, e, bad))
include hn

theorem unlistedEntry_eq (ht : e.ty = 0 ∨ 5 < e.ty) : unlistedEntry q s = (s.take q e).endEntry q e.at_ (e.dueWith 0x11) := by
  unfold unlistedEntry
  simp only [hn]
  exact if_neg (by omega)

theorem copyStart_ok (ht : e.ty = 2) (hb : bad = false) (hw : bits (e.w 3) 40 24 = 0) (htail : e.tailBad 4 = false)
    (hv : s.varDenied x.part e = false) (hs : s.awOk x.part (e.words.getD 1 0) e.copyLen true false = true)
    (hd : s.awOk x.part (e.words.getD 2 0) e.copyLen false true = true) :
    copyStart q s = { s.take q { e with started := true } with copies := s.copies ++ [{ qp := q, at_ := e.at_ }] } := by
  unfold copyStart
  simp only [hn, ht, hb, hw, htail, hv, hs, hd, ne_eq, not_true_eq_false, if_false, Bool.false_eq_true, or_self, Bool.not_true, and_false]
  rfl

theorem fenceTake_ok (ht : e.ty = 5) (hb : bad = false) (h1 : bits (e.w 1) 14 18 = 0) (h2 : bits (e.w 2) 14 18 = 0)
    (htail : e.tailBad 3 = false) (hv : s.varDenied x.part e = false) : fenceTake q s = s.take q { e with started := true } := by
  unfold fenceTake
  simp only [hn, ht, hb, h1, h2, htail, hv, ne_eq, not_true_eq_false, if_false, Bool.false_eq_true, or_self]
  rfl

theorem addSeqHold_eq (ht : e.ty = 3) : addSeqHold q s = s.updQp q (fun x => { x with held := true }) := by
  unfold addSeqHold
  simp only [hn]
  exact if_pos ht

theorem launchTake_error {st : Nat} (ht : e.ty = 1) (hc : s.checkLaunch x.part e.var (parseLaunch e.w (bad || e.tailBad 12)) = .error st) :
    launchTake q s = (s.take q e).endEntry q e.at_ { e.dueWith st with id := e.tag } := by
  unfold launchTake
  simp only [hn, ht, ne_eq, not_true_eq_false, if_false, hc]

theorem launchTake_ok {im : Image} {k : Kernel} (ht : e.ty = 1)
    (hc : s.checkLaunch x.part e.var (parseLaunch e.w (bad || e.tailBad 12)) = .ok (im, k)) :
    launchTake q s = (s.take q { e with key := s.nextLaunch }).acceptLaunch x.part q e.at_ e.tag e.var x.cls
      (parseLaunch e.w (bad || e.tailBad 12)) im k none s.nextLaunch := by
  unfold launchTake
  simp only [hn, ht, ne_eq, not_true_eq_false, if_false, hc]

end

/-- Becoming backlogged changes virtual times only (R292). -/
theorem State.enterBacklog_spec (s : State) (p q : Nat) :
    s.enterBacklog p q = { s with parts := (s.enterBacklog p q).parts, qps := (s.enterBacklog p q).qps } ∧
      ∀ x, s.qp q = some x → ∃ v, (s.enterBacklog p q).qp q = some { x with vt := v } := by
  unfold enterBacklog
  dsimp only
  generalize hs1 : (if s.backlogged p none = true then s else _) = s1
  have h1 : s1 = { s with parts := s1.parts } := by
    rw [← hs1]
    split
    · rfl
    · split <;> rfl
  have hq1 : s1.qp q = s.qp q := by rw [h1]; rfl
  split
  · exact ⟨by rw [h1], fun x hx => ⟨x.vt, hq1.trans hx⟩⟩
  · split
    next m _ =>
      refine ⟨by rw [h1]; rfl, fun x hx => ⟨max x.vt m, ?_⟩⟩
      rw [updQp_some (hq1.trans hx), qp_tins]
    · exact ⟨by rw [h1], fun x hx => ⟨x.vt, hq1.trans hx⟩⟩

/-- The launch of a host entry when it is accepted (R288, R357). -/
def State.newLaunch (s : State) (p q at_ tag : Nat) (var lc : Bool) (e : LaunchE) (im : Image) (k : Kernel) (order : Nat) : Launch :=
  { part := p, qp := q, tag := tag, at_ := at_, var := var, lc := lc, e := e, k := k, code := im.code, dregs := [],
    order := order, since := s.time, started := false, engines := [], begun := 0, ended := 0, exhausted := [], faulted := [],
    record := none, widenBy := [], emptyBy := [], engine := 0, step := none, killed := false, served := [], posns := [], skips := [],
    aRate := s.auditRate k e, aSeed := s.health.auditSeed, audits := [], again := [], shares := [], pins := [] }

/-- An accepted launch of a host entry, as it stands before any work of it. -/
theorem State.acceptLaunch_spec (s : State) (p q at_ tag : Nat) (var lc : Bool) (e : LaunchE) (im : Image) (k : Kernel) (order : Nat) :
    ∃ l : Launch, l.part = p ∧ l.qp = q ∧ l.lc = lc ∧ l.tag = tag ∧ l.code = im.code ∧ l.k = k ∧ l.started = false ∧ l.begun = 0 ∧
      l.ended = 0 ∧ l.engines = [] ∧
      s.acceptLaunch p q at_ tag var lc e im k none order =
        { (if lc then s else s.enterBacklog p q) with launches := tins s.launches s.nextLaunch l, nextLaunch := s.nextLaunch + 1 } := by
  refine ⟨s.newLaunch p q at_ tag var lc e im k order, rfl, rfl, rfl, rfl, rfl, rfl, rfl, rfl, rfl, rfl, ?_⟩
  have hb := (s.enterBacklog_spec p q).1
  have hl : (if lc then s else s.enterBacklog p q).launches = s.launches ∧ (if lc then s else s.enterBacklog p q).nextLaunch = s.nextLaunch := by
    split
    · exact ⟨rfl, rfl⟩
    · rw [hb]
      exact ⟨rfl, rfl⟩
  unfold acceptLaunch
  dsimp only
  rw [hl.1, hl.2]
  rfl

/-- The queue with the index of a doorbell write: of its completion ring's head, or of its submission ring's tail. -/
def Qp.rung (x : Qp) (cq : Bool) (i : Nat) : Qp := if cq then { x with cqHead := i % 2 ^ x.cqLog } else { x with sqTail := i % 2 ^ x.sqLog }

/-- A doorbell write outside the partition's range only counts; one inside sets a ring's index (R285). -/
theorem doorbell_in {p : Nat} {v : W64} {s : State} {x : Qp} (hin : s.qpIn p (v.toNat % 2 ^ 18) = true) (hx : s.qp (v.toNat % 2 ^ 18) = some x) :
    doorbell p v s = { s with qps := tins s.qps (v.toNat % 2 ^ 18) (x.rung (v.getLsbD 18) (v.toNat / 2 ^ 20 % 2 ^ 16)) } := by
  have hn : bits v.toNat 0 18 = v.toNat % 2 ^ 18 := by rw [bits_eq, pow_zero, Nat.div_one]
  unfold doorbell
  simp only [hn, hin, Bool.not_true, Bool.false_eq_true, if_false, bit_eq_getLsbD, State.updQp_some hx, bits_eq v.toNat 20 16]
  rfl

theorem doorbell_out {p : Nat} {v : W64} {s : State} {y : Part} (hin : s.qpIn p (v.toNat % 2 ^ 18) = false) (hy : oget s.parts p = some y) :
    doorbell p v s = { s with parts := tins s.parts p { y with badDoorbell := y.badDoorbell + 1 } } := by
  have hn : bits v.toNat 0 18 = v.toNat % 2 ^ 18 := by rw [bits_eq, pow_zero, Nat.div_one]
  unfold doorbell
  simp only [hn, hin, Bool.not_false, if_true]
  unfold State.updPart
  rw [oupd_some hy]

/-- Settles O27: the entry at the head is taken and started, held, refused, or becomes a launch; a doorbell sets its index. -/
theorem queueEntries : Obligations.QueueEntries := by
  unfold Obligations.QueueEntries
  refine ⟨fun q s x e bad hn hx hc => ?_, fun p v s => ⟨fun hin x hx => congrArg Host.Outcome.next (doorbell_in hin hx),
    fun hin y hy => congrArg Host.Outcome.next (doorbell_out hin hy)⟩⟩
  have hd := (nextEntry_some hn).2
  refine ⟨fun ht => ?_, fun ht hb hw htail hv hsrc hdst => ?_, fun ht hb h1 h2 htail hv => ?_, fun ht => ?_, fun ht => ⟨fun im k hk => ?_, fun st hst => ?_⟩⟩
  · refine ⟨_, congrArg Host.Outcome.next (unlistedEntry_eq hn ht), ?_, e.dueWith 0x11, rfl, rfl, rfl, State.qp_endEntry (State.qp_take hx e) hd hc _ _⟩
    rw [State.endEntry_eq (State.qp_take hx e) hd hc, State.take_eq hx]
  · exact ⟨_, congrArg Host.Outcome.next (copyStart_ok hn ht hb hw htail hv hsrc hdst), by rw [State.take_eq hx]; exact ⟨rfl, rfl, rfl⟩, rfl⟩
  · exact ⟨_, congrArg Host.Outcome.next (fenceTake_ok hn ht hb h1 h2 htail hv), by rw [State.take_eq hx]; exact ⟨rfl, rfl, rfl⟩⟩
  · exact congrArg Host.Outcome.next ((addSeqHold_eq hn ht).trans (State.updQp_some hx _))
  · let u := s.take q { e with key := s.nextLaunch }
    obtain ⟨l, h1, h2, h3, h4, h5, h6, h7, h8, h9, h10, hacc⟩ := u.acceptLaunch_spec x.part q e.at_ e.tag e.var x.cls
      (parseLaunch e.w (bad || e.tailBad 12)) im k s.nextLaunch
    have hu : u = { s with qps := tins s.qps q (x.taking { e with key := s.nextLaunch }) } := State.take_eq hx _
    have huq : u.qp q = some (x.taking { e with key := s.nextLaunch }) := State.qp_take hx _
    obtain ⟨hb, hbq⟩ := u.enterBacklog_spec x.part q
    have hmem : (if x.cls then u else u.enterBacklog x.part q).mem = s.mem := by
      split
      · rw [hu]
      · rw [hb, hu]
    obtain ⟨v, hv⟩ : ∃ v, (if x.cls then u else u.enterBacklog x.part q).qp q = some { x.taking { e with key := s.nextLaunch } with vt := v } := by
      split
      · exact ⟨x.vt, huq⟩
      · exact hbq _ huq
    refine ⟨_, l, _, congrArg Host.Outcome.next ((launchTake_ok hn ht hk).trans hacc), hmem, ?_, fun hlc => ?_, hv, rfl, rfl, ?_, h1, h2, h3, h4, h5,
      h6, h7, h8, h9, h10⟩
    · rw [hu]
    · rw [hlc, if_pos rfl, hu]
      exact ⟨rfl, rfl, rfl⟩
    · rw [hu]
  · refine ⟨_, congrArg Host.Outcome.next (launchTake_error hn ht hst), ?_, ?_, { e.dueWith st with id := e.tag }, rfl, rfl,
      State.qp_endEntry (State.qp_take hx e) hd hc _ _⟩
    · rw [State.endEntry_eq (State.qp_take hx e) hd hc, State.take_eq hx]
    · rw [State.endEntry_eq (State.qp_take hx e) hd hc, State.take_eq hx]

end Sys2Proof.Machine
end

section
/-!
COPY and FENCE complete, completions are posted, and regulators refill (R287, R290, R295).
-/

namespace Sys2Proof.Machine

/-! ### What writes, signals and interrupts leave unchanged -/

section
variable (s : State)

theorem State.write_only (a : Nat) (bs : List Byte) :
    s.write a bs = { s with mem := (s.write a bs).mem, poison := (s.write a bs).poison, regions := (s.write a bs).regions } := by
  unfold write
  split <;> rfl

theorem State.awWrite_only (p : Nat) (w : W64) (bs : List Byte) : s.awWrite p w bs = { s with
    mem := (s.awWrite p w bs).mem, poison := (s.awWrite p w bs).poison, regions := (s.awWrite p w bs).regions, host := (s.awWrite p w bs).host } := by
  unfold awWrite
  split
  · rfl
  · unfold write
    split <;> rfl

theorem State.taint_only (a n : Nat) : s.taint a n = { s with poison := (s.taint a n).poison } := by
  unfold taint
  split <;> rfl

theorem State.interrupt_only (p v : Nat) : s.interrupt p v = { s with funcs := (s.interrupt p v).funcs, sent := (s.interrupt p v).sent } := by
  unfold interrupt
  dsimp only
  split
  · rfl
  · split <;> rfl

theorem State.event_only (m n data : Nat) : s.event m n data = { s with mbxs := (s.event m n data).mbxs } := by
  unfold event
  dsimp only
  split
  · rfl
  · split <;> rfl

theorem State.semLost_only (p die i : Nat) : s.semLost p die i =
    { s with parts := (s.semLost p die i).parts, mbxs := (s.semLost p die i).mbxs } := by
  unfold semLost
  rw [event_only]
  rfl

theorem State.signalOr_only (p die i n : Nat) : s.signalOr p die i n =
    { s with sems := (s.signalOr p die i n).sems, parts := (s.signalOr p die i n).parts, mbxs := (s.signalOr p die i n).mbxs } := by
  unfold signalOr semAdd
  dsimp only
  split
  next h =>
    split at h
    · cases h; rfl
    · cases h
  · rw [semLost_only]

end

/-! ### A COPY completes (R290) -/

/-- What a COPY's accounting leaves alone: the copies under way, the queues, both memories and the count of occasions. -/
def State.copyView (s : State) : List Copy × Tab Qp × Tab Byte × Tab (Tab Byte) × Nat := (s.copies, s.qps, s.mem, s.host, s.fresh)

/-- The state once a COPY's bytes lie at its destination: poison passed on, regulators charged. -/
def State.copyCharged (s : State) (p : Nat) (poisoned host : Bool) (dst n : Nat) (spans : List (Nat × Nat)) : State :=
  let s := if poisoned then s.taint dst n else s
  let s := if host then s.charge p 3 n else s
  spans.foldl (fun s r => s.chargeLines p [r]) s

theorem copyCharged_view (s : State) (p : Nat) (poisoned host : Bool) (dst n : Nat) (spans : List (Nat × Nat)) :
    (s.copyCharged p poisoned host dst n spans).copyView = s.copyView := by
  have ht : (if poisoned then s.taint dst n else s).copyView = s.copyView := by
    split
    · rw [s.taint_only]; rfl
    · rfl
  unfold State.copyCharged
  dsimp only
  rw [foldl_keeps State.copyView (fun s r => s.chargeLines p [r]) fun _ _ => rfl]
  split
  · exact ht
  · exact ht

/-- The bytes that a COPY reads at its source. -/
def State.copyRead (s : State) (p : Nat) (src : W64) (n : Nat) : List Byte :=
  if awHost src then s.hostBytes p (awAddr src) n else s.seenBytes (awAddr src) n

/-- The ranges of a COPY lie in one memory and meet. -/
def QpEntry.lapping (e : QpEntry) : Bool :=
  let src := e.words.getD 1 0
  let dst := e.words.getD 2 0
  awHost src == awHost dst && decide (awAddr src < awAddr dst + e.copyLen ∧ awAddr dst < awAddr src + e.copyLen)

/-- The bytes that a COPY leaves at its destination: free ones where its ranges overlap (log 10). -/
def State.copyBytes (s : State) (p : Nat) (e : QpEntry) : List Byte :=
  if e.lapping then (List.range e.copyLen).map (Config.freeByte s.fresh) else s.copyRead p (e.words.getD 1 0) e.copyLen

section
variable {q : Nat} {s : State} {x : Qp} {e : QpEntry} {k : Copy}

/-- The oldest copy of a queue whose memories and regulators are open has moved its bytes. -/
theorem copyDone_eq (hk : s.copies.filter (fun c => c.qp = q) = [k]) (hx : s.qp q = some x) (he : x.entries = [e]) (ha : e.at_ = k.at_)
    (hf : e.failed = false)
    (hhost : awHost (e.words.getD 1 0) = true ∨ awHost (e.words.getD 2 0) = true → s.hostOpen x.part = true ∧ s.regOpen x.part 3 = true)
    (hdram : e.copySpans ≠ [] → s.regOpen x.part 0 = true) :
    ∃ poisoned, copyDone q 0 s = (State.copyCharged { ({ s with copies := s.copies.filter (· ≠ k) } : State).awWrite x.part (e.words.getD 2 0)
        (s.copyBytes x.part e) with fresh := if e.lapping then s.fresh + 1 else s.fresh } x.part poisoned
          (awHost (e.words.getD 1 0) || awHost (e.words.getD 2 0)) (awAddr (e.words.getD 2 0)) e.copyLen e.copySpans).endEntry q e.at_
            (e.dueWith 0) := by
  have hgo : ¬((((awHost (e.words.getD 1 0) || awHost (e.words.getD 2 0)) = true ∧ ((!s.hostOpen x.part) = true ∨ (!s.regOpen x.part 3) = true)) ∨
      (e.copySpans ≠ [] ∧ (!s.regOpen x.part 0) = true)) ∧ (!e.failed) = true) := by
    rintro ⟨(⟨hh, hc⟩ | ⟨hs, hc⟩), _⟩
    · obtain ⟨h1, h2⟩ := hhost (Bool.or_eq_true_iff.mp hh)
      simp [h1, h2] at hc
    · simp [hdram hs] at hc
  refine ⟨decide ((!awHost (e.words.getD 1 0) && s.poisoned (awAddr (e.words.getD 1 0)) e.copyLen && !e.lapping) = true ∧
    (!awHost (e.words.getD 2 0)) = true), ?_⟩
  unfold copyDone
  simp only [hk, List.getElem?_cons_zero, hx, he, List.find?_cons, ha, decide_true, hgo, if_false]
  rw [if_neg (by simp [hf])]
  unfold State.copyCharged
  simp only [decide_eq_true_eq]
  rfl

end

/-- What a write at an address word leaves does not depend on the copies under way. -/
theorem awWrite_copies (s : State) (cs : List Copy) (p : Nat) (w : W64) (bs : List Byte) :
    ({ s with copies := cs } : State).awWrite p w bs = { s.awWrite p w bs with copies := cs } := by
  unfold State.awWrite State.write
  split
  · rfl
  · split <;> rfl

/-! ### A FENCE completes (R290) -/

section
variable {q : Nat} {s : State} {x : Qp} {e : QpEntry}

theorem fenceComplete_eq (hx : s.qp q = some x) (he : x.entries = [e]) (ht : e.ty = 5)
    (h2 : bit (e.w 2) 13 = true → s.semIn x.part (bits (e.w 2) 0 12) = true)
    (h1 : bit (e.w 1) 13 = true → s.semIn x.part (bits (e.w 1) 0 12) = true ∧
      e.w 1 >>> 32 ≤ (s.sem (bits (e.w 1) 12 1) (bits (e.w 1) 0 12)).value.toNat) :
    fenceComplete q s = (if bit (e.w 2) 13 then s.signalOr x.part (bits (e.w 2) 12 1) (bits (e.w 2) 0 12) (e.w 2 >>> 32) else s).endEntry q
      e.at_ (e.dueWith 0) := by
  have hw : ((bit (e.w 1) 13 && !s.semIn x.part (bits (e.w 1) 0 12)) || (bit (e.w 2) 13 && !s.semIn x.part (bits (e.w 2) 0 12))) = false := by
    rw [Bool.or_eq_false_iff, Bool.and_eq_false_imp, Bool.and_eq_false_imp]
    exact ⟨fun h => by simp [(h1 h).1], fun h => by simp [h2 h]⟩
  have ho : s.fenceOpen e = true := by
    unfold State.fenceOpen
    cases hb : bit (e.w 1) 13 with
    | false => rfl
    | true => simp [(h1 hb).2]
  unfold fenceComplete
  simp only [hx, he, ht, ne_eq, not_true_eq_false, if_false, hw, Bool.false_eq_true, ho, Bool.not_true]

end

/-! ### A completion is posted (R287) -/

/-- The queue whose oldest completion, the first of `due`, was written to its slot. -/
def Qp.posted (x : Qp) (rest : List QpDue) : Qp :=
  { x with due := rest, sqHead := x.head, cqTail := (x.cqTail + 1) % 2 ^ x.cqLog,
           cqPhase := if (x.cqTail + 1) % 2 ^ x.cqLog = 0 then !x.cqPhase else x.cqPhase }

section
variable {q : Nat} {s : State} {x : Qp} {d : QpDue} {rest : List QpDue}

/-- The regulator and the interrupt of a posted completion touch neither memory nor the queues. -/
theorem qpPost_spec (hx : s.qp q = some x) (hd : x.due = d :: rest) (hds : x.destroy = none) (hr : (x.cqTail + 1) % 2 ^ x.cqLog ≠ x.cqHead)
    (hh : awHost x.cqAddr = true → s.hostOpen x.part = true ∧ x.stopped = false) :
    let u := s.awWrite x.part (x.cqAddr + BitVec.ofNat 64 (64 * x.cqTail)) (d.bytes x.cqPhase x.head)
    (qpPost q s).mem = u.mem ∧ (qpPost q s).host = u.host ∧ (qpPost q s).qp q = some (x.posted rest) := by
  intro u
  have hroom : x.cqRoom = true := decide_eq_true hr
  have hgo : ¬((!x.cqRoom) = true ∨ x.destroy.isSome = true ∨ (awHost x.cqAddr = true ∧ ((!s.hostOpen x.part) = true ∨ x.stopped = true))) := by
    rintro (h | h | ⟨h, h'⟩)
    · simp [hroom] at h
    · simp [hds] at h
    · simp [hh h] at h'
  have hq : u.qp q = some x := by
    rw [show u = _ from s.awWrite_only ..]
    exact hx
  have hpost : ∀ v : State, v.mem = u.mem → v.host = u.host → v.qp q = some (x.posted rest) → ∀ b : Bool,
      (if b then v.interrupt x.part x.vec else v).mem = u.mem ∧ (if b then v.interrupt x.part x.vec else v).host = u.host ∧
        (if b then v.interrupt x.part x.vec else v).qp q = some (x.posted rest) := by
    intro v hm hho hv b
    split
    · rw [v.interrupt_only]
      exact ⟨hm, hho, hv⟩
    · exact ⟨hm, hho, hv⟩
  let w := u.updQp q (fun y => { y with due := rest, sqHead := y.head, cqTail := (y.cqTail + 1) % 2 ^ y.cqLog, cqPhase := if (y.cqTail + 1) % 2 ^ y.cqLog = 0 then !y.cqPhase else y.cqPhase })
  have hw : w.mem = u.mem ∧ w.host = u.host ∧ w.qp q = some (x.posted rest) := by
    rw [show w = _ from State.updQp_some hq _]
    exact ⟨rfl, rfl, State.qp_tins ..⟩
  have hc : ∀ b : Bool, (if b then w.charge x.part 3 64 else w).mem = u.mem ∧ (if b then w.charge x.part 3 64 else w).host = u.host ∧
      (if b then w.charge x.part 3 64 else w).qp q = some (x.posted rest) := by
    intro b
    split
    · exact hw
    · exact hw
  obtain ⟨h1, h2, h3⟩ := hc (awHost x.cqAddr)
  have he : qpPost q s = if d.irq && x.irqen then (if awHost x.cqAddr then w.charge x.part 3 64 else w).interrupt x.part x.vec
      else if awHost x.cqAddr then w.charge x.part 3 64 else w := by
    unfold qpPost
    simp only [hx, hd, hgo, if_false, Bool.and_eq_true]
    rfl
  rw [he]
  exact hpost _ h1 h2 h3 _

end

/-- Settles O28: a COPY and a FENCE end their entries, the oldest completion is posted, and a refill is one map over the regulators. -/
theorem queueCompletions : Obligations.QueueCompletions := by
  unfold Obligations.QueueCompletions
  refine ⟨?_, ?_, ?_, ?_⟩
  · intro q s x e k hk hx he ha hf hd hc src dst hhost hdram
    obtain ⟨poisoned, heq⟩ := copyDone_eq hk hx he ha hf hhost hdram
    let wrote : State := { ({ s with copies := s.copies.filter (· ≠ k) } : State).awWrite x.part dst (s.copyBytes x.part e) with
      fresh := if e.lapping then s.fresh + 1 else s.fresh }
    let done := wrote.copyCharged x.part poisoned (awHost src || awHost dst) (awAddr dst) e.copyLen e.copySpans
    have hw : wrote = { s.awWrite x.part dst (s.copyBytes x.part e) with
        copies := s.copies.filter (· ≠ k), fresh := if e.lapping then s.fresh + 1 else s.fresh } := 
      congrArg (fun t : State => { t with fresh := if e.lapping then s.fresh + 1 else s.fresh }) (awWrite_copies ..)
    have hview : done.copyView = wrote.copyView := copyCharged_view ..
    simp only [State.copyView, Prod.mk.injEq] at hview
    obtain ⟨hcop, hqps, hmem, hho, hfr⟩ := hview
    have hqs := congrArg State.qps (s.awWrite_only x.part dst (s.copyBytes x.part e))
    have hwq : wrote.qps = s.qps := by rw [hw]; exact hqs
    have hdq : done.qp q = some x := (congrArg (oget · q) (hqps.trans hwq)).trans hx
    have hend := State.endEntry_eq hdq hd hc e.at_ (e.dueWith 0)
    refine ⟨done.endEntry q e.at_ (e.dueWith 0), congrArg Host.Outcome.next heq, ?_, ⟨e.dueWith 0, rfl, rfl, State.qp_endEntry hdq hd hc ..⟩, fun hno => ?_⟩
    · rw [hend]
      exact hcop.trans (by rw [hw])
    · have hlap : e.lapping = false := by
        unfold QpEntry.lapping
        rw [Bool.and_eq_false_imp, beq_iff_eq]
        intro hsame
        rw [decide_eq_false_iff_not]
        rcases hno with h | h | h
        · exact absurd hsame h
        · exact fun hover => absurd hover.2 (Nat.not_lt.mpr h)
        · exact fun hover => absurd hover.1 (Nat.not_lt.mpr h)
      have hbytes : s.copyBytes x.part e = if awHost src then s.hostBytes x.part (awAddr src) e.copyLen else s.seenBytes (awAddr src) e.copyLen := by
        unfold State.copyBytes
        rw [hlap]
        rfl
      rw [hlap, hbytes] at hw
      rw [hend]
      exact ⟨hmem.trans (by rw [hw]), hho.trans (by rw [hw]), hfr.trans (by rw [hw]; rfl)⟩
  · intro q s x e hx he ht hd hc h2 h1
    let u := if bit (e.w 2) 13 then s.signalOr x.part (bits (e.w 2) 12 1) (bits (e.w 2) 0 12) (e.w 2 >>> 32) else s
    have hu : u.mem = s.mem ∧ u.qps = s.qps := by
      by_cases hb : bit (e.w 2) 13 = true
      · rw [show u = _ from if_pos hb, s.signalOr_only]
        exact ⟨rfl, rfl⟩
      · rw [show u = _ from if_neg hb]
        exact ⟨rfl, rfl⟩
    have huq : u.qp q = some x := (congrArg (oget · q) hu.2).trans hx
    have hend := State.endEntry_eq huq hd hc e.at_ (e.dueWith 0)
    refine ⟨u.endEntry q e.at_ (e.dueWith 0), congrArg Host.Outcome.next (fenceComplete_eq hx he ht h2 h1), ?_, ?_, e.dueWith 0, rfl, rfl,
      State.qp_endEntry huq hd hc ..⟩
    · rw [hend]
      exact hu.1
    · rw [hend]
  · intro q s x d rest hx hd hds hr hh
    obtain ⟨h1, h2, h3⟩ := qpPost_spec hx hd hds hr hh
    exact ⟨_, rfl, h1, h2, _, h3, rfl, rfl, rfl, rfl, rfl⟩
  · intro s
    refine ⟨rfl, fun ho => ?_⟩
    unfold State.pushFlits
    dsimp only
    rw [ho]
    rfl

end Sys2Proof.Machine
end

section
/-!
Engines given to launches, and pre-emption (R38, R291, R296, R297, R300).
-/

namespace Sys2Proof.Machine

/-! ### The launch that an engine is given to (R291, R292) -/

/-- A launch found so far goes before every latency-critical launch of `seen`. -/
def FirstLc (best : Option (Nat × Launch)) (seen : List (Nat × Launch)) : Prop :=
  ∀ a ∈ seen, a.2.lc = true → ∃ b, best = some b ∧ b.2.lc = true ∧ b.2.order ≤ a.2.order

/-- One step of the search of `choose`. -/
def State.better (s : State) (best : Option (Nat × Launch)) (a : Nat × Launch) : Option (Nat × Launch) :=
  match best with
  | none => some a
  | some b => if s.before a b then some a else some b

theorem State.before_lc {s : State} {a b : Nat × Launch} (h : s.before a b = true) (hb : b.2.lc = true) : a.2.lc = true ∧ a.2.order ≤ b.2.order := by
  unfold before at h
  dsimp only at h
  by_cases ha : a.2.lc = true
  · simp only [ha, hb, ne_eq, not_true_eq_false, if_false, if_true, decide_eq_true_eq] at h
    exact ⟨ha, h.le⟩
  · rw [if_pos (by rw [hb]; exact ha)] at h
    exact absurd h ha

theorem State.not_before_lc {s : State} {a b : Nat × Launch} (h : ¬s.before a b = true) (ha : a.2.lc = true) : b.2.lc = true ∧ b.2.order ≤ a.2.order := by
  unfold before at h
  dsimp only at h
  by_cases hb : b.2.lc = true
  · simp only [ha, hb, ne_eq, not_true_eq_false, if_false, if_true, decide_eq_true_eq, not_lt] at h
    exact ⟨hb, h⟩
  · rw [if_pos (by rw [ha]; exact fun hc => hb hc.symm)] at h
    exact absurd ha h

theorem FirstLc.better {s : State} {best : Option (Nat × Launch)} {seen : List (Nat × Launch)} (h : FirstLc best seen) (a : Nat × Launch) :
    FirstLc (s.better best a) (seen ++ [a]) := by
  intro o ho hlc
  rcases List.mem_append.mp ho with ho | ho
  · obtain ⟨b, rfl, hb, hle⟩ := h o ho hlc
    unfold State.better
    dsimp only
    split
    next hbef => exact ⟨a, rfl, (State.before_lc hbef hb).1, (State.before_lc hbef hb).2.trans hle⟩
    next => exact ⟨b, rfl, hb, hle⟩
  · rw [List.mem_singleton] at ho
    subst ho
    cases best with
    | none => exact ⟨o, rfl, hlc, le_rfl⟩
    | some b =>
      unfold State.better
      dsimp only
      split
      next => exact ⟨o, rfl, hlc, le_rfl⟩
      next hbef => exact ⟨b, rfl, State.not_before_lc hbef hlc⟩

theorem FirstLc.foldl {s : State} (rest : List (Nat × Launch)) {best : Option (Nat × Launch)} {seen : List (Nat × Launch)} (h : FirstLc best seen) :
    FirstLc (rest.foldl s.better best) (seen ++ rest) := by
  induction rest generalizing best seen with
  | nil => rwa [List.append_nil]
  | cons a rest ih =>
    rw [List.foldl_cons, show seen ++ a :: rest = (seen ++ [a]) ++ rest by simp]
    exact ih (h.better a)

theorem State.choose_lc {s : State} {k : EngineKind} {n : Nat} {lcOnly : Bool} {a o : Nat × Launch} (h : s.choose k n lcOnly = some a)
    (ho : o ∈ s.launches) (hr : s.ready4 k n o.2 = true) (hlc : o.2.lc = true) : a.2.lc = true ∧ a.2.order ≤ o.2.order := by
  have hmem : o ∈ s.launches.filter (fun (_, l) => s.ready4 k n l && (!lcOnly || l.lc)) := by
    rw [List.mem_filter]
    exact ⟨ho, by simp [hr, hlc]⟩
  have hfirst := FirstLc.foldl (s := s) (s.launches.filter (fun (_, l) => s.ready4 k n l && (!lcOnly || l.lc))) (best := none) (seen := [])
    (fun _ hc => absurd hc List.not_mem_nil)
  obtain ⟨b, hb, hblc, hle⟩ := hfirst o (by simpa using hmem) hlc
  have hab : a = b := by
    rw [show s.choose k n lcOnly = _ from rfl] at h
    exact Option.some.inj (h.symm.trans hb)
  rw [hab]
  exact ⟨hblc, hle⟩

/-! ### Contexts given to a launch (R38, R288) -/

section
variable (s : State) (c base n : Nat) (g : Nat → Ctx)

theorem foldl_setCtx_only : (List.range n).foldl (fun s i => s.setCtx c (base + i) (g i)) s =
    { s with ctxs := ((List.range n).foldl (fun s i => s.setCtx c (base + i) (g i)) s).ctxs } := by
  induction n with
  | zero => rfl
  | succ n ih =>
    rw [List.range_succ, List.foldl_append, List.foldl_cons, List.foldl_nil, ih]
    rfl

theorem tget_foldl_setCtx (j : Nat) : tget (fun _ => Ctx.reset) ((List.range n).foldl (fun s i => s.setCtx c (base + i) (g i)) s).ctxs j =
    if 4 * c + base ≤ j ∧ j < 4 * c + base + n then g (j - (4 * c + base)) else tget (fun _ => Ctx.reset) s.ctxs j := by
  induction n with
  | zero => rw [if_neg (by omega)]; rfl
  | succ n ih =>
    rw [List.range_succ, List.foldl_append, List.foldl_cons, List.foldl_nil]
    rw [show ∀ u : State, ∀ k, (u.setCtx c (base + n) k).ctxs = tput (fun _ => Ctx.reset) u.ctxs (4 * c + (base + n)) k from fun _ _ => rfl,
      tget_tput, ih]
    by_cases h : j = 4 * c + (base + n)
    · subst h
      rw [if_pos rfl, if_pos (by omega)]
      congr 1
      omega
    · rw [if_neg h]
      simp only [show (4 * c + base ≤ j ∧ j < 4 * c + base + (n + 1)) ↔ (4 * c + base ≤ j ∧ j < 4 * c + base + n) by omega]

end

/-- Assigning a core to a partition touches device memory and the core's own bank registers. -/
theorem State.giveCore_only (s : State) (p c : Nat) :
    s.giveCore p c = { s with mem := (s.giveCore p c).mem, cores := (s.giveCore p c).cores } := by
  unfold giveCore fillTables
  split
  · rfl
  · split <;> rfl

/-- The core after it was assigned: its bank registers apart, as before. -/
theorem State.core_giveCore (s : State) (p c : Nat) : ∃ a b cs q, (s.giveCore p c).core c =
    { s.core c with active := a, pending := b, commits := cs, part := q } := by
  unfold giveCore fillTables
  split
  · exact ⟨_, _, _, _, rfl⟩
  · split
    · exact ⟨_, _, _, _, rfl⟩
    · rw [State.core_updCore]
      exact ⟨_, _, _, _, rfl⟩

/-- The contexts of a core once it was given to launch `key`, on contexts from `base` on. -/
def State.givenCtxs (s : State) (c key : Nat) (l : Launch) (base : Nat) : Tab Ctx :=
  ((List.range l.e.ctxs).foldl (fun s i => s.setCtx c (base + i) (Ctx.give key l c i)) s).ctxs

theorem State.giveCoreTo_eq {s : State} {c : Nat} (hv : (s.core c).viaOff = false) (key : Nat) (l : Launch) (base : Nat) :
    s.giveCoreTo c key l base = { s with
      mem := (s.giveCore l.part c).mem
      cores := (s.giveCore l.part c).cores
      ctxs := s.givenCtxs c key l base
      launches := oupd s.launches key (fun l => { l with engines := l.engines ++ [c] }) } := by
  have hctx : ∀ u : State, u.ctxs = s.ctxs → ∀ n, ((List.range n).foldl (fun s i => s.setCtx c (base + i) (Ctx.give key l c i)) u).ctxs =
      ((List.range n).foldl (fun s i => s.setCtx c (base + i) (Ctx.give key l c i)) s).ctxs := by
    intro u hu n
    induction n with
    | zero => exact hu
    | succ n ih =>
      simp only [List.range_succ, List.foldl_append, List.foldl_cons, List.foldl_nil]
      exact congrArg (tput (fun _ => Ctx.reset) · (4 * c + (base + n)) (Ctx.give key l c n)) ih
  have hoff : (if (s.core c).viaOff && s.coreIdle c then s.corePowerOff c else s) = s := by
    rw [hv]
    rfl
  unfold giveCoreTo
  dsimp only
  rw [hoff, foldl_setCtx_only, hctx (s.giveCore l.part c) (by rw [s.giveCore_only])]
  exact congrArg (fun u : State => ({ u with ctxs := s.givenCtxs c key l base } : State).updLaunch key _) (s.giveCore_only l.part c)

theorem State.releaseCore_vacant {s : State} {c : Nat} (h : ∀ x < 4, (s.ctx c x).launch = none) : s.releaseCore c = s := by
  have hnone : (List.range 4).filterMap (fun x => (s.ctx c x).launch) = [] := by
    rw [List.filterMap_eq_nil_iff]
    exact fun x hx => h x (List.mem_range.mp hx)
  unfold releaseCore
  rw [hnone]
  rfl

theorem engineDispatch_core {s : State} {c key : Nat} {l : Launch} (hv : CoreVacant s c) (hc : s.choose .core c false = some (key, l)) :
    engineDispatch .core c s = s.giveCoreTo c key l 0 := by
  obtain ⟨hctx, hsaved, hfrozen, hstop⟩ := hv
  have hfree : s.coreFree c = true := by
    unfold State.coreFree
    rw [hsaved, hfrozen, hstop]
    simp only [Option.isNone_none, List.isEmpty_nil, Bool.and_true, List.all_eq_true, List.mem_range, Option.isNone_iff_eq_none]
    exact hctx
  unfold engineDispatch
  simp only [State.releaseCore_vacant hctx, hfree, Bool.not_true, Bool.false_eq_true, if_false, hc]

/-- Settles O29: the search keeps the first latency-critical launch; a vacant core, unit or engine is given to the launch found. -/
theorem engineDispatch_holds : Obligations.EngineDispatch := by
  unfold Obligations.EngineDispatch
  refine ⟨?_, ?_, ?_, ?_⟩
  · intro k n key m lcOnly s l o hc ho hr hlc
    exact State.choose_lc hc ho hr hlc
  · intro c key s l hv hoff hc h4
    have heq := (engineDispatch_core hv hc).trans (State.giveCoreTo_eq hoff key l 0)
    refine ⟨_, congrArg Host.Outcome.next heq, fun i hi => ?_, fun i hi => ?_, rfl, rfl, fun o ho => ?_⟩
    · refine (tget_foldl_setCtx s c 0 l.e.ctxs (Ctx.give key l c) (4 * c + i)).trans ?_
      rw [if_pos (by omega), show 4 * c + i - (4 * c + 0) = i by omega]
      rfl
    · refine (tget_foldl_setCtx s c 0 l.e.ctxs (Ctx.give key l c) i).trans ?_
      rw [if_neg (by omega)]
    · exact oget_oupd_self ho _
  · intro u key s l hn hc
    have heq : exec (.engineDispatch .fox u) s = .next ((s.updFox u (fun f => { f with launch := none })).giveUnitTo .fox u key l) := by
      refine congrArg Host.Outcome.next ?_
      unfold engineDispatch State.unitAt
      simp only [hn, Option.bind_none]
      rw [show (s.updFox u (fun f => { f with launch := none })).choose .fox u false = some (key, l) from hc]
    exact ⟨_, heq, by simp [State.giveUnitTo, State.updFox, State.updLaunch, State.fox, State.setFox, tget_tput],
      by simp [State.giveUnitTo, State.updFox, State.updLaunch, State.fox, State.setFox, tget_tput],
      by simp [State.giveUnitTo, State.updFox, State.updLaunch, State.fox, State.setFox, tget_tput], rfl⟩
  · intro e key s l hn hc
    have heq : exec (.engineDispatch .prim e) s = .next ((s.updPrim e (fun f => { f with launch := none })).giveUnitTo .prim e key l) := by
      refine congrArg Host.Outcome.next ?_
      unfold engineDispatch State.unitAt
      simp only [hn, Option.bind_none]
      rw [show (s.updPrim e (fun f => { f with launch := none })).choose .prim e false = some (key, l) from hc]
    exact ⟨_, heq, by simp [State.giveUnitTo, State.updPrim, State.updLaunch, State.prim, State.setPrim, tget_tput],
      by simp [State.giveUnitTo, State.updPrim, State.updLaunch, State.prim, State.setPrim, tget_tput], rfl⟩

end Sys2Proof.Machine
end

section
/-!
Pre-emption of a shared core and the revocation of a hold (R291, R294, R296, R297, R300).
-/

namespace Sys2Proof.Machine

/-! ### The core is stopped (R291, R294, R297) -/

theorem preempt_eq {c key bk : Nat} {s : State} {l b : Launch} (hl : s.launch key = some l) (hb : s.coreHolder c = some (bk, b)) (hbe : b.lc = false)
    (hc : s.choose .core c true = some (key, l)) (hsh : s.engineShared b.part .core c = true) (hst : (s.core c).stop = none)
    (hsv : (s.core c).saved = none) (hfr : (s.core c).frozen = []) (hlk : s.holdsLock c = false) :
    preempt c key s =
      let xs := s.ctxsOf c bk
      let u := (xs.foldl (fun (u : State) x => u.leaveWaits c x) (s.updPart b.part (fun p => { p with preempts := p.preempts + 1 }))).updCore c
        (fun k => { k with frozen := xs, stopAt := l.since, victim := some b.part })
      if fitsRoom l b then u.giveCoreTo c key l (4 - l.e.ctxs) else u.updCore c (fun k => { k with stop := some key }) := by
  have hgo : ¬(b.lc = true ∨ (s.choose .core c true).map (·.1) ≠ some key ∨ (!s.engineShared b.part .core c) = true ∨ (s.core c).stop.isSome = true ∨
      (s.core c).saved.isSome = true ∨ (s.core c).frozen ≠ [] ∨ s.holdsLock c = true) := by
    simp [hbe, hc, hsh, hst, hsv, hfr, hlk]
  unfold preempt
  simp only [hl, hb]
  rw [if_neg hgo]

/-! ### The core is saved (R296) -/

section
variable (s : State) (c key n : Nat)

theorem State.chargeEngine_only (k : EngineKind) : s.chargeEngine k key n =
    { s with launches := (s.chargeEngine k key n).launches, parts := (s.chargeEngine k key n).parts, qps := (s.chargeEngine k key n).qps } := by
  unfold chargeEngine
  split <;> rfl

theorem State.chargeSave_only : s.chargeSave key n =
    { s with launches := (s.chargeSave key n).launches, parts := (s.chargeSave key n).parts, qps := (s.chargeSave key n).qps } :=
  s.chargeEngine_only ..

/-- A save counts its cycles in the account of the launch's partition (R293, R296). -/
theorem State.chargeSave_acct {l : Launch} (hl : s.launch key = some l) {p : Part} (hp : oget s.parts l.part = some p) :
    ∃ p', oget (s.chargeSave key n).parts l.part = some p' ∧ p'.acctCore = p.acctCore + 12 * ceilDiv n 640 := by
  unfold chargeSave chargeEngine
  rw [hl]
  refine ⟨_, oget_oupd_self hp _, ?_⟩
  dsimp only
  split <;> rfl

end

theorem foldl_resetCtx_only (c : Nat) (xs : List Nat) (s : State) : xs.foldl (fun s x => s.setCtx c x Ctx.reset) s =
    { s with ctxs := (xs.foldl (fun s x => s.setCtx c x Ctx.reset) s).ctxs } := by
  induction xs generalizing s with
  | nil => rfl
  | cons x xs ih =>
    rw [List.foldl_cons, ih]
    rfl

/-- The core once its contexts `xs`, of launch `b`, are saved and its look-aside state is empty. -/
def Core.cleared (k : Core) (v : Saved) : Core :=
  { k with saved := some v, stop := none, frozen := [], lmq := [], smq := [], mq := [], drains := [], lrun := none, lmm := [], tail := [],
           icache := [] }

/-- The state in which a core has been saved, before it passes to the latency-critical launch. -/
def State.setAside (s : State) (c : Nat) (v : Saved) : State :=
  let s := (s.core c).frozen.foldl (fun s x => s.setCtx c x Ctx.reset) s
  let s : State := { s with tiles := s.tiles.filter (fun (i, _) => !(decide (i / 64 = c))) }
  s.updCore c (fun k => k.cleared v)

theorem preemptSaveDone_eq {c key bk : Nat} {s : State} {l b : Launch} (hst : (s.core c).stop = some key) (hl : s.launch key = some l)
    (hb : s.coreHolder c = some (bk, b)) (hd : (s.core c).drain = none) (hw : (s.core c).writing = []) :
    let n := s.saveBytes c b (s.core c).frozen
    preemptSaveDone c s = ((s.setAside c (s.saved c b (s.core c).frozen n)).giveCoreTo c key l 0).chargeSave key n := by
  have hq : (s.core c).quiescent = true := by
    unfold Core.quiescent
    rw [hd, hw]
    rfl
  unfold preemptSaveDone
  simp only [hst, hl, hb, hq, Bool.not_true, Bool.false_eq_true, if_false]
  rfl

/-- A set-aside core: its own state apart, and contexts and tiles, nothing changed. -/
theorem State.setAside_spec (s : State) (c : Nat) (v : Saved) : (s.setAside c v).core c = (s.core c).cleared v ∧
    (s.setAside c v).launches = s.launches ∧ (s.setAside c v).parts = s.parts := by
  unfold setAside
  dsimp only
  rw [State.core_updCore, foldl_resetCtx_only]
  exact ⟨rfl, rfl, rfl⟩

/-! ### The contexts are given back (R296) -/

/-- A state but for its semaphores. -/
def State.sansSems (s : State) : State := { s with sems := [] }

theorem foldl_rejoin_only (c : Nat) (xs : List (Nat × Ctx)) (s : State) : (xs.foldl (fun s (x, _) => s.rejoin c x) s).sansSems = s.sansSems := by
  refine foldl_keeps State.sansSems _ (fun u w => ?_) xs s
  show (u.rejoin c w.1).sansSems = u.sansSems
  unfold State.rejoin
  split <;> rfl

theorem foldl_setCtxs_only (c : Nat) (ws : List (Nat × Ctx)) (s : State) : ws.foldl (fun s (x, t) => s.setCtx c x t) s =
    { s with ctxs := (ws.foldl (fun s (x, t) => s.setCtx c x t) s).ctxs } := by
  induction ws generalizing s with
  | nil => rfl
  | cons w ws ih =>
    rw [List.foldl_cons, ih]
    rfl

theorem foldl_setCtxs_ne (c x : Nat) (ws : List (Nat × Ctx)) (s : State) (h : ∀ w ∈ ws, w.1 ≠ x) :
    (ws.foldl (fun s (x, t) => s.setCtx c x t) s).ctx c x = s.ctx c x := by
  induction ws generalizing s with
  | nil => rfl
  | cons w ws ih =>
    rw [List.foldl_cons, ih _ fun v hv => h v (List.mem_cons_of_mem _ hv)]
    have hne := h w List.mem_cons_self
    exact (tget_tput ..).trans (if_neg (by omega))

theorem foldl_setCtxs_mem (c : Nat) (ws : List (Nat × Ctx)) (s : State) (hd : ws.Pairwise (fun a b => a.1 ≠ b.1)) :
    ∀ w ∈ ws, (ws.foldl (fun s (x, t) => s.setCtx c x t) s).ctx c w.1 = w.2 := by
  induction ws generalizing s with
  | nil => exact fun _ h => absurd h List.not_mem_nil
  | cons v ws ih =>
    rw [List.pairwise_cons] at hd
    intro w hw
    rw [List.foldl_cons]
    rcases List.mem_cons.mp hw with rfl | hw
    · rw [foldl_setCtxs_ne c w.1 ws _ fun u hu => (hd.1 u hu).symm]
      exact State.ctx_setCtx ..
    · exact ih _ hd.2 w hw

/-- What a write leaves in memory depends on the memory alone. -/
theorem write_mem_congr {s u : State} (h : s.mem = u.mem) (a : Nat) (bs : List Byte) : (s.write a bs).mem = (u.write a bs).mem := by
  unfold State.write
  split
  · exact h
  · exact congrArg (memPut · a bs) h

theorem foldl_write_mem_congr (b : Nat) (ws : List (Nat × List Byte)) {s u : State} (h : s.mem = u.mem) :
    (ws.foldl (fun s (a, bs) => s.write (b + a) bs) s).mem = (ws.foldl (fun (s : State) w => s.write (b + w.1) w.2) u).mem := by
  induction ws generalizing s u with
  | nil => exact h
  | cons w ws ih => exact ih (write_mem_congr h ..)

theorem foldl_write_ctxs (b : Nat) (ws : List (Nat × List Byte)) (s : State) :
    (ws.foldl (fun s (a, bs) => s.write (b + a) bs) s).ctxs = s.ctxs :=
  foldl_keeps State.ctxs _ (fun u (w : Nat × List Byte) => (congrArg State.ctxs (u.write_only (b + w.1) w.2) :)) ws s

/-- The core once what was saved of it is there again. -/
def Core.given (k : Core) (v : Saved) : Core :=
  { k with saved := none, victim := none, lmq := v.lmq, smq := v.smq, mq := v.mq, drains := v.drains, lrun := v.lrun, lmm := v.lmm, tail := v.tail,
           icache := [] }

theorem State.restored_spec (s : State) (c : Nat) (v : Saved) (hd : v.ctxs.Pairwise (fun a b => a.1 ≠ b.1)) :
    (∀ w ∈ v.ctxs, (s.restored c v).ctx c w.1 = w.2) ∧ (∃ k : Core, (s.restored c v).core c = k.given v) ∧
      (s.restored c v).mem = (v.spad.foldl (fun (u : State) w => u.write (spadSlot c + w.1) w.2) s).mem := by
  let back := v.ctxs.foldl (fun s (x, t) => s.setCtx c x t) s
  let placed : State := { back with tiles := v.tiles.foldl (fun t (i, x) => tput (fun _ => Tile.empty) t i x) back.tiles }
  let filled := v.spad.foldl (fun s (a, bs) => s.write (spadSlot c + a) bs) placed
  have hmem : placed.mem = s.mem := (congrArg State.mem (foldl_setCtxs_only c v.ctxs s) :)
  refine ⟨fun w hw => ?_, ⟨filled.core c, State.core_updCore ..⟩, foldl_write_mem_congr (spadSlot c) v.spad hmem⟩
  have hctx : (s.restored c v).ctxs = back.ctxs := foldl_write_ctxs (spadSlot c) v.spad placed
  rw [State.ctx_of_ctxs hctx]
  exact foldl_setCtxs_mem c v.ctxs s hd w hw

theorem preemptRestore_eq {c bk : Nat} {s : State} {v : Saved} (hc : ∀ y < 4, (s.ctx c y).launch = none) (hst : (s.core c).stop = none)
    (hsv : (s.core c).saved = some v) (hne : v.ctxs ≠ []) (hb : ∀ w ∈ v.ctxs, w.2.launch = some bk) :
    preemptRestore c s =
      let u := match s.launch bk with
        | some l => s.giveCore l.part c
        | none => s
      v.ctxs.foldl (fun s (x, _) => s.rejoin c x) (u.restored c v) := by
  obtain ⟨w, ws, hcons⟩ := List.exists_cons_of_ne_nil hne
  have hhead : ((v.ctxs.head?).bind (fun (_, t) => t.launch)).bind s.launch = s.launch bk := by
    rw [hcons]
    exact congrArg (Option.bind · s.launch) (hb w (by rw [hcons]; exact List.mem_cons_self))
  unfold preemptRestore
  simp only [State.releaseCore_vacant hc]
  split
  next h =>
    simp only [hst, Option.isSome_none, Bool.false_eq_true, or_false, List.any_eq_true, List.mem_range] at h
    obtain ⟨x, hx, hlc⟩ := h
    simp [hc x hx] at hlc
  next =>
    rw [hsv]
    dsimp only
    rw [hhead] <;> rfl

/-- Settles O31: a core is stopped, saved and passed on, and given back as it was; a hold at its limit is revoked. -/
theorem preemption : Obligations.Preemption := by
  unfold Obligations.Preemption
  refine ⟨⟨?_, ?_, ?_⟩, ?_⟩
  · intro c key bk s l b hl hb hbe hc hsh hst hsv hfr hlk xs u
    have heq := preempt_eq hl hb hbe hc hsh hst hsv hfr hlk
    refine ⟨fun hf => congrArg Host.Outcome.next (heq.trans ?_), fun hf => congrArg Host.Outcome.next (heq.trans ?_)⟩
    · exact if_neg (by rw [hf]; exact Bool.false_ne_true)
    · exact if_pos hf
  · intro c key bk s l b hst hl hb hd hw hoff h0 h4 n
    let v := s.saved c b (s.core c).frozen n
    let u := s.setAside c v
    obtain ⟨hcore, hlaunch, hparts⟩ := s.setAside_spec c v
    have hgive : u.giveCoreTo c key l 0 = _ := State.giveCoreTo_eq (by rw [hcore]; exact hoff) key l 0
    have hcg : (u.giveCoreTo c key l 0).core c = (u.giveCore l.part c).core c := (congrArg (fun t : State => t.core c) hgive :)
    obtain ⟨a, p, cs, q, hk⟩ := u.core_giveCore l.part c
    let t := (u.giveCoreTo c key l 0).chargeSave key n
    have htc : t.core c = { (s.core c).cleared v with active := a, pending := p, commits := cs, part := q } :=
      (congrArg (fun t : State => t.core c) (State.chargeSave_only ..)).trans (hcg.trans (hk.trans (by rw [hcore])))
    have htx : t.ctx c 0 = Ctx.give key l c 0 := by
      refine (congrArg (fun t : State => t.ctx c 0) (State.chargeSave_only ..)).trans ?_
      refine (congrArg (fun t : State => t.ctx c 0) hgive).trans ?_
      refine (tget_foldl_setCtx u c 0 l.e.ctxs (Ctx.give key l c) (4 * c + 0)).trans ?_
      rw [if_pos (by omega), Nat.sub_self]
    refine ⟨t, v, congrArg Host.Outcome.next (preemptSaveDone_eq hst hl hb hd hw), ?_⟩
    rw [htc, htx]
    refine ⟨rfl, rfl, rfl, rfl, rfl, rfl, rfl, rfl, rfl, rfl, rfl, rfl, rfl, rfl, rfl, rfl, rfl, rfl, fun y hy => ?_⟩
    have hlg : (u.giveCoreTo c key l 0).launch key = some { l with engines := l.engines ++ [c] } :=
      (congrArg (fun t : State => t.launch key) hgive).trans (oget_oupd_self ((congrArg (oget · key) hlaunch).trans hl) _)
    have hpg : oget (u.giveCoreTo c key l 0).parts l.part = some y :=
      (congrArg (fun t : State => oget t.parts l.part) hgive).trans ((congrArg (oget · l.part) hparts).trans hy)
    exact State.chargeSave_acct _ key n hlg hpg
  · intro c bk s v hc hst hsv hne hb hd u
    have heq := preemptRestore_eq hc hst hsv hne hb
    obtain ⟨hctx, ⟨k, hcore⟩, hmem⟩ := State.restored_spec u c v hd
    have honly := foldl_rejoin_only c v.ctxs (u.restored c v)
    refine ⟨v.ctxs.foldl (fun s (x, _) => s.rejoin c x) (u.restored c v), congrArg Host.Outcome.next heq, ?_⟩
    have hback := congrArg (fun w : State => w.core c) honly
    refine ⟨fun w hw => (congrArg (fun t : State => t.ctx c w.1) honly).trans (hctx w hw), ?_⟩
    rw [show (v.ctxs.foldl (fun s (x, _) => s.rejoin c x) (u.restored c v)).core c = k.given v from hback.trans hcore]
    exact ⟨rfl, rfl, rfl, rfl, rfl, rfl, rfl, rfl, rfl, (congrArg State.mem honly).trans hmem⟩
  · intro die i s h l hh
    constructor
    · intro ht
      refine congrArg Host.Outcome.next ?_
      unfold holdRevoke
      simp only [hh, ht, if_true]
    · intro ht hl hstep hfit
      have hadd : (s.setSem die i { s.sem die i with hold := none }).semAdd die i h.n = some ((s.setSem die i { s.sem die i with hold := none }).setSem
          die i { s.sem die i with hold := none, value := BitVec.ofNat 32 ((s.sem die i).value.toNat + h.n) }) := by
        unfold State.semAdd
        rw [State.sem_setSem]
        exact if_pos hfit
      refine ⟨fault1 0xA 0 (syncWord die i + 2 ^ 32 * h.n), rfl, congrArg Host.Outcome.next ?_⟩
      unfold holdRevoke
      simp only [hh, Nat.not_lt.mpr ht, if_false, hl, hadd, hstep, Option.isSome_none, Bool.false_eq_true]
      rfl

end Sys2Proof.Machine
end

section
/-!
A launch starts and completes (R62, R70, R288, R289).
-/

namespace Sys2Proof.Machine

/-! ### What the engines of a launch leave alone when they leave it -/

/-- The table entry of a launch without what its engines change of it. -/
def Launch.body (l : Launch) : Launch := { l with engine := 0, engines := [], served := [], posns := [] }

/-- A queue pair without its accounts and its virtual time. -/
def Qp.body (x : Qp) : Qp := { x with vt := 0, acctCore := 0, acctFox := 0, acctPrim := 0 }

/-- The state without engines, launches, partitions and queue pairs. -/
def State.sansEngines (s : State) : State := { s with ctxs := [], cores := [], foxes := [], prims := [], launches := [], parts := [], qps := [] }

/-- What engines that leave launch `key` do not change. -/
def State.fixed (key : Nat) (s : State) : State × Tab Launch × Option Launch × (Nat → Option Qp) :=
  (s.sansEngines, tdrop s.launches key, (s.launch key).map Launch.body, fun q => (s.qp q).map Qp.body)

theorem tdrop_tins {α : Type} (t : Tab α) (k : Nat) (v : α) : tdrop (tins t k v) k = tdrop t k := by
  induction t with
  | nil => simp [tins, tdrop]
  | cons p t ih =>
    unfold tins
    split
    next h => subst h; simp [tdrop]
    next h =>
      split
      · simp [tdrop]
      · rw [show tdrop ((p.1, p.2) :: tins t k v) k = _ from List.filter_cons .., show tdrop (p :: t) k = _ from List.filter_cons ..]
        rw [show List.filter (fun p => p.1 != k) (tins t k v) = _ from ih]
        rfl

theorem tdrop_oupd {α : Type} (t : Tab α) (k : Nat) (f : α → α) : tdrop (oupd t k f) k = tdrop t k := by
  unfold oupd
  split
  · rfl
  · exact tdrop_tins ..

theorem map_oget_oupd {α β : Type} (t : Tab α) (k : Nat) (f : α → α) (g : α → β) (h : ∀ v, g (f v) = g v) (j : Nat) :
    (oget (oupd t k f) j).map g = (oget t j).map g := by
  by_cases hj : j = k
  · subst hj
    cases ho : oget t j with
    | none => rw [oupd_none ho, ho]
    | some v => rw [oget_oupd_self ho, Option.map_some, Option.map_some, h]
  · rw [oget_oupd_ne _ _ hj]

section
variable (key : Nat)

theorem updLaunch_fixed (s : State) (f : Launch → Launch) (h : ∀ l, (f l).body = l.body) : (s.updLaunch key f).fixed key = s.fixed key := by
  unfold State.fixed
  rw [show (s.updLaunch key f).launches = oupd s.launches key f from rfl, tdrop_oupd,
    show (s.updLaunch key f).launch key = oget (oupd s.launches key f) key from rfl, map_oget_oupd _ _ _ _ h]
  rfl

theorem chargeEngine_fixed (s : State) (k : EngineKind) (n : Nat) : (s.chargeEngine k key n).fixed key = s.fixed key := by
  unfold State.chargeEngine
  split
  · rfl
  next q _ =>
    refine Eq.trans ?_ (updLaunch_fixed key s (fun q => { q with engine := q.engine + n }) fun _ => rfl)
    unfold State.fixed
    refine Prod.ext rfl (Prod.ext rfl (Prod.ext rfl (funext fun j => map_oget_oupd _ _ _ _ (fun v => ?_) j)))
    cases k <;> dsimp only <;> split <;> rfl

theorem quitCore_fixed (s : State) (c : Nat) : (s.quitCore c key).fixed key = s.fixed key := by
  have hrest : (s.chargeRestore c key).fixed key = s.fixed key := by
    unfold State.chargeRestore
    split
    · split
      · rfl
      · exact chargeEngine_fixed ..
    · rfl
  unfold State.quitCore
  dsimp only
  rw [updLaunch_fixed key _ (fun l => { l with engines := l.engines.filter (· ≠ c) }) fun _ => rfl]
  exact (foldl_keeps (State.fixed key) (fun s x => s.updCtx c x (fun k => { k with launch := none })) (fun _ _ => rfl)
    ((s.chargeRestore c key).ctxsOf c key) (s.chargeRestore c key)).trans hrest

theorem leaveCore_fixed (s : State) (c : Nat) : (s.leaveCore c key).fixed key = s.fixed key := by
  exact (updLaunch_fixed key (s.quitCore c key) (fun l => { l with served := c :: l.served }) fun _ => rfl).trans (quitCore_fixed ..)

theorem leaveUnit_fixed (s : State) (k : EngineKind) (n : Nat) : (s.leaveUnit k n key true).fixed key = s.fixed key := by
  unfold State.leaveUnit
  dsimp only
  rw [updLaunch_fixed key _ (fun l => { l with
    engines := l.engines.filter (· ≠ n), served := _, posns := _ }) fun _ => rfl]
  cases k <;> dsimp only <;> split <;> rfl

theorem leaveEngines_fixed (s : State) (l : Launch) : (s.leaveEngines key l).fixed key = s.fixed key := by
  unfold State.leaveEngines
  refine foldl_keeps (State.fixed key) _ (fun u n => ?_) _ _
  split
  · exact leaveCore_fixed ..
  · exact leaveUnit_fixed ..

end

/-- A launch that is dropped takes nothing with it but its table entry and its engines. -/
theorem State.dropLaunch_spec {s : State} {key : Nat} {l : Launch} (h : s.launch key = some l) :
    (s.dropLaunch key).launches = tdrop s.launches key ∧ (s.dropLaunch key).sansEngines = s.sansEngines ∧
      ∀ q, ((s.dropLaunch key).qp q).map Qp.body = (s.qp q).map Qp.body := by
  have hfix := leaveEngines_fixed key s l
  unfold fixed at hfix
  simp only [Prod.mk.injEq] at hfix
  obtain ⟨h1, h2, _, h4⟩ := hfix
  unfold dropLaunch
  rw [h]
  exact ⟨h2, h1, fun q => congrFun h4 q⟩

/-! ### A launch completes (R62, R70, R289) -/

/-- The fault record of a launch is stored where its entry says (R65). -/
def State.storeRecord (s : State) (l : Launch) : State :=
  match l.record with
  | some (_, ws) => if l.e.faultAddr ≠ 0 ∧ s.permits l.part l.e.faultAddr 64 false true false then s.write l.e.faultAddr (wordsLe ws) else s
  | none => s

/-- The signal of a launch that completes (R62). -/
def State.signalEnd (s : State) (l : Launch) : State :=
  match l.e.sig with
  | some (d, i) => s.signalOr l.part d i 1
  | none => s

/-- A launch gives up its claims and the epochs it pinned; audits it skipped are counted. -/
def State.giveUp (s : State) (key : Nat) (l : Launch) : State :=
  let s := { s with claims := tmap (fun _ => Claim.reset) (fun _ v => { v with recs := v.recs.filter (fun r => r.launch ≠ key) }) s.claims }
  let s := l.pins.foldl (fun s (_, m) => s.unpin m) s
  let skipped := if l.aRate = 0 ∨ l.var then 0 else (l.skips.filter l.picked).length
  { s with health := { s.health with auditSkip := s.health.auditSkip + BitVec.ofNat 32 skipped } }

theorem State.retireLaunch_eq (s : State) (key : Nat) (l : Launch) :
    s.retireLaunch key l = (((s.storeRecord l).signalEnd l).giveUp key l).dropLaunch key := rfl

/-- The state without what a record, a signal, claims and epochs touch. -/
def State.sansRetired (s : State) : State :=
  { s with sems := [], mbxs := [], parts := [], mem := [], poison := [], regions := [], claims := [], maps := [], health := Health.reset }

section
variable (s : State) (key : Nat) (l : Launch)

theorem State.storeRecord_only : s.storeRecord l =
    { s with mem := (s.storeRecord l).mem, poison := (s.storeRecord l).poison, regions := (s.storeRecord l).regions } := by
  unfold storeRecord
  split
  · split
    · exact s.write_only ..
    · rfl
  · rfl

theorem State.signalEnd_only : s.signalEnd l =
    { s with sems := (s.signalEnd l).sems, parts := (s.signalEnd l).parts, mbxs := (s.signalEnd l).mbxs } := by
  unfold signalEnd
  split
  · exact s.signalOr_only ..
  · rfl

/-- The state without claims, maps and health. -/
def State.sansClaims (s : State) : State := { s with claims := [], maps := [], health := Health.reset }

theorem State.giveUp_only : (s.giveUp key l).sansClaims = s.sansClaims := by
  unfold giveUp
  exact foldl_keeps sansClaims (fun s (w : Nat × Nat) => s.unpin w.2) (fun _ _ => rfl) l.pins
    { s with claims := tmap (fun _ => Claim.reset) (fun _ v => { v with recs := v.recs.filter (fun r => r.launch ≠ key) }) s.claims }

theorem State.retire_only : (((s.storeRecord l).signalEnd l).giveUp key l).sansRetired = s.sansRetired :=
  calc (((s.storeRecord l).signalEnd l).giveUp key l).sansRetired
    _ = ((s.storeRecord l).signalEnd l).sansRetired := (congrArg sansRetired (giveUp_only _ key l) :)
    _ = (s.storeRecord l).sansRetired := (congrArg sansRetired ((s.storeRecord l).signalEnd_only l) :)
    _ = s.sansRetired := (congrArg sansRetired (s.storeRecord_only l) :)

theorem State.retire_mem : (((s.storeRecord l).signalEnd l).giveUp key l).mem = (s.storeRecord l).mem :=
  (congrArg State.mem (giveUp_only _ key l) :).trans (congrArg State.mem ((s.storeRecord l).signalEnd_only l) :)

theorem State.retire_sems : (((s.storeRecord l).signalEnd l).giveUp key l).sems = ((s.storeRecord l).signalEnd l).sems :=
  (congrArg State.sems (giveUp_only _ key l) :)

end

/-- The semaphores after a signal: the value rises where the sum fits. -/
theorem State.signalOr_sems (s : State) (p d i n : Nat) : (s.signalOr p d i n).sems =
    if (s.sem d i).value.toNat + n < 2 ^ 32 then
      (s.setSem d i { s.sem d i with value := BitVec.ofNat 32 ((s.sem d i).value.toNat + n) }).sems else s.sems := by
  unfold signalOr semAdd
  dsimp only
  by_cases h : (s.sem d i).value.toNat + n < 2 ^ 32
  · simp only [h, if_true]
  · simp only [h, if_false]
    rw [s.semLost_only]

/-- What a signal leaves of the semaphores depends on them alone. -/
theorem signalOr_sems_congr {s u : State} (h : s.sems = u.sems) (p d i n : Nat) : (s.signalOr p d i n).sems = (u.signalOr p d i n).sems := by
  rw [s.signalOr_sems, u.signalOr_sems]
  unfold State.setSem State.sem
  rw [h]

/-! ### A launch of the host completes -/

section
variable {s u : State} {l l1 : Launch} (hs : u.sansEngines = s.sansEngines) (hb : l1.body = l.body)
include hs hb

/-- What a record leaves of memory depends on neither engines nor accounts. -/
theorem storeRecord_mem_congr : (u.storeRecord l1).mem = (s.storeRecord l).mem := by
  have hmem : u.mem = s.mem := (congrArg State.mem hs :)
  unfold State.storeRecord
  rw [show l1.record = l.record from (congrArg Launch.record hb :), show l1.e = l.e from (congrArg Launch.e hb :),
    show l1.part = l.part from (congrArg Launch.part hb :)]
  split
  · rw [show u.permits l.part l.e.faultAddr 64 false true false = s.permits l.part l.e.faultAddr 64 false true false from
      (congrArg (fun t : State => t.permits l.part l.e.faultAddr 64 false true false) hs :)]
    split
    · exact write_mem_congr hmem ..
    · exact hmem
  · exact hmem

/-- What a signal leaves of the semaphores depends on neither engines nor accounts. -/
theorem signalEnd_sems_congr : ((u.storeRecord l1).signalEnd l1).sems = (s.signalEnd l).sems := by
  have hsems : (u.storeRecord l1).sems = s.sems := (congrArg State.sems (u.storeRecord_only l1) :).trans (congrArg State.sems hs :)
  unfold State.signalEnd
  rw [show l1.e = l.e from (congrArg Launch.e hb :), show l1.part = l.part from (congrArg Launch.part hb :)]
  split
  · exact signalOr_sems_congr hsems ..
  · exact hsems

end

/-- The interrupt that the entry of a launch asked for. -/
def State.launchIrq (s : State) (l : Launch) : Bool := match (s.qp l.qp).bind (fun x => x.entries.find? (fun e => e.at_ = l.at_)) with
  | some e => e.irq
  | none => false

/-- A retired launch leaves the launches, its queue pair as it was, and memory and semaphores as its record and signal say. -/
theorem State.retireLaunch_spec {s : State} {key : Nat} {l : Launch} (hl : s.launch key = some l) :
    (s.retireLaunch key l).launches = tdrop s.launches key ∧ (s.retireLaunch key l).bounds = s.bounds ∧ (s.retireLaunch key l).mem = (s.storeRecord l).mem ∧
    (s.retireLaunch key l).sems = ((s.storeRecord l).signalEnd l).sems ∧ ∀ q, ((s.retireLaunch key l).qp q).map Qp.body = (s.qp q).map Qp.body := by
  have hret : (((s.storeRecord l).signalEnd l).giveUp key l).sansRetired = s.sansRetired := s.retire_only key l
  have hheld : (((s.storeRecord l).signalEnd l).giveUp key l).launch key = some l := (congrArg (fun t : State => t.launch key) hret :).trans hl
  obtain ⟨hdrop, honly, hqps⟩ := State.dropLaunch_spec hheld
  exact ⟨hdrop.trans (congrArg (fun t : State => tdrop t.launches key) hret :), (congrArg State.bounds honly :).trans (congrArg State.bounds hret :),
    (congrArg State.mem honly :).trans (s.retire_mem key l), (congrArg State.sems honly :).trans (s.retire_sems key l),
    fun q => (hqps q).trans (congrArg (fun t : State => (t.qp q).map Qp.body) hret :)⟩

/-- A launch that has no engine any more, and whose entry waits for no boundary, ends its entry. -/
theorem launchComplete_ends {key : Nat} {s u : State} {l l1 : Launch} (hl : s.launch key = some l) (hdone : s.launchDone key l = true)
    (hu : s.leaveEngines key l = u) (hl1 : u.launch key = some l1) (hstep : l1.step = none)
    (hb : ((u.retireLaunch key l1).endEntry l1.qp l1.at_ (l1.due (u.rungUp l1).isSome ((u.retireLaunch key l1).launchIrq l1))).bounds = []) :
    launchComplete key s = (u.retireLaunch key l1).endEntry l1.qp l1.at_ (l1.due (u.rungUp l1).isSome ((u.retireLaunch key l1).launchIrq l1)) := by
  have hset : ∀ v : State, v.bounds = [] → v.settleBounds l1.part = v := fun v hv => if_pos (.inr (.inr (by rw [hv]; rfl)))
  unfold launchComplete
  simp only [hl, hdone, Bool.not_true, Bool.false_eq_true, if_false]
  rw [hu, hl1]
  simp only [Option.getD_some]
  rw [hstep]
  dsimp only
  exact hset _ hb

/-- A launch of the host that is done completes: its launch goes, its record and signal are out, and its entry ends with its counts. -/
theorem launchComplete_host {key : Nat} {s : State} {l : Launch} {x : Qp} (hl : s.launch key = some l) (hdone : s.launchDone key l = true)
    (hstep : l.step = none) (hbounds : s.bounds = []) (hx : s.qp l.qp = some x) (hd : x.destroy = none) (hc : x.discard = false) :
    ∃ (d : QpDue) (x1 : Qp), x1.body = x.body ∧ d.status = 0 ∧ d.tag = l.tag ∧ d.ty = 1 ∧ d.widen = l.widen ∧ d.emptyRow = l.emptyRow ∧
      d.faults = (if l.killed then l.faulted.length + (l.e.total - l.ended) else l.faulted.length) ∧
      (launchComplete key s).launches = tdrop s.launches key ∧ (launchComplete key s).mem = (s.storeRecord l).mem ∧
      (launchComplete key s).sems = (s.signalEnd l).sems ∧ (launchComplete key s).qp l.qp = some (x1.ending l.at_ d) := by
  have hfix := leaveEngines_fixed key s l
  unfold State.fixed at hfix
  simp only [Prod.mk.injEq] at hfix
  obtain ⟨hsans, hdrop, hbody, hqps⟩ := hfix
  generalize hu : s.leaveEngines key l = u at hsans hdrop hbody hqps
  obtain ⟨l1, hl1, hb⟩ : ∃ l1, u.launch key = some l1 ∧ l1.body = l.body := by
    rw [hl] at hbody
    exact Option.map_eq_some_iff.mp hbody
  obtain ⟨hlaunches, hbd, hmem, hsems, hqp⟩ := State.retireLaunch_spec hl1
  have hq : l1.qp = l.qp := (congrArg Launch.qp hb :)
  have hat : l1.at_ = l.at_ := (congrArg Launch.at_ hb :)
  obtain ⟨x1, hx1, hxb⟩ : ∃ x1, (u.retireLaunch key l1).qp l1.qp = some x1 ∧ x1.body = x.body := by
    have h := (hqp l.qp).trans (congrFun hqps l.qp)
    rw [hx] at h
    rw [hq]
    exact Option.map_eq_some_iff.mp h
  have hd1 : x1.destroy = none := (congrArg Qp.destroy hxb :).trans hd
  have hc1 : x1.discard = false := (congrArg Qp.discard hxb :).trans hc
  have hend := State.endEntry_eq hx1 hd1 hc1 l1.at_ (l1.due (u.rungUp l1).isSome ((u.retireLaunch key l1).launchIrq l1))
  have heq := launchComplete_ends hl hdone hu hl1 ((congrArg Launch.step hb :).trans hstep)
    ((congrArg State.bounds hend :).trans (hbd.trans ((congrArg State.bounds hsans :).trans hbounds)))
  have hqe := State.qp_endEntry hx1 hd1 hc1 l1.at_ (l1.due (u.rungUp l1).isSome ((u.retireLaunch key l1).launchIrq l1))
  rw [heq]
  refine ⟨l1.due (u.rungUp l1).isSome ((u.retireLaunch key l1).launchIrq l1), x1, hxb, rfl, (congrArg Launch.tag hb :), rfl, (congrArg Launch.widen hb :), (congrArg Launch.emptyRow hb :),
    (congrArg Launch.faultCount hb :), (congrArg State.launches hend :).trans (hlaunches.trans hdrop),
    (congrArg State.mem hend :).trans (hmem.trans (storeRecord_mem_congr hsans hb)),
    (congrArg State.sems hend :).trans (hsems.trans (signalEnd_sems_congr hsans hb)), ?_⟩
  rw [← hq, ← hat]
  exact hqe

/-! ### A launch starts -/

/-- The entry of a launch counts as started, unless it is a step's. -/
def Qp.markStarted (x : Qp) (l : Launch) : Qp :=
  { x with entries := x.entries.map (fun e => if e.at_ = l.at_ ∧ l.step.isNone then { e with started := true } else e) }

section
variable {key : Nat} {s : State} {l : Launch} (hl : s.launch key = some l) (hst : l.started = false) (hen : l.engines ≠ []) (hop : s.launchOpen l = true)
  (hho : s.holdsLaunches l.part = false) (hru : s.rungHolds l = false)
include hl hst hen hop hho hru

/-- A launch whose wait is met and that has an engine starts with its descriptor block. -/
theorem launchStart_opens (hdr : dregBad l.e.winu (s.dregWords l.e.dreg) = false) : launchStart key s =
    ((if l.e.dist then s.setClaim l.e.claimDie l.e.claimIdx Claim.reset else s).updLaunch key
      (fun l' => { l' with started := true, dregs := s.dregWords l.e.dreg })).updQp l.qp (·.markStarted l) := by
  have hgo : ¬(l.started = true ∨ l.engines = [] ∨ (!s.launchOpen l) = true ∨ s.holdsLaunches l.part = true ∨ s.rungHolds l = true) := by
    simp [hst, hen, hop, hho, hru]
  unfold launchStart
  simp only [hl]
  rw [if_neg hgo, hdr]
  rfl

/-- A bad word of its descriptor block ends a launch of the host. -/
theorem launchStart_badBlock (hdr : dregBad l.e.winu (s.dregWords l.e.dreg) = true) (hs : l.step = none) {x1 : Qp} {e : QpEntry}
    (hx1 : (s.dropLaunch key).qp l.qp = some x1) (he : x1.entries.find? (fun e => e.at_ = l.at_) = some e) :
    launchStart key s = (s.dropLaunch key).endEntry l.qp l.at_ { e.dueWith 0x11 with id := l.tag } := by
  have hgo : ¬(l.started = true ∨ l.engines = [] ∨ (!s.launchOpen l) = true ∨ s.holdsLaunches l.part = true ∨ s.rungHolds l = true) := by
    simp [hst, hen, hop, hho, hru]
  unfold launchStart
  simp only [hl]
  rw [if_neg hgo, hdr]
  simp only [if_true, hs, hx1, he]

end

/-- Settles O30: a done launch retires; a launch with its wait met and an engine starts, or ends with ST_BAD_PARAM. -/
theorem launchLifetime : Obligations.LaunchLifetime := by
  unfold Obligations.LaunchLifetime
  refine ⟨?_, ?_, ?_⟩
  · intro key s l x hl hdone hstep hbounds hx hd hc
    obtain ⟨d, x1, hxb, hstatus, htag, hty, hwiden, hempty, hfaults, hlaunches, hmem, hsems, hqp⟩ :=
      launchComplete_host hl hdone hstep hbounds hx hd hc
    refine ⟨_, rfl, hlaunches, fun hr => hmem.trans ?_, fun i ws hr => hmem.trans ?_, fun hs => hsems.trans ?_, fun die i hs => hsems.trans ?_, d, hstatus,
      hfaults, hwiden, hempty, htag, hty, _, hqp, (congrArg (fun x : Qp => x.entries.filter (fun e => e.at_ ≠ l.at_)) hxb :),
      (congrArg (fun x : Qp => x.due ++ [d]) hxb :), (congrArg Qp.fetch hxb :)⟩
    · unfold State.storeRecord
      rw [hr]
    · unfold State.storeRecord
      rw [hr]
    · unfold State.signalEnd
      rw [hs]
    · unfold State.signalEnd
      rw [hs]
  · intro key s l hl hst hen hop hho hru hdr
    have hv : ∀ v, v = (if l.e.dist then s.setClaim l.e.claimDie l.e.claimIdx Claim.reset else s) →
        v.launches = s.launches ∧ v.mem = s.mem ∧ v.ctxs = s.ctxs ∧ v.qps = s.qps := by
      rintro v rfl
      split <;> exact ⟨rfl, rfl, rfl, rfl⟩
    obtain ⟨hlaunches, hmem, hctxs, hqps⟩ := hv _ rfl
    refine ⟨_, congrArg Host.Outcome.next (launchStart_opens hl hst hen hop hho hru hdr), ?_, hmem, hctxs, rfl,
      fun hs x hx => ⟨x.markStarted l, oget_oupd_self ((congrArg (oget · l.qp) hqps).trans hx) _, rfl, fun e he => ?_⟩⟩
    · exact (congrArg (fun ls => oupd ls key (fun l' : Launch => { l' with started := true, dregs := s.dregWords l.e.dreg })) hlaunches :).trans
        (oupd_some hl _)
    · refine List.mem_map.mpr ⟨e, he, ?_⟩
      rw [hs]
      simp only [Option.isNone_none, and_true]
  · intro key s l x e hl hst hen hop hho hru hdr hs hx he hd hc
    obtain ⟨hdrop, honly, hqps⟩ := State.dropLaunch_spec hl
    obtain ⟨x1, hx1, hxb⟩ : ∃ x1, (s.dropLaunch key).qp l.qp = some x1 ∧ x1.body = x.body := by
      have h := hqps l.qp
      rw [hx] at h
      exact Option.map_eq_some_iff.mp h
    have hd1 : x1.destroy = none := (congrArg Qp.destroy hxb :).trans hd
    have hc1 : x1.discard = false := (congrArg Qp.discard hxb :).trans hc
    have hent : x1.entries = x.entries := (congrArg Qp.entries hxb :)
    have hend := State.endEntry_eq hx1 hd1 hc1 l.at_ { e.dueWith 0x11 with id := l.tag }
    have heq := launchStart_badBlock hl hst hen hop hho hru hdr hs hx1 (hent ▸ he)
    exact ⟨_, congrArg Host.Outcome.next heq, (congrArg State.launches hend :).trans hdrop, (congrArg State.mem hend :).trans (congrArg State.mem honly :),
      { e.dueWith 0x11 with id := l.tag }, x1.ending l.at_ { e.dueWith 0x11 with id := l.tag }, rfl, rfl, State.qp_endEntry hx1 hd1 hc1 ..,
      (congrArg (fun x : Qp => x.entries.filter (fun e => e.at_ ≠ l.at_)) hxb :),
      (congrArg (fun x : Qp => x.due ++ [({ e.dueWith 0x11 with id := l.tag } : QpDue)]) hxb :)⟩

end Sys2Proof.Machine
end

section
/-!
Foxglove units: items, pins, pages, blocks and outputs (R132, R136, R141, R152, R154).
-/

namespace Sys2Proof.Machine

/-! ### Words read from memory -/

theorem ofLe_lt (bs : List Byte) : ofLe bs < 2 ^ (8 * bs.length) := by
  induction bs with
  | nil => exact Nat.one_pos
  | cons b bs ih =>
    have hb := b.isLt
    have hpow : 2 ^ (8 * (b :: bs).length) = 256 * 2 ^ (8 * bs.length) := by
      rw [List.length_cons, Nat.mul_add, Nat.pow_add]
      omega
    rw [show ofLe (b :: bs) = b.toNat + 256 * ofLe bs from rfl, hpow]
    omega

theorem State.seenLe_lt (s : State) (a n : Nat) : s.seenLe a n < 2 ^ (8 * n) := by
  have h := ofLe_lt (s.seenBytes a n)
  rwa [show (s.seenBytes a n).length = n by simp [State.seenBytes]] at h

/-- A word that was read and kept in a register of 64 bits. -/
theorem State.word_toNat (s : State) (a j : Nat) : (BitVec.ofNat 64 (s.word a j)).toNat = s.word a j := by
  rw [BitVec.toNat_ofNat]
  exact Nat.mod_eq_of_lt (s.seenLe_lt (a + 8 * j) 8)

/-! ### Launches, units and engines of a changed state -/

section
variable {s : State} {key : Nat} {l : Launch}

theorem State.launch_chargeEngine (h : s.launch key = some l) (k : EngineKind) (n : Nat) :
    (s.chargeEngine k key n).launch key = some { l with engine := l.engine + n } := by
  unfold chargeEngine
  rw [h]
  exact oget_oupd_self h _

@[simp] theorem State.fox_updFox (s : State) (u : Nat) (f : Fox → Fox) : (s.updFox u f).fox u = f (s.fox u) := fox_setFox ..
@[simp] theorem State.prim_updPrim (s : State) (e : Nat) (f : Prim → Prim) : (s.updPrim e f).prim e = f (s.prim e) := prim_setPrim ..

end

/-- Charging a regulator leaves the semaphores of a partition where they are. -/
theorem State.semIn_charge (s : State) (p j n q i : Nat) : (s.charge p j n).semIn q i = s.semIn q i := by
  have hopt : ∀ t : State, t.semIn q i = ((oget t.parts q).map (fun v => decide (v.semBase ≤ i ∧ i < v.semBase + v.semCount))).getD false := by
    intro t
    unfold semIn
    cases oget t.parts q with
    | none => rfl
    | some v => rfl
  rw [hopt, hopt]
  refine congrArg (Option.getD · false) (map_oget_oupd _ _ _ _ (fun v => ?_) q)
  dsimp only
  split <;> rfl

/-! ### An item starts (R132) -/

/-- Item `n` of launch `key` as a unit reads it at `a`. -/
def State.readItem (s : State) (key n a : Nat) : FoxItem :=
  { launch := key, idx := n, words := (List.range 8).map (fun j => BitVec.ofNat 64 (s.word a j)), phase := 0, lockSince := 0, map := 0, lens := [],
    visit := [], h := 0, todo := [], blk := 0, pages := [], rows := [], outs := [], emptyRows := 0, since := s.time, poison := s.poisoned a 64 }

theorem readItem_w (s : State) (key n a j : Nat) (hj : j < 8) : (s.readItem key n a).w j = s.word a j := by
  unfold FoxItem.w State.readItem
  dsimp only
  rw [List.getD_eq_getElem _ _ (by simpa using hj), List.getElem_map, List.getElem_range]
  exact s.word_toNat a j

section
variable {u key : Nat} {s : State} {l : Launch}

theorem foxItemStart_ok (hf : (s.fox u).launch = some key) (hl : s.launch key = some l) (hi : (s.fox u).item = none) (hst : l.started = true)
    (hk : l.killed = false) (ha : l.again = []) (hp : (s.fox u).power = .run) (he : s.engineOf l.part .fox u = true) (hr : s.regOpen l.part 0 = true)
    {n a : Nat} (hn : n = (s.fox u).k * (maskList 32 l.e.mask).length + (maskList 32 l.e.mask).idxOf u) (haddr : a = l.e.arg + 64 * n) (hlt : n < l.e.e0)
    (hm : s.permits l.part a 64 true false false = true) (hw : bit (s.word a 6) 13 = true → s.semIn l.part (bits (s.word a 6) 0 12) = true) :
    foxItemStart u s = ((s.updLaunch key (fun l => { l with begun := l.begun + 1 })).updFox u (fun q =>
      { q with k := q.k + 1, item := some (s.readItem key n a) })).chargeLines l.part [(a, 64)] := by
  have hfl : s.foxLaunch u = some (key, l) := by
    unfold State.foxLaunch
    rw [hf]
    exact congrArg (Option.map _) hl
  have hgo : ¬((s.fox u).item.isSome = true ∨ (!l.started) = true ∨ l.killed = true ∨ l.again.contains (u, 0) = true ∨ (s.fox u).power ≠ .run ∨
      l.e.e0 ≤ n ∨ (!s.engineOf l.part .fox u) = true ∨ (!s.regOpen l.part 0) = true) := by
    simp [hi, hst, hk, ha, hp, he, hr, hlt]
  have hw6 := readItem_w s key n a 6 (by decide)
  subst hn
  subst haddr
  unfold foxItemStart
  simp only [hfl]
  rw [if_neg hgo]
  simp only [hm, if_true, Bool.not_true, Bool.false_eq_true, if_false]
  split
  next die k hsem =>
    have h : bit (s.word (l.e.arg + 64 * ((s.fox u).k * (maskList 32 l.e.mask).length + (maskList 32 l.e.mask).idxOf u)) 6) 13 = true ∧
        k = bits (s.word (l.e.arg + 64 * ((s.fox u).k * (maskList 32 l.e.mask).length + (maskList 32 l.e.mask).idxOf u)) 6) 0 12 := by
      rw [← hw6]
      have hs : (s.readItem key ((s.fox u).k * (maskList 32 l.e.mask).length + (maskList 32 l.e.mask).idxOf u) _).wsem = some (die, k) := hsem
      unfold FoxItem.wsem at hs
      split at hs
      next hb => exact ⟨hb, (congrArg Prod.snd (Option.some.inj hs)).symm⟩
      next => cases hs
    rw [if_pos]
    · rfl
    · rw [h.2]
      exact (State.semIn_charge ..).trans (hw h.1)
  next => rfl

end

/-! ### The epoch is pinned (R136, R154) -/

theorem FoxItem.w_lt (i : FoxItem) (n : Nat) : i.w n < 2 ^ 64 := (i.words.getD n 0).isLt

/-- The die and the number of the semaphore an item waits on. -/
theorem FoxItem.wsem_eq {i : FoxItem} {die k : Nat} (h : i.wsem = some (die, k)) : bit (i.w 6) 13 = true ∧ die = bits (i.w 6) 12 1 ∧ k = bits (i.w 6) 0 12 := by
  unfold FoxItem.wsem at h
  by_cases hb : bit (i.w 6) 13 = true
  · rw [if_pos hb, Option.some.injEq, Prod.mk.injEq] at h
    exact ⟨hb, h.1.symm, h.2.symm⟩
  · rw [if_neg hb] at h
    cases h

theorem FoxItem.ssem_eq {i : FoxItem} {die k : Nat} (h : i.ssem = some (die, k)) : bit (i.w 7) 13 = true ∧ die = bits (i.w 7) 12 1 ∧ k = bits (i.w 7) 0 12 := by
  unfold FoxItem.ssem at h
  by_cases hb : bit (i.w 7) 13 = true
  · rw [if_pos hb, Option.some.injEq, Prod.mk.injEq] at h
    exact ⟨hb, h.1.symm, h.2.symm⟩
  · rw [if_neg hb] at h
    cases h

section
variable {u id : Nat} {s : State} {i : FoxItem} {l : Launch} {e : MapE} {q : Seq}

/-- An item may go on to its pin: its wait is met, or it waits for the lock already. -/
def State.pinOpen (s : State) (i : FoxItem) : Prop :=
  i.phase = 1 ∨ i.phase = 0 ∧ (bit (i.w 6) 13 = true → i.w 6 / 2 ^ 32 ≤ (s.sem (bits (i.w 6) 12 1) (bits (i.w 6) 0 12)).value.toNat)

/-- What a unit does whose item may pin, once the map is known. -/
def State.pinMap (s : State) (u : Nat) (i : FoxItem) (l : Launch) (q : Seq) (id : Nat) (e : MapE) : State :=
  if e.lock then
    if i.phase = 0 then s.updFox u (fun f => { f with item := some { i with phase := 1, lockSince := s.time } }) else s
  else
    let waited := if i.phase = 1 then s.cyclesSince i.lockSince else 0
    let s := (s.pin id).updFox u (fun f => { f with pinWait := f.pinWait + BitVec.ofNat 64 waited })
    let i := { i with phase := 2, map := id, lens := q.lens }
    match s.foxCheck i l e.header with
    | .error f => s.foxFault u i f
    | .ok (visit, reads) =>
      let c := parseAcfg l.k.acfg
      let i := { i with visit := visit, todo := visit, rows := freshRows c.d,
                        poison := i.poison || reads.any (fun (a, n) => s.poisoned a n) }
      let i := if visit = [] then finishAll c (s.queryRows i (s.stream e.header i.qstream)) i.nh i else i
      ((s.chargeLines l.part reads).putItem u 0 i).updFox u (fun f => { f with skip := f.skip + BitVec.ofNat 64 (i.kbn - visit.length) })

theorem mapEpochPin_eq (hi : (s.fox u).item = some i) (hl : s.launch i.launch = some l) (ho : s.pinOpen i)
    (hq : tget (fun _ => Seq.free) s.seqs (bits (i.w 0) 0 16) = q) (hm : s.mapAt l.part q.map = some (id, e)) (hs : q.state ≠ 0)
    (hp : q.part = l.part) (hr : s.regOpen l.part 0 = true) : mapEpochPin u s = s.pinMap u i l q id e := by
  unfold mapEpochPin
  simp only [hi, hl]
  refine (if_neg ?_).trans ?_
  · rintro (h | ⟨h, hmet⟩)
    · rcases ho with ho | ⟨ho, _⟩
      · omega
      · omega
    · have hwait := (ho.resolve_left (by omega)).2
      split at hmet
      next die k hw =>
        obtain ⟨hb, rfl, rfl⟩ := FoxItem.wsem_eq hw
        have hbits : bits (i.w 6) 32 32 = i.w 6 / 2 ^ 32 := by
          have := i.w_lt 6
          rw [bits_eq]
          omega
        rw [hbits, decide_eq_true (hwait hb)] at hmet
        cases hmet
      next => cases hmet
  · rw [hq, hm]
    dsimp only
    rw [if_neg fun h => h.elim hs fun hn => hn hp, if_neg (by simp [hr])]
    rfl

@[simp] theorem State.updFox_mem (s : State) (u : Nat) (f : Fox → Fox) : (s.updFox u f).mem = s.mem := rfl
@[simp] theorem State.updFox_maps (s : State) (u : Nat) (f : Fox → Fox) : (s.updFox u f).maps = s.maps := rfl
@[simp] theorem State.chargeLines_mem (s : State) (p : Nat) (ss : List (Nat × Nat)) : (s.chargeLines p ss).mem = s.mem := rfl
@[simp] theorem State.chargeLines_maps (s : State) (p : Nat) (ss : List (Nat × Nat)) : (s.chargeLines p ss).maps = s.maps := rfl
@[simp] theorem State.putItem_mem (s : State) (u old : Nat) (i : FoxItem) : (s.putItem u old i).mem = s.mem := rfl
@[simp] theorem State.putItem_maps (s : State) (u old : Nat) (i : FoxItem) : (s.putItem u old i).maps = s.maps := rfl

theorem State.fox_putItem (s : State) (u old : Nat) (i : FoxItem) : ((s.putItem u old i).fox u).item = some i ∧
    ((s.putItem u old i).fox u).visit = (s.fox u).visit := by
  unfold putItem
  rw [State.fox_updFox]
  exact ⟨rfl, rfl⟩

end

/-- A unit pins the epoch of an unlocked map and finds the blocks its item visits. -/
theorem pinMap_checked {u id : Nat} {s : State} {i : FoxItem} {l : Launch} {e : MapE} {q : Seq} {b : Nat} {bs : List Nat} {rd : List (Nat × Nat)}
    (hlk : e.lock = false) (h0 : i.phase = 0) (hid : oget s.maps id = some e)
    (hc : ((s.pin id).updFox u (fun f => { f with pinWait := f.pinWait + 0 })).foxCheck { i with phase := 2, map := id, lens := q.lens } l e.header =
      .ok (b :: bs, rd)) :
    ∃ j, ((s.pinMap u i l q id e).fox u).item = some j ∧ j.phase = 2 ∧ j.map = id ∧ j.lens = q.lens ∧ j.visit = b :: bs ∧ j.todo = b :: bs ∧ j.h = i.h ∧
      oget (s.pinMap u i l q id e).maps id = some { e with pins := e.pins + 1 } ∧ (s.pinMap u i l q id e).mem = s.mem := by
  let v := (s.pin id).updFox u (fun f => { f with pinWait := f.pinWait + 0 })
  let i' : FoxItem := { i with phase := 2, map := id, lens := q.lens }
  have hgo : ∃ (rows : List FoxRow) (poison : Bool) (n : Nat),
      let j : FoxItem := { i' with visit := b :: bs, todo := b :: bs, rows := rows, poison := poison }
      s.pinMap u i l q id e = ((v.chargeLines l.part rd).putItem u 0 j).updFox u (fun f => { f with skip := f.skip + BitVec.ofNat 64 n }) := by
    unfold State.pinMap
    rw [if_neg (by rw [hlk]; exact Bool.false_ne_true), if_neg (by omega)]
    dsimp only
    rw [show (s.pin id).updFox u (fun f => { f with pinWait := f.pinWait + BitVec.ofNat 64 0 }) = v from rfl, hc]
    exact ⟨_, _, _, rfl⟩
  obtain ⟨rows, poison, n, hgo⟩ := hgo
  refine ⟨{ i' with visit := b :: bs, todo := b :: bs, rows := rows, poison := poison }, ?_, rfl, rfl, rfl, rfl, rfl, rfl, ?_, ?_⟩
  · rw [hgo, State.fox_updFox]
    exact (State.fox_putItem ..).1
  · rw [hgo, State.updFox_maps, State.putItem_maps, State.chargeLines_maps, State.updFox_maps]
    exact oget_oupd_self hid _
  · rw [hgo, State.updFox_mem, State.putItem_mem, State.chargeLines_mem, State.updFox_mem]
    rfl

/-! ### Pages (R152) -/

section
variable {u page : Nat} {s : State} {i : FoxItem} {l : Launch}

/-- A unit's buffer and item after a page was looked up. -/
def Fox.withPage (f : Fox) (page : Nat) (v : LabSet) (miss : W64) (i : FoxItem) : Fox :=
  { f with lab := tput (fun _ => LabSet.empty) f.lab (labSet page) v, labMiss := f.labMiss + miss, item := some i }

theorem foxLabFill_hit (hi : (s.fox u).item = some i) (hl : s.launch i.launch = some l) (hr : s.regOpen l.part 0 = true)
    (hn : i.nextPage (s.stream (s.mapHeader i.map) i.kstream).pgsz = some page) {w : Nat} {e : LabEntry}
    (hf : (tget (fun _ => LabSet.empty) (s.fox u).lab (labSet page)).find i.map i.kstream page = some (w, e)) :
    foxLabFill u page s = s.setFox u { s.fox u with
      lab := tput (fun _ => LabSet.empty) (s.fox u).lab (labSet page) { tget (fun _ => LabSet.empty) (s.fox u).lab (labSet page) with
        plru := touchTree (tget (fun _ => LabSet.empty) (s.fox u).lab (labSet page)).plru w }
      item := some (i.gotPage (s.stream (s.mapHeader i.map) i.kstream).pgsz e) } := by
  unfold foxLabFill
  simp only [hi, hl]
  rw [if_neg (by simp [hn, hr]), hf, show (s.fox u).labMiss + 0 = (s.fox u).labMiss from BitVec.add_zero _]

theorem foxLabFill_miss (hi : (s.fox u).item = some i) (hl : s.launch i.launch = some l) (hr : s.regOpen l.part 0 = true)
    (hn : i.nextPage (s.stream (s.mapHeader i.map) i.kstream).pgsz = some page) {e : LabEntry}
    (hf : (tget (fun _ => LabSet.empty) (s.fox u).lab (labSet page)).find i.map i.kstream page = none)
    (hw : s.walk l.part i.map (s.stream (s.mapHeader i.map) i.kstream) i.kstream page = .ok e) :
    foxLabFill u page s = (s.setFox u ((s.fox u).withPage page ((tget (fun _ => LabSet.empty) (s.fox u).lab (labSet page)).place e) 1
      (i.gotPage (s.stream (s.mapHeader i.map) i.kstream).pgsz e))).chargeLines l.part
        (s.walkReads (s.stream (s.mapHeader i.map) i.kstream) page) := by
  unfold foxLabFill
  simp only [hi, hl]
  rw [if_neg (by simp [hn, hr]), hf, hw]
  rfl

end

/-! ### Blocks (R142, R143) -/

section
variable {u b : Nat} {s : State} {i : FoxItem} {l : Launch} {rest : List Nat}

/-- A block of a head is computed: the item's running values change; the head is finished with its last block. -/
theorem foxBlockCompute_eq (hi : (s.fox u).item = some i) (hl : s.launch i.launch = some l) (ht : i.todo = b :: rest) (hp : i.phase = 2)
    (hh : i.h < i.nh) (hd : i.done < i.blk) (hr : s.regOpen l.part 0 = true)
    (hsp : s.checkSpans l.part true false (((s.stream (s.mapHeader i.map) i.kstream).coord + 8 * 256 * b, 8 * min 256 (i.len i.kstream - 256 * b)) ::
      (s.queryRows i (s.stream (s.mapHeader i.map) i.qstream)).map (fun e => (i.w 3 % 2 ^ 48 + e.1 * (parseAcfg l.k.acfg).qstride +
        (i.h0 + i.h) * (parseAcfg l.k.acfg).d * elemBytes (parseAcfg l.k.acfg).qfmt, (parseAcfg l.k.acfg).d * elemBytes (parseAcfg l.k.acfg).qfmt))) =
        none)
    (hc : ∀ j < min 256 (i.len i.kstream - 256 * b), coordBad (s.seenLe ((s.stream (s.mapHeader i.map) i.kstream).coord + 8 * (256 * b + j)) 8) = false) :
    ∃ (rows : List FoxRow) (poison : Bool) (pages : List (Nat × LabEntry)) (reads : List (Nat × Nat)),
      let j := { i with rows := rows, todo := rest, poison := poison, pages := pages }
      let j := if rest = [] then j.finishHead (parseAcfg l.k.acfg) (s.queryRows i (s.stream (s.mapHeader i.map) i.qstream)) else j
      foxBlockCompute u s = ((s.chargeLines l.part reads).putItem u i.emptyRows j).updFox u (fun f => { f with visit := f.visit + 1 }) := by
  have hgood : ((List.range (min 256 (i.len i.kstream - 256 * b))).map (fun j =>
      s.seenLe ((s.stream (s.mapHeader i.map) i.kstream).coord + 8 * (256 * b + j)) 8)).any coordBad = false := by
    rw [List.any_map, List.any_eq_false]
    intro j hj
    rw [Function.comp_apply, hc j (List.mem_range.mp hj)]
    exact Bool.false_ne_true
  unfold foxBlockCompute
  simp only [hi, hl, ht]
  rw [if_neg (by simp [hp, hr]; omega), hsp]
  dsimp only
  rw [hgood, if_neg Bool.false_ne_true]
  exact ⟨_, _, _, _, rfl⟩

end

/-- The item and the unit after a block. -/
theorem foxBlockCompute_spec {u b : Nat} {s : State} {i : FoxItem} {l : Launch} {rest : List Nat} (hi : (s.fox u).item = some i)
    (hl : s.launch i.launch = some l) (ht : i.todo = b :: rest) (hp : i.phase = 2) (hh : i.h < i.nh) (hd : i.done < i.blk)
    (hr : s.regOpen l.part 0 = true)
    (hsp : s.checkSpans l.part true false (((s.stream (s.mapHeader i.map) i.kstream).coord + 8 * 256 * b, 8 * min 256 (i.len i.kstream - 256 * b)) ::
      (s.queryRows i (s.stream (s.mapHeader i.map) i.qstream)).map (fun e => (i.w 3 % 2 ^ 48 + e.1 * (parseAcfg l.k.acfg).qstride +
        (i.h0 + i.h) * (parseAcfg l.k.acfg).d * elemBytes (parseAcfg l.k.acfg).qfmt, (parseAcfg l.k.acfg).d * elemBytes (parseAcfg l.k.acfg).qfmt))) =
        none)
    (hc : ∀ j < min 256 (i.len i.kstream - 256 * b), coordBad (s.seenLe ((s.stream (s.mapHeader i.map) i.kstream).coord + 8 * (256 * b + j)) 8) = false) :
    ∃ j, ((foxBlockCompute u s).fox u).item = some j ∧ ((foxBlockCompute u s).fox u).visit = (s.fox u).visit + 1 ∧ (foxBlockCompute u s).mem = s.mem ∧
      j.visit = i.visit ∧ j.blk = i.blk ∧ (rest ≠ [] → j.todo = rest ∧ j.h = i.h ∧ j.outs = i.outs) ∧ (rest = [] → j.todo = i.visit ∧ j.h = i.h + 1) := by
  obtain ⟨rows, poison, pages, reads, heq⟩ := foxBlockCompute_eq hi hl ht hp hh hd hr hsp hc
  let done : FoxItem := { i with rows := rows, todo := rest, poison := poison, pages := pages }
  let j := if rest = [] then done.finishHead (parseAcfg l.k.acfg) (s.queryRows i (s.stream (s.mapHeader i.map) i.qstream)) else done
  have hj : j.visit = i.visit ∧ j.blk = i.blk ∧ (rest ≠ [] → j.todo = rest ∧ j.h = i.h ∧ j.outs = i.outs) ∧
      (rest = [] → j.todo = i.visit ∧ j.h = i.h + 1) := by
    by_cases hrest : rest = []
    · rw [show j = _ from if_pos hrest]
      exact ⟨rfl, rfl, fun h => absurd hrest h, fun _ => ⟨rfl, rfl⟩⟩
    · rw [show j = _ from if_neg hrest]
      exact ⟨rfl, rfl, fun _ => ⟨rfl, rfl, rfl⟩, fun h => absurd h hrest⟩
  have heq' : foxBlockCompute u s = ((s.chargeLines l.part reads).putItem u i.emptyRows j).updFox u (fun f => { f with visit := f.visit + 1 }) := heq
  clear_value j
  obtain ⟨hitem, hvisit⟩ := State.fox_putItem (s.chargeLines l.part reads) u i.emptyRows j
  refine ⟨j, ?_, ?_, by rw [heq', State.updFox_mem, State.putItem_mem, State.chargeLines_mem], hj⟩
  · rw [heq', State.fox_updFox]
    exact hitem
  · rw [heq', State.fox_updFox]
    exact congrArg (· + 1) hvisit

/-! ### Outputs are written and the item ends (R145) -/

/-- A state without what writing outputs and charging for them touches. -/
def State.sansMem (s : State) : State := { s with mem := [], poison := [], regions := [], parts := [] }

/-- Outputs `ws` stored, charged to partition `p`, and poisoned where what they came from was. -/
def State.outputs (s : State) (p : Nat) (ws : List (Nat × List Byte)) (n : Nat) (bad : Bool) : State :=
  let s := (s.writes ws).charge p 0 n
  if bad then ws.foldl (fun s w => s.taint w.1 w.2.length) s else s

/-- A launch has ended one unit of work, which took the engine `n` cycles. -/
def State.endUnit (s : State) (k : EngineKind) (key n : Nat) : State :=
  (s.chargeEngine k key n).updLaunch key (fun q => { q with ended := q.ended + 1 })

section
variable (s : State) (p n : Nat) (ws : List (Nat × List Byte)) (bad : Bool)

theorem State.writes_sansMem : (s.writes ws).sansMem = s.sansMem :=
  foldl_keeps sansMem (fun s (w : Nat × List Byte) => s.write w.1 w.2) (fun u (w : Nat × List Byte) => (congrArg sansMem (u.write_only w.1 w.2) :)) ws s

theorem State.outputs_sansMem : (s.outputs p ws n bad).sansMem = s.sansMem := by
  unfold outputs
  split
  · exact (foldl_keeps sansMem (fun s (w : Nat × List Byte) => s.taint w.1 w.2.length) (fun u (w : Nat × List Byte) => (congrArg sansMem (u.taint_only w.1 w.2.length) :)) ws
      ((s.writes ws).charge p 0 n)).trans (s.writes_sansMem ws)
  · exact s.writes_sansMem ws

theorem State.outputs_mem : (s.outputs p ws n bad).mem = (s.writes ws).mem := by
  unfold outputs
  split
  · exact foldl_keeps State.mem (fun s (w : Nat × List Byte) => s.taint w.1 w.2.length) (fun u (w : Nat × List Byte) => (congrArg State.mem (u.taint_only w.1 w.2.length) :)) ws
      ((s.writes ws).charge p 0 n)
  · rfl

theorem State.endUnit_launch {key : Nat} {l : Launch} (h : s.launch key = some l) (k : EngineKind) :
    ∃ o, (s.endUnit k key n).launch key = some o ∧ o.ended = l.ended + 1 ∧ o.begun = l.begun ∧ o.faulted = l.faulted :=
  ⟨_, State.launch_updLaunch (State.launch_chargeEngine h k n) _, rfl, rfl, rfl⟩

theorem State.endUnit_only (key : Nat) (k : EngineKind) : s.endUnit k key n =
    { s with launches := (s.endUnit k key n).launches, parts := (s.endUnit k key n).parts, qps := (s.endUnit k key n).qps } :=
  (congrArg (fun t : State => t.updLaunch key (fun q => { q with ended := q.ended + 1 })) (s.chargeEngine_only key n k) :)

end

section
variable {u : Nat} {s : State} {i : FoxItem} {l : Launch}

/-- The epoch of a completed item is released, or stays pinned for an audit (R154, R354). -/
def State.freeItem (s : State) (i : FoxItem) (l : Launch) : State :=
  if l.picked i.idx then s.updLaunch i.launch (fun q => { q with pins := tins q.pins i.idx i.map }) else s.unpin i.map

theorem State.freeItem_spec (hl : s.launch i.launch = some l) : (s.freeItem i l).mem = s.mem ∧ (s.freeItem i l).sems = s.sems ∧
    ∃ o, (s.freeItem i l).launch i.launch = some o ∧ o.ended = l.ended ∧ o.begun = l.begun := by
  unfold freeItem
  split
  · exact ⟨rfl, rfl, _, State.launch_updLaunch hl _, rfl, rfl⟩
  · exact ⟨rfl, rfl, l, hl, rfl, rfl⟩

theorem foxItemComplete_ok (hi : (s.fox u).item = some i) (hl : s.launch i.launch = some l) (hr : s.regOpen l.part 0 = true) (hp : i.phase = 2)
    (hh : i.nh ≤ i.h) (hsp : s.checkSpans l.part false true (i.outs.map (fun o => (o.1, o.2.length))) = none)
    (hsig : bit (i.w 7) 13 = true → (s.sem (bits (i.w 7) 12 1) (bits (i.w 7) 0 12)).value.toNat < 2 ^ 32 - 1) :
    ∃ v : State, v.mem = (s.writes i.outs).mem ∧ (∃ o, v.launch i.launch = some o ∧ o.ended = l.ended ∧ o.begun = l.begun) ∧
      foxItemComplete u s = (v.endUnit .fox i.launch (12 * v.cyclesSince i.since)).updFox u (fun f => { f with item := none, workSince := v.time }) := by
  let w := s.outputs l.part i.outs (spansDram i.outs) i.poison
  have hw : w.sansMem = s.sansMem := s.outputs_sansMem ..
  have hwl : w.launch i.launch = some l := (congrArg (fun t : State => t.launch i.launch) hw :).trans hl
  obtain ⟨hfm, hfs, hfl⟩ := State.freeItem_spec hwl
  have hmem : (w.freeItem i l).mem = (s.writes i.outs).mem := hfm.trans (s.outputs_mem ..)
  have hsems : (w.freeItem i l).sems = s.sems := hfs.trans (congrArg State.sems hw :)
  unfold foxItemComplete
  simp only [hi, hl]
  rw [if_neg (by simp [hp, hr, hh]), hsp]
  dsimp only
  cases hss : i.ssem with
  | none => exact ⟨w.freeItem i l, hmem, hfl, rfl⟩
  | some dk =>
    obtain ⟨die, k⟩ := dk
    obtain ⟨hb, rfl, rfl⟩ := FoxItem.ssem_eq hss
    have hfit : ((w.freeItem i l).sem (bits (i.w 7) 12 1) (bits (i.w 7) 0 12)).value.toNat + 1 < 2 ^ 32 := by
      have h := hsig hb
      rw [show (w.freeItem i l).sem _ _ = s.sem _ _ from congrArg (tget (fun _ => Sem.reset) · _) hsems]
      omega
    let raised : Sem := { (w.freeItem i l).sem (bits (i.w 7) 12 1) (bits (i.w 7) 0 12) with
      value := BitVec.ofNat 32 (((w.freeItem i l).sem (bits (i.w 7) 12 1) (bits (i.w 7) 0 12)).value.toNat + 1) }
    have hadd : (w.freeItem i l).semAdd (bits (i.w 7) 12 1) (bits (i.w 7) 0 12) 1 =
        some ((w.freeItem i l).setSem (bits (i.w 7) 12 1) (bits (i.w 7) 0 12) raised) := if_pos hfit
    refine ⟨(w.freeItem i l).setSem (bits (i.w 7) 12 1) (bits (i.w 7) 0 12) raised, hmem, hfl, ?_⟩
    refine Eq.trans (b := match (w.freeItem i l).semAdd (bits (i.w 7) 12 1) (bits (i.w 7) 0 12) 1 with
      | some v => (v.endUnit .fox i.launch (12 * v.cyclesSince i.since)).updFox u (fun f => { f with item := none, workSince := v.time })
      | none => w.foxEnd u i (itemFault 5)) rfl ?_
    rw [hadd]

end

/-- Settles O32: an item is read, its map pinned, its pages found, its blocks computed and its outputs written, each by the step's own equation. -/
theorem foxgloveItem : Obligations.FoxgloveItem := by
  unfold Obligations.FoxgloveItem
  refine ⟨?_, ?_, ?_, ?_, ?_⟩
  · intro u key s l hf hl hi hst hk ha hp he hr n a hlt hm hw
    have hfox := State.fox_updFox (s.updLaunch key (fun l => { l with begun := l.begun + 1 })) u (fun q =>
      { q with k := q.k + 1, item := some (s.readItem key n a) })
    refine ⟨_, s.readItem key n a, congrArg Host.Outcome.next (foxItemStart_ok hf hl hi hst hk ha hp he hr rfl rfl hlt hm hw), ?_, ?_, rfl, rfl, rfl, rfl,
      State.launch_updLaunch hl _, rfl⟩
    · exact (congrArg Fox.item hfox :)
    · exact (congrArg Fox.k hfox :)
  · intro u id s i l e q hi hl ho hq hm hs hp hr
    have heq := mapEpochPin_eq hi hl ho hq hm hs hp hr
    refine ⟨fun hlk h0 => congrArg Host.Outcome.next (heq.trans ?_), fun hlk h1 => congrArg Host.Outcome.next (heq.trans ?_), ?_⟩
    · unfold State.pinMap
      rw [if_pos hlk, if_pos h0]
      rfl
    · unfold State.pinMap
      rw [if_pos hlk, if_neg (by omega)]
    · intro hlk h0 hid b bs rd hc
      obtain ⟨j, hgo⟩ := pinMap_checked hlk h0 hid hc
      exact ⟨_, j, congrArg Host.Outcome.next heq, hgo⟩
  · intro u page s i l hi hl hr r v hn
    exact ⟨fun w e hf => congrArg Host.Outcome.next (foxLabFill_hit hi hl hr hn hf),
      fun e hf hw => congrArg Host.Outcome.next (foxLabFill_miss hi hl hr hn hf hw)⟩
  · intro u b s i l rest hi hl ht hp hh hd hr c rk n hsp hc
    obtain ⟨j, h1, h2, h3, h4⟩ := foxBlockCompute_spec hi hl ht hp hh hd hr hsp hc
    exact ⟨_, j, rfl, h1, h2, h3, h4⟩
  · intro u s i l hi hl hr hp hh hsp hsig
    obtain ⟨v, hmem, ⟨o, ho, hoe, hob⟩, heq⟩ := foxItemComplete_ok hi hl hr hp hh hsp hsig
    obtain ⟨o', ho', hoe', hob', _⟩ := v.endUnit_launch (12 * v.cyclesSince i.since) ho .fox
    have hm : ((v.endUnit .fox i.launch (12 * v.cyclesSince i.since)).updFox u (fun f => { f with item := none, workSince := v.time })).mem =
        (s.writes i.outs).mem := (congrArg State.mem (v.endUnit_only _ i.launch .fox) :).trans hmem
    refine ⟨_, o', congrArg Host.Outcome.next heq, by rw [State.fox_updFox], ho', by rw [hoe', hoe], hob'.trans hob, hm, fun a ha => ?_⟩
    exact (congrArg (tget Memory.dflt · a) hm).trans (State.rawByte_writes s i.outs a ha)

end Sys2Proof.Machine
end

section
/-!
Primrose jobs and batches of map edits (R156, R189, R191 to R194).
-/

namespace Sys2Proof.Machine

/-! ### Completions of commands -/

/-- A state without its mailboxes and the journal. -/
def State.sansMail (s : State) : State := { s with mbxs := [], journal := [] }

theorem State.due_sansMail (s : State) (m : Nat) (e : CmpEntry) : (s.due m e).sansMail = s.sansMail := rfl

theorem State.complete_sansMail (s : State) (c : Cmd) (st : Nat) (d : Bool) (r0 r1 : Nat) : (s.complete c st d r0 r1).sansMail = s.sansMail := by
  unfold complete
  extract_lets j c'
  split
  · rfl
  · exact foldl_keeps State.sansMail (fun (s : State) (w : Watch) => s.due c'.m (abortEntry w 0 (if st = 3 then 0 else 1))) (fun _ _ => rfl) c'.watch _

/-! ### A batch of map edits (R156) -/

theorem State.finishEdits_sansMail (s : State) (es : List MapEdit) : (s.finishEdits es).sansMail = s.sansMail := by
  refine foldl_keeps State.sansMail _ (fun u d => ?_) es s
  refine (foldl_keeps State.sansMail (fun (s : State) (w : Watch) => s.due d.m (abortEntry w 0 1)) (fun _ _ => rfl) d.watch _).trans ?_
  split
  · split
    · exact complete_sansMail ..
    · rfl
  · rfl

theorem mapBatch_spec {m : Nat} {s : State} {e : MapE} (he : oget s.maps m = some e) (hl : e.lock = true) :
    oget (mapBatch m s).maps m = some { e with epoch := e.epoch + (if e.queue = [] then 0 else 1), lock := false, queue := [] } ∧
      (e.queue = [] → (mapBatch m s).mem = s.mem) := by
  unfold mapBatch
  simp only [he, hl, Bool.not_true, Bool.false_eq_true, if_false]
  by_cases hq : e.queue = []
  · rw [if_pos hq, if_pos hq]
    refine ⟨?_, fun _ => rfl⟩
    rw [oget_tins, if_pos rfl, hq]
    simp
  · rw [if_neg hq, if_neg hq]
    refine ⟨?_, fun h => absurd h hq⟩
    have hb : oget (s.batch m e.queue).maps m = some { e with epoch := e.epoch + 1, lock := false, queue := [] } := by
      unfold State.batch
      rw [he]
      exact (oget_tins ..).trans (if_pos rfl)
    exact (congrArg (fun t : State => oget t.maps m) (State.finishEdits_sansMail ..) :).trans hb

/-! ### A job starts (R189, R191) -/

/-- Job `n` of launch `key` as an engine reads it at `a`. -/
def State.readJob (s : State) (key n a : Nat) : PrimJob :=
  { launch := key, idx := n, since := s.time, words := (List.range 16).map (fun j => BitVec.ofNat 64 (s.word a j)) }

/-- The semaphore that a job of sixteen words waits on. -/
theorem parseJob_wsem {ws : List W64} {die k : Nat} (h : (parseJob ws).wsem = some (die, k)) :
    bit (ws.getD 10 0).toNat 13 = true ∧ k = bits (ws.getD 10 0).toNat 0 12 := by
  have hd : (parseJob ws).wsem = if bit (ws.getD 10 0).toNat 13 then some (bits (ws.getD 10 0).toNat 12 1, bits (ws.getD 10 0).toNat 0 12) else none := rfl
  rw [hd] at h
  by_cases hb : bit (ws.getD 10 0).toNat 13 = true
  · rw [if_pos hb, Option.some.injEq, Prod.mk.injEq] at h
    exact ⟨hb, h.2.symm⟩
  · rw [if_neg hb] at h
    cases h

theorem readJob_word (s : State) (key n a : Nat) : ((s.readJob key n a).words.getD 10 0).toNat = s.word a 10 := by
  unfold State.readJob
  dsimp only
  rw [List.getD_eq_getElem _ _ (by simp), List.getElem_map, List.getElem_range]
  exact s.word_toNat a 10

section
variable {e key : Nat} {s : State} {l : Launch}

theorem primJobStart_ok (hf : (s.prim e).launch = some key) (hl : s.launch key = some l) (hi : (s.prim e).job = none) (hst : l.started = true)
    (hk : l.killed = false) (ha : l.again = []) (hp : (s.prim e).power = .run) (htu : s.primTurn e l = true) (he : s.engineOf l.part .prim e = true)
    (hr : s.regOpen l.part 0 = true) {n a : Nat} (hn : n = (s.prim e).k * (maskList 4 l.e.mask).length + (maskList 4 l.e.mask).idxOf e)
    (haddr : a = l.e.arg + 128 * n) (hlt : n < l.e.e0) (hm : s.permits l.part a 128 true false false = true)
    (hw : bit (s.word a 10) 13 = true → s.semIn l.part (bits (s.word a 10) 0 12) = true) :
    ∃ alt, primJobStart e s = State.chargeLines { (s.updLaunch key (fun l => { l with begun := l.begun + 1 })).updPrim e (fun q =>
      { q with k := q.k + 1, job := some (s.readJob key n a) }) with health := { s.health with alt := alt } } l.part [(a, 128)] := by
  have hgo : ¬((s.prim e).job.isSome = true ∨ (!l.started) = true ∨ l.killed = true ∨ l.again.contains (e, 0) = true ∨ (s.prim e).power ≠ .run ∨
      l.e.e0 ≤ n ∨ (!s.primTurn e l) = true ∨ (!s.engineOf l.part .prim e) = true ∨ (!s.regOpen l.part 0) = true) := by
    simp [hi, hst, hk, ha, hp, he, hr, hlt, htu]
  have hw10 := readJob_word s key n a
  subst hn
  subst haddr
  refine ⟨tins s.health.alt (e / 2) e, ?_⟩
  unfold primJobStart
  simp only [hf, hl]
  rw [if_neg hgo]
  simp only [hm, if_true, Bool.not_true, Bool.false_eq_true, if_false]
  split
  next die k hsem =>
    obtain ⟨hb, hnum⟩ := parseJob_wsem hsem
    rw [if_pos]
    · rfl
    · rw [hnum]
      refine (State.semIn_charge ..).trans ((congrArg (fun w => s.semIn l.part (bits w 0 12)) hw10 :).trans (hw ?_))
      exact (congrArg (bit · 13) hw10 :).symm.trans hb
  next => rfl

end

/-! ### A job ends (R191, R192, R194) -/

section
variable {e : Nat} {s : State} {b : PrimJob} {l : Launch}

theorem Launch.mem_addFault (l : Launch) (i : Nat) (rec : List W64) : i ∈ (l.addFault i rec).faulted := by
  unfold Launch.addFault
  dsimp only
  split
  next h => exact List.contains_iff_mem.mp h
  next => exact List.mem_cons_self

theorem State.primEnd_spec (hl : s.launch b.launch = some l) (f : ItemFault) : (s.primEnd e b f).mem = s.mem ∧ ((s.primEnd e b f).prim e).job = none ∧
    ∃ o, (s.primEnd e b f).launch b.launch = some o ∧ o.ended = l.ended + 1 ∧ b.idx ∈ o.faulted ∧ o.part = l.part := by
  have hc := State.launch_chargeEngine hl .prim (12 * s.cyclesSince b.since)
  unfold primEnd State.itemFaulted
  dsimp only
  refine ⟨?_, by rw [State.prim_updPrim], _, State.launch_updLaunch hc _, rfl, Launch.mem_addFault .., rfl⟩
  exact (congrArg State.mem (s.chargeEngine_only b.launch _ .prim) :)

/-- What a fault leaves free lies within the spans named. -/
theorem State.rawByte_freeSpans (s : State) (p : Nat) (ss : List (Nat × Nat)) {a : Nat} (h : ∀ w ∈ ss, a < w.1 ∨ w.1 + w.2 ≤ a) :
    (s.freeSpans p ss).rawByte a = s.rawByte a := by
  refine State.rawByte_writes s _ a fun w hw => ?_
  obtain ⟨v, hv, rfl⟩ := List.mem_map.mp hw
  rw [List.length_map, List.length_range]
  exact h v (List.mem_filter.mp hv).1

theorem State.primFault_spec (hl : s.launch b.launch = some l) (f : ItemFault) : ((s.primFault e b f).prim e).job = none ∧
    (∃ o, (s.primFault e b f).launch b.launch = some o ∧ o.ended = l.ended + 1 ∧ b.idx ∈ o.faulted) ∧
    ∀ a, (∀ w ∈ (parseJob b.words).outSpans, a < w.1 ∨ w.1 + w.2 ≤ a) → (s.primFault e b f).rawByte a = s.rawByte a := by
  obtain ⟨hmem, hjob, o, ho, hoe, hof, _⟩ := State.primEnd_spec (e := e) hl f
  unfold primFault
  simp only [ho]
  have hsans := (s.primEnd e b f).writes_sansMem (((parseJob b.words).outSpans.filter (fun (a, n) =>
    ((s.primEnd e b f).checkSpans o.part false true [(a, n)]).isNone)).map (fun (a, n) =>
      (a, (List.range n).map (fun k => Config.freeByte (s.primEnd e b f).fresh (a + k)))))
  refine ⟨(congrArg (fun t : State => (t.prim e).job) hsans :).trans hjob, ⟨o, (congrArg (fun t : State => t.launch b.launch) hsans :).trans ho, hoe, hof⟩,
    fun a ha => ?_⟩
  rw [State.rawByte_freeSpans _ _ _ ha]
  exact congrArg (tget Memory.dflt · a) hmem

theorem primJobComplete_malformed (hj : (s.prim e).job = some b) (hl : s.launch b.launch = some l) (hr : s.regOpen l.part 0 = true)
    (hw : ∀ die k, (parseJob b.words).wsem = some (die, k) → (parseJob b.words).wval ≤ (s.sem die k).value.toNat)
    (hm : (parseJob b.words).malformed = true) : primJobComplete e s = s.primFault e b (itemFault 0x20) := by
  unfold primJobComplete
  simp only [hj, hl]
  refine (if_neg ?_).trans (if_pos hm)
  rintro (h | h)
  · split at h
    next die k hs =>
      rw [decide_eq_true (hw die k hs)] at h
      cases h
    next => cases h
  · rw [hr] at h
    cases h

theorem primJobComplete_ok (hj : (s.prim e).job = some b) (hl : s.launch b.launch = some l) (hr : s.regOpen l.part 0 = true)
    (hw : ∀ die k, (parseJob b.words).wsem = some (die, k) → (parseJob b.words).wval ≤ (s.sem die k).value.toNat)
    (hm : (parseJob b.words).malformed = false)
    (hs : ∀ die k, (parseJob b.words).ssem = some (die, k) → s.semIn l.part k = true ∧ (s.sem die k).value.toNat < 2 ^ 32 - 1)
    (hrd : s.checkSpans l.part true false (parseJob b.words).reads = none) (hwr : s.checkSpans l.part false true (parseJob b.words).outSpans = none)
    {ws : List (Nat × List Byte)} (hws : ws = if (parseJob b.words).op = 1 then s.convOut (parseJob b.words) else s.cscOut (parseJob b.words)) :
    ∃ v : State, v.mem = (s.writes ws).mem ∧
      v.launch b.launch = some l ∧
      (∀ die k, (parseJob b.words).ssem = some (die, k) → v.sems = (s.setSem die k { s.sem die k with value := (s.sem die k).value + 1 }).sems) ∧
      primJobComplete e s = (v.endUnit .prim b.launch (12 * v.cyclesSince b.since)).updPrim e (fun q => { q with job := none, workSince := v.time }) := by
  let bad := s.poisoned (l.e.arg + 128 * b.idx) 128 || (parseJob b.words).reads.any (fun r => s.poisoned r.1 r.2)
  let w := s.outputs l.part ws (spansDram ws + (parseJob b.words).readBytes) bad
  have hsans : w.sansMem = s.sansMem := s.outputs_sansMem ..
  have hwl : w.launch b.launch = some l := (congrArg (fun t : State => t.launch b.launch) hsans :).trans hl
  have hmem : w.mem = (s.writes ws).mem := s.outputs_mem ..
  have hsems : w.sems = s.sems := (congrArg State.sems hsans :)
  unfold primJobComplete
  simp only [hj, hl]
  rw [if_neg ?gate]
  case gate =>
    rintro (h | h)
    · split at h
      next die k hsem =>
        rw [decide_eq_true (hw die k hsem)] at h
        cases h
      next => cases h
    · rw [hr] at h
      cases h
  · rw [if_neg (by rw [hm]; exact Bool.false_ne_true), ← hws]
    cases hss : (parseJob b.words).ssem with
    | none =>
      rw [hrd, hwr]
      exact ⟨w, hmem, hwl, fun _ _ h => (Option.some_ne_none _ h.symm).elim, rfl⟩
    | some dk =>
      obtain ⟨die, k⟩ := dk
      obtain ⟨hin, hlt⟩ := hs die k hss
      have hsem : w.sem die k = s.sem die k := congrArg (tget (fun _ => Sem.reset) · _) hsems
      have hfit : (w.sem die k).value.toNat + 1 < 2 ^ 32 := by
        rw [hsem]
        omega
      have hval : BitVec.ofNat 32 ((w.sem die k).value.toNat + 1) = (s.sem die k).value + 1 := by
        rw [hsem]
        exact BitVec.eq_of_toNat_eq (by simp)
      let raised : Sem := { w.sem die k with value := BitVec.ofNat 32 ((w.sem die k).value.toNat + 1) }
      have hadd : w.semAdd die k 1 = some (w.setSem die k raised) := if_pos hfit
      simp only [hin, if_true, hrd, hwr]
      refine ⟨w.setSem die k raised, hmem, hwl, fun d i h => ?_, ?_⟩
      · cases h
        rw [show raised = { s.sem die k with value := (s.sem die k).value + 1 } by rw [← hval, ← hsem]]
        unfold State.setSem
        dsimp only
        rw [hsems]
      · refine Eq.trans (b := match w.semAdd die k 1 with
          | some v => (v.endUnit .prim b.launch (12 * v.cyclesSince b.since)).updPrim e (fun q => { q with job := none, workSince := v.time })
          | none => w.primEnd e b (itemFault 5)) rfl ?_
        rw [hadd]

end

/-- Settles O33: a job is read, faults or writes its outputs and signals; a batch of edits takes the queue. -/
theorem primroseAndMaps : Obligations.PrimroseAndMaps := by
  unfold Obligations.PrimroseAndMaps
  refine ⟨?_, ?_, ?_⟩
  · intro e key s l hf hl hi hst hk ha hp htu he hr n a hlt hm hw
    obtain ⟨alt, heq⟩ := primJobStart_ok hf hl hi hst hk ha hp htu he hr rfl rfl hlt hm hw
    have hprim := State.prim_updPrim (s.updLaunch key (fun l => { l with begun := l.begun + 1 })) e (fun q =>
      { q with k := q.k + 1, job := some (s.readJob key n a) })
    exact ⟨_, s.readJob key n a, congrArg Host.Outcome.next heq, (congrArg Prim.job hprim :), (congrArg Prim.k hprim :), rfl, rfl, rfl,
      State.launch_updLaunch hl _, rfl⟩
  · intro e s b l hj hl hr j hw
    constructor
    · intro hm
      obtain ⟨hjob, ⟨o, ho, hoe, hof⟩, hraw⟩ := State.primFault_spec (e := e) hl (itemFault 0x20)
      exact ⟨_, o, congrArg Host.Outcome.next (primJobComplete_malformed hj hl hr hw hm), hraw, hjob, ho, hoe, hof⟩
    · intro hm hs hrd ws hwr
      obtain ⟨v, hmem, hv, hsem, heq⟩ := primJobComplete_ok hj hl hr hw hm hs hrd hwr (ws := ws) rfl
      obtain ⟨o, ho, hoe, _, hof⟩ := v.endUnit_launch (12 * v.cyclesSince b.since) hv .prim
      have honly := v.endUnit_only (12 * v.cyclesSince b.since) b.launch .prim
      exact ⟨_, o, congrArg Host.Outcome.next heq, (congrArg State.mem honly :).trans hmem, by rw [State.prim_updPrim], ho, hoe, hof,
        fun die k h => (congrArg State.sems honly :).trans (hsem die k h)⟩
  · intro m s e he hl
    obtain ⟨hmap, hmem⟩ := mapBatch_spec he hl
    exact ⟨_, _, rfl, hmap, rfl, rfl, rfl, rfl, hmem⟩

end Sys2Proof.Machine
end

section
/-!
The controllers of DRAM, and the drain of a region (R202 to R210, R215, R434).
-/

namespace Sys2Proof.Machine

@[simp] theorem State.chan_setChan (s : State) (d ch : Nat) (v : DramCh) : (s.setChan d ch v).chan d ch = v := tget_tput_self ..
/-- A weight in the risk sum touches no channel. -/
theorem State.addRisk_chans (s : State) (n : Nat) : (s.addRisk n).chans = s.chans := by
  unfold addRisk
  rfl

theorem State.chan_addRisk (s : State) (n d ch : Nat) : (s.addRisk n).chan d ch = s.chan d ch := by
  unfold chan
  rw [addRisk_chans]

@[simp] theorem State.die_setDie (s : State) (d : Nat) (v : DramDie) : (s.setDie d v).die d = v := tget_tput_self ..

/-! ### Hot windows (R202) -/

/-- A state without its regions and mailboxes. -/
def State.sansHot (s : State) : State := { s with regions := [], mbxs := [] }

theorem State.countHot_sansHot (s : State) (g : Nat) : (s.countHot g).sansHot = s.sansHot := by
  refine foldl_keeps State.sansHot _ (fun u e => ?_) s.regions s
  dsimp -zeta only
  by_cases hin : e.2.baseg ≤ g ∧ g ≤ e.2.lastg
  · rw [if_pos hin]
    extract_lets ts quiet fire r v
    split
    · exact (congrArg State.sansHot (v.event_only ..) :)
    · rfl
  · rw [if_neg hin]

/-- A single region counts the hot granule where it maps it. -/
theorem State.countHot_one {s : State} {k : Nat} {r : Region} (h : s.regions = [(k, r)]) (g : Nat) :
    ∃ r', (s.countHot g).regions = [(k, r')] ∧ r'.baseg = r.baseg ∧ r'.lastg = r.lastg ∧
      r'.hotch = r.hotch + (if r.baseg ≤ g ∧ g ≤ r.lastg then 1 else 0) := by
  have htins : ∀ v : Region, tins s.regions k v = [(k, v)] := fun v => by
    rw [h]
    exact if_pos rfl
  unfold countHot
  rw [h, List.foldl_cons, List.foldl_nil]
  dsimp -zeta only
  by_cases hin : r.baseg ≤ g ∧ g ≤ r.lastg
  · rw [if_pos hin, if_pos hin]
    extract_lets ts quiet fire r' v
    refine ⟨r', ?_, rfl, rfl, rfl⟩
    split
    · exact (congrArg State.regions (v.event_only ..) :).trans (htins r')
    · exact htins r'
  · rw [if_neg hin, if_neg hin]
    exact ⟨r, h, rfl, rfl, (add_zero _).symm⟩

/-! ### Rows and lines (R205 to R209) -/

section
variable (s : State) (d ch row a : Nat)

/-- Sparing a row touches its channel, its die's controller and the risk sum. -/
theorem State.spareRow_only : s.spareRow d ch row =
    { s with chans := (s.spareRow d ch row).chans, dies := (s.spareRow d ch row).dies, health := (s.spareRow d ch row).health } := by
  unfold spareRow
  dsimp only
  split <;> rfl

theorem State.eccCorrected_logs {s : State} {a c r : Nat} (h : s.rowOf a = (c, r)) :
    (r, s.time) ∈ ((s.eccCorrected a).chan (a / dieBytes) c).log := by
  unfold eccCorrected
  rw [h]
  generalize a / dieBytes = d
  dsimp only
  rw [State.chan_addRisk, State.chan_setChan]
  exact List.mem_cons_self

/-- An uncorrectable error leaves memory as it was and poisons its line. -/
theorem State.eccLost_spec : (s.eccLost a).mem = s.mem ∧
    (s.eccLost a).poison = if s.poison.contains (lineOf a) then s.poison else lineOf a :: s.poison := by
  unfold eccLost
  generalize a / dieBytes = d
  obtain ⟨c, r⟩ := s.rowOf a
  dsimp only
  rw [spareRow_only]
  exact ⟨rfl, rfl⟩

theorem State.eccLost_poison : lineOf a ∈ (s.eccLost a).poison ∧ ∀ l ∈ s.poison, l ∈ (s.eccLost a).poison := by
  rw [(s.eccLost_spec a).2]
  split
  next h => exact ⟨List.contains_iff_mem.mp h, fun _ hl => hl⟩
  next => exact ⟨List.mem_cons_self, fun _ hl => List.mem_cons_of_mem _ hl⟩

end

/-- What the patrol does with what it found at an address. -/
def State.found (s : State) (a : Nat) : EccFind → State
  | .clean => s
  | .corrected => s.eccCorrected a
  | .uncorrectable => s.eccLost a
  | .miscorrected w => (s.wrongLine a w).eccCorrected a
  | .missed w => s.wrongLine a w

theorem patrolScrub_eq {s : State} {d a c r : Nat} (ha : a = dieBytes * d + 64 * (s.die d).patrol) (h : s.rowOf a = (c, r)) (e : EccFind) :
    patrolScrub d e s = ((s.setDie d { s.die d with patrol := ((s.die d).patrol + 1) % 2 ^ 32 }).setChan d c
      { s.chan d c with down := false }).found a e := by
  subst ha
  unfold patrolScrub
  extract_lets g a
  rw [show s.rowOf a = (c, r) from h]
  cases e <;> rfl

/-- The controller after the patrol's step, at the place of R208, by what it found. -/
theorem patrolScrub_spec {s v : State} {a c r : Nat} (hm : v.mem = s.mem) (hp : v.poison = s.poison) (ht : v.time = s.time) (h : v.rowOf a = (c, r)) :
    (∀ w, (v.found a (.miscorrected w)).mem = memPut s.mem a (toLe 64 w.toNat) ∧ (v.found a (.miscorrected w)).poison = s.poison ∧
      (r, s.time) ∈ ((v.found a (.miscorrected w)).chan (a / dieBytes) c).log) ∧
    ((v.found a .corrected).mem = s.mem ∧ (v.found a .corrected).poison = s.poison ∧ (r, s.time) ∈ ((v.found a .corrected).chan (a / dieBytes) c).log) ∧
    ((v.found a .uncorrectable).mem = s.mem ∧ lineOf a ∈ (v.found a .uncorrectable).poison ∧
      ∀ l ∈ s.poison, l ∈ (v.found a .uncorrectable).poison) := by
  have honly : ∀ u : State, (u.eccCorrected a).mem = u.mem ∧ (u.eccCorrected a).poison = u.poison := fun u => by
    unfold State.eccCorrected
    generalize a / dieBytes = d
    obtain ⟨c, r⟩ := u.rowOf a
    exact ⟨rfl, rfl⟩
  rw [← hm, ← hp, ← ht]
  refine ⟨fun w => ⟨(honly (v.wrongLine a w)).1, (honly (v.wrongLine a w)).2, ?_⟩, ⟨(honly v).1, (honly v).2, State.eccCorrected_logs h⟩,
    (v.eccLost_spec a).1, v.eccLost_poison a⟩
  exact State.eccCorrected_logs (s := v.wrongLine a w) h

/-! ### A region's drain ends (R215) -/

/-- A state without mailboxes, journal and tensor objects. -/
def State.sansAnswer (s : State) : State := { s with mbxs := [], journal := [], tobjs := [] }

theorem regionDrained_spec {p i : Nat} {s : State} {d : RegionDrain} {r : Region} (hd : s.drains.find? (fun d => d.part = p ∧ d.idx = i) = some d)
    (hr : s.region p i = some r) (hb : s.regionBusy p d.marks r = false) :
    (regionDrained p i s).sansAnswer = (let u : State := { s with drains := s.drains.filter (fun e => !(e.part == p && e.idx == i)) }
      match d.keep with
      | none => u.dropRegion p i
      | some (pr, pw, px) => { u with regions := tins u.regions (regionKey p i) { r with r := pr, w := pw, x := px } }).sansAnswer := by
  unfold regionDrained
  simp only [hd, hr, hb, Bool.false_eq_true, if_false]
  split
  · split
    · rfl
    · exact (congrArg State.sansAnswer (State.complete_sansMail ..) :)
  · rfl

/-- Settles O34: each event of a controller by its own branches; a drained region goes or keeps what it keeps. -/
theorem dramEvents : Obligations.DramEvents := by
  unfold Obligations.DramEvents
  refine ⟨?_, ?_, ?_, ?_, ?_⟩
  · intro d ch lines total gran s u
    refine ⟨fun h => congrArg Host.Outcome.next ?_, fun h1 h2 => ?_⟩
    · unfold hotWindow
      exact if_neg h
    · let v := u.setDie d { s.die d with hotWin := (s.die d).hotWin + 1, hotCh := BitVec.ofNat 8 ch, hotGran := BitVec.ofNat 17 gran }
      have heq : hotWindow d ch lines total gran s = v.countHot (131072 * d + gran) := by
        unfold hotWindow
        exact if_pos ⟨h1, h2⟩
      have hv := v.countHot_sansHot (131072 * d + gran)
      exact ⟨_, congrArg Host.Outcome.next heq, (congrArg State.mem hv :), (congrArg State.chans hv :), (congrArg State.dies hv :),
        fun k r hr => v.countHot_one hr (131072 * d + gran)⟩
  · intro d ch row s h8
    have heq : rowSpare d ch row s = s.spareRow d ch row := if_pos h8
    refine ⟨fun h => congrArg Host.Outcome.next (heq.trans (if_pos h)), fun h => ?_⟩
    have honly := s.spareRow_only d ch row
    refine ⟨_, _, congrArg Host.Outcome.next heq, (congrArg State.mem honly :), (congrArg State.poison honly :), rfl, ?_⟩
    unfold State.spareRow
    dsimp only
    rw [if_neg (by omega), State.die_setDie]
    rw [show ∀ u : State, ∀ g, (u.setDie d g).chan d ch = u.chan d ch from fun _ _ => rfl, State.chan_addRisk, State.chan_setChan]
    exact ⟨rfl, rfl, decide_eq_true_iff, rfl⟩
  · intro d s a u v
    have hrow : s.rowOf a = ((s.rowOf a).1, (s.rowOf a).2) := rfl
    have heq (e : EccFind) : exec (.dramPatrolScrub d e) s = .next (v.found a e) := congrArg Host.Outcome.next (patrolScrub_eq rfl hrow e)
    obtain ⟨h1, h2, h3⟩ := patrolScrub_spec (s := s) (v := v) rfl rfl rfl hrow
    have hmiss (w : BitVec 512) : v.found a (.missed w) = { v with mem := memPut s.mem a (toLe 64 w.toNat) } := rfl
    clear_value a v
    exact ⟨heq .clean, fun w => ⟨(heq (.missed w)).trans (congrArg Host.Outcome.next (hmiss w)), _, heq (.miscorrected w), h1 w⟩,
      ⟨_, heq .corrected, h2⟩, _, heq .uncorrectable, h3⟩
  · intro d ch s
    exact ⟨fun h => congrArg Host.Outcome.next (if_pos h), fun h => congrArg Host.Outcome.next (if_neg h), rfl⟩
  · intro p i s d r hd hr hb
    have hspec := regionDrained_spec hd hr hb
    refine ⟨_, rfl, ?_, ?_, fun hk => ?_, fun pr pw px hk => ?_⟩
    · refine (congrArg State.mem hspec :).trans ?_
      cases d.keep <;> rfl
    · refine (congrArg State.drains hspec :).trans ?_
      cases d.keep <;> rfl
    · rw [hk] at hspec
      exact (congrArg State.regions hspec :)
    · rw [hk] at hspec
      exact (congrArg State.regions hspec :)

end Sys2Proof.Machine
end

section
/-!
Weight windows: positions, layers, rung requests and the twin's copy (R223, R225, R226, R253, R363).
-/

namespace Sys2Proof.Machine

/-! ### Layers placed and signalled -/

/-- A state without semaphores, partitions and mailboxes. -/
def State.sansSignals (s : State) : State := { s with sems := [], parts := [], mbxs := [] }

/-- A signal by 1 to one semaphore index on each of several dies. -/
def State.signalAll (s : State) (p i : Nat) (dies : List Nat) : State := dies.foldl (fun s d => s.signalOr p d i 1) s

section
variable (s : State) (p i : Nat) (dies : List Nat)

theorem State.signalAll_sansSignals : (s.signalAll p i dies).sansSignals = s.sansSignals :=
  foldl_keeps State.sansSignals (fun s d => s.signalOr p d i 1) (fun u d => (congrArg State.sansSignals (u.signalOr_only p d i 1) :)) dies s

theorem signalAll_sems_congr {s u : State} (h : s.sems = u.sems) : (s.signalAll p i dies).sems = (u.signalAll p i dies).sems := by
  unfold State.signalAll
  induction dies generalizing s u with
  | nil => exact h
  | cons d dies ih => exact ih (signalOr_sems_congr h p d i 1)

/-- Placing a layer touches memory and the partition's regulators. -/
theorem State.placeLayer_sansMem (bs : List Byte) (slots : List Nat) : (s.placeLayer p bs slots).sansMem = s.sansMem :=
  foldl_keeps State.sansMem (fun s a => s.write a (relocate bs a)) (fun u a => (congrArg State.sansMem (u.write_only a (relocate bs a)) :)) slots s

theorem placeLayer_mem_congr {s u : State} (h : s.mem = u.mem) (bs : List Byte) (slots : List Nat) :
    (s.placeLayer p bs slots).mem = (slots.foldl (fun s a => s.write a (relocate bs a)) u).mem := by
  show (slots.foldl (fun s a => s.write a (relocate bs a)) s).mem = _
  induction slots generalizing s u with
  | nil => exact h
  | cons a slots ih => exact ih (write_mem_congr h ..)

end

/-! ### The streamer turns to its next image -/

/-- A state but for the flash store and the count of occasions. -/
def State.sansFlash (s : State) : State := { s with fresh := 0, flash := State.reset.flash }

theorem State.turnWindow_sansFlash (s : State) (w : Nat) : (s.turnWindow w).sansFlash = s.sansFlash := by
  unfold turnWindow
  dsimp only
  split
  · split <;> rfl
  · rfl

theorem State.turnWindow_reads {s : State} {w : Nat} {v : Wwin} (hv : s.wwin w = some v) (hr : v.run = true) (hn : v.reading.isSome = true) :
    ∃ r, (s.turnWindow w).flash.reads = s.flash.reads.filter (fun q => q.for_ ≠ .window w) ++ [r] ∧ r.for_ = .window w := by
  have hv' : (s.endRead (.window w)).wwin w = some v := hv
  unfold turnWindow
  dsimp only
  rw [hv']
  dsimp only
  rw [if_pos ⟨hr, Or.inl hn⟩]
  exact ⟨_, rfl, rfl⟩

theorem State.settleStop_open {s : State} {w : Nat} {v : Wwin} (hv : s.wwin w = some v) (hs : v.stop = none) : s.settleStop w = s := by
  unfold settleStop
  simp only [hv, hs]

section
variable {w : Nat} {s : State} {v : Wwin}

theorem wwPositionRead_spec (hv : s.wwin w = some v) (hr : v.run = true) (hn : v.reading = none) (hs : v.stop = none)
    (hg : v.rung = [] ∨ v.rungBusy = true) (h1 : s.regOpen v.part 1 = true) (h0 : s.regOpen v.part 0 = true)
    (hf : ∀ d ∈ v.dies, v.n / v.nslot ≤ (s.sem d (v.free + v.n % v.nslot)).value.toNat) :
    (wwPositionRead w s).mem = s.mem ∧ (wwPositionRead w s).sems = s.sems ∧
      (wwPositionRead w s).wwin w = some { v with reading := some v.n, met := false } ∧
      ∃ r, (wwPositionRead w s).flash.reads = s.flash.reads.filter (fun q => q.for_ ≠ .window w) ++ [r] ∧ r.for_ = .window w := by
  have hgo : ¬((!v.run) = true ∨ v.reading.isSome = true ∨ v.stop.isSome = true ∨ (v.rung ≠ [] ∧ (!v.rungBusy) = true) ∨ (!s.regOpen v.part 1) = true ∨
      (!s.regOpen v.part 0) = true ∨ (!v.dies.all (fun d => decide (v.n / v.nslot ≤ (s.sem d (v.free + v.slot v.n)).value.toNat))) = true) := by
    have hall : v.dies.all (fun d => decide (v.n / v.nslot ≤ (s.sem d (v.free + v.slot v.n)).value.toNat)) = true := by
      rw [List.all_eq_true]
      exact fun d hd => decide_eq_true (hf d hd)
    rw [hr, hn, hs, h1, h0, hall]
    rcases hg with hg | hg
    · simp [hg]
    · simp [hg]
  obtain ⟨n, heq⟩ : ∃ n, wwPositionRead w s = (((s.charge v.part 1 n).chargeLines v.part [(v.list + 4 * (v.n % v.nlayer), 4)]).updWwin w (fun v =>
      { v with reading := some v.n, met := false })).turnWindow w := by
    unfold wwPositionRead
    simp only [hv]
    rw [if_neg hgo]
    exact ⟨_, rfl⟩
  let u := ((s.charge v.part 1 n).chargeLines v.part [(v.list + 4 * (v.n % v.nlayer), 4)]).updWwin w (fun v => { v with reading := some v.n, met := false })
  have hu : u.wwin w = some { v with reading := some v.n, met := false } := oget_oupd_self hv _
  have ht := u.turnWindow_sansFlash w
  rw [heq]
  exact ⟨(congrArg State.mem ht :), (congrArg State.sems ht :), (congrArg (fun t : State => t.wwin w) ht :).trans hu, State.turnWindow_reads hu hr rfl⟩

theorem layerReady_eq {n : Nat} {bs : List Byte} (hv : s.wwin w = some v) (hn : v.reading = some n) (hst : s.flash.steady (.window w) = true)
    (h0 : s.regOpen v.part 0 = true) (hi : s.layerImage v (s.listEntry v n).1 (s.listEntry v n).2 = (bs, true)) :
    layerReady w s = layerArrives w v n bs s := by
  unfold layerReady
  simp only [hv, hn]
  rw [if_neg (by simp [hst, h0]), hi]
  rfl

theorem layerArrives_spec (n : Nat) (bs : List Byte) (hv : s.wwin w = some v) (hs : v.stop = none) :
    (∃ v', (layerArrives w v n bs s).wwin w = some v' ∧ v'.n = n + 1 ∧ v'.reading = none ∧ v'.run = v.run) ∧
      (layerArrives w v n bs s).mem = ((v.homes.map (fun h => v.slotAt h (v.slot n))).foldl (fun s a => s.write a (relocate bs a)) s).mem ∧
      (layerArrives w v n bs s).sems = (s.signalAll v.part (v.rdy + v.slot n) v.dies).sems := by
  let placed := s.placeLayer v.part bs (v.homes.map (fun h => v.slotAt h (v.slot n)))
  let told := placed.signalAll v.part (v.rdy + v.slot n) v.dies
  let late := v.dies.any (fun d => placed.waitedOn d (v.rdy + v.slot n))
  let done (v : Wwin) : Wwin := { v with
    n := n + 1, reading := none, late := if late then v.late + 1 else v.late, rlate := if late ∧ v.met then v.rlate + 1 else v.rlate }
  have hplaced : placed.sansMem = s.sansMem := s.placeLayer_sansMem v.part bs _
  have htold : told.sansSignals = placed.sansSignals := placed.signalAll_sansSignals ..
  have hw : told.wwin w = some v := (congrArg (fun t : State => t.wwin w) htold :).trans ((congrArg (fun t : State => t.wwin w) hplaced :).trans hv)
  have hw' : (told.updWwin w done).wwin w = some (done v) := oget_oupd_self hw done
  have heq : layerArrives w v n bs s = (told.updWwin w done).turnWindow w := congrArg (State.turnWindow · w) (State.settleStop_open hw' hs)
  have hturn := (told.updWwin w done).turnWindow_sansFlash w
  rw [heq]
  refine ⟨⟨done v, (congrArg (fun t : State => t.wwin w) hturn :).trans hw', rfl, rfl, rfl⟩, ?_, ?_⟩
  · exact (congrArg State.mem hturn :).trans ((congrArg State.mem htold :).trans (placeLayer_mem_congr v.part rfl bs _))
  · exact (congrArg State.sems hturn :).trans (signalAll_sems_congr _ _ _ (congrArg State.sems hplaced :))

theorem rungReady_eq {e : Nat × Nat} {rest : List (Nat × Nat)} {bs : List Byte} (hv : s.wwin w = some v) (hg : v.rung = e :: rest)
    (hb : v.rungBusy = false) (hr : v.run = true) (hst : s.flash.steady (.window w) = true) (h1 : s.regOpen v.part 1 = true)
    (h0 : s.regOpen v.part 0 = true) (hi : s.layerImage v e.1 e.2 = (bs, true)) :
    rungReady w s = rungArrives w v bs (s.charge v.part 1 bs.length) := by
  unfold rungReady
  simp only [hv, hg]
  rw [if_neg (by simp [hb, hr, hst, h1, h0]), hi]
  rfl

theorem rungArrives_spec (bs : List Byte) (hv : s.wwin w = some v) :
    (rungArrives w v bs s).wwin w = some { v with rung := v.rung.tail, rungBusy := true } ∧
      (rungArrives w v bs s).mem = (v.sides.foldl (fun (u : State) a => u.write a (relocate bs a)) s).mem ∧
      (rungArrives w v bs s).sems = (s.signalAll v.part v.rsem v.dies).sems := by
  let placed := s.placeLayer v.part bs v.sides
  let told := placed.signalAll v.part v.rsem v.dies
  let done (v : Wwin) : Wwin := { v with rung := v.rung.tail, rungBusy := true }
  have hplaced : placed.sansMem = s.sansMem := s.placeLayer_sansMem v.part bs _
  have htold : told.sansSignals = placed.sansSignals := placed.signalAll_sansSignals ..
  have hw : told.wwin w = some v := (congrArg (fun t : State => t.wwin w) htold :).trans ((congrArg (fun t : State => t.wwin w) hplaced :).trans hv)
  have hw' : (told.updWwin w done).wwin w = some (done v) := oget_oupd_self hw done
  have hturn : (rungArrives w v bs s).sansFlash = (told.updWwin w done).sansFlash := (told.updWwin w done).turnWindow_sansFlash w
  refine ⟨(congrArg (fun t : State => t.wwin w) hturn :).trans hw', ?_, ?_⟩
  · exact (congrArg State.mem hturn :).trans ((congrArg State.mem htold :).trans (placeLayer_mem_congr v.part rfl bs _))
  · exact (congrArg State.sems hturn :).trans (signalAll_sems_congr _ _ _ (congrArg State.sems hplaced :))

/-- The flash store and the package once the twin's copy was written to a new location. -/
def State.refetched (s : State) (n k o : Nat) (image : List Byte) : State :=
  (s.updFlash (fun f => (f.program (.wpkg n) k).journal)).updWpkg n (fun t => { t with image := imagePut t.image o image })

theorem weightRefetch_eq {p : Wpkg} {o n crc : Nat} {image : List Byte} (hv : s.wwin w = some v) (hp : s.paired = true)
    (hr : s.flash.reads.any (fun r => r.for_ = .window w && r.rung == 18) = true) (hk : oget s.wpkgs v.pkg = some p)
    (hi : p.rungImage (s.lostImage v).1 (s.lostImage v).2 = some (o, n, crc)) (hl : image.length = n) :
    weightRefetch w image s = (s.refetched v.pkg n o image).nextRead { for_ := .window w, rung := 18, blk := 0, own := some (.wpkg v.pkg) } := by
  have hbind : (oget s.wpkgs v.pkg).bind (fun t => t.rungImage (s.lostImage v).1 (s.lostImage v).2) = some (o, n, crc) := by
    rw [hk]
    exact hi
  unfold weightRefetch
  simp only [hv]
  rw [if_neg (by rw [hp, hr]; decide), hbind]
  dsimp only
  rw [if_neg (by simp [hl])]
  rfl

/-- A block whose die has not failed is read from rung 0, another from rung 17. -/
theorem Flash.firstRung_ne (f : Flash) (b : Nat) : f.firstRung b ≠ 18 := by
  unfold Flash.firstRung
  split <;> decide

end

/-- Settles O36: a window's reads, layers and rungs by the streamer's own steps; the twin's copy is programmed and read again. -/
theorem weightWindows : Obligations.WeightWindows := by
  unfold Obligations.WeightWindows
  intro w s v hv
  refine ⟨?_, ?_, ?_, ?_⟩
  · intro hr hn hs hg h1 h0 hf
    obtain ⟨hm, hse, hw, r, hreads, hfor⟩ := wwPositionRead_spec hv hr hn hs hg h1 h0 hf
    exact ⟨_, r, rfl, hm, hse, hw, hreads, hfor⟩
  · intro n bs hn hs hst h0 hi
    obtain ⟨⟨v', hw, h1, h2, h3⟩, hm, hse⟩ := layerArrives_spec n bs hv hs
    refine ⟨_, v', congrArg Host.Outcome.next (layerReady_eq hv hn hst h0 hi), hw, h1, h2, h3, hm.trans ?_, hse⟩
    rw [List.foldl_map]
    rfl
  · intro e rest bs hg hb hr hst h1 h0 hi
    obtain ⟨hw, hm, hse⟩ := rungArrives_spec (s := s.charge v.part 1 bs.length) bs hv
    refine ⟨_, congrArg Host.Outcome.next (rungReady_eq hv hg hb hr hst h1 h0 hi), ?_, ?_, ?_⟩
    · rw [hw, hg]
      rfl
    · have hplace : ∀ u : State, (s.charge v.part 1 bs.length).mem = u.mem →
          ((s.charge v.part 1 bs.length).placeLayer v.part bs v.sides).mem = (v.sides.foldl (fun (u : State) a => u.write a (relocate bs a)) u).mem :=
        fun _ h => placeLayer_mem_congr v.part h bs v.sides
      exact hm.trans ((hplace _ rfl).symm.trans (hplace s rfl))
    · exact hse.trans (signalAll_sems_congr _ _ _ rfl)
  · intro p o n crc image hp hr hk hi hl
    let u := s.refetched v.pkg n o image
    refine ⟨_, _, congrArg Host.Outcome.next (weightRefetch_eq hv hp hr hk hi hl), oget_oupd_self hk _, rfl, rfl, rfl, ?_⟩
    intro r hmem hfor
    obtain ⟨x, hx, rfl⟩ := List.mem_map.mp hmem
    split
    next => exact u.flash.firstRung_ne _
    next hne =>
      rw [if_neg hne] at hfor
      exact absurd hfor hne

end Sys2Proof.Machine
end

section
/-!
Mailbox registers and the firmware's turn (R256, R257, R261): a turn also ends a DOM_LEAVE that waited (R321).
-/

namespace Sys2Proof.Machine

/-- Mailbox 0 with nothing to accept, and a DOM_LEAVE that has started and waits for the domain's work to end. -/
def leavingState : State := Tests.sJournal (Tests.cmd0 0x0801 [] true)

/-- A turn of mailbox 0 completes the DOM_LEAVE: no domain is left to wait for. -/
theorem turn_ends_leave : (turn leavingState).journal.length = 0 := by decide +kernel

theorem leaving_turn_due : leavingState.nextTurn = some 0 ∧ (leavingState.mbx 0).cmdHead = (leavingState.mbx 0).cmdTail ∧
    (∀ c ∈ leavingState.journal, c.m = 0 → c.started = true) ∧ leavingState.journal.length = 1 := by decide +kernel

/-- Refutes O38: a turn first completes a started DOM_LEAVE whose work has ended (R321), so that a turn that finds nothing to accept and
nothing to start need not leave the state as it was. -/
theorem not_mailboxRegisters : ¬ Obligations.MailboxRegisters := by
  unfold Obligations.MailboxRegisters
  intro h
  obtain ⟨-, -, -, -, hidle, -⟩ := h.1 0 leavingState
  obtain ⟨hnext, hring, hstarted, hlen⟩ := leaving_turn_due
  have heq : turn leavingState = { leavingState with turn := 1 } := Host.Outcome.next.inj (hidle hnext hring hstarted)
  have hzero := turn_ends_leave
  rw [heq] at hzero
  exact absurd (hzero.symm.trans hlen) (by decide)

end Sys2Proof.Machine
end

section
/-!
Answers of commands (R260, R261, R263) and the session commands (R267 to R271, R274, R275).
-/

namespace Sys2Proof.Machine

/-! ### A command is answered, goes on, or waits -/

section
variable {i : Instr} {s : State} {m code : Nat} {h : CmdHdr} {ps : List W64} {handler : Handler} {f : State → State}

theorem Replies.of_handler {st r0 r1 : Nat} (ht : Takes s m h code ps) (hc : code ≠ 4) (he : exec i s = .next (runCmd m h code ps handler s))
    (hh : handler (s.newCmd m h code ps) (s.begun m h code ps) = (f (s.begun m h code ps), .done st r0 r1)) :
    Replies i s m h code ps f st r0 r1 := by
  unfold Replies
  rw [he, runCmd_takes ht hc, hh]
  rfl

theorem GoesOn.of_handler (ht : Takes s m h code ps) (hc : code ≠ 4) (he : exec i s = .next (runCmd m h code ps handler s))
    (hh : handler (s.newCmd m h code ps) (s.begun m h code ps) = (f (s.begun m h code ps), .bg)) : GoesOn i s m h code ps f := by
  unfold GoesOn
  rw [he, runCmd_takes ht hc, hh]
  rfl

theorem Waits.of_handler (ht : Takes s m h code ps) (hc : code ≠ 4) (he : exec i s = .next (runCmd m h code ps handler s))
    (hh : handler (s.newCmd m h code ps) (s.begun m h code ps) = (f (s.begun m h code ps), .wait)) : Waits i s m h code ps f := by
  unfold Waits
  rw [he, runCmd_takes ht hc, hh]
  rfl

end

/-! ### Completion (R260, R261) -/

/-- A completion that no ABORT waits for. -/
theorem State.complete_unwatched {s : State} {c : Cmd} (hd : c.discard = false) (hw : c.watch = []) (st : Nat) (d : Bool) (r0 r1 : Nat) :
    s.complete c st d r0 r1 = State.due { s with journal := s.journal.filter (fun d => !(d.m == c.m && d.slot == c.slot && d.tag == c.tag)) } c.m
      (({ c with sess := if c.code = 1 ∧ c.sess.isNone then (s.mbx c.m).session else c.sess } : Cmd).entry st d r0 r1) := by
  unfold complete
  by_cases h : c.code = 1 ∧ c.sess.isNone = true
  · simp only [h, and_self, if_true, hd, Bool.false_eq_true, if_false, hw, List.foldl_nil]
    rfl
  · simp only [h, if_false, hd, Bool.false_eq_true, hw, List.foldl_nil]
    rfl

theorem cmdEntry_eq (s : State) (m : Nat) (h : CmdHdr) (code : Nat) (ps : List W64) (q : Option Session) (st r0 r1 : Nat) :
    ({ s.newCmd m h code ps with sess := q } : Cmd).entry st false r0 r1 = cmdEntry q h code st r0 r1 := rfl

/-- The journal without the command that a mailbox's only entry is. -/
theorem begun_journal_filter {s : State} {m code : Nat} {h : CmdHdr} {ps : List W64} (ha : ∀ c ∈ s.journal, c.m ≠ m) :
    (s.begun m h code ps).journal.filter (fun d => !(d.m == m && d.slot == h.slot.toNat && d.tag == h.tag.toNat)) = s.journal := by
  rw [show (s.begun m h code ps).journal = s.journal ++ [s.newCmd m h code ps] from rfl, List.filter_append]
  have hold : s.journal.filter (fun d => !(d.m == m && d.slot == h.slot.toNat && d.tag == h.tag.toNat)) = s.journal :=
    List.filter_eq_self.mpr fun c hc => by simp [ha c hc]
  have hnew : [s.newCmd m h code ps].filter (fun d => !(d.m == m && d.slot == h.slot.toNat && d.tag == h.tag.toNat)) = [] := by
    simp [State.newCmd]
  rw [hold, hnew, List.append_nil]

/-- No command of a mailbox can start where none stands in the journal. -/
theorem startable_none {js : List Cmd} {m : Nat} (ha : ∀ c ∈ js, c.m ≠ m) : startable js m = none := by
  have hf : js.filter (fun c => decide (c.m = m)) = [] := List.filter_eq_nil_iff.mpr fun c hc => by simpa using ha c hc
  unfold startable
  rw [hf]
  rfl

/-- Settles O37: the only entry of a mailbox leaves the journal with its completion; without a session acceptance refuses it. -/
theorem commandAnswered : Obligations.CommandAnswered := by
  unfold Obligations.CommandAnswered
  refine ⟨?_, ?_⟩
  · intro s t m code st r0 r1 h ps ht hj
    rw [State.complete_unwatched rfl rfl, hj]
    have hjf := begun_journal_filter (code := code) (h := h) (ps := ps) ht.alone
    have hsess : (if code = 1 ∧ (s.mbx m).session.isNone = true then (t.mbx m).session else (s.mbx m).session) =
        if code = 1 ∧ (s.mbx m).session = none then (t.mbx m).session else (s.mbx m).session := by
      simp only [Option.isNone_iff_eq_none]
    rw [← hsess]
    exact congrArg (fun j => State.due { t with journal := j } m (cmdEntry _ h code st r0 r1)) hjf
  · intro s m h hacc hused htag hses halone
    have href : ({ slot := h.slot.toNat, code := 6, wait := h.wait, irq := h.irq, tag := h.tag.toNat, ps := [], reserved := false } :
        CmdEntry).refusal (s.mbx m).session (s.tagUsed m h.tag.toNat) = some 0x12 := by
      rw [hses, hused]
      unfold CmdEntry.refusal
      simp [cmdRow, cmdRows, htag]
    refine congrArg Host.Outcome.next ?_
    unfold runCmd
    rw [if_neg (by simp [hacc])]
    unfold State.accept
    dsimp only
    rw [href]
    dsimp only
    rw [startable_none (m := m) (js := (State.passHead (s.due m _) m _).journal) halone, hses]
    rfl

/-! ### Session commands -/

theorem withResp_ok {c : Cmd} {s : State} {j n : Nat} {g : Cmd → State → List Byte × Reply} (hb : s.blockRefusal c.part (c.w j) n false true = none) :
    withResp j n g c s = (s.awWrite c.part (c.w j) (g c s).1, (g c s).2) := by
  unfold withResp
  rw [hb]

theorem withPb_ok {c : Cmd} {s : State} {j n : Nat} {g : Cmd → List Byte → State → State × Reply}
    (hb : s.blockRefusal c.part (c.w j) n true false = none) : withPb j n g c s = g c (s.awBytes c.part (c.w j) n) s := by
  unfold withPb
  rw [hb]

theorem hGetInfo_ok {c : Cmd} {s : State} {q : Session} (hq : c.sess = some q) (hb : s.blockRefusal c.part (c.w 0) 64 false true = none) :
    hGetInfo c s = (s.awWrite c.part (c.w 0) (s.infoBlock c.m q), ok) := by
  unfold hGetInfo
  rw [withResp_ok hb, hq]

theorem hOpenSession_ok {c : Cmd} {s : State} {a b d e : Nat} (h1 : badRange (c.p 1) = false) (h2 : badRange (c.p 2) = false)
    (h3 : badRange (c.p 3) = false) (h4 : badRange (c.p 4) = false) (hb : s.blockRefusal c.part (c.w 0) 64 false true = none)
    (hv1 : chooseVersion [0x0100, 0x0101, 0x0102] (c.p 1) = some a) (hv2 : chooseVersion [0x0100, 0x0101] (c.p 2) = some b)
    (hv3 : chooseVersion [0x0100] (c.p 3) = some d) (hv4 : chooseVersion [0x0100, 0x0101] (c.p 4) = some e) :
    let q : Session := { mbxVer := a, imgVer := b, pkgVer := d, snapVer := e, feats := c.w 5 &&& 0x3F }
    hOpenSession c s = ((s.awWrite c.part (c.w 0) (s.infoBlock c.m q)).updMbx c.m (fun b => { b with session := some q }), ok) := by
  unfold hOpenSession
  rw [h1, h2, h3, h4, if_neg (by decide), hb, hv1, hv2, hv3, hv4]

/-- An ABORT that is accepted for the only command of the journal, which has not started. -/
theorem abort_unstarted {m : Nat} {h : CmdHdr} {s : State} {target : W64} {c : Cmd} (hacc : s.canAccept m = true)
    (hused : s.tagUsed m h.tag.toNat = false) (htag : h.tag.toNat ≠ 0xFFFFFFFF) (hwait : h.wait = false) (hses : (s.mbx m).session.isSome = true)
    (hlt : target.toNat < 2 ^ 32) (hj : s.journal = [c]) (hm : c.m = m) (ht : c.tag = target.toNat) (hst : c.started = false) :
    ∃ w : Watch, w.tag = h.tag.toNat ∧
      abortEntryRun m h target s = (s.complete { c with watch := c.watch ++ [w] } 3 false 0 0).passHead m h.slot.toNat := by
  let e : CmdEntry := { slot := h.slot.toNat, code := 4, wait := h.wait, irq := h.irq, tag := h.tag.toNat, ps := [target], reserved := false }
  have hnone : (s.mbx m).session.isNone = false := by
    rw [← Option.not_isSome, hses]
    rfl
  have href : e.refusal (s.mbx m).session (s.tagUsed m e.tag) = none := by
    rw [show s.tagUsed m e.tag = false from hused]
    unfold CmdEntry.refusal
    simp [e, cmdRow, cmdRows, htag, hwait, hnone]
  have hp : (e.toCmd m (s.mbx m).session).p 0 = target.toNat := rfl
  have hfind : s.journal.find? (fun d => d.m = (e.toCmd m (s.mbx m).session).m ∧ d.tag = target.toNat) = some c := by
    rw [hj, List.find?_cons]
    simp [hm, ht, CmdEntry.toCmd, e]
  refine ⟨{ tag := h.tag.toNat, slot := h.slot.toNat, irq := h.irq, sess := (s.mbx m).session, replayed := false }, rfl, ?_⟩
  unfold abortEntryRun
  rw [if_neg (by simp [hacc])]
  unfold State.accept
  dsimp only
  rw [href]
  dsimp only
  rw [if_pos rfl, hp, if_neg (Nat.not_le.mpr hlt)]
  unfold State.abortCmd
  rw [hfind]
  dsimp only
  rw [if_pos (by rw [hst]; rfl)]
  rfl

/-- An aborted command leaves the journal with two completions: its own and the ABORT's. -/
theorem complete_watched {s : State} {c : Cmd} {w : Watch} (hd : c.discard = false) (hl : c.late = false) (hw : c.watch = []) :
    ∃ e1 e2 : CmpEntry, (s.complete { c with watch := c.watch ++ [w] } 3 false 0 0).journal =
        s.journal.filter (fun d => !(d.m == c.m && d.slot == c.slot && d.tag == c.tag)) ∧
      ((s.complete { c with watch := c.watch ++ [w] } 3 false 0 0).mbx c.m).due = (s.mbx c.m).due ++ [e1, e2] ∧
      e1.tag = c.tag ∧ e1.status = 3 ∧ e1.code = c.code ∧ e2 = abortEntry w 0 0 := by
  let d : Cmd := if c.code = 1 ∧ c.sess.isNone then { c with sess := (s.mbx c.m).session, watch := [w] } else { c with watch := [w] }
  have hdm : d.m = c.m ∧ d.watch = [w] ∧ d.discard = false ∧ d.late = false ∧ d.tag = c.tag ∧ d.code = c.code := by
    by_cases h : c.code = 1 ∧ c.sess.isNone = true
    · rw [show d = _ from if_pos h]
      exact ⟨rfl, rfl, hd, hl, rfl, rfl⟩
    · rw [show d = _ from if_neg h]
      exact ⟨rfl, rfl, hd, hl, rfl, rfl⟩
  obtain ⟨h1, h2, h3, h4, h5, h6⟩ := hdm
  let u : State := { s with journal := s.journal.filter (fun e => !(e.m == c.m && e.slot == c.slot && e.tag == c.tag)) }
  have heq : s.complete { c with watch := c.watch ++ [w] } 3 false 0 0 = (u.due c.m (d.entry 3 false 0 0)).due c.m (abortEntry w 0 0) := by
    have hgo : s.complete { c with watch := c.watch ++ [w] } 3 false 0 0 =
        if d.discard then u else d.watch.foldl (fun s w => s.due d.m (abortEntry w 0 (if 3 = 3 then 0 else 1))) (u.due d.m (d.entry 3 false 0 0)) := by
      rw [hw]
      rfl
    rw [hgo, h3, h2, h1]
    rfl
  have hmbx : ∀ (v : State) (x : CmpEntry), ((v.due c.m x).mbx c.m) = { v.mbx c.m with due := (v.mbx c.m).due ++ [x] } := fun v x => tget_tput_self ..
  refine ⟨d.entry 3 false 0 0, abortEntry w 0 0, by rw [heq]; rfl, ?_, h5, ?_, h6, rfl⟩
  · rw [heq, hmbx, hmbx, List.append_assoc]
    rfl
  · exact if_neg (by rw [h4]; simp)

/-- Settles O39: each session command by its handler; an ABORT of the one command that has not started completes both. -/
theorem sessionCommands : Obligations.SessionCommands := by
  unfold Obligations.SessionCommands
  intro m h s
  refine ⟨?_, ?_, ?_, ?_, ?_, ?_⟩
  · exact fun ht => Replies.of_handler (handler := hNop) ht (by decide) rfl rfl
  · exact fun ht => Replies.of_handler (handler := hFence) ht (by decide) rfl rfl
  · exact fun ht => Replies.of_handler (handler := hCloseSession) ht (by decide) rfl rfl
  · intro resp q ht hq hb
    exact Replies.of_handler (handler := hGetInfo) ht (by decide) rfl (hGetInfo_ok hq hb)
  · intro resp mb im pk sn ft a b d e ht hb h1 h2 h3 h4 hv1 hv2 hv3 hv4 q
    exact Replies.of_handler (handler := hOpenSession) ht (by decide) rfl (hOpenSession_ok h1 h2 h3 h4 hb hv1 hv2 hv3 hv4)
  · intro target c hacc hused htag hwait hses hlt hj hm ht hst hd hl hw
    obtain ⟨w, hwt, heq⟩ := abort_unstarted hacc hused htag hwait hses hlt hj hm ht hst
    obtain ⟨e1, e2, hjn, hdue, he1, he2, he3, rfl⟩ := complete_watched (s := s) (w := w) hd hl hw
    let t := s.complete { c with watch := c.watch ++ [w] } 3 false 0 0
    have hmem : (t.passHead m h.slot.toNat).mem = s.mem := (congrArg State.mem (State.complete_sansMail ..) :)
    have hjt : t.journal = [] := by
      rw [hjn, hj]
      simp
    have hdt : ((t.passHead m h.slot.toNat).mbx m).due = (t.mbx m).due := by
      rw [show (t.passHead m h.slot.toNat).mbx m = _ from tget_tput_self ..]
      dsimp only
      split <;> rfl
    have hdue' : (t.mbx m).due = (s.mbx m).due ++ [e1, abortEntry w 0 0] := by
      rw [← hm]
      exact hdue
    exact ⟨t.passHead m h.slot.toNat, e1, abortEntry w 0 0, congrArg Host.Outcome.next heq, hjt, hdt.trans hdue', he1, he2, he3, hwt, rfl, rfl, rfl, hmem⟩

end Sys2Proof.Machine
end

section
/-!
Region commands (R200, R212, R214, R215).
-/

namespace Sys2Proof.Machine

/-! ### Zeroed memory -/

/-- A table without the entries of some keys. -/
theorem tget_filter_key {α : Type} (d : Nat → α) (f : Nat → Bool) (t : Tab α) (k : Nat) :
    tget d (t.filter (fun e => f e.1)) k = if f k then tget d t k else d k := by
  induction t with
  | nil => exact (ite_self _).symm
  | cons e t ih =>
    obtain ⟨j, v⟩ := e
    rw [List.filter_cons]
    by_cases hf : f j = true
    · rw [if_pos hf]
      by_cases hk : k = j
      · subst hk
        rw [if_pos hf]
        exact (if_pos rfl).trans (if_pos rfl).symm
      · rw [show tget d ((j, v) :: t.filter (fun e => f e.1)) k = _ from if_neg hk, ih]
        rw [show tget d ((j, v) :: t) k = _ from if_neg hk]
    · rw [if_neg hf, ih]
      by_cases hk : k = j
      · subst hk
        rw [if_neg hf, if_neg hf]
      · rw [show tget d ((j, v) :: t) k = _ from if_neg hk]

theorem State.rawByte_zero (s : State) (a n b : Nat) : (s.zero a n).rawByte b = if a ≤ b ∧ b < a + n then Memory.dflt b else s.rawByte b := by
  refine (tget_filter_key Memory.dflt (fun k => !(decide (a ≤ k ∧ k < a + n))) s.mem b).trans ?_
  by_cases h : a ≤ b ∧ b < a + n
  · rw [if_neg (by simp [h]), if_pos h]
  · rw [if_pos (by rw [decide_eq_false h]; rfl), if_neg h]
    rfl

/-- Memory that was never written reads 0 in DRAM. -/
theorem Memory.dflt_dram {a : Nat} (h : a < windowBase) : Memory.dflt a = 0 := by
  have hw : windowCore a = none := if_neg fun hc => absurd hc.1 (Nat.not_le.mpr h)
  unfold Memory.dflt
  rw [hw]
  rfl

/-! ### REGION_CREATE (R200, R214) -/

theorem regionRefusal_range {s : State} {p i lo hi : Nat} {sh : Bool} {h : BitVec 3} (hr : s.regionRefusal p i lo hi sh h = none) : lo ≤ hi := by
  unfold State.regionRefusal at hr
  by_contra hlt
  rw [if_pos (Or.inr (Or.inl (Nat.not_le.mp hlt)))] at hr
  cases hr

/-- Taking granules changes memory and ownership; with none owned before, the whole range is zeroed. -/
theorem State.allocGranules_fresh {s : State} {p lo hi : Nat} (ho : s.ownedBy p = []) (save : Bool) :
    (s.allocGranules p lo hi save).mem = (s.zero (lo * granule) ((hi + 1 - lo) * granule)).mem := by
  unfold allocGranules
  rw [ho]
  rfl

theorem State.addRegion_regions (s : State) (p i : Nat) (r : Region) : (s.addRegion p i r).regions = tins s.regions (1024 * p + i) r := by
  have hz : ∀ (l : List (Nat × Nat)) (u : State), (l.foldl (fun s r => s.zero (r.1 * granule) ((r.2 + 1 - r.1) * granule)) u).regions = u.regions :=
    fun l u => foldl_keeps State.regions (fun (s : State) (r : Nat × Nat) => s.zero (r.1 * granule) ((r.2 + 1 - r.1) * granule)) (fun _ _ => rfl) l u
  unfold addRegion
  dsimp only
  split
  · exact congrArg (tins · (regionKey p i) r) (hz ..)
  · rfl

theorem State.addRegion_mem_other {s : State} {p i : Nat} {r : Region} (h : ¬(inOneDie r.baseg r.lastg = true ∧ (!r.shared) = true)) :
    (s.addRegion p i r).mem = s.mem := by
  unfold addRegion
  dsimp only
  rw [if_neg h]

theorem State.addRegion_rawByte {s : State} {p i : Nat} {r : Region} (hd : inOneDie r.baseg r.lastg = true) (hs : r.shared = false)
    (ho : s.ownedBy p = []) (hle : r.baseg ≤ r.lastg) (a : Nat) :
    (s.addRegion p i r).rawByte a = if r.baseg * granule ≤ a ∧ a < (r.lastg + 1) * granule then 0 else s.rawByte a := by
  have hmem : (s.addRegion p i r).mem = (s.zero (r.baseg * granule) ((r.lastg + 1 - r.baseg) * granule)).mem := by
    unfold addRegion
    dsimp only
    rw [if_pos ⟨hd, by rw [hs]; rfl⟩]
    exact State.allocGranules_fresh ho false
  have hend : r.baseg * granule + (r.lastg + 1 - r.baseg) * granule = (r.lastg + 1) * granule := by
    rw [← Nat.add_mul]
    congr 1
    omega
  refine (congrArg (tget Memory.dflt · a) hmem).trans ((s.rawByte_zero ..).trans ?_)
  rw [hend]
  by_cases h : r.baseg * granule ≤ a ∧ a < (r.lastg + 1) * granule
  · rw [if_pos h, if_pos h]
    refine Memory.dflt_dram (Nat.lt_of_lt_of_le h.2 ?_)
    have hlast : r.lastg < dramGranules := (of_decide_eq_true hd).1
    have hdram : (r.lastg + 1) * granule ≤ dramGranules * granule := Nat.mul_le_mul_right _ hlast
    exact hdram.trans (by decide)
  · rw [if_neg h, if_neg h]

theorem hRegionCreate_ok {c : Cmd} {s : State} (hf : c.p 3 < 2 ^ 7)
    (hr : s.regionRefusal c.part (c.p 0) (c.p 1) (c.p 2) (flag (c.p 3) 3) (BitVec.ofNat 3 (bits (c.p 3) 4 3)) = none) :
    hRegionCreate c s = (s.addRegion c.part (c.p 0) (mkRegion (flag (c.p 3) 0) (flag (c.p 3) 1) (flag (c.p 3) 2) (flag (c.p 3) 3) false
      (BitVec.ofNat 3 (bits (c.p 3) 4 3)) (c.p 1) (c.p 2)), ok) := by
  unfold hRegionCreate
  dsimp only
  rw [if_neg (Nat.not_le.mpr hf), hr]

/-! ### The other region commands (R212, R215) -/

theorem hRegionRemove_ok {c : Cmd} {s : State} {r : Region} (hr : s.region c.part (c.p 0) = some r) (ht : r.tobj = false) (hm : r.map = false)
    (hi : c.p 0 < 1024) : hRegionRemove c s = (s.beginDrain c (c.p 0) none, .wait) := by
  unfold hRegionRemove
  rw [hr]
  dsimp only
  rw [if_neg (by simp [ht, hm, hi])]

theorem hRegionPerm_added {c : Cmd} {s : State} {r : Region} (hf : c.p 1 < 8) (hr : s.region c.part (c.p 0) = some r) (hh : s.homeHeld r = false)
    (hm : r.map = false) (hi : c.p 0 < 1024) (h0 : r.r = true → bit (c.p 1) 0 = true) (h1 : r.w = true → bit (c.p 1) 1 = true)
    (h2 : r.x = true → bit (c.p 1) 2 = true) :
    hRegionPerm c s = ({ s with regions := tins s.regions (regionKey c.part (c.p 0)) { r with
      r := flag (c.p 1) 0, w := flag (c.p 1) 1, x := flag (c.p 1) 2 } }, ok) := by
  have hkeep : ∀ (b : Bool) (n : Nat), (b = true → bit (c.p 1) n = true) → (b && !flag (c.p 1) n) = false := by
    intro b n h
    cases b
    · rfl
    · simp [flag, h rfl]
  unfold hRegionPerm
  dsimp only
  rw [if_neg (Nat.not_le.mpr hf), hr]
  dsimp only
  rw [if_neg (by simp [hm, hh, hi]), hkeep r.r 0 h0, hkeep r.w 1 h1, hkeep r.x 2 h2]
  rfl

theorem hRegionQuery_ok {c : Cmd} {s : State} {r : Region} (hr : s.region c.part (c.p 0) = some r) (hi : c.p 0 < 1024) :
    hRegionQuery c s = (s, .done 0 r.word0 r.hotch) := by
  unfold hRegionQuery
  rw [hr]
  dsimp only
  rw [if_neg (Nat.not_le.mpr hi)]

theorem hRegionGrant_enable {c : Cmd} {s : State} (hle : c.p 0 ≤ c.p 1) (hlt : c.p 1 < 262144) (hq : c.p 2 < 16) (hne : c.p 2 ≠ c.part)
    (hp : (oget s.parts (c.p 2)).isSome = true) (hc : covers (s.ownedBy c.part) (c.p 0) (c.p 1) = true) (he : c.p 3 = 1) :
    hRegionGrant c s = ({ s with grants := s.grants ++ [{ baseg := c.p 0, lastg := c.p 1, owner := c.part, grantee := c.p 2 }] }, ok) := by
  have hgo : ¬(c.p 1 < c.p 0 ∨ 1 < c.p 3 ∨ 16 ≤ c.p 2 ∨ c.p 2 = c.part ∨ (oget s.parts (c.p 2)).isNone = true) := by
    rw [← Option.not_isSome, hp]
    simp
    omega
  unfold hRegionGrant
  dsimp only
  rw [if_neg hgo, if_neg (show ¬dramGranules ≤ c.p 1 by unfold dramGranules; omega), if_neg (by simp [hc]), if_pos he]

/-- Settles O40: each region command by its handler. -/
theorem regionCommands : Obligations.RegionCommands := by
  unfold Obligations.RegionCommands
  intro m h s
  refine ⟨?_, ?_, ?_, ?_, ?_⟩
  · intro i lo hi fl ht hf hr
    let r := mkRegion (bit fl.toNat 0) (bit fl.toNat 1) (bit fl.toNat 2) (bit fl.toNat 3) false (BitVec.ofNat 3 (bits fl.toNat 4 3)) lo.toNat hi.toNat
    let u := s.begun m h 0x0100 [i, lo, hi, fl]
    have hrep : Replies (.regionCreate m h i lo hi fl) s m h 0x0100 [i, lo, hi, fl] (fun u => u.addRegion m i.toNat r) 0 0 0 :=
      Replies.of_handler (handler := hRegionCreate) ht (by decide) rfl (hRegionCreate_ok hf hr)
    refine ⟨u.addRegion m i.toNat r, r, hrep, u.addRegion_regions m i.toNat r, rfl, rfl, rfl, rfl, rfl, rfl, fun ho => ?_, fun hd hs ho => ?_⟩
    · refine State.addRegion_mem_other (s := u) fun hc => ?_
      rcases ho with ho | ho
      · exact Bool.false_ne_true (ho.symm.trans hc.1)
      · have hshared : (!bit fl.toNat 3) = true := hc.2
        rw [ho] at hshared
        cases hshared
    · have hraw := State.addRegion_rawByte (s := u) (p := m) (i := i.toNat) (r := r) hd hs ho (regionRefusal_range hr)
      refine ⟨fun a h1 h2 => (hraw a).trans (if_pos ⟨h1, h2⟩), fun a ha => (hraw a).trans (if_neg fun hc => ?_)⟩
      rcases ha with ha | ha
      · exact absurd hc.1 (Nat.not_le.mpr ha)
      · exact absurd hc.2 (Nat.not_lt.mpr ha)
  · intro i r ht hr hto hm hi marks d
    exact Waits.of_handler (handler := hRegionRemove) ht (by decide) rfl (hRegionRemove_ok hr hto hm hi)
  · intro i fl r ht hr hh hm hi hf h0 h1 h2
    exact Replies.of_handler (handler := hRegionPerm) ht (by decide) rfl (hRegionPerm_added hf hr hh hm hi h0 h1 h2)
  · intro i r ht hr hi
    exact Replies.of_handler (handler := hRegionQuery) ht (by decide) rfl (hRegionQuery_ok hr hi)
  · intro lo hi q ht hle hlt hq hne hp hc
    exact Replies.of_handler (handler := hRegionGrant) ht (by decide) rfl (hRegionGrant_enable hle hlt hq hne hp hc rfl)

end Sys2Proof.Machine
end

section
/-!
Program images, the table load command and partitions (R176, R177, R276, R277, R281 to R283, R430, R464, R466).
-/

namespace Sys2Proof.Machine

/-! ### Images (R276, R277) -/

theorem State.nextImage_spec {s : State} {k : Nat} (h : s.nextImage = some k) : oget s.images k = none ∧ 1 ≤ k ∧ k < 65536 := by
  have hfree := List.find?_some h
  obtain ⟨i, -, rfl⟩ := List.mem_map.mp (List.mem_of_find?_eq_some h)
  have hlt : (s.lastImage + i) % 65535 < 65535 := Nat.mod_lt _ (by decide)
  exact ⟨Option.isNone_iff_eq_none.mp hfree, by omega, by omega⟩

/-- The state without its cores. -/
def State.sansCores (s : State) : State := { s with cores := [] }

theorem State.flushICaches_sansCores (s : State) (p : Nat) : (s.flushICaches p).sansCores = s.sansCores := by
  refine foldl_keeps sansCores _ (fun s c => ?_) _ s
  split <;> rfl

theorem updCore_cores_congr {s t : State} (h : s.cores = t.cores) (c : Nat) (f : Core → Core) : (s.updCore c f).cores = (t.updCore c f).cores := by
  unfold State.updCore State.setCore State.core
  rw [h]

/-- What emptying the caches makes of the cores is settled by the cores and the partitions. -/
theorem State.flushICaches_cores_congr {s t : State} (hc : s.cores = t.cores) (hp : s.parts = t.parts) (p : Nat) :
    (s.flushICaches p).cores = (t.flushICaches p).cores := by
  unfold flushICaches
  generalize List.range 128 = l
  induction l generalizing s t with
  | nil => exact hc
  | cons c l ih =>
    have hof : s.coreOf p c = t.coreOf p c := by
      unfold coreOf
      rw [hp]
    rw [List.foldl_cons, List.foldl_cons]
    refine ih ?_ ?_
    · rw [hof]
      split
      · exact updCore_cores_congr hc c _
      · exact hc
    · rw [hof]
      split
      · exact hp
      · exact hp

theorem hImgLoad_ok {c : Cmd} {s : State} (hn : c.p 1 ≠ 0) (hi : c.p 2 < 1024) (hb : s.awBlock c.part (c.w 0) (c.p 1) true false = true) :
    hImgLoad c s = (s, .bg) := by
  unfold hImgLoad
  rw [if_neg (by omega), if_neg (by rw [hb]; decide)]

theorem hImgUnload_ok {c : Cmd} {s : State} {i : Image} (hi : oget s.images (c.p 0) = some i) (hp : i.part = c.part) :
    hImgUnload c s = ({ s with images := tdrop s.images (c.p 0) }, ok) := by
  unfold hImgUnload State.imageOf
  rw [hi]
  dsimp only
  rw [if_pos hp]

theorem hImgQuery_ok {c : Cmd} {s : State} {i : Image} (hi : oget s.images (c.p 0) = some i) (hp : i.part = c.part)
    (hb : s.blockRefusal c.part (c.w 1) 64 false true = none) :
    hImgQuery c s = ({ s.awWrite c.part (c.w 1) ((List.range 64).map (Config.responseByte 0x0202 s.fresh)) with fresh := s.fresh + 1 }, ok) := by
  unfold hImgQuery State.imageOf
  rw [hi]
  dsimp only
  rw [if_pos hp]
  dsimp only
  unfold freeResp
  rw [hb]

/-- The state once an image's code is placed and its handle given. -/
def State.imagePlaced (s : State) (p k a : Nat) (img : Image) (code : List Byte) : State :=
  let s := (s.write a code).flushICaches p
  { s with images := tins s.images k { img with code := a }, lastImage := k }

theorem finImgLoad_ok {c : Cmd} {s : State} {q : Session} {img : Image} {code : List Byte} {r : Region} {k : Nat} (hq : c.sess = some q)
    (hc : s.checkImage c.part q.imgVer (s.awBytes c.part (c.w 0) (c.p 1)) = .ok (img, code)) (hr : s.region c.part (c.p 2) = some r)
    (hd : inOneDie r.baseg r.lastg = true) (hread : r.r = true) (hex : r.x = true) (hlen : code.length ≤ (r.lastg + 1 - r.baseg) * granule)
    (hk : s.nextImage = some k) : finImgLoad c s = (s.imagePlaced c.part k (r.baseg * granule) img code).complete c 0 false k 0 := by
  unfold finImgLoad
  rw [hq]
  dsimp only
  rw [hc]
  dsimp only
  rw [hr]
  dsimp only
  rw [if_neg (by rw [hd, hread, hex]; simpa using hlen), hk]
  rfl

theorem State.imagePlaced_spec (s : State) (p k a : Nat) (img : Image) (code : List Byte) :
    let u := s.imagePlaced p k a img code
    u.images = tins s.images k { img with code := a } ∧ u.lastImage = k ∧ u.mem = (s.write a code).mem ∧ u.journal = s.journal ∧
      u.cores = (s.flushICaches p).cores ∧ u.regions = (s.write a code).regions := by
  have hw := s.write_only a code
  have hf := (s.write a code).flushICaches_sansCores p
  have hframe : ∀ {u v : State}, u.sansCores = v.sansCores → u.images = v.images ∧ u.journal = v.journal ∧ u.mem = v.mem ∧ u.regions = v.regions :=
    fun h => ⟨(congrArg State.images h :), (congrArg State.journal h :), (congrArg State.mem h :), (congrArg State.regions h :)⟩
  obtain ⟨himg, hj, hmem, hreg⟩ := hframe hf
  have himg' : (s.write a code).images = s.images := (congrArg State.images hw :)
  have hj' : (s.write a code).journal = s.journal := (congrArg State.journal hw :)
  have hc : (s.write a code).cores = s.cores := (congrArg State.cores hw :)
  have hp : (s.write a code).parts = s.parts := (congrArg State.parts hw :)
  have hcores := State.flushICaches_cores_congr hc hp p
  unfold imagePlaced
  clear hw hf hc hp
  generalize (s.write a code).flushICaches p = v at *
  exact ⟨congrArg (tins · k { img with code := a }) (himg.trans himg'), rfl, hmem, hj.trans hj', hcores, hreg⟩

/-! ### TBL_LOAD (R177, R466) -/

theorem State.core_updCore_of_ne (s : State) {c d : Nat} (f : Core → Core) (h : d ≠ c) : (s.updCore c f).core d = s.core d :=
  tget_tput_ne _ _ h

/-- Loading a table into a core's other bank leaves the table pending there, and what was pending on any core stays so. -/
theorem State.loadTable_pending (s : State) (c tid : Nat) (bs : List Byte) (d : Nat) (h : d = c ∨ (s.core d).pending.getLsbD (tableNo tid) = true)
    (hn : tableNo tid < 512) : ((s.loadTable c tid bs).core d).pending.getLsbD (tableNo tid) = true := by
  unfold loadTable startCommit
  dsimp only
  generalize (s.core c).otherBank (tableNo tid) = b
  have hcores : ((tableSpans tid bs).foldl (fun s (o, x) => s.write (tableWindow c + bankOff b o) x) s).cores = s.cores :=
    foldl_keeps State.cores (fun (s : State) (w : Nat × List Byte) => s.write (tableWindow c + bankOff b w.1) w.2)
      (fun u w => (congrArg State.cores (u.write_only (tableWindow c + bankOff b w.1) w.2) :)) _ s
  by_cases hd : d = c
  · subst hd
    rw [State.core_updCore]
    have hone : ((1 <<< tableNo tid : Nat) : BitVec 512).getLsbD (tableNo tid) = true :=
      (BitVec.getLsbD_ofNat ..).trans (by simp [hn, Nat.testBit_shiftLeft])
    exact (BitVec.getLsbD_or ..).trans (by rw [hone, Bool.or_true])
  · rw [State.core_updCore_of_ne _ _ hd, State.core, hcores]
    exact h.resolve_left hd

theorem State.loadTable_only (s : State) (c tid : Nat) (bs : List Byte) : (s.loadTable c tid bs).parts = s.parts ∧
    (s.loadTable c tid bs).mbxs = s.mbxs ∧ (s.loadTable c tid bs).journal = s.journal := by
  have hframe {β : Type} (p : State → β) (hp : ∀ (u : State) (a : Nat) (x : List Byte), p (u.write a x) = p u) (b : Nat) :
      p ((tableSpans tid bs).foldl (fun s (o, x) => s.write (tableWindow c + bankOff b o) x) s) = p s :=
    foldl_keeps p (fun (s : State) (w : Nat × List Byte) => s.write (tableWindow c + bankOff b w.1) w.2) (fun u w => hp u _ _) _ s
  exact ⟨hframe State.parts (fun u a x => (congrArg State.parts (u.write_only a x) :)) _,
    hframe State.mbxs (fun u a x => (congrArg State.mbxs (u.write_only a x) :)) _,
    hframe State.journal (fun u a x => (congrArg State.journal (u.write_only a x) :)) _⟩

theorem foldl_loadTable_only (tid : Nat) (bs : List Byte) (l : List Nat) (s : State) :
    (l.foldl (fun s k => s.loadTable k tid bs) s).parts = s.parts ∧ (l.foldl (fun s k => s.loadTable k tid bs) s).mbxs = s.mbxs :=
  ⟨foldl_keeps State.parts _ (fun u k => (u.loadTable_only k tid bs).1) l s, foldl_keeps State.mbxs _ (fun u k => (u.loadTable_only k tid bs).2.1) l s⟩

theorem foldl_loadTable_pending {tid : Nat} (hn : tableNo tid < 512) (bs : List Byte) (l : List Nat) (s : State) (d : Nat)
    (h : d ∈ l ∨ (s.core d).pending.getLsbD (tableNo tid) = true) :
    ((l.foldl (fun s k => s.loadTable k tid bs) s).core d).pending.getLsbD (tableNo tid) = true := by
  induction l generalizing s with
  | nil => exact h.resolve_left List.not_mem_nil
  | cons k l ih =>
    rw [List.foldl_cons]
    refine ih _ ?_
    rcases h with h | h
    · rcases List.mem_cons.mp h with rfl | h
      · exact .inr (s.loadTable_pending _ tid bs _ (.inl rfl) hn)
      · exact .inl h
    · exact .inr (s.loadTable_pending _ tid bs _ (.inr h) hn)

theorem tableNo_lt (tid : Nat) : tableNo tid < 512 := by
  unfold tableNo
  split
  next hw =>
    have := of_decide_eq_true hw
    omega
  next => omega

/-- A TBL_LOAD that has not been written to any core yet leaves its table pending on every core that holds the partition's tables. -/
theorem State.tblStep_first {s : State} {c : Cmd} (h0 : c.r0 = 0) (h1 : c.r1 = 0) (hn : tableNo (c.p 0) < 512) (hne : s.tableCores c.part ≠ []) :
    (s.tblStep c).parts = s.parts ∧ (s.tblStep c).mbxs = s.mbxs ∧
      ∀ d ∈ s.tableCores c.part, ((s.tblStep c).core d).pending.getLsbD (tableNo (c.p 0)) = true := by
  have hbit : ∀ k, bit 0 k = false := fun k => by simp [bit]
  obtain ⟨d0, hd0⟩ := List.exists_mem_of_ne_nil _ hne
  unfold tblStep
  extract_lets tid no cores idle held done new put r1 r0 loaded
  have hdone : done = [] := List.filter_eq_nil_iff.mpr fun k _ => by
    simp only [held, h0, hbit, Bool.false_and, Bool.and_false]
    decide
  have hr1 : r1 = 0 := by
    show done.foldl put c.r1 = 0
    rw [hdone, h1]
    rfl
  have hall : cores.all (fun k => bit r1 k) = false := by
    rw [hr1]
    exact List.all_eq_false.mpr ⟨d0, hd0, by rw [hbit]; decide⟩
  rw [hall, if_neg Bool.false_ne_true]
  obtain ⟨hparts, hmbxs⟩ := foldl_loadTable_only tid c.data new s
  refine ⟨hparts, hmbxs, fun d hd => foldl_loadTable_pending hn c.data new s d ?_⟩
  by_cases hp : (s.core d).pending.getLsbD no = true
  · exact .inr hp
  · refine .inl (List.mem_filter.mpr ⟨hd, ?_⟩)
    simp only [idle, held, h0, h1, hbit, Bool.false_and, Bool.not_false, Bool.and_true]
    simpa using hp

/-- A partition's tables with the contents of a table load. -/
def Part.loaded (q : Part) (tid : Nat) (bs : List Byte) : Part :=
  { q with tables := (tableSpans tid bs).foldl (fun (t : Tab Byte) (x : Nat × List Byte) =>
    (List.range x.2.length).foldl (fun t i => tput (fun o => Memory.dflt (windowBase + o)) t (x.1 + i) (x.2.getD i 0)) t) q.tables }

/-- A well-formed table load: the partition's tables take it, and cores that hold them take it next. -/
theorem hTblLoad_ok {c : Cmd} {s : State} (ht : tidOk (c.p 0) = true)
    (hb : s.blockRefusal c.part (c.w 1) (if isW2tid (c.p 0) then 4 else 128) true false = none)
    (hw : s.awOk c.part (c.w 1) (tableBytes (c.p 0) (s.awBytes c.part (c.w 1) 128)) true false = true)
    (ho : tableOk (c.p 0) (s.awBytes c.part (c.w 1) (tableBytes (c.p 0) (s.awBytes c.part (c.w 1) 128))) = true) :
    hTblLoad c s =
      let bs := s.awBytes c.part (c.w 1) (tableBytes (c.p 0) (s.awBytes c.part (c.w 1) 128))
      let u := s.updPart c.part (fun q => q.loaded (c.p 0) bs)
      if (s.tableCores c.part).isEmpty then (u, ok)
      else ((u.updCmd c (fun d => { d with data := bs })).tblStep { c with data := bs }, .wait) := by
  unfold hTblLoad
  dsimp only
  rw [if_neg (by rw [ht]; decide), hb]
  dsimp only
  rw [if_neg (by rw [hw]; decide), if_neg (by rw [ho]; decide)]
  rfl

/-- Settles O41: each command by its handler. -/
theorem imageCommands : Obligations.ImageCommands := by
  unfold Obligations.ImageCommands
  intro m h s
  refine ⟨?_, ?_, ?_, ?_, ?_⟩
  · intro src len index ht hlen hi hb
    exact GoesOn.of_handler (handler := hImgLoad) (f := id) ht (by decide) rfl (hImgLoad_ok (fun h0 => hlen (BitVec.eq_of_toNat_eq h0)) hi hb)
  · intro o c q img code r k hcode hq hcheck hr hd hread hex hlen hk
    have hfin : finOf o c s = finImgLoad c s := by
      unfold finOf
      rw [hcode]
      rfl
    obtain ⟨himg, hlast, hmem, hj, hcores, hreg⟩ := s.imagePlaced_spec c.m k (r.baseg * granule) img code
    obtain ⟨hfree, h1, hlt⟩ := State.nextImage_spec hk
    exact ⟨_, hfin.trans (finImgLoad_ok hq hcheck hr hd hread hex hlen hk), himg, hlast, hfree, h1, hlt, hmem, hj, hcores, hreg⟩
  · intro k i ht hi hp
    exact Replies.of_handler (handler := hImgUnload) ht (by decide) rfl (hImgUnload_ok hi hp)
  · intro k resp i ht hi hp hb
    refine ⟨(List.range 64).map (Config.responseByte 0x0202 s.fresh), by simp, ?_⟩
    exact Replies.of_handler (handler := hImgQuery) ht (by decide) rfl (hImgQuery_ok hi hp hb)
  · intro tid src q ht hq hok hb n bs hw hto put parts
    have hh := hTblLoad_ok (c := s.newCmd m h 0x0203 [tid, src]) (s := s.begun m h 0x0203 [tid, src]) hok hb hw hto
    have hparts : oupd s.parts m (fun q => q.loaded tid.toNat bs) = parts := oupd_some hq _
    refine ⟨fun hnone => ?_, fun hsome => ?_⟩
    · refine Replies.of_handler (handler := hTblLoad) ht (by decide) rfl (hh.trans ?_)
      dsimp only
      rw [if_pos (List.isEmpty_iff.mpr hnone : ((s.begun m h 0x0203 [tid, src]).tableCores (s.newCmd m h 0x0203 [tid, src]).part).isEmpty = true)]
      exact congrArg (fun ps => (({ s.begun m h 0x0203 [tid, src] with parts := ps } : State), ok)) hparts
    · let c : Cmd := { s.newCmd m h 0x0203 [tid, src] with data := bs }
      let v := ((s.begun m h 0x0203 [tid, src]).updPart m (fun q => q.loaded tid.toNat bs)).updCmd c (fun d => { d with data := bs })
      obtain ⟨hp, hm, hpend⟩ := State.tblStep_first (s := v) (c := c) rfl rfl (tableNo_lt _) hsome
      refine ⟨v.tblStep c, ?_, hp.trans hparts, ?_, hpend⟩
      · refine Waits.of_handler (handler := hTblLoad) (f := fun _ => v.tblStep c) ht (by decide) rfl (hh.trans ?_)
        dsimp only
        rw [if_neg (fun he : ((s.begun m h 0x0203 [tid, src]).tableCores (s.newCmd m h 0x0203 [tid, src]).part).isEmpty = true => hsome (List.isEmpty_iff.mp he))]
        rfl
      · have hmbx : (v.tblStep c).mbx m = v.mbx m := by
          unfold State.mbx
          rw [hm]
        have hbegun : (s.begun m h 0x0203 [tid, src]).mbx m =
            (fun b : Mbx => if b.cmdHead = h.slot.toNat then { b with cmdHead := (h.slot.toNat + 1) % 4096 } else b) (s.mbx m) := tget_tput_self ..
        rw [hmbx, show v.mbx m = _ from hbegun]
        dsimp only
        split <;> rfl

end Sys2Proof.Machine
end

section
/-!
Partition commands (R281 to R283, R430, R464).
-/

namespace Sys2Proof.Machine

/-! ### PART_CREATE and PART_CONFIG (R281, R283) -/

theorem hPartCreate_ok {c : Cmd} {s : State} {q : Part} (hb : s.blockRefusal c.part (c.w 1) 64 true false = none) (hp : c.p 0 < 16)
    (hq : parsePart (s.awBytes c.part (c.w 1) 64) = (q, false)) (hfree : oget s.parts (c.p 0) = none) (hclash : s.partClash q = false) :
    hPartCreate c s = ({ s.clearRanges q with parts := tins s.parts (c.p 0) q }, ok) := by
  unfold hPartCreate
  rw [withPb_ok hb, hq]
  dsimp only
  rw [if_neg (by simp; omega), hfree, if_neg (by decide), hclash, if_neg (by decide)]
  rfl

/-- A partition as PART_CONFIG sets it: its class, share and regulators, each regulator full. -/
def Part.configured (q : Part) (bs : List Byte) : Part :=
  let w := wordAt bs 0
  let reg (j : Nat) : Regulator :=
    { rate := bits (wordAt bs (8 + 8 * j)) 0 32, burst := bits (wordAt bs (8 + 8 * j)) 32 32, balance := bits (wordAt bs (8 + 8 * j)) 32 32 }
  { q with cls := bit w 0, varfault := bit w 1, share := bits w 16 16, regs := [reg 0, reg 1, reg 2, reg 3] }

theorem hPartConfig_ok {c : Cmd} {s : State} {q : Part} {bs : List Byte} (hbs : s.awBytes c.part (c.w 1) 64 = bs)
    (hb : s.blockRefusal c.part (c.w 1) 64 true false = none) (hp : c.p 0 < 16) (h2 : bits (wordAt bs 0) 2 14 = 0)
    (h32 : bits (wordAt bs 0) 32 32 = 0) (hs : bits (wordAt bs 0) 16 16 ≠ 0) (hz : (bs.drop 0x28).any (· ≠ 0) = false)
    (hq : oget s.parts (c.p 0) = some q) :
    hPartConfig c s = ({ s with parts := tins s.parts (c.p 0) (q.configured bs) }, ok) := by
  unfold hPartConfig
  rw [withPb_ok hb, hbs]
  dsimp only
  rw [if_neg (by rw [hz]; simp [h2, h32, hs, hp]), hq, if_neg (show ¬(some q).isNone = true from Bool.false_ne_true)]
  refine congrArg (·, ok) ?_
  unfold State.updPart
  rw [oupd_some hq]
  rfl

/-! ### PART_ASSIGN (R282, R430) -/

/-- The state without what the engines hold and without device memory. -/
def State.sansRooms (s : State) : State := { s with mem := [], poison := [], cores := [], ctxs := [], tiles := [], foxes := [] }

theorem State.takeSaves_only {p : Nat} {l : List Nat} {s t : State} (h : State.takeSaves p l s = some t) :
    { t.sansRooms with owned := [] } = { s.sansRooms with owned := [] } := by
  induction l generalizing s with
  | nil => cases h; rfl
  | cons c l ih =>
    unfold takeSaves at h
    split at h
    · cases h
    next g _ =>
      split at h
      next =>
        refine (ih h).trans ?_
        unfold allocGranules
        exact foldl_keeps (fun s : State => { s.sansRooms with owned := [] })
          (fun (s : State) (r : Nat × Nat) => s.zero (r.1 * granule) ((r.2 + 1 - r.1) * granule)) (fun _ _ => rfl) _ s
      next => cases h

/-- The engines of a new assignment: cores that leave lose their tables, units and cores that are new pass through Off, and reserved
cores get the partition's tables. -/
def State.moveEngines (s : State) (p : Nat) (a : Assign) (q : Part) : State :=
  let moved := (maskList 128 (a.rcore ||| a.score)).filter (fun k => !bit (q.rcore ||| q.score).toNat k)
  let gone := (maskList 128 (q.rcore ||| q.score).toNat).filter (fun k => !bit (a.rcore ||| a.score) k)
  let s := gone.foldl (fun s k => s.updCore k (fun k => if k.part = some p then { k with part := none } else k)) s
  let units := (maskList 32 (a.rfox ||| a.sfox)).filter (fun k => !bit (q.rfox ||| q.sfox).toNat k)
  let s := units.foldl (fun s u => s.assignFox p u) s
  let s := moved.foldl (fun s k => s.passOff k) s
  (maskList 128 a.rcore).foldl (fun s k => s.giveCore p k) s

theorem State.passOff_sansRooms (s : State) (c : Nat) : (s.passOff c).sansRooms = s.sansRooms := by
  unfold passOff
  split <;> rfl

theorem State.giveCore_sansRooms (s : State) (p c : Nat) : (s.giveCore p c).sansRooms = s.sansRooms := by
  rw [giveCore_only]
  rfl

theorem State.moveEngines_sansRooms (s : State) (p : Nat) (a : Assign) (q : Part) : (s.moveEngines p a q).sansRooms = s.sansRooms := by
  unfold moveEngines
  extract_lets moved gone s1 units s2 s3
  have hgone : s1.sansRooms = s.sansRooms :=
    foldl_keeps sansRooms (fun (s : State) k => s.updCore k (fun k => if k.part = some p then { k with part := none } else k)) (fun _ _ => rfl) gone s
  have hunits : s2.sansRooms = s1.sansRooms := foldl_keeps sansRooms (fun (s : State) u => s.assignFox p u) (fun _ _ => rfl) units s1
  have hmoved : s3.sansRooms = s2.sansRooms := foldl_keeps sansRooms _ passOff_sansRooms moved s2
  exact (foldl_keeps sansRooms _ (fun u k => u.giveCore_sansRooms p k) _ s3).trans (hmoved.trans (hunits.trans hgone))

/-- A partition with the engines of an assignment. -/
def Part.assigned (q : Part) (a : Assign) : Part :=
  { q with rcore := BitVec.ofNat 128 a.rcore, score := BitVec.ofNat 128 a.score, rfox := BitVec.ofNat 32 a.rfox,
           sfox := BitVec.ofNat 32 a.sfox, rprim := BitVec.ofNat 4 a.rprim, sprim := BitVec.ofNat 4 a.sprim,
           renc := BitVec.ofNat 4 a.renc, rdec := BitVec.ofNat 4 a.rdec }

theorem hPartAssign_ok {c : Cmd} {s s1 : State} {a : Assign} {q : Part} (hb : s.blockRefusal c.part (c.w 1) 64 true false = none) (hp : c.p 0 < 16)
    (ha : parseAssign (s.awBytes c.part (c.w 1) 64) = (a, false)) (hq : oget s.parts (c.p 0) = some q) (hclash : s.assignClash (c.p 0) a = false)
    (hsave : State.takeSaves (c.p 0) (maskList 128 a.score) { s with owned := s.owned.filter (fun o => !(o.part == c.p 0 && o.save)) } = some s1) :
    hPartAssign c s = ((s1.updPart (c.p 0) (fun q => q.assigned a)).moveEngines (c.p 0) a q, ok) := by
  unfold hPartAssign
  rw [withPb_ok hb]
  dsimp only
  rw [ha]
  dsimp only
  rw [if_neg (by simp; omega), hq]
  dsimp only
  rw [hclash, if_neg (by decide), hsave]
  rfl

/-! ### PART_DESTROY (R214, R281) -/

theorem hPartDestroy_ok {c : Cmd} {s : State} {q : Part} (hq : oget s.parts (c.p 0) = some q) (h0 : c.p 0 ≠ 0) (hd : q.destroying = false)
    (hqps : ∀ x ∈ s.qps, x.2.part ≠ c.p 0) (hl : ∀ x ∈ s.launches, x.2.part ≠ c.p 0) (hw : ∀ x ∈ s.wwins, x.2.part = c.p 0 → x.2.run = false)
    (ht : ∀ x ∈ s.tobjs, x.2.part ≠ c.p 0) (hk : ∀ x ∈ s.wpkgs, x.2.part ≠ c.p 0) (hi : ∀ x ∈ s.iris, x.2.part ≠ c.p 0) :
    hPartDestroy c s = ({ s with parts := tins s.parts (c.p 0) { q with destroying := true } }, .bg) := by
  have hqps' : s.qps.any (fun (_, x) => x.part == c.p 0) = false := List.any_eq_false.mpr fun x hx => by simpa using hqps x hx
  have hl' : s.launches.any (fun (_, l) => l.part == c.p 0) = false := List.any_eq_false.mpr fun x hx => by simpa using hl x hx
  have hw' : s.wwins.any (fun (_, w) => w.part == c.p 0 && w.run) = false := List.any_eq_false.mpr fun x hx => by simpa using hw x hx
  have ht' : s.tobjs.any (fun (_, t) => t.part == c.p 0) = false := List.any_eq_false.mpr fun x hx => by simpa using ht x hx
  have hk' : s.wpkgs.any (fun (_, t) => t.part == c.p 0) = false := List.any_eq_false.mpr fun x hx => by simpa using hk x hx
  have hi' : s.iris.any (fun (_, t) => t.part == c.p 0) = false := List.any_eq_false.mpr fun x hx => by simpa using hi x hx
  unfold hPartDestroy
  dsimp only
  rw [hq]
  dsimp only
  rw [hqps', hl', hw', ht', hk', hi', hd, if_neg (by simpa using h0)]
  refine congrArg (·, Reply.bg) ?_
  unfold State.updPart
  rw [oupd_some hq]

/-- The memory of some owned granules set to zero. -/
def State.zeroOwned (s : State) (os : List Own) : State := os.foldl (fun s o => s.zero (o.baseg * granule) ((o.lastg + 1 - o.baseg) * granule)) s

theorem State.zeroOwned_keeps_zero {s : State} (os : List Own) {a : Nat} (ha : a < windowBase) (h : s.rawByte a = 0) : (s.zeroOwned os).rawByte a = 0 := by
  unfold zeroOwned
  induction os generalizing s with
  | nil => exact h
  | cons o os ih =>
    refine ih ?_
    rw [rawByte_zero]
    split
    · exact Memory.dflt_dram ha
    · exact h

theorem State.zeroOwned_zero (s : State) {os : List Own} {e : Own} (he : e ∈ os) {a : Nat} (h1 : e.baseg * granule ≤ a) (h2 : a < (e.lastg + 1) * granule)
    (ha : a < windowBase) : (s.zeroOwned os).rawByte a = 0 := by
  unfold zeroOwned
  induction os generalizing s with
  | nil => cases he
  | cons o os ih =>
    rcases List.mem_cons.mp he with rfl | he
    · refine State.zeroOwned_keeps_zero os ha ?_
      have hspan : e.baseg * granule + (e.lastg + 1 - e.baseg) * granule = (e.lastg + 1) * granule := by
        have hle : e.baseg ≤ e.lastg + 1 := (Nat.lt_of_mul_lt_mul_right (Nat.lt_of_le_of_lt h1 h2)).le
        rw [← Nat.add_mul]
        congr 1
        omega
      rw [rawByte_zero, hspan, if_pos ⟨h1, h2⟩]
      exact Memory.dflt_dram ha
    · exact ih (s := _) he

/-- What stays of the state once a partition that was destroyed has left it. -/
def State.partGone (s : State) (p : Nat) (q : Part) : State :=
  let s := s.zeroOwned (s.owned.filter (fun o => o.part = p))
  let s := (List.range 128).foldl (fun s k => if (s.core k).part = some p then s.updCore k (fun k => { k with part := none }) else s) (s.clearRanges q)
  { s with
    foxes := tmap (fun _ => Fox.reset) (fun _ f => if f.part = some p then { f with part := none, lab := [] } else f) s.foxes
    prims := tmap (fun _ => Prim.reset) (fun _ f => if f.part = some p then { f with part := none } else f) s.prims
    owned := s.owned.filter (fun o => o.part ≠ p)
    regions := s.regions.filter (fun (k, _) => k / 1024 ≠ p)
    grants := s.grants.filter (fun g => g.owner ≠ p ∧ g.grantee ≠ p)
    images := s.images.filter (fun (_, i) => i.part ≠ p)
    wwins := s.wwins.filter (fun (_, w) => w.part ≠ p)
    pools := s.pools.filter (fun (_, w) => w.part ≠ p)
    maps := s.maps.filter (fun (_, w) => w.part ≠ p)
    mapRoom := tdrop s.mapRoom p
    secure := s.secure.filter (· ≠ p)
    snaps := tdrop s.snaps p
    stepLogs := tdrop s.stepLogs p
    fabs := tdrop s.fabs p
    pages := tdrop s.pages p
    pkeys := s.pkeys.filter (fun (k, _) => k / 4 ≠ p)
    parts := tdrop s.parts p }

theorem finPartDestroy_ok {c : Cmd} {s : State} {q : Part} (hq : oget s.parts (c.p 0) = some q) :
    finPartDestroy c s = (s.partGone (c.p 0) q).complete c 0 false 0 0 := by
  unfold finPartDestroy
  dsimp only
  rw [hq]
  rfl

theorem State.partGone_spec (s : State) (p : Nat) (q : Part) :
    let u := s.partGone p q
    u.parts = tdrop s.parts p ∧ u.journal = s.journal ∧ u.owned = s.owned.filter (fun o => o.part ≠ p) ∧
      u.regions = s.regions.filter (fun r => r.1 / 1024 ≠ p) ∧ u.images = s.images.filter (fun i => i.2.part ≠ p) ∧
      u.seqs = (s.clearRanges q).seqs ∧ u.sems = (s.clearRanges q).sems ∧ u.mem = (s.zeroOwned (s.owned.filter (fun o => o.part = p))).mem := by
  have hzero : ∀ os : List Own, { s.zeroOwned os with mem := [], poison := [] } = ({ s with mem := [], poison := [] } : State) := fun os =>
    foldl_keeps (fun s : State => ({ s with mem := [], poison := [] } : State))
      (fun (s : State) (o : Own) => s.zero (o.baseg * granule) ((o.lastg + 1 - o.baseg) * granule)) (fun _ _ => rfl) os s
  unfold partGone
  extract_lets z v
  have hv : v.sansCores = (z.clearRanges q).sansCores := by
    refine foldl_keeps sansCores _ (fun s c => ?_) _ _
    split <;> rfl
  have hframe : ∀ {a b : State}, a.sansCores = b.sansCores → a.parts = b.parts ∧ a.journal = b.journal ∧ a.owned = b.owned ∧ a.regions = b.regions ∧
      a.images = b.images ∧ a.seqs = b.seqs ∧ a.sems = b.sems ∧ a.mem = b.mem := fun h =>
    ⟨(congrArg State.parts h :), (congrArg State.journal h :), (congrArg State.owned h :), (congrArg State.regions h :), (congrArg State.images h :),
      (congrArg State.seqs h :), (congrArg State.sems h :), (congrArg State.mem h :)⟩
  have hdram : ∀ {a b : State}, ({ a with mem := [], poison := [] } : State) = { b with mem := [], poison := [] } →
      a.parts = b.parts ∧ a.journal = b.journal ∧ a.owned = b.owned ∧ a.regions = b.regions ∧ a.images = b.images ∧ a.seqs = b.seqs ∧ a.sems = b.sems :=
    fun h => ⟨(congrArg State.parts h :), (congrArg State.journal h :), (congrArg State.owned h :), (congrArg State.regions h :),
      (congrArg State.images h :), (congrArg State.seqs h :), (congrArg State.sems h :)⟩
  obtain ⟨hp, hj, ho, hr, hi, hq, hsm, hm⟩ := hframe hv
  have hz : ({ z with mem := [], poison := [] } : State) = { s with mem := [], poison := [] } := hzero _
  have hmem : z.mem = (s.zeroOwned (s.owned.filter (fun o => o.part = p))).mem := rfl
  clear_value v z
  obtain ⟨hp', hj', ho', hr', hi', hq', hsm'⟩ := hdram hz
  refine ⟨congrArg (tdrop · p) (hp.trans hp'), hj.trans hj', congrArg (List.filter _) (ho.trans ho'), congrArg (List.filter _) (hr.trans hr'),
    congrArg (List.filter _) (hi.trans hi'), hq.trans ?_, hsm.trans ?_, hm.trans hmem⟩
  · exact congrArg (List.filter _) hq'
  · exact congrArg (List.filter _) hsm'

/-- Settles O42: each command by its handler; the assignment moves engines only, and the granules of a destroyed partition read 0. -/
theorem partitionCommands : Obligations.PartitionCommands := by
  unfold Obligations.PartitionCommands
  intro m h s part pb bs w
  refine ⟨?_, ?_, ?_, ?_, ?_⟩
  · intro q ht hb hp hq hfree hclash
    have hfst : q = (parsePart bs).1 := by rw [hq]
    refine ⟨?_, ?_, ?_, ?_, ?_, ?_, ?_, ?_, ?_, ?_, ?_, ?_, ?_, ?_, ?_, ?_, ?_, ?_⟩
    iterate 17 (rw [hfst]; rfl)
    exact Replies.of_handler (handler := hPartCreate) ht (by decide) rfl (hPartCreate_ok hb hp hq hfree hclash)
  · intro a q s1 ht hb hp ha hq hclash hsave
    let u := (s1.updPart part.toNat (fun q => q.assigned a)).moveEngines part.toNat a q
    have hrep : Replies (.partAssign m h part pb) s m h 0x0302 [part, pb] (fun _ => u) 0 0 0 :=
      Replies.of_handler (handler := hPartAssign) ht (by decide) rfl (hPartAssign_ok hb hp ha hq hclash hsave)
    have hmove := (s1.updPart part.toNat (fun q => q.assigned a)).moveEngines_sansRooms part.toNat a q
    have hsaves := State.takeSaves_only hsave
    have hframe : ∀ {x y : State}, x.sansRooms = y.sansRooms → x.parts = y.parts ∧ x.owned = y.owned ∧ x.sems = y.sems ∧ x.launches = y.launches ∧
        x.qps = y.qps := fun h => ⟨(congrArg State.parts h :), (congrArg State.owned h :), (congrArg State.sems h :), (congrArg State.launches h :),
      (congrArg State.qps h :)⟩
    have hframe' : ∀ {x y : State}, ({ x.sansRooms with owned := [] } : State) = { y.sansRooms with owned := [] } → x.parts = y.parts ∧ x.sems = y.sems ∧
        x.launches = y.launches ∧ x.qps = y.qps := fun h => ⟨(congrArg State.parts h :), (congrArg State.sems h :), (congrArg State.launches h :),
      (congrArg State.qps h :)⟩
    obtain ⟨hp1, ho1, hsm1, hl1, hq1⟩ := hframe hmove
    obtain ⟨hp2, hsm2, hl2, hq2⟩ := hframe' hsaves
    refine ⟨u, hrep, hp1.trans ?_, ho1, hsm1.trans hsm2, hl1.trans hl2, hq1.trans hq2⟩
    show oupd s1.parts part.toNat _ = _
    rw [hp2]
    exact oupd_some hq _
  · intro q ht hb hp hq h2 h32 hs hz reg q'
    exact Replies.of_handler (handler := hPartConfig) ht (by decide) rfl (hPartConfig_ok rfl hb hp h2 h32 hs hz hq)
  · intro q ht hq h0 hd hqps hl hw htob hk hi
    exact GoesOn.of_handler (handler := hPartDestroy) ht (by decide) rfl
      (hPartDestroy_ok (s := s.begun m h 0x0301 [part]) hq (fun he => h0 (BitVec.eq_of_toNat_eq he)) hd hqps hl hw htob hk hi)
  · intro o c q hcode hq
    have hfin : finOf o c s = finPartDestroy c s := by
      unfold finOf
      rw [hcode]
      rfl
    obtain ⟨hp, hj, ho, hr, hi, hsq, hsm, hm⟩ := s.partGone_spec (c.p 0) q
    refine ⟨s.partGone (c.p 0) q, hfin.trans (finPartDestroy_ok hq), hp, hj, ho, hr, hi, hsq, hsm, fun e he hpart a h1 h2 ha => ?_⟩
    have hmem : e ∈ s.owned.filter (fun o => o.part = c.p 0) := List.mem_filter.mpr ⟨he, by simpa using hpart⟩
    exact (congrArg (tget Memory.dflt · a) hm).trans (s.zeroOwned_zero hmem h1 h2 (Nat.lt_of_lt_of_le ha (by decide)))

end Sys2Proof.Machine
end

section
/-!
Queue-pair and sequence commands (R27, R284, R302, R304, R462, R467).
-/

namespace Sys2Proof.Machine

/-! ### The command that runs, found by its tag -/

theorem State.cmd_of_alone {s t : State} {m code : Nat} {h : CmdHdr} {ps : List W64} (ha : ∀ c ∈ s.journal, c.m ≠ m)
    (hj : t.journal = s.journal ++ [s.newCmd m h code ps]) : t.cmd m h.tag.toNat = some (s.newCmd m h code ps) := by
  unfold cmd
  rw [hj, List.find?_append, List.find?_eq_none.mpr fun c hc => by simp [ha c hc]]
  simp [newCmd]

theorem State.endWait_of_alone {s t : State} {m code st r0 : Nat} {h : CmdHdr} {ps : List W64} (ha : ∀ c ∈ s.journal, c.m ≠ m)
    (hj : t.journal = s.journal ++ [s.newCmd m h code ps]) :
    t.endWait m h.tag.toNat st r0 = t.complete (s.newCmd m h code ps) st false r0 0 := by
  unfold endWait
  rw [State.cmd_of_alone ha hj]

/-- HEAD passing the entry posts nothing. -/
theorem State.begun_due (s : State) (m code : Nat) (h : CmdHdr) (ps : List W64) : ((s.begun m h code ps).mbx m).due = (s.mbx m).due := by
  have hm : (s.begun m h code ps).mbx m =
      (fun b : Mbx => if b.cmdHead = h.slot.toNat then { b with cmdHead := (h.slot.toNat + 1) % 4096 } else b) (s.mbx m) := tget_tput_self ..
  rw [hm]
  dsimp only
  split <;> rfl

/-! ### Queue pairs (R284, R462, R467) -/

/-- The queue pair that QP_CREATE makes of a block's three words. -/
def Qp.created (p : Nat) (sq cq : W64) (w : Nat) : Qp :=
  { part := p, sqAddr := sq, cqAddr := cq, sqLog := bits w 0 4, cqLog := bits w 4 4, cls := bit w 8, irqen := bit w 9, vec := bits w 10 11,
    share := bits w 32 16, sqTail := 0, fetch := 0, taken := 0, sqHead := 0, cqTail := 0, cqPhase := true, cqHead := 0,
    entries := [], due := [], acctCore := 0, acctFox := 0, acctPrim := 0, vt := 0, stopped := false, discard := false, destroy := none,
    adds := [], held := false }

theorem hQpCreate_ok {c : Cmd} {s : State} {bs : List Byte} {w : Nat} {sq cq : W64} (hbs : s.awBytes c.part (c.w 1) 64 = bs) (hw : wordAt bs 0x10 = w)
    (hsq : BitVec.ofNat 64 (wordAt bs 0) = sq) (hcq : BitVec.ofNat 64 (wordAt bs 8) = cq)
    (hb : s.blockRefusal c.part (c.w 1) 64 true false = none) (hin : s.qpIn c.part (c.p 0) = true) (hsl : 6 ≤ bits w 0 4) (hcl : 6 ≤ bits w 4 4)
    (h21 : bits w 21 11 = 0) (h32 : bits w 32 16 ≠ 0) (h48 : bits w 48 16 = 0) (hz : (bs.drop 0x18).any (· ≠ 0) = false)
    (hsa : awAddr sq % (128 * 2 ^ bits w 0 4) = 0) (hca : awAddr cq % (64 * 2 ^ bits w 4 4) = 0) (hfree : s.qp (c.p 0) = none)
    (hso : s.awOk c.part sq (128 * 2 ^ bits w 0 4) true false = true) (hco : s.awOk c.part cq (64 * 2 ^ bits w 4 4) false true = true) :
    hQpCreate c s = ({ s with qps := tins s.qps (c.p 0) (Qp.created c.part sq cq w) }, ok) := by
  have hlo : ¬(bits w 0 4 < 6 ∨ bits w 4 4 < 6 ∨ bits w 21 11 ≠ 0 ∨ bits w 32 16 = 0 ∨ bits w 48 16 ≠ 0) := by
    simp only [h21, h32, h48, ne_eq, not_true_eq_false, or_false]
    omega
  unfold hQpCreate
  rw [withPb_ok hb, hbs]
  dsimp only
  rw [hw, hsq, hcq, hin, if_neg (by decide), decide_eq_false hlo, hz, hsa, hca, if_neg (by decide), hfree, if_neg (by decide), hso, hco,
    if_neg (by decide)]
  rfl

theorem State.qpFor_ok {s : State} {p n : Nat} {x : Qp} (hin : s.qpIn p n = true) (hx : s.qp n = some x) (hd : x.destroy = none) :
    s.qpFor p n = .ok x := by
  unfold qpFor
  rw [hin, if_neg (by decide), hx]
  dsimp only
  rw [hd]
  rfl

theorem hQpQuery_ok {c : Cmd} {s : State} {x : Qp} (hq : s.qpFor c.part (c.p 0) = .ok x) (hb : s.blockRefusal c.part (c.w 1) 64 false true = none) :
    hQpQuery c s = (s.awWrite c.part (c.w 1) x.block, ok) := by
  unfold hQpQuery
  rw [withResp_ok hb, hq]

/-- The launches of entries that have not started go: mailboxes and journal stay, and of queue pairs only charges may change. -/
theorem foldl_dropLaunch_only (l : List QpEntry) (s : State) :
    (l.foldl (fun s e => if e.ty = 1 then s.dropLaunch e.key else s) s).sansEngines = s.sansEngines ∧
      ∀ q, ((l.foldl (fun s e => if e.ty = 1 then s.dropLaunch e.key else s) s).qp q).map Qp.body = (s.qp q).map Qp.body := by
  have hstep (u : State) (e : QpEntry) : (if e.ty = 1 then u.dropLaunch e.key else u).sansEngines = u.sansEngines ∧
      ∀ q, ((if e.ty = 1 then u.dropLaunch e.key else u).qp q).map Qp.body = (u.qp q).map Qp.body := by
    split
    · cases hl : u.launch e.key with
      | none =>
        unfold State.dropLaunch
        rw [hl]
        exact ⟨rfl, fun _ => rfl⟩
      | some l => exact (State.dropLaunch_spec hl).2
    · exact ⟨rfl, fun _ => rfl⟩
  exact ⟨foldl_keeps State.sansEngines _ (fun u e => (hstep u e).1) l s,
    fun q => foldl_keeps (fun u : State => (u.qp q).map Qp.body) _ (fun u e => (hstep u e).2 q) l s⟩

/-- A queue pair that is being destroyed: what has not started has left it. -/
def Qp.leaving (x : Qp) (out : List QpEntry) (m tag : Nat) : Qp :=
  { x with entries := x.entries.filter (fun e => !(out.contains e)), due := [], destroy := some (m, tag), held := false }

theorem hQpDestroy_ok {c : Cmd} {s : State} {x : Qp} (hq : s.qpFor c.part (c.p 0) = .ok x) :
    let out := x.entries.filter (fun e => !s.entryRuns e)
    hQpDestroy c s = (((out.foldl (fun s e => if e.ty = 1 then s.dropLaunch e.key else s) s).updQp (c.p 0)
      (fun x => x.leaving out c.m c.tag)).settleQp (c.p 0), .wait) := by
  unfold hQpDestroy
  rw [hq]
  rfl

/-- What stays of the entries is what runs. -/
theorem filter_not_out {l : List QpEntry} (f : QpEntry → Bool) : l.filter (fun e => !((l.filter (fun e => !f e)).contains e)) = l.filter f := by
  refine List.filter_congr fun e he => ?_
  cases hf : f e with
  | true => simp [hf]
  | false => simp [hf, he]

theorem State.settleQp_empty {s : State} {q m tag : Nat} {x : Qp} (hx : s.qp q = some x) (hd : x.destroy = some (m, tag)) (he : x.entries = []) :
    s.settleQp q = ({ s with qps := tdrop s.qps q } : State).endWait m tag 0 0 := by
  unfold settleQp
  rw [hx]
  dsimp only
  rw [hd, he]
  rfl

theorem State.settleQp_busy {s : State} {q : Nat} {x : Qp} (hx : s.qp q = some x) (he : x.entries ≠ []) : s.settleQp q = s := by
  unfold settleQp
  rw [hx]
  dsimp only
  split
  next h => exact absurd h he
  next => rfl

section
variable {m : Nat} {h : CmdHdr} {s : State}

theorem qpDestroy_empty {qp : W64} {x : Qp} (ht : Takes s m h 0x0305 [qp]) (hin : s.qpIn m qp.toNat = true) (hx : s.qp qp.toNat = some x)
    (hd : x.destroy = none) (he : x.entries = []) :
    Replies (.qpDestroy m h qp) s m h 0x0305 [qp] (fun u => { u with qps := tdrop s.qps qp.toNat }) 0 0 0 := by
  let u := s.begun m h 0x0305 [qp]
  let v := u.updQp qp.toNat (fun x => x.leaving [] m h.tag.toNat)
  have hv : v.qp qp.toNat = some (x.leaving [] m h.tag.toNat) := by
    rw [show v = _ from State.updQp_some (s := u) hx _]
    exact State.qp_tins ..
  have hle : (x.leaving [] m h.tag.toNat).entries = [] := by simp [Qp.leaving, he]
  have hdrop : ({ v with qps := tdrop v.qps qp.toNat } : State) = { u with qps := tdrop s.qps qp.toNat } := by
    rw [show v = _ from State.updQp_some (s := u) hx _]
    exact congrArg (fun qs => ({ u with qps := qs } : State)) (tdrop_tins ..)
  have hset : v.settleQp qp.toNat = State.complete { u with qps := tdrop s.qps qp.toNat } (s.newCmd m h 0x0305 [qp]) 0 false 0 0 := by
    rw [State.settleQp_empty hv rfl hle, hdrop]
    exact State.endWait_of_alone ht.alone rfl
  refine Waits.of_handler (handler := hQpDestroy)
    (f := fun _ => State.complete { u with qps := tdrop s.qps qp.toNat } (s.newCmd m h 0x0305 [qp]) 0 false 0 0) ht (by decide) rfl ?_
  have hh := hQpDestroy_ok (c := s.newCmd m h 0x0305 [qp]) (s := u) (State.qpFor_ok hin hx hd)
  dsimp only at hh
  rw [he] at hh
  exact hh.trans (congrArg (·, Reply.wait) hset)

theorem qpDestroy_busy {qp : W64} {x : Qp} (ht : Takes s m h 0x0305 [qp]) (hin : s.qpIn m qp.toNat = true) (hx : s.qp qp.toNat = some x)
    (hd : x.destroy = none) (he : x.entries.filter s.entryRuns ≠ []) : ∃ t : State, ∃ y : Qp, exec (.qpDestroy m h qp) s = .next t ∧
      t.qp qp.toNat = some y ∧ y.destroy = some (m, h.tag.toNat) ∧ y.due = [] ∧ y.entries = x.entries.filter s.entryRuns ∧
      (t.mbx m).due = (s.mbx m).due := by
  let u := s.begun m h 0x0305 [qp]
  let out := x.entries.filter (fun e => !u.entryRuns e)
  obtain ⟨hsans, hqps⟩ := foldl_dropLaunch_only out u
  generalize hd0 : out.foldl (fun s e => if e.ty = 1 then s.dropLaunch e.key else s) u = d at hsans hqps
  obtain ⟨x1, hx1, hxb⟩ : ∃ x1, d.qp qp.toNat = some x1 ∧ x1.body = x.body := by
    have hb := hqps qp.toNat
    rw [show u.qp qp.toNat = some x from hx] at hb
    exact Option.map_eq_some_iff.mp hb
  let y := x1.leaving out m h.tag.toNat
  let v := d.updQp qp.toNat (fun x => x.leaving out m h.tag.toNat)
  have hv : v.qp qp.toNat = some y := by
    rw [show v = _ from State.updQp_some hx1 _]
    exact State.qp_tins ..
  have hent : y.entries = x.entries.filter s.entryRuns := by
    have h1 : x1.entries = x.entries := (congrArg Qp.entries hxb :)
    show x1.entries.filter _ = _
    rw [h1]
    exact filter_not_out u.entryRuns
  have hset : v.settleQp qp.toNat = v := State.settleQp_busy hv (by rw [hent]; exact he)
  have hmbx : d.mbx m = u.mbx m := (congrArg (fun t : State => t.mbx m) hsans :)
  refine ⟨v, y, ?_, hv, rfl, rfl, hent, (congrArg Mbx.due hmbx).trans (s.begun_due ..)⟩
  refine Waits.of_handler (handler := hQpDestroy) (f := fun _ => v) ht (by decide) rfl ?_
  have hh := hQpDestroy_ok (c := s.newCmd m h 0x0305 [qp]) (s := u) (State.qpFor_ok hin hx hd)
  dsimp only at hh
  rw [show List.foldl _ u (List.filter _ x.entries) = d from hd0] at hh
  exact hh.trans (congrArg (·, Reply.wait) hset)

/-! ### Sequences (R27, R302, R304) -/

theorem hSeqQuery_ok {c : Cmd} {s : State} (hin : s.seqIn c.part (c.p 0) = true) (hst : (s.seq (c.p 0)).state ≠ 0)
    (hb : s.blockRefusal c.part (c.w 1) 128 false true = none) : hSeqQuery c s = (s.awWrite c.part (c.w 1) (s.seq (c.p 0)).bytes, ok) := by
  unfold hSeqQuery
  rw [hin, if_neg (by decide), if_neg hst, hb]

theorem State.seqRefusal_none {s : State} {e : Nat} (hst : (s.seq e).state ≠ 0) : s.seqRefusal e none = none := by
  unfold seqRefusal
  exact if_neg fun h0 => hst (BitVec.eq_of_toNat_eq h0)

theorem State.seqRefusal_some {s : State} {e n : Nat} (hst : (s.seq e).state.toNat = n) (h0 : n ≠ 0) : s.seqRefusal e (some n) = none := by
  unfold seqRefusal
  dsimp only
  rw [hst, if_neg h0, if_pos rfl]

theorem State.boundOrNow_now {s : State} {p : Nat} (hr : oget s.runs p = none) (b : Boundary) : s.boundOrNow p b = s.applyBound p b false := by
  unfold boundOrNow
  rw [hr]

theorem State.boundOrNow_run {s : State} {p : Nat} {r : Run} (hr : oget s.runs p = some r) (hi : r.idle = false) (b : Boundary) :
    s.boundOrNow p b = { s with bounds := s.bounds ++ [(p, b)] } := by
  unfold boundOrNow
  rw [hr]
  dsimp only
  rw [hi, if_neg (by decide)]

theorem State.applyBound_remove {s : State} {p m tag e : Nat} (hr : s.seqRefusal e none = none) :
    s.applyBound p (.remove m tag e) false = (s.finishSeq e 3).endWait m tag 0 0 := by
  unfold applyBound
  dsimp only
  rw [hr]
  rfl

theorem State.applyBound_hold {s : State} {p m tag e : Nat} {on : Bool} (hr : s.seqRefusal e (some (if on then 1 else 2)) = none) :
    s.applyBound p (.hold m tag e on) false = (s.setSeq e { s.seq e with state := if on then 2 else 1 }).endWait m tag 0 0 := by
  unfold applyBound
  dsimp only
  rw [hr]
  rfl

theorem State.finishSeq_spec (s : State) (e st : Nat) : (s.finishSeq e st).seqs = tdrop s.seqs e ∧ (s.finishSeq e st).mem = s.mem ∧
    (s.finishSeq e st).journal = s.journal ∧ ∀ x ∈ s.posted, x ∈ (s.finishSeq e st).posted := by
  have hfree : tput (fun _ => Seq.free) s.seqs e Seq.free = tdrop s.seqs e := if_pos rfl
  unfold finishSeq
  extract_lets q key ran d v
  split
  · exact ⟨hfree, rfl, rfl, fun x hx => hx⟩
  · exact ⟨hfree, rfl, rfl, fun x hx => List.mem_append_left _ hx⟩

theorem hSeqRemove_eq {c : Cmd} {s : State} (hin : s.seqIn c.part (c.p 0) = true) (hst : (s.seq (c.p 0)).state ≠ 0) :
    hSeqRemove c s = (s.boundOrNow c.part (.remove c.m c.tag (c.p 0)), .wait) := by
  unfold hSeqRemove
  rw [hin, if_neg (by decide), State.seqRefusal_none hst]

theorem hSeqHold_eq {c : Cmd} {s : State} (hlt : c.p 1 < 2) (hin : s.seqIn c.part (c.p 0) = true)
    (hst : (s.seq (c.p 0)).state.toNat = if c.p 1 = 1 then 1 else 2) :
    hSeqHold c s = (s.boundOrNow c.part (.hold c.m c.tag (c.p 0) (c.p 1 == 1)), .wait) := by
  unfold hSeqHold
  rw [if_neg (by omega), hin, if_neg (by decide), State.seqRefusal_some hst (by split <;> decide)]

end

/-- Settles O43: each command by its handler; a removal and a hold by what a boundary does of them. -/
theorem queueAndSequenceCommands : Obligations.QueueAndSequenceCommands := by
  unfold Obligations.QueueAndSequenceCommands
  intro m h s
  refine ⟨?_, ?_, ?_, ?_, ?_, ?_⟩
  · intro qp pb ht hb bs w sq cq sl cl hin hsl hcl h21 h32 h48 hz hsa hca hfree hso hco
    refine ⟨Qp.created m sq cq w, rfl, rfl, rfl, rfl, rfl, rfl, rfl, rfl, rfl, rfl, rfl, rfl, rfl, rfl, rfl, rfl, rfl, rfl, ?_⟩
    exact Replies.of_handler (handler := hQpCreate) ht (by decide) rfl (hQpCreate_ok rfl rfl rfl rfl hb hin hsl hcl h21 h32 h48 hz hsa hca hfree hso hco)
  · intro qp x ht hin hx hd
    exact ⟨qpDestroy_empty ht hin hx hd, qpDestroy_busy ht hin hx hd⟩
  · intro qp resp x ht hin hx hd hb
    exact Replies.of_handler (handler := hQpQuery) ht (by decide) rfl
      (hQpQuery_ok (s := s.begun m h 0x0306 [qp, resp]) (State.qpFor_ok hin hx hd) hb)
  · intro e resp ht hin hst hb
    exact Replies.of_handler (handler := hSeqQuery) ht (by decide) rfl (hSeqQuery_ok (s := s.begun m h 0x0400 [e, resp]) hin hst hb)
  · intro e ht hin hst
    let u := s.begun m h 0x0401 [e]
    have hh := hSeqRemove_eq (c := s.newCmd m h 0x0401 [e]) (s := u) hin hst
    refine ⟨fun hr => ?_, fun r hr hi => ?_⟩
    · obtain ⟨hseqs, hmem, hj, hposted⟩ := u.finishSeq_spec e.toNat 3
      refine ⟨u.finishSeq e.toNat 3, ?_, hseqs, hmem, hposted⟩
      refine Waits.of_handler (handler := hSeqRemove)
        (f := fun _ => (u.finishSeq e.toNat 3).complete (s.newCmd m h 0x0401 [e]) 0 false 0 0) ht (by decide) rfl (hh.trans (congrArg (·, Reply.wait) ?_))
      exact (State.boundOrNow_now (s := u) hr _).trans ((State.applyBound_remove (s := u) (State.seqRefusal_none hst)).trans
        (State.endWait_of_alone ht.alone hj))
    · exact Waits.of_handler (handler := hSeqRemove) ht (by decide) rfl
        (hh.trans (congrArg (·, Reply.wait) (State.boundOrNow_run (s := u) hr hi _)))
  · intro e hold ht hlt hin hst
    let u := s.begun m h 0x0402 [e, hold]
    have hcases : hold = 0 ∨ hold = 1 := by
      have : hold.toNat = 0 ∨ hold.toNat = 1 := by omega
      exact this.imp (fun h0 => BitVec.eq_of_toNat_eq h0) (fun h1 => BitVec.eq_of_toNat_eq h1)
    have hst' : (u.seq e.toNat).state.toNat = if hold.toNat = 1 then 1 else 2 := by
      rw [show (u.seq e.toNat).state = _ from hst]
      rcases hcases with rfl | rfl <;> rfl
    have hon : (hold.toNat == 1) = (hold == 1) := by rcases hcases with rfl | rfl <;> rfl
    have hh : hSeqHold (s.newCmd m h 0x0402 [e, hold]) u = (u.boundOrNow m (.hold m h.tag.toNat e.toNat (hold == 1)), .wait) := by
      rw [← hon]
      exact hSeqHold_eq (c := s.newCmd m h 0x0402 [e, hold]) (s := u) hlt hin hst'
    refine ⟨fun hr => ?_, fun r hr hi => ?_⟩
    · have href : u.seqRefusal e.toNat (some (if (hold == 1) = true then 1 else 2)) = none := by
        refine State.seqRefusal_some (hst'.trans ?_) (by split <;> decide)
        rcases hcases with rfl | rfl <;> rfl
      have hstate : (if (hold == 1) = true then (2 : BitVec 3) else 1) = if hold = 1 then 2 else 1 := by
        rcases hcases with rfl | rfl <;> rfl
      refine Waits.of_handler (handler := hSeqHold) (f := fun u => (u.setSeq e.toNat { s.seq e.toNat with
        state := if hold = 1 then 2 else 1 }).complete (s.newCmd m h 0x0402 [e, hold]) 0 false 0 0) ht (by decide) rfl (hh.trans (congrArg (·, Reply.wait) ?_))
      refine (State.boundOrNow_now (s := u) hr _).trans ((State.applyBound_hold (s := u) href).trans ?_)
      rw [hstate]
      exact State.endWait_of_alone ht.alone rfl
    · exact Waits.of_handler (handler := hSeqHold) ht (by decide) rfl
        (hh.trans (congrArg (·, Reply.wait) (State.boundOrNow_run (s := u) hr hi _)))

end Sys2Proof.Machine
end

section
/-!
Pool, page and page-map commands (R148 to R157, R275).
-/

namespace Sys2Proof.Machine

/-! ### Map memory (log 20) -/

/-- The state without what an allocation of map memory changes. -/
def State.sansAlloc (s : State) : State := { s with mem := [], poison := [], owned := [], regions := [], hsel := [], mapRoom := [] }

theorem State.addRegion_sansAlloc (s : State) (p i : Nat) (r : Region) : (s.addRegion p i r).sansAlloc = s.sansAlloc := by
  unfold addRegion
  dsimp only
  split
  · exact (foldl_keeps sansAlloc (fun (s : State) (r : Nat × Nat) => s.zero (r.1 * granule) ((r.2 + 1 - r.1) * granule)) (fun _ _ => rfl)
      (uncovered (s.ownedBy p) r.baseg r.lastg) s :)
  · rfl

theorem State.sansAlloc_mapRoom (s : State) (r : Tab (Nat × Nat)) : ({ s with mapRoom := r } : State).sansAlloc = s.sansAlloc := rfl

theorem State.mapAlloc_only {s u : State} {p n al a : Nat} (h : s.mapAlloc p n al = some (a, u)) : u.sansAlloc = s.sansAlloc := by
  unfold mapAlloc at h
  dsimp only at h
  generalize s.freeRegion p 1024 = fr, granule = g, ceilDiv n granule = k at h
  split at h
  · cases h
    rfl
  · cases fr with
    | none => cases h
    | some i =>
      dsimp only at h
      generalize s.freeGranules p i _ dramGranules = fg at h
      cases fg with
      | none => cases h
      | some lo =>
        obtain ⟨rfl, rfl⟩ := Prod.mk.inj (Option.some.inj h)
        exact (sansAlloc_mapRoom _ _).trans (addRegion_sansAlloc s p i _)

/-! ### Pools and pages (R148) -/

theorem hPoolCreate_ok {c : Cmd} {s u : State} {a : Nat} {bs : List Byte} (hbs : s.awBytes c.part (c.w 0) 64 = bs)
    (hb : s.blockRefusal c.part (c.w 0) 64 true false = none) :
    let f := fun i => wordAt bs (8 * i)
    let q : Pool := { part := c.part, pgsz := f 1 == 1, rowBytes := f 2, base := f 3, npages := f 4, stateAddr := a }
    f 0 < 256 → f 1 < 2 → f 2 ≠ 0 → f 2 % 64 = 0 → f 3 % 4096 = 0 → f 4 ≠ 0 → f 4 < 2 ^ 32 → f 5 = 0 → f 6 = 0 → f 7 = 0 → inDram (f 3) = true →
    s.permits c.part (f 3) (q.npages * q.pageBytes) true true false = true → oget s.pools (f 0) = none → s.mapAlloc c.part (8 * f 4) 4096 = some (a, u) →
    hPoolCreate c s = ({ u with pools := tins u.pools (f 0) q }, .done 0 (f 0) 0) := by
  intro f q h0 h1 h2 h2' h3 h4 h4' h5 h6 h7 hd hp hfree ha
  have hform : ¬(256 ≤ f 0 ∨ 2 ≤ f 1 ∨ f 2 = 0 ∨ f 2 % 64 ≠ 0 ∨ f 3 % 4096 ≠ 0 ∨ f 4 = 0 ∨ 2 ^ 32 ≤ f 4 ∨ f 5 ≠ 0 ∨ f 6 ≠ 0 ∨ f 7 ≠ 0) := by omega
  have hgate : ¬(!(inDram (f 3) && s.permits c.part (f 3) (q.npages * q.pageBytes) true true false)) = true := by rw [hd, hp]; decide
  have hnone : ¬(oget s.pools (f 0)).isSome = true := by rw [hfree]; decide
  unfold hPoolCreate
  rw [withPb_ok hb, hbs]
  refine (if_neg hform).trans ((if_neg hgate).trans ((if_neg hnone).trans ?_))
  dsimp only
  rw [ha]

theorem State.poolOf_ok {s : State} {p n st : Nat} {q : Pool} (hq : oget s.pools n = some q) (hp : q.part = p) : s.poolOf p n st = .ok q := by
  unfold poolOf
  rw [hq]
  exact if_pos hp

theorem hPoolDestroy_free {c : Cmd} {s : State} {q : Pool} (hq : s.poolOf c.part (c.p 0) 0x15 = .ok q)
    (hf : ∀ f < q.npages, bit (s.le (q.stateAddr + 8 * f) 8) 32 = false) : hPoolDestroy c s = ({ s with pools := tdrop s.pools (c.p 0) }, ok) := by
  have hany : (List.range q.npages).any (fun f => psAlloc (s.pageState q f)) = false :=
    List.any_eq_false.mpr fun f hm => by rw [show psAlloc (s.pageState q f) = false from hf f (List.mem_range.mp hm)]; decide
  unfold hPoolDestroy
  rw [hq]
  dsimp only
  rw [hany, if_neg (by decide)]

theorem hPoolDestroy_busy {c : Cmd} {s : State} {q : Pool} (hq : s.poolOf c.part (c.p 0) 0x15 = .ok q)
    (hf : ∃ f < q.npages, bit (s.le (q.stateAddr + 8 * f) 8) 32 = true) : hPoolDestroy c s = (s, no 0x16) := by
  obtain ⟨f, hlt, hb⟩ := hf
  have hany : (List.range q.npages).any (fun f => psAlloc (s.pageState q f)) = true := List.any_eq_true.mpr ⟨f, List.mem_range.mpr hlt, hb⟩
  unfold hPoolDestroy
  rw [hq]
  dsimp only
  rw [hany, if_pos rfl]

theorem psGen_eq (v : Nat) : psGen v = v % 65536 := bits_eq v 0 16 |>.trans (by
  rw [Nat.pow_zero, Nat.div_one]
  rfl)

/-- The word of a page that PAGE_ALLOC takes: its generation stays. -/
theorem psWord_taken (v : Nat) : psWord (psGen v) 0 true = v % 65536 + 2 ^ 32 := by
  rw [psGen_eq]
  unfold psWord b2n
  rw [Nat.mod_mod, Nat.zero_mod, Nat.zero_mul, Nat.add_zero, if_pos rfl, Nat.mul_one]

/-- The word of a page that is free again: its generation rises. -/
theorem psWord_freed (g : Nat) : psWord (g + 1) 0 false = (g + 1) % 65536 := by
  unfold psWord b2n
  rw [Nat.zero_mod, Nat.zero_mul, Nat.add_zero, if_neg Bool.false_ne_true, Nat.mul_zero, Nat.add_zero]

/-- The free pages of a pool, lowest first. -/
def State.freeOf (s : State) (q : Pool) : List Nat := (List.range q.npages).filter (fun f => !psAlloc (s.pageState q f))

/-- Pages of a pool taken in turn. -/
def State.takePages (s : State) (q : Pool) (fs : List Nat) : State :=
  fs.foldl (fun v f => v.write (q.stateAddr + 8 * f) (toLe 8 (v.le (q.stateAddr + 8 * f) 8 % 65536 + 2 ^ 32))) s

theorem hPageAlloc_ok {c : Cmd} {s : State} {q : Pool} (hq : s.poolOf c.part (c.p 0) 0x11 = .ok q) (h0 : c.p 1 ≠ 0) (hlt : c.p 1 < 2 ^ 32)
    (hw : s.awOk c.part (c.w 2) (8 * c.p 1) false true = true) :
    hPageAlloc c s = if (s.freeOf q).length < c.p 1 then (s, no 0x19) else
      ((s.takePages q ((s.freeOf q).take (c.p 1))).awWrite c.part (c.w 2) (wordsLe (((s.freeOf q).take (c.p 1)).map
        (fun f => BitVec.ofNat 64 (f + s.le (q.stateAddr + 8 * f) 8 % 65536 * 2 ^ 32)))), ok) := by
  have hwords : (fun f => BitVec.ofNat 64 (f + psGen (s.pageState q f) * 2 ^ 32)) =
      fun f => BitVec.ofNat 64 (f + s.le (q.stateAddr + 8 * f) 8 % 65536 * 2 ^ 32) := funext fun f => by rw [psGen_eq]; rfl
  have hfold : (fun (s : State) f => s.setPageState q f (psWord (psGen (s.pageState q f)) 0 true)) =
      fun v f => v.write (q.stateAddr + 8 * f) (toLe 8 (v.le (q.stateAddr + 8 * f) 8 % 65536 + 2 ^ 32)) :=
    funext fun v => funext fun f => by rw [psWord_taken]; rfl
  have hshort : ((s.freeOf q).take (c.p 1)).length < c.p 1 ↔ (s.freeOf q).length < c.p 1 := by
    rw [List.length_take]
    omega
  unfold hPageAlloc
  dsimp only
  rw [hq]
  dsimp only
  rw [if_neg (by omega), hw, if_neg (by decide), hwords, hfold]
  by_cases h : (s.freeOf q).length < c.p 1
  · rw [if_pos h]
    exact if_pos (hshort.mpr h)
  · rw [if_neg h]
    exact if_neg fun hs => h (hshort.mp hs)

section
variable {c : Cmd} {s : State} {q : Pool}

theorem hPageFree_ok {u : State} (hq : s.poolOf c.part (c.p 0) 0x11 = .ok q) (h0 : c.p 1 ≠ 0) (hlt : c.p 1 < 2 ^ 32)
    (hw : s.awOk c.part (c.w 2) (8 * c.p 1) true false = true)
    (hf : freePages q ((List.range (c.p 1)).map (fun i => wordAt (s.awBytes c.part (c.w 2) (8 * c.p 1)) (8 * i))) s = .ok u) :
    hPageFree c s = (u, ok) := by
  unfold hPageFree
  dsimp only
  rw [hq]
  dsimp only
  rw [if_neg (by omega), hw, if_neg (by decide), hf]

theorem hPageFree_no {st : Nat} (hq : s.poolOf c.part (c.p 0) 0x11 = .ok q) (h0 : c.p 1 ≠ 0) (hlt : c.p 1 < 2 ^ 32)
    (hw : s.awOk c.part (c.w 2) (8 * c.p 1) true false = true)
    (hf : freePages q ((List.range (c.p 1)).map (fun i => wordAt (s.awBytes c.part (c.w 2) (8 * c.p 1)) (8 * i))) s = .error st) :
    hPageFree c s = (s, no st) := by
  unfold hPageFree
  dsimp only
  rw [hq]
  dsimp only
  rw [if_neg (by omega), hw, if_neg (by decide), hf]

end

theorem freePages_cons {q : Pool} {w : Nat} {ws : List Nat} {u : State} (hw : w < 2 ^ 48) :
    freePages q (w :: ws) u =
      let v := u.le (q.stateAddr + 8 * (w % 2 ^ 32)) 8
      if q.npages ≤ w % 2 ^ 32 ∨ (!bit v 32) = true ∨ bits v 0 16 ≠ bits w 32 16 then .error 0x31
      else if bits v 16 16 ≠ 0 then .error 0x32
      else freePages q ws (u.write (q.stateAddr + 8 * (w % 2 ^ 32)) (toLe 8 ((bits v 0 16 + 1) % 65536))) := by
  conv_lhs => unfold freePages
  dsimp only
  rw [if_neg (Nat.not_le.mpr hw), psWord_freed]
  rfl

/-- Settles O44: each command by its handler; the words of taken and of freed pages. -/
theorem pageCommands : Obligations.PageCommands := by
  unfold Obligations.PageCommands
  intro m h s
  refine ⟨?_, ?_, ?_⟩
  · intro pb a u ht hb f q h0 h1 h2 h2' h3 h4 h4' h5 h6 h7 hd hp hfree ha
    have hpools : u.pools = s.pools := (congrArg State.pools (State.mapAlloc_only ha) :)
    rw [← hpools]
    exact Replies.of_handler (handler := hPoolCreate) (f := fun _ => { u with pools := tins u.pools (f 0) q }) ht (by decide) rfl
      (hPoolCreate_ok (s := s.begun m h 0x0500 [pb]) rfl hb h0 h1 h2 h2' h3 h4 h4' h5 h6 h7 hd hp hfree ha)
  · intro n q hq hp
    refine ⟨fun ht hf => ?_, fun ht hf => ?_, ?_, ?_⟩
    · exact Replies.of_handler (handler := hPoolDestroy) ht (by decide) rfl (hPoolDestroy_free (s := s.begun m h 0x0501 [n]) (State.poolOf_ok hq hp) hf)
    · exact Replies.of_handler (handler := hPoolDestroy) (f := id) ht (by decide) rfl
        (hPoolDestroy_busy (s := s.begun m h 0x0501 [n]) (State.poolOf_ok hq hp) hf)
    · intro k out ht h0 hlt hw free gen
      have hh := hPageAlloc_ok (c := s.newCmd m h 0x0502 [n, k, out]) (s := s.begun m h 0x0502 [n, k, out]) (State.poolOf_ok hq hp)
        (fun he => h0 (BitVec.eq_of_toNat_eq he)) hlt hw
      refine ⟨fun hle => ?_, fun hshort => ?_⟩
      · exact Replies.of_handler (handler := hPageAlloc) ht (by decide) rfl (hh.trans (if_neg (Nat.not_lt.mpr hle)))
      · exact Replies.of_handler (handler := hPageAlloc) (f := id) ht (by decide) rfl (hh.trans (if_pos hshort))
    · intro k inp ht h0 hlt hw ws
      have hne : k.toNat ≠ 0 := fun he => h0 (BitVec.eq_of_toNat_eq he)
      refine ⟨fun u hu => ?_, fun st hst => ?_⟩
      · exact Replies.of_handler (handler := hPageFree) (f := fun _ => u) ht (by decide) rfl
          (hPageFree_ok (c := s.newCmd m h 0x0503 [n, k, inp]) (s := s.begun m h 0x0503 [n, k, inp]) (State.poolOf_ok hq hp) hne hlt hw hu)
      · exact Replies.of_handler (handler := hPageFree) (f := id) ht (by decide) rfl
          (hPageFree_no (c := s.newCmd m h 0x0503 [n, k, inp]) (s := s.begun m h 0x0503 [n, k, inp]) (State.poolOf_ok hq hp) hne hlt hw hst)
  · intro q w ws u f v
    have hgo (hf : f < q.npages) (ha : bit v 32 = true) (hg : bits v 0 16 = bits w 32 16) :
        ¬(q.npages ≤ w % 2 ^ 32 ∨ (!bit v 32) = true ∨ bits v 0 16 ≠ bits w 32 16) := by
      rintro (hc | hc | hc)
      · exact absurd hf (Nat.not_lt.mpr hc)
      · rw [ha] at hc
        cases hc
      · exact hc hg
    refine ⟨fun hw hf ha hg hm => ?_, fun hw hf ha hg hm => ?_, fun hw hbad => ?_⟩
    · exact (freePages_cons hw).trans ((if_neg (hgo hf ha hg)).trans (if_neg (not_not.mpr hm)))
    · exact (freePages_cons hw).trans ((if_neg (hgo hf ha hg)).trans (if_pos hm))
    · exact (freePages_cons hw).trans (if_pos (hbad.imp_right (Or.imp_left fun hb => by rw [show bit _ 32 = false from hb]; rfl)))

end Sys2Proof.Machine
end

section
/-!
Page-map commands (R149 to R157, R275).
-/

namespace Sys2Proof.Machine

/-! ### What edits of maps leave as it was -/

/-- Stores keep a field that a store of bytes keeps: the leaf entry and the count of its page. -/
theorem State.putLeaf_maps (s : State) (a w : Nat) : (s.putLeaf a w).maps = s.maps := by
  have hwrite : ∀ (u : State) (a : Nat) (bs : List Byte), (u.write a bs).maps = u.maps := fun u a bs => (congrArg State.maps (u.write_only a bs) :)
  have hcount : ∀ (u : State) (leaf : Nat) (up : Bool), (u.countMap leaf up).maps = u.maps := by
    intro u leaf up
    unfold countMap
    split
    · rfl
    · exact hwrite ..
  have hif : ∀ (b : Bool) (u : State) (leaf : Nat) (up : Bool), (if b then u.countMap leaf up else u).maps = u.maps := by
    intro b u leaf up
    cases b
    · rfl
    · exact hcount ..
  exact (hwrite ..).trans ((hif ..).trans (hif ..))

theorem State.dropStream_maps (s : State) (r : Stream) : (s.dropStream r).maps = s.maps := by
  unfold dropStream
  split
  · rfl
  · refine foldl_keeps State.maps _ (fun u d => ?_) _ s
    dsimp only
    split
    · exact foldl_keeps State.maps _ (fun v i => v.putLeaf_maps _ _) _ u
    · rfl

theorem State.allocTables_only {p : Nat} {l : List Nat} {s u : State} {ts : List (Nat × Nat)} (h : s.allocTables p l = some (ts, u)) :
    u.sansAlloc = s.sansAlloc := by
  induction l generalizing s u ts with
  | nil => cases h; rfl
  | cons i l ih =>
    unfold allocTables at h
    split at h
    next => cases h
    next a v ha =>
      split at h
      next => cases h
      next ts' w hw =>
        cases h
        exact (ih hw).trans (mapAlloc_only ha)

/-- An edit that is made leaves the state as it was but for map memory. -/
def AllocOnly (s : State) (r : Except Nat (MapEdit × State)) : Prop := ∀ d u, r = .ok (d, u) → u.sansAlloc = s.sansAlloc

theorem AllocOnly.error (s : State) (st : Nat) : AllocOnly s (.error st) := fun _ _ h => by cases h

theorem AllocOnly.ok {s u : State} (d : MapEdit) (h : u.sansAlloc = s.sansAlloc) : AllocOnly s (.ok (d, u)) := fun _ _ hr => by
  obtain ⟨-, rfl⟩ := Prod.mk.inj (Except.ok.inj hr)
  exact h

theorem AllocOnly.ite {s : State} {p : Prop} [Decidable p] {x y : Except Nat (MapEdit × State)} (hx : AllocOnly s x) (hy : AllocOnly s y) :
    AllocOnly s (if p then x else y) := by
  by_cases h : p
  · rw [if_pos h]
    exact hx
  · rw [if_neg h]
    exact hy

theorem State.newDirectory_only (s : State) (c : Cmd) (d : MapEdit) : AllocOnly s (s.newDirectory c d) := by
  rw [newDirectory]
  generalize ha : s.mapAlloc c.part _ 4096 = r
  match r with
  | none => exact .error s _
  | some (_, _) => exact .ok _ (mapAlloc_only ha)

/-- Making an edit takes map memory and nothing else. -/
theorem State.makeEdit_only (s : State) (c : Cmd) (e : MapE) : AllocOnly s (s.makeEdit c e) := by
  unfold makeEdit
  refine .ite (.error s _) (.ite (.ite (.error s _) (.ite ?stream (.ok _ rfl))) ?leaves)
  case stream =>
    cases s.deviceWord c 4 8 with
    | some x => exact .error s _
    | none => cases s.deviceWord c 5 16 with
      | some x => exact .error s _
      | none => exact s.newDirectory_only c _
  case leaves =>
    generalize s.streamAfter e (c.p 1) = r
    refine .ite (.error s _) (.ite (.ite (.error s _) (.ite (.error s _) (.ite (.error s _) ?_))) (.ok _ rfl))
    dsimp only
    generalize hts : s.allocTables c.part _ = ts
    cases ts with
    | none => exact .error s _
    | some ts => exact .ok _ (allocTables_only hts)

/-! ### The commands -/

theorem State.mapOf_ok {s : State} {p n st : Nat} {e : MapE} (he : oget s.maps n = some e) (hp : e.part = p) : s.mapOf p n st = .ok e := by
  unfold mapOf
  rw [he]
  exact if_pos hp

theorem hPmapCreate_ok {c : Cmd} {s u : State} {id a : Nat} (hk : freeKey s.maps 65536 0 = some id) (ha : s.mapAlloc c.part 320 128 = some (a, u)) :
    let v := u.write a (toLe 2 id ++ List.replicate 318 0#8)
    let e : MapE := { part := c.part, header := a, epoch := 0, pins := 0, lock := false, queue := [] }
    hPmapCreate c s = ({ v with maps := tins s.maps id e }, .done 0 id a) := by
  intro v e
  have hmaps : v.maps = s.maps := (congrArg State.maps (u.write_only ..) :).trans (congrArg State.maps (State.mapAlloc_only ha) :)
  unfold hPmapCreate
  rw [hk]
  dsimp only
  rw [ha, ← hmaps]

theorem hPmapDestroy_ok {c : Cmd} {s : State} {e : MapE} (he : s.mapOf c.part (c.p 0) 0x15 = .ok e) (hpin : e.pins = 0) (hq : e.queue = [])
    (hs : ∀ x ∈ s.seqs, x.2.state ≠ 0 → x.2.map ≠ e.header) :
    hPmapDestroy c s =
      let v := ((List.range 4).foldl (fun v st => v.dropStream (v.stream e.header st)) s).forgetMap (c.p 0)
      ({ v with maps := tdrop s.maps (c.p 0) }, ok) := by
  have hany : s.seqs.any (fun (_, q) => q.state ≠ 0 && q.map == e.header) = false :=
    List.any_eq_false.mpr fun x hx => by
      have := hs x hx
      simp only [Bool.and_eq_true, decide_eq_true_eq, beq_iff_eq, not_and]
      exact this
  have hmaps : ((List.range 4).foldl (fun v st => v.dropStream (v.stream e.header st)) s).maps = s.maps :=
    foldl_keeps State.maps _ (fun u st => u.dropStream_maps _) _ s
  unfold hPmapDestroy
  rw [he]
  dsimp only
  rw [hany, if_neg (by simp [hpin, hq])]
  generalize (List.range 4).foldl (fun v st => v.dropStream (v.stream e.header st)) s = w at hmaps ⊢
  rw [show (w.forgetMap (c.p 0)).maps = s.maps from hmaps]

theorem hPmapQuery_ok {c : Cmd} {s : State} {e : MapE} (he : s.mapOf c.part (c.p 0) 0x15 = .ok e) :
    hPmapQuery c s = (s, .done 0 e.epoch.toNat (e.pins.toNat + e.queue.length * 65536)) := by
  unfold hPmapQuery
  rw [he]

section
variable {c : Cmd} {s u : State} {e : MapE} {d : MapEdit}

theorem hEdit_now (he : s.mapOf c.part (c.p 0) 0x11 = .ok e) (hd : s.makeEdit c e = .ok (d, u)) (hpin : e.pins = 0) (hq : e.queue = []) :
    hEdit c s = (u.batch (c.p 0) [d], ok) := by
  unfold hEdit
  rw [he]
  dsimp only
  rw [hd]
  dsimp only
  rw [if_pos ⟨hpin, hq⟩]

theorem hEdit_full (he : s.mapOf c.part (c.p 0) 0x11 = .ok e) (hd : s.makeEdit c e = .ok (d, u)) (hb : e.pins ≠ 0 ∨ e.queue ≠ [])
    (hfull : 32 ≤ e.queue.length) : hEdit c s = (s, no 0x30) := by
  unfold hEdit
  rw [he]
  dsimp only
  rw [hd]
  dsimp only
  rw [if_neg (fun h => hb.elim (fun h1 => h1 h.1) (fun h2 => h2 h.2)), if_pos hfull]

theorem hEdit_later (hm : oget s.maps (c.p 0) = some e) (hp : e.part = c.part) (hd : s.makeEdit c e = .ok (d, u)) (hb : e.pins ≠ 0 ∨ e.queue ≠ [])
    (hroom : e.queue.length < 32) :
    hEdit c s = ({ u with maps := tins s.maps (c.p 0) { e with queue := e.queue ++ [d] } }, if c.wait then .wait else no 1) := by
  have hmaps : u.maps = s.maps := (congrArg State.maps (State.makeEdit_only _ _ _ _ _ hd) :)
  unfold hEdit
  rw [State.mapOf_ok hm hp]
  dsimp only
  rw [hd]
  dsimp only
  rw [if_neg (fun h => hb.elim (fun h1 => h1 h.1) (fun h2 => h2 h.2)), if_neg (Nat.not_le.mpr hroom), hmaps, oupd_some hm]

/-- A batch of one edit. -/
theorem State.batch_one {id : Nat} (he : oget s.maps id = some e) : oget (s.batch id [d]).maps id = some { e with epoch := e.epoch + 1, lock := false, queue := [] } ∧
    (s.batch id [d]).mem = (d.write e.header s).mem := by
  unfold batch
  rw [he]
  exact ⟨(oget_tins ..).trans (if_pos rfl), rfl⟩

end

/-- Settles O45: an edit is applied, queued or refused. -/
theorem pageMapCommands : Obligations.PageMapCommands := by
  unfold Obligations.PageMapCommands
  intro m h s
  refine ⟨?_, ?_, ?_⟩
  · intro id a u ht hk ha v e
    exact Replies.of_handler (handler := hPmapCreate) (f := fun _ => { v with maps := tins s.maps id e }) ht (by decide) rfl
      (hPmapCreate_ok (c := s.newCmd m h 0x0504 []) (s := s.begun m h 0x0504 []) hk ha)
  · intro n e he hp
    refine ⟨fun ht hpin hq hs => ?_, fun ht => ?_, ?_⟩
    · exact Replies.of_handler (handler := hPmapDestroy) ht (by decide) rfl
        (hPmapDestroy_ok (s := s.begun m h 0x0505 [n]) (State.mapOf_ok he hp) hpin hq hs)
    · exact Replies.of_handler (handler := hPmapQuery) ht (by decide) rfl (hPmapQuery_ok (s := s.begun m h 0x0509 [n]) (State.mapOf_ok he hp))
    · intro i code ps d u ht hi hd
      have hrun : exec i s = .next (runCmd m h code ps hEdit s) ∧ code ≠ 4 ∧ (s.newCmd m h code ps).p 0 = n.toNat := by
        rcases hi with ⟨_, _, _, _, _, rfl, rfl, rfl⟩ | ⟨_, _, _, _, rfl, rfl, rfl⟩ | ⟨_, _, _, rfl, rfl, rfl⟩
        · exact ⟨rfl, by decide, rfl⟩
        · exact ⟨rfl, by decide, rfl⟩
        · exact ⟨rfl, by decide, rfl⟩
      obtain ⟨hexec, hc, hn⟩ := hrun
      have hm : oget (s.begun m h code ps).maps ((s.newCmd m h code ps).p 0) = some e := by
        rw [hn]
        exact he
      refine ⟨fun hpin hq => ?_, fun hb hroom => ?_, fun hb hfull => ?_⟩
      · have hmaps : u.maps = s.maps := (congrArg State.maps (State.makeEdit_only _ _ _ _ _ hd) :)
        obtain ⟨h1, h2⟩ := State.batch_one (s := u) (d := d) (id := n.toNat) (e := e) (by rw [hmaps]; exact he)
        refine ⟨u.batch n.toNat [d], ?_, h1, h2⟩
        refine Replies.of_handler (handler := hEdit) (f := fun _ => u.batch n.toNat [d]) ht hc hexec ?_
        rw [hEdit_now (State.mapOf_ok hm hp) hd hpin hq, hn]
        rfl
      · refine Replies.of_handler (handler := hEdit) (f := fun _ => { u with maps := tins s.maps n.toNat { e with queue := e.queue ++ [d] } }) ht hc hexec ?_
        rw [hEdit_later hm hp hd hb hroom, hn, show (s.newCmd m h code ps).wait = false from ht.plain, if_neg Bool.false_ne_true]
        rfl
      · exact Replies.of_handler (handler := hEdit) (f := id) ht hc hexec (hEdit_full (State.mapOf_ok hm hp) hd hb hfull)
  · intro c e d u he hp hd hb hroom hw
    rw [hEdit_later he hp hd hb hroom, hw, if_pos rfl]

end Sys2Proof.Machine
end

section
/-!
Flash layout and tensor objects (R216 to R221, R242 to R244).
-/

namespace Sys2Proof.Machine

/-! ### Identifiers -/

theorem mem_keys_of_oget {α : Type} {t : Tab α} {k : Nat} (h : oget t k ≠ none) : k ∈ t.map (·.1) := by
  induction t with
  | nil => exact absurd rfl h
  | cons e t ih =>
    obtain ⟨j, v⟩ := e
    by_cases hk : k = j
    · exact hk ▸ List.mem_cons_self
    · refine List.mem_cons_of_mem _ (ih fun hn => h ?_)
      exact (if_neg hk).trans hn

/-- With fewer than 2^32 entries the next identifier is free: more candidates are tried than there are entries. -/
theorem oget_nextId {α : Type} {t : Tab α} (ht : t.length < 2 ^ 32) (last : Nat) : oget t (nextId t last) = none := by
  let cand := (List.range (t.length + 1)).map (fun i => (last + 1 + i) % 2 ^ 32)
  have hnodup : cand.Nodup := by
    refine List.Nodup.map_on (fun i hi j hj hij => ?_) List.nodup_range
    have hi := List.mem_range.mp hi
    have hj := List.mem_range.mp hj
    omega
  have hfree : (cand.find? (fun k => (oget t k).isNone)).isSome = true := by
    by_contra hn
    have hall := List.find?_eq_none.mp (Option.not_isSome_iff_eq_none.mp hn)
    have hsub : cand ⊆ t.map (·.1) := fun k hk => mem_keys_of_oget fun he => hall k hk (by rw [he]; rfl)
    have hle := (hnodup.subperm hsub).length_le
    simp [cand] at hle
  obtain ⟨k, hk⟩ := Option.isSome_iff_exists.mp hfree
  have hn : nextId t last = k := by
    unfold nextId
    rw [show List.find? _ _ = some k from hk]
    rfl
  rw [hn]
  have hsome := List.find?_some hk
  exact Option.isNone_iff_eq_none.mp hsome

/-- Of two values listed at a key one after the other, the second stays. -/
theorem tins_tins {α : Type} (t : Tab α) (k : Nat) (v w : α) : tins (tins t k v) k w = tins t k w := by
  induction t with
  | nil => exact if_pos rfl
  | cons e t ih =>
    obtain ⟨j, x⟩ := e
    have hcons : ∀ (j : Nat) (x z : α) (t : Tab α), tins ((j, x) :: t) k z =
        if k = j then (k, z) :: t else if k < j then (k, z) :: (j, x) :: t else (j, x) :: tins t k z := fun _ _ _ _ => rfl
    rw [hcons j x v, hcons j x w]
    by_cases hk : k = j
    · rw [if_pos hk, if_pos hk, hcons, if_pos rfl]
    · rw [if_neg hk, if_neg hk]
      by_cases hlt : k < j
      · rw [if_pos hlt, if_pos hlt, hcons, if_pos rfl]
      · rw [if_neg hlt, if_neg hlt, hcons, if_neg hk, if_neg hlt, ih]

/-! ### Layout -/

theorem hFlashLayout_ok {c : Cmd} {s : State} (hm : c.p 0 % 16000000000 = 0) (hmax : c.p 0 ≤ variantBytes 8000000000000)
    (hw : s.wpkgBytes (fun _ => true) ≤ c.p 0) (ht : 2 * s.tobjBytes (fun _ => true) ≤ usableBytes - c.p 0 - variantBytes 3064000000000) :
    hFlashLayout c s = (s.updFlash (fun f => { f with wsize := c.p 0 }.journal), ok) := by
  unfold hFlashLayout
  exact (if_neg (not_or.mpr ⟨not_not.mpr hm, Nat.not_lt.mpr hmax⟩)).trans (if_neg (not_or.mpr ⟨Nat.not_lt.mpr hw, Nat.not_lt.mpr ht⟩))

theorem freeResp_ok {which j n : Nat} {s : State} {c : Cmd} (hb : s.blockRefusal c.part (c.w j) n false true = none) :
    freeResp which j n s c =
      ({ s.awWrite c.part (c.w j) ((List.range n).map (Config.responseByte which s.fresh)) with fresh := s.fresh + 1 }, ok) := by
  unfold freeResp
  rw [hb]

/-! ### Tensor objects: the handlers -/

/-- A tensor object as TOBJ_CREATE makes it. -/
def Tobj.created (p n : Nat) : Tobj :=
  { part := p, sizeg := n, state := .flash, region := 0, image := [], damaged := false, evict := false, copying := [], lost := [] }

theorem hTobjCreate_ok {c : Cmd} {s : State} (h1 : 1 ≤ c.p 0) (hmax : c.p 0 ≤ 131072) (hd : s.flash.degr = false)
    (hq : s.tobjBytes (· == c.part) + c.p 0 * granule ≤ s.flashQuota c.part s.tierBytes (·.tq))
    (ht : 2 * s.tobjBytes (fun _ => true) + 2 * (c.p 0 * granule) ≤ s.tierBytes) :
    hTobjCreate c s =
      let id := nextId s.tobjs s.lastTobj
      (State.charge { s with
        tobjs := tins s.tobjs id (Tobj.created c.part (c.p 0))
        lastTobj := id
        flash := s.flash.replace (.tobj id) (c.p 0 * granule) } c.part 1 (c.p 0 * granule), .done 0 id 0) := by
  have hdegr : ¬s.flash.degr = true := by rw [hd]; decide
  unfold hTobjCreate
  exact (if_neg (by omega)).trans ((if_neg hdegr).trans ((if_neg (Nat.not_lt.mpr hq)).trans (if_neg (Nat.not_lt.mpr ht))))

theorem State.tobjOf_ok {s : State} {p n st : Nat} {t : Tobj} (ht : oget s.tobjs n = some t) (hp : t.part = p) : s.tobjOf p n st = .ok t := by
  unfold tobjOf
  rw [ht]
  exact if_pos hp

/-- The home of an object that is being loaded. -/
def Tobj.home (t : Tobj) (id lo f : Nat) : Region :=
  { mkRegion false false false (flag f 3) false (BitVec.ofNat 3 (bits f 4 3)) lo (lo + t.sizeg - 1) with tobj := true, tobjId := BitVec.ofNat 32 id }

theorem hTobjLoad_ok {c : Cmd} {s : State} {t : Tobj} (ht : s.tobjOf c.part (c.p 0) 0x11 = .ok t) (hf : c.p 3 < 2 ^ 7) (hst : t.state = .flash)
    (hd : t.damaged = false) (hone : inOneDie (c.p 2) (c.p 2 + t.sizeg - 1) = true)
    (hr : s.regionRefusal c.part (c.p 1) (c.p 2) (c.p 2 + t.sizeg - 1) (flag (c.p 3) 3) (BitVec.ofNat 3 (bits (c.p 3) 4 3)) = none) :
    hTobjLoad c s = (((s.addRegion c.part (c.p 1) (t.home (c.p 0) (c.p 2) (c.p 3))).updTobj (c.p 0)
      (fun t => { t with state := .loading, region := c.p 1 })).beginRead (.cmd c.m c.tag) (.tobj (c.p 0)), .bg) := by
  unfold hTobjLoad
  rw [ht]
  dsimp only
  rw [if_neg (Nat.not_le.mpr hf), if_neg (not_not.mpr hst), hd, if_neg (by decide), hone, if_neg (by decide), hr]
  rfl

theorem State.dirty_resident {s : State} {t : Tobj} {r : Region} (hst : t.state = .resident) (hr : s.homeOf t = some r) : s.dirty t = r.dirty := by
  unfold dirty
  rw [hst, hr]
  rfl

theorem hTobjFlush_clean {c : Cmd} {s : State} {t : Tobj} (ht : s.tobjOf c.part (c.p 0) 0x11 = .ok t) (hst : t.state = .resident)
    (hd : s.dirty t = false) : hTobjFlush c s = (s, ok) := by
  unfold hTobjFlush
  rw [ht]
  dsimp only
  rw [if_neg (not_not.mpr hst), hd]
  rfl

theorem hTobjFlush_dirty {c : Cmd} {s : State} {t : Tobj} {r : Region} (ht : oget s.tobjs (c.p 0) = some t) (hp : t.part = c.part) (hst : t.state = .resident)
    (hr : s.homeOf t = some r) (hd : r.dirty = true) (href : s.flash.tierRefusal = none) :
    hTobjFlush c s = ({ s with
      regions := tins s.regions (regionKey t.part t.region) { r with dirty := false }
      tobjs := tins s.tobjs (c.p 0) { t with state := .writing, copying := s.capture (r.baseg * granule) (t.sizeg * granule) } }, .bg) := by
  unfold hTobjFlush
  rw [State.tobjOf_ok ht hp]
  dsimp only
  rw [if_neg (not_not.mpr hst), State.dirty_resident hst hr, hd, if_neg (by decide), href]
  dsimp only
  rw [hr]
  dsimp only
  unfold State.updTobj State.updHome
  dsimp only
  rw [oupd_some ht, oupd_some (show oget s.regions _ = some r from hr)]

/-- The drain of a home that is to lose W (R215, R217). -/
def evictDrain (c : Cmd) (s : State) (t : Tobj) (r : Region) : RegionDrain :=
  { part := c.part, idx := t.region, keep := some (r.r, false, r.x), m := c.m, tag := c.tag, marks := s.marks }

/-- The state once an eviction has begun: the command keeps what W was. -/
def State.evicting (s : State) (c : Cmd) (n : Nat) (t : Tobj) (r : Region) : State :=
  State.updCmd { s with drains := s.drains ++ [evictDrain c s t r], tobjs := tins s.tobjs n { t with evict := true } } c
    (fun d => { d with r0 := b2n r.w, r1 := b2n (s.dirty t) })

theorem hTobjEvict_ok {c : Cmd} {s : State} {t : Tobj} {r : Region} (ht : oget s.tobjs (c.p 0) = some t) (hp : t.part = c.part) (hst : t.state = .resident)
    (hr : s.homeOf t = some r) (href : r.dirty = true → s.flash.tierRefusal = none) :
    hTobjEvict c s = (s.evicting c (c.p 0) t r, .bg) := by
  have hno : (if s.dirty t = true then s.flash.tierRefusal else none) = none := by
    rw [State.dirty_resident hst hr]
    split
    next h => exact href h
    next => rfl
  unfold hTobjEvict
  rw [State.tobjOf_ok ht hp]
  dsimp only
  rw [if_neg (not_not.mpr hst), hr, hno]
  dsimp only
  unfold State.updTobj State.beginDrain State.evicting evictDrain
  dsimp only
  rw [oupd_some ht]

theorem hTobjDestroy_ok {c : Cmd} {s : State} {t : Tobj} (ht : s.tobjOf c.part (c.p 0) 0x11 = .ok t) (hst : t.state = .flash) :
    hTobjDestroy c s = ({ s with tobjs := tdrop s.tobjs (c.p 0), flash := (s.flash.release (.tobj (c.p 0))).journal }, ok) := by
  unfold hTobjDestroy
  rw [ht]
  dsimp only
  rw [if_neg (not_not.mpr hst)]

/-- The rows of R216 that TOBJ_QUERY reports. -/
def tobjRows : List (TobjState × Bool × Nat) :=
  [(.flash, false, 0), (.loading, false, 1), (.resident, false, 2), (.resident, true, 11), (.writing, false, 4), (.writing, true, 12)]

theorem hTobjQuery_ok {c : Cmd} {s : State} {t : Tobj} {k : Nat} (ht : s.tobjOf c.part (c.p 0) 0x15 = .ok t) (hk : (t.state, s.dirty t, k) ∈ tobjRows) :
    hTobjQuery c s = (s, .done 0 k t.region) := by
  have hrow : ∀ x ∈ tobjRows, (match x.1 with
      | .flash => 0
      | .loading => 1
      | .resident => if x.2.1 then 3 else 2
      | .writing => 4) + 8 * b2n x.2.1 = x.2.2 := by decide
  unfold hTobjQuery
  rw [ht]
  exact congrArg (fun n => (s, Reply.done 0 n t.region)) (hrow _ hk)

/-! ### Tensor objects: the finishes -/

section
variable {s : State} {c : Cmd} {t : Tobj} {r : Region}

/-- The state once an object's flash copy lies in its home. -/
def State.homeLoaded (s : State) (c : Cmd) (t : Tobj) (r : Region) : State :=
  let a := r.baseg * granule
  let v : State := { s.placeImage a (t.sizeg * granule) t.image with
    poison := t.lost.map (a / 64 + ·) ++ (s.placeImage a (t.sizeg * granule) t.image).poison.filter (fun l => !t.lost.contains (l - a / 64) || decide (l < a / 64))
    regions := tins s.regions (regionKey t.part t.region) { r with r := flag (c.p 3) 0, w := flag (c.p 3) 1, x := flag (c.p 3) 2, dirty := false }
    tobjs := tins s.tobjs (c.p 0) { t with state := .resident } }
  (v.endRead (.cmd c.m c.tag)).charge c.part 1 (t.sizeg * granule)

theorem finTobjLoad_ok (ht : oget s.tobjs (c.p 0) = some t) (hr : s.homeOf t = some r) (ho : s.regOpen c.part 1 = true) :
    finTobjLoad c s = (s.homeLoaded c t r).commit c 0 0 := by
  unfold finTobjLoad
  rw [ht]
  dsimp only
  rw [hr]
  dsimp only
  rw [ho, if_neg (by decide)]
  unfold State.updTobj State.updHome State.placeImage State.zero
  dsimp only
  rw [oupd_some ht, oupd_some (show oget s.regions _ = some r from hr)]
  rfl

theorem State.homeLoaded_spec : (s.homeLoaded c t r).mem = (s.placeImage (r.baseg * granule) (t.sizeg * granule) t.image).mem ∧
    (s.homeLoaded c t r).journal = s.journal ∧
    (s.homeLoaded c t r).regions =
      tins s.regions (regionKey t.part t.region) { r with r := flag (c.p 3) 0, w := flag (c.p 3) 1, x := flag (c.p 3) 2, dirty := false } ∧
    (s.homeLoaded c t r).tobjs = tins s.tobjs (c.p 0) { t with state := .resident } ∧
    ∀ l ∈ t.lost, r.baseg * granule / 64 + l ∈ (s.homeLoaded c t r).poison := by
  refine ⟨rfl, rfl, rfl, rfl, fun l hl => ?_⟩
  exact List.mem_append_left _ (List.mem_map.mpr ⟨l, hl, rfl⟩)

/-- An object whose home has been copied to a new flash copy (R218). -/
def Tobj.written (t : Tobj) (s : State) (r : Region) : Tobj :=
  { t with image := mixImages s.fresh t.copying (s.capture (r.baseg * granule) (t.sizeg * granule)), damaged := false, copying := [],
           lost := (s.poison.filter (fun l => decide (r.baseg * granule ≤ 64 * l ∧ 64 * l < r.baseg * granule + t.sizeg * granule))).map
             (· - r.baseg * granule / 64) }

theorem State.writeBack_eq {id : Nat} (ht : oget s.tobjs id = some t) : s.writeBack id t r = State.charge { s with
    flash := s.flash.replace (.tobj id) (t.sizeg * granule), fresh := s.fresh + 1, tobjs := tins s.tobjs id (t.written s r) } t.part 1 (t.sizeg * granule) := by
  exact congrArg (fun ts => State.charge { s with
    flash := s.flash.replace (.tobj id) (t.sizeg * granule), fresh := s.fresh + 1, tobjs := ts } t.part 1 (t.sizeg * granule)) (oupd_some ht _)

theorem mixImages_same (occ : Nat) (x : Tab Byte) : mixImages occ x x = x := by
  unfold mixImages
  simp

/-- The state once a home has been written back and its object is resident again. -/
def State.flushed (s : State) (id : Nat) (t : Tobj) (r : Region) : State := (s.writeBack id t r).updTobj id (fun t => { t with state := .resident })

theorem State.flushed_spec {id : Nat} (ht : oget s.tobjs id = some t) : (s.flushed id t r).mem = s.mem ∧ (s.flushed id t r).regions = s.regions ∧
    (s.flushed id t r).flash = s.flash.replace (.tobj id) (t.sizeg * granule) ∧
    (s.flushed id t r).tobjs = tins s.tobjs id { t.written s r with state := .resident } := by
  unfold flushed
  rw [State.writeBack_eq ht]
  exact ⟨rfl, rfl, rfl, (oupd_some ((oget_tins ..).trans (if_pos rfl)) _).trans (tins_tins ..)⟩

theorem finTobjFlush_ok (ht : oget s.tobjs (c.p 0) = some t) (hr : s.homeOf t = some r) (ho : s.regOpen c.part 1 = true) :
    finTobjFlush c s = (s.flushed (c.p 0) t r).commit c 0 0 := by
  unfold finTobjFlush
  rw [ht]
  dsimp only
  rw [hr]
  dsimp only
  rw [ho, if_neg (by decide)]
  rfl

theorem finTobjEvict_clean (ht : oget s.tobjs (c.p 0) = some t) (hr : s.homeOf t = some r) (hst : t.state = .writing) (hd : r.dirty = false)
    (hc : c.committed = false) : finTobjEvict c s = s.commit c c.r0 c.r1 := by
  unfold finTobjEvict
  rw [ht]
  dsimp only
  rw [hr]
  dsimp only
  rw [if_neg (by simp [hst, hd]), hc, if_pos (by rfl)]
  simp only [hd, Bool.false_eq_true, false_and, if_false]

/-- The state once the home of an evicted object is gone. -/
def State.homeGone (s : State) (id : Nat) (t : Tobj) : State :=
  (s.dropRegion t.part t.region).updTobj id (fun t => { t with state := .flash, evict := false, copying := [] })

theorem finTobjEvict_gone (ht : oget s.tobjs (c.p 0) = some t) (hr : s.homeOf t = some r) (hst : t.state = .writing) (hc : c.committed = true)
    (hb : s.regionBusy t.part s.marks r = false) : finTobjEvict c s = (s.homeGone (c.p 0) t).complete c 0 false 0 0 := by
  unfold finTobjEvict
  rw [ht]
  dsimp only
  rw [hr]
  dsimp only
  rw [if_neg (by simp [hst, hc]), hc, if_neg (by decide), hb, if_neg (by decide)]
  rfl

end

/-- A command's finish by its code. -/
theorem finOf_tobj (o : BgFind) (c : Cmd) (s : State) : (c.code = 0x0603 → finOf o c s = finTobjLoad c s) ∧ (c.code = 0x0604 → finOf o c s = finTobjFlush c s) ∧
    (c.code = 0x0605 → finOf o c s = finTobjEvict c s) := by
  unfold finOf
  exact ⟨fun h => by rw [h]; rfl, fun h => by rw [h]; rfl, fun h => by rw [h]; rfl⟩

section
variable {s : State} {c : Cmd} {t : Tobj} {r : Region} (o : BgFind) (hobj : oget s.tobjs (c.p 0) = some t) (hr : s.region t.part t.region = some r)
include hobj hr

theorem tobjLoad_finishes (hcode : c.code = 0x0603) (ho : s.regOpen c.m 1 = true) : ∃ u : State, finOf o c s = u.commit c 0 0 ∧
    u.mem = (s.placeImage (r.baseg * granule) (t.sizeg * granule) t.image).mem ∧ u.journal = s.journal ∧
    u.regions = tins s.regions (1024 * t.part + t.region) { r with r := bit (c.p 3) 0, w := bit (c.p 3) 1, x := bit (c.p 3) 2, dirty := false } ∧
    u.tobjs = tins s.tobjs (c.p 0) { t with state := .resident } ∧ ∀ l ∈ t.lost, r.baseg * granule / 64 + l ∈ u.poison :=
  ⟨s.homeLoaded c t r, ((finOf_tobj o c s).1 hcode).trans (finTobjLoad_ok hobj hr ho), State.homeLoaded_spec⟩

theorem tobjFlush_finishes (hcode : c.code = 0x0604) (ho : s.regOpen c.m 1 = true) : ∃ u : State, finOf o c s = u.commit c 0 0 ∧ u.mem = s.mem ∧
    u.regions = s.regions ∧ u.flash = s.flash.replace (.tobj (c.p 0)) (t.sizeg * granule) ∧ ∃ x, u.tobjs = tins s.tobjs (c.p 0) x ∧
    x.state = .resident ∧ x.damaged = false ∧ x.image = mixImages s.fresh t.copying (s.capture (r.baseg * granule) (t.sizeg * granule)) ∧
    (t.copying = s.capture (r.baseg * granule) (t.sizeg * granule) → x.image = t.copying) := by
  obtain ⟨hmem, hreg, hflash, hobjs⟩ := State.flushed_spec (s := s) (r := r) hobj
  refine ⟨_, ((finOf_tobj o c s).2.1 hcode).trans (finTobjFlush_ok hobj hr ho), hmem, hreg, hflash, { t.written s r with state := .resident }, hobjs,
    rfl, rfl, rfl, fun heq => ?_⟩
  show mixImages s.fresh t.copying (s.capture (r.baseg * granule) (t.sizeg * granule)) = t.copying
  rw [← heq]
  exact mixImages_same ..

omit hr in
theorem State.homeGone_spec : (s.homeGone (c.p 0) t).mem = s.mem ∧ (s.homeGone (c.p 0) t).regions = tdrop s.regions (1024 * t.part + t.region) ∧
    (s.homeGone (c.p 0) t).tobjs = tins s.tobjs (c.p 0) { t with state := .flash, evict := false, copying := [] } :=
  ⟨rfl, rfl, oupd_some (t := s.tobjs) hobj _⟩

end

theorem State.mem_updCmd {s : State} {c : Cmd} (hc : c ∈ s.journal) (f : Cmd → Cmd) : f c ∈ (s.updCmd c f).journal :=
  List.mem_map.mpr ⟨c, hc, if_pos ⟨rfl, rfl, rfl⟩⟩

/-- The command of an eviction that goes on in the background. -/
theorem State.evicting_cmd {s : State} {c : Cmd} {n : Nat} (t : Tobj) (r : Region) (hc : c ∈ s.journal) :
    ∃ c', c' ∈ ((s.evicting c n t r).updCmd c (fun d => { d with bg := true })).journal ∧ c'.m = c.m ∧ c'.tag = c.tag ∧ c'.bg = true ∧ c'.r0 = b2n r.w := by
  have hmem : ({ c with r0 := b2n r.w, r1 := b2n (s.dirty t) } : Cmd) ∈ (s.evicting c n t r).journal :=
    State.mem_updCmd (s := { s with drains := s.drains ++ [evictDrain c s t r], tobjs := tins s.tobjs n { t with evict := true } }) hc _
  exact ⟨_, List.mem_map.mpr ⟨_, hmem, if_pos ⟨rfl, rfl, rfl⟩⟩, rfl, rfl, rfl, rfl⟩

theorem State.evicting_spec (s : State) (c : Cmd) (n : Nat) (t : Tobj) (r : Region) (f : Cmd → Cmd) : ((s.evicting c n t r).updCmd c f).regions = s.regions ∧
    ((s.evicting c n t r).updCmd c f).tobjs = tins s.tobjs n { t with evict := true } ∧
    ((s.evicting c n t r).updCmd c f).drains = s.drains ++ [evictDrain c s t r] ∧ ((s.evicting c n t r).updCmd c f).mem = s.mem ∧
    ((s.evicting c n t r).updCmd c f).mbxs = s.mbxs := ⟨rfl, rfl, rfl, rfl, rfl⟩

theorem tobjEvict_goes {m : Nat} {h : CmdHdr} {s : State} {n : W64} {t : Tobj} {r : Region} (ht : Takes s m h 0x0605 [n])
    (hobj : oget s.tobjs n.toNat = some t) (hp : t.part = m) (hst : t.state = .resident) (hr : s.region m t.region = some r)
    (href : r.dirty = true → s.flash.tierRefusal = none) :
    let marks := (List.range 128).map (fun c => (s.core c).nextSeq)
    let d : RegionDrain := { part := m, idx := t.region, keep := some (r.r, false, r.x), m := m, tag := h.tag.toNat, marks := marks }
    ∃ u : State, ∃ c : Cmd, exec (.tobjEvict m h n) s = .next u ∧ c ∈ u.journal ∧ c.m = m ∧ c.tag = h.tag.toNat ∧ c.bg = true ∧
      c.r0 = b2n r.w ∧ u.regions = s.regions ∧ u.tobjs = tins s.tobjs n.toNat { t with evict := true } ∧
      u.drains = s.drains ++ [d] ∧ u.mem = s.mem ∧ (u.mbx m).due = (s.mbx m).due := by
  intro marks d
  let c := s.newCmd m h 0x0605 [n]
  let u := s.begun m h 0x0605 [n]
  have hgo : GoesOn (.tobjEvict m h n) s m h 0x0605 [n] (fun u => u.evicting c n.toNat t r) :=
    GoesOn.of_handler (handler := hTobjEvict) ht (by decide) rfl (hTobjEvict_ok (c := c) (s := u) hobj hp hst (by subst hp; exact hr) href)
  obtain ⟨c', hc', hm, htag, hbg, hr0⟩ := u.evicting_cmd (n := n.toNat) t r (List.mem_append_right s.journal (List.mem_cons_self (a := c) (l := [])))
  obtain ⟨hreg, hobjs, hdr, hmem, hmbx⟩ := u.evicting_spec c n.toNat t r (fun d => { d with bg := true })
  have hd : evictDrain c u t r = d := by
    unfold evictDrain State.marks
    rfl
  have hdue : (((u.evicting c n.toNat t r).updCmd c (fun d => { d with bg := true })).mbx m).due = (s.mbx m).due :=
    (congrArg (fun b => (tget (fun _ => Mbx.reset) b m).due) hmbx).trans (s.begun_due ..)
  exact ⟨_, c', hgo, hc', hm, htag, hbg, hr0, hreg, hobjs, hdr.trans (congrArg (fun d => s.drains ++ [d]) hd), hmem, hdue⟩

/-- Settles O46: each command by its handler, each finish by its branch. -/
theorem tensorObjectCommands : Obligations.TensorObjectCommands := by
  unfold Obligations.TensorObjectCommands
  intro m h s
  refine ⟨?_, ?_, ?_, ?_, ?_⟩
  · intro n ht hm hmax hw htier
    exact Replies.of_handler (handler := hFlashLayout) ht (by decide) rfl (hFlashLayout_ok hm hmax hw htier)
  · intro resp ht hb
    refine ⟨(List.range 64).map (Config.responseByte 0x0601 s.fresh), by simp, ?_⟩
    exact Replies.of_handler (handler := hFlashQuery) ht (by decide) rfl (freeResp_ok hb)
  · intro n ht h1 hmax hd hq htier id t
    refine ⟨fun hlen => oget_nextId hlen _, ?_⟩
    exact Replies.of_handler (handler := hTobjCreate) ht (by decide) rfl (hTobjCreate_ok (s := s.begun m h 0x0602 [n]) h1 hmax hd hq htier)
  · intro n t hobj hp
    refine ⟨?_, ?_, ?_, ?_, ?_⟩
    · intro i lo fl ht hf hst hd hone hr
      let u := s.begun m h 0x0603 [n, i, lo, fl]
      let home := t.home n.toNat lo.toNat fl.toNat
      have hh := hTobjLoad_ok (c := s.newCmd m h 0x0603 [n, i, lo, fl]) (s := u) (State.tobjOf_ok hobj hp) hf hst hd hone hr
      have hgo := GoesOn.of_handler (i := .tobjLoad m h n i lo fl) (handler := hTobjLoad) (f := fun u => ((u.addRegion m i.toNat home).updTobj n.toNat
        (fun t => { t with state := .loading, region := i.toNat })).beginRead (.cmd m h.tag.toNat) (.tobj n.toNat)) ht (by decide) rfl hh
      have htobjs : (u.addRegion m i.toNat home).tobjs = s.tobjs := (congrArg State.tobjs (u.addRegion_sansAlloc m i.toNat home) :)
      refine ⟨_, home, hgo, u.addRegion_regions m i.toNat home, rfl, rfl, rfl, rfl, rfl, rfl, ?_⟩
      show oupd (u.addRegion m i.toNat home).tobjs n.toNat _ = _
      rw [htobjs]
      exact oupd_some hobj _
    · intro ht hst
      refine ⟨fun hd => ?_, fun r hr hd href => ?_⟩
      · exact Replies.of_handler (handler := hTobjFlush) (f := id) ht (by decide) rfl
          (hTobjFlush_clean (s := s.begun m h 0x0604 [n]) (State.tobjOf_ok hobj hp) hst hd)
      · subst hp
        exact GoesOn.of_handler (handler := hTobjFlush) ht (by decide) rfl (hTobjFlush_dirty (s := s.begun t.part h 0x0604 [n]) hobj rfl hst hr hd href)
    · exact fun r ht hst hr href => tobjEvict_goes ht hobj hp hst hr href
    · intro ht hst
      exact Replies.of_handler (handler := hTobjDestroy) ht (by decide) rfl (hTobjDestroy_ok (s := s.begun m h 0x0606 [n]) (State.tobjOf_ok hobj hp) hst)
    · intro ht k hk
      exact Replies.of_handler (handler := hTobjQuery) (f := id) ht (by decide) rfl
        (hTobjQuery_ok (s := s.begun m h 0x0607 [n]) (State.tobjOf_ok hobj hp) hk)
  · intro o c t r hobj hr
    refine ⟨tobjLoad_finishes o hobj hr, tobjFlush_finishes o hobj hr, fun hcode hst hd hc => ?_, fun hcode hst hc hb => ?_⟩
    · exact ((finOf_tobj o c s).2.2 hcode).trans (finTobjEvict_clean hobj hr hst hd hc)
    · exact ⟨_, ((finOf_tobj o c s).2.2 hcode).trans (finTobjEvict_gone hobj hr hst hc hb), State.homeGone_spec hobj⟩

end Sys2Proof.Machine
end

section
/-!
Weight packages and weight windows: the commands (R222 to R224, R248 to R253).
-/

namespace Sys2Proof.Machine

/-! ### Packages (R250 to R252) -/

/-- A package as WPKG_OPEN makes it. -/
def Wpkg.opened (p n : Nat) : Wpkg :=
  { part := p, total := n, ready := false, image := [], grants := [], signed := false, signer := 0, digest := [], damaged := false }

theorem hWpkgOpen_ok {c : Cmd} {s : State} (h0 : c.p 0 ≠ 0) (hm : c.p 0 % 4096 = 0) (hd : s.flash.degr = false)
    (hc : ((c.p 0 * 32 : Nat) : Int) ≤ s.flash.credit * 31) (hq : s.wpkgBytes (· == c.part) + c.p 0 ≤ s.flashQuota c.part s.flash.wsize (·.wq))
    (hw : s.wpkgBytes (fun _ => true) + c.p 0 ≤ s.flash.wsize) :
    hWpkgOpen c s =
      let id := nextId s.wpkgs s.lastWpkg
      ({ s with wpkgs := tins s.wpkgs id (Wpkg.opened c.part (c.p 0)), lastWpkg := id }, .done 0 id 0) := by
  have hdegr : ¬s.flash.degr = true := by rw [hd]; decide
  unfold hWpkgOpen
  exact (if_neg (not_or.mpr ⟨h0, not_not.mpr hm⟩)).trans ((if_neg hdegr).trans ((if_neg (not_lt.mpr hc)).trans ((if_neg (Nat.not_lt.mpr hq)).trans
    (if_neg (Nat.not_lt.mpr hw)))))

section
variable {c : Cmd} {s : State} {t : Wpkg}

theorem State.wpkgOf_ok {p n st : Nat} (ht : oget s.wpkgs n = some t) (hp : t.part = p) : s.wpkgOf p n st = .ok t := by
  unfold wpkgOf
  rw [ht]
  exact if_pos hp

theorem hWpkgWrite_ok (ht : s.wpkgOf c.part (c.p 0) 0x11 = .ok t) (hk : c.p 2 ≠ 0) (ho : c.p 1 % 4096 = 0) (hk' : c.p 2 % 4096 = 0)
    (hlen : c.p 1 + c.p 2 ≤ t.total) (hr : t.ready = false) (hw : s.awOk c.part (c.w 3) (c.p 2) true false = true) : hWpkgWrite c s = (s, .bg) := by
  unfold hWpkgWrite
  rw [ht]
  dsimp only
  rw [if_neg (by omega), hr, if_neg (by decide), hw, if_neg (by decide)]

theorem hWpkgCommit_ok (ht : s.wpkgOf c.part (c.p 0) 0x11 = .ok t) (hr : t.ready = false) :
    hWpkgCommit c s = (s.beginRead (.cmd c.m c.tag) (.wpkg (c.p 0)), .bg) := by
  unfold hWpkgCommit
  rw [ht]
  dsimp only
  rw [hr, if_neg (by decide)]

theorem hWpkgCommit_ready (ht : s.wpkgOf c.part (c.p 0) 0x11 = .ok t) (hr : t.ready = true) : hWpkgCommit c s = (s, no 0x11) := by
  unfold hWpkgCommit
  rw [ht]
  dsimp only
  rw [hr, if_pos rfl]

theorem hWpkgDelete_ok (ht : s.wpkgOf c.part (c.p 0) 0x11 = .ok t) (hu : s.pkgUsed (c.p 0) (fun _ => true) = false) :
    hWpkgDelete c s = ({ s with wpkgs := tdrop s.wpkgs (c.p 0), flash := (s.flash.release (.wpkg (c.p 0))).journal }, ok) := by
  unfold hWpkgDelete
  rw [ht]
  dsimp only
  rw [hu, if_neg (by decide)]

theorem hWpkgDelete_used (ht : s.wpkgOf c.part (c.p 0) 0x11 = .ok t) (hu : s.pkgUsed (c.p 0) (fun _ => true) = true) :
    hWpkgDelete c s = (s, no 0x40) := by
  unfold hWpkgDelete
  rw [ht]
  dsimp only
  rw [hu, if_pos rfl]

theorem State.pkgUsed_false {n : Nat} (h : ∀ w ∈ s.wwins, w.2.run = true → w.2.pkg ≠ n) : s.pkgUsed n (fun _ => true) = false := by
  refine List.any_eq_false.mpr fun w hw => ?_
  simp only [Bool.and_true, Bool.and_eq_true, beq_iff_eq, not_and]
  exact h w hw

theorem State.pkgUsed_true {n : Nat} (h : ∃ w ∈ s.wwins, w.2.run = true ∧ w.2.pkg = n) : s.pkgUsed n (fun _ => true) = true := by
  obtain ⟨w, hw, hr, hp⟩ := h
  exact List.any_eq_true.mpr ⟨w, hw, by simp [hr, hp]⟩

section
variable (ht : oget s.wpkgs (c.p 0) = some t) (hp : t.part = c.part) (hq : (oget s.parts (c.p 1)).isSome = true) (hne : c.p 1 ≠ c.part)
  (hr : t.ready = true) (hs : s.isSecure c.part = false)
include ht hp hq hne hr hs

theorem hWpkgGrant_give (he : c.p 2 = 1) :
    hWpkgGrant c s = ({ s with wpkgs := tins s.wpkgs (c.p 0) { t with grants := c.p 1 :: t.grants.filter (· ≠ c.p 1) } }, ok) := by
  have hgo : ¬(1 < c.p 2 ∨ (oget s.parts (c.p 1)).isNone = true ∨ c.p 1 = c.part ∨ (!t.ready) = true) := by
    rw [← Option.not_isSome, hq, he, hr]
    simpa using hne
  unfold hWpkgGrant
  dsimp only
  rw [State.wpkgOf_ok ht hp]
  dsimp only
  rw [if_neg hgo, hs, if_neg (by decide), if_neg (by omega)]
  exact congrArg (fun ws => (({ s with wpkgs := ws } : State), ok)) (oupd_some ht _)

theorem hWpkgGrant_take (he : c.p 2 = 0) (hu : s.pkgUsed (c.p 0) (· == c.p 1) = false) :
    hWpkgGrant c s = ({ s with wpkgs := tins s.wpkgs (c.p 0) { t with grants := t.grants.filter (· ≠ c.p 1) } }, ok) := by
  have hgo : ¬(1 < c.p 2 ∨ (oget s.parts (c.p 1)).isNone = true ∨ c.p 1 = c.part ∨ (!t.ready) = true) := by
    rw [← Option.not_isSome, hq, he, hr]
    simpa using hne
  unfold hWpkgGrant
  dsimp only
  rw [State.wpkgOf_ok ht hp]
  dsimp only
  rw [if_neg hgo, hs, if_neg (by decide), if_pos he, hu, if_neg (by decide)]
  exact congrArg (fun ws => (({ s with wpkgs := ws } : State), ok)) (oupd_some ht _)

end

/-! ### The finishes -/

theorem wpkgWrite_finishes (o : BgFind) (ht : oget s.wpkgs (c.p 0) = some t) (hcode : c.code = 0x0609) (hh : awHost (c.w 3) = false)
    (ho : s.regOpen c.m 1 = true) : ∃ u : State, finOf o c s = u.complete c 0 false 0 0 ∧ u.mem = s.mem ∧
      u.flash = s.flash.program (.wpkg (c.p 0)) (c.p 2) ∧
      u.wpkgs = tins s.wpkgs (c.p 0) { t with image := putBytes t.image (c.p 1) (s.awBytes c.m (c.w 3) (c.p 2)) } := by
  have hfin : finOf o c s = finWpkgWrite c s := by
    unfold finOf
    rw [hcode]
    rfl
  have hgo : ¬((awHost (c.w 3) = true ∧ (!s.hostOpen c.part) = true) ∨ (!s.regOpen c.part 1) = true) := by
    rw [hh, show s.regOpen c.part 1 = true from ho]
    simp
  let u := ((({ s with flash := s.flash.program (.wpkg (c.p 0)) (c.p 2) } : State).updWpkg (c.p 0) (fun t =>
    { t with image := imagePut t.image (c.p 1) (s.awBytes c.part (c.w 3) (c.p 2)) })).charge c.part 1 (c.p 2))
  refine ⟨u, hfin.trans ?_, rfl, rfl, oupd_some ht _⟩
  unfold finWpkgWrite
  exact if_neg hgo

theorem wpkgCommit_finishes (o : BgFind) (ht : oget s.wpkgs (c.p 0) = some t) (hcode : c.code = 0x060A) {sg : Bool} {sr : Nat} {dg : List Byte}
    (hk : s.checkPkg t = .ok (sg, sr, dg)) : ∃ u : State, finOf o c s = u.commit c 0 0 ∧ u.mem = s.mem ∧
      u.wpkgs = tins s.wpkgs (c.p 0) { t with ready := true, signed := sg, signer := sr, digest := dg } := by
  have hfin : finOf o c s = finWpkgCommit c s := by
    unfold finOf
    rw [hcode]
    rfl
  let u := ((s.endRead (.cmd c.m c.tag)).updWpkg (c.p 0) (fun t => { t with ready := true, signed := sg, signer := sr, digest := dg })).updFlash Flash.journal
  refine ⟨u, hfin.trans ?_, rfl, oupd_some ht _⟩
  unfold finWpkgCommit
  rw [ht]
  dsimp only
  rw [hk]

end

/-! ### Windows (R222 to R224) -/

theorem hWwinStart_ok {c : Cmd} {s : State} (hw : c.p 0 < 16) (hh : awHost (c.w 1) = false) (hb : s.blockRefusal c.part (c.w 1) 128 true false = none)
    (hfree : ∀ v, s.wwin (c.p 0) = some v → v.run = false)
    (hr : s.wwinRefusal c.part (s.awBytes c.part (c.w 1) 128) (parseWwin c.part (s.awBytes c.part (c.w 1) 128)) = none) :
    hWwinStart c s =
      let v := parseWwin c.part (s.awBytes c.part (c.w 1) 128)
      ({ s.primeSems v 0 0 with wwins := tins s.wwins (c.p 0) v }, ok) := by
  have hgo : hWwinStart.go c (c.p 0) s =
      let v := parseWwin c.part (s.awBytes c.part (c.w 1) 128)
      ({ s.primeSems v 0 0 with wwins := tins s.wwins (c.p 0) v }, ok) := by
    unfold hWwinStart.go
    dsimp only
    rw [hr]
  unfold hWwinStart
  dsimp only
  rw [hh, if_neg (by simp; omega), hb]
  dsimp only
  cases hv : s.wwin (c.p 0) with
  | none => exact hgo
  | some v =>
    dsimp only
    rw [hfree v hv, if_neg (by decide)]
    exact hgo

section
variable {c : Cmd} {s : State} {v : Wwin} (hv : s.wwin (c.p 0) = some v) (hp : v.part = c.part)
include hv hp

theorem hWwinStop_idle (hr : v.run = true) (hn : v.reading = none) :
    hWwinStop c s = ({ s with wwins := tins s.wwins (c.p 0) { v with run := false } }, ok) := by
  unfold hWwinStop
  rw [hv]
  dsimp only
  rw [if_neg (not_not.mpr hp), if_neg (show ¬(!v.run) = true by rw [hr]; decide), if_neg (show ¬v.reading.isSome = true by rw [hn]; decide)]
  exact congrArg (fun ws => (({ s with wwins := ws } : State), ok)) (oupd_some hv (fun v => { v with run := false }))

theorem hWwinStop_reading {n : Nat} (hr : v.run = true) (hn : v.reading = some n) :
    hWwinStop c s = ({ s with wwins := tins s.wwins (c.p 0) { v with stop := some (c.m, c.tag) } }, .wait) := by
  unfold hWwinStop
  rw [hv]
  dsimp only
  rw [if_neg (not_not.mpr hp), if_neg (show ¬(!v.run) = true by rw [hr]; decide), if_pos (show v.reading.isSome = true by rw [hn]; rfl)]
  exact congrArg (fun ws => (({ s with wwins := ws } : State), Reply.wait)) (oupd_some hv (fun v => { v with stop := some (c.m, c.tag) }))

theorem hWwinQuery_ok (hb : s.blockRefusal c.part (c.w 1) 64 false true = none) :
    hWwinQuery c s = ({ s.awWrite c.part (c.w 1) ((List.range 64).map (Config.responseByte 0x060F s.fresh)) with fresh := s.fresh + 1 }, ok) := by
  unfold hWwinQuery
  rw [hv]
  dsimp only
  rw [if_neg (not_not.mpr hp)]
  exact freeResp_ok hb

end

/-- Settles O47: each command by its handler, each finish by its branch. -/
theorem weightCommands : Obligations.WeightCommands := by
  unfold Obligations.WeightCommands
  intro m h s
  refine ⟨?_, ?_, ?_, ?_, ?_⟩
  · intro n ht h0 hm hd hc hq hw id
    refine ⟨Wpkg.opened m n.toNat, rfl, rfl, rfl, rfl, rfl, fun hlen => oget_nextId hlen _, ?_⟩
    exact Replies.of_handler (handler := hWpkgOpen) ht (by decide) rfl
      (hWpkgOpen_ok (s := s.begun m h 0x0608 [n]) (fun he => h0 (BitVec.eq_of_toNat_eq he)) hm hd hc hq hw)
  · intro n t hpkg hp
    refine ⟨?_, ?_, ?_, ?_, ?_, ?_⟩
    · intro o k src ht hk ho hk' hlen hr hw
      exact GoesOn.of_handler (handler := hWpkgWrite) (f := id) ht (by decide) rfl (hWpkgWrite_ok (s := s.begun m h 0x0609 [n, o, k, src])
        (State.wpkgOf_ok hpkg hp) (fun he => hk (BitVec.eq_of_toNat_eq he)) ho hk' hlen hr hw)
    · intro ht hr
      have hgo : GoesOn (.wpkgCommit m h n) s m h 0x060A [n] (fun u => u.beginRead (.cmd m h.tag.toNat) (.wpkg n.toNat)) :=
        GoesOn.of_handler (handler := hWpkgCommit) ht (by decide) rfl (hWpkgCommit_ok (s := s.begun m h 0x060A [n]) (State.wpkgOf_ok hpkg hp) hr)
      exact ⟨_, _, hgo, rfl, rfl, rfl⟩
    · intro ht hr
      exact Replies.of_handler (handler := hWpkgCommit) (f := id) ht (by decide) rfl
        (hWpkgCommit_ready (s := s.begun m h 0x060A [n]) (State.wpkgOf_ok hpkg hp) hr)
    · intro ht hu
      exact Replies.of_handler (handler := hWpkgDelete) ht (by decide) rfl
        (hWpkgDelete_ok (s := s.begun m h 0x060B [n]) (State.wpkgOf_ok hpkg hp) (State.pkgUsed_false hu))
    · intro ht hu
      exact Replies.of_handler (handler := hWpkgDelete) (f := id) ht (by decide) rfl
        (hWpkgDelete_used (s := s.begun m h 0x060B [n]) (State.wpkgOf_ok hpkg hp) (State.pkgUsed_true hu))
    · intro q e ht hq hne hr hs
      refine ⟨fun he => ?_, fun he hu => ?_⟩
      · exact Replies.of_handler (handler := hWpkgGrant) ht (by decide) rfl
          (hWpkgGrant_give (s := s.begun m h 0x060C [n, q, e]) hpkg hp hq hne hr hs (congrArg BitVec.toNat he))
      · exact Replies.of_handler (handler := hWpkgGrant) ht (by decide) rfl
          (hWpkgGrant_take (s := s.begun m h 0x060C [n, q, e]) hpkg hp hq hne hr hs (congrArg BitVec.toNat he) hu)
  · exact fun o c t hpkg => ⟨wpkgWrite_finishes o hpkg, fun sg sr dg hcode hk => wpkgCommit_finishes o hpkg hcode hk⟩
  · intro w pb ht hw hh hb hfree bs v hr
    exact ⟨rfl, rfl, rfl, rfl, Replies.of_handler (handler := hWwinStart) ht (by decide) rfl
      (hWwinStart_ok (s := s.begun m h 0x060D [w, pb]) hw hh hb hfree hr)⟩
  · intro w v hv hp
    refine ⟨fun ht hr hn => ?_, fun n ht hr hn => ?_, fun resp ht hb => ?_⟩
    · exact Replies.of_handler (handler := hWwinStop) ht (by decide) rfl (hWwinStop_idle (s := s.begun m h 0x060E [w]) hv hp hr hn)
    · exact Waits.of_handler (handler := hWwinStop) ht (by decide) rfl (hWwinStop_reading (s := s.begun m h 0x060E [w]) hv hp hr hn)
    · refine ⟨(List.range 64).map (Config.responseByte 0x060F s.fresh), by simp, ?_⟩
      exact Replies.of_handler (handler := hWwinQuery) ht (by decide) rfl (hWwinQuery_ok (s := s.begun m h 0x060F [w, resp]) hv hp hb)

end Sys2Proof.Machine
end

section
/-!
Snapshot commands and the copying behind them (R304, R368, R371 to R377).
-/

namespace Sys2Proof.Machine

/-! ### A partition's snapshots -/

theorem State.snapPart_updSnap (s : State) (p : Nat) (f : SnapPart → SnapPart) : (s.updSnap p f).snapPart p = f (s.snapPart p) := tget_tput_self ..

theorem State.shadow_updSnap (s : State) (p : Nat) {f : SnapPart → SnapPart} (h : ∀ x, (f x).shadow = x.shadow) :
    ((s.updSnap p f).snapPart p).shadow = (s.snapPart p).shadow := by
  rw [snapPart_updSnap, h]

/-! ### A capture (R372, R373) -/

/-- The state without what a capture changes. -/
def State.sansTake (s : State) : State := { s with poison := [], snaps := [], mbxs := [], qps := [], runs := [] }

theorem State.snapSkip_shadow (s : State) (p n : Nat) : ((s.snapSkip p n).snapPart p).shadow = (s.snapPart p).shadow := by
  have hev : ((s.snapSkip p n).snapPart p).shadow = ((s.updSnap p (fun x => { x with flashSkip := x.flashSkip + 1 })).snapPart p).shadow := by
    unfold snapSkip
    rw [event_only]
    rfl
  exact hev.trans (s.shadow_updSnap p fun _ => rfl)

theorem State.snapSkip_sansTake (s : State) (p n : Nat) : (s.snapSkip p n).sansTake = s.sansTake := by
  unfold snapSkip
  rw [event_only]
  rfl

theorem State.dropUnfinished_keeps (s : State) (p : Nat) : ((s.dropUnfinished p).snapPart p).shadow = (s.snapPart p).shadow ∧
    (s.dropUnfinished p).sansTake = s.sansTake := by
  unfold dropUnfinished
  split
  · exact ⟨(snapSkip_shadow ..).trans (s.shadow_updSnap p fun _ => rfl), snapSkip_sansTake ..⟩
  · exact ⟨rfl, rfl⟩

theorem State.flashPlan_keeps (s : State) (p : Nat) (x : Snap) : ((s.flashPlan p x).snapPart p).shadow = (s.snapPart p).shadow ∧
    (s.flashPlan p x).sansTake = s.sansTake := by
  obtain ⟨h1, h2⟩ := s.dropUnfinished_keeps p
  unfold flashPlan
  split
  · exact ⟨rfl, rfl⟩
  · dsimp only
    split
    · refine ⟨(State.shadow_updSnap _ p ?_).trans h1, h2⟩
      exact fun _ => rfl
    · exact ⟨h1, h2⟩

theorem State.takeSnap_spec (s : State) (p : Nat) (digest : W64) : (s.takeSnap p digest).sansTake = s.sansTake ∧
    ∃ x : Snap, ((s.takeSnap p digest).snapPart p).shadow = some x ∧ x.id = captureId p (s.part p).step.toNat ∧ x.secs = s.captureSecs p := by
  unfold takeSnap
  extract_lets step secs minor snap s1 s2 s3
  have hp : s1.sansTake = s.sansTake :=
    foldl_keeps sansTake (fun (s : State) (w : Nat × Nat) => { s with poison := clearPoison s.poison w.1 w.2 }) (fun _ _ => rfl) _ s
  obtain ⟨hshadow, hplan⟩ := s2.flashPlan_keeps p snap
  have hsnap : (s2.snapPart p).shadow = some snap := congrArg SnapPart.shadow (s1.snapPart_updSnap p _)
  exact ⟨hplan.trans hp, snap, hshadow.trans hsnap, rfl, rfl⟩

/-! ### What waits for a boundary (R304, R372, R377) -/

theorem State.setBounds_one {s : State} {p : Nat} {b : Boundary} (h : s.bounds = [(p, b)]) : s.setBounds p [] = { s with bounds := [] } := by
  unfold setBounds
  rw [h]
  simp

theorem State.endTakes_one {s : State} {p m tag : Nat} (h : s.bounds = [(p, .take m tag)]) (id : Nat) :
    s.endTakes p id = ({ s with bounds := [] } : State).endWait m tag 0 id := by
  have hset := State.setBounds_one h
  unfold endTakes
  rw [h]
  simpa using congrArg (State.endWait · m tag 0 id) hset

theorem State.endRestores_none {s : State} (h : s.bounds = []) (p : Nat) : s.endRestores p = { s with bounds := [] } := by
  unfold endRestores setBounds
  rw [h]
  rfl

theorem State.endRestores_one {s : State} {p m tag id : Nat} (h : s.bounds = [(p, .restore m tag id)]) :
    s.endRestores p = (s.setBounds p []).doRestore p m tag id := by
  unfold endRestores
  rw [h]
  simp

theorem hSnapTake_run {c : Cmd} {s : State} {r : Run} (hr : oget s.runs c.part = some r) :
    hSnapTake c s = ({ s with bounds := s.bounds ++ [(c.part, .take c.m c.tag)] }, .wait) := by
  unfold hSnapTake State.settleBounds
  refine congrArg (·, Reply.wait) (if_pos (Or.inl ?_))
  rw [show oget _ c.part = some r from hr]
  rfl

/-- A capture outside a run, with no other command waiting, is made and answered at once. -/
theorem settleBounds_take {s : State} {p m tag : Nat} (hr : oget s.runs p = none) (hl : s.launchRuns p = false) (hb : s.bounds = [(p, .take m tag)]) :
    s.settleBounds p = ((s.takeSnap p 0).endTakes p (captureId p (s.part p).step.toNat)).endRestores p := by
  have hgo : ¬((oget s.runs p).isSome = true ∨ s.launchRuns p = true ∨ (!s.bounds.any (fun b => b.1 = p)) = true) := by
    rw [hr, hl, hb]
    simp
  unfold State.settleBounds
  rw [if_neg hgo]
  dsimp only
  rw [if_pos (by rw [hb]; simp)]

theorem settleBounds_restore {s : State} {p m tag id : Nat} (hr : oget s.runs p = none) (hl : s.launchRuns p = false)
    (hb : s.bounds = [(p, .restore m tag id)]) : s.settleBounds p = (s.setBounds p []).doRestore p m tag id := by
  have hgo : ¬((oget s.runs p).isSome = true ∨ s.launchRuns p = true ∨ (!s.bounds.any (fun b => b.1 = p)) = true) := by
    rw [hr, hl, hb]
    simp
  unfold State.settleBounds
  rw [if_neg hgo]
  dsimp only
  rw [if_neg (by rw [hb]; simp)]
  exact State.endRestores_one hb

/-- A capture outside a run is answered with its identifier. -/
theorem settleBounds_take_eq {u : State} {m tag : Nat} {c : Cmd} (hr : oget u.runs m = none) (hl : u.launchRuns m = false)
    (hb : u.bounds = [(m, .take m tag)]) (hc : u.cmd m tag = some c) (hd : c.discard = false) (hw : c.watch = []) (hcode : c.code ≠ 1) :
    u.settleBounds m = State.due { u.takeSnap m 0 with
      bounds := [], journal := u.journal.filter (fun d => !(d.m == c.m && d.slot == c.slot && d.tag == c.tag)) } c.m
      (c.entry 0 false (captureId m (u.part m).step.toNat) 0) := by
  have hsans := (u.takeSnap_spec m 0).1
  have hbounds : (u.takeSnap m 0).bounds = u.bounds := (congrArg State.bounds hsans :)
  have hj : (u.takeSnap m 0).journal = u.journal := (congrArg State.journal hsans :)
  rw [settleBounds_take hr hl hb, State.endTakes_one (hbounds.trans hb)]
  generalize u.takeSnap m 0 = w at hj ⊢
  have hcmd : ({ w with bounds := [] } : State).cmd m tag = some c := by
    unfold State.cmd at hc ⊢
    rw [← hc]
    exact congrArg _ hj
  unfold State.endWait
  rw [hcmd]
  dsimp only
  rw [State.complete_unwatched hd hw, if_neg (fun h => hcode h.1), ← hj]
  exact State.endRestores_none rfl m

theorem State.due_spec (w : State) (j : List Cmd) (m : Nat) (e : CmpEntry) : let t := State.due { w with bounds := [], journal := j } m e
    t.journal = j ∧ (t.snapPart m).shadow = (w.snapPart m).shadow ∧ t.mem = w.mem ∧ t.bounds = [] ∧ e ∈ (t.mbx m).due := by
  refine ⟨rfl, rfl, rfl, rfl, ?_⟩
  refine (congrArg (fun b : Mbx => e ∈ b.due) (tget_tput_self ..)).mpr ?_
  exact List.mem_append_right _ List.mem_cons_self

theorem snapTake_now {m : Nat} {h : CmdHdr} {s : State} (ht : Takes s m h 0x0701 []) (hr : oget s.runs m = none) (hl : s.launchRuns m = false)
    (hb : s.bounds = []) :
    let id := captureId m (s.part m).step.toNat
    ∃ (t : State) (x : Snap), exec (.snapTake m h) s = .next t ∧ t.journal = s.journal ∧ (t.snapPart m).shadow = some x ∧ x.id = id ∧
      x.secs = s.captureSecs m ∧ t.mem = s.mem ∧ t.bounds = [] ∧ cmdEntry (s.mbx m).session h 0x0701 0 id 0 ∈ (t.mbx m).due := by
  intro id
  let u : State := { s.begun m h 0x0701 [] with bounds := [(m, .take m h.tag.toNat)] }
  obtain ⟨hsans, x, hx, hid, hsecs⟩ := u.takeSnap_spec m 0
  have hmem : (u.takeSnap m 0).mem = s.mem := (congrArg State.mem hsans :)
  have hset := settleBounds_take_eq (u := u) (c := s.newCmd m h 0x0701 []) hr hl rfl (State.cmd_of_alone ht.alone rfl) rfl rfl (show 0x0701 ≠ 1 by decide)
  have hset' := hset.trans (congrArg (fun j => State.due { u.takeSnap m 0 with bounds := [], journal := j } m
    (cmdEntry (s.mbx m).session h 0x0701 0 id 0)) (begun_journal_filter ht.alone))
  have hexec : Waits (.snapTake m h) s m h 0x0701 [] (fun _ => u.settleBounds m) := by
    refine Waits.of_handler (handler := hSnapTake) ht (by decide) rfl ?_
    unfold hSnapTake
    rw [show (s.begun m h 0x0701 []).bounds = [] from hb]
    rfl
  rw [hset'] at hexec
  obtain ⟨h1, h2, h3, h4, h5⟩ := (u.takeSnap m 0).due_spec s.journal m (cmdEntry (s.mbx m).session h 0x0701 0 id 0)
  exact ⟨_, x, hexec, h1, h2.trans hx, hid, hsecs, h3.trans hmem, h4, h5⟩

/-! ### The other commands (R371, R374 to R377) -/

/-- A snapshot set as SNAP_SET takes it from its block and list. -/
def snapCfgOf (bs : List Byte) (set : List SetEntry) : SnapCfg :=
  { set := set, flash := bit (wordAt bs 8) 11, keep := bits (wordAt bs 8) 12 4, shadow0 := bits (wordAt bs 0x10) 0 10, shadow1 := bits (wordAt bs 0x10) 16 10 }

theorem hSnapSet_ok {c : Cmd} {s : State} {bs : List Byte} (hbs : s.awBytes c.part (c.w 0) 64 = bs) (hb : s.blockRefusal c.part (c.w 0) 64 true false = none) :
    let w := fun o => wordAt bs o
    let p := c.part
    let a := bits (w 0) 0 48
    let n := bits (w 8) 0 11
    let es := (List.range n).map (fun i => parseSetEntry (s.bytes (a + 16 * i) 16))
    let set := es.map (·.1)
    let sum (f : SetEntry → Nat) : Nat := (set.map f).foldl (· + ·) 0
    let cfg := snapCfgOf bs set
    bits (w 0) 48 16 = 0 → a % 64 = 0 → n ≤ 1024 → cfg.keep ≠ 0 → w 8 < 2 ^ 16 → bits (w 0x10) 10 6 = 0 → bits (w 0x10) 26 38 = 0 →
    (bs.drop 0x18).any (· ≠ 0) = false → (n ≠ 0 → s.permits p a (16 * n) true false false = true) → es.any (·.2) = false →
    (∀ e ∈ set, inDram e.addr = true ∧ s.permits p e.addr e.len true false false = true) → disjointSpans (set.map (fun e => (e.addr, e.len))) = true →
    sum (fun e => if e.kind = 1 then e.len / 16 else 0) ≤ 2 ^ 20 → s.shadowFit p cfg.shadow0 0 (sum (fun e => if dieOfAddr e.addr = 0 then e.len else 0)) = true →
    s.shadowFit p cfg.shadow1 1 (sum (fun e => if dieOfAddr e.addr = 1 then e.len else 0)) = true →
    hSnapSet c s = (s.updSnap p (fun x => { x with cfg := some cfg }), ok) := by
  intro w p a n es set sum cfg h48 ha hn hk h8 h10 h26 hz hperm hes hset hdis hsum hf0 hf1
  have hform : ¬(bits (w 0) 48 16 ≠ 0 ∨ a % 64 ≠ 0 ∨ 1024 < n ∨ cfg.keep = 0 ∨ w 8 / 2 ^ 16 ≠ 0 ∨ bits (w 0x10) 10 6 ≠ 0 ∨ bits (w 0x10) 26 38 ≠ 0 ∨
      (bs.drop 0x18).any (· ≠ 0) = true) := by
    rw [hz, Nat.div_eq_of_lt h8]
    simp only [h48, ha, hk, h10, h26, ne_eq, not_true_eq_false, Bool.false_eq_true, or_false, false_or]
    omega
  have hlist : ¬(n ≠ 0 ∧ (!s.permits p a (16 * n) true false false) = true) := fun hc => by
    have hx := hc.2
    rw [hperm hc.1] at hx
    cases hx
  have hany : ¬(set.any (fun e => !inDram e.addr ∨ !s.permits p e.addr e.len true false false) = true) := by
    intro hc
    obtain ⟨e, he, hb⟩ := List.any_eq_true.mp hc
    rw [(hset e he).1, (hset e he).2] at hb
    exact absurd hb (by decide)
  have hgo : ¬(es.any (·.2) = true ∨ set.any (fun e => !inDram e.addr ∨ !s.permits p e.addr e.len true false false) = true ∨
      (!disjointSpans (set.map (fun e => (e.addr, e.len)))) = true ∨ 2 ^ 20 < sum (fun e => if e.kind = 1 then e.len / 16 else 0) ∨
      (!s.shadowFit p cfg.shadow0 0 (sum (fun e => if dieOfAddr e.addr = 0 then e.len else 0))) = true ∨
      (!s.shadowFit p cfg.shadow1 1 (sum (fun e => if dieOfAddr e.addr = 1 then e.len else 0))) = true) := by
    rw [hes, hdis, hf0, hf1]
    simp only [Bool.not_true, Bool.false_eq_true, or_false, false_or]
    exact not_or.mpr ⟨hany, Nat.not_lt.mpr hsum⟩
  unfold hSnapSet
  rw [withPb_ok hb, hbs]
  exact (if_neg hform).trans ((if_neg hlist).trans (if_neg hgo))

theorem hSnapList_all {c : Cmd} {s : State} (hb : s.blockRefusal c.part (c.w 0) 2080 false true = none) (h0 : c.p 1 = 0) :
    hSnapList c s =
      let all := s.snapList c.part
      let out := all.take 63
      (s.awWrite c.part (c.w 0) (wordsLe ([out.length + 2 ^ 16 * b2n (decide (63 < all.length)), 0, 0, 0, 0, 0, 0, 0].map (BitVec.ofNat 64)) ++
        out.flatMap (fun e => wordsLe ([e.1, e.2.2 + 256 * e.2.1.vmin, e.2.1.total, e.2.1.ftime].map (BitVec.ofNat 64)))), ok) := by
  unfold hSnapList
  rw [hb]
  dsimp only
  rw [if_pos h0]

section
variable {c : Cmd} {s : State} {x : Snap} (hid : c.p 0 / 2 ^ 48 % 16 = c.part) (hl : (s.snapList c.part).any (fun y => y.1 = c.p 0) = true)
  (hx : s.findSnap c.part (c.p 0) = some x)

include hid hl in
theorem State.snapFor_ok (st : Nat) : s.snapFor c.part (c.p 0) st = .ok () := by
  unfold snapFor
  rw [if_neg (not_not.mpr hid), hl, if_pos rfl]

include hid hl hx in
theorem hSnapRestore_ok : hSnapRestore c s = (
    let s := s.readSnap c.part (c.p 0) (.cmd c.m c.tag)
    { s with bounds := s.bounds ++ [(c.part, .restore c.m c.tag (c.p 0))] }, .bg) := by
  unfold hSnapRestore
  rw [State.snapFor_ok hid hl]
  dsimp only
  rw [hx]

include hid hl hx in
theorem hSnapExport_ok (hlen : x.total ≤ c.p 2) (hw : s.awBlock c.part (c.w 1) x.total false true = true) :
    hSnapExport c s = (s.readSnap c.part (c.p 0) (.cmd c.m c.tag), .bg) := by
  unfold hSnapExport
  rw [State.snapFor_ok hid hl]
  dsimp only
  rw [hx]
  dsimp only
  rw [if_neg (Nat.not_lt.mpr hlen), hw, if_neg (by decide)]

end

theorem State.readSnap_only (s : State) (p id : Nat) (who : FlashFor) : s.readSnap p id who =
    { s with fresh := (s.readSnap p id who).fresh, flash := (s.readSnap p id who).flash } := by
  unfold readSnap
  split <;> rfl

theorem hSnapDelete_ok {c : Cmd} {s : State} {f : FlashSnap} (hid : c.p 0 / 2 ^ 48 % 16 = c.part) (hf : oget s.fsnaps (c.p 0) = some f) :
    hSnapDelete c s = ({ s with fsnaps := tdrop s.fsnaps (c.p 0), flash := (s.flash.release (.snap (c.p 0))).journal }, ok) := by
  unfold hSnapDelete
  rw [if_neg (not_not.mpr hid), hf]
  rfl

theorem hSnapImport_ok {c : Cmd} {s : State} (hlen : 0x2000 ≤ c.p 1) (hm : c.p 1 % 4096 = 0) (hw : s.awBlock c.part (c.w 0) (c.p 1) true false = true) :
    hSnapImport c s = (s, .bg) := by
  unfold hSnapImport
  rw [if_neg (by omega), hw, if_neg (by decide)]

/-! ### The finishes -/

theorem finOf_snap (o : BgFind) (c : Cmd) (s : State) : (c.code = 0x0703 → finOf o c s = s.settleBounds c.m) ∧
    (c.code = 0x0705 → finOf o c s = finSnapExport c s) ∧ (c.code = 0x0706 → finOf o c s = finSnapImport c s) := by
  unfold finOf
  exact ⟨fun h => by rw [h]; rfl, fun h => by rw [h]; rfl, fun h => by rw [h]; rfl⟩

theorem finSnapExport_ok {c : Cmd} {s : State} {x : Snap} (hh : awHost (c.w 1) = false) (hx : s.findSnap c.part (c.p 0) = some x) :
    finSnapExport c s = ((s.endRead (.cmd c.m c.tag)).awWrite c.part (c.w 1) x.stored).complete c 0 false 0 0 := by
  unfold finSnapExport
  rw [hh, if_neg (by simp), hx]

theorem State.importNumber_free {s : State} {p step k : Nat} (h : s.importNumber p step = some k) :
    oget s.fsnaps (captureId p step + k * 2 ^ 52) = none := by
  have hfree := List.find?_some h
  exact Option.isNone_iff_eq_none.mp hfree

/-- The state once an import is in the store. -/
def State.imported (s : State) (p id k : Nat) (x : Snap) (good : Bool) : State :=
  (State.charge { s with fsnaps := tins s.fsnaps id { snap := x, unusable := !good, lost := false }, flash := s.flash.replace (.snap id) x.total } p 1
    x.total).updSnap p (fun q => { q with importNo := k })

theorem finSnapImport_ok {c : Cmd} {s : State} {x : Snap} {k : Nat} {good : Bool} {q : Session} (hh : awHost (c.w 0) = false)
    (ho : s.regOpen c.part 1 = true) (hq : c.sess = some q) :
    let bs := s.awBytes c.part (c.w 0) (c.p 1)
    let id := captureId c.part (snapStep (wordAt bs 0x10)) + k * 2 ^ 52
    s.importNumber c.part (snapStep (wordAt bs 0x10)) = some k → bits (wordAt bs 0) 32 8 = 1 → bits (wordAt bs 0) 40 8 ≤ q.snapVer % 256 →
    parseSnap bs id = some (x, good) → s.snapBytes + x.total ≤ snapRegion → finSnapImport c s = (s.imported c.part id k x good).commit c id 0 := by
  intro bs id hk hmaj hmin hparse hroom
  have hgo : ¬((awHost (c.w 0) = true ∧ (!s.hostOpen c.part) = true) ∨ (!s.regOpen c.part 1) = true) := by
    rw [hh, ho]
    simp
  have hver : ¬(bits (wordAt bs 0) 0 32 = 0x4E535A59 ∧ (bits (wordAt bs 0) 32 8 ≠ 1 ∨ q.snapVer % 256 < bits (wordAt bs 0) 40 8)) := by omega
  unfold finSnapImport
  rw [if_neg hgo]
  dsimp only
  rw [show s.importNumber c.part (snapStep (wordAt (s.awBytes c.part (c.w 0) (c.p 1)) 0x10)) = some k from hk, hq]
  refine (if_neg hver).trans ?_
  rw [show parseSnap (s.awBytes c.part (c.w 0) (c.p 1)) _ = some (x, good) from hparse]
  exact if_neg (Nat.not_lt.mpr hroom)

theorem State.doRestore_ok {s : State} {p m tag id : Nat} {c : Cmd} {x : Snap} (hc : s.cmd m tag = some c)
    (hx : (s.endRead (.cmd m tag)).findSnap p id = some x)
    (hr : (s.endRead (.cmd m tag)).restoreRefusal p ((c.sess.map (fun q => q.snapVer % 256)).getD 0) x = none) :
    s.doRestore p m tag id = (((((s.endRead (.cmd m tag)).placeSnap p x).finishDone p).placeQueues p x).dropLog p).complete c 0 false 0 0 := by
  have hc' : (s.endRead (.cmd m tag)).cmd m tag = some c := hc
  unfold doRestore
  generalize s.endRead (.cmd m tag) = v at *
  dsimp only
  rw [hc']
  dsimp only
  rw [hx]
  dsimp only
  cases hs : c.sess with
  | none =>
    rw [hs] at hr
    rw [show v.restoreRefusal p 0 x = none from hr]
  | some q =>
    rw [hs] at hr
    rw [show v.restoreRefusal p (q.snapVer % 256) x = none from hr]

/-! ### Copying (R371, R373) -/

theorem shadowCopy_ok {p : Nat} {s : State} (hl : (s.snapPart p).left ≠ 0) (ho : s.regOpen p 0 = true) :
    shadowCopy p s = (s.charge p 0 65536).updSnap p (fun x => { x with left := x.left - 1 }) := by
  unfold shadowCopy
  exact if_neg (not_or.mpr ⟨hl, by rw [ho]; decide⟩)

theorem makeRoom_enough {p n : Nat} {s : State} (h : s.snapBytes + n ≤ snapRegion) (fuel : Nat) : makeRoom p n fuel s = s := by
  cases fuel with
  | zero => rfl
  | succ _ => exact if_pos h

theorem trimSnaps_few {p keep : Nat} {s : State} (h : (s.capturedOf p).length ≤ keep) (fuel : Nat) : trimSnaps p keep fuel s = s := by
  cases fuel with
  | zero => rfl
  | succ _ => exact if_neg (Nat.not_lt.mpr h)

/-- Listing a value at a key adds one key at most. -/
theorem keys_tins_filter_length {α : Type} (f : Nat → Bool) (t : Tab α) (k : Nat) (v : α) :
    (((tins t k v).map (·.1)).filter f).length ≤ ((t.map (·.1)).filter f).length + 1 := by
  induction t with
  | nil =>
    refine (List.length_filter_le ..).trans ?_
    simp [tins]
  | cons e t ih =>
    obtain ⟨j, x⟩ := e
    unfold tins
    split
    next h => subst h; simp
    next =>
      split
      next =>
        simp only [List.map_cons, List.filter_cons (x := k)]
        split
        · simp
        · exact Nat.le_succ _
      next =>
        simp only [List.map_cons, List.filter_cons]
        split
        · simpa using ih
        · exact ih

/-- The state once a flash write has ended. -/
def State.flashHeld (s : State) (p : Nat) (x : Snap) : State :=
  State.charge { s.updSnap p (fun q => { q with writing := none }) with
    fsnaps := tins s.fsnaps x.id { snap := x, unusable := false, lost := false }
    flash := s.flash.replace (.snap x.id) x.total } p 1 x.total

theorem flashSnapWrite_ok {p : Nat} {s : State} {x : Snap} {prot : Bool} {c : SnapCfg} (hw : (s.snapPart p).writing = some (x, prot))
    (hc : (s.snapPart p).cfg = some c) (hk : 1 ≤ c.keep) (hl : (s.snapPart p).left = 0) (ho : s.regOpen p 1 = true)
    (hroom : s.snapBytes + x.total ≤ snapRegion) (hcap : s.capturedOf p = []) : flashSnapWrite p s = s.flashHeld p x := by
  have hgo : ¬((!s.regOpen p 1) = true ∨ (s.snapPart p).left ≠ 0 ∧ (s.snapPart p).shadow.map (·.id) = some x.id) := by
    rw [ho, hl]
    simp
  have hfew : ((s.flashHeld p x).capturedOf p).length ≤ c.keep := by
    refine (keys_tins_filter_length (fun id => decide (id / 2 ^ 48 = p % 16)) s.fsnaps x.id { snap := x, unusable := false, lost := false }).trans ?_
    rw [show (s.fsnaps.map (·.1)).filter (fun id => decide (id / 2 ^ 48 = p % 16)) = [] from hcap]
    exact hk
  unfold flashSnapWrite
  dsimp only
  rw [hw]
  dsimp only
  rw [if_neg hgo, hc, makeRoom_enough hroom]
  exact (if_neg (Nat.not_lt.mpr hroom)).trans (trimSnaps_few hfew _)

/-- Settles O48: each command by its handler, each finish by its branch. -/
theorem snapshotCommands : Obligations.SnapshotCommands := by
  unfold Obligations.SnapshotCommands
  intro m h s
  refine ⟨?_, ?_, ?_, ?_, ?_, ?_, ?_, ?_, ?_⟩
  · intro pb ht hb bs w a n es set sum cfg h48 ha hn hk h8 h10 h26 hz hperm hes hset hdis hsum hf0 hf1
    exact Replies.of_handler (handler := hSnapSet) ht (by decide) rfl
      (hSnapSet_ok (c := s.newCmd m h 0x0700 [pb]) (s := s.begun m h 0x0700 [pb]) rfl hb h48 ha hn hk h8 h10 h26 hz hperm hes hset hdis hsum hf0 hf1)
  · intro ht
    refine ⟨fun r hr => ?_, snapTake_now ht⟩
    exact Waits.of_handler (handler := hSnapTake) ht (by decide) rfl (hSnapTake_run (s := s.begun m h 0x0701 []) hr)
  · intro resp ht hb all out
    exact Replies.of_handler (handler := hSnapList) ht (by decide) rfl (hSnapList_all (s := s.begun m h 0x0702 [resp, 0]) hb rfl)
  · intro id x hid hl hx
    refine ⟨fun ht => ?_, fun dst len ht hlen hw => ?_⟩
    · have hgo : GoesOn (.snapRestore m h id) s m h 0x0703 [id] (fun u =>
          let u := u.readSnap m id.toNat (.cmd m h.tag.toNat)
          { u with bounds := u.bounds ++ [(m, .restore m h.tag.toNat id.toNat)] }) :=
        GoesOn.of_handler (handler := hSnapRestore) ht (by decide) rfl
          (hSnapRestore_ok (c := s.newCmd m h 0x0703 [id]) (s := s.begun m h 0x0703 [id]) hid hl hx)
      have hread := (s.begun m h 0x0703 [id]).readSnap_only m id.toNat (.cmd m h.tag.toNat)
      exact ⟨_, hgo, congrArg (· ++ _) (congrArg State.bounds hread :), (congrArg State.mem hread :), (congrArg State.parts hread :),
        (congrArg State.seqs hread :)⟩
    · exact GoesOn.of_handler (handler := hSnapExport) ht (by decide) rfl
        (hSnapExport_ok (c := s.newCmd m h 0x0705 [id, dst, len]) (s := s.begun m h 0x0705 [id, dst, len]) hid hl hx hlen hw)
  · intro id f ht hid hf
    exact Replies.of_handler (handler := hSnapDelete) ht (by decide) rfl (hSnapDelete_ok (s := s.begun m h 0x0704 [id]) hid hf)
  · intro src len ht hlen hm hw
    exact GoesOn.of_handler (handler := hSnapImport) (f := id) ht (by decide) rfl (hSnapImport_ok (s := s.begun m h 0x0706 [src, len]) hlen hm hw)
  · intro o c x
    obtain ⟨hrestore, hexport, himport⟩ := finOf_snap o c s
    refine ⟨fun hcode hh hx => (hexport hcode).trans (finSnapExport_ok hh hx), ?_, ?_⟩
    · intro k good q hcode hh ho hq bs id hk hmaj hmin hparse hroom
      exact ⟨s.imported c.m id k x good, (himport hcode).trans (finSnapImport_ok hh ho hq hk hmaj hmin hparse hroom), rfl, rfl, rfl,
        State.importNumber_free hk⟩
    · intro id hcode hc hr hl hb v hx href
      exact (hrestore hcode).trans ((settleBounds_restore hr hl hb).trans (State.doRestore_ok (s := s.setBounds c.m []) hc hx href))
  · exact fun p hl ho => congrArg Host.Outcome.next (shadowCopy_ok hl ho)
  · intro p snap prot c hw hc hk hl ho hroom hcap
    exact ⟨s.flashHeld p snap, congrArg Host.Outcome.next (flashSnapWrite_ok hw hc hk hl ho hroom hcap), rfl,
      congrArg SnapPart.writing (s.snapPart_updSnap p (fun q => { q with writing := none })), rfl, rfl⟩

end Sys2Proof.Machine
end

section
/-!
Commands of the schedule domain, the twin pair, the links and the Iris sessions (R319 to R322, R340, R385 to R395).
-/

namespace Sys2Proof.Machine

/-! ### Schedule domains (R319, R321, R322) -/

theorem hDomConfig_ok {c : Cmd} {s : State} {d : Domain} (hb : s.blockRefusal c.part (c.w 0) 64 true false = none)
    (hd : parseDomain (s.awBytes c.part (c.w 0) 64) = (d, false)) :
    hDomConfig c s = (s.restartPorts ((List.range 24).filter (fun k => d.uses (k / 4))), .bg) := by
  unfold hDomConfig
  rw [withPb_ok hb, hd]
  rfl

/-- The state without its ports. -/
def State.sansPorts (s : State) : State := { s with ports := [] }

theorem State.foldl_updPort_sansPorts (f : Port → Port) (ks : List Nat) (s : State) :
    (ks.foldl (fun s k => s.updPort k f) s).sansPorts = s.sansPorts :=
  foldl_keeps sansPorts (fun s k => s.updPort k f) (fun _ _ => rfl) ks s

theorem State.formDomain_spec (s : State) (d : Domain) : (s.formDomain d).domain = some d ∧ (s.formDomain d).mem = s.mem ∧
    (s.formDomain d).time = s.time ∧
    (s.formDomain d).ftAdj = s.ftAdj + (((if d.x = 0 ∧ d.y = 0 ∧ d.z = 0 then s.ftime else Config.domainTime s.fresh : Nat) : Int) - s.ftime) := by
  unfold formDomain
  generalize List.range 24 = ks
  extract_lets t s1 s2
  have hs2 : s2.sansPorts = s1.sansPorts := foldl_updPort_sansPorts _ ks s1
  clear_value s2
  exact ⟨(congrArg State.domain hs2 :), (congrArg State.mem hs2 :), (congrArg State.time hs2 :), (congrArg State.ftAdj hs2 :)⟩

theorem finDomConfig_ok {c : Cmd} {s : State} {d : Domain} (hh : awHost (c.w 0) = false) (hd : parseDomain (s.awBytes c.part (c.w 0) 64) = (d, false))
    (hid : ∀ k < 24, d.uses (k / 4) = true → (s.port k).state ≠ .identFail) (hup : ∀ dir < 6, d.uses dir = true → s.upPorts dir ≠ []) :
    finDomConfig .done c s = (s.formDomain d).complete c 0 false 0 0 := by
  have h1 : (List.range 24).any (fun k => d.uses (k / 4) && (s.port k).state == .identFail) = false := by
    refine List.any_eq_false.mpr fun k hk => ?_
    simp only [Bool.and_eq_true, beq_iff_eq, not_and]
    exact hid k (List.mem_range.mp hk)
  have h2 : (List.range 6).any (fun dir => d.uses dir && (s.upPorts dir).isEmpty) = false := by
    refine List.any_eq_false.mpr fun k hk => ?_
    simp only [Bool.and_eq_true, List.isEmpty_iff, not_and]
    exact hup k (List.mem_range.mp hk)
  have hno : ∀ {b : Bool}, b = false → ¬b = true := fun h => by rw [h]; exact Bool.false_ne_true
  have hdiffer : BgFind.done ≠ .domainDiffers := by decide
  have hdown : BgFind.done ≠ .linkDown := by decide
  unfold finDomConfig
  rw [hd, if_neg (not_and.mpr fun hc => absurd hc (hno hh))]
  exact (if_neg Bool.false_ne_true).trans ((if_neg (not_or.mpr ⟨hdiffer, hno h1⟩)).trans (if_neg (not_or.mpr ⟨hdown, hno h2⟩)))

theorem State.domainBusy_false {s : State} {d : Domain} (h : ∀ p < 16, bit d.pmask p = true → s.working p = false) : s.domainBusy d = false := by
  refine List.any_eq_false.mpr fun p hp => ?_
  rw [Bool.and_eq_true, not_and]
  exact fun hb => by rw [h p (List.mem_range.mp hp) hb]; decide

theorem State.domainBusy_true {s : State} {d : Domain} (h : ∃ p < 16, bit d.pmask p = true ∧ s.working p = true) : s.domainBusy d = true := by
  obtain ⟨p, hp, hb, hw⟩ := h
  exact List.any_eq_true.mpr ⟨p, List.mem_range.mpr hp, by rw [hb, hw]; rfl⟩

theorem hDomLeave_free {c : Cmd} {s : State} {d : Domain} (hd : s.domain = some d) (hb : s.domainBusy d = false) : hDomLeave c s = (s.leaveDomain, ok) := by
  unfold hDomLeave
  rw [hd]
  dsimp only
  rw [hb, if_neg (by decide)]

theorem hDomLeave_busy {c : Cmd} {s : State} {d : Domain} (hd : s.domain = some d) (hb : s.domainBusy d = true) : hDomLeave c s = (s, .wait) := by
  unfold hDomLeave
  rw [hd]
  dsimp only
  rw [hb, if_pos rfl]

theorem hDomLeave_none {c : Cmd} {s : State} (hd : s.domain = none) : hDomLeave c s = (s, no 0x16) := by
  unfold hDomLeave
  rw [hd]

theorem hFtimeQuery_eq (c : Cmd) (s : State) : (s.domain ≠ none → hFtimeQuery c s = (s, .done 0 s.ftime 0)) ∧
    (s.domain = none → hFtimeQuery c s = (s, no 0x16)) := by
  unfold hFtimeQuery
  refine ⟨fun h => ?_, fun h => ?_⟩
  · rw [Option.isSome_iff_ne_none.mpr h, if_pos rfl]
  · rw [h, if_neg (by decide)]

/-! ### Links and the twin pair (R319, R340) -/

theorem hLinkQuery_ok {c : Cmd} {s : State} (hk : c.p 0 < 26) (hb : s.blockRefusal c.part (c.w 1) 64 false true = none) :
    hLinkQuery c s = (
      let q := s.port (c.p 0)
      s.awWrite c.part (c.w 1) (wordsLe [BitVec.ofNat 64 q.stat, q.fec, q.unc, q.crc, q.replay, q.retrain.setWidth 64, q.serial, 0]), ok) := by
  unfold hLinkQuery
  rw [if_neg (Nat.not_le.mpr hk), hb]

theorem hTwinConfig_ok {c : Cmd} {s : State} (hb : s.blockRefusal c.part (c.w 0) 64 true false = none)
    (hd : (parseTwin (s.awBytes c.part (c.w 0) 64) s.dmask).2 = false) : hTwinConfig c s = (s.restartPorts [24, 25], .bg) := by
  unfold hTwinConfig
  rw [withPb_ok hb, hd, if_neg (by decide)]

theorem finTwinConfig_ok {c : Cmd} {s : State} {t : Twin} {k : Nat} (hh : awHost (c.w 0) = false)
    (hd : parseTwin (s.awBytes c.part (c.w 0) 64) s.dmask = (t, false)) (hk : k = 24 ∨ k = 25) (hst : (s.port k).state = .up)
    (hser : (s.port k).serial = t.peer) : finTwinConfig .done c s = State.complete { s with twin := some t } c 0 false 0 0 := by
  have hup : [24, 25].any (fun k => (s.port k).state == .up && (s.port k).serial == t.peer) = true :=
    List.any_eq_true.mpr ⟨k, by simpa using hk, by rw [hst, hser]; simp⟩
  unfold finTwinConfig
  rw [hh, if_neg (by simp), hd]
  dsimp only
  rw [if_neg (by decide), if_neg (by decide), hup, if_neg (by decide)]

theorem finOf_config (o : BgFind) (c : Cmd) (s : State) : (c.code = 0x0800 → finOf o c s = finDomConfig o c s) ∧
    (c.code = 0x0803 → finOf o c s = finTwinConfig o c s) := by
  unfold finOf
  exact ⟨fun h => by rw [h]; rfl, fun h => by rw [h]; rfl⟩

/-! ### Iris sessions (R385 to R395) -/

theorem exists_free_of_filter {α : Type} (t : Tab α) (n i : Nat) (h : ∃ k < n, oget t k = none) :
    ∃ k < n, oget t k = none ∧ let free := (List.range n).filter (fun h => (oget t h).isNone); free[i % max 1 free.length]? = some k := by
  obtain ⟨k, hk, hn⟩ := h
  let free := (List.range n).filter (fun h => (oget t h).isNone)
  have hmem : k ∈ free := List.mem_filter.mpr ⟨List.mem_range.mpr hk, by rw [hn]; rfl⟩
  have hpos : 0 < free.length := List.length_pos_of_mem hmem
  have hlt : i % max 1 free.length < free.length := by
    rw [Nat.max_eq_right hpos]
    exact Nat.mod_lt _ hpos
  have hget : free[i % max 1 free.length] ∈ free := List.getElem_mem hlt
  obtain ⟨h1, h2⟩ := List.mem_filter.mp hget
  exact ⟨_, List.mem_range.mp h1, Option.isNone_iff_eq_none.mp h2, List.getElem?_eq_getElem hlt⟩

theorem hIrsOpen_ok {c : Cmd} {s : State} (hb : s.blockRefusal c.part (c.w 0) 128 true false = none) :
    let x := parseIris c.part (s.awBytes c.part (c.w 0) 128)
    x.bad = false → s.irisSpans c.part x = true → s.irisOf c.part x.core = true →
    (x.codec = 1 → x.dec = false → (c.sess.map (fun q => q.feats.getLsbD 5)).getD false = true) →
    s.semIn c.part x.psem.2 = true → x.unsupported = false → (s.iris.filter (fun e => e.2.core = x.core)).length < 16 →
    ∀ k, (let free := (List.range 256).filter (fun h => (oget s.iris h).isNone); free[Config.pick s.fresh % max 1 free.length]? = some k) →
    hIrsOpen c s = ({ s with iris := tins s.iris k x, fresh := s.fresh + 1 }, .done 0 k 0) := by
  intro x hbad hsp hof hav hsem hun hlen k hk
  have hgo : ¬((!s.irisOf c.part x.core) = true ∨ (x.codec = 1 ∧ x.dec = false ∧ (!((c.sess.map (fun q => q.feats.getLsbD 5)).getD false)) = true) ∨
      (!s.semIn c.part x.psem.2) = true) := by
    rw [hof, hsem]
    rintro (h | ⟨h1, h2, h3⟩ | h)
    · cases h
    · rw [hav h1 h2] at h3
      cases h3
    · cases h
  have hno : ∀ {b : Bool}, b = false → ¬b = true := fun h => by rw [h]; decide
  unfold hIrsOpen
  rw [withPb_ok hb]
  refine (if_neg (hno hbad)).trans ((if_neg (by rw [show s.irisSpans _ _ = true from hsp]; decide)).trans ((if_neg hgo).trans ((if_neg (hno hun)).trans
    ((if_neg (Nat.not_le.mpr hlen)).trans ?_))))
  dsimp only at hk ⊢
  rw [hk]

section
variable {c : Cmd} {s : State} {x : IrisSess} (hx : oget s.iris (c.p 0) = some x) (hp : x.part = c.part)
include hx hp

theorem State.irisFor_ok : s.irisFor c.part (c.p 0) = .ok x := by
  unfold irisFor
  rw [hx]
  exact if_pos hp

theorem hIrsClose_idle (hc : x.closing = none) (hb : s.irisBusy (c.p 0) x = false) : hIrsClose c s = ({ s with iris := tdrop s.iris (c.p 0) }, ok) := by
  unfold hIrsClose
  rw [State.irisFor_ok hx hp]
  dsimp only
  rw [hc, if_neg (by decide), hb, if_neg (by decide)]

theorem hIrsClose_busy (hc : x.closing = none) (hb : s.irisBusy (c.p 0) x = true) :
    hIrsClose c s = ({ s with iris := tins s.iris (c.p 0) { x with held := [], group := 0, closing := some (c.m, c.tag) } }, .wait) := by
  unfold hIrsClose
  rw [State.irisFor_ok hx hp]
  dsimp only
  rw [hc, if_neg (by decide), hb, if_pos rfl]
  exact congrArg (fun t => (({ s with iris := t } : State), Reply.wait)) (oupd_some hx _)

theorem hIrsQuery_ok (hb : s.blockRefusal c.part (c.w 1) 64 false true = none) :
    hIrsQuery c s = (s.awWrite c.part (c.w 1) (wordsLe ([x.n % 2 ^ 32 + 2 ^ 32 * x.held.length + 2 ^ 40 * b2n x.closing.isSome, x.pics.toNat,
      x.bytes.toNat, 0, 0, 0, 0, 0].map (BitVec.ofNat 64))), ok) := by
  unfold hIrsQuery
  rw [withResp_ok hb, State.irisFor_ok hx hp]

end

/-- Settles O49: each command by its handler, each finish by its branch. -/
theorem domainAndIrisCommands : Obligations.DomainAndIrisCommands := by
  unfold Obligations.DomainAndIrisCommands
  intro m h s
  refine ⟨?_, ?_, ?_, ?_, ?_, ?_, ?_, ?_, ?_, ?_, ?_⟩
  · intro pb d ht hb hd
    exact GoesOn.of_handler (handler := hDomConfig) ht (by decide) rfl (hDomConfig_ok (s := s.begun m h 0x0800 [pb]) hb hd)
  · intro c d hcode hh hd hid hup
    obtain ⟨hdom, hmem, htime, hadj⟩ := s.formDomain_spec d
    refine ⟨s.formDomain d, ((finOf_config .done c s).1 hcode).trans (finDomConfig_ok hh hd hid hup), hdom, hmem, fun hx hy hz => ?_, fun hne h0 => ?_⟩
    · unfold State.ftime at hadj ⊢
      rw [htime, hadj, if_pos ⟨hx, hy, hz⟩]
      simp
    · rw [if_neg hne] at hadj
      have hft : (s.ftime : Int) = (s.time / 8 : Nat) + s.ftAdj := Int.toNat_of_nonneg h0
      rw [hft] at hadj
      unfold State.ftime
      rw [htime, hadj]
      omega
  · intro d ht hd hw
    exact Replies.of_handler (handler := hDomLeave) ht (by decide) rfl
      (hDomLeave_free (s := s.begun m h 0x0801 []) hd (State.domainBusy_false (s := s.begun m h 0x0801 []) hw))
  · intro d ht hd hw
    exact Waits.of_handler (handler := hDomLeave) (f := id) ht (by decide) rfl
      (hDomLeave_busy (s := s.begun m h 0x0801 []) hd (State.domainBusy_true (s := s.begun m h 0x0801 []) hw))
  · intro ht hd
    exact Replies.of_handler (handler := hDomLeave) (f := id) ht (by decide) rfl (hDomLeave_none (s := s.begun m h 0x0801 []) hd)
  · intro k resp ht hk hb q
    exact Replies.of_handler (handler := hLinkQuery) ht (by decide) rfl (hLinkQuery_ok (s := s.begun m h 0x0802 [k, resp]) hk hb)
  · intro pb ht hb hd
    exact GoesOn.of_handler (handler := hTwinConfig) ht (by decide) rfl (hTwinConfig_ok (s := s.begun m h 0x0803 [pb]) hb hd)
  · intro c t k hcode hh hd hk hst hser
    exact ((finOf_config .done c s).2 hcode).trans (finTwinConfig_ok hh hd hk hst hser)
  · intro ht
    refine ⟨fun hd => ?_, fun hd => ?_⟩
    · exact Replies.of_handler (handler := hFtimeQuery) (f := id) ht (by decide) rfl ((hFtimeQuery_eq _ (s.begun m h 0x0804 [])).1 hd)
    · exact Replies.of_handler (handler := hFtimeQuery) (f := id) ht (by decide) rfl ((hFtimeQuery_eq _ (s.begun m h 0x0804 [])).2 hd)
  · intro pb ht hb x hbad hsp hof hav hsem hun hlen hfree
    obtain ⟨k, hk, hn, hpick⟩ := exists_free_of_filter s.iris 256 (Config.pick s.fresh) hfree
    refine ⟨k, hk, hn, Replies.of_handler (handler := hIrsOpen) ht (by decide) rfl ?_⟩
    refine hIrsOpen_ok (c := s.newCmd m h 0x0900 [pb]) (s := s.begun m h 0x0900 [pb]) hb hbad hsp hof (fun h1 h2 => ?_) hsem hun hlen k hpick
    have hfeat := hav h1 h2
    unfold Mbx.feat grants at hfeat
    show ((s.mbx m).session.map _).getD false = true
    cases hs : (s.mbx m).session with
    | none => rw [hs] at hfeat; cases hfeat
    | some q => rw [hs] at hfeat; exact hfeat
  · intro k x hx hp
    refine ⟨fun ht hc => ⟨fun hb => ?_, fun hb => ?_⟩, fun resp ht hb => ?_⟩
    · exact Replies.of_handler (handler := hIrsClose) ht (by decide) rfl (hIrsClose_idle (s := s.begun m h 0x0901 [k]) hx hp hc hb)
    · exact Waits.of_handler (handler := hIrsClose) ht (by decide) rfl (hIrsClose_busy (s := s.begun m h 0x0901 [k]) hx hp hc hb)
    · exact Replies.of_handler (handler := hIrsQuery) ht (by decide) rfl (hIrsQuery_ok (s := s.begun m h 0x0902 [k, resp]) hx hp hb)

end Sys2Proof.Machine
end

section
/-!
Commands of power, telemetry, security and diagnostics (R279, R425 to R427, R431, R438).
-/

namespace Sys2Proof.Machine

/-- A `Bool` that is false is not true. -/
theorem not_true_of_eq_false {b : Bool} (h : b = false) : ¬b = true := by
  rw [h]
  exact Bool.false_ne_true

/-! ### Power (R431, R437, R438) -/

theorem hPwrTimeout_ok {c : Cmd} {s : State} {q : Part} (hus : c.p 0 < 2 ^ 32) (hq : oget s.parts c.part = some q) :
    hPwrTimeout c s = ({ s with parts := tins s.parts c.part { q with offUs := BitVec.ofNat 32 (c.p 0) } }, ok) :=
  (if_neg (Nat.not_le.mpr hus)).trans (congrArg (fun t => (({ s with parts := t } : State), ok)) (oupd_some hq _))

/-- A transition to Standby or Sleep starts; from Standby the commit point is the start. -/
def State.startTrans (s : State) (c : Cmd) : State :=
  let u := if s.mode = .standby then s.updCmd c (fun d => { d with committed := true }) else s
  { u with board := { u.board with trans := some (c.m, c.tag, c.p 0) } }

theorem State.startTrans_spec (s : State) (c : Cmd) : (s.startTrans c).board = { s.board with trans := some (c.m, c.tag, c.p 0) } ∧
    (s.startTrans c).mode = s.mode ∧ (s.startTrans c).mem = s.mem ∧ (s.startTrans c).mbxs = s.mbxs := by
  unfold startTrans
  by_cases hm : s.mode = .standby
  · rw [if_pos hm]
    exact ⟨rfl, rfl, rfl, rfl⟩
  · rw [if_neg hm]
    exact ⟨rfl, rfl, rfl, rfl⟩

section
variable {c : Cmd} {s : State} (ht : c.p 0 ≤ 2) (hfree : ¬(s.board.trans.isSome = true ∨ s.board.sleepAt.isSome = true))
include ht hfree

/-- The module is already in the state asked for. -/
theorem hPwrModule_same (h : c.p 0 = s.modeNo) : hPwrModule c s = (s, ok) :=
  (if_neg (Nat.not_lt.mpr ht)).trans ((if_neg hfree).trans (if_pos h))

/-- Active is entered at once. -/
theorem hPwrModule_active (h : c.p 0 ≠ s.modeNo) (h0 : c.p 0 = 0) :
    hPwrModule c s = (({ s with mode := .active } : State).platformEvent, ok) :=
  (if_neg (Nat.not_lt.mpr ht)).trans ((if_neg hfree).trans ((if_neg h).trans (if_pos h0)))

theorem hPwrModule_trans (h : c.p 0 ≠ s.modeNo) (h0 : c.p 0 ≠ 0) (hs : c.p 0 = 2 → s.sleepRefused = false) :
    hPwrModule c s = (s.startTrans c, .bg) :=
  (if_neg (Nat.not_lt.mpr ht)).trans ((if_neg hfree).trans ((if_neg h).trans ((if_neg h0).trans
    (if_neg (not_and.mpr fun h2 => not_true_of_eq_false (hs h2))))))

end

theorem State.not_active_of_modeNo {s : State} (h : s.mode ≠ .active) : 0 ≠ s.modeNo := by
  unfold modeNo
  cases hm : s.mode with
  | active => exact absurd hm h
  | standby => exact Nat.zero_ne_one
  | sleep => exact Nat.zero_ne_add_one 1
  | off => exact Nat.zero_ne_add_one 2

/-- A PWR_MODULE in the journal refuses no Sleep. -/
theorem State.sleepRefused_begun {s : State} {m : Nat} {h : CmdHdr} {t : W64} :
    (s.begun m h 0x0A01 [t]).sleepRefused = s.sleepRefused := by
  have hj : (s.begun m h 0x0A01 [t]).journal = s.journal ++ [s.newCmd m h 0x0A01 [t]] := rfl
  have hcode : (s.newCmd m h 0x0A01 [t]).code = 0x0A01 := rfl
  unfold sleepRefused flashWrites
  rw [hj, List.any_append, List.any_append, List.any_cons, List.any_cons, hcode]
  simp only [List.any_nil, bne_self_eq_false, Bool.and_false, Bool.or_false, show ((0x0A01 == 0x609) || (0x0A01 == 0x60A)) = false from rfl]
  rfl

/-! ### Keys and secure partitions (R425, R426) -/

/-- The key of a SEC_KEY_SET block. -/
def blockKey (bs : List Byte) : PKey :=
  { id := BitVec.ofNat 64 (wordAt bs 8), x := beNat ((bs.drop 0x10).take 66), y := beNat ((bs.drop 0x52).take 66) }

theorem secSecure_exists {q : Option Part} (hq : q.isSome = true) : ¬q.isNone = true := by
  cases q with
  | none => cases hq
  | some _ => exact Bool.false_ne_true

theorem secKeySet_wellFormed {p w : Nat} {b : Bool} (hp : p < 16) (hw : w < 4) (hb : b = false) : ¬(16 ≤ p ∨ 4 ≤ w ∨ b = true) := by
  rintro (h | h | h)
  · omega
  · omega
  · exact not_true_of_eq_false hb h

theorem secKeySet_open {q : Option Part} {b : Bool} (hq : q.isSome = true) (hb : b = false) : ¬(q.isNone = true ∨ b = true) := by
  rintro (h | h)
  · exact secSecure_exists hq h
  · exact not_true_of_eq_false hb h

section
variable {c : Cmd} {s : State} (hp : c.p 0 < 16) (hq : (oget s.parts (c.p 0)).isSome = true)
include hp hq

section
variable {bs : List Byte} (hbs : s.awBytes c.part (c.w 1) 256 = bs) (hb : s.blockRefusal c.part (c.w 1) 256 true false = none) (hsec : s.isSecure (c.p 0) = false)
  (hw0 : wordAt bs 0 < 4) (hres : (bs.drop 0x94).any (· ≠ 0) = false)
include hbs hb hsec hw0 hres

/-- A key of zeros clears its slot, whatever its identifier. -/
theorem hSecKeySet_clear (hx : beNat ((bs.drop 0x10).take 66) = 0)
    (hy : beNat ((bs.drop 0x52).take 66) = 0) :
    hSecKeySet c s = ({ s with pkeys := tdrop s.pkeys (4 * c.p 0 + wordAt bs 0) }, ok) := by
  subst hbs
  rw [← Nat.mod_eq_of_lt hw0]
  exact (withPb_ok hb).trans ((if_neg (secKeySet_wellFormed hp hw0 hres)).trans ((if_neg (secKeySet_open hq hsec)).trans (if_pos ⟨hx, hy⟩)))

/-- A key on the curve, under an identifier that no other slot has, is set. -/
theorem hSecKeySet_set (hid : wordAt bs 8 ≠ 0)
    (hcurve : P521.onCurve (beNat ((bs.drop 0x10).take 66), beNat ((bs.drop 0x52).take 66)) = true)
    (hne : ¬(beNat ((bs.drop 0x10).take 66) = 0 ∧ beNat ((bs.drop 0x52).take 66) = 0))
    (hfresh : ∀ e ∈ s.pkeysOf (c.p 0), e.1 ≠ wordAt bs 0 → e.2.id.toNat ≠ wordAt bs 8) :
    hSecKeySet c s = ({ s with pkeys := tins s.pkeys (4 * c.p 0 + wordAt bs 0) (blockKey bs) }, ok) := by
  have hother : (s.pkeysOf (c.p 0)).any (fun k => k.1 != wordAt bs 0 % 4 &&
      k.2.id.toNat == wordAt bs 8) = false := by
    rw [Nat.mod_eq_of_lt hw0]
    refine List.any_eq_false.mpr fun e he => ?_
    rw [Bool.and_eq_true, bne_iff_ne, beq_iff_eq, not_and]
    exact hfresh e he
  have hgood : ¬(wordAt bs 8 = 0 ∨
      (!P521.onCurve (beNat ((bs.drop 0x10).take 66), beNat ((bs.drop 0x52).take 66))) = true ∨
      (s.pkeysOf (c.p 0)).any (fun k => k.1 != wordAt bs 0 % 4 &&
        k.2.id.toNat == wordAt bs 8) = true) := by
    rw [hcurve, hother]
    simpa using hid
  have hslot : 4 * c.p 0 + wordAt bs 0 % 4 = 4 * c.p 0 + wordAt bs 0 := by
    rw [Nat.mod_eq_of_lt hw0]
  rw [← hslot]
  subst hbs
  exact (withPb_ok hb).trans ((if_neg (secKeySet_wellFormed hp hw0 hres)).trans ((if_neg (secKeySet_open hq hsec)).trans
    ((if_neg hne).trans (if_neg hgood))))

end

/-- A partition whose images and windows its keys sign becomes secure. -/
theorem hSecSecure_set (he : c.p 1 = 1) (h : s.maySecure (c.p 0) = true) :
    hSecSecure c s = ({ s with secure := c.p 0 :: s.secure.filter (· ≠ c.p 0) }, ok) :=
  (if_neg (by rw [he]; omega)).trans ((if_neg (secSecure_exists hq)).trans ((if_pos he).trans (if_pos h)))

/-- A partition that holds nothing signed stops being secure. -/
theorem hSecSecure_release (he : c.p 1 = 0) (h : s.mayRelease (c.p 0) = true) :
    hSecSecure c s = ({ s with secure := s.secure.filter (· ≠ c.p 0) }, ok) :=
  (if_neg (by rw [he]; omega)).trans ((if_neg (secSecure_exists hq)).trans ((if_neg (by rw [he]; exact Nat.zero_ne_one)).trans (if_pos h)))

end

/-! ### Attestation (R427) -/

theorem hSecAttest_ok {c : Cmd} {s : State} (hn : s.blockRefusal c.part (c.w 0) 64 true false = none)
    (hr : s.blockRefusal c.part (c.w 1) 98304 false true = none) :
    hSecAttest c s = ((s.awWrite c.part (c.w 1) (s.report427 c.part (s.awBytes c.part (c.w 0) 64))).awWrite c.part
      (c.w 1 + BitVec.ofNat 64 (roundUp (s.report427 c.part (s.awBytes c.part (c.w 0) 64)).length 64)) s.akChain, ok) := by
  unfold hSecAttest
  rw [hn, hr]

/-! ### Diagnostics (R279) -/

section
variable {c : Cmd} {s : State} {k : EngineKind} {n : Nat} (hz : bits (c.p 0) 4 4 = 0) (hw : c.p 0 < 2 ^ 16) (hu : diagUnit (c.p 0) = some (k, n))
  (he : s.engineOf c.part k n = true) (hidle : s.unitBusy k n = false)
include hz hw hu he hidle

theorem hDiagSelftest_gates : hDiagSelftest c s = if s.journal.any (fun d => d.code == 0x0C01 && d.bg) then (s, no 0x19) else (s, .bg) := by
  have hform : ¬(bits (c.p 0) 4 4 ≠ 0 ∨ 2 ^ 16 ≤ c.p 0) := by
    rintro (h | h)
    · exact h hz
    · exact absurd hw (Nat.not_lt.mpr h)
  unfold hDiagSelftest
  dsimp only
  rw [if_neg hform, hu]
  exact (if_neg (by rw [he]; exact Bool.false_ne_true)).trans (if_neg (not_true_of_eq_false hidle))

end

theorem finOf_selftest {c : Cmd} (hc : c.code = 0x0C01) (o : BgFind) (s : State) : finOf o c s = selftestEnds o c s := by
  unfold finOf
  rw [hc]
  rfl

theorem hDiagInject_none {c : Cmd} {s : State} (hb : s.blockRefusal c.part (c.w 0) 64 true false = none)
    (hps : s.parts.filter (fun e => e.2.diag && !s.isSecure e.1) = []) : hDiagInject c s = (s, no 0x16) := by
  unfold hDiagInject
  rw [withPb_ok hb]
  dsimp only
  rw [hps]
  rfl

theorem hDiagInject_some {c : Cmd} {s : State} {x : Nat × Part} (hb : s.blockRefusal c.part (c.w 0) 64 true false = none)
    (hx : (s.parts.filter (fun e => e.2.diag && !s.isSecure e.1))[Config.diagInject (s.awBytes c.part (c.w 0) 64) 0 %
      max 1 (s.parts.filter (fun e => e.2.diag && !s.isSecure e.1)).length]? = some x) :
    hDiagInject c s = (s.inject x.1 (s.awBytes c.part (c.w 0) 64), ok) := by
  unfold hDiagInject
  rw [withPb_ok hb]
  dsimp only
  rw [hx]

/-- Settles O50: each command by its handler. -/
theorem powerSecurityDiagnostics : Obligations.PowerSecurityDiagnostics := by
  unfold Obligations.PowerSecurityDiagnostics
  intro m h s
  refine ⟨?_, ?_, ?_, ?_, ?_, ?_, ?_, ?_, ?_, ?_, ?_⟩
  · intro us q ht hus hq
    exact Replies.of_handler (handler := hPwrTimeout) ht (by decide) rfl (hPwrTimeout_ok (s := s.begun m h 0x0A00 [us]) hus hq)
  · intro t ht hle htrans hsleep
    have hfree : ¬((s.begun m h 0x0A01 [t]).board.trans.isSome = true ∨ (s.begun m h 0x0A01 [t]).board.sleepAt.isSome = true) := by
      show ¬(s.board.trans.isSome = true ∨ s.board.sleepAt.isSome = true)
      rw [htrans, hsleep]
      simp
    refine ⟨fun hn => ?_, fun h0 hact => ?_, fun h0 hn hsl => ?_⟩
    · exact Replies.of_handler (handler := hPwrModule) (f := id) ht (by decide) rfl (hPwrModule_same (s := s.begun m h 0x0A01 [t]) hle hfree hn)
    · subst h0
      exact Replies.of_handler (handler := hPwrModule) ht (by decide) rfl
        (hPwrModule_active (s := s.begun m h 0x0A01 [0]) hle hfree (State.not_active_of_modeNo hact) rfl)
    · have hz : t.toNat ≠ 0 := fun hz => h0 (BitVec.eq_of_toNat_eq hz)
      have hgo := GoesOn.of_handler (f := fun u => u.startTrans (s.newCmd m h 0x0A01 [t])) (handler := hPwrModule) (i := .pwrModule m h t) ht (by decide) rfl
        (hPwrModule_trans (s := s.begun m h 0x0A01 [t]) hle hfree hn hz
          (fun h2 => State.sleepRefused_begun.trans (hsl (BitVec.eq_of_toNat_eq h2))))
      obtain ⟨hboard, hmode, hmem, hmbx⟩ := (s.begun m h 0x0A01 [t]).startTrans_spec (s.newCmd m h 0x0A01 [t])
      refine ⟨_, hgo, hboard, hmode, hmem, ?_⟩
      exact (congrArg (fun b => (tget (fun _ => Mbx.reset) b m).due) hmbx).trans (s.begun_due m 0x0A01 h [t])
  · intro mask ht
    exact Replies.of_handler (handler := hTelSubscribe) ht (by decide) rfl rfl
  · intro resp ht hb
    exact ⟨_, by simp, Replies.of_handler (handler := hTelRead) ht (by decide) rfl (freeResp_ok (s := s.begun m h 0x0A03 [resp]) hb)⟩
  · intro p k ht hb hp hq hsec bs id x y slot hw0 hres
    refine ⟨fun hx hy => ?_, fun hid hcurve hne hfresh => ?_⟩
    · exact Replies.of_handler (handler := hSecKeySet) ht (by decide) rfl (hSecKeySet_clear (c := s.newCmd m h 0x0B00 [p, k]) (s := s.begun m h 0x0B00 [p, k]) hp hq rfl hb hsec hw0 hres hx hy)
    · exact Replies.of_handler (handler := hSecKeySet) ht (by decide) rfl
        (hSecKeySet_set (c := s.newCmd m h 0x0B00 [p, k]) (s := s.begun m h 0x0B00 [p, k]) hp hq rfl hb hsec hw0 hres hid hcurve hne hfresh)
  · intro p e ht hp hq
    refine ⟨fun he hs => ?_, fun he hs => ?_⟩
    · subst he
      exact Replies.of_handler (handler := hSecSecure) ht (by decide) rfl (hSecSecure_set (s := s.begun m h 0x0B01 [p, 1]) hp hq rfl hs)
    · subst he
      exact Replies.of_handler (handler := hSecSecure) ht (by decide) rfl (hSecSecure_release (s := s.begun m h 0x0B01 [p, 0]) hp hq rfl hs)
  · intro n r ht hn hr rep
    exact Replies.of_handler (handler := hSecAttest) ht (by decide) rfl (hSecAttest_ok (s := s.begun m h 0x0B02 [n, r]) hn hr)
  · intro resp start ht hb
    exact ⟨_, by simp, Replies.of_handler (handler := hDiagLog) ht (by decide) rfl (freeResp_ok (s := s.begun m h 0x0C00 [resp, start]) hb)⟩
  · intro w k n ht hz hw hu he hidle
    have hgates := hDiagSelftest_gates (c := s.newCmd m h 0x0C01 [w]) (s := s.begun m h 0x0C01 [w]) hz hw hu he hidle
    have hany : (s.begun m h 0x0C01 [w]).journal.any (fun d => d.code == 0x0C01 && d.bg) = s.journal.any (fun d => d.code == 0x0C01 && d.bg) := by
      show (s.journal ++ [s.newCmd m h 0x0C01 [w]]).any _ = _
      rw [List.any_append, List.any_cons, show (s.newCmd m h 0x0C01 [w]).bg = false from rfl]
      simp
    rw [hany] at hgates
    refine ⟨fun hno => ?_, fun hyes => ?_⟩
    · rw [hno] at hgates
      exact GoesOn.of_handler (handler := hDiagSelftest) (f := id) ht (by decide) rfl hgates
    · rw [hyes] at hgates
      exact Replies.of_handler (handler := hDiagSelftest) (f := id) ht (by decide) rfl hgates
  · intro c hc
    refine ⟨finOf_selftest hc .done s, fun n hu => (finOf_selftest hc .unitFails s).trans ?_⟩
    unfold selftestEnds
    rw [hu]
    rfl
  · intro pb ht hb ps bs
    refine ⟨fun hps => ?_, fun x hx => ?_⟩
    · exact Replies.of_handler (handler := hDiagInject) (f := id) ht (by decide) rfl (hDiagInject_none (s := s.begun m h 0x0C02 [pb]) hb hps)
    · exact Replies.of_handler (handler := hDiagInject) ht (by decide) rfl (hDiagInject_some (s := s.begun m h 0x0C02 [pb]) hb hx)

end Sys2Proof.Machine
end

section
/-!
Serving runs and steps (R26, R303, R306 to R308, R326, R338, R341 to R343, R359, R366, R372).
-/

namespace Sys2Proof.Machine

/-! ### STEP (R306, R372) -/

/-- The run that a STEP starts. -/
def QpEntry.newRun (e : QpEntry) (q : Nat) (plan : Plan) : Run :=
  { qp := q, at_ := e.at_, tag := e.tag, irq := e.irq, var := e.var, plan := plan, nsteps := bits (e.w 2) 0 32, stepsRun := 0, stop := false,
    faultAddr := bits (e.w 3) 0 48, faulted := false, status := 0, inStep := false, idle := false, wait := 0, back := 0, sel := [], rungs := [],
    rungUp := false, replay := false, mism := (0, 0), poison := [], due := false, captured := 0, capTime := 0 }

theorem State.settleQp_runs (s : State) (q : Nat) : (s.settleQp q).runs = s.runs := by
  unfold settleQp
  split
  next x hx =>
    split
    next m tag _ _ =>
      dsimp only
      split
      next c _ => exact (congrArg State.runs (State.complete_sansMail { s with qps := tdrop s.qps q } c 0 false 0 0) :)
      next => rfl
    next => rfl
  next => rfl

theorem State.endEntry_runs (s : State) (q a : Nat) (d : QpDue) : (s.endEntry q a d).runs = s.runs := State.settleQp_runs _ q

theorem State.updRun_some {s : State} {p : Nat} {r : Run} (h : oget s.runs p = some r) (f : Run → Run) :
    s.updRun p f = { s with runs := tins s.runs p (f r) } :=
  congrArg (fun t => ({ s with runs := t } : State)) (oupd_some h f)

section
variable {q : Nat} {s : State} {x : Qp} {e : QpEntry} (hn : s.nextEntry q = some (x, e, false)) (hty : e.ty = 4)
  (hbits : ¬(false = true ∨ bits (e.w 1) 48 16 ≠ 0 ∨ bits (e.w 2) 33 31 ≠ 0 ∨ bits (e.w 3) 48 16 ≠ 0 ∨ e.tailBad 4 = true))
  (hvar : s.varDenied x.part e = false)
include hn hty hbits hvar

theorem stepTake_stop (hstop : bit (e.w 2) 32 = true) : stepTake q s =
    let u := (s.take q e).endEntry q e.at_ (e.dueWith 0)
    match oget u.runs x.part with
    | some r => if r.idle then u.endRun x.part 0 else u.updRun x.part (fun r => { r with stop := true })
    | none => u := by
  unfold stepTake
  rw [hn]
  exact (if_neg (not_not.mpr hty)).trans ((if_neg hbits).trans ((if_neg (not_true_of_eq_false hvar)).trans (if_pos hstop)))

theorem stepTake_running (hstop : bit (e.w 2) 32 = false) (hr : (oget s.runs x.part).isSome = true) :
    stepTake q s = (s.take q e).endEntry q e.at_ (e.dueWith 0x16) := by
  unfold stepTake
  rw [hn]
  exact (if_neg (not_not.mpr hty)).trans ((if_neg hbits).trans ((if_neg (not_true_of_eq_false hvar)).trans
    ((if_neg (not_true_of_eq_false hstop)).trans (if_pos hr))))

theorem stepTake_start {plan : Plan} (hstop : bit (e.w 2) 32 = false) (hr : oget s.runs x.part = none)
    (hp : s.readPlan x.part (bits (e.w 1) 0 48) e.var = .ok plan) : stepTake q s = s.startRun q x.part e plan := by
  unfold stepTake
  rw [hn]
  refine (if_neg (not_not.mpr hty)).trans ((if_neg hbits).trans ((if_neg (not_true_of_eq_false hvar)).trans
    ((if_neg (not_true_of_eq_false hstop)).trans ((if_neg (by rw [hr]; exact Bool.false_ne_true)).trans ?_))))
  rw [hp]

end

theorem State.endTakes_snaps (s : State) (p id : Nat) : (s.endTakes p id).snaps = s.snaps := by
  have hkeep : ∀ (u : State) (w : Nat × Nat), (u.endWait w.1 w.2 0 id).sansMail = u.sansMail := by
    intro u w
    unfold endWait
    split
    · exact State.complete_sansMail ..
    · rfl
  exact (congrArg State.snaps (foldl_keeps State.sansMail (fun (u : State) (w : Nat × Nat) => u.endWait w.1 w.2 0 id) hkeep _ _) :)

/-- The capture with which a run starts is that of the partition's step. -/
theorem State.firstCapture_shadow (s : State) (p : Nat) :
    ∃ z, ((s.firstCapture p).snapPart p).shadow = some z ∧ z.id = captureId p (s.part p).step.toNat := by
  unfold firstCapture
  generalize (if s.twinned p then s.stepDigest p [] else 0) = d
  obtain ⟨-, z, hz, hid, -⟩ := s.takeSnap_spec p d
  generalize s.takeSnap p d = t at hz ⊢
  have hsame : ((t.endTakes p (captureId p (s.part p).step.toNat)).snapPart p).shadow = some z :=
    (congrArg (fun u => (tget (fun _ => SnapPart.reset) u p).shadow) (t.endTakes_snaps p _)).trans hz
  refine ⟨z, ?_, hid⟩
  dsimp only
  split
  · exact (State.shadow_updSnap _ p (f := fun x => { x with twin := x.shadow.map (·.id) }) (fun _ => rfl)).trans hsame
  · exact hsame

theorem State.openBars_parts (s : State) (p : Nat) : (s.openBars p).parts = s.parts := by
  unfold openBars
  split
  · rfl
  · rfl

/-! ### The tick (R307, R308) -/

section
variable {p : Nat} {s u : State} {r : Run} {sel : List Nat} {start : Nat} (hr : oget s.runs p = some r) (hin : s.takeIn p = some u)
  (hsel : u.selectSeqs p r.plan = (sel, start))
include hr hin hsel

theorem State.tick_idle (h : sel = []) : s.tick p = u.updRun p (fun r => { r with idle := true }) := by
  unfold tick
  rw [hr]
  dsimp only
  rw [hin]
  dsimp only
  rw [hsel]
  exact if_pos h

/-- The state in which a step is emitted: the log has its tick, START moves, and the run is in the step. -/
def State.ticked (u : State) (p : Nat) (sel : List Nat) (start : Nat) : State :=
  let rungs := (u.windowsOf p).map (fun (k, w) => (k, w.j))
  let u := u.updLog p (u.stepNo p) (fun x => { x with emitted := true, rungs := if x.emitted then x.rungs else rungs })
  let u := u.updPart p (fun q => { q with start := start })
  u.updRun p (fun r => { r with idle := false, inStep := true, sel := sel, rungs := [], faulted := false })

theorem State.tick_step (h : sel ≠ []) : s.tick p = (u.ticked p sel start).emitStep p r sel := by
  unfold tick
  rw [hr]
  dsimp only
  rw [hin]
  dsimp only
  rw [hsel]
  exact if_neg h

end

/-! ### The boundary (R26) -/

theorem State.finishDone_none {s : State} {p : Nat} (h : ∀ y ∈ s.seqs, y.2.state = 3 → s.seqIn p y.1 = false) : s.finishDone p = s := by
  have hnone : s.seqs.filter (fun (e, q) => s.seqIn p e && q.state == 3) = [] := by
    refine List.filter_eq_nil_iff.mpr fun y hy => ?_
    rw [Bool.and_eq_true, beq_iff_eq]
    rintro ⟨hin, hst⟩
    rw [h y hy hst] at hin
    cases hin
  unfold finishDone
  rw [hnone]
  rfl

/-- With nothing that waits for a boundary, and nothing in the step log, a boundary edits nothing. -/
theorem State.applyBounds_none {s : State} {p : Nat} (hb : s.bounds = []) (hl : oget s.stepLogs p = none) (log : Bool) : s.applyBounds p log = s := by
  have hlog : s.logOf p (s.stepNo p) = none := by
    unfold logOf stepLog
    rw [hl]
    rfl
  have hredo : s.redoEdits p = s := by
    unfold redoEdits
    rw [hlog]
  have hset : s.setBounds p [] = s := by
    unfold setBounds
    rw [hb]
    exact (congrArg (fun b => ({ s with bounds := b } : State)) hb.symm :)
  unfold applyBounds
  rw [hlog, hredo]
  dsimp only
  rw [ite_self, hb]
  refine (if_neg ?_).trans hset
  rw [Option.map_none, Option.getD_none, Bool.and_false]
  exact Bool.false_ne_true

theorem State.settleBounds_none {s : State} (p : Nat) (hb : s.bounds = []) : s.settleBounds p = s := by
  unfold settleBounds
  refine if_pos (.inr (.inr ?_))
  rw [hb]
  rfl

/-- Order 3 of a boundary, then QE_STEP, the windows' N0 and the run's count: what happens before a capture. -/
def State.advanced (s : State) (p : Nat) (r : Run) : State :=
  let s := r.sel.foldl (fun s e =>
    let q := s.seq e
    let q1 : Seq := { q with pass := q.pass + 1, cursor := q.cursor + BitVec.ofNat 64 q.cstep, state := if q.pass + 1 = q.npass then 3 else 1 }
    if q.state = 1 then s.setSeq e q1 else s) s
  let s := s.updPart p (fun q => { q with step := q.step + 1 })
  let s : State := { s with wwins := s.wwins.map (fun (k, w) => (k, if w.part = p ∧ w.run then { w with n0 := w.n0 + w.nlayer } else w)) }
  s.updRun p (fun r => { r with inStep := false, wait := 0, stepsRun := r.stepsRun + 1, sel := [] })

/-- A boundary with no capture, nothing finished and nothing waiting, that is the run's last. -/
theorem State.boundaryDone_last {s : State} {p : Nat} {r : Run} (hr : oget s.runs p = some r)
    (hdone : ((s.advanced p r).finishDone p).applyBounds p true = s.advanced p r) (hend : r.nsteps = r.stepsRun + 1) :
    s.boundaryDone p false 0 = (s.advanced p r).endRun p 0 := by
  have hends : ∀ b : Bool, (r.stop || (r.nsteps != 0 && r.nsteps == r.stepsRun + 1) || b) = true := by
    intro b
    rw [hend, show (r.stepsRun + 1 != 0) = true from by simp, show (r.stepsRun + 1 == r.stepsRun + 1) = true from by simp]
    simp
  unfold boundaryDone
  rw [hr]
  exact (if_pos (hends _)).trans (congrArg (State.endRun · p 0) hdone)

/-- The completion of a run's STEP. -/
def State.stepDue (s : State) (r : Run) (st : Nat) : QpDue :=
  let engine := match (s.qp r.qp).bind (fun x => x.entries.find? (fun e => e.at_ = r.at_)) with
    | some e => e.engine
    | none => 0
  { status := st, kind := 0, rungUp := r.rungUp, irq := r.irq, tag := r.tag, ty := 4, id := 0, faults := b2n r.faulted, widen := 0,
    emptyRow := 0, engine := engine, count := r.stepsRun }

theorem State.endRun_none {s : State} {p : Nat} {r : Run} {x : Qp} (hr : oget s.runs p = some r) (hb : s.bounds = [])
    (hl : oget s.stepLogs p = none) (hx : s.qp r.qp = some x) (hd : x.destroy = none) (hc : x.discard = false) (st : Nat) :
    s.endRun p st = ({ s with runs := tdrop s.runs p } : State).endEntry r.qp r.at_ (s.stepDue r st) := by
  have heq := State.endEntry_eq (s := { s with runs := tdrop s.runs p }) hx hd hc r.at_ (s.stepDue r st)
  have hunfold : s.endRun p st = ((({ s with runs := tdrop s.runs p } : State).endEntry r.qp r.at_ (s.stepDue r st)).applyBounds p false).settleBounds p := by
    unfold endRun
    rw [hr]
    rfl
  have hvb := (congrArg State.bounds heq).trans hb
  have hvl := (congrArg (fun v => oget (State.stepLogs v) p) heq).trans hl
  rw [hunfold, State.applyBounds_none hvb hvl]
  exact State.settleBounds_none p hvb

/-- A boundary moves the one sequence of a step, QE_STEP and the windows' N0. -/
theorem State.advanced_one {s : State} {p e : Nat} {r : Run} {q : Part} {c : Seq} (hr : oget s.runs p = some r) (hsel : r.sel = [e])
    (hq : oget s.parts p = some q) (hc : s.seq e = c) (hst : c.state = 1) (hpass : c.pass + 1 < c.npass) :
    s.advanced p r = { s with
      seqs := tins s.seqs e { c with pass := c.pass + 1, cursor := c.cursor + BitVec.ofNat 64 c.cstep }
      parts := tins s.parts p { q with step := q.step + 1 }
      wwins := s.wwins.map (fun w => (w.1, if w.2.part = p ∧ w.2.run = true then { w.2 with n0 := w.2.n0 + w.2.nlayer } else w.2))
      runs := tins s.runs p { r with inStep := false, wait := 0, stepsRun := r.stepsRun + 1, sel := [] } } := by
  let c1 : Seq := { c with pass := c.pass + 1, cursor := c.cursor + BitVec.ofNat 64 c.cstep }
  have hc1 : ({ c with pass := c.pass + 1, cursor := c.cursor + BitVec.ofNat 64 c.cstep, state := if c.pass + 1 = c.npass then 3 else 1 } : Seq) = c1 := by
    rw [if_neg (Nat.ne_of_lt hpass), ← hst]
  have hfree : c1 ≠ Seq.free := fun h => by
    have : c1.pass = 0 := congrArg Seq.pass h
    exact absurd this (Nat.succ_ne_zero _)
  have hput : s.setSeq e c1 = { s with seqs := tins s.seqs e c1 } := by
    unfold setSeq tput
    rw [if_neg hfree]
  unfold advanced
  rw [hsel, List.foldl_cons, List.foldl_nil]
  dsimp only
  rw [hc, if_pos hst, hc1, hput]
  unfold updPart
  dsimp only
  rw [oupd_some hq]
  unfold updRun
  dsimp only
  rw [oupd_some hr]

theorem stepBoundary_eq {p : Nat} {s : State} {r : Run} (hr : oget s.runs p = some r) (hin : r.inStep = true) (hw : r.wait = 0)
    (hrep : r.replay = false) (hret : s.stepRetired p = true) :
    (r.faulted = true ∨ r.status ≠ 0 → stepBoundary p s = s.endRun p r.status) ∧
    (r.faulted = false → r.status = 0 →
      (s.domained p = true → stepBoundary p s = (s.updRun p (fun r => { r with wait := 1 })).tell
        (.domain 1 p [(s.fab p).dig0, (s.fab p).dig1, BitVec.ofNat 64 (b2n (s.captureDue p)), BitVec.ofNat 64 (s.newestStep p)])) ∧
      (s.domained p = false → stepBoundary p s = s.boundaryDone p (s.captureDue p) 0)) := by
  have hgo : ¬((!r.inStep) = true ∨ r.wait ≠ 0 ∨ r.replay = true ∨ (!s.stepRetired p) = true) := by
    rw [hin, hw, hrep, hret]
    simp
  unfold stepBoundary
  rw [hr]
  refine ⟨fun h => (if_neg hgo).trans (if_pos h), fun hf hst => ?_⟩
  have hok : ¬(r.faulted = true ∨ r.status ≠ 0) := by
    rw [hf, hst]
    simp
  exact ⟨fun hd => (if_neg hgo).trans ((if_neg hok).trans (if_pos hd)),
    fun hd => (if_neg hgo).trans ((if_neg hok).trans (if_neg (not_true_of_eq_false hd)))⟩

/-- The last boundary of a run whose step was of one sequence. -/
theorem State.boundaryDone_last_spec {s : State} {p e : Nat} {r : Run} {q : Part} {c : Seq} {x : Qp} {en : QpEntry} (hr : oget s.runs p = some r)
    (hsel : r.sel = [e]) (hb : s.bounds = []) (hdone : ∀ y ∈ s.seqs, y.2.state = 3 → s.seqIn p y.1 = false) (hl : oget s.stepLogs p = none)
    (hend : r.nsteps = r.stepsRun + 1) (hq : oget s.parts p = some q) (hc : s.seq e = c) (hst : c.state = 1) (hpass : c.pass + 1 < c.npass)
    (hx : s.qp r.qp = some x) (hen : x.entries = [en]) (hat : en.at_ = r.at_) (hd : x.destroy = none) (hdis : x.discard = false) :
    let t := s.boundaryDone p false 0
    t.mem = s.mem ∧ t.runs = tdrop s.runs p ∧ t.parts = tins s.parts p { q with step := q.step + 1 } ∧
      t.seqs = tins s.seqs e { c with pass := c.pass + 1, cursor := c.cursor + BitVec.ofNat 64 c.cstep } ∧
      t.wwins = s.wwins.map (fun w => (w.1, if w.2.part = p ∧ w.2.run = true then { w.2 with n0 := w.2.n0 + w.2.nlayer } else w.2)) ∧
      ∃ d : QpDue, d.status = 0 ∧ d.count = r.stepsRun + 1 ∧ d.tag = r.tag ∧ t.qp r.qp = some { x with entries := [], due := x.due ++ [d] } := by
  have hadv := State.advanced_one hr hsel hq hc hst hpass
  generalize hv : s.advanced p r = v at hadv
  have hvb : v.bounds = [] := (congrArg State.bounds hadv).trans hb
  have hvl : oget v.stepLogs p = none := (congrArg (fun v => oget (State.stepLogs v) p) hadv).trans hl
  have hvr : oget v.runs p = some { r with inStep := false, wait := 0, stepsRun := r.stepsRun + 1, sel := [] } := by
    rw [hadv]
    exact (oget_tins ..).trans (if_pos rfl)
  have hvx : v.qp r.qp = some x := (congrArg (fun v => oget (State.qps v) r.qp) hadv).trans hx
  have hin : ∀ y, v.seqIn p y = s.seqIn p y := by
    intro y
    have hp : v.parts = _ := congrArg State.parts hadv
    unfold seqIn
    rw [hp, oget_tins, if_pos rfl, hq]
  have hnone : v.finishDone p = v := by
    refine State.finishDone_none fun y hy h3 => ?_
    rw [hin]
    rw [show v.seqs = _ from congrArg State.seqs hadv] at hy
    rcases mem_tins hy with rfl | hmem
    · have h1 : c.state = 3 := h3
      rw [hst] at h1
      exact absurd h1 (by decide)
    · exact hdone y hmem h3
  have hall : (v.finishDone p).applyBounds p true = v := by
    rw [hnone]
    exact State.applyBounds_none hvb hvl true
  have hlast : s.boundaryDone p false 0 = v.endRun p 0 := by
    rw [← hv] at hall ⊢
    exact State.boundaryDone_last hr hall hend
  have hfin := (hlast.trans (State.endRun_none hvr hvb hvl hvx hd hdis 0)).trans (State.endEntry_eq (s := { v with runs := tdrop v.runs p }) hvx hd hdis r.at_ _)
  intro t
  have ht : t = _ := hfin
  clear_value t
  have hfilter : x.entries.filter (fun e => e.at_ ≠ r.at_) = [] := by
    rw [hen]
    exact List.filter_eq_nil_iff.mpr (by simp [hat])
  refine ⟨?_, ?_, ?_, ?_, ?_, ⟨v.stepDue { r with inStep := false, wait := 0, stepsRun := r.stepsRun + 1, sel := [] } 0, rfl, rfl, rfl, ?_⟩⟩
  · exact Eq.trans (congrArg State.mem ht :) (congrArg State.mem hadv :)
  · refine (congrArg State.runs ht).trans ?_
    rw [show v.runs = _ from congrArg State.runs hadv]
    exact tdrop_tins ..
  · exact Eq.trans (congrArg State.parts ht :) (congrArg State.parts hadv :)
  · exact Eq.trans (congrArg State.seqs ht :) (congrArg State.seqs hadv :)
  · exact Eq.trans (congrArg State.wwins ht :) (congrArg State.wwins hadv :)
  · refine (congrArg (fun v => State.qp v r.qp) ht).trans ((State.qp_tins _ _ _ _).trans ?_)
    unfold Qp.ending
    rw [hfilter]

/-! ### The step barrier and the twin's digest (R326, R338, R341, R342) -/

theorem State.twinned_congr {u v : State} (h : u.twin = v.twin) (p : Nat) : u.twinned p = v.twinned p := by
  unfold twinned
  rw [h]

theorem State.bar_setBar_of_ne (s : State) (p : Nat) (b : Bar) : (s.setBar p 0 255 b).bar p 1 255 = s.bar p 1 255 :=
  tget_tput_ne _ _ (by omega)

theorem stepBarrierOpen_replay {p n : Nat} {xor : W64} {due : Bool} {s : State} {r : Run} (hr : oget s.runs p = some r) (hw : r.wait = 3) :
    stepBarrierOpen p xor due n s = State.tick { s with runs := tins s.runs p { r with wait := 0 } } p := by
  have hrun := State.updRun_some hr (fun r => { r with wait := 0 })
  unfold stepBarrierOpen
  rw [hr]
  exact (if_pos hw).trans (congrArg (State.tick · p) hrun)

/-- The state in which the step barrier has opened on both dies: the digests are taken, and the epochs go on. -/
def State.barOpened (s : State) (p n : Nat) : State :=
  [0, 1].foldl (fun s d => s.setBar p d 255 { s.bar p d 255 with epoch := (s.bar p d 255).epoch + 1 })
    (s.updFab p (fun f => { f with dig0 := 0, dig1 := 0, opened := n }))

theorem State.barOpened_eq (s : State) (p n : Nat) :
    s.barOpened p n = ((s.updFab p (fun f => { f with dig0 := 0, dig1 := 0, opened := n })).setBar p 0 255
      { s.bar p 0 255 with epoch := (s.bar p 0 255).epoch + 1 }).setBar p 1 255 { s.bar p 1 255 with epoch := (s.bar p 1 255).epoch + 1 } := by
  unfold barOpened
  rw [List.foldl_cons, List.foldl_cons, List.foldl_nil, State.bar_setBar_of_ne]
  rfl

section
variable {p n : Nat} {xor : W64} {due : Bool} {s : State} {r : Run} (hr : oget s.runs p = some r) (hw : r.wait = 1)
include hr hw

theorem stepBarrierOpen_differ (hx : xor ≠ 0) : stepBarrierOpen p xor due n s = (s.barOpened p n).rollback p n := by
  unfold stepBarrierOpen
  rw [hr]
  exact (if_neg (by rw [hw]; decide)).trans ((if_neg (not_not.mpr hw)).trans (if_pos hx))

theorem stepBarrierOpen_equal (ht : s.twinned p = false) :
    stepBarrierOpen p 0 due n s = ((s.barOpened p n).updFab p (fun f => { f with verified := false })).boundaryDone p due 0 := by
  have hzero : ¬(0 : W64) ≠ 0 := fun h => h rfl
  have htwin : (s.barOpened p n).twin = s.twin := by
    rw [State.barOpened_eq]
    rfl
  have htw : ¬((s.barOpened p n).updFab p (fun f => { f with verified := false })).twinned p = true := by
    rw [State.twinned_congr (u := (s.barOpened p n).updFab p _) htwin, ht]
    exact Bool.false_ne_true
  unfold stepBarrierOpen
  rw [hr]
  exact (if_neg (by rw [hw]; decide)).trans ((if_neg (not_not.mpr hw)).trans ((if_neg hzero).trans (if_neg htw)))

end

section
variable {p n risk : Nat} {peer : W64} {other due : Bool} {s : State} {r : Run} {t : Twin} (hr : oget s.runs p = some r) (hw : r.wait = 2)
  (ht : s.twin = some t) (hl : t.lost = false)
include hr hw ht hl

theorem digestExchange_equal (hd : (s.fab p).digest = peer) (ho : other = false) :
    digestExchange p peer other due n risk s = s.boundaryDone p (due || r.due) (s.fab p).digest := by
  unfold digestExchange
  rw [hr, ht]
  exact (if_neg (by rw [hw, hl]; simp)).trans (if_pos ⟨hd, by rw [ho]; rfl⟩)

theorem digestExchange_differ (hd : (s.fab p).digest ≠ peer ∨ other = true) (hm : r.mism.1 ≠ s.stepNo p) :
    digestExchange p peer other due n risk s = State.rollback { s with runs := tins s.runs p { r with mism := (s.stepNo p, 1) } } p n := by
  have hne : ¬((s.fab p).digest = peer ∧ (!other) = true) := by
    rintro ⟨h1, h2⟩
    rcases hd with h | h
    · exact h h1
    · rw [h] at h2
      cases h2
  refine Eq.trans ?_ (congrArg (State.rollback · p n) (State.updRun_some hr (fun r => { r with mism := (s.stepNo p, 0 + 1) })))
  unfold digestExchange
  rw [hr, ht]
  refine (if_neg (by rw [hw, hl]; simp)).trans ((if_neg hne).trans ?_)
  dsimp only
  rw [if_neg hm]
  exact if_neg (Nat.not_succ_le_zero 1)

end

/-! ### Replays (R359, R366) -/

section
variable {p : Nat} {s : State} {r : Run} (hr : oget s.runs p = some r)
include hr

section
variable (hrep : r.replay = true) (hw : r.wait ≠ 4) (ht : s.twinned p = false) (hd : s.domained p = false)
include hrep hw ht hd

theorem stepReplay_alone : stepReplay p s = match s.newestSnap p with
    | some x => s.restoreRun p x false
    | none => (s.discardStep p).failModule := by
  unfold stepReplay
  rw [hr]
  dsimp only
  rw [if_neg hw, hrep, if_neg (show ¬(!true) = true from Bool.false_ne_true), ht, if_neg Bool.false_ne_true]
  exact if_neg (not_true_of_eq_false hd)

end

theorem stepReplay_restored {x : Snap} (hw : r.wait = 4) (hst : s.flash.steady (.restore p) = true) (hd : s.domained p = false)
    (hx : (s.endRead (.restore p)).newestSnap p = some x) (hb : snapStep x.id = r.back) :
    stepReplay p s = (s.endRead (.restore p)).replayFrom p x false := by
  unfold stepReplay
  rw [hr]
  refine (if_pos hw).trans ((if_pos hst).trans ?_)
  unfold State.endRestore
  refine (if_neg (not_true_of_eq_false hd)).trans ?_
  rw [hx]
  exact if_pos hb

theorem replayNotice_domain (n : Nat) (hd : s.domained p = true) :
    replayNotice p n s = s.replayTo p (min n (min (s.newestStep p) (s.fab p).opened)) := by
  unfold replayNotice
  rw [hr]
  exact if_neg (by rw [hd]; decide)

end

theorem State.loseTwin_some {s : State} {t : Twin} (ht : s.twin = some t) (hl : t.lost = false) (why : Nat) :
    s.loseTwin why = ({ s with twin := some { t with lost := true } } : State).eventAll 0x12 why := by
  unfold loseTwin
  rw [ht]
  exact if_neg (not_true_of_eq_false hl)

theorem State.twinGone_idle {s : State} (hw : ∀ r ∈ s.runs, r.2.wait ≠ 2) (why : Nat) : s.twinGone why = s.loseTwin why := by
  have hnone : s.runs.filter (fun (_, r) => decide (r.wait = 2)) = [] := by
    refine List.filter_eq_nil_iff.mpr fun r hr => ?_
    rw [decide_eq_true_eq]
    exact hw r hr
  unfold twinGone
  rw [hnone]
  rfl

theorem State.tell_keeps (s : State) (b : Sent) : (s.tell b).runs = s.runs ∧ (s.tell b).twin = s.twin := by
  unfold tell
  split
  · exact ⟨rfl, rfl⟩
  · exact ⟨rfl, rfl⟩

theorem State.twinLost_idle {s : State} {t : Twin} (ht : s.twin = some t) (hl : t.lost = false) (hw : ∀ r ∈ s.runs, r.2.wait ≠ 2) :
    s.twinLost = State.eventAll { s.tell (.domain 3 0 []) with twin := some { t with lost := true } } 0x12 1 := by
  obtain ⟨hr, htw⟩ := s.tell_keeps (.domain 3 0 [])
  unfold twinLost
  rw [ht]
  refine (if_neg (not_true_of_eq_false hl)).trans ?_
  rw [State.twinGone_idle (by rw [hr]; exact hw)]
  exact State.loseTwin_some (htw.trans ht) hl 1

/-- Settles O51: a STEP, a tick, a boundary, the step barrier, the twin's digest and a replay, each by its cases. -/
theorem stepsAndReplays : Obligations.StepsAndReplays := by
  unfold Obligations.StepsAndReplays
  refine ⟨?_, ?_, ?_, ?_, ?_, ?_, ?_, ?_⟩
  · intro q s x e hn hty h1 h2 h3 htail hvar took
    have hbits : ¬(false = true ∨ bits (e.w 1) 48 16 ≠ 0 ∨ bits (e.w 2) 33 31 ≠ 0 ∨ bits (e.w 3) 48 16 ≠ 0 ∨ e.tailBad 4 = true) := by
      rw [h1, h2, h3, htail]
      simp
    have htook : took false = s.take q e := rfl
    have hruns : ((s.take q e).endEntry q e.at_ (e.dueWith 0)).runs = s.runs := State.endEntry_runs _ q e.at_ (e.dueWith 0)
    refine ⟨fun hs hr => ?_, fun hs r hr hi => ?_, fun hs r hr hi => ?_, fun hs r hr => ?_, fun hs plan hr hp => ?_⟩
    · have hstop := stepTake_stop hn hty hbits hvar hs
      rw [htook]
      generalize (s.take q e).endEntry q e.at_ (e.dueWith 0) = u at hstop hruns ⊢
      dsimp only at hstop
      rw [hruns, hr] at hstop
      exact congrArg Host.Outcome.next hstop
    · have hstop := stepTake_stop hn hty hbits hvar hs
      rw [htook]
      generalize (s.take q e).endEntry q e.at_ (e.dueWith 0) = u at hstop hruns ⊢
      dsimp only at hstop
      rw [hruns, hr] at hstop
      have hrun := State.updRun_some (s := u) (hruns ▸ hr) (fun r => { r with stop := true })
      rw [hruns] at hrun
      exact congrArg Host.Outcome.next (hstop.trans ((if_neg (not_true_of_eq_false hi)).trans hrun))
    · have hstop := stepTake_stop hn hty hbits hvar hs
      rw [htook]
      generalize (s.take q e).endEntry q e.at_ (e.dueWith 0) = u at hstop hruns ⊢
      dsimp only at hstop
      rw [hruns, hr] at hstop
      exact congrArg Host.Outcome.next (hstop.trans (if_pos hi))
    · exact congrArg Host.Outcome.next (stepTake_running hn hty hbits hvar hs (by rw [hr]; rfl))
    · refine ⟨e.newRun q plan,
        rfl, rfl, rfl, rfl, rfl, rfl, rfl, rfl, rfl, rfl, congrArg Host.Outcome.next (stepTake_start hn hty hbits hvar hs hr hp), _, rfl, ?_⟩
      obtain ⟨z, hz, hid⟩ := State.firstCapture_shadow (State.openBars (State.dropLog { took true with runs := tins s.runs x.part (e.newRun q plan) } x.part) x.part) x.part
      refine ⟨z, hz, hid.trans ?_⟩
      unfold State.part
      rw [State.openBars_parts]
      rfl
  · intro p s u r hr hi hw hrep hin sel start hsel
    have htick : stepTick p s = s.tick p := by
      unfold stepTick
      rw [hr]
      exact if_pos ⟨hi, hw, by rw [hrep]; rfl⟩
    refine ⟨fun h => congrArg Host.Outcome.next (htick.trans (State.tick_idle hr hin hsel h)), fun h => ?_⟩
    exact ⟨u.ticked p sel start, congrArg Host.Outcome.next (htick.trans (State.tick_step hr hin hsel h)), rfl, rfl, rfl, rfl⟩
  · intro p s r hr hin hw hrep hret
    obtain ⟨hbad, hgood⟩ := stepBoundary_eq hr hin hw hrep hret
    refine ⟨fun h => congrArg Host.Outcome.next (hbad h), fun hf hst => ?_⟩
    obtain ⟨hdom, halone⟩ := hgood hf hst
    refine ⟨fun hd => congrArg Host.Outcome.next ?_, ?_⟩
    · rw [hdom hd, State.updRun_some hr]
    · intro e q c x en hd hdue _ hsel hb hdone hl hend hq hc hcst hpass hx hen hat hdes hdis
      refine ⟨s.boundaryDone p false 0, congrArg Host.Outcome.next ?_, 
        State.boundaryDone_last_spec hr hsel hb hdone hl hend hq hc hcst hpass hx hen hat hdes hdis⟩
      rw [halone hd, hdue]
  · intro p n xor due s r hr v w
    have hw : w = s.barOpened p n := (s.barOpened_eq p n).symm
    clear_value w
    refine ⟨fun h => congrArg Host.Outcome.next (stepBarrierOpen_replay hr h), fun h hx => ?_, fun h ht => ?_⟩
    · rw [hw]
      exact congrArg Host.Outcome.next (stepBarrierOpen_differ hr h hx)
    · rw [hw]
      exact congrArg Host.Outcome.next (stepBarrierOpen_equal hr h ht)
  · intro p n risk peer other due s r t hr hw ht hl
    exact ⟨fun hd ho => congrArg Host.Outcome.next (digestExchange_equal hr hw ht hl hd ho),
      fun hd hm => congrArg Host.Outcome.next (digestExchange_differ hr hw ht hl hd hm)⟩
  · intro p n s r hr
    refine ⟨fun hrep hw ht hd => ?_, fun hw hst hd x hx hb => ?_, fun hd => ?_⟩
    · have halone := stepReplay_alone hr hrep hw ht hd
      refine ⟨fun x hx hs => ?_, fun x hx hs => ?_, fun hx => ?_⟩
      · rw [hx] at halone
        exact congrArg Host.Outcome.next (halone.trans (if_pos hs))
      · rw [hx] at halone
        exact congrArg Host.Outcome.next (halone.trans (if_neg (by rw [hs]; decide)))
      · rw [hx] at halone
        exact congrArg Host.Outcome.next halone
    · exact congrArg Host.Outcome.next (stepReplay_restored hr hw hst hd hx hb)
    · exact congrArg Host.Outcome.next (replayNotice_domain hr n hd)
  · intro s t ht hl hw
    exact congrArg Host.Outcome.next (State.twinLost_idle ht hl hw)
  · intro p ns s ht
    exact congrArg Host.Outcome.next (if_pos ht)

end Sys2Proof.Machine
end

section
/-!
Ports, flits, links, SYNC, barrier and collective-queue configuration, and the twin's heartbeat (R312 to R317, R322, R323, R327, R340, R343).
-/

namespace Sys2Proof.Machine

/-! ### Reading a port after a change -/

theorem State.port_updPort_ite (s : State) (j k : Nat) (f : Port → Port) :
    (s.updPort j f).port k = if k = j then f (s.port j) else s.port k := tget_tput ..

theorem State.tell_ports (s : State) (b : Sent) : (s.tell b).ports = s.ports ∧ (s.tell b).mem = s.mem ∧ (s.tell b).domain = s.domain := by
  unfold tell
  split
  · exact ⟨rfl, rfl, rfl⟩
  · exact ⟨rfl, rfl, rfl⟩

theorem State.tell_sent {s : State} (h : s.health.failed = false) (b : Sent) : s.tell b = { s with sent := s.sent ++ [b] } :=
  if_neg (not_true_of_eq_false h)

/-! ### What sending leaves: the receiving side of a port, and memory -/

/-- A port without its sending side. -/
def Port.rx (q : Port) : Port := { q with buffer := [], credits := [], txSeq := 0, since := 0, replay := 0 }

/-- The receiving side of port `k`, and memory. -/
def State.rxSide (k : Nat) (s : State) : Port × Tab Byte := ((s.port k).rx, s.mem)

section
variable (k : Nat) (s : State)

theorem State.updPort_rxSide (j : Nat) {f : Port → Port} (h : (f (s.port j)).rx = (s.port j).rx) : (s.updPort j f).rxSide k = s.rxSide k := by
  unfold rxSide
  rw [port_updPort_ite]
  by_cases hk : k = j
  · rw [if_pos hk, h, hk]
    rfl
  · rw [if_neg hk]
    rfl

theorem State.rxSide_congr {u v : State} (hp : u.ports = v.ports) (hm : u.mem = v.mem) : u.rxSide k = v.rxSide k := by
  unfold rxSide port
  rw [hp, hm]

theorem State.addRisk_rxSide (n : Nat) : (s.addRisk n).rxSide k = s.rxSide k := by
  refine State.rxSide_congr k ?_ ?_
  · unfold addRisk
    rfl
  · unfold addRisk
    rfl

theorem State.onPort_rxSide (j : Nat) (bs : List Byte) : (s.onPort j bs).rxSide k = s.rxSide k :=
  State.rxSide_congr k (s.tell_ports _).1 (s.tell_ports _).2.1

theorem State.sendIdle_rxSide (j p vc n : Nat) : (s.sendIdle j p vc n).rxSide k = s.rxSide k :=
  (State.onPort_rxSide ..).trans (s.updPort_rxSide k j rfl)

theorem State.sendSeq_rxSide (j ty p vc nl dst src : Nat) (pl : List Byte) : (s.sendSeq j ty p vc nl dst src pl).rxSide k = s.rxSide k :=
  (State.onPort_rxSide ..).trans (s.updPort_rxSide k j rfl)

theorem State.replayPort_rxSide (j : Nat) : (s.replayPort j).rxSide k = s.rxSide k := by
  unfold replayPort
  dsimp only
  split
  · rfl
  · exact (foldl_keeps (State.rxSide k) (fun (u : State) (f : SentFlit) => u.onPort j f.bytes) (fun u f => u.onPort_rxSide k j f.bytes) _ _).trans
      (s.updPort_rxSide k j rfl)

theorem State.tryFlit_rxSide {t : State} {f : FlitOut} (h : s.tryFlit f = some t) : t.rxSide k = s.rxSide k := by
  unfold tryFlit at h
  split at h
  · cases h
    rfl
  · extract_lets vc ups u at h
    clear_value vc
    split at h
    · cases h
    next j hj =>
      split at h
      · cases h
      · extract_lets v at h
        have hu : u.rxSide k = s.rxSide k := by
          unfold u
          split
          · rfl
          · rfl
        have hv : v.rxSide k = u.rxSide k := (State.sendSeq_rxSide ..).trans (u.updPort_rxSide k j rfl)
        clear_value u v
        injection h with h
        subst h
        split
        · exact (State.sendIdle_rxSide ..).trans (hv.trans hu)
        · exact hv.trans hu

theorem State.pushFlits_rxSide : s.pushFlits.rxSide k = s.rxSide k := by
  unfold pushFlits
  refine (foldl_keeps (State.rxSide k) _ (fun u f => ?_) s.outbox _).trans rfl
  split
  next t ht =>
    split at ht
    · cases ht
    · exact u.tryFlit_rxSide k ht
  · rfl

theorem State.takeAck_rxSide (j h : Nat) : (s.takeAck j h).rxSide k = s.rxSide k := by
  unfold takeAck
  extract_lets ack q left s1 n s2
  have h1 : s1.rxSide k = s.rxSide k := s.updPort_rxSide k j rfl
  have h2 : s2.rxSide k = s.rxSide k := by
    refine Eq.trans ?_ h1
    unfold s2
    split
    · rfl
    · exact s1.updPort_rxSide k j rfl
  split
  · exact (s2.replayPort_rxSide k j).trans h2
  · exact h2

theorem State.takeData_rxSide (j : Nat) (bs : List Byte) : (s.takeData j bs).rxSide k = s.rxSide k := by
  unfold takeData
  dsimp only
  split
  · split
    · rfl
    · exact State.sendIdle_rxSide ..
  · exact State.sendIdle_rxSide ..

end

/-! ### Receiving a flit (R312 to R314) -/

theorem State.nakPort_spec (s : State) (k : Nat) : (s.nakPort k).mem = s.mem ∧ ((s.nakPort k).port k).nak = true ∧
    ((s.nakPort k).port k).rxSeq = (s.port k).rxSeq ∧ ((s.nakPort k).port k).unc = (s.port k).unc ∧ ((s.nakPort k).port k).crc = (s.port k).crc ∧
    ((s.nakPort k).port k).fec = (s.port k).fec := by
  unfold nakPort
  by_cases h : (s.port k).nak = true
  · rw [if_pos h]
    exact ⟨rfl, h, rfl, rfl, rfl, rfl⟩
  · rw [if_neg h]
    have hside := State.sendIdle_rxSide k (s.updPort k (fun q => { q with nak := true })) k 0 0 0
    have hport := s.port_updPort k (fun q => { q with nak := true })
    have hrx := (congrArg Prod.fst hside).trans (congrArg Port.rx hport)
    exact ⟨congrArg Prod.snd hside, (congrArg Port.nak hrx :), (congrArg Port.rxSeq hrx :), (congrArg Port.unc hrx :), (congrArg Port.crc hrx :),
      (congrArg Port.fec hrx :)⟩

/-- The next flit in order is accepted. -/
def State.acceptFlit (s : State) (k ty : Nat) (bs : List Byte) : State :=
  let s := s.updPort k (fun q => { q with rxSeq := (q.rxSeq + 1) % 4096, rxAny := true, nak := false, since := q.since + 1 })
  let s := if ty = 1 then s.takeData k bs else s
  if 64 ≤ (s.port k).since then s.sendIdle k 0 0 0 else s

theorem State.acceptFlit_rxSide (s : State) (k ty : Nat) (bs : List Byte) : (s.acceptFlit k ty bs).rxSide k =
    (({ s.port k with rxSeq := ((s.port k).rxSeq + 1) % 4096, rxAny := true, nak := false } : Port).rx, s.mem) := by
  unfold acceptFlit
  extract_lets s1 s2
  have h1 : s1.rxSide k = (({ s.port k with rxSeq := ((s.port k).rxSeq + 1) % 4096, rxAny := true, nak := false } : Port).rx, s.mem) :=
    Prod.ext (congrArg Port.rx (s.port_updPort k (fun q => { q with rxSeq := (q.rxSeq + 1) % 4096, rxAny := true, nak := false, since := q.since + 1 })) :) rfl
  have h2 : s2.rxSide k = s1.rxSide k := by
    unfold s2
    split
    · exact s1.takeData_rxSide k k bs
    · rfl
  rw [← h1, ← h2]
  split
  · exact s2.sendIdle_rxSide ..
  · rfl

theorem State.heardBad_spec (s : State) (k n : Nat) (g : Port → Port) :
    ((s.updPort k g).addRisk n).mem = s.mem ∧ ((s.updPort k g).addRisk n).port k = g (s.port k) := by
  have hside := congrArg Prod.snd ((s.updPort k g).addRisk_rxSide k n)
  have hp : ((s.updPort k g).addRisk n).ports = (s.updPort k g).ports := by
    unfold addRisk
    rfl
  refine ⟨hside, ?_⟩
  unfold port
  rw [hp]
  exact s.port_updPort k g

section
variable {k : Nat} {f : Flit} {s : State} (hup : (s.port k).state = .up)
include hup

theorem flitReceive_bad (hbad : f.uncorrectable = true ∨ decide (f.bytes.length ≠ 272 ∨ ofLe (f.bytes.drop 268) ≠ crc32c (f.bytes.take 268)) = true) :
    flitReceive k f s = ((s.updPort k (fun q => { q with
      fec := q.fec + BitVec.ofNat 64 f.corrected, unc := q.unc + BitVec.ofNat 64 f.unc,
      crc := q.crc + BitVec.ofNat 64 (b2n (decide (f.bytes.length ≠ 272 ∨ ofLe (f.bytes.drop 268) ≠ crc32c (f.bytes.take 268)))) })).addRisk
        (2 * (f.unc + b2n (decide (f.bytes.length ≠ 272 ∨ ofLe (f.bytes.drop 268) ≠ crc32c (f.bytes.take 268)))))).nakPort k :=
  by
  unfold flitReceive
  rw [if_neg (not_not.mpr hup)]
  exact if_pos hbad

/-- The next flit in order, with the sequence number expected. -/
theorem flitReceive_next (hunc : f.uncorrectable = false)
    (hgood : decide (f.bytes.length ≠ 272 ∨ ofLe (f.bytes.drop 268) ≠ crc32c (f.bytes.take 268)) = false)
    (hty : bits (ofLe (f.bytes.take 4)) 0 4 ∈ [1, 2, 3]) (hseq : bits (ofLe (f.bytes.take 4)) 12 12 = (s.port k).rxSeq) :
    (flitReceive k f s).rxSide k =
      (({ s.port k with fec := (s.port k).fec + BitVec.ofNat 64 f.corrected, unc := (s.port k).unc + BitVec.ofNat 64 f.unc,
                        rxSeq := ((s.port k).rxSeq + 1) % 4096, rxAny := true, nak := false } : Port).rx, s.mem) := by
  have hgo : ¬(f.uncorrectable = true ∨ decide (f.bytes.length ≠ 272 ∨ ofLe (f.bytes.drop 268) ≠ crc32c (f.bytes.take 268)) = true) := by
    rw [hunc, hgood]
    simp
  have hsequenced : ¬(bits (ofLe (f.bytes.take 4)) 0 4 = 0 ∨ 4 ≤ bits (ofLe (f.bytes.take 4)) 0 4) := by
    simp only [List.mem_cons, List.not_mem_nil, or_false] at hty
    omega
  unfold flitReceive
  rw [if_neg (not_not.mpr hup)]
  extract_lets bs bad s1 s2 w0 s3 ty seq q s4 s5 s6
  have hbad : bad = false := hgood
  have hport : s1.port k = { s.port k with fec := (s.port k).fec + BitVec.ofNat 64 f.corrected, unc := (s.port k).unc + BitVec.ofNat 64 f.unc } := by
    refine (s.port_updPort k _).trans ?_
    rw [hbad]
    exact congrArg (fun c => ({ s.port k with fec := _, unc := _, crc := c } : Port)) (BitVec.add_zero _)
  have h3 : s3.rxSide k = (({ s.port k with fec := (s.port k).fec + BitVec.ofNat 64 f.corrected, unc := (s.port k).unc + BitVec.ofNat 64 f.unc } : Port).rx, s.mem) :=
    ((s2.takeAck_rxSide k k _).trans (s1.addRisk_rxSide k _)).trans (Prod.ext (congrArg Port.rx hport) rfl)
  have hq : q.rx = _ := congrArg Prod.fst h3
  have hrxSeq : q.rxSeq = (s.port k).rxSeq := (congrArg Port.rxSeq hq :)
  have h6 : s6 = s3.acceptFlit k ty bs := (if_neg hsequenced).trans (if_pos (hseq.trans hrxSeq.symm))
  have hmem : s3.mem = s.mem := congrArg Prod.snd h3
  rw [if_neg hgo, State.pushFlits_rxSide, h6, State.acceptFlit_rxSide, hmem]
  have haccept : ∀ {u v : Port}, u.rx = v.rx → ({ u with rxSeq := (u.rxSeq + 1) % 4096, rxAny := true, nak := false } : Port).rx =
      ({ v with rxSeq := (v.rxSeq + 1) % 4096, rxAny := true, nak := false } : Port).rx := fun h => 
    congrArg (fun w : Port => ({ w with rxSeq := (w.rxSeq + 1) % 4096, rxAny := true, nak := false } : Port)) h
  exact Prod.ext (haccept hq) rfl

end

/-! ### Timeouts, acknowledgements, retraining and SYNC (R313, R316, R322) -/

theorem State.eventAll_only (s : State) (n d : Nat) : ∃ mb, s.eventAll n d = { s with mbxs := mb } := by
  refine ⟨(s.eventAll n d).mbxs, ?_⟩
  have hside : (s.eventAll n d).sansMail = s.sansMail := by
    unfold eventAll
    refine foldl_keeps State.sansMail (fun (s : State) m => s.event m n d) (fun u m => ?_) _ s
    rw [event_only]
    rfl
  have hj : (s.eventAll n d).journal = s.journal := by
    unfold eventAll
    refine foldl_keeps State.journal (fun (s : State) m => s.event m n d) (fun u m => ?_) _ s
    rw [event_only]
  generalize s.eventAll n d = t at hside hj
  exact (congrArg (fun u : State => ({ u with mbxs := t.mbxs, journal := t.journal } : State)) hside).trans
    (congrArg (fun j => ({ s with mbxs := t.mbxs, journal := j } : State)) hj)

/-- A port takes another state: only mailboxes learn of it. -/
theorem State.portTo_spec {s : State} {k : Nat} {st : PortState} (h : (s.port k).state ≠ st) :
    (s.portTo k st).port k = { s.port k with state := st } ∧ (s.portTo k st).health = s.health ∧ (s.portTo k st).mem = s.mem := by
  unfold portTo
  rw [if_neg h]
  obtain ⟨mb, hmb⟩ := (s.updPort k (fun q => { q with state := st })).eventAll_only 0x10 (k + 2 ^ 8 * st.code)
  rw [hmb]
  exact ⟨s.port_updPort k (fun q => { q with state := st }), rfl, rfl⟩

theorem State.onPort_all {s : State} (h : s.health.failed = false) (k : Nat) (fs : List SentFlit) :
    fs.foldl (fun s f => s.onPort k f.bytes) s = { s with sent := s.sent ++ fs.map (fun f => .port k f.bytes) } := by
  induction fs generalizing s with
  | nil => exact (congrArg (fun l => ({ s with sent := l } : State)) (List.append_nil _)).symm
  | cons f fs ih =>
    have hone : s.onPort k f.bytes = { s with sent := s.sent ++ [.port k f.bytes] } := State.tell_sent h _
    rw [List.foldl_cons, hone, List.map_cons]
    have hrest := ih (s := { s with sent := s.sent ++ [.port k f.bytes] }) h
    exact hrest.trans (congrArg (fun l => ({ s with sent := l } : State)) (List.append_assoc _ [_] _))

/-- A port that replays its buffer. -/
def Port.replayed (q : Port) : Port :=
  { q with replay := q.replay + 1, buffer := q.buffer.map (fun f => { f with tries := f.tries + 1 }) }

theorem State.replayPort_some {s : State} {k : Nat} (hb : (s.port k).buffer ≠ []) (h : s.health.failed = false) :
    s.replayPort k = { s.updPort k Port.replayed with
      sent := s.sent ++ (s.port k).buffer.map (fun f => .port k f.bytes) } :=
  (if_neg hb).trans (State.onPort_all (s := s.updPort k _) h k _)

theorem mkFlit_idle (ack : Nat) : (mkFlit 0 0 0 0 0 ack 0 0 []).length = 272 ∧ bits (ofLe ((mkFlit 0 0 0 0 0 ack 0 0 []).take 4)) 0 4 = 0 := by
  refine ⟨?_, ?_⟩
  · unfold mkFlit padTo
    rw [List.length_append, List.length_append, List.length_append, List.length_append, List.length_append, List.length_replicate, toLe_length,
      toLe_length, toLe_length, toLe_length, List.length_nil]
  · have hword : (mkFlit 0 0 0 0 0 ack 0 0 []).take 4 = toLe 4 0 := rfl
    rw [hword]
    rfl

theorem State.addRisk_port (s : State) (n k : Nat) : (s.addRisk n).port k = s.port k := by
  have hp : (s.addRisk n).ports = s.ports := by
    unfold addRisk
    rfl
  unfold port
  rw [hp]

theorem State.addRisk_e (s : State) (n : Nat) : (s.addRisk n).health.e = s.health.e + n * 2 ^ 32 := rfl

/-- A port whose retraining begins. -/
def Port.retrained (q : Port) : Port := { q with retrain := q.retrain + 1, buffer := q.buffer.map (fun f => { f with tries := 0 }) }

section
variable {k : Nat} {s : State} (hup : (s.port k).state = .up)
include hup

theorem flitTimeout_up : flitTimeout k s = s.replayPort k := if_pos hup

theorem ackTimer_up (hs : 0 < (s.port k).since) (hf : s.health.failed = false) : ackTimer k s =
    { s.updPort k (fun q => { q with since := 0 }) with
      sent := s.sent ++ [.port k (mkFlit 0 0 0 0 0 ((s.port k).ack + 2 ^ 14 * 0 + 2 ^ 18 * 0 + 2 ^ 19 * 0) 0 0 [])] } :=
  (if_pos ⟨hup, .inl hs⟩).trans (State.tell_sent (s := s.updPort k _) hf _)

theorem portRetrain_start {fec : Bool} (hstart : (∃ f ∈ (s.port k).buffer, 8 ≤ f.tries) ∨ fec = true) :
    portRetrain k fec false s = ((s.updPort k Port.retrained).addRisk 512).portTo k .training := by
  have hgo : (decide ((s.port k).state = .up) && ((s.port k).buffer.any (fun f => decide (8 ≤ f.tries)) || fec)) = true := by
    rw [hup, decide_eq_true rfl, Bool.true_and, Bool.or_eq_true, List.any_eq_true]
    simpa using hstart
  unfold portRetrain
  dsimp only
  rw [hgo]
  exact (if_neg (by simp)).trans (if_pos rfl)

end

theorem State.retrain_spec {s : State} {k : Nat} (hup : (s.port k).state = .up) :
    let t := ((s.updPort k Port.retrained).addRisk 512).portTo k .training
    t.port k = { (s.port k).retrained with state := .training } ∧ t.health.e = s.health.e + 512 * 2 ^ 32 := by
  have hport : ((s.updPort k Port.retrained).addRisk 512).port k = (s.port k).retrained := (State.addRisk_port ..).trans (s.port_updPort k _)
  have he := (s.updPort k Port.retrained).addRisk_e 512
  generalize (s.updPort k Port.retrained).addRisk 512 = u at hport he
  have hne : (u.port k).state ≠ .training := by
    rw [hport, show (s.port k).retrained.state = (s.port k).state from rfl, hup]
    decide
  obtain ⟨hp, hh, -⟩ := State.portTo_spec hne
  refine ⟨hp.trans ?_, ?_⟩
  · rw [hport]
  · rw [hh]
    exact he

/-- SYNC's step of fabric time. -/
def State.syncTime (s : State) (follows : Bool) (t : W64) : State :=
  if !follows ∨ t.toNat = s.ftime then s
  else if s.ftime < t.toNat then
    if 9 ≤ s.ftTenths then { s with ftAdj := s.ftAdj + 1, ftTenths := s.ftTenths - 9 } else { s with ftTenths := s.ftTenths + 1 }
  else { s with ftTenths := s.ftTenths - 1 }

theorem State.syncTime_spec (s : State) (follows : Bool) (t : W64) : (s.syncTime follows t).ports = s.ports ∧ (s.syncTime follows t).sent = s.sent ∧
    (s.syncTime follows t).mem = s.mem ∧ (s.syncTime follows t).time = s.time ∧ s.ftAdj ≤ (s.syncTime follows t).ftAdj ∧
    (s.syncTime follows t).ftAdj ≤ s.ftAdj + 1 := by
  have hsame : s.ftAdj ≤ s.ftAdj ∧ s.ftAdj ≤ s.ftAdj + 1 := ⟨le_refl _, by omega⟩
  unfold syncTime
  split
  · exact ⟨rfl, rfl, rfl, rfl, hsame⟩
  · split
    · split
      · exact ⟨rfl, rfl, rfl, rfl, by dsimp only; omega⟩
      · exact ⟨rfl, rfl, rfl, rfl, hsame⟩
    · exact ⟨rfl, rfl, rfl, rfl, hsame⟩

/-- The SYNC flit itself. -/
def State.syncSend (s : State) (k : Nat) : State :=
  if 1024 ≤ (s.port k).buffer.length then s else s.sendSeq k 3 0 0 4 0 0 ((List.range 256).map (Config.freeByte s.fresh))

theorem State.tell_time (s : State) (b : Sent) : (s.tell b).time = s.time ∧ (s.tell b).ftAdj = s.ftAdj := by
  unfold tell
  split
  · exact ⟨rfl, rfl⟩
  · exact ⟨rfl, rfl⟩

theorem State.syncSend_spec (s : State) (k : Nat) : (s.syncSend k).time = s.time ∧ (s.syncSend k).ftAdj = s.ftAdj ∧ (s.syncSend k).mem = s.mem ∧
    ((s.port k).buffer.length < 1024 → ((s.syncSend k).port k).txSeq = ((s.port k).txSeq + 1) % 4096) ∧
    (1024 ≤ (s.port k).buffer.length → (s.syncSend k).port k = s.port k ∧ (s.syncSend k).sent = s.sent) := by
  unfold syncSend
  by_cases h : 1024 ≤ (s.port k).buffer.length
  · rw [if_pos h]
    exact ⟨rfl, rfl, rfl, fun hlt => absurd h (Nat.not_le.mpr hlt), fun _ => ⟨rfl, rfl⟩⟩
  · rw [if_neg h]
    generalize (List.range 256).map (Config.freeByte s.fresh) = pl
    refine ⟨(State.tell_time ..).1, (State.tell_time ..).2, (State.tell_ports ..).2.1, fun _ => ?_, fun hle => absurd hle h⟩
    unfold sendSeq onPort
    dsimp only
    generalize hv : s.updPort k _ = v
    have hport : v.port k = _ := (congrArg (State.port · k) hv.symm).trans (s.port_updPort k _)
    have hsame : ∀ b, (v.tell b).port k = v.port k := fun b => congrArg (fun ps => tget (fun _ => Port.reset) ps k) (v.tell_ports b).1
    rw [hsame, hport]

/-- Fabric time follows the neighbour, or the twin, behind port `k`. -/
def State.syncFollows (s : State) (k : Nat) : Bool :=
  if 24 ≤ k then (s.twin.map (fun w => w.roleB && !w.lost)).getD false
  else match s.domain with
    | some d => (match d.route 0 with
      | some (dir, _) => dir == k / 4
      | none => false)
    | none => false

theorem syncFlit_eq {k : Nat} {s : State} (hup : (s.port k).state = .up) (t : W64) :
    let u : State := { s.syncSend k with fresh := (s.syncSend k).fresh + 1 }
    syncFlit k t s = u.syncTime (u.syncFollows k) t :=
  if_neg (not_not.mpr hup)

/-- A SYNC flit: fabric time goes on by 1 at most, and the flit goes out where the replay buffer has room. -/
theorem syncFlit_spec {k : Nat} {s : State} (hup : (s.port k).state = .up) (t : W64) :
    let u := syncFlit k t s
    u.time = s.time ∧ s.ftime ≤ u.ftime ∧ u.ftime ≤ s.ftime + 1 ∧
      ((s.port k).buffer.length < 1024 → (u.port k).txSeq = ((s.port k).txSeq + 1) % 4096) ∧
      (1024 ≤ (s.port k).buffer.length → u.port k = s.port k ∧ u.sent = s.sent) ∧ u.mem = s.mem := by
  obtain ⟨htime, hadj, hmem, hroom, hfull⟩ := s.syncSend_spec k
  have heq := syncFlit_eq hup t
  generalize hv : ({ s.syncSend k with fresh := (s.syncSend k).fresh + 1 } : State) = v at heq
  obtain ⟨hports, hsent, hm, ht, hlo, hhi⟩ := v.syncTime_spec (v.syncFollows k) t
  have hport : (v.syncTime (v.syncFollows k) t).port k = (s.syncSend k).port k := by
    unfold State.port
    rw [hports, ← hv]
  have hvt : v.time = s.time := (congrArg State.time hv.symm).trans htime
  have hva : v.ftAdj = s.ftAdj := (congrArg State.ftAdj hv.symm).trans hadj
  have hvm : v.mem = s.mem := (congrArg State.mem hv.symm).trans hmem
  have hvs : v.sent = (s.syncSend k).sent := (congrArg State.sent hv.symm :)
  dsimp only at heq ⊢
  rw [heq, hport, hsent, hm, ht, hvt, hvm, hvs]
  rw [hva] at hlo hhi
  have hft : (v.syncTime (v.syncFollows k) t).ftime = ((s.time / 8 : Nat) + (v.syncTime (v.syncFollows k) t).ftAdj).toNat := by
    unfold State.ftime
    rw [ht, hvt]
  refine ⟨rfl, ?_, ?_, hroom, hfull, rfl⟩
  · rw [hft]
    unfold State.ftime
    omega
  · rw [hft]
    unfold State.ftime
    omega

/-! ### Training (R317) -/

theorem State.settleLinks_spec (s : State) (k : Nat) : (s.settleLinks).port k = s.port k := by
  unfold settleLinks
  split
  · rfl
  · split
    · rfl
    · rfl

section
variable {k : Nat} {t : TrainInfo} {s : State} (hst : (s.port k).state = .training) (hans : t.answers = true) (hk : k < 26)
include hst hans hk

theorem portTrained_eq : portTrained k t s = match linkVersion t.verLo t.verHi with
    | none => (s.portTo k .versionFail).settleLinks
    | some v =>
      if !s.partnerOk k t then (s.portTo k .identFail).settleLinks
      else
        let first := decide ((s.port k).ver = 0)
        let s := (s.updPort k (fun q => { q with
          ver := v, nport := t.port, serial := t.serial, credits := if first then s.dom.credits else (s.port k).credits })).portTo k .up
        (s.replayPort k).pushFlits := by
  have hgo : ¬((s.port k).state ≠ .training ∨ (!t.answers) = true ∨ 26 ≤ k) := by
    rw [hst, hans]
    simpa using hk
  unfold portTrained
  exact if_neg hgo

theorem portTrained_version (hv : linkVersion t.verLo t.verHi = none) : (portTrained k t s).port k = { s.port k with state := .versionFail } := by
  rw [portTrained_eq hst hans hk, hv]
  exact (State.settleLinks_spec ..).trans (State.portTo_spec (by rw [hst]; decide)).1

theorem portTrained_ident {v : Nat} (hv : linkVersion t.verLo t.verHi = some v) (hp : s.partnerOk k t = false) :
    (portTrained k t s).port k = { s.port k with state := .identFail } := by
  rw [portTrained_eq hst hans hk, hv]
  dsimp only
  rw [hp]
  exact (State.settleLinks_spec ..).trans (State.portTo_spec (by rw [hst]; decide)).1

theorem portTrained_up {v : Nat} (hv : linkVersion t.verLo t.verHi = some v) (hp : s.partnerOk k t = true) :
    (portTrained k t s).rxSide k = (({ s.port k with ver := v, nport := t.port, serial := t.serial, state := .up } : Port).rx, s.mem) := by
  rw [portTrained_eq hst hans hk, hv]
  dsimp only
  rw [hp, Bool.not_true, if_neg Bool.false_ne_true, State.pushFlits_rxSide, State.replayPort_rxSide]
  generalize (if decide ((s.port k).ver = 0) = true then s.dom.credits else (s.port k).credits) = cs
  have hport := s.port_updPort k (fun q => { q with ver := v, nport := t.port, serial := t.serial, credits := cs })
  have hne : ((s.updPort k (fun q => { q with ver := v, nport := t.port, serial := t.serial, credits := cs })).port k).state ≠ .up := by
    rw [hport]
    show (s.port k).state ≠ _
    rw [hst]
    decide
  obtain ⟨hp, -, hm⟩ := State.portTo_spec hne
  rw [hport] at hp
  exact Prod.ext ((congrArg Port.rx hp :)) hm

end

/-! ### Configuration of barriers and collective queues (R323, R327) -/

theorem barCfg_eq {p die i : Nat} (hi : i < 256) (hd : die < 2) (hp : p < 16) (v : W64) (s : State) :
    let b := { s.bar p die i with en := v.getLsbD 0, span := bits v.toNat 1 4, arrive := bits v.toNat 5 12 }
    barCfg p die i v s = s.setBar p die i (if b.arrivals = [] then b.applyCfg else b) :=
  if_neg (by omega)

theorem cqCfg_eq {p die q : Nat} (hq : q < 4) (hd : die < 2) (hp : p < 16) (v : W64) (s : State) :
    cqCfg p die q v s = s.updCq p die q (fun c =>
      if c.en then { c with en := v.getLsbD 0 }
      else
        let c := { c with log2n := bits v.toNat 1 4, psem := bits v.toNat 5 12 }
        if v.getLsbD 0 then { c with en := true, n := 0, fault := false, run := none, ready := [] } else c) :=
  if_neg (by omega)

theorem State.updCq_congr {s : State} {p die q : Nat} {f : Cq → Cq} {c : Cq} (h : f (s.cq p die q) = c) :
    s.updCq p die q f = s.updCq p die q (fun _ => c) := by
  unfold updCq
  rw [h]

/-- Settles O52: each event of a port by what its send and receive sides become, each configuration write by its cases. -/
theorem fabricEvents : Obligations.FabricEvents := by
  unfold Obligations.FabricEvents
  refine ⟨?_, ?_, ?_, ?_, ?_, ?_⟩
  · intro k f s hup bad q
    refine ⟨fun hbad => ?_, fun hunc hgood hty hseq => ?_⟩
    · refine ⟨_, congrArg Host.Outcome.next (flitReceive_bad hup hbad), ?_⟩
      obtain ⟨hm, hport⟩ := s.heardBad_spec k (2 * (f.unc + b2n bad)) (fun q => { q with
        fec := q.fec + BitVec.ofNat 64 f.corrected, unc := q.unc + BitVec.ofNat 64 f.unc, crc := q.crc + BitVec.ofNat 64 (b2n bad) })
      generalize (s.updPort k _).addRisk _ = u at hm hport ⊢
      obtain ⟨hmem, hnak, hrx, hunc, hcrc, hfec⟩ := u.nakPort_spec k
      rw [hport] at hrx hunc hcrc hfec
      exact ⟨hmem.trans hm, hnak, hrx, hunc, hcrc, hfec⟩
    · have hside := flitReceive_next hup hunc hgood hty hseq
      have hrx := congrArg Prod.fst hside
      exact ⟨_, rfl, congrArg Prod.snd hside, (congrArg Port.rxSeq hrx :), (congrArg Port.rxAny hrx :), (congrArg Port.nak hrx :),
        (congrArg Port.crc hrx :)⟩
  · intro k s hup
    refine ⟨fun hb hf => ?_, fun hs hf => ?_, fun fec hstart => ?_, fun t => ?_⟩
    · exact ⟨_, congrArg Host.Outcome.next ((flitTimeout_up hup).trans (State.replayPort_some hb hf)), (s.port_updPort k Port.replayed :), rfl⟩
    · obtain ⟨hlen, hty⟩ := mkFlit_idle ((s.port k).ack + 2 ^ 14 * 0 + 2 ^ 18 * 0 + 2 ^ 19 * 0)
      exact ⟨_, _, congrArg Host.Outcome.next (ackTimer_up hup hs hf), (s.port_updPort k (fun q => { q with since := 0 }) :), rfl, hlen, hty⟩
    · exact ⟨_, congrArg Host.Outcome.next (portRetrain_start hup hstart), State.retrain_spec hup⟩
    · exact ⟨_, rfl, syncFlit_spec hup t⟩
  · intro k t s hst hans hk
    refine ⟨fun hv => ⟨_, rfl, portTrained_version hst hans hk hv⟩, fun v hv hp => ⟨_, rfl, portTrained_ident hst hans hk hv hp⟩, fun v hv hp => ?_⟩
    have hside := portTrained_up hst hans hk hv hp
    have hrx := congrArg Prod.fst hside
    exact ⟨_, rfl, (congrArg Port.state hrx :), (congrArg Port.ver hrx :), (congrArg Port.serial hrx :), (congrArg Port.nport hrx :), congrArg Prod.snd hside⟩
  · intro p die i v s hi hd hp b w
    refine ⟨fun ha => congrArg Host.Outcome.next ((barCfg_eq hi hd hp v s).trans ?_), fun ha => congrArg Host.Outcome.next ((barCfg_eq hi hd hp v s).trans ?_)⟩
    · refine congrArg (s.setBar p die i) ((if_pos ha).trans ?_)
      unfold Bar.applyCfg
      simp only [Bool.and_eq_true]
      rfl
    · exact congrArg (s.setBar p die i) (if_neg ha)
  · intro p die q v s hq hd hp c puts
    have heq := cqCfg_eq hq hd hp v s
    refine ⟨fun he => ?_, fun he hon => ?_, fun he hoff => ?_⟩
    · exact congrArg Host.Outcome.next (heq.trans (State.updCq_congr (if_pos he)))
    · exact congrArg Host.Outcome.next (heq.trans (State.updCq_congr ((if_neg (not_true_of_eq_false he)).trans (if_pos hon))))
    · exact congrArg Host.Outcome.next (heq.trans (State.updCq_congr ((if_neg (not_true_of_eq_false he)).trans (if_neg (not_true_of_eq_false hoff)))))
  · intro s t ht hl
    refine ⟨fun hf => congrArg Host.Outcome.next ?_, fun hw => congrArg Host.Outcome.next (State.twinLost_idle ht hl hw),
      fun p r hr hw => congrArg Host.Outcome.next ?_⟩
    · unfold twinHeartbeat
      rw [ht]
      exact if_neg (by rw [hl, hf]; simp)
    · have hlost : s.twinLost = (s.tell (.domain 3 0 [])).twinGone 1 := by
        unfold State.twinLost
        rw [ht]
        exact if_neg (not_true_of_eq_false hl)
      unfold twinWait
      rw [hr]
      exact (if_pos hw).trans hlost

end Sys2Proof.Machine
end

section
/-!
Collectives and forwarding channels (R327 to R336).
-/

namespace Sys2Proof.Machine

/-! ### A launch that is stopped leaves the collective queues (R335, R359) -/

/-- What stopping a launch never touches: the collective queues and the flash store. -/
def State.apart (s : State) : Tab Cq × Flash := (s.cqs, s.flash)

theorem State.write_apart (s : State) (a : Nat) (bs : List Byte) : (s.write a bs).apart = s.apart := (congrArg State.apart (s.write_only a bs) :)

theorem State.freeSpans_apart (s : State) (p : Nat) (ss : List (Nat × Nat)) : (s.freeSpans p ss).apart = s.apart := by
  unfold freeSpans writes bump
  exact foldl_keeps State.apart (fun (s : State) (w : Nat × List Byte) => s.write w.1 w.2) (fun u w => u.write_apart w.1 w.2) _ s

theorem State.updCore_apart (s : State) (c : Nat) (f : Core → Core) : (s.updCore c f).apart = s.apart := rfl

theorem State.resetCtxs_apart (s : State) (c : Nat) (xs : List Nat) :
    (xs.foldl (fun s x => ((s.leaveWaits c x).leaveBars c x).setCtx c x Ctx.reset) s).apart = s.apart :=
  foldl_keeps State.apart (fun (s : State) x => ((s.leaveWaits c x).leaveBars c x).setCtx c x Ctx.reset) (fun _ _ => rfl) xs s

theorem State.killLaunch_apart (s : State) (key : Nat) (l : Launch) : (s.killLaunch key l).apart = s.apart := by
  unfold killLaunch
  extract_lets mine cores s1 s2 s3 s4
  have h1 : s1.apart = s.apart := by
    unfold s1
    refine foldl_keeps State.apart _ (fun u c => ?_) cores s
    extract_lets v xs w z
    have hv : v.apart = u.apart := State.freeSpans_apart ..
    have hw : w.apart = v.apart := State.resetCtxs_apart v c xs
    have hz : z.apart = w.apart := rfl
    clear_value z
    exact (State.updCore_apart ..).trans (hz.trans (hw.trans hv))
  have h2 : s2.apart = s1.apart := by
    unfold s2
    split
    · refine foldl_keeps State.apart _ (fun u n => ?_) l.engineList s1
      split
      · split
        · refine (State.freeSpans_apart ..).trans ?_
          split
          · rfl
          · rfl
        · rfl
      · split
        · rfl
        · rfl
    · rfl
  have h3 : s3.apart = s2.apart := by
    unfold s3
    split
    · refine foldl_keeps State.apart _ (fun u n => ?_) l.engineList s2
      split
      · exact State.freeSpans_apart ..
      · rfl
    · rfl
  have h4 : s4.apart = s3.apart := foldl_keeps State.apart (fun (s : State) (x : Nat × Nat) => s.unpin x.2) (fun _ _ => rfl) l.pins s3
  exact ((h4.trans h3).trans h2).trans h1
theorem State.write_cqs (s : State) (a : Nat) (bs : List Byte) : (s.write a bs).cqs = s.cqs := congrArg Prod.fst (s.write_apart a bs)

theorem State.killLaunch_cqs (s : State) (key : Nat) (l : Launch) : (s.killLaunch key l).cqs = s.cqs := congrArg Prod.fst (s.killLaunch_apart key l)

theorem State.dropUnstarted_cqs (s : State) (p : Nat) : (s.dropUnstarted p).cqs = s.cqs := by
  unfold dropUnstarted
  refine foldl_keeps State.cqs (fun (s : State) (x : Nat × Launch) => s.dropLaunch x.1) (fun u x => ?_) _ s
  cases hl : u.launch x.1 with
  | none =>
    unfold dropLaunch
    rw [hl]
  | some l => exact (congrArg State.cqs (State.dropLaunch_spec hl).2.1 :)

/-- A collective queue that faults: FAULT is set, nothing runs, and N stays. -/
theorem State.collFault_spec (s : State) (p die q code peer chunk : Nat) :
    ((s.collFault p die q code peer chunk).cq p die q) = { s.cq p die q with fault := true, run := none } := by
  have hself : ∀ {u : State}, u.cqs = (s.updCq p die q (fun c => { c with fault := true, run := none })).cqs →
      u.cq p die q = { s.cq p die q with fault := true, run := none } := by
    intro u hu
    unfold cq
    rw [hu]
    exact tget_tput_self ..
  have hhalt : ∀ (u : State) (step : Bool), ((u.launches.filter (fun (_, l) => l.part == p && l.started && (l.step.isSome == step) && l.onDie die)).foldl
      (fun s (k, l) => s.haltLaunch k l) u).cqs = u.cqs := fun u step =>
    foldl_keeps State.cqs (fun (s : State) (x : Nat × Launch) => s.haltLaunch x.1 x.2) (fun v x => v.killLaunch_cqs x.1 x.2) _ u
  apply hself
  unfold collFault
  extract_lets c at_ tag rec_ a s1 s2 halt
  have h2 : s2.cqs = s1.cqs := by
    unfold s2
    split
    · exact State.write_cqs ..
    · rfl
  split
  next r _ =>
    split
    · extract_lets s3
      have h3 : s3.cqs = s2.cqs := by
        unfold s3
        split
        · exact State.write_cqs ..
        · rfl
      exact (hhalt _ true).trans ((State.dropUnstarted_cqs ..).trans (h3.trans h2))
    · exact (hhalt _ false).trans h2
  next => exact (hhalt _ false).trans h2

theorem State.cq_updCq (s : State) (p die q : Nat) (f : Cq → Cq) : (s.updCq p die q f).cq p die q = f (s.cq p die q) := tget_tput_self ..

/-! ### A collective starts (R329, R334) -/

/-- A semaphore named by a descriptor lies outside the partition's range. -/
def State.semOut (s : State) (p : Nat) : Option Nat → Bool
  | some i => !s.semIn p i
  | none => false

theorem State.semOut_false {s : State} {p : Nat} {o : Option Nat} (h : ∀ i, o = some i → s.semIn p i = true) : s.semOut p o = false := by
  cases o with
  | none => rfl
  | some i =>
    exact congrArg (!·) (h i rfl)

/-- The descriptor's own wait is not met. -/
def State.wsemWaits (s : State) (die : Nat) : Option (Nat × Nat) → Bool
  | some (i, n) => decide ((s.sem die i).value.toNat < n)
  | none => false

theorem State.wsemWaits_false {s : State} {die : Nat} {o : Option (Nat × Nat)} (h : ∀ i n, o = some (i, n) → n ≤ (s.sem die i).value.toNat) :
    s.wsemWaits die o = false := by
  cases o with
  | none => rfl
  | some w => exact decide_eq_false (Nat.not_lt.mpr (h w.1 w.2 rfl))

section
variable {p die q : Nat} {s : State} (hgo : ¬((!(s.cq p die q).en) = true ∨ (s.cq p die q).fault = true ∨ (s.cq p die q).run.isSome = true ∨
    (!s.regOpen p 0) = true ∨ (!s.workOpen) = true ∨ s.health.failed = true ∨ 4 ≤ q ∨ 2 ≤ die ∨ (oget s.parts p).isNone = true))
  (hps : s.semIn p (s.cq p die q).psem = true)
include hgo hps

theorem collStart_waits (h : (s.sem die (s.cq p die q).psem).value.toNat ≤ (s.cq p die q).n) : collStart p die q s = s :=
  (if_neg hgo).trans ((if_neg (by rw [hps]; exact Bool.false_ne_true)).trans (if_pos (Nat.lt_succ_of_le h)))

variable (hn : (s.cq p die q).n < (s.sem die (s.cq p die q).psem).value.toNat) {a : Nat} {ws : List W64}
  (ha : a = (s.cq p die q).base + 128 * ((s.cq p die q).n % 2 ^ (s.cq p die q).log2n)) (hperm : s.permits p a 128 true false false = true)
  (hws : ws = (List.range 16).map (fun i => BitVec.ofNat 64 (s.le (a + 8 * i) 8)))
include hn ha hperm hws

theorem collStart_bad (hb : collBad ws (2 * s.dom.dx * s.dom.dy * s.dom.dz) = true) : collStart p die q s = s.collFault p die q 0x30 0 0 := by
  subst hws ha
  exact (if_neg hgo).trans ((if_neg (by rw [hps]; exact Bool.false_ne_true)).trans ((if_neg (by omega)).trans
    ((if_neg (by rw [hperm]; exact Bool.false_ne_true)).trans (if_pos hb))))

theorem collStart_begin (hb : collBad ws (2 * s.dom.dx * s.dom.dy * s.dom.dz) = false) (hv : (parseColl ws).var = false)
    (hout : ∀ i, (parseColl ws).csem = some i ∨ (parseColl ws).dsem = some i → s.semIn p i = true)
    (hw : ∀ i n, (parseColl ws).wsem = some (i, n) → s.semIn p i = true ∧ n ≤ (s.sem die i).value.toNat) :
    collStart p die q s = s.collBegin p die q ws (parseColl ws) := by
  have houts : ¬(s.semOut p (parseColl ws).csem || s.semOut p (parseColl ws).dsem || s.semOut p ((parseColl ws).wsem.map (·.1))) = true := by
    rw [State.semOut_false fun i hi => hout i (.inl hi), State.semOut_false fun i hi => hout i (.inr hi), State.semOut_false fun i hi => ?_]
    · exact Bool.false_ne_true
    · obtain ⟨w, hw', rfl⟩ := Option.map_eq_some_iff.mp hi
      exact (hw w.1 w.2 hw').1
  have hwait : ¬s.wsemWaits die (parseColl ws).wsem = true := not_true_of_eq_false (State.wsemWaits_false fun i n h => (hw i n h).2)
  subst hws ha
  exact (if_neg hgo).trans ((if_neg (by rw [hps]; exact Bool.false_ne_true)).trans ((if_neg (by omega)).trans
    ((if_neg (by rw [hperm]; exact Bool.false_ne_true)).trans ((if_neg (not_true_of_eq_false hb)).trans
      ((if_neg (fun h => not_true_of_eq_false hv h.1)).trans ((if_neg houts).trans (if_neg hwait)))))))

end

/-- A collective has no stages where it is a SEND or a RECV. -/
theorem Domain.stages_point {x : CollD} (h : 3 ≤ x.op) (d : Domain) (die : Nat) (dbl : Bool) : d.stages die x dbl = [] := by
  unfold stages
  exact (if_neg (by omega)).trans (if_neg (by omega))

/-- A SEND has no outputs, and its progress is nothing. -/
theorem State.collProgress_send {s : State} {p die q : Nat} {x : CollD} {c : Coll} (hr : (s.cq p die q).run = some c) (hx : x.op = 3) :
    s.collProgress p die q x = s := by
  have hadv : collAdvance p die q x 16 s = s := by
    rw [collAdvance, hr]
    dsimp only
    rw [Domain.stages_point (by omega)]
    rfl
  have hfinal : x.final s.dom die c = [] := if_pos hx
  unfold collProgress
  rw [hadv]
  dsimp only
  rw [hr]
  dsimp only
  rw [hfinal]
  unfold collOutputs
  rw [hr]
  exact if_pos (.inl (by rw [List.drop_nil, List.take_nil]))

theorem State.collBegin_send {s : State} {p die q : Nat} {ws : List W64} (hop : (parseColl ws).op = 3)
    (hperm : s.permits p (parseColl ws).src (parseColl ws).count true false false = true)
    (hready : (s.cq p die q).ready.find? (fun r => r.1 = (parseColl ws).peer) = none) :
    ∃ r : Coll, r.words = ws ∧ r.outs = 0 ∧ r.sent = [] ∧ r.staged = [] ∧ r.lo.k = 0 ∧
      s.collBegin p die q ws (parseColl ws) = State.updCq ({ s with fresh := s.fresh + 1 }.chargeLines p [((parseColl ws).src, (parseColl ws).count)]) p die q
        (fun k => { k with run := some r }) := by
  generalize parseColl ws = x at hop hperm hready ⊢
  have h1 : ¬x.op = 1 := by omega
  have h2 : ¬x.op = 2 := by omega
  have h4 : ¬x.op = 4 := by omega
  have hin : ¬(0 < x.count ∧ (!s.permits p x.src x.count true false false) = true) := by
    rw [hperm]
    simp
  have hlen : x.outItems (s.dom.count x.span) * x.outBytes = 0 := by
    rw [show x.outItems (s.dom.count x.span) = 0 from if_pos hop, Nat.zero_mul]
  unfold collBegin
  extract_lets d pn inLen outLen size rule free dbl vec? st?
  have hinLen : inLen = x.count := (if_neg h1).trans (if_neg h4)
  have hvec : vec? = some [] := (if_neg h1).trans (if_neg h2)
  have hst : st? = none := by
    unfold st?
    rw [Domain.stages_point (by omega)]
    rfl
  clear_value inLen vec? dbl st?
  subst hinLen hvec hst
  rw [if_neg hin, if_neg (by rw [show outLen = 0 from hlen]; simp)]
  let r : Coll :=
    { words := ws, dbl := dbl, stage := 0, vec := [], lo := Feed.start, hi := x.hiStart none [], blocks := [], outs := 0, sent := [], staged := [] }
  let u := (s.bump.chargeLines p [(x.src, x.count)]).updCq p die q (fun k => { k with run := some r })
  have hcq : u.cq p die q = { s.cq p die q with run := some r } := State.cq_updCq ..
  refine ⟨r, rfl, rfl, rfl, rfl, rfl, ?_⟩
  have htake : u.takeReady p die q x = u := by
    unfold State.takeReady
    rw [hcq, hready]
  have hprog : u.collProgress p die q x = u := State.collProgress_send (by rw [hcq]) hop
  exact (congrArg (State.collProgress · p die q x) ((if_pos hop).trans htake)).trans hprog

/-! ### A chunk arrives (R329, R333, R334, R337) -/

section
variable {p die q : Nat} {ch : Chunk} {s : State} {c : Coll} (hr : (s.cq p die q).run = some c) (hen : (s.cq p die q).en = true)
  (hfault : (s.cq p die q).fault = false)
include hr hen hfault

section
variable (hop : (parseColl c.words).op = 4) (hwhat : ch.what = .data) (hkind : ch.word0.toNat % 16 = 2) (hsrc : ch.src = (parseColl c.words).peer)
  (hsig : ch.sig.toNat / 16 = (parseColl c.words).sig / 16) (hno : c.lo.no = ch.word2.toNat % 2 ^ 32) (hpos : c.lo.pos < (parseColl c.words).count)
include hop hwhat hkind hsrc hsig hno hpos

/-- A chunk of a RECV whose turn has come: what is checked of it. -/
theorem chunkReceive_recv : chunkReceive p die q ch s =
    let x := parseColl c.words
    let n := min x.chunkItems (x.count - c.lo.pos)
    if (chunkData ch).length ≠ n * x.itemBytes ∨ crc32c (chunkData ch) ≠ ch.ccrc.toNat then
      if 3 ≤ c.lo.bad then s.collFault p die q 0x33 ch.src (ch.word2.toNat % 2 ^ 32)
      else (s.updCq p die q (fun k => { k with run := some { c with lo := { c.lo with bad := c.lo.bad + 1 } } })).answer .again p die ch
    else if (s.fab p).verified ∧ !ch.hOk then (s.digestError ch.port).answer .again p die ch
    else ((((s.digest p die (chunkDigest ch.word0 ch.sig ch.word2 (chunkData ch))).answer .taken p die ch).updCq p die q (fun k =>
      { k with run := some { c with lo := { c.lo with pos := c.lo.pos + n, no := ch.word2.toNat % 2 ^ 32 + 1, bad := 0 },
                                    blocks := oput c.blocks 0 (some (c.held 0 ++ x.unpack (chunkData ch))) } })).collProgress p die q x) := by
  have hbits0 : bits ch.word0.toNat 0 4 = 2 := by
    rw [bits_eq, pow_zero, Nat.div_one]
    exact hkind
  have hbits2 : bits ch.word2.toNat 0 32 = ch.word2.toNat % 2 ^ 32 := by
    rw [bits_eq, pow_zero, Nat.div_one]
  unfold chunkReceive State.takeChunk
  rw [hwhat]
  dsimp only
  rw [hbits0, hr, hbits2]
  dsimp only
  generalize parseColl c.words = x at hop hsrc hsig hpos ⊢
  have hpoint : decide (3 ≤ x.op) = true := decide_eq_true (by omega)
  have hgate : ¬((!(s.cq p die q).en) = true ∨ (s.cq p die q).fault = true ∨ (!true && decide ((s.cq p die q).n < ch.word0.toNat / 2 ^ 32)) = true ∨
      (2 == 2) ≠ true ∨ x.op = 3 ∨ (true = true ∧ ch.src ≠ x.peer)) := by
    rw [hen, hfault, hop, hsrc]
    simp
  have hsigned : ¬(!(if true = true then ch.sig.toNat / 16 == x.sig / 16 else ch.sig.toNat == x.sig && ch.word0.toNat / 2 ^ 32 == (s.cq p die q).n)) = true := by
    rw [hsig]
    simp
  rw [hpoint]
  refine (if_neg (by decide)).trans ((if_neg hgate).trans ((if_neg hsigned).trans ?_))
  rw [if_pos (show c.lo.no = ch.word2.toNat % 2 ^ 32 ∧ c.lo.pos < x.count from ⟨hno, hpos⟩)]
  rfl

end

/-- READY from the RECV of a SEND that waits for it. -/
theorem chunkReceive_ready (hop : (parseColl c.words).op = 3) (hwhat : ch.what = .ready) (hk : c.lo.k = 0) (hready : (s.cq p die q).ready = [])
    (hsrc : ch.src = (parseColl c.words).peer) (hsig : ch.sig.toNat / 16 = (parseColl c.words).sig / 16) :
    ∃ t : State, chunkReceive p die q ch s = t.sendAll p die q (parseColl c.words) ∧ t.cq p die q = s.cq p die q ∧ t.mem = s.mem := by
  generalize hx : parseColl c.words = x at hop hsrc hsig ⊢
  let u := s.updCq p die q (fun k => { k with ready := k.ready ++ [(ch.src, ch.sig)] })
  let t := u.updCq p die q (fun k => { k with ready := k.ready.erase (ch.src, ch.sig) })
  have hu : u.cq p die q = { s.cq p die q with ready := [(ch.src, ch.sig)] } := by
    refine (State.cq_updCq ..).trans ?_
    rw [hready]
    rfl
  have ht : t.cq p die q = s.cq p die q := by
    refine (State.cq_updCq ..).trans ?_
    rw [hu]
    dsimp only
    rw [List.erase_cons_head, ← hready]
  have htake : u.takeReady p die q x = t.sendAll p die q x := by
    unfold State.takeReady
    rw [hu]
    dsimp only
    rw [List.find?_cons_of_pos (by simpa using hsrc)]
    exact if_neg (not_not.mpr hsig)
  refine ⟨t, ?_, ht, rfl⟩
  unfold chunkReceive
  rw [hwhat]
  refine (if_neg (by rw [hen, hfault]; simp)).trans ?_
  show (match (u.cq p die q).run with
    | some c => if (parseColl c.words).op = 3 ∧ c.lo.k = 0 then u.takeReady p die q (parseColl c.words) else u
    | none => u) = _
  rw [hu]
  dsimp only
  rw [hr]
  dsimp only
  rw [hx]
  exact (if_pos ⟨hop, hk⟩).trans htake

end

section
variable {p die q : Nat} {ch : Chunk} {s : State} {c : Coll} (hr : (s.cq p die q).run = some c) (hkind : ch.word0.toNat % 16 ≠ 3)
  (hw : ch.word0 = s.collWord0 p die q (parseColl c.words))
include hr hkind hw

theorem State.chunkAnswered_eq : s.chunkAnswered p die q ch =
    if ch.what = .taken then s.updCq p die q (fun k => { k with run := some { c with
      staged := c.staged.filter (fun e => !(e.dst == ch.src && e.no == ch.word2.toNat % 2 ^ 32)) } })
    else match c.staged.find? (fun e => e.dst == ch.src && e.no == ch.word2.toNat % 2 ^ 32) with
      | some e => s.putChunk p die e.dst ch.word0 ch.sig ch.word2 e.pieces
      | none => s := by
  have hbits0 : bits ch.word0.toNat 0 4 ≠ 3 := by
    rw [bits_eq, pow_zero, Nat.div_one]
    exact hkind
  have hbits2 : bits ch.word2.toNat 0 32 = ch.word2.toNat % 2 ^ 32 := by
    rw [bits_eq, pow_zero, Nat.div_one]
  unfold chunkAnswered
  dsimp only
  rw [if_neg hbits0, hr, hbits2]
  exact if_neg (not_not.mpr hw)

theorem chunkReceive_taken (hwhat : ch.what = .taken) : chunkReceive p die q ch s = s.updCq p die q (fun k => { k with run := some { c with
    staged := c.staged.filter (fun e => !(e.dst == ch.src && e.no == ch.word2.toNat % 2 ^ 32)) } }) := by
  have hans := State.chunkAnswered_eq hr hkind hw
  rw [if_pos hwhat] at hans
  unfold chunkReceive
  rw [hwhat]
  exact hans

theorem chunkReceive_again (hwhat : ch.what = .again) {e : SentChunk}
    (he : c.staged.find? (fun e => e.dst == ch.src && e.no == ch.word2.toNat % 2 ^ 32) = some e) :
    chunkReceive p die q ch s = s.putChunk p die ch.src ch.word0 ch.sig ch.word2 e.pieces := by
  have hans := State.chunkAnswered_eq hr hkind hw
  have hdst : e.dst = ch.src := by
    have := List.find?_some he
    simp only [Bool.and_eq_true, beq_iff_eq] at this
    exact this.1
  rw [if_neg (by rw [hwhat]; decide), he] at hans
  dsimp only at hans
  rw [hdst] at hans
  unfold chunkReceive
  rw [hwhat]
  exact hans

end

/-! ### Forwarding (R336) -/

theorem writes_mem_congr {s u : State} (h : s.mem = u.mem) (ws : List (Nat × List Byte)) : (s.writes ws).mem = (u.writes ws).mem := by
  induction ws generalizing s u with
  | nil => exact h
  | cons w ws ih => exact ih (write_mem_congr h w.1 w.2)

/-- What a forwarded chunk leaves: the collective queues, and the flits that wait. -/
theorem State.writes_fabric (s : State) (ws : List (Nat × List Byte)) : (s.writes ws).cqs = s.cqs ∧ (s.writes ws).outbox = s.outbox :=
  ⟨foldl_keeps State.cqs (fun (s : State) (w : Nat × List Byte) => s.write w.1 w.2) (fun u w => u.write_cqs w.1 w.2) ws s,
    foldl_keeps State.outbox (fun (s : State) (w : Nat × List Byte) => s.write w.1 w.2)
      (fun u w => (congrArg State.outbox (u.write_only w.1 w.2) :)) ws s⟩

theorem State.answer_spec (s : State) (k : ChunkKind) (p die : Nat) (ch : Chunk) : (s.answer k p die ch).mem = s.mem ∧
    (s.answer k p die ch).cqs = s.cqs ∧ (s.answer k p die ch).outbox = s.outbox := by
  unfold answer tell
  split
  · exact ⟨rfl, rfl, rfl⟩
  · exact ⟨rfl, rfl, rfl⟩

theorem chunkReceive_forward {p die q : Nat} {ch : Chunk} {s : State} (hwhat : ch.what = .data) (hkind : ch.word0.toNat % 16 = 3)
    (hver : (s.fab p).verified = false ∨ ch.hOk = true) (hcrc : crc32c (chunkData ch) = ch.ccrc.toNat)
    (hperm : ∀ x ∈ ch.packets, s.permits p x.1.toNat x.2.length false true false = true) :
    ∃ t : State, chunkReceive p die q ch s = t ∧ t.mem = (s.writes (ch.packets.map (fun x => (x.1.toNat, x.2)))).mem ∧
      t.cqs = s.cqs ∧ t.outbox = s.outbox := by
  have hbits0 : bits ch.word0.toNat 0 4 = 3 := by
    rw [bits_eq, pow_zero, Nat.div_one]
    exact hkind
  have hgood : ¬((s.fab p).verified = true ∧ (!ch.hOk) = true) := by
    rintro ⟨h1, h2⟩
    rcases hver with h | h
    · exact not_true_of_eq_false h h1
    · rw [h] at h2
      cases h2
  have hall : ch.packets.any (fun x => !s.permits p x.1.toNat x.2.length false true false) = false :=
    List.any_eq_false.mpr fun x hx => by rw [hperm x hx]; exact Bool.false_ne_true
  let v := (s.digest p die (chunkDigest ch.word0 ch.sig ch.word2 (chunkData ch))).answer .taken p die ch
  let w := v.writes (ch.packets.map (fun x => (x.1.toNat, x.2)))
  let f := tget (fun _ => Fwd.reset) w.fwds (4 * die + q)
  refine ⟨if w.semIn p f.dsem then w.signalOr p die f.dsem 1 else w, ?_, ?_⟩
  · unfold chunkReceive State.takeChunk
    rw [hwhat]
    exact (if_pos hbits0).trans ((if_neg (not_not.mpr hcrc)).trans ((if_neg hgood).trans (if_neg (not_true_of_eq_false hall))))
  · obtain ⟨hm, hc, ho⟩ := (s.digest p die (chunkDigest ch.word0 ch.sig ch.word2 (chunkData ch))).answer_spec .taken p die ch
    obtain ⟨hwc, hwo⟩ := v.writes_fabric (ch.packets.map (fun x => (x.1.toNat, x.2)))
    have hwm : w.mem = (s.writes (ch.packets.map (fun x => (x.1.toNat, x.2)))).mem := writes_mem_congr (s := v) (u := s) hm _
    have hcqs : w.cqs = s.cqs := hwc.trans hc
    have hout : w.outbox = s.outbox := hwo.trans ho
    clear_value f w
    split
    · have honly := w.signalOr_only p die f.dsem 1
      exact ⟨(congrArg State.mem honly :).trans hwm, (congrArg State.cqs honly :).trans hcqs, (congrArg State.outbox honly :).trans hout⟩
    · exact ⟨hwm, hcqs, hout⟩

theorem State.fwd_updFwd (s : State) (k : Nat) (f : Fwd → Fwd) : (s.updFwd k f).fwd k = f (s.fwd k) := tget_tput_self ..

/-- A forwarding channel's oldest drain goes out, and the channel counts it. -/
theorem forwardDrain_some {k : Nat} {s : State} {d : Domain} {ws : List (Nat × List Byte)} {rest : List (List (Nat × List Byte))}
    (hq : (s.fwd k).queue = ws :: rest) (hd : s.domain = some d) (hf : s.health.failed = false) :
    let f := s.fwd k
    let ps := ws.map (fun w => (f.dst + (w.1 - f.src), w.2))
    forwardDrain k s = (s.updFwd k (fun f => { f with
      queue := rest, count := f.count + 1, staged := f.staged ++ [{ dst := f.peer, no := (s.fwd k).count % 2 ^ 32, pieces := ps }] })).sendChunk
        (bits d.fwdp (4 * k) 4) (k / 4) f.peer (BitVec.ofNat 64 (3 + 2 ^ 4 * (k % 4) + 2 ^ 32 * (f.count % 2 ^ 32))) 0 0 ps := by
  intro f ps
  unfold forwardDrain
  dsimp only
  rw [hq, hd]
  exact if_neg (not_true_of_eq_false hf)

/-! ### Completion and aborts (R329, R335) -/

theorem collAbort_eq {p die q peer : Nat} {s : State} (hen : (s.cq p die q).en = true) :
    ((s.cq p die q).fault = false → collAbort p die q peer s = s.collFault p die q 0x31 peer 0) ∧
    ((s.cq p die q).fault = true → collAbort p die q peer s = s) := by
  refine ⟨fun h => if_pos ⟨hen, by rw [h]; rfl⟩, fun h => if_neg ?_⟩
  rintro ⟨-, h'⟩
  rw [h] at h'
  cases h'

theorem State.semAdd_room {s : State} {die i : Nat} (h : (s.sem die i).value.toNat < 2 ^ 32 - 1) :
    s.semAdd die i 1 = some (s.setSem die i { s.sem die i with value := BitVec.ofNat 32 ((s.sem die i).value.toNat + 1) }) :=
  if_pos (by omega)

section
variable {p die q : Nat} {s : State} {c : Coll} (hr : (s.cq p die q).run = some c)
  (hall : ¬(c.outs < ceilDiv ((parseColl c.words).outItems (s.dom.count (parseColl c.words).span) * (parseColl c.words).outBytes)
      (2 ^ (16 + (parseColl c.words).clog)) ∨ c.stage < (s.dom.stages die (parseColl c.words) c.dbl).length ∨ c.staged ≠ [] ∨
    ((parseColl c.words).op = 3 ∧ c.lo.k = 0)))
include hr hall

theorem collComplete_eq : collComplete p die q s = match (parseColl c.words).dsem with
    | none => s.updCq p die q (fun k => { k with run := none, n := k.n + 1 })
    | some i => match s.semAdd die i 1 with
      | some s => s.updCq p die q (fun k => { k with run := none, n := k.n + 1 })
      | none => s.collFault p die q 5 0 0 := by
  unfold collComplete
  rw [hr]
  exact if_neg hall

theorem collComplete_quiet (hd : (parseColl c.words).dsem = none) :
    collComplete p die q s = s.updCq p die q (fun k => { k with run := none, n := k.n + 1 }) := by
  rw [collComplete_eq hr hall, hd]

theorem collComplete_signals {i : Nat} (hd : (parseColl c.words).dsem = some i) (hroom : (s.sem die i).value.toNat < 2 ^ 32 - 1) :
    collComplete p die q s = (s.setSem die i { s.sem die i with value := BitVec.ofNat 32 ((s.sem die i).value.toNat + 1) }).updCq p die q
      (fun k => { k with run := none, n := k.n + 1 }) := by
  rw [collComplete_eq hr hall, hd]
  dsimp only
  rw [State.semAdd_room hroom]

end

/-- Settles O53: each event of a collective queue by its checks. -/
theorem collectives : Obligations.Collectives := by
  unfold Obligations.Collectives
  refine ⟨?_, ?_, ?_, ?_, ?_, ?_, ?_⟩
  · intro p die q s hen hfault hrun hreg hwork hfail hq hdie hpart hps c a ws x
    have hgo : ¬((!(s.cq p die q).en) = true ∨ (s.cq p die q).fault = true ∨ (s.cq p die q).run.isSome = true ∨ (!s.regOpen p 0) = true ∨
        (!s.workOpen) = true ∨ s.health.failed = true ∨ 4 ≤ q ∨ 2 ≤ die ∨ (oget s.parts p).isNone = true) := by
      rw [hen, hfault, hrun, hreg, hwork, hfail, ← Option.not_isSome, hpart]
      simpa using ⟨hq, Nat.le_of_lt_succ hdie⟩
    refine ⟨fun h => congrArg Host.Outcome.next (collStart_waits hgo hps h), fun hn hperm => ⟨fun hb => ?_, fun hb hv hout hw => ?_⟩⟩
    · have hspec := s.collFault_spec p die q 0x30 0 0
      exact ⟨_, congrArg Host.Outcome.next (collStart_bad hgo hps hn rfl hperm rfl hb), (congrArg Cq.fault hspec :), (congrArg Cq.run hspec :),
        (congrArg Cq.n hspec :)⟩
    · have hbegin := collStart_begin hgo hps hn rfl hperm rfl hb hv hout hw
      refine ⟨congrArg Host.Outcome.next hbegin, fun hop hsrc hready => ?_⟩
      obtain ⟨r, h1, h2, h3, h4, h5, hsend⟩ := State.collBegin_send hop hsrc hready
      exact ⟨r, h1, h2, h3, h4, h5, congrArg Host.Outcome.next (hbegin.trans hsend)⟩
  · intro p die q ch s c hr hen hfault x no data n hop hwhat hkind hsrc hsig hno hpos
    have heq := chunkReceive_recv hr hen hfault hop hwhat hkind hsrc hsig hno hpos
    dsimp only at heq
    refine ⟨fun hlen hcrc hver => congrArg Host.Outcome.next (heq.trans ?_), fun hcrc hbad => congrArg Host.Outcome.next (heq.trans ?_)⟩
    · have hgood : ¬((s.fab p).verified = true ∧ (!ch.hOk) = true) := by
        rintro ⟨h1, h2⟩
        rcases hver with h | h
        · exact not_true_of_eq_false h h1
        · rw [h] at h2
          cases h2
      refine (if_neg ?_).trans (if_neg hgood)
      rintro (h | h)
      · exact h hlen
      · exact h hcrc
    · exact (if_pos (.inr hcrc)).trans (if_neg (Nat.not_le.mpr hbad))
  · intro p die q ch s c hr hen hfault x
    refine ⟨fun hwhat hop hk hready hsrc hsig => ?_, fun hwhat hkind hw => ?_, fun e hwhat hkind hw he => ?_⟩
    · obtain ⟨t, ht, hcq, hmem⟩ := chunkReceive_ready hr hen hfault hop hwhat hk hready hsrc hsig
      exact ⟨t, congrArg Host.Outcome.next ht, hcq, hmem⟩
    · exact congrArg Host.Outcome.next (chunkReceive_taken hr hkind hw hwhat)
    · exact congrArg Host.Outcome.next (chunkReceive_again hr hkind hw hwhat he)
  · intro p die q ch s hwhat hkind hver hcrc hperm
    obtain ⟨t, ht, hrest⟩ := chunkReceive_forward hwhat hkind hver hcrc hperm
    exact ⟨t, congrArg Host.Outcome.next ht, hrest⟩
  · intro p die q peer s hen
    obtain ⟨hopen, hfaulted⟩ := collAbort_eq (p := p) (die := die) (q := q) (peer := peer) hen
    refine ⟨fun h => ?_, fun h => congrArg Host.Outcome.next (hfaulted h)⟩
    have hspec := s.collFault_spec p die q 0x31 peer 0
    exact ⟨_, congrArg Host.Outcome.next (hopen h), (congrArg Cq.fault hspec :), (congrArg Cq.run hspec :), (congrArg Cq.n hspec :)⟩
  · intro p die q s c hr x hk hstaged houts hstages ends
    have hall : ¬(c.outs < ceilDiv (x.outItems (s.dom.count x.span) * x.outBytes) (2 ^ (16 + x.clog)) ∨
        c.stage < (s.dom.stages die x c.dbl).length ∨ c.staged ≠ [] ∨ (x.op = 3 ∧ c.lo.k = 0)) := by
      rintro (h | h | h | ⟨h1, h2⟩)
      · exact absurd houts (Nat.not_le.mpr h)
      · exact absurd hstages (Nat.not_le.mpr h)
      · exact h hstaged
      · exact hk h1 h2
    exact ⟨fun hd => congrArg Host.Outcome.next (collComplete_quiet hr hall hd),
      fun i hd hroom => congrArg Host.Outcome.next (collComplete_signals hr hall hd hroom)⟩
  · intro k s d ws rest hq hd hf f ps sent
    let t : State := s.updFwd k (fun f => { f with
      queue := rest, count := f.count + 1, staged := f.staged ++ [{ dst := f.peer, no := (s.fwd k).count % 2 ^ 32, pieces := ps }] })
    have hfwd : t.fwd k = { f with queue := rest, count := f.count + 1, staged := f.staged ++ [sent] } := s.fwd_updFwd k _
    have hmem : t.mem = s.mem := rfl
    have hsent := forwardDrain_some hq hd hf
    exact ⟨t, hfwd, hmem, congrArg Host.Outcome.next hsent⟩

end Sys2Proof.Machine
end

section
/-!
Marigold: the risk sum, failures, quarantine, audits, poison and the risk estimate (R354 to R356, R360 to R368).
-/

namespace Sys2Proof.Machine

/-! ### The risk sum and failures (R361, R365, R367) -/

/-- A weight in the risk sum touches nothing but the sum. -/
theorem State.addRisk_only (s : State) (n : Nat) : s.addRisk n = { s with health := (s.addRisk n).health } := by
  unfold addRisk
  rfl

theorem State.fox_addRisk (s : State) (w n : Nat) : (s.addRisk w).fox n = s.fox n := by
  unfold fox
  rw [addRisk_only]

theorem State.launch_addRisk (s : State) (w key : Nat) : (s.addRisk w).launch key = s.launch key := by
  unfold launch
  rw [addRisk_only]

theorem State.report_new {s : State} {kind n : Nat} (h : s.health.faulty.contains (kind, n) = false) :
    s.report kind n = { s with health := { s.health with faulty := s.health.faulty ++ [(kind, n)] } } :=
  if_neg (not_true_of_eq_false h)

theorem State.unitFails_new {s : State} {k : UnitKind} {n : Nat} (hk : k ∈ [UnitKind.core, .fox, .prim])
    (h : s.health.faulty.contains (unitCode k, n) = false) : s.unitFails k n =
      { s with health := { s.health with e := s.health.e + 16384 * 2 ^ 32, faulty := s.health.faulty ++ [(unitCode k, n)] } } := by
  have hreport : s.unitFails k n = (s.report (unitCode k) n).addRisk 16384 := by
    simp only [List.mem_cons, List.not_mem_nil, or_false] at hk
    rcases hk with rfl | rfl | rfl
    · rfl
    · rfl
    · rfl
  rw [hreport, report_new h]
  rfl

/-! ### Work that must run again (R360) -/

/-- What runs on a Foxglove unit stops: its item counts as ended, and its share is asked for again. -/
theorem State.replayUnit_fox {v : State} {n key : Nat} {l : Launch} {i : FoxItem} (hf : (v.fox n).launch = some key) (hl : v.launch key = some l)
    (hstep : l.step = none) (hi : (v.fox n).item = some i) (hkey : i.launch = key) :
    ∃ l' : Launch, (v.replayUnit .fox n).health = v.health ∧ ((v.replayUnit .fox n).fox n).item = none ∧
      (v.replayUnit .fox n).launch key = some l' ∧ (n, 0) ∈ l'.again ∧ l'.ended = l.ended + 1 := by
  let w := if i.phase = 2 then v.unpin i.map else v
  have hw : w.health = v.health ∧ w.foxes = v.foxes ∧ w.launches = v.launches := by
    unfold w
    split
    · exact ⟨rfl, rfl, rfl⟩
    · exact ⟨rfl, rfl, rfl⟩
  obtain ⟨hwh, hwf, hwl⟩ := hw
  let u := (w.updLaunch i.launch (fun l => { l with ended := l.ended + 1 })).updFox n (fun f => { f with item := none })
  have hhalt : v.haltUnit .fox n = u := by
    unfold haltUnit
    dsimp only
    rw [hi]
  have hul : u.launch key = some { l with ended := l.ended + 1 } := by
    have hlw : w.launch key = some l := by
      unfold launch
      rw [hwl]
      exact hl
    subst hkey
    exact State.launch_updLaunch hlw (fun l => { l with ended := l.ended + 1 })
  have hreplay : v.replayUnit .fox n =
      u.updLaunch key (fun l => { l with again := if l.again.contains (n, 0) then l.again else l.again ++ [(n, 0)] }) := by
    have hunit : (v.unitAt .fox n).1 = some key := hf
    unfold replayUnit
    dsimp only
    rw [hunit]
    dsimp only
    rw [hhalt]
    unfold mustReplay
    rw [hul]
    exact if_neg (by rw [hstep]; exact Bool.false_ne_true)
  rw [hreplay]
  refine ⟨_, hwh, ?_, State.launch_updLaunch hul _, ?_, rfl⟩
  · have hfox : u.fox n = _ := State.fox_updFox (w.updLaunch i.launch (fun l => { l with ended := l.ended + 1 })) n (fun f => { f with item := none })
    exact congrArg Fox.item hfox
  · dsimp only
    split
    next hin => exact List.contains_iff_mem.mp hin
    next => exact List.mem_append_right _ (List.mem_singleton.mpr rfl)

/-! ### Quarantine (R364) -/

/-- What Marigold and the board know. -/
def State.known (s : State) : Health × Board := (s.health, s.board)

theorem State.haltCtx_known (s : State) (c x : Nat) : (s.haltCtx c x).known = s.known := by
  unfold haltCtx
  dsimp only
  split
  · rfl
  · rfl

theorem State.mustReplay_known (s : State) (key n x : Nat) : (s.mustReplay key n x).known = s.known := by
  unfold mustReplay
  split
  · rfl
  · split
    · rfl
    · rfl

theorem State.replayCore_known (s : State) (n : Nat) : (s.replayUnit .core n).known = s.known := by
  unfold replayUnit
  refine foldl_keeps State.known _ (fun u x => ?_) (List.range 4) s
  split
  · exact (State.mustReplay_known ..).trans (State.haltCtx_known ..)
  · rfl

theorem State.emptyCore_known (s : State) (n : Nat) : ((s.reclaimCore n).emptyCore n).known = s.known := by
  unfold emptyCore
  dsimp only
  split
  · rw [giveCore_only]
    rfl
  · rfl

theorem State.freeSpare_congr {u v : State} (hf : u.health.fenced = v.health.fenced) (hm : u.health.map = v.health.map) (kind die : Nat) :
    u.freeSpare kind die = v.freeSpare kind die := by
  unfold freeSpare physical
  rw [hf, hm]

theorem State.mapUnits_map (kind v n : Nat) (ns : List Nat) (s : State) (h : n ∈ ns ∨ oget s.health.map (1024 * kind + n) = some v) :
    oget (ns.foldl (fun s i => s.mapUnit kind i v) s).health.map (1024 * kind + n) = some v := by
  induction ns generalizing s with
  | nil => exact h.resolve_left List.not_mem_nil
  | cons i ns ih =>
    refine ih _ ?_
    have hmap : oget (s.mapUnit kind i v).health.map (1024 * kind + n) =
        if 1024 * kind + n = 1024 * kind + i then some v else oget s.health.map (1024 * kind + n) := oget_tins ..
    by_cases hi : n = i
    · right
      rw [hmap, if_pos (by rw [hi])]
    · rw [hmap, if_neg (by omega)]
      rcases h with h | h
      · exact .inl ((List.mem_cons.mp h).resolve_left hi)
      · exact .inr h

/-- The unit is fenced and no longer reported, before its work moves. -/
def State.fence (s : State) (n : Nat) : State :=
  { s with
    health := { s.health with faulty := s.health.faulty.filter (fun f => !(f.1 == 0 && (s.numbersOn 0 (s.physical 0 n)).contains f.2)),
                              fenced := s.health.fenced ++ [(0, s.physical 0 n)], history := s.health.history ++ [(0, s.physical 0 n)] }
    board := { s.board with quar := true } }

/-- The state in which a fenced core's work has been stopped. -/
def State.fenced (s : State) (n : Nat) : State :=
  let s1 := (s.fence n).eventAll 0x21 (0 + 2 ^ 4 * n + 2 ^ 12 * s.physical 0 n)
  let s2 := (s.numbersOn 0 (s.physical 0 n)).foldl (fun s i => s.replayUnit .core i) s1
  (s2.reclaimCore n).emptyCore n

theorem State.fenced_known (s : State) (n : Nat) : (s.fenced n).known = (s.fence n).known := by
  unfold fenced
  extract_lets s1 s2
  have h1 : s1.known = (s.fence n).known := by
    obtain ⟨mb, hmb⟩ := (s.fence n).eventAll_only 0x21 (0 + 2 ^ 4 * n + 2 ^ 12 * s.physical 0 n)
    unfold s1
    rw [hmb]
    rfl
  have h2 : s2.known = s1.known := foldl_keeps State.known (fun (s : State) i => s.replayUnit .core i) (fun u i => u.replayCore_known i) _ s1
  exact (s2.emptyCore_known n).trans (h2.trans h1)

theorem quarantine_core {s : State} {n : Nat} (h : s.health.faulty.contains (0, n) = true) : quarantine .core n s =
    match (s.fenced n).freeSpare 0 (dieOfUnit 0 n) with
    | none => (s.fenced n).failModule
    | some v =>
      let t := (s.numbersOn 0 (s.physical 0 n)).foldl (fun s i => s.mapUnit 0 i v) (s.fenced n)
      if t.sparesLeft 0 (dieOfUnit 0 n) = 0 then t.eventAll 0x23 (0 + 2 ^ 4 * dieOfUnit 0 n) else t := by
  unfold quarantine
  exact if_neg (by show ¬(!s.health.faulty.contains (0, n)) = true; rw [h]; exact Bool.false_ne_true)

/-- Units move to a spare: nothing but the map changes. -/
theorem State.mapUnits_known (v : Nat) (ns : List Nat) (s : State) :
    let t := ns.foldl (fun s i => s.mapUnit 0 i v) s
    t.health.fenced = s.health.fenced ∧ t.health.faulty = s.health.faulty ∧ t.health.failed = s.health.failed ∧ t.board = s.board := by
  have h := foldl_keeps (fun s : State => (s.health.fenced, s.health.faulty, s.health.failed, s.board)) (fun (s : State) i => s.mapUnit 0 i v)
    (fun _ _ => rfl) ns s
  simpa only [Prod.mk.injEq] using h

theorem State.eventAll_known (s : State) (n d : Nat) : (s.eventAll n d).known = s.known := by
  obtain ⟨mb, hmb⟩ := s.eventAll_only n d
  rw [hmb]
  rfl

theorem quarantine_core_spec {s : State} {n : Nat} (hn : n < 128) (h : s.health.faulty.contains (0, n) = true) :
    let u := s.physical 0 n
    let f : State := { s with health := { s.health with fenced := s.health.fenced ++ [(0, u)] } }
    let t := quarantine .core n s
    (0, u) ∈ t.health.fenced ∧ t.board.quar = true ∧ (0, n) ∉ t.health.faulty ∧ (f.freeSpare 0 (n / 64) = none → t.health.failed = true) ∧
      ∀ v, f.freeSpare 0 (n / 64) = some v → t.physical 0 n = v ∧ t.health.failed = s.health.failed := by
  intro u f t
  have hmem : n ∈ s.numbersOn 0 u := List.mem_filter.mpr ⟨List.mem_range.mpr hn, decide_eq_true rfl⟩
  have hq : t = _ := quarantine_core h
  have hknown := s.fenced_known n
  have hhealth : (s.fenced n).health = (s.fence n).health := congrArg Prod.fst hknown
  have hboard : (s.fenced n).board = (s.fence n).board := congrArg Prod.snd hknown
  have hfenced : (0, u) ∈ (s.fenced n).health.fenced := by
    rw [hhealth]
    exact List.mem_append_right _ (List.mem_singleton.mpr rfl)
  have hquar : (s.fenced n).board.quar = true := by
    rw [hboard]
    rfl
  have hfaulty : (0, n) ∉ (s.fenced n).health.faulty := by
    rw [hhealth]
    intro hin
    have hnot := (List.mem_filter.mp hin).2
    rw [List.contains_iff_mem.mpr hmem] at hnot
    cases hnot
  have hfailed : (s.fenced n).health.failed = s.health.failed := (congrArg Health.failed hhealth :)
  have hspare : (s.fenced n).freeSpare 0 (dieOfUnit 0 n) = f.freeSpare 0 (n / 64) :=
    State.freeSpare_congr (congrArg Health.fenced hhealth) (congrArg Health.map hhealth) 0 (n / 64)
  clear_value t
  generalize s.fenced n = w at hq hfenced hquar hfaulty hfailed hspare
  rw [hspare] at hq
  cases hv : f.freeSpare 0 (n / 64) with
  | none =>
    rw [hv] at hq
    rw [hq]
    exact ⟨hfenced, hquar, hfaulty, fun _ => rfl, fun v hv => by cases hv⟩
  | some v =>
    rw [hv] at hq
    obtain ⟨hmf, hmfa, hmfd, hmb⟩ := State.mapUnits_known v (s.numbersOn 0 (s.physical 0 n)) w
    have hmap := State.mapUnits_map 0 v n (s.numbersOn 0 (s.physical 0 n)) w (.inl hmem)
    dsimp only at hq
    generalize (s.numbersOn 0 (s.physical 0 n)).foldl (fun s i => s.mapUnit 0 i v) w = x at hq hmf hmfa hmfd hmb hmap
    have hx : t.known = x.known := by
      rw [hq]
      split
      · exact State.eventAll_known ..
      · rfl
    have hth : t.health = x.health := congrArg Prod.fst hx
    have htb : t.board = x.board := congrArg Prod.snd hx
    refine ⟨?_, ?_, ?_, (nomatch ·), fun v' hv' => ?_⟩
    · rw [hth, hmf]
      exact hfenced
    · rw [htb, hmb]
      exact hquar
    · rw [hth, hmfa]
      exact hfaulty
    · cases hv'
      refine ⟨?_, by rw [hth, hmfd, hfailed]⟩
      unfold State.physical
      rw [hth, hmap]
      rfl

/-! ### Audits (R354 to R356) -/

section
variable {key u : Nat} {l : Launch} {s : State} (hl : s.launch key = some l)
include hl

theorem auditStart_unpicked (hp : l.picked u = false) : auditStart key u s = s := by
  unfold auditStart
  rw [hl]
  exact if_pos (.inr (.inr (.inr (.inl (by rw [hp]; rfl)))))

theorem auditStart_ready (hst : l.started = true) (hk : l.killed = false) (hu : u < l.e.total) (hp : l.picked u = true)
    (hsk : l.skips.contains u = false) (ha : l.audits.any (fun a => a.1 == u) = false) (hag : l.again = []) (hend : s.unitEnded key l u = true)
    (hd : s.shareDone key l (l.engineList.getD ((l.ranOn u + 1) % max 1 l.engineList.length) 0) = true) :
    auditStart key u s = s.updLaunch key (fun l => { l with audits := l.audits ++ [(u, false)] }) := by
  unfold auditStart
  rw [hl]
  refine if_neg ?_
  rw [hst, hk, hp, hsk, ha, hag, hend, hd]
  simpa using hu

theorem auditComplete_equal (ha : (u, false) ∈ l.audits) (hpin : oget l.pins u = none) (d third : W64) :
    auditComplete key u d d third s = (s.countAudits 1).updLaunch key (fun l =>
      { l with audits := l.audits.map (fun a => if a.1 = u then (u, true) else a), pins := tdrop l.pins u }) := by
  have hgo : ¬(!l.audits.contains (u, false)) = true := by
    rw [List.contains_iff_mem.mpr ha]
    exact Bool.false_ne_true
  have hdone : (s.countAudits 1).auditDone key u l = (s.countAudits 1).updLaunch key (fun l =>
      { l with audits := l.audits.map (fun a => if a.1 = u then (u, true) else a), pins := tdrop l.pins u }) := by
    unfold State.auditDone
    rw [hpin]
  unfold auditComplete
  rw [hl]
  exact (if_neg hgo).trans ((if_pos rfl).trans hdone)

theorem auditComplete_differ (ha : (u, false) ∈ l.audits) {d e third : W64} (hde : d ≠ e) (htd : third ≠ d) (hte : third ≠ e) (hstep : l.step = none) :
    auditComplete key u d e third s =
      ((((({ s with health := { s.health with auditMiss := s.health.auditMiss + 1 } } : State).addRisk 16384).countAudits
        (if l.engineList.length < 3 then 1 else 2)).report l.k.kind (l.engineList.getD (l.ranOn u) 0)).report l.k.kind
          (l.engineList.getD ((l.ranOn u + 1) % l.engineList.length) 0)) := by
  have hgo : ¬(!l.audits.contains (u, false)) = true := by
    rw [List.contains_iff_mem.mpr ha]
    exact Bool.false_ne_true
  unfold auditComplete
  rw [hl]
  refine (if_neg hgo).trans ((if_neg hde).trans ((if_neg (by rw [hstep]; exact Bool.false_ne_true)).trans ?_))
  exact (if_neg fun h => htd h.2).trans (if_neg fun h => hte h.2)

end

theorem State.report_spec (s : State) (kind n : Nat) : (s.report kind n).health.auditMiss = s.health.auditMiss ∧
    (s.report kind n).health.e = s.health.e ∧ (s.report kind n).health.faulty.contains (kind, n) = true ∧
    ∀ x, s.health.faulty.contains x = true → (s.report kind n).health.faulty.contains x = true := by
  unfold report
  split
  next h => exact ⟨rfl, rfl, h, fun _ hx => hx⟩
  next => 
    refine ⟨rfl, rfl, ?_, fun x hx => ?_⟩
    · exact List.contains_iff_mem.mpr (List.mem_append_right _ (List.mem_singleton.mpr rfl))
    · exact List.contains_iff_mem.mpr (List.mem_append_left _ (List.contains_iff_mem.mp hx))

/-- A difference counts, and its weight enters the sum. -/
theorem State.missed_spec (s : State) (n : Nat) :
    let w := (({ s with health := { s.health with auditMiss := s.health.auditMiss + 1 } } : State).addRisk 16384).countAudits n
    w.health.auditMiss = s.health.auditMiss + 1 ∧ w.health.e = s.health.e + 16384 * 2 ^ 32 := ⟨rfl, rfl⟩

theorem audits_closed {u : Nat} {as : List (Nat × Bool)} (h : (u, false) ∈ as) :
    (u, true) ∈ as.map (fun a => if a.1 = u then (u, true) else a) ∧ (u, false) ∉ as.map (fun a => if a.1 = u then (u, true) else a) := by
  refine ⟨List.mem_map.mpr ⟨(u, false), h, if_pos rfl⟩, fun hm => ?_⟩
  obtain ⟨a, -, ha⟩ := List.mem_map.mp hm
  by_cases hu : a.1 = u
  · rw [if_pos hu] at ha
    cases ha
  · rw [if_neg hu] at ha
    rw [ha] at hu
    exact hu rfl

/-! ### A share begins again (R360) -/

/-- What a share that begins again leaves: memory, and the launch but for what the share counted. -/
theorem tileReplay_spec {key n x : Nat} {l : Launch} {s t : State} (hl : s.launch key = some l) (hag : l.again.contains (n, x) = true)
    (ht : t = tileReplay key n x s) :
    ∃ l' : Launch, t.mem = s.mem ∧ t.launch key = some l' ∧ l'.again = l.again.filter (· ≠ (n, x)) ∧
      (engineKind l.k.kind = .core → l.e.winu = 0 → t.ctx n x = { Ctx.give key l n x with k := x }) := by
  have hgo : ¬(!l.again.contains (n, x)) = true := by
    rw [hag]
    exact Bool.false_ne_true
  let l1 : Launch := { l with again := l.again.filter (· ≠ (n, x)) }
  have h1 : (s.updLaunch key (fun l => { l with again := l.again.filter (· ≠ (n, x)) })).launch key = some l1 := State.launch_updLaunch hl _
  unfold tileReplay at ht
  rw [hl] at ht
  replace ht := ht.trans (if_neg hgo)
  extract_lets u es j kc i0 i src s2 rs mine2 left n1a v s1 n1 mine1 mine0 s0 at ht
  have hlast : ∀ {w : State} {f : Launch → Launch}, t = w.updLaunch key f → w.mem = s.mem → w.launch key = some l1 → (∀ l, (f l).again = l.again) →
      t.ctxs = w.ctxs ∧ t.mem = s.mem ∧ t.launch key = some (f l1) ∧ (f l1).again = l.again.filter (· ≠ (n, x)) := by
    intro w f ht hm hv hf
    subst ht
    exact ⟨rfl, hm, State.launch_updLaunch hv f, hf l1⟩
  have hsame : ∀ {w : State}, t.ctxs = w.ctxs → t.ctx n x = w.ctx n x := fun h => congrArg (fun cs => tget (fun _ => Ctx.reset) cs (4 * n + x)) h
  have h2m : s2.mem = s.mem := rfl
  have h2l : s2.launch key = some l1 := h1
  have h2c : s2.ctx n x = { Ctx.give key l n i with k := i } := State.ctx_setCtx ..
  have hi : l.e.winu = 0 → i = x := fun hw => (if_pos hw).trans (if_pos hw)
  have h1m : s1.mem = s2.mem := rfl
  have h1l : s1.launch key = s2.launch key := rfl
  have h1c : s1.ctx n x = s2.ctx n x := rfl
  have h0 : s0.mem = u.mem ∧ s0.launches = u.launches := by
    have h := foldl_keeps (fun s : State => (s.mem, s.launches)) (fun (s : State) (a : Nat × Nat) => s.unpin a.2) (fun _ _ => rfl)
      (l.pins.filter (fun a => mine0 a.1)) u
    simpa only [Prod.mk.injEq] using h
  have h0m : s0.mem = s.mem := h0.1
  have h0l : s0.launch key = some l1 := (congrArg (fun ls => oget ls key) h0.2).trans h1
  clear_value i s0 s1 s2
  have hctx : l.e.winu = 0 → ({ Ctx.give key l n i with k := i } : Ctx) = { Ctx.give key l n x with k := x } := fun hw => by rw [hi hw]
  cases hk : engineKind l.k.kind with
  | core =>
    rw [hk] at ht
    dsimp only at ht
    split at ht
    · obtain ⟨hc, hm, hlk, hagain⟩ := hlast ht (h1m.trans h2m) (h1l.trans h2l) (fun _ => rfl)
      exact ⟨_, hm, hlk, hagain, fun _ hw => (hsame hc).trans (h1c.trans (h2c.trans (hctx hw)))⟩
    · obtain ⟨hc, hm, hlk, hagain⟩ := hlast ht h2m h2l (fun _ => rfl)
      exact ⟨_, hm, hlk, hagain, fun _ hw => (hsame hc).trans (h2c.trans (hctx hw))⟩
  | fox =>
    rw [hk] at ht
    obtain ⟨-, hm, hlk, hagain⟩ := hlast (w := s0.updFox n (fun f => { f with k := 0 })) ht h0m h0l (fun _ => rfl)
    exact ⟨_, hm, hlk, hagain, fun h => nomatch h⟩
  | prim =>
    rw [hk] at ht
    obtain ⟨-, hm, hlk, hagain⟩ := hlast (w := s0.updPrim n (fun q => { q with k := 0 })) ht h0m h0l (fun _ => rfl)
    exact ⟨_, hm, hlk, hagain, fun h => nomatch h⟩

/-! ### Poison (R362) -/

theorem poisonReport_idle {p a : Nat} {s : State} (hp : s.poison.contains (a / 64) = true) (hr : oget s.runs p = none) :
    poisonReport p a s = s.event p 0x24 (a % 2 ^ 48) := by
  unfold poisonReport
  dsimp only
  rw [hr]
  exact if_neg (by rw [hp]; exact Bool.false_ne_true)

section
variable {p a : Nat} {s : State} {r : Run} (hp : s.poison.contains (a / 64) = true) (hr : oget s.runs p = some r) (hin : r.inStep = true)
include hp hr hin

theorem poisonReport_run : poisonReport p a s =
    if r.poison.contains (s.stepNo p, a / 64) then
      if r.replay then s else ((s.discardStep p).event p 0x24 (a % 2 ^ 48)).endRun p 0x1B
    else (s.updRun p (fun r => { r with poison := r.poison ++ [(s.stepNo p, a / 64)] })).wantReplay p := by
  unfold poisonReport
  dsimp only
  rw [hr]
  exact (if_neg (by rw [hp]; exact Bool.false_ne_true)).trans (if_neg (by rw [hin]; exact Bool.false_ne_true))

theorem poisonReport_first (hn : r.poison.contains (s.stepNo p, a / 64) = false) :
    oget (poisonReport p a s).runs p = some { r with poison := r.poison ++ [(s.stepNo p, a / 64)], replay := true } := by
  have hrun := (poisonReport_run hp hr hin).trans (if_neg (not_true_of_eq_false hn))
  rw [hrun, State.updRun_some hr]
  exact oget_oupd_self ((oget_tins ..).trans (if_pos rfl)) _

theorem poisonReport_again (hc : r.poison.contains (s.stepNo p, a / 64) = true) (hrep : r.replay = false) :
    poisonReport p a s = ((s.discardStep p).event p 0x24 (a % 2 ^ 48)).endRun p 0x1B :=
  (poisonReport_run hp hr hin).trans ((if_pos hc).trans (if_neg (not_true_of_eq_false hrep)))

end

/-! ### The risk estimate (R367, R368) -/

theorem State.platformEvent_spec (s : State) : s.platformEvent.mem = s.mem ∧ s.platformEvent.known = s.known := by
  unfold platformEvent
  split
  · exact ⟨rfl, rfl⟩
  · exact ⟨rfl, rfl⟩

theorem State.eventAll_mem (s : State) (n d : Nat) : (s.eventAll n d).mem = s.mem := by
  obtain ⟨mb, hmb⟩ := s.eventAll_only n d
  rw [hmb]

/-- The estimate and the band, with what the same millisecond measured. -/
def State.withRisk (s : State) (risk band t vin pin : Nat) : State :=
  { s with health := { s.health with risk := risk, band := band }, board := { s.board with tmax := t, vin := vin, pin := pin } }

theorem riskUpdate_eq (t vin pin : Nat) (s : State) : riskUpdate t vin pin s =
    let risk := min 65535 (s.health.e / 2 ^ 32 + 1024 * (t - 85))
    let band := max (riskBand risk) (min 6 s.health.bandMin.toNat)
    let u := s.withRisk risk band (t % 256) (vin % 65536) (pin % 65536)
    if band = s.health.band then u else (u.eventAll 0x20 (risk + 2 ^ 16 * band)).platformEvent := rfl

theorem State.told_spec (u : State) (told : Prop) [Decidable told] (n d : Nat) :
    let v := if told then u else (u.eventAll n d).platformEvent
    v.mem = u.mem ∧ v.known = u.known := by
  intro v
  unfold v
  split
  · exact ⟨rfl, rfl⟩
  · obtain ⟨hm, hk⟩ := (u.eventAll n d).platformEvent_spec
    exact ⟨hm.trans (State.eventAll_mem ..), hk.trans (State.eventAll_known ..)⟩

theorem riskUpdate_spec (t vin pin : Nat) (s : State) :
    let risk := min 65535 (s.health.e / 2 ^ 32 + 1024 * (t - 85))
    (riskUpdate t vin pin s).mem = s.mem ∧
      (riskUpdate t vin pin s).health = { s.health with risk := risk, band := max (riskBand risk) (min 6 s.health.bandMin.toNat) } ∧
      (riskUpdate t vin pin s).board = { s.board with tmax := t % 256, vin := vin % 65536, pin := pin % 65536 } := by
  have heq := riskUpdate_eq t vin pin s
  dsimp only at heq ⊢
  rw [heq]
  generalize min 65535 (s.health.e / 2 ^ 32 + 1024 * (t - 85)) = risk
  generalize max (riskBand risk) (min 6 s.health.bandMin.toNat) = band
  generalize t % 256 = t'
  generalize vin % 65536 = vin'
  generalize pin % 65536 = pin'
  have hu : (s.withRisk risk band t' vin' pin').mem = s.mem ∧ (s.withRisk risk band t' vin' pin').known =
      ({ s.health with risk := risk, band := band }, { s.board with tmax := t', vin := vin', pin := pin' }) := ⟨rfl, rfl⟩
  generalize s.withRisk risk band t' vin' pin' = u at hu ⊢
  obtain ⟨hm, hk⟩ := u.told_spec (band = s.health.band) 0x20 (risk + 2 ^ 16 * band)
  have hknown := hk.trans hu.2
  exact ⟨hm.trans hu.1, congrArg Prod.fst hknown, congrArg Prod.snd hknown⟩

/-- Settles O54: each event of Marigold by the operation it runs. -/
theorem healthEvents : Obligations.HealthEvents := by
  unfold Obligations.HealthEvents
  refine ⟨fun s => ⟨rfl, fun k n => rfl, fun n => rfl, fun n => rfl⟩, ?_, ?_, ?_, ?_, ?_, ?_, ?_⟩
  · intro k n s hk hnew t
    have hfails := State.unitFails_new hk hnew
    refine ⟨congrArg Host.Outcome.next hfails, fun hcore hrun => ?_, fun hprim hjob => ?_⟩
    · subst hcore
      obtain ⟨x, hx, hcan⟩ := hrun
      exact congrArg Host.Outcome.next ((if_pos (List.any_eq_true.mpr ⟨x, List.mem_range.mpr hx, hcan⟩)).trans hfails)
    · subst hprim
      exact congrArg Host.Outcome.next ((if_pos hjob).trans hfails)
  · intro n key l i s hf hl hstep hi hkey
    obtain ⟨l', hh, hitem, hlk, hag, hend⟩ := State.replayUnit_fox (v := s.addRisk 8192) (n := n) (key := key) (l := l) (i := i)
      (by rw [State.fox_addRisk]; exact hf) ((s.launch_addRisk 8192 key).trans hl) hstep (by rw [State.fox_addRisk]; exact hi) hkey
    exact ⟨_, l', rfl, hh, hitem, hlk, hag, hend⟩
  · intro n s hn h u f
    exact ⟨_, rfl, quarantine_core_spec hn h⟩
  · intro key u l s hl
    refine ⟨fun hp => congrArg Host.Outcome.next (auditStart_unpicked hl hp), fun hst hk hu hp hsk ha hag hend hd =>
      congrArg Host.Outcome.next (auditStart_ready hl hst hk hu hp hsk ha hag hend hd), fun d third ha hpin => ?_,
      fun d e third ha hde htd hte hstep => ?_, fun n x hag => ?_⟩
    · obtain ⟨h1, h2⟩ := audits_closed ha
      exact ⟨_, _, congrArg Host.Outcome.next (auditComplete_equal hl ha hpin d third), rfl, State.launch_updLaunch hl _, h1, h2⟩
    · refine ⟨_, congrArg Host.Outcome.next (auditComplete_differ hl ha hde htd hte hstep), ?_⟩
      obtain ⟨hmiss, he⟩ := s.missed_spec (if l.engineList.length < 3 then 1 else 2)
      generalize State.countAudits _ _ = w at hmiss he ⊢
      obtain ⟨m1, e1, f1, -⟩ := w.report_spec l.k.kind (l.engineList.getD (l.ranOn u) 0)
      obtain ⟨m2, e2, f2, hkeep⟩ := (w.report l.k.kind (l.engineList.getD (l.ranOn u) 0)).report_spec l.k.kind
        (l.engineList.getD ((l.ranOn u + 1) % l.engineList.length) 0)
      exact ⟨m2.trans (m1.trans hmiss), e2.trans (e1.trans he), hkeep _ f1, f2⟩
    · obtain ⟨l', hm, hlk, hagain, hctx⟩ := tileReplay_spec hl hag rfl
      exact ⟨_, l', rfl, hm, hlk, hagain, hctx⟩
  · intro p a s hp
    refine ⟨fun hr => congrArg Host.Outcome.next (poisonReport_idle hp hr), fun r hr hin => ⟨fun hn => ?_, fun hc hrep => ?_⟩⟩
    · exact ⟨_, rfl, poisonReport_first hp hr hin hn⟩
    · exact congrArg Host.Outcome.next (poisonReport_again hp hr hin hc hrep)
  · intro t vin pin s risk
    exact ⟨_, rfl, riskUpdate_spec t vin pin s⟩
  · intro s
    refine ⟨_, if s.health.e = 0 then 0 else (Config.freeByte s.fresh 0).toNat % 2, ?_, rfl, fun h => if_pos h, rfl, rfl⟩
    split
    · exact Nat.zero_lt_two
    · exact Nat.mod_lt _ Nat.zero_lt_two

end Sys2Proof.Machine
end

section
/-! The Iris cores (R387 to R396): a picture starts, its slices go out, and it is done. -/

namespace Sys2Proof.Machine

/-! ### Permissions after a write -/

/-- Regions that differ in nothing that permits an access cover the same granules. -/
theorem covered_map {f : Region → Region} (h : ∀ r, (f r).baseg = r.baseg ∧ (f r).lastg = r.lastg ∧ (f r).r = r.r ∧ (f r).w = r.w ∧ (f r).x = r.x)
    (rs : List Region) (nr nw nx : Bool) (fuel g last : Nat) : covered (rs.map f) nr nw nx fuel g last = covered rs nr nw nx fuel g last := by
  induction fuel generalizing g with
  | zero => rfl
  | succ fuel ih =>
    have hp : ((fun r => decide (r.baseg ≤ g ∧ g ≤ r.lastg) && (r.r || !nr) && (r.w || !nw) && (r.x || !nx)) ∘ f) =
        (fun r : Region => decide (r.baseg ≤ g ∧ g ≤ r.lastg) && (r.r || !nr) && (r.w || !nw) && (r.x || !nx)) := by
      funext r
      obtain ⟨hb, hl, hr, hw, hx⟩ := h r
      simp only [Function.comp_apply, hb, hl, hr, hw, hx]
    rw [covered, covered, List.find?_map, hp]
    cases List.find? _ rs with
    | none => rfl
    | some r =>
      obtain ⟨-, hl, -⟩ := h r
      dsimp only [Option.map_some]
      rw [hl, ih]

/-- Storing bytes changes no permission. -/
theorem State.permits_write (s : State) (a : Nat) (bs : List Byte) (p b n : Nat) (r w x : Bool) :
    (s.write a bs).permits p b n r w x = s.permits p b n r w x := by
  unfold write
  split
  · rfl
  · let f : Region → Region := fun r =>
      if r.tobj ∧ r.baseg ≤ (a + bs.length - 1) / granule ∧ a / granule ≤ r.lastg then { r with dirty := true } else r
    have hf : ∀ r, (f r).baseg = r.baseg ∧ (f r).lastg = r.lastg ∧ (f r).r = r.r ∧ (f r).w = r.w ∧ (f r).x = r.x := by
      intro r
      dsimp only [f]
      split <;> exact ⟨rfl, rfl, rfl, rfl, rfl⟩
    have hof : (markDirty s.regions a bs.length).filterMap (fun (k, r) => if k / 1024 = p then some r else none) = (s.regionsOf p).map f := by
      rw [regionsOf, markDirty, List.filterMap_map, List.map_filterMap]
      refine List.filterMap_congr fun q _ => ?_
      exact (apply_ite (Option.map f) (q.1 / 1024 = p) (some q.2) none).symm
    refine congrArg (decide (0 < n) && mappedSpan b n && ·) ?_
    exact (congrArg (covered · r w x 1025 (b / granule) ((b + n - 1) / granule)) hof).trans (covered_map hf ..)

/-- Storing spans changes no permission. -/
theorem State.permits_writes (s : State) (ws : List (Nat × List Byte)) (p b n : Nat) (r w x : Bool) :
    (s.writes ws).permits p b n r w x = s.permits p b n r w x :=
  foldl_keeps (fun t : State => t.permits p b n r w x) (fun t (v : Nat × List Byte) => t.write v.1 v.2) (fun _ _ => permits_write ..) ws s

theorem wordsLe_length (ws : List W64) : (wordsLe ws).length = 8 * ws.length := by
  induction ws with
  | nil => rfl
  | cons w ws ih =>
    refine (List.length_append (as := toLe 8 w.toNat) (bs := wordsLe ws)).trans ?_
    rw [toLe_length, ih, List.length_cons]
    omega

/-! ### What storing and signalling leave of the cores -/

/-- Everything but the Iris sessions and cores, the mailboxes and the journal. -/
def State.sansIris (s : State) : State := { s with iris := [], icores := [], mbxs := [], journal := [] }

theorem State.icores_write (s : State) (a : Nat) (bs : List Byte) : (s.write a bs).icores = s.icores :=
  (congrArg State.icores (write_only s a bs) :)

theorem State.iris_write (s : State) (a : Nat) (bs : List Byte) : (s.write a bs).iris = s.iris :=
  (congrArg State.iris (write_only s a bs) :)

/-- A semaphore that is signalled, where the descriptor names one, changes neither cores nor sessions nor memory. -/
theorem State.signal_iris {s t : State} {o : Option (Nat × Nat)} {c : Nat → Prop} [∀ i, Decidable (c i)] {p : Nat}
    (ht : t = match o with | some (d, i) => if c i then s.signalOr p d i 1 else s | none => s) :
    t.icores = s.icores ∧ t.iris = s.iris ∧ t.mem = s.mem := by
  subst ht
  cases o with
  | none => exact ⟨rfl, rfl, rfl⟩
  | some di =>
    obtain ⟨d, i⟩ := di
    dsimp only
    split
    · exact ⟨(congrArg State.icores (signalOr_only s p d i 1) :), (congrArg State.iris (signalOr_only s p d i 1) :),
        (congrArg State.mem (signalOr_only s p d i 1) :)⟩
    · exact ⟨rfl, rfl, rfl⟩

/-! ### The record, and the end of a session (R390, R395) -/

theorem IrisSess.record_length (x : IrisSess) (p : IrisPic) (status bytes : Nat) (first : Bool) : (x.record p status bytes first).length = 64 :=
  wordsLe_length _

/-- A session that does not close stays; ending one completes its command, which changes no core and no memory. -/
theorem State.settleIris_spec (s : State) (h : Nat) :
    (s.settleIris h).icores = s.icores ∧ (s.settleIris h).mem = s.mem ∧
      ∀ y, oget s.iris h = some y → y.closing = none → s.settleIris h = s := by
  unfold settleIris
  split
  next hnone => exact ⟨rfl, rfl, fun _ _ _ => rfl⟩
  next x hx =>
    split
    next => exact ⟨rfl, rfl, fun _ _ _ => rfl⟩
    next m tag hc =>
      extract_lets s1
      have hno : ∀ y : IrisSess, oget s.iris h = some y → ¬y.closing = none := fun y hy hn => by
        rw [Option.some.inj (hx.symm.trans hy), hn] at hc
        cases hc
      split
      next c _ =>
        exact ⟨(congrArg State.icores (complete_sansMail s1 c 0 false 0 0) :), (congrArg State.mem (complete_sansMail s1 c 0 false 0 0) :),
          fun y hy hn => absurd hn (hno y hy)⟩
      next => exact ⟨rfl, rfl, fun y hy hn => absurd hn (hno y hy)⟩

/-! ### A picture starts (R387, R389, R391) -/

/-- The core of the session holds the picture, the session's place stays, and memory is as it was. -/
theorem State.startPicture_spec {s : State} {h : Nat} {x : IrisSess} (hx : oget s.iris h = some x) (n : Nat) (ws : List W64) :
    ∃ (p : IrisPic) (y : IrisSess), (s.startPicture h n ws).mem = s.mem ∧ ((s.startPicture h n ws).icore x.core).pic = some p ∧ p.sess = h ∧ p.n = n ∧
      p.words = ws ∧ p.rows = 0 ∧ p.repeated = false ∧ (s.irisRefused x ws = true → p.status = 4) ∧
      oget (s.startPicture h n ws).iris h = some y ∧ y.n = x.n := by
  generalize ht : s.startPicture h n ws = t
  unfold startPicture at ht
  rw [hx] at ht
  dsimp -zeta only at ht
  extract_lets lines irap status p s1 s2 at ht
  have hevent : t = s2 ∨ ∃ a, t = s2.event x.part 0x24 a := by
    subst ht
    split
    · cases lines with
      | none => exact .inl rfl
      | some r => exact .inr ⟨_, rfl⟩
    · exact .inl rfl
  have honly : t.mem = s2.mem ∧ t.icores = s2.icores ∧ t.iris = s2.iris := by
    obtain rfl | ⟨a, rfl⟩ := hevent
    · exact ⟨rfl, rfl, rfl⟩
    · exact ⟨(congrArg State.mem (event_only s2 x.part 0x24 a) :), (congrArg State.icores (event_only s2 x.part 0x24 a) :),
        (congrArg State.iris (event_only s2 x.part 0x24 a) :)⟩
  obtain ⟨hmem, hcores, hiris⟩ := honly
  refine ⟨p, _, hmem, ?_, rfl, rfl, rfl, rfl, rfl, fun hr => if_pos hr, (congrArg (oget · h) hiris).trans (oget_oupd_self hx _), rfl⟩
  exact (congrArg (fun c => (tget (fun _ => IrisCore.reset) c x.core).pic) hcores).trans (congrArg IrisCore.pic (icore_updIcore s1 x.core _))

/-- What reading its next descriptor makes of session `y`, whose parameters are those of `x`. -/
def State.readBy (s : State) (x y : IrisSess) : IrisSess := { y with
  n := y.n + 1
  hist := y.hist ++ wordsLe (s.irisDesc x) ++ (if s.irisRefused x (s.irisDesc x) then [] else s.sourceBytes x (s.irisDesc x)) }

/-- The one session of a free core has a descriptor to start. -/
theorem irisStart_descriptor {k h : Nat} {x : IrisSess} {s : State} (hs : s.iris = [(h, x)]) (hk : x.core = k) (hfree : (s.icore k).pic = none)
    (ho : s.workOpen = true) (hr : s.irisReady x = true) (hg : x.group = 0) (hgop : x.gop ≠ 2) :
    irisStart k s = ((s.updIcore k (fun c => { c with turn := h + 1 })).updIris h (fun y => { y with
      n := y.n + 1
      hist := y.hist ++ wordsLe (s.irisDesc x) ++ (if s.irisRefused x (s.irisDesc x) then [] else s.sourceBytes x (s.irisDesc x)) })).startPicture
        h x.n (s.irisDesc x) := by
  have hmine : s.iris.filter (fun (_, x) => x.core = k) = [(h, x)] := by rw [hs]; exact List.filter_cons_of_pos (decide_eq_true hk)
  have hfind : (([(h, x)].filter (fun (q : Nat × IrisSess) => decide ((s.icore k).turn ≤ q.1)) ++
      [(h, x)].filter (fun q => decide (q.1 < (s.icore k).turn))).find? (fun q => s.irisReady q.2)) = some (h, x) := by
    rcases Nat.lt_or_ge h (s.icore k).turn with hlt | hge
    · rw [List.filter_cons_of_neg (by simp; omega), List.filter_cons_of_pos (by simpa using hlt)]
      exact List.find?_cons_of_pos hr
    · rw [List.filter_cons_of_pos (by simpa using hge)]
      exact List.find?_cons_of_pos hr
  unfold irisStart
  rw [if_neg (by rw [hfree, ho]; decide)]
  dsimp only
  rw [hmine]
  refine Eq.trans (congrArg (fun o : Option (Nat × IrisSess) => match o with
    | none => s
    | some (h, x) => if 0 < x.group then (s.updIcore k (fun c => { c with turn := h + 1 })).startHeld h
      else (s.updIcore k (fun c => { c with turn := h + 1 })).readDescriptor h x) hfind) ?_
  exact (if_neg (by omega)).trans (if_pos (.inr (.inl hgop)))

theorem irisStart_busy {k : Nat} {s : State} (h : (s.icore k).pic.isSome = true) : irisStart k s = s := if_pos (.inl h)

theorem irisStart_unready {k h : Nat} {x : IrisSess} {s : State} (hs : s.iris = [(h, x)]) (hr : s.irisReady x = false) : irisStart k s = s := by
  unfold irisStart
  split
  · rfl
  · dsimp only
    rw [List.find?_eq_none.mpr fun q hq => ?_]
    have hmem : q ∈ s.iris := by
      rcases List.mem_append.mp hq with h1 | h1 <;> exact List.mem_of_mem_filter (List.mem_of_mem_filter h1)
    rw [hs] at hmem
    rw [List.mem_singleton.mp hmem]
    exact not_true_of_eq_false hr

/-! ### Slices go out (R396) -/

section
variable {k : Nat} {p : IrisPic} {x : IrisSess} {s : State} (hp : (s.icore k).pic = some p) (hx : oget s.iris p.sess = some x)
include hp hx

theorem irisRow_more (h0 : p.status = 0) (hr : p.rows < x.picRows p) :
    irisRow k s = s.updIcore k (fun c => { c with pic := some { p with rows := p.rows + 1 } }) := by
  unfold irisRow
  rw [hp]
  dsimp only
  rw [hx]
  exact if_pos ⟨h0, hr⟩

theorem irisSlice_ready (hsub : x.subf = true) (hdec : x.dec = false) (h0 : p.status = 0) (hsl : p.slices < x.slices)
    (hrows : Min.min x.rows ((p.slices + 1) * x.perSlice) ≤ p.rows) :
    (bits (dw p.words 5) 0 32 < p.prog + x.num p.hist (16 + p.slices) →
      irisSlice k s = s.updIcore k (fun c => { c with pic := some { p with status := 1 } })) ∧
    (p.prog + x.num p.hist (16 + p.slices) ≤ bits (dw p.words 5) 0 32 → p.told ≤ p.slices → ∃ u : State,
      irisSlice k s = u.updIcore k (fun c => { c with pic := some { p with
        prog := p.prog + x.num p.hist (16 + p.slices), slices := p.slices + 1, told := p.slices + 1 } }) ∧
      u.mem = ((s.write (bits (dw p.words 4) 0 48 + p.prog) (x.out p 0 p.prog (x.num p.hist (16 + p.slices)))).write (x.recAt p + 0x20)
        (toLe 8 (p.prog + x.num p.hist (16 + p.slices)))).mem) := by
  have hgate : ¬(!x.subf ∨ x.dec ∨ p.status ≠ 0 ∨ x.slices ≤ p.slices ∨ p.rows < min x.rows ((p.slices + 1) * x.perSlice)) := by
    rintro (h | h | h | h | h)
    · rw [hsub] at h; cases h
    · rw [hdec] at h; cases h
    · exact h h0
    · omega
    · omega
  generalize ht : irisSlice k s = t
  unfold irisSlice at ht
  rw [hp] at ht
  dsimp -zeta only at ht
  rw [hx] at ht
  dsimp -zeta only at ht
  rw [if_neg hgate] at ht
  refine ⟨fun hlong => ht.symm.trans (if_pos hlong), fun hfit htold => ?_⟩
  rw [if_neg (Nat.not_lt.mpr hfit)] at ht
  extract_lets s1 q s2 s3 at ht
  obtain ⟨hcores, -, hmem⟩ := State.signal_iris (s := s2) (t := s3) (o := semField (dw p.words 9)) (c := fun _ => p.told ≤ p.slices) (p := x.part) rfl
  have hs2 : s2 = s1.write (x.recAt p + 0x20) (toLe 8 q.prog) := if_pos htold
  have hq : q = { p with prog := p.prog + x.num p.hist (16 + p.slices), slices := p.slices + 1, told := p.slices + 1 } :=
    congrArg (fun n => ({ p with prog := p.prog + x.num p.hist (16 + p.slices), slices := p.slices + 1, told := n } : IrisPic))
      (Nat.max_eq_right (by omega))
  refine ⟨s3, ?_, hmem.trans (congrArg State.mem hs2)⟩
  rw [← ht, hq]

/-! ### A picture is done (R390, R391) -/

theorem irisDone_spec {t : State} (ht : irisDone k s = t)
    (hdone : p.status ≠ 0 ∨ x.picRows p ≤ p.rows ∧ (x.subf = false ∨ x.dec = true ∨ x.slices ≤ p.slices)) :
    (t.icores = tput (fun _ => IrisCore.reset) s.icores k { s.icore k with
      pic := none, pics := if (x.result p).1 < 3 then (s.icore k).pics + 1 else (s.icore k).pics,
      samples := if (x.result p).1 < 3 then (s.icore k).samples + BitVec.ofNat 64 (x.width * x.height) else (s.icore k).samples }) ∧
    (x.closing = none → ∃ y : IrisSess, oget t.iris p.sess = some y ∧ y.pics = x.pics + 1 ∧ y.bytes = x.bytes + BitVec.ofNat 64 (x.result p).2.1) ∧
    (s.permits x.part (x.recAt p) 64 false true false = true → ∀ i < 64,
      t.rawByte (x.recAt p + i) = (x.record p (x.result p).1 (x.result p).2.1 (decide (p.n = 0))).getD i 0) := by
  have hgate : ¬(p.status = 0 ∧ (p.rows < x.picRows p ∨ (x.subf ∧ !x.dec ∧ p.slices < x.slices))) := by
    rintro ⟨h0, h⟩
    obtain hn | ⟨hrows, hsl⟩ := hdone
    · exact hn h0
    · rcases h with h | ⟨h1, h2, h3⟩
      · omega
      · rcases hsl with hsl | hsl | hsl
        · rw [hsl] at h1; cases h1
        · rw [hsl] at h2; cases h2
        · omega
  unfold irisDone at ht
  rw [hp] at ht
  dsimp -zeta only at ht
  rw [hx] at ht
  dsimp -zeta only at ht
  rw [if_neg hgate] at ht
  generalize x.result p = r at ht ⊢
  obtain ⟨status, bytes, ws⟩ := r
  dsimp -zeta only at ht ⊢
  extract_lets first s1 st s2 s3 s4 s5 s6 at ht
  have h1 : s1.icores = s.icores ∧ s1.iris = s.iris :=
    ⟨foldl_keeps State.icores (fun t (v : Nat × List Byte) => t.write v.1 v.2) (fun _ _ => State.icores_write ..) ws s,
      foldl_keeps State.iris (fun t (v : Nat × List Byte) => t.write v.1 v.2) (fun _ _ => State.iris_write ..) ws s⟩
  have h2 : s2.icores = s1.icores ∧ s2.iris = s1.iris ∧
      s2.permits x.part (x.recAt p) 64 false true false = s.permits x.part (x.recAt p) 64 false true false := by
    unfold s2
    split
    · exact ⟨State.icores_write .., State.iris_write .., (State.permits_write ..).trans (State.permits_writes ..)⟩
    · exact ⟨rfl, rfl, State.permits_writes ..⟩
  obtain ⟨hc2, hi2, hpm⟩ := h2
  have h3 : s3.icores = s2.icores ∧ s3.iris = s2.iris := by
    unfold s3
    split
    · exact ⟨State.icores_write .., State.iris_write ..⟩
    · exact ⟨rfl, rfl⟩
  obtain ⟨hc4, hi4, hm4⟩ := State.signal_iris (s := s3) (t := s4) (o := semField (dw p.words 8)) (c := fun i => s3.semIn x.part i = true)
    (p := x.part) rfl
  have hcores : s4.icores = s.icores := hc4.trans (h3.1.trans (hc2.trans h1.1))
  have hiris : oget s4.iris p.sess = some x := (congrArg (oget · p.sess) (hi4.trans (h3.2.trans (hi2.trans h1.2)))).trans hx
  obtain ⟨hset, hsetmem, hstay⟩ := State.settleIris_spec s6 p.sess
  subst ht
  refine ⟨hset.trans ?_, fun hcl => ?_, fun hperm i hi => ?_⟩
  · have hself : s5.icore k = s.icore k := congrArg (fun c => tget (fun _ => IrisCore.reset) c k) hcores
    have hs6 : s6.icores = tput (fun _ => IrisCore.reset) s5.icores k { s5.icore k with
      pic := none, pics := if status < 3 then (s5.icore k).pics + 1 else (s5.icore k).pics
      samples := if status < 3 then (s5.icore k).samples + BitVec.ofNat 64 (x.width * x.height) else (s5.icore k).samples } := rfl
    rw [hs6, hself]
    exact congrArg (fun c => tput (fun _ => IrisCore.reset) c k _) hcores
  · have hy : oget s6.iris p.sess = some _ := oget_oupd_self hiris _
    rw [hstay _ hy hcl]
    exact ⟨_, hy, rfl, rfl⟩
  · have hs3 : s3 = s2.write (x.recAt p) (x.record p status bytes first) := if_pos (hpm.trans hperm)
    have hmem : (s6.settleIris p.sess).mem = s3.mem := hsetmem.trans hm4
    refine (congrArg (fun m => tget Memory.dflt m (x.recAt p + i)) (hmem.trans (congrArg State.mem hs3))).trans ?_
    refine (State.rawByte_write ..).trans ((if_pos ?_).trans ?_)
    · rw [IrisSess.record_length]; omega
    · rw [Nat.add_sub_cancel_left]

omit hx in
theorem irisRepeat_second (h : p.repeated = true) : irisRepeat k s = { s with health := { s.health with failed := true } } := by
  unfold irisRepeat
  rw [hp]
  exact if_pos h

omit hx in
theorem irisRepeat_first (h : p.repeated = false) : irisRepeat k s = s.updIcore k (fun c => { c with
    pic := some { p with rows := 0, slices := 0, prog := 0, repeated := true, status := if p.status = 1 then 0 else p.status }, repeats := c.repeats + 1 }) := by
  unfold irisRepeat
  rw [hp]
  exact if_neg (not_true_of_eq_false h)

end

/-- Settles O55: the core of a session takes its descriptor, counts its rows, emits its slices, and writes the record of a picture that is done. -/
theorem irisPictures : Obligations.IrisPictures := by
  unfold Obligations.IrisPictures
  refine ⟨fun k h x s hs hk hfree ho => ⟨fun hr => congrArg Host.Outcome.next (irisStart_unready hs hr), fun hr hg hgop => ?_⟩,
    fun k s h => congrArg Host.Outcome.next (irisStart_busy h),
    fun k p x s hp hx => ⟨fun h0 hr => congrArg Host.Outcome.next (irisRow_more hp hx h0 hr), fun hsub hdec h0 hsl hrows => ?_, fun hdone => ?_,
      fun h => congrArg Host.Outcome.next (irisRepeat_second hp h), fun h => congrArg Host.Outcome.next (irisRepeat_first hp h)⟩⟩
  · have hsess : oget s.iris h = some x := by rw [hs]; exact if_pos rfl
    generalize hu : (s.updIcore k (fun c => { c with turn := h + 1 })).updIris h (s.readBy x) = u
    have hux : oget u.iris h = some (s.readBy x x) := by rw [← hu]; exact oget_oupd_self hsess _
    obtain ⟨p, y, hmem, hcore, hps, hpn, hpw, hpr, hprep, hrefused, hy, hyn⟩ := State.startPicture_spec hux x.n (s.irisDesc x)
    refine ⟨_, p, y, congrArg Host.Outcome.next ((irisStart_descriptor hs hk hfree ho hr hg hgop).trans
      (congrArg (fun v : State => v.startPicture h x.n (s.irisDesc x)) hu)), hmem.trans ?_, ?_, hps, hpn, hpw, hpr, hprep, fun hq => hrefused ?_, hy, hyn⟩
    · rw [← hu]; rfl
    · exact hk ▸ hcore
    · rw [← hu]; exact hq
  · obtain ⟨hlong, hfit⟩ := irisSlice_ready hp hx hsub hdec h0 hsl hrows
    refine ⟨fun hn => congrArg Host.Outcome.next (hlong hn), fun hn htold => ?_⟩
    obtain ⟨u, hu, hmem⟩ := hfit hn htold
    have hbytes := State.rawByte_write_toLe (s.write (bits (dw p.words 4) 0 48 + p.prog) (x.out p 0 p.prog (x.num p.hist (16 + p.slices))))
      (x.recAt p + 0x20) 8 (p.prog + x.num p.hist (16 + p.slices))
    have hlen : (x.out p 0 p.prog (x.num p.hist (16 + p.slices))).length = x.num p.hist (16 + p.slices) := (List.length_map _).trans List.length_range
    have hraw : ∀ a, (irisSlice k s).rawByte a = _ := fun a =>
      (congrArg (State.rawByte · a) hu).trans (congrArg (fun m => tget Memory.dflt m a) hmem)
    refine ⟨_, rfl, ?_, fun a ha hprog => ?_, fun i hi => (hraw _).trans (hbytes.1 i hi), fun i hi hprog => ?_⟩
    · exact (congrArg (fun t : State => (t.icore k).pic) hu).trans (congrArg IrisCore.pic (State.icore_updIcore ..))
    · refine (hraw a).trans ((hbytes.2 a hprog).trans ((State.rawByte_write ..).trans (if_neg ?_)))
      rw [hlen]; omega
    · refine (hraw _).trans ((hbytes.2 _ hprog).trans ((State.rawByte_write ..).trans ((if_pos ?_).trans ?_)))
      · rw [hlen]; omega
      · rw [Nat.add_sub_cancel_left]
  · obtain ⟨hcores, hsess, hrec⟩ := irisDone_spec hp hx rfl hdone
    exact ⟨_, rfl, hcores, hsess, hrec⟩

end Sys2Proof.Machine
end

section
/-! Host accesses (R403 to R415, R443, R446): function resets, the link, the DRAM window, registers, vectors and configuration. -/

namespace Sys2Proof.Machine

/-! ### Resets of functions and of the link (R403, R445) -/

/-- What a reset of the host side never touches. -/
def State.sansHost (s : State) : State := { s with funcs := [], pages := [], mbxs := [], journal := [], qps := [] }

theorem State.resetFunc_sansHost (s : State) (p : Nat) : (s.resetFunc p).sansHost = s.sansHost := by
  unfold resetFunc
  extract_lets f s1 s2
  have h2 : s2.sansHost = s1.sansHost := by
    unfold s2
    split <;> rfl
  exact h2

theorem State.resetFunc_journal (s : State) (p : Nat) : (s.resetFunc p).journal = s.journal := by
  unfold resetFunc
  extract_lets f s1 s2
  have h2 : s2.journal = s1.journal := by
    unfold s2
    split <;> rfl
  exact h2

theorem State.dropHost_sansHost (s : State) (p : Nat) : (s.dropHost p).sansHost = s.sansHost := rfl

theorem State.dropHost_journal (s : State) (p : Nat) :
    (s.dropHost p).journal = s.journal.map (fun c => if c.m = p then { c with discard := true } else c) := rfl

/-- Discarding the commands of a mailbox discards them, and none is taken back. -/
theorem discard_map {j : List Cmd} {P : Cmd → Prop} (p : Nat) (h : ∀ c ∈ j, P c ∨ c.discard = true) :
    ∀ c ∈ j.map (fun c => if c.m = p then { c with discard := true } else c), (P c ∧ c.m ≠ p) ∨ c.discard = true := by
  intro c hc
  obtain ⟨d, hd, rfl⟩ := List.mem_map.mp hc
  split
  · exact .inr rfl
  next hm => exact (h d hd).imp (fun hPd => ⟨hPd, hm⟩) id

/-- The functions from 15 down, `n` of them, are reset. -/
def State.resetDown (s : State) (n : Nat) : State := (List.range n).foldl (fun s p => (s.resetFunc (15 - p)).dropHost (15 - p)) s

theorem State.resetDown_succ (s : State) (n : Nat) : s.resetDown (n + 1) = ((s.resetDown n).resetFunc (15 - n)).dropHost (15 - n) := by
  unfold resetDown
  rw [List.range_succ, List.foldl_append]
  rfl

theorem State.resetDown_sansHost (s : State) (n : Nat) : (s.resetDown n).sansHost = s.sansHost :=
  foldl_keeps State.sansHost (fun (s : State) (p : Nat) => (s.resetFunc (15 - p)).dropHost (15 - p))
    (fun _ _ => (dropHost_sansHost ..).trans (resetFunc_sansHost ..)) (List.range n) s

theorem State.resetDown_journal (s : State) (n : Nat) : ∀ c ∈ (s.resetDown n).journal, (∀ p < n, c.m ≠ 15 - p) ∨ c.discard = true := by
  induction n with
  | zero => exact fun c _ => .inl fun p hp => absurd hp (Nat.not_lt_zero _)
  | succ n ih =>
    rw [resetDown_succ, dropHost_journal, resetFunc_journal]
    intro c hc
    refine (discard_map (P := fun c => ∀ p < n, c.m ≠ 15 - p) (15 - n) ih c hc).imp (fun h p hp => ?_) id
    rcases Nat.lt_succ_iff_lt_or_eq.mp hp with h1 | h1
    · exact h.1 p h1
    · exact h1 ▸ h.2

theorem State.endpointReset_eq (s : State) :
    s.endpointReset = { s.resetDown 16 with linkUp := false, board := { (s.resetDown 16).board with ide := [] } } := by
  unfold endpointReset resetDown
  generalize List.range 16 = ks
  rfl

/-- The fields of a state whose link goes down, when the host's side alone differs from `s`. -/
theorem State.linkLost_spec {s u t : State} (hsans : u.sansHost = s.sansHost)
    (ht : t = { u with linkUp := false, board := { u.board with ide := [] } }) :
    t.linkUp = false ∧ t.board = { s.board with ide := [] } ∧ t.mem = s.mem ∧ t.launches = s.launches ∧ t.journal = u.journal := by
  subst ht
  have hboard : u.board = s.board := (congrArg State.board hsans :)
  exact ⟨rfl, congrArg (fun b : Board => { b with ide := [] }) hboard, (congrArg State.mem hsans :), (congrArg State.launches hsans :), rfl⟩

/-- A reset of every function discards every command of their mailboxes and changes the host's side only. -/
theorem State.endpointReset_spec (s : State) : s.endpointReset.linkUp = false ∧ s.endpointReset.board = { s.board with ide := [] } ∧
    s.endpointReset.mem = s.mem ∧ s.endpointReset.launches = s.launches ∧ (∀ c ∈ s.endpointReset.journal, c.m < 16 → c.discard = true) := by
  obtain ⟨hlink, hboard, hmem, hlaunches, hj⟩ := linkLost_spec (s.resetDown_sansHost 16) s.endpointReset_eq
  refine ⟨hlink, hboard, hmem, hlaunches, fun c hc hm => ?_⟩
  rw [hj] at hc
  exact (s.resetDown_journal 16 c hc).resolve_left fun h => h (15 - c.m) (by omega) (by omega)

theorem perstAssert_eq {s u : State} (hu : s.endpointReset = u) : perstAssert s = { u with board := { u.board with perst := true } } := by
  unfold perstAssert
  rw [hu]

theorem flr_function {p : Nat} {s : State} (hp : p < 16) (h0 : p ≠ 0) (he : (s.func p).enabled = true) : flr p s = { s with
    funcs := tput (fun _ => Func.reset) s.funcs p { Func.reset with enabled := true },
    pages := oupd s.pages p (fun g => { g with bar4 := 0 }),
    mbxs := tput (fun _ => Mbx.reset) s.mbxs p { s.mbx p with session := none, en := false, disable := false, due := [] },
    journal := s.journal.map (fun c => if c.m = p then { c with discard := true } else c),
    qps := s.qps.map (fun (k, q) => (k, if q.part = p ∧ q.hostRing then { q with stopped := true, discard := true, due := [] } else q)) } := by
  unfold flr
  rw [if_neg]
  · unfold State.resetFunc
    rw [he, Bool.and_true, decide_eq_true h0]
    simp only [if_neg h0]
    rfl
  · rintro (h | h)
    · omega
    · rw [State.funcHere, he, Bool.or_true] at h; cases h

theorem flr_physical (s : State) : flr 0 s = (s.resetFunc 0).dropHost 0 := if_neg (by rintro (h | h) <;> simp [State.funcHere] at h)

/-! ### The link comes up (R443) -/

theorem linkUp_trained {s : State} (hp : s.board.perst = false) (hm : s.board.mrdy = true) (hf : s.board.failed = false) (ha : s.mode = .active) :
    linkUp s = { s with linkUp := true, board := { s.board with step := if s.board.starting = true ∧ s.board.step = 8 then 9 else s.board.step } } := by
  unfold linkUp
  rw [if_neg (by rw [hp, hm, hf, ha]; decide)]

theorem linkUp_ignored {s : State} (hm : s.board.mrdy = false) : linkUp s = s := if_pos (.inr (.inl (by rw [hm]; rfl)))

/-! ### Refused accesses (R410) -/

/-- A refused access is counted in its partition's page, and changes pages and mailboxes only. -/
theorem State.refuseHost_spec (s : State) (p a : Nat) (w : Bool) (cause : Nat) :
    s.refuseHost p a w cause = { s with pages := (s.refuseHost p a w cause).pages, mbxs := (s.refuseHost p a w cause).mbxs } ∧
    ((s.refuseHost p a w cause).page p).viol = (s.page p).viol + 1 ∧ ((s.refuseHost p a w cause).page p).violAddr = a ∧
    ((s.refuseHost p a w cause).page p).violWrite = w ∧ ((s.refuseHost p a w cause).page p).violCause = cause := by
  generalize ht : s.refuseHost p a w cause = t
  unfold refuseHost at ht
  extract_lets g tell g' u at ht
  have hg : u.page p = g' := by
    rw [page, oget_tins, if_pos rfl]; rfl
  have hspec : t = { u with mbxs := t.mbxs } := by
    subst ht
    split
    · exact event_only ..
    · rfl
  have hpage : t.page p = g' := (congrArg (fun v : State => v.page p) hspec).trans hg
  rw [hpage]
  exact ⟨hspec.trans (congrArg (fun ps => { s with pages := ps, mbxs := t.mbxs }) (congrArg State.pages hspec).symm), rfl, rfl, rfl, rfl⟩

/-! ### The DRAM window (R409 to R411) -/

section
variable {p off n : Nat} {s : State}

/-- The window decodes the access. -/
theorem State.bar4At_open (hl : s.linkUp = true) (hp : p < 16) (hf : s.funcHere p = true) (h0 : 0 < n)
    (hn : off + n ≤ 2 ^ ((s.func (if p = 0 then 0 else 16)).bar4 + 30)) : s.bar4At p off n = some ((s.page p).bar4 * granule + off) :=
  if_pos ⟨hl, hp, hf, h0, hn⟩

variable {a : Nat} (ha : s.bar4At p off n = some a)
include ha

theorem bar4Read_clean (hd : a + n ≤ 2 * dieBytes) (hp : s.permits p a n true false false = true)
    (hc : ∀ i < n, s.poison.contains ((a + i) / 64) = false) :
    bar4Read p off n s = { s with sent := s.sent ++ [.host p (s.seenBytes a n) false], fresh := s.fresh + 1 } := by
  have hok : s.bar4Ok p a n false = true := by
    rw [State.bar4Ok, decide_eq_true hd]
    exact hp
  unfold bar4Read
  rw [ha]
  dsimp only
  rw [if_neg (by rw [hok]; decide), List.find?_eq_none.mpr fun i hi => not_true_of_eq_false (hc i (List.mem_range.mp hi))]

theorem bar4Read_outside (hd : 2 * dieBytes < a + n) : ∃ t : State, bar4Read p off n s = t ∧
    t.sent = s.sent ++ [.host p (List.replicate n 0xFF) false] ∧ t.mem = s.mem ∧
    (t.page p).viol = (s.page p).viol + 1 ∧ (t.page p).violAddr = a ∧ (t.page p).violWrite = false ∧ (t.page p).violCause = 3 := by
  have hok : s.bar4Ok p a n false = false := by
    rw [State.bar4Ok, decide_eq_false (by omega), Bool.false_and]
  obtain ⟨honly, hviol, haddr, hwrite, hc⟩ :=
    State.refuseHost_spec { s with sent := s.sent ++ [.host p (List.replicate n 0xFF) false] } p a false 3
  refine ⟨_, ?_, (congrArg State.sent honly :), (congrArg State.mem honly :), hviol, haddr, hwrite, hc⟩
  unfold bar4Read
  rw [ha]
  dsimp only
  exact (if_pos (by rw [hok]; rfl)).trans (congrArg (State.refuseHost _ p a false) (if_pos hd))

end

section
variable {p off a : Nat} {s : State} {bs : List Byte} (ha : s.bar4At p off bs.length = some a)
include ha

theorem bar4Write_inside (hd : a + bs.length ≤ 2 * dieBytes) (hp : s.permits p a bs.length false true false = true) :
    bar4Write p off bs s = s.write a bs := by
  unfold bar4Write
  rw [ha]
  refine if_pos ?_
  rw [State.bar4Ok, decide_eq_true hd]
  exact hp

theorem bar4Write_outside (hp : s.permits p a bs.length false true false = false) :
    bar4Write p off bs s = s.refuseHost p a true (s.violCause p a bs.length) := by
  unfold bar4Write
  rw [ha]
  refine if_neg (not_true_of_eq_false ?_)
  unfold State.bar4Ok
  exact (congrArg (decide (a + bs.length ≤ 2 * dieBytes) && ·) hp).trans (Bool.and_false _)

end

/-! ### Register writes (R404, R408, R446) -/

section
variable {p off n : Nat} {v : W64} {s : State} (hl : s.linkUp = true)
include hl

/-- The link is up and the function answers. -/
theorem State.answers (hp : p < 16) (hf : s.funcHere p = true) : ¬(!s.linkUp ∨ 16 ≤ p ∨ !s.funcHere p) := by
  rw [hl, hf]
  simpa using hp

/-- The physical function writes an aligned register of the module page. -/
theorem registerWrite_module (ho : off < 0x100000) (ha : off % 8 = 0) : registerWrite 0 0 off 8 v s = s.modWrite off v := by
  unfold registerWrite
  rw [if_neg (State.answers hl (by decide) rfl), if_neg (by decide), if_pos rfl]
  refine (if_neg ?_).trans ((if_neg ?_).trans (if_pos ho))
  · rw [if_pos rfl]; omega
  · rintro (h | h)
    · exact h rfl
    · exact h ha

/-- A write that is not of one whole register is refused. -/
theorem registerWrite_misshapen (hp : p < 16) (hf : s.funcHere p = true) (ho : off < 0x80000) (ha : n ≠ 8 ∨ off % 8 ≠ 0) :
    registerWrite p 0 off n v s = s.refuseHost p (0x20000000000 + if p = 0 then off else 0x100000 + 0x80000 * p + off) true 2 := by
  unfold registerWrite
  rw [if_neg (State.answers hl hp hf), if_neg (by decide), if_pos rfl]
  refine (if_neg ?_).trans (if_pos ha)
  split <;> omega

/-- A virtual function sets the base of its DRAM window. -/
theorem registerWrite_window (hp : p < 16) (h0 : p ≠ 0) (hf : s.funcHere p = true) :
    registerWrite p 0 0x50 8 v s = { s with pages := tins s.pages p { s.page p with bar4 := bits v.toNat 21 27 } } := by
  unfold registerWrite
  rw [if_neg (State.answers hl hp hf), if_neg (by decide), if_pos rfl]
  simp only [if_neg h0]
  rw [if_neg (by decide), if_neg (by decide), if_neg (by omega), if_pos (by omega), if_pos (by omega),
    show (0x100000 + 0x80000 * p + 0x50 - 0x100000) % 0x80000 = 0x50 by omega]
  unfold State.pageWrite
  exact if_pos rfl

/-- The physical function may not write the page of another partition. -/
theorem registerWrite_foreign {o : Nat} (h0 : 0 < p) (hp : p < 16) (ho : o < 0x80000) (ha : o % 8 = 0) :
    registerWrite 0 0 (0x100000 + 0x80000 * p + o) 8 v s = s.refuseHost 0 (0x20000000000 + (0x100000 + 0x80000 * p + o)) true 2 := by
  unfold registerWrite
  rw [if_neg (State.answers hl (by decide) rfl), if_neg (by decide), if_pos rfl]
  simp only [if_pos]
  rw [if_neg (by omega), if_neg (by omega), if_neg (by omega), if_pos (by omega), if_neg (by omega)]

end

/-! ### Vectors and failed reads (R413, R414) -/

section
variable {p k : Nat} {s : State} (hf : s.funcHere p = true) (hk : k < 2048)
include hf hk

theorem msixUnmask_quiet (h : ((s.func p).pending.contains k && (s.func p).msixEn && !(s.func p).msixMask) = false) :
    msixUnmask p k s = s.setFunc p { s.func p with
      vectors := tput (fun _ => Vector.reset) (s.func p).vectors k { (s.func p).vector k with mask := false } } := by
  unfold msixUnmask
  refine (if_neg ?_).trans (if_neg ?_)
  · rw [hf]; simpa using hk
  · rintro ⟨h1, h2, h3⟩
    exact not_true_of_eq_false h (by rw [h1, h2, h3]; rfl)

theorem msixUnmask_pending (hp : (s.func p).pending.contains k = true) (he : (s.func p).msixEn = true) (hm : (s.func p).msixMask = false) :
    ∃ msg : Sent, msixUnmask p k s = { s.setFunc p { s.func p with
      vectors := tput (fun _ => Vector.reset) (s.func p).vectors k { (s.func p).vector k with mask := false },
      pending := (s.func p).pending.filter (· ≠ k) } with sent := s.sent ++ [msg] } := by
  refine ⟨_, (if_neg ?_).trans (if_pos ⟨hp, he, by rw [hm]; rfl⟩)⟩
  rw [hf]; simpa using hk

end

theorem hostReadFail_mailbox {m : Nat} {s : State} (h : awHost (s.mbx m).cmdBase = true) :
    hostReadFail (.mailboxRing m) s = s.setMbx m { s.mbx m with stopped := true } :=
  congrArg (s.setMbx m) (if_pos h)

theorem hostReadFail_queue {q : Nat} {x : Qp} {s : State} (hq : oget s.qps q = some x) (h : awHost x.sqAddr = true) :
    oget (hostReadFail (.queueRing q) s).qps q = some { x with stopped := true } :=
  (oget_oupd_self hq _).trans (congrArg some (if_pos h))

/-! ### Configuration requests (R401 to R403) -/

section
variable {p : Nat} {s : State} (hl : s.linkUp = true) (hp : p < 16) (hf : s.funcHere p = true)
include hl hp hf

theorem configRequest_retry (hr : s.ready = false) (r : CfgReq) : configRequest p r s = { s with sent := s.sent ++ [.retry p] } :=
  (if_neg (State.answers hl hp hf)).trans (if_pos (by rw [hr]; rfl))

theorem configRequest_ready (hr : s.ready = true) (r : CfgReq) :
    (∀ on, r = .busMaster on → configRequest p r s = s.setFunc p { s.func p with busMaster := on }) ∧
    (∀ c, r = .timeout c → configRequest p r s = s.setFunc p { s.func p with timeout := c }) ∧
    (∀ what, r = .read what → configRequest p r s = { s with sent := s.sent ++ [.host p (s.cfgBytes p what) false], fresh := s.fresh + 1 }) := by
  have hn : ¬(!s.ready) = true := by rw [hr]; decide
  refine ⟨?_, ?_, ?_⟩ <;> rintro x rfl <;> exact (if_neg (State.answers hl hp hf)).trans (if_neg hn)

end

theorem State.cfgBytes_device (s : State) (p : Nat) : s.cfgBytes p .device = if p = 0 then [0x60, 0x09] else [0x61, 0x09] := by
  unfold cfgBytes
  dsimp only
  split <;> rfl

/-! ### IDE streams (R415) -/

theorem ideKm_sets {st : Nat} (key : Nat) {s : State} (h0 : s.board.spdmSess ≠ 0) (hst : st < 9) (hc : s.board.ide.contains st = false) :
    ideKm st key s = { s with board := { s.board with ide := s.board.ide ++ [st] } } := by
  refine if_neg ?_
  rintro (h | h | h)
  · exact h0 h
  · omega
  · exact not_true_of_eq_false hc h

/-- Settles O57: resets, the link, the DRAM window, registers, vectors, failed reads, IDE and configuration requests. -/
theorem hostAccess : Obligations.HostAccess := by
  unfold Obligations.HostAccess
  refine ⟨fun p s hp h0 he => congrArg Host.Outcome.next (flr_function hp h0 he), fun s => ?_, fun s => ⟨?_, rfl, rfl,
    fun hp hm hf ha => congrArg Host.Outcome.next (linkUp_trained hp hm hf ha), fun hm => congrArg Host.Outcome.next (linkUp_ignored hm)⟩,
    fun p off n s hl hp hf h0 hn => ?_, fun v s hl => ?_, fun p k s hf hk => ?_,
    fun m s h => congrArg Host.Outcome.next (hostReadFail_mailbox h), fun q x s hq h => ⟨_, rfl, hostReadFail_queue hq h, rfl⟩,
    fun st key s => ⟨rfl, fun h => congrArg Host.Outcome.next (if_pos (.inl h)), fun h0 hst hc => congrArg Host.Outcome.next (ideKm_sets key h0 hst hc)⟩,
    fun p r s hl hp hf => ⟨fun hr => congrArg Host.Outcome.next (configRequest_retry hl hp hf hr r), fun hr => ?_⟩⟩
  · have hsans : ((s.resetFunc 0).dropHost 0).sansHost = s.sansHost := (State.dropHost_sansHost ..).trans (State.resetFunc_sansHost ..)
    refine ⟨_, congrArg Host.Outcome.next (flr_physical s), (congrArg State.mem hsans :), (congrArg State.parts hsans :), (congrArg State.launches hsans :),
      (congrArg State.regions hsans :), fun c hc hm => ?_⟩
    rw [State.dropHost_journal] at hc
    exact (discard_map (P := fun _ => True) 0 (fun c _ => .inl trivial) c hc).resolve_left fun h => h.2 hm
  · obtain ⟨hlink, hboard, hmem, hlaunches, hj⟩ := s.endpointReset_spec
    generalize hu : s.endpointReset = u at hlink hboard hmem hlaunches hj
    exact ⟨_, congrArg Host.Outcome.next (perstAssert_eq hu), hlink, congrArg (fun b : Board => { b with perst := true }) hboard, hmem, hlaunches, hj⟩
  · have ha := State.bar4At_open hl hp hf h0 hn
    refine ⟨fun hd hperm hc => congrArg Host.Outcome.next (bar4Read_clean ha hd hperm hc), fun hd => ?_, fun bs hlen => ?_⟩
    · obtain ⟨t, ht, h⟩ := bar4Read_outside ha hd
      exact ⟨t, congrArg Host.Outcome.next ht, h⟩
    · subst hlen
      refine ⟨fun hd hperm => congrArg Host.Outcome.next (bar4Write_inside ha hd hperm), fun hperm => ?_⟩
      obtain ⟨honly, hviol, haddr, hwrite, -⟩ := State.refuseHost_spec s p ((s.page p).bar4 * granule + off) true
        (s.violCause p ((s.page p).bar4 * granule + off) bs.length)
      exact ⟨_, congrArg Host.Outcome.next (bar4Write_outside ha hperm), (congrArg State.mem honly :), (congrArg State.sent honly :), hviol, haddr, hwrite⟩
  · have hmodule : ∀ off, off < 0x100000 → off % 8 = 0 → registerWrite 0 0 off 8 v s = s.modWrite off v := fun off h1 h2 => registerWrite_module hl h1 h2
    refine ⟨congrArg Host.Outcome.next (hmodule 0x20008 (by decide) (by decide)), congrArg Host.Outcome.next (hmodule 0x20018 (by decide) (by decide)),
      congrArg Host.Outcome.next (hmodule 0x20020 (by decide) (by decide)), fun p off n hp hf ho ha => ?_,
      fun p hp h0 he => congrArg Host.Outcome.next (registerWrite_window hl hp h0 (by rw [State.funcHere, he, Bool.or_true])), fun p o h0 hp ho ha => ?_,
      congrArg Host.Outcome.next ((if_pos rfl).trans (hmodule 0x10008 (by decide) (by decide))), fun p n h0 => congrArg Host.Outcome.next (if_neg h0)⟩
    · obtain ⟨honly, hviol, -, hwrite, hcause⟩ :=
        s.refuseHost_spec p (0x20000000000 + if p = 0 then off else 0x100000 + 0x80000 * p + off) true 2
      exact ⟨_, congrArg Host.Outcome.next (registerWrite_misshapen hl hp hf ho ha), (congrArg State.health honly :), (congrArg State.bars honly :),
        (congrArg State.cqs honly :), hviol, hwrite, hcause⟩
    · obtain ⟨honly, hviol, -⟩ := s.refuseHost_spec 0 (0x20000000000 + (0x100000 + 0x80000 * p + o)) true 2
      exact ⟨_, congrArg Host.Outcome.next (registerWrite_foreign hl h0 hp ho ha), (congrArg State.bars honly :), (congrArg State.cqs honly :),
        (congrArg State.fwds honly :), (congrArg State.sems honly :), hviol⟩
  · refine ⟨fun h => congrArg Host.Outcome.next (msixUnmask_quiet hf hk h), fun hp he hm => ?_⟩
    obtain ⟨msg, hmsg⟩ := msixUnmask_pending hf hk hp he hm
    exact ⟨_, congrArg Host.Outcome.next hmsg, rfl, rfl, List.length_append⟩
  · obtain ⟨hmaster, htimeout, hread⟩ := configRequest_ready hl hp hf hr r
    exact ⟨fun on h => congrArg Host.Outcome.next (hmaster on h), fun c h => congrArg Host.Outcome.next (htimeout c h),
      fun what h => congrArg Host.Outcome.next (hread what h), rfl, s.cfgBytes_device p, rfl, rfl⟩

end Sys2Proof.Machine
end

section
/-! Management requests (R416 to R419, R423, R440, R445, R460): each is answered by one message. -/

namespace Sys2Proof.Machine

theorem whenMgmt_down {s : State} (f : State → State) (h : s.mgmtUp = false) : whenMgmt f s = s := if_neg (not_true_of_eq_false h)

theorem whenMgmt_up {s : State} (f : State → State) (h : s.mgmtUp = true) : whenMgmt f s = f s := if_pos h

section
variable {s : State} (hup : s.mgmtUp = true)
include hup

/-! ### MCTP and PLDM (R416, R417) -/

/-- A control message is answered by one message, whatever its type. -/
theorem mctpMessage_spec (ty : Byte) (body : List Byte) :
    OneMessage s (mctpMessage ty body s) ∧ (mctpMessage ty body s).board = s.board ∧ (mctpMessage ty body s).mem = s.mem := by
  have hm : ∃ which n, mctpMessage ty body s = s.mgmtFree which n := by
    by_cases ht : ([0x00, 0x01, 0x05, 0x06] : List Byte).contains ty = true
    · exact ⟨0x4160, 64, (whenMgmt_up _ hup).trans (if_pos ht)⟩
    · exact ⟨0x4161, 4, (whenMgmt_up _ hup).trans (if_neg ht)⟩
  obtain ⟨which, n, hm⟩ := hm
  rw [hm]
  exact ⟨⟨_, rfl⟩, rfl, rfl⟩

/-- A sensor that exists is answered with its reading. -/
theorem getSensor_reading {id : Nat} {v : Int} (h : s.sensor id = some v) :
    getSensor id s = { s with sent := s.sent ++ [.mgmt (toLe 8 (unsigned 64 v))] } := by
  refine (whenMgmt_up _ hup).trans ?_
  rw [h]
  rfl

/-- Effecter 1, state 1, in Sleep: the exit from Sleep begins. -/
theorem setEffecter_wakes (hm : s.mode = .sleep) (hs : s.board.starting = false) (hf : s.board.failed = false) :
    (setEffecter 1 1 s).board = { s.board with wake := false, starting := true, exiting := true, step := 2 } := by
  have hwake : (s.mgmtFree 0x4173 1).wakeRequest = (s.mgmtFree 0x4173 1).beginExit :=
    if_pos ⟨hm, by rw [show (s.mgmtFree 0x4173 1).board = s.board from rfl, hs]; rfl, by rw [show (s.mgmtFree 0x4173 1).board = s.board from rfl, hf]; rfl⟩
  have heff : setEffecter 1 1 s = (s.mgmtFree 0x4173 1).beginExit := (whenMgmt_up _ hup).trans ((if_pos ⟨rfl, rfl⟩).trans hwake)
  rw [heff]
  rfl

theorem setEffecter_reset : setEffecter 1 2 s = { s.mgmtFree 0x4173 1 with board := { s.board with resetAt := some (s.time, 3) } } :=
  (whenMgmt_up _ hup).trans rfl

theorem setEffecter_locate {st : Nat} (h : st < 2) :
    setEffecter 2 st s = { s.mgmtFree 0x4173 1 with board := { s.board with loc := decide (st = 1) } } := by
  refine (whenMgmt_up _ hup).trans ((if_neg ?_).trans ((if_neg ?_).trans (if_pos ⟨rfl, h⟩)))
  · rintro ⟨h1, -⟩; cases h1
  · rintro ⟨h1, -⟩; cases h1

/-! ### Firmware update (R418) -/

/-- The new table goes into the copy that is not in force. -/
theorem passUpdate_spec (image : List Byte) :
    OneMessage s (passUpdate image s) ∧ (passUpdate image s).patch = s.patch ∧
    (passUpdate image s).board.update = some { level := Config.patchLevel image, bytes := image, ok := false } ∧
    (s.board.patchB = true → (passUpdate image s).board.copyA = some { level := Config.patchLevel image, bytes := image, ok := true } ∧
      (passUpdate image s).board.copyB = s.board.copyB) ∧
    (s.board.patchB = false → (passUpdate image s).board.copyB = some { level := Config.patchLevel image, bytes := image, ok := true } ∧
      (passUpdate image s).board.copyA = s.board.copyA) := by
  rw [passUpdate, whenMgmt_up _ hup]
  refine ⟨⟨_, rfl⟩, rfl, rfl, fun hb => ?_, fun hb => ?_⟩
  · have hset : ∀ c, s.board.setSpare c = { s.board with copyA := c } := fun c => if_pos hb
    exact ⟨congrArg Board.copyA (hset _), (congrArg Board.copyB (hset (some { level := Config.patchLevel image, bytes := image, ok := true })) :)⟩
  · have hset : ∀ c, s.board.setSpare c = { s.board with copyB := c } := fun c => if_neg (not_true_of_eq_false hb)
    exact ⟨congrArg Board.copyB (hset _), (congrArg Board.copyA (hset (some { level := Config.patchLevel image, bytes := image, ok := true })) :)⟩

theorem verifyUpdate_of_some {c : PatchCopy} (hc : s.board.update = some c) : verifyUpdate s =
    if s.updateOk c then { s.mgmtFree 0x4183 1 with board := { s.board with update := some { c with ok := true } } }
    else { s.mgmtFree 0x4184 1 with board := { s.board.setSpare (some { c with ok := false }) with update := none } } := by
  refine (whenMgmt_up _ hup).trans ?_
  rw [hc]

/-- A signed table above the level in force is verified. -/
theorem verifyUpdate_passes {c : PatchCopy} (hc : s.board.update = some c) (hsig : Config.patchSigned c.bytes = true) (hfloor : Config.patchFloor ≤ c.level)
    (hh : Config.patchHandlers c.bytes ≤ 256) (hcode : Config.patchCode c.bytes ≤ 524288) (hl : s.patch.1 < c.level) :
    verifyUpdate s = { s.mgmtFree 0x4183 1 with board := { s.board with update := some { c with ok := true } } } := by
  refine (verifyUpdate_of_some hup hc).trans (if_pos ?_)
  rw [State.updateOk, patchOk, hsig, decide_eq_true ⟨hfloor, hh, hcode⟩, decide_eq_true hl]
  rfl

/-- A table not above the level in force is dropped. -/
theorem verifyUpdate_fails {c : PatchCopy} (hc : s.board.update = some c) (hl : c.level ≤ s.patch.1) :
    verifyUpdate s = { s.mgmtFree 0x4184 1 with board := { s.board.setSpare (some { c with ok := false }) with update := none } } := by
  refine (verifyUpdate_of_some hup hc).trans (if_neg (not_true_of_eq_false ?_))
  rw [State.updateOk, decide_eq_false (Nat.not_lt.mpr hl), Bool.and_false]

theorem activateUpdate_verified {c : PatchCopy} (hc : s.board.update = some c) (hok : c.ok = true) (hr : s.ready = true) :
    activateUpdate true s =
      cpReset { s.mgmtFree 0x4186 1 with nextPatch := some (c.level, true), board := { s.board with update := none } } := by
  refine (whenMgmt_up _ hup).trans ?_
  rw [hc]
  refine (if_neg (by rw [hok]; decide)).trans (if_pos ⟨rfl, hr⟩)

theorem activateUpdate_unverified {c : PatchCopy} (hc : s.board.update = some c) (hok : c.ok = false) (b : Bool) :
    activateUpdate b s = s.mgmtFree 0x4185 1 := by
  refine (whenMgmt_up _ hup).trans ?_
  rw [hc]
  exact if_pos (by rw [hok]; rfl)

/-! ### SPDM (R419, R423) -/

/-- A request that needs a key is served once start-up has reached the keys and a version is agreed. -/
theorem withKey_serves (f : State → State) (hf : s.board.failed = false) (hs : 5 ≤ s.board.step) (hv : s.board.spdmVer.isSome = true) :
    withKey f s = f s := by
  refine (whenMgmt_up _ hup).trans (if_neg ?_)
  rintro (h | h | h)
  · exact not_true_of_eq_false hf h
  · omega
  · rw [Option.isNone_iff_eq_none] at h
    rw [h] at hv
    cases hv

theorem withKey_failed (f : State → State) (hf : s.board.failed = true) : withKey f s = s.mgmtFree 0x4190 4 :=
  (whenMgmt_up _ hup).trans (if_pos (.inl hf))

end

/-- The signed measurement of an index. -/
theorem getMeasurements_one {s : State} {i : Nat} (nonce : List Byte) {bs : List Byte}
    (hserve : ∀ f : State → State, withKey f s = f s) (h0 : i ≠ 0) (h1 : i ≠ 0xFF) (hm : s.measurement i = some bs) :
    getMeasurements i nonce s = { s with sent := s.sent ++ [.mgmt (bs ++ secret 11 (s.akSeed ++ nonce ++ bs) 132)] } := by
  refine (hserve _).trans ?_
  dsimp only
  rw [if_neg h0, if_neg h1, hm]
  rfl

/-- Settles O58: without the interface nothing happens, and with it each request is answered. -/
theorem managementRequests : Obligations.ManagementRequests := by
  unfold Obligations.ManagementRequests
  refine fun s => ⟨fun hdown i hi => ?_, fun hup => ⟨fun ty body => ⟨_, rfl, mctpMessage_spec hup ty body⟩, fun r hr => ?_,
    fun eid => ⟨_, congrArg Host.Outcome.next (whenMgmt_up _ hup), ⟨_, rfl⟩, rfl⟩, ⟨_, congrArg Host.Outcome.next (setEffecter_reset hup), ⟨_, rfl⟩, rfl⟩,
    fun hm hs hf => ⟨_, rfl, setEffecter_wakes hup hm hs hf⟩, fun st h => ⟨_, congrArg Host.Outcome.next (setEffecter_locate hup h), ⟨_, rfl⟩, rfl⟩,
    congrArg Host.Outcome.next (whenMgmt_up _ hup), fun a => congrArg Host.Outcome.next (whenMgmt_up _ hup), fun image => ⟨_, rfl, passUpdate_spec hup image⟩,
    fun c hc => ⟨fun hsig hfloor hh hcode hl => ⟨_, congrArg Host.Outcome.next (verifyUpdate_passes hup hc hsig hfloor hh hcode hl), rfl, rfl⟩,
      fun hl => ⟨_, congrArg Host.Outcome.next (verifyUpdate_fails hup hc hl), rfl, rfl, rfl⟩,
      fun hok hr => ⟨_, congrArg Host.Outcome.next (activateUpdate_verified hup hc hok hr), rfl, rfl, rfl, rfl, rfl⟩,
      fun hok b => ⟨_, congrArg Host.Outcome.next (activateUpdate_unverified hup hc hok b), rfl, rfl⟩⟩,
    fun peer => congrArg Host.Outcome.next (whenMgmt_up _ hup), fun hf hs hv => ?_,
    fun hf nonce => ⟨_, congrArg Host.Outcome.next (withKey_failed hup _ hf), rfl, _, (List.length_map _).trans List.length_range, rfl⟩⟩⟩
  · rcases List.mem_cons.mp hi with rfl | hi
    · exact congrArg Host.Outcome.next (whenMgmt_down _ hdown)
    rcases List.mem_cons.mp hi with rfl | hi
    · exact congrArg Host.Outcome.next (whenMgmt_down _ hdown)
    rcases List.mem_cons.mp hi with rfl | hi
    · exact congrArg Host.Outcome.next (whenMgmt_down _ hdown)
    rw [List.mem_singleton.mp hi]
    exact congrArg Host.Outcome.next (whenMgmt_down _ hdown)
  · have hsensor : s.sensor r.1 = some r.2 := by
      simp only [List.mem_cons, List.not_mem_nil, or_false] at hr
      rcases hr with rfl | rfl | rfl | rfl | rfl <;> rfl
    exact congrArg Host.Outcome.next (getSensor_reading hup hsensor)
  · have hserve : ∀ f : State → State, withKey f s = f s := fun f => withKey_serves hup f hf hs hv
    exact ⟨fun off len => congrArg Host.Outcome.next (hserve _), fun nonce => congrArg Host.Outcome.next (hserve _),
      fun i nonce bs h0 h1 hm => congrArg Host.Outcome.next (getMeasurements_one nonce hserve h0 h1 hm),
      fun pub => ⟨_, congrArg Host.Outcome.next (hserve _), ⟨_, rfl⟩, rfl⟩⟩

end Sys2Proof.Machine
end

section
/-! Starts and stops of the module (R441 to R446, R455, R457, R459). -/

namespace Sys2Proof.Machine

/-! ### Events and ports of a start -/

theorem State.platformEvent_only (s : State) : s.platformEvent = { s with sent := s.platformEvent.sent, fresh := s.platformEvent.fresh } := by
  unfold platformEvent
  split <;> rfl

theorem State.portTo_only (s : State) (k : Nat) (st : PortState) : ∃ ps mb, s.portTo k st = { s with ports := ps, mbxs := mb } := by
  unfold portTo
  split
  · exact ⟨_, _, rfl⟩
  · obtain ⟨mb, h⟩ := eventAll_only (s.updPort k (fun q => { q with state := st })) 0x10 (k + 2 ^ 8 * st.code)
    exact ⟨_, mb, h⟩

theorem State.trainPort_only (s : State) (k : Nat) : ∃ ps mb, s.trainPort k = { s with ports := ps, mbxs := mb } := by
  unfold trainPort
  generalize hu : s.updPort k _ = u
  obtain ⟨ps, mb, h⟩ := u.portTo_only k .training
  refine ⟨ps, mb, h.trans ?_⟩
  subst hu
  rfl

/-- A port that starts its training is training, and the others are as they were. -/
theorem State.trainPort_state (s : State) (k j : Nat) :
    ((s.trainPort k).port j).state = if j = k then .training else (s.port j).state := by
  unfold trainPort
  generalize hu : s.updPort k _ = u
  have hne : j ≠ k → u.port j = s.port j := fun h => by
    subst hu
    exact (port_updPort_ite ..).trans (if_neg h)
  unfold portTo
  split
  next hst =>
    by_cases hj : j = k
    · rw [if_pos hj, hj, hst]
    · rw [if_neg hj, hne hj]
  next =>
    obtain ⟨mb, h⟩ := eventAll_only (u.updPort k (fun q => { q with state := PortState.training })) 0x10 (k + 2 ^ 8 * PortState.training.code)
    refine (congrArg (fun v : State => (v.port j).state) h).trans ((congrArg Port.state (u.port_updPort_ite k j (fun q => { q with state := PortState.training }))).trans ?_)
    by_cases hj : j = k
    · rw [if_pos hj, if_pos hj]
    · rw [if_neg hj, if_neg hj, hne hj]

/-- Every port of a list starts its training. -/
def State.trainPorts (s : State) (ks : List Nat) : State := ks.foldl (fun s k => s.trainPort k) s

theorem State.trainPorts_only (s : State) (ks : List Nat) : ∃ ps mb, s.trainPorts ks = { s with ports := ps, mbxs := mb } := by
  unfold trainPorts
  induction ks generalizing s with
  | nil => exact ⟨_, _, rfl⟩
  | cons k ks ih =>
    obtain ⟨ps1, mb1, h1⟩ := s.trainPort_only k
    obtain ⟨ps, mb, h⟩ := ih (s.trainPort k)
    refine ⟨ps, mb, h.trans ?_⟩
    rw [h1]

theorem State.trainPorts_training (s : State) (ks : List Nat) (j : Nat) (h : j ∈ ks ∨ (s.port j).state = .training) :
    ((s.trainPorts ks).port j).state = .training := by
  unfold trainPorts
  induction ks generalizing s with
  | nil => exact h.resolve_left (List.not_mem_nil)
  | cons k ks ih =>
    refine ih (s.trainPort k) ?_
    rw [s.trainPort_state k j]
    by_cases hj : j = k
    · exact .inr (if_pos hj)
    · rw [if_neg hj]
      exact h.imp (fun hm => (List.mem_cons.mp hm).resolve_left hj) id

/-! ### A reset and the steps after it (R442 to R445) -/

/-- What a reset keeps and clears. -/
theorem State.cleared_spec (s : State) : s.cleared.mem = State.reset.mem ∧ s.cleared.launches = [] ∧ s.cleared.ready = false ∧
    s.cleared.linkUp = false ∧ s.cleared.board.failed = false ∧ s.cleared.pending = s.pending ∧ s.cleared.tobjs.map (·.1) = s.tobjs.map (·.1) :=
  ⟨rfl, rfl, rfl, rfl, rfl, rfl, List.map_map⟩

/-- What a start has found changes the patch table and two bits of the board. -/
theorem State.booted_only (s : State) (f : BootFind) : ∃ p tb pb, s.booted f =
    { s with patch := p, nextPatch := none, board := { s.board with trimB := tb, patchB := pb } } := by
  unfold booted
  extract_lets b verified
  generalize (if verified = true then b.bootPatch else ((0, false), false)) = x
  obtain ⟨p, isB⟩ := x
  exact ⟨_, _, _, rfl⟩

/-- A start in `u` that no error stops. -/
theorem State.bootFrom_passes {u t : State} {f : BootFind} {cause : Nat} (h : bootStops f = none) (ht : u.bootFrom f cause = t) :
    t.mode = .active ∧ t.ready = u.ready ∧ t.board.step = 8 ∧ t.board.failed = u.board.failed ∧ t.board.mrdy = true ∧ t.board.lastRst = cause ∧
    t.mem = u.mem ∧ t.launches = u.launches ∧ t.tobjs = u.tobjs ∧ t.pending = u.pending ∧ (∀ k ∈ f.ports, k < 26 → (t.port k).state = .training) := by
  unfold bootFrom at ht
  rw [h] at ht
  extract_lets b s1 s2 b2 s3 at ht
  obtain ⟨p, tb, pb, hb⟩ := s1.platformEvent.booted_only f
  have h2 : s2 = { s1.platformEvent with patch := p, nextPatch := none, board := { s1.platformEvent.board with trimB := tb, patchB := pb } } := hb
  rw [s1.platformEvent_only] at h2
  have hframe : s2.mode = .active ∧ s2.ready = u.ready ∧ s2.board.failed = u.board.failed ∧ s2.board.lastRst = cause ∧ s2.mem = u.mem ∧
      s2.launches = u.launches ∧ s2.tobjs = u.tobjs ∧ s2.pending = u.pending := by
    rw [h2]
    exact ⟨rfl, rfl, rfl, rfl, rfl, rfl, rfl, rfl⟩
  obtain ⟨hmode, hready, hfailed, hcause, hmem, hlaunches, htobjs, hpending⟩ := hframe
  have htrain : t = s3.trainPorts (f.ports.filter (· < 26)) := ht.symm
  obtain ⟨ps, mb, honly⟩ := s3.trainPorts_only (f.ports.filter (· < 26))
  have honly := htrain.trans honly
  exact ⟨(congrArg State.mode honly :).trans hmode, (congrArg State.ready honly :).trans hready,
    (congrArg (fun v : State => v.board.step) honly :), (congrArg (fun v : State => v.board.failed) honly :).trans hfailed,
    (congrArg (fun v : State => v.board.mrdy) honly :), (congrArg (fun v : State => v.board.lastRst) honly :).trans hcause,
    (congrArg State.mem honly :).trans hmem, (congrArg State.launches honly :).trans hlaunches, (congrArg State.tobjs honly :).trans htobjs,
    (congrArg State.pending honly :).trans hpending,
    fun k hk hlt => htrain ▸ s3.trainPorts_training _ k (.inl (List.mem_filter.mpr ⟨hk, decide_eq_true hlt⟩))⟩

/-- A start in `u` that stops. -/
theorem State.bootFrom_stops {u t : State} {f : BootFind} {cause at_ err : Nat} (h : bootStops f = some (at_, err)) (ht : u.bootFrom f cause = t) :
    t.ready = u.ready ∧ t.board.step = at_ ∧ t.board.failed = true ∧ t.board.err = err ∧ t.board.lastRst = cause ∧ t.mem = u.mem ∧ t.tobjs = u.tobjs := by
  unfold bootFrom at ht
  rw [h] at ht
  extract_lets b s1 s2 at ht
  obtain ⟨p, tb, pb, hb⟩ := s1.platformEvent.booted_only f
  have h2 : s2 = { s1.platformEvent with patch := p, nextPatch := none, board := { s1.platformEvent.board with trimB := tb, patchB := pb } } := hb
  rw [s1.platformEvent_only] at h2
  have hframe : s2.ready = u.ready ∧ s2.board.lastRst = cause ∧ s2.mem = u.mem ∧ s2.tobjs = u.tobjs := by
    rw [h2]
    exact ⟨rfl, rfl, rfl, rfl⟩
  clear_value s2
  obtain ⟨hready, hcause, hmem, htobjs⟩ := hframe
  have honly := ht.symm.trans (platformEvent_only _)
  exact ⟨(congrArg State.ready honly :).trans hready, (congrArg (fun v : State => v.board.step) honly :), (congrArg (fun v : State => v.board.failed) honly :),
    (congrArg (fun v : State => v.board.err) honly :), (congrArg (fun v : State => v.board.lastRst) honly :).trans hcause,
    (congrArg State.mem honly :).trans hmem, (congrArg State.tobjs honly :).trans htobjs⟩

/-- A start from a state that differs from the cleared one in the board's management address at most. -/
theorem starts_of_bootFrom {s u : State} {f : BootFind} {cause : Nat} {o : Host.Outcome State Fault Refusal}
    (ho : o = .next (u.bootFrom f cause)) (hmem : u.mem = State.reset.mem) (hl : u.launches = []) (hr : u.ready = false) (hf : u.board.failed = false)
    (hp : u.pending = s.pending) (ht : u.tobjs.map (·.1) = s.tobjs.map (·.1)) : Starts o s f cause := by
  refine ⟨fun h => ?_, fun at_ err h => ?_⟩
  · obtain ⟨hmode, hready, hstep, hfailed, hmrdy, hcause, hm, hlaunches, htobjs, hpending, htrain⟩ := State.bootFrom_passes h (rfl : u.bootFrom f cause = _)
    exact ⟨_, ho, hmode, hready.trans hr, hstep, hfailed.trans hf, hmrdy, hcause, hm.trans hmem, hlaunches.trans hl,
      (congrArg (List.map (·.1)) htobjs).trans ht, hpending.trans hp, htrain⟩
  · obtain ⟨hready, hstep, hfailed, herr, hcause, hm, htobjs⟩ := State.bootFrom_stops h (rfl : u.bootFrom f cause = _)
    exact ⟨_, ho, hready.trans hr, hstep, hfailed, herr, hcause, hm.trans hmem, (congrArg (List.map (·.1)) htobjs).trans ht⟩

/-- A cold reset is a start. -/
theorem starts_of_coldReset {s : State} {f : BootFind} {cause : Nat} {o : Host.Outcome State Fault Refusal} (ho : o = .next (s.coldReset f cause)) :
    Starts o s f cause := by
  obtain ⟨hmem, hl, hr, -, hf, hp, ht⟩ := s.cleared_spec
  exact starts_of_bootFrom ho hmem hl hr hf hp ht

/-- Power is applied to a module whose switch is closed. -/
theorem starts_of_powerOn {s : State} {f : BootFind} {o : Host.Outcome State Fault Refusal} (ho : o = .next (powerOn f s))
    (hm : s.mode = .off) (hp : s.board.pprsnt = true) (hs : s.board.swOpen = false) : Starts o s f (if s.board.lastRst = 4 then 4 else 0) := by
  obtain ⟨hmem, hl, hr, -, hf, hpend, ht⟩ := s.cleared_spec
  have hgate : ¬((s.mode ≠ .off ∧ !(s.board.starting ∧ s.board.step = 0)) ∨ !s.board.pprsnt ∨ s.board.swOpen) := by
    rintro (⟨h, -⟩ | h | h)
    · exact h hm
    · rw [hp] at h; cases h
    · exact not_true_of_eq_false hs h
  have hon : powerOn f s = ({ s.cleared with board := { s.cleared.board with addr := none, receiver := none } } : State).bootFrom f
      (if s.board.lastRst = 4 then 4 else 0) := if_neg hgate
  exact starts_of_bootFrom (ho.trans (congrArg Host.Outcome.next hon)) hmem hl hr hf hpend ht

/-! ### The input switch opens (R441) -/

/-- What opening the switch leaves. -/
theorem goesDark_of_powerLost {s u : State} {trips : Nat} {held : Bool} {o : Host.Outcome State Fault Refusal} (ho : o = .next u.powerLost)
    (ht : u.time = s.time) (hh : u.board.swHeld = held) (hg : u.board.gtrips = trips) (hobj : u.tobjs.map (·.1) = s.tobjs.map (·.1)) :
    GoesDark o s trips held := by
  obtain ⟨hmem, hl, hr, hlink, -, -, hkeys⟩ := u.cleared_spec
  exact ⟨_, ho, rfl, hr, hlink, rfl, ht, hh, hg, hmem, hl, hkeys.trans hobj⟩

theorem supplyDroop_on {s : State} (h : s.mode ≠ .off) : supplyDroop s = s.addRisk 2048 := if_neg h

/-! ### Step 10 (R442) -/

theorem startupReady_spec {s t : State} (hs : s.board.starting = true) (he : s.board.exiting = false) (h9 : s.board.step = 9) (ht : startupReady s = t) :
    t.ready = true ∧ t.board = { s.board with starting := false, step := 10 } ∧ (oget t.parts 0).isSome = true ∧
    (∀ q ∈ t.ports, q.2.state ≠ .training) := by
  have hgate : ¬(!s.board.starting ∨ s.board.exiting ∨ s.board.step ≠ 9) := by
    rintro (h | h | h)
    · rw [hs] at h; cases h
    · exact not_true_of_eq_false he h
    · exact h h9
  unfold startupReady at ht
  rw [if_neg hgate] at ht
  extract_lets b s1 at ht
  have honly := ht.symm.trans s1.platformEvent_only
  have hparts : t.parts = s1.parts := (congrArg State.parts honly :)
  have hports : t.ports = s1.ports := (congrArg State.ports honly :)
  refine ⟨(congrArg State.ready honly :), (congrArg State.board honly :), ?_, fun q hq => ?_⟩
  · rw [hparts, oget_tins, if_pos rfl]
    rfl
  · rw [hports] at hq
    obtain ⟨r, -, rfl⟩ := List.mem_map.mp (List.mem_of_mem_filter hq)
    dsimp only
    split
    · exact PortState.noConfusion
    next h => exact h

/-! ### Pulses, and the slot (R455, R457) -/

theorem pulseActs_long {ticks : Nat} (acted : Bool) (h : 250 ≤ ticks) : pulseActs acted ticks = true := by
  unfold pulseActs
  rw [decide_eq_true h, Bool.true_or]

theorem pulseActs_short {ticks : Nat} {acted : Bool} (h : ticks < 25 ∨ (ticks < 250 ∧ acted = false)) : pulseActs acted ticks = false := by
  unfold pulseActs
  rw [decide_eq_false (by omega), Bool.false_or]
  rcases h with h | ⟨-, h⟩
  · rw [decide_eq_false (by omega), Bool.false_and]
  · rw [h, Bool.and_false]

theorem rstAssert_short {ticks : Nat} {acted : Bool} (f : BootFind) (s : State) (h : ticks < 25) : rstAssert acted ticks f s = s :=
  if_neg fun hp => not_true_of_eq_false (pulseActs_short (.inl h)) hp.1

theorem rstAssert_long {ticks : Nat} (acted : Bool) (f : BootFind) {s : State} (h : 250 ≤ ticks) (hm : s.mode ≠ .off) :
    rstAssert acted ticks f s = s.coldReset f 1 := if_pos ⟨pulseActs_long acted h, hm⟩

theorem coldResetStart_due {f : BootFind} {t cause : Nat} {s : State} (hr : s.board.resetAt = some (t, cause)) (hm : s.mode ≠ .off) :
    coldResetStart f s = s.coldReset f cause := by
  unfold coldResetStart
  rw [hr]
  exact if_neg hm

theorem coldResetStart_none {f : BootFind} {s : State} (hr : s.board.resetAt = none) : coldResetStart f s = s := by
  unfold coldResetStart
  rw [hr]

/-- The board of a module that has just been put into its slot. -/
def State.inserted (s : State) : State := { s with board := { s.board with pprsnt := true, swOpen := s.board.swHeld, lastRst := 0 } }

theorem pprsntMake_absent {f : BootFind} {s : State} (hp : s.board.pprsnt = false) : pprsntMake f s = powerOn f s.inserted :=
  if_neg (not_true_of_eq_false hp)

theorem thermalSwitchOpen_stopped {s : State} (hm : s.mode ≠ .off) (ht : s.board.thermal.isSome = true) :
    thermalSwitchOpen s = ({ s with board := { s.board with swHeld := true } } : State).powerLost := by
  refine if_neg ?_
  rintro (h | h)
  · exact hm h
  · rw [Option.isNone_iff_eq_none] at h
    rw [h] at ht
    cases ht

theorem thermalSwitchOpen_running {s : State} (ht : s.board.thermal = none) : thermalSwitchOpen s = s := if_pos (.inr (by rw [ht]; rfl))

theorem thermalStop_first {s : State} (hm : s.mode ≠ .off) (ht : s.board.thermal = none) :
    thermalStop s = { s with board := { s.board with thermal := some s.time }, health := { s.health with failed := true } } := by
  refine if_neg ?_
  rintro (h | h)
  · exact hm h
  · rw [ht] at h
    cases h

theorem guardReclose_closes {s : State} (hm : s.mode = .off) (ho : s.board.swOpen = true) (hh : s.board.swHeld = false) (hp : s.board.pprsnt = true) :
    guardReclose s = { s with time := Max.max s.time (s.board.swSince + 80000000000), board := { s.board with swOpen := false, lastRst := 4 } } := by
  refine if_neg ?_
  rintro (h | h | h | h)
  · exact h hm
  · rw [ho] at h; cases h
  · exact not_true_of_eq_false hh h
  · rw [hp] at h; cases h

/-- Settles O60: the module starts from a cleared state, and goes dark when its input switch opens. -/
theorem startsAndStops : Obligations.StartsAndStops := by
  unfold Obligations.StartsAndStops
  refine ⟨fun f s hm hp hs => starts_of_powerOn rfl hm hp hs, fun f s hs => congrArg Host.Outcome.next (if_pos (.inr (.inr hs))),
    fun acted ticks f s => ⟨fun h => congrArg Host.Outcome.next (rstAssert_short f s h),
      fun h hm => starts_of_coldReset (congrArg Host.Outcome.next (rstAssert_long acted f h hm))⟩,
    fun f t cause s hr hm => starts_of_coldReset (congrArg Host.Outcome.next (coldResetStart_due hr hm)),
    fun f s hr => congrArg Host.Outcome.next (coldResetStart_none hr), fun f s hm hp hs => ?_, fun f s hp hs => ?_,
    fun s hs he h9 => ⟨_, rfl, startupReady_spec hs he h9 rfl⟩, fun s h => congrArg Host.Outcome.next (if_pos (.inr (.inr h))), fun s hm => ⟨?_, ?_, ?_, ?_, ?_⟩,
    fun s hm => ⟨fun ho hh hp => congrArg Host.Outcome.next (guardReclose_closes hm ho hh hp), fun hh => congrArg Host.Outcome.next (if_pos (.inr (.inr (.inl hh)))),
      congrArg Host.Outcome.next (if_neg (not_not.mpr hm))⟩, fun k fitted s hk => congrArg Host.Outcome.next (if_neg (Nat.not_le.mpr hk))⟩
  · exact starts_of_powerOn (s := s.inserted) (congrArg Host.Outcome.next (pprsntMake_absent hp)) hm rfl hs
  · refine congrArg Host.Outcome.next ((pprsntMake_absent hp).trans ((if_pos (.inr (.inr hs))).trans ?_))
    unfold State.inserted
    rw [hs]
  · exact goesDark_of_powerLost (congrArg Host.Outcome.next (if_neg hm)) rfl (decide_eq_decide.mpr Nat.succ_le_succ_iff) rfl rfl
  · exact goesDark_of_powerLost (u := { s with board := { s.board with pprsnt := false } }) (congrArg Host.Outcome.next (if_neg hm)) rfl rfl rfl rfl
  · exact fun ht => goesDark_of_powerLost (congrArg Host.Outcome.next (thermalSwitchOpen_stopped hm ht)) rfl rfl rfl rfl
  · exact fun ht => ⟨congrArg Host.Outcome.next (thermalStop_first hm ht), congrArg Host.Outcome.next (thermalSwitchOpen_running ht)⟩
  · exact congrArg Host.Outcome.next (supplyDroop_on hm)

end Sys2Proof.Machine
end

section
/-! Power saving (R430, R431, R437 to R440, R455): Retain and Off of an engine, Standby and Sleep of the module. -/

namespace Sys2Proof.Machine

/-! ### Engines (R430, R431) -/

section
variable {k : EngineKind} {n : Nat} {s : State} (hp : s.powered = true) (hn : n < engineCount k)
include hp hn

theorem coreEnterRetain_idle (hr : (s.enginePower k n).1 = .run) (hb : s.engineBusy k n = false) (ht : (s.enginePower k n).2 + 160000 ≤ s.time) :
    coreEnterRetain k n s = (if k = .core then s.forgetTiles n else s).setEngine k n .retain ((if k = .core then s.forgetTiles n else s).time - 160000) := by
  refine if_neg ?_
  rintro (h | h | h | h | h)
  · rw [hp] at h; cases h
  · omega
  · exact h hr
  · exact not_true_of_eq_false hb h
  · exact Nat.not_lt.mpr ht h

theorem coreEnterOff_due (hr : (s.enginePower k n).1 = .retain) (hu : s.offTimeout k n ≠ 0xFFFFFFFF)
    (ht : (s.enginePower k n).2 + 8000 * s.offTimeout k n ≤ s.time) : coreEnterOff k n s = s.engineOff k n := by
  refine if_neg ?_
  rintro (h | h | h | h | h)
  · rw [hp] at h; cases h
  · omega
  · exact h hr
  · exact hu h
  · exact Nat.not_lt.mpr ht h

end

theorem coreEnterRetain_busy {n : Nat} {s : State} (h : s.coreBusy n = true) : coreEnterRetain .core n s = s :=
  if_pos (.inr (.inr (.inr (.inl h))))

theorem coreEnterOff_never {n : Nat} {s : State} (h : s.offTimeout .core n = 0xFFFFFFFF) : coreEnterOff .core n s = s :=
  if_pos (.inr (.inr (.inr (.inl h))))

theorem coreWake_wanted {n : Nat} {s : State} (hp : s.powered = true) (hn : n < 128) (hr : (s.core n).power ≠ .run) (hb : s.coreBusy n = true) :
    coreWake .core n s = s.updCore n (fun c => { c with
      power := .run, workSince := s.time, offLeft := if (s.core n).power = .off then s.time else c.offLeft }) := by
  refine if_neg ?_
  rintro (h | h | h | h)
  · rw [hp] at h; cases h
  · exact absurd hn (Nat.not_lt.mpr h)
  · exact hr h
  · rw [show s.engineWanted .core n = s.coreBusy n from rfl, hb] at h; cases h

/-- A core that is powered off loses its scratchpad and nothing else of memory. -/
theorem State.rawByte_corePowerOff (s : State) (c a : Nat) :
    (s.corePowerOff c).rawByte a = if spadCore a = some c then Memory.dflt a else s.rawByte a := by
  refine (tget_filter_key Memory.dflt (fun a => spadCore a != some c) s.mem a).trans ?_
  by_cases h : spadCore a = some c
  · rw [if_pos h, h, bne_self_eq_false, if_neg Bool.false_ne_true]
  · rw [if_neg h, if_pos (bne_iff_ne.mpr h)]
    rfl

/-- An idle engine retires and a core wakes for work. -/
theorem engines_save {n : Nat} {s : State} (hp : s.powered = true) :
    (n < 32 → (s.fox n).power = .run → (s.fox n).item = none → (s.fox n).workSince + 160000 ≤ s.time →
      coreEnterRetain .fox n s = s.setFox n { s.fox n with power := .retain, workSince := s.time - 160000 }) ∧
    (n < 4 → (s.prim n).power = .run → (s.prim n).job = none → (s.prim n).workSince + 160000 ≤ s.time →
      coreEnterRetain .prim n s = s.setPrim n { s.prim n with power := .retain, workSince := s.time - 160000 }) ∧
    (n < 32 → (s.fox n).power = .retain → s.offTimeout .fox n ≠ 0xFFFFFFFF → (s.fox n).workSince + 8000 * s.offTimeout .fox n ≤ s.time →
      coreEnterOff .fox n s = s.setFox n { s.fox n with power := .off, lab := [] }) :=
  ⟨fun hn hr hi ht => coreEnterRetain_idle hp hn hr (by rw [State.engineBusy, hi]; rfl) ht,
    fun hn hr hj ht => coreEnterRetain_idle hp hn hr (by rw [State.engineBusy, hj]; rfl) ht, fun hn hr hu ht => coreEnterOff_due hp hn hr hu ht⟩

/-! ### Standby (R437, R438) -/

/-- The core enters Retain, where it runs. -/
def State.restCore (s : State) (c : Nat) : State :=
  if (s.core c).power = .run then (s.forgetTiles c).setEngine .core c .retain (s.time - 160000) else s

theorem State.restCore_only (s : State) (c : Nat) : ∃ cs ts n, s.restCore c = { s with cores := cs, tiles := ts, fresh := n } := by
  unfold restCore
  split
  · exact ⟨_, _, _, rfl⟩
  · exact ⟨_, _, _, rfl⟩

theorem State.restCore_rests (s : State) (c j : Nat) (h : j = c ∨ (s.core j).power ≠ .run) : ((s.restCore c).core j).power ≠ .run := by
  unfold restCore
  split
  next hr =>
    have hcore : ((s.forgetTiles c).setEngine .core c .retain (s.time - 160000)).core j =
        if j = c then { s.core c with power := .retain, workSince := s.time - 160000 } else s.core j := tget_tput ..
    rw [hcore]
    split
    next => exact Power.noConfusion
    next hj => exact h.resolve_left hj
  next hr =>
    rcases h with rfl | h
    · exact hr
    · exact h

/-- Cores enter Retain in order. -/
def State.restCores (s : State) (cs : List Nat) : State := cs.foldl State.restCore s

theorem State.restCores_only (s : State) (l : List Nat) : ∃ cs ts n, s.restCores l = { s with cores := cs, tiles := ts, fresh := n } := by
  unfold restCores
  induction l generalizing s with
  | nil => exact ⟨_, _, _, rfl⟩
  | cons c l ih =>
    obtain ⟨cs1, ts1, n1, h1⟩ := s.restCore_only c
    obtain ⟨cs, ts, n, h⟩ := ih (s.restCore c)
    refine ⟨cs, ts, n, h.trans ?_⟩
    rw [h1]

theorem State.restCores_rest (s : State) (l : List Nat) (j : Nat) (h : j ∈ l ∨ (s.core j).power ≠ .run) : ((s.restCores l).core j).power ≠ .run := by
  unfold restCores
  induction l generalizing s with
  | nil => exact h.resolve_left List.not_mem_nil
  | cons c l ih =>
    refine ih _ ?_
    by_cases hj : j = c
    · exact .inr (s.restCore_rests c j (.inl hj))
    · exact h.imp (fun hm => (List.mem_cons.mp hm).resolve_left hj) fun hn => s.restCore_rests c j (.inr hn)

theorem State.complete_journal (s : State) (c : Cmd) (st : Nat) (d : Bool) (r0 r1 : Nat) : (s.complete c st d r0 r1).journal =
    s.journal.filter (fun d => !(d.m == c.m && d.slot == c.slot && d.tag == c.tag)) := by
  unfold complete
  extract_lets j c'
  split
  · rfl
  · exact foldl_keeps State.journal (fun (s : State) (w : Watch) => s.due c'.m (abortEntry w 0 (if st = 3 then 0 else 1))) (fun _ _ => rfl) c'.watch _

/-- A transition is over, its command not yet answered. -/
def State.transOver (s : State) : State := { s with board := { s.board with trans := none } }

theorem State.endTrans_cmd {s : State} {m tag x : Nat} (h : s.board.trans = some (m, tag, x)) (st : Nat) :
    (s.cmd m tag = none → s.endTrans st = s.transOver) ∧ (∀ c, s.cmd m tag = some c → s.endTrans st = s.transOver.complete c st false 0 0) := by
  have hcmd : s.transOver.cmd m tag = s.cmd m tag := rfl
  unfold endTrans
  rw [h]
  refine ⟨fun hn => ?_, fun c hc => ?_⟩
  · rw [← hcmd] at hn
    unfold transOver at hn ⊢
    dsimp only
    rw [hn]
  · rw [← hcmd] at hc
    unfold transOver at hc ⊢
    dsimp only
    rw [hc]

/-- The command of a transition that ends leaves the journal; nothing else changes but the mailboxes and the board. -/
theorem State.endTrans_spec {s : State} {m tag x : Nat} (h : s.board.trans = some (m, tag, x)) (st : Nat) :
    (s.endTrans st).board = { s.board with trans := none } ∧ (s.endTrans st).mem = s.mem ∧ (s.endTrans st).mode = s.mode ∧
    (s.endTrans st).cores = s.cores ∧ (s.endTrans st).time = s.time ∧ s.cmd m tag ∉ (s.endTrans st).journal.map some := by
  obtain ⟨hnone, hsome⟩ := endTrans_cmd h st
  cases hc : s.cmd m tag with
  | none =>
    rw [hnone hc]
    exact ⟨rfl, rfl, rfl, rfl, rfl, fun hm => by obtain ⟨c, -, hn⟩ := List.mem_map.mp hm; cases hn⟩
  | some c =>
    rw [hsome c hc]
    have hframe := s.transOver.complete_sansMail c st false 0 0
    refine ⟨(congrArg State.board hframe :), (congrArg State.mem hframe :), (congrArg State.mode hframe :), (congrArg State.cores hframe :),
      (congrArg State.time hframe :), fun hm => ?_⟩
    obtain ⟨d, hd, he⟩ := List.mem_map.mp hm
    rw [complete_journal, Option.some.inj he, List.mem_filter] at hd
    have hself : (!(c.m == c.m && c.slot == c.slot && c.tag == c.tag)) = false := by
      rw [beq_self_eq_true, beq_self_eq_true, beq_self_eq_true]
      rfl
    exact not_true_of_eq_false hself hd.2

theorem standbyEntryDone_working {s : State} (h : s.workRuns = true) : standbyEntryDone s = s := by
  unfold standbyEntryDone
  split
  · rfl
  · exact if_pos (.inr h)

/-- The module is in Standby once no work runs. -/
theorem standbyEntryDone_spec {m tag : Nat} {s t : State} (hm : s.mode = .active) (ht : s.board.trans = some (m, tag, 1)) (hw : s.workRuns = false)
    (hd : standbyEntryDone s = t) : t.mode = .standby ∧ t.board.trans = none ∧ t.mem = s.mem ∧ (∀ c < 128, (t.core c).power ≠ .run) ∧
      s.cmd m tag ∉ t.journal.map some := by
  have hgate : ¬(s.mode ≠ .active ∨ s.workRuns) := by
    rintro (h | h)
    · exact h hm
    · exact not_true_of_eq_false hw h
  have hentry : t = (({ s.restCores (List.range 128) with mode := .standby } : State).platformEvent).endTrans 0 := by
    refine hd.symm.trans ?_
    unfold standbyEntryDone
    rw [ht]
    exact (if_neg hgate).trans (if_pos rfl)
  have hrest := s.restCores_rest (List.range 128)
  obtain ⟨cs, ts, n, honly⟩ := s.restCores_only (List.range 128)
  generalize s.restCores (List.range 128) = u at hentry hrest honly
  have hevent := ({ u with mode := .standby } : State).platformEvent_only
  generalize ({ u with mode := .standby } : State).platformEvent = v at hentry hevent
  have hboard : v.board = s.board := (congrArg State.board hevent :).trans (congrArg State.board honly :)
  have hjournal : v.journal = s.journal := (congrArg State.journal hevent :).trans (congrArg State.journal honly :)
  obtain ⟨hb, hmem, hmode, hcores, -, hj⟩ := State.endTrans_spec (hboard ▸ ht) 0
  rw [← hentry] at hb hmem hmode hcores hj
  refine ⟨hmode.trans (congrArg State.mode hevent :), congrArg Board.trans hb, hmem.trans ((congrArg State.mem hevent :).trans (congrArg State.mem honly :)),
    fun c hc => ?_, ?_⟩
  · have hcore : t.core c = u.core c := congrArg (fun l => tget (fun _ => Core.reset) l c) (hcores.trans (congrArg State.cores hevent :))
    rw [hcore]
    exact hrest c (.inl (List.mem_range.mpr hc))
  · have hcmd : v.cmd m tag = s.cmd m tag := congrArg (List.find? (fun c : Cmd => decide (c.m = m ∧ c.tag = tag))) hjournal
    exact hcmd ▸ hj

/-! ### Sleep (R438 to R440) -/

theorem sleepEntry_enters {m tag : Nat} {s : State} (hm : s.mode = .standby) (ht : s.board.trans = some (m, tag, 2)) (hr : s.sleepRefused = false)
    (h0 : 128 ≤ s.granulesFree 0) (h1 : 128 ≤ s.granulesFree 1) :
    sleepEntry s = { s.endTrans 0 with board := { (s.endTrans 0).board with sleepAt := some (s.endTrans 0).time } } := by
  unfold sleepEntry
  rw [ht]
  refine (if_neg ?_).trans ((if_neg (not_true_of_eq_false hr)).trans (if_neg ?_))
  · rintro (h | h)
    · exact h hm
    · exact h rfl
  · omega

theorem sleepEntry_refused {m tag : Nat} {s : State} (hm : s.mode = .standby) (ht : s.board.trans = some (m, tag, 2)) (hr : s.sleepRefused = true) :
    sleepEntry s = s.endTrans 0x16 := by
  unfold sleepEntry
  rw [ht]
  refine (if_neg ?_).trans (if_pos hr)
  rintro (h | h)
  · exact h hm
  · exact h rfl

/-- Cores are powered off in order. -/
def State.coresOff (s : State) (cs : List Nat) : State := cs.foldl State.corePowerOff s

theorem State.coresOff_board (s : State) (cs : List Nat) : (s.coresOff cs).board = s.board :=
  foldl_keeps State.board State.corePowerOff (fun _ _ => rfl) cs s

theorem State.coresOff_dflt (s : State) (cs : List Nat) (a : Nat) (h : s.rawByte a = Memory.dflt a ∨ ∃ c ∈ cs, spadCore a = some c) :
    (s.coresOff cs).rawByte a = Memory.dflt a := by
  unfold coresOff
  induction cs generalizing s with
  | nil =>
    obtain h | ⟨c, hc, -⟩ := h
    · exact h
    · exact absurd hc List.not_mem_nil
  | cons c cs ih =>
    refine ih _ ?_
    rw [s.rawByte_corePowerOff]
    split
    · exact .inl rfl
    next hne =>
      refine h.imp id fun ⟨d, hd, ha⟩ => ⟨d, (List.mem_cons.mp hd).resolve_left fun he => ?_, ha⟩
      exact hne (he ▸ ha)

theorem State.coresOff_outside (s : State) (cs : List Nat) (a : Nat) (h : spadCore a = none) : (s.coresOff cs).rawByte a = s.rawByte a :=
  foldl_keeps (fun t : State => t.rawByte a) State.corePowerOff
    (fun t c => (t.rawByte_corePowerOff c a).trans (if_neg (by rw [h]; exact (Option.some_ne_none c).symm))) cs s

/-- No scratchpad lies in DRAM. -/
theorem spadCore_of_inDram {a : Nat} (h : inDram a = true) : spadCore a = none := by
  have hlt : a < 2 * 2 ^ 38 := of_decide_eq_true h
  refine if_neg ?_
  rintro ⟨h1, -⟩
  have h0 : 0x10000000000 + 0 * 0x1000000 ≤ a := h1
  omega

/-- The power-down itself: the cores lose their scratchpads, and the board is as told. -/
theorem State.domainsDown_spec (s : State) : s.domainsDown.mem = (s.coresOff (List.range 128)).mem ∧ s.domainsDown.board = s.board := by
  have h := s.coresOff_board (List.range 128)
  unfold domainsDown
  unfold coresOff at h ⊢
  generalize List.range 128 = cs at h ⊢
  exact ⟨rfl, h⟩

theorem sleepPowerDown_spec {s t : State} (hm : s.mode = .standby) (hs : s.board.sleepAt.isSome = true) (hd : sleepPowerDown s = t) :
    t.mode = .sleep ∧ t.ready = false ∧ t.linkUp = false ∧ t.mem = (s.coresOff (List.range 128)).mem ∧
    t.board = (if s.board.wake = true then { s.board with sleepAt := none, mrdy := false, wake := false, starting := true, exiting := true, step := 2 }
      else { s.board with sleepAt := none, mrdy := false }) := by
  have hgate : ¬(s.mode ≠ .standby ∨ s.board.sleepAt.isNone) := by
    rintro (h | h)
    · exact h hm
    · rw [Option.isNone_iff_eq_none] at h
      rw [h] at hs
      cases hs
  obtain ⟨hmem, hboard⟩ := s.domainsDown_spec
  unfold sleepPowerDown at hd
  rw [if_neg hgate] at hd
  generalize s.domainsDown = u at hd hmem hboard
  extract_lets u0 b v w at hd
  have honly : w = { v with sent := w.sent, fresh := w.fresh } := v.platformEvent_only
  have hw : w.mode = .sleep ∧ w.ready = false ∧ w.linkUp = false ∧ w.mem = u.mem ∧ w.board = { s.board with sleepAt := none, mrdy := false } :=
    ⟨(congrArg State.mode honly :), (congrArg State.ready honly :), (congrArg State.linkUp honly :), (congrArg State.mem honly :),
      (congrArg State.board honly :).trans (congrArg (fun b : Board => { b with sleepAt := none, mrdy := false }) hboard)⟩
  clear_value w
  obtain ⟨hmode, hready, hlink, hwm, hwb⟩ := hw
  have hwake : w.board.wake = s.board.wake := (congrArg Board.wake hwb :)
  subst hd
  by_cases hk : s.board.wake = true
  · rw [if_pos (hwake.trans hk), if_pos hk]
    exact ⟨hmode, hready, hlink, hwm.trans hmem,
      congrArg (fun b : Board => { b with wake := false, starting := true, exiting := true, step := 2 }) hwb⟩
  · rw [if_neg (hwake ▸ hk), if_neg hk]
    exact ⟨hmode, hready, hlink, hwm.trans hmem, hwb⟩

/-! ### Wake requests and the exit from Sleep (R440, R455) -/

theorem wakeRequest_sleeping {s : State} (hm : s.mode = .sleep) (hs : s.board.starting = false) (hf : s.board.failed = false) :
    s.wakeRequest = s.beginExit := if_pos ⟨hm, by rw [hs]; rfl, by rw [hf]; rfl⟩

theorem wakeRequest_latched {s : State} (hm : s.mode ≠ .sleep) (hs : s.board.sleepAt.isSome = true) :
    s.wakeRequest = { s with board := { s.board with wake := true } } := (if_neg fun h => hm h.1).trans (if_pos hs)

/-- An exit from Sleep that no error stops. -/
theorem sleepExitDone_passes {f : BootFind} {s t : State} (hm : s.mode = .sleep) (he : s.board.exiting = true) (h : bootStops f = none)
    (ht : sleepExitDone f s = t) : t.mode = .standby ∧ t.ready = true ∧ t.linkUp = (!s.board.perst) ∧ t.board.step = 10 ∧ t.board.starting = false ∧
      t.board.lastRst = 5 ∧ t.board.mrdy = true ∧ t.mem = s.mem := by
  have hgate : ¬(s.mode ≠ .sleep ∨ !s.board.exiting) := by
    rintro (h | h)
    · exact h hm
    · rw [he] at h; cases h
  obtain ⟨-, hboard, hmem, -⟩ := s.endpointReset_spec
  unfold sleepExitDone at ht
  rw [if_neg hgate, h] at ht
  generalize s.endpointReset = e at ht hboard hmem
  obtain ⟨p, tb, pb, hb⟩ := e.booted_only f
  generalize e.booted f = u at ht hb
  extract_lets u0 b v at ht
  obtain ⟨ps, mb, htrain⟩ := v.trainPorts_only (f.ports.filter (· < 26))
  have hevent : t = (v.trainPorts (f.ports.filter (· < 26))).platformEvent := ht.symm
  have honly := hevent.trans (State.platformEvent_only _)
  generalize v.trainPorts (f.ports.filter (· < 26)) = w at htrain honly
  have hperst : u.board.perst = s.board.perst := (congrArg (fun x : State => x.board.perst) hb :).trans (congrArg Board.perst hboard :)
  exact ⟨(congrArg State.mode honly :).trans (congrArg State.mode htrain :), (congrArg State.ready honly :).trans (congrArg State.ready htrain :),
    ((congrArg State.linkUp honly :).trans (congrArg State.linkUp htrain :)).trans (congrArg (! ·) hperst),
    (congrArg (fun x : State => x.board.step) honly :).trans (congrArg (fun x : State => x.board.step) htrain :),
    (congrArg (fun x : State => x.board.starting) honly :).trans (congrArg (fun x : State => x.board.starting) htrain :),
    (congrArg (fun x : State => x.board.lastRst) honly :).trans (congrArg (fun x : State => x.board.lastRst) htrain :),
    (congrArg (fun x : State => x.board.mrdy) honly :).trans (congrArg (fun x : State => x.board.mrdy) htrain :),
    (congrArg State.mem honly :).trans ((congrArg State.mem htrain :).trans ((congrArg State.mem hb :).trans hmem))⟩

/-- An exit from Sleep that fails. -/
theorem sleepExitDone_stops {f : BootFind} {s t : State} {at_ err : Nat} (hm : s.mode = .sleep) (he : s.board.exiting = true)
    (h : bootStops f = some (at_, err)) (ht : sleepExitDone f s = t) :
    t.board.failed = true ∧ t.board.err = err ∧ t.board.step = at_ ∧ t.ready = s.ready := by
  have hgate : ¬(s.mode ≠ .sleep ∨ !s.board.exiting) := by
    rintro (h | h)
    · exact h hm
    · rw [he] at h; cases h
  unfold sleepExitDone at ht
  rw [if_neg hgate, h] at ht
  obtain ⟨p, tb, pb, hb⟩ := s.booted_only f
  have honly := ht.symm.trans (State.platformEvent_only _)
  exact ⟨(congrArg (fun x : State => x.board.failed) honly :), (congrArg (fun x : State => x.board.err) honly :),
    (congrArg (fun x : State => x.board.step) honly :), (congrArg State.ready honly :).trans (congrArg State.ready hb :)⟩

/-- Settles O59: engines retire and wake, and the module enters and leaves Standby and Sleep. -/
theorem powerSaving : Obligations.PowerSaving := by
  unfold Obligations.PowerSaving
  refine ⟨fun n s hp => ?_, fun m tag s hm => ⟨fun hw => congrArg Host.Outcome.next (standbyEntryDone_working hw),
      fun ht hw => ⟨_, rfl, standbyEntryDone_spec hm ht hw rfl⟩⟩, fun m tag s hm ht hr h0 h1 => ?_, fun m tag s hm ht hr => ?_,
    fun s hm hs => ?_, fun acted ticks s => ⟨fun h => ?_, fun h hm hs hf => ?_, fun h hm hs => ?_⟩,
    fun f s hm he => ⟨fun h => ⟨_, rfl, sleepExitDone_passes hm he h rfl⟩, fun at_ err h => ⟨_, rfl, sleepExitDone_stops hm he h rfl⟩⟩⟩
  · obtain ⟨hfox, hprim, hoff⟩ := engines_save (n := n) hp
    refine ⟨fun h1 h2 h3 h4 => congrArg Host.Outcome.next (hfox h1 h2 h3 h4), fun h1 h2 h3 h4 => congrArg Host.Outcome.next (hprim h1 h2 h3 h4),
      fun h => congrArg Host.Outcome.next (coreEnterRetain_busy h), fun hn hr hb ht => ?_,
      fun h1 h2 h3 h4 => congrArg Host.Outcome.next (hoff h1 h2 h3 h4), fun h => congrArg Host.Outcome.next (coreEnterOff_never h), fun hn hr hu ht => ?_,
      fun hn hr hb => ?_⟩
    · exact ⟨_, congrArg Host.Outcome.next (coreEnterRetain_idle (k := .core) hp hn hr hb ht), State.core_updCore .., rfl, rfl⟩
    · have hcore : ∀ a, (s.engineOff .core n).rawByte a = _ := s.rawByte_corePowerOff n
      exact ⟨_, congrArg Host.Outcome.next (coreEnterOff_due (k := .core) hp hn hr hu ht), fun a ha => (hcore a).trans (if_pos ha),
        fun a ha => (hcore a).trans (if_neg ha), rfl⟩
    · exact ⟨_, congrArg Host.Outcome.next (coreWake_wanted hp hn hr hb), rfl, State.core_updCore ..⟩
  · obtain ⟨hb, -, hmode, -, htime, -⟩ := State.endTrans_spec ht 0
    refine ⟨_, congrArg Host.Outcome.next (sleepEntry_enters hm ht hr h0 h1), ?_, hmode.trans hm⟩
    dsimp only
    rw [hb, htime]
  · obtain ⟨hb, -, hmode, -⟩ := State.endTrans_spec ht 0x16
    exact ⟨_, congrArg Host.Outcome.next (sleepEntry_refused hm ht hr), hb, hmode.trans hm⟩
  · obtain ⟨hmode, hready, hlink, hmem, hboard⟩ := sleepPowerDown_spec hm hs rfl
    have hraw : ∀ a, (sleepPowerDown s).rawByte a = (s.coresOff (List.range 128)).rawByte a := fun a =>
      congrArg (fun l => tget Memory.dflt l a) hmem
    exact ⟨_, rfl, hmode, hready, hlink, fun a ha => (hraw a).trans (s.coresOff_outside _ a (spadCore_of_inDram ha)),
      fun a c hc ha => (hraw a).trans (s.coresOff_dflt _ a (.inr ⟨c, List.mem_range.mpr hc, ha⟩)), hboard⟩
  · exact congrArg Host.Outcome.next (if_neg (not_true_of_eq_false (pulseActs_short h)))
  · exact congrArg Host.Outcome.next ((if_pos (pulseActs_long acted h)).trans (wakeRequest_sleeping hm hs hf))
  · exact congrArg Host.Outcome.next ((if_pos (pulseActs_long acted h)).trans (wakeRequest_latched hm hs))

end Sys2Proof.Machine
end

section
/-! The flash store's blocks and rows (R233 to R241): what placing, moving, erasing and retiring them changes. -/

namespace Sys2Proof.Machine

/-! ### Blocks -/

theorem Flash.blk_setBlk (f : Flash) (b j : Nat) (v : FlashBlk) : (f.setBlk b v).blk j = if j = b then v else f.blk j := tget_tput ..

theorem Flash.blk_setBlk_self (f : Flash) (b : Nat) (v : FlashBlk) : (f.setBlk b v).blk b = v := tget_tput_self ..

/-- What the mapping of logical blocks depends on. -/
theorem Flash.phys_congr {f g : Flash} (h : g.map = f.map) (d q : Nat) : g.phys d q = f.phys d q := by
  unfold phys
  rw [h]

theorem Flash.logical_congr {f g : Flash} (h : g.map = f.map) (b : Nat) : g.logical b = f.logical b :=
  congrArg (fun p : Nat → Option Nat => (List.range dieLogs).find? (fun q => p q = some b)) (funext fun q => phys_congr h (dieOfBlk b) q)

theorem Flash.stripeBlks_congr {f g : Flash} (h : g.map = f.map) (sb : Nat) : g.stripeBlks sb = f.stripeBlks sb :=
  congrArg (fun p : Nat → Nat → Option Nat => (List.range 32).filterMap (fun pos => (p (dieAt (stripeAt sb).1 pos) (stripeAt sb).2).map (fun b => (pos, b))))
    (funext fun d => funext fun q => phys_congr h d q)

/-- A logical block that the map names lies where it says. -/
theorem Flash.phys_of_map {f : Flash} {d q : Nat} {m : Option Nat} (h : oget f.map (d * dieLogs + q) = some m) : f.phys d q = m := by
  unfold phys
  rw [h]

theorem Flash.isBad_eq (f : Flash) (b : Nat) : f.isBad b = (Config.factoryBad.contains b || (f.blk b).bad) := rfl

/-! ### Wear: what programming and erasing change -/

/-- What placing, moving and erasing rows never touches. -/
def Flash.rest (f : Flash) : Flash := { f with credit := 0, progBytes := 0, strs := [], head := none, blks := [] }

/-- `g` is `f` after rows were placed, moved or erased: no block becomes bad or good, no scrub is counted, and no erase is taken back. -/
structure Flash.Wears (f g : Flash) : Prop where
  rest : g.rest = f.rest
  bad : ∀ b, (g.blk b).bad = (f.blk b).bad
  scrub : ∀ b, (g.blk b).scrub = (f.blk b).scrub
  erases : ∀ b, (f.blk b).erases ≤ (g.blk b).erases

namespace Flash.Wears

theorem refl (f : Flash) : f.Wears f := ⟨rfl, fun _ => rfl, fun _ => rfl, fun _ => Nat.le_refl _⟩

theorem trans {f g h : Flash} (hfg : f.Wears g) (hgh : g.Wears h) : f.Wears h :=
  ⟨hgh.rest.trans hfg.rest, fun b => (hgh.bad b).trans (hfg.bad b), fun b => (hgh.scrub b).trans (hfg.scrub b),
    fun b => Nat.le_trans (hfg.erases b) (hgh.erases b)⟩

/-- Rows and accounts change, blocks do not. -/
theorem of_blks {f g : Flash} (hr : g.rest = f.rest) (hb : g.blks = f.blks) : f.Wears g := by
  have hblk : ∀ b, g.blk b = f.blk b := fun b => congrArg (fun t => tget (fun _ => FlashBlk.reset) t b) hb
  exact ⟨hr, fun b => by rw [hblk], fun b => by rw [hblk], fun b => by rw [hblk]⟩

theorem setBlk {f : Flash} {b : Nat} {v : FlashBlk} (hb : v.bad = (f.blk b).bad) (hs : v.scrub = (f.blk b).scrub)
    (he : (f.blk b).erases ≤ v.erases) : f.Wears (f.setBlk b v) := by
  refine ⟨rfl, fun j => ?_, fun j => ?_, fun j => ?_⟩ <;> rw [Flash.blk_setBlk] <;> by_cases hj : j = b
  · rw [if_pos hj, hb, hj]
  · rw [if_neg hj]
  · rw [if_pos hj, hs, hj]
  · rw [if_neg hj]
  · rw [if_pos hj, hj]
    exact he
  · rw [if_neg hj]

theorem foldl {α : Type} {step : Flash → α → Flash} (h : ∀ f a, Flash.Wears f (step f a)) (l : List α) (f : Flash) : f.Wears (l.foldl step f) := by
  induction l generalizing f with
  | nil => exact refl f
  | cons a l ih => exact (h f a).trans (ih _)

/-- Wear goes on under another map. -/
theorem withMap {f g : Flash} (h : f.Wears g) (m : Tab (Option Nat)) : Flash.Wears { f with map := m } { g with map := m } :=
  ⟨congrArg (fun x : Flash => { x with map := m }) h.rest, h.bad, h.scrub, h.erases⟩

theorem map {f g : Flash} (h : f.Wears g) : g.map = f.map := (congrArg Flash.map h.rest :)
theorem retry {f g : Flash} (h : f.Wears g) : g.retry = f.retry := (congrArg Flash.retry h.rest :)
theorem isBad {f g : Flash} (h : f.Wears g) (b : Nat) : g.isBad b = f.isBad b := by rw [Flash.isBad_eq, Flash.isBad_eq, h.bad]

end Flash.Wears

theorem Flash.wears_spend (f : Flash) (k : Nat) : f.Wears (f.spend k) := .of_blks rfl rfl

theorem Flash.wears_programmed (f : Flash) (sb : Nat) : f.Wears (f.programmed sb) :=
  .foldl (step := fun f (b : Nat × Nat) => f.setBlk b.2 { f.blk b.2 with reads := 0, valid := true })
    (fun _ _ => .setBlk rfl rfl (Nat.le_refl _)) (f.stripeBlks sb) f

theorem Flash.wears_place (o : FlashOwner) (fuel n : Nat) (f : Flash) : f.Wears (Flash.place o fuel n f) := by
  induction fuel generalizing n f with
  | zero => exact .refl f
  | succ fuel ih =>
    unfold place
    split
    · exact .refl f
    · split
      next h st _ =>
        extract_lets k
        refine .trans ?_ (.trans (wears_spend ..) (.trans (wears_programmed ..) (ih ..)))
        exact .of_blks rfl rfl
      next =>
        split
        · exact wears_spend ..
        · refine .trans ?_ (ih ..)
          exact .of_blks rfl rfl

theorem Flash.wears_program (f : Flash) (o : FlashOwner) (n : Nat) : f.Wears (f.program o n) := wears_place ..

theorem Flash.wears_moveStripe (f : Flash) (sb : Nat) : f.Wears (f.moveStripe sb) := by
  unfold moveStripe
  split
  · exact .refl f
  next st _ =>
    extract_lets g
    have hg : f.Wears g := .of_blks rfl rfl
    exact hg.trans ((Flash.Wears.foldl (fun f e => wears_program ..) st.live g).trans (wears_spend ..))

theorem Flash.wears_erase (f : Flash) (b : Nat) : f.Wears (f.erase b) := .setBlk rfl rfl (Nat.le_succ _)

/-- An erased block's count rises by one. -/
theorem Flash.blk_erase_self (f : Flash) (b : Nat) : ((f.erase b).blk b).erases = (f.blk b).erases + 1 := congrArg FlashBlk.erases (blk_setBlk_self ..)

/-- Erasing blocks in order raises the count of each. -/
theorem Flash.erases_foldl (l : List (Nat × Nat)) (f : Flash) {e : Nat × Nat} (he : e ∈ l) :
    (f.blk e.2).erases + 1 ≤ ((l.foldl (fun f b => f.erase b.2) f).blk e.2).erases := by
  induction l generalizing f with
  | nil => exact absurd he List.not_mem_nil
  | cons a l ih =>
    have hrest : ∀ g : Flash, g.Wears (l.foldl (fun f b => f.erase b.2) g) := fun g => .foldl (fun f b => wears_erase f b.2) l g
    rcases List.mem_cons.mp he with rfl | hm
    · exact (f.blk_erase_self e.2) ▸ (hrest (f.erase e.2)).erases e.2
    · exact Nat.le_trans (Nat.succ_le_succ ((f.wears_erase a.2).erases e.2)) (ih (f.erase a.2) hm)

/-- A stripe block whose rows were moved and that was erased is free, and each of its blocks counts an erase. -/
theorem Flash.collected_spec (f : Flash) (sb : Nat) : oget ((f.moveStripe sb).eraseStripe sb).strs sb = none ∧
    ∀ e ∈ f.stripeBlks sb, (f.blk e.2).erases + 1 ≤ (((f.moveStripe sb).eraseStripe sb).blk e.2).erases := by
  have hmove := f.wears_moveStripe sb
  refine ⟨(oget_tdrop ..).trans (if_pos rfl), fun e he => ?_⟩
  have hmem : e ∈ (f.moveStripe sb).stripeBlks sb := by rw [stripeBlks_congr hmove.map]; exact he
  exact Nat.le_trans (Nat.succ_le_succ (hmove.erases e.2)) (erases_foldl _ (f.moveStripe sb) hmem)

/-! ### Relocation (R238) -/

theorem Flash.relocateBy_unmapped {f : Flash} {b : Nat} (h : f.logical b = none) (pick : Nat → Nat → Option Nat) : f.relocateBy b pick = f := by
  unfold relocateBy
  rw [h]

/-- Pages that a relocation of block `b` copies. -/
def Flash.copied (f : Flash) (b : Nat) : Nat := match f.stripeOf b with
  | some (_, st) => st.valid
  | none => 0

/-- The map once logical block `q` of block `b`'s die lies in `sp`. -/
def Flash.remapped (f : Flash) (b q : Nat) (sp : Option Nat) : Tab (Option Nat) := tins f.map (dieOfBlk b * dieLogs + q) sp

/-- A relocation to a spare `sp`. -/
theorem Flash.relocateBy_spare {f : Flash} {b q sp : Nat} {pick : Nat → Nat → Option Nat} (hq : f.logical b = some q) (hp : pick (dieOfBlk b) q = some sp) :
    f.relocateBy b pick = (((({ f with map := f.remapped b q (some sp) } : Flash).spend (f.copied b)).journal).setBlk sp
      { f.blk sp with valid := (f.blk b).valid, reads := 0 }).erase b := by
  unfold relocateBy
  rw [hq]
  dsimp only
  rw [hp]
  rfl

/-- A relocated logical block lies in the spare. -/
theorem Flash.relocateBy_phys {f : Flash} {b q sp : Nat} {pick : Nat → Nat → Option Nat} (hq : f.logical b = some q) (hp : pick (dieOfBlk b) q = some sp) :
    (f.relocateBy b pick).phys (dieOfBlk b) q = some sp := by
  rw [relocateBy_spare hq hp]
  exact phys_of_map ((oget_tins ..).trans (if_pos rfl))

/-- A relocation is wear under another map. -/
theorem Flash.wears_relocateBy (f : Flash) (b : Nat) (pick : Nat → Nat → Option Nat) :
    ∃ m, Flash.Wears { f with map := m } (f.relocateBy b pick) := by
  cases hq : f.logical b with
  | none =>
    rw [relocateBy_unmapped hq]
    exact ⟨f.map, .refl f⟩
  | some q =>
    cases hp : pick (dieOfBlk b) q with
    | some sp =>
      rw [relocateBy_spare hq hp]
      refine ⟨f.remapped b q (some sp), ?_⟩
      refine ((wears_spend _ (f.copied b)).trans (wears_spend _ 2)).trans ?_
      refine .trans ?_ (wears_erase ..)
      exact .setBlk rfl rfl (Nat.le_refl _)
    | none =>
      have hmove := f.wears_moveStripe (dieGroup (dieOfBlk b) * dieLogs + q)
      unfold relocateBy
      rw [hq]
      dsimp only
      rw [hp]
      dsimp only
      split
      · exact ⟨_, hmove.withMap _⟩
      · exact ⟨f.map, hmove⟩

theorem Flash.wears_relocate (f : Flash) (b : Nat) : ∃ m, Flash.Wears { f with map := m } (f.relocate b) := f.wears_relocateBy b f.spareFor

/-! ### Blocks that become bad (R236, R238) -/

theorem Flash.growBad_bad {f : Flash} {b : Nat} (h : f.isBad b = true) : f.growBad b = f := if_pos h

/-- A block that becomes bad counts, leaves the spare capacity and keeps its erase count; no other block becomes good. -/
theorem Flash.growBad_spec {f : Flash} {b : Nat} (h : f.isBad b = false) :
    (f.growBad b).grown = f.grown + 1 ∧ (f.growBad b).failed = f.failed ∧ (f.growBad b).dieErases = f.dieErases ∧ (f.growBad b).retry = f.retry ∧
    (f.growBad b).lost = f.lost ∧ (f.growBad b).spareLost = f.spareLost + (if dieOfBlk b ∈ f.failed then 0 else blkBytes) ∧
    (f.growBad b).isBad b = true ∧ ((f.growBad b).blk b).valid = false ∧ ((f.growBad b).blk b).erases = (f.blk b).erases := by
  generalize hg : f.growBad b = g
  unfold growBad at hg
  rw [if_neg (not_true_of_eq_false h)] at hg
  extract_lets v lost f1 f2 at hg
  obtain ⟨m, hw⟩ := f1.wears_relocate b
  have h1 : (f1.blk b).bad = true := congrArg FlashBlk.bad (blk_setBlk_self ..)
  have h2 : (f2.blk b).bad = true := (hw.bad b).trans h1
  have hrest := congrArg (fun x : Flash => { x with degr := false }) hw.rest
  have hlost : lost = if dieOfBlk b ∈ f.failed then 0 else blkBytes := by
    unfold lost
    simp only [List.contains_iff_mem]
  have hself : g.blk b = { f2.blk b with erases := v.erases, valid := false } := by subst hg; exact blk_setBlk_self ..
  have hgrown : g.grown = f2.grown ∧ g.failed = f2.failed ∧ g.dieErases = f2.dieErases ∧ g.retry = f2.retry ∧ g.lost = f2.lost ∧
      g.spareLost = f2.spareLost := by subst hg; exact ⟨rfl, rfl, rfl, rfl, rfl, rfl⟩
  obtain ⟨h3, h4, h5, h6, h7, h8⟩ := hgrown
  refine ⟨h3.trans (congrArg Flash.grown hrest :), h4.trans (congrArg Flash.failed hrest :), h5.trans (congrArg Flash.dieErases hrest :),
    h6.trans (congrArg Flash.retry hrest :), h7.trans (congrArg Flash.lost hrest :), ?_, ?_, congrArg FlashBlk.valid hself,
    (congrArg FlashBlk.erases hself :)⟩
  · rw [← hlost]
    exact h8.trans (congrArg Flash.spareLost hrest :)
  · rw [isBad_eq, hself]
    exact (congrArg (Config.factoryBad.contains b || ·) h2).trans (Bool.or_true _)

/-- A block is bad once it was to become bad. -/
theorem Flash.growBad_isBad (f : Flash) (b : Nat) : (f.growBad b).isBad b = true := by
  cases h : f.isBad b with
  | true => rw [growBad_bad h, h]
  | false =>
    obtain ⟨-, -, -, -, -, -, hbad, -⟩ := growBad_spec h
    exact hbad

theorem Flash.growBad_counts (f : Flash) (b : Nat) : (f.growBad b).retry = f.retry ∧ (f.growBad b).lost = f.lost := by
  cases h : f.isBad b with
  | true => rw [growBad_bad h]; exact ⟨rfl, rfl⟩
  | false =>
    obtain ⟨-, -, -, hretry, hlost, -⟩ := growBad_spec h
    exact ⟨hretry, hlost⟩

/-! ### Blocks that are read through (R239, R240) -/

/-- The store before a check relocates a worn block. -/
def Flash.readThrough (f : Flash) (b retries : Nat) : Flash :=
  { f.addReads b (match f.stripeOf b with
    | some (_, st) => st.rows
    | none => 0) with retry := f.retry + BitVec.ofNat 64 retries }

theorem Flash.checked_eq (f : Flash) (b errs retries : Nat) : f.checked b errs retries =
    if 72 < errs ∨ 0 < retries then (f.readThrough b retries).relocate b else f.readThrough b retries := rfl

theorem Flash.wears_addReads (f : Flash) (b n : Nat) : f.Wears (f.addReads b n) := .setBlk rfl rfl (Nat.le_refl _)

theorem Flash.wears_readThrough (f : Flash) (b retries : Nat) :
    Flash.Wears { f with retry := f.retry + BitVec.ofNat 64 retries } (f.readThrough b retries) := by
  have h := f.wears_addReads b (match f.stripeOf b with
    | some (_, st) => st.rows
    | none => 0)
  exact ⟨congrArg (fun x : Flash => { x with retry := f.retry + BitVec.ofNat 64 retries }) h.rest, h.bad, h.scrub, h.erases⟩

/-- A check is wear under another map, with its retries counted. -/
theorem Flash.wears_checked (f : Flash) (b errs retries : Nat) :
    ∃ m, Flash.Wears { f with map := m, retry := f.retry + BitVec.ofNat 64 retries } (f.checked b errs retries) := by
  have hread := f.wears_readThrough b retries
  rw [checked_eq]
  split
  · obtain ⟨m, hm⟩ := (f.readThrough b retries).wears_relocate b
    exact ⟨m, (hread.withMap m).trans hm⟩
  · exact ⟨f.map, hread⟩

/-- A check that finds nothing leaves the block where it is. -/
theorem Flash.checked_sound (f : Flash) {b errs retries : Nat} (he : errs ≤ 72) (hr : retries = 0) :
    (f.checked b errs retries).map = f.map ∧ (f.checked b errs retries).progBytes = f.progBytes := by
  rw [checked_eq, if_neg (by omega)]
  exact ⟨rfl, rfl⟩

/-- The spare of a plane depends on the map and the bad blocks. -/
theorem Flash.spareFor_congr {f g : Flash} (hm : g.map = f.map) (hb : ∀ b, g.isBad b = f.isBad b) (d q : Nat) : g.spareFor d q = f.spareFor d q := by
  unfold spareFor
  simp only [phys_congr hm, hb]

/-- A worn block moves to a spare. -/
theorem Flash.checked_worn {f : Flash} {b errs retries q sp : Nat} (h : 72 < errs ∨ 0 < retries) (hq : f.logical b = some q)
    (hsp : f.spareFor (dieOfBlk b) q = some sp) : (f.checked b errs retries).phys (dieOfBlk b) q = some sp := by
  have hread := f.wears_readThrough b retries
  rw [checked_eq, if_pos h]
  exact relocateBy_phys ((logical_congr hread.map b).trans hq) ((spareFor_congr hread.map hread.isBad ..).trans hsp)

end Sys2Proof.Machine
end

section
/-! The events of the flash store (R202, R233 to R241, R245 to R249): relocation, failures, rebuild, checks, levelling and collection. -/

namespace Sys2Proof.Machine

/-! ### The controller reads a block (R236) -/

theorem State.readBlk_flash (s : State) (b : Nat) : ∃ rs, (s.readBlk b).flash = { s.flash with reads := rs } := ⟨_, rfl⟩

theorem flashRelocate_unmapped {s : State} {b dst : Nat} (h : s.flash.logical b = none) :
    exec (.flashRelocate b dst) s = .next (s.readBlk b) := by
  have hl : (s.readBlk b).flash.logical b = none := h
  exact congrArg Host.Outcome.next (congrArg (fun g => { s.readBlk b with flash := g }) (Flash.relocateBy_unmapped hl _))

/-- What a relocation to a spare programs, and where the block's data then lies. -/
theorem Flash.relocateBy_spec {f : Flash} {b q sp sb : Nat} {st : Stripe} {pick : Nat → Nat → Option Nat} (hq : f.logical b = some q)
    (hp : pick (dieOfBlk b) q = some sp) (hst : f.stripeOf b = some (sb, st)) : (f.relocateBy b pick).phys (dieOfBlk b) q = some sp ∧
    (f.relocateBy b pick).strs = f.strs ∧
    (f.relocateBy b pick).progBytes = f.progBytes + BitVec.ofNat 64 (16384 * st.valid) + BitVec.ofNat 64 (16384 * 2) ∧
    (f.relocateBy b pick).credit = f.credit - 16384 * st.valid - 16384 * 2 ∧ ((f.relocateBy b pick).blk b).erases = (f.blk b).erases + 1 := by
  have hn : f.copied b = st.valid := by
    unfold copied
    rw [hst]
  refine ⟨relocateBy_phys hq hp, ?_⟩
  rw [relocateBy_spare hq hp, hn]
  refine ⟨rfl, rfl, rfl, (blk_erase_self ..).trans (congrArg (· + 1) ?_)⟩
  rw [blk_setBlk]
  split
  next h => rw [h]
  next => rfl

theorem flashRelocate_spec {s : State} {b dst q sp sb : Nat} {st : Stripe} (hq : s.flash.logical b = some q)
    (hp : s.flash.spareAt (dieOfBlk b) q dst = some sp) (hst : s.flash.stripeOf b = some (sb, st)) :
    ∃ t, exec (.flashRelocate b dst) s = .next t ∧ t.flash.phys (dieOfBlk b) q = some sp ∧ t.flash.strs = s.flash.strs ∧ t.mem = s.mem ∧
      t.flash.progBytes = s.flash.progBytes + BitVec.ofNat 64 (16384 * st.valid) + BitVec.ofNat 64 (16384 * 2) ∧
      t.flash.credit = s.flash.credit - 16384 * st.valid - 16384 * 2 ∧ (t.flash.blk b).erases = (s.flash.blk b).erases + 1 := by
  obtain ⟨h1, h2, h3, h4, h5⟩ := Flash.relocateBy_spec (f := (s.readBlk b).flash) (pick := fun d q => (s.readBlk b).flash.spareAt d q dst) hq hp hst
  exact ⟨_, rfl, h1, h2, rfl, h3, h4, h5⟩

/-! ### Failed programs and erases (R237, R238) -/

theorem programFailure_bad {s : State} {b : Nat} (h : s.flash.isBad b = true) : exec (.programFailure b) s = .next s :=
  congrArg Host.Outcome.next (congrArg (fun g => { s with flash := g }) (Flash.growBad_bad h))

theorem programFailure_spec {s : State} {b : Nat} (h : s.flash.isBad b = false) : ∃ t, exec (.programFailure b) s = .next t ∧ t.mem = s.mem ∧
    t.flash.grown = s.flash.grown + 1 ∧ t.flash.isBad b = true ∧ (t.flash.blk b).valid = false ∧ (t.flash.blk b).erases = (s.flash.blk b).erases ∧
    t.flash.failed = s.flash.failed ∧ t.flash.spareLost = s.flash.spareLost + (if dieOfBlk b ∈ s.flash.failed then 0 else blkBytes) := by
  obtain ⟨hgrown, hfailed, -, -, -, hspare, hbad, hvalid, herases⟩ := Flash.growBad_spec h
  exact ⟨_, rfl, rfl, hgrown, hbad, hvalid, herases, hfailed, hspare⟩

/-! ### A die fails (R237) -/

/-- What the damage of an owner never touches. -/
def State.sansOwned (s : State) : State := { s with tobjs := [], wpkgs := [], fsnaps := [] }

theorem State.damage_sansOwned (s : State) (o : FlashOwner) : (s.damage o).sansOwned = s.sansOwned := by
  unfold damage
  split <;> rfl

/-- Damage of some owners. -/
def State.damages (s : State) (os : List FlashOwner) : State := os.foldl (fun s o => s.damage o) s

theorem State.damages_sansOwned (s : State) (os : List FlashOwner) : (s.damages os).sansOwned = s.sansOwned :=
  foldl_keeps State.sansOwned (fun (s : State) o => s.damage o) (fun _ _ => damage_sansOwned ..) os s

/-- An object stays, is damaged where it was named, and stays damaged. -/
theorem State.damage_tobj {s : State} {id : Nat} {x : Tobj} (hx : oget s.tobjs id = some x) (o : FlashOwner) :
    ∃ y, oget (s.damage o).tobjs id = some y ∧ (x.damaged = true ∨ o = .tobj id → y.damaged = true) := by
  cases o with
  | tobj j =>
    by_cases hj : id = j
    · subst hj
      exact ⟨_, oget_oupd_self hx _, fun _ => rfl⟩
    · refine ⟨x, (oget_oupd_ne _ _ hj).trans hx, fun h => h.resolve_right fun he => hj (FlashOwner.tobj.inj he).symm⟩
  | wpkg j => exact ⟨x, hx, fun h => h.resolve_right FlashOwner.noConfusion⟩
  | snap j => exact ⟨x, hx, fun h => h.resolve_right FlashOwner.noConfusion⟩

theorem State.damages_tobj {s : State} {id : Nat} {x : Tobj} (hx : oget s.tobjs id = some x) (os : List FlashOwner) :
    ∃ y, oget (s.damages os).tobjs id = some y ∧ (x.damaged = true ∨ FlashOwner.tobj id ∈ os → y.damaged = true) := by
  unfold damages
  induction os generalizing s x with
  | nil => exact ⟨x, hx, fun h => h.resolve_right List.not_mem_nil⟩
  | cons o os ih =>
    obtain ⟨y, hy, hdam⟩ := damage_tobj hx o
    obtain ⟨z, hz, hdam'⟩ := ih hy
    refine ⟨z, hz, fun h => hdam' ?_⟩
    rcases h with h | h
    · exact .inl (hdam (.inl h))
    · rcases List.mem_cons.mp h with h | h
      · exact .inl (hdam (.inr h.symm))
      · exact .inr h

/-- Codewords lost change the store's count and the risk only. -/
theorem State.loseCodewords_only (s : State) (n : Nat) :
    ∃ l h, s.loseCodewords n = { s with flash := { s.flash with lost := l }, health := h } := ⟨_, _, rfl⟩

theorem Flash.failDie_spec (f : Flash) (d : Nat) : (f.failDie d).failed = f.failed ++ [d] ∧ tget (fun _ => 0) (f.failDie d).left d = f.dieData d ∧
    (f.failDie d).blks = f.blks ∧ (f.failDie d).lost = f.lost ∧ (f.failDie d).dieErases = f.dieErases :=
  ⟨rfl, tget_tput_self .., rfl, rfl, rfl⟩

/-- The stripe blocks with rows on die `d` and on another die of its group that is not rewritten yet. -/
def Flash.doubled (f : Flash) (d : Nat) : List (Nat × Stripe) := (f.otherFailed d).flatMap (fun e => f.onBoth d e)

/-- The owners of rows in those. -/
def Flash.doubledOwners (f : Flash) (d : Nat) : List FlashOwner := (f.doubled d).flatMap (fun e => e.2.live.map (·.1))

theorem State.dieFails_gone {s : State} {d : Nat} (h : d ∈ s.flash.failed ∨ 512 ≤ d) : s.dieFails d = s :=
  if_pos (h.imp List.contains_iff_mem.mpr id)

/-- A die that fails: the owners of doubly hit rows are damaged, and the store fails the die. -/
theorem State.dieFails_spec {s : State} {d : Nat} (hd : d < 512) (hf : d ∉ s.flash.failed) :
    ∃ l h, s.dieFails d = { s.damages (s.flash.doubledOwners d) with flash := Flash.failDie { s.flash with lost := l } d, health := h } ∧
      (s.flash.doubled d = [] → l = s.flash.lost) := by
  have hgate : ¬(s.flash.failed.contains d ∨ 512 ≤ d) := by
    rintro (h | h)
    · exact hf (List.contains_iff_mem.mp h)
    · omega
  generalize ht : s.dieFails d = t
  unfold dieFails at ht
  rw [if_neg hgate] at ht
  extract_lets both s1 s2 at ht
  have hflash : s1.flash = s.flash := (congrArg State.flash (s.damages_sansOwned (s.flash.doubledOwners d)) :)
  have hdam : s1 = s.damages (s.flash.doubledOwners d) := rfl
  have h2 : ∃ l h, s2 = { s1 with flash := { s1.flash with lost := l }, health := h } ∧ (both = [] → l = s1.flash.lost) := by
    unfold s2
    split
    · exact ⟨_, _, rfl, fun _ => rfl⟩
    next hne =>
      obtain ⟨l, h, hl⟩ := s1.loseCodewords_only (8 * (both.map (fun e => e.2.valid)).foldl (· + ·) 0)
      exact ⟨l, h, hl, fun he => absurd he hne⟩
  obtain ⟨l, h, h2, hl⟩ := h2
  clear_value s2
  subst h2
  refine ⟨l, h, ht.symm.trans ?_, fun he => (hl he).trans (congrArg Flash.lost hflash)⟩
  clear_value s1
  subst hdam
  unfold updFlash
  dsimp only
  rw [hflash]

/-- The third failed erase of a die in a day fails the die. -/
theorem eraseFailure_spec {s : State} {b : Nat} (hb : s.flash.isBad b = false) :
    let n := (s.flash.dieErases.filter (fun e => decide (e.1 = dieOfBlk b ∧ s.time < e.2 + 86400 * 8000000000))).length
    ∃ t, exec (.eraseFailure b) s = .next t ∧ t.mem = s.mem ∧ t.flash.isBad b = true ∧
      t.flash.dieErases = (dieOfBlk b, s.time) :: s.flash.dieErases ∧ (n < 2 → t.flash.failed = s.flash.failed) ∧
      (2 ≤ n → dieOfBlk b < 512 → dieOfBlk b ∈ t.flash.failed) := by
  intro n
  obtain ⟨-, hfailed, -, -, -, -, hbad, -⟩ := Flash.growBad_spec hb
  generalize hu : s.updFlash (fun f => { f.growBad b with dieErases := (dieOfBlk b, s.time) :: f.dieErases }) = u
  have hflash : u.flash = { s.flash.growBad b with dieErases := (dieOfBlk b, s.time) :: s.flash.dieErases } := by rw [← hu]; rfl
  have hmem : u.mem = s.mem := by rw [← hu]; rfl
  have hcount : (u.flash.dieErases.filter (fun e => decide (e.1 = dieOfBlk b ∧ s.time < e.2 + dayTime))).length = n + 1 := by
    rw [hflash]
    refine (congrArg List.length (List.filter_cons_of_pos ?_)).trans (List.length_cons ..)
    have hday : 0 < dayTime := by decide
    exact decide_eq_true ⟨rfl, Nat.lt_add_of_pos_right hday⟩
  have htime : u.time = s.time := by rw [← hu]; rfl
  have hexec : exec (.eraseFailure b) s = .next (if 3 ≤ n + 1 then u.dieFails (dieOfBlk b) else u) := by
    rw [← hcount, ← hu]
    rfl
  have hub : u.flash.isBad b = true := by rw [hflash]; exact hbad
  have huf : u.flash.failed = s.flash.failed := by rw [hflash]; exact hfailed
  have hue : u.flash.dieErases = (dieOfBlk b, s.time) :: s.flash.dieErases := by rw [hflash]
  refine ⟨_, hexec, ?_⟩
  by_cases hn : 2 ≤ n
  · rw [if_pos (by omega)]
    by_cases hgone : dieOfBlk b ∈ u.flash.failed ∨ 512 ≤ dieOfBlk b
    · rw [State.dieFails_gone hgone]
      exact ⟨hmem, hub, hue, fun h => absurd hn (by omega), fun _ hlt => hgone.resolve_right (by omega)⟩
    · obtain ⟨hin, hlt⟩ := not_or.mp hgone
      obtain ⟨l, h, heq, -⟩ := State.dieFails_spec (Nat.lt_of_not_le hlt) hin
      have hdm : (u.damages (u.flash.doubledOwners (dieOfBlk b))).mem = u.mem := (congrArg State.mem (u.damages_sansOwned _) :)
      obtain ⟨hf, -, hblks, -, he⟩ := Flash.failDie_spec { u.flash with lost := l } (dieOfBlk b)
      rw [heq]
      refine ⟨hdm.trans hmem, ?_, he.trans hue, fun h => absurd hn (by omega), fun _ _ => ?_⟩
      · refine Eq.trans ?_ hub
        exact congrArg (fun t => Config.factoryBad.contains b || (tget (fun _ => FlashBlk.reset) t b).bad) hblks
      · exact hf ▸ List.mem_append_right _ (List.mem_singleton_self _)
  · rw [if_neg (by omega)]
    exact ⟨hmem, hub, hue, fun _ => huf, fun h => absurd h hn⟩

theorem dieFailed_spec {s : State} {d : Nat} (hd : d < 512) (hf : d ∉ s.flash.failed) :
    ∃ t, exec (.dieFailed d) s = .next t ∧ t.mem = s.mem ∧ t.flash.failed = s.flash.failed ++ [d] ∧
      tget (fun _ => 0) t.flash.left d = s.flash.dieData d ∧ t.flash.blks = s.flash.blks ∧
      (s.flash.otherFailed d = [] → t.tobjs = s.tobjs ∧ t.wpkgs = s.wpkgs ∧ t.fsnaps = s.fsnaps ∧ t.flash.lost = s.flash.lost) ∧
      (∀ e sb st id k o, e ∈ s.flash.otherFailed d → (sb, st) ∈ s.flash.onBoth d e → (FlashOwner.tobj id, k) ∈ st.live → oget s.tobjs id = some o →
        ∃ o', oget t.tobjs id = some o' ∧ o'.damaged = true) := by
  obtain ⟨l, h, heq, hl⟩ := State.dieFails_spec hd hf
  have hdm : (s.damages (s.flash.doubledOwners d)).mem = s.mem := (congrArg State.mem (s.damages_sansOwned _) :)
  obtain ⟨h1, h2, h3, h4, -⟩ := Flash.failDie_spec { s.flash with lost := l } d
  refine ⟨_, congrArg Host.Outcome.next heq, hdm, h1, h2, h3, fun hnone => ?_, fun e sb st id k o he hboth hlive ho => ?_⟩
  · have hdoubled : s.flash.doubled d = [] := by
      unfold Flash.doubled
      rw [hnone]
      rfl
    have howners : s.damages (s.flash.doubledOwners d) = s := by
      unfold Flash.doubledOwners
      rw [hdoubled]
      rfl
    exact ⟨(congrArg State.tobjs howners :), (congrArg State.wpkgs howners :), (congrArg State.fsnaps howners :), h4.trans (hl hdoubled)⟩
  · obtain ⟨y, hy, hdam⟩ := State.damages_tobj ho (s.flash.doubledOwners d)
    refine ⟨y, hy, hdam (.inr ?_)⟩
    exact List.mem_flatMap.mpr ⟨(sb, st), List.mem_flatMap.mpr ⟨e, he, hboth⟩, List.mem_map.mpr ⟨_, hlive, rfl⟩⟩

/-! ### A failed die is rewritten (R237) -/

theorem Flash.rebuild_spec (f : Flash) (d n : Nat) : let k := Min.min n (tget (fun _ => 0) f.left d)
    tget (fun _ => 0) (f.rebuild d n).left d = tget (fun _ => 0) f.left d - k ∧
    tget (fun _ => 0) (f.rebuild d n).rebuilt d = tget (fun _ => 0) f.rebuilt d + k ∧
    (f.rebuild d n).progBytes = f.progBytes + BitVec.ofNat 64 (16384 * (31 * ceilDiv k (30 * 16384))) := by
  intro k
  unfold rebuild
  extract_lets old k' g
  have hg : tget (fun _ => 0) g.left d = old - k ∧ tget (fun _ => 0) g.rebuilt d = tget (fun _ => 0) f.rebuilt d + k ∧
      g.progBytes = f.progBytes + BitVec.ofNat 64 (16384 * (31 * ceilDiv k (30 * 16384))) := ⟨tget_tput_self .., tget_tput_self .., rfl⟩
  clear_value g
  split
  · exact hg
  · exact hg

theorem dieRebuild_whole {s : State} {d : Nat} (n : Nat) (h : d ∉ s.flash.failed) : exec (.dieRebuild d n) s = .next s :=
  congrArg Host.Outcome.next (congrArg (fun g => { s with flash := g }) (if_neg fun hc => h (List.contains_iff_mem.mp hc)))

theorem dieRebuild_failed {s : State} {d : Nat} (n : Nat) (h : d ∈ s.flash.failed) :
    exec (.dieRebuild d n) s = .next { s with flash := s.flash.rebuild d n } :=
  congrArg Host.Outcome.next (congrArg (fun g => { s with flash := g }) (if_pos (List.contains_iff_mem.mpr h)))

/-! ### Checks and the scrub (R239, R240) -/

theorem State.addRisk_flash (s : State) (n : Nat) : (s.addRisk n).flash = s.flash := by
  unfold addRisk
  rfl

theorem State.addRisk_mem (s : State) (n : Nat) : (s.addRisk n).mem = s.mem := by
  unfold addRisk
  rfl

/-- The store after a check that the read counter asked for. -/
def Flash.recounted (f : Flash) (b errs retries : Nat) : Flash :=
  (f.checked b errs retries).setBlk b { (f.checked b errs retries).blk b with reads := 0 }

theorem readCountCheck_due {s : State} {b : Nat} (errs retries : Nat) (h : 1000000 ≤ (s.flash.blk b).reads) : exec (.readCountCheck b errs retries) s =
    .next (((s.readBlk b).updFlash (fun f => f.recounted b errs retries)).addRisk retries) := congrArg Host.Outcome.next (if_pos h)

theorem readCountCheck_early {s : State} {b : Nat} (errs retries : Nat) (h : (s.flash.blk b).reads < 1000000) :
    exec (.readCountCheck b errs retries) s = .next s := congrArg Host.Outcome.next (if_neg (Nat.not_le.mpr h))

theorem readCountCheck_spec {s : State} {b : Nat} (errs retries : Nat) (h : 1000000 ≤ (s.flash.blk b).reads) :
    ∃ t, exec (.readCountCheck b errs retries) s = .next t ∧ t.mem = s.mem ∧
      (t.flash.blk b).reads = 0 ∧ t.flash.retry = s.flash.retry + BitVec.ofNat 64 retries ∧
      (errs ≤ 72 → retries = 0 → t.flash.map = s.flash.map ∧ t.flash.progBytes = s.flash.progBytes) ∧
      (∀ q sp, 72 < errs ∨ 0 < retries → s.flash.logical b = some q → s.flash.spareFor (dieOfBlk b) q = some sp →
        t.flash.phys (dieOfBlk b) q = some sp) := by
  have hexec := readCountCheck_due errs retries h
  generalize ht : ((s.readBlk b).updFlash (fun f => f.recounted b errs retries)).addRisk retries = t at hexec
  have hflash : t.flash = (s.readBlk b).flash.recounted b errs retries := by rw [← ht]; exact State.addRisk_flash ..
  have hmem : t.mem = s.mem := by rw [← ht]; exact State.addRisk_mem ..
  obtain ⟨rs, hrs⟩ := s.readBlk_flash b
  rw [hrs] at hflash
  obtain ⟨m, hw⟩ := Flash.wears_checked { s.flash with reads := rs } b errs retries
  refine ⟨t, hexec, hmem, ?_, ?_, fun he hr => ?_, fun q sp hbad hq hsp => ?_⟩
  · rw [hflash]
    exact congrArg FlashBlk.reads (Flash.blk_setBlk_self ..)
  · rw [hflash]
    exact hw.retry
  · rw [hflash]
    exact Flash.checked_sound { s.flash with reads := rs } he hr
  · rw [hflash]
    exact Flash.checked_worn (f := { s.flash with reads := rs }) hbad hq hsp

theorem retentionScrub_skips {s : State} {b : Nat} (errs retries : Nat) (h : s.flash.holdsData b = false ∨ s.flash.oldestScrub b = false) :
    exec (.retentionScrub b errs retries) s = .next s := by
  refine congrArg Host.Outcome.next (if_neg (not_true_of_eq_false ?_))
  rcases h with h | h
  · rw [h, Bool.false_and]
  · rw [h, Bool.and_false]

/-- The store with the scrub of block `b` counted. -/
def Flash.scrubMarked (f : Flash) (b : Nat) : Flash := { f.setBlk b { f.blk b with scrub := f.scrubs + 1 } with scrubs := f.scrubs + 1 }

/-- The store after a scrub of block `b`: the block its data then lies in has the scrub's number too. -/
def Flash.scrubbed (f : Flash) (b errs retries : Nat) : Flash :=
  let h := (f.scrubMarked b).checked b errs retries
  match f.logical b with
  | some q => match h.phys (dieOfBlk b) q with
    | some b => h.setBlk b { h.blk b with scrub := f.scrubs + 1 }
    | none => h
  | none => h

theorem retentionScrub_due {s : State} {b : Nat} (errs retries : Nat) (h1 : s.flash.holdsData b = true) (h2 : s.flash.oldestScrub b = true) :
    exec (.retentionScrub b errs retries) s = .next (((s.readBlk b).updFlash (fun f => f.scrubbed b errs retries)).addRisk retries) := by
  refine congrArg Host.Outcome.next ((if_pos ?_).trans ?_)
  · rw [h1, h2]
    rfl
  · rfl

/-- A scrub counts itself and its retries; a sound block stays where it is, with the scrub's number. -/
theorem Flash.scrubbed_spec (f : Flash) (b errs retries : Nat) : (f.scrubbed b errs retries).scrubs = f.scrubs + 1 ∧
    (f.scrubbed b errs retries).retry = f.retry + BitVec.ofNat 64 retries ∧
    (errs ≤ 72 → retries = 0 → (f.scrubbed b errs retries).map = f.map ∧ ((f.scrubbed b errs retries).blk b).scrub = f.scrubs + 1) := by
  obtain ⟨m, hw⟩ := (f.scrubMarked b).wears_checked b errs retries
  have hsound : errs ≤ 72 → retries = 0 → ((f.scrubMarked b).checked b errs retries).map = f.map := fun he hr =>
    (checked_sound (f.scrubMarked b) he hr).1
  generalize hg : (f.scrubMarked b).checked b errs retries = g at hw hsound
  have hmark : ((f.scrubMarked b).blk b).scrub = f.scrubs + 1 := congrArg FlashBlk.scrub (blk_setBlk_self ..)
  have hs : g.scrubs = f.scrubs + 1 := (congrArg Flash.scrubs hw.rest :)
  have hr : g.retry = f.retry + BitVec.ofNat 64 retries := hw.retry
  have hb : (g.blk b).scrub = f.scrubs + 1 := (hw.scrub b).trans hmark
  have hset : ∀ j : Nat, ((g.setBlk j { g.blk j with scrub := f.scrubs + 1 }).blk b).scrub = f.scrubs + 1 := fun j => by
    rw [blk_setBlk]
    split
    · rfl
    · exact hb
  unfold scrubbed
  rw [hg]
  dsimp only
  split
  · split
    · exact ⟨hs, hr, fun he hn => ⟨hsound he hn, hset _⟩⟩
    · exact ⟨hs, hr, fun he hn => ⟨hsound he hn, hb⟩⟩
  · exact ⟨hs, hr, fun he hn => ⟨hsound he hn, hb⟩⟩

theorem retentionScrub_spec {s : State} {b : Nat} (errs retries : Nat) (h1 : s.flash.holdsData b = true) (h2 : s.flash.oldestScrub b = true) :
    ∃ t, exec (.retentionScrub b errs retries) s = .next t ∧
      t.mem = s.mem ∧ t.flash.scrubs = s.flash.scrubs + 1 ∧ t.flash.retry = s.flash.retry + BitVec.ofNat 64 retries ∧
      (errs ≤ 72 → retries = 0 → t.flash.map = s.flash.map ∧ (t.flash.blk b).scrub = s.flash.scrubs + 1) := by
  have hexec := retentionScrub_due errs retries h1 h2
  generalize ht : ((s.readBlk b).updFlash (fun f => f.scrubbed b errs retries)).addRisk retries = t at hexec
  have hflash : t.flash = (s.readBlk b).flash.scrubbed b errs retries := by rw [← ht]; exact State.addRisk_flash ..
  have hmem : t.mem = s.mem := by rw [← ht]; exact State.addRisk_mem ..
  obtain ⟨rs, hrs⟩ := s.readBlk_flash b
  rw [hrs] at hflash
  obtain ⟨hs, hr, hsound⟩ := Flash.scrubbed_spec { s.flash with reads := rs } b errs retries
  rw [← hflash] at hs hr hsound
  exact ⟨t, hexec, hmem, hs, hr, hsound⟩

/-! ### Levelling and collection (R241) -/

theorem staticWearLevel_level {s : State} (g q : Nat) (h : s.flash.eraseRange.2 ≤ s.flash.eraseRange.1 + 300) : exec (.staticWearLevel g q) s = .next s :=
  congrArg Host.Outcome.next (congrArg (fun f => { s with flash := f }) (if_neg fun hc => Nat.not_lt.mpr h hc.1))

theorem staticWearLevel_moves {s : State} {g q : Nat} (h : s.flash.eraseRange.1 + 300 < s.flash.eraseRange.2)
    (hl : s.flash.leastWorn (fun _ => true) = some (g * dieLogs + q)) : exec (.staticWearLevel g q) s =
      .next { s with flash := (s.flash.moveStripe (g * dieLogs + q)).eraseStripe (g * dieLogs + q) } :=
  congrArg Host.Outcome.next (congrArg (fun f => { s with flash := f }) (if_pos ⟨h, hl⟩))

theorem garbageCollection_free {s : State} {g q : Nat} (h : oget s.flash.strs (g * dieLogs + q) = none) : exec (.garbageCollection g q) s = .next s :=
  congrArg Host.Outcome.next (congrArg (fun f => { s with flash := f }) (if_neg (by rw [h]; decide)))

theorem garbageCollection_moves {s : State} {g q : Nat} {st : Stripe} (h : oget s.flash.strs (g * dieLogs + q) = some st) :
    exec (.garbageCollection g q) s = .next { s with flash := (s.flash.moveStripe (g * dieLogs + q)).eraseStripe (g * dieLogs + q) } :=
  congrArg Host.Outcome.next (congrArg (fun f => { s with flash := f }) (if_pos (by rw [h]; rfl)))

theorem flashChannelPowerDown_idle {s : State} {ch : Nat} (hr : s.flash.reads = []) (hd : ch ∉ s.flash.down) :
    exec (.flashChannelPowerDown ch) s = .next { s with flash := { s.flash with down := s.flash.down ++ [ch] } } := by
  refine congrArg Host.Outcome.next (congrArg (fun f => { s with flash := f }) (if_pos ⟨hr, ?_⟩))
  rw [Bool.not_eq_true', ← Bool.not_eq_true]
  exact fun hc => hd (List.contains_iff_mem.mp hc)

end Sys2Proof.Machine
end

section
/-! What stopping a window, a launch or a run leaves of the flash store (R236, R359, R363, R372): everything but the reads under way. -/

namespace Sys2Proof.Machine

/-- The flash store without its reads under way. -/
def State.store (s : State) : Flash := { s.flash with reads := [] }

theorem State.store_of_flash {s t : State} (h : t.flash = s.flash) : t.store = s.store := congrArg (fun f : Flash => { f with reads := [] }) h

theorem State.store_of_apart {s t : State} (h : t.apart = s.apart) : t.store = s.store := State.store_of_flash (congrArg Prod.snd h)

theorem State.endRead_store (s : State) (who : FlashFor) : (s.endRead who).store = s.store := rfl

theorem State.complete_store (s : State) (c : Cmd) (st : Nat) (d : Bool) (r0 r1 : Nat) : (s.complete c st d r0 r1).store = s.store :=
  (congrArg State.store (s.complete_sansMail c st d r0 r1) :)

theorem State.write_store (s : State) (a : Nat) (bs : List Byte) : (s.write a bs).store = s.store := State.store_of_apart (s.write_apart a bs)

/-! ### Sequences and queue pairs -/

theorem State.settleQp_store (s : State) (q : Nat) : (s.settleQp q).store = s.store := by
  unfold settleQp
  split
  · split
    · dsimp only
      split
      · exact State.complete_store ..
      · rfl
    · rfl
  · rfl

theorem State.endEntry_store (s : State) (q a : Nat) (d : QpDue) : (s.endEntry q a d).store = s.store := State.settleQp_store ..

theorem State.endWait_store (s : State) (m tag st r0 : Nat) : (s.endWait m tag st r0).store = s.store := by
  unfold endWait
  split
  · exact State.complete_store ..
  · rfl

theorem State.finishSeq_store (s : State) (e st : Nat) : (s.finishSeq e st).store = s.store := by
  unfold finishSeq
  extract_lets q key ran d u
  split
  · rfl
  · rfl

theorem State.finishDone_store (s : State) (p : Nat) : (s.finishDone p).store = s.store :=
  foldl_keeps State.store (fun (s : State) e => s.finishSeq e 0) (fun u e => u.finishSeq_store e 0) _ s

theorem State.applyBound_store (s : State) (p : Nat) (b : Boundary) (log : Bool) : (s.applyBound p b log).store = s.store := by
  unfold applyBound
  split
  · split
    · exact State.endWait_store ..
    · extract_lets q u v
      refine (State.endWait_store ..).trans ?_
      unfold v
      split
      · rfl
      · rfl
  next e =>
    split
    · exact State.endWait_store ..
    · extract_lets u v
      have hu : u.store = s.store := s.finishSeq_store e 3
      refine (State.endWait_store ..).trans (.trans ?_ hu)
      unfold v
      split
      · rfl
      · rfl
  · rfl

/-- The boundary of a run that ended applies what waited (R304); nothing of the log is done again. -/
theorem State.applyBounds_store (s : State) (p : Nat) : (s.applyBounds p false).store = s.store :=
  foldl_keeps State.store (fun (s : State) b => s.applyBound p b false) (fun u b => u.applyBound_store p b false) _ (s.setBounds p _)

/-! ### Snapshots -/

theorem State.semSet_store (s : State) (die i v : Nat) : (s.semSet die i v).store = s.store := rfl

theorem State.primeSems_store (s : State) (v : Wwin) (n0 j : Nat) : (s.primeSems v n0 j).store = s.store :=
  foldl_keeps State.store _ (fun (u : State) _ => (State.semSet_store ..).trans
    (foldl_keeps State.store _ (fun _ _ => (State.semSet_store ..).trans (State.semSet_store ..)) (List.range v.nslot) u)) v.dies s

theorem State.restartWindow_store (s : State) (w n0 j : Nat) : (s.restartWindow w n0 j).store = s.store := by
  unfold restartWindow
  split
  · rfl
  · exact State.primeSems_store ..

theorem State.placeSec_store (s : State) (p step : Nat) (x : SnapSec) : (s.placeSec p step x).store = s.store := by
  unfold placeSec
  extract_lets q at_ sems _ bars
  split
  · rfl
  · refine foldl_keeps State.store _ (fun u i => ?_) _ s
    rfl
  · have h : sems.store = s.store := by
      refine foldl_keeps State.store _ (fun u i => ?_) _ s
      rfl
    refine Eq.trans (foldl_keeps State.store _ (fun u i => ?_) _ sems) h
    rfl
  · have h : bars.store = s.store := by
      refine foldl_keeps State.store _ (fun u i => ?_) _ s
      rfl
    refine Eq.trans (foldl_keeps State.store _ (fun u i => ?_) _ bars) h
    rfl
  · refine foldl_keeps State.store _ (fun u i => ?_) _ s
    dsimp only
    split
    · split
      · exact State.restartWindow_store ..
      · rfl
    · rfl
  · exact State.write_store ..
  · exact State.write_store ..
  · rfl

theorem State.placeSnap_store (s : State) (p : Nat) (x : Snap) : (s.placeSnap p x).store = s.store :=
  (foldl_keeps State.store (fun (s : State) (w : Nat × Wwin) => s.restartWindow w.1 0 0) (fun u w => u.restartWindow_store w.1 0 0) _ _).trans
    (foldl_keeps State.store (fun (s : State) y => s.placeSec p (snapStep x.id) y) (fun u y => u.placeSec_store p (snapStep x.id) y) x.secs s)

theorem State.placeQueues_store (s : State) (p : Nat) (x : Snap) : (s.placeQueues p x).store = s.store := by
  unfold placeQueues
  split
  · refine foldl_keeps State.store _ (fun u i => ?_) _ s
    rfl
  · rfl

theorem State.dropLog_store (s : State) (p : Nat) : (s.dropLog p).store = s.store := rfl

theorem State.doRestore_store (s : State) (p m tag id : Nat) : (s.doRestore p m tag id).store = s.store := by
  unfold doRestore
  extract_lets u
  have hu : u.store = s.store := s.endRead_store (.cmd m tag)
  split
  · exact hu
  · extract_lets minor
    split
    · exact (State.complete_store ..).trans hu
    next x _ =>
      split
      · exact (State.complete_store ..).trans hu
      · calc ((((((u.placeSnap p x).finishDone p).placeQueues p x).dropLog p)).complete _ 0 false 0 0).store
            = ((((u.placeSnap p x).finishDone p).placeQueues p x).dropLog p).store := State.complete_store ..
          _ = (((u.placeSnap p x).finishDone p).placeQueues p x).store := State.dropLog_store ..
          _ = ((u.placeSnap p x).finishDone p).store := State.placeQueues_store ..
          _ = (u.placeSnap p x).store := State.finishDone_store ..
          _ = u.store := State.placeSnap_store ..
          _ = s.store := hu

theorem State.endTakes_store (s : State) (p id : Nat) : (s.endTakes p id).store = s.store :=
  foldl_keeps State.store (fun (s : State) (t : Nat × Nat) => s.endWait t.1 t.2 0 id) (fun u t => u.endWait_store t.1 t.2 0 id) _ (s.setBounds p _)

theorem State.endRestores_store (s : State) (p : Nat) : (s.endRestores p).store = s.store :=
  foldl_keeps State.store (fun (s : State) (t : Nat × Nat × Nat) => s.doRestore p t.1 t.2.1 t.2.2) (fun u t => u.doRestore_store p t.1 t.2.1 t.2.2) _
    (s.setBounds p _)

theorem State.settleBounds_store (s : State) (p : Nat) : (s.settleBounds p).store = s.store := by
  unfold settleBounds
  split
  · rfl
  · extract_lets takes u
    refine (State.endRestores_store ..).trans ?_
    unfold u
    split
    · exact (State.endTakes_store ..).trans (congrArg State.store (s.takeSnap_spec p 0).1 :)
    · rfl

/-! ### A run ends (R306, R359) -/

theorem State.endRun_store (s : State) (p st : Nat) : (s.endRun p st).store = s.store := by
  unfold endRun
  split
  · rfl
  · exact (State.settleBounds_store ..).trans ((State.applyBounds_store ..).trans (State.endEntry_store ..))

theorem State.discardStep_store (s : State) (p : Nat) : (s.discardStep p).store = s.store :=
  foldl_keeps State.store (fun (s : State) (x : Nat × Launch) => s.killLaunch x.1 x.2) (fun u x => State.store_of_apart (u.killLaunch_apart x.1 x.2)) _ s

end Sys2Proof.Machine
end

section
/-! The result of a codeword's read at a rung of the ladder (R235, R236, R363, R367), and the wear governor's second (R245, R246). -/

namespace Sys2Proof.Machine

/-! ### Counting a read -/

theorem Flash.wears_countRead (f : Flash) (b n : Nat) : f.Wears (f.countRead b n) := by
  unfold countRead
  split
  · exact wears_addReads ..
  · split
    · exact wears_addReads ..
    · exact .foldl (fun f x => wears_addReads f x 1) (f.peers b) f

theorem Flash.rungOk_hard (f : Flash) {r : FlashRead} {errs : Nat} (ok : Bool) (hr : r.rung < 16) (he : errs ≤ 120) : f.rungOk r errs ok = true :=
  (if_pos hr).trans (decide_eq_true he)

theorem Flash.rungOk_soft (f : Flash) {r : FlashRead} (errs : Nat) (hr : r.rung = 16) : f.rungOk r errs true = true := by
  unfold rungOk
  rw [if_neg (by omega), hr]
  rfl

theorem Flash.rungOk_fails (f : Flash) {r : FlashRead} {errs : Nat} {ok : Bool} (h : r.rung < 16 ∧ 120 < errs ∨ 16 ≤ r.rung ∧ ok = false) :
    f.rungOk r errs ok = false := by
  unfold rungOk
  rcases h with ⟨hr, he⟩ | ⟨hr, rfl⟩
  · rw [if_pos hr]
    exact decide_eq_false (Nat.not_le.mpr he)
  · rw [if_neg (Nat.not_lt.mpr hr)]
    rfl

/-! ### The ladder's step -/

/-- The state after a read was counted at its rung, its retries told, and its block retired where it had to be rebuilt. -/
def State.decoded (s : State) (r : FlashRead) : State :=
  let u := (s.updFlash (fun f => f.countRead r.blk r.rung)).retried r
  if r.rung = 17 ∧ !u.flash.failed.contains (dieOfBlk r.blk) then u.updFlash (fun f => f.growBad r.blk) else u

section
variable {s : State} {k : Nat} {r : FlashRead} (hk : s.flash.reads[k]? = some r) (errs : Nat) (ok : Bool)
include hk

theorem flashDecode_eq (hr : r.rung < 18) : exec (.flashDecodeResult k ⟨errs, ok⟩) s = .next
    (if !s.flash.rungOk r errs ok ∧ r.rung < 17 then (s.updFlash (fun f => f.countRead r.blk r.rung)).setRung r.for_ (r.rung + 1)
      else if s.flash.rungOk r errs ok then (s.decoded r).nextRead r else (s.decoded r).codewordLost r) := by
  refine congrArg Host.Outcome.next (?_ : flashDecode k errs ok s = _)
  unfold flashDecode State.decoded
  rw [hk]
  exact if_neg (Nat.not_le.mpr hr)

theorem flashDecode_climbs {errs : Nat} {ok : Bool} (h : r.rung < 16 ∧ 120 < errs ∨ r.rung = 16 ∧ ok = false) :
    exec (.flashDecodeResult k ⟨errs, ok⟩) s = .next ((s.updFlash (fun f => f.countRead r.blk r.rung)).setRung r.for_ (r.rung + 1)) := by
  have hr : r.rung < 17 := by omega
  have hbad : s.flash.rungOk r errs ok = false := s.flash.rungOk_fails (h.imp id fun h => ⟨Nat.le_of_eq h.1.symm, h.2⟩)
  rw [flashDecode_eq hk errs ok (by omega), if_pos ⟨by rw [hbad]; rfl, hr⟩]

theorem flashDecode_goes {errs : Nat} {ok : Bool} (hr : r.rung < 18) (hok : s.flash.rungOk r errs ok = true) :
    exec (.flashDecodeResult k ⟨errs, ok⟩) s = .next ((s.decoded r).nextRead r) := by
  rw [flashDecode_eq hk errs ok hr, if_neg (fun h => absurd h.1 (by rw [hok]; decide)), if_pos hok]

theorem flashDecode_loses {errs : Nat} (hr : r.rung = 17) :
    exec (.flashDecodeResult k ⟨errs, false⟩) s = .next ((s.decoded r).codewordLost r) := by
  have hbad : s.flash.rungOk r errs false = false := s.flash.rungOk_fails (.inr ⟨by omega, rfl⟩)
  rw [flashDecode_eq hk errs false (by omega), if_neg (by omega), if_neg (by rw [hbad]; decide)]

end

/-! ### What a read tells -/

theorem State.retried_first (s : State) {r : FlashRead} (hr : r.rung = 0) : s.retried r = s := if_pos hr

theorem State.retried_later (s : State) {r : FlashRead} (hr : r.rung ≠ 0) :
    (s.retried r).mem = s.mem ∧ (s.retried r).flash = { s.flash with retry := s.flash.retry + 1 } := by
  unfold retried
  rw [if_neg hr]
  dsimp only
  have hmem := (s.updFlash (fun f => { f with retry := f.retry + 1 })).addRisk_mem 1
  have hflash := (s.updFlash (fun f => { f with retry := f.retry + 1 })).addRisk_flash 1
  split
  · exact ⟨hmem, hflash⟩
  · exact ⟨hmem, hflash⟩

/-- A good read goes on with the reads changed and nothing else of the store. -/
theorem State.nextRead_flash (s : State) (r : FlashRead) : (s.nextRead r).mem = s.mem ∧ (s.nextRead r).store = s.store := by
  unfold nextRead
  split
  · exact ⟨rfl, rfl⟩
  · exact ⟨rfl, rfl⟩

theorem State.nextRead_owner (s : State) {r : FlashRead} (h : ∀ b, r.for_ ≠ .scrub b) :
    (s.nextRead r).flash.reads.length = s.flash.reads.length ∧ (s.nextRead r).fresh = s.fresh + 1 := by
  unfold nextRead
  split
  next b hb => exact absurd hb (h b)
  · exact ⟨List.length_map .., rfl⟩

/-! ### A codeword is lost (R236, R363) -/

theorem undoTobjLoad_store (c : Cmd) (s : State) : (undoTobjLoad c s).store = s.store := by
  unfold undoTobjLoad
  split
  · rfl
  · rfl

theorem State.lostCommand_store (s : State) (c : Cmd) : (s.lostCommand c).store = s.store := by
  unfold lostCommand
  split
  · exact (State.complete_store ..).trans (undoTobjLoad_store c s)
  · exact State.complete_store ..

theorem State.spoilSnap_store (s : State) (o : Option FlashOwner) : (s.spoilSnap o).store = s.store := by
  unfold spoilSnap
  split
  · rfl
  · rfl

theorem State.damage_store (s : State) (o : FlashOwner) : (s.damage o).store = s.store := (congrArg State.store (s.damage_sansOwned o) :)

theorem State.lostScrub_store (s : State) (r : FlashRead) : (s.lostScrub r).store = s.store := by
  unfold lostScrub
  dsimp only
  split
  · exact State.damage_store ..
  · rfl

theorem State.lostWindow_store (s : State) (w : Nat) (v : Wwin) : (s.lostWindow w v).store = s.store := by
  unfold lostWindow
  extract_lets u x y
  have hx : x.store = s.store := rfl
  have hy : y.store = x.store := by
    unfold y
    split
    · exact State.complete_store ..
    · rfl
  split
  · exact (State.endRun_store ..).trans ((State.discardStep_store ..).trans (hy.trans hx))
  · exact hy.trans hx

/-- A lost codeword is counted; of the store nothing else but the reads under way changes. -/
theorem State.codewordLost_store (s : State) (r : FlashRead) : (s.codewordLost r).store = { s.store with lost := s.flash.lost + 1 } := by
  unfold codewordLost
  extract_lets u
  have hu : u.store = { s.store with lost := s.flash.lost + 1 } :=
    State.store_of_flash ((s.updFlash (fun f => { f with lost := f.lost + 1 })).addRisk_flash 4096)
  clear_value u
  refine Eq.trans ?_ hu
  split
  · split
    · exact (State.lostCommand_store ..).trans (State.spoilSnap_store ..)
    · rfl
  · split
    · split
      · rfl
      · exact State.lostWindow_store ..
    · rfl
  · exact State.lostScrub_store ..
  · exact State.spoilSnap_store ..

/-! ### What each rung's result does -/

/-- The state after a retried read's count, below the rebuild. -/
theorem State.decoded_retry (s : State) {r : FlashRead} (hr : 0 < r.rung) (h : r.rung < 17) : (s.decoded r).mem = s.mem ∧
    (s.decoded r).flash = { s.flash.countRead r.blk r.rung with retry := (s.flash.countRead r.blk r.rung).retry + 1 } := by
  have hsame : s.decoded r = (s.updFlash (fun f => f.countRead r.blk r.rung)).retried r := if_neg (by omega)
  rw [hsame]
  exact State.retried_later (s.updFlash (fun f => f.countRead r.blk r.rung)) (Nat.ne_of_gt hr)

section
variable {s : State} {k : Nat} {r : FlashRead} (hk : s.flash.reads[k]? = some r)
include hk

/-- A first hard decode that corrects counts in the block's reads only, and the reader goes on. -/
theorem flashDecode_first {errs : Nat} (ok : Bool) (hr : r.rung = 0) (he : errs ≤ 120) (hs : ∀ b, r.for_ ≠ .scrub b) :
    ∃ t, exec (.flashDecodeResult k ⟨errs, ok⟩) s = .next t ∧ t.mem = s.mem ∧ t.flash.retry = s.flash.retry ∧ t.flash.lost = s.flash.lost ∧
      t.flash.blks = (s.flash.countRead r.blk 0).blks ∧ t.flash.reads.length = s.flash.reads.length ∧ t.fresh = s.fresh + 1 := by
  have hrun : s.decoded r = s.updFlash (fun f => f.countRead r.blk 0) := by
    unfold State.decoded
    rw [State.retried_first _ hr, hr]
    exact if_neg fun h => absurd h.1 (by decide)
  have hgo := flashDecode_goes hk (by omega) (s.flash.rungOk_hard ok (by omega) he)
  rw [hrun] at hgo
  generalize hu : s.updFlash (fun f => f.countRead r.blk 0) = u at hgo
  have hflash : u.flash = s.flash.countRead r.blk 0 := by rw [← hu]; rfl
  have hmem : u.mem = s.mem := by rw [← hu]; rfl
  have hfresh : u.fresh = s.fresh := by rw [← hu]; rfl
  have hrest := (s.flash.wears_countRead r.blk 0).rest
  rw [← hflash] at hrest
  obtain ⟨hm, hstore⟩ := u.nextRead_flash r
  obtain ⟨hlen, hnext⟩ := u.nextRead_owner hs
  refine ⟨_, hgo, hm.trans hmem, ?_, ?_, ?_, ?_, hnext.trans (congrArg (· + 1) hfresh)⟩
  · exact (congrArg Flash.retry hstore :).trans (congrArg Flash.retry hrest :)
  · exact (congrArg Flash.lost hstore :).trans (congrArg Flash.lost hrest :)
  · exact (congrArg Flash.blks hstore :).trans (congrArg Flash.blks hflash : u.flash.blks = _)
  · exact hlen.trans (congrArg (fun f : Flash => f.reads.length) hrest :)

/-- A retry that corrects counts as one, and the reader goes on. -/
theorem flashDecode_retry {errs : Nat} (h : (0 < r.rung ∧ r.rung < 16 ∧ errs ≤ 120) ∨ r.rung = 16) :
    ∃ t, exec (.flashDecodeResult k ⟨errs, true⟩) s = .next t ∧ t.mem = s.mem ∧ t.flash.retry = s.flash.retry + 1 ∧ t.flash.lost = s.flash.lost := by
  have hok : s.flash.rungOk r errs true = true := by
    rcases h with ⟨-, hr, he⟩ | hr
    · exact s.flash.rungOk_hard true hr he
    · exact s.flash.rungOk_soft errs hr
  have hgo := flashDecode_goes hk (by omega) hok
  obtain ⟨hmem, hflash⟩ := s.decoded_retry (r := r) (by omega) (by omega)
  have hrest := (s.flash.wears_countRead r.blk r.rung).rest
  obtain ⟨hm, hstore⟩ := (s.decoded r).nextRead_flash r
  refine ⟨_, hgo, hm.trans hmem, ?_, ?_⟩
  · calc ((s.decoded r).nextRead r).flash.retry = (s.decoded r).flash.retry := (congrArg Flash.retry hstore :)
      _ = (s.flash.countRead r.blk r.rung).retry + 1 := congrArg Flash.retry hflash
      _ = s.flash.retry + 1 := congrArg (· + 1) (congrArg Flash.retry hrest :)
  · calc ((s.decoded r).nextRead r).flash.lost = (s.decoded r).flash.lost := (congrArg Flash.lost hstore :)
      _ = (s.flash.countRead r.blk r.rung).lost := (congrArg Flash.lost hflash :)
      _ = s.flash.lost := (congrArg Flash.lost hrest :)

/-- A rebuild that fails is a lost codeword, and its block is retired unless its die has failed. -/
theorem flashDecode_lost (errs : Nat) (hr : r.rung = 17) : ∃ t, exec (.flashDecodeResult k ⟨errs, false⟩) s = .next t ∧
    t.flash.retry = s.flash.retry + 1 ∧ t.flash.lost = s.flash.lost + 1 ∧ (dieOfBlk r.blk ∉ s.flash.failed → t.flash.isBad r.blk = true) := by
  have hlose := flashDecode_loses hk (errs := errs) hr
  have hstore := (s.decoded r).codewordLost_store r
  have hrest := (s.flash.wears_countRead r.blk r.rung).rest
  obtain ⟨-, hflash⟩ := State.retried_later (s.updFlash (fun f => f.countRead r.blk r.rung)) (r := r) (by omega)
  have hretry : ((s.updFlash (fun f => f.countRead r.blk r.rung)).retried r).flash.retry = s.flash.retry + 1 :=
    (congrArg Flash.retry hflash).trans (congrArg (· + 1) (congrArg Flash.retry hrest :))
  have hlost : ((s.updFlash (fun f => f.countRead r.blk r.rung)).retried r).flash.lost = s.flash.lost :=
    (congrArg Flash.lost hflash).trans (congrArg Flash.lost hrest :)
  have hfailed : ((s.updFlash (fun f => f.countRead r.blk r.rung)).retried r).flash.failed = s.flash.failed :=
    (congrArg Flash.failed hflash).trans (congrArg Flash.failed hrest :)
  have hdec : (s.decoded r).flash.retry = s.flash.retry + 1 ∧ (s.decoded r).flash.lost = s.flash.lost ∧
      (dieOfBlk r.blk ∉ s.flash.failed → (s.decoded r).flash.isBad r.blk = true) := by
    unfold State.decoded
    generalize (s.updFlash (fun f => f.countRead r.blk r.rung)).retried r = u at hretry hlost hfailed
    dsimp only
    split
    · obtain ⟨h1, h2⟩ := u.flash.growBad_counts r.blk
      exact ⟨h1.trans hretry, h2.trans hlost, fun _ => u.flash.growBad_isBad r.blk⟩
    next hne =>
      refine ⟨hretry, hlost, fun hd => absurd ⟨hr, ?_⟩ hne⟩
      rw [Bool.not_eq_true', ← Bool.not_eq_true, hfailed]
      exact fun hc => hd (List.contains_iff_mem.mp hc)
  obtain ⟨h1, h2, h3⟩ := hdec
  refine ⟨_, hlose, ?_, ?_, fun hd => ?_⟩
  · exact (congrArg Flash.retry hstore :).trans h1
  · exact (congrArg Flash.lost hstore :).trans (congrArg (· + 1) h2)
  · exact (congrArg (fun f : Flash => f.isBad r.blk) hstore :).trans (h3 hd)

end

/-! ### The wear governor (R245, R246) -/

theorem State.eventAll_flash (s : State) (n d : Nat) : (s.eventAll n d).flash = s.flash := by
  obtain ⟨mb, h⟩ := s.eventAll_only n d
  exact (congrArg State.flash h :)

/-- A credit of at least a quarter of the greatest is below no boundary: the greatest, of LIMIT to TIGHT, lies at 250 thousandths. -/
theorem Flash.rawRank_zero {f : Flash} (h : (creditMax : Int) ≤ 4 * f.credit) : f.rawRank = 0 := by
  unfold rawRank
  rw [List.length_eq_zero_iff, List.filter_eq_nil_iff]
  intro i _
  unfold below wearBound
  rw [decide_eq_true_iff, Nat.cast_mul]
  have hi : (((275 - 25 * (i + 1) : Nat) : Int)) ≤ 250 := by omega
  have hc : (0 : Int) ≤ creditMax := Int.natCast_nonneg _
  nlinarith

/-- With the credit high enough a module in NORMAL stays there. -/
theorem Flash.easeRank_normal {f : Flash} (hw : f.wear = 0) (h : (creditMax : Int) ≤ 4 * f.credit) :
    f.rank = 0 ∧ easeRank f f.rawRank (max f.rank f.rawRank) = 0 := by
  have hrank : f.rank = 0 := by
    unfold rank
    rw [hw]
    rfl
  refine ⟨hrank, ?_⟩
  rw [hrank, rawRank_zero h]
  rfl

theorem wearGovernorTick_spec {s : State} (hm : s.mode ≠ .off) : ∃ t, exec .wearGovernorTick s = .next t ∧ t.mem = s.mem ∧
    t.flash.credit = Min.min (s.flash.credit + accrual) creditMax ∧
    (s.flash.wear = 0 → s.flash.k = 0 → (creditMax : Int) ≤ 4 * Min.min (s.flash.credit + accrual) creditMax →
      t.flash.wear = 0 ∧ t.mbxs = s.mbxs) := by
  have hexec : exec .wearGovernorTick s = .next (wearTick s) := congrArg Host.Outcome.next (if_neg hm)
  refine ⟨_, hexec, ?_⟩
  unfold wearTick
  extract_lets f0 f r g u
  have hnormal : s.flash.wear = 0 → (creditMax : Int) ≤ 4 * Min.min (s.flash.credit + accrual) creditMax → f.rank = 0 ∧ r = 0 :=
    fun hw hc => Flash.easeRank_normal (f := f) hw hc
  split
  next hne =>
    refine ⟨State.eventAll_mem .., congrArg Flash.credit (State.eventAll_flash ..), fun hw _ hc => ?_⟩
    obtain ⟨hrank, hr⟩ := hnormal hw hc
    exact absurd (hrank.trans hr.symm) hne
  · refine ⟨rfl, rfl, fun hw _ hc => ⟨?_, rfl⟩⟩
    obtain ⟨-, hr⟩ := hnormal hw hc
    exact if_pos hr

end Sys2Proof.Machine
end

section
/-!
The events of the flash store (R234 to R249, R434). The statement of O35 writes 1600 for the logical blocks of a group's die. That is the number of
YZ960-16TC; YZ960-08TC has 800 (R232). Which of the two the module is, `Config.is16TC` says, an opaque constant without a body: O35 holds exactly
where it is true, so O35 can be neither proved nor refuted, and the equivalence is proved here.
-/

namespace Sys2Proof.Machine

theorem dieLogs_of_16TC (h : Config.is16TC = true) : dieLogs = 1600 := by
  rw [dieLogs, planeLogs, h]
  rfl

theorem dieLogs_of_08TC (h : Config.is16TC = false) : dieLogs = 800 := by
  rw [dieLogs, planeLogs, h]
  rfl

/-- In YZ960-16TC the events of the flash store are as O35 says. -/
theorem flashEvents_of_16TC (h16 : Config.is16TC = true) : Obligations.FlashEvents := by
  have hlogs := dieLogs_of_16TC h16
  refine ⟨fun s => ⟨?relocateNone, ?relocate, ?programBad, ?program, ?erase, ?dieGone, ?die, ?rebuildWhole, ?rebuild, ?checkEarly, ?check, ?scrubSkips,
    ?scrub, ?level, ?levelMoves, ?collectFree, ?collect, ?down, ?climbs, ?first, ?retry, ?lost⟩, fun s hm => wearGovernorTick_spec hm⟩
  case relocateNone => exact fun b dst h => flashRelocate_unmapped h
  case relocate => exact fun b dst q sp sb st hq hp hst => flashRelocate_spec hq hp hst
  case programBad => exact fun b h => programFailure_bad h
  case program => exact fun b h => programFailure_spec h
  case erase => exact fun b h => eraseFailure_spec h
  case dieGone => exact fun d h => congrArg Host.Outcome.next (State.dieFails_gone h)
  case die => exact fun d hd hf => dieFailed_spec hd hf
  case rebuildWhole => exact fun d n h => dieRebuild_whole n h
  case rebuild =>
    intro d n h
    exact ⟨_, dieRebuild_failed n h, rfl, s.flash.rebuild_spec d n⟩
  case checkEarly => exact fun b errs retries h => readCountCheck_early errs retries h
  case check => exact fun b errs retries h => readCountCheck_spec errs retries h
  case scrubSkips => exact fun b errs retries h => retentionScrub_skips errs retries h
  case scrub => exact fun b errs retries h1 h2 => retentionScrub_spec errs retries h1 h2
  case level => exact fun g q h => staticWearLevel_level g q h
  case levelMoves =>
    intro g q
    rw [← hlogs]
    exact fun h hl => ⟨_, staticWearLevel_moves h hl, rfl, s.flash.collected_spec _⟩
  case collectFree =>
    intro g q
    rw [← hlogs]
    exact garbageCollection_free
  case collect =>
    intro g q st
    rw [← hlogs]
    exact fun h => ⟨_, garbageCollection_moves h, rfl, s.flash.collected_spec _⟩
  case down => exact fun ch hr hd => flashChannelPowerDown_idle hr hd
  case climbs => exact fun k r errs ok hk h => flashDecode_climbs hk h
  case first => exact fun k r errs ok hk hr he hs => flashDecode_first hk ok hr he hs
  case retry => exact fun k r errs hk h => flashDecode_retry hk h
  case lost => exact fun k r errs hk hr => flashDecode_lost hk errs hr

/-- A module whose only stripe block in use is number 800: logical block 0 of group 1 in YZ960-08TC. -/
def stripe800 : State := { State.reset with flash := { Flash.factory with strs := [(800, { rows := 0, out := [], live := [] })] } }

/-- In YZ960-08TC the collection of logical block 0 of group 1 erases stripe block 800, where O35 finds nothing in use at 1600. -/
theorem not_flashEvents_of_08TC (h08 : Config.is16TC = false) : ¬ Obligations.FlashEvents := by
  rintro ⟨hall, -⟩
  obtain ⟨-, -, -, -, -, -, -, -, -, -, -, -, -, -, -, hidle, -⟩ := hall stripe800
  have hmoves := garbageCollection_moves (s := stripe800) (g := 1) (q := 0) (st := { rows := 0, out := [], live := [] }) (by rw [dieLogs_of_08TC h08]; rfl)
  have hsame := congrArg State.flash (Host.Outcome.next.inj (hmoves.symm.trans (hidle 1 0 rfl)))
  rw [dieLogs_of_08TC h08] at hsame
  obtain ⟨hnone, -⟩ := stripe800.flash.collected_spec 800
  rw [show (stripe800.flash.moveStripe 800).eraseStripe 800 = stripe800.flash from hsame] at hnone
  exact Option.some_ne_none _ hnone

/-- O35 says of the module that it is YZ960-16TC, no more and no less. -/
theorem flashEvents_iff_16TC : Obligations.FlashEvents ↔ Config.is16TC = true := by
  refine ⟨fun h => ?_, flashEvents_of_16TC⟩
  by_contra h16
  exact not_flashEvents_of_08TC (Bool.eq_false_iff.mpr h16) h

end Sys2Proof.Machine
end
